-- ==== Sys2Proof/Word.lean ====
section
/-!
DEFINITION. The word types of the device (00_scope.md R12, R13): bytes and words as bit vectors.
-/

namespace Sys2Proof

/-- A byte. -/
abbrev Byte := BitVec 8

/-- A 16-bit word. -/
abbrev Word16 := BitVec 16

/-- A 32-bit word. -/
abbrev Word32 := BitVec 32

/-- A 64-bit word. -/
abbrev Word64 := BitVec 64

end Sys2Proof
end

