-- ==== Sys2Proof/Machine/Bits.lean ====
section
/-!
DEFINITION. Bit fields, byte order and small arithmetic helpers (00_scope.md R12, R13).
-/

namespace Sys2Proof.Machine

/-- Bits [hi:lo] of a number (R12). -/
def bitsOf (w hi lo : Nat) : Nat := (w / 2 ^ lo) % 2 ^ (hi + 1 - lo)

/-- A number with its bits [hi:lo] replaced by the low bits of a value (R12). -/
def setBits (w hi lo v : Nat) : Nat :=
  w - (bitsOf w hi lo) * 2 ^ lo + (v % 2 ^ (hi + 1 - lo)) * 2 ^ lo

/-- Bit i of a number. -/
def bitOf (w i : Nat) : Bool := (w / 2 ^ i) % 2 == 1

/-- n bytes of a number, least significant first (R13). -/
def leBytes (n w : Nat) : List Byte :=
  match n with
  | 0 => []
  | n + 1 => BitVec.ofNat 8 w :: leBytes n (w / 256)

/-- The number that bytes spell, least significant first (R13). -/
def leNat (bs : List Byte) : Nat :=
  match bs with
  | [] => 0
  | b :: r => b.toNat + 256 * leNat r

/-- Division rounded up. -/
def ceilDiv (a b : Nat) : Nat := (a + b - 1) / b

/-- A field value that acts as another when it is zero (the "0 acts as" fields of the register tables). -/
def zeroActsAs (v d : Nat) : Nat := if v = 0 then d else v

/-- Serial comparison of map epochs (17 R595): a is newer than b. -/
def epochNewer (a b : Nat) : Bool :=
  let d := (a + 2 ^ 32 - b % 2 ^ 32) % 2 ^ 32
  1 ≤ d && d ≤ 2 ^ 31 - 1

/-- The hash of R254: the key times the constant, modulo 2^64, its high log2 bits. -/
def hashBucket (key log2 : Nat) : Nat :=
  (key * 0x9E3779B97F4A7C15 % 2 ^ 64) / 2 ^ (64 - log2)

/-- The positions of set bits below n, ascending. -/
def bitPositions (w n : Nat) : List Nat := (List.range n).filter (fun i => bitOf w i)

/-- The element of a list at an index, or a default. -/
def nthD {α : Type} (l : List α) (i : Nat) (d : α) : α := (l[i]?).getD d

/-- A list with the element at an index replaced. -/
def setNth {α : Type} (l : List α) (i : Nat) (v : α) : List α := l.set i v

/-- Insertion into a list sorted by a relation, after its equals. -/
def insertBy {α : Type} (lt : α → α → Bool) (x : α) (l : List α) : List α :=
  match l with
  | [] => [x]
  | y :: r => if lt x y then x :: y :: r else y :: insertBy lt x r

/-- Stable insertion sort by a strict relation. -/
def sortBy {α : Type} (lt : α → α → Bool) (l : List α) : List α :=
  l.foldl (fun acc x => insertBy lt x acc) []

/-- The first element of a nonempty list that is least under a strict relation. -/
def leastBy {α : Type} (lt : α → α → Bool) (l : List α) : Option α :=
  match l with
  | [] => none
  | x :: r => some (r.foldl (fun best y => if lt y best then y else best) x)

end Sys2Proof.Machine
end

