-- ==== Sys2Proof/Machine/Memory.lean ====
section
/-!
DEFINITION. Byte memories in one canonical form: cells by strictly rising address, none equal to what an unlisted address
reads as. The tile stores (06_cores.md R216) and context regions (11 R380) read zero where nothing is listed; the flash
areas (21 R698) read 0xFF, the erased byte. Log entry 11.
-/

namespace Sys2Proof.Machine

/-- A byte memory. -/
abbrev Memory := List Host.Cell

/-- Whether every address of a memory lies above a bound and no byte equals the default. -/
def Memory.wfFrom (d : Byte) (lo : Nat) (m : Memory) : Bool :=
  match m with
  | [] => true
  | (a, b) :: r => decide (lo ≤ a) && decide (b ≠ d) && Memory.wfFrom d (a + 1) r

/-- The canonical form of a memory whose unlisted addresses read as `d`. -/
def Memory.wf (d : Byte) (m : Memory) : Bool := Memory.wfFrom d 0 m

/-- The byte at an address. -/
def Memory.read (d : Byte) (m : Memory) (a : Nat) : Byte :=
  match m with
  | [] => d
  | (a', b) :: r => if a' = a then b else if a < a' then d else Memory.read d r a

/-- Writes one byte. -/
def Memory.write (d : Byte) (m : Memory) (a : Nat) (b : Byte) : Memory :=
  match m with
  | [] => if b = d then [] else [(a, b)]
  | (a', b') :: r =>
    if a = a' then (if b = d then r else (a, b) :: r)
    else if a < a' then (if b = d then (a', b') :: r else (a, b) :: (a', b') :: r)
    else (a', b') :: Memory.write d r a b

/-- Writes bytes at rising addresses. -/
def Memory.writes (d : Byte) (m : Memory) (a : Nat) (bs : List Byte) : Memory :=
  match bs with
  | [] => m
  | b :: r => Memory.writes d (Memory.write d m a b) (a + 1) r

/-- Reads n bytes at rising addresses. -/
def Memory.reads (d : Byte) (m : Memory) (a n : Nat) : List Byte :=
  match n with
  | 0 => []
  | n + 1 => Memory.read d m a :: Memory.reads d m (a + 1) n

end Sys2Proof.Machine
end

