-- ==== Sys2Proof/Machine/AMap.lean ====
section
/-!
DEFINITION. Finite maps of the state: lists of key and value pairs, at most one pair for a key.
Every table of the device that is sparse (session directory, frame records, registers, peers, ...) is such a map.
-/

namespace Sys2Proof.Machine

/-- A finite map as a list of pairs. -/
abbrev AMap (κ α : Type) := List (κ × α)

namespace AMap

variable {κ α : Type} [DecidableEq κ]

/-- The value stored under a key. -/
def get? (m : AMap κ α) (k : κ) : Option α :=
  match m with
  | [] => none
  | (k', v) :: r => if k' = k then some v else get? r k

/-- The value stored under a key, or a default. -/
def getD (m : AMap κ α) (k : κ) (d : α) : α :=
  match get? m k with
  | some v => v
  | none => d

/-- Whether a key has a value. -/
def has (m : AMap κ α) (k : κ) : Bool := (get? m k).isSome

/-- Stores a value under a key: in place where the key stands, else at the end. -/
def set (m : AMap κ α) (k : κ) (v : α) : AMap κ α :=
  match m with
  | [] => [(k, v)]
  | (k', v') :: r => if k' = k then (k, v) :: r else (k', v') :: set r k v

/-- Removes a key. -/
def erase (m : AMap κ α) (k : κ) : AMap κ α :=
  match m with
  | [] => []
  | (k', v') :: r => if k' = k then erase r k else (k', v') :: erase r k

/-- Changes the value under a key where the key stands. -/
def modify (m : AMap κ α) (k : κ) (f : α → α) : AMap κ α :=
  match get? m k with
  | some v => set m k (f v)
  | none => m

/-- No key stands twice. -/
def wf (m : AMap κ α) : Bool :=
  match m with
  | [] => true
  | (k, _) :: r => !(has r k) && wf r

end AMap

end Sys2Proof.Machine
end

