-- ==== Sys2Proof/Config.lean ====
section
/-!
DEFINITION. What the specification leaves open: free values without a body. No proof can see what they are, so a
statement holds whatever they are. Each is named in a row of the assumption log.
-/

namespace Sys2Proof.Config

/-- The distance, in units in the last place, of a vector-unit function result from its exact value (R158, R220):
operation number, argument bits. The user bounds it. Log entry 5. -/
opaque ulpOffset : Nat → Nat → Nat

/-- The FP32 bits of a sum whose order of addition the specification does not state, and whose exact value depends
on that order (R158, R159, R213): operation number, the FP32 bits of the terms. Log entry 6. -/
opaque fp32Sum : Nat → List Nat → Nat

/-- How far the always-on count has advanced at a reading of it (R34, R791). Log entry 7. -/
opaque elapsed : Nat → Nat

/-- Where a search for a free frame or a free, never used slot begins (the specification names no choice among
equals). Log entry 8. -/
opaque pick : Nat → Nat

/-- A value of the device's random source (R631): the count of draws. Log entry 9. -/
opaque random : Nat → Nat

/-- A value that a command's rule leaves without a number: operation number, the count of free values. Log entry 10. -/
opaque freeValue : Nat → Nat → Nat

end Sys2Proof.Config
end

