-- ==== Sys2Proof/Machine/Float.lean ====
section
/-!
DEFINITION. Number formats and the arithmetic of the vector unit and the array (03_tiles_and_mortar.md R83, R91;
04_attention.md R158; 06_cores.md R212, R213, R220). A value is carried as its bit pattern; every operation decodes
to an exact fraction, computes exactly and rounds once to nearest even.
-/

namespace Sys2Proof.Machine

/-- A binary format: exponent bits, mantissa bits, the largest finite pattern (without sign), and the patterns of
infinity and NaN where the format has them. -/
structure Fmt where
  eb     : Nat
  mb     : Nat
  maxFin : Nat
  inf    : Option Nat
  nan    : Option Nat
  deriving DecidableEq, Repr

/-- FP32. -/
def fp32 : Fmt := ⟨8, 23, 0x7F7FFFFF, some 0x7F800000, some 0x7FC00000⟩
/-- BF16. -/
def bf16 : Fmt := ⟨8, 7, 0x7F7F, some 0x7F80, some 0x7FC0⟩
/-- FP16. -/
def fp16 : Fmt := ⟨5, 10, 0x7BFF, some 0x7C00, some 0x7E00⟩
/-- FP8 E4M3: largest value 448, no infinity (R83). -/
def e4m3 : Fmt := ⟨4, 3, 0x7E, none, some 0x7F⟩
/-- FP8 E5M2: largest value 57,344 (R83). -/
def e5m2 : Fmt := ⟨5, 2, 0x7B, some 0x7C, some 0x7E⟩
/-- FP4 E2M1: largest value 6 (R83). -/
def e2m1 : Fmt := ⟨2, 1, 0x7, none, none⟩

/-- The exponent bias. -/
def Fmt.bias (f : Fmt) : Nat := 2 ^ (f.eb - 1) - 1
/-- The weight of the sign bit. -/
def Fmt.signW (f : Fmt) : Nat := 2 ^ (f.eb + f.mb)

/-- A decoded value: not a number, an infinity, or sign and the magnitude num / den. -/
inductive Val where
  | nan
  | inf (neg : Bool)
  | fin (neg : Bool) (num den : Nat)
  deriving DecidableEq, Repr

/-- The value zero. -/
def Val.zero : Val := .fin false 0 1

/-- The magnitude m × 2^e as a fraction. -/
def dyadic (m : Nat) (e : Int) : Nat × Nat :=
  if 0 ≤ e then (m * 2 ^ e.toNat, 1) else (m, 2 ^ (-e).toNat)

/-- Decodes a bit pattern. -/
def Fmt.decode (f : Fmt) (w : Nat) : Val :=
  let neg := decide (f.signW ≤ w % (2 * f.signW))
  let a := w % f.signW
  if f.inf = some a then .inf neg
  else if f.maxFin < a then .nan
  else
    let e := a / 2 ^ f.mb
    let m := a % 2 ^ f.mb
    let r := if e = 0 then dyadic m (1 - (f.bias : Int) - f.mb)
             else dyadic (m + 2 ^ f.mb) ((e : Int) - f.bias - f.mb)
    .fin neg r.1 r.2

/-- Rounding of a quotient to an integer. -/
inductive Rnd where
  | nearestEven | down | up
  deriving DecidableEq, Repr

/-- A quotient rounded to an integer. -/
def Rnd.quot (r : Rnd) (n d : Nat) : Nat :=
  let q := n / d
  let t := n % d
  match r with
  | .down => q
  | .up => if t = 0 then q else q + 1
  | .nearestEven => if 2 * t < d then q else if d < 2 * t then q + 1 else if q % 2 = 0 then q else q + 1

/-- The magnitude pattern of num / den, before any overflow check. -/
def Fmt.roundMag (f : Fmt) (r : Rnd) (num den : Nat) : Nat :=
  if num = 0 then 0 else
    let k0 : Int := (Nat.log2 num : Int) - Nat.log2 den
    let lt := if 0 ≤ k0 then decide (num < den * 2 ^ k0.toNat) else decide (num * 2 ^ (-k0).toNat < den)
    let k : Int := if lt then k0 - 1 else k0
    let emin : Int := 1 - (f.bias : Int) - f.mb
    let q : Int := if k - f.mb < emin then emin else k - f.mb
    let m := if 0 ≤ q then r.quot num (den * 2 ^ q.toNat) else r.quot (num * 2 ^ (-q).toNat) den
    (q - emin).toNat * 2 ^ f.mb + m

/-- Encodes a value, rounding to nearest even; a result beyond the largest finite value becomes infinity where the
format has one, else the largest finite value; a NaN becomes the format's NaN, else zero. -/
def Fmt.encode (f : Fmt) (v : Val) : Nat :=
  match v with
  | .nan => f.nan.getD 0
  | .inf neg => (f.inf.getD f.maxFin) + (if neg then f.signW else 0)
  | .fin neg n d =>
    let a := f.roundMag .nearestEven n d
    let a := if f.maxFin < a then f.inf.getD f.maxFin else a
    a + (if neg then f.signW else 0)

/-- Encodes a value with saturation: a finite value beyond the range, and an infinity, become the largest finite
value of their sign. -/
def Fmt.encodeSat (f : Fmt) (v : Val) : Nat :=
  match v with
  | .nan => f.nan.getD 0
  | .inf neg => f.maxFin + (if neg then f.signW else 0)
  | .fin neg n d =>
    let a := f.roundMag .nearestEven n d
    (if f.maxFin < a then f.maxFin else a) + (if neg then f.signW else 0)

/-- Sign and exact sum. -/
def Val.add (a b : Val) : Val :=
  match a, b with
  | .nan, _ => .nan
  | _, .nan => .nan
  | .inf x, .inf y => if x = y then .inf x else .nan
  | .inf x, _ => .inf x
  | _, .inf y => .inf y
  | .fin x n d, .fin y n' d' =>
    let p := n * d'
    let q := n' * d
    if x = y then .fin x (p + q) (d * d')
    else if q < p then .fin x (p - q) (d * d')
    else if p < q then .fin y (q - p) (d * d')
    else .fin false 0 1

/-- The value of opposite sign. -/
def Val.neg (a : Val) : Val :=
  match a with
  | .nan => .nan
  | .inf x => .inf (!x)
  | .fin x n d => .fin (!x) n d

/-- The magnitude. -/
def Val.abs (a : Val) : Val :=
  match a with
  | .nan => .nan
  | .inf _ => .inf false
  | .fin _ n d => .fin false n d

/-- The exact product. -/
def Val.mul (a b : Val) : Val :=
  match a, b with
  | .nan, _ => .nan
  | _, .nan => .nan
  | .inf x, .inf y => .inf (x != y)
  | .inf x, .fin y n _ => if n = 0 then .nan else .inf (x != y)
  | .fin x n _, .inf y => if n = 0 then .nan else .inf (x != y)
  | .fin x n d, .fin y n' d' => .fin (x != y) (n * n') (d * d')

/-- The exact quotient; a nonzero number over zero is an infinity, zero over zero is not a number. -/
def Val.div (a b : Val) : Val :=
  match a, b with
  | .nan, _ => .nan
  | _, .nan => .nan
  | .inf _, .inf _ => .nan
  | .inf x, .fin y _ _ => .inf (x != y)
  | .fin x _ _, .inf y => .fin (x != y) 0 1
  | .fin x n d, .fin y n' d' =>
    if n' = 0 then (if n = 0 then .nan else .inf (x != y)) else .fin (x != y) (n * d') (d * n')

/-- Strictly less; false where either is not a number. -/
def Val.lt (a b : Val) : Bool :=
  match a, b with
  | .nan, _ => false
  | _, .nan => false
  | .inf x, .inf y => x && !y
  | .inf x, .fin _ _ _ => x
  | .fin _ _ _, .inf y => !y
  | .fin x n d, .fin y n' d' =>
    let p := n * d'
    let q := n' * d
    match x, y with
    | false, false => decide (p < q)
    | true, true => decide (q < p)
    | true, false => decide (0 < p + q)
    | false, true => false

/-- Equal as numbers. -/
def Val.eqv (a b : Val) : Bool :=
  match a, b with
  | .nan, _ => false
  | _, .nan => false
  | _, _ => !(a.lt b) && !(b.lt a)

/-- Whether the value is a number and finite. -/
def Val.isFin (a : Val) : Bool :=
  match a with
  | .fin _ _ _ => true
  | _ => false

/-- The value of an integer. -/
def Val.ofInt (i : Int) : Val := .fin (decide (i < 0)) i.natAbs 1
/-- The value of a natural number. -/
def Val.ofNat (n : Nat) : Val := .fin false n 1
/-- The value of an FP32 pattern. -/
def v32 (w : Nat) : Val := fp32.decode w
/-- FP32 sum, rounded once. -/
def f32Add (a b : Nat) : Nat := fp32.encode ((v32 a).add (v32 b))
/-- FP32 difference, rounded once. -/
def f32Sub (a b : Nat) : Nat := fp32.encode ((v32 a).add (v32 b).neg)
/-- FP32 product, rounded once. -/
def f32Mul (a b : Nat) : Nat := fp32.encode ((v32 a).mul (v32 b))
/-- FP32 quotient, rounded once. -/
def f32Div (a b : Nat) : Nat := fp32.encode ((v32 a).div (v32 b))
/-- FP32 strict order. -/
def f32Lt (a b : Nat) : Bool := (v32 a).lt (v32 b)
/-- FP32 zero. -/
def f32Zero : Nat := 0
/-- FP32 one. -/
def f32One : Nat := 0x3F800000
/-- FP32 minus infinity. -/
def f32NegInf : Nat := 0xFF800000

/-- The value of a two's-complement pattern of n bits. -/
def signedOf (n w : Nat) : Int :=
  let a := w % 2 ^ n
  if a < 2 ^ (n - 1) then (a : Int) else (a : Int) - 2 ^ n

/-- The pattern of n bits of an integer. -/
def signedBits (n : Nat) (i : Int) : Nat := (i % (2 ^ n : Int)).toNat

/-- A finite value rounded to an integer, ties to even. -/
def Val.toIntRne (a : Val) : Int :=
  match a with
  | .fin neg n d => let q := Rnd.nearestEven.quot n d; if neg then -(q : Int) else (q : Int)
  | _ => 0

-- Sums ---------------------------------------------------------------------------------------------------------

/-- The exact sum of FP32 terms. -/
def exactSum (ts : List Nat) : Val := ts.foldl (fun acc t => acc.add (v32 t)) Val.zero

/-- The number of zero bits at the end of a number, at most so many. -/
def trailingZeros (fuel m : Nat) : Nat :=
  match fuel with
  | 0 => 0
  | n + 1 => if m % 2 = 1 then 0 else trailingZeros n (m / 2) + 1

/-- The magnitude of an FP32 pattern as an odd number and a power of two, counted from 2^-149; none for zero. -/
def oddPart (t : Nat) : Option (Nat × Nat) :=
  let a := t % 2 ^ 31
  if a = 0 then none
  else
    let e := if a / 2 ^ 23 = 0 then 0 else a / 2 ^ 23 - 1
    let m := if a / 2 ^ 23 = 0 then a % 2 ^ 23 else a % 2 ^ 23 + 2 ^ 23
    let z := trailingZeros 23 m
    some (m / 2 ^ z, e + z)

/-- Whether every partial sum of finite terms, in any order, is exact in FP32 (R213): every term is a multiple of a power of two 2^q
and the sum of the magnitudes is at most 2^(q+24) and within the range. -/
def exactAnyOrder (ts : List Nat) : Bool :=
  let ps := ts.filterMap oddPart
  let lowest := ps.foldl (fun acc p => Nat.min acc p.2) 300
  let sum := (ps.map (fun (p : Nat × Nat) => p.1 * 2 ^ (p.2 - lowest))).sum
  ts.all (fun t => decide (t % 2 ^ 31 < 0x7F800000)) && decide (sum ≤ 2 ^ 24) && decide (sum * 2 ^ lowest < 2 ^ 277)

/-- Whether a NaN is among FP32 patterns. -/
def hasNan (ts : List Nat) : Bool := ts.any (fun t => v32 t == .nan)

/-- A sum accumulated in FP32 in an order that the specification does not state (R158, R159, R213): the exact sum
where every order gives it, a NaN where a term is one (R221), else a free value. -/
def f32SumFree (op : Nat) (ts : List Nat) : Nat :=
  if hasNan ts then 0x7FC00000
  else if exactAnyOrder ts then fp32.encode (exactSum ts) else Config.fp32Sum op ts % 2 ^ 32

/-- A sum accumulated in FP32 in the order of the list, each addition rounded once. -/
def f32SumOrdered (ts : List Nat) : Nat :=
  match ts with
  | [] => 0
  | t :: r => r.foldl f32Add t

/-- The largest of FP32 patterns; minus infinity where there is none; a NaN where one is among them (R221). -/
def f32Max (ts : List Nat) : Nat :=
  if hasNan ts then 0x7FC00000 else ts.foldl (fun acc t => if f32Lt acc t then t else acc) f32NegInf

/-- Element-wise FP32 products. -/
def f32Prods (a b : List Nat) : List Nat := (a.zip b).map (fun p => f32Mul p.1 p.2)

-- Functions within 2 ulp -----------------------------------------------------------------------------------------

/-- Fraction bits of the fixed-point evaluation of the transcendental functions. -/
def fxBits : Nat := 192

/-- Series Σ x^k / k!, fixed point, n more terms after the k-th. -/
def expSeries (n k term x acc : Nat) : Nat :=
  match n with
  | 0 => acc
  | n + 1 => let t := term * x / 2 ^ fxBits / (k + 1); expSeries n (k + 1) t x (acc + t)

/-- Squares a fixed-point value n times. -/
def squareTimes (n x : Nat) : Nat :=
  match n with
  | 0 => x
  | n + 1 => squareTimes n (x * x / 2 ^ fxBits)

/-- e^(num/den) in fixed point, for a magnitude below 256: series at num/den/1024, then ten squarings. -/
def expFx (num den : Nat) : Nat :=
  let x := num * 2 ^ fxBits / den / 1024
  squareTimes 10 (expSeries 32 0 (2 ^ fxBits) x (2 ^ fxBits))

/-- A result within 2 FP32 ulp of the exact value num/den (R158, R220): truncation plus a bounded free offset. -/
def within2ulp (op arg : Nat) (neg : Bool) (num den : Nat) : Nat :=
  let d := fp32.roundMag .down num den
  let c := d + Config.ulpOffset op arg % 5 - 2
  let sg := if neg then 2 ^ 31 else 0
  match fp32.decode c with
  | .fin _ n' d' =>
    let ulp := dyadic 1 ((Nat.max 1 (d / 2 ^ 23) : Nat) - (150 : Int))
    let diff := if n' * den ≤ num * d' then num * d' - n' * den else n' * den - num * d'
    if diff * ulp.2 ≤ 2 * ulp.1 * (den * d') then c + sg else d + sg
  | _ => d + sg

/-- exp of an FP32 value, within 2 ulp (R158, R220). -/
def f32Exp (w : Nat) : Nat :=
  match v32 w with
  | .nan => 0x7FC00000
  | .inf neg => if neg then 0 else 0x7F800000
  | .fin neg n d =>
    if n = 0 then f32One
    else if 128 * d ≤ n then (if neg then 0 else 0x7F800000)
    else
      let e := expFx n d
      if neg then within2ulp 1 w false (2 ^ fxBits) e else within2ulp 1 w false e (2 ^ fxBits)

/-- π in fixed point of 192 fraction bits. -/
def piFx : Nat := 0x3243F6A8885A308D313198A2E03707344A4093822299F31D0

/-- Alternating series of sin or cos: n terms from x^k / k!. -/
def trigSeries (n k term x2 : Nat) (plus : Bool) (pos neg : Nat) : Nat × Nat :=
  match n with
  | 0 => (pos, neg)
  | n + 1 =>
    let pos' := if plus then pos + term else pos
    let neg' := if plus then neg else neg + term
    trigSeries n (k + 2) (term * x2 / 2 ^ fxBits / ((k + 1) * (k + 2))) x2 (!plus) pos' neg'

/-- Sign and fixed-point magnitude of the sine of a fixed-point angle below 2π. -/
def sinFx (x : Nat) : Bool × Nat :=
  let r := trigSeries 40 1 x (x * x / 2 ^ fxBits) true 0 0
  if r.2 ≤ r.1 then (false, r.1 - r.2) else (true, r.2 - r.1)

/-- Sign and fixed-point magnitude of the cosine of a fixed-point angle below 2π. -/
def cosFx (x : Nat) : Bool × Nat :=
  let r := trigSeries 40 0 (2 ^ fxBits) (x * x / 2 ^ fxBits) true 0 0
  if r.2 ≤ r.1 then (false, r.1 - r.2) else (true, r.2 - r.1)

/-- The 96-bit value of π by which sin and cos reduce their argument (R220): 2 bits before the point and 94 after it, rounded to
nearest (DEDUCED, log entry 61), in the fixed point of this file. -/
def pi96 : Nat := (piFx + 2 ^ 97) / 2 ^ 98 * 2 ^ 98

/-- cos of an FP32 angle, within 2 ulp (R143, R220). -/
def f32Cos (w : Nat) : Nat :=
  match v32 w with
  | .fin _ n d =>
    let r := cosFx ((n * 2 ^ fxBits / d) % (2 * pi96))
    within2ulp 2 w r.1 r.2 (2 ^ fxBits)
  | _ => 0x7FC00000

/-- sin of an FP32 angle, within 2 ulp (R143, R220). -/
def f32Sin (w : Nat) : Nat :=
  match v32 w with
  | .fin neg n d =>
    let r := sinFx ((n * 2 ^ fxBits / d) % (2 * pi96))
    within2ulp 3 w (r.1 != neg) r.2 (2 ^ fxBits)
  | _ => 0x7FC00000

/-- Integer square root by Newton steps, structurally bounded. -/
def isqrtStep (n x k : Nat) : Nat :=
  match k with
  | 0 => x
  | k + 1 => if x = 0 then 0 else
    let y := (x + n / x) / 2
    if y < x then isqrtStep n y k else x

/-- The integer square root. -/
def isqrt (n : Nat) : Nat := if n = 0 then 0 else isqrtStep n (2 ^ (Nat.log2 n / 2 + 1)) 300

/-- 1/√x of an FP32 value, within 2 ulp (R220). -/
def f32Rsqrt (w : Nat) : Nat :=
  match v32 w with
  | .fin false n d =>
    if n = 0 then 0x7F800000
    else within2ulp 4 w false (isqrt (d * 2 ^ (2 * fxBits) / n)) (2 ^ fxBits)
  | .inf false => 0
  | _ => 0x7FC00000

/-- The reciprocal of an FP32 value, within 2 ulp (R220). -/
def f32Recip (w : Nat) : Nat :=
  match v32 w with
  | .fin neg n d => if n = 0 then (if neg then 0xFF800000 else 0x7F800000) else within2ulp 5 w neg d n
  | .inf neg => if neg then 2 ^ 31 else 0
  | .nan => 0x7FC00000

-- Element types and block quantisation -----------------------------------------------------------------------------

/-- An element type of tiles and of the tile programs; a token has 18 bits in 32 (R228). -/
inductive Elem where
  | fp4 | int4 | e4m3 | e5m2 | int8 | bf16 | fp16 | fp32 | int32 | u32 | u8 | token
  deriving DecidableEq, Repr

/-- Bits of one element. -/
def Elem.bits (e : Elem) : Nat :=
  match e with
  | .fp4 => 4 | .int4 => 4 | .e4m3 => 8 | .e5m2 => 8 | .int8 => 8 | .u8 => 8
  | .bf16 => 16 | .fp16 => 16 | .fp32 => 32 | .int32 => 32 | .u32 => 32 | .token => 32

/-- The value of an element's pattern. -/
def Elem.decode (e : Elem) (w : Nat) : Val :=
  match e with
  | .fp4 => Machine.e2m1.decode w
  | .int4 => .ofInt (signedOf 4 w)
  | .e4m3 => Machine.e4m3.decode w
  | .e5m2 => Machine.e5m2.decode w
  | .int8 => .ofInt (signedOf 8 w)
  | .bf16 => Machine.bf16.decode w
  | .fp16 => Machine.fp16.decode w
  | .fp32 => Machine.fp32.decode w
  | .int32 => .ofInt (signedOf 32 w)
  | .u32 => .ofNat (w % 2 ^ 32)
  | .u8 => .ofNat (w % 256)
  | .token => .ofNat (w % 2 ^ 18)

/-- The largest magnitude of a quantised type (R83). -/
def Elem.qmax (e : Elem) : Nat :=
  match e with
  | .fp4 => 6 | .int4 => 7 | .e4m3 => 448 | .e5m2 => 57344 | .int8 => 127 | _ => 1

/-- Nearest element of a quantised type, ties to even, clamped to the type's range (R91). -/
def Elem.nearest (e : Elem) (v : Val) : Nat :=
  match e with
  | .fp4 => Machine.e2m1.encodeSat v
  | .e4m3 => Machine.e4m3.encodeSat v
  | .e5m2 => Machine.e5m2.encodeSat v
  | .int4 => let i := v.toIntRne; signedBits 4 (if i < -7 then -7 else if 7 < i then 7 else i)
  | .int8 => let i := v.toIntRne; signedBits 8 (if i < -127 then -127 else if 127 < i then 127 else i)
  | .bf16 => Machine.bf16.encode v
  | .fp16 => Machine.fp16.encode v
  | .fp32 => Machine.fp32.encode v
  | .int32 => signedBits 32 v.toIntRne
  | .u32 => (v.toIntRne.toNat) % 2 ^ 32
  | .u8 => (v.toIntRne.toNat) % 256
  | .token => (v.toIntRne.toNat) % 2 ^ 18

/-- The scale of a block (R91): the smallest E4M3 value at or above amax / QMAX, at most 448; zero for a zero block. -/
def blockScale (e : Elem) (xs : List Nat) : Nat :=
  let amax := xs.foldl (fun acc x => let a := x % 2 ^ 31; if f32Lt acc a then a else acc) 0
  match v32 amax with
  | .fin _ n d =>
    if n = 0 then 0 else
      let s := Machine.e4m3.roundMag .up n (d * e.qmax)
      if 0x7E < s then 0x7E else s
  | _ => 0x7E

/-- Quantises a block of FP32 values (R91): the scale, then the elements; a NaN becomes zero (R221). -/
def quantBlock (e : Elem) (xs : List Nat) : Nat × List Nat :=
  let s := blockScale e xs
  let sv := Machine.e4m3.decode s
  (s, xs.map (fun x => if s = 0 ∨ v32 x = .nan then 0 else e.nearest ((v32 x).div sv)))

/-- Cuts a list into runs of n elements; the fuel is the length of the list. -/
def chunksAux {α : Type} (n : Nat) (fuel : Nat) (l : List α) : List (List α) :=
  match fuel with
  | 0 => []
  | f + 1 => match l with
    | [] => []
    | x :: r => (x :: r).take n :: chunksAux n f ((x :: r).drop n)

/-- Cuts a list into runs of n elements. -/
def chunks {α : Type} (n : Nat) (l : List α) : List (List α) := chunksAux n l.length l

/-- Quantises a vector in blocks of 32 (R90, R91): the scales, then the elements. -/
def quantVec (e : Elem) (xs : List Nat) : List Nat × List Nat :=
  let bs := (chunks 32 xs).map (quantBlock e)
  (bs.map (·.1), (bs.map (·.2)).flatten)

/-- The FP32 values of a quantised vector: stored value times its block's scale, rounded once (R91). -/
def dequantVec (e : Elem) (scales elems : List Nat) : List Nat :=
  (((chunks 32 elems).zip scales).map (fun p =>
    p.1.map (fun w => fp32.encode ((e.decode w).mul (Machine.e4m3.decode p.2))))).flatten

/-- FP32 pattern of a BF16 pattern. -/
def bf16to32 (w : Nat) : Nat := w * 2 ^ 16 % 2 ^ 32
/-- BF16 pattern of an FP32 pattern, nearest even. -/
def f32toBf16 (w : Nat) : Nat := bf16.encode (v32 w)

end Sys2Proof.Machine
end

