-- ==== Sys2Proof/Machine/Status.lean ====
section
/-!
DEFINITION. Completion statuses (00_scope.md R17, R18): 16 bits, class in [15:8], detail in [7:0].
Every constant is a row of the status tables of the section files.
-/

namespace Sys2Proof.Machine

/-- A completion status (R17). -/
abbrev Status := BitVec 16

namespace Status

/-- The class of a status, bits [15:8] (R17). -/
def cls (s : Status) : BitVec 8 := s.extractLsb' 8 8

/-- The classes of R18 other than OK. -/
def failures : List Nat := [0x01, 0x02, 0x03, 0x04, 0x05, 0x06, 0x07, 0x08, 0x09, 0x0A, 0x0B, 0x0F]

/-- The status of a refusal whose number the specification does not state: of one of the classes of R18 other than OK. -/
def open_ (n : Nat) : Status := BitVec.ofNat 16 ((failures[n % 12]?.getD 0x0F) * 256 + n / 12 % 256)

/-- OK without a detail (R18). -/
def ok : Status := 0x0000
/-- OK/eos: end-of-sequence drawn (09_sampling_and_ending.md) -/
def okEos : Status := 0x0001
/-- OK/length: MAX_TOKENS reached (09_sampling_and_ending.md) -/
def okLength : Status := 0x0002
/-- OK/stop: stop string fired (09_sampling_and_ending.md) -/
def okStop : Status := 0x0003
/-- OK/eos-forced: end-of-sequence forced by the grammar (09_sampling_and_ending.md) -/
def okEosForced : Status := 0x0004
/-- OK/stop-rolled-back: stop string fired; completing token removed (09_sampling_and_ending.md) -/
def okStopRolledBack : Status := 0x0005
/-- OK/nothing-to-cancel: cancel found no request to end (09_sampling_and_ending.md) -/
def okNothingToCancel : Status := 0x0006
/-- CANCELLED: request ended by a cancel (09_sampling_and_ending.md) -/
def cancelled : Status := 0x0100
/-- CANCELLED/host-reset: request ended by a function reset (20_host_interface.md) -/
def cancelledHostReset : Status := 0x0101
/-- DEADLINE/first-token: first-token budget ran out (10_scheduling_and_deadlines.md) -/
def deadlineFirstToken : Status := 0x0201
/-- DEADLINE/inter-token: inter-token budget ran out (10_scheduling_and_deadlines.md) -/
def deadlineInterToken : Status := 0x0202
/-- DEADLINE/total: total budget ran out (10_scheduling_and_deadlines.md) -/
def deadlineTotal : Status := 0x0203
/-- DEADLINE/on-fallback: the request has switched to the fallback model (04_attention.md) -/
def deadlineOnFallback : Status := 0x0210
/-- GRAMMAR/stall: no token allowed in a state that does not accept (08_grammar.md) -/
def grammarStall : Status := 0x0301
/-- STATE_LOST/failed: session is FAILED (02_sessions.md) -/
def stateLostFailed : Status := 0x0401
/-- STATE_LOST/stale-handle: slot FREE or generation mismatch (02_sessions.md) -/
def stateLostStaleHandle : Status := 0x0402
/-- STATE_LOST/moved: session moved; hint carried (02_sessions.md) -/
def stateLostMoved : Status := 0x0403
/-- STATE_LOST/ckp-coverage: an object of the restore lacked coverage (15_checkpoint_and_restore.md) -/
def stateLostCkpCoverage : Status := 0x0404
/-- STATE_LOST/grammar: poisoned grammar frame or image (22_errors.md) -/
def stateLostGrammar : Status := 0x0405
/-- STATE_LOST/request: poisoned per-request state (22_errors.md) -/
def stateLostRequest : Status := 0x0406
/-- QUOTA/lpddr6: no LPDDR6 frame within the partition's quota (03_tiles_and_mortar.md) -/
def quotaLpddr6 : Status := 0x0502
/-- QUOTA/quarry: cold park beyond the partition's quarry quota (05_parking_dressing_revival.md) -/
def quotaQuarry : Status := 0x0503
/-- QUOTA/remote: target partition lacks remote-pull credits (05_parking_dressing_revival.md) -/
def quotaRemote : Status := 0x0504
/-- QUOTA/search-arena: no extent in the search arena (14_vector_search.md) -/
def quotaSearchArena : Status := 0x0505
/-- QUOTA/wear-budget: the wear governor's budget cannot hold a shard (15_checkpoint_and_restore.md) -/
def quotaWearBudget : Status := 0x0506
/-- LIMIT/slots: no slot to allocate (02_sessions.md) -/
def limitSlots : Status := 0x0601
/-- LIMIT/context: context limit reached (02_sessions.md) -/
def limitContext : Status := 0x0602
/-- LIMIT/prefixes: prefix registry full (03_tiles_and_mortar.md) -/
def limitPrefixes : Status := 0x0603
/-- LIMIT/grammars: grammar registry full (08_grammar.md) -/
def limitGrammars : Status := 0x0604
/-- LIMIT/side-list: side list at 16,777,216 items (14_vector_search.md) -/
def limitSideList : Status := 0x0605
/-- LIMIT/collection-full: G + L at CAPACITY (14_vector_search.md) -/
def limitCollectionFull : Status := 0x0606
/-- LIMIT/collections: 256 collections exist (14_vector_search.md) -/
def limitCollections : Status := 0x0607
/-- LIMIT/epoch-window: a retained map would leave the 2^31 window (17_solvor_messages_and_compositions.md) -/
def limitEpochWindow : Status := 0x0608
/-- LIMIT/maps: eight maps of the composition already retained (17_solvor_messages_and_compositions.md) -/
def limitMaps : Status := 0x0609
/-- LIMIT/compositions: a new composition while 256 are held (17_solvor_messages_and_compositions.md) -/
def limitCompositions : Status := 0x060A
/-- SECURITY/foreign-handle: handle outside the function's partition (02_sessions.md) -/
def securityForeignHandle : Status := 0x0701
/-- SECURITY/foreign-frame: frame record owner differs from the reader's partition (03_tiles_and_mortar.md) -/
def securityForeignFrame : Status := 0x0702
/-- SECURITY/partition-gone: pull for a removed partition (17_solvor_messages_and_compositions.md) -/
def securityPartitionGone : Status := 0x0703
/-- SECURITY/attestation: peer quote failed verification (17_solvor_messages_and_compositions.md) -/
def securityAttestation : Status := 0x0704
/-- SECURITY/foreign-peer: sender not named by the map, or not the move's target (17_solvor_messages_and_compositions.md) -/
def securityForeignPeer : Status := 0x0705
/-- SECURITY/key-release: release blob refused (19_security_and_isolation.md) -/
def securityKeyRelease : Status := 0x0706
/-- SECURITY/change-record: change record refused (19_security_and_isolation.md) -/
def securityChangeRecord : Status := 0x0707
/-- SECURITY/confidential: PF0 named data of a confidential partition (19_security_and_isolation.md) -/
def securityConfidential : Status := 0x0708
/-- SECURITY/frozen: partitions frozen by an alarm (19_security_and_isolation.md) -/
def securityFrozen : Status := 0x0709
/-- SECURITY/bounce-auth: bounce record refused (19_security_and_isolation.md) -/
def securityBounceAuth : Status := 0x070A
/-- SECURITY/alarm-latched: re-arm while a source is not released (19_security_and_isolation.md) -/
def securityAlarmLatched : Status := 0x070B
/-- SECURITY/spent: re-arm of a spent device (19_security_and_isolation.md) -/
def securitySpent : Status := 0x070C
/-- SECURITY/pf-only: PF0-only command from a virtual function (20_host_interface.md) -/
def securityPfOnly : Status := 0x070D
/-- SECURITY/fw-image: the green slot fails R721 (21_start_configuration_firmware.md) -/
def securityFwImage : Status := 0x070E
/-- SECURITY/ckp-signature: manifest signature fails (15_checkpoint_and_restore.md) -/
def securityCkpSignature : Status := 0x0710
/-- SECURITY/ckp-key: the partition's key slot does not hold the checkpoint key (15_checkpoint_and_restore.md) -/
def securityCkpKey : Status := 0x0711
/-- PEER/table-full: no free or idle peer-table entry (17_solvor_messages_and_compositions.md) -/
def peerTableFull : Status := 0x0801
/-- PEER/malformed: malformed message (17_solvor_messages_and_compositions.md) -/
def peerMalformed : Status := 0x0803
/-- PEER/link-down: partner lost during a request with no fallback (17_solvor_messages_and_compositions.md) -/
def peerLinkDown : Status := 0x0804
/-- PEER/incomplete-step: logit packet before every head of every layer was served (04_attention.md) -/
def peerIncompleteStep : Status := 0x0805
/-- PEER/move-aborted: target lost or evicted before ownership took effect (05_parking_dressing_revival.md) -/
def peerMoveAborted : Status := 0x0806
/-- PEER/move-refused: target refused the move offer (05_parking_dressing_revival.md) -/
def peerMoveRefused : Status := 0x0807
/-- PEER/no-partner: no admitted partner for exact re-prefill, or for a request of a session without a fallback model (R43) (05_parking_dressing_revival.md) -/
def peerNoPartner : Status := 0x0808
/-- PEER/bad-logits: no finite allowed logit, or wrong logit type (09_sampling_and_ending.md) -/
def peerBadLogits : Status := 0x0809
/-- PEER/prefill-lost: handoff bond aborted by producer loss, link loss or HANDOFF_MS (13_bonds_and_interrupted_work.md) -/
def peerPrefillLost : Status := 0x080A
/-- PEER/pull-timeout: pulls to the move's source went unanswered (17_solvor_messages_and_compositions.md) -/
def peerPullTimeout : Status := 0x080B
/-- MEDIA/quarry-read: uncorrectable page met outside a revive (12_quarry.md) -/
def mediaQuarryRead : Status := 0x0901
/-- MEDIA/quarry-write: no block left to program a failed page again (12_quarry.md) -/
def mediaQuarryWrite : Status := 0x0902
/-- MEDIA/quarry-down: the quarry is not mounted (12_quarry.md) -/
def mediaQuarryDown : Status := 0x0903
/-- MEDIA/lpddr6: collection closed by poison (22_errors.md) -/
def mediaLpddr6 : Status := 0x0904
/-- CONTEXT/core-window: a run-time address or index outside the context's reach (06_cores.md) -/
def contextCoreWindow : Status := 0x0A10
/-- CONTEXT/barrier-timeout: a BAR did not complete within BAR_TIMEOUT (06_cores.md) -/
def contextBarrierTimeout : Status := 0x0A11
/-- CONTEXT/context-down: context torn down and not reloading (10_scheduling_and_deadlines.md) -/
def contextContextDown : Status := 0x0A12
/-- CONTEXT/uncorrected: uncorrected error in the context's own state (10_scheduling_and_deadlines.md) -/
def contextUncorrected : Status := 0x0A13
/-- CONTEXT/partition-reset: partition reset ended the request or refused the command (10_scheduling_and_deadlines.md) -/
def contextPartitionReset : Status := 0x0A14
/-- CONFIG/bad-handle: reserved handle bit set (02_sessions.md) -/
def configBadHandle : Status := 0x0B02
/-- CONFIG/wrong-state: command not allowed in the session's state (02_sessions.md) -/
def configWrongState : Status := 0x0B03
/-- CONFIG/token-range: token ID beyond the vocabulary (02_sessions.md) -/
def configTokenRange : Status := 0x0B04
/-- CONFIG/hint-range: hint value out of range (02_sessions.md) -/
def configHintRange : Status := 0x0B05
/-- CONFIG/prefix-model: prefix belongs to another main context (03_tiles_and_mortar.md) -/
def configPrefixModel : Status := 0x0B06
/-- CONFIG/prefix-dressed: prefix range holds a dressed tile (03_tiles_and_mortar.md) -/
def configPrefixDressed : Status := 0x0B07
/-- CONFIG/prefix-unknown: PREFIX_ID not registered, at SES_CREATE or PFX_UNREGISTER (03_tiles_and_mortar.md) -/
def configPrefixUnknown : Status := 0x0B08
/-- CONFIG/prefix-range: N outside 1 to NEXT_POS (03_tiles_and_mortar.md) -/
def configPrefixRange : Status := 0x0B09
/-- CONFIG/tile-geometry: a pushed tile's GEOMETRY differs from the context's (03_tiles_and_mortar.md) -/
def configTileGeometry : Status := 0x0B0A
/-- CONFIG/layer-range: LAYER beyond the model (04_attention.md) -/
def configLayerRange : Status := 0x0B0B
/-- CONFIG/head-range: head range beyond the model (04_attention.md) -/
def configHeadRange : Status := 0x0B0C
/-- CONFIG/step-mismatch: POS differs from NEXT_POS (04_attention.md) -/
def configStepMismatch : Status := 0x0B0D
/-- CONFIG/duplicate-query: head already served in this step (04_attention.md) -/
def configDuplicateQuery : Status := 0x0B0E
/-- CONFIG/expert-unknown: expert index not in the context's set (04_attention.md) -/
def configExpertUnknown : Status := 0x0B0F
/-- CONFIG/dress-profile: selected dressing profile invalid (05_parking_dressing_revival.md) -/
def configDressProfile : Status := 0x0B10
/-- CONFIG/bad-utf8: invalid UTF-8 input with STRICT_UTF8 set (07_text_intake_and_streaming.md) -/
def configBadUtf8 : Status := 0x0B11
/-- CONFIG/intake-size: text input beyond MAX_INTAKE_MIB (07_text_intake_and_streaming.md) -/
def configIntakeSize : Status := 0x0B12
/-- CONFIG/stop-strings: stop-string set outside the limits of R258 (07_text_intake_and_streaming.md) -/
def configStopStrings : Status := 0x0B13
/-- CONFIG/emit-ring: malformed emit-ring descriptor (07_text_intake_and_streaming.md) -/
def configEmitRing : Status := 0x0B14
/-- CONFIG/no-tokenizer: text input to a context without a text table set (07_text_intake_and_streaming.md) -/
def configNoTokenizer : Status := 0x0B15
/-- CONFIG/grammar-unknown: grammar ID not registered, unloading, or of another context, at admission in mode 1 or 2, or at GRM_UNLOAD (08_grammar.md) -/
def configGrammarUnknown : Status := 0x0B16
/-- CONFIG/grammar-state: mode 2 without a matching grammar state, or mode 3 (08_grammar.md) -/
def configGrammarState : Status := 0x0B17
/-- CONFIG/grammar-image: grammar image fails the load check (08_grammar.md) -/
def configGrammarImage : Status := 0x0B18
/-- CONFIG/sample-opts: SAMPLE_OPTS field out of range (09_sampling_and_ending.md) -/
def configSampleOpts : Status := 0x0B19
/-- CONFIG/budgets: budgets given to a best-effort context (10_scheduling_and_deadlines.md) -/
def configBudgets : Status := 0x0B1A
/-- CONFIG/report-unknown: report number not held (13_bonds_and_interrupted_work.md) -/
def configReportUnknown : Status := 0x0B1B
/-- CONFIG/push-range: tile push outside the handoff range (13_bonds_and_interrupted_work.md) -/
def configPushRange : Status := 0x0B1C
/-- CONFIG/collection-unknown: collection absent, dropping, or of another partition (14_vector_search.md) -/
def configCollectionUnknown : Status := 0x0B1D
/-- CONFIG/collection-geometry: create geometry outside R471 (14_vector_search.md) -/
def configCollectionGeometry : Status := 0x0B1E
/-- CONFIG/item-exists: item ID already live (14_vector_search.md) -/
def configItemExists : Status := 0x0B1F
/-- CONFIG/item-unknown: delete of an item that is not live (14_vector_search.md) -/
def configItemUnknown : Status := 0x0B20
/-- CONFIG/item-range: reserved item ID or wrong vector length (14_vector_search.md) -/
def configItemRange : Status := 0x0B21
/-- CONFIG/query-params: K, EF or RERANK outside R482 (14_vector_search.md) -/
def configQueryParams : Status := 0x0B22
/-- CONFIG/ckp-step: step not above the series' newest (15_checkpoint_and_restore.md) -/
def configCkpStep : Status := 0x0B23
/-- CONFIG/ckp-scope: empty or foreign scope, or a weight table without the source image key (15_checkpoint_and_restore.md) -/
def configCkpScope : Status := 0x0B24
/-- CONFIG/ckp-unknown: step not held by the series (15_checkpoint_and_restore.md) -/
def configCkpUnknown : Status := 0x0B25
/-- CONFIG/ckp-manifest: malformed manifest (15_checkpoint_and_restore.md) -/
def configCkpManifest : Status := 0x0B26
/-- CONFIG/epoch-mismatch: message epoch differs from the request's (17_solvor_messages_and_compositions.md) -/
def configEpochMismatch : Status := 0x0B27
/-- CONFIG/map: malformed or foreign map, stale epoch, context already bound, a new map whose partition or main context differs from its composition's, or a create whose main context differs from its composition's (17_solvor_messages_and_compositions.md) -/
def configMap : Status := 0x0B28
/-- CONFIG/composition-unknown: composition not held or being removed, or bound to another partition or main context than the session's (R598) (17_solvor_messages_and_compositions.md) -/
def configCompositionUnknown : Status := 0x0B29
/-- CONFIG/opcode: unknown command code (20_host_interface.md) -/
def configOpcode : Status := 0x0B2A
/-- CONFIG/tag-in-use: tag already outstanding on the SQ (20_host_interface.md) -/
def configTagInUse : Status := 0x0B2B
/-- CONFIG/param-block: parameter block of wrong length or form (20_host_interface.md) -/
def configParamBlock : Status := 0x0B2C
/-- CONFIG/host-memory: host memory access failed (20_host_interface.md) -/
def configHostMemory : Status := 0x0B2D
/-- CONFIG/not-ready: mailbox command not allowed before S15 (20_host_interface.md) -/
def configNotReady : Status := 0x0B2E
/-- CONFIG/flash-range: write beyond its slot or copy (21_start_configuration_firmware.md) -/
def configFlashRange : Status := 0x0B2F
/-- CONFIG/copy-in-use: CFG_WRITE to the copy in use (21_start_configuration_firmware.md) -/
def configCopyInUse : Status := 0x0B30
/-- CONFIG/unconfigured: partition command during an unconfigured start, or naming a partition that the plan in force does not configure (R802) (21_start_configuration_firmware.md) -/
def configUnconfigured : Status := 0x0B31
/-- CONFIG/empty-input: generation asked on an empty log with empty input (R306) (09_sampling_and_ending.md) -/
def configEmptyInput : Status := 0x0B32
/-- CONFIG/context-kind: SES_CREATE names a main context that the placement image lacks, or that is not a main model (R803) (02_sessions.md) -/
def configContextKind : Status := 0x0B33
/-- INTERNAL/partition-fatal: partition frozen by a PF error (22_errors.md) -/
def internalPartitionFatal : Status := 0x0F01
/-- INTERNAL/device-fatal: device frozen by a DF error (22_errors.md) -/
def internalDeviceFatal : Status := 0x0F02

/-- CONFIG/reserved-field: a reserved field of a command or table entry is not zero (00_scope.md R15). -/
def configReservedField : Status := 0x0B01

end Status

end Sys2Proof.Machine
end

