-- ==== Sys2Proof/Machine/Types.lean ====
section
/-!
DEFINITION. Names, handles and host entries that the commands and the state share (02_sessions.md, 20_host_interface.md).
Numbers that the manual only counts or compares are Nat; words that software sees as bits are bit vectors.
-/

namespace Sys2Proof.Machine

/-- A PCIe function: its controller, and 0 for PF0 or the number of a virtual function (R672). -/
structure Fn where
  ctrl : Nat
  vf   : Nat
  deriving DecidableEq, Repr

/-- Whether a function is a PF0 (R672). -/
def Fn.isPf (f : Fn) : Bool := f.vf == 0
/-- The index under which a function's own registers are held: 17 functions to a controller. -/
def Fn.index (f : Fn) : Nat := f.ctrl * 17 + f.vf

/-- FLAGS of a submission entry (R680). -/
structure SubFlags where
  ext        : Bool := false
  notifyEmit : Bool := false
  fallback   : Bool := false
  exact      : Bool := false
  inPlace    : Bool := false
  sweep      : Bool := false
  deriving DecidableEq, Repr

/-- A bounce record that the host wrote (R649): KIND, COUNTER and HOST_REF of its header, and whether its tag verifies. -/
structure BounceRec where
  kind    : Nat
  counter : Nat
  hostRef : Nat
  tagOk   : Bool
  deriving DecidableEq, Repr

/-- What carries a submission in confidential-host mode (R689, R690): the record of its queue slot, the records that its parameter block and
buffers name, each with the address at which it lies, and the areas that they name, by address and size (R688). -/
structure BounceIn where
  entry : BounceRec
  data  : List (Nat × BounceRec)
  areas : List (Nat × Nat)
  deriving DecidableEq, Repr

/-- The envelope of a host command (R680): the function that submits it, the submission queue it is fetched from
(none: the management mailbox of R692), its tag, FLAGS and PART, its HANDLE, whether a reserved field is not zero
(R15), whether the parameter block has a wrong length or form (R682), and the bounce records that carried it. -/
structure Sub where
  fn       : Fn
  sq       : Option Nat
  tag      : Nat
  flags    : SubFlags
  part     : Nat
  handle   : Word64
  resv     : Bool
  paramBad : Bool
  bounce   : Option BounceIn
  deriving DecidableEq, Repr

/-- Who receives the completion of work that outlives its command. -/
structure Owner where
  fn  : Fn
  sq  : Option Nat
  tag : Nat
  deriving DecidableEq, Repr

/-- A completion entry's content (R683): RESULT, fault report number, status, and whether it is a deadline notice.
`dup`: it refuses a tag that is outstanding already (R685); `ends`: the session whose request it ends (R679). -/
structure Completion where
  fn     : Fn
  sq     : Option Nat
  tag    : Nat
  status : Status
  result : BitVec 128
  report : Nat
  notice : Bool
  dup    : Bool := false
  ends   : Option Nat := none
  deriving DecidableEq, Repr

/-- HINTS of R70: expected idle exponent, dressing profile, retention class. -/
structure Hints where
  idle      : Nat
  profile   : Nat
  retention : Nat
  deriving DecidableEq, Repr

/-- Whether HINTS are in range (R73, R74). -/
def Hints.inRange (h : Hints) : Bool := h.idle ≤ 24 && h.retention ≤ 2

-- Session handles (R51) --------------------------------------------------------------------------------------------

/-- The fields of a session handle (R51). -/
structure Handle where
  part : Nat
  slot : Nat
  gen  : Nat
  deriving DecidableEq, Repr

/-- PARTITION of a handle word. -/
def handlePart (w : Word64) : Nat := (w.extractLsb' 60 4).toNat
/-- SLOT of a handle word. -/
def handleSlot (w : Word64) : Nat := (w.extractLsb' 34 22).toNat
/-- GENERATION of a handle word. -/
def handleGen (w : Word64) : Nat := (w.extractLsb' 18 16).toNat
/-- Whether a reserved bit of a handle word is set (R51, R53 order 1). -/
def handleReserved (w : Word64) : Bool := w.extractLsb' 56 4 != 0 || w.extractLsb' 0 18 != 0
/-- The handle word of a partition, slot and generation (R51). -/
def mkHandle (p slot gen : Nat) : Word64 :=
  BitVec.ofNat 64 ((p % 16) * 2 ^ 60 + (slot % 2 ^ 22) * 2 ^ 34 + (gen % 2 ^ 16) * 2 ^ 18)

/-- Session states (R58). -/
inductive SesState where
  | free | opened | active | waiting | parked | pulling | moving | failed
  deriving DecidableEq, Repr

/-- State codes of R58. -/
def SesState.code (s : SesState) : Nat :=
  match s with
  | .free => 0 | .opened => 1 | .active => 2 | .waiting => 3
  | .parked => 4 | .pulling => 5 | .moving => 6 | .failed => 7

/-- The command in progress on a session (R71 OP). -/
inductive SesOp where
  | none | request | park | revive | moveOut | moveIn | close | restore
  deriving DecidableEq, Repr

/-- Codes of R71 OP. -/
def SesOp.code (o : SesOp) : Nat :=
  match o with
  | .none => 0 | .request => 1 | .park => 2 | .revive => 3
  | .moveOut => 4 | .moveIn => 5 | .close => 6 | .restore => 7

/-- A token-log entry (R169). -/
structure LogEntry where
  token     : Nat
  generated : Bool
  reqStart  : Bool
  deriving DecidableEq, Repr

/-- The 32-bit word of a log entry (R169). -/
def LogEntry.word (e : LogEntry) : Nat :=
  (if e.generated then 2 ^ 31 else 0) + (if e.reqStart then 2 ^ 30 else 0) + e.token % 2 ^ 18

/-- A ring in host memory (R270): BASE, LOG2_SIZE and the address of its control block. -/
structure Ring where
  base : Nat
  log2 : Nat
  ctrl : Nat
  deriving DecidableEq, Repr

/-- Whether a ring descriptor is well formed (R270). -/
def Ring.ok (r : Ring) : Bool := r.base % 4096 == 0 && 12 ≤ r.log2 && r.log2 ≤ 30 && r.ctrl % 16 == 0

end Sys2Proof.Machine
end

