-- ==== Sys2Proof/Machine/TileTypes.lean ====
section
/-!
DEFINITION. Tiles, mortar entries, frame records and prefixes as data (03_tiles_and_mortar.md R82 to R106).
-/

namespace Sys2Proof.Machine

/-- GEOMETRY of a side frame (R89): head dimension code, 8-bit format, key and value element type codes. -/
structure Geometry where
  dim   : Nat
  fmt8  : Bool
  ktype : Nat
  vtype : Nat
  deriving DecidableEq, Repr

/-- The head dimension D (R89). -/
def Geometry.d (g : Geometry) : Nat := if g.dim = 0 then 64 else if g.dim = 1 then 128 else 256
/-- Bits of one element. -/
def Geometry.bits (g : Geometry) : Nat := if g.fmt8 then 8 else 4
/-- KB, the bytes of one key or value (R84). -/
def Geometry.kb (g : Geometry) : Nat := g.d * g.bits / 8
/-- Positions per tile, P (R82). -/
def Geometry.p (g : Geometry) : Nat := Nat.min 128 (8192 / g.kb)
/-- The GEOMETRY byte (R89). -/
def Geometry.byte (g : Geometry) : Nat :=
  (g.dim % 4) * 64 + (if g.fmt8 then 32 else 0) + (g.ktype % 4) * 8 + (g.vtype % 4) * 2
/-- The element type of a type code (R83). -/
def elemOf (fmt8 : Bool) (code : Nat) : Elem :=
  if fmt8 then (if code = 0 then .e4m3 else if code = 1 then .e5m2 else .int8)
  else (if code = 0 then .fp4 else .int4)
/-- The key element type. -/
def Geometry.kelem (g : Geometry) : Elem := elemOf g.fmt8 g.ktype
/-- The value element type. -/
def Geometry.velem (g : Geometry) : Elem := elemOf g.fmt8 g.vtype
/-- Whether the codes are allowed (R83, R89). -/
def Geometry.ok (g : Geometry) : Bool :=
  g.dim ≤ 2 && (if g.fmt8 then g.ktype ≤ 2 && g.vtype ≤ 2 else g.ktype ≤ 1 && g.vtype ≤ 1)

/-- One valid tile position: stored elements and scales of key and value (R84, R90), the mass accumulator (R94), and
the position-map entry (R92). -/
structure TPos where
  key     : List Nat
  value   : List Nat
  kscales : List Nat
  vscales : List Nat
  mass    : Word16
  pos     : Nat
  merged  : Bool
  mcount  : Nat
  deriving DecidableEq, Repr

/-- A tile: side-frame header (R89) and its valid positions. FILL is the number of positions; FIRST_POS and LAST_POS
are those of the first and last of them. -/
structure Tile where
  source   : Word64
  layer    : Nat
  head     : Nat
  geom     : Geometry
  dressed  : Bool
  shared   : Bool
  prefixId : Nat
  massEpoch : Nat
  positions : List TPos
  deriving DecidableEq, Repr

/-- FILL (R89). -/
def Tile.fill (t : Tile) : Nat := t.positions.length
/-- SEALED: FILL has reached P (R89). -/
def Tile.sealed (t : Tile) : Bool := decide (t.geom.p ≤ t.positions.length)

/-- Where a mortar entry points (R95 TIER). -/
inductive Tier where
  | store | lpddr | quarry | remote
  deriving DecidableEq, Repr

/-- TIER codes of R95; 0 is an empty entry, which the mortar does not list. -/
def Tier.code (t : Tier) : Nat :=
  match t with
  | .store => 1 | .lpddr => 2 | .quarry => 3 | .remote => 4

/-- A mortar entry other than the empty one (R95). -/
structure MEntry where
  tier    : Tier
  fmt8    : Bool
  dressed : Bool
  shared  : Bool
  fill    : Nat
  peer    : Nat
  frame   : Nat
  deriving DecidableEq, Repr

/-- The 64-bit word of a mortar entry (R95). -/
def MEntry.word (e : MEntry) : Word64 :=
  BitVec.ofNat 64 (e.tier.code * 2 ^ 61 + (if e.fmt8 then 2 ^ 60 else 0) + (if e.dressed then 2 ^ 59 else 0)
    + (if e.shared then 2 ^ 58 else 0) + (e.fill % 256) * 2 ^ 50 + (e.peer % 1024) * 2 ^ 40 + e.frame % 2 ^ 40)

/-- FRAME of a TIER 1 entry: enabled core in [39:36], offset in units of 2 KiB in [13:0] (R96). -/
def storeFrame (core off : Nat) : Nat := core * 2 ^ 36 + off
/-- The enabled core of a TIER 1 FRAME (R96). -/
def storeCore (frame : Nat) : Nat := bitsOf frame 39 36
/-- The 2 KiB offset of a TIER 1 FRAME (R96). -/
def storeOff (frame : Nat) : Nat := bitsOf frame 13 0

/-- A page pointer of a root or index page (R99). -/
structure PagePtr where
  quarry : Bool
  frame  : Nat
  deriving DecidableEq, Repr

/-- A mortar: its root frame, its index and leaf pages, and its entries by index e = t × pairs + j (R97, R98). -/
structure Mortar where
  root    : Nat
  index   : AMap Nat PagePtr
  leaf    : AMap Nat PagePtr
  entries : AMap Nat MEntry
  deriving DecidableEq, Repr

/-- A mortar with no page but its root. -/
def Mortar.empty (root : Nat) : Mortar := ⟨root, [], [], []⟩

/-- States of a frame record (R104). -/
inductive FrState where
  | free | zeroing | priv | shared | pinned | poisoned
  deriving DecidableEq, Repr

/-- Codes of R104. -/
def FrState.code (f : FrState) : Nat :=
  match f with
  | .free => 0 | .zeroing => 1 | .priv => 2 | .shared => 3 | .pinned => 4 | .poisoned => 5

/-- A frame record (R103), and of a tile frame the 64-bit words of its tile whose poison bit is set (R371), numbered over the 16 KiB of data
and the 2 KiB beside them. -/
structure Frame where
  owner    : Nat
  state    : FrState
  refcount : Nat
  backref  : Nat
  poison   : List Nat
  deriving DecidableEq, Repr

/-- The record of a FREE frame. -/
def Frame.none : Frame := ⟨0, .free, 0, 0, []⟩

/-- The 64-bit word of a frame record (R103). -/
def Frame.word (f : Frame) : Word64 :=
  BitVec.ofNat 64 ((f.owner % 16) * 2 ^ 60 + f.state.code * 2 ^ 56 + (f.refcount % 65536) * 2 ^ 32 + f.backref % 2 ^ 32)

/-- Where a tile's contents lie on this device. -/
inductive TileLoc where
  | store (core off : Nat)
  | frame (n : Nat)
  | quarry (n : Nat)
  deriving DecidableEq, Repr

/-- The location an entry names on this device; none for a remote tile (R96). -/
def MEntry.loc (e : MEntry) : Option TileLoc :=
  match e.tier with
  | .store => some (.store (storeCore e.frame) (storeOff e.frame))
  | .lpddr => some (.frame e.frame)
  | .quarry => some (.quarry e.frame)
  | .remote => none

/-- A registered prefix (R106); a key that the registry does not list is free. `seq` tells its registration from an earlier one of the same
ID: SEQ of the bond that made it. -/
structure Prefix where
  main   : Nat
  tokens : Nat
  full   : Nat
  users  : Nat
  mortar : Mortar
  log    : List LogEntry
  logFrames : List Nat
  seq    : Nat
  deriving DecidableEq, Repr

/-- The fields of a mortar entry as a move offer carries it (R585): index, entry. -/
structure OfferEntry where
  index : Nat
  entry : MEntry
  deriving DecidableEq, Repr

end Sys2Proof.Machine
end

