-- ==== Sys2Proof/Machine/ReqTypes.lean ====
section
/-!
DEFINITION. Options of a request, placement images, text tables and grammar images as data (04 R142, 06 R227 to R237,
07 R250 to R258, 08 R281 to R290, 09 R301, 10 R334 to R344, 20 R682).
-/

namespace Sys2Proof.Machine

/-- SAMPLE_OPTS (R301); FP32 fields are bit patterns. `resv`: a reserved bit is set. -/
structure SampleOpts where
  temperature : Word32
  topP        : Word32
  minP        : Word32
  rep         : Word32
  freq        : Word32
  pres        : Word32
  seed        : Word64
  maxTokens   : Nat
  topK        : Nat
  seedDevice  : Bool
  rollback    : Bool
  penInput    : Bool
  logitsFp32  : Bool
  penWindow   : Nat
  resv        : Bool
  deriving DecidableEq, Repr

/-- TEXT_OPTS (R257). -/
structure TextOpts where
  inputText  : Bool
  specials   : Bool
  strictUtf8 : Bool
  rawInvalid : Bool
  includeStop : Bool
  emitHidden : Bool
  noEmit     : Bool
  resv       : Bool
  deriving DecidableEq, Repr

/-- GRAMMAR_OPTS (R290). -/
structure GramOpts where
  mode : Nat
  id   : Nat
  resv : Bool
  deriving DecidableEq, Repr

/-- The input of a request (R682): token entries or UTF-8 bytes. -/
inductive Input where
  | tokens (ts : List Nat)
  | text (bs : List Byte)
  deriving DecidableEq, Repr

/-- The request block of REQ_SUBMIT (R682). Budgets are microseconds (R344). `ringHead` and `ringTail` are what the emit
ring's control block reads when the request is admitted (R270). `block` is PARAM_BYTES, `buf` holds the bytes of BUF. -/
structure ReqArgs where
  sample  : SampleOpts
  text    : TextOpts
  gram    : GramOpts
  budFirst : Nat
  budInter : Nat
  budTotal : Nat
  hints   : Option Hints
  ring    : Ring
  ringHead : Nat
  ringTail : Nat
  stops   : List (List Byte)
  block   : Nat
  buf     : List Byte
  deriving DecidableEq, Repr

/-- Whether PARAM_BYTES is what the request block takes (R682). -/
def ReqArgs.blockOk (a : ReqArgs) : Bool := a.block == 0x70 + (a.stops.map List.length).sum

/-- Token entries of 4 bytes, the token in [17:0] (R682); bytes that fill no entry are none. -/
def tokenEntries (bs : List Byte) : List Nat :=
  match bs with
  | a :: b :: c :: d :: r => leNat [a, b, c, d] % 2 ^ 18 :: tokenEntries r
  | _ => []

/-- The input of a request: INPUT_TEXT says how BUF is read (R257, R682). -/
def ReqArgs.input (a : ReqArgs) : Input := if a.text.inputText then .text a.buf else .tokens (tokenEntries a.buf)

-- Text (07) --------------------------------------------------------------------------------------------------

/-- Where a released byte comes from: a character, a run that was replaced, or a run that was released raw (R265). -/
inductive Origin where
  | plain | replaced | raw
  deriving DecidableEq, Repr

/-- A released byte with its origin: the record that carries it is flagged by it, however long the stop holdback keeps it. -/
abbrev TextByte := Byte × Origin

/-- A merge bucket whose VALID bit is 1 (R253). -/
structure Merge where
  left   : Nat
  right  : Nat
  result : Nat
  rank   : Nat
  deriving DecidableEq, Repr

/-- A text table set (R250, R251): its bytes, a byte that `mem` does not list being zero, its first byte in the context region, and its
SHA-384. The fields of its tables are read from the bytes (Tables.lean). -/
structure TextSet where
  base   : Nat
  mem    : Memory
  digest : Nat
  deriving DecidableEq, Repr

-- Grammar images (08) ----------------------------------------------------------------------------------------------

/-- The stack operation of a row entry (R283). -/
inductive StackOp where
  | keep | push (sym : Nat) | pop | replace (sym : Nat)
  deriving DecidableEq, Repr

/-- A row entry (R283): none where VALID is 0. -/
structure RowEntry where
  next : Nat
  op   : StackOp
  deriving DecidableEq, Repr

/-- A pair bucket whose VALID bit is 1 (R282); `mask` is MASK_ID, none for 0xFFFF. -/
structure GramPair where
  bucket : Nat
  state  : Nat
  top    : Nat
  mask   : Option Nat
  row    : Nat
  depStart : Nat
  depCount : Nat
  accept : Bool
  growth : Nat
  deriving DecidableEq, Repr

/-- A grammar image (R281): its bytes, a byte that `mem` does not list being zero. The fields of its tables are read from the bytes
(Tables.lean). -/
structure GrmImage where
  mem : Memory
  deriving DecidableEq, Repr

/-- A registered grammar (R285, R287). -/
structure Grammar where
  main      : Nat
  image     : GrmImage
  loadGen   : Nat
  unloading : Bool
  users     : Nat
  frames    : List Nat
  deriving DecidableEq, Repr

/-- A session's grammar frame (R288). -/
structure GramState where
  frame     : Nat
  id        : Nat
  loadGen   : Nat
  state     : Nat
  stack     : List Nat   -- top first
  undoValid : Bool
  undoState : Nat
  undoDepth : Nat
  undoLow   : Nat
  undo      : List Nat   -- symbols at depths UNDO_LOW to UNDO_DEPTH - 1, deepest first
  deriving DecidableEq, Repr

-- Contexts (04 R142, 06 R227 to R237, 10 R334) ----------------------------------------------------------------------

/-- Context kinds (R334). -/
inductive CtxKind where
  | main | fallback | expert | search | system
  deriving DecidableEq, Repr

/-- KIND codes of R363. -/
def CtxKind.code (k : CtxKind) : Nat :=
  match k with
  | .main => 0 | .fallback => 1 | .expert => 2 | .search => 3 | .system => 4

/-- Context classes (R334, R363). -/
inductive CtxClass where
  | lc | be | bg
  deriving DecidableEq, Repr

/-- CLASS codes of R363. -/
def CtxClass.code (k : CtxClass) : Nat :=
  match k with
  | .lc => 0 | .be => 1 | .bg => 2

/-- Context states (R337). -/
inductive CtxState where
  | absent | loading | ready | down
  deriving DecidableEq, Repr

/-- STATE codes of R337. -/
def CtxState.code (k : CtxState) : Nat :=
  match k with
  | .absent => 0 | .loading => 1 | .ready => 2 | .down => 3

/-- A rotary descriptor (R142); ROPE_BASE and POS_SCALE are FP32 patterns. -/
structure Rotary where
  dims   : Nat
  split  : Bool     -- ROPE_LAYOUT 1: element k pairs with k + ROPE_DIMS / 2
  base   : Word32
  scale  : Word32
  layers : List Nat -- layers whose LAYER_MASK bit is 1
  deriving DecidableEq, Repr

/-- Spaces of a descriptor address (R227). -/
inductive Space where
  | store | region | tile | area
  deriving DecidableEq, Repr

/-- A tile-program instruction as program memory holds it: 128 bits, stored as 16 bytes in little-endian order (R226). -/
abbrev TWord := BitVec 128

/-- A descriptor as the descriptor table holds it: 32 bytes, read as a little-endian number (R227). -/
abbrev DWord := BitVec 256

/-- A descriptor (R227). Type code 9 is binary, 10 is token (R228). -/
structure Desc where
  space  : Space
  off    : Nat
  rows   : Nat
  cols   : Nat
  stride : Nat
  type   : Nat
  scaling : Nat
  scaleOff : Nat
  rep    : Nat
  deriving DecidableEq, Repr

/-- Fields of a tile-program instruction other than the opcode (R226); a descriptor index of 0xFFF names no operand. -/
structure TInstr where
  mode    : Nat
  last    : Bool
  repDst  : Bool
  repA    : Bool
  repB    : Bool
  dst     : Nat
  srcA    : Nat
  srcB    : Nat
  srcC    : Nat
  imm     : Word32
  barrier : Nat
  count   : Nat
  deriving DecidableEq, Repr

/-- A private expert (R152): GELU instead of SiLU, the element type, and its weight matrices as rows of elements
with scales of 32 elements. -/
structure Expert where
  gelu   : Bool
  elem   : Elem
  gate   : List (List Nat × List Nat)
  up     : List (List Nat × List Nat)
  down   : List (List Nat × List Nat)
  deriving DecidableEq, Repr

/-- What the placement image gives a context (R237, R334, R336). -/
structure CtxImage where
  kind    : CtxKind
  cls     : CtxClass
  layers  : Nat
  heads   : Nat
  qheads  : Nat
  geom    : Geometry
  rotary  : Rotary
  vocab   : Nat
  eos     : Nat
  text    : Option TextSet
  fallback : Nat
  dModel  : Nat
  experts : AMap Nat Expert
  share   : Nat        -- tile-store share per core, in units of 2 KiB
  shareBase : Nat      -- its first 2 KiB unit
  pinned  : List Byte  -- contents of the pinned region at the start of the share
  region  : Nat        -- bytes of its LPDDR6 context region
  qryShare : Nat
  table   : List DWord -- its descriptor table (R227)
  entries : List Nat   -- its entry table: instruction indexes in program memory (R237)
  progShare : Nat      -- bytes of its program share
  progBase : Nat       -- its first instruction index in program memory
  prog    : List TWord -- its programs (R236)
  resident : Bool      -- an expert context may keep several sets; false: one set
  arena   : Nat        -- search service: bytes of the search arena (R473)
  keySlot : Nat
  weights : List (Nat × Nat) -- its weight table: offset in the context region and bytes of each block (R508, R526)
  sources : List Word64 -- image keys whose weight blocks its weight table takes (R526)
  deriving DecidableEq, Repr

/-- Number of (layer, head) pairs (R97). -/
def CtxImage.pairs (c : CtxImage) : Nat := c.layers * c.heads
/-- The group size g (R124). -/
def CtxImage.group (c : CtxImage) : Nat := if c.heads = 0 then 0 else c.qheads / c.heads

end Sys2Proof.Machine
end

