-- ==== Sys2Proof/Machine/Records.lean ====
section
/-!
DEFINITION. Records of the state: requests, slices and batches, bonds, quarry, errors, host queues
(02, 04, 07, 09, 12, 13, 20, 22). A record here is plain data; the rule that names each field stands beside it.
-/

namespace Sys2Proof.Machine

-- Host queues (20) ---------------------------------------------------------------------------------------------------

/-- A fetched command whose completion has not been posted: tag, slot of its entry, and whether the tag was already
outstanding when it came (R685), and the partition that the command acts for. -/
structure SqTag where
  tag  : Nat
  slot : Nat
  dup  : Bool
  part : Option Nat
  deriving DecidableEq, Repr

/-- A submission queue (R674 to R679): whether it is enabled, values in force since its enable, the slot after the last
entry fetched, TAIL, and the outstanding tags, oldest first. -/
structure Sq where
  on   : Bool
  v2   : Bool
  cq   : Nat
  size : Nat
  head : Nat
  tail : Nat
  tags : List SqTag
  deriving DecidableEq, Repr

/-- A completion queue (R675 to R687): values in force since its enable, entries posted since then, the slot the host
has released up to (head) and how many entries it has not released, completions that wait for room (R679), and
unsignalled events. `timer`: the COAL_TIME count runs. -/
structure Cq where
  on     : Bool
  v2     : Bool
  vector : Nat
  coal   : Nat
  size   : Nat
  posted : Nat
  held   : Nat
  head   : Nat
  waiting : List Completion
  unsignalled : Nat
  timer  : Bool
  deriving DecidableEq, Repr

-- Requests (02 R64, 04, 07, 09, 10) ------------------------------------------------------------------------------------

/-- Phases of a request (R64). -/
inductive Phase where
  | queued | admitted | appending | generating | ending
  deriving DecidableEq, Repr

/-- What an admitted request still waits for before its appending phase. -/
inductive AdmitWait where
  | loading      -- its context is LOADING (R337)
  | tokens       -- tokenisation (R260)
  | frames       -- ZEROING frames (R383)
  | fallback     -- its fallback context is LOADING (R337)
  deriving DecidableEq, Repr

/-- A budget of a request (R344 to R349): whether it counts now, whether its notice has been posted, and the percentages of
its notice and switch marks as they stood when its interval started (R360; 0: no mark). -/
structure Budget where
  us       : Nat
  running  : Bool
  noticed  : Bool
  warn     : Nat
  switch   : Nat
  deriving DecidableEq, Repr

/-- The emit ring of a request (R270 to R274): HEAD, the TAIL last read, the next SEQ. -/
structure Emit where
  ring : Ring
  head : Nat
  tail : Nat
  seq  : Nat
  deriving DecidableEq, Repr

/-- A key and value of one pair at the pending position, BF16 (R128), and its step mass, FP32 (R145). -/
structure Pend where
  key   : List Nat
  value : List Nat
  mass  : Nat
  deriving DecidableEq, Repr

/-- A completed logit packet (R577) that waits for its mask (R297): FP32 patterns. -/
structure LogitPacket where
  pos    : Nat
  logits : List Nat
  deriving DecidableEq, Repr

/-- The penalty table of a request (R313, R314): tokens with an entry and their counts, the overflow presence set and
the total O. -/
structure Penalty where
  counts   : AMap Nat Nat
  present  : List Nat
  overflow : Nat
  overflowed : Bool
  deriving DecidableEq, Repr

/-- A token that the commit gate holds for emit-ring room (R274). -/
structure HeldToken where
  token  : Nat
  forced : Bool
  deriving DecidableEq, Repr

/-- An end that has been decided and whose end record waits for room (R804). -/
structure HeldEnd where
  status  : Status
  text    : List Byte
  flags   : Nat
  trimmed : Nat
  deriving DecidableEq, Repr

/-- A running or admitted request; it stands under its session's slot. -/
structure Req where
  fn      : Fn
  sq      : Option Nat
  tag     : Nat
  flags   : SubFlags
  part    : Nat
  slot    : Nat
  phase   : Phase
  wait    : Option AdmitWait
  args    : ReqArgs
  main    : Nat
  comp    : Nat
  epoch   : Nat
  seed    : Word64
  committed : Nat          -- generated tokens committed
  lost    : Nat            -- tokens lost by a re-prefill (R193)
  input   : List Nat       -- tokens to append
  appendFrom : Nat         -- first position of the handoff range (NEXT_POS at its opening)
  appendTokens : List Nat  -- tokens at the positions of the handoff range
  rangeTo : Nat            -- one past the last position of the range
  firstLog : Bool          -- the request has written no log entry yet (R318)
  served  : List (Nat × Nat)      -- (layer, head) served in this step (R127, R130)
  opening : Bool           -- the next draw is the opening draw (R305)
  pending : AMap (Nat × Nat) Pend
  frames  : List Nat       -- tile frames charged for pending buffer and penalty table (R128, R313)
  chunks  : AMap Nat (List Nat)   -- logit chunks received, by first index
  packet  : Option LogitPacket
  maskReady : Bool
  pen     : Penalty
  utf8    : List Byte      -- UTF-8 holdback (R265)
  stopHold : List TextByte     -- stop holdback (R267)
  emit    : Option Emit
  held    : Option HeldToken
  heldEnd : Option HeldEnd
  grammar : Option Nat     -- registry entry in use
  onFallback : Bool
  startedFallback : Bool
  fbCtx   : Nat
  fbTiles : AMap Nat MEntry       -- fallback mortar (R352)
  fbPages : List Nat              -- mortar frames of its pages
  fbReady : Bool
  first   : Budget
  inter   : Budget
  total   : Budget
  bonds   : Nat            -- bonds of the request that committed (R467)
  moved   : Nat
  lastBond : Nat
  exact   : Bool           -- an exact re-prefill runs before its own input (R193)
  report  : Nat            -- fault report that its completion names (R466)
  deriving DecidableEq, Repr

-- Slices, batches, experts (04) -----------------------------------------------------------------------------------------

/-- A query slice (R125); vectors are BF16. -/
structure Slice where
  handle  : Word64
  epoch   : Nat
  pos     : Nat
  layer   : Nat
  kvFirst : Nat
  kvCount : Nat
  q       : List (List Nat)
  k       : List (List Nat)
  v       : List (List Nat)
  deriving DecidableEq, Repr

/-- An expert packet (R151). -/
structure ExpertPkt where
  handle : Word64
  epoch  : Nat
  pos    : Nat
  layer  : Nat
  expert : Nat
  gate   : Word32
  x      : List Nat
  deriving DecidableEq, Repr

/-- A slice in service: it waits for a batch to close (R147) or for tiles (R138). `front`: counted as a stall. -/
structure SliceWork where
  slot    : Nat
  part    : Nat
  peer    : Nat
  tag     : Nat
  slice   : Slice
  batch   : Option Nat
  stalled : Bool
  massMode : Nat           -- MASS_MODE as it stood when the slice arrived (R164)
  deriving DecidableEq, Repr

/-- What makes slices or expert packets share a batch (R147, R153). -/
inductive BatchKey where
  | slices (part ctx layer kvFirst kvCount pfx : Nat)
  | experts (part ctx layer expert : Nat)
  deriving DecidableEq, Repr

/-- An expert packet in an open batch. -/
structure ExpertWork where
  slot : Nat
  part : Nat
  peer : Nat
  tag  : Nat
  ctx  : Nat
  pkt  : ExpertPkt
  deriving DecidableEq, Repr

/-- An open batch: its key and its expert packets; its slices name it (SliceWork.batch). -/
structure Batch where
  key     : BatchKey
  experts : List ExpertWork
  deriving DecidableEq, Repr

-- Bonds (13) ------------------------------------------------------------------------------------------------------------

/-- Why a bond is open across commands (R459). -/
inductive BondKind where
  | handoff | warmPark | coldPark | persist | revive | promotion | displacement | move | shard | manifest | hostData | removal
  deriving DecidableEq, Repr

/-- Kinds of actions (R443). -/
inductive ActKind where
  | tileMove | tileInstall | mortarWrite | refChange | frameRelease | quarryMap | quarryTrim | directory | tokenLog | grammar | penalty
  | pendingInstall | emit | registry | checkpoint
  deriving DecidableEq, Repr

/-- KIND codes of R443. -/
def ActKind.code (k : ActKind) : Nat :=
  match k with
  | .tileMove => 1 | .tileInstall => 2 | .mortarWrite => 3 | .refChange => 4 | .frameRelease => 5 | .quarryMap => 6 | .quarryTrim => 7
  | .directory => 8 | .tokenLog => 9 | .grammar => 10 | .penalty => 11 | .pendingInstall => 12 | .emit => 13 | .registry => 14
  | .checkpoint => 15

/-- Whether a kind names runs of targets (R443). -/
def ActKind.lists (k : ActKind) : Bool := k == .tileInstall || k == .refChange || k == .frameRelease || k == .quarryMap || k == .quarryTrim

/-- An action record (R455). -/
structure ActRec where
  kind   : ActKind
  list   : Bool
  inTail : Bool
  count  : Nat
  target : Nat
  new    : Nat
  deriving DecidableEq, Repr

/-- The 32 bytes of an action record (R455). -/
def ActRec.bytes (r : ActRec) : List Byte :=
  leBytes 1 r.kind.code ++ leBytes 1 ((if r.list then 1 else 0) + (if r.inTail then 2 else 0)) ++ leBytes 2 0 ++ leBytes 4 r.count
    ++ leBytes 8 r.target ++ leBytes 16 r.new

/-- An open bond: its journal slot's header and the action records that its movers have appended (R445, R454). `arg`: what its kind counts (log entries that a persist holds). -/
structure Bond where
  id     : Nat
  part   : Nat
  seq    : Nat
  kind   : BondKind
  slot   : Nat
  fn     : Option Fn
  queue  : Nat
  tag    : Nat
  quarry : Bool
  actions : List ActRec
  arg    : Nat
  deriving DecidableEq, Repr

/-- A fault-report command entry (R467). -/
structure RepCmd where
  handle  : Word64
  fn      : Nat
  queue   : Nat
  tag     : Nat
  opcode  : Nat
  outcome : Nat
  status  : Status
  tokens  : Nat
  committed : Nat
  moved   : Nat
  lastBond : Nat
  firstOpen : Nat
  opened  : Nat
  deriving DecidableEq, Repr

/-- A fault-report bond entry (R467). -/
structure RepBond where
  id      : Nat
  outcome : Nat
  actions : Nat
  seq     : Nat
  deriving DecidableEq, Repr

/-- A fault report (R467). -/
structure Report where
  number  : Nat
  cause   : Status
  scope   : Nat
  ctx     : Nat
  cmds    : List RepCmd
  bonds   : List RepBond
  omitted : Nat
  stamp   : Nat
  deriving DecidableEq, Repr

/-- BYTES of a report as held (R467). -/
def Report.bytes (r : Report) : Nat := 32 + 48 * r.cmds.length + 16 * r.bonds.length

-- Quarry (12) -----------------------------------------------------------------------------------------------------------

/-- Block states (R414). -/
inductive BlkState where
  | free | openSlc | openTlc | closedSlc | closedTlc | retired | reserved | erasing
  deriving DecidableEq, Repr

/-- A block-table entry (R414); the key of a block is its PPA without the page. -/
structure Blk where
  erases : Nat
  valid  : Nat
  reads  : Nat
  state  : BlkState
  next   : Nat      -- next page to program while open
  deriving DecidableEq, Repr

/-- Kinds of logical frames (R409, R412). -/
inductive QKind where
  | tile | quarter
  deriving DecidableEq, Repr

/-- A map entry (R412); a frame that the map does not list is not live. -/
structure QMap where
  owner : Nat
  kind  : QKind
  slc   : Bool
  ppa   : Nat
  marked : Bool     -- marked for relocation (R408)
  bad    : Bool     -- uncorrectable (R434)
  key    : Nat      -- key epoch of its owner's quarry key when it was programmed (R411)
  deriving DecidableEq, Repr

/-- Map journal operations (R415). -/
inductive QOp where
  | map | trim | relocate | mapPage | retire | eraseStart | eraseDone
  deriving DecidableEq, Repr

/-- A map journal record (R415). -/
structure QRec where
  bond   : Nat
  part   : Nat
  op     : QOp
  target : Nat
  new    : Nat
  old    : Nat
  deriving DecidableEq, Repr

/-- The NAND section of the configuration image (R402 to R404, R701): the channels that carry targets, the targets of each, the geometry, the
interface (0 SDR, 1 NV-DDR3, 2 NV-LPDDR4), its rate in MT/s, and the timing parameters in nanoseconds in the order of R404. -/
structure NandGeom where
  mask    : Nat
  targets : Nat
  luns    : Nat
  planes  : Nat
  blocks  : Nat
  pages   : Nat
  page    : Nat     -- bytes of data of a page
  spare   : Nat     -- bytes of its spare area
  iface   : Nat
  rate    : Nat
  times   : List Nat
  deriving DecidableEq, Repr

/-- The ranges of R404 in nanoseconds: tR, tR_SLC, tPROG, tPROG_SLC, tBERS, tWB, tCCS, tFEAT, tITC, STATUS_TIMEOUT. -/
def nandRanges : List (Nat × Nat) :=
  [(10000, 200000), (5000, 100000), (200000, 6000000), (50000, 1000000), (1000000, 30000000), (10, 200), (100, 1000), (1000, 10000),
   (1000, 10000), (1000000, 100000000)]

/-- Whether the timing parameters of a NAND section lie inside the table of R404. -/
def NandGeom.ok (g : NandGeom) : Bool :=
  g.times.length == nandRanges.length && (g.times.zip nandRanges).all (fun x => decide (x.2.1 ≤ x.1) && decide (x.1 ≤ x.2.2))

-- Errors (22) -----------------------------------------------------------------------------------------------------------

/-- Error classes (R728). -/
inductive ErrClass where
  | ce | uc | pf | df
  deriving DecidableEq, Repr

/-- CLASS codes of R728. -/
def ErrClass.code (c : ErrClass) : Nat :=
  match c with
  | .ce => 0 | .uc => 1 | .pf => 2 | .df => 3

/-- One step up (R740). -/
def ErrClass.raise (c : ErrClass) : ErrClass :=
  match c with
  | .ce => .uc | .uc => .pf | .pf => .df | .df => .df

/-- An error record (R735). `part`: none for FLAGS DEVICE. -/
structure ErrRec where
  seq      : Nat
  cls      : ErrClass
  source   : Nat
  nested   : Bool
  raised   : Bool
  dumped   : Bool
  depth    : Nat
  parent   : Nat
  part     : Option Nat
  ctx      : Nat
  status   : Status
  location : Nat
  handle   : Word64
  detail   : Nat
  count    : Nat
  stamp    : Nat
  stampLast : Nat
  deriving DecidableEq, Repr

/-- A recovery that is running (R728, R739). -/
structure Recovery where
  seq  : Nat
  cls  : ErrClass
  depth : Nat
  part : Option Nat
  ctx  : Nat
  location : Nat
  source : Nat
  deriving DecidableEq, Repr

end Sys2Proof.Machine
end

