-- ==== Sys2Proof/Machine/StoreTypes.lean ====
section
/-!
DEFINITION. Vector-search collections and checkpoints as data (14_vector_search.md R471 to R493,
15_checkpoint_and_restore.md R499 to R527).
-/

namespace Sys2Proof.Machine

-- Collections (14) ---------------------------------------------------------------------------------------------------

/-- Geometry of a collection as VSR_CREATE gives it (R471, R475); codes as in GEOM. -/
structure CollGeom where
  sk      : Nat   -- 0 = 256, 1 = 512, 2 = 1,024 bits
  int8    : Bool
  metric  : Nat
  degree  : Nat
  dim     : Nat
  logIds  : Nat
  capacity : Nat
  deriving DecidableEq, Repr

/-- A node (R474): sketch, elements, INT8 scale (FP32), adjacency without its empty places, item and DEL_EPOCH. -/
structure Node where
  sketch : Nat
  vec    : List Nat
  scale  : Word32
  adj    : List Nat
  item   : Nat
  del    : Nat
  deriving DecidableEq, Repr

/-- A collection (R474 to R477): G + L is the number of nodes, node n stands at place n. -/
structure Coll where
  part   : Nat
  ctx    : Nat
  geom   : CollGeom
  entry  : Option Nat
  graphLen : Nat
  tombEpoch : Nat
  nodes  : List Node
  items  : AMap Nat Nat
  extOff : Nat
  extSize : Nat
  dropping : Bool
  closed : Bool      -- closed by poison (R732)
  asked  : Bool      -- VSR_POINT asked for pointing
  sweep  : Bool      -- VSR_POINT asked for a sweep (R493)
  held   : Nat       -- checkpoint reads that hold pointing off (R527)
  deriving DecidableEq, Repr

/-- L, the side list's length (R475). -/
def Coll.sideLen (c : Coll) : Nat := c.nodes.length - c.graphLen

/-- Operands of VSR_INSERT (R478). -/
structure VsrItem where
  coll   : Nat
  item   : Nat
  sketch : Nat
  vec    : List Nat
  scale  : Word32
  deriving DecidableEq, Repr

/-- Operands of VSR_QUERY (R482). -/
structure VsrAsk where
  coll   : Nat
  sketch : Nat
  vec    : List Nat
  k      : Nat
  ef     : Nat
  rerank : Nat
  deriving DecidableEq, Repr

/-- A query in progress: its snapshot (R483) and its place in a scan batch (R488). -/
structure VsrRun where
  fn   : Fn
  sq   : Option Nat
  tag  : Nat
  ask  : VsrAsk
  part : Nat
  g0   : Nat
  l0   : Nat
  e0   : Nat
  deriving DecidableEq, Repr

/-- A result entry (R487). -/
structure VsrResult where
  item    : Nat
  score   : Word32
  hamming : Nat
  side    : Bool
  deriving DecidableEq, Repr

-- Checkpoints (15) -----------------------------------------------------------------------------------------------------

/-- A position of a content shard (R508): as in a tile, without its mass. -/
structure CPos where
  key     : List Nat
  value   : List Nat
  kscales : List Nat
  vscales : List Nat
  pos     : Nat
  merged  : Bool
  mcount  : Nat
  deriving DecidableEq, Repr

/-- Session meta (R508). -/
structure SesMeta where
  nextPos  : Nat
  reqCount : Nat
  pfxLog   : Option (List LogEntry)  -- what the prefix key names; none for no prefix
  pfxTiles : Nat
  hints    : Hints
  hostData : BitVec 128
  main     : Nat
  fallback : Nat
  dressed  : Bool
  grammar  : Option GramState
  log      : List LogEntry
  deriving DecidableEq, Repr

/-- Bodies of shards (R508). -/
inductive ShardBody where
  | ses (m : SesMeta)
  | content (cols : List (List CPos))
  | mass (ms : List (List Word16))
  | pfx (main tokens full : Nat) (log : List LogEntry)
  | weight (bytes : List Byte)
  | coll (geom : CollGeom) (ctx graphLen sideLen tombEpoch : Nat) (entry : Option Nat) (rows : List (List Nat))
  deriving DecidableEq, Repr

/-- What a shard belongs to (R506 OBJECT). A prefix key is a hash of the prefix's token log, which stands for it here. -/
inductive ShardObj where
  | session (h : Word64)
  | pfx (log : List LogEntry)
  | image (key : Word64)
  | coll (c : Nat)
  deriving DecidableEq, Repr

/-- A shard (R506, R507): header fields that its digest covers and the plaintext body. The digest, SHA-384 of these, is
taken to tell different shards apart, so the shard itself stands for its digest. -/
structure Shard where
  kind   : Nat
  geom   : Option Geometry
  layer  : Nat
  head   : Nat
  object : ShardObj
  first  : Nat
  count  : Nat
  body   : ShardBody
  deriving DecidableEq, Repr

/-- A session entry of a manifest (R514). -/
structure ManSes where
  handle  : Word64
  nextPos : Nat
  logCount : Nat
  main    : Nat
  dressed : Bool
  grammar : Bool
  pfxLog  : Option (List LogEntry)
  deriving DecidableEq, Repr

/-- A manifest (R514). -/
structure Manifest where
  series   : Nat
  part     : Nat
  scope    : Nat
  step     : Nat
  sessions : List ManSes
  prefixes : List (List LogEntry)
  shards   : List Shard
  stamp    : Nat
  device   : Nat      -- DEVICE_ID, the SHA-384 of the writer's identity certificate, which its peer ID names (R567)
  keySlot  : Nat
  deriving DecidableEq, Repr

/-- An entry of a partition's shard index (R511). -/
structure ShardIdx where
  shard  : Shard
  step   : Nat      -- STEP_WRITTEN (R506)
  frames : List Nat
  refs   : Nat
  holds  : Nat
  bad    : Bool
  deriving DecidableEq, Repr

/-- Objects a checkpoint names (R501). -/
inductive CkpObj where
  | session (h : Word64)
  | context (c : Nat)
  | coll (c : Nat)
  deriving DecidableEq, Repr

/-- Operands of CKP_WRITE (R501, R513). -/
structure CkpAsk where
  series : Nat
  host   : Bool
  scope  : Nat
  step   : Nat
  ring   : Ring
  head   : Nat            -- HEAD and TAIL as the ring's control block reads when the checkpoint starts
  tail   : Nat
  held   : List Shard     -- the have list
  objs   : List CkpObj
  deriving DecidableEq, Repr

/-- An open checkpoint (R500): what is still to be stored, what it has stored and holds, the state of its host ring, and its
manifest. -/
structure CkpRun where
  fn      : Fn
  sq      : Option Nat
  tag     : Nat
  ask     : CkpAsk
  todo    : List Shard
  stored  : List Shard
  holds   : List Shard
  head    : Nat
  tail    : Nat
  stopped : Bool          -- a record waits for room (R513)
  man     : Manifest
  count   : Nat
  lastBond : Nat          -- its last committed bond (R467)
  slots   : List Nat      -- sessions whose tile reads have not ended (R504)
  colls   : List Nat      -- collections whose pointing the read holds off (R527)
  deriving DecidableEq, Repr

/-- Where a restore reads from (R519): the quarry, or the host with what it supplies and whether the signature of the
supplied manifest verifies (R520 order 1). -/
structure CkpRestoreAsk where
  series : Nat
  host   : Bool
  step   : Nat
  man    : Option Manifest   -- host source: none for a malformed manifest
  sigOk  : Bool
  table  : List Shard        -- host source: shards whose tag and digest check
  deriving DecidableEq, Repr

end Sys2Proof.Machine
end

