-- ==== Sys2Proof/Machine/LinkTypes.lean ====
section
/-!
DEFINITION. Solvor ports, groups, messages, peers, compositions and moves as data (16_solvor_link_layer.md R530 to R566,
17_solvor_messages_and_compositions.md R567 to R606, 05 R199, 18_egress_scheduling.md).
-/

namespace Sys2Proof.Machine

-- Ports (16) ------------------------------------------------------------------------------------------------------------

/-- Port states (R533). -/
inductive PortState where
  | down | train | align | opened | sealed | recovery
  deriving DecidableEq, Repr

/-- STATE codes of R533. -/
def PortState.code (s : PortState) : Nat :=
  match s with
  | .down => 0 | .train => 1 | .align => 2 | .opened => 3 | .sealed => 4 | .recovery => 5

/-- Slot kinds of R545. -/
inductive SlotKind where
  | empty | flit | withdrawn
  deriving DecidableEq, Repr

/-- A data slot (R545). -/
structure DSlot where
  kind  : SlotKind
  vc    : Nat
  som   : Bool
  eom   : Bool
  bytes : Nat
  deriving DecidableEq, Repr

/-- A link control word (R548). -/
inductive LinkWord where
  | hello (gen : Nat) (bufs : List Nat) (retry : Nat)
  | rekeyReady (key phase : Nat)
  | rekeyAsk (key : Nat)
  | laneRetire (lane : Nat)
  | down (reason : Nat)
  deriving DecidableEq, Repr

/-- A group of this end's retry buffer (R555): GSEQ, key index, slots, the control word it carries. -/
structure TxGroup where
  gseq  : Nat
  key   : Nat
  slots : List DSlot
  word  : Option LinkWord
  deriving DecidableEq, Repr

/-- A group as it arrives (R544): whether MARKER stands at the boundary, whether a codeword of it is uncorrectable
(R541), whether its tag verifies under the key its trailer names. -/
structure RxGroup where
  marker  : Bool
  damaged : Bool
  tagOk   : Bool
  key     : Nat
  phase   : Nat
  nak     : Bool
  gseq    : Nat
  ack     : Nat
  ctr     : Nat
  credit  : List Nat
  slots   : List DSlot
  word    : Option LinkWord
  deriving DecidableEq, Repr

/-- A key index of a port (R559 to R564). `rekeying`: a rekey of the transmit direction is under way; `rxLast`: the last FLIT_CTR
accepted under the receive phase. The key of the next receive phase follows from the hop secret without a message (19 R641), so
a group of the other phase whose tag checks is under it. -/
structure PortKey where
  txValid : Bool
  txPhase : Nat
  txCtr   : Nat
  rxValid : Bool
  rxPhase : Nat
  rxLast  : Option Nat
  rekeying : Bool
  deriving DecidableEq, Repr

/-- A key index with nothing installed. -/
def PortKey.none : PortKey := ⟨false, 0, 0, false, 0, .none, false⟩

-- Messages (17) -----------------------------------------------------------------------------------------------------------

/-- An output slice (R126, R575): the query slice's header, its status, its vectors, and the forwarding hint of R583. -/
structure OutSlice where
  handle  : Word64
  pos     : Nat
  layer   : Nat
  kvFirst : Nat
  kvCount : Nat
  status  : Status
  o       : List (List Nat)
  hint    : Option (Word64 × Word64)
  deriving DecidableEq, Repr

/-- A tile as a push or a pull answer carries it (R581). -/
structure PushedTile where
  layer  : Nat
  head   : Nat
  column : Nat
  part   : Bool
  tile   : Tile
  deriving DecidableEq, Repr

/-- Sections of a MOVE_OFFER (R585): the directory fields a target takes, mortar entries, log, grammar frame. -/
structure Offer where
  handle   : Word64
  nextPos  : Nat
  main     : Nat
  comp     : Nat
  epoch    : Nat      -- E of R199, from the MOVE field
  hints    : Hints
  hostData : BitVec 128
  reqCount : Nat
  dressed  : Bool
  entries  : List OfferEntry
  log      : List LogEntry
  grammar  : Option GramState
  deriving DecidableEq, Repr

/-- A quote (R638): the fields that the device state decides. -/
structure Quote where
  purpose  : Nat
  part     : Option Nat
  nonce    : Nat
  peerId   : Word64
  hwType   : Nat
  alarmCount : Nat
  wrapGen  : Nat
  latched  : Bool
  frozen   : Bool
  debug    : Bool
  conf     : Bool
  arbFixed : Bool
  rollback : Nat
  measFw   : Nat
  generation : Word64
  changeSeq : Nat
  configId : Nat      -- stands for MEAS_CONFIG
  planId   : Nat      -- stands for MEAS_PLAN
  places   : List Nat -- digests of the placement images of MEAS_PART
  keysId   : Nat      -- stands for the key-policy payload of MEAS_PART
  number   : Nat      -- counts quotes; stands for the fresh EPHEMERAL and the quote's digest
  deriving DecidableEq, Repr

/-- What an attestation policy entry of kind 5 names (R635): the digest of a root key, HW_TYPE and MEAS_FW. -/
structure Attest where
  root   : Nat
  hwType : Nat
  measFw : Nat
  deriving DecidableEq, Repr

/-- The quote of a peer as its ADMIT_QUOTE brings it (R638, R640): PURPOSE, NONCE, what the policy compares, whether its signature and its
certificates verify, and the lengths of the two certificates. -/
structure PeerQuote where
  purpose : Nat
  nonce   : Nat
  attest  : Attest
  sigOk   : Bool
  akLen   : Nat
  dikLen  : Nat
  deriving DecidableEq, Repr

/-- Bodies of the messages the device sends (R571 to R587). -/
inductive MsgBody where
  | output (o : OutSlice)
  | expertAnswer (pkt : ExpertPkt) (status : Status) (y : List Nat)
  | tokenStream (kind : Nat) (endStatus : Status) (first : Nat) (tokens : List Nat)
  | tilePull (layer head column frame : Nat)
  | pullAnswer (status : Status) (hint : Option (Word64 × Word64)) (t : Option PushedTile)
  | moveOffer (o : Offer)
  | moveAnswer (status : Status) (handle : Word64)
  | moveConfirm (handle : Word64)
  | moveAbort (reason : Status)
  | rehandshake (type tag : Nat)
  | admitAsk (parts nonce : Nat)
  | admitQuote (next : Nat) (q : Quote) (held : Nat)   -- `held`: bytes of the quote and both certificates
  | admitDone (status : Status)
  | ping (response : Bool)
  | keyRevoke (part epoch : Nat) (response : Bool)
  | malformed (type : Nat)
  deriving DecidableEq, Repr

/-- A message the device sends (R570): destination address, partition, epoch, composition, HANDLE, TAG. -/
structure Msg where
  dst    : Nat
  part   : Nat
  epoch  : Nat
  comp   : Nat
  handle : Word64
  tag    : Nat
  body   : MsgBody
  deriving DecidableEq, Repr

/-- A message that waits at a port (18): virtual channel, key index (0x10 link or zero key), class flow, bytes left. -/
structure TxMsg where
  msg   : Msg
  vc    : Nat
  mgmt  : Bool
  cls   : CtxClass
  bytes : Nat
  sent  : Nat
  deriving DecidableEq, Repr

/-- A received message (R546, R570): the port, virtual channel and key index of its flits and the bytes that they carry, then its header
with the reserved fields in it; `resv`: the reserved fields of its payload, read as one number. Its STATUS is an operand of the
answers that have one. -/
structure Hdr where
  port     : Nat
  vc       : Nat
  key      : Nat
  flits    : Nat
  type     : Nat
  flags    : Nat
  dst      : Nat
  src      : Nat
  partByte : Nat
  zero     : Nat      -- the byte at 0x07
  length   : Nat
  epoch    : Nat
  handle   : Word64
  comp     : Nat
  tag      : Nat
  resv     : Nat
  deriving DecidableEq, Repr

/-- PART of a header (R570). -/
def Hdr.part (h : Hdr) : Nat := h.partByte % 16
/-- The RESPONSE flag of a header. -/
def Hdr.response (h : Hdr) : Bool := bitOf h.flags 7
/-- LENGTH of a header in bytes. -/
def Hdr.bytes (h : Hdr) : Nat := h.length % 2 ^ 17

/-- The virtual channel of a message type, as a request or as a response (R571). -/
def typeVc (type : Nat) (resp : Bool) : Nat :=
  if type = 9 ∨ type = 10 then 0
  else if type = 7 then 3
  else if type = 2 ∨ type = 5 ∨ resp then 2
  else 1

/-- Whether a message type has an answer (R571). -/
def typeAnswered (type : Nat) : Bool := [1, 3, 6, 8, 9, 10].contains type

/-- Whether an endpoint of a role sends a message type to the device (R571): queries, experts, logits and pushes come from partners; pulls, answers
to pulls and key revokes from devices; control and management from either. -/
def roleSends (type : Nat) (resp device : Bool) : Bool :=
  if type = 1 ∨ type = 3 ∨ type = 4 then !device
  else if type = 6 then device
  else if type = 7 then resp == device
  else if type = 10 then resp || device
  else true

/-- Whether a received message of a type is malformed by its header (R573): a reserved field or code, LENGTH against the bytes of its flits and
against the bytes of its payload, which is none where the payload disagrees with its own counts, and the channel and key of R571 and
R572. `link`: the key index of management messages at the port. -/
def Hdr.malformed (h : Hdr) (type : Nat) (resp : Bool) (link : Nat) (size : Option Nat) : Bool :=
  h.type != type || h.response != resp || h.flags % 64 != 0 || h.partByte / 16 != 0 || h.zero != 0 || h.length / 2 ^ 17 != 0 || h.resv != 0
    || h.bytes != h.flits || size != some h.bytes
    || h.vc != typeVc type resp || h.key != (if type = 9 ∨ type = 10 then link else h.part)

-- Peers and compositions (17) -------------------------------------------------------------------------------------------------

/-- States of a peer-table entry (R609). -/
inductive PeerState where
  | admitting | admitted
  deriving DecidableEq, Repr

/-- A peer-table entry (R589, R609); an index that the table does not list is free. `gotQuote`: the peer's quote has been
received and verified; `pings`: unanswered PINGs; `mine`: this device began the admission; `asks`: PEER_ADD commands that wait
for it; `nonces`: the nonces of this device that a quote of the peer may answer (R640). Indexes from 1024 on hold the switch of a port while its hop is admitted (R640). -/
structure Peer where
  id      : Word64
  state   : PeerState
  device  : Bool
  port    : Nat
  parts   : Nat
  fabric  : Nat
  lastUse : Nat
  pings   : Nat
  gotQuote : Bool
  mine    : Bool
  asks    : List Owner
  nonces  : List Nat
  deriving DecidableEq, Repr

/-- A range of a map (R594): the partners that COUNT names, the unused places of its four, and its reserved field. -/
structure MapRange where
  first : Nat
  last  : Nat
  peers : List Word64
  rest  : List Word64
  resv  : Nat
  deriving DecidableEq, Repr

/-- A move entry of a map (R594). -/
structure MapMove where
  handle : Word64
  owner  : Word64
  new    : Word64
  deriving DecidableEq, Repr

/-- A composition map (R594); `resv`: the reserved fields of its header, read as one number; `bytes`: the bytes of the buffer that holds it. -/
structure CMap where
  comp    : Nat
  part    : Nat
  main    : Nat
  epoch   : Nat
  fronts  : List Word64
  ranges  : List MapRange
  devices : List Word64
  moves   : List MapMove
  resv    : Nat
  bytes   : Nat
  deriving DecidableEq, Repr

/-- A composition (R593 to R606), under its index of CMP_COMP. `cur`: the current map; `old`: retained maps; `frac`: the
fraction of WEIGHTED, in units of 1 / 65,536. -/
structure Comp where
  id       : Nat
  part     : Nat
  main     : Nat
  cur      : CMap
  old      : List CMap
  removing : Bool
  elapsed  : Word64
  weighted : Word64
  frac     : Nat
  deriving DecidableEq, Repr

/-- A forwarding entry (R601). -/
structure Forward where
  part : Nat
  old  : Word64
  peer : Word64
  new  : Word64
  deriving DecidableEq, Repr

/-- A move at its source (R199): command, target, epoch E, frames of the offer by entry index, staging frames and the
quarry frames they are filled from, what has arrived from the target. -/
structure MoveOut where
  fn      : Fn
  sq      : Option Nat
  tag     : Nat
  peer    : Nat
  epoch   : Nat
  parked  : Bool
  offered : AMap Nat Nat
  staging : AMap Nat Nat
  target  : Option Word64
  confirmed : Bool
  wireTag : Nat
  asks    : List (Nat × Hdr)   -- pulls that wait for their staging frame to be filled
  filled  : List Nat           -- entries whose staging frame has been filled
  deriving DecidableEq, Repr

/-- A move at its target (R199): the source, its handle there, entries still to pull. -/
structure MoveIn where
  peer    : Nat
  srcHandle : Word64
  comp    : Nat
  epoch   : Nat
  deriving DecidableEq, Repr

/-- An outstanding pull (R602, R603): session, mortar entry index, attempts made. -/
structure Pull where
  slot  : Nat
  entry : Nat
  peer  : Nat
  tag   : Nat
  tries : Nat
  deriving DecidableEq, Repr

end Sys2Proof.Machine
end

