-- ==== Sys2Proof/Machine/Reg.lean ====
section
/-!
DEFINITION. The register map (24_register_map.md R759 to R769 and the register tables of the owning chapters): the
classes of registers, where each lies, its fields with their access codes (00_scope.md R16) and reset values.
A field of access `view` is read-only and computed from the rest of the state; it stores nothing.
-/

namespace Sys2Proof.Machine

/-- Access codes of register fields (R16); `view` marks an RO field that the state computes. -/
inductive Access where
  | ro | rw | wo | w1c | rwl | view
  deriving DecidableEq, Repr

/-- Who sees a register besides PF0 (R766). -/
inductive Seen where
  | all        -- every function
  | part       -- the function of partition i
  | pf0        -- PF0 only
  | own        -- each function its own copy
  | ownPf      -- each PF0 its own copy
  | core       -- the partition that owns core i
  | coll       -- the partition of collection i
  | comp       -- the partition of composition i
  | peer       -- a partition the peer is admitted for
  | slot       -- the partition that owns key slot i
  | blk        -- the functions that see part of the window
  deriving DecidableEq, Repr

/-- The classes of registers (R769). -/
inductive RegClass where
  | glbFunc
  | glbHw
  | glbCoreMap
  | hifLink
  | hifErr
  | hifMboxCtl
  | hifVfMap
  | hifSqBase
  | hifSqCfg
  | hifCqBase
  | hifCqCfg
  | hifBounceBase
  | hifBounceSize
  | hifMboxData
  | sesPartRange
  | sesParkPolicy
  | sesLive
  | sesRetired
  | morPfxStat
  | morPinned
  | morShareCopies
  | attCfg
  | attCapCtl
  | attCapSes
  | attCapBase
  | attCapPtr
  | attStalls
  | attSpills
  | attCapDrops
  | drsCfg
  | drsProfile
  | drsParksWarm
  | drsParksExact
  | drsParksDressed
  | drsDropped
  | drsRevived
  | drsDemand
  | corStat
  | corCfg
  | corFault
  | corFresh
  | corNan
  | corFaultInstr
  | txtCfg
  | txtInvalid
  | txtReplaced
  | txtRingWaits
  | grmStat
  | grmStalls
  | grmForced
  | grmSlow
  | grmMaskWaits
  | smpDraws
  | smpOverflows
  | smpRollbacks
  | smpGateCancels
  | smpBadLogits
  | schPartCores
  | schCfg
  | schDlCfg
  | schNotices
  | schSwitches
  | schSwitchFails
  | schDlFails
  | schTeardowns
  | schCtx
  | memCfg
  | memCap
  | memTileDataBase
  | memTileSideBase
  | memMortarBase
  | memRecordBase
  | memFrames
  | memPartTiles
  | memPartMortar
  | memPartCtx
  | memPartQuota
  | memPlace
  | memUse
  | memArbSlot
  | memZeroWaits
  | qryCfg
  | qryWearCfg
  | qryCap
  | qryGcStat
  | qryWear
  | qryCe
  | qryUc
  | qryProgFails
  | qryRelocs
  | qryGov
  | qryGovBudget
  | qryGovDeclines
  | qryLive
  | bndCfg
  | bndStat
  | bndFrStat
  | bndNextId
  | bndCommits
  | bndAborts
  | bndSlotWaits
  | vsrCfg
  | vsrPointCfg
  | vsrQueries
  | vsrInserts
  | vsrPointed
  | vsrSideRefusals
  | vsrCollExt
  | vsrCollStat
  | ckpCfg
  | ckpWritten
  | ckpDedup
  | ckpDigestFails
  | ckpSkipped
  | ckpSeries
  | lnkStat
  | lnkCfg
  | lnkLaneMap
  | lnkRetryCfg
  | lnkRekey
  | lnkRekeyAt
  | lnkKeyCtr
  | lnkKeyStat
  | lnkFecCe
  | lnkFecUc
  | lnkRetries
  | lnkTagFails
  | lnkDrops
  | lnkLaneSwaps
  | lnkRecoveries
  | lnkRekeys
  | lnkRekeyStalls
  | cmpSelf
  | cmpPeerId
  | cmpCfg
  | cmpTiming
  | cmpMalformed
  | cmpStale
  | cmpEvictions
  | cmpAttestFails
  | cmpMoved
  | cmpWeights
  | cmpComp
  | cmpElapsed
  | cmpWeighted
  | cmpPeer
  | egrCfg
  | egrShaper
  | egrTokens
  | egrWeight
  | egrGate
  | egrGateWaits
  | egrGateSplits
  | egrShaped
  | egrMgmtGroups
  | secStat
  | secChangeSeq
  | secAlarm
  | secCfg
  | secAlarmPolicy
  | secChangeRefused
  | secPart
  | secReleaseFails
  | secBounceFails
  | secSlot
  | bootStat
  | bootPlumb
  | bootCtl
  | bootFw
  | bootImage
  | errDevStat
  | errDevRing
  | errNotifyDev
  | errPartStat
  | errPartRing
  | errNotify
  | errCe
  | errUc
  | errNested
  | pmcCtl
  | pmcOvf
  | pmcSel
  | pmcAddrLo
  | pmcAddrHi
  | pmcCnt
  | pmcBwCfg
  | pmcBw
  | pmcPctl
  | pmcPsel
  | pmcPaddrLo
  | pmcPaddrHi
  | pmcPcnt
  | blkId
  deriving DecidableEq, Repr

/-- A register: its class and its indices (partition, core, port, queue ...). The registers that every function has
for itself (20 R696) carry the function's number as first index. -/
structure Reg where
  cls : RegClass
  i : Nat := 0
  j : Nat := 0
  deriving DecidableEq, Repr

/-- A field of a class of registers: bits [hi:lo], its access code and its reset value. -/
structure Field where
  cls : RegClass
  hi : Nat
  lo : Nat
  acc : Access
  reset : Nat
  deriving DecidableEq, Repr

namespace Fld

/-- GLB_FUNC.PF (24 R768). -/
def GLB_FUNC_PF : Field := ⟨.glbFunc, 31, 31, .view, 0⟩
/-- GLB_FUNC.CONF_HOST (24 R768). -/
def GLB_FUNC_CONF_HOST : Field := ⟨.glbFunc, 30, 30, .view, 0⟩
/-- GLB_FUNC.CONTROLLER (24 R768). -/
def GLB_FUNC_CONTROLLER : Field := ⟨.glbFunc, 8, 8, .view, 0⟩
/-- GLB_FUNC.PARTITION (24 R768). -/
def GLB_FUNC_PARTITION : Field := ⟨.glbFunc, 3, 0, .view, 0⟩
/-- GLB_HW.HW_TYPE (24 R768). -/
def GLB_HW_HW_TYPE : Field := ⟨.glbHw, 31, 0, .ro, 0x2640⟩
/-- GLB_CORE_MAP.ENABLED_COUNT (01 R33). -/
def GLB_CORE_MAP_ENABLED_COUNT : Field := ⟨.glbCoreMap, 22, 18, .ro, 0⟩
/-- GLB_CORE_MAP.PHYS_ENABLED (01 R33). -/
def GLB_CORE_MAP_PHYS_ENABLED : Field := ⟨.glbCoreMap, 17, 0, .ro, 0⟩
/-- HIF_LINK.BIFURCATED (20 R696). -/
def HIF_LINK_BIFURCATED : Field := ⟨.hifLink, 31, 31, .ro, 0⟩
/-- HIF_LINK.UP (20 R696). -/
def HIF_LINK_UP : Field := ⟨.hifLink, 30, 30, .ro, 0⟩
/-- HIF_LINK.WIDTH (20 R696). -/
def HIF_LINK_WIDTH : Field := ⟨.hifLink, 14, 10, .ro, 0⟩
/-- HIF_LINK.GEN (20 R696). -/
def HIF_LINK_GEN : Field := ⟨.hifLink, 9, 7, .ro, 0⟩
/-- HIF_LINK.READY (20 R696). -/
def HIF_LINK_READY : Field := ⟨.hifLink, 6, 6, .ro, 0⟩
/-- HIF_ERR.QUEUE (20 R696). -/
def HIF_ERR_QUEUE : Field := ⟨.hifErr, 21, 16, .ro, 0⟩
/-- HIF_ERR.CFG_ERR (20 R696). -/
def HIF_ERR_CFG_ERR : Field := ⟨.hifErr, 2, 2, .w1c, 0⟩
/-- HIF_ERR.DB_ERR (20 R696). -/
def HIF_ERR_DB_ERR : Field := ⟨.hifErr, 1, 1, .w1c, 0⟩
/-- HIF_ERR.DMA_ERR (20 R696). -/
def HIF_ERR_DMA_ERR : Field := ⟨.hifErr, 0, 0, .w1c, 0⟩
/-- HIF_MBOX_CTL.GO (20 R696). -/
def HIF_MBOX_CTL_GO : Field := ⟨.hifMboxCtl, 31, 31, .wo, 0⟩
/-- HIF_MBOX_CTL.DONE (20 R696). -/
def HIF_MBOX_CTL_DONE : Field := ⟨.hifMboxCtl, 30, 30, .ro, 0⟩
/-- HIF_VF_MAP.VALID (20 R696). -/
def HIF_VF_MAP_VALID : Field := ⟨.hifVfMap, 5, 5, .rwl, 0⟩
/-- HIF_VF_MAP.CONTROLLER (20 R696). -/
def HIF_VF_MAP_CONTROLLER : Field := ⟨.hifVfMap, 4, 4, .rwl, 0⟩
/-- HIF_VF_MAP.VF (20 R696). -/
def HIF_VF_MAP_VF : Field := ⟨.hifVfMap, 3, 0, .rwl, 0⟩
/-- HIF_SQ_BASE.BASE (20 R696). -/
def HIF_SQ_BASE_BASE : Field := ⟨.hifSqBase, 63, 12, .rw, 0⟩
/-- HIF_SQ_CFG.ENABLE (20 R696). -/
def HIF_SQ_CFG_ENABLE : Field := ⟨.hifSqCfg, 31, 31, .rw, 0⟩
/-- HIF_SQ_CFG.FORMAT (20 R696). -/
def HIF_SQ_CFG_FORMAT : Field := ⟨.hifSqCfg, 30, 30, .rw, 0⟩
/-- HIF_SQ_CFG.CQ (20 R696). -/
def HIF_SQ_CFG_CQ : Field := ⟨.hifSqCfg, 21, 16, .rw, 0⟩
/-- HIF_SQ_CFG.SIZE_M1 (20 R696). -/
def HIF_SQ_CFG_SIZE_M1 : Field := ⟨.hifSqCfg, 15, 0, .rw, 0⟩
/-- HIF_CQ_BASE.BASE (20 R696). -/
def HIF_CQ_BASE_BASE : Field := ⟨.hifCqBase, 63, 12, .rw, 0⟩
/-- HIF_CQ_CFG.ENABLE (20 R696). -/
def HIF_CQ_CFG_ENABLE : Field := ⟨.hifCqCfg, 31, 31, .rw, 0⟩
/-- HIF_CQ_CFG.FORMAT (20 R696). -/
def HIF_CQ_CFG_FORMAT : Field := ⟨.hifCqCfg, 30, 30, .rw, 0⟩
/-- HIF_CQ_CFG.VECTOR (20 R696). -/
def HIF_CQ_CFG_VECTOR : Field := ⟨.hifCqCfg, 29, 24, .rw, 0⟩
/-- HIF_CQ_CFG.COAL_TIME (20 R696). -/
def HIF_CQ_CFG_COAL_TIME : Field := ⟨.hifCqCfg, 23, 16, .rw, 0⟩
/-- HIF_CQ_CFG.SIZE_M1 (20 R696). -/
def HIF_CQ_CFG_SIZE_M1 : Field := ⟨.hifCqCfg, 15, 0, .rw, 0⟩
/-- HIF_BOUNCE_BASE.BASE (20 R696). -/
def HIF_BOUNCE_BASE_BASE : Field := ⟨.hifBounceBase, 63, 12, .rw, 0⟩
/-- HIF_BOUNCE_SIZE.VALID (20 R696). -/
def HIF_BOUNCE_SIZE_VALID : Field := ⟨.hifBounceSize, 31, 31, .rw, 0⟩
/-- HIF_BOUNCE_SIZE.SIZE_4K (20 R696). -/
def HIF_BOUNCE_SIZE_SIZE_4K : Field := ⟨.hifBounceSize, 19, 0, .rw, 0⟩
/-- HIF_MBOX_DATA.DATA (20 R696). -/
def HIF_MBOX_DATA_DATA : Field := ⟨.hifMboxData, 31, 0, .rw, 0⟩
/-- SES_PART_RANGE.COUNT_4K (02 R79). -/
def SES_PART_RANGE_COUNT_4K : Field := ⟨.sesPartRange, 20, 10, .rwl, 0⟩
/-- SES_PART_RANGE.BASE_4K (02 R79). -/
def SES_PART_RANGE_BASE_4K : Field := ⟨.sesPartRange, 9, 0, .rwl, 0⟩
/-- SES_PARK_POLICY.DRESS_AFTER (02 R80). -/
def SES_PARK_POLICY_DRESS_AFTER : Field := ⟨.sesParkPolicy, 31, 16, .rw, 600⟩
/-- SES_PARK_POLICY.COLD_AFTER (02 R80). -/
def SES_PARK_POLICY_COLD_AFTER : Field := ⟨.sesParkPolicy, 15, 0, .rw, 30⟩
/-- SES_LIVE.LIVE (02 R81). -/
def SES_LIVE_LIVE : Field := ⟨.sesLive, 22, 0, .view, 0⟩
/-- SES_RETIRED.RETIRED (02 R81). -/
def SES_RETIRED_RETIRED : Field := ⟨.sesRetired, 22, 0, .view, 0⟩
/-- MOR_PFX_STAT.REGISTERED (03 R121). -/
def MOR_PFX_STAT_REGISTERED : Field := ⟨.morPfxStat, 15, 0, .view, 0⟩
/-- MOR_PINNED.PINNED (03 R122). -/
def MOR_PINNED_PINNED : Field := ⟨.morPinned, 26, 0, .view, 0⟩
/-- MOR_SHARE_COPIES.COPIES (03 R122). -/
def MOR_SHARE_COPIES_COPIES : Field := ⟨.morShareCopies, 31, 0, .rw, 0⟩
/-- ATT_CFG.MASS_MODE (04 R164). -/
def ATT_CFG_MASS_MODE : Field := ⟨.attCfg, 31, 30, .rw, 1⟩
/-- ATT_CFG.AREA_MIB (04 R164). -/
def ATT_CFG_AREA_MIB : Field := ⟨.attCfg, 29, 25, .rwl, 8⟩
/-- ATT_CFG.BATCH_MAX (04 R164). -/
def ATT_CFG_BATCH_MAX : Field := ⟨.attCfg, 24, 18, .rw, 64⟩
/-- ATT_CFG.BATCH_WINDOW (04 R164). -/
def ATT_CFG_BATCH_WINDOW : Field := ⟨.attCfg, 17, 0, .rw, 2000⟩
/-- ATT_CAP_CTL.ENABLE (04 R165). -/
def ATT_CAP_CTL_ENABLE : Field := ⟨.attCapCtl, 31, 31, .rw, 0⟩
/-- ATT_CAP_CTL.BF16 (04 R165). -/
def ATT_CAP_CTL_BF16 : Field := ⟨.attCapCtl, 30, 30, .rw, 0⟩
/-- ATT_CAP_CTL.POSITIONS (04 R165). -/
def ATT_CAP_CTL_POSITIONS : Field := ⟨.attCapCtl, 29, 29, .rw, 0⟩
/-- ATT_CAP_CTL.ALL_LAYERS (04 R165). -/
def ATT_CAP_CTL_ALL_LAYERS : Field := ⟨.attCapCtl, 28, 28, .rw, 0⟩
/-- ATT_CAP_CTL.LAYER (04 R165). -/
def ATT_CAP_CTL_LAYER : Field := ⟨.attCapCtl, 9, 0, .rw, 0⟩
/-- ATT_CAP_SES.HANDLE (04 R165). -/
def ATT_CAP_SES_HANDLE : Field := ⟨.attCapSes, 63, 0, .rw, 0⟩
/-- ATT_CAP_BASE.BASE (04 R165). -/
def ATT_CAP_BASE_BASE : Field := ⟨.attCapBase, 63, 12, .rw, 0⟩
/-- ATT_CAP_BASE.LOG2_SIZE (04 R165). -/
def ATT_CAP_BASE_LOG2_SIZE : Field := ⟨.attCapBase, 4, 0, .rw, 0⟩
/-- ATT_CAP_PTR.TAIL (04 R165). -/
def ATT_CAP_PTR_TAIL : Field := ⟨.attCapPtr, 63, 32, .rw, 0⟩
/-- ATT_CAP_PTR.HEAD (04 R165). -/
def ATT_CAP_PTR_HEAD : Field := ⟨.attCapPtr, 31, 0, .ro, 0⟩
/-- ATT_STALLS.STALLS (04 R166). -/
def ATT_STALLS_STALLS : Field := ⟨.attStalls, 31, 0, .rw, 0⟩
/-- ATT_SPILLS.SPILLS (04 R166). -/
def ATT_SPILLS_SPILLS : Field := ⟨.attSpills, 31, 0, .rw, 0⟩
/-- ATT_CAP_DROPS.DROPS (04 R166). -/
def ATT_CAP_DROPS_DROPS : Field := ⟨.attCapDrops, 31, 0, .rw, 0⟩
/-- DRS_CFG.READ_AHEAD (05 R206). -/
def DRS_CFG_READ_AHEAD : Field := ⟨.drsCfg, 31, 24, .rw, 8⟩
/-- DRS_CFG.DECAY (05 R206). -/
def DRS_CFG_DECAY : Field := ⟨.drsCfg, 8, 0, .rw, 128⟩
/-- DRS_PROFILE.RADIUS (05 R207). -/
def DRS_PROFILE_RADIUS : Field := ⟨.drsProfile, 51, 48, .rw, 8⟩
/-- DRS_PROFILE.BUDGET (05 R207). -/
def DRS_PROFILE_BUDGET : Field := ⟨.drsProfile, 47, 31, .rw, 2048⟩
/-- DRS_PROFILE.WINDOW (05 R207). -/
def DRS_PROFILE_WINDOW : Field := ⟨.drsProfile, 30, 14, .rw, 1024⟩
/-- DRS_PROFILE.ANCHOR (05 R207). -/
def DRS_PROFILE_ANCHOR : Field := ⟨.drsProfile, 12, 0, .rw, 64⟩
/-- DRS_PARKS_WARM.COUNT (05 R208). -/
def DRS_PARKS_WARM_COUNT : Field := ⟨.drsParksWarm, 31, 0, .rw, 0⟩
/-- DRS_PARKS_EXACT.COUNT (05 R208). -/
def DRS_PARKS_EXACT_COUNT : Field := ⟨.drsParksExact, 31, 0, .rw, 0⟩
/-- DRS_PARKS_DRESSED.COUNT (05 R208). -/
def DRS_PARKS_DRESSED_COUNT : Field := ⟨.drsParksDressed, 31, 0, .rw, 0⟩
/-- DRS_DROPPED.COUNT (05 R208). -/
def DRS_DROPPED_COUNT : Field := ⟨.drsDropped, 31, 0, .rw, 0⟩
/-- DRS_REVIVED.COUNT (05 R208). -/
def DRS_REVIVED_COUNT : Field := ⟨.drsRevived, 31, 0, .rw, 0⟩
/-- DRS_DEMAND.COUNT (05 R208). -/
def DRS_DEMAND_COUNT : Field := ⟨.drsDemand, 31, 0, .rw, 0⟩
/-- COR_STAT.OWNER (06 R244). -/
def COR_STAT_OWNER : Field := ⟨.corStat, 31, 28, .ro, 0⟩
/-- COR_STAT.OWNED (06 R244). -/
def COR_STAT_OWNED : Field := ⟨.corStat, 27, 27, .ro, 0⟩
/-- COR_STAT.FRESH_CLEARING (06 R244). -/
def COR_STAT_FRESH_CLEARING : Field := ⟨.corStat, 26, 26, .ro, 0⟩
/-- COR_STAT.COURSE (06 R244). -/
def COR_STAT_COURSE : Field := ⟨.corStat, 25, 24, .ro, 0⟩
/-- COR_STAT.STEP (06 R244). -/
def COR_STAT_STEP : Field := ⟨.corStat, 23, 22, .ro, 0⟩
/-- COR_STAT.ARRAY_SPARES (06 R244). -/
def COR_STAT_ARRAY_SPARES : Field := ⟨.corStat, 21, 18, .ro, 0⟩
/-- COR_STAT.CONTEXT (06 R244). -/
def COR_STAT_CONTEXT : Field := ⟨.corStat, 17, 12, .ro, 0x3F⟩
/-- COR_CFG.BAR_TIMEOUT (06 R245). -/
def COR_CFG_BAR_TIMEOUT : Field := ⟨.corCfg, 31, 0, .rw, 2000000⟩
/-- COR_FAULT.VALID (06 R246). -/
def COR_FAULT_VALID : Field := ⟨.corFault, 63, 63, .w1c, 0⟩
/-- COR_FAULT.CAUSE (06 R246). -/
def COR_FAULT_CAUSE : Field := ⟨.corFault, 62, 61, .ro, 0⟩
/-- COR_FAULT.CONTEXT (06 R246). -/
def COR_FAULT_CONTEXT : Field := ⟨.corFault, 60, 55, .ro, 0⟩
/-- COR_FAULT.ADDR (06 R246). -/
def COR_FAULT_ADDR : Field := ⟨.corFault, 39, 0, .ro, 0⟩
/-- COR_FRESH.LINES (06 R248). -/
def COR_FRESH_LINES : Field := ⟨.corFresh, 17, 0, .view, 0⟩
/-- COR_NAN.COUNT (06 R248). -/
def COR_NAN_COUNT : Field := ⟨.corNan, 31, 0, .rw, 0⟩
/-- COR_FAULT_INSTR.INSTR (06 R247). -/
def COR_FAULT_INSTR_INSTR : Field := ⟨.corFaultInstr, 16, 0, .ro, 0⟩
/-- TXT_CFG.MAX_INTAKE_MIB (07 R276). -/
def TXT_CFG_MAX_INTAKE_MIB : Field := ⟨.txtCfg, 31, 24, .rw, 64⟩
/-- TXT_CFG.POLL (07 R276). -/
def TXT_CFG_POLL : Field := ⟨.txtCfg, 15, 0, .rw, 14000⟩
/-- TXT_INVALID.COUNT (07 R277). -/
def TXT_INVALID_COUNT : Field := ⟨.txtInvalid, 31, 0, .rw, 0⟩
/-- TXT_REPLACED.COUNT (07 R277). -/
def TXT_REPLACED_COUNT : Field := ⟨.txtReplaced, 31, 0, .rw, 0⟩
/-- TXT_RING_WAITS.COUNT (07 R277). -/
def TXT_RING_WAITS_COUNT : Field := ⟨.txtRingWaits, 31, 0, .rw, 0⟩
/-- GRM_STAT.LOADED (08 R299). -/
def GRM_STAT_LOADED : Field := ⟨.grmStat, 9, 0, .view, 0⟩
/-- GRM_STALLS.COUNT (08 R299). -/
def GRM_STALLS_COUNT : Field := ⟨.grmStalls, 31, 0, .rw, 0⟩
/-- GRM_FORCED.COUNT (08 R299). -/
def GRM_FORCED_COUNT : Field := ⟨.grmForced, 31, 0, .rw, 0⟩
/-- GRM_SLOW.COUNT (08 R299). -/
def GRM_SLOW_COUNT : Field := ⟨.grmSlow, 31, 0, .rw, 0⟩
/-- GRM_MASK_WAITS.COUNT (08 R299). -/
def GRM_MASK_WAITS_COUNT : Field := ⟨.grmMaskWaits, 31, 0, .rw, 0⟩
/-- SMP_DRAWS.COUNT (09 R327). -/
def SMP_DRAWS_COUNT : Field := ⟨.smpDraws, 31, 0, .rw, 0⟩
/-- SMP_OVERFLOWS.COUNT (09 R327). -/
def SMP_OVERFLOWS_COUNT : Field := ⟨.smpOverflows, 31, 0, .rw, 0⟩
/-- SMP_ROLLBACKS.COUNT (09 R327). -/
def SMP_ROLLBACKS_COUNT : Field := ⟨.smpRollbacks, 31, 0, .rw, 0⟩
/-- SMP_GATE_CANCELS.COUNT (09 R327). -/
def SMP_GATE_CANCELS_COUNT : Field := ⟨.smpGateCancels, 31, 0, .rw, 0⟩
/-- SMP_BAD_LOGITS.COUNT (09 R327). -/
def SMP_BAD_LOGITS_COUNT : Field := ⟨.smpBadLogits, 31, 0, .rw, 0⟩
/-- SCH_PART_CORES.CORES (10 R361). -/
def SCH_PART_CORES_CORES : Field := ⟨.schPartCores, 15, 0, .rwl, 0⟩
/-- SCH_CFG.BE_FLOOR (10 R362). -/
def SCH_CFG_BE_FLOOR : Field := ⟨.schCfg, 31, 28, .rw, 1⟩
/-- SCH_CFG.SLICE (10 R362). -/
def SCH_CFG_SLICE : Field := ⟨.schCfg, 19, 0, .rw, 50000⟩
/-- SCH_DL_CFG.SWITCH_PCT (10 R362). -/
def SCH_DL_CFG_SWITCH_PCT : Field := ⟨.schDlCfg, 15, 8, .rw, 75⟩
/-- SCH_DL_CFG.WARN_PCT (10 R362). -/
def SCH_DL_CFG_WARN_PCT : Field := ⟨.schDlCfg, 7, 0, .rw, 50⟩
/-- SCH_NOTICES.COUNT (10 R364). -/
def SCH_NOTICES_COUNT : Field := ⟨.schNotices, 31, 0, .rw, 0⟩
/-- SCH_SWITCHES.COUNT (10 R364). -/
def SCH_SWITCHES_COUNT : Field := ⟨.schSwitches, 31, 0, .rw, 0⟩
/-- SCH_SWITCH_FAILS.COUNT (10 R364). -/
def SCH_SWITCH_FAILS_COUNT : Field := ⟨.schSwitchFails, 31, 0, .rw, 0⟩
/-- SCH_DL_FAILS.COUNT (10 R364). -/
def SCH_DL_FAILS_COUNT : Field := ⟨.schDlFails, 31, 0, .rw, 0⟩
/-- SCH_TEARDOWNS.COUNT (10 R364). -/
def SCH_TEARDOWNS_COUNT : Field := ⟨.schTeardowns, 31, 0, .rw, 0⟩
/-- SCH_CTX.STATE (10 R363). -/
def SCH_CTX_STATE : Field := ⟨.schCtx, 31, 30, .view, 0⟩
/-- SCH_CTX.CLASS (10 R363). -/
def SCH_CTX_CLASS : Field := ⟨.schCtx, 29, 28, .view, 0⟩
/-- SCH_CTX.KIND (10 R363). -/
def SCH_CTX_KIND : Field := ⟨.schCtx, 27, 25, .view, 0⟩
/-- SCH_CTX.FALLBACK (10 R363). -/
def SCH_CTX_FALLBACK : Field := ⟨.schCtx, 24, 19, .view, 0x3F⟩
/-- SCH_CTX.TEARDOWNS (10 R363). -/
def SCH_CTX_TEARDOWNS : Field := ⟨.schCtx, 15, 8, .view, 0⟩
/-- MEM_CFG.RATE (11 R399). -/
def MEM_CFG_RATE : Field := ⟨.memCfg, 31, 30, .ro, 0⟩
/-- MEM_CFG.ARB_MODE (11 R399). -/
def MEM_CFG_ARB_MODE : Field := ⟨.memCfg, 29, 29, .rwl, 0⟩
/-- MEM_CFG.PATROL_H (11 R399). -/
def MEM_CFG_PATROL_H : Field := ⟨.memCfg, 23, 16, .rw, 24⟩
/-- MEM_CFG.SR_IDLE_US (11 R399). -/
def MEM_CFG_SR_IDLE_US : Field := ⟨.memCfg, 15, 0, .rw, 50⟩
/-- MEM_CAP.PKG_GIB (11 R399). -/
def MEM_CAP_PKG_GIB : Field := ⟨.memCap, 63, 56, .ro, 0⟩
/-- MEM_CAP.STRIPES (11 R399). -/
def MEM_CAP_STRIPES : Field := ⟨.memCap, 31, 0, .ro, 0⟩
/-- MEM_TILE_DATA_BASE.BASE_2M (11 R399). -/
def MEM_TILE_DATA_BASE_BASE_2M : Field := ⟨.memTileDataBase, 19, 0, .rwl, 0⟩
/-- MEM_TILE_SIDE_BASE.BASE_2M (11 R399). -/
def MEM_TILE_SIDE_BASE_BASE_2M : Field := ⟨.memTileSideBase, 19, 0, .rwl, 0⟩
/-- MEM_MORTAR_BASE.BASE_2M (11 R399). -/
def MEM_MORTAR_BASE_BASE_2M : Field := ⟨.memMortarBase, 19, 0, .rwl, 0⟩
/-- MEM_RECORD_BASE.BASE_2M (11 R399). -/
def MEM_RECORD_BASE_BASE_2M : Field := ⟨.memRecordBase, 19, 0, .rwl, 0⟩
/-- MEM_FRAMES.MORTAR_FRAMES (11 R399). -/
def MEM_FRAMES_MORTAR_FRAMES : Field := ⟨.memFrames, 63, 32, .rwl, 0⟩
/-- MEM_FRAMES.TILE_FRAMES (11 R399). -/
def MEM_FRAMES_TILE_FRAMES : Field := ⟨.memFrames, 31, 0, .rwl, 0⟩
/-- MEM_PART_TILES.COUNT (11 R400). -/
def MEM_PART_TILES_COUNT : Field := ⟨.memPartTiles, 63, 32, .rwl, 0⟩
/-- MEM_PART_TILES.FIRST (11 R400). -/
def MEM_PART_TILES_FIRST : Field := ⟨.memPartTiles, 31, 0, .rwl, 0⟩
/-- MEM_PART_MORTAR.COUNT (11 R400). -/
def MEM_PART_MORTAR_COUNT : Field := ⟨.memPartMortar, 63, 32, .rwl, 0⟩
/-- MEM_PART_MORTAR.FIRST (11 R400). -/
def MEM_PART_MORTAR_FIRST : Field := ⟨.memPartMortar, 31, 0, .rwl, 0⟩
/-- MEM_PART_CTX.SIZE_2M (11 R400). -/
def MEM_PART_CTX_SIZE_2M : Field := ⟨.memPartCtx, 51, 32, .rwl, 0⟩
/-- MEM_PART_CTX.BASE_2M (11 R400). -/
def MEM_PART_CTX_BASE_2M : Field := ⟨.memPartCtx, 19, 0, .rwl, 0⟩
/-- MEM_PART_QUOTA.REMOTE_1K (11 R400). -/
def MEM_PART_QUOTA_REMOTE_1K : Field := ⟨.memPartQuota, 63, 48, .rwl, 0⟩
/-- MEM_PART_QUOTA.QRY_64K (11 R400). -/
def MEM_PART_QUOTA_QRY_64K : Field := ⟨.memPartQuota, 17, 0, .rwl, 0⟩
/-- MEM_PLACE.PROMOTE (11 R400). -/
def MEM_PLACE_PROMOTE : Field := ⟨.memPlace, 31, 31, .rw, 1⟩
/-- MEM_PLACE.KEEP_IDLE (11 R400). -/
def MEM_PLACE_KEEP_IDLE : Field := ⟨.memPlace, 15, 0, .rw, 10⟩
/-- MEM_USE.MORTAR_USED (11 R400). -/
def MEM_USE_MORTAR_USED : Field := ⟨.memUse, 63, 32, .view, 0⟩
/-- MEM_USE.TILES_USED (11 R400). -/
def MEM_USE_TILES_USED : Field := ⟨.memUse, 31, 0, .view, 0⟩
/-- MEM_ARB_SLOT.OWNER3 (11 R399). -/
def MEM_ARB_SLOT_OWNER3 : Field := ⟨.memArbSlot, 31, 24, .rwl, 0x10⟩
/-- MEM_ARB_SLOT.OWNER2 (11 R399). -/
def MEM_ARB_SLOT_OWNER2 : Field := ⟨.memArbSlot, 23, 16, .rwl, 0x10⟩
/-- MEM_ARB_SLOT.OWNER1 (11 R399). -/
def MEM_ARB_SLOT_OWNER1 : Field := ⟨.memArbSlot, 15, 8, .rwl, 0x10⟩
/-- MEM_ARB_SLOT.OWNER0 (11 R399). -/
def MEM_ARB_SLOT_OWNER0 : Field := ⟨.memArbSlot, 7, 0, .rwl, 0x10⟩
/-- MEM_ZERO_WAITS.COUNT (11 R400). -/
def MEM_ZERO_WAITS_COUNT : Field := ⟨.memZeroWaits, 31, 0, .rw, 0⟩
/-- QRY_CFG.PATROL_DAYS (12 R441). -/
def QRY_CFG_PATROL_DAYS : Field := ⟨.qryCfg, 31, 28, .rw, 4⟩
/-- QRY_CFG.TIGHTEN_PCT (12 R441). -/
def QRY_CFG_TIGHTEN_PCT : Field := ⟨.qryCfg, 27, 21, .rw, 80⟩
/-- QRY_CFG.GOV_ENABLE (12 R441). -/
def QRY_CFG_GOV_ENABLE : Field := ⟨.qryCfg, 20, 20, .rwl, 1⟩
/-- QRY_CFG.RO_PCT (12 R441). -/
def QRY_CFG_RO_PCT : Field := ⟨.qryCfg, 19, 15, .rwl, 2⟩
/-- QRY_CFG.GC_LOW_PERMIL (12 R441). -/
def QRY_CFG_GC_LOW_PERMIL : Field := ⟨.qryCfg, 14, 8, .rw, 20⟩
/-- QRY_CFG.FOLD_AGE_H (12 R441). -/
def QRY_CFG_FOLD_AGE_H : Field := ⟨.qryCfg, 7, 0, .rw, 72⟩
/-- QRY_WEAR_CFG.PE_RATED (12 R441). -/
def QRY_WEAR_CFG_PE_RATED : Field := ⟨.qryWearCfg, 63, 48, .rwl, 3000⟩
/-- QRY_WEAR_CFG.LIFE_DAYS (12 R441). -/
def QRY_WEAR_CFG_LIFE_DAYS : Field := ⟨.qryWearCfg, 47, 32, .rwl, 1825⟩
/-- QRY_WEAR_CFG.OP_PERMIL (12 R441). -/
def QRY_WEAR_CFG_OP_PERMIL : Field := ⟨.qryWearCfg, 31, 22, .rwl, 125⟩
/-- QRY_WEAR_CFG.DISTURB_K (12 R441). -/
def QRY_WEAR_CFG_DISTURB_K : Field := ⟨.qryWearCfg, 21, 14, .rw, 64⟩
/-- QRY_CAP.MOUNTED (12 R441). -/
def QRY_CAP_MOUNTED : Field := ⟨.qryCap, 63, 63, .view, 0⟩
/-- QRY_CAP.READ_ONLY (12 R441). -/
def QRY_CAP_READ_ONLY : Field := ⟨.qryCap, 62, 62, .view, 0⟩
/-- QRY_CAP.USER_FRAMES (12 R441). -/
def QRY_CAP_USER_FRAMES : Field := ⟨.qryCap, 33, 0, .view, 0⟩
/-- QRY_GC_STAT.FREE_BLOCKS (12 R441). -/
def QRY_GC_STAT_FREE_BLOCKS : Field := ⟨.qryGcStat, 63, 40, .view, 0⟩
/-- QRY_GC_STAT.SLC_BLOCKS (12 R441). -/
def QRY_GC_STAT_SLC_BLOCKS : Field := ⟨.qryGcStat, 39, 16, .view, 0⟩
/-- QRY_GC_STAT.WA_X100 (12 R441). -/
def QRY_GC_STAT_WA_X100 : Field := ⟨.qryGcStat, 15, 0, .view, 200⟩
/-- QRY_WEAR.MIN_ERASES (12 R441). -/
def QRY_WEAR_MIN_ERASES : Field := ⟨.qryWear, 63, 48, .view, 0⟩
/-- QRY_WEAR.MAX_ERASES (12 R441). -/
def QRY_WEAR_MAX_ERASES : Field := ⟨.qryWear, 47, 32, .view, 0⟩
/-- QRY_WEAR.RETIRED (12 R441). -/
def QRY_WEAR_RETIRED : Field := ⟨.qryWear, 23, 0, .view, 0⟩
/-- QRY_CE.COUNT (12 R441). -/
def QRY_CE_COUNT : Field := ⟨.qryCe, 31, 0, .rw, 0⟩
/-- QRY_UC.COUNT (12 R441). -/
def QRY_UC_COUNT : Field := ⟨.qryUc, 31, 0, .rw, 0⟩
/-- QRY_PROG_FAILS.COUNT (12 R441). -/
def QRY_PROG_FAILS_COUNT : Field := ⟨.qryProgFails, 31, 0, .rw, 0⟩
/-- QRY_RELOCS.COUNT (12 R441). -/
def QRY_RELOCS_COUNT : Field := ⟨.qryRelocs, 31, 0, .rw, 0⟩
/-- QRY_GOV.WEIGHT (12 R441). -/
def QRY_GOV_WEIGHT : Field := ⟨.qryGov, 63, 56, .rwl, 1⟩
/-- QRY_GOV.USED (12 R441). -/
def QRY_GOV_USED : Field := ⟨.qryGov, 47, 0, .view, 0⟩
/-- QRY_GOV_BUDGET.BUDGET (12 R441). -/
def QRY_GOV_BUDGET_BUDGET : Field := ⟨.qryGovBudget, 47, 0, .view, 0⟩
/-- QRY_GOV_DECLINES.COUNT (12 R441). -/
def QRY_GOV_DECLINES_COUNT : Field := ⟨.qryGovDeclines, 31, 0, .rw, 0⟩
/-- QRY_LIVE.FRAMES (12 R441). -/
def QRY_LIVE_FRAMES : Field := ⟨.qryLive, 33, 0, .view, 0⟩
/-- BND_CFG.OPEN_LIMIT (13 R469). -/
def BND_CFG_OPEN_LIMIT : Field := ⟨.bndCfg, 31, 19, .rwl, 4096⟩
/-- BND_CFG.REPORT_FRAMES (13 R469). -/
def BND_CFG_REPORT_FRAMES : Field := ⟨.bndCfg, 18, 16, .rwl, 4⟩
/-- BND_CFG.HANDOFF_MS (13 R469). -/
def BND_CFG_HANDOFF_MS : Field := ⟨.bndCfg, 15, 0, .rw, 10000⟩
/-- BND_STAT.OPEN (13 R469). -/
def BND_STAT_OPEN : Field := ⟨.bndStat, 12, 0, .view, 0⟩
/-- BND_FR_STAT.NEWEST (13 R469). -/
def BND_FR_STAT_NEWEST : Field := ⟨.bndFrStat, 63, 32, .view, 0⟩
/-- BND_FR_STAT.OLDEST (13 R469). -/
def BND_FR_STAT_OLDEST : Field := ⟨.bndFrStat, 31, 0, .view, 0⟩
/-- BND_NEXT_ID.ID (13 R469). -/
def BND_NEXT_ID_ID : Field := ⟨.bndNextId, 31, 0, .ro, 1⟩
/-- BND_COMMITS.COUNT (13 R469). -/
def BND_COMMITS_COUNT : Field := ⟨.bndCommits, 31, 0, .rw, 0⟩
/-- BND_ABORTS.COUNT (13 R469). -/
def BND_ABORTS_COUNT : Field := ⟨.bndAborts, 31, 0, .rw, 0⟩
/-- BND_SLOT_WAITS.COUNT (13 R469). -/
def BND_SLOT_WAITS_COUNT : Field := ⟨.bndSlotWaits, 31, 0, .rw, 0⟩
/-- VSR_CFG.PREFETCH (14 R497). -/
def VSR_CFG_PREFETCH : Field := ⟨.vsrCfg, 31, 28, .rw, 4⟩
/-- VSR_CFG.SCAN_MAX (14 R497). -/
def VSR_CFG_SCAN_MAX : Field := ⟨.vsrCfg, 27, 20, .rw, 64⟩
/-- VSR_CFG.SCAN_WINDOW (14 R497). -/
def VSR_CFG_SCAN_WINDOW : Field := ⟨.vsrCfg, 19, 0, .rw, 160000⟩
/-- VSR_POINT_CFG.AUTO (14 R497). -/
def VSR_POINT_CFG_AUTO : Field := ⟨.vsrPointCfg, 31, 31, .rw, 1⟩
/-- VSR_POINT_CFG.POINT_BATCH (14 R497). -/
def VSR_POINT_CFG_POINT_BATCH : Field := ⟨.vsrPointCfg, 30, 20, .rw, 256⟩
/-- VSR_POINT_CFG.EF_BUILD (14 R497). -/
def VSR_POINT_CFG_EF_BUILD : Field := ⟨.vsrPointCfg, 19, 10, .rw, 128⟩
/-- VSR_POINT_CFG.ALPHA (14 R497). -/
def VSR_POINT_CFG_ALPHA : Field := ⟨.vsrPointCfg, 9, 2, .rw, 77⟩
/-- VSR_QUERIES.COUNT (14 R497). -/
def VSR_QUERIES_COUNT : Field := ⟨.vsrQueries, 31, 0, .rw, 0⟩
/-- VSR_INSERTS.COUNT (14 R497). -/
def VSR_INSERTS_COUNT : Field := ⟨.vsrInserts, 31, 0, .rw, 0⟩
/-- VSR_POINTED.COUNT (14 R497). -/
def VSR_POINTED_COUNT : Field := ⟨.vsrPointed, 31, 0, .rw, 0⟩
/-- VSR_SIDE_REFUSALS.COUNT (14 R497). -/
def VSR_SIDE_REFUSALS_COUNT : Field := ⟨.vsrSideRefusals, 31, 0, .rw, 0⟩
/-- VSR_COLL_EXT.SIDE_LEN (14 R497). -/
def VSR_COLL_EXT_SIDE_LEN : Field := ⟨.vsrCollExt, 63, 32, .view, 0⟩
/-- VSR_COLL_EXT.GRAPH_LEN (14 R497). -/
def VSR_COLL_EXT_GRAPH_LEN : Field := ⟨.vsrCollExt, 31, 0, .view, 0⟩
/-- VSR_COLL_STAT.VALID (14 R497). -/
def VSR_COLL_STAT_VALID : Field := ⟨.vsrCollStat, 63, 63, .view, 0⟩
/-- VSR_COLL_STAT.PARTITION (14 R497). -/
def VSR_COLL_STAT_PARTITION : Field := ⟨.vsrCollStat, 62, 59, .view, 0⟩
/-- VSR_COLL_STAT.CONTEXT (14 R497). -/
def VSR_COLL_STAT_CONTEXT : Field := ⟨.vsrCollStat, 58, 53, .view, 0⟩
/-- VSR_COLL_STAT.TOMBS (14 R497). -/
def VSR_COLL_STAT_TOMBS : Field := ⟨.vsrCollStat, 31, 0, .view, 0⟩
/-- CKP_CFG.KEEP (15 R528). -/
def CKP_CFG_KEEP : Field := ⟨.ckpCfg, 31, 28, .rw, 2⟩
/-- CKP_CFG.KEY_SLOT (15 R528). -/
def CKP_CFG_KEY_SLOT : Field := ⟨.ckpCfg, 11, 0, .rwl, 0⟩
/-- CKP_WRITTEN.COUNT (15 R528). -/
def CKP_WRITTEN_COUNT : Field := ⟨.ckpWritten, 31, 0, .rw, 0⟩
/-- CKP_DEDUP.COUNT (15 R528). -/
def CKP_DEDUP_COUNT : Field := ⟨.ckpDedup, 31, 0, .rw, 0⟩
/-- CKP_DIGEST_FAILS.COUNT (15 R528). -/
def CKP_DIGEST_FAILS_COUNT : Field := ⟨.ckpDigestFails, 31, 0, .rw, 0⟩
/-- CKP_SKIPPED.COUNT (15 R528). -/
def CKP_SKIPPED_COUNT : Field := ⟨.ckpSkipped, 31, 0, .rw, 0⟩
/-- CKP_SERIES.STEP (15 R528). -/
def CKP_SERIES_STEP : Field := ⟨.ckpSeries, 63, 0, .view, 0⟩
/-- LNK_STAT.STATE (16 R566). -/
def LNK_STAT_STATE : Field := ⟨.lnkStat, 31, 29, .view, 0⟩
/-- LNK_STAT.GEN (16 R566). -/
def LNK_STAT_GEN : Field := ⟨.lnkStat, 28, 27, .view, 0⟩
/-- LNK_STAT.TX_GOOD (16 R566). -/
def LNK_STAT_TX_GOOD : Field := ⟨.lnkStat, 26, 18, .view, 0⟩
/-- LNK_STAT.RX_GOOD (16 R566). -/
def LNK_STAT_RX_GOOD : Field := ⟨.lnkStat, 17, 9, .view, 0⟩
/-- LNK_STAT.TX_SPARE_FREE (16 R566). -/
def LNK_STAT_TX_SPARE_FREE : Field := ⟨.lnkStat, 8, 8, .view, 0⟩
/-- LNK_STAT.RX_SPARE_FREE (16 R566). -/
def LNK_STAT_RX_SPARE_FREE : Field := ⟨.lnkStat, 7, 7, .view, 0⟩
/-- LNK_CFG.ENABLE (16 R566). -/
def LNK_CFG_ENABLE : Field := ⟨.lnkCfg, 31, 31, .rwl, 1⟩
/-- LNK_CFG.GEN_MAX (16 R566). -/
def LNK_CFG_GEN_MAX : Field := ⟨.lnkCfg, 30, 29, .rwl, 2⟩
/-- LNK_CFG.RETRAIN_MS (16 R566). -/
def LNK_CFG_RETRAIN_MS : Field := ⟨.lnkCfg, 28, 16, .rw, 1000⟩
/-- LNK_CFG.LANE_BAD (16 R566). -/
def LNK_CFG_LANE_BAD : Field := ⟨.lnkCfg, 15, 0, .rw, 8192⟩
/-- LNK_LANE_MAP.RX_MAP (16 R566). -/
def LNK_LANE_MAP_RX_MAP : Field := ⟨.lnkLaneMap, 63, 32, .view, 0⟩
/-- LNK_LANE_MAP.TX_MAP (16 R566). -/
def LNK_LANE_MAP_TX_MAP : Field := ⟨.lnkLaneMap, 31, 0, .view, 0⟩
/-- LNK_RETRY_CFG.RETRY_TIMEOUT (16 R566). -/
def LNK_RETRY_CFG_RETRY_TIMEOUT : Field := ⟨.lnkRetryCfg, 31, 16, .rw, 6144⟩
/-- LNK_RETRY_CFG.RETRY_MAX (16 R566). -/
def LNK_RETRY_CFG_RETRY_MAX : Field := ⟨.lnkRetryCfg, 15, 8, .rw, 8⟩
/-- LNK_REKEY.GO (16 R566). -/
def LNK_REKEY_GO : Field := ⟨.lnkRekey, 31, 31, .wo, 0⟩
/-- LNK_REKEY.KEY_INDEX (16 R566). -/
def LNK_REKEY_KEY_INDEX : Field := ⟨.lnkRekey, 4, 0, .wo, 0⟩
/-- LNK_REKEY_AT.AT (16 R566). -/
def LNK_REKEY_AT_AT : Field := ⟨.lnkRekeyAt, 7, 0, .rw, 240⟩
/-- LNK_KEY_CTR.TX_CTR (16 R566). -/
def LNK_KEY_CTR_TX_CTR : Field := ⟨.lnkKeyCtr, 63, 0, .view, 0⟩
/-- LNK_KEY_STAT.TX_VALID (16 R566). -/
def LNK_KEY_STAT_TX_VALID : Field := ⟨.lnkKeyStat, 63, 63, .view, 0⟩
/-- LNK_KEY_STAT.TX_PHASE (16 R566). -/
def LNK_KEY_STAT_TX_PHASE : Field := ⟨.lnkKeyStat, 62, 62, .view, 0⟩
/-- LNK_KEY_STAT.RX_VALID (16 R566). -/
def LNK_KEY_STAT_RX_VALID : Field := ⟨.lnkKeyStat, 61, 61, .view, 0⟩
/-- LNK_KEY_STAT.RX_PHASE (16 R566). -/
def LNK_KEY_STAT_RX_PHASE : Field := ⟨.lnkKeyStat, 60, 60, .view, 0⟩
/-- LNK_FEC_CE.COUNT (16 R566). -/
def LNK_FEC_CE_COUNT : Field := ⟨.lnkFecCe, 31, 0, .rw, 0⟩
/-- LNK_FEC_UC.COUNT (16 R566). -/
def LNK_FEC_UC_COUNT : Field := ⟨.lnkFecUc, 31, 0, .rw, 0⟩
/-- LNK_RETRIES.COUNT (16 R566). -/
def LNK_RETRIES_COUNT : Field := ⟨.lnkRetries, 31, 0, .rw, 0⟩
/-- LNK_TAG_FAILS.COUNT (16 R566). -/
def LNK_TAG_FAILS_COUNT : Field := ⟨.lnkTagFails, 31, 0, .rw, 0⟩
/-- LNK_DROPS.COUNT (16 R566). -/
def LNK_DROPS_COUNT : Field := ⟨.lnkDrops, 31, 0, .rw, 0⟩
/-- LNK_LANE_SWAPS.COUNT (16 R566). -/
def LNK_LANE_SWAPS_COUNT : Field := ⟨.lnkLaneSwaps, 31, 0, .rw, 0⟩
/-- LNK_RECOVERIES.COUNT (16 R566). -/
def LNK_RECOVERIES_COUNT : Field := ⟨.lnkRecoveries, 31, 0, .rw, 0⟩
/-- LNK_REKEYS.COUNT (16 R566). -/
def LNK_REKEYS_COUNT : Field := ⟨.lnkRekeys, 31, 0, .rw, 0⟩
/-- LNK_REKEY_STALLS.COUNT (16 R566). -/
def LNK_REKEY_STALLS_COUNT : Field := ⟨.lnkRekeyStalls, 31, 0, .rw, 0⟩
/-- CMP_SELF.FABRIC (17 R608). -/
def CMP_SELF_FABRIC : Field := ⟨.cmpSelf, 15, 0, .rwl, 0⟩
/-- CMP_PEER_ID.ID (17 R608). -/
def CMP_PEER_ID_ID : Field := ⟨.cmpPeerId, 63, 0, .ro, 0⟩
/-- CMP_CFG.PULL_WINDOW (17 R608). -/
def CMP_CFG_PULL_WINDOW : Field := ⟨.cmpCfg, 31, 24, .rw, 64⟩
/-- CMP_CFG.PULL_MS (17 R608). -/
def CMP_CFG_PULL_MS : Field := ⟨.cmpCfg, 23, 12, .rw, 100⟩
/-- CMP_CFG.PING_MS (17 R608). -/
def CMP_CFG_PING_MS : Field := ⟨.cmpCfg, 11, 0, .rw, 1000⟩
/-- CMP_TIMING.ADMIT_MS (17 R608). -/
def CMP_TIMING_ADMIT_MS : Field := ⟨.cmpTiming, 31, 16, .rw, 5000⟩
/-- CMP_TIMING.TICK_DIV (17 R608). -/
def CMP_TIMING_TICK_DIV : Field := ⟨.cmpTiming, 15, 0, .rwl, 100⟩
/-- CMP_MALFORMED.COUNT (17 R608). -/
def CMP_MALFORMED_COUNT : Field := ⟨.cmpMalformed, 31, 0, .rw, 0⟩
/-- CMP_STALE.COUNT (17 R608). -/
def CMP_STALE_COUNT : Field := ⟨.cmpStale, 31, 0, .rw, 0⟩
/-- CMP_EVICTIONS.COUNT (17 R608). -/
def CMP_EVICTIONS_COUNT : Field := ⟨.cmpEvictions, 31, 0, .rw, 0⟩
/-- CMP_ATTEST_FAILS.COUNT (17 R608). -/
def CMP_ATTEST_FAILS_COUNT : Field := ⟨.cmpAttestFails, 31, 0, .rw, 0⟩
/-- CMP_MOVED.COUNT (17 R608). -/
def CMP_MOVED_COUNT : Field := ⟨.cmpMoved, 31, 0, .rw, 0⟩
/-- CMP_WEIGHTS.W_CORE (17 R609). -/
def CMP_WEIGHTS_W_CORE : Field := ⟨.cmpWeights, 31, 16, .rw, 1⟩
/-- CMP_WEIGHTS.W_FRAME (17 R609). -/
def CMP_WEIGHTS_W_FRAME : Field := ⟨.cmpWeights, 15, 0, .rw, 1⟩
/-- CMP_COMP.ID (17 R609). -/
def CMP_COMP_ID : Field := ⟨.cmpComp, 63, 48, .view, 0⟩
/-- CMP_COMP.VALID (17 R609). -/
def CMP_COMP_VALID : Field := ⟨.cmpComp, 47, 47, .view, 0⟩
/-- CMP_COMP.PARTITION (17 R609). -/
def CMP_COMP_PARTITION : Field := ⟨.cmpComp, 46, 43, .view, 0⟩
/-- CMP_COMP.MAIN_CONTEXT (17 R609). -/
def CMP_COMP_MAIN_CONTEXT : Field := ⟨.cmpComp, 42, 37, .view, 0⟩
/-- CMP_COMP.RETAINED (17 R609). -/
def CMP_COMP_RETAINED : Field := ⟨.cmpComp, 36, 34, .view, 0⟩
/-- CMP_COMP.EPOCH (17 R609). -/
def CMP_COMP_EPOCH : Field := ⟨.cmpComp, 31, 0, .view, 0⟩
/-- CMP_ELAPSED.TICKS (17 R609). -/
def CMP_ELAPSED_TICKS : Field := ⟨.cmpElapsed, 63, 0, .view, 0⟩
/-- CMP_WEIGHTED.TICKS (17 R609). -/
def CMP_WEIGHTED_TICKS : Field := ⟨.cmpWeighted, 63, 0, .view, 0⟩
/-- CMP_PEER.PEER_ID (17 R609). -/
def CMP_PEER_PEER_ID : Field := ⟨.cmpPeer, 127, 64, .view, 0⟩
/-- CMP_PEER.STATE (17 R609). -/
def CMP_PEER_STATE : Field := ⟨.cmpPeer, 63, 62, .view, 0⟩
/-- CMP_PEER.ROLE (17 R609). -/
def CMP_PEER_ROLE : Field := ⟨.cmpPeer, 61, 61, .view, 0⟩
/-- CMP_PEER.PORT (17 R609). -/
def CMP_PEER_PORT : Field := ⟨.cmpPeer, 60, 58, .view, 0⟩
/-- CMP_PEER.PARTS (17 R609). -/
def CMP_PEER_PARTS : Field := ⟨.cmpPeer, 57, 42, .view, 0⟩
/-- CMP_PEER.FABRIC (17 R609). -/
def CMP_PEER_FABRIC : Field := ⟨.cmpPeer, 41, 26, .view, 0⟩
/-- CMP_PEER.BUSY (17 R609). -/
def CMP_PEER_BUSY : Field := ⟨.cmpPeer, 25, 0, .view, 0⟩
/-- EGR_CFG.GATES_ON (18 R626). -/
def EGR_CFG_GATES_ON : Field := ⟨.egrCfg, 31, 31, .rw, 0⟩
/-- EGR_CFG.ACTIVE (18 R626). -/
def EGR_CFG_ACTIVE : Field := ⟨.egrCfg, 30, 30, .ro, 0⟩
/-- EGR_CFG.SWITCH (18 R626). -/
def EGR_CFG_SWITCH : Field := ⟨.egrCfg, 29, 29, .rw, 0⟩
/-- EGR_CFG.LIST_ERR (18 R626). -/
def EGR_CFG_LIST_ERR : Field := ⟨.egrCfg, 28, 28, .w1c, 0⟩
/-- EGR_CFG.GUARD (18 R626). -/
def EGR_CFG_GUARD : Field := ⟨.egrCfg, 23, 16, .rw, 8⟩
/-- EGR_CFG.REFILL (18 R626). -/
def EGR_CFG_REFILL : Field := ⟨.egrCfg, 15, 0, .rw, 1750⟩
/-- EGR_SHAPER.BURST (18 R626). -/
def EGR_SHAPER_BURST : Field := ⟨.egrShaper, 47, 32, .rw, 4096⟩
/-- EGR_SHAPER.RATE (18 R626). -/
def EGR_SHAPER_RATE : Field := ⟨.egrShaper, 31, 0, .rw, 0⟩
/-- EGR_TOKENS.TOKENS (18 R626). -/
def EGR_TOKENS_TOKENS : Field := ⟨.egrTokens, 31, 0, .view, 0⟩
/-- EGR_WEIGHT.W_BG (18 R626). -/
def EGR_WEIGHT_W_BG : Field := ⟨.egrWeight, 23, 16, .rw, 4⟩
/-- EGR_WEIGHT.W_BE (18 R626). -/
def EGR_WEIGHT_W_BE : Field := ⟨.egrWeight, 15, 8, .rw, 16⟩
/-- EGR_WEIGHT.W_LC (18 R626). -/
def EGR_WEIGHT_W_LC : Field := ⟨.egrWeight, 7, 0, .rw, 64⟩
/-- EGR_GATE.OPEN (18 R626). -/
def EGR_GATE_OPEN : Field := ⟨.egrGate, 34, 32, .rw, 0⟩
/-- EGR_GATE.DURATION (18 R626). -/
def EGR_GATE_DURATION : Field := ⟨.egrGate, 31, 0, .rw, 0⟩
/-- EGR_GATE_WAITS.COUNT (18 R626). -/
def EGR_GATE_WAITS_COUNT : Field := ⟨.egrGateWaits, 31, 0, .rw, 0⟩
/-- EGR_GATE_SPLITS.COUNT (18 R626). -/
def EGR_GATE_SPLITS_COUNT : Field := ⟨.egrGateSplits, 31, 0, .rw, 0⟩
/-- EGR_SHAPED.COUNT (18 R626). -/
def EGR_SHAPED_COUNT : Field := ⟨.egrShaped, 31, 0, .rw, 0⟩
/-- EGR_MGMT_GROUPS.COUNT (18 R626). -/
def EGR_MGMT_GROUPS_COUNT : Field := ⟨.egrMgmtGroups, 31, 0, .rw, 0⟩
/-- SEC_STAT.SPENT (19 R667). -/
def SEC_STAT_SPENT : Field := ⟨.secStat, 31, 31, .view, 0⟩
/-- SEC_STAT.FROZEN (19 R667). -/
def SEC_STAT_FROZEN : Field := ⟨.secStat, 30, 30, .view, 0⟩
/-- SEC_STAT.LEVEL (19 R667). -/
def SEC_STAT_LEVEL : Field := ⟨.secStat, 29, 28, .view, 0⟩
/-- SEC_STAT.WRAP_GEN (19 R667). -/
def SEC_STAT_WRAP_GEN : Field := ⟨.secStat, 27, 22, .view, 0⟩
/-- SEC_STAT.ALARM_COUNT (19 R667). -/
def SEC_STAT_ALARM_COUNT : Field := ⟨.secStat, 21, 16, .view, 0⟩
/-- SEC_STAT.BOUND (19 R667). -/
def SEC_STAT_BOUND : Field := ⟨.secStat, 15, 15, .view, 0⟩
/-- SEC_STAT.DEBUG (19 R667). -/
def SEC_STAT_DEBUG : Field := ⟨.secStat, 14, 14, .view, 0⟩
/-- SEC_STAT.SLOTS_USED (19 R667). -/
def SEC_STAT_SLOTS_USED : Field := ⟨.secStat, 12, 0, .view, 0⟩
/-- SEC_CHANGE_SEQ.SEQ (19 R667). -/
def SEC_CHANGE_SEQ_SEQ : Field := ⟨.secChangeSeq, 63, 0, .view, 0⟩
/-- SEC_ALARM.RECORD (19 R667). -/
def SEC_ALARM_RECORD : Field := ⟨.secAlarm, 31, 16, .view, 0⟩
/-- SEC_ALARM.RAW (19 R667). -/
def SEC_ALARM_RAW : Field := ⟨.secAlarm, 15, 8, .view, 0⟩
/-- SEC_ALARM.LATCHED (19 R667). -/
def SEC_ALARM_LATCHED : Field := ⟨.secAlarm, 7, 0, .view, 0⟩
/-- SEC_CFG.REVOKE_MS (19 R667). -/
def SEC_CFG_REVOKE_MS : Field := ⟨.secCfg, 15, 0, .rw, 50⟩
/-- SEC_ALARM_POLICY.ATTEST_LIMIT (19 R667). -/
def SEC_ALARM_POLICY_ATTEST_LIMIT : Field := ⟨.secAlarmPolicy, 23, 16, .ro, 16⟩
/-- SEC_ALARM_POLICY.LEVELS (19 R667). -/
def SEC_ALARM_POLICY_LEVELS : Field := ⟨.secAlarmPolicy, 15, 0, .ro, 0x1BEA⟩
/-- SEC_CHANGE_REFUSED.COUNT (19 R667). -/
def SEC_CHANGE_REFUSED_COUNT : Field := ⟨.secChangeRefused, 31, 0, .rw, 0⟩
/-- SEC_PART.KEY_EPOCH (19 R667). -/
def SEC_PART_KEY_EPOCH : Field := ⟨.secPart, 63, 32, .view, 1⟩
/-- SEC_PART.CONF_HOST (19 R667). -/
def SEC_PART_CONF_HOST : Field := ⟨.secPart, 31, 31, .view, 0⟩
/-- SEC_PART.STATE (19 R667). -/
def SEC_PART_STATE : Field := ⟨.secPart, 30, 29, .view, 0⟩
/-- SEC_PART.SLOTS (19 R667). -/
def SEC_PART_SLOTS : Field := ⟨.secPart, 12, 0, .view, 0⟩
/-- SEC_RELEASE_FAILS.COUNT (19 R667). -/
def SEC_RELEASE_FAILS_COUNT : Field := ⟨.secReleaseFails, 31, 0, .rw, 0⟩
/-- SEC_BOUNCE_FAILS.COUNT (19 R667). -/
def SEC_BOUNCE_FAILS_COUNT : Field := ⟨.secBounceFails, 31, 0, .rw, 0⟩
/-- SEC_SLOT.OWNER (19 R667). -/
def SEC_SLOT_OWNER : Field := ⟨.secSlot, 63, 60, .view, 0⟩
/-- SEC_SLOT.DEVICE (19 R667). -/
def SEC_SLOT_DEVICE : Field := ⟨.secSlot, 59, 59, .view, 0⟩
/-- SEC_SLOT.KIND (19 R667). -/
def SEC_SLOT_KIND : Field := ⟨.secSlot, 58, 56, .view, 0⟩
/-- SEC_SLOT.STATE (19 R667). -/
def SEC_SLOT_STATE : Field := ⟨.secSlot, 55, 54, .view, 0⟩
/-- SEC_SLOT.EPOCH (19 R667). -/
def SEC_SLOT_EPOCH : Field := ⟨.secSlot, 31, 0, .view, 0⟩
/-- BOOT_STAT.START (21 R726). -/
def BOOT_STAT_START : Field := ⟨.bootStat, 63, 32, .view, 0⟩
/-- BOOT_STAT.STEP (21 R726). -/
def BOOT_STAT_STEP : Field := ⟨.bootStat, 31, 28, .view, 0⟩
/-- BOOT_STAT.UNCONFIGURED (21 R726). -/
def BOOT_STAT_UNCONFIGURED : Field := ⟨.bootStat, 27, 27, .view, 0⟩
/-- BOOT_STAT.COPY (21 R726). -/
def BOOT_STAT_COPY : Field := ⟨.bootStat, 26, 26, .view, 0⟩
/-- BOOT_STAT.ALT (21 R726). -/
def BOOT_STAT_ALT : Field := ⟨.bootStat, 15, 0, .view, 0⟩
/-- BOOT_PLUMB.REASON (21 R726). -/
def BOOT_PLUMB_REASON : Field := ⟨.bootPlumb, 63, 56, .ro, 0⟩
/-- BOOT_PLUMB.ITEM (21 R726). -/
def BOOT_PLUMB_ITEM : Field := ⟨.bootPlumb, 31, 0, .ro, 0⟩
/-- BOOT_CTL.CLEAR_ALT (21 R726). -/
def BOOT_CTL_CLEAR_ALT : Field := ⟨.bootCtl, 31, 31, .wo, 0⟩
/-- BOOT_FW.FUSE_ROLLBACK (21 R726). -/
def BOOT_FW_FUSE_ROLLBACK : Field := ⟨.bootFw, 63, 56, .view, 0⟩
/-- BOOT_FW.FIRED_ROLLBACK (21 R726). -/
def BOOT_FW_FIRED_ROLLBACK : Field := ⟨.bootFw, 55, 48, .view, 0⟩
/-- BOOT_FW.GREEN_RESULT (21 R726). -/
def BOOT_FW_GREEN_RESULT : Field := ⟨.bootFw, 47, 40, .view, 0⟩
/-- BOOT_IMAGE.GENERATION (21 R726). -/
def BOOT_IMAGE_GENERATION : Field := ⟨.bootImage, 63, 0, .view, 0⟩
/-- ERR_DEV_STAT.FROZEN (22 R745). -/
def ERR_DEV_STAT_FROZEN : Field := ⟨.errDevStat, 31, 31, .view, 0⟩
/-- ERR_DEV_STAT.DUMPED (22 R745). -/
def ERR_DEV_STAT_DUMPED : Field := ⟨.errDevStat, 30, 30, .view, 0⟩
/-- ERR_DEV_STAT.LOST (22 R745). -/
def ERR_DEV_STAT_LOST : Field := ⟨.errDevStat, 15, 0, .view, 0⟩
/-- ERR_DEV_RING.NEWEST (22 R745). -/
def ERR_DEV_RING_NEWEST : Field := ⟨.errDevRing, 63, 32, .view, 0⟩
/-- ERR_DEV_RING.OLDEST (22 R745). -/
def ERR_DEV_RING_OLDEST : Field := ⟨.errDevRing, 31, 0, .view, 0⟩
/-- ERR_NOTIFY_DEV.ENABLE (22 R745). -/
def ERR_NOTIFY_DEV_ENABLE : Field := ⟨.errNotifyDev, 31, 31, .rw, 0⟩
/-- ERR_NOTIFY_DEV.VECTOR (22 R745). -/
def ERR_NOTIFY_DEV_VECTOR : Field := ⟨.errNotifyDev, 5, 0, .rw, 0⟩
/-- ERR_PART_STAT.FATAL (22 R745). -/
def ERR_PART_STAT_FATAL : Field := ⟨.errPartStat, 63, 63, .view, 0⟩
/-- ERR_PART_STAT.LOST (22 R745). -/
def ERR_PART_STAT_LOST : Field := ⟨.errPartStat, 15, 0, .view, 0⟩
/-- ERR_PART_RING.NEWEST (22 R745). -/
def ERR_PART_RING_NEWEST : Field := ⟨.errPartRing, 63, 32, .view, 0⟩
/-- ERR_PART_RING.OLDEST (22 R745). -/
def ERR_PART_RING_OLDEST : Field := ⟨.errPartRing, 31, 0, .view, 0⟩
/-- ERR_NOTIFY.ENABLE (22 R745). -/
def ERR_NOTIFY_ENABLE : Field := ⟨.errNotify, 31, 31, .rw, 0⟩
/-- ERR_NOTIFY.VECTOR (22 R745). -/
def ERR_NOTIFY_VECTOR : Field := ⟨.errNotify, 5, 0, .rw, 0⟩
/-- ERR_CE.COUNT (22 R745). -/
def ERR_CE_COUNT : Field := ⟨.errCe, 31, 0, .rw, 0⟩
/-- ERR_UC.COUNT (22 R745). -/
def ERR_UC_COUNT : Field := ⟨.errUc, 31, 0, .rw, 0⟩
/-- ERR_NESTED.COUNT (22 R745). -/
def ERR_NESTED_COUNT : Field := ⟨.errNested, 31, 0, .rw, 0⟩
/-- PMC_CTL.FREEZE (23 R758). -/
def PMC_CTL_FREEZE : Field := ⟨.pmcCtl, 31, 31, .rw, 0⟩
/-- PMC_CTL.OVF_IRQ (23 R758). -/
def PMC_CTL_OVF_IRQ : Field := ⟨.pmcCtl, 30, 30, .rw, 0⟩
/-- PMC_CTL.VECTOR (23 R758). -/
def PMC_CTL_VECTOR : Field := ⟨.pmcCtl, 29, 24, .rw, 0⟩
/-- PMC_OVF.OVF (23 R758). -/
def PMC_OVF_OVF : Field := ⟨.pmcOvf, 63, 0, .view, 0⟩
/-- PMC_SEL.ENABLE (23 R757). -/
def PMC_SEL_ENABLE : Field := ⟨.pmcSel, 63, 63, .rw, 0⟩
/-- PMC_SEL.EVENT (23 R757). -/
def PMC_SEL_EVENT : Field := ⟨.pmcSel, 55, 48, .rw, 0⟩
/-- PMC_SEL.PRIV (23 R757). -/
def PMC_SEL_PRIV : Field := ⟨.pmcSel, 47, 44, .rw, 0⟩
/-- PMC_SEL.PART (23 R757). -/
def PMC_SEL_PART : Field := ⟨.pmcSel, 43, 40, .rw, 0⟩
/-- PMC_SEL.PART_ONLY (23 R757). -/
def PMC_SEL_PART_ONLY : Field := ⟨.pmcSel, 39, 39, .rw, 0⟩
/-- PMC_SEL.MASTER_KIND (23 R757). -/
def PMC_SEL_MASTER_KIND : Field := ⟨.pmcSel, 38, 36, .rw, 0⟩
/-- PMC_SEL.MASTER_ID (23 R757). -/
def PMC_SEL_MASTER_ID : Field := ⟨.pmcSel, 35, 28, .rw, 0⟩
/-- PMC_SEL.CLASS (23 R757). -/
def PMC_SEL_CLASS : Field := ⟨.pmcSel, 27, 25, .rw, 0⟩
/-- PMC_SEL.ADDR_EN (23 R757). -/
def PMC_SEL_ADDR_EN : Field := ⟨.pmcSel, 24, 24, .rw, 0⟩
/-- PMC_ADDR_LO.ADDR (23 R757). -/
def PMC_ADDR_LO_ADDR : Field := ⟨.pmcAddrLo, 63, 0, .rw, 0⟩
/-- PMC_ADDR_HI.ADDR (23 R757). -/
def PMC_ADDR_HI_ADDR : Field := ⟨.pmcAddrHi, 63, 0, .rw, 0⟩
/-- PMC_CNT.OVF (23 R757). -/
def PMC_CNT_OVF : Field := ⟨.pmcCnt, 63, 63, .w1c, 0⟩
/-- PMC_CNT.COUNT (23 R757). -/
def PMC_CNT_COUNT : Field := ⟨.pmcCnt, 47, 0, .rw, 0⟩
/-- PMC_BW_CFG.WSEQ (23 R758). -/
def PMC_BW_CFG_WSEQ : Field := ⟨.pmcBwCfg, 30, 24, .ro, 0⟩
/-- PMC_BW_CFG.WINDOW (23 R758). -/
def PMC_BW_CFG_WINDOW : Field := ⟨.pmcBwCfg, 23, 0, .rw, 1750000⟩
/-- PMC_BW.RX_BYTES (23 R758). -/
def PMC_BW_RX_BYTES : Field := ⟨.pmcBw, 63, 32, .ro, 0⟩
/-- PMC_BW.TX_BYTES (23 R758). -/
def PMC_BW_TX_BYTES : Field := ⟨.pmcBw, 31, 0, .ro, 0⟩
/-- PMC_PCTL.FREEZE (23 R758). -/
def PMC_PCTL_FREEZE : Field := ⟨.pmcPctl, 31, 31, .rw, 0⟩
/-- PMC_PCTL.OVF_IRQ (23 R758). -/
def PMC_PCTL_OVF_IRQ : Field := ⟨.pmcPctl, 30, 30, .rw, 0⟩
/-- PMC_PCTL.VECTOR (23 R758). -/
def PMC_PCTL_VECTOR : Field := ⟨.pmcPctl, 29, 24, .rw, 0⟩
/-- PMC_PCTL.OVF (23 R758). -/
def PMC_PCTL_OVF : Field := ⟨.pmcPctl, 7, 0, .view, 0⟩
/-- PMC_PSEL.ENABLE (23 R757). -/
def PMC_PSEL_ENABLE : Field := ⟨.pmcPsel, 63, 63, .rw, 0⟩
/-- PMC_PSEL.EVENT (23 R757). -/
def PMC_PSEL_EVENT : Field := ⟨.pmcPsel, 55, 48, .rw, 0⟩
/-- PMC_PSEL.PRIV (23 R757). -/
def PMC_PSEL_PRIV : Field := ⟨.pmcPsel, 47, 44, .rw, 0⟩
/-- PMC_PSEL.PART (23 R757). -/
def PMC_PSEL_PART : Field := ⟨.pmcPsel, 43, 40, .rw, 0⟩
/-- PMC_PSEL.PART_ONLY (23 R757). -/
def PMC_PSEL_PART_ONLY : Field := ⟨.pmcPsel, 39, 39, .rw, 0⟩
/-- PMC_PSEL.MASTER_KIND (23 R757). -/
def PMC_PSEL_MASTER_KIND : Field := ⟨.pmcPsel, 38, 36, .rw, 0⟩
/-- PMC_PSEL.MASTER_ID (23 R757). -/
def PMC_PSEL_MASTER_ID : Field := ⟨.pmcPsel, 35, 28, .rw, 0⟩
/-- PMC_PSEL.CLASS (23 R757). -/
def PMC_PSEL_CLASS : Field := ⟨.pmcPsel, 27, 25, .rw, 0⟩
/-- PMC_PSEL.ADDR_EN (23 R757). -/
def PMC_PSEL_ADDR_EN : Field := ⟨.pmcPsel, 24, 24, .rw, 0⟩
/-- PMC_PADDR_LO.ADDR (23 R757). -/
def PMC_PADDR_LO_ADDR : Field := ⟨.pmcPaddrLo, 63, 0, .rw, 0⟩
/-- PMC_PADDR_HI.ADDR (23 R757). -/
def PMC_PADDR_HI_ADDR : Field := ⟨.pmcPaddrHi, 63, 0, .rw, 0⟩
/-- PMC_PCNT.OVF (23 R757). -/
def PMC_PCNT_OVF : Field := ⟨.pmcPcnt, 63, 63, .w1c, 0⟩
/-- PMC_PCNT.COUNT (23 R757). -/
def PMC_PCNT_COUNT : Field := ⟨.pmcPcnt, 47, 0, .rw, 0⟩
/-- BLK_ID.BLOCK (24 R768). -/
def BLK_ID_BLOCK : Field := ⟨.blkId, 23, 16, .view, 0⟩
/-- BLK_ID.MAJOR (24 R768). -/
def BLK_ID_MAJOR : Field := ⟨.blkId, 15, 8, .ro, 1⟩
/-- BLK_ID.MINOR (24 R768). -/
def BLK_ID_MINOR : Field := ⟨.blkId, 7, 0, .ro, 0⟩

end Fld

/-- The fields of a class of registers. -/
def RegClass.fields (c : RegClass) : List Field :=
  match c with
  | .glbFunc => [Fld.GLB_FUNC_PF, Fld.GLB_FUNC_CONF_HOST, Fld.GLB_FUNC_CONTROLLER, Fld.GLB_FUNC_PARTITION]
  | .glbHw => [Fld.GLB_HW_HW_TYPE]
  | .glbCoreMap => [Fld.GLB_CORE_MAP_ENABLED_COUNT, Fld.GLB_CORE_MAP_PHYS_ENABLED]
  | .hifLink => [Fld.HIF_LINK_BIFURCATED, Fld.HIF_LINK_UP, Fld.HIF_LINK_WIDTH, Fld.HIF_LINK_GEN, Fld.HIF_LINK_READY]
  | .hifErr => [Fld.HIF_ERR_QUEUE, Fld.HIF_ERR_CFG_ERR, Fld.HIF_ERR_DB_ERR, Fld.HIF_ERR_DMA_ERR]
  | .hifMboxCtl => [Fld.HIF_MBOX_CTL_GO, Fld.HIF_MBOX_CTL_DONE]
  | .hifVfMap => [Fld.HIF_VF_MAP_VALID, Fld.HIF_VF_MAP_CONTROLLER, Fld.HIF_VF_MAP_VF]
  | .hifSqBase => [Fld.HIF_SQ_BASE_BASE]
  | .hifSqCfg => [Fld.HIF_SQ_CFG_ENABLE, Fld.HIF_SQ_CFG_FORMAT, Fld.HIF_SQ_CFG_CQ, Fld.HIF_SQ_CFG_SIZE_M1]
  | .hifCqBase => [Fld.HIF_CQ_BASE_BASE]
  | .hifCqCfg => [Fld.HIF_CQ_CFG_ENABLE, Fld.HIF_CQ_CFG_FORMAT, Fld.HIF_CQ_CFG_VECTOR, Fld.HIF_CQ_CFG_COAL_TIME, Fld.HIF_CQ_CFG_SIZE_M1]
  | .hifBounceBase => [Fld.HIF_BOUNCE_BASE_BASE]
  | .hifBounceSize => [Fld.HIF_BOUNCE_SIZE_VALID, Fld.HIF_BOUNCE_SIZE_SIZE_4K]
  | .hifMboxData => [Fld.HIF_MBOX_DATA_DATA]
  | .sesPartRange => [Fld.SES_PART_RANGE_COUNT_4K, Fld.SES_PART_RANGE_BASE_4K]
  | .sesParkPolicy => [Fld.SES_PARK_POLICY_DRESS_AFTER, Fld.SES_PARK_POLICY_COLD_AFTER]
  | .sesLive => [Fld.SES_LIVE_LIVE]
  | .sesRetired => [Fld.SES_RETIRED_RETIRED]
  | .morPfxStat => [Fld.MOR_PFX_STAT_REGISTERED]
  | .morPinned => [Fld.MOR_PINNED_PINNED]
  | .morShareCopies => [Fld.MOR_SHARE_COPIES_COPIES]
  | .attCfg => [Fld.ATT_CFG_MASS_MODE, Fld.ATT_CFG_AREA_MIB, Fld.ATT_CFG_BATCH_MAX, Fld.ATT_CFG_BATCH_WINDOW]
  | .attCapCtl => [Fld.ATT_CAP_CTL_ENABLE, Fld.ATT_CAP_CTL_BF16, Fld.ATT_CAP_CTL_POSITIONS, Fld.ATT_CAP_CTL_ALL_LAYERS, Fld.ATT_CAP_CTL_LAYER]
  | .attCapSes => [Fld.ATT_CAP_SES_HANDLE]
  | .attCapBase => [Fld.ATT_CAP_BASE_BASE, Fld.ATT_CAP_BASE_LOG2_SIZE]
  | .attCapPtr => [Fld.ATT_CAP_PTR_TAIL, Fld.ATT_CAP_PTR_HEAD]
  | .attStalls => [Fld.ATT_STALLS_STALLS]
  | .attSpills => [Fld.ATT_SPILLS_SPILLS]
  | .attCapDrops => [Fld.ATT_CAP_DROPS_DROPS]
  | .drsCfg => [Fld.DRS_CFG_READ_AHEAD, Fld.DRS_CFG_DECAY]
  | .drsProfile => [Fld.DRS_PROFILE_RADIUS, Fld.DRS_PROFILE_BUDGET, Fld.DRS_PROFILE_WINDOW, Fld.DRS_PROFILE_ANCHOR]
  | .drsParksWarm => [Fld.DRS_PARKS_WARM_COUNT]
  | .drsParksExact => [Fld.DRS_PARKS_EXACT_COUNT]
  | .drsParksDressed => [Fld.DRS_PARKS_DRESSED_COUNT]
  | .drsDropped => [Fld.DRS_DROPPED_COUNT]
  | .drsRevived => [Fld.DRS_REVIVED_COUNT]
  | .drsDemand => [Fld.DRS_DEMAND_COUNT]
  | .corStat => [Fld.COR_STAT_OWNER, Fld.COR_STAT_OWNED, Fld.COR_STAT_FRESH_CLEARING, Fld.COR_STAT_COURSE, Fld.COR_STAT_STEP, Fld.COR_STAT_ARRAY_SPARES, Fld.COR_STAT_CONTEXT]
  | .corCfg => [Fld.COR_CFG_BAR_TIMEOUT]
  | .corFault => [Fld.COR_FAULT_VALID, Fld.COR_FAULT_CAUSE, Fld.COR_FAULT_CONTEXT, Fld.COR_FAULT_ADDR]
  | .corFresh => [Fld.COR_FRESH_LINES]
  | .corNan => [Fld.COR_NAN_COUNT]
  | .corFaultInstr => [Fld.COR_FAULT_INSTR_INSTR]
  | .txtCfg => [Fld.TXT_CFG_MAX_INTAKE_MIB, Fld.TXT_CFG_POLL]
  | .txtInvalid => [Fld.TXT_INVALID_COUNT]
  | .txtReplaced => [Fld.TXT_REPLACED_COUNT]
  | .txtRingWaits => [Fld.TXT_RING_WAITS_COUNT]
  | .grmStat => [Fld.GRM_STAT_LOADED]
  | .grmStalls => [Fld.GRM_STALLS_COUNT]
  | .grmForced => [Fld.GRM_FORCED_COUNT]
  | .grmSlow => [Fld.GRM_SLOW_COUNT]
  | .grmMaskWaits => [Fld.GRM_MASK_WAITS_COUNT]
  | .smpDraws => [Fld.SMP_DRAWS_COUNT]
  | .smpOverflows => [Fld.SMP_OVERFLOWS_COUNT]
  | .smpRollbacks => [Fld.SMP_ROLLBACKS_COUNT]
  | .smpGateCancels => [Fld.SMP_GATE_CANCELS_COUNT]
  | .smpBadLogits => [Fld.SMP_BAD_LOGITS_COUNT]
  | .schPartCores => [Fld.SCH_PART_CORES_CORES]
  | .schCfg => [Fld.SCH_CFG_BE_FLOOR, Fld.SCH_CFG_SLICE]
  | .schDlCfg => [Fld.SCH_DL_CFG_SWITCH_PCT, Fld.SCH_DL_CFG_WARN_PCT]
  | .schNotices => [Fld.SCH_NOTICES_COUNT]
  | .schSwitches => [Fld.SCH_SWITCHES_COUNT]
  | .schSwitchFails => [Fld.SCH_SWITCH_FAILS_COUNT]
  | .schDlFails => [Fld.SCH_DL_FAILS_COUNT]
  | .schTeardowns => [Fld.SCH_TEARDOWNS_COUNT]
  | .schCtx => [Fld.SCH_CTX_STATE, Fld.SCH_CTX_CLASS, Fld.SCH_CTX_KIND, Fld.SCH_CTX_FALLBACK, Fld.SCH_CTX_TEARDOWNS]
  | .memCfg => [Fld.MEM_CFG_RATE, Fld.MEM_CFG_ARB_MODE, Fld.MEM_CFG_PATROL_H, Fld.MEM_CFG_SR_IDLE_US]
  | .memCap => [Fld.MEM_CAP_PKG_GIB, Fld.MEM_CAP_STRIPES]
  | .memTileDataBase => [Fld.MEM_TILE_DATA_BASE_BASE_2M]
  | .memTileSideBase => [Fld.MEM_TILE_SIDE_BASE_BASE_2M]
  | .memMortarBase => [Fld.MEM_MORTAR_BASE_BASE_2M]
  | .memRecordBase => [Fld.MEM_RECORD_BASE_BASE_2M]
  | .memFrames => [Fld.MEM_FRAMES_MORTAR_FRAMES, Fld.MEM_FRAMES_TILE_FRAMES]
  | .memPartTiles => [Fld.MEM_PART_TILES_COUNT, Fld.MEM_PART_TILES_FIRST]
  | .memPartMortar => [Fld.MEM_PART_MORTAR_COUNT, Fld.MEM_PART_MORTAR_FIRST]
  | .memPartCtx => [Fld.MEM_PART_CTX_SIZE_2M, Fld.MEM_PART_CTX_BASE_2M]
  | .memPartQuota => [Fld.MEM_PART_QUOTA_REMOTE_1K, Fld.MEM_PART_QUOTA_QRY_64K]
  | .memPlace => [Fld.MEM_PLACE_PROMOTE, Fld.MEM_PLACE_KEEP_IDLE]
  | .memUse => [Fld.MEM_USE_MORTAR_USED, Fld.MEM_USE_TILES_USED]
  | .memArbSlot => [Fld.MEM_ARB_SLOT_OWNER3, Fld.MEM_ARB_SLOT_OWNER2, Fld.MEM_ARB_SLOT_OWNER1, Fld.MEM_ARB_SLOT_OWNER0]
  | .memZeroWaits => [Fld.MEM_ZERO_WAITS_COUNT]
  | .qryCfg => [Fld.QRY_CFG_PATROL_DAYS, Fld.QRY_CFG_TIGHTEN_PCT, Fld.QRY_CFG_GOV_ENABLE, Fld.QRY_CFG_RO_PCT, Fld.QRY_CFG_GC_LOW_PERMIL, Fld.QRY_CFG_FOLD_AGE_H]
  | .qryWearCfg => [Fld.QRY_WEAR_CFG_PE_RATED, Fld.QRY_WEAR_CFG_LIFE_DAYS, Fld.QRY_WEAR_CFG_OP_PERMIL, Fld.QRY_WEAR_CFG_DISTURB_K]
  | .qryCap => [Fld.QRY_CAP_MOUNTED, Fld.QRY_CAP_READ_ONLY, Fld.QRY_CAP_USER_FRAMES]
  | .qryGcStat => [Fld.QRY_GC_STAT_FREE_BLOCKS, Fld.QRY_GC_STAT_SLC_BLOCKS, Fld.QRY_GC_STAT_WA_X100]
  | .qryWear => [Fld.QRY_WEAR_MIN_ERASES, Fld.QRY_WEAR_MAX_ERASES, Fld.QRY_WEAR_RETIRED]
  | .qryCe => [Fld.QRY_CE_COUNT]
  | .qryUc => [Fld.QRY_UC_COUNT]
  | .qryProgFails => [Fld.QRY_PROG_FAILS_COUNT]
  | .qryRelocs => [Fld.QRY_RELOCS_COUNT]
  | .qryGov => [Fld.QRY_GOV_WEIGHT, Fld.QRY_GOV_USED]
  | .qryGovBudget => [Fld.QRY_GOV_BUDGET_BUDGET]
  | .qryGovDeclines => [Fld.QRY_GOV_DECLINES_COUNT]
  | .qryLive => [Fld.QRY_LIVE_FRAMES]
  | .bndCfg => [Fld.BND_CFG_OPEN_LIMIT, Fld.BND_CFG_REPORT_FRAMES, Fld.BND_CFG_HANDOFF_MS]
  | .bndStat => [Fld.BND_STAT_OPEN]
  | .bndFrStat => [Fld.BND_FR_STAT_NEWEST, Fld.BND_FR_STAT_OLDEST]
  | .bndNextId => [Fld.BND_NEXT_ID_ID]
  | .bndCommits => [Fld.BND_COMMITS_COUNT]
  | .bndAborts => [Fld.BND_ABORTS_COUNT]
  | .bndSlotWaits => [Fld.BND_SLOT_WAITS_COUNT]
  | .vsrCfg => [Fld.VSR_CFG_PREFETCH, Fld.VSR_CFG_SCAN_MAX, Fld.VSR_CFG_SCAN_WINDOW]
  | .vsrPointCfg => [Fld.VSR_POINT_CFG_AUTO, Fld.VSR_POINT_CFG_POINT_BATCH, Fld.VSR_POINT_CFG_EF_BUILD, Fld.VSR_POINT_CFG_ALPHA]
  | .vsrQueries => [Fld.VSR_QUERIES_COUNT]
  | .vsrInserts => [Fld.VSR_INSERTS_COUNT]
  | .vsrPointed => [Fld.VSR_POINTED_COUNT]
  | .vsrSideRefusals => [Fld.VSR_SIDE_REFUSALS_COUNT]
  | .vsrCollExt => [Fld.VSR_COLL_EXT_SIDE_LEN, Fld.VSR_COLL_EXT_GRAPH_LEN]
  | .vsrCollStat => [Fld.VSR_COLL_STAT_VALID, Fld.VSR_COLL_STAT_PARTITION, Fld.VSR_COLL_STAT_CONTEXT, Fld.VSR_COLL_STAT_TOMBS]
  | .ckpCfg => [Fld.CKP_CFG_KEEP, Fld.CKP_CFG_KEY_SLOT]
  | .ckpWritten => [Fld.CKP_WRITTEN_COUNT]
  | .ckpDedup => [Fld.CKP_DEDUP_COUNT]
  | .ckpDigestFails => [Fld.CKP_DIGEST_FAILS_COUNT]
  | .ckpSkipped => [Fld.CKP_SKIPPED_COUNT]
  | .ckpSeries => [Fld.CKP_SERIES_STEP]
  | .lnkStat => [Fld.LNK_STAT_STATE, Fld.LNK_STAT_GEN, Fld.LNK_STAT_TX_GOOD, Fld.LNK_STAT_RX_GOOD, Fld.LNK_STAT_TX_SPARE_FREE, Fld.LNK_STAT_RX_SPARE_FREE]
  | .lnkCfg => [Fld.LNK_CFG_ENABLE, Fld.LNK_CFG_GEN_MAX, Fld.LNK_CFG_RETRAIN_MS, Fld.LNK_CFG_LANE_BAD]
  | .lnkLaneMap => [Fld.LNK_LANE_MAP_RX_MAP, Fld.LNK_LANE_MAP_TX_MAP]
  | .lnkRetryCfg => [Fld.LNK_RETRY_CFG_RETRY_TIMEOUT, Fld.LNK_RETRY_CFG_RETRY_MAX]
  | .lnkRekey => [Fld.LNK_REKEY_GO, Fld.LNK_REKEY_KEY_INDEX]
  | .lnkRekeyAt => [Fld.LNK_REKEY_AT_AT]
  | .lnkKeyCtr => [Fld.LNK_KEY_CTR_TX_CTR]
  | .lnkKeyStat => [Fld.LNK_KEY_STAT_TX_VALID, Fld.LNK_KEY_STAT_TX_PHASE, Fld.LNK_KEY_STAT_RX_VALID, Fld.LNK_KEY_STAT_RX_PHASE]
  | .lnkFecCe => [Fld.LNK_FEC_CE_COUNT]
  | .lnkFecUc => [Fld.LNK_FEC_UC_COUNT]
  | .lnkRetries => [Fld.LNK_RETRIES_COUNT]
  | .lnkTagFails => [Fld.LNK_TAG_FAILS_COUNT]
  | .lnkDrops => [Fld.LNK_DROPS_COUNT]
  | .lnkLaneSwaps => [Fld.LNK_LANE_SWAPS_COUNT]
  | .lnkRecoveries => [Fld.LNK_RECOVERIES_COUNT]
  | .lnkRekeys => [Fld.LNK_REKEYS_COUNT]
  | .lnkRekeyStalls => [Fld.LNK_REKEY_STALLS_COUNT]
  | .cmpSelf => [Fld.CMP_SELF_FABRIC]
  | .cmpPeerId => [Fld.CMP_PEER_ID_ID]
  | .cmpCfg => [Fld.CMP_CFG_PULL_WINDOW, Fld.CMP_CFG_PULL_MS, Fld.CMP_CFG_PING_MS]
  | .cmpTiming => [Fld.CMP_TIMING_ADMIT_MS, Fld.CMP_TIMING_TICK_DIV]
  | .cmpMalformed => [Fld.CMP_MALFORMED_COUNT]
  | .cmpStale => [Fld.CMP_STALE_COUNT]
  | .cmpEvictions => [Fld.CMP_EVICTIONS_COUNT]
  | .cmpAttestFails => [Fld.CMP_ATTEST_FAILS_COUNT]
  | .cmpMoved => [Fld.CMP_MOVED_COUNT]
  | .cmpWeights => [Fld.CMP_WEIGHTS_W_CORE, Fld.CMP_WEIGHTS_W_FRAME]
  | .cmpComp => [Fld.CMP_COMP_ID, Fld.CMP_COMP_VALID, Fld.CMP_COMP_PARTITION, Fld.CMP_COMP_MAIN_CONTEXT, Fld.CMP_COMP_RETAINED, Fld.CMP_COMP_EPOCH]
  | .cmpElapsed => [Fld.CMP_ELAPSED_TICKS]
  | .cmpWeighted => [Fld.CMP_WEIGHTED_TICKS]
  | .cmpPeer => [Fld.CMP_PEER_PEER_ID, Fld.CMP_PEER_STATE, Fld.CMP_PEER_ROLE, Fld.CMP_PEER_PORT, Fld.CMP_PEER_PARTS, Fld.CMP_PEER_FABRIC, Fld.CMP_PEER_BUSY]
  | .egrCfg => [Fld.EGR_CFG_GATES_ON, Fld.EGR_CFG_ACTIVE, Fld.EGR_CFG_SWITCH, Fld.EGR_CFG_LIST_ERR, Fld.EGR_CFG_GUARD, Fld.EGR_CFG_REFILL]
  | .egrShaper => [Fld.EGR_SHAPER_BURST, Fld.EGR_SHAPER_RATE]
  | .egrTokens => [Fld.EGR_TOKENS_TOKENS]
  | .egrWeight => [Fld.EGR_WEIGHT_W_BG, Fld.EGR_WEIGHT_W_BE, Fld.EGR_WEIGHT_W_LC]
  | .egrGate => [Fld.EGR_GATE_OPEN, Fld.EGR_GATE_DURATION]
  | .egrGateWaits => [Fld.EGR_GATE_WAITS_COUNT]
  | .egrGateSplits => [Fld.EGR_GATE_SPLITS_COUNT]
  | .egrShaped => [Fld.EGR_SHAPED_COUNT]
  | .egrMgmtGroups => [Fld.EGR_MGMT_GROUPS_COUNT]
  | .secStat => [Fld.SEC_STAT_SPENT, Fld.SEC_STAT_FROZEN, Fld.SEC_STAT_LEVEL, Fld.SEC_STAT_WRAP_GEN, Fld.SEC_STAT_ALARM_COUNT, Fld.SEC_STAT_BOUND, Fld.SEC_STAT_DEBUG, Fld.SEC_STAT_SLOTS_USED]
  | .secChangeSeq => [Fld.SEC_CHANGE_SEQ_SEQ]
  | .secAlarm => [Fld.SEC_ALARM_RECORD, Fld.SEC_ALARM_RAW, Fld.SEC_ALARM_LATCHED]
  | .secCfg => [Fld.SEC_CFG_REVOKE_MS]
  | .secAlarmPolicy => [Fld.SEC_ALARM_POLICY_ATTEST_LIMIT, Fld.SEC_ALARM_POLICY_LEVELS]
  | .secChangeRefused => [Fld.SEC_CHANGE_REFUSED_COUNT]
  | .secPart => [Fld.SEC_PART_KEY_EPOCH, Fld.SEC_PART_CONF_HOST, Fld.SEC_PART_STATE, Fld.SEC_PART_SLOTS]
  | .secReleaseFails => [Fld.SEC_RELEASE_FAILS_COUNT]
  | .secBounceFails => [Fld.SEC_BOUNCE_FAILS_COUNT]
  | .secSlot => [Fld.SEC_SLOT_OWNER, Fld.SEC_SLOT_DEVICE, Fld.SEC_SLOT_KIND, Fld.SEC_SLOT_STATE, Fld.SEC_SLOT_EPOCH]
  | .bootStat => [Fld.BOOT_STAT_START, Fld.BOOT_STAT_STEP, Fld.BOOT_STAT_UNCONFIGURED, Fld.BOOT_STAT_COPY, Fld.BOOT_STAT_ALT]
  | .bootPlumb => [Fld.BOOT_PLUMB_REASON, Fld.BOOT_PLUMB_ITEM]
  | .bootCtl => [Fld.BOOT_CTL_CLEAR_ALT]
  | .bootFw => [Fld.BOOT_FW_FUSE_ROLLBACK, Fld.BOOT_FW_FIRED_ROLLBACK, Fld.BOOT_FW_GREEN_RESULT]
  | .bootImage => [Fld.BOOT_IMAGE_GENERATION]
  | .errDevStat => [Fld.ERR_DEV_STAT_FROZEN, Fld.ERR_DEV_STAT_DUMPED, Fld.ERR_DEV_STAT_LOST]
  | .errDevRing => [Fld.ERR_DEV_RING_NEWEST, Fld.ERR_DEV_RING_OLDEST]
  | .errNotifyDev => [Fld.ERR_NOTIFY_DEV_ENABLE, Fld.ERR_NOTIFY_DEV_VECTOR]
  | .errPartStat => [Fld.ERR_PART_STAT_FATAL, Fld.ERR_PART_STAT_LOST]
  | .errPartRing => [Fld.ERR_PART_RING_NEWEST, Fld.ERR_PART_RING_OLDEST]
  | .errNotify => [Fld.ERR_NOTIFY_ENABLE, Fld.ERR_NOTIFY_VECTOR]
  | .errCe => [Fld.ERR_CE_COUNT]
  | .errUc => [Fld.ERR_UC_COUNT]
  | .errNested => [Fld.ERR_NESTED_COUNT]
  | .pmcCtl => [Fld.PMC_CTL_FREEZE, Fld.PMC_CTL_OVF_IRQ, Fld.PMC_CTL_VECTOR]
  | .pmcOvf => [Fld.PMC_OVF_OVF]
  | .pmcSel => [Fld.PMC_SEL_ENABLE, Fld.PMC_SEL_EVENT, Fld.PMC_SEL_PRIV, Fld.PMC_SEL_PART, Fld.PMC_SEL_PART_ONLY, Fld.PMC_SEL_MASTER_KIND, Fld.PMC_SEL_MASTER_ID, Fld.PMC_SEL_CLASS, Fld.PMC_SEL_ADDR_EN]
  | .pmcAddrLo => [Fld.PMC_ADDR_LO_ADDR]
  | .pmcAddrHi => [Fld.PMC_ADDR_HI_ADDR]
  | .pmcCnt => [Fld.PMC_CNT_OVF, Fld.PMC_CNT_COUNT]
  | .pmcBwCfg => [Fld.PMC_BW_CFG_WSEQ, Fld.PMC_BW_CFG_WINDOW]
  | .pmcBw => [Fld.PMC_BW_RX_BYTES, Fld.PMC_BW_TX_BYTES]
  | .pmcPctl => [Fld.PMC_PCTL_FREEZE, Fld.PMC_PCTL_OVF_IRQ, Fld.PMC_PCTL_VECTOR, Fld.PMC_PCTL_OVF]
  | .pmcPsel => [Fld.PMC_PSEL_ENABLE, Fld.PMC_PSEL_EVENT, Fld.PMC_PSEL_PRIV, Fld.PMC_PSEL_PART, Fld.PMC_PSEL_PART_ONLY, Fld.PMC_PSEL_MASTER_KIND, Fld.PMC_PSEL_MASTER_ID, Fld.PMC_PSEL_CLASS, Fld.PMC_PSEL_ADDR_EN]
  | .pmcPaddrLo => [Fld.PMC_PADDR_LO_ADDR]
  | .pmcPaddrHi => [Fld.PMC_PADDR_HI_ADDR]
  | .pmcPcnt => [Fld.PMC_PCNT_OVF, Fld.PMC_PCNT_COUNT]
  | .blkId => [Fld.BLK_ID_BLOCK, Fld.BLK_ID_MAJOR, Fld.BLK_ID_MINOR]

/-- The reset value of a register: its fields' reset values; reserved bits are zero (R14). -/
def RegClass.reset (c : RegClass) : Nat := c.fields.foldl (fun a f => a + f.reset * 2 ^ f.lo) 0

/-- A row of the map: a class, the BAR0 address of its first register, its counts and strides, its width in bits and
who sees it. -/
structure RegRow where
  cls : RegClass
  base : Nat
  n : Nat
  stride : Nat
  m : Nat
  stride2 : Nat
  width : Nat
  seen : Seen
  deriving DecidableEq, Repr

/-- Rows of the register map, part 1 (R769). -/
def regRows1 : List RegRow := [
  ⟨.glbFunc, 0x8, 1, 0x0, 1, 0x0, 32, .all⟩,
  ⟨.glbHw, 0x10, 1, 0x0, 1, 0x0, 32, .all⟩,
  ⟨.glbCoreMap, 0x40, 1, 0x0, 1, 0x0, 32, .pf0⟩,
  ⟨.hifLink, 0x10040, 2, 0x8, 1, 0x0, 32, .pf0⟩,
  ⟨.hifErr, 0x10060, 1, 0x0, 1, 0x0, 32, .own⟩,
  ⟨.hifMboxCtl, 0x10080, 1, 0x0, 1, 0x0, 32, .ownPf⟩,
  ⟨.hifVfMap, 0x10100, 16, 0x4, 1, 0x0, 32, .pf0⟩,
  ⟨.hifSqBase, 0x11000, 64, 0x10, 1, 0x0, 64, .own⟩,
  ⟨.hifSqCfg, 0x11008, 64, 0x10, 1, 0x0, 32, .own⟩,
  ⟨.hifCqBase, 0x11400, 64, 0x10, 1, 0x0, 64, .own⟩,
  ⟨.hifCqCfg, 0x11408, 64, 0x10, 1, 0x0, 32, .own⟩,
  ⟨.hifBounceBase, 0x11800, 8, 0x10, 1, 0x0, 64, .own⟩,
  ⟨.hifBounceSize, 0x11808, 8, 0x10, 1, 0x0, 32, .own⟩,
  ⟨.hifMboxData, 0x12000, 1024, 0x4, 1, 0x0, 32, .ownPf⟩,
  ⟨.sesPartRange, 0x20100, 16, 0x4, 1, 0x0, 32, .part⟩,
  ⟨.sesParkPolicy, 0x20140, 16, 0x4, 1, 0x0, 32, .part⟩,
  ⟨.sesLive, 0x20180, 16, 0x4, 1, 0x0, 32, .part⟩,
  ⟨.sesRetired, 0x201c0, 16, 0x4, 1, 0x0, 32, .part⟩,
  ⟨.morPfxStat, 0x30100, 16, 0x4, 1, 0x0, 32, .part⟩,
  ⟨.morPinned, 0x30140, 16, 0x4, 1, 0x0, 32, .part⟩,
  ⟨.morShareCopies, 0x30180, 16, 0x4, 1, 0x0, 32, .part⟩,
  ⟨.attCfg, 0x40100, 16, 0x4, 1, 0x0, 32, .part⟩,
  ⟨.attCapCtl, 0x40140, 16, 0x4, 1, 0x0, 32, .part⟩,
  ⟨.attCapSes, 0x40180, 16, 0x8, 1, 0x0, 64, .part⟩,
  ⟨.attCapBase, 0x40200, 16, 0x8, 1, 0x0, 64, .part⟩,
  ⟨.attCapPtr, 0x40280, 16, 0x8, 1, 0x0, 64, .part⟩,
  ⟨.attStalls, 0x40300, 16, 0x4, 1, 0x0, 32, .part⟩,
  ⟨.attSpills, 0x40340, 16, 0x4, 1, 0x0, 32, .part⟩,
  ⟨.attCapDrops, 0x40380, 16, 0x4, 1, 0x0, 32, .part⟩,
  ⟨.drsCfg, 0x50100, 16, 0x4, 1, 0x0, 32, .part⟩,
  ⟨.drsProfile, 0x50200, 16, 0x80, 16, 0x8, 64, .part⟩,
  ⟨.drsParksWarm, 0x50a00, 16, 0x4, 1, 0x0, 32, .part⟩,
  ⟨.drsParksExact, 0x50a40, 16, 0x4, 1, 0x0, 32, .part⟩,
  ⟨.drsParksDressed, 0x50a80, 16, 0x4, 1, 0x0, 32, .part⟩,
  ⟨.drsDropped, 0x50ac0, 16, 0x4, 1, 0x0, 32, .part⟩,
  ⟨.drsRevived, 0x50b00, 16, 0x4, 1, 0x0, 32, .part⟩,
  ⟨.drsDemand, 0x50b40, 16, 0x4, 1, 0x0, 32, .part⟩,
  ⟨.corStat, 0x60000, 16, 0x1000, 1, 0x0, 32, .core⟩,
  ⟨.corCfg, 0x60008, 16, 0x1000, 1, 0x0, 32, .core⟩,
  ⟨.corFault, 0x60010, 16, 0x1000, 1, 0x0, 64, .core⟩]

/-- Rows of the register map, part 2 (R769). -/
def regRows2 : List RegRow := [
  ⟨.corFresh, 0x60018, 16, 0x1000, 1, 0x0, 32, .core⟩,
  ⟨.corNan, 0x60020, 16, 0x1000, 1, 0x0, 32, .core⟩,
  ⟨.corFaultInstr, 0x60028, 16, 0x1000, 1, 0x0, 32, .core⟩,
  ⟨.txtCfg, 0x70100, 16, 0x4, 1, 0x0, 32, .part⟩,
  ⟨.txtInvalid, 0x70140, 16, 0x4, 1, 0x0, 32, .part⟩,
  ⟨.txtReplaced, 0x70180, 16, 0x4, 1, 0x0, 32, .part⟩,
  ⟨.txtRingWaits, 0x701c0, 16, 0x4, 1, 0x0, 32, .part⟩,
  ⟨.grmStat, 0x80100, 16, 0x4, 1, 0x0, 32, .part⟩,
  ⟨.grmStalls, 0x80140, 16, 0x4, 1, 0x0, 32, .part⟩,
  ⟨.grmForced, 0x80180, 16, 0x4, 1, 0x0, 32, .part⟩,
  ⟨.grmSlow, 0x801c0, 16, 0x4, 1, 0x0, 32, .part⟩,
  ⟨.grmMaskWaits, 0x80200, 16, 0x4, 1, 0x0, 32, .part⟩,
  ⟨.smpDraws, 0x90100, 16, 0x4, 1, 0x0, 32, .part⟩,
  ⟨.smpOverflows, 0x90140, 16, 0x4, 1, 0x0, 32, .part⟩,
  ⟨.smpRollbacks, 0x90180, 16, 0x4, 1, 0x0, 32, .part⟩,
  ⟨.smpGateCancels, 0x901c0, 16, 0x4, 1, 0x0, 32, .part⟩,
  ⟨.smpBadLogits, 0x90200, 16, 0x4, 1, 0x0, 32, .part⟩,
  ⟨.schPartCores, 0xa0100, 16, 0x4, 1, 0x0, 32, .part⟩,
  ⟨.schCfg, 0xa0140, 16, 0x4, 1, 0x0, 32, .part⟩,
  ⟨.schDlCfg, 0xa0180, 16, 0x4, 1, 0x0, 32, .part⟩,
  ⟨.schNotices, 0xa0200, 16, 0x4, 1, 0x0, 32, .part⟩,
  ⟨.schSwitches, 0xa0240, 16, 0x4, 1, 0x0, 32, .part⟩,
  ⟨.schSwitchFails, 0xa0280, 16, 0x4, 1, 0x0, 32, .part⟩,
  ⟨.schDlFails, 0xa02c0, 16, 0x4, 1, 0x0, 32, .part⟩,
  ⟨.schTeardowns, 0xa0300, 16, 0x4, 1, 0x0, 32, .part⟩,
  ⟨.schCtx, 0xa0400, 16, 0x100, 64, 0x4, 32, .part⟩,
  ⟨.memCfg, 0xb0040, 1, 0x0, 1, 0x0, 32, .all⟩,
  ⟨.memCap, 0xb0048, 1, 0x0, 1, 0x0, 64, .all⟩,
  ⟨.memTileDataBase, 0xb0050, 1, 0x0, 1, 0x0, 64, .pf0⟩,
  ⟨.memTileSideBase, 0xb0058, 1, 0x0, 1, 0x0, 64, .pf0⟩,
  ⟨.memMortarBase, 0xb0060, 1, 0x0, 1, 0x0, 64, .pf0⟩,
  ⟨.memRecordBase, 0xb0068, 1, 0x0, 1, 0x0, 64, .pf0⟩,
  ⟨.memFrames, 0xb0070, 1, 0x0, 1, 0x0, 64, .pf0⟩,
  ⟨.memPartTiles, 0xb0100, 16, 0x8, 1, 0x0, 64, .part⟩,
  ⟨.memPartMortar, 0xb0180, 16, 0x8, 1, 0x0, 64, .part⟩,
  ⟨.memPartCtx, 0xb0200, 16, 0x8, 1, 0x0, 64, .part⟩,
  ⟨.memPartQuota, 0xb0280, 16, 0x8, 1, 0x0, 64, .part⟩,
  ⟨.memPlace, 0xb0300, 16, 0x4, 1, 0x0, 32, .part⟩,
  ⟨.memUse, 0xb0380, 16, 0x8, 1, 0x0, 64, .part⟩,
  ⟨.memArbSlot, 0xb0400, 64, 0x4, 1, 0x0, 32, .pf0⟩]

/-- Rows of the register map, part 3 (R769). -/
def regRows3 : List RegRow := [
  ⟨.memZeroWaits, 0xb0500, 16, 0x4, 1, 0x0, 32, .part⟩,
  ⟨.qryCfg, 0xc0040, 1, 0x0, 1, 0x0, 32, .pf0⟩,
  ⟨.qryWearCfg, 0xc0048, 1, 0x0, 1, 0x0, 64, .pf0⟩,
  ⟨.qryCap, 0xc0050, 1, 0x0, 1, 0x0, 64, .pf0⟩,
  ⟨.qryGcStat, 0xc0058, 1, 0x0, 1, 0x0, 64, .pf0⟩,
  ⟨.qryWear, 0xc0060, 1, 0x0, 1, 0x0, 64, .pf0⟩,
  ⟨.qryCe, 0xc0080, 1, 0x0, 1, 0x0, 32, .pf0⟩,
  ⟨.qryUc, 0xc0084, 1, 0x0, 1, 0x0, 32, .pf0⟩,
  ⟨.qryProgFails, 0xc0088, 1, 0x0, 1, 0x0, 32, .pf0⟩,
  ⟨.qryRelocs, 0xc008c, 1, 0x0, 1, 0x0, 32, .pf0⟩,
  ⟨.qryGov, 0xc0100, 16, 0x8, 1, 0x0, 64, .part⟩,
  ⟨.qryGovBudget, 0xc0180, 16, 0x8, 1, 0x0, 64, .part⟩,
  ⟨.qryGovDeclines, 0xc0200, 16, 0x4, 1, 0x0, 32, .part⟩,
  ⟨.qryLive, 0xc0240, 16, 0x8, 1, 0x0, 64, .part⟩,
  ⟨.bndCfg, 0xd0100, 16, 0x4, 1, 0x0, 32, .part⟩,
  ⟨.bndStat, 0xd0140, 16, 0x4, 1, 0x0, 32, .part⟩,
  ⟨.bndFrStat, 0xd0180, 16, 0x8, 1, 0x0, 64, .part⟩,
  ⟨.bndNextId, 0xd0200, 16, 0x4, 1, 0x0, 32, .part⟩,
  ⟨.bndCommits, 0xd0240, 16, 0x4, 1, 0x0, 32, .part⟩,
  ⟨.bndAborts, 0xd0280, 16, 0x4, 1, 0x0, 32, .part⟩,
  ⟨.bndSlotWaits, 0xd02c0, 16, 0x4, 1, 0x0, 32, .part⟩,
  ⟨.vsrCfg, 0xe0100, 16, 0x4, 1, 0x0, 32, .part⟩,
  ⟨.vsrPointCfg, 0xe0140, 16, 0x4, 1, 0x0, 32, .part⟩,
  ⟨.vsrQueries, 0xe0200, 16, 0x4, 1, 0x0, 32, .part⟩,
  ⟨.vsrInserts, 0xe0240, 16, 0x4, 1, 0x0, 32, .part⟩,
  ⟨.vsrPointed, 0xe0280, 16, 0x4, 1, 0x0, 32, .part⟩,
  ⟨.vsrSideRefusals, 0xe02c0, 16, 0x4, 1, 0x0, 32, .part⟩,
  ⟨.vsrCollExt, 0xe1000, 256, 0x10, 1, 0x0, 64, .coll⟩,
  ⟨.vsrCollStat, 0xe1008, 256, 0x10, 1, 0x0, 64, .coll⟩,
  ⟨.ckpCfg, 0xf0100, 16, 0x4, 1, 0x0, 32, .part⟩,
  ⟨.ckpWritten, 0xf0140, 16, 0x4, 1, 0x0, 32, .part⟩,
  ⟨.ckpDedup, 0xf0180, 16, 0x4, 1, 0x0, 32, .part⟩,
  ⟨.ckpDigestFails, 0xf01c0, 16, 0x4, 1, 0x0, 32, .part⟩,
  ⟨.ckpSkipped, 0xf0200, 16, 0x4, 1, 0x0, 32, .part⟩,
  ⟨.ckpSeries, 0xf1000, 16, 0x200, 64, 0x8, 64, .part⟩,
  ⟨.lnkStat, 0x100000, 8, 0x2000, 1, 0x0, 32, .pf0⟩,
  ⟨.lnkCfg, 0x100008, 8, 0x2000, 1, 0x0, 32, .pf0⟩,
  ⟨.lnkLaneMap, 0x100010, 8, 0x2000, 1, 0x0, 64, .pf0⟩,
  ⟨.lnkRetryCfg, 0x100018, 8, 0x2000, 1, 0x0, 32, .pf0⟩,
  ⟨.lnkRekey, 0x100020, 8, 0x2000, 1, 0x0, 32, .pf0⟩]

/-- Rows of the register map, part 4 (R769). -/
def regRows4 : List RegRow := [
  ⟨.lnkRekeyAt, 0x100028, 8, 0x2000, 1, 0x0, 32, .pf0⟩,
  ⟨.lnkKeyCtr, 0x100100, 8, 0x2000, 17, 0x10, 64, .pf0⟩,
  ⟨.lnkKeyStat, 0x100108, 8, 0x2000, 17, 0x10, 64, .pf0⟩,
  ⟨.lnkFecCe, 0x100400, 8, 0x2000, 1, 0x0, 32, .pf0⟩,
  ⟨.lnkFecUc, 0x100404, 8, 0x2000, 1, 0x0, 32, .pf0⟩,
  ⟨.lnkRetries, 0x100408, 8, 0x2000, 1, 0x0, 32, .pf0⟩,
  ⟨.lnkTagFails, 0x10040c, 8, 0x2000, 1, 0x0, 32, .pf0⟩,
  ⟨.lnkDrops, 0x100410, 8, 0x2000, 1, 0x0, 32, .pf0⟩,
  ⟨.lnkLaneSwaps, 0x100414, 8, 0x2000, 1, 0x0, 32, .pf0⟩,
  ⟨.lnkRecoveries, 0x100418, 8, 0x2000, 1, 0x0, 32, .pf0⟩,
  ⟨.lnkRekeys, 0x10041c, 8, 0x2000, 1, 0x0, 32, .pf0⟩,
  ⟨.lnkRekeyStalls, 0x100420, 8, 0x2000, 1, 0x0, 32, .pf0⟩,
  ⟨.cmpSelf, 0x110040, 1, 0x0, 1, 0x0, 32, .all⟩,
  ⟨.cmpPeerId, 0x110048, 1, 0x0, 1, 0x0, 64, .all⟩,
  ⟨.cmpCfg, 0x110050, 1, 0x0, 1, 0x0, 32, .pf0⟩,
  ⟨.cmpTiming, 0x110058, 1, 0x0, 1, 0x0, 32, .pf0⟩,
  ⟨.cmpMalformed, 0x110060, 1, 0x0, 1, 0x0, 32, .pf0⟩,
  ⟨.cmpStale, 0x110064, 1, 0x0, 1, 0x0, 32, .pf0⟩,
  ⟨.cmpEvictions, 0x110068, 1, 0x0, 1, 0x0, 32, .pf0⟩,
  ⟨.cmpAttestFails, 0x11006c, 1, 0x0, 1, 0x0, 32, .pf0⟩,
  ⟨.cmpMoved, 0x110070, 1, 0x0, 1, 0x0, 32, .pf0⟩,
  ⟨.cmpWeights, 0x110100, 16, 0x4, 1, 0x0, 32, .part⟩,
  ⟨.cmpComp, 0x111000, 256, 0x20, 1, 0x0, 64, .comp⟩,
  ⟨.cmpElapsed, 0x111008, 256, 0x20, 1, 0x0, 64, .comp⟩,
  ⟨.cmpWeighted, 0x111010, 256, 0x20, 1, 0x0, 64, .comp⟩,
  ⟨.cmpPeer, 0x114000, 1024, 0x10, 1, 0x0, 128, .peer⟩,
  ⟨.egrCfg, 0x120000, 8, 0x1000, 1, 0x0, 32, .pf0⟩,
  ⟨.egrShaper, 0x120040, 8, 0x1000, 3, 0x8, 64, .pf0⟩,
  ⟨.egrTokens, 0x120060, 8, 0x1000, 3, 0x8, 64, .pf0⟩,
  ⟨.egrWeight, 0x120100, 8, 0x1000, 16, 0x4, 32, .pf0⟩,
  ⟨.egrGate, 0x120400, 8, 0x1000, 128, 0x8, 64, .pf0⟩,
  ⟨.egrGateWaits, 0x120800, 8, 0x1000, 1, 0x0, 32, .pf0⟩,
  ⟨.egrGateSplits, 0x120804, 8, 0x1000, 1, 0x0, 32, .pf0⟩,
  ⟨.egrShaped, 0x120808, 8, 0x1000, 1, 0x0, 32, .pf0⟩,
  ⟨.egrMgmtGroups, 0x12080c, 8, 0x1000, 1, 0x0, 32, .pf0⟩,
  ⟨.secStat, 0x130040, 1, 0x0, 1, 0x0, 32, .pf0⟩,
  ⟨.secChangeSeq, 0x130048, 1, 0x0, 1, 0x0, 64, .pf0⟩,
  ⟨.secAlarm, 0x130050, 1, 0x0, 1, 0x0, 32, .pf0⟩,
  ⟨.secCfg, 0x130058, 1, 0x0, 1, 0x0, 32, .pf0⟩,
  ⟨.secAlarmPolicy, 0x130060, 1, 0x0, 1, 0x0, 32, .pf0⟩]

/-- Rows of the register map, part 5 (R769). -/
def regRows5 : List RegRow := [
  ⟨.secChangeRefused, 0x130068, 1, 0x0, 1, 0x0, 32, .pf0⟩,
  ⟨.secPart, 0x130100, 16, 0x8, 1, 0x0, 64, .part⟩,
  ⟨.secReleaseFails, 0x130200, 16, 0x4, 1, 0x0, 32, .part⟩,
  ⟨.secBounceFails, 0x130240, 16, 0x4, 1, 0x0, 32, .part⟩,
  ⟨.secSlot, 0x138000, 4096, 0x8, 1, 0x0, 64, .slot⟩,
  ⟨.bootStat, 0x140040, 1, 0x0, 1, 0x0, 64, .pf0⟩,
  ⟨.bootPlumb, 0x140048, 1, 0x0, 1, 0x0, 64, .pf0⟩,
  ⟨.bootCtl, 0x140050, 1, 0x0, 1, 0x0, 32, .pf0⟩,
  ⟨.bootFw, 0x140058, 1, 0x0, 1, 0x0, 64, .pf0⟩,
  ⟨.bootImage, 0x140060, 1, 0x0, 1, 0x0, 64, .pf0⟩,
  ⟨.errDevStat, 0x150040, 1, 0x0, 1, 0x0, 32, .pf0⟩,
  ⟨.errDevRing, 0x150048, 1, 0x0, 1, 0x0, 64, .pf0⟩,
  ⟨.errNotifyDev, 0x150050, 1, 0x0, 1, 0x0, 32, .pf0⟩,
  ⟨.errPartStat, 0x150100, 16, 0x8, 1, 0x0, 64, .part⟩,
  ⟨.errPartRing, 0x150180, 16, 0x8, 1, 0x0, 64, .part⟩,
  ⟨.errNotify, 0x150200, 16, 0x4, 1, 0x0, 32, .part⟩,
  ⟨.errCe, 0x150240, 16, 0x4, 1, 0x0, 32, .part⟩,
  ⟨.errUc, 0x150280, 16, 0x4, 1, 0x0, 32, .part⟩,
  ⟨.errNested, 0x1502c0, 16, 0x4, 1, 0x0, 32, .part⟩,
  ⟨.pmcCtl, 0x160040, 1, 0x0, 1, 0x0, 32, .pf0⟩,
  ⟨.pmcOvf, 0x160048, 1, 0x0, 1, 0x0, 64, .pf0⟩,
  ⟨.pmcSel, 0x160100, 64, 0x20, 1, 0x0, 64, .pf0⟩,
  ⟨.pmcAddrLo, 0x160108, 64, 0x20, 1, 0x0, 64, .pf0⟩,
  ⟨.pmcAddrHi, 0x160110, 64, 0x20, 1, 0x0, 64, .pf0⟩,
  ⟨.pmcCnt, 0x160118, 64, 0x20, 1, 0x0, 64, .pf0⟩,
  ⟨.pmcBwCfg, 0x160a00, 8, 0x10, 1, 0x0, 32, .pf0⟩,
  ⟨.pmcBw, 0x160a08, 8, 0x10, 1, 0x0, 64, .pf0⟩,
  ⟨.pmcPctl, 0x160c00, 16, 0x4, 1, 0x0, 32, .part⟩,
  ⟨.pmcPsel, 0x161000, 16, 0x100, 8, 0x20, 64, .part⟩,
  ⟨.pmcPaddrLo, 0x161008, 16, 0x100, 8, 0x20, 64, .part⟩,
  ⟨.pmcPaddrHi, 0x161010, 16, 0x100, 8, 0x20, 64, .part⟩,
  ⟨.pmcPcnt, 0x161018, 16, 0x100, 8, 0x20, 64, .part⟩,
  ⟨.blkId, 0x0, 23, 0x10000, 1, 0x0, 32, .blk⟩]

/-- The register map (R769). -/
def regRows : List RegRow := regRows1 ++ regRows2 ++ regRows3 ++ regRows4 ++ regRows5

/-- A register found at an address: its row, its indices and the byte offset within it. -/
structure RegHit where
  row : RegRow
  i : Nat
  j : Nat
  off : Nat
  deriving DecidableEq, Repr

/-- The place of an address within a row, if it lies there. -/
def RegRow.hit (r : RegRow) (a : Nat) : Option RegHit :=
  if a < r.base then none
  else
    let d := a - r.base
    let i := if r.n = 1 then 0 else d / r.stride
    let d1 := d - i * r.stride
    let j := if r.m = 1 then 0 else d1 / r.stride2
    let off := d1 - j * r.stride2
    if i < r.n && j < r.m && off < r.width / 8 then some ⟨r, i, j, off⟩ else none

/-- Windows whose offset 0 belongs to the first core or port and not to a block identifier (R768). -/
def noBlockId (i : Nat) : Bool := i == 0x06 || i == 0x10 || i == 0x12

/-- The register at an address (R759, R769); none where the address names no register (R760). -/
def regAt (a : Nat) : Option RegHit :=
  match regRows.findSome? (fun r => r.hit a) with
  | some h => if h.row.cls = .blkId && noBlockId h.i then none else some h
  | none => none

/-- The performance counters, kept apart from the other registers in the state (23_counters.md). -/
def RegClass.isPmc (c : RegClass) : Bool :=
  match c with
  | .pmcCtl | .pmcOvf | .pmcSel | .pmcAddrLo | .pmcAddrHi | .pmcCnt | .pmcBwCfg | .pmcBw | .pmcPctl
  | .pmcPsel | .pmcPaddrLo | .pmcPaddrHi | .pmcPcnt => true
  | _ => false

end Sys2Proof.Machine
end

