-- ==== Sys2Proof/Machine/SysTypes.lean ====
section
/-!
DEFINITION. Security, configuration, start and board-level data (19_security_and_isolation.md R627 to R667,
21_start_configuration_firmware.md R698 to R726, 22_errors.md R730, 25_package_and_electrical.md).
-/

namespace Sys2Proof.Machine

-- Configuration (21) -----------------------------------------------------------------------------------------------------

/-- A settings entry (R701): register and value. -/
structure Setting where
  reg   : Reg
  value : Nat
  deriving DecidableEq, Repr

/-- An entry of a plan's placement list (R703): the digest stands for the image it names; `img` is what the placement section
of a copy in flash holds under it (R704). -/
structure PlaceRef where
  part   : Nat
  ctx    : Nat
  digest : Nat
  img    : Option CtxImage
  deriving DecidableEq, Repr

/-- A placement image of a copy (R701 type 3). -/
structure PlaceImage where
  part   : Nat
  ctx    : Nat
  digest : Nat
  img    : CtxImage
  deriving DecidableEq, Repr

/-- A kind 1 payload (R703). -/
structure Plan where
  settings : List Setting
  places   : List PlaceRef
  deriving DecidableEq, Repr

/-- A key slot that a key policy provisions (R635, R652). -/
structure SlotPolicy where
  index  : Nat
  owner  : Option Nat   -- none: the device
  kind   : Nat
  image  : Word64       -- expected image key, kind 2
  attest : Option Attest -- what an attestation policy entry names, kind 5
  deriving DecidableEq, Repr

/-- A kind 2 payload (R652): slots, partitions in confidential-host mode. `foreign`: it gives a slot to another
partition than the one it is for (reason 0x66). -/
structure KeyPolicy where
  slots   : List SlotPolicy
  conf    : List Nat
  foreign : Bool
  deriving DecidableEq, Repr

/-- Payloads of change records (R652). -/
inductive ChangePayload where
  | plan (p : Plan)
  | keys (k : KeyPolicy)
  | alarms (levels : Nat) (limit : Nat)
  | binding (op cust : Nat) (requireUnit : Bool)
  | rearm
  | debug
  | removal
  deriving DecidableEq, Repr

/-- A change record (R651): MAGIC, VERSION, its reserved bytes, and whether the payload has the length and form of its kind. `opKey` and
`custKey` stand for the points that the two key IDs name; `sigs` and `digest` say whether the signatures of order 4 verify and order 6 of
R653 holds for its bytes. -/
structure ChangeRec where
  magic   : Nat
  version : Nat
  resv    : Nat
  form    : Bool
  kind    : Nat
  part    : Nat        -- 0xFF for device-wide
  target  : Word64
  seq     : Nat
  arg     : Nat
  opKey   : Nat
  custKey : Nat
  sigs    : Bool
  digest  : Bool
  id      : Nat        -- stands for the record's SHA-384
  payload : ChangePayload
  deriving DecidableEq, Repr

/-- A link-map entry (R701 type 5). -/
structure LinkEnt where
  port   : Nat
  enable : Bool
  genMax : Nat
  peer   : Nat
  parts  : Nat
  deriving DecidableEq, Repr

/-- A configuration image as S03 reads it (R700, R701). -/
structure ConfigImage where
  form       : Bool     -- form and DIGEST
  hwType     : Nat
  generation : Word64
  minRollback : Nat
  settings   : List Setting
  records    : List ChangeRec
  placement  : List PlaceImage
  nand       : Option NandGeom
  links      : List LinkEnt
  id         : Nat       -- stands for the SHA-384 of the whole image
  deriving DecidableEq, Repr

/-- The sub-image of the cores (R236, R724): the system programs, their descriptor table and their entry points. -/
structure CoreFw where
  prog    : List TWord
  table   : List DWord
  entries : List Nat
  deriving DecidableEq, Repr

/-- A firmware slot as S02 finds it (R721): 0 when its form, signature and digests are in order, else the number of the failing check; the
fields that the device compares, what stands for its image digests, and the sub-image of the cores. -/
structure FwSlot where
  present  : Bool
  fail     : Nat
  hwType   : Nat
  rollback : Nat
  unit     : Word64
  digest   : Nat
  core     : CoreFw
  deriving DecidableEq, Repr

/-- A ledger record (R719). `tag` is SEAL: zero but on the eighth record of each group of the ring. -/
structure LedgerRec where
  start   : Nat
  step    : Nat
  outcome : Nat
  run     : Nat
  alt     : Nat
  detail  : Nat
  stamp   : Nat
  tag     : Nat
  deriving DecidableEq, Repr

/-- What the record of a kind in force is (R705). -/
structure InForce where
  kind : Nat
  seq  : Nat
  id   : Nat
  deriving DecidableEq, Repr

/-- A self-test result of a physical core at S08 (R27, R28): failed MAC rows, whether its SRAM can be repaired. -/
structure CoreTest where
  badRows : Nat
  sramOk  : Bool
  logicOk : Bool
  deriving DecidableEq, Repr

/-- Fuses and identity storage (R2, R4, R27, R567, R637, R660, R723). -/
structure Fuses where
  peerId    : Word64       -- from the DIK certificate
  pkgGib    : Nat
  goodCores : Nat      -- bit per physical core
  wrapGen   : Nat
  alarmCount : Nat
  rollback  : Nat
  deriving DecidableEq, Repr

/-- What the quarry controller finds at a mount (R420, R430): whether any target answers, geometry and training in order,
good blocks, and a root record. -/
structure MountFind where
  answered  : Bool
  geomOk    : Bool
  trained   : Bool
  root      : Bool
  badBlocks : List Nat
  deriving DecidableEq, Repr

-- Security (19) ---------------------------------------------------------------------------------------------------------

/-- States of a key slot (R667). -/
inductive SlotState where
  | empty | provisioned | loaded
  deriving DecidableEq, Repr

/-- STATE codes of SEC_SLOT. -/
def SlotState.code (s : SlotState) : Nat :=
  match s with
  | .empty => 0 | .provisioned => 1 | .loaded => 2

/-- A key slot (R635, R643 to R646): `quote` names its outstanding quote while its ephemeral key lives. -/
structure KeySlot where
  owner  : Option Nat
  kind   : Nat
  state  : SlotState
  epoch  : Nat
  image  : Word64
  quote  : Option Nat
  retain : Bool
  attest : Option Attest
  deriving DecidableEq, Repr

/-- A release blob (R644): the checks of R645 that its bytes decide. -/
structure Blob where
  kind    : Nat
  retain  : Bool
  sigOk   : Bool
  quote   : Nat
  image   : Word64
  tagOk   : Bool
  deriving DecidableEq, Repr

/-- A tenant removal in progress (R663). -/
structure Removal where
  part    : Nat
  order   : Nat
  fn      : Fn
  sq      : Option Nat
  tag     : Nat
  seq     : Nat
  id      : Nat           -- stands for the record's SHA-384
  oldEpoch : Nat
  cores   : List Nat      -- cores that have not stopped (order 1) or cleared (order 7)
  waiting : List Nat      -- peers that have not answered (order 3)
  revoked : Nat
  lost    : List Word64
  zeroed  : Nat
  trimmed : Nat
  slots   : Nat
  alarm   : Bool
  restarted : Bool
  deriving DecidableEq, Repr

/-- A partition reset in progress (R331): its order, and the cores that have not stopped or cleared. -/
structure ResetRun where
  part  : Nat
  order : Nat
  fn    : Fn
  sq    : Option Nat
  tag   : Nat
  cores : List Nat
  deriving DecidableEq, Repr

/-- The completion record of a removal (R665). -/
structure RemovalRec where
  part     : Nat
  alarm    : Bool
  restarted : Bool
  oldEpoch : Nat
  newEpoch : Nat
  seq      : Nat
  id       : Nat
  lpddr    : Nat
  frames   : Nat
  revoked  : Nat
  lost     : List Word64
  slots    : Nat
  stamp    : Nat
  device   : Word64
  deriving DecidableEq, Repr

/-- A bounce agreement of a function (R648): the quote asked for, and whether keys are confirmed. COUNTERs of both
directions (R650): the highest accepted and the accepted ones within the window. -/
structure Bounce where
  quote   : Option Nat
  keyed   : Bool
  sent    : Nat
  highest : Nat
  seen    : List Nat
  deriving DecidableEq, Repr

-- Faults and the board (22, 25) ------------------------------------------------------------------------------------------

/-- A fault as its source reports it (R730): class, source, LOCATION, DETAIL, partition and context it lies in, and the
data read where it is poison (R732). -/
inductive PoisonKind where
  | none
  | tile (loc : TileLoc)
  | mortar (slot : Nat)
  | grammarFrame (slot : Nat)
  | reqState (slot : Nat)
  | grammarImage (part id : Nat)
  | collection (c : Nat)
  | ctxData (part ctx : Nat)
  | directory (slot : Nat)
  | registry (part : Nat)
  | journal (part id : Nat)
  | foreign (slot : Nat)     -- source 11: the session whose request read a frame of another partition (R105)
  deriving DecidableEq, Repr

/-- Operands of HARDWARE_FAULT (R728, R730). `running`: the records whose recovery still runs when the fault is detected
(R739), which is a matter of time. -/
structure FaultRep where
  cls      : ErrClass
  source   : Nat
  location : Nat
  detail   : Nat
  part     : Option Nat
  ctx      : Nat
  poison   : PoisonKind
  running  : List Nat
  deriving DecidableEq, Repr

/-- How a NAND page read ends (R408). -/
inductive ReadOutcome where
  | hard
  | retry (step : Nat)
  | soft
  | bad
  deriving DecidableEq, Repr

/-- Kinds of NAND operations that can time out (R404). -/
inductive NandOp where
  | program | read | erase
  deriving DecidableEq, Repr

/-- Requests over MCTP (R776): a PLDM sensor, or the recovery endpoint's FW_STAGE. -/
inductive MctpReq where
  | sensor (n : Nat)
  | fwStage (off : Nat) (data : List Byte)
  | other
  deriving DecidableEq, Repr

/-- TAP instructions (R777). -/
inductive TapInstr where
  | bypass | idcode | samplePreload | extest | acExtest | other
  deriving DecidableEq, Repr

/-- A PLL that did not lock at S06 (R713). -/
inductive PllFail where
  | course (n : Nat)
  | other
  deriving DecidableEq, Repr

/-- A dispatch (R222): context, entry point, group of cores, lead, work list, contents of the dispatch area, and the session whose request
it serves, if it serves one. -/
structure Dispatch where
  ctx   : Nat
  entry : Nat
  group : List Nat
  lead  : Option Nat
  work  : List TileLoc
  area  : List Byte
  slot  : Option Nat
  deriving DecidableEq, Repr

end Sys2Proof.Machine
end

