-- ==== Sys2Proof/Machine/HostCmd.lean ====
section
/-!
DEFINITION. Host commands with their decoded operands (20_host_interface.md R681, 21_start_configuration_firmware.md R725,
22_errors.md R743): what a submission entry, its parameter block and its buffer say.
-/

namespace Sys2Proof.Machine

/-- Operands of SES_CREATE (R681). -/
structure SesCreateArgs where
  comp     : Nat
  pfx      : Nat
  main     : Nat
  hints    : Hints
  hostData : BitVec 128
  deriving DecidableEq, Repr

/-- Operands of VSR_CREATE (R471, R475). -/
structure VsrCreateArgs where
  ctx  : Nat
  geom : CollGeom
  deriving DecidableEq, Repr

/-- A host command. -/
inductive HostCmd where
  | sesCreate (a : SesCreateArgs)
  | sesClose
  | sesQuery
  | sesSetHostData (d : BitVec 128)
  | sesPark (hints : Option Hints)
  | sesRevive
  | sesMove (peer epoch : Nat)
  | reqSubmit (a : ReqArgs)
  | reqCancel (tag : Nat)
  | pfxRegister (n : Nat)
  | pfxUnregister (id : Nat)
  | grmLoad (main : Nat) (img : GrmImage)
  | grmUnload (id : Nat)
  | vsrCreate (a : VsrCreateArgs)
  | vsrDrop (coll : Nat)
  | vsrInsert (i : VsrItem)
  | vsrDelete (coll item : Nat)
  | vsrQuery (q : VsrAsk)
  | vsrPoint (coll : Nat)
  | ckpWrite (a : CkpAsk)
  | ckpRestore (a : CkpRestoreAsk)
  | ckpRelease (series step : Nat)
  | cmpInstall (m : CMap)
  | cmpRemove (comp : Nat)
  | peerAdd (fabric parts : Nat)
  | ctxReload (ctx : Nat)
  | keyQuote (slot nonce : Nat)
  | keyImport (slot : Nat) (b : Blob)
  | bndReportGet (number bytes : Nat)
  | partReset
  | partRemove (r : ChangeRec)
  | secChange (r : ChangeRec)
  | wgtSupply (ctx first : Nat) (blocks : List (List Byte))
  | fwStage (off : Nat) (data : List Byte)
  | fwCheck (green : FwSlot)
  | cfgWrite (copyB : Bool) (off : Nat) (data : List Byte)
  | ledgerRead (start bytes : Nat)
  | devRestart
  | errRead (seq : Nat) (device : Bool) (bytes : Nat)
  deriving DecidableEq, Repr

/-- Command codes (R681, R725, R743). -/
def HostCmd.opcode (c : HostCmd) : Nat :=
  match c with
  | .sesCreate _ => 0x01 | .sesClose => 0x02 | .sesQuery => 0x03 | .sesSetHostData _ => 0x04 | .sesPark _ => 0x05
  | .sesRevive => 0x06 | .sesMove _ _ => 0x07 | .reqSubmit _ => 0x10 | .reqCancel _ => 0x11
  | .pfxRegister _ => 0x18 | .pfxUnregister _ => 0x19 | .grmLoad _ _ => 0x1A | .grmUnload _ => 0x1B
  | .vsrCreate _ => 0x20 | .vsrDrop _ => 0x21 | .vsrInsert _ => 0x22 | .vsrDelete _ _ => 0x23
  | .vsrQuery _ => 0x24 | .vsrPoint _ => 0x25 | .ckpWrite _ => 0x28 | .ckpRestore _ => 0x29
  | .ckpRelease _ _ => 0x2A | .cmpInstall _ => 0x30 | .cmpRemove _ => 0x31 | .peerAdd _ _ => 0x32
  | .ctxReload _ => 0x34 | .wgtSupply _ _ _ => 0x36 | .keyQuote _ _ => 0x38 | .keyImport _ _ => 0x39
  | .bndReportGet _ _ => 0x3A | .partReset => 0x40 | .partRemove _ => 0x41 | .secChange _ => 0x42
  | .fwStage _ _ => 0x50 | .fwCheck _ => 0x51 | .cfgWrite _ _ _ => 0x52 | .ledgerRead _ _ => 0x53
  | .devRestart => 0x54 | .errRead _ _ _ => 0x58

/-- Commands that only PF0 may issue (R681, R725). -/
def HostCmd.pfOnly (c : HostCmd) : Bool :=
  match c with
  | .peerAdd _ _ => true | .partReset => true | .partRemove _ => true | .secChange _ => true
  | .fwStage _ _ => true | .fwCheck _ => true | .cfgWrite _ _ _ => true | .ledgerRead _ _ => true
  | .devRestart => true | .errRead _ d _ => d | _ => false

/-- Commands that name a session handle (R681). -/
def HostCmd.byHandle (c : HostCmd) : Bool :=
  match c with
  | .sesClose => true | .sesQuery => true | .sesSetHostData _ => true | .sesPark _ => true
  | .sesRevive => true | .sesMove _ _ => true | .reqSubmit _ => true | .reqCancel _ => true
  | .pfxRegister _ => true | _ => false

/-- Commands that name no partition: they act on the device. -/
def HostCmd.deviceWide (c : HostCmd) : Bool :=
  match c with
  | .peerAdd _ _ => true | .fwStage _ _ => true | .fwCheck _ => true | .cfgWrite _ _ _ => true
  | .ledgerRead _ _ => true | .devRestart => true | .secChange _ => true | .errRead _ d _ => d | _ => false

/-- Commands that run on whatever an unconfigured partition still holds (R802). -/
def HostCmd.unconfiguredOk (c : HostCmd) : Bool :=
  match c with
  | .partRemove _ => true | .secChange _ => true | .errRead _ _ _ => true | .bndReportGet _ _ => true
  | c => c.deviceWide

/-- Commands that the management mailbox accepts before S15 (R692). -/
def HostCmd.earlyMailbox (c : HostCmd) : Bool :=
  match c with
  | .secChange _ => true | .bndReportGet _ _ => true | .errRead _ _ _ => true | .fwStage _ _ => true
  | .fwCheck _ => true | .cfgWrite _ _ _ => true | .ledgerRead _ _ => true | .devRestart => true | _ => false

/-- Commands that run on the management mailbox in a device-fatal freeze (R742). -/
def HostCmd.frozenMailbox (c : HostCmd) : Bool :=
  match c with
  | .errRead _ _ _ => true | .ledgerRead _ _ => true | .bndReportGet _ _ => true | .devRestart => true | _ => false

end Sys2Proof.Machine
end

