-- ==== Sys2Proof/Syntax.lean ====
section
/-!
DEFINITION. The commands of the device: one constructor for each row of the opcode table, with its decoded operands.
What a command's bytes would say beside them (a signature that verifies, a page that decodes, what a host ring's TAIL
reads) is an operand as well: it is what arrives.
-/

namespace Sys2Proof

open Sys2Proof.Machine

/-- The commands that reach the device: host commands, register writes, link and board events, steps of its engines. -/
inductive Instr where
  /-- SES_CREATE (R803). -/
  | sesCreate (u : Sub) (a : SesCreateArgs)
  /-- SES_CLOSE (R61). -/
  | sesClose (u : Sub)
  /-- SES_QUERY (R72). -/
  | sesQuery (u : Sub)
  /-- SES_SET_HOST_DATA (R801). -/
  | sesSetHostData (u : Sub) (d : BitVec 128)
  /-- SES_PARK (R75). -/
  | sesPark (u : Sub) (hints : Option Hints)
  /-- SES_REVIVE (R194). -/
  | sesRevive (u : Sub)
  /-- SES_MOVE (R199). -/
  | sesMove (u : Sub) (peer epoch : Nat)
  /-- REQ_SUBMIT (R805). -/
  | reqSubmit (u : Sub) (a : ReqArgs)
  /-- REQ_CANCEL (R320). -/
  | reqCancel (u : Sub) (tag : Nat)
  /-- PFX_REGISTER (R107). -/
  | pfxRegister (u : Sub) (n : Nat)
  /-- PFX_UNREGISTER (R114). -/
  | pfxUnregister (u : Sub) (id : Nat)
  /-- GRM_LOAD (R285). -/
  | grmLoad (u : Sub) (main : Nat) (img : GrmImage)
  /-- GRM_UNLOAD (R287). -/
  | grmUnload (u : Sub) (id : Nat)
  /-- VSR_CREATE (R471). -/
  | vsrCreate (u : Sub) (a : VsrCreateArgs)
  /-- VSR_DROP (R494). -/
  | vsrDrop (u : Sub) (coll : Nat)
  /-- VSR_INSERT (R478). -/
  | vsrInsert (u : Sub) (i : VsrItem)
  /-- VSR_DELETE (R480). -/
  | vsrDelete (u : Sub) (coll item : Nat)
  /-- VSR_QUERY (R483). -/
  | vsrQuery (u : Sub) (q : VsrAsk)
  /-- VSR_POINT (R493). -/
  | vsrPoint (u : Sub) (coll : Nat)
  /-- CKP_WRITE (R501). -/
  | ckpWrite (u : Sub) (a : CkpAsk)
  /-- CKP_RESTORE (R520). -/
  | ckpRestore (u : Sub) (a : CkpRestoreAsk)
  /-- CKP_RELEASE (R518). -/
  | ckpRelease (u : Sub) (series ckpStep : Nat)
  /-- CMP_INSTALL (R596). -/
  | cmpInstall (u : Sub) (m : CMap)
  /-- CMP_REMOVE (R596). -/
  | cmpRemove (u : Sub) (comp : Nat)
  /-- PEER_ADD (R588). -/
  | peerAdd (u : Sub) (fabric parts : Nat)
  /-- CTX_RELOAD (R359). -/
  | ctxReload (u : Sub) (ctx : Nat)
  /-- KEY_QUOTE (R643). -/
  | keyQuote (u : Sub) (slot nonce : Nat)
  /-- KEY_IMPORT (R645). -/
  | keyImport (u : Sub) (slot : Nat) (b : Blob)
  /-- BND_REPORT_GET (R468). -/
  | bndReportGet (u : Sub) (number bytes : Nat)
  /-- PART_RESET (R331). -/
  | partReset (u : Sub)
  /-- PART_REMOVE (R663). -/
  | partRemove (u : Sub) (r : ChangeRec)
  /-- SEC_CHANGE (R653). -/
  | secChange (u : Sub) (r : ChangeRec)
  /-- WGT_SUPPLY (R704). -/
  | wgtSupply (u : Sub) (ctx first : Nat) (blocks : List (List Byte))
  /-- FW_STAGE (R725). -/
  | fwStage (u : Sub) (off : Nat) (data : List Byte)
  /-- FW_CHECK (R721). -/
  | fwCheck (u : Sub) (green : FwSlot)
  /-- CFG_WRITE (R725). -/
  | cfgWrite (u : Sub) (copyB : Bool) (off : Nat) (data : List Byte)
  /-- LEDGER_READ (R725). -/
  | ledgerRead (u : Sub) (start bytes : Nat)
  /-- DEV_RESTART (R725). -/
  | devRestart (u : Sub)
  /-- ERR_READ (R743). -/
  | errRead (u : Sub) (seq : Nat) (device : Bool) (bytes : Nat)
  /-- SQ_TAIL_DOORBELL (R674). -/
  | sqTailDoorbell (fn : Fn) (q value : Nat) (unknown : List Nat)
  /-- CQ_HEAD_DOORBELL (R674). -/
  | cqHeadDoorbell (fn : Fn) (q value : Nat)
  /-- SQ_ENABLE (R675). -/
  | sqEnable (fn : Fn) (q value : Nat)
  /-- CQ_ENABLE (R676). -/
  | cqEnable (fn : Fn) (q value : Nat)
  /-- LNK_REKEY_GO (R563). -/
  | lnkRekeyGo (fn : Fn) (port key : Nat)
  /-- EGR_SWITCH (R624). -/
  | egrSwitch (fn : Fn) (port : Nat)
  /-- CLEAR_ALT (R714). -/
  | clearAlt (fn : Fn)
  /-- REGISTER_WRITE (R763). -/
  | registerWrite (fn : Fn) (addr width value : Nat)
  /-- INTERRUPT_COALESCE_EXPIRY (R687). -/
  | interruptCoalesceExpiry (fn : Fn) (q : Nat)
  /-- HOST_DMA_ERROR (R686). -/
  | hostDmaError (fn : Fn) (sq tag : Nat)
  /-- DOE_DISCOVERY (R693). -/
  | doeDiscovery (fn : Fn) (known : Bool)
  /-- DOE_HOST_REPORT (R693). -/
  | doeHostReport (fn : Fn) (nonce : Nat)
  /-- BB_ASK (R648). -/
  | bbAsk (fn : Fn) (nonce : Nat)
  /-- BB_CONFIRM (R648). -/
  | bbConfirm (fn : Fn) (tagOk : Bool)
  /-- FUNCTION_RESET (R694). -/
  | functionReset (fn : Fn)
  /-- PERST_ASSERTED (R788). -/
  | perstAsserted (ctrl : Nat)
  /-- PERST_RELEASED (R671). -/
  | perstReleased (ctrl : Nat)
  /-- MCTP_PLDM_REQUEST (R776). -/
  | mctpPldmRequest (r : MctpReq)
  /-- JTAG_INSTRUCTION (R777). -/
  | jtagInstruction (i : TapInstr)
  /-- PWR_GOOD_RISE (R712). -/
  | pwrGoodRise (straps : Nat)
  /-- PWR_GOOD_FALL (R784). -/
  | pwrGoodFall
  /-- SYS_RESET_ASSERTED (R787). -/
  | sysResetAsserted
  /-- SYS_RESET_RELEASED (R787). -/
  | sysResetReleased
  /-- ALARM_IN_ASSERTED (R657). -/
  | alarmInAsserted (pin : Nat)
  /-- ALARM_IN_RELEASED (R657). -/
  | alarmInReleased (pin : Nat)
  /-- ALARM_SOURCE_DETECTED (R658). -/
  | alarmSourceDetected (source : Nat) (present : Bool)
  /-- THERMAL_STEP_DOWN (R796). -/
  | thermalStepDown (course : Nat)
  /-- THERMAL_STEP_UP (R796). -/
  | thermalStepUp (course : Nat)
  /-- POWER_STEP_DOWN (R796). -/
  | powerStepDown (course : Nat)
  /-- POWER_STEP_UP (R796). -/
  | powerStepUp (course : Nat)
  /-- COURSE_STEP_DONE (R241). -/
  | courseStepDone (course : Nat)
  /-- THERMAL_TRIP (R797). -/
  | thermalTrip
  /-- HARDWARE_FAULT (R730). -/
  | hardwareFault (f : FaultRep)
  /-- FREEZE_DUMP_DONE (R742). -/
  | freezeDumpDone (programmed : Bool)
  /-- S00_ALWAYS_ON (R712). -/
  | s00AlwaysOn
  /-- S01_KEYSTONE_SELFTEST (R712). -/
  | s01KeystoneSelftest (pass : Bool) (f : Fuses) (cool : Bool)
  /-- S02_FIRMWARE_VERIFY (R721). -/
  | s02FirmwareVerify (green fired : FwSlot)
  /-- S03_IMAGE_READ (R712). -/
  | s03ImageRead (a b : Option ConfigImage)
  /-- S04_APPLY_CONFIG (R709). -/
  | s04ApplyConfig
  /-- S05_PCIE_UP (R671). -/
  | s05PcieUp (width0 gen0 width1 gen1 : Nat)
  /-- S06_PLL_LOCK (R712). -/
  | s06PllLock (failed : Option PllFail)
  /-- S07_MEMORY_TRAIN (R369). -/
  | s07MemoryTrain (pass : Bool)
  /-- S08_CORE_ASSIGN (R28). -/
  | s08CoreAssign (tests : List (Nat × CoreTest))
  /-- S09_FIRMWARE_LOAD (R724). -/
  | s09FirmwareLoad (failed : Option Nat)
  /-- S10_QUARRY_MOUNT (R420). -/
  | s10QuarryMount (m : MountFind)
  /-- S11_DIRECTORY_RECOVERY (R716). -/
  | s11DirectoryRecovery (readable : Bool)
  /-- S12_LINK_TRAIN (R534). -/
  | s12LinkTrain
  /-- S13_AK_CERTIFICATE (R637). -/
  | s13AkCertificate (ok : Bool)
  /-- S14_PARTITION_START (R712). -/
  | s14PartitionStart
  /-- S15_READY (R712). -/
  | s15Ready
  /-- TRAIN_SIGNAL_DETECTED (R534). -/
  | trainSignalDetected (port lanes : Nat)
  /-- TRAIN_EQUALISED (R534). -/
  | trainEqualised (port txGood rxGood : Nat)
  /-- TRAIN_GROUP_LOCK (R534). -/
  | trainGroupLock (port : Nat)
  /-- TRAIN_TIMEOUT (R535). -/
  | trainTimeout (port : Nat)
  /-- RETRAIN_TIMER (R535). -/
  | retrainTimer (port : Nat)
  /-- HELLO (R548). -/
  | hello (port gen : Nat) (bufs : List Nat) (retry : Nat)
  /-- REKEY_READY (R564). -/
  | rekeyReady (port key phase : Nat)
  /-- REKEY_ASK (R563). -/
  | rekeyAsk (port key : Nat)
  /-- LANE_RETIRE (R548). -/
  | laneRetire (port lane : Nat)
  /-- LINK_DOWN_WORD (R548). -/
  | linkDownWord (port reason : Nat)
  /-- GROUP_ARRIVAL (R553). -/
  | groupArrival (port : Nat) (g : RxGroup)
  /-- GROUP_TRANSMIT (R613). -/
  | groupTransmit (port now : Nat)
  /-- NAK_RESEND_TIMEOUT (R554). -/
  | nakResendTimeout (port : Nat)
  /-- RETRY_REWIND_TIMEOUT (R555). -/
  | retryRewindTimeout (port : Nat)
  /-- LANE_ERROR_WINDOW (R537). -/
  | laneErrorWindow (port : Nat) (counts : List Nat)
  /-- LANE_SIGNAL_LOSS (R537). -/
  | laneSignalLoss (port lane : Nat)
  /-- SPARE_MONITOR_FAIL (R536). -/
  | spareMonitorFail (port : Nat)
  /-- RECOVERY_DONE (R538). -/
  | recoveryDone (port : Nat)
  /-- RECOVERY_TIMEOUT (R538). -/
  | recoveryTimeout (port : Nat)
  /-- REKEY_MARK_REACHED (R563). -/
  | rekeyMarkReached (port key : Nat)
  /-- SHAPER_REFILL (R617). -/
  | shaperRefill (port : Nat)
  /-- GATE_ENTRY_EXPIRY (R620). -/
  | gateEntryExpiry (port : Nat)
  /-- PMC_BW_WINDOW_END (R754). -/
  | pmcBwWindowEnd (port : Nat)
  /-- QUERY_MESSAGE (R127). -/
  | queryMessage (h : Option Hdr) (slices : List Slice)
  /-- EXPERT_MESSAGE (R151). -/
  | expertMessage (h : Hdr) (p : ExpertPkt)
  /-- LOGIT_CHUNK (R577). -/
  | logitChunk (h : Option Hdr) (slot pos first : Nat) (fp32 : Bool) (ls : List Nat)
  /-- TILE_PUSH (R460). -/
  | tilePush (h : Hdr) (t : PushedTile)
  /-- HANDOFF_TIMEOUT (R463). -/
  | handoffTimeout (slot : Nat)
  /-- TILE_PULL (R582). -/
  | tilePull (h : Hdr) (layer head column frame : Nat)
  /-- PULL_ANSWER (R199). -/
  | pullAnswer (h : Hdr) (status : Status) (t : Option PushedTile)
  /-- PULL_TIMEOUT (R603). -/
  | pullTimeout (tag : Nat)
  /-- MOVE_OFFER (R585). -/
  | moveOffer (h : Hdr) (o : Offer)
  /-- MOVE_ANSWER (R202). -/
  | moveAnswer (h : Hdr) (status : Status) (handle : Word64)
  /-- MOVE_CONFIRM (R199). -/
  | moveConfirm (h : Hdr) (handle : Word64)
  /-- MOVE_ABORT (R203). -/
  | moveAbort (h : Hdr) (reason : Status)
  /-- REHANDSHAKE (R591). -/
  | rehandshake (h : Hdr) (type tag : Nat)
  /-- ADMIT_ASK (R588). -/
  | admitAsk (h : Hdr) (peerId : Word64) (role parts nonce : Nat)
  /-- ADMIT_QUOTE (R588). -/
  | admitQuote (h : Hdr) (peerId : Word64) (device : Bool) (q : PeerQuote) (next : Nat)
  /-- ADMIT_DONE (R640). -/
  | admitDone (h : Hdr) (confirm : Bool)
  /-- ADMIT_TIMEOUT (R588). -/
  | admitTimeout (peer : Nat)
  /-- LEAVE (R592). -/
  | leave (h : Hdr)
  /-- PING (R586). -/
  | ping (h : Hdr)
  /-- PING_RESPONSE (R592). -/
  | pingResponse (h : Hdr)
  /-- PING_TIMER (R592). -/
  | pingTimer (peer : Nat)
  /-- KEY_REVOKE (R587). -/
  | keyRevoke (h : Hdr) (part epoch : Nat)
  /-- KEY_REVOKE_RESPONSE (R663). -/
  | keyRevokeResponse (h : Hdr) (part : Nat)
  /-- REVOKE_TIMEOUT (R663). -/
  | revokeTimeout (part : Nat)
  /-- DISPATCH (R338). -/
  | dispatch (core : Nat) (d : Dispatch)
  /-- SLICE_END (R338). -/
  | sliceEnd (core : Nat)
  /-- MMUL (R230). -/
  | mmul (core : Nat) (i : TInstr)
  /-- SMAX_PARTIAL (R230). -/
  | smaxPartial (core : Nat) (i : TInstr)
  /-- SMAX_NORMALISE (R230). -/
  | smaxNormalise (core : Nat) (i : TInstr)
  /-- SMAX_COMBINE (R230). -/
  | smaxCombine (core : Nat) (i : TInstr)
  /-- ROT (R143). -/
  | rot (core : Nat) (i : TInstr)
  /-- QNT (R91). -/
  | qnt (core : Nat) (i : TInstr)
  /-- DQNT (R230). -/
  | dqnt (core : Nat) (i : TInstr)
  /-- GATH (R231). -/
  | gath (core : Nat) (i : TInstr)
  /-- SCAT (R231). -/
  | scat (core : Nat) (i : TInstr)
  /-- RED (R230). -/
  | red (core : Nat) (i : TInstr)
  /-- MOVE (R229). -/
  | move (core : Nat) (i : TInstr)
  /-- BCMP (R214). -/
  | bcmp (core : Nat) (i : TInstr)
  /-- TOPK (R230). -/
  | topk (core : Nat) (i : TInstr)
  /-- BAR_SYNC (R232). -/
  | barSync (core : Nat) (i : TInstr)
  /-- BAR_GATHER (R232). -/
  | barGather (core : Nat) (i : TInstr)
  /-- BAR_BROADCAST (R232). -/
  | barBroadcast (core : Nat) (i : TInstr)
  /-- BAR_TIMEOUT (R235). -/
  | barTimeout (core : Nat)
  /-- CORE_STOPPED (R331). -/
  | coreStopped (core : Nat)
  /-- FRESH_MAP_CLEAR_DONE (R218). -/
  | freshMapClearDone (core : Nat)
  /-- CONTEXT_LOADED (R239). -/
  | contextLoaded (part ctx : Nat) (ok : Bool)
  /-- ATT_BATCH_WINDOW_EXPIRY (R147). -/
  | attBatchWindowExpiry (batch : Nat)
  /-- TILE_AVAILABLE (R138). -/
  | tileAvailable (slot : Nat)
  /-- PROMOTION (R386). -/
  | promotion (slot entry : Nat)
  /-- TOKENISATION_DONE (R260). -/
  | tokenisationDone (slot : Nat)
  /-- MASK_READY (R297). -/
  | maskReady (slot : Nat)
  /-- EMIT_HOLD_POLL (R274). -/
  | emitHoldPoll (slot tail : Nat)
  /-- END_RECORD_POLL (R804). -/
  | endRecordPoll (slot tail : Nat)
  /-- DEADLINE_NOTICE (R349). -/
  | deadlineNotice (slot budget remain : Nat)
  /-- DEADLINE_SWITCH (R349). -/
  | deadlineSwitch (slot budget : Nat)
  /-- DEADLINE_FAIL (R355). -/
  | deadlineFail (slot budget : Nat)
  /-- FALLBACK_PREFILL_DONE (R352). -/
  | fallbackPrefillDone (slot : Nat) (tiles : List PushedTile)
  /-- DRESSING_DONE (R182). -/
  | dressingDone (slot : Nat)
  /-- TOKEN_LOG_PERSIST (R68). -/
  | tokenLogPersist (slot : Nat)
  /-- BOND_OPEN_GRANTED (R457). -/
  | bondOpenGranted (slot : Nat)
  /-- BOND_STAGED (R445). -/
  | bondStaged (part id : Nat)
  /-- NAND_PROGRAM_DONE (R416). -/
  | nandProgramDone (part id ppa : Nat) (pass : Bool)
  /-- NAND_READ_DONE (R408). -/
  | nandReadDone (frame : Nat) (o : ReadOutcome)
  /-- NAND_ERASE_DONE (R427). -/
  | nandEraseDone (block : Nat) (pass : Bool)
  /-- NAND_STATUS_TIMEOUT (R404). -/
  | nandStatusTimeout (op : NandOp) (part id where_ : Nat)
  /-- MAP_CHECKPOINT (R419). -/
  | mapCheckpoint
  /-- QUARRY_COLLECTION (R425). -/
  | quarryCollection (lun : Nat)
  /-- QUARRY_FOLDING (R423). -/
  | quarryFolding
  /-- QUARRY_PATROL (R431). -/
  | quarryPatrol (frame : Nat) (o : ReadOutcome)
  /-- GOVERNOR_DAY_BOUNDARY (R435). -/
  | governorDayBoundary
  /-- SCRUB_ZEROED (R394). -/
  | scrubZeroed (mortar : Bool) (frame : Nat)
  /-- LPDDR_PATROL (R395). -/
  | lpddrPatrol (addr bits : Nat)
  /-- SELF_REFRESH_ENTRY (R397). -/
  | selfRefreshEntry (sub : Nat)
  /-- SCAN_WINDOW_EXPIRY (R488). -/
  | scanWindowExpiry (coll : Nat)
  /-- POINTING_BATCH_DONE (R491). -/
  | pointingBatchDone (coll : Nat)
  /-- CKP_RING_ROOM (R513). -/
  | ckpRingRoom (part series tail : Nat)
  /-- METER_TICK (R606). -/
  | meterTick
  /-- MANAGEMENT_MAILBOX_GO (R692). -/
  | managementMailboxGo (u : Sub) (c : Option HostCmd)
  /-- XSPI_PAGE_PROGRAM_DONE (R791). -/
  | xspiPageProgramDone
  /-- DUMP_WAIT_LIMIT_EXPIRY (R791). -/
  | dumpWaitLimitExpiry
  deriving DecidableEq, Repr

end Sys2Proof
end

