-- ==== Sys2Proof/Decode.lean ====
section
/-!
DEFINITION. Decoding of the opcode table's words. The table gives no row any bits: a command arrives with its operands
decoded, so no word spells a command.
-/

namespace Sys2Proof

open Sys2Proof.Machine

/-- The command a word of the opcode table spells: none, since the table gives no row any bits. -/
def decodeTableWord (_nbits _w : Nat) : Option Instr := none

end Sys2Proof
end

