-- ==== Sys2Proof/Machine/Parts.lean ====
section
/-!
DEFINITION. The parts of the machine's state: sessions, work in progress, cores, contexts, ports, quarry, start and
security state, and what the device has written to its surroundings.
-/

namespace Sys2Proof.Machine

open Sys2Proof

-- Sessions (02) ---------------------------------------------------------------------------------------------------------

/-- A slot of the session directory (R69 to R71) with what its session owns. A slot that the directory does not list is
FREE with generation 0. -/
structure Session where
  gen       : Nat
  state     : SesState
  op        : SesOp
  retired   : Bool
  dressed   : Bool
  poisoned  : Bool
  part      : Nat
  mortar    : Mortar
  pfx       : Nat            -- PREFIX_ID, 0xFFFF for none
  pfxTiles  : Nat
  pfxSeq    : Nat            -- which registration of PREFIX_ID it uses (R106)
  nextPos   : Nat
  log       : List LogEntry
  logFrames : List Nat
  perLog    : List LogEntry  -- what the persisted copy in the quarry holds (R68)
  perFrames : List Nat       -- its quarter frames
  sincePersist : Nat         -- tokens that entered the log since the last persist or skip (R68, R800)
  reqCount  : Nat
  grammar   : Option GramState
  epoch     : Nat            -- BINDING (R70)
  comp      : Nat
  main      : Nat
  fallback  : Nat
  hints     : Hints
  lastStatus : Status
  lastTag   : Nat
  lastTokens : Nat
  lastUse   : Nat
  ckpStep   : Nat
  movePeer  : Nat
  moveEpoch : Nat
  hostData  : BitVec 128
  waiting   : List (Sub × HostCmd)
  noted     : List (Sub × Nat)  -- queued requests and budgets whose notice has been posted (R349)
  freeSeq   : Nat            -- when the slot became FREE, as a count (R57)
  rootCopy  : Option Nat     -- quarry frame of the root page's copy (R717)
  ckpReads  : Nat            -- checkpoints between cut and end of tile reads (R504)
  offerLog  : Nat            -- entries of the log that came with a move offer (R204)
  sliceRead : List Nat       -- mortar indexes of the tiles that slices have read since they last moved (R386)
  deriving DecidableEq, Repr

/-- An unused slot. -/
def Session.free : Session :=
  { gen := 0, state := .free, op := .none, retired := false, dressed := false, poisoned := false, part := 0,
    mortar := Mortar.empty 0, pfx := 0, pfxTiles := 0, pfxSeq := 0, nextPos := 0, log := [], logFrames := [], perLog := [],
    perFrames := [], sincePersist := 0, reqCount := 0, grammar := none, epoch := 0, comp := 0, main := 0,
    fallback := 0, hints := ⟨0, 0, 0⟩, lastStatus := 0, lastTag := 0, lastTokens := 0, lastUse := 0, ckpStep := 0,
    movePeer := 0, moveEpoch := 0, hostData := 0, waiting := [], noted := [], freeSeq := 0, rootCopy := none, ckpReads := 0,
    offerLog := 0, sliceRead := [] }

/-- The handoff of an appending phase, of an exact re-prefill or of a restore (R460 to R463): staged tiles by mortar
index, their frames, and the peers that have pushed. -/
structure Handoff where
  first   : Nat
  last    : Nat               -- one past the last position
  staged  : AMap Nat Nat      -- mortar index → tile frame
  peers   : List Nat
  bond    : Nat
  rebuild : Bool              -- it belongs to an exact re-prefill (R191)
  shareTo : Nat               -- rebuild: PREFIX_TILES at the commit (R190)
  logTo   : Nat               -- rebuild: LOG_COUNT at the commit (R193)
  prior   : SesState          -- rebuild: the state to return to
  owner   : Option Owner      -- rebuild: the SES_REVIVE that asked; none when a request did
  deriving DecidableEq, Repr

/-- Kinds a park achieves (R76). -/
inductive ParkKind where
  | warm | exact | dressed
  deriving DecidableEq, Repr

/-- Kind numbers of R76. -/
def ParkKind.code (k : ParkKind) : Nat :=
  match k with
  | .warm => 0 | .exact => 1 | .dressed => 2

/-- What a command has done so far, as a fault report counts it (R467): bonds committed, bytes moved, last bond. -/
structure Tally where
  bonds : Nat
  moved : Nat
  last  : Nat
  deriving DecidableEq, Repr

/-- A command that has done nothing yet. -/
def Tally.zero : Tally := ⟨0, 0, 0⟩

/-- A dressing profile (R179, R207). -/
structure Profile where
  anchor : Nat
  window : Nat
  budget : Nat
  radius : Nat
  deriving DecidableEq, Repr

/-- A park in progress (R174, R175). `budget`: B' of R437; `prof` and `decay`: the profile and DECAY as they stood at its start (R205);
`tiles`: the quarry frames staged for what the park programs, by
mortar index; `todo`: mortar indexes a warm park still has to demote. -/
structure ParkRun where
  owner   : Owner
  kind    : ParkKind
  budget  : Nat
  prof    : Profile
  decay   : Nat
  hints   : Hints
  dressing : Bool
  dressedAny : Bool
  dropped : Nat
  tiles   : AMap Nat Nat
  todo    : List Nat
  bond    : Nat
  tally   : Tally
  deriving DecidableEq, Repr

/-- A revive in progress (R194 to R197), by SES_REVIVE or for a running request. `logLeft`: quarry frames of the persisted
log still to read; `fetch`: the mortar indexes still in the quarry, in fetch order. -/
structure ReviveRun where
  owner   : Option Owner
  logLeft : List Nat
  fetch   : List Nat
  ahead   : Nat                  -- READ_AHEAD as it stood at the start (R205)
  tally   : Tally
  deriving DecidableEq, Repr

-- Contexts and cores (06, 10) ----------------------------------------------------------------------------------------------

/-- A context of a partition (R333 to R337, R363). `teardowns` saturates; `idleDowns` counts teardowns with no completed
request between (R359); `blocks` are the weight blocks supplied (R704). -/
structure Ctx where
  img       : CtxImage
  digest    : Nat
  state     : CtxState
  teardowns : Nat
  idleDowns : Nat
  blocks    : List Nat
  asked     : List Owner         -- CTX_RELOAD commands that wait for the load
  held      : List (Sub × HostCmd) -- queries that wait for the load (R337)
  deriving DecidableEq, Repr

/-- A dispatch that runs on a core (R222): the instructions that it has completed, the BAR it waits at, and the completed repetitions of
the instruction at which it stands (R224). -/
structure Run where
  d    : Dispatch
  bar  : Option TInstr
  pc   : Nat
  reps : Nat
  deriving DecidableEq, Repr

/-- An enabled core (R210 to R219, R338 to R341, R796). -/
structure Core where
  owner    : Option Nat
  phys     : Nat
  course   : Nat
  spares   : Nat
  clearing : Bool
  stopping : Bool
  running  : Option Run
  queue    : List Dispatch
  paused   : List Run          -- preempted programs, which resume (R224)
  lastLc   : Nat
  lastBe   : Nat
  choices  : List Bool         -- slice choices, newest first: whether each went to best-effort or background (R340)
  store    : List Host.Cell    -- tile-store bytes
  fresh    : List Nat          -- lines whose fresh bit is 1 (R217)
  poison   : List Nat          -- lines whose poison bit is 1 (R731)
  prog     : AMap Nat TWord    -- program memory by instruction index (R210, R236)
  ran      : List (Nat × Nat)  -- partition and context of what has run since the last meter tick (R606)
  deriving DecidableEq, Repr

/-- A course (R21, R45, R241, R796): physical step, whether it is changing, steps taken for temperature and for power,
and the step that a change leads to. -/
structure Course where
  step     : Nat
  changing : Bool
  thermal  : Nat
  power    : Nat
  next     : Nat
  fixedLow : Bool
  deriving DecidableEq, Repr

/-- A group barrier (R232): who has arrived, gathered slots by rank, broadcast data. -/
structure Barrier where
  arrived : List Nat
  slots   : AMap Nat (List Byte)
  deriving DecidableEq, Repr

-- Ports (16, 18) ---------------------------------------------------------------------------------------------------------------

/-- A queued message with its finish time F (R615). `waited`: counted under R622 for the present window. -/
structure Flow where
  m      : TxMsg
  f      : Nat
  waited : Bool
  deriving DecidableEq, Repr

/-- A Solvor port (16, 18). -/
structure Port where
  state    : PortState
  gen      : Nat
  order    : Nat              -- training order under way (R534)
  second   : Bool             -- the attempt at generation 1 (R535)
  prior    : PortState        -- the state RECOVERY returns to
  txGood   : Nat
  rxGood   : Nat
  txSpare  : Bool             -- spare free
  rxSpare  : Bool
  txMap    : List Nat
  rxMap    : List Nat
  helloIn  : Bool
  helloAcked : Bool
  adv      : List Nat         -- the peer's buffers per virtual channel
  freed    : List Nat         -- latest CREDIT received
  sent     : List Nat         -- SENT_v
  freedOut : List Nat         -- flits this end has freed
  peerRetry : Nat
  retry    : List TxGroup     -- unacknowledged groups, oldest first (R555)
  resend   : Nat              -- how many groups at the end of `retry` are due to be sent again
  nextSeq  : Nat
  expect   : Nat              -- GSEQ expected
  acked    : Nat              -- GSEQ after the last one the peer has acknowledged
  nakDue   : Bool
  nakOut   : Bool             -- a NAK has been sent and the expected group has not come
  rewinds  : Nat
  tagFails : Nat              -- tag failures of the expected group (R558)
  keys     : AMap Nat PortKey
  words    : List LinkWord    -- control words to send, the first is being repeated (R549)
  lastWord : Option LinkWord  -- last word received (R549)
  mgmt     : List TxMsg
  flows    : AMap Nat (List Flow)
  vt       : Nat              -- V
  flast    : AMap Nat Nat
  streams  : AMap (Nat × Nat) Nat  -- (key index, virtual channel) → flow that holds it
  gateAt   : Nat              -- entry of the active list
  bwTx     : Nat
  bwRx     : Nat
  tokens   : List Nat         -- shaper tokens per class, units of 1/256 flit
  rates    : List Nat         -- RATE in force per class (R619)
  rxOpen   : List (Nat × Nat) -- arriving streams (key index, virtual channel) inside a message (R546)
  leftDown : Bool             -- left down by R32
  deriving DecidableEq, Repr

-- Quarry (12) -------------------------------------------------------------------------------------------------------------------

/-- A staged quarry frame (R417). -/
structure Staged where
  owner : Nat
  kind  : QKind
  bond  : Nat
  ppa   : Option Nat   -- its data page, once programmed
  deriving DecidableEq, Repr

/-- Metadata in a page's spare area (R407); KIND 0 tile data, 1 side page, 2 quarters. -/
structure PageMeta where
  owner : Nat
  kind  : Nat
  frame : Nat
  seq   : Nat
  deriving DecidableEq, Repr

/-- The 16 bytes of a page's metadata (R407). -/
def PageMeta.bytes (m : PageMeta) : List Byte :=
  leBytes 8 ((m.owner % 16) * 2 ^ 60 + (m.kind % 4) * 2 ^ 58 + m.frame % 2 ^ 34) ++ leBytes 8 m.seq

/-- The quarry controller's state (12). `known`: the media has been formatted (R430). -/
structure Qry where
  mounted  : Bool
  readOnly : Bool
  left     : Bool              -- left down (R713)
  known    : Bool
  user     : Nat               -- USER_FRAMES
  geom     : NandGeom
  blocks   : AMap Nat Blk      -- blocks that are not free with no erase
  map      : AMap Nat QMap
  dir      : AMap Nat Nat      -- map directory: the PPA of each map page that has been written back (R413)
  cached   : List Nat          -- map pages in the map cache (R413)
  dirty    : List Nat          -- cached map pages that have changed since they were written back
  staged   : AMap Nat Staged
  pages    : AMap Nat Nat      -- PPA → logical frame of each programmed data page
  metas    : AMap Nat PageMeta -- PPA → plaintext metadata of each programmed data and side page (R407)
  journal  : List QRec         -- records since the last map checkpoint, newest first
  root     : Nat               -- root record written last: SEQ
  seq      : Nat               -- program sequence number (R407)
  used     : AMap Nat Nat      -- U_p
  budget   : AMap Nat Nat      -- B_p
  nandBytes : Nat              -- programmed today
  logBytes : Nat
  waNum    : Nat               -- WA of the previous day as a fraction
  waDen    : Nat
  badBlocks : List Nat
  ids      : AMap Nat Nat      -- highest bond ID of a partition in the mirrored journal (R456)
  deriving DecidableEq, Repr

/-- A directory copy in the mirrored journal (R452). -/
structure Mirror where
  seq  : Nat
  slot : Nat
  part : Nat
  ses  : Session
  deriving DecidableEq, Repr

/-- A bond that waits at order 2 (R447, R457). -/
structure BondWait where
  part : Nat
  slot : Nat
  sub  : Sub
  cmd  : HostCmd
  deriving DecidableEq, Repr

-- Checkpoints (15) --------------------------------------------------------------------------------------------------------------

/-- Checkpoints of the device (15). -/
structure Ckp where
  newest : AMap (Nat × Nat) Nat              -- newest complete step
  mans   : AMap (Nat × Nat) (List (Manifest × List Nat))  -- complete manifests in the quarry with their frames, newest first
  index  : AMap Nat (List ShardIdx)
  runs   : AMap (Nat × Nat) CkpRun
  queue  : List (Sub × HostCmd)              -- writes that wait for their series (R500)
  deriving DecidableEq, Repr

-- Security, start, errors (19, 21, 22) ----------------------------------------------------------------------------------------------

/-- Keystone and vault state (19). -/
structure Sec where
  fuses    : Fuses
  latched  : Nat
  raw      : Nat
  level    : Nat               -- highest latched level
  record   : Nat               -- number of the latest alarm record
  frozen   : Bool
  spent    : Bool
  debug    : Bool
  authority : Option (Nat × Nat)
  requireUnit : Bool
  changeSeq : Nat
  inForce  : List InForce
  epochs   : AMap Nat Nat      -- KEY_EPOCH, 1 where not listed
  conf     : List Nat          -- partitions in confidential-host mode
  slots    : AMap Nat KeySlot
  seeds    : List Nat          -- partitions whose quarry seed exists
  marks    : AMap Nat (Nat × Nat) -- removal-pending marks: partition, SEQ and digest of the record
  removed  : List Nat          -- partitions removed
  fails    : List Nat          -- always-on counts of attestation failures
  hops     : List (Nat × Nat)  -- port and fabric address of each endpoint with a hop secret
  quotes   : Nat               -- quotes made
  akFor    : Option Nat        -- firmware digest that the AK certificate binds
  keyless  : Bool              -- an A3 has destroyed the keys and no key policy has come since (R659)
  vaultGen : Nat               -- the generation under which the vault is sealed (R632, R633)
  deriving DecidableEq, Repr

/-- What the device does as a whole (21 R712 to R715, 22 R742, 25 R787). -/
inductive Phase0 where
  | off                    -- PWR_GOOD low
  | reset                  -- SYS_RESET_N asserted
  | start (next : Nat)     -- the start step S<next> is to run
  | ready                  -- S15 reached
  | stopped (at_ : Nat)    -- stopped at a failing step (R713)
  deriving DecidableEq, Repr

/-- Start, configuration and firmware state (21). -/
structure Boot where
  phase    : Phase0
  number   : Nat               -- start number
  step     : Nat
  unconf   : Bool
  copyB    : Bool              -- image copy in use
  fails    : AMap Nat Nat      -- consecutive failures of a step
  alts     : AMap Nat Nat      -- alternatives in force
  clearAlt : Bool              -- BOOT_CTL.CLEAR_ALT written
  selfRestarts : Nat
  copyFails : List Bool        -- copies that have failed S04 or S14 (true: B)
  imgA     : Option ConfigImage
  imgB     : Option ConfigImage
  image    : Option ConfigImage   -- in use
  plan     : Option Plan          -- in force
  nextPlan : Option Plan          -- applied at S04, takes effect at S14
  places   : List PlaceRef
  links    : List LinkEnt
  fired    : FwSlot
  greenResult : Nat
  ledger   : List LedgerRec       -- newest first
  ledgerAt : Nat                  -- records appended: the next one's place in the ring, modulo its size
  plls     : List Nat             -- courses fixed at 1.1 GHz
  deadPorts : List Nat            -- link dies left down (R713)
  recovery : Bool                 -- S02 recovery endpoint (R721)
  nextB    : Bool                 -- image copy that the next start reads
  restart  : Option Owner         -- the DEV_RESTART whose completion is still to be posted (R725)
  straps   : Nat
  trainFails : List Nat           -- ports whose training failed at S12
  badCores : List Nat             -- physical cores that the ledger records as failed (R28)
  deriving DecidableEq, Repr

/-- Error rings and freeze state (22). -/
structure Err where
  ring     : List ErrRec          -- device ring, newest first
  parts    : AMap Nat (List ErrRec)
  next     : Nat                  -- next SEQ
  lost     : Nat
  partLost : AMap Nat Nat
  open_    : List Recovery
  frozen   : Bool                 -- a DF freeze is in force
  order    : Nat                  -- order of R742 under way
  dumped   : Bool
  dump     : List ErrRec          -- copy in the quarry's reserved blocks
  fatal    : List Nat             -- partitions frozen by R729
  deriving DecidableEq, Repr

/-- Pins (25 R775). `true` is the electrical level. -/
structure Pins where
  pwrGood   : Bool
  sysReset  : Bool      -- SYS_RESET_N asserted
  perst0    : Bool      -- PERST0_N asserted
  perst1    : Bool
  alarmOut  : Bool      -- ALARM_OUT_N driven low
  fault     : Bool      -- FAULT_N driven low
  therm     : Bool      -- THERM_TRIP_N driven low
  tap       : TapInstr
  xspiBusy  : Bool      -- a page program runs
  xspiReset : Bool      -- XSPI_RESET_N driven low
  nandWrite : Bool      -- every NFn_WP_N driven high (R778)
  resetHeld : Bool      -- a SYS_RESET_N is held back (R791)
  deriving DecidableEq, Repr

-- Outputs ------------------------------------------------------------------------------------------------------------------------------

/-- An emit record (R271). KIND 0 text, 1 end, 2 pad. -/
structure EmitRec where
  seq    : Nat
  kind   : Nat
  flags  : Nat
  length : Nat
  tokens : Nat
  endw   : Nat
  text   : List Byte
  deriving DecidableEq, Repr

/-- A score-capture record (R156). -/
structure CapRec where
  handle : Word64
  pos    : Nat
  layer  : Nat
  head   : Nat
  flags  : Nat
  count  : Nat
  group  : Nat
  bytes  : Nat
  seq    : Nat
  positions : List Nat
  scores : List Nat
  deriving DecidableEq, Repr

/-- An entry of a restore's result list (R523). -/
structure RestoreRes where
  reason : Nat
  value  : Word64
  status : Status
  deriving DecidableEq, Repr

/-- What is written to a host buffer. -/
inductive HostData where
  | record (words : List Nat)
  | report (r : Report) (bytes : Nat)
  | results (rs : List VsrResult)
  | quote (q : Quote)
  | ledger (rs : List LedgerRec)
  | errors (rs : List ErrRec)
  | removal (r : RemovalRec)
  | restored (rs : List RestoreRes)
  deriving DecidableEq, Repr

/-- What the device writes to its surroundings, newest first in the state. -/
inductive Out where
  | cqe (fn : Fn) (q : Nat) (c : Completion) (sqHead mark : Nat)
  | mbox (c : Completion)
  | msix (fn : Fn) (vector : Nat)
  | data (fn : Fn) (d : HostData)
  | emit (fn : Fn) (at_ : Nat) (r : EmitRec)
  | head (fn : Fn) (ctrl head : Nat)
  | capture (fn : Fn) (at_ : Nat) (r : CapRec)
  | ckpShard (fn : Fn) (at_ step : Nat) (sh : Shard)
  | ckpManifest (fn : Fn) (at_ : Nat) (m : Manifest)
  | doe (fn : Fn) (q : Option Quote) (status : Status)
  | doeEmpty (fn : Fn)
  | sensor (n value : Nat)
  | tap (i : TapInstr)
  | link (port : Nat) (g : TxGroup) (phase ctr ack : Nat) (nak : Bool) (credit : List Nat)
  | linkDown (port reason : Nat)
  deriving DecidableEq, Repr

end Sys2Proof.Machine
end

