-- ==== Sys2Proof/Machine/State.lean ====
section
/-!
DEFINITION. The state of the device, the reasons a step can stop, and the state after reset.
-/

namespace Sys2Proof.Machine

open Sys2Proof

/-- Reasons for which the machine stops. The specification gives every command an effect (an error of the device is a
status, an error record or a state of its own), so there is none. -/
inductive Fault where
  deriving DecidableEq, Repr

/-- Reasons for which the model has no meaning for a command. -/
inductive Refusal where
  /-- Raised by an arm of `exec` for a command that has no meaning yet. Safe: the run stops. -/
  | notModelled (mnemonic : String)
  deriving DecidableEq, Repr

/-- The state of the device. Maps hold what differs from an untouched entry: a slot that `sessions` does not list is
FREE with generation 0, a frame that `tileFrames` or `mortarFrames` does not list is FREE, a register that `regs` does not
list holds its reset value. -/
structure State where
  pending   : List Instr
  out       : List Out
  regs      : AMap Reg Word64
  pmc       : AMap Reg Word64
  aon       : Nat
  freeCtr   : Nat
  boot      : Boot
  sec       : Sec
  err       : Err
  pins      : Pins
  flash     : List Host.Cell
  sqs       : AMap (Nat × Nat) Sq
  cqs       : AMap (Nat × Nat) Cq
  bounce    : AMap Nat Bounce
  mboxBusy  : List Nat
  arrived   : List Owner         -- commands without a completion, in order of arrival (R465, R468)
  waitS15   : List (Sub × HostCmd)
  sessions  : AMap Nat Session
  freed     : Nat
  reqs      : AMap Nat Req
  lateEnds  : List Req           -- requests that ended while queued and whose end record waits for room (R804)
  handoffs  : AMap Nat Handoff
  parks     : AMap Nat ParkRun
  revives   : AMap Nat ReviveRun
  movesOut  : AMap Nat MoveOut
  movesIn   : AMap Nat MoveIn
  pulls     : List Pull
  slices    : List SliceWork
  expertWait : List ExpertWork
  capSeq    : AMap Nat Nat
  batches   : AMap Nat Batch
  nextBatch : Nat
  ctxs      : AMap (Nat × Nat) Ctx
  cores     : AMap Nat Core
  courses   : AMap Nat Course
  bars      : AMap (Nat × Nat) Barrier
  tileFrames   : AMap Nat Frame
  mortarFrames : AMap Nat Frame
  tiles     : AMap TileLoc Tile
  ram       : AMap (Nat × Nat) (List Host.Cell)
  prefixes  : AMap (Nat × Nat) Prefix
  regPages  : AMap (Nat × Nat) Nat       -- mortar frames of the prefix registries by partition and page of 128 entries (R106, R380)
  grammars  : AMap (Nat × Nat) Grammar
  loadGens  : AMap (Nat × Nat) Nat
  qry       : Qry
  bonds     : List Bond
  nextSeq   : Nat
  bondWaits : List BondWait
  mirror    : List Mirror
  reports   : AMap Nat (List Report)
  colls     : AMap Nat Coll
  scans     : AMap Nat (List VsrRun)
  ckp       : Ckp
  ports     : AMap Nat Port
  peers     : AMap Nat Peer
  comps     : AMap Nat Comp
  forwards  : List Forward
  resets    : AMap Nat ResetRun
  removals  : AMap Nat Removal
  removeWait : List (Sub × ChangeRec)   -- PART_REMOVE commands that wait for a reset of their partition (R662)
  allocWait : List (Sub × HostCmd)
  selfRefresh : List Nat
  patrol    : Nat
  deriving DecidableEq, Repr

/-- Fuses of an unprogrammed package: what S01 reads arrives with it. -/
def Fuses.blank : Fuses := ⟨0, 0, 0, 0, 0, 0⟩

/-- A firmware slot that holds nothing. -/
def FwSlot.empty : FwSlot := ⟨false, 0, 0, 0, 0, 0, ⟨[], [], []⟩⟩

/-- Quarry state before any mount. -/
def Qry.reset : Qry :=
  { mounted := false, readOnly := false, left := false, known := false, user := 0, geom := ⟨0, 0, 0, 0, 0, 0, 0, 0, 0, 0, []⟩,
    blocks := [], map := [], dir := [], cached := [], dirty := [], staged := [], pages := [], metas := [], journal := [], root := 0, seq := 0, used := [], budget := [],
    nandBytes := 0, logBytes := 0, waNum := 2, waDen := 1, badBlocks := [], ids := [] }

/-- Security state before S01. -/
def Sec.reset : Sec :=
  { fuses := Fuses.blank, latched := 0, raw := 0, level := 0, record := 0, frozen := false, spent := false,
    debug := false, authority := none, requireUnit := false, changeSeq := 0, inForce := [], epochs := [], conf := [],
    slots := [], seeds := [], marks := [], removed := [], fails := [], hops := [], quotes := 0, akFor := none, keyless := false, vaultGen := 0 }

/-- Start state with the power off. -/
def Boot.reset : Boot :=
  { phase := .off, number := 0, step := 0, unconf := false, copyB := false, fails := [], alts := [],
    clearAlt := false, selfRestarts := 0, copyFails := [], imgA := none, imgB := none, image := none, plan := none,
    nextPlan := none, places := [], links := [], fired := FwSlot.empty, greenResult := 0,
    ledger := [], ledgerAt := 0, plls := [], deadPorts := [], recovery := false, nextB := false, restart := none, straps := 0, trainFails := [], badCores := [] }

/-- No error has been reported. -/
def Err.reset : Err :=
  { ring := [], parts := [], next := 0, lost := 0, partLost := [], open_ := [], frozen := false, order := 0,
    dumped := false, dump := [], fatal := [] }

/-- The pins with the power off (25 R775, R787). -/
def Pins.reset : Pins :=
  { pwrGood := false, sysReset := false, perst0 := false, perst1 := false, alarmOut := false, fault := false,
    therm := false, tap := .bypass, xspiBusy := false, xspiReset := true, nandWrite := false, resetHeld := false }

/-- The device with PWR_GOOD low, before its first start: every register at its reset value (25 R787, 21 R712). -/
def State.reset : State :=
  { pending := [], out := [], regs := [], pmc := [], aon := 0, freeCtr := 0, boot := Boot.reset, sec := Sec.reset,
    err := Err.reset, pins := Pins.reset, flash := [], sqs := [], cqs := [], bounce := [], mboxBusy := [], arrived := [], waitS15 := [],
    sessions := [], freed := 0, reqs := [], lateEnds := [], handoffs := [], parks := [], revives := [], movesOut := [], movesIn := [],
    pulls := [], slices := [], expertWait := [], capSeq := [], batches := [], nextBatch := 0, ctxs := [], cores := [], courses := [], bars := [],
    tileFrames := [], mortarFrames := [], tiles := [], ram := [], prefixes := [], regPages := [], grammars := [], loadGens := [],
    qry := Qry.reset, bonds := [], nextSeq := 1, bondWaits := [], mirror := [], reports := [], colls := [],
    scans := [], ckp := ⟨[], [], [], [], []⟩, ports := [], peers := [], comps := [], forwards := [], resets := [],
    removals := [], removeWait := [], allocWait := [], selfRefresh := [], patrol := 0 }

end Sys2Proof.Machine
end

