-- ==== Sys2Proof/Machine/Ops.lean ====
section
/-!
DEFINITION. The named operations over registers, time, outputs and counters that every family uses.
-/

namespace Sys2Proof.Machine

open Sys2Proof

-- Registers (24) -----------------------------------------------------------------------------------------------------------

/-- The stored value of a register; a register that was never written holds its reset value (R16). -/
def State.reg (s : State) (r : Reg) : Nat :=
  match s.regs.get? r with
  | some v => v.toNat
  | none => r.cls.reset

/-- Stores a register's value. -/
def State.setReg (s : State) (r : Reg) (v : Nat) : State := { s with regs := s.regs.set r (BitVec.ofNat 64 v) }

/-- The value of a stored field of a register of its class. -/
def State.fld (s : State) (f : Field) (i : Nat := 0) (j : Nat := 0) : Nat := bitsOf (s.reg ⟨f.cls, i, j⟩) f.hi f.lo

/-- Whether a one-bit field is set. -/
def State.flag (s : State) (f : Field) (i : Nat := 0) (j : Nat := 0) : Bool := s.fld f i j == 1

/-- Stores a field of a register; the rest of the register keeps its value. -/
def State.setFld (s : State) (f : Field) (v : Nat) (i : Nat := 0) (j : Nat := 0) : State :=
  s.setReg ⟨f.cls, i, j⟩ (setBits (s.reg ⟨f.cls, i, j⟩) f.hi f.lo v)

/-- Adds to a counter field, which wraps at its width (the counters of R81, R166, R208 and their like). -/
def State.bump (s : State) (f : Field) (i : Nat := 0) (n : Nat := 1) : State := s.setFld f (s.fld f i + n) i

-- Time and free values ----------------------------------------------------------------------------------------------------------

/-- Draws a free value: its number, and the state in which the next draw has another number. Log entry 10. -/
def State.draw (s : State) : Nat × State := (s.freeCtr, { s with freeCtr := s.freeCtr + 1 })

/-- Lets the always-on count advance by an open amount (R44, R791). Log entry 7. -/
def State.tick (s : State) : State :=
  { s with aon := (s.aon + Config.elapsed s.freeCtr) % 2 ^ 64, freeCtr := s.freeCtr + 1 }

-- The start ledger -------------------------------------------------------------------------------------------------------------

/-- SEAL of the ledger record that is appended next (R719): a tag under SWK on the eighth record of a group
(log entry 73). -/
def State.ledgerSeal (s : State) : Nat := if s.boot.ledgerAt % 8 = 7 then Config.freeValue 78 s.boot.ledgerAt % 2 ^ 64 else 0

/-- Appends a ledger record (R719); the ring holds 131,072. -/
def State.ledger (s : State) (step outcome run alt detail : Nat) : State :=
  let s := s.tick
  let r : LedgerRec := ⟨s.boot.number, step, outcome, run, alt, detail, s.aon, s.ledgerSeal⟩
  { s with boot := { s.boot with ledger := (r :: s.boot.ledger).take 131072, ledgerAt := s.boot.ledgerAt + 1 } }

-- Outputs -------------------------------------------------------------------------------------------------------------------------

/-- Writes something to the surroundings. -/
def State.put (s : State) (o : Out) : State := { s with out := o :: s.out }

-- Sessions, requests, contexts, cores -----------------------------------------------------------------------------------------------

/-- The directory entry of a slot; a slot that the directory does not list is FREE with generation 0 (R69). -/
def State.ses (s : State) (slot : Nat) : Session := s.sessions.getD slot Session.free

/-- Stores a directory entry. -/
def State.setSes (s : State) (slot : Nat) (x : Session) : State := { s with sessions := s.sessions.set slot x }

/-- Changes a directory entry. -/
def State.modSes (s : State) (slot : Nat) (f : Session → Session) : State := s.setSes slot (f (s.ses slot))

/-- The request of a session, if one is past its queue. -/
def State.req (s : State) (slot : Nat) : Option Req := s.reqs.get? slot

/-- Stores the request of a session. -/
def State.setReq (s : State) (slot : Nat) (q : Req) : State := { s with reqs := s.reqs.set slot q }

/-- Changes the request of a session where there is one. -/
def State.modReq (s : State) (slot : Nat) (f : Req → Req) : State := { s with reqs := s.reqs.modify slot f }

/-- The handle word of a slot as its session stands. -/
def State.handleOf (s : State) (slot : Nat) : Word64 := mkHandle (s.ses slot).part slot (s.ses slot).gen

/-- A partition's context. -/
def State.ctx (s : State) (p c : Nat) : Option Ctx := s.ctxs.get? (p, c)

/-- Changes a context where there is one. -/
def State.modCtx (s : State) (p c : Nat) (f : Ctx → Ctx) : State := { s with ctxs := s.ctxs.modify (p, c) f }

/-- Changes a core where it is enabled. -/
def State.modCore (s : State) (e : Nat) (f : Core → Core) : State := { s with cores := s.cores.modify e f }

/-- Changes a port where there is one. -/
def State.modPort (s : State) (n : Nat) (f : Port → Port) : State := { s with ports := s.ports.modify n f }

/-- The class of a session's context (R334). -/
def State.ctxClass (s : State) (p c : Nat) : CtxClass :=
  match s.ctx p c with
  | some x => x.img.cls
  | none => .bg

-- Performance counters (23) ------------------------------------------------------------------------------------------------------------

/-- An event as it reaches the PMC (R750): its code, its units, the privilege (0 keystone, 1 management, 2 PF, 3 partition),
the partition it serves, its master where the specification names one, its class, and its address. -/
structure PmcEv where
  code  : Nat
  units : Nat
  priv  : Nat
  part  : Option Nat
  master : Option (Nat × Nat)
  cls   : CtxClass
  addr  : Option Nat
  deriving DecidableEq, Repr

/-- Work of a partition that serves a context or request of a class (R750). -/
def PmcEv.ofPart (code units p : Nat) (c : CtxClass) : PmcEv := ⟨code, units, 3, some p, none, c, none⟩
/-- Device work: management privilege, background class (R750). -/
def PmcEv.ofDevice (code units : Nat) : PmcEv := ⟨code, units, 1, none, none, .bg, none⟩

/-- The value of a PMC register. -/
def State.pmcReg (s : State) (r : Reg) : Nat :=
  match s.pmc.get? r with
  | some v => v.toNat
  | none => r.cls.reset

/-- Stores a PMC register. -/
def State.setPmc (s : State) (r : Reg) (v : Nat) : State := { s with pmc := s.pmc.set r (BitVec.ofNat 64 v) }

/-- The value of a field of a PMC register. -/
def State.pmcFld (s : State) (f : Field) (i : Nat := 0) (j : Nat := 0) : Nat := bitsOf (s.pmcReg ⟨f.cls, i, j⟩) f.hi f.lo

/-- The filters of R752 on a SEL value and address bounds. -/
def pmcPasses (sel lo hi : Nat) (e : PmcEv) : Bool :=
  let priv := zeroActsAs (bitsOf sel 47 44) 15
  let cls := zeroActsAs (bitsOf sel 27 25) 7
  let kind := bitsOf sel 38 36
  bitOf sel 63 && bitsOf sel 55 48 == e.code && e.code != 0
    && bitOf priv e.priv
    && (!(bitOf sel 39) || e.priv != 3 || e.part == some (bitsOf sel 43 40))
    && (kind == 0 || e.master == some (kind, bitsOf sel 35 28))
    && bitOf cls e.cls.code
    && (!(bitOf sel 24) || (match e.addr with
        | some a => decide (lo / 256 ≤ a / 256) && decide (a / 256 ≤ hi / 256)
        | none => true))

/-- Whether a partition's counter sees an event (R753): the partition's own work, no event of a port. -/
def pmcOwn (p : Nat) (e : PmcEv) : Bool := e.priv == 3 && e.part == some p && e.code != 0x50 && e.code != 0x51

/-- The function of a partition (R672, HIF_VF_MAP). -/
def State.fnOfPart (s : State) (p : Nat) : Option Fn :=
  if s.flag Fld.HIF_VF_MAP_VALID p then some ⟨s.fld Fld.HIF_VF_MAP_CONTROLLER p, s.fld Fld.HIF_VF_MAP_VF p + 1⟩ else none

/-- The partition of a virtual function, if one names it. -/
def State.partOfFn (s : State) (f : Fn) : Option Nat :=
  if f.isPf then none else (List.range 16).find? (fun p => s.fnOfPart p == some f)

/-- Signals an MSI-X vector of a function. -/
def State.signal (s : State) (f : Fn) (vector : Nat) : State := s.put (.msix f vector)

/-- Signals the functions that manage the device: PF0 of each controller. -/
def State.signalPf (s : State) (vector : Nat) : State := s.signal ⟨0, 0⟩ vector

/-- Adds units to a counter (R748): COUNT wraps at 2^48 and sets OVF, and a new OVF signals where OVF_IRQ is set (R758). -/
def State.pmcAdd (s : State) (part : Option Nat) (sel : Reg) (units : Nat) : State :=
  let cnt : Reg := match part with
    | none => ⟨.pmcCnt, sel.i, sel.j⟩
    | some _ => ⟨.pmcPcnt, sel.i, sel.j⟩
  let v := s.pmcReg cnt
  let c := bitsOf v 47 0 + units
  let ovf := bitOf v 63 || decide (2 ^ 48 ≤ c)
  let s := s.setPmc cnt (setBits (setBits v 47 0 c) 63 63 (if ovf then 1 else 0))
  if ovf && !(bitOf v 63) then
    match part with
    | none => if s.pmcFld Fld.PMC_CTL_OVF_IRQ == 1 then s.signalPf (s.pmcFld Fld.PMC_CTL_VECTOR) else s
    | some p =>
      if s.pmcFld Fld.PMC_PCTL_OVF_IRQ p == 1 then
        match s.fnOfPart p with
        | some f => s.signal f (s.pmcFld Fld.PMC_PCTL_VECTOR p)
        | none => s
      else s
  else s

/-- Counts an event in every counter whose filters it passes (R749, R752, R753). -/
def State.count (s : State) (e : PmcEv) : State :=
  s.pmc.foldl (fun acc rv =>
    let r := rv.1
    let sel := rv.2.toNat
    match r.cls with
    | .pmcSel =>
      if s.pmcFld Fld.PMC_CTL_FREEZE == 0
        && pmcPasses sel (s.pmcReg ⟨.pmcAddrLo, r.i, r.j⟩) (s.pmcReg ⟨.pmcAddrHi, r.i, r.j⟩) e
      then acc.pmcAdd none r e.units else acc
    | .pmcPsel =>
      let sel := setBits (setBits (setBits sel 47 44 8) 39 39 1) 43 40 r.i
      if s.pmcFld Fld.PMC_PCTL_FREEZE r.i == 0 && pmcOwn r.i e
        && pmcPasses sel (s.pmcReg ⟨.pmcPaddrLo, r.i, r.j⟩) (s.pmcReg ⟨.pmcPaddrHi, r.i, r.j⟩) e
      then acc.pmcAdd (some r.i) r e.units else acc
    | _ => acc) s

end Sys2Proof.Machine
end

