-- ==== Sys2Proof/Machine/Flags.lean ====
section
/-!
DEFINITION. Completions, their queues and the interrupt and error flags of a function (20_host_interface.md R674 to R687).
-/

namespace Sys2Proof.Machine

open Sys2Proof

/-- Records an error flag of a function and the queue that it concerns (R696 HIF_ERR). -/
def State.hifErr (s : State) (f : Fn) (bit : Field) (q : Nat) : State :=
  (s.setFld bit 1 f.index).setFld Fld.HIF_ERR_QUEUE q f.index

/-- A submission queue of a function. -/
def State.sq (s : State) (f : Fn) (q : Nat) : Option Sq := s.sqs.get? (f.index, q)
/-- A completion queue of a function. -/
def State.cq (s : State) (f : Fn) (q : Nat) : Option Cq := s.cqs.get? (f.index, q)
/-- Stores a submission queue. -/
def State.setSq (s : State) (f : Fn) (q : Nat) (x : Sq) : State := { s with sqs := s.sqs.set (f.index, q) x }
/-- Stores a completion queue. -/
def State.setCq (s : State) (f : Fn) (q : Nat) (x : Cq) : State := { s with cqs := s.cqs.set (f.index, q) x }

/-- Whether a completion is one of a submission queue's. -/
def Completion.ofSq (c : Completion) (f : Fn) (q : Nat) : Bool := c.fn == f && c.sq == some q && !c.notice

/-- The SQ head H (R679): the slot after the last entry fetched, held at the slot of the oldest fetched command whose
completion waits for room. -/
def State.sqHead (s : State) (f : Fn) (q : Nat) : Nat :=
  match s.sq f q with
  | none => 0
  | some x =>
    let waiting : List Completion := match s.cq f x.cq with
      | some c => c.waiting.filter (fun (w : Completion) => w.ofSq f q)
      | none => []
    match x.tags.find? (fun t => waiting.any (fun w => w.tag == t.tag && w.dup == t.dup)) with
    | some t => t.slot
    | none => x.head

/-- Adds an unsignalled event to a completion queue (R687): it signals at once where COAL_TIME is 0, else the count of
COAL_TIME starts at the first such event. -/
def State.cqEvent (s : State) (f : Fn) (q : Nat) : State :=
  match s.cq f q with
  | none => s
  | some c =>
    if c.coal = 0 then s.signal f c.vector
    else s.setCq f q { c with unsignalled := c.unsignalled + 1, timer := true }

/-- Counts a record that the device writes to a function in confidential-host mode: COUNTER of the direction to the host rises by one
(R649, R650). -/
def State.sealed (s : State) (f : Fn) : State :=
  match s.bounce.get? f.index, s.partOfFn f with
  | some b, some p =>
    if b.keyed && s.sec.conf.contains p then { s with bounce := s.bounce.set f.index { b with sent := b.sent + 1 } } else s
  | _, _ => s

/-- MARK of the next entry (R676, R683): PHASE in v1, SEQ in v2. -/
def Cq.mark (c : Cq) : Nat := if c.v2 then c.posted % (2 ^ 32 - 1) + 1 else 1 - (c.posted / c.size) % 2

/-- Forgets the outstanding tag that a completion answers. -/
def dropTag (c : Completion) (l : List SqTag) : List SqTag :=
  match l with
  | [] => []
  | t :: r => if t.tag = c.tag ∧ t.dup = c.dup then r else t :: dropTag c r

/-- Writes a completion into a queue that has room (R683). A notice leaves the tag outstanding (R684). -/
def State.writeCqe (s : State) (q : Nat) (c : Completion) : State :=
  match c.sq, s.cq c.fn q with
  | some n, some x =>
    let s1 := match s.sq c.fn n with
      | some y => if c.notice then s else s.setSq c.fn n { y with tags := dropTag c y.tags }
      | none => s
    let s2 := (s1.put (.cqe c.fn q c (s.sqHead c.fn n) x.mark)).sealed c.fn
    (s2.setCq c.fn q { x with posted := x.posted + 1, held := x.held + 1 }).cqEvent c.fn q
  | _, _ => s

/-- Forgets the command that a completion answers, the oldest one with its tag. -/
def dropOwner (o : Owner) (l : List Owner) : List Owner :=
  match l with
  | [] => []
  | x :: r => if x = o then r else x :: dropOwner o r

/-- Word k of the mailbox area of a function. -/
def State.setMbox (s : State) (f : Fn) (k v : Nat) : State := s.setFld Fld.HIF_MBOX_DATA_DATA v f.index k

/-- Puts a completion into the mailbox, at 0x040, and sets DONE (R683, R692). SQ_HEAD, SQ and MARK name a queue: they stay as they are. -/
def State.mboxAnswer (s : State) (c : Completion) : State :=
  let r := c.result.toNat
  let s := [0, 1, 2, 3].foldl (fun (a : State) k => a.setMbox c.fn (16 + k) (r / 2 ^ (32 * k))) s
  let s := (s.setMbox c.fn 20 c.report).setMbox c.fn 22 (c.tag % 2 ^ 16 + c.status.toNat * 2 ^ 16)
  s.setFld Fld.HIF_MBOX_CTL_DONE 1 c.fn.index

/-- Posts a completion (R679, R683, R692): to the management mailbox, or to the completion queue of its submission queue,
where it waits behind earlier ones while the queue is full. A completion whose queue a function reset or the host has
disabled is dropped (R694, log entry 12). -/
def State.post (s : State) (c : Completion) : State :=
  let s := if c.notice || c.dup then s else { s with arrived := dropOwner ⟨c.fn, c.sq, c.tag⟩ s.arrived }
  match c.sq with
  | none =>
    ({ s with mboxBusy := s.mboxBusy.filter (fun i => i != c.fn.index) }.mboxAnswer c).put (.mbox c)
  | some n =>
    match s.sq c.fn n with
    | none => s
    | some y =>
      match s.cq c.fn y.cq with
      | none => s
      | some x =>
        if !x.on then
          if c.notice then s else s.setSq c.fn n { y with tags := dropTag c y.tags }
        else if x.held < x.size && x.waiting.isEmpty then s.writeCqe y.cq c
        else s.setCq c.fn y.cq { x with waiting := x.waiting ++ [c] }

/-- Whether the completion of a session's request waits for room (R679). -/
def State.endWaits (s : State) (slot : Nat) : Bool :=
  s.cqs.any (fun kc => kc.2.waiting.any (fun c => c.ends == some slot))

/-- Writes the completions that wait, while there is room; answers the sessions whose requests they end. -/
def State.drainCq (s : State) (f : Fn) (q : Nat) (ws : List Completion) : State × List Nat :=
  match ws with
  | [] => (s, [])
  | c :: r =>
    match s.cq f q with
    | none => (s, [])
    | some x =>
      if x.held < x.size then
        let s1 := (s.setCq f q { x with waiting := x.waiting.drop 1 }).writeCqe q c
        let t := s1.drainCq f q r
        (t.1, match c.ends with | some slot => slot :: t.2 | none => t.2)
      else (s, [])

/-- A completion of a submission with a status and a RESULT. -/
def Sub.answer (u : Sub) (status : Status) (result : BitVec 128 := 0) (report : Nat := 0) : Completion :=
  { fn := u.fn, sq := u.sq, tag := u.tag, status := status, result := result, report := report, notice := false }

/-- Completes a command. -/
def State.complete (s : State) (u : Sub) (status : Status) (result : Nat := 0) (report : Nat := 0) : State :=
  s.post (u.answer status (BitVec.ofNat 128 result) report)

/-- A completion for work that outlived its command. -/
def State.completeFor (s : State) (o : Owner) (status : Status) (result : Nat := 0) (report : Nat := 0) : State :=
  s.post { fn := o.fn, sq := o.sq, tag := o.tag, status := status, result := BitVec.ofNat 128 result, report := report,
           notice := false }

/-- Who receives a submission's completion. -/
def Sub.owner (u : Sub) : Owner := ⟨u.fn, u.sq, u.tag⟩

/-- Writes data to a host buffer of a function. -/
def State.buf (s : State) (f : Fn) (d : HostData) : State := (s.put (.data f d)).sealed f

end Sys2Proof.Machine
end

