-- ==== Sys2Proof/Machine/Program.lean ====
section
/-!
DEFINITION. Tile programs as program memory holds them: the fields of an instruction and of a descriptor, and the program check
(06_cores.md R212, R224 to R230, R236 to R238).
-/

namespace Sys2Proof.Machine

open Sys2Proof

-- Instructions (R226) ------------------------------------------------------------------------------------------------------

/-- OPCODE of an instruction. -/
def TWord.op (w : TWord) : Nat := bitsOf w.toNat 127 122

/-- The fields of an instruction other than OPCODE. -/
def TWord.instr (w : TWord) : TInstr :=
  let f (hi lo : Nat) : Nat := bitsOf w.toNat hi lo
  { mode := f 121 116, last := bitOf w.toNat 115, repDst := bitOf w.toNat 114, repA := bitOf w.toNat 113, repB := bitOf w.toNat 112,
    dst := f 111 100, srcA := f 99 88, srcB := f 87 76, srcC := f 75 64, imm := BitVec.ofNat 32 (f 63 32), barrier := f 31 24,
    count := f 15 0 }

/-- Whether the reserved bits of an instruction are zero. -/
def TWord.reservedZero (w : TWord) : Bool := bitsOf w.toNat 23 16 == 0

/-- The instruction of an operation and its fields (R226). -/
def TInstr.word (op : Nat) (i : TInstr) : TWord :=
  let b (x : Bool) : Nat := if x then 1 else 0
  BitVec.ofNat 128 ((op % 64) * 2 ^ 122 + (i.mode % 64) * 2 ^ 116 + b i.last * 2 ^ 115 + b i.repDst * 2 ^ 114 + b i.repA * 2 ^ 113
    + b i.repB * 2 ^ 112 + (i.dst % 4096) * 2 ^ 100 + (i.srcA % 4096) * 2 ^ 88 + (i.srcB % 4096) * 2 ^ 76 + (i.srcC % 4096) * 2 ^ 64
    + i.imm.toNat * 2 ^ 32 + (i.barrier % 256) * 2 ^ 24 + i.count % 65536)

-- Descriptors (R227, R228) ---------------------------------------------------------------------------------------------------

/-- The space that a SPACE code names. -/
def spaceOf (n : Nat) : Space := if n = 0 then .store else if n = 1 then .region else if n = 2 then .tile else .area

/-- SPACE codes. -/
def Space.code (x : Space) : Nat :=
  match x with
  | .store => 0 | .region => 1 | .tile => 2 | .area => 3

/-- The fields of a descriptor. -/
def DWord.desc (w : DWord) : Desc :=
  let f (byte n : Nat) : Nat := w.toNat / 2 ^ (8 * byte) % 2 ^ (8 * n)
  { space := spaceOf (bitsOf w.toNat 63 62), off := bitsOf w.toNat 39 0, rows := f 0x08 2, cols := f 0x0A 2, stride := f 0x0C 4,
    type := f 0x10 1 % 16, scaling := f 0x11 1 / 64, scaleOff := f 0x14 4, rep := f 0x18 4 }

/-- Whether the reserved fields of a descriptor are zero. -/
def DWord.reservedZero (w : DWord) : Bool :=
  let f (byte n : Nat) : Nat := w.toNat / 2 ^ (8 * byte) % 2 ^ (8 * n)
  bitsOf w.toNat 61 40 == 0 && f 0x10 1 / 16 == 0 && f 0x11 1 % 64 == 0 && f 0x12 2 == 0 && f 0x1C 4 == 0

/-- The 32 bytes of a descriptor's fields. -/
def Desc.word (d : Desc) : DWord :=
  BitVec.ofNat 256 (d.space.code * 2 ^ 62 + d.off % 2 ^ 40 + (d.rows % 65536) * 2 ^ 64 + (d.cols % 65536) * 2 ^ 80
    + (d.stride % 2 ^ 32) * 2 ^ 96 + (d.type % 16) * 2 ^ 128 + (d.scaling % 4) * 64 * 2 ^ 136 + (d.scaleOff % 2 ^ 32) * 2 ^ 160
    + (d.rep % 2 ^ 32) * 2 ^ 192)

/-- A descriptor of a context's table; 0xFFF names none (R226). -/
def CtxImage.desc (x : CtxImage) (i : Nat) : Option Desc := if i = 0xFFF then none else (x.table[i]?).map DWord.desc

/-- Bits of one element of a type code (R228). -/
def typeBits (t : Nat) : Nat :=
  if t = 0 ∨ t = 8 ∨ t = 10 then 32 else if t = 1 ∨ t = 2 then 16
  else if t = 6 ∨ t = 7 then 4 else if t = 9 then 1 else 8

/-- The element type of a type code (R228); a binary element is taken as a whole number. -/
def typeElem (t : Nat) : Elem :=
  match t with
  | 0 => .fp32 | 1 => .bf16 | 2 => .fp16 | 3 => .e4m3 | 4 => .e5m2 | 5 => .int8 | 6 => .fp4 | 7 => .int4 | 8 => .int32
  | 10 => .token | _ => .u32

/-- Bytes of one row of a descriptor. -/
def Desc.rowBytes (d : Desc) : Nat := (d.cols * typeBits d.type + 7) / 8

/-- Scales of one row (R227): one E4M3 scale for each 32 elements, one FP32 scale, or none. -/
def Desc.scaleBytes (d : Desc) : Nat := if d.scaling = 1 then ceilDiv d.cols 32 else if d.scaling = 2 then 4 else 0

-- The program check of one instruction (R212, R226 to R230) ----------------------------------------------------------------------

/-- Where an operand may stand. -/
inductive Use where
  | unused | source | dest | anyDest
  deriving DecidableEq, Repr

/-- Whether a descriptor has a defined type and scaling, and rows and columns (R227, R228). -/
def Desc.ok (d : Desc) : Bool := decide (d.type ≤ 10) && decide (d.scaling ≤ 2) && decide (1 ≤ d.rows) && decide (1 ≤ d.cols)

/-- Whether an operand index fits its use (R226, R229): a descriptor of the table, of a defined type, in a space that the use
allows. -/
def CtxImage.uses (x : CtxImage) (i : Nat) (u : Use) : Bool :=
  match u with
  | .unused => i == 0xFFF
  | _ =>
    match x.desc i with
    | none => false
    | some d =>
      d.ok && (match u with
        | .dest => d.space == .store || d.space == .area
        | .anyDest => d.space != .tile
        | _ => true)

/-- Whether the four operands of an instruction fit. -/
def CtxImage.fits (x : CtxImage) (i : TInstr) (d a b c : Use) : Bool :=
  x.uses i.dst d && x.uses i.srcA a && x.uses i.srcB b && x.uses i.srcC c

/-- The type code of an operand; 11 where there is none. -/
def CtxImage.typeOf (x : CtxImage) (i : Nat) : Nat := match x.desc i with | some d => d.type | none => 11

/-- Integer type codes (R228). -/
def isIntType (t : Nat) : Bool := t == 5 || t == 7 || t == 8
/-- Floating-point type codes (R228). -/
def isFloatType (t : Nat) : Bool := decide (t ≤ 4) || t == 6

/-- MMUL: integer formats pair with integer formats, floating-point with floating-point, binary with binary (R212). -/
def CtxImage.okMmul (x : CtxImage) (i : TInstr) : Bool :=
  let ep := i.mode % 8
  let ta := x.typeOf i.srcA
  let tb := x.typeOf i.srcB
  x.fits i .dest .source .source (if ep = 3 ∨ ep = 4 ∨ ep = 5 then .source else .unused)
    && ((isIntType ta && isIntType tb) || (isFloatType ta && isFloatType tb) || (ta == 9 && tb == 9))
    && !(bitOf i.mode 3) && decide (ep ≤ 5) && decide (i.mode < 64) && i.barrier == 0

/-- SMAX of a mode. -/
def CtxImage.okSmax (x : CtxImage) (i : TInstr) (mode : Nat) : Bool :=
  x.fits i .dest (if mode = 0 then .dest else .source) .unused .unused && i.mode == mode && i.barrier == 0

/-- ROT. -/
def CtxImage.okRot (x : CtxImage) (i : TInstr) : Bool :=
  x.fits i .dest .source .unused .unused && decide (i.mode ≤ 1) && i.barrier == 0

/-- QNT. -/
def CtxImage.okQnt (x : CtxImage) (i : TInstr) : Bool :=
  x.fits i .dest .source .unused .unused && i.mode == 0 && i.barrier == 0

/-- DQNT: to FP32 or BF16. -/
def CtxImage.okDqnt (x : CtxImage) (i : TInstr) : Bool :=
  x.fits i .dest .source .unused .unused && i.mode == 0 && i.barrier == 0 && decide (x.typeOf i.dst ≤ 1)

/-- GATH or SCAT: B holds INT32 indexes. -/
def CtxImage.okGath (x : CtxImage) (i : TInstr) (dst : Use) : Bool :=
  x.fits i dst .source .source .unused && i.mode == 0 && i.barrier == 0 && x.typeOf i.srcB == 8

/-- MOVE. -/
def CtxImage.okMove (x : CtxImage) (i : TInstr) : Bool :=
  x.fits i .anyDest .source .unused .unused && i.mode == 0 && i.barrier == 0

/-- RED. -/
def CtxImage.okRed (x : CtxImage) (i : TInstr) : Bool :=
  x.fits i .dest .source .unused .unused && decide (i.mode < 8) && i.barrier == 0

/-- BCMP: binary rows of 256, 512 or 1,024 bits into INT32. -/
def CtxImage.okBcmp (x : CtxImage) (i : TInstr) : Bool :=
  let width := match x.desc i.srcA, x.desc i.srcB with
    | some a, some b => a.cols == b.cols && (a.cols == 256 || a.cols == 512 || a.cols == 1024)
    | _, _ => false
  x.fits i .dest .source .source .unused && i.mode == 0 && i.barrier == 0 && width
    && x.typeOf i.srcA == 9 && x.typeOf i.srcB == 9 && x.typeOf i.dst == 8

/-- TOPK: IMM from 1 to 1,024, column indices as INT32 in C. -/
def CtxImage.okTopk (x : CtxImage) (i : TInstr) : Bool :=
  x.fits i .dest .source .unused .dest && decide (i.mode ≤ 1) && i.barrier == 0
    && decide (1 ≤ i.imm.toNat) && decide (i.imm.toNat ≤ 1024) && x.typeOf i.srcC == 8

/-- Bytes that a core sends at a gather or a broadcast. -/
def CtxImage.sends (x : CtxImage) (i : TInstr) : Nat := match x.desc i.srcA with | some d => d.rows * d.rowBytes | none => 0

/-- BAR mode 0. -/
def CtxImage.okSync (x : CtxImage) (i : TInstr) : Bool :=
  x.fits i .unused .unused .unused .unused && i.mode == 0 && decide (i.barrier ≤ 15)

/-- BAR mode 1 or 2: at most 4 KiB of A. -/
def CtxImage.okExchange (x : CtxImage) (i : TInstr) (mode : Nat) : Bool :=
  x.fits i .dest .source .unused .unused && i.mode == mode && decide (i.barrier ≤ 15) && decide (x.sends i ≤ 4096)

-- The length of a repetition (R211, R224) -------------------------------------------------------------------------------------------

/-- Multiply-accumulates of the array in one core cycle for operands of two types; FP16 and FP32 run on the vector unit (R211, R212,
R215). -/
def macRate (ta tb : Nat) : Nat :=
  let one (t : Nat) : Nat :=
    if t = 0 ∨ t = 2 ∨ t = 8 ∨ t = 10 then 256 else if t = 1 then 32768 else if t = 6 ∨ t = 7 then 131072
    else if t = 9 then 65536 * 1024 else 65536
  Nat.min (one ta) (one tb)

/-- Core cycles that the operand sizes of one repetition imply (R211, R224): products at the array's rate, the vector unit's work at 256
elements and the mover's at 2,048 bytes in a cycle (DEDUCED, log entry 59). -/
def CtxImage.cycles (x : CtxImage) (op : Nat) (i : TInstr) : Nat :=
  match x.desc i.dst, x.desc i.srcA, x.desc i.srcB with
  | some d, some a, some b =>
    if op = 0x01 then
      ceilDiv (a.rows * a.cols * (if bitOf i.mode 5 then b.rows else b.cols)) (macRate a.type b.type)
    else if op = 0x0A then ceilDiv (a.rows * b.rows * a.cols) (65536 * 1024)
    else ceilDiv (d.rows * d.rowBytes) 2048
  | some d, some a, none =>
    if op = 0x09 then ceilDiv (Nat.max (d.rows * d.rowBytes) (a.rows * a.rowBytes)) 2048
    else if op = 0x0C then 0
    else ceilDiv (Nat.max (d.rows * d.cols) (a.rows * a.cols)) 256
  | _, _, _ => 0

/-- Whether an instruction passes the program check (R238): a defined opcode, MODE and types, descriptors of the table, a pairing of
R212, and a repetition within the bound of R224. -/
def CtxImage.okInstr (x : CtxImage) (w : TWord) : Bool :=
  let i := w.instr
  let fits := match w.op with
    | 0x01 => x.okMmul i
    | 0x02 => x.okSmax i i.mode && decide (i.mode ≤ 2)
    | 0x03 => x.okRot i
    | 0x04 => x.okQnt i
    | 0x05 => x.okDqnt i
    | 0x06 => x.okGath i .dest
    | 0x07 => x.okGath i .anyDest
    | 0x08 => x.okRed i
    | 0x09 => x.okMove i
    | 0x0A => x.okBcmp i
    | 0x0B => x.okTopk i
    | 0x0C => if i.mode = 0 then x.okSync i else x.okExchange i i.mode && decide (i.mode ≤ 2)
    | _ => false
  w.reservedZero && fits && decide (x.cycles w.op i ≤ 65536)

-- The program check of an image (R236 to R238) -----------------------------------------------------------------------------------------

/-- Instructions of program memory: 2 MiB (R210). -/
def progWords : Nat := 131072
/-- Instructions of the system programs: the first 256 KiB (R236). -/
def systemWords : Nat := 16384

/-- The first byte after the elements of a descriptor. -/
def Desc.reach (d : Desc) : Nat := d.off + (d.rows - 1) * d.stride + d.rowBytes
/-- The first byte after the scales of a descriptor; zero where it has none. -/
def Desc.scaleReach (d : Desc) : Nat := if d.scaling = 0 then 0 else d.scaleOff + d.rows * d.scaleBytes

/-- Whether bytes of a core's store, from a first to before a last one, lie in the work area of so many bytes or in the share. The work
area is the first part of a tile store (DESIGN CHOICE, log entry 60). -/
def CtxImage.inReach (x : CtxImage) (area first last : Nat) : Bool :=
  decide (last ≤ area) || (decide (x.shareBase * 2048 ≤ first) && decide (last ≤ (x.shareBase + x.share) * 2048))

/-- Whether the static addresses of a descriptor lie where its context may reach (R216, R238). -/
def CtxImage.okPlace (x : CtxImage) (area : Nat) (d : Desc) : Bool :=
  match d.space with
  | .store => x.inReach area d.off d.reach && (d.scaling == 0 || x.inReach area d.scaleOff d.scaleReach)
  | .region => decide (d.reach ≤ x.region) && decide (d.scaleReach ≤ x.region)
  | .area => decide (d.reach ≤ 4096) && decide (d.scaleReach ≤ 4096)
  | .tile => true

/-- Whether a placement image passes the program check (R237, R238). `area`: bytes of its partition's work area. -/
def CtxImage.progOk (x : CtxImage) (area : Nat) : Bool :=
  decide (x.entries.length ≤ 64) && decide (x.table.length ≤ 4095) && decide (16 * x.prog.length ≤ x.progShare)
    && (x.prog.isEmpty || decide (systemWords ≤ x.progBase)) && decide (x.progBase + x.prog.length ≤ progWords)
    && x.table.all (fun w => w.reservedZero && w.desc.ok && x.okPlace area w.desc)
    && x.prog.all x.okInstr

/-- The image of a context with the programs that it runs: main models and the system context run on system programs, whose descriptor
table and entry points come with the cores' firmware (R236); the others run on their own. -/
def CtxImage.withPrograms (x : CtxImage) (table : List DWord) (entries : List Nat) : CtxImage :=
  match x.kind with
  | .main => { x with table := table, entries := entries }
  | .system => { x with table := table, entries := entries }
  | _ => x

/-- The kinds of contexts whose programs an entry point is for (R237): 0 to 2 the fallback model's decode layer, prefill layer and
logits, 3 an expert, 4 and 5 search query and pointing; the others are free. System programs serve main models and the system
context. -/
def CtxKind.entry (k : CtxKind) (n : Nat) : Bool :=
  decide (n < 64) && (match k with
    | .main => true
    | .system => true
    | .fallback => decide (n ≤ 2) || decide (6 ≤ n)
    | .expert => n == 3 || decide (6 ≤ n)
    | .search => n == 4 || n == 5 || decide (6 ≤ n))

end Sys2Proof.Machine
end

