-- ==== Sys2Proof/Machine/Operands.lean ====
section
/-!
DEFINITION. The operand forms that commands share: partitions, handles, hints, and the order in which they are checked
(02_sessions.md R53, 10 R802, 20 R681).
-/

namespace Sys2Proof.Machine

open Sys2Proof

/-- Whether the plan in force gives a partition a core (R802); in an unconfigured start it gives none (R715). -/
def State.configured (s : State) (p : Nat) : Bool :=
  !s.boot.unconf && decide (p < 16) && s.fld Fld.SCH_PART_CORES_CORES p != 0

/-- The partition a submission acts for: a virtual function's own, else the PART field (R680, R681). -/
def State.subPart (s : State) (u : Sub) : Nat :=
  match s.partOfFn u.fn with
  | some p => p
  | none => u.part

/-- First slot of a partition's range (R79). -/
def State.slotBase (s : State) (p : Nat) : Nat := s.fld Fld.SES_PART_RANGE_BASE_4K p * 4096
/-- Slots of a partition's range (R79). -/
def State.slotCount (s : State) (p : Nat) : Nat := s.fld Fld.SES_PART_RANGE_COUNT_4K p * 4096

/-- Whether a slot lies in a partition's range. -/
def State.inRange (s : State) (p slot : Nat) : Bool :=
  decide (s.slotBase p ≤ slot) && decide (slot < s.slotBase p + s.slotCount p)

/-- The checks of R53 on a handle word, for a function of partition `own` (none: PF0 or a peer). -/
def State.checkHandle (s : State) (own : Option Nat) (w : Word64) : Option Status :=
  if handleReserved w then some .configBadHandle
  else if !s.configured (handlePart w) then some .configUnconfigured
  else if (match own with | some p => p != handlePart w | none => false) then some .securityForeignHandle
  else if !s.inRange (handlePart w) (handleSlot w) then some .securityForeignHandle
  else if (s.ses (handleSlot w)).state == .free || (s.ses (handleSlot w)).gen != handleGen w then
    some .stateLostStaleHandle
  else none

/-- The handle check of a submission. -/
def State.checkSub (s : State) (u : Sub) : Option Status := s.checkHandle (s.partOfFn u.fn) u.handle

/-- The slot a submission's handle names. -/
def Sub.slot (u : Sub) : Nat := handleSlot u.handle

/-- Expected idle of a hint, in seconds (R73). -/
def Hints.idleSeconds (h : Hints) : Nat := if h.idle = 0 then 0 else 2 ^ (h.idle - 1)

/-- Whether a context is a main model that the placement image of its partition names (R803). -/
def State.mainCtx (s : State) (p c : Nat) : Bool :=
  match s.ctx p c with
  | some x => x.img.kind == .main && x.state != .absent
  | none => false

/-- The composition that a partition's session may name: held, and not being removed (R596). -/
def State.compOf (s : State) (p id : Nat) : Option Comp :=
  (s.comps.map (·.2)).find? (fun c => c.id == id && c.part == p && !c.removing)

/-- Any held composition of an identifier that is not being removed. -/
def State.compHeld (s : State) (id : Nat) : Option Comp :=
  (s.comps.map (·.2)).find? (fun c => c.id == id && !c.removing)

/-- The enabled cores of a partition, ascending (R132). -/
def State.coresOf (s : State) (p : Nat) : List Nat :=
  (bitPositions (s.fld Fld.SCH_PART_CORES_CORES p) 16).filter (fun e => s.cores.has e)

/-- The home core of a tile column (R133). -/
def State.homeCore (s : State) (slot t : Nat) : Option Nat :=
  let x := s.ses slot
  let cs := s.coresOf x.part
  if cs.isEmpty then none
  else if t < x.pfxTiles then cs[(t + x.pfx) % cs.length]? else cs[(t + slot) % cs.length]?

/-- The lead core of a session (R135). -/
def State.leadCore (s : State) (slot : Nat) : Option Nat :=
  let cs := s.coresOf (s.ses slot).part
  if cs.isEmpty then none else cs[slot % cs.length]?

/-- A context's image with the programs that it runs (R236). -/
def State.progImage (s : State) (x : CtxImage) : CtxImage := x.withPrograms s.boot.fired.core.table s.boot.fired.core.entries

/-- A request of a context has completed: the count of R359 starts again. -/
def State.contextServed (s : State) (p c : Nat) : State := s.modCtx p c (fun x => { x with idleDowns := 0 })

/-- The partitions of the device, in ascending number. -/
def allParts : List Nat := List.range 16

end Sys2Proof.Machine
end

