-- ==== Sys2Proof/Machine/Frames.lean ====
section
/-!
DEFINITION. LPDDR6 frames and the mortar: allocation within a partition's ranges, references, release through ZEROING, and
mortar pages (03_tiles_and_mortar.md R97 to R115, 11_memory_tiers.md R380 to R384, R394).
-/

namespace Sys2Proof.Machine

open Sys2Proof

/-- Frames of a map in a range that satisfy a test. -/
def countIn (m : AMap Nat Frame) (first count : Nat) (f : Frame → Bool) : Nat :=
  (m.filter (fun kv => decide (first ≤ kv.1) && decide (kv.1 < first + count) && f kv.2)).length

/-- The first frame from a starting place on, round the range, that the map does not list. -/
def findFree {α : Type} (m : AMap Nat α) (first count start fuel : Nat) : Option Nat :=
  match fuel with
  | 0 => none
  | n + 1 =>
    if count = 0 then none
    else
      let f := first + start % count
      if m.has f then findFree m first count (start + 1) n else some f

/-- First tile frame of a partition (R380). -/
def State.tileFirst (s : State) (p : Nat) : Nat := s.fld Fld.MEM_PART_TILES_FIRST p
/-- Tile frames of a partition. -/
def State.tileCount (s : State) (p : Nat) : Nat := s.fld Fld.MEM_PART_TILES_COUNT p
/-- First mortar frame of a partition. -/
def State.morFirst (s : State) (p : Nat) : Nat := s.fld Fld.MEM_PART_MORTAR_FIRST p
/-- Mortar frames of a partition. -/
def State.morCount (s : State) (p : Nat) : Nat := s.fld Fld.MEM_PART_MORTAR_COUNT p

/-- Tile frames of a partition not FREE (R400 TILES_USED). -/
def State.tilesUsed (s : State) (p : Nat) : Nat := countIn s.tileFrames (s.tileFirst p) (s.tileCount p) (fun _ => true)
/-- Mortar frames of a partition not FREE (R400 MORTAR_USED). -/
def State.morUsed (s : State) (p : Nat) : Nat := countIn s.mortarFrames (s.morFirst p) (s.morCount p) (fun _ => true)
/-- Tile frames of a partition in ZEROING. -/
def State.tilesZeroing (s : State) (p : Nat) : Nat :=
  countIn s.tileFrames (s.tileFirst p) (s.tileCount p) (fun f => f.state == .zeroing)
/-- Mortar frames of a partition in ZEROING. -/
def State.morZeroing (s : State) (p : Nat) : Nat :=
  countIn s.mortarFrames (s.morFirst p) (s.morCount p) (fun f => f.state == .zeroing)

/-- What an allocation of frames meets (R383). -/
inductive Room where
  | fits | waits | refused
  deriving DecidableEq, Repr

/-- Whether a partition's ranges hold so many tile and mortar frames now, after ZEROING frames are cleared, or not. -/
def State.room (s : State) (p tiles mortars : Nat) : Room :=
  let ft := s.tileCount p - s.tilesUsed p
  let fm := s.morCount p - s.morUsed p
  if tiles ≤ ft ∧ mortars ≤ fm then .fits
  else if tiles ≤ ft + s.tilesZeroing p ∧ mortars ≤ fm + s.morZeroing p then .waits
  else .refused

/-- A ZEROING frame of a range, which the scrub engine clears for an allocation that waits (R383). -/
def findZeroing (m : AMap Nat Frame) (first count : Nat) : Option Nat :=
  (m.find? (fun kv => decide (first ≤ kv.1) && decide (kv.1 < first + count) && kv.2.state == .zeroing)).map (·.1)

/-- Allocates a tile frame of a partition. The specification names no choice among FREE frames (log entry 8). Inside device
work that is under way, a wait of R383 for a ZEROING frame ends within the command (log entry 13). -/
def State.allocTile (s : State) (p : Nat) (f : Frame) : Option (Nat × State) :=
  match findFree s.tileFrames (s.tileFirst p) (s.tileCount p) (Config.pick s.freeCtr) (s.tileFrames.length + 1) with
  | some n => some (n, { s with tileFrames := s.tileFrames.set n f, freeCtr := s.freeCtr + 1 })
  | none =>
    match findZeroing s.tileFrames (s.tileFirst p) (s.tileCount p) with
    | some n => some (n, { s with tileFrames := s.tileFrames.set n f }.bump Fld.MEM_ZERO_WAITS_COUNT p)
    | none => none

/-- Allocates a mortar frame of a partition. -/
def State.allocMor (s : State) (p : Nat) (f : Frame) : Option (Nat × State) :=
  match findFree s.mortarFrames (s.morFirst p) (s.morCount p) (Config.pick s.freeCtr) (s.mortarFrames.length + 1) with
  | some n => some (n, { s with mortarFrames := s.mortarFrames.set n f, freeCtr := s.freeCtr + 1 })
  | none =>
    match findZeroing s.mortarFrames (s.morFirst p) (s.morCount p) with
    | some n => some (n, { s with mortarFrames := s.mortarFrames.set n f }.bump Fld.MEM_ZERO_WAITS_COUNT p)
    | none => none

/-- Allocates so many tile frames, or none. -/
def State.allocTiles (s : State) (p : Nat) (f : Frame) (n : Nat) : Option (List Nat × State) :=
  match n with
  | 0 => some ([], s)
  | k + 1 =>
    match s.allocTile p f with
    | none => none
    | some (a, s1) =>
      match s1.allocTiles p f k with
      | none => none
      | some (as, s2) => some (a :: as, s2)

/-- Allocates so many mortar frames, or none. -/
def State.allocMors (s : State) (p : Nat) (f : Frame) (n : Nat) : Option (List Nat × State) :=
  match n with
  | 0 => some ([], s)
  | k + 1 =>
    match s.allocMor p f with
    | none => none
    | some (a, s1) =>
      match s1.allocMors p f k with
      | none => none
      | some (as, s2) => some (a :: as, s2)

/-- Releases a tile frame: it passes through ZEROING (R394) and holds no tile. -/
def State.freeTile (s : State) (n : Nat) : State :=
  match s.tileFrames.get? n with
  | none => s
  | some f => { s with tileFrames := s.tileFrames.set n ⟨f.owner, .zeroing, 0, 0, []⟩, tiles := s.tiles.erase (.frame n) }

/-- Releases a mortar frame (R394). -/
def State.freeMor (s : State) (n : Nat) : State :=
  match s.mortarFrames.get? n with
  | none => s
  | some f => { s with mortarFrames := s.mortarFrames.set n ⟨f.owner, .zeroing, 0, 0, []⟩ }

/-- Releases mortar frames. -/
def State.freeMors (s : State) (ns : List Nat) : State := ns.foldl (fun a n => a.freeMor n) s

/-- Releases tile frames. -/
def State.freeTiles (s : State) (ns : List Nat) : State := ns.foldl (fun a n => a.freeTile n) s

/-- Whether the prefix of a SHARED frame is still registered (R114): the entry of its BACKREF names it. A prefix that has taken the same
ID since then does not. -/
def State.prefixHolds (s : State) (n : Nat) (f : Frame) : Bool :=
  match s.prefixes.get? (f.owner, f.backref) with
  | some r => r.mortar.entries.any (fun kv => kv.2.tier == .lpddr && kv.2.frame == n)
  | none => false

/-- Drops one reference to a tile frame (R112 to R115, R733): a private frame is released, a shared one when its last
reference goes and its prefix is no longer registered, a poisoned one when its last counted reference goes, a pinned one
never. -/
def State.dropRef (s : State) (n : Nat) : State :=
  match s.tileFrames.get? n with
  | none => s
  | some f =>
    match f.state with
    | .free => s
    | .zeroing => s
    | .pinned => s
    | .priv => s.freeTile n
    | .shared =>
      let r := f.refcount - 1
      if r = 0 && !(s.prefixHolds n f) then s.freeTile n
      else { s with tileFrames := s.tileFrames.set n { f with refcount := r } }
    | .poisoned =>
      if f.refcount = 65535 then s
      else if f.refcount ≤ 1 then s.freeTile n
      else { s with tileFrames := s.tileFrames.set n { f with refcount := f.refcount - 1 } }

/-- Adds one reference to a shared tile frame; the one that brings it to 65,535 pins it (R113). -/
def State.addRef (s : State) (n : Nat) : State :=
  match s.tileFrames.get? n with
  | none => s
  | some f =>
    if f.state = .shared then
      let r := f.refcount + 1
      { s with tileFrames := s.tileFrames.set n { f with refcount := Nat.min r 65535,
                                                          state := if 65535 ≤ r then .pinned else .shared } }
    else s

-- Tile-store places (R117, R216) ----------------------------------------------------------------------------------------------

/-- 2 KiB units of a tile in the tile store: 16 KiB and 2 KiB (R96). -/
def tileUnits : Nat := 9

/-- The first free 18 KiB place of a context's share on a core, past its pinned region. -/
def State.storePlace (s : State) (p c e : Nat) : Option Nat :=
  match s.ctx p c with
  | none => none
  | some x =>
    let pin := ceilDiv x.img.pinned.length 2048
    let n := (x.img.share - pin) / tileUnits
    let base := x.img.shareBase + pin
    ((List.range n).map (fun k => base + tileUnits * k)).find? (fun o => !(s.tiles.has (.store e o)))

/-- Marks lines of a core's tile store as written since the last change of owner (R217). -/
def State.markFresh (s : State) (e first n : Nat) : State :=
  s.modCore e (fun c => { c with fresh := c.fresh ++ (List.range' first n).filter (fun l => !(c.fresh.contains l)) })

-- Poison of tiles (R371, R373, R731, R734) --------------------------------------------------------------------------------------------

/-- Lines of a tile: 256 B each, 64 of data and 8 beside them. -/
def tileLines : Nat := tileUnits * 8

/-- The lines of the tile at a place that carry poison: by the poison bits of a tile store's lines, or by those of the words of LPDDR6. -/
def State.poisonAt (s : State) (l : TileLoc) : List Nat :=
  match l with
  | .store e o =>
    match s.cores.get? e with
    | some c => (c.poison.filter (fun k => decide (o * 8 ≤ k) && decide (k < o * 8 + tileLines))).map (fun k => k - o * 8)
    | none => []
  | .frame n => match s.tileFrames.get? n with | some f => (f.poison.map (fun w => w / 32)).eraseDups | none => []
  | .quarry _ => []

/-- Sets the poison bits of lines of the tile at a place, and clears those of its other lines (R373, R731). -/
def State.setPoison (s : State) (l : TileLoc) (lines : List Nat) : State :=
  match l with
  | .store e o =>
    s.modCore e (fun c => { c with
      poison := c.poison.filter (fun k => !(decide (o * 8 ≤ k) && decide (k < o * 8 + tileLines))) ++ lines.map (fun k => o * 8 + k) })
  | .frame n =>
    { s with tileFrames := s.tileFrames.modify n (fun f => { f with poison := lines.flatMap (fun k => List.range' (32 * k) 32) }) }
  | .quarry _ => s

-- Addresses and self-refresh (R374, R379, R397) -------------------------------------------------------------------------------------------

/-- The sub-channel of a data address (R374). -/
def subChannel (a : Nat) : Nat :=
  let g := a / 256
  let n := g / 192
  let k := g % 192
  let h := (n * 0x9E3779B97F4A7C15 % 2 ^ 64) / 2 ^ 32
  48 * ((k % 4) ^^^ (h % 4)) + (k / 4 + h / 4) % 48

/-- An access to so many granules from an address on ends the self-refresh of their sub-channels (R397). -/
def State.wake (s : State) (a granules : Nat) : State :=
  if s.selfRefresh.isEmpty then s
  else
    let cs := (List.range granules).map (fun i => subChannel (a + 256 * i))
    { s with selfRefresh := s.selfRefresh.filter (fun c => !(cs.contains c)) }

/-- An access to a tile frame: its data and the side frame beside them (R379). -/
def State.wakeTile (s : State) (n : Nat) : State :=
  (s.wake (s.fld Fld.MEM_TILE_DATA_BASE_BASE_2M * 2 ^ 21 + n * 16384) 64).wake
    (s.fld Fld.MEM_TILE_SIDE_BASE_BASE_2M * 2 ^ 21 + n * 2048) 8

/-- An access to a mortar frame (R379). -/
def State.wakeMortar (s : State) (n : Nat) : State := s.wake (s.fld Fld.MEM_MORTAR_BASE_BASE_2M * 2 ^ 21 + n * 4096) 16

/-- An access to the tile that an entry names, where it lies in LPDDR6. -/
def State.wakeEntry (s : State) (e : MEntry) : State := if e.tier == .lpddr then s.wakeTile e.frame else s

/-- Puts a tile at a place: good data, which clears what poison lay there. -/
def State.putTile (s : State) (l : TileLoc) (t : Tile) : State :=
  let s := { s with tiles := s.tiles.set l t }
  match l with
  | .store e o => (s.markFresh e (o * 8) tileLines).setPoison l []
  | .frame n => (s.setPoison l []).wakeTile n
  | .quarry _ => s

/-- Puts at a place a tile whose lines come from those of another: their poison goes with them (R373, R731). -/
def State.copyTile (s : State) (from_ to_ : TileLoc) (t : Tile) : State := (s.putTile to_ t).setPoison to_ (s.poisonAt from_)

/-- A tile frame's record becomes POISONED; it keeps its REFCOUNT and names no owner any more (R103, R733). -/
def State.poisonFrame (s : State) (n : Nat) : State :=
  { s with tileFrames := s.tileFrames.modify n (fun f => { f with state := .poisoned, backref := 0 }) }

-- Owners of places (R105, R378) ----------------------------------------------------------------------------------------------------------

/-- Whether a place belongs to a partition: its core, or the range or record of its frame. -/
def State.ownPlace (s : State) (p : Nat) (l : TileLoc) : Bool :=
  match l with
  | .store e _ => (match s.cores.get? e with | some c => c.owner == some p | none => false)
  | .frame n =>
    (match s.tileFrames.get? n with
      | some f => f.owner == p
      | none => decide (s.tileFirst p ≤ n) && decide (n < s.tileFirst p + s.tileCount p))
  | .quarry _ => true

/-- The byte address of a place: of a frame's data in LPDDR6, or in its core's tile store. -/
def State.placeAddr (s : State) (l : TileLoc) : Nat :=
  match l with
  | .store _ o => o * 2048
  | .frame n => s.fld Fld.MEM_TILE_DATA_BASE_BASE_2M * 2 ^ 21 + n * 16384
  | .quarry _ => 0

-- Mortar (R97 to R100) -----------------------------------------------------------------------------------------------------------

/-- Number of (layer, head) pairs of a session's main context. -/
def State.pairsOf (s : State) (slot : Nat) : Nat :=
  let x := s.ses slot
  match s.ctx x.part x.main with
  | some c => c.img.pairs
  | none => 0

/-- Leaf pages that entries need and a mortar lacks. -/
def Mortar.newLeaves (m : Mortar) (es : List Nat) : List Nat :=
  ((es.map (fun e => e / 512)).eraseDups).filter (fun k => !(m.leaf.has k))

/-- Index pages that leaf pages need and a mortar lacks. -/
def Mortar.newIndexes (m : Mortar) (ks : List Nat) : List Nat :=
  ((ks.map (fun k => k / 512)).eraseDups).filter (fun k => !(m.index.has k))

/-- Mortar frames that new entries need (R98). -/
def Mortar.newPages (m : Mortar) (es : List Nat) : Nat :=
  (m.newLeaves es).length + (m.newIndexes (m.newLeaves es)).length

/-- Gives pages of a mortar frames of a partition. -/
def State.addPages (s : State) (p backref : Nat) (ks : List Nat) (pages : AMap Nat PagePtr) :
    Option (AMap Nat PagePtr × State) :=
  match ks with
  | [] => some (pages, s)
  | k :: r =>
    match s.allocMor p ⟨p, .priv, 0, backref, []⟩ with
    | none => none
    | some (n, s1) => s1.addPages p backref r (pages.set k ⟨false, n⟩)

/-- Allocates the leaf and index pages that new entries of a mortar need; none where the partition has no frame. -/
def State.growMortar (s : State) (p backref : Nat) (m : Mortar) (es : List Nat) : Option (Mortar × State) :=
  let ls := m.newLeaves es
  match s.addPages p backref (m.newIndexes ls) m.index with
  | none => none
  | some (ix, s1) =>
    match s1.addPages p backref ls m.leaf with
    | none => none
    | some (lf, s2) => some ({ m with index := ix, leaf := lf }, s2)

/-- The LPDDR6 frames of a mortar's index and leaf pages. -/
def Mortar.pageFrames (m : Mortar) : List Nat :=
  ((m.index ++ m.leaf).filter (fun kv => !kv.2.quarry)).map (fun kv => kv.2.frame)

/-- The quarry locators of a mortar's index and leaf pages. -/
def Mortar.pageLocators (m : Mortar) : List Nat :=
  ((m.index ++ m.leaf).filter (fun kv => kv.2.quarry)).map (fun kv => kv.2.frame)

/-- Tile column of an entry index. -/
def colOf (pairs e : Nat) : Nat := if pairs = 0 then 0 else e / pairs
/-- Pair of an entry index. -/
def pairOf (pairs e : Nat) : Nat := if pairs = 0 then 0 else e % pairs

/-- The entries of one pair, by column ascending. -/
def Mortar.ofPair (m : Mortar) (pairs j : Nat) : List (Nat × MEntry) :=
  sortBy (fun a b => decide (a.1 < b.1)) (m.entries.filter (fun kv => pairOf pairs kv.1 == j))

/-- The tile an entry names on this device. -/
def State.tileAt (s : State) (e : MEntry) : Option Tile :=
  match e.loc with
  | some l => s.tiles.get? l
  | none => none

/-- The last nonempty column of a pair with its entry. -/
def Mortar.lastOf (m : Mortar) (pairs j : Nat) : Option (Nat × MEntry) :=
  match (m.ofPair pairs j).getLast? with
  | some (e, x) => some (colOf pairs e, x)
  | none => none

/-- Remote-pull credits a partition holds: its TIER 4 entries (R384). -/
def State.credits (s : State) (p : Nat) : Nat :=
  s.sessions.foldl (fun a kv =>
    if kv.2.part == p && kv.2.state != .free then
      a + (kv.2.mortar.entries.filter (fun e => e.2.tier == .remote)).length else a) 0

/-- Mortar frames a log of so many entries takes (R168). -/
def logFramesFor (n : Nat) : Nat := ceilDiv n 1020

end Sys2Proof.Machine
end

