-- ==== Sys2Proof/Machine/Bonds.lean ====
section
/-!
DEFINITION. Bonds: opening, commit and abort (13_bonds_and_interrupted_work.md R443 to R459). A bond whose orders 1 to 7 lie
within one command is opened and committed by `bondOnce`; one that stays open across commands stands in `bonds`.
-/

namespace Sys2Proof.Machine

open Sys2Proof

/-- The slot number that stands for no session. -/
def noSlot : Nat := 4194304

/-- Bonds of a partition now open (R469 BND_STAT). -/
def State.openBonds (s : State) (p : Nat) : Nat := (s.bonds.filter (fun b => b.part == p)).length

/-- The open-bond limit of a partition (R457). -/
def State.bondLimit (s : State) (p : Nat) : Nat := zeroActsAs (s.fld Fld.BND_CFG_OPEN_LIMIT p) 1

/-- Whether a bond of a partition finds room under its limit (R457). -/
def State.bondRoom (s : State) (p : Nat) : Bool := decide (s.openBonds p < s.bondLimit p)

/-- Whether an open bond claims a session's directory entry (R447). A token-log persist takes its claim when it applies, since
it does not delay the next commit (R318, log entry 17). -/
def State.claimed (s : State) (slot : Nat) : Bool := s.bonds.any (fun b => b.slot == slot && b.kind != .persist)

/-- The next bond identifier of a partition (R456). -/
def State.nextBond (s : State) (p : Nat) : Nat := s.fld Fld.BND_NEXT_ID_ID p

/-- Takes a bond identifier and a journal sequence number (R454, R456). -/
def State.takeBond (s : State) (p : Nat) : State :=
  let id := s.nextBond p
  { s with nextSeq := s.nextSeq + 1 }.setFld Fld.BND_NEXT_ID_ID (if id = 2 ^ 32 - 1 then 1 else id + 1) p

/-- Counts a commit (R469, 23 event 0x70). -/
def State.countCommit (s : State) (p : Nat) : State :=
  (s.bump Fld.BND_COMMITS_COUNT p).count (PmcEv.ofPart 0x70 1 p .bg)

/-- A bond that opens and commits within one command. Where the partition is at its limit the wait of R457 ends within the
command too (log entry 13). -/
def State.bondOnce (s : State) (p : Nat) : State :=
  let s := if s.bondRoom p then s else s.bump Fld.BND_SLOT_WAITS_COUNT p
  (s.takeBond p).countCommit p

/-- A bond of its own for an update of a session's directory record that no other bond of the command writes (R69, R443 kind 8; log
entry 64). -/
def State.recordBond (s : State) (slot : Nat) : State := s.bondOnce (s.ses slot).part

/-- Opens a bond that stays open across commands; its movers append its action records as they stage (R445 orders 1 to 3). -/
def State.openBond (s : State) (p : Nat) (kind : BondKind) (slot : Nat) (o : Option Owner) (quarry : Bool)
    (arg : Nat := 0) : Nat × State :=
  let id := s.nextBond p
  let s := if s.bondRoom p then s else s.bump Fld.BND_SLOT_WAITS_COUNT p
  let b : Bond := { id := id, part := p, seq := s.nextSeq, kind := kind, slot := slot, fn := o.map (·.fn),
                    queue := (match o with | some w => w.sq.getD 0 | none => 0),
                    tag := (match o with | some w => w.tag | none => 0), quarry := quarry, actions := [], arg := arg }
  (id, { s.takeBond p with bonds := s.bonds ++ [b] })

/-- The open bond of an identifier. -/
def State.bondOf (s : State) (p id : Nat) : Option Bond := s.bonds.find? (fun b => b.part == p && b.id == id)

/-- An action on one target (R455). -/
def act (kind : ActKind) (target new : Nat) : ActRec := ⟨kind, false, false, 1, target, new⟩
/-- An action on a run of targets (R443, R455). -/
def actList (kind : ActKind) (fs : List Nat) : ActRec := ⟨kind, true, false, fs.length, fs.headD 0, 0⟩
/-- The update of a slot's directory record: 128 bytes at the start of the journal slot's tail (R69, R454, R455). -/
def actDirectory (slot : Nat) : ActRec := ⟨.directory, false, true, 1, 128 * slot, 0x840 + 128 * 2 ^ 16⟩

/-- The action records of an open bond as its movers have appended them (R445 order 3). -/
def State.stageActs (s : State) (p id : Nat) (l : List ActRec) : State :=
  { s with bonds := s.bonds.map (fun b => if b.part == p && b.id == id then { b with actions := l } else b) }

/-- Removes an open bond. -/
def State.closeBond (s : State) (p id : Nat) : State :=
  { s with bonds := s.bonds.filter (fun b => !(b.part == p && b.id == id)) }

/-- Commits an open bond (R445 orders 5 to 7). -/
def State.commitBond (s : State) (p id : Nat) : State := (s.closeBond p id).countCommit p

/-- Aborts an open bond (R449): the caller releases what it had staged. -/
def State.abortBond (s : State) (p id : Nat) : State := (s.closeBond p id).bump Fld.BND_ABORTS_COUNT p

/-- Writes the newest directory copy of a slot into the mirrored journal (R452). -/
def State.mirrorSes (s : State) (slot : Nat) : State :=
  { s with mirror := ⟨s.nextSeq, slot, (s.ses slot).part, s.ses slot⟩ :: s.mirror.filter (fun m => m.slot != slot) }

/-- One more bond of a command that committed, with the bytes it moved (R467). -/
def Tally.add (t : Tally) (id bytes : Nat) : Tally := ⟨t.bonds + 1, t.moved + bytes, id⟩

/-- Counts a committed bond of the session's request (R467). -/
def Req.tally (q : Req) (id bytes : Nat) : Req :=
  { q with bonds := q.bonds + 1, moved := q.moved + bytes, lastBond := id }

end Sys2Proof.Machine
end

