-- ==== Sys2Proof/Machine/Quarry.lean ====
section
/-!
DEFINITION. The quarry: physical pages and blocks, logical frames, staging, programs, trims, the governor
(12_quarry.md R405 to R441).
-/

namespace Sys2Proof.Machine

open Sys2Proof

-- Physical layout (R403 to R406) ----------------------------------------------------------------------------------------------

/-- The block of a PPA: the PPA without its page (R405). -/
def ppaBlock (ppa : Nat) : Nat := ppa / 2048
/-- The page of a PPA. -/
def ppaPage (ppa : Nat) : Nat := ppa % 2048
/-- The LUN of a block: channel, target and LUN (R405). -/
def blockLun (b : Nat) : Nat := b / 2 ^ 13

/-- Channels that carry targets (R701). -/
def NandGeom.channels (g : NandGeom) : Nat := (bitPositions g.mask 16).length

/-- Whether a block exists in a geometry (R403). -/
def NandGeom.has (g : NandGeom) (b : Nat) : Bool :=
  decide (b / 2 ^ 19 < 16) && bitOf g.mask (b / 2 ^ 19) && decide ((b / 2 ^ 15) % 16 < g.targets) && decide ((b / 2 ^ 13) % 4 < g.luns)
    && decide ((b / 2 ^ 11) % 4 < g.planes) && decide (b % 2 ^ 11 < g.blocks)

/-- Blocks of the device. -/
def NandGeom.total (g : NandGeom) : Nat := g.channels * g.targets * g.luns * g.planes * g.blocks
/-- Blocks of one LUN. -/
def NandGeom.perLun (g : NandGeom) : Nat := g.planes * g.blocks
/-- Data pages of a TLC block (R406). -/
def NandGeom.tlcData (g : NandGeom) : Nat := g.pages / 9 * 8
/-- Data pages of an SLC block. -/
def NandGeom.slcData (g : NandGeom) : Nat := g.pages / 3 / 9 * 8

/-- A block that has never been erased: free. -/
def Blk.fresh : Blk := ⟨0, 0, 0, .free, 0⟩

/-- The entry of a block (R414). -/
def Qry.blk (q : Qry) (b : Nat) : Blk := q.blocks.getD b Blk.fresh

/-- Whether a block is good: it exists and has not been retired or marked bad. -/
def Qry.good (q : Qry) (b : Nat) : Bool := q.geom.has b && !(q.badBlocks.contains b)

/-- Number of good blocks. -/
def Qry.goodCount (q : Qry) : Nat := q.geom.total - q.badBlocks.length

/-- Good blocks of a LUN. -/
def Qry.goodInLun (q : Qry) (lun : Nat) : Nat :=
  q.geom.perLun - (q.badBlocks.filter (fun b => blockLun b == lun)).length

/-- Blocks in use as SLC (R421). -/
def Qry.slcBlocks (q : Qry) : Nat :=
  (q.blocks.filter (fun kv => kv.2.state == .openSlc || kv.2.state == .closedSlc)).length

/-- Good blocks of a LUN that are not free. -/
def Qry.busyInLun (q : Qry) (lun : Nat) : Nat :=
  (q.blocks.filter (fun kv => blockLun kv.1 == lun && kv.2.state != .free && q.good kv.1)).length

/-- Free blocks of a LUN. -/
def Qry.freeInLun (q : Qry) (lun : Nat) : Nat := q.goodInLun lun - q.busyInLun lun

/-- Free blocks of the device. -/
def Qry.freeBlocks (q : Qry) : Nat :=
  q.goodCount - (q.blocks.filter (fun kv => kv.2.state != .free && q.good kv.1)).length

-- Encryption (R411) ------------------------------------------------------------------------------------------------------------

/-- Units that XTS encrypts (R411): the data and side frame of a tile frame, a quarter of a quarter frame. -/
inductive QUnit where
  | data (f : Nat) | side (f : Nat) | quarter (f u : Nat)
  deriving DecidableEq, Repr

/-- The logical frame of a unit. -/
def QUnit.frame (u : QUnit) : Nat :=
  match u with
  | .data f => f | .side f => f | .quarter f _ => f

/-- The tweak of a unit: it names the logical frame, so that a page moves as ciphertext. -/
def QUnit.tweak (u : QUnit) : Nat :=
  match u with
  | .data f => f | .side f => 2 ^ 40 + f | .quarter f k => 2 ^ 41 + 4 * f + k

/-- Bytes of a unit. -/
def QUnit.bytes (u : QUnit) : Nat :=
  match u with
  | .data _ => 16384 | .side _ => 2048 | .quarter _ _ => 4096

/-- A quarry key (R411, R632): that of a partition's key epoch, or the device quarry key of the map pages, the map journal, the root records
and the mirrored bond journal. -/
inductive QKey where
  | part (p epoch : Nat) | device
  deriving DecidableEq, Repr

/-- KEY_EPOCH of a partition (R636). -/
def State.epochOf (s : State) (p : Nat) : Nat := s.sec.epochs.getD p 1

/-- The key under which a unit was programmed (R411); none where its frame is not live. -/
def State.keyOf (s : State) (u : QUnit) : Option QKey := (s.qry.map.get? u.frame).map (fun e => QKey.part e.owner e.key)

/-- Whether a live frame was programmed under an earlier key than its owner's: no data comes of it (R411, R630). -/
def State.shut (s : State) (f : Nat) : Bool :=
  match s.qry.map.get? f with
  | some e => e.key != s.epochOf e.owner
  | none => false

/-- Whether no data comes of a frame: it is not live, its page is uncorrectable (R434), or its key is gone. -/
def State.unreadable (s : State) (f : Nat) : Bool :=
  match s.qry.map.get? f with
  | some e => e.bad || s.shut f
  | none => true

-- The map and the management area (R412 to R414) ---------------------------------------------------------------------------------

/-- The map page of a logical frame: 2,048 entries of 8 bytes (R413). -/
def mapPageOf (f : Nat) : Nat := f / 2048
/-- Where the management area begins in LPDDR6 (R379). -/
def mgmtBase : Nat := 768 * 2 ^ 20
/-- The address of a map page's PPA in the map directory (R413). -/
def dirAddr (page : Nat) : Nat := mgmtBase + 8 * page
/-- The address of a block's entry in the block table (R413). -/
def blockAddr (b : Nat) : Nat := mgmtBase + 2 ^ 26 + 8 * b
/-- Map pages that the map cache holds: 120 MiB of 16 KiB (R413). -/
def mapCachePages : Nat := 7680

/-- KIND codes of R412. -/
def QKind.code (k : QKind) : Nat :=
  match k with
  | .tile => 0 | .quarter => 1

/-- The 8-byte map entry of a live frame (R412). -/
def QMap.word (e : QMap) : Nat :=
  e.owner * 2 ^ 60 + e.kind.code * 2 ^ 58 + 2 ^ 57 + (if e.slc then 2 ^ 56 else 0) + e.ppa % 2 ^ 34

/-- STATE codes of R414. -/
def BlkState.code (b : BlkState) : Nat :=
  match b with
  | .free => 0 | .openSlc => 1 | .openTlc => 2 | .closedSlc => 3 | .closedTlc => 4 | .retired => 5 | .reserved => 6 | .erasing => 7

/-- The 8-byte block-table entry of a block (R414). -/
def Blk.word (b : Blk) : Nat :=
  (Nat.min b.erases 65535) * 2 ^ 48 + (b.valid % 4096) * 2 ^ 36 + (Nat.min b.reads (2 ^ 20 - 1)) * 2 ^ 16 + b.state.code * 2 ^ 12

/-- The bytes of a map page (R412, R413): an entry of eight zero bytes stands for a frame that is not live. -/
def Qry.pageBytes (q : Qry) (page : Nat) : List Byte :=
  ((List.range 2048).map (fun i => leBytes 8 (match q.map.get? (page * 2048 + i) with | some e => e.word | none => 0))).flatten

/-- Writes one map page back to a reserved block, under the device quarry key, and records the move by OP 4 (R413, R415, R419). Which page
of a reserved block takes it is not stated: a free value (log entry 68). -/
def Qry.writeBack (q : Qry) (page : Nat) : Qry :=
  let ppa := Config.freeValue 80 q.seq
  { q with dir := q.dir.set page ppa, dirty := q.dirty.filter (fun k => k != page), seq := q.seq + 1,
           journal := ⟨0, 0, .mapPage, page, ppa, q.dir.getD page 0⟩ :: q.journal }

/-- Brings a map page into the map cache (R413): where the cache is full, a page of an open choice leaves it, written back where it has
changed (log entry 68). -/
def Qry.cachePage (q : Qry) (page : Nat) : Qry :=
  if q.cached.contains page then q
  else if q.cached.length < mapCachePages then { q with cached := q.cached ++ [page] }
  else
    let out := nthD q.cached (Config.pick q.seq % mapCachePages) 0
    let q1 := if q.dirty.contains out then q.writeBack out else q
    { q1 with cached := (q1.cached.filter (fun k => k != out)) ++ [page] }

/-- A change of a frame's map entry: its map page is in the cache, and dirty (R413). -/
def Qry.touchMap (q : Qry) (f : Nat) : Qry :=
  let q1 := q.cachePage (mapPageOf f)
  { q1 with dirty := if q1.dirty.contains (mapPageOf f) then q1.dirty else q1.dirty ++ [mapPageOf f] }

-- Logical space (R409, R417, R421) -----------------------------------------------------------------------------------------------

/-- Live and staged logical frames. -/
def Qry.inUse (q : Qry) : Nat := q.map.length + q.staged.length

/-- Live and staged frames of a partition (R441 QRY_LIVE). -/
def Qry.liveOf (q : Qry) (p : Nat) : Nat :=
  (q.map.filter (fun kv => kv.2.owner == p)).length + (q.staged.filter (fun kv => kv.2.owner == p)).length

/-- Whether the logical space is full: it is full, read-only or not mounted (R75, R800). -/
def Qry.full (q : Qry) (frames : Nat) : Bool :=
  !q.mounted || q.readOnly || decide (q.user < q.inUse + frames)

/-- A partition's quarry quota in frames (R382). -/
def State.qryQuota (s : State) (p : Nat) : Nat := s.fld Fld.MEM_PART_QUOTA_QRY_64K p * 65536

/-- Whether a partition's quota holds so many frames more (R176, R417). -/
def State.qryRoom (s : State) (p frames : Nat) : Bool := decide (s.qry.liveOf p + frames ≤ s.qryQuota p)

/-- The most blocks that may run in SLC mode: 0.20 − 0.19 × f of the good blocks (R421). -/
def Qry.slcLimit (q : Qry) : Nat :=
  if q.user = 0 then 0 else q.goodCount * (20 * q.user - 19 * q.map.length) / (100 * q.user)

/-- Whether the next block opened for a stream of parks, logs and shards runs in SLC mode (R422). -/
def Qry.opensSlc (q : Qry) : Bool := decide (q.slcBlocks < q.slcLimit)

/-- A free logical frame: neither live nor staged. The specification names no choice (log entry 8). -/
def findQuarry (q : Qry) (start fuel : Nat) : Option Nat :=
  match fuel with
  | 0 => none
  | n + 1 =>
    if q.user = 0 then none
    else
      let f := start % q.user
      if q.map.has f || q.staged.has f then findQuarry q (start + 1) n else some f

/-- Stages one logical frame for a bond (R417). -/
def State.qStage (s : State) (p : Nat) (kind : QKind) (bond : Nat) : Option (Nat × State) :=
  match findQuarry s.qry (Config.pick s.freeCtr) (s.qry.map.length + s.qry.staged.length + 1) with
  | none => none
  | some f =>
    let q := { s.qry with staged := s.qry.staged.set f ⟨p, kind, bond, none⟩ }
    some (f, { s with qry := q, freeCtr := s.freeCtr + 1 })

/-- Stages so many logical frames, or none. -/
def State.qStages (s : State) (p : Nat) (kind : QKind) (bond n : Nat) : Option (List Nat × State) :=
  match n with
  | 0 => some ([], s)
  | k + 1 =>
    match s.qStage p kind bond with
    | none => none
    | some (f, s1) =>
      match s1.qStages p kind bond k with
      | none => none
      | some (fs, s2) => some (f :: fs, s2)

/-- U_p of a partition (R435). -/
def State.govUsed (s : State) (p : Nat) : Nat := s.qry.used.getD p 0
/-- B_p of a partition (R435). -/
def State.govBudget (s : State) (p : Nat) : Nat := s.qry.budget.getD p 0

/-- Charges bytes to a partition at staging (R435). -/
def State.govCharge (s : State) (p bytes : Nat) : State :=
  { s with qry := { s.qry with used := s.qry.used.set p (s.govUsed p + bytes), logBytes := s.qry.logBytes + bytes } }

/-- Whether the governor takes so many more bytes (R436). -/
def State.govTakes (s : State) (p bytes : Nat) : Bool :=
  s.fld Fld.QRY_CFG_GOV_ENABLE == 0 || decide (s.govUsed p + bytes ≤ s.govBudget p)

/-- TIGHTEN_PCT as it acts (R441). -/
def State.tightenPct (s : State) : Nat := Nat.min 99 (s.fld Fld.QRY_CFG_TIGHTEN_PCT)

/-- The effective dressing budget B' (R437). -/
def State.effBudget (s : State) (p a w b : Nat) : Nat :=
  let bp := s.govBudget p
  let up := s.govUsed p
  let t := s.tightenPct
  if s.fld Fld.QRY_CFG_GOV_ENABLE == 0 || up * 100 ≤ bp * t then b
  else
    let x := if bp = 0 then 0 else b * (bp - up) * 100 / (bp * (100 - t))
    Nat.min b (Nat.max (a + w) (Nat.max 256 x))

-- Blocks and programs (R414, R422 to R428) -----------------------------------------------------------------------------------------

/-- Changes a block's entry. -/
def Qry.modBlk (q : Qry) (b : Nat) (f : Blk → Blk) : Qry := { q with blocks := q.blocks.set b (f (q.blk b)) }

/-- Writes a map journal record (R415), before the map page that it changes. -/
def Qry.log (q : Qry) (r : QRec) : Qry :=
  let q := match r.op with
    | .map => q.touchMap r.target
    | .trim => q.touchMap r.target
    | .relocate => q.touchMap r.target
    | _ => q
  let old := q.ids.getD r.part 0
  let ids := if r.bond = 0 || (decide (r.bond ≤ old) && decide (old < r.bond + 2 ^ 31)) then q.ids else q.ids.set r.part r.bond
  { q with journal := r :: q.journal, ids := ids }

/-- Blocks that a LUN can hold. -/
def lunBlocks (lun : Nat) : List Nat := List.range' (lun * 2 ^ 13) (2 ^ 13)

/-- Whether a block is the free block of its LUN with the lowest ERASES, then the lowest PPA (R426). -/
def Qry.isNextBlock (q : Qry) (b : Nat) : Bool :=
  q.good b && (q.blk b).state == .free
    && (lunBlocks (blockLun b)).all (fun c => !(q.good c && (q.blk c).state == .free)
        || decide ((q.blk b).erases < (q.blk c).erases)
        || (decide ((q.blk b).erases = (q.blk c).erases) && decide (b ≤ c)))

/-- Pages of a block in its mode that a write uses: whole benches (R406). -/
def Qry.benchPages (q : Qry) (slc : Bool) : Nat := (if slc then q.geom.pages / 3 else q.geom.pages) / 9 * 9

/-- Whether a block's state is an SLC mode. -/
def BlkState.isSlc (b : BlkState) : Bool := b == .openSlc || b == .closedSlc

/-- Whether a data page may be programmed next (R406, R426): the next page of an open block, or the first page of the block
that R426 opens. -/
def Qry.mayProgram (q : Qry) (ppa : Nat) : Bool :=
  let b := ppaBlock ppa
  let x := q.blk b
  match x.state with
  | .openSlc => x.next == ppaPage ppa
  | .openTlc => x.next == ppaPage ppa
  | .free => ppaPage ppa == 0 && q.isNextBlock b
  | _ => false

/-- The page that follows a data page: past the side page at the end of a bench (R406). -/
def nextPage (pg : Nat) : Nat := if pg % 9 = 7 then pg + 2 else pg + 1

/-- The metadata that a data page of a frame gets, and the side page at the end of its bench (R407). Which partition a side page names where its
data pages are of several is not stated: a free value (log entry 70). -/
def Qry.metaOf (q : Qry) (frame ppa n : Nat) : AMap Nat PageMeta :=
  let who : Nat × QKind := match q.map.get? frame, q.staged.get? frame with
    | some e, _ => (e.owner, e.kind)
    | none, some x => (x.owner, x.kind)
    | none, none => (0, .tile)
  let data := q.metas.set ppa ⟨who.1, 2 * who.2.code, frame, q.seq + 1⟩
  if n = 2 then data.set (ppa + 1) ⟨Config.freeValue 82 q.seq % 16, 1, 0, q.seq + 2⟩ else data

/-- A program of a data page of a logical frame: opens the block where it is free, counts pages, closes it at its end. The
side page is programmed with the last data page of a bench. -/
def State.programPage (s : State) (frame ppa : Nat) (slc : Bool) : State :=
  let b := ppaBlock ppa
  let pg := ppaPage ppa
  let x := s.qry.blk b
  let slc := if x.state == .free then slc else x.state.isSlc
  let nx := nextPage pg
  let st := if s.qry.benchPages slc ≤ nx then (if slc then BlkState.closedSlc else .closedTlc)
            else (if slc then .openSlc else .openTlc)
  let n := if pg % 9 = 7 then 2 else 1
  let q := s.qry.modBlk b (fun x => { x with state := st, next := nx })
  let q := { q with pages := q.pages.set ppa frame, metas := q.metaOf frame ppa n, seq := q.seq + n, nandBytes := q.nandBytes + 16384 * n }
  { s with qry := q }.count (PmcEv.ofDevice 0x41 n)

/-- Pages that the NAND programs besides data pages: dummy and mirror pages. -/
def State.otherPages (s : State) (n : Nat) : State :=
  { s with qry := { s.qry with seq := s.qry.seq + n, nandBytes := s.qry.nandBytes + 16384 * n } }.count (PmcEv.ofDevice 0x41 n)

/-- Pages of a wordline set of a TLC block: three, of which SLC mode keeps one (R403, R418; DEDUCED, log entry 67). -/
def setPages : Nat := 3

/-- Pads the wordline set of a page with dummy data where it is incomplete in an open TLC block (R418). -/
def State.padSet (s : State) (ppa : Nat) : State :=
  let b := ppaBlock ppa
  let x := s.qry.blk b
  if x.state == .openTlc && x.next % setPages != 0 && x.next / setPages == ppaPage ppa / setPages then
    let nx := (x.next / setPages + 1) * setPages
    let st := if s.qry.benchPages false ≤ nx then BlkState.closedTlc else .openTlc
    { s with qry := s.qry.modBlk b (fun y => { y with state := st, next := nx }) }.otherPages (nx - x.next)
  else s

/-- Whether a block holds the page of a map entry in SLC mode. -/
def Qry.slcOf (q : Qry) (ppa : Nat) : Bool := (q.blk (ppaBlock ppa)).state.isSlc

/-- Makes a staged frame live (R416): map entry, journal record, VALID of its block. -/
def State.qMap (s : State) (f : Nat) : State :=
  match s.qry.staged.get? f with
  | none => s
  | some x =>
    match x.ppa with
    | none => s
    | some ppa =>
      let e : QMap := ⟨x.owner, x.kind, s.qry.slcOf ppa, ppa, false, false, s.epochOf x.owner⟩
      let q := { s.qry with map := s.qry.map.set f e, staged := s.qry.staged.erase f }
      let q := q.modBlk (ppaBlock ppa) (fun b => { b with valid := b.valid + 1 })
      { s with qry := q.log ⟨x.bond, x.owner, .map, f, ppa, 0⟩ }

/-- Gives a staged frame back (R417): its pages become invalid without a journal record. -/
def State.qUnstage (s : State) (f : Nat) : State :=
  { s with qry := { s.qry with staged := s.qry.staged.erase f }, tiles := s.tiles.erase (.quarry f) }

/-- Trims a live frame (R415 OP 2). -/
def State.qTrim (s : State) (bond f : Nat) : State :=
  match s.qry.map.get? f with
  | none => s
  | some e =>
    let q := { s.qry with map := s.qry.map.erase f }
    let q := q.modBlk (ppaBlock e.ppa) (fun b => { b with valid := b.valid - 1 })
    { s with qry := q.log ⟨bond, e.owner, .trim, f, 0, e.ppa⟩, tiles := s.tiles.erase (.quarry f) }

/-- Trims live frames. -/
def State.qTrims (s : State) (bond : Nat) (fs : List Nat) : State := fs.foldl (fun a f => a.qTrim bond f) s

/-- Counts a page read: READS of the block, the performance event, and the data page's relocation mark (R408, R431, R432). -/
def State.qRead (s : State) (f : Nat) (o : ReadOutcome) : State :=
  match s.qry.map.get? f with
  | none => s
  | some e =>
    let q := (s.qry.cachePage (mapPageOf f)).modBlk (ppaBlock e.ppa) (fun b => { b with reads := Nat.min (b.reads + 1) (2 ^ 20 - 1) })
    let e' := match o with
      | .retry k => if 3 ≤ k then { e with marked := true } else e
      | .soft => { e with marked := true }
      | .bad => { e with bad := true }
      | .hard => e
    let q := { q with map := q.map.set f e' }
    let s := { s with qry := q }.count (PmcEv.ofPart 0x40 1 e.owner .bg)
    match o with
    | .hard => s
    | .bad => s.bump Fld.QRY_UC_COUNT
    | _ => s.bump Fld.QRY_CE_COUNT

/-- Retires a block (R427 to R429): the bad-block list, the journal, and the read-only threshold. -/
def State.qRetire (s : State) (b : Nat) : State :=
  let q := s.qry.modBlk b (fun x => { x with state := .retired })
  let q := { q with badBlocks := if q.badBlocks.contains b then q.badBlocks else q.badBlocks ++ [b] }
  let q := q.log ⟨0, 0, .retire, b, 0, 0⟩
  let cap := q.goodCount * q.geom.pages * 16384
  let need := q.user * 16384 * 9 / 8
  let ro := q.readOnly || decide ((cap - need) * 100 < cap * s.fld Fld.QRY_CFG_RO_PCT)
  { s with qry := { q with readOnly := ro } }

/-- Bytes of a tile frame as the governor counts them: 18 KiB (R435). -/
def tileBytes : Nat := 18432

end Sys2Proof.Machine
end

