-- ==== Sys2Proof/Machine/Errors.lean ====
section
/-!
DEFINITION. Error records and rings (22_errors.md R728, R735 to R744). What an error ends is in Faults.lean.
-/

namespace Sys2Proof.Machine

open Sys2Proof

/-- A fault as the recorder takes it. -/
structure ErrIn where
  cls      : ErrClass
  source   : Nat
  part     : Option Nat
  ctx      : Nat := 0x3F
  status   : Status := 0
  location : Nat := 0
  handle   : Word64 := 0
  detail   : Nat := 0
  deriving DecidableEq, Repr

/-- Whether two faults hit one resource (R740): the granule or line of sources 1 and 3, else the place that LOCATION and
CONTEXT name. -/
def sameResource (r : Recovery) (f : ErrIn) : Bool :=
  r.source == f.source && (if f.source == 1 || f.source == 3 then r.location / 256 == f.location / 256
                           else r.location == f.location && r.ctx == f.ctx)

/-- Whether a fault is nested under a recovery that runs (R739). -/
def nestsUnder (r : Recovery) (f : ErrIn) : Bool :=
  match r.cls with
  | .ce => sameResource r f
  | .df => false
  | _ => r.part == f.part

/-- Orders classes by their code. -/
def ErrClass.ge (a b : ErrClass) : Bool := decide (b.code ≤ a.code)

/-- Adds a record to a ring of a given size, newest first (R737): a full ring loses its oldest CE record, or its oldest
record; answers whether it lost one. -/
def ringAdd (size : Nat) (ring : List ErrRec) (r : ErrRec) : List ErrRec × Bool :=
  if ring.length < size then (r :: ring, false)
  else
    match ring.reverse.find? (fun x => x.cls == .ce) with
    | some old => (r :: ring.filter (fun x => x.seq != old.seq), true)
    | none => (r :: ring.dropLast, true)

/-- Whether a CE coalesces with the newest CE record of the device ring (R737). -/
def State.coalesces (s : State) (f : ErrIn) : Option ErrRec :=
  if f.cls != .ce then none
  else
    match s.err.ring.find? (fun x => x.cls == .ce) with
    | some r =>
      if r.source == f.source && r.location == f.location && decide ((s.aon + 2 ^ 64 - r.stampLast) % 2 ^ 64 < 2 ^ 25)
      then some r else none
    | none => none

/-- Rewrites a record where a ring holds it. -/
def ringUpdate (ring : List ErrRec) (r : ErrRec) : List ErrRec := ring.map (fun x => if x.seq = r.seq then r else x)

/-- Signals a new record of class UC or above (R744). -/
def State.errNotify (s : State) (part : Option Nat) : State :=
  let s1 := match part with
    | none => s
    | some p =>
      if s.flag Fld.ERR_NOTIFY_ENABLE p then
        match s.fnOfPart p with
        | some f => s.signal f (s.fld Fld.ERR_NOTIFY_VECTOR p)
        | none => s
      else s
  if s.flag Fld.ERR_NOTIFY_DEV_ENABLE then s1.signalPf (s.fld Fld.ERR_NOTIFY_DEV_VECTOR) else s1

/-- Counts an error of a partition (R742 ERR_CE, ERR_UC, ERR_NESTED). -/
def State.errCount (s : State) (part : Option Nat) (cls : ErrClass) (nested : Bool) : State :=
  match part with
  | none => s
  | some p =>
    let s := match cls with
      | .ce => s.bump Fld.ERR_CE_COUNT p
      | .uc => s.bump Fld.ERR_UC_COUNT p
      | _ => s
    if nested then s.bump Fld.ERR_NESTED_COUNT p else s

/-- One more occurrence in a coalesced record (R737). -/
def State.errAgain (s : State) (r : ErrRec) : State :=
  let r' := { r with count := (r.count + 1) % 2 ^ 32, stampLast := s.aon }
  let parts := match r.part with
    | some p => s.err.parts.set p (ringUpdate (s.err.parts.getD p []) r')
    | none => s.err.parts
  { s with err := { s.err with ring := ringUpdate s.err.ring r', parts := parts } }

/-- The next SEQ of the device ring (R735). -/
def Err.nextSeq (e : Err) : Nat := if e.next + 1 = 2 ^ 32 then 1 else e.next + 1

/-- The record of a fault (R735): its SEQ, its class as raised, and its parent among the recoveries that run. -/
def ErrIn.record (f : ErrIn) (seq : Nat) (cls : ErrClass) (parent : Option Recovery) (raised : Bool) (depth now : Nat) : ErrRec :=
  { seq := seq, cls := cls, source := f.source, nested := parent.isSome, raised := raised, dumped := false, depth := Nat.min depth 2,
    parent := (match parent with | some x => x.seq | none => 0), part := f.part, ctx := f.ctx, status := f.status,
    location := f.location, handle := f.handle, detail := f.detail, count := 1, stamp := now, stampLast := now }

/-- Writes a record into the device ring and its partition's ring (R736, R737); its recovery runs from then on. -/
def State.errAdd (s : State) (r : ErrRec) : State :=
  let dev := ringAdd 4096 s.err.ring r
  let e := { s.err with ring := dev.1, next := r.seq, lost := Nat.min 65535 (s.err.lost + (if dev.2 then 1 else 0)) }
  let e := match r.part with
    | none => e
    | some p =>
      let pr := ringAdd 256 (e.parts.getD p []) r
      { e with parts := e.parts.set p pr.1,
               partLost := e.partLost.set p (Nat.min 65535 (e.partLost.getD p 0 + (if pr.2 then 1 else 0))) }
  { s with err := { e with open_ := ⟨r.seq, r.cls, r.depth, r.part, r.ctx, r.location, r.source⟩ :: e.open_ } }

/-- Detects a fault (R728, R735 to R741): finds its parent among the recoveries that run, raises its class where it hits the
parent's resource, takes a third level of nesting as device-fatal, and writes or coalesces its record. Answers the class as
recorded. -/
def State.detect (s : State) (f : ErrIn) : ErrClass × State :=
  let s := s.tick
  let parent := leastBy (fun (a b : Recovery) => decide (b.seq < a.seq)) (s.err.open_.filter (fun r => nestsUnder r f))
  let nested := parent.isSome
  let depth := match parent with | some r => r.depth + 1 | none => 0
  let hit := match parent with | some r => sameResource r f | none => false
  let cls := if 2 ≤ depth then ErrClass.df else if hit then f.cls.raise else f.cls
  match (if nested then none else s.coalesces { f with cls := cls }) with
  | some r => (cls, (s.errAgain r).errCount f.part cls nested)
  | none =>
    let s := (s.errAdd (f.record s.err.nextSeq cls parent hit depth s.aon)).errCount f.part cls nested
    (cls, if cls.ge .uc then s.errNotify f.part else s)

/-- Keeps only the recoveries that still run when a fault is detected (R728, R739). Log entry 14. -/
def State.recoveries (s : State) (running : List Nat) : State :=
  { s with err := { s.err with open_ := s.err.open_.filter (fun r => running.contains r.seq) } }

/-- A foreign access (R105, R378): it returns no data, and is a UC record of the reading partition, source 11, with the handle of the session
that reads where one does. -/
def State.foreign (s : State) (p : Nat) (addr : Nat) (slot : Option Nat) : State :=
  ((s.recoveries []).detect { cls := .uc, source := 11, part := some p, status := .securityForeignFrame, location := addr,
                              handle := match slot with | some n => s.handleOf n | none => 0 }).2

/-- A read that meets poison bits (R372, R731): a UC record of the reading partition. `source` is 1 for LPDDR6 and 3 for a tile store. -/
def State.propagated (s : State) (p source addr detail : Nat) (status : Status) (slot : Option Nat) : State :=
  ((s.recoveries []).detect { cls := .uc, source := source, part := some p, status := status, location := addr, detail := detail,
                              handle := match slot with | some n => s.handleOf n | none => 0 }).2

end Sys2Proof.Machine
end

