-- ==== Sys2Proof/Machine/Session.lean ====
section
/-!
DEFINITION. Sessions: the directory, creation, closing, query and host data (02_sessions.md R51 to R72, R801, R803), and the
prefix registry (03_tiles_and_mortar.md R106 to R115).
-/

namespace Sys2Proof.Machine

open Sys2Proof

/-- Whether an entry names a poisoned frame (R140, R733). -/
def State.poisonedEntry (s : State) (e : MEntry) : Bool :=
  e.tier == .lpddr && (match s.tileFrames.get? e.frame with | some f => f.state == .poisoned | none => false)

/-- Whether the tile that an entry names carries poison: its frame is POISONED, or a poison bit of its words or lines is set (R371, R731,
R734). -/
def State.poisonedData (s : State) (e : MEntry) : Bool :=
  s.poisonedEntry e || (match e.loc with | some l => !(s.poisonAt l).isEmpty | none => false)

/-- The STATUS word of R71. -/
def State.statusWord (s : State) (slot : Nat) : Nat :=
  let x := s.ses slot
  let onFb := match s.req slot with | some q => q.onFallback | none => false
  let b (v : Bool) (n : Nat) := if v then 2 ^ n else 0
  (x.part % 16) * 2 ^ 60 + x.state.code * 2 ^ 56 + x.op.code * 2 ^ 53 + b x.retired 52 + b onFb 51 + b x.dressed 50
    + b (x.poisoned || x.mortar.entries.any (fun kv => s.poisonedEntry kv.2)) 49 + b (!x.waiting.isEmpty) 48 + (x.gen % 65536) * 2 ^ 32

/-- GRAMMAR of a directory record (R70, R289): STATE, DEPTH and the place of the stack in the grammar frame, in units of 8 bytes; zero
without a grammar frame. -/
def Session.grammarWord (x : Session) : Nat :=
  match x.grammar with
  | none => 0
  | some g => (g.state % 2 ^ 20) * 2 ^ 44 + (g.stack.length % 2 ^ 11) * 2 ^ 33 + (g.frame * 4096 + 0x240) / 8 % 2 ^ 33

/-- The directory record of a slot: its sixteen 64-bit words (R70). -/
def State.recordWords (s : State) (slot : Nat) : List Nat :=
  let x := s.ses slot
  [ s.statusWord slot,
    x.mortar.root % 2 ^ 40,
    (x.pfx % 2 ^ 16) * 2 ^ 37 + (x.pfxTiles % 2 ^ 16) * 2 ^ 21 + x.nextPos % 2 ^ 21,
    (x.log.length % 2 ^ 24) * 2 ^ 40 + (x.logFrames.headD 0) % 2 ^ 40,
    ((x.perFrames.headD 0) * 4 % 2 ^ 40) * 2 ^ 24 + x.perLog.length % 2 ^ 24,
    x.grammarWord,
    (x.epoch % 2 ^ 32) * 2 ^ 32 + (x.comp % 2 ^ 16) * 2 ^ 16 + (x.main % 2 ^ 6) * 2 ^ 10 + (x.fallback % 2 ^ 6) * 2 ^ 4,
    (x.hints.idle % 2 ^ 8) * 2 ^ 8 + (x.hints.profile % 2 ^ 4) * 2 ^ 4 + x.hints.retention % 4,
    x.lastStatus.toNat * 2 ^ 48 + (x.lastTag % 2 ^ 16) * 2 ^ 32 + x.lastTokens % 2 ^ 32,
    x.lastUse % 2 ^ 64,
    x.ckpStep % 2 ^ 64,
    (x.movePeer % 2 ^ 10) * 2 ^ 32 + x.moveEpoch % 2 ^ 32,
    x.hostData.toNat % 2 ^ 64, x.hostData.toNat / 2 ^ 64, 0, 0 ]

/-- The bytes of log frame `i` of a session (R168): NEXT, REQ_COUNT in the first frame, FIRST_INDEX, then 1,020 entries. -/
def Session.logFrame (x : Session) (i : Nat) : List Byte :=
  let next := match x.logFrames[i + 1]? with | some n => 2 ^ 63 + n % 2 ^ 40 | none => 0
  let es := (x.log.drop (1020 * i)).take 1020
  leBytes 8 next ++ leBytes 4 (if i = 0 then x.reqCount else 0) ++ leBytes 4 (1020 * i)
    ++ es.flatMap (fun e => leBytes 4 e.word) ++ List.replicate (4080 - 4 * es.length) 0

/-- Writes LAST_USE at the end of a command (R70). -/
def State.touch (s : State) (slot : Nat) : State :=
  let s := s.tick
  s.modSes slot (fun x => { x with lastUse := s.aon })

/-- Whether a session has a command in progress, or one whose completion waits for room (R37, R679). -/
def State.busy (s : State) (slot : Nat) : Bool := (s.ses slot).op != .none || s.endWaits slot

/-- Quarry frames that hold mortar pages, from their locators (R410). -/
def locFrames (ls : List Nat) : List Nat := (ls.map (fun l => l / 4)).eraseDups

/-- Releases what a mortar entry names (R115). -/
def State.dropEntry (s : State) (bond : Nat) (e : MEntry) : State :=
  match e.tier with
  | .store => { s with tiles := s.tiles.erase (.store (storeCore e.frame) (storeOff e.frame)) }
  | .lpddr => s.dropRef e.frame
  | .quarry => s.qTrim bond e.frame
  | .remote => s

/-- Releases the entries of a mortar. -/
def State.dropEntries (s : State) (bond : Nat) (es : List (Nat × MEntry)) : State :=
  es.foldl (fun a kv => a.dropEntry bond kv.2) s

/-- Whether a session holds quarry frames (R459). -/
def Session.inQuarry (x : Session) : Bool :=
  x.mortar.entries.any (fun kv => kv.2.tier == .quarry) || !x.perFrames.isEmpty || x.rootCopy.isSome
    || !x.mortar.pageLocators.isEmpty

/-- Counts a session out of the prefix that it uses (R106 USERS), where that registration still stands. -/
def State.leavePrefix (s : State) (x : Session) : State :=
  { s with prefixes := s.prefixes.modify (x.part, x.pfx) (fun r => if r.seq = x.pfxSeq then { r with users := r.users - 1 } else r) }

/-- Aborts a bond that stages quarry frames: they are given back (R417, R449). -/
def State.abortQuarry (s : State) (p id : Nat) : State :=
  let fs := (s.qry.staged.filter (fun kv => kv.2.owner == p && kv.2.bond == id)).map (·.1)
  (fs.foldl (fun a f => a.qUnstage f) s).abortBond p id

/-- Aborts the token-log persists that a slot still has open. -/
def State.abortPersist (s : State) (slot : Nat) : State :=
  (s.bonds.filter (fun b => b.slot == slot && b.kind == .persist)).foldl (fun a b => a.abortQuarry b.part b.id) s

/-- Releases a session to FREE (R56, R61, R115): tiles, mortar pages, log frames, grammar frame, quarry frames; its
generation counts up, or its slot is retired. -/
def State.releaseSes (s : State) (bond slot : Nat) : State :=
  let x := s.ses slot
  let s := (s.abortPersist slot).dropEntries bond x.mortar.entries
  let s := s.freeMors (x.mortar.root :: x.mortar.pageFrames)
  let s := s.qTrims bond (locFrames x.mortar.pageLocators)
  let s := s.freeMors x.logFrames
  let s := s.qTrims bond x.perFrames
  let s := match x.rootCopy with | some f => s.qTrim bond f | none => s
  let s := match x.grammar with | some g => s.freeMor g.frame | none => s
  let s := s.leavePrefix x
  let last := decide (65535 ≤ x.gen)
  let y := { Session.free with gen := if last then x.gen else x.gen + 1, retired := last, part := x.part, waiting := x.waiting,
                               freeSeq := s.freed + 1 }
  { s.setSes slot y with freed := s.freed + 1 }

/-- The slot that SES_CREATE allocates (R57): one that has never been used since the slots were last reset, else the
non-retired FREE slot that became FREE first. Among slots never used the specification names no choice (log entry 8). -/
def State.newSlot (s : State) (p : Nat) : Option Nat :=
  match findFree s.sessions (s.slotBase p) (s.slotCount p) (Config.pick s.freeCtr) (s.sessions.length + 1) with
  | some n => some n
  | none =>
    (leastBy (fun (a b : Nat × Session) => decide (a.2.freeSeq < b.2.freeSeq))
      (s.sessions.filter (fun kv => s.inRange p kv.1 && kv.2.state == .free && !kv.2.retired))).map (·.1)

-- Taking a prefix (R109, R113) -------------------------------------------------------------------------------------------------

/-- Whether a frame is PINNED. -/
def State.pinned (s : State) (n : Nat) : Bool :=
  match s.tileFrames.get? n with
  | some f => f.state == .pinned
  | none => false

/-- Takes the entries of a prefix into a new session's mortar: a reference to each frame, or a private copy of a PINNED
one (R109, R113). R113 does not state SOURCE and MASS_EPOCH of the copy's header: it keeps those of the tile copied (DESIGN CHOICE, log
entry 66). -/
def State.takeEntries (s : State) (p slot : Nat) (es : List (Nat × MEntry)) (m : AMap Nat MEntry) :
    Option (AMap Nat MEntry × State) :=
  match es with
  | [] => some (m, s)
  | (e, x) :: r =>
    if s.pinned x.frame then
      match s.allocTile p ⟨p, .priv, 0, slot, []⟩ with
      | none => none
      | some (n, s1) =>
        let s2 := match s1.tiles.get? (.frame x.frame) with
          | some t => s1.copyTile (.frame x.frame) (.frame n) { t with shared := false, prefixId := 0xFFFF }
          | none => s1
        (s2.bump Fld.MOR_SHARE_COPIES_COPIES p).takeEntries p slot r (m.set e { x with shared := false, frame := n })
    else (s.addRef x.frame).takeEntries p slot r (m.set e x)

/-- The command waits for a ZEROING frame (R383). -/
def State.waitFrames (s : State) (p : Nat) (u : Sub) (c : HostCmd) : State :=
  { s with allocWait := s.allocWait ++ [(u, c)] }.bump Fld.MEM_ZERO_WAITS_COUNT p

/-- The command's bond waits at order 2 (R447, R457). -/
def State.waitBond (s : State) (p slot : Nat) (u : Sub) (c : HostCmd) : State :=
  let s := if s.bondRoom p then s else s.bump Fld.BND_SLOT_WAITS_COUNT p
  { s with bondWaits := s.bondWaits ++ [⟨p, slot, u, c⟩] }

/-- The checks of R803 from order 2 on; order 1 is made at arrival. -/
def State.checkCreate (s : State) (u : Sub) (a : SesCreateArgs) : Option Status :=
  let p := s.subPart u
  if u.resv then some .configReservedField
  else if !a.hints.inRange then some .configHintRange
  else if !s.mainCtx p a.main then some .configContextKind
  else if a.comp != 0 && (s.compHeld a.comp).isNone then some .configCompositionUnknown
  else if a.comp != 0 && (match s.compHeld a.comp with | some c => c.part != p || c.main != a.main | none => false) then
    some .configMap
  else if a.pfx != 0xFFFF && !(s.prefixes.has (p, a.pfx)) then some .configPrefixUnknown
  else if a.pfx != 0xFFFF && (match s.prefixes.get? (p, a.pfx) with | some r => r.main != a.main | none => false) then
    some .configPrefixModel
  else if (s.newSlot p).isNone then some .limitSlots
  else none

/-- The prefix that a create names. -/
def State.pfxOf (s : State) (p pfx : Nat) : Option Prefix := if pfx = 0xFFFF then none else s.prefixes.get? (p, pfx)

/-- Tile and mortar frames that a create needs (R803 order 10). -/
def State.createNeeds (s : State) (p : Nat) (a : SesCreateArgs) : Nat × Nat :=
  match s.pfxOf p a.pfx with
  | none => (0, 1)
  | some r =>
    ((r.mortar.entries.filter (fun kv => s.pinned kv.2.frame)).length,
     1 + logFramesFor r.log.length + (Mortar.empty 0).newPages (r.mortar.entries.map (·.1)))

/-- Builds the session of a create in a slot; none where a frame is lacking. -/
def State.buildSes (s : State) (p slot : Nat) (a : SesCreateArgs) : Option State :=
  match s.allocMor p ⟨p, .priv, 0, slot, []⟩ with
  | none => none
  | some (root, s1) =>
    let fb := match s.ctx p a.main with | some c => c.img.fallback | none => 0x3F
    let x : Session := { Session.free with
      gen := (s.ses slot).gen, state := .opened, part := p, mortar := Mortar.empty root, pfx := a.pfx, comp := a.comp,
      main := a.main, fallback := fb, hints := a.hints, hostData := a.hostData }
    match s.pfxOf p a.pfx with
    | none => some (s1.setSes slot x)
    | some r =>
      match s1.growMortar p slot x.mortar (r.mortar.entries.map (·.1)) with
      | none => none
      | some (m, s2) =>
        match s2.takeEntries p slot r.mortar.entries m.entries with
        | none => none
        | some (es, s3) =>
          match s3.allocMors p ⟨p, .priv, 0, slot, []⟩ (logFramesFor r.log.length) with
          | none => none
          | some (lf, s4) =>
            let s5 := { s4 with prefixes := s4.prefixes.set (p, a.pfx) { r with users := r.users + 1 } }
            some (s5.setSes slot { x with mortar := { m with entries := es }, pfxTiles := r.full, pfxSeq := r.seq, nextPos := r.tokens,
                                          log := r.log, logFrames := lf })

/-- SES_CREATE (R57, R109, R803): refused without effect at the first failing check; else one bond makes the session. -/
def doSesCreate (u : Sub) (a : SesCreateArgs) (s : State) : State :=
  let p := s.subPart u
  match s.checkCreate u a with
  | some st => s.complete u st
  | none =>
    let need := s.createNeeds p a
    match s.room p need.1 need.2 with
    | .refused => s.complete u .quotaLpddr6
    | .waits => s.waitFrames p u (.sesCreate a)
    | .fits =>
      if !s.bondRoom p then s.waitBond p noSlot u (.sesCreate a)
      else
        match s.newSlot p with
        | none => s.complete u .limitSlots
        | some slot =>
          match { s with freeCtr := s.freeCtr + 1 }.buildSes p slot a with
          | none => s.complete u .quotaLpddr6
          | some t => ((t.bondOnce p).touch slot).complete u .ok (t.handleOf slot).toNat

/-- SES_CLOSE (R59, R61): from OPEN, WAITING, PARKED or FAILED the session is released to FREE in one bond. -/
def doSesClose (u : Sub) (s : State) : State :=
  let slot := u.slot
  let x := s.ses slot
  if x.state = .opened ∨ x.state = .waiting ∨ x.state = .parked ∨ x.state = .failed then
    let id := s.nextBond x.part
    let s1 := (s.bondOnce x.part).releaseSes id slot
    let s2 := if x.inQuarry then s1.mirrorSes slot else s1
    s2.complete u .ok
  else s.complete u .configWrongState

/-- SES_QUERY (R72, R801): the record of the session and its STATUS word; nothing changes. -/
def doSesQuery (u : Sub) (s : State) : State :=
  let slot := u.slot
  (s.buf u.fn (.record (s.recordWords slot))).complete u .ok (s.statusWord slot)

/-- SES_SET_HOST_DATA (R801): behind a move it waits at the session; behind a bond that claims the directory entry it waits
for the claim; else one bond writes HOST_DATA. -/
def doSesSetHostData (u : Sub) (d : BitVec 128) (s : State) : State :=
  let slot := u.slot
  let x := s.ses slot
  if x.state = .moving then
    s.setSes slot { x with waiting := x.waiting ++ [(u, .sesSetHostData d)] }
  else if s.claimed slot || !s.bondRoom x.part then s.waitBond x.part slot u (.sesSetHostData d)
  else ((s.bondOnce x.part).modSes slot (fun y => { y with hostData := d })).complete u .ok

-- Prefix registry (R106 to R108, R114) ---------------------------------------------------------------------------------------------

/-- The tile geometry of a session's main context. -/
def State.geomOf (s : State) (slot : Nat) : Geometry :=
  let x := s.ses slot
  match s.ctx x.part x.main with
  | some c => c.img.geom
  | none => ⟨0, false, 0, 0⟩

/-- Whether a tile holds a position below n. -/
def Tile.below (t : Tile) (n : Nat) : Bool :=
  match t.positions with
  | [] => false
  | x :: _ => decide (x.pos < n)

/-- Whether some tile of positions 0 to n − 1 lies in the quarry or on another device. -/
def State.awayBelow (s : State) (slot n : Nat) : Bool :=
  let x := s.ses slot
  x.mortar.entries.any (fun kv => (kv.2.tier == .quarry && (match s.tileAt kv.2 with | some t => t.below n | none => true))
    || kv.2.tier == .remote)

/-- Whether some tile of positions 0 to n − 1 is dressed. -/
def State.dressedBelow (s : State) (slot n : Nat) : Bool :=
  (s.ses slot).mortar.entries.any (fun kv => kv.2.dressed &&
    (match s.tileAt kv.2 with | some t => t.below n | none => false))

/-- A free entry of a partition's prefix registry; 0xFFFF is never allocated (R106). -/
def State.freePfx (s : State) (p : Nat) : Option Nat :=
  let used : AMap Nat Unit := (s.prefixes.filter (fun kv => kv.1.1 == p)).map (fun kv => (kv.1.2, ()))
  findFree used 0 65535 (Config.pick s.freeCtr) (used.length + 1)

/-- Entries of the full columns of a session. -/
def fullEntries (m : Mortar) (pairs full : Nat) : List (Nat × MEntry) :=
  m.entries.filter (fun kv => decide (colOf pairs kv.1 < full))

/-- Entries of the column that holds a prefix's partial tile. -/
def partialEntries (m : Mortar) (pairs full : Nat) : List (Nat × MEntry) :=
  m.entries.filter (fun kv => decide (colOf pairs kv.1 = full))

/-- A mortar frame for the registry page of an ID, where the page has none yet (R106, R380): the registry's 512 frames are taken as its
entries come into use (log entry 66). None where the partition has no frame. -/
def State.regPage (s : State) (p id : Nat) : Option State :=
  if s.regPages.has (p, id / 128) then some s
  else
    match s.allocMor p ⟨p, .priv, 0, 0, []⟩ with
    | none => none
    | some (n, s1) => some { s1 with regPages := s1.regPages.set (p, id / 128) n }

/-- Makes a full tile of the source SHARED (R107 order 3); a TIER 1 tile is demoted to LPDDR6 first. A tile that is SHARED already gains a
reference; one that is PINNED stays as it is, for R113 does not say whether this is a share that takes a copy (DESIGN CHOICE, log
entry 66). -/
def State.shareTile (s : State) (p id : Nat) (e : MEntry) : Option (MEntry × State) :=
  if e.shared then some (e, s.addRef e.frame)
  else
    let mark (t : Tile) : Tile :=
      { t with shared := true, prefixId := id, positions := t.positions.map (fun q => { q with mass := 0 }) }
    match e.loc, s.tileAt e with
    | some (.store c o), some t =>
      match s.allocTile p ⟨p, .shared, 1, id, []⟩ with
      | none => none
      | some (n, s1) =>
        some ({ e with tier := .lpddr, frame := n, shared := true },
              let s2 := s1.copyTile (.store c o) (.frame n) (mark t)
              { s2 with tiles := s2.tiles.erase (.store c o) })
    | some (.frame n), some t =>
      some ({ e with shared := true },
            ({ s with tileFrames := s.tileFrames.set n ⟨p, .shared, 1, id, []⟩ }.putTile (.frame n) (mark t)).setPoison (.frame n)
              (s.poisonAt (.frame n)))
    | _, _ => none

/-- Makes full tiles SHARED and collects their entries. -/
def State.shareTiles (s : State) (p id : Nat) (es : List (Nat × MEntry)) (m : AMap Nat MEntry) :
    Option (AMap Nat MEntry × State) :=
  match es with
  | [] => some (m, s)
  | (k, e) :: r =>
    match s.shareTile p id e with
    | none => none
    | some (e', s1) => s1.shareTiles p id r (m.set k e')

/-- Copies the source's tiles that hold position n − 1, cut to the prefix's last positions, into partial tiles (R107
order 4). -/
def State.cutTiles (s : State) (p id n : Nat) (es : List (Nat × MEntry)) (m : AMap Nat MEntry) :
    Option (AMap Nat MEntry × State) :=
  match es with
  | [] => some (m, s)
  | (k, e) :: r =>
    match e.loc, s.tileAt e, s.allocTile p ⟨p, .shared, 0, id, []⟩ with
    | some l, some t, some (f, s1) =>
      let t' : Tile := { t with source := 0, shared := true, prefixId := id,
                                positions := (t.positions.filter (fun q => decide (q.pos < n))).map
                                  (fun q => { q with mass := 0 }) }
      let e' : MEntry := { e with tier := .lpddr, shared := true, fill := t'.fill, frame := f }
      (s1.copyTile l (.frame f) t').cutTiles p id n r (m.set k e')
    | _, _, _ => none

/-- The prefix of a registration with its frames: tiles shared and cut, mortar, log and registry page (R107 orders 2 to 5); none where a
frame is lacking. R103 and R104 give no state for the frames of a prefix's own mortar and log and of the registry, which no slot owns:
they are PRIVATE with BACKREF 0 (DESIGN CHOICE, log entry 66). -/
def State.buildPrefix (s : State) (p slot id n full : Nat) (fes pes : List (Nat × MEntry)) : Option (Prefix × AMap Nat MEntry × State) :=
  let x := s.ses slot
  match s.regPage p id with
  | none => none
  | some s0 =>
    match s0.allocMor p ⟨p, .priv, 0, 0, []⟩ with
    | none => none
    | some (root, s1) =>
      match s1.growMortar p 0 (Mortar.empty root) ((fes ++ pes).map (·.1)) with
      | none => none
      | some (pm, s2) =>
        match s2.allocMors p ⟨p, .priv, 0, 0, []⟩ (logFramesFor n) with
        | none => none
        | some (lf, s3) =>
          match s3.shareTiles p id fes [] with
          | none => none
          | some (shared, s4) =>
            match s4.cutTiles p id n pes [] with
            | none => none
            | some (cut, s5) =>
              some (⟨x.main, n, full, 1, { pm with entries := shared ++ cut }, x.log.take n, lf, s.nextSeq⟩, shared, s5)

/-- Tile and mortar frames that a registration needs (R108 order 6). -/
def State.registerNeeds (s : State) (p id n : Nat) (fes pes : List (Nat × MEntry)) : Nat × Nat :=
  ((fes.filter (fun kv => kv.2.tier == .store && !kv.2.shared)).length + pes.length,
   (if s.regPages.has (p, id / 128) then 0 else 1) + 1 + (Mortar.empty 0).newPages ((fes ++ pes).map (·.1)) + logFramesFor n)

/-- PFX_REGISTER (R107, R108). -/
def doPfxRegister (u : Sub) (n : Nat) (s : State) : State :=
  let slot := u.slot
  let x := s.ses slot
  let p := x.part
  let pairs := s.pairsOf slot
  let cap := (s.geomOf slot).p
  if x.state ≠ .waiting then s.complete u .configWrongState
  else if n = 0 ∨ x.nextPos < n then s.complete u .configPrefixRange
  else if s.awayBelow slot n then s.complete u .configWrongState
  else if s.dressedBelow slot n then s.complete u .configPrefixDressed
  else
    match s.freePfx p with
    | none => s.complete u .limitPrefixes
    | some id =>
      let full := n / cap
      let fes := fullEntries x.mortar pairs full
      let pes := if n % cap = 0 then [] else partialEntries x.mortar pairs full
      let need := s.registerNeeds p id n fes pes
      match s.room p need.1 need.2 with
      | .refused => s.complete u .quotaLpddr6
      | .waits => s.waitFrames p u (.pfxRegister n)
      | .fits =>
        match s.buildPrefix p slot id n full fes pes with
        | none => s.complete u .quotaLpddr6
        | some (pre, shared, s1) =>
          let s2 := s1.leavePrefix x
          let own := shared.foldl (fun (a : AMap Nat MEntry) kv => a.set kv.1 kv.2) x.mortar.entries
          let s3 := { s2 with prefixes := s2.prefixes.set (p, id) pre, freeCtr := s2.freeCtr + 1 }
          let s4 := s3.setSes slot { x with pfx := id, pfxTiles := full, pfxSeq := pre.seq, mortar := { x.mortar with entries := own } }
          ((s4.bondOnce p).touch slot).complete u .ok id

/-- Releases a SHARED frame without references when its prefix goes (R114). -/
def State.unholdFrame (s : State) (n : Nat) : State :=
  match s.tileFrames.get? n with
  | some f => if f.state = .shared && f.refcount = 0 && !(s.prefixHolds n f) then s.freeTile n else s
  | none => s

/-- Removes a prefix from the registry (R114). -/
def State.unregister (s : State) (p id : Nat) : State :=
  match s.prefixes.get? (p, id) with
  | none => s
  | some r =>
    let s := { s with prefixes := s.prefixes.erase (p, id) }
    let s := r.mortar.entries.foldl (fun a kv => a.unholdFrame kv.2.frame) s
    (s.freeMors (r.mortar.root :: r.mortar.pageFrames)).freeMors r.logFrames

/-- Whether a SES_CREATE that has reached a registry entry waits for frames or for its bond. -/
def State.createWaits (s : State) (p id : Nat) : Bool :=
  let names (u : Sub) (c : HostCmd) : Bool := match c with | .sesCreate a => a.pfx == id && s.subPart u == p | _ => false
  s.allocWait.any (fun w => names w.1 w.2) || s.bondWaits.any (fun w => names w.sub w.cmd)

/-- PFX_UNREGISTER (R114). A SES_CREATE that has reached the entry before completes: the bond of the unregister waits for it (R447, log
entry 66). -/
def doPfxUnregister (u : Sub) (id : Nat) (s : State) : State :=
  let p := s.subPart u
  if u.resv then s.complete u .configReservedField
  else if s.prefixes.has (p, id) && s.createWaits p id then s.waitBond p noSlot u (.pfxUnregister id)
  else if s.prefixes.has (p, id) then ((s.bondOnce p).unregister p id).complete u .ok
  else s.complete u .configPrefixUnknown

end Sys2Proof.Machine
end

