-- ==== Sys2Proof/Machine/Egress.lean ====
section
/-!
DEFINITION. Messages that the device sends, and the queues of a port's egress scheduler that they enter
(17_solvor_messages_and_compositions.md R570 to R586, 18_egress_scheduling.md R611, R615).
-/

namespace Sys2Proof.Machine

open Sys2Proof

/-- Bytes of a move offer's sections (R585). -/
def Offer.bytes (o : Offer) : Nat :=
  136 + (8 + 8 * o.entries.length) + (8 + 4 * o.log.length) +
    (match o.grammar with | some g => 8 + 64 + 8 * g.stack.length | none => 0)

/-- Bytes of the last message of an offer's chain (R584, R585): 65,500 B of body at most per message. -/
def Offer.lastBytes (o : Offer) : Nat := 36 + (o.bytes - 1) % 65500 + 1

/-- Bytes of a message with its header (R570 to R586). A move offer's chain counts as one. -/
def MsgBody.bytes (b : MsgBody) : Nat :=
  match b with
  | .output o => 48 + (if o.status = 0 then 2 * (o.o.map List.length).sum else if o.hint.isSome then 16 else 0)
  | .expertAnswer _ st y => 48 + (if st = 0 then 2 * y.length else 0)
  | .tokenStream _ _ _ ts => 48 + 4 * ts.length
  | .tilePull _ _ _ _ => 48
  | .pullAnswer st hint _ => if st = 0 then 18480 else if hint.isSome then 64 else 48
  | .moveOffer o => o.bytes + 36 * ceilDiv o.bytes 65500
  | .moveAnswer st _ => if st = 0 then 44 else 36
  | .moveConfirm _ => 44
  | .moveAbort _ => 40
  | .rehandshake _ _ => 44
  | .admitAsk _ _ => 84
  | .admitQuote _ _ held => 72 + held
  | .admitDone _ => 52
  | .ping _ => 36
  | .keyRevoke _ _ _ => 40
  | .malformed _ => 32

/-- Flits of a message (R546). -/
def TxMsg.flits (m : TxMsg) : Nat := ceilDiv m.bytes 256

/-- Management and key revoke, and the answers to malformed ones, enter the management queue (R571, R611). -/
def MsgBody.mgmt (b : MsgBody) : Bool :=
  match b with
  | .admitAsk _ _ => true | .admitQuote _ _ _ => true | .admitDone _ => true | .ping _ => true | .keyRevoke _ _ _ => true
  | .malformed type => type == 9 || type == 10
  | _ => false

/-- The virtual channel of a message that the device sends (R571); an answer to a malformed message takes that of its type's answer. -/
def MsgBody.vc (b : MsgBody) : Nat :=
  match b with
  | .output _ => 2 | .expertAnswer _ _ _ => 2 | .tokenStream _ _ _ _ => 2 | .tilePull _ _ _ _ => 1
  | .pullAnswer _ _ _ => 3 | .moveOffer _ => 1 | .moveAnswer _ _ => 2 | .moveConfirm _ => 1 | .moveAbort _ => 1
  | .rehandshake _ _ => 1
  | .malformed type => if type = 9 ∨ type = 10 then 0 else if type = 6 then 3 else 2
  | .admitAsk _ _ => 0 | .admitQuote _ _ _ => 0 | .admitDone _ => 0 | .ping _ => 0 | .keyRevoke _ _ _ => 0

/-- The class of the flow that a message takes (R611): that of the request's main context, or background for pulls, tiles
and control. -/
def MsgBody.cls (b : MsgBody) (c : CtxClass) : CtxClass :=
  match b with
  | .output _ => c | .expertAnswer _ _ _ => c | .tokenStream _ _ _ _ => c | _ => .bg

/-- The weight of a flow (R615, R626). -/
def State.weightOf (s : State) (port p : Nat) (c : CtxClass) : Nat :=
  match c with
  | .lc => zeroActsAs (s.fld Fld.EGR_WEIGHT_W_LC port p) 1
  | .be => zeroActsAs (s.fld Fld.EGR_WEIGHT_W_BE port p) 1
  | .bg => zeroActsAs (s.fld Fld.EGR_WEIGHT_W_BG port p) 1

/-- Whether a port carries messages. -/
def Port.up (p : Port) : Bool := p.state == .opened || p.state == .sealed || p.state == .recovery

/-- Flow number of a partition and class (R611). -/
def flowOf (p : Nat) (c : CtxClass) : Nat := 3 * p + c.code

/-- Enqueues a message at a port (R611, R615); a port that is down drops it. -/
def State.enqueue (s : State) (port : Nat) (m : Msg) (c : CtxClass) : State :=
  match s.ports.get? port with
  | none => s
  | some x =>
    if !x.up then s
    else
      let cls := m.body.cls c
      let t : TxMsg := ⟨m, m.body.vc, m.body.mgmt, cls, m.body.bytes, 0⟩
      if t.mgmt then { s with ports := s.ports.set port { x with mgmt := x.mgmt ++ [t] } }
      else
        let f := flowOf m.part cls
        let start := Nat.max x.vt (x.flast.getD f 0)
        let fin := start + t.flits * 65536 / s.weightOf port m.part cls
        { s with ports := s.ports.set port { x with
            flows := x.flows.set f (x.flows.getD f [] ++ [⟨t, fin, false⟩]), flast := x.flast.set f fin } }

/-- Sends a message to a peer of the peer table. -/
def State.sendTo (s : State) (peer part epoch comp : Nat) (h : Word64) (tag : Nat) (c : CtxClass) (b : MsgBody) : State :=
  match s.peers.get? peer with
  | none => s
  | some x => s.enqueue x.port ⟨x.fabric, part, epoch, comp, h, tag, b⟩ c

/-- Answers a message at the port it came by. -/
def State.answerMsg (s : State) (h : Hdr) (c : CtxClass) (b : MsgBody) : State :=
  s.enqueue h.port ⟨h.src, h.part, h.epoch, h.comp, h.handle, h.tag, b⟩ c

end Sys2Proof.Machine
end

