-- ==== Sys2Proof/Machine/Compose.lean ====
section
/-!
DEFINITION. Peers and composition maps as requests and messages use them (17_solvor_messages_and_compositions.md R583,
R589 to R601).
-/

namespace Sys2Proof.Machine

open Sys2Proof

/-- The admitted peer of a fabric address (R591). -/
def State.peerOfSrc (s : State) (src : Nat) : Option (Nat × Peer) :=
  s.peers.find? (fun kv => kv.2.fabric == src && kv.2.state == .admitted)

/-- The admitted peer of a peer ID, for a partition. -/
def State.peerOfId (s : State) (id : Word64) (p : Nat) : Option (Nat × Peer) :=
  s.peers.find? (fun kv => kv.2.id == id && kv.2.state == .admitted && bitOf kv.2.parts p)

/-- The composition with an identifier, whatever its state. -/
def State.compById (s : State) (id : Nat) : Option Comp := (s.comps.map (·.2)).find? (fun c => c.id == id)

/-- The retained or current map of a composition with an epoch (R597). -/
def Comp.mapAt (c : Comp) (epoch : Nat) : Option CMap := (c.cur :: c.old).find? (fun m => m.epoch == epoch)

/-- The map of a request. -/
def State.mapOf (s : State) (comp epoch : Nat) : Option CMap :=
  match s.compById comp with
  | some c => c.mapAt epoch
  | none => none

/-- A list turned so that it starts at an index. -/
def rotateFrom {α : Type} (l : List α) (i : Nat) : List α := if l.isEmpty then [] else l.drop (i % l.length) ++ l.take (i % l.length)

/-- The front of a request under a map (R598): the first admitted peer from entry SLOT mod FRONTS on. -/
def State.frontOf (s : State) (m : CMap) (slot : Nat) : Option (Nat × Peer) :=
  (rotateFrom m.fronts slot).findSome? (fun id => s.peerOfId id m.part)

/-- Whether a map leaves a request an admitted front and an admitted partner for every range (R41, R598). -/
def State.mapServes (s : State) (m : CMap) (slot : Nat) : Bool :=
  (s.frontOf m slot).isSome && m.ranges.all (fun r => r.peers.any (fun id => (s.peerOfId id m.part).isSome))

/-- Whether a map names a peer as front or range partner (R599). -/
def CMap.names (m : CMap) (id : Word64) : Bool := m.fronts.contains id || m.ranges.any (fun r => r.peers.contains id)

/-- The epoch and sender check of R599 for a message to a running request; the fallback context (no header) passes. -/
def State.checkSender (s : State) (q : Req) (h : Option Hdr) (epoch : Nat) : Option Status :=
  match h with
  | none => none
  | some h =>
    if epoch != q.epoch then some .configEpochMismatch
    else
      match s.peerOfSrc h.src, s.mapOf q.comp q.epoch with
      | some (_, x), some m => if m.names x.id then none else some .securityForeignPeer
      | _, _ => some .securityForeignPeer

/-- The forwarding entry of a handle (R601). -/
def State.forwardOf (s : State) (w : Word64) : Option Forward := s.forwards.find? (fun f => f.old == w)

/-- The status that a failing handle is answered with, and the hint where a forwarding entry matches (R583). -/
def State.movedHint (s : State) (st : Status) (w : Word64) : Status × Option (Word64 × Word64) :=
  if st = .stateLostStaleHandle then
    match s.forwardOf w with
    | some f => (.stateLostMoved, some (f.peer, f.new))
    | none => (st, none)
  else (st, none)

/-- The forwarding hint as a RESULT (R683): peer ID, then handle. -/
def hintResult (h : Option (Word64 × Word64)) : Nat :=
  match h with
  | some (a, b) => a.toNat + b.toNat * 2 ^ 64
  | none => 0

/-- Refuses a command for its handle (R53, R583). -/
def State.refuseHandle (s : State) (u : Sub) (st : Status) : State :=
  let r := s.movedHint st u.handle
  let s := if r.2.isSome then s.bump Fld.CMP_MOVED_COUNT else s
  s.complete u r.1 (hintResult r.2)

/-- Writes LAST_USE of a peer at a message (R589). -/
def State.peerSeen (s : State) (i : Nat) : State :=
  let s := s.tick
  { s with peers := s.peers.modify i (fun x => { x with lastUse := s.aon, pings := 0 }) }

/-- Whether a port delivers the flits of a message (R533, R547, R562): in OPEN those under the zero key on channel 0, in SEALED those under
an installed key; an alarm or a device-fatal freeze keeps it to management (R658, R742). -/
def State.carries (s : State) (h : Hdr) : Bool :=
  match s.ports.get? h.port with
  | none => false
  | some x => (x.state == PortState.opened && h.key == 0x1F && h.vc == 0) ||
      (x.state == PortState.sealed && (x.keys.getD h.key PortKey.none).rxValid && (decide (16 ≤ h.key) || (!s.sec.frozen && !s.err.frozen)))

/-- The key index of management messages at a port (R572): the link key, or the zero key in OPEN. -/
def State.linkKey (s : State) (n : Nat) : Nat :=
  match s.ports.get? n with
  | some x => if x.state = .opened then 0x1F else 0x10
  | none => 0x10

/-- Drops a malformed message (R573): it is counted and, where its type has an answer, answered. -/
def State.dropMalformed (s : State) (h : Hdr) (type : Nat) (resp : Bool) : State :=
  let s := s.bump Fld.CMP_MALFORMED_COUNT
  if typeAnswered type && !resp then s.answerMsg h .bg (.malformed type) else s

/-- Whether a message is not for this device (R568). -/
def State.astray (s : State) (h : Hdr) : Bool := h.dst != s.fld Fld.CMP_SELF_FABRIC

/-- Takes a received message of an admitted peer: one for another address is dropped and counted (R568); a malformed one is dropped, counted
and, where its type has an answer, answered (R573), and so is one whose type R571 does not let its sender send, or of a partition that
its sender is not admitted for; one from an endpoint that holds no admitted entry is answered with REHANDSHAKE (R591); any other is
handed on with its sender. `size`: the bytes of the message by its payload. A message at a port that carries none has no effect (log
entry 2). -/
def State.receive (s : State) (h : Hdr) (type : Nat) (resp : Bool) (size : Option Nat) (k : Nat → Peer → State → State) : State :=
  if !(s.carries h) then s
  else if s.astray h then s.bump Fld.CMP_MALFORMED_COUNT
  else if h.malformed type resp (s.linkKey h.port) size then s.dropMalformed h type resp
  else
    match s.peerOfSrc h.src with
    | none => s.answerMsg h .bg (.rehandshake type h.tag)
    | some (i, p) =>
      if roleSends type resp p.device && (decide (9 ≤ type) || bitOf p.parts h.part) then k i p (s.peerSeen i)
      else s.dropMalformed h type resp

/-- Sends a token-stream message to the front of a request (R580). -/
def State.sendStream (s : State) (q : Req) (kind : Nat) (st : Status) (first : Nat) (ts : List Nat) : State :=
  match s.mapOf q.comp q.epoch with
  | none => s
  | some m =>
    match s.frontOf m q.slot with
    | none => s
    | some (i, _) =>
      s.sendTo i q.part q.epoch q.comp (s.handleOf q.slot) 0 (s.ctxClass q.part q.main) (.tokenStream kind st first ts)

/-- Sends tokens as a chain of messages of at most 16,370 entries (R579). -/
def State.sendChain (s : State) (q : Req) (kind first : Nat) (ts : List Nat) : State :=
  ((chunks 16370 ts).foldl (fun (a : State × Nat) c => (a.1.sendStream q kind 0 a.2 c, a.2 + c.length)) (s, first)).1

end Sys2Proof.Machine
end

