-- ==== Sys2Proof/Machine/Tables.lean ====
section
/-!
DEFINITION. Text table sets and grammar images as the device reads them: headers, entries, buckets and masks at their offsets, and
the checks of their form (07_text_intake_and_streaming.md R251 to R256, 08_grammar.md R281 to R286).
-/

namespace Sys2Proof.Machine

open Sys2Proof

-- Reading tables ------------------------------------------------------------------------------------------------------------

/-- A little-endian number of n bytes (R13). -/
def Memory.num (m : Memory) (a n : Nat) : Nat := leNat (Memory.reads 0 m a n)

/-- The search of a bucket (R254): from bucket h on, modulo the number of buckets, up to one that matches or an empty one. -/
def probe {α : Type} (bucket : Nat → Option α) (hit : α → Bool) (size h fuel : Nat) : Option α :=
  match fuel with
  | 0 => none
  | n + 1 =>
    match bucket (h % size) with
    | none => none
    | some x => if hit x then some x else probe bucket hit size (h + 1) n

/-- The indexes of the buckets whose VALID bit, bit 7 of their byte 3, is 1. -/
def validBuckets (m : Memory) (off stride count : Nat) : List Nat :=
  m.filterMap (fun c =>
    if off ≤ c.1 ∧ c.1 < off + stride * count ∧ (c.1 - off) % stride = 3 ∧ 128 ≤ c.2.toNat then some ((c.1 - off) / stride) else none)

/-- An offset that offends. -/
def offends (c : Bool) (off : Nat) : List Nat := if c then [off] else []

/-- The lowest of the offsets that offend. -/
def firstOffset (l : List Nat) : Option Nat := leastBy (fun a b => decide (a < b)) l

-- Text table sets (R251 to R255) -----------------------------------------------------------------------------------------------

/-- VOCAB_SIZE. -/
def TextSet.vocabSize (t : TextSet) : Nat := t.mem.num 0x00 4 % 2 ^ 19
/-- LOG2_BUCKETS. -/
def TextSet.log2Buckets (t : TextSet) : Nat := t.mem.num 0x07 1
/-- MERGE_COUNT. -/
def TextSet.mergeCount (t : TextSet) : Nat := t.mem.num 0x04 4 % 2 ^ 19
/-- SPECIALS. -/
def TextSet.specialCount (t : TextSet) : Nat := t.mem.num 0x08 2
/-- MAX_PIECE. -/
def TextSet.maxPiece (t : TextSet) : Nat := t.mem.num 0x0A 2
/-- CLASS_PAGES. -/
def TextSet.classPages (t : TextSet) : Nat := t.mem.num 0x0C 2
/-- BYTE_MAP_OFF. -/
def TextSet.byteMapOff (t : TextSet) : Nat := t.mem.num 0x10 8
/-- VOCAB_OFF. -/
def TextSet.vocabOff (t : TextSet) : Nat := t.mem.num 0x18 8
/-- POOL_OFF. -/
def TextSet.poolOff (t : TextSet) : Nat := t.mem.num 0x20 8
/-- MERGE_OFF. -/
def TextSet.mergeOff (t : TextSet) : Nat := t.mem.num 0x28 8
/-- CLASS_OFF. -/
def TextSet.classOff (t : TextSet) : Nat := t.mem.num 0x30 8
/-- SPECIAL_OFF. -/
def TextSet.specialOff (t : TextSet) : Nat := t.mem.num 0x38 8

/-- The token of a single byte (R251). -/
def TextSet.byteToken (t : TextSet) (b : Nat) : Nat := t.mem.num (t.byteMapOff + 4 * b) 4 % 2 ^ 18

/-- The special tokens, in the order of their entries (R251). -/
def TextSet.specials (t : TextSet) : List Nat := (List.range t.specialCount).map (fun i => t.mem.num (t.specialOff + 4 * i) 4 % 2 ^ 18)

/-- The vocabulary entry of a token (R252); a token beyond VOCAB_SIZE has none. -/
def TextSet.entry (t : TextSet) (tok : Nat) : Nat := if t.vocabSize ≤ tok then 0 else t.mem.num (t.vocabOff + 8 * tok) 8
/-- SPECIAL of a token. -/
def TextSet.special (t : TextSet) (tok : Nat) : Bool := bitOf (t.entry tok) 63
/-- HIDDEN of a token. -/
def TextSet.hidden (t : TextSet) (tok : Nat) : Bool := bitOf (t.entry tok) 62
/-- The bytes of a token: LENGTH bytes from POOL on (R252). -/
def TextSet.bytesOf (t : TextSet) (tok : Nat) : List Byte :=
  Memory.reads 0 t.mem (t.poolOff + t.entry tok % 2 ^ 32) (bitsOf (t.entry tok) 47 40)

/-- The merge of a bucket; none where it is empty (R253). -/
def TextSet.bucket (t : TextSet) (i : Nat) : Option Merge :=
  let at_ := t.mergeOff + 16 * i
  if bitOf (t.mem.num at_ 4) 31 then
    some ⟨t.mem.num at_ 4 % 2 ^ 18, t.mem.num (at_ + 4) 4 % 2 ^ 18, t.mem.num (at_ + 8) 4 % 2 ^ 18, t.mem.num (at_ + 12) 4⟩
  else none

/-- The merge of a pair of tokens (R254). -/
def TextSet.merge (t : TextSet) (l r : Nat) : Option Merge :=
  probe t.bucket (fun m => m.left == l && m.right == r) (2 ^ t.log2Buckets) (hashBucket (l * 2 ^ 18 + r) t.log2Buckets) (2 ^ t.log2Buckets)

/-- Row i of the break matrix (R255). -/
def TextSet.breakRow (t : TextSet) (i : Nat) : Nat := t.mem.num (t.classOff + 2 * i) 2
/-- Where the first level begins: after the break matrix (R255). -/
def TextSet.levelOff (t : TextSet) : Nat := t.classOff + 32
/-- Where the class pages begin: after the first level (R255). -/
def TextSet.pageOff (t : TextSet) : Nat := t.levelOff + 2 * 4352

/-- The class of a code point (R255): a page entry of 15 reads as 14. -/
def TextSet.classOf (t : TextSet) (c : Nat) : Nat :=
  let page := t.mem.num (t.levelOff + 2 * (c / 256)) 2
  let byte := t.mem.num (t.pageOff + 128 * page + c % 256 / 2) 1
  let k := if c % 2 = 0 then byte % 16 else byte / 16
  if k = 15 then 14 else k

/-- Header fields out of their ranges, and parts that pass the end of a context region (R251, R256). Where a part offends, the offset is
that of the header field that names it (DESIGN CHOICE, log entry 36). -/
def TextSet.badHeader (t : TextSet) (region : Nat) : List Nat :=
  let past (off bytes : Nat) : Bool := decide (region < t.base + off + bytes)
  offends (decide (2 ^ 19 ≤ t.mem.num 0x00 4) || t.vocabSize == 0 || decide (262144 < t.vocabSize)) 0x00
    ++ offends (decide (t.log2Buckets < 10) || decide (20 < t.log2Buckets) || bitsOf (t.mem.num 0x04 4) 23 19 != 0
        || decide (262144 < t.mergeCount) || decide (3 * 2 ^ t.log2Buckets < 4 * t.mergeCount)) 0x04
    ++ offends (decide (256 < t.specialCount)) 0x08
    ++ offends (decide (t.maxPiece < 16) || decide (4096 < t.maxPiece)) 0x0A
    ++ offends (t.classPages == 0 || decide (1024 < t.classPages)) 0x0C
    ++ offends (t.mem.num 0x0E 2 != 0) 0x0E
    ++ offends (past t.byteMapOff 1024) 0x10
    ++ offends (past t.vocabOff (8 * t.vocabSize)) 0x18
    ++ offends (past t.poolOff 0) 0x20
    ++ offends (past t.mergeOff (16 * 2 ^ t.log2Buckets)) 0x28
    ++ offends (past t.classOff (32 + 2 * 4352 + 128 * t.classPages)) 0x30
    ++ offends (past t.specialOff (4 * t.specialCount)) 0x38

/-- Whether a 4-byte word holds a token of the set in [17:0] and zero above. -/
def TextSet.okToken (t : TextSet) (w : Nat) : Bool := decide (w < 2 ^ 18) && decide (w < t.vocabSize)

/-- Offsets of vocabulary entries with a set reserved bit, or with bytes that pass the end of a context region (R252, R256). -/
def TextSet.badVocab (t : TextSet) (region : Nat) : List Nat :=
  (t.mem.filter (fun c => decide (t.vocabOff ≤ c.1) && decide (c.1 < t.vocabOff + 8 * t.vocabSize))).filterMap (fun c =>
    let k := (c.1 - t.vocabOff) / 8
    let e := t.entry k
    if bitsOf e 61 48 ≠ 0 ∨ bitsOf e 39 32 ≠ 0 ∨ region < t.base + t.poolOff + e % 2 ^ 32 + bitsOf e 47 40
    then some (t.vocabOff + 8 * k) else none)

/-- Offsets of merge buckets with a set reserved bit, with a token beyond VOCAB_SIZE, or of a pair that an earlier bucket holds (R253,
R256). -/
def TextSet.badBuckets (t : TextSet) : List Nat :=
  let valid := validBuckets t.mem t.mergeOff 16 (2 ^ t.log2Buckets)
  let pair (i : Nat) : Nat × Nat := (t.mem.num (t.mergeOff + 16 * i) 4, t.mem.num (t.mergeOff + 16 * i + 4) 4)
  (valid.filter (fun i =>
    !(t.okToken ((pair i).1 - 2 ^ 31)) || !(t.okToken (pair i).2) || !(t.okToken (t.mem.num (t.mergeOff + 16 * i + 8) 4))
      || valid.any (fun j => decide (j < i) && pair j == pair i))).map (fun i => t.mergeOff + 16 * i)

/-- Offsets of first-level entries at or beyond CLASS_PAGES (R256). -/
def TextSet.badLevels (t : TextSet) : List Nat :=
  (t.mem.filter (fun c => decide (t.levelOff ≤ c.1) && decide (c.1 < t.pageOff))).filterMap (fun c =>
    let off := t.levelOff + 2 * ((c.1 - t.levelOff) / 2)
    if t.classPages ≤ t.mem.num off 2 then some off else none)

/-- The offset of the first offending item of a table set that stands in a context region of so many bytes: the lowest one, from the start
of the set (R256; DESIGN CHOICE, log entry 36). -/
def TextSet.offence (t : TextSet) (region : Nat) : Option Nat :=
  let bytes := ((List.range 256).map (fun b => t.byteMapOff + 4 * b)).filter (fun off => !(t.okToken (t.mem.num off 4)))
  let specials := ((List.range (Nat.min t.specialCount 256)).map (fun i => t.specialOff + 4 * i)).filter (fun off =>
    !(t.okToken (t.mem.num off 4)) || !(t.special (t.mem.num off 4)))
  firstOffset (t.badHeader region ++ bytes ++ t.badVocab region ++ t.badBuckets ++ t.badLevels ++ specials)

-- Grammar images (R281 to R284) ----------------------------------------------------------------------------------------------------

/-- VOCAB_SIZE. -/
def GrmImage.vocab (g : GrmImage) : Nat := g.mem.num 0x00 4 % 2 ^ 19
/-- EOS_TOKEN. -/
def GrmImage.eos (g : GrmImage) : Nat := g.mem.num 0x04 4 % 2 ^ 18
/-- Lexer states. -/
def GrmImage.states (g : GrmImage) : Nat := g.mem.num 0x08 4 % 2 ^ 21
/-- START_STATE. -/
def GrmImage.start (g : GrmImage) : Nat := g.mem.num 0x0C 4 % 2 ^ 20
/-- START_TOP. -/
def GrmImage.startTop (g : GrmImage) : Nat := g.mem.num 0x10 2
/-- STACK_LIMIT. -/
def GrmImage.stackLimit (g : GrmImage) : Nat := g.mem.num 0x12 2
/-- SYMBOLS. -/
def GrmImage.symbols (g : GrmImage) : Nat := g.mem.num 0x14 2
/-- CLASSES. -/
def GrmImage.classes (g : GrmImage) : Nat := g.mem.num 0x16 2
/-- LOG2_PAIRS. -/
def GrmImage.log2Pairs (g : GrmImage) : Nat := g.mem.num 0x18 1
/-- MASKS. -/
def GrmImage.masks (g : GrmImage) : Nat := g.mem.num 0x1C 4
/-- CLASS_MAP_OFF. -/
def GrmImage.classMapOff (g : GrmImage) : Nat := g.mem.num 0x20 8
/-- PAIR_OFF. -/
def GrmImage.pairOff (g : GrmImage) : Nat := g.mem.num 0x28 8
/-- ROW_OFF. -/
def GrmImage.rowOff (g : GrmImage) : Nat := g.mem.num 0x30 8
/-- MASK_OFF. -/
def GrmImage.maskOff (g : GrmImage) : Nat := g.mem.num 0x38 8
/-- DEP_OFF. -/
def GrmImage.depOff (g : GrmImage) : Nat := g.mem.num 0x40 8
/-- IMAGE_BYTES. -/
def GrmImage.bytes (g : GrmImage) : Nat := g.mem.num 0x48 8
/-- TEXT_DIGEST. -/
def GrmImage.digest (g : GrmImage) : Nat := g.mem.num 0x50 48

/-- The class of a byte value (R281). -/
def GrmImage.classOf (g : GrmImage) (b : Nat) : Nat := g.mem.num (g.classMapOff + b) 1

/-- The pair of a bucket; none where it is empty (R282). -/
def GrmImage.bucket (g : GrmImage) (i : Nat) : Option GramPair :=
  let at_ := g.pairOff + 32 * i
  let mask := g.mem.num (at_ + 6) 2
  if bitOf (g.mem.num at_ 4) 31 then
    some { bucket := i, state := g.mem.num at_ 4 % 2 ^ 20, top := g.mem.num (at_ + 4) 2, mask := if mask = 0xFFFF then none else some mask,
           row := g.mem.num (at_ + 8) 4, depStart := g.mem.num (at_ + 0x10) 4, depCount := g.mem.num (at_ + 0x14) 2,
           accept := bitOf (g.mem.num (at_ + 0x16) 1) 7, growth := g.mem.num (at_ + 0x17) 1 }
  else none

/-- The pair bucket of a lexer state and stack top (R282), by the hash and probe of R254. -/
def GrmImage.pair (g : GrmImage) (q x : Nat) : Option GramPair :=
  probe g.bucket (fun p => p.state == q && p.top == x) (2 ^ g.log2Pairs) (hashBucket (q * 2 ^ 16 + x) g.log2Pairs) (2 ^ g.log2Pairs)

/-- A row entry (R283); none where VALID is 0. -/
def GrmImage.row (g : GrmImage) (i : Nat) : Option RowEntry :=
  let w := g.mem.num (g.rowOff + 8 * i) 8
  let sym := w % 2 ^ 16
  let op : StackOp := match bitsOf w 62 61 with
    | 0 => .keep
    | 1 => .push sym
    | 2 => .pop
    | _ => .replace sym
  if bitOf w 63 then some ⟨bitsOf w 51 32, op⟩ else none

/-- A dependent token (R281). -/
def GrmImage.dep (g : GrmImage) (i : Nat) : Nat := g.mem.num (g.depOff + 4 * i) 4 % 2 ^ 18
/-- The dependent list of a pair, in order (R282). -/
def GrmImage.depsOf (g : GrmImage) (p : GramPair) : List Nat := (List.range p.depCount).map (fun k => g.dep (p.depStart + k))

/-- The cells of a mask, by their byte in the mask. -/
def GrmImage.maskCells (g : GrmImage) (m : Nat) : List Host.Cell :=
  (g.mem.filter (fun c => decide (g.maskOff + 32768 * m ≤ c.1) && decide (c.1 < g.maskOff + 32768 * (m + 1)))).map (fun c =>
    (c.1 - (g.maskOff + 32768 * m), c.2))
/-- The tokens that a mask allows, ascending (R284). -/
def GrmImage.maskTokens (g : GrmImage) (m : Nat) : List Nat :=
  ((g.maskCells m).map (fun c => (bitPositions c.2.toNat 8).map (fun k => 8 * c.1 + k))).flatten

/-- The pairs of an image, by rising bucket. -/
def GrmImage.pairs (g : GrmImage) : List GramPair := (validBuckets g.mem g.pairOff 32 (2 ^ g.log2Pairs)).filterMap g.bucket

/-- Offsets of header fields out of range (R281, R286). -/
def GrmImage.badHeader (g : GrmImage) (t : TextSet) : List Nat :=
  offends (decide (2 ^ 19 ≤ g.mem.num 0x00 4) || g.vocab == 0 || decide (262144 < g.vocab) || g.vocab != t.vocabSize) 0x00
    ++ offends (decide (2 ^ 18 ≤ g.mem.num 0x04 4) || decide (g.vocab ≤ g.eos)) 0x04
    ++ offends (decide (2 ^ 21 ≤ g.mem.num 0x08 4) || g.states == 0 || decide (1048576 < g.states)) 0x08
    ++ offends (decide (2 ^ 20 ≤ g.mem.num 0x0C 4) || decide (g.states ≤ g.start)) 0x0C
    ++ offends (g.startTop != 0xFFFF && decide (g.symbols ≤ g.startTop)) 0x10
    ++ offends (g.stackLimit == 0 || decide (1024 < g.stackLimit)) 0x12
    ++ offends (g.symbols == 0) 0x14
    ++ offends (g.classes == 0 || decide (256 < g.classes)) 0x16
    ++ offends (decide (g.log2Pairs < 10) || decide (24 < g.log2Pairs) || decide (3 * 2 ^ g.log2Pairs < 4 * g.pairs.length)) 0x18
    ++ offends (g.mem.num 0x19 3 != 0) 0x19
    ++ offends (decide (65535 < g.masks)) 0x1C
    ++ offends (decide (g.bytes < g.classMapOff + 256)) 0x20
    ++ offends (decide (g.bytes < g.pairOff + 32 * 2 ^ g.log2Pairs)) 0x28
    ++ offends (decide (g.bytes < g.rowOff)) 0x30
    ++ offends (decide (g.bytes < g.maskOff + 32768 * g.masks)) 0x38
    ++ offends (decide (g.bytes < g.depOff)) 0x40
    ++ offends (decide (g.bytes < 0x80)) 0x48
    ++ offends (g.digest != t.digest) 0x50

/-- Whether a pair bucket offends: a reserved bit, a state or top outside its range, a mask, a row or a dependent range outside its table, or
a pair that an earlier bucket holds (R282, R286). The header names no length of the row and dependent tables: they end with the image. -/
def GrmImage.badPair (g : GrmImage) (all : List GramPair) (p : GramPair) : Bool :=
  let at_ := g.pairOff + 32 * p.bucket
  bitsOf (g.mem.num at_ 4) 30 20 != 0 || g.mem.num (at_ + 0x0C) 4 != 0 || g.mem.num (at_ + 0x16) 1 % 128 != 0
    || g.mem.num (at_ + 0x18) 8 != 0
    || decide (g.states ≤ p.state) || (p.top != 0xFFFF && decide (g.symbols ≤ p.top))
    || (match p.mask with | some m => decide (g.masks ≤ m) | none => false)
    || decide (g.bytes < g.rowOff + 8 * (p.row + g.classes)) || decide (g.bytes < g.depOff + 4 * (p.depStart + p.depCount))
    || decide (4096 < p.depCount) || all.any (fun o => decide (o.bucket < p.bucket) && o.state == p.state && o.top == p.top)

/-- Whether a row entry offends: a reserved bit, a NEXT or SYMBOL outside its range, or a SYMBOL that its OP does not use (R283, R286). -/
def GrmImage.badRow (g : GrmImage) (i : Nat) : Bool :=
  let w := g.mem.num (g.rowOff + 8 * i) 8
  let uses := bitsOf w 62 61 == 1 || bitsOf w 62 61 == 3
  bitOf w 63 && (bitsOf w 60 52 != 0 || bitsOf w 31 16 != 0 || decide (g.states ≤ bitsOf w 51 32)
    || (if uses then decide (g.symbols ≤ w % 2 ^ 16) else w % 2 ^ 16 != 0))

/-- Offsets of offending items of the tables (R286). -/
def GrmImage.badTables (g : GrmImage) : List Nat :=
  let all := g.pairs
  let classes := ((List.range 256).filter (fun b => decide (g.classes ≤ g.classOf b))).map (fun b => g.classMapOff + b)
  let pairs := (all.filter (g.badPair all)).map (fun p => g.pairOff + 32 * p.bucket)
  let rows := (all.map (fun p =>
    ((List.range (Nat.min g.classes 256)).filter (fun k => g.badRow (p.row + k))).map (fun k => g.rowOff + 8 * (p.row + k)))).flatten
  let masks := ((List.range (Nat.min g.masks 65535)).map (fun m =>
    ((g.maskTokens m).filter (fun k => decide (g.vocab ≤ k))).map (fun k => g.maskOff + 32768 * m + k / 8))).flatten
  let deps := (all.map (fun p =>
    (((List.range (Nat.min p.depCount 4096)).map (fun k => g.depOff + 4 * (p.depStart + k))).filter (fun off =>
      decide (2 ^ 18 ≤ g.mem.num off 4) || decide (g.vocab ≤ g.mem.num off 4))))).flatten
  classes ++ pairs ++ rows ++ masks ++ deps

/-- The offset of the first offending item of an image: the lowest one (R286). -/
def GrmImage.offence (g : GrmImage) (t : TextSet) : Option Nat := firstOffset (g.badHeader t ++ g.badTables)

end Sys2Proof.Machine
end

