-- ==== Sys2Proof/Machine/Text.lean ====
section
/-!
DEFINITION. The text block on bytes and tokens: characters, tokenisation, and the two holdbacks
(07_text_intake_and_streaming.md R254 to R268).
-/

namespace Sys2Proof.Machine

-- UTF-8 --------------------------------------------------------------------------------------------------------------------

/-- Whether a byte is a continuation byte in a range. -/
def inBytes (lo hi : Nat) (b : Byte) : Bool := decide (lo ≤ b.toNat) && decide (b.toNat ≤ hi)

/-- Length of the well-formed sequences that a byte begins, with the range of its second byte; 0 for none. -/
def utf8Lead (b : Byte) : Nat × Nat × Nat :=
  let n := b.toNat
  if n < 0x80 then (1, 0, 0)
  else if n < 0xC2 then (0, 0, 0)
  else if n < 0xE0 then (2, 0x80, 0xBF)
  else if n = 0xE0 then (3, 0xA0, 0xBF)
  else if n = 0xED then (3, 0x80, 0x9F)
  else if n < 0xF0 then (3, 0x80, 0xBF)
  else if n = 0xF0 then (4, 0x90, 0xBF)
  else if n < 0xF4 then (4, 0x80, 0xBF)
  else if n = 0xF4 then (4, 0x80, 0x8F)
  else (0, 0, 0)

/-- How many leading bytes agree with the sequence that the first byte begins: its whole length for a well-formed
character, fewer for a proper prefix or a break. -/
def utf8Match (bs : List Byte) : Nat :=
  match bs with
  | [] => 0
  | b :: r =>
    let l := utf8Lead b
    if l.1 = 0 then 0
    else if l.1 = 1 then 1
    else
      match r with
      | [] => 1
      | c :: r2 => if inBytes l.2.1 l.2.2 c then 2 + ((r2.take (l.1 - 2)).takeWhile (inBytes 0x80 0xBF)).length else 1

/-- Length of the well-formed character at the front of a byte string; 0 for none. -/
def utf8Char (bs : List Byte) : Nat :=
  match bs with
  | [] => 0
  | b :: _ => let n := (utf8Lead b).1; if n ≠ 0 ∧ utf8Match bs = n then n else 0

/-- The code point of a well-formed character of at most four bytes. -/
def codePoint (bs : List Byte) : Nat :=
  match bs.map BitVec.toNat with
  | [a] => a
  | [a, b] => (a % 32) * 64 + b % 64
  | [a, b, c] => (a % 16) * 4096 + (b % 64) * 64 + c % 64
  | [a, b, c, d] => (a % 8) * 262144 + (b % 64) * 4096 + (c % 64) * 64 + d % 64
  | _ => 0

/-- The bytes of U+FFFD. -/
def replacement : List Byte := [0xEF, 0xBF, 0xBD]

-- Tokenisation (R254, R255, R261, R262) ---------------------------------------------------------------------------------------

/-- A character of text input: its bytes, its class, and whether it is an invalid byte. -/
structure TChar where
  bytes   : List Byte
  cls     : Nat
  invalid : Bool
  deriving DecidableEq, Repr

/-- Characters of a span (R262): a byte that begins no well-formed sequence is a character of class 15. -/
def TextSet.chars (t : TextSet) (fuel : Nat) (bs : List Byte) : List TChar :=
  match fuel, bs with
  | 0, _ => []
  | _, [] => []
  | n + 1, b :: r =>
    let k := utf8Char (b :: r)
    if k = 0 then ⟨[b], 15, true⟩ :: t.chars n r
    else
      let cb := (b :: r).take k
      ⟨cb, t.classOf (codePoint cb), false⟩ :: t.chars n ((b :: r).drop k)

/-- Whether a piece boundary falls between two classes (R255). -/
def TextSet.breaks? (t : TextSet) (i j : Nat) : Bool := bitOf (t.breakRow i) j

/-- Cuts characters into pieces (R261 stage 2). `cur` is the open piece, its bytes in order, and `last` its last class. -/
def TextSet.pieces (t : TextSet) (cur : List Byte) (last : Nat) (cs : List TChar) : List (List Byte) :=
  match cs with
  | [] => if cur.isEmpty then [] else [cur]
  | c :: r =>
    if cur.isEmpty then t.pieces c.bytes c.cls r
    else if t.breaks? last c.cls || decide (t.maxPiece < cur.length + c.bytes.length) then
      cur :: t.pieces c.bytes c.cls r
    else t.pieces (cur ++ c.bytes) c.cls r

/-- The best merge of a token list: lowest rank, leftmost (R261 stage 3). -/
def TextSet.bestMerge (t : TextSet) (i : Nat) (ts : List Nat) : Option (Nat × Merge) :=
  match ts with
  | a :: b :: r =>
    let rest := t.bestMerge (i + 1) (b :: r)
    match t.merge a b, rest with
    | some m, some (j, n) => if n.rank < m.rank then some (j, n) else some (i, m)
    | some m, none => some (i, m)
    | none, x => x
  | _ => none

/-- Merges a piece until no merge applies; each merge shortens it by one. -/
def TextSet.mergePiece (t : TextSet) (fuel : Nat) (ts : List Nat) : List Nat :=
  match fuel with
  | 0 => ts
  | n + 1 =>
    match t.bestMerge 0 ts with
    | none => ts
    | some (i, m) => t.mergePiece n (ts.take i ++ m.result :: ts.drop (i + 2))

/-- The tokens of a span between special matches. -/
def TextSet.spanTokens (t : TextSet) (bs : List Byte) : List Nat :=
  ((t.pieces [] 0 (t.chars bs.length bs)).map (fun p =>
    t.mergePiece p.length (p.map (fun b => t.byteToken b.toNat)))).flatten

/-- The longest special token at the front of a byte string (R261 stage 1). -/
def TextSet.specialAt (t : TextSet) (bs : List Byte) : Option Nat :=
  leastBy (fun (a b : Nat) => decide ((t.bytesOf b).length < (t.bytesOf a).length))
    (t.specials.filter (fun k => !(t.bytesOf k).isEmpty && (t.bytesOf k).isPrefixOf bs))

/-- Spans and special tokens of text input, left to right. -/
def TextSet.split (t : TextSet) (fuel : Nat) (cur bs : List Byte) : List (List Byte ⊕ Nat) :=
  match fuel, bs with
  | 0, _ => [.inl cur]
  | _, [] => [.inl cur]
  | n + 1, b :: r =>
    match t.specialAt (b :: r) with
    | some k => .inl cur :: .inr k :: t.split n [] ((b :: r).drop (t.bytesOf k).length)
    | none => t.split n (cur ++ [b]) r

/-- The parts of text input: with SPECIALS, special tokens are cut out. -/
def TextSet.parts (t : TextSet) (specials : Bool) (bs : List Byte) : List (List Byte ⊕ Nat) :=
  if specials then t.split (bs.length + 1) [] bs else [.inl bs]

/-- Tokenisation of text input (R261). -/
def TextSet.tokenise (t : TextSet) (specials : Bool) (bs : List Byte) : List Nat :=
  ((t.parts specials bs).map (fun (p : List Byte ⊕ Nat) => match p with
    | .inl x => t.spanTokens x
    | .inr k => [k])).flatten

/-- Invalid bytes of text input (R262). -/
def TextSet.invalidBytes (t : TextSet) (specials : Bool) (bs : List Byte) : Nat :=
  ((t.parts specials bs).map (fun (p : List Byte ⊕ Nat) => match p with
    | .inl x => ((t.chars x.length x).filter (·.invalid)).length
    | .inr _ => 0)).sum

-- Holdbacks (R264 to R268) -----------------------------------------------------------------------------------------------------

/-- Bytes of one origin. -/
def fromOrigin (o : Origin) (bs : List Byte) : List TextByte := bs.map (fun b => (b, o))

/-- Whether bytes of an origin stand among released bytes. -/
def hasOrigin (o : Origin) (bs : List TextByte) : Bool := bs.any (fun b => b.2 == o)

/-- What a holdback releases: bytes, and how many runs were replaced. -/
structure Released where
  bytes    : List TextByte
  replaced : Nat
  deriving DecidableEq, Repr

/-- One invalid run, replaced or raw. -/
def Released.run (raw : Bool) (bs : List Byte) : Released :=
  if raw then ⟨fromOrigin .raw bs, 0⟩ else ⟨fromOrigin .replaced replacement, 1⟩

/-- Two releases in order. -/
def Released.add (a b : Released) : Released := ⟨a.bytes ++ b.bytes, a.replaced + b.replaced⟩

/-- The bytes of the invalid run at the front of a byte string: up to the next byte that begins a well-formed character or a
proper prefix that may still become one. -/
def badRun (fuel : Nat) (bs : List Byte) : Nat :=
  match fuel, bs with
  | 0, _ => 0
  | _, [] => 0
  | n + 1, b :: r =>
    let m := utf8Match (b :: r)
    if utf8Char (b :: r) ≠ 0 || (m ≠ 0 && m = (b :: r).length) then 0
    else Nat.max m 1 + badRun n ((b :: r).drop (Nat.max m 1))

/-- The UTF-8 holdback (R265): what it releases, and what it keeps. -/
def utf8Release (raw : Bool) (fuel : Nat) (bs : List Byte) : Released × List Byte :=
  match fuel, bs with
  | 0, _ => (⟨[], 0⟩, bs)
  | _, [] => (⟨[], 0⟩, [])
  | n + 1, b :: r =>
    let k := utf8Char (b :: r)
    if k ≠ 0 then
      let t := utf8Release raw n ((b :: r).drop k)
      (Released.add ⟨fromOrigin .plain ((b :: r).take k), 0⟩ t.1, t.2)
    else if utf8Match (b :: r) = (b :: r).length then (⟨[], 0⟩, b :: r)
    else
      let m := badRun (b :: r).length (b :: r)
      let t := utf8Release raw n ((b :: r).drop m)
      (Released.add (Released.run raw ((b :: r).take m)) t.1, t.2)

/-- The earliest byte at which a stop string completes, with the string that starts earliest: length of the text before it
and the string (R266). `i` is the place of the last byte looked at. -/
def stopAt (stops : List (List Byte)) (bs : List Byte) (i fuel : Nat) : Option (Nat × List Byte) :=
  match fuel with
  | 0 => none
  | n + 1 =>
    let pre := bs.take (i + 1)
    match leastBy (fun (a b : List Byte) => decide (b.length < a.length)) (stops.filter (fun x => x.isSuffixOf pre)) with
    | some x => some (i + 1 - x.length, x)
    | none => stopAt stops bs (i + 1) n

/-- The longest suffix that is a proper prefix of some stop string (R267). -/
def stopTail (stops : List (List Byte)) (bs : List Byte) : Nat :=
  ((List.range 64).filter (fun k => decide (k ≤ bs.length) &&
    stops.any (fun x => decide (k < x.length) && (bs.drop (bs.length - k)).isPrefixOf x))).foldl Nat.max 0

/-- What a committed token's bytes do to the holdbacks (R265 to R267). -/
structure TextStep where
  text     : List Byte      -- bytes released to the emit ring
  utf8     : List Byte      -- UTF-8 holdback after
  stopHold : List TextByte  -- stop holdback after
  replaced : Nat            -- runs replaced
  repl     : Bool           -- a replacement stands in the text
  raw      : Bool           -- a raw run stands in the text
  fired    : Bool
  trimmed  : Nat
  stopOut  : Bool           -- the stop string stands in the text
  deriving DecidableEq, Repr

/-- Bytes that a committed token contributes (R264). -/
def tokenBytes (ts : Option TextSet) (o : TextOpts) (tok : Nat) : List Byte :=
  match ts with
  | none => []
  | some t => if t.hidden tok && !o.emitHidden then [] else t.bytesOf tok

/-- Passes a token's bytes through both holdbacks. -/
def textStep (o : TextOpts) (stops : List (List Byte)) (utf8 : List Byte) (stopHold : List TextByte) (bs : List Byte) : TextStep :=
  let u := utf8Release o.rawInvalid ((utf8 ++ bs).length + 1) (utf8 ++ bs)
  let held := stopHold ++ u.1.bytes
  match stopAt stops (held.map (·.1)) 0 held.length with
  | some (start, str) =>
    let stop := start + str.length
    let out := held.take (if o.includeStop then stop else start)
    { text := out.map (·.1), utf8 := [], stopHold := [], replaced := u.1.replaced, repl := hasOrigin .replaced out,
      raw := hasOrigin .raw out, fired := true, trimmed := held.length - stop + u.2.length, stopOut := o.includeStop }
  | none =>
    let k := held.length - stopTail stops (held.map (·.1))
    { text := (held.take k).map (·.1), utf8 := u.2, stopHold := held.drop k, replaced := u.1.replaced,
      repl := hasOrigin .replaced (held.take k), raw := hasOrigin .raw (held.take k), fired := false, trimmed := 0, stopOut := false }

/-- The flush of R268. -/
def textFlush (o : TextOpts) (utf8 : List Byte) (stopHold : List TextByte) : Released :=
  if utf8.isEmpty then ⟨stopHold, 0⟩ else Released.add ⟨stopHold, 0⟩ (Released.run o.rawInvalid utf8)

end Sys2Proof.Machine
end

