-- ==== Sys2Proof/Machine/Grammar.lean ====
section
/-!
DEFINITION. The grammar unit: walks, masks, advance and undo, and the grammar registry (08_grammar.md R279 to R299).
-/

namespace Sys2Proof.Machine

open Sys2Proof

-- The machine (R279, R282) -----------------------------------------------------------------------------------------------------

/-- The top of a stack, 0xFFFF for an empty one. -/
def topOf (st : List Nat) : Nat :=
  match st with
  | [] => 0xFFFF
  | x :: _ => x

/-- A walk in progress: lexer state, stack (top first), and the lowest depth reached. -/
structure Walk where
  state : Nat
  stack : List Nat
  low   : Nat
  deriving DecidableEq, Repr

/-- One byte of a walk; none where it rejects (R279). -/
def GrmImage.step (g : GrmImage) (w : Walk) (b : Byte) : Option Walk :=
  match g.pair w.state (topOf w.stack) with
  | none => none
  | some p =>
    match g.row (p.row + g.classOf b.toNat) with
    | none => none
    | some e =>
      match e.op with
      | .keep => some { w with state := e.next }
      | .push y => if g.stackLimit ≤ w.stack.length then none else some { w with state := e.next, stack := y :: w.stack }
      | .pop =>
        match w.stack with
        | [] => none
        | _ :: r => some ⟨e.next, r, Nat.min w.low r.length⟩
      | .replace y =>
        match w.stack with
        | [] => none
        | _ :: r => some ⟨e.next, y :: r, Nat.min w.low r.length⟩

/-- A token's walk (R279). -/
def GrmImage.walk (g : GrmImage) (w : Walk) (bs : List Byte) : Option Walk :=
  match bs with
  | [] => some w
  | b :: r =>
    match g.step w b with
    | none => none
    | some w' => g.walk w' r

/-- The walk that starts at a session's state. -/
def GramState.start (x : GramState) : Walk := ⟨x.state, x.stack, x.stack.length⟩

/-- Whether a token's walk from a session's state succeeds. -/
def GrmImage.takes (g : GrmImage) (t : TextSet) (x : GramState) (tok : Nat) : Bool := (g.walk x.start (t.bytesOf tok)).isSome

-- The mask (R294) ---------------------------------------------------------------------------------------------------------------

/-- What a mask build answers. -/
inductive Mask where
  | allowed (ts : List Nat)
  | forced
  | stall
  deriving DecidableEq, Repr

/-- Whether a mask build takes the slow path (R294). -/
def GrmImage.slow (g : GrmImage) (x : GramState) : Bool :=
  match g.pair x.state (topOf x.stack) with
  | none => decide (g.stackLimit < x.stack.length)
  | some p => decide (g.stackLimit < x.stack.length + p.growth)

/-- The mask of a session's state (R294). -/
def GrmImage.mask (g : GrmImage) (t : TextSet) (x : GramState) : Mask :=
  let p := g.pair x.state (topOf x.stack)
  let base := match p with
    | some k => (match k.mask with | some m => g.maskTokens m | none => [])
    | none => []
  let base := if g.slow x then base.filter (g.takes t x) else base
  let deps := match p with
    | some k => (g.depsOf k).filter (g.takes t x)
    | none => []
  let all := (base ++ deps.filter (fun d => !(base.contains d))).filter (fun k => k != g.eos)
  let acc := match p with | some k => k.accept | none => false
  if all.isEmpty then (if acc then .forced else .stall)
  else .allowed (if acc then all ++ [g.eos] else all)

-- Advance and undo (R292, R293) ----------------------------------------------------------------------------------------------------

/-- The state after the commit of a token (R292): EOS_TOKEN is never walked; a failed walk leaves the machine and writes undo
fields that restore the same state. -/
def GrmImage.advance (g : GrmImage) (t : TextSet) (x : GramState) (tok : Nat) : GramState :=
  if tok = g.eos then x
  else
    match g.walk x.start (t.bytesOf tok) with
    | some w =>
      { x with state := w.state, stack := w.stack, undoValid := true, undoState := x.state, undoDepth := x.stack.length,
               undoLow := w.low, undo := (x.stack.take (x.stack.length - w.low)).reverse }
    | none =>
      { x with undoValid := true, undoState := x.state, undoDepth := x.stack.length, undoLow := x.stack.length, undo := [] }

/-- The state restored from the undo fields (R293). -/
def GramState.rollback (x : GramState) : GramState :=
  if x.undoValid then
    { x with state := x.undoState, stack := x.undo.reverse ++ x.stack.drop (x.stack.length - x.undoLow), undoValid := false }
  else x

/-- The start state of a grammar (R290 mode 1). -/
def startGram (frame id : Nat) (g : Grammar) : GramState :=
  { frame := frame, id := id, loadGen := g.loadGen, state := g.image.start,
    stack := if g.image.startTop = 0xFFFF then [] else [g.image.startTop], undoValid := false, undoState := 0, undoDepth := 0,
    undoLow := 0, undo := [] }

-- The registry (R285 to R287) ----------------------------------------------------------------------------------------------------------

/-- The text table set of a context: its own, or that of its partition's main context for a fallback (R250). -/
def State.textOf (s : State) (p c : Nat) : Option TextSet :=
  match s.ctx p c with
  | some x => x.img.text
  | none => none

/-- The lowest free grammar ID of a partition (R285). -/
def State.freeGrammar (s : State) (p : Nat) : Option Nat := (List.range 1023).find? (fun i => !(s.grammars.has (p, i)))

/-- GRM_LOAD (R285, R286). -/
def doGrmLoad (u : Sub) (main : Nat) (img : GrmImage) (s : State) : State :=
  let p := s.subPart u
  if u.resv then s.complete u .configReservedField
  else if !s.mainCtx p main then s.complete u .configContextKind
  else
    match s.textOf p main with
    | none => s.complete u .configNoTokenizer
    | some t =>
      match img.offence t with
      | some off => s.complete u .configGrammarImage off
      | none =>
        match s.freeGrammar p with
        | none => s.complete u .limitGrammars
        | some id =>
          let n := ceilDiv img.bytes 4096
          match s.room p 0 n with
          | .refused => s.complete u .quotaLpddr6
          | .waits => s.waitFrames p u (.grmLoad main img)
          | .fits =>
            if !s.bondRoom p then s.waitBond p noSlot u (.grmLoad main img)
            else
              match s.allocMors p ⟨p, .priv, 0, 0, []⟩ n with
              | none => s.complete u .quotaLpddr6
              | some (fs, s1) =>
                let gen := (s1.loadGens.getD (p, id) 0 + 1) % 65536
                let s2 := { s1 with grammars := s1.grammars.set (p, id) ⟨main, img, gen, false, 0, fs⟩,
                                    loadGens := s1.loadGens.set (p, id) gen }
                (s2.bondOnce p).complete u .ok id

/-- Releases a registered grammar with its frames (R287). -/
def State.dropGrammar (s : State) (p id : Nat) : State :=
  match s.grammars.get? (p, id) with
  | none => s
  | some g => { s with grammars := s.grammars.erase (p, id) }.freeMors g.frames

/-- A request that used a grammar has ended (R287). -/
def State.leaveGrammar (s : State) (p : Nat) (id : Option Nat) : State :=
  match id with
  | none => s
  | some i =>
    match s.grammars.get? (p, i) with
    | none => s
    | some g =>
      let g' := { g with users := g.users - 1 }
      let s := { s with grammars := s.grammars.set (p, i) g' }
      if g'.unloading && g'.users = 0 then (s.bondOnce p).dropGrammar p i else s

/-- GRM_UNLOAD (R287). -/
def doGrmUnload (u : Sub) (id : Nat) (s : State) : State :=
  let p := s.subPart u
  if u.resv then s.complete u .configReservedField
  else
    match s.grammars.get? (p, id) with
    | none => s.complete u .configGrammarUnknown
    | some g =>
      if g.unloading then s.complete u .configGrammarUnknown
      else if g.users = 0 then ((s.bondOnce p).dropGrammar p id).complete u .ok
      else { s with grammars := s.grammars.set (p, id) { g with unloading := true } }.complete u .ok

/-- The grammar whose image stands behind a session's state. -/
def State.grammarOf (s : State) (p : Nat) (x : GramState) : Option Grammar :=
  match s.grammars.get? (p, x.id) with
  | some g => if g.loadGen = x.loadGen then some g else none
  | none => none

end Sys2Proof.Machine
end

