-- ==== Sys2Proof/Machine/Sampler.lean ====
section
/-!
DEFINITION. The sampler: the stages of R308, penalty counts and the draw (09_sampling_and_ending.md R301 to R316).
-/

namespace Sys2Proof.Machine

-- SAMPLE_OPTS (R301) -----------------------------------------------------------------------------------------------------------

/-- Whether an FP32 pattern is finite and lies between two bounds in hundredths, each as the FP32 nearest to it
(DEDUCED, log entry 16). -/
def f32Between (w : Nat) (lo hi : Int) : Bool :=
  let b (i : Int) : Val := v32 (fp32.encode (.fin (decide (i < 0)) i.natAbs 100))
  (v32 w).isFin && !((v32 w).lt (b lo)) && !((b hi).lt (v32 w))

/-- Whether every field of SAMPLE_OPTS is in range (R301). -/
def SampleOpts.inRange (o : SampleOpts) : Bool :=
  (f32Between o.temperature.toNat 0 0 || f32Between o.temperature.toNat 1 10000)
    && f32Between o.topP.toNat 0 100 && !((v32 o.topP.toNat).eqv Val.zero)
    && f32Between o.minP.toNat 0 100 && (v32 o.minP.toNat).lt (.fin false 1 1)
    && f32Between o.rep.toNat 1 10000 && f32Between o.freq.toNat (-10000) 10000 && f32Between o.pres.toNat (-10000) 10000
    && decide (o.maxTokens ≤ 1048576) && decide (o.topK ≤ 1024) && decide (o.penWindow ≤ 65536)

-- Penalty counts (R312 to R314) ----------------------------------------------------------------------------------------------------

/-- Entries of the penalty table. -/
def penaltyEntries : Nat := 65536

/-- A token enters the window. -/
def Penalty.enter (p : Penalty) (tok : Nat) : Penalty :=
  match p.counts.get? tok with
  | some c => { p with counts := p.counts.set tok (c + 1) }
  | none =>
    if p.counts.length < penaltyEntries then { p with counts := p.counts.set tok 1 }
    else { p with present := if p.present.contains tok then p.present else p.present ++ [tok], overflow := p.overflow + 1,
                  overflowed := true }

/-- A token leaves the window. -/
def Penalty.leave (p : Penalty) (tok : Nat) : Penalty :=
  match p.counts.get? tok with
  | some c => { p with counts := p.counts.set tok (c - 1) }
  | none => { p with overflow := p.overflow - 1 }

/-- Whether a log entry counts in the window (R312). -/
def LogEntry.counts (e : LogEntry) (penInput : Bool) : Bool := penInput || e.generated

/-- The window slides over a log that has just grown by one entry (R312). -/
def Penalty.slide (p : Penalty) (o : SampleOpts) (log : List LogEntry) : Penalty :=
  let l := log.length
  let p := match log.getLast? with
    | some e => if o.penWindow ≠ 0 && e.counts o.penInput then p.enter e.token else p
    | none => p
  if o.penWindow ≠ 0 && o.penWindow < l then
    match log[l - 1 - o.penWindow]? with
    | some e => if e.counts o.penInput then p.leave e.token else p
    | none => p
  else p

/-- The penalty state over the window of a log, taken in log order (R312, R313). -/
def Penalty.ofLog (o : SampleOpts) (log : List LogEntry) : Penalty :=
  ((log.drop (log.length - o.penWindow)).filter (fun e => e.counts o.penInput)).foldl (fun p e => p.enter e.token)
    ⟨[], [], 0, false⟩

/-- The last entry of a log leaves the window, and the one that had left for it comes back (R325). -/
def Penalty.unslide (p : Penalty) (o : SampleOpts) (log : List LogEntry) : Penalty :=
  match log.getLast? with
  | none => p
  | some e =>
    let p := if o.penWindow ≠ 0 && e.counts o.penInput then p.leave e.token else p
    if o.penWindow ≠ 0 && o.penWindow < log.length then
      match log[log.length - 1 - o.penWindow]? with
      | some x => if x.counts o.penInput then p.enter x.token else p
      | none => p
    else p

/-- c_t (R312, R314). -/
def Penalty.count (p : Penalty) (tok : Nat) : Nat :=
  match p.counts.get? tok with
  | some c => c
  | none => if p.present.contains tok then ceilDiv p.overflow p.present.length else 0

-- The stages (R308) -------------------------------------------------------------------------------------------------------------------

/-- The largest finite FP32. -/
def f32Big : Nat := 0x7F7FFFFF

/-- An overflow of a finite value becomes the largest finite value of its sign (R308 orders 3 and 4). -/
def f32Sat (w : Nat) : Nat := if w = 0x7F800000 then f32Big else if w = 0xFF800000 then 0xFF7FFFFF else w

/-- Order 1: read a logit. -/
def readLogit (w : Nat) : Nat :=
  match v32 w with
  | .nan => f32NegInf
  | _ => if w = 0x7F800000 then f32Big else w

/-- Order 3: penalties. -/
def penalise (o : SampleOpts) (c z : Nat) : Nat :=
  if o.penWindow = 0 || c = 0 || z = f32NegInf then z
  else
    let z1 := f32Sat (if f32Lt 0 z then f32Div z o.rep.toNat else f32Mul z o.rep.toNat)
    let z2 := f32Sat (f32Sub z1 (f32Mul o.freq.toNat (fp32.encode (.ofNat c))))
    f32Sat (f32Sub z2 o.pres.toNat)

/-- Order 4: temperature. -/
def heat (o : SampleOpts) (z : Nat) : Nat := if z = f32NegInf then z else f32Sat (f32Div z o.temperature.toNat)

/-- A candidate: token and value. -/
structure Cand where
  tok : Nat
  v   : Nat
  deriving DecidableEq, Repr

/-- Descending value, ties to the lower token ID. -/
def Cand.before (a b : Cand) : Bool := f32Lt b.v a.v || (!(f32Lt a.v b.v) && decide (a.tok < b.tok))

/-- The logits after order 3; `allowed` none without a grammar. -/
def logitsAfter3 (o : SampleOpts) (pen : Penalty) (allowed : Option (List Nat)) (vocab : Nat) (ls : List Nat) : List Cand :=
  ((List.range vocab).zip ls).map (fun (p : Nat × Nat) =>
    let ok := match allowed with | none => true | some a => a.contains p.1
    { tok := p.1, v := if ok then penalise o (pen.count p.1) (readLogit p.2) else f32NegInf })

/-- The candidates whose value is finite. -/
def finite (cs : List Cand) : List Cand := cs.filter (fun c => c.v != f32NegInf)

/-- Order 6: the shortest leading run that reaches TOP_P; all where none does. -/
def topPRun (topP acc : Nat) (cs : List Cand) : List Cand :=
  match cs with
  | [] => []
  | c :: r =>
    let a := f32Add acc c.v
    if f32Lt a topP then c :: topPRun topP a r else [c]

/-- The generator's value u (R315). -/
def drawU (seed n : Nat) : Nat :=
  let m := 2 ^ 64
  let x := Nat.xor seed ((n * 0xD1B54A32D192ED03) % m)
  let x := (Nat.xor x (x / 2 ^ 30) * 0xBF58476D1CE4E5B9) % m
  let x := (Nat.xor x (x / 2 ^ 27) * 0x94D049BB133111EB) % m
  let x := Nat.xor x (x / 2 ^ 31)
  fp32.encode (.fin false (x / 2 ^ 40) (2 ^ 24))

/-- Walks the kept candidates to the drawn one (R315). -/
def pickCand (us acc : Nat) (cs : List Cand) : Option Nat :=
  match cs with
  | [] => none
  | c :: r =>
    let a := f32Add acc c.v
    if f32Lt a us then
      match pickCand us a r with
      | some t => some t
      | none => some c.tok
    else some c.tok

/-- The candidates that orders 4 to 7 keep, with p_t, in descending p_t. -/
def keptCands (o : SampleOpts) (cs : List Cand) : List Cand :=
  let hot := cs.map (fun c => { c with v := heat o c.v })
  let k := zeroActsAs o.topK 1024
  let cand := (sortBy Cand.before (finite hot)).take k
  let zmax := f32Max (hot.map (·.v))
  let e (z : Nat) := f32Exp (f32Sub z zmax)
  let den := f32SumOrdered (hot.map (fun c => e c.v))
  let ps := sortBy Cand.before (cand.map (fun c => { c with v := f32Div (e c.v) den }))
  let run := if o.topP.toNat = f32One then ps else topPRun o.topP.toNat 0 ps
  match run with
  | [] => []
  | h :: _ => run.filter (fun c => !(f32Lt c.v (f32Mul o.minP.toNat h.v)))

/-- The token that the sampler presents to the gate; none where every allowed token is −∞ after order 3 (R309, R310). -/
def sampleToken (o : SampleOpts) (seed n : Nat) (cs : List Cand) : Option Nat :=
  match leastBy Cand.before (finite cs) with
  | none => none
  | some best =>
    if (v32 o.temperature.toNat).eqv Val.zero then some best.tok
    else
      let kept := keptCands o cs
      pickCand (f32Mul (drawU seed n) (f32SumOrdered (kept.map (·.v)))) 0 kept

end Sys2Proof.Machine
end

