-- ==== Sys2Proof/Machine/Request.lean ====
section
/-!
DEFINITION. A running request: its emit ring, its token log, and its end (07_text_intake_and_streaming.md R268 to R274,
R804; 09_sampling_and_ending.md R320 to R325; 05 R168, R169).
-/

namespace Sys2Proof.Machine

open Sys2Proof

-- Emit ring (R270 to R274) ------------------------------------------------------------------------------------------------------

/-- Bytes of a record: header, and text padded to 16 B (R271). -/
def recordBytes (text : List Byte) : Nat := 16 + ceilDiv text.length 16 * 16

/-- Bytes that a record takes with the pad record that may stand before it (R272). -/
def Emit.need (e : Emit) (n : Nat) : Nat :=
  let size := 2 ^ e.ring.log2
  let off := e.head % size
  if size < off + n then size - off + n else n

/-- Whether a record fits between HEAD and TAIL (R274). -/
def Emit.fits (e : Emit) (n : Nat) : Bool := decide (e.head + e.need n ≤ e.tail + 2 ^ e.ring.log2)

/-- FLAGS of a record (R271). -/
def emitFlags (stop raw replaced : Bool) : Nat :=
  (if stop then 4 else 0) + (if raw then 2 else 0) + (if replaced then 1 else 0)

/-- Signals a request's record where it asked for that (R687). -/
def State.notifyEmit (s : State) (q : Req) : State :=
  if q.flags.notifyEmit then
    match q.sq with
    | none => s
    | some n =>
      match s.sq q.fn n with
      | some y => s.cqEvent q.fn y.cq
      | none => s
  else s

/-- Writes a text or end record, with a pad record before it where the ring's end is too near, then HEAD (R271 to R273). -/
def State.emitRecord (s : State) (q : Req) (e : Emit) (kind flags tokens endw : Nat) (text : List Byte) : Emit × State :=
  let size := 2 ^ e.ring.log2
  let off := e.head % size
  let n := recordBytes text
  let pad := size < off + n
  let s1 := if pad then (s.put (.emit q.fn (e.ring.base + off) ⟨e.seq, 2, 0, size - off - 16, tokens, 0, []⟩)).sealed q.fn else s
  let at_ := if pad then 0 else off
  let head := e.head + e.need n
  let s2 := (s1.put (.emit q.fn (e.ring.base + at_) ⟨e.seq, kind, flags, text.length, tokens, endw, text⟩)).sealed q.fn
  let s3 := s2.put (.head q.fn e.ring.ctrl head)
  ({ e with head := head, seq := e.seq + 1 }, s3.notifyEmit q)

-- Token log (R168, R169) ----------------------------------------------------------------------------------------------------------

/-- Gives a session's log frames for so many entries; none where the partition has no mortar frame. -/
def State.growLog (s : State) (slot n : Nat) : Option State :=
  let x := s.ses slot
  let need := logFramesFor n - x.logFrames.length
  match s.allocMors x.part ⟨x.part, .priv, 0, slot, []⟩ need with
  | none => none
  | some (fs, s1) => some (s1.modSes slot (fun y => { y with logFrames := y.logFrames ++ fs }))

/-- Appends entries to a session's log. -/
def State.addLog (s : State) (slot : Nat) (es : List LogEntry) : Option State :=
  match s.growLog slot ((s.ses slot).log.length + es.length) with
  | none => none
  | some s1 => some (s1.modSes slot (fun x => { x with log := x.log ++ es, sincePersist := x.sincePersist + es.length }))

-- The end of a request (R322, R268, R804) --------------------------------------------------------------------------------------------

/-- RESULT of a request's completion (R681). -/
def Req.result (q : Req) : Nat := q.committed % 2 ^ 32 + (q.lost % 2 ^ 32) * 2 ^ 32 + q.seed.toNat * 2 ^ 64

/-- Drops the slices and expert packets that wait for a session, each answered with the request's end status (R127, R140). -/
def State.answerWaiting (s : State) (slot : Nat) (st : Status) : State :=
  let ws := s.slices.filter (fun w => w.slot == slot)
  let es := s.expertWait.filter (fun w => w.slot == slot)
  let bs := (s.batches.map (fun kb => kb.2.experts.filter (fun w => w.slot == slot))).flatten
  let x := s.ses slot
  let c := s.ctxClass x.part x.main
  let (comp, epoch) := match s.req slot with | some q => (q.comp, q.epoch) | none => (x.comp, 0)
  let s := { s with slices := s.slices.filter (fun w => w.slot != slot),
                    expertWait := s.expertWait.filter (fun w => w.slot != slot),
                    batches := s.batches.map (fun (kb : Nat × Batch) =>
                      (kb.1, { kb.2 with experts := kb.2.experts.filter (fun w => w.slot != slot) })) }
  let s := { s with batches := s.batches.filter (fun kb =>
                      !kb.2.experts.isEmpty || s.slices.any (fun w => w.batch == some kb.1)) }
  let s := ws.foldl (fun a w => a.sendTo w.peer w.part epoch comp w.slice.handle w.tag c
    (.output ⟨w.slice.handle, w.slice.pos, w.slice.layer, w.slice.kvFirst, w.slice.kvCount, st, [], none⟩)) s
  (es ++ bs).foldl (fun a w => a.sendTo w.peer w.part epoch comp w.pkt.handle w.tag c (.expertAnswer w.pkt st [])) s

/-- Drops the entries of new columns that no position has filled (R117). -/
def State.dropUnfilled (s : State) (slot : Nat) : State :=
  let es := (s.ses slot).mortar.entries.filter (fun kv => kv.2.fill == 0 && !kv.2.shared && kv.2.tier != .remote)
  let s := s.dropEntries 0 es
  s.modSes slot (fun x => { x with mortar := { x.mortar with
    entries := x.mortar.entries.filter (fun kv => !(es.any (fun e => e.1 == kv.1))) } })

/-- Releases what a request holds: frames of its pending buffer and penalty table, its fallback mortar, its grammar. -/
def State.releaseReq (s : State) (q : Req) : State :=
  let s := s.freeTiles q.frames
  let s := (s.dropEntries 0 q.fbTiles).freeMors q.fbPages
  s.leaveGrammar q.part q.grammar

/-- The state of a session whose request has ended (R59): WAITING, or PULLING while a revive or pull continues. -/
def SesState.afterRequest (x : SesState) : SesState :=
  match x with
  | .active => .waiting
  | .opened => .opened
  | y => y

/-- The command that stays in progress on a session when its request ends: a revive or a move-in that the request did not
finish. -/
def State.opAfter (s : State) (slot : Nat) : SesOp :=
  if (s.ses slot).state = .pulling then
    if s.movesIn.has slot then .moveIn else if s.revives.has slot then .revive else .none
  else .none

/-- Posts the completion of a request and releases what it held (R322). FIRST_INDEX of the kind 3 stream, which carries no entry, is
open (R579, R580; log entry 45). -/
def State.finishReq (s : State) (slot : Nat) (q : Req) (st : Status) (report : Nat) : State :=
  let d := s.draw
  let s := d.2.sendStream q 3 st (Config.freeValue 21 d.1 % 2 ^ 32) []
  let s := s.answerWaiting slot st
  let s := s.releaseReq q
  let s := { s with reqs := s.reqs.erase slot, handoffs := s.handoffs.erase slot }
  let s := s.dropUnfilled slot
  let s := if Status.cls st = 0x0A then s else
    (if q.startedFallback || q.onFallback then s.contextServed q.part q.fbCtx else s).contextServed q.part q.main
  let s := (s.recordBond slot).tick
  let op := s.opAfter slot
  let s := s.modSes slot (fun x => { x with
    state := x.state.afterRequest, op := op, lastStatus := st, lastTag := q.tag, lastTokens := q.committed, lastUse := s.aon })
  s.post { fn := q.fn, sq := q.sq, tag := q.tag, status := st, result := BitVec.ofNat 128 q.result, report := report,
           notice := false, ends := some slot }

/-- Writes the end record where it fits, then completes the request; else the request waits in its ending phase (R804). -/
def State.writeEnd (s : State) (slot : Nat) (q : Req) (h : HeldEnd) (report : Nat) : State :=
  match q.emit with
  | none => s.finishReq slot q h.status report
  | some e =>
    if e.fits (recordBytes h.text) then
      let r := s.emitRecord q e 1 h.flags q.committed (h.status.toNat * 65536 + h.trimmed % 65536) h.text
      r.2.finishReq slot { q with emit := some r.1 } h.status report
    else
      (s.setReq slot { q with heldEnd := some h, held := none, phase := .ending, report := report }).bump
        Fld.TXT_RING_WAITS_COUNT q.part

/-- Aborts a session's handoff bond (R449, R463): its staged frames are released; a session that an exact re-prefill was
rebuilding returns to the state it held before (R191). -/
def State.abortHandoff (s : State) (slot : Nat) : State :=
  match s.handoffs.get? slot with
  | none => s
  | some h =>
    let s := (s.freeTiles (h.staged.map (·.2))).abortBond (s.ses slot).part h.bond
    let s := { s with handoffs := s.handoffs.erase slot }
    if h.rebuild then (s.recordBond slot).modSes slot (fun x => { x with state := h.prior }) else s

/-- The end of a request that is still queued (R268, R272, R322): its end record goes out where it fits, then its completion; else it
waits for room (R804). -/
def State.endLate (s : State) (q : Req) (st : Status) : State :=
  match q.emit with
  | none => s.completeFor ⟨q.fn, q.sq, q.tag⟩ st 0 q.report
  | some e =>
    if e.fits (recordBytes []) then
      (s.emitRecord q e 1 0 0 (st.toNat * 65536) []).2.completeFor ⟨q.fn, q.sq, q.tag⟩ st 0 q.report
    else { s with lateEnds := s.lateEnds ++ [{ q with phase := .ending, heldEnd := some ⟨st, [], 0, 0⟩ }] }.bump
      Fld.TXT_RING_WAITS_COUNT q.part

/-- TAIL has been read again for the end record of a request that ended while queued (R804). -/
def State.pollLate (s : State) (slot tail : Nat) : State :=
  match s.lateEnds.find? (fun q => q.slot == slot) with
  | none => s
  | some q =>
    match q.emit, q.heldEnd with
    | some e, some h =>
      let e' := { e with tail := tail }
      let q' := { q with emit := some e' }
      if e'.fits (recordBytes []) then { s with lateEnds := s.lateEnds.erase q }.endLate q' h.status
      else { s with lateEnds := s.lateEnds.map (fun r => if r = q then q' else r) }
    | _, _ => s

/-- Ends a request that has started (R322): what waits for it is answered, the holdbacks flush, the end record is written and the completion posted. An end
that is decided already stands. -/
def State.endReq (s : State) (slot : Nat) (st : Status) (trimmed : Nat := 0) (report : Nat := 0) : State :=
  match s.req slot with
  | none => s
  | some q =>
    if q.phase = .ending then s
    else
      let f := textFlush q.args.text q.utf8 q.stopHold
      let s := s.bump Fld.TXT_REPLACED_COUNT q.part f.replaced
      let q := { q with phase := .ending, utf8 := [], stopHold := [], held := none, pending := [],
                        total := { q.total with running := false }, first := { q.first with running := false },
                        inter := { q.inter with running := false } }
      let stop (s : State) : State :=
        if Status.cls st = 2 && st != Status.deadlineOnFallback then s.bump Fld.SCH_DL_FAILS_COUNT q.part
        else if st = .grammarStall then s.bump Fld.GRM_STALLS_COUNT q.part
        else if st = .peerBadLogits then s.bump Fld.SMP_BAD_LOGITS_COUNT q.part
        else s
      (stop (((s.answerWaiting slot st).abortHandoff slot).setReq slot q)).writeEnd slot q ⟨st, f.bytes.map (·.1),
        emitFlags false (hasOrigin .raw f.bytes) (hasOrigin .replaced f.bytes), trimmed⟩ report

end Sys2Proof.Machine
end

