-- ==== Sys2Proof/Machine/Vector.lean ====
section
/-!
DEFINITION. The arithmetic of attention, masses, dressing and private experts on lists of values
(03_tiles_and_mortar.md R91, 04_attention.md R137 to R158, 05 R171, R182, R183, 06 R220).
-/

namespace Sys2Proof.Machine

-- Rotary (R142 to R144) ----------------------------------------------------------------------------------------------------

/-- Whether (n / d) ^ dims × (bn / bd) ^ e is at most 1, exactly. -/
def powLeOne (n d dims bn bd e : Nat) : Bool := decide (n ^ dims * bn ^ e ≤ d ^ dims * bd ^ e)

/-- The largest FP32 pattern whose value v has v ^ dims × base ^ e ≤ 1, bit by bit from the top. -/
def rootBits (dims bn bd e : Nat) (i acc : Nat) : Nat :=
  match i with
  | 0 => acc
  | i + 1 =>
    let c := acc + 2 ^ i
    let ok := match fp32.decode c with
      | .fin _ n d => decide (c ≤ 0x7F7FFFFF) && powLeOne n d dims bn bd e
      | _ => false
    rootBits dims bn bd e i (if ok then c else acc)

/-- base ^ (−e / dims), rounded once from its exact value to nearest even FP32 (R143 step 1). -/
def f32RootPow (base : Nat) (e dims : Nat) : Nat :=
  match v32 base with
  | .fin _ bn bd =>
    let lo := rootBits dims bn bd e 31 0
    match fp32.decode lo, fp32.decode (lo + 1) with
    | .fin _ n d, .fin _ n' d' =>
      let mn := n * d' + n' * d
      let md := 2 * d * d'
      let l := mn ^ dims * bn ^ e
      let r := md ^ dims * bd ^ e
      if l < r then lo + 1 else if r < l then lo else (if lo % 2 = 0 then lo else lo + 1)
    | _, _ => lo
  | _ => 0

/-- The angle of a logical position and pair index (R143). -/
def rotAngle (r : Rotary) (pos k : Nat) : Nat :=
  f32Mul (f32Mul (fp32.encode (.ofNat pos)) r.scale.toNat) (f32RootPow r.base.toNat (2 * k) r.dims)

/-- Rotates one pair by an angle (R143). Each product is rounded to FP32 before the sum or difference, which R143 does not state (DESIGN
CHOICE, log entry 74). -/
def rotPair (ang a b : Nat) : Nat × Nat :=
  let c := f32Cos ang
  let s := f32Sin ang
  (f32Sub (f32Mul a c) (f32Mul b s), f32Add (f32Mul a s) (f32Mul b c))

/-- The places of pair k in a vector (R142 ROPE_LAYOUT). -/
def rotPlaces (r : Rotary) (k : Nat) : Nat × Nat := if r.split then (k, k + r.dims / 2) else (2 * k, 2 * k + 1)

/-- Rotates an FP32 vector at a logical position; a layer whose mask bit is 0 is left unrotated (R142 to R144). -/
def rotateVec (r : Rotary) (layer pos : Nat) (v : List Nat) : List Nat :=
  if r.dims = 0 || !(r.layers.contains layer) then v
  else
    (List.range (r.dims / 2)).foldl (fun acc k =>
      let ij := rotPlaces r k
      let ab := rotPair (rotAngle r pos k) (nthD v ij.1 0) (nthD v ij.2 0)
      setNth (setNth acc ij.1 ab.1) ij.2 ab.2) v

-- Feeds (R158) ----------------------------------------------------------------------------------------------------------------

/-- FP32 values of a vector quantised by R91 to FP8 E4M3 and read back: element times scale, exact in FP32. -/
def fp8Feed (v : List Nat) : List Nat :=
  let q := quantVec .e4m3 v
  dequantVec .e4m3 q.1 q.2

/-- The key feed of a stored position (R158). -/
def keyFeed (g : Geometry) (r : Rotary) (layer : Nat) (p : TPos) : List Nat :=
  fp8Feed (rotateVec r layer p.pos (dequantVec g.kelem p.kscales p.key))

/-- The value feed of a stored position (R158). -/
def valueFeed (g : Geometry) (p : TPos) : List Nat := fp8Feed (dequantVec g.velem p.vscales p.value)

/-- The dot product of two fed vectors, accumulated in FP32 (R213; the order is open, log entry 6). -/
def f32Dot (op : Nat) (a b : List Nat) : Nat := f32SumFree op (f32Prods a b)

-- A row (R137) --------------------------------------------------------------------------------------------------------------------

/-- What one core serves of a pair: fed keys and values of its positions, in mortar order. -/
structure CorePart where
  core   : Nat
  keys   : List (List Nat)
  values : List (List Nat)
  deriving DecidableEq, Repr

/-- Pass 1 of a row on one core: the scores. -/
def passOne (d : Nat) (q : List Nat) (c : CorePart) : List Nat :=
  let w := f32Rsqrt (fp32.encode (.ofNat d))
  c.keys.map (fun k => f32Mul (f32Dot 20 q k) w)

/-- The normalised scores of a core's positions in pass 2. -/
def normalise (m s : Nat) (xs : List Nat) : List Nat := xs.map (fun x => f32Div (f32Exp (f32Sub x m)) s)

/-- The scores as the value product takes them: quantised by R91 per block of 32 positions (R158). R158 does not say where the blocks begin:
they are cut over the positions of a core, across its tiles, the pending position last (DESIGN CHOICE, log entry 75). -/
def scoreFeed (xs : List Nat) : List Nat := fp8Feed xs

/-- The partial output of a core: for each element of the head dimension, the sum over positions. -/
def partialOut (d : Nat) (xs : List Nat) (values : List (List Nat)) : List Nat :=
  let fs := scoreFeed xs
  (List.range d).map (fun k => f32SumFree 22 (f32Prods fs (values.map (fun v => nthD v k 0))))

/-- The result of a row: the output vector in BF16 and each core's normalised scores. -/
structure RowOut where
  out    : List Nat
  scores : List (List Nat)
  deriving DecidableEq, Repr

/-- One row over the parts of its cores, in ascending core number; a core without positions takes no part (R137). -/
def attendRow (d : Nat) (q : List Nat) (parts : List CorePart) : RowOut :=
  let parts := parts.filter (fun c => !c.keys.isEmpty)
  let xs := parts.map (passOne d q)
  let ms := xs.map f32Max
  let ss := (xs.zip ms).map (fun p => f32SumFree 21 (p.1.map (fun x => f32Exp (f32Sub x p.2))))
  let m := f32Max ms
  let s := f32SumOrdered ((ss.zip ms).map (fun p => f32Mul p.1 (f32Exp (f32Sub p.2 m))))
  let ns := xs.map (normalise m s)
  let os := (ns.zip parts).map (fun p => partialOut d p.1 p.2.values)
  { out := (List.range d).map (fun k => f32toBf16 (f32SumOrdered (os.map (fun o => nthD o k 0)))), scores := ns }

-- Masses (R145, R171) ---------------------------------------------------------------------------------------------------------------

/-- The scores of one position combined over the rows of its key/value head (R145): mean or maximum. -/
def combineMass (mode : Nat) (xs : List Nat) : Nat :=
  if mode = 0 then 0
  else if mode = 2 then f32Max xs
  else f32Div (f32SumFree 23 xs) (fp32.encode (.ofNat xs.length))

/-- The decay factor f^δ (R171): computed exactly, rounded once to FP32; below the smallest subnormal it is zero. From a
distance of 40,000 on, every factor below 1 is below the smallest subnormal. -/
def decayFactor (decay delta : Nat) : Nat :=
  let f := Nat.min decay 256
  if delta = 0 || f = 256 then f32One
  else if 40000 < delta || f = 0 then 0
  else
    let n := f ^ delta
    let d := 256 ^ delta
    if n * 2 ^ 149 < d then 0 else fp32.encode (.fin false n d)

/-- One BF16 accumulator decayed (R171). -/
def decayMass (factor m : Nat) : Nat := f32toBf16 (f32Mul (bf16to32 m) factor)

/-- The decay distance of a tile: requests since its masses were last decayed. -/
def decayDelta (reqCount epoch : Nat) : Nat := (reqCount + 2 ^ 32 - epoch % 2 ^ 32) % 2 ^ 32

/-- A tile with its masses decayed to a request count (R171). -/
def Tile.decay (t : Tile) (decay reqCount : Nat) : Tile :=
  if t.massEpoch = reqCount then t
  else
    let f := decayFactor decay (decayDelta reqCount t.massEpoch)
    { t with massEpoch := reqCount,
             positions := t.positions.map (fun p => { p with mass := BitVec.ofNat 16 (decayMass f p.mass.toNat) }) }

/-- Adds combined scores to a tile's accumulators, position by position (R145). -/
def Tile.addMass (t : Tile) (xs : List Nat) : Tile :=
  { t with positions := (t.positions.zip xs).map (fun p =>
      { p.1 with mass := BitVec.ofNat 16 (f32toBf16 (f32Add (bf16to32 p.1.mass.toNat) p.2)) }) }

-- Functions of the vector unit without a stated accuracy (R220) -------------------------------------------------------------------------

/-- SiLU of an FP32 value: its rounding is not stated (log entry 15). -/
def f32Silu (x : Nat) : Nat := if v32 x = .nan then 0x7FC00000 else Config.fp32Sum 30 [x] % 2 ^ 32
/-- GELU (tanh form) of an FP32 value: its rounding is not stated (log entry 15). -/
def f32Gelu (x : Nat) : Nat := if v32 x = .nan then 0x7FC00000 else Config.fp32Sum 31 [x] % 2 ^ 32

-- Private experts (R152) ------------------------------------------------------------------------------------------------------------------

/-- A row of weights read as FP32 values: element times its block's scale. -/
def weightRow (e : Elem) (w : List Nat × List Nat) : List Nat := dequantVec e w.2 w.1

/-- The expert's output in BF16 (R152). -/
def expertOut (x : Expert) (gate : Nat) (v : List Nat) : List Nat :=
  let i := fp8Feed (v.map bf16to32)
  let g := x.gate.map (fun w => f32Dot 24 (weightRow x.elem w) i)
  let u := x.up.map (fun w => f32Dot 25 (weightRow x.elem w) i)
  let a := if x.gelu then g.map f32Gelu else g.map f32Silu
  let h := (a.zip u).map (fun p => f32Mul p.1 p.2)
  x.down.map (fun w => f32toBf16 (f32Mul gate (f32Dot 26 (weightRow x.elem w) h)))

-- Dressing (R181 to R184) -------------------------------------------------------------------------------------------------------------------

/-- A private position of a pair as dressing sees it: the stored position, its decayed mass in FP32, and its key and value
as FP32. -/
structure DPos where
  p    : TPos
  m    : Nat
  k    : List Nat
  v    : List Nat
  deriving DecidableEq, Repr

/-- The Euclidean length of an FP32 vector, squared; sums run in the order of the elements. -/
def sumSq (k : List Nat) : Nat := f32SumOrdered (f32Prods k k)

/-- The cosine of two FP32 vectors (R183): zero where one has zero norm. -/
def f32Cosine (a b : List Nat) : Nat :=
  let na := sumSq a
  let nb := sumSq b
  if f32Lt 0 na && f32Lt 0 nb then
    f32Mul (f32SumOrdered (f32Prods a b)) (f32Mul (f32Rsqrt na) (f32Rsqrt nb))
  else 0

/-- Distance in logical position. -/
def posDist (a b : Nat) : Nat := if a ≤ b then b - a else a - b

/-- The kept neighbours of a dropped position: up to r below and r above, nearest first (R182). -/
def neighbours (r : Nat) (keep : List DPos) (d : DPos) : List DPos :=
  let below := keep.filter (fun n => decide (n.p.pos < d.p.pos))
  let above := keep.filter (fun n => decide (d.p.pos < n.p.pos))
  (below.drop (below.length - r)) ++ above.take r

/-- The neighbour with the largest cosine; ties go to the smaller distance, then to the lower position (R182). -/
def mergeTarget (r : Nat) (keep : List DPos) (d : DPos) : Option DPos :=
  leastBy (fun a b =>
    let ca := f32Cosine d.k a.k
    let cb := f32Cosine d.k b.k
    if f32Lt cb ca then true
    else if f32Lt ca cb then false
    else if posDist a.p.pos d.p.pos < posDist b.p.pos d.p.pos then true
    else if posDist b.p.pos d.p.pos < posDist a.p.pos d.p.pos then false
    else decide (a.p.pos < b.p.pos)) (neighbours r keep d)

/-- The kept positions (R182): the first A, the last W, and the largest masses among the rest up to B; ties go to the
larger logical position. -/
def keptPositions (a w b : Nat) (rs : List DPos) : List DPos :=
  let n := rs.length
  let idx := List.range n
  let fixed := idx.filter (fun i => decide (i < a) || decide (n - w ≤ i))
  let rest := idx.filter (fun i => !(fixed.contains i))
  let byMass := sortBy (fun i j =>
    match rs[i]?, rs[j]? with
    | some x, some y =>
      if f32Lt y.m x.m then true else if f32Lt x.m y.m then false else decide (y.p.pos < x.p.pos)
    | _, _ => false) rest
  let chosen := fixed ++ byMass.take (b - fixed.length)
  (idx.filter (fun i => chosen.contains i)).filterMap (fun i => rs[i]?)

/-- The weighted mean of vectors (R182): sums in ascending logical position, in FP32. -/
def weightedMean (ws : List Nat) (vs : List (List Nat)) (d : Nat) : List Nat :=
  let total := f32SumOrdered ws
  (List.range d).map (fun k => f32Div (f32SumOrdered (f32Prods ws (vs.map (fun v => nthD v k 0)))) total)

/-- A kept position with its group merged in (R182); with an empty group it is copied unchanged. -/
def mergeGroup (g : Geometry) (n : DPos) (group : List DPos) : TPos :=
  if group.isEmpty then { n.p with mass := BitVec.ofNat 16 (f32toBf16 n.m) }
  else
    let all := sortBy (fun (a b : DPos) => decide (a.p.pos < b.p.pos)) (n :: group)
    let ms := all.map (·.m)
    let sum := f32SumOrdered ms
    let ws := if f32Lt 0 sum then ms else all.map (fun _ => f32One)
    let k := quantVec g.kelem (weightedMean ws (all.map (·.k)) g.d)
    let v := quantVec g.velem (weightedMean ws (all.map (·.v)) g.d)
    { key := k.2, value := v.2, kscales := k.1, vscales := v.1, mass := BitVec.ofNat 16 (f32toBf16 sum), pos := n.p.pos,
      merged := true, mcount := Nat.min 1023 (n.p.mcount + group.foldl (fun c x => c + 1 + x.p.mcount) 0) }

/-- Dresses the private positions of a pair, ascending in logical position (R182). -/
def dressPair (g : Geometry) (a w b r : Nat) (rs : List DPos) : List TPos :=
  let keep := keptPositions a w b rs
  let dropped := rs.filter (fun x => !(keep.any (fun n => n.p.pos == x.p.pos)))
  let targets := dropped.map (fun d => (d, mergeTarget r keep d))
  keep.map (fun n => mergeGroup g n ((targets.filter (fun t =>
    match t.2 with | some m => m.p.pos == n.p.pos | none => false)).map (·.1)))

/-- The private positions of tiles as dressing sees them, with masses decayed to a request count but not written back
(R172, R181). -/
def dressIn (g : Geometry) (decay reqCount : Nat) (ts : List Tile) : List DPos :=
  (ts.map (fun t => (t.decay decay reqCount).positions.map (fun p =>
    { p := p, m := bf16to32 p.mass.toNat, k := dequantVec g.kelem p.kscales p.key,
      v := dequantVec g.velem p.vscales p.value : DPos }))).flatten

end Sys2Proof.Machine
end

