-- ==== Sys2Proof/Machine/Gate.lean ====
section
/-!
DEFINITION. The commit gate: logit packets, masks, draws, the commit of a token, holds and cancels
(04_attention.md R128 to R131, 07 R274, R804, 08 R292 to R297, 09 R303 to R325, 17 R577, R578).
-/

namespace Sys2Proof.Machine

open Sys2Proof

-- New columns and the pending position (R110, R117, R131) ---------------------------------------------------------------------------

/-- The context whose model a request runs on now. -/
def Req.model (q : Req) : Nat := if q.onFallback then q.fbCtx else q.main

/-- The image of the context that a request runs on. -/
def State.modelOf (s : State) (q : Req) : Option CtxImage := (s.ctx q.part q.model).map (·.img)

/-- The image of a session's main context, which its handoffs fill. -/
def State.mainImg (s : State) (slot : Nat) : Option CtxImage :=
  let x := s.ses slot
  (s.ctx x.part x.main).map (·.img)

/-- The position of the step whose slices and expert packets are due (R125, R127 order 5): NEXT_POS, also before the opening draw,
whose token that step decodes. On the fallback model (R352, R353) it is the first position without keys and values in the
fallback mortar: that of the last token of the log, or before the opening draw the one after it. -/
def State.stepPos (s : State) (q : Req) : Nat :=
  let x := s.ses q.slot
  if q.onFallback then (if q.opening then x.log.length else x.log.length - 1) else x.nextPos

/-- The position that a logit chunk of the draw that is due carries (R578): the step's, and for the opening draw the one before it
(R305). -/
def State.duePos (s : State) (q : Req) : Nat := if q.opening then s.stepPos q - 1 else s.stepPos q

/-- Whether every head of every layer of the step has been served (R130); the opening draw has no slices (R305). -/
def State.allServed (s : State) (q : Req) : Bool :=
  q.opening || (match s.modelOf q with | some c => decide (c.pairs ≤ q.served.length) | none => false)

/-- Room for a tile of a column in the tile store of its home core (R117, R134): the core and the offset. -/
def State.storeSpot (s : State) (slot t : Nat) : Option (Nat × Nat) :=
  let x := s.ses slot
  match s.homeCore slot t with
  | some e => (s.storePlace x.part x.main e).map (fun o => (e, o))
  | none => none

/-- A place for a new tile of a session: the home core's share where it has room, else LPDDR6 (R117). Answers the entry's
tier and FRAME, and the location. -/
def State.newPlace (s : State) (slot t : Nat) : Option (Tier × Nat × TileLoc × State) :=
  let x := s.ses slot
  match s.storeSpot slot t with
  | some (e, o) => some (.store, storeFrame e o, .store e o, s)
  | none =>
    match s.allocTile x.part ⟨x.part, .priv, 0, slot, []⟩ with
    | some (n, s1) => some (.lpddr, n, .frame n, s1)
    | none => none

/-- An empty tile of a session for a pair. -/
def State.emptyTile (s : State) (slot heads j : Nat) (g : Geometry) : Tile :=
  { source := s.handleOf slot, layer := if heads = 0 then 0 else j / heads, head := if heads = 0 then 0 else j % heads,
    geom := g, dressed := false, shared := false, prefixId := 0xFFFF, massEpoch := (s.ses slot).reqCount,
    positions := [] }

/-- Gives one pair a new tile where its last one is full (R117, R185). -/
def State.newColumn (s : State) (slot : Nat) (c : CtxImage) (j : Nat) : Option State :=
  let m := (s.ses slot).mortar
  let last := m.lastOf c.pairs j
  let full := match last with | some l => decide (c.geom.p ≤ l.2.fill) | none => true
  if !full then some s
  else
    let t := match last with | some l => l.1 + 1 | none => 0
    let e := t * c.pairs + j
    match s.growMortar (s.ses slot).part slot m [e] with
    | none => none
    | some (m1, s1) =>
      match s1.newPlace slot t with
      | none => none
      | some (tier, frame, loc, s2) =>
        let entry : MEntry := ⟨tier, c.geom.fmt8, false, false, 0, 0, frame⟩
        let s3 := s2.putTile loc (s.emptyTile slot c.heads j c.geom)
        some (s3.modSes slot (fun x => { x with mortar := { m1 with entries := m1.entries.set e entry } }))

/-- Gives every pair of a list a new tile where its last one is full. -/
def State.newColumns (s : State) (slot : Nat) (c : CtxImage) (js : List Nat) : Option State :=
  match js with
  | [] => some s
  | j :: r =>
    match s.newColumn slot c j with
    | none => none
    | some s1 => s1.newColumns slot c r

/-- The stored form of a pending key and value (R91, R131). -/
def Pend.stored (g : Geometry) (pos : Nat) (pd : Pend) : TPos :=
  let k := quantVec g.kelem (pd.key.map bf16to32)
  let v := quantVec g.velem (pd.value.map bf16to32)
  { key := k.2, value := v.2, kscales := k.1, vscales := v.1, mass := BitVec.ofNat 16 (f32toBf16 pd.mass), pos := pos,
    merged := false, mcount := 0 }

/-- DRS_CFG.DECAY of a partition. -/
def State.decayOf (s : State) (p : Nat) : Nat := s.fld Fld.DRS_CFG_DECAY p

/-- A tile with a position appended (R131, R171). -/
def Tile.append (t : Tile) (decay reqCount : Nat) (x : TPos) : Tile :=
  let t := t.decay decay reqCount
  { t with positions := t.positions ++ [x] }

/-- NaNs among a pending key and value, which the commit quantises to zero (R221). -/
def Pend.nans (pd : Pend) : Nat := ((pd.key ++ pd.value).filter (fun w => bf16.decode w == .nan)).length

/-- Counts quantised NaNs on a core (R221). -/
def State.countNans (s : State) (core : Option Nat) (n : Nat) : State :=
  match core with
  | some e => if n = 0 then s else s.bump Fld.COR_NAN_COUNT e n
  | none => s

/-- Installs a step's pending key and value of one pair into its last tile; a shared last tile is copied first (R110). -/
def State.installPair (s : State) (slot : Nat) (c : CtxImage) (pos j : Nat) (pd : Pend) : Option State :=
  let x := s.ses slot
  match x.mortar.lastOf c.pairs j with
  | none => some s
  | some (t, e) =>
    let s := s.countNans (s.homeCore slot t) pd.nans
    match s.tileAt e with
    | none => some s
    | some tile =>
      let k := t * c.pairs + j
      let stored := pd.stored c.geom pos
      if e.shared then
        match s.allocTile x.part ⟨x.part, .priv, 0, slot, []⟩ with
        | none => none
        | some (n, s1) =>
          let own : Tile := { tile with source := s.handleOf slot, shared := false, prefixId := 0xFFFF, massEpoch := x.reqCount }
          let s2 := (s1.copyTile (.frame e.frame) (.frame n) (own.append 256 x.reqCount stored)).dropRef e.frame
          some (s2.modSes slot (fun y => { y with mortar := { y.mortar with
            entries := y.mortar.entries.set k { e with shared := false, frame := n, fill := e.fill + 1 } } }))
      else
        match e.loc with
        | none => some s
        | some l =>
          let s2 := s.copyTile l l (tile.append (s.decayOf x.part) x.reqCount stored)
          some (s2.modSes slot (fun y => { y with mortar := { y.mortar with
            entries := y.mortar.entries.set k { e with fill := e.fill + 1 } } }))

/-- Installs the pending keys and values of a step in every pair. -/
def State.installAll (s : State) (slot : Nat) (c : CtxImage) (pos : Nat) (ps : List ((Nat × Nat) × Pend)) : Option State :=
  match ps with
  | [] => some s
  | (lh, pd) :: r =>
    match s.installPair slot c pos (lh.1 * c.heads + lh.2) pd with
    | none => none
    | some s1 => s1.installAll slot c pos r

/-- The last entry of a pair in a fallback mortar. -/
def lastEntry (es : AMap Nat MEntry) (pairs j : Nat) : Option (Nat × MEntry) :=
  (sortBy (fun (a b : Nat × MEntry) => decide (a.1 < b.1)) (es.filter (fun kv => pairOf pairs kv.1 == j))).getLast?

/-- Installs one pending key and value into a fallback mortar, whose tiles lie in LPDDR6 (R352, R353). -/
def State.installFb (s : State) (q : Req) (c : CtxImage) (pos j : Nat) (pd : Pend) (es : AMap Nat MEntry) :
    Option (AMap Nat MEntry × State) :=
  let stored := pd.stored c.geom pos
  let last := lastEntry es c.pairs j
  let room := match last with | some (_, e) => decide (e.fill < c.geom.p) | none => false
  match last, room with
  | some (k, e), true =>
    match s.tiles.get? (.frame e.frame) with
    | none => some (es, s)
    | some t => some (es.set k { e with fill := e.fill + 1 },
                      s.putTile (.frame e.frame) { t with positions := t.positions ++ [stored] })
  | _, _ =>
    let t := match last with | some (k, _) => colOf c.pairs k + 1 | none => 0
    match s.allocTile q.part ⟨q.part, .priv, 0, q.slot, []⟩ with
    | none => none
    | some (n, s1) =>
      let tile := { s.emptyTile q.slot c.heads j c.geom with positions := [stored] }
      some (es.set (t * c.pairs + j) ⟨.lpddr, c.geom.fmt8, false, false, 1, 0, n⟩, s1.putTile (.frame n) tile)

/-- Installs a step of the fallback model. -/
def State.installFbAll (s : State) (q : Req) (c : CtxImage) (pos : Nat) (ps : List ((Nat × Nat) × Pend))
    (es : AMap Nat MEntry) : Option (AMap Nat MEntry × State) :=
  match ps with
  | [] => some (es, s)
  | (lh, pd) :: r =>
    match s.installFb q c pos (lh.1 * c.heads + lh.2) pd es with
    | none => none
    | some (es1, s1) => s1.installFbAll q c pos r es1

/-- Mortar frames that a fallback mortar takes: its root page, and the index and leaf pages of its entries (R97, R98, R352). -/
def fbPageCount (es : AMap Nat MEntry) : Nat := 1 + (Mortar.empty 0).newPages (es.map (·.1))

/-- Gives a request's fallback mortar entries, and the pages that they lack; none where the partition has no mortar frame. -/
def State.fbGrow (s : State) (q : Req) (es : AMap Nat MEntry) : Option State :=
  match s.allocMors q.part ⟨q.part, .priv, 0, q.slot, []⟩ (fbPageCount es - q.fbPages.length) with
  | none => none
  | some (fs, s1) => some (s1.modReq q.slot (fun r => { r with fbTiles := es, fbPages := q.fbPages ++ fs }))

/-- What the next step of the main model needs before its slices are served: new columns for full last tiles (R117). -/
def State.prepareStep (s : State) (slot : Nat) : Option State :=
  match s.req slot with
  | none => some s
  | some q =>
    if q.onFallback then some s
    else
      match s.modelOf q with
      | none => some s
      | some c => s.newColumns slot c (List.range c.pairs)

-- The commit of a token (R318, R323, R325) --------------------------------------------------------------------------------------------

/-- The grammar that constrains a request, with the session's state. -/
def State.grammarFor (s : State) (q : Req) : Option (Grammar × GramState) :=
  match q.grammar, (s.ses q.slot).grammar with
  | some _, some x => (s.grammarOf q.part x).map (fun g => (g, x))
  | _, _ => none

/-- The end-of-sequence token of a request: the one that its context's placement image names (R322). -/
def State.eosOf (s : State) (q : Req) : Nat :=
  match s.ctx q.part q.main with
  | some c => c.img.eos
  | none => 0

/-- Removes the token that completed a stop string (R325). -/
def State.rollback (s : State) (slot tok : Nat) : State :=
  match s.req slot with
  | none => s
  | some q =>
    let x := s.ses slot
    let gr := match s.grammarFor q with
      | some (g, st) => if tok = g.image.eos then x.grammar else some st.rollback
      | none => x.grammar
    let s := (s.bondOnce q.part).bump Fld.SMP_ROLLBACKS_COUNT q.part
    let s := s.setReq slot { q with committed := q.committed - 1, pen := q.pen.unslide q.args.sample x.log }
    s.modSes slot (fun y => { y with log := y.log.dropLast, grammar := gr })

/-- The end condition that a committed token meets first (R323). -/
def State.endAfter (s : State) (q : Req) (tok : Nat) (forced fired : Bool) : Option Status :=
  if fired then some (if q.args.sample.rollback then .okStopRolledBack else .okStop)
  else if forced then some .okEosForced
  else if tok = s.eosOf q then some .okEos
  else if q.args.sample.maxTokens ≤ q.committed then some .okLength
  else if 1048576 < (s.ses q.slot).log.length then some .limitContext
  else none

/-- Installs the step's pending position (R131, R353); none where a frame is lacking. -/
def State.installStep (s : State) (q : Req) : Option State :=
  if q.opening then some s
  else
    match s.modelOf q with
    | none => some s
    | some c =>
      if q.onFallback then
        match s.installFbAll q c (s.stepPos q) q.pending q.fbTiles with
        | none => none
        | some (es, s1) => s1.fbGrow q es
      else
        match s.installAll q.slot c (s.stepPos q) q.pending with
        | none => none
        | some s1 => some (s1.modSes q.slot (fun x => { x with nextPos := x.nextPos + 1 }))

/-- Writes a commit's text record where it releases bytes (R272). -/
def State.emitText (s : State) (slot : Nat) (t : TextStep) : State :=
  match s.req slot with
  | none => s
  | some q =>
    match q.emit with
    | none => s
    | some e =>
      if t.text.isEmpty then s
      else
        let r := s.emitRecord q e 0 (emitFlags t.stopOut t.raw t.repl) q.committed 0 t.text
        r.2.setReq slot { q with emit := some r.1 }

/-- A budget whose interval has ended. -/
def Budget.stop (b : Budget) : Budget := { b with running := false }
/-- Percentages of the notice and the switch mark of a budget whose interval starts (R349, R362). -/
def State.marks (s : State) (p : Nat) : Nat × Nat :=
  let w := s.fld Fld.SCH_DL_CFG_WARN_PCT p
  let sw := s.fld Fld.SCH_DL_CFG_SWITCH_PCT p
  let sw := if 100 ≤ sw then 0 else sw
  let w := Nat.min w 99
  (if w = 0 then 0 else if sw = 0 then w else Nat.min w sw, sw)

/-- A budget whose interval starts. -/
def Budget.start (b : Budget) (m : Nat × Nat) : Budget :=
  { b with running := b.us != 0, noticed := false, warn := m.1, switch := m.2 }

/-- The grammar state after a token (R292); without a grammar in use the session's stays. -/
def State.gramAfter (s : State) (q : Req) (tok : Nat) (old : Option GramState) : Option GramState :=
  match s.grammarFor q, s.textOf q.part q.main with
  | some (g, st), some ts => some (g.image.advance ts st tok)
  | _, _ => old

/-- A request after its next token (R318): one more token, nothing of the step left, its next draw an ordinary one. What slices
of the step at NEXT_POS have brought before the opening draw belongs to the step that follows it (R127, R305). -/
def Req.next (q : Req) (id : Nat) (t : TextStep) (pen : Penalty) (m : Nat × Nat) (fb : AMap Nat MEntry × List Nat) : Req :=
  { q.tally id 0 with
    committed := q.committed + 1, opening := false, served := if q.opening then q.served else [],
    pending := if q.opening then q.pending else [], chunks := [], packet := none,
    maskReady := q.grammar.isNone, utf8 := t.utf8, stopHold := t.stopHold, held := none, firstLog := false, pen := pen,
    first := q.first.stop, inter := q.inter.start m, fbTiles := fb.1, fbPages := fb.2 }

/-- Writes what a commit writes beside the step's tiles and the log: the grammar state, the request, the counts, the emit record, the
token stream (R318). `n` is the token's index in the log. -/
def State.recordToken (s : State) (slot tok n : Nat) (q q' : Req) (gr : Option GramState) (t : TextStep) (c : CtxClass) : State :=
  let s3 := (s.bondOnce q.part).modSes slot (fun y => { y with grammar := gr })
  let s4 := (s3.setReq slot q').bump Fld.SMP_DRAWS_COUNT q.part
  let s4 := s4.bump Fld.TXT_REPLACED_COUNT q.part t.replaced
  let s4 := if q'.pen.overflowed && !q.pen.overflowed then s4.bump Fld.SMP_OVERFLOWS_COUNT q.part else s4
  let s4 := s4.count (PmcEv.ofPart 0x31 1 q.part c)
  (s4.emitText slot t).sendStream q' 0 0 n [tok]

/-- What follows a committed token: the end that it meets (R322, R323, R325), or the next step. -/
def State.afterToken (s : State) (slot tok : Nat) (forced : Bool) (q : Req) (t : TextStep) : State :=
  match s.endAfter q tok forced t.fired with
  | some st =>
    let s6 := if st = .okStopRolledBack then s.rollback slot tok else s
    s6.endReq slot st t.trimmed
  | none =>
    match s.prepareStep slot with
    | some s6 => s6
    | none => s.endReq slot .quotaLpddr6

/-- Commits a token that the gate has admitted (R318): installs the step, writes the log, the counts, the grammar state and the
emit record in one bond, then the token stream and the end that the token meets. A frame that the step's tiles or log lack
ends the request with QUOTA/lpddr6 and commits nothing (R117, R322). -/
def State.commitToken (s : State) (slot tok : Nat) (forced : Bool) : State :=
  match s.req slot with
  | none => s
  | some q =>
    let t := textStep q.args.text q.args.stops q.utf8 q.stopHold (tokenBytes (s.textOf q.part q.main) q.args.text tok)
    match s.installStep q with
    | none => s.endReq slot .quotaLpddr6
    | some s1 =>
      match s1.addLog slot [⟨tok, true, q.firstLog⟩] with
      | none => s.endReq slot .quotaLpddr6
      | some s2 =>
        let x := s2.ses slot
        let fb := match s2.req slot with | some r => (r.fbTiles, r.fbPages) | none => (q.fbTiles, q.fbPages)
        let q' := q.next (s.nextBond q.part) t (q.pen.slide q.args.sample x.log) (s.marks q.part) fb
        (s2.recordToken slot tok (x.log.length - 1) q q' (s.gramAfter q tok x.grammar) t (s.ctxClass q.part q.main)).afterToken
          slot tok forced q' t

/-- Whether a commit's text record would fit (R274). -/
def Req.textFits (q : Req) (t : TextStep) : Bool :=
  match q.emit with
  | none => true
  | some e => t.text.isEmpty || e.fits (recordBytes t.text)

/-- Presents a token to the commit gate (R317): it is admitted when the step is served and its emit record fits; else it is held
(R274). -/
def State.presentToken (s : State) (slot tok : Nat) (forced : Bool) : State :=
  match s.req slot with
  | none => s
  | some q =>
    let t := textStep q.args.text q.args.stops q.utf8 q.stopHold (tokenBytes (s.textOf q.part q.main) q.args.text tok)
    if q.textFits t then s.commitToken slot tok forced
    else (s.setReq slot { q with held := some ⟨tok, forced⟩ }).bump Fld.TXT_RING_WAITS_COUNT q.part

-- Draws (R294 to R297, R308 to R310) ---------------------------------------------------------------------------------------------------

/-- The mask that constrains a request's draw; none without a grammar. -/
def State.maskFor (s : State) (q : Req) : Option Mask :=
  match s.grammarFor q, s.textOf q.part q.main with
  | some (g, x), some t => some (g.image.mask t x)
  | _, _ => none

/-- EOS_TOKEN of the grammar that constrains a request (R281), which a forced end presents (R295). -/
def State.gramEos (s : State) (q : Req) : Nat :=
  match s.grammarFor q with
  | some (g, _) => g.image.eos
  | none => s.eosOf q

/-- Samples a complete logit packet under its mask and presents the token to the gate. -/
def State.drawToken (s : State) (slot : Nat) : State :=
  match s.req slot with
  | none => s
  | some q =>
    match q.packet, s.modelOf q with
    | some pk, some c =>
      let run (allowed : Option (List Nat)) : State :=
        match sampleToken q.args.sample q.seed.toNat q.committed
            (logitsAfter3 q.args.sample q.pen allowed c.vocab pk.logits) with
        | some tok => s.presentToken slot tok false
        | none => s.endReq slot .peerBadLogits
      match s.maskFor q with
      | some .stall => s.endReq slot .grammarStall
      | some .forced => (s.bump Fld.GRM_FORCED_COUNT q.part).presentToken slot (s.gramEos q) true
      | some (.allowed a) => run (some a)
      | none => run none
    | _, _ => s

/-- A mask has been built (R297): the draw that waits for it runs. -/
def doMaskReady (slot : Nat) (s : State) : State :=
  match s.req slot with
  | none => s
  | some q =>
    if q.grammar.isNone || q.maskReady || q.phase = .ending then s
    else
      let slow := match s.grammarFor q with | some (g, x) => g.image.slow x | none => false
      let s := if slow then s.bump Fld.GRM_SLOW_COUNT q.part else s
      let s := s.count (PmcEv.ofPart 0x32 1 q.part (s.ctxClass q.part q.main))
      let s := s.setReq slot { q with maskReady := true }
      (if q.packet.isSome && q.held.isNone then s.drawToken slot else s)

-- Logit chunks (R303, R577, R578) ----------------------------------------------------------------------------------------------------------

/-- The largest COUNT of a logit chunk (R577). -/
def chunkCap (fp32 : Bool) : Nat := if fp32 then 16372 else 32744

/-- Whether a chunk overlaps one that has arrived. -/
def overlaps (cs : AMap Nat (List Nat)) (first n : Nat) : Bool :=
  cs.any (fun kv => decide (kv.1 < first + n) && decide (first < kv.1 + kv.2.length))

/-- The logits that chunks cover from token 0 on, without a gap. -/
def coverFrom (next : Nat) (cs : List (Nat × List Nat)) : List Nat :=
  match cs with
  | [] => []
  | (f, ls) :: r => if f = next then ls ++ coverFrom (next + ls.length) r else []

/-- The packet that chunks complete, if they cover the vocabulary. -/
def packetOf (cs : AMap Nat (List Nat)) (vocab : Nat) : Option (List Nat) :=
  let ls := coverFrom 0 (sortBy (fun (a b : Nat × List Nat) => decide (a.1 < b.1)) (cs.filter (fun kv => !kv.2.isEmpty)))
  if vocab ≤ ls.length then some (ls.take vocab) else none

/-- A logit chunk that passes the checks of R578; `bytes`: the LENGTH of its message (R573, R577). -/
def State.takeChunk (s : State) (slot : Nat) (q : Req) (bytes : Option Nat) (first : Nat) (fp32 : Bool) (ls : List Nat) : State :=
  if chunkCap fp32 < ls.length || bytes.any (fun n => n != 48 + ls.length * (if fp32 then 4 else 2)) || overlaps q.chunks first ls.length then
    s.endReq slot .peerMalformed
  else if !s.allServed q then s.endReq slot .peerIncompleteStep
  else if fp32 != q.args.sample.logitsFp32 then s.endReq slot .peerBadLogits
  else
    let cs := q.chunks.set first (if fp32 then ls else ls.map bf16to32)
    let vocab := match s.modelOf q with | some c => c.vocab | none => 0
    match packetOf cs vocab with
    | none => s.setReq slot { q with chunks := cs }
    | some pk =>
      let s1 := s.setReq slot { q with chunks := cs, packet := some ⟨s.duePos q, pk⟩ }
      if q.maskReady then s1.drawToken slot else s1.bump Fld.GRM_MASK_WAITS_COUNT q.part

/-- The request of a session that generates. -/
def State.generating (s : State) (slot : Nat) : Option Req :=
  match s.req slot with
  | some q => if q.phase = .generating then some q else none
  | none => none

/-- A logit chunk (R577, R578), from a partner or from the fallback context: one that is not due is dropped and counted. -/
def State.logitChunk (s : State) (h : Option Hdr) (slot pos first : Nat) (fp32 : Bool) (ls : List Nat) : State :=
  let stale := s.bump Fld.CMP_STALE_COUNT
  match s.generating slot with
  | none => if h.isSome then stale else s
  | some q =>
    let epoch := match h with | some x => x.epoch | none => q.epoch
    if q.onFallback && h.isSome then stale
    else if !q.onFallback && h.isNone then s
    else if q.onFallback && !q.fbReady then s
    else if (s.checkSender q h epoch).isSome then stale
    else if pos != s.duePos q then (if h.isSome then stale else s)
    else s.takeChunk slot q (h.map (·.bytes)) first fp32 ls

/-- LOGIT_CHUNK (R577). -/
def doLogitChunk (h : Option Hdr) (slot pos first : Nat) (fp32 : Bool) (ls : List Nat) (s : State) : State :=
  (match h with
    | none => s.logitChunk none slot pos first fp32 ls
    | some x => s.receive x 4 false (some x.bytes) (fun _ _ t =>
        if (t.checkHandle none x.handle).isSome then t.bump Fld.CMP_STALE_COUNT
        else t.logitChunk h (handleSlot x.handle) pos first fp32 ls))

-- Holds (R274, R804) -------------------------------------------------------------------------------------------------------------------------

/-- TXT_CFG.POLL has passed while a token is held: TAIL is read again (R274). -/
def doEmitHoldPoll (slot tail : Nat) (s : State) : State :=
  match s.req slot with
  | none => s
  | some q =>
    match q.held, q.emit with
    | some h, some e =>
      let q' := { q with emit := some { e with tail := tail } }
      let t := textStep q.args.text q.args.stops q.utf8 q.stopHold (tokenBytes (s.textOf q.part q.main) q.args.text h.token)
      (if q'.textFits t then (s.setReq slot q').commitToken slot h.token h.forced else s.setReq slot q')
    | _, _ => s

/-- TXT_CFG.POLL has passed while an end record waits: TAIL is read again (R804). -/
def doEndRecordPoll (slot tail : Nat) (s : State) : State :=
  match s.req slot with
  | none => s.pollLate slot tail
  | some q =>
    match q.heldEnd, q.emit with
    | some h, some e =>
      let e' := { e with tail := tail }
      let q' := { q with emit := some e' }
      (if e'.fits (recordBytes h.text) then (s.setReq slot { q' with heldEnd := none }).writeEnd slot q' h q.report
             else s.setReq slot q')
    | _, _ => s.pollLate slot tail

-- Cancel (R320, R321) ------------------------------------------------------------------------------------------------------------------------

/-- Whether a waiting command is the request that a cancel names (R685). -/
def isRequest (f : Fn) (tag : Nat) (w : Sub × HostCmd) : Bool :=
  w.1.fn == f && w.1.tag == tag && (match w.2 with | .reqSubmit _ => true | _ => false)

/-- Removes the first element that satisfies a test. -/
def dropFirst {α : Type} (f : α → Bool) (l : List α) : List α :=
  match l with
  | [] => []
  | x :: r => if f x then r else x :: dropFirst f r

/-- REQ_CANCEL (R320, R321). -/
def doReqCancel (u : Sub) (tag : Nat) (s : State) : State :=
  let slot := u.slot
  let running := match s.req slot with
    | some q => if q.fn = u.fn ∧ q.tag = tag then some q else none
    | none => none
  match running with
  | some q =>
    if q.phase = .ending then s.complete u .okNothingToCancel
    else
      let s := if q.phase = .generating then s.bump Fld.SMP_GATE_CANCELS_COUNT q.part else s
      (s.endReq slot .cancelled).complete u .ok
  | none =>
    match (s.ses slot).waiting.find? (isRequest u.fn tag) with
    | some w =>
      let s := s.modSes slot (fun x => { x with waiting := dropFirst (isRequest u.fn tag) x.waiting })
      (s.complete w.1 .cancelled).complete u .ok
    | none => s.complete u .okNothingToCancel

end Sys2Proof.Machine
end

