-- ==== Sys2Proof/Machine/Attention.lean ====
section
/-!
DEFINITION. The attention service: query slices, batches, stalls, score capture, private experts, promotion
(04_attention.md R124 to R166, 05 R195, 11 R385 to R388).
-/

namespace Sys2Proof.Machine

open Sys2Proof

/-- The peer index that stands for the fallback context as a sender. -/
def noPeer : Nat := 1024

/-- A needed tile is lost or poisoned: the session is FAILED and its request ends (R59, R140). -/
def State.failSes (s : State) (slot : Nat) : State :=
  let s := (s.recordBond slot).modSes slot (fun x => { x with state := .failed, poisoned := true })
  let s := { s with revives := s.revives.erase slot, movesIn := s.movesIn.erase slot,
                    pulls := s.pulls.filter (fun w => w.slot != slot) }
  s.endReq slot .stateLostFailed

-- Checks (R127, R151) ---------------------------------------------------------------------------------------------------------------

/-- Orders 1 to 3 of R127 for a message to a session: the request that it may act on, or the status that refuses it. A session
whose LAST_REQUEST holds no status has had no request that ended. -/
def State.checkStep (s : State) (h : Option Hdr) (own : Option Nat) (w : Word64) (epoch pos : Nat) : Status ⊕ Req :=
  match s.checkHandle own w with
  | some st => .inl st
  | none =>
    let slot := handleSlot w
    let x := s.ses slot
    let ended (st : Status) : Status := if pos = x.nextPos && st != 0 then st else .configWrongState
    match s.req slot with
    | none => .inl (ended x.lastStatus)
    | some q =>
      if q.phase = .ending then .inl (match q.heldEnd with | some e => ended e.status | none => .configWrongState)
      else if q.onFallback && h.isSome then .inl .deadlineOnFallback
      else if q.phase ≠ .generating then .inl (ended x.lastStatus)
      else
        match s.checkSender q h epoch with
        | some st => .inl st
        | none => .inr q

/-- Heads that earlier slices of a step have named in a layer (R127 order 6): served, or waiting. -/
def State.named (s : State) (q : Req) (layer head : Nat) : Bool :=
  q.served.contains (layer, head) ||
    s.slices.any (fun w => w.slot == q.slot && w.slice.layer == layer
      && decide (w.slice.kvFirst ≤ head) && decide (head < w.slice.kvFirst + w.slice.kvCount))

/-- The checks of R127 on a slice. -/
def State.checkSlice (s : State) (h : Option Hdr) (own : Option Nat) (sl : Slice) : Status ⊕ Req :=
  match s.checkStep h own sl.handle sl.epoch sl.pos with
  | .inl st => .inl st
  | .inr q =>
    match s.modelOf q with
    | none => .inl .contextContextDown
    | some c =>
      if c.layers ≤ sl.layer then .inl .configLayerRange
      else if c.heads < sl.kvFirst + sl.kvCount then .inl .configHeadRange
      else if sl.pos != s.stepPos q then .inl .configStepMismatch
      else if (List.range' sl.kvFirst sl.kvCount).any (fun k => s.named q sl.layer k) then .inl .configDuplicateQuery
      else .inr q

-- Serving a slice (R132 to R146) ----------------------------------------------------------------------------------------------------------

/-- A tile that a slice reads: mortar index, entry, contents, home core. -/
structure ReadTile where
  index : Nat
  entry : MEntry
  tile  : Tile
  core  : Nat
  deriving DecidableEq, Repr

/-- The mortar entries that a request's model reads. -/
def State.entriesOf (s : State) (q : Req) : AMap Nat MEntry := if q.onFallback then q.fbTiles else (s.ses q.slot).mortar.entries

/-- The entries of a pair in mortar order (R97). -/
def pairEntries (es : AMap Nat MEntry) (pairs j : Nat) : List (Nat × MEntry) :=
  sortBy (fun (a b : Nat × MEntry) => decide (a.1 < b.1)) (es.filter (fun kv => pairOf pairs kv.1 == j))

/-- The entries that a slice needs. -/
def sliceEntries (es : AMap Nat MEntry) (c : CtxImage) (sl : Slice) : List (Nat × MEntry) :=
  ((List.range' sl.kvFirst sl.kvCount).map (fun h => pairEntries es c.pairs (sl.layer * c.heads + h))).flatten

/-- Whether a tile must be fetched before attention can read it (R102). -/
def MEntry.away (e : MEntry) : Bool := e.tier == .quarry || e.tier == .remote

/-- The home core of a column of the mortar that a request reads (R133). A fallback mortar shares no prefix tile, so its columns are
spread by SLOT alone (DESIGN CHOICE, log entry 56). -/
def State.homeOf (s : State) (q : Req) (t : Nat) : Nat :=
  if q.onFallback then
    let cs := s.coresOf q.part
    nthD cs ((t + q.slot) % Nat.max 1 cs.length) 0
  else (s.homeCore q.slot t).getD 0

/-- The tiles of a pair with their contents and home cores. -/
def State.readTiles (s : State) (q : Req) (c : CtxImage) (j : Nat) : List ReadTile :=
  (pairEntries (s.entriesOf q) c.pairs j).filterMap (fun kv =>
    (s.tileAt kv.2).map (fun t => ⟨kv.1, kv.2, t, s.homeOf q (colOf c.pairs kv.1)⟩))

/-- What each core serves of a pair (R133, R135, R137): its tiles in mortar order; the lead core takes the pending position as its
last one. Cores without positions are left out. -/
def coreParts (c : CtxImage) (layer pos lead : Nat) (pd : Pend) (cores : List Nat) (ts : List ReadTile) : List CorePart :=
  let part (e : Nat) : CorePart :=
    let own := ts.filter (fun t => t.core == e)
    let ps := (own.map (fun t => t.tile.positions)).flatten
    let ks := ps.map (keyFeed c.geom c.rotary layer)
    let vs := ps.map (valueFeed c.geom)
    if e = lead then
      ⟨e, ks ++ [fp8Feed (rotateVec c.rotary layer pos (pd.key.map bf16to32))], vs ++ [fp8Feed (pd.value.map bf16to32)]⟩
    else ⟨e, ks, vs⟩
  (cores.map part).filter (fun p => !p.keys.isEmpty)

/-- Splits per-core scores into runs of the tiles of that core, in order; what is left is the pending position's. -/
def cutRuns {α : Type} (ns : List Nat) (xs : List α) : List (List α) :=
  match ns with
  | [] => [xs]
  | n :: r => xs.take n :: cutRuns r (xs.drop n)

/-- The scores of one row in mortar order, the pending position last (R156). -/
def mortarOrder (lead : Nat) (parts : List CorePart) (scores : List (List Nat)) (ts : List ReadTile) : List Nat :=
  let byCore : AMap Nat (List Nat) := (parts.zip scores).map (fun p => (p.1.core, p.2))
  let r := ts.foldl (fun (a : List Nat × AMap Nat (List Nat)) t =>
    let xs := a.2.getD t.core []
    (a.1 ++ xs.take t.tile.fill, a.2.set t.core (xs.drop t.tile.fill))) ([], byCore)
  r.1 ++ r.2.getD lead []

/-- The combined scores of every position of a pair over its rows, in mortar order, the pending position last (R145). -/
def combined (mode : Nat) (rows : List (List Nat)) (n : Nat) : List Nat :=
  (List.range n).map (fun i => combineMass mode (rows.map (fun r => nthD r i 0)))

/-- Adds masses to the tiles of a pair (R94, R145, R171). -/
def State.addMasses (s : State) (decay reqCount : Nat) (ts : List ReadTile) (xs : List Nat) : State :=
  match ts with
  | [] => s
  | t :: r =>
    let own := xs.take t.tile.fill
    let s1 := if t.tile.shared then s
      else
        match t.entry.loc with
        | some l => { s with tiles := s.tiles.set l ((t.tile.decay decay reqCount).addMass own) }
        | none => s
    s1.addMasses decay reqCount r (xs.drop t.tile.fill)

/-- MASS_MODE as it acts (R164). -/
def State.massMode (s : State) (p : Nat) : Nat := let m := s.fld Fld.ATT_CFG_MASS_MODE p; if m = 3 then 1 else m

-- Score capture (R155 to R157) -------------------------------------------------------------------------------------------------------------

/-- Whether a slice of a session is captured. -/
def State.captures (s : State) (p layer : Nat) (h : Word64) : Bool :=
  s.flag Fld.ATT_CAP_CTL_ENABLE p && s.fld Fld.ATT_CAP_SES_HANDLE p == h.toNat && handlePart h == p
    && (s.flag Fld.ATT_CAP_CTL_ALL_LAYERS p || s.fld Fld.ATT_CAP_CTL_LAYER p == layer)

/-- Writes or drops a capture record (R156, R157). HEAD and TAIL are byte offsets that run on modulo 2^32, the place in the ring
being the offset modulo its size: HEAD = TAIL is an empty ring, a ring that is exactly full is one size apart, and a record runs
on from the ring's end to its start (DESIGN CHOICE, log entry 57). Without a virtual function of the partition a record is dropped
(DESIGN CHOICE, log entry 57). -/
def State.capture (s : State) (p : Nat) (h : Word64) (pos layer head g : Nat) (positions : List Nat) (rows : List (List Nat)) :
    State :=
  let bf := s.flag Fld.ATT_CAP_CTL_BF16 p
  let wp := s.flag Fld.ATT_CAP_CTL_POSITIONS p
  let n := positions.length
  let bytes := ceilDiv (32 + (if wp then 4 * n else 0) + g * n * (if bf then 2 else 4)) 32 * 32
  let seq := s.capSeq.getD p 0
  let s := { s with capSeq := s.capSeq.set p ((seq + 1) % 2 ^ 32) }
  let size := 2 ^ s.fld Fld.ATT_CAP_BASE_LOG2_SIZE p
  let hd := s.fld Fld.ATT_CAP_PTR_HEAD p
  let used := (hd + 2 ^ 32 - s.fld Fld.ATT_CAP_PTR_TAIL p) % 2 ^ 32
  match s.fnOfPart p with
  | none => s.bump Fld.ATT_CAP_DROPS_DROPS p
  | some f =>
    if used + bytes ≤ size then
      let xs := rows.flatten
      let r : CapRec := ⟨h, pos, layer, head, (if wp then 2 else 0) + (if bf then 1 else 0), n, g, bytes, seq,
        if wp then positions else [], if bf then xs.map f32toBf16 else xs⟩
      ((s.put (.capture f (s.fld Fld.ATT_CAP_BASE_BASE p * 4096 + hd % size) r)).sealed f).setFld Fld.ATT_CAP_PTR_HEAD (hd + bytes) p
    else s.bump Fld.ATT_CAP_DROPS_DROPS p

/-- Serves one key/value head of a slice under the MASS_MODE with which it arrived (R164): its output vectors and the state with
masses, step mass and capture. -/
def State.serveHead (s : State) (q : Req) (c : CtxImage) (mode : Nat) (sl : Slice) (h : Nat) : List (List Nat) × State :=
  let j := sl.layer * c.heads + h
  let ts := s.readTiles q c j
  let lead := (s.leadCore q.slot).getD 0
  let pd := q.pending.getD (sl.layer, h) ⟨[], [], 0⟩
  let parts := coreParts c sl.layer sl.pos lead pd (s.coresOf q.part) ts
  let i := h - sl.kvFirst
  let qs := (sl.q.drop (c.group * i)).take c.group
  let rows := qs.map (fun v => attendRow c.geom.d (fp8Feed (rotateVec c.rotary sl.layer sl.pos (v.map bf16to32))) parts)
  let scores := rows.map (fun r => mortarOrder lead parts r.scores ts)
  let stored := (ts.map (fun t => t.tile.positions.map (·.pos))).flatten
  let mass := combined mode scores (stored.length + 1)
  let s := ts.foldl (fun (a : State) t => a.wakeEntry t.entry) s
  let s0 := if q.onFallback then s
    else s.modSes q.slot (fun x => { x with sliceRead := (x.sliceRead ++ ts.map (fun t => t.index)).eraseDups })
  let s1 := if mode = 0 then s0 else s0.addMasses (s.decayOf q.part) (s.ses q.slot).reqCount ts mass
  let s2 := s1.modReq q.slot (fun r => { r with
    pending := r.pending.set (sl.layer, h) { pd with mass := nthD mass stored.length 0 }, served := r.served ++ [(sl.layer, h)] })
  let s3 := if s.captures q.part sl.layer sl.handle then
      s2.capture q.part sl.handle sl.pos sl.layer h c.group (stored ++ [sl.pos]) scores else s2
  (rows.map (·.out), s3)

/-- Serves the heads of a slice in order. -/
def State.serveHeads (s : State) (q : Req) (c : CtxImage) (mode : Nat) (sl : Slice) (hs : List Nat) : List (List Nat) × State :=
  match hs with
  | [] => ([], s)
  | h :: r =>
    let a := s.serveHead q c mode sl h
    let b := a.2.serveHeads (match a.2.req q.slot with | some q' => q' | none => q) c mode sl r
    (a.1 ++ b.1, b.2)

/-- Answers a slice with a status and no vectors. -/
def State.refuseSlice (s : State) (part peer tag epoch comp : Nat) (c : CtxClass) (sl : Slice) (st : Status)
    (hint : Option (Word64 × Word64)) : State :=
  s.sendTo peer part epoch comp sl.handle tag c (.output ⟨sl.handle, sl.pos, sl.layer, sl.kvFirst, sl.kvCount, st, [], hint⟩)

/-- Serves a slice whose tiles are all present (R137), and answers it. `batched`: its batch holds two slices or more. -/
def State.serveSlice (s : State) (w : SliceWork) (batched : Bool) : State :=
  let s := { s with slices := s.slices.filter (fun v => v != w) }
  match s.generating w.slot with
  | none => s
  | some q =>
    match s.modelOf q with
    | none => s
    | some c =>
      let r := s.serveHeads q c w.massMode w.slice (List.range' w.slice.kvFirst w.slice.kvCount)
      let cl := s.ctxClass q.part q.model
      let s1 := r.2.count (PmcEv.ofPart 0x20 1 q.part cl)
      let s1 := if batched then s1.count (PmcEv.ofPart 0x22 1 q.part cl) else s1
      s1.sendTo w.peer w.part q.epoch q.comp w.slice.handle w.tag cl
        (.output ⟨w.slice.handle, w.slice.pos, w.slice.layer, w.slice.kvFirst, w.slice.kvCount, .ok, r.1, none⟩)

/-- The entries that a waiting slice needs. -/
def State.workEntries (s : State) (w : SliceWork) : List (Nat × MEntry) :=
  match s.req w.slot with
  | none => []
  | some q =>
    match s.modelOf q with
    | none => []
    | some c => sliceEntries (s.entriesOf q) c w.slice

/-- Positions in front of an order (R195): the fetch order with some entries moved to its front; answers how many moved. -/
def moveFront (want fetch : List Nat) : List Nat × Nat :=
  let hit := fetch.filter (fun e => want.contains e)
  let rest := fetch.filter (fun e => !(want.contains e))
  (hit ++ rest, hit.length)

/-- A slice that finds tiles away stalls (R102, R138, R195): one stall, and its missing tiles move to the front. A slice of a batch
leaves the batch, and is served and judged for a spill alone when its tiles are there (DESIGN CHOICE, log entry 58). -/
def State.stallSlice (s : State) (w : SliceWork) : State :=
  let s := { s with slices := s.slices.map (fun v => if v = w then { v with stalled := true, batch := none } else v) }
  let s := if w.stalled then s else s.bump Fld.ATT_STALLS_STALLS w.part
  let want := ((s.workEntries w).filter (fun kv => kv.2.tier == .quarry)).map (·.1)
  match s.revives.get? w.slot with
  | none => s
  | some r =>
    let others := (s.slices.filter (fun v => v.slot == w.slot && v.stalled && v.slice != w.slice)).map
      (fun v => ((s.workEntries v).filter (fun kv => kv.2.tier == .quarry)).map (·.1))
    let new := want.filter (fun e => !(others.any (fun l => l.contains e)))
    let m := moveFront want r.fetch
    ({ s with revives := s.revives.set w.slot { r with fetch := m.1 } }).bump Fld.DRS_DEMAND_COUNT w.part
      (r.fetch.filter (fun e => new.contains e)).length

-- Spills (R136) ---------------------------------------------------------------------------------------------------------------------------------

/-- What one slice puts into a core's work area: bytes of FP32 scores, and the tiles whose value halves of P × KB bytes (R84) are
staged. -/
def State.areaOf (s : State) (core : Nat) (w : SliceWork) : Nat × List (TileLoc × Nat) :=
  match s.req w.slot with
  | none => (0, [])
  | some q =>
    match s.modelOf q with
    | none => (0, [])
    | some c =>
      let own (h : Nat) : List ReadTile :=
        (s.readTiles q c (w.slice.layer * c.heads + h)).filter (fun (t : ReadTile) => t.core == core)
      let ts : List ReadTile := ((List.range' w.slice.kvFirst w.slice.kvCount).map own).flatten
      let pend := if s.leadCore w.slot = some core then w.slice.kvCount else 0
      (4 * c.group * ((ts.map (fun (t : ReadTile) => t.tile.fill)).sum + pend),
       ts.filterMap (fun (t : ReadTile) => t.entry.loc.map (fun l => (l, t.tile.geom.p * t.tile.geom.kb))))

/-- Bytes that a core's work area holds for slices served at once; each staged tile counts once. -/
def State.areaBytes (s : State) (ws : List SliceWork) (core : Nat) : Nat :=
  let per := ws.map (s.areaOf core)
  (per.map (·.1)).sum + (((per.map (·.2)).flatten.eraseDups).map (·.2)).sum

/-- Whether slices of a partition served at once spill on some core. -/
def State.spills (s : State) (p : Nat) (ws : List SliceWork) : Bool :=
  (s.coresOf p).any (fun e => decide (s.fld Fld.ATT_CFG_AREA_MIB p * 2 ^ 20 < s.areaBytes ws e))

/-- Positions that slices served at once read in pass 1; a shared tile is read once (R148). -/
def State.positionsRead (s : State) (ws : List SliceWork) : Nat :=
  let locs := ((ws.map (fun w => (s.workEntries w).filterMap (fun kv => kv.2.loc))).flatten).eraseDups
  (locs.map (fun l => match s.tiles.get? l with | some t => t.fill | none => 0)).sum

/-- Serves slices whose tiles are all present, counting their spills and the positions they read. -/
def State.serveReady (s : State) (p : Nat) (ready : List SliceWork) : State :=
  let s := if s.spills p ready then s.bump Fld.ATT_SPILLS_SPILLS p ready.length else s
  let s := match ready with
    | [] => s
    | w :: _ => s.count (PmcEv.ofPart 0x21 (s.positionsRead ready) p (match s.req w.slot with
        | some q => s.ctxClass p q.model | none => .bg))
  ready.foldl (fun a w => a.serveSlice w (decide (2 ≤ ready.length))) s

/-- A slice meets poison bits in a tile whose frame is not POISONED yet (R372, R731 to R733): the read is recorded, the frame's record
becomes POISONED, and the prefix of a shared tile is unregistered. -/
def State.meetPoison (s : State) (p slot : Nat) (l : TileLoc) : State :=
  if (s.poisonAt l).isEmpty then s
  else
    match l with
    | .store e o => s.propagated p 3 (e * 2 ^ 36 + o * 2048) 0 .stateLostFailed (some slot)
    | .frame n =>
      match s.tileFrames.get? n with
      | none => s
      | some f =>
        if f.state = .poisoned then s
        else
          let s1 := (s.propagated p 1 (s.placeAddr l) (subChannel (s.placeAddr l) * 256) .stateLostFailed (some slot)).poisonFrame n
          if f.state = .shared ∨ f.state = .pinned then s1.unregister f.owner f.backref else s1
    | .quarry _ => s

/-- The places that a waiting slice reads. -/
def State.workPlaces (s : State) (w : SliceWork) : List TileLoc := (s.workEntries w).filterMap (fun kv => kv.2.loc)

/-- A slice that names a frame of another partition reads nothing, and its request ends (R105, R378). -/
def State.foreignSlice (s : State) (p : Nat) (w : SliceWork) : State :=
  match (s.workPlaces w).find? (fun l => !(s.ownPlace p l)) with
  | some l => (s.foreign p (s.placeAddr l) (some w.slot)).endReq w.slot .securityForeignFrame
  | none => s

/-- A poisoned tile fails the session of the slice that reads it (R59, R140, R732). -/
def State.poisonedSlice (s : State) (p : Nat) (w : SliceWork) : State :=
  ((s.workPlaces w).foldl (fun (a : State) l => a.meetPoison p w.slot l) s).failSes w.slot

/-- Starts the reads of slices of one partition: those whose tiles are present are served at once, the others stall; a frame of another
partition ends the request, a poisoned tile fails the session (R105, R138, R140, R148). -/
def State.startSlices (s : State) (p : Nat) (ws : List SliceWork) : State :=
  let strange := ws.filter (fun w => (s.workPlaces w).any (fun l => !(s.ownPlace p l)))
  let s := strange.foldl (fun a w => a.foreignSlice p w) s
  let ws := ws.filter (fun w => !(strange.contains w))
  let bad := ws.filter (fun w => (s.workEntries w).any (fun kv => s.poisonedData kv.2))
  let s := bad.foldl (fun a w => a.poisonedSlice p w) s
  let ws := ws.filter (fun w => !(bad.contains w))
  let ready := ws.filter (fun w => !((s.workEntries w).any (fun kv => kv.2.away)))
  let late := ws.filter (fun w => !(ready.contains w))
  (late.foldl (fun a w => a.stallSlice w) s).serveReady p ready

-- Batches (R147, R153) -----------------------------------------------------------------------------------------------------------------------

/-- BATCH_MAX as it acts. -/
def State.batchMax (s : State) (p : Nat) : Nat := Nat.min 64 (zeroActsAs (s.fld Fld.ATT_CFG_BATCH_MAX p) 1)

/-- Serves an expert packet (R152); its context has done work for a request (R359). -/
def State.serveExpert (s : State) (w : ExpertWork) : State :=
  match s.generating w.slot, s.ctx w.part w.ctx with
  | some q, some c =>
    match c.img.experts.get? (w.pkt.layer * 256 + w.pkt.expert) with
    | none => s
    | some x =>
      (s.sendTo w.peer w.part q.epoch q.comp w.pkt.handle w.tag (s.ctxClass q.part q.main)
        (.expertAnswer w.pkt .ok (expertOut x w.pkt.gate.toNat w.pkt.x))).contextServed w.part w.ctx
  | _, _ => s

/-- Closes a batch: its slices start, or its expert packets are served (R147, R153). -/
def State.closeBatch (s : State) (id : Nat) : State :=
  match s.batches.get? id with
  | none => s
  | some b =>
    let s := { s with batches := s.batches.erase id }
    match b.key with
    | .slices p _ _ _ _ _ =>
      let ws := (s.slices.filter (fun (w : SliceWork) => w.batch == some id)).map (fun (w : SliceWork) => { w with batch := none })
      let s := { s with slices := s.slices.map (fun (w : SliceWork) => if w.batch = some id then { w with batch := none } else w) }
      s.startSlices p ws
    | .experts _ _ _ _ => b.experts.foldl (fun a w => a.serveExpert w) s

/-- How many slices or expert packets an open batch holds now. -/
def State.batchSize (s : State) (id : Nat) : Nat :=
  (s.slices.filter (fun w => w.batch == some id)).length + (match s.batches.get? id with | some b => b.experts.length | none => 0)

/-- The open batch of a key. -/
def State.batchOf (s : State) (k : BatchKey) : Option (Nat × Batch) := s.batches.find? (fun kb => kb.2.key == k)

/-- Joins or opens the batch of a key, and closes it when it is full. -/
def State.joinBatch (s : State) (p : Nat) (k : BatchKey) (put : Nat → State → State) (e : List ExpertWork) : State :=
  let (id, b, s) := match s.batchOf k with
    | some (i, b) => (i, { b with experts := b.experts ++ e }, s)
    | none => (s.nextBatch, ⟨k, e⟩, { s with nextBatch := s.nextBatch + 1 })
  let s := put id { s with batches := s.batches.set id b }
  if s.batchMax p ≤ s.batchSize id then s.closeBatch id else s

/-- The key under which a slice is batched, if it is (R147). -/
def State.sliceKey (s : State) (q : Req) (sl : Slice) : Option BatchKey :=
  let x := s.ses q.slot
  if s.fld Fld.ATT_CFG_BATCH_WINDOW q.part == 0 || x.pfx == 0xFFFF || x.pfxTiles == 0 then none
  else some (.slices q.part q.model sl.layer sl.kvFirst sl.kvCount x.pfx)

/-- Takes a slice that passed the checks: its pending keys and values are stored, and it starts or joins a batch. -/
def State.acceptSlice (s : State) (q : Req) (peer tag : Nat) (sl : Slice) : State :=
  let ps := (List.range' sl.kvFirst sl.kvCount).zip (sl.k.zip sl.v)
  let pend := ps.foldl (fun (a : AMap (Nat × Nat) Pend) p => a.set (sl.layer, p.1) ⟨p.2.1, p.2.2, 0⟩) q.pending
  let s := s.setReq q.slot { q with pending := pend }
  let w : SliceWork := { slot := q.slot, part := q.part, peer := peer, tag := tag, slice := sl, batch := none, stalled := false,
                          massMode := s.massMode q.part }
  match s.sliceKey q sl with
  | none => { s with slices := s.slices ++ [w] }.startSlices q.part [w]
  | some k => s.joinBatch q.part k (fun id t => { t with slices := t.slices ++ [{ w with batch := some id }] }) []

/-- The class of a session's main context, where the handle names one. -/
def State.classOfHandle (s : State) (w : Word64) : CtxClass :=
  let x := s.ses (handleSlot w)
  s.ctxClass x.part x.main

/-- Checks and takes or refuses one slice of a message (R127). -/
def State.querySlice (s : State) (h : Option Hdr) (peer : Nat) (sl : Slice) : State :=
  match s.checkSlice h (h.map (·.part)) sl with
  | .inr q => s.acceptSlice q peer (match h with | some x => x.tag | none => 0) sl
  | .inl st =>
    match h with
    | none => s
    | some x =>
      let r := s.movedHint st sl.handle
      let s := if r.2.isSome then s.bump Fld.CMP_MOVED_COUNT else s
      s.refuseSlice x.part peer x.tag x.epoch x.comp (s.classOfHandle sl.handle) sl r.1 r.2

/-- Whether the vectors of a slice agree with its counts (R125, R574): KV_COUNT keys and values, g queries to each, all of D elements; g and D
are those of the session's model where its context has an image. -/
def Slice.counts (sl : Slice) (m : Option CtxImage) : Bool :=
  let vs := sl.q ++ sl.k ++ sl.v
  let d := match m, vs with | some c, _ => c.geom.d | none, v :: _ => v.length | none, [] => 0
  let g := match m with | some c => c.group | none => sl.q.length / Nat.max 1 sl.kvCount
  decide (1 ≤ sl.kvCount) && sl.k.length == sl.kvCount && sl.v.length == sl.kvCount && sl.q.length == g * sl.kvCount
    && vs.all (fun v => v.length == d)

/-- Bytes of a query message by its slices (R574); none where a slice disagrees with its counts. -/
def State.queryBytes (s : State) (w : Word64) (ss : List Slice) : Option Nat :=
  let m := match s.checkHandle none w with | none => s.mainImg (handleSlot w) | some _ => none
  if ss.isEmpty || ss.any (fun sl => !(sl.counts m)) then none
  else some (32 + (ss.map (fun sl => 16 + 2 * ((sl.q ++ sl.k ++ sl.v).map List.length).sum)).sum)

/-- QUERY_MESSAGE (R127, R574): each slice on its own; the handle and epoch are the header's. Without a header the slices come from
the fallback context that serves the request (R141). -/
def doQueryMessage (h : Option Hdr) (ss : List Slice) (s : State) : State :=
  (match h with
    | none => ss.foldl (fun a sl =>
        match a.generating (handleSlot sl.handle) with
        | some q => if q.onFallback && q.fbReady then a.querySlice none noPeer sl else a
        | none => a) s
    | some x => s.receive x 1 false (s.queryBytes x.handle ss) (fun i _ t =>
        ss.foldl (fun a sl => a.querySlice h i { sl with handle := x.handle, epoch := x.epoch }) t))

/-- BATCH_WINDOW has passed: the batch closes (R147). -/
def doAttBatchWindowExpiry (batch : Nat) (s : State) : State := (s.closeBatch batch)

/-- A tile that slices of a session wait for has become present: those that have all their tiles start (R138). -/
def doTileAvailable (slot : Nat) (s : State) : State :=
  let ws := s.slices.filter (fun w => w.slot == slot && w.stalled
    && !((s.workEntries w).any (fun kv => kv.2.away)))
  (ws.foldl (fun a w => a.startSlices w.part [w]) s)

-- Private experts (R151 to R154) -----------------------------------------------------------------------------------------------------------------

/-- The expert context of a partition that holds an expert: the lowest-numbered one. -/
def State.expertCtx (s : State) (p layer expert : Nat) : Option (Nat × Ctx) :=
  (List.range 63).findSome? (fun c =>
    match s.ctx p c with
    | some x => if x.img.kind = .expert ∧ x.img.experts.has (layer * 256 + expert) then some (c, x) else none
    | none => none)

/-- Batches or serves an expert packet that passed the checks. -/
def State.runExpert (s : State) (w : ExpertWork) : State :=
  if s.fld Fld.ATT_CFG_BATCH_WINDOW w.part == 0 then s.serveExpert w
  else s.joinBatch w.part (.experts w.part w.ctx w.pkt.layer w.pkt.expert) (fun _ t => t) [w]

/-- Checks and takes or refuses an expert packet (R151, R337). -/
def State.expertPacket (s : State) (x : Hdr) (peer : Nat) (p : ExpertPkt) : State :=
  let answer (st : Status) (s : State) : State :=
    s.sendTo peer x.part x.epoch x.comp p.handle x.tag (s.classOfHandle p.handle) (.expertAnswer p st [])
  match s.checkStep (some x) (some x.part) p.handle p.epoch p.pos with
  | .inl st =>
    let r := s.movedHint st p.handle
    answer r.1 (if r.2.isSome then s.bump Fld.CMP_MOVED_COUNT else s)
  | .inr q =>
    match s.modelOf q with
    | none => answer .contextContextDown s
    | some c =>
      if c.layers ≤ p.layer then answer .configLayerRange s
      else if p.pos != s.stepPos q then answer .configStepMismatch s
      else
        match s.expertCtx q.part p.layer p.expert with
        | none => answer .configExpertUnknown s
        | some (n, e) =>
          let w : ExpertWork := ⟨q.slot, q.part, peer, x.tag, n, p⟩
          match e.state with
          | .ready => s.runExpert w
          | .loading => { s with expertWait := s.expertWait ++ [w] }
          | _ => answer .contextContextDown s

/-- The packets that wait for a load of their context are served, or answered with CONTEXT/context-down (R337). -/
def State.resumeExperts (s : State) (p c : Nat) (ready : Bool) : State :=
  let ws := s.expertWait.filter (fun w => w.part == p && w.ctx == c)
  let t := { s with expertWait := s.expertWait.filter (fun w => !(w.part == p && w.ctx == c)) }
  ws.foldl (fun (a : State) w =>
    if ready then a.runExpert w
    else match a.req w.slot with
      | some q => a.sendTo w.peer w.part q.epoch q.comp w.pkt.handle w.tag (a.ctxClass q.part q.main)
          (.expertAnswer w.pkt .contextContextDown [])
      | none => a) t

/-- EXPERT_MESSAGE (R151). -/
def doExpertMessage (h : Hdr) (p : ExpertPkt) (s : State) : State :=
  (s.receive h 3 false (if p.x.isEmpty || decide (16384 < p.x.length) then none else some (48 + 2 * p.x.length)) (fun i _ t => t.expertPacket h i { p with handle := h.handle, epoch := h.epoch }))

-- Promotion and displacement (R386 to R388) ------------------------------------------------------------------------------------------------------

/-- Moves a tile-store tile of a session to LPDDR6 (R118); none where no frame is free. -/
def State.demote (s : State) (slot k : Nat) : Option State :=
  let x := s.ses slot
  match x.mortar.entries.get? k with
  | none => none
  | some e =>
    if e.tier ≠ .store then none
    else
      match s.tileAt e, s.allocTile x.part ⟨x.part, .priv, 0, slot, []⟩ with
      | some t, some (n, s1) =>
        let from_ : TileLoc := .store (storeCore e.frame) (storeOff e.frame)
        let s2 := s1.copyTile from_ (.frame n) t
        some ({ s2 with tiles := s2.tiles.erase from_ }.modSes slot (fun y => { y with mortar := { y.mortar with
          entries := y.mortar.entries.set k { e with tier := .lpddr, frame := n } } }))
      | _, _ => none

/-- Sessions whose tiles may be displaced on a core: WAITING, of the same context, in the order of R387. -/
def State.victims (s : State) (p c core : Nat) : List (Nat × Session) :=
  let keep := s.fld Fld.MEM_PLACE_KEEP_IDLE p
  let ok := s.sessions.filter (fun kv => kv.2.part == p && kv.2.main == c && kv.2.state == .waiting && kv.2.op == .none
    && kv.2.mortar.entries.any (fun e => e.2.tier == .store && storeCore e.2.frame == core && !e.2.shared))
  let soon (x : Session) : Bool := x.hints.idle != 0 && decide (x.hints.idleSeconds ≤ keep)
  sortBy (fun (a b : Nat × Session) =>
    if soon a.2 != soon b.2 then !(soon a.2) else decide (a.2.lastUse < b.2.lastUse)) ok

/-- Displaces one tile on a core for a context, if one can be (R387). Which tile of the victim goes is open (log entry 8). -/
def State.displace (s : State) (p c core : Nat) : Option State :=
  match s.victims p c core with
  | [] => none
  | (slot, x) :: _ =>
    let es := x.mortar.entries.filter (fun e => e.2.tier == .store && storeCore e.2.frame == core && !e.2.shared)
    match es[Config.pick s.freeCtr % es.length]? with
    | none => none
    | some e =>
      match { s with freeCtr := s.freeCtr + 1 }.demote slot e.1 with
      | some s1 => some (s1.bondOnce p)
      | none => none

/-- PROMOTION (R386, R388): a private LPDDR6 tile of a session that a slice has read goes to its home core's share; a park of the session
wins. -/
def doPromotion (slot entry : Nat) (s : State) : State :=
  let x := s.ses slot
  let p := x.part
  let live := x.state == .active || x.state == .waiting || x.state == .pulling
  match x.mortar.entries.get? entry, s.homeCore slot (colOf (s.pairsOf slot) entry) with
  | some e, some core =>
    if !(s.flag Fld.MEM_PLACE_PROMOTE p) || !(x.sliceRead.contains entry) || e.tier != .lpddr || e.shared || s.poisonedEntry e
        || x.op == .park || x.op == .moveOut || !live then s
    else
      let room := match s.storePlace p x.main core with
        | some o => some (o, s)
        | none =>
          match s.displace p x.main core with
          | none => none
          | some s1 => (s1.storePlace p x.main core).map (fun o => (o, s1))
      match room, s.tileAt e with
      | some (o, s1), some t =>
        let s2 := (((s1.wakeEntry e).freeTile e.frame).putTile (.store core o) t).setPoison (.store core o) (s.poisonAt (.frame e.frame))
        let s3 := s2.modSes slot (fun y => { y with
          mortar := { y.mortar with entries := y.mortar.entries.set entry { e with tier := .store, frame := storeFrame core o } }
          sliceRead := y.sliceRead.filter (fun (k : Nat) => k != entry) })
        (s3.bondOnce p)
      | _, _ => s
  | _, _ => s

end Sys2Proof.Machine
end

