-- ==== Sys2Proof/Machine/Persist.lean ====
section
/-!
DEFINITION. Persists of the token log, and revives (02_sessions.md R68, 05_parking_dressing_revival.md R194 to R198, 12 R800).
-/

namespace Sys2Proof.Machine

open Sys2Proof

-- Token-log persists (R68, R800) --------------------------------------------------------------------------------------------------

/-- Log entries that one quarter frame holds: four log frames of 1,020 (R168, R409). -/
def perFrameLog : Nat := 4080

/-- The entries at the front that a log and its persisted copy share. -/
def commonLen (a b : List LogEntry) : Nat :=
  match a, b with
  | x :: r, y :: t => if x = y then commonLen r t + 1 else 0
  | _, _ => 0

/-- Quarter frames of the persisted copy that stay as they are. -/
def Session.perKept (x : Session) : Nat := Nat.min (commonLen x.log x.perLog / perFrameLog) x.perFrames.length

/-- 4 KiB units that a persist programs. -/
def Session.perUnits (x : Session) : Nat := logFramesFor x.log.length - 4 * x.perKept

/-- Quarter frames that a persist stages. -/
def Session.perNeed (x : Session) : Nat := ceilDiv x.log.length perFrameLog - x.perKept

/-- Starts a persist of a session's log as a device bond, or skips it where the quarry cannot take it (R68, R800). The count
toward the next 256 starts again in both cases. -/
def State.persist (s : State) (slot : Nat) : State :=
  let x := s.ses slot
  let p := x.part
  let n := x.perNeed
  let s1 := s.modSes slot (fun y => { y with sincePersist := 0 })
  if x.log = x.perLog then s1
  else if s.qry.full n || !s.qryRoom p n then s1
  else
    let (id, s2) := s1.openBond p .persist slot none true x.log.length
    match s2.qStages p .quarter id n with
    | none => s2.abortQuarry p id
    | some (fs, s3) => (s3.stageActs p id [actList .quarryMap fs, actDirectory slot]).govCharge p (4096 * x.perUnits)

/-- The persist of a bond has been programmed (R416): the new frames become live, the ones they replace are trimmed. -/
def State.persistDone (s : State) (b : Bond) : State :=
  let x := s.ses b.slot
  let new := (s.qry.staged.filter (fun kv => kv.2.owner == b.part && kv.2.bond == b.id)).map (·.1)
  let keep := x.perFrames.take (ceilDiv b.arg perFrameLog - new.length)
  let old := x.perFrames.drop keep.length
  let s := (new.foldl (fun a f => a.qMap f) s).qTrims b.id old
  let s := s.modSes b.slot (fun y => { y with perFrames := keep ++ new, perLog := y.log.take b.arg })
  (s.mirrorSes b.slot).commitBond b.part b.id

/-- TOKEN_LOG_PERSIST (R68): 256 tokens have entered the log since the last persist; a persist that is still open comes first. -/
def doTokenLogPersist (slot : Nat) (s : State) : State :=
  let x := s.ses slot
  if x.state = .free ∨ x.sincePersist < 256 ∨ s.bonds.any (fun b => b.slot == slot && b.kind == .persist) then s
  else (s.persist slot)

-- Revives (R194 to R198) --------------------------------------------------------------------------------------------------------------

/-- The fetch order of a session's quarry-held tiles: layer, then column, then pair (R194). -/
def fetchOrder (es : AMap Nat MEntry) (pairs heads : Nat) : List Nat :=
  let layer (e : Nat) := if heads = 0 then 0 else pairOf pairs e / heads
  (sortBy (fun (a b : Nat × MEntry) =>
    if layer a.1 != layer b.1 then decide (layer a.1 < layer b.1) else decide (a.1 < b.1))
    (es.filter (fun kv => kv.2.tier == .quarry))).map (·.1)

/-- Key/value heads of a session's main model. -/
def State.headsOf (s : State) (slot : Nat) : Nat :=
  let x := s.ses slot
  match s.ctx x.part x.main with
  | some c => c.img.heads
  | none => 0

/-- Starts the revive of a PARKED session (R59, R194): state PULLING, which a bond of its own records. -/
def State.startRevive (s : State) (slot : Nat) (o : Option Owner) : State :=
  let x := s.ses slot
  let r : ReviveRun := ⟨o, x.perFrames, fetchOrder x.mortar.entries (s.pairsOf slot) (s.headsOf slot),
    s.fld Fld.DRS_CFG_READ_AHEAD x.part, Tally.zero⟩
  { (s.recordBond slot).modSes slot (fun y => { y with state := .pulling }) with revives := s.revives.set slot r }

/-- The lowest layer that a running request has not served in its current step (R194). -/
def State.lowLayer (s : State) (slot : Nat) : Option Nat :=
  match s.req slot with
  | none => none
  | some q =>
    if q.phase = .ending then none
    else
      let heads := s.headsOf slot
      let layers := match s.ctx q.part q.main with | some c => c.img.layers | none => 0
      some (((List.range layers).find? (fun l =>
        (List.range heads).any (fun h => !(q.served.contains (l, h))))).getD 0)

/-- Whether a slice waits for the tile of an entry. -/
def State.wantsTile (s : State) (slot e : Nat) : Bool :=
  s.slices.any (fun w => w.slot == slot && w.stalled && (s.workEntries w).any (fun kv => kv.1 == e))

/-- Whether the fetch of an entry may run now (R194, R195): a waiting slice needs it, no request runs, or its layer lies within
the read-ahead. -/
def State.mayFetch (s : State) (slot e : Nat) : Bool :=
  let heads := s.headsOf slot
  let layer := if heads = 0 then 0 else pairOf (s.pairsOf slot) e / heads
  match s.lowLayer slot with
  | none => true
  | some l =>
    decide (layer < l + (match s.revives.get? slot with | some r => r.ahead | none => 0))
      || s.wantsTile slot e

/-- A revive ends without the whole session (R196, R198): the session is in the given state; SES_REVIVE or the running request ends
with the status. -/
def State.stopRevive (s : State) (slot : Nat) (dest : SesState) (st : Status) : State :=
  match s.revives.get? slot with
  | none => s
  | some r =>
    let s := { s with revives := s.revives.erase slot }
    let s := (s.recordBond slot).modSes slot (fun y => { y with state := dest })
    let s := s.endReq slot st
    match r.owner with
    | some o => ((s.modSes slot (fun y => { y with op := .none })).touch slot).completeFor o st
    | none => s.modSes slot (fun y => if y.op = .revive then { y with op := .none } else y)

/-- The whole session is back (R59, R197): the bond that brought its last tile back also writes the directory record. -/
def State.finishRevive (s : State) (slot bond : Nat) : State :=
  match s.revives.get? slot with
  | none => s
  | some r =>
    let x := s.ses slot
    let s := match x.rootCopy with | some f => s.qTrim bond f | none => s
    let s := { s with revives := s.revives.erase slot }
    let running := (s.req slot).isSome
    let s := s.modSes slot (fun y => { y with
      state := if running then .active else .waiting, op := if running then y.op else .none, rootCopy := none })
    let s := s.mirrorSes slot
    match r.owner with
    | some o => (s.touch slot).completeFor o .ok
    | none => s

/-- Ends a revive whose pages, log and tiles are all back, by the bond `bond` (R197). -/
def State.checkRevive (s : State) (slot bond : Nat) : State :=
  match s.revives.get? slot with
  | none => s
  | some r =>
    if r.logLeft.isEmpty && r.fetch.isEmpty && ((s.ses slot).mortar.pageLocators).isEmpty then
      s.finishRevive slot bond
    else s

/-- The mortar pages of a quarter frame return to LPDDR6 (R194). -/
def State.pagesBack (s : State) (slot frame : Nat) : Option State :=
  let x := s.ses slot
  let isIn (pg : PagePtr) : Bool := pg.quarry && pg.frame / 4 == frame
  let count := ((x.mortar.index ++ x.mortar.leaf).filter (fun kv => isIn kv.2)).length
  match s.allocMors x.part ⟨x.part, .priv, 0, slot, []⟩ count with
  | none => none
  | some (fs, s1) =>
    let put (ps : AMap Nat PagePtr) (fs : List Nat) : AMap Nat PagePtr × List Nat :=
      ps.foldl (fun (a : AMap Nat PagePtr × List Nat) kv =>
        match isIn kv.2, a.2 with
        | true, f :: r => (a.1 ++ [(kv.1, ⟨false, f⟩)], r)
        | _, _ => (a.1 ++ [kv], a.2)) ([], fs)
    let ix := put x.mortar.index fs
    let lf := put x.mortar.leaf ix.2
    let s2 := s1.modSes slot (fun y => { y with mortar := { y.mortar with index := ix.1, leaf := lf.1 } })
    some ((s2.bondOnce x.part).qTrim (s1.nextBond x.part) frame)

/-- A tile returns from the quarry (R196): to its home core's share where it has room, else to LPDDR6. -/
def State.tileBack (s : State) (slot k : Nat) (e : MEntry) : Option State :=
  match s.tileAt e, s.newPlace slot (colOf (s.pairsOf slot) k) with
  | some t, some (tier, frame, loc, s1) =>
    let p := (s.ses slot).part
    let s2 := (s1.putTile loc t).modSes slot (fun y => { y with mortar := { y.mortar with
      entries := y.mortar.entries.set k { e with tier := tier, frame := frame } } })
    some (((s2.bondOnce p).qTrim (s1.nextBond p) e.frame).bump Fld.DRS_REVIVED_COUNT p)
  | _, _ => none

/-- One more tile of a revive or of its request has moved (R467). -/
def State.tallyRevive (s : State) (slot id : Nat) : State :=
  let s := { s with revives := s.revives.modify slot (fun r => { r with tally := r.tally.add id tileBytes }) }
  s.modReq slot (fun q => q.tally id tileBytes)

/-- The session whose revive next reads a quarry frame (R194): pages first, then the log, then tiles in fetch order. -/
def State.reviveOf (s : State) (frame : Nat) : Option Nat :=
  (s.revives.find? (fun kv =>
    let slot := kv.1
    let r := kv.2
    let pages := locFrames (s.ses slot).mortar.pageLocators
    if !pages.isEmpty then pages.contains frame
    else
      match r.logLeft with
      | f :: _ => f == frame
      | [] =>
        match r.fetch with
        | k :: _ => s.mayFetch slot k &&
            (match (s.ses slot).mortar.entries.get? k with | some e => e.frame == frame && e.tier == .quarry | none => false)
        | [] => false)).map (·.1)

/-- A page that a revive has read arrives (R194 to R198). -/
def State.reviveRead (s : State) (slot frame : Nat) (bad : Bool) : State :=
  match s.revives.get? slot with
  | none => s
  | some r =>
    let x := s.ses slot
    let pages := locFrames x.mortar.pageLocators
    if bad then s.stopRevive slot .failed .stateLostFailed
    else if !pages.isEmpty then
      match s.pagesBack slot frame with
      | some s1 => s1.checkRevive slot (s.nextBond x.part)
      | none => s.stopRevive slot .parked .quotaLpddr6
    else
      match r.logLeft with
      | f :: rest =>
        let s1 := { s with revives := s.revives.set slot { r with logLeft := rest } }
        if f != frame then s
        else if rest.isEmpty then
          match s1.growLog slot x.log.length with
          | some s2 => (s2.bondOnce x.part).checkRevive slot (s2.nextBond x.part)
          | none => s.stopRevive slot .parked .quotaLpddr6
        else s1
      | [] =>
        match r.fetch with
        | k :: rest =>
          match x.mortar.entries.get? k with
          | none => s
          | some e =>
            match s.tileBack slot k e with
            | none => s.stopRevive slot .parked .quotaLpddr6
            | some s1 =>
              let s2 := { s1 with revives := s1.revives.modify slot (fun y => { y with fetch := rest }) }
              (s2.tallyRevive slot (s.nextBond x.part)).checkRevive slot (s.nextBond x.part)
        | [] => s

end Sys2Proof.Machine
end

