-- ==== Sys2Proof/Machine/Handoff.lean ====
section
/-!
DEFINITION. Handoff bonds: the appending phase, tile pushes, exact re-prefill, and local prefill on the fallback model
(13_bonds_and_interrupted_work.md R460 to R463, 05 R189 to R193, 10 R352 to R354, 17 R580, R581).
-/

namespace Sys2Proof.Machine

open Sys2Proof

-- The range of a handoff (R460, R461) -------------------------------------------------------------------------------------------------

/-- The lowest column at which a shared tile of a session is poisoned (R190). -/
def State.poisonedCol (s : State) (slot : Nat) : Option Nat :=
  leastBy (fun a b => decide (a < b)) (((s.ses slot).mortar.entries.filter (fun kv => kv.2.shared && s.poisonedEntry kv.2)).map
    (fun kv => colOf (s.pairsOf slot) kv.1))

/-- Whether an exact re-prefill keeps an entry by reference: a shared tile in a column below the first poisoned one (R190). -/
def State.keepsEntry (s : State) (slot : Nat) (kv : Nat × MEntry) : Bool :=
  kv.2.shared && (match s.poisonedCol slot with
    | some t0 => decide (colOf (s.pairsOf slot) kv.1 < t0)
    | none => true)

/-- The entries that a handoff builds on: all of the session's, or those that an exact re-prefill keeps. -/
def State.baseEntries (s : State) (slot : Nat) (rebuild : Bool) : AMap Nat MEntry :=
  let es := (s.ses slot).mortar.entries
  if rebuild then es.filter (s.keepsEntry slot) else es

/-- A tile that a handoff expects for a pair: column, first and one past the last logical position, and whether it continues a
partly filled tile (R461). -/
structure Expect where
  col     : Nat
  first   : Nat
  last    : Nat
  partial_ : Bool
  deriving DecidableEq, Repr

/-- Cuts a range into columns of at most P positions. -/
def columnsFrom (fuel p col first last : Nat) : List Expect :=
  match fuel with
  | 0 => []
  | n + 1 =>
    if last ≤ first then []
    else ⟨col, first, Nat.min last (first + p), false⟩ :: columnsFrom n p (col + 1) (first + p) last

/-- The tiles that a handoff expects of one pair. -/
def expected (base : AMap Nat MEntry) (pairs p j first last : Nat) : List Expect :=
  match lastEntry base pairs j with
  | none => columnsFrom (last - first) p 0 first last
  | some (k, e) =>
    let t := colOf pairs k
    if p ≤ e.fill then columnsFrom (last - first) p (t + 1) first last
    else if e.fill = 0 then columnsFrom (last - first) p t first last
    else if last ≤ first then []
    else
      let cut := Nat.min last (first + (p - e.fill))
      ⟨t, first, cut, true⟩ :: columnsFrom (last - cut) p (t + 1) cut last

/-- The tiles that a session's handoff still expects or has staged, by mortar index. -/
def State.expectAll (s : State) (slot : Nat) (c : CtxImage) (h : Handoff) : List (Nat × Expect) :=
  let base := s.baseEntries slot h.rebuild
  ((List.range c.pairs).map (fun j =>
    (expected base c.pairs c.geom.p j h.first h.last).map (fun x => (x.col * c.pairs + j, x)))).flatten

/-- Entries that a re-prefill of a FAILED session starts from (R193): its persisted log, or that of a move's offer. -/
def Session.rebuildBase (x : Session) : List LogEntry :=
  if x.state = .failed ∧ x.offerLog = 0 then x.perLog else x.log

/-- LOG_COUNT at the commit of an exact re-prefill (R193). -/
def Session.rebuildCount (x : Session) : Nat :=
  if x.state = .failed then Nat.min x.log.length (Nat.max x.perLog.length x.offerLog) else x.log.length

/-- The log that an exact re-prefill leaves (R193). -/
def Session.rebuildLog (x : Session) : List LogEntry :=
  (x.rebuildBase ++ x.log.drop x.rebuildBase.length).take x.rebuildCount

-- Opening (R460, R580) -------------------------------------------------------------------------------------------------------------------

/-- Opens a handoff bond over a range. -/
def State.openHandoff (s : State) (slot first last : Nat) (rebuild : Bool) (shareTo logTo : Nat) (prior : SesState)
    (o : Option Owner) : State :=
  let p := (s.ses slot).part
  let who := match o, s.req slot with
    | some w, _ => some w
    | none, some q => some ⟨q.fn, q.sq, q.tag⟩
    | none, none => none
  let (id, s1) := s.openBond p .handoff slot who false
  { s1 with handoffs := s1.handoffs.set slot ⟨first, last, [], [], id, rebuild, shareTo, logTo, prior, o⟩ }

/-- Staged tiles become the session's (R462): the entries they replace are released. The tiles of a new column leave their staging
frames for the share of their home core where it has room (R117). -/
def State.installStaged (s : State) (slot : Nat) (c : CtxImage) (bond : Nat) (st : List (Nat × Nat)) : State :=
  st.foldl (fun a kf =>
    match a.tiles.get? (.frame kf.2) with
    | none => a
    | some t =>
      let old := (a.ses slot).mortar.entries.get? kf.1
      let spot := if old.isNone then a.storeSpot slot (colOf c.pairs kf.1) else none
      let a := match old with | some e => a.dropEntry bond e | none => a
      let a := match spot with | some (e, o) => (a.putTile (.store e o) t).freeTile kf.2 | none => a
      let at_ : Tier × Nat := match spot with | some (e, o) => (.store, storeFrame e o) | none => (.lpddr, kf.2)
      let e : MEntry := ⟨at_.1, c.geom.fmt8, t.dressed, false, t.fill, 0, at_.2⟩
      a.modSes slot (fun x => { x with mortar := { x.mortar with entries := x.mortar.entries.set kf.1 e } })) s

/-- The log that a handoff leaves: the kept part with the appended input (R462, R169). -/
def appendLog (log : List LogEntry) (input : List Nat) : List LogEntry :=
  match input with
  | [] => log
  | t :: r => log ++ ⟨t, false, true⟩ :: r.map (fun k => ⟨k, false, false⟩)

/-- The start of a request's generating phase (R305): the opening draw is due; with MAX_TOKENS 0 the request ends here (R322). -/
def State.beginGenerating (s : State) (slot : Nat) : State :=
  match s.req slot with
  | none => s
  | some q =>
    let zero := decide (q.args.sample.maxTokens = 0)
    let s1 := s.setReq slot { q with phase := .generating, opening := true, input := [],
                                     first := if zero then q.first.stop else q.first }
    if zero then s1.endReq slot .okLength else s1

/-- Commits a request's handoff bond (R462); none where a mortar page or log frame is lacking. -/
def State.commitAppend (s : State) (slot : Nat) (h : Handoff) (c : CtxImage) (q : Req) : Option State :=
  let x := s.ses slot
  match s.growMortar x.part slot x.mortar (h.staged.map (·.1)) with
  | none => none
  | some (m, s1) =>
    let s2 := (s1.modSes slot (fun y => { y with mortar := m })).installStaged slot c h.bond h.staged
    let log := appendLog x.log q.input
    match s2.growLog slot log.length with
    | none => none
    | some s3 =>
      let s4 := s3.modSes slot (fun y => { y with log := log, nextPos := Nat.max y.nextPos h.last,
                                                  sincePersist := y.sincePersist + q.input.length })
      let pen := q.input.foldl (fun (a : Penalty × List LogEntry) t =>
        let l := a.2 ++ [⟨t, false, false⟩]
        (a.1.slide q.args.sample l, l)) (q.pen, x.log)
      let q' := { q.tally h.bond (tileBytes * h.staged.length) with
        firstLog := q.firstLog && q.input.isEmpty, pen := pen.1 }
      let s5 := { s4.setReq slot q' with handoffs := s4.handoffs.erase slot }.commitBond x.part h.bond
      let s5 := if pen.1.overflowed && !q.pen.overflowed then s5.bump Fld.SMP_OVERFLOWS_COUNT x.part else s5
      some ((s5.persist slot).beginGenerating slot)

/-- Commits an exact re-prefill (R192, R193): the rebuilt tiles replace the old private ones; none where a page or log frame is
lacking. -/
def State.commitRebuild (s : State) (slot : Nat) (h : Handoff) (c : CtxImage) : Option State :=
  let x := s.ses slot
  let keep := s.baseEntries slot true
  let drop := x.mortar.entries.filter (fun kv => !(keep.has kv.1))
  let s1 := (s.dropEntries h.bond drop).qTrims h.bond (locFrames x.mortar.pageLocators)
  let m : Mortar := { x.mortar with entries := keep, index := x.mortar.index.filter (fun kv => !kv.2.quarry),
                                    leaf := x.mortar.leaf.filter (fun kv => !kv.2.quarry) }
  match s1.growMortar x.part slot m (keep.map (·.1) ++ h.staged.map (·.1)) with
  | none => none
  | some (m1, s2) =>
    let s3 := (s2.modSes slot (fun y => { y with mortar := m1 })).installStaged slot c h.bond h.staged
    match s3.growLog slot h.logTo with
    | none => none
    | some s4 =>
      let s5 := match x.rootCopy with | some f => s4.qTrim h.bond f | none => s4
      let s6 := s5.modSes slot (fun y => { y with
        log := y.log.take h.logTo, nextPos := h.last, pfxTiles := h.shareTo, dressed := false, poisoned := false, rootCopy := none,
        offerLog := 0 })
      let s7 := { s6 with handoffs := s6.handoffs.erase slot }.commitBond x.part h.bond
      some ((s7.modReq slot (fun q => q.tally h.bond (tileBytes * h.staged.length))).mirrorSes slot)

-- The appending phase of a request ------------------------------------------------------------------------------------------------------------

/-- Whether the log of a session that a revive is fetching is back (R194). -/
def State.logIsBack (s : State) (slot : Nat) : Bool :=
  match s.revives.get? slot with
  | some r => r.logLeft.isEmpty && (s.ses slot).mortar.pageLocators.isEmpty
  | none => true

/-- Ends the work that a handoff serves with a status (R191, R460, R463): the request, or the SES_REVIVE that asked. -/
def State.failHandoff (s : State) (slot : Nat) (st : Status) (report : Nat := 0) : State :=
  match s.handoffs.get? slot with
  | none => s
  | some h =>
    match h.owner with
    | some o => (((s.abortHandoff slot).modSes slot (fun x => { x with op := .none })).touch slot).completeFor o st 0 report
    | none => s.endReq slot st 0 report

/-- The tokens of a session's log from an index on. -/
def logTokens (log : List LogEntry) (i : Nat) : List Nat := (log.drop i).map (·.token)

/-- Starts the appending phase on the main model (R460, R580): the handoff bond opens over the tail token, the catch-up positions
and the input, and the front partner receives them; a handoff whose range is empty commits as soon as it opens. -/
def State.beginAppend (s : State) (slot : Nat) : State :=
  match s.req slot, s.mainImg slot with
  | some q, some c =>
    let x := s.ses slot
    let toks := logTokens x.log x.nextPos ++ q.input
    let s1 := s.setReq slot { q with phase := .appending, appendFrom := x.nextPos, appendTokens := toks,
                                     rangeTo := x.nextPos + toks.length }
    let s2 := s1.openHandoff slot x.nextPos (x.nextPos + toks.length) false 0 0 x.state none
    let s3 := if toks.isEmpty then s2.sendStream q 1 0 x.nextPos [] else s2.sendChain q 1 x.nextPos toks
    if toks.isEmpty && s3.logIsBack slot then
      match s3.handoffs.get? slot, s3.req slot with
      | some h, some q' => (s3.commitAppend slot h c q').getD (s3.endReq slot .quotaLpddr6)
      | _, _ => s3
    else s3
  | _, _ => s

-- The fallback model (R41, R336, R337, R352, R353) -----------------------------------------------------------------------------------------

/-- What the fallback binding of a session gives a request (R336, R337): nothing, a context that is LOADING, one that cannot run, or
one that is READY. -/
inductive FbState where
  | unbound
  | loading
  | down
  | ready (c : Nat) (img : CtxImage)
  deriving DecidableEq, Repr

/-- The fallback context of a session, by the BINDING of its directory record (R336). -/
def State.fallbackOf (s : State) (slot : Nat) : FbState :=
  let x := s.ses slot
  if x.fallback = 0x3F then .unbound
  else
    match s.ctx x.part x.fallback with
    | none => .down
    | some f =>
      if f.img.kind != .fallback then .unbound else
      match f.state with
      | .ready => .ready x.fallback f.img
      | .loading => .loading
      | _ => .down

/-- The tiles of a fallback mortar over so many positions: every pair's columns, by index, with the range of each. -/
def fbExpect (c : CtxImage) (n : Nat) : List (Nat × Expect) :=
  ((List.range c.pairs).map (fun j => (columnsFrom n c.geom.p 0 0 n).map (fun x => (x.col * c.pairs + j, x)))).flatten

/-- Allocates a fallback mortar for so many positions (R352), its tiles and its pages, to a request; none where its frames do not fit. -/
def State.allocFb (s : State) (q : Req) (c : CtxImage) (n : Nat) : Option State :=
  let ks := (fbExpect c n).map (·.1)
  match s.allocTiles q.part ⟨q.part, .priv, 0, q.slot, []⟩ ks.length with
  | none => none
  | some (fs, s1) =>
    s1.fbGrow { q with fbPages := [] } ((ks.zip fs).map (fun kf => (kf.1, ⟨.lpddr, c.geom.fmt8, false, false, 0, 0, kf.2⟩)))

/-- Starts the appending phase of a request on the fallback model (R41, R349, R460): the handoff bond opens over its range, and the
fallback mortar is allocated. Where it does not fit, a request that started on the fallback model ends, and one that was to switch
stays on the main model (R352). -/
def State.beginFallback (s : State) (slot : Nat) : State :=
  match s.req slot with
  | none => s
  | some q =>
    match s.ctx q.part q.fbCtx with
    | none => s.endReq slot .contextContextDown
    | some f =>
      let x := s.ses slot
      let n := x.log.length + q.input.length
      match s.allocFb q f.img n with
      | none =>
        if q.startedFallback then s.endReq slot .quotaLpddr6
        else (s.setReq slot { q with fbCtx := 0x3F }).beginAppend slot |>.bump Fld.SCH_SWITCH_FAILS_COUNT q.part
      | some s1 =>
        let s2 := s1.modReq slot (fun r => { r with
          phase := .appending, onFallback := true, fbReady := false,
          inter := if q.startedFallback then r.inter else r.inter.start (s.marks q.part) })
        let s3 := s2.openHandoff slot x.nextPos n false 0 0 x.state none
        if q.startedFallback then s3 else s3.bump Fld.SCH_SWITCHES_COUNT q.part

/-- Starts the appending phase of a request's own input: on the fallback model where that has been chosen for it, else on the main
model. -/
def State.beginOwn (s : State) (slot : Nat) : State :=
  match s.req slot with
  | none => s
  | some q => if q.fbCtx = 0x3F then s.beginAppend slot else s.beginFallback slot

/-- Whether every expected tile of a handoff is staged. -/
def State.allStaged (s : State) (slot : Nat) (c : CtxImage) (h : Handoff) : Bool :=
  (s.expectAll slot c h).all (fun kx => h.staged.has kx.1)

/-- Commits a session's handoff bond where everything it waits for is there (R462, R194). -/
def State.tryCommit (s : State) (slot : Nat) : State :=
  match s.handoffs.get? slot, s.mainImg slot with
  | some h, some c =>
    if !(s.allStaged slot c h) || !(s.logIsBack slot) then s
    else if h.rebuild then
      match s.commitRebuild slot h c with
      | none => s.failHandoff slot .quotaLpddr6
      | some s1 =>
        match h.owner with
        | some o =>
          let lost := (s.ses slot).log.length - h.logTo
          (((s1.modSes slot (fun x => { x with state := .waiting, op := .none })).persist slot).touch slot).completeFor o .ok (lost * 2 ^ 32)
        | none =>
          let s2 := s1.modSes slot (fun x => { x with state := .active })
          let lost := (s.ses slot).log.length - h.logTo
          ((s2.modReq slot (fun q => { q with lost := lost, exact := false })).persist slot).beginOwn slot
    else
      match s.req slot with
      | none => s
      | some q =>
        if q.onFallback then s
        else (s.commitAppend slot h c q).getD (s.endReq slot .quotaLpddr6)
  | _, _ => s

-- Tile pushes (R460, R461, R581) ------------------------------------------------------------------------------------------------------------------

/-- Whether a pushed tile carries exactly the positions that a handoff expects in its column (R461). -/
def pushFits (x : Expect) (t : PushedTile) : Bool :=
  t.part == x.partial_ && t.tile.positions.map (·.pos) == List.range' x.first (x.last - x.first)

/-- The tile that a push stages: new, or the partly filled last tile with the new positions after its own (R461). -/
def State.stagedTile (s : State) (slot : Nat) (k : Nat) (t : PushedTile) : Tile :=
  let x := s.ses slot
  let fresh := t.tile.positions.map (fun (p : TPos) => { p with mass := 0 })
  let base : Tile := { t.tile with
    source := s.handleOf slot, dressed := false, shared := false, prefixId := 0xFFFF, massEpoch := x.reqCount,
    positions := fresh }
  if !t.part then base
  else
    match (x.mortar.entries.get? k).bind s.tileAt with
    | none => base
    | some old =>
      { old with source := s.handleOf slot, shared := false, prefixId := 0xFFFF,
                 massEpoch := if old.shared then x.reqCount else old.massEpoch, positions := old.positions ++ fresh }

/-- Stages a pushed tile, in the place of an earlier copy or in a fresh frame, and appends it to the bond's list of tiles to install
(R444, R460); none where no frame is free. -/
def State.stagePush (s : State) (slot : Nat) (h : Handoff) (k peer : Nat) (t : Tile) : Option State :=
  let peers := if h.peers.contains peer then h.peers else h.peers ++ [peer]
  match h.staged.get? k with
  | some n => some ({ s with handoffs := s.handoffs.set slot { h with peers := peers } }.putTile (.frame n) t)
  | none =>
    match s.allocTile (s.ses slot).part ⟨(s.ses slot).part, .priv, 0, slot, []⟩ with
    | none => none
    | some (n, s1) =>
      let staged := h.staged.set k n
      some (({ s1 with handoffs := s1.handoffs.set slot { h with staged := staged, peers := peers } }.stageActs (s.ses slot).part h.bond
        [actList .tileInstall (staged.map (fun (kv : Nat × Nat) => kv.2))]).putTile (.frame n) t)

/-- The composition and epoch under which a session's handoff runs. -/
def State.handoffEpoch (s : State) (slot : Nat) : Nat × Nat :=
  match s.req slot with
  | some q => (q.comp, q.epoch)
  | none => ((s.ses slot).comp, (s.ses slot).epoch)

/-- Whether a sender and epoch pass R599 for a composition and epoch. -/
def State.senderOk (s : State) (comp epoch : Nat) (h : Hdr) : Bool :=
  h.epoch == epoch && (match s.peerOfSrc h.src, s.mapOf comp epoch with
    | some (_, x), some m => m.names x.id
    | _, _ => false)

/-- A tile push of a partner (R460): dropped where its sender, its epoch or the handoff fails, refused where it does not fit the
range, else staged. -/
def State.tilePush (s : State) (hd : Hdr) (peer : Nat) (t : PushedTile) : State :=
  let stale := s.bump Fld.CMP_STALE_COUNT
  if (s.checkHandle (some hd.part) hd.handle).isSome then stale
  else
    let slot := handleSlot hd.handle
    match s.handoffs.get? slot, s.mainImg slot with
    | some h, some c =>
      let ce := s.handoffEpoch slot
      let fallback := match s.req slot with | some q => q.onFallback | none => false
      if fallback || !(s.senderOk ce.1 ce.2 hd) then stale
      else if t.tile.geom != c.geom then s.failHandoff slot .configTileGeometry
      else
        let j := t.layer * c.heads + t.head
        let k := t.column * c.pairs + j
        match (s.expectAll slot c h).find? (fun kx => kx.1 == k) with
        | none => s.failHandoff slot .configPushRange
        | some kx =>
          if c.heads ≤ t.head || !(pushFits kx.2 t) then s.failHandoff slot .configPushRange
          else
            match s.stagePush slot h k peer { s.stagedTile slot k t with layer := t.layer, head := t.head } with
            | none => s.failHandoff slot .quotaLpddr6
            | some s1 => s1.tryCommit slot
    | _, _ => stale

/-- TILE_PUSH (R460, R581). -/
def doTilePush (hd : Hdr) (t : PushedTile) (s : State) : State :=
  (s.receive hd 7 false (some 18480) (fun i _ a => a.tilePush hd i t))

/-- Whether a session's handoff waits for pushes of a partner. -/
def State.awaitsPush (s : State) (slot : Nat) : Bool :=
  s.handoffs.has slot && !(match s.req slot with | some q => q.onFallback | none => false)

/-- HANDOFF_TIMEOUT (R463): HANDOFF_MS have passed without a push. -/
def doHandoffTimeout (slot : Nat) (s : State) : State :=
  (if s.awaitsPush slot then s.failHandoff slot .peerPrefillLost else s)

-- Exact re-prefill (R189 to R193) ----------------------------------------------------------------------------------------------------------------------

/-- Whether a re-prefill reads the persisted log from the quarry (R191, R193): on a FAILED session, unless a move's offer brought the
log; on a PARKED one whose log is not in LPDDR6. -/
def State.logFromQuarry (s : State) (slot : Nat) : Bool :=
  let x := s.ses slot
  if x.state = .failed then x.offerLog == 0 else x.logFrames.isEmpty && !x.perFrames.isEmpty

/-- Where a re-prefill cannot start (R191). -/
def State.rebuildRefusal (s : State) (slot : Nat) : Option Status :=
  let x := s.ses slot
  let m := (s.compById x.comp).map (·.cur)
  let front := match m with | some y => s.mapServes y slot | none => false
  if !front then some .peerNoPartner
  else if !(s.logFromQuarry slot) then none
  else if !s.qry.mounted then some .mediaQuarryDown
  else if x.perFrames.any (fun f => s.unreadable f) then some .mediaQuarryRead
  else none

/-- Starts an exact re-prefill of a PARKED or FAILED session (R189 to R191): state PULLING, a handoff bond over the rebuilt positions,
and their tokens to the front partner. -/
def State.startRebuild (s : State) (slot : Nat) (o : Option Owner) : State :=
  let x := s.ses slot
  let s := (if s.logFromQuarry slot then x.perFrames else []).foldl (fun a f => a.qRead f .hard) s
  let keep := s.baseEntries slot true
  let first := ((pairEntries keep (s.pairsOf slot) 0).map (fun kv => kv.2.fill)).sum
  let share := match s.poisonedCol slot with | some t0 => Nat.min t0 x.pfxTiles | none => x.pfxTiles
  let logTo := x.rebuildCount
  let last := if x.state = .failed then logTo else x.nextPos
  let log := x.rebuildBase
  let epoch := match s.compById x.comp with | some c => c.cur.epoch | none => 0
  let s1 := (s.recordBond slot).modSes slot (fun y => { y with state := .pulling, epoch := epoch, log := log ++ y.log.drop log.length })
  let s2 := s1.openHandoff slot first last true share logTo x.state o
  let toks := ((log.take last).drop first).map (·.token)
  let q : Option Req := s.req slot
  let s3 := match s.mapOf x.comp epoch with
    | none => s2
    | some m =>
      match s2.frontOf m slot with
      | none => s2
      | some (i, _) =>
        ((chunks 16370 toks).foldl (fun (a : State × Nat) c =>
          (a.1.sendTo i x.part epoch x.comp (s.handleOf slot) 0 (s.ctxClass x.part x.main) (.tokenStream 2 0 a.2 c),
           a.2 + c.length)) (s2, first)).1
  let s4 := match q with | some r => s3.setReq slot { r with phase := .appending, exact := true } | none => s3
  s4.tryCommit slot

-- Prefilled tiles of the fallback model (R352, R353) ------------------------------------------------------------------------------------------

/-- Whether tiles are exactly those of a fallback mortar over n positions. -/
def fbTilesOk (c : CtxImage) (n : Nat) (ts : List PushedTile) : Bool :=
  (fbExpect c n).all (fun kx => ts.any (fun t =>
    t.column * c.pairs + t.layer * c.heads + t.head == kx.1 && t.tile.geom == c.geom && pushFits kx.2 { t with part := false }))

/-- Fills a fallback mortar with prefilled tiles. -/
def State.fillFb (s : State) (q : Req) (c : CtxImage) (ts : List PushedTile) : State :=
  let r := q.fbTiles.foldl (fun (a : AMap Nat MEntry × State) kv =>
    match ts.find? (fun t => t.column * c.pairs + t.layer * c.heads + t.head == kv.1) with
    | none => (a.1.set kv.1 kv.2, a.2)
    | some t =>
      let ps := t.tile.positions.map (fun (p : TPos) => { p with mass := 0 })
      let tile : Tile := { t.tile with
        source := s.handleOf q.slot, layer := t.layer, head := t.head, dressed := false, shared := false,
        prefixId := 0xFFFF, massEpoch := (s.ses q.slot).reqCount, positions := ps }
      (a.1.set kv.1 { kv.2 with fill := tile.fill }, a.2.putTile (.frame kv.2.frame) tile)) ([], s)
  r.2.modReq q.slot (fun y => { y with fbTiles := r.1, fbReady := true, opening := true })

/-- FALLBACK_PREFILL_DONE (R352, R460): the fallback tiles of a request are complete. A request that started on the fallback model
commits its handoff bond, which appends its input; one that switched goes on to its first fallback draw. -/
def doFallbackPrefillDone (slot : Nat) (ts : List PushedTile) (s : State) : State :=
  match s.req slot with
  | none => s
  | some q =>
    match s.ctx q.part q.fbCtx with
    | none => s
    | some f =>
      let x := s.ses slot
      let n := x.log.length + (if q.phase = .appending then q.input.length else 0)
      if !q.onFallback || q.fbReady || q.phase = .ending || !(fbTilesOk f.img n ts) || !(s.logIsBack slot) then s
      else
        let s1 := s.fillFb q f.img ts
        if q.phase = .generating then s1
        else
          match s1.handoffs.get? slot, s1.req slot with
          | some h, some q' =>
            ((s1.commitAppend slot { h with last := x.nextPos } f.img q').getD (s1.endReq slot .quotaLpddr6))
          | _, _ => s1

end Sys2Proof.Machine
end

