-- ==== Sys2Proof/Machine/Admission.lean ====
section
/-!
DEFINITION. The admission of a request (02_sessions.md R65 to R67, R805; 07 R257 to R262, R306; 10 R337, R344).
-/

namespace Sys2Proof.Machine

open Sys2Proof

/-- A request as it starts (R64), with the marks of its budgets and those whose notice it received in the queue. -/
def newReq (u : Sub) (a : ReqArgs) (p slot main : Nat) (lc : Bool) (m : Nat × Nat) (noted : List Nat) : Req :=
  { fn := u.fn, sq := u.sq, tag := u.tag, flags := u.flags, part := p, slot := slot, phase := .admitted, wait := none, args := a,
    main := main, comp := 0, epoch := 0, seed := a.sample.seed, committed := 0, lost := 0,
    input := (match a.input with | .tokens ts => ts | .text _ => []), appendFrom := 0, appendTokens := [], rangeTo := 0,
    firstLog := true, served := [], opening := true, pending := [], frames := [], chunks := [], packet := none,
    maskReady := true, pen := ⟨[], [], 0, false⟩, utf8 := [], stopHold := [],
    emit := if a.text.noEmit then none else some ⟨a.ring, a.ringHead, a.ringTail, 0⟩,
    held := none, heldEnd := none, grammar := none, onFallback := false, startedFallback := false, fbCtx := 0x3F, fbTiles := [],
    fbPages := [], fbReady := false, first := ⟨a.budFirst, lc && a.budFirst != 0, noted.contains 0, m.1, m.2⟩,
    inter := ⟨a.budInter, false, false, 0, 0⟩, total := ⟨a.budTotal, lc && a.budTotal != 0, noted.contains 2, m.1, m.2⟩, bonds := 0, moved := 0, lastBond := 0, exact := u.flags.exact, report := 0 }

/-- A request that ends while it is queued, by its deadline or by a fault: R322 excepts only a cancel from the end record. One whose block
or ring descriptor is not well formed has no ring that a record could go to (log entry 77). -/
def State.endQueued (s : State) (u : Sub) (a : ReqArgs) (st : Status) (report : Nat := 0) : State :=
  let x := s.ses u.slot
  let q := newReq u a x.part u.slot x.main false (0, 0) []
  s.endLate { q with emit := if u.paramBad || !a.blockOk || u.resv || !a.ring.ok then none else q.emit, report := report } st

/-- A refusal at admission (R805): nothing changes in the session. A session that is being pulled goes on with that. -/
def State.refuseReq (s : State) (slot : Nat) (st : Status) : State :=
  match s.req slot with
  | none => s
  | some q =>
    let s := { s with reqs := s.reqs.erase slot }.leaveGrammar q.part q.grammar
    let op := s.opAfter slot
    let s := s.modSes slot (fun x => { x with op := op })
    s.post { fn := q.fn, sq := q.sq, tag := q.tag, status := st, result := 0, report := 0, notice := false, ends := some slot }

-- Checks (R805) -------------------------------------------------------------------------------------------------------------------------

/-- Orders 2 to 5 of R805. A session that is being pulled runs requests (R199 order 6). -/
def State.checkReqA (s : State) (u : Sub) (a : ReqArgs) : Option Status :=
  let x := s.ses u.slot
  if u.paramBad || !a.blockOk then some .configParamBlock
  else if u.resv || a.sample.resv || a.text.resv || a.gram.resv then some .configReservedField
  else if x.state = .failed ∧ ¬u.flags.exact then some .stateLostFailed
  else if u.flags.exact ∧ x.state ≠ .parked ∧ x.state ≠ .failed then some .configWrongState
  else if x.state ≠ .opened ∧ x.state ≠ .waiting ∧ x.state ≠ .parked ∧ x.state ≠ .failed ∧ ¬s.movesIn.has u.slot then
    some .configWrongState
  else if u.flags.fallback || x.comp == 0 then none
  else
    match s.compHeld x.comp with
    | none => some .configCompositionUnknown
    | some c => if c.part = x.part ∧ c.main = x.main then none else some .configCompositionUnknown

/-- Whether stop strings are within the limits of R258. -/
def stopsOk (ss : List (List Byte)) : Bool :=
  decide (ss.length ≤ 16) && ss.all (fun x => decide (1 ≤ x.length) && decide (x.length ≤ 64))
    && decide ((ss.map List.length).sum ≤ 512)

/-- Grammar options (R290). -/
def State.checkGrammar (s : State) (q : Req) : Option Status :=
  let g := q.args.gram
  if g.mode = 0 then none
  else if g.mode = 3 then some .configGrammarState
  else
    match s.grammars.get? (q.part, g.id) with
    | none => some .configGrammarUnknown
    | some r =>
      if r.unloading || r.main != q.main then some .configGrammarUnknown
      else if g.mode = 1 then none
      else
        match (s.ses q.slot).grammar with
        | some x => if x.id = g.id ∧ x.loadGen = r.loadGen then none else some .configGrammarState
        | none => some .configGrammarState

/-- Orders 7 to 14 of R805. -/
def State.checkReqB (s : State) (q : Req) : Option Status :=
  let a := q.args
  let text := match a.input with | .text _ => true | .tokens _ => false
  let empty := match a.input with | .text b => b.isEmpty | .tokens t => t.isEmpty
  if s.ctxClass q.part q.main != .lc && (a.budFirst != 0 || a.budInter != 0 || a.budTotal != 0) then some .configBudgets
  else if (match a.hints with | some h => !h.inRange | none => false) then some .configHintRange
  else if !a.sample.inRange then some .configSampleOpts
  else if text && (s.textOf q.part q.main).isNone then some .configNoTokenizer
  else if !(stopsOk a.stops) then some .configStopStrings
  else if !a.text.noEmit && !a.ring.ok then some .configEmitRing
  else
    match s.checkGrammar q with
    | some st => some st
    | none =>
      if (s.ses q.slot).log.isEmpty && empty && a.sample.maxTokens != 0 then some .configEmptyInput else none

/-- Whether a request completes right after order 14 (R306). -/
def State.appendsNothing (s : State) (q : Req) : Bool :=
  (s.ses q.slot).log.isEmpty && q.args.sample.maxTokens == 0
    && (match q.args.input with | .text b => b.isEmpty | .tokens t => t.isEmpty)

/-- Whether a request runs on the fallback model by one of the cases of R41: the third, where the deadline monitor has switched it while
it waited at admission. -/
def State.needsFallback (s : State) (q : Req) : Bool :=
  let x := s.ses q.slot
  q.flags.fallback || x.comp == 0 ||
    (match s.compHeld x.comp with | some c => !(s.mapServes c.cur q.slot) | none => true)

/-- Tile frames of a request's pending buffer and penalty table (R128, R313). -/
def reqTileFrames (c : CtxImage) : Nat := ceilDiv (c.layers * c.heads * c.geom.d * 4) 16384 + ceilDiv (544 * 1024) 16384

-- Starting (R170, R290, R302) ----------------------------------------------------------------------------------------------------------------

/-- SEED as a request uses it (R302). -/
def State.seedFor (s : State) (q : Req) : Word64 × State :=
  if q.args.sample.seedDevice then
    let d := s.draw
    (BitVec.ofNat 64 (Config.random d.1), d.2)
  else (q.args.sample.seed, s)

/-- A request whose grammar options pass order 13 of R805 is one of its grammar's users from there on (R287). -/
def State.holdGrammar (s : State) (slot : Nat) (q : Req) : State :=
  let g := q.args.gram
  if g.mode = 0 then s
  else { s with grammars := s.grammars.modify (q.part, g.id) (fun r => { r with users := r.users + 1 }) }.setReq slot
    { q with grammar := some g.id }

/-- Sets up the grammar state of a request in mode 1 (R290); none where its frame is lacking. The frame and the GRAMMAR field change in
the bond with which the request starts (R289). -/
def State.setGrammar (s : State) (q : Req) : Option State :=
  let g := q.args.gram
  match s.grammars.get? (q.part, g.id), decide (g.mode = 1) with
  | some r, true =>
    match (s.ses q.slot).grammar with
    | some old => some (s.modSes q.slot (fun y => { y with grammar := some (startGram old.frame g.id r) }))
    | none =>
      match s.allocMor q.part ⟨q.part, .priv, 0, q.slot, []⟩ with
      | none => none
      | some (n, s2) => some (s2.modSes q.slot (fun y => { y with grammar := some (startGram n g.id r) }))
  | _, _ => some s

/-- What ends a request that has been admitted as soon as it would bring its session back: an exact re-prefill that cannot run
(R191), a revive without a quarry (R440). -/
def State.cannotReturn (s : State) (q : Req) : Option Status :=
  if q.exact then s.rebuildRefusal q.slot
  else if (s.ses q.slot).state = .parked ∧ ¬s.qry.mounted then some .mediaQuarryDown else none

/-- A request that has passed every check starts (R59, R170, R598), and a bond of its own records that. A session that cannot come back
keeps its state. `fb`: the fallback context, where the request starts on it; an exact re-prefill comes before that (R193). -/
def State.startReq (s : State) (q : Req) (frames : List Nat) (fb : Option Nat) : State :=
  let x := s.ses q.slot
  let comp := s.compHeld x.comp
  let epoch := match comp with | some c => c.cur.epoch | none => 0
  let (seed, s1) := s.seedFor q
  let pen := Penalty.ofLog q.args.sample (if q.exact then x.rebuildLog else x.log)
  let q' := { q.tally (s.nextBond q.part) 0 with
    wait := none, seed := seed, frames := frames, pen := pen, maskReady := q.args.gram.mode == 0,
    startedFallback := fb.isSome, fbCtx := fb.getD q.fbCtx, comp := if fb.isSome ∧ ¬q.exact then 0 else x.comp, epoch := epoch }
  let s2 := (s1.recordBond q.slot).modSes q.slot (fun y => { y with
    reqCount := (y.reqCount + 1) % 2 ^ 32, epoch := epoch,
    hints := match q.args.hints with | some h => h | none => y.hints,
    state := if y.state = .opened ∨ y.state = .waiting then .active else y.state })
  let s3 := (s2.setReq q.slot q')
  let s4 := if pen.overflowed then s3.bump Fld.SMP_OVERFLOWS_COUNT q.part else s3
  match s4.cannotReturn q with
  | some st => s4.endReq q.slot st
  | none =>
  if q.exact then s4.startRebuild q.slot none
  else
    let s5 := if x.state = .parked then (s4.startRevive q.slot none).checkRevive q.slot (s4.nextBond q.part) else s4
    s5.beginOwn q.slot

/-- Order 19 of R805: the frames of a request, then its start on the main model, or on the fallback context `fb`. -/
def State.admitFrames (s : State) (slot : Nat) (q : Req) (c : CtxImage) (fb : Option Nat) : State :=
  let grm := if q.args.gram.mode = 1 ∧ (s.ses slot).grammar.isNone then 1 else 0
  let n := reqTileFrames c
  match s.room q.part n grm with
  | .refused => s.refuseReq slot .quotaLpddr6
  | .waits =>
    if q.wait = some .frames then s
    else (s.setReq slot { q with wait := some .frames }).bump Fld.MEM_ZERO_WAITS_COUNT q.part
  | .fits =>
    match s.allocTiles q.part ⟨q.part, .priv, 0, slot, []⟩ n with
    | none => s.refuseReq slot .quotaLpddr6
    | some (fs, s1) =>
      match s1.setGrammar q with
      | none => s.refuseReq slot .quotaLpddr6
      | some s2 => s2.startReq q fs fb

/-- Order 18 of R805. A request that needs the fallback model runs on the one that its session binds, waits for it while it is LOADING,
and ends where it is DOWN (R337); with none bound it is refused with PEER/no-partner (R43). R41, R43 and order 18 state no outcome for a
submission with FALLBACK on a session that binds none while its composition has partners: it is refused in the same way (DESIGN CHOICE,
log entry 65). -/
def State.admitC (s : State) (slot : Nat) : State :=
  match s.req slot with
  | none => s
  | some q =>
    match s.ctx q.part q.main with
    | none => s.refuseReq slot .contextContextDown
    | some c =>
      if !(s.needsFallback q) then s.admitFrames slot q c.img none
      else
        match s.fallbackOf slot with
        | .unbound => s.refuseReq slot .peerNoPartner
        | .down => s.refuseReq slot .contextContextDown
        | .loading => s.setReq slot { q with wait := some .fallback }
        | .ready f _ => s.admitFrames slot q c.img (some f)

/-- Order 17 of R805: the context limit (R65, R66, R307, R354). -/
def State.admitLimit (s : State) (slot : Nat) : State :=
  match s.req slot with
  | none => s
  | some q =>
    if 1048576 < (s.ses slot).log.length + q.input.length then s.refuseReq slot .limitContext else s.admitC slot

/-- Orders 15 and 16 of R805; text input is then tokenised (R260). -/
def State.admitInput (s : State) (slot : Nat) : State :=
  match s.req slot with
  | none => s
  | some q =>
    match q.args.input with
    | .text bs =>
      if zeroActsAs (s.fld Fld.TXT_CFG_MAX_INTAKE_MIB q.part) 1 * 2 ^ 20 < bs.length then s.refuseReq slot .configIntakeSize
      else s.setReq slot { q with wait := some .tokens }
    | .tokens ts =>
      let vocab := match s.ctx q.part q.main with | some c => c.img.vocab | none => 0
      if ts.any (fun t => decide (vocab ≤ t)) then s.refuseReq slot .configTokenRange else s.admitLimit slot

/-- Orders 7 to 14 of R805. A request that appends nothing (R306) goes to its end at once, and no budget of it runs any more (R804). -/
def State.admitB (s : State) (slot : Nat) : State :=
  match s.req slot with
  | none => s
  | some q =>
    match s.checkReqB q with
    | some st => s.refuseReq slot st
    | none =>
      if s.appendsNothing q then
        let r := s.seedFor q
        let q' := { q with seed := r.1, phase := .ending, wait := none, first := q.first.stop, inter := q.inter.stop,
                           total := q.total.stop }
        (r.2.setReq slot q').writeEnd slot q' ⟨.okLength, [], 0, 0⟩ 0
      else (s.holdGrammar slot q).admitInput slot

/-- Order 6 of R805: the main context (R337). A request for which the deadline monitor has chosen the fallback model meanwhile (R349)
does not wait for it. -/
def State.admitA (s : State) (slot : Nat) : State :=
  match s.req slot with
  | none => s
  | some q =>
    match s.ctx q.part q.main with
    | none => s.refuseReq slot .contextContextDown
    | some c =>
      match c.state with
      | .loading => if q.fbCtx = 0x3F then s.setReq slot { q with wait := some .loading } else s.admitB slot
      | .ready => s.admitB slot
      | _ => s.refuseReq slot .contextContextDown

/-- REQ_SUBMIT as it starts (R805); order 1 has been made. -/
def doReqSubmit (u : Sub) (a : ReqArgs) (s : State) : State :=
  let slot := u.slot
  match s.checkReqA u a with
  | some st => s.complete u st
  | none =>
    let x := s.ses slot
    let noted := (x.noted.filter (fun n => n.1 == u)).map (·.2)
    let s1 := s.modSes slot (fun y => { y with op := .request, noted := y.noted.filter (fun n => n.1 != u) })
    (s1.setReq slot (newReq u a x.part slot x.main (s.ctxClass x.part x.main == .lc) (s.marks x.part) noted)).admitA slot

/-- TOKENISATION_DONE (R260 to R262). -/
def doTokenisationDone (slot : Nat) (s : State) : State :=
  match s.req slot with
  | none => s
  | some q =>
    match q.args.input, s.textOf q.part q.main with
    | .text bs, some t =>
      if q.wait ≠ some .tokens then s
      else
        let bad := t.invalidBytes q.args.text.specials bs
        let s1 := s.count (PmcEv.ofPart 0x30 bs.length q.part (s.ctxClass q.part q.main))
        if bad ≠ 0 ∧ q.args.text.strictUtf8 then (s1.refuseReq slot .configBadUtf8)
        else
          let s2 := s1.bump Fld.TXT_INVALID_COUNT q.part bad
          ((s2.setReq slot { q with wait := none, input := t.tokenise q.args.text.specials bs }).admitLimit slot)
    | _, _ => s

/-- Requests that wait at admission for a context try again (R337). -/
def State.resumeLoading (s : State) (p c : Nat) : State :=
  let main := s.reqs.filter (fun kv => kv.2.part == p && kv.2.main == c && kv.2.wait == some .loading)
  let fb := s.reqs.filter (fun kv => kv.2.part == p && (s.ses kv.1).fallback == c && kv.2.wait == some .fallback)
  let s := main.foldl (fun (a : State) kv => a.admitA kv.1) s
  fb.foldl (fun (a : State) kv => a.admitC kv.1) s

/-- Requests that wait for a ZEROING frame try again (R383). -/
def State.resumeFrames (s : State) (p : Nat) : State :=
  (s.reqs.filter (fun kv => kv.2.part == p && kv.2.wait == some .frames)).foldl (fun a kv => a.admitC kv.1) s

end Sys2Proof.Machine
end

