-- ==== Sys2Proof/Machine/Deadline.lean ====
section
/-!
DEFINITION. The deadline monitor: notices, the switch to the fallback model, failures (10_scheduling_and_deadlines.md R343 to
R355, 20 R684).
-/

namespace Sys2Proof.Machine

open Sys2Proof

/-- A budget of a request by its number: 0 first-token, 1 inter-token, 2 total (R684). -/
def Req.budget (q : Req) (b : Nat) : Budget := if b = 0 then q.first else if b = 1 then q.inter else q.total

/-- A request with a budget replaced. -/
def Req.setBudget (q : Req) (b : Nat) (x : Budget) : Req :=
  if b = 0 then { q with first := x } else if b = 1 then { q with inter := x } else { q with total := x }

/-- The status of a budget that runs out (R355). -/
def deadlineStatus (b : Nat) : Status :=
  if b = 0 then .deadlineFirstToken else if b = 1 then .deadlineInterToken else .deadlineTotal

/-- A budget of a queued request: first-token and total count from the arrival of its entry (R345). -/
def ReqArgs.queuedBudget (a : ReqArgs) (b : Nat) : Nat := if b = 0 then a.budFirst else if b = 2 then a.budTotal else 0

/-- The first queued request of a session with a budget, where its main context is latency-critical (R40, R344). -/
def State.queuedWith (s : State) (slot b : Nat) : Option (Sub × ReqArgs) :=
  let x := s.ses slot
  if s.ctxClass x.part x.main != .lc then none
  else x.waiting.findSome? (fun w => match w.2 with
    | .reqSubmit a => if a.queuedBudget b = 0 then none else some (w.1, a)
    | _ => none)

/-- Posts a deadline notice (R350, R684): it completes nothing. -/
def State.notice (s : State) (o : Owner) (p b remain : Nat) : State :=
  (s.post { fn := o.fn, sq := o.sq, tag := o.tag, status := .ok, result := BitVec.ofNat 128 (b % 4 + remain % 2 ^ 32 * 2 ^ 64),
            report := 0, notice := true }).bump Fld.SCH_NOTICES_COUNT p

/-- DEADLINE_NOTICE (R349, R350): once per budget interval. A budget that does not count, has no notice mark, or whose notice is out
has none to post (log entry 2). -/
def doDeadlineNotice (slot budget remain : Nat) (s : State) : State :=
  let running := match s.req slot with
    | some q => if (q.budget budget).running && q.phase != Phase.ending then some q else none
    | none => none
  match running with
  | some q =>
    let b := q.budget budget
    if b.noticed || b.warn == 0 || decide (b.us < remain) || decide (2 < budget) then s
    else ((s.setReq slot (q.setBudget budget { b with noticed := true })).notice ⟨q.fn, q.sq, q.tag⟩ q.part budget remain)
  | none =>
    match s.queuedWith slot budget with
    | none => s
    | some (u, a) =>
      let x := s.ses slot
      if x.noted.contains (u, budget) || (s.marks x.part).1 == 0 || decide (a.queuedBudget budget < remain) then s
      else ((s.modSes slot (fun y => { y with noted := y.noted ++ [(u, budget)] })).notice u.owner x.part budget remain)

-- The switch (R351, R352) ----------------------------------------------------------------------------------------------------------------

/-- Drops what the main model's step holds (R319, R351): the pending buffer, the held token, the packet and its chunks; slices that
wait are answered with DEADLINE/on-fallback. -/
def State.dropStep (s : State) (slot : Nat) : State :=
  (s.answerWaiting slot .deadlineOnFallback).modReq slot (fun q => { q with
    pending := [], served := [], held := none, packet := none, chunks := [] })

/-- Staged tiles of a handoff are given back when the fallback context takes the phase over (log entry 29). -/
def State.unstageHandoff (s : State) (slot : Nat) : State :=
  match s.handoffs.get? slot with
  | none => s
  | some h => { (s.freeTiles (h.staged.map (·.2))).stageActs (s.ses slot).part h.bond [] with handoffs := s.handoffs.set slot { h with staged := [], peers := [] } }

/-- Whether a request may switch: it is on the main model, and its end is not decided (R349). -/
def Req.maySwitch (q : Req) : Bool := q.fbCtx == 0x3F && q.wait != some .fallback && q.phase != .ending

/-- Whether a request's own input is not being appended yet: it waits at admission, or its exact re-prefill runs. The fallback model
takes over when it is (log entry 29). -/
def State.beforeOwn (s : State) (q : Req) : Bool :=
  q.phase == .admitted || (match s.handoffs.get? q.slot with | some h => h.rebuild | none => false)

/-- Switches a request to the fallback context of its session (R352); where the fallback mortar does not fit, the request stays on the
main model. A request that waits at admission for its main context goes on. -/
def State.switchReq (s : State) (slot : Nat) (q : Req) (f : Nat × CtxImage) : State :=
  if s.beforeOwn q then
    let s1 := s.setReq slot { q with fbCtx := f.1 }
    if q.wait = some .loading then s1.admitA slot else s1
  else
    let n := (s.ses slot).log.length + (if q.phase = .appending then q.input.length else 0)
    let s1 := s.dropStep slot
    match s1.req slot with
    | none => s1
    | some q1 =>
      match s1.allocFb q1 f.2 n with
      | none => s.bump Fld.SCH_SWITCH_FAILS_COUNT q.part
      | some s2 =>
        let s3 := s2.modReq slot (fun r => { r with onFallback := true, fbCtx := f.1, fbReady := false, opening := true,
                                                    inter := r.inter.start (s.marks q.part) })
        (s3.unstageHandoff slot).bump Fld.SCH_SWITCHES_COUNT q.part

/-- DEADLINE_SWITCH (R349), of a request of which the deadline monitor has not chosen the fallback model yet: a session without a fallback model that is READY never switches (R43, R358). -/
def doDeadlineSwitch (slot budget : Nat) (s : State) : State :=
  match s.req slot with
  | none => s
  | some q =>
    let b := q.budget budget
    if !q.maySwitch || !b.running || b.switch == 0 || decide (2 < budget) then s
    else
      match s.fallbackOf slot with
      | .ready c f => s.switchReq slot q (c, f)
      | _ => s

/-- DEADLINE_FAIL (R351, R355): the request ends with the status of the budget that ran out; a queued request is removed. -/
def doDeadlineFail (slot budget : Nat) (s : State) : State :=
  let running := match s.req slot with
    | some q => if (q.budget budget).running && q.phase != Phase.ending && decide (budget ≤ 2) then some q else none
    | none => none
  match running with
  | some _ => (s.endReq slot (deadlineStatus budget))
  | none =>
    match s.queuedWith slot budget with
    | none => s
    | some (u, a) =>
      let p := (s.ses slot).part
      let s1 := s.modSes slot (fun x => { x with waiting := x.waiting.filter (fun w => w.1 != u) })
      ((s1.endQueued u a (deadlineStatus budget)).bump Fld.SCH_DL_FAILS_COUNT p)

end Sys2Proof.Machine
end

