-- ==== Sys2Proof/Machine/Park.lean ====
section
/-!
DEFINITION. Parks and SES_REVIVE (02_sessions.md R73 to R76, 05_parking_dressing_revival.md R173 to R189, 194, 12 R435 to R437,
21 R717, 22 R734).
-/

namespace Sys2Proof.Machine

open Sys2Proof

-- The kind of a park (R75, R173, R436) -----------------------------------------------------------------------------------------------------

/-- The kind that hints and policy ask for (R75). -/
def State.parkKind (s : State) (p : Nat) (h : Hints) : ParkKind :=
  let idle := h.idleSeconds
  if h.retention = 0 ∨ idle < s.fld Fld.SES_PARK_POLICY_COLD_AFTER p then .warm
  else if h.retention = 1 ∧ s.fld Fld.SES_PARK_POLICY_DRESS_AFTER p ≤ idle then .dressed
  else .exact

/-- A profile of a partition; values of RADIUS above 8 act as 8. -/
def State.profile (s : State) (p n : Nat) : Profile :=
  ⟨s.fld Fld.DRS_PROFILE_ANCHOR p n, s.fld Fld.DRS_PROFILE_WINDOW p n, s.fld Fld.DRS_PROFILE_BUDGET p n,
   Nat.min 8 (s.fld Fld.DRS_PROFILE_RADIUS p n)⟩

/-- Whether a profile is valid (R179, R180). -/
def Profile.valid (x : Profile) : Bool :=
  decide (x.anchor ≤ 4096) && decide (x.window ≤ 65536) && decide (256 ≤ x.budget) && decide (x.budget ≤ 65536)
    && decide (x.anchor + x.window ≤ x.budget)

/-- The private tiles of a pair of a session, in mortar order (R181). -/
def State.privTiles (s : State) (slot j : Nat) : List (Nat × MEntry × Tile) :=
  ((s.ses slot).mortar.ofPair (s.pairsOf slot) j).filterMap (fun (kv : Nat × MEntry) =>
    if kv.2.shared then none else (s.tileAt kv.2).map (fun t => (kv.1, kv.2, t)))

/-- Whether a session holds a private tile (R173). -/
def Session.holdsPrivate (x : Session) : Bool := x.mortar.entries.any (fun kv => !kv.2.shared)

/-- Private positions of a pair. -/
def privCount (ts : List (Nat × MEntry × Tile)) : Nat := (ts.map (fun t => t.2.2.fill)).sum

/-- The mortar indexes of a pair's private tiles after a park: those of dressed tiles follow the shared columns (R184). -/
def State.parkSlots (s : State) (slot j : Nat) (dress : Bool) (budget : Nat) : List Nat :=
  let ts := s.privTiles slot j
  let pairs := s.pairsOf slot
  if dress && decide (budget < privCount ts) then
    (List.range (ceilDiv budget (s.geomOf slot).p)).map (fun i => ((s.ses slot).pfxTiles + i) * pairs + j)
  else ts.map (·.1)

/-- The mortar indexes of the private tiles that a park programs. -/
def State.parkEntries (s : State) (slot : Nat) (dress : Bool) (budget : Nat) : List Nat :=
  ((List.range (s.pairsOf slot)).map (fun j => s.parkSlots slot j dress budget)).flatten

/-- Index and leaf pages of a mortar with some entries. -/
def pagesFor (es : List Nat) : Nat := (Mortar.empty 0).newPages es

/-- Shared entries of a session's mortar. -/
def Session.sharedEntries (x : Session) : AMap Nat MEntry := x.mortar.entries.filter (fun kv => kv.2.shared)

/-- Pages that the mortar takes after a park. -/
def State.parkPages (s : State) (slot : Nat) (es : List Nat) : Nat :=
  pagesFor (es ++ ((s.ses slot).sharedEntries).map (·.1))

/-- Bytes that a cold park stages (R435, R436): tiles, mortar pages and log frames; the worked example counts no copy of the
root page. -/
def State.parkBytes (s : State) (slot : Nat) (es : List Nat) : Nat :=
  tileBytes * es.length + 4096 * (s.parkPages slot es + logFramesFor (s.ses slot).log.length)

/-- Quarry frames of a cold park: one for each tile, and quarter frames for mortar pages, log frames and the root page's copy. -/
def State.parkFrames (s : State) (slot : Nat) (es : List Nat) : Nat :=
  es.length + ceilDiv (s.parkPages slot es) 4 + ceilDiv (logFramesFor (s.ses slot).log.length) 4 + 1

-- The end of a park ------------------------------------------------------------------------------------------------------------------------------

/-- Writes the state that a park leaves, counts it, and completes the command (R59, R76, R208). -/
def State.endPark (s : State) (slot : Nat) (r : ParkRun) (h : Hints) (dest : SesState) : State :=
  let p := (s.ses slot).part
  let s := { s with parks := s.parks.erase slot }
  let s := (s.modSes slot (fun x => { x with op := .none, state := dest, hints := h })).touch slot
  let s := match r.kind with
    | .warm => s.bump Fld.DRS_PARKS_WARM_COUNT p
    | .exact => s.bump Fld.DRS_PARKS_EXACT_COUNT p
    | .dressed => s.bump Fld.DRS_PARKS_DRESSED_COUNT p
  s.completeFor r.owner .ok r.kind.code

/-- A park ends without effect (R177): its bond aborts, what it staged is given back, and the session stays WAITING. -/
def State.abortPark (s : State) (slot : Nat) (st : Status) (report : Nat := 0) : State :=
  match s.parks.get? slot with
  | none => s
  | some r =>
    let p := (s.ses slot).part
    let s := if (s.bondOf p r.bond).isSome then s.abortQuarry p r.bond else s
    let s := { s with parks := s.parks.erase slot }.recordBond slot
    ((s.modSes slot (fun x => { x with op := .none })).touch slot).completeFor r.owner st 0 report

-- Warm parks (R174) ---------------------------------------------------------------------------------------------------------------------------------

/-- The entries of the first leaf pages of a list that one bond rewrites: at most 63 pages. -/
def warmBatch (es : List Nat) : List Nat :=
  let pages := ((es.map (fun e => e / 512)).eraseDups).take 63
  es.filter (fun e => pages.contains (e / 512))

/-- The actions of a bond of a warm park (R174, R443): one write of each leaf page, and the release of the tiles' places. -/
def warmActs (id : Nat) (es : List Nat) : List ActRec :=
  ((es.map (fun e => e / 512)).eraseDups).map (fun k => act .mortarWrite k (Config.freeValue (100 + k) id)) ++ [actList .frameRelease es]

/-- The final bond of a warm park writes the directory record; the log is persisted (R68). -/
def State.finishWarm (s : State) (slot : Nat) (r : ParkRun) (h : Hints) : State :=
  let p := (s.ses slot).part
  ((s.bondOnce p).persist slot).endPark slot { r with tally := r.tally.add (s.nextBond p) 0 } h (s.ses slot).state

/-- Opens the next bond of a warm park, or ends it. -/
def State.nextWarm (s : State) (slot : Nat) (r : ParkRun) (h : Hints) : State :=
  if r.todo.isEmpty then s.finishWarm slot r h
  else
    let p := (s.ses slot).part
    let b := s.openBond p .warmPark slot (some r.owner) false
    { b.2.stageActs p b.1 (warmActs b.1 (warmBatch r.todo)) with parks := b.2.parks.set slot { r with bond := b.1 } }

/-- Demotes tiles of a session in order (R118); none where a frame is lacking. -/
def State.demoteAll (s : State) (slot : Nat) (es : List Nat) : Option State :=
  match es with
  | [] => some s
  | e :: r =>
    match s.demote slot e with
    | none => none
    | some s1 => s1.demoteAll slot r

/-- The last staging write of a warm park's bond (R174, R445). -/
def State.warmStaged (s : State) (slot : Nat) (b : Bond) : State :=
  match s.parks.get? slot with
  | none => s
  | some r =>
    let now := (warmBatch r.todo).filter (fun e => match (s.ses slot).mortar.entries.get? e with
      | some x => x.tier == .store | none => false)
    match s.demoteAll slot now with
    | none => s.abortPark slot .quotaLpddr6
    | some s1 =>
      let batch := warmBatch r.todo
      let r' := { r with todo := r.todo.filter (fun e => !(batch.contains e)),
                         tally := r.tally.add b.id (tileBytes * now.length) }
      (s1.commitBond b.part b.id).nextWarm slot r' r.hints

/-- Starts a warm park (R174). -/
def State.startWarm (s : State) (slot : Nat) (o : Owner) (h : Hints) : State :=
  let todo := (sortBy (fun (a b : Nat × MEntry) => decide (a.1 < b.1))
    ((s.ses slot).mortar.entries.filter (fun kv => kv.2.tier == .store))).map (·.1)
  let r : ParkRun := { owner := o, kind := .warm, budget := 0, prof := s.profile (s.ses slot).part h.profile,
                       decay := s.decayOf (s.ses slot).part, hints := h, dressing := false,
                       dressedAny := false, dropped := 0, tiles := [], todo := todo, bond := 0, tally := Tally.zero }
  { s with parks := s.parks.set slot r }.nextWarm slot r h

-- Cold parks (R175 to R178) ---------------------------------------------------------------------------------------------------------------------------

/-- Cuts dressed positions into tiles of a session (R184). -/
def State.dressedTiles (s : State) (slot j : Nat) (ps : List TPos) : List (Nat × Tile) :=
  let x := s.ses slot
  let g := s.geomOf slot
  let pairs := s.pairsOf slot
  let heads := s.headsOf slot
  ((chunks g.p ps).zipIdx).map (fun c =>
    ((x.pfxTiles + c.2) * pairs + j,
     { source := s.handleOf slot, layer := if heads = 0 then 0 else j / heads, head := if heads = 0 then 0 else j % heads,
       geom := g, dressed := true, shared := false, prefixId := 0xFFFF, massEpoch := x.reqCount, positions := c.1 }))

/-- The tiles of a pair that a cold park programs, and how many positions dressing drops (R175, R181, R182). -/
def State.parkPair (s : State) (slot j : Nat) (r : ParkRun) : List (Nat × Tile) × Nat :=
  let ts := s.privTiles slot j
  let n := privCount ts
  if r.dressing && decide (r.budget < n) then
    let x := s.ses slot
    let pr := r.prof
    let rs := dressIn (s.geomOf slot) r.decay x.reqCount (ts.map (·.2.2))
    let ps := dressPair (s.geomOf slot) pr.anchor pr.window r.budget pr.radius rs
    (s.dressedTiles slot j ps, n - ps.length)
  else (ts.map (fun t => (t.1, t.2.2)), 0)

/-- Collects the tiles of all pairs of a park. -/
def State.parkTiles (s : State) (slot : Nat) (r : ParkRun) : List (Nat × Tile) × Nat :=
  (List.range (s.pairsOf slot)).foldl (fun (a : List (Nat × Tile) × Nat) j =>
    let x := s.parkPair slot j r
    (a.1 ++ x.1, a.2 + x.2)) ([], 0)

/-- The four actions of a cold park's bond (R175 order 5). -/
def coldActs (id slot root : Nat) (fs : List Nat) : List ActRec :=
  [actList .quarryMap fs, act .mortarWrite root (Config.freeValue 81 id), act .tokenLog slot (Config.freeValue 83 id), actDirectory slot]

/-- Stages a cold park (R175 orders 3 and 4, R417, R435): tiles, mortar pages, log and root copy take quarry frames under one bond.
Frames beyond the quota end the park (R176); a logical space that is full by now makes it warm (R75). -/
def State.stagePark (s : State) (slot : Nat) (r : ParkRun) : State :=
  let x := s.ses slot
  let p := x.part
  let (ts, dropped) := s.parkTiles slot r
  let es := ts.map (·.1)
  let n := s.parkFrames slot es
  if s.qry.full n then ({ s with parks := s.parks.erase slot }).startWarm slot r.owner r.hints
  else if !s.qryRoom p n then s.abortPark slot .quotaQuarry
  else
    let (id, s1) := s.openBond p .coldPark slot (some r.owner) true
    match s1.qStages p .tile id ts.length with
    | none => s1.abortQuarry p id |>.abortPark slot .quotaQuarry
    | some (fs, s2) =>
      match s2.qStages p .quarter id (n - ts.length) with
      | none => s2.abortQuarry p id |>.abortPark slot .quotaQuarry
      | some (gs, s3) =>
        let s4 := (ts.zip fs).foldl (fun a tf => { a with tiles := a.tiles.set (.quarry tf.2) tf.1.2 })
          (s3.stageActs p id (coldActs id slot x.mortar.root (fs ++ gs)))
        let r' := { r with bond := id, tiles := (ts.zip fs).map (fun tf => (tf.1.1, tf.2)), dropped := dropped,
                           dressing := false, dressedAny := dropped != 0 }
        ({ s4 with parks := s4.parks.set slot r' }).govCharge p (s.parkBytes slot es)

/-- Releases what a parked session held in LPDDR6 and the tile stores (R175 order 6). -/
def State.releaseParked (s : State) (slot bond : Nat) : State :=
  let x := s.ses slot
  let s := s.dropEntries bond (x.mortar.entries.filter (fun kv => !kv.2.shared))
  let s := s.freeMors x.mortar.pageFrames
  let s := (s.freeMors x.logFrames).qTrims bond x.perFrames
  match x.rootCopy with | some f => s.qTrim bond f | none => s

/-- Every frame of a cold park has been programmed (R175 orders 5 and 6). -/
def State.parkDone (s : State) (slot : Nat) (b : Bond) : State :=
  match s.parks.get? slot with
  | none => s
  | some r =>
    let x := s.ses slot
    let quarters := (s.qry.staged.filter (fun kv => kv.2.owner == b.part && kv.2.bond == b.id && kv.2.kind == .quarter)).map (·.1)
    let all := (s.qry.staged.filter (fun kv => kv.2.owner == b.part && kv.2.bond == b.id)).map (·.1)
    let logN := ceilDiv (logFramesFor x.log.length) 4
    let pageN := quarters.length - logN - 1
    let s1 := (all.foldl (fun a f => a.qMap f) s).releaseParked slot b.id
    let fmt8 := (s.geomOf slot).fmt8
    let entries : AMap Nat MEntry := x.sharedEntries ++ r.tiles.map (fun ef =>
      let t := s.tiles.get? (.quarry ef.2)
      (ef.1, ⟨.quarry, fmt8, (match t with | some y => y.dressed | none => false), false,
              (match t with | some y => y.fill | none => 0), 0, ef.2⟩))
    let es := entries.map (·.1)
    let leaves := (es.map (fun e => e / 512)).eraseDups
    let indexes := (leaves.map (fun k => k / 512)).eraseDups
    let loc (i : Nat) : PagePtr := ⟨true, nthD (quarters.take pageN) (i / 4) 0 * 4 + i % 4⟩
    let m : Mortar := { root := x.mortar.root, index := (indexes.zipIdx).map (fun k => (k.1, loc k.2)),
                        leaf := (leaves.zipIdx).map (fun k => (k.1, loc (indexes.length + k.2))), entries := entries }
    let s2 := s1.modSes slot (fun y => { y with
      mortar := m, logFrames := [], perFrames := (quarters.drop pageN).take logN, perLog := y.log, sincePersist := 0,
      rootCopy := quarters.getLast?, sliceRead := [], dressed := entries.any (fun kv => kv.2.dressed) })
    let kind := if r.dressedAny then ParkKind.dressed else .exact
    let s3 := (s2.commitBond b.part b.id).bump Fld.DRS_DROPPED_COUNT x.part r.dropped
    (s3.endPark slot { r with kind := kind } r.hints .parked).mirrorSes slot

/-- Whether the system context of a partition runs (R333). -/
def State.systemUp (s : State) (p : Nat) : Bool := match s.ctx p 63 with | some x => x.state == .ready | none => false

/-- DRESSING_DONE (R175 order 2, R182, R186, R333): every pair has been dressed or left as it is, by the system context; it has done work
(R359). -/
def doDressingDone (slot : Nat) (s : State) : State :=
  match s.parks.get? slot with
  | none => s
  | some r =>
    let p := (s.ses slot).part
    if r.dressing && s.systemUp p then (s.contextServed p 63).stagePark slot r else s

-- SES_PARK (R173, R75) -----------------------------------------------------------------------------------------------------------------------------------

/-- A tile of a session whose frame holds poison (R734). -/
def State.poisonedTile (s : State) (slot : Nat) : Bool :=
  (s.ses slot).poisoned || (s.ses slot).mortar.entries.any (fun kv => s.poisonedData kv.2)

/-- SES_PARK as it starts (R59, R73 to R76, R173 to R180, R436, R437). -/
def doSesPark (u : Sub) (hints : Option Hints) (s : State) : State :=
  let slot := u.slot
  let x := s.ses slot
  let p := x.part
  let h := hints.getD x.hints
  if x.state ≠ .waiting then s.complete u .configWrongState
  else if !h.inRange then s.complete u .configHintRange
  else
    let asked := if x.holdsPrivate then s.parkKind p h else .warm
    let pr := s.profile p h.profile
    let budget := if asked = .dressed then s.effBudget p pr.anchor pr.window pr.budget else 0
    let es := s.parkEntries slot (asked == .dressed) budget
    let full := s.qry.full (s.parkFrames slot es)
    let declined := asked != .warm && !full && !(s.govTakes p (s.parkBytes slot es))
    let kind := if asked = .warm ∨ full ∨ declined then ParkKind.warm else asked
    let s := if declined then s.bump Fld.QRY_GOV_DECLINES_COUNT p else s
    if kind = .dressed ∧ ¬pr.valid then s.complete u .configDressProfile
    else if kind != .warm && s.poisonedTile slot then
      (((s.recordBond slot).modSes slot (fun y => { y with state := .failed, poisoned := true })).touch slot).complete u .stateLostFailed
    else
      let s := s.modSes slot (fun y => { y with op := .park })
      if kind = .warm then s.startWarm slot u.owner h
      else
        let r : ParkRun := { owner := u.owner, kind := kind, budget := budget, prof := pr, decay := s.decayOf p, hints := h,
                             dressing := kind == .dressed, dressedAny := false, dropped := 0, tiles := [], todo := [],
                             bond := 0, tally := Tally.zero }
        let s := { s with parks := s.parks.set slot r }
        if kind = .dressed then s else s.stagePark slot r

-- SES_REVIVE (R189, R194) ----------------------------------------------------------------------------------------------------------------------------------

/-- SES_REVIVE as it starts: a fetch of a PARKED session, or an exact re-prefill of a PARKED or FAILED one. -/
def doSesRevive (u : Sub) (s : State) : State :=
  let slot := u.slot
  let x := s.ses slot
  if u.flags.exact then
    if x.state ≠ .parked ∧ x.state ≠ .failed then s.complete u .configWrongState
    else
      match s.rebuildRefusal slot with
      | some st => s.complete u st
      | none => (s.modSes slot (fun y => { y with op := .restore })).startRebuild slot (some u.owner)
  else if x.state ≠ .parked then s.complete u .configWrongState
  else if !s.qry.mounted then s.complete u .mediaQuarryDown
  else ((s.modSes slot (fun y => { y with op := .revive })).startRevive slot (some u.owner)).checkRevive slot (s.nextBond x.part)

end Sys2Proof.Machine
end

