-- ==== Sys2Proof/Machine/Search.lean ====
section
/-!
DEFINITION. Vector search: collections, inserts and deletes, queries and pointing (14_vector_search.md R471 to R498).
-/

namespace Sys2Proof.Machine

open Sys2Proof

-- Geometry and the arena (R471 to R475) -----------------------------------------------------------------------------------

/-- Sketch width in bits (R475). -/
def CollGeom.sketchBits (g : CollGeom) : Nat := if g.sk = 0 then 256 else if g.sk = 1 then 512 else 1024

/-- The dimension: DIM 0 encodes 4,096 (R475). -/
def CollGeom.dims (g : CollGeom) : Nat := zeroActsAs g.dim 4096

/-- Whether a geometry is one of R471. -/
def CollGeom.ok (g : CollGeom) : Bool :=
  g.sk ≤ 2 && g.metric ≤ 2 && 1 ≤ g.degree && g.degree ≤ 64 && 1 ≤ g.dims && g.dims ≤ 4096 && 1 ≤ g.capacity
    && g.capacity ≤ 2 ^ 31 && 10 ≤ g.logIds && g.logIds ≤ 32 && decide (4 * g.capacity ≤ 3 * 2 ^ g.logIds)

/-- The vector stride (R474). -/
def CollGeom.stride (g : CollGeom) : Nat := ceilDiv (if g.int8 then g.dims + 4 else 2 * g.dims) 64 * 64

/-- The bytes of every array of a collection at full capacity (R473, R474). -/
def CollGeom.extent (g : CollGeom) : Nat :=
  128 + g.capacity * (g.sketchBits / 8 + 256 + g.stride + 8) + 8 * 2 ^ g.logIds

/-- The extents of a context's arena that are taken, by rising offset. -/
def State.extents (s : State) (p c : Nat) : List (Nat × Nat) :=
  sortBy (fun a b => decide (a.1 < b.1))
    ((s.colls.filter (fun kc => kc.2.part == p && kc.2.ctx == c)).map (fun kc => (kc.2.extOff, kc.2.extSize)))

/-- The first offset at which an extent fits between those taken (R473). -/
def firstFit (size arena at_ : Nat) (taken : List (Nat × Nat)) : Option Nat :=
  match taken with
  | [] => if at_ + size ≤ arena then some at_ else none
  | (o, n) :: r => if at_ + size ≤ o then some at_ else firstFit size arena (Nat.max at_ (o + n)) r

/-- The lowest free collection number (R472). -/
def State.freeColl (s : State) : Option Nat := (List.range 256).find? (fun c => !(s.colls.has c))

/-- A collection that a partition may name (R478 order 1): its own, not dropping. -/
def State.collOf (s : State) (p c : Nat) : Option Coll :=
  match s.colls.get? c with
  | some x => if x.part == p && !x.dropping then some x else none
  | none => none

/-- A collection that a command other than VSR_DROP may act on: not closed by poison (22 R732). -/
def State.collFor (s : State) (p c : Nat) : Except Status Coll :=
  match s.collOf p c with
  | none => .error .configCollectionUnknown
  | some x => if x.closed then .error .mediaLpddr6 else .ok x

/-- Changes a collection. -/
def State.modColl (s : State) (c : Nat) (f : Coll → Coll) : State := { s with colls := s.colls.modify c f }

/-- VSR_CREATE (R471 to R473). -/
def doVsrCreate (u : Sub) (a : VsrCreateArgs) (s : State) : State :=
  let p := s.subPart u
  if !a.geom.ok then s.complete u .configCollectionGeometry
  else
    match s.ctx p a.ctx with
    | none => s.complete u .configContextKind
    | some x =>
      if x.img.kind != .search || x.state == .absent then s.complete u .configContextKind
      else
        match s.freeColl with
        | none => s.complete u .limitCollections
        | some n =>
          match firstFit a.geom.extent x.img.arena 0 (s.extents p a.ctx) with
          | none => s.complete u .quotaSearchArena
          | some off =>
            let c : Coll := { part := p, ctx := a.ctx, geom := a.geom, entry := none, graphLen := 0, tombEpoch := 0,
                              nodes := [], items := [], extOff := off, extSize := a.geom.extent, dropping := false,
                              closed := false, asked := false, sweep := false, held := 0 }
            { s with colls := s.colls.set n c }.complete u .ok n

-- Items (R476 to R480) ---------------------------------------------------------------------------------------------------------

/-- The live node of an item (R477, R480). -/
def Coll.live (c : Coll) (item : Nat) : Option Nat :=
  match c.items.get? item with
  | some n => match c.nodes[n]? with
    | some x => if x.del = 0 then some n else none
    | none => none
  | none => none

/-- The refusal of an insert, by the orders of R478. -/
def State.checkInsert (s : State) (p : Nat) (i : VsrItem) : Option Status :=
  match s.collFor p i.coll with
  | .error st => some st
  | .ok c =>
    if i.item = 0xFFFFFFFF || i.vec.length != c.geom.dims then some .configItemRange
    else if (c.live i.item).isSome then some .configItemExists
    else if c.sideLen = 16777216 then some .limitSideList
    else if c.nodes.length = c.geom.capacity then some .limitCollectionFull
    else none

/-- VSR_INSERT (R478, R479). -/
def doVsrInsert (u : Sub) (i : VsrItem) (s : State) : State :=
  let p := s.subPart u
  match s.checkInsert p i with
  | some st =>
    let s := if st == .limitSideList then s.bump Fld.VSR_SIDE_REFUSALS_COUNT p else s
    s.complete u st
  | none =>
    let s := s.modColl i.coll (fun c =>
      { c with
        nodes := c.nodes ++ [{ sketch := i.sketch % 2 ^ c.geom.sketchBits, vec := i.vec,
                               scale := i.scale, adj := [], item := i.item, del := 0 }]
        items := c.items.set i.item c.nodes.length })
    (s.bump Fld.VSR_INSERTS_COUNT p).complete u .ok

/-- VSR_DELETE (R480). -/
def doVsrDelete (u : Sub) (coll item : Nat) (s : State) : State :=
  match s.collFor (s.subPart u) coll with
  | .error st => s.complete u st
  | .ok c =>
    match c.live item with
    | none => s.complete u .configItemUnknown
    | some n =>
      (s.modColl coll (fun c =>
        { c with
          tombEpoch := c.tombEpoch + 1
          nodes := c.nodes.modify n (fun (x : Node) => { x with del := c.tombEpoch + 1 }) })).complete u .ok

-- Distances and scores (R483, R486, R490) ----------------------------------------------------------------------------------------

/-- The Hamming distance of two sketches (R483). -/
def hamming (bits a b : Nat) : Nat := ((List.range bits).filter (fun i => bitOf a i != bitOf b i)).length

/-- FP16 elements as FP32. -/
def half32 (v : List Nat) : List Nat := v.map (fun w => fp32.encode (fp16.decode w))

/-- A node's elements as FP32: INT8 elements are multiplied by the vector's scale first (R486). -/
def Coll.vec32 (c : Coll) (x : Node) : List Nat :=
  if c.geom.int8 then
    x.vec.map (fun w => f32Mul (fp32.encode (Val.ofInt (signedOf 8 w))) x.scale.toNat)
  else half32 x.vec

/-- The inner product in FP32; the order of its additions is not stated. -/
def vsrDot (a b : List Nat) : Nat := f32SumFree 40 (f32Prods a b)

/-- The cosine in FP32 (R486): zero for a zero norm; the steps of its evaluation are not stated. Log entry 31. -/
def vsrCosine (a b : List Nat) : Nat :=
  let na := vsrDot a a
  let nb := vsrDot b b
  if f32Lt 0 na && f32Lt 0 nb then Config.fp32Sum 41 [vsrDot a b, na, nb] % 2 ^ 32 else 0

/-- The Euclidean distance in FP32 (R486): zero for equal vectors; the steps of its evaluation are not stated. Log
entry 31. -/
def vsrL2 (a b : List Nat) : Nat :=
  let d := (a.zip b).map (fun (xy : Nat × Nat) => f32Sub xy.1 xy.2)
  let sq := vsrDot d d
  if f32Lt 0 sq then Config.fp32Sum 42 [sq] % 2 ^ 32 else sq

/-- The exact score of a node (R486). -/
def Coll.score (c : Coll) (q : List Nat) (x : Node) : Nat :=
  if c.geom.metric = 0 then vsrDot q (c.vec32 x)
  else if c.geom.metric = 1 then vsrCosine q (c.vec32 x) else vsrL2 q (c.vec32 x)

/-- Whether a score is better than another (R486). -/
def Coll.better (c : Coll) (a b : Nat) : Bool := if c.geom.metric = 2 then f32Lt a b else f32Lt b a

/-- The distance of pruning between two nodes (R490). -/
def Coll.dist (c : Coll) (a b : Node) : Nat :=
  if c.geom.metric = 2 then vsrL2 (c.vec32 a) (c.vec32 b)
  else f32Sub f32One (vsrCosine (c.vec32 a) (c.vec32 b))

-- The walk (R483, R485) --------------------------------------------------------------------------------------------------------------

/-- A member of a beam: distance, node, expanded. -/
structure BeamItem where
  ham  : Nat
  node : Nat
  done : Bool
  deriving DecidableEq, Repr

/-- Orders beam members by distance, ties by the lower node number (R483). -/
def BeamItem.before (a b : BeamItem) : Bool := a.ham < b.ham || (a.ham == b.ham && a.node < b.node)

/-- The Hamming distance of node n from a sketch. -/
def Coll.hamOf (c : Coll) (sketch n : Nat) : Nat :=
  match c.nodes[n]? with
  | some x => hamming c.geom.sketchBits sketch x.sketch
  | none => c.geom.sketchBits

/-- The adjacency list of a node. -/
def Coll.adjOf (c : Coll) (n : Nat) : List Nat :=
  match c.nodes[n]? with
  | some x => x.adj
  | none => []

/-- The loop of a walk over nodes below g; answers the beam and how many nodes were expanded. Each round expands one node
that is not seen twice, so the number of nodes bounds it. -/
def Coll.walkLoop (c : Coll) (sketch ef g : Nat) (fuel : Nat) (beam : List BeamItem) (seen : List Nat) (n : Nat) :
    List BeamItem × Nat :=
  match fuel with
  | 0 => (beam, n)
  | fuel + 1 =>
    match beam.find? (fun b => !b.done) with
    | none => (beam, n)
    | some x =>
      let ys := ((c.adjOf x.node).filter (fun y => y < g && !(seen.contains y))).eraseDups
      let marked := beam.map (fun (b : BeamItem) => if b.node = x.node then { b with done := true } else b)
      let grown := ys.foldl (fun acc y => insertBy BeamItem.before ⟨c.hamOf sketch y, y, false⟩ acc) marked
      c.walkLoop sketch ef g fuel (grown.take ef) (ys ++ seen) (n + 1)

/-- A walk from ENTRY over nodes below g (R483): nothing in an empty graph. -/
def Coll.walk (c : Coll) (sketch ef g : Nat) : List BeamItem × Nat :=
  match c.entry with
  | none => ([], 0)
  | some e => if g = 0 then ([], 0) else c.walkLoop sketch ef g (g + 1) [⟨c.hamOf sketch e, e, false⟩] [e] 0

-- Queries (R482 to R488) -----------------------------------------------------------------------------------------------------------------

/-- Whether a node is visible to a snapshot (R483, R484). -/
def Coll.visible (c : Coll) (e0 n : Nat) : Bool :=
  match c.nodes[n]? with
  | some x => x.del == 0 || decide (e0 < x.del)
  | none => false

/-- The results of a query (R483, R487), and the expansions of its walk. -/
def Coll.results (c : Coll) (r : VsrRun) : List VsrResult × Nat :=
  let sk := r.ask.sketch % 2 ^ c.geom.sketchBits
  let w := c.walk sk r.ask.ef r.g0
  let graph := w.1.filter (fun b => c.visible r.e0 b.node)
  let side := ((List.range' r.g0 r.l0).filter (fun n => c.visible r.e0 n)).map
    (fun n => (⟨c.hamOf sk n, n, true⟩ : BeamItem))
  let cand := (sortBy BeamItem.before (graph ++ side)).take r.ask.rerank
  let q := half32 r.ask.vec
  let scored := cand.filterMap (fun (b : BeamItem) =>
    match c.nodes[b.node]? with
    | some x => some (⟨x.item, BitVec.ofNat 32 (c.score q x), b.ham, decide (r.g0 ≤ b.node)⟩ : VsrResult)
    | none => none)
  let best := sortBy (fun (a b : VsrResult) => c.better a.score.toNat b.score.toNat
      || (!(c.better b.score.toNat a.score.toNat) && a.item < b.item)) scored
  (best.take r.ask.k, w.2)

/-- Runs a query and completes it (R483, R487). -/
def State.runQuery (s : State) (r : VsrRun) : State :=
  match s.colls.get? r.ask.coll with
  | none => s.completeFor ⟨r.fn, r.sq, r.tag⟩ .configCollectionUnknown
  | some c =>
    let t := c.results r
    let s1 := (s.count (PmcEv.ofPart 0x80 t.2 r.part (s.ctxClass r.part c.ctx))).bump Fld.VSR_QUERIES_COUNT r.part
    ((s1.contextServed r.part c.ctx).buf r.fn (.results t.1)).completeFor ⟨r.fn, r.sq, r.tag⟩ .ok t.1.length

/-- The queries of a collection's open scan batch, oldest first. -/
def State.scanOf (s : State) (c : Nat) : List VsrRun := s.scans.getD c []

/-- Runs the scan batch of a collection (R488). -/
def State.runScan (s : State) (c : Nat) : State :=
  (s.scanOf c).foldl (fun (a : State) r => a.runQuery r) { s with scans := s.scans.erase c }

/-- SCAN_MAX as it acts (R497). -/
def State.scanMax (s : State) (p : Nat) : Nat := Nat.min 64 (zeroActsAs (s.fld Fld.VSR_CFG_SCAN_MAX p) 1)

/-- The refusal of a query (R482, R478 order 1, R337). -/
def State.checkQuery (s : State) (p : Nat) (q : VsrAsk) : Option Status :=
  match s.collFor p q.coll with
  | .error st => some st
  | .ok c =>
    if q.k = 0 || 1024 < q.k || q.ef < q.k || 1024 < q.ef || q.rerank < q.k || 1024 < q.rerank then some .configQueryParams
    else if q.vec.length != c.geom.dims then some .configParamBlock
    else
      match s.ctx p c.ctx with
      | some x => if x.state == .down || x.state == .absent then some .contextContextDown else none
      | none => some .contextContextDown

/-- VSR_QUERY (R482, R483, R488): the snapshot is taken here; the scan runs alone, or with the batch. A query for a context
that is loading waits (R337). -/
def doVsrQuery (u : Sub) (q : VsrAsk) (s : State) : State :=
  let p := s.subPart u
  match s.checkQuery p q with
  | some st => s.complete u st
  | none =>
    match s.colls.get? q.coll with
    | none => s
    | some c =>
      if (match s.ctx p c.ctx with | some x => x.state == CtxState.loading | none => false) then
        s.modCtx p c.ctx (fun x => { x with held := x.held ++ [(u, HostCmd.vsrQuery q)] })
      else
        let r : VsrRun := { fn := u.fn, sq := u.sq, tag := u.tag, ask := q, part := p, g0 := c.graphLen,
                            l0 := c.sideLen, e0 := c.tombEpoch }
        if s.fld Fld.VSR_CFG_SCAN_WINDOW p = 0 then s.runQuery r
        else
          let s1 := { s with scans := s.scans.set q.coll (s.scanOf q.coll ++ [r]) }
          if s.scanMax p ≤ (s1.scanOf q.coll).length then s1.runScan q.coll else s1

/-- SCAN_WINDOW_EXPIRY (R488): the open batch of the collection scans. -/
def doScanWindowExpiry (coll : Nat) (s : State) : State := s.runScan coll

/-- Ends the queries of a collection with a status. -/
def State.endScans (s : State) (c : Nat) (st : Status) (report : Nat := 0) : State :=
  (s.scanOf c).foldl (fun (a : State) (r : VsrRun) => a.completeFor ⟨r.fn, r.sq, r.tag⟩ st 0 report)
    { s with scans := s.scans.erase c }

/-- VSR_DROP (R473, R494): running queries and pointing end with it, and the extent is released, unless a checkpoint still
reads the collection (R527), which then releases it. -/
def doVsrDrop (u : Sub) (coll : Nat) (s : State) : State :=
  match s.collOf (s.subPart u) coll with
  | none => s.complete u .configCollectionUnknown
  | some c =>
    let s1 := s.endScans coll .configCollectionUnknown
    let s2 := if c.held = 0 then { s1 with colls := s1.colls.erase coll }
      else s1.modColl coll (fun x => { x with dropping := true })
    s2.complete u .ok

-- Pointing (R490 to R493) --------------------------------------------------------------------------------------------------------------------

/-- Whether a node is tombstoned. -/
def Coll.dead (c : Coll) (n : Nat) : Bool :=
  match c.nodes[n]? with
  | some x => x.del != 0
  | none => true

/-- The pruning distance of two node numbers. -/
def Coll.distN (c : Coll) (a b : Nat) : Nat :=
  match c.nodes[a]?, c.nodes[b]? with
  | some x, some y => c.dist x y
  | _, _ => f32NegInf

/-- Keeps members by ascending distance where no kept member is close to them (R490 prune). -/
def Coll.keep (c : Coll) (alpha x : Nat) (kept : List Nat) (l : List Nat) : List Nat :=
  match l with
  | [] => kept
  | y :: r =>
    if kept.length = c.geom.degree then kept
    else if kept.any (fun t => !((v32 (c.distN x y)).lt (Val.mul (.fin false alpha 64) (v32 (c.distN t y))))) then
      c.keep alpha x kept r
    else c.keep alpha x (kept ++ [y]) r

/-- prune(x, S) of R490. -/
def Coll.prune (c : Coll) (alpha x : Nat) (l : List Nat) : List Nat :=
  let live := (l.flatMap (fun y => if c.dead y then (c.adjOf y).filter (fun z => !(c.dead z)) else [y])).eraseDups
  let lt (a b : Nat) : Bool := f32Lt (c.distN x a) (c.distN x b)
    || (!(f32Lt (c.distN x b) (c.distN x a)) && decide (a < b))
  c.keep alpha x [] (sortBy lt live)

/-- Replaces a node's adjacency list. -/
def Coll.setAdj (c : Coll) (n : Nat) (l : List Nat) : Coll :=
  { c with nodes := c.nodes.modify n (fun (x : Node) => { x with adj := l }) }

/-- Points one node (R490). -/
def Coll.pointNode (c : Coll) (ef alpha n : Nat) : Coll :=
  match c.nodes[n]? with
  | none => c
  | some x =>
    let beam := ((c.walk x.sketch ef c.graphLen).1.filter (fun b => !(c.dead b.node))).map (fun b => b.node)
    let lt (a b : Nat) : Bool := f32Lt (c.distN n a) (c.distN n b)
      || (!(f32Lt (c.distN n b) (c.distN n a)) && decide (a < b))
    let own := c.prune alpha n ((sortBy lt beam).take ef)
    own.foldl (fun (a : Coll) y =>
      let ys := a.adjOf y
      if ys.length < a.geom.degree then a.setAdj y (ys ++ [n]) else a.setAdj y (a.prune alpha y (ys ++ [n])))
      (c.setAdj n own)

/-- One batch of pointing up to its EXTENT write (R490, R491). -/
def Coll.pointBatch (c : Coll) (batch ef alpha : Nat) : Coll :=
  let n := Nat.min batch c.sideLen
  let c1 := (List.range' c.graphLen n).foldl (fun (a : Coll) i => a.pointNode ef alpha i) c
  { c1 with graphLen := c.graphLen + n, entry := if c.graphLen = 0 && n != 0 then some 0 else c.entry }

/-- The sweep of R493: re-prunes every graph list that names a tombstoned node. -/
def Coll.sweepLists (c : Coll) (alpha : Nat) : Coll :=
  (List.range c.graphLen).foldl (fun (a : Coll) n =>
    if (a.adjOf n).any (fun y => a.dead y) then a.setAdj n (a.prune alpha n (a.adjOf n)) else a) c

/-- VSR_POINT (R493): asks for pointing, and with SWEEP for a sweep. -/
def doVsrPoint (u : Sub) (coll : Nat) (s : State) : State :=
  match s.collFor (s.subPart u) coll with
  | .error st => s.complete u st
  | .ok _ =>
    (s.modColl coll (fun c => { c with asked := true, sweep := c.sweep || u.flags.sweep })).complete u .ok

/-- Whether pointing of a collection runs (14 Pointing, R494, R527): it is asked for or automatic, its context is ready, and
no checkpoint reads the collection. -/
def State.points (s : State) (c : Coll) : Bool :=
  !c.dropping && !c.closed && c.held == 0
    && (match s.ctx c.part c.ctx with | some x => x.state == .ready | none => false)
    && ((c.sideLen != 0 && (s.flag Fld.VSR_POINT_CFG_AUTO c.part || c.asked)) || c.sweep)

/-- POINTING_BATCH_DONE (R490 to R493). -/
def doPointingBatchDone (coll : Nat) (s : State) : State :=
  match s.colls.get? coll with
  | none => s
  | some c =>
    if !s.points c then s
    else
      let p := c.part
      let alpha := Nat.max 64 (s.fld Fld.VSR_POINT_CFG_ALPHA p)
      let batch := Nat.min 1024 (zeroActsAs (s.fld Fld.VSR_POINT_CFG_POINT_BATCH p) 1)
      let ef := Nat.max 16 (s.fld Fld.VSR_POINT_CFG_EF_BUILD p)
      let c1 := if s.flag Fld.VSR_POINT_CFG_AUTO p || c.asked then c.pointBatch batch ef alpha else c
      let c2 := if c.sweep then c1.sweepLists alpha else c1
      let c3 := { c2 with sweep := false, asked := c.asked && c1.sideLen != 0 }
      { s with colls := s.colls.set coll c3 }.bump Fld.VSR_POINTED_COUNT p (c1.graphLen - c.graphLen)

end Sys2Proof.Machine
end

