-- ==== Sys2Proof/Machine/Ckp.lean ====
section
/-!
DEFINITION. Checkpoints: what a checkpoint writes, how it is stored, and its end (15_checkpoint_and_restore.md R499 to R518).
The content is taken at the cut, within CKP_WRITE; the reads of a session or collection count as ended when its last shard
has been stored (log entry 32).
-/

namespace Sys2Proof.Machine

open Sys2Proof

-- Sizes (R506, R508, R514) -------------------------------------------------------------------------------------------------------

/-- BODY_BYTES of a shard (R508). -/
def Shard.body_bytes (sh : Shard) : Nat :=
  match sh.body with
  | .ses m => 128 + (if m.grammar.isSome then 4096 else 0) + 4 * m.log.length
  | .content cols =>
    match sh.geom with
    | some g => (cols.map List.length).sum * (4 + 2 * g.kb + g.d / 16)
    | none => 0
  | .mass ms => 2 * (ms.map List.length).sum
  | .pfx _ _ _ log => 32 + 4 * log.length
  | .weight bs => bs.length
  | .coll g _ _ _ _ _ rows =>
    let stride := if sh.layer = 0 then g.sketchBits / 8 else if sh.layer = 1 then 256
      else if sh.layer = 2 then g.stride else 8
    rows.length * stride + (if sh.layer = 0 ∧ sh.first = 0 then 128 else 0)

/-- Bytes of a stored shard: header, body and tag (R506). -/
def Shard.bytes (sh : Shard) : Nat := 64 + sh.body_bytes + 16

/-- Tile frames that a stored shard occupies (R511). -/
def Shard.frames (sh : Shard) : Nat := ceilDiv sh.bytes 18432

/-- BYTES of a manifest (R514). -/
def Manifest.bytes (m : Manifest) : Nat :=
  256 + 32 * m.sessions.length + 16 * m.prefixes.length + 80 * m.shards.length + 96

-- What a checkpoint writes (R501 to R509) --------------------------------------------------------------------------------------------

/-- A position of a shard (R508). -/
def TPos.shard (x : TPos) : CPos := ⟨x.key, x.value, x.kscales, x.vscales, x.pos, x.merged, x.mcount⟩

/-- The positions of an entry's tile. -/
def State.positionsAt (s : State) (e : Option MEntry) : List TPos :=
  match e with
  | some x => match s.tileAt x with
    | some t => t.positions
    | none => []
  | none => []

/-- Content shards of a pair's columns from a first one, in runs of so many columns (R509). -/
def State.contentShards (s : State) (o : ShardObj) (kind : Nat) (g : Geometry) (heads pairs j first run : Nat) (m : Mortar) :
    List Shard :=
  let last := match m.lastOf pairs j with | some (t, _) => t + 1 | none => 0
  (List.range (ceilDiv (last - first) run)).map (fun i =>
    let a := first + run * i
    let cols := (List.range' a (Nat.min run (last - a))).map (fun t =>
      (s.positionsAt (m.entries.get? (t * pairs + j))).map TPos.shard)
    { kind := kind, geom := some g, layer := if heads = 0 then 0 else j / heads, head := if heads = 0 then 0 else j % heads,
      object := o, first := a, count := cols.length, body := .content cols })

/-- Masses of a pair's private positions, decayed to the REQ_COUNT of the cut (R505, R508). -/
def State.massOf (s : State) (slot pairs j : Nat) : List Word16 :=
  let x := s.ses slot
  ((x.mortar.ofPair pairs j).filter (fun kv => decide (x.pfxTiles ≤ colOf pairs kv.1))).flatMap (fun kv =>
    match s.tileAt kv.2 with
    | some t => (t.decay (s.decayOf x.part) x.reqCount).positions.map (fun p => p.mass)
    | none => [])

/-- What a session's prefix is, as the registry or the session's own shared columns show it (R106, R508). -/
def State.prefixOf (s : State) (slot : Nat) : Option Prefix :=
  let x := s.ses slot
  if x.pfx = 0xFFFF then none
  else
    match (s.prefixes.get? (x.part, x.pfx)).filter (fun r => r.seq == x.pfxSeq) with
    | some r => some r
    | none =>
      let pairs := s.pairsOf slot
      let n := x.pfxTiles * (s.geomOf slot).p
      some ⟨x.main, n, x.pfxTiles, 0,
        { x.mortar with entries := x.mortar.entries.filter (fun kv => decide (colOf pairs kv.1 < x.pfxTiles)) },
        x.log.take n, [], x.pfxSeq⟩

/-- The shards of a prefix: its meta and one content shard for each pair (R508, R522). -/
def State.prefixShards (s : State) (p : Nat) (r : Prefix) : List Shard :=
  match s.ctx p r.main with
  | none => []
  | some c =>
    let pairs := c.img.pairs
    let o := ShardObj.pfx r.log
    { kind := 3, geom := none, layer := 0, head := 0, object := o, first := 0, count := 0,
      body := .pfx r.main r.tokens r.full r.log }
      :: (List.range pairs).flatMap (fun j => s.contentShards o 4 c.img.geom c.img.heads pairs j 0 (2 ^ 20) r.mortar)

/-- The meta fields of a session at the cut (R503, R508). -/
def State.metaOf (s : State) (slot : Nat) : SesMeta :=
  let x := s.ses slot
  { nextPos := x.nextPos, reqCount := x.reqCount, pfxLog := (s.prefixOf slot).map (fun r => r.log), pfxTiles := x.pfxTiles,
    hints := x.hints, hostData := x.hostData, main := x.main, fallback := x.fallback, dressed := x.dressed,
    grammar := x.grammar, log := x.log }

/-- The shards of a session (R508, R509). -/
def State.sesShards (s : State) (slot : Nat) : List Shard :=
  let x := s.ses slot
  match s.ctx x.part x.main with
  | none => []
  | some c =>
    let o := ShardObj.session (s.handleOf slot)
    let pairs := c.img.pairs
    let heads := c.img.heads
    { kind := 0, geom := none, layer := 0, head := 0, object := o, first := 0, count := 0, body := .ses (s.metaOf slot) }
      :: ((List.range pairs).flatMap (fun j => s.contentShards o 1 c.img.geom heads pairs j x.pfxTiles 16 x.mortar)
        ++ (List.range c.img.layers).map (fun l =>
          { kind := 2, geom := none, layer := l, head := 0, object := o, first := 0, count := 0,
            body := .mass ((List.range heads).map (fun h => s.massOf slot pairs (l * heads + h))) }))

/-- The image key of a context (R506): the digest of its placement image stands for it. -/
def Ctx.imageKey (c : Ctx) : Word64 := BitVec.ofNat 64 c.digest

/-- The weight shards of a context (R508). -/
def State.weightShards (s : State) (p c : Nat) : List Shard :=
  match s.ctx p c with
  | none => []
  | some x =>
    let ram := (s.ram.get? (p, c)).getD []
    (List.range x.img.weights.length).map (fun i =>
      let w := nthD x.img.weights i (0, 0)
      { kind := 5, geom := none, layer := 0, head := 0, object := .image x.imageKey, first := i, count := 1,
        body := .weight ((List.range w.2).map (fun k => Memory.read 0 ram (w.1 + k))) })

/-- The entry of one array of a collection for a node (R474). -/
def Coll.row (c : Coll) (array n : Nat) : List Nat :=
  match c.nodes[n]? with
  | none => []
  | some x =>
    if array = 0 then [x.sketch]
    else if array = 1 then x.adj
    else if array = 2 then x.vec ++ [x.scale.toNat]
    else if array = 3 then [x.item, x.del]
    else if c.items.get? x.item = some n then [x.item, n] else []

/-- The shards of a collection: blocks of 4,096 nodes of each array (R508, R527). -/
def State.collShards (s : State) (n : Nat) : List Shard :=
  match s.colls.get? n with
  | none => []
  | some c =>
    (List.range 5).flatMap (fun a =>
      (List.range (Nat.max 1 (ceilDiv c.nodes.length 4096))).map (fun b =>
        let m := Nat.min 4096 (c.nodes.length - 4096 * b)
        { kind := 6, geom := none, layer := a, head := 0, object := .coll n, first := 4096 * b, count := m,
          body := .coll c.geom c.ctx c.graphLen c.sideLen c.tombEpoch c.entry
            ((List.range' (4096 * b) m).map (fun i => c.row a i)) }))

/-- Whether a checkpoint skips a session (R502): by its state, by a poisoned tile, or because a tile is on a peer. -/
def State.ckpSkips (s : State) (slot : Nat) : Bool :=
  let x := s.ses slot
  x.state == .free || x.state == .failed || x.state == .moving || s.poisonedTile slot
    || x.mortar.entries.any (fun kv => kv.2.tier == .remote)

/-- Whether a tile of a session lies in an uncorrectable quarry frame (R434). -/
def State.ckpUnreadable (s : State) (slot : Nat) : Bool :=
  (s.ses slot).mortar.entries.any (fun kv => kv.2.tier == .quarry && s.qry.map.has kv.2.frame && s.unreadable kv.2.frame)

/-- The sessions that an object list names (R501 bit 0). -/
def CkpAsk.handles (a : CkpAsk) : List Word64 :=
  a.objs.filterMap (fun o => match o with | .session h => some h | _ => none)

/-- The slots that a checkpoint asks for, and how many listed handles name no session (R501, R502). -/
def State.ckpSlots (s : State) (p : Nat) (a : CkpAsk) : List Nat × Nat :=
  if bitOf a.scope 1 then
    ((s.sessions.filter (fun kv => kv.2.part == p && kv.2.state != .free && s.inRange p kv.1)).map (·.1), 0)
  else if bitOf a.scope 0 then
    let hs := a.handles
    let ok := hs.filter (fun h => (s.ses (handleSlot h)).state != .free && (s.ses (handleSlot h)).gen == handleGen h)
    ((ok.map handleSlot).eraseDups, hs.length - ok.length)
  else ([], 0)

/-- Whether an object of a list is another partition's (R501). -/
def State.ckpForeign (s : State) (p : Nat) (o : CkpObj) : Bool :=
  match o with
  | .session h => handleReserved h || handlePart h != p || !s.inRange p (handleSlot h)
  | .context c => (s.ctx p c).isNone
  | .coll c => (s.collOf p c).isNone

/-- The distinct elements of a list of prefixes by their logs. -/
def distinctPfx (l : List Prefix) : List Prefix :=
  l.foldl (fun acc r => if acc.any (fun x => x.log == r.log) then acc else acc ++ [r]) []

/-- Whether a partition's checkpoint key is loaded in the slot that CKP_CFG.KEY_SLOT names (R506, R520 order 2). -/
def State.ckpKey (s : State) (p : Nat) : Bool :=
  match s.sec.slots.get? (s.fld Fld.CKP_CFG_KEY_SLOT p) with
  | some k => k.kind == 3 && k.owner == some p && k.state == .loaded
  | none => false

/-- Opens a checkpoint: the cut of its sessions, what it has to store, and its manifest (R503, R514). -/
def State.ckpOpen (s : State) (u : Sub) (p : Nat) (a : CkpAsk) : State × CkpRun :=
  let asked := s.ckpSlots p a
  let slots := asked.1.filter (fun n => !s.ckpSkips n)
  let s1 := s.bump Fld.CKP_SKIPPED_COUNT p (asked.2 + asked.1.length - slots.length)
  let pfx := distinctPfx (slots.filterMap (fun n => s.prefixOf n))
  let ctxs := if bitOf a.scope 2 then a.objs.filterMap (fun o => match o with | .context c => some c | _ => none) else []
  let colls := if bitOf a.scope 3 then a.objs.filterMap (fun o => match o with | .coll c => some c | _ => none) else []
  let shards := pfx.flatMap (fun r => s.prefixShards p r) ++ slots.flatMap (fun n => s.sesShards n)
    ++ ctxs.flatMap (fun c => s.weightShards p c) ++ colls.flatMap (fun c => s.collShards c)
  let entry (n : Nat) : ManSes :=
    let x := s.ses n
    ⟨s.handleOf n, x.nextPos, x.log.length, x.main, x.dressed, x.grammar.isSome, (s.prefixOf n).map (fun r => r.log)⟩
  let man : Manifest := {
    series := a.series, part := p, scope := a.scope, step := a.step, sessions := slots.map entry,
    prefixes := pfx.map (fun r => r.log), shards := shards, stamp := 0, device := s.sec.fuses.peerId.toNat, keySlot := s.fld Fld.CKP_CFG_KEY_SLOT p }
  let s2 := slots.foldl (fun (b : State) n => b.modSes n (fun x => { x with ckpReads := x.ckpReads + 1 })) s1
  let s3 := colls.foldl (fun (b : State) c => b.modColl c (fun x => { x with held := x.held + 1 })) s2
  (s3, { fn := u.fn, sq := u.sq, tag := u.tag, ask := a, todo := shards, stored := [], holds := [], head := a.head,
         tail := a.tail, stopped := false, man := man, count := 0, lastBond := 0, slots := slots, colls := colls })

-- The shard index (R511, R516) -----------------------------------------------------------------------------------------------------------

/-- The index entry of a shard that a partition's quarry holds readable. -/
def State.shardAt (s : State) (p : Nat) (sh : Shard) : Option ShardIdx :=
  (s.ckp.index.getD p []).find? (fun x => x.shard == sh && !x.bad)

/-- Changes the index entries of a shard. -/
def State.modShard (s : State) (p : Nat) (sh : Shard) (f : ShardIdx → ShardIdx) : State :=
  let l := (s.ckp.index.getD p []).map (fun x => if x.shard = sh then f x else x)
  { s with ckp := { s.ckp with index := s.ckp.index.set p l } }

/-- Trims every shard of a partition that has neither a reference nor a hold (R516, R517). -/
def State.trimShards (s : State) (bond p : Nat) : State :=
  let l := s.ckp.index.getD p []
  let gone := l.filter (fun x => x.refs == 0 && x.holds == 0)
  let s1 := gone.foldl (fun (a : State) x => a.qTrims bond x.frames) s
  { s1 with ckp := { s1.ckp with index := s1.ckp.index.set p (l.filter (fun x => !(x.refs == 0 && x.holds == 0))) } }

/-- Drops a hold on each of some shards. -/
def State.dropHolds (s : State) (p : Nat) (l : List Shard) : State :=
  l.foldl (fun (a : State) sh => a.modShard p sh (fun x => { x with holds := x.holds - 1 })) s

/-- Drops a manifest of a partition: its references and frames (R516, R518). -/
def State.dropManifest (s : State) (bond p : Nat) (m : Manifest × List Nat) : State :=
  let s1 := m.1.shards.foldl (fun (a : State) sh => a.modShard p sh (fun x => { x with refs := x.refs - 1 })) s
  s1.qTrims bond m.2

-- Progress and end (R511 to R517) ---------------------------------------------------------------------------------------------------------------

/-- The run of a series. -/
def State.ckpRun (s : State) (p n : Nat) : Option CkpRun := s.ckp.runs.get? (p, n)

/-- Stores a run. -/
def State.setRun (s : State) (p n : Nat) (r : CkpRun) : State :=
  { s with ckp := { s.ckp with runs := s.ckp.runs.set (p, n) r } }

/-- A collection is no longer read: a drop that waited releases it (R494, R527). -/
def State.unholdColl (s : State) (c : Nat) : State :=
  let s1 := s.modColl c (fun x => { x with held := x.held - 1 })
  match s1.colls.get? c with
  | some x => if x.dropping && x.held == 0 then { s1 with colls := s1.colls.erase c } else s1
  | none => s1

/-- Ends the reads of sessions and collections of which a run stores nothing more (R504, R527). -/
def State.endReads (s : State) (p n : Nat) : State :=
  match s.ckpRun p n with
  | none => s
  | some r =>
    let open_ (o : ShardObj) : Bool := r.todo.any (fun sh => sh.object == o)
    let left := r.slots.filter (fun k => open_ (.session (s.handleOf k)))
    let cleft := r.colls.filter (fun k => open_ (.coll k))
    let s1 := (r.slots.filter (fun k => !(left.contains k))).foldl
      (fun (a : State) k => a.modSes k (fun x => { x with ckpReads := x.ckpReads - 1 })) s
    let s2 := (r.colls.filter (fun k => !(cleft.contains k))).foldl (fun (a : State) k => a.unholdColl k) s1
    s2.setRun p n { r with slots := left, colls := cleft }

/-- Removes a run: its reads end, and its series is free. -/
def State.closeRun (s : State) (p n : Nat) : State :=
  match s.ckpRun p n with
  | none => s
  | some r =>
    let s1 := (s.setRun p n { r with todo := [] }).endReads p n
    { s1 with ckp := { s1.ckp with runs := s1.ckp.runs.erase (p, n) } }

/-- The open bond of a run. -/
def State.ckpBond (s : State) (p n : Nat) : Option Bond :=
  s.bonds.find? (fun b => b.part == p && (b.kind == .shard || b.kind == .manifest) && b.arg == n)

/-- Ends a checkpoint before its manifest (R517): its bond aborts, a release bond trims what it stored. -/
def State.ckpFail (s : State) (p n : Nat) (st : Status) (report : Nat := 0) : State :=
  match s.ckpRun p n with
  | none => s
  | some r =>
    let s1 := match s.ckpBond p n with | some b => s.abortQuarry p b.id | none => s
    let s2 := if r.holds.isEmpty then s1
      else
        let id := s1.nextBond p
        ((s1.bondOnce p).dropHolds p r.holds).trimShards id p
    (s2.closeRun p n).completeFor ⟨r.fn, r.sq, r.tag⟩ st r.count report

/-- A manifest becomes current (R516): references, the series' newest step, KEEP, and CKP_STEP of its sessions. A checkpoint to
host memory drops no manifest of the quarry (R513). -/
def State.ckpCurrent (s : State) (bond p n : Nat) (r : CkpRun) (frames : List Nat) : State :=
  let m := { r.man with stamp := s.aon }
  let s1 := m.shards.foldl (fun (a : State) sh => a.modShard p sh (fun x => { x with refs := x.refs + 1 })) s
  let s2 := s1.dropHolds p r.holds
  let keep := if r.ask.host then (s2.ckp.mans.getD (p, n) []).length else zeroActsAs (s2.fld Fld.CKP_CFG_KEEP p) 1
  let l := if r.ask.host then s2.ckp.mans.getD (p, n) [] else (m, frames) :: s2.ckp.mans.getD (p, n) []
  let s3 := (l.drop keep).foldl (fun (a : State) x => a.dropManifest bond p x) s2
  let s4 := { s3 with ckp := { s3.ckp with newest := s3.ckp.newest.set (p, n) m.step,
                                           mans := s3.ckp.mans.set (p, n) (l.take keep) } }
  let s5 := s4.trimShards bond p
  let s6 := m.sessions.foldl (fun (a : State) e =>
    let k := handleSlot e.handle
    if (a.ses k).state != .free && a.handleOf k == e.handle then
      (a.bondOnce p).modSes k (fun x => { x with ckpStep := m.step })
    else a) s5
  (s6.closeRun p n).completeFor ⟨r.fn, r.sq, r.tag⟩ .ok r.count

/-- The status that refuses frames in the quarry (R512). -/
def State.ckpRefuses (s : State) (p frames : Nat) : Option Status :=
  if !s.qry.mounted then some .mediaQuarryDown
  else if s.qry.full frames || !s.qryRoom p frames then some .quotaQuarry
  else if !s.govTakes p (tileBytes * frames) then some .quotaWearBudget
  else none

/-- Opens a bond that programs a shard or the manifest (R512, R516). -/
def State.ckpStage (s : State) (p n : Nat) (kind : BondKind) (r : CkpRun) (frames : Nat) : State :=
  match s.ckpRefuses p frames with
  | some st => s.ckpFail p n st
  | none =>
    let t := s.openBond p kind noSlot (some ⟨r.fn, r.sq, r.tag⟩) true n
    match t.2.qStages p .tile t.1 frames with
    | none => (t.2.abortQuarry p t.1).ckpFail p n .quotaQuarry
    | some (fs, s1) => (s1.stageActs p t.1 [act .checkpoint n (Config.freeValue 84 t.1), actList .quarryMap fs]).govCharge p (tileBytes * frames)

/-- Works through the shards of a quarry checkpoint up to the next one to program (R511, R512). -/
def State.ckpQuarry (s : State) (p n : Nat) (todo : List Shard) : State :=
  match s.ckpRun p n with
  | none => s
  | some r =>
    match todo with
    | [] => (s.setRun p n { r with todo := [] }).ckpStage p n .manifest r (ceilDiv r.man.bytes 18432)
    | sh :: rest =>
      match s.shardAt p sh with
      | some _ =>
        let s1 := (s.modShard p sh (fun x => { x with holds := x.holds + 1 })).bump Fld.CKP_DEDUP_COUNT p
        (s1.setRun p n { r with todo := rest, holds := sh :: r.holds }).ckpQuarry p n rest
      | none => (s.setRun p n { r with todo := todo }).ckpStage p n .shard r sh.frames

/-- Bytes free in a host ring (R270, R513). -/
def CkpRun.free (r : CkpRun) : Nat := 2 ^ r.ask.ring.log2 - (r.head + 2 ^ 64 - r.tail) % 2 ^ 64

/-- The host writes of one record, with HEAD after it (R270, R513). -/
def State.ckpPut (s : State) (r : CkpRun) (o : Out) (bytes : Nat) : State :=
  ((s.put o).sealed r.fn).put (.head r.fn r.ask.ring.ctrl ((r.head + bytes) % 2 ^ 64))

/-- Works through the shards of a host checkpoint while its ring has room (R513). -/
def State.ckpHost (s : State) (p n : Nat) (todo : List Shard) : State :=
  match s.ckpRun p n with
  | none => s
  | some r =>
    let at_ := r.ask.ring.base + r.head % 2 ^ r.ask.ring.log2
    match todo with
    | [] =>
      if r.free < r.man.bytes then s.setRun p n { r with todo := [], stopped := true }
      else
        let s1 := s.ckpPut r (.ckpManifest r.fn at_ { r.man with stamp := s.aon }) r.man.bytes
        s1.ckpCurrent 0 p n { r with todo := [] } []
    | sh :: rest =>
      if r.ask.held.contains sh then
        ((s.bump Fld.CKP_DEDUP_COUNT p).setRun p n { r with todo := rest }).ckpHost p n rest
      else if r.free < sh.bytes then s.setRun p n { r with todo := todo, stopped := true }
      else
        let s1 := (s.ckpPut r (.ckpShard r.fn at_ r.ask.step sh) sh.bytes).bump Fld.CKP_WRITTEN_COUNT p
        let r1 := { r with todo := rest, stored := sh :: r.stored, head := (r.head + sh.bytes) % 2 ^ 64,
                           count := r.count + 1, stopped := false }
        (s1.setRun p n r1).ckpHost p n rest

/-- Takes a checkpoint further. -/
def State.ckpGo (s : State) (p n : Nat) : State :=
  match s.ckpRun p n with
  | none => s
  | some r => (if r.ask.host then s.tick.ckpHost p n r.todo else s.ckpQuarry p n r.todo).endReads p n

/-- A shard of a run has been programmed (R512): its bond commits with its index entry. -/
def State.shardDone (s : State) (b : Bond) (frames : List Nat) : State :=
  match s.ckpRun b.part b.arg with
  | none => s
  | some r =>
    match r.todo with
    | [] => s
    | sh :: rest =>
      let s1 := (frames.foldl (fun (a : State) f => a.qMap f) s).commitBond b.part b.id
      let l := ⟨sh, r.ask.step, frames, 0, 1, false⟩ :: s1.ckp.index.getD b.part []
      let s2 := { s1 with ckp := { s1.ckp with index := s1.ckp.index.set b.part l } }
      ((s2.bump Fld.CKP_WRITTEN_COUNT b.part).setRun b.part b.arg
        { r with todo := rest, holds := sh :: r.holds, stored := sh :: r.stored, count := r.count + 1,
                 lastBond := b.id }).ckpGo b.part b.arg

/-- The manifest of a run has been programmed (R516). -/
def State.manifestDone (s : State) (b : Bond) (frames : List Nat) : State :=
  match s.ckpRun b.part b.arg with
  | none => s
  | some r =>
    let s1 := ((frames.foldl (fun (a : State) f => a.qMap f) s).commitBond b.part b.id).tick
    s1.ckpCurrent b.id b.part b.arg r frames

-- Commands ------------------------------------------------------------------------------------------------------------------------------------------

/-- The newest step of a series, complete or open (R499). -/
def State.ckpNewest (s : State) (p n : Nat) : Nat :=
  Nat.max (s.ckp.newest.getD (p, n) 0) (match s.ckpRun p n with | some r => r.ask.step | none => 0)

/-- The refusal of CKP_WRITE (R499, R501, R512, R513). -/
def State.checkCkp (s : State) (p : Nat) (a : CkpAsk) : Option Status :=
  if a.host && !a.ring.ok then some .configParamBlock
  else if a.step ≤ s.ckpNewest p a.series then some .configCkpStep
  else if a.scope % 16 = 0 || 65536 < a.handles.length || a.objs.any (fun o => s.ckpForeign p o) then some .configCkpScope
  else if !s.ckpKey p then some .securityCkpKey
  else if !a.host && !s.qry.mounted then some .mediaQuarryDown
  else none

/-- CKP_WRITE as it starts. -/
def State.ckpStart (s : State) (u : Sub) (a : CkpAsk) : State :=
  let p := s.subPart u
  match s.checkCkp p a with
  | some st => s.complete u st
  | none =>
    let t := s.ckpOpen u p a
    if t.2.slots.any (fun n => s.ckpUnreadable n) then
      ((t.1.setRun p a.series { t.2 with todo := [] }).closeRun p a.series).complete u .mediaQuarryRead
    else (t.1.setRun p a.series t.2).ckpGo p a.series

/-- CKP_WRITE (R499 to R501): waits while its series has an open checkpoint. -/
def doCkpWrite (u : Sub) (a : CkpAsk) (s : State) : State :=
  let p := s.subPart u
  if (s.ckpRun p a.series).isSome then
    match s.checkCkp p a with
    | some st => s.complete u st
    | none => { s with ckp := { s.ckp with queue := s.ckp.queue ++ [(u, .ckpWrite a)] } }
  else s.ckpStart u a

/-- The first waiting write whose series has no open checkpoint, and the others (R500). -/
def State.ckpNext (s : State) (q : List (Sub × HostCmd)) : Option (Sub × CkpAsk × List (Sub × HostCmd)) :=
  match q with
  | [] => none
  | (u, c) :: r =>
    let more := match s.ckpNext r with | some (v, b, rest) => some (v, b, (u, c) :: rest) | none => none
    match c with
    | .ckpWrite a => if (s.ckpRun (s.subPart u) a.series).isNone then some (u, a, r) else more
    | _ => more

/-- Starts waiting writes (R500). -/
def State.ckpQueue (s : State) (fuel : Nat) : State :=
  match fuel with
  | 0 => s
  | n + 1 =>
    match s.ckpNext s.ckp.queue with
    | none => s
    | some (u, a, rest) => ({ s with ckp := { s.ckp with queue := rest } }.ckpStart u a).ckpQueue n

/-- CKP_RING_ROOM (R513): the TAIL of a host ring as the device reads it. -/
def doCkpRingRoom (part series tail : Nat) (s : State) : State :=
  match s.ckpRun part series with
  | none => s
  | some r =>
    if r.ask.host && r.stopped then (s.setRun part series { r with tail := tail, stopped := false }).ckpGo part series
    else s

/-- CKP_RELEASE (R518). -/
def doCkpRelease (u : Sub) (series step : Nat) (s : State) : State :=
  let p := s.subPart u
  let l := s.ckp.mans.getD (p, series) []
  match l.find? (fun m => m.1.step == step) with
  | none => s.complete u .configCkpUnknown
  | some m =>
    let id := s.nextBond p
    let s1 := (s.bondOnce p).dropManifest id p m
    let s2 := { s1 with ckp := { s1.ckp with mans := s1.ckp.mans.set (p, series) (l.filter (fun x => x.1.step != step)) } }
    (s2.trimShards id p).complete u .ok

end Sys2Proof.Machine
end

