-- ==== Sys2Proof/Machine/Move.lean ====
section
/-!
DEFINITION. Moves of a session between devices, at the source and at the target (05_parking_dressing_revival.md R199 to R204,
02 R62, 17 R581 to R585, R601 to R603).
-/

namespace Sys2Proof.Machine

open Sys2Proof

-- The source (R199 orders 1, 2, 8) -------------------------------------------------------------------------------------------------------

/-- Whether the current map of a composition has an epoch, or a newer one (R595, R601). -/
def State.epochReached (s : State) (comp epoch : Nat) : Bool :=
  match s.compById comp with
  | some c => c.cur.epoch == epoch || epochNewer c.cur.epoch epoch
  | none => false

/-- The state a move returns to (R59). -/
def MoveOut.prior (m : MoveOut) : SesState := if m.parked then .parked else .waiting

/-- Sends MOVE_ABORT to the other end of a move (R584). -/
def State.sendAbort (s : State) (peer part comp : Nat) (h : Word64) (reason : Status) : State :=
  s.sendTo peer part 0 comp h 0 .bg (.moveAbort reason)

/-- Releases the staging frames of a move (R203). -/
def State.dropStaging (s : State) (m : MoveOut) : State := s.freeTiles (m.staging.map (·.2))

/-- A move ends at its source without taking effect (R203): the session is in the given state, SES_MOVE ends with the status. -/
def State.abortMove (s : State) (slot : Nat) (dest : SesState) (st : Status) (result : Nat := 0) (report : Nat := 0) : State :=
  match s.movesOut.get? slot with
  | none => s
  | some m =>
    let s := { s.dropStaging m with movesOut := s.movesOut.erase slot }
    let s := ((s.recordBond slot).modSes slot (fun x => { x with state := dest, op := .none, movePeer := 0, moveEpoch := 0 })).touch slot
    s.completeFor ⟨m.fn, m.sq, m.tag⟩ st result report

/-- The commands that wait at a slot end with a status: none of them waits any more. -/
def State.endWaiting (s : State) (slot : Nat) (st : Status) (result : Nat := 0) : State :=
  (s.ses slot).waiting.foldl (fun a w => a.complete w.1 st result) (s.modSes slot (fun x => { x with waiting := [] }))

/-- Writes a forwarding entry; the table holds 65,536 and a new entry replaces the oldest (R601). -/
def State.addForward (s : State) (f : Forward) : State :=
  let l := if 65536 ≤ s.forwards.length then s.forwards.drop (s.forwards.length + 1 - 65536) else s.forwards
  { s with forwards := l ++ [f] }

/-- The move bond commits (R199 order 8, R200): the session is FREE here, the handle forwards to the target, and commands that waited
behind the move end with STATE_LOST/moved and the hint (R62). -/
def State.commitMove (s : State) (slot : Nat) (m : MoveOut) : State :=
  let x := s.ses slot
  let old := s.handleOf slot
  let new := m.target.getD 0
  let peer := match s.peers.get? m.peer with | some y => y.id | none => 0
  let id := s.nextBond x.part
  let s1 := { (s.bondOnce x.part).dropStaging m with movesOut := s.movesOut.erase slot }
  let s2 := s1.releaseSes id slot
  let s3 := if m.parked then s2.mirrorSes slot else s2
  let s4 := (s3.addForward ⟨x.part, old, peer, new⟩).completeFor ⟨m.fn, m.sq, m.tag⟩ .ok (new.toNat + (m.peer % 1024) * 2 ^ 64)
  s4.endWaiting slot .stateLostMoved (hintResult (some (peer, new)))

/-- Commits a move whose epoch is current and whose confirmation has arrived. -/
def State.tryMove (s : State) (slot : Nat) : State :=
  match s.movesOut.get? slot with
  | none => s
  | some m => if m.confirmed && s.epochReached (s.ses slot).comp m.epoch then s.commitMove slot m else s

/-- The offer of a session (R585): tile-store and quarry tiles stand under their LPDDR6 or staging frames. -/
def State.offerOf (s : State) (slot epoch : Nat) (frames : AMap Nat Nat) : Offer :=
  let x := s.ses slot
  { handle := s.handleOf slot, nextPos := x.nextPos, main := x.main, comp := x.comp, epoch := epoch, hints := x.hints,
    hostData := x.hostData, reqCount := x.reqCount, dressed := x.dressed,
    entries := (sortBy (fun (a b : Nat × MEntry) => decide (a.1 < b.1)) x.mortar.entries).map (fun kv =>
      ⟨kv.1, { kv.2 with tier := .lpddr, peer := 0, frame := frames.getD kv.1 kv.2.frame }⟩),
    log := x.log, grammar := x.grammar }

/-- Entries of a session in one tier. -/
def Session.inTier (x : Session) (t : Tier) : List Nat := (x.mortar.entries.filter (fun kv => kv.2.tier == t)).map (·.1)

/-- SES_MOVE as it starts (R199 orders 1 and 2, R201). A peer index without an admitted peer of the partition ends it like the loss
of that peer (log entry 30). -/
def doSesMove (u : Sub) (peer epoch : Nat) (s : State) : State :=
  let slot := u.slot
  let x := s.ses slot
  let p := x.part
  let there := match s.peers.get? peer with
    | some y => y.state == .admitted && bitOf y.parts p
    | none => false
  if x.state ≠ .waiting ∧ x.state ≠ .parked then s.complete u .configWrongState
  else if !there then s.complete u .peerMoveAborted
  else if s.poisonedTile slot then
    (((s.recordBond slot).modSes slot (fun y => { y with state := .failed, poisoned := true })).touch slot).complete u .stateLostFailed
  else if x.state = .parked ∧ ¬s.qry.mounted then s.complete u .mediaQuarryDown
  else
    let near := x.inTier .store
    let far := x.inTier .quarry
    if s.room p (near.length + far.length) 0 == .waits then s.waitFrames p u (.sesMove peer epoch) else
    match s.allocTiles p ⟨p, .priv, 0, slot, []⟩ far.length with
    | none => s.complete u .quotaLpddr6
    | some (fs, s1) =>
      match s1.demoteAll slot near with
      | none => s.complete u .quotaLpddr6
      | some s2 =>
        let staging : AMap Nat Nat := far.zip fs
        let frames : AMap Nat Nat := (s2.ses slot).mortar.entries.map (fun kv => (kv.1, staging.getD kv.1 kv.2.frame))
        let tag := s2.freeCtr
        let m : MoveOut := { fn := u.fn, sq := u.sq, tag := u.tag, peer := peer, epoch := epoch, parked := x.state == .parked,
                             offered := frames, staging := staging, target := none, confirmed := false, wireTag := tag,
                             asks := [], filled := [] }
        let s3 := (s2.recordBond slot).modSes slot (fun y => { y with state := .moving, op := .moveOut, movePeer := peer, moveEpoch := epoch })
        let s4 := { s3 with movesOut := s3.movesOut.set slot m, freeCtr := s3.freeCtr + 1 }
        s4.sendTo peer p 0 x.comp 0 tag .bg (.moveOffer (s4.offerOf slot epoch frames))

/-- The move that sent an offer with a tag to a peer. -/
def State.moveByTag (s : State) (peer tag : Nat) : Option (Nat × MoveOut) :=
  s.movesOut.find? (fun kv => kv.2.peer == peer && kv.2.wireTag == tag)

/-- MOVE_ANSWER (R199, R202): the new handle, or a refusal that ends the move; the target's status stands in RESULT[15:0]. -/
def doMoveAnswer (h : Hdr) (status : Status) (handle : Word64) (s : State) : State :=
  s.receive h 8 true (some (if status = 0 then 44 else 36)) (fun i _ t =>
    match t.moveByTag i h.tag with
    | none => t
    | some (slot, m) =>
      if m.target.isSome then t
      else if status = 0 then { t with movesOut := t.movesOut.set slot { m with target := some handle } }
      else t.abortMove slot m.prior .peerMoveRefused status.toNat)

/-- The move of the session that a control message names, where its sender is the other end. -/
def State.moveOfHandle (s : State) (h : Hdr) (peer : Nat) : Option (Nat × MoveOut) :=
  if (s.checkHandle (some h.part) h.handle).isSome then none
  else
    match s.movesOut.get? (handleSlot h.handle) with
    | some m => if m.peer = peer then some (handleSlot h.handle, m) else none
    | none => none

/-- MOVE_CONFIRM (R199 orders 7 and 8). -/
def doMoveConfirm (h : Hdr) (handle : Word64) (s : State) : State :=
  s.receive h 8 false (some 44) (fun i _ t =>
    match t.moveOfHandle h i with
    | none => t
    | some (slot, m) =>
      if m.target ≠ some handle then t
      else { t with movesOut := t.movesOut.set slot { m with confirmed := true } }.tryMove slot)

-- Serving pulls (R582) ----------------------------------------------------------------------------------------------------------------------------------

/-- Answers a pull with a status. -/
def State.refusePull (s : State) (h : Hdr) (st : Status) (hint : Option (Word64 × Word64)) : State :=
  s.answerMsg h .bg (.pullAnswer st hint none)

/-- Answers a pull with the tile of an entry, as it stands in its LPDDR6 or staging frame. -/
def State.servePull (s : State) (slot k frame : Nat) (h : Hdr) : State :=
  match s.tiles.get? (.frame frame) with
  | none => s.refusePull h .configWrongState none
  | some t =>
    let pairs := s.pairsOf slot
    (s.wakeTile frame).answerMsg h .bg (.pullAnswer .ok none (some ⟨t.layer, t.head, colOf pairs k, false, t⟩))

/-- A tile of a moving session cannot be read: the session is FAILED and the move ends (R198, R734). -/
def State.failMove (s : State) (slot : Nat) : State :=
  match s.movesOut.get? slot with
  | none => s
  | some m =>
    let x := s.ses slot
    let s := match m.target with
      | some w => s.sendAbort m.peer x.part x.comp w .stateLostFailed
      | none => s
    (s.modSes slot (fun y => { y with poisoned := true })).abortMove slot .failed .stateLostFailed

/-- Whether a tile frame holds poison (R371, R733). -/
def State.framePoisoned (s : State) (n : Nat) : Bool :=
  match s.tileFrames.get? n with
  | some f => f.state == .poisoned || !f.poison.isEmpty
  | none => false

/-- TILE_PULL (R582): checked in order, and served from the named frame; a staging frame is filled from the quarry first. -/
def doTilePull (h : Hdr) (_layer _head _column frame : Nat) (s : State) : State :=
  s.receive h 6 false (some 48) (fun i _ t =>
    if t.sec.removed.contains h.part || t.removals.has h.part then t.refusePull h .securityPartitionGone none
    else
      match t.checkHandle (some h.part) h.handle with
      | some st =>
        let r := t.movedHint st h.handle
        (if r.2.isSome then t.bump Fld.CMP_MOVED_COUNT else t).refusePull h r.1 r.2
      | none =>
        let slot := handleSlot h.handle
        match t.movesOut.get? slot with
        | none => t.refusePull h .securityForeignPeer none
        | some m =>
          if m.peer ≠ i then t.refusePull h .securityForeignPeer none
          else
            match m.offered.find? (fun kv => kv.2 == frame) with
            | none => t.refusePull h .configWrongState none
            | some (k, _) =>
              if t.framePoisoned frame then
                (t.refusePull h .stateLostFailed none).failMove slot
              else if m.staging.has k && !(m.filled.contains k) then
                { t with movesOut := t.movesOut.set slot { m with asks := m.asks ++ [(k, h)] } }
              else t.servePull slot k frame h)

/-- The move whose staging frame is filled from a quarry frame next, and the entry. -/
def State.fillOf (s : State) (frame : Nat) : Option (Nat × Nat) :=
  s.movesOut.findSome? (fun sm =>
    let x := s.ses sm.1
    (sm.2.asks.find? (fun a => !(sm.2.filled.contains a.1) && (match x.mortar.entries.get? a.1 with
      | some e => e.tier == .quarry && e.frame == frame | none => false))).map (fun a => (sm.1, a.1)))

/-- A quarry frame has been read for a staging frame (R199 order 4): the pulls that wait for it are answered. -/
def State.fillRead (s : State) (slot k : Nat) (bad : Bool) : State :=
  match s.movesOut.get? slot with
  | none => s
  | some m =>
    let hs := (m.asks.filter (fun a => a.1 == k)).map (·.2)
    if bad then (hs.foldl (fun a h => a.refusePull h .stateLostFailed none) s).failMove slot
    else
      match ((s.ses slot).mortar.entries.get? k).bind s.tileAt, m.staging.get? k with
      | some t, some n =>
        let m' := { m with asks := m.asks.filter (fun a => a.1 != k), filled := m.filled ++ [k] }
        let s1 := { s with movesOut := s.movesOut.set slot m' }.putTile (.frame n) t
        hs.foldl (fun a h => a.servePull slot k n h) s1
      | _, _ => s

-- The target (R199 orders 3, 4, 7) ----------------------------------------------------------------------------------------------------------------------

/-- Remote entries of a session in the order of R194. -/
def State.remoteOrder (s : State) (slot : Nat) : List Nat :=
  let pairs := s.pairsOf slot
  let heads := s.headsOf slot
  let layer (e : Nat) := if heads = 0 then 0 else pairOf pairs e / heads
  (sortBy (fun (a b : Nat × MEntry) =>
    if layer a.1 != layer b.1 then decide (layer a.1 < layer b.1) else decide (a.1 < b.1))
    ((s.ses slot).mortar.entries.filter (fun kv => kv.2.tier == .remote))).map (·.1)

/-- Whether the pull of an entry may go out now: pulls run with the read-ahead of R194, or on demand of a waiting slice (R199 order 6). -/
def State.mayPull (s : State) (slot e : Nat) : Bool :=
  let heads := s.headsOf slot
  let layer := if heads = 0 then 0 else pairOf (s.pairsOf slot) e / heads
  match s.lowLayer slot with
  | none => true
  | some l =>
    decide (layer < l + s.fld Fld.DRS_CFG_READ_AHEAD (s.ses slot).part) || s.wantsTile slot e

/-- Sends a pull for an entry. -/
def State.sendPull (s : State) (slot e : Nat) (m : MoveIn) (w : Pull) : State :=
  let x := s.ses slot
  let pairs := s.pairsOf slot
  let heads := s.headsOf slot
  let j := pairOf pairs e
  match x.mortar.entries.get? e with
  | none => s
  | some y =>
    s.sendTo m.peer x.part 0 m.comp m.srcHandle w.tag .bg
      (.tilePull (if heads = 0 then 0 else j / heads) (if heads = 0 then 0 else j % heads) (colOf pairs e) y.frame)

/-- Starts pulls for entries while the window has room (R602). -/
def State.pullEach (s : State) (slot : Nat) (m : MoveIn) (es : List Nat) : State :=
  match es with
  | [] => s
  | e :: r =>
    let window := zeroActsAs (s.fld Fld.CMP_CFG_PULL_WINDOW) 1
    if window ≤ (s.pulls.filter (fun w => w.slot == slot)).length then s
    else
      let w : Pull := ⟨slot, e, m.peer, s.freeCtr, 1⟩
      ({ s with pulls := s.pulls ++ [w], freeCtr := s.freeCtr + 1 }.sendPull slot e m w).pullEach slot m r

/-- Keeps a move target's pulls going: tiles that slices wait for first, then the order of R194. -/
def State.pumpPulls (s : State) (slot : Nat) : State :=
  match s.movesIn.get? slot with
  | none => s
  | some m =>
    let due := (s.remoteOrder slot).filter (fun e => !(s.pulls.any (fun w => w.slot == slot && w.entry == e)) && s.mayPull slot e)
    let want := due.filter (fun e => s.wantsTile slot e)
    s.pullEach slot m (want ++ due.filter (fun e => !(want.contains e)))

/-- The whole session has arrived (R199 order 7): its state by R59, and the confirmation. A request that still waits at admission has not
started. From here on the session is rebuilt from its persisted log (R193). -/
def State.finishMoveIn (s : State) (slot : Nat) (m : MoveIn) : State :=
  let started : Bool := match s.req slot with | some q => q.phase != .admitted | none => false
  let asked := (s.req slot).isSome
  let s := s.modSes slot (fun x => { x with
    state := if started then .active else .waiting, op := if asked then x.op else .none, movePeer := 0, moveEpoch := 0,
    offerLog := 0 })
  let s := { s with movesIn := s.movesIn.erase slot }
  (s.touch slot).sendTo m.peer (s.ses slot).part 0 m.comp m.srcHandle 0 .bg (.moveConfirm (s.handleOf slot))

/-- Ends a move-in whose last tile is present. -/
def State.checkMoveIn (s : State) (slot : Nat) : State :=
  match s.movesIn.get? slot with
  | none => s
  | some m => if ((s.ses slot).inTier .remote).isEmpty then s.finishMoveIn slot m else s.pumpPulls slot

/-- Builds the session of an offer in a slot (R199 order 3): its entries name the source's frames; none where a mortar frame is
lacking. -/
def State.buildMoveIn (s : State) (slot peer : Nat) (h : Hdr) (o : Offer) : Option State :=
  let p := h.part
  match s.allocMor p ⟨p, .priv, 0, slot, []⟩ with
  | none => none
  | some (root, s1) =>
    match s1.growMortar p slot (Mortar.empty root) (o.entries.map (·.index)) with
    | none => none
    | some (m, s2) =>
      match s2.allocMors p ⟨p, .priv, 0, slot, []⟩ (logFramesFor o.log.length) with
      | none => none
      | some (lf, s3) =>
        let gr := match o.grammar with
          | none => some (none, s3)
          | some g => (s3.allocMor p ⟨p, .priv, 0, slot, []⟩).map (fun (r : Nat × State) => (some { g with frame := r.1 }, r.2))
        match gr with
        | none => none
        | some (g, s4) =>
          let fb := match s.ctx p o.main with | some c => c.img.fallback | none => 0x3F
          let es : AMap Nat MEntry := o.entries.map (fun (e : OfferEntry) =>
            (e.index, { e.entry with tier := .remote, shared := false, peer := peer }))
          let x : Session := { Session.free with
            gen := (s.ses slot).gen, state := .pulling, op := SesOp.moveIn, part := p, mortar := { m with entries := es },
            pfx := 0xFFFF, nextPos := o.nextPos, log := o.log, logFrames := lf, reqCount := o.reqCount, grammar := g,
            comp := o.comp, main := o.main, fallback := fb, hints := o.hints, hostData := o.hostData, dressed := o.dressed,
            movePeer := peer, moveEpoch := o.epoch, offerLog := o.log.length }
          some { s4.setSes slot x with movesIn := s4.movesIn.set slot ⟨peer, o.handle, o.comp, o.epoch⟩ }

/-- MOVE_OFFER (R199 order 3, R202). The command is the whole chain; its header is that of the last message, with LENGTH by what that message
holds (log entry 71). -/
def doMoveOffer (h : Hdr) (o : Offer) (s : State) : State :=
  s.receive h 8 false (some o.lastBytes) (fun i _ t =>
    let p := h.part
    let refuse (st : Status) : State := t.answerMsg h .bg (.moveAnswer st 0)
    match t.newSlot p with
    | none => refuse .limitSlots
    | some slot =>
      if t.room p o.entries.length 0 == .refused then refuse .quotaLpddr6
      else if t.fld Fld.MEM_PART_QUOTA_REMOTE_1K p * 1024 < t.credits p + o.entries.length then refuse .quotaRemote
      else
        match { t with freeCtr := t.freeCtr + 1 }.buildMoveIn slot i h o with
        | none => refuse .quotaLpddr6
        | some t1 => ((t1.bondOnce p).answerMsg h .bg (.moveAnswer .ok (t1.handleOf slot))).checkMoveIn slot)

/-- The source of a move-in is lost (R603, R204): before epoch E is current the slot is released and the source told; once it is, the
session is FAILED. -/
def State.sourceLost (s : State) (slot : Nat) (reason : Status) : State :=
  match s.movesIn.get? slot with
  | none => s
  | some m =>
    if s.epochReached m.comp m.epoch then s.failSes slot
    else
      let p := (s.ses slot).part
      let s := s.sendAbort m.peer p m.comp m.srcHandle reason
      let s := (s.endReq slot reason)
      let s := { s with movesIn := s.movesIn.erase slot, pulls := s.pulls.filter (fun w => w.slot != slot) }
      ((s.bondOnce p).releaseSes (s.nextBond p) slot).endWaiting slot .stateLostStaleHandle

/-- A pulled tile is installed (R602, R111, R118): private, with SHARED clear; none where no place is free. -/
def State.installPull (s : State) (slot k : Nat) (t : Tile) : Option State :=
  let x := s.ses slot
  match x.mortar.entries.get? k, s.newPlace slot (colOf (s.pairsOf slot) k) with
  | some e, some (tier, frame, loc, s1) =>
    let own : Tile := { t with source := s.handleOf slot, shared := false, prefixId := 0xFFFF }
    let s2 := (s1.putTile loc own).modSes slot (fun y => { y with mortar := { y.mortar with
      entries := y.mortar.entries.set k { e with tier := tier, frame := frame, peer := 0, shared := false } } })
    some ((s2.bondOnce x.part).bump Fld.DRS_REVIVED_COUNT x.part)
  | _, _ => none

/-- Bytes of an answer to a pull (R581, R583): with its frames, with the hint, or the descriptor alone. -/
def answerBytes (status : Status) (tile : Bool) : Nat :=
  if status = 0 ∧ tile then 18480 else if status = .stateLostMoved then 64 else 48

/-- PULL_ANSWER (R199 orders 4 to 7, R734). A tile that finds no place ends the running request with QUOTA/lpddr6 and is pulled again
(log entry 30). -/
def doPullAnswer (h : Hdr) (status : Status) (t : Option PushedTile) (s : State) : State :=
  s.receive h 7 true (some (answerBytes status t.isSome)) (fun i _ a =>
    match a.pulls.find? (fun w => w.tag == h.tag && w.peer == i) with
    | none => a
    | some w =>
      let a := { a with pulls := a.pulls.filter (fun v => v != w) }
      if status ≠ 0 then (if status = .stateLostFailed then a.failSes w.slot else a.sourceLost w.slot .peerPullTimeout)
      else
        match t with
        | none => a
        | some x =>
          match a.installPull w.slot w.entry x.tile with
          | none => a.endReq w.slot .quotaLpddr6
          | some b => b.checkMoveIn w.slot)

/-- PULL_TIMEOUT (R603): sent again, at most three times in all. -/
def doPullTimeout (tag : Nat) (s : State) : State :=
  match s.pulls.find? (fun w => w.tag == tag) with
  | none => s
  | some w =>
    match s.movesIn.get? w.slot with
    | none => s
    | some m =>
      if w.tries < 3 then
        let w' := { w with tries := w.tries + 1 }
        { s with pulls := s.pulls.map (fun v => if v = w then w' else v) }.sendPull w.slot w.entry m w'
      else s.sourceLost w.slot .peerPullTimeout

/-- MOVE_ABORT (R203, R603): at the source the move ends; at the target the source is lost. -/
def doMoveAbort (h : Hdr) (reason : Status) (s : State) : State :=
  s.receive h 8 false (some 40) (fun i _ t =>
    match t.moveOfHandle h i with
    | some (slot, m) => t.abortMove slot m.prior .peerMoveAborted
    | none =>
      if (t.checkHandle (some h.part) h.handle).isSome then t
      else
        match t.movesIn.get? (handleSlot h.handle) with
        | some m => if m.peer = i then t.sourceLost (handleSlot h.handle) reason else t
        | none => t)

end Sys2Proof.Machine
end

