-- ==== Sys2Proof/Machine/Nand.lean ====
section
/-!
DEFINITION. Work of the quarry controller: page programs, reads, erases, the map checkpoint, collection, folding, patrol and
the governor's day (12_quarry.md R404, R408, R416 to R435).
-/

namespace Sys2Proof.Machine

open Sys2Proof

/-- Detects a fault while no other recovery runs (R739): every recovery of an earlier command has ended (log entry 14). -/
def State.record (s : State) (f : ErrIn) : State := ((s.recoveries []).detect f).2

-- Relocation (R423 to R433) -----------------------------------------------------------------------------------------------

/-- The next page of a block that is open in TLC mode, or of the first free block of a LUN (R426): blocks in the given order. -/
def Qry.tlcPage (q : Qry) (bs : List Nat) : Option Nat :=
  match q.blocks.find? (fun kv => kv.2.state == .openTlc) with
  | some kv => some (kv.1 * 2048 + kv.2.next)
  | none => (bs.find? (fun b => q.isNextBlock b)).map (fun b => b * 2048)

/-- The blocks of a device in an order that starts at an open place: the write stream's rotation over LUNs (R426, log entry 8). -/
def Qry.rotation (q : Qry) (start : Nat) : List Nat :=
  let luns := (List.range 1024).filter (fun l => q.geom.has (l * 2 ^ 13))
  ((luns.drop (start % Nat.max 1 luns.length)) ++ luns.take (start % Nat.max 1 luns.length)).flatMap lunBlocks

/-- Moves one live frame to another page (R433 OP 3); the frame stays where no page is left. -/
def State.relocateFrame (s : State) (f : Nat) : State :=
  match s.qry.map.get? f with
  | none => s
  | some e =>
    match s.qry.tlcPage (s.qry.rotation (Config.pick s.freeCtr)) with
    | none => s
    | some ppa =>
      let s := { s with freeCtr := s.freeCtr + 1 }.programPage f ppa false
      let q := { s.qry with map := s.qry.map.set f { e with ppa := ppa, slc := false, marked := false } }
      let q := q.modBlk (ppaBlock e.ppa) (fun b => { b with valid := b.valid - 1 })
      let q := q.modBlk (ppaBlock ppa) (fun b => { b with valid := b.valid + 1 })
      { s with qry := q.log ⟨0, e.owner, .relocate, f, ppa, e.ppa⟩ }

/-- The live frames whose page lies in a block. -/
def Qry.framesIn (q : Qry) (b : Nat) : List Nat := (q.map.filter (fun kv => ppaBlock kv.2.ppa == b)).map (·.1)

/-- Moves every valid page out of a block and starts its erase (R423, R425, R432). -/
def State.emptyBlock (s : State) (b : Nat) : State :=
  let s := (s.qry.framesIn b).foldl (fun (a : State) f => a.relocateFrame f) s
  if (s.qry.framesIn b).isEmpty then
    { s with qry := (s.qry.modBlk b (fun x => { x with state := .erasing })).log ⟨0, 0, .eraseStart, b, 0, 0⟩ }
  else s

/-- Acts on a block whose READS has reached the disturb limit (R432). A read-only quarry moves nothing (R429). -/
def State.checkDisturb (s : State) (b : Nat) : State :=
  let k := s.fld Fld.QRY_WEAR_CFG_DISTURB_K * 1024
  let x := s.qry.blk b
  if s.qry.readOnly || k = 0 || x.reads < k || !(x.state == .closedSlc || x.state == .closedTlc) then s
  else
    let n := (s.qry.framesIn b).length
    (s.emptyBlock b).bump Fld.QRY_RELOCS_COUNT 0 n

/-- Counts a page read and records what it corrected or could not (R408, 22 R730 source 8). -/
def State.pageRead (s : State) (f : Nat) (o : ReadOutcome) (st : Status) (h : Word64) : State :=
  match s.qry.map.get? f with
  | none => s
  | some e =>
    let s1 := (s.qRead f o).checkDisturb (ppaBlock e.ppa)
    match o with
    | .hard => s1
    | .retry k => s1.record { cls := .ce, source := 8, part := some e.owner, location := e.ppa, detail := k }
    | .soft => s1.record { cls := .ce, source := 8, part := some e.owner, location := e.ppa, detail := 8 }
    | .bad => s1.record { cls := .uc, source := 8, part := some e.owner, status := st, location := e.ppa, handle := h }

-- Programs (R416 to R418, R428) ---------------------------------------------------------------------------------------------------

/-- The staged frames of a bond. -/
def Qry.stagedOf (q : Qry) (p id : Nat) : List (Nat × Staged) := q.staged.filter (fun kv => kv.2.owner == p && kv.2.bond == id)

/-- The mirror record of a bond has been programmed: the bond commits (R416, R446). -/
def State.programmed (s : State) (b : Bond) : State :=
  let fs := (s.qry.stagedOf b.part b.id).map (·.1)
  match b.kind with
  | .coldPark => s.parkDone b.slot b
  | .persist => s.persistDone b
  | .shard => s.shardDone b fs
  | .manifest => s.manifestDone b fs
  | _ => s

/-- A bond that can program no further page aborts (R428, R429): its park or checkpoint ends with MEDIA/quarry-write. -/
def State.noBlock (s : State) (b : Bond) : State :=
  match b.kind with
  | .coldPark => s.abortPark b.slot .mediaQuarryWrite
  | .shard => s.ckpFail b.part b.arg .mediaQuarryWrite
  | .manifest => s.ckpFail b.part b.arg .mediaQuarryWrite
  | _ => s.abortQuarry b.part b.id

/-- The bonds whose pages are not all programmed. -/
def State.programming (s : State) : List Bond :=
  s.bonds.filter (fun b => (s.qry.stagedOf b.part b.id).any (fun kv => kv.2.ppa.isNone))

/-- A program failure (R428): the block retires; its staged pages are programmed again, its live ones move. -/
def State.programFails (s : State) (b : Bond) (ppa : Nat) : State :=
  let blk := ppaBlock ppa
  let again (x : Staged) : Staged := match x.ppa with
    | some q => if ppaBlock q = blk then { x with ppa := none } else x
    | none => x
  let s := (s.qRetire blk).bump Fld.QRY_PROG_FAILS_COUNT
  let s := { s with qry := { s.qry with staged := s.qry.staged.map (fun (kv : Nat × Staged) => (kv.1, again kv.2)) } }
  let s := (s.qry.framesIn blk).foldl (fun (a : State) f => a.relocateFrame f) s
  if s.qry.freeBlocks = 0 || s.qry.readOnly then
    let s1 := s.record { cls := .uc, source := 9, part := some b.part, status := .mediaQuarryWrite, location := ppa }
    if s.qry.readOnly then s1.programming.foldl (fun (a : State) x => a.noBlock x) s1 else s1.noBlock b
  else s.record { cls := .ce, source := 9, part := some b.part, location := ppa }

/-- Whether a bond's mirror record is ready: every page that it stages has been programmed (R416 steps 1 and 2). -/
def State.mirrorReady (s : State) (b : Bond) : Bool := b.quarry && (s.qry.stagedOf b.part b.id).all (fun kv => kv.2.ppa.isSome)

/-- The bonds whose mirror records go into one page with that of a bond: it and up to three others that are ready (R453), in the order in
which they opened (DESIGN CHOICE, log entry 69). -/
def State.mirrorPack (s : State) (b : Bond) : List Bond :=
  b :: (s.bonds.filter (fun x => !(x.part == b.part && x.id == b.id) && s.mirrorReady x)).take 3

/-- A bond of a programmed mirror page: the wordline sets that its pages share are padded, and it commits (R416, R418). -/
def State.mirrored (s : State) (b : Bond) : State :=
  match s.bondOf b.part b.id with
  | none => s
  | some y =>
    let ppas := (s.qry.stagedOf y.part y.id).filterMap (fun kv => kv.2.ppa)
    (ppas.foldl (fun (a : State) p => a.padSet p) s).programmed y

/-- A mirror page (R416 step 3, R428, R453): every bond in it commits when its program passes; a failure retires its block, and the page
is programmed again. -/
def State.mirrorPage (s : State) (b : Bond) (ppa : Nat) (pass : Bool) : State :=
  if pass then (s.mirrorPack b).foldl (fun (a : State) x => a.mirrored x) (s.otherPages 1)
  else
    let s1 := ((s.qRetire (ppaBlock ppa)).bump Fld.QRY_PROG_FAILS_COUNT).record { cls := .ce, source := 9, part := some b.part, location := ppa }
    if s1.qry.readOnly then s1.programming.foldl (fun (a : State) x => a.noBlock x) s1 else s1

/-- Whether a LUN collects ahead of park programs: its free blocks are below half of the threshold (R425). -/
def State.collectsFirst (s : State) (lun : Nat) : Bool :=
  decide (s.qry.freeInLun lun * 2000 < s.qry.goodInLun lun * s.fld Fld.QRY_CFG_GC_LOW_PERMIL)
    && s.qry.blocks.any (fun kv => blockLun kv.1 == lun && kv.2.state == .closedTlc)

/-- NAND_PROGRAM_DONE (R416, R428, R453): the next unprogrammed frame that a bond has staged, on a page that R406 and R426 allow; or, once every
page of the bond has passed, the page of its mirror record, which a read-only quarry programs too (R429). -/
def doNandProgramDone (part id ppa : Nat) (pass : Bool) (s : State) : State :=
  match s.bondOf part id with
  | none => s
  | some b =>
    if !s.qry.mounted then s
    else
      match (s.qry.stagedOf part id).find? (fun kv => kv.2.ppa.isNone) with
      | none => if b.quarry then s.mirrorPage b ppa pass else s
      | some (f, x) =>
        if s.qry.readOnly || !s.qry.mayProgram ppa || (b.kind == .coldPark && s.collectsFirst (blockLun (ppaBlock ppa))) then s
        else if !pass then s.programFails b ppa
        else
          let s1 := s.programPage f ppa s.qry.opensSlc
          { s1 with qry := { s1.qry with staged := s1.qry.staged.set f { x with ppa := some ppa } } }

-- Reads and erases -----------------------------------------------------------------------------------------------------------------

/-- NAND_READ_DONE (R408): a page that a revive or a move's staging waits for. A page whose key is gone gives no data (R411, R630). -/
def doNandReadDone (frame : Nat) (o : ReadOutcome) (s : State) : State :=
  match s.reviveOf frame with
  | some slot => ((s.pageRead frame o .stateLostFailed (s.handleOf slot)).reviveRead slot frame (o == .bad || s.shut frame)).tryCommit slot
  | none =>
    match s.fillOf frame with
    | some (slot, k) => (s.pageRead frame o .stateLostFailed (s.handleOf slot)).fillRead slot k (o == .bad || s.shut frame)
    | none => s

/-- NAND_ERASE_DONE (R420 order 6, R427): a block that is being erased is free, or retires. A retirement that makes the quarry
read-only ends the bonds that still have pages to program (R429). -/
def doNandEraseDone (block : Nat) (pass : Bool) (s : State) : State :=
  let x := s.qry.blk block
  if x.state != .erasing then s
  else if pass then
    let q := s.qry.modBlk block (fun y =>
      { y with state := .free, erases := Nat.min 65535 (y.erases + 1), valid := 0, reads := 0, next := 0 })
    let q := { q with pages := q.pages.filter (fun kv => ppaBlock kv.1 != block), metas := q.metas.filter (fun kv => ppaBlock kv.1 != block) }
    { s with qry := q.log ⟨0, 0, .eraseDone, block, 0, 0⟩ }.count (PmcEv.ofDevice 0x42 1)
  else
    let s1 := (s.qRetire block).record { cls := .ce, source := 9, part := none, location := block * 2048 }
    if s1.qry.readOnly then s1.programming.foldl (fun (a : State) b => a.noBlock b) s1 else s1

/-- NAND_STATUS_TIMEOUT (R404): a failure of the operation's kind. -/
def doNandStatusTimeout (op : NandOp) (part id where_ : Nat) (s : State) : State :=
  match op with
  | .program => doNandProgramDone part id where_ false s
  | .read => doNandReadDone where_ .bad s
  | .erase => doNandEraseDone where_ false s

-- Housekeeping (R419 to R432) ---------------------------------------------------------------------------------------------------------

/-- Writes back every dirty map page (R419). -/
def Qry.writeBackAll (q : Qry) : Qry := q.dirty.foldl (fun (a : Qry) k => a.writeBack k) q

/-- MAP_CHECKPOINT (R419): every dirty map page is written back, and the journal starts again behind a new root record. -/
def doMapCheckpoint (s : State) : State :=
  if s.qry.mounted then
    let q := s.qry.writeBackAll
    { s with qry := { q with journal := [], root := q.root + 1, seq := q.seq + 1 } }
  else s

/-- Orders closed blocks for collection: fewest valid pages, then lower ERASES, then lower PPA (R425). -/
def victimBefore (a b : Nat × Blk) : Bool :=
  if a.2.valid != b.2.valid then decide (a.2.valid < b.2.valid)
  else if a.2.erases != b.2.erases then decide (a.2.erases < b.2.erases) else decide (a.1 < b.1)

/-- QUARRY_COLLECTION (R425): the LUN's free blocks are below the threshold. -/
def doQuarryCollection (lun : Nat) (s : State) : State :=
  if !s.qry.mounted || s.qry.readOnly
      || s.qry.goodInLun lun * s.fld Fld.QRY_CFG_GC_LOW_PERMIL ≤ s.qry.freeInLun lun * 1000 then s
  else
    match leastBy victimBefore (s.qry.blocks.filter (fun kv => blockLun kv.1 == lun && kv.2.state == .closedTlc)) with
    | none => s
    | some v => s.emptyBlock v.1

/-- Free pages of the SLC cache: of its open blocks, and of the blocks its share still leaves (R421, R423). -/
def Qry.slcFree (q : Qry) : Nat :=
  q.blocks.foldl (fun a kv => if kv.2.state == .openSlc then a + (q.benchPages true - kv.2.next) else a) 0
    + (q.slcLimit - q.slcBlocks) * q.benchPages true

/-- QUARRY_FOLDING (R423): the closed SLC block with the fewest valid pages is folded. The age of a block is the event's own
condition. -/
def doQuarryFolding (s : State) : State :=
  let q := s.qry
  if !q.mounted || q.readOnly then s
  else if q.slcFree * 4 < q.slcLimit * q.benchPages true || q.slcLimit < q.slcBlocks || s.fld Fld.QRY_CFG_FOLD_AGE_H != 0 then
    match leastBy victimBefore (q.blocks.filter (fun kv => kv.2.state == .closedSlc)) with
    | none => s
    | some v => s.emptyBlock v.1
  else s

/-- QUARRY_PATROL (R431, R434): a live page is read; a marked one moves, except in a read-only quarry. -/
def doQuarryPatrol (frame : Nat) (o : ReadOutcome) (s : State) : State :=
  if !s.qry.mounted || !(s.qry.map.has frame) then s
  else
    let s1 := s.pageRead frame o .mediaQuarryRead 0
    match s1.qry.map.get? frame with
    | none => s1
    | some e =>
      if e.marked && !e.bad && !s1.qry.readOnly then (s1.relocateFrame frame).bump Fld.QRY_RELOCS_COUNT else s1

-- The governor (R435) -----------------------------------------------------------------------------------------------------------------------

/-- Good raw bytes of the device (R435). -/
def Qry.goodBytes (q : Qry) : Nat := q.goodCount * q.geom.pages * 16384

/-- WEIGHT of a partition where it has quarry quota (R435). -/
def State.govWeight (s : State) (p : Nat) : Nat :=
  if s.fld Fld.MEM_PART_QUOTA_QRY_64K p = 0 then 0 else s.fld Fld.QRY_GOV_WEIGHT p

/-- Forms the budgets of a day from WA as num / den (R435). -/
def State.govBudgets (s : State) (num den : Nat) : State :=
  let life := s.fld Fld.QRY_WEAR_CFG_LIFE_DAYS
  let dev := if life * num = 0 then 0 else s.fld Fld.QRY_WEAR_CFG_PE_RATED * s.qry.goodBytes * den / (life * num)
  let sum := (allParts.map (fun p => s.govWeight p)).sum
  let b := allParts.map (fun p => (p, if sum = 0 then 0 else dev * s.govWeight p / sum))
  { s with qry := { s.qry with used := [], budget := b, nandBytes := 0, logBytes := 0, waNum := num, waDen := den } }

/-- GOVERNOR_DAY_BOUNDARY (R435). WA of a day that programmed no logical bytes is not stated: a free value of at least 1 (log
entry 33). -/
def doGovernorDayBoundary (s : State) : State :=
  if !s.qry.mounted then s
  else if s.qry.logBytes = 0 then
    { s with freeCtr := s.freeCtr + 1 }.govBudgets (Config.freeValue 1 s.freeCtr + 1) 1
  else if s.qry.nandBytes ≤ s.qry.logBytes then s.govBudgets 1 1
  else s.govBudgets s.qry.nandBytes s.qry.logBytes

/-- BOND_STAGED (R445): the last staging write of a warm park's bond. Every other bond without quarry pages commits within the
command that stages its last action. -/
def doBondStaged (part id : Nat) (s : State) : State :=
  match s.bondOf part id with
  | some b => if b.kind = .warmPark then s.warmStaged b.slot b else s
  | none => s

end Sys2Proof.Machine
end

