-- ==== Sys2Proof/Machine/Restore.lean ====
section
/-!
DEFINITION. Restores: the checks of a manifest, coverage, and placing what is restored (15_checkpoint_and_restore.md R519 to
R527). The reads and installs of a restore run within its command (log entry 32).
-/

namespace Sys2Proof.Machine

open Sys2Proof

/-- What a restore reads shards with: its operands, the target partition and the manifest. -/
structure Reading where
  ask  : CkpRestoreAsk
  part : Nat
  man  : Manifest
  deriving DecidableEq, Repr

/-- The reason for which a shard cannot be used (R521, R523 reasons 6 and 7); 0 for none. -/
def State.shardBad (s : State) (r : Reading) (sh : Shard) : Nat :=
  if r.ask.host then (if r.ask.table.contains sh then 0 else 6)
  else
    match (s.ckp.index.getD r.part []).find? (fun x => x.shard == sh) with
    | none => 6
    | some x =>
      if x.bad || x.frames.any (fun f => s.unreadable f) then 7 else 0

/-- The index of a shard in the manifest. -/
def Reading.indexOf (r : Reading) (sh : Shard) : Nat := r.man.shards.findIdx (fun x => x == sh)

/-- The shards of an object (R506). -/
def Reading.shardsOf (r : Reading) (o : ShardObj) : List Shard := r.man.shards.filter (fun sh => sh.object == o)

/-- The first shard of a list that cannot be used, with its reason. -/
def State.firstBad (s : State) (r : Reading) (l : List Shard) : Option (Nat × Shard) :=
  match l with
  | [] => none
  | sh :: rest => if s.shardBad r sh = 0 then s.firstBad r rest else some (s.shardBad r sh, sh)

/-- A failed object's result (R523). -/
def RestoreRes.fail (reason index : Nat) (st : Status := 0) : RestoreRes := ⟨reason, BitVec.ofNat 64 index, st⟩

/-- Checks the shards of an object (R521): the failing ones count, and the object fails. -/
def State.readObj (s : State) (r : Reading) (l : List Shard) : Option RestoreRes × State :=
  let n := (l.filter (fun sh => s.shardBad r sh == 6)).length
  let s1 := s.bump Fld.CKP_DIGEST_FAILS_COUNT r.part n
  match s.firstBad r l with
  | some (reason, sh) => (some (RestoreRes.fail reason (r.indexOf sh)), s1)
  | none => (none, s1)

/-- A position as a tile holds it. -/
def CPos.tpos (x : CPos) (mass : Word16) : TPos := ⟨x.key, x.value, x.kscales, x.vscales, mass, x.pos, x.merged, x.mcount⟩

/-- Content shards of one pair by first column. -/
def pairShards (l : List Shard) (kind layer head : Nat) : List Shard :=
  sortBy (fun (a b : Shard) => decide (a.first < b.first))
    (l.filter (fun sh => sh.kind == kind && sh.layer == layer && sh.head == head))

/-- Columns in the order of content shards. -/
def shardCols (l : List Shard) : List (List CPos) :=
  l.flatMap (fun sh => match sh.body with | .content cols => cols | _ => [])

/-- Where contiguous columns from a first one end; none at a gap or an overlap (R522). -/
def colsEnd (at_ : Nat) (l : List Shard) : Option Nat :=
  match l with
  | [] => some at_
  | sh :: r => if sh.first = at_ then colsEnd (at_ + sh.count) r else none

/-- Allocates a tile frame for each tile and puts it there. -/
def State.placeTiles (s : State) (p : Nat) (f : Frame) (ts : List (Nat × Tile)) (m : AMap Nat MEntry) :
    Option (AMap Nat MEntry × State) :=
  match ts with
  | [] => some (m, s)
  | (k, t) :: r =>
    match s.allocTile p f with
    | none => none
    | some (n, s1) =>
      let e : MEntry := { tier := .lpddr, fmt8 := t.geom.fmt8, dressed := t.dressed, shared := t.shared, fill := t.fill,
                          peer := 0, frame := n }
      (s1.putTile (.frame n) t).placeTiles p f r (m.set k e)

-- Prefixes (R520 order 4) -------------------------------------------------------------------------------------------------------

/-- Registers a prefix from its shards; none where a frame is lacking (R108). -/
def State.buildPfx (s : State) (p id main tokens full : Nat) (log : List LogEntry) (c : CtxImage) (l : List Shard) :
    Option State :=
  let pairs := c.pairs
  let tiles := (List.range pairs).flatMap (fun j =>
    let cols := shardCols (pairShards l 4 (j / c.heads) (j % c.heads))
    ((List.range cols.length).zip cols).filterMap (fun (tc : Nat × List CPos) =>
      if tc.2.isEmpty then none
      else some (tc.1 * pairs + j,
        ({ source := 0, layer := j / c.heads, head := j % c.heads, geom := c.geom, dressed := false, shared := true,
           prefixId := id, massEpoch := 0, positions := tc.2.map (fun (x : CPos) => x.tpos 0) } : Tile))))
  match (s.regPage p id).bind (fun s0 => s0.allocMor p ⟨p, .priv, 0, 0, []⟩) with
  | none => none
  | some (root, s1) =>
    match s1.growMortar p 0 (Mortar.empty root) (tiles.map (·.1)) with
    | none => none
    | some (m, s2) =>
      match s2.allocMors p ⟨p, .priv, 0, 0, []⟩ (logFramesFor log.length) with
      | none => none
      | some (lf, s3) =>
        match s3.placeTiles p ⟨p, .shared, 0, id, []⟩ tiles [] with
        | none => none
        | some (es, s4) =>
          let pre : Prefix := ⟨main, tokens, full, 0, { m with entries := es }, log, lf, s.nextSeq⟩
          some { s4 with prefixes := s4.prefixes.set (p, id) pre, freeCtr := s4.freeCtr + 1 }

/-- Restores one prefix (R520 order 4, R522): its new PREFIX_ID, or why it failed. -/
def State.restorePfx (s : State) (r : Reading) (log : List LogEntry) : RestoreRes × Option Nat × State :=
  let p := r.part
  let l := r.shardsOf (.pfx log)
  match l.findSome? (fun sh => match sh.body with | .pfx m t f _ => some (m, t, f) | _ => none) with
  | none => (RestoreRes.fail 1 0, none, s)
  | some (main, tokens, full) =>
    match s.ctx p main with
    | none => (RestoreRes.fail 8 0 .configContextKind, none, s)
    | some c =>
      let pairs := c.img.pairs
      if !s.mainCtx p main then (RestoreRes.fail 8 0 .configContextKind, none, s)
      else if (List.range pairs).any (fun j => (pairShards l 4 (j / c.img.heads) (j % c.img.heads)).length != 1) then
        (RestoreRes.fail 2 0, none, s)
      else
        match s.readObj r l with
        | (some x, s1) => (x, none, s1)
        | (none, s1) =>
          if l.any (fun sh => sh.kind == 4 && sh.geom != some c.img.geom) then
            (RestoreRes.fail 8 0 .configTileGeometry, none, s1)
          else
            match s1.freePfx p with
            | none => (RestoreRes.fail 8 0 .limitPrefixes, none, s1)
            | some id =>
              match s1.buildPfx p id main tokens full log c.img l with
              | none => (RestoreRes.fail 8 0 .quotaLpddr6, none, s1)
              | some s2 => (⟨0, BitVec.ofNat 64 id, .ok⟩, some id, s2.bondOnce p)

/-- Restores the prefixes of a manifest; answers results, newest last, and the IDs by log. -/
def State.restorePfxs (s : State) (r : Reading) (ls : List (List LogEntry)) :
    List RestoreRes × List (List LogEntry × Nat) × State :=
  match ls with
  | [] => ([], [], s)
  | log :: rest =>
    let a := s.restorePfx r log
    let b := a.2.2.restorePfxs r rest
    (a.1 :: b.1, (match a.2.1 with | some id => (log, id) :: b.2.1 | none => b.2.1), b.2.2)

-- Sessions (R524, R525) -------------------------------------------------------------------------------------------------------------

/-- Masses of a pair's private positions as the mass shards give them, zero where absent (R522). -/
def massesOf (l : List Shard) (layer head n : Nat) : List Word16 :=
  let ms := match l.find? (fun sh => sh.kind == 2 && sh.layer == layer) with
    | some sh => match sh.body with
      | .mass ms => (ms[head]?).getD []
      | _ => []
    | none => []
  if ms.length = n then ms else List.replicate n 0

/-- The private tiles of a restored session: positions packed P to a tile (R525). -/
def restoreTiles (h : Word64) (c : CtxImage) (m : SesMeta) (l : List Shard) : List (Nat × Tile) :=
  let pairs := c.pairs
  (List.range pairs).flatMap (fun j =>
    let xs := (shardCols (pairShards l 1 (j / c.heads) (j % c.heads))).flatten
    let ms := massesOf l (j / c.heads) (j % c.heads) xs.length
    let ts := chunks c.geom.p ((xs.zip ms).map (fun (y : CPos × Word16) => y.1.tpos y.2))
    ((List.range ts.length).zip ts).map (fun (it : Nat × List TPos) =>
      ((m.pfxTiles + it.1) * pairs + j,
        ({ source := h, layer := j / c.heads, head := j % c.heads, geom := c.geom, dressed := m.dressed, shared := false,
           prefixId := 0xFFFF, massEpoch := m.reqCount, positions := it.2 } : Tile))))

/-- Builds a restored session in a slot; none where a frame is lacking. -/
def State.buildRestored (s : State) (p slot : Nat) (c : CtxImage) (m : SesMeta) (pfx : Option Nat) (l : List Shard) :
    Option State :=
  let gen := (s.ses slot).gen
  let h := mkHandle p slot gen
  let shared := match pfx with
    | some id => match s.prefixes.get? (p, id) with
      | some r => r.mortar.entries.filter (fun kv => decide (colOf c.pairs kv.1 < m.pfxTiles))
      | none => []
    | none => []
  let tiles := restoreTiles h c m l
  match s.allocMor p ⟨p, .priv, 0, slot, []⟩ with
  | none => none
  | some (root, s1) =>
    match s1.growMortar p slot (Mortar.empty root) (shared.map (·.1) ++ tiles.map (·.1)) with
    | none => none
    | some (mor, s2) =>
      match s2.takeEntries p slot shared [] with
      | none => none
      | some (es, s3) =>
        match s3.placeTiles p ⟨p, .priv, 0, slot, []⟩ tiles es with
        | none => none
        | some (all, s4) =>
          match s4.allocMors p ⟨p, .priv, 0, slot, []⟩ (logFramesFor m.log.length + (if m.grammar.isSome then 1 else 0)) with
          | none => none
          | some (fs, s5) =>
            let lf := fs.take (logFramesFor m.log.length)
            let gram := m.grammar.map (fun g => { g with frame := (fs.getLast?).getD 0 })
            let x : Session := { Session.free with
              gen := gen, state := .waiting, part := p, mortar := { mor with entries := all }, pfx := pfx.getD 0xFFFF,
              pfxTiles := m.pfxTiles, nextPos := m.nextPos, log := m.log, logFrames := lf, reqCount := m.reqCount,
              grammar := gram, main := m.main, fallback := m.fallback, hints := m.hints, hostData := m.hostData,
              dressed := m.dressed,
              pfxSeq := match pfx.bind (fun id => s5.prefixes.get? (p, id)) with | some r => r.seq | none => 0 }
            let s6 := match pfx with
              | some id => { s5 with prefixes := s5.prefixes.modify (p, id) (fun r => { r with users := r.users + 1 }) }
              | none => s5
            some (s6.setSes slot x)

/-- The slot a session is restored into (R524), with what stood there released, and whether there is one. -/
def State.restoreSlot (s : State) (p : Nat) (inPlace : Bool) (h : Word64) : Option (Nat × State) :=
  let k := handleSlot h
  let x := s.ses k
  if inPlace && handlePart h == p && s.inRange p k && x.state == .failed && x.gen == handleGen h then
    let id := s.nextBond p
    let s1 := s.releaseSes id k
    some (k, s1.setSes k { Session.free with gen := x.gen, part := p })
  else
    match s.newSlot p with
    | none => none
    | some n => some (n, { s with freeCtr := s.freeCtr + 1 })

/-- The fault that coverage of a session's entries shows (R522, R523): 0 for none. -/
def coverage (c : CtxImage) (m : SesMeta) (l : List Shard) : Nat :=
  let ends := (List.range c.pairs).map (fun j => colsEnd m.pfxTiles (pairShards l 1 (j / c.heads) (j % c.heads)))
  let full := Nat.max m.pfxTiles (ceilDiv m.nextPos c.geom.p)
  if ends.any (fun e => e.isNone) then 2
  else if !m.dressed && ends.any (fun e => e != some full) then 2 else 0

/-- Restores one session (R520 order 5, R524, R525). -/
def State.restoreSes (s : State) (r : Reading) (inPlace : Bool) (ids : List (List LogEntry × Nat)) (e : ManSes) :
    RestoreRes × State :=
  let p := r.part
  let l := r.shardsOf (.session e.handle)
  match l.findSome? (fun sh => match sh.body with | .ses m => some m | _ => none) with
  | none => (RestoreRes.fail 1 0, s)
  | some m =>
    match s.ctx p m.main with
    | none => (RestoreRes.fail 8 0 .configContextKind, s)
    | some c =>
      let pfx := match m.pfxLog with | some log => (ids.find? (fun x => x.1 == log)).map (·.2) | none => none
      if !s.mainCtx p m.main then (RestoreRes.fail 8 0 .configContextKind, s)
      else if coverage c.img m l != 0 then (RestoreRes.fail 2 0, s)
      else if m.pfxLog.isSome && pfx.isNone then (RestoreRes.fail 3 0, s)
      else
        match s.readObj r l with
        | (some x, s1) => (x, s1)
        | (none, s1) =>
          if l.any (fun sh => sh.kind == 1 && sh.geom != some c.img.geom) then
            (RestoreRes.fail 8 0 .configTileGeometry, s1)
          else
            match s1.restoreSlot p inPlace e.handle with
            | none => (RestoreRes.fail 8 0 .limitSlots, s1)
            | some (slot, s2) =>
              match s2.buildRestored p slot c.img m pfx l with
              | none => (RestoreRes.fail 8 0 .quotaLpddr6, s1)
              | some s3 =>
                let s4 := (s3.bondOnce p).touch slot
                (⟨0, s4.handleOf slot, .ok⟩, s4.persist slot)

/-- Restores sessions in the manifest's order. -/
def State.restoreSess (s : State) (r : Reading) (inPlace : Bool) (ids : List (List LogEntry × Nat)) (es : List ManSes) :
    List RestoreRes × State :=
  match es with
  | [] => ([], s)
  | e :: rest =>
    let a := s.restoreSes r inPlace ids e
    let b := a.2.restoreSess r inPlace ids rest
    (a.1 :: b.1, b.2)

-- Weight sets and collections (R526, R527) ---------------------------------------------------------------------------------------------

/-- Writes weight blocks into a context region at the places of its weight table. -/
def writeWeights (ws : List (Nat × Nat)) (ram : Memory) (l : List Shard) : Memory :=
  l.foldl (fun (m : Memory) sh =>
    match sh.body with
    | .weight bs => Memory.writes 0 m (nthD ws sh.first (0, 0)).1 (bs.take (nthD ws sh.first (0, 0)).2)
    | _ => m) ram

/-- Restores one weight set (R526). -/
def State.restoreWeights (s : State) (r : Reading) (key : Word64) : RestoreRes × State :=
  let p := r.part
  let l := r.shardsOf (.image key)
  match s.ctxs.find? (fun kc => kc.1.1 == p && (kc.2.img.sources.contains key || kc.2.imageKey == key)) with
  | none => (RestoreRes.fail 8 0 .configCkpScope, s)
  | some kc =>
    let n := kc.2.img.weights.length
    if (List.range n).any (fun i => !(l.any (fun sh => sh.first == i))) then (RestoreRes.fail 4 0, s)
    else
      match s.readObj r l with
      | (some x, s1) => (x, s1)
      | (none, s1) =>
        let ram := writeWeights kc.2.img.weights ((s1.ram.get? kc.1).getD []) l
        let s2 := { s1 with ram := s1.ram.set kc.1 ram }
        (⟨0, BitVec.ofNat 64 kc.1.2, .ok⟩,
          (s2.modCtx p kc.1.2 (fun x => { x with blocks := List.range n })).bondOnce p)

/-- Restores the weight sets of a manifest. -/
def State.restoreSets (s : State) (r : Reading) (ks : List Word64) : List RestoreRes × State :=
  match ks with
  | [] => ([], s)
  | k :: rest =>
    let a := s.restoreWeights r k
    let b := a.2.restoreSets r rest
    (a.1 :: b.1, b.2)

/-- Rows of one array of a collection, in node order. -/
def collRows (l : List Shard) (array : Nat) : List (List Nat) :=
  (sortBy (fun (a b : Shard) => decide (a.first < b.first)) (l.filter (fun sh => sh.layer == array))).flatMap (fun sh =>
    match sh.body with
    | .coll _ _ _ _ _ _ rows => rows
    | _ => [])

/-- A collection from its blocks (R474, R527): nodes tombstoned after the read are live. -/
def collFrom (p : Nat) (l : List Shard) (g : CollGeom) (ctx graph tomb : Nat) (entry : Option Nat) (n off : Nat) : Coll :=
  let row (a i : Nat) : List Nat := nthD (collRows l a) i []
  let node (i : Nat) : Node :=
    let v := row 2 i
    let d := nthD (row 3 i) 1 0
    { sketch := nthD (row 0 i) 0 0, vec := v.dropLast, scale := BitVec.ofNat 32 ((v.getLast?).getD 0), adj := row 1 i,
      item := nthD (row 3 i) 0 0, del := if d ≤ tomb then d else 0 }
  let items := (List.range n).filterMap (fun i => match row 4 i with | [a, b] => some (a, b) | _ => none)
  { part := p, ctx := ctx, geom := g, entry := entry, graphLen := graph, tombEpoch := tomb,
    nodes := (List.range n).map node, items := items.foldl (fun (m : AMap Nat Nat) kv => m.set kv.1 kv.2) [],
    extOff := off, extSize := g.extent, dropping := false, closed := false, asked := false, sweep := false, held := 0 }

/-- Restores one collection (R522, R527). -/
def State.restoreColl (s : State) (r : Reading) (n : Nat) : RestoreRes × State :=
  let p := r.part
  let l := r.shardsOf (.coll n)
  match l.findSome? (fun sh => match sh.body with
      | .coll g c gl sl te en _ => if sh.layer = 0 ∧ sh.first = 0 then some (g, c, gl, sl, te, en) else none
      | _ => none) with
  | none => (RestoreRes.fail 5 0, s)
  | some (g, c, gl, sl, te, en) =>
    let nodes := gl + sl
    if (List.range 5).any (fun a => (List.range (ceilDiv nodes 4096)).any (fun b =>
        !(l.any (fun sh => sh.layer == a && sh.first == 4096 * b && sh.count == Nat.min 4096 (nodes - 4096 * b))))) then
      (RestoreRes.fail 5 0, s)
    else
      match s.readObj r l with
      | (some x, s1) => (x, s1)
      | (none, s1) =>
        match s1.ctx p c with
        | none => (RestoreRes.fail 8 0 .configContextKind, s1)
        | some x =>
          if x.img.kind != .search then (RestoreRes.fail 8 0 .configContextKind, s1)
          else
            match s1.freeColl, firstFit g.extent x.img.arena 0 (s1.extents p c) with
            | none, _ => (RestoreRes.fail 8 0 .limitCollections, s1)
            | _, none => (RestoreRes.fail 8 0 .quotaSearchArena, s1)
            | some k, some off =>
              (⟨0, BitVec.ofNat 64 k, .ok⟩,
                { s1 with colls := s1.colls.set k (collFrom p l g c gl te en nodes off) }.bondOnce p)

/-- Restores the collections of a manifest. -/
def State.restoreColls (s : State) (r : Reading) (ks : List Nat) : List RestoreRes × State :=
  match ks with
  | [] => ([], s)
  | k :: rest =>
    let a := s.restoreColl r k
    let b := a.2.restoreColls r rest
    (a.1 :: b.1, b.2)

-- The command ------------------------------------------------------------------------------------------------------------------------------

/-- The manifest that a restore reads, or its refusal (R519, R520 order 1). -/
def State.restoreMan (s : State) (p : Nat) (a : CkpRestoreAsk) : Except Status Manifest :=
  if a.host then
    match a.man with
    | none => .error .configCkpManifest
    | some m => if a.sigOk then .ok m else .error .securityCkpSignature
  else if !s.qry.mounted then .error .mediaQuarryDown
  else
    match (s.ckp.mans.getD (p, a.series) []).find? (fun m => a.step == 0 || m.1.step == a.step) with
    | some m => .ok m.1
    | none => .error .configCkpUnknown

/-- CKP_RESTORE (R519 to R527). -/
def doCkpRestore (u : Sub) (a : CkpRestoreAsk) (s : State) : State :=
  let p := s.subPart u
  match s.restoreMan p a with
  | .error st => s.complete u st
  | .ok m =>
    if !s.ckpKey p then s.complete u .securityCkpKey
    else
      let r : Reading := ⟨a, p, m⟩
      let px := s.restorePfxs r m.prefixes
      let se := px.2.2.restoreSess r u.flags.inPlace px.2.1 m.sessions
      let keys := (m.shards.filterMap (fun sh => match sh.object with | .image k => some k | _ => none)).eraseDups
      let we := se.2.restoreSets r keys
      let cs := (m.shards.filterMap (fun sh => match sh.object with | .coll c => some c | _ => none)).eraseDups
      let co := we.2.restoreColls r cs
      let all := se.1 ++ px.1 ++ we.1 ++ co.1
      let failed := (all.filter (fun x => x.reason != 0)).length
      let st := if failed = 0 then Status.ok else .stateLostCkpCoverage
      ((co.2).buf u.fn (.restored all)).complete u st (all.length - failed + 2 ^ 32 * failed)

end Sys2Proof.Machine
end

