-- ==== Sys2Proof/Machine/Schedule.lean ====
section
/-!
DEFINITION. The choice of a core's next context (10_scheduling_and_deadlines.md R338 to R341).
-/

namespace Sys2Proof.Machine

open Sys2Proof

-- The choice of a context (R338 to R341) ----------------------------------------------------------------------------------

/-- Contexts with a dispatch on a core: queued, or begun and switched out. -/
def Core.wanted (c : Core) : List Nat := c.paused.map (fun r => r.d.ctx) ++ c.queue.map (fun d => d.ctx)

/-- The first context of a list after the last one run, in ascending number, wrapping (R338). -/
def nextAfter (last : Nat) (cs : List Nat) : Option Nat :=
  let asc := sortBy (fun (a b : Nat) => decide (a < b)) cs
  match asc.find? (fun c => decide (last < c)) with
  | some c => some c
  | none => asc.head?

/-- Whether a choice must go to best-effort or background work (R340): one more latency-critical choice would leave fewer than
BE_FLOOR of 16. -/
def floorBinds (choices : List Bool) (floor : Nat) : Bool :=
  let w := choices.take 15
  decide ((w.filter (fun b => b)).length + (15 - w.length) < floor)

/-- Takes a context's program onto a core: one that was switched out resumes, else its oldest dispatch begins. -/
def Core.take (c : Core) (ctx : Nat) : Core :=
  match c.paused.find? (fun r => r.d.ctx == ctx) with
  | some r => { c with running := some r, paused := c.paused.filter (fun x => x != r) }
  | none =>
    match c.queue.find? (fun d => d.ctx == ctx) with
    | some d => { c with running := some ⟨d, none, 0, 0⟩, queue := c.queue.erase d }
    | none => c

/-- Counts a context switch of a partition's core. -/
def State.countSwitch (s : State) (p ctx : Nat) : State := s.count (.ofPart 0x06 1 p (s.ctxClass p ctx))

/-- Gives a core to a context. -/
def State.giveCore (s : State) (e p ctx : Nat) : State :=
  let s1 := s.modCore e (fun c =>
    let c := c.take ctx
    let c := { c with ran := if c.ran.contains (p, ctx) then c.ran else (p, ctx) :: c.ran }
    if s.ctxClass p ctx = .lc then { c with lastLc := ctx } else { c with lastBe := ctx })
  s1.countSwitch p ctx

/-- Chooses what an idle core runs next (R338, R340). -/
def State.chooseNext (s : State) (e : Nat) : State :=
  match s.cores.get? e with
  | none => s
  | some c =>
    match c.owner, c.running, c.stopping || c.clearing with
    | some p, none, false =>
      let isLc (x : Nat) : Bool := s.ctxClass p x == .lc
      let lcs := c.wanted.filter isLc
      let bes := c.wanted.filter (fun x => !isLc x)
      let toBe := lcs.isEmpty || (!bes.isEmpty && floorBinds c.choices (s.fld Fld.SCH_CFG_BE_FLOOR p))
      let pick := if toBe then nextAfter c.lastBe bes else nextAfter c.lastLc lcs
      match pick with
      | none => s
      | some x =>
        let s1 := if bes.isEmpty then s else s.modCore e (fun y => { y with choices := (toBe :: y.choices).take 16 })
        s1.giveCore e p x
    | _, _, _ => s

end Sys2Proof.Machine
end

