-- ==== Sys2Proof/Machine/Faults.lean ====
section
/-!
DEFINITION. What a fault ends: fault reports, context teardown, partition freeze, partition reset, loads of contexts
(10_scheduling_and_deadlines.md R331, R332, R337, R356 to R359, 13 R465 to R468, 22 R729, R743).
-/

namespace Sys2Proof.Machine

open Sys2Proof

-- Commands that a fault ends (R465 to R467) --------------------------------------------------------------------------------

/-- A command in progress or queued, by the place where the state holds it. -/
inductive Victim where
  | req (slot : Nat)
  | queued (slot : Nat) (u : Sub) (c : HostCmd)
  | rebuild (slot : Nat) (o : Owner)
  | park (slot : Nat) (o : Owner)
  | revive (slot : Nat) (o : Owner)
  | move (slot : Nat) (o : Owner)
  | bond (w : BondWait)
  | alloc (u : Sub) (c : HostCmd)
  | scan (coll : Nat) (r : VsrRun)
  | ckp (part series : Nat) (o : Owner)
  | ckpWait (u : Sub) (c : HostCmd)
  | load (part ctx : Nat) (o : Owner)
  | held (part ctx : Nat) (u : Sub) (c : HostCmd)
  deriving DecidableEq, Repr

/-- The submission of a request. -/
def Req.owner (q : Req) : Owner := ⟨q.fn, q.sq, q.tag⟩

/-- The submission of a command that a fault ends. -/
def State.ownerOf (s : State) (v : Victim) : Owner :=
  match v with
  | .req slot => match s.req slot with | some q => q.owner | none => ⟨⟨0, 0⟩, none, 0⟩
  | .queued _ u _ => u.owner
  | .rebuild _ o => o
  | .park _ o => o
  | .revive _ o => o
  | .move _ o => o
  | .bond w => w.sub.owner
  | .alloc u _ => u.owner
  | .scan _ r => ⟨r.fn, r.sq, r.tag⟩
  | .ckp _ _ o => o
  | .ckpWait u _ => u.owner
  | .load _ _ o => o
  | .held _ _ u _ => u.owner

/-- The command code of a command that a fault ends (R681). -/
def Victim.opcode (v : Victim) : Nat :=
  match v with
  | .req _ => 0x10
  | .queued _ _ c => c.opcode
  | .rebuild _ _ => 0x06
  | .park _ _ => 0x05
  | .revive _ _ => 0x06
  | .move _ _ => 0x07
  | .bond w => w.cmd.opcode
  | .alloc _ c => c.opcode
  | .scan _ _ => 0x24
  | .ckp _ _ _ => 0x28
  | .ckpWait _ c => c.opcode
  | .load _ _ _ => 0x34
  | .held _ _ _ c => c.opcode

/-- The session of a command, if it names one. -/
def Victim.slot (v : Victim) : Option Nat :=
  match v with
  | .req n => some n
  | .queued n _ _ => some n
  | .rebuild n _ => some n
  | .park n _ => some n
  | .revive n _ => some n
  | .move n _ => some n
  | _ => none

/-- What a command has done so far (R467). -/
def State.tallyOf (s : State) (v : Victim) : Tally :=
  match v with
  | .req n => match s.req n with | some q => ⟨q.bonds, q.moved, q.lastBond⟩ | none => Tally.zero
  | .park n _ => match s.parks.get? n with | some r => r.tally | none => Tally.zero
  | .revive n _ => match s.revives.get? n with | some r => r.tally | none => Tally.zero
  | .ckp p n _ => match s.ckpRun p n with
    | some r => if r.ask.host then Tally.zero
      else ⟨r.stored.length, tileBytes * (r.stored.map Shard.frames).sum, r.lastBond⟩
    | none => Tally.zero
  | _ => Tally.zero

/-- The open bond of a command (R467). -/
def State.bondFor (s : State) (v : Victim) : Option Bond :=
  let handoff (n : Nat) : Option Bond := match s.handoffs.get? n with
    | some h => s.bondOf (s.ses n).part h.bond
    | none => none
  match v with
  | .req n => handoff n
  | .rebuild n _ => handoff n
  | .park n _ => match s.parks.get? n with | some r => s.bondOf (s.ses n).part r.bond | none => none
  | .ckp p n _ => s.ckpBond p n
  | _ => none

/-- The report entry of a command (R467): FIRST_OPEN is set when the report is put together. -/
def State.entryOf (s : State) (v : Victim) (st : Status) : RepCmd :=
  let o := s.ownerOf v
  let t := s.tallyOf v
  { handle := match v.slot with | some n => s.handleOf n | none => 0, fn := o.fn.index, queue := o.sq.getD 0, tag := o.tag,
    opcode := v.opcode, outcome := if t.bonds = 0 then 0 else 1, status := st,
    tokens := match v with | .req n => (match s.req n with | some q => q.committed | none => 0) | _ => 0,
    committed := t.bonds, moved := t.moved, lastBond := t.last, firstOpen := 0,
    opened := if (s.bondFor v).isSome then 1 else 0 }

/-- Forgets one waiting command of a list. -/
def dropWait (u : Sub) (c : HostCmd) (l : List (Sub × HostCmd)) : List (Sub × HostCmd) := l.filter (fun w => w != (u, c))

/-- Ends one command with the fault's status (R357, R466); a session stays as its last committed bond left it (R358). -/
def State.endVictim (s : State) (v : Victim) (st : Status) (report : Nat) : State :=
  match v with
  | .req n => s.endReq n st 0 report
  | .queued n u c =>
    let s1 := s.modSes n (fun x => { x with waiting := dropWait u c x.waiting })
    match c with
    | .reqSubmit a => s1.endQueued u a st report
    | _ => s1.complete u st 0 report
  | .rebuild n _ => s.failHandoff n st report
  | .park n _ => s.abortPark n st report
  | .revive n o =>
    let s1 := { s with revives := s.revives.erase n }
    (((s1.recordBond n).modSes n (fun x => { x with state := .parked, op := .none })).touch n).completeFor o st 0 report
  | .move n _ =>
    match s.movesOut.get? n with
    | none => s
    | some m =>
      let x := s.ses n
      let s1 := match m.target with
        | some w => s.sendAbort m.peer x.part x.comp w st
        | none => s
      s1.abortMove n m.prior st 0 report
  | .bond w => { s with bondWaits := s.bondWaits.filter (fun y => y != w) }.complete w.sub st 0 report
  | .alloc u c => { s with allocWait := dropWait u c s.allocWait }.complete u st 0 report
  | .scan c r =>
    { s with scans := s.scans.set c ((s.scanOf c).filter (fun y => y != r)) }.completeFor ⟨r.fn, r.sq, r.tag⟩ st 0 report
  | .ckp p n _ => s.ckpFail p n st report
  | .ckpWait u c => { s with ckp := { s.ckp with queue := dropWait u c s.ckp.queue } }.complete u st 0 report
  | .load p c o => (s.modCtx p c (fun x => { x with asked := dropOwner o x.asked })).completeFor o st 0 report
  | .held p c u d => (s.modCtx p c (fun x => { x with held := dropWait u d x.held })).complete u st 0 report

/-- Puts the command entries of a report in order with the bond entries that they name, as many as fit in the ring (R467,
R468): the space left, the index of the next bond entry. -/
def packEntries (room first : Nat) (l : List (RepCmd × Option RepBond)) : List RepCmd × List RepBond :=
  match l with
  | [] => ([], [])
  | (c, b) :: r =>
    let need := 48 + (if b.isSome then 16 else 0)
    if room < need then ([], [])
    else
      let rest := packEntries (room - need) (if b.isSome then first + 1 else first) r
      ({ c with firstOpen := first } :: rest.1, match b with | some x => x :: rest.2 | none => rest.2)

/-- Bytes of a partition's report ring (R468). -/
def State.reportRoom (s : State) (p : Nat) : Nat := 2 ^ s.fld Fld.BND_CFG_REPORT_FRAMES p * 4096

/-- The reports of a partition's ring, newest first. -/
def State.reportsOf (s : State) (p : Nat) : List Report := s.reports.getD p []

/-- The number of the next report (R467). -/
def State.nextReport (s : State) (p : Nat) : Nat :=
  match s.reportsOf p with
  | r :: _ => if r.number + 1 = 2 ^ 32 then 1 else r.number + 1
  | [] => 1

/-- The newest reports that fit in so many bytes. -/
def keepReports (room : Nat) (l : List Report) : List Report :=
  match l with
  | [] => []
  | r :: rest => if r.bytes ≤ room then r :: keepReports (room - r.bytes) rest else []

/-- Writes a report into its ring (R468). -/
def State.putReport (s : State) (p : Nat) (cause : Status) (scope ctx : Nat) (l : List (RepCmd × Option RepBond)) : State :=
  let s := s.tick
  let room := s.reportRoom p
  let es := packEntries (room - 32) 0 l
  let r : Report := { number := s.nextReport p, cause := cause, scope := scope, ctx := ctx, cmds := es.1, bonds := es.2,
                      omitted := l.length - es.1.length, stamp := s.aon }
  { s with reports := s.reports.set p (keepReports room (r :: s.reportsOf p)) }

/-- Commands in the order of their arrival (R465, R468). -/
def State.byArrival (s : State) (vs : List Victim) : List Victim :=
  let at_ (v : Victim) : Nat := s.arrived.findIdx (fun o => o == s.ownerOf v)
  sortBy (fun a b => decide (at_ a < at_ b)) vs

/-- Ends commands with a fault's status and writes the fault report that lists them (R465 to R468). -/
def State.sweep (s : State) (p : Nat) (vs : List Victim) (st : Status) (scope ctx : Nat) : State :=
  let vs := s.byArrival vs
  let number := s.nextReport p
  let entries := vs.map (fun v =>
    (s.entryOf v st, (s.bondFor v).map (fun b => (⟨b.id, 0, b.actions.length, b.seq⟩ : RepBond))))
  (vs.foldl (fun (a : State) v => a.endVictim v st number) s).putReport p st scope ctx entries

/-- Every command of a partition that is queued or in progress (R331, R729). -/
def State.commandsOf (s : State) (p : Nat) : List Victim :=
  let own (n : Nat) : Bool := (s.ses n).part == p
  (s.reqs.filter (fun kv => kv.2.part == p && kv.2.phase != Phase.ending)).map (fun kv => Victim.req kv.1)
  ++ (s.sessions.filter (fun kv => kv.2.part == p)).flatMap (fun kv => kv.2.waiting.map (fun w => .queued kv.1 w.1 w.2))
  ++ s.handoffs.filterMap (fun kv => if own kv.1 then kv.2.owner.map (fun o => .rebuild kv.1 o) else none)
  ++ (s.parks.filter (fun kv => own kv.1)).map (fun kv => .park kv.1 kv.2.owner)
  ++ s.revives.filterMap (fun kv => if own kv.1 then kv.2.owner.map (fun o => .revive kv.1 o) else none)
  ++ (s.movesOut.filter (fun kv => own kv.1)).map (fun kv => .move kv.1 ⟨kv.2.fn, kv.2.sq, kv.2.tag⟩)
  ++ (s.bondWaits.filter (fun w => w.part == p)).map (fun w => .bond w)
  ++ (s.allocWait.filter (fun w => s.subPart w.1 == p)).map (fun w => .alloc w.1 w.2)
  ++ s.scans.flatMap (fun kv => (kv.2.filter (fun r => r.part == p)).map (fun r => .scan kv.1 r))
  ++ (s.ckp.runs.filter (fun kv => kv.1.1 == p)).map (fun kv => .ckp kv.1.1 kv.1.2 ⟨kv.2.fn, kv.2.sq, kv.2.tag⟩)
  ++ (s.ckp.queue.filter (fun w => s.subPart w.1 == p)).map (fun w => .ckpWait w.1 w.2)
  ++ (s.ctxs.filter (fun kv => kv.1.1 == p)).flatMap (fun kv => kv.2.asked.map (fun o => .load p kv.1.2 o)
      ++ kv.2.held.map (fun w => .held p kv.1.2 w.1 w.2))

/-- Aborts the device bonds of a partition that are still open (R331 order 3, R729). -/
def State.abortDevice (s : State) (p : Nat) : State :=
  (s.bonds.filter (fun b => b.part == p)).foldl (fun (a : State) b => a.abortQuarry p b.id) s

/-- Cores of a partition stop at their next preemption point and discard what is queued (R224, R331 order 2). -/
def State.stopCores (s : State) (p : Nat) : State :=
  let s := { s with bars := s.bars.filter (fun kv => kv.1.1 / 64 != p) }
  (s.coresOf p).foldl (fun (a : State) e =>
    a.modCore e (fun c => { c with queue := [], paused := [], stopping := c.running.isSome })) s

/-- The owned cores that still run. -/
def State.stopsLeft (s : State) (p : Nat) : List Nat :=
  (s.coresOf p).filter (fun e => match s.cores.get? e with | some c => c.stopping | none => false)

-- Failed sessions (R59, R732) -----------------------------------------------------------------------------------------------------------

/-- A session whose data is lost or poisoned: whatever is in progress on it ends with STATE_LOST/failed, and it is FAILED. -/
def State.failSession (s : State) (slot : Nat) : State :=
  if (s.ses slot).state = .free then s
  else
    let s := s.abortPark slot .stateLostFailed
    let s := if (match s.handoffs.get? slot with | some h => h.owner.isSome | none => false)
      then s.failHandoff slot .stateLostFailed else s
    let s := s.stopRevive slot .failed .stateLostFailed
    (s.failMove slot).failSes slot

-- Poisoned tiles (R732, R733) -------------------------------------------------------------------------------------------------------------

/-- The session whose mortar holds a tile at a place. -/
def State.ownerAt (s : State) (l : TileLoc) : Option Nat :=
  (s.sessions.find? (fun kv => kv.2.state != .free && kv.2.mortar.entries.any (fun e => e.2.loc == some l))).map (fun kv => kv.1)

/-- A poisoned shared tile (R733): its prefix goes; slices of an open batch that read it end their requests, whose sessions fail. -/
def State.poisonShared (s : State) (n : Nat) (f : Frame) : State :=
  let readers := (s.slices.filter (fun w => w.batch.isSome
    && (s.ses w.slot).mortar.entries.any (fun e => e.2.loc == some (.frame n)))).map (fun w => w.slot)
  let s1 := (s.poisonFrame n).unregister f.owner f.backref
  readers.eraseDups.foldl (fun (a : State) k => a.failSes k) s1

/-- A poisoned tile (R732, R733). -/
def State.poisonTile (s : State) (l : TileLoc) : State :=
  match l with
  | .frame n =>
    match s.tileFrames.get? n with
    | none => s
    | some f =>
      match f.state with
      | .shared => s.poisonShared n f
      | .pinned => s.poisonShared n f
      | .priv =>
        let s1 := s.poisonFrame n
        match s.ownerAt l with
        | some k => (s1.modSes k (fun x => { x with poisoned := true })).failSession k
        | none => s1
      | _ => s
  | _ =>
    match s.ownerAt l with
    | some k => (s.modSes k (fun x => { x with poisoned := true })).failSession k
    | none => s

-- Contexts (R239, R337, R356 to R359) ------------------------------------------------------------------------------------------------------

/-- A context of a partition leaves its cores at once (R357 order 1); a core that it leaves idle chooses anew (R338). -/
def State.dropDispatches (s : State) (p c : Nat) : State :=
  let s := { s with bars := s.bars.filter (fun kv => kv.1.1 != p * 64 + c) }
  (s.coresOf p).foldl (fun (a : State) e => (a.modCore e (fun x =>
    { x with
      running := match x.running with | some r => if r.d.ctx = c then none else some r | none => none
      queue := x.queue.filter (fun d => d.ctx != c)
      paused := x.paused.filter (fun r => r.d.ctx != c) })).chooseNext e) s

/-- The commands that a teardown of a context ends (R357, R358). -/
def State.ctxVictims (s : State) (p c : Nat) : List Victim :=
  let packets := s.expertWait.filter (fun w => w.part == p && w.ctx == c)
    ++ s.batches.flatMap (fun kv => kv.2.experts.filter (fun w => w.part == p && w.ctx == c))
  (s.commandsOf p).filter (fun v =>
    match v with
    | .req n => (match s.req n with
      | some q => (q.main == c && !q.onFallback) || (q.onFallback && q.fbCtx == c) || packets.any (fun w => w.slot == n)
      | none => false)
    | .queued n _ (.reqSubmit _) => (s.ses n).main == c
    | .park n _ => c == 63 && (match s.parks.get? n with | some r => r.dressing | none => false)
    | .scan k _ => (match s.colls.get? k with | some x => x.ctx == c | none => false)
    | _ => false)

/-- Tears a context down (R356 to R359). A context that is still loading goes DOWN. -/
def State.tearDown (s : State) (p c : Nat) (cause : Status) : State :=
  match s.ctx p c with
  | none => s
  | some x =>
    match x.state with
    | .loading =>
      let vs := (s.commandsOf p).filter (fun v => match v with
        | .load _ k _ => k == c | .held _ k _ _ => k == c | .req n => (match s.req n with
          | some q => (q.main == c && q.wait == some AdmitWait.loading)
              || ((s.ses n).fallback == c && q.wait == some AdmitWait.fallback)
          | none => false) | _ => false)
      (s.modCtx p c (fun y => { y with state := .down, teardowns := Nat.min 255 (y.teardowns + 1), blocks := [] })
        |>.sweep p vs cause 0 c).bump Fld.SCH_TEARDOWNS_COUNT p
    | .ready =>
      let s1 := s.dropDispatches p c
      let s2 := s1.sweep p (s1.ctxVictims p c) cause 0 c
      let s3 := s2.modCtx p c (fun y =>
        { y with
          state := if 3 ≤ y.idleDowns + 1 then .down else .loading
          teardowns := Nat.min 255 (y.teardowns + 1)
          idleDowns := y.idleDowns + 1
          blocks := [] })
      s3.bump Fld.SCH_TEARDOWNS_COUNT p
    | _ => s

/-- CTX_RELOAD (R337, R359): a DOWN context loads, and the command completes when the load ends; the other states: log
entry 50. -/
def doCtxReload (u : Sub) (c : Nat) (s : State) : State :=
  let p := s.subPart u
  match s.ctx p c with
  | none => s.complete u .contextContextDown
  | some x =>
    match x.state with
    | .absent => s.complete u .contextContextDown
    | .ready => s.complete u .ok
    | .loading => s.modCtx p c (fun y => { y with asked := y.asked ++ [u.owner] })
    | .down => s.modCtx p c (fun y => { y with state := .loading, idleDowns := 0, blocks := [], asked := [u.owner] })

/-- Fills the pinned region of a context's share on a core (R239 order 5); lines that it writes whole hold no poison any more (R731). -/
def State.fillPinned (s : State) (p c e : Nat) : State :=
  match s.ctx p c with
  | none => s
  | some x =>
    let at_ := x.img.shareBase * 2048
    let n := ceilDiv x.img.pinned.length 256
    (s.modCore e (fun y => { y with
      store := Memory.writes 0 y.store at_ x.img.pinned
      poison := y.poison.filter (fun k => !(decide (at_ / 256 ≤ k) && decide (k < at_ / 256 + x.img.pinned.length / 256))) })).markFresh
        e (at_ / 256) n

/-- Whether a context's weights can be decrypted (R239 order 2, R646): its key slot holds a weight key of its partition. -/
def State.weightKey (s : State) (p : Nat) (x : CtxImage) : Bool :=
  x.weights.isEmpty || (match s.sec.slots.get? x.keySlot with
    | some k => k.kind == 2 && k.owner == some p && k.state == .loaded
    | none => false)

/-- The weight key of a context goes when its load ends, unless it was released with RETAIN (R646). -/
def State.dropWeightKey (s : State) (p : Nat) (x : CtxImage) : State :=
  match s.sec.slots.get? x.keySlot with
  | some k =>
    if k.kind == 2 && k.owner == some p && k.state == .loaded && !k.retain then
      { s with sec := { s.sec with slots := s.sec.slots.set x.keySlot { k with state := .provisioned } } }
    else s
  | none => s

/-- Commands that wait for a context's load end with a status. -/
def State.endAsked (s : State) (p c : Nat) (st : Status) : State :=
  match s.ctx p c with
  | none => s
  | some x => x.asked.foldl (fun (a : State) o => a.completeFor o st) (s.modCtx p c (fun y => { y with asked := [] }))

/-- Writes BOOT_PLUMB (R708): the reason, and the offset of the register that is refused; the offset of an item within an image or payload
depends on how its bytes are laid out, which the operands do not show (log entry 36). -/
def State.plumbReason (s : State) (reason : Nat) (at_ : Option Nat) : State :=
  let d := s.draw
  (d.2.setFld Fld.BOOT_PLUMB_REASON reason).setFld Fld.BOOT_PLUMB_ITEM (at_.getD (Config.freeValue 70 d.1))

/-- Bytes of a partition's work area on each core (R136). -/
def State.areaBytesOf (s : State) (p : Nat) : Nat := s.fld Fld.ATT_CFG_AREA_MIB p * 2 ^ 20

/-- A context's programs enter the program memory of a core (R239 order 4), or leave it. -/
def Core.withProgs (c : Core) (x : CtxImage) (load : Bool) : Core :=
  let other := c.prog.filter (fun w => !(decide (x.progBase ≤ w.1) && decide (w.1 < x.progBase + x.prog.length)))
  { c with prog := if load then other ++ (x.prog.zipIdx).map (fun w => (x.progBase + w.2, w.1)) else other }

/-- The programs of a context on every core of its partition. -/
def State.progsOf (s : State) (p : Nat) (x : CtxImage) (load : Bool) : State :=
  (s.coresOf p).foldl (fun (a : State) e => a.modCore e (fun c => c.withProgs x load)) s

/-- A load that fails (R239, R337): the context is DOWN, what the earlier orders took is released, and what waits for the load ends. -/
def State.loadFails (s : State) (p c : Nat) (x : Ctx) : State :=
  let s1 := s.modCtx p c (fun y => { y with state := .down, blocks := [], held := [] })
  let s2 := ({ s1 with ram := s1.ram.erase (p, c) }.progsOf p x.img false).dropWeightKey p x.img
  let s3 := x.held.foldl (fun (a : State) w => a.complete w.1 .contextContextDown) s2
  ((s3.resumeLoading p c).resumeExperts p c false).endAsked p c .contextContextDown

/-- The last orders of a load (R239 orders 4 to 6): programs are written, pinned regions filled, and what waits for the context goes on. -/
def State.loadDone (s : State) (p c : Nat) (x : Ctx) : State :=
  let s1 := ((s.modCtx p c (fun y => { y with state := .ready, held := [] })).dropWeightKey p x.img).progsOf p x.img true
  let s2 := (s1.coresOf p).foldl (fun (a : State) e => a.fillPinned p c e) s1
  let s3 := x.held.foldl (fun (a : State) w => match w.2 with | .vsrQuery q => doVsrQuery w.1 q a | _ => a) s2
  ((s3.resumeLoading p c).resumeExperts p c true).endAsked p c .ok

/-- CONTEXT_LOADED (R238, R239): a context that is loading, with its weight blocks supplied and its key released, is READY or DOWN; a
program check that fails says why in BOOT_PLUMB. -/
def doContextLoaded (part ctx : Nat) (ok : Bool) (s : State) : State :=
  match s.ctx part ctx with
  | none => s
  | some x =>
    if x.state != .loading then s
    else if !(x.img.progOk (s.areaBytesOf part)) then (s.plumbReason 0xC2 none).loadFails part ctx x
    else if !ok then s.loadFails part ctx x
    else if !s.weightKey part x.img || x.blocks.length < x.img.weights.length then s
    else s.loadDone part ctx x

-- Partition freeze and reset (R331, R332, R729) ----------------------------------------------------------------------------------------------

/-- Freezes a partition after a PF error (R729). -/
def State.freezePart (s : State) (p : Nat) : State :=
  let s := { s with err := { s.err with fatal := if s.err.fatal.contains p then s.err.fatal else p :: s.err.fatal } }
  let vs := s.commandsOf p
  let s := s.stopCores p
  (s.sweep p vs .internalPartitionFatal 2 0xFF).abortDevice p

/-- Register classes of a partition whose RO and RW fields are zero after its reset (02 R81 to 22 R745). -/
def zeroAtReset : List RegClass :=
  [.morShareCopies, .attStalls, .attSpills, .attCapDrops, .drsParksWarm, .drsParksExact, .drsParksDressed, .drsDropped,
   .drsRevived, .drsDemand, .txtInvalid, .txtReplaced, .txtRingWaits, .grmStalls, .grmForced, .grmSlow, .grmMaskWaits]
  ++ [.smpDraws, .smpOverflows, .smpRollbacks, .smpGateCancels, .smpBadLogits, .schNotices, .schSwitches, .schSwitchFails,
   .schDlFails, .schTeardowns, .memZeroWaits, .qryGovDeclines, .bndCommits, .bndAborts, .bndSlotWaits]
  ++ [.vsrCfg, .vsrPointCfg, .vsrQueries, .vsrInserts, .vsrPointed, .vsrSideRefusals, .ckpWritten, .ckpDedup,
   .ckpDigestFails, .ckpSkipped, .errNotify, .errCe, .errUc, .errNested]

/-- The PMC counters of a partition and its PMC_PCTL are zero (R756). -/
def State.zeroPmc (s : State) (p : Nat) : State :=
  let own (r : Reg) : Bool := match r.cls with
    | .pmcPctl => r.i == p
    | .pmcPcnt => r.i == p
    | _ => false
  { s with pmc := s.pmc.filter (fun kv => !(own kv.1)) }

/-- The registers of a partition after its reset (R332): counters and the like are zero, the capture is off. -/
def State.zeroCounters (s : State) (p : Nat) : State :=
  let s := zeroAtReset.foldl (fun (a : State) c => a.setReg ⟨c, p, 0⟩ 0) s
  let s := (s.setFld Fld.ATT_CAP_CTL_ENABLE 0 p).zeroPmc p
  { s with err := { s.err with partLost := s.err.partLost.set p 0 } }

/-- Releases everything that R331 order 5 and R332 say: slots, prefixes, grammars, frames, collections, forwarding entries,
older maps, tenant keys; the report ring and checkpoints stay. -/
def State.clearPartition (s : State) (p : Nat) : State :=
  let slots := (s.sessions.filter (fun kv => s.inRange p kv.1)).map (·.1)
  let trims := (s.qry.map.filter (fun kv => kv.2.owner == p &&
    !((s.ckp.index.getD p []).any (fun x => x.frames.contains kv.1))
    && !(s.ckp.mans.any (fun m => m.1.1 == p && m.2.any (fun y => y.2.contains kv.1))))).map (·.1)
  let s := s.qTrims 0 trims
  let s := { s with
    sessions := s.sessions.filter (fun kv => !(slots.contains kv.1))
    handoffs := s.handoffs.filter (fun kv => !(slots.contains kv.1))
    revives := s.revives.filter (fun kv => !(slots.contains kv.1))
    movesIn := s.movesIn.filter (fun kv => !(slots.contains kv.1))
    pulls := s.pulls.filter (fun w => !(slots.contains w.slot))
    mirror := s.mirror.filter (fun m => m.part != p)
    prefixes := s.prefixes.filter (fun kv => kv.1.1 != p)
    regPages := s.regPages.filter (fun kv => kv.1.1 != p)
    grammars := s.grammars.filter (fun kv => kv.1.1 != p)
    forwards := s.forwards.filter (fun f => f.part != p)
    tiles := s.tiles.filter (fun kv => match kv.1 with
      | .store e _ => !((s.coresOf p).contains e)
      | .frame n => !(s.tileFirst p ≤ n && n < s.tileFirst p + s.tileCount p)
      | .quarry n => !(trims.contains n)) }
  let zero (f : Frame) : Frame := { f with state := .zeroing, refcount := 0, backref := 0 }
  let s := { s with
    tileFrames := s.tileFrames.map (fun (kv : Nat × Frame) => if kv.2.owner = p then (kv.1, zero kv.2) else kv)
    mortarFrames := s.mortarFrames.map (fun (kv : Nat × Frame) =>
      if kv.2.owner = p ∧ kv.2.backref ≠ 0xFFFFFFFF then (kv.1, zero kv.2) else kv)
    colls := s.colls.filter (fun kv => kv.2.part != p)
    scans := s.scans.filter (fun kv => match s.colls.get? kv.1 with | some c => c.part != p | none => false)
    comps := s.comps.map (fun (kv : Nat × Comp) => if kv.2.part = p then (kv.1, { kv.2 with old := [] }) else kv)
    capSeq := s.capSeq.erase p
    batches := s.batches.filter (fun kv => match kv.2.key with
      | .slices q _ _ _ _ _ => q != p
      | .experts q _ _ _ => q != p) }
  { s with sec := { s.sec with slots := s.sec.slots.map (fun (kv : Nat × KeySlot) =>
      if kv.2.owner = some p ∧ kv.2.state = .loaded ∧ (kv.2.kind = 2 ∨ kv.2.kind = 3) then (kv.1, { kv.2 with state := .provisioned })
      else kv) } }

/-- Whether a completion answers a command of a partition: by its function, or by the outstanding tag of a PF0. -/
def State.completionOf (s : State) (p : Nat) (c : Completion) : Bool :=
  s.partOfFn c.fn == some p || (match c.sq with
    | some n => (match s.sq c.fn n with
      | some x => x.tags.any (fun t => t.tag == c.tag && t.dup == c.dup && t.part == some p)
      | none => false)
    | none => false)

/-- Whether every completion of a partition's commands has been written (R331 order 4): no request is ending, and none waits in
a completion queue. -/
def State.allPosted (s : State) (p : Nat) : Bool :=
  !(s.reqs.any (fun kv => kv.2.part == p)) && !(s.lateEnds.any (fun q => q.part == p)) && !(s.cqs.any (fun kc => kc.2.waiting.any (fun c => s.completionOf p c)))

/-- Cores of a partition begin to clear their fresh maps (R218). -/
def State.clearFresh (s : State) (p : Nat) : State :=
  (s.coresOf p).foldl (fun (a : State) e => a.modCore e (fun c => { c with clearing := true })) s

/-- Takes a partition reset as far as it goes (R331). -/
def State.goReset (s : State) (p : Nat) : State :=
  match s.resets.get? p with
  | none => s
  | some r =>
    let s := if r.order = 2 ∧ r.cores = [] then
        let t := s.movesIn.foldl (fun (a : State) kv =>
          if (a.ses kv.1).part = p then a.sendAbort kv.2.peer p kv.2.comp kv.2.srcHandle .contextPartitionReset else a) s
        let t := (t.sweep p (t.commandsOf p) .contextPartitionReset 1 0xFF).abortDevice p
        { t with resets := t.resets.set p { r with order := 4 } }
      else s
    match s.resets.get? p with
    | none => s
    | some r =>
      if r.order = 4 ∧ s.allPosted p then
        let t := ((s.clearPartition p).zeroCounters p).clearFresh p
        let cs := t.coresOf p
        let t := { t with resets := t.resets.set p { r with order := 6, cores := cs } }
        if cs.isEmpty then
          { t with resets := t.resets.erase p, err := { t.err with fatal := t.err.fatal.filter (fun q => q != p) } }.completeFor
            ⟨r.fn, r.sq, r.tag⟩ .ok
        else t
      else s

/-- PART_RESET (R331). -/
def doPartReset (u : Sub) (s : State) : State :=
  let p := s.subPart u
  let s := s.stopCores p
  ({ s with resets := s.resets.set p ⟨p, 2, u.fn, u.sq, u.tag, s.stopsLeft p⟩ }).goReset p

/-- One core of a reset has cleared its fresh map and been refilled (R331 order 6). -/
def State.resetCleared (s : State) (p e : Nat) : State :=
  match s.resets.get? p with
  | none => s
  | some r =>
    if r.order ≠ 6 then s
    else
      let left := r.cores.filter (fun x => x != e)
      if left.isEmpty then
        { s with resets := s.resets.erase p, err := { s.err with fatal := s.err.fatal.filter (fun q => q != p) } }.completeFor
          ⟨r.fn, r.sq, r.tag⟩ .ok
      else { s with resets := s.resets.set p { r with cores := left } }

/-- One core of a reset has stopped (R331 order 2). -/
def State.resetStopped (s : State) (p e : Nat) : State :=
  match s.resets.get? p with
  | none => s
  | some r =>
    if r.order ≠ 2 then s
    else { s with resets := s.resets.set p { r with cores := r.cores.filter (fun x => x != e) } }.goReset p

-- Reading reports and errors (R468, R743) --------------------------------------------------------------------------------------------------------

/-- BND_REPORT_GET (R468): copies a report, at most the buffer's length. -/
def doBndReportGet (u : Sub) (number bytes : Nat) (s : State) : State :=
  let p := s.subPart u
  match (s.reportsOf p).find? (fun r => r.number == number) with
  | none => s.complete u .configReportUnknown
  | some r =>
    let n := Nat.min bytes r.bytes
    (s.buf u.fn (.report r n)).complete u .ok n

/-- ERR_READ (R743): records from a SEQ in ascending order, as many as the buffer holds. -/
def doErrRead (u : Sub) (seq : Nat) (device : Bool) (bytes : Nat) (s : State) : State :=
  let ring := if device then s.err.ring else s.err.parts.getD (s.subPart u) []
  let oldest := match ring.getLast? with | some r => r.seq | none => 0
  let from_ := if ring.any (fun r => r.seq == seq) then seq
    else if seq < oldest then oldest else seq
  let rs := ((ring.reverse).dropWhile (fun r => r.seq != from_ && r.seq < from_)).take (bytes / 64)
  (s.buf u.fn (.errors rs)).complete u .ok rs.length

end Sys2Proof.Machine
end

