-- ==== Sys2Proof/Machine/Tiles.lean ====
section
/-!
DEFINITION. What tile programs see as bytes: tiles, tile stores, regions and descriptors (03_tiles_and_mortar.md R84 to R92,
06_cores.md R216, R217, R225 to R229).
-/

namespace Sys2Proof.Machine

open Sys2Proof

-- Elements as bytes (R85) ------------------------------------------------------------------------------------------------

/-- Packs 4-bit elements, the even one in the low half (R85). -/
def packNibbles (l : List Nat) : List Byte :=
  match l with
  | [] => []
  | [a] => [BitVec.ofNat 8 (a % 16)]
  | a :: b :: r => BitVec.ofNat 8 (a % 16 + 16 * (b % 16)) :: packNibbles r

/-- Packs single bits, the lowest first. -/
def packBits (l : List Nat) : List Byte :=
  (chunks 8 l).map (fun c => BitVec.ofNat 8 ((c.zipIdx).foldl (fun a x => a + (x.1 % 2) * 2 ^ x.2) 0))

/-- Packs elements of so many bits. -/
def packElems (bits : Nat) (l : List Nat) : List Byte :=
  if bits = 1 then packBits l else if bits = 4 then packNibbles l else l.flatMap (fun x => leBytes (bits / 8) x)

/-- The first n elements of so many bits that bytes hold. -/
def unpackElems (bits n : Nat) (bs : List Byte) : List Nat :=
  if bits < 8 then
    (List.range n).map (fun i => (nthD bs (i * bits / 8) 0).toNat / 2 ^ (i * bits % 8) % 2 ^ bits)
  else (List.range n).map (fun i => leNat ((bs.drop (i * (bits / 8))).take (bits / 8)))

-- Tiles as bytes (R84 to R92) --------------------------------------------------------------------------------------------------

/-- Bytes padded with zeros, or cut, to a length. -/
def padTo (n : Nat) (bs : List Byte) : List Byte := (bs ++ List.replicate (n - bs.length) 0).take n

/-- The 16 KiB data frame of a tile (R84 to R86). -/
def Tile.dataFrame (t : Tile) : List Byte :=
  let half (f : TPos → List Nat) : List Byte :=
    padTo (t.geom.p * t.geom.kb) (t.positions.flatMap (fun x => packElems t.geom.bits (f x)))
  padTo 16384 (half (fun x => x.key) ++ half (fun x => x.value))

/-- A position-map entry (R92). -/
def TPos.mapWord (x : TPos) : Nat :=
  2 ^ 31 + (if x.merged then 2 ^ 30 else 0) + (x.mcount % 1024) * 2 ^ 20 + x.pos % 2 ^ 20

/-- The 2 KiB side frame of a tile (R88 to R92). -/
def Tile.sideFrame (t : Tile) : List Byte :=
  let first := match t.positions with | x :: _ => x.pos | [] => 0
  let last := match t.positions.getLast? with | some x => x.pos | none => 0
  let flags := (if t.dressed then 128 else 0) + (if t.shared then 64 else 0) + (if t.sealed then 32 else 0)
  let header := leBytes 8 t.source.toNat ++ leBytes 2 t.layer ++ leBytes 1 t.head ++ leBytes 1 t.geom.byte
    ++ leBytes 1 t.fill ++ leBytes 1 flags ++ leBytes 2 t.prefixId ++ leBytes 4 first ++ leBytes 4 last
    ++ leBytes 4 t.massEpoch
  padTo 128 header
    ++ padTo 1024 (t.positions.flatMap (fun x => packElems 8 (x.kscales ++ x.vscales)))
    ++ padTo 256 (t.positions.flatMap (fun x => leBytes 2 x.mass.toNat))
    ++ padTo 512 (t.positions.flatMap (fun x => leBytes 4 x.mapWord))
    ++ List.replicate 128 0

/-- A tile's 18 KiB (R83, R96): data frame, then side frame. -/
def Tile.bytes (t : Tile) : List Byte := t.dataFrame ++ t.sideFrame

/-- The geometry a GEOMETRY byte names (R89). -/
def geomOfByte (w : Nat) : Geometry := ⟨bitsOf w 7 6, bitOf w 5, bitsOf w 4 3, bitsOf w 2 1⟩

/-- The tile that 18 KiB spell (R84 to R92). -/
def tileOfBytes (bs : List Byte) : Tile :=
  let side := bs.drop 16384
  let num (off n : Nat) : Nat := leNat ((side.drop off).take n)
  let g := geomOfByte (num 0x0B 1)
  let part (off n i : Nat) : List Byte := (bs.drop (off + n * i)).take n
  let pos (i : Nat) : TPos :=
    let m := num (0x580 + 4 * i) 4
    let sc := unpackElems 8 (g.d / 16) (side.drop (0x80 + i * (g.d / 16)))
    { key := unpackElems g.bits g.d (part 0 g.kb i), value := unpackElems g.bits g.d (part (g.p * g.kb) g.kb i),
      kscales := sc.take (g.d / 32), vscales := sc.drop (g.d / 32), mass := BitVec.ofNat 16 (num (0x480 + 2 * i) 2),
      pos := bitsOf m 19 0, merged := bitOf m 30, mcount := bitsOf m 29 20 }
  { source := BitVec.ofNat 64 (num 0 8), layer := num 8 2, head := num 10 1, geom := g, dressed := bitOf (num 0x0D 1) 7,
    shared := bitOf (num 0x0D 1) 6, prefixId := num 0x0E 2, massEpoch := num 0x18 4,
    positions := (List.range (Nat.min (num 0x0C 1) g.p)).map pos }

-- Bytes of a core (R216, R217) -----------------------------------------------------------------------------------------------------

/-- The tile that covers an address of a core's tile store, with its first address. -/
def State.tileOver (s : State) (e a : Nat) : Option (Nat × Tile) :=
  s.tiles.findSome? (fun kv => match kv.1 with
    | .store c o => if c = e ∧ o * 2048 ≤ a ∧ a < o * 2048 + 18432 then some (o * 2048, kv.2) else none
    | _ => none)

/-- A byte of a core's tile store: of the tile that lies there, else of the store. -/
def State.storeByte (s : State) (e a : Nat) : Byte :=
  match s.tileOver e a with
  | some (b, t) => nthD t.bytes (a - b) 0
  | none => match s.cores.get? e with
    | some c => Memory.read 0 c.store a
    | none => 0

/-- Whether bytes of a core's tile store lie in a line whose poison bit is set (R731). -/
def State.poisonedLines (s : State) (e a n : Nat) : Bool :=
  match s.cores.get? e with
  | some c => c.poison.any (fun l => decide (l * 256 < a + n) && decide (a < (l + 1) * 256))
  | none => false

/-- Writes one byte of a core's tile store (R217): its line becomes fresh. -/
def State.storeWrite (s : State) (e a : Nat) (b : Byte) : State :=
  let s1 := s.markFresh e (a / 256) 1
  match s.tileOver e a with
  | some (base, t) =>
    { s1 with tiles := s1.tiles.set (.store e (base / 2048)) (tileOfBytes (t.bytes.set (a - base) b)) }
  | none => s1.modCore e (fun c => { c with store := Memory.write 0 c.store a b })

/-- A write that covers whole lines of a core's tile store clears their poison bits (R731). -/
def State.coverLines (s : State) (e a n : Nat) : State :=
  s.modCore e (fun c => { c with poison := c.poison.filter (fun l => !(decide (a ≤ l * 256) && decide ((l + 1) * 256 ≤ a + n))) })

/-- Writes bytes of a core's tile store. -/
def State.storeWrites (s : State) (e a : Nat) (bs : List Byte) : State :=
  match bs with
  | [] => s
  | b :: r => (s.storeWrite e a b).storeWrites e (a + 1) r

/-- Whether a byte of a core's store lies in a context's share (R216). -/
def CtxImage.inShare (x : CtxImage) (a : Nat) : Bool :=
  decide (x.shareBase * 2048 ≤ a) && decide (a < (x.shareBase + x.share) * 2048)

/-- Whether a context may name a range of its core's store (R216, R225): its share, the work area of its partition (R136), which is the
first part of the store (DESIGN CHOICE, log entry 60), and tiles of its work list. -/
def State.storeOk (s : State) (e p c : Nat) (work : List TileLoc) (a n : Nat) : Bool :=
  decide (a + n ≤ 2 ^ 25) && (List.range n).all (fun k =>
    let b := a + k
    (match s.ctx p c with | some x => x.img.inShare b | none => false)
    || decide (b < s.areaBytesOf p)
    || work.any (fun l => match l with | .store c o => c == e && decide (o * 2048 ≤ b) && decide (b < o * 2048 + 18432)
                                       | _ => false))

-- Operands (R225 to R229) --------------------------------------------------------------------------------------------------------------

/-- The run on a core with the partition and the image of its context. -/
structure Env where
  core : Nat
  part : Nat
  run  : Run
  img  : CtxImage
  deriving DecidableEq, Repr

/-- What runs on a core. -/
def State.env (s : State) (e : Nat) : Option Env :=
  match s.cores.get? e with
  | none => none
  | some c =>
    match c.owner, c.running with
    | some p, some r =>
      match s.ctx p r.d.ctx with
      | some x => some ⟨e, p, r, s.progImage x.img⟩
      | none => none
    | _, _ => none

/-- A run-time check that fails (R225, R231): CAUSE and ADDR of COR_FAULT; cause 3, which COR_FAULT does not have, is a read of a
poisoned line or word (R731, R732), with the work-list tile that it lies in. -/
structure Trap where
  cause : Nat
  addr  : Nat
  tile  : Option TileLoc := none
  deriving DecidableEq, Repr

/-- Bytes at a place of a space, for a work-list entry (R225, R227). -/
def State.readSpace (s : State) (v : Env) (sp : Space) (entry a n : Nat) : Except Trap (List Byte) :=
  match sp with
  | .store =>
    if s.poisonedLines v.core a n then .error { cause := 3, addr := a }
    else if s.storeOk v.core v.part v.run.d.ctx v.run.d.work a n then
      .ok ((List.range n).map (fun k => s.storeByte v.core (a + k)))
    else .error { cause := 0, addr := a }
  | .region =>
    if a + n ≤ v.img.region then
      .ok ((List.range n).map (fun k => Memory.read 0 ((s.ram.get? (v.part, v.run.d.ctx)).getD []) (a + k)))
    else .error { cause := 0, addr := a }
  | .area => if a + n ≤ 4096 then .ok (padTo n (v.run.d.area.drop a)) else .error { cause := 0, addr := a }
  | .tile =>
    match v.run.d.work[entry]? with
    | none => .error { cause := 0, addr := a }
    | some l =>
      match s.tiles.get? l with
      | none => .error { cause := 0, addr := a }
      | some t =>
        if (s.poisonAt l).any (fun k => decide (k * 256 < a + n) && decide (a < (k + 1) * 256)) then .error ⟨3, a, some l⟩
        else if a + n ≤ 18432 then .ok ((t.bytes.drop a).take n) else .error { cause := 0, addr := a }

/-- Writes bytes at a place of a space (R229): tile store, region or dispatch area. -/
def State.writeSpace (s : State) (v : Env) (sp : Space) (a : Nat) (bs : List Byte) : Except Trap State :=
  match sp with
  | .store =>
    if s.storeOk v.core v.part v.run.d.ctx v.run.d.work a bs.length then
      .ok ((s.storeWrites v.core a bs).coverLines v.core a bs.length) else .error { cause := 0, addr := a }
  | .region =>
    if a + bs.length ≤ v.img.region then
      let k := (v.part, v.run.d.ctx)
      .ok { s with ram := s.ram.set k (Memory.writes 0 ((s.ram.get? k).getD []) a bs) }
    else .error { cause := 0, addr := a }
  | .area =>
    if a + bs.length ≤ 4096 then
      let put (r : Run) : Run :=
        if r.d.ctx ≠ v.run.d.ctx then r else
        { r with d := { r.d with area := padTo 4096 ((padTo 4096 r.d.area).take a ++ bs
            ++ (padTo 4096 r.d.area).drop (a + bs.length)) } }
      .ok (s.modCore v.core (fun c => { c with running := c.running.map put, paused := c.paused.map put }))
    else .error { cause := 0, addr := a }
  | .tile => .error { cause := 0, addr := a }

/-- An operand at one repetition (R226, R227): its descriptor, its address, its work-list entry. -/
structure Operand where
  d     : Desc
  at_   : Nat
  scale : Nat
  entry : Nat
  deriving DecidableEq, Repr

/-- Resolves an operand for repetition k. -/
def Env.operand (v : Env) (i : Nat) (rep : Bool) (k : Nat) : Option Operand :=
  match v.img.desc i with
  | none => none
  | some d =>
    if d.space = .tile then some ⟨d, d.off, d.scaleOff, if rep then k else 0⟩
    else
      let m := if rep then d.rep * k else 0
      some ⟨d, d.off + m, d.scaleOff + m, 0⟩

/-- The bytes of row r of an operand. -/
def State.rowOf (s : State) (v : Env) (o : Operand) (r : Nat) : Except Trap (List Byte) :=
  s.readSpace v o.d.space o.entry (o.at_ + r * o.d.stride) o.d.rowBytes

/-- The element patterns of row r of an operand. -/
def State.patterns (s : State) (v : Env) (o : Operand) (r : Nat) : Except Trap (List Nat) :=
  match s.rowOf v o r with
  | .error t => .error t
  | .ok bs => .ok (unpackElems (typeBits o.d.type) o.d.cols bs)

/-- The elements of row r of an operand as FP32, times their scales (R91, R227). -/
def State.floats (s : State) (v : Env) (o : Operand) (r : Nat) : Except Trap (List Nat) :=
  match s.patterns v o r with
  | .error t => .error t
  | .ok ps =>
    let e := typeElem o.d.type
    let plain := ps.map (fun w => fp32.encode (e.decode w))
    if o.d.scaling = 0 then .ok plain
    else
      match s.readSpace v o.d.space o.entry (o.scale + r * o.d.scaleBytes) o.d.scaleBytes with
      | .error t => .error t
      | .ok bs =>
        if o.d.scaling = 1 then .ok (dequantVec e (bs.map (fun b => b.toNat)) ps)
        else .ok (ps.map (fun w => fp32.encode ((e.decode w).mul (v32 (leNat bs)))))

/-- Applies a reading to each of some rows. -/
def mapRows {α : Type} (f : Nat → Except Trap α) (rs : List Nat) : Except Trap (List α) :=
  match rs with
  | [] => .ok []
  | r :: rest =>
    match f r, mapRows f rest with
    | .ok x, .ok xs => .ok (x :: xs)
    | .error t, _ => .error t
    | _, .error t => .error t

/-- All rows of an operand as FP32. -/
def State.matrix (s : State) (v : Env) (o : Operand) : Except Trap (List (List Nat)) :=
  mapRows (s.floats v o) (List.range o.d.rows)

/-- Conversion to an element type: exact where the type holds the value, and a NaN where it holds one (R221); its rounding is not
stated otherwise. Log entry 34. -/
def convertTo (t : Nat) (w : Nat) : Nat :=
  let e := typeElem t
  let x := e.nearest (v32 w)
  if (e.decode x).eqv (v32 w) || (v32 w == .nan && e.decode x == .nan) then x else Config.fp32Sum 60 [t, w] % 2 ^ typeBits t

/-- Writes element patterns into row r of an operand, as many as it has columns. -/
def State.putPatterns (s : State) (v : Env) (o : Operand) (r : Nat) (ps : List Nat) : Except Trap State :=
  s.writeSpace v o.d.space (o.at_ + r * o.d.stride) (packElems (typeBits o.d.type) (ps.take o.d.cols))

/-- Writes FP32 values into row r of an operand, converted to its type; an element under a scale that the operation does
not write is an open value. Log entry 34. -/
def State.putFloats (s : State) (v : Env) (o : Operand) (r : Nat) (xs : List Nat) : Except Trap State :=
  s.putPatterns v o r (xs.map (fun w =>
    if o.d.scaling = 0 then convertTo o.d.type w else Config.fp32Sum 61 [o.d.type, w] % 2 ^ typeBits o.d.type))

/-- Writes rows in order from a first one. -/
def State.putRows (s : State) (v : Env) (o : Operand) (r : Nat) (f : State → Nat → List Nat → Except Trap State)
    (rows : List (List Nat)) : Except Trap State :=
  match rows with
  | [] => .ok s
  | x :: rest =>
    match f s r x with
    | .error t => .error t
    | .ok s1 => s1.putRows v o (r + 1) f rest

/-- Writes a matrix of FP32 values into an operand, as many rows as it has. -/
def State.putMatrix (s : State) (v : Env) (o : Operand) (rows : List (List Nat)) : Except Trap State :=
  s.putRows v o 0 (fun a r xs => a.putFloats v o r xs) (rows.take o.d.rows)

end Sys2Proof.Machine
end

