-- ==== Sys2Proof/Machine/Cores.lean ====
section
/-!
DEFINITION. The sequencer of a core: dispatches, slices, the issue of an instruction, barriers
(06_cores.md R216 to R235, 10_scheduling_and_deadlines.md R338 to R341).
-/

namespace Sys2Proof.Machine

open Sys2Proof

-- Dispatches (R338 to R341) -----------------------------------------------------------------------------------------------------------

/-- Switches the running program of a core out; it keeps its place (R219, R224). -/
def State.switchOut (s : State) (e : Nat) : State :=
  s.modCore e (fun c => match c.running with
    | some r => { c with running := none, paused := c.paused ++ [r] }
    | none => c)

/-- Whether a dispatch can be made (R222, R223, R237, R239, R331): the context is READY on a core that its partition owns, with the
whole group; the entry point is one of its entry table for work of its kind; the core accepts dispatches. -/
def State.canDispatch (s : State) (e : Nat) (d : Dispatch) : Option Nat :=
  match s.cores.get? e with
  | none => none
  | some c =>
    match c.owner with
    | none => none
    | some p =>
      let ready := match s.ctx p d.ctx with | some x => x.state == CtxState.ready | none => false
      let group := d.group.contains e && d.group.all (fun g => (s.coresOf p).contains g)
        && (match d.lead with | some l => d.group.contains l | none => true)
      let entry := match s.ctx p d.ctx with
        | some x => x.img.kind.entry d.entry && decide (d.entry < (s.progImage x.img).entries.length) | none => false
      let places := d.work.all (fun l => match l with | .store c _ => c == e | .frame _ => true | .quarry _ => false)
      if ready && group && places && entry && decide (d.work.length ≤ 4096) && decide (d.area.length ≤ 4096) && !c.clearing && !c.stopping
          && !(s.resets.has p) && !(s.err.fatal.contains p) && !s.err.frozen then some p else none

/-- DISPATCH (R338, R339): a dispatch whose work list names a place of another partition reads nothing and is recorded (R105, R378);
any other is queued on its core; a latency-critical one preempts best-effort and background work at
the end of an instruction, which is where every command of the model finds a core. -/
def doDispatch (e : Nat) (d : Dispatch) (s : State) : State :=
  match s.canDispatch e d with
  | none => s
  | some p =>
    match d.work.find? (fun l => !(s.ownPlace p l)) with
    | some l => s.foreign p (s.placeAddr l) d.slot
    | none =>
    let s1 := s.modCore e (fun c => { c with queue := c.queue ++ [d] })
    match s.cores.get? e with
    | none => s
    | some c =>
      match c.running with
      | none => s1.chooseNext e
      | some r =>
        if s.ctxClass p d.ctx = .lc ∧ s.ctxClass p r.d.ctx ≠ .lc then
          let lcs := (match s1.cores.get? e with | some y => y.wanted | none => []).filter (fun x => s.ctxClass p x == CtxClass.lc)
          match nextAfter c.lastLc lcs with
          | some x => (s1.switchOut e).giveCore e p x
          | none => s1
        else s1

/-- SLICE_END (R338, R341): the core chooses anew; a program that waits at a BAR keeps its core. -/
def doSliceEnd (e : Nat) (s : State) : State :=
  match s.cores.get? e with
  | none => s
  | some c =>
    match c.running with
    | none => s
    | some r => if r.bar.isSome || c.stopping then s else (s.switchOut e).chooseNext e

-- Issue of an instruction (R222, R224, R225) --------------------------------------------------------------------------------------

/-- What a core can issue to: a program runs, waits at no barrier, and its course is not changing step (R241). -/
def State.issuer (s : State) (e : Nat) : Option Env :=
  match s.cores.get? e with
  | none => none
  | some c =>
    let changing := match s.courses.get? c.course with | some k => k.changing | none => false
    if c.stopping || c.clearing || changing then none
    else
      match s.env e with
      | some v => if v.run.bar.isSome then none else some v
      | none => none

/-- The program of a core ends (R338): the next dispatch of its context on the core begins within its slice; where there is none, the
core chooses anew. -/
def State.endRun (s : State) (e : Nat) : State :=
  let t := s.modCore e (fun c => { c with running := none })
  match s.cores.get? e with
  | none => t
  | some c =>
    match c.running with
    | none => t
    | some r =>
      if c.wanted.contains r.d.ctx && !c.stopping && !c.clearing then t.modCore e (fun c => c.take r.d.ctx) else t.chooseNext e

/-- An instruction of the running program is complete (R226 END). -/
def State.retire (s : State) (e : Nat) (last : Bool) : State :=
  if last then s.endRun e
  else s.modCore e (fun c => { c with running := c.running.map (fun r => { r with pc := r.pc + 1, bar := none, reps := 0 }) })

/-- The instruction index of a program in program memory (R247). -/
def Env.at_ (v : Env) : Nat := nthD v.img.entries v.run.d.entry 0 + v.run.pc

/-- The instruction that program memory holds where a program stands (R226); memory that nothing has written holds the reserved
opcode 0. -/
def State.fetched (s : State) (v : Env) : TWord :=
  match s.cores.get? v.core with
  | some c => c.prog.getD v.at_ 0
  | none => 0

/-- Whether a program stands at an instruction: an operation with its fields (R222, R226). -/
def State.standsAt (s : State) (v : Env) (op : Nat) (i : TInstr) : Bool :=
  (s.fetched v).op == op && (s.fetched v).instr == i && (s.fetched v).reservedZero

/-- Records the first fault of a core (R246, R247). -/
def State.corFault (s : State) (v : Env) (t : Trap) : State :=
  if s.flag Fld.COR_FAULT_VALID v.core then s
  else
    let s := s.setFld Fld.COR_FAULT_VALID 1 v.core
    let s := s.setFld Fld.COR_FAULT_CAUSE t.cause v.core
    let s := s.setFld Fld.COR_FAULT_CONTEXT v.run.d.ctx v.core
    let s := s.setFld Fld.COR_FAULT_ADDR t.addr v.core
    s.setFld Fld.COR_FAULT_INSTR_INSTR v.at_ v.core

/-- The program of a core is discarded. -/
def State.dropRun (s : State) (e : Nat) : State := (s.modCore e (fun c => { c with running := none })).chooseNext e

/-- A program reads poison (R732): that of a tile acts on the tile, that of the work area ends the request that the dispatch serves, and
that of the share, or of a work area used for no request, tears the context down. -/
def State.poisonRead (s : State) (v : Env) (t : Trap) : State :=
  let at_ := v.core * 2 ^ 36 + t.addr
  let inTile := match t.tile with
    | some l => some l
    | none => (s.tileOver v.core t.addr).map (fun (b : Nat × Tile) => TileLoc.store v.core (b.1 / 2048))
  match inTile with
  | some l =>
    let s1 := match l with
      | .frame _ => s.propagated v.part 1 (s.placeAddr l) (subChannel (s.placeAddr l) * 256) .stateLostFailed v.run.d.slot
      | _ => s.propagated v.part 3 at_ 0 .stateLostFailed v.run.d.slot
    (s1.dropRun v.core).poisonTile l
  | none =>
    match (if t.addr < s.areaBytesOf v.part then v.run.d.slot else none) with
    | some n => ((s.propagated v.part 3 at_ 0 .stateLostRequest (some n)).dropRun v.core).endReq n .stateLostRequest
    | none => (s.propagated v.part 3 at_ 0 .contextUncorrected none).tearDown v.part v.run.d.ctx .contextUncorrected

/-- A run-time check fails: the fault is recorded and the context torn down (R225, R231, R235, R356). Cause 3 is a read of poison. -/
def State.trapCore (s : State) (v : Env) (t : Trap) : State :=
  if t.cause = 3 then s.poisonRead v t
  else
    let st : Status := if t.cause = 2 then .contextBarrierTimeout else .contextCoreWindow
    (s.corFault v t).tearDown v.part v.run.d.ctx st

/-- One repetition of an instruction is done: the next one, at which a switched-out program would resume (R224), or the next
instruction. -/
def State.repeated (s : State) (e : Nat) (reps : Nat) (i : TInstr) : State :=
  if reps < i.count then s.modCore e (fun c => { c with running := c.running.map (fun r => { r with reps := r.reps + 1 }) })
  else s.retire e i.last

/-- Issues one repetition of the instruction at which a core's program stands: a command of an instruction with COUNT n comes n + 1
times, and a switch may come between two of them (R222, R224, R226). The instruction is one of program memory that passes the program
check; any other has no effect (log entry 2). -/
def State.issue (s : State) (e op : Nat) (i : TInstr) (ok : CtxImage → Bool) (f : State → Env → Nat → Except Trap State) : State :=
  match s.issuer e with
  | none => s
  | some v =>
    if !(s.standsAt v op i && ok v.img) then s
    else
      match f s v v.run.reps with
      | .error t => s.trapCore v t
      | .ok s1 => s1.repeated e v.run.reps i

/-- An operand at a repetition, or a trap where the program names none. -/
def Env.get (v : Env) (i : Nat) (rep : Bool) (k : Nat) : Except Trap Operand :=
  match v.operand i rep k with
  | some o => .ok o
  | none => .error { cause := 0, addr := 0 }

-- Barriers and exchange (R232 to R235) -------------------------------------------------------------------------------------------------

/-- The lead of a dispatch (R232). -/
def Dispatch.leadOf (d : Dispatch) : Nat :=
  match d.lead with
  | some l => l
  | none => match leastBy (fun (a b : Nat) => decide (a < b)) d.group with | some l => l | none => 0

/-- The rank of a core in its group (R232). -/
def Dispatch.rank (d : Dispatch) (e : Nat) : Nat := (d.group.filter (fun g => decide (g < e))).length

/-- The number of cores of a group. -/
def Dispatch.size (d : Dispatch) : Nat := d.group.eraseDups.length

/-- What identifies a barrier: the context, and the barrier and mode of its group under its lead. -/
def Env.barKey (v : Env) (i : TInstr) : Nat × Nat :=
  let mask := v.run.d.group.foldl (fun (a : Nat) g => a ||| 2 ^ (g % 16)) 0
  (v.part * 64 + v.run.d.ctx, i.barrier % 16 + 16 * (v.run.d.leadOf % 16 + 16 * (mask + 65536 * (i.mode % 64))))

/-- The barrier of a key. -/
def State.barOf (s : State) (k : Nat × Nat) : Barrier := s.bars.getD k ⟨[], []⟩

/-- Stores a barrier; one that holds nothing is forgotten. -/
def State.setBar (s : State) (k : Nat × Nat) (b : Barrier) : State :=
  if b.arrived.isEmpty ∧ b.slots.isEmpty then { s with bars := s.bars.erase k } else { s with bars := s.bars.set k b }

/-- The program of a context on a core, running or switched out. -/
def State.runOn (s : State) (e ctx : Nat) : Option Run :=
  match s.cores.get? e with
  | none => none
  | some c =>
    match c.running with
    | some r => if r.d.ctx = ctx then some r else c.paused.find? (fun x => x.d.ctx == ctx)
    | none => c.paused.find? (fun x => x.d.ctx == ctx)

/-- The environment of a core that waits at a barrier, with the BAR. -/
def State.waiterAt (s : State) (p ctx : Nat) (key : Nat × Nat) (e : Nat) : Option (Env × TInstr) :=
  match s.runOn e ctx, s.ctx p ctx with
  | some r, some x =>
    match r.bar with
    | some i =>
      let v : Env := ⟨e, p, r, s.progImage x.img⟩
      if v.barKey i = key then some (v, i) else none
    | none => none
  | _, _ => none

/-- A BAR completes on a core, or one of its repetitions does: its program goes on where it holds the core, and when it resumes
where it does not. -/
def State.passBar (s : State) (v : Env) (i : TInstr) : State :=
  let mine (r : Run) : Bool := r.d.ctx == v.run.d.ctx
  let onCore := match s.cores.get? v.core with
    | some c => (match c.running with | some r => mine r | none => false)
    | none => false
  if v.run.reps < i.count then
    let more (r : Run) : Run := if mine r then { r with reps := r.reps + 1 } else r
    if onCore then s.modCore v.core (fun c => { c with running := c.running.map more })
    else s.modCore v.core (fun c => { c with paused := c.paused.map more })
  else if onCore then s.retire v.core i.last
  else
    let go (l : List Run) : List Run :=
      if i.last then l.filter (fun r => !(mine r))
      else l.map (fun r => if mine r then { r with pc := r.pc + 1, bar := none, reps := 0 } else r)
    s.modCore v.core (fun c => { c with paused := go c.paused })

/-- The bytes of A that a core sends (R232). -/
def State.barData (s : State) (v : Env) (i : TInstr) : Except Trap (List Byte) :=
  match v.get i.srcA i.repA v.run.reps with
  | .error t => .error t
  | .ok o =>
    match mapRows (s.rowOf v o) (List.range o.d.rows) with
    | .error t => .error t
    | .ok rows => .ok (rows.flatten)

/-- Writes bytes from a slot of DST on: slot n is row n. -/
def State.barStore (s : State) (v : Env) (i : TInstr) (slot : Nat) (bs : List Byte) : Except Trap State :=
  match v.get i.dst i.repDst v.run.reps with
  | .error t => .error t
  | .ok o => s.writeSpace v o.d.space (o.at_ + slot * o.d.stride) bs

/-- Writes gathered slots in ascending rank. -/
def State.barStores (s : State) (v : Env) (i : TInstr) (l : List (Nat × List Byte)) : Except Trap State :=
  match l with
  | [] => .ok s
  | (n, bs) :: r =>
    match s.barStore v i n bs with
    | .error t => .error t
    | .ok s1 => s1.barStores v i r

/-- What a core at a barrier does when it looks at it: it completes, it goes on waiting in a changed or unchanged state, or it
traps. -/
inductive BarLook where
  | pass (s : State)
  | wait (s : State)
  | trap (t : Trap)

/-- Sync (R232): the core arrives; it completes once every core of the group has arrived. -/
def State.lookSync (s : State) (v : Env) (i : TInstr) : BarLook :=
  let k := v.barKey i
  let b := s.barOf k
  let all := v.run.d.group.all (fun g => g == v.core || b.arrived.contains g)
  let here := if b.arrived.contains v.core then b.arrived else v.core :: b.arrived
  if b.slots.has v.core then .wait s
  else if !all then .wait (s.setBar k { b with arrived := here })
  else
    -- the last to go on forgets the barrier
    let gone := b.slots.set v.core []
    if v.run.d.group.all (fun g => gone.has g) then .pass (s.setBar k ⟨[], []⟩)
    else .pass (s.setBar k ⟨here, gone⟩)

/-- Gather (R232): each core sends A to slot rank of the lead; a core other than the lead completes when its data is accepted,
the lead when every slot is filled. -/
def State.lookGather (s : State) (v : Env) (i : TInstr) : BarLook :=
  let k := v.barKey i
  let b := s.barOf k
  let rank := v.run.d.rank v.core
  let isLead := v.core == v.run.d.leadOf
  let sent : Except Trap Barrier :=
    if b.slots.has rank then .ok b
    else match s.barData v i with
      | .error t => .error t
      | .ok bs => .ok { b with slots := b.slots.set rank bs }
  match sent with
  | .error t => .trap t
  | .ok b1 =>
    if !isLead then (if b.slots.has rank then .wait s else .pass (s.setBar k b1))
    else if b1.slots.length < v.run.d.size then .wait (s.setBar k b1)
    else
      match s.barStores v i (sortBy (fun (x y : Nat × List Byte) => decide (x.1 < y.1)) b1.slots) with
      | .error t => .trap t
      | .ok s1 => .pass (s1.setBar k ⟨[], []⟩)

/-- Broadcast (R232): the lead sends A; each core completes when the data is in its DST. -/
def State.lookBroadcast (s : State) (v : Env) (i : TInstr) : BarLook :=
  let k := v.barKey i
  let b := s.barOf k
  let took (a : State) (b : Barrier) : State :=
    let t := v.core :: b.arrived
    if v.run.d.group.all (fun g => t.contains g) then a.setBar k ⟨[], []⟩ else a.setBar k { b with arrived := t }
  if v.core = v.run.d.leadOf then
    if !b.slots.isEmpty then .wait s
    else match s.barData v i with
      | .error t => .trap t
      | .ok bs =>
        match s.barStore v i 0 bs with
        | .error t => .trap t
        | .ok s1 => .pass (took s1 { b with slots := [(0, bs)] })
  else
    match b.slots.get? 0 with
    | none => .wait s
    | some bs =>
      if b.arrived.contains v.core then .wait s
      else match s.barStore v i 0 bs with
        | .error t => .trap t
        | .ok s1 => .pass (took s1 b)

/-- The look of a core at its barrier, by the BAR's mode. -/
def State.look (s : State) (v : Env) (i : TInstr) : BarLook :=
  if i.mode = 0 then s.lookSync v i else if i.mode = 1 then s.lookGather v i else s.lookBroadcast v i

/-- Lets each core of a group that waits at a barrier look at it once. -/
def State.lookRound (s : State) (p ctx : Nat) (key : Nat × Nat) (es : List Nat) : State :=
  match es with
  | [] => s
  | e :: r =>
    match s.waiterAt p ctx key e with
    | none => s.lookRound p ctx key r
    | some (v, i) =>
      match s.look v i with
      | .pass s1 => (s1.passBar v i).lookRound p ctx key r
      | .wait s1 => s1.lookRound p ctx key r
      | .trap t => s.trapCore v t

/-- Rounds until every core that can go on has gone on: one that goes on is no longer at the barrier. -/
def State.lookRounds (s : State) (p ctx : Nat) (key : Nat × Nat) (es : List Nat) (n : Nat) : State :=
  match n with
  | 0 => s
  | n + 1 => (s.lookRound p ctx key es).lookRounds p ctx key es n

/-- A BAR is issued (R232, R233): the core arrives, and whoever can go on goes on. -/
def State.arriveBar (s : State) (e : Nat) (i : TInstr) (ok : CtxImage → Bool) : State :=
  match s.issuer e with
  | none => s
  | some v =>
    if !(s.standsAt v 0x0C i && ok v.img) then s
    else
      let s1 := s.modCore e (fun c => { c with running := c.running.map (fun r => { r with bar := some i }) })
      let es := sortBy (fun (a b : Nat) => decide (a < b)) v.run.d.group.eraseDups
      s1.lookRounds v.part v.run.d.ctx (v.barKey i) es ((es.length + 2) * (i.count % 65536 + 1))

/-- BAR_TIMEOUT (R235): the count runs while the waiting program holds its core. -/
def doBarTimeout (e : Nat) (s : State) : State :=
  match s.env e with
  | none => s
  | some v =>
    match v.run.bar with
    | none => s
    | some _ => s.trapCore v { cause := 2, addr := 0 }

end Sys2Proof.Machine
end

