-- ==== Sys2Proof/Machine/CoreOps.lean ====
section
/-!
DEFINITION. The operations of tile programs (06_cores.md R212 to R215, R220, R221, R226 to R235).
-/

namespace Sys2Proof.Machine

open Sys2Proof

/-- Sequencing of readings that may trap. -/
def andThen {α β : Type} (x : Except Trap α) (f : α → Except Trap β) : Except Trap β :=
  match x with
  | .ok a => f a
  | .error t => .error t

/-- The element of a matrix. -/
def cell (m : List (List Nat)) (r c : Nat) : Nat := nthD (nthD m r []) c 0

/-- Columns of a matrix of so many columns as rows. -/
def transpose (cols : Nat) (m : List (List Nat)) : List (List Nat) :=
  (List.range cols).map (fun c => m.map (fun row => nthD row c 0))

/-- Pairs of neighbours of a list. -/
def pairUp (l : List Nat) : List (Nat × Nat) :=
  match l with
  | a :: b :: r => (a, b) :: pairUp r
  | _ => []

-- MMUL (R212, R213, R230) ------------------------------------------------------------------------------------------------

/-- The rows of B as the feed of R158 gives them: keys or values of a work-list tile, else the rows quantised to FP8. -/
def State.fedRows (s : State) (v : Env) (o : Operand) : Except Trap (List (List Nat)) :=
  andThen (s.matrix v o) (fun rows =>
    let plain := rows.map fp8Feed
    if o.d.space ≠ .tile then .ok plain
    else
      match v.run.d.work[o.entry]? with
      | none => .ok plain
      | some l =>
        match s.tiles.get? l with
        | none => .ok plain
        | some t =>
          let half := t.geom.p * t.geom.kb
          let isKey := decide (o.at_ < half)
          let first := (if isKey then o.at_ else o.at_ - half) / Nat.max 1 t.geom.kb
          .ok ((List.range o.d.rows).map (fun i =>
            match t.positions[first + i]? with
            | some x => if isKey then keyFeed t.geom v.img.rotary t.layer x else valueFeed t.geom x
            | none => List.replicate o.d.cols 0)))

/-- The FP32 products that one element accumulates (R213). What a product of binary rows accumulates is not stated: a BCMP compares, an
MMUL does not say (DESIGN CHOICE, log entry 62); it is a free value. -/
def elemProds (binary : Bool) (a b : List Nat) : List Nat :=
  if binary then [Config.fp32Sum 63 (a ++ b) % 2 ^ 32] else f32Prods a b

/-- The epilogue of one element (R230): the products, the earlier DST element, the C element. -/
def epilogue (mode imm : Nat) (prods : List Nat) (dst c : Nat) : Nat :=
  let r := f32SumFree 50 prods
  match mode % 8 with
  | 1 => f32SumFree 50 (dst :: prods)
  | 2 => f32Mul r imm
  | 3 => f32Mul (f32Silu r) c
  | 4 => f32Mul (f32Gelu r) c
  | 5 => f32Add r c
  | _ => r

/-- One repetition of MMUL. -/
def runMmul (i : TInstr) (s : State) (v : Env) (k : Nat) : Except Trap State :=
  andThen (v.get i.dst i.repDst k) (fun d =>
  andThen (v.get i.srcA i.repA k) (fun a =>
  andThen (v.get i.srcB i.repB k) (fun b =>
  andThen (s.matrix v a) (fun ma =>
  andThen (if bitOf i.mode 4 then s.fedRows v b else s.matrix v b) (fun mb =>
  andThen (if i.mode % 8 = 1 then s.matrix v d else .ok []) (fun md =>
  andThen (if i.srcC = 0xFFF then .ok [] else andThen (v.get i.srcC false k) (s.matrix v)) (fun mc =>
    let cols := if bitOf i.mode 5 then mb else transpose b.d.cols mb
    let out := (ma.zipIdx).map (fun row => (cols.zipIdx).map (fun col =>
      epilogue i.mode i.imm.toNat (elemProds (v.img.typeOf i.srcA == 9) row.1 col.1) (cell md row.2 col.2) (cell mc row.2 col.2)))
    s.putMatrix v d out)))))))

/-- MMUL (R230). -/
def doMmul (e : Nat) (i : TInstr) (s : State) : State := s.issue e 0x01 i (fun x => x.okMmul i) (runMmul i)

-- SMAX (R137, R230) ----------------------------------------------------------------------------------------------------------

/-- The partial pair of a row: its largest score and the sum of exponentials (R137 pass 1). -/
def partialPair (xs : List Nat) : List Nat :=
  let m := f32Max xs
  [m, f32SumFree 21 (xs.map (fun x => f32Exp (f32Sub x m)))]

/-- SMAX mode 0: the partial pairs of the rows of DST, into A in row order. -/
def runSmaxPartial (i : TInstr) (s : State) (v : Env) (k : Nat) : Except Trap State :=
  andThen (v.get i.dst i.repDst k) (fun d =>
  andThen (v.get i.srcA i.repA k) (fun a =>
  andThen (s.matrix v d) (fun rows =>
    s.putMatrix v a (chunks a.d.cols (rows.flatMap partialPair)))))

/-- SMAX mode 1: normalises the rows of DST in place with the pairs of A. -/
def runSmaxNormalise (i : TInstr) (s : State) (v : Env) (k : Nat) : Except Trap State :=
  andThen (v.get i.dst i.repDst k) (fun d =>
  andThen (v.get i.srcA i.repA k) (fun a =>
  andThen (s.matrix v d) (fun rows =>
  andThen (s.matrix v a) (fun pairs =>
    let ps := pairUp pairs.flatten
    s.putMatrix v d ((rows.zipIdx).map (fun row =>
      let p := nthD ps row.2 (0, f32One)
      normalise p.1 p.2 row.1))))))

/-- The pair of a row over the slots, in slot order (R137 exchange, R234). -/
def combinePairs (ps : List (Nat × Nat)) : List Nat :=
  let m := f32Max (ps.map (·.1))
  [m, f32SumOrdered (ps.map (fun p => f32Mul p.2 (f32Exp (f32Sub p.1 m))))]

/-- SMAX mode 2: row n of A holds the pairs of slot n, one for each row; DST takes one pair for each row. -/
def runSmaxCombine (i : TInstr) (s : State) (v : Env) (k : Nat) : Except Trap State :=
  andThen (v.get i.dst i.repDst k) (fun d =>
  andThen (v.get i.srcA i.repA k) (fun a =>
  andThen (s.matrix v a) (fun slots =>
    let ps := slots.map pairUp
    let out := (List.range (a.d.cols / 2)).flatMap (fun r => combinePairs (ps.map (fun sl => nthD sl r (0, 0))))
    s.putMatrix v d (chunks d.d.cols out))))

/-- SMAX mode 0. -/
def doSmaxPartial (e : Nat) (i : TInstr) (s : State) : State := s.issue e 0x02 i (fun x => x.okSmax i 0) (runSmaxPartial i)
/-- SMAX mode 1. -/
def doSmaxNormalise (e : Nat) (i : TInstr) (s : State) : State := s.issue e 0x02 i (fun x => x.okSmax i 1) (runSmaxNormalise i)
/-- SMAX mode 2. -/
def doSmaxCombine (e : Nat) (i : TInstr) (s : State) : State := s.issue e 0x02 i (fun x => x.okSmax i 2) (runSmaxCombine i)

-- ROT (R142, R143) --------------------------------------------------------------------------------------------------------------

/-- One repetition of ROT: the rows of DST turn at the positions of A, by the context's rotary descriptor. A program that holds
a ROT rotates whatever the layer. -/
def runRot (i : TInstr) (s : State) (v : Env) (k : Nat) : Except Trap State :=
  andThen (v.get i.dst i.repDst k) (fun d =>
  andThen (v.get i.srcA i.repA k) (fun a =>
  andThen (s.matrix v d) (fun rows =>
  andThen (mapRows (s.patterns v a) (List.range a.d.rows)) (fun ps =>
    let at_ (n : Nat) : Nat := let w := nthD ps.flatten n 0; if i.mode = 1 then w % 2 ^ 20 else w
    let rot := { v.img.rotary with layers := [0] }
    s.putMatrix v d ((rows.zipIdx).map (fun row => rotateVec rot 0 (at_ row.2) row.1))))))

/-- ROT (R230). -/
def doRot (e : Nat) (i : TInstr) (s : State) : State := s.issue e 0x03 i (fun x => x.okRot i) (runRot i)

-- QNT, DQNT (R91, R221) ------------------------------------------------------------------------------------------------------------

/-- QMAX of a QNT: IMM when it is non-zero, else the type's. -/
def qmaxOf (t imm : Nat) : Val := if imm = 0 then .ofNat (typeElem t).qmax else v32 imm

/-- The scale of a block with a given QMAX, in the scales' format (R91): the smallest scale at or above amax / QMAX, at most the
format's largest; a QMAX that is no positive number leaves it open (log entry 26). -/
def scaleFor (fmt : Fmt) (qmax : Val) (xs : List Nat) : Nat :=
  let amax := xs.foldl (fun acc x => let a := x % 2 ^ 31; if f32Lt acc a then a else acc) 0
  match v32 amax, qmax with
  | .fin _ n d, .fin neg qn qd =>
    if n = 0 then 0
    else if neg || qn == 0 then Config.fp32Sum 62 [amax] % fmt.maxFin
    else Nat.min fmt.maxFin (fmt.roundMag .up (n * qd) (d * qn))
  | _, .fin _ _ _ => fmt.maxFin
  | _, _ => Config.fp32Sum 62 [amax] % fmt.maxFin

/-- A block's elements under a scale (R91, R221). -/
def scaleBlock (e : Elem) (sv : Val) (zero : Bool) (xs : List Nat) : List Nat :=
  xs.map (fun x => if zero ∨ v32 x = .nan then 0 else e.nearest ((v32 x).div sv))

/-- Quantises a row into an operand's type and scales: element patterns and scale bytes. -/
def quantRow (d : Desc) (imm : Nat) (xs : List Nat) : List Nat × List Byte :=
  let e := typeElem d.type
  let q := qmaxOf d.type imm
  if d.scaling = 1 then
    let bs := (chunks 32 xs).map (fun b =>
      let sc := scaleFor e4m3 q b
      (sc, scaleBlock e (e4m3.decode sc) (sc == 0) b))
    (bs.flatMap (·.2), bs.map (fun b => BitVec.ofNat 8 b.1))
  else if d.scaling = 2 then
    let sc := scaleFor fp32 q xs
    (scaleBlock e (v32 sc) (sc == 0) xs, leBytes 4 sc)
  else (scaleBlock e (.ofNat 1) false xs, [])

/-- Quantises rows in order. -/
def putQuant (i : TInstr) (v : Env) (d : Operand) (s : State) (r : Nat) (xs : List Nat) : Except Trap State :=
  let q := quantRow d.d i.imm.toNat (xs.take d.d.cols)
  andThen (s.putPatterns v d r q.1) (fun s1 =>
    if q.2.isEmpty then .ok s1
    else s1.writeSpace v d.d.space (d.scale + r * d.d.scaleBytes) q.2)

/-- One repetition of QNT; NaNs are counted in COR_NAN (R221). -/
def runQnt (i : TInstr) (s : State) (v : Env) (k : Nat) : Except Trap State :=
  andThen (v.get i.dst i.repDst k) (fun d =>
  andThen (v.get i.srcA i.repA k) (fun a =>
  andThen (s.matrix v a) (fun rows =>
    let rows := rows.take d.d.rows
    let nans := (rows.flatMap (fun r => (r.take d.d.cols).filter (fun w => v32 w == .nan))).length
    andThen (s.putRows v d 0 (putQuant i v d) rows) (fun s1 =>
      .ok (if nans = 0 then s1 else s1.bump Fld.COR_NAN_COUNT v.core nans)))))

/-- QNT (R230). -/
def doQnt (e : Nat) (i : TInstr) (s : State) : State := s.issue e 0x04 i (fun x => x.okQnt i) (runQnt i)

/-- One repetition of DQNT. -/
def runDqnt (i : TInstr) (s : State) (v : Env) (k : Nat) : Except Trap State :=
  andThen (v.get i.dst i.repDst k) (fun d =>
  andThen (v.get i.srcA i.repA k) (fun a =>
  andThen (s.matrix v a) (fun rows => s.putMatrix v d rows)))

/-- DQNT (R230). -/
def doDqnt (e : Nat) (i : TInstr) (s : State) : State := s.issue e 0x05 i (fun x => x.okDqnt i) (runDqnt i)

-- GATH, SCAT, MOVE (R229, R231) ----------------------------------------------------------------------------------------------------

/-- Copies row r of one operand to row q of another, with its scales where both have scales of one kind. -/
def copyRow (v : Env) (a d : Operand) (s : State) (r q : Nat) : Except Trap State :=
  andThen (s.rowOf v a r) (fun bs =>
  andThen (s.writeSpace v d.d.space (d.at_ + q * d.d.stride) (bs.take d.d.rowBytes)) (fun s1 =>
    if a.d.scaling = 0 ∨ a.d.scaling ≠ d.d.scaling then .ok s1
    else andThen (s.readSpace v a.d.space a.entry (a.scale + r * a.d.scaleBytes) a.d.scaleBytes) (fun sc =>
      s1.writeSpace v d.d.space (d.scale + q * d.d.scaleBytes) (sc.take d.d.scaleBytes))))

/-- Writes zeros into a row of an operand. -/
def zeroRow (v : Env) (d : Operand) (s : State) (q : Nat) : Except Trap State :=
  s.writeSpace v d.d.space (d.at_ + q * d.d.stride) (List.replicate d.d.rowBytes 0)

/-- Gathers rows: row n of DST from the row of A that an index names. -/
def gathRows (v : Env) (a d : Operand) (s : State) (n : Nat) (idx : List Nat) : Except Trap State :=
  match idx with
  | [] => .ok s
  | x :: r =>
    if d.d.rows ≤ n then .ok s
    else
      let one : Except Trap State :=
        if x = 0xFFFFFFFF then zeroRow v d s n
        else if a.d.rows ≤ x then .error { cause := 1, addr := a.at_ + x * a.d.stride }
        else copyRow v a d s x n
      andThen one (fun s1 => gathRows v a d s1 (n + 1) r)

/-- One repetition of GATH. -/
def runGath (i : TInstr) (s : State) (v : Env) (k : Nat) : Except Trap State :=
  andThen (v.get i.dst i.repDst k) (fun d =>
  andThen (v.get i.srcA i.repA k) (fun a =>
  andThen (v.get i.srcB i.repB k) (fun b =>
  andThen (mapRows (s.patterns v b) (List.range b.d.rows)) (fun idx => gathRows v a d s 0 idx.flatten))))

/-- GATH (R230, R231). -/
def doGath (e : Nat) (i : TInstr) (s : State) : State := s.issue e 0x06 i (fun x => x.okGath i .dest) (runGath i)

/-- Scatters rows in index order, so that the later of two that share an index stays. -/
def scatRows (v : Env) (a d : Operand) (s : State) (n : Nat) (idx : List Nat) : Except Trap State :=
  match idx with
  | [] => .ok s
  | x :: r =>
    if a.d.rows ≤ n then .ok s
    else
      let one : Except Trap State :=
        if x = 0xFFFFFFFF then .ok s
        else if d.d.rows ≤ x then .error { cause := 1, addr := d.at_ + x * d.d.stride }
        else copyRow v a d s n x
      andThen one (fun s1 => scatRows v a d s1 (n + 1) r)

/-- One repetition of SCAT. -/
def runScat (i : TInstr) (s : State) (v : Env) (k : Nat) : Except Trap State :=
  andThen (v.get i.dst i.repDst k) (fun d =>
  andThen (v.get i.srcA i.repA k) (fun a =>
  andThen (v.get i.srcB i.repB k) (fun b =>
  andThen (mapRows (s.patterns v b) (List.range b.d.rows)) (fun idx => scatRows v a d s 0 idx.flatten))))

/-- SCAT (R230, R231). -/
def doScat (e : Nat) (i : TInstr) (s : State) : State := s.issue e 0x07 i (fun x => x.okGath i .anyDest) (runScat i)

/-- Copies the rows that both operands have. -/
def moveRows (v : Env) (a d : Operand) (s : State) (rs : List Nat) : Except Trap State :=
  match rs with
  | [] => .ok s
  | r :: rest => andThen (copyRow v a d s r r) (fun s1 => moveRows v a d s1 rest)

/-- One repetition of MOVE: a copy where the types are the same, else a conversion. -/
def runMove (i : TInstr) (s : State) (v : Env) (k : Nat) : Except Trap State :=
  andThen (v.get i.dst i.repDst k) (fun d =>
  andThen (v.get i.srcA i.repA k) (fun a =>
    if a.d.type = d.d.type then moveRows v a d s (List.range (Nat.min a.d.rows d.d.rows))
    else andThen (s.matrix v a) (fun rows => s.putMatrix v d rows)))

/-- MOVE (R230). -/
def doMove (e : Nat) (i : TInstr) (s : State) : State := s.issue e 0x09 i (fun x => x.okMove i) (runMove i)

-- RED, BCMP, TOPK --------------------------------------------------------------------------------------------------------------------

/-- The smallest of FP32 patterns; a NaN where one is among them (R221). -/
def f32Min (ts : List Nat) : Nat :=
  if hasNan ts then 0x7FC00000 else ts.foldl (fun acc t => if f32Lt t acc then t else acc) 0x7F800000

/-- A reduction of values (R230). -/
def reduce (op : Nat) (xs : List Nat) : Nat :=
  match op with
  | 0 => f32SumFree 51 xs
  | 1 => f32Max xs
  | 2 => f32Min xs
  | _ => f32Div (f32SumFree 51 xs) (fp32.encode (.ofNat xs.length))

/-- One repetition of RED: one value for each row, or one for each column, in order. -/
def runRed (i : TInstr) (s : State) (v : Env) (k : Nat) : Except Trap State :=
  andThen (v.get i.dst i.repDst k) (fun d =>
  andThen (v.get i.srcA i.repA k) (fun a =>
  andThen (s.matrix v a) (fun rows =>
    let lines := if bitOf i.mode 0 then transpose a.d.cols rows else rows
    s.putMatrix v d (chunks d.d.cols (lines.map (reduce (bitsOf i.mode 2 1)))))))

/-- RED (R230). -/
def doRed (e : Nat) (i : TInstr) (s : State) : State := s.issue e 0x08 i (fun x => x.okRed i) (runRed i)

/-- The number of bits in which two rows differ (R214). -/
def bitDistance (a b : List Nat) : Nat := ((a.zip b).filter (fun p => p.1 != p.2)).length

/-- One repetition of BCMP. -/
def runBcmp (i : TInstr) (s : State) (v : Env) (k : Nat) : Except Trap State :=
  andThen (v.get i.dst i.repDst k) (fun d =>
  andThen (v.get i.srcA i.repA k) (fun a =>
  andThen (v.get i.srcB i.repB k) (fun b =>
  andThen (mapRows (s.patterns v a) (List.range a.d.rows)) (fun ra =>
  andThen (mapRows (s.patterns v b) (List.range b.d.rows)) (fun rb =>
    s.putRows v d 0 (fun st r xs => st.putPatterns v d r xs)
      ((ra.map (fun x => rb.map (bitDistance x))).take d.d.rows))))))

/-- BCMP (R214, R230). -/
def doBcmp (e : Nat) (i : TInstr) (s : State) : State := s.issue e 0x0A i (fun x => x.okBcmp i) (runBcmp i)

/-- The n largest values of a row with their columns (R230): ties to the lower index; values descending, or ascending. -/
def topValues (n : Nat) (ascending : Bool) (xs : List Nat) : List (Nat × Nat) :=
  let best := (sortBy (fun (a b : Nat × Nat) => f32Lt b.1 a.1 || (!(f32Lt a.1 b.1) && decide (a.2 < b.2))) xs.zipIdx).take n
  if ascending then sortBy (fun (a b : Nat × Nat) => f32Lt a.1 b.1 || (!(f32Lt b.1 a.1) && decide (a.2 < b.2))) best else best

/-- One repetition of TOPK. -/
def runTopk (i : TInstr) (s : State) (v : Env) (k : Nat) : Except Trap State :=
  andThen (v.get i.dst i.repDst k) (fun d =>
  andThen (v.get i.srcA i.repA k) (fun a =>
  andThen (v.get i.srcC false k) (fun c =>
  andThen (s.matrix v a) (fun rows =>
    let tops := rows.map (topValues i.imm.toNat (i.mode == 1))
    andThen (s.putMatrix v d (tops.map (fun (t : List (Nat × Nat)) => t.map (·.1)))) (fun s1 =>
      s1.putRows v c 0 (fun st r xs => st.putPatterns v c r xs) ((tops.map (fun (t : List (Nat × Nat)) => t.map (·.2))).take c.d.rows))))))

/-- TOPK (R230). -/
def doTopk (e : Nat) (i : TInstr) (s : State) : State := s.issue e 0x0B i (fun x => x.okTopk i) (runTopk i)

-- BAR (R232 to R235) --------------------------------------------------------------------------------------------------------------------

/-- BAR mode 0. -/
def doBarSync (e : Nat) (i : TInstr) (s : State) : State := s.arriveBar e i (fun x => x.okSync i)
/-- BAR mode 1. -/
def doBarGather (e : Nat) (i : TInstr) (s : State) : State := s.arriveBar e i (fun x => x.okExchange i 1)
/-- BAR mode 2. -/
def doBarBroadcast (e : Nat) (i : TInstr) (s : State) : State := s.arriveBar e i (fun x => x.okExchange i 2)

end Sys2Proof.Machine
end

