-- ==== Sys2Proof/Machine/Peers.lean ====
section
/-!
DEFINITION. The peer table in use and its losses, composition maps as commands, meters
(17_solvor_messages_and_compositions.md R586 to R606).
-/

namespace Sys2Proof.Machine

open Sys2Proof

-- Peers in use (R589, R592) ----------------------------------------------------------------------------------------------

/-- Whether a running request names a peer as front or range partner. -/
def State.reqNames (s : State) (q : Req) (id : Word64) : Bool :=
  match s.mapOf q.comp q.epoch with
  | some m => m.names id
  | none => false

/-- Whether a peer produces a handoff (R463): it has pushed, or it is the front that pushes are due from. -/
def State.produces (s : State) (i slot : Nat) (h : Handoff) : Bool :=
  let ce := s.handoffEpoch slot
  let front := match s.mapOf ce.1 ce.2 with
    | some m => (match s.frontOf m slot with | some (j, _) => j == i | none => false)
    | none => false
  let fb := match s.req slot with | some q => q.onFallback | none => false
  h.peers.contains i || (front && !fb)

/-- Whether a request is past its admission checks and not over. -/
def Req.runs (q : Req) : Bool := q.wait.isNone && q.phase != Phase.ending && q.phase != Phase.queued

/-- BUSY of a peer (R589): requests that name it, handoffs it produces, moves with it, pulls to it. -/
def State.busyOf (s : State) (i : Nat) : Nat :=
  match s.peers.get? i with
  | none => 0
  | some x =>
    (s.reqs.filter (fun kv => kv.2.runs && s.reqNames kv.2 x.id)).length
    + (s.handoffs.filter (fun kv => s.produces i kv.1 kv.2)).length
    + (s.movesOut.filter (fun kv => kv.2.peer == i)).length + (s.movesIn.filter (fun kv => kv.2.peer == i)).length
    + (s.pulls.filter (fun w => w.peer == i)).length

/-- Whether a running request depends on a peer that is being lost (R592): the peer is its front, or the last admitted partner of
some range. The state is the one before the loss. -/
def State.dependsOn (s : State) (q : Req) (i : Nat) (x : Peer) : Bool :=
  if q.onFallback then false
  else
    match s.mapOf q.comp q.epoch with
    | none => false
    | some m =>
      (match s.frontOf m q.slot with | some (j, _) => j == i | none => false)
      || m.ranges.any (fun r => r.peers.contains x.id && r.peers.all (fun id =>
          match s.peerOfId id m.part with | some (j, _) => j == i | none => true))

/-- The deadline monitor acts on a request that lost its partner (R592): it switches where the session binds a fallback context,
else it ends with PEER/link-down. -/
def State.lostPartner (s : State) (slot : Nat) : State :=
  match s.req slot with
  | none => s
  | some q =>
    match q.maySwitch, s.fallbackOf slot with
    | true, .ready c f => s.switchReq slot q (c, f)
    | _, _ => s.endReq slot .peerLinkDown

/-- A peer is lost (R592): its entry is cleared; handoffs that it produces end first (R463, R604), then requests that depend on it
switch or end; a move to it aborts (R203); a move from it fails once its epoch is current (R204), and else ends by its pulls
(R603). -/
def State.losePeer (s : State) (i : Nat) : State :=
  match s.peers.get? i with
  | none => s
  | some x =>
    let hs := (s.handoffs.filter (fun kv => s.produces i kv.1 kv.2)).map (·.1)
    let rs := (s.reqs.filter (fun kv => kv.2.runs && s.dependsOn kv.2 i x)).map (·.1)
    let outs := (s.movesOut.filter (fun kv => kv.2.peer == i)).map (·.1)
    let ins := (s.movesIn.filter (fun kv => kv.2.peer == i)).map (·.1)
    let s := { s with
      peers := s.peers.erase i
      sec := { s.sec with hops := s.sec.hops.filter (fun h => h != (x.port, x.fabric)) } }
    let s := hs.foldl (fun (a : State) n => a.failHandoff n .peerPrefillLost) s
    let s := rs.foldl (fun (a : State) n => match a.req n with
      | some q => if q.runs then a.lostPartner n else a
      | none => a) s
    let s := outs.foldl (fun (a : State) n => match a.movesOut.get? n with
      | some m => a.abortMove n m.prior .peerMoveAborted
      | none => a) s
    let s := ins.foldl (fun (a : State) n =>
      match a.movesIn.get? n with
      | none => a
      | some m =>
        if a.epochReached m.comp m.epoch then a.sourceLost n .peerLinkDown
        else { a with movesIn := a.movesIn.set n { m with peer := 4096 } }) s
    x.asks.foldl (fun (a : State) o => a.completeFor o .peerLinkDown) s

/-- Peers that a port reaches, in table order. -/
def State.peersOn (s : State) (n : Nat) : List Nat := (s.peers.filter (fun kv => kv.2.port == n)).map (·.1)

-- Management messages of admitted peers (R586, R591, R592) --------------------------------------------------------------------

/-- LEAVE (R592). -/
def doLeave (h : Hdr) (s : State) : State := s.receive h 9 false (some 36) (fun i _ t => t.losePeer i)

/-- PING (R586). -/
def doPing (h : Hdr) (s : State) : State := s.receive h 9 false (some 36) (fun _ _ t => t.answerMsg h .bg (.ping true))

/-- PING answered (R592): any message of a peer ends its silence. -/
def doPingResponse (h : Hdr) (s : State) : State := s.receive h 9 true (some 36) (fun _ _ t => t)

/-- PING_TIMER (R592): after PING_MS of silence a PING, after three unanswered ones the loss. -/
def doPingTimer (i : Nat) (s : State) : State :=
  match s.peers.get? i with
  | none => s
  | some x =>
    if x.state ≠ .admitted then s
    else if 3 ≤ x.pings then s.losePeer i
    else { s with peers := s.peers.set i { x with pings := x.pings + 1 } }.sendTo i 0 0 0 0 0 .bg (.ping false)

-- Composition maps (R593 to R597) ---------------------------------------------------------------------------------------------

/-- Whether a map is well-formed (R594). -/
def CMap.ok (m : CMap) : Bool :=
  m.resv == 0 && m.bytes == 64 + 8 * m.fronts.length + 40 * m.ranges.length + 8 * m.devices.length + 24 * m.moves.length
    && decide (1 ≤ m.comp) && decide (m.comp ≤ 0xFFFF) && decide (m.part ≤ 15)
    && decide (1 ≤ m.fronts.length) && decide (m.fronts.length ≤ 16)
    && decide (m.ranges.length ≤ 64) && decide (m.devices.length ≤ 64) && decide (m.moves.length ≤ 4096)
    && m.ranges.all (fun r => decide (1 ≤ r.peers.length) && r.peers.length + r.rest.length == 4 && r.rest.all (fun id => id == 0) && r.resv == 0)

/-- Whether a map is in use (R597): a request admitted under it runs, or a move names its epoch as E. -/
def State.mapUsed (s : State) (comp epoch : Nat) : Bool :=
  s.reqs.any (fun kv => kv.2.wait.isNone && kv.2.comp == comp && kv.2.epoch == epoch)
    || s.movesOut.any (fun kv => (s.ses kv.1).comp == comp && kv.2.epoch == epoch)
    || s.movesIn.any (fun kv => kv.2.comp == comp && kv.2.epoch == epoch)

/-- Whether a composition that is being removed may be freed: nothing uses any of its maps. -/
def State.compIdle (s : State) (c : Comp) : Bool :=
  !(s.reqs.any (fun kv => kv.2.wait.isNone && kv.2.comp == c.id))
    && !(s.movesOut.any (fun kv => (s.ses kv.1).comp == c.id && (c.mapAt kv.2.epoch).isSome))
    && !(s.movesIn.any (fun kv => kv.2.comp == c.id && (c.mapAt kv.2.epoch).isSome))

/-- Releases maps that nothing uses, and compositions whose removal nothing holds up (R596, R597, R604). -/
def State.pruneMaps (s : State) : State :=
  let keep := s.comps.filter (fun kv => !(kv.2.removing && s.compIdle kv.2))
  { s with comps := keep.map (fun (kv : Nat × Comp) =>
      (kv.1, { kv.2 with old := kv.2.old.filter (fun m => s.mapUsed kv.2.id m.epoch) })) }

/-- The checks of R596 for a map that a partition installs, after the map's form. -/
def State.checkMap (s : State) (p : Nat) (m : CMap) : Option Status :=
  if !m.ok || m.part != p then some .configMap
  else
    match s.compById m.comp with
    | none =>
      if s.comps.any (fun kv => kv.2.part == m.part && kv.2.main == m.main) then some .configMap
      else if 256 ≤ s.comps.length then some .limitCompositions
      else none
    | some c =>
      if c.removing then some .configCompositionUnknown
      else if c.part != m.part || c.main != m.main then some .configMap
      else if !(epochNewer m.epoch c.cur.epoch) then some .configMap
      else if (c.cur :: c.old).any (fun o => decide (2 ^ 31 ≤ (m.epoch + 2 ^ 32 - o.epoch) % 2 ^ 32)) then some .limitEpochWindow
      else if 8 ≤ c.old.length + 1 then some .limitMaps
      else none

/-- Installs a map that passed its checks. -/
def State.putMap (s : State) (m : CMap) : State :=
  match s.comps.find? (fun kv => kv.2.id == m.comp) with
  | some (k, c) => { s with comps := s.comps.set k { c with cur := m, old := c.cur :: c.old } }
  | none =>
    match (List.range 256).find? (fun k => !(s.comps.has k)) with
    | some k => { s with comps := s.comps.set k ⟨m.comp, m.part, m.main, m, [], false, 0, 0, 0⟩ }
    | none => s

/-- CMP_INSTALL (R596, R600); moves that wait for the epoch may commit (R601). -/
def doCmpInstall (u : Sub) (m : CMap) (s : State) : State :=
  let s := s.pruneMaps
  match s.checkMap (s.subPart u) m with
  | some st => s.complete u st
  | none =>
    let s1 := (s.putMap m).pruneMaps
    ((s1.movesOut.map (·.1)).foldl (fun (a : State) n => a.tryMove n) s1).complete u .ok

/-- CMP_REMOVE (R596): the composition accepts no new request; it is freed when its last request and move have ended. -/
def doCmpRemove (u : Sub) (id : Nat) (s : State) : State :=
  match s.compOf (s.subPart u) id with
  | none => s.complete u .configCompositionUnknown
  | some c =>
    ({ s with comps := s.comps.map (fun (kv : Nat × Comp) =>
        if kv.2.id = c.id then (kv.1, { kv.2 with removing := true }) else kv) }.pruneMaps).complete u .ok

-- Meters (R605, R606) -----------------------------------------------------------------------------------------------------------

/-- Whether a context is one of a composition (R593, R606): its main context, that context's fallback, or an expert context, which counts
for the partition's first composition. -/
def State.ctxFor (s : State) (c : Comp) (p n : Nat) : Bool :=
  p == c.part && (n == c.main
    || (match s.ctx p c.main with | some x => x.img.fallback == n && n != 0x3F | none => false)
    || (match s.ctx p n with
        | some x => x.img.kind == CtxKind.expert && ((s.comps.map (·.2)).find? (fun y => y.part == p)).map (·.id) == some c.id
        | none => false))

/-- Whether a core ran any context of a composition during the tick (R606). -/
def State.runsFor (s : State) (c : Comp) (k : Core) : Bool := k.ran.any (fun x => s.ctxFor c x.1 x.2)

/-- A core at the end of a meter tick: what runs on goes on to count. -/
def Core.nextTick (k : Core) : Core :=
  { k with ran := match k.owner, k.running with | some p, some r => [(p, r.d.ctx)] | _, _ => [] }

/-- Tile frames of the sessions that a composition binds. -/
def State.framesFor (s : State) (c : Comp) : Nat :=
  ((s.sessions.filter (fun kv => kv.2.state != SesState.free && kv.2.comp == c.id && kv.2.part == c.part)).map (fun kv =>
    (kv.2.mortar.entries.filter (fun e => e.2.tier == Tier.lpddr)).length)).sum

/-- One tick of a composition's meters (R605, R606); the fraction is carried exactly. -/
def State.meter (s : State) (c : Comp) : Comp :=
  let w := s.fld Fld.CMP_WEIGHTS_W_CORE c.part
  let f := s.fld Fld.CMP_WEIGHTS_W_FRAME c.part
  let cores := (s.cores.filter (fun kv => s.runsFor c kv.2)).length
  let units := w * cores * 65536 + f * s.framesFor c + c.frac
  { c with elapsed := c.elapsed + 1, weighted := c.weighted + BitVec.ofNat 64 (units / 65536), frac := units % 65536 }

/-- Counts an open amount of an event: how much of it falls into a tick is a matter of time (log entry 23). -/
def State.countOpen (s : State) (e : Nat → PmcEv) : State :=
  let d := s.draw
  d.2.count (e (Config.elapsed d.1))

/-- Whether an event of R751 tells memory or host traffic: how much of it passes the filters of a counter is a matter of time. -/
def trafficCode (code : Nat) : Bool := [0x10, 0x11, 0x12, 0x13, 0x61].contains code

/-- Adds an open amount to a counter that is set to a traffic event and counts (R749, R752, R753). -/
def State.countTraffic (s : State) (sel : Reg) (v : Nat) : State :=
  let part := if sel.cls == .pmcPsel then some sel.i else none
  let frozen := match part with
    | some p => s.pmcFld Fld.PMC_PCTL_FREEZE p
    | none => s.pmcFld Fld.PMC_CTL_FREEZE
  if (sel.cls == .pmcSel || sel.cls == .pmcPsel) && bitOf v 63 && trafficCode (bitsOf v 55 48) && frozen == 0 then
    let d := s.draw
    d.2.pmcAdd part sel (Config.elapsed d.1)
  else s

/-- Time and traffic events of R751 whose amounts are a matter of time: core cycles of owned cores, memory traffic, host traffic
(log entry 23). -/
def State.timeEvents (s : State) : State :=
  let s := s.cores.foldl (fun (a : State) kv =>
    match kv.2.owner with
    | none => a
    | some p =>
      let ctx := kv.2.running.map (fun r => r.d.ctx)
      let c := match ctx with | some x => a.ctxClass p x | none => CtxClass.bg
      let codes := match ctx with
        | none => [1]
        | some x => if x = 63 then [1, 2, 3, 4, 5] else [1, 2, 4, 5]
      codes.foldl (fun (b : State) code =>
        b.countOpen (fun n => { PmcEv.ofPart code n p c with master := some (1, kv.1) })) a) s
  s.pmc.foldl (fun (b : State) rv => b.countTraffic rv.1 rv.2.toNat) s

/-- METER_TICK (R605, R606). -/
def doMeterTick (s : State) : State :=
  if s.boot.phase = .off then s
  else
    let s1 := { s with
      comps := s.comps.map (fun (kv : Nat × Comp) => (kv.1, s.meter kv.2))
      cores := s.cores.map (fun (kv : Nat × Core) => (kv.1, kv.2.nextTick)) }
    s1.tick.timeEvents

end Sys2Proof.Machine
end

