-- ==== Sys2Proof/Machine/Link.lean ====
section
/-!
DEFINITION. Solvor links: training, lanes, recovery, groups that arrive, retry, keys and rekeying
(16_solvor_link_layer.md R530 to R566).
-/

namespace Sys2Proof.Machine

open Sys2Proof

-- Ports (R533, R535, R539) ----------------------------------------------------------------------------------------------

/-- A port that begins to train: nothing held, no keys but the zero key (R539, R559). -/
def Port.fresh (gen : Nat) (st : PortState) : Port :=
  { state := st, gen := gen, order := if st = .train then 1 else 0, second := false, prior := .down, txGood := 0, rxGood := 0,
    txSpare := false, rxSpare := false, txMap := [], rxMap := [], helloIn := false, helloAcked := false, adv := [0, 0, 0, 0],
    freed := [0, 0, 0, 0], sent := [0, 0, 0, 0], freedOut := [0, 0, 0, 0], peerRetry := 128, retry := [], resend := 0,
    nextSeq := 0, expect := 0, acked := 0, nakDue := false, nakOut := false, rewinds := 0, tagFails := 0,
    keys := [(0x1F, ⟨true, 0, 0, true, 0, none, false⟩)], words := [], lastWord := none, mgmt := [], flows := [], vt := 0,
    flast := [], streams := [], gateAt := 0, bwTx := 0, bwRx := 0, tokens := [0, 0, 0],
    rates := [0, 0, 0], rxOpen := [], leftDown := false }

/-- A port with what it keeps over a loss of the link: gates, meters, shapers (R618, R620, R754). -/
def Port.restart (x : Port) (gen : Nat) (st : PortState) : Port :=
  { Port.fresh gen st with
    gateAt := x.gateAt, bwTx := x.bwTx, bwRx := x.bwRx, tokens := x.tokens,
    rates := x.rates, leftDown := x.leftDown }

/-- GEN_MAX of a port (R566): other values act as 2. -/
def State.genMax (s : State) (n : Nat) : Nat := if s.fld Fld.LNK_CFG_GEN_MAX n = 1 then 1 else 2

/-- Reasons of a DOWN word (R548). -/
def downDisabled : Nat := 1
/-- DOWN for lane loss. -/
def downLanes : Nat := 2
/-- DOWN for security. -/
def downSecurity : Nat := 3

/-- A port goes DOWN (R539): unacknowledged groups, queues and keys are gone, its peers are lost, and a UC record of source 7 is
written (R730). `say`: this end sends DOWN; `left`: it is left down, which the start ledger records (R32). -/
def State.portDown (s : State) (n reason : Nat) (say left : Bool) : State :=
  match s.ports.get? n with
  | none => s
  | some x =>
    if x.state = .down then s
    else
      let s := if say then s.put (.linkDown n reason) else s
      let s := if left && !x.leftDown then s.ledger 12 3 0 0 n else s
      let y := { x.restart 0 .down with leftDown := x.leftDown || left }
      let s := { s with
        ports := s.ports.set n y
        sec := { s.sec with hops := s.sec.hops.filter (fun h => h.1 != n) } }
      let s := (s.peersOn n).foldl (fun (a : State) i => a.losePeer i) s
      -- a port that never came up has its failure in the start ledger (R535)
      if (x.state = .train ∨ x.state = .align) ∧ x.keys.length ≤ 1 then s
      else s.record { cls := .uc, source := 7, part := none, location := n, detail := reason }

/-- The port trains from order 1 (R534, R535). -/
def State.trainPort (s : State) (n gen : Nat) (second : Bool) : State :=
  s.modPort n (fun x => { x with state := .train, order := 1, gen := gen, second := second, helloIn := false, helloAcked := false })

/-- An attempt fails (R535): after a first failure at order 1 or 2 one attempt at generation 1; else the port is DOWN, and at S12
the failure goes into the start ledger (R32, R719). -/
def State.failTrain (s : State) (n : Nat) : State :=
  match s.ports.get? n with
  | none => s
  | some x =>
    if !x.second && x.order ≤ 2 then s.trainPort n 1 true
    else
      let s1 := s.portDown n downLanes false false
      match s.boot.phase with
      | .start _ =>
        if s1.boot.trainFails.contains n then s1
        else { s1 with boot := { s1.boot with trainFails := s1.boot.trainFails ++ [n] } }.ledger 12 3 0 0 n
      | _ => s1

/-- A port that went DOWN with more than one failed lane is left down; the ledger records it, at the start by the failure itself (R32). -/
def State.leavePort (s : State) (n : Nat) : State :=
  match s.ports.get? n with
  | none => s
  | some x =>
    if x.state ≠ .down then s
    else
      let t := s.modPort n (fun y => { y with leftDown := true })
      match s.boot.phase with
      | .start _ => t
      | _ => if x.leftDown then t else t.ledger 12 3 0 0 n

/-- TRAIN_SIGNAL_DETECTED (R534 order 1): signal on at least 8 lanes. -/
def doTrainSignalDetected (n lanes : Nat) (s : State) : State :=
  match s.ports.get? n with
  | none => s
  | some x =>
    if x.state = .train ∧ x.order = 1 ∧ 8 ≤ (bitPositions lanes 9).length then
      s.modPort n (fun y => { y with order := 2, rxGood := lanes % 512 })
    else s

/-- TRAIN_EQUALISED (R534 orders 2 and 3, R530): the eight lowest good lanes of each direction become logical lanes 0 to 7. -/
def doTrainEqualised (n txGood rxGood : Nat) (s : State) : State :=
  match s.ports.get? n with
  | none => s
  | some x =>
    if x.state ≠ .train ∨ x.order ≠ 2 then s
    else
      let tx := bitPositions txGood 9
      let rx := bitPositions rxGood 9
      if tx.length < 8 ∨ rx.length < 8 then
        -- more than one failed lane in a direction (R32)
        (s.failTrain n).leavePort n
      else
        s.modPort n (fun y => { y with
          state := .align, order := 4, txGood := txGood % 512, rxGood := rxGood % 512,
          txMap := tx.take 8, rxMap := rx.take 8, txSpare := tx.length == 9, rxSpare := rx.length == 9 })

/-- Queues a control word (R549): one at a time, repeated until acknowledged. -/
def State.sayWord (s : State) (n : Nat) (w : LinkWord) : State :=
  s.modPort n (fun x => { x with words := if x.words.contains w then x.words else x.words ++ [w] })

/-- HELLO of the FC2640 (R550). -/
def helloWord : LinkWord := .hello 2 [64, 128, 2048, 2048] 128

/-- TRAIN_GROUP_LOCK (R534 orders 4 and 5): groups are locked, and HELLO goes out. -/
def doTrainGroupLock (n : Nat) (s : State) : State :=
  match s.ports.get? n with
  | none => s
  | some x =>
    if x.state = .align ∧ x.order = 4 then (s.modPort n (fun y => { y with order := 5 })).sayWord n helloWord else s

/-- TRAIN_TIMEOUT (R534): the order under way has not finished in its time. -/
def doTrainTimeout (n : Nat) (s : State) : State :=
  match s.ports.get? n with
  | none => s
  | some x => if (x.state = .train ∨ x.state = .align) ∧ x.order ≤ 5 then s.failTrain n else s

/-- RETRAIN_TIMER (R535): a port that is DOWN at run time tries again. -/
def doRetrainTimer (n : Nat) (s : State) : State :=
  match s.ports.get? n with
  | none => s
  | some x =>
    let runs := match s.boot.phase with | .start k => decide (12 < k) | .ready => true | _ => false
    if x.state = .down && !x.leftDown && s.flag Fld.LNK_CFG_ENABLE n && runs && !s.err.frozen then
      s.trainPort n (s.genMax n) false
    else s

/-- Both HELLO words are in (R534 order 5): OPEN; a port that kept its link key through a training is SEALED. -/
def State.tryOpen (s : State) (n : Nat) : State :=
  match s.ports.get? n with
  | none => s
  | some x =>
    if x.state = .align ∧ x.order = 5 ∧ x.helloIn ∧ x.helloAcked then
      let keyed := (x.keys.getD 0x10 PortKey.none).txValid
      s.modPort n (fun y => { y with state := if keyed then .sealed else .opened, order := 6 })
    else s

-- Lanes and recovery (R536 to R538) --------------------------------------------------------------------------------------------

/-- A port enters RECOVERY (R538), recorded as a CE of source 7 (R730). -/
def State.recover (s : State) (n lane : Nat) : State :=
  match s.ports.get? n with
  | none => s
  | some x =>
    if x.state = .opened ∨ x.state = .sealed ∨ x.state = .align then
      let s1 := s.modPort n (fun y => { y with state := .recovery, prior := x.state })
      (s1.bump Fld.LNK_RECOVERIES_COUNT n).record
        { cls := .ce, source := 7, part := none, location := n + lane * 256 }
    else s

/-- A lane of the receive direction is retired (R537): its logical lane moves to the spare, or the port goes DOWN. -/
def State.retireRx (s : State) (n lane : Nat) : State :=
  match s.ports.get? n with
  | none => s
  | some x =>
    if !x.up || !(bitOf x.rxGood lane) then s
    else
      let good := x.rxGood - 2 ^ lane
      if !(x.rxMap.contains lane) then s.modPort n (fun y => { y with rxGood := good, rxSpare := false })
      else if !x.rxSpare then s.portDown n downLanes true true
      else
        let spare := ((bitPositions x.rxGood 9).filter (fun l => !(x.rxMap.contains l))).head?.getD 8
        let s1 := s.modPort n (fun y => { y with
          rxGood := good, rxSpare := false,
          rxMap := y.rxMap.map (fun l => if l = lane then spare else l) })
        (s1.bump Fld.LNK_LANE_SWAPS_COUNT n).recover n lane

/-- LANE_RETIRE (R548, R537): the peer retires a lane of its transmit side, which is a receive lane of this end. -/
def State.laneRetired (s : State) (n lane : Nat) : State := if lane ≤ 8 then s.retireRx n lane else s

/-- LANE_ERROR_WINDOW (R537): a count of corrected symbols that reaches LANE_BAD retires its logical lane. -/
def doLaneErrorWindow (n : Nat) (counts : List Nat) (s : State) : State :=
  match s.ports.get? n with
  | none => s
  | some x =>
    if !x.up then s
    else
      let total := (counts.take 8).sum
      let d := s.draw
      -- how many codewords the corrected symbols lie in is open (log entry 23)
      let words := if total = 0 then 0 else 1 + Config.elapsed d.1 % Nat.min total (2 ^ 20)
      let s1 := if total = 0 then s else d.2.bump Fld.LNK_FEC_CE_COUNT n words
      let bad := ((counts.take 8).zipIdx).find? (fun c => decide (s.fld Fld.LNK_CFG_LANE_BAD n ≤ c.1))
      match bad with
      | none => s1
      | some (_, l) => match x.rxMap[l]? with | some lane => s1.retireRx n lane | none => s1

/-- LANE_SIGNAL_LOSS (R537). -/
def doLaneSignalLoss (n lane : Nat) (s : State) : State := if lane ≤ 8 then s.retireRx n lane else s

/-- SPARE_MONITOR_FAIL (R536): the spare is marked failed. -/
def doSpareMonitorFail (n : Nat) (s : State) : State :=
  match s.ports.get? n with
  | none => s
  | some x =>
    if !x.up || !x.rxSpare then s
    else
      let spare := ((bitPositions x.rxGood 9).filter (fun l => !(x.rxMap.contains l))).head?.getD 8
      s.modPort n (fun y => { y with rxSpare := false, rxGood := y.rxGood - 2 ^ spare })

/-- RECOVERY_DONE (R538): groups resume, and every unacknowledged group is sent again. -/
def doRecoveryDone (n : Nat) (s : State) : State :=
  match s.ports.get? n with
  | none => s
  | some x =>
    if x.state = .recovery then
      s.modPort n (fun y => { y with state := y.prior, resend := y.retry.length, rewinds := 0 })
    else s

/-- RECOVERY_TIMEOUT (R538): training starts at order 1; the port keeps what it holds for the groups that are to be sent again. -/
def doRecoveryTimeout (n : Nat) (s : State) : State :=
  match s.ports.get? n with
  | none => s
  | some x =>
    if x.state = .recovery then
      (s.modPort n (fun y => { y with resend := y.retry.length })).trainPort n (s.genMax n) false
    else s

-- Control words (R548, R549, R563, R564) --------------------------------------------------------------------------------------------

/-- A rekey of a transmit direction starts (R563, R564 order 1). -/
def State.startRekey (s : State) (n key : Nat) : State :=
  s.modPort n (fun x => match x.keys.get? key with
    | some k => if k.txValid && !k.rekeying && key != 0x1F then { x with keys := x.keys.set key { k with rekeying := true } } else x
    | none => x)

/-- REKEY_READY (R564 orders 3 and 4): the transmitter goes to the new phase from FLIT_CTR 0. The first switch of the link key
seals the port (R534 order 6). -/
def State.rekeyReady (s : State) (n key phase : Nat) : State :=
  match s.ports.get? n with
  | none => s
  | some x =>
    match x.keys.get? key with
    | none => s
    | some k =>
      if !k.rekeying then s
      else
        let first := !k.txValid
        let next := if first then k.txPhase else (k.txPhase + 1) % 2
        if phase ≠ next then s
        else
          let s1 := s.modPort n (fun y => { y with
            keys := y.keys.set key { k with txValid := true, txPhase := next, txCtr := 0, rekeying := false }
            state := if key = 0x10 ∧ y.state = .opened then .sealed else y.state
            prior := if key = 0x10 ∧ y.prior = .opened then .sealed else y.prior })
          s1.bump Fld.LNK_REKEYS_COUNT n

/-- What HELLO of the peer gives (R548, R551). -/
def State.helloFrom (s : State) (n : Nat) (bufs : List Nat) (retry : Nat) : State :=
  (s.modPort n (fun x => { x with helloIn := true, adv := (bufs ++ [0, 0, 0, 0]).take 4, peerRetry := retry })).tryOpen n

/-- Acts on a control word once (R548, R549). -/
def State.wordIn (s : State) (n : Nat) (w : LinkWord) : State :=
  match s.ports.get? n with
  | none => s
  | some x =>
    if x.lastWord = some w then s
    else
      let s := s.modPort n (fun y => { y with lastWord := some w })
      match w with
      | .hello _ bufs retry => s.helloFrom n bufs retry
      | .rekeyReady k ph => s.rekeyReady n k ph
      | .rekeyAsk k => s.startRekey n k
      | .laneRetire l => s.laneRetired n l
      | .down r => s.portDown n r false false

/-- Whether a port takes control words: groups flow. -/
def State.flowing (s : State) (n : Nat) : Bool :=
  match s.ports.get? n with
  | some x => x.state == PortState.align || x.state == PortState.opened || x.state == PortState.sealed
  | none => false

/-- HELLO (R534 order 5, R548, R550). -/
def doHello (n gen : Nat) (bufs : List Nat) (retry : Nat) (s : State) : State :=
  match s.ports.get? n with
  | none => s
  | some x =>
    if x.state = .align ∧ x.order = 5 then
      (s.modPort n (fun y => { y with lastWord := some (.hello gen bufs retry) })).helloFrom n bufs retry
    else s

/-- REKEY_READY. -/
def doRekeyReady (n key phase : Nat) (s : State) : State := if s.flowing n then s.rekeyReady n key phase else s

/-- REKEY_ASK (R563). -/
def doRekeyAsk (n key : Nat) (s : State) : State := if s.flowing n then s.startRekey n key else s

/-- LANE_RETIRE. -/
def doLaneRetire (n lane : Nat) (s : State) : State := if s.flowing n then s.laneRetired n lane else s

/-- DOWN (R548). -/
def doLinkDownWord (n reason : Nat) (s : State) : State := if s.flowing n then s.portDown n reason false false else s

/-- REKEY_MARK_REACHED (R563): the transmit counter has reached its mark. -/
def doRekeyMarkReached (n key : Nat) (s : State) : State :=
  match s.ports.get? n with
  | none => s
  | some x =>
    match x.keys.get? key with
    | none => s
    | some k =>
      if zeroActsAs (s.fld Fld.LNK_REKEY_AT_AT n) 240 * 2 ^ 32 ≤ k.txCtr then s.startRekey n key else s

-- Groups that arrive (R553 to R558, R562) ------------------------------------------------------------------------------------------------

/-- Drops what the peer has acknowledged (R553 step 6, R555): a control word that an acknowledged group carried has been heard. -/
def Port.ackTo (x : Port) (ack : Nat) : Port :=
  let heard (g : TxGroup) : Bool := !(epochNewer g.gseq ack)
  let done := x.retry.filter heard
  if done.isEmpty then x
  else
    let left := x.retry.filter (fun g => !(heard g))
    let said := done.filterMap (fun g => g.word)
    let hello := said.any (fun w => match w with | .hello _ _ _ => true | _ => false)
    { x with
             retry := left, resend := Nat.min x.resend left.length, rewinds := 0, acked := (ack + 1) % 2 ^ 32,
             words := x.words.filter (fun w => !(said.contains w)), helloAcked := x.helloAcked || hello }

/-- A rewind (R555): every group from ACK + 1 goes again; RETRY_MAX of them without progress take the port into RECOVERY (R558). -/
def State.rewind (s : State) (n : Nat) : State :=
  match s.ports.get? n with
  | none => s
  | some x =>
    if x.retry.isEmpty then s
    else
      let s1 := (s.modPort n (fun y => { y with resend := y.retry.length, rewinds := y.rewinds + 1 })).bump Fld.LNK_RETRIES_COUNT n
      if zeroActsAs (s.fld Fld.LNK_RETRY_CFG_RETRY_MAX n) 1 ≤ x.rewinds + 1 then s1.recover n 0 else s1

/-- A rejection (R554): NAK, unless one is out already. -/
def State.rejectGroup (s : State) (n : Nat) : State :=
  s.modPort n (fun x => { x with nakDue := x.nakDue || !x.nakOut })

/-- A tag failure (R553, R558): the second of one group takes the port DOWN. -/
def State.tagFail (s : State) (n : Nat) : State :=
  let s1 := (s.rejectGroup n).bump Fld.LNK_TAG_FAILS_COUNT n
  match s1.ports.get? n with
  | none => s1
  | some x =>
    if 2 ≤ x.tagFails + 1 then s1.portDown n downSecurity true false
    else s1.modPort n (fun y => { y with tagFails := y.tagFails + 1 })

/-- Whether a flit breaks the rules of its stream (R546). -/
def streamBreaks (open_ : Bool) (d : DSlot) : Bool := (d.som && open_) || (!d.som && !open_) || (!d.eom && d.bytes != 256)

/-- Takes the flits of an accepted group into their streams (R546); answers how many break the rules. -/
def takeFlits (key : Nat) (ds : List DSlot) (op : List (Nat × Nat)) : List (Nat × Nat) × Nat :=
  match ds with
  | [] => (op, 0)
  | d :: r =>
    if d.kind ≠ .flit then takeFlits key r op
    else
      let k := (key, d.vc)
      let bad := streamBreaks (op.contains k) d
      let op1 := if d.eom then op.filter (fun y => y != k) else if op.contains k then op else k :: op
      let rest := takeFlits key r op1
      (rest.1, rest.2 + (if bad then 1 else 0))

/-- Counts freed flits per virtual channel (R552): the receive buffer drains at once (log entry 47), and what is dropped or withdrawn is freed at
the acceptance. -/
def freeCredits (ds : List DSlot) (freed : List Nat) : List Nat :=
  (freed.zipIdx).map (fun f => (f.1 + (ds.filter (fun d => d.kind != .empty && d.vc == f.2)).length) % 2 ^ 16)

/-- An accepted group (R553 step 6, R533, R547, R552, R562): only OPEN and SEALED deliver flits. -/
def State.acceptGroup (s : State) (n : Nat) (x : Port) (g : RxGroup) (installed : Bool) : State :=
  let flits := g.slots.filter (fun d => d.kind == .flit)
  let allowed := if x.state = .align then [] else if x.state = .opened then flits.filter (fun d => g.key == 0x1F && d.vc == 0) else flits
  let taken := if installed then allowed else []
  let dropped := flits.length - taken.length
  let k := x.keys.getD g.key PortKey.none
  let switched := installed && g.phase != k.rxPhase
  let st := takeFlits g.key taken x.rxOpen
  let keys := if installed then x.keys.set g.key { k with rxPhase := g.phase, rxLast := some g.ctr } else x.keys
  let y := { x with
    expect := (x.expect + 1) % 2 ^ 32, nakOut := false, nakDue := false, tagFails := 0, keys := keys, rxOpen := st.1
    freedOut := freeCredits g.slots x.freedOut
    freed := (g.credit ++ x.freed.drop g.credit.length).take 4
    bwRx := x.bwRx + (taken.map (fun (d : DSlot) => d.bytes)).sum }
  let s := { s with ports := s.ports.set n (y.ackTo g.ack) }
  let s := if dropped = 0 then s else s.bump Fld.LNK_DROPS_COUNT n dropped
  let s := if st.2 = 0 then s else s.bump Fld.CMP_MALFORMED_COUNT 0 st.2
  let s := if switched then s.bump Fld.LNK_REKEYS_COUNT n else s
  let s := if taken.isEmpty then s else s.count { PmcEv.ofDevice 0x51 taken.length with master := some (3, n) }
  let s := match g.word with
    | some w => s.wordIn n w
    | none => s.modPort n (fun p => { p with lastWord := none })
  let s := s.tryOpen n
  if g.nak then s.rewind n else s

/-- GROUP_ARRIVAL (R553). -/
def doGroupArrival (n : Nat) (g : RxGroup) (s : State) : State :=
  match s.ports.get? n with
  | none => s
  | some x =>
    if !(s.flowing n) then s
    else if !g.marker then s.recover n 0
    else if g.damaged then
      let d := s.draw
      (d.2.bump Fld.LNK_FEC_UC_COUNT n (1 + Config.elapsed d.1 % 8)).rejectGroup n
    else if epochNewer x.expect g.gseq then s
    else if g.gseq ≠ x.expect then s.rejectGroup n
    else
      let k := x.keys.getD g.key PortKey.none
      if !k.rxValid then s.acceptGroup n x g false
      else if !g.tagOk then s.tagFail n
      else if g.phase == k.rxPhase && (match k.rxLast with | some c => decide (g.ctr ≤ c) | none => false) then s.tagFail n
      else s.acceptGroup n x g true

/-- NAK_RESEND_TIMEOUT (R554): the expected group has not come. -/
def doNakResendTimeout (n : Nat) (s : State) : State :=
  s.modPort n (fun x => if x.nakOut then { x with nakOut := false, nakDue := true } else x)

/-- RETRY_REWIND_TIMEOUT (R555): unacknowledged groups and no progress. -/
def doRetryRewindTimeout (n : Nat) (s : State) : State := if s.flowing n then s.rewind n else s

end Sys2Proof.Machine
end

