-- ==== Sys2Proof/Machine/Send.lean ====
section
/-!
DEFINITION. What a port sends at a group boundary: retries, management, weighted fair queueing, shapers, gates
(16_solvor_link_layer.md R542 to R556, R563, 18_egress_scheduling.md R611 to R626, 23_counters.md R754).
-/

namespace Sys2Proof.Machine

open Sys2Proof

-- Gates (R620 to R624) --------------------------------------------------------------------------------------------------

/-- The entries of a gate list: durations and OPEN masks up to the first DURATION of 0 (R620). -/
def State.gateList (s : State) (n l : Nat) : List (Nat × Nat) :=
  let all := (List.range 64).map (fun i =>
    (s.fld Fld.EGR_GATE_DURATION n (l * 64 + i), s.fld Fld.EGR_GATE_OPEN n (l * 64 + i)))
  all.takeWhile (fun e => e.1 != 0)

/-- The active list of a port. -/
def State.activeList (s : State) (n : Nat) : List (Nat × Nat) := s.gateList n (s.fld Fld.EGR_CFG_ACTIVE n)

/-- GUARD as it acts (R621). -/
def State.guard (s : State) (n : Nat) : Nat := Nat.max 5 (s.fld Fld.EGR_CFG_GUARD n)

/-- How long a run of open entries lasts from the head of a list on. -/
def openRun (c : Nat) (es : List (Nat × Nat)) : Nat := ((es.takeWhile (fun e => bitOf e.2 c)).map (fun e => e.1)).sum

/-- The gate of a class: closed, open with so many port cycles left until its window closes, or open for good. -/
inductive GateView where
  | shut
  | until_ (left : Nat)
  | always
  deriving DecidableEq, Repr

/-- The gate of a class at a time within the entry under way (R620). -/
def State.gateOf (s : State) (n c at_ now : Nat) : GateView :=
  if s.fld Fld.EGR_CFG_GATES_ON n = 0 then .always
  else
    let es := s.activeList n
    let turned := rotateFrom es at_
    if turned.isEmpty then .shut
    else if turned.all (fun e => bitOf e.2 c) then .always
    else
      match turned with
      | [] => .shut
      | e :: _ => if bitOf e.2 c then .until_ (openRun c turned - now) else .shut

/-- The data-slot period in thousandths of a port cycle (R622). -/
def slotPeriod (gen : Nat) : Nat := if gen = 1 then 4516 else 2258

/-- Whether a flit may take slot j: the slot begins before the guard band (R621). -/
def GateView.lets (g : GateView) (guard gen j : Nat) : Bool :=
  match g with
  | .shut => false
  | .always => true
  | .until_ left => decide (guard * 1000 + j * slotPeriod gen < left * 1000)

/-- Slots left in a window at slot j (R622). -/
def GateView.slotsLeft (g : GateView) (guard gen j : Nat) : Option Nat :=
  match g with
  | .shut => some 0
  | .always => none
  | .until_ left => some ((left * 1000 - guard * 1000 - j * slotPeriod gen) / slotPeriod gen)

/-- The lengths of the windows of a class in a list (R620): maximal cyclic runs of open entries; a class that every entry opens has
no window that closes. -/
def windowsOf (c : Nat) (es : List (Nat × Nat)) : List Nat :=
  if es.all (fun e => bitOf e.2 c) then []
  else
    (List.range es.length).filterMap (fun i =>
      let turned := rotateFrom es i
      let before := match (rotateFrom es (i + es.length - 1)).head? with | some e => bitOf e.2 c | none => false
      match turned with
      | e :: _ => if bitOf e.2 c && !before then some (openRun c turned) else none
      | [] => none)

/-- The check of R624 on a list. -/
def State.listOk (s : State) (n l : Nat) : Bool :=
  let es := s.gateList n l
  [0, 1, 2].all (fun c => (windowsOf c es).all (fun w => decide (1160 + s.guard n ≤ w)))

/-- The other list becomes active (R624). -/
def State.switchLists (s : State) (n : Nat) : State :=
  let s1 := s.setFld Fld.EGR_CFG_ACTIVE (1 - s.fld Fld.EGR_CFG_ACTIVE n) n
  (s1.setFld Fld.EGR_CFG_SWITCH 0 n).modPort n (fun x => { x with gateAt := 0 })

/-- EGR_SWITCH (R624): the inactive list is checked; it becomes active at the end of the active list's cycle, at once where that list
has no entry. -/
def doEgrSwitch (fn : Fn) (n : Nat) (s : State) : State :=
  if !fn.isPf || 8 ≤ n then s
  else if !(s.listOk n (1 - s.fld Fld.EGR_CFG_ACTIVE n)) then
    (s.setFld Fld.EGR_CFG_LIST_ERR 1 n).setFld Fld.EGR_CFG_SWITCH 0 n
  else
    let s1 := s.setFld Fld.EGR_CFG_SWITCH 1 n
    if (s.activeList n).isEmpty then s1.switchLists n else s1

/-- Started messages of a class (R612). -/
def Port.startedOf (x : Port) (c : CtxClass) : Nat :=
  ((x.flows.map (fun f => f.2)).flatten.filter (fun w => w.m.cls == c && w.m.sent != 0)).length

/-- GATE_ENTRY_EXPIRY (R620, R622 to R624): the next entry begins; classes whose window closes carry their started messages over. -/
def doGateEntryExpiry (n : Nat) (s : State) : State :=
  match s.ports.get? n with
  | none => s
  | some x =>
    let es := s.activeList n
    if es.isEmpty then s
    else
      let old := match es[x.gateAt]? with | some e => e.2 | none => 0
      let wrap := es.length ≤ x.gateAt + 1
      let s1 := if wrap && s.flag Fld.EGR_CFG_SWITCH n then s.switchLists n
        else s.modPort n (fun y => { y with gateAt := if wrap then 0 else y.gateAt + 1 })
      let at_ := match s1.ports.get? n with | some y => y.gateAt | none => 0
      let new := match (s1.activeList n)[at_]? with | some e => e.2 | none => 0
      let closed := [CtxClass.lc, CtxClass.be, CtxClass.bg].filter (fun c => bitOf old c.code && !(bitOf new c.code))
      if s.fld Fld.EGR_CFG_GATES_ON n = 0 then s1
      else
        let splits := (closed.map x.startedOf).sum
        let s2 := if splits = 0 then s1 else s1.bump Fld.EGR_GATE_SPLITS_COUNT n splits
        s2.modPort n (fun y => { y with flows := y.flows.map (fun (f : Nat × List Flow) =>
          (f.1, f.2.map (fun w => if closed.contains w.m.cls then { w with waited := false } else w))) })

-- Shapers (R617 to R619) ----------------------------------------------------------------------------------------------------

/-- The tokens of a class after a refill. -/
def refill (rate burst held : Nat) : Nat :=
  let cap := zeroActsAs burst 1 * 256
  Nat.min cap (Nat.min cap held + rate)

/-- SHAPER_REFILL (R617, R619): a written RATE and BURST take effect here. -/
def doShaperRefill (n : Nat) (s : State) : State :=
  s.modPort n (fun x =>
    let rates := [0, 1, 2].map (fun c => s.fld Fld.EGR_SHAPER_RATE n c)
    { x with
      rates := rates
      tokens := [0, 1, 2].map (fun c => refill (nthD rates c 0) (s.fld Fld.EGR_SHAPER_BURST n c) (nthD x.tokens c 0)) })

-- Keys and credits ----------------------------------------------------------------------------------------------------------

/-- Whether a group may be sent under a key now (R563): it is installed, and its counter stays below the hard stop. -/
def Port.keyReady (x : Port) (key : Nat) : Bool :=
  let k := x.keys.getD key PortKey.none
  k.txValid && decide (k.txCtr + 15 ≤ 2 ^ 40)

/-- Whether a key is installed and waits for its new phase (R563). -/
def Port.keyStalled (x : Port) (key : Nat) : Bool :=
  let k := x.keys.getD key PortKey.none
  k.txValid && decide (2 ^ 40 < k.txCtr + 15)

/-- Flits of a channel that credit lets out (R551). -/
def Port.credit (x : Port) (vc : Nat) : Nat := (nthD x.adv vc 0 + nthD x.freed vc 0 + 2 ^ 16 - nthD x.sent vc 0 % 2 ^ 16) % 2 ^ 16

-- Picking (R612 to R616, R623) ------------------------------------------------------------------------------------------------

/-- The head of a flow: its started message, else its first (R614). -/
def flowHead (fs : List Flow) : Option Flow :=
  match fs.find? (fun w => w.m.sent != 0) with
  | some w => some w
  | none => fs.head?

/-- What a pick looks at: flow number, its head. -/
structure FlowPick where
  flow : Nat
  w    : Flow
  deriving DecidableEq, Repr

/-- The partition of a flow (R611). -/
def FlowPick.part (c : FlowPick) : Nat := c.flow / 3

/-- Whether a head is eligible at slot j apart from tokens (R612, R614, R621, R622). -/
def State.eligible (s : State) (n : Nat) (x : Port) (now j : Nat) (c : FlowPick) : Bool :=
  let g := s.gateOf n c.w.m.cls.code x.gateAt now
  let free := match x.streams.get? (c.part, c.w.m.vc) with | some f => f == c.flow | none => true
  let fits := c.w.m.sent != 0 || (match g.slotsLeft (s.guard n) x.gen j with | none => true | some k => decide (c.w.m.flits ≤ k))
  x.keyReady c.part && free && decide (0 < x.credit c.w.m.vc) && g.lets (s.guard n) x.gen j && fits

/-- Whether a class's shaper lets a flit out (R617). -/
def Port.tokenOk (x : Port) (c : CtxClass) : Bool := nthD x.rates c.code 0 == 0 || decide (256 ≤ nthD x.tokens c.code 0)

/-- The heads of a port's flows. -/
def Port.heads (x : Port) : List FlowPick := x.flows.filterMap (fun f => (flowHead f.2).map (fun w => ⟨f.1, w⟩))

/-- Fair queueing among heads (R615, R623): in a partition's group started messages go first; then the least F, ties to the lower
flow number. -/
def candBefore (grouped : Bool) (a b : FlowPick) : Bool :=
  let sa := grouped && a.w.m.sent != 0
  let sb := grouped && b.w.m.sent != 0
  if sa != sb then sa
  else if a.w.f != b.w.f then decide (a.w.f < b.w.f)
  else decide (a.flow < b.flow)

/-- A pick, and whether a head was passed over for want of tokens (R626 EGR_SHAPED). -/
def State.pickHead (s : State) (n : Nat) (x : Port) (now j : Nat) (part : Option Nat) : Option FlowPick × Bool :=
  let mine := x.heads.filter (fun c => match part with | some p => c.part == p | none => true)
  let ok := mine.filter (fun c => s.eligible n x now j c)
  let best := leastBy (candBefore part.isSome) (ok.filter (fun c => x.tokenOk c.w.m.cls))
  let first := leastBy (candBefore part.isSome) ok
  (best, first.isSome && first != best)

/-- Heads that wait because they do not fit their window (R622): each counts once for a window. -/
def State.gateWaiters (s : State) (n : Nat) (x : Port) (now : Nat) : List FlowPick :=
  x.heads.filter (fun c =>
    let g := s.gateOf n c.w.m.cls.code x.gateAt now
    c.w.m.sent == 0 && !c.w.waited && g != .shut &&
      (match g.slotsLeft (s.guard n) x.gen 0 with | none => false | some k => decide (k < c.w.m.flits)))

-- Placing flits (R545, R546, R551, R612) ---------------------------------------------------------------------------------------

/-- The next flit of a message. -/
def TxMsg.slot (m : TxMsg) : DSlot :=
  { kind := .flit, vc := m.vc, som := m.sent == 0, eom := decide (m.bytes ≤ m.sent + 256), bytes := Nat.min 256 (m.bytes - m.sent) }

/-- Places one flit of a flow's head: credit and tokens are taken, the stream is held or released, V follows F. -/
def Port.place (x : Port) (c : FlowPick) : Port :=
  let m := c.w.m
  let d := m.slot
  let m' := { m with sent := m.sent + d.bytes }
  let fs := x.flows.getD c.flow []
  let fs' := if d.eom then fs.erase c.w else fs.map (fun w => if w = c.w then { w with m := m' } else w)
  let key := (c.part, m.vc)
  let cls := m.cls.code
  { x with
    flows := if fs'.isEmpty then x.flows.erase c.flow else x.flows.set c.flow fs'
    streams := if d.eom then x.streams.erase key else x.streams.set key c.flow
    sent := x.sent.set m.vc ((nthD x.sent m.vc 0 + 1) % 2 ^ 16)
    tokens := if nthD x.rates cls 0 = 0 then x.tokens else x.tokens.set cls (nthD x.tokens cls 0 - 256)
    vt := c.w.f
    bwTx := x.bwTx + d.bytes }

/-- Fills data slots of a partition's group from slot j on (R613 step 4, R615): a pick keeps the slots until its message ends or is
not eligible. -/
def State.fillSlots (s : State) (n now p : Nat) (cur : Option Nat) (x : Port) (j k : Nat) : List DSlot × Port × Nat :=
  match k with
  | 0 => ([], x, 0)
  | k + 1 =>
    let keep := match cur with
      | some f => (x.heads.find? (fun c => c.flow == f && c.w.m.sent != 0)).filter (fun c =>
          s.eligible n x now j c && x.tokenOk c.w.m.cls)
      | none => none
    let pick := match keep with
      | some c => (some c, false)
      | none => s.pickHead n x now j (some p)
    let shaped := if pick.2 then 1 else 0
    match pick.1 with
    | some c =>
      let d := c.w.m.slot
      let rest := s.fillSlots n now p (if d.eom then none else some c.flow) (x.place c) (j + 1) k
      (d :: rest.1, rest.2.1, rest.2.2 + shaped)
    | none =>
      let rest := s.fillSlots n now p none x (j + 1) k
      (⟨.empty, 0, false, false, 0⟩ :: rest.1, rest.2.1, rest.2.2 + shaped)

/-- Fills data slots of a management group: flits of the management queue in order, with credit on channel 0 (R613 step 2). -/
def fillMgmt (x : Port) (k : Nat) : List DSlot × Port :=
  match k with
  | 0 => ([], x)
  | k + 1 =>
    match x.mgmt with
    | m :: r =>
      if x.credit 0 = 0 then
        let rest := fillMgmt x k
        (⟨.empty, 0, false, false, 0⟩ :: rest.1, rest.2)
      else
        let d := m.slot
        let y := { x with
          mgmt := if d.eom then r else { m with sent := m.sent + d.bytes } :: r
          sent := x.sent.set 0 ((nthD x.sent 0 0 + 1) % 2 ^ 16)
          bwTx := x.bwTx + d.bytes }
        let rest := fillMgmt y k
        (d :: rest.1, rest.2)
    | [] =>
      let rest := fillMgmt x k
      (⟨.empty, 0, false, false, 0⟩ :: rest.1, rest.2)

/-- An empty slot. -/
def emptySlots : List DSlot := List.replicate 15 ⟨.empty, 0, false, false, 0⟩

-- Groups that leave (R544, R555, R556, R561) ---------------------------------------------------------------------------------------

/-- Sends a group: it takes a FLIT_CTR of its key, the trailer's ACK, NAK and CREDIT, and stands in the retry buffer. -/
def State.sendGroup (s : State) (n : Nat) (x : Port) (g : TxGroup) : State :=
  let k := x.keys.getD g.key PortKey.none
  let y := { x with
    keys := x.keys.set g.key { k with txCtr := k.txCtr + 15 }
    nakDue := false
    nakOut := x.nakOut || x.nakDue }
  let s1 := { s with ports := s.ports.set n y }
  s1.put (.link n g k.txPhase k.txCtr ((x.expect + 2 ^ 32 - 1) % 2 ^ 32) x.nakDue x.freedOut)

/-- A withdrawn group (R556): under the zero key, its flits as withdrawn slots. -/
def TxGroup.withdrawn (g : TxGroup) : TxGroup :=
  { g with
    key := 0x1F
    slots := g.slots.map (fun d => if d.kind = .empty then d else ⟨.withdrawn, d.vc, false, false, 0⟩) }

/-- Sends the next group that is due again (R555, R556); a group whose key waits for a new phase waits with it (R563). -/
def State.sendAgain (s : State) (n : Nat) (x : Port) : State :=
  match x.retry[x.retry.length - x.resend]? with
  | none => s.modPort n (fun y => { y with resend := 0 })
  | some g =>
    let k := x.keys.getD g.key PortKey.none
    let g1 := if k.txValid then g else g.withdrawn
    let g2 := { g1 with word := x.words.head? }
    if !(x.keyReady g1.key) then s.bump Fld.LNK_REKEY_STALLS_COUNT n
    else
      s.sendGroup n { x with resend := x.resend - 1, retry := x.retry.set (x.retry.length - x.resend) g2 } g2

/-- Sends a new group; its flits are counted as first sent. -/
def State.sendNew (s : State) (n key : Nat) (x : Port) (slots : List DSlot) : State :=
  let g : TxGroup := ⟨x.nextSeq, key, slots, x.words.head?⟩
  let y := { x with nextSeq := (x.nextSeq + 1) % 2 ^ 32, retry := x.retry ++ [g] }
  let flits := (slots.filter (fun d => d.kind == .flit)).length
  let s1 := s.sendGroup n y g
  if flits = 0 then s1 else s1.count { PmcEv.ofDevice 0x50 flits with master := some (3, n) }

/-- Counts the keys that hold a group back at the counter limit (R563). -/
def State.countStalls (s : State) (n : Nat) (x : Port) : State :=
  let waiting := (x.heads.map (fun c => c.part)).eraseDups.filter (fun p => x.keyStalled p)
  if waiting.isEmpty then s else s.bump Fld.LNK_REKEY_STALLS_COUNT n waiting.length

/-- A group of a partition (R613 steps 4 and 5), or an empty one. -/
def State.sendFair (s : State) (n now : Nat) (x : Port) : State :=
  let waits := s.gateWaiters n x now
  let s1 := if waits.isEmpty then s else s.bump Fld.EGR_GATE_WAITS_COUNT n waits.length
  let x1 := { x with flows := x.flows.map (fun (f : Nat × List Flow) =>
    (f.1, f.2.map (fun w => if waits.any (fun c => c.flow == f.1 && c.w == w) then { w with waited := true } else w))) }
  let s2 := s1.countStalls n x1
  let pick := s2.pickHead n x1 now 0 none
  match pick.1 with
  | none =>
    let s3 := if pick.2 then s2.bump Fld.EGR_SHAPED_COUNT n else s2
    if x1.keyReady 0x10 then s3.sendNew n 0x10 x1 emptySlots else { s3 with ports := s3.ports.set n x1 }
  | some c =>
    let r := s2.fillSlots n now c.part (if c.w.m.sent = 0 then none else some c.flow) x1 0 15
    let shaped := r.2.2 + (if pick.2 then 1 else 0)
    let s3 := if shaped = 0 then s2 else s2.bump Fld.EGR_SHAPED_COUNT n shaped
    s3.sendNew n c.part r.2.1 r.1

/-- GROUP_TRANSMIT (R613): what the port sends at a group boundary, `now` port cycles into the gate entry under way. -/
def doGroupTransmit (n now : Nat) (s : State) : State :=
  match s.ports.get? n with
  | none => s
  | some x =>
    if !(s.flowing n) then s
    else if x.resend ≠ 0 then s.sendAgain n x
    else if Nat.min 128 x.peerRetry ≤ x.retry.length then s
    else
      let link := if x.state = .sealed then 0x10 else 0x1F
      if x.state ≠ .align ∧ ¬x.mgmt.isEmpty ∧ 0 < x.credit 0 then
        if !(x.keyReady link) then s.bump Fld.LNK_REKEY_STALLS_COUNT n
        else
          let r := fillMgmt x 15
          (s.sendNew n link r.2 r.1).bump Fld.EGR_MGMT_GROUPS_COUNT n
      else if x.state ≠ .sealed ∨ s.sec.frozen then
        (if x.keyReady link then s.sendNew n link x emptySlots else s)
      else s.sendFair n now x

-- Rekey by command, bandwidth windows --------------------------------------------------------------------------------------------

/-- LNK_REKEY (R563, R566): PF0 starts a rekey of a key index. -/
def doLnkRekeyGo (fn : Fn) (n key : Nat) (s : State) : State := if fn.isPf then s.startRekey n (key % 32) else s

/-- PMC_BW_WINDOW_END (R754). -/
def doPmcBwWindowEnd (n : Nat) (s : State) : State :=
  match s.ports.get? n with
  | none => s
  | some x =>
    let bw : Reg := ⟨.pmcBw, n, 0⟩
    let cfg : Reg := ⟨.pmcBwCfg, n, 0⟩
    let s1 := s.setPmc bw (x.bwRx % 2 ^ 32 * 2 ^ 32 + x.bwTx % 2 ^ 32)
    let v := s1.pmcReg cfg
    let s2 := s1.setPmc cfg (setBits v 30 24 (bitsOf v 30 24 + 1))
    s2.modPort n (fun y => { y with bwTx := 0, bwRx := 0 })

end Sys2Proof.Machine
end

