-- ==== Sys2Proof/Machine/Alarm.lean ====
section
/-!
DEFINITION. Alarms and the freeze of partitions (19_security_and_isolation.md R656 to R661).
-/

namespace Sys2Proof.Machine

open Sys2Proof

-- Ending the commands of a partition without a fault report (R658, R663, R742) --------------------------------------------------

/-- Ends every queued and running command of a partition with a status, and aborts its open bonds; no fault report is written,
for the fault is none of R465. -/
def State.endCommands (s : State) (p : Nat) (st : Status) : State :=
  ((s.byArrival (s.commandsOf p)).foldl (fun (a : State) v => a.endVictim v st 0) s).abortDevice p

/-- Freezes a partition (R658): its commands end with SECURITY/frozen, its cores stop, its open bonds abort; keys and state are
kept. -/
def State.alarmFreeze (s : State) (p : Nat) : State := (s.stopCores p).endCommands p .securityFrozen

-- Levels (R656, R658) ------------------------------------------------------------------------------------------------------------

/-- The level of an alarm source under the policy in force (R652, R656). -/
def State.alarmLevel (s : State) (source : Nat) : Nat := bitsOf (s.fld Fld.SEC_ALARM_POLICY_LEVELS) (2 * source + 1) (2 * source)

/-- Sets a bit of a source mask. -/
def setSource (w source : Nat) : Nat := if bitOf w source then w else w + 2 ^ source
/-- Clears a bit of a source mask. -/
def clearSource (w source : Nat) : Nat := if bitOf w source then w - 2 ^ source else w

/-- A2 (R658): latches the source, drives ALARM_OUT_N low and freezes every partition. -/
def State.latchAlarm (s : State) (source level : Nat) : State :=
  let s := { s with
    sec := { s.sec with latched := setSource s.sec.latched source, level := Nat.max s.sec.level level }
    pins := { s.pins with alarmOut := true }
    removals := s.removals.map (fun (kv : Nat × Removal) => (kv.1, { kv.2 with alarm := true })) }
  if s.sec.frozen then s
  else
    let s := { s with sec := { s.sec with frozen := true } }
    allParts.foldl (fun (a : State) p => a.alarmFreeze p) s

/-- The zeroisation of A3 (R632, R658): key slots, port keys, hop secrets, bounce keys, seeds; what LPDDR6 and the quarry held can
no longer be read, which the model shows as absent. -/
def State.zeroise (s : State) : State :=
  let wrap := s.sec.fuses.wrapGen + 1
  let f := { s.sec.fuses with wrapGen := Nat.min 64 wrap, alarmCount := Nat.min 64 (s.sec.fuses.alarmCount + 1) }
  let blankPort (x : Port) : Port := { x with keys := x.keys.filter (fun kv => kv.1 == 0x1F) }
  { s with
    sec := { s.sec with
      fuses := f, slots := [], hops := [], seeds := [], keyless := true, spent := s.sec.spent || decide (64 ≤ wrap) || decide (64 ≤ f.alarmCount) }
    ports := s.ports.map (fun (kv : Nat × Port) => (kv.1, blankPort kv.2))
    bounce := []
    sessions := [], reqs := [], lateEnds := [], handoffs := [], parks := [], revives := [], movesOut := [], movesIn := [], pulls := []
    slices := [], expertWait := [], batches := [], tiles := [], ram := [], prefixes := [], regPages := [], grammars := [], mirror := []
    reports := [], colls := [], scans := [], bonds := [], ckp := ⟨[], [], [], [], []⟩
    tileFrames := [], mortarFrames := []
    ctxs := s.ctxs.map (fun (kv : (Nat × Nat) × Ctx) =>
      (kv.1, if kv.2.state = .absent then kv.2 else { kv.2 with state := .down, blocks := [] }))
    qry := { s.qry with mounted := false, map := [], dir := [], cached := [], dirty := [], staged := [], pages := [], metas := [], journal := [], used := [] } }

/-- An alarm (R656, R658): its record, then the action of its level. -/
def State.raiseAlarm (s : State) (source : Nat) : State :=
  let level := s.alarmLevel source
  let s := s.record { cls := .uc, source := 12, part := none, location := source }
  let s := { s with sec := { s.sec with record := s.err.next } }
  if level = 3 then (s.latchAlarm source 3).zeroise
  else if level = 2 then s.latchAlarm source 2
  else s

/-- A source is detected, or its condition is gone (R656, R657, R659). -/
def State.alarmSource (s : State) (source : Nat) (present : Bool) : State :=
  if s.boot.phase = .off then s
  else if present then
    if bitOf s.sec.raw source then s
    else { s with sec := { s.sec with raw := setSource s.sec.raw source } }.raiseAlarm source
  else { s with sec := { s.sec with raw := clearSource s.sec.raw source } }

/-- ALARM_IN_ASSERTED (R657): the always-on domain counts the input as asserted. -/
def doAlarmInAsserted (pin : Nat) (s : State) : State := if pin ≤ 1 then s.alarmSource (4 + pin) true else s

/-- ALARM_IN_RELEASED (R657). -/
def doAlarmInReleased (pin : Nat) (s : State) : State := if pin ≤ 1 then s.alarmSource (4 + pin) false else s

/-- ALARM_SOURCE_DETECTED (R656): sources 0 to 3. -/
def doAlarmSourceDetected (source : Nat) (present : Bool) (s : State) : State :=
  if source ≤ 3 then s.alarmSource source present else s

-- Repeated attestation failure (R588, R645, R656) ------------------------------------------------------------------------------------

/-- Attestation failures within the last 60 s of the always-on clock. -/
def State.recentFails (s : State) : List Nat := s.sec.fails.filter (fun t => decide ((s.aon + 2 ^ 64 - t) % 2 ^ 64 < 1500000000))

/-- Whether the condition of source 6 holds: ATTEST_LIMIT failures within 60 s. -/
def State.failsLimit (s : State) : Bool := decide (s.fld Fld.SEC_ALARM_POLICY_ATTEST_LIMIT ≤ s.recentFails.length) && !s.recentFails.isEmpty

/-- An attestation failure is counted for alarm source 6. -/
def State.attestFail (s : State) : State :=
  let s := s.tick
  let s := { s with sec := { s.sec with fails := s.recentFails ++ [s.aon] } }
  let s := { s with sec := { s.sec with raw := if s.failsLimit then s.sec.raw else clearSource s.sec.raw 6 } }
  if s.failsLimit then s.alarmSource 6 true else s

end Sys2Proof.Machine
end

