-- ==== Sys2Proof/Machine/Quotes.lean ====
section
/-!
DEFINITION. Quotes (19_security_and_isolation.md R637 to R639).
-/

namespace Sys2Proof.Machine

open Sys2Proof

/-- The record in force of a kind. -/
def State.recordOf (s : State) (kind : Nat) : Option InForce := s.sec.inForce.find? (fun x => x.kind == kind)

/-- Makes a quote (R638): every quote carries a fresh EPHEMERAL. -/
def State.makeQuote (s : State) (purpose : Nat) (part : Option Nat) (nonce : Nat) : Quote × State :=
  let n := s.sec.quotes + 1
  let id (kind : Nat) : Nat := match s.recordOf kind with | some x => x.id | none => 0
  let q : Quote := {
    purpose := purpose, part := part, nonce := nonce, peerId := s.sec.fuses.peerId, hwType := s.fld Fld.GLB_HW_HW_TYPE, alarmCount := s.sec.fuses.alarmCount,
    wrapGen := s.sec.fuses.wrapGen, latched := s.sec.latched != 0, frozen := s.sec.frozen, debug := s.sec.debug,
    conf := (match part with | some p => s.sec.conf.contains p | none => false), arbFixed := s.flag Fld.MEM_CFG_ARB_MODE,
    rollback := s.boot.fired.rollback, measFw := s.boot.fired.digest,
    generation := (match s.boot.image with | some i => i.generation | none => 0), changeSeq := s.sec.changeSeq,
    configId := (match s.boot.image with | some i => i.id | none => 0), planId := id 1,
    places := (match part with | some p => (s.boot.places.filter (fun x => x.part == p)).map (fun x => x.digest) | none => []),
    keysId := (match part with | some _ => id 2 | none => 0), number := n }
  (q, { s with sec := { s.sec with quotes := n } })

/-- Bytes of a quote with both certificates, whose lengths are not stated beyond 2,048 B each (R637, log entry 38). -/
def certBytes (free : Nat) : Nat := 480 + free % 4097

end Sys2Proof.Machine
end

