-- ==== Sys2Proof/Machine/Admit.lean ====
section
/-!
DEFINITION. Admission of peers, hop keys, key revokes received (17_solvor_messages_and_compositions.md R587 to R591,
19_security_and_isolation.md R640 to R642).
-/

namespace Sys2Proof.Machine

open Sys2Proof

-- Hop keys (R534 order 6, R588 order 5, R641, R642) ----------------------------------------------------------------------------------

/-- A key index installed in both directions at generation 0. -/
def PortKey.new : PortKey := ⟨true, 0, 0, true, 0, .none, false⟩

/-- A link key on its way in: received groups verify, the transmit direction waits for REKEY_READY (R564). -/
def PortKey.coming : PortKey := ⟨false, 0, 0, true, 0, .none, true⟩

/-- Installs the partition keys of a hop that it lacks (R588 order 5). -/
def Port.addKeys (x : Port) (parts : List Nat) : Port :=
  { x with keys := parts.foldl (fun (ks : AMap Nat PortKey) p => if ks.has p then ks else ks.set p PortKey.new) x.keys }

/-- Agrees the keys of a port with an endpoint (R534, R588, R641): the first agreement on a port is that of the directly attached
endpoint, whose hop secret also gives the link key. -/
def State.agreeKeys (s : State) (n fabric : Nat) (parts : List Nat) : State :=
  match s.ports.get? n with
  | none => s
  | some x =>
    if s.sec.hops.any (fun h => h.1 == n) then s.modPort n (fun y => y.addKeys parts)
    else
      let s1 := { s with sec := { s.sec with hops := s.sec.hops ++ [(n, fabric)] } }
      let s2 := s1.modPort n (fun y => y.addKeys parts)
      if x.keys.has 0x10 then s2
      else (s2.modPort n (fun y => { y with keys := y.keys.set 0x10 PortKey.coming })).sayWord n (.rekeyReady 0x10 0)

-- Table entries (R588 to R590) -----------------------------------------------------------------------------------------------------------

/-- Partitions of a 16-bit mask. -/
def partsOf (mask : Nat) : List Nat := bitPositions mask 16

/-- The partitions that a port's link-map entry lets through; a port without an entry lets none through. -/
def State.portParts (s : State) (n : Nat) : Nat :=
  match s.boot.links.find? (fun l => l.port == n) with
  | some l => l.parts
  | none => 0

/-- An entry for a new admission (R590): a free one, else that of the idle admitted peer with the oldest LAST_USE; a PEER_ADD that
still waits for the evicted peer's ADMIT_DONE ends with PEER/table-full. -/
def State.newEntry (s : State) : Option (Nat × State) :=
  match (List.range 1024).find? (fun i => !(s.peers.has i)) with
  | some i => some (i, s)
  | none =>
    let idle := s.peers.filter (fun kv => decide (kv.1 < 1024) && kv.2.state == PeerState.admitted && s.busyOf kv.1 == 0)
    match leastBy (fun (a b : Nat × Peer) => decide (a.2.lastUse < b.2.lastUse)) idle with
    | some (i, x) =>
      let s1 := { s with peers := s.peers.erase i }.bump Fld.CMP_EVICTIONS_COUNT
      some (i, x.asks.foldl (fun (a : State) o => a.completeFor o .peerTableFull) s1)
    | none => none

/-- An admission that is under way with an endpoint. -/
def State.admitting (s : State) (fabric : Nat) : Option (Nat × Peer) :=
  s.peers.find? (fun kv => kv.2.fabric == fabric && kv.2.state == PeerState.admitting)

/-- Frees a reserved entry (R588): PEER_ADD commands that wait for it end with a status. -/
def State.dropAdmission (s : State) (i : Nat) (st : Status) : State :=
  match s.peers.get? i with
  | none => s
  | some x => x.asks.foldl (fun (a : State) o => a.completeFor o st) { s with peers := s.peers.erase i }

/-- The ports by which an endpoint may be reached (R701): those whose link-map entry expects it, else those that expect any. -/
def State.portsTo (s : State) (fabric : Nat) : List Nat :=
  let up (n : Nat) : Bool := match s.ports.get? n with | some x => x.up | none => false
  let exact := s.boot.links.filter (fun l => l.peer == fabric && up l.port)
  let any := s.boot.links.filter (fun l => l.peer == 0 && up l.port)
  (if exact.isEmpty then any else exact).map (fun l => l.port)

/-- PEER_ADD (R588): reserves an entry and sends ADMIT_ASK; one that names an endpoint whose admission is under way joins it. Which of
several ports leads to the endpoint is open (log entry 8). -/
def doPeerAdd (u : Sub) (fabric parts : Nat) (s : State) : State :=
  match s.admitting fabric with
  | some (i, x) => { s with peers := s.peers.set i { x with parts := x.parts ||| parts % 65536, asks := x.asks ++ [u.owner] } }
  | none =>
    match s.newEntry with
    | none => s.complete u .peerTableFull
    | some (i, s1) =>
      let d := s1.draw
      let ps := s1.portsTo fabric
      let n := match ps[Config.pick d.1 % Nat.max 1 ps.length]? with | some n => n | none => 8
      let e := d.2.draw
      let nonce := Config.freeValue 77 e.1
      let x : Peer := ⟨0, .admitting, false, n, parts % 65536, fabric, e.2.aon, 0, false, true, [u.owner], [nonce]⟩
      { e.2 with peers := e.2.peers.set i x }.sendTo i 0 0 0 0 0 .bg (.admitAsk (parts % 65536) nonce)

/-- A message of admission arrives (R573, R591); its RESPONSE flag is as its sender sets it. -/
def State.admission (s : State) (h : Hdr) (size : Option Nat) (k : State → State) : State :=
  if !(s.carries h) then s
  else if s.astray h then s.bump Fld.CMP_MALFORMED_COUNT
  else if h.malformed 9 h.response (s.linkKey h.port) size then s.dropMalformed h 9 h.response
  else k s

/-- Answers an ADMIT_ASK with this device's quote (R640): NONCE is the asker's, NONCE_NEXT a fresh one that the asker's quote must answer. The
quote is device-wide, for an admission may ask for several partitions (DESIGN CHOICE, log entry 72). -/
def State.answerAsk (s : State) (h : Hdr) (i nonce : Nat) : State :=
  let d := s.draw
  let next := Config.freeValue 77 d.1
  let q := d.2.makeQuote 1 none nonce
  let t := { q.2 with peers := q.2.peers.modify i (fun x => { x with nonces := x.nonces ++ [next] }) }
  t.answerMsg h .bg (.admitQuote next q.1 (certBytes (Config.freeValue 71 d.1)))

/-- The attestation policy of a partition, or of the device for a switch, lets a quote through (R588 order 4, R635 kind 5, R640). -/
def State.policyLets (s : State) (owner : Option Nat) (a : Attest) : Bool :=
  s.sec.slots.any (fun kv => kv.2.kind == 5 && kv.2.owner == owner && kv.2.attest == some a)

/-- Whether the quote of a peer verifies (R588 order 4, R638, R640): its signature and certificates, PURPOSE, the nonce of this device, and the
policy of each partition asked for; that of the device for a switch. -/
def State.quotePasses (s : State) (i : Nat) (x : Peer) (q : PeerQuote) : Bool :=
  q.sigOk && q.purpose == 1 && x.nonces.contains q.nonce
    && (if 1024 ≤ i then s.policyLets none q.attest else (partsOf x.parts).all (fun p => s.policyLets (some p) q.attest))

/-- ADMIT_ASK (R588, R640): the entry is reserved and the quote answered; an ask of an endpoint whose admission is under way joins it.
A switch takes no entry of the table. -/
def doAdmitAsk (h : Hdr) (peerId : Word64) (role parts nonce : Nat) (s : State) : State :=
  s.admission h (if role ≤ 2 then some 84 else none) (fun t =>
    if role = 2 then
      let x : Peer := ⟨peerId, .admitting, false, h.port, 0, h.src, t.aon, 0, false, false, [], []⟩
      { t with peers := t.peers.set (1024 + h.port) x }.answerAsk h (1024 + h.port) nonce
    else
      match t.admitting h.src with
      | some (i, x) =>
        let y := { x with id := peerId, device := role == 1, parts := x.parts ||| parts % 65536, port := h.port }
        { t with peers := t.peers.set i y }.answerAsk h i nonce
      | none =>
        match t.newEntry with
        | none => t.answerMsg h .bg (.admitDone .peerTableFull)
        | some (i, t1) =>
          let x : Peer := ⟨peerId, .admitting, role == 1, h.port, parts % 65536, h.src, t1.aon, 0, false, false, [], []⟩
          { t1 with peers := t1.peers.set i x }.answerAsk h i nonce)

/-- A verified quote (R588 orders 4 to 6, R642): keys of the hop are agreed, the entry is ADMITTED, ADMIT_DONE goes out. An endpoint that
has an entry already keeps it, with the partitions joined. -/
def State.admitted (s : State) (h : Hdr) (i : Nat) (x : Peer) (id : Word64) (device : Bool) : State :=
  let parts := x.parts &&& s.portParts h.port
  let s1 := s.agreeKeys h.port x.fabric (if i < 1024 then partsOf parts else [])
  let s2 := if 1024 ≤ i then { s1 with peers := s1.peers.erase i }
    else
      match s1.peers.find? (fun kv => kv.1 != i && kv.2.id == id && kv.2.state == PeerState.admitted) with
      | some (j, y) =>
        { s1 with peers := (s1.peers.erase i).set j { y with
            parts := y.parts ||| parts, port := h.port, fabric := x.fabric, gotQuote := true, asks := y.asks ++ x.asks } }
      | none =>
        { s1 with peers := s1.peers.set i { x with
            id := id, device := device, state := .admitted, port := h.port, parts := parts, gotQuote := true, lastUse := s1.aon } }
  s2.answerMsg h .bg (.admitDone .ok)

/-- A quote that fails verification (R588, R642): the admission is refused and counted. -/
def State.admitFails (s : State) (i : Nat) : State :=
  ((s.dropAdmission i .securityAttestation).bump Fld.CMP_ATTEST_FAILS_COUNT).attestFail

/-- The quote with which the initiator answers the responder's (R640): NONCE is the responder's NONCE_NEXT. -/
def State.answerQuote (s : State) (h : Hdr) (next : Nat) : State :=
  let d := s.draw
  let q := d.2.makeQuote 1 none next
  q.2.answerMsg h .bg (.admitQuote (Config.freeValue 77 d.1) q.1 (certBytes (Config.freeValue 71 d.1)))

/-- ADMIT_QUOTE (R588, R640): the quote is verified; the initiator answers with its own. -/
def doAdmitQuote (h : Hdr) (peerId : Word64) (device : Bool) (q : PeerQuote) (next : Nat) (s : State) : State :=
  s.admission h (if q.akLen ≤ 2048 ∧ q.dikLen ≤ 2048 then some (552 + q.akLen + q.dikLen) else none) (fun t =>
    match t.admitting h.src with
    | none => t
    | some (i, x) =>
      if !(t.quotePasses i x q) then (t.answerMsg h .bg (.admitDone .securityAttestation)).admitFails i
      else
        let t1 := if x.mine then t.answerQuote h next else t
        t1.admitted h i x peerId (device || x.device))

/-- ADMIT_DONE (R588, R640): with the right confirmation the admission is complete, and PEER_ADD ends with the peer index. -/
def doAdmitDone (h : Hdr) (confirm : Bool) (s : State) : State :=
  s.admission h (some 52) (fun t =>
    match t.peerOfSrc h.src with
    | some (i, x) =>
      if !x.gotQuote then t
      else if confirm then
        let t1 := { t with peers := t.peers.set i { x with asks := [], gotQuote := false } }.peerSeen i
        x.asks.foldl (fun (a : State) o => a.completeFor o .ok i) t1
      else
        let t1 := (x.asks.foldl (fun (a : State) o => a.completeFor o .securityAttestation)
          { t with peers := t.peers.set i { x with asks := [] } }).losePeer i
        (t1.bump Fld.CMP_ATTEST_FAILS_COUNT).attestFail
    | none =>
      match t.admitting h.src with
      | some (i, _) => if confirm then t else t.dropAdmission i .securityAttestation
      | none => t)

/-- ADMIT_TIMEOUT (R588): ADMIT_MS without both quotes. The status of a PEER_ADD that ends so is not stated: it is some
other than OK (log entry 21). -/
def doAdmitTimeout (i : Nat) (s : State) : State :=
  match s.peers.get? i with
  | none => s
  | some x =>
    if x.state ≠ .admitting then s
    else
      let d := s.draw
      d.2.dropAdmission i (Status.open_ (Config.freeValue 16 d.1))

/-- REHANDSHAKE (R591): the other device holds no entry for this one, which must be admitted again before it sends again: its entry
returns to admission. -/
def doRehandshake (h : Hdr) (_type _tag : Nat) (s : State) : State :=
  s.receive h 8 false (some 44) (fun i x t =>
    let d := t.draw
    let nonce := Config.freeValue 77 d.1
    { d.2 with peers := d.2.peers.modify i (fun y =>
        { y with state := .admitting, mine := true, gotQuote := false, nonces := [nonce] }) }.sendTo i 0 0 0 0 0 .bg (.admitAsk x.parts nonce))

-- Key revokes from a device (R587) -----------------------------------------------------------------------------------------------------------

/-- Forgets a partition's key on a port with the streams and queued messages under it (R556, R562, R663 order 3). -/
def Port.dropPart (x : Port) (p : Nat) : Port :=
  { x with
    keys := x.keys.erase p
    flows := x.flows.filter (fun f => f.1 / 3 != p)
    streams := x.streams.filter (fun st => st.1.1 != p)
    rxOpen := x.rxOpen.filter (fun st => st.1 != p) }

/-- KEY_REVOKE (R587): flits under the partition key are dropped, then the answer goes out. -/
def doKeyRevoke (h : Hdr) (part epoch : Nat) (s : State) : State :=
  s.receive h 10 false (if part < 16 then some 40 else none) (fun _ _ t =>
    (t.modPort h.port (fun x => x.dropPart part)).answerMsg h .bg (.keyRevoke part epoch true))

end Sys2Proof.Machine
end

