-- ==== Sys2Proof/Machine/Plumb.lean ====
section
/-!
DEFINITION. Configuration: what settings, plans and change records load, the plumb check, and how a plan takes effect
(21_start_configuration_firmware.md R700 to R711, 19_security_and_isolation.md R635, R651 to R655).
-/

namespace Sys2Proof.Machine

open Sys2Proof

-- Loading registers (R702, R703, R706) --------------------------------------------------------------------------------------

/-- The BAR0 offset of a register (R769). -/
def Reg.addr (r : Reg) : Nat :=
  match regRows.find? (fun w => w.cls == r.cls) with
  | some w => w.base + r.i * w.stride + r.j * w.stride2
  | none => 0

/-- Classes of plan registers (R703). -/
def planClasses : List RegClass :=
  [.sesPartRange, .schPartCores, .memTileDataBase, .memTileSideBase, .memMortarBase, .memRecordBase, .memFrames, .memPartTiles,
   .memPartMortar, .memPartCtx, .memPartQuota, .memArbSlot, .memCfg, .hifVfMap, .bndCfg, .ckpCfg, .attCfg, .qryGov]

/-- Whether a field is one that a kind 1 plan carries (R703): BND_CFG as a whole, the RWL fields of the others. -/
def Field.planned (f : Field) : Bool := planClasses.contains f.cls && (f.acc == .rwl || (f.cls == .bndCfg && f.acc == .rw))

/-- Whether a settings entry loads a field (R702): LNK_CFG takes ENABLE and GEN_MAX from the link map alone. -/
def Field.settable (f : Field) : Bool :=
  (f.acc == .rw || f.acc == .rwl) && !f.planned && !(f.cls == .lnkCfg && f.acc == .rwl)

/-- Stores a field of a register, a performance counter's among them. -/
def State.putField (s : State) (f : Field) (i j v : Nat) : State :=
  if f.cls.isPmc then s.setPmc ⟨f.cls, i, j⟩ (setBits (s.pmcReg ⟨f.cls, i, j⟩) f.hi f.lo v) else s.setFld f v i j

/-- Loads those fields of a settings entry that pass a test. -/
def State.loadSetting (s : State) (ok : Field → Bool) (g : Setting) : State :=
  g.reg.cls.fields.foldl (fun (a : State) f => if ok f then a.putField f g.reg.i g.reg.j (bitsOf g.value f.hi f.lo) else a) s

/-- Loads settings entries in order. -/
def State.loadSettings (s : State) (ok : Field → Bool) (l : List Setting) : State :=
  l.foldl (fun (a : State) g => a.loadSetting ok g) s

/-- Loads a plan (R703): every plan field that it omits takes its reset value. -/
def State.loadPlan (s : State) (p : Plan) : State :=
  let blank (a : State) (rv : Reg × Word64) : State :=
    rv.1.cls.fields.foldl (fun (b : State) f => if f.planned then b.putField f rv.1.i rv.1.j f.reset else b) a
  (s.regs.foldl blank s).loadSettings Field.planned p.settings

/-- Whether a settings entry names a register that settings may load (R702). -/
def Setting.ok (g : Setting) : Bool := g.reg.cls.fields.any Field.settable
/-- Whether a plan's entry names a plan register (R703). -/
def Setting.planOk (g : Setting) : Bool := g.reg.cls.fields.any Field.planned

-- The plumb check (R708 to R710) ------------------------------------------------------------------------------------------------

/-- What the check counts resources as (R709): enabled cores, bytes of LPDDR6 data capacity, ports left down, USER_FRAMES where the
quarry is mounted, and whether the check runs during a start. -/
structure Resources where
  cores : Nat
  bytes : Nat
  down  : List Nat
  user  : Option Nat
  start : Bool
  deriving DecidableEq, Repr

/-- A refusal: the reason, and the offset of the register or of the item of a table set that it names; none for another item of the image or
payload. -/
structure Offence where
  reason : Nat
  place  : Option Nat
  deriving DecidableEq, Repr

/-- An offence of an item that is no register. -/
def item (reason : Nat) : Option Offence := some ⟨reason, none⟩
/-- An offence of a register. -/
def Reg.offends (r : Reg) (reason : Nat) : Option Offence := some ⟨reason, some r.addr⟩

/-- A run of units under a register's name: first and count. -/
structure Span where
  reg   : Reg
  first : Nat
  count : Nat
  deriving DecidableEq, Repr

/-- Whether two runs share a unit. -/
def Span.meets (a b : Span) : Bool :=
  decide (0 < a.count) && decide (0 < b.count) && decide (a.first < b.first + b.count) && decide (b.first < a.first + a.count)

/-- The first run of a list that meets an earlier one. -/
def firstClash (seen l : List Span) : Option Span :=
  match l with
  | [] => none
  | x :: r => if seen.any (fun y => y.meets x) then some x else firstClash (seen ++ [x]) r

/-- The first run of a list that ends beyond a limit. -/
def firstBeyond (limit : Nat) (l : List Span) : Option Span := l.find? (fun x => decide (0 < x.count) && decide (limit < x.first + x.count))

/-- The offence of a run that was found, else what comes next. -/
def runOffends (o : Option Span) (reason : Nat) (next : Option Offence) : Option Offence :=
  match o with
  | some x => x.reg.offends reason
  | none => next

/-- The partitions that a plan gives a core. -/
def State.planned (t : State) : List Nat := allParts.filter (fun p => t.fld Fld.SCH_PART_CORES_CORES p != 0)

/-- Reasons 0x01 to 0x03 (R329, R31). -/
def State.checkCores (t : State) (res : Resources) (places : List PlaceRef) : Option Offence :=
  let reg (p : Nat) : Reg := ⟨.schPartCores, p, 0⟩
  let mask (p : Nat) : Nat := t.fld Fld.SCH_PART_CORES_CORES p
  match allParts.find? (fun p => (List.range p).any (fun q => mask p &&& mask q != 0)) with
  | some p => (reg p).offends 0x01
  | none =>
    match allParts.find? (fun p => decide (2 ^ res.cores ≤ mask p)) with
    | some p => (reg p).offends 0x02
    | none => if places.any (fun x => mask x.part == 0) then item 0x03 else none

/-- Reasons 0x04 and 0x05 (R52). -/
def State.checkSlots (t : State) : Option Offence :=
  let spans := allParts.map (fun p => (⟨⟨.sesPartRange, p, 0⟩, t.slotBase p, t.slotCount p⟩ : Span))
  runOffends (firstClash [] spans) 0x04 (runOffends (firstBeyond 4194304 spans) 0x05
    (if 4194304 < (spans.map (fun x => x.count)).sum then (⟨.sesPartRange, 15, 0⟩ : Reg).offends 0x05 else none))

/-- The regions of LPDDR6 (R379), in bytes. -/
def State.regions (t : State) : List Span :=
  let mib : Nat := 2 ^ 21
  let tiles := t.fld Fld.MEM_FRAMES_TILE_FRAMES
  let mortars := t.fld Fld.MEM_FRAMES_MORTAR_FRAMES
  [⟨⟨.memCap, 0, 0⟩, 0, 2 ^ 30⟩]
    ++ allParts.map (fun p => ⟨⟨.memPartCtx, p, 0⟩, t.fld Fld.MEM_PART_CTX_BASE_2M p * mib, t.fld Fld.MEM_PART_CTX_SIZE_2M p * mib⟩)
    ++ [⟨⟨.memTileDataBase, 0, 0⟩, t.fld Fld.MEM_TILE_DATA_BASE_BASE_2M * mib, tiles * 16384⟩,
        ⟨⟨.memTileSideBase, 0, 0⟩, t.fld Fld.MEM_TILE_SIDE_BASE_BASE_2M * mib, tiles * 2048⟩,
        ⟨⟨.memMortarBase, 0, 0⟩, t.fld Fld.MEM_MORTAR_BASE_BASE_2M * mib, mortars * 4096⟩,
        ⟨⟨.memRecordBase, 0, 0⟩, t.fld Fld.MEM_RECORD_BASE_BASE_2M * mib, (tiles + mortars) * 8⟩]

/-- The owner of a frame by the ranges of a plan. -/
def State.tileOwner (t : State) (n : Nat) : Option Nat :=
  allParts.find? (fun p => decide (t.tileFirst p ≤ n) && decide (n < t.tileFirst p + t.tileCount p))
/-- The owner of a mortar frame by the ranges of a plan. -/
def State.morOwner (t : State) (n : Nat) : Option Nat :=
  allParts.find? (fun p => decide (t.morFirst p ≤ n) && decide (n < t.morFirst p + t.morCount p))

/-- Owner codes of the arbitration slot table (R390). -/
def State.slotOwners (t : State) : List Nat :=
  (List.range 64).flatMap (fun i => [t.fld Fld.MEM_ARB_SLOT_OWNER0 i, t.fld Fld.MEM_ARB_SLOT_OWNER1 i,
    t.fld Fld.MEM_ARB_SLOT_OWNER2 i, t.fld Fld.MEM_ARB_SLOT_OWNER3 i])

/-- Whether a plan takes from a partition a frame that it has in use (R381). -/
def taken (m : AMap Nat Frame) (owner : Nat → Option Nat) (p : Nat) : Bool :=
  m.any (fun kv => kv.2.owner == p && kv.2.state != .zeroing && owner kv.1 != some p)

/-- Reasons 0x20, 0x22 and 0x23 (R381). -/
def State.checkRegions (t : State) (res : Resources) : Option Offence :=
  let tiles := allParts.map (fun p => (⟨⟨.memPartTiles, p, 0⟩, t.tileFirst p, t.tileCount p⟩ : Span))
  let mortars := allParts.map (fun p => (⟨⟨.memPartMortar, p, 0⟩, t.morFirst p, t.morCount p⟩ : Span))
  runOffends (firstClash [] t.regions) 0x20 (runOffends (firstBeyond res.bytes t.regions) 0x20
    (runOffends (firstClash [] tiles) 0x22 (runOffends (firstClash [] mortars) 0x22
    (runOffends (firstBeyond (t.fld Fld.MEM_FRAMES_TILE_FRAMES) tiles) 0x22
    (runOffends (firstBeyond (t.fld Fld.MEM_FRAMES_MORTAR_FRAMES) mortars) 0x22
    (match allParts.find? (fun p => taken t.tileFrames t.tileOwner p) with
    | some p => (⟨.memPartTiles, p, 0⟩ : Reg).offends 0x23
    | none =>
      match allParts.find? (fun p => taken t.mortarFrames t.morOwner p) with
      | some p => (⟨.memPartMortar, p, 0⟩ : Reg).offends 0x23
      | none => none))))))

/-- Reasons 0x24 to 0x27 (R164, R391, R399, R457, R468). The report ring is one of a partition with a core. -/
def State.checkQuotas (t : State) : Option Offence :=
  let mortar (p : Nat) : Bool := decide (t.morCount p < 2 ^ t.fld Fld.BND_CFG_REPORT_FRAMES p)
  match allParts.find? (fun p => t.fld Fld.ATT_CFG_AREA_MIB p == 0 || decide (24 < t.fld Fld.ATT_CFG_AREA_MIB p)) with
  | some p => (⟨.attCfg, p, 0⟩ : Reg).offends 0x24
  | none =>
    let os := t.slotOwners
    let idle (p : Nat) : Bool := (t.tileCount p != 0 || t.morCount p != 0) && !(os.contains p)
    if os.any (fun o => decide (0x10 < o)) || decide ((os.filter (fun o => o == 0x10)).length < 8)
        || (t.fld Fld.MEM_CFG_ARB_MODE == 1 && allParts.any idle) then (⟨.memArbSlot, 0, 0⟩ : Reg).offends 0x25
    else if 65536 < (allParts.map (fun p => t.fld Fld.BND_CFG_OPEN_LIMIT p)).sum then (⟨.bndCfg, 0, 0⟩ : Reg).offends 0x26
    else
      match t.planned.find? mortar with
      | some p => (⟨.bndCfg, p, 0⟩ : Reg).offends 0x27
      | none => none

/-- Whether two entries of a list name one port. -/
def twoPorts (l : List LinkEnt) : Bool :=
  match l with
  | [] => false
  | x :: r => r.any (fun y => y.port == x.port) || twoPorts r

/-- Reasons 0x40 to 0x43 (R32, R567, R701). In an unconfigured start no image has set the device's own address (R715). -/
def State.checkLinks (t : State) (res : Resources) : Option Offence :=
  let own := t.fld Fld.CMP_SELF_FABRIC
  let unset := t.boot.unconf && !res.start
  if t.boot.links.any (fun l => l.parts != 0 && res.down.contains l.port) then item 0x40
  else if (own == 0 || own == 0xFFFF) && !unset then (⟨.cmpSelf, 0, 0⟩ : Reg).offends 0x41
  else if t.boot.links.any (fun l => l.peer == 0xFFFF) then item 0x41
  else if twoPorts t.boot.links || t.boot.links.any (fun l => l.genMax == 0 || l.genMax == 3) then item 0x42
  else if t.boot.links.any (fun l => l.peer != 0 && l.peer == own) then item 0x43
  else none

/-- Whether a partition holds a key slot of a kind and number. -/
def State.holdsSlot (t : State) (p kind n : Nat) : Bool :=
  match t.sec.slots.get? n with
  | some k => k.kind == kind && k.owner == some p
  | none => false

/-- Reasons 0x60 and 0x61 (R635, R653, R659). -/
def State.checkKeys (t : State) (places : List PlaceRef) : Option Offence :=
  let needs (x : PlaceRef) : Bool := match x.img with
    | some i => !i.weights.isEmpty && !(t.holdsSlot x.part 2 i.keySlot)
    | none => false
  if 4096 < t.sec.slots.length || t.sec.slots.any (fun kv => decide (4096 ≤ kv.1)) then item 0x60
  else if t.planned.any (fun p => t.sec.keyless && !(t.sec.seeds.contains p)) || places.any needs then item 0x61
  else none

/-- Whether a geometry lies inside the table of R403. -/
def NandGeom.inTable (g : NandGeom) : Bool :=
  decide (1 ≤ g.targets) && decide (g.targets ≤ 16) && decide (1 ≤ g.luns) && decide (g.luns ≤ 4)
    && (g.planes == 1 || g.planes == 2 || g.planes == 4) && decide (1 ≤ g.blocks) && decide (g.blocks ≤ 2048)
    && g.pages % 27 == 0 && decide (27 ≤ g.pages) && decide (g.pages ≤ 2025)
    && g.page == 16384 && decide (2048 ≤ g.spare) && decide (g.mask < 65536)

/-- Reasons 0x80 to 0x83 (R403, R404, R441, R709). -/
def State.checkQuarry (t : State) (res : Resources) (nand : Option NandGeom) : Option Offence :=
  let op := t.fld Fld.QRY_WEAR_CFG_OP_PERMIL
  let sum := (allParts.map (fun p => t.qryQuota p)).sum
  if (match nand with | some g => !g.inTable | none => false) then item 0x80
  else if (match nand with | some g => !g.ok | none => false) then item 0x81
  else if t.fld Fld.QRY_WEAR_CFG_PE_RATED < 1000 || t.fld Fld.QRY_WEAR_CFG_LIFE_DAYS == 0 || op < 70 || 500 < op then
    (⟨.qryWearCfg, 0, 0⟩ : Reg).offends 0x82
  else if t.fld Fld.QRY_CFG_RO_PCT = 0 then (⟨.qryCfg, 0, 0⟩ : Reg).offends 0x82
  else
    match res.user with
    | some n => if n < sum then (⟨.memPartQuota, 0, 0⟩ : Reg).offends 0x83 else none
    | none => none

/-- Reasons 0xA0 and 0xA1 (R672). -/
def State.checkFunctions (t : State) : Option Offence :=
  match allParts.find? (fun p => (t.fnOfPart p).isSome && (List.range p).any (fun q => t.fnOfPart q == t.fnOfPart p)) with
  | some p => (⟨.hifVfMap, p, 0⟩ : Reg).offends 0xA0
  | none =>
    match allParts.find? (fun p => match t.fnOfPart p with | some f => f.ctrl == 1 && !(bitOf t.boot.straps 0) | none => false) with
    | some p => (⟨.hifVfMap, p, 0⟩ : Reg).offends 0xA1
    | none => none

/-- Whether a rotary descriptor lies inside R142. -/
def Rotary.ok (r : Rotary) (d : Nat) : Bool :=
  decide (r.dims ≤ d) && r.dims % 2 == 0 && f32Lt f32One r.base.toNat && f32Lt f32Zero r.scale.toNat

/-- Reasons 0xC0 to 0xC3 of one placement image (R67, R101, R124, R142, R151, R238, R256). -/
def CtxImage.offence (x : CtxImage) : Option Offence :=
  let model := x.kind == .main || x.kind == .fallback
  if model && (decide (262144 < x.vocab) || decide (4096 < x.pairs) || decide (1024 < x.layers) || decide (256 < x.heads)
      || x.heads == 0 || x.qheads % x.heads != 0 || decide (64 < x.group)) then item 0xC0
  else if decide (16384 < x.dModel) then item 0xC0
  else if !(x.rotary.ok x.geom.d) then item 0xC1
  else
    match x.text.bind (fun t => t.offence x.region) with
    | some off => some ⟨0xC3, some off⟩
    | none => none

/-- Placed images of a partition. -/
def imagesOf (places : List PlaceRef) (p : Nat) : List CtxImage := (places.filter (fun x => x.part == p)).filterMap (fun x => x.img)

/-- Whether a main model of a placement names a fallback of another vocabulary (R250). -/
def badFallback (places : List PlaceRef) : Bool :=
  places.any (fun x => match x.img with
    | some i => i.kind == .main && places.any (fun y => y.part == x.part && y.ctx == i.fallback
        && (match y.img with | some f => f.vocab != i.vocab | none => false))
    | none => false)

/-- Reasons 0xC0 to 0xC5 (R238, R250, R381, R704). -/
def State.checkImages (t : State) (places : List PlaceRef) : Option Offence :=
  if places.any (fun x => x.img.isNone) then item 0xC5
  else
    match (places.filterMap (fun x => x.img)).findSome? CtxImage.offence with
    | some o => some o
    | none =>
      let store (p : Nat) : Nat := t.fld Fld.ATT_CFG_AREA_MIB p * 2 ^ 20 + ((imagesOf places p).map (fun i => i.share * 2048)).sum
      let progs (p : Nat) : Nat := ((imagesOf places p).map (fun i => i.progShare)).sum
      let region (p : Nat) : Nat := ((imagesOf places p).map (fun i => i.region)).sum
      if badFallback places then item 0xC3
      else if allParts.any (fun p => decide (2 ^ 25 < store p) || decide (1792 * 1024 < progs p))
          || places.any (fun x => match x.img with | some i => !(i.progOk (t.areaBytesOf x.part)) | none => false) then item 0xC2
      else
        match allParts.find? (fun p => decide (t.fld Fld.MEM_PART_CTX_SIZE_2M p * 2 ^ 21 < region p)) with
        | some p => (⟨.memPartCtx, p, 0⟩ : Reg).offends 0xC4
        | none => none

/-- Reasons 0xE0 and 0xE1 (R700). -/
def State.checkImage (t : State) : Option Offence :=
  match t.boot.image with
  | none => none
  | some i => if t.boot.fired.rollback < i.minRollback then item 0xE0 else if i.hwType ≠ 0x2640 then item 0xE1 else none

/-- The plumb check over a resulting configuration (R708): the first offence, in order of the reasons. The order in which the check
examines its items is not stated (log entry 35). -/
def State.plumb (t : State) (res : Resources) (places : List PlaceRef) : Option Offence :=
  let nand := match t.boot.image with | some i => i.nand | none => none
  [t.checkCores res places, t.checkSlots, t.checkRegions res, t.checkQuotas, t.checkLinks res, t.checkKeys places,
   t.checkQuarry res nand, t.checkFunctions, t.checkImages places, t.checkImage].findSome? id

/-- Writes BOOT_PLUMB for an offence (R708). -/
def State.plumbRefuses (s : State) (o : Offence) : State := s.plumbReason o.reason o.place

/-- Resources as they are now (R709). -/
def State.actual (s : State) (start : Bool) : Resources :=
  { cores := s.cores.length, bytes := s.fld Fld.MEM_CAP_STRIPES * 49152,
    down := s.boot.trainFails ++ s.boot.deadPorts ++ (s.ports.filter (fun kv => kv.2.leftDown)).map (fun kv => kv.1),
    user := if s.qry.mounted then some s.qry.user else none, start := start }

-- Change records (R652 to R655, R705) ---------------------------------------------------------------------------------------------

/-- Order 1 of R653 (R651, R652): MAGIC, VERSION and the reserved bytes, ARG, which is zero but in a re-arm, and a payload that is one of
its kind; a plan names plan registers only. -/
def ChangeRec.wellFormed (r : ChangeRec) : Bool :=
  r.magic == 0x31434346 && r.version == 1 && r.resv == 0 && r.form && (r.kind == 5 || r.arg == 0) && (match r.payload with
    | .plan p => r.kind == 1 && p.settings.all Setting.planOk
    | .keys _ => r.kind == 2
    | .alarms _ _ => r.kind == 3
    | .binding _ _ _ => r.kind == 4
    | .rearm => r.kind == 5
    | .debug => r.kind == 6
    | .removal => r.kind == 7 && decide (r.part < 16))

/-- The authorities that a record's key IDs and signatures must be of (R653, R654): those bound, else those that a first binding
carries. -/
def State.authoritiesFor (s : State) (r : ChangeRec) : Option (Nat × Nat) :=
  match s.sec.authority with
  | some a => some a
  | none => match r.payload with | .binding o c _ => some (o, c) | _ => none

/-- The checks of R653 in order: the plumb reason of the first that fails. `held` spares the SEQ test of R705. -/
def State.recordFails (s : State) (r : ChangeRec) (held : Bool) : Option Nat :=
  if !r.wellFormed then some 0x62
  else if r.target ≠ s.sec.fuses.peerId then some 0x62
  else
    match s.authoritiesFor r with
    | none => some 0x64
    | some (o, c) =>
      if r.opKey ≠ o ∨ r.custKey ≠ c ∨ !r.sigs then some 0x62
      else if !held && decide (r.seq ≤ s.sec.changeSeq) then some 0x63
      else if !r.digest then some 0x62
      else if s.sec.latched ≠ 0 ∧ r.kind ≠ 5 then some 0x65
      else none

/-- Whether a record is the one in force of its kind (R705). -/
def State.heldRecord (s : State) (r : ChangeRec) : Bool := s.recordOf r.kind == some ⟨r.kind, r.seq, r.id⟩

/-- Gives a slot of the key store to a key; which free slot is open (log entry 8). -/
def State.putKey (s : State) (k : KeySlot) : State :=
  match findFree s.sec.slots 0 4096 (Config.pick s.freeCtr) (s.sec.slots.length + 1) with
  | some n => { s with sec := { s.sec with slots := s.sec.slots.set n k }, freeCtr := s.freeCtr + 1 }
  | none => s

/-- Draws the quarry seeds of the configured partitions that lack one (R635 kind 4), unless an A3 bars it (R659). -/
def State.drawSeeds (s : State) : State :=
  if s.sec.keyless then s
  else
    (s.planned.filter (fun p => !(s.sec.seeds.contains p))).foldl (fun (a : State) p =>
      { a with sec := { a.sec with seeds := a.sec.seeds ++ [p] } }.putKey ⟨some p, 4, .loaded, a.sec.epochs.getD p 1, 0, none, false, none⟩) s

/-- Provisions the slots of a key policy (R635, R652): a slot whose owner, kind and image stay the same keeps its key. -/
def State.provision (s : State) (k : KeyPolicy) : State :=
  let kept := s.sec.slots.filter (fun kv => kv.2.kind == 0 || kv.2.kind == 4)
  let fresh (x : SlotPolicy) : KeySlot :=
    let new : KeySlot := ⟨x.owner, x.kind, if x.kind == 2 || x.kind == 3 then .provisioned else .loaded, 0, x.image, none, false, x.attest⟩
    match s.sec.slots.get? x.index with
    | some y => if y.owner == x.owner && y.kind == x.kind && y.image == x.image && y.attest == x.attest then y else new
    | none => new
  let slots := k.slots.foldl (fun (m : AMap Nat KeySlot) x => m.set x.index (fresh x)) kept
  { s with sec := { s.sec with slots := slots, conf := k.conf, keyless := false } }

/-- The levels of an alarm policy, none below its floor (R656). -/
def flooredLevels (levels : Nat) : Nat :=
  (List.range 7).foldl (fun a n =>
    a + Nat.max (bitsOf levels (2 * n + 1) (2 * n)) (if n = 3 then 2 else 1) * 2 ^ (2 * n)) 0

/-- Loads the values of a record of kinds 1 to 4 (R652). -/
def State.loadRecord (s : State) (r : ChangeRec) : State :=
  match r.payload with
  | .plan p => s.loadPlan p
  | .keys k => s.provision k
  | .alarms levels limit =>
    (s.setFld Fld.SEC_ALARM_POLICY_LEVELS (flooredLevels levels)).setFld Fld.SEC_ALARM_POLICY_ATTEST_LIMIT limit
  | .binding o c unit =>
    let s := { s with sec := { s.sec with authority := some (o, c), requireUnit := unit,
                                          slots := s.sec.slots.filter (fun kv => kv.2.kind != 0) } }
    (s.putKey ⟨none, 0, .loaded, 0, 0, none, false, none⟩).putKey ⟨none, 0, .loaded, 0, 0, none, false, none⟩
  | _ => s

/-- A record becomes the one in force, and its SEQ the last applied (R655, R705). -/
def State.enforce (s : State) (r : ChangeRec) : State :=
  { s with sec := { s.sec with
      changeSeq := Nat.max s.sec.changeSeq r.seq
      inForce := if r.kind ≤ 4 then ⟨r.kind, r.seq, r.id⟩ :: s.sec.inForce.filter (fun x => x.kind != r.kind) else s.sec.inForce } }

-- A plan takes effect (R134, R218, R330, R394, R468, R802) ----------------------------------------------------------------------------

/-- The placement image that flash holds under a digest (R704). -/
def State.imageOf (s : State) (x : PlaceRef) : Option CtxImage :=
  let inCopy (c : Option ConfigImage) : Option CtxImage := match c with
    | some i => (i.placement.find? (fun y => y.digest == x.digest)).map (fun y => y.img)
    | none => none
  match inCopy s.boot.imgA, inCopy s.boot.imgB with
  | some i, _ => some i
  | none, some i => some i
  | none, none => x.img

/-- The placement list of a plan with the images found. -/
def State.resolve (s : State) (l : List PlaceRef) : List PlaceRef := l.map (fun x => { x with img := s.imageOf x })

/-- Demotes every tile-store tile of a session (R134); a tile that finds no frame stays where it is. -/
def State.demoteSession (s : State) (slot : Nat) : State :=
  (((s.ses slot).mortar.entries.filter (fun kv => kv.2.tier == .store)).map (·.1)).foldl (fun (a : State) k =>
    match a.demote slot k with
    | some b => b
    | none => a) s

/-- Demotes every tile-store tile of a partition. -/
def State.demotePart (s : State) (p : Nat) : State :=
  ((s.sessions.filter (fun kv => kv.2.part == p && kv.2.state != .free)).map (·.1)).foldl (fun (a : State) n => a.demoteSession n) s

/-- The owner that a plan gives a core. -/
def State.coreOwner (s : State) (e : Nat) : Option Nat := allParts.find? (fun p => bitOf (s.fld Fld.SCH_PART_CORES_CORES p) e)

/-- Cores take the owners of the plan; one whose owner changes drops what it ran and the context programs, clears its fresh map and counts
no NaN (R218, R239, R248). -/
def State.ownCores (s : State) : State :=
  let give (kv : Nat × Core) : Nat × Core :=
    let o := s.coreOwner kv.1
    if kv.2.owner = o then kv
    else (kv.1, { kv.2 with owner := o, clearing := true, stopping := false, running := none, queue := [], paused := [],
                            lastLc := 63, lastBe := 63, choices := [],
                            prog := kv.2.prog.filter (fun w => decide (w.1 < systemWords)) })
  let moved := (s.cores.filter (fun kv => kv.2.owner != s.coreOwner kv.1)).map (·.1)
  moved.foldl (fun (a : State) e => a.setFld Fld.COR_NAN_COUNT 0 e) { s with cores := s.cores.map give }

/-- The frames of a range that an older plan gave to another partition, and that are FREE (R394). -/
def handedOver (m : AMap Nat Frame) (first count p : Nat) (before : Nat → Option Nat) : AMap Nat Frame :=
  ((List.range' first count).filter (fun n => !(m.has n) && (match before n with | some q => q != p | none => false))).map
    (fun n => (n, ⟨p, .zeroing, 0, 0, []⟩))

/-- FREE frames that a plan gives to another owner pass through ZEROING (R394). -/
def State.zeroHanded (s old : State) : State :=
  { s with
    tileFrames := s.tileFrames ++ allParts.flatMap (fun p => handedOver s.tileFrames (s.tileFirst p) (s.tileCount p) p old.tileOwner)
    mortarFrames := s.mortarFrames ++ allParts.flatMap (fun p => handedOver s.mortarFrames (s.morFirst p) (s.morCount p) p old.morOwner) }

/-- ZEROING frames that a plan gives to another owner are zeroed under the key of that owner (R394). -/
def State.ownFrames (s : State) : State :=
  let tile (kv : Nat × Frame) : Nat × Frame := match s.tileOwner kv.1 with | some p => (kv.1, { kv.2 with owner := p }) | none => kv
  let mor (kv : Nat × Frame) : Nat × Frame := match s.morOwner kv.1 with | some p => (kv.1, { kv.2 with owner := p }) | none => kv
  { s with tileFrames := s.tileFrames.map tile, mortarFrames := s.mortarFrames.map mor }

/-- The frames of a partition's report ring. -/
def State.ringFrames (s : State) (p : Nat) : List Nat :=
  (s.mortarFrames.filter (fun kv => kv.2.owner == p && kv.2.state == .priv && kv.2.backref == 0xFFFFFFFF)).map (·.1)

/-- Allocates the report ring of a partition (R468); the reports that still fit stay. R103 gives no BACKREF for frames that no slot owns:
those of the ring are PRIVATE with BACKREF 0xFFFFFFFF, which no slot has (DESIGN CHOICE, log entry 66). -/
def State.ringFor (s : State) (p : Nat) : State :=
  let n := 2 ^ s.fld Fld.BND_CFG_REPORT_FRAMES p
  let old := s.ringFrames p
  if old.length = n then s
  else
    let s1 := s.freeMors old
    let s2 := match s1.allocMors p ⟨p, .priv, 0, 0xFFFFFFFF, []⟩ n with
      | some (_, t) => t
      | none => s1
    { s2 with reports := s2.reports.set p (keepReports (s2.reportRoom p) (s2.reportsOf p)) }

/-- A context as a plan places it: it loads (R337). -/
def Ctx.placed (x : PlaceRef) (img : CtxImage) : Ctx :=
  { img := img, digest := x.digest, state := .loading, teardowns := 0, idleDowns := 0, blocks := [], asked := [], held := [] }

/-- A context that a new plan no longer names becomes ABSENT (R337): the commands that depend on it end with CONTEXT/context-down. -/
def State.dropCtx (s : State) (p c : Nat) : State :=
  let loads := (s.commandsOf p).filter (fun v => match v with
    | .load _ k _ => k == c | .held _ k _ _ => k == c | _ => false)
  let s1 := s.dropDispatches p c
  let s2 := (s1.ctxVictims p c ++ loads).foldl (fun (a : State) v => a.endVictim v .contextContextDown 0) s1
  { s2 with ctxs := s2.ctxs.erase (p, c) }

/-- The image of the system context (R333, R334): it takes no share and no region, and runs on system programs. -/
def CtxImage.system : CtxImage :=
  { kind := .system, cls := .bg, layers := 0, heads := 0, qheads := 0, geom := ⟨0, false, 0, 0⟩, rotary := ⟨0, false, 0, 0, []⟩, vocab := 0,
    eos := 0, text := none, fallback := 0x3F, dModel := 0, experts := [], share := 0, shareBase := 0, pinned := [], region := 0,
    qryShare := 0, table := [], entries := [], progShare := 0, progBase := 0, prog := [], resident := false, arena := 0, keySlot := 0,
    weights := [], sources := [] }

/-- The system context of a partition: its programs are in program memory since S09, so it is READY (log entry 49). -/
def Ctx.system : Ctx :=
  { img := CtxImage.system, digest := 0, state := .ready, teardowns := 0, idleDowns := 0, blocks := [], asked := [], held := [] }

/-- Whether a plan keeps a context: it names it with the same image, or it is the system context of a partition with cores. -/
def State.keepsCtx (s : State) (places : List PlaceRef) (k : Nat × Nat) (digest : Nat) : Bool :=
  if k.2 = 63 then s.planned.contains k.1 else places.any (fun x => x.part == k.1 && x.ctx == k.2 && x.digest == digest)

/-- Contexts of the plan: one that it keeps stays in its state; the partitions with cores have their system contexts. -/
def State.placeCtxs (s : State) (places : List PlaceRef) : State :=
  let gone := s.ctxs.filter (fun kv => !(s.keepsCtx places kv.1 kv.2.digest))
  let s1 := gone.foldl (fun (a : State) kv => a.dropCtx kv.1.1 kv.1.2) s
  let s2 := places.foldl (fun (a : State) x =>
    match x.img with
    | some i => if a.ctxs.has (x.part, x.ctx) then a else { a with ctxs := a.ctxs.set (x.part, x.ctx) (Ctx.placed x i) }
    | none => a) s1
  s2.planned.foldl (fun (a : State) p =>
    if a.ctxs.has (p, 63) then a else { a with ctxs := a.ctxs.set (p, 63) Ctx.system }) s2

/-- Forms the budgets of the day anew from the weights of the plan (R435). -/
def State.rebudget (s : State) : State :=
  if !s.qry.mounted then s
  else
    let t := s.govBudgets s.qry.waNum s.qry.waDen
    { s with qry := { s.qry with budget := t.qry.budget } }

/-- A plan whose registers are loaded takes effect (R330, R802). -/
def State.enact (s : State) (old : State) (plan : Plan) (places : List PlaceRef) : State :=
  let moved := allParts.filter (fun p => old.coresOf p != s.coresOf p)
  let s1 := moved.foldl (fun (a : State) p => (a.demotePart p).zeroPmc p) s
  let s2 := ((s1.ownCores.ownFrames.zeroHanded old).placeCtxs places).drawSeeds
  let s3 := s2.planned.foldl (fun (a : State) p => a.ringFor p) s2
  { s3 with
    boot := { s3.boot with plan := some plan, places := places, unconf := false }
    sec := { s3.sec with removed := s3.sec.removed.filter (fun p => !(s3.planned.contains p)) } }.rebudget

end Sys2Proof.Machine
end

