-- ==== Sys2Proof/Machine/Secure.lean ====
section
/-!
DEFINITION. Change records by command, key release, weight supply, attestation over DOE, tenant removal, stopping and clearing of
cores (19_security_and_isolation.md R636 to R667, 21 R704, R725, 06 R218, 20 R693).
-/

namespace Sys2Proof.Machine

open Sys2Proof

-- SEC_CHANGE (R653, R655, R659, R707, R715) ------------------------------------------------------------------------------------

/-- A record that a command brought is refused (R653). -/
def State.refuseRecord (s : State) (u : Sub) (st : Status) : State := (s.bump Fld.SEC_CHANGE_REFUSED_COUNT).complete u st

/-- Runs the plumb check over a shadow configuration; the values take effect only when it passes (R707). -/
def State.tryConfig (s t : State) (u : Sub) (places : List PlaceRef) (k : State → State) : State :=
  match t.plumb (s.actual false) places with
  | some o => (s.plumbRefuses o).refuseRecord u .securityChangeRecord
  | none => (k t).complete u .ok

/-- Re-arm (R659, R660). An alarm record is named by the number of its error record (log entry 37). -/
def State.rearm (s : State) (u : Sub) (r : ChangeRec) : State :=
  let s := { s with sec := { s.sec with raw := if s.failsLimit then s.sec.raw else clearSource s.sec.raw 6 } }
  if s.sec.spent then s.refuseRecord u .securitySpent
  else if r.arg ≠ s.sec.record then s.refuseRecord u .securityChangeRecord
  else if s.sec.raw &&& s.sec.latched ≠ 0 then s.refuseRecord u .securityAlarmLatched
  else
    let s := s.enforce r
    { s with
      sec := { s.sec with latched := 0, level := 0, frozen := false }
      pins := { s.pins with alarmOut := false } }.complete u .ok

/-- SEC_CHANGE (R653, R707): the record is checked, its values are checked, then it is applied. -/
def doSecChange (u : Sub) (r : ChangeRec) (s : State) : State :=
  match s.recordFails r false with
  | some _ => s.refuseRecord u .securityChangeRecord
  | none =>
    match r.payload with
    | .plan p =>
      let places := s.resolve p.places
      s.tryConfig (s.loadRecord r) u places (fun t => (t.enact s p places).enforce r)
    | .keys k =>
      if k.foreign then (s.plumbRefuses ⟨0x66, none⟩).refuseRecord u .securityChangeRecord
      else s.tryConfig (s.loadRecord r).drawSeeds u s.boot.places (fun t => t.enforce r)
    | .alarms _ _ => s.tryConfig (s.loadRecord r) u s.boot.places (fun t => t.enforce r)
    | .binding _ _ _ => s.tryConfig (s.loadRecord r) u s.boot.places (fun t => t.enforce r)
    | .rearm => s.rearm u r
    | .debug => (({ s with sec := { s.sec with debug := true } }).enforce r).complete u .ok
    | .removal => s.refuseRecord u .securityChangeRecord

-- Quotes and key release (R638, R643 to R646) --------------------------------------------------------------------------------------

/-- KEY_QUOTE (R643): in confidential-host mode only the owning virtual function may ask. A slot that holds no tenant key of the
partition has no quote: the status of that refusal is not stated (log entry 39). -/
def doKeyQuote (u : Sub) (slot nonce : Nat) (s : State) : State :=
  let p := s.subPart u
  let d := s.draw
  if s.sec.conf.contains p && u.fn.isPf then s.complete u .securityConfidential
  else if !(s.holdsSlot p 2 slot || s.holdsSlot p 3 slot) then
    d.2.complete u (Status.open_ (Config.freeValue 20 d.1))
  else
    let q := d.2.makeQuote 2 (some p) nonce
    let t := { q.2 with sec := { q.2.sec with slots := q.2.sec.slots.modify slot (fun k => { k with quote := some q.1.number }) } }
    (t.buf u.fn (.quote q.1)).complete u .ok (certBytes (Config.freeValue 71 d.1))

/-- Whether a release blob passes R645 for a slot. -/
def Blob.passes (b : Blob) (k : KeySlot) : Bool :=
  b.sigOk && k.quote == some b.quote && b.kind == k.kind && (b.kind != 2 || b.image == k.image) && b.tagOk

/-- KEY_IMPORT (R643, R645): the key goes into the slot, or the slot holds none and the refusal counts; the ephemeral key goes. -/
def doKeyImport (u : Sub) (slot : Nat) (b : Blob) (s : State) : State :=
  let p := s.subPart u
  let fail (s : State) : State := ((s.bump Fld.SEC_RELEASE_FAILS_COUNT p).attestFail).complete u .securityKeyRelease
  if s.sec.conf.contains p && u.fn.isPf then s.complete u .securityConfidential
  else
    match s.sec.slots.get? slot with
    | none => fail s
    | some k =>
      if k.owner ≠ some p ∨ (k.kind ≠ 2 ∧ k.kind ≠ 3) then fail s
      else if b.passes k then
        let k' := { k with state := .loaded, epoch := s.epochOf p, quote := none, retain := b.retain }
        { s with sec := { s.sec with slots := s.sec.slots.set slot k' } }.complete u .ok
      else fail { s with sec := { s.sec with slots := s.sec.slots.set slot { k with state := .provisioned, quote := none } } }

/-- WGT_SUPPLY (R704, R725): a loading context takes the blocks of its weight table; one that does not load takes none. Each block is
given as what it decrypts to. -/
def doWgtSupply (u : Sub) (ctx first : Nat) (blocks : List (List Byte)) (s : State) : State :=
  let p := s.subPart u
  match s.ctx p ctx with
  | none => s.complete u .contextContextDown
  | some x =>
    let n := if x.state = .loading then Nat.min blocks.length (x.img.weights.length - first) else 0
    let put (m : List Host.Cell) (k : Nat) : List Host.Cell :=
      match x.img.weights[first + k]?, blocks[k]? with
      | some (off, len), some bs => Memory.writes 0 m off (bs.take len)
      | _, _ => m
    let cells := (List.range n).foldl put (s.ram.getD (p, ctx) [])
    let have_ := (x.blocks ++ List.range' first n).eraseDups
    let s1 := if n = 0 then s else { s with ram := s.ram.set (p, ctx) cells }
    (s1.modCtx p ctx (fun y => { y with blocks := if n = 0 then y.blocks else have_ })).complete u .ok n

-- DOE (R648, R693) -----------------------------------------------------------------------------------------------------------------------

/-- Whether a function is present: a PF0 of a controller in use, or a virtual function that a partition names (R669, R672). -/
def State.present (s : State) (f : Fn) : Bool :=
  (f.ctrl == 0 || (f.ctrl == 1 && bitOf s.boot.straps 0)) && (f.isPf || (s.partOfFn f).isSome)

/-- Whether the PCIe controllers run (R671): S05 has passed, in a start or after it. -/
def State.pcieUp (s : State) : Bool :=
  match s.boot.phase with
  | .ready => true
  | .start n => decide (5 < n)
  | .stopped n => decide (5 < n)
  | _ => false

/-- Whether a controller's reset pin is asserted. -/
def State.perst (s : State) (ctrl : Nat) : Bool := if ctrl = 0 then s.pins.perst0 else s.pins.perst1

/-- Whether a function's DOE mailbox answers. -/
def State.doeUp (s : State) (f : Fn) : Bool := s.pcieUp && s.present f && !(s.perst f.ctrl)

/-- DOE_DISCOVERY (R693): an object that the device does not know is answered with a zero-length object. -/
def doDoeDiscovery (f : Fn) (known : Bool) (s : State) : State :=
  if !(s.doeUp f) then s else if known then s.put (.doe f none .ok) else s.put (.doeEmpty f)

/-- DOE_HOST_REPORT (R693): a quote of PURPOSE 4. -/
def doDoeHostReport (f : Fn) (nonce : Nat) (s : State) : State :=
  if !(s.doeUp f) then s
  else
    let q := s.makeQuote 4 (s.partOfFn f) nonce
    q.2.put (.doe f (some q.1) .ok)

/-- The bounce agreement of a function. -/
def State.bounceOf (s : State) (f : Fn) : Bounce := s.bounce.getD f.index ⟨none, false, 0, 0, []⟩

/-- BB_ASK (R648): a quote of PURPOSE 3; keys in use stay until the confirm. -/
def doBbAsk (f : Fn) (nonce : Nat) (s : State) : State :=
  if !(s.doeUp f) then s
  else
    let q := s.makeQuote 3 (s.partOfFn f) nonce
    let b := { q.2.bounceOf f with quote := some q.1.number }
    { q.2 with bounce := q.2.bounce.set f.index b }.put (.doe f (some q.1) .ok)

/-- BB_CONFIRM (R648): with the right tag, which uses counter 0, the new keys replace the old; the ephemeral key goes either way. -/
def doBbConfirm (f : Fn) (tagOk : Bool) (s : State) : State :=
  if !(s.doeUp f) then s
  else
    let b := s.bounceOf f
    if b.quote.isSome && tagOk then
      { s with bounce := s.bounce.set f.index ⟨none, true, 0, 0, [0]⟩ }.put (.doe f none .ok)
    else { s with bounce := s.bounce.set f.index { b with quote := none } }.put (.doe f none .securityBounceAuth)

-- Tenant removal (R661 to R666) -------------------------------------------------------------------------------------------------------------

/-- Order 1: the partition's commands end, its cores stop, its bonds abort, its moves end with MOVE_ABORT. -/
def State.removeOrder1 (s : State) (p : Nat) : State :=
  let ins := s.movesIn.filter (fun kv => (s.ses kv.1).part == p)
  let s1 := ins.foldl (fun (a : State) kv => a.sendAbort kv.2.peer p kv.2.comp kv.2.srcHandle .securityPartitionGone) (s.stopCores p)
  let gone (n : Nat) : Bool := ins.any (fun kv => kv.1 == n)
  { s1 with
    movesIn := s1.movesIn.filter (fun kv => !(gone kv.1))
    pulls := s1.pulls.filter (fun w => !(gone w.slot)) }.endCommands p .securityPartitionGone

/-- Order 3 (R664): the partition's keys and queued messages go on every port, and every peer admitted for it is told. -/
def State.removeFence (s : State) (p : Nat) : List Nat × State :=
  let peers := (s.peers.filter (fun kv => kv.2.state == PeerState.admitted && bitOf kv.2.parts p)).map (·.1)
  let s1 := { s with ports := s.ports.map (fun (kv : Nat × Port) => (kv.1, kv.2.dropPart p)) }
  (peers, peers.foldl (fun (a : State) i => a.sendTo i p 0 0 0 0 .bg (.keyRevoke p (a.epochOf p) false)) s1)

/-- Order 4: every frame of the partition goes to ZEROING and every byte of its context region is zero; what they held is gone. -/
def State.removeMemory (s : State) (p : Nat) : State :=
  let slots := (s.sessions.filter (fun kv => s.inRange p kv.1)).map (·.1)
  let keep (n : Nat) : Bool := !(slots.contains n)
  let zero (f : Frame) : Frame := { f with state := .zeroing, refcount := 0, backref := 0 }
  { s with
    sessions := s.sessions.filter (fun kv => keep kv.1)
    handoffs := s.handoffs.filter (fun kv => keep kv.1)
    revives := s.revives.filter (fun kv => keep kv.1)
    slices := s.slices.filter (fun w => w.part != p)
    expertWait := s.expertWait.filter (fun w => w.part != p)
    prefixes := s.prefixes.filter (fun kv => kv.1.1 != p)
    regPages := s.regPages.filter (fun kv => kv.1.1 != p)
    grammars := s.grammars.filter (fun kv => kv.1.1 != p)
    forwards := s.forwards.filter (fun f => f.part != p)
    tiles := s.tiles.filter (fun kv => match kv.1 with
      | .store e _ => !((s.coresOf p).contains e)
      | .frame n => s.tileOwner n != some p
      | .quarry _ => true)
    tileFrames := s.tileFrames.map (fun (kv : Nat × Frame) => if kv.2.owner = p then (kv.1, zero kv.2) else kv)
    mortarFrames := s.mortarFrames.map (fun (kv : Nat × Frame) => if kv.2.owner = p then (kv.1, zero kv.2) else kv)
    colls := s.colls.filter (fun kv => kv.2.part != p)
    scans := s.scans.filter (fun kv => match s.colls.get? kv.1 with | some c => c.part != p | none => false)
    comps := s.comps.filter (fun kv => kv.2.part != p)
    capSeq := s.capSeq.erase p
    reports := s.reports.erase p
    ctxs := s.ctxs.filter (fun kv => kv.1.1 != p)
    ram := s.ram.filter (fun kv => kv.1.1 != p)
    batches := s.batches.filter (fun kv => match kv.2.key with
      | .slices q _ _ _ _ _ => q != p
      | .experts q _ _ _ => q != p) }

/-- Whether frames of a partition are still to be zeroed. -/
def State.zeroingLeft (s : State) (p : Nat) : Bool :=
  s.tileFrames.any (fun kv => kv.2.owner == p) || s.mortarFrames.any (fun kv => kv.2.owner == p)

/-- Bytes that order 4 zeroes: the partition's frame ranges and context region (R663, R665). -/
def State.removeBytes (s : State) (p : Nat) : Nat :=
  s.tileCount p * 18432 + s.morCount p * 4096 + s.fld Fld.MEM_PART_CTX_SIZE_2M p * 2 ^ 21

/-- Order 5 (R439): the seed goes, every frame of the partition is trimmed under one bond; the count of frames. -/
def State.removeQuarry (s : State) (p : Nat) : Nat × State :=
  let fs := if s.qry.mounted then (s.qry.map.filter (fun kv => kv.2.owner == p)).map (·.1) else []
  let s1 := (s.bondOnce p).qTrims (s.nextBond p) fs
  (fs.length, { s1 with
    mirror := s1.mirror.filter (fun m => m.part != p)
    ckp := { s1.ckp with
      newest := s1.ckp.newest.filter (fun kv => kv.1.1 != p)
      mans := s1.ckp.mans.filter (fun kv => kv.1.1 != p)
      index := s1.ckp.index.erase p
      runs := s1.ckp.runs.filter (fun kv => kv.1.1 != p) }
    sec := { s1.sec with seeds := s1.sec.seeds.filter (fun q => q != p) } })

/-- Order 6: the partition's key slots and its function's bounce keys go; the count of slots. -/
def State.removeKeys (s : State) (p : Nat) : Nat × State :=
  let n := (s.sec.slots.filter (fun kv => kv.2.owner == some p)).length
  let s1 := { s with sec := { s.sec with slots := s.sec.slots.filter (fun kv => kv.2.owner != some p) } }
  (n, match s1.fnOfPart p with
    | some f => { s1 with bounce := s1.bounce.erase f.index }
    | none => s1)

/-- The completion record of a removal (R665). -/
def State.removalRec (s : State) (r : Removal) : RemovalRec :=
  { part := r.part, alarm := r.alarm, restarted := r.restarted, oldEpoch := r.oldEpoch, newEpoch := s.epochOf r.part, seq := r.seq,
    id := r.id, lpddr := r.zeroed, frames := r.trimmed, revoked := r.revoked, lost := r.lost, slots := r.slots, stamp := s.aon,
    device := s.sec.fuses.peerId }

/-- Order 8: the record goes to PF0, the mark is cleared, the partition is removed. -/
def State.removeEnd (s : State) (r : Removal) : State :=
  let s := s.tick
  let rec_ := s.removalRec r
  let s1 := { s with
    removals := s.removals.erase r.part
    sec := { s.sec with marks := s.sec.marks.erase r.part, removed := r.part :: s.sec.removed } }
  let s2 := s1.buf r.fn (.removal rec_)
  if r.restarted then s2 else s2.completeFor ⟨r.fn, r.sq, r.tag⟩ .ok (256 + 8 * r.lost.length)

/-- Stores a removal in progress. -/
def State.setRemoval (s : State) (r : Removal) : State := { s with removals := s.removals.set r.part r }

/-- Takes one order of a removal where what the order before it waited for has come (R663). -/
def State.removeStep (s : State) (r : Removal) : State :=
  let p := r.part
  if r.order = 1 then
    if !(r.cores.isEmpty && s.allPosted p) then s
    else
      let old := s.epochOf p
      let s1 := { s with sec := { s.sec with epochs := s.sec.epochs.set p (old + 1), marks := s.sec.marks.set p (r.seq, r.id) } }
      let f := s1.removeFence p
      f.2.setRemoval { r with order := 3, oldEpoch := old, waiting := f.1 }
  else if r.order = 3 then
    if r.waiting.isEmpty then (s.removeMemory p).setRemoval { r with order := 4, zeroed := s.removeBytes p } else s
  else if r.order = 4 then
    if s.zeroingLeft p then s
    else if r.alarm && s.sec.keyless then ((s.clearFresh p)).setRemoval { r with order := 7, cores := s.coresOf p }
    else
      let q := s.removeQuarry p
      let k := q.2.removeKeys p
      (k.2.clearFresh p).setRemoval { r with order := 7, cores := k.2.coresOf p, trimmed := q.1, slots := k.1 }
  else if r.cores.isEmpty then s.removeEnd r
  else s

/-- Takes a removal as far as it goes. -/
def State.goRemoval (s : State) (p n : Nat) : State :=
  match n with
  | 0 => s
  | k + 1 =>
    match s.removals.get? p with
    | none => s
    | some r => (s.removeStep r).goRemoval p k

/-- Starts a removal (R663 order 1). -/
def State.startRemoval (s : State) (u : Sub) (p : Nat) (r : ChangeRec) : State :=
  let s1 := (s.enforce r).removeOrder1 p
  let x : Removal := { part := p, order := 1, fn := u.fn, sq := u.sq, tag := u.tag, seq := r.seq, id := r.id, oldEpoch := s.epochOf p,
                       cores := s1.stopsLeft p, waiting := [], revoked := 0, lost := [], zeroed := 0, trimmed := 0, slots := 0,
                       alarm := false, restarted := false }
  s1.setRemoval x

/-- PART_REMOVE (R662): with a kind 7 record for the partition; during a partition reset it waits. -/
def doPartRemove (u : Sub) (r : ChangeRec) (s : State) : State :=
  let p := s.subPart u
  if s.removals.has p then s.complete u .securityPartitionGone
  else if s.resets.has p then { s with removeWait := s.removeWait ++ [(u, r)] }
  else
    match s.recordFails r false with
    | some _ => s.refuseRecord u .securityChangeRecord
    | none => if r.kind ≠ 7 ∨ r.part ≠ p then s.refuseRecord u .securityChangeRecord else s.startRemoval u p r

/-- A peer answers a key revoke (R587, R663 order 3). -/
def doKeyRevokeResponse (h : Hdr) (part : Nat) (s : State) : State :=
  s.receive h 10 true (some 40) (fun i _ t =>
    match t.removals.get? part with
    | none => t
    | some r =>
      if r.order = 3 && r.waiting.contains i then
        t.setRemoval { r with waiting := r.waiting.filter (fun j => j != i), revoked := r.revoked + 1 }
      else t)

/-- Withdraws a peer's admission for a partition. -/
def Peer.without (x : Peer) (p : Nat) : Peer := { x with parts := if bitOf x.parts p then x.parts - 2 ^ p else x.parts }

/-- REVOKE_TIMEOUT (R663): peers that have not answered lose their admission for the partition and are named in the record. -/
def doRevokeTimeout (part : Nat) (s : State) : State :=
  match s.removals.get? part with
  | none => s
  | some r =>
    if r.order ≠ 3 then s
    else
      let ids := r.waiting.filterMap (fun i => (s.peers.get? i).map (fun x => x.id))
      let s1 := r.waiting.foldl (fun (a : State) i => { a with peers := a.peers.modify i (fun x => x.without part) }) s
      s1.setRemoval { r with waiting := [], lost := r.lost ++ ids }

/-- A start with a removal-pending mark runs orders 5, 6 and 8 (R666). -/
def State.finishRemoval (s : State) (p seq id : Nat) : State :=
  let q := s.removeQuarry p
  let k := q.2.removeKeys p
  k.2.removeEnd { part := p, order := 8, fn := ⟨0, 0⟩, sq := none, tag := 0, seq := seq, id := id, oldEpoch := s.epochOf p - 1,
                  cores := [], waiting := [], revoked := 0, lost := [], zeroed := 0, trimmed := q.1, slots := k.1,
                  alarm := false, restarted := true }

-- Cores stop and clear (R218, R224) ------------------------------------------------------------------------------------------------------------

/-- A core of a partition's removal has stopped or cleared. -/
def State.removalCore (s : State) (p e order : Nat) : State :=
  match s.removals.get? p with
  | none => s
  | some r => if r.order = order then s.setRemoval { r with cores := r.cores.filter (fun x => x != e) } else s

/-- CORE_STOPPED: a core that was to stop has reached a preemption point; what it ran is discarded. -/
def doCoreStopped (e : Nat) (s : State) : State :=
  match s.cores.get? e with
  | none => s
  | some c =>
    if !c.stopping then s
    else
      let s1 := s.modCore e (fun x => { x with stopping := false, running := none })
      match c.owner with
      | none => s1
      | some p => ((s1.resetStopped p e).removalCore p e 1).chooseNext e

/-- FRESH_MAP_CLEAR_DONE (R218): no line of the tile store is written any more, then the pinned regions of loaded contexts are filled. -/
def doFreshMapClearDone (e : Nat) (s : State) : State :=
  match s.cores.get? e with
  | none => s
  | some c =>
    if !c.clearing then s
    else
      let s1 := s.modCore e (fun x => { x with clearing := false, store := [], fresh := [], poison := [] })
      let s2 := { s1 with tiles := s1.tiles.filter (fun kv => match kv.1 with | .store k _ => k != e | _ => true) }
      match c.owner with
      | none => s2
      | some p =>
        let ready := (s2.ctxs.filter (fun kv => kv.1.1 == p && kv.2.state == .ready)).map (fun kv => kv.1.2)
        let s3 := ready.foldl (fun (a : State) x => a.fillPinned p x e) s2
        ((s3.resetCleared p e).removalCore p e 7).chooseNext e

end Sys2Proof.Machine
end

