-- ==== Sys2Proof/Machine/Freeze.lean ====
section
/-!
DEFINITION. Hardware faults: poison and its consumers, the freeze of a partition and of the device, the patrol of LPDDR6
(22_errors.md R729 to R742, 11_memory_tiers.md R368 to R372, R395, R397, 25 R797).
-/

namespace Sys2Proof.Machine

open Sys2Proof

-- Power domains (R48, R49) -------------------------------------------------------------------------------------------------------

/-- Whether a start has run a step: the device is ready, or stopped or due beyond it. -/
def State.ranStep (s : State) (n : Nat) : Bool :=
  match s.boot.phase with
  | .off => false
  | .reset => false
  | .start k => decide (n < k)
  | .ready => true
  | .stopped k => decide (n < k)

/-- Whether a physical core is enabled and assigned to a partition. -/
def State.coreAssigned (s : State) (phys : Nat) : Bool := s.cores.any (fun kv => kv.2.phys == phys && kv.2.owner.isSome)

/-- Whether a power domain is off (R48). -/
def State.domainOff (s : State) (d : Nat) : Bool :=
  if d ≤ 1 then !s.pins.pwrGood
  else if d = 2 then !s.pins.pwrGood || !(s.ranStep 1)
  else if d ≤ 11 then !(s.coreAssigned (2 * (d - 3)) || s.coreAssigned (2 * (d - 3) + 1))
  else if d ≤ 15 then !(s.ranStep 6) || (s.err.frozen && s.err.dumped)
  else if d = 16 then !s.qry.mounted && s.ranStep 10
  else if d = 17 then !(s.ranStep 8)
  else (List.range' (if d = 18 then 0 else 4) 4).all (fun n => match s.ports.get? n with | some x => x.leftDown | none => false)

/-- PD12 to PD15 go off (R49): nothing that LPDDR6 held can be read any more. -/
def State.memoryOff (s : State) : State :=
  let onMedia (kv : TileLoc × Tile) : Bool := match kv.1 with | .frame _ => false | _ => true
  { s with
    sessions := [], tiles := s.tiles.filter onMedia, tileFrames := [], mortarFrames := [], ram := [], prefixes := [], regPages := [], grammars := []
    reports := [], bonds := [], colls := [], selfRefresh := [] }

-- The device-fatal freeze (R742) ------------------------------------------------------------------------------------------------

/-- Order 2: the cores stop at once. -/
def State.haltCores (s : State) : State :=
  { s with
    cores := s.cores.map (fun (kv : Nat × Core) =>
      (kv.1, { kv.2 with running := none, queue := [], paused := [], stopping := false }))
    bars := [] }

/-- Order 4: every running request and queued command ends; the completions that do not fit their queues are not posted. -/
def State.endAll (s : State) (st : Status) : State :=
  let s := allParts.foldl (fun (a : State) p => a.endCommands p st) s
  let s := s.resets.foldl (fun (a : State) kv => a.completeFor ⟨kv.2.fn, kv.2.sq, kv.2.tag⟩ st) s
  let s := s.removals.foldl (fun (a : State) kv => a.completeFor ⟨kv.2.fn, kv.2.sq, kv.2.tag⟩ st) s
  let s := s.removeWait.foldl (fun (a : State) w => a.complete w.1 st) s
  let s := s.waitS15.foldl (fun (a : State) w => a.complete w.1 st) s
  { s with
    resets := [], removals := [], removeWait := [], waitS15 := []
    cqs := s.cqs.map (fun (kc : (Nat × Nat) × Cq) => (kc.1, { kc.2 with waiting := [] })) }

/-- The freeze of R742 after its record: orders 1 to 4, and 5 up to the copy of the dump. The commands end before the ports go
DOWN, so that all of them end with order 4's status and none with that of a lost peer (log entry 28). -/
def State.deviceFreeze (s : State) (seq : Nat) : State :=
  if s.err.frozen then s
  else
    let s := { s with pins := { s.pins with fault := true } }.ledger s.boot.step 3 0 0 seq
    let s := s.haltCores.endAll .internalDeviceFatal
    let s := (s.ports.map (fun kv => kv.1)).foldl (fun (a : State) n => a.portDown n 1 true false) s
    if s.qry.mounted then { s with err := { s.err with frozen := true, order := 5 } }
    else { s with err := { s.err with frozen := true, order := 6 }, selfRefresh := List.range 192 }

/-- FREEZE_DUMP_DONE (R742 orders 5 and 6): the copy in the quarry's reserved blocks has been programmed, and the memory quadrants go off, or it
could not be. -/
def doFreezeDumpDone (programmed : Bool) (s : State) : State :=
  if !s.err.frozen || s.err.order ≠ 5 then s
  else if programmed then
    let mark (r : ErrRec) : ErrRec := if r.cls = .df then { r with dumped := true } else r
    { s with err := { s.err with order := 6, dumped := true, ring := s.err.ring.map mark, dump := s.err.ring } }.memoryOff
  else { s with err := { s.err with order := 6 }, selfRefresh := List.range 192 }

-- Poison (R732 to R734, R738) ------------------------------------------------------------------------------------------------------

/-- A poisoned grammar frame (R732): it is released, GRAMMAR is cleared, and a request that uses it ends. -/
def State.poisonGrammar (s : State) (slot : Nat) : State :=
  let s1 := match s.req slot with
    | some q => if q.grammar.isSome then s.endReq slot .stateLostGrammar else s
    | none => s
  match (s1.ses slot).grammar with
  | some g => (s1.freeMor g.frame).modSes slot (fun x => { x with grammar := none })
  | none => s1

/-- A poisoned grammar image (R732): its running requests end, and the entry is unloaded. -/
def State.poisonImage (s : State) (p id : Nat) : State :=
  let users := (s.reqs.filter (fun kv => kv.2.part == p && kv.2.grammar == some id)).map (fun kv => kv.1)
  let s1 := users.foldl (fun (a : State) n => a.endReq n .stateLostGrammar) s
  match s1.grammars.get? (p, id) with
  | none => s1
  | some g =>
    if g.users = 0 then (s1.bondOnce p).dropGrammar p id
    else { s1 with grammars := s1.grammars.set (p, id) { g with unloading := true } }

/-- A poisoned directory record (R738): rebuilt from its newest mirrored copy and FAILED; without a copy the slot is FREE and retired. -/
def State.poisonRecord (s : State) (slot : Nat) : State :=
  let s1 := s.failSession slot
  let x := s1.ses slot
  match s1.mirror.find? (fun m => m.slot == slot) with
  | some m => s1.setSes slot { m.ses with state := .failed, op := .none, waiting := x.waiting, noted := x.noted, freeSeq := x.freeSeq }
  | none =>
    let s2 := s1.setSes slot { Session.free with gen := x.gen, retired := true, part := x.part, freeSeq := s1.freed + 1 }
    x.waiting.foldl (fun (a : State) w => a.complete w.1 .stateLostStaleHandle) { s2 with freed := s1.freed + 1 }

/-- An uncorrected error in the slot of an open bond aborts it (R451). The status of the work that it serves is not stated; the model
gives that of poisoned state (log entry 40). -/
def State.poisonBond (s : State) (p id : Nat) : State :=
  match s.bondOf p id with
  | none => s
  | some b =>
    match b.kind with
    | .handoff => s.failHandoff b.slot .stateLostRequest
    | .warmPark => s.abortPark b.slot .stateLostRequest
    | .coldPark => s.abortPark b.slot .stateLostRequest
    | .shard => s.ckpFail p b.arg .stateLostRequest
    | .manifest => s.ckpFail p b.arg .stateLostRequest
    | _ => s.abortQuarry p id

/-- What an uncorrected error ends (R730, R732). -/
def State.consume (s : State) (f : FaultRep) : State :=
  match f.poison with
  | .tile l => s.poisonTile l
  | .mortar n => s.failSession n
  | .grammarFrame n => s.poisonGrammar n
  | .reqState n => s.endReq n .stateLostRequest
  | .grammarImage p id => s.poisonImage p id
  | .collection c =>
    match s.colls.get? c with
    | some x => { s with colls := s.colls.set c { x with closed := true } }.endScans c .mediaLpddr6
    | none => s
  | .ctxData p c => s.tearDown p c .contextUncorrected
  | .directory n => s.poisonRecord n
  | .registry p => s.freezePart p
  | .journal p id => s.poisonBond p id
  | .foreign n => s.endReq n .securityForeignFrame
  | .none =>
    if f.source = 4 then
      match f.part with
      | some p => s.tearDown p f.ctx .contextUncorrected
      | none => s
    else if f.source = 7 then s.portDown (f.location % 8) f.detail true false
    else s

/-- The status that an error record gives to the affected work (R732, R735). -/
def PoisonKind.status (k : PoisonKind) : Status :=
  match k with
  | .tile _ => .stateLostFailed
  | .mortar _ => .stateLostFailed
  | .grammarFrame _ => .stateLostGrammar
  | .reqState _ => .stateLostRequest
  | .grammarImage _ _ => .stateLostGrammar
  | .collection _ => .mediaLpddr6
  | .ctxData _ _ => .contextUncorrected
  | .registry _ => .internalPartitionFatal
  | .foreign _ => .securityForeignFrame
  | _ => 0

/-- The run of a list that holds a byte, with the byte's offset in it. -/
def spanOf (l : List Span) (a : Nat) : Option (Span × Nat) :=
  (l.find? (fun x => decide (x.first ≤ a) && decide (a < x.first + x.count))).map (fun x => (x, a - x.first))

/-- The tile or mortar frame at a data address, whether it is a mortar frame, and the line of it that the address lies in (R379). -/
def State.lineAt (s : State) (a : Nat) : Option (Bool × Nat × Nat) :=
  match spanOf s.regions a with
  | none => none
  | some (x, off) =>
    match x.reg.cls with
    | .memTileDataBase => some (false, off / 16384, off % 16384 / 256)
    | .memTileSideBase => some (false, off / 2048, 64 + off % 2048 / 256)
    | .memMortarBase => some (true, off / 4096, off % 4096 / 256)
    | _ => none

/-- The words of a line (R371). -/
def lineWords (k : Nat) : List Nat := List.range' (32 * k) 32

/-- Sets the poison bits of words of a frame. -/
def Frame.poisoning (f : Frame) (ws : List Nat) : Frame := { f with poison := (f.poison ++ ws).eraseDups }

/-- An uncorrected word stays so until good data is written over it, which the model shows as a poison bit of its line or of its granule's
words (R371, R731; log entry 63). -/
def State.markPoison (s : State) (f : FaultRep) : State :=
  if f.source = 3 then
    let k := f.location % 2 ^ 25 / 256
    s.modCore (f.location / 2 ^ 36 % 16) (fun c => { c with poison := if c.fresh.contains k && !(c.poison.contains k) then k :: c.poison else c.poison })
  else if f.source = 1 then
    match s.lineAt f.location with
    | some (true, n, k) => { s with mortarFrames := s.mortarFrames.modify n (fun x => x.poisoning (lineWords k)) }
    | some (false, n, k) => { s with tileFrames := s.tileFrames.modify n (fun x => x.poisoning (lineWords k)) }
    | none => s
  else s

/-- Whether the poison bit of a word of a granule is set. -/
def State.poisonedGranule (s : State) (a : Nat) : Bool :=
  let held (m : AMap Nat Frame) (n k : Nat) : Bool := match m.get? n with | some f => (lineWords k).any (fun w => f.poison.contains w) | none => false
  match s.lineAt a with
  | some (true, n, k) => held s.mortarFrames n k
  | some (false, n, k) => held s.tileFrames n k
  | none => false

/-- Acts on a fault by the class with which it was recorded (R728). -/
def State.actOn (s : State) (cls : ErrClass) (f : FaultRep) : State :=
  match cls with
  | .ce => s
  | .uc => (s.markPoison f).consume f
  | .pf => (match f.part with | some p => s.freezePart p | none => s)
  | .df => s.deviceFreeze s.err.next

/-- The class that R730 gives a fault whatever its report says: the loss of a memory quadrant, a thermal trip and a fault within the keystone
are device-fatal (R25), a key register that fails its check is partition-fatal. -/
def FaultRep.classed (f : FaultRep) : FaultRep :=
  if f.source = 2 ∨ f.source = 13 ∨ f.source = 14 then { f with cls := .df } else if f.source = 15 then { f with cls := .pf } else f

/-- Records a fault and acts on it. A port that goes DOWN writes its record itself. -/
def State.fault (s : State) (f : FaultRep) : State :=
  let s := s.recoveries f.running
  if f.cls = .uc ∧ f.source = 7 ∧ f.running = [] then s.consume f
  else
    let e : ErrIn := { cls := f.cls, source := f.source, part := f.part, ctx := f.ctx, status := f.poison.status,
                       location := f.location, detail := f.detail }
    let d := s.detect e
    d.2.actOn d.1 f

/-- HARDWARE_FAULT (R728 to R741). -/
def doHardwareFault (f : FaultRep) (s : State) : State :=
  match s.boot.phase with
  | .off => s
  | .reset => s
  | _ => if s.err.frozen then s else s.fault f.classed

/-- THERMAL_TRIP (R797): a DF error of source 13; the comparator drives THERM_TRIP_N low. -/
def doThermalTrip (s : State) : State :=
  match s.boot.phase with
  | .off => s
  | _ =>
    let s := { s with pins := { s.pins with therm := true } }
    if s.err.frozen then s
    else
      let d := (s.recoveries []).detect { cls := .df, source := 13, part := none }
      d.2.deviceFreeze d.2.err.next

-- The patrol (R372, R374, R395) -----------------------------------------------------------------------------------------------------

/-- What a mortar frame holds, as poison acts on it. -/
def State.mortarKind (s : State) (m : Nat) : PoisonKind :=
  match s.mortarFrames.get? m with
  | none => .none
  | some f =>
    if f.state != .priv || f.backref == 0xFFFFFFFF then .none
    else
      match s.grammars.find? (fun kv => kv.2.frames.contains m) with
      | some kv => .grammarImage kv.1.1 kv.1.2
      | none =>
        match s.prefixes.find? (fun kv => (kv.2.mortar.root :: kv.2.mortar.pageFrames ++ kv.2.logFrames).contains m),
          s.regPages.find? (fun kv => kv.2 == m) with
        | some kv, _ => .registry kv.1.1
        | _, some kv => .registry kv.1.1
        | none, none =>
          if (match (s.ses f.backref).grammar with | some g => g.frame == m | none => false) then .grammarFrame f.backref
          else .mortar f.backref

/-- What a tile frame holds, as poison acts on it. -/
def State.tileKind (s : State) (n : Nat) : PoisonKind :=
  match s.reqs.find? (fun kv => kv.2.frames.contains n) with
  | some kv => .reqState kv.1
  | none => if s.tiles.has (.frame n) then .tile (.frame n) else .none

/-- What lies at a data address (R379): its owner, whether an uncorrected error there is device-fatal, and what it holds. Which slot of
the journal a bond takes, and where in a context region a context's data lies, is open (log entry 8). -/
def State.dataAt (s : State) (a : Nat) : Option Nat × Bool × PoisonKind :=
  match spanOf s.regions a with
  | none => (none, false, .none)
  | some (x, off) =>
    match x.reg.cls with
    | .memCap =>
      if off < 2 ^ 29 then
        let n := off / 128
        if (s.ses n).state = .free then (none, false, .none) else (some (s.ses n).part, false, .directory n)
      else if off < 2 ^ 29 + 2 ^ 28 then
        match s.bonds[(off - 2 ^ 29) / 4096 - Config.pick s.freeCtr % 65536]? with
        | some b => (some b.part, false, .journal b.part b.id)
        | none => (none, false, .none)
      else (none, false, .none)
    | .memPartCtx =>
      let p := x.reg.i
      let cs := (s.ctxs.filter (fun kv => kv.1.1 == p && (kv.2.state == .ready || kv.2.state == .loading))).map (fun kv => kv.1.2)
      match cs[Config.pick s.freeCtr % Nat.max 1 cs.length]? with
      | some c => (some p, false, .ctxData p c)
      | none => (some p, false, .none)
    | .memTileDataBase => (s.tileOwner (off / 16384), false, s.tileKind (off / 16384))
    | .memTileSideBase => (s.tileOwner (off / 2048), false, s.tileKind (off / 2048))
    | .memMortarBase => (s.morOwner (off / 4096), false, s.mortarKind (off / 4096))
    | .memRecordBase => (none, true, .none)
    | _ => (none, false, .none)

/-- Whether LPDDR6 runs: it has been trained and no freeze has put it away. -/
def State.memoryUp (s : State) : Bool := !s.err.frozen && s.ranStep 7

/-- LPDDR_PATROL (R372, R395): the scrub engine reads a granule; one or two bits in error are a CE, three or more, and a poison bit that is set,
a UC, which acts as a poisoned read does; in the frame record table it is device-fatal (R730). -/
def doLpddrPatrol (addr bits : Nat) (s : State) : State :=
  let a := addr / 256 * 256
  if !s.memoryUp || s.fld Fld.MEM_CAP_STRIPES * 49152 ≤ a then s
  else
    let s := { s with patrol := a, selfRefresh := s.selfRefresh.filter (fun x => x != subChannel a) }
    if bits = 0 && !(s.poisonedGranule a) then s
    else
      let w := s.dataAt a
      let s := { s with freeCtr := s.freeCtr + 1 }
      let cls : ErrClass := if bits ≤ 2 && !(s.poisonedGranule a) then .ce else if w.2.1 then .df
        else (match w.2.2 with | .registry _ => .pf | _ => .uc)
      s.fault { cls := cls, source := 1, location := a, detail := Nat.min bits 255 + subChannel a * 256, part := w.1, ctx := 0x3F,
                poison := w.2.2, running := [] }

/-- SELF_REFRESH_ENTRY (R397): a sub-channel without an access for SR_IDLE_US enters self-refresh, in mode 0 and where the entry is not
disabled. -/
def doSelfRefreshEntry (sub : Nat) (s : State) : State :=
  if !s.memoryUp || 192 ≤ sub || s.flag Fld.MEM_CFG_ARB_MODE || s.fld Fld.MEM_CFG_SR_IDLE_US == 0 || s.selfRefresh.contains sub then s
  else { s with selfRefresh := sub :: s.selfRefresh }

-- Zeroing and bond slots (R383, R394, R447, R457) --------------------------------------------------------------------------------------

/-- SCRUB_ZEROED (R394): a frame in ZEROING has been zeroed, and is FREE. -/
def State.scrubbed (s : State) (mortar : Bool) (n : Nat) : State :=
  if mortar then
    match s.mortarFrames.get? n with
    | some f => if f.state = .zeroing then { s with mortarFrames := s.mortarFrames.erase n }.wakeMortar n else s
    | none => s
  else
    match s.tileFrames.get? n with
    | some f => if f.state = .zeroing then { s with tileFrames := s.tileFrames.erase n }.wakeTile n else s
    | none => s

end Sys2Proof.Machine
end

