-- ==== Sys2Proof/Machine/Start.lean ====
section
/-!
DEFINITION. The start steps S00 to S15, what a restart keeps, recovery of the directory
(21_start_configuration_firmware.md R712 to R719, R721, R723, R724, 01 R27 to R31, 11 R369, 12 R420, R430, R440, 19 R666).
-/

namespace Sys2Proof.Machine

open Sys2Proof

-- What a start begins with (R712, R718, R789, 00 R16) -----------------------------------------------------------------------------

/-- A key slot after a restart: the tenant keys of kinds 2 and 3 are not loaded any more (R718). -/
def KeySlot.unloaded (k : KeySlot) : KeySlot :=
  { k with state := if (k.kind = 2 ∨ k.kind = 3) ∧ k.state = .loaded then .provisioned else k.state, quote := none }

/-- Security state over a restart: fuses and vault stay; what PD0 latches is lost with the power (R633, R658, R718). -/
def Sec.kept (x : Sec) (power : Bool) : Sec :=
  { Sec.reset with
    fuses := x.fuses, spent := x.spent, authority := x.authority, requireUnit := x.requireUnit, changeSeq := x.changeSeq
    inForce := x.inForce, epochs := x.epochs, seeds := x.seeds, marks := x.marks, keyless := x.keyless, vaultGen := x.vaultGen
    quotes := x.quotes, slots := x.slots.map (fun (kv : Nat × KeySlot) => (kv.1, kv.2.unloaded))
    latched := if power then 0 else x.latched, raw := if power then 0 else x.raw, level := if power then 0 else x.level
    record := if power then 0 else x.record, frozen := !power && x.frozen, fails := if power then [] else x.fails }

/-- Start state over a restart: the ledger and its step state in the vault stay (R719). -/
def Boot.kept (x : Boot) : Boot :=
  { Boot.reset with
    phase := x.phase, number := x.number, fails := x.fails, alts := x.alts, clearAlt := x.clearAlt, selfRestarts := x.selfRestarts
    copyFails := x.copyFails, nextB := x.nextB, copyB := x.copyB, fired := x.fired, greenResult := x.greenResult
    ledger := x.ledger, ledgerAt := x.ledgerAt, plls := x.plls, deadPorts := x.deadPorts, trainFails := x.trainFails, badCores := x.badCores
    straps := x.straps }

/-- The error rings over a restart: a ring in memory that keeps power keeps its records; the dump lies in the quarry (R742). -/
def Err.kept (x : Err) (power : Bool) : Err :=
  if power then { Err.reset with dump := x.dump }
  else { Err.reset with ring := x.ring, next := x.next, lost := x.lost, dumped := x.dumped, dump := x.dump }

/-- The state after every domain but PD0 and PD1 has been reset (R718, R787): flash, vault, fuses and quarry media stay. -/
def State.wiped (s : State) (power : Bool) : State :=
  let onMedia (kv : TileLoc × Tile) : Bool := match kv.1 with | .quarry f => s.qry.map.has f | _ => false
  { State.reset with
    pending := s.pending, out := s.out, freeCtr := s.freeCtr, flash := s.flash, nextSeq := s.nextSeq, mirror := s.mirror
    aon := if power then 0 else s.aon
    boot := s.boot.kept, sec := s.sec.kept power, err := s.err.kept power, pins := s.pins
    qry := { s.qry with mounted := false, readOnly := false, staged := [] }
    ckp := { s.ckp with runs := [], queue := [] }
    tiles := s.tiles.filter onMedia }

/-- Clears what alternatives had set (R714). -/
def Boot.withoutAlts (x : Boot) : Boot :=
  { x with alts := [], plls := [], deadPorts := [], copyFails := [], nextB := false, clearAlt := false }

/-- The pins that a step drives when it begins: XSPI_RESET_N is low from S00 until S03, NFn_WP_N is high from S10 on (R775, R778;
log entry 76). -/
def Pins.beginStep (p : Pins) (n : Nat) : Pins :=
  { p with xspiReset := n == 0 || (p.xspiReset && n != 3), nandWrite := p.nandWrite || n == 10 }

/-- Begins a start at S00 or S01 (R712, R714). -/
def State.beginStart (s : State) (n : Nat) : State :=
  let t := s.wiped false
  let b := if t.boot.clearAlt then t.boot.withoutAlts else t.boot
  { t with
    boot := { b with
      phase := .start n, number := b.number + 1, copyB := b.nextB
      unconf := b.alts.getD 4 0 == 2 || b.alts.getD 14 0 == 2 }
    pins := t.pins.beginStep n
    qry := if t.boot.clearAlt then { t.qry with left := false } else t.qry }

-- Outcomes of a step (R713, R714, R719) ----------------------------------------------------------------------------------------------

/-- Whether a step is the one to run: no step runs in a device-fatal freeze, and none from S02 on while
SYS_RESET_N is low (R787). -/
def State.atStep (s : State) (n : Nat) : Bool :=
  s.boot.phase == Phase0.start n && !s.err.frozen && (decide (n ≤ 1) || !s.pins.sysReset)

/-- The alternative in force for a step, 0 for none. -/
def State.altOf (s : State) (n : Nat) : Nat := s.boot.alts.getD n 0

/-- Records an alternative. -/
def State.setAlt (s : State) (n alt : Nat) : State := { s with boot := { s.boot with alts := s.boot.alts.set n alt } }

/-- A step passes: its count of failures is reset, the next step is due. -/
def State.stepPasses (s : State) (n detail : Nat) : State :=
  let a := s.altOf n
  let s := s.ledger n (if a = 0 then 0 else 2) 0 a detail
  { s with
    boot := { s.boot with fails := s.boot.fails.erase n, step := n, phase := .start (n + 1) }
    pins := s.pins.beginStep (n + 1) }

/-- The device stops at a step. -/
def State.stopAt (s : State) (n : Nat) : State :=
  { s with
    boot := { s.boot with phase := .stopped n, step := n }
    pins := { s.pins with fault := true } }

/-- A step fails: the ledger takes it, and the device stops or restarts itself, at most eight times without reaching S15. At every
second failure in a row `alt` records the alternative, or says that there is none left. -/
def State.stepFails (s : State) (n detail : Nat) (stops : Bool) (alt : State → Option State) : State :=
  let run := s.boot.fails.getD n 0 + 1
  let s := { s with boot := { s.boot with fails := s.boot.fails.set n run } }
  let t := if run % 2 = 0 then alt s else some s
  let u := (t.getD s).ledger n 1 run ((t.getD s).altOf n) detail
  if stops || t.isNone || decide (8 ≤ u.boot.selfRestarts) then u.stopAt n
  else { u with boot := { u.boot with selfRestarts := u.boot.selfRestarts + 1 } }.beginStart 1

/-- A step without an alternative. -/
def noAlt (_ : State) : Option State := none

/-- The other image copy as the alternative of S03 (R713). -/
def otherCopy (s : State) : Option State :=
  some { s.setAlt 3 1 with boot := { (s.setAlt 3 1).boot with nextB := !s.boot.copyB } }

/-- The other image copy as the alternative of S04 or S14; when both have failed, an unconfigured start (R713, R715). -/
def otherOrNone (n : Nat) (s : State) : Option State :=
  let cf := if s.boot.copyFails.contains s.boot.copyB then s.boot.copyFails else s.boot.copyFails ++ [s.boot.copyB]
  if cf.contains (!s.boot.copyB) then
    let t := s.setAlt n 2
    some { t with boot := { t.boot with copyFails := cf } }
  else
    let t := s.setAlt n 1
    some { t with boot := { t.boot with copyFails := cf, nextB := !s.boot.copyB } }

-- S00 to S03 ------------------------------------------------------------------------------------------------------------------------------

/-- S00. -/
def doS00AlwaysOn (s : State) : State := if s.atStep 0 then s.stepPasses 0 0 else s

/-- The vault under its key of the present generation: after an A3 it can no longer be read (R632, R633, R658). -/
def State.openVault (s : State) : State :=
  if s.sec.vaultGen = s.sec.fuses.wrapGen then s
  else
    { s with sec := { s.sec with
        authority := none, requireUnit := false, changeSeq := 0, inForce := [], epochs := [], slots := [], seeds := [], marks := []
        vaultGen := s.sec.fuses.wrapGen } }

/-- S01 (R631, R712, R713, R789, R797): the fuses are read, FAULT_N and THERM_TRIP_N are released; a start that finds a sensor at 110 °C
or more waits with THERM_TRIP_N low. A spent device is frozen at A3 (R660). -/
def doS01KeystoneSelftest (pass : Bool) (f : Fuses) (cool : Bool) (s : State) : State :=
  if !s.atStep 1 then s
  else if !cool then { s with pins := { s.pins with therm := true, fault := false } }
  else
    let s := { s with pins := { s.pins with therm := false, fault := false } }
    let first := s.sec.fuses == Fuses.blank
    let s := if first then { s with sec := { s.sec with fuses := f, vaultGen := f.wrapGen } } else s
    if !pass then s.stepFails 1 0 true noAlt
    else
      let s := s.openVault
      let s := if s.sec.spent then { s with sec := { s.sec with frozen := true, level := 3 } } else s
      s.stepPasses 1 0

/-- The check of R721 that a firmware slot fails, 0 for none: the device compares HW_TYPE, UNIT and ROLLBACK with what it holds. -/
def State.slotFails (s : State) (x : FwSlot) : Nat :=
  if x.fail ≠ 0 ∧ x.fail ≤ 2 then x.fail
  else if x.hwType ≠ s.fld Fld.GLB_HW_HW_TYPE then 3
  else if (x.unit ≠ 0 ∧ x.unit ≠ s.sec.fuses.peerId) ∨ (s.sec.requireUnit ∧ x.unit = 0) then 4
  else if x.rollback < s.sec.fuses.rollback ∨ 128 < x.rollback then 5
  else x.fail

/-- Offset of the fired slot in flash (R698). -/
def firedBase : Nat := 0x1000000
/-- Offset of the green slot in flash. -/
def greenBase : Nat := 0x5000000
/-- Offset of configuration image A in flash. -/
def copyBase : Nat := 0x9000000
/-- Bytes of a firmware slot. -/
def slotBytes : Nat := 0x4000000
/-- Bytes of a copy of the configuration image. -/
def copyBytes : Nat := 0x8000000

/-- The green slot is copied to the fired slot, then erased (R721). -/
def State.copyGreen (s : State) : State :=
  let below := s.flash.filter (fun c => decide (c.1 < firedBase))
  let green := s.flash.filter (fun c => decide (greenBase ≤ c.1) && decide (c.1 < copyBase))
  let above := s.flash.filter (fun c => decide (copyBase ≤ c.1))
  { s with flash := below ++ green.map (fun c => (c.1 - slotBytes, c.2)) ++ above }

/-- S02 (R721): a green slot that passes is copied to the fired slot and erased; when neither passes the device stops and answers MCTP as a
recovery endpoint. -/
def doS02FirmwareVerify (green fired : FwSlot) (s : State) : State :=
  if !s.atStep 2 then s
  else
    let g := if green.present then s.slotFails green else 0
    let s := { s with boot := { s.boot with fired := fired, greenResult := g } }
    if green.present && g == 0 then
      { s.copyGreen with boot := { s.boot with fired := green } }.stepPasses 2 0
    else if fired.present && s.slotFails fired == 0 then s.stepPasses 2 0
    else { s with boot := { s.boot with recovery := true } }.stepFails 2 0 true noAlt

/-- Whether a record of an image is of R705: one in force, or one with a higher SEQ than that of its kind. -/
def State.recordOk (s : State) (r : ChangeRec) : Bool :=
  s.heldRecord r || (match s.recordOf r.kind with | some x => decide (x.seq < r.seq) | none => true)

/-- Whether an image passes S03 (R700 to R702, R705). -/
def State.imageOk (s : State) (i : ConfigImage) : Bool :=
  i.form && i.settings.all Setting.ok && i.records.all (fun r => decide (1 ≤ r.kind) && decide (r.kind ≤ 4) && s.recordOk r)

/-- S03 (R713): the copy that the ledger names is read; both copies are searched for placement images (R704). -/
def doS03ImageRead (a b : Option ConfigImage) (s : State) : State :=
  if !s.atStep 3 then s
  else
    let s := { s with boot := { s.boot with imgA := a, imgB := b } }
    if s.boot.unconf then s.stepPasses 3 0
    else
      match (if s.boot.copyB then b else a) with
      | some i =>
        if s.imageOk i then { s with boot := { s.boot with image := some i } }.stepPasses 3 0
        else s.stepFails 3 0 false otherCopy
      | none => s.stepFails 3 0 false otherCopy

-- S04 (R706, R709) ----------------------------------------------------------------------------------------------------------------------------

/-- Bytes of data capacity with packages of a size (R371): four fifths of 24 packages, in whole stripes of 48 KiB. -/
def stripesOf (gib : Nat) : Nat := 24 * gib * 2 ^ 30 * 4 / 5 / 49152

/-- Resources as fuses and ledger promise them (R709). -/
def State.promised (s : State) : Resources :=
  let good := (List.range 18).filter (fun c => bitOf s.sec.fuses.goodCores c && !(s.boot.badCores.contains c))
  { cores := Nat.min 16 good.length, bytes := stripesOf s.sec.fuses.pkgGib * 49152, down := s.boot.deadPorts ++ s.boot.trainFails,
    user := none, start := true }

/-- Loads the link map (R702). -/
def State.loadLinks (s : State) (l : List LinkEnt) : State :=
  let one (a : State) (e : LinkEnt) : State :=
    if e.port < 8 then
      (a.setFld Fld.LNK_CFG_ENABLE (if e.enable then 1 else 0) e.port).setFld Fld.LNK_CFG_GEN_MAX e.genMax e.port
    else a
  let t := l.foldl one s
  { t with boot := { t.boot with links := l } }

/-- Loads the records of an image in order (R701, R705): the first that R653 refuses ends with its reason. A plan waits for S14. -/
def State.loadRecords (s : State) (l : List ChangeRec) : Except Nat State :=
  match l with
  | [] => .ok s
  | r :: rest =>
    match s.recordFails r (s.heldRecord r) with
    | some reason => .error reason
    | none =>
      if (match r.payload with | .keys k => k.foreign | _ => false) then .error 0x66
      else
        let t := (s.loadRecord r).enforce r
        match r.payload with
        | .plan p => { t with boot := { t.boot with nextPlan := some p } }.loadRecords rest
        | _ => t.loadRecords rest

/-- The placement list of the plan that is to take effect. -/
def State.nextPlaces (s : State) : List PlaceRef :=
  match s.boot.nextPlan with
  | some p => s.resolve p.places
  | none => []

/-- S04 (R706 to R709): settings, link map and records are applied and the plumb check runs; a refusal leaves nothing of them. -/
def doS04ApplyConfig (s : State) : State :=
  if !s.atStep 4 then s
  else
    match s.boot.image with
    | none => s.stepPasses 4 0
    | some i =>
      let refuse (o : Offence) : State :=
        let t := s.plumbRefuses o
        t.stepFails 4 (o.reason * 2 ^ 56 + t.fld Fld.BOOT_PLUMB_ITEM) false (otherOrNone 4)
      match ((s.loadSettings Field.settable i.settings).loadLinks i.links).loadRecords i.records with
      | .error reason => refuse ⟨reason, none⟩
      | .ok t =>
        match t.plumb s.promised t.nextPlaces with
        | some o => refuse o
        | none => t.drawSeeds.stepPasses 4 0

-- S05 to S09 ------------------------------------------------------------------------------------------------------------------------------------

/-- The link of a PCIe controller comes up with a width and generation; width 0 stands for none (R670, R786). -/
def State.pcieLink (s : State) (ctrl width gen : Nat) : State :=
  if width = 0 || s.perst ctrl then s
  else
    ((s.setFld Fld.HIF_LINK_UP 1 ctrl).setFld Fld.HIF_LINK_WIDTH width ctrl).setFld Fld.HIF_LINK_GEN gen ctrl

/-- S05 (R671): it never fails. -/
def doS05PcieUp (width0 gen0 width1 gen1 : Nat) (s : State) : State :=
  if !s.atStep 5 then s
  else
    let two := bitOf s.boot.straps 0
    let s := s.pcieLink 0 width0 gen0
    let s := if two then s.pcieLink 1 width1 gen1 else s
    let s := (s.setFld Fld.HIF_LINK_BIFURCATED (if two then 1 else 0) 0).setFld Fld.HIF_LINK_BIFURCATED (if two then 1 else 0) 1
    s.stepPasses 5 0

/-- A course at the start: 1.9 GHz, or fixed at 1.1 GHz by the alternative of S06. -/
def Course.start (low : Bool) : Course := ⟨if low then 2 else 0, false, 0, 0, 0, low⟩

/-- S06 (R44, R713): every PLL locks, but that of a course that is fixed at 1.1 GHz already. -/
def doS06PllLock (failed : Option PllFail) (s : State) : State :=
  if !s.atStep 6 then s
  else
    let pass : State :=
      { s with courses := [0, 1, 2].map (fun n => (n, Course.start (s.boot.plls.contains n))) }.stepPasses 6 0
    match failed with
    | none => pass
    | some .other => s.stepFails 6 0 false noAlt
    | some (.course n) =>
      if s.boot.plls.contains n || decide (3 ≤ n) then pass
      else s.stepFails 6 n false (fun t => some { t.setAlt 6 1 with boot := { (t.setAlt 6 1).boot with plls := t.boot.plls ++ [n] } })

/-- The next lower rate as the alternative of S07 (R369); below 10.667 Gb/s there is none. -/
def lowerRate (s : State) : Option State := if s.altOf 7 < 2 then some (s.setAlt 7 (s.altOf 7 + 1)) else none

/-- S07 (R369, R399): the memory trains at the rate that the ledger allows; every frame is zeroed, so that none is listed. -/
def doS07MemoryTrain (pass : Bool) (s : State) : State :=
  if !s.atStep 7 then s
  else
    let rate := s.altOf 7
    if !pass then s.stepFails 7 rate false lowerRate
    else
      let s := s.setFld Fld.MEM_CFG_RATE rate
      let s := (s.setFld Fld.MEM_CAP_PKG_GIB s.sec.fuses.pkgGib).setFld Fld.MEM_CAP_STRIPES (stripesOf s.sec.fuses.pkgGib)
      s.stepPasses 7 rate

/-- Whether a core passes its self-test after repair (R27, R28). -/
def CoreTest.ok (t : CoreTest) : Bool := decide (t.badRows ≤ 8) && t.sramOk && t.logicOk

/-- The self-test of a physical core; a core that the operands do not name passed without repair. -/
def testOf (tests : List (Nat × CoreTest)) (c : Nat) : CoreTest :=
  match tests.find? (fun kv => kv.1 == c) with
  | some kv => kv.2
  | none => ⟨0, true, true⟩

/-- An enabled core before any partition owns it (R29, R30). -/
def Core.start (phys spares : Nat) : Core :=
  { owner := none, phys := phys, course := phys / 6, spares := spares, clearing := false, stopping := false, running := none,
    queue := [], paused := [], lastLc := 63, lastBe := 63, choices := [], store := [], fresh := [], poison := [], prog := [], ran := [] }

/-- S08 (R27 to R31): cores are tested and numbered; a core that fails goes into the ledger, and so does a shortfall, whose DETAIL is not
stated (log entry 24). -/
def doS08CoreAssign (tests : List (Nat × CoreTest)) (s : State) : State :=
  if !s.atStep 8 then s
  else
    let tried := (List.range 18).filter (fun c => bitOf s.sec.fuses.goodCores c && !(s.boot.badCores.contains c))
    let bad := tried.filter (fun c => !(testOf tests c).ok)
    let s := bad.foldl (fun (a : State) c =>
      { a.ledger 8 3 0 0 c with boot := { (a.ledger 8 3 0 0 c).boot with badCores := a.boot.badCores ++ [c] } }) s
    let on := (tried.filter (fun c => (testOf tests c).ok)).take 16
    if on.isEmpty then s.stepFails 8 0 true noAlt
    else
      let d := s.draw
      let s := if on.length < 16 then d.2.ledger 8 3 0 0 (Config.freeValue 72 d.1) else s
      let mask := (on.map (fun c => 2 ^ c)).sum
      let s := (s.setFld Fld.GLB_CORE_MAP_ENABLED_COUNT on.length).setFld Fld.GLB_CORE_MAP_PHYS_ENABLED mask
      let cores := on.zipIdx.map (fun (ce : Nat × Nat) => (ce.2, Core.start ce.1 (testOf tests ce.1).badRows))
      { s with cores := cores }.stepPasses 8 0

/-- The alternative of S09 for a target (R713, R720): the quarry controller, or a link die with its four ports. -/
def leaveTarget (target : Nat) (s : State) : Option State :=
  let t := s.setAlt 9 1
  if target = 5 then some { t with qry := { t.qry with left := true } }
  else if target = 3 then some { t with boot := { t.boot with deadPorts := t.boot.deadPorts ++ [0, 1, 2, 3] } }
  else if target = 4 then some { t with boot := { t.boot with deadPorts := t.boot.deadPorts ++ [4, 5, 6, 7] } }
  else none

/-- Whether a target has been left down already. -/
def State.targetLeft (s : State) (target : Nat) : Bool :=
  (target == 5 && s.qry.left) || (target == 3 && s.boot.deadPorts.contains 0) || (target == 4 && s.boot.deadPorts.contains 4)

/-- The system programs of the fired slot enter the program memory of every core (R236, R724). -/
def State.loadCores (s : State) : State :=
  { s with cores := s.cores.map (fun (kv : Nat × Core) =>
      (kv.1, { kv.2 with prog := ((s.boot.fired.core.prog.take systemWords).zipIdx).map (fun w => (w.2, w.1)) })) }

/-- S09 (R724): every target but the management processor is loaded from the fired slot. -/
def doS09FirmwareLoad (failed : Option Nat) (s : State) : State :=
  if !s.atStep 9 then s
  else
    match failed with
    | none => s.loadCores.stepPasses 9 0
    | some t => if s.targetLeft t then s.loadCores.stepPasses 9 0 else s.stepFails 9 t false (leaveTarget t)

-- S10 (R420, R430, R440, R456, R517, R742) -------------------------------------------------------------------------------------------------------

/-- New media: nothing is mapped, USER_FRAMES is fixed (R430). -/
def State.formatQuarry (s : State) (g : NandGeom) (badBlocks : List Nat) : State :=
  let q : Qry := { Qry.reset with geom := g, badBlocks := badBlocks.eraseDups.filter (fun b => g.has b) }
  let data := q.goodCount * g.tlcData
  let user := Nat.min (data * (1000 - s.fld Fld.QRY_WEAR_CFG_OP_PERMIL) / 1000) (2 ^ 34 - 1)
  let s := { s with
    qry := { q with known := true, user := user, root := 1 }
    mirror := [], tiles := s.tiles.filter (fun kv => match kv.1 with | .quarry _ => false | _ => true)
    ckp := ⟨[], [], [], [], []⟩ }
  s.govBudgets 2 1

/-- Media that a root record describes (R420): what was being erased is erased again, what was staged is absent. The map pages that the
replay of the journal changes are in the map cache. -/
def State.loadQuarry (s : State) (g : NandGeom) : State :=
  let redo (kv : Nat × Blk) : Nat × Blk :=
    if kv.2.state = .erasing then (kv.1, { Blk.fresh with erases := Nat.min 65535 (kv.2.erases + 1) }) else kv
  { s with qry := { s.qry with geom := g, staged := [], cached := s.qry.dirty, blocks := s.qry.blocks.map redo } }

/-- Bond identifiers resume above the highest in the mirrored journal (R456). -/
def State.resumeIds (s : State) : State :=
  s.qry.ids.foldl (fun (a : State) pv => a.setFld Fld.BND_NEXT_ID_ID (if pv.2 = 2 ^ 32 - 1 then 1 else pv.2 + 1) pv.1) s

/-- A release bond trims the shards of checkpoints that have no manifest (R517). -/
def State.cleanShards (s : State) : State :=
  s.ckp.index.foldl (fun (a : State) kv =>
    let l := kv.2.map (fun (x : ShardIdx) => { x with holds := 0 })
    let b := { a with ckp := { a.ckp with index := a.ckp.index.set kv.1 l } }
    if l.any (fun x => x.refs == 0) then (b.bondOnce kv.1).trimShards (b.nextBond kv.1) kv.1 else b) s

/-- Reads a dump that the ring no longer holds back into the device ring (R742). -/
def State.readDump (s : State) : State :=
  let lost := s.err.dump.filter (fun r => !(s.err.ring.any (fun x => x.seq == r.seq)))
  let ring := (sortBy (fun (a b : ErrRec) => decide (b.seq < a.seq)) (s.err.ring ++ lost)).take 4096
  { s with err := { s.err with ring := ring, dump := [], next := (ring.map (fun r => r.seq)).foldl Nat.max s.err.next } }

/-- The alternatives of S10: a read-only mount, then quarry left down. -/
def weakerMount (s : State) : Option State := some (s.setAlt 10 (Nat.min 2 (s.altOf 10 + 1)))

/-- S10. Without a NAND section no channel has a target (R440, R701). -/
def doS10QuarryMount (m : MountFind) (s : State) : State :=
  if !s.atStep 10 then s
  else
    let alt := s.altOf 10
    match (match s.boot.image with | some i => i.nand | none => none) with
    | none => s.stepPasses 10 0
    | some g =>
      if s.qry.left || !m.answered || decide (alt = 2) then s.stepPasses 10 0
      else if !m.geomOk || !m.trained then s.stepFails 10 0 false weakerMount
      else
        let t := if m.root && s.qry.known then s.loadQuarry g else s.formatQuarry g m.badBlocks
        let t := { t with qry := { t.qry with mounted := true, readOnly := alt == 1 } }
        t.resumeIds.cleanShards.readDump.stepPasses 10 0

-- S11 (R716, R717) -----------------------------------------------------------------------------------------------------------------------------

/-- The number that stands for a root page that is gone: no mortar frame has it. -/
def noFrame : Nat := 2 ^ 40 - 1

/-- A directory copy with what S11 clears in it cleared: GRAMMAR, BINDING, MOVE, and what was in progress. -/
def Session.bare (x : Session) : Session :=
  { x with
           op := .none, grammar := none, epoch := 0, comp := 0, main := 0, fallback := 0, movePeer := 0, moveEpoch := 0, waiting := [],
           noted := [], ckpReads := 0, offerLog := 0, logFrames := [] }

/-- A session whose state did not survive: FAILED, with what it holds in the quarry. -/
def Session.lost (x : Session) : Session :=
  let inQ (l : AMap Nat PagePtr) : AMap Nat PagePtr := l.filter (fun kv => kv.2.quarry)
  { x.bare with
    state := .failed
    mortar := ⟨noFrame, inQ x.mortar.index, inQ x.mortar.leaf, x.mortar.entries.filter (fun kv => kv.2.tier == .quarry)⟩ }

/-- The directory entry that S11 makes of a slot's newest mirrored copy. A session for whose root page the mortar range of the
configuration has no frame is FAILED (log entry 41). -/
def State.recoverSlot (s : State) (m : Mirror) : State :=
  let x := m.ses
  let rooted (f : Nat → Session) : State :=
    match s.allocMor x.part ⟨x.part, .priv, 0, m.slot, []⟩ with
    | some (n, t) => t.setSes m.slot (f n)
    | none => s.setSes m.slot x.lost
  match x.state with
  | .free =>
    { s.setSes m.slot { Session.free with gen := x.gen, retired := x.retired, part := x.part, freeSeq := s.freed + 1 } with
      freed := s.freed + 1 }
  | .parked =>
    if x.pfxTiles = 0 then rooted (fun n => { x.bare with mortar := { x.mortar with root := n } }) else s.setSes m.slot x.lost
  | .opened =>
    if x.pfx = 0xFFFF then
      let t := rooted (fun n => { x.bare with
                                              mortar := Mortar.empty n, nextPos := 0, log := [], perLog := [], perFrames := [],
                                              rootCopy := none, sincePersist := 0 })
      if x.perFrames.isEmpty then t else (t.bondOnce x.part).qTrims (t.nextBond x.part) x.perFrames
    else s.setSes m.slot x.lost
  | _ => s.setSes m.slot x.lost

/-- An empty directory as the alternative of S11 (R715). -/
def emptyDirectory (s : State) : Option State := some (s.setAlt 11 1)

/-- S11: each slot takes the copy with the highest SEQ, which is the one that the mirrored journal keeps of it. -/
def doS11DirectoryRecovery (readable : Bool) (s : State) : State :=
  if !s.atStep 11 then s
  else if s.altOf 11 = 1 then { s with mirror := [] }.stepPasses 11 0
  else if !readable then s.stepFails 11 0 false emptyDirectory
  else ((sortBy (fun (a b : Mirror) => decide (a.seq < b.seq)) s.mirror).foldl State.recoverSlot s).stepPasses 11 0

-- S12 to S15 -------------------------------------------------------------------------------------------------------------------------------------

/-- S12 (R534, R713): the enabled ports of the link dies that are not left down begin to train. -/
def doS12LinkTrain (s : State) : State :=
  if !s.atStep 12 then s
  else
    let port (n : Nat) : Nat × Port :=
      if s.boot.deadPorts.contains n then (n, { Port.fresh 0 .down with leftDown := true })
      else if s.flag Fld.LNK_CFG_ENABLE n then (n, Port.fresh (s.genMax n) .train)
      else (n, Port.fresh 0 .down)
    let s := { s with ports := (List.range 8).map port, boot := { s.boot with trainFails := [] } }
    s.stepPasses 12 0

/-- S13 (R567, R637): the AK certificate is issued, CMP_PEER_ID is set. -/
def doS13AkCertificate (ok : Bool) (s : State) : State :=
  if !s.atStep 13 then s
  else if !ok then s.stepFails 13 0 true noAlt
  else
    let s := s.setFld Fld.CMP_PEER_ID_ID s.sec.fuses.peerId.toNat
    { s with sec := { s.sec with akFor := some s.boot.fired.digest } }.stepPasses 13 0

/-- Trims every frame of a partition that no checkpoint holds (R715, Caution). -/
def State.trimForgotten (s : State) (p : Nat) : State :=
  let shards := (s.ckp.index.getD p []).flatMap (fun x => x.frames)
  let mans := (s.ckp.mans.filter (fun kv => kv.1.1 == p)).flatMap (fun kv => kv.2.flatMap (fun m => m.2))
  let gone := (s.qry.map.filter (fun kv => kv.2.owner == p && !(shards.contains kv.1) && !(mans.contains kv.1))).map (fun kv => kv.1)
  if gone.isEmpty then s else (s.bondOnce p).qTrims (s.nextBond p) gone

/-- The partitions of the plan start (R715, S14): their cores, contexts and rings; the fresh maps were cleared at S08. -/
def State.startPartitions (s : State) (p : Plan) : State :=
  let t := s.enact s p s.nextPlaces
  { t with cores := t.cores.map (fun (kv : Nat × Core) => (kv.1, { kv.2 with clearing := false })) }

/-- S14 (R666, R709, R713): pending removals are finished, the plumb check runs again, the partitions start. -/
def doS14PartitionStart (s : State) : State :=
  if !s.atStep 14 then s
  else
    let s := s.sec.marks.foldl (fun (a : State) m => a.finishRemoval m.1 m.2.1 m.2.2) s
    let s := if s.altOf 11 = 1 && s.qry.mounted then allParts.foldl (fun (a : State) p => a.trimForgotten p) s else s
    if s.boot.unconf then s.stepPasses 14 0
    else
      match s.plumb (s.actual true) s.nextPlaces with
      | some o =>
        let t := s.plumbRefuses o
        t.stepFails 14 (o.reason * 2 ^ 56 + t.fld Fld.BOOT_PLUMB_ITEM) false (otherOrNone 14)
      | none =>
        match s.boot.nextPlan with
        | some p => (s.startPartitions p).stepPasses 14 0
        | none => s.stepPasses 14 0

/-- S15 (R712, R723): READY; anti-rollback fuses are burnt up to the fired image's ROLLBACK. What waits for S15 runs (R671). -/
def State.reachReady (s : State) : State :=
  let a := s.altOf 15
  let s := s.ledger 15 (if a = 0 then 0 else 2) 0 a 0
  let s := s.setFld Fld.HIF_LINK_READY 1 0
  let s := if bitOf s.boot.straps 0 then s.setFld Fld.HIF_LINK_READY 1 1 else s
  { s with
    boot := { s.boot with phase := .ready, step := 15, selfRestarts := 0 }
    sec := { s.sec with fuses := { s.sec.fuses with rollback := Nat.max s.sec.fuses.rollback s.boot.fired.rollback } } }

end Sys2Proof.Machine
end

