-- ==== Sys2Proof/Machine/Firmware.lean ====
section
/-!
DEFINITION. Commands on flash, firmware, ledger and restart (21_start_configuration_firmware.md R698, R699, R714, R719, R721, R725).
-/

namespace Sys2Proof.Machine

open Sys2Proof

-- Flash (R698, R699) -----------------------------------------------------------------------------------------------------------

/-- Value of an erased byte of the NOR flash (log entry 11). -/
def erased : Byte := 0xFF

/-- Writes bytes into the flash; a page program runs from then on (R791). -/
def State.flashWrite (s : State) (off : Nat) (data : List Byte) : State :=
  if data.isEmpty then s
  else { s with flash := Memory.writes erased s.flash off data, pins := { s.pins with xspiBusy := true } }

/-- Erases the green slot. -/
def State.eraseGreen (s : State) : State :=
  { s with flash := s.flash.filter (fun c => !(decide (greenBase ≤ c.1) && decide (c.1 < copyBase))) }

/-- Writes into the green slot (R725): offset 0 erases it first; none where the write leaves the slot. -/
def State.stageFirmware (s : State) (off : Nat) (data : List Byte) : Option State :=
  if slotBytes < off + data.length then none
  else some ((if off = 0 then s.eraseGreen else s).flashWrite (greenBase + off) data)

/-- FW_STAGE. -/
def doFwStage (u : Sub) (off : Nat) (data : List Byte) (s : State) : State :=
  match s.stageFirmware off data with
  | some t => t.complete u .ok
  | none => s.complete u .configFlashRange

/-- FW_CHECK: the check of R721 that the green slot fails, 0 for none; a slot that holds nothing has no form. -/
def doFwCheck (u : Sub) (green : FwSlot) (s : State) : State :=
  let fail := if green.present then s.slotFails green else 1
  let t := { s with boot := { s.boot with greenResult := if green.present then fail % 256 else 0 } }
  if fail = 0 then t.complete u .ok 0 else t.complete u .securityFwImage (fail % 256)

/-- Whether an image copy is in use: the one whose image the start read (R726). -/
def State.copyInUse (s : State) (copyB : Bool) : Bool := s.boot.image.isSome && s.boot.copyB == copyB

/-- A new image in a copy ends the alternatives that name it (R714): the other copy, or an unconfigured start that both copies led
to (log entry 42). -/
def Boot.imageWritten (x : Boot) (copyB : Bool) : Boot :=
  let named (kv : Nat × Nat) : Bool :=
    (kv.1 == 3 || kv.1 == 4 || kv.1 == 14) && (decide (kv.2 = 2) || x.nextB == copyB)
  let gone := x.alts.any named
  { x with
    alts := x.alts.filter (fun kv => !(named kv)), copyFails := x.copyFails.filter (fun c => c != copyB)
    nextB := if gone then copyB else x.nextB
    imgA := if copyB then x.imgA else none, imgB := if copyB then none else x.imgB }

/-- CFG_WRITE. -/
def doCfgWrite (u : Sub) (copyB : Bool) (off : Nat) (data : List Byte) (s : State) : State :=
  if s.copyInUse copyB then s.complete u .configCopyInUse
  else if copyBytes < off + data.length then s.complete u .configFlashRange
  else
    let at_ := copyBase + (if copyB then copyBytes else 0) + off
    let t := s.flashWrite at_ data
    (if data.isEmpty then t else { t with boot := t.boot.imageWritten copyB }).complete u .ok

/-- LEDGER_READ: whole records of 32 B, oldest first, from a start number on. -/
def doLedgerRead (u : Sub) (start bytes : Nat) (s : State) : State :=
  let l := (s.boot.ledger.reverse.filter (fun r => decide (start ≤ r.start))).take (bytes / 32)
  (s.buf u.fn (.ledger l)).complete u .ok (32 * l.length)

/-- Whether the completion of a command still waits for room in its queue (R679). -/
def State.completionWaits (s : State) (o : Owner) : Bool :=
  s.cqs.any (fun kc => kc.2.waiting.any (fun c => c.fn == o.fn && c.sq == o.sq && c.tag == o.tag))

/-- The restart of DEV_RESTART, once its completion has been posted (R725). A restart that PF0 asks for starts the count of R714
anew (log entry 43). -/
def State.goRestart (s : State) : State :=
  match s.boot.restart with
  | none => s
  | some o =>
    if s.completionWaits o then s
    else { s with boot := { s.boot with restart := none, selfRestarts := 0 } }.beginStart 1

/-- DEV_RESTART. -/
def doDevRestart (u : Sub) (s : State) : State :=
  let t := s.complete u .ok
  { t with boot := { t.boot with restart := some u.owner } }.goRestart

/-- BOOT_CTL.CLEAR_ALT (R714, R726): the alternatives go from the next start on. -/
def State.clearAlternatives (s : State) : State := { s with boot := { s.boot with clearAlt := true } }

end Sys2Proof.Machine
end

