-- ==== Sys2Proof/Machine/Board.lean ====
section
/-!
DEFINITION. The board's pins, the clock steps of the courses, MCTP and JTAG (25_package_and_electrical.md R775 to R797).
-/

namespace Sys2Proof.Machine

open Sys2Proof

-- Power and reset (R712, R784, R787, R789, R791) ---------------------------------------------------------------------------------

/-- PWR_GOOD rises: the straps are sampled and S00 is due (R669, R712). -/
def doPwrGoodRise (straps : Nat) (s : State) : State :=
  if s.boot.phase ≠ .off then s
  else
    let t := { s with pins := { s.pins with pwrGood := true } }.beginStart 0
    { t with boot := { t.boot with straps := straps % 16 } }

/-- PWR_GOOD falls (R451, R784, R789, R791): LPDDR6, the tile store and PD0 are lost, and the open-drain pins are released. -/
def doPwrGoodFall (s : State) : State :=
  if s.boot.phase = .off then s
  else
    let t := s.wiped true
    { t with
      boot := { t.boot with phase := .off, selfRestarts := 0 }
      pins := { Pins.reset with sysReset := s.pins.sysReset, perst0 := s.pins.perst0, perst1 := s.pins.perst1 } }

/-- SYS_RESET_N takes effect (R787). -/
def State.sysReset (s : State) : State :=
  let t := s.wiped false
  { t with
    boot := { t.boot with phase := .reset, selfRestarts := 0 }
    pins := { t.pins with resetHeld := false } }

/-- Whether order 5 of the freeze holds a reset back: until DUMPED is set, or for at most 200 ms (R791). -/
def State.dumpHolds (s : State) : Bool := s.err.frozen && !s.err.dumped && s.err.order == 5

/-- SYS_RESET_N is low for 10 µs (R787); it waits for a page program and for order 5 of a freeze (R791). -/
def doSysResetAsserted (s : State) : State :=
  let t := { s with pins := { s.pins with sysReset := true } }
  match s.boot.phase with
  | .off => t
  | .reset => t
  | _ =>
    if s.pins.xspiBusy || s.dumpHolds then { t with pins := { t.pins with resetHeld := true } }
    else t.sysReset

/-- SYS_RESET_N is released: the device starts at S01 (R712, R787), unless the reset is still held back. -/
def doSysResetReleased (s : State) : State :=
  let t := { s with pins := { s.pins with sysReset := false } }
  if !s.pins.sysReset || s.pins.resetHeld || s.boot.phase == .off then t else t.beginStart 1

/-- A reset that waited takes effect; where SYS_RESET_N has been released meanwhile, the start follows at once. -/
def State.releaseReset (s : State) : State :=
  if !s.pins.resetHeld then s
  else if s.pins.sysReset then s.sysReset
  else s.sysReset.beginStart 1

/-- XSPI_PAGE_PROGRAM_DONE (R791). -/
def doXspiPageProgramDone (s : State) : State :=
  let t := { s with pins := { s.pins with xspiBusy := false } }
  if t.dumpHolds then t else t.releaseReset

/-- DUMP_WAIT_LIMIT_EXPIRY (R791): a reset has waited 200 ms for the dump. -/
def doDumpWaitLimitExpiry (s : State) : State :=
  if s.err.frozen && !s.pins.xspiBusy then s.releaseReset else s

/-- A reset that waited for DUMPED goes on when order 6 has set it. -/
def State.dumpEnds (s : State) : State := if s.err.dumped && !s.pins.xspiBusy then s.releaseReset else s

-- Clock steps (R45, R241, R796) ---------------------------------------------------------------------------------------------------

/-- A course begins a change of step; its cores issue nothing until it is done. -/
def State.stepCourse (s : State) (n : Nat) (f : Course → Course) : State := { s with courses := s.courses.modify n f }

/-- Whether a course may step down: not while it changes, not at 1.1 GHz. -/
def Course.canSlow (c : Course) : Bool := !c.changing && decide (c.step < 2)
/-- Whether a course may step up. -/
def Course.canSpeed (c : Course) : Bool := !c.changing && decide (0 < c.step) && !c.fixedLow

/-- THERMAL_STEP_DOWN: T_c has been at 104 °C or more for 100 µs. -/
def doThermalStepDown (n : Nat) (s : State) : State :=
  s.stepCourse n (fun c => if c.canSlow then { c with changing := true, next := c.step + 1, thermal := c.thermal + 1 } else c)

/-- THERMAL_STEP_UP: a course stepped for temperature has been at 98 °C or less for 10 ms, and no power-limit step is pending. -/
def doThermalStepUp (n : Nat) (s : State) : State :=
  s.stepCourse n (fun c =>
    if c.canSpeed && decide (0 < c.thermal) then { c with changing := true, next := c.step - 1, thermal := c.thermal - 1 } else c)

/-- POWER_STEP_DOWN: the course with the highest core power, as the device measures it. -/
def doPowerStepDown (n : Nat) (s : State) : State :=
  s.stepCourse n (fun c => if c.canSlow then { c with changing := true, next := c.step + 1, power := c.power + 1 } else c)

/-- POWER_STEP_UP: only the lowest-numbered course that was stepped for power steps up. -/
def doPowerStepUp (n : Nat) (s : State) : State :=
  let lowest := (List.range 3).find? (fun k => match s.courses.get? k with | some c => decide (0 < c.power) | none => false)
  if lowest ≠ some n then s
  else s.stepCourse n (fun c => if c.canSpeed then { c with changing := true, next := c.step - 1, power := c.power - 1 } else c)

/-- COURSE_STEP_DONE (R241). -/
def doCourseStepDone (n : Nat) (s : State) : State :=
  s.stepCourse n (fun c => if c.changing then { c with changing := false, step := c.next } else c)

-- MCTP and JTAG (R776, R777) --------------------------------------------------------------------------------------------------------

/-- Numeric sensors over PLDM (R776, R795): 35 temperature sensors and the package power estimate. -/
def sensorCount : Nat := 36

/-- Whether the management processor runs (R48, S02). -/
def State.managed (s : State) : Bool :=
  match s.boot.phase with
  | .ready => true
  | .start n => decide (2 < n)
  | .stopped n => decide (2 < n)
  | _ => false

/-- MCTP_PLDM_REQUEST: a sensor answers what it measures, which is open (log entry 10); the recovery endpoint of S02 takes FW_STAGE alone (R721). -/
def doMctpPldmRequest (r : MctpReq) (s : State) : State :=
  match r with
  | .sensor n =>
    if s.managed && decide (n < sensorCount) then
      let d := s.draw
      d.2.put (.sensor n (Config.freeValue 73 d.1))
    else s
  | .fwStage off data =>
    if s.boot.recovery then (s.stageFirmware off data).getD s else s
  | .other => s

/-- The TAP instruction that takes effect (R777): EXTEST only while SYS_RESET_N is low; any other needs a debug unlock, and acts as BYPASS
without. -/
def State.tapActs (s : State) (i : TapInstr) : TapInstr :=
  match i with
  | .bypass => .bypass
  | .idcode => .idcode
  | .samplePreload => .samplePreload
  | .extest => if s.pins.sysReset then .extest else .bypass
  | .acExtest => if s.pins.sysReset then .acExtest else .bypass
  | .other => if s.sec.debug then .other else .bypass

/-- JTAG_INSTRUCTION. -/
def doJtagInstruction (i : TapInstr) (s : State) : State :=
  if s.boot.phase = .off then s
  else
    let e := s.tapActs i
    { s with pins := { s.pins with tap := e } }.put (.tap e)

end Sys2Proof.Machine
end

