-- ==== Sys2Proof/Machine/Registers.lean ====
section
/-!
DEFINITION. Registers as the functions reach them: what each function sees, what a read gives, what a write does
(24_register_map.md R759 to R769, 00 R14, R16).
-/

namespace Sys2Proof.Machine

open Sys2Proof

-- What a function sees (R766, R767) ------------------------------------------------------------------------------------------------

/-- The register that an address names for a function: the function's own copy of those of R696. -/
def RegHit.reg (h : RegHit) (f : Fn) : Reg :=
  match h.row.seen with
  | .own => ⟨h.row.cls, f.index, h.i⟩
  | .ownPf => ⟨h.row.cls, f.index, h.i⟩
  | _ => ⟨h.row.cls, h.i, h.j⟩

/-- Windows of which a virtual function sees nothing (R566, R626, R726). -/
def hiddenWindow (i : Nat) : Bool := i == 0x10 || i == 0x12 || i == 0x14

/-- Whether a function of a partition sees a register (R766). -/
def State.partSees (s : State) (p : Nat) (h : RegHit) : Bool :=
  match h.row.seen with
  | .all => true
  | .part => h.i == p
  | .pf0 => false
  | .own => true
  | .ownPf => false
  | .core => match s.cores.get? h.i with | some c => c.owner == some p | none => false
  | .coll => match s.colls.get? h.i with | some c => c.part == p | none => false
  | .comp => match s.comps.get? h.i with | some c => c.part == p | none => false
  | .peer => match s.peers.get? h.i with | some x => x.state == PeerState.admitted && bitOf x.parts p | none => false
  | .slot => match s.sec.slots.get? h.i with | some k => k.owner == some p | none => false
  | .blk => !(hiddenWindow h.i)

/-- Whether a function sees a register. A COR window exists for an enabled core only (R243). -/
def State.sees (s : State) (f : Fn) (h : RegHit) : Bool :=
  (f.isPf && (h.row.seen != .core || s.cores.has h.i)) || (match s.partOfFn f with | some p => s.partSees p h | none => false)

-- Values that registers report (R16 RO) ---------------------------------------------------------------------------------------------

/-- A Boolean as a bit. -/
def bit (b : Bool) : Nat := if b then 1 else 0

/-- SEQ of the newest and oldest record of a ring, 0 for none. -/
def ringEnds (l : List ErrRec) : Nat × Nat :=
  ((match l.head? with | some r => r.seq | none => 0), (match l.getLast? with | some r => r.seq | none => 0))

/-- Physical lanes of logical lanes, four bits each (R566). -/
def laneWord (l : List Nat) : Nat := (l.zipIdx.map (fun x => (x.1 % 16) * 2 ^ (4 * x.2))).sum

/-- Fields of the sessions, tiles, cores and contexts blocks that report the state. -/
def State.views1 (s : State) (f : Fn) (r : Reg) : List (Field × Nat) :=
  let p := r.i
  match r.cls with
  | .glbFunc =>
    let q := s.partOfFn f
    [(Fld.GLB_FUNC_PF, bit f.isPf), (Fld.GLB_FUNC_CONF_HOST, bit (match q with | some n => s.sec.conf.contains n | none => false)),
     (Fld.GLB_FUNC_CONTROLLER, f.ctrl), (Fld.GLB_FUNC_PARTITION, q.getD 0)]
  | .blkId => [(Fld.BLK_ID_BLOCK, r.i)]
  | .sesLive => [(Fld.SES_LIVE_LIVE, (s.sessions.filter (fun kv => kv.2.part == p && kv.2.state != .free)).length)]
  | .sesRetired => [(Fld.SES_RETIRED_RETIRED, (s.sessions.filter (fun kv => kv.2.part == p && kv.2.retired)).length)]
  | .morPfxStat => [(Fld.MOR_PFX_STAT_REGISTERED, (s.prefixes.filter (fun kv => kv.1.1 == p)).length)]
  | .morPinned => [(Fld.MOR_PINNED_PINNED, (s.tileFrames.filter (fun kv => kv.2.owner == p && kv.2.state == .pinned)).length)]
  | .corStat =>
    match s.cores.get? r.i with
    | none => []
    | some c =>
      let step := match s.courses.get? c.course with | some k => k.step | none => 0
      [(Fld.COR_STAT_OWNER, c.owner.getD 0), (Fld.COR_STAT_OWNED, bit c.owner.isSome), (Fld.COR_STAT_FRESH_CLEARING, bit c.clearing),
       (Fld.COR_STAT_COURSE, c.course), (Fld.COR_STAT_STEP, step), (Fld.COR_STAT_ARRAY_SPARES, c.spares),
       (Fld.COR_STAT_CONTEXT, match c.running with | some x => x.d.ctx | none => 0x3F)]
  | .corFresh => match s.cores.get? r.i with | some c => [(Fld.COR_FRESH_LINES, c.fresh.length)] | none => []
  | .grmStat => [(Fld.GRM_STAT_LOADED, (s.grammars.filter (fun kv => kv.1.1 == p)).length)]
  | .schCtx =>
    match s.ctx p r.j with
    | none => [(Fld.SCH_CTX_FALLBACK, 0x3F)]
    | some x =>
      [(Fld.SCH_CTX_STATE, x.state.code), (Fld.SCH_CTX_CLASS, x.img.cls.code), (Fld.SCH_CTX_KIND, x.img.kind.code),
       (Fld.SCH_CTX_FALLBACK, if x.img.kind = .main then x.img.fallback else 0x3F), (Fld.SCH_CTX_TEARDOWNS, x.teardowns)]
  | .memUse => [(Fld.MEM_USE_MORTAR_USED, s.morUsed p), (Fld.MEM_USE_TILES_USED, s.tilesUsed p)]
  | _ => []

/-- Erase counts of the good blocks: the least and the greatest (R441). -/
def Qry.eraseEnds (q : Qry) : Nat × Nat :=
  let l := (q.blocks.filter (fun kv => kv.2.state != .retired && q.good kv.1)).map (fun kv => kv.2.erases)
  (if l.length < q.goodCount then 0 else (match l with | [] => 0 | x :: r => r.foldl Nat.min x), l.foldl Nat.max 0)

/-- Fields of the quarry, bond, search, checkpoint and link blocks that report the state. -/
def State.views2 (s : State) (r : Reg) : List (Field × Nat) :=
  let p := r.i
  match r.cls with
  | .qryCap =>
    [(Fld.QRY_CAP_MOUNTED, bit s.qry.mounted), (Fld.QRY_CAP_READ_ONLY, bit (s.qry.mounted && s.qry.readOnly)),
     (Fld.QRY_CAP_USER_FRAMES, if s.qry.mounted then s.qry.user else 0)]
  | .qryGcStat =>
    [(Fld.QRY_GC_STAT_FREE_BLOCKS, if s.qry.mounted then s.qry.freeBlocks else 0), (Fld.QRY_GC_STAT_SLC_BLOCKS, s.qry.slcBlocks),
     (Fld.QRY_GC_STAT_WA_X100, s.qry.waNum * 100 / s.qry.waDen)]
  | .qryWear =>
    let e := s.qry.eraseEnds
    [(Fld.QRY_WEAR_MIN_ERASES, e.1), (Fld.QRY_WEAR_MAX_ERASES, e.2), (Fld.QRY_WEAR_RETIRED, s.qry.badBlocks.length)]
  | .qryGov => [(Fld.QRY_GOV_USED, s.govUsed p)]
  | .qryGovBudget => [(Fld.QRY_GOV_BUDGET_BUDGET, s.govBudget p)]
  | .qryLive => [(Fld.QRY_LIVE_FRAMES, s.qry.liveOf p)]
  | .bndStat => [(Fld.BND_STAT_OPEN, s.openBonds p)]
  | .bndFrStat =>
    let l := s.reportsOf p
    [(Fld.BND_FR_STAT_NEWEST, match l.head? with | some x => x.number | none => 0),
     (Fld.BND_FR_STAT_OLDEST, match l.getLast? with | some x => x.number | none => 0)]
  | .vsrCollExt =>
    match s.colls.get? r.i with
    | some c => [(Fld.VSR_COLL_EXT_SIDE_LEN, c.sideLen), (Fld.VSR_COLL_EXT_GRAPH_LEN, c.graphLen)]
    | none => []
  | .vsrCollStat =>
    match s.colls.get? r.i with
    | some c =>
      [(Fld.VSR_COLL_STAT_VALID, 1), (Fld.VSR_COLL_STAT_PARTITION, c.part), (Fld.VSR_COLL_STAT_CONTEXT, c.ctx),
       (Fld.VSR_COLL_STAT_TOMBS, (c.nodes.filter (fun n => n.del != 0)).length)]
    | none => []
  | .ckpSeries => [(Fld.CKP_SERIES_STEP, s.ckpNewest p r.j)]
  | .lnkStat =>
    match s.ports.get? r.i with
    | some x =>
      [(Fld.LNK_STAT_STATE, x.state.code), (Fld.LNK_STAT_GEN, x.gen), (Fld.LNK_STAT_TX_GOOD, x.txGood), (Fld.LNK_STAT_RX_GOOD, x.rxGood),
       (Fld.LNK_STAT_TX_SPARE_FREE, bit x.txSpare), (Fld.LNK_STAT_RX_SPARE_FREE, bit x.rxSpare)]
    | none => []
  | .lnkLaneMap =>
    match s.ports.get? r.i with
    | some x => [(Fld.LNK_LANE_MAP_RX_MAP, laneWord x.rxMap), (Fld.LNK_LANE_MAP_TX_MAP, laneWord x.txMap)]
    | none => []
  | .lnkKeyCtr =>
    match (s.ports.get? r.i).bind (fun x => x.keys.get? r.j) with
    | some k => [(Fld.LNK_KEY_CTR_TX_CTR, k.txCtr)]
    | none => []
  | .lnkKeyStat =>
    match (s.ports.get? r.i).bind (fun x => x.keys.get? r.j) with
    | some k =>
      [(Fld.LNK_KEY_STAT_TX_VALID, bit k.txValid), (Fld.LNK_KEY_STAT_TX_PHASE, k.txPhase), (Fld.LNK_KEY_STAT_RX_VALID, bit k.rxValid),
       (Fld.LNK_KEY_STAT_RX_PHASE, k.rxPhase)]
    | none => []
  | .egrTokens => match s.ports.get? r.i with | some x => [(Fld.EGR_TOKENS_TOKENS, nthD x.tokens r.j 0)] | none => []
  | _ => []

/-- STATE of SEC_PART (R667). -/
def State.secPartState (s : State) (p : Nat) : Nat :=
  if s.removals.has p then 2 else if s.sec.removed.contains p then 3 else if s.sec.frozen then 1 else 0

/-- Fields of the composition, security, start, error and counter blocks that report the state. WRAP_GEN and ALARM_COUNT have six
bits: a count of 64 reads as 63 (log entry 44). -/
def State.views3 (s : State) (r : Reg) : List (Field × Nat) :=
  let p := r.i
  match r.cls with
  | .cmpComp =>
    match s.comps.get? r.i with
    | some c =>
      [(Fld.CMP_COMP_ID, c.id), (Fld.CMP_COMP_VALID, 1), (Fld.CMP_COMP_PARTITION, c.part), (Fld.CMP_COMP_MAIN_CONTEXT, c.main),
       (Fld.CMP_COMP_RETAINED, c.old.length), (Fld.CMP_COMP_EPOCH, c.cur.epoch)]
    | none => []
  | .cmpElapsed => match s.comps.get? r.i with | some c => [(Fld.CMP_ELAPSED_TICKS, c.elapsed.toNat)] | none => []
  | .cmpWeighted => match s.comps.get? r.i with | some c => [(Fld.CMP_WEIGHTED_TICKS, c.weighted.toNat)] | none => []
  | .cmpPeer =>
    match s.peers.get? r.i with
    | some x =>
      [(Fld.CMP_PEER_PEER_ID, x.id.toNat), (Fld.CMP_PEER_STATE, match x.state with | .admitting => 1 | .admitted => 2),
       (Fld.CMP_PEER_ROLE, bit x.device), (Fld.CMP_PEER_PORT, x.port), (Fld.CMP_PEER_PARTS, x.parts), (Fld.CMP_PEER_FABRIC, x.fabric),
       (Fld.CMP_PEER_BUSY, s.busyOf r.i)]
    | none => []
  | .secStat =>
    [(Fld.SEC_STAT_SPENT, bit s.sec.spent), (Fld.SEC_STAT_FROZEN, bit s.sec.frozen), (Fld.SEC_STAT_LEVEL, s.sec.level),
     (Fld.SEC_STAT_WRAP_GEN, Nat.min 63 s.sec.fuses.wrapGen), (Fld.SEC_STAT_ALARM_COUNT, Nat.min 63 s.sec.fuses.alarmCount),
     (Fld.SEC_STAT_BOUND, bit s.sec.authority.isSome), (Fld.SEC_STAT_DEBUG, bit s.sec.debug), (Fld.SEC_STAT_SLOTS_USED, s.sec.slots.length)]
  | .secChangeSeq => [(Fld.SEC_CHANGE_SEQ_SEQ, s.sec.changeSeq)]
  | .secAlarm => [(Fld.SEC_ALARM_RECORD, s.sec.record), (Fld.SEC_ALARM_RAW, s.sec.raw), (Fld.SEC_ALARM_LATCHED, s.sec.latched)]
  | .secPart =>
    [(Fld.SEC_PART_KEY_EPOCH, s.epochOf p), (Fld.SEC_PART_CONF_HOST, bit (s.sec.conf.contains p)), (Fld.SEC_PART_STATE, s.secPartState p),
     (Fld.SEC_PART_SLOTS, (s.sec.slots.filter (fun kv => kv.2.owner == some p)).length)]
  | .secSlot =>
    match s.sec.slots.get? r.i with
    | some k =>
      [(Fld.SEC_SLOT_OWNER, k.owner.getD 0), (Fld.SEC_SLOT_DEVICE, bit k.owner.isNone), (Fld.SEC_SLOT_KIND, k.kind),
       (Fld.SEC_SLOT_STATE, k.state.code), (Fld.SEC_SLOT_EPOCH, k.epoch)]
    | none => []
  | .bootStat =>
    [(Fld.BOOT_STAT_START, s.boot.number), (Fld.BOOT_STAT_STEP, s.boot.step), (Fld.BOOT_STAT_UNCONFIGURED, bit s.boot.unconf),
     (Fld.BOOT_STAT_COPY, bit s.boot.copyB), (Fld.BOOT_STAT_ALT, (s.boot.alts.map (fun kv => 2 ^ kv.1)).sum)]
  | .bootFw =>
    [(Fld.BOOT_FW_FUSE_ROLLBACK, s.sec.fuses.rollback), (Fld.BOOT_FW_FIRED_ROLLBACK, s.boot.fired.rollback),
     (Fld.BOOT_FW_GREEN_RESULT, s.boot.greenResult)]
  | .bootImage => [(Fld.BOOT_IMAGE_GENERATION, match s.boot.image with | some i => i.generation.toNat | none => 0)]
  | .errDevStat =>
    [(Fld.ERR_DEV_STAT_FROZEN, bit s.err.frozen), (Fld.ERR_DEV_STAT_DUMPED, bit s.err.dumped), (Fld.ERR_DEV_STAT_LOST, s.err.lost)]
  | .errDevRing => let e := ringEnds s.err.ring; [(Fld.ERR_DEV_RING_NEWEST, e.1), (Fld.ERR_DEV_RING_OLDEST, e.2)]
  | .errPartStat =>
    [(Fld.ERR_PART_STAT_FATAL, bit (s.err.fatal.contains p)), (Fld.ERR_PART_STAT_LOST, s.err.partLost.getD p 0)]
  | .errPartRing =>
    let e := ringEnds (s.err.parts.getD p [])
    [(Fld.ERR_PART_RING_NEWEST, e.1), (Fld.ERR_PART_RING_OLDEST, e.2)]
  | .pmcOvf =>
    [(Fld.PMC_OVF_OVF, ((List.range 64).map (fun i => s.pmcFld Fld.PMC_CNT_OVF i * 2 ^ i)).sum)]
  | .pmcPctl => [(Fld.PMC_PCTL_OVF, ((List.range 8).map (fun j => s.pmcFld Fld.PMC_PCNT_OVF p j * 2 ^ j)).sum)]
  | _ => []

/-- The stored value of a register, a performance counter's among them. -/
def State.stored (s : State) (r : Reg) : Nat := if r.cls.isPmc then s.pmcReg r else s.reg r

/-- The value that a field shows to a function: a reported one, zero for a write-only one (R16), else the stored one. -/
def State.shown (s : State) (views : List (Field × Nat)) (r : Reg) (fd : Field) : Nat :=
  match views.find? (fun v => v.1 == fd) with
  | some v => v.2 % 2 ^ (fd.hi + 1 - fd.lo)
  | none => if fd.acc == .wo then 0 else bitsOf (s.stored r) fd.hi fd.lo

/-- The value of a register as a function reads it; reserved bits are zero (R14). -/
def State.regValue (s : State) (f : Fn) (r : Reg) : Nat :=
  let views := s.views1 f r ++ s.views2 r ++ s.views3 r
  r.cls.fields.foldl (fun a fd => a + s.shown views r fd * 2 ^ fd.lo) 0

-- Access (R760, R761, R762) --------------------------------------------------------------------------------------------------------------

/-- Whether an access reaches a register: 32 or 64 bits wide, aligned to its width, and not wider than the register. -/
def RegHit.fits (h : RegHit) (addr width : Nat) : Bool :=
  (width == 32 && addr % 4 == 0 && h.off % 4 == 0) || (width == 64 && addr % 8 == 0 && h.off % 8 == 0 && decide (64 ≤ h.row.width))

/-- A read of BAR0 (R760 to R767). -/
def State.readReg (s : State) (f : Fn) (addr width : Nat) : Nat :=
  match regAt addr with
  | none => 0
  | some h => if h.fits addr width && s.sees f h then s.regValue f (h.reg f) / 2 ^ (8 * h.off) % 2 ^ width else 0

/-- Bits of a field. -/
def Field.mask (fd : Field) : Nat := 2 ^ (fd.hi + 1) - 2 ^ fd.lo

/-- Bits of a class that a write sets, or clears where it writes 1 (R16). -/
def RegClass.writable (c : RegClass) (acc : Access) : Nat := ((c.fields.filter (fun fd => fd.acc == acc)).map Field.mask).sum

/-- A register after a write of some of its bits: RW bits take the value, W1C bits are cleared by 1, all others stay. -/
def RegClass.written (c : RegClass) (old value lanes : Nat) : Nat :=
  let rw := c.writable .rw &&& lanes
  let w1c := c.writable .w1c &&& lanes &&& value &&& old
  (old ^^^ ((old ^^^ value) &&& rw)) ^^^ w1c

/-- Stores what a write leaves in a register. -/
def State.storeReg (s : State) (r : Reg) (value lanes : Nat) : State :=
  let v := r.cls.written (s.stored r) value lanes
  if r.cls.isPmc then s.setPmc r v else s.setReg r v

end Sys2Proof.Machine
end

