-- ==== Sys2Proof/Machine/Queues.lean ====
section
/-!
DEFINITION. Queues, doorbells, interrupts and register writes as the host's accesses reach them (20_host_interface.md R674 to R679,
R687, R696, 24_register_map.md R760 to R765).
-/

namespace Sys2Proof.Machine

open Sys2Proof

/-- A queue register of a function. -/
def queueReg (c : RegClass) (f : Fn) (q : Nat) : Reg := ⟨c, f.index, q⟩

/-- Entries of a queue by SIZE_M1, where 0 acts as 1 (R696). -/
def queueSize (cfg : Nat) : Nat := Nat.max (bitsOf cfg 15 0) 1 + 1

-- Fetching (R676 to R679) -------------------------------------------------------------------------------------------------------

/-- Whether a function passes everything through bounce records: its partition is in confidential-host mode (R647). -/
def State.bounceMode (s : State) (f : Fn) : Bool :=
  match s.partOfFn f with
  | some p => s.sec.conf.contains p
  | none => false

/-- Whether the device fetches from a function's queues: not in a device-fatal freeze (R742), and not before its bounce keys are
confirmed (R648). -/
def State.fetches (s : State) (f : Fn) : Bool :=
  s.doeUp f && !s.err.frozen && (!(s.bounceMode f) || (s.bounceOf f).keyed)

/-- Entries between head and tail. -/
def Sq.avail (x : Sq) : Nat := (x.tail + x.size - x.head) % x.size

/-- Slots that an entry takes (R676): two for an extended one, which v2 alone has and bounce records do not. -/
def State.slotsOf (s : State) (u : Sub) (x : Sq) : Nat := if u.flags.ext && x.v2 && !(s.bounceMode u.fn) then 2 else 1

/-- Takes an entry from a queue; the tag is outstanding from then on (R685). -/
def Sq.take (x : Sq) (tag slots : Nat) (part : Option Nat) : Sq :=
  { x with head := (x.head + slots) % x.size, tags := x.tags ++ [⟨tag, x.head, x.tags.any (fun t => t.tag == tag), part⟩] }

/-- Fetches an entry: it arrives with that (R678). -/
def State.fetch (s : State) (u : Sub) (q slots : Nat) (x : Sq) (part : Option Nat) : State :=
  { s with arrived := s.arrived ++ [u.owner] }.setSq u.fn q (x.take u.tag slots part)

-- Doorbells (R674) ----------------------------------------------------------------------------------------------------------------

/-- A submission from a queue of which only the tag is known. -/
def bareSub (f : Fn) (q tag : Nat) : Sub := ⟨f, some q, tag, {}, 0, 0, false, false, none⟩

/-- Fetches an entry with an unknown OPCODE and refuses it (R681, R685). -/
def State.refuseUnknown (s : State) (f : Fn) (q tag : Nat) : State :=
  match s.sq f q with
  | none => s
  | some x =>
    if x.avail = 0 then s
    else
      let u := bareSub f q tag
      let dup := x.tags.any (fun t => t.tag == tag)
      let s := s.count ⟨0x60, 1, 2, none, some (4, f.ctrl * 128 + f.vf), .bg, none⟩
      let t := if dup then s.setSq f q (x.take tag 1 (s.partOfFn f)) else s.fetch u q 1 x (s.partOfFn f)
      t.post { u.answer (if dup then .configTagInUse else .configOpcode) with dup := dup }

/-- SQ_TAIL_DOORBELL. `unknown`: the tags of the leading new entries whose OPCODE no command has. -/
def doSqTailDoorbell (f : Fn) (q value : Nat) (unknown : List Nat) (s : State) : State :=
  if !(s.doeUp f) || decide (64 ≤ q) then s
  else
    let v := value % 65536
    match s.sq f q with
    | none => s.hifErr f Fld.HIF_ERR_DB_ERR q
    | some x =>
      let h := s.sqHead f q
      if !x.on || decide (x.size ≤ v) || decide ((v + x.size - h) % x.size < (x.tail + x.size - h) % x.size) then
        s.hifErr f Fld.HIF_ERR_DB_ERR q
      else
        let t := s.setSq f q { x with tail := v }
        if t.fetches f then unknown.foldl (fun (a : State) n => a.refuseUnknown f q n) t else t

/-- CQ_HEAD_DOORBELL: the entries before the new head are released, and completions that wait find room (R679). -/
def doCqHeadDoorbell (f : Fn) (q value : Nat) (s : State) : State :=
  if !(s.doeUp f) || decide (64 ≤ q) then s
  else
    let v := value % 65536
    match s.cq f q with
    | none => s.hifErr f Fld.HIF_ERR_DB_ERR q
    | some x =>
      let n := (v + x.size - x.head) % x.size
      if !x.on || decide (x.size ≤ v) || decide (x.held < n) then s.hifErr f Fld.HIF_ERR_DB_ERR q
      else ((s.setCq f q { x with head := v, held := x.held - n }).drainCq f q x.waiting).1

-- Enabling (R675, R676) -------------------------------------------------------------------------------------------------------------

/-- Whether a completion queue of a function is enabled. -/
def State.cqOn (s : State) (f : Fn) (q : Nat) : Bool := match s.cq f q with | some x => x.on | none => false
/-- Whether a submission queue of a function is enabled. -/
def State.sqOn (s : State) (f : Fn) (q : Nat) : Bool := match s.sq f q with | some x => x.on | none => false

/-- A write of HIF_SQ_CFG: enabling a queue takes its other fields into force; a queue whose completion queue is not enabled is not
enabled, and the write is dropped. -/
def State.writeSqCfg (s : State) (f : Fn) (q value lanes : Nat) : State :=
  let r := queueReg .hifSqCfg f q
  let v := r.cls.written (s.reg r) value lanes
  let tags := match s.sq f q with | some x => x.tags | none => []
  if bitOf v 31 then
    if s.sqOn f q then s.setReg r v
    else if !(s.cqOn f (bitsOf v 21 16)) then s.hifErr f Fld.HIF_ERR_CFG_ERR q
    else (s.setReg r v).setSq f q ⟨true, bitOf v 30, bitsOf v 21 16, queueSize v, 0, 0, tags⟩
  else
    match s.sq f q with
    | some x => (s.setReg r v).setSq f q { x with on := false }
    | none => s.setReg r v

/-- Completions that wait in a queue that is disabled are dropped; their commands are outstanding no more. -/
def State.dropWaiting (s : State) (ws : List Completion) : State :=
  ws.foldl (fun (a : State) (c : Completion) => match c.sq with
    | some n => (match a.sq c.fn n with
      | some y => if c.notice then a else a.setSq c.fn n { y with tags := dropTag c y.tags }
      | none => a)
    | none => a) s

/-- A write of HIF_CQ_CFG: every enable restarts the queue's count. -/
def State.writeCqCfg (s : State) (f : Fn) (q value lanes : Nat) : State :=
  let r := queueReg .hifCqCfg f q
  let v := r.cls.written (s.reg r) value lanes
  let t := s.setReg r v
  if bitOf v 31 then
    if s.cqOn f q then t
    else t.setCq f q ⟨true, bitOf v 30, bitsOf v 29 24, bitsOf v 23 16, queueSize v, 0, 0, 0, [], 0, false⟩
  else
    match s.cq f q with
    | some x => (t.setCq f q { x with on := false, waiting := [], unsignalled := 0, timer := false }).dropWaiting x.waiting
    | none => t

/-- SQ_ENABLE: a write of HIF_SQ_CFG. -/
def doSqEnable (f : Fn) (q value : Nat) (s : State) : State :=
  if !(s.doeUp f) || decide (64 ≤ q) then s else s.writeSqCfg f q value (2 ^ 32 - 1)

/-- CQ_ENABLE: a write of HIF_CQ_CFG. -/
def doCqEnable (f : Fn) (q value : Nat) (s : State) : State :=
  if !(s.doeUp f) || decide (64 ≤ q) then s else s.writeCqCfg f q value (2 ^ 32 - 1)

/-- INTERRUPT_COALESCE_EXPIRY (R687): COAL_TIME has passed since the first unsignalled event. -/
def doInterruptCoalesceExpiry (f : Fn) (q : Nat) (s : State) : State :=
  match s.cq f q with
  | none => s
  | some x =>
    if x.on && x.timer && decide (0 < x.unsignalled) then
      (s.setCq f q { x with unsignalled := 0, timer := false }).signal f x.vector
    else s

-- Register writes (R760 to R765) -------------------------------------------------------------------------------------------------------

/-- Whether a write of a capture register is dropped: the partition's own function alone sets up its capture in confidential-host
mode (R647). -/
def State.captureBarred (s : State) (f : Fn) (r : Reg) : Bool :=
  f.isPf && s.sec.conf.contains r.i
    && (r.cls == .attCapCtl || r.cls == .attCapSes || r.cls == .attCapBase || r.cls == .attCapPtr)

/-- The bits that a write of ATT_CAP_CTL changes: a 1 to ENABLE is dropped where LOG2_SIZE lies outside 12 to 30 (R165). -/
def State.capLanes (s : State) (p value lanes : Nat) : Nat :=
  let n := s.fld Fld.ATT_CAP_BASE_LOG2_SIZE p
  if bitOf (value &&& lanes) 31 && (decide (n < 12) || decide (30 < n)) then lanes - 2 ^ 31 else lanes

/-- A write of some bits of a register that a function reaches. Registers whose bits start something do so (R16); GO of the mailbox
is a command of its own, MANAGEMENT_MAILBOX_GO. -/
def State.writeHit (s : State) (f : Fn) (h : RegHit) (value lanes : Nat) : State :=
  let r := h.reg f
  match r.cls with
  | .hifSqCfg => s.writeSqCfg f h.i value lanes
  | .hifCqCfg => s.writeCqCfg f h.i value lanes
  | .lnkRekey => if bitOf (value &&& lanes) 31 then doLnkRekeyGo f h.i (value % 32) s else s
  | .bootCtl => if bitOf (value &&& lanes) 31 then s.clearAlternatives else s
  | .egrCfg =>
    let t := s.storeReg r value (lanes &&& (2 ^ 32 - 1 - 2 ^ 29))
    if bitOf (value &&& lanes) 29 then doEgrSwitch f h.i t else t
  | .egrGate => if s.fld Fld.EGR_CFG_ACTIVE h.i = h.j / 64 then s else s.storeReg r value lanes
  | .attCapCtl => if s.captureBarred f r then s else s.storeReg r value (s.capLanes h.i value lanes)
  | .corFault =>
    if bitOf (value &&& lanes) 63 then (s.setReg r 0).setReg ⟨.corFaultInstr, r.i, r.j⟩ 0 else s
  | _ => if s.captureBarred f r then s else s.storeReg r value lanes

/-- Whether a function may write what it sees: MEM_CFG is for a virtual function to read (R398). -/
def RegHit.mayWrite (h : RegHit) (f : Fn) : Bool := f.isPf || h.row.cls != .memCfg

/-- REGISTER_WRITE: dropped where the address names no register, the access does not fit it or the function does not see it. -/
def doRegisterWrite (f : Fn) (addr width value : Nat) (s : State) : State :=
  if !(s.doeUp f) then s
  else
    match regAt addr with
    | none => s
    | some h =>
      if h.fits addr width && s.sees f h && h.mayWrite f then
        s.writeHit f h (value % 2 ^ width * 2 ^ (8 * h.off)) ((2 ^ width - 1) * 2 ^ (8 * h.off))
      else s

/-- CLEAR_ALT: PF0 writes BOOT_CTL. -/
def doClearAlt (f : Fn) (s : State) : State := if s.doeUp f && f.isPf then s.clearAlternatives else s

end Sys2Proof.Machine
end

