-- ==== Sys2Proof/Machine/Arrive.lean ====
section
/-!
DEFINITION. A host command from its fetch to its start: the checks that every command passes, commands that wait at their session,
and the command each code names (20_host_interface.md R671, R678 to R692, 02_sessions.md R37, R53, 10 R802, 22 R729, R742).
-/

namespace Sys2Proof.Machine

open Sys2Proof

-- The checks of every command --------------------------------------------------------------------------------------------------

/-- The partition that a command names (R802): through its function, its handle, or its PART field. -/
def State.cmdPart (s : State) (u : Sub) (c : HostCmd) : Option Nat :=
  match s.partOfFn u.fn with
  | some p => some p
  | none => if c.deviceWide then none else if c.byHandle then some (handlePart u.handle) else some u.part

/-- Whether a virtual function names another partition in PART (R681); 0 stands for none. -/
def State.foreignPart (s : State) (u : Sub) : Bool :=
  match s.partOfFn u.fn with
  | some p => u.part != 0 && u.part != p
  | none => false

/-- Whether PF0 names data of a partition in confidential-host mode (R647): a handle, collection, prefix, grammar or checkpoint. -/
def HostCmd.namesData (c : HostCmd) : Bool :=
  match c with
  | .sesCreate a => a.pfx != 0xFFFF
  | .pfxUnregister _ => true
  | .grmUnload _ => true
  | .vsrDrop _ => true
  | .vsrInsert _ => true
  | .vsrDelete _ _ => true
  | .vsrQuery _ => true
  | .vsrPoint _ => true
  | .ckpWrite _ => true
  | .ckpRestore _ => true
  | .ckpRelease _ _ => true
  | c => c.byHandle

/-- Whether a partition's freeze of R729 lets a command through. -/
def HostCmd.passesFatal (c : HostCmd) : Bool :=
  match c with
  | .partReset => true
  | .errRead _ _ _ => true
  | _ => false

/-- What refuses a command of a partition as that partition stands (R331, R658, R663, R729). A freeze by an alarm leaves the
management mailbox working for what acts on the device (R658, R802). -/
def State.partRefuses (s : State) (p : Nat) (mbox : Bool) (c : HostCmd) : Option Status :=
  if s.removals.has p || (s.sec.removed.contains p && !c.unconfiguredOk) then some .securityPartitionGone
  else if s.resets.has p && (match c with | .partRemove _ => false | _ => true) then some .contextPartitionReset
  else if s.sec.frozen && !(mbox && c.unconfiguredOk) then some .securityFrozen
  else if s.err.fatal.contains p && !c.passesFatal then some .internalPartitionFatal
  else none

/-- Whether FLAGS[7] is a reserved bit that is set (R676, R689). -/
def State.extReserved (s : State) (u : Sub) : Bool :=
  u.flags.ext && (match u.sq with
    | some q => s.bounceMode u.fn || (match s.sq u.fn q with | some x => !x.v2 | none => false)
    | none => false)

/-- Whether a parameter block or reserved field refuses a command here; REQ_SUBMIT makes these checks in its own order (R805).
An ARG that the command does not name counts as reserved (log entry 78). -/
def refuseForm (u : Sub) (c : HostCmd) : Option Status :=
  match c with
  | .reqSubmit _ => none
  | _ => if u.paramBad then some .configParamBlock else if u.resv then some .configReservedField else none

/-- Whether an area of host memory lies in one of a function's bounce regions (R688, R696). -/
def State.inRegion (s : State) (f : Fn) (a : Nat × Nat) : Bool :=
  (List.range 8).any (fun r =>
    let base := 4096 * s.fld Fld.HIF_BOUNCE_BASE_BASE f.index r
    s.fld Fld.HIF_BOUNCE_SIZE_VALID f.index r == 1 && decide (base ≤ a.1)
      && decide (a.1 + a.2 ≤ base + 4096 * s.fld Fld.HIF_BOUNCE_SIZE_SIZE_4K f.index r))

/-- The host address of a submission queue's slot in confidential-host mode (R689). -/
def State.slotAddr (s : State) (f : Fn) (q slot : Nat) : Nat := 4096 * s.fld Fld.HIF_SQ_BASE_BASE f.index q + 128 * slot

/-- The areas of a function's submission queue and of the completion queue that it names (R675, R689). -/
def State.queueAreas (s : State) (f : Fn) (q : Nat) : List (Nat × Nat) :=
  match s.sq f q with
  | none => []
  | some x =>
    (s.slotAddr f q 0, 128 * x.size) :: (match s.cq f x.cq with
      | some y => [(4096 * s.fld Fld.HIF_CQ_BASE_BASE f.index x.cq, 128 * y.size)]
      | none => [])

/-- The rings that a command names (R688). -/
def HostCmd.rings (c : HostCmd) : List (Nat × Nat) :=
  match c with
  | .reqSubmit a => if a.text.noEmit then [] else [(a.ring.base, 2 ^ a.ring.log2)]
  | .ckpWrite a => if a.host then [(a.ring.base, 2 ^ a.ring.log2)] else []
  | _ => []

/-- Whether a command in confidential-host mode names an address outside its function's bounce regions (R688). -/
def State.outside (s : State) (u : Sub) (c : HostCmd) : Bool :=
  s.bounceMode u.fn && (match u.bounce, u.sq with
    | some b, some q => !((s.queueAreas u.fn q ++ b.areas ++ c.rings).all (s.inRegion u.fn))
    | _, _ => true)

/-- The first check that refuses a command before it starts or waits (R53, R681, R802, R15). -/
def State.refusal (s : State) (u : Sub) (c : HostCmd) : Option Status :=
  let p := s.cmdPart u c
  if c.pfOnly && !u.fn.isPf then some .securityPfOnly
  else if s.extReserved u then some .configReservedField
  else if s.foreignPart u then some .securityForeignHandle
  else if c.byHandle && handleReserved u.handle then some .configBadHandle
  else if !c.unconfiguredOk && (match p with | some n => !(s.configured n) | none => false) then some .configUnconfigured
  else
    match p.bind (fun n => s.partRefuses n u.sq.isNone c) with
    | some st => some st
    | none =>
      if u.fn.isPf && c.namesData && (match p with | some n => s.sec.conf.contains n | none => false) then some .securityConfidential
      else if s.outside u c then some .securityBounceAuth
      else
        match if c.byHandle then s.checkSub u else none with
        | some st => some st
        | none => refuseForm u c

-- Commands at their session (R37, R504) -------------------------------------------------------------------------------------------

/-- Commands of which one at a time is in progress on a session. -/
def HostCmd.serial (c : HostCmd) : Bool :=
  match c with
  | .sesClose => true
  | .sesPark _ => true
  | .sesRevive => true
  | .sesMove _ _ => true
  | .reqSubmit _ => true
  | .pfxRegister _ => true
  | _ => false

/-- Commands that wait while a checkpoint reads the session (R504): park, move, close, exact re-prefill. -/
def readsBar (u : Sub) (c : HostCmd) : Bool :=
  match c with
  | .sesClose => true
  | .sesPark _ => true
  | .sesMove _ _ => true
  | .sesRevive => u.flags.exact
  | .reqSubmit _ => u.flags.exact
  | _ => false

/-- Whether a command may start on its session as it stands; a session that is being pulled runs requests (R199 order 6). -/
def State.mayStart (s : State) (slot : Nat) (u : Sub) (c : HostCmd) : Bool :=
  let x := s.ses slot
  (!(s.busy slot) || (x.op == .moveIn && (match c with | .reqSubmit _ => true | _ => false) && !(s.endWaits slot)))
    && !(decide (0 < x.ckpReads) && readsBar u c)

/-- The effect of a command that starts. -/
def State.startHost (s : State) (u : Sub) (c : HostCmd) : State :=
  match c with
  | .sesCreate a => doSesCreate u a s
  | .sesClose => doSesClose u s
  | .sesQuery => doSesQuery u s
  | .sesSetHostData d => doSesSetHostData u d s
  | .sesPark h => doSesPark u h s
  | .sesRevive => doSesRevive u s
  | .sesMove peer epoch => doSesMove u peer epoch s
  | .reqSubmit a => doReqSubmit u a s
  | .reqCancel tag => doReqCancel u tag s
  | .pfxRegister n => doPfxRegister u n s
  | .pfxUnregister id => doPfxUnregister u id s
  | .grmLoad main img => doGrmLoad u main img s
  | .grmUnload id => doGrmUnload u id s
  | .vsrCreate a => doVsrCreate u a s
  | .vsrDrop coll => doVsrDrop u coll s
  | .vsrInsert i => doVsrInsert u i s
  | .vsrDelete coll item => doVsrDelete u coll item s
  | .vsrQuery q => doVsrQuery u q s
  | .vsrPoint coll => doVsrPoint u coll s
  | .ckpWrite a => doCkpWrite u a s
  | .ckpRestore a => doCkpRestore u a s
  | .ckpRelease series ckpStep => doCkpRelease u series ckpStep s
  | .cmpInstall m => doCmpInstall u m s
  | .cmpRemove comp => doCmpRemove u comp s
  | .peerAdd fabric parts => doPeerAdd u fabric parts s
  | .ctxReload ctx => doCtxReload u ctx s
  | .keyQuote slot nonce => doKeyQuote u slot nonce s
  | .keyImport slot b => doKeyImport u slot b s
  | .bndReportGet number bytes => doBndReportGet u number bytes s
  | .partReset => doPartReset u s
  | .partRemove r => doPartRemove u r s
  | .secChange r => doSecChange u r s
  | .wgtSupply ctx first blocks => doWgtSupply u ctx first blocks s
  | .fwStage off data => doFwStage u off data s
  | .fwCheck green => doFwCheck u green s
  | .cfgWrite copyB off data => doCfgWrite u copyB off data s
  | .ledgerRead start bytes => doLedgerRead u start bytes s
  | .devRestart => doDevRestart u s
  | .errRead seq device bytes => doErrRead u seq device bytes s

/-- A command that has passed its checks starts, or waits at its session behind what came before it. -/
def State.runHost (s : State) (u : Sub) (c : HostCmd) : State :=
  if c.serial && !((s.ses u.slot).waiting.isEmpty && s.mayStart u.slot u c) then
    s.modSes u.slot (fun x => { x with waiting := x.waiting ++ [(u, c)] })
  else s.startHost u c

-- Flash (R698) ------------------------------------------------------------------------------------------------------------------------

/-- Commands that write the flash (R725). -/
def HostCmd.writesFlash (c : HostCmd) : Bool :=
  match c with
  | .fwStage _ _ => true
  | .cfgWrite _ _ _ => true
  | _ => false

/-- The state `t` with the flash and the queue of commands of `s`: nothing but what R725 and R721 name writes the flash, and no
command's effect touches the queue. -/
def State.kept (s t : State) : State := { t with flash := s.flash, pending := s.pending }

/-- A command runs from its checks on. -/
def State.begin (s : State) (u : Sub) (c : HostCmd) : State :=
  match s.refusal u c with
  | some st => s.kept (s.complete u st)
  | none => if c.writesFlash then s.startHost u c else s.kept (s.runHost u c)

-- Arrival (R650, R671, R678, R685, R692) -----------------------------------------------------------------------------------------------

/-- Whether a bounce record of a kind at an address passes R650 and R690: its tag, its KIND and HOST_REF, its counter below 2^40, seen
once and inside the window. -/
def Bounce.accepts (b : Bounce) (kind addr : Nat) (r : BounceRec) : Bool :=
  r.tagOk && r.kind == kind && r.hostRef == addr && decide (r.counter < 2 ^ 40) && !(b.seen.contains r.counter)
    && decide (b.highest ≤ r.counter + 1024)

/-- The counters after an accepted record. -/
def Bounce.accept (b : Bounce) (r : BounceRec) : Bounce :=
  let top := Nat.max b.highest r.counter
  { b with highest := top, seen := r.counter :: b.seen.filter (fun n => decide (top ≤ n + 1024)) }

/-- The records of the data that a command reads, in turn, up to the first that is refused (R690). -/
def Bounce.takeData (b : Bounce) (l : List (Nat × BounceRec)) : Bool × Bounce :=
  match l with
  | [] => (true, b)
  | (a, r) :: rest => if b.accepts 3 a r then (b.accept r).takeData rest else (false, b)

/-- The bounce records of a submission in a slot are accepted or refused (R650, R689, R690): whether the command may run, and the state. -/
def State.takeBounce (s : State) (u : Sub) (q slot : Nat) : Bool × State :=
  if !(s.bounceMode u.fn) then (true, s)
  else
    let b := s.bounceOf u.fn
    let r : Bool × Bounce := match u.bounce with
      | some i => if b.accepts 1 (s.slotAddr u.fn q slot) i.entry then (b.accept i.entry).takeData i.data else (false, b)
      | none => (false, b)
    let t := { s with bounce := s.bounce.set u.fn.index r.2 }
    if r.1 then (true, t) else (false, t.bump Fld.SEC_BOUNCE_FAILS_COUNT ((s.partOfFn u.fn).getD 0))

/-- Counts a fetched entry (23 R750, event 0x60). -/
def State.countFetch (s : State) (u : Sub) (c : HostCmd) : State :=
  let m : Option (Nat × Nat) := some (4, u.fn.ctrl * 128 + u.fn.vf)
  match s.cmdPart u c with
  | some p => s.count ⟨0x60, 1, 3, some p, m, .bg, none⟩
  | none => s.count ⟨0x60, 1, 2, none, m, .bg, none⟩

/-- A submission that is in its queue is fetched (R678). Before S15 it waits (R671). -/
def State.fromQueue (s : State) (u : Sub) (c : HostCmd) (q : Nat) (x : Sq) : State :=
  let dup := x.tags.any (fun t => t.tag == u.tag)
  let s := s.countFetch u c
  if dup then (s.setSq u.fn q (x.take u.tag (s.slotsOf u x) (s.cmdPart u c))).post { u.answer .configTagInUse with dup := true }
  else
    let s := s.fetch u q (s.slotsOf u x) x (s.cmdPart u c)
    let b := s.takeBounce u q x.head
    if !b.1 then b.2.complete u .securityBounceAuth
    else if b.2.boot.phase != .ready then { b.2 with waitS15 := b.2.waitS15 ++ [(u, c)] }
    else b.2.begin u c

/-- A command of the management mailbox (R692): one at a time, from S05 on. -/
def State.fromMailbox (s : State) (u : Sub) (c : Option HostCmd) : State :=
  if !u.fn.isPf || !(s.doeUp u.fn) || s.mboxBusy.contains u.fn.index then s
  else
    let t := { s with mboxBusy := u.fn.index :: s.mboxBusy, arrived := s.arrived ++ [u.owner] }.setFld Fld.HIF_MBOX_CTL_DONE 0 u.fn.index
    match c with
    | none => t.complete u .configOpcode
    | some c =>
      if t.err.frozen && !c.frozenMailbox then t.complete u .internalDeviceFatal
      else if t.boot.phase != .ready && !t.err.frozen && !c.earlyMailbox then t.complete u .configNotReady
      else t.begin u c

/-- A host command arrives: from its submission queue, where the queue holds its entry, or from the management mailbox. -/
def State.arrive (s : State) (u : Sub) (c : HostCmd) : State :=
  match u.sq with
  | none => s.fromMailbox u (some c)
  | some q =>
    match s.sq u.fn q with
    | none => s
    | some x => if x.on && s.fetches u.fn && decide (s.slotsOf u x ≤ x.avail) then s.fromQueue u c q x else s

/-- MANAGEMENT_MAILBOX_GO. -/
def doManagementMailboxGo (u : Sub) (c : Option HostCmd) (s : State) : State :=
  match u.sq with
  | none => s.fromMailbox u c
  | some _ => s

end Sys2Proof.Machine
end

