-- ==== Sys2Proof/Machine/Functions.lean ====
section
/-!
DEFINITION. Function resets, the controllers' reset pins and errors of host memory (20_host_interface.md R686, R694, R695,
25_package_and_electrical.md R788).
-/

namespace Sys2Proof.Machine

open Sys2Proof

-- What a function reset forgets (R694) -------------------------------------------------------------------------------------------

/-- A queue number that no function has: completions for it are dropped. -/
def noQueue : Nat := 64

/-- An owner whose completion a reset of a function drops. -/
def Owner.cut (f : Fn) (o : Owner) : Owner := if o.fn = f then { o with sq := some noQueue } else o
/-- A submission whose completion a reset of a function drops. -/
def Sub.cut (f : Fn) (u : Sub) : Sub := if u.fn = f then { u with sq := some noQueue } else u
/-- The queue under which a completion is posted after a reset of a function. -/
def cutSq (f g : Fn) (sq : Option Nat) : Option Nat := if g = f then some noQueue else sq
/-- Commands whose completions a reset of a function drops. -/
def cutSubs (f : Fn) (l : List (Sub × HostCmd)) : List (Sub × HostCmd) := l.map (fun w => (w.1.cut f, w.2))

/-- Drops the completions of a function's requests, parks, revives, moves and handoffs. -/
def State.cutSessions (s : State) (f : Fn) : State :=
  { s with
    reqs := s.reqs.map (fun (kv : Nat × Req) => (kv.1, { kv.2 with sq := cutSq f kv.2.fn kv.2.sq }))
    handoffs := s.handoffs.map (fun (kv : Nat × Handoff) => (kv.1, { kv.2 with owner := kv.2.owner.map (Owner.cut f) }))
    parks := s.parks.map (fun (kv : Nat × ParkRun) => (kv.1, { kv.2 with owner := kv.2.owner.cut f }))
    revives := s.revives.map (fun (kv : Nat × ReviveRun) => (kv.1, { kv.2 with owner := kv.2.owner.map (Owner.cut f) }))
    movesOut := s.movesOut.map (fun (kv : Nat × MoveOut) => (kv.1, { kv.2 with sq := cutSq f kv.2.fn kv.2.sq }))
    bondWaits := s.bondWaits.map (fun (w : BondWait) => { w with sub := w.sub.cut f })
    allocWait := cutSubs f s.allocWait
    arrived := s.arrived.map (Owner.cut f) }

/-- Drops the completions of a function's other commands that have started. -/
def State.cutOthers (s : State) (f : Fn) : State :=
  { s with
    resets := s.resets.map (fun (kv : Nat × ResetRun) => (kv.1, { kv.2 with sq := cutSq f kv.2.fn kv.2.sq }))
    removals := s.removals.map (fun (kv : Nat × Removal) => (kv.1, { kv.2 with sq := cutSq f kv.2.fn kv.2.sq }))
    removeWait := s.removeWait.map (fun (w : Sub × ChangeRec) => (w.1.cut f, w.2))
    scans := s.scans.map (fun (kv : Nat × List VsrRun) =>
      (kv.1, kv.2.map (fun (r : VsrRun) => { r with sq := cutSq f r.fn r.sq })))
    ckp := { s.ckp with
      runs := s.ckp.runs.map (fun (kv : (Nat × Nat) × CkpRun) => (kv.1, { kv.2 with sq := cutSq f kv.2.fn kv.2.sq }))
      queue := cutSubs f s.ckp.queue }
    ctxs := s.ctxs.map (fun (kv : (Nat × Nat) × Ctx) =>
      (kv.1, { kv.2 with asked := kv.2.asked.map (Owner.cut f), held := cutSubs f kv.2.held }))
    peers := s.peers.map (fun (kv : Nat × Peer) => (kv.1, { kv.2 with asks := kv.2.asks.map (Owner.cut f) }))
    boot := { s.boot with restart := s.boot.restart.map (Owner.cut f) } }

/-- Commands that have been fetched and have not started are dropped: those that wait at their session, and those that wait for S15. -/
def State.dropQueued (s : State) (f : Fn) : State :=
  { s with
    sessions := s.sessions.map (fun (kv : Nat × Session) =>
      (kv.1, { kv.2 with
        waiting := kv.2.waiting.filter (fun (w : Sub × HostCmd) => w.1.fn != f)
        noted := kv.2.noted.filter (fun (w : Sub × Nat) => w.1.fn != f) }))
    waitS15 := s.waitS15.filter (fun (w : Sub × HostCmd) => w.1.fn != f)
    lateEnds := s.lateEnds.filter (fun (q : Req) => q.fn != f) }

/-- Registers of a function that its reset clears. -/
def resetClasses : List RegClass := [.hifErr, .hifSqBase, .hifSqCfg, .hifCqBase, .hifCqCfg, .hifBounceBase, .hifBounceSize]

/-- The queues, their registers, HIF_BOUNCE, HIF_ERR and the bounce keys of a function are cleared. -/
def State.clearFn (s : State) (f : Fn) : State :=
  { s with
    regs := s.regs.filter (fun (kv : Reg × Word64) => !(resetClasses.contains kv.1.cls && kv.1.i == f.index))
    sqs := s.sqs.filter (fun (kv : (Nat × Nat) × Sq) => kv.1.1 != f.index)
    cqs := s.cqs.filter (fun (kv : (Nat × Nat) × Cq) => kv.1.1 != f.index)
    bounce := s.bounce.erase f.index
    mboxBusy := s.mboxBusy.filter (fun i => i != f.index) }

/-- A request that waits in its ending phase for room in its emit ring completes without the end record (R804). -/
def State.endWithout (s : State) (slot : Nat) : State :=
  match s.req slot with
  | none => s
  | some q =>
    match q.heldEnd with
    | some h => s.finishReq slot { q with heldEnd := none } h.status q.report
    | none => s

/-- A running request of a function ends with CANCELLED/host-reset, without a completion (R694, R695). -/
def State.endByReset (s : State) (slot : Nat) : State := (s.endReq slot .cancelledHostReset).endWithout slot

/-- A function reset. -/
def State.resetFn (s : State) (f : Fn) : State :=
  let slots := (s.reqs.filter (fun (kv : Nat × Req) => kv.2.fn == f)).map (·.1)
  let s := ((((s.dropQueued f).cutSessions f).cutOthers f).clearFn f)
  let s := slots.foldl (fun (a : State) n => a.endByReset n) s
  match s.partOfFn f with
  | some p => s.setFld Fld.ATT_CAP_CTL_ENABLE 0 p
  | none => s

/-- FUNCTION_RESET (R694). -/
def doFunctionReset (f : Fn) (s : State) : State := if s.doeUp f then s.resetFn f else s

-- The controllers' reset pins (R671, R694, R788) -----------------------------------------------------------------------------------------

/-- The functions of a controller (R672). -/
def fnsOf (ctrl : Nat) : List Fn := (List.range 17).map (fun v => ⟨ctrl, v⟩)

/-- Sets the level of a controller's reset pin. -/
def State.setPerst (s : State) (ctrl : Nat) (low : Bool) : State :=
  if ctrl = 0 then { s with pins := { s.pins with perst0 := low } }
  else { s with pins := { s.pins with perst1 := low } }

/-- The link of a controller goes down. -/
def State.linkOff (s : State) (ctrl : Nat) : State :=
  ((s.setFld Fld.HIF_LINK_UP 0 ctrl).setFld Fld.HIF_LINK_WIDTH 0 ctrl).setFld Fld.HIF_LINK_GEN 0 ctrl

/-- PERST_ASSERTED: PERSTn_N has been low for 1 µs. -/
def doPerstAsserted (ctrl : Nat) (s : State) : State :=
  if 2 ≤ ctrl ∨ s.perst ctrl then s
  else
    let t := s.setPerst ctrl true
    if s.pcieUp && s.present ⟨ctrl, 0⟩ then (fnsOf ctrl).foldl (fun (a : State) f => a.resetFn f) (t.linkOff ctrl) else t

/-- PERST_RELEASED: the link trains to a width and a generation that its partner decides (R670, log entry 22); it may find
none. -/
def doPerstReleased (ctrl : Nat) (s : State) : State :=
  if 2 ≤ ctrl ∨ !(s.perst ctrl) then s
  else
    let t := s.setPerst ctrl false
    if s.pcieUp && s.present ⟨ctrl, 0⟩ then
      let d := t.draw
      let e := d.2.draw
      e.2.pcieLink ctrl (nthD [0, 1, 2, 4, 8, 16] (Config.freeValue 74 d.1 % (if bitOf s.boot.straps 0 then 5 else 6)) 0) (1 + Config.freeValue 75 e.1 % 5)
    else t

-- Errors of host memory (R686, R804) -------------------------------------------------------------------------------------------------------

/-- The commands in progress that a submission names. -/
def State.victimsOf (s : State) (o : Owner) : List Victim :=
  (allParts.flatMap (fun p => s.commandsOf p)).filter (fun v => s.ownerOf v == o)

/-- HOST_DMA_ERROR: the command ends with CONFIG/host-memory; a request whose end is decided loses its end record instead. -/
def doHostDmaError (f : Fn) (sq tag : Nat) (s : State) : State :=
  if !(s.doeUp f) then s
  else
    let o : Owner := ⟨f, some sq, tag⟩
    let ending := (s.reqs.filter (fun (kv : Nat × Req) => kv.2.owner == o && kv.2.heldEnd.isSome)).map (·.1)
    let vs := s.victimsOf o
    let t := s.hifErr f Fld.HIF_ERR_DMA_ERR sq
    let t := vs.foldl (fun (a : State) v => a.endVictim v .configHostMemory 0) t
    let late := t.lateEnds.filter (fun q => q.owner == o)
    let t := { t with lateEnds := t.lateEnds.filter (fun q => q.owner != o) }
    let t := late.foldl (fun (a : State) q => a.endLate { q with emit := none } (match q.heldEnd with | some h => h.status | none => .ok)) t
    ending.foldl (fun (a : State) n => a.endWithout n) t

end Sys2Proof.Machine
end

