-- ==== Sys2Proof/Machine/Settle.lean ====
section
/-!
DEFINITION. What follows a command at once: commands that waited start, pulls go on, resets and removals take their next order, a
restart that was asked for begins; and the events for which commands wait (02_sessions.md R37, 11 R383, R394, 13 R447, R457, 21 R671).
-/

namespace Sys2Proof.Machine

open Sys2Proof

-- Waiting commands (R37) ---------------------------------------------------------------------------------------------------------

/-- The command that waits at a session and is due first: a SES_SET_HOST_DATA, which only a move holds up (R801), else the one that came
first (R37). -/
def Session.due (x : Session) : Option (Sub × HostCmd) :=
  match (if x.state = .moving then none else x.waiting.find? (fun w => !w.2.serial)) with
  | some w => some w
  | none => x.waiting.head?

/-- The first session with a waiting command that may start, and that command. -/
def State.nextWaiting (s : State) : Option (Nat × Sub × HostCmd) :=
  s.sessions.findSome? (fun (kv : Nat × Session) =>
    match kv.2.due with
    | none => none
    | some (u, c) => if (!c.serial && kv.2.state != .moving) || s.mayStart kv.1 u c then some (kv.1, u, c) else none)

/-- Starts a command that waited at a session: its handle is checked again (R53). -/
def State.startWaited (s : State) (slot : Nat) (u : Sub) (c : HostCmd) : State :=
  let t := s.modSes slot (fun x => { x with waiting := x.waiting.erase (u, c) })
  match t.checkSub u with
  | some st => t.complete u st
  | none => t.startHost u c

/-- Starts the commands that may start, at most `n` of them. -/
def State.startWaiting (s : State) (n : Nat) : State :=
  match n with
  | 0 => s
  | k + 1 =>
    match s.nextWaiting with
    | none => s
    | some (slot, u, c) => (s.startWaited slot u c).startWaiting k

/-- How many commands wait at sessions. -/
def State.waitingCount (s : State) : Nat := (s.sessions.map (fun kv => kv.2.waiting.length)).sum

/-- Starts every waiting command that may start. -/
def State.startAll (s : State) : State := s.startWaiting s.waitingCount

/-- PART_REMOVE commands whose partition is not in a reset any more run (R662). -/
def State.runRemovals (s : State) : State :=
  let due := s.removeWait.filter (fun w => !(s.resets.has (s.subPart w.1)))
  let t := { s with removeWait := s.removeWait.filter (fun w => s.resets.has (s.subPart w.1)) }
  due.foldl (fun (a : State) w => doPartRemove w.1 w.2 a) t

/-- Resets and removals go as far as they can (R331, R663). -/
def State.goPartitions (s : State) : State :=
  let s := s.resets.foldl (fun (a : State) kv => a.goReset kv.1) s
  let s := s.removals.foldl (fun (a : State) kv => a.goRemoval kv.1 8) s
  s.runRemovals

/-- What follows a command's own effect (log entry 52). It writes no flash and leaves the queue of commands alone. -/
def State.settle (s : State) : State :=
  let t := s.startAll
  let t := (t.ckpQueue t.ckp.queue.length).startAll
  let t := t.movesIn.foldl (fun (a : State) kv => a.pumpPulls kv.1) t
  s.kept (t.pruneMaps.goPartitions.goRestart)

-- When the device's own engines work -------------------------------------------------------------------------------------------------

/-- Whether the device's engines run: it has power, is not held in reset and is not frozen (R742, R787). -/
def State.awake (s : State) : Bool :=
  !s.err.frozen && (match s.boot.phase with
    | .off => false
    | .reset => false
    | _ => true)

/-- An event of the device's engines: none comes while they do not run. -/
def State.event (s : State) (f : State → State) : State := if s.awake then (s.kept (f s)).settle else s

/-- An event on a pin or of the start, which comes in every state. -/
def State.always (s : State) (f : State → State) : State := (s.kept (f s)).settle

/-- A command that may write the flash (R721, R725). -/
def State.flashing (s : State) (f : State → State) : State := { f s with pending := s.pending }.settle

-- Frames and bonds for which commands wait (R383, R394, R447, R457) ---------------------------------------------------------------------

/-- Tries a command that waits for a frame: it stays where it is while there is none. -/
def State.retryAlloc (s : State) (u : Sub) (c : HostCmd) : State :=
  let t := { s with allocWait := dropWait u c s.allocWait }.startHost u c
  if t.allocWait.contains (u, c) then s else t

/-- The partitions with work that waits for a ZEROING frame (R383). -/
def State.frameWaiters (s : State) : List Nat :=
  s.allocWait.map (fun w => s.subPart w.1) ++ (s.reqs.filter (fun kv => kv.2.wait == some .frames)).map (fun kv => kv.2.part)

/-- Whether the scrub engine may zero a frame of a partition now: those of a partition that waits come before any other (R383). -/
def State.zeroesNow (s : State) (p : Nat) : Bool :=
  s.frameWaiters.contains p || s.frameWaiters.all (fun q => s.tilesZeroing q == 0 && s.morZeroing q == 0)

/-- SCRUB_ZEROED (R383, R394): the frame is FREE, and what waits for frames of its partition tries again. -/
def doScrubZeroed (mortar : Bool) (frame : Nat) (s : State) : State :=
  if !s.memoryUp then s
  else
    match (if mortar then s.mortarFrames.get? frame else s.tileFrames.get? frame) with
    | none => s
    | some f =>
      if f.state ≠ .zeroing ∨ ¬s.zeroesNow f.owner then s
      else
        let t := s.scrubbed mortar frame
        let ws := t.allocWait.filter (fun w => t.subPart w.1 == f.owner)
        (ws.foldl (fun (a : State) w => a.retryAlloc w.1 w.2) t).resumeFrames f.owner

/-- BOND_OPEN_GRANTED (R447, R457): a bond that waits at order 2 finds its claim free and room under the limit. -/
def doBondOpenGranted (slot : Nat) (s : State) : State :=
  match s.bondWaits.find? (fun w => w.slot == slot) with
  | none => s
  | some w =>
    if !s.bondRoom w.part || (slot != noSlot && s.claimed slot) then s
    else
      let t := { s with bondWaits := s.bondWaits.filter (fun x => x != w) }
      match (if w.cmd.byHandle then t.checkSub w.sub else none) with
      | some st => t.complete w.sub st
      | none => t.startHost w.sub w.cmd

/-- S15_READY (R671, R712): the device is ready, and the commands that waited for that run in their order. -/
def doS15Ready (s : State) : State :=
  if !(s.atStep 15) then s
  else
    let t := { s with waitS15 := [] }.reachReady
    s.waitS15.foldl (fun (a : State) w => a.begin w.1 w.2) t

end Sys2Proof.Machine
end

