-- ==== Sys2Proof/Machine/BoardRows.lean ====
section
/-!
DEFINITION. Doorbells, register writes, DOE, function resets, pins and clock steps as commands of the opcode table (20, 24, 25).
-/

namespace Sys2Proof.Machine

open Sys2Proof

/-- SQ_TAIL_DOORBELL (R674). -/
def execSqTailDoorbell (fn : Fn) (q value : Nat) (unknown : List Nat) (s : State) : Host.Outcome State Fault Refusal :=
  .next (s.always (doSqTailDoorbell fn q value unknown))

/-- CQ_HEAD_DOORBELL (R674). -/
def execCqHeadDoorbell (fn : Fn) (q value : Nat) (s : State) : Host.Outcome State Fault Refusal :=
  .next (s.always (doCqHeadDoorbell fn q value))

/-- SQ_ENABLE (R675). -/
def execSqEnable (fn : Fn) (q value : Nat) (s : State) : Host.Outcome State Fault Refusal :=
  .next (s.always (doSqEnable fn q value))

/-- CQ_ENABLE (R676). -/
def execCqEnable (fn : Fn) (q value : Nat) (s : State) : Host.Outcome State Fault Refusal :=
  .next (s.always (doCqEnable fn q value))

/-- LNK_REKEY_GO (R563). -/
def execLnkRekeyGo (fn : Fn) (port key : Nat) (s : State) : Host.Outcome State Fault Refusal :=
  .next (s.always (fun t => if t.doeUp fn then doLnkRekeyGo fn port key t else t))

/-- EGR_SWITCH (R624). -/
def execEgrSwitch (fn : Fn) (port : Nat) (s : State) : Host.Outcome State Fault Refusal :=
  .next (s.always (fun t => if t.doeUp fn then doEgrSwitch fn port t else t))

/-- CLEAR_ALT (R714). -/
def execClearAlt (fn : Fn) (s : State) : Host.Outcome State Fault Refusal :=
  .next (s.always (doClearAlt fn))

/-- REGISTER_WRITE (R763). -/
def execRegisterWrite (fn : Fn) (addr width value : Nat) (s : State) : Host.Outcome State Fault Refusal :=
  .next (s.always (doRegisterWrite fn addr width value))

/-- INTERRUPT_COALESCE_EXPIRY (R687). -/
def execInterruptCoalesceExpiry (fn : Fn) (q : Nat) (s : State) : Host.Outcome State Fault Refusal :=
  .next (s.always (doInterruptCoalesceExpiry fn q))

/-- HOST_DMA_ERROR (R686). -/
def execHostDmaError (fn : Fn) (sq tag : Nat) (s : State) : Host.Outcome State Fault Refusal :=
  .next (s.always (doHostDmaError fn sq tag))

/-- DOE_DISCOVERY (R693). -/
def execDoeDiscovery (fn : Fn) (known : Bool) (s : State) : Host.Outcome State Fault Refusal :=
  .next (s.always (doDoeDiscovery fn known))

/-- DOE_HOST_REPORT (R693). -/
def execDoeHostReport (fn : Fn) (nonce : Nat) (s : State) : Host.Outcome State Fault Refusal :=
  .next (s.always (doDoeHostReport fn nonce))

/-- BB_ASK (R648). -/
def execBbAsk (fn : Fn) (nonce : Nat) (s : State) : Host.Outcome State Fault Refusal :=
  .next (s.always (doBbAsk fn nonce))

/-- BB_CONFIRM (R648). -/
def execBbConfirm (fn : Fn) (tagOk : Bool) (s : State) : Host.Outcome State Fault Refusal :=
  .next (s.always (doBbConfirm fn tagOk))

/-- FUNCTION_RESET (R694). -/
def execFunctionReset (fn : Fn) (s : State) : Host.Outcome State Fault Refusal :=
  .next (s.always (doFunctionReset fn))

/-- PERST_ASSERTED (R788). -/
def execPerstAsserted (ctrl : Nat) (s : State) : Host.Outcome State Fault Refusal :=
  .next (s.always (doPerstAsserted ctrl))

/-- PERST_RELEASED (R671). -/
def execPerstReleased (ctrl : Nat) (s : State) : Host.Outcome State Fault Refusal :=
  .next (s.always (doPerstReleased ctrl))

/-- MCTP_PLDM_REQUEST (R776). -/
def execMctpPldmRequest (r : MctpReq) (s : State) : Host.Outcome State Fault Refusal :=
  .next (s.flashing (doMctpPldmRequest r))

/-- JTAG_INSTRUCTION (R777). -/
def execJtagInstruction (i : TapInstr) (s : State) : Host.Outcome State Fault Refusal :=
  .next (s.always (doJtagInstruction i))

/-- PWR_GOOD_RISE (R712). -/
def execPwrGoodRise (straps : Nat) (s : State) : Host.Outcome State Fault Refusal :=
  .next (s.always (doPwrGoodRise straps))

/-- PWR_GOOD_FALL (R784). -/
def execPwrGoodFall (s : State) : Host.Outcome State Fault Refusal :=
  .next (s.always doPwrGoodFall)

/-- SYS_RESET_ASSERTED (R787). -/
def execSysResetAsserted (s : State) : Host.Outcome State Fault Refusal :=
  .next (s.always doSysResetAsserted)

/-- SYS_RESET_RELEASED (R787). -/
def execSysResetReleased (s : State) : Host.Outcome State Fault Refusal :=
  .next (s.always doSysResetReleased)

/-- ALARM_IN_ASSERTED (R657). -/
def execAlarmInAsserted (pin : Nat) (s : State) : Host.Outcome State Fault Refusal :=
  .next (s.always (doAlarmInAsserted pin))

/-- ALARM_IN_RELEASED (R657). -/
def execAlarmInReleased (pin : Nat) (s : State) : Host.Outcome State Fault Refusal :=
  .next (s.always (doAlarmInReleased pin))

/-- ALARM_SOURCE_DETECTED (R658). -/
def execAlarmSourceDetected (source : Nat) (present : Bool) (s : State) : Host.Outcome State Fault Refusal :=
  .next (s.always (doAlarmSourceDetected source present))

/-- THERMAL_STEP_DOWN (R796). -/
def execThermalStepDown (course : Nat) (s : State) : Host.Outcome State Fault Refusal :=
  .next (s.event (doThermalStepDown course))

/-- THERMAL_STEP_UP (R796). -/
def execThermalStepUp (course : Nat) (s : State) : Host.Outcome State Fault Refusal :=
  .next (s.event (doThermalStepUp course))

/-- POWER_STEP_DOWN (R796). -/
def execPowerStepDown (course : Nat) (s : State) : Host.Outcome State Fault Refusal :=
  .next (s.event (doPowerStepDown course))

/-- POWER_STEP_UP (R796). -/
def execPowerStepUp (course : Nat) (s : State) : Host.Outcome State Fault Refusal :=
  .next (s.event (doPowerStepUp course))

/-- COURSE_STEP_DONE (R241). -/
def execCourseStepDone (course : Nat) (s : State) : Host.Outcome State Fault Refusal :=
  .next (s.event (doCourseStepDone course))

/-- THERMAL_TRIP (R797). -/
def execThermalTrip (s : State) : Host.Outcome State Fault Refusal :=
  .next (s.always doThermalTrip)

/-- HARDWARE_FAULT (R730). -/
def execHardwareFault (f : FaultRep) (s : State) : Host.Outcome State Fault Refusal :=
  .next (s.always (doHardwareFault f))

/-- FREEZE_DUMP_DONE (R742). -/
def execFreezeDumpDone (programmed : Bool) (s : State) : Host.Outcome State Fault Refusal :=
  .next (s.always (fun t => (doFreezeDumpDone programmed t).dumpEnds))

end Sys2Proof.Machine
end

