-- ==== Sys2Proof/Machine/CoreRows.lean ====
section
/-!
DEFINITION. Dispatches and tile instructions as commands of the opcode table (06_cores_and_tile_programs.md).
-/

namespace Sys2Proof.Machine

open Sys2Proof

/-- DISPATCH (R338). -/
def execDispatch (core : Nat) (d : Dispatch) (s : State) : Host.Outcome State Fault Refusal :=
  .next (s.event (doDispatch core d))

/-- SLICE_END (R338). -/
def execSliceEnd (core : Nat) (s : State) : Host.Outcome State Fault Refusal :=
  .next (s.event (doSliceEnd core))

/-- MMUL (R230). -/
def execMmul (core : Nat) (i : TInstr) (s : State) : Host.Outcome State Fault Refusal :=
  .next (s.event (doMmul core i))

/-- SMAX_PARTIAL (R230). -/
def execSmaxPartial (core : Nat) (i : TInstr) (s : State) : Host.Outcome State Fault Refusal :=
  .next (s.event (doSmaxPartial core i))

/-- SMAX_NORMALISE (R230). -/
def execSmaxNormalise (core : Nat) (i : TInstr) (s : State) : Host.Outcome State Fault Refusal :=
  .next (s.event (doSmaxNormalise core i))

/-- SMAX_COMBINE (R230). -/
def execSmaxCombine (core : Nat) (i : TInstr) (s : State) : Host.Outcome State Fault Refusal :=
  .next (s.event (doSmaxCombine core i))

/-- ROT (R143). -/
def execRot (core : Nat) (i : TInstr) (s : State) : Host.Outcome State Fault Refusal :=
  .next (s.event (doRot core i))

/-- QNT (R91). -/
def execQnt (core : Nat) (i : TInstr) (s : State) : Host.Outcome State Fault Refusal :=
  .next (s.event (doQnt core i))

/-- DQNT (R230). -/
def execDqnt (core : Nat) (i : TInstr) (s : State) : Host.Outcome State Fault Refusal :=
  .next (s.event (doDqnt core i))

/-- GATH (R231). -/
def execGath (core : Nat) (i : TInstr) (s : State) : Host.Outcome State Fault Refusal :=
  .next (s.event (doGath core i))

/-- SCAT (R231). -/
def execScat (core : Nat) (i : TInstr) (s : State) : Host.Outcome State Fault Refusal :=
  .next (s.event (doScat core i))

/-- RED (R230). -/
def execRed (core : Nat) (i : TInstr) (s : State) : Host.Outcome State Fault Refusal :=
  .next (s.event (doRed core i))

/-- MOVE (R229). -/
def execMove (core : Nat) (i : TInstr) (s : State) : Host.Outcome State Fault Refusal :=
  .next (s.event (doMove core i))

/-- BCMP (R214). -/
def execBcmp (core : Nat) (i : TInstr) (s : State) : Host.Outcome State Fault Refusal :=
  .next (s.event (doBcmp core i))

/-- TOPK (R230). -/
def execTopk (core : Nat) (i : TInstr) (s : State) : Host.Outcome State Fault Refusal :=
  .next (s.event (doTopk core i))

/-- BAR_SYNC (R232). -/
def execBarSync (core : Nat) (i : TInstr) (s : State) : Host.Outcome State Fault Refusal :=
  .next (s.event (doBarSync core i))

/-- BAR_GATHER (R232). -/
def execBarGather (core : Nat) (i : TInstr) (s : State) : Host.Outcome State Fault Refusal :=
  .next (s.event (doBarGather core i))

/-- BAR_BROADCAST (R232). -/
def execBarBroadcast (core : Nat) (i : TInstr) (s : State) : Host.Outcome State Fault Refusal :=
  .next (s.event (doBarBroadcast core i))

/-- BAR_TIMEOUT (R235). -/
def execBarTimeout (core : Nat) (s : State) : Host.Outcome State Fault Refusal :=
  .next (s.event (doBarTimeout core))

/-- CORE_STOPPED (R331). -/
def execCoreStopped (core : Nat) (s : State) : Host.Outcome State Fault Refusal :=
  .next (s.event (doCoreStopped core))

/-- FRESH_MAP_CLEAR_DONE (R218). -/
def execFreshMapClearDone (core : Nat) (s : State) : Host.Outcome State Fault Refusal :=
  .next (s.event (doFreshMapClearDone core))

/-- CONTEXT_LOADED (R239). -/
def execContextLoaded (part ctx : Nat) (ok : Bool) (s : State) : Host.Outcome State Fault Refusal :=
  .next (s.event (doContextLoaded part ctx ok))

end Sys2Proof.Machine
end

