-- ==== Sys2Proof/Machine/DeviceRows.lean ====
section
/-!
DEFINITION. Collections, checkpoints, compositions, keys, partitions, firmware and errors as commands of the opcode table (20 R681, 21 R725, 22 R743).
-/

namespace Sys2Proof.Machine

open Sys2Proof

/-- VSR_CREATE (R471). -/
def execVsrCreate (u : Sub) (a : VsrCreateArgs) (s : State) : Host.Outcome State Fault Refusal :=
  .next (s.always (fun t => t.arrive u (.vsrCreate a)))

/-- VSR_DROP (R494). -/
def execVsrDrop (u : Sub) (coll : Nat) (s : State) : Host.Outcome State Fault Refusal :=
  .next (s.always (fun t => t.arrive u (.vsrDrop coll)))

/-- VSR_INSERT (R478). -/
def execVsrInsert (u : Sub) (i : VsrItem) (s : State) : Host.Outcome State Fault Refusal :=
  .next (s.always (fun t => t.arrive u (.vsrInsert i)))

/-- VSR_DELETE (R480). -/
def execVsrDelete (u : Sub) (coll item : Nat) (s : State) : Host.Outcome State Fault Refusal :=
  .next (s.always (fun t => t.arrive u (.vsrDelete coll item)))

/-- VSR_QUERY (R483). -/
def execVsrQuery (u : Sub) (q : VsrAsk) (s : State) : Host.Outcome State Fault Refusal :=
  .next (s.always (fun t => t.arrive u (.vsrQuery q)))

/-- VSR_POINT (R493). -/
def execVsrPoint (u : Sub) (coll : Nat) (s : State) : Host.Outcome State Fault Refusal :=
  .next (s.always (fun t => t.arrive u (.vsrPoint coll)))

/-- CKP_WRITE (R501). -/
def execCkpWrite (u : Sub) (a : CkpAsk) (s : State) : Host.Outcome State Fault Refusal :=
  .next (s.always (fun t => t.arrive u (.ckpWrite a)))

/-- CKP_RESTORE (R520). -/
def execCkpRestore (u : Sub) (a : CkpRestoreAsk) (s : State) : Host.Outcome State Fault Refusal :=
  .next (s.always (fun t => t.arrive u (.ckpRestore a)))

/-- CKP_RELEASE (R518). -/
def execCkpRelease (u : Sub) (series ckpStep : Nat) (s : State) : Host.Outcome State Fault Refusal :=
  .next (s.always (fun t => t.arrive u (.ckpRelease series ckpStep)))

/-- CMP_INSTALL (R596). -/
def execCmpInstall (u : Sub) (m : CMap) (s : State) : Host.Outcome State Fault Refusal :=
  .next (s.always (fun t => t.arrive u (.cmpInstall m)))

/-- CMP_REMOVE (R596). -/
def execCmpRemove (u : Sub) (comp : Nat) (s : State) : Host.Outcome State Fault Refusal :=
  .next (s.always (fun t => t.arrive u (.cmpRemove comp)))

/-- PEER_ADD (R588). -/
def execPeerAdd (u : Sub) (fabric parts : Nat) (s : State) : Host.Outcome State Fault Refusal :=
  .next (s.always (fun t => t.arrive u (.peerAdd fabric parts)))

/-- CTX_RELOAD (R359). -/
def execCtxReload (u : Sub) (ctx : Nat) (s : State) : Host.Outcome State Fault Refusal :=
  .next (s.always (fun t => t.arrive u (.ctxReload ctx)))

/-- KEY_QUOTE (R643). -/
def execKeyQuote (u : Sub) (slot nonce : Nat) (s : State) : Host.Outcome State Fault Refusal :=
  .next (s.always (fun t => t.arrive u (.keyQuote slot nonce)))

/-- KEY_IMPORT (R645). -/
def execKeyImport (u : Sub) (slot : Nat) (b : Blob) (s : State) : Host.Outcome State Fault Refusal :=
  .next (s.always (fun t => t.arrive u (.keyImport slot b)))

/-- BND_REPORT_GET (R468). -/
def execBndReportGet (u : Sub) (number bytes : Nat) (s : State) : Host.Outcome State Fault Refusal :=
  .next (s.always (fun t => t.arrive u (.bndReportGet number bytes)))

/-- PART_RESET (R331). -/
def execPartReset (u : Sub) (s : State) : Host.Outcome State Fault Refusal :=
  .next (s.always (fun t => t.arrive u .partReset))

/-- PART_REMOVE (R663). -/
def execPartRemove (u : Sub) (r : ChangeRec) (s : State) : Host.Outcome State Fault Refusal :=
  .next (s.always (fun t => t.arrive u (.partRemove r)))

/-- SEC_CHANGE (R653). -/
def execSecChange (u : Sub) (r : ChangeRec) (s : State) : Host.Outcome State Fault Refusal :=
  .next (s.always (fun t => t.arrive u (.secChange r)))

/-- WGT_SUPPLY (R704). -/
def execWgtSupply (u : Sub) (ctx first : Nat) (blocks : List (List Byte)) (s : State) : Host.Outcome State Fault Refusal :=
  .next (s.always (fun t => t.arrive u (.wgtSupply ctx first blocks)))

/-- FW_STAGE (R725). -/
def execFwStage (u : Sub) (off : Nat) (data : List Byte) (s : State) : Host.Outcome State Fault Refusal :=
  .next (s.flashing (fun t => t.arrive u (.fwStage off data)))

/-- FW_CHECK (R721). -/
def execFwCheck (u : Sub) (green : FwSlot) (s : State) : Host.Outcome State Fault Refusal :=
  .next (s.always (fun t => t.arrive u (.fwCheck green)))

/-- CFG_WRITE (R725). -/
def execCfgWrite (u : Sub) (copyB : Bool) (off : Nat) (data : List Byte) (s : State) : Host.Outcome State Fault Refusal :=
  .next (s.flashing (fun t => t.arrive u (.cfgWrite copyB off data)))

/-- LEDGER_READ (R725). -/
def execLedgerRead (u : Sub) (start bytes : Nat) (s : State) : Host.Outcome State Fault Refusal :=
  .next (s.always (fun t => t.arrive u (.ledgerRead start bytes)))

/-- DEV_RESTART (R725). -/
def execDevRestart (u : Sub) (s : State) : Host.Outcome State Fault Refusal :=
  .next (s.always (fun t => t.arrive u .devRestart))

/-- ERR_READ (R743). -/
def execErrRead (u : Sub) (seq : Nat) (device : Bool) (bytes : Nat) (s : State) : Host.Outcome State Fault Refusal :=
  .next (s.always (fun t => t.arrive u (.errRead seq device bytes)))

end Sys2Proof.Machine
end

