-- ==== Sys2Proof/Machine/EngineRows.lean ====
section
/-!
DEFINITION. Steps of the attention, request, bond, quarry, memory, search and checkpoint engines as commands of the opcode table (04, 05, 07 to 15).
-/

namespace Sys2Proof.Machine

open Sys2Proof

/-- ATT_BATCH_WINDOW_EXPIRY (R147). -/
def execAttBatchWindowExpiry (batch : Nat) (s : State) : Host.Outcome State Fault Refusal :=
  .next (s.event (doAttBatchWindowExpiry batch))

/-- TILE_AVAILABLE (R138). -/
def execTileAvailable (slot : Nat) (s : State) : Host.Outcome State Fault Refusal :=
  .next (s.event (doTileAvailable slot))

/-- PROMOTION (R386). -/
def execPromotion (slot entry : Nat) (s : State) : Host.Outcome State Fault Refusal :=
  .next (s.event (doPromotion slot entry))

/-- TOKENISATION_DONE (R260). -/
def execTokenisationDone (slot : Nat) (s : State) : Host.Outcome State Fault Refusal :=
  .next (s.event (doTokenisationDone slot))

/-- MASK_READY (R297). -/
def execMaskReady (slot : Nat) (s : State) : Host.Outcome State Fault Refusal :=
  .next (s.event (doMaskReady slot))

/-- EMIT_HOLD_POLL (R274). -/
def execEmitHoldPoll (slot tail : Nat) (s : State) : Host.Outcome State Fault Refusal :=
  .next (s.event (doEmitHoldPoll slot tail))

/-- END_RECORD_POLL (R804). -/
def execEndRecordPoll (slot tail : Nat) (s : State) : Host.Outcome State Fault Refusal :=
  .next (s.event (doEndRecordPoll slot tail))

/-- DEADLINE_NOTICE (R349). -/
def execDeadlineNotice (slot budget remain : Nat) (s : State) : Host.Outcome State Fault Refusal :=
  .next (s.event (doDeadlineNotice slot budget remain))

/-- DEADLINE_SWITCH (R349). -/
def execDeadlineSwitch (slot budget : Nat) (s : State) : Host.Outcome State Fault Refusal :=
  .next (s.event (doDeadlineSwitch slot budget))

/-- DEADLINE_FAIL (R355). -/
def execDeadlineFail (slot budget : Nat) (s : State) : Host.Outcome State Fault Refusal :=
  .next (s.event (doDeadlineFail slot budget))

/-- FALLBACK_PREFILL_DONE (R352). -/
def execFallbackPrefillDone (slot : Nat) (tiles : List PushedTile) (s : State) : Host.Outcome State Fault Refusal :=
  .next (s.event (doFallbackPrefillDone slot tiles))

/-- DRESSING_DONE (R182). -/
def execDressingDone (slot : Nat) (s : State) : Host.Outcome State Fault Refusal :=
  .next (s.event (doDressingDone slot))

/-- TOKEN_LOG_PERSIST (R68). -/
def execTokenLogPersist (slot : Nat) (s : State) : Host.Outcome State Fault Refusal :=
  .next (s.event (doTokenLogPersist slot))

/-- BOND_OPEN_GRANTED (R457). -/
def execBondOpenGranted (slot : Nat) (s : State) : Host.Outcome State Fault Refusal :=
  .next (s.event (doBondOpenGranted slot))

/-- BOND_STAGED (R445). -/
def execBondStaged (part id : Nat) (s : State) : Host.Outcome State Fault Refusal :=
  .next (s.event (doBondStaged part id))

/-- NAND_PROGRAM_DONE (R416). -/
def execNandProgramDone (part id ppa : Nat) (pass : Bool) (s : State) : Host.Outcome State Fault Refusal :=
  .next (s.event (doNandProgramDone part id ppa pass))

/-- NAND_READ_DONE (R408). -/
def execNandReadDone (frame : Nat) (o : ReadOutcome) (s : State) : Host.Outcome State Fault Refusal :=
  .next (s.event (doNandReadDone frame o))

/-- NAND_ERASE_DONE (R427). -/
def execNandEraseDone (block : Nat) (pass : Bool) (s : State) : Host.Outcome State Fault Refusal :=
  .next (s.event (doNandEraseDone block pass))

/-- NAND_STATUS_TIMEOUT (R404). -/
def execNandStatusTimeout (op : NandOp) (part id where_ : Nat) (s : State) : Host.Outcome State Fault Refusal :=
  .next (s.event (doNandStatusTimeout op part id where_))

/-- MAP_CHECKPOINT (R419). -/
def execMapCheckpoint (s : State) : Host.Outcome State Fault Refusal :=
  .next (s.event doMapCheckpoint)

/-- QUARRY_COLLECTION (R425). -/
def execQuarryCollection (lun : Nat) (s : State) : Host.Outcome State Fault Refusal :=
  .next (s.event (doQuarryCollection lun))

/-- QUARRY_FOLDING (R423). -/
def execQuarryFolding (s : State) : Host.Outcome State Fault Refusal :=
  .next (s.event doQuarryFolding)

/-- QUARRY_PATROL (R431). -/
def execQuarryPatrol (frame : Nat) (o : ReadOutcome) (s : State) : Host.Outcome State Fault Refusal :=
  .next (s.event (doQuarryPatrol frame o))

/-- GOVERNOR_DAY_BOUNDARY (R435). -/
def execGovernorDayBoundary (s : State) : Host.Outcome State Fault Refusal :=
  .next (s.event doGovernorDayBoundary)

/-- SCRUB_ZEROED (R394). -/
def execScrubZeroed (mortar : Bool) (frame : Nat) (s : State) : Host.Outcome State Fault Refusal :=
  .next (s.event (doScrubZeroed mortar frame))

/-- LPDDR_PATROL (R395). -/
def execLpddrPatrol (addr bits : Nat) (s : State) : Host.Outcome State Fault Refusal :=
  .next (s.event (doLpddrPatrol addr bits))

/-- SELF_REFRESH_ENTRY (R397). -/
def execSelfRefreshEntry (sub : Nat) (s : State) : Host.Outcome State Fault Refusal :=
  .next (s.event (doSelfRefreshEntry sub))

/-- SCAN_WINDOW_EXPIRY (R488). -/
def execScanWindowExpiry (coll : Nat) (s : State) : Host.Outcome State Fault Refusal :=
  .next (s.event (doScanWindowExpiry coll))

/-- POINTING_BATCH_DONE (R491). -/
def execPointingBatchDone (coll : Nat) (s : State) : Host.Outcome State Fault Refusal :=
  .next (s.event (doPointingBatchDone coll))

/-- CKP_RING_ROOM (R513). -/
def execCkpRingRoom (part series tail : Nat) (s : State) : Host.Outcome State Fault Refusal :=
  .next (s.event (doCkpRingRoom part series tail))

/-- METER_TICK (R606). -/
def execMeterTick (s : State) : Host.Outcome State Fault Refusal :=
  .next (s.event doMeterTick)

/-- MANAGEMENT_MAILBOX_GO (R692). -/
def execManagementMailboxGo (u : Sub) (c : Option HostCmd) (s : State) : Host.Outcome State Fault Refusal :=
  .next (s.flashing (doManagementMailboxGo u c))

/-- XSPI_PAGE_PROGRAM_DONE (R791). -/
def execXspiPageProgramDone (s : State) : Host.Outcome State Fault Refusal :=
  .next (s.always doXspiPageProgramDone)

/-- DUMP_WAIT_LIMIT_EXPIRY (R791). -/
def execDumpWaitLimitExpiry (s : State) : Host.Outcome State Fault Refusal :=
  .next (s.always doDumpWaitLimitExpiry)

end Sys2Proof.Machine
end

