-- ==== Sys2Proof/Machine/LinkRows.lean ====
section
/-!
DEFINITION. Events of the Solvor ports as commands of the opcode table (16, 18).
-/

namespace Sys2Proof.Machine

open Sys2Proof

/-- TRAIN_SIGNAL_DETECTED (R534). -/
def execTrainSignalDetected (port lanes : Nat) (s : State) : Host.Outcome State Fault Refusal :=
  .next (s.event (doTrainSignalDetected port lanes))

/-- TRAIN_EQUALISED (R534). -/
def execTrainEqualised (port txGood rxGood : Nat) (s : State) : Host.Outcome State Fault Refusal :=
  .next (s.event (doTrainEqualised port txGood rxGood))

/-- TRAIN_GROUP_LOCK (R534). -/
def execTrainGroupLock (port : Nat) (s : State) : Host.Outcome State Fault Refusal :=
  .next (s.event (doTrainGroupLock port))

/-- TRAIN_TIMEOUT (R535). -/
def execTrainTimeout (port : Nat) (s : State) : Host.Outcome State Fault Refusal :=
  .next (s.event (doTrainTimeout port))

/-- RETRAIN_TIMER (R535). -/
def execRetrainTimer (port : Nat) (s : State) : Host.Outcome State Fault Refusal :=
  .next (s.event (doRetrainTimer port))

/-- HELLO (R548). -/
def execHello (port gen : Nat) (bufs : List Nat) (retry : Nat) (s : State) : Host.Outcome State Fault Refusal :=
  .next (s.event (doHello port gen bufs retry))

/-- REKEY_READY (R564). -/
def execRekeyReady (port key phase : Nat) (s : State) : Host.Outcome State Fault Refusal :=
  .next (s.event (doRekeyReady port key phase))

/-- REKEY_ASK (R563). -/
def execRekeyAsk (port key : Nat) (s : State) : Host.Outcome State Fault Refusal :=
  .next (s.event (doRekeyAsk port key))

/-- LANE_RETIRE (R548). -/
def execLaneRetire (port lane : Nat) (s : State) : Host.Outcome State Fault Refusal :=
  .next (s.event (doLaneRetire port lane))

/-- LINK_DOWN_WORD (R548). -/
def execLinkDownWord (port reason : Nat) (s : State) : Host.Outcome State Fault Refusal :=
  .next (s.event (doLinkDownWord port reason))

/-- GROUP_ARRIVAL (R553). -/
def execGroupArrival (port : Nat) (g : RxGroup) (s : State) : Host.Outcome State Fault Refusal :=
  .next (s.event (doGroupArrival port g))

/-- GROUP_TRANSMIT (R613). -/
def execGroupTransmit (port now : Nat) (s : State) : Host.Outcome State Fault Refusal :=
  .next (s.event (doGroupTransmit port now))

/-- NAK_RESEND_TIMEOUT (R554). -/
def execNakResendTimeout (port : Nat) (s : State) : Host.Outcome State Fault Refusal :=
  .next (s.event (doNakResendTimeout port))

/-- RETRY_REWIND_TIMEOUT (R555). -/
def execRetryRewindTimeout (port : Nat) (s : State) : Host.Outcome State Fault Refusal :=
  .next (s.event (doRetryRewindTimeout port))

/-- LANE_ERROR_WINDOW (R537). -/
def execLaneErrorWindow (port : Nat) (counts : List Nat) (s : State) : Host.Outcome State Fault Refusal :=
  .next (s.event (doLaneErrorWindow port counts))

/-- LANE_SIGNAL_LOSS (R537). -/
def execLaneSignalLoss (port lane : Nat) (s : State) : Host.Outcome State Fault Refusal :=
  .next (s.event (doLaneSignalLoss port lane))

/-- SPARE_MONITOR_FAIL (R536). -/
def execSpareMonitorFail (port : Nat) (s : State) : Host.Outcome State Fault Refusal :=
  .next (s.event (doSpareMonitorFail port))

/-- RECOVERY_DONE (R538). -/
def execRecoveryDone (port : Nat) (s : State) : Host.Outcome State Fault Refusal :=
  .next (s.event (doRecoveryDone port))

/-- RECOVERY_TIMEOUT (R538). -/
def execRecoveryTimeout (port : Nat) (s : State) : Host.Outcome State Fault Refusal :=
  .next (s.event (doRecoveryTimeout port))

/-- REKEY_MARK_REACHED (R563). -/
def execRekeyMarkReached (port key : Nat) (s : State) : Host.Outcome State Fault Refusal :=
  .next (s.event (doRekeyMarkReached port key))

/-- SHAPER_REFILL (R617). -/
def execShaperRefill (port : Nat) (s : State) : Host.Outcome State Fault Refusal :=
  .next (s.event (doShaperRefill port))

/-- GATE_ENTRY_EXPIRY (R620). -/
def execGateEntryExpiry (port : Nat) (s : State) : Host.Outcome State Fault Refusal :=
  .next (s.event (doGateEntryExpiry port))

/-- PMC_BW_WINDOW_END (R754). -/
def execPmcBwWindowEnd (port : Nat) (s : State) : Host.Outcome State Fault Refusal :=
  .next (s.event (doPmcBwWindowEnd port))

end Sys2Proof.Machine
end

