-- ==== Sys2Proof/Machine/MessageRows.lean ====
section
/-!
DEFINITION. Solvor messages and what times them as commands of the opcode table (17_solvor_messages_and_compositions.md).
-/

namespace Sys2Proof.Machine

open Sys2Proof

/-- QUERY_MESSAGE (R127). -/
def execQueryMessage (h : Option Hdr) (slices : List Slice) (s : State) : Host.Outcome State Fault Refusal :=
  .next (s.event (doQueryMessage h slices))

/-- EXPERT_MESSAGE (R151). -/
def execExpertMessage (h : Hdr) (p : ExpertPkt) (s : State) : Host.Outcome State Fault Refusal :=
  .next (s.event (doExpertMessage h p))

/-- LOGIT_CHUNK (R577). -/
def execLogitChunk (h : Option Hdr) (slot pos first : Nat) (fp32 : Bool) (ls : List Nat) (s : State) : Host.Outcome State Fault Refusal :=
  .next (s.event (doLogitChunk h slot pos first fp32 ls))

/-- TILE_PUSH (R460). -/
def execTilePush (h : Hdr) (t : PushedTile) (s : State) : Host.Outcome State Fault Refusal :=
  .next (s.event (doTilePush h t))

/-- HANDOFF_TIMEOUT (R463). -/
def execHandoffTimeout (slot : Nat) (s : State) : Host.Outcome State Fault Refusal :=
  .next (s.event (doHandoffTimeout slot))

/-- TILE_PULL (R582). -/
def execTilePull (h : Hdr) (layer head column frame : Nat) (s : State) : Host.Outcome State Fault Refusal :=
  .next (s.event (doTilePull h layer head column frame))

/-- PULL_ANSWER (R199). -/
def execPullAnswer (h : Hdr) (status : Status) (t : Option PushedTile) (s : State) : Host.Outcome State Fault Refusal :=
  .next (s.event (doPullAnswer h status t))

/-- PULL_TIMEOUT (R603). -/
def execPullTimeout (tag : Nat) (s : State) : Host.Outcome State Fault Refusal :=
  .next (s.event (doPullTimeout tag))

/-- MOVE_OFFER (R585). -/
def execMoveOffer (h : Hdr) (o : Offer) (s : State) : Host.Outcome State Fault Refusal :=
  .next (s.event (doMoveOffer h o))

/-- MOVE_ANSWER (R202). -/
def execMoveAnswer (h : Hdr) (status : Status) (handle : Word64) (s : State) : Host.Outcome State Fault Refusal :=
  .next (s.event (doMoveAnswer h status handle))

/-- MOVE_CONFIRM (R199). -/
def execMoveConfirm (h : Hdr) (handle : Word64) (s : State) : Host.Outcome State Fault Refusal :=
  .next (s.event (doMoveConfirm h handle))

/-- MOVE_ABORT (R203). -/
def execMoveAbort (h : Hdr) (reason : Status) (s : State) : Host.Outcome State Fault Refusal :=
  .next (s.event (doMoveAbort h reason))

/-- REHANDSHAKE (R591). -/
def execRehandshake (h : Hdr) (type tag : Nat) (s : State) : Host.Outcome State Fault Refusal :=
  .next (s.event (doRehandshake h type tag))

/-- ADMIT_ASK (R588). -/
def execAdmitAsk (h : Hdr) (peerId : Word64) (role parts nonce : Nat) (s : State) : Host.Outcome State Fault Refusal :=
  .next (s.event (doAdmitAsk h peerId role parts nonce))

/-- ADMIT_QUOTE (R588). -/
def execAdmitQuote (h : Hdr) (peerId : Word64) (device : Bool) (q : PeerQuote) (next : Nat) (s : State) : Host.Outcome State Fault Refusal :=
  .next (s.event (doAdmitQuote h peerId device q next))

/-- ADMIT_DONE (R640). -/
def execAdmitDone (h : Hdr) (confirm : Bool) (s : State) : Host.Outcome State Fault Refusal :=
  .next (s.event (doAdmitDone h confirm))

/-- ADMIT_TIMEOUT (R588). -/
def execAdmitTimeout (peer : Nat) (s : State) : Host.Outcome State Fault Refusal :=
  .next (s.event (doAdmitTimeout peer))

/-- LEAVE (R592). -/
def execLeave (h : Hdr) (s : State) : Host.Outcome State Fault Refusal :=
  .next (s.event (doLeave h))

/-- PING (R586). -/
def execPing (h : Hdr) (s : State) : Host.Outcome State Fault Refusal :=
  .next (s.event (doPing h))

/-- PING_RESPONSE (R592). -/
def execPingResponse (h : Hdr) (s : State) : Host.Outcome State Fault Refusal :=
  .next (s.event (doPingResponse h))

/-- PING_TIMER (R592). -/
def execPingTimer (peer : Nat) (s : State) : Host.Outcome State Fault Refusal :=
  .next (s.event (doPingTimer peer))

/-- KEY_REVOKE (R587). -/
def execKeyRevoke (h : Hdr) (part epoch : Nat) (s : State) : Host.Outcome State Fault Refusal :=
  .next (s.event (doKeyRevoke h part epoch))

/-- KEY_REVOKE_RESPONSE (R663). -/
def execKeyRevokeResponse (h : Hdr) (part : Nat) (s : State) : Host.Outcome State Fault Refusal :=
  .next (s.event (doKeyRevokeResponse h part))

/-- REVOKE_TIMEOUT (R663). -/
def execRevokeTimeout (part : Nat) (s : State) : Host.Outcome State Fault Refusal :=
  .next (s.event (doRevokeTimeout part))

end Sys2Proof.Machine
end

