-- ==== Sys2Proof/Machine/SessionRows.lean ====
section
/-!
DEFINITION. Sessions, requests, prefixes and grammars as commands of the opcode table (20_host_interface.md R681).
-/

namespace Sys2Proof.Machine

open Sys2Proof

/-- SES_CREATE (R803). -/
def execSesCreate (u : Sub) (a : SesCreateArgs) (s : State) : Host.Outcome State Fault Refusal :=
  .next (s.always (fun t => t.arrive u (.sesCreate a)))

/-- SES_CLOSE (R61). -/
def execSesClose (u : Sub) (s : State) : Host.Outcome State Fault Refusal :=
  .next (s.always (fun t => t.arrive u .sesClose))

/-- SES_QUERY (R72). -/
def execSesQuery (u : Sub) (s : State) : Host.Outcome State Fault Refusal :=
  .next (s.always (fun t => t.arrive u .sesQuery))

/-- SES_SET_HOST_DATA (R801). -/
def execSesSetHostData (u : Sub) (d : BitVec 128) (s : State) : Host.Outcome State Fault Refusal :=
  .next (s.always (fun t => t.arrive u (.sesSetHostData d)))

/-- SES_PARK (R75). -/
def execSesPark (u : Sub) (hints : Option Hints) (s : State) : Host.Outcome State Fault Refusal :=
  .next (s.always (fun t => t.arrive u (.sesPark hints)))

/-- SES_REVIVE (R194). -/
def execSesRevive (u : Sub) (s : State) : Host.Outcome State Fault Refusal :=
  .next (s.always (fun t => t.arrive u .sesRevive))

/-- SES_MOVE (R199). -/
def execSesMove (u : Sub) (peer epoch : Nat) (s : State) : Host.Outcome State Fault Refusal :=
  .next (s.always (fun t => t.arrive u (.sesMove peer epoch)))

/-- REQ_SUBMIT (R805). -/
def execReqSubmit (u : Sub) (a : ReqArgs) (s : State) : Host.Outcome State Fault Refusal :=
  .next (s.always (fun t => t.arrive u (.reqSubmit a)))

/-- REQ_CANCEL (R320). -/
def execReqCancel (u : Sub) (tag : Nat) (s : State) : Host.Outcome State Fault Refusal :=
  .next (s.always (fun t => t.arrive u (.reqCancel tag)))

/-- PFX_REGISTER (R107). -/
def execPfxRegister (u : Sub) (n : Nat) (s : State) : Host.Outcome State Fault Refusal :=
  .next (s.always (fun t => t.arrive u (.pfxRegister n)))

/-- PFX_UNREGISTER (R114). -/
def execPfxUnregister (u : Sub) (id : Nat) (s : State) : Host.Outcome State Fault Refusal :=
  .next (s.always (fun t => t.arrive u (.pfxUnregister id)))

/-- GRM_LOAD (R285). -/
def execGrmLoad (u : Sub) (main : Nat) (img : GrmImage) (s : State) : Host.Outcome State Fault Refusal :=
  .next (s.always (fun t => t.arrive u (.grmLoad main img)))

/-- GRM_UNLOAD (R287). -/
def execGrmUnload (u : Sub) (id : Nat) (s : State) : Host.Outcome State Fault Refusal :=
  .next (s.always (fun t => t.arrive u (.grmUnload id)))

end Sys2Proof.Machine
end

