-- ==== Sys2Proof/Machine/StartRows.lean ====
section
/-!
DEFINITION. The start steps as commands of the opcode table (21_start_configuration_firmware.md R712).
-/

namespace Sys2Proof.Machine

open Sys2Proof

/-- S00_ALWAYS_ON (R712). -/
def execS00AlwaysOn (s : State) : Host.Outcome State Fault Refusal :=
  .next (s.always doS00AlwaysOn)

/-- S01_KEYSTONE_SELFTEST (R712). -/
def execS01KeystoneSelftest (pass : Bool) (f : Fuses) (cool : Bool) (s : State) : Host.Outcome State Fault Refusal :=
  .next (s.always (doS01KeystoneSelftest pass f cool))

/-- S02_FIRMWARE_VERIFY (R721). -/
def execS02FirmwareVerify (green fired : FwSlot) (s : State) : Host.Outcome State Fault Refusal :=
  .next (s.flashing (doS02FirmwareVerify green fired))

/-- S03_IMAGE_READ (R712). -/
def execS03ImageRead (a b : Option ConfigImage) (s : State) : Host.Outcome State Fault Refusal :=
  .next (s.always (doS03ImageRead a b))

/-- S04_APPLY_CONFIG (R709). -/
def execS04ApplyConfig (s : State) : Host.Outcome State Fault Refusal :=
  .next (s.always doS04ApplyConfig)

/-- S05_PCIE_UP (R671). -/
def execS05PcieUp (width0 gen0 width1 gen1 : Nat) (s : State) : Host.Outcome State Fault Refusal :=
  .next (s.always (doS05PcieUp width0 gen0 width1 gen1))

/-- S06_PLL_LOCK (R712). -/
def execS06PllLock (failed : Option PllFail) (s : State) : Host.Outcome State Fault Refusal :=
  .next (s.always (doS06PllLock failed))

/-- S07_MEMORY_TRAIN (R369). -/
def execS07MemoryTrain (pass : Bool) (s : State) : Host.Outcome State Fault Refusal :=
  .next (s.always (doS07MemoryTrain pass))

/-- S08_CORE_ASSIGN (R28). -/
def execS08CoreAssign (tests : List (Nat × CoreTest)) (s : State) : Host.Outcome State Fault Refusal :=
  .next (s.always (doS08CoreAssign tests))

/-- S09_FIRMWARE_LOAD (R724). -/
def execS09FirmwareLoad (failed : Option Nat) (s : State) : Host.Outcome State Fault Refusal :=
  .next (s.always (doS09FirmwareLoad failed))

/-- S10_QUARRY_MOUNT (R420). -/
def execS10QuarryMount (m : MountFind) (s : State) : Host.Outcome State Fault Refusal :=
  .next (s.always (doS10QuarryMount m))

/-- S11_DIRECTORY_RECOVERY (R716). -/
def execS11DirectoryRecovery (readable : Bool) (s : State) : Host.Outcome State Fault Refusal :=
  .next (s.always (doS11DirectoryRecovery readable))

/-- S12_LINK_TRAIN (R534). -/
def execS12LinkTrain (s : State) : Host.Outcome State Fault Refusal :=
  .next (s.always doS12LinkTrain)

/-- S13_AK_CERTIFICATE (R637). -/
def execS13AkCertificate (ok : Bool) (s : State) : Host.Outcome State Fault Refusal :=
  .next (s.always (doS13AkCertificate ok))

/-- S14_PARTITION_START (R712). -/
def execS14PartitionStart (s : State) : Host.Outcome State Fault Refusal :=
  .next (s.always doS14PartitionStart)

/-- S15_READY (R712). -/
def execS15Ready (s : State) : Host.Outcome State Fault Refusal :=
  .next (s.flashing doS15Ready)

end Sys2Proof.Machine
end

