-- ==== Sys2Proof/Machine/Dispatch.lean ====
section
/-!
DEFINITION. One arm for each command of the opcode table.
-/

namespace Sys2Proof.Machine

open Sys2Proof

def exec (i : Instr) (s : State) : Host.Outcome State Fault Refusal :=
  match i with
  | .sesCreate u a => Sys2Proof.Machine.execSesCreate u a s
  | .sesClose u => Sys2Proof.Machine.execSesClose u s
  | .sesQuery u => Sys2Proof.Machine.execSesQuery u s
  | .sesSetHostData u d => Sys2Proof.Machine.execSesSetHostData u d s
  | .sesPark u hints => Sys2Proof.Machine.execSesPark u hints s
  | .sesRevive u => Sys2Proof.Machine.execSesRevive u s
  | .sesMove u peer epoch => Sys2Proof.Machine.execSesMove u peer epoch s
  | .reqSubmit u a => Sys2Proof.Machine.execReqSubmit u a s
  | .reqCancel u tag => Sys2Proof.Machine.execReqCancel u tag s
  | .pfxRegister u n => Sys2Proof.Machine.execPfxRegister u n s
  | .pfxUnregister u id => Sys2Proof.Machine.execPfxUnregister u id s
  | .grmLoad u main img => Sys2Proof.Machine.execGrmLoad u main img s
  | .grmUnload u id => Sys2Proof.Machine.execGrmUnload u id s
  | .vsrCreate u a => Sys2Proof.Machine.execVsrCreate u a s
  | .vsrDrop u coll => Sys2Proof.Machine.execVsrDrop u coll s
  | .vsrInsert u i0 => Sys2Proof.Machine.execVsrInsert u i0 s
  | .vsrDelete u coll item => Sys2Proof.Machine.execVsrDelete u coll item s
  | .vsrQuery u q => Sys2Proof.Machine.execVsrQuery u q s
  | .vsrPoint u coll => Sys2Proof.Machine.execVsrPoint u coll s
  | .ckpWrite u a => Sys2Proof.Machine.execCkpWrite u a s
  | .ckpRestore u a => Sys2Proof.Machine.execCkpRestore u a s
  | .ckpRelease u series ckpStep => Sys2Proof.Machine.execCkpRelease u series ckpStep s
  | .cmpInstall u m => Sys2Proof.Machine.execCmpInstall u m s
  | .cmpRemove u comp => Sys2Proof.Machine.execCmpRemove u comp s
  | .peerAdd u fabric parts => Sys2Proof.Machine.execPeerAdd u fabric parts s
  | .ctxReload u ctx => Sys2Proof.Machine.execCtxReload u ctx s
  | .keyQuote u slot nonce => Sys2Proof.Machine.execKeyQuote u slot nonce s
  | .keyImport u slot b => Sys2Proof.Machine.execKeyImport u slot b s
  | .bndReportGet u number bytes => Sys2Proof.Machine.execBndReportGet u number bytes s
  | .partReset u => Sys2Proof.Machine.execPartReset u s
  | .partRemove u r => Sys2Proof.Machine.execPartRemove u r s
  | .secChange u r => Sys2Proof.Machine.execSecChange u r s
  | .wgtSupply u ctx first blocks => Sys2Proof.Machine.execWgtSupply u ctx first blocks s
  | .fwStage u off data => Sys2Proof.Machine.execFwStage u off data s
  | .fwCheck u green => Sys2Proof.Machine.execFwCheck u green s
  | .cfgWrite u copyB off data => Sys2Proof.Machine.execCfgWrite u copyB off data s
  | .ledgerRead u start bytes => Sys2Proof.Machine.execLedgerRead u start bytes s
  | .devRestart u => Sys2Proof.Machine.execDevRestart u s
  | .errRead u seq device bytes => Sys2Proof.Machine.execErrRead u seq device bytes s
  | .sqTailDoorbell fn q value unknown => Sys2Proof.Machine.execSqTailDoorbell fn q value unknown s
  | .cqHeadDoorbell fn q value => Sys2Proof.Machine.execCqHeadDoorbell fn q value s
  | .sqEnable fn q value => Sys2Proof.Machine.execSqEnable fn q value s
  | .cqEnable fn q value => Sys2Proof.Machine.execCqEnable fn q value s
  | .lnkRekeyGo fn port key => Sys2Proof.Machine.execLnkRekeyGo fn port key s
  | .egrSwitch fn port => Sys2Proof.Machine.execEgrSwitch fn port s
  | .clearAlt fn => Sys2Proof.Machine.execClearAlt fn s
  | .registerWrite fn addr width value => Sys2Proof.Machine.execRegisterWrite fn addr width value s
  | .interruptCoalesceExpiry fn q => Sys2Proof.Machine.execInterruptCoalesceExpiry fn q s
  | .hostDmaError fn sq tag => Sys2Proof.Machine.execHostDmaError fn sq tag s
  | .doeDiscovery fn known => Sys2Proof.Machine.execDoeDiscovery fn known s
  | .doeHostReport fn nonce => Sys2Proof.Machine.execDoeHostReport fn nonce s
  | .bbAsk fn nonce => Sys2Proof.Machine.execBbAsk fn nonce s
  | .bbConfirm fn tagOk => Sys2Proof.Machine.execBbConfirm fn tagOk s
  | .functionReset fn => Sys2Proof.Machine.execFunctionReset fn s
  | .perstAsserted ctrl => Sys2Proof.Machine.execPerstAsserted ctrl s
  | .perstReleased ctrl => Sys2Proof.Machine.execPerstReleased ctrl s
  | .mctpPldmRequest r => Sys2Proof.Machine.execMctpPldmRequest r s
  | .jtagInstruction i0 => Sys2Proof.Machine.execJtagInstruction i0 s
  | .pwrGoodRise straps => Sys2Proof.Machine.execPwrGoodRise straps s
  | .pwrGoodFall => Sys2Proof.Machine.execPwrGoodFall s
  | .sysResetAsserted => Sys2Proof.Machine.execSysResetAsserted s
  | .sysResetReleased => Sys2Proof.Machine.execSysResetReleased s
  | .alarmInAsserted pin => Sys2Proof.Machine.execAlarmInAsserted pin s
  | .alarmInReleased pin => Sys2Proof.Machine.execAlarmInReleased pin s
  | .alarmSourceDetected source present => Sys2Proof.Machine.execAlarmSourceDetected source present s
  | .thermalStepDown course => Sys2Proof.Machine.execThermalStepDown course s
  | .thermalStepUp course => Sys2Proof.Machine.execThermalStepUp course s
  | .powerStepDown course => Sys2Proof.Machine.execPowerStepDown course s
  | .powerStepUp course => Sys2Proof.Machine.execPowerStepUp course s
  | .courseStepDone course => Sys2Proof.Machine.execCourseStepDone course s
  | .thermalTrip => Sys2Proof.Machine.execThermalTrip s
  | .hardwareFault f => Sys2Proof.Machine.execHardwareFault f s
  | .freezeDumpDone programmed => Sys2Proof.Machine.execFreezeDumpDone programmed s
  | .s00AlwaysOn => Sys2Proof.Machine.execS00AlwaysOn s
  | .s01KeystoneSelftest pass f cool => Sys2Proof.Machine.execS01KeystoneSelftest pass f cool s
  | .s02FirmwareVerify green fired => Sys2Proof.Machine.execS02FirmwareVerify green fired s
  | .s03ImageRead a b => Sys2Proof.Machine.execS03ImageRead a b s
  | .s04ApplyConfig => Sys2Proof.Machine.execS04ApplyConfig s
  | .s05PcieUp width0 gen0 width1 gen1 => Sys2Proof.Machine.execS05PcieUp width0 gen0 width1 gen1 s
  | .s06PllLock failed => Sys2Proof.Machine.execS06PllLock failed s
  | .s07MemoryTrain pass => Sys2Proof.Machine.execS07MemoryTrain pass s
  | .s08CoreAssign tests => Sys2Proof.Machine.execS08CoreAssign tests s
  | .s09FirmwareLoad failed => Sys2Proof.Machine.execS09FirmwareLoad failed s
  | .s10QuarryMount m => Sys2Proof.Machine.execS10QuarryMount m s
  | .s11DirectoryRecovery readable => Sys2Proof.Machine.execS11DirectoryRecovery readable s
  | .s12LinkTrain => Sys2Proof.Machine.execS12LinkTrain s
  | .s13AkCertificate ok => Sys2Proof.Machine.execS13AkCertificate ok s
  | .s14PartitionStart => Sys2Proof.Machine.execS14PartitionStart s
  | .s15Ready => Sys2Proof.Machine.execS15Ready s
  | .trainSignalDetected port lanes => Sys2Proof.Machine.execTrainSignalDetected port lanes s
  | .trainEqualised port txGood rxGood => Sys2Proof.Machine.execTrainEqualised port txGood rxGood s
  | .trainGroupLock port => Sys2Proof.Machine.execTrainGroupLock port s
  | .trainTimeout port => Sys2Proof.Machine.execTrainTimeout port s
  | .retrainTimer port => Sys2Proof.Machine.execRetrainTimer port s
  | .hello port gen bufs retry => Sys2Proof.Machine.execHello port gen bufs retry s
  | .rekeyReady port key phase => Sys2Proof.Machine.execRekeyReady port key phase s
  | .rekeyAsk port key => Sys2Proof.Machine.execRekeyAsk port key s
  | .laneRetire port lane => Sys2Proof.Machine.execLaneRetire port lane s
  | .linkDownWord port reason => Sys2Proof.Machine.execLinkDownWord port reason s
  | .groupArrival port g => Sys2Proof.Machine.execGroupArrival port g s
  | .groupTransmit port now => Sys2Proof.Machine.execGroupTransmit port now s
  | .nakResendTimeout port => Sys2Proof.Machine.execNakResendTimeout port s
  | .retryRewindTimeout port => Sys2Proof.Machine.execRetryRewindTimeout port s
  | .laneErrorWindow port counts => Sys2Proof.Machine.execLaneErrorWindow port counts s
  | .laneSignalLoss port lane => Sys2Proof.Machine.execLaneSignalLoss port lane s
  | .spareMonitorFail port => Sys2Proof.Machine.execSpareMonitorFail port s
  | .recoveryDone port => Sys2Proof.Machine.execRecoveryDone port s
  | .recoveryTimeout port => Sys2Proof.Machine.execRecoveryTimeout port s
  | .rekeyMarkReached port key => Sys2Proof.Machine.execRekeyMarkReached port key s
  | .shaperRefill port => Sys2Proof.Machine.execShaperRefill port s
  | .gateEntryExpiry port => Sys2Proof.Machine.execGateEntryExpiry port s
  | .pmcBwWindowEnd port => Sys2Proof.Machine.execPmcBwWindowEnd port s
  | .queryMessage h slices => Sys2Proof.Machine.execQueryMessage h slices s
  | .expertMessage h p => Sys2Proof.Machine.execExpertMessage h p s
  | .logitChunk h slot pos first fp32 ls => Sys2Proof.Machine.execLogitChunk h slot pos first fp32 ls s
  | .tilePush h t => Sys2Proof.Machine.execTilePush h t s
  | .handoffTimeout slot => Sys2Proof.Machine.execHandoffTimeout slot s
  | .tilePull h layer head column frame => Sys2Proof.Machine.execTilePull h layer head column frame s
  | .pullAnswer h status t => Sys2Proof.Machine.execPullAnswer h status t s
  | .pullTimeout tag => Sys2Proof.Machine.execPullTimeout tag s
  | .moveOffer h o => Sys2Proof.Machine.execMoveOffer h o s
  | .moveAnswer h status handle => Sys2Proof.Machine.execMoveAnswer h status handle s
  | .moveConfirm h handle => Sys2Proof.Machine.execMoveConfirm h handle s
  | .moveAbort h reason => Sys2Proof.Machine.execMoveAbort h reason s
  | .rehandshake h type tag => Sys2Proof.Machine.execRehandshake h type tag s
  | .admitAsk h peerId role parts nonce => Sys2Proof.Machine.execAdmitAsk h peerId role parts nonce s
  | .admitQuote h peerId device q next => Sys2Proof.Machine.execAdmitQuote h peerId device q next s
  | .admitDone h confirm => Sys2Proof.Machine.execAdmitDone h confirm s
  | .admitTimeout peer => Sys2Proof.Machine.execAdmitTimeout peer s
  | .leave h => Sys2Proof.Machine.execLeave h s
  | .ping h => Sys2Proof.Machine.execPing h s
  | .pingResponse h => Sys2Proof.Machine.execPingResponse h s
  | .pingTimer peer => Sys2Proof.Machine.execPingTimer peer s
  | .keyRevoke h part epoch => Sys2Proof.Machine.execKeyRevoke h part epoch s
  | .keyRevokeResponse h part => Sys2Proof.Machine.execKeyRevokeResponse h part s
  | .revokeTimeout part => Sys2Proof.Machine.execRevokeTimeout part s
  | .dispatch core d => Sys2Proof.Machine.execDispatch core d s
  | .sliceEnd core => Sys2Proof.Machine.execSliceEnd core s
  | .mmul core i0 => Sys2Proof.Machine.execMmul core i0 s
  | .smaxPartial core i0 => Sys2Proof.Machine.execSmaxPartial core i0 s
  | .smaxNormalise core i0 => Sys2Proof.Machine.execSmaxNormalise core i0 s
  | .smaxCombine core i0 => Sys2Proof.Machine.execSmaxCombine core i0 s
  | .rot core i0 => Sys2Proof.Machine.execRot core i0 s
  | .qnt core i0 => Sys2Proof.Machine.execQnt core i0 s
  | .dqnt core i0 => Sys2Proof.Machine.execDqnt core i0 s
  | .gath core i0 => Sys2Proof.Machine.execGath core i0 s
  | .scat core i0 => Sys2Proof.Machine.execScat core i0 s
  | .red core i0 => Sys2Proof.Machine.execRed core i0 s
  | .move core i0 => Sys2Proof.Machine.execMove core i0 s
  | .bcmp core i0 => Sys2Proof.Machine.execBcmp core i0 s
  | .topk core i0 => Sys2Proof.Machine.execTopk core i0 s
  | .barSync core i0 => Sys2Proof.Machine.execBarSync core i0 s
  | .barGather core i0 => Sys2Proof.Machine.execBarGather core i0 s
  | .barBroadcast core i0 => Sys2Proof.Machine.execBarBroadcast core i0 s
  | .barTimeout core => Sys2Proof.Machine.execBarTimeout core s
  | .coreStopped core => Sys2Proof.Machine.execCoreStopped core s
  | .freshMapClearDone core => Sys2Proof.Machine.execFreshMapClearDone core s
  | .contextLoaded part ctx ok => Sys2Proof.Machine.execContextLoaded part ctx ok s
  | .attBatchWindowExpiry batch => Sys2Proof.Machine.execAttBatchWindowExpiry batch s
  | .tileAvailable slot => Sys2Proof.Machine.execTileAvailable slot s
  | .promotion slot entry => Sys2Proof.Machine.execPromotion slot entry s
  | .tokenisationDone slot => Sys2Proof.Machine.execTokenisationDone slot s
  | .maskReady slot => Sys2Proof.Machine.execMaskReady slot s
  | .emitHoldPoll slot tail => Sys2Proof.Machine.execEmitHoldPoll slot tail s
  | .endRecordPoll slot tail => Sys2Proof.Machine.execEndRecordPoll slot tail s
  | .deadlineNotice slot budget remain => Sys2Proof.Machine.execDeadlineNotice slot budget remain s
  | .deadlineSwitch slot budget => Sys2Proof.Machine.execDeadlineSwitch slot budget s
  | .deadlineFail slot budget => Sys2Proof.Machine.execDeadlineFail slot budget s
  | .fallbackPrefillDone slot tiles => Sys2Proof.Machine.execFallbackPrefillDone slot tiles s
  | .dressingDone slot => Sys2Proof.Machine.execDressingDone slot s
  | .tokenLogPersist slot => Sys2Proof.Machine.execTokenLogPersist slot s
  | .bondOpenGranted slot => Sys2Proof.Machine.execBondOpenGranted slot s
  | .bondStaged part id => Sys2Proof.Machine.execBondStaged part id s
  | .nandProgramDone part id ppa pass => Sys2Proof.Machine.execNandProgramDone part id ppa pass s
  | .nandReadDone frame o => Sys2Proof.Machine.execNandReadDone frame o s
  | .nandEraseDone block pass => Sys2Proof.Machine.execNandEraseDone block pass s
  | .nandStatusTimeout op part id where_ => Sys2Proof.Machine.execNandStatusTimeout op part id where_ s
  | .mapCheckpoint => Sys2Proof.Machine.execMapCheckpoint s
  | .quarryCollection lun => Sys2Proof.Machine.execQuarryCollection lun s
  | .quarryFolding => Sys2Proof.Machine.execQuarryFolding s
  | .quarryPatrol frame o => Sys2Proof.Machine.execQuarryPatrol frame o s
  | .governorDayBoundary => Sys2Proof.Machine.execGovernorDayBoundary s
  | .scrubZeroed mortar frame => Sys2Proof.Machine.execScrubZeroed mortar frame s
  | .lpddrPatrol addr bits => Sys2Proof.Machine.execLpddrPatrol addr bits s
  | .selfRefreshEntry sub => Sys2Proof.Machine.execSelfRefreshEntry sub s
  | .scanWindowExpiry coll => Sys2Proof.Machine.execScanWindowExpiry coll s
  | .pointingBatchDone coll => Sys2Proof.Machine.execPointingBatchDone coll s
  | .ckpRingRoom part series tail => Sys2Proof.Machine.execCkpRingRoom part series tail s
  | .meterTick => Sys2Proof.Machine.execMeterTick s
  | .managementMailboxGo u c => Sys2Proof.Machine.execManagementMailboxGo u c s
  | .xspiPageProgramDone => Sys2Proof.Machine.execXspiPageProgramDone s
  | .dumpWaitLimitExpiry => Sys2Proof.Machine.execDumpWaitLimitExpiry s

end Sys2Proof.Machine
end

