-- ==== Sys2Proof/Safety.lean ====
section
/-!
DEFINITION. What a safe step is, and the conditions and frames in whose terms the statements speak.
-/

namespace Sys2Proof.Machine

open Sys2Proof

/-- A step that neither faults nor is refused. -/
def Safe (s : State) : Prop := ∃ t, step s = .next t

-- Frames ---------------------------------------------------------------------------------------------------------------------------

/-- `t` is `s` but for what posting a completion to a queue, writing to a host buffer and counting an event change: further
outputs (the newest come first), performance counters, queues, bounce counters and the list of commands without a completion. -/
def State.Io (s t : State) : Prop :=
  ∃ l m a b d e, t = { s with out := l ++ s.out, pmc := m, sqs := a, cqs := b, bounce := d, arrived := e }

/-- Between `s` and `t` the device has written `o`. -/
def State.Writes (s t : State) (o : Out) : Prop := ∃ l, t.out = l ++ s.out ∧ o ∈ l

/-- Between `s` and `t` the command of a submission has completed (R683): its completion entry stands in a completion queue. -/
def State.Posts (s t : State) (u : Sub) (st : Status) (result report : Nat) : Prop :=
  ∃ q h m, s.Writes t (.cqe u.fn q (u.answer st (BitVec.ofNat 128 result) report) h m)

/-- The completion of a command that outlived its submission, without a report. -/
def Owner.answer (o : Owner) (st : Status) (result : Nat) : Completion :=
  { fn := o.fn, sq := o.sq, tag := o.tag, status := st, result := BitVec.ofNat 128 result, report := 0, notice := false }

/-- A completion queue of a submission queue that takes a completion at once: both stand, it is enabled and has room. -/
def State.Open (s : State) (f : Fn) (q : Nat) : Prop :=
  ∃ y x, s.sq f q = some y ∧ s.cq f y.cq = some x ∧ x.on = true ∧ x.held < x.size ∧ x.waiting = []

/-- `t` is `s` but for what recording an error changes: error rings, registers (error counters among them), time and further
outputs (an interrupt message). -/
def State.Rec (s t : State) : Prop := ∃ e a n r l, t = { s with err := e, aon := a, freeCtr := n, regs := r, out := l ++ s.out }

/-- The newest record of the device's error ring is one of its own for the fault (R735, R736): it has the next SEQ and stands for one
fault, in no nesting. -/
def State.Logs (s t : State) (cls : ErrClass) (source : Nat) (part : Option Nat) (location detail : Nat) : Prop :=
  ∃ r, t.err.ring.head? = some r ∧ r.seq = s.err.nextSeq ∧ r.cls = cls ∧ r.source = source ∧ r.part = part ∧ r.location = location ∧
    r.detail = detail ∧ r.count = 1 ∧ r.nested = false ∧ r.raised = false ∧ r.depth = 0 ∧ r.parent = 0 ∧ r.stamp = r.stampLast

-- A device with nothing under way that a command's end would set going ----------------------------------------------------------------

/-- No command waits at a session or for its series, no session is being pulled, no composition is being removed or keeps an old map,
no partition is being reset or removed, and no restart is due: nothing follows a command but the command's own effect. -/
structure State.Calm (s : State) : Prop where
  waiting  : ∀ kv ∈ s.sessions, kv.2.waiting = []
  queue    : s.ckp.queue = []
  pulls    : s.movesIn = []
  maps     : ∀ kv ∈ s.comps, kv.2.removing = false ∧ kv.2.old = []
  resets   : s.resets = []
  removals : s.removals = []
  removes  : s.removeWait = []
  restart  : s.boot.restart = none

/-- A calm device, but for partition resets and removals that wait for cores. -/
structure State.Stays (s : State) : Prop where
  calm  : State.Calm { s with resets := [], removals := [] }
  reset : ∀ kv ∈ s.resets, kv.2.order = 6
  gone  : ∀ kv ∈ s.removals, kv.2.order = 1 ∧ kv.2.cores ≠ []

/-- A calm device in which no host command is queued or in progress, and no bond is open. -/
structure State.Idle (s : State) : Prop extends s.Calm where
  reqs     : s.reqs = []
  handoffs : s.handoffs = []
  parks    : s.parks = []
  revives  : s.revives = []
  movesOut : s.movesOut = []
  bonds    : s.bonds = []
  bondWait : s.bondWaits = []
  alloc    : s.allocWait = []
  scans    : s.scans = []
  ckps     : s.ckp.runs = []
  loads    : ∀ kv ∈ s.ctxs, kv.2.asked = [] ∧ kv.2.held = []
  early    : s.waitS15 = []
  late     : s.lateEnds = []

/-- The next entry of a submission queue is a command that runs at once: the queue is enabled, the device fetches from it and is
ready, the tag is not outstanding (R685), no check refuses the command (R53, R681, R802), its function uses no bounce records, and
the completion queue has room (R679). -/
structure State.Takes (s : State) (u : Sub) (c : HostCmd) : Prop where
  queue : ∃ q x y, u.sq = some q ∧ s.sq u.fn q = some x ∧ x.on = true ∧ s.slotsOf u x ≤ x.avail ∧
    x.tags.any (fun t => t.tag == u.tag) = false ∧ s.cq u.fn x.cq = some y ∧ y.on = true ∧ y.held < y.size ∧ y.waiting = []
  fetches : s.fetches u.fn = true
  plain : s.bounceMode u.fn = false
  ready : s.boot.phase = .ready
  passes : s.refusal u c = none

/-- Nothing is in progress at a session: no command, no completion of its request that waits for room, no checkpoint that reads it; and no
command waits there. -/
structure State.Quiet (s : State) (slot : Nat) : Prop where
  waiting : (s.ses slot).waiting = []
  op      : (s.ses slot).op = .none
  ends    : s.endWaits slot = false
  reads   : (s.ses slot).ckpReads = 0

/-- The submission and the host command of a command that is one of R681, R725 or R743. -/
def hostOf (c : Instr) : Option (Sub × HostCmd) :=
  match c with
  | .sesCreate u a => some (u, .sesCreate a)
  | .sesClose u => some (u, .sesClose)
  | .sesQuery u => some (u, .sesQuery)
  | .sesSetHostData u d => some (u, .sesSetHostData d)
  | .sesPark u h => some (u, .sesPark h)
  | .sesRevive u => some (u, .sesRevive)
  | .sesMove u peer epoch => some (u, .sesMove peer epoch)
  | .reqSubmit u a => some (u, .reqSubmit a)
  | .reqCancel u tag => some (u, .reqCancel tag)
  | .pfxRegister u n => some (u, .pfxRegister n)
  | .pfxUnregister u id => some (u, .pfxUnregister id)
  | .grmLoad u main img => some (u, .grmLoad main img)
  | .grmUnload u id => some (u, .grmUnload id)
  | .vsrCreate u a => some (u, .vsrCreate a)
  | .vsrDrop u coll => some (u, .vsrDrop coll)
  | .vsrInsert u i => some (u, .vsrInsert i)
  | .vsrDelete u coll item => some (u, .vsrDelete coll item)
  | .vsrQuery u q => some (u, .vsrQuery q)
  | .vsrPoint u coll => some (u, .vsrPoint coll)
  | .ckpWrite u a => some (u, .ckpWrite a)
  | .ckpRestore u a => some (u, .ckpRestore a)
  | .ckpRelease u series ckpStep => some (u, .ckpRelease series ckpStep)
  | .cmpInstall u m => some (u, .cmpInstall m)
  | .cmpRemove u comp => some (u, .cmpRemove comp)
  | .peerAdd u fabric parts => some (u, .peerAdd fabric parts)
  | .ctxReload u ctx => some (u, .ctxReload ctx)
  | .keyQuote u slot nonce => some (u, .keyQuote slot nonce)
  | .keyImport u slot b => some (u, .keyImport slot b)
  | .bndReportGet u number bytes => some (u, .bndReportGet number bytes)
  | .partReset u => some (u, .partReset)
  | .partRemove u r => some (u, .partRemove r)
  | .secChange u r => some (u, .secChange r)
  | .wgtSupply u ctx first blocks => some (u, .wgtSupply ctx first blocks)
  | .fwStage u off data => some (u, .fwStage off data)
  | .fwCheck u green => some (u, .fwCheck green)
  | .cfgWrite u copyB off data => some (u, .cfgWrite copyB off data)
  | .ledgerRead u start bytes => some (u, .ledgerRead start bytes)
  | .devRestart u => some (u, .devRestart)
  | .errRead u seq device bytes => some (u, .errRead seq device bytes)
  | _ => none

/-- The next entry of a submission queue: the queue is enabled, the device fetches from it, its function uses no bounce records, and its
completion queue has room (R678, R679). -/
structure State.Holds (s : State) (u : Sub) (q : Nat) (x : Sq) : Prop where
  sub : u.sq = some q
  queue : s.sq u.fn q = some x
  on : x.on = true
  room : s.slotsOf u x ≤ x.avail
  fetches : s.fetches u.fn = true
  plain : s.bounceMode u.fn = false
  opens : s.Open u.fn q

/-- Nothing stops a partition's commands: it is in no reset, removal or freeze (R331, R658, R663, R729). -/
structure State.Serves (s : State) (p : Nat) : Prop where
  configured : s.configured p = true
  removal : s.removals.has p = false
  removed : p ∉ s.sec.removed
  reset : s.resets.has p = false
  frozen : s.sec.frozen = false
  fatal : p ∉ s.err.fatal

-- Flash -------------------------------------------------------------------------------------------------------------------------------

/-- The bytes of flash that a host command may write (R698, R725): the green slot, or a copy of the configuration image. -/
def HostCmd.flashArea (c : HostCmd) (a : Nat) : Prop :=
  match c with
  | .fwStage _ _ => greenBase ≤ a ∧ a < greenBase + slotBytes
  | .cfgWrite copyB _ _ => copyBase + (if copyB then copyBytes else 0) ≤ a ∧ a < copyBase + (if copyB then copyBytes else 0) + copyBytes
  | _ => False

/-- The bytes of flash that a command may write in a state (R698): S02 copies the green slot to the fired slot, S15 starts the commands that waited
for it, and a recovery endpoint takes FW_STAGE over MCTP (R721). -/
def flashArea (s : State) (i : Instr) (a : Nat) : Prop :=
  match i with
  | .s02FirmwareVerify _ _ => firedBase ≤ a ∧ a < greenBase + slotBytes
  | .s15Ready => ∃ w ∈ s.waitS15, w.2.flashArea a
  | .mctpPldmRequest (.fwStage _ _) => greenBase ≤ a ∧ a < greenBase + slotBytes
  | .managementMailboxGo _ (some c) => c.flashArea a
  | i => ∃ u c, hostOf i = some (u, c) ∧ c.flashArea a

/-- The flash has its canonical form, and every byte that is not erased lies inside the areas of R698. -/
structure State.FlashOk (s : State) : Prop where
  wf : Memory.wf 0xFF s.flash = true
  size : ∀ c ∈ s.flash, c.1 < 0x19000000

-- Messages ----------------------------------------------------------------------------------------------------------------------------

/-- A delivered message for this device, well formed, of an admitted peer whose role sends its type, and for a partition that the peer is
admitted for (R533, R568, R571 to R573, R591). `size`: the bytes that its payload takes. -/
structure State.Hears (s : State) (h : Hdr) (type : Nat) (resp : Bool) (size : Option Nat) (i : Nat) (p : Peer) : Prop where
  port  : s.carries h = true
  dst   : h.dst = s.fld Fld.CMP_SELF_FABRIC
  good  : h.malformed type resp (s.linkKey h.port) size = false
  src   : s.peerOfSrc h.src = some (i, p)
  entry : s.peers.get? i = some p
  role  : roleSends type resp p.device = true
  part  : type < 9 → bitOf p.parts h.part = true

/-- A message of admission has come for this device, well formed (R533, R568, R573). -/
structure State.Brings (s : State) (h : Hdr) (size : Nat) : Prop where
  port : s.carries h = true
  dst  : h.dst = s.fld Fld.CMP_SELF_FABRIC
  good : h.malformed 9 h.response (s.linkKey h.port) (some size) = false

/-- The header, type code (R571), RESPONSE flag and bytes (R573 to R588) of a command that is a received message. -/
def messageOf (c : Instr) (s : State) : Option (Hdr × Nat × Bool × Option Nat) :=
  match c with
  | .queryMessage (some h) ss => some (h, 1, false, s.queryBytes h.handle ss)
  | .expertMessage h p => some (h, 3, false, if p.x.isEmpty || decide (16384 < p.x.length) then none else some (48 + 2 * p.x.length))
  | .logitChunk (some h) _ _ _ _ _ => some (h, 4, false, some h.bytes)
  | .tilePush h _ => some (h, 7, false, some 18480)
  | .tilePull h _ _ _ _ => some (h, 6, false, some 48)
  | .pullAnswer h status t => some (h, 7, true, some (answerBytes status t.isSome))
  | .moveOffer h o => some (h, 8, false, some o.lastBytes)
  | .moveAnswer h status _ => some (h, 8, true, some (if status = 0 then 44 else 36))
  | .moveConfirm h _ => some (h, 8, false, some 44)
  | .moveAbort h _ => some (h, 8, false, some 40)
  | .rehandshake h _ _ => some (h, 8, false, some 44)
  | .leave h => some (h, 9, false, some 36)
  | .ping h => some (h, 9, false, some 36)
  | .pingResponse h => some (h, 9, true, some 36)
  | .keyRevoke h part _ => some (h, 10, false, if part < 16 then some 40 else none)
  | .keyRevokeResponse h _ => some (h, 10, true, some 40)
  | _ => none

/-- A message that answers one that has arrived: to its sender, with its partition, epoch, composition, handle and tag. -/
def Hdr.reply (h : Hdr) (b : MsgBody) : Msg := ⟨h.src, h.part, h.epoch, h.comp, h.handle, h.tag, b⟩

/-- A message has entered a port's queues (R611): the management queue, or the flow of its partition and class, at its end. -/
def Port.Queues (x y : Port) (m : Msg) (c : CtxClass) : Prop :=
  if m.body.mgmt then y = { x with mgmt := x.mgmt ++ [⟨m, 0, true, .bg, m.body.bytes, 0⟩] }
  else ∃ fin, y = { x with flows := x.flows.set (flowOf m.part c) (x.flows.getD (flowOf m.part c) [] ++ [⟨⟨m, m.body.vc, false, c, m.body.bytes, 0⟩, fin, false⟩]),
                           flast := x.flast.set (flowOf m.part c) fin }

/-- Between `s` and `t` one message has been sent: it has entered the queues of a port, and no other port has changed. -/
def State.Says (s t : State) (n : Nat) (m : Msg) (c : CtxClass) : Prop :=
  ∃ x y, s.ports.get? n = some x ∧ x.Queues y m c ∧ t.ports = s.ports.set n y

/-- A message of a peer resets its silence (R589, R592): its LAST_USE is the time, no PING of it is unanswered. -/
def State.Seen (s t : State) (i : Nat) (p : Peer) : Prop := t.peers = s.peers.set i { p with lastUse := t.aon, pings := 0 }

/-- The tile of a mortar entry can be read by a partition's slices: it is there, it carries no poison, and its place belongs to the
partition (R105, R138, R140, R378). -/
structure State.Readable (s : State) (p : Nat) (e : MEntry) : Prop where
  here  : e.away = false
  sound : s.poisonedData e = false
  own   : ∀ l, e.loc = some l → s.ownPlace p l = true

-- Requests -------------------------------------------------------------------------------------------------------------------------

/-- `t` is `s` but for what a request changes: its session, its own data, the tiles, frames, grammars and bonds that it holds, the contexts'
counts, work that waits for it, messages, and what a frame of inputs and outputs changes. -/
def State.Work (s t : State) : Prop :=
  s.Io { t with sessions := s.sessions, reqs := s.reqs, handoffs := s.handoffs, slices := s.slices, expertWait := s.expertWait,
                batches := s.batches, tiles := s.tiles, tileFrames := s.tileFrames, mortarFrames := s.mortarFrames, prefixes := s.prefixes,
                grammars := s.grammars, ctxs := s.ctxs, bonds := s.bonds, qry := s.qry, nextSeq := s.nextSeq, aon := s.aon,
                freeCtr := s.freeCtr, regs := s.regs, ports := s.ports, cores := s.cores }

/-- Between `s` and `t` the request of a session has ended (R59, R322, R683): its completion entry stands in a completion queue; the session
has no request, is in the state that follows, and holds the end in its LAST fields; no other session or request has changed. -/
structure State.Ended (s t : State) (slot : Nat) (q : Req) (st : Status) : Prop where
  posted : ∃ k h m report, s.Writes t (.cqe q.fn k {
    fn := q.fn, sq := q.sq, tag := q.tag, status := st, result := BitVec.ofNat 128 q.result, report := report, notice := false, ends := some slot } h m)
  gone   : t.req slot = none
  state  : (t.ses slot).state = (s.ses slot).state.afterRequest
  last   : (t.ses slot).lastStatus = st ∧ (t.ses slot).lastTag = q.tag ∧ (t.ses slot).lastTokens = q.committed ∧ (t.ses slot).lastUse = t.aon
  log    : (t.ses slot).log = (s.ses slot).log ∧ (t.ses slot).nextPos = (s.ses slot).nextPos
  others : ∀ j, j ≠ slot → t.ses j = s.ses j ∧ t.req j = s.req j
  frame  : s.Work t

-- Tile programs ---------------------------------------------------------------------------------------------------------------------

/-- The program of a core is past an instruction: at the next one, or at its end (R226). -/
def State.past (s : State) (e : Nat) (last : Bool) : State :=
  s.modCore e (fun c => { c with running := if last then none else c.running.map (fun r => { r with pc := r.pc + 1, bar := none, reps := 0 }) })

/-- The program of a core is past a repetition of an instruction (R224, R226): at the next repetition, or past the instruction. -/
def State.goesOn (s : State) (e reps : Nat) (i : TInstr) : State :=
  if reps < i.count then s.modCore e (fun c => { c with running := c.running.map (fun r => { r with reps := r.reps + 1 }) })
  else s.past e i.last

/-- What has run on a core since the last meter tick, with a context of a partition (R606). -/
def Core.ranWith (c : Core) (p n : Nat) : List (Nat × Nat) := if c.ran.contains (p, n) then c.ran else (p, n) :: c.ran

/-- No other program waits for a core. -/
def State.Alone (s : State) (e : Nat) : Prop := ∀ c, s.cores.get? e = some c → c.queue = [] ∧ c.paused = []

/-- `t` is `s` but for what the writes of tile programs change: tiles, cores (their stores and dispatch areas) and regions (R229). -/
def State.Tiled (s t : State) : Prop := ∃ a b c, t = { s with tiles := a, cores := b, ram := c }

-- Start steps -----------------------------------------------------------------------------------------------------------------------

/-- Start step S<n> is due: the start has come to it, the device is not frozen and SYS_RESET_N is high (R712, R787). -/
structure State.Due (s : State) (n : Nat) : Prop where
  phase  : s.boot.phase = .start n
  frozen : s.err.frozen = false
  high   : s.pins.sysReset = false

/-- Between `s` and `t` start step S<n> has passed (R712, R714, R719): the next step is due, its count of failures is gone, and the
ledger, a ring of 131,072 records, has one more record; the pins of R775 and R778 that the next step drives are driven. -/
structure State.Passes (s t : State) (n detail : Nat) : Prop where
  phase  : t.boot.phase = .start (n + 1)
  step   : t.boot.step = n
  fails  : t.boot.fails = s.boot.fails.erase n
  ledger : t.boot.ledger = (⟨s.boot.number, n, if s.boot.alts.getD n 0 = 0 then 0 else 2, 0, s.boot.alts.getD n 0, detail, t.aon, s.ledgerSeal⟩
    :: s.boot.ledger).take 131072
  pins   : t.pins.xspiReset = (s.pins.xspiReset && n != 2) ∧ t.pins.nandWrite = (s.pins.nandWrite || n == 9)

end Sys2Proof.Machine
end

