-- ==== Sys2Proof/Certificates/Slice0/Obligations.lean ====
section
/-!
DEFINITION. The statements for the provers.
-/

open Sys2Proof Sys2Proof.Machine

-- The queue of commands -------------------------------------------------------------------------------------------------------------

/-- A step takes the command at the front of the queue and gives it its effect with the queue's rest. The form is the model's own
(log entry 1). -/
def Obligations.StepRunsFront : Prop :=
  ∀ (c : Instr) (s : State), step { s with pending := c :: s.pending } = exec c s

-- The start (21) --------------------------------------------------------------------------------------------------------------------

/-- S00 to S07 pass in a calm device (R712): each leaves what its row of the table says and the next step due.
Complete, each with its own effect: s00AlwaysOn, s01KeystoneSelftest, s02FirmwareVerify, s03ImageRead, s04ApplyConfig, s05PcieUp, s06PllLock,
s07MemoryTrain. -/
def Obligations.StartFirstSteps : Prop :=
  ∀ s : State, s.Calm →
    (s.Due 0 → ∃ t, exec .s00AlwaysOn s = .next t ∧ s.Passes t 0 0 ∧
      t = { s with boot := t.boot, aon := t.aon, freeCtr := t.freeCtr }) ∧
    (∀ f : Fuses, s.Due 1 → s.sec.spent = false → s.sec.fuses = Fuses.blank →
      ∃ t, exec (.s01KeystoneSelftest true f true) s = .next t ∧ s.Passes t 1 0 ∧ t.sec.fuses = f ∧
        t.pins = { s.pins with therm := false, fault := false } ∧
        t = { s with boot := t.boot, aon := t.aon, freeCtr := t.freeCtr, sec := t.sec, pins := t.pins }) ∧
    (∀ green fired : FwSlot, s.Due 2 → green.present = false → fired.present = true → s.slotFails fired = 0 →
      ∃ t, exec (.s02FirmwareVerify green fired) s = .next t ∧ s.Passes t 2 0 ∧ t.boot.fired = fired ∧
        t = { s with boot := t.boot, aon := t.aon, freeCtr := t.freeCtr, pins := { s.pins with xspiReset := false } }) ∧
    (∀ (a b : Option ConfigImage) (i : ConfigImage), s.Due 3 → s.boot.unconf = false →
      (if s.boot.copyB then b else a) = some i → s.imageOk i = true →
      ∃ t, exec (.s03ImageRead a b) s = .next t ∧ s.Passes t 3 0 ∧ t.boot.image = some i ∧
        t = { s with boot := t.boot, aon := t.aon, freeCtr := t.freeCtr }) ∧
    (s.Due 4 → s.boot.image = none → ∃ t, exec .s04ApplyConfig s = .next t ∧ s.Passes t 4 0 ∧
      t = { s with boot := t.boot, aon := t.aon, freeCtr := t.freeCtr }) ∧
    (∀ (i : ConfigImage) (c : State), s.Due 4 → s.boot.image = some i → i.records = [] →
      (s.loadSettings Field.settable i.settings).loadLinks i.links = c → c.plumb s.promised c.nextPlaces = none →
      ∃ t, exec .s04ApplyConfig s = .next t ∧ s.Passes t 4 0 ∧ t.boot.links = i.links ∧ t.regs = c.regs ∧
        t = { s with boot := t.boot, aon := t.aon, freeCtr := t.freeCtr, regs := t.regs, pmc := t.pmc, sec := t.sec }) ∧
    (∀ w g : Nat, s.Due 5 → 0 < w → w < 32 → g < 8 → s.pins.perst0 = false → bitOf s.boot.straps 0 = false →
      ∃ t, exec (.s05PcieUp w g 0 0) s = .next t ∧ s.Passes t 5 0 ∧ t.flag Fld.HIF_LINK_UP 0 = true ∧
        t.fld Fld.HIF_LINK_WIDTH 0 = w ∧ t.fld Fld.HIF_LINK_GEN 0 = g ∧ t.flag Fld.HIF_LINK_BIFURCATED 0 = false ∧
        t = { s with boot := t.boot, aon := t.aon, freeCtr := t.freeCtr, regs := t.regs }) ∧
    (s.Due 6 → ∃ t, exec (.s06PllLock none) s = .next t ∧ s.Passes t 6 0 ∧
      t.courses = [0, 1, 2].map (fun n => (n, Course.start (s.boot.plls.contains n))) ∧
      t = { s with boot := t.boot, aon := t.aon, freeCtr := t.freeCtr, courses := t.courses }) ∧
    (s.Due 7 → s.boot.alts.getD 7 0 < 4 → s.sec.fuses.pkgGib < 256 →
      ∃ t, exec (.s07MemoryTrain true) s = .next t ∧ s.Passes t 7 (s.boot.alts.getD 7 0) ∧
        t.fld Fld.MEM_CFG_RATE = s.boot.alts.getD 7 0 ∧ t.fld Fld.MEM_CAP_PKG_GIB = s.sec.fuses.pkgGib ∧
        t = { s with boot := t.boot, aon := t.aon, freeCtr := t.freeCtr, regs := t.regs })

/-- S08 to S15 pass in a calm device (R712): each leaves what its row of the table says and the next step due, or the device ready.
Complete, each with its own effect: s08CoreAssign, s09FirmwareLoad, s10QuarryMount, s11DirectoryRecovery, s12LinkTrain, s13AkCertificate,
s14PartitionStart, s15Ready. -/
def Obligations.StartLastSteps : Prop :=
  ∀ s : State, s.Calm →
    (∀ (tests : List (Nat × CoreTest)) (on : List Nat), s.Due 8 →
      on = (((List.range 18).filter (fun c => bitOf s.sec.fuses.goodCores c && !(s.boot.badCores.contains c))).filter
        (fun c => (testOf tests c).ok)).take 16 → on ≠ [] →
      ∃ t, exec (.s08CoreAssign tests) s = .next t ∧ t.boot.phase = .start 9 ∧ t.boot.step = 8 ∧
        t.cores = on.zipIdx.map (fun ce => (ce.2, Core.start ce.1 (testOf tests ce.1).badRows)) ∧
        t.fld Fld.GLB_CORE_MAP_ENABLED_COUNT = on.length ∧
        t = { s with boot := t.boot, aon := t.aon, freeCtr := t.freeCtr, regs := t.regs, cores := t.cores }) ∧
    (s.Due 9 → ∃ t, exec (.s09FirmwareLoad none) s = .next t ∧ s.Passes t 9 0 ∧
      t = { s with boot := t.boot, aon := t.aon, freeCtr := t.freeCtr, pins := { s.pins with nandWrite := true }
                   cores := s.cores.map (fun (kv : Nat × Core) => (kv.1, { kv.2 with
                     prog := ((s.boot.fired.core.prog.take systemWords).zipIdx).map (fun w => (w.2, w.1)) })) }) ∧
    (∀ (m : MountFind) (i : ConfigImage) (g : NandGeom), s.Due 10 → s.boot.image = some i → i.nand = some g →
      s.qry.left = false → s.boot.alts.getD 10 0 = 0 → m.answered = true → m.geomOk = true → m.trained = true → m.root = false →
      ∃ t, exec (.s10QuarryMount m) s = .next t ∧ s.Passes t 10 0 ∧ t.qry.mounted = true ∧ t.qry.readOnly = false ∧
        t.qry.geom = g ∧ t.qry.map = [] ∧
        t = { s with boot := t.boot, aon := t.aon, freeCtr := t.freeCtr, qry := t.qry, mirror := t.mirror, tiles := t.tiles,
                     ckp := t.ckp, err := t.err }) ∧
    (∀ (m : Mirror) (n : Nat) (u : State), s.Due 11 → s.boot.alts.getD 11 0 ≠ 1 → s.mirror = [m] → m.ses.state = .parked →
      m.ses.pfxTiles = 0 → s.allocMor m.ses.part ⟨m.ses.part, .priv, 0, m.slot, []⟩ = some (n, u) →
      ∃ t, exec (.s11DirectoryRecovery true) s = .next t ∧ s.Passes t 11 0 ∧
        t.ses m.slot = { m.ses.bare with mortar := { m.ses.mortar with root := n } } ∧ t.mortarFrames = u.mortarFrames ∧
        (∀ k, k ≠ m.slot → t.ses k = s.ses k) ∧
        t = { s with boot := t.boot, aon := t.aon, freeCtr := t.freeCtr, sessions := t.sessions, regs := t.regs,
                     mortarFrames := t.mortarFrames }) ∧
    (s.Due 12 → ∃ t, exec .s12LinkTrain s = .next t ∧ s.Passes t 12 0 ∧
      (∀ n, n < 8 → t.ports.get? n = some (if s.boot.deadPorts.contains n then { Port.fresh 0 .down with leftDown := true }
        else if s.flag Fld.LNK_CFG_ENABLE n then Port.fresh (s.genMax n) .train else Port.fresh 0 .down)) ∧
      t = { s with boot := t.boot, aon := t.aon, freeCtr := t.freeCtr, ports := t.ports }) ∧
    (s.Due 13 → ∃ t, exec (.s13AkCertificate true) s = .next t ∧ s.Passes t 13 0 ∧
      t.fld Fld.CMP_PEER_ID_ID = s.sec.fuses.peerId.toNat ∧ t.sec = { s.sec with akFor := some s.boot.fired.digest } ∧
      t = { s with boot := t.boot, aon := t.aon, freeCtr := t.freeCtr, regs := t.regs, sec := t.sec }) ∧
    (∀ p : Plan, s.Due 14 → s.boot.unconf = false → s.sec.marks = [] → s.boot.alts.getD 11 0 ≠ 1 → s.ctxs = [] →
      s.boot.nextPlan = some p → s.plumb (s.actual true) s.nextPlaces = none →
      ∃ t, exec .s14PartitionStart s = .next t ∧ t.boot.phase = .start 15 ∧ t.boot.plan = some p ∧
        (∀ (e : Nat) (k : Core), s.cores.get? e = some k → ∃ k', t.cores.get? e = some k' ∧ k'.owner = s.coreOwner e ∧
          k'.clearing = false) ∧
        (∀ (x : PlaceRef) (i : CtxImage), s.nextPlaces = [x] → x.img = some i → t.ctx x.part x.ctx = some (Ctx.placed x i)) ∧
        t.sessions = s.sessions ∧ t.flash = s.flash) ∧
    (s.Due 15 → s.waitS15 = [] → ∃ t, exec .s15Ready s = .next t ∧ t.boot.phase = .ready ∧ t.boot.step = 15 ∧
      t.flag Fld.HIF_LINK_READY 0 = true ∧
      t.sec = { s.sec with fuses := { s.sec.fuses with rollback := Nat.max s.sec.fuses.rollback s.boot.fired.rollback } } ∧
      t = { s with boot := t.boot, aon := t.aon, freeCtr := t.freeCtr, regs := t.regs, sec := t.sec })

-- Pins, power and clocks (25) ----------------------------------------------------------------------------------------------------------

/-- What power, reset and the board's management endpoint do in a calm device (R712, R721, R776, R784, R787, R791): PWR_GOOD begins and ends
everything, SYS_RESET_N holds the device in reset and starts it at S01, and a reset waits for a page program and for the dump of a freeze; a
sensor answers a measurement, which is open (log entry 10), and the recovery endpoint writes what it is given into the green slot.
Complete, each with its own effect: mctpPldmRequest, pwrGoodRise, pwrGoodFall, sysResetAsserted, sysResetReleased, xspiPageProgramDone,
dumpWaitLimitExpiry. -/
def Obligations.PowerAndReset : Prop :=
  ∀ s : State, s.Calm →
    (∀ k : Nat, s.boot.phase = .off → ∃ t, exec (.pwrGoodRise k) s = .next t ∧ t.boot.phase = .start 0 ∧
      t.pins = { s.pins with pwrGood := true, xspiReset := true } ∧ t.boot.straps = k % 16 ∧ t.boot.number = s.boot.number + 1 ∧ t.flash = s.flash ∧
      t.sec.fuses = s.sec.fuses ∧ t.boot.ledger = s.boot.ledger) ∧
    (s.boot.phase ≠ .off → ∃ t, exec .pwrGoodFall s = .next t ∧ t.boot.phase = .off ∧ t.sessions = [] ∧ t.tileFrames = [] ∧
      t.mortarFrames = [] ∧ t.cores = [] ∧ t.regs = [] ∧ t.aon = 0 ∧ t.sec.latched = 0 ∧ t.pins.fault = false ∧ t.pins.therm = false ∧
      t.pins.alarmOut = false ∧ t.pins.xspiReset = true ∧ t.pins.nandWrite = false ∧ t.flash = s.flash ∧ t.sec.fuses = s.sec.fuses ∧
      t.boot.ledger = s.boot.ledger ∧ t.qry.map = s.qry.map ∧ t.mirror = s.mirror) ∧
    (s.boot.phase ≠ .off → s.boot.phase ≠ .reset → s.pins.xspiBusy = false → s.dumpHolds = false →
      ∃ t, exec .sysResetAsserted s = .next t ∧ t.boot.phase = .reset ∧ t.pins.sysReset = true ∧ t.sessions = [] ∧ t.cores = [] ∧
        t.regs = [] ∧ t.aon = s.aon ∧ t.sec.latched = s.sec.latched ∧ t.sec.frozen = s.sec.frozen ∧ t.flash = s.flash ∧
        t.sec.fuses = s.sec.fuses ∧ t.boot.ledger = s.boot.ledger ∧ t.qry.map = s.qry.map ∧ t.mirror = s.mirror) ∧
    (s.boot.phase ≠ .off → s.boot.phase ≠ .reset → (s.pins.xspiBusy = true ∨ s.dumpHolds = true) →
      exec .sysResetAsserted s = .next { s with pins := { s.pins with sysReset := true, resetHeld := true } }) ∧
    (s.boot.phase ≠ .off → s.pins.sysReset = true → s.pins.resetHeld = false →
      ∃ t, exec .sysResetReleased s = .next t ∧ t.boot.phase = .start 1 ∧ t.pins = { s.pins with sysReset := false } ∧
        t.boot.number = s.boot.number + 1 ∧ t.flash = s.flash ∧ t.sec.fuses = s.sec.fuses ∧ t.boot.ledger = s.boot.ledger) ∧
    (s.pins.resetHeld = false → exec .xspiPageProgramDone s = .next { s with pins := { s.pins with xspiBusy := false } }) ∧
    (s.pins.resetHeld = true → s.pins.sysReset = true → s.dumpHolds = false →
      ∃ t, exec .xspiPageProgramDone s = .next t ∧ t.boot.phase = .reset ∧
        t.pins = { s.pins with xspiBusy := false, resetHeld := false } ∧ t.sessions = [] ∧ t.flash = s.flash) ∧
    (s.err.frozen = true → s.pins.xspiBusy = false → s.pins.resetHeld = true → s.pins.sysReset = true →
      ∃ t, exec .dumpWaitLimitExpiry s = .next t ∧ t.boot.phase = .reset ∧ t.pins = { s.pins with resetHeld := false } ∧
        t.sessions = [] ∧ t.flash = s.flash) ∧
    (∀ n : Nat, s.managed = true → n < 36 → ∃ v, exec (.mctpPldmRequest (.sensor n)) s = .next { s with
      out := .sensor n v :: s.out, freeCtr := s.freeCtr + 1 }) ∧
    (∀ (off : Nat) (data : List Byte), s.boot.recovery = true → 0 < off → data ≠ [] → off + data.length ≤ 0x4000000 →
      exec (.mctpPldmRequest (.fwStage off data)) s = .next { s with
        flash := Memory.writes 0xFF s.flash (0x5000000 + off) data, pins := { s.pins with xspiBusy := true } })

/-- How the courses change clock step (R796, R241): one step at a time, not while a step is under way, between 1.9 GHz (step 0) and
1.1 GHz (step 2); nothing else changes.
Complete, each with its own effect: thermalStepDown, thermalStepUp, powerStepDown, powerStepUp, courseStepDone. -/
def Obligations.ClockSteps : Prop :=
  ∀ (s : State) (n : Nat) (c : Course), s.Calm → s.awake = true → s.courses.get? n = some c →
    (c.changing = false → c.step < 2 → exec (.thermalStepDown n) s = .next { s with
      courses := s.courses.set n { c with changing := true, next := c.step + 1, thermal := c.thermal + 1 } }) ∧
    (c.changing = false → c.step < 2 → exec (.powerStepDown n) s = .next { s with
      courses := s.courses.set n { c with changing := true, next := c.step + 1, power := c.power + 1 } }) ∧
    (2 ≤ c.step → exec (.thermalStepDown n) s = .next { s with courses := s.courses.set n c } ∧
      exec (.powerStepDown n) s = .next { s with courses := s.courses.set n c }) ∧
    (c.changing = false → 0 < c.step → c.fixedLow = false → 0 < c.thermal → exec (.thermalStepUp n) s = .next { s with
      courses := s.courses.set n { c with changing := true, next := c.step - 1, thermal := c.thermal - 1 } }) ∧
    (c.changing = false → 0 < c.step → c.fixedLow = false → 0 < c.power → n < 3 →
      (∀ (k : Nat) (d : Course), k < n → s.courses.get? k = some d → d.power = 0) → exec (.powerStepUp n) s = .next { s with
      courses := s.courses.set n { c with changing := true, next := c.step - 1, power := c.power - 1 } }) ∧
    (c.changing = true → exec (.courseStepDone n) s = .next { s with
      courses := s.courses.set n { c with changing := false, step := c.next } })

/-- Which TAP instruction takes effect (R777): BYPASS, IDCODE and SAMPLE/PRELOAD at all times, EXTEST and the IEEE 1149.6 instructions only while
SYS_RESET_N is low, every other one only after a debug-unlock record; an instruction that is not accepted acts as BYPASS, and nothing else
changes.
Completes, with its own effect: jtagInstruction. -/
def Obligations.TapInstructions : Prop :=
  ∀ (s : State) (i : TapInstr), s.Calm → s.boot.phase ≠ .off →
    ∃ e, exec (.jtagInstruction i) s = .next { s with pins := { s.pins with tap := e }, out := .tap e :: s.out } ∧
      (i = .bypass ∨ i = .idcode ∨ i = .samplePreload → e = i) ∧
      (i = .extest ∨ i = .acExtest → e = if s.pins.sysReset then i else .bypass) ∧
      (i = .other → e = if s.sec.debug then i else .bypass)

-- Errors, freezes and alarms (19, 22) ----------------------------------------------------------------------------------------------------

/-- How a hardware fault is recorded (R728, R730, R735 to R737), in a calm device in which no recovery runs, with the class that R730 gives
its source: a CE changes nothing but the records, and coalesces with the newest CE record of its source and location within 2^25 always-on
cycles; a UC of no memory word, tile-store line, tile program or port that poisons nothing has a record of its own. The time that passes
before a record is open (log entry 7).
Completes, with its own effect: hardwareFault. -/
def Obligations.HardwareErrors : Prop :=
  ∀ (s : State) (f : FaultRep), s.Calm → s.awake = true → f.running = [] →
    (f.classed.cls = .ce → (∀ r ∈ s.err.ring, r.cls ≠ .ce) → ∃ t, exec (.hardwareFault f) s = .next t ∧ s.Rec t ∧
      s.Logs t .ce f.source f.part f.location f.detail) ∧
    (∀ (r : ErrRec) (l : List ErrRec), f.classed.cls = .ce → s.err.ring = r :: l → r.cls = .ce → r.source = f.source →
      r.location = f.location → ∃ t, exec (.hardwareFault f) s = .next t ∧ s.Rec t ∧
        if (t.aon + 2 ^ 64 - r.stampLast) % 2 ^ 64 < 2 ^ 25 then
          t.err.ring.head? = some { r with count := (r.count + 1) % 2 ^ 32, stampLast := t.aon } ∧
            t.err.ring.length = s.err.ring.length ∧ t.err.next = s.err.next
        else s.Logs t .ce f.source f.part f.location f.detail) ∧
    (f.classed.cls = .uc → f.source ≠ 1 → f.source ≠ 3 → f.source ≠ 4 → f.source ≠ 7 → f.poison = .none → ∃ t, exec (.hardwareFault f) s = .next t ∧ s.Rec t ∧
      s.Logs t .uc f.source f.part f.location f.detail)

/-- What a PF error and a DF error do in a device without commands whose ports are DOWN (R49, R729, R742, R797), and what the copy of the
dump leaves: the partition is frozen with a report of scope 2; the device is frozen with FAULT_N and, after a thermal trip, THERM_TRIP_N
low, its cores stopped and a note in the ledger, and nothing else is touched; once the copy is programmed the memory quadrants are off and
what they held is gone, and where it could not be programmed they stay in self-refresh.
Complete, each with its own effect: thermalTrip, hardwareFault, freezeDumpDone. -/
def Obligations.FatalErrors : Prop :=
  ∀ s : State, s.Idle →
    (∀ (f : FaultRep) (p : Nat), s.awake = true → f.running = [] → f.classed.cls = .pf → f.part = some p →
      ∃ t, exec (.hardwareFault f) s = .next t ∧ s.Logs t .pf f.source (some p) f.location f.detail ∧ p ∈ t.err.fatal ∧
        (∃ r, (t.reportsOf p).head? = some r ∧ r.number = s.nextReport p ∧ r.cause = .internalPartitionFatal ∧ r.scope = 2 ∧
          r.ctx = 0xFF ∧ r.cmds = [] ∧ r.bonds = [] ∧ r.omitted = 0) ∧
        t = { s with err := t.err, aon := t.aon, freeCtr := t.freeCtr, regs := t.regs, out := t.out, reports := t.reports,
                     bars := t.bars, cores := t.cores }) ∧
    (s.awake = true → (∀ n x, s.ports.get? n = some x → x.state = .down) → ∃ t, exec .thermalTrip s = .next t ∧
      s.Logs t .df 13 none 0 0 ∧ t.err.frozen = true ∧ t.err.order = (if s.qry.mounted then 5 else 6) ∧
      t.pins = { s.pins with therm := true, fault := true } ∧
      (∃ r, t.boot.ledger.head? = some r ∧ r.start = s.boot.number ∧ r.outcome = 3 ∧ r.detail = s.err.nextSeq) ∧
      (∀ e c, t.cores.get? e = some c → c.running = none ∧ c.queue = [] ∧ c.paused = []) ∧ t.bars = [] ∧
      t.selfRefresh = (if s.qry.mounted then s.selfRefresh else List.range 192) ∧
      t = { s with err := t.err, aon := t.aon, freeCtr := t.freeCtr, regs := t.regs, out := t.out, pins := t.pins, boot := t.boot,
                   cores := t.cores, bars := t.bars, cqs := t.cqs, selfRefresh := t.selfRefresh }) ∧
    (s.err.frozen = true → s.err.order = 5 → s.pins.resetHeld = false →
      exec (.freezeDumpDone true) s = .next { s with
        err := { s.err with order := 6, dumped := true, dump := s.err.ring,
                            ring := s.err.ring.map (fun r => if r.cls = .df then { r with dumped := true } else r) }
        sessions := [], tileFrames := [], mortarFrames := [], ram := [], prefixes := [], regPages := [], grammars := [], reports := []
        bonds := [], colls := [], selfRefresh := []
        tiles := s.tiles.filter (fun kv => match kv.1 with | .frame _ => false | _ => true) } ∧
      exec (.freezeDumpDone false) s = .next { s with err := { s.err with order := 6 }, selfRefresh := List.range 192 })

/-- What an alarm does in a device without commands (R656 to R659): one record of source 12 at every level; at A1 nothing latches; at A2
the source latches, ALARM_OUT_N goes low and the partitions freeze; at A3 the keys and all that they protected are gone as well, and
WRAP_GEN and ALARM_COUNT step. That what can no longer be read is absent is the model's form (log entry 11).
Complete, each with its own effect: alarmInAsserted, alarmInReleased, alarmSourceDetected. -/
def Obligations.Alarms : Prop :=
  ∀ s : State, s.Idle → s.boot.phase ≠ .off →
    (∀ n : Nat, n ≤ 1 → bitOf s.sec.raw (4 + n) = false → s.alarmLevel (4 + n) = 1 →
      ∃ t, exec (.alarmInAsserted n) s = .next t ∧ s.Logs t .uc 12 none (4 + n) 0 ∧
        t.sec = { s.sec with raw := s.sec.raw + 2 ^ (4 + n), record := s.err.nextSeq } ∧
        t = { s with err := t.err, aon := t.aon, freeCtr := t.freeCtr, regs := t.regs, out := t.out, sec := t.sec }) ∧
    (∀ n : Nat, n ≤ 3 → bitOf s.sec.raw n = false → s.alarmLevel n = 2 → s.sec.frozen = false →
      ∃ t, exec (.alarmSourceDetected n true) s = .next t ∧ s.Logs t .uc 12 none n 0 ∧
        t.sec = { s.sec with raw := s.sec.raw + 2 ^ n, record := s.err.nextSeq, latched := setSource s.sec.latched n,
                             level := Nat.max s.sec.level 2, frozen := true } ∧
        t.pins = { s.pins with alarmOut := true } ∧
        t = { s with err := t.err, aon := t.aon, freeCtr := t.freeCtr, regs := t.regs, out := t.out, sec := t.sec, pins := t.pins,
                     bars := t.bars, cores := t.cores }) ∧
    (∀ n : Nat, n ≤ 3 → bitOf s.sec.raw n = false → s.alarmLevel n = 3 → s.sec.frozen = false →
      ∃ t, exec (.alarmSourceDetected n true) s = .next t ∧ s.Logs t .uc 12 none n 0 ∧ t.sec.frozen = true ∧ t.sec.level = 
          Nat.max s.sec.level 3 ∧ t.pins = { s.pins with alarmOut := true } ∧ t.sec.slots = [] ∧ t.sec.hops = [] ∧ t.sec.seeds = [] ∧
        t.bounce = [] ∧ t.sessions = [] ∧ t.tiles = [] ∧ t.tileFrames = [] ∧ t.mortarFrames = [] ∧ t.qry.map = [] ∧
        t.sec.fuses = { s.sec.fuses with wrapGen := Nat.min 64 (s.sec.fuses.wrapGen + 1),
                                         alarmCount := Nat.min 64 (s.sec.fuses.alarmCount + 1) } ∧
        t.flash = s.flash ∧ t.boot = s.boot) ∧
    (∀ n : Nat, n ≤ 1 → exec (.alarmInReleased n) s = .next { s with sec := { s.sec with raw := clearSource s.sec.raw (4 + n) } }) ∧
    (∀ n : Nat, n ≤ 3 → exec (.alarmSourceDetected n false) s = .next { s with sec := { s.sec with raw := clearSource s.sec.raw n } })

/-- What the memory engines do in a device in which nothing waits for frames (R372, R379, R394, R395, R397): the patrol reads a granule
without an error or a poison bit, which takes its sub-channel out of self-refresh; a sub-channel enters self-refresh; a frame that has been
zeroed is FREE, and the sub-channels of its data and of the side frame beside a tile have left self-refresh.
Complete, each with its own effect: scrubZeroed, lpddrPatrol, selfRefreshEntry. -/
def Obligations.MemoryEngines : Prop :=
  ∀ s : State, s.Idle → s.boot.phase = .ready → s.err.frozen = false →
    (∀ a : Nat, a < s.fld Fld.MEM_CAP_STRIPES * 49152 → s.poisonedGranule (a / 256 * 256) = false → exec (.lpddrPatrol a 0) s = .next { s with
      patrol := a / 256 * 256, selfRefresh := s.selfRefresh.filter (fun x => x != subChannel (a / 256 * 256)) }) ∧
    (∀ n : Nat, n < 192 → s.flag Fld.MEM_CFG_ARB_MODE = false → s.fld Fld.MEM_CFG_SR_IDLE_US ≠ 0 → n ∉ s.selfRefresh →
      exec (.selfRefreshEntry n) s = .next { s with selfRefresh := n :: s.selfRefresh }) ∧
    (∀ (n : Nat) (f : Frame), s.tileFrames.get? n = some f → f.state = .zeroing →
      ∃ l, exec (.scrubZeroed false n) s = .next { s with tileFrames := s.tileFrames.erase n, selfRefresh := l } ∧
        ∀ c, c ∈ l ↔ c ∈ s.selfRefresh ∧ (∀ k, k < 64 → c ≠ subChannel (s.fld Fld.MEM_TILE_DATA_BASE_BASE_2M * 2 ^ 21 + n * 16384 + 256 * k)) ∧
          ∀ k, k < 8 → c ≠ subChannel (s.fld Fld.MEM_TILE_SIDE_BASE_BASE_2M * 2 ^ 21 + n * 2048 + 256 * k)) ∧
    (∀ (n : Nat) (f : Frame), s.mortarFrames.get? n = some f → f.state = .zeroing →
      ∃ l, exec (.scrubZeroed true n) s = .next { s with mortarFrames := s.mortarFrames.erase n, selfRefresh := l } ∧
        ∀ c, c ∈ l ↔ c ∈ s.selfRefresh ∧ ∀ k, k < 16 → c ≠ subChannel (s.fld Fld.MEM_MORTAR_BASE_BASE_2M * 2 ^ 21 + n * 4096 + 256 * k))

-- Queues, registers and functions (20, 24) ---------------------------------------------------------------------------------------------

/-- What a doorbell does (R674): an accepted value becomes the queue's tail or head, whatever entries stand before the new tail; the entries
before a new head are released; every other write is dropped and sets HIF_ERR.DB_ERR. Only the low 16 bits of the value count.
Complete, each with its own effect: sqTailDoorbell, cqHeadDoorbell. -/
def Obligations.Doorbells : Prop :=
  ∀ (s : State) (f : Fn) (q v w : Nat), s.Calm → s.doeUp f = true → q < 64 → w = v % 65536 →
    (∀ x : Sq, s.sq f q = some x → x.on = true → w < x.size →
      (x.tail + x.size - s.sqHead f q) % x.size ≤ (w + x.size - s.sqHead f q) % x.size →
      exec (.sqTailDoorbell f q v []) s = .next { s with sqs := s.sqs.set (f.index, q) { x with tail := w } }) ∧
    (∀ (x : Sq) (l : List Nat), s.sq f q = some x → x.on = true → w < x.size →
      (x.tail + x.size - s.sqHead f q) % x.size ≤ (w + x.size - s.sqHead f q) % x.size →
      ∃ t y, exec (.sqTailDoorbell f q v l) s = .next t ∧ t.sq f q = some y ∧ y.tail = w) ∧
    (∀ l : List Nat, (∀ x : Sq, s.sq f q = some x → x.on = false ∨ x.size ≤ w ∨
        (w + x.size - s.sqHead f q) % x.size < (x.tail + x.size - s.sqHead f q) % x.size) →
      ∃ t, exec (.sqTailDoorbell f q v l) s = .next t ∧ t.flag Fld.HIF_ERR_DB_ERR f.index = true ∧
        t.fld Fld.HIF_ERR_QUEUE f.index = q ∧ t = { s with regs := t.regs }) ∧
    (∀ x : Cq, s.cq f q = some x → x.on = true → w < x.size → (w + x.size - x.head) % x.size ≤ x.held → x.waiting = [] →
      exec (.cqHeadDoorbell f q v) s = .next { s with
        cqs := s.cqs.set (f.index, q) { x with head := w, held := x.held - (w + x.size - x.head) % x.size } }) ∧
    (∀ x : Cq, s.cq f q = some x → x.on = true → w < x.size → (w + x.size - x.head) % x.size ≤ x.held →
      ∃ t y, exec (.cqHeadDoorbell f q v) s = .next t ∧ t.cq f q = some y ∧ y.head = w) ∧
    ((∀ x : Cq, s.cq f q = some x → x.on = false ∨ x.size ≤ w ∨ x.held < (w + x.size - x.head) % x.size) →
      ∃ t, exec (.cqHeadDoorbell f q v) s = .next t ∧ t.flag Fld.HIF_ERR_DB_ERR f.index = true ∧
        t.fld Fld.HIF_ERR_QUEUE f.index = q ∧ t = { s with regs := t.regs })

/-- Enabling and disabling queues, and what a queue's timer signals (R675, R676, R687, R696): a queue begins with head, tail and count
0 and with the fields that the write gives; a submission queue whose completion queue is not enabled is not enabled; a queue that is
disabled keeps its fields, and only stops.
Complete, each with its own effect: sqEnable, cqEnable, interruptCoalesceExpiry. -/
def Obligations.QueueEnables : Prop :=
  ∀ (s : State) (f : Fn) (q v : Nat), s.Calm → s.doeUp f = true → q < 64 → v < 2 ^ 32 →
    (bitOf v 31 = true → s.sqOn f q = false → s.cqOn f (bitsOf v 21 16) = true →
      ∃ t x, exec (.sqEnable f q v) s = .next t ∧ t.sq f q = some x ∧ x.on = true ∧ x.v2 = bitOf v 30 ∧ x.cq = bitsOf v 21 16 ∧
        x.size = Nat.max (bitsOf v 15 0) 1 + 1 ∧ x.head = 0 ∧ x.tail = 0 ∧
        (∀ g n, (g.index, n) ≠ (f.index, q) → t.sq g n = s.sq g n) ∧ t = { s with regs := t.regs, sqs := t.sqs }) ∧
    (bitOf v 31 = true → s.sqOn f q = false → s.cqOn f (bitsOf v 21 16) = false →
      ∃ t, exec (.sqEnable f q v) s = .next t ∧ t.flag Fld.HIF_ERR_CFG_ERR f.index = true ∧ t.fld Fld.HIF_ERR_QUEUE f.index = q ∧
        t = { s with regs := t.regs }) ∧
    (∀ x : Sq, bitOf v 31 = false → s.sq f q = some x → ∃ t, exec (.sqEnable f q v) s = .next t ∧
      t = { s with regs := t.regs, sqs := s.sqs.set (f.index, q) { x with on := false } }) ∧
    (bitOf v 31 = true → s.cqOn f q = false →
      ∃ t x, exec (.cqEnable f q v) s = .next t ∧ t.cq f q = some x ∧ x.on = true ∧ x.v2 = bitOf v 30 ∧ x.vector = bitsOf v 29 24 ∧
        x.coal = bitsOf v 23 16 ∧ x.size = Nat.max (bitsOf v 15 0) 1 + 1 ∧ x.head = 0 ∧ x.held = 0 ∧ x.posted = 0 ∧ x.waiting = [] ∧
        (∀ g n, (g.index, n) ≠ (f.index, q) → t.cq g n = s.cq g n) ∧ t = { s with regs := t.regs, cqs := t.cqs }) ∧
    (∀ x : Cq, bitOf v 31 = false → s.cq f q = some x → x.waiting = [] → ∃ t, exec (.cqEnable f q v) s = .next t ∧
      t = { s with regs := t.regs, cqs := s.cqs.set (f.index, q) { x with on := false, unsignalled := 0, timer := false } }) ∧
    (∀ x : Cq, s.cq f q = some x → x.on = true → x.timer = true → 0 < x.unsignalled →
      exec (.interruptCoalesceExpiry f q) s = .next { s with
        cqs := s.cqs.set (f.index, q) { x with unsignalled := 0, timer := false }, out := .msix f x.vector :: s.out })

/-- What a register write does (R16, R760 to R765): where the register's bits start nothing and no rule bars the write, it alone changes, and
among the bits that the access covers the RW bits take the value written and the W1C bits are cleared by a 1; a write that no rule lets
through changes nothing, nor does one of a virtual function to MEM_CFG (R398); a 1 to COR_FAULT.VALID clears COR_FAULT and COR_FAULT_INSTR
(R246, R247); CLEAR_ALT is PF0's alone (R714).
Complete, each with its own effect: clearAlt, registerWrite. -/
def Obligations.RegisterWrites : Prop :=
  ∀ (s : State) (f : Fn), s.Calm → s.doeUp f = true →
    (∀ (a w v : Nat) (h : RegHit), regAt a = some h → h.fits a w = true → s.sees f h = true → h.mayWrite f = true → v < 2 ^ w →
      h.row.cls.isPmc = false →
      h.row.cls ∉ ([.hifSqCfg, .hifCqCfg, .lnkRekey, .bootCtl, .egrCfg, .egrGate, .attCapCtl, .corFault] : List RegClass) →
      s.captureBarred f (h.reg f) = false →
      ∃ t, exec (.registerWrite f a w v) s = .next t ∧ (∀ r, r ≠ h.reg f → t.reg r = s.reg r) ∧
        t.reg (h.reg f) =
          h.row.cls.written (s.reg (h.reg f)) (v * 2 ^ (8 * h.off)) ((2 ^ w - 1) * 2 ^ (8 * h.off)) % 2 ^ 64 ∧
        t = { s with regs := t.regs }) ∧
    (∀ (a v : Nat) (h : RegHit), regAt a = some h → h.fits a 64 = true → s.sees f h = true → h.row.cls = .corFault → h.off = 0 → v < 2 ^ 64 →
      (bitOf v 63 = true → ∃ t, exec (.registerWrite f a 64 v) s = .next t ∧ t.reg (h.reg f) = 0 ∧
        t.reg { h.reg f with cls := .corFaultInstr } = 0 ∧
        (∀ r, r ≠ h.reg f → r ≠ { h.reg f with cls := .corFaultInstr } → t.reg r = s.reg r) ∧ t = { s with regs := t.regs }) ∧
      (bitOf v 63 = false → exec (.registerWrite f a 64 v) s = .next s)) ∧
    (∀ (a w v : Nat) (h : RegHit), regAt a = some h → h.row.cls = .memCfg → f.isPf = false → exec (.registerWrite f a w v) s = .next s) ∧
    (∀ (c : RegClass) (old v n : Nat) (fd : Field), c ∈ ([.hifErr, .bndCfg, .memCfg, .secAlarmPolicy] : List RegClass) → fd ∈ c.fields →
      fd.lo ≤ n → n ≤ fd.hi → fd.hi < 32 → bitOf (c.written old v (2 ^ 32 - 1)) n = (match fd.acc with
        | .rw => bitOf v n
        | .w1c => bitOf old n && !bitOf v n
        | _ => bitOf old n)) ∧
    (∀ a w v : Nat, (regAt a = none ∨ w < 32 ∨ a % 4 ≠ 0 ∨ (w = 64 ∧ a % 8 ≠ 0) ∨ ∃ h, regAt a = some h ∧ s.sees f h = false) →
      exec (.registerWrite f a w v) s = .next s ∧ s.readReg f a w = 0) ∧
    (f.isPf = true → exec (.clearAlt f) s = .next { s with boot := { s.boot with clearAlt := true } }) ∧
    (f.isPf = false → exec (.clearAlt f) s = .next s)

/-- What a function reset, the controllers' reset pins and an error of host memory do in a device without other commands (R50, R671, R686,
R694): a function's reset clears its queues, their registers, its HIF_BOUNCE, its HIF_ERR, its bounce agreement and its partition's
capture enable, while other functions' queues and agreements, every other register, and sessions, tiles, frames and bonds stay; a running
request of it ends with CANCELLED/host-reset and no completion entry; a controller's reset pin takes its link down and does so to each of
its functions, or changes the pin alone where the controller is not up; its release changes the pin and the link, whose width and generation
are open (log entry 10); an error of host memory sets HIF_ERR.DMA_ERR and ends a command that waits for a frame, or a running request, with
CONFIG/host-memory.
Complete, each with its own effect: hostDmaError, functionReset, perstAsserted, perstReleased. -/
def Obligations.FunctionResets : Prop :=
  ∀ s : State, s.Idle →
    (∀ f : Fn, s.doeUp f = true → ∃ t, exec (.functionReset f) s = .next t ∧ (∀ q, t.sq f q = none ∧ t.cq f q = none) ∧
      t.bounce.get? f.index = none ∧
      (∀ r : Reg, r.cls ∈ ([.hifErr, .hifSqBase, .hifSqCfg, .hifCqBase, .hifCqCfg, .hifBounceBase, .hifBounceSize] : List RegClass) →
        (r.i = f.index → t.reg r = r.cls.reset) ∧ (r.i ≠ f.index → t.reg r = s.reg r)) ∧
      (∀ p, s.partOfFn f = some p → t.fld Fld.ATT_CAP_CTL_ENABLE p = 0) ∧
      (∀ r : Reg, r.cls ∉ ([.hifErr, .hifSqBase, .hifSqCfg, .hifCqBase, .hifCqCfg, .hifBounceBase, .hifBounceSize, .attCapCtl] : List RegClass) →
        t.reg r = s.reg r) ∧
      (∀ g q, g.index ≠ f.index → t.sq g q = s.sq g q ∧ t.cq g q = s.cq g q ∧ t.bounce.get? g.index = s.bounce.get? g.index) ∧
      (∀ k, t.ses k = { s.ses k with noted := (t.ses k).noted }) ∧
      t = { s with sqs := t.sqs, cqs := t.cqs, bounce := t.bounce, regs := t.regs, mboxBusy := t.mboxBusy, arrived := t.arrived,
                   sessions := t.sessions, peers := t.peers }) ∧
    (∀ (f : Fn) (slot : Nat) (q : Req), s.doeUp f = true → q.fn = f → q.phase = .generating → q.emit = none →
      ∃ t l, exec (.functionReset f) { s with reqs := [(slot, q)] } = .next t ∧ t.req slot = none ∧
        (t.ses slot).lastStatus = .cancelledHostReset ∧ (t.ses slot).lastTag = q.tag ∧ (t.ses slot).state = (s.ses slot).state.afterRequest ∧
        (∀ k, k ≠ slot → t.ses k = { s.ses k with noted := (t.ses k).noted }) ∧
        t.out = l ++ s.out ∧ ∀ g n c h m, Out.cqe g n c h m ∉ l) ∧
    (∀ n : Nat, n < 2 → s.perst n = false → s.pcieUp = false → exec (.perstAsserted n) s = .next (s.setPerst n true)) ∧
    (∀ n : Nat, n < 2 → s.perst n = false → s.pcieUp = true → s.present ⟨n, 0⟩ = true →
      ∃ t, exec (.perstAsserted n) s = .next t ∧ t.pins = (s.setPerst n true).pins ∧ t.flag Fld.HIF_LINK_UP n = false ∧
        (∀ v q, v < 17 → t.sq ⟨n, v⟩ q = none ∧ t.cq ⟨n, v⟩ q = none) ∧ (∀ k, t.ses k = { s.ses k with noted := (t.ses k).noted }) ∧
        t = { s with pins := t.pins, sqs := t.sqs, cqs := t.cqs, bounce := t.bounce, regs := t.regs, mboxBusy := t.mboxBusy,
                     arrived := t.arrived, sessions := t.sessions, peers := t.peers }) ∧
    (∀ n : Nat, n < 2 → s.perst n = true → ∃ t, exec (.perstReleased n) s = .next t ∧ t.pins = (s.setPerst n false).pins ∧
      t = { s with pins := t.pins, regs := t.regs, freeCtr := t.freeCtr }) ∧
    (∀ (u : Sub) (c : HostCmd) (q : Nat), u.sq = some q → q < 64 → s.doeUp u.fn = true → s.subPart u < 16 → s.Open u.fn q →
      ∃ t, exec (.hostDmaError u.fn q u.tag) { s with allocWait := [(u, c)] } = .next t ∧ t.flag Fld.HIF_ERR_DMA_ERR u.fn.index = true ∧
        t.fld Fld.HIF_ERR_QUEUE u.fn.index = q ∧ s.Posts t u .configHostMemory 0 0 ∧ t.allocWait = []) ∧
    (∀ (slot n : Nat) (q : Req), q.sq = some n → n < 64 → s.doeUp q.fn = true → q.part < 16 → s.Open q.fn n → q.phase = .generating →
      q.emit = none → ∃ t, exec (.hostDmaError q.fn n q.tag) { s with reqs := [(slot, q)] } = .next t ∧
        t.flag Fld.HIF_ERR_DMA_ERR q.fn.index = true ∧ t.fld Fld.HIF_ERR_QUEUE q.fn.index = n ∧
        State.Ended { s with reqs := [(slot, q)] } t slot q .configHostMemory)

/-- What the DOE mailbox answers (R648, R693): a quote of its purpose with the host's nonce, a status, or an empty object; the bounce
keys are in force from BB_CONFIRM on, and a tag that does not check leaves those in force as they are.
Complete, each with its own effect: doeDiscovery, doeHostReport, bbAsk, bbConfirm. -/
def Obligations.Attestation : Prop :=
  ∀ (s : State) (f : Fn), s.Calm → s.doeUp f = true →
    exec (.doeDiscovery f true) s = .next { s with out := .doe f none .ok :: s.out } ∧
    exec (.doeDiscovery f false) s = .next { s with out := .doeEmpty f :: s.out } ∧
    (∀ n : Nat, ∃ q, exec (.doeHostReport f n) s = .next { s with out := .doe f (some q) .ok :: s.out,
                                                                   sec := { s.sec with quotes := s.sec.quotes + 1 } } ∧
      q.purpose = 4 ∧ q.nonce = n ∧ q.part = s.partOfFn f ∧ q.peerId = s.sec.fuses.peerId ∧
      q.hwType = s.fld Fld.GLB_HW_HW_TYPE ∧ q.frozen = s.sec.frozen ∧
      q.alarmCount = s.sec.fuses.alarmCount ∧ q.rollback = s.boot.fired.rollback ∧ q.number = s.sec.quotes + 1) ∧
    (∀ n : Nat, ∃ q, exec (.bbAsk f n) s = .next { s with
        out := .doe f (some q) .ok :: s.out, sec := { s.sec with quotes := s.sec.quotes + 1 },
        bounce := s.bounce.set f.index { s.bounceOf f with quote := some q.number } } ∧
      q.purpose = 3 ∧ q.nonce = n ∧ q.part = s.partOfFn f ∧ q.hwType = s.fld Fld.GLB_HW_HW_TYPE) ∧
    ((s.bounceOf f).quote ≠ none → exec (.bbConfirm f true) s = .next { s with
      out := .doe f none .ok :: s.out, bounce := s.bounce.set f.index ⟨none, true, 0, 0, [0]⟩ }) ∧
    exec (.bbConfirm f false) s = .next { s with
      out := .doe f none .securityBounceAuth :: s.out, bounce := s.bounce.set f.index { s.bounceOf f with quote := none } }

-- Solvor links (16, 18) --------------------------------------------------------------------------------------------------------------------

/-- How a port trains, opens and closes (R534, R535, R539, R548, R551): the orders of training, the second attempt at generation 1, the
retraining of a port that is DOWN, HELLO, and a DOWN of the peer, which is recorded as an error of source 7.
Complete, each with its own effect: trainSignalDetected, trainEqualised, trainGroupLock, trainTimeout, retrainTimer, hello, linkDownWord. -/
def Obligations.LinkTraining : Prop :=
  ∀ (s : State) (n : Nat) (x : Port), s.Calm → s.awake = true → s.ports.get? n = some x →
    (∀ l : Nat, x.state = .train → x.order = 1 → 8 ≤ (bitPositions l 9).length →
      exec (.trainSignalDetected n l) s = .next { s with ports := s.ports.set n { x with order := 2, rxGood := l % 512 } }) ∧
    (∀ a b : Nat, x.state = .train → x.order = 2 → 8 ≤ (bitPositions a 9).length → 8 ≤ (bitPositions b 9).length →
      exec (.trainEqualised n a b) s = .next { s with ports := s.ports.set n { x with
        state := .align, order := 4, txGood := a % 512, rxGood := b % 512, txMap := (bitPositions a 9).take 8,
        rxMap := (bitPositions b 9).take 8, txSpare := (bitPositions a 9).length == 9, rxSpare := (bitPositions b 9).length == 9 } }) ∧
    (x.state = .align → x.order = 4 → x.words = [] →
      exec (.trainGroupLock n) s = .next { s with ports := s.ports.set n { x with order := 5, words := [helloWord] } }) ∧
    (x.state = .train → x.order ≤ 2 → x.second = false →
      exec (.trainTimeout n) s = .next { s with ports := s.ports.set n { x with
        order := 1, gen := 1, second := true, helloIn := false, helloAcked := false } }) ∧
    (x.state = .align → x.order = 5 → x.keys.length ≤ 1 → s.peersOn n = [] → s.boot.phase = .ready →
      exec (.trainTimeout n) s = .next { s with
        ports := s.ports.set n { x.restart 0 .down with leftDown := x.leftDown || false }
        sec := { s.sec with hops := s.sec.hops.filter (fun h => h.1 != n) } }) ∧
    (x.state = .down → x.leftDown = false → s.flag Fld.LNK_CFG_ENABLE n = true → s.boot.phase = .ready →
      exec (.retrainTimer n) s = .next { s with ports := s.ports.set n { x with
        state := .train, order := 1, gen := s.genMax n, second := false, helloIn := false, helloAcked := false } }) ∧
    (∀ (g r : Nat) (l : List Nat), x.state = .align → x.order = 5 → l.length = 4 → (x.keys.getD 0x10 PortKey.none).txValid = false →
      exec (.hello n g l r) s = .next { s with ports := s.ports.set n { x with
        state := if x.helloAcked then .opened else .align, order := if x.helloAcked then 6 else 5,
        lastWord := some (.hello g l r), helloIn := true, adv := l, peerRetry := r } }) ∧
    (∀ r : Nat, x.state = .opened ∨ x.state = .sealed → s.peersOn n = [] → ∃ t, exec (.linkDownWord n r) s = .next t ∧
      t.ports = s.ports.set n { x.restart 0 .down with leftDown := x.leftDown || false } ∧ s.Logs t .uc 7 none n r ∧
      t.sec = { s.sec with hops := s.sec.hops.filter (fun h => h.1 != n) } ∧
      t = { s with err := t.err, aon := t.aon, freeCtr := t.freeCtr, regs := t.regs, out := t.out, ports := t.ports, sec := t.sec })

/-- What becomes of lanes (R536 to R538): a retired lane's logical lane moves to the spare and the port recovers; a spare that fails is
no spare; a recovery resends what is not acknowledged, or training starts again.
Complete, each with its own effect: laneRetire, laneErrorWindow, laneSignalLoss, spareMonitorFail, recoveryDone, recoveryTimeout. -/
def Obligations.LinkLanes : Prop :=
  ∀ (s : State) (n : Nat) (x : Port), s.Calm → s.awake = true → s.ports.get? n = some x →
    (∀ (l sp : Nat) (c : Instr), x.state = .opened ∨ x.state = .sealed → l ≤ 8 → bitOf x.rxGood l = true → l ∈ x.rxMap →
      x.rxSpare = true → (bitPositions x.rxGood 9).filter (fun k => !(x.rxMap.contains k)) = [sp] →
      c = .laneSignalLoss n l ∨ c = .laneRetire n l → ∃ t, exec c s = .next t ∧
        t.ports = s.ports.set n { x with rxGood := x.rxGood - 2 ^ l, rxSpare := false,
                                         rxMap := x.rxMap.map (fun k => if k = l then sp else k), state := .recovery, prior := x.state } ∧
        t = { s with err := t.err, aon := t.aon, freeCtr := t.freeCtr, regs := t.regs, out := t.out, ports := t.ports }) ∧
    (∀ (l sp : Nat) (cs : List Nat), x.state = .opened ∨ x.state = .sealed → bitOf x.rxGood l = true → l ∈ x.rxMap →
      x.rxSpare = true → (bitPositions x.rxGood 9).filter (fun k => !(x.rxMap.contains k)) = [sp] →
      (∃ (k i : Nat), ((cs.take 8).zipIdx).find? (fun c => decide (s.fld Fld.LNK_CFG_LANE_BAD n ≤ c.1)) = some (k, i) ∧ x.rxMap[i]? = some l) →
      ∃ t, exec (.laneErrorWindow n cs) s = .next t ∧
        t.ports = s.ports.set n { x with rxGood := x.rxGood - 2 ^ l, rxSpare := false,
                                         rxMap := x.rxMap.map (fun k => if k = l then sp else k), state := .recovery, prior := x.state } ∧
        t = { s with err := t.err, aon := t.aon, freeCtr := t.freeCtr, regs := t.regs, out := t.out, ports := t.ports }) ∧
    (∀ sp : Nat, x.up = true → x.rxSpare = true → (bitPositions x.rxGood 9).filter (fun k => !(x.rxMap.contains k)) = [sp] →
      exec (.spareMonitorFail n) s = .next { s with ports := s.ports.set n { x with rxSpare := false, rxGood := x.rxGood - 2 ^ sp } }) ∧
    (x.state = .recovery → exec (.recoveryDone n) s = .next { s with
      ports := s.ports.set n { x with state := x.prior, resend := x.retry.length, rewinds := 0 } }) ∧
    (x.state = .recovery → exec (.recoveryTimeout n) s = .next { s with ports := s.ports.set n { x with
      resend := x.retry.length, state := .train, order := 1, gen := s.genMax n, second := false, helloIn := false, helloAcked := false } })

/-- How keys change (R563, R564, R566): a rekey of a valid key but the zero key begins at its mark, at the peer's ask or at PF0's write of
LNK_REKEY; REKEY_READY takes the transmitter to the new phase, from counter 0, and the first of the link key seals the port.
Complete, each with its own effect: lnkRekeyGo, rekeyReady, rekeyAsk, rekeyMarkReached. -/
def Obligations.LinkKeys : Prop :=
  ∀ (s : State) (n i : Nat) (x : Port) (k : PortKey), s.Calm → s.awake = true → s.ports.get? n = some x → x.keys.get? i = some k →
    (k.txValid = true → k.rekeying = false → i ≠ 0x1F →
      (s.flowing n = true → exec (.rekeyAsk n i) s = .next { s with
        ports := s.ports.set n { x with keys := x.keys.set i { k with rekeying := true } } }) ∧
      (zeroActsAs (s.fld Fld.LNK_REKEY_AT_AT n) 240 * 2 ^ 32 ≤ k.txCtr → exec (.rekeyMarkReached n i) s = .next { s with
        ports := s.ports.set n { x with keys := x.keys.set i { k with rekeying := true } } }) ∧
      (∀ f : Fn, f.isPf = true → s.doeUp f = true → i < 32 → exec (.lnkRekeyGo f n i) s = .next { s with
        ports := s.ports.set n { x with keys := x.keys.set i { k with rekeying := true } } })) ∧
    (∀ ph : Nat, s.flowing n = true → k.rekeying = true → ph = (if k.txValid then (k.txPhase + 1) % 2 else k.txPhase) →
      ∃ t, exec (.rekeyReady n i ph) s = .next t ∧
        t.ports = s.ports.set n { x with
          keys := x.keys.set i { k with txValid := true, txPhase := ph, txCtr := 0, rekeying := false },
          state := if i = 0x10 ∧ x.state = .opened then .sealed else x.state,
          prior := if i = 0x10 ∧ x.prior = .opened then .sealed else x.prior } ∧
        t.fld Fld.LNK_REKEYS_COUNT n = (s.fld Fld.LNK_REKEYS_COUNT n + 1) % 2 ^ 32 ∧ t = { s with ports := t.ports, regs := t.regs })

/-- What a group does on arrival and on departure (R544, R553 to R558): accepted in order under a valid key with a good tag and a
fresh counter; rejected with a NAK out of order; counted where damaged or where its tag fails; ignored where it has been accepted
before. An OPEN port with nothing to send sends an empty group under the zero key, and unacknowledged groups go again after a rewind.
How many codewords of a damaged group count is open (log entry 23), and that an accepted group's flits are freed with it is the model's
reading (log entry 47).
Complete, each with its own effect: groupArrival, groupTransmit, nakResendTimeout, retryRewindTimeout. -/
def Obligations.LinkGroups : Prop :=
  ∀ (s : State) (n : Nat) (x : Port), s.Calm → s.awake = true → s.ports.get? n = some x → s.flowing n = true →
    (∀ (g : RxGroup) (k : PortKey), x.state = .sealed → g.marker = true → g.damaged = false → g.gseq = x.expect → x.expect < 2 ^ 32 →
      x.keys.get? g.key = some k → k.rxValid = true → g.tagOk = true → (g.phase = k.rxPhase → ∀ c, k.rxLast = some c → c < g.ctr) →
      g.word = none → g.nak = false →
      ∃ t y, exec (.groupArrival n g) s = .next t ∧ t.ports.get? n = some y ∧ y.expect = (x.expect + 1) % 2 ^ 32 ∧
        y.keys = x.keys.set g.key { k with rxPhase := g.phase, rxLast := some g.ctr } ∧ y.nakOut = false ∧ y.nakDue = false ∧
        y.tagFails = 0 ∧ y.state = .sealed ∧
        t = { s with ports := t.ports, regs := t.regs, pmc := t.pmc, out := t.out }) ∧
    (∀ g : RxGroup, g.marker = true → g.damaged = false → epochNewer x.expect g.gseq = false → g.gseq ≠ x.expect →
      exec (.groupArrival n g) s = .next { s with ports := s.ports.set n { x with nakDue := x.nakDue || !x.nakOut } }) ∧
    (∀ g : RxGroup, g.marker = true → g.damaged = false → epochNewer x.expect g.gseq = true →
      exec (.groupArrival n g) s = .next s) ∧
    (∀ g : RxGroup, g.marker = true → g.damaged = true → ∃ t, exec (.groupArrival n g) s = .next t ∧
      t.ports = s.ports.set n { x with nakDue := x.nakDue || !x.nakOut } ∧
      t = { s with ports := t.ports, regs := t.regs, freeCtr := t.freeCtr }) ∧
    (x.state = .opened → x.resend = 0 → x.mgmt = [] → x.retry.length < Nat.min 128 x.peerRetry → x.keyReady 0x1F = true →
      ∀ k : PortKey, x.keys.get? 0x1F = some k → ∀ now, exec (.groupTransmit n now) s = .next { s with
        ports := s.ports.set n { x with
          nextSeq := (x.nextSeq + 1) % 2 ^ 32, retry := x.retry ++ [⟨x.nextSeq, 0x1F, emptySlots, x.words.head?⟩],
          keys := x.keys.set 0x1F { k with txCtr := k.txCtr + 15 }, nakDue := false, nakOut := x.nakOut || x.nakDue },
        out := .link n ⟨x.nextSeq, 0x1F, emptySlots, x.words.head?⟩ k.txPhase k.txCtr ((x.expect + 2 ^ 32 - 1) % 2 ^ 32) x.nakDue x.freedOut
          :: s.out }) ∧
    (x.nakOut = true → exec (.nakResendTimeout n) s = .next { s with ports := s.ports.set n { x with nakOut := false, nakDue := true } }) ∧
    (x.retry ≠ [] → x.rewinds + 1 < zeroActsAs (s.fld Fld.LNK_RETRY_CFG_RETRY_MAX n) 1 → ∃ t, exec (.retryRewindTimeout n) s = .next t ∧
      t.ports = s.ports.set n { x with resend := x.retry.length, rewinds := x.rewinds + 1 } ∧
      t.fld Fld.LNK_RETRIES_COUNT n = (s.fld Fld.LNK_RETRIES_COUNT n + 1) % 2 ^ 32 ∧ t = { s with ports := t.ports, regs := t.regs })

/-- What the egress scheduler's clocks do (R617 to R624, R754): a refill adds RATE, at most up to BURST; a gate entry gives way to the
next, cyclically, and while the gates are on the started messages of a class whose window closes count as split; a switch is checked and waits for the end of the cycle; a bandwidth window leaves its bytes in PMC_BW.
Complete, each with its own effect: egrSwitch, shaperRefill, gateEntryExpiry, pmcBwWindowEnd. -/
def Obligations.EgressClocks : Prop :=
  ∀ (s : State) (n : Nat) (x : Port), s.Calm → s.awake = true → s.ports.get? n = some x →
    (exec (.shaperRefill n) s = .next { s with ports := s.ports.set n { x with
      rates := [s.fld Fld.EGR_SHAPER_RATE n 0, s.fld Fld.EGR_SHAPER_RATE n 1, s.fld Fld.EGR_SHAPER_RATE n 2],
      tokens := [0, 1, 2].map (fun c =>
        Nat.min (zeroActsAs (s.fld Fld.EGR_SHAPER_BURST n c) 1 * 256)
          (Nat.min (zeroActsAs (s.fld Fld.EGR_SHAPER_BURST n c) 1 * 256) (nthD x.tokens c 0) + s.fld Fld.EGR_SHAPER_RATE n c)) } }) ∧
    (s.activeList n ≠ [] → s.flag Fld.EGR_CFG_SWITCH n = false → s.fld Fld.EGR_CFG_GATES_ON n = 0 →
      exec (.gateEntryExpiry n) s = .next { s with ports := s.ports.set n { x with
        gateAt := if (s.activeList n).length ≤ x.gateAt + 1 then 0 else x.gateAt + 1 } }) ∧
    (s.activeList n ≠ [] → s.flag Fld.EGR_CFG_SWITCH n = true → s.fld Fld.EGR_CFG_GATES_ON n = 0 →
      (s.activeList n).length ≤ x.gateAt + 1 → ∃ t, exec (.gateEntryExpiry n) s = .next t ∧
        t.fld Fld.EGR_CFG_ACTIVE n = 1 - s.fld Fld.EGR_CFG_ACTIVE n ∧ t.fld Fld.EGR_CFG_SWITCH n = 0 ∧
        t = { s with regs := t.regs, ports := s.ports.set n { x with gateAt := 0 } }) ∧
    (∃ t, exec (.pmcBwWindowEnd n) s = .next t ∧ t.pmcFld Fld.PMC_BW_TX_BYTES n = x.bwTx % 2 ^ 32 ∧ t.pmcFld Fld.PMC_BW_RX_BYTES n = x.bwRx % 2 ^ 32 ∧
      t = { s with pmc := t.pmc, ports := s.ports.set n { x with bwTx := 0, bwRx := 0 } }) ∧
    (∀ f : Fn, f.isPf = true → s.doeUp f = true → n < 8 → s.listOk n (1 - s.fld Fld.EGR_CFG_ACTIVE n) = true → s.activeList n ≠ [] →
      ∃ t, exec (.egrSwitch f n) s = .next t ∧ t.flag Fld.EGR_CFG_SWITCH n = true ∧ t.fld Fld.EGR_CFG_ACTIVE n = s.fld Fld.EGR_CFG_ACTIVE n ∧
        t = { s with regs := t.regs }) ∧
    (∀ f : Fn, f.isPf = true → s.doeUp f = true → n < 8 → s.listOk n (1 - s.fld Fld.EGR_CFG_ACTIVE n) = false →
      ∃ t, exec (.egrSwitch f n) s = .next t ∧ t.flag Fld.EGR_CFG_LIST_ERR n = true ∧ t.flag Fld.EGR_CFG_SWITCH n = false ∧
        t = { s with regs := t.regs }) ∧
    (∀ (a b : Nat × Nat) (k : Nat) (shuts : CtxClass → Bool), s.flag Fld.EGR_CFG_SWITCH n = false → s.fld Fld.EGR_CFG_GATES_ON n ≠ 0 →
      k = (if (s.activeList n).length ≤ x.gateAt + 1 then 0 else x.gateAt + 1) → (s.activeList n)[x.gateAt]? = some a → (s.activeList n)[k]? = some b →
      (∀ c, shuts c = (bitOf a.2 c.code && !(bitOf b.2 c.code))) → ∃ t, exec (.gateEntryExpiry n) s = .next t ∧
        t.fld Fld.EGR_GATE_SPLITS_COUNT n =
          (s.fld Fld.EGR_GATE_SPLITS_COUNT n + (([CtxClass.lc, CtxClass.be, CtxClass.bg].filter shuts).map x.startedOf).sum) % 2 ^ 32 ∧
        t = { s with regs := t.regs, ports := s.ports.set n { x with gateAt := k, flows := x.flows.map (fun (f : Nat × List Flow) =>
          (f.1, f.2.map (fun w => if shuts w.m.cls = true then { w with waited := false } else w))) } })

-- Messages and peers (17) ------------------------------------------------------------------------------------------------------------------

/-- What every message meets first (R568, R573, R591): one at a port that carries none has no effect; one for another address is dropped and
counted; a malformed one is dropped, counted and, where its type has an answer, answered with PEER/malformed; one of an endpoint
without an admitted entry is answered with REHANDSHAKE. A message of a type that its sender's role does not send, or of a partition
that its sender is not admitted for, is treated as malformed, which is the model's choice (log entry 72). -/
def Obligations.MessageChecks : Prop :=
  ∀ (s : State) (c : Instr) (h : Hdr) (type : Nat) (resp : Bool) (size : Option Nat), s.Calm → s.awake = true →
  messageOf c s = some (h, type, resp, size) →
    (s.carries h = false → exec c s = .next s) ∧
    (s.carries h = true → h.dst ≠ s.fld Fld.CMP_SELF_FABRIC → ∃ t, exec c s = .next t ∧
      t.fld Fld.CMP_MALFORMED_COUNT = (s.fld Fld.CMP_MALFORMED_COUNT + 1) % 2 ^ 32 ∧ t = { s with regs := t.regs }) ∧
    (s.carries h = true → h.dst = s.fld Fld.CMP_SELF_FABRIC →
      (h.malformed type resp (s.linkKey h.port) size = true ∨ ∃ i p, s.peerOfSrc h.src = some (i, p) ∧
        (roleSends type resp p.device = false ∨ (type < 9 ∧ bitOf p.parts h.part = false))) → ∃ t, exec c s = .next t ∧
      t.fld Fld.CMP_MALFORMED_COUNT = (s.fld Fld.CMP_MALFORMED_COUNT + 1) % 2 ^ 32 ∧
      (if typeAnswered type && !resp then s.Says t h.port (h.reply (.malformed type)) .bg else t.ports = s.ports) ∧
      t = { s with regs := t.regs, ports := t.ports }) ∧
    (s.carries h = true → h.dst = s.fld Fld.CMP_SELF_FABRIC → h.malformed type resp (s.linkKey h.port) size = false →
      s.peerOfSrc h.src = none → ∃ t, exec c s = .next t ∧
      s.Says t h.port (h.reply (.rehandshake type h.tag)) .bg ∧ t = { s with ports := t.ports })

/-- What the management messages of a peer do (R586, R587, R589, R591, R592): a PING is answered; a peer is lost by LEAVE or after three
unanswered PINGs; a key revoke drops what is under the key before it is answered; REHANDSHAKE returns a peer to admission, which is the
model's reading (log entry 55).
Complete, each with its own effect: rehandshake, leave, ping, pingResponse, pingTimer, keyRevoke. -/
def Obligations.PeerMessages : Prop :=
  ∀ (s : State) (h : Hdr) (i : Nat) (p : Peer), s.Calm → s.awake = true →
    (s.Hears h 9 false (some 36) i p → ∃ t, exec (.ping h) s = .next t ∧ s.Says t h.port (h.reply (.ping true)) .bg ∧ s.Seen t i p ∧
      t = { s with ports := t.ports, peers := t.peers, aon := t.aon, freeCtr := t.freeCtr }) ∧
    (s.Hears h 9 true (some 36) i p → ∃ t, exec (.pingResponse h) s = .next t ∧ s.Seen t i p ∧
      t = { s with peers := t.peers, aon := t.aon, freeCtr := t.freeCtr }) ∧
    (∀ x : Port, s.peers.get? i = some p → p.state = .admitted → p.pings < 3 → s.ports.get? p.port = some x → x.up = true →
      ∃ t, exec (.pingTimer i) s = .next t ∧ s.Says t p.port ⟨p.fabric, 0, 0, 0, 0, 0, .ping false⟩ .bg ∧
        t = { s with ports := t.ports, peers := s.peers.set i { p with pings := p.pings + 1 } }) ∧
    (s.Idle → s.peers.get? i = some p → p.state = .admitted → 3 ≤ p.pings → p.asks = [] →
      exec (.pingTimer i) s = .next { s with
        peers := s.peers.erase i, sec := { s.sec with hops := s.sec.hops.filter (fun k => k != (p.port, p.fabric)) } }) ∧
    (s.Idle → s.Hears h 9 false (some 36) i p → p.asks = [] → ∃ t, exec (.leave h) s = .next t ∧ t.peers.get? i = none ∧
      (∀ j, j ≠ i → t.peers.get? j = s.peers.get? j) ∧
      t.sec = { s.sec with hops := s.sec.hops.filter (fun k => k != (p.port, p.fabric)) } ∧
      t = { s with peers := t.peers, sec := t.sec, aon := t.aon, freeCtr := t.freeCtr }) ∧
    (∀ k e : Nat, s.Hears h 10 false (some 40) i p → k < 16 → ∃ t x y, exec (.keyRevoke h k e) s = .next t ∧ s.ports.get? h.port = some x ∧
      t.ports.get? h.port = some y ∧ y.keys.get? k = none ∧ (∀ j, j ≠ k → y.keys.get? j = x.keys.get? j) ∧
      (∀ st ∈ y.rxOpen, st.1 ≠ k) ∧
      y.mgmt = x.mgmt ++ [⟨h.reply (.keyRevoke k e true), 0, true, .bg, 40, 0⟩] ∧ (∀ j, j ≠ h.port → t.ports.get? j = s.ports.get? j) ∧
      s.Seen t i p ∧ t = { s with ports := t.ports, peers := t.peers, aon := t.aon, freeCtr := t.freeCtr }) ∧
    (∀ (ty tag : Nat) (x : Port), s.Hears h 8 false (some 44) i p → s.ports.get? p.port = some x → x.up = true →
      ∃ t n, exec (.rehandshake h ty tag) s = .next t ∧ s.Says t p.port ⟨p.fabric, 0, 0, 0, 0, 0, .admitAsk p.parts n⟩ .bg ∧
      t.peers = s.peers.set i { p with state := .admitting, mine := true, gotQuote := false, nonces := [n], lastUse := t.aon, pings := 0 } ∧
      t = { s with ports := t.ports, peers := t.peers, aon := t.aon, freeCtr := t.freeCtr })

/-- How a peer is admitted (R588, R640, R642): an ask reserves an entry, joins the admission of its endpoint that is under way, or is refused
where the table is full, and the asker is answered with a quote over its nonce; a quote that verifies installs the partition keys that
its hop lacks, marks the entry ADMITTED and is answered with ADMIT_DONE, by the initiator after its own quote; one that does not verify
frees the entry, installs nothing and counts; a confirmation completes the admission; without both quotes in time the entry is free
again. That the quote is device-wide is the model's choice (log entry 72).
Complete, each with its own effect: admitAsk, admitQuote, admitDone, admitTimeout. -/
def Obligations.Admission : Prop :=
  ∀ (s : State) (h : Hdr), s.Calm → s.awake = true →
    (∀ (id : Word64) (role parts nonce : Nat), s.Brings h 84 →
      (∀ i, role < 2 → s.admitting h.src = none → (List.range 1024).find? (fun j => !(s.peers.has j)) = some i →
        ∃ t n q c, exec (.admitAsk h id role parts nonce) s = .next t ∧ s.Says t h.port (h.reply (.admitQuote n q c)) .bg ∧
          q.purpose = 1 ∧ q.nonce = nonce ∧ q.part = none ∧ q.peerId = s.sec.fuses.peerId ∧
          t.peers = s.peers.set i ⟨id, .admitting, role == 1, h.port, parts % 65536, h.src, s.aon, 0, false, false, [], [n]⟩ ∧
          t = { s with ports := t.ports, peers := t.peers, freeCtr := t.freeCtr, sec := { s.sec with quotes := s.sec.quotes + 1 } }) ∧
      (∀ i x, role < 2 → s.admitting h.src = some (i, x) → s.peers.get? i = some x →
        ∃ t n q c, exec (.admitAsk h id role parts nonce) s = .next t ∧ s.Says t h.port (h.reply (.admitQuote n q c)) .bg ∧
          q.purpose = 1 ∧ q.nonce = nonce ∧ q.part = none ∧
          t.peers = s.peers.set i { x with id := id, device := role == 1, parts := x.parts ||| parts % 65536, port := h.port,
                                           nonces := x.nonces ++ [n] } ∧
          t = { s with ports := t.ports, peers := t.peers, freeCtr := t.freeCtr, sec := { s.sec with quotes := s.sec.quotes + 1 } }) ∧
      (role = 2 → ∃ t n q c, exec (.admitAsk h id role parts nonce) s = .next t ∧ s.Says t h.port (h.reply (.admitQuote n q c)) .bg ∧
          q.purpose = 1 ∧ q.nonce = nonce ∧ q.part = none ∧
          t.peers = s.peers.set (1024 + h.port) ⟨id, .admitting, false, h.port, 0, h.src, s.aon, 0, false, false, [], [n]⟩ ∧
          t = { s with ports := t.ports, peers := t.peers, freeCtr := t.freeCtr, sec := { s.sec with quotes := s.sec.quotes + 1 } }) ∧
      (role < 2 → s.admitting h.src = none → s.newEntry = none → ∃ t, exec (.admitAsk h id role parts nonce) s = .next t ∧
          s.Says t h.port (h.reply (.admitDone .peerTableFull)) .bg ∧ t = { s with ports := t.ports })) ∧
    (∀ (id : Word64) (d : Bool) (q : PeerQuote) (next i : Nat) (x : Peer), s.Brings h (552 + q.akLen + q.dikLen) → q.akLen ≤ 2048 →
      q.dikLen ≤ 2048 → s.admitting h.src = some (i, x) → s.peers.get? i = some x →
      (s.quotePasses i x q = false → x.asks = [] → s.sec.fails = [] → 1 < s.fld Fld.SEC_ALARM_POLICY_ATTEST_LIMIT →
        ∃ t, exec (.admitQuote h id d q next) s = .next t ∧ t.peers = s.peers.erase i ∧
          s.Says t h.port (h.reply (.admitDone .securityAttestation)) .bg ∧ t.sec = { s.sec with fails := [t.aon], raw := t.sec.raw } ∧
          t.fld Fld.CMP_ATTEST_FAILS_COUNT = (s.fld Fld.CMP_ATTEST_FAILS_COUNT + 1) % 2 ^ 32 ∧
          t = { s with peers := t.peers, ports := t.ports, regs := t.regs, sec := t.sec, aon := t.aon, freeCtr := t.freeCtr }) ∧
      (∀ g y, s.quotePasses i x q = true → i < 1024 → g = x.parts &&& s.portParts h.port → s.ports.get? h.port = some y →
        s.peers.find? (fun kv => kv.1 != i && kv.2.id == id && kv.2.state == .admitted) = none →
        s.sec.hops.any (fun k => k.1 == h.port) = true → ∃ t z r, exec (.admitQuote h id d q next) s = .next t ∧
          t.peers = s.peers.set i { x with id := id, device := d || x.device, state := .admitted, port := h.port, parts := g,
                                           gotQuote := true, lastUse := s.aon } ∧
          t.ports = s.ports.set h.port z ∧ z = { y with keys := z.keys, mgmt := z.mgmt } ∧
          (∀ k, k < 16 → bitOf g k = true → z.keys.has k = true) ∧ (∀ k v, y.keys.get? k = some v → z.keys.get? k = some v) ∧
          (∀ k, (16 ≤ k ∨ bitOf g k = false) → z.keys.get? k = y.keys.get? k) ∧
          z.mgmt = y.mgmt ++ r ++ [⟨h.reply (.admitDone .ok), 0, true, .bg, 52, 0⟩] ∧
          (if x.mine then ∃ n o c, r = [⟨h.reply (.admitQuote n o c), 0, true, .bg, 72 + c, 0⟩] ∧ o.purpose = 1 ∧ o.nonce = next
            else r = []) ∧
          t = { s with ports := t.ports, peers := t.peers, freeCtr := t.freeCtr,
                       sec := { s.sec with quotes := s.sec.quotes + (if x.mine then 1 else 0) } })) ∧
    (∀ (i : Nat) (x : Peer), s.Brings h 52 → s.peerOfSrc h.src = some (i, x) → s.peers.get? i = some x → x.gotQuote = true → x.asks = [] →
      ∃ t, exec (.admitDone h true) s = .next t ∧
        t.peers = s.peers.set i { x with asks := [], gotQuote := false, lastUse := t.aon, pings := 0 } ∧
        t = { s with peers := t.peers, aon := t.aon, freeCtr := t.freeCtr }) ∧
    (∀ (i : Nat) (x : Peer), s.peers.get? i = some x → x.state = .admitting → x.asks = [] →
      exec (.admitTimeout i) s = .next { s with peers := s.peers.erase i, freeCtr := s.freeCtr + 1 })

-- Partitions reset and removed (10, 19) --------------------------------------------------------------------------------------------------------

/-- How a partition is reset, and how its cores stop and clear (R218, R224, R331, R332), in a device without commands: a reset releases
every slot, zeroes every frame but those of the report ring, forgets prefixes, grammars and collections, takes the partition's weight
and checkpoint keys and clears every core of the partition; it ends when the last core has cleared, at once where the partition has
none; a core that was to stop and has reached the end of an instruction runs nothing.
Complete, each with its own effect: partReset, coreStopped, freshMapClearDone. -/
def Obligations.PartitionReset : Prop :=
  ∀ s : State,
    (∀ (u : Sub) (p : Nat), s.Idle → s.Takes u .partReset → s.subPart u = p → s.allPosted p = true →
      (∀ e c, s.cores.get? e = some c → c.running = none) → ∃ t, exec (.partReset u) s = .next t ∧
        (if s.coresOf p = [] then s.Posts t u .ok 0 0 ∧ t.resets = [] else ∃ r, t.resets = [(p, r)] ∧ r.order = 6 ∧ r.cores = s.coresOf p) ∧
        (∀ k, s.inRange p k = true → t.ses k = Session.free) ∧ (∀ k, s.inRange p k = false → t.ses k = s.ses k) ∧
        (∀ n f, (n, f) ∈ t.tileFrames → f.owner = p → f.state = .zeroing) ∧
        (∀ n f, (n, f) ∈ t.mortarFrames → f.owner = p → f.state = .zeroing ∨ f.backref = 0xFFFFFFFF) ∧
        (∀ kv ∈ t.prefixes, kv.1.1 ≠ p) ∧ (∀ kv ∈ t.grammars, kv.1.1 ≠ p) ∧ (∀ kv ∈ t.colls, kv.2.part ≠ p) ∧
        (∀ kv ∈ t.sec.slots, kv.2.owner = some p → kv.2.kind = 2 ∨ kv.2.kind = 3 → kv.2.state ≠ .loaded) ∧
        (∀ e c, e ∈ s.coresOf p → t.cores.get? e = some c → c.clearing = true) ∧
        t.ctxs = s.ctxs ∧ t.peers = s.peers ∧ t.ckp = s.ckp) ∧
    (∀ (p e : Nat) (c : Core) (r : ResetRun) (u : Sub) (q : Nat), State.Idle { s with resets := [] } → s.awake = true →
      s.resets = [(p, r)] → r.order = 6 → r.cores = [e] → r.fn = u.fn → r.sq = some q → u.sq = some q → r.tag = u.tag → s.Open u.fn q →
      s.cores.get? e = some c → c.owner = some p → c.clearing = true → c.queue = [] → c.paused = [] →
      ∃ t k, exec (.freshMapClearDone e) s = .next t ∧ s.Posts t u .ok 0 0 ∧ t.resets = [] ∧ t.cores.get? e = some k ∧
        k.clearing = false ∧ (∀ a, t.tiles.get? (.store e a) = none) ∧ p ∉ t.err.fatal ∧ t.sessions = s.sessions ∧
        t.tileFrames = s.tileFrames) ∧
    (∀ (e : Nat) (c : Core), s.Idle → s.awake = true → s.cores.get? e = some c → c.stopping = true → c.queue = [] → c.paused = [] →
      exec (.coreStopped e) s = .next { s with cores := s.cores.set e { c with stopping := false, running := none } })

/-- How a tenant is removed (R655, R662 to R664, R587), in a device without commands: the record's SEQ and the new epoch stand in the
vault with the mark; the partition's keys go from every port and every peer admitted for it that a port reaches is told; an answer
counts; a peer that does not answer loses its admission, and then every frame of the partition goes to ZEROING and every slot is
free.
Complete, each with its own effect: partRemove, keyRevokeResponse, revokeTimeout. -/
def Obligations.TenantRemoval : Prop :=
  ∀ (s : State) (p : Nat),
    (∀ (u : Sub) (r : ChangeRec), s.Idle → s.Takes u (.partRemove r) → s.subPart u = p → s.recordFails r false = none → r.kind = 7 →
      r.part = p → s.allPosted p = true → (∀ e c, s.cores.get? e = some c → c.running = none) →
      s.peers.filter (fun kv => kv.2.state == .admitted && bitOf kv.2.parts p) ≠ [] → ∃ t x, exec (.partRemove u r) s = .next t ∧
        t.removals = [(p, x)] ∧ x.order = 3 ∧
        x.waiting = (s.peers.filter (fun kv => kv.2.state == .admitted && bitOf kv.2.parts p)).map (·.1) ∧
        t.sec.changeSeq = Nat.max s.sec.changeSeq r.seq ∧ t.epochOf p = s.epochOf p + 1 ∧ t.sec.marks.get? p = some (r.seq, r.id) ∧
        (∀ n y, t.ports.get? n = some y → y.keys.get? p = none) ∧
        (∀ i y n z, i ∈ x.waiting → s.peers.get? i = some y → y.port = n → s.ports.get? n = some z → z.up = true → ∃ v, t.ports.get? n = some v ∧
          ⟨⟨y.fabric, p, 0, 0, 0, 0, .keyRevoke p (s.epochOf p + 1) false⟩, 0, true, .bg, 40, 0⟩ ∈ v.mgmt) ∧
        t.sessions = s.sessions ∧ t.tileFrames = s.tileFrames ∧ t.mortarFrames = s.mortarFrames ∧ t.qry = s.qry ∧ t.flash = s.flash) ∧
    (∀ (h : Hdr) (i : Nat) (y : Peer) (x : Removal), State.Idle { s with removals := [] } → s.awake = true → s.removals = [(p, x)] →
      x.part = p → x.order = 3 → s.Hears h 10 true (some 40) i y → i ∈ x.waiting → (∃ j ∈ x.waiting, j ≠ i) →
      ∃ t, exec (.keyRevokeResponse h p) s = .next t ∧
        t.removals = [(p, { x with waiting := x.waiting.filter (fun j => j != i), revoked := x.revoked + 1 })] ∧
        s.Seen t i y ∧ t = { s with removals := t.removals, peers := t.peers, aon := t.aon, freeCtr := t.freeCtr }) ∧
    (∀ (i n : Nat) (y : Peer) (x : Removal) (f : Frame), State.Idle { s with removals := [] } → s.awake = true → s.removals = [(p, x)] →
      x.part = p → x.order = 3 → x.waiting = [i] → s.peers.get? i = some y → bitOf y.parts p = true → y.parts < 65536 →
      (n, f) ∈ s.tileFrames → f.owner = p → ∃ t z, exec (.revokeTimeout p) s = .next t ∧ t.removals = [(p, z)] ∧ z.order = 4 ∧
        z.lost = x.lost ++ [y.id] ∧ z.waiting = [] ∧ t.peers.get? i = some { y with parts := y.parts - 2 ^ p } ∧
        (∀ k v, (k, v) ∈ t.tileFrames → v.owner = p → v.state = .zeroing) ∧ (∀ k v, (k, v) ∈ t.mortarFrames → v.owner = p → v.state = .zeroing) ∧
        (∀ k, s.inRange p k = true → t.ses k = Session.free) ∧ (∀ k, s.inRange p k = false → t.ses k = s.ses k))

-- Attention and experts (04) --------------------------------------------------------------------------------------------------------------------

/-- How a slice is served (R127, R128, R137, R138, R147, R386): a slice that passes its checks and whose tiles are all present and sound has
its pending keys and values stored, is served head by head and answered with an output slice; one whose session shares a prefix opens a
batch instead; a stalled one is served when its last tile has come; a slice that fails a check is answered with the status and changes
nothing; a tile that was read is promoted to its home core's free place.
Complete, each with its own effect: queryMessage, tileAvailable, promotion. -/
def Obligations.AttentionService : Prop :=
  ∀ s : State, s.Calm → s.awake = true →
    (∀ (w : SliceWork) (q : Req) (c : CtxImage) (p : Peer) (x : Port), s.slices = [w] → w.stalled = true → s.req w.slot = some q → q.slot = w.slot →
      q.phase = .generating → s.modelOf q = some c → s.peers.get? w.peer = some p → s.ports.get? p.port = some x → x.up = true →
      (∀ kv ∈ sliceEntries (s.entriesOf q) c w.slice, s.Readable w.part kv.2) →
      ∃ t o q', exec (.tileAvailable w.slot) s = .next t ∧ t.slices = [] ∧ t.req w.slot = some q' ∧
        q'.served = q.served ++ (List.range' w.slice.kvFirst w.slice.kvCount).map (fun k => (w.slice.layer, k)) ∧
        s.Says t p.port ⟨p.fabric, w.part, q.epoch, q.comp, w.slice.handle, w.tag,
          .output ⟨w.slice.handle, w.slice.pos, w.slice.layer, w.slice.kvFirst, w.slice.kvCount, .ok, o, none⟩⟩ (s.ctxClass q.part q.model) ∧
        (∀ k, ∃ y, t.ses k = { s.ses k with sliceRead := y }) ∧
        t = { s with slices := [], reqs := t.reqs, sessions := t.sessions, tiles := t.tiles, regs := t.regs, pmc := t.pmc, out := t.out,
                     capSeq := t.capSeq, bounce := t.bounce, selfRefresh := t.selfRefresh, ports := t.ports }) ∧
    (∀ (h : Hdr) (i : Nat) (p : Peer) (sl : Slice) (q : Req) (c : CtxImage) (x : Port), s.Hears h 1 false (s.queryBytes h.handle [sl]) i p →
      sl.handle = h.handle → sl.epoch = h.epoch → s.checkSlice (some h) (some h.part) sl = .inr q → s.slices = [] → s.modelOf q = some c →
      q.slot = handleSlot h.handle → q.phase = .generating →
      (s.sliceKey q sl = none → s.ports.get? p.port = some x → x.up = true →
        (∀ kv ∈ sliceEntries (s.entriesOf q) c sl, s.Readable q.part kv.2) →
        ∃ t o q', exec (.queryMessage (some h) [sl]) s = .next t ∧ t.slices = [] ∧ t.req q.slot = some q' ∧
        q'.served = q.served ++ (List.range' sl.kvFirst sl.kvCount).map (fun k => (sl.layer, k)) ∧
        (∀ j k v, j < sl.kvCount → sl.k[j]? = some k → sl.v[j]? = some v → ∃ m, q'.pending.get? (sl.layer, sl.kvFirst + j) = some ⟨k, v, m⟩) ∧
        s.Says t p.port ⟨p.fabric, q.part, q.epoch, q.comp, h.handle, h.tag,
          .output ⟨h.handle, sl.pos, sl.layer, sl.kvFirst, sl.kvCount, .ok, o, none⟩⟩ (s.ctxClass q.part q.model) ∧
        (∀ k, ∃ y, t.ses k = { s.ses k with sliceRead := y }) ∧
        t = { s with reqs := t.reqs, sessions := t.sessions, tiles := t.tiles, regs := t.regs, pmc := t.pmc, out := t.out, capSeq := t.capSeq,
                     bounce := t.bounce, selfRefresh := t.selfRefresh, ports := t.ports, peers := t.peers, aon := t.aon, freeCtr := t.freeCtr }) ∧
      (∀ k, s.sliceKey q sl = some k → s.batchOf k = none → 1 < s.batchMax q.part → s.batches.get? s.nextBatch = none →
        ∃ t q', exec (.queryMessage (some h) [sl]) s = .next t ∧
        t.slices = [⟨q.slot, q.part, i, h.tag, sl, some s.nextBatch, false, s.massMode q.part⟩] ∧ t.req q.slot = some q' ∧
        (∀ j k v, j < sl.kvCount → sl.k[j]? = some k → sl.v[j]? = some v → q'.pending.get? (sl.layer, sl.kvFirst + j) = some ⟨k, v, 0⟩) ∧
        t = { s with slices := t.slices, reqs := t.reqs, batches := s.batches.set s.nextBatch ⟨k, []⟩, nextBatch := s.nextBatch + 1,
                     peers := t.peers, aon := t.aon, freeCtr := t.freeCtr })) ∧
    (∀ (h : Hdr) (i : Nat) (p : Peer) (sl : Slice) (st : Status) (x : Port), s.Hears h 1 false (s.queryBytes h.handle [sl]) i p →
      sl.handle = h.handle → sl.epoch = h.epoch →
      s.checkSlice (some h) (some h.part) sl = .inl st → s.forwardOf h.handle = none → s.ports.get? p.port = some x → x.up = true →
      ∃ t, exec (.queryMessage (some h) [sl]) s = .next t ∧
        s.Says t p.port ⟨p.fabric, h.part, h.epoch, h.comp, h.handle, h.tag,
          .output ⟨h.handle, sl.pos, sl.layer, sl.kvFirst, sl.kvCount, st, [], none⟩⟩ (s.classOfHandle h.handle) ∧
        t = { s with ports := t.ports, peers := t.peers, aon := t.aon, freeCtr := t.freeCtr }) ∧
    (∀ (slot k core o : Nat) (e : MEntry) (t0 : Tile), (s.ses slot).mortar.entries.get? k = some e → e.tier = .lpddr → e.shared = false →
      k ∈ (s.ses slot).sliceRead → s.poisonedEntry e = false → s.homeCore slot (colOf (s.pairsOf slot) k) = some core →
      s.flag Fld.MEM_PLACE_PROMOTE (s.ses slot).part = true →
      ((s.ses slot).state = .active ∨ (s.ses slot).state = .waiting ∨ (s.ses slot).state = .pulling) → (s.ses slot).op ≠ .park →
      (s.ses slot).op ≠ .moveOut → s.storePlace (s.ses slot).part (s.ses slot).main core = some o →
      s.tileAt e = some t0 → ∃ t, exec (.promotion slot k) s = .next t ∧
        (t.ses slot).mortar.entries.get? k = some { e with tier := .store, frame := storeFrame core o } ∧ t.tiles.get? (.store core o) = some t0 ∧
        (∀ f, t.tileFrames.get? e.frame = some f → f.state = .zeroing) ∧ (∀ j, j ≠ slot → t.ses j = s.ses j) ∧
        t = { s with sessions := t.sessions, tiles := t.tiles, tileFrames := t.tileFrames, cores := t.cores, regs := t.regs,
                     nextSeq := t.nextSeq, selfRefresh := t.selfRefresh, pmc := t.pmc, out := t.out })

/-- Private experts and batches (R147, R151 to R153, R359): a packet that passes its checks for an expert that is loaded is answered with the
expert's output, and its context has done work; a batch that closes serves the packet it holds.
Complete, each with its own effect: expertMessage, attBatchWindowExpiry. -/
def Obligations.Experts : Prop :=
  ∀ s : State, s.Calm → s.awake = true →
    (∀ (h : Hdr) (i n : Nat) (p : Peer) (k : ExpertPkt) (q : Req) (c : CtxImage) (d : Ctx) (y : Expert) (x : Port), k.x ≠ [] →
      k.x.length ≤ 16384 → s.Hears h 3 false (some (48 + 2 * k.x.length)) i p →
      k.handle = h.handle → k.epoch = h.epoch → s.checkStep (some h) (some h.part) k.handle k.epoch k.pos = .inr q → s.modelOf q = some c →
      k.layer < c.layers → k.pos = s.stepPos q → s.expertCtx q.part k.layer k.expert = some (n, d) → d.state = .ready →
      s.ctx q.part n = some d → d.img.experts.get? (k.layer * 256 + k.expert) = some y →
      s.fld Fld.ATT_CFG_BATCH_WINDOW q.part = 0 → s.generating q.slot = some q → s.ports.get? p.port = some x → x.up = true →
      ∃ t, exec (.expertMessage h k) s = .next t ∧
        s.Says t p.port ⟨p.fabric, q.part, q.epoch, q.comp, h.handle, h.tag, .expertAnswer k .ok (expertOut y k.gate.toNat k.x)⟩
          (s.ctxClass q.part q.main) ∧ t.ctx q.part n = some { d with idleDowns := 0 } ∧ (∀ j, j ≠ (q.part, n) → t.ctxs.get? j = s.ctxs.get? j) ∧
        t = { s with ports := t.ports, ctxs := t.ctxs, peers := t.peers, aon := t.aon, freeCtr := t.freeCtr }) ∧
    (∀ (b p0 n l e : Nat) (w : ExpertWork) (q : Req) (d : Ctx) (y : Expert) (p : Peer) (x : Port), s.batches.get? b = some ⟨.experts p0 n l e, [w]⟩ →
      s.generating w.slot = some q → s.ctx w.part w.ctx = some d → d.img.experts.get? (w.pkt.layer * 256 + w.pkt.expert) = some y →
      s.peers.get? w.peer = some p → s.ports.get? p.port = some x → x.up = true →
      ∃ t, exec (.attBatchWindowExpiry b) s = .next t ∧ t.batches = s.batches.erase b ∧
        s.Says t p.port ⟨p.fabric, w.part, q.epoch, q.comp, w.pkt.handle, w.tag, .expertAnswer w.pkt .ok (expertOut y w.pkt.gate.toNat w.pkt.x)⟩
          (s.ctxClass q.part q.main) ∧ t.ctx w.part w.ctx = some { d with idleDowns := 0 } ∧
        (∀ j, j ≠ (w.part, w.ctx) → t.ctxs.get? j = s.ctxs.get? j) ∧ t = { s with ports := t.ports, ctxs := t.ctxs, batches := t.batches })

-- Tile programs (06) --------------------------------------------------------------------------------------------------------------------------

/-- What the arithmetic operations of a tile program leave (R212, R137, R142, R143, R221, R226, R230), where program memory holds the
instruction at which the program stands: in each of COUNT + 1 repetitions DST takes, as far as it can be written, what the operation makes of
the operands' elements; then the program is at its next repetition, its next instruction or its end. Sums whose order is open are log entry
6's, a product of binary rows is log entry 62's.
Complete, each with its own effect: mmul, smaxPartial, smaxNormalise, smaxCombine, rot, dqnt, red. -/
def Obligations.TileArithmetic : Prop :=
  ∀ (s : State) (e : Nat) (i : TInstr) (v : Env) (u : State), s.Calm → s.awake = true → s.issuer e = some v → (i.last = true → s.Alone e) →
    (s.standsAt v 1 i = true → v.img.okMmul i = true → (∃ d x y ma mb md mc, v.operand i.dst i.repDst v.run.reps = some d ∧
      v.operand i.srcA i.repA v.run.reps = some x ∧ v.operand i.srcB i.repB v.run.reps = some y ∧ s.matrix v x = .ok ma ∧
      (if bitOf i.mode 4 then s.fedRows v y else s.matrix v y) = .ok mb ∧ (if i.mode % 8 = 1 then s.matrix v d else .ok []) = .ok md ∧
      (if i.srcC = 0xFFF then mc = [] else ∃ c, v.operand i.srcC false v.run.reps = some c ∧ s.matrix v c = .ok mc) ∧
      s.putMatrix v d (ma.zipIdx.map (fun row => (if bitOf i.mode 5 then mb else transpose y.d.cols mb).zipIdx.map (fun col =>
        epilogue i.mode i.imm.toNat (elemProds (v.img.typeOf i.srcA == 9) row.1 col.1) (cell md row.2 col.2) (cell mc row.2 col.2)))) = .ok u) →
      exec (.mmul e i) s = .next (u.goesOn e v.run.reps i) ∧ s.Tiled u) ∧
    (s.standsAt v 2 i = true → v.img.okSmax i 0 = true → (∃ d x rows, v.operand i.dst i.repDst v.run.reps = some d ∧
      v.operand i.srcA i.repA v.run.reps = some x ∧ s.matrix v d = .ok rows ∧ s.putMatrix v x (chunks x.d.cols (rows.flatMap (fun r =>
        [f32Max r, f32SumFree 21 (r.map (fun z => f32Exp (f32Sub z (f32Max r))))]))) = .ok u) →
      exec (.smaxPartial e i) s = .next (u.goesOn e v.run.reps i) ∧ s.Tiled u) ∧
    (s.standsAt v 2 i = true → v.img.okSmax i 1 = true → (∃ d x rows pairs, v.operand i.dst i.repDst v.run.reps = some d ∧
      v.operand i.srcA i.repA v.run.reps = some x ∧ s.matrix v d = .ok rows ∧ s.matrix v x = .ok pairs ∧
      s.putMatrix v d (rows.zipIdx.map (fun row => normalise (nthD (pairUp pairs.flatten) row.2 (0, f32One)).1
        (nthD (pairUp pairs.flatten) row.2 (0, f32One)).2 row.1)) = .ok u) →
      exec (.smaxNormalise e i) s = .next (u.goesOn e v.run.reps i) ∧ s.Tiled u) ∧
    (s.standsAt v 2 i = true → v.img.okSmax i 2 = true → (∃ d x slots, v.operand i.dst i.repDst v.run.reps = some d ∧
      v.operand i.srcA i.repA v.run.reps = some x ∧ s.matrix v x = .ok slots ∧ s.putMatrix v d (chunks d.d.cols ((List.range (x.d.cols / 2)).flatMap
        (fun r => combinePairs (slots.map (fun l => nthD (pairUp l) r (0, 0)))))) = .ok u) →
      exec (.smaxCombine e i) s = .next (u.goesOn e v.run.reps i) ∧ s.Tiled u) ∧
    (s.standsAt v 3 i = true → v.img.okRot i = true → (∃ d x rows ps, v.operand i.dst i.repDst v.run.reps = some d ∧
      v.operand i.srcA i.repA v.run.reps = some x ∧ s.matrix v d = .ok rows ∧ mapRows (s.patterns v x) (List.range x.d.rows) = .ok ps ∧
      s.putMatrix v d (rows.zipIdx.map (fun row => rotateVec { v.img.rotary with layers := [0] } 0
        (if i.mode = 1 then nthD ps.flatten row.2 0 % 2 ^ 20 else nthD ps.flatten row.2 0) row.1)) = .ok u) →
      exec (.rot e i) s = .next (u.goesOn e v.run.reps i) ∧ s.Tiled u) ∧
    (s.standsAt v 5 i = true → v.img.okDqnt i = true → (∃ d x rows, v.operand i.dst i.repDst v.run.reps = some d ∧
      v.operand i.srcA i.repA v.run.reps = some x ∧ s.matrix v x = .ok rows ∧ s.putMatrix v d rows = .ok u) →
      exec (.dqnt e i) s = .next (u.goesOn e v.run.reps i) ∧ s.Tiled u) ∧
    (s.standsAt v 8 i = true → v.img.okRed i = true → (∃ d x rows, v.operand i.dst i.repDst v.run.reps = some d ∧
      v.operand i.srcA i.repA v.run.reps = some x ∧ s.matrix v x = .ok rows ∧ s.putMatrix v d (chunks d.d.cols
        ((if bitOf i.mode 0 then transpose x.d.cols rows else rows).map (reduce (bitsOf i.mode 2 1)))) = .ok u) →
      exec (.red e i) s = .next (u.goesOn e v.run.reps i) ∧ s.Tiled u)

/-- What the other operations of a tile program leave (R214, R221, R226, R230, R231): rows copied in the order of their indexes, an index of
all ones giving zeros in a GATH and nothing in a SCAT; bit distances; the largest values of a row with their columns; quantised rows with
their scales, NaNs counted in COR_NAN.
Complete, each with its own effect: qnt, gath, scat, move, bcmp, topk. -/
def Obligations.TileRows : Prop :=
  ∀ (s : State) (e : Nat) (i : TInstr) (v : Env) (u : State), s.Calm → s.awake = true → s.issuer e = some v → (i.last = true → s.Alone e) →
    (s.standsAt v 6 i = true → v.img.okGath i .dest = true → (∃ d x y l, v.operand i.dst i.repDst v.run.reps = some d ∧
      v.operand i.srcA i.repA v.run.reps = some x ∧ v.operand i.srcB i.repB v.run.reps = some y ∧ mapRows (s.patterns v y) (List.range y.d.rows) = .ok l ∧
      ∃ z : Nat → State, z 0 = s ∧ z (Nat.min l.flatten.length d.d.rows) = u ∧ ∀ n j, n < d.d.rows → l.flatten[n]? = some j →
        if j = 0xFFFFFFFF then zeroRow v d (z n) n = .ok (z (n + 1)) else j < x.d.rows ∧ copyRow v x d (z n) j n = .ok (z (n + 1))) →
      exec (.gath e i) s = .next (u.goesOn e v.run.reps i) ∧ s.Tiled u) ∧
    (s.standsAt v 7 i = true → v.img.okGath i .anyDest = true → (∃ d x y l, v.operand i.dst i.repDst v.run.reps = some d ∧
      v.operand i.srcA i.repA v.run.reps = some x ∧ v.operand i.srcB i.repB v.run.reps = some y ∧ mapRows (s.patterns v y) (List.range y.d.rows) = .ok l ∧
      ∃ z : Nat → State, z 0 = s ∧ z (Nat.min l.flatten.length x.d.rows) = u ∧ ∀ n j, n < x.d.rows → l.flatten[n]? = some j →
        if j = 0xFFFFFFFF then z (n + 1) = z n else j < d.d.rows ∧ copyRow v x d (z n) n j = .ok (z (n + 1))) →
      exec (.scat e i) s = .next (u.goesOn e v.run.reps i) ∧ s.Tiled u) ∧
    (s.standsAt v 9 i = true → v.img.okMove i = true → (∃ d x, v.operand i.dst i.repDst v.run.reps = some d ∧
      v.operand i.srcA i.repA v.run.reps = some x ∧ if x.d.type = d.d.type then ∃ z : Nat → State, z 0 = s ∧ z (Nat.min x.d.rows d.d.rows) = u ∧
        ∀ n, n < Nat.min x.d.rows d.d.rows → copyRow v x d (z n) n n = .ok (z (n + 1)) else ∃ rows, s.matrix v x = .ok rows ∧ s.putMatrix v d rows = .ok u) →
      exec (.move e i) s = .next (u.goesOn e v.run.reps i) ∧ s.Tiled u) ∧
    (s.standsAt v 10 i = true → v.img.okBcmp i = true → (∃ d x y ra rb, v.operand i.dst i.repDst v.run.reps = some d ∧
      v.operand i.srcA i.repA v.run.reps = some x ∧ v.operand i.srcB i.repB v.run.reps = some y ∧ mapRows (s.patterns v x) (List.range x.d.rows) = .ok ra ∧
      mapRows (s.patterns v y) (List.range y.d.rows) = .ok rb ∧ s.putRows v d 0 (fun st r xs => st.putPatterns v d r xs)
        ((ra.map (fun p => rb.map (fun q => ((p.zip q).filter (fun c => c.1 != c.2)).length))).take d.d.rows) = .ok u) →
      exec (.bcmp e i) s = .next (u.goesOn e v.run.reps i) ∧ s.Tiled u) ∧
    (s.standsAt v 11 i = true → v.img.okTopk i = true → (∃ d x c rows m, v.operand i.dst i.repDst v.run.reps = some d ∧
      v.operand i.srcA i.repA v.run.reps = some x ∧ v.operand i.srcC false v.run.reps = some c ∧ s.matrix v x = .ok rows ∧
      s.putMatrix v d (rows.map (fun r => (topValues i.imm.toNat (i.mode == 1) r).map (·.1))) = .ok m ∧
      m.putRows v c 0 (fun st r xs => st.putPatterns v c r xs)
        ((rows.map (fun r => (topValues i.imm.toNat (i.mode == 1) r).map (·.2))).take c.d.rows) = .ok u) →
      exec (.topk e i) s = .next (u.goesOn e v.run.reps i) ∧ s.Tiled u) ∧
    (s.standsAt v 4 i = true → v.img.okQnt i = true → (∃ d x rows m n, v.operand i.dst i.repDst v.run.reps = some d ∧
      v.operand i.srcA i.repA v.run.reps = some x ∧ s.matrix v x = .ok rows ∧ s.putRows v d 0 (putQuant i v d) (rows.take d.d.rows) = .ok m ∧
      n = ((rows.take d.d.rows).flatMap (fun r => (r.take d.d.cols).filter (fun z => v32 z == .nan))).length ∧
      u = if n = 0 then m else m.bump Fld.COR_NAN_COUNT v.core n) →
      exec (.qnt e i) s = .next (u.goesOn e v.run.reps i) ∧ u = { s with tiles := u.tiles, cores := u.cores, ram := u.ram, regs := u.regs })

/-- How a core's time is shared (R222, R224, R338, R339, R341): a dispatch whose places are its partition's starts on a free core, preempts
best-effort and background work where it is latency-critical, and waits otherwise; at a slice's end the next context runs and the other
keeps its place.
Complete, each with its own effect: dispatch, sliceEnd. -/
def Obligations.CoreSharing : Prop :=
  ∀ (s : State) (e p : Nat) (c : Core), s.Calm → s.awake = true → s.cores.get? e = some c →
    (∀ d : Dispatch, s.canDispatch e d = some p → (∀ l ∈ d.work, s.ownPlace p l = true) → c.running = none → c.queue = [] → c.paused = [] →
      s.ctxClass p d.ctx = .lc → ∃ t, exec (.dispatch e d) s = .next t ∧
        t.cores = s.cores.set e { c with running := some ⟨d, none, 0, 0⟩, lastLc := d.ctx, ran := c.ranWith p d.ctx } ∧
        t = { s with cores := t.cores, pmc := t.pmc, out := t.out }) ∧
    (∀ (d : Dispatch) (r : Run), s.canDispatch e d = some p → (∀ l ∈ d.work, s.ownPlace p l = true) → c.running = some r → c.queue = [] →
      c.paused = [] → s.ctxClass p d.ctx = .lc → s.ctxClass p r.d.ctx ≠ .lc →
      ∃ t, exec (.dispatch e d) s = .next t ∧
        t.cores = s.cores.set e { c with running := some ⟨d, none, 0, 0⟩, paused := [r], lastLc := d.ctx, ran := c.ranWith p d.ctx } ∧
        t = { s with cores := t.cores, pmc := t.pmc, out := t.out }) ∧
    (∀ (d : Dispatch) (r : Run), s.canDispatch e d = some p → (∀ l ∈ d.work, s.ownPlace p l = true) → c.running = some r →
      (s.ctxClass p d.ctx ≠ .lc ∨ s.ctxClass p r.d.ctx = .lc) →
      exec (.dispatch e d) s = .next { s with cores := s.cores.set e { c with queue := c.queue ++ [d] } }) ∧
    (∀ (d : Dispatch) (r : Run), c.owner = some p → c.running = some r → r.bar = none → c.stopping = false → c.clearing = false →
      c.queue = [d] → c.paused = [] → s.ctxClass p d.ctx = .lc → s.ctxClass p r.d.ctx = .lc → c.lastLc = r.d.ctx → d.ctx ≠ r.d.ctx →
      ∃ t, exec (.sliceEnd e) s = .next t ∧
        t.cores = s.cores.set e { c with running := some ⟨d, none, 0, 0⟩, queue := [], paused := [r], lastLc := d.ctx, ran := c.ranWith p d.ctx } ∧
        t = { s with cores := t.cores, pmc := t.pmc, out := t.out }) ∧
    (∀ r : Run, c.owner = some p → c.running = some r → r.bar = none → c.stopping = false → c.clearing = false → c.queue = [] →
      c.paused = [] → s.ctxClass p r.d.ctx = .lc → ∃ t, exec (.sliceEnd e) s = .next t ∧
        t.cores = s.cores.set e { c with lastLc := r.d.ctx, ran := c.ranWith p r.d.ctx } ∧ t = { s with cores := t.cores, pmc := t.pmc, out := t.out })

/-- How a context's load ends (R238, R239, R337, R359): READY with its programs in program memory and its pinned region filled on every core of
its partition, or DOWN, where a program check fails with its reason in BOOT_PLUMB, and the reload that waits for it completes; a reload
of a context that is DOWN begins a load; one of a READY context completes at once, and one of a loading context waits for that load, which
is the model's reading (log entry 50).
Complete, each with its own effect: ctxReload, contextLoaded. -/
def Obligations.ContextLoads : Prop :=
  ∀ (s : State) (u : Sub) (p n q : Nat) (x : Ctx), s.Calm → u.sq = some q → s.ctx p n = some x →
    (s.awake = true → s.reqs = [] → s.expertWait = [] → x.state = .loading → x.held = [] → x.asked = [u.owner] → s.Open u.fn q →
      (x.img.progOk (s.areaBytesOf p) = true → s.weightKey p x.img = true → x.blocks.length = x.img.weights.length →
        ∃ t, exec (.contextLoaded p n true) s = .next t ∧ s.Posts t u .ok 0 0 ∧
        t.ctx p n = some { x with state := .ready, asked := [] } ∧ (∀ k, k ≠ (p, n) → t.ctxs.get? k = s.ctxs.get? k) ∧
        (∀ e, e ∉ s.coresOf p → t.cores.get? e = s.cores.get? e) ∧
        (∀ e c, e ∈ s.coresOf p → t.cores.get? e = some c → ∃ d, s.cores.get? e = some d ∧
          c.store = Memory.writes 0 d.store (x.img.shareBase * 2048) x.img.pinned ∧
          ∀ k w, x.img.prog[k]? = some w → c.prog.get? (x.img.progBase + k) = some w) ∧
        s.Io { t with ctxs := s.ctxs, sec := s.sec, cores := s.cores }) ∧
      (∀ ok, ok = false ∨ x.img.progOk (s.areaBytesOf p) = false →
        ∃ t, exec (.contextLoaded p n ok) s = .next t ∧ s.Posts t u .contextContextDown 0 0 ∧
        t.ctx p n = some { x with state := .down, blocks := [], asked := [] } ∧ (∀ k, k ≠ (p, n) → t.ctxs.get? k = s.ctxs.get? k) ∧
        (x.img.progOk (s.areaBytesOf p) = false → t.fld Fld.BOOT_PLUMB_REASON = 0xC2) ∧ t.ram = s.ram.erase (p, n) ∧
        (∀ e, e ∉ s.coresOf p → t.cores.get? e = s.cores.get? e) ∧
        s.Io { t with ctxs := s.ctxs, sec := s.sec, cores := s.cores, ram := s.ram, regs := s.regs, freeCtr := s.freeCtr })) ∧
    (s.Takes u (.ctxReload n) → s.subPart u = p →
      (x.state = .down → ∃ t, exec (.ctxReload u n) s = .next t ∧
        t.ctx p n = some { x with state := .loading, idleDowns := 0, blocks := [], asked := [u.owner] } ∧
        (∀ k, k ≠ (p, n) → t.ctxs.get? k = s.ctxs.get? k) ∧ s.Io { t with ctxs := s.ctxs }) ∧
      (x.state = .loading → ∃ t, exec (.ctxReload u n) s = .next t ∧ t.ctx p n = some { x with asked := x.asked ++ [u.owner] } ∧
        (∀ k, k ≠ (p, n) → t.ctxs.get? k = s.ctxs.get? k) ∧ s.Io { t with ctxs := s.ctxs }) ∧
      (x.state = .ready → ∃ t, exec (.ctxReload u n) s = .next t ∧ s.Posts t u .ok 0 0 ∧ s.Io t))

/-- Barriers (R232, R235): a core at a barrier of its own group goes on at once, with its own data in DST; the first of two cores at a sync
waits, and the second lets both go on; a core other than the lead goes on when a gather has taken its data; a wait that lasts too long is a
fault of the core and tears the context down.
Complete, each with its own effect: barSync, barGather, barBroadcast, barTimeout. -/
def Obligations.Barriers : Prop :=
  ∀ (s w : State) (e : Nat) (i : TInstr) (v x : Env), s.Calm → s.awake = true →
    (s.issuer e = some v → s.standsAt v 0x0C i = true → v.run.reps = 0 → i.count = 0 → (i.last = true → s.Alone e) →
      s.bars.get? (v.barKey i) = none →
      w = s.modCore e (fun c => { c with running := c.running.map (fun r => { r with bar := some i }) }) → w.env e = some x →
      (v.img.okSync i = true → v.run.d.group = [e] → exec (.barSync e i) s = .next (s.past e i.last)) ∧
      (∀ f, v.img.okSync i = true → e ≠ f → v.run.d.group = [e, f] → s.waiterAt v.part v.run.d.ctx (v.barKey i) f = none →
        exec (.barSync e i) s = .next { w with bars := s.bars.set (v.barKey i) ⟨[e], []⟩ }) ∧
      (∀ bs u, v.img.okExchange i 1 = true → v.run.d.group = [e] → v.run.d.lead = none → w.barData x i = .ok bs → w.barStore x i 0 bs = .ok u →
        exec (.barGather e i) s = .next (u.past e i.last)) ∧
      (∀ f bs, v.img.okExchange i 1 = true → e ≠ f → v.run.d.group = [e, f] → v.run.d.lead = some f → w.barData x i = .ok bs →
        s.waiterAt v.part v.run.d.ctx (v.barKey i) f = none →
        exec (.barGather e i) s = .next { s.past e i.last with bars := s.bars.set (v.barKey i) ⟨[], [(v.run.d.rank e, bs)]⟩ }) ∧
      (∀ bs u, v.img.okExchange i 2 = true → v.run.d.group = [e] → v.run.d.lead = none → w.barData x i = .ok bs → w.barStore x i 0 bs = .ok u →
        exec (.barBroadcast e i) s = .next (u.past e i.last))) ∧
    (∀ (f : Nat) (j : TInstr) (y : Env), s.issuer e = some v → s.standsAt v 0x0C i = true → v.run.reps = 0 → i.count = 0 → i.last = false →
      v.img.okSync i = true → e ≠ f →
      v.run.d.group = [e, f] → s.bars.get? (v.barKey i) = some ⟨[f], []⟩ →
      s.waiterAt v.part v.run.d.ctx (v.barKey i) f = some (y, j) → y.run.reps = 0 → j.count = 0 → j.mode = 0 → j.last = false →
      y.run.d.group = [e, f] → s.env f = some y →
      exec (.barSync e i) s = .next { (s.past e false).past f false with bars := s.bars.erase (v.barKey i) }) ∧
    (∀ c, s.Idle → s.env e = some v → v.run.bar = some i → s.flag Fld.COR_FAULT_VALID e = false → s.ctx v.part v.run.d.ctx = some c →
      c.state = .ready → (s.coresOf v.part).contains e = true → s.Alone e → e < 16 → v.run.d.ctx < 64 →
      ∃ t, exec (.barTimeout e) s = .next t ∧
        t.flag Fld.COR_FAULT_VALID e = true ∧ t.fld Fld.COR_FAULT_CAUSE e = 2 ∧ t.fld Fld.COR_FAULT_CONTEXT e = v.run.d.ctx ∧
        t.ctx v.part v.run.d.ctx = some { c with state := if 3 ≤ c.idleDowns + 1 then .down else .loading, idleDowns := c.idleDowns + 1,
                                                 teardowns := Nat.min 255 (c.teardowns + 1), blocks := [] } ∧
        (∀ k, t.cores.get? e = some k → k.running = none) ∧ (∀ kv ∈ t.bars, kv.1.1 ≠ v.part * 64 + v.run.d.ctx) ∧
        t = { s with regs := t.regs, cores := t.cores, bars := t.bars, ctxs := t.ctxs, reports := t.reports, aon := t.aon, freeCtr := t.freeCtr,
                     pmc := t.pmc, out := t.out })

-- Sessions and prefixes (02, 03) -------------------------------------------------------------------------------------------------------------------

/-- What the commands of a session's life leave (R57, R59, R61, R70 to R72, R801, R803): a query changes nothing; HOST_DATA is written; a close
releases the session to FREE, its mortar and log frames to ZEROING, and counts its generation or retires its slot; a session in another
state is not closed; a create without a prefix makes an OPEN session with an empty mortar, and one with a prefix an OPEN session over the prefix's
positions and log, which the prefix counts among its users.
Complete, each with its own effect: sesCreate, sesClose, sesQuery, sesSetHostData. -/
def Obligations.SessionCommands : Prop :=
  ∀ (s : State) (u : Sub), s.Calm →
    (s.Takes u .sesQuery → ∃ t, exec (.sesQuery u) s = .next t ∧ s.Posts t u .ok (s.statusWord u.slot) 0 ∧ s.Io t ∧
      s.Writes t (.data u.fn (.record (s.recordWords u.slot)))) ∧
    (∀ d : BitVec 128, s.Takes u (.sesSetHostData d) → (s.ses u.slot).state ≠ .moving → s.claimed u.slot = false →
      s.bondRoom (s.ses u.slot).part = true → ∃ t, exec (.sesSetHostData u d) s = .next t ∧ s.Posts t u .ok 0 0 ∧
        t.sessions = s.sessions.set u.slot { s.ses u.slot with hostData := d } ∧
        s.Io { t with sessions := s.sessions, nextSeq := s.nextSeq, regs := s.regs }) ∧
    (∀ x : Session, s.Takes u .sesClose → s.Quiet u.slot → s.ses u.slot = x →
      (x.state = .opened ∨ x.state = .waiting ∨ x.state = .parked ∨ x.state = .failed) → ∃ t, exec (.sesClose u) s = .next t ∧ s.Posts t u .ok 0 0 ∧
        (t.ses u.slot).state = .free ∧ (t.ses u.slot).gen = (if 65535 ≤ x.gen then x.gen else x.gen + 1) ∧
        (t.ses u.slot).retired = decide (65535 ≤ x.gen) ∧ (t.ses u.slot).mortar.entries = [] ∧ (t.ses u.slot).log = [] ∧
        (∀ j, j ≠ u.slot → t.ses j = s.ses j) ∧
        (∀ n ∈ x.mortar.root :: x.mortar.pageFrames ++ x.logFrames, ∀ f, t.mortarFrames.get? n = some f → f.state = .zeroing) ∧
        t = { s with sessions := t.sessions, freed := t.freed, mirror := t.mirror, bonds := t.bonds, qry := t.qry, tiles := t.tiles,
                     tileFrames := t.tileFrames, mortarFrames := t.mortarFrames, prefixes := t.prefixes, regs := t.regs, nextSeq := t.nextSeq,
                     freeCtr := t.freeCtr, out := t.out, pmc := t.pmc, sqs := t.sqs, cqs := t.cqs, bounce := t.bounce, arrived := t.arrived }) ∧
    (∀ x : Session, s.Takes u .sesClose → s.Quiet u.slot → s.ses u.slot = x → x.state ≠ .opened → x.state ≠ .waiting → x.state ≠ .parked →
      x.state ≠ .failed → ∃ t, exec (.sesClose u) s = .next t ∧ s.Posts t u .configWrongState 0 0 ∧ s.Io t) ∧
    (∀ (a : SesCreateArgs) (p slot root : Nat) (v : State) (c : Ctx), s.Takes u (.sesCreate a) → s.subPart u = p → a.pfx = 0xFFFF →
      s.checkCreate u a = none → s.morUsed p < s.morCount p → s.bondRoom p = true → s.newSlot p = some slot →
      s.ctx p a.main = some c → State.allocMor { s with freeCtr := s.freeCtr + 1 } p ⟨p, .priv, 0, slot, []⟩ = some (root, v) →
      ∃ t x, exec (.sesCreate u a) s = .next t ∧ s.Posts t u .ok (mkHandle p slot (s.ses slot).gen).toNat 0 ∧ t.ses slot = x ∧
        x.gen = (s.ses slot).gen ∧ x.state = .opened ∧ x.op = .none ∧ x.part = p ∧ x.mortar = Mortar.empty root ∧ x.log = [] ∧ x.nextPos = 0 ∧
        x.pfx = 0xFFFF ∧ x.comp = a.comp ∧ x.main = a.main ∧ x.fallback = c.img.fallback ∧ x.hints = a.hints ∧ x.hostData = a.hostData ∧
        x.lastUse = t.aon ∧ t.mortarFrames = v.mortarFrames ∧ (∀ j, j ≠ slot → t.ses j = s.ses j) ∧
        s.Io { t with sessions := s.sessions, mortarFrames := s.mortarFrames, regs := s.regs, nextSeq := s.nextSeq, aon := s.aon, freeCtr := s.freeCtr }) ∧
    (∀ (a : SesCreateArgs) (p slot : Nat) (r : Prefix) (v : State), s.Takes u (.sesCreate a) → s.subPart u = p → s.pfxOf p a.pfx = some r →
      s.checkCreate u a = none → s.room p (s.createNeeds p a).1 (s.createNeeds p a).2 = .fits → s.bondRoom p = true → s.newSlot p = some slot →
      State.buildSes { s with freeCtr := s.freeCtr + 1 } p slot a = some v →
      ∃ t x, exec (.sesCreate u a) s = .next t ∧ s.Posts t u .ok (mkHandle p slot (s.ses slot).gen).toNat 0 ∧ t.ses slot = x ∧
        x.gen = (s.ses slot).gen ∧ x.state = .opened ∧ x.op = .none ∧ x.part = p ∧ x.pfx = a.pfx ∧ x.pfxTiles = r.full ∧ x.pfxSeq = r.seq ∧
        x.nextPos = r.tokens ∧ x.log = r.log ∧ x.comp = a.comp ∧ x.main = a.main ∧ x.hints = a.hints ∧ x.hostData = a.hostData ∧ x.lastUse = t.aon ∧
        t.prefixes.get? (p, a.pfx) = some { r with users := r.users + 1 } ∧ t.mortarFrames = v.mortarFrames ∧ t.tileFrames = v.tileFrames ∧
        t.tiles = v.tiles ∧ (∀ j, j ≠ slot → t.ses j = s.ses j) ∧
        s.Io { t with sessions := s.sessions, prefixes := s.prefixes, mortarFrames := s.mortarFrames, tileFrames := s.tileFrames, tiles := s.tiles,
                      selfRefresh := s.selfRefresh, regs := s.regs, nextSeq := s.nextSeq, aon := s.aon, freeCtr := s.freeCtr })

/-- How prefixes are registered and unregistered (R106 to R108, R114, R383): a registration holds the first n positions of a WAITING session with its
log, and the session uses it; where frames that it needs are still ZEROING it waits for them; PFX_REGISTER's checks stand in R108's order, and a
refusal changes nothing; an unregistered prefix is no longer in the registry and its mortar and log frames pass through ZEROING, but for a SES_CREATE
that has reached the entry, behind which the unregister waits (log entry 66); a prefix that is not registered is refused.
Complete, each with its own effect: pfxRegister, pfxUnregister. -/
def Obligations.Prefixes : Prop :=
  ∀ (s : State) (u : Sub), s.Calm →
    (∀ (n p id cap root : Nat) (x : Session) (fes pes : List (Nat × MEntry)) (lf : List Nat) (m : Mortar) (sh ct : AMap Nat MEntry)
        (v0 v1 v2 v3 v4 v5 : State), s.Takes u (.pfxRegister n) → s.Quiet u.slot → s.ses u.slot = x → x.part = p → x.state = .waiting → 0 < n →
      n ≤ x.nextPos → s.awayBelow u.slot n = false → s.dressedBelow u.slot n = false → s.freePfx p = some id → cap = (s.geomOf u.slot).p →
      fes = fullEntries x.mortar (s.pairsOf u.slot) (n / cap) → pes = (if n % cap = 0 then [] else partialEntries x.mortar (s.pairsOf u.slot) (n / cap)) →
      s.room p (s.registerNeeds p id n fes pes).1 (s.registerNeeds p id n fes pes).2 = .fits → s.regPage p id = some v0 →
      v0.allocMor p ⟨p, .priv, 0, 0, []⟩ = some (root, v1) → v1.growMortar p 0 (Mortar.empty root) ((fes ++ pes).map (·.1)) = some (m, v2) →
      v2.allocMors p ⟨p, .priv, 0, 0, []⟩ (logFramesFor n) = some (lf, v3) → v3.shareTiles p id fes [] = some (sh, v4) →
      v4.cutTiles p id n pes [] = some (ct, v5) →
      ∃ t, exec (.pfxRegister u n) s = .next t ∧ s.Posts t u .ok id 0 ∧
        t.prefixes.get? (p, id) = some ⟨x.main, n, n / cap, 1, { m with entries := sh ++ ct }, x.log.take n, lf, s.nextSeq⟩ ∧
        t.regPages = v0.regPages ∧ t.tileFrames = v5.tileFrames ∧ t.tiles = v5.tiles ∧ t.mortarFrames = v5.mortarFrames ∧
        t.ses u.slot = { x with
          pfx := id, pfxTiles := n / cap, pfxSeq := s.nextSeq, lastUse := t.aon,
          mortar := { x.mortar with entries := sh.foldl (fun a kv => a.set kv.1 kv.2) x.mortar.entries } } ∧
        (∀ j, j ≠ u.slot → t.ses j = s.ses j) ∧
        s.Io { t with sessions := s.sessions, prefixes := s.prefixes, regPages := s.regPages, mortarFrames := s.mortarFrames, tileFrames := s.tileFrames,
                      tiles := s.tiles, selfRefresh := s.selfRefresh, regs := s.regs, nextSeq := s.nextSeq, aon := s.aon, freeCtr := s.freeCtr }) ∧
    (∀ (n p id cap : Nat) (x : Session) (fes pes : List (Nat × MEntry)), s.Takes u (.pfxRegister n) → s.Quiet u.slot → s.ses u.slot = x → x.part = p →
      x.state = .waiting → 0 < n → n ≤ x.nextPos → s.awayBelow u.slot n = false → s.dressedBelow u.slot n = false → s.freePfx p = some id →
      cap = (s.geomOf u.slot).p → fes = fullEntries x.mortar (s.pairsOf u.slot) (n / cap) →
      pes = (if n % cap = 0 then [] else partialEntries x.mortar (s.pairsOf u.slot) (n / cap)) →
      s.room p (s.registerNeeds p id n fes pes).1 (s.registerNeeds p id n fes pes).2 = .waits →
      ∃ t, exec (.pfxRegister u n) s = .next t ∧ t.allocWait = s.allocWait ++ [(u, .pfxRegister n)] ∧
        s.Io { t with allocWait := s.allocWait, regs := s.regs }) ∧
    (∀ (n p cap : Nat) (x : Session) (fes pes : List (Nat × MEntry)) (st : Status), s.Takes u (.pfxRegister n) → s.Quiet u.slot → s.ses u.slot = x →
      x.part = p → cap = (s.geomOf u.slot).p → fes = fullEntries x.mortar (s.pairsOf u.slot) (n / cap) →
      pes = (if n % cap = 0 then [] else partialEntries x.mortar (s.pairsOf u.slot) (n / cap)) →
      (x.state ≠ .waiting ∧ st = .configWrongState ∨
        x.state = .waiting ∧ ((n = 0 ∨ x.nextPos < n) ∧ st = .configPrefixRange ∨
          0 < n ∧ n ≤ x.nextPos ∧ (s.awayBelow u.slot n = true ∧ st = .configWrongState ∨
            s.awayBelow u.slot n = false ∧ (s.dressedBelow u.slot n = true ∧ st = .configPrefixDressed ∨
              s.dressedBelow u.slot n = false ∧ (s.freePfx p = none ∧ st = .limitPrefixes ∨
                ∃ id, s.freePfx p = some id ∧ st = .quotaLpddr6 ∧
                  (s.room p (s.registerNeeds p id n fes pes).1 (s.registerNeeds p id n fes pes).2 = .refused ∨
                    s.room p (s.registerNeeds p id n fes pes).1 (s.registerNeeds p id n fes pes).2 = .fits ∧
                      s.buildPrefix p u.slot id n (n / cap) fes pes = none)))))) →
      ∃ t, exec (.pfxRegister u n) s = .next t ∧ s.Posts t u st 0 0 ∧ s.Io t) ∧
    (∀ (id p : Nat) (r : Prefix), s.Takes u (.pfxUnregister id) → u.resv = false → s.subPart u = p → s.prefixes.get? (p, id) = some r →
      s.createWaits p id = false →
      ∃ t, exec (.pfxUnregister u id) s = .next t ∧ s.Posts t u .ok 0 0 ∧ t.prefixes.get? (p, id) = none ∧
        (∀ k, k ≠ (p, id) → t.prefixes.get? k = s.prefixes.get? k) ∧ t.sessions = s.sessions ∧
        (∀ n ∈ r.mortar.root :: r.mortar.pageFrames ++ r.logFrames, ∀ f, t.mortarFrames.get? n = some f → f.state = .zeroing) ∧
        s.Io { t with prefixes := s.prefixes, mortarFrames := s.mortarFrames, tileFrames := s.tileFrames, tiles := s.tiles, regs := s.regs,
                      nextSeq := s.nextSeq, freeCtr := s.freeCtr }) ∧
    (∀ (id p : Nat), s.Takes u (.pfxUnregister id) → u.resv = false → s.subPart u = p → s.prefixes.has (p, id) = true → s.createWaits p id = true →
      ∃ t, exec (.pfxUnregister u id) s = .next t ∧ t.bondWaits = s.bondWaits ++ [⟨p, noSlot, u, .pfxUnregister id⟩] ∧
        s.Io { t with bondWaits := s.bondWaits, regs := s.regs }) ∧
    (∀ (id p : Nat), s.Takes u (.pfxUnregister id) → u.resv = false → s.subPart u = p → s.prefixes.get? (p, id) = none →
      ∃ t, exec (.pfxUnregister u id) s = .next t ∧ s.Posts t u .configPrefixUnknown 0 0 ∧ s.Io t)

-- Handoffs, pulls and moves (05, 13, 17) --------------------------------------------------------------------------------------------------------------

/-- What a partner's tile push and logit chunk leave, and the end of a handoff that waits too long (R460, R461, R463, R577, R578): a push that
fits is staged while another tile is still expected; one of a wrong sender or epoch is dropped and counted; a chunk is kept until the packet is
complete; a lost prefill of a SES_REVIVE aborts its handoff, releases what is staged and ends it with PEER/prefill-lost.
Complete, each with its own effect: logitChunk, tilePush, handoffTimeout. -/
def Obligations.Handoffs : Prop :=
  ∀ s : State, s.Calm → s.awake = true →
    (∀ (h : Hdr) (i slot n : Nat) (p : Peer) (d : PushedTile) (w : Handoff) (c : CtxImage) (x : Expect) (y : Nat × Expect) (v : State),
      s.Hears h 7 false (some 18480) i p → s.checkHandle (some h.part) h.handle = none → slot = handleSlot h.handle → s.handoffs.get? slot = some w →
      s.mainImg slot = some c → (∀ q, s.req slot = some q → q.onFallback = false) →
      s.senderOk (s.handoffEpoch slot).1 (s.handoffEpoch slot).2 h = true → d.tile.geom = c.geom → d.head < c.heads → pushFits x d = true →
      (s.expectAll slot c w).find? (fun z => z.1 == d.column * c.pairs + (d.layer * c.heads + d.head)) =
        some (d.column * c.pairs + (d.layer * c.heads + d.head), x) →
      w.staged.get? (d.column * c.pairs + (d.layer * c.heads + d.head)) = none → y ∈ v.expectAll slot c w →
      y.1 ≠ d.column * c.pairs + (d.layer * c.heads + d.head) → w.staged.has y.1 = false →
      (s.peerSeen i).allocTile (s.ses slot).part ⟨(s.ses slot).part, .priv, 0, slot, []⟩ = some (n, v) →
      ∃ t, exec (.tilePush h d) s = .next t ∧ s.Seen t i p ∧ t.handoffs = s.handoffs.set slot { w with
          staged := w.staged.set (d.column * c.pairs + (d.layer * c.heads + d.head)) n,
          peers := if w.peers.contains i then w.peers else w.peers ++ [i] } ∧
        t.tiles = s.tiles.set (.frame n) { s.stagedTile slot (d.column * c.pairs + (d.layer * c.heads + d.head)) d with
          layer := d.layer, head := d.head } ∧ t.bonds = s.bonds.map (fun b => if b.part == (s.ses slot).part && b.id == w.bond then { b with
            actions := [actList .tileInstall ((w.staged.set (d.column * c.pairs + (d.layer * c.heads + d.head)) n).map (fun kv => kv.2))] } else b) ∧
        t.tileFrames = v.tileFrames.modify n (fun f => { f with poison := [] }) ∧
        t = { s with handoffs := t.handoffs, tiles := t.tiles, tileFrames := t.tileFrames, bonds := t.bonds, selfRefresh := t.selfRefresh,
                     regs := t.regs, peers := t.peers, aon := t.aon, freeCtr := t.freeCtr }) ∧
    (∀ (h : Hdr) (i slot : Nat) (p : Peer) (d : PushedTile), s.Hears h 7 false (some 18480) i p → slot = handleSlot h.handle →
      (s.checkHandle (some h.part) h.handle ≠ none ∨ s.handoffs.get? slot = none ∨
        s.senderOk (s.handoffEpoch slot).1 (s.handoffEpoch slot).2 h = false) →
      ∃ t, exec (.tilePush h d) s = .next t ∧ s.Seen t i p ∧
        t = { s.bump Fld.CMP_STALE_COUNT with peers := t.peers, aon := t.aon, freeCtr := t.freeCtr }) ∧
    (∀ (slot q : Nat) (w : Handoff) (u : Sub), s.handoffs.get? slot = some w → w.owner = some u.owner → s.req slot = none → u.sq = some q →
      s.Open u.fn q → ∃ t, exec (.handoffTimeout slot) s = .next t ∧ s.Posts t u .peerPrefillLost 0 0 ∧ t.handoffs.get? slot = none ∧
        t.ses slot = { s.ses slot with op := .none, state := if w.rebuild then w.prior else (s.ses slot).state, lastUse := t.aon } ∧
        (∀ j, j ≠ slot → t.ses j = s.ses j) ∧ (∀ kf ∈ w.staged, ∀ f, t.tileFrames.get? kf.2 = some f → f.state = .zeroing) ∧
        (∀ b ∈ t.bonds, b.part ≠ (s.ses slot).part ∨ b.id ≠ w.bond) ∧
        s.Io { t with handoffs := s.handoffs, sessions := s.sessions, tiles := s.tiles, tileFrames := s.tileFrames, bonds := s.bonds,
                      regs := s.regs, nextSeq := s.nextSeq, aon := s.aon, freeCtr := s.freeCtr }) ∧
    (∀ (h : Hdr) (i slot pos first : Nat) (p : Peer) (fp32 : Bool) (ls : List Nat) (q : Req), s.Hears h 4 false (some h.bytes) i p → slot = handleSlot h.handle →
      h.bytes = 48 + ls.length * (if fp32 then 4 else 2) →
      s.checkHandle none h.handle = none → s.generating slot = some q → q.onFallback = false → s.checkSender q (some h) h.epoch = none →
      pos = s.duePos q → ls.length ≤ chunkCap fp32 → overlaps q.chunks first ls.length = false → s.allServed q = true →
      fp32 = q.args.sample.logitsFp32 →
      packetOf (q.chunks.set first (if fp32 then ls else ls.map bf16to32)) (match s.modelOf q with | some c => c.vocab | none => 0) = none →
      ∃ t, exec (.logitChunk (some h) slot pos first fp32 ls) s = .next t ∧ s.Seen t i p ∧
        t.reqs = s.reqs.set slot { q with chunks := q.chunks.set first (if fp32 then ls else ls.map bf16to32) } ∧
        t = { s with reqs := t.reqs, peers := t.peers, aon := t.aon, freeCtr := t.freeCtr }) ∧
    (∀ (slot pos first : Nat) (fp32 : Bool) (ls pk : List Nat) (q : Req), s.generating slot = some q → q.onFallback = true → q.fbReady = true →
      s.checkSender q none q.epoch = none → pos = s.duePos q → ls.length ≤ chunkCap fp32 → overlaps q.chunks first ls.length = false →
      s.allServed q = true → fp32 = q.args.sample.logitsFp32 → q.maskReady = false →
      packetOf (q.chunks.set first (if fp32 then ls else ls.map bf16to32)) (match s.modelOf q with | some c => c.vocab | none => 0) = some pk →
      exec (.logitChunk none slot pos first fp32 ls) s = .next ((s.setReq slot { q with
        chunks := q.chunks.set first (if fp32 then ls else ls.map bf16to32), packet := some ⟨pos, pk⟩ }).bump Fld.GRM_MASK_WAITS_COUNT q.part))

/-- How tiles are pulled (R582, R602, R603): a pull that passes its checks is answered with the tile of its frame; the answer to the last pull
of a move is installed, and the session, whole now, is WAITING or ACTIVE and confirmed to the source; a pull without an answer is sent again
until its third attempt.
Complete, each with its own effect: tilePull, pullAnswer, pullTimeout. -/
def Obligations.Pulls : Prop :=
  ∀ s : State, s.awake = true →
    (∀ (h : Hdr) (i slot k layer head column frame : Nat) (p : Peer) (m : MoveOut) (d : Tile), s.Calm → s.Hears h 6 false (some 48) i p →
      s.sec.removed.contains h.part = false → s.checkHandle (some h.part) h.handle = none → slot = handleSlot h.handle →
      s.movesOut.get? slot = some m → m.peer = i → m.offered.find? (fun kv => kv.2 == frame) = some (k, frame) →
      s.framePoisoned frame = false → (m.staging.has k = false ∨ m.filled.contains k = true) → s.tiles.get? (.frame frame) = some d →
      ∃ t, exec (.tilePull h layer head column frame) s = .next t ∧ s.Seen t i p ∧
        s.Says t h.port (h.reply (.pullAnswer .ok none (some ⟨d.layer, d.head, colOf (s.pairsOf slot) k, false, d⟩))) .bg ∧
        t = { s with ports := t.ports, peers := t.peers, aon := t.aon, freeCtr := t.freeCtr, selfRefresh := t.selfRefresh }) ∧
    (∀ (h : Hdr) (i slot k frame : Nat) (p : Peer) (m : MoveIn) (w : Pull) (d : PushedTile) (e : MEntry) (g : Tier) (loc : TileLoc) (v : State)
        (x : Port), State.Calm { s with movesIn := [] } → s.movesIn = [(slot, m)] → m.peer = i → s.Hears h 7 true (some 18480) i p →
      s.pulls.find? (fun z => z.tag == h.tag && z.peer == i) = some w → w.slot = slot → w.entry = k →
      (s.ses slot).mortar.entries.get? k = some e → (∀ z ∈ (s.ses slot).mortar.entries.set k { e with tier := g, frame := frame, peer := 0, shared := false }, z.2.tier ≠ .remote) →
      State.newPlace { s.peerSeen i with pulls := s.pulls.filter (fun z => z != w) } slot (colOf (s.pairsOf slot) k) = some (g, frame, loc, v) →
      s.ports.get? p.port = some x → x.up = true → ∃ t, exec (.pullAnswer h 0 (some d)) s = .next t ∧ t.movesIn = [] ∧ t.pulls = s.pulls.filter (fun z => z != w) ∧
        (t.ses slot).state = (match s.req slot with | some q => if q.phase = .admitted then .waiting else .active | none => .waiting) ∧ (t.ses slot).movePeer = 0 ∧ (t.ses slot).moveEpoch = 0 ∧
        (t.ses slot).mortar = { (s.ses slot).mortar with
          entries := (s.ses slot).mortar.entries.set k { e with tier := g, frame := frame, peer := 0, shared := false } } ∧
        t.tiles.get? loc = some { d.tile with source := s.handleOf slot, shared := false, prefixId := 0xFFFF } ∧
        (∀ j, j ≠ slot → t.ses j = s.ses j) ∧
        s.Says t p.port ⟨p.fabric, (s.ses slot).part, 0, m.comp, m.srcHandle, 0, .moveConfirm (s.handleOf slot)⟩ .bg ∧
        t = { s with movesIn := [], pulls := t.pulls, sessions := t.sessions, tiles := t.tiles, tileFrames := t.tileFrames, cores := t.cores,
                     selfRefresh := t.selfRefresh, regs := t.regs, nextSeq := t.nextSeq, peers := t.peers, ports := t.ports, pmc := t.pmc, out := t.out, aon := t.aon,
                     freeCtr := t.freeCtr }) ∧
    (∀ (tag slot : Nat) (w : Pull) (m : MoveIn) (p : Peer) (e : MEntry) (x : Port), State.Calm { s with movesIn := [] } →
      s.movesIn = [(slot, m)] → s.pulls.find? (fun z => z.tag == tag) = some w → w.slot = slot → w.tries < 3 →
      s.peers.get? m.peer = some p → (s.ses slot).mortar.entries.get? w.entry = some e → s.ports.get? p.port = some x → x.up = true →
      ∃ t, exec (.pullTimeout tag) s = .next (t.pumpPulls slot) ∧
        s.Says t p.port ⟨p.fabric, (s.ses slot).part, 0, m.comp, m.srcHandle, w.tag,
          .tilePull (if s.headsOf slot = 0 then 0 else pairOf (s.pairsOf slot) w.entry / s.headsOf slot)
            (if s.headsOf slot = 0 then 0 else pairOf (s.pairsOf slot) w.entry % s.headsOf slot) (colOf (s.pairsOf slot) w.entry) e.frame⟩ .bg ∧
        t = { s with ports := t.ports, pulls := s.pulls.map (fun z => if z = w then { w with tries := w.tries + 1 } else z) })

/-- How a session moves between devices (R199, R202, R203, R585): an offer that the target can hold makes a PULLING session whose entries name
the source's frames, answered with its handle, and its pulls go out; the source keeps the handle of the answer, or ends the move where the
target refuses; with the confirmation and the epoch the session is FREE at the source and its handle forwards; an abort returns the session to
the state it had.
Complete, each with its own effect: moveOffer, moveAnswer, moveConfirm, moveAbort. -/
def Obligations.Moves : Prop :=
  ∀ s : State, s.Calm → s.awake = true →
    (∀ (h : Hdr) (i slot : Nat) (p : Peer) (o : Offer) (v : State), s.Hears h 8 false (some o.lastBytes) i p → (s.peerSeen i).newSlot h.part = some slot →
      s.room h.part o.entries.length 0 ≠ .refused → s.credits h.part + o.entries.length ≤ s.fld Fld.MEM_PART_QUOTA_REMOTE_1K h.part * 1024 →
      State.buildMoveIn { s.peerSeen i with freeCtr := (s.peerSeen i).freeCtr + 1 } slot i h o = some v → o.entries ≠ [] →
      ∃ t, exec (.moveOffer h o) s = .next (t.pumpPulls slot) ∧ t.movesIn = [(slot, ⟨i, o.handle, o.comp, o.epoch⟩)] ∧
        (t.ses slot).state = .pulling ∧ (t.ses slot).op = .moveIn ∧ (t.ses slot).gen = (s.ses slot).gen ∧ (t.ses slot).part = h.part ∧
        (t.ses slot).mortar.entries = o.entries.map (fun e => (e.index, { e.entry with tier := .remote, shared := false, peer := i })) ∧
        (t.ses slot).nextPos = o.nextPos ∧ (t.ses slot).log = o.log ∧ (t.ses slot).main = o.main ∧ (t.ses slot).comp = o.comp ∧
        (t.ses slot).hints = o.hints ∧ (t.ses slot).hostData = o.hostData ∧ (t.ses slot).movePeer = i ∧ (t.ses slot).moveEpoch = o.epoch ∧
        (∀ j, j ≠ slot → t.ses j = s.ses j) ∧ s.Says t h.port (h.reply (.moveAnswer .ok (mkHandle h.part slot (s.ses slot).gen))) .bg ∧
        t = { s with movesIn := t.movesIn, sessions := t.sessions, mortarFrames := t.mortarFrames, regs := t.regs, nextSeq := t.nextSeq,
                     peers := t.peers, ports := t.ports, pmc := t.pmc, out := t.out, aon := t.aon, freeCtr := t.freeCtr }) ∧
    (∀ (h : Hdr) (i slot : Nat) (p : Peer) (m : MoveOut) (w : Word64), s.Hears h 8 true (some 44) i p → s.moveByTag i h.tag = some (slot, m) → m.target = none →
      ∃ t, exec (.moveAnswer h 0 w) s = .next t ∧ s.Seen t i p ∧ t.movesOut = s.movesOut.set slot { m with target := some w } ∧
        t = { s with movesOut := t.movesOut, peers := t.peers, aon := t.aon, freeCtr := t.freeCtr }) ∧
    (∀ (h : Hdr) (i slot q : Nat) (p : Peer) (m : MoveOut) (st : Status) (w : Word64) (u : Sub), s.Hears h 8 true (some 36) i p →
      s.moveByTag i h.tag = some (slot, m) → s.movesOut.get? slot = some m → m.target = none → st ≠ 0 → u.owner = ⟨m.fn, m.sq, m.tag⟩ →
      u.sq = some q → s.Open u.fn q → ∃ t, exec (.moveAnswer h st w) s = .next t ∧ s.Posts t u .peerMoveRefused st.toNat 0 ∧
        t.movesOut = s.movesOut.erase slot ∧ t.ses slot = { s.ses slot with
          state := if m.parked then .parked else .waiting, op := .none, movePeer := 0, moveEpoch := 0, lastUse := t.aon } ∧ (∀ j, j ≠ slot → t.ses j = s.ses j) ∧
        (∀ kf ∈ m.staging, ∀ f, t.tileFrames.get? kf.2 = some f → f.state = .zeroing) ∧
        s.Io { t with movesOut := s.movesOut, sessions := s.sessions, tiles := s.tiles, tileFrames := s.tileFrames, peers := s.peers,
                      regs := s.regs, nextSeq := s.nextSeq, aon := s.aon, freeCtr := s.freeCtr }) ∧
    (∀ (h : Hdr) (i slot : Nat) (p : Peer) (m : MoveOut) (w : Word64), s.Hears h 8 false (some 44) i p → s.checkHandle (some h.part) h.handle = none →
      slot = handleSlot h.handle → s.movesOut.get? slot = some m → m.peer = i → m.target = some w →
      s.epochReached (s.ses slot).comp m.epoch = false → ∃ t, exec (.moveConfirm h w) s = .next t ∧ s.Seen t i p ∧
        t.movesOut = s.movesOut.set slot { m with confirmed := true } ∧
        t = { s with movesOut := t.movesOut, peers := t.peers, aon := t.aon, freeCtr := t.freeCtr }) ∧
    (∀ (h : Hdr) (i slot q : Nat) (p : Peer) (m : MoveOut) (w : Word64) (u : Sub), s.Hears h 8 false (some 44) i p → s.checkHandle (some h.part) h.handle = none →
      slot = handleSlot h.handle → s.movesOut.get? slot = some m → m.peer = i → m.target = some w →
      s.epochReached (s.ses slot).comp m.epoch = true → s.forwards.length < 65536 → u.owner = ⟨m.fn, m.sq, m.tag⟩ → u.sq = some q →
      s.Open u.fn q → ∃ t, exec (.moveConfirm h w) s = .next t ∧ s.Posts t u .ok (w.toNat + (i % 1024) * 2 ^ 64) 0 ∧
        t.movesOut = s.movesOut.erase slot ∧ (t.ses slot).state = .free ∧ (t.ses slot).mortar.entries = [] ∧
        t.forwards = s.forwards ++ [⟨(s.ses slot).part, s.handleOf slot, p.id, w⟩] ∧ (∀ j, j ≠ slot → t.ses j = s.ses j) ∧
        s.Io { t with movesOut := s.movesOut, sessions := s.sessions, freed := s.freed, forwards := s.forwards, mirror := s.mirror,
                      bonds := s.bonds, qry := s.qry, tiles := s.tiles, tileFrames := s.tileFrames, mortarFrames := s.mortarFrames,
                      prefixes := s.prefixes, regs := s.regs, nextSeq := s.nextSeq, peers := s.peers, aon := s.aon, freeCtr := s.freeCtr }) ∧
    (∀ (h : Hdr) (i slot q : Nat) (p : Peer) (m : MoveOut) (st : Status) (u : Sub), s.Hears h 8 false (some 40) i p → s.checkHandle (some h.part) h.handle = none →
      slot = handleSlot h.handle → s.movesOut.get? slot = some m → m.peer = i → u.owner = ⟨m.fn, m.sq, m.tag⟩ → u.sq = some q → s.Open u.fn q →
      ∃ t, exec (.moveAbort h st) s = .next t ∧ s.Posts t u .peerMoveAborted 0 0 ∧ t.movesOut = s.movesOut.erase slot ∧
        t.ses slot = { s.ses slot with
          state := if m.parked then .parked else .waiting, op := .none, movePeer := 0, moveEpoch := 0, lastUse := t.aon } ∧ (∀ j, j ≠ slot → t.ses j = s.ses j) ∧
        (∀ kf ∈ m.staging, ∀ f, t.tileFrames.get? kf.2 = some f → f.state = .zeroing) ∧
        s.Io { t with movesOut := s.movesOut, sessions := s.sessions, tiles := s.tiles, tileFrames := s.tileFrames, peers := s.peers,
                      regs := s.regs, nextSeq := s.nextSeq, aon := s.aon, freeCtr := s.freeCtr })

-- Requests (02, 07, 08, 09, 10, 20) -------------------------------------------------------------------------------------------------------------------

/-- How a request starts (R170, R257, R260, R337, R460, R580, R805): a REQ_SUBMIT with text that passes its checks waits for its tokens and
changes nothing else in the session, but that it is a user of the grammar that it names; with the tokens there, from a tokenisation or in the
submission itself, and frames and room for them, the session is ACTIVE, its count of requests is one higher, and a handoff is open over the
positions to append. Orders 1 to 5 of R805 refuse it without effect.
Complete, each with its own effect: reqSubmit, tokenisationDone. -/
def Obligations.RequestStarts : Prop :=
  ∀ s : State, s.Calm →
    (∀ (u : Sub) (a : ReqArgs) (st : Status) (x : Session), s.Takes u (.reqSubmit a) → s.Quiet u.slot → s.ses u.slot = x →
      (let block := u.paramBad = true ∨ a.block ≠ 0x70 + (a.stops.map List.length).sum
       let resv := u.resv = true ∨ a.sample.resv = true ∨ a.text.resv = true ∨ a.gram.resv = true
       let map := ∃ c, s.compHeld x.comp = some c ∧ c.part = x.part ∧ c.main = x.main
       block ∧ st = .configParamBlock ∨ ¬block ∧ (resv ∧ st = .configReservedField ∨ ¬resv ∧
        (x.state = .failed ∧ u.flags.exact = false ∧ st = .stateLostFailed ∨
          u.flags.exact = true ∧ x.state ≠ .parked ∧ x.state ≠ .failed ∧ st = .configWrongState ∨
          u.flags.exact = false ∧ x.state ≠ .opened ∧ x.state ≠ .waiting ∧ x.state ≠ .parked ∧ x.state ≠ .failed ∧ s.movesIn.has u.slot = false ∧
            st = .configWrongState ∨
          (if u.flags.exact then x.state = .parked ∨ x.state = .failed else x.state = .opened ∨ x.state = .waiting ∨ x.state = .parked) ∧
            u.flags.fallback = false ∧ x.comp ≠ 0 ∧ ¬map ∧ st = .configCompositionUnknown))) →
      ∃ t, exec (.reqSubmit u a) s = .next t ∧ s.Posts t u st 0 0 ∧ s.Io t) ∧
    (∀ (u : Sub) (a : ReqArgs) (bs : List Byte) (c : Ctx) (q : Req), s.Takes u (.reqSubmit a) → s.Quiet u.slot → s.checkReqA u a = none →
      (s.ses u.slot).noted = [] → q = newReq u a (s.ses u.slot).part u.slot (s.ses u.slot).main
        (s.ctxClass (s.ses u.slot).part (s.ses u.slot).main == .lc) (s.marks (s.ses u.slot).part) [] →
      s.ctx q.part q.main = some c → c.state = .ready → s.checkReqB q = none → s.appendsNothing q = false → a.input = .text bs →
      bs.length ≤ zeroActsAs (s.fld Fld.TXT_CFG_MAX_INTAKE_MIB q.part) 1 * 2 ^ 20 →
      ∃ t, exec (.reqSubmit u a) s = .next t ∧
        t.req u.slot = some { q with wait := some .tokens, grammar := if a.gram.mode = 0 then none else some a.gram.id } ∧
        t.grammars = (if a.gram.mode = 0 then s.grammars else s.grammars.modify (q.part, a.gram.id) (fun r => { r with users := r.users + 1 })) ∧
        t.ses u.slot = { s.ses u.slot with op := .request } ∧ (∀ j, j ≠ u.slot → t.ses j = s.ses j ∧ t.req j = s.req j) ∧
        s.Io { t with reqs := s.reqs, sessions := s.sessions, grammars := s.grammars }) ∧
    (∀ (u : Sub) (a : ReqArgs) (ks fs : List Nat) (c : Ctx) (q : Req) (w : State), s.Takes u (.reqSubmit a) → s.Quiet u.slot →
      s.checkReqA u a = none → (s.ses u.slot).noted = [] → q = newReq u a (s.ses u.slot).part u.slot (s.ses u.slot).main
        (s.ctxClass (s.ses u.slot).part (s.ses u.slot).main == .lc) (s.marks (s.ses u.slot).part) [] →
      s.ctx q.part q.main = some c → c.state = .ready → s.checkReqB q = none → s.appendsNothing q = false → a.input = .tokens ks → ks ≠ [] →
      (∀ k ∈ ks, k < c.img.vocab) → (s.ses u.slot).log.length + ks.length ≤ 1048576 →
      ((s.ses u.slot).state = .opened ∨ (s.ses u.slot).state = .waiting) → s.needsFallback q = false → a.gram.mode = 0 →
      a.sample.seedDevice = false → u.flags.exact = false → s.room q.part (reqTileFrames c.img) 0 = .fits →
      s.allocTiles q.part ⟨q.part, .priv, 0, u.slot, []⟩ (reqTileFrames c.img) = some (fs, w) →
      ∃ t r h, exec (.reqSubmit u a) s = .next t ∧ t.req u.slot = some r ∧ t.handoffs.get? u.slot = some h ∧ r.input = ks ∧ r.phase = .appending ∧
        r.wait = none ∧ r.frames = fs ∧ r.appendFrom = (s.ses u.slot).nextPos ∧
        r.appendTokens = logTokens (s.ses u.slot).log (s.ses u.slot).nextPos ++ ks ∧ r.rangeTo = r.appendFrom + r.appendTokens.length ∧
        r.onFallback = false ∧ h.first = r.appendFrom ∧ h.last = r.rangeTo ∧ h.staged = [] ∧ h.rebuild = false ∧
        (t.ses u.slot).state = .active ∧ (t.ses u.slot).op = .request ∧ (t.ses u.slot).reqCount = ((s.ses u.slot).reqCount + 1) % 2 ^ 32 ∧
        (t.ses u.slot).log = (s.ses u.slot).log ∧ (t.ses u.slot).nextPos = (s.ses u.slot).nextPos ∧
        (∀ j, j ≠ u.slot → t.ses j = s.ses j ∧ t.req j = s.req j) ∧ s.Work t) ∧
    (∀ (slot : Nat) (q : Req) (bs : List Byte) (x : TextSet) (c : Ctx) (k : Nat) (ks fs : List Nat) (v w : State), s.awake = true →
      s.req slot = some q → q.slot = slot → q.part = (s.ses slot).part → q.main = (s.ses slot).main → q.args.input = .text bs →
      s.textOf q.part q.main = some x → q.wait = some .tokens → q.fbCtx = 0x3F → x.invalidBytes q.args.text.specials bs = k →
      (k = 0 ∨ q.args.text.strictUtf8 = false) → x.tokenise q.args.text.specials bs = ks → ks ≠ [] →
      (s.ses slot).log.length + ks.length ≤ 1048576 → ((s.ses slot).state = .opened ∨ (s.ses slot).state = .waiting) →
      s.ctx q.part q.main = some c → s.needsFallback q = false → q.args.gram.mode = 0 → q.args.sample.seedDevice = false → q.exact = false →
      v = s.bump Fld.TXT_INVALID_COUNT q.part k → v.room q.part (reqTileFrames c.img) 0 = .fits →
      v.allocTiles q.part ⟨q.part, .priv, 0, slot, []⟩ (reqTileFrames c.img) = some (fs, w) →
      ∃ t r h, exec (.tokenisationDone slot) s = .next t ∧ t.req slot = some r ∧ t.handoffs.get? slot = some h ∧
        r.input = ks ∧ r.phase = .appending ∧ r.wait = none ∧ r.frames = fs ∧ r.appendFrom = (s.ses slot).nextPos ∧
        r.appendTokens = logTokens (s.ses slot).log (s.ses slot).nextPos ++ ks ∧ r.rangeTo = r.appendFrom + r.appendTokens.length ∧
        r.onFallback = false ∧ h.first = r.appendFrom ∧ h.last = r.rangeTo ∧ h.staged = [] ∧ h.rebuild = false ∧
        (t.ses slot).state = .active ∧ (t.ses slot).reqCount = ((s.ses slot).reqCount + 1) % 2 ^ 32 ∧ (t.ses slot).log = (s.ses slot).log ∧
        (t.ses slot).nextPos = (s.ses slot).nextPos ∧ (∀ j, j ≠ slot → t.ses j = s.ses j ∧ t.req j = s.req j) ∧ s.Work t)

/-- How a held token is committed (R274, R317, R318, R168, R272): while its text does not fit, TAIL is all that changes; where it fits, the token
stands at the end of the session's log, its text in the emit ring, and the request, at its opening draw here, goes on to its first step.
Completes, with its own effect: emitHoldPoll. -/
def Obligations.TokenCommit : Prop :=
  ∀ (s : State) (slot tail : Nat) (q : Req) (h : HeldToken) (e : Emit) (ts : TextStep), s.Calm → s.awake = true → s.req slot = some q →
  q.held = some h → q.emit = some e →
  ts = textStep q.args.text q.args.stops q.utf8 q.stopHold (tokenBytes (s.textOf q.part q.main) q.args.text h.token) →
    (ts.text ≠ [] → { e with tail := tail }.fits (recordBytes ts.text) = false →
      exec (.emitHoldPoll slot tail) s = .next { s with reqs := s.reqs.set slot { q with emit := some { e with tail := tail } } }) ∧
    (∀ c : CtxImage, (ts.text = [] ∨ { e with tail := tail }.fits (recordBytes ts.text) = true) → q.slot = slot → q.opening = true →
      q.onFallback = false → ts.fired = false → h.forced = false → h.token ≠ s.eosOf q → q.committed + 1 < q.args.sample.maxTokens →
      (s.ses slot).log.length + 1 ≤ 1048576 → logFramesFor ((s.ses slot).log.length + 1) ≤ (s.ses slot).logFrames.length →
      s.modelOf q = some c → (∀ j, j < c.pairs → ∃ k d, (s.ses slot).mortar.lastOf c.pairs j = some (k, d) ∧ d.fill < c.geom.p) →
      ∃ t r, exec (.emitHoldPoll slot tail) s = .next t ∧ t.req slot = some r ∧ r.committed = q.committed + 1 ∧ r.opening = false ∧
        r.held = none ∧ r.packet = none ∧ r.chunks = [] ∧ r.phase = q.phase ∧ r.served = q.served ∧
        (t.ses slot).log = (s.ses slot).log ++ [⟨h.token, true, q.firstLog⟩] ∧ (t.ses slot).nextPos = (s.ses slot).nextPos ∧
        (t.ses slot).mortar = (s.ses slot).mortar ∧
        (ts.text ≠ [] → s.Writes t (.emit q.fn (e.ring.base + (if 2 ^ e.ring.log2 < e.head % 2 ^ e.ring.log2 + recordBytes ts.text then 0 else
          e.head % 2 ^ e.ring.log2)) ⟨e.seq, 0, emitFlags ts.stopOut ts.raw ts.repl, ts.text.length, q.committed + 1, 0, ts.text⟩)) ∧
        (∀ j, j ≠ slot → t.ses j = s.ses j ∧ t.req j = s.req j) ∧ s.Work t)

/-- How a request ends (R59, R268, R273, R320, R322, R355, R804): a budget that runs out ends it with its status; its end record, once it
fits, is written before its completion, and until then only TAIL changes; a cancel ends it with CANCELLED.
Complete, each with its own effect: reqCancel, endRecordPoll, deadlineFail. -/
def Obligations.RequestEnds : Prop :=
  ∀ (s : State) (slot n : Nat) (q : Req), s.Calm → s.req slot = some q → q.sq = some n → s.Open q.fn n →
    (∀ b, s.awake = true → b ≤ 2 → (q.budget b).running = true → q.phase = .generating → q.emit = none → s.handoffs.get? slot = none →
      ∃ t, exec (.deadlineFail slot b) s = .next t ∧
        s.Ended t slot q (if b = 0 then .deadlineFirstToken else if b = 1 then .deadlineInterToken else .deadlineTotal)) ∧
    (∀ (tail : Nat) (h : HeldEnd) (e : Emit), s.awake = true → q.heldEnd = some h → q.emit = some e →
      { e with tail := tail }.fits (recordBytes h.text) = true → ∃ t, exec (.endRecordPoll slot tail) s = .next t ∧ s.Ended t slot q h.status ∧
        s.Writes t (.emit q.fn (e.ring.base + (if 2 ^ e.ring.log2 < e.head % 2 ^ e.ring.log2 + recordBytes h.text then 0 else
          e.head % 2 ^ e.ring.log2)) ⟨e.seq, 1, h.flags, h.text.length, q.committed, h.status.toNat * 65536 + h.trimmed % 65536, h.text⟩)) ∧
    (∀ (tail : Nat) (h : HeldEnd) (e : Emit), s.awake = true → q.heldEnd = some h → q.emit = some e →
      { e with tail := tail }.fits (recordBytes h.text) = false →
      exec (.endRecordPoll slot tail) s = .next { s with reqs := s.reqs.set slot { q with emit := some { e with tail := tail } } }) ∧
    (∀ u : Sub, s.Takes u (.reqCancel q.tag) → u.slot = slot → u.fn = q.fn → q.phase = .generating → q.emit = none →
      s.handoffs.get? slot = none → ∃ t, exec (.reqCancel u q.tag) s = .next t ∧ s.Ended t slot q .cancelled)

/-- What the deadline monitor and the mask builder do (R297, R349, R350 to R352, R684): a notice is posted once and completes nothing; a switch
drops what the main model's step holds and goes on with an empty fallback mortar; the prefilled mortar makes the fallback's opening draw due; a
mask that is ready lets the draw go on.
Complete, each with its own effect: maskReady, deadlineNotice, deadlineSwitch, fallbackPrefillDone. -/
def Obligations.Deadlines : Prop :=
  ∀ (s : State) (slot : Nat) (q : Req), s.Calm → s.awake = true → s.req slot = some q →
    (∀ b remain n, b ≤ 2 → (q.budget b).running = true → q.phase ≠ .ending → (q.budget b).noticed = false → (q.budget b).warn ≠ 0 → remain ≤ (q.budget b).us →
      q.sq = some n → s.Open q.fn n → ∃ t, exec (.deadlineNotice slot b remain) s = .next t ∧
        (∃ k h m, s.Writes t (.cqe q.fn k ⟨q.fn, q.sq, q.tag, .ok, BitVec.ofNat 128 (b % 4 + remain % 2 ^ 32 * 2 ^ 64), 0, true, false, none⟩ h m)) ∧
        t.reqs = s.reqs.set slot (q.setBudget b { q.budget b with noticed := true }) ∧ s.Io { t with reqs := s.reqs, regs := s.regs }) ∧
    (∀ (b : Nat) (f : Nat × CtxImage) (r : Req) (v : State), b ≤ 2 → q.slot = slot → q.phase = .generating → q.fbCtx = 0x3F →
      q.wait ≠ some .fallback → s.handoffs.get? slot = none → (q.budget b).running = true → (q.budget b).switch ≠ 0 →
      s.fallbackOf slot = .ready f.1 f.2 → r = { q with pending := [], served := [], held := none, packet := none, chunks := [] } →
      (s.dropStep slot).allocFb r f.2 (s.ses slot).log.length = some v →
      ∃ t es ps, exec (.deadlineSwitch slot b) s = .next t ∧
        t.req slot = some { r with onFallback := true, fbCtx := f.1, fbTiles := es, fbPages := ps, fbReady := false, opening := true,
                                   inter := r.inter.start (s.marks q.part) } ∧
        es.map (·.1) = (fbExpect f.2 (s.ses slot).log.length).map (·.1) ∧ (∀ kv ∈ es, kv.2.fill = 0 ∧ kv.2.tier = .lpddr) ∧
        ps.length = fbPageCount es ∧ t.tileFrames = v.tileFrames ∧ t.mortarFrames = v.mortarFrames ∧
        (∀ j, j ≠ slot → t.req j = s.req j) ∧ t.sessions = s.sessions ∧ s.Work t) ∧
    (∀ (ts : List PushedTile) (f : Ctx), q.slot = slot → s.ctx q.part q.fbCtx = some f → q.onFallback = true → q.fbReady = false →
      q.phase = .generating → fbTilesOk f.img (s.ses slot).log.length ts = true → s.logIsBack slot = true →
      ∃ t r, exec (.fallbackPrefillDone slot ts) s = .next t ∧ t.req slot = some r ∧ r.fbReady = true ∧ r.opening = true ∧ r.phase = q.phase ∧
        r.committed = q.committed ∧ (∀ j, j ≠ slot → t.req j = s.req j) ∧ 
        t = { s with reqs := t.reqs, tiles := t.tiles, tileFrames := t.tileFrames, selfRefresh := t.selfRefresh }) ∧
    (q.grammar ≠ none → q.maskReady = false → q.phase ≠ .ending → q.packet = none → ∃ t, exec (.maskReady slot) s = .next t ∧
      t.reqs = s.reqs.set slot { q with maskReady := true } ∧ s.Io { t with reqs := s.reqs, regs := s.regs })

-- Parks, persists and revives (02, 05, 12, 13) ---------------------------------------------------------------------------------------------------

/-- How a session is parked (R68, R74 to R76, R173 to R175, R182, R445): a warm park without a TIER 1 tile ends at once; with one it opens a bond, and
once that is staged the tile stands in LPDDR6; a cold dressed park waits for the dressing and changes nothing in the session, and after it stages
its tiles, pages, log and root copy in the quarry under one bond. That the waits of the park's own bonds end within the command is log entry 13.
Complete, each with its own effect: sesPark, dressingDone, bondStaged. -/
def Obligations.Parks : Prop :=
  ∀ s : State, s.Calm →
    (∀ (u : Sub) (o : Option Hints) (h : Hints) (x : Session), s.Takes u (.sesPark o) → s.Quiet u.slot → s.ses u.slot = x → x.state = .waiting →
      h = o.getD x.hints → h.inRange = true → (x.holdsPrivate = false ∨ s.parkKind x.part h = .warm) →
      (∀ kv ∈ x.mortar.entries, kv.2.tier ≠ .store) → x.log = x.perLog →
      ∃ t, exec (.sesPark u o) s = .next t ∧ s.Posts t u .ok 0 0 ∧
        t.ses u.slot = { x with op := .none, hints := h, lastUse := t.aon, sincePersist := 0 } ∧ (∀ j, j ≠ u.slot → t.ses j = s.ses j) ∧
        t.parks = s.parks.erase u.slot ∧
        s.Io { t with sessions := s.sessions, parks := s.parks, regs := s.regs, aon := s.aon, freeCtr := s.freeCtr, nextSeq := s.nextSeq }) ∧
    (∀ (u : Sub) (o : Option Hints) (h : Hints) (x : Session), s.Takes u (.sesPark o) → s.Quiet u.slot → s.ses u.slot = x → x.state = .waiting →
      h = o.getD x.hints → h.inRange = true → (x.holdsPrivate = false ∨ s.parkKind x.part h = .warm) →
      (∃ kv ∈ x.mortar.entries, kv.2.tier = .store) → s.bondOf x.part (s.nextBond x.part) = none →
      ∃ t r b, exec (.sesPark u o) s = .next t ∧ t.ses u.slot = { x with op := .park } ∧ (∀ j, j ≠ u.slot → t.ses j = s.ses j) ∧
        t.parks = s.parks.set u.slot r ∧ t.bonds = s.bonds ++ [b] ∧ b.kind = .warmPark ∧ b.slot = u.slot ∧ b.actions = warmActs b.id (warmBatch r.todo) ∧ r.bond = b.id ∧ r.kind = .warm ∧
        r.owner = u.owner ∧ r.hints = h ∧ (∀ k, k ∈ r.todo ↔ ∃ e, (k, e) ∈ x.mortar.entries ∧ e.tier = .store) ∧
        s.Io { t with sessions := s.sessions, parks := s.parks, bonds := s.bonds, regs := s.regs, nextSeq := s.nextSeq }) ∧
    (∀ (slot k n id : Nat) (x : Session) (r : ParkRun) (b : Bond) (e : MEntry) (t0 : Tile) (s1 : State) (q : Nat), s.awake = true → s.ses slot = x →
      s.parks.get? slot = some r → s.bondOf x.part id = some b → b.kind = .warmPark → b.slot = slot → b.part = x.part → b.id = id → r.todo = [k] →
      r.kind = .warm → x.mortar.entries.get? k = some e → e.tier = .store → s.tileAt e = some t0 → s.poisonedData e = false →
      s.allocTile x.part ⟨x.part, .priv, 0, slot, []⟩ = some (n, s1) → x.log = x.perLog → r.owner.sq = some q → s.Open r.owner.fn q →
      ∃ t, exec (.bondStaged x.part id) s = .next t ∧ t.parks = s.parks.erase slot ∧
        t.tileFrames.get? n = some ⟨x.part, .priv, 0, slot, []⟩ ∧ (∀ j, j ≠ n → t.tileFrames.get? j = s.tileFrames.get? j) ∧
        (∃ m, m = { x.mortar with entries := x.mortar.entries.set k { e with tier := .lpddr, frame := n } } ∧
          t.ses slot = { x with op := .none, hints := r.hints, lastUse := t.aon, sincePersist := 0, mortar := m }) ∧
        (∀ j, j ≠ slot → t.ses j = s.ses j) ∧ t.tiles.get? (.frame n) = some t0 ∧
        (∀ y, t.bondOf x.part id = some y → False) ∧
        (∃ c h m, s.Writes t (.cqe r.owner.fn c (r.owner.answer .ok 0) h m)) ∧
        s.Io { t with sessions := s.sessions, parks := s.parks, bonds := s.bonds, regs := s.regs, aon := s.aon, freeCtr := s.freeCtr,
                      nextSeq := s.nextSeq, tiles := s.tiles, tileFrames := s.tileFrames, selfRefresh := s.selfRefresh }) ∧
    (∀ (u : Sub) (o : Option Hints) (h : Hints) (x : Session) (b : Nat), s.Takes u (.sesPark o) → s.Quiet u.slot → s.ses u.slot = x →
      x.state = .waiting → h = o.getD x.hints → h.inRange = true → x.holdsPrivate = true → s.parkKind x.part h = .dressed →
      b = s.effBudget x.part (s.profile x.part h.profile).anchor (s.profile x.part h.profile).window (s.profile x.part h.profile).budget →
      s.qry.full (s.parkFrames u.slot (s.parkEntries u.slot true b)) = false →
      s.govTakes x.part (s.parkBytes u.slot (s.parkEntries u.slot true b)) = true → (s.profile x.part h.profile).valid = true →
      s.poisonedTile u.slot = false →
      ∃ t r, exec (.sesPark u o) s = .next t ∧ t.ses u.slot = { x with op := .park } ∧ (∀ j, j ≠ u.slot → t.ses j = s.ses j) ∧
        t.parks = s.parks.set u.slot r ∧ r.kind = .dressed ∧ r.dressing = true ∧ r.budget = b ∧
        r.prof = s.profile x.part h.profile ∧ r.decay = s.decayOf x.part ∧ r.hints = h ∧
        r.owner = u.owner ∧ s.Io { t with sessions := s.sessions, parks := s.parks }) ∧
    (∀ (slot : Nat) (x : Session) (r : ParkRun) (ts : List (Nat × Tile)) (d n id : Nat) (s1 s2 s3 : State) (fs gs : List Nat), s.awake = true →
      s.ses slot = x → s.parks.get? slot = some r → r.dressing = true → s.systemUp x.part = true →
      s.bondOf x.part (s.nextBond x.part) = none → s.parkTiles slot r = (ts, d) → n = s.parkFrames slot (ts.map (·.1)) →
      s.qry.full n = false → s.qryRoom x.part n = true → s.openBond x.part .coldPark slot (some r.owner) true = (id, s1) →
      s1.qStages x.part .tile id ts.length = some (fs, s2) → s2.qStages x.part .quarter id (n - ts.length) = some (gs, s3) →
      ∃ t r' y, exec (.dressingDone slot) s = .next t ∧ t.sessions = s.sessions ∧ t.parks = s.parks.set slot r' ∧ r'.bond = id ∧ r'.dropped = d ∧
        r'.dressing = false ∧ r'.tiles.map (·.1) = ts.map (·.1) ∧ t.bonds = s.bonds ++ [y] ∧ y.kind = .coldPark ∧ y.id = id ∧
        y.slot = slot ∧ y.actions = coldActs id slot x.mortar.root (fs ++ gs) ∧ t.qry.staged = s3.qry.staged ∧ t.qry.map = s.qry.map ∧
        t.govUsed x.part = s.govUsed x.part + s.parkBytes slot (ts.map (·.1)) ∧
        t = { s with parks := t.parks, ctxs := t.ctxs, bonds := t.bonds, qry := t.qry, tiles := t.tiles, regs := t.regs, nextSeq := t.nextSeq, freeCtr := t.freeCtr })

/-- How a token log is persisted (R68, R416, R417, R800, R445, R457): after 256 tokens a persist opens as a bond with the frames it stages, or is skipped
where the quarry cannot take it; a page that passes is staged still and reaches no reader; with the page of the mirror record, once every page has
passed, the frames are live, the session's persisted copy is the log as it stood, and the bond is gone. A bond that waits at order 2 opens once its claim is free and there is room: its
command completes.
Complete, each with its own effect: tokenLogPersist, bondOpenGranted, nandProgramDone. -/
def Obligations.Persists : Prop :=
  ∀ (s : State) (slot : Nat) (x : Session), s.Calm → s.awake = true → s.ses slot = x →
    (x.state ≠ .free → 256 ≤ x.sincePersist → (∀ b ∈ s.bonds, b.slot = slot → b.kind ≠ .persist) →
      (x.log = x.perLog ∨ s.qry.full x.perNeed = true ∨ s.qryRoom x.part x.perNeed = false) →
      exec (.tokenLogPersist slot) s = .next { s with sessions := s.sessions.set slot { x with sincePersist := 0 } }) ∧
    (∀ (id : Nat) (s1 s2 : State) (fs : List Nat), s.bondOf x.part (s.nextBond x.part) = none → x.state ≠ .free → 256 ≤ x.sincePersist → (∀ b ∈ s.bonds, b.slot = slot → b.kind ≠ .persist) →
      x.log ≠ x.perLog → s.qry.full x.perNeed = false → s.qryRoom x.part x.perNeed = true →
      s.openBond x.part .persist slot none true x.log.length = (id, s1) → s1.qStages x.part .quarter id x.perNeed = some (fs, s2) →
      ∃ t b, exec (.tokenLogPersist slot) s = .next t ∧ t.ses slot = { x with sincePersist := 0 } ∧ (∀ j, j ≠ slot → t.ses j = s.ses j) ∧
        t.bonds = s.bonds ++ [b] ∧ b.id = id ∧ b.kind = .persist ∧ b.slot = slot ∧ b.arg = x.log.length ∧
        b.actions = [actList .quarryMap fs, actDirectory slot] ∧ t.qry.staged = s2.qry.staged ∧ t.qry.map = s.qry.map ∧
        t.govUsed x.part = s.govUsed x.part + 4096 * (logFramesFor x.log.length - 4 * x.perKept) ∧
        t = { s with sessions := t.sessions, bonds := t.bonds, qry := t.qry, regs := t.regs, nextSeq := t.nextSeq, freeCtr := t.freeCtr }) ∧
    (∀ (p id f ppa : Nat) (b : Bond) (y : Staged) (l : List (Nat × Staged)), s.bondOf p id = some b → s.qry.mounted = true →
      s.qry.readOnly = false → s.qry.mayProgram ppa = true → (b.kind ≠ .coldPark ∨ s.collectsFirst (blockLun (ppaBlock ppa)) = false) →
      s.qry.staged = (f, y) :: l → y.ppa = none → y.owner = p → y.bond = id →
      ∃ t, exec (.nandProgramDone p id ppa true) s = .next t ∧ t.qry.staged = (f, { y with ppa := some ppa }) :: l ∧
        t.qry.pages.get? ppa = some f ∧ t.qry.map = s.qry.map ∧ t = { s with qry := t.qry, pmc := t.pmc, out := t.out }) ∧
    (∀ (id f ppa mppa : Nat) (b : Bond) (y : Staged), s.bonds = [b] → b.part = x.part → b.id = id → b.kind = .persist → b.slot = slot →
      b.quarry = true → s.qry.mounted = true → s.qry.staged = [(f, y)] → y.ppa = some ppa → y.owner = x.part → y.bond = id → y.kind = .quarter →
      x.perFrames.length + 1 = ceilDiv b.arg 4080 →
      ∃ t c, exec (.nandProgramDone x.part id mppa true) s = .next t ∧ t.qry.staged = [] ∧
        t.qry.map = s.qry.map.set f ⟨x.part, .quarter, c, ppa, false, false, s.epochOf x.part⟩ ∧
        t.ses slot = { x with perFrames := x.perFrames ++ [f], perLog := x.log.take b.arg } ∧ (∀ j, j ≠ slot → t.ses j = s.ses j) ∧
        t.bonds = [] ∧ (∃ m, t.mirror.head? = some m ∧ m.slot = slot ∧ m.ses = t.ses slot) ∧
        t = { s with qry := t.qry, sessions := t.sessions, bonds := t.bonds, mirror := t.mirror, regs := t.regs, pmc := t.pmc, out := t.out }) ∧
    (∀ (u : Sub) (d : BitVec 128) (n : Nat), s.bondWaits = [⟨x.part, slot, u, .sesSetHostData d⟩] → u.slot = slot → slot ≠ 4194304 →
      s.bondRoom x.part = true → s.claimed slot = false → s.checkSub u = none → x.state ≠ .moving → u.sq = some n → s.Open u.fn n →
      ∃ t, exec (.bondOpenGranted slot) s = .next t ∧ s.Posts t u .ok 0 0 ∧ t.bondWaits = [] ∧ t.ses slot = { x with hostData := d } ∧
        (∀ j, j ≠ slot → t.ses j = s.ses j) ∧
        s.Io { t with sessions := s.sessions, bondWaits := s.bondWaits, regs := s.regs, nextSeq := s.nextSeq })

/-- How a session comes back (R189, R194, R196, R198, R408, R440): SES_REVIVE of a PARKED session lists what is to be fetched, in its order, and the session
is PULLING; without a quarry or in another state it is refused; a page of the log that has been read leaves the list; a page that cannot be read
makes the session FAILED, ends SES_REVIVE with STATE_LOST/failed, and leaves a record.
Complete, each with its own effect: sesRevive, nandReadDone. -/
def Obligations.Revives : Prop :=
  ∀ s : State, s.Calm →
    (∀ (u : Sub) (x : Session), s.Takes u .sesRevive → s.Quiet u.slot → s.ses u.slot = x → x.state = .parked → u.flags.exact = false →
      s.qry.mounted = true → x.perFrames ≠ [] →
      ∃ t, exec (.sesRevive u) s = .next t ∧ t.ses u.slot = { x with op := .revive, state := .pulling } ∧ (∀ j, j ≠ u.slot → t.ses j = s.ses j) ∧
        t.revives = s.revives.set u.slot ⟨some u.owner, x.perFrames, fetchOrder x.mortar.entries (s.pairsOf u.slot) (s.headsOf u.slot),
          s.fld Fld.DRS_CFG_READ_AHEAD x.part, Tally.zero⟩ ∧
        s.Io { t with sessions := s.sessions, revives := s.revives, regs := s.regs, nextSeq := s.nextSeq }) ∧
    (∀ (u : Sub) (x : Session) (st : Status), s.Takes u .sesRevive → s.Quiet u.slot → s.ses u.slot = x →
      ((x.state ≠ .parked ∧ u.flags.exact = false) ∨ (x.state ≠ .parked ∧ x.state ≠ .failed ∧ u.flags.exact = true)) ∧ st = .configWrongState ∨
        (x.state = .parked ∧ u.flags.exact = false ∧ s.qry.mounted = false ∧ st = .mediaQuarryDown) →
      ∃ t, exec (.sesRevive u) s = .next t ∧ s.Posts t u st 0 0 ∧ s.Io t) ∧
    (∀ (slot f g : Nat) (l : List Nat) (r : ReviveRun) (e : QMap), s.awake = true → s.revives = [(slot, r)] → r.logLeft = f :: g :: l →
      (s.ses slot).mortar.pageLocators = [] → s.handoffs.get? slot = none → s.qry.map.get? f = some e → e.key = s.epochOf e.owner →
      s.fld Fld.QRY_WEAR_CFG_DISTURB_K = 0 → ∃ t, exec (.nandReadDone f .hard) s = .next t ∧ t.revives = [(slot, { r with logLeft := g :: l })] ∧
        (t.qry.blk (ppaBlock e.ppa)).reads = Nat.min ((s.qry.blk (ppaBlock e.ppa)).reads + 1) (2 ^ 20 - 1) ∧ t.qry.map = s.qry.map.set f e ∧
        t = { s with revives := t.revives, qry := t.qry, pmc := t.pmc, out := t.out }) ∧
    (∀ (slot f : Nat) (l : List Nat) (r : ReviveRun) (e : QMap) (o : Owner) (n : Nat), s.awake = true → s.revives = [(slot, r)] →
      r.logLeft = f :: l → r.owner = some o → o.sq = some n → s.Open o.fn n → (s.ses slot).mortar.pageLocators = [] → s.req slot = none →
      s.handoffs.get? slot = none → s.qry.map.get? f = some e → s.fld Fld.QRY_WEAR_CFG_DISTURB_K = 0 →
      ∃ t, exec (.nandReadDone f .bad) s = .next t ∧ t.revives = [] ∧ s.Logs t .uc 8 (some e.owner) e.ppa 0 ∧
        t.ses slot = { s.ses slot with state := .failed, op := .none, lastUse := t.aon } ∧ (∀ j, j ≠ slot → t.ses j = s.ses j) ∧
        t.qry.map.get? f = some { e with bad := true } ∧ (∃ c h m, s.Writes t (.cqe o.fn c (o.answer .stateLostFailed 0) h m)) ∧
        s.Io { t with sessions := s.sessions, revives := s.revives, qry := s.qry, err := s.err, aon := s.aon, freeCtr := s.freeCtr, regs := s.regs,
                      nextSeq := s.nextSeq })

/-- What the quarry does when the NAND has ended an operation (R404, R414, R427, R428): a failed program, of a data page or of the page of a mirror
record, retires its block, records a CE of source 9, and the bond goes on with the page still to be programmed; a passed erase frees the block; a failed erase retires it with a CE of source 9; and an
operation that is not ready in time counts as a failure of its kind.
Complete, each with its own effect: nandProgramDone, nandReadDone, nandEraseDone, nandStatusTimeout. -/
def Obligations.NandResults : Prop :=
  ∀ s : State, s.Calm → s.awake = true →
    (∀ (p id ppa f : Nat) (b : Bond) (y : Staged) (c : Instr), c = .nandProgramDone p id ppa false ∨ c = .nandStatusTimeout .program p id ppa →
      s.bondOf p id = some b → b.part = p → s.qry.mounted = true → s.qry.readOnly = false → s.qry.mayProgram ppa = true → s.qry.staged = [(f, y)] →
      (b.kind ≠ .coldPark ∨ s.collectsFirst (blockLun (ppaBlock ppa)) = false) →
      y.ppa = none → y.owner = p → y.bond = id → s.qry.framesIn (ppaBlock ppa) = [] → (s.qRetire (ppaBlock ppa)).qry.freeBlocks ≠ 0 →
      (s.qRetire (ppaBlock ppa)).qry.readOnly = false → (∀ r ∈ s.err.ring, r.cls ≠ .ce) →
      ∃ t, exec c s = .next t ∧ (t.qry.blk (ppaBlock ppa)).state = .retired ∧ ppaBlock ppa ∈ t.qry.badBlocks ∧ t.qry.staged = [(f, y)] ∧
        t.qry.map = s.qry.map ∧ s.Logs t .ce 9 (some p) ppa 0 ∧
        t = { s with qry := t.qry, err := t.err, aon := t.aon, freeCtr := t.freeCtr, regs := t.regs, out := t.out }) ∧
    (∀ (p id ppa : Nat) (b : Bond) (c : Instr), c = .nandProgramDone p id ppa false ∨ c = .nandStatusTimeout .program p id ppa →
      s.bondOf p id = some b → b.part = p → b.quarry = true → s.qry.mounted = true → (∀ kv ∈ s.qry.staged, kv.2.ppa ≠ none) →
      (s.qRetire (ppaBlock ppa)).qry.readOnly = false → (∀ r ∈ s.err.ring, r.cls ≠ .ce) →
      ∃ t, exec c s = .next t ∧ (t.qry.blk (ppaBlock ppa)).state = .retired ∧ ppaBlock ppa ∈ t.qry.badBlocks ∧ t.qry.staged = s.qry.staged ∧
        t.qry.map = s.qry.map ∧ s.Logs t .ce 9 (some p) ppa 0 ∧
        t = { s with qry := t.qry, err := t.err, aon := t.aon, freeCtr := t.freeCtr, regs := t.regs, out := t.out }) ∧
    (∀ (b : Nat) (x : Blk), s.qry.blk b = x → x.state = .erasing →
      ∃ t, exec (.nandEraseDone b true) s = .next t ∧
        t.qry.blk b = { x with state := .free, erases := Nat.min 65535 (x.erases + 1), valid := 0, reads := 0, next := 0 } ∧
        (∀ j, j ≠ b → t.qry.blk j = s.qry.blk j) ∧ (∀ ppa, ppaBlock ppa = b → t.qry.pages.get? ppa = none ∧ t.qry.metas.get? ppa = none) ∧ t.qry.map = s.qry.map ∧
        t.qry.badBlocks = s.qry.badBlocks ∧ t = { s with qry := t.qry, pmc := t.pmc, out := t.out }) ∧
    (∀ (b : Nat) (c : Instr), c = .nandEraseDone b false ∨ (∃ p id, c = .nandStatusTimeout .erase p id b) → (s.qry.blk b).state = .erasing →
      (s.qRetire b).qry.readOnly = false → (∀ r ∈ s.err.ring, r.cls ≠ .ce) →
      ∃ t, exec c s = .next t ∧ (t.qry.blk b).state = .retired ∧ b ∈ t.qry.badBlocks ∧ t.qry.map = s.qry.map ∧ s.Logs t .ce 9 none (b * 2048) 0 ∧
        t = { s with qry := t.qry, err := t.err, aon := t.aon, freeCtr := t.freeCtr, regs := t.regs, out := t.out }) ∧
    (∀ p id f, exec (.nandStatusTimeout .read p id f) s = exec (.nandReadDone f .bad) s)

/-- The quarry's housekeeping (R408, R413, R419, R423, R425, R431 to R435): a map checkpoint writes back every dirty map page, whose place the directory
then names, and starts the journal again behind a new root record; collection and
folding take the block with the fewest valid pages, move them and start its erase; the patrol counts a read, moves a marked page, and records one
that cannot be read; a governor day begins with its budgets and without charges. Which page a move takes among those that R426 allows is open
(log entry 8).
Complete, each with its own effect: mapCheckpoint, quarryCollection, quarryFolding, quarryPatrol, governorDayBoundary. -/
def Obligations.Housekeeping : Prop :=
  ∀ s : State, s.Calm → s.awake = true → s.qry.mounted = true →
    (∃ t, exec .mapCheckpoint s = .next t ∧ (∀ k ∈ s.qry.dirty, t.qry.dir.has k = true) ∧ (∀ k, k ∉ s.qry.dirty → t.qry.dir.get? k = s.qry.dir.get? k) ∧
      t = { s with qry := { s.qry with journal := [], root := s.qry.root + 1, seq := s.qry.seq + s.qry.dirty.length + 1, dirty := [],
                                       dir := t.qry.dir } }) ∧
    (∀ (c : Instr) (b : Nat) (x : Blk) (st : BlkState) (l : List (Nat × Blk)), s.qry.readOnly = false →
      (∃ lun, c = .quarryCollection lun ∧ s.qry.freeInLun lun * 1000 < s.qry.goodInLun lun * s.fld Fld.QRY_CFG_GC_LOW_PERMIL ∧
          l = s.qry.blocks.filter (fun kv => blockLun kv.1 == lun && kv.2.state == .closedTlc)) ∨
        (c = .quarryFolding ∧ (s.qry.slcFree * 4 < s.qry.slcLimit * s.qry.benchPages true ∨ s.qry.slcLimit < s.qry.slcBlocks) ∧
          l = s.qry.blocks.filter (fun kv => kv.2.state == .closedSlc)) →
      (b, x) ∈ l → x.state = st → s.qry.blk b = x → (∀ kv ∈ l, kv ≠ (b, x) → victimBefore (b, x) kv = true ∧ victimBefore kv (b, x) = false) →
      (s.qry.framesIn b = [] → exec c s = .next { s with qry := (s.qry.modBlk b (fun y => { y with state := .erasing })).log ⟨0, 0, .eraseStart, b, 0, 0⟩ }) ∧
      (∀ (f ppa : Nat) (e : QMap), s.qry.framesIn b = [f] → s.qry.map.get? f = some e → ppaBlock e.ppa = b →
        s.qry.tlcPage (s.qry.rotation (Config.pick s.freeCtr)) = some ppa → ppaBlock ppa ≠ b →
        ∃ t, exec c s = .next t ∧ t.qry.map = s.qry.map.set f { e with ppa := ppa, slc := false, marked := false } ∧
          t.qry.pages.get? ppa = some f ∧ (t.qry.blk b).state = .erasing ∧ (t.qry.blk b).valid = x.valid - 1 ∧
          t = { s with qry := t.qry, pmc := t.pmc, out := t.out, freeCtr := t.freeCtr })) ∧
    (∀ (f : Nat) (e : QMap), s.qry.map.get? f = some e → s.fld Fld.QRY_WEAR_CFG_DISTURB_K = 0 →
      (e.marked = false ∨ e.bad = true ∨ s.qry.readOnly = true →
        ∃ t, exec (.quarryPatrol f .hard) s = .next t ∧ t.qry.map = s.qry.map.set f e ∧
          (t.qry.blk (ppaBlock e.ppa)).reads = Nat.min ((s.qry.blk (ppaBlock e.ppa)).reads + 1) (2 ^ 20 - 1) ∧
          t = { s with qry := t.qry, pmc := t.pmc, out := t.out }) ∧
      (∀ ppa : Nat, e.marked = true → e.bad = false → s.qry.readOnly = false →
        (s.qRead f .hard).qry.tlcPage ((s.qRead f .hard).qry.rotation (Config.pick s.freeCtr)) = some ppa →
        ∃ t, exec (.quarryPatrol f .hard) s = .next t ∧ t.qry.map.get? f = some { e with ppa := ppa, slc := false, marked := false } ∧
          (∀ j, j ≠ f → t.qry.map.get? j = s.qry.map.get? j) ∧ t.qry.pages.get? ppa = some f ∧
          t = { s with qry := t.qry, pmc := t.pmc, out := t.out, freeCtr := t.freeCtr, regs := t.regs }) ∧
      ∃ t, exec (.quarryPatrol f .bad) s = .next t ∧ t.qry.map.get? f = some { e with bad := true } ∧ s.Logs t .uc 8 (some e.owner) e.ppa 0 ∧
        t = { s with qry := t.qry, err := t.err, aon := t.aon, freeCtr := t.freeCtr, regs := t.regs, pmc := t.pmc, out := t.out }) ∧
    (∀ (num den dev sum : Nat), s.qry.logBytes ≠ 0 → s.fld Fld.QRY_WEAR_CFG_LIFE_DAYS ≠ 0 →
      (if s.qry.nandBytes ≤ s.qry.logBytes then num = 1 ∧ den = 1 else num = s.qry.nandBytes ∧ den = s.qry.logBytes) →
      dev = s.fld Fld.QRY_WEAR_CFG_PE_RATED * s.qry.goodBytes * den / (s.fld Fld.QRY_WEAR_CFG_LIFE_DAYS * num) →
      sum = (allParts.map (fun p => if s.fld Fld.MEM_PART_QUOTA_QRY_64K p = 0 then 0 else s.fld Fld.QRY_GOV_WEIGHT p)).sum → sum ≠ 0 →
      ∃ t, exec .governorDayBoundary s = .next t ∧ t = { s with qry := t.qry } ∧
        t.qry = { s.qry with used := [], budget := t.qry.budget, nandBytes := 0, logBytes := 0, waNum := num, waDen := den } ∧
        ∀ p, p < 16 → t.govUsed p = 0 ∧ t.govBudget p =
          dev * (if s.fld Fld.MEM_PART_QUOTA_QRY_64K p = 0 then 0 else s.fld Fld.QRY_GOV_WEIGHT p) / sum)

/-- How vector collections are made, filled and dropped (R471 to R473, R478 to R480, R494, R527): a create takes the lowest free number and the first extent
of the arena that is free; an insert adds one node at the end of the side list with DEL_EPOCH 0; a delete raises TOMB_EPOCH and writes it into
the node; a drop releases the collection, or marks it while a checkpoint reads it. The refusals stand in the orders that the rules give; where a
create breaks several rules the order is the model's (R471 to R473 state none). That a collection closed by poison answers MEDIA/LPDDR6 is
R732.
Complete, each with its own effect: vsrCreate, vsrDrop, vsrInsert, vsrDelete. -/
def Obligations.Collections : Prop :=
  ∀ (s : State) (u : Sub) (p : Nat), s.Calm → s.subPart u = p →
    (∀ (a : VsrCreateArgs) (x : Ctx) (n off : Nat), s.Takes u (.vsrCreate a) → a.geom.ok = true → s.ctx p a.ctx = some x → x.img.kind = .search →
      x.state ≠ .absent → (n < 256 ∧ s.colls.get? n = none ∧ ∀ k, k < n → s.colls.get? k ≠ none) →
      firstFit a.geom.extent x.img.arena 0 (s.extents p a.ctx) = some off →
      ∃ t c, exec (.vsrCreate u a) s = .next t ∧ s.Posts t u .ok n 0 ∧ t.colls = s.colls.set n c ∧ c.part = p ∧ c.ctx = a.ctx ∧ c.geom = a.geom ∧
        c.nodes = [] ∧ c.items = [] ∧ c.graphLen = 0 ∧ c.tombEpoch = 0 ∧ c.entry = none ∧ c.extOff = off ∧ c.extSize = a.geom.extent ∧
        c.dropping = false ∧ s.Io { t with colls := s.colls }) ∧
    (∀ (a : VsrCreateArgs) (x : Ctx) (st : Status), s.Takes u (.vsrCreate a) →
      (a.geom.ok = false ∧ st = .configCollectionGeometry ∨
        a.geom.ok = true ∧ s.ctx p a.ctx = none ∧ st = .configContextKind ∨
        a.geom.ok = true ∧ s.ctx p a.ctx = some x ∧ (x.img.kind ≠ .search ∨ x.state = .absent) ∧ st = .configContextKind ∨
        a.geom.ok = true ∧ s.ctx p a.ctx = some x ∧ x.img.kind = .search ∧ x.state ≠ .absent ∧
          ((∀ n, n < 256 → s.colls.get? n ≠ none) ∧ st = .limitCollections ∨
            (∃ n, n < 256 ∧ s.colls.get? n = none) ∧ firstFit a.geom.extent x.img.arena 0 (s.extents p a.ctx) = none ∧ st = .quotaSearchArena)) →
      ∃ t, exec (.vsrCreate u a) s = .next t ∧ s.Posts t u st 0 0 ∧ s.Io t) ∧
    (∀ (i : VsrItem) (c : Coll), s.Takes u (.vsrInsert i) → s.colls.get? i.coll = some c → c.part = p → c.dropping = false → c.closed = false →
      i.item ≠ 0xFFFFFFFF → i.vec.length = c.geom.dims → c.live i.item = none → c.sideLen ≠ 16777216 → c.nodes.length ≠ c.geom.capacity →
      ∃ t, exec (.vsrInsert u i) s = .next t ∧ s.Posts t u .ok 0 0 ∧
        t.colls = s.colls.set i.coll { c with items := c.items.set i.item c.nodes.length,
                                              nodes := c.nodes ++ [⟨i.sketch % 2 ^ c.geom.sketchBits, i.vec, i.scale, [], i.item, 0⟩] } ∧
        (s.bump Fld.VSR_INSERTS_COUNT p).Io { t with colls := s.colls }) ∧
    (∀ (i : VsrItem) (c : Coll) (st : Status), s.Takes u (.vsrInsert i) →
      (s.colls.get? i.coll = none ∧ st = .configCollectionUnknown ∨
        s.colls.get? i.coll = some c ∧
          ((c.part ≠ p ∨ c.dropping = true) ∧ st = .configCollectionUnknown ∨
            c.part = p ∧ c.dropping = false ∧
              (c.closed = true ∧ st = .mediaLpddr6 ∨
                c.closed = false ∧ ((i.item = 0xFFFFFFFF ∨ i.vec.length ≠ c.geom.dims) ∧ st = .configItemRange ∨
                  i.item ≠ 0xFFFFFFFF ∧ i.vec.length = c.geom.dims ∧ (c.live i.item ≠ none ∧ st = .configItemExists ∨
                    c.live i.item = none ∧ (c.sideLen = 16777216 ∧ st = .limitSideList ∨
                      c.sideLen ≠ 16777216 ∧ c.nodes.length = c.geom.capacity ∧ st = .limitCollectionFull)))))) →
      ∃ t, exec (.vsrInsert u i) s = .next t ∧ s.Posts t u st 0 0 ∧
        (if st = .limitSideList then s.bump Fld.VSR_SIDE_REFUSALS_COUNT p else s).Io t) ∧
    (∀ (coll item n : Nat) (c : Coll) (x : Node), s.Takes u (.vsrDelete coll item) → s.colls.get? coll = some c → c.part = p → c.dropping = false →
      c.closed = false → c.items.get? item = some n → c.nodes[n]? = some x → x.del = 0 →
      ∃ t l, exec (.vsrDelete u coll item) s = .next t ∧ s.Posts t u .ok 0 0 ∧
        t.colls = s.colls.set coll { c with tombEpoch := c.tombEpoch + 1, nodes := l } ∧ l[n]? = some { x with del := c.tombEpoch + 1 } ∧
        (∀ k, k ≠ n → l[k]? = c.nodes[k]?) ∧ l.length = c.nodes.length ∧ s.Io { t with colls := s.colls }) ∧
    (∀ (coll item : Nat) (c : Coll), s.Takes u (.vsrDelete coll item) → s.colls.get? coll = some c → c.part = p → c.dropping = false →
      c.closed = false → c.live item = none → ∃ t, exec (.vsrDelete u coll item) s = .next t ∧ s.Posts t u .configItemUnknown 0 0 ∧ s.Io t) ∧
    (∀ (coll : Nat) (c : Coll), s.Takes u (.vsrDrop coll) → s.colls.get? coll = some c → c.part = p → c.dropping = false → s.scans.get? coll = none →
      ∃ t, exec (.vsrDrop u coll) s = .next t ∧ s.Posts t u .ok 0 0 ∧
        t.colls = (if c.held = 0 then s.colls.erase coll else s.colls.set coll { c with dropping := true }) ∧ t.scans.get? coll = none ∧
        s.Io { t with colls := s.colls, scans := s.scans }) ∧
    (∀ (coll : Nat) (c : Coll), s.Takes u (.vsrDrop coll) → (s.colls.get? coll = none ∨ s.colls.get? coll = some c ∧ (c.part ≠ p ∨ c.dropping = true)) →
      ∃ t, exec (.vsrDrop u coll) s = .next t ∧ s.Posts t u .configCollectionUnknown 0 0 ∧ s.Io t)

/-- How collections are searched and pointed (R359, R482 to R484, R487, R488, R490, R491, R493, R497): a query without a scan window answers at once from the
snapshot it takes, and its context has done work; with a window it joins the open batch, which runs when the window ends or SCAN_MAX queries are there; results are visible
nodes of the snapshot, min(K, |C|) of them; VSR_POINT asks for pointing and with SWEEP for a sweep; a batch moves the first nodes of the side
list into the graph, changes no more of a node than its list, and keeps every list at R neighbours.
Complete, each with its own effect: vsrQuery, vsrPoint, scanWindowExpiry, pointingBatchDone. -/
def Obligations.Queries : Prop :=
  ∀ (s : State) (p : Nat), s.Calm →
    (∀ (u : Sub) (q : VsrAsk) (c : Coll) (x : Ctx) (r : VsrRun), s.Takes u (.vsrQuery q) → s.subPart u = p → s.colls.get? q.coll = some c → c.part = p →
      c.dropping = false → c.closed = false → (1 ≤ q.k ∧ q.k ≤ 1024 ∧ q.k ≤ q.ef ∧ q.ef ≤ 1024 ∧ q.k ≤ q.rerank ∧ q.rerank ≤ 1024) →
      q.vec.length = c.geom.dims → s.ctx p c.ctx = some x → r = ⟨u.fn, u.sq, u.tag, q, p, c.graphLen, c.sideLen, c.tombEpoch⟩ →
      (x.state = .ready → s.fld Fld.VSR_CFG_SCAN_WINDOW p = 0 → ∃ t l, exec (.vsrQuery u q) s = .next t ∧ s.Writes t (.data u.fn (.results l)) ∧
        s.Posts t u .ok l.length 0 ∧ l = (c.results r).1 ∧
        t.ctxs = s.ctxs.modify (p, c.ctx) (fun y => { y with idleDowns := 0 }) ∧ (s.bump Fld.VSR_QUERIES_COUNT p).Io { t with ctxs := s.ctxs }) ∧
      (x.state = .ready → s.fld Fld.VSR_CFG_SCAN_WINDOW p ≠ 0 → (s.scans.getD q.coll []).length + 1 < s.scanMax p →
        ∃ t, exec (.vsrQuery u q) s = .next t ∧ t.scans = s.scans.set q.coll (s.scans.getD q.coll [] ++ [r]) ∧ s.Io { t with scans := s.scans }) ∧
      (x.state = .loading → ∃ t, exec (.vsrQuery u q) s = .next t ∧ t.ctxs = s.ctxs.set (p, c.ctx) { x with held := x.held ++ [(u, .vsrQuery q)] } ∧
        s.Io { t with ctxs := s.ctxs })) ∧
    (∀ (u : Sub) (q : VsrAsk) (c : Coll) (st : Status), s.Takes u (.vsrQuery q) → s.subPart u = p →
      (s.colls.get? q.coll = none ∧ st = .configCollectionUnknown ∨
        s.colls.get? q.coll = some c ∧ ((c.part ≠ p ∨ c.dropping = true) ∧ st = .configCollectionUnknown ∨
          c.part = p ∧ c.dropping = false ∧ (c.closed = true ∧ st = .mediaLpddr6 ∨
            c.closed = false ∧ (q.k = 0 ∨ 1024 < q.k ∨ q.ef < q.k ∨ 1024 < q.ef ∨ q.rerank < q.k ∨ 1024 < q.rerank) ∧ st = .configQueryParams))) →
      ∃ t, exec (.vsrQuery u q) s = .next t ∧ s.Posts t u st 0 0 ∧ s.Io t) ∧
    (∀ (coll n : Nat) (r : VsrRun) (c : Coll), s.awake = true → s.scans = [(coll, [r])] → s.colls.get? coll = some c → r.ask.coll = coll →
      r.sq = some n → s.Open r.fn n →
      ∃ t l k h m, exec (.scanWindowExpiry coll) s = .next t ∧ s.Writes t (.data r.fn (.results l)) ∧
        s.Writes t (.cqe r.fn k (Owner.answer ⟨r.fn, r.sq, r.tag⟩ .ok l.length) h m) ∧ l = (c.results r).1 ∧ t.scans = [] ∧
        t.ctxs = s.ctxs.modify (r.part, c.ctx) (fun y => { y with idleDowns := 0 }) ∧
        (s.bump Fld.VSR_QUERIES_COUNT r.part).Io { t with scans := s.scans, ctxs := s.ctxs }) ∧
    (∀ (r : VsrRun) (c : Coll),
      (∀ e ∈ (c.results r).1, ∃ (n : Nat) (x : Node), c.nodes[n]? = some x ∧ e.item = x.item ∧ (x.del = 0 ∨ r.e0 < x.del)) ∧
      (c.results r).1.length = Nat.min r.ask.k (Nat.min r.ask.rerank
        (((c.walk (r.ask.sketch % 2 ^ c.geom.sketchBits) r.ask.ef r.g0).1.filter (fun b => c.visible r.e0 b.node)).length +
          ((List.range' r.g0 r.l0).filter (fun n => c.visible r.e0 n)).length))) ∧
    (∀ (u : Sub) (coll : Nat) (c : Coll), s.Takes u (.vsrPoint coll) → s.subPart u = p → s.colls.get? coll = some c → c.part = p →
      c.dropping = false → c.closed = false →
      ∃ t, exec (.vsrPoint u coll) s = .next t ∧ s.Posts t u .ok 0 0 ∧
        t.colls = s.colls.set coll { c with asked := true, sweep := c.sweep || u.flags.sweep } ∧ s.Io { t with colls := s.colls }) ∧
    (∀ (coll n : Nat) (c : Coll), s.awake = true → s.colls.get? coll = some c → s.points c = true →
      n = (if s.flag Fld.VSR_POINT_CFG_AUTO c.part = true ∨ c.asked = true then
        Nat.min (Nat.min 1024 (zeroActsAs (s.fld Fld.VSR_POINT_CFG_POINT_BATCH c.part) 1)) c.sideLen else 0) →
      ∃ y, exec (.pointingBatchDone coll) s = .next { s.bump Fld.VSR_POINTED_COUNT c.part n with colls := s.colls.set coll y } ∧
        y = { c with graphLen := c.graphLen + n, nodes := y.nodes, entry := (if c.graphLen = 0 ∧ n ≠ 0 then some 0 else c.entry),
                     asked := c.asked && y.sideLen != 0, sweep := false } ∧ y.nodes.length = c.nodes.length ∧
        (∀ (k : Nat) (x : Node), c.nodes[k]? = some x → ∃ a : List Nat, y.nodes[k]? = some { x with adj := a } ∧ (x.adj.length ≤ c.geom.degree → a.length ≤ c.geom.degree))) ∧
    (∀ (coll : Nat), s.awake = true → (∀ c, s.colls.get? coll = some c → s.points c = false) → exec (.pointingBatchDone coll) s = .next s)

/-- How compositions and peers come and go on the host's word (R588, R590, R595 to R597, R605, R606): a map of a new composition takes the first free entry; a
newer map becomes current, and the map it replaces is retained while something uses it; the checks of CMP_INSTALL stand in R596's order; a removed
composition is freed once nothing uses it; a meter tick counts ELAPSED, and WEIGHTED by the cores that ran for the composition since the last tick; PEER_ADD reserves an entry, of the idle peer with the
oldest LAST_USE where none is free, and sends ADMIT_ASK. Which of several ports leads to the endpoint is open (log entry 8). That CMP_REMOVE
completes at once is the model's reading (log entry 51).
Complete, each with its own effect: cmpInstall, cmpRemove, peerAdd, meterTick. -/
def Obligations.Compositions : Prop :=
  ∀ (s : State) (p : Nat), s.Calm →
    (∀ (u : Sub) (m : CMap) (k : Nat), s.Takes u (.cmpInstall m) → s.subPart u = p → s.movesOut = [] → m.ok = true → m.part = p →
      s.compById m.comp = none → (∀ kv ∈ s.comps, kv.2.part = p → kv.2.main ≠ m.main) → s.comps.length < 256 →
      (k < 256 ∧ s.comps.get? k = none ∧ ∀ j, j < k → s.comps.get? j ≠ none) →
      ∃ t, exec (.cmpInstall u m) s = .next t ∧ s.Posts t u .ok 0 0 ∧ t.comps = s.comps.set k ⟨m.comp, p, m.main, m, [], false, 0, 0, 0⟩ ∧
        s.Io { t with comps := s.comps }) ∧
    (∀ (u : Sub) (m : CMap) (k : Nat) (c : Comp), s.Takes u (.cmpInstall m) → s.subPart u = p → s.movesOut = [] → m.ok = true → m.part = p →
      s.comps.find? (fun kv => kv.2.id == m.comp) = some (k, c) → c.part = p → c.main = m.main → m.epoch < 2 ^ 32 → c.cur.epoch < 2 ^ 32 →
      (1 ≤ (m.epoch + 2 ^ 32 - c.cur.epoch) % 2 ^ 32 ∧ (m.epoch + 2 ^ 32 - c.cur.epoch) % 2 ^ 32 < 2 ^ 31) →
      ∃ t, exec (.cmpInstall u m) s = .next t ∧ s.Posts t u .ok 0 0 ∧
        t.comps = s.comps.set k { c with cur := m, old := if s.mapUsed c.id c.cur.epoch = true then [c.cur] else [] } ∧ s.Io { t with comps := s.comps }) ∧
    (∀ (u : Sub) (m : CMap) (c : Comp) (st : Status), s.Takes u (.cmpInstall m) → s.subPart u = p →
      ((m.ok = false ∨ m.part ≠ p) ∧ st = .configMap ∨
        m.ok = true ∧ m.part = p ∧
          (s.compById m.comp = none ∧ (∃ kv ∈ s.comps, kv.2.part = p ∧ kv.2.main = m.main) ∧ st = .configMap ∨
            s.compById m.comp = none ∧ (∀ kv ∈ s.comps, kv.2.part = p → kv.2.main ≠ m.main) ∧ 256 ≤ s.comps.length ∧ st = .limitCompositions ∨
            s.compById m.comp = some c ∧ (c.part ≠ p ∨ c.main ≠ m.main) ∧ st = .configMap ∨
            s.compById m.comp = some c ∧ c.part = p ∧ c.main = m.main ∧
              ((m.epoch + 2 ^ 32 - c.cur.epoch % 2 ^ 32) % 2 ^ 32 = 0 ∨ 2 ^ 31 ≤ (m.epoch + 2 ^ 32 - c.cur.epoch % 2 ^ 32) % 2 ^ 32) ∧ st = .configMap)) →
      ∃ t, exec (.cmpInstall u m) s = .next t ∧ s.Posts t u st 0 0 ∧ s.Io t) ∧
    (∀ (u : Sub) (id k : Nat) (c : Comp), s.Takes u (.cmpRemove id) → s.subPart u = p → (k, c) ∈ s.comps → c.id = id → c.part = p →
      (∀ kv ∈ s.comps, kv.2.id = id → kv = (k, c)) →
      ∃ t, exec (.cmpRemove u id) s = .next t ∧ s.Posts t u .ok 0 0 ∧ s.Io { t with comps := s.comps } ∧
        t.comps = s.comps.filterMap (fun kv => if kv.2.id = id then (if s.compIdle c = true then none else some (k, { c with removing := true })) else some kv)) ∧
    (∀ (u : Sub) (id : Nat), s.Takes u (.cmpRemove id) → s.subPart u = p → (∀ kv ∈ s.comps, kv.2.id = id → kv.2.part ≠ p) →
      ∃ t, exec (.cmpRemove u id) s = .next t ∧ s.Posts t u .configCompositionUnknown 0 0 ∧ s.Io t) ∧
    (s.awake = true → ∃ t, exec .meterTick s = .next t ∧
      t.cores = s.cores.map (fun kv => (kv.1, kv.2.nextTick)) ∧
      t = { s with comps := t.comps, cores := t.cores, aon := t.aon, freeCtr := t.freeCtr, pmc := t.pmc, out := t.out } ∧
      (∀ k, s.comps.get? k = none → t.comps.get? k = none) ∧
      ∀ (k n : Nat) (c : Comp), s.comps.get? k = some c →
        n = s.fld Fld.CMP_WEIGHTS_W_CORE c.part * (s.cores.filter (fun kv => s.runsFor c kv.2)).length * 65536
          + s.fld Fld.CMP_WEIGHTS_W_FRAME c.part * s.framesFor c + c.frac →
        t.comps.get? k = some { c with elapsed := c.elapsed + 1, weighted := c.weighted + BitVec.ofNat 64 (n / 65536), frac := n % 65536 }) ∧
    (∀ (u : Sub) (fabric parts i : Nat) (x : Peer), s.Takes u (.peerAdd fabric parts) → s.admitting fabric = some (i, x) →
      ∃ t, exec (.peerAdd u fabric parts) s = .next t ∧
        t.peers = s.peers.set i { x with parts := x.parts ||| parts % 65536, asks := x.asks ++ [u.owner] } ∧ s.Io { t with peers := s.peers }) ∧
    (∀ (u : Sub) (fabric parts i : Nat) (b : State) (ps : AMap Nat Peer), s.Takes u (.peerAdd fabric parts) → s.admitting fabric = none → i < 1024 →
      (s.peers.get? i = none ∧ (∀ k, k < i → s.peers.get? k ≠ none) ∧ b = s ∧ ps = s.peers ∨
        (∀ k, k < 1024 → s.peers.get? k ≠ none) ∧ ps = s.peers.erase i ∧ b = s.bump Fld.CMP_EVICTIONS_COUNT ∧
          ∃ x : Peer, (i, x) ∈ s.peers ∧ x.state = .admitted ∧ s.busyOf i = 0 ∧ x.asks = [] ∧
            ∀ kv ∈ s.peers, kv ≠ (i, x) → kv.1 < 1024 → kv.2.state = .admitted → s.busyOf kv.1 = 0 → x.lastUse < kv.2.lastUse) →
      s.portsTo fabric ≠ [] →
      ∃ t n nonce, exec (.peerAdd u fabric parts) s = .next t ∧ n ∈ s.portsTo fabric ∧
        t.peers = ps.set i ⟨0, .admitting, false, n, parts % 65536, fabric, t.aon, 0, false, true, [u.owner], [nonce]⟩ ∧
        s.Says t n ⟨fabric, 0, 0, 0, 0, 0, .admitAsk (parts % 65536) nonce⟩ .bg ∧
        b.Io { t with peers := s.peers, ports := s.ports, freeCtr := s.freeCtr }) ∧
    (∀ (u : Sub) (fabric parts : Nat), s.Takes u (.peerAdd fabric parts) → s.admitting fabric = none → (∀ k, k < 1024 → s.peers.get? k ≠ none) →
      (∀ kv ∈ s.peers, kv.1 < 1024 → kv.2.state = .admitted → s.busyOf kv.1 ≠ 0) →
      ∃ t, exec (.peerAdd u fabric parts) s = .next t ∧ s.Posts t u .peerTableFull 0 0 ∧ s.Io t)

/-- How grammars come and go (R285 to R287, R383): a load registers the checked image under the lowest free ID with its entry's LOAD_GEN one higher, in frames of
the partition, and waits where those are still ZEROING; an unload releases the entry and its frames, or waits for the requests that run with it; each names what refuses it.
Complete, each with its own effect: grmLoad, grmUnload. -/
def Obligations.Grammars : Prop :=
  ∀ (s : State) (u : Sub) (p : Nat), s.Calm → s.subPart u = p →
    (∀ (main id : Nat) (img : GrmImage) (x : TextSet) (fs : List Nat) (v : State), s.Takes u (.grmLoad main img) → u.resv = false →
      s.mainCtx p main = true → s.textOf p main = some x → img.offence x = none →
      (id < 1023 ∧ s.grammars.get? (p, id) = none ∧ ∀ k, k < id → s.grammars.get? (p, k) ≠ none) →
      s.morUsed p + ceilDiv img.bytes 4096 ≤ s.morCount p → s.bondRoom p = true →
      s.allocMors p ⟨p, .priv, 0, 0, []⟩ (ceilDiv img.bytes 4096) = some (fs, v) →
      ∃ t g, exec (.grmLoad u main img) s = .next t ∧ s.Posts t u .ok id 0 ∧ g = (s.loadGens.getD (p, id) 0 + 1) % 65536 ∧
        t.grammars = s.grammars.set (p, id) ⟨main, img, g, false, 0, fs⟩ ∧ t.loadGens = s.loadGens.set (p, id) g ∧ t.mortarFrames = v.mortarFrames ∧
        s.Io { t with grammars := s.grammars, loadGens := s.loadGens, mortarFrames := s.mortarFrames, regs := s.regs, nextSeq := s.nextSeq,
                      freeCtr := s.freeCtr }) ∧
    (∀ (main : Nat) (img : GrmImage) (x : TextSet), s.Takes u (.grmLoad main img) → u.resv = false → s.mainCtx p main = true →
      s.textOf p main = some x → img.offence x = none → (∃ k, k < 1023 ∧ s.grammars.get? (p, k) = none) →
      s.room p 0 (ceilDiv img.bytes 4096) = .waits →
      ∃ t, exec (.grmLoad u main img) s = .next t ∧ t.allocWait = s.allocWait ++ [(u, .grmLoad main img)] ∧
        s.Io { t with allocWait := s.allocWait, regs := s.regs }) ∧
    (∀ (main n : Nat) (img : GrmImage) (x : TextSet) (st : Status), s.Takes u (.grmLoad main img) → u.resv = false →
      (s.mainCtx p main = false ∧ st = .configContextKind ∧ n = 0 ∨
        s.mainCtx p main = true ∧ (s.textOf p main = none ∧ st = .configNoTokenizer ∧ n = 0 ∨
          s.textOf p main = some x ∧ (img.offence x = some n ∧ st = .configGrammarImage ∨
            img.offence x = none ∧ n = 0 ∧ ((∀ k, k < 1023 → s.grammars.get? (p, k) ≠ none) ∧ st = .limitGrammars ∨
              (∃ k, k < 1023 ∧ s.grammars.get? (p, k) = none) ∧ s.room p 0 (ceilDiv img.bytes 4096) = .refused ∧ st = .quotaLpddr6)))) →
      ∃ t, exec (.grmLoad u main img) s = .next t ∧ s.Posts t u st n 0 ∧ s.Io t) ∧
    (∀ (id : Nat) (g : Grammar), s.Takes u (.grmUnload id) → u.resv = false → s.grammars.get? (p, id) = some g → g.unloading = false →
      (g.users = 0 → ∃ t, exec (.grmUnload u id) s = .next t ∧ s.Posts t u .ok 0 0 ∧ t.grammars = s.grammars.erase (p, id) ∧
        (∀ n ∈ g.frames, ∀ f, t.mortarFrames.get? n = some f → f.state = .zeroing) ∧
        s.Io { t with grammars := s.grammars, tileFrames := s.tileFrames, mortarFrames := s.mortarFrames, tiles := s.tiles, regs := s.regs,
                      nextSeq := s.nextSeq, freeCtr := s.freeCtr }) ∧
      (g.users ≠ 0 → ∃ t, exec (.grmUnload u id) s = .next t ∧ s.Posts t u .ok 0 0 ∧
        t.grammars = s.grammars.set (p, id) { g with unloading := true } ∧ s.Io { t with grammars := s.grammars })) ∧
    (∀ (id : Nat), s.Takes u (.grmUnload id) → u.resv = false →
      (s.grammars.get? (p, id) = none ∨ ∃ g, s.grammars.get? (p, id) = some g ∧ g.unloading = true) →
      ∃ t, exec (.grmUnload u id) s = .next t ∧ s.Posts t u .configGrammarUnknown 0 0 ∧ s.Io t)

/-- How keys are released to a partition (R638, R643, R645): KEY_QUOTE makes a fresh quote of PURPOSE 2 for a slot of kind 2 or 3; KEY_IMPORT loads the key
of a blob that passes its checks and ends the quote; one that fails them leaves the slot without a key, counts, and counts towards the alarm of
repeated attestation failure; in confidential-host mode PF0 is refused both. The bytes of the certificates are a free value (log entry 38), and
so is the status of a quote for a slot that holds no such key of the partition (log entry 39).
Complete, each with its own effect: keyQuote, keyImport. -/
def Obligations.Keys : Prop :=
  (∀ (s : State) (u : Sub) (slot nonce : Nat) (b : Blob) (c : HostCmd) (i : Instr), s.Calm → (s.sec.conf.contains (s.subPart u) && u.fn.isPf) = true →
    (c = .keyQuote slot nonce ∧ i = .keyQuote u slot nonce ∨ c = .keyImport slot b ∧ i = .keyImport u slot b) → s.Takes u c →
    ∃ t, exec i s = .next t ∧ s.Posts t u .securityConfidential 0 0 ∧ s.Io t) ∧
  ∀ (s : State) (u : Sub) (p slot : Nat), s.Calm → s.subPart u = p → (s.sec.conf.contains p && u.fn.isPf) = false →
    (∀ (nonce : Nat) (k : KeySlot), s.Takes u (.keyQuote slot nonce) → s.sec.slots.get? slot = some k → k.owner = some p → (k.kind = 2 ∨ k.kind = 3) →
      ∃ t q n, exec (.keyQuote u slot nonce) s = .next t ∧ s.Writes t (.data u.fn (.quote q)) ∧ 480 ≤ n ∧ n ≤ 4576 ∧ s.Posts t u .ok n 0 ∧
        q.purpose = 2 ∧ q.part = some p ∧ q.nonce = nonce ∧ q.peerId = s.sec.fuses.peerId ∧ q.hwType = s.fld Fld.GLB_HW_HW_TYPE ∧ q.alarmCount = s.sec.fuses.alarmCount ∧
        q.wrapGen = s.sec.fuses.wrapGen ∧ q.latched = (s.sec.latched != 0) ∧ q.frozen = s.sec.frozen ∧ q.debug = s.sec.debug ∧
        q.rollback = s.boot.fired.rollback ∧ q.measFw = s.boot.fired.digest ∧ q.changeSeq = s.sec.changeSeq ∧ q.number = s.sec.quotes + 1 ∧
        t.sec = { s.sec with quotes := s.sec.quotes + 1, slots := s.sec.slots.set slot { k with quote := some (s.sec.quotes + 1) } } ∧
        s.Io { t with sec := s.sec, freeCtr := s.freeCtr }) ∧
    (∀ nonce : Nat, s.Takes u (.keyQuote slot nonce) →
      (∀ k, s.sec.slots.get? slot = some k → k.owner = some p → k.kind ≠ 2 ∧ k.kind ≠ 3) →
      ∃ t st, exec (.keyQuote u slot nonce) s = .next t ∧ (∃ n, st = Status.open_ n) ∧ s.Posts t u st 0 0 ∧ s.Io { t with freeCtr := s.freeCtr }) ∧
    (∀ (b : Blob) (k : KeySlot), s.Takes u (.keyImport slot b) → s.sec.slots.get? slot = some k → k.owner = some p → (k.kind = 2 ∨ k.kind = 3) →
      b.sigOk = true → k.quote = some b.quote → b.kind = k.kind → (b.kind = 2 → b.image = k.image) → b.tagOk = true →
      ∃ t, exec (.keyImport u slot b) s = .next t ∧ s.Posts t u .ok 0 0 ∧
        t.sec = { s.sec with slots := s.sec.slots.set slot { k with state := .loaded, epoch := s.epochOf p, quote := none, retain := b.retain } } ∧
        s.Io { t with sec := s.sec }) ∧
    (∀ (b : Blob) (k : KeySlot), s.Takes u (.keyImport slot b) → s.sec.slots.get? slot = some k → k.owner = some p → (k.kind = 2 ∨ k.kind = 3) →
      (b.sigOk = false ∨ k.quote ≠ some b.quote ∨ b.kind ≠ k.kind ∨ (b.kind = 2 ∧ b.image ≠ k.image) ∨ b.tagOk = false) →
      s.sec.fails.length + 1 < s.fld Fld.SEC_ALARM_POLICY_ATTEST_LIMIT →
      ∃ t, exec (.keyImport u slot b) s = .next t ∧ s.Posts t u .securityKeyRelease 0 0 ∧
        t.sec = { s.sec with slots := s.sec.slots.set slot { k with state := .provisioned, quote := none }, raw := clearSource s.sec.raw 6,
                             fails := t.sec.fails } ∧
        t.aon ∈ t.sec.fails ∧
        (s.bump Fld.SEC_RELEASE_FAILS_COUNT p).Io { t with sec := s.sec, aon := s.aon, freeCtr := s.freeCtr })

/-- How a change record takes effect at run time (R652, R653, R655, R656, R658 to R660, R707): one that fails a check is refused and counted; the values of
kinds 1 to 4 take effect only if the plumb check passes over them, and otherwise BOOT_PLUMB names the reason and no other register changes but
the counter; a record applied is in force, and its SEQ is the last; an alarm level lies at or above its floor; a re-arm clears the latch once its
sources are gone and never on a spent device. That an alarm record is named by the number of its error record is the model's reading (log entry
37).
Completes, with its own effect: secChange. -/
def Obligations.Changes : Prop :=
  ∀ (s : State) (u : Sub) (r : ChangeRec) (ok : Prop), s.Calm → s.Takes u (.secChange r) →
  (ok ↔ r.wellFormed = true ∧ r.target = s.sec.fuses.peerId ∧ s.authoritiesFor r = some (r.opKey, r.custKey) ∧ r.sigs = true ∧ s.sec.changeSeq < r.seq ∧ r.digest = true ∧ (s.sec.latched = 0 ∨ r.kind = 5)) →
    (¬ok ∨ r.payload = .removal →
      ∃ t, exec (.secChange u r) s = .next t ∧ s.Posts t u .securityChangeRecord 0 0 ∧ (s.bump Fld.SEC_CHANGE_REFUSED_COUNT).Io t) ∧
    (∀ (v : State) (pl : List PlaceRef) (o : Offence), ok →
      ((∃ p, r.payload = .plan p ∧ v = s.loadRecord r ∧ pl = s.resolve p.places) ∨
        (∃ k, r.payload = .keys k ∧ k.foreign = false ∧ v = (s.loadRecord r).drawSeeds ∧ pl = s.boot.places) ∨
        ((∃ a b, r.payload = .alarms a b) ∨ ∃ a b c, r.payload = .binding a b c) ∧ v = s.loadRecord r ∧ pl = s.boot.places) →
      (∀ x, v.Io x → x.plumb (s.actual false) pl = some o) →
      ∃ t, exec (.secChange u r) s = .next t ∧ s.Posts t u .securityChangeRecord 0 0 ∧ t.fld Fld.BOOT_PLUMB_REASON = o.reason % 256 ∧
        (∀ x, o.place = some x → t.fld Fld.BOOT_PLUMB_ITEM = x % 2 ^ 32) ∧
        (∀ x : Reg, x.cls ≠ .bootPlumb → x.cls ≠ .secChangeRefused → t.reg x = s.reg x) ∧ s.Io { t with regs := s.regs, freeCtr := s.freeCtr }) ∧
    (∀ (v : State), ok →
      ((∃ k, r.payload = .keys k ∧ k.foreign = false ∧ v = (s.loadRecord r).drawSeeds) ∨
        ((∃ a b, r.payload = .alarms a b) ∨ ∃ a b c, r.payload = .binding a b c) ∧ v = s.loadRecord r) →
      (∀ x, v.Io x → x.plumb (s.actual false) s.boot.places = none) →
      ∃ t, exec (.secChange u r) s = .next t ∧ s.Posts t u .ok 0 0 ∧
        t.sec = { v.sec with changeSeq := r.seq, inForce := ⟨r.kind, r.seq, r.id⟩ :: s.sec.inForce.filter (fun x => x.kind != r.kind) } ∧
        v.Io { t with sec := v.sec }) ∧
    (∀ (a b n : Nat), r.payload = .alarms a b → n < 7 → (s.loadRecord r).fld Fld.SEC_ALARM_POLICY_ATTEST_LIMIT = b % 256 ∧
      bitsOf ((s.loadRecord r).fld Fld.SEC_ALARM_POLICY_LEVELS) (2 * n + 1) (2 * n) =
        Nat.max (bitsOf a (2 * n + 1) (2 * n)) (if n = 3 then 2 else 1) ∧ s.loadRecord r = { s with regs := (s.loadRecord r).regs }) ∧
    (∀ (a b : Nat) (c : Bool), r.payload = .binding a b c → (s.loadRecord r).sec.authority = some (a, b) ∧ (s.loadRecord r).sec.requireUnit = c) ∧
    (∀ (k : KeyPolicy), ok → r.payload = .keys k → k.foreign = true →
      ∃ t, exec (.secChange u r) s = .next t ∧ s.Posts t u .securityChangeRecord 0 0 ∧ t.fld Fld.BOOT_PLUMB_REASON = 0x66 ∧
        (∀ x : Reg, x.cls ≠ .bootPlumb → x.cls ≠ .secChangeRefused → t.reg x = s.reg x) ∧ s.Io { t with regs := s.regs, freeCtr := s.freeCtr }) ∧
    (∀ (p : Plan) (pl : List PlaceRef), ok → r.payload = .plan p → pl = s.resolve p.places → s.ctxs = [] →
      (∀ q, (s.loadRecord r).coresOf q = s.coresOf q) → (∀ x, (s.loadRecord r).Io x → x.plumb (s.actual false) pl = none) →
      ∃ t, exec (.secChange u r) s = .next t ∧ s.Posts t u .ok 0 0 ∧ t.boot = { s.boot with plan := some p, places := pl, unconf := false } ∧
        t.sec.changeSeq = r.seq ∧ (∀ x ∈ pl, ∀ i, x.img = some i → ∃ y, t.ctxs.get? (x.part, x.ctx) = some y ∧ y.state = .loading) ∧
        s.Io { t with boot := s.boot, sec := s.sec, ctxs := s.ctxs, regs := s.regs, cores := s.cores, tileFrames := s.tileFrames,
                      mortarFrames := s.mortarFrames, tiles := s.tiles, reports := s.reports, qry := s.qry, freeCtr := s.freeCtr }) ∧
    (ok → r.payload = .debug → ∃ t, exec (.secChange u r) s = .next t ∧ s.Posts t u .ok 0 0 ∧
      t.sec = { s.sec with debug := true, changeSeq := r.seq } ∧ s.Io { t with sec := s.sec }) ∧
    (∀ (w : Nat), ok → r.payload = .rearm → w = (if s.failsLimit = true then s.sec.raw else clearSource s.sec.raw 6) →
      (∀ st, s.sec.spent = true ∧ st = .securitySpent ∨ s.sec.spent = false ∧ (r.arg ≠ s.sec.record ∧ st = .securityChangeRecord ∨
          r.arg = s.sec.record ∧ w &&& s.sec.latched ≠ 0 ∧ st = .securityAlarmLatched) →
        ∃ t, exec (.secChange u r) s = .next t ∧ s.Posts t u st 0 0 ∧ t.sec = { s.sec with raw := w } ∧
          (s.bump Fld.SEC_CHANGE_REFUSED_COUNT).Io { t with sec := s.sec }) ∧
      (s.sec.spent = false → r.arg = s.sec.record → w &&& s.sec.latched = 0 →
        ∃ t, exec (.secChange u r) s = .next t ∧ s.Posts t u .ok 0 0 ∧ t.pins = { s.pins with alarmOut := false } ∧
          t.sec = { s.sec with raw := w, latched := 0, level := 0, frozen := false, changeSeq := r.seq } ∧
          s.Io { t with sec := s.sec, pins := s.pins }))

/-- How a checkpoint is written and released (R499 to R501, R511 to R514, R516, R518): a write that fails a check is refused, one whose series has an open
checkpoint waits; to a host ring each shard that the have list lacks is written in order, then the manifest, stamped, with the HEAD of the ring
after it; the step is then the newest complete one, and no session is changed but in its CKP_STEP; a record that does not fit waits for room
and goes on with it; in the quarry the first shard that no index entry holds opens a bond with its frames staged, or ends the write where the
quarry cannot take it; CKP_RELEASE drops one manifest and its references. The order of the checks is the model's.
Complete, each with its own effect: ckpWrite, ckpRelease, ckpRingRoom. -/
def Obligations.Checkpoints : Prop :=
  ∀ (s : State) (p n : Nat), s.Calm →
    (∀ (u : Sub) (a : CkpAsk) (st : Status), s.Takes u (.ckpWrite a) → s.subPart u = p → a.series = n →
      (a.host = true ∧ a.ring.ok = false ∧ st = .configParamBlock ∨ ¬(a.host = true ∧ a.ring.ok = false) ∧
        (a.step ≤ s.ckpNewest p n ∧ st = .configCkpStep ∨ s.ckpNewest p n < a.step ∧
          ((a.scope % 16 = 0 ∨ 65536 < a.handles.length ∨ ∃ o ∈ a.objs, s.ckpForeign p o = true) ∧ st = .configCkpScope ∨
            (a.scope % 16 ≠ 0 ∧ a.handles.length ≤ 65536 ∧ ∀ o ∈ a.objs, s.ckpForeign p o = false) ∧
              (s.ckpKey p = false ∧ st = .securityCkpKey ∨
                s.ckpKey p = true ∧ a.host = false ∧ s.qry.mounted = false ∧ st = .mediaQuarryDown)))) →
      ∃ t, exec (.ckpWrite u a) s = .next t ∧ s.Posts t u st 0 0 ∧ s.Io t) ∧
    (∀ (u : Sub) (a : CkpAsk) (r : CkpRun), s.Takes u (.ckpWrite a) → s.subPart u = p → a.series = n → s.checkCkp p a = none →
      s.ckpRun p n = some r →
      ∃ t, exec (.ckpWrite u a) s = .next t ∧ t.ckp = { s.ckp with queue := [(u, .ckpWrite a)] } ∧ s.Io { t with ckp := s.ckp }) ∧
    (∀ (u : Sub) (a : CkpAsk) (r : CkpRun) (l : List Shard), s.Takes u (.ckpWrite a) → s.subPart u = p → a.series = n → a.host = true →
      s.checkCkp p a = none → s.ckpRun p n = none → r = (s.ckpOpen u p a).2 → (∀ k ∈ r.slots, s.ckpUnreadable k = false) →
      l = r.todo.filter (fun sh => !(a.held.contains sh)) →
      (l.map Shard.bytes).sum + r.man.bytes + (a.head + 2 ^ 64 - a.tail) % 2 ^ 64 ≤ 2 ^ a.ring.log2 →
      ∃ t, exec (.ckpWrite u a) s = .next t ∧ s.Posts t u .ok l.length 0 ∧
        (∀ x sh y, l = x ++ sh :: y →
          s.Writes t (.ckpShard u.fn (a.ring.base + (a.head + (x.map Shard.bytes).sum) % 2 ^ a.ring.log2) a.step sh)) ∧
        s.Writes t (.ckpManifest u.fn (a.ring.base + (a.head + (l.map Shard.bytes).sum) % 2 ^ a.ring.log2) { r.man with stamp := t.aon }) ∧
        s.Writes t (.head u.fn a.ring.ctrl ((a.head + (l.map Shard.bytes).sum + r.man.bytes) % 2 ^ 64)) ∧
        t.ckp.newest.get? (p, n) = some a.step ∧ t.ckpRun p n = none ∧
        (∀ k, { t.ses k with ckpStep := (s.ses k).ckpStep } = s.ses k) ∧
        s.Io { t with ckp := s.ckp, sessions := s.sessions, colls := s.colls, regs := s.regs, qry := s.qry, tiles := s.tiles,
                      nextSeq := s.nextSeq, aon := s.aon, freeCtr := s.freeCtr }) ∧
    (∀ (u : Sub) (a : CkpAsk) (e : ManSes), s.subPart u = p → e ∈ (s.ckpOpen u p a).2.man.sessions →
      ∃ k, s.ckpSkips k = false ∧ e.handle = s.handleOf k ∧ e.nextPos = (s.ses k).nextPos ∧ e.logCount = (s.ses k).log.length) ∧
    (∀ (tail q : Nat) (r : CkpRun), s.awake = true → s.ckpRun p n = some r → r.ask.host = true → r.stopped = true → r.todo = [] → r.slots = [] →
      r.colls = [] → r.man.bytes + (r.head + 2 ^ 64 - tail) % 2 ^ 64 ≤ 2 ^ r.ask.ring.log2 → r.sq = some q → s.Open r.fn q →
      ∃ t k h m, exec (.ckpRingRoom p n tail) s = .next t ∧ s.Writes t (.cqe r.fn k (Owner.answer ⟨r.fn, r.sq, r.tag⟩ .ok r.count) h m) ∧
        s.Writes t (.ckpManifest r.fn (r.ask.ring.base + r.head % 2 ^ r.ask.ring.log2) { r.man with stamp := t.aon }) ∧
        s.Writes t (.head r.fn r.ask.ring.ctrl ((r.head + r.man.bytes) % 2 ^ 64)) ∧
        t.ckp.newest.get? (p, n) = some r.man.step ∧ t.ckpRun p n = none) ∧
    (∀ (tail : Nat) (r : CkpRun) (sh : Shard), s.awake = true → tail < 2 ^ 64 → s.ckpRun p n = some r → r.ask.host = true → r.stopped = true →
      r.todo = [sh] → r.slots = [] → r.colls = [] → r.ask.held.contains sh = false →
      sh.bytes + (r.head + 2 ^ 64 - tail) % 2 ^ 64 ≤ 2 ^ r.ask.ring.log2 → r.ask.ring.log2 ≤ 30 →
      2 ^ r.ask.ring.log2 < sh.bytes + (r.head + 2 ^ 64 - tail) % 2 ^ 64 + r.man.bytes →
      ∃ t, exec (.ckpRingRoom p n tail) s = .next t ∧ s.Writes t (.ckpShard r.fn (r.ask.ring.base + r.head % 2 ^ r.ask.ring.log2) r.ask.step sh) ∧
        s.Writes t (.head r.fn r.ask.ring.ctrl ((r.head + sh.bytes) % 2 ^ 64)) ∧
        t.ckpRun p n = some { r with tail := tail, todo := [], stored := sh :: r.stored, head := (r.head + sh.bytes) % 2 ^ 64, count := r.count + 1 } ∧
        (s.bump Fld.CKP_WRITTEN_COUNT p).Io { t with ckp := s.ckp, aon := s.aon, freeCtr := s.freeCtr }) ∧
    (∀ tail, s.awake = true → (∀ r, s.ckpRun p n = some r → r.ask.host = false ∨ r.stopped = false) →
      exec (.ckpRingRoom p n tail) s = .next s) ∧
    (∀ (u : Sub) (a : CkpAsk) (r : CkpRun) (sh : Shard) (l : List Shard), s.Takes u (.ckpWrite a) → s.subPart u = p → a.series = n → a.host = false →
      a.scope % 16 = 4 → s.checkCkp p a = none → s.ckpRun p n = none → r = (s.ckpOpen u p a).2 → r.todo = sh :: l → s.shardAt p sh = none →
      (∀ st, s.ckpRefuses p sh.frames = some st → (∀ b ∈ s.bonds, b.part = p → b.kind ≠ .shard ∧ b.kind ≠ .manifest) →
        ∃ t, exec (.ckpWrite u a) s = .next t ∧ s.Posts t u st 0 0 ∧ t.ckpRun p n = none ∧
          (s.bump Fld.CKP_SKIPPED_COUNT p 0).Io { t with ckp := s.ckp }) ∧
      (∀ fs v, s.bondOf p (s.nextBond p) = none → s.ckpRefuses p sh.frames = none → s.qStages p .tile (s.nextBond p) sh.frames = some (fs, v) →
        ∃ t b, exec (.ckpWrite u a) s = .next t ∧ t.ckpRun p n = some r ∧ t.qry.staged = v.qry.staged ∧ t.bonds = s.bonds ++ [b] ∧
          b.id = s.nextBond p ∧ b.part = p ∧ b.kind = .shard ∧ b.arg = n ∧
          b.actions = [act .checkpoint n (Config.freeValue 84 b.id), actList .quarryMap fs] ∧ t.govUsed p = s.govUsed p + 18432 * sh.frames ∧
          s.Io { t with ckp := s.ckp, bonds := s.bonds, qry := s.qry, regs := s.regs, nextSeq := s.nextSeq, freeCtr := s.freeCtr })) ∧
    (∀ (u : Sub) (step : Nat), s.Takes u (.ckpRelease n step) → s.subPart u = p →
      (∀ m ∈ s.ckp.mans.getD (p, n) [], m.1.step ≠ step) →
      ∃ t, exec (.ckpRelease u n step) s = .next t ∧ s.Posts t u .configCkpUnknown 0 0 ∧ s.Io t) ∧
    (∀ (u : Sub) (m : Manifest × List Nat), s.Takes u (.ckpRelease n m.1.step) → s.subPart u = p →
      s.ckp.mans.getD (p, n) [] = [m] →
      ∃ t, exec (.ckpRelease u n m.1.step) s = .next t ∧ s.Posts t u .ok 0 0 ∧ t.ckp.mans.getD (p, n) [] = [] ∧
        (∀ k, k ≠ (p, n) → t.ckp.mans.get? k = s.ckp.mans.get? k) ∧ (∀ x ∈ t.ckp.index.getD p [], x.refs ≠ 0 ∨ x.holds ≠ 0) ∧
        (∀ f ∈ m.2, t.qry.map.get? f = none) ∧
        s.Io { t with ckp := s.ckp, qry := s.qry, tiles := s.tiles, regs := s.regs, nextSeq := s.nextSeq })

/-- How a checkpoint is restored (R519 to R526): a restore whose manifest cannot be had or read, or whose key is missing, is refused; a weight set goes
whole into the context that declares its source, or not at all, with the reason and the first shard entry that failed; a session goes into a
new slot with the fields, log and positions of its shards, and the result list gives its handle. The order of the checks is the
specification's, R520.
Completes, with its own effect: ckpRestore. -/
def Obligations.Restores : Prop :=
  ∀ (s : State) (p : Nat) (u : Sub) (a : CkpRestoreAsk), s.Calm → s.Takes u (.ckpRestore a) → s.subPart u = p →
    (∀ (st : Status),
      (a.host = true ∧ a.man = none ∧ st = .configCkpManifest ∨ a.host = true ∧ a.man ≠ none ∧ a.sigOk = false ∧ st = .securityCkpSignature ∨
        a.host = false ∧ s.qry.mounted = false ∧ st = .mediaQuarryDown ∨
        a.host = false ∧ s.qry.mounted = true ∧ (∀ m ∈ s.ckp.mans.getD (p, a.series) [], a.step ≠ 0 ∧ m.1.step ≠ a.step) ∧ st = .configCkpUnknown ∨
        (∃ m, s.restoreMan p a = .ok m) ∧ s.ckpKey p = false ∧ st = .securityCkpKey) →
      ∃ t, exec (.ckpRestore u a) s = .next t ∧ s.Posts t u st 0 0 ∧ s.Io t) ∧
    (∀ (m : Manifest) (key : Word64) (r : Reading) (kc : (Nat × Nat) × Ctx), s.restoreMan p a = .ok m → s.ckpKey p = true → m.sessions = [] →
      m.prefixes = [] → m.shards ≠ [] → (∀ sh ∈ m.shards, sh.object = .image key) → r = ⟨a, p, m⟩ →
      s.ctxs.find? (fun kc => kc.1.1 == p && (kc.2.img.sources.contains key || kc.2.imageKey == key)) = some kc →
      ((∀ i, i < kc.2.img.weights.length → ∃ sh ∈ m.shards, sh.first = i) → (∀ sh ∈ m.shards, s.shardBad r sh = 0) →
        ∃ t, exec (.ckpRestore u a) s = .next t ∧ s.Posts t u .ok 1 0 ∧
          s.Writes t (.data u.fn (.restored [⟨0, BitVec.ofNat 64 kc.1.2, .ok⟩])) ∧
          t.ram = s.ram.set kc.1 (writeWeights kc.2.img.weights ((s.ram.get? kc.1).getD []) m.shards) ∧
          t.ctxs = s.ctxs.modify (p, kc.1.2) (fun x => { x with blocks := List.range kc.2.img.weights.length }) ∧
          s.Io { t with ram := s.ram, ctxs := s.ctxs, regs := s.regs, nextSeq := s.nextSeq }) ∧
      (∀ (reason i : Nat),
        ((∃ k, k < kc.2.img.weights.length ∧ ∀ sh ∈ m.shards, sh.first ≠ k) ∧ reason = 4 ∧ i = 0 ∨
          (∀ k, k < kc.2.img.weights.length → ∃ sh ∈ m.shards, sh.first = k) ∧
            ∃ l sh l', m.shards = l ++ sh :: l' ∧ (∀ x ∈ l, s.shardBad r x = 0) ∧ s.shardBad r sh = reason ∧ reason ≠ 0 ∧ i = r.indexOf sh) →
        ∃ t, exec (.ckpRestore u a) s = .next t ∧ s.Posts t u .stateLostCkpCoverage (2 ^ 32) 0 ∧
          s.Writes t (.data u.fn (.restored [⟨reason, BitVec.ofNat 64 i, 0⟩])) ∧ s.Io { t with regs := s.regs })) ∧
    (∀ (m : Manifest) (sh : Shard) (r : Reading), r = ⟨a, p, m⟩ →
      (a.host = true → s.shardBad r sh = (if sh ∈ a.table then 0 else 6)) ∧
      (a.host = false → s.shardBad r sh = 7 → ∃ x ∈ s.ckp.index.getD p [], x.shard = sh ∧
        (x.bad = true ∨ ∃ f ∈ x.frames, ∀ e, s.qry.map.get? f = some e → e.bad = true ∨ e.key ≠ s.epochOf e.owner))) ∧
    (∀ (m : Manifest) (e : ManSes) (mt : SesMeta) (c : Ctx) (r : Reading) (k : Nat) (v : State), s.restoreMan p a = .ok m → s.ckpKey p = true →
      m.sessions = [e] → m.prefixes = [] → (∀ sh ∈ m.shards, sh.object = .session e.handle) → r = ⟨a, p, m⟩ →
      m.shards.findSome? (fun sh => match sh.body with | .ses x => some x | _ => none) = some mt → mt.pfxLog = none →
      s.ctx p mt.main = some c → s.mainCtx p mt.main = true → coverage c.img mt m.shards = 0 → (∀ sh ∈ m.shards, s.shardBad r sh = 0) →
      (∀ sh ∈ m.shards, sh.kind = 1 → sh.geom = some c.img.geom) → u.flags.inPlace = false → s.newSlot p = some k →
      State.buildRestored { s.bump Fld.CKP_DIGEST_FAILS_COUNT p 0 with freeCtr := s.freeCtr + 1 } p k c.img mt none m.shards = some v →
      ∃ t, exec (.ckpRestore u a) s = .next t ∧ s.Posts t u .ok 1 0 ∧
        s.Writes t (.data u.fn (.restored [⟨0, mkHandle p k (s.ses k).gen, .ok⟩])) ∧ (t.ses k).state = .waiting ∧ (t.ses k).part = p ∧
        (t.ses k).gen = (s.ses k).gen ∧ (t.ses k).nextPos = mt.nextPos ∧ (t.ses k).log = mt.log ∧ (t.ses k).main = mt.main ∧ (t.ses k).fallback = mt.fallback ∧
        (t.ses k).dressed = mt.dressed ∧ (t.ses k).hints = mt.hints ∧ (t.ses k).hostData = mt.hostData ∧ (t.ses k).reqCount = mt.reqCount ∧
        (t.ses k).mortar = (v.ses k).mortar ∧ (∀ f, t.tiles.get? (.frame f) = v.tiles.get? (.frame f)) ∧ (∀ j, j ≠ k → t.ses j = s.ses j) ∧
        s.Io { t with sessions := s.sessions, tiles := s.tiles, tileFrames := s.tileFrames, mortarFrames := s.mortarFrames, qry := s.qry,
                      selfRefresh := s.selfRefresh, bonds := s.bonds, regs := s.regs, nextSeq := s.nextSeq, freeCtr := s.freeCtr, aon := s.aon })

/-- How a move starts at its source (R199 orders 1 and 2, R201, R383, R585): SES_MOVE acts on a WAITING or PARKED session and ends otherwise; a poisoned tile
makes the session FAILED; it waits for frames that are still ZEROING; on admission the session is MOVING, its tile-store tiles are in LPDDR6, each quarry tile has a staging frame, and the offer
with the session's fields, log and frames goes to the target. That a peer which is not admitted ends the command as a lost peer does is the
model's reading (log entry 30).
Completes, with its own effect: sesMove. -/
def Obligations.MoveStart : Prop :=
  ∀ (s : State) (u : Sub) (peer epoch slot p : Nat) (x : Session), s.Calm → s.Takes u (.sesMove peer epoch) → s.Quiet slot →
  u.slot = slot → s.ses slot = x → x.part = p →
    (∀ st, (x.state ≠ .waiting ∧ x.state ≠ .parked ∧ st = .configWrongState ∨ (x.state = .waiting ∨ x.state = .parked) ∧
        ((∀ y, s.peers.get? peer = some y → y.state ≠ .admitted ∨ bitOf y.parts p = false) ∧ st = .peerMoveAborted ∨
          (∃ y, s.peers.get? peer = some y ∧ y.state = .admitted ∧ bitOf y.parts p = true) ∧ s.poisonedTile slot = false ∧ x.state = .parked ∧
            s.qry.mounted = false ∧ st = .mediaQuarryDown)) →
      ∃ t, exec (.sesMove u peer epoch) s = .next t ∧ s.Posts t u st 0 0 ∧ s.Io t) ∧
    (∀ y, (x.state = .waiting ∨ x.state = .parked) → s.peers.get? peer = some y → y.state = .admitted → bitOf y.parts p = true →
      s.poisonedTile slot = true →
      ∃ t, exec (.sesMove u peer epoch) s = .next t ∧ s.Posts t u .stateLostFailed 0 0 ∧
        t.ses slot = { x with state := .failed, poisoned := true, lastUse := t.aon } ∧ (∀ j, j ≠ slot → t.ses j = s.ses j) ∧
        s.Io { t with sessions := s.sessions, regs := s.regs, nextSeq := s.nextSeq, aon := s.aon, freeCtr := s.freeCtr }) ∧
    (∀ y, (x.state = .waiting ∨ x.state = .parked ∧ s.qry.mounted = true) → s.peers.get? peer = some y → y.state = .admitted →
      bitOf y.parts p = true → s.poisonedTile slot = false → s.room p ((x.inTier .store).length + (x.inTier .quarry).length) 0 = .waits →
      ∃ t, exec (.sesMove u peer epoch) s = .next t ∧ t.allocWait = s.allocWait ++ [(u, .sesMove peer epoch)] ∧
        s.Io { t with allocWait := s.allocWait, regs := s.regs }) ∧
    (∀ (y : Peer) (z : Port) (fs : List Nat) (s1 s2 : State), (x.state = .waiting ∨ x.state = .parked ∧ s.qry.mounted = true) →
      s.peers.get? peer = some y → y.state = .admitted → bitOf y.parts p = true → s.ports.get? y.port = some z → z.up = true →
      s.poisonedTile slot = false → s.room p ((x.inTier .store).length + (x.inTier .quarry).length) 0 ≠ .waits →
      s.allocTiles p ⟨p, .priv, 0, slot, []⟩ (x.inTier .quarry).length = some (fs, s1) →
      s1.demoteAll slot (x.inTier .store) = some s2 →
      ∃ t m o, exec (.sesMove u peer epoch) s = .next t ∧ t.movesOut = s.movesOut.set slot m ∧
        t.ses slot = { x with mortar := (t.ses slot).mortar, state := .moving, op := .moveOut, movePeer := peer, moveEpoch := epoch } ∧
        (∀ j, j ≠ slot → t.ses j = s.ses j) ∧
        (∀ k e, (t.ses slot).mortar.entries.get? k = some e → e.tier ≠ .store ∧
          ∃ e0, x.mortar.entries.get? k = some e0 ∧ (e0.tier ≠ .store → e = e0) ∧ (e0.tier = .store → e = { e0 with tier := .lpddr, frame := e.frame })) ∧
        m.fn = u.fn ∧ m.sq = u.sq ∧ m.tag = u.tag ∧ m.peer = peer ∧ m.epoch = epoch ∧ m.parked = (x.state == .parked) ∧
        m.staging = (x.inTier .quarry).zip fs ∧ fs.length = (x.inTier .quarry).length ∧ m.target = none ∧ m.confirmed = false ∧
        s.Says t y.port ⟨y.fabric, p, 0, x.comp, 0, m.wireTag, .moveOffer o⟩ .bg ∧ o.handle = s.handleOf slot ∧ o.nextPos = x.nextPos ∧
        o.main = x.main ∧ o.comp = x.comp ∧ o.epoch = epoch ∧ o.log = x.log ∧ o.grammar = x.grammar ∧ o.hints = x.hints ∧ o.hostData = x.hostData ∧
        (∀ w ∈ o.entries, w.entry.tier = .lpddr ∧ ∃ e, (w.index, e) ∈ (t.ses slot).mortar.entries ∧ (w.entry.frame = e.frame ∨ m.offered.get? w.index = some w.entry.frame)) ∧
        s.Io { t with sessions := s.sessions, movesOut := s.movesOut, tiles := s.tiles, tileFrames := s.tileFrames,
                      selfRefresh := s.selfRefresh, regs := s.regs, nextSeq := s.nextSeq, ports := s.ports, freeCtr := s.freeCtr })

/-- The management commands (R692, R704, R721, R725, R743, R468): a loading context takes its weight blocks; firmware and images are written to flash
within their slot or copy, offset 0 of the green slot erases it, the copy in use and writes beyond the area are refused; FW_CHECK answers the failing
check; LEDGER_READ, ERR_READ and BND_REPORT_GET copy what fits; DEV_RESTART restarts the device at S01; the mailbox runs one command at a time, before
S15 only those of R692. That a block's bytes beyond its entry of the
weight table are dropped, and that DEV_RESTART starts the count of R714 anew, are the model's (log entry 43).
Complete, each with its own effect: bndReportGet, wgtSupply, fwStage, fwCheck, cfgWrite, ledgerRead, devRestart, errRead, managementMailboxGo. -/
def Obligations.Management : Prop :=
  ∀ (s : State) (u : Sub) (p : Nat), s.Calm → s.subPart u = p →
    (∀ (ctx first n : Nat) (blocks : List (List Byte)) (x : Ctx), s.Takes u (.wgtSupply ctx first blocks) → s.ctx p ctx = some x → x.state = .loading →
      n = min blocks.length (x.img.weights.length - first) → 0 < n →
      ∃ (t : State) (y : List Nat) (g : Nat → List Host.Cell), exec (.wgtSupply u ctx first blocks) s = .next t ∧ s.Posts t u .ok n 0 ∧ t.ctxs = s.ctxs.set (p, ctx) { x with blocks := y } ∧
        (∀ k, k ∈ y ↔ k ∈ x.blocks ∨ first ≤ k ∧ k < first + n) ∧ t.ram = s.ram.set (p, ctx) (g n) ∧ g 0 = s.ram.getD (p, ctx) [] ∧
        (∀ k, k < n → ∃ off len bs, x.img.weights[first + k]? = some (off, len) ∧ blocks[k]? = some bs ∧
          g (k + 1) = Memory.writes 0 (g k) off (bs.take len)) ∧ s.Io { t with ctxs := s.ctxs, ram := s.ram }) ∧
    (∀ (ctx first : Nat) (blocks : List (List Byte)) (st : Status), s.Takes u (.wgtSupply ctx first blocks) →
      (s.ctx p ctx = none ∧ st = .contextContextDown ∨ ∃ x, s.ctx p ctx = some x ∧ st = .ok ∧
        (x.state ≠ .loading ∨ x.img.weights.length ≤ first ∨ blocks = [])) →
      ∃ t, exec (.wgtSupply u ctx first blocks) s = .next t ∧ s.Posts t u st 0 0 ∧ s.Io t) ∧
    (∀ (off : Nat) (data : List Byte), s.Takes u (.fwStage off data) → Memory.wf 0xFF s.flash = true → off + data.length ≤ slotBytes →
      ∃ t, exec (.fwStage u off data) s = .next t ∧ s.Posts t u .ok 0 0 ∧
        (∀ i b, data[i]? = some b → Memory.read 0xFF t.flash (greenBase + off + i) = b) ∧
        (∀ a, a < greenBase + off ∨ greenBase + off + data.length ≤ a → Memory.read 0xFF t.flash a =
          if off = 0 ∧ greenBase ≤ a ∧ a < greenBase + slotBytes then 0xFF else Memory.read 0xFF s.flash a) ∧
        t.pins = { s.pins with xspiBusy := s.pins.xspiBusy || !data.isEmpty } ∧ s.Io { t with flash := s.flash, pins := s.pins }) ∧
    (∀ (off : Nat) (data : List Byte), s.Takes u (.fwStage off data) → slotBytes < off + data.length →
      ∃ t, exec (.fwStage u off data) s = .next t ∧ s.Posts t u .configFlashRange 0 0 ∧ s.Io t) ∧
    (∀ (copyB : Bool) (off : Nat) (data : List Byte), s.Takes u (.cfgWrite copyB off data) → Memory.wf 0xFF s.flash = true →
      (s.boot.image = none ∨ s.boot.copyB ≠ copyB) → off + data.length ≤ copyBytes → data ≠ [] → s.boot.alts.wf = true →
      ∃ t c, exec (.cfgWrite u copyB off data) s = .next t ∧ s.Posts t u .ok 0 0 ∧ c = copyBase + (if copyB then copyBytes else 0) ∧
        (∀ i b, data[i]? = some b → Memory.read 0xFF t.flash (c + off + i) = b) ∧
        (∀ a, a < c + off ∨ c + off + data.length ≤ a → Memory.read 0xFF t.flash a = Memory.read 0xFF s.flash a) ∧
        t.pins = { s.pins with xspiBusy := true } ∧ (∀ n, n ≠ 3 → n ≠ 4 → n ≠ 14 → t.boot.alts.get? n = s.boot.alts.get? n) ∧
        copyB ∉ t.boot.copyFails ∧ (∀ n, (n = 3 ∨ n = 4 ∨ n = 14) → (s.boot.alts.get? n = some 2 ∨ s.boot.nextB = copyB) → t.boot.alts.get? n = none) ∧
        s.Io { t with flash := s.flash, pins := s.pins, boot := s.boot }) ∧
    (∀ (copyB : Bool) (off : Nat) (data : List Byte) (st : Status), s.Takes u (.cfgWrite copyB off data) →
      (s.boot.image ≠ none ∧ s.boot.copyB = copyB ∧ st = .configCopyInUse ∨
        (s.boot.image = none ∨ s.boot.copyB ≠ copyB) ∧ copyBytes < off + data.length ∧ st = .configFlashRange) →
      ∃ t, exec (.cfgWrite u copyB off data) s = .next t ∧ s.Posts t u st 0 0 ∧ s.Io t) ∧
    (∀ (green : FwSlot) (n : Nat), s.Takes u (.fwCheck green) → n = (if green.present then s.slotFails green else 1) →
      ∃ t, exec (.fwCheck u green) s = .next t ∧ s.Posts t u (if n = 0 then .ok else .securityFwImage) (n % 256) 0 ∧
        t.boot = { s.boot with greenResult := if green.present then n % 256 else 0 } ∧ s.Io { t with boot := s.boot }) ∧
    (∀ (start bytes : Nat) (l : List LedgerRec), s.Takes u (.ledgerRead start bytes) →
      l = (s.boot.ledger.reverse.filter (fun r => decide (start ≤ r.start))).take (bytes / 32) →
      ∃ t, exec (.ledgerRead u start bytes) s = .next t ∧ s.Posts t u .ok (32 * l.length) 0 ∧ s.Writes t (.data u.fn (.ledger l)) ∧ s.Io t) ∧
    (s.Takes u .devRestart → s.completionWaits u.owner = false → ∃ t, exec (.devRestart u) s = .next t ∧ s.Posts t u .ok 0 0 ∧ t.boot.phase = .start 1 ∧
      t.boot.number = s.boot.number + 1 ∧ t.boot.selfRestarts = 0 ∧ t.boot.restart = none ∧ t.sessions = [] ∧ t.cores = [] ∧ t.regs = [] ∧
      t.flash = s.flash ∧ t.sec.fuses = s.sec.fuses ∧ t.boot.ledger = s.boot.ledger ∧ t.qry.map = s.qry.map) ∧
    (∀ (seq bytes : Nat) (device : Bool) (l : List ErrRec), s.Takes u (.errRead seq device bytes) →
      l = (if device then s.err.ring else s.err.parts.getD p []) → l.Pairwise (fun a b => b.seq < a.seq) →
      ∃ t, exec (.errRead u seq device bytes) s = .next t ∧ s.Posts t u .ok (min (bytes / 64) (l.filter (fun r => decide (seq ≤ r.seq))).length) 0 ∧
        s.Writes t (.data u.fn (.errors ((l.reverse.filter (fun r => decide (seq ≤ r.seq))).take (bytes / 64)))) ∧ s.Io t) ∧
    (∀ (number bytes : Nat) (r : Report), s.Takes u (.bndReportGet number bytes) → (s.reportsOf p).find? (fun r => r.number == number) = some r →
      ∃ t, exec (.bndReportGet u number bytes) s = .next t ∧ s.Posts t u .ok (min bytes r.bytes) 0 ∧
        s.Writes t (.data u.fn (.report r (min bytes r.bytes))) ∧ s.Io t) ∧
    (∀ (number bytes : Nat), s.Takes u (.bndReportGet number bytes) → (∀ r ∈ s.reportsOf p, r.number ≠ number) →
      ∃ t, exec (.bndReportGet u number bytes) s = .next t ∧ s.Posts t u .configReportUnknown 0 0 ∧ s.Io t) ∧
    (∀ c : Option HostCmd, u.sq = none → (u.fn.isPf = false ∨ s.doeUp u.fn = false ∨ u.fn.index ∈ s.mboxBusy) →
      exec (.managementMailboxGo u c) s = .next s) ∧
    (∀ (c : Option HostCmd) (st : Status), u.sq = none → u.fn.isPf = true → s.doeUp u.fn = true → u.fn.index ∉ s.mboxBusy →
      (c = none ∧ st = .configOpcode ∨ ∃ d, c = some d ∧ (s.err.frozen = true ∧ d.frozenMailbox = false ∧ st = .internalDeviceFatal ∨
        s.err.frozen = false ∧ s.boot.phase ≠ .ready ∧ d.earlyMailbox = false ∧ st = .configNotReady)) →
      ∃ t, exec (.managementMailboxGo u c) s = .next t ∧ s.Writes t (.mbox (u.answer st 0 0)) ∧ t.flag Fld.HIF_MBOX_CTL_DONE u.fn.index = true ∧
        u.fn.index ∉ t.mboxBusy ∧ s.Io { t with regs := s.regs, mboxBusy := s.mboxBusy }) ∧
    (∀ (start bytes : Nat) (l : List LedgerRec), u.sq = none → u.fn.isPf = true → s.doeUp u.fn = true → u.fn.index ∉ s.mboxBusy →
      u.paramBad = false → u.resv = false → s.boot.phase ≠ .ready →
      l = (s.boot.ledger.reverse.filter (fun r => decide (start ≤ r.start))).take (bytes / 32) →
      ∃ t, exec (.managementMailboxGo u (some (.ledgerRead start bytes))) s = .next t ∧
        s.Writes t (.mbox (u.answer .ok (BitVec.ofNat 128 (32 * l.length)) 0)) ∧ s.Writes t (.data u.fn (.ledger l)) ∧
        t.flag Fld.HIF_MBOX_CTL_DONE u.fn.index = true ∧ u.fn.index ∉ t.mboxBusy ∧ s.Io { t with regs := s.regs, mboxBusy := s.mboxBusy })

/-- The checks that every host command passes (R15, R53, R331, R647, R658, R663, R671, R678, R681, R685, R729, R802): an outstanding tag; the wait for
S15; a handle's reserved bits, its partition, its slot and its generation, in R53's order; the parameter block and reserved fields; commands of
PF0 alone; a foreign PART; an unconfigured partition; one in removal, reset or a freeze; PF0 that names data of a partition in
confidential-host mode. Where R53 states no order each refusal is stated where
nothing else refuses the command. A refusal changes nothing but what posting its completion changes. -/
def Obligations.CommandChecks : Prop :=
  ∀ (i : Instr) (u : Sub) (c : HostCmd) (q : Nat) (x : Sq) (s : State), hostOf i = some (u, c) → s.Stays → s.Holds u q x →
    ((∃ t ∈ x.tags, t.tag = u.tag) → ∃ t k h m, exec i s = .next t ∧
      s.Writes t (.cqe u.fn k { u.answer .configTagInUse 0 0 with dup := true } h m) ∧ s.Io t) ∧
    ((∀ t ∈ x.tags, t.tag ≠ u.tag) → s.boot.phase ≠ .ready →
      ∃ t, exec i s = .next t ∧ t.waitS15 = s.waitS15 ++ [(u, c)] ∧ s.Io { t with waitS15 := s.waitS15 }) ∧
    (∀ (st : Status) (own : Option Nat) (p : Nat), (∀ t ∈ x.tags, t.tag ≠ u.tag) → s.boot.phase = .ready → own = s.partOfFn u.fn →
      p = handlePart u.handle → u.flags.ext = false → (∀ n, own = some n → s.Serves n) →
      (c.byHandle = true ∧ u.paramBad = false ∧ u.resv = false ∧ (∀ n, own = some n → u.part = 0 ∨ u.part = n) ∧
          (handleReserved u.handle = true ∧ st = .configBadHandle ∨
            handleReserved u.handle = false ∧ (s.configured p = false ∧ st = .configUnconfigured ∨
              s.Serves p ∧ (u.fn.isPf = true → p ∉ s.sec.conf) ∧
                (((∃ n, own = some n ∧ n ≠ p) ∨ s.inRange p u.slot = false) ∧ st = .securityForeignHandle ∨
                  (∀ n, own = some n → n = p) ∧ s.inRange p u.slot = true ∧
                    ((s.ses u.slot).state = .free ∨ (s.ses u.slot).gen ≠ handleGen u.handle) ∧ st = .stateLostStaleHandle))) ∨
        c.byHandle = true ∧ s.Serves p ∧ (u.fn.isPf = true → p ∉ s.sec.conf) ∧ (∀ n, own = some n → n = p ∧ (u.part = 0 ∨ u.part = n)) ∧
          handleReserved u.handle = false ∧ s.inRange p u.slot = true ∧ (s.ses u.slot).state ≠ .free ∧ (s.ses u.slot).gen = handleGen u.handle ∧
          (∀ a, c ≠ .reqSubmit a) ∧ (u.paramBad = true ∧ u.resv = false ∧ st = .configParamBlock ∨
            u.paramBad = false ∧ u.resv = true ∧ st = .configReservedField) ∨
        u.fn.isPf = true ∧ own = none ∧ c.namesData = true ∧ (c.byHandle = true → handleReserved u.handle = false) ∧
          (∃ n, s.cmdPart u c = some n ∧ s.Serves n ∧ n ∈ s.sec.conf) ∧ st = .securityConfidential ∨
        c.byHandle = false ∧ u.paramBad = false ∧ u.resv = false ∧
          (c.pfOnly = true ∧ u.fn.isPf = false ∧ st = .securityPfOnly ∨
            (c.pfOnly = true → u.fn.isPf = true) ∧ ((∃ n, own = some n ∧ u.part ≠ 0 ∧ u.part ≠ n) ∧ st = .securityForeignHandle ∨
              own = none ∧ ∃ n, s.cmdPart u c = some n ∧
                (c.unconfiguredOk = false ∧ s.configured n = false ∧ st = .configUnconfigured ∨
                  s.configured n = true ∧ (∀ r, c ≠ .partRemove r) ∧
                    (s.removals.has n = true ∧ n ∉ s.sec.removed ∧ s.resets.has n = false ∧ s.sec.frozen = false ∧ n ∉ s.err.fatal ∧ st = .securityPartitionGone ∨
                      s.removals.has n = false ∧ n ∉ s.sec.removed ∧ s.resets.has n = true ∧ s.sec.frozen = false ∧ n ∉ s.err.fatal ∧ st = .contextPartitionReset ∨
                      s.removals.has n = false ∧ n ∉ s.sec.removed ∧ s.resets.has n = false ∧ s.sec.frozen = true ∧ n ∉ s.err.fatal ∧ st = .securityFrozen ∨
                      s.removals.has n = false ∧ n ∉ s.sec.removed ∧ s.resets.has n = false ∧ s.sec.frozen = false ∧ n ∈ s.err.fatal ∧
                        c.passesFatal = false ∧ st = .internalPartitionFatal))))) →
      ∃ t, exec i s = .next t ∧ s.Posts t u st 0 0 ∧ s.Io t)

-- The whole machine -----------------------------------------------------------------------------------------------------------------

/-- The machine before PWR_GOOD rises (R712, R716): every register at its reset value (that of the spec's tables where they give one; any other is
the model's, as the log says), no session, request, core, queue or bond, an erased flash and no command waiting; with no command waiting a step
changes nothing (log entry 1). -/
def Obligations.ResetState : Prop :=
  (∀ fv ∈ ([
      (Fld.GLB_HW_HW_TYPE, 0x2640), (Fld.SES_PARK_POLICY_DRESS_AFTER, 600), (Fld.SES_PARK_POLICY_COLD_AFTER, 30), (Fld.ATT_CFG_MASS_MODE, 1),
      (Fld.ATT_CFG_AREA_MIB, 8), (Fld.ATT_CFG_BATCH_MAX, 64), (Fld.ATT_CFG_BATCH_WINDOW, 2000), (Fld.DRS_CFG_READ_AHEAD, 8),
      (Fld.DRS_CFG_DECAY, 128), (Fld.DRS_PROFILE_RADIUS, 8), (Fld.DRS_PROFILE_BUDGET, 2048), (Fld.DRS_PROFILE_WINDOW, 1024),
      (Fld.DRS_PROFILE_ANCHOR, 64), (Fld.COR_STAT_CONTEXT, 0x3F), (Fld.COR_CFG_BAR_TIMEOUT, 2000000), (Fld.TXT_CFG_MAX_INTAKE_MIB, 64),
      (Fld.TXT_CFG_POLL, 14000), (Fld.SCH_CFG_BE_FLOOR, 1), (Fld.SCH_CFG_SLICE, 50000), (Fld.SCH_DL_CFG_SWITCH_PCT, 75),
      (Fld.SCH_DL_CFG_WARN_PCT, 50), (Fld.SCH_CTX_FALLBACK, 0x3F), (Fld.MEM_CFG_PATROL_H, 24), (Fld.MEM_CFG_SR_IDLE_US, 50),
      (Fld.MEM_PLACE_PROMOTE, 1), (Fld.MEM_PLACE_KEEP_IDLE, 10), (Fld.MEM_ARB_SLOT_OWNER3, 0x10), (Fld.MEM_ARB_SLOT_OWNER2, 0x10),
      (Fld.MEM_ARB_SLOT_OWNER1, 0x10), (Fld.MEM_ARB_SLOT_OWNER0, 0x10), (Fld.QRY_CFG_PATROL_DAYS, 4), (Fld.QRY_CFG_TIGHTEN_PCT, 80),
      (Fld.QRY_CFG_GOV_ENABLE, 1), (Fld.QRY_CFG_RO_PCT, 2), (Fld.QRY_CFG_GC_LOW_PERMIL, 20), (Fld.QRY_CFG_FOLD_AGE_H, 72),
      (Fld.QRY_WEAR_CFG_PE_RATED, 3000), (Fld.QRY_WEAR_CFG_LIFE_DAYS, 1825), (Fld.QRY_WEAR_CFG_OP_PERMIL, 125)] ++ [
      (Fld.QRY_WEAR_CFG_DISTURB_K, 64), (Fld.QRY_GOV_WEIGHT, 1), (Fld.BND_CFG_OPEN_LIMIT, 4096),
      (Fld.BND_CFG_REPORT_FRAMES, 4), (Fld.BND_CFG_HANDOFF_MS, 10000), (Fld.BND_NEXT_ID_ID, 1), (Fld.VSR_CFG_PREFETCH, 4),
      (Fld.VSR_CFG_SCAN_MAX, 64), (Fld.VSR_CFG_SCAN_WINDOW, 160000), (Fld.VSR_POINT_CFG_AUTO, 1), (Fld.VSR_POINT_CFG_POINT_BATCH, 256),
      (Fld.VSR_POINT_CFG_EF_BUILD, 128), (Fld.VSR_POINT_CFG_ALPHA, 77), (Fld.CKP_CFG_KEEP, 2), (Fld.LNK_CFG_ENABLE, 1), (Fld.LNK_CFG_GEN_MAX, 2),
      (Fld.LNK_CFG_RETRAIN_MS, 1000), (Fld.LNK_CFG_LANE_BAD, 8192), (Fld.LNK_RETRY_CFG_RETRY_TIMEOUT, 6144), (Fld.LNK_RETRY_CFG_RETRY_MAX, 8),
      (Fld.LNK_REKEY_AT_AT, 240), (Fld.CMP_CFG_PULL_WINDOW, 64), (Fld.CMP_CFG_PULL_MS, 100), (Fld.CMP_CFG_PING_MS, 1000),
      (Fld.CMP_TIMING_ADMIT_MS, 5000), (Fld.CMP_TIMING_TICK_DIV, 100), (Fld.CMP_WEIGHTS_W_CORE, 1), (Fld.CMP_WEIGHTS_W_FRAME, 1),
      (Fld.EGR_CFG_GUARD, 8), (Fld.EGR_CFG_REFILL, 1750), (Fld.EGR_SHAPER_BURST, 4096), (Fld.EGR_WEIGHT_W_BG, 4), (Fld.EGR_WEIGHT_W_BE, 16),
      (Fld.EGR_WEIGHT_W_LC, 64), (Fld.SEC_CFG_REVOKE_MS, 50), (Fld.SEC_ALARM_POLICY_ATTEST_LIMIT, 16), (Fld.SEC_ALARM_POLICY_LEVELS, 0x1BEA),
      (Fld.PMC_BW_CFG_WINDOW, 1750000)] : List (Field × Nat)),
    ∀ i j, State.reset.fld fv.1 i j = fv.2) ∧ (∀ r : Reg, State.reset.reg r = r.cls.reset) ∧ State.reset.boot.phase = .off ∧ State.reset.sec.fuses = Fuses.blank ∧
  State.reset.sessions = [] ∧ State.reset.reqs = [] ∧ State.reset.cores = [] ∧ State.reset.sqs = [] ∧ State.reset.cqs = [] ∧
  State.reset.bonds = [] ∧ State.reset.out = [] ∧ State.reset.pending = [] ∧ State.reset.FlashOk ∧
  (∀ a, Memory.read 0xFF State.reset.flash a = 0xFF) ∧ (∀ s : State, s.pending = [] → step s = .next s)

/-- Who writes the flash (R698, R699): every command answers a next state, leaves the queue of commands alone, and changes no byte of flash but
those of the area that it is named for; all but six kinds of command change none. -/
def Obligations.FlashWriters : Prop :=
  ∀ (i : Instr) (s : State), ∃ t, exec i s = .next t ∧ t.pending = s.pending ∧ ((∀ a, ¬ flashArea s i a) → t.flash = s.flash) ∧
    (s.FlashOk → ∀ a, ¬ flashArea s i a → Memory.read 0xFF t.flash a = Memory.read 0xFF s.flash a)

/-- Every step keeps the flash in its canonical form and within the areas of R698, whose bytes beyond 0x1900_0000 are left unused. -/
def Obligations.FlashInvariant : Prop :=
  ∀ s t : State, s.FlashOk → step s = .next t → t.FlashOk
end

