-- ==== Sys2Proof/Laws/Map.lean ====
section
/-!
SUPPORT. Laws of finite maps and of byte memories: a read after a write, and that every operation keeps the canonical form.
-/

namespace Sys2Proof.Machine

open Sys2Proof

/-- What each step of a fold keeps, the fold keeps. -/
theorem foldl_keeps {α σ : Type} (R : σ → σ → Prop) (hr : ∀ s, R s s) (ht : ∀ s t u, R s t → R t u → R s u)
    (g : σ → α → σ) (hg : ∀ s a, R s (g s a)) (l : List α) (s : σ) : R s (l.foldl g s) := by
  induction l generalizing s with
  | nil => exact hr s
  | cons a l ih => exact ht _ _ _ (hg s a) (ih (g s a))

section Maps

variable {κ α : Type} [DecidableEq κ]

@[simp] theorem AMap.get?_nil (k : κ) : AMap.get? ([] : AMap κ α) k = none := rfl

@[simp] theorem AMap.get?_set_same (m : AMap κ α) (k : κ) (v : α) : (m.set k v).get? k = some v := by
  induction m with
  | nil => simp [AMap.set, AMap.get?]
  | cons kv r ih =>
    obtain ⟨k', v'⟩ := kv
    by_cases h : k' = k
    · simp [AMap.set, AMap.get?, h]
    · simp [AMap.set, AMap.get?, h, ih]

theorem AMap.get?_set_other (m : AMap κ α) {k k' : κ} (v : α) (h : k' ≠ k) : (m.set k v).get? k' = m.get? k' := by
  induction m with
  | nil => simp [AMap.set, AMap.get?, Ne.symm h]
  | cons kv r ih =>
    obtain ⟨k0, v0⟩ := kv
    by_cases h0 : k0 = k
    · subst h0; simp [AMap.set, AMap.get?, Ne.symm h]
    · by_cases h1 : k0 = k'
      · subst h1; simp [AMap.set, AMap.get?, h0]
      · simp [AMap.set, AMap.get?, h0, h1, ih]

theorem AMap.get?_set (m : AMap κ α) (k k' : κ) (v : α) :
    (m.set k v).get? k' = if k' = k then some v else m.get? k' := by
  by_cases h : k' = k
  · subst h; simp
  · simp [AMap.get?_set_other m v h, h]

theorem AMap.getD_set (m : AMap κ α) (k k' : κ) (v d : α) :
    (m.set k v).getD k' d = if k' = k then v else m.getD k' d := by
  by_cases h : k' = k
  · subst h; simp [AMap.getD]
  · simp [AMap.getD, AMap.get?_set_other m v h, h]

@[simp] theorem AMap.get?_erase_same (m : AMap κ α) (k : κ) : (m.erase k).get? k = none := by
  induction m with
  | nil => rfl
  | cons kv r ih =>
    obtain ⟨k', v'⟩ := kv
    by_cases h : k' = k
    · simp [AMap.erase, h, ih]
    · simp [AMap.erase, AMap.get?, h, ih]

theorem AMap.get?_erase_other (m : AMap κ α) {k k' : κ} (h : k' ≠ k) : (m.erase k).get? k' = m.get? k' := by
  induction m with
  | nil => rfl
  | cons kv r ih =>
    obtain ⟨k0, v0⟩ := kv
    by_cases h0 : k0 = k
    · subst h0; simp [AMap.erase, AMap.get?, ih, Ne.symm h]
    · by_cases h1 : k0 = k'
      · subst h1; simp [AMap.erase, AMap.get?, h0]
      · simp [AMap.erase, AMap.get?, h0, h1, ih]

theorem AMap.get?_modify (m : AMap κ α) (k k' : κ) (f : α → α) :
    (m.modify k f).get? k' = if k' = k then (m.get? k).map f else m.get? k' := by
  unfold AMap.modify
  cases h : AMap.get? m k with
  | none => by_cases e : k' = k <;> simp [e, h]
  | some v => simp [AMap.get?_set]

/-- What a map holds after a store: what it held, or the new pair. -/
theorem AMap.mem_set {m : AMap κ α} {k : κ} {v : α} {kv : κ × α} (h : kv ∈ m.set k v) : kv ∈ m ∨ kv = (k, v) := by
  induction m with
  | nil => exact Or.inr (List.mem_singleton.1 h)
  | cons a r ih =>
    obtain ⟨k', v'⟩ := a
    by_cases e : k' = k
    · rw [AMap.set, if_pos e] at h
      rcases List.mem_cons.1 h with h | h
      · exact Or.inr h
      · exact Or.inl (List.mem_cons_of_mem _ h)
    · rw [AMap.set, if_neg e] at h
      rcases List.mem_cons.1 h with h | h
      · exact Or.inl (h ▸ List.mem_cons_self ..)
      · exact (ih h).imp (List.mem_cons_of_mem _) id

theorem AMap.mem_modify {m : AMap κ α} {k : κ} {f : α → α} {kv : κ × α} (h : kv ∈ m.modify k f) :
    kv ∈ m ∨ ∃ v, m.get? k = some v ∧ kv = (k, f v) := by
  unfold AMap.modify at h
  split at h
  · next v hv => exact (AMap.mem_set h).imp id (fun e => ⟨v, hv, e⟩)
  · exact Or.inl h

@[simp] theorem AMap.set_set (m : AMap κ α) (k : κ) (a b : α) : (m.set k a).set k b = m.set k b := by
  induction m with
  | nil => simp [AMap.set]
  | cons kv r ih =>
    obtain ⟨k', v'⟩ := kv
    by_cases h : k' = k
    · simp [AMap.set, h]
    · simp [AMap.set, h, ih]

theorem AMap.set_get?_self {m : AMap κ α} {k : κ} {v : α} (h : m.get? k = some v) : m.set k v = m := by
  induction m with
  | nil => cases h
  | cons a r ih =>
    obtain ⟨j, x⟩ := a
    unfold AMap.get? at h
    unfold AMap.set
    split at h
    · next e => subst e; cases h; rw [if_pos rfl]
    · next e => rw [if_neg e, ih h]

theorem AMap.modify_some {m : AMap κ α} {k : κ} {v : α} (h : m.get? k = some v) (f : α → α) : m.modify k f = m.set k (f v) := by
  unfold AMap.modify; rw [h]

/-- What a filter on keys leaves. -/
theorem AMap.get?_filter (m : AMap κ α) (p : κ → Bool) (k : κ) :
    AMap.get? (List.filter (fun (kv : κ × α) => p kv.1) m) k = if p k then m.get? k else none := by
  induction m with
  | nil => simp [AMap.get?]
  | cons kv r ih =>
    obtain ⟨a, b⟩ := kv
    by_cases hp : p a = true
    · rw [List.filter_cons_of_pos (by simpa using hp)]
      simp only [AMap.get?]
      by_cases hk : k = a
      · subst hk; simp [hp]
      · simp [Ne.symm hk, ih, hk]
    · rw [List.filter_cons_of_neg (by simpa using hp), ih]
      by_cases hk : k = a
      · subst hk; simp [hp]
      · simp [AMap.get?, Ne.symm hk, hk]

/-- What a change of the values leaves. -/
theorem AMap.get?_map {β : Type} (m : AMap κ α) (g : α → β) (k : κ) :
    AMap.get? (List.map (fun (kv : κ × α) => (kv.1, g kv.2)) m) k = (m.get? k).map g := by
  induction m with
  | nil => rfl
  | cons kv r ih =>
    obtain ⟨a, b⟩ := kv
    rw [List.map_cons]
    by_cases hk : k = a
    · subst hk; simp [AMap.get?]
    · simp [AMap.get?, Ne.symm hk, ih, hk]

theorem AMap.mem_of_get? {m : AMap κ α} {k : κ} {v : α} (h : m.get? k = some v) : (k, v) ∈ m := by
  induction m with
  | nil => cases h
  | cons a r ih =>
    obtain ⟨k', v'⟩ := a
    by_cases e : k' = k
    · rw [AMap.get?, if_pos e] at h; cases h; subst e; exact List.mem_cons_self ..
    · rw [AMap.get?, if_neg e] at h; exact List.mem_cons_of_mem _ (ih h)

end Maps

-- Memories -------------------------------------------------------------------------------------------------------------------------

theorem Memory.wfFrom_mono {d : Byte} {m : Memory} {lo lo' : Nat} (h : Memory.wfFrom d lo m = true) (hl : lo' ≤ lo) :
    Memory.wfFrom d lo' m = true := by
  cases m with
  | nil => rfl
  | cons c r =>
    obtain ⟨a, b⟩ := c
    simp only [Memory.wfFrom, Bool.and_eq_true, decide_eq_true_eq] at h ⊢
    exact ⟨⟨by omega, h.1.2⟩, h.2⟩

theorem Memory.wfFrom_write {d : Byte} {m : Memory} {lo : Nat} (a : Nat) (b : Byte)
    (h : Memory.wfFrom d lo m = true) (ha : lo ≤ a) : Memory.wfFrom d lo (Memory.write d m a b) = true := by
  induction m generalizing lo with
  | nil => by_cases hb : b = d <;> simp [Memory.write, Memory.wfFrom, hb, ha]
  | cons c r ih =>
    obtain ⟨a', b'⟩ := c
    simp only [Memory.wfFrom, Bool.and_eq_true, decide_eq_true_eq] at h
    unfold Memory.write
    split_ifs with h1 h2 h3 h4
    · exact Memory.wfFrom_mono h.2 (by omega)
    · simp [Memory.wfFrom, h.1.1, h2, h1, h.2]
    · simp [Memory.wfFrom, h.1.1, h.1.2, h.2]
    · simp only [Memory.wfFrom, Bool.and_eq_true, decide_eq_true_eq]
      exact ⟨⟨ha, h4⟩, ⟨by omega, h.1.2⟩, h.2⟩
    · simp only [Memory.wfFrom, Bool.and_eq_true, decide_eq_true_eq]
      exact ⟨h.1, ih h.2 (by omega)⟩

/-- A write keeps the canonical form. -/
theorem Memory.wf_write {d : Byte} {m : Memory} (a : Nat) (b : Byte) (h : Memory.wf d m = true) :
    Memory.wf d (Memory.write d m a b) = true := Memory.wfFrom_write a b h (Nat.zero_le a)

/-- Writes keep the canonical form. -/
theorem Memory.wf_writes {d : Byte} {m : Memory} (a : Nat) (bs : List Byte) (h : Memory.wf d m = true) :
    Memory.wf d (Memory.writes d m a bs) = true := by
  induction bs generalizing m a with
  | nil => exact h
  | cons b r ih => exact ih (a + 1) (Memory.wf_write a b h)

theorem Memory.read_below {d : Byte} {m : Memory} {lo a : Nat} (h : Memory.wfFrom d lo m = true) (ha : a < lo) :
    Memory.read d m a = d := by
  cases m with
  | nil => rfl
  | cons c r =>
    obtain ⟨a', b'⟩ := c
    simp only [Memory.wfFrom, Bool.and_eq_true, decide_eq_true_eq] at h
    simp [Memory.read, show a' ≠ a by omega, show a < a' by omega]

theorem Memory.read_write_from {d : Byte} {m : Memory} {lo : Nat} (a a' : Nat) (b : Byte)
    (h : Memory.wfFrom d lo m = true) :
    Memory.read d (Memory.write d m a b) a' = if a' = a then b else Memory.read d m a' := by
  induction m generalizing lo with
  | nil =>
    by_cases hb : b = d
    · simp [Memory.write, Memory.read, hb]
    · by_cases e : a' = a
      · simp [Memory.write, Memory.read, hb, e]
      · simp [Memory.write, Memory.read, hb, e, Ne.symm e]
  | cons c r ih =>
    obtain ⟨a0, b0⟩ := c
    simp only [Memory.wfFrom, Bool.and_eq_true, decide_eq_true_eq] at h
    rcases Nat.lt_trichotomy a a0 with hlt | heq | hgt
    · have hw : Memory.write d ((a0, b0) :: r) a b = if b = d then (a0, b0) :: r else (a, b) :: (a0, b0) :: r := by
        rw [Memory.write, if_neg (by omega), if_pos hlt]
      rw [hw]
      by_cases hb : b = d
      · rw [if_pos hb]
        by_cases e : a' = a
        · subst e; simp [Memory.read, show a0 ≠ a' by omega, hlt, hb]
        · simp [e]
      · rw [if_neg hb]
        by_cases e : a' = a
        · simp [Memory.read, e]
        · by_cases h2 : a' < a
          · simp [Memory.read, e, Ne.symm e, h2, show a0 ≠ a' by omega, show a' < a0 by omega]
          · simp [Memory.read, e, Ne.symm e, h2]
    · subst heq
      have hw : Memory.write d ((a, b0) :: r) a b = if b = d then r else (a, b) :: r := by
        rw [Memory.write, if_pos rfl]
      rw [hw]
      by_cases hb : b = d
      · rw [if_pos hb]
        by_cases h2 : a' < a
        · simp [Memory.read, show a ≠ a' by omega, show a' ≠ a by omega, h2, Memory.read_below h.2 (show a' < a + 1 by omega)]
        · by_cases e : a' = a
          · subst e; simp [Memory.read_below h.2 (Nat.lt_succ_self a'), hb]
          · simp [Memory.read, e, Ne.symm e, h2]
      · rw [if_neg hb]
        by_cases e : a' = a
        · simp [Memory.read, e]
        · simp [Memory.read, e, Ne.symm e]
    · have hw : Memory.write d ((a0, b0) :: r) a b = (a0, b0) :: Memory.write d r a b := by
        rw [Memory.write, if_neg (by omega), if_neg (by omega)]
      rw [hw]
      by_cases e : a' = a
      · subst e
        simp [Memory.read, show a0 ≠ a' by omega, show ¬ a' < a0 by omega, ih h.2]
      · by_cases e0 : a0 = a'
        · simp [Memory.read, e0, e]
        · simp [Memory.read, e0, e, ih h.2]

/-- A byte read after a write: the byte written at that address, and every other byte as before. -/
theorem Memory.read_write {d : Byte} {m : Memory} (a a' : Nat) (b : Byte) (h : Memory.wf d m = true) :
    Memory.read d (Memory.write d m a b) a' = if a' = a then b else Memory.read d m a' :=
  Memory.read_write_from a a' b h

/-- A byte outside what writes store reads as before. -/
theorem Memory.read_writes_outside {d : Byte} {m : Memory} (a a' : Nat) (bs : List Byte) (h : Memory.wf d m = true)
    (ha : a' < a ∨ a + bs.length ≤ a') : Memory.read d (Memory.writes d m a bs) a' = Memory.read d m a' := by
  induction bs generalizing m a with
  | nil => rfl
  | cons b r ih =>
    simp only [List.length_cons] at ha
    rw [Memory.writes, ih (a + 1) (Memory.wf_write a b h) (by omega), Memory.read_write a a' b h, if_neg (by omega)]

/-- A byte inside what writes store reads as the byte stored there. -/
theorem Memory.read_writes_inside {d : Byte} {m : Memory} (a i : Nat) (bs : List Byte) (h : Memory.wf d m = true)
    (hi : i < bs.length) : Memory.read d (Memory.writes d m a bs) (a + i) = bs[i] := by
  induction bs generalizing m a i with
  | nil => simp at hi
  | cons b r ih =>
    cases i with
    | zero =>
      rw [Memory.writes, Memory.read_writes_outside (a + 1) (a + 0) r (Memory.wf_write a b h) (by omega),
        Memory.read_write a (a + 0) b h]
      simp
    | succ k =>
      have := ih (m := Memory.write d m a b) (a + 1) k (Memory.wf_write a b h) (by simpa using hi)
      rw [Memory.writes, show a + (k + 1) = a + 1 + k by omega, this]
      simp

end Sys2Proof.Machine
end

