-- ==== Sys2Proof/Laws/State.lean ====
section
/-!
SUPPORT. What each named update of the state leaves in each field: one lemma for one field of one update.
-/

namespace Sys2Proof.Machine

open Sys2Proof

variable (s : State)

-- setReg
@[simp] theorem setReg_pending (r : Reg) (v : Nat) : (s.setReg r v).pending = s.pending := rfl
@[simp] theorem setReg_out (r : Reg) (v : Nat) : (s.setReg r v).out = s.out := rfl
@[simp] theorem setReg_regs (r : Reg) (v : Nat) : (s.setReg r v).regs = s.regs.set r (BitVec.ofNat 64 v) := rfl
@[simp] theorem setReg_pmc (r : Reg) (v : Nat) : (s.setReg r v).pmc = s.pmc := rfl
@[simp] theorem setReg_aon (r : Reg) (v : Nat) : (s.setReg r v).aon = s.aon := rfl
@[simp] theorem setReg_freeCtr (r : Reg) (v : Nat) : (s.setReg r v).freeCtr = s.freeCtr := rfl
@[simp] theorem setReg_boot (r : Reg) (v : Nat) : (s.setReg r v).boot = s.boot := rfl
@[simp] theorem setReg_sec (r : Reg) (v : Nat) : (s.setReg r v).sec = s.sec := rfl
@[simp] theorem setReg_err (r : Reg) (v : Nat) : (s.setReg r v).err = s.err := rfl
@[simp] theorem setReg_pins (r : Reg) (v : Nat) : (s.setReg r v).pins = s.pins := rfl
@[simp] theorem setReg_flash (r : Reg) (v : Nat) : (s.setReg r v).flash = s.flash := rfl
@[simp] theorem setReg_sqs (r : Reg) (v : Nat) : (s.setReg r v).sqs = s.sqs := rfl
@[simp] theorem setReg_cqs (r : Reg) (v : Nat) : (s.setReg r v).cqs = s.cqs := rfl
@[simp] theorem setReg_bounce (r : Reg) (v : Nat) : (s.setReg r v).bounce = s.bounce := rfl
@[simp] theorem setReg_mboxBusy (r : Reg) (v : Nat) : (s.setReg r v).mboxBusy = s.mboxBusy := rfl
@[simp] theorem setReg_arrived (r : Reg) (v : Nat) : (s.setReg r v).arrived = s.arrived := rfl
@[simp] theorem setReg_waitS15 (r : Reg) (v : Nat) : (s.setReg r v).waitS15 = s.waitS15 := rfl
@[simp] theorem setReg_sessions (r : Reg) (v : Nat) : (s.setReg r v).sessions = s.sessions := rfl
@[simp] theorem setReg_freed (r : Reg) (v : Nat) : (s.setReg r v).freed = s.freed := rfl
@[simp] theorem setReg_reqs (r : Reg) (v : Nat) : (s.setReg r v).reqs = s.reqs := rfl
@[simp] theorem setReg_handoffs (r : Reg) (v : Nat) : (s.setReg r v).handoffs = s.handoffs := rfl
@[simp] theorem setReg_parks (r : Reg) (v : Nat) : (s.setReg r v).parks = s.parks := rfl
@[simp] theorem setReg_revives (r : Reg) (v : Nat) : (s.setReg r v).revives = s.revives := rfl
@[simp] theorem setReg_movesOut (r : Reg) (v : Nat) : (s.setReg r v).movesOut = s.movesOut := rfl
@[simp] theorem setReg_movesIn (r : Reg) (v : Nat) : (s.setReg r v).movesIn = s.movesIn := rfl
@[simp] theorem setReg_pulls (r : Reg) (v : Nat) : (s.setReg r v).pulls = s.pulls := rfl
@[simp] theorem setReg_slices (r : Reg) (v : Nat) : (s.setReg r v).slices = s.slices := rfl
@[simp] theorem setReg_expertWait (r : Reg) (v : Nat) : (s.setReg r v).expertWait = s.expertWait := rfl
@[simp] theorem setReg_capSeq (r : Reg) (v : Nat) : (s.setReg r v).capSeq = s.capSeq := rfl
@[simp] theorem setReg_batches (r : Reg) (v : Nat) : (s.setReg r v).batches = s.batches := rfl
@[simp] theorem setReg_nextBatch (r : Reg) (v : Nat) : (s.setReg r v).nextBatch = s.nextBatch := rfl
@[simp] theorem setReg_ctxs (r : Reg) (v : Nat) : (s.setReg r v).ctxs = s.ctxs := rfl
@[simp] theorem setReg_cores (r : Reg) (v : Nat) : (s.setReg r v).cores = s.cores := rfl
@[simp] theorem setReg_courses (r : Reg) (v : Nat) : (s.setReg r v).courses = s.courses := rfl
@[simp] theorem setReg_bars (r : Reg) (v : Nat) : (s.setReg r v).bars = s.bars := rfl
@[simp] theorem setReg_tileFrames (r : Reg) (v : Nat) : (s.setReg r v).tileFrames = s.tileFrames := rfl
@[simp] theorem setReg_mortarFrames (r : Reg) (v : Nat) : (s.setReg r v).mortarFrames = s.mortarFrames := rfl
@[simp] theorem setReg_tiles (r : Reg) (v : Nat) : (s.setReg r v).tiles = s.tiles := rfl
@[simp] theorem setReg_ram (r : Reg) (v : Nat) : (s.setReg r v).ram = s.ram := rfl
@[simp] theorem setReg_prefixes (r : Reg) (v : Nat) : (s.setReg r v).prefixes = s.prefixes := rfl
@[simp] theorem setReg_grammars (r : Reg) (v : Nat) : (s.setReg r v).grammars = s.grammars := rfl
@[simp] theorem setReg_loadGens (r : Reg) (v : Nat) : (s.setReg r v).loadGens = s.loadGens := rfl
@[simp] theorem setReg_qry (r : Reg) (v : Nat) : (s.setReg r v).qry = s.qry := rfl
@[simp] theorem setReg_bonds (r : Reg) (v : Nat) : (s.setReg r v).bonds = s.bonds := rfl
@[simp] theorem setReg_nextSeq (r : Reg) (v : Nat) : (s.setReg r v).nextSeq = s.nextSeq := rfl
@[simp] theorem setReg_bondWaits (r : Reg) (v : Nat) : (s.setReg r v).bondWaits = s.bondWaits := rfl
@[simp] theorem setReg_mirror (r : Reg) (v : Nat) : (s.setReg r v).mirror = s.mirror := rfl
@[simp] theorem setReg_reports (r : Reg) (v : Nat) : (s.setReg r v).reports = s.reports := rfl
@[simp] theorem setReg_colls (r : Reg) (v : Nat) : (s.setReg r v).colls = s.colls := rfl
@[simp] theorem setReg_scans (r : Reg) (v : Nat) : (s.setReg r v).scans = s.scans := rfl
@[simp] theorem setReg_ckp (r : Reg) (v : Nat) : (s.setReg r v).ckp = s.ckp := rfl
@[simp] theorem setReg_ports (r : Reg) (v : Nat) : (s.setReg r v).ports = s.ports := rfl
@[simp] theorem setReg_peers (r : Reg) (v : Nat) : (s.setReg r v).peers = s.peers := rfl
@[simp] theorem setReg_comps (r : Reg) (v : Nat) : (s.setReg r v).comps = s.comps := rfl
@[simp] theorem setReg_forwards (r : Reg) (v : Nat) : (s.setReg r v).forwards = s.forwards := rfl
@[simp] theorem setReg_resets (r : Reg) (v : Nat) : (s.setReg r v).resets = s.resets := rfl
@[simp] theorem setReg_removals (r : Reg) (v : Nat) : (s.setReg r v).removals = s.removals := rfl
@[simp] theorem setReg_removeWait (r : Reg) (v : Nat) : (s.setReg r v).removeWait = s.removeWait := rfl
@[simp] theorem setReg_allocWait (r : Reg) (v : Nat) : (s.setReg r v).allocWait = s.allocWait := rfl
@[simp] theorem setReg_regPages (r : Reg) (v : Nat) : (s.setReg r v).regPages = s.regPages := rfl
@[simp] theorem setReg_lateEnds (r : Reg) (v : Nat) : (s.setReg r v).lateEnds = s.lateEnds := rfl
@[simp] theorem setReg_selfRefresh (r : Reg) (v : Nat) : (s.setReg r v).selfRefresh = s.selfRefresh := rfl
@[simp] theorem setReg_patrol (r : Reg) (v : Nat) : (s.setReg r v).patrol = s.patrol := rfl

-- setPmc
@[simp] theorem setPmc_pending (r : Reg) (v : Nat) : (s.setPmc r v).pending = s.pending := rfl
@[simp] theorem setPmc_out (r : Reg) (v : Nat) : (s.setPmc r v).out = s.out := rfl
@[simp] theorem setPmc_regs (r : Reg) (v : Nat) : (s.setPmc r v).regs = s.regs := rfl
@[simp] theorem setPmc_pmc (r : Reg) (v : Nat) : (s.setPmc r v).pmc = s.pmc.set r (BitVec.ofNat 64 v) := rfl
@[simp] theorem setPmc_aon (r : Reg) (v : Nat) : (s.setPmc r v).aon = s.aon := rfl
@[simp] theorem setPmc_freeCtr (r : Reg) (v : Nat) : (s.setPmc r v).freeCtr = s.freeCtr := rfl
@[simp] theorem setPmc_boot (r : Reg) (v : Nat) : (s.setPmc r v).boot = s.boot := rfl
@[simp] theorem setPmc_sec (r : Reg) (v : Nat) : (s.setPmc r v).sec = s.sec := rfl
@[simp] theorem setPmc_err (r : Reg) (v : Nat) : (s.setPmc r v).err = s.err := rfl
@[simp] theorem setPmc_pins (r : Reg) (v : Nat) : (s.setPmc r v).pins = s.pins := rfl
@[simp] theorem setPmc_flash (r : Reg) (v : Nat) : (s.setPmc r v).flash = s.flash := rfl
@[simp] theorem setPmc_sqs (r : Reg) (v : Nat) : (s.setPmc r v).sqs = s.sqs := rfl
@[simp] theorem setPmc_cqs (r : Reg) (v : Nat) : (s.setPmc r v).cqs = s.cqs := rfl
@[simp] theorem setPmc_bounce (r : Reg) (v : Nat) : (s.setPmc r v).bounce = s.bounce := rfl
@[simp] theorem setPmc_mboxBusy (r : Reg) (v : Nat) : (s.setPmc r v).mboxBusy = s.mboxBusy := rfl
@[simp] theorem setPmc_arrived (r : Reg) (v : Nat) : (s.setPmc r v).arrived = s.arrived := rfl
@[simp] theorem setPmc_waitS15 (r : Reg) (v : Nat) : (s.setPmc r v).waitS15 = s.waitS15 := rfl
@[simp] theorem setPmc_sessions (r : Reg) (v : Nat) : (s.setPmc r v).sessions = s.sessions := rfl
@[simp] theorem setPmc_freed (r : Reg) (v : Nat) : (s.setPmc r v).freed = s.freed := rfl
@[simp] theorem setPmc_reqs (r : Reg) (v : Nat) : (s.setPmc r v).reqs = s.reqs := rfl
@[simp] theorem setPmc_handoffs (r : Reg) (v : Nat) : (s.setPmc r v).handoffs = s.handoffs := rfl
@[simp] theorem setPmc_parks (r : Reg) (v : Nat) : (s.setPmc r v).parks = s.parks := rfl
@[simp] theorem setPmc_revives (r : Reg) (v : Nat) : (s.setPmc r v).revives = s.revives := rfl
@[simp] theorem setPmc_movesOut (r : Reg) (v : Nat) : (s.setPmc r v).movesOut = s.movesOut := rfl
@[simp] theorem setPmc_movesIn (r : Reg) (v : Nat) : (s.setPmc r v).movesIn = s.movesIn := rfl
@[simp] theorem setPmc_pulls (r : Reg) (v : Nat) : (s.setPmc r v).pulls = s.pulls := rfl
@[simp] theorem setPmc_slices (r : Reg) (v : Nat) : (s.setPmc r v).slices = s.slices := rfl
@[simp] theorem setPmc_expertWait (r : Reg) (v : Nat) : (s.setPmc r v).expertWait = s.expertWait := rfl
@[simp] theorem setPmc_capSeq (r : Reg) (v : Nat) : (s.setPmc r v).capSeq = s.capSeq := rfl
@[simp] theorem setPmc_batches (r : Reg) (v : Nat) : (s.setPmc r v).batches = s.batches := rfl
@[simp] theorem setPmc_nextBatch (r : Reg) (v : Nat) : (s.setPmc r v).nextBatch = s.nextBatch := rfl
@[simp] theorem setPmc_ctxs (r : Reg) (v : Nat) : (s.setPmc r v).ctxs = s.ctxs := rfl
@[simp] theorem setPmc_cores (r : Reg) (v : Nat) : (s.setPmc r v).cores = s.cores := rfl
@[simp] theorem setPmc_courses (r : Reg) (v : Nat) : (s.setPmc r v).courses = s.courses := rfl
@[simp] theorem setPmc_bars (r : Reg) (v : Nat) : (s.setPmc r v).bars = s.bars := rfl
@[simp] theorem setPmc_tileFrames (r : Reg) (v : Nat) : (s.setPmc r v).tileFrames = s.tileFrames := rfl
@[simp] theorem setPmc_mortarFrames (r : Reg) (v : Nat) : (s.setPmc r v).mortarFrames = s.mortarFrames := rfl
@[simp] theorem setPmc_tiles (r : Reg) (v : Nat) : (s.setPmc r v).tiles = s.tiles := rfl
@[simp] theorem setPmc_ram (r : Reg) (v : Nat) : (s.setPmc r v).ram = s.ram := rfl
@[simp] theorem setPmc_prefixes (r : Reg) (v : Nat) : (s.setPmc r v).prefixes = s.prefixes := rfl
@[simp] theorem setPmc_grammars (r : Reg) (v : Nat) : (s.setPmc r v).grammars = s.grammars := rfl
@[simp] theorem setPmc_loadGens (r : Reg) (v : Nat) : (s.setPmc r v).loadGens = s.loadGens := rfl
@[simp] theorem setPmc_qry (r : Reg) (v : Nat) : (s.setPmc r v).qry = s.qry := rfl
@[simp] theorem setPmc_bonds (r : Reg) (v : Nat) : (s.setPmc r v).bonds = s.bonds := rfl
@[simp] theorem setPmc_nextSeq (r : Reg) (v : Nat) : (s.setPmc r v).nextSeq = s.nextSeq := rfl
@[simp] theorem setPmc_bondWaits (r : Reg) (v : Nat) : (s.setPmc r v).bondWaits = s.bondWaits := rfl
@[simp] theorem setPmc_mirror (r : Reg) (v : Nat) : (s.setPmc r v).mirror = s.mirror := rfl
@[simp] theorem setPmc_reports (r : Reg) (v : Nat) : (s.setPmc r v).reports = s.reports := rfl
@[simp] theorem setPmc_colls (r : Reg) (v : Nat) : (s.setPmc r v).colls = s.colls := rfl
@[simp] theorem setPmc_scans (r : Reg) (v : Nat) : (s.setPmc r v).scans = s.scans := rfl
@[simp] theorem setPmc_ckp (r : Reg) (v : Nat) : (s.setPmc r v).ckp = s.ckp := rfl
@[simp] theorem setPmc_ports (r : Reg) (v : Nat) : (s.setPmc r v).ports = s.ports := rfl
@[simp] theorem setPmc_peers (r : Reg) (v : Nat) : (s.setPmc r v).peers = s.peers := rfl
@[simp] theorem setPmc_comps (r : Reg) (v : Nat) : (s.setPmc r v).comps = s.comps := rfl
@[simp] theorem setPmc_forwards (r : Reg) (v : Nat) : (s.setPmc r v).forwards = s.forwards := rfl
@[simp] theorem setPmc_resets (r : Reg) (v : Nat) : (s.setPmc r v).resets = s.resets := rfl
@[simp] theorem setPmc_removals (r : Reg) (v : Nat) : (s.setPmc r v).removals = s.removals := rfl
@[simp] theorem setPmc_removeWait (r : Reg) (v : Nat) : (s.setPmc r v).removeWait = s.removeWait := rfl
@[simp] theorem setPmc_allocWait (r : Reg) (v : Nat) : (s.setPmc r v).allocWait = s.allocWait := rfl
@[simp] theorem setPmc_regPages (r : Reg) (v : Nat) : (s.setPmc r v).regPages = s.regPages := rfl
@[simp] theorem setPmc_lateEnds (r : Reg) (v : Nat) : (s.setPmc r v).lateEnds = s.lateEnds := rfl
@[simp] theorem setPmc_selfRefresh (r : Reg) (v : Nat) : (s.setPmc r v).selfRefresh = s.selfRefresh := rfl
@[simp] theorem setPmc_patrol (r : Reg) (v : Nat) : (s.setPmc r v).patrol = s.patrol := rfl

-- setFld
@[simp] theorem setFld_pending (f : Field) (v i j : Nat) : (s.setFld f v i j).pending = s.pending := rfl
@[simp] theorem setFld_out (f : Field) (v i j : Nat) : (s.setFld f v i j).out = s.out := rfl
@[simp] theorem setFld_pmc (f : Field) (v i j : Nat) : (s.setFld f v i j).pmc = s.pmc := rfl
@[simp] theorem setFld_aon (f : Field) (v i j : Nat) : (s.setFld f v i j).aon = s.aon := rfl
@[simp] theorem setFld_freeCtr (f : Field) (v i j : Nat) : (s.setFld f v i j).freeCtr = s.freeCtr := rfl
@[simp] theorem setFld_boot (f : Field) (v i j : Nat) : (s.setFld f v i j).boot = s.boot := rfl
@[simp] theorem setFld_sec (f : Field) (v i j : Nat) : (s.setFld f v i j).sec = s.sec := rfl
@[simp] theorem setFld_err (f : Field) (v i j : Nat) : (s.setFld f v i j).err = s.err := rfl
@[simp] theorem setFld_pins (f : Field) (v i j : Nat) : (s.setFld f v i j).pins = s.pins := rfl
@[simp] theorem setFld_flash (f : Field) (v i j : Nat) : (s.setFld f v i j).flash = s.flash := rfl
@[simp] theorem setFld_sqs (f : Field) (v i j : Nat) : (s.setFld f v i j).sqs = s.sqs := rfl
@[simp] theorem setFld_cqs (f : Field) (v i j : Nat) : (s.setFld f v i j).cqs = s.cqs := rfl
@[simp] theorem setFld_bounce (f : Field) (v i j : Nat) : (s.setFld f v i j).bounce = s.bounce := rfl
@[simp] theorem setFld_mboxBusy (f : Field) (v i j : Nat) : (s.setFld f v i j).mboxBusy = s.mboxBusy := rfl
@[simp] theorem setFld_arrived (f : Field) (v i j : Nat) : (s.setFld f v i j).arrived = s.arrived := rfl
@[simp] theorem setFld_waitS15 (f : Field) (v i j : Nat) : (s.setFld f v i j).waitS15 = s.waitS15 := rfl
@[simp] theorem setFld_sessions (f : Field) (v i j : Nat) : (s.setFld f v i j).sessions = s.sessions := rfl
@[simp] theorem setFld_freed (f : Field) (v i j : Nat) : (s.setFld f v i j).freed = s.freed := rfl
@[simp] theorem setFld_reqs (f : Field) (v i j : Nat) : (s.setFld f v i j).reqs = s.reqs := rfl
@[simp] theorem setFld_handoffs (f : Field) (v i j : Nat) : (s.setFld f v i j).handoffs = s.handoffs := rfl
@[simp] theorem setFld_parks (f : Field) (v i j : Nat) : (s.setFld f v i j).parks = s.parks := rfl
@[simp] theorem setFld_revives (f : Field) (v i j : Nat) : (s.setFld f v i j).revives = s.revives := rfl
@[simp] theorem setFld_movesOut (f : Field) (v i j : Nat) : (s.setFld f v i j).movesOut = s.movesOut := rfl
@[simp] theorem setFld_movesIn (f : Field) (v i j : Nat) : (s.setFld f v i j).movesIn = s.movesIn := rfl
@[simp] theorem setFld_pulls (f : Field) (v i j : Nat) : (s.setFld f v i j).pulls = s.pulls := rfl
@[simp] theorem setFld_slices (f : Field) (v i j : Nat) : (s.setFld f v i j).slices = s.slices := rfl
@[simp] theorem setFld_expertWait (f : Field) (v i j : Nat) : (s.setFld f v i j).expertWait = s.expertWait := rfl
@[simp] theorem setFld_capSeq (f : Field) (v i j : Nat) : (s.setFld f v i j).capSeq = s.capSeq := rfl
@[simp] theorem setFld_batches (f : Field) (v i j : Nat) : (s.setFld f v i j).batches = s.batches := rfl
@[simp] theorem setFld_nextBatch (f : Field) (v i j : Nat) : (s.setFld f v i j).nextBatch = s.nextBatch := rfl
@[simp] theorem setFld_ctxs (f : Field) (v i j : Nat) : (s.setFld f v i j).ctxs = s.ctxs := rfl
@[simp] theorem setFld_cores (f : Field) (v i j : Nat) : (s.setFld f v i j).cores = s.cores := rfl
@[simp] theorem setFld_courses (f : Field) (v i j : Nat) : (s.setFld f v i j).courses = s.courses := rfl
@[simp] theorem setFld_bars (f : Field) (v i j : Nat) : (s.setFld f v i j).bars = s.bars := rfl
@[simp] theorem setFld_tileFrames (f : Field) (v i j : Nat) : (s.setFld f v i j).tileFrames = s.tileFrames := rfl
@[simp] theorem setFld_mortarFrames (f : Field) (v i j : Nat) : (s.setFld f v i j).mortarFrames = s.mortarFrames := rfl
@[simp] theorem setFld_tiles (f : Field) (v i j : Nat) : (s.setFld f v i j).tiles = s.tiles := rfl
@[simp] theorem setFld_ram (f : Field) (v i j : Nat) : (s.setFld f v i j).ram = s.ram := rfl
@[simp] theorem setFld_prefixes (f : Field) (v i j : Nat) : (s.setFld f v i j).prefixes = s.prefixes := rfl
@[simp] theorem setFld_grammars (f : Field) (v i j : Nat) : (s.setFld f v i j).grammars = s.grammars := rfl
@[simp] theorem setFld_loadGens (f : Field) (v i j : Nat) : (s.setFld f v i j).loadGens = s.loadGens := rfl
@[simp] theorem setFld_qry (f : Field) (v i j : Nat) : (s.setFld f v i j).qry = s.qry := rfl
@[simp] theorem setFld_bonds (f : Field) (v i j : Nat) : (s.setFld f v i j).bonds = s.bonds := rfl
@[simp] theorem setFld_nextSeq (f : Field) (v i j : Nat) : (s.setFld f v i j).nextSeq = s.nextSeq := rfl
@[simp] theorem setFld_bondWaits (f : Field) (v i j : Nat) : (s.setFld f v i j).bondWaits = s.bondWaits := rfl
@[simp] theorem setFld_mirror (f : Field) (v i j : Nat) : (s.setFld f v i j).mirror = s.mirror := rfl
@[simp] theorem setFld_reports (f : Field) (v i j : Nat) : (s.setFld f v i j).reports = s.reports := rfl
@[simp] theorem setFld_colls (f : Field) (v i j : Nat) : (s.setFld f v i j).colls = s.colls := rfl
@[simp] theorem setFld_scans (f : Field) (v i j : Nat) : (s.setFld f v i j).scans = s.scans := rfl
@[simp] theorem setFld_ckp (f : Field) (v i j : Nat) : (s.setFld f v i j).ckp = s.ckp := rfl
@[simp] theorem setFld_ports (f : Field) (v i j : Nat) : (s.setFld f v i j).ports = s.ports := rfl
@[simp] theorem setFld_peers (f : Field) (v i j : Nat) : (s.setFld f v i j).peers = s.peers := rfl
@[simp] theorem setFld_comps (f : Field) (v i j : Nat) : (s.setFld f v i j).comps = s.comps := rfl
@[simp] theorem setFld_forwards (f : Field) (v i j : Nat) : (s.setFld f v i j).forwards = s.forwards := rfl
@[simp] theorem setFld_resets (f : Field) (v i j : Nat) : (s.setFld f v i j).resets = s.resets := rfl
@[simp] theorem setFld_removals (f : Field) (v i j : Nat) : (s.setFld f v i j).removals = s.removals := rfl
@[simp] theorem setFld_removeWait (f : Field) (v i j : Nat) : (s.setFld f v i j).removeWait = s.removeWait := rfl
@[simp] theorem setFld_allocWait (f : Field) (v i j : Nat) : (s.setFld f v i j).allocWait = s.allocWait := rfl
@[simp] theorem setFld_regPages (f : Field) (v i j : Nat) : (s.setFld f v i j).regPages = s.regPages := rfl
@[simp] theorem setFld_lateEnds (f : Field) (v i j : Nat) : (s.setFld f v i j).lateEnds = s.lateEnds := rfl
@[simp] theorem setFld_selfRefresh (f : Field) (v i j : Nat) : (s.setFld f v i j).selfRefresh = s.selfRefresh := rfl
@[simp] theorem setFld_patrol (f : Field) (v i j : Nat) : (s.setFld f v i j).patrol = s.patrol := rfl

-- put
@[simp] theorem put_pending (o : Out) : (s.put o).pending = s.pending := rfl
@[simp] theorem put_out (o : Out) : (s.put o).out = o :: s.out := rfl
@[simp] theorem put_regs (o : Out) : (s.put o).regs = s.regs := rfl
@[simp] theorem put_pmc (o : Out) : (s.put o).pmc = s.pmc := rfl
@[simp] theorem put_aon (o : Out) : (s.put o).aon = s.aon := rfl
@[simp] theorem put_freeCtr (o : Out) : (s.put o).freeCtr = s.freeCtr := rfl
@[simp] theorem put_boot (o : Out) : (s.put o).boot = s.boot := rfl
@[simp] theorem put_sec (o : Out) : (s.put o).sec = s.sec := rfl
@[simp] theorem put_err (o : Out) : (s.put o).err = s.err := rfl
@[simp] theorem put_pins (o : Out) : (s.put o).pins = s.pins := rfl
@[simp] theorem put_flash (o : Out) : (s.put o).flash = s.flash := rfl
@[simp] theorem put_sqs (o : Out) : (s.put o).sqs = s.sqs := rfl
@[simp] theorem put_cqs (o : Out) : (s.put o).cqs = s.cqs := rfl
@[simp] theorem put_bounce (o : Out) : (s.put o).bounce = s.bounce := rfl
@[simp] theorem put_mboxBusy (o : Out) : (s.put o).mboxBusy = s.mboxBusy := rfl
@[simp] theorem put_arrived (o : Out) : (s.put o).arrived = s.arrived := rfl
@[simp] theorem put_waitS15 (o : Out) : (s.put o).waitS15 = s.waitS15 := rfl
@[simp] theorem put_sessions (o : Out) : (s.put o).sessions = s.sessions := rfl
@[simp] theorem put_freed (o : Out) : (s.put o).freed = s.freed := rfl
@[simp] theorem put_reqs (o : Out) : (s.put o).reqs = s.reqs := rfl
@[simp] theorem put_handoffs (o : Out) : (s.put o).handoffs = s.handoffs := rfl
@[simp] theorem put_parks (o : Out) : (s.put o).parks = s.parks := rfl
@[simp] theorem put_revives (o : Out) : (s.put o).revives = s.revives := rfl
@[simp] theorem put_movesOut (o : Out) : (s.put o).movesOut = s.movesOut := rfl
@[simp] theorem put_movesIn (o : Out) : (s.put o).movesIn = s.movesIn := rfl
@[simp] theorem put_pulls (o : Out) : (s.put o).pulls = s.pulls := rfl
@[simp] theorem put_slices (o : Out) : (s.put o).slices = s.slices := rfl
@[simp] theorem put_expertWait (o : Out) : (s.put o).expertWait = s.expertWait := rfl
@[simp] theorem put_capSeq (o : Out) : (s.put o).capSeq = s.capSeq := rfl
@[simp] theorem put_batches (o : Out) : (s.put o).batches = s.batches := rfl
@[simp] theorem put_nextBatch (o : Out) : (s.put o).nextBatch = s.nextBatch := rfl
@[simp] theorem put_ctxs (o : Out) : (s.put o).ctxs = s.ctxs := rfl
@[simp] theorem put_cores (o : Out) : (s.put o).cores = s.cores := rfl
@[simp] theorem put_courses (o : Out) : (s.put o).courses = s.courses := rfl
@[simp] theorem put_bars (o : Out) : (s.put o).bars = s.bars := rfl
@[simp] theorem put_tileFrames (o : Out) : (s.put o).tileFrames = s.tileFrames := rfl
@[simp] theorem put_mortarFrames (o : Out) : (s.put o).mortarFrames = s.mortarFrames := rfl
@[simp] theorem put_tiles (o : Out) : (s.put o).tiles = s.tiles := rfl
@[simp] theorem put_ram (o : Out) : (s.put o).ram = s.ram := rfl
@[simp] theorem put_prefixes (o : Out) : (s.put o).prefixes = s.prefixes := rfl
@[simp] theorem put_grammars (o : Out) : (s.put o).grammars = s.grammars := rfl
@[simp] theorem put_loadGens (o : Out) : (s.put o).loadGens = s.loadGens := rfl
@[simp] theorem put_qry (o : Out) : (s.put o).qry = s.qry := rfl
@[simp] theorem put_bonds (o : Out) : (s.put o).bonds = s.bonds := rfl
@[simp] theorem put_nextSeq (o : Out) : (s.put o).nextSeq = s.nextSeq := rfl
@[simp] theorem put_bondWaits (o : Out) : (s.put o).bondWaits = s.bondWaits := rfl
@[simp] theorem put_mirror (o : Out) : (s.put o).mirror = s.mirror := rfl
@[simp] theorem put_reports (o : Out) : (s.put o).reports = s.reports := rfl
@[simp] theorem put_colls (o : Out) : (s.put o).colls = s.colls := rfl
@[simp] theorem put_scans (o : Out) : (s.put o).scans = s.scans := rfl
@[simp] theorem put_ckp (o : Out) : (s.put o).ckp = s.ckp := rfl
@[simp] theorem put_ports (o : Out) : (s.put o).ports = s.ports := rfl
@[simp] theorem put_peers (o : Out) : (s.put o).peers = s.peers := rfl
@[simp] theorem put_comps (o : Out) : (s.put o).comps = s.comps := rfl
@[simp] theorem put_forwards (o : Out) : (s.put o).forwards = s.forwards := rfl
@[simp] theorem put_resets (o : Out) : (s.put o).resets = s.resets := rfl
@[simp] theorem put_removals (o : Out) : (s.put o).removals = s.removals := rfl
@[simp] theorem put_removeWait (o : Out) : (s.put o).removeWait = s.removeWait := rfl
@[simp] theorem put_allocWait (o : Out) : (s.put o).allocWait = s.allocWait := rfl
@[simp] theorem put_regPages (o : Out) : (s.put o).regPages = s.regPages := rfl
@[simp] theorem put_lateEnds (o : Out) : (s.put o).lateEnds = s.lateEnds := rfl
@[simp] theorem put_selfRefresh (o : Out) : (s.put o).selfRefresh = s.selfRefresh := rfl
@[simp] theorem put_patrol (o : Out) : (s.put o).patrol = s.patrol := rfl

-- signal
@[simp] theorem signal_pending (f : Fn) (v : Nat) : (s.signal f v).pending = s.pending := rfl
@[simp] theorem signal_out (f : Fn) (v : Nat) : (s.signal f v).out = Out.msix f v :: s.out := rfl
@[simp] theorem signal_regs (f : Fn) (v : Nat) : (s.signal f v).regs = s.regs := rfl
@[simp] theorem signal_pmc (f : Fn) (v : Nat) : (s.signal f v).pmc = s.pmc := rfl
@[simp] theorem signal_aon (f : Fn) (v : Nat) : (s.signal f v).aon = s.aon := rfl
@[simp] theorem signal_freeCtr (f : Fn) (v : Nat) : (s.signal f v).freeCtr = s.freeCtr := rfl
@[simp] theorem signal_boot (f : Fn) (v : Nat) : (s.signal f v).boot = s.boot := rfl
@[simp] theorem signal_sec (f : Fn) (v : Nat) : (s.signal f v).sec = s.sec := rfl
@[simp] theorem signal_err (f : Fn) (v : Nat) : (s.signal f v).err = s.err := rfl
@[simp] theorem signal_pins (f : Fn) (v : Nat) : (s.signal f v).pins = s.pins := rfl
@[simp] theorem signal_flash (f : Fn) (v : Nat) : (s.signal f v).flash = s.flash := rfl
@[simp] theorem signal_sqs (f : Fn) (v : Nat) : (s.signal f v).sqs = s.sqs := rfl
@[simp] theorem signal_cqs (f : Fn) (v : Nat) : (s.signal f v).cqs = s.cqs := rfl
@[simp] theorem signal_bounce (f : Fn) (v : Nat) : (s.signal f v).bounce = s.bounce := rfl
@[simp] theorem signal_mboxBusy (f : Fn) (v : Nat) : (s.signal f v).mboxBusy = s.mboxBusy := rfl
@[simp] theorem signal_arrived (f : Fn) (v : Nat) : (s.signal f v).arrived = s.arrived := rfl
@[simp] theorem signal_waitS15 (f : Fn) (v : Nat) : (s.signal f v).waitS15 = s.waitS15 := rfl
@[simp] theorem signal_sessions (f : Fn) (v : Nat) : (s.signal f v).sessions = s.sessions := rfl
@[simp] theorem signal_freed (f : Fn) (v : Nat) : (s.signal f v).freed = s.freed := rfl
@[simp] theorem signal_reqs (f : Fn) (v : Nat) : (s.signal f v).reqs = s.reqs := rfl
@[simp] theorem signal_handoffs (f : Fn) (v : Nat) : (s.signal f v).handoffs = s.handoffs := rfl
@[simp] theorem signal_parks (f : Fn) (v : Nat) : (s.signal f v).parks = s.parks := rfl
@[simp] theorem signal_revives (f : Fn) (v : Nat) : (s.signal f v).revives = s.revives := rfl
@[simp] theorem signal_movesOut (f : Fn) (v : Nat) : (s.signal f v).movesOut = s.movesOut := rfl
@[simp] theorem signal_movesIn (f : Fn) (v : Nat) : (s.signal f v).movesIn = s.movesIn := rfl
@[simp] theorem signal_pulls (f : Fn) (v : Nat) : (s.signal f v).pulls = s.pulls := rfl
@[simp] theorem signal_slices (f : Fn) (v : Nat) : (s.signal f v).slices = s.slices := rfl
@[simp] theorem signal_expertWait (f : Fn) (v : Nat) : (s.signal f v).expertWait = s.expertWait := rfl
@[simp] theorem signal_capSeq (f : Fn) (v : Nat) : (s.signal f v).capSeq = s.capSeq := rfl
@[simp] theorem signal_batches (f : Fn) (v : Nat) : (s.signal f v).batches = s.batches := rfl
@[simp] theorem signal_nextBatch (f : Fn) (v : Nat) : (s.signal f v).nextBatch = s.nextBatch := rfl
@[simp] theorem signal_ctxs (f : Fn) (v : Nat) : (s.signal f v).ctxs = s.ctxs := rfl
@[simp] theorem signal_cores (f : Fn) (v : Nat) : (s.signal f v).cores = s.cores := rfl
@[simp] theorem signal_courses (f : Fn) (v : Nat) : (s.signal f v).courses = s.courses := rfl
@[simp] theorem signal_bars (f : Fn) (v : Nat) : (s.signal f v).bars = s.bars := rfl
@[simp] theorem signal_tileFrames (f : Fn) (v : Nat) : (s.signal f v).tileFrames = s.tileFrames := rfl
@[simp] theorem signal_mortarFrames (f : Fn) (v : Nat) : (s.signal f v).mortarFrames = s.mortarFrames := rfl
@[simp] theorem signal_tiles (f : Fn) (v : Nat) : (s.signal f v).tiles = s.tiles := rfl
@[simp] theorem signal_ram (f : Fn) (v : Nat) : (s.signal f v).ram = s.ram := rfl
@[simp] theorem signal_prefixes (f : Fn) (v : Nat) : (s.signal f v).prefixes = s.prefixes := rfl
@[simp] theorem signal_grammars (f : Fn) (v : Nat) : (s.signal f v).grammars = s.grammars := rfl
@[simp] theorem signal_loadGens (f : Fn) (v : Nat) : (s.signal f v).loadGens = s.loadGens := rfl
@[simp] theorem signal_qry (f : Fn) (v : Nat) : (s.signal f v).qry = s.qry := rfl
@[simp] theorem signal_bonds (f : Fn) (v : Nat) : (s.signal f v).bonds = s.bonds := rfl
@[simp] theorem signal_nextSeq (f : Fn) (v : Nat) : (s.signal f v).nextSeq = s.nextSeq := rfl
@[simp] theorem signal_bondWaits (f : Fn) (v : Nat) : (s.signal f v).bondWaits = s.bondWaits := rfl
@[simp] theorem signal_mirror (f : Fn) (v : Nat) : (s.signal f v).mirror = s.mirror := rfl
@[simp] theorem signal_reports (f : Fn) (v : Nat) : (s.signal f v).reports = s.reports := rfl
@[simp] theorem signal_colls (f : Fn) (v : Nat) : (s.signal f v).colls = s.colls := rfl
@[simp] theorem signal_scans (f : Fn) (v : Nat) : (s.signal f v).scans = s.scans := rfl
@[simp] theorem signal_ckp (f : Fn) (v : Nat) : (s.signal f v).ckp = s.ckp := rfl
@[simp] theorem signal_ports (f : Fn) (v : Nat) : (s.signal f v).ports = s.ports := rfl
@[simp] theorem signal_peers (f : Fn) (v : Nat) : (s.signal f v).peers = s.peers := rfl
@[simp] theorem signal_comps (f : Fn) (v : Nat) : (s.signal f v).comps = s.comps := rfl
@[simp] theorem signal_forwards (f : Fn) (v : Nat) : (s.signal f v).forwards = s.forwards := rfl
@[simp] theorem signal_resets (f : Fn) (v : Nat) : (s.signal f v).resets = s.resets := rfl
@[simp] theorem signal_removals (f : Fn) (v : Nat) : (s.signal f v).removals = s.removals := rfl
@[simp] theorem signal_removeWait (f : Fn) (v : Nat) : (s.signal f v).removeWait = s.removeWait := rfl
@[simp] theorem signal_allocWait (f : Fn) (v : Nat) : (s.signal f v).allocWait = s.allocWait := rfl
@[simp] theorem signal_regPages (f : Fn) (v : Nat) : (s.signal f v).regPages = s.regPages := rfl
@[simp] theorem signal_lateEnds (f : Fn) (v : Nat) : (s.signal f v).lateEnds = s.lateEnds := rfl
@[simp] theorem signal_selfRefresh (f : Fn) (v : Nat) : (s.signal f v).selfRefresh = s.selfRefresh := rfl
@[simp] theorem signal_patrol (f : Fn) (v : Nat) : (s.signal f v).patrol = s.patrol := rfl

-- hifErr
@[simp] theorem hifErr_pending (f : Fn) (b : Field) (q : Nat) : (s.hifErr f b q).pending = s.pending := rfl
@[simp] theorem hifErr_out (f : Fn) (b : Field) (q : Nat) : (s.hifErr f b q).out = s.out := rfl
@[simp] theorem hifErr_pmc (f : Fn) (b : Field) (q : Nat) : (s.hifErr f b q).pmc = s.pmc := rfl
@[simp] theorem hifErr_aon (f : Fn) (b : Field) (q : Nat) : (s.hifErr f b q).aon = s.aon := rfl
@[simp] theorem hifErr_freeCtr (f : Fn) (b : Field) (q : Nat) : (s.hifErr f b q).freeCtr = s.freeCtr := rfl
@[simp] theorem hifErr_boot (f : Fn) (b : Field) (q : Nat) : (s.hifErr f b q).boot = s.boot := rfl
@[simp] theorem hifErr_sec (f : Fn) (b : Field) (q : Nat) : (s.hifErr f b q).sec = s.sec := rfl
@[simp] theorem hifErr_err (f : Fn) (b : Field) (q : Nat) : (s.hifErr f b q).err = s.err := rfl
@[simp] theorem hifErr_pins (f : Fn) (b : Field) (q : Nat) : (s.hifErr f b q).pins = s.pins := rfl
@[simp] theorem hifErr_flash (f : Fn) (b : Field) (q : Nat) : (s.hifErr f b q).flash = s.flash := rfl
@[simp] theorem hifErr_sqs (f : Fn) (b : Field) (q : Nat) : (s.hifErr f b q).sqs = s.sqs := rfl
@[simp] theorem hifErr_cqs (f : Fn) (b : Field) (q : Nat) : (s.hifErr f b q).cqs = s.cqs := rfl
@[simp] theorem hifErr_bounce (f : Fn) (b : Field) (q : Nat) : (s.hifErr f b q).bounce = s.bounce := rfl
@[simp] theorem hifErr_mboxBusy (f : Fn) (b : Field) (q : Nat) : (s.hifErr f b q).mboxBusy = s.mboxBusy := rfl
@[simp] theorem hifErr_arrived (f : Fn) (b : Field) (q : Nat) : (s.hifErr f b q).arrived = s.arrived := rfl
@[simp] theorem hifErr_waitS15 (f : Fn) (b : Field) (q : Nat) : (s.hifErr f b q).waitS15 = s.waitS15 := rfl
@[simp] theorem hifErr_sessions (f : Fn) (b : Field) (q : Nat) : (s.hifErr f b q).sessions = s.sessions := rfl
@[simp] theorem hifErr_freed (f : Fn) (b : Field) (q : Nat) : (s.hifErr f b q).freed = s.freed := rfl
@[simp] theorem hifErr_reqs (f : Fn) (b : Field) (q : Nat) : (s.hifErr f b q).reqs = s.reqs := rfl
@[simp] theorem hifErr_handoffs (f : Fn) (b : Field) (q : Nat) : (s.hifErr f b q).handoffs = s.handoffs := rfl
@[simp] theorem hifErr_parks (f : Fn) (b : Field) (q : Nat) : (s.hifErr f b q).parks = s.parks := rfl
@[simp] theorem hifErr_revives (f : Fn) (b : Field) (q : Nat) : (s.hifErr f b q).revives = s.revives := rfl
@[simp] theorem hifErr_movesOut (f : Fn) (b : Field) (q : Nat) : (s.hifErr f b q).movesOut = s.movesOut := rfl
@[simp] theorem hifErr_movesIn (f : Fn) (b : Field) (q : Nat) : (s.hifErr f b q).movesIn = s.movesIn := rfl
@[simp] theorem hifErr_pulls (f : Fn) (b : Field) (q : Nat) : (s.hifErr f b q).pulls = s.pulls := rfl
@[simp] theorem hifErr_slices (f : Fn) (b : Field) (q : Nat) : (s.hifErr f b q).slices = s.slices := rfl
@[simp] theorem hifErr_expertWait (f : Fn) (b : Field) (q : Nat) : (s.hifErr f b q).expertWait = s.expertWait := rfl
@[simp] theorem hifErr_capSeq (f : Fn) (b : Field) (q : Nat) : (s.hifErr f b q).capSeq = s.capSeq := rfl
@[simp] theorem hifErr_batches (f : Fn) (b : Field) (q : Nat) : (s.hifErr f b q).batches = s.batches := rfl
@[simp] theorem hifErr_nextBatch (f : Fn) (b : Field) (q : Nat) : (s.hifErr f b q).nextBatch = s.nextBatch := rfl
@[simp] theorem hifErr_ctxs (f : Fn) (b : Field) (q : Nat) : (s.hifErr f b q).ctxs = s.ctxs := rfl
@[simp] theorem hifErr_cores (f : Fn) (b : Field) (q : Nat) : (s.hifErr f b q).cores = s.cores := rfl
@[simp] theorem hifErr_courses (f : Fn) (b : Field) (q : Nat) : (s.hifErr f b q).courses = s.courses := rfl
@[simp] theorem hifErr_bars (f : Fn) (b : Field) (q : Nat) : (s.hifErr f b q).bars = s.bars := rfl
@[simp] theorem hifErr_tileFrames (f : Fn) (b : Field) (q : Nat) : (s.hifErr f b q).tileFrames = s.tileFrames := rfl
@[simp] theorem hifErr_mortarFrames (f : Fn) (b : Field) (q : Nat) : (s.hifErr f b q).mortarFrames = s.mortarFrames := rfl
@[simp] theorem hifErr_tiles (f : Fn) (b : Field) (q : Nat) : (s.hifErr f b q).tiles = s.tiles := rfl
@[simp] theorem hifErr_ram (f : Fn) (b : Field) (q : Nat) : (s.hifErr f b q).ram = s.ram := rfl
@[simp] theorem hifErr_prefixes (f : Fn) (b : Field) (q : Nat) : (s.hifErr f b q).prefixes = s.prefixes := rfl
@[simp] theorem hifErr_grammars (f : Fn) (b : Field) (q : Nat) : (s.hifErr f b q).grammars = s.grammars := rfl
@[simp] theorem hifErr_loadGens (f : Fn) (b : Field) (q : Nat) : (s.hifErr f b q).loadGens = s.loadGens := rfl
@[simp] theorem hifErr_qry (f : Fn) (b : Field) (q : Nat) : (s.hifErr f b q).qry = s.qry := rfl
@[simp] theorem hifErr_bonds (f : Fn) (b : Field) (q : Nat) : (s.hifErr f b q).bonds = s.bonds := rfl
@[simp] theorem hifErr_nextSeq (f : Fn) (b : Field) (q : Nat) : (s.hifErr f b q).nextSeq = s.nextSeq := rfl
@[simp] theorem hifErr_bondWaits (f : Fn) (b : Field) (q : Nat) : (s.hifErr f b q).bondWaits = s.bondWaits := rfl
@[simp] theorem hifErr_mirror (f : Fn) (b : Field) (q : Nat) : (s.hifErr f b q).mirror = s.mirror := rfl
@[simp] theorem hifErr_reports (f : Fn) (b : Field) (q : Nat) : (s.hifErr f b q).reports = s.reports := rfl
@[simp] theorem hifErr_colls (f : Fn) (b : Field) (q : Nat) : (s.hifErr f b q).colls = s.colls := rfl
@[simp] theorem hifErr_scans (f : Fn) (b : Field) (q : Nat) : (s.hifErr f b q).scans = s.scans := rfl
@[simp] theorem hifErr_ckp (f : Fn) (b : Field) (q : Nat) : (s.hifErr f b q).ckp = s.ckp := rfl
@[simp] theorem hifErr_ports (f : Fn) (b : Field) (q : Nat) : (s.hifErr f b q).ports = s.ports := rfl
@[simp] theorem hifErr_peers (f : Fn) (b : Field) (q : Nat) : (s.hifErr f b q).peers = s.peers := rfl
@[simp] theorem hifErr_comps (f : Fn) (b : Field) (q : Nat) : (s.hifErr f b q).comps = s.comps := rfl
@[simp] theorem hifErr_forwards (f : Fn) (b : Field) (q : Nat) : (s.hifErr f b q).forwards = s.forwards := rfl
@[simp] theorem hifErr_resets (f : Fn) (b : Field) (q : Nat) : (s.hifErr f b q).resets = s.resets := rfl
@[simp] theorem hifErr_removals (f : Fn) (b : Field) (q : Nat) : (s.hifErr f b q).removals = s.removals := rfl
@[simp] theorem hifErr_removeWait (f : Fn) (b : Field) (q : Nat) : (s.hifErr f b q).removeWait = s.removeWait := rfl
@[simp] theorem hifErr_allocWait (f : Fn) (b : Field) (q : Nat) : (s.hifErr f b q).allocWait = s.allocWait := rfl
@[simp] theorem hifErr_regPages (f : Fn) (b : Field) (q : Nat) : (s.hifErr f b q).regPages = s.regPages := rfl
@[simp] theorem hifErr_lateEnds (f : Fn) (b : Field) (q : Nat) : (s.hifErr f b q).lateEnds = s.lateEnds := rfl
@[simp] theorem hifErr_selfRefresh (f : Fn) (b : Field) (q : Nat) : (s.hifErr f b q).selfRefresh = s.selfRefresh := rfl
@[simp] theorem hifErr_patrol (f : Fn) (b : Field) (q : Nat) : (s.hifErr f b q).patrol = s.patrol := rfl

-- setSq
@[simp] theorem setSq_pending (f : Fn) (q : Nat) (x : Sq) : (s.setSq f q x).pending = s.pending := rfl
@[simp] theorem setSq_out (f : Fn) (q : Nat) (x : Sq) : (s.setSq f q x).out = s.out := rfl
@[simp] theorem setSq_regs (f : Fn) (q : Nat) (x : Sq) : (s.setSq f q x).regs = s.regs := rfl
@[simp] theorem setSq_pmc (f : Fn) (q : Nat) (x : Sq) : (s.setSq f q x).pmc = s.pmc := rfl
@[simp] theorem setSq_aon (f : Fn) (q : Nat) (x : Sq) : (s.setSq f q x).aon = s.aon := rfl
@[simp] theorem setSq_freeCtr (f : Fn) (q : Nat) (x : Sq) : (s.setSq f q x).freeCtr = s.freeCtr := rfl
@[simp] theorem setSq_boot (f : Fn) (q : Nat) (x : Sq) : (s.setSq f q x).boot = s.boot := rfl
@[simp] theorem setSq_sec (f : Fn) (q : Nat) (x : Sq) : (s.setSq f q x).sec = s.sec := rfl
@[simp] theorem setSq_err (f : Fn) (q : Nat) (x : Sq) : (s.setSq f q x).err = s.err := rfl
@[simp] theorem setSq_pins (f : Fn) (q : Nat) (x : Sq) : (s.setSq f q x).pins = s.pins := rfl
@[simp] theorem setSq_flash (f : Fn) (q : Nat) (x : Sq) : (s.setSq f q x).flash = s.flash := rfl
@[simp] theorem setSq_sqs (f : Fn) (q : Nat) (x : Sq) : (s.setSq f q x).sqs = s.sqs.set (f.index, q) x := rfl
@[simp] theorem setSq_cqs (f : Fn) (q : Nat) (x : Sq) : (s.setSq f q x).cqs = s.cqs := rfl
@[simp] theorem setSq_bounce (f : Fn) (q : Nat) (x : Sq) : (s.setSq f q x).bounce = s.bounce := rfl
@[simp] theorem setSq_mboxBusy (f : Fn) (q : Nat) (x : Sq) : (s.setSq f q x).mboxBusy = s.mboxBusy := rfl
@[simp] theorem setSq_arrived (f : Fn) (q : Nat) (x : Sq) : (s.setSq f q x).arrived = s.arrived := rfl
@[simp] theorem setSq_waitS15 (f : Fn) (q : Nat) (x : Sq) : (s.setSq f q x).waitS15 = s.waitS15 := rfl
@[simp] theorem setSq_sessions (f : Fn) (q : Nat) (x : Sq) : (s.setSq f q x).sessions = s.sessions := rfl
@[simp] theorem setSq_freed (f : Fn) (q : Nat) (x : Sq) : (s.setSq f q x).freed = s.freed := rfl
@[simp] theorem setSq_reqs (f : Fn) (q : Nat) (x : Sq) : (s.setSq f q x).reqs = s.reqs := rfl
@[simp] theorem setSq_handoffs (f : Fn) (q : Nat) (x : Sq) : (s.setSq f q x).handoffs = s.handoffs := rfl
@[simp] theorem setSq_parks (f : Fn) (q : Nat) (x : Sq) : (s.setSq f q x).parks = s.parks := rfl
@[simp] theorem setSq_revives (f : Fn) (q : Nat) (x : Sq) : (s.setSq f q x).revives = s.revives := rfl
@[simp] theorem setSq_movesOut (f : Fn) (q : Nat) (x : Sq) : (s.setSq f q x).movesOut = s.movesOut := rfl
@[simp] theorem setSq_movesIn (f : Fn) (q : Nat) (x : Sq) : (s.setSq f q x).movesIn = s.movesIn := rfl
@[simp] theorem setSq_pulls (f : Fn) (q : Nat) (x : Sq) : (s.setSq f q x).pulls = s.pulls := rfl
@[simp] theorem setSq_slices (f : Fn) (q : Nat) (x : Sq) : (s.setSq f q x).slices = s.slices := rfl
@[simp] theorem setSq_expertWait (f : Fn) (q : Nat) (x : Sq) : (s.setSq f q x).expertWait = s.expertWait := rfl
@[simp] theorem setSq_capSeq (f : Fn) (q : Nat) (x : Sq) : (s.setSq f q x).capSeq = s.capSeq := rfl
@[simp] theorem setSq_batches (f : Fn) (q : Nat) (x : Sq) : (s.setSq f q x).batches = s.batches := rfl
@[simp] theorem setSq_nextBatch (f : Fn) (q : Nat) (x : Sq) : (s.setSq f q x).nextBatch = s.nextBatch := rfl
@[simp] theorem setSq_ctxs (f : Fn) (q : Nat) (x : Sq) : (s.setSq f q x).ctxs = s.ctxs := rfl
@[simp] theorem setSq_cores (f : Fn) (q : Nat) (x : Sq) : (s.setSq f q x).cores = s.cores := rfl
@[simp] theorem setSq_courses (f : Fn) (q : Nat) (x : Sq) : (s.setSq f q x).courses = s.courses := rfl
@[simp] theorem setSq_bars (f : Fn) (q : Nat) (x : Sq) : (s.setSq f q x).bars = s.bars := rfl
@[simp] theorem setSq_tileFrames (f : Fn) (q : Nat) (x : Sq) : (s.setSq f q x).tileFrames = s.tileFrames := rfl
@[simp] theorem setSq_mortarFrames (f : Fn) (q : Nat) (x : Sq) : (s.setSq f q x).mortarFrames = s.mortarFrames := rfl
@[simp] theorem setSq_tiles (f : Fn) (q : Nat) (x : Sq) : (s.setSq f q x).tiles = s.tiles := rfl
@[simp] theorem setSq_ram (f : Fn) (q : Nat) (x : Sq) : (s.setSq f q x).ram = s.ram := rfl
@[simp] theorem setSq_prefixes (f : Fn) (q : Nat) (x : Sq) : (s.setSq f q x).prefixes = s.prefixes := rfl
@[simp] theorem setSq_grammars (f : Fn) (q : Nat) (x : Sq) : (s.setSq f q x).grammars = s.grammars := rfl
@[simp] theorem setSq_loadGens (f : Fn) (q : Nat) (x : Sq) : (s.setSq f q x).loadGens = s.loadGens := rfl
@[simp] theorem setSq_qry (f : Fn) (q : Nat) (x : Sq) : (s.setSq f q x).qry = s.qry := rfl
@[simp] theorem setSq_bonds (f : Fn) (q : Nat) (x : Sq) : (s.setSq f q x).bonds = s.bonds := rfl
@[simp] theorem setSq_nextSeq (f : Fn) (q : Nat) (x : Sq) : (s.setSq f q x).nextSeq = s.nextSeq := rfl
@[simp] theorem setSq_bondWaits (f : Fn) (q : Nat) (x : Sq) : (s.setSq f q x).bondWaits = s.bondWaits := rfl
@[simp] theorem setSq_mirror (f : Fn) (q : Nat) (x : Sq) : (s.setSq f q x).mirror = s.mirror := rfl
@[simp] theorem setSq_reports (f : Fn) (q : Nat) (x : Sq) : (s.setSq f q x).reports = s.reports := rfl
@[simp] theorem setSq_colls (f : Fn) (q : Nat) (x : Sq) : (s.setSq f q x).colls = s.colls := rfl
@[simp] theorem setSq_scans (f : Fn) (q : Nat) (x : Sq) : (s.setSq f q x).scans = s.scans := rfl
@[simp] theorem setSq_ckp (f : Fn) (q : Nat) (x : Sq) : (s.setSq f q x).ckp = s.ckp := rfl
@[simp] theorem setSq_ports (f : Fn) (q : Nat) (x : Sq) : (s.setSq f q x).ports = s.ports := rfl
@[simp] theorem setSq_peers (f : Fn) (q : Nat) (x : Sq) : (s.setSq f q x).peers = s.peers := rfl
@[simp] theorem setSq_comps (f : Fn) (q : Nat) (x : Sq) : (s.setSq f q x).comps = s.comps := rfl
@[simp] theorem setSq_forwards (f : Fn) (q : Nat) (x : Sq) : (s.setSq f q x).forwards = s.forwards := rfl
@[simp] theorem setSq_resets (f : Fn) (q : Nat) (x : Sq) : (s.setSq f q x).resets = s.resets := rfl
@[simp] theorem setSq_removals (f : Fn) (q : Nat) (x : Sq) : (s.setSq f q x).removals = s.removals := rfl
@[simp] theorem setSq_removeWait (f : Fn) (q : Nat) (x : Sq) : (s.setSq f q x).removeWait = s.removeWait := rfl
@[simp] theorem setSq_allocWait (f : Fn) (q : Nat) (x : Sq) : (s.setSq f q x).allocWait = s.allocWait := rfl
@[simp] theorem setSq_regPages (f : Fn) (q : Nat) (x : Sq) : (s.setSq f q x).regPages = s.regPages := rfl
@[simp] theorem setSq_lateEnds (f : Fn) (q : Nat) (x : Sq) : (s.setSq f q x).lateEnds = s.lateEnds := rfl
@[simp] theorem setSq_selfRefresh (f : Fn) (q : Nat) (x : Sq) : (s.setSq f q x).selfRefresh = s.selfRefresh := rfl
@[simp] theorem setSq_patrol (f : Fn) (q : Nat) (x : Sq) : (s.setSq f q x).patrol = s.patrol := rfl

-- setCq
@[simp] theorem setCq_pending (f : Fn) (q : Nat) (x : Cq) : (s.setCq f q x).pending = s.pending := rfl
@[simp] theorem setCq_out (f : Fn) (q : Nat) (x : Cq) : (s.setCq f q x).out = s.out := rfl
@[simp] theorem setCq_regs (f : Fn) (q : Nat) (x : Cq) : (s.setCq f q x).regs = s.regs := rfl
@[simp] theorem setCq_pmc (f : Fn) (q : Nat) (x : Cq) : (s.setCq f q x).pmc = s.pmc := rfl
@[simp] theorem setCq_aon (f : Fn) (q : Nat) (x : Cq) : (s.setCq f q x).aon = s.aon := rfl
@[simp] theorem setCq_freeCtr (f : Fn) (q : Nat) (x : Cq) : (s.setCq f q x).freeCtr = s.freeCtr := rfl
@[simp] theorem setCq_boot (f : Fn) (q : Nat) (x : Cq) : (s.setCq f q x).boot = s.boot := rfl
@[simp] theorem setCq_sec (f : Fn) (q : Nat) (x : Cq) : (s.setCq f q x).sec = s.sec := rfl
@[simp] theorem setCq_err (f : Fn) (q : Nat) (x : Cq) : (s.setCq f q x).err = s.err := rfl
@[simp] theorem setCq_pins (f : Fn) (q : Nat) (x : Cq) : (s.setCq f q x).pins = s.pins := rfl
@[simp] theorem setCq_flash (f : Fn) (q : Nat) (x : Cq) : (s.setCq f q x).flash = s.flash := rfl
@[simp] theorem setCq_sqs (f : Fn) (q : Nat) (x : Cq) : (s.setCq f q x).sqs = s.sqs := rfl
@[simp] theorem setCq_cqs (f : Fn) (q : Nat) (x : Cq) : (s.setCq f q x).cqs = s.cqs.set (f.index, q) x := rfl
@[simp] theorem setCq_bounce (f : Fn) (q : Nat) (x : Cq) : (s.setCq f q x).bounce = s.bounce := rfl
@[simp] theorem setCq_mboxBusy (f : Fn) (q : Nat) (x : Cq) : (s.setCq f q x).mboxBusy = s.mboxBusy := rfl
@[simp] theorem setCq_arrived (f : Fn) (q : Nat) (x : Cq) : (s.setCq f q x).arrived = s.arrived := rfl
@[simp] theorem setCq_waitS15 (f : Fn) (q : Nat) (x : Cq) : (s.setCq f q x).waitS15 = s.waitS15 := rfl
@[simp] theorem setCq_sessions (f : Fn) (q : Nat) (x : Cq) : (s.setCq f q x).sessions = s.sessions := rfl
@[simp] theorem setCq_freed (f : Fn) (q : Nat) (x : Cq) : (s.setCq f q x).freed = s.freed := rfl
@[simp] theorem setCq_reqs (f : Fn) (q : Nat) (x : Cq) : (s.setCq f q x).reqs = s.reqs := rfl
@[simp] theorem setCq_handoffs (f : Fn) (q : Nat) (x : Cq) : (s.setCq f q x).handoffs = s.handoffs := rfl
@[simp] theorem setCq_parks (f : Fn) (q : Nat) (x : Cq) : (s.setCq f q x).parks = s.parks := rfl
@[simp] theorem setCq_revives (f : Fn) (q : Nat) (x : Cq) : (s.setCq f q x).revives = s.revives := rfl
@[simp] theorem setCq_movesOut (f : Fn) (q : Nat) (x : Cq) : (s.setCq f q x).movesOut = s.movesOut := rfl
@[simp] theorem setCq_movesIn (f : Fn) (q : Nat) (x : Cq) : (s.setCq f q x).movesIn = s.movesIn := rfl
@[simp] theorem setCq_pulls (f : Fn) (q : Nat) (x : Cq) : (s.setCq f q x).pulls = s.pulls := rfl
@[simp] theorem setCq_slices (f : Fn) (q : Nat) (x : Cq) : (s.setCq f q x).slices = s.slices := rfl
@[simp] theorem setCq_expertWait (f : Fn) (q : Nat) (x : Cq) : (s.setCq f q x).expertWait = s.expertWait := rfl
@[simp] theorem setCq_capSeq (f : Fn) (q : Nat) (x : Cq) : (s.setCq f q x).capSeq = s.capSeq := rfl
@[simp] theorem setCq_batches (f : Fn) (q : Nat) (x : Cq) : (s.setCq f q x).batches = s.batches := rfl
@[simp] theorem setCq_nextBatch (f : Fn) (q : Nat) (x : Cq) : (s.setCq f q x).nextBatch = s.nextBatch := rfl
@[simp] theorem setCq_ctxs (f : Fn) (q : Nat) (x : Cq) : (s.setCq f q x).ctxs = s.ctxs := rfl
@[simp] theorem setCq_cores (f : Fn) (q : Nat) (x : Cq) : (s.setCq f q x).cores = s.cores := rfl
@[simp] theorem setCq_courses (f : Fn) (q : Nat) (x : Cq) : (s.setCq f q x).courses = s.courses := rfl
@[simp] theorem setCq_bars (f : Fn) (q : Nat) (x : Cq) : (s.setCq f q x).bars = s.bars := rfl
@[simp] theorem setCq_tileFrames (f : Fn) (q : Nat) (x : Cq) : (s.setCq f q x).tileFrames = s.tileFrames := rfl
@[simp] theorem setCq_mortarFrames (f : Fn) (q : Nat) (x : Cq) : (s.setCq f q x).mortarFrames = s.mortarFrames := rfl
@[simp] theorem setCq_tiles (f : Fn) (q : Nat) (x : Cq) : (s.setCq f q x).tiles = s.tiles := rfl
@[simp] theorem setCq_ram (f : Fn) (q : Nat) (x : Cq) : (s.setCq f q x).ram = s.ram := rfl
@[simp] theorem setCq_prefixes (f : Fn) (q : Nat) (x : Cq) : (s.setCq f q x).prefixes = s.prefixes := rfl
@[simp] theorem setCq_grammars (f : Fn) (q : Nat) (x : Cq) : (s.setCq f q x).grammars = s.grammars := rfl
@[simp] theorem setCq_loadGens (f : Fn) (q : Nat) (x : Cq) : (s.setCq f q x).loadGens = s.loadGens := rfl
@[simp] theorem setCq_qry (f : Fn) (q : Nat) (x : Cq) : (s.setCq f q x).qry = s.qry := rfl
@[simp] theorem setCq_bonds (f : Fn) (q : Nat) (x : Cq) : (s.setCq f q x).bonds = s.bonds := rfl
@[simp] theorem setCq_nextSeq (f : Fn) (q : Nat) (x : Cq) : (s.setCq f q x).nextSeq = s.nextSeq := rfl
@[simp] theorem setCq_bondWaits (f : Fn) (q : Nat) (x : Cq) : (s.setCq f q x).bondWaits = s.bondWaits := rfl
@[simp] theorem setCq_mirror (f : Fn) (q : Nat) (x : Cq) : (s.setCq f q x).mirror = s.mirror := rfl
@[simp] theorem setCq_reports (f : Fn) (q : Nat) (x : Cq) : (s.setCq f q x).reports = s.reports := rfl
@[simp] theorem setCq_colls (f : Fn) (q : Nat) (x : Cq) : (s.setCq f q x).colls = s.colls := rfl
@[simp] theorem setCq_scans (f : Fn) (q : Nat) (x : Cq) : (s.setCq f q x).scans = s.scans := rfl
@[simp] theorem setCq_ckp (f : Fn) (q : Nat) (x : Cq) : (s.setCq f q x).ckp = s.ckp := rfl
@[simp] theorem setCq_ports (f : Fn) (q : Nat) (x : Cq) : (s.setCq f q x).ports = s.ports := rfl
@[simp] theorem setCq_peers (f : Fn) (q : Nat) (x : Cq) : (s.setCq f q x).peers = s.peers := rfl
@[simp] theorem setCq_comps (f : Fn) (q : Nat) (x : Cq) : (s.setCq f q x).comps = s.comps := rfl
@[simp] theorem setCq_forwards (f : Fn) (q : Nat) (x : Cq) : (s.setCq f q x).forwards = s.forwards := rfl
@[simp] theorem setCq_resets (f : Fn) (q : Nat) (x : Cq) : (s.setCq f q x).resets = s.resets := rfl
@[simp] theorem setCq_removals (f : Fn) (q : Nat) (x : Cq) : (s.setCq f q x).removals = s.removals := rfl
@[simp] theorem setCq_removeWait (f : Fn) (q : Nat) (x : Cq) : (s.setCq f q x).removeWait = s.removeWait := rfl
@[simp] theorem setCq_allocWait (f : Fn) (q : Nat) (x : Cq) : (s.setCq f q x).allocWait = s.allocWait := rfl
@[simp] theorem setCq_regPages (f : Fn) (q : Nat) (x : Cq) : (s.setCq f q x).regPages = s.regPages := rfl
@[simp] theorem setCq_lateEnds (f : Fn) (q : Nat) (x : Cq) : (s.setCq f q x).lateEnds = s.lateEnds := rfl
@[simp] theorem setCq_selfRefresh (f : Fn) (q : Nat) (x : Cq) : (s.setCq f q x).selfRefresh = s.selfRefresh := rfl
@[simp] theorem setCq_patrol (f : Fn) (q : Nat) (x : Cq) : (s.setCq f q x).patrol = s.patrol := rfl

-- setSes
@[simp] theorem setSes_pending (n : Nat) (x : Session) : (s.setSes n x).pending = s.pending := rfl
@[simp] theorem setSes_out (n : Nat) (x : Session) : (s.setSes n x).out = s.out := rfl
@[simp] theorem setSes_regs (n : Nat) (x : Session) : (s.setSes n x).regs = s.regs := rfl
@[simp] theorem setSes_pmc (n : Nat) (x : Session) : (s.setSes n x).pmc = s.pmc := rfl
@[simp] theorem setSes_aon (n : Nat) (x : Session) : (s.setSes n x).aon = s.aon := rfl
@[simp] theorem setSes_freeCtr (n : Nat) (x : Session) : (s.setSes n x).freeCtr = s.freeCtr := rfl
@[simp] theorem setSes_boot (n : Nat) (x : Session) : (s.setSes n x).boot = s.boot := rfl
@[simp] theorem setSes_sec (n : Nat) (x : Session) : (s.setSes n x).sec = s.sec := rfl
@[simp] theorem setSes_err (n : Nat) (x : Session) : (s.setSes n x).err = s.err := rfl
@[simp] theorem setSes_pins (n : Nat) (x : Session) : (s.setSes n x).pins = s.pins := rfl
@[simp] theorem setSes_flash (n : Nat) (x : Session) : (s.setSes n x).flash = s.flash := rfl
@[simp] theorem setSes_sqs (n : Nat) (x : Session) : (s.setSes n x).sqs = s.sqs := rfl
@[simp] theorem setSes_cqs (n : Nat) (x : Session) : (s.setSes n x).cqs = s.cqs := rfl
@[simp] theorem setSes_bounce (n : Nat) (x : Session) : (s.setSes n x).bounce = s.bounce := rfl
@[simp] theorem setSes_mboxBusy (n : Nat) (x : Session) : (s.setSes n x).mboxBusy = s.mboxBusy := rfl
@[simp] theorem setSes_arrived (n : Nat) (x : Session) : (s.setSes n x).arrived = s.arrived := rfl
@[simp] theorem setSes_waitS15 (n : Nat) (x : Session) : (s.setSes n x).waitS15 = s.waitS15 := rfl
@[simp] theorem setSes_sessions (n : Nat) (x : Session) : (s.setSes n x).sessions = s.sessions.set n x := rfl
@[simp] theorem setSes_freed (n : Nat) (x : Session) : (s.setSes n x).freed = s.freed := rfl
@[simp] theorem setSes_reqs (n : Nat) (x : Session) : (s.setSes n x).reqs = s.reqs := rfl
@[simp] theorem setSes_handoffs (n : Nat) (x : Session) : (s.setSes n x).handoffs = s.handoffs := rfl
@[simp] theorem setSes_parks (n : Nat) (x : Session) : (s.setSes n x).parks = s.parks := rfl
@[simp] theorem setSes_revives (n : Nat) (x : Session) : (s.setSes n x).revives = s.revives := rfl
@[simp] theorem setSes_movesOut (n : Nat) (x : Session) : (s.setSes n x).movesOut = s.movesOut := rfl
@[simp] theorem setSes_movesIn (n : Nat) (x : Session) : (s.setSes n x).movesIn = s.movesIn := rfl
@[simp] theorem setSes_pulls (n : Nat) (x : Session) : (s.setSes n x).pulls = s.pulls := rfl
@[simp] theorem setSes_slices (n : Nat) (x : Session) : (s.setSes n x).slices = s.slices := rfl
@[simp] theorem setSes_expertWait (n : Nat) (x : Session) : (s.setSes n x).expertWait = s.expertWait := rfl
@[simp] theorem setSes_capSeq (n : Nat) (x : Session) : (s.setSes n x).capSeq = s.capSeq := rfl
@[simp] theorem setSes_batches (n : Nat) (x : Session) : (s.setSes n x).batches = s.batches := rfl
@[simp] theorem setSes_nextBatch (n : Nat) (x : Session) : (s.setSes n x).nextBatch = s.nextBatch := rfl
@[simp] theorem setSes_ctxs (n : Nat) (x : Session) : (s.setSes n x).ctxs = s.ctxs := rfl
@[simp] theorem setSes_cores (n : Nat) (x : Session) : (s.setSes n x).cores = s.cores := rfl
@[simp] theorem setSes_courses (n : Nat) (x : Session) : (s.setSes n x).courses = s.courses := rfl
@[simp] theorem setSes_bars (n : Nat) (x : Session) : (s.setSes n x).bars = s.bars := rfl
@[simp] theorem setSes_tileFrames (n : Nat) (x : Session) : (s.setSes n x).tileFrames = s.tileFrames := rfl
@[simp] theorem setSes_mortarFrames (n : Nat) (x : Session) : (s.setSes n x).mortarFrames = s.mortarFrames := rfl
@[simp] theorem setSes_tiles (n : Nat) (x : Session) : (s.setSes n x).tiles = s.tiles := rfl
@[simp] theorem setSes_ram (n : Nat) (x : Session) : (s.setSes n x).ram = s.ram := rfl
@[simp] theorem setSes_prefixes (n : Nat) (x : Session) : (s.setSes n x).prefixes = s.prefixes := rfl
@[simp] theorem setSes_grammars (n : Nat) (x : Session) : (s.setSes n x).grammars = s.grammars := rfl
@[simp] theorem setSes_loadGens (n : Nat) (x : Session) : (s.setSes n x).loadGens = s.loadGens := rfl
@[simp] theorem setSes_qry (n : Nat) (x : Session) : (s.setSes n x).qry = s.qry := rfl
@[simp] theorem setSes_bonds (n : Nat) (x : Session) : (s.setSes n x).bonds = s.bonds := rfl
@[simp] theorem setSes_nextSeq (n : Nat) (x : Session) : (s.setSes n x).nextSeq = s.nextSeq := rfl
@[simp] theorem setSes_bondWaits (n : Nat) (x : Session) : (s.setSes n x).bondWaits = s.bondWaits := rfl
@[simp] theorem setSes_mirror (n : Nat) (x : Session) : (s.setSes n x).mirror = s.mirror := rfl
@[simp] theorem setSes_reports (n : Nat) (x : Session) : (s.setSes n x).reports = s.reports := rfl
@[simp] theorem setSes_colls (n : Nat) (x : Session) : (s.setSes n x).colls = s.colls := rfl
@[simp] theorem setSes_scans (n : Nat) (x : Session) : (s.setSes n x).scans = s.scans := rfl
@[simp] theorem setSes_ckp (n : Nat) (x : Session) : (s.setSes n x).ckp = s.ckp := rfl
@[simp] theorem setSes_ports (n : Nat) (x : Session) : (s.setSes n x).ports = s.ports := rfl
@[simp] theorem setSes_peers (n : Nat) (x : Session) : (s.setSes n x).peers = s.peers := rfl
@[simp] theorem setSes_comps (n : Nat) (x : Session) : (s.setSes n x).comps = s.comps := rfl
@[simp] theorem setSes_forwards (n : Nat) (x : Session) : (s.setSes n x).forwards = s.forwards := rfl
@[simp] theorem setSes_resets (n : Nat) (x : Session) : (s.setSes n x).resets = s.resets := rfl
@[simp] theorem setSes_removals (n : Nat) (x : Session) : (s.setSes n x).removals = s.removals := rfl
@[simp] theorem setSes_removeWait (n : Nat) (x : Session) : (s.setSes n x).removeWait = s.removeWait := rfl
@[simp] theorem setSes_allocWait (n : Nat) (x : Session) : (s.setSes n x).allocWait = s.allocWait := rfl
@[simp] theorem setSes_regPages (n : Nat) (x : Session) : (s.setSes n x).regPages = s.regPages := rfl
@[simp] theorem setSes_lateEnds (n : Nat) (x : Session) : (s.setSes n x).lateEnds = s.lateEnds := rfl
@[simp] theorem setSes_selfRefresh (n : Nat) (x : Session) : (s.setSes n x).selfRefresh = s.selfRefresh := rfl
@[simp] theorem setSes_patrol (n : Nat) (x : Session) : (s.setSes n x).patrol = s.patrol := rfl

-- modSes
@[simp] theorem modSes_pending (n : Nat) (f : Session → Session) : (s.modSes n f).pending = s.pending := rfl
@[simp] theorem modSes_out (n : Nat) (f : Session → Session) : (s.modSes n f).out = s.out := rfl
@[simp] theorem modSes_regs (n : Nat) (f : Session → Session) : (s.modSes n f).regs = s.regs := rfl
@[simp] theorem modSes_pmc (n : Nat) (f : Session → Session) : (s.modSes n f).pmc = s.pmc := rfl
@[simp] theorem modSes_aon (n : Nat) (f : Session → Session) : (s.modSes n f).aon = s.aon := rfl
@[simp] theorem modSes_freeCtr (n : Nat) (f : Session → Session) : (s.modSes n f).freeCtr = s.freeCtr := rfl
@[simp] theorem modSes_boot (n : Nat) (f : Session → Session) : (s.modSes n f).boot = s.boot := rfl
@[simp] theorem modSes_sec (n : Nat) (f : Session → Session) : (s.modSes n f).sec = s.sec := rfl
@[simp] theorem modSes_err (n : Nat) (f : Session → Session) : (s.modSes n f).err = s.err := rfl
@[simp] theorem modSes_pins (n : Nat) (f : Session → Session) : (s.modSes n f).pins = s.pins := rfl
@[simp] theorem modSes_flash (n : Nat) (f : Session → Session) : (s.modSes n f).flash = s.flash := rfl
@[simp] theorem modSes_sqs (n : Nat) (f : Session → Session) : (s.modSes n f).sqs = s.sqs := rfl
@[simp] theorem modSes_cqs (n : Nat) (f : Session → Session) : (s.modSes n f).cqs = s.cqs := rfl
@[simp] theorem modSes_bounce (n : Nat) (f : Session → Session) : (s.modSes n f).bounce = s.bounce := rfl
@[simp] theorem modSes_mboxBusy (n : Nat) (f : Session → Session) : (s.modSes n f).mboxBusy = s.mboxBusy := rfl
@[simp] theorem modSes_arrived (n : Nat) (f : Session → Session) : (s.modSes n f).arrived = s.arrived := rfl
@[simp] theorem modSes_waitS15 (n : Nat) (f : Session → Session) : (s.modSes n f).waitS15 = s.waitS15 := rfl
@[simp] theorem modSes_sessions (n : Nat) (f : Session → Session) : (s.modSes n f).sessions = s.sessions.set n (f (s.ses n)) := rfl
@[simp] theorem modSes_freed (n : Nat) (f : Session → Session) : (s.modSes n f).freed = s.freed := rfl
@[simp] theorem modSes_reqs (n : Nat) (f : Session → Session) : (s.modSes n f).reqs = s.reqs := rfl
@[simp] theorem modSes_handoffs (n : Nat) (f : Session → Session) : (s.modSes n f).handoffs = s.handoffs := rfl
@[simp] theorem modSes_parks (n : Nat) (f : Session → Session) : (s.modSes n f).parks = s.parks := rfl
@[simp] theorem modSes_revives (n : Nat) (f : Session → Session) : (s.modSes n f).revives = s.revives := rfl
@[simp] theorem modSes_movesOut (n : Nat) (f : Session → Session) : (s.modSes n f).movesOut = s.movesOut := rfl
@[simp] theorem modSes_movesIn (n : Nat) (f : Session → Session) : (s.modSes n f).movesIn = s.movesIn := rfl
@[simp] theorem modSes_pulls (n : Nat) (f : Session → Session) : (s.modSes n f).pulls = s.pulls := rfl
@[simp] theorem modSes_slices (n : Nat) (f : Session → Session) : (s.modSes n f).slices = s.slices := rfl
@[simp] theorem modSes_expertWait (n : Nat) (f : Session → Session) : (s.modSes n f).expertWait = s.expertWait := rfl
@[simp] theorem modSes_capSeq (n : Nat) (f : Session → Session) : (s.modSes n f).capSeq = s.capSeq := rfl
@[simp] theorem modSes_batches (n : Nat) (f : Session → Session) : (s.modSes n f).batches = s.batches := rfl
@[simp] theorem modSes_nextBatch (n : Nat) (f : Session → Session) : (s.modSes n f).nextBatch = s.nextBatch := rfl
@[simp] theorem modSes_ctxs (n : Nat) (f : Session → Session) : (s.modSes n f).ctxs = s.ctxs := rfl
@[simp] theorem modSes_cores (n : Nat) (f : Session → Session) : (s.modSes n f).cores = s.cores := rfl
@[simp] theorem modSes_courses (n : Nat) (f : Session → Session) : (s.modSes n f).courses = s.courses := rfl
@[simp] theorem modSes_bars (n : Nat) (f : Session → Session) : (s.modSes n f).bars = s.bars := rfl
@[simp] theorem modSes_tileFrames (n : Nat) (f : Session → Session) : (s.modSes n f).tileFrames = s.tileFrames := rfl
@[simp] theorem modSes_mortarFrames (n : Nat) (f : Session → Session) : (s.modSes n f).mortarFrames = s.mortarFrames := rfl
@[simp] theorem modSes_tiles (n : Nat) (f : Session → Session) : (s.modSes n f).tiles = s.tiles := rfl
@[simp] theorem modSes_ram (n : Nat) (f : Session → Session) : (s.modSes n f).ram = s.ram := rfl
@[simp] theorem modSes_prefixes (n : Nat) (f : Session → Session) : (s.modSes n f).prefixes = s.prefixes := rfl
@[simp] theorem modSes_grammars (n : Nat) (f : Session → Session) : (s.modSes n f).grammars = s.grammars := rfl
@[simp] theorem modSes_loadGens (n : Nat) (f : Session → Session) : (s.modSes n f).loadGens = s.loadGens := rfl
@[simp] theorem modSes_qry (n : Nat) (f : Session → Session) : (s.modSes n f).qry = s.qry := rfl
@[simp] theorem modSes_bonds (n : Nat) (f : Session → Session) : (s.modSes n f).bonds = s.bonds := rfl
@[simp] theorem modSes_nextSeq (n : Nat) (f : Session → Session) : (s.modSes n f).nextSeq = s.nextSeq := rfl
@[simp] theorem modSes_bondWaits (n : Nat) (f : Session → Session) : (s.modSes n f).bondWaits = s.bondWaits := rfl
@[simp] theorem modSes_mirror (n : Nat) (f : Session → Session) : (s.modSes n f).mirror = s.mirror := rfl
@[simp] theorem modSes_reports (n : Nat) (f : Session → Session) : (s.modSes n f).reports = s.reports := rfl
@[simp] theorem modSes_colls (n : Nat) (f : Session → Session) : (s.modSes n f).colls = s.colls := rfl
@[simp] theorem modSes_scans (n : Nat) (f : Session → Session) : (s.modSes n f).scans = s.scans := rfl
@[simp] theorem modSes_ckp (n : Nat) (f : Session → Session) : (s.modSes n f).ckp = s.ckp := rfl
@[simp] theorem modSes_ports (n : Nat) (f : Session → Session) : (s.modSes n f).ports = s.ports := rfl
@[simp] theorem modSes_peers (n : Nat) (f : Session → Session) : (s.modSes n f).peers = s.peers := rfl
@[simp] theorem modSes_comps (n : Nat) (f : Session → Session) : (s.modSes n f).comps = s.comps := rfl
@[simp] theorem modSes_forwards (n : Nat) (f : Session → Session) : (s.modSes n f).forwards = s.forwards := rfl
@[simp] theorem modSes_resets (n : Nat) (f : Session → Session) : (s.modSes n f).resets = s.resets := rfl
@[simp] theorem modSes_removals (n : Nat) (f : Session → Session) : (s.modSes n f).removals = s.removals := rfl
@[simp] theorem modSes_removeWait (n : Nat) (f : Session → Session) : (s.modSes n f).removeWait = s.removeWait := rfl
@[simp] theorem modSes_allocWait (n : Nat) (f : Session → Session) : (s.modSes n f).allocWait = s.allocWait := rfl
@[simp] theorem modSes_regPages (n : Nat) (f : Session → Session) : (s.modSes n f).regPages = s.regPages := rfl
@[simp] theorem modSes_lateEnds (n : Nat) (f : Session → Session) : (s.modSes n f).lateEnds = s.lateEnds := rfl
@[simp] theorem modSes_selfRefresh (n : Nat) (f : Session → Session) : (s.modSes n f).selfRefresh = s.selfRefresh := rfl
@[simp] theorem modSes_patrol (n : Nat) (f : Session → Session) : (s.modSes n f).patrol = s.patrol := rfl

-- setReq
@[simp] theorem setReq_pending (n : Nat) (x : Req) : (s.setReq n x).pending = s.pending := rfl
@[simp] theorem setReq_out (n : Nat) (x : Req) : (s.setReq n x).out = s.out := rfl
@[simp] theorem setReq_regs (n : Nat) (x : Req) : (s.setReq n x).regs = s.regs := rfl
@[simp] theorem setReq_pmc (n : Nat) (x : Req) : (s.setReq n x).pmc = s.pmc := rfl
@[simp] theorem setReq_aon (n : Nat) (x : Req) : (s.setReq n x).aon = s.aon := rfl
@[simp] theorem setReq_freeCtr (n : Nat) (x : Req) : (s.setReq n x).freeCtr = s.freeCtr := rfl
@[simp] theorem setReq_boot (n : Nat) (x : Req) : (s.setReq n x).boot = s.boot := rfl
@[simp] theorem setReq_sec (n : Nat) (x : Req) : (s.setReq n x).sec = s.sec := rfl
@[simp] theorem setReq_err (n : Nat) (x : Req) : (s.setReq n x).err = s.err := rfl
@[simp] theorem setReq_pins (n : Nat) (x : Req) : (s.setReq n x).pins = s.pins := rfl
@[simp] theorem setReq_flash (n : Nat) (x : Req) : (s.setReq n x).flash = s.flash := rfl
@[simp] theorem setReq_sqs (n : Nat) (x : Req) : (s.setReq n x).sqs = s.sqs := rfl
@[simp] theorem setReq_cqs (n : Nat) (x : Req) : (s.setReq n x).cqs = s.cqs := rfl
@[simp] theorem setReq_bounce (n : Nat) (x : Req) : (s.setReq n x).bounce = s.bounce := rfl
@[simp] theorem setReq_mboxBusy (n : Nat) (x : Req) : (s.setReq n x).mboxBusy = s.mboxBusy := rfl
@[simp] theorem setReq_arrived (n : Nat) (x : Req) : (s.setReq n x).arrived = s.arrived := rfl
@[simp] theorem setReq_waitS15 (n : Nat) (x : Req) : (s.setReq n x).waitS15 = s.waitS15 := rfl
@[simp] theorem setReq_sessions (n : Nat) (x : Req) : (s.setReq n x).sessions = s.sessions := rfl
@[simp] theorem setReq_freed (n : Nat) (x : Req) : (s.setReq n x).freed = s.freed := rfl
@[simp] theorem setReq_reqs (n : Nat) (x : Req) : (s.setReq n x).reqs = s.reqs.set n x := rfl
@[simp] theorem setReq_handoffs (n : Nat) (x : Req) : (s.setReq n x).handoffs = s.handoffs := rfl
@[simp] theorem setReq_parks (n : Nat) (x : Req) : (s.setReq n x).parks = s.parks := rfl
@[simp] theorem setReq_revives (n : Nat) (x : Req) : (s.setReq n x).revives = s.revives := rfl
@[simp] theorem setReq_movesOut (n : Nat) (x : Req) : (s.setReq n x).movesOut = s.movesOut := rfl
@[simp] theorem setReq_movesIn (n : Nat) (x : Req) : (s.setReq n x).movesIn = s.movesIn := rfl
@[simp] theorem setReq_pulls (n : Nat) (x : Req) : (s.setReq n x).pulls = s.pulls := rfl
@[simp] theorem setReq_slices (n : Nat) (x : Req) : (s.setReq n x).slices = s.slices := rfl
@[simp] theorem setReq_expertWait (n : Nat) (x : Req) : (s.setReq n x).expertWait = s.expertWait := rfl
@[simp] theorem setReq_capSeq (n : Nat) (x : Req) : (s.setReq n x).capSeq = s.capSeq := rfl
@[simp] theorem setReq_batches (n : Nat) (x : Req) : (s.setReq n x).batches = s.batches := rfl
@[simp] theorem setReq_nextBatch (n : Nat) (x : Req) : (s.setReq n x).nextBatch = s.nextBatch := rfl
@[simp] theorem setReq_ctxs (n : Nat) (x : Req) : (s.setReq n x).ctxs = s.ctxs := rfl
@[simp] theorem setReq_cores (n : Nat) (x : Req) : (s.setReq n x).cores = s.cores := rfl
@[simp] theorem setReq_courses (n : Nat) (x : Req) : (s.setReq n x).courses = s.courses := rfl
@[simp] theorem setReq_bars (n : Nat) (x : Req) : (s.setReq n x).bars = s.bars := rfl
@[simp] theorem setReq_tileFrames (n : Nat) (x : Req) : (s.setReq n x).tileFrames = s.tileFrames := rfl
@[simp] theorem setReq_mortarFrames (n : Nat) (x : Req) : (s.setReq n x).mortarFrames = s.mortarFrames := rfl
@[simp] theorem setReq_tiles (n : Nat) (x : Req) : (s.setReq n x).tiles = s.tiles := rfl
@[simp] theorem setReq_ram (n : Nat) (x : Req) : (s.setReq n x).ram = s.ram := rfl
@[simp] theorem setReq_prefixes (n : Nat) (x : Req) : (s.setReq n x).prefixes = s.prefixes := rfl
@[simp] theorem setReq_grammars (n : Nat) (x : Req) : (s.setReq n x).grammars = s.grammars := rfl
@[simp] theorem setReq_loadGens (n : Nat) (x : Req) : (s.setReq n x).loadGens = s.loadGens := rfl
@[simp] theorem setReq_qry (n : Nat) (x : Req) : (s.setReq n x).qry = s.qry := rfl
@[simp] theorem setReq_bonds (n : Nat) (x : Req) : (s.setReq n x).bonds = s.bonds := rfl
@[simp] theorem setReq_nextSeq (n : Nat) (x : Req) : (s.setReq n x).nextSeq = s.nextSeq := rfl
@[simp] theorem setReq_bondWaits (n : Nat) (x : Req) : (s.setReq n x).bondWaits = s.bondWaits := rfl
@[simp] theorem setReq_mirror (n : Nat) (x : Req) : (s.setReq n x).mirror = s.mirror := rfl
@[simp] theorem setReq_reports (n : Nat) (x : Req) : (s.setReq n x).reports = s.reports := rfl
@[simp] theorem setReq_colls (n : Nat) (x : Req) : (s.setReq n x).colls = s.colls := rfl
@[simp] theorem setReq_scans (n : Nat) (x : Req) : (s.setReq n x).scans = s.scans := rfl
@[simp] theorem setReq_ckp (n : Nat) (x : Req) : (s.setReq n x).ckp = s.ckp := rfl
@[simp] theorem setReq_ports (n : Nat) (x : Req) : (s.setReq n x).ports = s.ports := rfl
@[simp] theorem setReq_peers (n : Nat) (x : Req) : (s.setReq n x).peers = s.peers := rfl
@[simp] theorem setReq_comps (n : Nat) (x : Req) : (s.setReq n x).comps = s.comps := rfl
@[simp] theorem setReq_forwards (n : Nat) (x : Req) : (s.setReq n x).forwards = s.forwards := rfl
@[simp] theorem setReq_resets (n : Nat) (x : Req) : (s.setReq n x).resets = s.resets := rfl
@[simp] theorem setReq_removals (n : Nat) (x : Req) : (s.setReq n x).removals = s.removals := rfl
@[simp] theorem setReq_removeWait (n : Nat) (x : Req) : (s.setReq n x).removeWait = s.removeWait := rfl
@[simp] theorem setReq_allocWait (n : Nat) (x : Req) : (s.setReq n x).allocWait = s.allocWait := rfl
@[simp] theorem setReq_regPages (n : Nat) (x : Req) : (s.setReq n x).regPages = s.regPages := rfl
@[simp] theorem setReq_lateEnds (n : Nat) (x : Req) : (s.setReq n x).lateEnds = s.lateEnds := rfl
@[simp] theorem setReq_selfRefresh (n : Nat) (x : Req) : (s.setReq n x).selfRefresh = s.selfRefresh := rfl
@[simp] theorem setReq_patrol (n : Nat) (x : Req) : (s.setReq n x).patrol = s.patrol := rfl

-- modReq
@[simp] theorem modReq_pending (n : Nat) (f : Req → Req) : (s.modReq n f).pending = s.pending := rfl
@[simp] theorem modReq_out (n : Nat) (f : Req → Req) : (s.modReq n f).out = s.out := rfl
@[simp] theorem modReq_regs (n : Nat) (f : Req → Req) : (s.modReq n f).regs = s.regs := rfl
@[simp] theorem modReq_pmc (n : Nat) (f : Req → Req) : (s.modReq n f).pmc = s.pmc := rfl
@[simp] theorem modReq_aon (n : Nat) (f : Req → Req) : (s.modReq n f).aon = s.aon := rfl
@[simp] theorem modReq_freeCtr (n : Nat) (f : Req → Req) : (s.modReq n f).freeCtr = s.freeCtr := rfl
@[simp] theorem modReq_boot (n : Nat) (f : Req → Req) : (s.modReq n f).boot = s.boot := rfl
@[simp] theorem modReq_sec (n : Nat) (f : Req → Req) : (s.modReq n f).sec = s.sec := rfl
@[simp] theorem modReq_err (n : Nat) (f : Req → Req) : (s.modReq n f).err = s.err := rfl
@[simp] theorem modReq_pins (n : Nat) (f : Req → Req) : (s.modReq n f).pins = s.pins := rfl
@[simp] theorem modReq_flash (n : Nat) (f : Req → Req) : (s.modReq n f).flash = s.flash := rfl
@[simp] theorem modReq_sqs (n : Nat) (f : Req → Req) : (s.modReq n f).sqs = s.sqs := rfl
@[simp] theorem modReq_cqs (n : Nat) (f : Req → Req) : (s.modReq n f).cqs = s.cqs := rfl
@[simp] theorem modReq_bounce (n : Nat) (f : Req → Req) : (s.modReq n f).bounce = s.bounce := rfl
@[simp] theorem modReq_mboxBusy (n : Nat) (f : Req → Req) : (s.modReq n f).mboxBusy = s.mboxBusy := rfl
@[simp] theorem modReq_arrived (n : Nat) (f : Req → Req) : (s.modReq n f).arrived = s.arrived := rfl
@[simp] theorem modReq_waitS15 (n : Nat) (f : Req → Req) : (s.modReq n f).waitS15 = s.waitS15 := rfl
@[simp] theorem modReq_sessions (n : Nat) (f : Req → Req) : (s.modReq n f).sessions = s.sessions := rfl
@[simp] theorem modReq_freed (n : Nat) (f : Req → Req) : (s.modReq n f).freed = s.freed := rfl
@[simp] theorem modReq_reqs (n : Nat) (f : Req → Req) : (s.modReq n f).reqs = s.reqs.modify n f := rfl
@[simp] theorem modReq_handoffs (n : Nat) (f : Req → Req) : (s.modReq n f).handoffs = s.handoffs := rfl
@[simp] theorem modReq_parks (n : Nat) (f : Req → Req) : (s.modReq n f).parks = s.parks := rfl
@[simp] theorem modReq_revives (n : Nat) (f : Req → Req) : (s.modReq n f).revives = s.revives := rfl
@[simp] theorem modReq_movesOut (n : Nat) (f : Req → Req) : (s.modReq n f).movesOut = s.movesOut := rfl
@[simp] theorem modReq_movesIn (n : Nat) (f : Req → Req) : (s.modReq n f).movesIn = s.movesIn := rfl
@[simp] theorem modReq_pulls (n : Nat) (f : Req → Req) : (s.modReq n f).pulls = s.pulls := rfl
@[simp] theorem modReq_slices (n : Nat) (f : Req → Req) : (s.modReq n f).slices = s.slices := rfl
@[simp] theorem modReq_expertWait (n : Nat) (f : Req → Req) : (s.modReq n f).expertWait = s.expertWait := rfl
@[simp] theorem modReq_capSeq (n : Nat) (f : Req → Req) : (s.modReq n f).capSeq = s.capSeq := rfl
@[simp] theorem modReq_batches (n : Nat) (f : Req → Req) : (s.modReq n f).batches = s.batches := rfl
@[simp] theorem modReq_nextBatch (n : Nat) (f : Req → Req) : (s.modReq n f).nextBatch = s.nextBatch := rfl
@[simp] theorem modReq_ctxs (n : Nat) (f : Req → Req) : (s.modReq n f).ctxs = s.ctxs := rfl
@[simp] theorem modReq_cores (n : Nat) (f : Req → Req) : (s.modReq n f).cores = s.cores := rfl
@[simp] theorem modReq_courses (n : Nat) (f : Req → Req) : (s.modReq n f).courses = s.courses := rfl
@[simp] theorem modReq_bars (n : Nat) (f : Req → Req) : (s.modReq n f).bars = s.bars := rfl
@[simp] theorem modReq_tileFrames (n : Nat) (f : Req → Req) : (s.modReq n f).tileFrames = s.tileFrames := rfl
@[simp] theorem modReq_mortarFrames (n : Nat) (f : Req → Req) : (s.modReq n f).mortarFrames = s.mortarFrames := rfl
@[simp] theorem modReq_tiles (n : Nat) (f : Req → Req) : (s.modReq n f).tiles = s.tiles := rfl
@[simp] theorem modReq_ram (n : Nat) (f : Req → Req) : (s.modReq n f).ram = s.ram := rfl
@[simp] theorem modReq_prefixes (n : Nat) (f : Req → Req) : (s.modReq n f).prefixes = s.prefixes := rfl
@[simp] theorem modReq_grammars (n : Nat) (f : Req → Req) : (s.modReq n f).grammars = s.grammars := rfl
@[simp] theorem modReq_loadGens (n : Nat) (f : Req → Req) : (s.modReq n f).loadGens = s.loadGens := rfl
@[simp] theorem modReq_qry (n : Nat) (f : Req → Req) : (s.modReq n f).qry = s.qry := rfl
@[simp] theorem modReq_bonds (n : Nat) (f : Req → Req) : (s.modReq n f).bonds = s.bonds := rfl
@[simp] theorem modReq_nextSeq (n : Nat) (f : Req → Req) : (s.modReq n f).nextSeq = s.nextSeq := rfl
@[simp] theorem modReq_bondWaits (n : Nat) (f : Req → Req) : (s.modReq n f).bondWaits = s.bondWaits := rfl
@[simp] theorem modReq_mirror (n : Nat) (f : Req → Req) : (s.modReq n f).mirror = s.mirror := rfl
@[simp] theorem modReq_reports (n : Nat) (f : Req → Req) : (s.modReq n f).reports = s.reports := rfl
@[simp] theorem modReq_colls (n : Nat) (f : Req → Req) : (s.modReq n f).colls = s.colls := rfl
@[simp] theorem modReq_scans (n : Nat) (f : Req → Req) : (s.modReq n f).scans = s.scans := rfl
@[simp] theorem modReq_ckp (n : Nat) (f : Req → Req) : (s.modReq n f).ckp = s.ckp := rfl
@[simp] theorem modReq_ports (n : Nat) (f : Req → Req) : (s.modReq n f).ports = s.ports := rfl
@[simp] theorem modReq_peers (n : Nat) (f : Req → Req) : (s.modReq n f).peers = s.peers := rfl
@[simp] theorem modReq_comps (n : Nat) (f : Req → Req) : (s.modReq n f).comps = s.comps := rfl
@[simp] theorem modReq_forwards (n : Nat) (f : Req → Req) : (s.modReq n f).forwards = s.forwards := rfl
@[simp] theorem modReq_resets (n : Nat) (f : Req → Req) : (s.modReq n f).resets = s.resets := rfl
@[simp] theorem modReq_removals (n : Nat) (f : Req → Req) : (s.modReq n f).removals = s.removals := rfl
@[simp] theorem modReq_removeWait (n : Nat) (f : Req → Req) : (s.modReq n f).removeWait = s.removeWait := rfl
@[simp] theorem modReq_allocWait (n : Nat) (f : Req → Req) : (s.modReq n f).allocWait = s.allocWait := rfl
@[simp] theorem modReq_regPages (n : Nat) (f : Req → Req) : (s.modReq n f).regPages = s.regPages := rfl
@[simp] theorem modReq_lateEnds (n : Nat) (f : Req → Req) : (s.modReq n f).lateEnds = s.lateEnds := rfl
@[simp] theorem modReq_selfRefresh (n : Nat) (f : Req → Req) : (s.modReq n f).selfRefresh = s.selfRefresh := rfl
@[simp] theorem modReq_patrol (n : Nat) (f : Req → Req) : (s.modReq n f).patrol = s.patrol := rfl

-- modPort
@[simp] theorem modPort_pending (n : Nat) (f : Port → Port) : (s.modPort n f).pending = s.pending := rfl
@[simp] theorem modPort_out (n : Nat) (f : Port → Port) : (s.modPort n f).out = s.out := rfl
@[simp] theorem modPort_regs (n : Nat) (f : Port → Port) : (s.modPort n f).regs = s.regs := rfl
@[simp] theorem modPort_pmc (n : Nat) (f : Port → Port) : (s.modPort n f).pmc = s.pmc := rfl
@[simp] theorem modPort_aon (n : Nat) (f : Port → Port) : (s.modPort n f).aon = s.aon := rfl
@[simp] theorem modPort_freeCtr (n : Nat) (f : Port → Port) : (s.modPort n f).freeCtr = s.freeCtr := rfl
@[simp] theorem modPort_boot (n : Nat) (f : Port → Port) : (s.modPort n f).boot = s.boot := rfl
@[simp] theorem modPort_sec (n : Nat) (f : Port → Port) : (s.modPort n f).sec = s.sec := rfl
@[simp] theorem modPort_err (n : Nat) (f : Port → Port) : (s.modPort n f).err = s.err := rfl
@[simp] theorem modPort_pins (n : Nat) (f : Port → Port) : (s.modPort n f).pins = s.pins := rfl
@[simp] theorem modPort_flash (n : Nat) (f : Port → Port) : (s.modPort n f).flash = s.flash := rfl
@[simp] theorem modPort_sqs (n : Nat) (f : Port → Port) : (s.modPort n f).sqs = s.sqs := rfl
@[simp] theorem modPort_cqs (n : Nat) (f : Port → Port) : (s.modPort n f).cqs = s.cqs := rfl
@[simp] theorem modPort_bounce (n : Nat) (f : Port → Port) : (s.modPort n f).bounce = s.bounce := rfl
@[simp] theorem modPort_mboxBusy (n : Nat) (f : Port → Port) : (s.modPort n f).mboxBusy = s.mboxBusy := rfl
@[simp] theorem modPort_arrived (n : Nat) (f : Port → Port) : (s.modPort n f).arrived = s.arrived := rfl
@[simp] theorem modPort_waitS15 (n : Nat) (f : Port → Port) : (s.modPort n f).waitS15 = s.waitS15 := rfl
@[simp] theorem modPort_sessions (n : Nat) (f : Port → Port) : (s.modPort n f).sessions = s.sessions := rfl
@[simp] theorem modPort_freed (n : Nat) (f : Port → Port) : (s.modPort n f).freed = s.freed := rfl
@[simp] theorem modPort_reqs (n : Nat) (f : Port → Port) : (s.modPort n f).reqs = s.reqs := rfl
@[simp] theorem modPort_handoffs (n : Nat) (f : Port → Port) : (s.modPort n f).handoffs = s.handoffs := rfl
@[simp] theorem modPort_parks (n : Nat) (f : Port → Port) : (s.modPort n f).parks = s.parks := rfl
@[simp] theorem modPort_revives (n : Nat) (f : Port → Port) : (s.modPort n f).revives = s.revives := rfl
@[simp] theorem modPort_movesOut (n : Nat) (f : Port → Port) : (s.modPort n f).movesOut = s.movesOut := rfl
@[simp] theorem modPort_movesIn (n : Nat) (f : Port → Port) : (s.modPort n f).movesIn = s.movesIn := rfl
@[simp] theorem modPort_pulls (n : Nat) (f : Port → Port) : (s.modPort n f).pulls = s.pulls := rfl
@[simp] theorem modPort_slices (n : Nat) (f : Port → Port) : (s.modPort n f).slices = s.slices := rfl
@[simp] theorem modPort_expertWait (n : Nat) (f : Port → Port) : (s.modPort n f).expertWait = s.expertWait := rfl
@[simp] theorem modPort_capSeq (n : Nat) (f : Port → Port) : (s.modPort n f).capSeq = s.capSeq := rfl
@[simp] theorem modPort_batches (n : Nat) (f : Port → Port) : (s.modPort n f).batches = s.batches := rfl
@[simp] theorem modPort_nextBatch (n : Nat) (f : Port → Port) : (s.modPort n f).nextBatch = s.nextBatch := rfl
@[simp] theorem modPort_ctxs (n : Nat) (f : Port → Port) : (s.modPort n f).ctxs = s.ctxs := rfl
@[simp] theorem modPort_cores (n : Nat) (f : Port → Port) : (s.modPort n f).cores = s.cores := rfl
@[simp] theorem modPort_courses (n : Nat) (f : Port → Port) : (s.modPort n f).courses = s.courses := rfl
@[simp] theorem modPort_bars (n : Nat) (f : Port → Port) : (s.modPort n f).bars = s.bars := rfl
@[simp] theorem modPort_tileFrames (n : Nat) (f : Port → Port) : (s.modPort n f).tileFrames = s.tileFrames := rfl
@[simp] theorem modPort_mortarFrames (n : Nat) (f : Port → Port) : (s.modPort n f).mortarFrames = s.mortarFrames := rfl
@[simp] theorem modPort_tiles (n : Nat) (f : Port → Port) : (s.modPort n f).tiles = s.tiles := rfl
@[simp] theorem modPort_ram (n : Nat) (f : Port → Port) : (s.modPort n f).ram = s.ram := rfl
@[simp] theorem modPort_prefixes (n : Nat) (f : Port → Port) : (s.modPort n f).prefixes = s.prefixes := rfl
@[simp] theorem modPort_grammars (n : Nat) (f : Port → Port) : (s.modPort n f).grammars = s.grammars := rfl
@[simp] theorem modPort_loadGens (n : Nat) (f : Port → Port) : (s.modPort n f).loadGens = s.loadGens := rfl
@[simp] theorem modPort_qry (n : Nat) (f : Port → Port) : (s.modPort n f).qry = s.qry := rfl
@[simp] theorem modPort_bonds (n : Nat) (f : Port → Port) : (s.modPort n f).bonds = s.bonds := rfl
@[simp] theorem modPort_nextSeq (n : Nat) (f : Port → Port) : (s.modPort n f).nextSeq = s.nextSeq := rfl
@[simp] theorem modPort_bondWaits (n : Nat) (f : Port → Port) : (s.modPort n f).bondWaits = s.bondWaits := rfl
@[simp] theorem modPort_mirror (n : Nat) (f : Port → Port) : (s.modPort n f).mirror = s.mirror := rfl
@[simp] theorem modPort_reports (n : Nat) (f : Port → Port) : (s.modPort n f).reports = s.reports := rfl
@[simp] theorem modPort_colls (n : Nat) (f : Port → Port) : (s.modPort n f).colls = s.colls := rfl
@[simp] theorem modPort_scans (n : Nat) (f : Port → Port) : (s.modPort n f).scans = s.scans := rfl
@[simp] theorem modPort_ckp (n : Nat) (f : Port → Port) : (s.modPort n f).ckp = s.ckp := rfl
@[simp] theorem modPort_ports (n : Nat) (f : Port → Port) : (s.modPort n f).ports = s.ports.modify n f := rfl
@[simp] theorem modPort_peers (n : Nat) (f : Port → Port) : (s.modPort n f).peers = s.peers := rfl
@[simp] theorem modPort_comps (n : Nat) (f : Port → Port) : (s.modPort n f).comps = s.comps := rfl
@[simp] theorem modPort_forwards (n : Nat) (f : Port → Port) : (s.modPort n f).forwards = s.forwards := rfl
@[simp] theorem modPort_resets (n : Nat) (f : Port → Port) : (s.modPort n f).resets = s.resets := rfl
@[simp] theorem modPort_removals (n : Nat) (f : Port → Port) : (s.modPort n f).removals = s.removals := rfl
@[simp] theorem modPort_removeWait (n : Nat) (f : Port → Port) : (s.modPort n f).removeWait = s.removeWait := rfl
@[simp] theorem modPort_allocWait (n : Nat) (f : Port → Port) : (s.modPort n f).allocWait = s.allocWait := rfl
@[simp] theorem modPort_regPages (n : Nat) (f : Port → Port) : (s.modPort n f).regPages = s.regPages := rfl
@[simp] theorem modPort_lateEnds (n : Nat) (f : Port → Port) : (s.modPort n f).lateEnds = s.lateEnds := rfl
@[simp] theorem modPort_selfRefresh (n : Nat) (f : Port → Port) : (s.modPort n f).selfRefresh = s.selfRefresh := rfl
@[simp] theorem modPort_patrol (n : Nat) (f : Port → Port) : (s.modPort n f).patrol = s.patrol := rfl

-- modCore
@[simp] theorem modCore_pending (n : Nat) (f : Core → Core) : (s.modCore n f).pending = s.pending := rfl
@[simp] theorem modCore_out (n : Nat) (f : Core → Core) : (s.modCore n f).out = s.out := rfl
@[simp] theorem modCore_regs (n : Nat) (f : Core → Core) : (s.modCore n f).regs = s.regs := rfl
@[simp] theorem modCore_pmc (n : Nat) (f : Core → Core) : (s.modCore n f).pmc = s.pmc := rfl
@[simp] theorem modCore_aon (n : Nat) (f : Core → Core) : (s.modCore n f).aon = s.aon := rfl
@[simp] theorem modCore_freeCtr (n : Nat) (f : Core → Core) : (s.modCore n f).freeCtr = s.freeCtr := rfl
@[simp] theorem modCore_boot (n : Nat) (f : Core → Core) : (s.modCore n f).boot = s.boot := rfl
@[simp] theorem modCore_sec (n : Nat) (f : Core → Core) : (s.modCore n f).sec = s.sec := rfl
@[simp] theorem modCore_err (n : Nat) (f : Core → Core) : (s.modCore n f).err = s.err := rfl
@[simp] theorem modCore_pins (n : Nat) (f : Core → Core) : (s.modCore n f).pins = s.pins := rfl
@[simp] theorem modCore_flash (n : Nat) (f : Core → Core) : (s.modCore n f).flash = s.flash := rfl
@[simp] theorem modCore_sqs (n : Nat) (f : Core → Core) : (s.modCore n f).sqs = s.sqs := rfl
@[simp] theorem modCore_cqs (n : Nat) (f : Core → Core) : (s.modCore n f).cqs = s.cqs := rfl
@[simp] theorem modCore_bounce (n : Nat) (f : Core → Core) : (s.modCore n f).bounce = s.bounce := rfl
@[simp] theorem modCore_mboxBusy (n : Nat) (f : Core → Core) : (s.modCore n f).mboxBusy = s.mboxBusy := rfl
@[simp] theorem modCore_arrived (n : Nat) (f : Core → Core) : (s.modCore n f).arrived = s.arrived := rfl
@[simp] theorem modCore_waitS15 (n : Nat) (f : Core → Core) : (s.modCore n f).waitS15 = s.waitS15 := rfl
@[simp] theorem modCore_sessions (n : Nat) (f : Core → Core) : (s.modCore n f).sessions = s.sessions := rfl
@[simp] theorem modCore_freed (n : Nat) (f : Core → Core) : (s.modCore n f).freed = s.freed := rfl
@[simp] theorem modCore_reqs (n : Nat) (f : Core → Core) : (s.modCore n f).reqs = s.reqs := rfl
@[simp] theorem modCore_handoffs (n : Nat) (f : Core → Core) : (s.modCore n f).handoffs = s.handoffs := rfl
@[simp] theorem modCore_parks (n : Nat) (f : Core → Core) : (s.modCore n f).parks = s.parks := rfl
@[simp] theorem modCore_revives (n : Nat) (f : Core → Core) : (s.modCore n f).revives = s.revives := rfl
@[simp] theorem modCore_movesOut (n : Nat) (f : Core → Core) : (s.modCore n f).movesOut = s.movesOut := rfl
@[simp] theorem modCore_movesIn (n : Nat) (f : Core → Core) : (s.modCore n f).movesIn = s.movesIn := rfl
@[simp] theorem modCore_pulls (n : Nat) (f : Core → Core) : (s.modCore n f).pulls = s.pulls := rfl
@[simp] theorem modCore_slices (n : Nat) (f : Core → Core) : (s.modCore n f).slices = s.slices := rfl
@[simp] theorem modCore_expertWait (n : Nat) (f : Core → Core) : (s.modCore n f).expertWait = s.expertWait := rfl
@[simp] theorem modCore_capSeq (n : Nat) (f : Core → Core) : (s.modCore n f).capSeq = s.capSeq := rfl
@[simp] theorem modCore_batches (n : Nat) (f : Core → Core) : (s.modCore n f).batches = s.batches := rfl
@[simp] theorem modCore_nextBatch (n : Nat) (f : Core → Core) : (s.modCore n f).nextBatch = s.nextBatch := rfl
@[simp] theorem modCore_ctxs (n : Nat) (f : Core → Core) : (s.modCore n f).ctxs = s.ctxs := rfl
@[simp] theorem modCore_cores (n : Nat) (f : Core → Core) : (s.modCore n f).cores = s.cores.modify n f := rfl
@[simp] theorem modCore_courses (n : Nat) (f : Core → Core) : (s.modCore n f).courses = s.courses := rfl
@[simp] theorem modCore_bars (n : Nat) (f : Core → Core) : (s.modCore n f).bars = s.bars := rfl
@[simp] theorem modCore_tileFrames (n : Nat) (f : Core → Core) : (s.modCore n f).tileFrames = s.tileFrames := rfl
@[simp] theorem modCore_mortarFrames (n : Nat) (f : Core → Core) : (s.modCore n f).mortarFrames = s.mortarFrames := rfl
@[simp] theorem modCore_tiles (n : Nat) (f : Core → Core) : (s.modCore n f).tiles = s.tiles := rfl
@[simp] theorem modCore_ram (n : Nat) (f : Core → Core) : (s.modCore n f).ram = s.ram := rfl
@[simp] theorem modCore_prefixes (n : Nat) (f : Core → Core) : (s.modCore n f).prefixes = s.prefixes := rfl
@[simp] theorem modCore_grammars (n : Nat) (f : Core → Core) : (s.modCore n f).grammars = s.grammars := rfl
@[simp] theorem modCore_loadGens (n : Nat) (f : Core → Core) : (s.modCore n f).loadGens = s.loadGens := rfl
@[simp] theorem modCore_qry (n : Nat) (f : Core → Core) : (s.modCore n f).qry = s.qry := rfl
@[simp] theorem modCore_bonds (n : Nat) (f : Core → Core) : (s.modCore n f).bonds = s.bonds := rfl
@[simp] theorem modCore_nextSeq (n : Nat) (f : Core → Core) : (s.modCore n f).nextSeq = s.nextSeq := rfl
@[simp] theorem modCore_bondWaits (n : Nat) (f : Core → Core) : (s.modCore n f).bondWaits = s.bondWaits := rfl
@[simp] theorem modCore_mirror (n : Nat) (f : Core → Core) : (s.modCore n f).mirror = s.mirror := rfl
@[simp] theorem modCore_reports (n : Nat) (f : Core → Core) : (s.modCore n f).reports = s.reports := rfl
@[simp] theorem modCore_colls (n : Nat) (f : Core → Core) : (s.modCore n f).colls = s.colls := rfl
@[simp] theorem modCore_scans (n : Nat) (f : Core → Core) : (s.modCore n f).scans = s.scans := rfl
@[simp] theorem modCore_ckp (n : Nat) (f : Core → Core) : (s.modCore n f).ckp = s.ckp := rfl
@[simp] theorem modCore_ports (n : Nat) (f : Core → Core) : (s.modCore n f).ports = s.ports := rfl
@[simp] theorem modCore_peers (n : Nat) (f : Core → Core) : (s.modCore n f).peers = s.peers := rfl
@[simp] theorem modCore_comps (n : Nat) (f : Core → Core) : (s.modCore n f).comps = s.comps := rfl
@[simp] theorem modCore_forwards (n : Nat) (f : Core → Core) : (s.modCore n f).forwards = s.forwards := rfl
@[simp] theorem modCore_resets (n : Nat) (f : Core → Core) : (s.modCore n f).resets = s.resets := rfl
@[simp] theorem modCore_removals (n : Nat) (f : Core → Core) : (s.modCore n f).removals = s.removals := rfl
@[simp] theorem modCore_removeWait (n : Nat) (f : Core → Core) : (s.modCore n f).removeWait = s.removeWait := rfl
@[simp] theorem modCore_allocWait (n : Nat) (f : Core → Core) : (s.modCore n f).allocWait = s.allocWait := rfl
@[simp] theorem modCore_regPages (n : Nat) (f : Core → Core) : (s.modCore n f).regPages = s.regPages := rfl
@[simp] theorem modCore_lateEnds (n : Nat) (f : Core → Core) : (s.modCore n f).lateEnds = s.lateEnds := rfl
@[simp] theorem modCore_selfRefresh (n : Nat) (f : Core → Core) : (s.modCore n f).selfRefresh = s.selfRefresh := rfl
@[simp] theorem modCore_patrol (n : Nat) (f : Core → Core) : (s.modCore n f).patrol = s.patrol := rfl

-- modCtx
@[simp] theorem modCtx_pending (p c : Nat) (f : Ctx → Ctx) : (s.modCtx p c f).pending = s.pending := rfl
@[simp] theorem modCtx_out (p c : Nat) (f : Ctx → Ctx) : (s.modCtx p c f).out = s.out := rfl
@[simp] theorem modCtx_regs (p c : Nat) (f : Ctx → Ctx) : (s.modCtx p c f).regs = s.regs := rfl
@[simp] theorem modCtx_pmc (p c : Nat) (f : Ctx → Ctx) : (s.modCtx p c f).pmc = s.pmc := rfl
@[simp] theorem modCtx_aon (p c : Nat) (f : Ctx → Ctx) : (s.modCtx p c f).aon = s.aon := rfl
@[simp] theorem modCtx_freeCtr (p c : Nat) (f : Ctx → Ctx) : (s.modCtx p c f).freeCtr = s.freeCtr := rfl
@[simp] theorem modCtx_boot (p c : Nat) (f : Ctx → Ctx) : (s.modCtx p c f).boot = s.boot := rfl
@[simp] theorem modCtx_sec (p c : Nat) (f : Ctx → Ctx) : (s.modCtx p c f).sec = s.sec := rfl
@[simp] theorem modCtx_err (p c : Nat) (f : Ctx → Ctx) : (s.modCtx p c f).err = s.err := rfl
@[simp] theorem modCtx_pins (p c : Nat) (f : Ctx → Ctx) : (s.modCtx p c f).pins = s.pins := rfl
@[simp] theorem modCtx_flash (p c : Nat) (f : Ctx → Ctx) : (s.modCtx p c f).flash = s.flash := rfl
@[simp] theorem modCtx_sqs (p c : Nat) (f : Ctx → Ctx) : (s.modCtx p c f).sqs = s.sqs := rfl
@[simp] theorem modCtx_cqs (p c : Nat) (f : Ctx → Ctx) : (s.modCtx p c f).cqs = s.cqs := rfl
@[simp] theorem modCtx_bounce (p c : Nat) (f : Ctx → Ctx) : (s.modCtx p c f).bounce = s.bounce := rfl
@[simp] theorem modCtx_mboxBusy (p c : Nat) (f : Ctx → Ctx) : (s.modCtx p c f).mboxBusy = s.mboxBusy := rfl
@[simp] theorem modCtx_arrived (p c : Nat) (f : Ctx → Ctx) : (s.modCtx p c f).arrived = s.arrived := rfl
@[simp] theorem modCtx_waitS15 (p c : Nat) (f : Ctx → Ctx) : (s.modCtx p c f).waitS15 = s.waitS15 := rfl
@[simp] theorem modCtx_sessions (p c : Nat) (f : Ctx → Ctx) : (s.modCtx p c f).sessions = s.sessions := rfl
@[simp] theorem modCtx_freed (p c : Nat) (f : Ctx → Ctx) : (s.modCtx p c f).freed = s.freed := rfl
@[simp] theorem modCtx_reqs (p c : Nat) (f : Ctx → Ctx) : (s.modCtx p c f).reqs = s.reqs := rfl
@[simp] theorem modCtx_handoffs (p c : Nat) (f : Ctx → Ctx) : (s.modCtx p c f).handoffs = s.handoffs := rfl
@[simp] theorem modCtx_parks (p c : Nat) (f : Ctx → Ctx) : (s.modCtx p c f).parks = s.parks := rfl
@[simp] theorem modCtx_revives (p c : Nat) (f : Ctx → Ctx) : (s.modCtx p c f).revives = s.revives := rfl
@[simp] theorem modCtx_movesOut (p c : Nat) (f : Ctx → Ctx) : (s.modCtx p c f).movesOut = s.movesOut := rfl
@[simp] theorem modCtx_movesIn (p c : Nat) (f : Ctx → Ctx) : (s.modCtx p c f).movesIn = s.movesIn := rfl
@[simp] theorem modCtx_pulls (p c : Nat) (f : Ctx → Ctx) : (s.modCtx p c f).pulls = s.pulls := rfl
@[simp] theorem modCtx_slices (p c : Nat) (f : Ctx → Ctx) : (s.modCtx p c f).slices = s.slices := rfl
@[simp] theorem modCtx_expertWait (p c : Nat) (f : Ctx → Ctx) : (s.modCtx p c f).expertWait = s.expertWait := rfl
@[simp] theorem modCtx_capSeq (p c : Nat) (f : Ctx → Ctx) : (s.modCtx p c f).capSeq = s.capSeq := rfl
@[simp] theorem modCtx_batches (p c : Nat) (f : Ctx → Ctx) : (s.modCtx p c f).batches = s.batches := rfl
@[simp] theorem modCtx_nextBatch (p c : Nat) (f : Ctx → Ctx) : (s.modCtx p c f).nextBatch = s.nextBatch := rfl
@[simp] theorem modCtx_ctxs (p c : Nat) (f : Ctx → Ctx) : (s.modCtx p c f).ctxs = s.ctxs.modify (p, c) f := rfl
@[simp] theorem modCtx_cores (p c : Nat) (f : Ctx → Ctx) : (s.modCtx p c f).cores = s.cores := rfl
@[simp] theorem modCtx_courses (p c : Nat) (f : Ctx → Ctx) : (s.modCtx p c f).courses = s.courses := rfl
@[simp] theorem modCtx_bars (p c : Nat) (f : Ctx → Ctx) : (s.modCtx p c f).bars = s.bars := rfl
@[simp] theorem modCtx_tileFrames (p c : Nat) (f : Ctx → Ctx) : (s.modCtx p c f).tileFrames = s.tileFrames := rfl
@[simp] theorem modCtx_mortarFrames (p c : Nat) (f : Ctx → Ctx) : (s.modCtx p c f).mortarFrames = s.mortarFrames := rfl
@[simp] theorem modCtx_tiles (p c : Nat) (f : Ctx → Ctx) : (s.modCtx p c f).tiles = s.tiles := rfl
@[simp] theorem modCtx_ram (p c : Nat) (f : Ctx → Ctx) : (s.modCtx p c f).ram = s.ram := rfl
@[simp] theorem modCtx_prefixes (p c : Nat) (f : Ctx → Ctx) : (s.modCtx p c f).prefixes = s.prefixes := rfl
@[simp] theorem modCtx_grammars (p c : Nat) (f : Ctx → Ctx) : (s.modCtx p c f).grammars = s.grammars := rfl
@[simp] theorem modCtx_loadGens (p c : Nat) (f : Ctx → Ctx) : (s.modCtx p c f).loadGens = s.loadGens := rfl
@[simp] theorem modCtx_qry (p c : Nat) (f : Ctx → Ctx) : (s.modCtx p c f).qry = s.qry := rfl
@[simp] theorem modCtx_bonds (p c : Nat) (f : Ctx → Ctx) : (s.modCtx p c f).bonds = s.bonds := rfl
@[simp] theorem modCtx_nextSeq (p c : Nat) (f : Ctx → Ctx) : (s.modCtx p c f).nextSeq = s.nextSeq := rfl
@[simp] theorem modCtx_bondWaits (p c : Nat) (f : Ctx → Ctx) : (s.modCtx p c f).bondWaits = s.bondWaits := rfl
@[simp] theorem modCtx_mirror (p c : Nat) (f : Ctx → Ctx) : (s.modCtx p c f).mirror = s.mirror := rfl
@[simp] theorem modCtx_reports (p c : Nat) (f : Ctx → Ctx) : (s.modCtx p c f).reports = s.reports := rfl
@[simp] theorem modCtx_colls (p c : Nat) (f : Ctx → Ctx) : (s.modCtx p c f).colls = s.colls := rfl
@[simp] theorem modCtx_scans (p c : Nat) (f : Ctx → Ctx) : (s.modCtx p c f).scans = s.scans := rfl
@[simp] theorem modCtx_ckp (p c : Nat) (f : Ctx → Ctx) : (s.modCtx p c f).ckp = s.ckp := rfl
@[simp] theorem modCtx_ports (p c : Nat) (f : Ctx → Ctx) : (s.modCtx p c f).ports = s.ports := rfl
@[simp] theorem modCtx_peers (p c : Nat) (f : Ctx → Ctx) : (s.modCtx p c f).peers = s.peers := rfl
@[simp] theorem modCtx_comps (p c : Nat) (f : Ctx → Ctx) : (s.modCtx p c f).comps = s.comps := rfl
@[simp] theorem modCtx_forwards (p c : Nat) (f : Ctx → Ctx) : (s.modCtx p c f).forwards = s.forwards := rfl
@[simp] theorem modCtx_resets (p c : Nat) (f : Ctx → Ctx) : (s.modCtx p c f).resets = s.resets := rfl
@[simp] theorem modCtx_removals (p c : Nat) (f : Ctx → Ctx) : (s.modCtx p c f).removals = s.removals := rfl
@[simp] theorem modCtx_removeWait (p c : Nat) (f : Ctx → Ctx) : (s.modCtx p c f).removeWait = s.removeWait := rfl
@[simp] theorem modCtx_allocWait (p c : Nat) (f : Ctx → Ctx) : (s.modCtx p c f).allocWait = s.allocWait := rfl
@[simp] theorem modCtx_regPages (p c : Nat) (f : Ctx → Ctx) : (s.modCtx p c f).regPages = s.regPages := rfl
@[simp] theorem modCtx_lateEnds (p c : Nat) (f : Ctx → Ctx) : (s.modCtx p c f).lateEnds = s.lateEnds := rfl
@[simp] theorem modCtx_selfRefresh (p c : Nat) (f : Ctx → Ctx) : (s.modCtx p c f).selfRefresh = s.selfRefresh := rfl
@[simp] theorem modCtx_patrol (p c : Nat) (f : Ctx → Ctx) : (s.modCtx p c f).patrol = s.patrol := rfl

-- draw
@[simp] theorem draw_pending : (s.draw.2).pending = s.pending := rfl
@[simp] theorem draw_out : (s.draw.2).out = s.out := rfl
@[simp] theorem draw_regs : (s.draw.2).regs = s.regs := rfl
@[simp] theorem draw_pmc : (s.draw.2).pmc = s.pmc := rfl
@[simp] theorem draw_aon : (s.draw.2).aon = s.aon := rfl
@[simp] theorem draw_freeCtr : (s.draw.2).freeCtr = s.freeCtr + 1 := rfl
@[simp] theorem draw_boot : (s.draw.2).boot = s.boot := rfl
@[simp] theorem draw_sec : (s.draw.2).sec = s.sec := rfl
@[simp] theorem draw_err : (s.draw.2).err = s.err := rfl
@[simp] theorem draw_pins : (s.draw.2).pins = s.pins := rfl
@[simp] theorem draw_flash : (s.draw.2).flash = s.flash := rfl
@[simp] theorem draw_sqs : (s.draw.2).sqs = s.sqs := rfl
@[simp] theorem draw_cqs : (s.draw.2).cqs = s.cqs := rfl
@[simp] theorem draw_bounce : (s.draw.2).bounce = s.bounce := rfl
@[simp] theorem draw_mboxBusy : (s.draw.2).mboxBusy = s.mboxBusy := rfl
@[simp] theorem draw_arrived : (s.draw.2).arrived = s.arrived := rfl
@[simp] theorem draw_waitS15 : (s.draw.2).waitS15 = s.waitS15 := rfl
@[simp] theorem draw_sessions : (s.draw.2).sessions = s.sessions := rfl
@[simp] theorem draw_freed : (s.draw.2).freed = s.freed := rfl
@[simp] theorem draw_reqs : (s.draw.2).reqs = s.reqs := rfl
@[simp] theorem draw_handoffs : (s.draw.2).handoffs = s.handoffs := rfl
@[simp] theorem draw_parks : (s.draw.2).parks = s.parks := rfl
@[simp] theorem draw_revives : (s.draw.2).revives = s.revives := rfl
@[simp] theorem draw_movesOut : (s.draw.2).movesOut = s.movesOut := rfl
@[simp] theorem draw_movesIn : (s.draw.2).movesIn = s.movesIn := rfl
@[simp] theorem draw_pulls : (s.draw.2).pulls = s.pulls := rfl
@[simp] theorem draw_slices : (s.draw.2).slices = s.slices := rfl
@[simp] theorem draw_expertWait : (s.draw.2).expertWait = s.expertWait := rfl
@[simp] theorem draw_capSeq : (s.draw.2).capSeq = s.capSeq := rfl
@[simp] theorem draw_batches : (s.draw.2).batches = s.batches := rfl
@[simp] theorem draw_nextBatch : (s.draw.2).nextBatch = s.nextBatch := rfl
@[simp] theorem draw_ctxs : (s.draw.2).ctxs = s.ctxs := rfl
@[simp] theorem draw_cores : (s.draw.2).cores = s.cores := rfl
@[simp] theorem draw_courses : (s.draw.2).courses = s.courses := rfl
@[simp] theorem draw_bars : (s.draw.2).bars = s.bars := rfl
@[simp] theorem draw_tileFrames : (s.draw.2).tileFrames = s.tileFrames := rfl
@[simp] theorem draw_mortarFrames : (s.draw.2).mortarFrames = s.mortarFrames := rfl
@[simp] theorem draw_tiles : (s.draw.2).tiles = s.tiles := rfl
@[simp] theorem draw_ram : (s.draw.2).ram = s.ram := rfl
@[simp] theorem draw_prefixes : (s.draw.2).prefixes = s.prefixes := rfl
@[simp] theorem draw_grammars : (s.draw.2).grammars = s.grammars := rfl
@[simp] theorem draw_loadGens : (s.draw.2).loadGens = s.loadGens := rfl
@[simp] theorem draw_qry : (s.draw.2).qry = s.qry := rfl
@[simp] theorem draw_bonds : (s.draw.2).bonds = s.bonds := rfl
@[simp] theorem draw_nextSeq : (s.draw.2).nextSeq = s.nextSeq := rfl
@[simp] theorem draw_bondWaits : (s.draw.2).bondWaits = s.bondWaits := rfl
@[simp] theorem draw_mirror : (s.draw.2).mirror = s.mirror := rfl
@[simp] theorem draw_reports : (s.draw.2).reports = s.reports := rfl
@[simp] theorem draw_colls : (s.draw.2).colls = s.colls := rfl
@[simp] theorem draw_scans : (s.draw.2).scans = s.scans := rfl
@[simp] theorem draw_ckp : (s.draw.2).ckp = s.ckp := rfl
@[simp] theorem draw_ports : (s.draw.2).ports = s.ports := rfl
@[simp] theorem draw_peers : (s.draw.2).peers = s.peers := rfl
@[simp] theorem draw_comps : (s.draw.2).comps = s.comps := rfl
@[simp] theorem draw_forwards : (s.draw.2).forwards = s.forwards := rfl
@[simp] theorem draw_resets : (s.draw.2).resets = s.resets := rfl
@[simp] theorem draw_removals : (s.draw.2).removals = s.removals := rfl
@[simp] theorem draw_removeWait : (s.draw.2).removeWait = s.removeWait := rfl
@[simp] theorem draw_allocWait : (s.draw.2).allocWait = s.allocWait := rfl
@[simp] theorem draw_regPages : (s.draw.2).regPages = s.regPages := rfl
@[simp] theorem draw_lateEnds : (s.draw.2).lateEnds = s.lateEnds := rfl
@[simp] theorem draw_selfRefresh : (s.draw.2).selfRefresh = s.selfRefresh := rfl
@[simp] theorem draw_patrol : (s.draw.2).patrol = s.patrol := rfl

-- tick
@[simp] theorem tick_pending : (s.tick).pending = s.pending := rfl
@[simp] theorem tick_out : (s.tick).out = s.out := rfl
@[simp] theorem tick_regs : (s.tick).regs = s.regs := rfl
@[simp] theorem tick_pmc : (s.tick).pmc = s.pmc := rfl
@[simp] theorem tick_freeCtr : (s.tick).freeCtr = s.freeCtr + 1 := rfl
@[simp] theorem tick_boot : (s.tick).boot = s.boot := rfl
@[simp] theorem tick_sec : (s.tick).sec = s.sec := rfl
@[simp] theorem tick_err : (s.tick).err = s.err := rfl
@[simp] theorem tick_pins : (s.tick).pins = s.pins := rfl
@[simp] theorem tick_flash : (s.tick).flash = s.flash := rfl
@[simp] theorem tick_sqs : (s.tick).sqs = s.sqs := rfl
@[simp] theorem tick_cqs : (s.tick).cqs = s.cqs := rfl
@[simp] theorem tick_bounce : (s.tick).bounce = s.bounce := rfl
@[simp] theorem tick_mboxBusy : (s.tick).mboxBusy = s.mboxBusy := rfl
@[simp] theorem tick_arrived : (s.tick).arrived = s.arrived := rfl
@[simp] theorem tick_waitS15 : (s.tick).waitS15 = s.waitS15 := rfl
@[simp] theorem tick_sessions : (s.tick).sessions = s.sessions := rfl
@[simp] theorem tick_freed : (s.tick).freed = s.freed := rfl
@[simp] theorem tick_reqs : (s.tick).reqs = s.reqs := rfl
@[simp] theorem tick_handoffs : (s.tick).handoffs = s.handoffs := rfl
@[simp] theorem tick_parks : (s.tick).parks = s.parks := rfl
@[simp] theorem tick_revives : (s.tick).revives = s.revives := rfl
@[simp] theorem tick_movesOut : (s.tick).movesOut = s.movesOut := rfl
@[simp] theorem tick_movesIn : (s.tick).movesIn = s.movesIn := rfl
@[simp] theorem tick_pulls : (s.tick).pulls = s.pulls := rfl
@[simp] theorem tick_slices : (s.tick).slices = s.slices := rfl
@[simp] theorem tick_expertWait : (s.tick).expertWait = s.expertWait := rfl
@[simp] theorem tick_capSeq : (s.tick).capSeq = s.capSeq := rfl
@[simp] theorem tick_batches : (s.tick).batches = s.batches := rfl
@[simp] theorem tick_nextBatch : (s.tick).nextBatch = s.nextBatch := rfl
@[simp] theorem tick_ctxs : (s.tick).ctxs = s.ctxs := rfl
@[simp] theorem tick_cores : (s.tick).cores = s.cores := rfl
@[simp] theorem tick_courses : (s.tick).courses = s.courses := rfl
@[simp] theorem tick_bars : (s.tick).bars = s.bars := rfl
@[simp] theorem tick_tileFrames : (s.tick).tileFrames = s.tileFrames := rfl
@[simp] theorem tick_mortarFrames : (s.tick).mortarFrames = s.mortarFrames := rfl
@[simp] theorem tick_tiles : (s.tick).tiles = s.tiles := rfl
@[simp] theorem tick_ram : (s.tick).ram = s.ram := rfl
@[simp] theorem tick_prefixes : (s.tick).prefixes = s.prefixes := rfl
@[simp] theorem tick_grammars : (s.tick).grammars = s.grammars := rfl
@[simp] theorem tick_loadGens : (s.tick).loadGens = s.loadGens := rfl
@[simp] theorem tick_qry : (s.tick).qry = s.qry := rfl
@[simp] theorem tick_bonds : (s.tick).bonds = s.bonds := rfl
@[simp] theorem tick_nextSeq : (s.tick).nextSeq = s.nextSeq := rfl
@[simp] theorem tick_bondWaits : (s.tick).bondWaits = s.bondWaits := rfl
@[simp] theorem tick_mirror : (s.tick).mirror = s.mirror := rfl
@[simp] theorem tick_reports : (s.tick).reports = s.reports := rfl
@[simp] theorem tick_colls : (s.tick).colls = s.colls := rfl
@[simp] theorem tick_scans : (s.tick).scans = s.scans := rfl
@[simp] theorem tick_ckp : (s.tick).ckp = s.ckp := rfl
@[simp] theorem tick_ports : (s.tick).ports = s.ports := rfl
@[simp] theorem tick_peers : (s.tick).peers = s.peers := rfl
@[simp] theorem tick_comps : (s.tick).comps = s.comps := rfl
@[simp] theorem tick_forwards : (s.tick).forwards = s.forwards := rfl
@[simp] theorem tick_resets : (s.tick).resets = s.resets := rfl
@[simp] theorem tick_removals : (s.tick).removals = s.removals := rfl
@[simp] theorem tick_removeWait : (s.tick).removeWait = s.removeWait := rfl
@[simp] theorem tick_allocWait : (s.tick).allocWait = s.allocWait := rfl
@[simp] theorem tick_regPages : (s.tick).regPages = s.regPages := rfl
@[simp] theorem tick_lateEnds : (s.tick).lateEnds = s.lateEnds := rfl
@[simp] theorem tick_selfRefresh : (s.tick).selfRefresh = s.selfRefresh := rfl
@[simp] theorem tick_patrol : (s.tick).patrol = s.patrol := rfl

-- kept
@[simp] theorem kept_pending (t : State) : (s.kept t).pending = s.pending := rfl
@[simp] theorem kept_out (t : State) : (s.kept t).out = t.out := rfl
@[simp] theorem kept_regs (t : State) : (s.kept t).regs = t.regs := rfl
@[simp] theorem kept_pmc (t : State) : (s.kept t).pmc = t.pmc := rfl
@[simp] theorem kept_aon (t : State) : (s.kept t).aon = t.aon := rfl
@[simp] theorem kept_freeCtr (t : State) : (s.kept t).freeCtr = t.freeCtr := rfl
@[simp] theorem kept_boot (t : State) : (s.kept t).boot = t.boot := rfl
@[simp] theorem kept_sec (t : State) : (s.kept t).sec = t.sec := rfl
@[simp] theorem kept_err (t : State) : (s.kept t).err = t.err := rfl
@[simp] theorem kept_pins (t : State) : (s.kept t).pins = t.pins := rfl
@[simp] theorem kept_flash (t : State) : (s.kept t).flash = s.flash := rfl
@[simp] theorem kept_sqs (t : State) : (s.kept t).sqs = t.sqs := rfl
@[simp] theorem kept_cqs (t : State) : (s.kept t).cqs = t.cqs := rfl
@[simp] theorem kept_bounce (t : State) : (s.kept t).bounce = t.bounce := rfl
@[simp] theorem kept_mboxBusy (t : State) : (s.kept t).mboxBusy = t.mboxBusy := rfl
@[simp] theorem kept_arrived (t : State) : (s.kept t).arrived = t.arrived := rfl
@[simp] theorem kept_waitS15 (t : State) : (s.kept t).waitS15 = t.waitS15 := rfl
@[simp] theorem kept_sessions (t : State) : (s.kept t).sessions = t.sessions := rfl
@[simp] theorem kept_freed (t : State) : (s.kept t).freed = t.freed := rfl
@[simp] theorem kept_reqs (t : State) : (s.kept t).reqs = t.reqs := rfl
@[simp] theorem kept_handoffs (t : State) : (s.kept t).handoffs = t.handoffs := rfl
@[simp] theorem kept_parks (t : State) : (s.kept t).parks = t.parks := rfl
@[simp] theorem kept_revives (t : State) : (s.kept t).revives = t.revives := rfl
@[simp] theorem kept_movesOut (t : State) : (s.kept t).movesOut = t.movesOut := rfl
@[simp] theorem kept_movesIn (t : State) : (s.kept t).movesIn = t.movesIn := rfl
@[simp] theorem kept_pulls (t : State) : (s.kept t).pulls = t.pulls := rfl
@[simp] theorem kept_slices (t : State) : (s.kept t).slices = t.slices := rfl
@[simp] theorem kept_expertWait (t : State) : (s.kept t).expertWait = t.expertWait := rfl
@[simp] theorem kept_capSeq (t : State) : (s.kept t).capSeq = t.capSeq := rfl
@[simp] theorem kept_batches (t : State) : (s.kept t).batches = t.batches := rfl
@[simp] theorem kept_nextBatch (t : State) : (s.kept t).nextBatch = t.nextBatch := rfl
@[simp] theorem kept_ctxs (t : State) : (s.kept t).ctxs = t.ctxs := rfl
@[simp] theorem kept_cores (t : State) : (s.kept t).cores = t.cores := rfl
@[simp] theorem kept_courses (t : State) : (s.kept t).courses = t.courses := rfl
@[simp] theorem kept_bars (t : State) : (s.kept t).bars = t.bars := rfl
@[simp] theorem kept_tileFrames (t : State) : (s.kept t).tileFrames = t.tileFrames := rfl
@[simp] theorem kept_mortarFrames (t : State) : (s.kept t).mortarFrames = t.mortarFrames := rfl
@[simp] theorem kept_tiles (t : State) : (s.kept t).tiles = t.tiles := rfl
@[simp] theorem kept_ram (t : State) : (s.kept t).ram = t.ram := rfl
@[simp] theorem kept_prefixes (t : State) : (s.kept t).prefixes = t.prefixes := rfl
@[simp] theorem kept_grammars (t : State) : (s.kept t).grammars = t.grammars := rfl
@[simp] theorem kept_loadGens (t : State) : (s.kept t).loadGens = t.loadGens := rfl
@[simp] theorem kept_qry (t : State) : (s.kept t).qry = t.qry := rfl
@[simp] theorem kept_bonds (t : State) : (s.kept t).bonds = t.bonds := rfl
@[simp] theorem kept_nextSeq (t : State) : (s.kept t).nextSeq = t.nextSeq := rfl
@[simp] theorem kept_bondWaits (t : State) : (s.kept t).bondWaits = t.bondWaits := rfl
@[simp] theorem kept_mirror (t : State) : (s.kept t).mirror = t.mirror := rfl
@[simp] theorem kept_reports (t : State) : (s.kept t).reports = t.reports := rfl
@[simp] theorem kept_colls (t : State) : (s.kept t).colls = t.colls := rfl
@[simp] theorem kept_scans (t : State) : (s.kept t).scans = t.scans := rfl
@[simp] theorem kept_ckp (t : State) : (s.kept t).ckp = t.ckp := rfl
@[simp] theorem kept_ports (t : State) : (s.kept t).ports = t.ports := rfl
@[simp] theorem kept_peers (t : State) : (s.kept t).peers = t.peers := rfl
@[simp] theorem kept_comps (t : State) : (s.kept t).comps = t.comps := rfl
@[simp] theorem kept_forwards (t : State) : (s.kept t).forwards = t.forwards := rfl
@[simp] theorem kept_resets (t : State) : (s.kept t).resets = t.resets := rfl
@[simp] theorem kept_removals (t : State) : (s.kept t).removals = t.removals := rfl
@[simp] theorem kept_removeWait (t : State) : (s.kept t).removeWait = t.removeWait := rfl
@[simp] theorem kept_allocWait (t : State) : (s.kept t).allocWait = t.allocWait := rfl
@[simp] theorem kept_regPages (t : State) : (s.kept t).regPages = t.regPages := rfl
@[simp] theorem kept_lateEnds (t : State) : (s.kept t).lateEnds = t.lateEnds := rfl
@[simp] theorem kept_selfRefresh (t : State) : (s.kept t).selfRefresh = t.selfRefresh := rfl
@[simp] theorem kept_patrol (t : State) : (s.kept t).patrol = t.patrol := rfl

end Sys2Proof.Machine
end

