-- ==== Sys2Proof/Laws/Frames.lean ====
section
/-!
SUPPORT. What allocating and releasing frames can change.
-/

namespace Sys2Proof.Machine

open Sys2Proof

/-- `t` is `s` but for frame records, tile contents, registers and the count of free values. -/
def State.Fr (s t : State) : Prop :=
  ∃ a b c r n, t = { s with tileFrames := a, mortarFrames := b, tiles := c, regs := r, freeCtr := n }

theorem State.Fr.refl (s : State) : s.Fr s := ⟨s.tileFrames, s.mortarFrames, s.tiles, s.regs, s.freeCtr, rfl⟩

theorem State.Fr.trans {s t u : State} (h : s.Fr t) (g : t.Fr u) : s.Fr u := by
  obtain ⟨a, b, c, r, n, rfl⟩ := h
  obtain ⟨a', b', c', r', n', rfl⟩ := g
  exact ⟨a', b', c', r', n', rfl⟩

theorem fr_setFld (s : State) (f : Field) (v i j : Nat) : s.Fr (s.setFld f v i j) :=
  ⟨s.tileFrames, s.mortarFrames, s.tiles, _, s.freeCtr, rfl⟩

theorem fr_bump (s : State) (f : Field) (i n : Nat) : s.Fr (s.bump f i n) := fr_setFld ..

theorem fr_freeTile (s : State) (n : Nat) : s.Fr (s.freeTile n) := by
  unfold State.freeTile
  split
  · exact .refl s
  · exact ⟨_, s.mortarFrames, _, s.regs, s.freeCtr, rfl⟩

theorem fr_freeMor (s : State) (n : Nat) : s.Fr (s.freeMor n) := by
  unfold State.freeMor
  split
  · exact .refl s
  · exact ⟨s.tileFrames, _, s.tiles, s.regs, s.freeCtr, rfl⟩

theorem fr_freeMors (s : State) (l : List Nat) : s.Fr (s.freeMors l) :=
  foldl_keeps State.Fr .refl (fun _ _ _ => .trans) _ fr_freeMor l s

theorem fr_freeTiles (s : State) (l : List Nat) : s.Fr (s.freeTiles l) :=
  foldl_keeps State.Fr .refl (fun _ _ _ => .trans) _ fr_freeTile l s

theorem fr_allocTile {s t : State} {p n : Nat} {f : Frame} (h : s.allocTile p f = some (n, t)) :
    s.Fr t ∧ t.tileFrames = s.tileFrames.set n f := by
  unfold State.allocTile at h
  split at h
  · cases h; exact ⟨⟨_, s.mortarFrames, s.tiles, s.regs, _, rfl⟩, rfl⟩
  · split at h
    · cases h; exact ⟨⟨_, s.mortarFrames, s.tiles, _, s.freeCtr, rfl⟩, rfl⟩
    · cases h

theorem fr_allocMor {s t : State} {p n : Nat} {f : Frame} (h : s.allocMor p f = some (n, t)) :
    s.Fr t ∧ t.mortarFrames = s.mortarFrames.set n f := by
  unfold State.allocMor at h
  split at h
  · cases h; exact ⟨⟨s.tileFrames, _, s.tiles, s.regs, _, rfl⟩, rfl⟩
  · split at h
    · cases h; exact ⟨⟨s.tileFrames, _, s.tiles, _, s.freeCtr, rfl⟩, rfl⟩
    · cases h

theorem fr_allocMors {s t : State} {p : Nat} {f : Frame} {n : Nat} {l : List Nat} (h : s.allocMors p f n = some (l, t)) :
    s.Fr t := by
  induction n generalizing s l with
  | zero => cases h; exact .refl _
  | succ k ih =>
    unfold State.allocMors at h
    split at h
    · cases h
    · next a s1 h1 =>
      split at h
      · cases h
      · next as s2 h2 => cases h; exact (fr_allocMor h1).1.trans (ih h2)

theorem fr_allocTiles {s t : State} {p : Nat} {f : Frame} {n : Nat} {l : List Nat} (h : s.allocTiles p f n = some (l, t)) :
    s.Fr t := by
  induction n generalizing s l with
  | zero => cases h; exact .refl _
  | succ k ih =>
    unfold State.allocTiles at h
    split at h
    · cases h
    · next a s1 h1 =>
      split at h
      · cases h
      · next as s2 h2 => cases h; exact (fr_allocTile h1).1.trans (ih h2)

theorem fr_dropRef (s : State) (n : Nat) : s.Fr (s.dropRef n) := by
  have hset : ∀ f, s.Fr { s with tileFrames := s.tileFrames.set n f } :=
    fun f => ⟨_, s.mortarFrames, s.tiles, s.regs, s.freeCtr, rfl⟩
  simp only [State.dropRef]
  repeat' split
  all_goals first
    | exact .refl s
    | exact fr_freeTile s n
    | exact hset _

theorem fr_addRef (s : State) (n : Nat) : s.Fr (s.addRef n) := by
  unfold State.addRef
  split
  · exact .refl s
  · split
    · exact ⟨_, s.mortarFrames, s.tiles, s.regs, s.freeCtr, rfl⟩
    · exact .refl s

theorem fr_addPages {s t : State} {p b : Nat} {ks : List Nat} {m m' : AMap Nat PagePtr}
    (h : s.addPages p b ks m = some (m', t)) : s.Fr t := by
  induction ks generalizing s m with
  | nil => cases h; exact .refl _
  | cons k r ih =>
    unfold State.addPages at h
    split at h
    · cases h
    · next n s1 h1 => exact (fr_allocMor h1).1.trans (ih h)

theorem fr_growMortar {s t : State} {p b : Nat} {m m' : Mortar} {es : List Nat} (h : s.growMortar p b m es = some (m', t)) :
    s.Fr t := by
  unfold State.growMortar at h
  dsimp only at h
  split at h
  · cases h
  · next ix s1 h1 =>
    split at h
    · cases h
    · next lf s2 h2 => cases h; exact (fr_addPages h1).trans (fr_addPages h2)

end Sys2Proof.Machine
end

