-- ==== Sys2Proof/Laws/Post.lean ====
section
/-!
SUPPORT. What counting an event, signalling, writing to a buffer and posting a completion can change: one lemma for each.
-/

namespace Sys2Proof.Machine

open Sys2Proof

/-- Counting an event changes PMC registers and signals, and nothing else (R749, R758). -/
theorem pmcAdd_frame (s : State) (p : Option Nat) (r : Reg) (n : Nat) :
    ∃ m l, s.pmcAdd p r n = { s with pmc := m, out := l ++ s.out } := by
  simp only [State.pmcAdd]
  repeat' split
  all_goals first
    | exact ⟨_, [], rfl⟩
    | exact ⟨_, [_], rfl⟩

/-- Counting an event changes PMC registers and signals, and nothing else (R749, R752). -/
theorem count_frame (s : State) (e : PmcEv) : ∃ m l, s.count e = { s with pmc := m, out := l ++ s.out } := by
  unfold State.count
  generalize s.pmc = l0
  have key : ∀ (g : State → Reg × Word64 → State)
      (_ : ∀ t rv, ∃ m l, g t rv = { t with pmc := m, out := l ++ t.out }) (l : AMap Reg Word64) (t : State),
      ∃ m o, l.foldl g t = { t with pmc := m, out := o ++ t.out } := by
    intro g hg l
    induction l with
    | nil => exact fun t => ⟨t.pmc, [], rfl⟩
    | cons a l ih =>
      intro t
      obtain ⟨m, o, h⟩ := hg t a
      obtain ⟨m', o', h'⟩ := ih (g t a)
      rw [List.foldl_cons, h', h]
      exact ⟨m', o' ++ o, by simp⟩
  apply key
  intro t rv
  dsimp only
  split
  · split
    · exact pmcAdd_frame ..
    · exact ⟨t.pmc, [], rfl⟩
  · split
    · exact pmcAdd_frame ..
    · exact ⟨t.pmc, [], rfl⟩
  · exact ⟨t.pmc, [], rfl⟩

theorem State.Io.refl (s : State) : s.Io s := ⟨[], _, _, _, _, _, rfl⟩

theorem State.Io.trans {s t u : State} (h : s.Io t) (g : t.Io u) : s.Io u := by
  obtain ⟨l, m, a, b, d, e, rfl⟩ := h
  obtain ⟨l', m', a', b', d', e', rfl⟩ := g
  exact ⟨l' ++ l, m', a', b', d', e', by simp only [List.append_assoc]⟩

theorem io_put (s : State) (o : Out) : s.Io (s.put o) := ⟨[o], _, _, _, _, _, rfl⟩
theorem io_signal (s : State) (f : Fn) (v : Nat) : s.Io (s.signal f v) := ⟨[.msix f v], _, _, _, _, _, rfl⟩
theorem io_setSq (s : State) (f : Fn) (q : Nat) (x : Sq) : s.Io (s.setSq f q x) := ⟨[], _, _, _, _, _, rfl⟩
theorem io_setCq (s : State) (f : Fn) (q : Nat) (x : Cq) : s.Io (s.setCq f q x) := ⟨[], _, _, _, _, _, rfl⟩
theorem io_count (s : State) (e : PmcEv) : s.Io (s.count e) := by
  obtain ⟨m, o, h⟩ := count_frame s e
  rw [h]; exact ⟨o, _, _, _, _, _, rfl⟩
theorem io_sealed (s : State) (f : Fn) : s.Io (s.sealed f) := by
  simp only [State.sealed]
  repeat' split
  all_goals first
    | exact ⟨[], _, _, _, _, _, rfl⟩
    | exact ⟨[_], _, _, _, _, _, rfl⟩
theorem io_cqEvent (s : State) (f : Fn) (q : Nat) : s.Io (s.cqEvent f q) := by
  simp only [State.cqEvent]
  repeat' split
  all_goals first
    | exact ⟨[], _, _, _, _, _, rfl⟩
    | exact ⟨[_], _, _, _, _, _, rfl⟩
theorem io_buf (s : State) (f : Fn) (d : HostData) : s.Io (s.buf f d) := (io_put s _).trans (io_sealed _ f)

theorem io_writeCqe (s : State) (q : Nat) (c : Completion) : s.Io (s.writeCqe q c) := by
  simp only [State.writeCqe]
  split
  · refine State.Io.trans ?_ (io_cqEvent _ _ _)
    refine State.Io.trans ?_ (io_setCq _ _ _ _)
    refine State.Io.trans ?_ (io_sealed _ _)
    refine State.Io.trans ?_ (io_put _ _)
    split
    · split
      · exact State.Io.refl s
      · exact io_setSq ..
    · exact State.Io.refl s
  · exact State.Io.refl s

/-- Posting a completion to a queue. -/
theorem io_post (s : State) (c : Completion) (h : c.sq ≠ none) : s.Io (s.post c) := by
  have h0 : s.Io (if (c.notice || c.dup) = true then s else { s with arrived := dropOwner ⟨c.fn, c.sq, c.tag⟩ s.arrived }) := by
    split
    · exact State.Io.refl s
    · exact ⟨[], _, _, _, _, _, rfl⟩
  simp only [State.post]
  split
  · contradiction
  · refine h0.trans ?_
    generalize (if (c.notice || c.dup) = true then s else { s with arrived := dropOwner ⟨c.fn, c.sq, c.tag⟩ s.arrived }) = t
    split
    · exact State.Io.refl t
    · split
      · exact State.Io.refl t
      · split
        · split
          · exact State.Io.refl t
          · exact io_setSq ..
        · split
          · exact io_writeCqe ..
          · exact io_setCq ..

/-- Completing a command of a queue. -/
theorem io_complete (s : State) (u : Sub) (st : Status) (r n : Nat) (h : u.sq ≠ none) : s.Io (s.complete u st r n) :=
  io_post s _ h

theorem io_completeFor (s : State) (o : Owner) (st : Status) (r n : Nat) (h : o.sq ≠ none) :
    s.Io (s.completeFor o st r n) := io_post s _ h

-- What is written ---------------------------------------------------------------------------------------------------------------------

/-- Outputs are only ever added by a frame of inputs and outputs. -/
theorem State.Io.out {s t : State} (h : s.Io t) : ∃ l, t.out = l ++ s.out := by
  obtain ⟨l, _, _, _, _, _, rfl⟩ := h; exact ⟨l, rfl⟩

theorem State.Writes.of_put (s : State) (o : Out) : s.Writes (s.put o) o := ⟨[o], rfl, List.mem_singleton.2 rfl⟩

theorem State.Writes.mono {s t u : State} {o : Out} (h : s.Writes t o) (g : ∃ l, u.out = l ++ t.out) : s.Writes u o := by
  obtain ⟨l, hl, hm⟩ := h
  obtain ⟨l', hg⟩ := g
  exact ⟨l' ++ l, by rw [hg, hl, List.append_assoc], List.mem_append_right _ hm⟩

theorem State.Writes.after {s t u : State} {o : Out} (g : ∃ l, t.out = l ++ s.out) (h : t.Writes u o) : s.Writes u o := by
  obtain ⟨l, hl, hm⟩ := h
  obtain ⟨l', hg⟩ := g
  exact ⟨l ++ l', by rw [hl, hg, List.append_assoc], List.mem_append_left _ hm⟩

theorem writes_buf (s : State) (f : Fn) (d : HostData) : s.Writes (s.buf f d) (.data f d) :=
  (State.Writes.of_put s _).mono (io_sealed _ f).out

theorem writes_cqe (s : State) (q n : Nat) (c : Completion) (x : Cq) (hs : c.sq = some n) (hx : s.cq c.fn q = some x) :
    s.Writes (s.writeCqe q c) (.cqe c.fn q c (s.sqHead c.fn n) x.mark) := by
  unfold State.writeCqe
  simp only [hs, hx]
  refine State.Writes.mono ?_ (io_cqEvent _ _ _).out
  refine State.Writes.mono ?_ (io_setCq _ _ _ _).out
  refine State.Writes.mono ?_ (io_sealed _ _).out
  refine State.Writes.after ?_ (State.Writes.of_put _ _)
  split
  · split
    · exact ⟨[], rfl⟩
    · exact ⟨[], rfl⟩
  · exact ⟨[], rfl⟩

theorem writes_post (s : State) (c : Completion) (n : Nat) (hs : c.sq = some n) (ho : s.Open c.fn n) :
    ∃ q h m, s.Writes (s.post c) (.cqe c.fn q c h m) := by
  obtain ⟨y, x, hy, hx, hon, hr, hw⟩ := ho
  unfold State.post
  simp only [hs]
  generalize ht : (if (c.notice || c.dup) = true then s
    else { s with arrived := dropOwner ⟨c.fn, some n, c.tag⟩ s.arrived }) = t
  have h1 : t.sq c.fn n = some y := by rw [← ht]; split <;> exact hy
  have h2 : t.cq c.fn y.cq = some x := by rw [← ht]; split <;> exact hx
  have h3 : ∃ l, t.out = l ++ s.out := by rw [← ht]; split <;> exact ⟨[], rfl⟩
  rw [h1]; dsimp only; rw [h2]; dsimp only
  rw [if_neg (by simp [hon]), if_pos (by simp [hr, hw])]
  exact ⟨_, _, _, State.Writes.after h3 (writes_cqe t y.cq n c x hs h2)⟩

theorem posts_complete (s : State) (u : Sub) (n : Nat) (st : Status) (r k : Nat) (hs : u.sq = some n) (ho : s.Open u.fn n) :
    s.Posts (s.complete u st r k) u st r k := writes_post s _ n hs ho

end Sys2Proof.Machine
end

