-- ==== Sys2Proof/Laws/Regs.lean ====
section
/-!
SUPPORT. Bit fields and registers: a field read after a field was stored.
-/

namespace Sys2Proof.Machine

open Sys2Proof

theorem setBits_split (w hi lo v : Nat) (h : lo ≤ hi) :
    setBits w hi lo v = w / 2 ^ (hi + 1) * 2 ^ (hi + 1) + (v % 2 ^ (hi + 1 - lo)) * 2 ^ lo + w % 2 ^ lo := by
  have hp : (2 : Nat) ^ (hi + 1) = 2 ^ lo * 2 ^ (hi + 1 - lo) := by rw [← Nat.pow_add]; congr 1; omega
  have h1 : w = 2 ^ lo * (w / 2 ^ lo) + w % 2 ^ lo := (Nat.div_add_mod w (2 ^ lo)).symm
  have h2 : w / 2 ^ lo = 2 ^ (hi + 1 - lo) * (w / 2 ^ lo / 2 ^ (hi + 1 - lo)) + w / 2 ^ lo % 2 ^ (hi + 1 - lo) :=
    (Nat.div_add_mod _ _).symm
  have h3 : w / 2 ^ (hi + 1) = w / 2 ^ lo / 2 ^ (hi + 1 - lo) := by rw [Nat.div_div_eq_div_mul, hp]
  unfold setBits bitsOf
  rw [h3, hp]
  generalize w / 2 ^ lo / 2 ^ (hi + 1 - lo) = c at *
  generalize w / 2 ^ lo % 2 ^ (hi + 1 - lo) = b at *
  generalize w % 2 ^ lo = r at *
  have h4 : w = c * (2 ^ lo * 2 ^ (hi + 1 - lo)) + b * 2 ^ lo + r := by rw [h1, h2]; ring
  have h5 : w - b * 2 ^ lo = c * (2 ^ lo * 2 ^ (hi + 1 - lo)) + r := by omega
  rw [h5]; ring

theorem bitsOf_mod (x hi lo : Nat) (h : hi < 64) : bitsOf (x % 2 ^ 64) hi lo = bitsOf x hi lo := by
  unfold bitsOf
  rcases Nat.lt_or_ge hi lo with hl | hl
  · have : hi + 1 - lo = 0 := by omega
    simp [this, Nat.mod_one]
  · have h1 : (2 : Nat) ^ 64 = 2 ^ lo * 2 ^ (64 - lo) := by rw [← Nat.pow_add]; congr 1; omega
    rw [h1, Nat.mod_mul_right_div_self]
    apply Nat.mod_mod_of_dvd
    exact Nat.pow_dvd_pow 2 (by omega)

/-- A field reads as what was stored in it. -/
theorem bitsOf_setBits_same (w hi lo v : Nat) (h : lo ≤ hi) :
    bitsOf (setBits w hi lo v) hi lo = v % 2 ^ (hi + 1 - lo) := by
  rw [setBits_split w hi lo v h]
  have hp : (2 : Nat) ^ (hi + 1) = 2 ^ lo * 2 ^ (hi + 1 - lo) := by rw [← Nat.pow_add]; congr 1; omega
  have hr : w % 2 ^ lo < 2 ^ lo := Nat.mod_lt _ (Nat.two_pow_pos lo)
  unfold bitsOf
  rw [hp]
  have h1 : w / (2 ^ lo * 2 ^ (hi + 1 - lo)) * (2 ^ lo * 2 ^ (hi + 1 - lo)) + v % 2 ^ (hi + 1 - lo) * 2 ^ lo + w % 2 ^ lo
      = w % 2 ^ lo + 2 ^ lo * (v % 2 ^ (hi + 1 - lo) + 2 ^ (hi + 1 - lo) * (w / (2 ^ lo * 2 ^ (hi + 1 - lo)))) := by ring
  rw [h1, Nat.add_mul_div_left _ _ (Nat.two_pow_pos lo), Nat.div_eq_of_lt hr, Nat.zero_add, Nat.add_mul_mod_self_left,
    Nat.mod_mod]

/-- A field outside the bits stored reads as before. -/
theorem bitsOf_setBits_other (w hi lo v hi' lo' : Nat) (h : lo ≤ hi) (hd : hi < lo' ∨ hi' < lo) :
    bitsOf (setBits w hi lo v) hi' lo' = bitsOf w hi' lo' := by
  rw [setBits_split w hi lo v h]
  have hp : (2 : Nat) ^ (hi + 1) = 2 ^ lo * 2 ^ (hi + 1 - lo) := by rw [← Nat.pow_add]; congr 1; omega
  have hr : w % 2 ^ lo < 2 ^ lo := Nat.mod_lt _ (Nat.two_pow_pos lo)
  have hv : v % 2 ^ (hi + 1 - lo) < 2 ^ (hi + 1 - lo) := Nat.mod_lt _ (Nat.two_pow_pos _)
  unfold bitsOf
  rcases hd with hd | hd
  · have hq : (2 : Nat) ^ lo' = 2 ^ (hi + 1) * 2 ^ (lo' - (hi + 1)) := by rw [← Nat.pow_add]; congr 1; omega
    have hb : v % 2 ^ (hi + 1 - lo) * 2 ^ lo + w % 2 ^ lo < 2 ^ (hi + 1) := by
      have : (v % 2 ^ (hi + 1 - lo) + 1) * 2 ^ lo ≤ 2 ^ (hi + 1 - lo) * 2 ^ lo := Nat.mul_le_mul_right _ hv
      rw [hp, Nat.mul_comm (2 ^ lo)]; linarith
    have e : (w / 2 ^ (hi + 1) * 2 ^ (hi + 1) + v % 2 ^ (hi + 1 - lo) * 2 ^ lo + w % 2 ^ lo) / 2 ^ (hi + 1) = w / 2 ^ (hi + 1) := by
      rw [Nat.add_assoc, Nat.mul_comm (w / 2 ^ (hi + 1)), Nat.mul_add_div (Nat.two_pow_pos _), Nat.div_eq_of_lt hb, Nat.add_zero]
    rw [hq, ← Nat.div_div_eq_div_mul, ← Nat.div_div_eq_div_mul, e]
  · rcases Nat.lt_or_ge hi' lo' with hl | hl
    · have : hi' + 1 - lo' = 0 := by omega
      simp [this, Nat.mod_one]
    · have hq : (2 : Nat) ^ lo = 2 ^ lo' * 2 ^ (lo - lo') := by rw [← Nat.pow_add]; congr 1; omega
      have key : ∀ x : Nat, x / 2 ^ lo' % 2 ^ (hi' + 1 - lo') = x % 2 ^ lo / 2 ^ lo' % 2 ^ (hi' + 1 - lo') := by
        intro x
        rw [hq, Nat.mod_mul_right_div_self, Nat.mod_mod_of_dvd]
        exact Nat.pow_dvd_pow 2 (by omega)
      rw [key, key w]
      congr 2
      rw [hp, show w / (2 ^ lo * 2 ^ (hi + 1 - lo)) * (2 ^ lo * 2 ^ (hi + 1 - lo)) + v % 2 ^ (hi + 1 - lo) * 2 ^ lo + w % 2 ^ lo
        = w % 2 ^ lo + 2 ^ lo * (w / (2 ^ lo * 2 ^ (hi + 1 - lo)) * 2 ^ (hi + 1 - lo) + v % 2 ^ (hi + 1 - lo)) by ring,
        Nat.add_mul_mod_self_left, Nat.mod_mod]

-- Registers --------------------------------------------------------------------------------------------------------------------------

@[simp] theorem reg_setReg_same (s : State) (r : Reg) (v : Nat) : (s.setReg r v).reg r = v % 2 ^ 64 := by
  simp [State.reg, State.setReg]

theorem reg_setReg_other (s : State) {r r' : Reg} (v : Nat) (h : r' ≠ r) : (s.setReg r v).reg r' = s.reg r' := by
  simp [State.reg, State.setReg, AMap.get?_set_other _ _ h]

/-- A field of a register reads as what was stored in it. -/
theorem fld_setFld_same (s : State) (f : Field) (v i j : Nat) (hl : f.lo ≤ f.hi) (hh : f.hi < 64) :
    (s.setFld f v i j).fld f i j = v % 2 ^ (f.hi + 1 - f.lo) := by
  unfold State.fld State.setFld
  rw [reg_setReg_same, bitsOf_mod _ _ _ hh, bitsOf_setBits_same _ _ _ _ hl]

/-- A field of another register, or of other bits, reads as before. -/
theorem fld_setFld_other (s : State) (f g : Field) (v i j i' j' : Nat) (hl : f.lo ≤ f.hi) (hh : g.hi < 64)
    (hd : (⟨g.cls, i', j'⟩ : Reg) ≠ ⟨f.cls, i, j⟩ ∨ f.hi < g.lo ∨ g.hi < f.lo) :
    (s.setFld f v i j).fld g i' j' = s.fld g i' j' := by
  unfold State.fld State.setFld
  by_cases e : (⟨g.cls, i', j'⟩ : Reg) = ⟨f.cls, i, j⟩
  · rw [e, reg_setReg_same, bitsOf_mod _ _ _ hh, bitsOf_setBits_other _ _ _ _ _ _ hl (by tauto)]
  · rw [reg_setReg_other _ _ e]

/-- A field depends on the registers alone. -/
theorem fld_congr {s t : State} (h : t.regs = s.regs) (f : Field) (i j : Nat) : t.fld f i j = s.fld f i j := by
  simp only [State.fld, State.reg, h]

theorem flag_congr {s t : State} (h : t.regs = s.regs) (f : Field) (i j : Nat) : t.flag f i j = s.flag f i j := by
  simp only [State.flag, fld_congr h]

/-- A counter adds and wraps at its width. -/
theorem fld_bump (s : State) (f : Field) (i k : Nat) (hl : f.lo ≤ f.hi) (hh : f.hi < 64) :
    (s.bump f i k).fld f i = (s.fld f i + k) % 2 ^ (f.hi + 1 - f.lo) := fld_setFld_same s f _ i 0 hl hh

theorem fld_unset {t : State} {f : Field} {i j : Nat} (h : t.regs.get? ⟨f.cls, i, j⟩ = none) : t.fld f i j = bitsOf f.cls.reset f.hi f.lo := by
  unfold State.fld State.reg
  rw [h]

theorem modPort_some {s : State} {n : Nat} {x : Port} (h : s.ports.get? n = some x) (f : Port → Port) :
    s.modPort n f = { s with ports := s.ports.set n (f x) } := by
  unfold State.modPort; rw [AMap.modify_some h]

/-- HIF_ERR names the queue of an error. -/
theorem hifErr_spec (s : State) (f : Fn) (b : Field) (q : Nat) (hb : b = Fld.HIF_ERR_DB_ERR ∨ b = Fld.HIF_ERR_CFG_ERR ∨ b = Fld.HIF_ERR_DMA_ERR) (hq : q < 64) :
    (s.hifErr f b q).flag b f.index = true ∧ (s.hifErr f b q).fld Fld.HIF_ERR_QUEUE f.index = q ∧
    s.hifErr f b q = { s with regs := (s.hifErr f b q).regs } := by
  have hlo : b.lo ≤ b.hi ∧ b.hi < 64 ∧ b.cls = .hifErr ∧ b.hi < 16 ∧ b.hi = b.lo := by rcases hb with rfl | rfl | rfl <;> decide
  refine ⟨?_, ?_, rfl⟩
  · unfold State.hifErr State.flag
    rw [fld_setFld_other _ _ _ _ _ _ _ _ (by decide) hlo.2.1 (.inr (.inr (by show _ < 16; exact hlo.2.2.2.1)))]
    rw [fld_setFld_same _ _ _ _ _ hlo.1 hlo.2.1, hlo.2.2.2.2]
    have : b.lo + 1 - b.lo = 1 := by omega
    rw [this]; rfl
  · unfold State.hifErr
    rw [fld_setFld_same _ _ _ _ _ (by decide) (by decide)]
    show q % 2 ^ 6 = q
    omega

-- Bits -------------------------------------------------------------------------------------------------------------------------------

theorem bitOf_testBit (w i : Nat) : bitOf w i = w.testBit i := by
  rw [bitOf, Nat.testBit_eq_decide_div_mod_eq]
  exact Bool.beq_eq_decide_eq _ _

theorem testBit_bitsOf (w hi lo i : Nat) : (bitsOf w hi lo).testBit i = (decide (i < hi + 1 - lo) && w.testBit (lo + i)) := by
  unfold bitsOf
  rw [Nat.testBit_mod_two_pow, Nat.testBit_div_two_pow, Nat.add_comm i lo]

/-- A bit of a register after a write. -/
theorem bitOf_written (c : RegClass) (old v lanes n : Nat) : bitOf (c.written old v lanes) n =
    Bool.xor (if (c.writable .rw).testBit n && lanes.testBit n then bitOf v n else bitOf old n)
      ((c.writable .w1c).testBit n && lanes.testBit n && bitOf v n && bitOf old n) := by
  unfold RegClass.written
  simp only [bitOf_testBit, Nat.testBit_xor, Nat.testBit_and]
  cases (c.writable .rw).testBit n <;> cases lanes.testBit n <;> cases v.testBit n <;> cases old.testBit n <;> simp

theorem bitsOf_congr {w v hi lo : Nat} (h : ∀ i, lo ≤ i → i ≤ hi → bitOf w i = bitOf v i) : bitsOf w hi lo = bitsOf v hi lo := by
  apply Nat.eq_of_testBit_eq
  intro i
  rw [testBit_bitsOf, testBit_bitsOf]
  by_cases g : i < hi + 1 - lo
  · have := h (lo + i) (by omega) (by omega)
    rw [bitOf_testBit, bitOf_testBit] at this
    rw [this]
  · simp [g]

end Sys2Proof.Machine
end

