-- ==== Sys2Proof/Laws/Bonds.lean ====
section
/-!
SUPPORT. What bonds change.
-/

namespace Sys2Proof.Machine

open Sys2Proof

/-- `t` is `s` but for what opening, committing or aborting a bond changes beside the list of open bonds: the next journal sequence
number, registers, counters and outputs. -/
def State.Bnd (s t : State) : Prop := ∃ n r m l, t = { s with nextSeq := n, regs := r, pmc := m, out := l ++ s.out }

theorem State.Bnd.refl (s : State) : s.Bnd s := ⟨s.nextSeq, s.regs, s.pmc, [], rfl⟩

theorem State.Bnd.trans {s t u : State} (h : s.Bnd t) (g : t.Bnd u) : s.Bnd u := by
  obtain ⟨n, r, m, l, rfl⟩ := h
  obtain ⟨n', r', m', l', rfl⟩ := g
  exact ⟨n', r', m', l' ++ l, by simp [List.append_assoc]⟩

theorem bnd_setFld (s : State) (f : Field) (v i j : Nat) : s.Bnd (s.setFld f v i j) := ⟨s.nextSeq, _, s.pmc, [], rfl⟩

theorem bnd_bump (s : State) (f : Field) (i n : Nat) : s.Bnd (s.bump f i n) := bnd_setFld ..

theorem bnd_count (s : State) (e : PmcEv) : s.Bnd (s.count e) := by
  obtain ⟨m, l, h⟩ := count_frame s e
  rw [h]; exact ⟨s.nextSeq, s.regs, m, l, rfl⟩

theorem bnd_takeBond (s : State) (p : Nat) : s.Bnd (s.takeBond p) := ⟨s.nextSeq + 1, _, s.pmc, [], rfl⟩

theorem bnd_countCommit (s : State) (p : Nat) : s.Bnd (s.countCommit p) := (bnd_bump ..).trans (bnd_count ..)

theorem bnd_room (s : State) (p : Nat) : s.Bnd (if s.bondRoom p then s else s.bump Fld.BND_SLOT_WAITS_COUNT p) := by
  split
  · exact .refl s
  · exact bnd_bump ..

theorem bnd_bondOnce (s : State) (p : Nat) : s.Bnd (s.bondOnce p) :=
  (bnd_room s p).trans ((bnd_takeBond _ p).trans (bnd_countCommit _ p))

/-- Opening a bond adds it to the open ones, with the next identifier of its partition; a sequence number and registers change besides. -/
theorem openBond_spec (s : State) (p : Nat) (kind : BondKind) (slot : Nat) (o : Option Owner) (quarry : Bool) (arg : Nat) :
    ∃ b n r, s.openBond p kind slot o quarry arg = (s.nextBond p, { s with nextSeq := n, regs := r, bonds := s.bonds ++ [b] }) ∧
      b.id = s.nextBond p ∧ b.kind = kind ∧ b.slot = slot ∧ b.part = p ∧ b.arg = arg ∧ b.quarry = quarry ∧ b.actions = [] := by
  unfold State.openBond
  dsimp only
  by_cases h : s.bondRoom p = true
  · rw [if_pos h]; exact ⟨_, _, _, rfl, rfl, rfl, rfl, rfl, rfl, rfl, rfl⟩
  · rw [if_neg h]; exact ⟨_, _, _, rfl, rfl, rfl, rfl, rfl, rfl, rfl, rfl⟩

theorem bnd_recordBond (s : State) (slot : Nat) : s.Bnd (s.recordBond slot) := bnd_bondOnce ..

/-- What staging the actions of an open bond changes. -/
@[simp] theorem stageActs_nil (s : State) (p id : Nat) (l : List ActRec) (h : s.bonds = []) : s.stageActs p id l = s := by
  unfold State.stageActs; rw [h]; cases s; cases h; rfl

/-- A calm device stays calm when a bond opens, commits or aborts. -/
theorem State.Calm.of_bnd {s t : State} (h : s.Calm) (g : s.Bnd t) : t.Calm := by
  obtain ⟨n, r, m, l, rfl⟩ := g
  exact ⟨h.1, h.2, h.3, h.4, h.5, h.6, h.7, h.8⟩

end Sys2Proof.Machine
end

