-- ==== Sys2Proof/Laws/Alloc.lean ====
section
/-!
SUPPORT. Allocation does not look at queues, counters and outputs: it commutes with what a fetch changes.
-/

namespace Sys2Proof.Machine

open Sys2Proof

/-- `s` with other outputs, counters, queues, bounce counters and arrivals. -/
def State.io (s : State) (l : List Out) (m : AMap Reg Word64) (a : AMap (Nat × Nat) Sq) (b : AMap (Nat × Nat) Cq) (d : AMap Nat Bounce) (e : List Owner) : State :=
  { s with out := l, pmc := m, sqs := a, cqs := b, bounce := d, arrived := e }

variable (s : State) (l : List Out) (m : AMap Reg Word64) (a : AMap (Nat × Nat) Sq) (b : AMap (Nat × Nat) Cq) (d : AMap Nat Bounce) (e : List Owner)

theorem allocTile_io (p : Nat) (f : Frame) :
    (s.io l m a b d e).allocTile p f = (s.allocTile p f).map (fun x => (x.1, x.2.io l m a b d e)) := by
  unfold State.allocTile
  have h1 : (s.io l m a b d e).tileFirst p = s.tileFirst p := rfl
  have h2 : (s.io l m a b d e).tileCount p = s.tileCount p := rfl
  rw [h1, h2]
  show (match findFree s.tileFrames (s.tileFirst p) (s.tileCount p) (Config.pick s.freeCtr) (s.tileFrames.length + 1) with | some n => _ | none => _) = _
  cases findFree s.tileFrames (s.tileFirst p) (s.tileCount p) (Config.pick s.freeCtr) (s.tileFrames.length + 1) with
  | some n => rfl
  | none =>
    show (match findZeroing s.tileFrames (s.tileFirst p) (s.tileCount p) with | some n => _ | none => _) = _
    cases findZeroing s.tileFrames (s.tileFirst p) (s.tileCount p) <;> rfl

theorem allocMor_io (p : Nat) (f : Frame) :
    (s.io l m a b d e).allocMor p f = (s.allocMor p f).map (fun x => (x.1, x.2.io l m a b d e)) := by
  unfold State.allocMor
  have h1 : (s.io l m a b d e).morFirst p = s.morFirst p := rfl
  have h2 : (s.io l m a b d e).morCount p = s.morCount p := rfl
  rw [h1, h2]
  show (match findFree s.mortarFrames (s.morFirst p) (s.morCount p) (Config.pick s.freeCtr) (s.mortarFrames.length + 1) with | some n => _ | none => _) = _
  cases findFree s.mortarFrames (s.morFirst p) (s.morCount p) (Config.pick s.freeCtr) (s.mortarFrames.length + 1) with
  | some n => rfl
  | none =>
    show (match findZeroing s.mortarFrames (s.morFirst p) (s.morCount p) with | some n => _ | none => _) = _
    cases findZeroing s.mortarFrames (s.morFirst p) (s.morCount p) <;> rfl

theorem allocMors_io (p : Nat) (f : Frame) (n : Nat) : ∀ s : State,
    (s.io l m a b d e).allocMors p f n = (s.allocMors p f n).map (fun x => (x.1, x.2.io l m a b d e)) := by
  induction n with
  | zero => intro s; rfl
  | succ n ih =>
    intro s
    unfold State.allocMors
    rw [allocMor_io]
    cases s.allocMor p f with
    | none => rfl
    | some x =>
      obtain ⟨k, t⟩ := x
      show (match (t.io l m a b d e).allocMors p f n with | none => _ | some (as, s2) => _) = _
      rw [ih]
      show _ = Option.map _ (match t.allocMors p f n with | none => _ | some (as, s2) => _)
      cases t.allocMors p f n <;> rfl

theorem addPages_io (p o : Nat) (ks : List Nat) : ∀ (s : State) (pg : AMap Nat PagePtr),
    (s.io l m a b d e).addPages p o ks pg = (s.addPages p o ks pg).map (fun x => (x.1, x.2.io l m a b d e)) := by
  induction ks with
  | nil => intro s pg; rfl
  | cons k r ih =>
    intro s pg
    unfold State.addPages
    rw [allocMor_io]
    cases s.allocMor p _ with
    | none => rfl
    | some x => exact ih x.2 _

theorem growMortar_io (p o : Nat) (mo : Mortar) (es : List Nat) :
    (s.io l m a b d e).growMortar p o mo es = (s.growMortar p o mo es).map (fun x => (x.1, x.2.io l m a b d e)) := by
  unfold State.growMortar
  dsimp only
  rw [addPages_io]
  cases s.addPages p o _ _ with
  | none => rfl
  | some x =>
    obtain ⟨ix, t⟩ := x
    dsimp only [Option.map]
    rw [addPages_io]
    cases t.addPages p o _ _ <;> rfl

theorem wake_io (n k : Nat) : (s.io l m a b d e).wake n k = (s.wake n k).io l m a b d e := by
  unfold State.wake
  show (if s.selfRefresh.isEmpty then _ else _) = State.io (if s.selfRefresh.isEmpty then _ else _) l m a b d e
  split <;> rfl

theorem setPoison_io (lc : TileLoc) (ls : List Nat) : (s.io l m a b d e).setPoison lc ls = (s.setPoison lc ls).io l m a b d e := by
  cases lc <;> rfl

theorem wakeTile_io (n : Nat) : (s.io l m a b d e).wakeTile n = (s.wakeTile n).io l m a b d e := by
  unfold State.wakeTile
  rw [show (s.io l m a b d e).wake _ _ = _ from wake_io s l m a b d e _ _]
  exact wake_io _ l m a b d e _ _

theorem putTile_io (lc : TileLoc) (t : Tile) : (s.io l m a b d e).putTile lc t = (s.putTile lc t).io l m a b d e := by
  cases lc with
  | frame n =>
    show ({ s with tiles := s.tiles.set (.frame n) t }.io l m a b d e |>.setPoison (.frame n) [] |>.wakeTile n) = _
    rw [setPoison_io, wakeTile_io]; rfl
  | _ => rfl

/-- Copying a tile changes nothing of what a fetch changes. -/
theorem copyTile_io (x y : TileLoc) (t : Tile) : (s.io l m a b d e).copyTile x y t = (s.copyTile x y t).io l m a b d e := by
  unfold State.copyTile
  rw [putTile_io]
  have h : (s.io l m a b d e).poisonAt x = s.poisonAt x := by cases x <;> rfl
  rw [h, setPoison_io]

theorem shareTile_io (p id : Nat) (x : MEntry) :
    (s.io l m a b d e).shareTile p id x = (s.shareTile p id x).map (fun x => (x.1, x.2.io l m a b d e)) := by
  unfold State.shareTile
  split
  · unfold State.addRef
    show some (x, match s.tileFrames.get? x.frame with | none => _ | some f => _) = Option.map _ (some (x, match s.tileFrames.get? x.frame with | none => _ | some f => _))
    cases s.tileFrames.get? x.frame with
    | none => rfl
    | some f => dsimp only; split <;> rfl
  · have ht : (s.io l m a b d e).tileAt x = s.tileAt x := rfl
    rw [ht]
    dsimp only
    cases x.loc with
    | none => rfl
    | some lc =>
      cases s.tileAt x with
      | none => cases lc <;> rfl
      | some t =>
        cases lc with
        | store c o =>
          dsimp only
          rw [allocTile_io]
          cases s.allocTile p _ with
          | none => rfl
          | some y => dsimp only [Option.map]; rw [copyTile_io]; rfl
        | frame n =>
          have hp : (s.io l m a b d e).poisonAt (.frame n) = s.poisonAt (.frame n) := rfl
          show some (_, ((State.io { s with tileFrames := s.tileFrames.set n ⟨p, .shared, 1, id, []⟩ } l m a b d e).putTile _ _).setPoison _
            ((s.io l m a b d e).poisonAt (.frame n))) = some (_, State.io _ l m a b d e)
          rw [hp, putTile_io, setPoison_io]
        | quarry n => rfl

theorem shareTiles_io (p id : Nat) (es : List (Nat × MEntry)) : ∀ (s : State) (mm : AMap Nat MEntry),
    (s.io l m a b d e).shareTiles p id es mm = (s.shareTiles p id es mm).map (fun x => (x.1, x.2.io l m a b d e)) := by
  induction es with
  | nil => intro s mm; rfl
  | cons x r ih =>
    intro s mm
    unfold State.shareTiles
    rw [shareTile_io]
    cases s.shareTile p id x.2 with
    | none => rfl
    | some y => exact ih y.2 _

theorem cutTiles_io (p id n : Nat) (es : List (Nat × MEntry)) : ∀ (s : State) (mm : AMap Nat MEntry),
    (s.io l m a b d e).cutTiles p id n es mm = (s.cutTiles p id n es mm).map (fun x => (x.1, x.2.io l m a b d e)) := by
  induction es with
  | nil => intro s mm; rfl
  | cons x r ih =>
    intro s mm
    unfold State.cutTiles
    have ht : (s.io l m a b d e).tileAt x.2 = s.tileAt x.2 := rfl
    rw [ht, allocTile_io]
    cases x.2.loc with
    | none => cases s.tileAt x.2 <;> cases s.allocTile p _ <;> rfl
    | some lc =>
      cases s.tileAt x.2 with
      | none => cases s.allocTile p _ <;> rfl
      | some t =>
        cases s.allocTile p _ with
        | none => rfl
        | some y =>
          dsimp only [Option.map]
          rw [copyTile_io]
          exact ih _ _

/-- `t` is `s` but for what allocating frames and writing tiles into them changes: what `State.Fr` names, and the sub-channels that the
accesses wake (R397). -/
def State.Fw (s t : State) : Prop :=
  ∃ a b c r n l, t = { s with tileFrames := a, mortarFrames := b, tiles := c, regs := r, freeCtr := n, selfRefresh := l }

theorem State.Fw.trans {s t u : State} (h : s.Fw t) (g : t.Fw u) : s.Fw u := by
  obtain ⟨a, b, c, r, n, l, rfl⟩ := h
  obtain ⟨a', b', c', r', n', l', rfl⟩ := g
  exact ⟨a', b', c', r', n', l', rfl⟩

theorem State.Fr.fw {s t : State} (h : s.Fr t) : s.Fw t := by
  obtain ⟨a, b, c, r, n, rfl⟩ := h
  exact ⟨a, b, c, r, n, s.selfRefresh, rfl⟩

theorem State.Fw.tiles {s t : State} (h : s.Fw t) (m : AMap TileLoc Tile) : s.Fw { t with tiles := m } := by
  obtain ⟨a, b, c, r, n, l, rfl⟩ := h
  exact ⟨a, b, m, r, n, l, rfl⟩

/-- An access to a tile frame wakes its sub-channels and changes nothing else (R397). -/
theorem wakeTile_frame (s : State) (n : Nat) : ∃ l, s.wakeTile n = { s with selfRefresh := l } := by
  have h (t : State) (a k : Nat) : ∃ l, t.wake a k = { t with selfRefresh := l } := by
    unfold State.wake; split <;> exact ⟨_, rfl⟩
  unfold State.wakeTile
  obtain ⟨l, h1⟩ := h s _ _
  rw [h1]
  obtain ⟨l', h2⟩ := h { s with selfRefresh := l } _ _
  exact ⟨l', h2⟩

/-- Writing a tile into a frame, with what poison it brings. -/
theorem fw_putTile (s : State) (n : Nat) (t : Tile) : s.Fw (s.putTile (.frame n) t) := by
  obtain ⟨l, h⟩ := wakeTile_frame (State.setPoison { s with tiles := s.tiles.set (.frame n) t } (.frame n) []) n
  exact ⟨_, s.mortarFrames, _, s.regs, s.freeCtr, l, h⟩

theorem fw_setPoison (s : State) (n : Nat) (ls : List Nat) : s.Fw (s.setPoison (.frame n) ls) :=
  ⟨_, s.mortarFrames, s.tiles, s.regs, s.freeCtr, s.selfRefresh, rfl⟩

theorem fw_copyTile (s : State) (x : TileLoc) (n : Nat) (t : Tile) : s.Fw (s.copyTile x (.frame n) t) :=
  (fw_putTile s n t).trans (fw_setPoison _ n _)

/-- What making tiles SHARED and copying them changes. -/
theorem fw_shareTile {s t : State} {p id : Nat} {x y : MEntry} (h : s.shareTile p id x = some (y, t)) : s.Fw t := by
  unfold State.shareTile at h
  split at h
  · cases h; exact (fr_addRef ..).fw
  · dsimp only at h
    split at h
    · split at h
      · cases h
      · next n s1 ha =>
        cases h
        exact (fr_allocTile ha).1.fw.trans ((fw_copyTile s1 _ n _).tiles _)
    · cases h
      exact (State.Fr.fw ⟨_, s.mortarFrames, s.tiles, s.regs, s.freeCtr, rfl⟩).trans ((fw_putTile ..).trans (fw_setPoison ..))
    · cases h

theorem fw_shareTiles {p id : Nat} (es : List (Nat × MEntry)) : ∀ {s t : State} {mm m' : AMap Nat MEntry},
    s.shareTiles p id es mm = some (m', t) → s.Fw t := by
  induction es with
  | nil => intro s t mm m' h; cases h; exact (State.Fr.refl _).fw
  | cons x r ih =>
    intro s t mm m' h
    unfold State.shareTiles at h
    split at h
    · cases h
    · next y s1 h1 => exact (fw_shareTile h1).trans (ih h)

theorem fw_cutTiles {p id n : Nat} (es : List (Nat × MEntry)) : ∀ {s t : State} {mm m' : AMap Nat MEntry},
    s.cutTiles p id n es mm = some (m', t) → s.Fw t := by
  induction es with
  | nil => intro s t mm m' h; cases h; exact (State.Fr.refl _).fw
  | cons x r ih =>
    intro s t mm m' h
    unfold State.cutTiles at h
    split at h
    · next u f s1 h0 h1 =>
      exact (fr_allocTile h1).1.fw.trans ((fw_copyTile ..).trans (ih h))
    · cases h

end Sys2Proof.Machine
end

