-- ==== Sys2Proof/Laws/Settle.lean ====
section
/-!
SUPPORT. What follows a command in a calm device: nothing.
-/

namespace Sys2Proof.Machine

open Sys2Proof

theorem waitingCount_calm {s : State} (h : s.Calm) : s.waitingCount = 0 := by
  unfold State.waitingCount
  rw [List.sum_eq_zero]
  intro x hx
  obtain ⟨kv, hk, rfl⟩ := List.mem_map.1 hx
  simp [h.waiting kv hk]

@[simp] theorem startAll_calm {s : State} (h : s.Calm) : s.startAll = s := by
  rw [State.startAll, waitingCount_calm h, State.startWaiting]

theorem pruneMaps_calm {s : State} (h : s.Calm) : s.pruneMaps = s := by
  have hf : s.comps.filter (fun kv => !(kv.2.removing && s.compIdle kv.2)) = s.comps := by
    rw [List.filter_eq_self]; intro kv hk; simp [(h.maps kv hk).1]
  have hm : s.comps.map (fun (kv : Nat × Comp) =>
      (kv.1, { kv.2 with old := kv.2.old.filter (fun m => s.mapUsed kv.2.id m.epoch) })) = s.comps := by
    conv => rhs; rw [← List.map_id s.comps]
    apply List.map_congr_left
    intro kv hk
    obtain ⟨a, c⟩ := kv
    have ho : c.old = [] := (h.maps _ hk).2
    have hc : ({ c with old := [] } : Comp) = c := by rw [← ho]
    simp only [ho, List.filter_nil, hc, id]
  unfold State.pruneMaps
  simp only [hf, hm]

theorem goPartitions_calm {s : State} (h : s.Calm) : s.goPartitions = s := by
  have hr : ∀ t : State, t.removeWait = [] → t.runRemovals = t := by
    intro t ht
    have : ({ t with removeWait := [] } : State) = t := by rw [← ht]
    simp only [State.runRemovals, ht, List.filter_nil, List.foldl_nil, this]
  simp only [State.goPartitions, h.resets, List.foldl_nil, h.removals]
  exact hr s h.removes

theorem goRestart_calm {s : State} (h : s.Calm) : s.goRestart = s := by
  simp only [State.goRestart, h.restart]

/-- In a calm device nothing follows a command's own effect. -/
@[simp] theorem settle_calm {s : State} (h : s.Calm) : s.settle = s := by
  simp only [State.settle, startAll_calm h, h.queue, List.length_nil, State.ckpQueue, h.pulls, List.foldl_nil,
    pruneMaps_calm h, goPartitions_calm h, goRestart_calm h]
  rfl

/-- Where only resets and removals are under way, they go on after a command and nothing else follows. -/
theorem settle_parts {t : State} (h1 : ∀ kv ∈ t.sessions, kv.2.waiting = []) (h2 : t.ckp.queue = []) (h3 : t.movesIn = [])
    (h4 : ∀ kv ∈ t.comps, kv.2.removing = false ∧ kv.2.old = []) : t.settle = t.kept t.goPartitions.goRestart := by
  have hs : t.startAll = t := by
    have : t.waitingCount = 0 := by
      unfold State.waitingCount
      rw [List.sum_eq_zero]
      intro x hx
      obtain ⟨kv, hk, rfl⟩ := List.mem_map.1 hx
      simp [h1 kv hk]
    rw [State.startAll, this, State.startWaiting]
  have hp : t.pruneMaps = t := by
    have hf : t.comps.filter (fun kv => !(kv.2.removing && t.compIdle kv.2)) = t.comps := by
      rw [List.filter_eq_self]; intro kv hk; simp [(h4 kv hk).1]
    have hm : t.comps.map (fun (kv : Nat × Comp) =>
        (kv.1, { kv.2 with old := kv.2.old.filter (fun m => t.mapUsed kv.2.id m.epoch) })) = t.comps := by
      conv => rhs; rw [← List.map_id t.comps]
      apply List.map_congr_left
      intro kv hk
      obtain ⟨a, c⟩ := kv
      have ho : c.old = [] := (h4 _ hk).2
      have hc : ({ c with old := [] } : Comp) = c := by rw [← ho]
      simp only [ho, List.filter_nil, hc, id]
    unfold State.pruneMaps
    simp only [hf, hm]
  simp only [State.settle, hs, h2, List.length_nil, State.ckpQueue, h3, List.foldl_nil, hp]

theorem next_event_parts {s t u : State} {f : State → State} (hw : s.awake = true) (h : f s = t)
    (h1 : ∀ kv ∈ t.sessions, kv.2.waiting = []) (h2 : t.ckp.queue = []) (h3 : t.movesIn = [])
    (h4 : ∀ kv ∈ t.comps, kv.2.removing = false ∧ kv.2.old = []) (hg : (s.kept t).goPartitions = u) (hr : u.boot.restart = none) :
    (Host.Outcome.next (s.event f) : Host.Outcome State Fault Refusal) = .next (s.kept u) := by
  rw [State.event, if_pos hw, h, settle_parts (t := s.kept t) h1 h2 h3 h4, hg]
  simp only [State.goRestart, hr]
  rfl

theorem next_always_parts {s t u : State} {f : State → State} (h : f s = t)
    (h1 : ∀ kv ∈ t.sessions, kv.2.waiting = []) (h2 : t.ckp.queue = []) (h3 : t.movesIn = [])
    (h4 : ∀ kv ∈ t.comps, kv.2.removing = false ∧ kv.2.old = []) (hg : (s.kept t).goPartitions = u) (hr : u.boot.restart = none) :
    (Host.Outcome.next (s.always f) : Host.Outcome State Fault Refusal) = .next (s.kept u) := by
  rw [State.always, h, settle_parts (t := s.kept t) h1 h2 h3 h4, hg]
  simp only [State.goRestart, hr]
  rfl

/-- A reset that waits for its cores stays where it is. -/
theorem goPartitions_reset {t u : State} {p : Nat} {r : ResetRun} (h : t.resets = [(p, r)]) (hg : t.goReset p = u)
    (hm : u.removals = []) (hw : u.removeWait = []) : t.goPartitions = u := by
  unfold State.goPartitions
  simp only [h, List.foldl_cons, List.foldl_nil, hg, hm]
  unfold State.runRemovals
  have : ({ u with removeWait := [] } : State) = u := by rw [← hw]
  simp only [hw, List.filter_nil, List.foldl_nil, this]

theorem goPartitions_removal {t u : State} {p : Nat} {r : Removal} (h : t.removals = [(p, r)]) (hr : t.resets = [])
    (hg : t.goRemoval p 8 = u) (hw : u.removeWait = []) : t.goPartitions = u := by
  unfold State.goPartitions
  simp only [hr, h, List.foldl_cons, List.foldl_nil, hg]
  unfold State.runRemovals
  have : ({ u with removeWait := [] } : State) = u := by rw [← hw]
  simp only [hw, List.filter_nil, List.foldl_nil, this]

theorem State.Calm.kept {s t : State} (h : t.Calm) : (s.kept t).Calm := ⟨h.1, h.2, h.3, h.4, h.5, h.6, h.7, h.8⟩

/-- What a frame of inputs and outputs leaves calm. -/
theorem State.Calm.io {s t : State} (h : s.Calm) (g : s.Io t) : t.Calm := by
  obtain ⟨_, _, _, _, _, _, rfl⟩ := g
  exact ⟨h.1, h.2, h.3, h.4, h.5, h.6, h.7, h.8⟩

theorem State.Calm.stays {s : State} (h : s.Calm) : s.Stays := by
  refine ⟨⟨h.1, h.2, h.3, h.4, rfl, rfl, h.7, h.8⟩, ?_, ?_⟩
  · rw [h.resets]; exact fun _ k => (List.not_mem_nil k).elim
  · rw [h.removals]; exact fun _ k => (List.not_mem_nil k).elim

theorem State.Stays.io {s t : State} (h : s.Stays) (g : s.Io t) : t.Stays := by
  obtain ⟨_, _, _, _, _, _, rfl⟩ := g
  exact ⟨⟨h.1.1, h.1.2, h.1.3, h.1.4, rfl, rfl, h.1.7, h.1.8⟩, h.2, h.3⟩

theorem State.Stays.kept {s t : State} (h : t.Stays) : (s.kept t).Stays :=
  ⟨⟨h.1.1, h.1.2, h.1.3, h.1.4, rfl, rfl, h.1.7, h.1.8⟩, h.2, h.3⟩

theorem goReset_stays {s : State} (h : ∀ kv ∈ s.resets, kv.2.order = 6) (p : Nat) : s.goReset p = s := by
  unfold State.goReset
  cases hg : s.resets.get? p with
  | none => rfl
  | some r =>
    have ho : r.order = 6 := h _ (AMap.mem_of_get? hg)
    simp [ho, hg]

theorem goRemoval_stays {s : State} (h : ∀ kv ∈ s.removals, kv.2.order = 1 ∧ kv.2.cores ≠ []) (p n : Nat) : s.goRemoval p n = s := by
  induction n with
  | zero => rfl
  | succ k ih =>
    unfold State.goRemoval
    cases hg : s.removals.get? p with
    | none => rfl
    | some r =>
      have ho : r.order = 1 := (h _ (AMap.mem_of_get? hg)).1
      have hc : r.cores ≠ [] := (h _ (AMap.mem_of_get? hg)).2
      have : s.removeStep r = s := by simp [State.removeStep, ho, hc]
      dsimp only
      rw [this, ih]

/-- Resets and removals that wait for their cores stay where they are: nothing follows a command. -/
theorem settle_stays {s : State} (h : s.Stays) : s.settle = s := by
  have hr : ∀ l : List (Nat × ResetRun), l.foldl (fun (a : State) kv => a.goReset kv.1) s = s := by
    intro l
    induction l with
    | nil => rfl
    | cons a l ih => rw [List.foldl_cons, goReset_stays h.2, ih]
  have hm : ∀ l : List (Nat × Removal), l.foldl (fun (a : State) kv => a.goRemoval kv.1 8) s = s := by
    intro l
    induction l with
    | nil => rfl
    | cons a l ih => rw [List.foldl_cons, goRemoval_stays h.3, ih]
  have hw : s.removeWait = [] := h.1.7
  have hw2 : ({ s with removeWait := [] } : State) = s := by rw [← hw]
  rw [settle_parts (t := s) h.1.1 h.1.2 h.1.3 h.1.4]
  have hg : s.goPartitions = s := by
    simp only [State.goPartitions, hr, hm, State.runRemovals, hw, List.filter_nil, List.foldl_nil, hw2]
  have hb : s.boot.restart = none := h.1.8
  rw [hg]
  simp only [State.goRestart, hb]
  rfl

/-- A command that leaves the device calm has its own effect and no other. -/
theorem always_calm {s : State} {f : State → State} (h : (f s).Calm) : s.always f = s.kept (f s) := by
  rw [State.always, settle_calm h.kept]

theorem event_calm {s : State} {f : State → State} (hw : s.awake = true) (h : (f s).Calm) :
    s.event f = s.kept (f s) := by
  rw [State.event, if_pos hw, settle_calm h.kept]

theorem flashing_calm {s : State} {f : State → State} (h : (f s).Calm) :
    s.flashing f = { f s with pending := s.pending } := by
  rw [State.flashing, settle_calm]
  exact ⟨h.1, h.2, h.3, h.4, h.5, h.6, h.7, h.8⟩

/-- The answer of a command whose own effect leaves the device calm. -/
theorem next_always {s t : State} {f : State → State} (h : f s = t) (hc : t.Calm) :
    (Host.Outcome.next (s.always f) : Host.Outcome State Fault Refusal) = .next (s.kept t) := by
  subst h; rw [always_calm hc]

theorem next_event {s t : State} {f : State → State} (hw : s.awake = true) (h : f s = t) (hc : t.Calm) :
    (Host.Outcome.next (s.event f) : Host.Outcome State Fault Refusal) = .next (s.kept t) := by
  subst h; rw [event_calm hw hc]

theorem next_flashing {s t : State} {f : State → State} (h : f s = t) (hc : t.Calm) :
    (Host.Outcome.next (s.flashing f) : Host.Outcome State Fault Refusal) = .next { t with pending := s.pending } := by
  subst h; rw [flashing_calm hc]

/-- Only the fields that say what waits or goes on decide whether a device is calm. -/
theorem State.Calm.of_eq {s t : State} (h : s.Calm) (h1 : t.sessions = s.sessions) (h2 : t.ckp = s.ckp)
    (h3 : t.movesIn = s.movesIn) (h4 : t.comps = s.comps) (h5 : t.resets = s.resets) (h6 : t.removals = s.removals)
    (h7 : t.removeWait = s.removeWait) (h8 : t.boot.restart = s.boot.restart) : t.Calm :=
  ⟨h1 ▸ h.1, h2 ▸ h.2, h3 ▸ h.3, h4 ▸ h.4, h5 ▸ h.5, h6 ▸ h.6, h7 ▸ h.7, h8 ▸ h.8⟩

end Sys2Proof.Machine
end

