-- ==== Sys2Proof/Laws/Messages.lean ====
section
/-!
SUPPORT. What sending and receiving messages changes.
-/

namespace Sys2Proof.Machine

open Sys2Proof

/-- A message that enters the queues of a port that is up. -/
theorem says_enqueue {s : State} {n : Nat} {x : Port} (hx : s.ports.get? n = some x) (hu : x.up = true) (m : Msg) (c : CtxClass)
    (hv : m.body.mgmt = true → m.body.vc = 0 ∧ m.body.cls c = .bg) :
    s.Says (s.enqueue n m c) n m (m.body.cls c) ∧ s.enqueue n m c = { s with ports := (s.enqueue n m c).ports } := by
  unfold State.enqueue
  simp only [hx]
  rw [if_neg (by simp [hu])]
  by_cases hm : m.body.mgmt = true
  · simp only [hm, if_true]
    refine ⟨⟨x, _, hx, ?_, rfl⟩, by trivial⟩
    unfold Port.Queues
    rw [if_pos hm, (hv hm).1, (hv hm).2]
  · have hm' : m.body.mgmt = false := by simpa using hm
    simp only [hm', Bool.false_eq_true, if_false]
    refine ⟨⟨x, _, hx, ?_, rfl⟩, by trivial⟩
    unfold Port.Queues
    rw [if_neg (by simp [hm'])]
    exact ⟨_, rfl⟩

theorem says_answerMsg {s : State} {h : Hdr} {x : Port} (hx : s.ports.get? h.port = some x) (hu : x.up = true) (c : CtxClass)
    (b : MsgBody) (hv : b.mgmt = true → b.vc = 0 ∧ b.cls c = .bg) :
    s.Says (s.answerMsg h c b) h.port (h.reply b) (b.cls c) ∧
      s.answerMsg h c b = { s with ports := (s.answerMsg h c b).ports } :=
  says_enqueue hx hu (h.reply b) c hv

theorem says_sendTo {s : State} {i : Nat} {p : Peer} {x : Port} (hp : s.peers.get? i = some p) (hx : s.ports.get? p.port = some x)
    (hu : x.up = true) (part epoch comp : Nat) (w : Word64) (tag : Nat) (c : CtxClass) (b : MsgBody)
    (hv : b.mgmt = true → b.vc = 0 ∧ b.cls c = .bg) :
    s.Says (s.sendTo i part epoch comp w tag c b) p.port ⟨p.fabric, part, epoch, comp, w, tag, b⟩ (b.cls c) ∧
      s.sendTo i part epoch comp w tag c b = { s with ports := (s.sendTo i part epoch comp w tag c b).ports } := by
  unfold State.sendTo
  simp only [hp]
  exact says_enqueue hx hu _ c hv

/-- A port that carries a message is up. -/
theorem carries_port {s : State} {h : Hdr} (hb : s.carries h = true) : ∃ x, s.ports.get? h.port = some x ∧ x.up = true := by
  unfold State.carries at hb
  split at hb
  · cases hb
  · next x hx =>
    refine ⟨x, hx, ?_⟩
    unfold Port.up
    simp only [Bool.or_eq_true, Bool.and_eq_true] at hb ⊢
    rcases hb with h | h
    · exact .inl (.inl h.1.1)
    · exact .inl (.inr h.1.1)

/-- What hearing a peer changes. -/
theorem peerSeen_frame {s : State} {i : Nat} {p : Peer} (hp : s.peers.get? i = some p) :
    s.Seen (s.peerSeen i) i p ∧
      s.peerSeen i = { s with peers := (s.peerSeen i).peers, aon := (s.peerSeen i).aon, freeCtr := (s.peerSeen i).freeCtr } ∧
      (s.peerSeen i).peers.get? i = some { p with lastUse := (s.peerSeen i).aon, pings := 0 } := by
  have e : (s.peerSeen i).peers = s.peers.set i { p with lastUse := (s.peerSeen i).aon, pings := 0 } := by
    unfold State.peerSeen
    exact AMap.modify_some hp _
  exact ⟨e, rfl, by rw [e]; exact AMap.get?_set_same ..⟩

/-- A message that passes its checks is handed on with its sender. -/
theorem State.Hears.receive {s : State} {h : Hdr} {type : Nat} {resp : Bool} {size : Option Nat} {i : Nat} {p : Peer}
    (hh : s.Hears h type resp size i p) (k : Nat → Peer → State → State) :
    s.receive h type resp size k = k i p (s.peerSeen i) := by
  have hp : (decide (9 ≤ type) || bitOf p.parts h.part) = true := by
    by_cases ht : type < 9
    · rw [hh.part ht, Bool.or_true]
    · simp [Nat.le_of_not_lt ht]
  unfold State.receive
  simp only [hh.port, State.astray, hh.dst, hh.good, hh.src, hh.role, hp]
  simp

end Sys2Proof.Machine
end

