-- ==== Sys2Proof/Laws/Attention.lean ====
section
/-!
SUPPORT. What serving query slices changes.
-/

namespace Sys2Proof.Machine

open Sys2Proof

/-- `t` is `s` but for what serving a slice changes: requests, what sessions have read (R386), tiles (their masses), the sub-channels
that the reads wake, the score capture, counters and outputs. -/
def State.Srv (s t : State) : Prop :=
  (∃ r x a g m o c b l, t = { s with reqs := r, sessions := x, tiles := a, regs := g, pmc := m, out := o, capSeq := c, bounce := b, selfRefresh := l }) ∧
  ∀ k, ∃ y, t.ses k = { s.ses k with sliceRead := y }

theorem State.Srv.refl (s : State) : s.Srv s := ⟨⟨_, _, _, _, _, _, _, _, _, rfl⟩, fun k => ⟨(s.ses k).sliceRead, rfl⟩⟩

theorem State.Srv.trans {s t u : State} (h : s.Srv t) (g : t.Srv u) : s.Srv u := by
  obtain ⟨⟨r, x, a, g', m, o, c, b, l, rfl⟩, h2⟩ := h
  obtain ⟨⟨r', x', a', g'', m', o', c', b', l', rfl⟩, g2⟩ := g
  refine ⟨⟨r', x', a', g'', m', o', c', b', l', rfl⟩, fun k => ?_⟩
  obtain ⟨y, hy⟩ := h2 k
  obtain ⟨z, hz⟩ := g2 k
  exact ⟨z, by rw [hz, hy]⟩

/-- A change that leaves the sessions alone is within what serving changes. -/
theorem State.Srv.of {s t : State} (r : AMap Nat Req) (a : AMap TileLoc Tile) (g : AMap Reg Word64) (m : AMap Reg Word64) (o : List Out) (c : AMap Nat Nat)
    (b : AMap Nat Bounce) (l : List Nat)
    (h : t = { s with reqs := r, tiles := a, regs := g, pmc := m, out := o, capSeq := c, bounce := b, selfRefresh := l }) : s.Srv t := by
  subst h
  exact ⟨⟨r, s.sessions, a, g, m, o, c, b, l, rfl⟩, fun k => ⟨(s.ses k).sliceRead, rfl⟩⟩

theorem srv_bump (s : State) (f : Field) (i n : Nat) : s.Srv (s.bump f i n) :=
  .of s.reqs s.tiles _ s.pmc s.out s.capSeq s.bounce s.selfRefresh rfl

theorem srv_count (s : State) (e : PmcEv) : s.Srv (s.count e) := by
  obtain ⟨m, l, h⟩ := count_frame s e
  rw [h]; exact .of s.reqs s.tiles s.regs m _ s.capSeq s.bounce s.selfRefresh rfl

theorem srv_sealed (s : State) (f : Fn) : s.Srv (s.sealed f) := by
  unfold State.sealed
  split
  · split
    · exact .of s.reqs s.tiles s.regs s.pmc s.out s.capSeq _ s.selfRefresh rfl
    · exact .refl s
  · exact .refl s

theorem wakeEntries_frame (ts : List ReadTile) (s : State) : ∃ l, ts.foldl (fun (a : State) t => a.wakeEntry t.entry) s = { s with selfRefresh := l } :=
  foldl_keeps (fun s t : State => ∃ l, t = { s with selfRefresh := l }) (fun s => ⟨s.selfRefresh, rfl⟩)
    (by rintro s t u ⟨r, rfl⟩ ⟨r', rfl⟩; exact ⟨r', rfl⟩) _
    (fun s t => by unfold State.wakeEntry; split; exacts [wakeTile_frame s _, ⟨s.selfRefresh, rfl⟩]) ts s

theorem srv_addMasses (d n : Nat) (ts : List ReadTile) : ∀ (s : State) (xs : List Nat), ∃ a, s.addMasses d n ts xs = { s with tiles := a } := by
  induction ts with
  | nil => intro s xs; exact ⟨s.tiles, rfl⟩
  | cons t r ih =>
    intro s xs
    unfold State.addMasses
    dsimp only
    split
    · exact ih _ _
    · split
      · next l hl =>
        obtain ⟨a, h⟩ := ih { s with tiles := s.tiles.set l ((t.tile.decay d n).addMass (xs.take t.tile.fill)) } (xs.drop t.tile.fill)
        exact ⟨a, h⟩
      · exact ih _ _

theorem sealed_frame (s : State) (f : Fn) : ∃ b, s.sealed f = { s with bounce := b } := by
  unfold State.sealed
  split
  · split
    · exact ⟨_, rfl⟩
    · exact ⟨s.bounce, rfl⟩
  · exact ⟨s.bounce, rfl⟩

theorem sealed_setFld (s t : State) (f : Fn) (g : Field) (v i j : Nat) (h : ∃ r o c b, t = { s with regs := r, out := o, capSeq := c, bounce := b }) :
    ∃ r o c b, (t.sealed f).setFld g v i j = { s with regs := r, out := o, capSeq := c, bounce := b } := by
  obtain ⟨r, o, c, b, rfl⟩ := h
  obtain ⟨b', hb⟩ := sealed_frame { s with regs := r, out := o, capSeq := c, bounce := b } f
  rw [hb]
  exact ⟨_, o, c, b', rfl⟩

theorem capture_frame (s : State) (p : Nat) (h : Word64) (pos layer head g : Nat) (ps : List Nat) (rows : List (List Nat)) :
    ∃ r o c b, s.capture p h pos layer head g ps rows = { s with regs := r, out := o, capSeq := c, bounce := b } := by
  unfold State.capture
  extract_lets bf wp n bytes seq s1 size hd free
  split
  · exact ⟨_, s.out, _, s.bounce, rfl⟩
  · by_cases hb : free + bytes ≤ size
    · rw [if_pos hb]
      exact sealed_setFld s (s1.put _) _ _ _ _ _ ⟨s.regs, _, _, s.bounce, rfl⟩
    · rw [if_neg hb]
      exact ⟨_, s.out, _, s.bounce, rfl⟩

/-- What a head has read, entered in its session (R386). -/
theorem srv_modSes (s : State) (slot : Nat) (l : List Nat) :
    s.Srv (s.modSes slot (fun x => { x with sliceRead := (x.sliceRead ++ l).eraseDups })) := by
  refine ⟨⟨s.reqs, _, s.tiles, s.regs, s.pmc, s.out, s.capSeq, s.bounce, s.selfRefresh, rfl⟩, fun k => ?_⟩
  unfold State.modSes State.setSes State.ses
  dsimp only
  rw [AMap.getD_set]
  split
  · next e => rw [e]; exact ⟨_, rfl⟩
  · exact ⟨_, rfl⟩

theorem srv_modReq (s : State) (slot : Nat) (f : Req → Req) : s.Srv (s.modReq slot f) :=
  .of _ s.tiles s.regs s.pmc s.out s.capSeq s.bounce s.selfRefresh rfl

/-- The score capture is within what serving changes. -/
theorem State.Srv.over {s t : State} (h : s.Srv t) (r : AMap Reg Word64) (o : List Out) (c : AMap Nat Nat) (b : AMap Nat Bounce) :
    s.Srv { t with regs := r, out := o, capSeq := c, bounce := b } :=
  h.trans (.of t.reqs t.tiles r t.pmc o c b t.selfRefresh rfl)

/-- What serving one head changes; its request gets the step mass of the pending position and has served the head. -/
theorem serveHead_frame (s : State) (q : Req) (c : CtxImage) (mode : Nat) (sl : Slice) (h : Nat) :
    s.Srv (s.serveHead q c mode sl h).2 ∧ ∃ m, (s.serveHead q c mode sl h).2.reqs = s.reqs.modify q.slot (fun r => { r with
      pending := r.pending.set (sl.layer, h) { q.pending.getD (sl.layer, h) ⟨[], [], 0⟩ with mass := m }, served := r.served ++ [(sl.layer, h)] }) := by
  unfold State.serveHead
  dsimp only
  generalize s.readTiles q c (sl.layer * c.heads + h) = ts
  generalize coreParts c sl.layer sl.pos _ _ _ _ = parts
  generalize List.map _ (List.take _ _) = rows
  obtain ⟨l, hl⟩ := wakeEntries_frame ts s
  rw [hl]
  generalize hs0 : (if q.onFallback = true then { s with selfRefresh := l } else _) = s0
  have h0 : s.Srv s0 ∧ s0.reqs = s.reqs := by
    have h1 : s.Srv { s with selfRefresh := l } := .of s.reqs s.tiles s.regs s.pmc s.out s.capSeq s.bounce l rfl
    rw [← hs0]
    split
    · exact ⟨h1, rfl⟩
    · exact ⟨h1.trans (srv_modSes { s with selfRefresh := l } q.slot _), rfl⟩
  generalize hs1 : (if mode = 0 then s0 else State.addMasses s0 _ _ ts _) = s1
  have h1 : s.Srv s1 ∧ s1.reqs = s.reqs := by
    rw [← hs1]
    split
    · exact h0
    · generalize combined mode _ _ = xs
      obtain ⟨a, ha⟩ := srv_addMasses (State.decayOf { s with selfRefresh := l } q.part) (State.ses { s with selfRefresh := l } q.slot).reqCount ts s0 xs
      rw [ha]
      exact ⟨h0.1.trans (.of s0.reqs a s0.regs s0.pmc s0.out s0.capSeq s0.bounce s0.selfRefresh rfl), h0.2⟩
  obtain ⟨h1, hr⟩ := h1
  split
  · obtain ⟨r, o, cs, b, hc⟩ := capture_frame (State.modReq s1 q.slot _) q.part sl.handle sl.pos sl.layer h c.group _ _
    rw [hc]
    exact ⟨(h1.trans (srv_modReq s1 q.slot _)).over r o cs b, _, by show AMap.modify s1.reqs _ _ = _; rw [hr]⟩
  · exact ⟨h1.trans (srv_modReq s1 q.slot _), _, by show AMap.modify s1.reqs _ _ = _; rw [hr]⟩

/-- Serving heads in order: the request has served them, and its pending keys and values stand. -/
theorem serveHeads_frame (c : CtxImage) (mode : Nat) (sl : Slice) (hs : List Nat) : ∀ (s : State) (q : Req), s.req q.slot = some q →
    s.Srv (s.serveHeads q c mode sl hs).2 ∧ ∃ q', (s.serveHeads q c mode sl hs).2.req q.slot = some q' ∧
      q' = { q with served := q.served ++ hs.map (fun k => (sl.layer, k)), pending := q'.pending } ∧
      (∀ k pd, q.pending.get? k = some pd → ∃ m, q'.pending.get? k = some { pd with mass := m }) := by
  induction hs with
  | nil =>
    intro s q hq
    refine ⟨.refl s, q, hq, by simp, fun k pd h => ⟨pd.mass, h⟩⟩
  | cons h r ih =>
    intro s q hq
    obtain ⟨f1, m, f2⟩ := serveHead_frame s q c mode sl h
    unfold State.serveHeads
    dsimp only
    generalize (s.serveHead q c mode sl h) = a at f1 f2
    have hq1 : a.2.req q.slot = some { q with pending := q.pending.set (sl.layer, h) { q.pending.getD (sl.layer, h) ⟨[], [], 0⟩ with mass := m }, served := q.served ++ [(sl.layer, h)] } := by
      have hq : s.reqs.get? q.slot = some q := hq
      show a.2.reqs.get? q.slot = _
      rw [f2, AMap.get?_modify, if_pos rfl, hq]; rfl
    rw [hq1]
    obtain ⟨g1, q', g2, g3, g4⟩ := ih a.2 { q with pending := q.pending.set (sl.layer, h) { q.pending.getD (sl.layer, h) ⟨[], [], 0⟩ with mass := m }, served := q.served ++ [(sl.layer, h)] } hq1
    refine ⟨f1.trans g1, q', g2, ?_, ?_⟩
    · rw [g3]; simp
    · intro k pd hk
      by_cases e : k = (sl.layer, h)
      · subst e
        have : (q.pending.set (sl.layer, h) { q.pending.getD (sl.layer, h) ⟨[], [], 0⟩ with mass := m }).get? (sl.layer, h) = some { pd with mass := m } := by
          rw [AMap.get?_set_same]; unfold AMap.getD; rw [hk]
        obtain ⟨m', h'⟩ := g4 _ _ this
        exact ⟨m', h'⟩
      · exact g4 k pd ((AMap.get?_set_other _ _ e).trans hk)

/-- A slice whose tiles are present is served and answered. -/
theorem serveSlice_frame {s : State} {w : SliceWork} {q : Req} {c : CtxImage} (hq : s.req w.slot = some q)
    (hs : q.slot = w.slot) (hg : q.phase = .generating) (hc : s.modelOf q = some c)  : ∃ v o q', s.serveSlice w false =
      v.sendTo w.peer w.part q.epoch q.comp w.slice.handle w.tag (s.ctxClass q.part q.model)
        (.output ⟨w.slice.handle, w.slice.pos, w.slice.layer, w.slice.kvFirst, w.slice.kvCount, .ok, o, none⟩) ∧
      State.Srv { s with slices := s.slices.filter (fun y => y != w) } v ∧ v.req w.slot = some q' ∧
      q' = { q with served := q.served ++ (List.range' w.slice.kvFirst w.slice.kvCount).map (fun k => (w.slice.layer, k)), pending := q'.pending } ∧
      (∀ k pd, q.pending.get? k = some pd → ∃ m, q'.pending.get? k = some { pd with mass := m }) := by
  have hgen : State.generating { s with slices := s.slices.filter (fun y => y != w) } w.slot = some q := by
    unfold State.generating
    have : State.req { s with slices := s.slices.filter (fun y => y != w) } w.slot = some q := hq
    rw [this]; simp [hg]
  have hm : State.modelOf { s with slices := s.slices.filter (fun y => y != w) } q = some c := hc
  have hq0 : State.req { s with slices := s.slices.filter (fun y => y != w) } q.slot = some q := by rw [hs]; exact hq
  obtain ⟨f1, q', f2, f3, f4⟩ := serveHeads_frame c w.massMode w.slice (List.range' w.slice.kvFirst w.slice.kvCount) { s with slices := s.slices.filter (fun y => y != w) } q hq0
  unfold State.serveSlice
  dsimp only
  rw [hgen]
  dsimp only
  rw [hm]
  dsimp only
  generalize State.serveHeads _ q c w.massMode w.slice _ = r at *
  refine ⟨r.2.count (PmcEv.ofPart 0x20 1 q.part (s.ctxClass q.part q.model)), r.1, q', rfl, f1.trans (srv_count _ _), ?_, f3, f4⟩
  obtain ⟨m, l, h⟩ := count_frame r.2 (PmcEv.ofPart 0x20 1 q.part (s.ctxClass q.part q.model))
  rw [h, ← hs]; exact f2

/-- A slice that starts with every tile present and sound is served at once (R137, R138). -/
theorem startSlices_frame {s : State} {w : SliceWork} {q : Req} {c : CtxImage} (hq : s.req w.slot = some q)
    (hs : q.slot = w.slot) (hg : q.phase = .generating) (hc : s.modelOf q = some c)
    (he : ∀ kv ∈ sliceEntries (s.entriesOf q) c w.slice, s.Readable w.part kv.2) : ∃ v o q', s.startSlices w.part [w] =
      v.sendTo w.peer w.part q.epoch q.comp w.slice.handle w.tag (s.ctxClass q.part q.model)
        (.output ⟨w.slice.handle, w.slice.pos, w.slice.layer, w.slice.kvFirst, w.slice.kvCount, .ok, o, none⟩) ∧
      State.Srv { s with slices := s.slices.filter (fun y => y != w) } v ∧ v.req w.slot = some q' ∧
      q' = { q with served := q.served ++ (List.range' w.slice.kvFirst w.slice.kvCount).map (fun k => (w.slice.layer, k)), pending := q'.pending } ∧
      (∀ k pd, q.pending.get? k = some pd → ∃ m, q'.pending.get? k = some { pd with mass := m }) := by
  have hwe : s.workEntries w = sliceEntries (s.entriesOf q) c w.slice := by
    unfold State.workEntries; rw [hq]; dsimp only; rw [hc]
  have h0 : (s.workPlaces w).any (fun l => !(s.ownPlace w.part l)) = false := by
    unfold State.workPlaces
    rw [hwe, List.any_eq_false]
    intro l hl
    obtain ⟨kv, hk, hl⟩ := List.mem_filterMap.1 hl
    simp [(he kv hk).own l hl]
  have h1 : (s.workEntries w).any (fun kv => s.poisonedData kv.2) = false := by
    rw [hwe, List.any_eq_false]; intro kv hk; simp [(he kv hk).sound]
  have h2 : (s.workEntries w).any (fun kv => kv.2.away) = false := by
    rw [hwe, List.any_eq_false]; intro kv hk; simp [(he kv hk).here]
  have f0 : [w].filter (fun v => (s.workPlaces v).any (fun l => !(s.ownPlace w.part l))) = [] := by
    rw [List.filter_cons_of_neg (by simp [h0])]; rfl
  have f1 : [w].filter (fun w => (s.workEntries w).any (fun kv => s.poisonedData kv.2)) = [] := by
    rw [List.filter_cons_of_neg (by simp [h1])]; rfl
  have f2 : [w].filter (fun w => !((s.workEntries w).any (fun kv => kv.2.away))) = [w] := by
    rw [List.filter_cons_of_pos (by simp [h2])]; rfl
  have f3 : [w].filter (fun x => !(([] : List SliceWork).contains x)) = [w] := by
    rw [List.filter_cons_of_pos (by simp)]; rfl
  have f4 : [w].filter (fun x => !([w].contains x)) = [] := by
    rw [List.filter_cons_of_neg (by simp)]; rfl
  obtain ⟨v0, hv0, hsrv, hsame⟩ : ∃ v0, s.startSlices w.part [w] = v0.serveSlice w false ∧ s.Srv v0 ∧ v0.reqs = s.reqs := by
    generalize hz : (if s.spills w.part [w] = true then s.bump Fld.ATT_SPILLS_SPILLS w.part 1 else s) = z
    have hzs : s.Srv z := by
      rw [← hz]; split
      · exact srv_bump ..
      · exact .refl s
    have hzr : z.reqs = s.reqs := by rw [← hz]; split <;> rfl
    refine ⟨z.count (PmcEv.ofPart 0x21 (z.positionsRead [w]) w.part (match z.req w.slot with | some q => z.ctxClass w.part q.model | none => .bg)), ?_, hzs.trans (srv_count _ _), ?_⟩
    · unfold State.startSlices
      dsimp only
      rw [f0, f3]
      dsimp only [List.foldl]
      rw [f1, f3]
      dsimp only [List.foldl]
      rw [f2, f4]
      rw [← hz]; rfl
    · obtain ⟨m, l, h⟩ := count_frame z (PmcEv.ofPart 0x21 (z.positionsRead [w]) w.part (match z.req w.slot with | some q => z.ctxClass w.part q.model | none => .bg))
      exact (congrArg State.reqs h).trans hzr
  have hreq0 : v0.req w.slot = some q := by
    show v0.reqs.get? _ = _
    rw [hsame]; exact hq
  obtain ⟨⟨r, x, a, g, m, o, cs, b, l, rfl⟩, hx⟩ := hsrv
  have hr : r = s.reqs := hsame
  subst hr
  obtain ⟨v, o', q', e1, e2, e3, e4, e5⟩ := serveSlice_frame (s := { s with sessions := x, tiles := a, regs := g, pmc := m, out := o, capSeq := cs, bounce := b, selfRefresh := l }) (w := w) (c := c) hreq0 hs hg hc
  exact ⟨v, o', q', hv0.trans e1, State.Srv.trans ⟨⟨s.reqs, x, a, g, m, o, cs, b, l, rfl⟩, hx⟩ e2, e3, e4, e5⟩

/-- Storing under a key that stands keeps what a search finds, where predicate and result do not tell the values apart. -/
theorem AMap.find_set_map {α β : Type} {m : AMap Nat α} {i : Nat} {p : α} (p' : α) (h : m.get? i = some p) (P : Nat × α → Bool)
    (g : Nat × α → β) (hP : P (i, p') = P (i, p)) (hg : g (i, p') = g (i, p)) : ((m.set i p').find? P).map g = (m.find? P).map g := by
  induction m with
  | nil => cases h
  | cons a r ih =>
    obtain ⟨k, v⟩ := a
    unfold AMap.get? at h
    unfold AMap.set
    split at h
    · next e =>
      subst e
      cases h
      rw [if_pos rfl, List.find?_cons, List.find?_cons, hP]
      split
      · exact congrArg some hg
      · rfl
    · next e =>
      rw [if_neg e, List.find?_cons, List.find?_cons]
      split
      · rfl
      · exact ih h

/-- Hearing a peer changes no check of a message. -/
theorem checkSender_seen {s : State} {i : Nat} {p : Peer} (hp : s.peers.get? i = some p) (q : Req) (h : Option Hdr) (e : Nat) :
    (s.peerSeen i).checkSender q h e = s.checkSender q h e := by
  obtain ⟨h1, h2, -⟩ := peerSeen_frame hp
  unfold State.checkSender
  split
  · rfl
  · next h =>
    split
    · rfl
    · have hm : (s.peerSeen i).mapOf q.comp q.epoch = s.mapOf q.comp q.epoch := by rw [h2]; rfl
      have hf : ((s.peerSeen i).peerOfSrc h.src).map (fun kv => kv.2.id) = (s.peerOfSrc h.src).map (fun kv => kv.2.id) := by
        unfold State.peerOfSrc
        rw [h1]
        exact AMap.find_set_map _ hp _ _ rfl rfl
      rw [hm]
      generalize (s.peerSeen i).peerOfSrc h.src = a at hf ⊢
      generalize s.peerOfSrc h.src = b at hf ⊢
      cases a with
      | none => cases b with
        | none => rfl
        | some y => cases hf
      | some x => cases b with
        | none => cases hf
        | some y =>
          have hid : x.2.id = y.2.id := by simpa using hf
          cases s.mapOf q.comp q.epoch with
          | none => rfl
          | some m => show (if m.names x.2.id then _ else _) = (if m.names y.2.id then _ else _); rw [hid]

theorem checkStep_seen {s : State} {i : Nat} {p : Peer} (hp : s.peers.get? i = some p) (h : Option Hdr) (own : Option Nat) (w : Word64)
    (e pos : Nat) : (s.peerSeen i).checkStep h own w e pos = s.checkStep h own w e pos := by
  unfold State.checkStep
  simp only [checkSender_seen hp]
  obtain ⟨-, h2, -⟩ := peerSeen_frame hp
  rw [h2]; rfl

theorem checkSlice_seen {s : State} {i : Nat} {p : Peer} (hp : s.peers.get? i = some p) (h : Option Hdr) (own : Option Nat) (sl : Slice) :
    (s.peerSeen i).checkSlice h own sl = s.checkSlice h own sl := by
  unfold State.checkSlice
  rw [checkStep_seen hp]
  obtain ⟨-, h2, -⟩ := peerSeen_frame hp
  rw [h2]; rfl

end Sys2Proof.Machine
end

