-- ==== Sys2Proof/Laws/Host.lean ====
section
/-!
SUPPORT. A host command that runs at once: what its fetch leaves, and that its effect starts from there.
-/

namespace Sys2Proof.Machine

open Sys2Proof

/-- What a fetch leaves: the entry is taken, and everything else stands but for counters, signals and the list of arrivals. -/
def State.Fetched (s : State) (u : Sub) (s' : State) : Prop :=
  s.Io s' ∧ s'.cqs = s.cqs ∧ ∃ q, u.sq = some q ∧ s'.Open u.fn q ∧ ∀ f n, s.Open f n → s'.Open f n

theorem refusal_fetch (s : State) (u : Sub) (c : HostCmd) (q n : Nat) (x : Sq) (m : AMap Reg Word64) (o : List Out)
    (part : Option Nat) (hx : s.sq u.fn q = some x) (hb : s.bounceMode u.fn = false) :
    (State.fetch { s with pmc := m, out := o } u q n x part).refusal u c = s.refusal u c := by
  have hout : (State.fetch { s with pmc := m, out := o } u q n x part).outside u c = s.outside u c := by
    have h1 : (State.fetch { s with pmc := m, out := o } u q n x part).bounceMode u.fn = false := hb
    unfold State.outside
    rw [h1, hb]; rfl
  have he : (State.fetch { s with pmc := m, out := o } u q n x part).extReserved u = s.extReserved u := by
    unfold State.extReserved
    cases u.sq with
    | none => rfl
    | some k =>
      by_cases hk : k = q
      · subst hk
        have h1 : (State.fetch { s with pmc := m, out := o } u k n x part).sq u.fn k = some (x.take u.tag n part) :=
          AMap.get?_set_same ..
        dsimp only
        rw [h1, hx]; rfl
      · have h1 : (State.fetch { s with pmc := m, out := o } u q n x part).sq u.fn k = s.sq u.fn k :=
          AMap.get?_set_other _ _ (fun e => hk (Prod.mk.inj e).2)
        dsimp only
        rw [h1]; rfl
  unfold State.refusal
  rw [he, hout]
  rfl

/-- A command that its queue holds and no check refuses starts from a state that its fetch has changed only where a fetch does. -/
theorem arrive_takes {s : State} {u : Sub} {c : HostCmd} (h : s.Takes u c) (hc : c.writesFlash = false) :
    ∃ s', s.Fetched u s' ∧ s.arrive u c = s'.kept (s'.runHost u c) := by
  obtain ⟨q, x, y, hq, hx, hon, hroom, hfresh, hy, hyon, hyr, hyw⟩ := h.queue
  obtain ⟨m, l, hcount⟩ : ∃ m l, s.countFetch u c = { s with pmc := m, out := l ++ s.out } := by
    unfold State.countFetch
    dsimp only
    split <;> exact count_frame _ _
  refine ⟨State.fetch { s with pmc := m, out := l ++ s.out } u q (s.slotsOf u x) x (s.cmdPart u c), ⟨⟨l, _, _, _, _, _, rfl⟩, rfl, q, hq, ?_, ?_⟩, ?_⟩
  · refine ⟨x.take u.tag (s.slotsOf u x) (s.cmdPart u c), y, ?_, hy, hyon, hyr, hyw⟩
    exact AMap.get?_set_same ..
  · intro f n ⟨y', x', h1, h2⟩
    by_cases hk : (f.index, n) = (u.fn.index, q)
    · have h3 : s.sq f n = s.sq u.fn q := by unfold State.sq; rw [hk]
      rw [h3, hx] at h1
      cases h1
      refine ⟨x.take u.tag (s.slotsOf u x) (s.cmdPart u c), x', ?_, h2⟩
      show (s.sqs.set (u.fn.index, q) _).get? (f.index, n) = _
      rw [hk]; exact AMap.get?_set_same ..
    · refine ⟨y', x', ?_, h2⟩
      show (s.sqs.set (u.fn.index, q) _).get? (f.index, n) = _
      rw [AMap.get?_set_other _ _ hk]; exact h1
  · unfold State.arrive
    simp only [hq, hx]
    rw [if_pos (by simp [hon, h.fetches, hroom])]
    unfold State.fromQueue
    simp only [hfresh, hcount]
    have hb : (State.fetch { s with pmc := m, out := l ++ s.out } u q (s.slotsOf u x) x (s.cmdPart u c)).takeBounce u q x.head
        = (true, State.fetch { s with pmc := m, out := l ++ s.out } u q (s.slotsOf u x) x (s.cmdPart u c)) := by
      unfold State.takeBounce
      have : (State.fetch { s with pmc := m, out := l ++ s.out } u q (s.slotsOf u x) x (s.cmdPart u c)).bounceMode u.fn = false := h.plain
      simp [this]
    have hs : State.slotsOf { s with pmc := m, out := l ++ s.out } u x = s.slotsOf u x := rfl
    have hc2 : State.cmdPart { s with pmc := m, out := l ++ s.out } u c = s.cmdPart u c := rfl
    simp only [hs, hc2, hb, Bool.not_true, Bool.false_eq_true, if_false]
    rw [if_neg]
    · unfold State.begin
      rw [refusal_fetch s u c q _ x m _ _ hx h.plain, h.passes]
      simp [hc]
    · have : (State.fetch { s with pmc := m, out := l ++ s.out } u q (s.slotsOf u x) x (s.cmdPart u c)).boot.phase = .ready := h.ready
      simp [this]

/-- A command that no session holds up starts at once. -/
theorem runHost_plain (s : State) (u : Sub) (c : HostCmd) (h : c.serial = false) : s.runHost u c = s.startHost u c := by
  simp [State.runHost, h]

theorem runHost_serial (s : State) (u : Sub) (c : HostCmd) (h : s.mayStart u.slot u c = true)
    (hw : (s.ses u.slot).waiting = []) : s.runHost u c = s.startHost u c := by
  simp [State.runHost, h, hw]

theorem State.Fetched.calm {s s' : State} {u : Sub} (h : s.Fetched u s') (hc : s.Calm) : s'.Calm := hc.io h.1

/-- What a command posts after its fetch it posts after its arrival. -/
theorem State.Fetched.posts {s s' t : State} {u : Sub} {st : Status} {r n : Nat} (h : s.Fetched u s') (g : s'.Posts t u st r n) :
    s.Posts t u st r n := by
  obtain ⟨q, a, m, g⟩ := g
  exact ⟨q, a, m, State.Writes.after h.1.out g⟩

theorem State.Fetched.writes {s s' t : State} {u : Sub} {o : Out} (h : s.Fetched u s') (g : s'.Writes t o) : s.Writes t o :=
  State.Writes.after h.1.out g

/-- A queue that takes completions before a fetch takes them after it. -/
theorem State.Fetched.opens {s s' : State} {u : Sub} (h : s.Fetched u s') {f : Fn} {n : Nat} (g : s.Open f n) : s'.Open f n := by
  obtain ⟨-, -, q, -, -, ho⟩ := h
  exact ho f n g

theorem State.Fetched.sq {s s' : State} {u : Sub} (h : s.Fetched u s') : u.sq ≠ none := by
  obtain ⟨-, -, q, hq, -, -⟩ := h
  rw [hq]; exact fun h => by cases h

/-- A completion after a fetch. -/
theorem State.Fetched.complete {s s' v : State} {u : Sub} (h : s.Fetched u s') (h1 : v.sqs = s'.sqs) (h2 : v.cqs = s'.cqs)
    (h3 : ∃ l, v.out = l ++ s'.out) (st : Status) (r n : Nat) : s.Posts (v.complete u st r n) u st r n ∧ v.Io (v.complete u st r n) := by
  obtain ⟨hio, hcq, q, hq, ho, -⟩ := h
  have hov : v.Open u.fn q := by
    obtain ⟨y, x, a, b, c⟩ := ho
    refine ⟨y, x, ?_, ?_, c⟩
    · unfold State.sq; rw [h1]; exact a
    · unfold State.cq; rw [h2]; exact b
  obtain ⟨k, a, m, g⟩ := posts_complete v u q st r n hq hov
  refine ⟨⟨k, a, m, State.Writes.after ?_ g⟩, io_complete v u st r n (by rw [hq]; exact fun h => by cases h)⟩
  obtain ⟨l, hl⟩ := h3
  obtain ⟨l', hl'⟩ := hio.out
  exact ⟨l ++ l', by rw [hl, hl', List.append_assoc]⟩

/-- A command that no session orders, from its fetch to the next state. -/
theorem next_host {s : State} {u : Sub} {c : HostCmd} (h : s.Takes u c) (hf : c.writesFlash = false) (hs : c.serial = false) :
    ∃ s', s.Fetched u s' ∧ ∀ t, s'.startHost u c = t → t.Calm →
      (Host.Outcome.next (s.always (fun x => x.arrive u c)) : Host.Outcome State Fault Refusal) = .next (s.kept t) := by
  obtain ⟨s', h1, h2⟩ := arrive_takes h hf
  refine ⟨s', h1, fun t ht hc => ?_⟩
  rw [runHost_plain _ _ _ hs, ht] at h2
  have := next_always (s := s) (f := fun x => x.arrive u c) (t := s'.kept t) h2 hc.kept
  rw [this]
  obtain ⟨⟨_, _, _, _, _, _, rfl⟩, -⟩ := h1
  rfl

/-- A command that a session orders, where none goes before it. -/
theorem next_quiet {s : State} {u : Sub} {c : HostCmd} (h : s.Takes u c) (hf : c.writesFlash = false) (hq : s.Quiet u.slot) :
    ∃ s', s.Fetched u s' ∧ ∀ t, s'.startHost u c = t → t.Calm →
      (Host.Outcome.next (s.always (fun x => x.arrive u c)) : Host.Outcome State Fault Refusal) = .next (s.kept t) := by
  obtain ⟨s', h1, h2⟩ := arrive_takes h hf
  refine ⟨s', h1, fun t ht hc => ?_⟩
  have hcq := h1.2.1
  obtain ⟨l, m, a, b, d, e, hs⟩ := h1.1
  have hses : s'.ses u.slot = s.ses u.slot := by rw [hs]; rfl
  have hends : s'.endWaits u.slot = false := by
    unfold State.endWaits; rw [hcq]; exact hq.ends
  have hmay : s'.mayStart u.slot u c = true := by
    unfold State.mayStart State.busy
    dsimp only
    rw [hses, hends, hq.op, hq.reads]
    simp
  rw [runHost_serial _ _ _ hmay (by rw [hses]; exact hq.waiting), ht] at h2
  have := next_always (s := s) (f := fun x => x.arrive u c) (t := s'.kept t) h2 hc.kept
  rw [this, hs]
  rfl

end Sys2Proof.Machine
end

