-- ==== Sys2Proof/Laws/Commands.lean ====
section
/-!
SUPPORT. Host commands that complete as they start: what a command does is said on the state after its fetch.
-/

namespace Sys2Proof.Machine

open Sys2Proof

/-- A command that completes at its start, with an effect that a relation states for every state after its fetch. -/
theorem host_done {s : State} {u : Sub} {c : HostCmd} {st : Status} {r n : Nat} {P : State → Prop} (ht : s.Takes u c)
    (hf : c.writesFlash = false) (hs : c.serial = false)
    (h : ∀ s', s.Fetched u s' → s.Io s' → ∃ v, s'.startHost u c = v.complete u st r n ∧ v.sqs = s'.sqs ∧ v.cqs = s'.cqs ∧ (∃ l, v.out = l ++ s'.out) ∧
      v.Calm ∧ P v) :
    ∃ v t, (Host.Outcome.next (s.always (fun x => x.arrive u c)) : Host.Outcome State Fault Refusal) = .next (s.kept t) ∧
      s.Posts (s.kept t) u st r n ∧ P v ∧ v.Io t := by
  obtain ⟨s', hF, hn⟩ := next_host ht hf hs
  obtain ⟨v, e, h1, h2, h3, hc, hp⟩ := h s' hF hF.1
  obtain ⟨g1, g2⟩ := hF.complete h1 h2 h3 st r n
  exact ⟨v, _, hn _ e (hc.io g2), g1, hp, g2⟩

/-- The same for a command of which one at a time is in progress on its session. -/
theorem quiet_done {s : State} {u : Sub} {c : HostCmd} {st : Status} {r n : Nat} {P : State → Prop} (ht : s.Takes u c)
    (hf : c.writesFlash = false) (hq : s.Quiet u.slot)
    (h : ∀ s', s.Fetched u s' → s.Io s' → ∃ v, s'.startHost u c = v.complete u st r n ∧ v.sqs = s'.sqs ∧ v.cqs = s'.cqs ∧ (∃ l, v.out = l ++ s'.out) ∧
      v.Calm ∧ P v) :
    ∃ v t, (Host.Outcome.next (s.always (fun x => x.arrive u c)) : Host.Outcome State Fault Refusal) = .next (s.kept t) ∧
      s.Posts (s.kept t) u st r n ∧ P v ∧ v.Io t := by
  obtain ⟨s', hF, hn⟩ := next_quiet ht hf hq
  obtain ⟨v, e, h1, h2, h3, hc, hp⟩ := h s' hF hF.1
  obtain ⟨g1, g2⟩ := hF.complete h1 h2 h3 st r n
  exact ⟨v, _, hn _ e (hc.io g2), g1, hp, g2⟩

theorem State.Io.kept {s t : State} (h : s.Io t) : s.Io (s.kept t) := by
  obtain ⟨l, m, a, b, d, e, rfl⟩ := h
  exact ⟨l, m, a, b, d, e, rfl⟩

/-- A command that is refused at its start changes nothing. -/
theorem host_refuses {s : State} {u : Sub} {c : HostCmd} {st : Status} {r : Nat} (hc : s.Calm) (ht : s.Takes u c)
    (hf : c.writesFlash = false) (hs : c.serial = false) (h : ∀ s', s.Io s' → s'.startHost u c = s'.complete u st r 0) :
    ∃ t, (Host.Outcome.next (s.always (fun x => x.arrive u c)) : Host.Outcome State Fault Refusal) = .next t ∧ s.Posts t u st r 0 ∧ s.Io t := by
  obtain ⟨v, t, e, hp, hv, ht⟩ := host_done (P := fun v => s.Io v) ht hf hs
    (fun s' _ hio => ⟨s', h s' hio, rfl, rfl, ⟨[], rfl⟩, hc.io hio, hio⟩)
  exact ⟨_, e, hp, (hv.trans ht).kept⟩

/-- A command that completes at its start, with its effect as a function of the state after its fetch. -/
theorem host_acts {s : State} {u : Sub} {c : HostCmd} {st : Status} {r n : Nat} (F : State → State) (ht : s.Takes u c)
    (hf : c.writesFlash = false) (hs : c.serial = false)
    (h : ∀ s', s.Io s' → s'.startHost u c = (F s').complete u st r n ∧ (F s').sqs = s'.sqs ∧ (F s').cqs = s'.cqs ∧ (∃ l, (F s').out = l ++ s'.out) ∧
      (F s').Calm) :
    ∃ s' t, (Host.Outcome.next (s.always (fun x => x.arrive u c)) : Host.Outcome State Fault Refusal) = .next (s.kept t) ∧
      s.Posts (s.kept t) u st r n ∧ s.Io s' ∧ (F s').Io t := by
  obtain ⟨v, t, e, hp, ⟨s', h1, rfl⟩, ht⟩ := host_done (P := fun v => ∃ s', s.Io s' ∧ v = F s') ht hf hs
    (fun s' _ hio => by obtain ⟨h1, h2, h3, h4, h5⟩ := h s' hio; exact ⟨_, h1, h2, h3, h4, h5, s', hio, rfl⟩)
  exact ⟨s', t, e, hp, h1, ht⟩

/-- A device in which nothing follows a command: as a calm one, but a composition may be on its way out or hold an old map, where something
uses it. -/
structure State.Still (s : State) : Prop where
  waiting  : ∀ kv ∈ s.sessions, kv.2.waiting = []
  queue    : s.ckp.queue = []
  pulls    : s.movesIn = []
  maps     : s.pruneMaps.comps = s.comps
  resets   : s.resets = []
  removals : s.removals = []
  removes  : s.removeWait = []
  restart  : s.boot.restart = none

theorem State.Still.io {s t : State} (h : s.Still) (g : s.Io t) : t.Still := by
  obtain ⟨_, _, _, _, _, _, rfl⟩ := g
  exact ⟨h.1, h.2, h.3, h.4, h.5, h.6, h.7, h.8⟩

theorem State.Still.kept {s t : State} (h : t.Still) : (s.kept t).Still := ⟨h.1, h.2, h.3, h.4, h.5, h.6, h.7, h.8⟩

theorem settle_still {s : State} (h : s.Still) : s.settle = s := by
  have hs : s.startAll = s := by
    have : s.waitingCount = 0 := by
      unfold State.waitingCount
      rw [List.sum_eq_zero]
      intro x hx
      obtain ⟨kv, hk, rfl⟩ := List.mem_map.1 hx
      simp [h.waiting kv hk]
    rw [State.startAll, this, State.startWaiting]
  have hp : s.pruneMaps = s := by
    have : s.pruneMaps = { s with comps := s.pruneMaps.comps } := rfl
    rw [this, h.maps]
  have hg : s.goPartitions = s := by
    have hr : ∀ t : State, t.removeWait = [] → t.runRemovals = t := by
      intro t ht
      have : ({ t with removeWait := [] } : State) = t := by rw [← ht]
      simp only [State.runRemovals, ht, List.filter_nil, List.foldl_nil, this]
    simp only [State.goPartitions, h.resets, List.foldl_nil, h.removals]
    exact hr s h.removes
  have hb : s.goRestart = s := by simp only [State.goRestart, h.restart]
  simp only [State.settle, hs, h.queue, List.length_nil, State.ckpQueue, h.pulls, List.foldl_nil, hp, hg, hb]
  rfl

/-- As `next_host`, for a command that leaves the device still. -/
theorem next_host_still {s : State} {u : Sub} {c : HostCmd} (h : s.Takes u c) (hf : c.writesFlash = false) (hs : c.serial = false) :
    ∃ s', s.Fetched u s' ∧ ∀ t, s'.startHost u c = t → t.Still →
      (Host.Outcome.next (s.always (fun x => x.arrive u c)) : Host.Outcome State Fault Refusal) = .next (s.kept t) := by
  obtain ⟨s', h1, h2⟩ := arrive_takes h hf
  refine ⟨s', h1, fun t ht hc => ?_⟩
  rw [runHost_plain _ _ _ hs, ht] at h2
  have hst : (s.kept (s'.kept t)).Still := (State.Still.kept (State.Still.kept hc))
  have : s.always (fun x => x.arrive u c) = s.kept (s'.kept t) := by
    unfold State.always
    dsimp only
    rw [h2, settle_still hst]
  rw [this]
  rfl

theorem host_acts_still {s : State} {u : Sub} {c : HostCmd} {st : Status} {r n : Nat} (F : State → State) (ht : s.Takes u c)
    (hf : c.writesFlash = false) (hs : c.serial = false)
    (h : ∀ s', s.Io s' → s'.startHost u c = (F s').complete u st r n ∧ (F s').sqs = s'.sqs ∧ (F s').cqs = s'.cqs ∧ (∃ l, (F s').out = l ++ s'.out) ∧
      (F s').Still) :
    ∃ s' t, (Host.Outcome.next (s.always (fun x => x.arrive u c)) : Host.Outcome State Fault Refusal) = .next (s.kept t) ∧
      s.Posts (s.kept t) u st r n ∧ s.Io s' ∧ (F s').Io t := by
  obtain ⟨s', hF, hn⟩ := next_host_still ht hf hs
  obtain ⟨e, h1, h2, h3, hc⟩ := h s' hF.1
  obtain ⟨g1, g2⟩ := hF.complete h1 h2 h3 st r n
  exact ⟨s', _, hn _ e (hc.io g2), g1, hF.1, g2⟩

end Sys2Proof.Machine
end

