-- ==== Sys2Proof/Laws/Firmware.lean ====
section
/-!
SUPPORT. Commands that write the flash, and commands of the management mailbox.
-/

namespace Sys2Proof.Machine

open Sys2Proof

-- Flash -----------------------------------------------------------------------------------------------------------------------------

theorem Memory.wfFrom_filter {d : Byte} (q : Host.Cell → Bool) : ∀ (m : Memory) (lo : Nat), Memory.wfFrom d lo m = true →
    Memory.wfFrom d lo (m.filter q) = true
  | [], _, h => h
  | (a, b) :: r, lo, h => by
    simp only [Memory.wfFrom, Bool.and_eq_true, decide_eq_true_eq] at h
    have hr := Memory.wfFrom_filter q r (a + 1) h.2
    rw [List.filter_cons]
    split
    · simp only [Memory.wfFrom, Bool.and_eq_true, decide_eq_true_eq]
      exact ⟨h.1, hr⟩
    · exact Memory.wfFrom_mono hr (by omega)

theorem Memory.wf_filter {d : Byte} {m : Memory} (q : Host.Cell → Bool) (h : Memory.wf d m = true) : Memory.wf d (m.filter q) = true :=
  Memory.wfFrom_filter q m 0 h

/-- A byte of a memory of which some addresses have been cleared. -/
theorem Memory.read_filter {d : Byte} (q : Nat → Bool) (x : Nat) : ∀ (m : Memory) (lo : Nat), Memory.wfFrom d lo m = true →
    Memory.read d (m.filter (fun c => q c.1)) x = if q x = true then Memory.read d m x else d
  | [], _, _ => by simp [Memory.read]
  | (a, b) :: r, lo, h => by
    have h' := h
    simp only [Memory.wfFrom, Bool.and_eq_true, decide_eq_true_eq] at h
    have ih := Memory.read_filter q x r (a + 1) h.2
    have hw := Memory.wfFrom_filter (fun c => q c.1) r (a + 1) h.2
    rw [List.filter_cons]
    by_cases hx : x ≤ a
    · have e1 : Memory.read d (r.filter (fun c => q c.1)) x = d := Memory.read_below hw (by omega)
      dsimp only
      by_cases hq : q a = true
      · rw [if_pos hq]
        by_cases hxa : a = x
        · subst hxa; simp [Memory.read, hq]
        · have : x < a := by omega
          simp [Memory.read, hxa, this]
      · rw [if_neg hq, e1]
        by_cases hxa : a = x
        · subst hxa; simp [hq]
        · have : x < a := by omega
          simp [Memory.read, hxa, this]
    · have h1 : a ≠ x := by omega
      have h2 : ¬ x < a := by omega
      dsimp only
      by_cases hq : q a = true
      · rw [if_pos hq]; simp only [Memory.read, h1, h2, if_false]; exact ih
      · rw [if_neg hq, ih]; simp [Memory.read, h1, h2]

/-- A command that may write the flash, from its fetch to the next state. -/
theorem next_flash {s : State} {u : Sub} {c : HostCmd} (h : s.Takes u c) (hf : c.writesFlash = true) :
    ∃ s', s.Fetched u s' ∧ ∀ t, s'.startHost u c = t → t.Calm →
      (Host.Outcome.next (s.flashing (fun x => x.arrive u c)) : Host.Outcome State Fault Refusal) = .next { t with pending := s.pending } := by
  obtain ⟨s', h1, h2⟩ : ∃ s', s.Fetched u s' ∧ s.arrive u c = s'.startHost u c := by
    obtain ⟨q, x, y, hq, hx, hon, hroom, hfresh, hy, hyon, hyr, hyw⟩ := h.queue
    obtain ⟨m, l, hcount⟩ : ∃ m l, s.countFetch u c = { s with pmc := m, out := l ++ s.out } := by
      unfold State.countFetch
      dsimp only
      split <;> exact count_frame _ _
    refine ⟨State.fetch { s with pmc := m, out := l ++ s.out } u q (s.slotsOf u x) x (s.cmdPart u c), ⟨⟨l, _, _, _, _, _, rfl⟩, rfl, q, hq, ?_, ?_⟩, ?_⟩
    · exact ⟨x.take u.tag (s.slotsOf u x) (s.cmdPart u c), y, AMap.get?_set_same .., hy, hyon, hyr, hyw⟩
    · intro f n ⟨y', x', h1, h2⟩
      by_cases hk : (f.index, n) = (u.fn.index, q)
      · have h3 : s.sq f n = s.sq u.fn q := by unfold State.sq; rw [hk]
        rw [h3, hx] at h1
        cases h1
        refine ⟨x.take u.tag (s.slotsOf u x) (s.cmdPart u c), x', ?_, h2⟩
        show (s.sqs.set (u.fn.index, q) _).get? (f.index, n) = _
        rw [hk]; exact AMap.get?_set_same ..
      · refine ⟨y', x', ?_, h2⟩
        show (s.sqs.set (u.fn.index, q) _).get? (f.index, n) = _
        rw [AMap.get?_set_other _ _ hk]; exact h1
    · unfold State.arrive
      simp only [hq, hx]
      rw [if_pos (by simp [hon, h.fetches, hroom])]
      unfold State.fromQueue
      simp only [hfresh, hcount]
      have hb : (State.fetch { s with pmc := m, out := l ++ s.out } u q (s.slotsOf u x) x (s.cmdPart u c)).takeBounce u q x.head
          = (true, State.fetch { s with pmc := m, out := l ++ s.out } u q (s.slotsOf u x) x (s.cmdPart u c)) := by
        unfold State.takeBounce
        have : (State.fetch { s with pmc := m, out := l ++ s.out } u q (s.slotsOf u x) x (s.cmdPart u c)).bounceMode u.fn = false := h.plain
        simp [this]
      have hs : State.slotsOf { s with pmc := m, out := l ++ s.out } u x = s.slotsOf u x := rfl
      have hc2 : State.cmdPart { s with pmc := m, out := l ++ s.out } u c = s.cmdPart u c := rfl
      simp only [hs, hc2, hb, Bool.not_true, Bool.false_eq_true, if_false]
      rw [if_neg]
      · unfold State.begin
        rw [refusal_fetch s u c q _ x m _ _ hx h.plain, h.passes]
        simp [hf]
      · have : (State.fetch { s with pmc := m, out := l ++ s.out } u q (s.slotsOf u x) x (s.cmdPart u c)).boot.phase = .ready := h.ready
        simp [this]
  refine ⟨s', h1, fun t ht hc => ?_⟩
  have hcp : ({ t with pending := s.pending } : State).Calm := ⟨hc.1, hc.2, hc.3, hc.4, hc.5, hc.6, hc.7, hc.8⟩
  have e : s.flashing (fun x => x.arrive u c) = ({ t with pending := s.pending } : State).settle := by
    unfold State.flashing
    dsimp only
    rw [h2, ht]
  rw [e, settle_calm hcp]

/-- A command that may write the flash and completes at its start. -/
theorem flash_acts {s : State} {u : Sub} {c : HostCmd} {st : Status} {r n : Nat} (F : State → State) (ht : s.Takes u c)
    (hf : c.writesFlash = true)
    (h : ∀ s', s.Io s' → s'.startHost u c = (F s').complete u st r n ∧ (F s').sqs = s'.sqs ∧ (F s').cqs = s'.cqs ∧ (∃ l, (F s').out = l ++ s'.out) ∧
      (F s').Calm) :
    ∃ s' t, (Host.Outcome.next (s.flashing (fun x => x.arrive u c)) : Host.Outcome State Fault Refusal) = .next { t with pending := s.pending } ∧
      s.Posts { t with pending := s.pending } u st r n ∧ s.Io s' ∧ (F s').Io t := by
  obtain ⟨s', hF, hn⟩ := next_flash ht hf
  obtain ⟨e, h1, h2, h3, hc⟩ := h s' hF.1
  obtain ⟨g1, g2⟩ := hF.complete h1 h2 h3 st r n
  exact ⟨s', _, hn _ e (hc.io g2), g1, hF.1, g2⟩

/-- A completion that finds room waits nowhere: no queue holds it back, and every queue holds back what it held back before. -/
theorem cqs_post (s : State) (c : Completion) (n : Nat) (hs : c.sq = some n) (ho : s.Open c.fn n) :
    ∀ kc ∈ (s.post c).cqs, kc ∈ s.cqs ∨ kc.2.waiting = [] := by
  obtain ⟨y, x, hy, hx, hon, hr, hw⟩ := ho
  unfold State.post
  simp only [hs]
  generalize ht : (if (c.notice || c.dup) = true then s
    else { s with arrived := dropOwner ⟨c.fn, some n, c.tag⟩ s.arrived }) = t
  have h1 : t.sq c.fn n = some y := by rw [← ht]; split <;> exact hy
  have h2 : t.cq c.fn y.cq = some x := by rw [← ht]; split <;> exact hx
  have h3 : t.cqs = s.cqs := by rw [← ht]; split <;> rfl
  rw [h1]; dsimp only; rw [h2]; dsimp only
  rw [if_neg (by simp [hon]), if_pos (by simp [hr, hw])]
  unfold State.writeCqe
  rw [hs, h2]
  dsimp only
  obtain ⟨v, hv, hvc⟩ : ∃ v : State, v = (State.put (match t.sq c.fn n with
      | some y => if c.notice = true then t else t.setSq c.fn n { y with tags := dropTag c y.tags }
      | none => t) (.cqe c.fn y.cq c (t.sqHead c.fn n) x.mark)).sealed c.fn ∧ v.cqs = s.cqs := by
    refine ⟨_, rfl, ?_⟩
    rw [h1]
    dsimp only
    obtain ⟨b, hb⟩ := sealed_frame (State.put (if c.notice = true then t else t.setSq c.fn n { y with tags := dropTag c y.tags })
      (.cqe c.fn y.cq c (t.sqHead c.fn n) x.mark)) c.fn
    rw [hb]
    split
    · exact h3
    · exact h3
  have hst : ∀ z : Cq, z.waiting = [] → ∀ kc ∈ ((v.setCq c.fn y.cq z).cqEvent c.fn y.cq).cqs, kc ∈ s.cqs ∨ kc.2.waiting = [] := by
    intro z hz kc hk
    have hz' : (v.setCq c.fn y.cq z).cq c.fn y.cq = some z := AMap.get?_set_same ..
    unfold State.cqEvent at hk
    rw [hz'] at hk
    dsimp only at hk
    have hb : ∀ m : AMap (Nat × Nat) Cq, (∀ kc ∈ m, kc ∈ s.cqs ∨ kc.2.waiting = []) → ∀ w : Cq, w.waiting = [] →
        ∀ kc ∈ m.set (c.fn.index, y.cq) w, kc ∈ s.cqs ∨ kc.2.waiting = [] := by
      intro m hm w hw kc hk
      rcases AMap.mem_set hk with h | h
      · exact hm kc h
      · exact .inr (by rw [h]; exact hw)
    have hv1 : ∀ kc ∈ v.cqs.set (c.fn.index, y.cq) z, kc ∈ s.cqs ∨ kc.2.waiting = [] :=
      hb v.cqs (fun kc h => .inl (by rw [← hvc]; exact h)) z hz
    split at hk
    · exact hv1 kc hk
    · exact hb _ hv1 { z with unsignalled := z.unsignalled + 1, timer := true } hz kc hk
  have := hst { x with posted := x.posted + 1, held := x.held + 1 } hw
  rw [hv, h1] at this
  rw [h1]
  exact this

-- The management mailbox --------------------------------------------------------------------------------------------------------------

/-- Registers may change, and the mailbox's state, and what a frame of inputs and outputs changes. -/
def State.Mbx (s t : State) : Prop := s.Io { t with regs := s.regs, mboxBusy := s.mboxBusy }

theorem State.Mbx.eq {s t : State} (h : s.Mbx t) : ∃ l m a b d e r x,
    t = { s with out := l ++ s.out, pmc := m, sqs := a, cqs := b, bounce := d, arrived := e, regs := r, mboxBusy := x } := by
  obtain ⟨l, m, a, b, d, e, h⟩ := h
  exact ⟨l, m, a, b, d, e, t.regs, t.mboxBusy, congrArg (fun z : State => { z with regs := t.regs, mboxBusy := t.mboxBusy }) h⟩

theorem State.Mbx.trans {s t u : State} (h : s.Mbx t) (g : t.Mbx u) : s.Mbx u := by
  obtain ⟨l, m, a, b, d, e, r, x, rfl⟩ := h.eq
  obtain ⟨l', m', a', b', d', e', r', x', rfl⟩ := g.eq
  exact ⟨l' ++ l, _, _, _, _, _, by simp only [List.append_assoc]; rfl⟩

theorem State.Mbx.calm {s t : State} (h : s.Mbx t) (hc : s.Calm) : t.Calm := by
  obtain ⟨l, m, a, b, d, e, r, x, rfl⟩ := h.eq
  exact ⟨hc.1, hc.2, hc.3, hc.4, hc.5, hc.6, hc.7, hc.8⟩

theorem State.Io.mbx {s t : State} (h : s.Io t) : s.Mbx t := by
  obtain ⟨l, m, a, b, d, e, rfl⟩ := h
  exact ⟨l, m, a, b, d, e, rfl⟩

theorem State.Mbx.pending {s t : State} (h : s.Mbx t) : s.Mbx { t with pending := s.pending } := by
  obtain ⟨l, m, a, b, d, e, r, x, rfl⟩ := h.eq
  exact ⟨l, _, _, _, _, _, rfl⟩

theorem State.Mbx.kept {s t : State} (h : s.Mbx t) : s.Mbx (s.kept t) := by
  obtain ⟨l, m, a, b, d, e, r, x, rfl⟩ := h.eq
  exact ⟨l, _, _, _, _, _, rfl⟩

theorem setMbox_shape (s : State) (f : Fn) (k v : Nat) : ∃ a, s.setMbox f k v = { s with regs := a } := ⟨_, rfl⟩

theorem mboxAnswer_shape (s : State) (c : Completion) :
    ∃ a, s.mboxAnswer c = State.setFld { s with regs := a } Fld.HIF_MBOX_CTL_DONE 1 c.fn.index := by
  unfold State.mboxAnswer
  dsimp only [List.foldl]
  obtain ⟨a0, h0⟩ := setMbox_shape s c.fn (16 + 0) (c.result.toNat / 2 ^ (32 * 0))
  rw [h0]
  obtain ⟨a1, h1⟩ := setMbox_shape { s with regs := a0 } c.fn (16 + 1) (c.result.toNat / 2 ^ (32 * 1))
  rw [h1]
  obtain ⟨a2, h2⟩ := setMbox_shape { s with regs := a1 } c.fn (16 + 2) (c.result.toNat / 2 ^ (32 * 2))
  rw [h2]
  obtain ⟨a3, h3⟩ := setMbox_shape { s with regs := a2 } c.fn (16 + 3) (c.result.toNat / 2 ^ (32 * 3))
  rw [h3]
  obtain ⟨a4, h4⟩ := setMbox_shape { s with regs := a3 } c.fn 20 c.report
  rw [h4]
  obtain ⟨a5, h5⟩ := setMbox_shape { s with regs := a4 } c.fn 22 (c.tag % 2 ^ 16 + c.status.toNat * 2 ^ 16)
  rw [h5]
  exact ⟨a5, rfl⟩

/-- A completion in the mailbox: written there, DONE set, and the mailbox free again. -/
theorem post_mbox (s : State) (c : Completion) (h : c.sq = none) :
    s.Mbx (s.post c) ∧ s.Writes (s.post c) (.mbox c) ∧ (s.post c).flag Fld.HIF_MBOX_CTL_DONE c.fn.index = true ∧ c.fn.index ∉ (s.post c).mboxBusy := by
  obtain ⟨s1, ⟨d, h1⟩, hp⟩ : ∃ s1, (∃ d, s1 = { s with arrived := d }) ∧
      s.post c = ({ s1 with mboxBusy := s1.mboxBusy.filter (fun i => i != c.fn.index) }.mboxAnswer c).put (.mbox c) := by
    unfold State.post
    rw [h]
    dsimp only
    split
    · exact ⟨s, ⟨s.arrived, rfl⟩, rfl⟩
    · exact ⟨_, ⟨_, rfl⟩, rfl⟩
  obtain ⟨a, ha⟩ := mboxAnswer_shape { s1 with mboxBusy := s1.mboxBusy.filter (fun i => i != c.fn.index) } c
  rw [ha] at hp
  rw [hp]
  subst h1
  refine ⟨⟨[_], _, _, _, _, _, rfl⟩, ⟨[_], rfl, by simp⟩, ?_, ?_⟩
  · show State.flag (State.setFld { s with arrived := d, mboxBusy := s.mboxBusy.filter (fun i => i != c.fn.index), regs := a } Fld.HIF_MBOX_CTL_DONE 1 c.fn.index) Fld.HIF_MBOX_CTL_DONE c.fn.index = true
    unfold State.flag
    rw [fld_setFld_same _ _ _ _ _ (by decide) (by decide)]
    decide
  · show c.fn.index ∉ s.mboxBusy.filter (fun i => i != c.fn.index)
    simp

end Sys2Proof.Machine
end

