-- ==== Sys2Proof/Laws/Checks.lean ====
section
/-!
SUPPORT. The checks that every host command passes: its arrival, and its end where a check refuses it.
-/

namespace Sys2Proof.Machine

open Sys2Proof

/-- A host command arrives. -/
theorem exec_host {i : Instr} {u : Sub} {c : HostCmd} (s : State) (h : hostOf i = some (u, c)) :
    exec i s = .next (if c.writesFlash then s.flashing (fun t => t.arrive u c) else s.always (fun t => t.arrive u c)) := by
  cases i <;> first | (cases h; rfl) | (exact absurd h (by simp [hostOf]))

theorem count_fetch (s : State) (u : Sub) (c : HostCmd) : ∃ m l, s.countFetch u c = { s with pmc := m, out := l ++ s.out } := by
  unfold State.countFetch
  dsimp only
  split <;> exact count_frame _ _

/-- A command that its queue holds, with a new tag, arrives: fetched, it waits for S15 or goes on to its checks. -/
theorem arrive_holds {s : State} {u : Sub} {q : Nat} {x : Sq} (c : HostCmd) (h : s.Holds u q x) (ht : ∀ t ∈ x.tags, t.tag ≠ u.tag) :
    ∃ s', s.Fetched u s' ∧ s'.refusal u c = s.refusal u c ∧
      s.arrive u c = if s.boot.phase ≠ .ready then { s' with waitS15 := s.waitS15 ++ [(u, c)] } else s'.begin u c := by
  obtain ⟨y, z, hy, hz, hzon, hzr, hzw⟩ := h.opens
  have hx := h.queue
  rw [hx] at hy
  cases hy
  obtain ⟨m, l, hcount⟩ := count_fetch s u c
  refine ⟨State.fetch { s with pmc := m, out := l ++ s.out } u q (s.slotsOf u x) x (s.cmdPart u c), ⟨⟨l, _, _, _, _, _, rfl⟩, rfl, q, h.sub, ?_, ?_⟩,
    refusal_fetch s u c q _ x m _ _ hx h.plain, ?_⟩
  · exact ⟨x.take u.tag (s.slotsOf u x) (s.cmdPart u c), z, AMap.get?_set_same .., hz, hzon, hzr, hzw⟩
  · intro f n ⟨y', x', h1, h2⟩
    by_cases hk : (f.index, n) = (u.fn.index, q)
    · have h3 : s.sq f n = s.sq u.fn q := by unfold State.sq; rw [hk]
      rw [h3, hx] at h1
      cases h1
      refine ⟨x.take u.tag (s.slotsOf u x) (s.cmdPart u c), x', ?_, h2⟩
      show (s.sqs.set (u.fn.index, q) _).get? (f.index, n) = _
      rw [hk]; exact AMap.get?_set_same ..
    · refine ⟨y', x', ?_, h2⟩
      show (s.sqs.set (u.fn.index, q) _).get? (f.index, n) = _
      rw [AMap.get?_set_other _ _ hk]; exact h1
  · unfold State.arrive
    simp only [h.sub, hx]
    rw [if_pos (by simp [h.on, h.fetches, h.room])]
    unfold State.fromQueue
    have hfresh : x.tags.any (fun t => t.tag == u.tag) = false := by
      rw [List.any_eq_false]; intro t htm; simp [ht t htm]
    simp only [hfresh, hcount]
    have hb : (State.fetch { s with pmc := m, out := l ++ s.out } u q (s.slotsOf u x) x (s.cmdPart u c)).takeBounce u q x.head
        = (true, State.fetch { s with pmc := m, out := l ++ s.out } u q (s.slotsOf u x) x (s.cmdPart u c)) := by
      unfold State.takeBounce
      have : (State.fetch { s with pmc := m, out := l ++ s.out } u q (s.slotsOf u x) x (s.cmdPart u c)).bounceMode u.fn = false := h.plain
      simp [this]
    have hs : State.slotsOf { s with pmc := m, out := l ++ s.out } u x = s.slotsOf u x := rfl
    have hc2 : State.cmdPart { s with pmc := m, out := l ++ s.out } u c = s.cmdPart u c := rfl
    simp only [hs, hc2, hb, Bool.not_true, Bool.false_eq_true, if_false]
    have hp : (State.fetch { s with pmc := m, out := l ++ s.out } u q (s.slotsOf u x) x (s.cmdPart u c)).boot.phase = s.boot.phase := rfl
    rw [hp]
    by_cases hr : s.boot.phase = .ready
    · simp [hr]
    · rw [if_pos (by simpa using hr), if_pos hr]
      rfl

theorem Io_pending {s t : State} (h : s.Io t) : s.Io { t with pending := s.pending } := by
  obtain ⟨l, m, a, b, d, e, rfl⟩ := h
  exact ⟨l, m, a, b, d, e, rfl⟩

/-- A command that a check refuses completes with that status and does nothing else. -/
theorem host_refused {i : Instr} {u : Sub} {c : HostCmd} {q : Nat} {x : Sq} {s : State} {st : Status} (hi : hostOf i = some (u, c)) (hc : s.Stays)
    (h : s.Holds u q x) (ht : ∀ t ∈ x.tags, t.tag ≠ u.tag) (hr : s.boot.phase = .ready) (hst : s.refusal u c = some st) :
    ∃ t, exec i s = .next t ∧ s.Posts t u st 0 0 ∧ s.Io t := by
  obtain ⟨s', hF, h1, h2⟩ := arrive_holds c h ht
  obtain ⟨g1, g2⟩ := hF.complete (v := s') rfl rfl ⟨[], rfl⟩ st 0 0
  have hb : s.arrive u c = s'.kept (s'.complete u st) := by
    rw [h2, if_neg (by simp [hr])]
    unfold State.begin
    rw [h1, hst]
  have hio : s.Io (s'.kept (s'.complete u st)) := hF.1.trans g2.kept
  rw [exec_host s hi]
  split
  · refine ⟨{ s'.kept (s'.complete u st) with pending := s.pending }, ?_, g1, Io_pending hio⟩
    have : s.flashing (fun t => t.arrive u c) = ({ s'.kept (s'.complete u st) with pending := s.pending } : State).settle := by
      unfold State.flashing
      dsimp only
      rw [hb]
    rw [this, settle_stays (hc.io (Io_pending hio))]
  · refine ⟨s.kept (s'.kept (s'.complete u st)), ?_, g1, hio.kept⟩
    rw [State.always, hb, settle_stays (hc.io hio).kept]

end Sys2Proof.Machine
end

