-- ==== Sys2Proof/Laws/Idle.lean ====
section
/-!
SUPPORT. Error records, and freezes of a device in which no command is in progress.
-/

namespace Sys2Proof.Machine

open Sys2Proof

-- Error records ------------------------------------------------------------------------------------------------------------------------

theorem State.Rec.refl (s : State) : s.Rec s := ⟨s.err, s.aon, s.freeCtr, s.regs, [], rfl⟩

theorem State.Rec.trans {s t u : State} (h : s.Rec t) (g : t.Rec u) : s.Rec u := by
  obtain ⟨e, a, n, r, l, rfl⟩ := h
  obtain ⟨e', a', n', r', l', rfl⟩ := g
  exact ⟨e', a', n', r', l' ++ l, by simp only [List.append_assoc]⟩

theorem State.Calm.of_rec {s t : State} (h : s.Calm) (g : s.Rec t) : t.Calm := by
  obtain ⟨_, _, _, _, _, rfl⟩ := g
  exact ⟨h.1, h.2, h.3, h.4, h.5, h.6, h.7, h.8⟩

theorem rec_tick (s : State) : s.Rec s.tick := ⟨s.err, _, _, s.regs, [], rfl⟩
theorem rec_signal (s : State) (f : Fn) (v : Nat) : s.Rec (s.signal f v) := ⟨s.err, s.aon, s.freeCtr, s.regs, [_], rfl⟩
theorem rec_errAgain (s : State) (r : ErrRec) : s.Rec (s.errAgain r) := ⟨_, s.aon, s.freeCtr, s.regs, [], rfl⟩
theorem rec_errAdd (s : State) (r : ErrRec) : s.Rec (s.errAdd r) := ⟨_, s.aon, s.freeCtr, s.regs, [], rfl⟩
theorem rec_recoveries (s : State) (l : List Nat) : s.Rec (s.recoveries l) := ⟨_, s.aon, s.freeCtr, s.regs, [], rfl⟩

theorem errNotify_frame (s : State) (p : Option Nat) : ∃ l, s.errNotify p = { s with out := l ++ s.out } := by
  have hd : ∀ t : State, (∃ l, t = { s with out := l ++ s.out }) → ∀ v : Nat,
      ∃ l, (if s.flag Fld.ERR_NOTIFY_DEV_ENABLE then t.signalPf v else t) = { s with out := l ++ s.out } := by
    rintro t ⟨l, rfl⟩ v
    split
    · exact ⟨_ :: l, rfl⟩
    · exact ⟨l, rfl⟩
  unfold State.errNotify
  dsimp only
  apply hd
  split
  · exact ⟨[], rfl⟩
  · split
    · split
      · exact ⟨[_], rfl⟩
      · exact ⟨[], rfl⟩
    · exact ⟨[], rfl⟩

theorem errCount_frame (s : State) (p : Option Nat) (c : ErrClass) (n : Bool) : ∃ r, s.errCount p c n = { s with regs := r } := by
  unfold State.errCount
  split
  · exact ⟨s.regs, rfl⟩
  · dsimp only
    split <;> split <;> exact ⟨_, rfl⟩

theorem rec_errNotify (s : State) (p : Option Nat) : s.Rec (s.errNotify p) := by
  obtain ⟨l, h⟩ := errNotify_frame s p
  exact ⟨s.err, s.aon, s.freeCtr, s.regs, l, h⟩

theorem rec_errCount (s : State) (p : Option Nat) (c : ErrClass) (n : Bool) : s.Rec (s.errCount p c n) := by
  obtain ⟨r, h⟩ := errCount_frame s p c n
  exact ⟨s.err, s.aon, s.freeCtr, r, [], h⟩

theorem rec_note (s : State) (p : Option Nat) (c : ErrClass) (n : Bool) :
    s.Rec (if c.ge .uc then (s.errCount p c n).errNotify p else s.errCount p c n) := by
  split
  · exact (rec_errCount s _ _ _).trans (rec_errNotify ..)
  · exact rec_errCount s _ _ _

/-- Recording an error changes the error rings, the error counters, time and signals. -/
theorem rec_detect (s : State) (f : ErrIn) : s.Rec (s.detect f).2 := by
  have ht := rec_tick s
  unfold State.detect
  dsimp only
  generalize s.tick = t at ht ⊢
  split
  · refine ht.trans ?_
    exact (rec_errAgain t _).trans (rec_errCount _ _ _ _)
  · refine ht.trans ?_
    dsimp only
    generalize ErrIn.record _ _ _ _ _ _ _ = r
    have h := rec_errAdd t r
    generalize t.errAdd r = v at h ⊢
    exact h.trans (rec_note ..)

/-- A fault while no recovery runs, which no record takes up, gets a record of its own (R735, R737). -/
theorem detect_new (s : State) (f : ErrIn) (ho : s.err.open_ = []) (hn : s.tick.coalesces f = none) :
    (s.detect f).1 = f.cls ∧
    (s.detect f).2.err = (s.tick.errAdd (f.record s.err.nextSeq f.cls none false 0 s.tick.aon)).err := by
  have e : s.detect f = (f.cls, if f.cls.ge .uc then
      ((s.tick.errAdd (f.record s.err.nextSeq f.cls none false 0 s.tick.aon)).errCount f.part f.cls false).errNotify f.part
      else (s.tick.errAdd (f.record s.err.nextSeq f.cls none false 0 s.tick.aon)).errCount f.part f.cls false) := by
    unfold State.detect
    dsimp only
    have h0 : s.tick.err.open_ = [] := ho
    have h2 : ¬ (2 ≤ 0) := by omega
    simp only [h0, List.filter_nil, leastBy, Option.isSome_none, Bool.false_eq_true, if_false, if_neg h2]
    rw [show s.tick.coalesces ⟨f.cls, f.source, f.part, f.ctx, f.status, f.location, f.handle, f.detail⟩ = none from hn]
    rfl
  rw [e]
  refine ⟨rfl, ?_⟩
  dsimp only
  obtain ⟨r, h⟩ := errCount_frame (s.tick.errAdd (f.record s.err.nextSeq f.cls none false 0 s.tick.aon)) f.part f.cls false
  split
  · obtain ⟨l, h2⟩ := errNotify_frame ((s.tick.errAdd (f.record s.err.nextSeq f.cls none false 0 s.tick.aon)).errCount f.part f.cls false) f.part
    rw [h2, h]
  · rw [h]

/-- A record is written with the time of its detection. -/
theorem detect_aon (s : State) (f : ErrIn) : (s.detect f).2.aon = s.tick.aon := by
  have hn : ∀ (t : State) (p : Option Nat), (t.errNotify p).aon = t.aon := by
    intro t p
    obtain ⟨l, h⟩ := errNotify_frame t p
    rw [h]
  have hc : ∀ (t : State) (p : Option Nat) (c : ErrClass) (n : Bool), (t.errCount p c n).aon = t.aon := by
    intro t p c n
    obtain ⟨l, h⟩ := errCount_frame t p c n
    rw [h]
  have hq : ∀ (t : State) (r : ErrRec) (p : Option Nat) (c : ErrClass) (n : Bool),
      (if c.ge .uc then ((t.errAdd r).errCount p c n).errNotify p else (t.errAdd r).errCount p c n).aon = t.aon := by
    intro t r p c n
    split
    · rw [hn, hc]; rfl
    · rw [hc]; rfl
  unfold State.detect
  dsimp only
  generalize s.tick = t
  split
  · rw [hc]; rfl
  · dsimp only
    generalize ErrIn.record _ _ _ _ _ _ _ = r
    exact hq ..

theorem ringAdd_head (n : Nat) (l : List ErrRec) (r : ErrRec) : (ringAdd n l r).1.head? = some r := by
  unfold ringAdd
  split
  · rfl
  · split <;> rfl

theorem errAdd_head (s : State) (r : ErrRec) : (s.errAdd r).err.ring.head? = some r := by
  unfold State.errAdd
  dsimp only
  split <;> exact ringAdd_head ..

theorem coalesces_not_ce (s : State) (f : ErrIn) (h : f.cls ≠ .ce) : s.coalesces f = none := by
  unfold State.coalesces
  rw [if_pos (by simpa using h)]

-- Faults ---------------------------------------------------------------------------------------------------------------------------------

theorem logs_detect {s s0 : State} {f : ErrIn} (he : s0.err = { s.err with open_ := [] })
    (hn : s0.tick.coalesces f = none) : s.Logs (s0.detect f).2 f.cls f.source f.part f.location f.detail ∧
      (s0.detect f).1 = f.cls := by
  have ho : s0.err.open_ = [] := by rw [he]
  obtain ⟨h1, h2⟩ := detect_new s0 f ho hn
  refine ⟨⟨f.record s0.err.nextSeq f.cls none false 0 s0.tick.aon, ?_, ?_, rfl, rfl, rfl, rfl, rfl, rfl, rfl, rfl, rfl, rfl, rfl⟩, h1⟩
  · rw [h2]; exact errAdd_head ..
  · show s0.err.nextSeq = _
    rw [he]; rfl

theorem coalesces_none_of {s : State} {f : ErrIn} (h : ∀ r ∈ s.err.ring, r.cls ≠ .ce) : s.coalesces f = none := by
  unfold State.coalesces
  split
  · rfl
  · have : s.err.ring.find? (fun x => x.cls == .ce) = none := by
      rw [List.find?_eq_none]; intro r hr; simpa using h r hr
    rw [this]

/-- The error record that a fault's report asks for. -/
def FaultRep.errIn (f : FaultRep) : ErrIn := ⟨f.cls, f.source, f.part, f.ctx, f.poison.status, f.location, 0, f.detail⟩

theorem fault_plain (s : State) (f : FaultRep) (hr : f.running = []) (h : f.cls ≠ .uc ∨ f.source ≠ 7) :
    s.fault f = ((s.recoveries []).detect f.errIn).2.actOn ((s.recoveries []).detect f.errIn).1 f := by
  unfold State.fault
  rw [hr]
  dsimp only
  rw [if_neg (by rintro ⟨a, b, _⟩; rcases h with h | h <;> exact h (by assumption))]
  rfl

theorem recoveries_nil (s : State) : s.recoveries [] = { s with err := { s.err with open_ := [] } } := by
  have h : s.err.open_.filter (fun r => ([] : List Nat).contains r.seq) = [] := by
    rw [List.filter_eq_nil_iff]; intro a _; simp
  unfold State.recoveries
  rw [h]

theorem doHardwareFault_awake {s : State} (h : s.awake = true) (f : FaultRep) : doHardwareFault f s = s.fault f.classed := by
  unfold State.awake at h
  simp only [Bool.and_eq_true, Bool.not_eq_true'] at h
  unfold doHardwareFault
  cases hp : s.boot.phase <;> simp_all

theorem logs_kept {s t : State} {c : ErrClass} {a : Nat} {p : Option Nat} {b d : Nat} (h : s.Logs t c a p b d) : s.Logs (s.kept t) c a p b d := h
theorem rec_kept {s t : State} (h : s.Rec t) : s.Rec (s.kept t) := by
  obtain ⟨e, a, n, r, l, rfl⟩ := h; exact ⟨e, a, n, r, l, rfl⟩

-- A device without commands ------------------------------------------------------------------------------------------------------------

theorem State.Idle.commandsOf {s : State} (h : s.Idle) (p : Nat) : s.commandsOf p = [] := by
  have hw : (s.sessions.filter (fun kv => kv.2.part == p)).flatMap
      (fun kv => kv.2.waiting.map (fun w => Victim.queued kv.1 w.1 w.2)) = [] := by
    rw [List.flatMap_eq_nil_iff]
    intro kv hk
    simp [h.waiting kv (List.mem_of_mem_filter hk)]
  have hl : (s.ctxs.filter (fun kv => kv.1.1 == p)).flatMap (fun kv => kv.2.asked.map (fun o => Victim.load p kv.1.2 o)
      ++ kv.2.held.map (fun w => Victim.held p kv.1.2 w.1 w.2)) = [] := by
    rw [List.flatMap_eq_nil_iff]
    intro kv hk
    simp [(h.loads kv (List.mem_of_mem_filter hk)).1, (h.loads kv (List.mem_of_mem_filter hk)).2]
  unfold State.commandsOf
  simp only [h.reqs, h.handoffs, h.parks, h.revives, h.movesOut, h.bondWait, h.alloc, h.scans, h.ckps, h.queue, hw, hl,
    List.filter_nil, List.map_nil, List.filterMap_nil, List.flatMap_nil, List.append_nil]

theorem State.Idle.endCommands {s : State} (h : s.Idle) (p : Nat) (st : Status) : s.endCommands p st = s := by
  unfold State.endCommands State.abortDevice State.byArrival
  simp [h.commandsOf p, h.bonds, sortBy]

theorem modCores_frame (s : State) (f : Core → Core) (l : List Nat) :
    ∃ c, l.foldl (fun (a : State) e => a.modCore e f) s = { s with cores := c } :=
  foldl_keeps (fun s t : State => ∃ c, t = { s with cores := c }) (fun s => ⟨s.cores, rfl⟩)
    (by rintro s t u ⟨c, rfl⟩ ⟨c', rfl⟩; exact ⟨c', rfl⟩) _ (fun s e => ⟨_, rfl⟩) l s

theorem stopCores_frame (s : State) (p : Nat) : ∃ b c, s.stopCores p = { s with bars := b, cores := c } := by
  unfold State.stopCores
  obtain ⟨c, h⟩ := modCores_frame { s with bars := s.bars.filter (fun kv => kv.1.1 / 64 != p) }
    (fun c => { c with queue := [], paused := [], stopping := c.running.isSome })
    (State.coresOf { s with bars := s.bars.filter (fun kv => kv.1.1 / 64 != p) } p)
  exact ⟨_, c, h⟩

theorem State.Idle.of_cores {s : State} (h : s.Idle) (b : AMap (Nat × Nat) Barrier) (c : AMap Nat Core) :
    ({ s with bars := b, cores := c } : State).Idle :=
  { waiting := h.waiting, queue := h.queue, pulls := h.pulls, maps := h.maps, resets := h.resets, removals := h.removals
    removes := h.removes, restart := h.restart, reqs := h.reqs, handoffs := h.handoffs, parks := h.parks, revives := h.revives
    movesOut := h.movesOut, bonds := h.bonds, bondWait := h.bondWait, alloc := h.alloc, scans := h.scans, ckps := h.ckps
    loads := h.loads, early := h.early, late := h.late }

theorem State.Idle.of_rec {s t : State} (h : s.Idle) (g : s.Rec t) : t.Idle := by
  obtain ⟨e, a, n, r, l, rfl⟩ := g
  exact
  { waiting := h.waiting, queue := h.queue, pulls := h.pulls, maps := h.maps, resets := h.resets, removals := h.removals
    removes := h.removes, restart := h.restart, reqs := h.reqs, handoffs := h.handoffs, parks := h.parks, revives := h.revives
    movesOut := h.movesOut, bonds := h.bonds, bondWait := h.bondWait, alloc := h.alloc, scans := h.scans, ckps := h.ckps
    loads := h.loads, early := h.early, late := h.late }

theorem awake_ready {s : State} (h : s.boot.phase = .ready) (h2 : s.err.frozen = false) : s.awake = true := by
  unfold State.awake; rw [h, h2]; rfl

theorem memoryUp_ready {s : State} (h : s.boot.phase = .ready) (h2 : s.err.frozen = false) : s.memoryUp = true := by
  unfold State.memoryUp State.ranStep; rw [h, h2]; rfl

/-- Freezing the partitions of a device without commands stops its cores. -/
theorem alarmFreezes_idle {s : State} (h : s.Idle) (l : List Nat) :
    ∃ b c, l.foldl (fun (a : State) p => a.alarmFreeze p) s = { s with bars := b, cores := c } := by
  induction l generalizing s with
  | nil => exact ⟨s.bars, s.cores, rfl⟩
  | cons p l ih =>
    rw [List.foldl_cons]
    obtain ⟨b, c, hs⟩ := stopCores_frame s p
    have h2 : s.alarmFreeze p = { s with bars := b, cores := c } := by
      unfold State.alarmFreeze
      rw [hs, (h.of_cores b c).endCommands]
    rw [h2]
    obtain ⟨b', c', h3⟩ := ih (h.of_cores b c)
    exact ⟨b', c', h3⟩

theorem endAll_idle {s : State} (h : s.Idle) (st : Status) :
    ∃ q, s.endAll st = { s with cqs := q, resets := [], removals := [], removeWait := [], waitS15 := [] } := by
  have he : ∀ l : List Nat, l.foldl (fun (a : State) p => a.endCommands p st) s = s := by
    intro l
    induction l with
    | nil => rfl
    | cons p l ih => rw [List.foldl_cons, h.endCommands, ih]
  unfold State.endAll
  simp only [he, h.resets, h.removals, h.removes, h.early, List.foldl_nil]
  exact ⟨_, rfl⟩

theorem portsDown_down (s : State) (l : List Nat) (r : Nat) (a b : Bool)
    (h : ∀ n x, s.ports.get? n = some x → x.state = .down) :
    l.foldl (fun (t : State) n => t.portDown n r a b) s = s := by
  induction l with
  | nil => rfl
  | cons n l ih =>
    have : s.portDown n r a b = s := by
      unfold State.portDown
      split
      · rfl
      · next x hx => rw [if_pos (h n x hx)]
    rw [List.foldl_cons, this, ih]

/-- A port without peers goes DOWN; the start ledger takes it where it is left so. -/
theorem portDown_alone {s : State} {n : Nat} {x : Port} (hx : s.ports.get? n = some x) (h : x.state ≠ .down) (hp : s.peersOn n = []) (r : Nat) (left : Bool)
    {t : State} (ht : t = { (if left && !x.leftDown then s.ledger 12 3 0 0 n else s) with
      ports := s.ports.set n { x.restart 0 .down with leftDown := x.leftDown || left }, sec := { s.sec with hops := s.sec.hops.filter (fun h => h.1 != n) } }) :
    s.portDown n r false left =
      (if (x.state = .train ∨ x.state = .align) ∧ x.keys.length ≤ 1 then t else t.record ⟨.uc, 7, none, 0x3F, 0, n, 0, r⟩) := by
  have hf : ∀ t : State, t.peers = s.peers → (t.peersOn n).foldl (fun (a : State) i => a.losePeer i) t = t := by
    intro t ht
    have : t.peersOn n = [] := by unfold State.peersOn at hp ⊢; rw [ht]; exact hp
    rw [this]; rfl
  have e : (if left && !x.leftDown then s.ledger 12 3 0 0 n else s).ports = s.ports ∧
      (if left && !x.leftDown then s.ledger 12 3 0 0 n else s).sec = s.sec ∧
      (if left && !x.leftDown then s.ledger 12 3 0 0 n else s).peers = s.peers := by
    split <;> exact ⟨rfl, rfl, rfl⟩
  unfold State.portDown
  simp only [hx]
  rw [if_neg h]
  simp only [Bool.false_eq_true, if_false]
  have ht' := hf t (by rw [ht]; exact e.2.2)
  rw [e.1, e.2.1, ← ht, ht']

end Sys2Proof.Machine
end

