-- ==== Sys2Proof/Laws/Cores.lean ====
section
/-!
SUPPORT. Cores: what changing, stopping and filling them changes; trims; sessions of a released range.
-/

namespace Sys2Proof.Machine

open Sys2Proof

/-- Changing a core leaves the others alone. -/
theorem modCore_get (s : State) (a : Nat) (f : Core → Core) (e : Nat) :
    (s.modCore a f).cores.get? e = if e = a then (s.cores.get? e).map f else s.cores.get? e := by
  unfold State.modCore
  show (s.cores.modify a f).get? e = _
  rw [AMap.get?_modify]
  by_cases h : e = a
  · subst h; simp
  · simp [h]

theorem modCores_out (f : Core → Core) (l : List Nat) : ∀ (s : State) (e : Nat), e ∉ l →
    (l.foldl (fun (a : State) e => a.modCore e f) s).cores.get? e = s.cores.get? e := by
  induction l with
  | nil => intros; rfl
  | cons a l ih =>
    intro s e h
    rw [List.foldl_cons, ih _ _ (fun hh => h (List.mem_cons_of_mem _ hh)), modCore_get, if_neg (fun hh : e = a => h (by rw [hh]; exact List.mem_cons_self ..))]

theorem modCores_in (f : Core → Core) (P : Core → Prop) (hP : ∀ c, P (f c)) (l : List Nat) : ∀ (s : State) (e : Nat), e ∈ l →
    ∀ c, (l.foldl (fun (a : State) e => a.modCore e f) s).cores.get? e = some c → P c := by
  induction l with
  | nil => intro s e h; cases h
  | cons a l ih =>
    intro s e h c hc
    rw [List.foldl_cons] at hc
    by_cases hl : e ∈ l
    · exact ih _ _ hl c hc
    · rw [modCores_out _ _ _ _ hl, modCore_get] at hc
      have : e = a := by simpa [hl] using h
      rw [if_pos this] at hc
      obtain ⟨d, -, rfl⟩ := Option.map_eq_some_iff.1 hc
      exact hP d

theorem modCores_inv (f : Core → Core) (P : Core → Prop) (hP : ∀ c, P c → P (f c)) (l : List Nat) : ∀ (s : State),
    (∀ e c, s.cores.get? e = some c → P c) → ∀ e c, (l.foldl (fun (a : State) e => a.modCore e f) s).cores.get? e = some c → P c := by
  induction l with
  | nil => intro s h; exact h
  | cons a l ih =>
    intro s h
    rw [List.foldl_cons]
    apply ih
    intro e c hc
    rw [modCore_get] at hc
    split at hc
    · obtain ⟨d, hd, rfl⟩ := Option.map_eq_some_iff.1 hc
      exact hP d (h _ _ hd)
    · exact h _ _ hc

theorem modCores_at (f : Core → Core) (P : Core → Prop) (hP : ∀ c, P c → P (f c)) (e : Nat) (l : List Nat) : ∀ (s : State),
    (∀ c, s.cores.get? e = some c → P c) → ∀ c, (l.foldl (fun (a : State) e => a.modCore e f) s).cores.get? e = some c → P c := by
  induction l with
  | nil => intro s h; exact h
  | cons a l ih =>
    intro s h
    rw [List.foldl_cons]
    apply ih
    intro c hc
    rw [modCore_get] at hc
    split at hc
    · obtain ⟨d, hd, rfl⟩ := Option.map_eq_some_iff.1 hc
      exact hP d (h _ hd)
    · exact h _ hc

theorem modCores_has (f : Core → Core) (l : List Nat) : ∀ (s : State) (e : Nat),
    (l.foldl (fun (a : State) e => a.modCore e f) s).cores.has e = s.cores.has e := by
  induction l with
  | nil => intros; rfl
  | cons a l ih =>
    intro s e
    rw [List.foldl_cons, ih]
    unfold AMap.has
    rw [modCore_get]
    split
    · cases s.cores.get? e <;> rfl
    · rfl

theorem coresOf_congr {s t : State} (p : Nat) (h1 : t.fld Fld.SCH_PART_CORES_CORES p = s.fld Fld.SCH_PART_CORES_CORES p) (h2 : ∀ e, t.cores.has e = s.cores.has e) :
    t.coresOf p = s.coresOf p := by
  unfold State.coresOf
  rw [h1]
  apply List.filter_congr
  intro e _
  exact h2 e

/-- Stopping cores on which nothing runs. -/
theorem stopCores_idle (s : State) (p : Nat) (h : ∀ e c, s.cores.get? e = some c → c.running = none) :
    ∃ b c, s.stopCores p = { s with bars := b, cores := c } ∧ (s.stopCores p).stopsLeft p = [] ∧ (∀ e, c.has e = s.cores.has e) := by
  obtain ⟨b, c, e⟩ := stopCores_frame s p
  have hin := modCores_in (fun c => { c with queue := [], paused := [], stopping := c.running.isSome }) (fun c => c.stopping = c.running.isSome) (fun c => rfl)
    (s.coresOf p) { s with bars := s.bars.filter (fun kv => kv.1.1 / 64 != p) }
  have hinv := modCores_inv (fun c => { c with queue := [], paused := [], stopping := c.running.isSome }) (fun c => c.running = none) (fun c h => h)
    (s.coresOf p) { s with bars := s.bars.filter (fun kv => kv.1.1 / 64 != p) } h
  have hhas := modCores_has (fun c => { c with queue := [], paused := [], stopping := c.running.isSome }) (s.coresOf p) { s with bars := s.bars.filter (fun kv => kv.1.1 / 64 != p) }
  have e' : (s.coresOf p).foldl (fun (a : State) e => a.modCore e (fun c => { c with queue := [], paused := [], stopping := c.running.isSome }))
    { s with bars := s.bars.filter (fun kv => kv.1.1 / 64 != p) } = { s with bars := b, cores := c } := e
  rw [e'] at hin hinv hhas
  refine ⟨b, c, e, ?_, hhas⟩
  rw [e]
  unfold State.stopsLeft
  rw [List.filter_eq_nil_iff]
  intro x hx
  have hx' : x ∈ s.coresOf p := by
    rw [coresOf_congr (s := s) (t := { s with bars := b, cores := c }) p rfl hhas] at hx; exact hx
  show ¬ (match c.get? x with | some c => c.stopping | none => false) = true
  split
  · next k hk =>
    rw [hin x hx' k hk, hinv x k hk]; simp
  · simp

theorem qTrim_frame (s : State) (b f : Nat) : ∃ q t, s.qTrim b f = { s with qry := q, tiles := t } := by
  unfold State.qTrim
  split
  · exact ⟨s.qry, s.tiles, rfl⟩
  · exact ⟨_, _, rfl⟩

theorem qTrims_frame (s : State) (b : Nat) (l : List Nat) : ∃ q t, s.qTrims b l = { s with qry := q, tiles := t } :=
  foldl_keeps (fun s t : State => ∃ q x, t = { s with qry := q, tiles := x }) (fun s => ⟨s.qry, s.tiles, rfl⟩)
    (by rintro s t u ⟨c, d, rfl⟩ ⟨c', d', rfl⟩; exact ⟨c', d', rfl⟩) _ (fun s e => qTrim_frame s b e) l s

theorem State.Idle.of_io {s t : State} (h : s.Idle) (g : s.Io t) : t.Idle := by
  obtain ⟨l, m, a, b, d, e, rfl⟩ := g
  exact { waiting := h.waiting, queue := h.queue, pulls := h.pulls, maps := h.maps, resets := h.resets, removals := h.removals, removes := h.removes, restart := h.restart, reqs := h.reqs, handoffs := h.handoffs, parks := h.parks, revives := h.revives, movesOut := h.movesOut, bonds := h.bonds, bondWait := h.bondWait, alloc := h.alloc, scans := h.scans, ckps := h.ckps, loads := h.loads, early := h.early, late := h.late }

theorem fillPinned_frame (s : State) (p c e : Nat) : ∃ k, s.fillPinned p c e = { s with cores := k } ∧
    ∀ x d, k.get? x = some d → ∃ d', s.cores.get? x = some d' ∧ d.clearing = d'.clearing ∧ d.queue = d'.queue ∧ d.paused = d'.paused := by
  unfold State.fillPinned
  split
  · exact ⟨s.cores, rfl, fun x d h => ⟨d, h, rfl, rfl, rfl⟩⟩
  · refine ⟨_, rfl, fun x d h => ?_⟩
    have hg : ∀ (m : AMap Nat Core) (f : Core → Core), (∀ c, (f c).clearing = c.clearing ∧ (f c).queue = c.queue ∧ (f c).paused = c.paused) →
        ∀ d, (m.modify e f).get? x = some d → ∃ d', m.get? x = some d' ∧ d.clearing = d'.clearing ∧ d.queue = d'.queue ∧ d.paused = d'.paused := by
      intro m f hf d hd
      rw [AMap.get?_modify] at hd
      split at hd
      · next hh =>
        subst hh
        obtain ⟨y, hy, rfl⟩ := Option.map_eq_some_iff.1 hd
        exact ⟨y, hy, (hf y).1, (hf y).2.1, (hf y).2.2⟩
      · exact ⟨d, hd, rfl, rfl, rfl⟩
    obtain ⟨d', h1, h2, h3, h4⟩ := hg _ _ (by intro c; exact ⟨rfl, rfl, rfl⟩) d h
    obtain ⟨d'', g1, g2, g3, g4⟩ := hg _ _ (by intro c; exact ⟨rfl, rfl, rfl⟩) d' h1
    exact ⟨d'', g1, h2.trans g2, h3.trans g3, h4.trans g4⟩

theorem fillPinneds_frame (p e : Nat) (l : List Nat) : ∀ s : State, ∃ k, l.foldl (fun (a : State) x => a.fillPinned p x e) s = { s with cores := k } ∧
    ∀ x d, k.get? x = some d → ∃ d', s.cores.get? x = some d' ∧ d.clearing = d'.clearing ∧ d.queue = d'.queue ∧ d.paused = d'.paused := by
  induction l with
  | nil => intro s; exact ⟨s.cores, rfl, fun x d h => ⟨d, h, rfl, rfl, rfl⟩⟩
  | cons a l ih =>
    intro s
    obtain ⟨k, h1, h2⟩ := fillPinned_frame s p a e
    obtain ⟨k', g1, g2⟩ := ih (s.fillPinned p a e)
    rw [h1] at g1 g2
    refine ⟨k', by rw [List.foldl_cons, h1, g1], fun x d h => ?_⟩
    obtain ⟨d', q1, q2, q3, q4⟩ := g2 x d h
    obtain ⟨d'', r1, r2, r3, r4⟩ := h2 x d' q1
    exact ⟨d'', r1, q2.trans r2, q3.trans r3, q4.trans r4⟩

theorem fillPinned_out (s : State) (p c e x : Nat) (h : x ≠ e) : (s.fillPinned p c e).cores.get? x = s.cores.get? x := by
  unfold State.fillPinned
  split
  · rfl
  · unfold State.markFresh
    rw [modCore_get, if_neg h, modCore_get, if_neg h]

theorem fillPinnedOn_frame (p c : Nat) (l : List Nat) : ∀ s : State, ∃ k, l.foldl (fun (a : State) e => a.fillPinned p c e) s = { s with cores := k } ∧
    ∀ x, x ∉ l → k.get? x = s.cores.get? x := by
  induction l with
  | nil => intro s; exact ⟨s.cores, rfl, fun _ _ => rfl⟩
  | cons a l ih =>
    intro s
    obtain ⟨k, h1, -⟩ := fillPinned_frame s p c a
    have ho := fun x => fillPinned_out s p c a x
    obtain ⟨k', g1, g2⟩ := ih (s.fillPinned p c a)
    rw [h1] at g1 g2 ho
    refine ⟨k', by rw [List.foldl_cons, h1, g1], fun x hx => ?_⟩
    rw [g2 x (fun h => hx (List.mem_cons_of_mem _ h))]
    exact ho x (fun h => hx (by rw [h]; exact List.mem_cons_self ..))

/-- A core with nothing queued chooses nothing. -/
theorem chooseNext_quiet {s : State} {e : Nat} (h : ∀ c, s.cores.get? e = some c → c.queue = [] ∧ c.paused = []) : s.chooseNext e = s := by
  unfold State.chooseNext
  split
  · rfl
  · next c hc =>
    have hw : c.wanted = [] := by unfold Core.wanted; rw [(h c hc).1, (h c hc).2]; rfl
    split
    · simp only [hw, List.filter_nil, List.isEmpty_nil, Bool.true_or, if_true]
      simp [nextAfter, sortBy]
    · rfl

theorem ses_filter (m : AMap Nat Session) (r : Nat → Bool) (k : Nat) :
    AMap.getD (m.filter (fun kv => !(((m.filter (fun kv => r kv.1)).map (·.1)).contains kv.1))) k Session.free = if r k then Session.free else AMap.getD m k Session.free := by
  unfold AMap.getD
  have e : m.filter (fun kv => !(((m.filter (fun kv => r kv.1)).map (·.1)).contains kv.1)) = m.filter (fun kv => !(r kv.1)) := by
    apply List.filter_congr
    intro kv hk
    congr 1
    rw [Bool.eq_iff_iff]
    simp only [List.contains_iff_mem, List.mem_map, List.mem_filter]
    constructor
    · rintro ⟨x, ⟨-, h2⟩, h3⟩; rw [← h3]; exact h2
    · intro h; exact ⟨kv, ⟨hk, h⟩, rfl⟩
  rw [e, AMap.get?_filter m (fun k => !(r k))]
  by_cases h : r k = true
  · simp [h]
  · simp [h]

end Sys2Proof.Machine
end

