-- ==== Sys2Proof/Laws/Flash.lean ====
section
/-!
SUPPORT. How every command's meaning is made, and what commands do to the flash.
-/

namespace Sys2Proof.Machine

open Sys2Proof

/-- Every meaning is an event, an event that comes in every state, or that of one of the six commands that may write the flash. -/
theorem exec_shape (c : Instr) (s : State) : (∃ f, exec c s = .next (s.always f)) ∨ (∃ f, exec c s = .next (s.event f)) ∨
    (∃ a b, c = .s02FirmwareVerify a b) ∨ c = .s15Ready ∨ (∃ r, c = .mctpPldmRequest r) ∨ (∃ u d, c = .managementMailboxGo u d) ∨
    (∃ u o d, c = .fwStage u o d) ∨ ∃ u b o d, c = .cfgWrite u b o d := by
  cases c with
  | sesCreate _ _ => exact .inl ⟨_, rfl⟩
  | sesClose _ => exact .inl ⟨_, rfl⟩
  | sesQuery _ => exact .inl ⟨_, rfl⟩
  | sesSetHostData _ _ => exact .inl ⟨_, rfl⟩
  | sesPark _ _ => exact .inl ⟨_, rfl⟩
  | sesRevive _ => exact .inl ⟨_, rfl⟩
  | sesMove _ _ _ => exact .inl ⟨_, rfl⟩
  | reqSubmit _ _ => exact .inl ⟨_, rfl⟩
  | reqCancel _ _ => exact .inl ⟨_, rfl⟩
  | pfxRegister _ _ => exact .inl ⟨_, rfl⟩
  | pfxUnregister _ _ => exact .inl ⟨_, rfl⟩
  | grmLoad _ _ _ => exact .inl ⟨_, rfl⟩
  | grmUnload _ _ => exact .inl ⟨_, rfl⟩
  | vsrCreate _ _ => exact .inl ⟨_, rfl⟩
  | vsrDrop _ _ => exact .inl ⟨_, rfl⟩
  | vsrInsert _ _ => exact .inl ⟨_, rfl⟩
  | vsrDelete _ _ _ => exact .inl ⟨_, rfl⟩
  | vsrQuery _ _ => exact .inl ⟨_, rfl⟩
  | vsrPoint _ _ => exact .inl ⟨_, rfl⟩
  | ckpWrite _ _ => exact .inl ⟨_, rfl⟩
  | ckpRestore _ _ => exact .inl ⟨_, rfl⟩
  | ckpRelease _ _ _ => exact .inl ⟨_, rfl⟩
  | cmpInstall _ _ => exact .inl ⟨_, rfl⟩
  | cmpRemove _ _ => exact .inl ⟨_, rfl⟩
  | peerAdd _ _ _ => exact .inl ⟨_, rfl⟩
  | ctxReload _ _ => exact .inl ⟨_, rfl⟩
  | keyQuote _ _ _ => exact .inl ⟨_, rfl⟩
  | keyImport _ _ _ => exact .inl ⟨_, rfl⟩
  | bndReportGet _ _ _ => exact .inl ⟨_, rfl⟩
  | partReset _ => exact .inl ⟨_, rfl⟩
  | partRemove _ _ => exact .inl ⟨_, rfl⟩
  | secChange _ _ => exact .inl ⟨_, rfl⟩
  | wgtSupply _ _ _ _ => exact .inl ⟨_, rfl⟩
  | fwStage _ _ _ => exact .inr (.inr (.inr (.inr (.inr (.inr (.inl ⟨_, _, _, rfl⟩))))))
  | fwCheck _ _ => exact .inl ⟨_, rfl⟩
  | cfgWrite _ _ _ _ => exact .inr (.inr (.inr (.inr (.inr (.inr (.inr ⟨_, _, _, _, rfl⟩))))))
  | ledgerRead _ _ _ => exact .inl ⟨_, rfl⟩
  | devRestart _ => exact .inl ⟨_, rfl⟩
  | errRead _ _ _ _ => exact .inl ⟨_, rfl⟩
  | sqTailDoorbell _ _ _ _ => exact .inl ⟨_, rfl⟩
  | cqHeadDoorbell _ _ _ => exact .inl ⟨_, rfl⟩
  | sqEnable _ _ _ => exact .inl ⟨_, rfl⟩
  | cqEnable _ _ _ => exact .inl ⟨_, rfl⟩
  | lnkRekeyGo _ _ _ => exact .inl ⟨_, rfl⟩
  | egrSwitch _ _ => exact .inl ⟨_, rfl⟩
  | clearAlt _ => exact .inl ⟨_, rfl⟩
  | registerWrite _ _ _ _ => exact .inl ⟨_, rfl⟩
  | interruptCoalesceExpiry _ _ => exact .inl ⟨_, rfl⟩
  | hostDmaError _ _ _ => exact .inl ⟨_, rfl⟩
  | doeDiscovery _ _ => exact .inl ⟨_, rfl⟩
  | doeHostReport _ _ => exact .inl ⟨_, rfl⟩
  | bbAsk _ _ => exact .inl ⟨_, rfl⟩
  | bbConfirm _ _ => exact .inl ⟨_, rfl⟩
  | functionReset _ => exact .inl ⟨_, rfl⟩
  | perstAsserted _ => exact .inl ⟨_, rfl⟩
  | perstReleased _ => exact .inl ⟨_, rfl⟩
  | mctpPldmRequest _ => exact .inr (.inr (.inr (.inr (.inl ⟨_, rfl⟩))))
  | jtagInstruction _ => exact .inl ⟨_, rfl⟩
  | pwrGoodRise _ => exact .inl ⟨_, rfl⟩
  | pwrGoodFall => exact .inl ⟨_, rfl⟩
  | sysResetAsserted => exact .inl ⟨_, rfl⟩
  | sysResetReleased => exact .inl ⟨_, rfl⟩
  | alarmInAsserted _ => exact .inl ⟨_, rfl⟩
  | alarmInReleased _ => exact .inl ⟨_, rfl⟩
  | alarmSourceDetected _ _ => exact .inl ⟨_, rfl⟩
  | thermalStepDown _ => exact .inr (.inl ⟨_, rfl⟩)
  | thermalStepUp _ => exact .inr (.inl ⟨_, rfl⟩)
  | powerStepDown _ => exact .inr (.inl ⟨_, rfl⟩)
  | powerStepUp _ => exact .inr (.inl ⟨_, rfl⟩)
  | courseStepDone _ => exact .inr (.inl ⟨_, rfl⟩)
  | thermalTrip => exact .inl ⟨_, rfl⟩
  | hardwareFault _ => exact .inl ⟨_, rfl⟩
  | freezeDumpDone _ => exact .inl ⟨_, rfl⟩
  | s00AlwaysOn => exact .inl ⟨_, rfl⟩
  | s01KeystoneSelftest _ _ _ => exact .inl ⟨_, rfl⟩
  | s02FirmwareVerify _ _ => exact .inr (.inr (.inl ⟨_, _, rfl⟩))
  | s03ImageRead _ _ => exact .inl ⟨_, rfl⟩
  | s04ApplyConfig => exact .inl ⟨_, rfl⟩
  | s05PcieUp _ _ _ _ => exact .inl ⟨_, rfl⟩
  | s06PllLock _ => exact .inl ⟨_, rfl⟩
  | s07MemoryTrain _ => exact .inl ⟨_, rfl⟩
  | s08CoreAssign _ => exact .inl ⟨_, rfl⟩
  | s09FirmwareLoad _ => exact .inl ⟨_, rfl⟩
  | s10QuarryMount _ => exact .inl ⟨_, rfl⟩
  | s11DirectoryRecovery _ => exact .inl ⟨_, rfl⟩
  | s12LinkTrain => exact .inl ⟨_, rfl⟩
  | s13AkCertificate _ => exact .inl ⟨_, rfl⟩
  | s14PartitionStart => exact .inl ⟨_, rfl⟩
  | s15Ready => exact .inr (.inr (.inr (.inl rfl)))
  | trainSignalDetected _ _ => exact .inr (.inl ⟨_, rfl⟩)
  | trainEqualised _ _ _ => exact .inr (.inl ⟨_, rfl⟩)
  | trainGroupLock _ => exact .inr (.inl ⟨_, rfl⟩)
  | trainTimeout _ => exact .inr (.inl ⟨_, rfl⟩)
  | retrainTimer _ => exact .inr (.inl ⟨_, rfl⟩)
  | hello _ _ _ _ => exact .inr (.inl ⟨_, rfl⟩)
  | rekeyReady _ _ _ => exact .inr (.inl ⟨_, rfl⟩)
  | rekeyAsk _ _ => exact .inr (.inl ⟨_, rfl⟩)
  | laneRetire _ _ => exact .inr (.inl ⟨_, rfl⟩)
  | linkDownWord _ _ => exact .inr (.inl ⟨_, rfl⟩)
  | groupArrival _ _ => exact .inr (.inl ⟨_, rfl⟩)
  | groupTransmit _ _ => exact .inr (.inl ⟨_, rfl⟩)
  | nakResendTimeout _ => exact .inr (.inl ⟨_, rfl⟩)
  | retryRewindTimeout _ => exact .inr (.inl ⟨_, rfl⟩)
  | laneErrorWindow _ _ => exact .inr (.inl ⟨_, rfl⟩)
  | laneSignalLoss _ _ => exact .inr (.inl ⟨_, rfl⟩)
  | spareMonitorFail _ => exact .inr (.inl ⟨_, rfl⟩)
  | recoveryDone _ => exact .inr (.inl ⟨_, rfl⟩)
  | recoveryTimeout _ => exact .inr (.inl ⟨_, rfl⟩)
  | rekeyMarkReached _ _ => exact .inr (.inl ⟨_, rfl⟩)
  | shaperRefill _ => exact .inr (.inl ⟨_, rfl⟩)
  | gateEntryExpiry _ => exact .inr (.inl ⟨_, rfl⟩)
  | pmcBwWindowEnd _ => exact .inr (.inl ⟨_, rfl⟩)
  | queryMessage _ _ => exact .inr (.inl ⟨_, rfl⟩)
  | expertMessage _ _ => exact .inr (.inl ⟨_, rfl⟩)
  | logitChunk _ _ _ _ _ _ => exact .inr (.inl ⟨_, rfl⟩)
  | tilePush _ _ => exact .inr (.inl ⟨_, rfl⟩)
  | handoffTimeout _ => exact .inr (.inl ⟨_, rfl⟩)
  | tilePull _ _ _ _ _ => exact .inr (.inl ⟨_, rfl⟩)
  | pullAnswer _ _ _ => exact .inr (.inl ⟨_, rfl⟩)
  | pullTimeout _ => exact .inr (.inl ⟨_, rfl⟩)
  | moveOffer _ _ => exact .inr (.inl ⟨_, rfl⟩)
  | moveAnswer _ _ _ => exact .inr (.inl ⟨_, rfl⟩)
  | moveConfirm _ _ => exact .inr (.inl ⟨_, rfl⟩)
  | moveAbort _ _ => exact .inr (.inl ⟨_, rfl⟩)
  | rehandshake _ _ _ => exact .inr (.inl ⟨_, rfl⟩)
  | admitAsk _ _ _ _ _ => exact .inr (.inl ⟨_, rfl⟩)
  | admitQuote _ _ _ _ _ => exact .inr (.inl ⟨_, rfl⟩)
  | admitDone _ _ => exact .inr (.inl ⟨_, rfl⟩)
  | admitTimeout _ => exact .inr (.inl ⟨_, rfl⟩)
  | leave _ => exact .inr (.inl ⟨_, rfl⟩)
  | ping _ => exact .inr (.inl ⟨_, rfl⟩)
  | pingResponse _ => exact .inr (.inl ⟨_, rfl⟩)
  | pingTimer _ => exact .inr (.inl ⟨_, rfl⟩)
  | keyRevoke _ _ _ => exact .inr (.inl ⟨_, rfl⟩)
  | keyRevokeResponse _ _ => exact .inr (.inl ⟨_, rfl⟩)
  | revokeTimeout _ => exact .inr (.inl ⟨_, rfl⟩)
  | dispatch _ _ => exact .inr (.inl ⟨_, rfl⟩)
  | sliceEnd _ => exact .inr (.inl ⟨_, rfl⟩)
  | mmul _ _ => exact .inr (.inl ⟨_, rfl⟩)
  | smaxPartial _ _ => exact .inr (.inl ⟨_, rfl⟩)
  | smaxNormalise _ _ => exact .inr (.inl ⟨_, rfl⟩)
  | smaxCombine _ _ => exact .inr (.inl ⟨_, rfl⟩)
  | rot _ _ => exact .inr (.inl ⟨_, rfl⟩)
  | qnt _ _ => exact .inr (.inl ⟨_, rfl⟩)
  | dqnt _ _ => exact .inr (.inl ⟨_, rfl⟩)
  | gath _ _ => exact .inr (.inl ⟨_, rfl⟩)
  | scat _ _ => exact .inr (.inl ⟨_, rfl⟩)
  | red _ _ => exact .inr (.inl ⟨_, rfl⟩)
  | move _ _ => exact .inr (.inl ⟨_, rfl⟩)
  | bcmp _ _ => exact .inr (.inl ⟨_, rfl⟩)
  | topk _ _ => exact .inr (.inl ⟨_, rfl⟩)
  | barSync _ _ => exact .inr (.inl ⟨_, rfl⟩)
  | barGather _ _ => exact .inr (.inl ⟨_, rfl⟩)
  | barBroadcast _ _ => exact .inr (.inl ⟨_, rfl⟩)
  | barTimeout _ => exact .inr (.inl ⟨_, rfl⟩)
  | coreStopped _ => exact .inr (.inl ⟨_, rfl⟩)
  | freshMapClearDone _ => exact .inr (.inl ⟨_, rfl⟩)
  | contextLoaded _ _ _ => exact .inr (.inl ⟨_, rfl⟩)
  | attBatchWindowExpiry _ => exact .inr (.inl ⟨_, rfl⟩)
  | tileAvailable _ => exact .inr (.inl ⟨_, rfl⟩)
  | promotion _ _ => exact .inr (.inl ⟨_, rfl⟩)
  | tokenisationDone _ => exact .inr (.inl ⟨_, rfl⟩)
  | maskReady _ => exact .inr (.inl ⟨_, rfl⟩)
  | emitHoldPoll _ _ => exact .inr (.inl ⟨_, rfl⟩)
  | endRecordPoll _ _ => exact .inr (.inl ⟨_, rfl⟩)
  | deadlineNotice _ _ _ => exact .inr (.inl ⟨_, rfl⟩)
  | deadlineSwitch _ _ => exact .inr (.inl ⟨_, rfl⟩)
  | deadlineFail _ _ => exact .inr (.inl ⟨_, rfl⟩)
  | fallbackPrefillDone _ _ => exact .inr (.inl ⟨_, rfl⟩)
  | dressingDone _ => exact .inr (.inl ⟨_, rfl⟩)
  | tokenLogPersist _ => exact .inr (.inl ⟨_, rfl⟩)
  | bondOpenGranted _ => exact .inr (.inl ⟨_, rfl⟩)
  | bondStaged _ _ => exact .inr (.inl ⟨_, rfl⟩)
  | nandProgramDone _ _ _ _ => exact .inr (.inl ⟨_, rfl⟩)
  | nandReadDone _ _ => exact .inr (.inl ⟨_, rfl⟩)
  | nandEraseDone _ _ => exact .inr (.inl ⟨_, rfl⟩)
  | nandStatusTimeout _ _ _ _ => exact .inr (.inl ⟨_, rfl⟩)
  | mapCheckpoint => exact .inr (.inl ⟨_, rfl⟩)
  | quarryCollection _ => exact .inr (.inl ⟨_, rfl⟩)
  | quarryFolding => exact .inr (.inl ⟨_, rfl⟩)
  | quarryPatrol _ _ => exact .inr (.inl ⟨_, rfl⟩)
  | governorDayBoundary => exact .inr (.inl ⟨_, rfl⟩)
  | scrubZeroed _ _ => exact .inr (.inl ⟨_, rfl⟩)
  | lpddrPatrol _ _ => exact .inr (.inl ⟨_, rfl⟩)
  | selfRefreshEntry _ => exact .inr (.inl ⟨_, rfl⟩)
  | scanWindowExpiry _ => exact .inr (.inl ⟨_, rfl⟩)
  | pointingBatchDone _ => exact .inr (.inl ⟨_, rfl⟩)
  | ckpRingRoom _ _ _ => exact .inr (.inl ⟨_, rfl⟩)
  | meterTick => exact .inr (.inl ⟨_, rfl⟩)
  | managementMailboxGo _ _ => exact .inr (.inr (.inr (.inr (.inr (.inl ⟨_, _, rfl⟩)))))
  | xspiPageProgramDone => exact .inl ⟨_, rfl⟩
  | dumpWaitLimitExpiry => exact .inl ⟨_, rfl⟩

/-- What follows a command writes no flash and leaves the queue alone. -/
theorem settle_keeps (s : State) : s.settle.flash = s.flash ∧ s.settle.pending = s.pending := by
  unfold State.settle
  exact ⟨kept_flash _ _, kept_pending _ _⟩

theorem always_keeps (s : State) (f : State → State) : (s.always f).flash = s.flash ∧ (s.always f).pending = s.pending := by
  unfold State.always
  exact ⟨(settle_keeps _).1.trans (kept_flash _ _), (settle_keeps _).2.trans (kept_pending _ _)⟩

theorem event_keeps (s : State) (f : State → State) : (s.event f).flash = s.flash ∧ (s.event f).pending = s.pending := by
  unfold State.event
  split
  · exact ⟨(settle_keeps _).1.trans (kept_flash _ _), (settle_keeps _).2.trans (kept_pending _ _)⟩
  · exact ⟨rfl, rfl⟩

theorem flashing_keeps (s : State) (f : State → State) : (s.flashing f).flash = (f s).flash ∧ (s.flashing f).pending = s.pending := by
  unfold State.flashing
  exact ⟨(settle_keeps _).1, (settle_keeps _).2⟩

@[simp] theorem post_flash (s : State) (c : Completion) : (s.post c).flash = s.flash := by
  by_cases h : c.sq = none
  · obtain ⟨l, m, a, b, d, e, r, x, hp⟩ := (post_mbox s c h).1.eq
    rw [hp]
  · obtain ⟨l, m, a, b, d, e, hp⟩ := io_post s c h
    rw [hp]

@[simp] theorem complete_flash (s : State) (u : Sub) (st : Status) (r n : Nat) : (s.complete u st r n).flash = s.flash := post_flash _ _

/-- Only the two commands that write it change the flash between a command's checks and its end. -/
theorem begin_flash (s : State) (u : Sub) (c : HostCmd) (h : c.writesFlash = false) : (s.begin u c).flash = s.flash := by
  unfold State.begin
  split
  · rfl
  · rw [h]; rfl

end Sys2Proof.Machine
end

