-- ==== Sys2Proof/Laws/Sessions.lean ====
section
/-!
SUPPORT. What releasing a session changes.
-/

namespace Sys2Proof.Machine

open Sys2Proof

/-- `t` is `s` but for what releasing a session's frames changes: bonds, quarry, tiles, frames, prefixes, registers, free values. -/
def State.Drops (s t : State) : Prop :=
  ∃ b q a tf mf p r f, t = { s with bonds := b, qry := q, tiles := a, tileFrames := tf, mortarFrames := mf, prefixes := p, regs := r, freeCtr := f }

theorem State.Drops.refl (s : State) : s.Drops s := ⟨_, _, _, _, _, _, _, _, rfl⟩

theorem State.Drops.trans {s t u : State} (h : s.Drops t) (g : t.Drops u) : s.Drops u := by
  obtain ⟨b, q, a, tf, mf, p, r, f, rfl⟩ := h
  obtain ⟨b', q', a', tf', mf', p', r', f', rfl⟩ := g
  exact ⟨b', q', a', tf', mf', p', r', f', rfl⟩

theorem State.Drops.of_fr {s t : State} (h : s.Fr t) : s.Drops t := by
  obtain ⟨tf, mf, a, r, f, rfl⟩ := h
  exact ⟨s.bonds, s.qry, a, tf, mf, s.prefixes, r, f, rfl⟩

theorem drops_fold {α : Type} (f : State → α → State) (hf : ∀ (s : State) (x : α), s.Drops (f s x)) (l : List α) (s : State) : s.Drops (l.foldl f s) :=
  foldl_keeps State.Drops State.Drops.refl (fun _ _ _ => State.Drops.trans) f hf l s

theorem drops_qTrim (s : State) (b f : Nat) : s.Drops (s.qTrim b f) := by
  obtain ⟨q, t, h⟩ := qTrim_frame s b f
  rw [h]; exact ⟨s.bonds, q, t, s.tileFrames, s.mortarFrames, s.prefixes, s.regs, s.freeCtr, rfl⟩

theorem drops_qTrims (s : State) (b : Nat) (l : List Nat) : s.Drops (s.qTrims b l) := drops_fold _ (fun s f => drops_qTrim s b f) l s

theorem drops_dropEntry (s : State) (b : Nat) (e : MEntry) : s.Drops (s.dropEntry b e) := by
  unfold State.dropEntry
  split
  · exact ⟨s.bonds, s.qry, _, s.tileFrames, s.mortarFrames, s.prefixes, s.regs, s.freeCtr, rfl⟩
  · exact .of_fr (fr_dropRef ..)
  · exact drops_qTrim ..
  · exact .refl s

theorem drops_abortQuarry (s : State) (p id : Nat) : s.Drops (s.abortQuarry p id) := by
  unfold State.abortQuarry
  dsimp only
  have h1 : s.Drops ((((s.qry.staged.filter (fun kv => kv.2.owner == p && kv.2.bond == id)).map (·.1))).foldl (fun a f => a.qUnstage f) s) :=
    drops_fold (fun a f => a.qUnstage f) (fun s f => ⟨s.bonds, _, _, s.tileFrames, s.mortarFrames, s.prefixes, s.regs, s.freeCtr, rfl⟩) _ s
  refine h1.trans ?_
  generalize (List.foldl _ s _) = v
  exact ⟨_, v.qry, v.tiles, v.tileFrames, v.mortarFrames, v.prefixes, _, v.freeCtr, rfl⟩

theorem drops_abortPersist (s : State) (slot : Nat) : s.Drops (s.abortPersist slot) := drops_fold _ (fun s b => drops_abortQuarry ..) _ s

theorem drops_leavePrefix (s : State) (x : Session) : s.Drops (s.leavePrefix x) :=
  ⟨s.bonds, s.qry, s.tiles, s.tileFrames, s.mortarFrames, _, s.regs, s.freeCtr, rfl⟩

/-- Frames of a list that are ZEROING after some releases. -/
def State.Zeroed (s : State) (n : Nat) : Prop := ∀ f, s.mortarFrames.get? n = some f → f.state = .zeroing

theorem zeroed_freeMor (s : State) (a n : Nat) (h : n = a ∨ s.Zeroed n) : (s.freeMor a).Zeroed n := by
  unfold State.freeMor
  split
  · next hn =>
    rcases h with rfl | h
    · intro f hf; rw [hn] at hf; cases hf
    · exact h
  · next f0 hn =>
    intro f hf
    have hf : (s.mortarFrames.set a ⟨f0.owner, .zeroing, 0, 0, []⟩).get? n = some f := hf
    rw [AMap.get?_set] at hf
    split at hf
    · cases hf; rfl
    · next hne =>
      rcases h with rfl | h
      · exact absurd rfl hne
      · exact h f hf

theorem zeroed_freeMors (l : List Nat) : ∀ (s : State) (n : Nat), n ∈ l ∨ s.Zeroed n → (s.freeMors l).Zeroed n := by
  induction l with
  | nil =>
    intro s n h
    rcases h with h | h
    · cases h
    · exact h
  | cons a l ih =>
    intro s n h
    refine ih (s.freeMor a) n ?_
    rcases h with h | h
    · rcases List.mem_cons.1 h with rfl | h
      · exact .inr (zeroed_freeMor s _ _ (.inl rfl))
      · exact .inl h
    · exact .inr (zeroed_freeMor s _ _ (.inr h))

theorem zeroed_congr {s t : State} {n : Nat} (h : t.mortarFrames = s.mortarFrames) (g : s.Zeroed n) : t.Zeroed n := by
  unfold State.Zeroed; rw [h]; exact g

/-- What releasing a session leaves (R61). -/
theorem releaseSes_frame (s : State) (b slot : Nat) : ∃ v, s.Drops v ∧
    s.releaseSes b slot = { v with
      sessions := s.sessions.set slot { Session.free with
        gen := if 65535 ≤ (s.ses slot).gen then (s.ses slot).gen else (s.ses slot).gen + 1, retired := decide (65535 ≤ (s.ses slot).gen),
        part := (s.ses slot).part, waiting := (s.ses slot).waiting, freeSeq := s.freed + 1 },
      freed := s.freed + 1 } ∧
    ∀ n ∈ (s.ses slot).mortar.root :: (s.ses slot).mortar.pageFrames ++ (s.ses slot).logFrames, v.Zeroed n := by
  obtain ⟨x, hx⟩ : ∃ x, x = s.ses slot := ⟨_, rfl⟩
  rw [← hx]
  have h1 : s.Drops ((s.abortPersist slot).dropEntries b x.mortar.entries) :=
    (drops_abortPersist ..).trans (drops_fold _ (fun s kv => drops_dropEntry ..) _ _)
  generalize hv1 : ((s.abortPersist slot).dropEntries b x.mortar.entries) = v1 at h1
  have h2 : v1.Drops (v1.freeMors (x.mortar.root :: x.mortar.pageFrames)) := .of_fr (fr_freeMors ..)
  have z2 := fun n hn => zeroed_freeMors (x.mortar.root :: x.mortar.pageFrames) v1 n (.inl hn)
  generalize hv2 : v1.freeMors (x.mortar.root :: x.mortar.pageFrames) = v2 at h2 z2
  have h3 : v2.Drops (v2.qTrims b (locFrames x.mortar.pageLocators)) := drops_qTrims ..
  have z3 : (v2.qTrims b (locFrames x.mortar.pageLocators)).mortarFrames = v2.mortarFrames := by
    obtain ⟨q, t, h⟩ := qTrims_frame v2 b (locFrames x.mortar.pageLocators); rw [h]
  generalize hv3 : v2.qTrims b (locFrames x.mortar.pageLocators) = v3 at h3 z3
  have h4 : v3.Drops (v3.freeMors x.logFrames) := .of_fr (fr_freeMors ..)
  have z4 := fun n h => zeroed_freeMors x.logFrames v3 n h
  generalize hv4 : v3.freeMors x.logFrames = v4 at h4 z4
  have h5 : v4.Drops (v4.qTrims b x.perFrames) := drops_qTrims ..
  have z5 : (v4.qTrims b x.perFrames).mortarFrames = v4.mortarFrames := by
    obtain ⟨q, t, h⟩ := qTrims_frame v4 b x.perFrames; rw [h]
  generalize hv5 : v4.qTrims b x.perFrames = v5 at h5 z5
  have h6 : v5.Drops (match x.rootCopy with | some f => v5.qTrim b f | none => v5) := by
    split
    · exact drops_qTrim ..
    · exact .refl _
  have z6 : (match x.rootCopy with | some f => v5.qTrim b f | none => v5).mortarFrames = v5.mortarFrames := by
    split
    · next f _ => obtain ⟨q, t, h⟩ := qTrim_frame v5 b f; rw [h]
    · rfl
  generalize hv6 : (match x.rootCopy with | some f => v5.qTrim b f | none => v5) = v6 at h6 z6
  have h7 : v6.Drops (match x.grammar with | some g => v6.freeMor g.frame | none => v6) := by
    split
    · exact .of_fr (fr_freeMor ..)
    · exact .refl _
  have z7 : ∀ n, v6.Zeroed n → (match x.grammar with | some g => v6.freeMor g.frame | none => v6).Zeroed n := by
    intro n h
    split
    · exact zeroed_freeMor _ _ _ (.inr h)
    · exact h
  generalize hv7 : (match x.grammar with | some g => v6.freeMor g.frame | none => v6) = v7 at h7 z7
  have h8 := drops_leavePrefix v7 x
  have z8 : (v7.leavePrefix x).mortarFrames = v7.mortarFrames := rfl
  generalize hv8 : v7.leavePrefix x = v8 at h8 z8
  have hd : s.Drops v8 := h1.trans (h2.trans (h3.trans (h4.trans (h5.trans (h6.trans (h7.trans h8))))))
  refine ⟨v8, hd, ?_, ?_⟩
  · obtain ⟨_, _, _, _, _, _, _, _, he⟩ := hd
    have hfr : v8.freed = s.freed := by rw [he]
    have hse : v8.sessions = s.sessions := by rw [he]
    have e : s.releaseSes b slot = { v8.setSes slot { Session.free with
        gen := if decide (65535 ≤ x.gen) then x.gen else x.gen + 1, retired := decide (65535 ≤ x.gen),
        part := x.part, waiting := x.waiting, freeSeq := v8.freed + 1 } with freed := v8.freed + 1 } := by
      subst hv8 hv7 hv6 hv5 hv4 hv3 hv2 hv1 hx
      rfl
    rw [e, hfr]
    unfold State.setSes
    rw [hse]
    simp only [decide_eq_true_eq]
  · intro n hn
    refine zeroed_congr z8 (z7 n (zeroed_congr z6 (zeroed_congr z5 (z4 n ?_))))
    rcases List.mem_append.1 hn with h | h
    · exact .inr (zeroed_congr z3 (z2 n h))
    · exact .inl h

-- Changing one session -----------------------------------------------------------------------------------------------------------

theorem calm_sessions {s t : State} (hc : s.Calm) {k : Nat} {x : Session} (hx : x.waiting = []) (h1 : t.sessions = s.sessions.set k x)
    (h2 : t.ckp = s.ckp) (h3 : t.movesIn = s.movesIn) (h4 : t.comps = s.comps) (h5 : t.resets = s.resets) (h6 : t.removals = s.removals)
    (h7 : t.removeWait = s.removeWait) (h8 : t.boot.restart = s.boot.restart) : t.Calm := by
  refine ⟨?_, by rw [h2]; exact hc.queue, by rw [h3]; exact hc.pulls, by rw [h4]; exact hc.maps, by rw [h5]; exact hc.resets, by rw [h6]; exact hc.removals, by rw [h7]; exact hc.removes, by rw [h8]; exact hc.restart⟩
  intro kv hk
  rw [h1] at hk
  rcases AMap.mem_set hk with h | h
  · exact hc.waiting kv h
  · rw [h]; exact hx

theorem ses_waiting {s : State} (hc : s.Calm) (k : Nat) : (s.ses k).waiting = [] := by
  unfold State.ses AMap.getD
  cases hg : s.sessions.get? k with
  | none => rfl
  | some v => exact hc.waiting _ (AMap.mem_of_get? hg)

theorem ses_set {s t : State} {k : Nat} {x : Session} (h : t.sessions = s.sessions.set k x) : t.ses k = x ∧ ∀ j, j ≠ k → t.ses j = s.ses j := by
  unfold State.ses
  rw [h]
  refine ⟨by rw [AMap.getD_set, if_pos rfl], fun j hj => by rw [AMap.getD_set, if_neg hj]⟩
theorem modSes_eq {v : State} {k : Nat} {x : Session} (h : v.ses k = x) (f : Session → Session) :
    v.modSes k f = { v with sessions := v.sessions.set k (f x) } := by rw [← h]; rfl

theorem setSes_set_touch (v : State) (k : Nat) (x : Session) (h : v.ses k = x) :
    ∃ g c, v.touch k = { v with aon := g, freeCtr := c, sessions := v.sessions.set k { x with lastUse := g } } := by
  refine ⟨v.tick.aon, v.tick.freeCtr, ?_⟩
  rw [← h]; rfl
theorem allocMor_exact {s t : State} {p n : Nat} {f : Frame} (h : s.allocMor p f = some (n, t)) :
    ∃ r c, t = { s with mortarFrames := t.mortarFrames, regs := r, freeCtr := c } := by
  unfold State.allocMor at h
  split at h
  · cases h; exact ⟨_, _, rfl⟩
  · split at h
    · cases h; exact ⟨_, _, rfl⟩
    · cases h

theorem fr_unhold (s : State) (kv : Nat × MEntry) : s.Fr (s.unholdFrame kv.2.frame) := by
  unfold State.unholdFrame
  split
  · split
    · exact fr_freeTile ..
    · exact .refl s
  · exact .refl s

end Sys2Proof.Machine
end

