-- ==== Sys2Proof/Laws/Moves.lean ====
section
/-!
SUPPORT. What handoffs and moves change, and how a move's pulls go on after a command.
-/

namespace Sys2Proof.Machine

open Sys2Proof

/-- What hearing a peer changes, in one record. -/
theorem sees {s : State} {i : Nat} {p : Peer} (hp : s.peers.get? i = some p) : ∃ a b c, s.peerSeen i = { s with peers := a, aon := b, freeCtr := c } ∧
    a = s.peers.set i { p with lastUse := b, pings := 0 } := by
  obtain ⟨h1, h2, _⟩ := peerSeen_frame hp
  exact ⟨_, _, _, h2, h1⟩

/-- One element that fails makes the whole fail. -/
theorem mem_all_false {α : Type} {f : α → Bool} {l : List α} {y : α} (hy : y ∈ l) (hf : f y = false) : l.all f = false := by
  rw [Bool.eq_false_iff]
  intro h
  rw [List.all_eq_true] at h
  rw [h y hy] at hf
  cases hf

/-- Released tile frames are ZEROING. -/
theorem zeroing_freeTile (s : State) (a n : Nat) (h : n = a ∨ ∀ f, s.tileFrames.get? n = some f → f.state = .zeroing) :
    ∀ f, (s.freeTile a).tileFrames.get? n = some f → f.state = .zeroing := by
  unfold State.freeTile
  split
  · next hn =>
    rcases h with rfl | h
    · intro f hf; rw [hn] at hf; cases hf
    · exact h
  · next f0 hn =>
    intro f hf
    have hf : (s.tileFrames.set a ⟨f0.owner, .zeroing, 0, 0, []⟩).get? n = some f := hf
    rw [AMap.get?_set] at hf
    split at hf
    · cases hf; rfl
    · next hne =>
      rcases h with rfl | h
      · exact absurd rfl hne
      · exact h f hf

theorem zeroing_freeTiles (l : List Nat) : ∀ (s : State) (n : Nat), (n ∈ l ∨ ∀ f, s.tileFrames.get? n = some f → f.state = .zeroing) →
    ∀ f, (s.freeTiles l).tileFrames.get? n = some f → f.state = .zeroing := by
  induction l with
  | nil =>
    intro s n h
    rcases h with h | h
    · cases h
    · exact h
  | cons a l ih =>
    intro s n h
    refine ih (s.freeTile a) n ?_
    rcases h with h | h
    · rcases List.mem_cons.1 h with rfl | h
      · exact .inr (zeroing_freeTile s _ _ (.inl rfl))
      · exact .inl h
    · exact .inr (zeroing_freeTile s _ _ (.inr h))

/-- Releasing tile frames changes frames and tiles. -/
theorem freeTile_exact (s : State) (n : Nat) : ∃ a b, s.freeTile n = { s with tileFrames := a, tiles := b } := by
  unfold State.freeTile
  split
  · exact ⟨_, _, rfl⟩
  · exact ⟨_, _, rfl⟩

theorem freeTiles_exact (l : List Nat) : ∀ s : State, ∃ a b, s.freeTiles l = { s with tileFrames := a, tiles := b } := by
  induction l with
  | nil => intro s; exact ⟨_, _, rfl⟩
  | cons n l ih =>
    intro s
    obtain ⟨a, b, h⟩ := freeTile_exact s n
    obtain ⟨a', b', h'⟩ := ih (s.freeTile n)
    refine ⟨a', b', ?_⟩
    show (s.freeTile n).freeTiles l = _
    rw [h', h]


/-- Hearing a peer changes no check of R599. -/
theorem senderOk_seen {s : State} {i : Nat} {p : Peer} (hp : s.peers.get? i = some p) (a b : Nat) (h : Hdr) :
    (s.peerSeen i).senderOk a b h = s.senderOk a b h := by
  obtain ⟨h1, h2, -⟩ := peerSeen_frame hp
  have hm : (s.peerSeen i).mapOf a b = s.mapOf a b := by rw [h2]; rfl
  have hf : ((s.peerSeen i).peerOfSrc h.src).map (fun kv => kv.2.id) = (s.peerOfSrc h.src).map (fun kv => kv.2.id) := by
    unfold State.peerOfSrc
    rw [h1]
    exact AMap.find_set_map _ hp _ _ rfl rfl
  unfold State.senderOk
  rw [hm]
  generalize (s.peerSeen i).peerOfSrc h.src = a at hf ⊢
  generalize s.peerOfSrc h.src = b at hf ⊢
  cases a with
  | none => cases b with
    | none => rfl
    | some y => cases hf
  | some x => cases b with
    | none => cases hf
    | some y =>
      have : x.2.id = y.2.id := by simpa using hf
      generalize s.mapOf _ _ = mm
      cases mm with
      | none => rfl
      | some m => dsimp only; rw [this]

-- Pulls (R602) ------------------------------------------------------------------------------------------------------------------------

theorem enqueue_frame (s : State) (n : Nat) (m : Msg) (c : CtxClass) : ∃ p, s.enqueue n m c = { s with ports := p } := by
  unfold State.enqueue
  split
  · exact ⟨_, rfl⟩
  · split
    · exact ⟨_, rfl⟩
    · dsimp only
      split
      · exact ⟨_, rfl⟩
      · exact ⟨_, rfl⟩

theorem sendTo_frame (s : State) (i part epoch comp : Nat) (w : Word64) (tag : Nat) (c : CtxClass) (b : MsgBody) :
    ∃ p, s.sendTo i part epoch comp w tag c b = { s with ports := p } := by
  unfold State.sendTo
  split
  · exact ⟨_, rfl⟩
  · exact enqueue_frame ..

/-- What sending a pull changes. -/
theorem sendPull_frame (s : State) (slot e : Nat) (m : MoveIn) (w : Pull) : ∃ p, s.sendPull slot e m w = { s with ports := p } := by
  unfold State.sendPull
  dsimp only
  split
  · exact ⟨_, rfl⟩
  · exact sendTo_frame ..

/-- What starting pulls changes: afterwards the window is full, or every entry is being pulled. -/
theorem pullEach_frame (slot : Nat) (m : MoveIn) (es : List Nat) : ∀ s : State, ∃ l fc p, s.pullEach slot m es = { s with pulls := s.pulls ++ l, freeCtr := fc, ports := p } ∧
    (zeroActsAs (s.fld Fld.CMP_CFG_PULL_WINDOW) 1 ≤ ((s.pulls ++ l).filter (fun w => w.slot == slot)).length ∨
      ∀ e ∈ es, (s.pulls ++ l).any (fun w => w.slot == slot && w.entry == e) = true) := by
  induction es with
  | nil => intro s; exact ⟨[], s.freeCtr, s.ports, by simp [State.pullEach], .inr (by simp)⟩
  | cons e r ih =>
    intro s
    unfold State.pullEach
    dsimp only
    split
    · next h => exact ⟨[], s.freeCtr, s.ports, by simp, .inl (by simpa using h)⟩
    · obtain ⟨p, hp⟩ := sendPull_frame { s with pulls := s.pulls ++ [⟨slot, e, m.peer, s.freeCtr, 1⟩], freeCtr := s.freeCtr + 1 } slot e m ⟨slot, e, m.peer, s.freeCtr, 1⟩
      rw [hp]
      obtain ⟨l, fc, p', h1, h2⟩ := ih { s with pulls := s.pulls ++ [⟨slot, e, m.peer, s.freeCtr, 1⟩], freeCtr := s.freeCtr + 1, ports := p }
      refine ⟨⟨slot, e, m.peer, s.freeCtr, 1⟩ :: l, fc, p', ?_, ?_⟩
      · rw [h1]; simp [List.append_assoc]
      · have hl : s.pulls ++ [⟨slot, e, m.peer, s.freeCtr, 1⟩] ++ l = s.pulls ++ ⟨slot, e, m.peer, s.freeCtr, 1⟩ :: l := by simp [List.append_assoc]
        rcases h2 with h2 | h2
        · left; rw [← hl]; exact h2
        · right
          intro x hx
          rw [← hl]
          rcases List.mem_cons.1 hx with rfl | hx
          · simp
          · exact h2 x hx

theorem pumpPulls_frame (s : State) (slot : Nat) : ∃ l fc p, s.pumpPulls slot = { s with pulls := s.pulls ++ l, freeCtr := fc, ports := p } := by
  unfold State.pumpPulls
  split
  · exact ⟨[], s.freeCtr, s.ports, by simp⟩
  · obtain ⟨l, fc, p, h, -⟩ := pullEach_frame slot _ _ s
    exact ⟨l, fc, p, h⟩

/-- Pulls that have been started as far as they can be go no further at once. -/
theorem pumpPulls_twice (s : State) (slot : Nat) : (s.pumpPulls slot).pumpPulls slot = s.pumpPulls slot := by
  cases hm : s.movesIn.get? slot with
  | none =>
    have : s.pumpPulls slot = s := by unfold State.pumpPulls; rw [hm]
    rw [this, this]
  | some m =>
    obtain ⟨due, hd⟩ : ∃ due, due = (s.remoteOrder slot).filter (fun e => !(s.pulls.any (fun w => w.slot == slot && w.entry == e)) && s.mayPull slot e) := ⟨_, rfl⟩
    have e1 : s.pumpPulls slot = s.pullEach slot m (due.filter (fun e => s.wantsTile slot e) ++ due.filter (fun e => !((due.filter (fun e => s.wantsTile slot e)).contains e))) := by
      unfold State.pumpPulls; rw [hm, hd]
    obtain ⟨l, fc, p, h1, h2⟩ := pullEach_frame slot m (due.filter (fun e => s.wantsTile slot e) ++ due.filter (fun e => !((due.filter (fun e => s.wantsTile slot e)).contains e))) s
    rw [e1, h1]
    obtain ⟨t, ht⟩ : ∃ t : State, t = { s with pulls := s.pulls ++ l, freeCtr := fc, ports := p } := ⟨_, rfl⟩
    rw [← ht]
    have hm' : t.movesIn.get? slot = some m := by rw [ht]; exact hm
    have hr : t.remoteOrder slot = s.remoteOrder slot := by rw [ht]; rfl
    have hp : ∀ e, t.mayPull slot e = s.mayPull slot e := fun e => by rw [ht]; rfl
    have hw : t.pulls = s.pulls ++ l := by rw [ht]
    have hz : zeroActsAs (t.fld Fld.CMP_CFG_PULL_WINDOW) 1 = zeroActsAs (s.fld Fld.CMP_CFG_PULL_WINDOW) 1 := by rw [ht]; rfl
    unfold State.pumpPulls
    rw [hm']
    dsimp only
    rcases h2 with h2 | h2
    · have : ∀ es, t.pullEach slot m es = t := by
        intro es
        cases es with
        | nil => rfl
        | cons e r =>
          unfold State.pullEach
          dsimp only
          rw [hz, hw, if_pos h2]
      exact this _
    · have : (t.remoteOrder slot).filter (fun e => !(t.pulls.any (fun w => w.slot == slot && w.entry == e)) && t.mayPull slot e) = [] := by
        rw [List.filter_eq_nil_iff]
        intro e he hc
        rw [hr] at he
        rw [hp, hw, Bool.and_eq_true] at hc
        obtain ⟨c1, c2⟩ := hc
        have hdue : e ∈ due := by
          rw [hd, List.mem_filter]
          refine ⟨he, ?_⟩
          rw [Bool.and_eq_true]
          refine ⟨?_, c2⟩
          rw [List.any_append] at c1
          simp only [Bool.not_eq_true', Bool.or_eq_false_iff] at c1 ⊢
          exact c1.1
        have := h2 e (by
          by_cases hwt : s.wantsTile slot e = true
          · exact List.mem_append.2 (.inl (List.mem_filter.2 ⟨hdue, hwt⟩))
          · refine List.mem_append.2 (.inr (List.mem_filter.2 ⟨hdue, ?_⟩))
            simp only [Bool.not_eq_true', List.contains_eq_mem, decide_eq_false_iff_not]
            intro h3
            exact hwt (List.mem_filter.1 h3).2)
        rw [this] at c1
        cases c1
      rw [this]
      rfl

/-- Where a session is being pulled and nothing else is under way, its pulls go on after a command. -/
theorem settle_pulls {t : State} {slot : Nat} {m : MoveIn} (hc : State.Calm { t with movesIn := [] }) (hm : t.movesIn = [(slot, m)]) :
    t.settle = t.pumpPulls slot := by
  have hs : t.startAll = t := by
    have : t.waitingCount = 0 := by
      unfold State.waitingCount
      rw [List.sum_eq_zero]
      intro x hx
      obtain ⟨kv, hk, rfl⟩ := List.mem_map.1 hx
      rw [hc.waiting kv hk]; rfl
    rw [State.startAll, this, State.startWaiting]
  have hq : t.ckp.queue = [] := hc.queue
  obtain ⟨l, fc, p, hp⟩ := pumpPulls_frame t slot
  have hpr : (t.pumpPulls slot).pruneMaps = t.pumpPulls slot := by
    rw [hp]
    have hf : t.comps.filter (fun kv => !(kv.2.removing && State.compIdle { t with pulls := t.pulls ++ l, freeCtr := fc, ports := p } kv.2)) = t.comps := by
      rw [List.filter_eq_self]; intro kv hk; simp [(hc.maps kv hk).1]
    have hmm : t.comps.map (fun (kv : Nat × Comp) =>
        (kv.1, { kv.2 with old := kv.2.old.filter (fun m => State.mapUsed { t with pulls := t.pulls ++ l, freeCtr := fc, ports := p } kv.2.id m.epoch) })) = t.comps := by
      conv => rhs; rw [← List.map_id t.comps]
      apply List.map_congr_left
      intro kv hk
      obtain ⟨a, c⟩ := kv
      have ho : c.old = [] := (hc.maps _ hk).2
      have hcc : ({ c with old := [] } : Comp) = c := by rw [← ho]
      simp only [ho, List.filter_nil, hcc, id]
    unfold State.pruneMaps
    simp only [hf, hmm]
  have hg : (t.pumpPulls slot).goPartitions = t.pumpPulls slot := by
    rw [hp]
    unfold State.goPartitions
    have h1 : t.resets = [] := hc.resets
    have h2 : t.removals = [] := hc.removals
    have h3 : t.removeWait = [] := hc.removes
    simp only [h1, h2, List.foldl_nil]
    unfold State.runRemovals
    simp only [h3, List.filter_nil, List.foldl_nil]
  have hr : (t.pumpPulls slot).goRestart = t.pumpPulls slot := by
    have : (t.pumpPulls slot).boot.restart = none := by rw [hp]; exact hc.restart
    simp only [State.goRestart, this]
  simp only [State.settle, hs, hq, List.length_nil, State.ckpQueue, hm, List.foldl_cons, List.foldl_nil, hpr, hg, hr]
  rw [hp]; rfl

theorem next_event_pulls {s t : State} {f : State → State} {slot : Nat} {m : MoveIn} (hw : s.awake = true) (h : f s = t)
    (hc : State.Calm { t with movesIn := [] }) (hm : t.movesIn = [(slot, m)]) :
    (Host.Outcome.next (s.event f) : Host.Outcome State Fault Refusal) = .next ((s.kept t).pumpPulls slot) := by
  rw [State.event, if_pos hw, h, settle_pulls (t := s.kept t) (slot := slot) (m := m)]
  · exact hc.of_eq rfl rfl rfl rfl rfl rfl rfl rfl
  · exact hm

end Sys2Proof.Machine
end

