-- ==== Sys2Proof/Laws/Start.lean ====
section
/-!
SUPPORT. A start step that passes.
-/

namespace Sys2Proof.Machine

open Sys2Proof

theorem State.Due.runs {s : State} {n : Nat} (h : s.Due n) : s.atStep n = true := by
  simp [State.atStep, h.phase, h.frozen, h.high]

/-- What a passing step leaves (R712, R714, R719), from any state with the same start record. -/
theorem passes_stepPasses (s s0 : State) (n d : Nat) (h1 : s0.boot.number = s.boot.number) (h2 : s0.boot.alts = s.boot.alts)
    (h3 : s0.boot.fails = s.boot.fails) (h4 : s0.boot.ledger = s.boot.ledger) (h5 : s0.boot.ledgerAt = s.boot.ledgerAt)
    (h6 : s0.pins.xspiReset = s.pins.xspiReset) (h7 : s0.pins.nandWrite = s.pins.nandWrite) :
    s.Passes (s.kept (s0.stepPasses n d)) n d := by
  have hs : s.ledgerSeal = s0.ledgerSeal := by unfold State.ledgerSeal; rw [h5]
  refine ⟨rfl, rfl, ?_, ?_, ?_, ?_⟩
  · rw [← h3]; rfl
  · rw [hs, ← h1, ← h2, ← h4]; rfl
  · rw [← h6]
    show (n + 1 == 0 || (s0.pins.xspiReset && n + 1 != 3)) = _
    have : (n + 1 == 0) = false := by simp
    have h3 : (n + 1 != 3) = (n != 2) := by rw [Bool.eq_iff_iff]; simp
    rw [this, h3, Bool.false_or]
  · rw [← h7]
    show (s0.pins.nandWrite || n + 1 == 10) = _
    have h3 : (n + 1 == 10) = (n == 9) := by rw [Bool.eq_iff_iff]; simp
    rw [h3]

theorem State.Calm.stepPasses {s : State} (h : s.Calm) (n d : Nat) : (s.stepPasses n d).Calm :=
  ⟨h.1, h.2, h.3, h.4, h.5, h.6, h.7, h.8⟩

-- Settings (R702) ------------------------------------------------------------------------------------------------------------------

theorem putField_frame (s : State) (f : Field) (i j v : Nat) : ∃ r p, s.putField f i j v = { s with regs := r, pmc := p } := by
  unfold State.putField
  split <;> exact ⟨_, _, rfl⟩

theorem loadSetting_frame (s : State) (ok : Field → Bool) (g : Setting) :
    ∃ r p, s.loadSetting ok g = { s with regs := r, pmc := p } := by
  unfold State.loadSetting
  generalize g.reg.cls.fields = l
  induction l generalizing s with
  | nil => exact ⟨s.regs, s.pmc, rfl⟩
  | cons f l ih =>
    rw [List.foldl_cons]
    split
    · obtain ⟨r, p, h⟩ := putField_frame s f g.reg.i g.reg.j (bitsOf g.value f.hi f.lo)
      obtain ⟨r', p', h'⟩ := ih (s.putField f g.reg.i g.reg.j (bitsOf g.value f.hi f.lo))
      exact ⟨r', p', by rw [h', h]⟩
    · exact ih s

/-- Loading settings changes registers only. -/
theorem loadSettings_frame (s : State) (ok : Field → Bool) (l : List Setting) :
    ∃ r p, s.loadSettings ok l = { s with regs := r, pmc := p } := by
  unfold State.loadSettings
  induction l generalizing s with
  | nil => exact ⟨s.regs, s.pmc, rfl⟩
  | cons g l ih =>
    rw [List.foldl_cons]
    obtain ⟨r, p, h⟩ := loadSetting_frame s ok g
    obtain ⟨r', p', h'⟩ := ih (s.loadSetting ok g)
    exact ⟨r', p', by rw [h', h]⟩

/-- Loading the link map changes registers and the map. -/
theorem loadLinks_frame (s : State) (l : List LinkEnt) :
    ∃ r, s.loadLinks l = { s with regs := r, boot := { s.boot with links := l } } := by
  unfold State.loadLinks
  have key : ∀ (k : List LinkEnt) (t : State), ∃ r, (k.foldl (fun (a : State) (e : LinkEnt) =>
      if e.port < 8 then
        (a.setFld Fld.LNK_CFG_ENABLE (if e.enable then 1 else 0) e.port).setFld Fld.LNK_CFG_GEN_MAX e.genMax e.port
      else a) t) = { t with regs := r } := by
    intro k
    induction k with
    | nil => exact fun t => ⟨t.regs, rfl⟩
    | cons e k ih =>
      intro t
      rw [List.foldl_cons]
      split
      · obtain ⟨r, h⟩ := ih ((t.setFld Fld.LNK_CFG_ENABLE (if e.enable then 1 else 0) e.port).setFld Fld.LNK_CFG_GEN_MAX e.genMax e.port)
        exact ⟨r, by rw [h]; rfl⟩
      · exact ih t
  obtain ⟨r, h⟩ := key l s
  exact ⟨r, by simp only [h]⟩

theorem putKey_frame (s : State) (k : KeySlot) : ∃ x n, s.putKey k = { s with sec := x, freeCtr := n } := by
  unfold State.putKey
  split
  · exact ⟨_, _, rfl⟩
  · exact ⟨s.sec, s.freeCtr, rfl⟩

/-- Drawing seeds changes the security state only. -/
theorem drawSeeds_frame (s : State) : ∃ x n, s.drawSeeds = { s with sec := x, freeCtr := n } := by
  unfold State.drawSeeds
  split
  · exact ⟨s.sec, s.freeCtr, rfl⟩
  · refine foldl_keeps (fun s t => ∃ x n, t = { s with sec := x, freeCtr := n }) (fun s => ⟨s.sec, s.freeCtr, rfl⟩) ?_ _ ?_ _ s
    · rintro s t u ⟨x, n, rfl⟩ ⟨x', n', rfl⟩
      exact ⟨x', n', rfl⟩
    · intro s p
      obtain ⟨x, n, h⟩ := putKey_frame { s with sec := { s.sec with seeds := s.sec.seeds ++ [p] } }
        ⟨some p, 4, .loaded, s.sec.epochs.getD p 1, 0, none, false, none⟩
      exact ⟨x, n, h⟩

end Sys2Proof.Machine
end

