-- ==== Sys2Proof/Laws/Plan.lean ====
section
/-!
SUPPORT. A plan that takes effect in a device that holds no context yet (S14).
-/

namespace Sys2Proof.Machine

open Sys2Proof

/-- A fold that changes one part of the state changes that part only. -/
theorem ringFor_frame (t : State) (q : Nat) : ∃ a b c r n rp, t.ringFor q =
    { t with tileFrames := a, mortarFrames := b, tiles := c, regs := r, freeCtr := n, reports := rp } := by
  unfold State.ringFor
  dsimp only
  split
  · exact ⟨t.tileFrames, t.mortarFrames, t.tiles, t.regs, t.freeCtr, t.reports, rfl⟩
  · obtain ⟨a, b, c, r, n, h1⟩ := fr_freeMors t (t.ringFrames q)
    split
    · next x u hu =>
      obtain ⟨a', b', c', r', n', h2⟩ := fr_allocMors hu
      rw [h2, h1]; exact ⟨_, _, _, _, _, _, rfl⟩
    · rw [h1]; exact ⟨_, _, _, _, _, _, rfl⟩

theorem ringsFor_frame (t : State) (l : List Nat) : ∃ a b c r n rp, l.foldl (fun (a : State) p => a.ringFor p) t =
    { t with tileFrames := a, mortarFrames := b, tiles := c, regs := r, freeCtr := n, reports := rp } := by
  refine foldl_keeps (fun s t => ∃ a b c r n rp, t = { s with tileFrames := a, mortarFrames := b, tiles := c, regs := r,
                                                               freeCtr := n, reports := rp })
    (fun s => ⟨s.tileFrames, s.mortarFrames, s.tiles, s.regs, s.freeCtr, s.reports, rfl⟩) ?_ _ ringFor_frame l t
  rintro s t u ⟨a, b, c, r, n, rp, rfl⟩ ⟨a', b', c', r', n', rp', rfl⟩
  exact ⟨a', b', c', r', n', rp', rfl⟩

/-- A core under the plan in force. -/
def State.givenCore (s : State) (kv : Nat × Core) : Nat × Core :=
  if kv.2.owner = s.coreOwner kv.1 then kv
  else (kv.1, { kv.2 with owner := s.coreOwner kv.1, clearing := true, stopping := false, running := none, queue := [],
                          paused := [], lastLc := 63, lastBe := 63, choices := [],
                          prog := kv.2.prog.filter (fun w => decide (w.1 < systemWords)) })

theorem ownCores_frame (s : State) : ∃ r, s.ownCores = { s with regs := r, cores := s.cores.map s.givenCore } := by
  obtain ⟨r, hr⟩ := foldl_keeps (fun s t : State => ∃ r, t = { s with regs := r }) (fun s => ⟨s.regs, rfl⟩)
    (by rintro s t u ⟨r, rfl⟩ ⟨r', rfl⟩; exact ⟨r', rfl⟩) (fun (a : State) e => a.setFld Fld.COR_NAN_COUNT 0 e)
    (fun s e => ⟨_, rfl⟩) ((s.cores.filter (fun kv => kv.2.owner != s.coreOwner kv.1)).map (·.1))
    { s with cores := s.cores.map s.givenCore }
  exact ⟨r, hr⟩

/-- Adding contexts one by one changes the contexts only. -/
theorem foldl_ctxs {α : Type} (f : State → α → State) (hf : ∀ s x, ∃ c, f s x = { s with ctxs := c }) (l : List α) (s : State) :
    ∃ c, l.foldl f s = { s with ctxs := c } :=
  foldl_keeps (fun s t : State => ∃ c, t = { s with ctxs := c }) (fun s => ⟨s.ctxs, rfl⟩)
    (by rintro s t u ⟨r, rfl⟩ ⟨r', rfl⟩; exact ⟨r', rfl⟩) f hf l s

theorem placeCtxs_frame (s : State) (l : List PlaceRef) (h : s.ctxs = []) : ∃ c, s.placeCtxs l = { s with ctxs := c } := by
  unfold State.placeCtxs
  simp only [h, List.filter_nil, List.foldl_nil]
  generalize hu : List.foldl _ s l = u
  obtain ⟨c, hc⟩ := hu ▸ foldl_ctxs (fun (a : State) (x : PlaceRef) => match x.img with
    | some i => if a.ctxs.has (x.part, x.ctx) then a else { a with ctxs := a.ctxs.set (x.part, x.ctx) (Ctx.placed x i) }
    | none => a) (fun s x => by split <;> (try split) <;> exact ⟨_, rfl⟩) l s
  obtain ⟨d, hd⟩ := foldl_ctxs (fun (a : State) (p : Nat) =>
    if a.ctxs.has (p, 63) then a else { a with ctxs := a.ctxs.set (p, 63) Ctx.system })
    (fun s x => by split <;> exact ⟨_, rfl⟩) u.planned u
  rw [hd, hc]
  exact ⟨d, rfl⟩

/-- A context that one place names is LOADING after the plan; the system contexts stand beside it. -/
theorem placeCtxs_one (s : State) (x : PlaceRef) (i : CtxImage) (h : s.ctxs = []) (hi : x.img = some i) :
    (s.placeCtxs [x]).ctxs = (s.planned.foldl (fun (a : State) p =>
      if a.ctxs.has (p, 63) then a else { a with ctxs := a.ctxs.set (p, 63) Ctx.system })
      { s with ctxs := [((x.part, x.ctx), Ctx.placed x i)] }).ctxs := by
  unfold State.placeCtxs
  simp only [h, List.filter_nil, List.foldl_nil, List.foldl_cons, hi]
  rfl

theorem rebudget_frame (t : State) : ∃ q, t.rebudget = { t with qry := q } := by
  unfold State.rebudget
  split
  · exact ⟨t.qry, rfl⟩
  · exact ⟨_, rfl⟩

/-- What starting the partitions changes where no context is held: frame records, tile contents, registers, reports, the quarry's
budgets, contexts, the key store, the start record, and the owners of the cores. -/
theorem startPartitions_frame (s : State) (p : Plan) (h : s.ctxs = []) :
    ∃ tf mf ti rg n rp q sx, s.startPartitions p =
      { s with tileFrames := tf, mortarFrames := mf, tiles := ti, regs := rg, freeCtr := n, reports := rp, qry := q
               ctxs := ((s.ownCores.ownFrames.zeroHanded s).placeCtxs s.nextPlaces).ctxs, sec := sx
               boot := { s.boot with plan := some p, places := s.nextPlaces, unconf := false }
               cores := (s.cores.map s.givenCore).map (fun (kv : Nat × Core) => (kv.1, { kv.2 with clearing := false })) } := by
  have hmoved : allParts.filter (fun p => s.coresOf p != s.coresOf p) = [] := by simp
  obtain ⟨r1, h1⟩ := ownCores_frame s
  obtain ⟨c, h2⟩ := placeCtxs_frame (s.ownCores.ownFrames.zeroHanded s) s.nextPlaces (by rw [h1]; exact h)
  have hA : ∃ tf mf rg n sx, ((s.ownCores.ownFrames.zeroHanded s).placeCtxs s.nextPlaces).drawSeeds =
      { s with tileFrames := tf, mortarFrames := mf, regs := rg, freeCtr := n, sec := sx
               ctxs := ((s.ownCores.ownFrames.zeroHanded s).placeCtxs s.nextPlaces).ctxs, cores := s.cores.map s.givenCore } := by
    obtain ⟨sx, n1, h3⟩ := drawSeeds_frame ((s.ownCores.ownFrames.zeroHanded s).placeCtxs s.nextPlaces)
    rw [h3, h2, h1]
    exact ⟨_, _, _, _, _, rfl⟩
  unfold State.startPartitions State.enact
  simp only [hmoved, List.foldl_nil]
  generalize ((s.ownCores.ownFrames.zeroHanded s).placeCtxs s.nextPlaces).ctxs = cx at hA ⊢
  generalize ((s.ownCores.ownFrames.zeroHanded s).placeCtxs s.nextPlaces).drawSeeds = A at hA ⊢
  have hB := ringsFor_frame A A.planned
  generalize A.planned.foldl (fun (a : State) p => a.ringFor p) A = B at hB ⊢
  generalize hsec : List.filter _ _ = rem
  generalize hC : State.rebudget _ = C
  have hC2 := hC ▸ rebudget_frame _
  obtain ⟨q, rfl⟩ := hC2
  obtain ⟨a, b, cc, r, n, rp, rfl⟩ := hB
  obtain ⟨tf, mf, rg, n', sx, rfl⟩ := hA
  exact ⟨_, _, _, _, _, _, _, _, rfl⟩

end Sys2Proof.Machine
end

