-- ==== Sys2Proof/Laws/Requests.lean ====
section
/-!
SUPPORT. What the end of a request changes.
-/

namespace Sys2Proof.Machine

open Sys2Proof

/-- `t` is `s` but for what a request's end releases, answers and counts; sessions, requests and handoffs stand. -/
def State.Pre (s t : State) : Prop :=
  ∃ sl ew ba ti tf mf pr gr cx bd qr ns an fc rg po pm l, t = { s with slices := sl, expertWait := ew, batches := ba, tiles := ti, tileFrames := tf, mortarFrames := mf, prefixes := pr, grammars := gr, ctxs := cx, bonds := bd, qry := qr, nextSeq := ns, aon := an, freeCtr := fc, regs := rg, ports := po, pmc := pm, out := l ++ s.out }

theorem State.Pre.refl (s : State) : s.Pre s :=
  ⟨s.slices, s.expertWait, s.batches, s.tiles, s.tileFrames, s.mortarFrames, s.prefixes, s.grammars, s.ctxs, s.bonds, s.qry, s.nextSeq, s.aon, s.freeCtr, s.regs, s.ports, s.pmc, [], rfl⟩

theorem State.Pre.trans {s t u : State} (h : s.Pre t) (g : t.Pre u) : s.Pre u := by
  obtain ⟨_, _, _, _, _, _, _, _, _, _, _, _, _, _, _, _, _, l, rfl⟩ := h
  obtain ⟨sl, ew, ba, ti, tf, mf, pr, gr, cx, bd, qr, ns, an, fc, rg, po, pm, l', rfl⟩ := g
  exact ⟨sl, ew, ba, ti, tf, mf, pr, gr, cx, bd, qr, ns, an, fc, rg, po, pm, l' ++ l, by simp [List.append_assoc]⟩

theorem State.Pre.of_drops {s t : State} (h : s.Drops t) : s.Pre t := by
  obtain ⟨b, q, a, tf, mf, p, r, f, rfl⟩ := h
  exact ⟨s.slices, s.expertWait, s.batches, a, tf, mf, p, s.grammars, s.ctxs, b, q, s.nextSeq, s.aon, f, r, s.ports, s.pmc, [], rfl⟩

theorem State.Pre.of_bnd {s t : State} (h : s.Bnd t) : s.Pre t := by
  obtain ⟨n, r, m, l, rfl⟩ := h
  exact ⟨s.slices, s.expertWait, s.batches, s.tiles, s.tileFrames, s.mortarFrames, s.prefixes, s.grammars, s.ctxs, s.bonds, s.qry, n, s.aon, s.freeCtr, r, s.ports, m, l, rfl⟩

theorem pre_ports (s : State) (p : AMap Nat Port) : s.Pre { s with ports := p } :=
  ⟨s.slices, s.expertWait, s.batches, s.tiles, s.tileFrames, s.mortarFrames, s.prefixes, s.grammars, s.ctxs, s.bonds, s.qry, s.nextSeq, s.aon, s.freeCtr, s.regs, p, s.pmc, [], rfl⟩

theorem pre_time (s : State) (a f : Nat) : s.Pre { s with aon := a, freeCtr := f } :=
  ⟨s.slices, s.expertWait, s.batches, s.tiles, s.tileFrames, s.mortarFrames, s.prefixes, s.grammars, s.ctxs, s.bonds, s.qry, s.nextSeq, a, f, s.regs, s.ports, s.pmc, [], rfl⟩

theorem pre_ctxs (s : State) (c : AMap (Nat × Nat) Ctx) : s.Pre { s with ctxs := c } :=
  ⟨s.slices, s.expertWait, s.batches, s.tiles, s.tileFrames, s.mortarFrames, s.prefixes, s.grammars, c, s.bonds, s.qry, s.nextSeq, s.aon, s.freeCtr, s.regs, s.ports, s.pmc, [], rfl⟩

theorem pre_grammars (s : State) (g : AMap (Nat × Nat) Grammar) : s.Pre { s with grammars := g } :=
  ⟨s.slices, s.expertWait, s.batches, s.tiles, s.tileFrames, s.mortarFrames, s.prefixes, g, s.ctxs, s.bonds, s.qry, s.nextSeq, s.aon, s.freeCtr, s.regs, s.ports, s.pmc, [], rfl⟩

theorem pre_work (s : State) (a : List SliceWork) (b : List ExpertWork) (c : AMap Nat Batch) : s.Pre { s with slices := a, expertWait := b, batches := c } :=
  ⟨a, b, c, s.tiles, s.tileFrames, s.mortarFrames, s.prefixes, s.grammars, s.ctxs, s.bonds, s.qry, s.nextSeq, s.aon, s.freeCtr, s.regs, s.ports, s.pmc, [], rfl⟩

theorem pre_sendTo (s : State) (i part epoch comp : Nat) (w : Word64) (tag : Nat) (c : CtxClass) (b : MsgBody) :
    s.Pre (s.sendTo i part epoch comp w tag c b) := by
  obtain ⟨p, h⟩ := sendTo_frame s i part epoch comp w tag c b
  rw [h]; exact pre_ports ..

theorem sendStream_frame (s : State) (q : Req) (kind : Nat) (st : Status) (first : Nat) (ts : List Nat) :
    ∃ p, s.sendStream q kind st first ts = { s with ports := p } := by
  unfold State.sendStream
  split
  · exact ⟨_, rfl⟩
  · split
    · exact ⟨_, rfl⟩
    · exact sendTo_frame ..

theorem pre_sendStream (s : State) (q : Req) (kind : Nat) (st : Status) (first : Nat) (ts : List Nat) :
    s.Pre (s.sendStream q kind st first ts) := by
  obtain ⟨p, h⟩ := sendStream_frame s q kind st first ts
  rw [h]; exact pre_ports ..

theorem pre_fold {α : Type} (f : State → α → State) (hf : ∀ (s : State) (x : α), s.Pre (f s x)) (l : List α) (s : State) : s.Pre (l.foldl f s) :=
  foldl_keeps State.Pre State.Pre.refl (fun _ _ _ => State.Pre.trans) f hf l s

theorem pre_answerWaiting (s : State) (slot : Nat) (st : Status) : s.Pre (s.answerWaiting slot st) := by
  unfold State.answerWaiting
  dsimp only
  refine (pre_work s _ _ _).trans ((pre_fold _ (fun a w => pre_sendTo ..) _ _).trans (pre_fold _ (fun a w => pre_sendTo ..) _ _))

theorem pre_dropEntries (s : State) (b : Nat) (es : List (Nat × MEntry)) : s.Pre (s.dropEntries b es) :=
  .of_drops (drops_fold _ (fun _ _ => drops_dropEntry ..) _ _)

theorem pre_leaveGrammar (s : State) (p : Nat) (id : Option Nat) : s.Pre (s.leaveGrammar p id) := by
  unfold State.leaveGrammar
  split
  · exact .refl s
  · next i =>
    split
    · exact .refl s
    · next g hg =>
      dsimp only
      split
      · refine (pre_grammars s (s.grammars.set (p, i) { g with users := g.users - 1 })).trans ((State.Pre.of_bnd (bnd_bondOnce _ p)).trans ?_)
        unfold State.dropGrammar
        split
        · exact .refl _
        · exact (pre_grammars _ _).trans (.of_drops (.of_fr (fr_freeMors ..)))
      · exact pre_grammars ..

theorem pre_releaseReq (s : State) (q : Req) : s.Pre (s.releaseReq q) := by
  unfold State.releaseReq
  dsimp only
  exact (State.Pre.of_drops (.of_fr (fr_freeTiles ..))).trans
    ((pre_dropEntries ..).trans ((State.Pre.of_drops (.of_fr (fr_freeMors ..))).trans (pre_leaveGrammar ..)))

theorem pre_contextServed (s : State) (p c : Nat) : s.Pre (s.contextServed p c) := pre_ctxs ..

/-- A change of one session. -/
theorem sessions_set_set {s : State} {k : Nat} {x y : Session} (h : s.sessions = s.sessions.set k x) :
    (s.sessions.set k y) = (s.sessions.set k x).set k y := by rw [← h]

/-- What the end of a request leaves (R59, R322). -/
theorem finishReq_ended {s : State} {slot n : Nat} {q : Req} (hq : q.sq = some n) (ho : s.Open q.fn n) (st : Status) (report : Nat) :
    s.Ended (s.finishReq slot q st report) slot q st ∧ ((s.ses slot).waiting = [] → ((s.finishReq slot q st report).ses slot).waiting = []) ∧
      ∃ x, (s.finishReq slot q st report).sessions = s.sessions.set slot x := by
  unfold State.finishReq
  dsimp only
  have h1 : s.Pre (s.draw.2.sendStream q 3 st (Config.freeValue 21 s.draw.1 % 2 ^ 32) []) := (pre_time s s.aon _).trans (pre_sendStream ..)
  generalize s.draw.2.sendStream q 3 st (Config.freeValue 21 s.draw.1 % 2 ^ 32) [] = v1 at h1
  have h2 := h1.trans ((pre_answerWaiting v1 slot st).trans (pre_releaseReq _ q))
  generalize (v1.answerWaiting slot st).releaseReq q = v2 at h2
  obtain ⟨v3, hv3⟩ : ∃ v3 : State, v3 = { v2 with reqs := v2.reqs.erase slot, handoffs := v2.handoffs.erase slot } := ⟨_, rfl⟩
  rw [← hv3]
  obtain ⟨es, hes⟩ : ∃ es, es = (v3.ses slot).mortar.entries.filter (fun kv => kv.2.fill == 0 && !kv.2.shared && kv.2.tier != .remote) := ⟨_, rfl⟩
  have h4 := pre_dropEntries v3 0 es
  have e5 : v3.dropUnfilled slot = (v3.dropEntries 0 es).modSes slot (fun x => { x with mortar := { x.mortar with entries := x.mortar.entries.filter (fun kv => !(es.any (fun e => e.1 == kv.1))) } }) := by
    unfold State.dropUnfilled; rw [hes]
  rw [e5]
  generalize v3.dropEntries 0 es = v4 at h4
  have h4s : v4.sessions = s.sessions := by
    obtain ⟨_, _, _, _, _, _, _, _, _, _, _, _, _, _, _, _, _, _, h4⟩ := h4
    obtain ⟨_, _, _, _, _, _, _, _, _, _, _, _, _, _, _, _, _, _, h2⟩ := h2
    rw [h4, hv3, h2]
  have h4x : v4.ses slot = s.ses slot := by unfold State.ses; rw [h4s]
  obtain ⟨x, hx⟩ : ∃ x : Session, x = { s.ses slot with mortar := { (s.ses slot).mortar with entries := (s.ses slot).mortar.entries.filter (fun kv => !(es.any (fun e => e.1 == kv.1))) } } := ⟨_, rfl⟩
  rw [modSes_eq h4x, ← hx, h4s]
  obtain ⟨v5, hv5⟩ : ∃ v5 : State, v5 = { v4 with sessions := s.sessions.set slot x } := ⟨_, rfl⟩
  rw [← hv5]
  have h6 : v5.Pre (if Status.cls st = 0x0A then v5 else ((if (q.startedFallback || q.onFallback) = true then v5.contextServed q.part q.fbCtx else v5).contextServed q.part q.main)) := by
    split
    · exact .refl _
    · split
      · exact (pre_contextServed ..).trans (pre_contextServed ..)
      · exact pre_contextServed ..
  generalize (if Status.cls st = 0x0A then v5 else ((if (q.startedFallback || q.onFallback) = true then v5.contextServed q.part q.fbCtx else v5).contextServed q.part q.main)) = v6 at h6
  have h6 := h6.trans (State.Pre.of_bnd (bnd_recordBond v6 slot))
  generalize v6.recordBond slot = v6 at h6
  have h7 := h6.trans (pre_time v6 v6.tick.aon v6.tick.freeCtr)
  obtain ⟨v7, hv7⟩ : ∃ v7 : State, v7 = v6.tick := ⟨_, rfl⟩
  have h7 : v5.Pre v7 := by rw [hv7]; exact h7
  rw [← hv7]
  have h7s : v7.sessions = s.sessions.set slot x := by
    obtain ⟨_, _, _, _, _, _, _, _, _, _, _, _, _, _, _, _, _, _, h7⟩ := h7
    rw [h7, hv5]
  have h7x : v7.ses slot = x := (ses_set (s := s) h7s).1
  obtain ⟨y, hy⟩ : ∃ y : Session, y = { x with state := x.state.afterRequest, op := v7.opAfter slot, lastStatus := st, lastTag := q.tag, lastTokens := q.committed, lastUse := v7.aon } := ⟨_, rfl⟩
  rw [modSes_eq h7x, ← hy, h7s, AMap.set_set]
  obtain ⟨sl, ew, ba, ti, tf, mf, pr, gr, cx, bd, qr, ns, an, fc, rg, po, pm, l, h7⟩ := h7
  obtain ⟨sl4, ew4, ba4, ti4, tf4, mf4, pr4, gr4, cx4, bd4, qr4, ns4, an4, fc4, rg4, po4, pm4, l4, h4⟩ := h4
  obtain ⟨sl2, ew2, ba2, ti2, tf2, mf2, pr2, gr2, cx2, bd2, qr2, ns2, an2, fc2, rg2, po2, pm2, l2, h2⟩ := h2
  have e8 : ({ v7 with sessions := s.sessions.set slot y } : State) = { s with slices := sl, expertWait := ew, batches := ba, tiles := ti, tileFrames := tf, mortarFrames := mf, prefixes := pr, grammars := gr, ctxs := cx, bonds := bd, qry := qr, nextSeq := ns, aon := an, freeCtr := fc, regs := rg, ports := po, pmc := pm, out := l ++ (l4 ++ (l2 ++ s.out)), sessions := s.sessions.set slot y, reqs := s.reqs.erase slot, handoffs := s.handoffs.erase slot } := by
    rw [h7, hv5, h4, hv3, h2]
  have han : v7.aon = an := by rw [h7]
  rw [e8]
  obtain ⟨v8, hv8⟩ : ∃ v8 : State, v8 = { s with slices := sl, expertWait := ew, batches := ba, tiles := ti, tileFrames := tf, mortarFrames := mf, prefixes := pr, grammars := gr, ctxs := cx, bonds := bd, qry := qr, nextSeq := ns, aon := an, freeCtr := fc, regs := rg, ports := po, pmc := pm, out := l ++ (l4 ++ (l2 ++ s.out)), sessions := s.sessions.set slot y, reqs := s.reqs.erase slot, handoffs := s.handoffs.erase slot } := ⟨_, rfl⟩
  rw [← hv8]
  have hp := writes_post v8 { fn := q.fn, sq := q.sq, tag := q.tag, status := st, result := BitVec.ofNat 128 q.result, report := report, notice := false, ends := some slot } n hq (by rw [hv8]; exact ho)
  have hio := io_post v8 { fn := q.fn, sq := q.sq, tag := q.tag, status := st, result := BitVec.ofNat 128 q.result, report := report, notice := false, ends := some slot } (by rw [hq]; exact fun h => by cases h)
  generalize v8.post { fn := q.fn, sq := q.sq, tag := q.tag, status := st, result := BitVec.ofNat 128 q.result, report := report, notice := false, ends := some slot } = t at hp hio
  obtain ⟨k, hh, m, hp⟩ := hp
  have hp := State.Writes.after (s := s) ⟨l ++ (l4 ++ l2), by rw [hv8]; simp [List.append_assoc]⟩ hp
  obtain ⟨l9, m9, a9, b9, d9, f9, h9⟩ := hio
  have hts : t.sessions = s.sessions.set slot y := by rw [h9, hv8]
  obtain ⟨z1, z2⟩ := ses_set (s := s) (t := t) (k := slot) (x := y) hts
  refine ⟨⟨⟨k, hh, m, report, hp⟩, ?_, ?_, ?_, ?_, ?_, ?_⟩, ?_, ⟨y, hts⟩⟩
  · unfold State.req; rw [h9, hv8]; exact AMap.get?_erase_same ..
  · rw [z1, hy, hx]
  · rw [z1, hy]
    refine ⟨rfl, rfl, rfl, ?_⟩
    rw [h9, hv8]; exact han
  · rw [z1, hy, hx]; exact ⟨rfl, rfl⟩
  · intro j hj
    refine ⟨z2 j hj, ?_⟩
    unfold State.req; rw [h9, hv8]; exact AMap.get?_erase_other _ hj
  · refine ⟨l9 ++ (l ++ (l4 ++ l2)), m9, a9, b9, d9, f9, ?_⟩
    rw [h9, hv8]; simp [List.append_assoc]
  · intro hw
    rw [z1, hy, hx]; exact hw

/-- A request that has ended has ended whatever is written after. -/
theorem State.Ended.io {s t t' : State} {slot : Nat} {q : Req} {st : Status} (h : s.Ended t slot q st) (g : t.Io t') : s.Ended t' slot q st := by
  have go := g.out
  obtain ⟨l, m, a, b, d, e, rfl⟩ := g
  obtain ⟨h1, h2, h3, h4, h5, h6, h7⟩ := h
  obtain ⟨k, hh, mm, r, h1⟩ := h1
  exact ⟨⟨k, hh, mm, r, h1.mono go⟩, h2, h3, h4, h5, h6, State.Io.trans h7 ⟨l, m, a, b, d, e, rfl⟩⟩

/-- Where the request and its work were changed before it ended. -/
theorem State.Ended.of {s w v t : State} {slot : Nat} {q q' q'' : Req} {st : Status} {r : AMap Reg Word64} (hw : s.Pre w)
    (hv : v = { w with regs := r, reqs := s.reqs.set slot q' }) (h : v.Ended t slot q'' st)
    (hq : q''.fn = q.fn ∧ q''.sq = q.sq ∧ q''.tag = q.tag ∧ q''.result = q.result ∧ q''.committed = q.committed) : s.Ended t slot q st := by
  obtain ⟨e1, e2, e3, e4, e5⟩ := hq
  obtain ⟨_, _, _, _, _, _, _, _, _, _, _, _, _, _, _, _, _, l, rfl⟩ := hw
  subst hv
  obtain ⟨h1, h2, h3, h4, h5, h6, h7⟩ := h
  obtain ⟨k, hh, mm, rp, h1⟩ := h1
  rw [e1, e2, e3, e4] at h1
  rw [e3, e5] at h4
  refine ⟨⟨k, hh, mm, rp, State.Writes.after ⟨l, rfl⟩ h1⟩, h2, h3, h4, h5, ?_, ?_⟩
  · intro j hj
    refine ⟨(h6 j hj).1, (h6 j hj).2.trans ?_⟩
    exact AMap.get?_set_other _ _ hj
  · obtain ⟨l', m', a', b', d', e', h7⟩ := h7
    refine ⟨l' ++ l, m', a', b', d', e', ?_⟩
    have := congrArg (fun z : State => { z with
      sessions := s.sessions, reqs := s.reqs, handoffs := s.handoffs, slices := s.slices, expertWait := s.expertWait,
      batches := s.batches, tiles := s.tiles, tileFrames := s.tileFrames, mortarFrames := s.mortarFrames, prefixes := s.prefixes,
      grammars := s.grammars, ctxs := s.ctxs, bonds := s.bonds, qry := s.qry, nextSeq := s.nextSeq, aon := s.aon,
      freeCtr := s.freeCtr, regs := s.regs, ports := s.ports, cores := s.cores }) h7
    refine Eq.trans ?_ (this.trans ?_)
    · rfl
    · simp [List.append_assoc]

/-- A device stays calm where a request's work and one session change. -/
theorem State.Work.calm {s t : State} (hc : s.Calm) (h : s.Work t) {k : Nat} {x : Session} (hx : x.waiting = []) (hs : t.sessions = s.sessions.set k x) : t.Calm := by
  obtain ⟨l, m, a, b, d, e, h⟩ := h
  refine calm_sessions hc hx hs ?_ ?_ ?_ ?_ ?_ ?_ ?_
  · have := congrArg State.ckp h; exact this
  · have := congrArg State.movesIn h; exact this
  · have := congrArg State.comps h; exact this
  · have := congrArg State.resets h; exact this
  · have := congrArg State.removals h; exact this
  · have := congrArg State.removeWait h; exact this
  · have := congrArg (fun z : State => z.boot.restart) h; exact this

theorem State.Ended.kept {s t : State} {slot : Nat} {q : Req} {st : Status} (h : s.Ended t slot q st) : s.Ended (s.kept t) slot q st := by
  obtain ⟨h1, h2, h3, h4, h5, h6, h7⟩ := h
  refine ⟨h1, h2, h3, h4, h5, h6, ?_⟩
  obtain ⟨l, m, a, b, d, e, h⟩ := h7
  have e1 : t.flash = s.flash := by have := congrArg State.flash h; exact this
  have e2 : t.pending = s.pending := by have := congrArg State.pending h; exact this
  have : s.kept t = t := by unfold State.kept; rw [← e1, ← e2]
  rw [this]
  exact ⟨l, m, a, b, d, e, h⟩

/-- The end of a request without an emit ring and without a handoff (R322). -/
theorem endReq_ended {s : State} {slot n : Nat} {q : Req} (hc : s.Calm) (hr : s.req slot = some q) (hq : q.sq = some n) (ho : s.Open q.fn n)
    (hp : q.phase = .generating) (he : q.emit = none) (hh : s.handoffs.get? slot = none) (st : Status) :
    s.Ended (s.endReq slot st 0 0) slot q st ∧ ∃ x, (s.endReq slot st 0 0).sessions = s.sessions.set slot x ∧ x.waiting = [] := by
  unfold State.endReq
  rw [hr]
  dsimp only
  rw [if_neg (by rw [hp]; exact fun h => by cases h)]
  obtain ⟨q', hq'⟩ : ∃ q' : Req, q' = { q with phase := .ending, utf8 := [], stopHold := [], held := none, pending := [], total := { q.total with running := false }, first := { q.first with running := false }, inter := { q.inter with running := false } } := ⟨_, rfl⟩
  rw [← hq']
  have hpa : s.Pre ((s.bump Fld.TXT_REPLACED_COUNT q.part (textFlush q.args.text q.utf8 q.stopHold).replaced).answerWaiting slot st) :=
    (State.Pre.of_drops (.of_fr (fr_bump ..))).trans (pre_answerWaiting ..)
  generalize (s.bump Fld.TXT_REPLACED_COUNT q.part (textFlush q.args.text q.utf8 q.stopHold).replaced).answerWaiting slot st = b at hpa
  have ha : b.abortHandoff slot = b := by
    unfold State.abortHandoff
    have : b.handoffs.get? slot = none := by obtain ⟨_, _, _, _, _, _, _, _, _, _, _, _, _, _, _, _, _, _, h⟩ := hpa; rw [h]; exact hh
    rw [this]
  rw [ha]
  have hs : ∃ r, (if Status.cls st = 2 && st != Status.deadlineOnFallback then (b.setReq slot q').bump Fld.SCH_DL_FAILS_COUNT q.part
        else if st = .grammarStall then (b.setReq slot q').bump Fld.GRM_STALLS_COUNT q.part
        else if st = .peerBadLogits then (b.setReq slot q').bump Fld.SMP_BAD_LOGITS_COUNT q.part
        else b.setReq slot q') = { b with regs := r, reqs := s.reqs.set slot q' } := by
    have hrq : b.reqs = s.reqs := by obtain ⟨_, _, _, _, _, _, _, _, _, _, _, _, _, _, _, _, _, _, h⟩ := hpa; rw [h]
    unfold State.setReq
    rw [hrq]
    split
    · exact ⟨_, rfl⟩
    · split
      · exact ⟨_, rfl⟩
      · split
        · exact ⟨_, rfl⟩
        · exact ⟨_, rfl⟩
  obtain ⟨r, hs⟩ := hs
  rw [hs]
  unfold State.writeEnd
  have hem : q'.emit = none := by rw [hq']; exact he
  rw [hem]
  dsimp only
  have hqs : q'.sq = some n := by rw [hq']; exact hq
  have hqf : q'.fn = q.fn := by rw [hq']
  obtain ⟨g1, g2, x, g3⟩ := finishReq_ended (s := { b with regs := r, reqs := s.reqs.set slot q' }) (slot := slot) (n := n) (q := q') hqs
    (by rw [hqf]; obtain ⟨_, _, _, _, _, _, _, _, _, _, _, _, _, _, _, _, _, _, h⟩ := hpa; rw [h]; exact ho) st 0
  have hse : b.sessions = s.sessions := by obtain ⟨_, _, _, _, _, _, _, _, _, _, _, _, _, _, _, _, _, _, h⟩ := hpa; rw [h]
  have g3 : _ = s.sessions.set slot x := g3.trans (by rw [← hse])
  refine ⟨State.Ended.of hpa rfl g1 (by rw [hq']; exact ⟨rfl, rfl, rfl, rfl, rfl⟩), x, g3, ?_⟩
  have hw : (State.ses { b with regs := r, reqs := s.reqs.set slot q' } slot).waiting = [] := by
    have : State.ses { b with regs := r, reqs := s.reqs.set slot q' } slot = s.ses slot := congrArg (fun m => AMap.getD m slot Session.free) hse
    rw [this]; exact ses_waiting hc slot
  have := g2 hw
  rw [(ses_set g3).1] at this
  exact this

theorem open_cqEvent {s : State} (f : Fn) (q : Nat) {g : Fn} {n : Nat} (h : s.Open g n) : (s.cqEvent f q).Open g n := by
  unfold State.cqEvent
  split
  · exact h
  · next c hc =>
    split
    · exact h
    · obtain ⟨y, x, h1, h2, h3⟩ := h
      by_cases hk : (g.index, y.cq) = (f.index, q)
      · have : s.cq g y.cq = s.cq f q := by unfold State.cq; rw [hk]
        rw [this, hc] at h2
        cases h2
        refine ⟨y, { c with unsignalled := c.unsignalled + 1, timer := true }, h1, ?_, h3⟩
        show (s.cqs.set (f.index, q) _).get? (g.index, y.cq) = _
        rw [hk]
        exact AMap.get?_set_same ..
      · refine ⟨y, x, h1, ?_, h3⟩
        show (s.cqs.set (f.index, q) _).get? (g.index, y.cq) = _
        rw [AMap.get?_set_other _ _ hk]
        exact h2

theorem open_sealed {s : State} (f : Fn) {g : Fn} {n : Nat} (h : s.Open g n) : (s.sealed f).Open g n := by
  obtain ⟨b, e⟩ := sealed_frame s f
  rw [e]; exact h

/-- What writing a record into an emit ring leaves (R271 to R273). -/
theorem emitRecord_spec (s : State) (q : Req) (e : Emit) (kind flags tokens endw : Nat) (text : List Byte) :
    s.Io (s.emitRecord q e kind flags tokens endw text).2 ∧
      s.Writes (s.emitRecord q e kind flags tokens endw text).2 (.emit q.fn (e.ring.base + (if 2 ^ e.ring.log2 < e.head % 2 ^ e.ring.log2 + recordBytes text then 0 else e.head % 2 ^ e.ring.log2)) ⟨e.seq, kind, flags, text.length, tokens, endw, text⟩) ∧
      ∀ g n, s.Open g n → (s.emitRecord q e kind flags tokens endw text).2.Open g n := by
  unfold State.emitRecord
  dsimp only
  have h1 : ∀ p : Bool, ∀ o : Out, s.Io (if p = true then (s.put o).sealed q.fn else s) ∧ ∀ g n, s.Open g n → State.Open (if p = true then (s.put o).sealed q.fn else s) g n := by
    intro p o
    cases p with
    | true => exact ⟨(io_put ..).trans (io_sealed ..), fun g n h => open_sealed q.fn (s := s.put o) h⟩
    | false => exact ⟨.refl s, fun g n h => h⟩
  have h1 := h1 (decide (2 ^ e.ring.log2 < e.head % 2 ^ e.ring.log2 + recordBytes text)) (.emit q.fn (e.ring.base + e.head % 2 ^ e.ring.log2) ⟨e.seq, 2, 0, 2 ^ e.ring.log2 - e.head % 2 ^ e.ring.log2 - 16, tokens, 0, []⟩)
  simp only [decide_eq_true_eq] at h1 ⊢
  generalize (if 2 ^ e.ring.log2 < e.head % 2 ^ e.ring.log2 + recordBytes text then (s.put _).sealed q.fn else s) = v at h1
  obtain ⟨h1, h2⟩ := h1
  generalize ho : Out.emit q.fn (e.ring.base + (if 2 ^ e.ring.log2 < e.head % 2 ^ e.ring.log2 + recordBytes text then 0 else e.head % 2 ^ e.ring.log2)) ⟨e.seq, kind, flags, text.length, tokens, endw, text⟩ = o
  have h3 : v.Io ((v.put o).sealed q.fn) := (io_put ..).trans (io_sealed ..)
  have w3 : v.Writes ((v.put o).sealed q.fn) o := (State.Writes.of_put v o).mono (io_sealed ..).out
  have h4 : ∀ z : State, z.Io (z.notifyEmit q) ∧ ∀ g n, z.Open g n → (z.notifyEmit q).Open g n := by
    intro z
    unfold State.notifyEmit
    repeat' split
    all_goals first
      | exact ⟨.refl z, fun g n h => h⟩
      | exact ⟨io_cqEvent .., fun g n h => open_cqEvent _ _ h⟩
  obtain ⟨h5, h6⟩ := h4 (((v.put o).sealed q.fn).put (.head q.fn e.ring.ctrl (e.head + e.need (recordBytes text))))
  have h7 : ((v.put o).sealed q.fn).Io (((v.put o).sealed q.fn).put (.head q.fn e.ring.ctrl (e.head + e.need (recordBytes text)))) := io_put ..
  refine ⟨h1.trans (h3.trans (h7.trans h5)), ?_, ?_⟩
  · exact State.Writes.after h1.out (w3.mono (h7.trans h5).out)
  · intro g n h
    exact h6 g n (open_sealed (s := v.put o) q.fn (h2 g n h))

end Sys2Proof.Machine
end

