-- ==== Sys2Proof/Laws/Stores.lean ====
section
/-!
SUPPORT. What the stores of tiles, logs and pages leave: frames taken, parks that end, pages read, programmed and moved, blocks retired.
-/

namespace Sys2Proof.Machine

open Sys2Proof

/-- `s` with other outputs, performance counters and requests. -/
def State.rio (s : State) (l : List Out) (m : AMap Reg Word64) (r : AMap Nat Req) : State := { s with out := l, pmc := m, reqs := r }

theorem allocTile_rio (s : State) (l : List Out) (m : AMap Reg Word64) (r : AMap Nat Req) (p : Nat) (f : Frame) :
    (s.rio l m r).allocTile p f = (s.allocTile p f).map (fun x => (x.1, x.2.rio l m r)) := by
  unfold State.allocTile
  have h1 : (s.rio l m r).tileFirst p = s.tileFirst p := rfl
  have h2 : (s.rio l m r).tileCount p = s.tileCount p := rfl
  rw [h1, h2]
  show (match findFree s.tileFrames (s.tileFirst p) (s.tileCount p) (Config.pick s.freeCtr) (s.tileFrames.length + 1) with | some n => _ | none => _) = _
  cases findFree s.tileFrames (s.tileFirst p) (s.tileCount p) (Config.pick s.freeCtr) (s.tileFrames.length + 1) with
  | some n => rfl
  | none =>
    show (match findZeroing s.tileFrames (s.tileFirst p) (s.tileCount p) with | some n => _ | none => _) = _
    cases findZeroing s.tileFrames (s.tileFirst p) (s.tileCount p) <;> rfl

theorem allocTiles_rio (l : List Out) (m : AMap Reg Word64) (r : AMap Nat Req) (p : Nat) (f : Frame) (n : Nat) : ∀ s : State,
    (s.rio l m r).allocTiles p f n = (s.allocTiles p f n).map (fun x => (x.1, x.2.rio l m r)) := by
  induction n with
  | zero => intro s; rfl
  | succ n ih =>
    intro s
    unfold State.allocTiles
    rw [allocTile_rio]
    cases s.allocTile p f with
    | none => rfl
    | some x =>
      obtain ⟨k, t⟩ := x
      show (match (t.rio l m r).allocTiles p f n with | none => _ | some (as, s2) => _) = _
      rw [ih]
      show _ = Option.map _ (match t.allocTiles p f n with | none => _ | some (as, s2) => _)
      cases t.allocTiles p f n <;> rfl

theorem allocTile_exact {s t : State} {p n : Nat} {f : Frame} (h : s.allocTile p f = some (n, t)) :
    ∃ a b r, t = { s with tileFrames := a, freeCtr := b, regs := r } := by
  unfold State.allocTile at h
  split at h
  · cases h; exact ⟨_, _, _, rfl⟩
  · split at h
    · cases h; exact ⟨_, _, _, rfl⟩
    · cases h

theorem allocTiles_exact {p : Nat} {f : Frame} : ∀ (n : Nat) {s t : State} {l : List Nat}, s.allocTiles p f n = some (l, t) →
    ∃ a b r, t = { s with tileFrames := a, freeCtr := b, regs := r }
  | 0, s, t, l, h => by cases h; exact ⟨_, _, _, rfl⟩
  | n + 1, s, t, l, h => by
    unfold State.allocTiles at h
    split at h
    · cases h
    · rename_i a s1 h1
      split at h
      · cases h
      · rename_i as s2 h2
        cases h
        obtain ⟨_, _, _, rfl⟩ := allocTile_exact h1
        obtain ⟨_, _, _, rfl⟩ := allocTiles_exact n h2
        exact ⟨_, _, _, rfl⟩

theorem sendChain_frame (s : State) (q : Req) (kind first : Nat) (ts : List Nat) : ∃ p, s.sendChain q kind first ts = { s with ports := p } := by
  unfold State.sendChain
  generalize chunks 16370 ts = l
  suffices h : ∀ (l : List (List Nat)) (a : State × Nat), ∃ p, (l.foldl (fun (a : State × Nat) c => (a.1.sendStream q kind 0 a.2 c, a.2 + c.length)) a).1 = { a.1 with ports := p } from h l _
  intro l
  induction l with
  | nil => intro a; exact ⟨_, rfl⟩
  | cons c l ih =>
    intro a
    obtain ⟨p, h⟩ := ih (a.1.sendStream q kind 0 a.2 c, a.2 + c.length)
    obtain ⟨p2, h2⟩ := sendStream_frame a.1 q kind 0 a.2 c
    refine ⟨p, ?_⟩
    rw [List.foldl_cons, h]
    dsimp only
    rw [h2]

theorem AMap.erase_set' {κ α : Type} [DecidableEq κ] (m : AMap κ α) (k : κ) (v : α) : (m.set k v).erase k = m.erase k := by
  induction m with
  | nil => simp [AMap.set, AMap.erase]
  | cons kv r ih =>
    obtain ⟨k', v'⟩ := kv
    unfold AMap.set
    by_cases h : k' = k
    · rw [if_pos h]; simp [AMap.erase, h]
    · rw [if_neg h]; simp [AMap.erase, h, ih]

theorem mem_insertBy {α : Type} (lt : α → α → Bool) (x y : α) (l : List α) : y ∈ insertBy lt x l ↔ y = x ∨ y ∈ l := by
  induction l with
  | nil => simp [insertBy]
  | cons z r ih =>
    unfold insertBy
    split
    · simp
    · simp only [List.mem_cons, ih]; tauto

theorem mem_sortBy {α : Type} (lt : α → α → Bool) (y : α) (l : List α) : y ∈ sortBy lt l ↔ y ∈ l := by
  unfold sortBy
  suffices h : ∀ (l acc : List α), y ∈ l.foldl (fun acc x => insertBy lt x acc) acc ↔ y ∈ acc ∨ y ∈ l by
    rw [h]; simp
  intro l
  induction l with
  | nil => intro acc; simp
  | cons z r ih => intro acc; rw [List.foldl_cons, ih, mem_insertBy]; simp only [List.mem_cons]; tauto

theorem finishWarm_frame {s : State} {slot : Nat} {r : ParkRun} {h : Hints} {x : Session} (hx : s.ses slot = x) (hl : x.log = x.perLog) (hk : r.kind = .warm) :
    ∃ n rg m l an fc, s.finishWarm slot r h = State.completeFor { s with nextSeq := n, regs := rg, pmc := m, out := l ++ s.out, aon := an, freeCtr := fc, sessions := s.sessions.set slot { x with op := .none, hints := h, lastUse := an, sincePersist := 0 }, parks := s.parks.erase slot } r.owner .ok 0 := by
  unfold State.finishWarm
  dsimp only
  rw [hx]
  obtain ⟨n, rg, m, l, hb⟩ := bnd_bondOnce s x.part
  generalize s.bondOnce x.part = w at hb
  have hwx : w.ses slot = x := by rw [hb]; exact hx
  have e1 : w.persist slot = { w with sessions := w.sessions.set slot { x with sincePersist := 0 } } := by
    unfold State.persist
    dsimp only
    rw [if_pos (by rw [hwx]; exact hl), modSes_eq hwx]
  rw [e1]
  obtain ⟨w2, hw2⟩ : ∃ w2 : State, w2 = { w with sessions := w.sessions.set slot { x with sincePersist := 0 } } := ⟨_, rfl⟩
  rw [← hw2]
  have h2x : w2.ses slot = { x with sincePersist := 0 } := (ses_set (s := w) (by rw [hw2])).1
  have e2 : (({ w2 with parks := w2.parks.erase slot } : State).modSes slot (fun y => { y with op := .none, state := x.state, hints := h })).touch slot =
      { w2 with parks := w2.parks.erase slot, aon := w2.tick.aon, freeCtr := w2.tick.freeCtr, sessions := w2.sessions.set slot { x with op := .none, hints := h, lastUse := w2.tick.aon, sincePersist := 0 } } := by
    have h3x : ({ w2 with parks := w2.parks.erase slot } : State).ses slot = { x with sincePersist := 0 } := h2x
    rw [modSes_eq h3x]
    unfold State.touch
    dsimp only
    rw [modSes_eq (x := { x with sincePersist := 0, op := .none, hints := h }) (ses_set (s := w2) rfl).1]
    dsimp only [State.tick]
    rw [AMap.set_set]
  unfold State.endPark
  dsimp only
  rw [e2, hk, h2x]
  dsimp only
  refine ⟨n, (w2.bump Fld.DRS_PARKS_WARM_COUNT x.part).regs, m, l, w2.tick.aon, w2.tick.freeCtr, ?_⟩
  have hws : w2.sessions.set slot { x with op := .none, hints := h, lastUse := w2.tick.aon, sincePersist := 0 } = s.sessions.set slot { x with op := .none, hints := h, lastUse := w2.tick.aon, sincePersist := 0 } := by
    rw [hw2, hb]; dsimp only; rw [AMap.set_set]
  rw [hws]
  generalize s.sessions.set slot { x with op := .none, hints := h, lastUse := w2.tick.aon, sincePersist := 0 } = ss
  rw [hw2, hb]
  rfl

theorem qStages_spec {p : Nat} {k : QKind} {b : Nat} : ∀ (n : Nat) {s t : State} {fs : List Nat}, s.qStages p k b n = some (fs, t) →
    fs.length = n ∧ ∃ st fc, t = { s with qry := { s.qry with staged := st }, freeCtr := fc }
  | 0, s, t, fs, h => by cases h; exact ⟨rfl, _, _, rfl⟩
  | n + 1, s, t, fs, h => by
    unfold State.qStages at h
    split at h
    · cases h
    · rename_i a s1 h1
      split at h
      · cases h
      · rename_i as s2 h2
        cases h
        obtain ⟨h3, st, fc, h4⟩ := qStages_spec n h2
        unfold State.qStage at h1
        split at h1
        · cases h1
        · cases h1
          refine ⟨by simp [h3], st, fc, ?_⟩
          rw [h4]

theorem programPage_frame (s : State) (f ppa : Nat) (slc : Bool) : ∃ bl me sq nb m l, s.programPage f ppa slc =
    { s with qry := { s.qry with blocks := bl, pages := s.qry.pages.set ppa f, metas := me, seq := sq, nandBytes := nb }, pmc := m, out := l ++ s.out } := by
  unfold State.programPage
  dsimp only
  obtain ⟨m, l, hc⟩ := count_frame _ _
  exact ⟨_, _, _, _, m, l, hc⟩

/-- A page read: the outcome as the map entry keeps it (R408). -/
def QMap.after (e : QMap) (o : ReadOutcome) : QMap :=
  match o with
  | .retry k => if 3 ≤ k then { e with marked := true } else e
  | .soft => { e with marked := true }
  | .bad => { e with bad := true }
  | .hard => e

theorem qRead_frame {s : State} {f : Nat} {e : QMap} (o : ReadOutcome) (he : s.qry.map.get? f = some e) :
    ∃ m l r, s.qRead f o = { s with qry := { (s.qry.cachePage (mapPageOf f)).modBlk (ppaBlock e.ppa) (fun b => { b with reads := Nat.min (b.reads + 1) (2 ^ 20 - 1) }) with map := (s.qry.cachePage (mapPageOf f)).map.set f (e.after o) }, pmc := m, out := l ++ s.out, regs := r } ∧
      (o = .hard → r = s.regs) ∧ State.fld { s with regs := r } Fld.QRY_WEAR_CFG_DISTURB_K = s.fld Fld.QRY_WEAR_CFG_DISTURB_K := by
  unfold State.qRead
  rw [he]
  dsimp only
  have ho : (match o with | .retry k => if 3 ≤ k then { e with marked := true } else e | .soft => { e with marked := true } | .bad => { e with bad := true } | .hard => e) = e.after o := by
    cases o <;> rfl
  obtain ⟨A, hA⟩ : ∃ A : State, A = { s with qry := { (s.qry.cachePage (mapPageOf f)).modBlk (ppaBlock e.ppa) (fun b => { b with reads := Nat.min (b.reads + 1) (2 ^ 20 - 1) }) with map := (s.qry.cachePage (mapPageOf f)).map.set f (e.after o) } } := ⟨_, rfl⟩
  obtain ⟨m, l, hc⟩ := count_frame A (PmcEv.ofPart 0x40 1 e.owner .bg)
  have hC : ∀ F : Field, ∃ r, (A.count (PmcEv.ofPart 0x40 1 e.owner .bg)).bump F = { s with qry := { (s.qry.cachePage (mapPageOf f)).modBlk (ppaBlock e.ppa) (fun b => { b with reads := Nat.min (b.reads + 1) (2 ^ 20 - 1) }) with map := (s.qry.cachePage (mapPageOf f)).map.set f (e.after o) }, pmc := m, out := l ++ s.out, regs := r } ∧ State.fld { s with regs := r } Fld.QRY_WEAR_CFG_DISTURB_K = State.fld (s.bump F) Fld.QRY_WEAR_CFG_DISTURB_K := by
    intro F
    refine ⟨(s.bump F).regs, ?_, rfl⟩
    rw [hc, hA]; rfl
  have hA' : A.count (PmcEv.ofPart 0x40 1 e.owner .bg) = { s with qry := { (s.qry.cachePage (mapPageOf f)).modBlk (ppaBlock e.ppa) (fun b => { b with reads := Nat.min (b.reads + 1) (2 ^ 20 - 1) }) with map := (s.qry.cachePage (mapPageOf f)).map.set f (e.after o) }, pmc := m, out := l ++ s.out, regs := s.regs } := by
    rw [hc, hA]
  cases o with
  | hard => rw [hA] at hA'; exact ⟨m, l, s.regs, hA', fun _ => rfl, rfl⟩
  | retry k =>
    obtain ⟨r, h1, h2⟩ := hC Fld.QRY_CE_COUNT
    rw [hA] at h1
    exact ⟨m, l, r, h1, fun h => (by cases h), h2.trans (fld_setFld_other _ _ _ _ _ _ _ _ (by decide) (by decide) (by decide))⟩
  | soft =>
    obtain ⟨r, h1, h2⟩ := hC Fld.QRY_CE_COUNT
    rw [hA] at h1
    exact ⟨m, l, r, h1, fun h => (by cases h), h2.trans (fld_setFld_other _ _ _ _ _ _ _ _ (by decide) (by decide) (by decide))⟩
  | bad =>
    obtain ⟨r, h1, h2⟩ := hC Fld.QRY_UC_COUNT
    rw [hA] at h1
    exact ⟨m, l, r, h1, fun h => (by cases h), h2.trans (fld_setFld_other _ _ _ _ _ _ _ _ (by decide) (by decide) (by decide))⟩

theorem checkDisturb_none {s : State} (b : Nat) (h : s.fld Fld.QRY_WEAR_CFG_DISTURB_K = 0) : s.checkDisturb b = s := by
  unfold State.checkDisturb
  dsimp only
  rw [if_pos]
  simp [h]

theorem reviveOf_log {s : State} {slot f : Nat} {l : List Nat} {r : ReviveRun} (hr : s.revives = [(slot, r)]) (hl : r.logLeft = f :: l) (hp : (s.ses slot).mortar.pageLocators = []) :
    s.reviveOf f = some slot := by
  unfold State.reviveOf
  rw [hr]
  simp [hl, hp, locFrames]

theorem record_logs {s s1 s2 : State} {fi : ErrIn} (h1 : s1.err = s.err) (h2 : s2 = s1.record fi) (hn : ∀ r ∈ s.err.ring, r.cls ≠ .ce) :
    s1.Rec s2 ∧ ∀ c a p l d, fi.cls = c → fi.source = a → fi.part = p → fi.location = l → fi.detail = d → s.Logs s2 c a p l d := by
  have hrec : s1.Rec s2 := by rw [h2]; exact (rec_recoveries s1 []).trans (rec_detect _ _)
  refine ⟨hrec, ?_⟩
  have hlog := (logs_detect (s := s1) (s0 := s1.recoveries []) (f := fi) (by rw [recoveries_nil]) (coalesces_none_of (by
    intro r hr
    rw [recoveries_nil] at hr
    exact hn r (by rw [← h1]; exact hr)))).1
  intro c a p l d e1 e2 e3 e4 e5
  rw [e1, e2, e3, e4, e5] at hlog
  obtain ⟨rr, g1, g2, g3⟩ := hlog
  exact ⟨rr, by rw [h2]; exact g1, by rw [← h1]; exact g2, g3⟩

theorem qRetire_exact (s : State) (b : Nat) : ∃ bl bb j ids ro, s.qRetire b = { s with qry := { s.qry with blocks := bl, badBlocks := bb, journal := j, ids := ids, readOnly := ro } } ∧
    (AMap.getD bl b Blk.fresh).state = .retired ∧ b ∈ bb := by
  unfold State.qRetire
  dsimp only
  refine ⟨_, _, _, _, _, rfl, ?_, ?_⟩
  · show (AMap.getD (s.qry.blocks.set _ _) _ _).state = _
    rw [AMap.getD_set, if_pos rfl]
  · show b ∈ (if (s.qry.modBlk b _).badBlocks.contains b then _ else _)
    split
    · rename_i h; simpa using h
    · simp

theorem leastBy_of {α : Type} [DecidableEq α] (lt : α → α → Bool) (b : α) (l : List α) (hm : b ∈ l) (h : ∀ y ∈ l, y ≠ b → lt b y = true ∧ lt y b = false) : leastBy lt l = some b := by
  have key : ∀ (r : List α) (a : α), (∀ y ∈ r, y ≠ b → lt b y = true ∧ lt y b = false) → (a = b ∨ (b ∈ r ∧ lt b a = true)) →
      r.foldl (fun best y => if lt y best then y else best) a = b := by
    intro r
    induction r with
    | nil =>
      intro a _ ha
      rcases ha with ha | ⟨ha, -⟩
      · exact ha
      · cases ha
    | cons y r ih =>
      intro a hr ha
      rw [List.foldl_cons]
      apply ih _ (fun z hz => hr z (List.mem_cons_of_mem _ hz))
      by_cases hy : y = b
      · left
        rcases ha with ha | ⟨-, ha⟩
        · rw [ha, hy]; split <;> rfl
        · rw [hy, ha, if_pos rfl]
      · have hyb := hr y List.mem_cons_self hy
        rcases ha with ha | ⟨hb, ha⟩
        · left; rw [ha, hyb.2]; rfl
        · right
          refine ⟨?_, ?_⟩
          · rcases List.mem_cons.1 hb with h | h
            · exact absurd h.symm hy
            · exact h
          · split
            · exact hyb.1
            · exact ha
  cases l with
  | nil => cases hm
  | cons x r =>
    unfold leastBy
    dsimp only
    congr 1
    apply key r x (fun y hy => h y (List.mem_cons_of_mem _ hy))
    by_cases hx : x = b
    · left; exact hx
    · right
      refine ⟨?_, (h x List.mem_cons_self hx).1⟩
      rcases List.mem_cons.1 hm with h | h
      · exact absurd h.symm hx
      · exact h

theorem emptyBlock_none {s : State} {b : Nat} (h : s.qry.framesIn b = []) :
    s.emptyBlock b = { s with qry := (s.qry.modBlk b (fun y => { y with state := .erasing })).log ⟨0, 0, .eraseStart, b, 0, 0⟩ } := by
  unfold State.emptyBlock
  rw [h]
  dsimp only [List.foldl]
  rw [h]
  rfl

/-- Bringing a map page into the cache changes the map cache, the map directory and the journal only (R413). -/
theorem cachePage_frame (q : Qry) (k : Nat) : ∃ c d dr sq j, q.cachePage k = { q with cached := c, dirty := d, dir := dr, seq := sq, journal := j } := by
  unfold Qry.cachePage
  split
  · exact ⟨q.cached, q.dirty, q.dir, q.seq, q.journal, rfl⟩
  · split
    · exact ⟨_, q.dirty, q.dir, q.seq, q.journal, rfl⟩
    · dsimp only
      split
      · exact ⟨_, _, _, _, _, rfl⟩
      · exact ⟨_, q.dirty, q.dir, q.seq, q.journal, rfl⟩

/-- A record in the quarry's journal: beside it only the map cache, the map directory and the highest bond ID change. -/
theorem qLog_frame (q : Qry) (r : QRec) : ∃ c d dr sq j i, q.log r = { q with cached := c, dirty := d, dir := dr, seq := sq, journal := j, ids := i } := by
  have ht : ∀ f, ∃ c d dr sq j, q.touchMap f = { q with cached := c, dirty := d, dir := dr, seq := sq, journal := j } := by
    intro f
    obtain ⟨c, d, dr, sq, j, h⟩ := cachePage_frame q (mapPageOf f)
    unfold Qry.touchMap
    dsimp only
    rw [h]
    exact ⟨_, _, _, _, _, rfl⟩
  have key : ∀ z : Qry, (∃ c d dr sq j, z = { q with cached := c, dirty := d, dir := dr, seq := sq, journal := j }) → ∀ i, ∃ c d dr sq j i',
      ({ z with journal := r :: z.journal, ids := i } : Qry) = { q with cached := c, dirty := d, dir := dr, seq := sq, journal := j, ids := i' } := by
    rintro z ⟨c, d, dr, sq, j, rfl⟩ i
    exact ⟨_, _, _, _, _, i, rfl⟩
  unfold Qry.log
  dsimp only
  refine key _ ?_ _
  split
  · exact ht _
  · exact ht _
  · exact ht _
  · exact ⟨q.cached, q.dirty, q.dir, q.seq, q.journal, rfl⟩

theorem relocateFrame_spec {s : State} {f ppa : Nat} {e : QMap} (he : s.qry.map.get? f = some e)
    (hp : s.qry.tlcPage (s.qry.rotation (Config.pick s.freeCtr)) = some ppa) :
    ∃ q m l, s.relocateFrame f = { s with qry := q, pmc := m, out := l ++ s.out, freeCtr := s.freeCtr + 1 } ∧
      q.map = s.qry.map.set f { e with ppa := ppa, slc := false, marked := false } ∧ q.pages = s.qry.pages.set ppa f ∧
      (∀ b, ppaBlock e.ppa = b → ppaBlock ppa ≠ b → q.blk b = { s.qry.blk b with valid := (s.qry.blk b).valid - 1 }) := by
  unfold State.relocateFrame
  rw [he]
  dsimp only
  rw [hp]
  dsimp only
  obtain ⟨bl, me, sq, nb, m, l, hpp⟩ := programPage_frame ({ s with freeCtr := s.freeCtr + 1 } : State) f ppa false
  have hbl : ∀ j, j ≠ ppaBlock ppa → AMap.getD bl j Blk.fresh = s.qry.blk j := by
    intro j hj
    have h1 : (State.programPage { s with freeCtr := s.freeCtr + 1 } f ppa false).qry.blk j = s.qry.blk j := by
      unfold State.programPage
      dsimp only
      generalize (if ppaPage ppa % 9 = 7 then 2 else 1) = n
      have hc : ∀ (A : State), (A.count (PmcEv.ofDevice 0x41 n)).qry = A.qry := by
        intro A
        obtain ⟨m, l, h⟩ := count_frame A (PmcEv.ofDevice 0x41 n)
        rw [h]
      rw [hc]
      show AMap.getD (s.qry.blocks.set _ _) _ _ = _
      rw [AMap.getD_set, if_neg (by simpa using hj)]; rfl
    rw [hpp] at h1
    exact h1
  rw [hpp]
  dsimp only
  generalize hq0 : Qry.modBlk (Qry.modBlk _ _ _) _ _ = q0
  obtain ⟨c, d, dr, sq', j, i, hl⟩ := qLog_frame q0 ⟨0, e.owner, .relocate, f, ppa, e.ppa⟩
  refine ⟨_, m, l, rfl, ?_, ?_, ?_⟩
  · rw [hl, ← hq0]; rfl
  · rw [hl, ← hq0]; rfl
  intro b hb hne
  rw [hl, ← hq0]
  show AMap.getD ((AMap.set bl (ppaBlock e.ppa) _).set (ppaBlock ppa) _) b _ = _
  rw [AMap.getD_set, if_neg (by intro h; exact hne (by simpa using h.symm)), AMap.getD_set, if_pos (by simp [hb])]
  have h2 : (AMap.getD bl (ppaBlock e.ppa) Blk.fresh) = s.qry.blk b := by rw [hb]; exact hbl b (fun h => hne h.symm)
  show (fun y : Blk => ({ y with valid := y.valid - 1 } : Blk)) (AMap.getD bl (ppaBlock e.ppa) Blk.fresh) = _
  rw [h2]

theorem framesIn_set {m : AMap Nat QMap} {f b : Nat} {e e' : QMap} (he : m.get? f = some e) (hb : ppaBlock e.ppa = b) (hb' : ppaBlock e'.ppa ≠ b)
    (hl : (m.filter (fun kv => ppaBlock kv.2.ppa == b)).map (·.1) = [f]) : ((m.set f e').filter (fun kv => ppaBlock kv.2.ppa == b)).map (·.1) = [] := by
  induction m with
  | nil => cases hl
  | cons kv r ih =>
    obtain ⟨k, v⟩ := kv
    unfold AMap.get? at he
    unfold AMap.set
    by_cases hk : k = f
    · rw [if_pos hk] at he ⊢
      cases he
      have hp : (ppaBlock e.ppa == b) = true := by simpa using hb
      rw [List.filter_cons, if_pos hp, List.map_cons] at hl
      rw [List.filter_cons, if_neg (by simpa using hb')]
      exact (List.cons.inj hl).2
    · rw [if_neg hk] at he ⊢
      rw [List.filter_cons] at hl ⊢
      by_cases hv : (ppaBlock v.ppa == b) = true
      · rw [if_pos hv, List.map_cons] at hl
        exact absurd (List.cons.inj hl).1 hk
      · rw [if_neg hv] at hl ⊢
        exact ih he hl

theorem record_uc {s s1 s2 : State} {fi : ErrIn} (h1 : s1.err = s.err) (h2 : s2 = s1.record fi) (hn : fi.cls ≠ .ce) :
    s1.Rec s2 ∧ ∀ c a p l d, fi.cls = c → fi.source = a → fi.part = p → fi.location = l → fi.detail = d → s.Logs s2 c a p l d := by
  have hrec : s1.Rec s2 := by rw [h2]; exact (rec_recoveries s1 []).trans (rec_detect _ _)
  refine ⟨hrec, ?_⟩
  have hlog := (logs_detect (s := s1) (s0 := s1.recoveries []) (f := fi) (by rw [recoveries_nil]) (coalesces_not_ce _ _ hn)).1
  intro c a p l d e1 e2 e3 e4 e5
  rw [e1, e2, e3, e4, e5] at hlog
  obtain ⟨rr, g1, g2, g3⟩ := hlog
  exact ⟨rr, by rw [h2]; exact g1, by rw [← h1]; exact g2, g3⟩

end Sys2Proof.Machine
end

