-- ==== Sys2Proof/Laws/TileOps.lean ====
section
/-!
SUPPORT. What the instructions of tile programs change, and how repetitions run.
-/

namespace Sys2Proof.Machine

open Sys2Proof

/-- `t` is `s` but for tiles, cores and regions; a core with nothing waiting still has nothing waiting. -/
def State.Tn (s t : State) : Prop := s.Tiled t ∧ ∀ e, s.Alone e → t.Alone e

theorem State.Tn.refl (s : State) : s.Tn s := ⟨⟨_, _, _, rfl⟩, fun _ h => h⟩

theorem State.Tn.trans {s t u : State} (h : s.Tn t) (g : t.Tn u) : s.Tn u := by
  obtain ⟨⟨a, b, c, rfl⟩, h2⟩ := h
  obtain ⟨⟨a', b', c', rfl⟩, g2⟩ := g
  exact ⟨⟨a', b', c', rfl⟩, fun e h => g2 e (h2 e h)⟩

/-- Changing a core in a way that leaves nothing waiting where nothing waited. -/
theorem tn_modCore (s : State) (a : Nat) (f : Core → Core) (h : ∀ c, c.queue = [] → c.paused = [] → (f c).queue = [] ∧ (f c).paused = []) :
    s.Tn (s.modCore a f) := by
  refine ⟨⟨s.tiles, _, s.ram, rfl⟩, fun e he c hc => ?_⟩
  rw [modCore_get] at hc
  split at hc
  · obtain ⟨d, hd, rfl⟩ := Option.map_eq_some_iff.1 hc
    exact h d (he d hd).1 (he d hd).2
  · exact he c hc

theorem tn_tiles (s : State) (m : AMap TileLoc Tile) : s.Tn { s with tiles := m } := ⟨⟨m, s.cores, s.ram, rfl⟩, fun _ h => h⟩
theorem tn_ram (s : State) (m : AMap (Nat × Nat) (List Host.Cell)) : s.Tn { s with ram := m } := ⟨⟨s.tiles, s.cores, m, rfl⟩, fun _ h => h⟩

theorem tn_storeWrite (s : State) (e a : Nat) (b : Byte) : s.Tn (s.storeWrite e a b) := by
  unfold State.storeWrite
  have h1 : s.Tn (s.markFresh e (a / 256) 1) := tn_modCore _ _ _ (fun c h g => ⟨h, g⟩)
  dsimp only
  split
  · exact h1.trans (tn_tiles ..)
  · exact h1.trans (tn_modCore _ _ _ (fun c h g => ⟨h, g⟩))

theorem tn_storeWrites (e : Nat) (bs : List Byte) : ∀ (s : State) (a : Nat), s.Tn (s.storeWrites e a bs) := by
  induction bs with
  | nil => intro s a; exact .refl s
  | cons b r ih => intro s a; exact (tn_storeWrite s e a b).trans (ih _ _)

theorem tn_writeSpace {s t : State} {v : Env} {sp : Space} {a : Nat} {bs : List Byte} (h : s.writeSpace v sp a bs = .ok t) : s.Tn t := by
  unfold State.writeSpace at h
  split at h
  · split at h
    · cases h; exact (tn_storeWrites ..).trans (tn_modCore _ _ _ (fun c h g => ⟨h, g⟩))
    · cases h
  · split at h
    · cases h; exact tn_ram ..
    · cases h
  · split at h
    · cases h
      exact tn_modCore _ _ _ (fun c h g => ⟨h, by show c.paused.map _ = []; rw [g]; rfl⟩)
    · cases h
  · cases h

theorem tn_putPatterns {s t : State} {v : Env} {o : Operand} {r : Nat} {ps : List Nat} (h : s.putPatterns v o r ps = .ok t) : s.Tn t :=
  tn_writeSpace h

theorem tn_putRows {v : Env} {o : Operand} {f : State → Nat → List Nat → Except Trap State} (hf : ∀ s r xs t, f s r xs = .ok t → s.Tn t)
    (rows : List (List Nat)) : ∀ {s t : State} {r : Nat}, s.putRows v o r f rows = .ok t → s.Tn t := by
  induction rows with
  | nil => intro s t r h; cases h; exact .refl _
  | cons x rest ih =>
    intro s t r h
    unfold State.putRows at h
    split at h
    · cases h
    · next s1 h1 => exact (hf _ _ _ _ h1).trans (ih h)

theorem tn_putMatrix {s t : State} {v : Env} {o : Operand} {rows : List (List Nat)} (h : s.putMatrix v o rows = .ok t) : s.Tn t :=
  tn_putRows (fun _ _ _ _ h => tn_putPatterns h) _ h

theorem andThen_ok {α β : Type} {x : Except Trap α} {f : α → Except Trap β} {b : β} (h : andThen x f = .ok b) :
    ∃ a, x = .ok a ∧ f a = .ok b := by
  cases x with
  | ok a => exact ⟨a, rfl, h⟩
  | error t => cases h

theorem tn_copyRow {v : Env} {a d : Operand} {s t : State} {r q : Nat} (h : copyRow v a d s r q = .ok t) : s.Tn t := by
  unfold copyRow at h
  obtain ⟨bs, -, h⟩ := andThen_ok h
  obtain ⟨s1, h1, h⟩ := andThen_ok h
  split at h
  · cases h; exact tn_writeSpace h1
  · obtain ⟨sc, -, h⟩ := andThen_ok h
    exact (tn_writeSpace h1).trans (tn_writeSpace h)

theorem tn_putQuant {i : TInstr} {v : Env} {d : Operand} {s t : State} {r : Nat} {xs : List Nat} (h : putQuant i v d s r xs = .ok t) : s.Tn t := by
  unfold putQuant at h
  obtain ⟨s1, h1, h⟩ := andThen_ok h
  split at h
  · cases h; exact tn_putPatterns h1
  · exact (tn_putPatterns h1).trans (tn_writeSpace h)

/-- A chain of steps, each of which keeps a relation. -/
theorem chain_keeps {R : State → State → Prop} (hr : ∀ s, R s s) (ht : ∀ s t u, R s t → R t u → R s u) (z : Nat → State) :
    ∀ n, (∀ k, k < n → R (z k) (z (k + 1))) → R (z 0) (z n) := by
  intro n
  induction n with
  | zero => intro _; exact hr _
  | succ n ih => intro h; exact ht _ _ _ (ih (fun k hk => h k (by omega))) (h n (by omega))

theorem Env.get_some {v : Env} {i k : Nat} {rep : Bool} {o : Operand} (h : v.operand i rep k = some o) : v.get i rep k = .ok o := by
  unfold Env.get; rw [h]

/-- A program that ends on a core where nothing waits, or goes on. -/
theorem retire_past {s : State} {e : Nat} {last : Bool} (h : last = true → s.Alone e) : s.retire e last = s.past e last := by
  unfold State.retire
  cases last with
  | false => rfl
  | true =>
    rw [if_pos rfl]
    have hq : ∀ t : State, t = s.modCore e (fun c => { c with running := none }) → t.chooseNext e = t := by
      rintro t rfl
      refine chooseNext_quiet ?_
      intro c hc
      rw [modCore_get, if_pos rfl] at hc
      obtain ⟨d, hd, rfl⟩ := Option.map_eq_some_iff.1 hc
      exact h rfl d hd
    unfold State.endRun
    dsimp only
    split
    · rfl
    · next c hc =>
      split
      · rfl
      · next r hr =>
        have hw : c.wanted = [] := by unfold Core.wanted; rw [(h rfl c hc).1, (h rfl c hc).2]; rfl
        rw [hw, if_neg (by simp), hq _ rfl]
        rfl

/-- A repetition is done. -/
theorem repeated_goesOn {s : State} {e reps : Nat} {i : TInstr} (h : i.last = true → s.Alone e) : s.repeated e reps i = s.goesOn e reps i := by
  unfold State.repeated State.goesOn
  split
  · rfl
  · exact retire_past h

/-- A repetition, which succeeds, of the instruction at which a program stands. -/
theorem issue_once {s u : State} {e op : Nat} {i : TInstr} {v : Env} {ok : CtxImage → Bool} {f : State → Env → Nat → Except Trap State}
    (hi : s.issuer e = some v) (hst : s.standsAt v op i = true) (hok : ok v.img = true) (hf : f s v v.run.reps = .ok u)
    (h : i.last = true → u.Alone e) : s.issue e op i ok f = u.goesOn e v.run.reps i := by
  unfold State.issue
  rw [hi]
  dsimp only
  rw [hst, hok, hf]
  exact repeated_goesOn h

end Sys2Proof.Machine
end

