-- ==== Sys2Proof/Laws/Room.lean ====
section
/-!
SUPPORT. Where a range has room, an allocation finds a frame, whichever free one it takes.
-/

namespace Sys2Proof.Machine

open Sys2Proof

/-- A search that passes no key does not see it. -/
theorem findFree_erase {α : Type} (m : AMap Nat α) (first count f : Nat) : ∀ fuel start : Nat,
    (∀ k, k < fuel → first + (start + k) % count ≠ f) → findFree (m.erase f) first count start fuel = findFree m first count start fuel := by
  intro fuel
  induction fuel with
  | zero => intro start _; rfl
  | succ n ih =>
    intro start h
    have h0 : first + start % count ≠ f := by simpa using h 0 (by omega)
    have hk : ∀ k, k < n → first + (start + 1 + k) % count ≠ f := fun k hk => by
      have := h (k + 1) (by omega)
      rwa [show start + (k + 1) = start + 1 + k by omega] at this
    unfold findFree
    simp only [AMap.has, AMap.get?_erase_other m h0, ih (start + 1) hk]
    rfl

theorem AMap.length_erase_lt {κ α : Type} [DecidableEq κ] {m : AMap κ α} {k : κ} (h : m.has k = true) : (m.erase k).length < m.length := by
  induction m with
  | nil => cases h
  | cons a r ih =>
    obtain ⟨k', v⟩ := a
    have le : ∀ l : AMap κ α, (AMap.erase l k).length ≤ l.length := by
      intro l
      induction l with
      | nil => exact Nat.le_refl _
      | cons b t iht =>
        obtain ⟨kb, vb⟩ := b
        by_cases hb : kb = k
        · rw [AMap.erase, if_pos hb]; exact Nat.le_succ_of_le iht
        · rw [AMap.erase, if_neg hb]; exact Nat.succ_le_succ iht
    by_cases hk : k' = k
    · rw [AMap.erase, if_pos hk]
      exact Nat.lt_succ_of_le (le r)
    · rw [AMap.has, AMap.get?, if_neg hk] at h
      rw [AMap.erase, if_neg hk]
      exact Nat.succ_lt_succ (ih h)

/-- A range with more places than the map has keys has a free one. -/
theorem findFree_some {α : Type} (first count : Nat) : ∀ (fuel : Nat) (m : AMap Nat α) (start : Nat), m.length < fuel → fuel ≤ count →
    ∃ n, findFree m first count start fuel = some n := by
  intro fuel
  induction fuel with
  | zero => intro m start h _; omega
  | succ n ih =>
    intro m start h hc
    unfold findFree
    rw [if_neg (by omega)]
    by_cases hf : m.has (first + start % count) = true
    · have hl := AMap.length_erase_lt hf
      obtain ⟨x, hx⟩ := ih (m.erase (first + start % count)) (start + 1) (by omega) (by omega)
      refine ⟨x, ?_⟩
      rw [if_pos hf, ← hx, findFree_erase]
      intro k hk he
      have he' : (start + 1 + k) % count = start % count := by omega
      have hd : count ∣ (start + 1 + k) - start := (Nat.modEq_iff_dvd' (by omega)).mp he'.symm
      have : count ≤ (start + 1 + k) - start := Nat.le_of_dvd (by omega) hd
      omega
    · exact ⟨_, by rw [if_neg hf]⟩

theorem AMap.length_set_le {κ α : Type} [DecidableEq κ] (m : AMap κ α) (k : κ) (v : α) : (m.set k v).length ≤ m.length + 1 := by
  induction m with
  | nil => exact Nat.le_refl _
  | cons a r ih =>
    obtain ⟨k', v'⟩ := a
    by_cases hk : k' = k
    · rw [AMap.set, if_pos hk]; exact Nat.le_succ _
    · rw [AMap.set, if_neg hk]; exact Nat.succ_le_succ ih

/-- A partition with room for a mortar frame gets one; its map grows by one at most, and its range stays. -/
theorem allocMor_some {s : State} {p : Nat} (f : Frame) (h : s.mortarFrames.length < s.morCount p) : ∃ n v, s.allocMor p f = some (n, v) ∧
    v = { s with mortarFrames := v.mortarFrames, freeCtr := v.freeCtr } ∧ v.mortarFrames.length ≤ s.mortarFrames.length + 1 := by
  obtain ⟨n, hn⟩ := findFree_some (s.morFirst p) (s.morCount p) (s.mortarFrames.length + 1) s.mortarFrames (Config.pick s.freeCtr) (by omega) (by omega)
  refine ⟨n, { s with mortarFrames := s.mortarFrames.set n f, freeCtr := s.freeCtr + 1 }, ?_, rfl, AMap.length_set_le ..⟩
  rw [State.allocMor, hn]

/-- A partition with room for a tile frame gets one. -/
theorem allocTile_some {s : State} {p : Nat} (f : Frame) (h : s.tileFrames.length < s.tileCount p) : ∃ n v, s.allocTile p f = some (n, v) ∧
    v = { s with tileFrames := v.tileFrames, freeCtr := v.freeCtr } ∧ v.tileFrames.length ≤ s.tileFrames.length + 1 := by
  obtain ⟨n, hn⟩ := findFree_some (s.tileFirst p) (s.tileCount p) (s.tileFrames.length + 1) s.tileFrames (Config.pick s.freeCtr) (by omega) (by omega)
  refine ⟨n, { s with tileFrames := s.tileFrames.set n f, freeCtr := s.freeCtr + 1 }, ?_, rfl, AMap.length_set_le ..⟩
  rw [State.allocTile, hn]

/-- A partition with room for so many mortar frames gets them. -/
theorem allocMors_some {p : Nat} (f : Frame) (k : Nat) : ∀ s : State, s.mortarFrames.length + k ≤ s.morCount p →
    ∃ l v, s.allocMors p f k = some (l, v) ∧ v = { s with mortarFrames := v.mortarFrames, freeCtr := v.freeCtr } ∧
      v.mortarFrames.length ≤ s.mortarFrames.length + k := by
  induction k with
  | zero => intro s _; exact ⟨[], s, rfl, rfl, Nat.le_refl _⟩
  | succ k ih =>
    intro s h
    obtain ⟨n, v, hv, he, hl⟩ := allocMor_some (p := p) f (s := s) (by omega)
    have hc : v.morCount p = s.morCount p := by rw [he]; rfl
    obtain ⟨l, w, hw, hwe, hwl⟩ := ih v (by omega)
    refine ⟨n :: l, w, by rw [State.allocMors, hv]; simp only [hw], ?_, by omega⟩
    rw [hwe, he]

/-- A partition with room for so many tile frames gets them. -/
theorem allocTiles_some {p : Nat} (f : Frame) (k : Nat) : ∀ s : State, s.tileFrames.length + k ≤ s.tileCount p →
    ∃ l v, s.allocTiles p f k = some (l, v) ∧ v = { s with tileFrames := v.tileFrames, freeCtr := v.freeCtr } ∧
      v.tileFrames.length ≤ s.tileFrames.length + k := by
  induction k with
  | zero => intro s _; exact ⟨[], s, rfl, rfl, Nat.le_refl _⟩
  | succ k ih =>
    intro s h
    obtain ⟨n, v, hv, he, hl⟩ := allocTile_some (p := p) f (s := s) (by omega)
    have hc : v.tileCount p = s.tileCount p := by rw [he]; rfl
    obtain ⟨l, w, hw, hwe, hwl⟩ := ih v (by omega)
    refine ⟨n :: l, w, by rw [State.allocTiles, hv]; simp only [hw], ?_, by omega⟩
    rw [hwe, he]

theorem addPages_some {p o : Nat} (ks : List Nat) : ∀ (s : State) (pg : AMap Nat PagePtr), s.mortarFrames.length + ks.length ≤ s.morCount p →
    ∃ l v, s.addPages p o ks pg = some (l, v) ∧ v = { s with mortarFrames := v.mortarFrames, freeCtr := v.freeCtr } ∧
      v.mortarFrames.length ≤ s.mortarFrames.length + ks.length := by
  induction ks with
  | nil => intro s pg _; exact ⟨pg, s, rfl, rfl, Nat.le_refl _⟩
  | cons k r ih =>
    intro s pg h
    rw [List.length_cons] at h
    obtain ⟨n, v, hv, he, hl⟩ := allocMor_some (p := p) ⟨p, .priv, 0, o, []⟩ (s := s) (by omega)
    have hc : v.morCount p = s.morCount p := by rw [he]; rfl
    obtain ⟨l, w, hw, hwe, hwl⟩ := ih v (pg.set k ⟨false, n⟩) (by omega)
    refine ⟨l, w, by rw [State.addPages, hv]; exact hw, ?_, by rw [List.length_cons]; omega⟩
    rw [hwe, he]

/-- A partition with room for the pages that entries need grows a mortar by them. -/
theorem growMortar_some {s : State} {p o : Nat} {m : Mortar} {es : List Nat}
    (h : s.mortarFrames.length + (m.newIndexes (m.newLeaves es)).length + (m.newLeaves es).length ≤ s.morCount p) :
    ∃ m' v, s.growMortar p o m es = some (m', v) ∧ v = { s with mortarFrames := v.mortarFrames, freeCtr := v.freeCtr } ∧
      v.mortarFrames.length ≤ s.mortarFrames.length + (m.newIndexes (m.newLeaves es)).length + (m.newLeaves es).length := by
  obtain ⟨ix, v, hv, he, hl⟩ := addPages_some (p := p) (o := o) (m.newIndexes (m.newLeaves es)) s m.index (by omega)
  have hc : v.morCount p = s.morCount p := by rw [he]; rfl
  obtain ⟨lf, w, hw, hwe, hwl⟩ := addPages_some (p := p) (o := o) (m.newLeaves es) v m.leaf (by omega)
  refine ⟨{ m with index := ix, leaf := lf }, w, by simp only [State.growMortar, hv, hw], ?_, by omega⟩
  rw [hwe, he]

/-- The logical frames in use, as a map. -/
def Qry.takenFrames (q : Qry) : AMap Nat Unit := q.map.map (fun kv => (kv.1, ())) ++ q.staged.map (fun kv => (kv.1, ()))

theorem Qry.has_takenFrames (q : Qry) (f : Nat) : q.takenFrames.has f = (q.map.has f || q.staged.has f) := by
  have h : ∀ (α : Type) (l : AMap Nat α) (r : AMap Nat Unit), AMap.has (l.map (fun kv => (kv.1, ())) ++ r) f = (l.has f || r.has f) := by
    intro α l r
    induction l with
    | nil => rfl
    | cons a t ih =>
      obtain ⟨k, v⟩ := a
      by_cases hk : k = f
      · simp [AMap.has, AMap.get?, hk]
      · simp only [AMap.has, List.map_cons, List.cons_append, AMap.get?, if_neg hk] at ih ⊢
        exact ih
  rw [Qry.takenFrames, h]
  have := h Staged q.staged []
  rw [List.append_nil] at this
  rw [this]
  simp [AMap.has]

theorem findQuarry_eq (q : Qry) : ∀ fuel start : Nat, findQuarry q start fuel = findFree q.takenFrames 0 q.user start fuel := by
  intro fuel
  induction fuel with
  | zero => intro start; rfl
  | succ n ih =>
    intro start
    unfold findQuarry findFree
    simp only [Nat.zero_add, Qry.has_takenFrames, ih]

/-- A quarry with room for a frame stages it. -/
theorem qStage_some {s : State} (p : Nat) (kind : QKind) (bond : Nat) (h : s.qry.map.length + s.qry.staged.length < s.qry.user) :
    ∃ n v, s.qStage p kind bond = some (n, v) ∧ v = { s with qry := { s.qry with staged := v.qry.staged }, freeCtr := v.freeCtr } ∧
      v.qry.staged.length ≤ s.qry.staged.length + 1 := by
  obtain ⟨n, hn⟩ := findFree_some 0 s.qry.user (s.qry.map.length + s.qry.staged.length + 1) s.qry.takenFrames (Config.pick s.freeCtr)
    (by simp only [Qry.takenFrames, List.length_append, List.length_map]; omega) (by omega)
  refine ⟨n, { s with qry := { s.qry with staged := s.qry.staged.set n ⟨p, kind, bond, none⟩ }, freeCtr := s.freeCtr + 1 }, ?_, rfl,
    AMap.length_set_le ..⟩
  rw [State.qStage, findQuarry_eq, hn]

/-- A quarry with room for so many frames stages them. -/
theorem qStages_some (p : Nat) (kind : QKind) (bond k : Nat) : ∀ s : State, s.qry.map.length + s.qry.staged.length + k ≤ s.qry.user →
    ∃ l v, s.qStages p kind bond k = some (l, v) ∧ v = { s with qry := { s.qry with staged := v.qry.staged }, freeCtr := v.freeCtr } ∧
      v.qry.staged.length ≤ s.qry.staged.length + k := by
  induction k with
  | zero => intro s _; exact ⟨[], s, rfl, rfl, Nat.le_refl _⟩
  | succ k ih =>
    intro s h
    obtain ⟨n, v, hv, he, hl⟩ := qStage_some p kind bond (s := s) (by omega)
    have hm : v.qry.map = s.qry.map := by rw [he]
    have hu : v.qry.user = s.qry.user := by rw [he]
    obtain ⟨l, w, hw, hwe, hwl⟩ := ih v (by rw [hm, hu]; omega)
    refine ⟨n :: l, w, by rw [State.qStages, hv]; simp only [hw], ?_, by omega⟩
    rw [hwe, he]

end Sys2Proof.Machine
end

