-- ==== Sys2Proof/WellFormed.lean ====
section
/-!
DEFINITION. Well-formed commands: operands inside the widths that the specification gives them (17 functions on each of two
controllers, 8 ports, 16 cores, 16 partitions, 64 contexts, 16-bit tags).
-/

namespace Sys2Proof

open Sys2Proof.Machine

/-- A function of the device: two controllers, PF0 and 16 virtual functions each (20 R672). -/
def Machine.Fn.wf (f : Fn) : Bool := decide (f.ctrl < 2) && decide (f.vf ≤ 16)

/-- A submission's envelope: queue of 64, 16-bit tag, 4-bit partition (20 R680). -/
def Machine.Sub.wf (u : Sub) : Bool :=
  u.fn.wf && decide (u.tag < 65536) && decide (u.part < 16) && (match u.sq with | some q => decide (q < 64) | none => true)

/-- The operands of a message's header (17 R570): its port, partition, endpoints, epoch, composition and tag. -/
def Machine.Hdr.wf (h : Hdr) : Bool :=
  decide (h.port < 8) && decide (h.vc < 4) && decide (h.key < 32) && decide (h.type < 256) && decide (h.flags < 256) &&
    decide (h.partByte < 256) && decide (h.zero < 256) && decide (h.length < 2 ^ 32) && decide (h.src < 65536) && decide (h.dst < 65536) &&
    decide (h.epoch < 2 ^ 32) && decide (h.comp < 65536) && decide (h.tag < 2 ^ 32)

/-- A well-formed command: each operand inside the width or the count that the specification gives it. The meanings are total: a
command that is not well formed has an outcome too, and no bus, link or engine of the device can send one. -/
def Instr.wf : Instr → Bool
  | .sesCreate u _ => u.wf
  | .sesClose u => u.wf
  | .sesQuery u => u.wf
  | .sesSetHostData u _ => u.wf
  | .sesPark u _ => u.wf
  | .sesRevive u => u.wf
  | .sesMove u peer epoch => u.wf && decide (peer < 1024) && decide (epoch < 2 ^ 32)
  | .reqSubmit u _ => u.wf
  | .reqCancel u tag => u.wf && decide (tag < 2 ^ 16)
  | .pfxRegister u n => u.wf && decide (n < 2 ^ 21)
  | .pfxUnregister u id => u.wf && decide (id < 2 ^ 16)
  | .grmLoad u main img => u.wf && decide (main < 64) && Memory.wf 0 img.mem
  | .grmUnload u id => u.wf && decide (id < 1024)
  | .vsrCreate u _ => u.wf
  | .vsrDrop u coll => u.wf && decide (coll < 256)
  | .vsrInsert u _ => u.wf
  | .vsrDelete u coll item => u.wf && decide (coll < 256) && decide (item < 2 ^ 32)
  | .vsrQuery u _ => u.wf
  | .vsrPoint u coll => u.wf && decide (coll < 256)
  | .ckpWrite u _ => u.wf
  | .ckpRestore u _ => u.wf
  | .ckpRelease u series ckpStep => u.wf && decide (series < 64) && decide (ckpStep < 2 ^ 64)
  | .cmpInstall u _ => u.wf
  | .cmpRemove u comp => u.wf && decide (comp < 2 ^ 16)
  | .peerAdd u fabric parts => u.wf && decide (fabric < 2 ^ 16) && decide (parts < 2 ^ 16)
  | .ctxReload u ctx => u.wf && decide (ctx < 64)
  | .keyQuote u slot nonce => u.wf && decide (slot < 4096) && decide (nonce < 2 ^ 256)
  | .keyImport u slot _ => u.wf && decide (slot < 4096)
  | .bndReportGet u number _ => u.wf && decide (number < 2 ^ 32)
  | .partReset u => u.wf
  | .partRemove u _ => u.wf
  | .secChange u _ => u.wf
  | .wgtSupply u ctx first _ => u.wf && decide (ctx < 64) && decide (first < 2 ^ 32)
  | .fwStage u off _ => u.wf && decide (off < 2 ^ 32)
  | .fwCheck u _ => u.wf
  | .cfgWrite u _ off _ => u.wf && decide (off < 2 ^ 32)
  | .ledgerRead u start _ => u.wf && decide (start < 2 ^ 32)
  | .devRestart u => u.wf
  | .errRead u seq _ _ => u.wf && decide (seq < 2 ^ 32)
  | .sqTailDoorbell fn q value _ => fn.wf && decide (q < 64) && decide (value < 2 ^ 32)
  | .cqHeadDoorbell fn q value => fn.wf && decide (q < 64) && decide (value < 2 ^ 32)
  | .sqEnable fn q value => fn.wf && decide (q < 64) && decide (value < 2 ^ 32)
  | .cqEnable fn q value => fn.wf && decide (q < 64) && decide (value < 2 ^ 32)
  | .lnkRekeyGo fn port key => fn.wf && decide (port < 8) && decide (key < 32)
  | .egrSwitch fn port => fn.wf && decide (port < 8)
  | .clearAlt fn => fn.wf
  | .registerWrite fn _ width value => fn.wf && decide (width = 32 ∨ width = 64) && decide (value < 2 ^ width)
  | .interruptCoalesceExpiry fn q => fn.wf && decide (q < 64)
  | .hostDmaError fn sq tag => fn.wf && decide (sq < 64) && decide (tag < 2 ^ 16)
  | .doeDiscovery fn _ => fn.wf
  | .doeHostReport fn nonce => fn.wf && decide (nonce < 2 ^ 256)
  | .bbAsk fn nonce => fn.wf && decide (nonce < 2 ^ 256)
  | .bbConfirm fn _ => fn.wf
  | .functionReset fn => fn.wf
  | .perstAsserted ctrl => decide (ctrl < 2)
  | .perstReleased ctrl => decide (ctrl < 2)
  | .mctpPldmRequest _ => true
  | .jtagInstruction _ => true
  | .pwrGoodRise straps => decide (straps < 16)
  | .pwrGoodFall => true
  | .sysResetAsserted => true
  | .sysResetReleased => true
  | .alarmInAsserted pin => decide (pin < 2)
  | .alarmInReleased pin => decide (pin < 2)
  | .alarmSourceDetected _ _ => true
  | .thermalStepDown course => decide (course < 3)
  | .thermalStepUp course => decide (course < 3)
  | .powerStepDown course => decide (course < 3)
  | .powerStepUp course => decide (course < 3)
  | .courseStepDone course => decide (course < 3)
  | .thermalTrip => true
  | .hardwareFault _ => true
  | .freezeDumpDone _ => true
  | .s00AlwaysOn => true
  | .s01KeystoneSelftest _ _ _ => true
  | .s02FirmwareVerify _ _ => true
  | .s03ImageRead _ _ => true
  | .s04ApplyConfig => true
  | .s05PcieUp _ _ _ _ => true
  | .s06PllLock _ => true
  | .s07MemoryTrain _ => true
  | .s08CoreAssign _ => true
  | .s09FirmwareLoad _ => true
  | .s10QuarryMount _ => true
  | .s11DirectoryRecovery _ => true
  | .s12LinkTrain => true
  | .s13AkCertificate _ => true
  | .s14PartitionStart => true
  | .s15Ready => true
  | .trainSignalDetected port _ => decide (port < 8)
  | .trainEqualised port _ _ => decide (port < 8)
  | .trainGroupLock port => decide (port < 8)
  | .trainTimeout port => decide (port < 8)
  | .retrainTimer port => decide (port < 8)
  | .hello port _ bufs _ => decide (port < 8) && decide (bufs.length = 4)
  | .rekeyReady port key phase => decide (port < 8) && decide (key < 32) && decide (phase < 2)
  | .rekeyAsk port key => decide (port < 8) && decide (key < 32)
  | .laneRetire port lane => decide (port < 8) && decide (lane < 9)
  | .linkDownWord port _ => decide (port < 8)
  | .groupArrival port _ => decide (port < 8)
  | .groupTransmit port _ => decide (port < 8)
  | .nakResendTimeout port => decide (port < 8)
  | .retryRewindTimeout port => decide (port < 8)
  | .laneErrorWindow port _ => decide (port < 8)
  | .laneSignalLoss port lane => decide (port < 8) && decide (lane < 9)
  | .spareMonitorFail port => decide (port < 8)
  | .recoveryDone port => decide (port < 8)
  | .recoveryTimeout port => decide (port < 8)
  | .rekeyMarkReached port key => decide (port < 8) && decide (key < 32)
  | .shaperRefill port => decide (port < 8)
  | .gateEntryExpiry port => decide (port < 8)
  | .pmcBwWindowEnd port => decide (port < 8)
  | .queryMessage h _ => (match h with | some x => x.wf | none => true)
  | .expertMessage h _ => h.wf
  | .logitChunk h slot _ _ _ _ => (match h with | some x => x.wf | none => true) && decide (slot < 2 ^ 22)
  | .tilePush h _ => h.wf
  | .handoffTimeout slot => decide (slot < 2 ^ 22)
  | .tilePull h layer _ _ _ => h.wf && decide (layer < 1024)
  | .pullAnswer h _ _ => h.wf
  | .pullTimeout _ => true
  | .moveOffer h _ => h.wf
  | .moveAnswer h _ _ => h.wf
  | .moveConfirm h _ => h.wf
  | .moveAbort h _ => h.wf
  | .rehandshake h _ _ => h.wf
  | .admitAsk h _ _ parts nonce => h.wf && decide (parts < 2 ^ 16) && decide (nonce < 2 ^ 256)
  | .admitQuote h _ _ q next => h.wf && decide (q.nonce < 2 ^ 256) && decide (next < 2 ^ 256)
  | .admitDone h _ => h.wf
  | .admitTimeout peer => decide (peer < 1032)
  | .leave h => h.wf
  | .ping h => h.wf
  | .pingResponse h => h.wf
  | .pingTimer peer => decide (peer < 1032)
  | .keyRevoke h part epoch => h.wf && decide (part < 16) && decide (epoch < 2 ^ 32)
  | .keyRevokeResponse h part => h.wf && decide (part < 16)
  | .revokeTimeout part => decide (part < 16)
  | .dispatch core _ => decide (core < 16)
  | .sliceEnd core => decide (core < 16)
  | .mmul core _ => decide (core < 16)
  | .smaxPartial core _ => decide (core < 16)
  | .smaxNormalise core _ => decide (core < 16)
  | .smaxCombine core _ => decide (core < 16)
  | .rot core _ => decide (core < 16)
  | .qnt core _ => decide (core < 16)
  | .dqnt core _ => decide (core < 16)
  | .gath core _ => decide (core < 16)
  | .scat core _ => decide (core < 16)
  | .red core _ => decide (core < 16)
  | .move core _ => decide (core < 16)
  | .bcmp core _ => decide (core < 16)
  | .topk core _ => decide (core < 16)
  | .barSync core _ => decide (core < 16)
  | .barGather core _ => decide (core < 16)
  | .barBroadcast core _ => decide (core < 16)
  | .barTimeout core => decide (core < 16)
  | .coreStopped core => decide (core < 16)
  | .freshMapClearDone core => decide (core < 16)
  | .contextLoaded part ctx _ => decide (part ≤ 16) && decide (ctx < 64)
  | .attBatchWindowExpiry _ => true
  | .tileAvailable slot => decide (slot < 2 ^ 22)
  | .promotion slot _ => decide (slot < 2 ^ 22)
  | .tokenisationDone slot => decide (slot < 2 ^ 22)
  | .maskReady slot => decide (slot < 2 ^ 22)
  | .emitHoldPoll slot _ => decide (slot < 2 ^ 22)
  | .endRecordPoll slot _ => decide (slot < 2 ^ 22)
  | .deadlineNotice slot budget _ => decide (slot < 2 ^ 22) && decide (budget < 3)
  | .deadlineSwitch slot budget => decide (slot < 2 ^ 22) && decide (budget < 3)
  | .deadlineFail slot budget => decide (slot < 2 ^ 22) && decide (budget < 3)
  | .fallbackPrefillDone slot _ => decide (slot < 2 ^ 22)
  | .dressingDone slot => decide (slot < 2 ^ 22)
  | .tokenLogPersist slot => decide (slot < 2 ^ 22)
  | .bondOpenGranted slot => decide (slot < 2 ^ 22)
  | .bondStaged part _ => decide (part ≤ 16)
  | .nandProgramDone part _ _ _ => decide (part ≤ 16)
  | .nandReadDone _ _ => true
  | .nandEraseDone _ _ => true
  | .nandStatusTimeout _ part _ _ => decide (part ≤ 16)
  | .mapCheckpoint => true
  | .quarryCollection _ => true
  | .quarryFolding => true
  | .quarryPatrol _ _ => true
  | .governorDayBoundary => true
  | .scrubZeroed _ _ => true
  | .lpddrPatrol _ _ => true
  | .selfRefreshEntry sub => decide (sub < 192)
  | .scanWindowExpiry coll => decide (coll < 256)
  | .pointingBatchDone coll => decide (coll < 256)
  | .ckpRingRoom part series _ => decide (part < 16) && decide (series < 64)
  | .meterTick => true
  | .managementMailboxGo u _ => u.wf
  | .xspiPageProgramDone => true
  | .dumpWaitLimitExpiry => true

end Sys2Proof
end

