-- ==== Sys2Proof/Tests/Base.lean ====
section
/-!
SUPPORT. What the tests share: the conditions of the statements as Boolean checks, and small states of the device.
-/

namespace Sys2Proof.Tests

open Sys2Proof Sys2Proof.Machine

-- The conditions of the statements as checks ---------------------------------------------------------------------------------------

/-- `State.Calm` as a check. -/
def calm (s : State) : Bool :=
  s.sessions.all (fun kv => kv.2.waiting.isEmpty) && s.ckp.queue.isEmpty && s.movesIn.isEmpty &&
    s.comps.all (fun kv => !kv.2.removing && kv.2.old.isEmpty) && s.resets.isEmpty && s.removals.isEmpty && s.removeWait.isEmpty &&
    s.boot.restart.isNone

theorem calm_of {s : State} (h : calm s = true) : s.Calm := by
  simp only [calm, Bool.and_eq_true, List.all_eq_true, List.isEmpty_iff, Option.isNone_iff_eq_none, Bool.not_eq_true'] at h
  obtain ⟨⟨⟨⟨⟨⟨⟨h1, h2⟩, h3⟩, h4⟩, h5⟩, h6⟩, h7⟩, h8⟩ := h
  exact ⟨h1, h2, h3, h4, h5, h6, h7, h8⟩

/-- `State.Idle` as a check. -/
def idle (s : State) : Bool :=
  calm s && s.reqs.isEmpty && s.handoffs.isEmpty && s.parks.isEmpty && s.revives.isEmpty && s.movesOut.isEmpty && s.bonds.isEmpty &&
    s.bondWaits.isEmpty && s.allocWait.isEmpty && s.scans.isEmpty && s.ckp.runs.isEmpty &&
    s.ctxs.all (fun kv => kv.2.asked.isEmpty && kv.2.held.isEmpty) && s.waitS15.isEmpty && s.lateEnds.isEmpty

theorem idle_of {s : State} (h : idle s = true) : s.Idle := by
  simp only [idle, Bool.and_eq_true, List.all_eq_true, List.isEmpty_iff] at h
  obtain ⟨⟨⟨⟨⟨⟨⟨⟨⟨⟨⟨⟨⟨h0, h1⟩, h2⟩, h3⟩, h4⟩, h5⟩, h6⟩, h7⟩, h8⟩, h9⟩, h10⟩, h11⟩, h12⟩, h13⟩ := h
  exact ⟨calm_of h0, h1, h2, h3, h4, h5, h6, h7, h8, h9, h10, h11, h12, h13⟩

/-- `State.Due` as a check. -/
def due (s : State) (n : Nat) : Bool := s.boot.phase == .start n && !s.err.frozen && !s.pins.sysReset

theorem due_of {s : State} {n : Nat} (h : due s n = true) : s.Due n := by
  simp only [due, Bool.and_eq_true, beq_iff_eq, Bool.not_eq_true'] at h
  exact ⟨h.1.1, h.1.2, h.2⟩

/-- `State.Open` as a check. -/
def opens (s : State) (f : Fn) (q : Nat) : Bool :=
  match s.sq f q with
  | none => false
  | some y => match s.cq f y.cq with
    | none => false
    | some x => x.on && decide (x.held < x.size) && x.waiting.isEmpty

theorem open_of {s : State} {f : Fn} {q : Nat} (h : opens s f q = true) : s.Open f q := by
  unfold opens at h
  split at h
  · cases h
  · rename_i y hy
    split at h
    · cases h
    · rename_i x hx
      simp only [Bool.and_eq_true, decide_eq_true_eq, List.isEmpty_iff] at h
      exact ⟨y, x, hy, hx, h.1.1, h.1.2, h.2⟩

/-- `State.Takes` as a check. -/
def takes (s : State) (u : Sub) (c : HostCmd) : Bool :=
  match u.sq with
  | none => false
  | some q => match s.sq u.fn q with
    | none => false
    | some x => match s.cq u.fn x.cq with
      | none => false
      | some y => x.on && decide (s.slotsOf u x ≤ x.avail) && !(x.tags.any (fun t => t.tag == u.tag)) && y.on && decide (y.held < y.size) &&
          y.waiting.isEmpty && s.fetches u.fn && !(s.bounceMode u.fn) && s.boot.phase == .ready && (s.refusal u c).isNone

theorem takes_of {s : State} {u : Sub} {c : HostCmd} (h : takes s u c = true) : s.Takes u c := by
  unfold takes at h
  split at h
  · cases h
  · rename_i q hq
    split at h
    · cases h
    · rename_i x hx
      split at h
      · cases h
      · rename_i y hy
        simp only [Bool.and_eq_true, decide_eq_true_eq, List.isEmpty_iff, Bool.not_eq_true', beq_iff_eq, Option.isNone_iff_eq_none] at h
        obtain ⟨⟨⟨⟨⟨⟨⟨⟨⟨h1, h2⟩, h3⟩, h4⟩, h5⟩, h6⟩, h7⟩, h8⟩, h9⟩, h10⟩ := h
        exact ⟨⟨q, x, y, hq, hx, h1, h2, h3, hy, h4, h5, h6⟩, h7, h8, h9, h10⟩

/-- `State.Quiet` as a check. -/
def quiet (s : State) (n : Nat) : Bool :=
  (s.ses n).waiting.isEmpty && (s.ses n).op == .none && !(s.endWaits n) && (s.ses n).ckpReads == 0

theorem quiet_of {s : State} {n : Nat} (h : quiet s n = true) : s.Quiet n := by
  simp only [quiet, Bool.and_eq_true, beq_iff_eq, Bool.not_eq_true', List.isEmpty_iff] at h
  exact ⟨h.1.1.1, h.1.1.2, h.1.2, h.2⟩

/-- `State.Hears` as a check. -/
def hears (s : State) (h : Hdr) (type : Nat) (resp : Bool) (size : Option Nat) (i : Nat) (p : Peer) : Bool :=
  s.carries h && h.dst == s.fld Fld.CMP_SELF_FABRIC && !(h.malformed type resp (s.linkKey h.port) size) &&
    s.peerOfSrc h.src == some (i, p) && s.peers.get? i == some p && roleSends type resp p.device && (9 ≤ type || bitOf p.parts h.part)

theorem hears_of {s : State} {h : Hdr} {type : Nat} {resp : Bool} {size : Option Nat} {i : Nat} {p : Peer}
    (hh : hears s h type resp size i p = true) : s.Hears h type resp size i p := by
  simp only [hears, Bool.and_eq_true, beq_iff_eq, Bool.not_eq_true', Bool.or_eq_true, decide_eq_true_eq] at hh
  obtain ⟨⟨⟨⟨⟨⟨h1, h2⟩, h3⟩, h4⟩, h5⟩, h6⟩, h7⟩ := hh
  exact ⟨h1, h2, h3, h4, h5, h6, fun a => h7.resolve_left (by omega)⟩

/-- `State.Brings` as a check. -/
def brings (s : State) (h : Hdr) (size : Nat) : Bool :=
  s.carries h && h.dst == s.fld Fld.CMP_SELF_FABRIC && !(h.malformed 9 h.response (s.linkKey h.port) (some size))

theorem brings_of {s : State} {h : Hdr} {size : Nat} (hh : brings s h size = true) : s.Brings h size := by
  simp only [brings, Bool.and_eq_true, beq_iff_eq, Bool.not_eq_true'] at hh
  exact ⟨hh.1.1, hh.1.2, hh.2⟩

/-- What holds of every pair of a map holds of what a key gives. -/
theorem of_all {κ α : Type} [DecidableEq κ] {m : AMap κ α} {p : κ → α → Bool} (h : m.all (fun kv => p kv.1 kv.2) = true) :
    ∀ k v, m.get? k = some v → p k v = true := by
  intro k v e
  induction m with
  | nil => cases e
  | cons a r ih =>
    obtain ⟨k', v'⟩ := a
    simp only [List.all_cons, Bool.and_eq_true] at h
    by_cases hk : k' = k
    · rw [AMap.get?, if_pos hk] at e
      cases e
      subst hk
      exact h.1
    · rw [AMap.get?, if_neg hk] at e
      exact ih h.2 e

/-- No core runs. -/
def still (s : State) : Bool := s.cores.all (fun kv => kv.2.running.isNone)

theorem still_of {s : State} (h : still s = true) : ∀ e c, s.cores.get? e = some c → c.running = none :=
  fun e c k => Option.isNone_iff_eq_none.mp (of_all (m := s.cores) (p := fun _ c => c.running.isNone) (by rw [← h]; rfl) e c k)

-- States --------------------------------------------------------------------------------------------------------------------------

/-- A device at start step S<n>. -/
def starting (n : Nat) : State :=
  { State.reset with boot := { Boot.reset with phase := .start n, number := 1 }, pins := { Pins.reset with pwrGood := true } }

/-- PF0 of controller 0. -/
def pf : Fn := ⟨0, 0⟩

/-- A device that is ready, with partition 1 on cores 0 and 1, a queue of four entries in each direction at PF0, and one entry fetched from
it next. -/
def live : State :=
  { State.reset with
    boot := { Boot.reset with phase := .ready, step := 15, number := 1 }, pins := { Pins.reset with pwrGood := true },
    regs := [(⟨.schPartCores, 1, 0⟩, 3), (⟨.sesPartRange, 1, 0⟩, 1024), (⟨.memPartTiles, 1, 0⟩, 0x100000000000), (⟨.memPartMortar, 1, 0⟩, 0x100000000000),
             (⟨.memPartQuota, 1, 0⟩, 0x1000000000001), (⟨.cmpSelf, 0, 0⟩, 5)],
    sqs := [((0, 0), ⟨true, false, 0, 4, 0, 1, []⟩)], cqs := [((0, 0), ⟨true, false, 0, 0, 4, 0, 0, 0, [], 0, false⟩)] }

/-- A submission of PF0 for partition 1. -/
def sub (h : Word64 := 0) : Sub := ⟨pf, some 0, 7, {}, 1, h, false, false, none⟩

/-- A main model of one layer and one head of 64 dimensions, four-bit keys and values, and a vocabulary of 16 tokens. -/
def img0 : CtxImage :=
  { kind := .main, cls := .lc, layers := 1, heads := 1, qheads := 1, geom := ⟨0, false, 0, 0⟩, rotary := ⟨0, false, 0, 0, []⟩, vocab := 16,
    eos := 15, text := none, fallback := 0x3F, dModel := 64, experts := [], share := 16, shareBase := 0, pinned := [], region := 4096,
    qryShare := 0, table := [], entries := [0], progShare := 0, progBase := 0, prog := [], resident := false, arena := 0, keySlot := 0,
    weights := [], sources := [] }

/-- A context in a state. -/
def ctx0 (i : CtxImage) (st : CtxState) : Ctx := ⟨i, 1, st, 0, 0, [], [], []⟩

/-- An enabled core of partition 1 that runs what is given. -/
def core0 (r : Option Run) : Core := ⟨some 1, 0, 0, 0, false, false, r, [], [], 0, 0, [], [], [], [], [], []⟩

/-- The device that is ready, with partition 1's context 0 and its two cores. -/
def cored (i : CtxImage) (r : Option Run) : State := { live with ctxs := [((1, 0), ctx0 i .ready)], cores := [(0, core0 r), (1, core0 none)] }

end Sys2Proof.Tests
end

