-- ==== Sys2Proof/Tests/MeetsLink.lean ====
section
/-!
SUPPORT. Witnesses of the statements on links, egress, messages and peers.
-/

namespace Sys2Proof.Tests

-- Each witness is checked before the next one is read: a kernel evaluation that waits for the ones before it holds a thread of its own.
set_option Elab.async false

open Sys2Proof Sys2Proof.Machine

/-- A device with one port, number 7. -/
def withPort (x : Port) : State := { live with ports := [(7, x)] }

/-- A port in a state with lanes 0 to 7 in use and lane 8 as spare. -/
def port0 (st : PortState) : Port :=
  { Port.fresh 2 st with txGood := 511, rxGood := 511, txMap := List.range 8, rxMap := List.range 8, txSpare := true, rxSpare := true }

-- LinkTraining ----------------------------------------------------------------------------------------------------------------------

theorem meets_LinkTraining_1 : ∃ x, (withPort (Port.fresh 2 .train)).Calm ∧ (withPort (Port.fresh 2 .train)).awake = true ∧
    (withPort (Port.fresh 2 .train)).ports.get? 7 = some x ∧ x.state = .train ∧ x.order = 1 ∧ 8 ≤ (bitPositions 0x1FE 9).length :=
  ⟨_, calm_of (by decide), by decide, rfl, rfl, rfl, by decide⟩

theorem meets_LinkTraining_2 : ∃ x, (withPort { Port.fresh 2 .train with order := 2 }).Calm ∧
    (withPort { Port.fresh 2 .train with order := 2 }).awake = true ∧
    (withPort { Port.fresh 2 .train with order := 2 }).ports.get? 7 = some x ∧ x.state = .train ∧ x.order = 2 ∧
    8 ≤ (bitPositions 0x1FF 9).length ∧ 8 ≤ (bitPositions 0xFF 9).length :=
  ⟨_, calm_of (by decide), by decide, rfl, rfl, rfl, by decide, by decide⟩

theorem meets_LinkTraining_3 : ∃ x, (withPort { Port.fresh 2 .align with order := 4 }).Calm ∧
    (withPort { Port.fresh 2 .align with order := 4 }).ports.get? 7 = some x ∧ x.state = .align ∧ x.order = 4 ∧ x.words = [] :=
  ⟨_, calm_of (by decide), rfl, rfl, rfl, rfl⟩

theorem meets_LinkTraining_4 : ∃ x, (withPort (Port.fresh 2 .train)).Calm ∧ (withPort (Port.fresh 2 .train)).ports.get? 7 = some x ∧
    x.state = .train ∧ x.order ≤ 2 ∧ x.second = false := ⟨_, calm_of (by decide), rfl, rfl, by decide, rfl⟩

/-- A port that exchanges HELLO. -/
def greeting : State := withPort { Port.fresh 2 .align with order := 5 }

theorem meets_LinkTraining_5 : ∃ x, greeting.Calm ∧ greeting.awake = true ∧ greeting.ports.get? 7 = some x ∧ x.state = .align ∧ x.order = 5 ∧
    x.keys.length ≤ 1 ∧ greeting.peersOn 7 = [] ∧ greeting.boot.phase = .ready :=
  ⟨_, calm_of (by decide), by decide, rfl, rfl, rfl, by decide, rfl, rfl⟩

theorem meets_LinkTraining_6 : ∃ x, (withPort (Port.fresh 0 .down)).Calm ∧ (withPort (Port.fresh 0 .down)).ports.get? 7 = some x ∧
    x.state = .down ∧ x.leftDown = false ∧ (withPort (Port.fresh 0 .down)).flag Fld.LNK_CFG_ENABLE 7 = true ∧
    (withPort (Port.fresh 0 .down)).boot.phase = .ready := ⟨_, calm_of (by decide), rfl, rfl, rfl, by decide, rfl⟩

theorem meets_LinkTraining_7 : ∃ x, greeting.Calm ∧ greeting.ports.get? 7 = some x ∧ x.state = .align ∧ x.order = 5 ∧
    [64, 128, 2048, 2048].length = 4 ∧ (x.keys.getD 0x10 PortKey.none).txValid = false :=
  ⟨_, calm_of (by decide), rfl, rfl, rfl, rfl, rfl⟩

theorem meets_LinkTraining_8 : ∃ x, (withPort (port0 .sealed)).Calm ∧ (withPort (port0 .sealed)).awake = true ∧
    (withPort (port0 .sealed)).ports.get? 7 = some x ∧ (x.state = .opened ∨ x.state = .sealed) ∧ (withPort (port0 .sealed)).peersOn 7 = [] :=
  ⟨_, calm_of (by decide), by decide, rfl, .inr rfl, rfl⟩

-- LinkLanes -------------------------------------------------------------------------------------------------------------------------------

theorem meets_LinkLanes_1 : ∃ x, (withPort (port0 .opened)).Calm ∧ (withPort (port0 .opened)).awake = true ∧
    (withPort (port0 .opened)).ports.get? 7 = some x ∧ (x.state = .opened ∨ x.state = .sealed) ∧ 7 ≤ 8 ∧ bitOf x.rxGood 7 = true ∧
    7 ∈ x.rxMap ∧ x.rxSpare = true ∧ (bitPositions x.rxGood 9).filter (fun k => !(x.rxMap.contains k)) = [8] :=
  ⟨_, calm_of (by decide), by decide, rfl, .inl rfl, by decide, by decide, by decide, rfl, by decide⟩

theorem meets_LinkLanes_2 : ∃ x, (withPort (port0 .sealed)).ports.get? 7 = some x ∧
    (∃ (k i : Nat), (([0, 0, 0, 8192, 9000].take 8).zipIdx).find?
      (fun c => decide ((withPort (port0 .sealed)).fld Fld.LNK_CFG_LANE_BAD 7 ≤ c.1)) = some (k, i) ∧ x.rxMap[i]? = some 3) :=
  ⟨_, rfl, _, _, rfl, rfl⟩

theorem meets_LinkLanes_3 : (port0 .recovery).up = true ∧ (port0 .recovery).rxSpare = true ∧
    (bitPositions (port0 .recovery).rxGood 9).filter (fun k => !((port0 .recovery).rxMap.contains k)) = [8] ∧
    (withPort (port0 .recovery)).Calm ∧ (withPort (port0 .recovery)).awake = true ∧ (port0 .recovery).state = .recovery :=
  ⟨by decide, rfl, by decide, calm_of (by decide), by decide, rfl⟩

-- LinkKeys ----------------------------------------------------------------------------------------------------------------------------------

/-- A port in OPEN with a link key on its way and a partition key at its mark. -/
def keyed : Port :=
  { port0 .opened with keys := [(0, ⟨true, 1, 240 * 2 ^ 32, true, 0, none, false⟩), (0x10, PortKey.coming), (0x1F, PortKey.new)] }

theorem meets_LinkKeys_1 : ∃ k, (withPort keyed).Calm ∧ (withPort keyed).awake = true ∧ (withPort keyed).ports.get? 7 = some keyed ∧
    keyed.keys.get? 0 = some k ∧ k.txValid = true ∧ k.rekeying = false ∧ 0 ≠ 0x1F ∧ (withPort keyed).flowing 7 = true ∧
    zeroActsAs ((withPort keyed).fld Fld.LNK_REKEY_AT_AT 7) 240 * 2 ^ 32 ≤ k.txCtr ∧ pf.isPf = true ∧ (withPort keyed).doeUp pf = true :=
  ⟨_, calm_of (by decide), by decide, rfl, rfl, rfl, rfl, by decide, by decide, by decide, rfl, by decide⟩

theorem meets_LinkKeys_2 : ∃ k, (withPort keyed).Calm ∧ (withPort keyed).awake = true ∧ (withPort keyed).ports.get? 7 = some keyed ∧
    keyed.keys.get? 0x10 = some k ∧ (withPort keyed).flowing 7 = true ∧ k.rekeying = true ∧
    0 = (if k.txValid then (k.txPhase + 1) % 2 else k.txPhase) := ⟨_, calm_of (by decide), by decide, rfl, rfl, by decide, rfl, rfl⟩

-- LinkGroups ----------------------------------------------------------------------------------------------------------------------------------

/-- A sealed port whose counts of groups are at their greatest, with one group unacknowledged. -/
def busyPort : Port :=
  { port0 .sealed with
    expect := 2 ^ 32 - 1, keys := [(0, ⟨true, 0, 0, true, 0, some 14, false⟩), (0x1F, PortKey.new)], nakOut := true,
    retry := [⟨0, 0x1F, emptySlots, none⟩] }

/-- A group in order under the key of partition 0. -/
def group0 (gseq ctr : Nat) (damaged : Bool) : RxGroup := ⟨true, damaged, true, 0, 0, false, gseq, 0, ctr, [0, 0, 0, 0], emptySlots, none⟩

theorem meets_LinkGroups_1 : ∃ k, (withPort busyPort).Calm ∧ (withPort busyPort).awake = true ∧ (withPort busyPort).ports.get? 7 = some busyPort ∧
    (withPort busyPort).flowing 7 = true ∧ busyPort.state = .sealed ∧ (group0 (2 ^ 32 - 1) 15 false).gseq = busyPort.expect ∧
    busyPort.expect < 2 ^ 32 ∧ busyPort.keys.get? 0 = some k ∧ k.rxValid = true ∧
    ((group0 (2 ^ 32 - 1) 15 false).phase = k.rxPhase → ∀ c, k.rxLast = some c → c < 15) := by
  refine ⟨_, calm_of (by decide), by decide, rfl, by decide, rfl, rfl, by decide, rfl, rfl, fun _ c h => ?_⟩
  cases h
  decide

theorem meets_LinkGroups_2 : epochNewer busyPort.expect (group0 0 15 false).gseq = false ∧ (group0 0 15 false).gseq ≠ busyPort.expect :=
  ⟨by decide, by decide⟩

theorem meets_LinkGroups_3 : epochNewer busyPort.expect (group0 (2 ^ 32 - 2) 15 false).gseq = true ∧
    (group0 (2 ^ 32 - 1) 15 true).damaged = true := ⟨by decide, rfl⟩

theorem meets_LinkGroups_5 : ∃ k, (withPort (port0 .opened)).Calm ∧ (withPort (port0 .opened)).flowing 7 = true ∧
    (port0 .opened).resend = 0 ∧ (port0 .opened).mgmt = [] ∧ (port0 .opened).retry.length < Nat.min 128 (port0 .opened).peerRetry ∧
    (port0 .opened).keyReady 0x1F = true ∧ (port0 .opened).keys.get? 0x1F = some k :=
  ⟨_, calm_of (by decide), by decide, rfl, rfl, by decide, by decide, rfl⟩

theorem meets_LinkGroups_6 : busyPort.nakOut = true ∧ busyPort.retry ≠ [] ∧
    busyPort.rewinds + 1 < zeroActsAs ((withPort busyPort).fld Fld.LNK_RETRY_CFG_RETRY_MAX 7) 1 := ⟨rfl, by decide, by decide⟩

-- EgressClocks ----------------------------------------------------------------------------------------------------------------------------------

/-- A device whose port 7 has one gate entry that is open to every class in each of its lists. -/
def gated (on switch : Nat) : State :=
  ((((withPort (port0 .sealed)).setFld Fld.EGR_CFG_GATES_ON on 7).setFld Fld.EGR_CFG_SWITCH switch 7).setReg ⟨.egrGate, 7, 0⟩ 0xFFFFFFFFF).setReg
    ⟨.egrGate, 7, 64⟩ 0xFFFFFFFFF

theorem meets_EgressClocks_1 : ∃ x, (withPort (port0 .sealed)).Calm ∧ (withPort (port0 .sealed)).awake = true ∧
    (withPort (port0 .sealed)).ports.get? 7 = some x := ⟨_, calm_of (by decide), by decide, rfl⟩

theorem meets_EgressClocks_2 : (gated 0 0).Calm ∧ (gated 0 0).activeList 7 ≠ [] ∧ (gated 0 0).flag Fld.EGR_CFG_SWITCH 7 = false ∧
    (gated 0 0).fld Fld.EGR_CFG_GATES_ON 7 = 0 := ⟨calm_of (by decide), by decide +kernel, by decide, by decide⟩

theorem meets_EgressClocks_3 : (gated 0 1).Calm ∧ (gated 0 1).activeList 7 ≠ [] ∧ (gated 0 1).flag Fld.EGR_CFG_SWITCH 7 = true ∧
    (gated 0 1).fld Fld.EGR_CFG_GATES_ON 7 = 0 ∧ ((gated 0 1).activeList 7).length ≤ (port0 .sealed).gateAt + 1 :=
  ⟨calm_of (by decide), by decide +kernel, by decide, by decide, by decide +kernel⟩

theorem meets_EgressClocks_5 : (gated 0 0).Calm ∧ (gated 0 0).awake = true ∧ (gated 0 0).ports.get? 7 = some (port0 .sealed) ∧ 7 < 8 ∧
    (gated 0 0).doeUp pf = true ∧ (gated 0 0).listOk 7 (1 - (gated 0 0).fld Fld.EGR_CFG_ACTIVE 7) = true :=
  ⟨calm_of (by decide), by decide, rfl, by decide, by decide, by decide +kernel⟩

/-- The second list has two entries, the first of which closes every class's gate and the second opens it for too short a time. -/
def shortList : State := ((withPort (port0 .sealed)).setReg ⟨.egrGate, 7, 64⟩ 5).setReg ⟨.egrGate, 7, 65⟩ 0x700000005

theorem meets_EgressClocks_6 : shortList.Calm ∧ shortList.awake = true ∧ shortList.doeUp pf = true ∧
    shortList.listOk 7 (1 - shortList.fld Fld.EGR_CFG_ACTIVE 7) = false :=
  ⟨calm_of (by decide), by decide, by decide, by decide +kernel⟩

theorem meets_EgressClocks_7 : ∃ a b, (gated 1 0).Calm ∧ (gated 1 0).flag Fld.EGR_CFG_SWITCH 7 = false ∧
    (gated 1 0).fld Fld.EGR_CFG_GATES_ON 7 ≠ 0 ∧ 0 = (if ((gated 1 0).activeList 7).length ≤ 0 + 1 then 0 else 0 + 1) ∧
    ((gated 1 0).activeList 7)[0]? = some a ∧ ((gated 1 0).activeList 7)[0]? = some b :=
  ⟨(0xFFFFFFFFF % 2 ^ 32, 7), (0xFFFFFFFFF % 2 ^ 32, 7), calm_of (by decide), by decide, by decide, by decide +kernel, by decide +kernel,
    by decide +kernel⟩

-- MessageChecks -------------------------------------------------------------------------------------------------------------------------

/-- The admitted peer, a device. -/
def mate : Peer := ⟨77, .admitted, true, 7, 0xFFFF, 9, 0, 0, false, false, [], []⟩

/-- A peer that is being admitted for partition 1, a partner; its quote is to answer nonce 5. -/
def guest : Peer := ⟨0, .admitting, false, 7, 2, 11, 0, 0, false, false, [], [5]⟩

/-- A device with partition keys and the link key at a sealed port, two peers behind it, of which one is admitted. -/
def peered : State :=
  { withPort { port0 .sealed with keys := [(0, PortKey.new), (1, PortKey.new), (0x10, PortKey.new), (0x1F, PortKey.new)] } with
    peers := [(1023, mate), (3, guest)] }

/-- A well-formed header of a message of partition 1 with so many bytes. -/
def hdr (type : Nat) (resp : Bool) (src dst size : Nat) : Hdr :=
  ⟨7, typeVc type resp, if type = 9 ∨ type = 10 then 0x10 else 1, size, type, if resp then 128 else 0, dst, src, 1, 0, size, 0, 0, 0, 99, 0⟩

theorem meets_MessageChecks_0 : live.Calm ∧ live.awake = true ∧
    messageOf (.ping (hdr 9 false 9 5 36)) live = some (hdr 9 false 9 5 36, 9, false, some 36) ∧ live.carries (hdr 9 false 9 5 36) = false :=
  ⟨calm_of (by decide), by decide, rfl, by decide⟩

theorem meets_MessageChecks_1 : peered.Calm ∧ peered.awake = true ∧
    messageOf (.ping (hdr 9 false 9 6 36)) peered = some (hdr 9 false 9 6 36, 9, false, some 36) ∧
    peered.carries (hdr 9 false 9 6 36) = true ∧ (hdr 9 false 9 6 36).dst ≠ peered.fld Fld.CMP_SELF_FABRIC :=
  ⟨calm_of (by decide), by decide, rfl, by decide, by decide⟩

theorem meets_MessageChecks_2 : messageOf (.tilePull (hdr 6 false 9 5 49) 0 0 0 0) peered = some (hdr 6 false 9 5 49, 6, false, some 48) ∧
    peered.carries (hdr 6 false 9 5 49) = true ∧ (hdr 6 false 9 5 49).dst = peered.fld Fld.CMP_SELF_FABRIC ∧
    (hdr 6 false 9 5 49).malformed 6 false (peered.linkKey 7) (some 48) = true := ⟨rfl, by decide, by decide, by decide⟩

theorem meets_MessageChecks_3 : ∃ p, messageOf (.logitChunk (some (hdr 4 false 9 5 64)) 0 0 0 false []) peered =
      some (hdr 4 false 9 5 64, 4, false, some 64) ∧ peered.carries (hdr 4 false 9 5 64) = true ∧
    peered.peerOfSrc (hdr 4 false 9 5 64).src = some (1023, p) ∧ roleSends 4 false p.device = false :=
  ⟨_, rfl, by decide, rfl, by decide⟩

/-- A device whose peer is admitted for partition 0 alone. -/
def narrow : State := { peered with peers := [(0, { mate with parts := 1 })] }

theorem meets_MessageChecks_4 : ∃ p, narrow.Calm ∧ narrow.awake = true ∧
    messageOf (.moveAbort (hdr 8 false 9 5 40) 0) narrow = some (hdr 8 false 9 5 40, 8, false, some 40) ∧
    narrow.carries (hdr 8 false 9 5 40) = true ∧ narrow.peerOfSrc (hdr 8 false 9 5 40).src = some (0, p) ∧ 8 < 9 ∧
    bitOf p.parts (hdr 8 false 9 5 40).part = false := ⟨_, calm_of (by decide), by decide, rfl, by decide, rfl, by decide, by decide⟩

theorem meets_MessageChecks_5 : messageOf (.moveAbort (hdr 8 false 10 5 40) 0) peered = some (hdr 8 false 10 5 40, 8, false, some 40) ∧
    peered.carries (hdr 8 false 10 5 40) = true ∧ (hdr 8 false 10 5 40).dst = peered.fld Fld.CMP_SELF_FABRIC ∧
    (hdr 8 false 10 5 40).malformed 8 false (peered.linkKey 7) (some 40) = false ∧ peered.peerOfSrc (hdr 8 false 10 5 40).src = none :=
  ⟨rfl, by decide, by decide, by decide, rfl⟩

-- PeerMessages -----------------------------------------------------------------------------------------------------------------------------

theorem meets_PeerMessages_1 : peered.Calm ∧ peered.Idle ∧ peered.awake = true ∧ peered.Hears (hdr 9 false 9 5 36) 9 false (some 36) 1023 mate ∧
    peered.Hears (hdr 9 true 9 5 36) 9 true (some 36) 1023 mate ∧ mate.asks = [] ∧
    peered.Hears (hdr 10 false 9 5 40) 10 false (some 40) 1023 mate ∧ 15 < 16 :=
  ⟨calm_of (by decide), idle_of (by decide), by decide, hears_of (by decide), hears_of (by decide), rfl, hears_of (by decide), by decide⟩

theorem meets_PeerMessages_2 : ∃ x, peered.Calm ∧ peered.awake = true ∧ peered.Hears (hdr 8 false 9 5 44) 8 false (some 44) 1023 mate ∧
    peered.ports.get? mate.port = some x ∧ x.up = true := ⟨_, calm_of (by decide), by decide, hears_of (by decide), rfl, by decide⟩

theorem meets_PeerMessages_3 : ∃ x, peered.peers.get? 1023 = some mate ∧ mate.state = .admitted ∧ mate.pings < 3 ∧
    peered.ports.get? mate.port = some x ∧ x.up = true := ⟨_, rfl, rfl, by decide, rfl, by decide⟩

/-- A device with a peer that has not answered three PINGs. -/
def silent : State := { peered with peers := [(0, { mate with pings := 3 })] }

theorem meets_PeerMessages_4 : ∃ p, silent.Idle ∧ silent.awake = true ∧ silent.peers.get? 0 = some p ∧ p.state = .admitted ∧ 3 ≤ p.pings ∧
    p.asks = [] := ⟨_, idle_of (by decide), by decide, rfl, rfl, by decide, rfl⟩

-- Admission ----------------------------------------------------------------------------------------------------------------------------------

theorem meets_Admission_1 : peered.Calm ∧ peered.awake = true ∧ peered.Brings (hdr 9 false 10 5 84) 84 ∧ 1 < 2 ∧ peered.admitting 10 = none ∧
    (List.range 1024).find? (fun j => !(peered.peers.has j)) = some 0 :=
  ⟨calm_of (by decide), by decide, brings_of (by decide), by decide, rfl, by decide +kernel⟩

theorem meets_Admission_2 : peered.Brings (hdr 9 false 11 5 84) 84 ∧ peered.admitting 11 = some (3, guest) ∧ peered.peers.get? 3 = some guest :=
  ⟨brings_of (by decide), rfl, rfl⟩

/-- A table of so many peers that are being admitted. -/
def guests (n : Nat) : AMap Nat Peer := (List.range n).map (fun i => (i, guest))

/-- A device whose peer table is full of peers that are being admitted. -/
def crowded : State := { peered with peers := guests 1024 }

theorem guests_has (n i : Nat) (h : i ∈ List.range n) : (guests n).has i = true := by
  have has_of : ∀ (m : AMap Nat Peer) (k : Nat) (v : Peer), (k, v) ∈ m → m.has k = true := by
    intro m k v h
    induction m with
    | nil => cases h
    | cons a r ih =>
      by_cases e : a.1 = k
      · simp [AMap.has, AMap.get?, e]
      · have : (k, v) ∈ r := by
          rcases List.mem_cons.mp h with h | h
          · exact absurd (congrArg Prod.fst h).symm e
          · exact h
        simpa [AMap.has, AMap.get?, e] using ih this
  exact has_of _ i guest (List.mem_map_of_mem (f := fun i => (i, guest)) h)

theorem guests_full (n m : Nat) (h : m ≤ n) : (List.range m).find? (fun i => !((guests n).has i)) = none := by
  simp only [List.find?_eq_none, Bool.not_eq_true, Bool.not_eq_false']
  intro i hi
  exact guests_has n i (List.mem_range.mpr (Nat.lt_of_lt_of_le (List.mem_range.mp hi) h))

theorem guests_idle (n : Nat) (f : Nat × Peer → Bool) : (guests n).filter (fun kv => f kv && kv.2.state == PeerState.admitted) = [] := by
  simp only [List.filter_eq_nil_iff]
  intro kv hk
  simp only [guests, List.mem_map] at hk
  obtain ⟨i, -, rfl⟩ := hk
  simp [guest]

theorem newEntry_none {s : State} {n : Nat} (h : s.peers = guests n) (hn : 1024 ≤ n) : s.newEntry = none := by
  have full := guests_full n 1024 hn
  have idle := guests_idle n (fun kv => decide (kv.1 < 1024) && s.busyOf kv.1 == 0)
  unfold State.newEntry
  generalize 1024 = m at *
  rw [h, full]
  simp only [Bool.and_right_comm] at idle ⊢
  rw [idle]
  rfl

theorem crowded_full : crowded.newEntry = none := newEntry_none (n := 1024) (by simp only [crowded]) (Nat.le_refl 1024)

theorem meets_Admission_4 : crowded.Calm ∧ crowded.awake = true ∧ crowded.Brings (hdr 9 false 10 5 84) 84 ∧ crowded.admitting 10 = none ∧
    crowded.newEntry = none :=
  ⟨calm_of (by decide +kernel), by decide +kernel, brings_of (by decide +kernel), by decide +kernel, crowded_full⟩

/-- What the quote of the guest names. -/
def named : Attest := ⟨1, 2, 3⟩

/-- A quote over nonce 5 with certificates of the greatest length. -/
def quote5 (ok : Bool) : PeerQuote := ⟨1, 5, named, ok, 2048, 2048⟩

theorem meets_Admission_5 : peered.Brings (hdr 9 false 11 5 4648) (552 + (quote5 false).akLen + (quote5 false).dikLen) ∧
    (quote5 false).akLen ≤ 2048 ∧ (quote5 false).dikLen ≤ 2048 ∧ peered.admitting 11 = some (3, guest) ∧ peered.peers.get? 3 = some guest ∧
    peered.quotePasses 3 guest (quote5 false) = false ∧ guest.asks = [] ∧ peered.sec.fails = [] ∧
    1 < peered.fld Fld.SEC_ALARM_POLICY_ATTEST_LIMIT :=
  ⟨brings_of (by decide), by decide, by decide, rfl, rfl, by decide, rfl, rfl, by decide⟩

/-- The device has agreed keys with an endpoint on port 7, and partition 1 has an attestation policy entry. -/
def hopped : State := { peered with sec := { peered.sec with hops := [(7, 9)], slots := [(40, ⟨some 1, 5, .provisioned, 0, 0, none, false, some named⟩)] } }

theorem meets_Admission_6 : ∃ y, hopped.Calm ∧ hopped.awake = true ∧
    hopped.Brings (hdr 9 false 11 5 4648) (552 + (quote5 true).akLen + (quote5 true).dikLen) ∧ (quote5 true).akLen ≤ 2048 ∧
    (quote5 true).dikLen ≤ 2048 ∧ hopped.admitting 11 = some (3, guest) ∧ hopped.peers.get? 3 = some guest ∧
    hopped.quotePasses 3 guest (quote5 true) = true ∧ 3 < 1024 ∧ hopped.ports.get? 7 = some y ∧
    hopped.peers.find? (fun kv => kv.1 != 3 && kv.2.id == 78 && kv.2.state == .admitted) = none ∧
    hopped.sec.hops.any (fun k => k.1 == 7) = true :=
  ⟨_, calm_of (by decide), by decide, brings_of (by decide), by decide, by decide, rfl, rfl, by decide, by decide, rfl, by rfl, by decide⟩

/-- A device whose quote a peer has yet to confirm. -/
def unconfirmed : State := { peered with peers := [(0, { mate with gotQuote := true })] }

theorem meets_Admission_8 : ∃ x, unconfirmed.Calm ∧ unconfirmed.awake = true ∧ unconfirmed.Brings (hdr 9 false 9 5 52) 52 ∧
    unconfirmed.peerOfSrc 9 = some (0, x) ∧ unconfirmed.peers.get? 0 = some x ∧ x.gotQuote = true ∧ x.asks = [] :=
  ⟨_, calm_of (by decide), by decide, brings_of (by decide), rfl, rfl, rfl, rfl⟩

theorem meets_Admission_9 : peered.peers.get? 3 = some guest ∧ guest.state = .admitting ∧ guest.asks = [] := ⟨rfl, rfl, rfl⟩

end Sys2Proof.Tests
end

