-- ==== Sys2Proof/Tests/Model.lean ====
section
/-!
SUPPORT. A small session with its request, tile and peers, for the witnesses of the statements.
-/

namespace Sys2Proof.Tests

open Sys2Proof Sys2Proof.Machine

/-- A session of partition 1 in slot 0, of generation 1, with an empty mortar. -/
def ses0 (st : SesState) : Session := { Session.free with gen := 1, state := st, part := 1, pfx := 0xFFFF, comp := 9 }

/-- Its handle. -/
def h0 : Word64 := mkHandle 1 0 1

/-- A request block: two input tokens, greedy, at most 8 tokens, no ring. -/
def args0 : ReqArgs :=
  ⟨⟨0, 0x3F800000, 0, 0x3F800000, 0, 0, 0, 8, 0, false, false, false, false, 0, false⟩, ⟨false, false, false, false, false, false, true, false⟩,
   ⟨0, 0, false⟩, 0, 0, 0, none, ⟨0, 12, 0⟩, 0, 0, [], 0x70, [3, 0, 0, 0, 4, 0, 0, 0]⟩

/-- A request of the session in a phase. -/
def req0 (ph : Phase) : Req :=
  { fn := pf, sq := some 0, tag := 7, flags := {}, part := 1, slot := 0, phase := ph, wait := none, args := args0, main := 0, comp := 9, epoch := 0,
    seed := 0, committed := 0, lost := 0, input := [], appendFrom := 0, appendTokens := [], rangeTo := 0, firstLog := false, served := [],
    opening := false, pending := [], frames := [], chunks := [], packet := none, maskReady := false, pen := ⟨[], [], 0, false⟩, utf8 := [],
    stopHold := [], emit := none, held := none, heldEnd := none, grammar := none, onFallback := false, startedFallback := false, fbCtx := 0,
    fbTiles := [], fbPages := [], fbReady := false, first := ⟨0, false, false, 0, 0⟩, inter := ⟨0, false, false, 0, 0⟩, total := ⟨0, false, false, 0, 0⟩,
    bonds := 0, moved := 0, lastBond := 0, exact := false, report := 0 }

/-- A tile of one position, and its entry in tile frame 5. -/
def tile0 : Tile := ⟨h0, 0, 0, ⟨0, false, 0, 0⟩, false, false, 0, 0, [⟨List.replicate 64 0, List.replicate 64 0, [0, 0], [0, 0], 0, 0, false, 1⟩]⟩

/-- The entry of a tile in a tile frame. -/
def inFrame (n : Nat) : MEntry := ⟨.lpddr, false, false, false, 1, 0, n⟩

/-- The session with one tile. -/
def sesT (st : SesState) : Session := { ses0 st with mortar := ⟨0, [], [], [(0, inFrame 5)]⟩, nextPos := 1 }

/-- The peer as a partner. -/
def partner : Peer := { mate with device := false }

/-- A composition map that names it. -/
def map9 : CMap := ⟨9, 1, 0, 0, [77], [⟨0, 0xFFFF, [77], [0, 0, 0], 0⟩], [77], [], 0, 120⟩

/-- The device that is ready, with partition 1's context, the session and its tile, two peers on a sealed port, and a request. -/
def served (q : Option Req) (x : Session) : State :=
  { peered with peers := [(1023, partner), (3, guest)], ctxs := [((1, 0), ctx0 img0 .ready)], cores := [(0, core0 none), (1, core0 none)], sessions := [(0, x)],
                reqs := match q with | some r => [(0, r)] | none => [], tiles := [(.frame 5, tile0)], tileFrames := [(5, ⟨1, .priv, 0, 0, []⟩)],
                comps := [(0, ⟨9, 1, 0, map9, [], false, 0, 0, 0⟩)] }

/-- The device whose partition 1 has so many mortar frames and tile frames, all of which are ZEROING. -/
def tight (tiles mortars : Nat) (s : State) : State :=
  let zeroing : Frame := ⟨1, .zeroing, 0, 0, []⟩
  let t := (s.setFld Fld.MEM_PART_TILES_COUNT tiles 1).setFld Fld.MEM_PART_MORTAR_COUNT mortars 1
  { t with tileFrames := (List.range tiles).map (fun n => (n, zeroing)), mortarFrames := (List.range mortars).map (fun n => (n, zeroing)) }

/-- A message of a type for the session, with so many bytes. -/
def msg (type : Nat) (resp : Bool) (size : Nat) : Hdr := { hdr type resp 9 5 size with comp := 9, handle := h0 }

end Sys2Proof.Tests
end

