-- ==== Sys2Proof/Tests/MeetsStores.lean ====
section
/-!
SUPPORT. Witnesses of the statements on parks, persists, revives and the quarry.
-/

namespace Sys2Proof.Tests

-- Each witness is checked before the next one is read: a kernel evaluation that waits for the ones before it holds a thread of its own.
set_option Elab.async false

open Sys2Proof Sys2Proof.Machine

/-- A quarry of 16 LUNs of 64 blocks: block 3 is open as SLC at page 5, block 4 as TLC at page 0. -/
def qry0 : Qry :=
  { Qry.reset with mounted := true, known := true, user := 1000, geom := ⟨1, 1, 1, 1, 64, 1008, 16384, 2048, 1, 2400, []⟩,
                   blocks := [(3, ⟨0, 0, 0, .openSlc, 5⟩), (4, ⟨0, 0, 0, .openTlc, 0⟩)] }

/-- The device with that quarry. -/
def stored (q : Option Req) (x : Session) : State := { served q x with qry := qry0 }

-- Parks -----------------------------------------------------------------------------------------------------------------------------------------

theorem meets_Parks_1 : ∃ h x, (stored none (sesT .waiting)).Calm ∧ (stored none (sesT .waiting)).Takes (sub h0) (.sesPark none) ∧
    (stored none (sesT .waiting)).Quiet (sub h0).slot ∧ (stored none (sesT .waiting)).ses (sub h0).slot = x ∧ x.state = .waiting ∧
    h = x.hints ∧ h.inRange = true ∧ (stored none (sesT .waiting)).parkKind x.part h = .warm ∧
    (∀ kv ∈ x.mortar.entries, kv.2.tier ≠ .store) ∧ x.log = x.perLog :=
  ⟨_, sesT .waiting, calm_of (by decide), takes_of (by decide +kernel), quiet_of (by decide), rfl, rfl, rfl, by decide, by decide, by decide, rfl⟩

/-- The entry of a tile in core 0's share. -/
def inStore : MEntry := ⟨.store, false, false, false, 1, 0, storeFrame 0 0⟩

/-- A session with a tile in a tile store. -/
def sesS (st : SesState) : Session := { ses0 st with mortar := ⟨0, [], [], [(0, inStore)]⟩, nextPos := 1 }

theorem meets_Parks_2 : ∃ h x, (stored none (sesS .waiting)).Calm ∧ (stored none (sesS .waiting)).Takes (sub h0) (.sesPark none) ∧
    (stored none (sesS .waiting)).Quiet (sub h0).slot ∧ (stored none (sesS .waiting)).ses (sub h0).slot = x ∧ x.state = .waiting ∧
    h = x.hints ∧ h.inRange = true ∧ (stored none (sesS .waiting)).parkKind x.part h = .warm ∧ (∃ kv ∈ x.mortar.entries, kv.2.tier = .store) ∧
    (stored none (sesS .waiting)).bondOf x.part ((stored none (sesS .waiting)).nextBond x.part) = none :=
  ⟨_, sesS .waiting, calm_of (by decide), takes_of (by decide +kernel), quiet_of (by decide), rfl, rfl, rfl, by decide, by decide,
    ⟨(0, inStore), List.mem_cons_self .., rfl⟩, rfl⟩

/-- A warm park whose bond is open. -/
def parking : State :=
  { stored none { sesS .waiting with op := .park } with
    parks := [(0, ⟨(sub h0).owner, .warm, 0, ⟨0, 0, 0, 0⟩, 0, ⟨0, 0, 0⟩, false, false, 0, [], [0], 6, Tally.zero⟩)],
    bonds := [⟨6, 1, 1, .warmPark, 0, some pf, 0, 7, false, warmActs 6 [0], 0⟩], tiles := [(.store 0 0, tile0)], tileFrames := [] }

theorem meets_Parks_3 : ∃ n x r b e s1, parking.Calm ∧ parking.awake = true ∧ parking.ses 0 = x ∧ parking.parks.get? 0 = some r ∧
    parking.bondOf x.part 6 = some b ∧ b.kind = .warmPark ∧ b.slot = 0 ∧ b.part = x.part ∧ b.id = 6 ∧ r.todo = [0] ∧ r.kind = .warm ∧
    x.mortar.entries.get? 0 = some e ∧ e.tier = .store ∧ parking.tileAt e = some tile0 ∧ parking.poisonedData e = false ∧
    parking.allocTile x.part ⟨x.part, .priv, 0, 0, []⟩ = some (n, s1) ∧ x.log = x.perLog ∧ r.owner.sq = some 0 ∧ parking.Open r.owner.fn 0 :=
  ⟨_, { sesS .waiting with op := .park }, ⟨(sub h0).owner, .warm, 0, ⟨0, 0, 0, 0⟩, 0, ⟨0, 0, 0⟩, false, false, 0, [], [0], 6, Tally.zero⟩,
    ⟨6, 1, 1, .warmPark, 0, some pf, 0, 7, false, warmActs 6 [0], 0⟩, inStore, _, calm_of (by decide), by decide, rfl, rfl, rfl, rfl, rfl, rfl, rfl, rfl, rfl,
    rfl, rfl, rfl, by decide, rfl, rfl, rfl, open_of (by decide)⟩

/-- Hints that ask for a dressed park: a day of idling, lossy retention. -/
def longHints : Hints := ⟨18, 0, 1⟩

/-- A device whose partition 1 parks cold and has a quarry quota. -/
def cold (x : Session) : State := ((stored none x).setFld Fld.MEM_PART_QUOTA_QRY_64K 1 1).setFld Fld.QRY_CFG_GOV_ENABLE 0

theorem meets_Parks_4 : ∃ x b, (cold (sesT .waiting)).Calm ∧ (cold (sesT .waiting)).Takes (sub h0) (.sesPark (some longHints)) ∧
    (cold (sesT .waiting)).Quiet (sub h0).slot ∧ (cold (sesT .waiting)).ses (sub h0).slot = x ∧ x.state = .waiting ∧
    longHints.inRange = true ∧ x.holdsPrivate = true ∧ (cold (sesT .waiting)).parkKind x.part longHints = .dressed ∧
    b = (cold (sesT .waiting)).effBudget x.part ((cold (sesT .waiting)).profile x.part longHints.profile).anchor
      ((cold (sesT .waiting)).profile x.part longHints.profile).window ((cold (sesT .waiting)).profile x.part longHints.profile).budget ∧
    (cold (sesT .waiting)).qry.full ((cold (sesT .waiting)).parkFrames 0 ((cold (sesT .waiting)).parkEntries 0 true b)) = false ∧
    (cold (sesT .waiting)).govTakes x.part ((cold (sesT .waiting)).parkBytes 0 ((cold (sesT .waiting)).parkEntries 0 true b)) = true ∧
    ((cold (sesT .waiting)).profile x.part longHints.profile).valid = true ∧ (cold (sesT .waiting)).poisonedTile 0 = false :=
  ⟨sesT .waiting, _, calm_of (by decide), takes_of (by decide +kernel), quiet_of (by decide), rfl, rfl, by decide, by decide, by decide, rfl,
    by decide +kernel, by decide +kernel, by decide +kernel, by decide⟩

/-- A dressed park whose tiles are being dressed. -/
def run1 : ParkRun := ⟨(sub h0).owner, .dressed, 256, ⟨0, 0, 256, 0⟩, 0, longHints, true, false, 0, [], [], 0, Tally.zero⟩

/-- Its device. -/
def dressing : State :=
  { cold { sesT .waiting with op := .park } with
    parks := [(0, run1)], ctxs := [((1, 0), ctx0 img0 .ready), ((1, 63), ctx0 img0 .ready)] }

theorem meets_Parks_5 : ∃ ts d n id s1 s2 s3 fs gs, dressing.awake = true ∧ dressing.parks.get? 0 = some run1 ∧ run1.dressing = true ∧ dressing.systemUp 1 = true ∧
    dressing.bondOf 1 (dressing.nextBond 1) = none ∧
    dressing.parkTiles 0 run1 = (ts, d) ∧ n = dressing.parkFrames 0 (ts.map (·.1)) ∧ dressing.qry.full n = false ∧ dressing.qryRoom 1 n = true ∧
    dressing.openBond 1 .coldPark 0 (some run1.owner) true = (id, s1) ∧ s1.qStages 1 .tile id ts.length = some (fs, s2) ∧
    s2.qStages 1 .quarter id (n - ts.length) = some (gs, s3) := by
  have hl : (dressing.parkTiles 0 run1).1.map (·.1) = [0] := by decide +kernel
  have hn : dressing.parkFrames 0 [0] = 3 := by decide +kernel
  have hk : (dressing.parkTiles 0 run1).1.length = 1 := by decide +kernel
  have hq : (dressing.openBond 1 .coldPark 0 (some run1.owner) true).2.qry = qry0 := by decide +kernel
  obtain ⟨fs, s2, h2, e2, l2⟩ := qStages_some 1 .tile (dressing.openBond 1 .coldPark 0 (some run1.owner) true).1 1
    (dressing.openBond 1 .coldPark 0 (some run1.owner) true).2 (by rw [hq]; decide)
  rw [hq] at l2
  have hm : s2.qry.map = [] := by rw [e2, hq]; rfl
  have hu : s2.qry.user = 1000 := by rw [e2, hq]; rfl
  have hs : s2.qry.staged.length ≤ 1 := l2
  obtain ⟨gs, s3, h3, _, _⟩ := qStages_some 1 .quarter (dressing.openBond 1 .coldPark 0 (some run1.owner) true).1 2 s2 (by
    rw [hm, hu, List.length_nil, Nat.zero_add]
    exact Nat.le_trans (Nat.add_le_add_right hs 2) (by decide))
  refine ⟨(dressing.parkTiles 0 run1).1, (dressing.parkTiles 0 run1).2, 3, _, _, s2, s3, fs, gs, by decide, rfl, rfl, by decide, rfl, rfl, ?_, by decide, by decide +kernel,
    rfl, ?_, ?_⟩
  · rw [hl, hn]
  · rw [hk]; exact h2
  · rw [hk]; exact h3

-- Persists --------------------------------------------------------------------------------------------------------------------------------------

/-- A session whose log holds one entry and whose persisted copy none, with so many tokens since the last persist. -/
def logged (n : Nat) : Session := { sesT .waiting with log := [⟨3, false, true⟩], logFrames := [9], sincePersist := n }

theorem meets_Persists_1 : ∃ x, (served none (logged 256)).Calm ∧ (served none (logged 256)).awake = true ∧ (served none (logged 256)).ses 0 = x ∧
    x.state ≠ .free ∧ 256 ≤ x.sincePersist ∧ (∀ b ∈ (served none (logged 256)).bonds, b.slot = 0 → b.kind ≠ .persist) ∧
    (served none (logged 256)).qry.full x.perNeed = true :=
  ⟨logged 256, calm_of (by decide), by decide, rfl, by decide, by decide, fun b h => (List.not_mem_nil h).elim, by decide +kernel⟩

theorem meets_Persists_2 : ∃ id s1 s2 fs, (cold (logged 256)).ses 0 = logged 256 ∧
    (cold (logged 256)).bondOf 1 ((cold (logged 256)).nextBond 1) = none ∧ (logged 256).state ≠ .free ∧
    256 ≤ (logged 256).sincePersist ∧ (∀ b ∈ (cold (logged 256)).bonds, b.slot = 0 → b.kind ≠ .persist) ∧ (logged 256).log ≠ (logged 256).perLog ∧
    (cold (logged 256)).qry.full (logged 256).perNeed = false ∧ (cold (logged 256)).qryRoom 1 (logged 256).perNeed = true ∧
    (cold (logged 256)).openBond 1 .persist 0 none true (logged 256).log.length = (id, s1) ∧
    s1.qStages 1 .quarter id (logged 256).perNeed = some (fs, s2) := by
  have hq : ((cold (logged 256)).openBond 1 .persist 0 none true (logged 256).log.length).2.qry = qry0 := by decide +kernel
  have hn : (logged 256).perNeed = 1 := by decide +kernel
  obtain ⟨fs, s2, h2, _, _⟩ := qStages_some 1 .quarter ((cold (logged 256)).openBond 1 .persist 0 none true (logged 256).log.length).1 1
    ((cold (logged 256)).openBond 1 .persist 0 none true (logged 256).log.length).2 (by rw [hq]; decide)
  refine ⟨_, _, s2, fs, rfl, rfl, by decide, by decide, fun b h => (List.not_mem_nil h).elim, by decide, by decide +kernel, by decide +kernel, rfl, ?_⟩
  rw [hn]
  exact h2

/-- A persist of the session, with the frames it has staged. -/
def persisting (l : AMap Nat Staged) : State :=
  { stored none (logged 0) with qry := { qry0 with staged := l }, bonds := [⟨6, 1, 1, .persist, 0, none, 0, 0, true, [actList .quarryMap [20], actDirectory 0], 1⟩] }

/-- A staged frame of the persist. -/
def staged0 : Staged := ⟨1, .quarter, 6, none⟩

theorem meets_Persists_3 : ∃ b, (persisting [(20, staged0), (21, staged0)]).Calm ∧ (persisting [(20, staged0), (21, staged0)]).awake = true ∧
    (persisting [(20, staged0), (21, staged0)]).bondOf 1 6 = some b ∧ b.kind ≠ .coldPark ∧ (persisting [(20, staged0), (21, staged0)]).qry.mounted = true ∧
    (persisting [(20, staged0), (21, staged0)]).qry.readOnly = false ∧
    (persisting [(20, staged0), (21, staged0)]).qry.mayProgram (3 * 2048 + 5) = true ∧ staged0.ppa = none ∧ staged0.owner = 1 ∧ staged0.bond = 6 :=
  ⟨⟨6, 1, 1, .persist, 0, none, 0, 0, true, [actList .quarryMap [20], actDirectory 0], 1⟩, calm_of (by decide), by decide, rfl,
    by decide, rfl, rfl, by decide +kernel, rfl, rfl, rfl⟩

/-- The same frame, programmed at page 5 of block 3. -/
def passed0 : Staged := { staged0 with ppa := some (3 * 2048 + 5) }

theorem meets_Persists_4 : ∃ b x, (persisting [(20, passed0)]).Calm ∧ (persisting [(20, passed0)]).awake = true ∧
    (persisting [(20, passed0)]).ses 0 = x ∧ (persisting [(20, passed0)]).bonds = [b] ∧ b.part = x.part ∧ b.id = 6 ∧ b.kind = .persist ∧ b.slot = 0 ∧
    b.quarry = true ∧ (persisting [(20, passed0)]).qry.mounted = true ∧ (persisting [(20, passed0)]).qry.staged = [(20, passed0)] ∧
    passed0.ppa = some (3 * 2048 + 5) ∧ passed0.owner = x.part ∧ passed0.bond = 6 ∧ passed0.kind = .quarter ∧
    x.perFrames.length + 1 = ceilDiv b.arg 4080 :=
  ⟨⟨6, 1, 1, .persist, 0, none, 0, 0, true, [actList .quarryMap [20], actDirectory 0], 1⟩, logged 0, calm_of (by decide), by decide, rfl, rfl, rfl, rfl,
    rfl, rfl, rfl, rfl, rfl, rfl, rfl, rfl, rfl, by decide⟩

/-- A SES_SET_HOST_DATA that waits for its bond. -/
def bondWaits0 : State := { stored none (sesT .waiting) with bondWaits := [⟨1, 0, sub h0, .sesSetHostData 5⟩] }

theorem meets_Persists_5 : ∃ x, bondWaits0.Calm ∧ bondWaits0.ses 0 = x ∧ bondWaits0.bondWaits = [⟨x.part, 0, sub h0, .sesSetHostData 5⟩] ∧
    (sub h0).slot = 0 ∧ (0 : Nat) ≠ 4194304 ∧ bondWaits0.bondRoom x.part = true ∧ bondWaits0.claimed 0 = false ∧
    bondWaits0.checkSub (sub h0) = none ∧ x.state ≠ .moving ∧ (sub h0).sq = some 0 ∧ bondWaits0.Open (sub h0).fn 0 :=
  ⟨sesT .waiting, calm_of (by decide), rfl, rfl, rfl, by decide, by decide +kernel, rfl, by decide, by decide, rfl, open_of (by decide)⟩

-- Revives ---------------------------------------------------------------------------------------------------------------------------------------

/-- A parked session with its tile in quarry frame 30 and its log in frames 31 and 32. -/
def parked0 : Session :=
  { ses0 .parked with mortar := ⟨0, [], [], [(0, ⟨.quarry, false, false, false, 1, 0, 30⟩)]⟩, nextPos := 1, perFrames := [31, 32] }

theorem meets_Revives_1 : ∃ x, (stored none parked0).Calm ∧ (stored none parked0).Takes (sub h0) .sesRevive ∧ (stored none parked0).Quiet (sub h0).slot ∧
    (stored none parked0).ses (sub h0).slot = x ∧ x.state = .parked ∧ (sub h0).flags.exact = false ∧ (stored none parked0).qry.mounted = true ∧
    x.perFrames ≠ [] := ⟨parked0, calm_of (by decide), takes_of (by decide +kernel), quiet_of (by decide), rfl, rfl, rfl, rfl, by decide⟩

theorem meets_Revives_2 : (stored none (sesT .waiting)).Takes (sub h0) .sesRevive ∧ (stored none (sesT .waiting)).Quiet (sub h0).slot ∧
    ((stored none (sesT .waiting)).ses (sub h0).slot).state ≠ .parked ∧ (sub h0).flags.exact = false ∧
    (served none parked0).Takes (sub h0) .sesRevive ∧ (served none parked0).Quiet (sub h0).slot ∧
    ((served none parked0).ses (sub h0).slot).state = .parked ∧ (served none parked0).qry.mounted = false :=
  ⟨takes_of (by decide +kernel), quiet_of (by decide), by decide, rfl, takes_of (by decide +kernel), quiet_of (by decide), rfl, rfl⟩

/-- A device that revives the session and still reads log frames. -/
def reviving (l : List Nat) : State :=
  { stored none { parked0 with op := .revive, state := .pulling } with
    revives := [(0, ⟨some (sub h0).owner, l, [0], 4, Tally.zero⟩)],
    qry := { qry0 with map := [(30, ⟨1, .tile, true, 6150, false, false, 1⟩), (31, ⟨1, .quarter, true, 6151, false, false, 1⟩)] } }.setFld
      Fld.QRY_WEAR_CFG_DISTURB_K 0

theorem meets_Revives_3 : ∃ r e, (reviving [31, 32]).Calm ∧ (reviving [31, 32]).awake = true ∧ (reviving [31, 32]).revives = [(0, r)] ∧
    r.logLeft = [31, 32] ∧ ((reviving [31, 32]).ses 0).mortar.pageLocators = [] ∧ (reviving [31, 32]).handoffs.get? 0 = none ∧
    (reviving [31, 32]).qry.map.get? 31 = some e ∧ e.key = (reviving [31, 32]).epochOf e.owner ∧ (reviving [31, 32]).fld Fld.QRY_WEAR_CFG_DISTURB_K = 0 :=
  ⟨_, ⟨1, .quarter, true, 6151, false, false, 1⟩, calm_of (by decide), by decide, rfl, rfl, rfl, rfl, rfl,
    by decide, by decide⟩

theorem meets_Revives_4 : ∃ r e, (reviving [31]).awake = true ∧ (reviving [31]).revives = [(0, r)] ∧ r.logLeft = [31] ∧
    r.owner = some (sub h0).owner ∧ (sub h0).owner.sq = some 0 ∧ (reviving [31]).Open (sub h0).owner.fn 0 ∧
    ((reviving [31]).ses 0).mortar.pageLocators = [] ∧ (reviving [31]).req 0 = none ∧ (reviving [31]).handoffs.get? 0 = none ∧
    (reviving [31]).qry.map.get? 31 = some e ∧ (reviving [31]).fld Fld.QRY_WEAR_CFG_DISTURB_K = 0 :=
  ⟨_, ⟨1, .quarter, true, 6151, false, false, 1⟩, by decide, rfl, rfl, rfl, rfl, open_of (by decide), rfl, rfl, rfl, rfl, by decide⟩

-- NandResults -----------------------------------------------------------------------------------------------------------------------------------

theorem meets_NandResults_1 : ∃ b, (persisting [(20, staged0)]).Calm ∧ (persisting [(20, staged0)]).awake = true ∧
    (persisting [(20, staged0)]).bondOf 1 6 = some b ∧ b.part = 1 ∧ b.kind ≠ .coldPark ∧ (persisting [(20, staged0)]).qry.mounted = true ∧
    (persisting [(20, staged0)]).qry.readOnly = false ∧ (persisting [(20, staged0)]).qry.mayProgram (3 * 2048 + 5) = true ∧
    (persisting [(20, staged0)]).qry.framesIn (ppaBlock (3 * 2048 + 5)) = [] ∧
    ((persisting [(20, staged0)]).qRetire (ppaBlock (3 * 2048 + 5))).qry.freeBlocks ≠ 0 ∧
    ((persisting [(20, staged0)]).qRetire (ppaBlock (3 * 2048 + 5))).qry.readOnly = false ∧
    (∀ r ∈ (persisting [(20, staged0)]).err.ring, r.cls ≠ .ce) :=
  ⟨⟨6, 1, 1, .persist, 0, none, 0, 0, true, [actList .quarryMap [20], actDirectory 0], 1⟩, calm_of (by decide), by decide, rfl, rfl,
    by decide, rfl, rfl, by decide +kernel, rfl, by decide +kernel, by decide +kernel, fun r h => (List.not_mem_nil h).elim⟩

theorem meets_NandResults_3 : ∃ b, (persisting [(20, passed0)]).bondOf 1 6 = some b ∧ b.part = 1 ∧ b.quarry = true ∧
    (persisting [(20, passed0)]).qry.mounted = true ∧ (∀ kv ∈ (persisting [(20, passed0)]).qry.staged, kv.2.ppa ≠ none) ∧
    ((persisting [(20, passed0)]).qRetire (ppaBlock (3 * 2048 + 6))).qry.readOnly = false ∧ (∀ r ∈ (persisting [(20, passed0)]).err.ring, r.cls ≠ .ce) :=
  ⟨⟨6, 1, 1, .persist, 0, none, 0, 0, true, [actList .quarryMap [20], actDirectory 0], 1⟩, rfl, rfl, rfl, rfl, by decide, by decide +kernel,
    fun r h => (List.not_mem_nil h).elim⟩

/-- A device that erases block 9. -/
def erasing : State := { stored none (sesT .waiting) with qry := { qry0 with blocks := [(9, ⟨65535, 0, 0, .erasing, 0⟩)] } }

theorem meets_NandResults_2 : erasing.Calm ∧ erasing.awake = true ∧ (erasing.qry.blk 9).state = .erasing ∧ (erasing.qRetire 9).qry.readOnly = false ∧
    (∀ r ∈ erasing.err.ring, r.cls ≠ .ce) :=
  ⟨calm_of (by decide), by decide, rfl, by decide +kernel, fun r h => (List.not_mem_nil h).elim⟩

-- Housekeeping ----------------------------------------------------------------------------------------------------------------------------------

/-- A device with one closed block that holds so many frames; no block of LUN 0 is free. -/
def packed (st : BlkState) (m : AMap Nat QMap) (e : QMap) : State :=
  { stored none (sesT .waiting) with
    qry := { qry0 with geom := ⟨1, 1, 1, 1, 2, 1008, 16384, 2048, 1, 2400, []⟩, map := m, blocks := [(0, ⟨0, m.length, 0, st, 0⟩), (1, ⟨0, 0, 0, .openTlc, 7⟩)],
                       pages := [(e.ppa, 40)] } }

/-- A frame in block 0. -/
def map0 : QMap := ⟨1, .tile, false, 9, false, false, 1⟩

/-- A quarry with two map pages that have changed since they were written. -/
def changed : State := { stored none (sesT .waiting) with qry := { qry0 with dirty := [0, 3], cached := [0, 3], dir := [(3, 77)] } }

theorem meets_Housekeeping_0 : changed.Calm ∧ changed.awake = true ∧ changed.qry.mounted = true ∧ changed.qry.dirty ≠ [] :=
  ⟨calm_of (by decide), by decide, rfl, by decide⟩

theorem meets_Housekeeping_1 : ∃ x, (packed .closedTlc [] map0).Calm ∧ (packed .closedTlc [] map0).awake = true ∧
    (packed .closedTlc [] map0).qry.mounted = true ∧ (packed .closedTlc [] map0).qry.readOnly = false ∧
    (packed .closedTlc [] map0).qry.freeInLun 0 * 1000 <
      (packed .closedTlc [] map0).qry.goodInLun 0 * (packed .closedTlc [] map0).fld Fld.QRY_CFG_GC_LOW_PERMIL ∧
    (packed .closedTlc [] map0).qry.blocks.filter (fun kv => blockLun kv.1 == 0 && kv.2.state == .closedTlc) = [(0, x)] ∧
    (packed .closedTlc [] map0).qry.blk 0 = x ∧ (packed .closedTlc [] map0).qry.framesIn 0 = [] :=
  ⟨⟨0, 0, 0, .closedTlc, 0⟩, calm_of (by decide), by decide, rfl, rfl, by decide +kernel, rfl, rfl, rfl⟩

theorem meets_Housekeeping_2 : ∃ x ppa, (packed .closedTlc [(40, map0)] map0).qry.framesIn 0 = [40] ∧
    (packed .closedTlc [(40, map0)] map0).qry.map.get? 40 = some map0 ∧ ppaBlock map0.ppa = 0 ∧
    (packed .closedTlc [(40, map0)] map0).qry.blocks.filter (fun kv => blockLun kv.1 == 0 && kv.2.state == .closedTlc) = [(0, x)] ∧
    (packed .closedTlc [(40, map0)] map0).qry.tlcPage ((packed .closedTlc [(40, map0)] map0).qry.rotation
      (Config.pick (packed .closedTlc [(40, map0)] map0).freeCtr)) = some ppa ∧ ppaBlock ppa ≠ 0 :=
  ⟨⟨0, 1, 0, .closedTlc, 0⟩, 1 * 2048 + 7, rfl, rfl, rfl, rfl, rfl, by decide⟩

/-- A device whose SLC cache is full: 8 closed blocks, of which block 0 has no valid page. -/
def cached : State :=
  { stored none (sesT .waiting) with
    qry := { qry0 with geom := ⟨1, 1, 1, 1, 2, 1008, 16384, 2048, 1, 2400, []⟩, blocks := (List.range 8).map (fun k => (k * 2 ^ 15, ⟨0, k, 0, .closedSlc, 0⟩)) } }

theorem meets_Housekeeping_3 : cached.Calm ∧ cached.qry.readOnly = false ∧ cached.qry.slcLimit < cached.qry.slcBlocks ∧
    (0, (⟨0, 0, 0, .closedSlc, 0⟩ : Blk)) ∈ cached.qry.blocks.filter (fun kv => kv.2.state == .closedSlc) ∧
    (∀ kv ∈ cached.qry.blocks.filter (fun kv => kv.2.state == .closedSlc), kv ≠ (0, (⟨0, 0, 0, .closedSlc, 0⟩ : Blk)) →
      victimBefore (0, ⟨0, 0, 0, .closedSlc, 0⟩) kv = true ∧ victimBefore kv (0, ⟨0, 0, 0, .closedSlc, 0⟩) = false) :=
  ⟨calm_of (by decide), rfl, by decide +kernel, by decide +kernel, by decide +kernel⟩

/-- The device with a frame in block 0, marked or not. -/
def patrolled (m : Bool) : State := (packed .closedTlc [(40, { map0 with marked := m })] map0).setFld Fld.QRY_WEAR_CFG_DISTURB_K 0

theorem meets_Housekeeping_4 : ∃ e, (patrolled false).Calm ∧ (patrolled false).awake = true ∧ (patrolled false).qry.mounted = true ∧
    (patrolled false).qry.map.get? 40 = some e ∧ (patrolled false).fld Fld.QRY_WEAR_CFG_DISTURB_K = 0 ∧ e.marked = false :=
  ⟨map0, calm_of (by decide), by decide, rfl, rfl, by decide, rfl⟩

theorem meets_Housekeeping_5 : ∃ e ppa, (patrolled true).qry.map.get? 40 = some e ∧ (patrolled true).fld Fld.QRY_WEAR_CFG_DISTURB_K = 0 ∧
    e.marked = true ∧ e.bad = false ∧ (patrolled true).qry.readOnly = false ∧
    ((patrolled true).qRead 40 .hard).qry.tlcPage (((patrolled true).qRead 40 .hard).qry.rotation (Config.pick (patrolled true).freeCtr)) = some ppa :=
  ⟨{ map0 with marked := true }, 1 * 2048 + 7, rfl, by decide, rfl, rfl, rfl, by rfl⟩

/-- A device at the end of a day with writes, and partition 1 with a quota and a weight. -/
def dayEnd : State :=
  ({ cold (sesT .waiting) with qry := { qry0 with nandBytes := 3, logBytes := 2 } }.setFld Fld.QRY_GOV_WEIGHT 5 1)

theorem meets_Housekeeping_6 : dayEnd.Calm ∧ dayEnd.awake = true ∧ dayEnd.qry.mounted = true ∧ dayEnd.qry.logBytes ≠ 0 ∧
    dayEnd.fld Fld.QRY_WEAR_CFG_LIFE_DAYS ≠ 0 ∧ dayEnd.qry.logBytes < dayEnd.qry.nandBytes ∧
    (allParts.map (fun p => if dayEnd.fld Fld.MEM_PART_QUOTA_QRY_64K p = 0 then 0 else dayEnd.fld Fld.QRY_GOV_WEIGHT p)).sum ≠ 0 :=
  ⟨calm_of (by decide), by decide, rfl, by decide, by decide, by decide, by decide +kernel⟩

end Sys2Proof.Tests
end

