-- ==== Sys2Proof/Tests/MeetsCkp.lean ====
section
/-!
SUPPORT. Witnesses of the statements on checkpoints, restores and the start of a move.
-/

namespace Sys2Proof.Tests

-- Each witness is checked before the next one is read: a kernel evaluation that waits for the ones before it holds a thread of its own.
set_option Elab.async false

open Sys2Proof Sys2Proof.Machine

-- Checkpoints -------------------------------------------------------------------------------------------------------------------------------

/-- The checkpoint key of partition 1, loaded. -/
def ckpKey0 : KeySlot := ⟨some 1, 3, .loaded, 1, 0, none, false, none⟩

/-- A device with that key in slot 5. -/
def withKey (s : State) : State := (({ s with sec := { s.sec with slots := [(5, ckpKey0)] } }).setFld Fld.CKP_CFG_KEY_SLOT 5 1)

/-- The device with a session to checkpoint. -/
def ckpDev : State := withKey (served none (sesT .waiting))

/-- A checkpoint of every session to a host ring of 1 MiB, and one to the quarry of the weights of context 0. -/
def askHost : CkpAsk := ⟨4, true, 2, 1, ⟨0x10000, 20, 0x20000⟩, 0, 0, [], []⟩
def askQry : CkpAsk := ⟨4, false, 4, 1, ⟨0, 0, 0⟩, 0, 0, [], [.context 0]⟩

theorem meets_Checkpoints_1 : ckpDev.Calm ∧ ckpDev.subPart sub = 1 ∧ ckpDev.Takes sub (.ckpWrite { askHost with ring := ⟨1, 12, 0⟩ }) ∧
    { askHost with ring := ⟨1, 12, 0⟩ }.ring.ok = false ∧ ckpDev.Takes sub (.ckpWrite { askHost with step := 0 }) ∧ 0 ≤ ckpDev.ckpNewest 1 4 ∧
    ckpDev.Takes sub (.ckpWrite { askHost with scope := 16 }) ∧ 16 % 16 = 0 ∧
    (served none (sesT .waiting)).Takes sub (.ckpWrite askHost) ∧ askHost.ring.ok = true ∧ (served none (sesT .waiting)).ckpKey 1 = false ∧
    ckpDev.Takes sub (.ckpWrite askQry) ∧ ckpDev.ckpKey 1 = true ∧ ckpDev.qry.mounted = false :=
  ⟨calm_of (by decide), rfl, takes_of (by decide +kernel), by decide, takes_of (by decide +kernel), by decide, takes_of (by decide +kernel), rfl,
    takes_of (by decide +kernel), by decide, by decide, takes_of (by decide +kernel), by decide, rfl⟩

/-- A weight shard of the image that digest 0 names. -/
def weight0 (i : Nat) (bs : List Byte) : Shard := ⟨5, none, 0, 0, .image 0, i, 1, .weight bs⟩

/-- A manifest of such shards. -/
def man0 (l : List Shard) : Manifest := ⟨4, 1, 4, 1, [], [], l, 0, 0, 5⟩

/-- An open checkpoint to a ring of 4 KiB that waits for room, with shards still to write. -/
def runHost0 (l : List Shard) : CkpRun :=
  ⟨pf, some 0, 7, { askHost with ring := ⟨0x10000, 12, 0x20000⟩ }, l, [], [], 0, 0, true, man0 l, 0, 0, [], []⟩

/-- Its device. -/
def ckpOpened (l : List Shard) : State := { ckpDev with ckp := { ckpDev.ckp with runs := [((1, 4), runHost0 l)] } }

theorem meets_Checkpoints_2 : (ckpOpened []).Calm ∧ (ckpOpened []).Takes { sub with tag := 8 } (.ckpWrite { askHost with step := 2 }) ∧
    (ckpOpened []).subPart { sub with tag := 8 } = 1 ∧ (ckpOpened []).checkCkp 1 { askHost with step := 2 } = none ∧ (ckpOpened []).ckpRun 1 4 = some (runHost0 []) :=
  ⟨calm_of (by decide), takes_of (by decide +kernel), rfl, by decide +kernel, rfl⟩

theorem meets_Checkpoints_3 : ∃ r l, ckpDev.Takes sub (.ckpWrite askHost) ∧ askHost.host = true ∧ ckpDev.checkCkp 1 askHost = none ∧
    ckpDev.ckpRun 1 4 = none ∧ r = (ckpDev.ckpOpen sub 1 askHost).2 ∧ (∀ k ∈ r.slots, ckpDev.ckpUnreadable k = false) ∧
    l = r.todo.filter (fun sh => !(askHost.held.contains sh)) ∧
    (l.map Shard.bytes).sum + r.man.bytes + (askHost.head + 2 ^ 64 - askHost.tail) % 2 ^ 64 ≤ 2 ^ askHost.ring.log2 ∧ l.length = 3 ∧
    r.man.sessions.length = 1 :=
  ⟨_, _, takes_of (by decide +kernel), rfl, by decide +kernel, rfl, rfl, by decide +kernel, rfl, by decide +kernel, by decide +kernel, by decide +kernel⟩

theorem meets_Checkpoints_4 : (ckpOpened []).awake = true ∧ (ckpOpened []).ckpRun 1 4 = some (runHost0 []) ∧ (runHost0 []).ask.host = true ∧
    (runHost0 []).stopped = true ∧ (runHost0 []).man.bytes + ((runHost0 []).head + 2 ^ 64 - 0) % 2 ^ 64 ≤ 2 ^ (runHost0 []).ask.ring.log2 ∧
    (runHost0 []).sq = some 0 ∧ (ckpOpened []).Open (runHost0 []).fn 0 :=
  ⟨by decide, rfl, rfl, rfl, by decide +kernel, rfl, open_of (by decide)⟩

/-- A shard that fits a ring of 4 KiB alone, but not with the manifest. -/
def big0 : Shard := weight0 0 (List.replicate 4000 7)

theorem meets_Checkpoints_5 : (ckpOpened [big0]).awake = true ∧ (ckpOpened [big0]).ckpRun 1 4 = some (runHost0 [big0]) ∧
    (runHost0 [big0]).todo = [big0] ∧ (runHost0 [big0]).ask.held.contains big0 = false ∧
    big0.bytes + ((runHost0 [big0]).head + 2 ^ 64 - 0) % 2 ^ 64 ≤ 2 ^ (runHost0 [big0]).ask.ring.log2 ∧ (runHost0 [big0]).ask.ring.log2 ≤ 30 ∧
    2 ^ (runHost0 [big0]).ask.ring.log2 < big0.bytes + ((runHost0 [big0]).head + 2 ^ 64 - 0) % 2 ^ 64 + (runHost0 [big0]).man.bytes :=
  ⟨by decide, rfl, rfl, rfl, by decide +kernel, by decide, by decide +kernel⟩

theorem meets_Checkpoints_6 : ckpDev.awake = true ∧ ckpDev.ckpRun 1 4 = none := ⟨by decide, rfl⟩

/-- A device whose context 0 has one block of weights, with a quarry that takes it or not. -/
def ckpStore (quota : Nat) : State :=
  { withKey ((cold (sesT .waiting)).setFld Fld.MEM_PART_QUOTA_QRY_64K quota 1) with
    ctxs := [((1, 0), ctx0 { img0 with weights := [(0, 100)] } .ready)] }

theorem meets_Checkpoints_7 : ∃ r sh, (ckpStore 0).Calm ∧ (ckpStore 0).Takes sub (.ckpWrite askQry) ∧ (ckpStore 0).subPart sub = 1 ∧
    askQry.scope % 16 = 4 ∧ (ckpStore 0).checkCkp 1 askQry = none ∧ (ckpStore 0).ckpRun 1 4 = none ∧ r = ((ckpStore 0).ckpOpen sub 1 askQry).2 ∧
    r.todo = [sh] ∧ (ckpStore 0).shardAt 1 sh = none ∧ (ckpStore 0).ckpRefuses 1 sh.frames = some .quotaQuarry ∧ (ckpStore 0).bonds = [] :=
  ⟨_, _, calm_of (by decide), takes_of (by decide +kernel), rfl, rfl, by decide +kernel, rfl, rfl, rfl, rfl, by decide +kernel, rfl⟩

theorem meets_Checkpoints_8 : ∃ r sh fs v, (ckpStore 1).Takes sub (.ckpWrite askQry) ∧ (ckpStore 1).checkCkp 1 askQry = none ∧
    r = ((ckpStore 1).ckpOpen sub 1 askQry).2 ∧ r.todo = [sh] ∧ (ckpStore 1).shardAt 1 sh = none ∧
    (ckpStore 1).bondOf 1 ((ckpStore 1).nextBond 1) = none ∧ (ckpStore 1).ckpRefuses 1 sh.frames = none ∧
    (ckpStore 1).qStages 1 .tile ((ckpStore 1).nextBond 1) sh.frames = some (fs, v) := by
  obtain ⟨fs, v, h, -, -⟩ := qStages_some 1 .tile ((ckpStore 1).nextBond 1) 1 (ckpStore 1) (by decide +kernel)
  exact ⟨_, { weight0 0 (List.replicate 100 0) with object := .image 1 }, fs, v, takes_of (by decide +kernel), by decide +kernel, rfl, by decide +kernel, rfl, rfl, by decide +kernel, h⟩

/-- A device that holds one manifest with one frame. -/
def ckpHeld : State := { withKey (stored none (sesT .waiting)) with ckp := { ckpDev.ckp with mans := [((1, 4), [(man0 [], [40])])] } }

theorem meets_Checkpoints_9 : ckpHeld.Calm ∧ ckpHeld.Takes sub (.ckpRelease 4 2) ∧ (∀ m ∈ ckpHeld.ckp.mans.getD (1, 4) [], m.1.step ≠ 2) ∧
    ckpHeld.Takes sub (.ckpRelease 4 (man0 []).step) ∧ ckpHeld.ckp.mans.getD (1, 4) [] = [(man0 [], [40])] :=
  ⟨calm_of (by decide), takes_of (by decide +kernel), by decide, takes_of (by decide +kernel), rfl⟩

-- Restores ----------------------------------------------------------------------------------------------------------------------------------

/-- A restore from the host of a manifest, with the shards that check. -/
def fromHost (m : Option Manifest) (sig : Bool) (t : List Shard) : CkpRestoreAsk := ⟨4, true, 0, m, sig, t⟩

/-- A restore from the quarry. -/
def fromQry (step : Nat) : CkpRestoreAsk := ⟨4, false, step, none, false, []⟩

theorem meets_Restores_1 : ckpDev.Calm ∧ ckpDev.Takes sub (.ckpRestore (fromHost none true [])) ∧ ckpDev.subPart sub = 1 ∧
    ckpDev.Takes sub (.ckpRestore (fromHost (some (man0 [])) false [])) ∧ ckpDev.Takes sub (.ckpRestore (fromQry 1)) ∧ ckpDev.qry.mounted = false ∧
    ckpHeld.Takes sub (.ckpRestore (fromQry 2)) ∧ ckpHeld.qry.mounted = true ∧ (∀ m ∈ ckpHeld.ckp.mans.getD (1, 4) [], 2 ≠ 0 ∧ m.1.step ≠ 2) ∧
    (served none (sesT .waiting)).Takes sub (.ckpRestore (fromHost (some (man0 [])) true [])) ∧
    (served none (sesT .waiting)).restoreMan 1 (fromHost (some (man0 [])) true []) = .ok (man0 []) ∧ (served none (sesT .waiting)).ckpKey 1 = false :=
  ⟨calm_of (by decide), takes_of (by decide +kernel), rfl, takes_of (by decide +kernel), takes_of (by decide +kernel), rfl,
    takes_of (by decide +kernel), rfl, by decide, takes_of (by decide +kernel), rfl, by decide⟩

/-- A manifest of one weight shard. -/
def manW : Manifest := man0 [weight0 0 [1, 2]]

/-- A device whose context 0 declares that image as a source. -/
def loadable : State := { ckpDev with ctxs := [((1, 0), ctx0 { img0 with weights := [(0, 2)], sources := [0] } .loading)] }

theorem meets_Restores_2 : ∃ r kc, loadable.Calm ∧ loadable.Takes sub (.ckpRestore (fromHost (some manW) true [weight0 0 [1, 2]])) ∧
    loadable.restoreMan 1 (fromHost (some manW) true [weight0 0 [1, 2]]) = .ok manW ∧ loadable.ckpKey 1 = true ∧ manW.shards ≠ [] ∧
    (∀ sh ∈ manW.shards, sh.object = .image 0) ∧ r = ⟨fromHost (some manW) true [weight0 0 [1, 2]], 1, manW⟩ ∧
    loadable.ctxs.find? (fun kc => kc.1.1 == 1 && (kc.2.img.sources.contains 0 || kc.2.imageKey == 0)) = some kc ∧
    (∀ i, i < kc.2.img.weights.length → ∃ sh ∈ manW.shards, sh.first = i) ∧ (∀ sh ∈ manW.shards, loadable.shardBad r sh = 0) :=
  ⟨_, ((1, 0), ctx0 { img0 with weights := [(0, 2)], sources := [0] } .loading), calm_of (by decide), takes_of (by decide +kernel), rfl, by decide, by decide,
    by decide, rfl, by decide, by decide, by decide +kernel⟩

/-- The same restore where the shard does not check, and where the manifest lacks it. -/
theorem meets_Restores_3 : ∃ r, loadable.Takes sub (.ckpRestore (fromHost (some manW) true [])) ∧
    loadable.restoreMan 1 (fromHost (some manW) true []) = .ok manW ∧ r = ⟨fromHost (some manW) true [], 1, manW⟩ ∧
    manW.shards = [] ++ weight0 0 [1, 2] :: [] ∧ loadable.shardBad r (weight0 0 [1, 2]) = 6 ∧
    loadable.Takes sub (.ckpRestore (fromHost (some (man0 [weight0 7 []])) true [])) ∧ (∀ sh ∈ (man0 [weight0 7 []]).shards, sh.first ≠ 0) :=
  ⟨_, takes_of (by decide +kernel), rfl, rfl, rfl, by decide +kernel, takes_of (by decide +kernel), by decide⟩

/-- The meta of a session with one log entry and no position, its manifest entry, and the manifest. -/
def meta0 : SesMeta := ⟨0, 3, none, 0, ⟨3, 0, 1⟩, 9, 0, 0x3F, false, none, [⟨3, false, true⟩]⟩
def manSes0 : ManSes := ⟨h0, 0, 1, 0, false, false, none⟩
def shardS : Shard := ⟨0, none, 0, 0, .session h0, 0, 0, .ses meta0⟩
def manS : Manifest := { man0 [shardS] with sessions := [manSes0] }

/-- The device without sessions. -/
def restorable : State := withKey (cored img0 none)

set_option maxRecDepth 20000 in
theorem restored_some (n : Nat) : ∃ v, State.buildRestored { restorable.bump Fld.CKP_DIGEST_FAILS_COUNT 1 0 with freeCtr := restorable.freeCtr + 1 } 1 n
    img0 meta0 none manS.shards = some v := by
  generalize hs : ({ restorable.bump Fld.CKP_DIGEST_FAILS_COUNT 1 0 with freeCtr := restorable.freeCtr + 1 } : State) = s
  have c0 : s.morCount 1 = 4096 := by rw [← hs]; decide +kernel
  have l0 : s.mortarFrames = [] := by rw [← hs]; rfl
  obtain ⟨root, v1, h1, e1, l1⟩ := allocMor_some (s := s) (p := 1) ⟨1, .priv, 0, n, []⟩ (by rw [c0, l0]; decide)
  have c1 : v1.morCount 1 = 4096 := by rw [e1]; exact c0
  have l1' : v1.mortarFrames.length ≤ 1 := by rw [l0] at l1; exact l1
  obtain ⟨fs, v2, h2, -, -⟩ := allocMors_some (p := 1) ⟨1, .priv, 0, n, []⟩ 1 v1 (by
    rw [c1]; exact Nat.le_trans (Nat.add_le_add_right l1' 1) (by decide))
  have ht : restoreTiles (mkHandle 1 n (s.ses n).gen) img0 meta0 manS.shards = [] := rfl
  unfold State.buildRestored
  rw [h1]
  dsimp only
  rw [ht]
  show ∃ v, (match v1.allocMors 1 ⟨1, .priv, 0, n, []⟩ 1 with
    | none => none
    | some (fs, s5) => _) = some v
  rw [h2]
  exact ⟨_, rfl⟩

set_option maxRecDepth 20000 in
theorem meets_Restores_4 : ∃ k v c, restorable.Calm ∧ restorable.Takes sub (.ckpRestore (fromHost (some manS) true [shardS])) ∧
    restorable.subPart sub = 1 ∧ restorable.restoreMan 1 (fromHost (some manS) true [shardS]) = .ok manS ∧ restorable.ckpKey 1 = true ∧
    manS.sessions = [manSes0] ∧ manS.prefixes = [] ∧ (∀ sh ∈ manS.shards, sh.object = .session manSes0.handle) ∧
    manS.shards.findSome? (fun sh => match sh.body with | .ses x => some x | _ => none) = some meta0 ∧ meta0.pfxLog = none ∧
    restorable.ctx 1 meta0.main = some c ∧ restorable.mainCtx 1 meta0.main = true ∧ coverage c.img meta0 manS.shards = 0 ∧
    (∀ sh ∈ manS.shards, restorable.shardBad ⟨fromHost (some manS) true [shardS], 1, manS⟩ sh = 0) ∧
    (∀ sh ∈ manS.shards, sh.kind = 1 → sh.geom = some c.img.geom) ∧ sub.flags.inPlace = false ∧ restorable.newSlot 1 = some k ∧
    State.buildRestored { restorable.bump Fld.CKP_DIGEST_FAILS_COUNT 1 0 with freeCtr := restorable.freeCtr + 1 } 1 k c.img meta0 none manS.shards = some v :=
  (restored_some _).elim fun v hv => ⟨_, v, ctx0 img0 .ready, calm_of (by decide), takes_of (by decide +kernel), rfl, rfl, by decide, rfl, rfl, by decide,
    rfl, rfl, rfl, by decide, by decide +kernel, by decide +kernel, by decide, rfl, rfl, hv⟩

-- MoveStart ---------------------------------------------------------------------------------------------------------------------------------

theorem meets_MoveStart_1 : (served none (sesT .opened)).Calm ∧ (served none (sesT .opened)).Takes (sub h0) (.sesMove 1023 0) ∧
    (served none (sesT .opened)).Quiet 0 ∧ ((served none (sesT .opened)).ses 0).state = .opened ∧
    (served none (sesT .waiting)).Takes (sub h0) (.sesMove 9 0) ∧ (served none (sesT .waiting)).Quiet 0 ∧
    (served none (sesT .waiting)).peers.get? 9 = none ∧ (served none (sesT .parked)).Takes (sub h0) (.sesMove 1023 0) ∧
    (served none (sesT .parked)).Quiet 0 ∧ (served none (sesT .parked)).peers.get? 1023 = some partner ∧ partner.state = .admitted ∧
    bitOf partner.parts 1 = true ∧ (served none (sesT .parked)).poisonedTile 0 = false ∧ (served none (sesT .parked)).qry.mounted = false :=
  ⟨calm_of (by decide), takes_of (by decide +kernel), quiet_of (by decide), rfl, takes_of (by decide +kernel), quiet_of (by decide), rfl,
    takes_of (by decide +kernel), quiet_of (by decide), rfl, rfl, by decide, by decide, rfl⟩

/-- The session with a poisoned tile. -/
def spoiled : State := { served none (sesT .waiting) with tileFrames := [(5, ⟨1, .poisoned, 0, 0, []⟩)] }

theorem meets_MoveStart_2 : spoiled.Calm ∧ spoiled.Takes (sub h0) (.sesMove 1023 0) ∧ spoiled.Quiet 0 ∧ (spoiled.ses 0).state = .waiting ∧
    spoiled.peers.get? 1023 = some partner ∧ spoiled.poisonedTile 0 = true :=
  ⟨calm_of (by decide), takes_of (by decide +kernel), quiet_of (by decide), rfl, rfl, by decide⟩

/-- A session with its tile in a tile store, and its device. -/
def storey : State := { served none (sesS .waiting) with tiles := [(.store 0 0, tile0)], tileFrames := [] }

theorem meets_MoveStart_3 : (tight 1 0 storey).Calm ∧ (tight 1 0 storey).Takes (sub h0) (.sesMove 1023 0) ∧ (tight 1 0 storey).Quiet 0 ∧
    ((tight 1 0 storey).ses 0).state = .waiting ∧ (tight 1 0 storey).peers.get? 1023 = some partner ∧ (tight 1 0 storey).poisonedTile 0 = false ∧
    (tight 1 0 storey).room 1 ((sesS .waiting).inTier .store).length 0 = .waits :=
  ⟨calm_of (by decide), takes_of (by decide +kernel), quiet_of (by decide), rfl, rfl, by decide, by decide +kernel⟩

theorem meets_MoveStart_4 : ∃ z s2, storey.Calm ∧ storey.Takes (sub h0) (.sesMove 1023 0) ∧ storey.Quiet 0 ∧ (storey.ses 0).state = .waiting ∧
    storey.peers.get? 1023 = some partner ∧ storey.ports.get? partner.port = some z ∧ z.up = true ∧ storey.poisonedTile 0 = false ∧
    storey.room 1 ((sesS .waiting).inTier .store).length 0 ≠ .waits ∧ storey.allocTiles 1 ⟨1, .priv, 0, 0, []⟩ ((sesS .waiting).inTier .quarry).length = some ([], storey) ∧
    storey.demoteAll 0 ((sesS .waiting).inTier .store) = some s2 :=
  ⟨_, _, calm_of (by decide), takes_of (by decide +kernel), quiet_of (by decide), rfl, rfl, rfl, by decide, by decide, by decide +kernel, rfl, rfl⟩

/-- The parked session of one quarry tile. -/
theorem meets_MoveStart_5 : ∃ z fs v, (stored none parked0).Calm ∧ (stored none parked0).Takes (sub h0) (.sesMove 1023 0) ∧ (stored none parked0).Quiet 0 ∧
    ((stored none parked0).ses 0).state = .parked ∧ (stored none parked0).qry.mounted = true ∧ (stored none parked0).peers.get? 1023 = some partner ∧
    (stored none parked0).ports.get? partner.port = some z ∧ z.up = true ∧ (stored none parked0).poisonedTile 0 = false ∧
    (stored none parked0).room 1 (parked0.inTier .quarry).length 0 ≠ .waits ∧
    (stored none parked0).allocTiles 1 ⟨1, .priv, 0, 0, []⟩ (parked0.inTier .quarry).length = some (fs, v) ∧ v.demoteAll 0 [] = some v := by
  obtain ⟨fs, v, h, -, -⟩ := allocTiles_some (p := 1) ⟨1, .priv, 0, 0, []⟩ 1 (stored none parked0) (by decide +kernel)
  exact ⟨_, fs, v, calm_of (by decide), takes_of (by decide +kernel), quiet_of (by decide), rfl, rfl, rfl, rfl, by decide, by decide, by decide +kernel, h, rfl⟩

end Sys2Proof.Tests
end

