-- ==== Sys2Proof/Tests/MeetsCores.lean ====
section
/-!
SUPPORT. Witnesses of the statements on tile programs, cores, contexts and barriers.
-/

namespace Sys2Proof.Tests

-- Each witness is checked before the next one is read: a kernel evaluation that waits for the ones before it holds a thread of its own.
set_option Elab.async false

open Sys2Proof Sys2Proof.Machine

-- Tile programs -----------------------------------------------------------------------------------------------------------------------

/-- Operands of the programs of the tests: 0 to 3 lie in the context's region, 4 to 7 in its share of the tile store. -/
def descs0 : List DWord :=
  ([⟨.region, 0, 1, 1, 4, 0, 0, 0, 0⟩, ⟨.region, 64, 1, 1, 4, 8, 0, 0, 0⟩, ⟨.region, 128, 1, 256, 32, 9, 0, 0, 0⟩, ⟨.region, 256, 1, 2, 8, 0, 0, 0, 0⟩,
    ⟨.store, 0, 1, 1, 4, 0, 0, 0, 0⟩, ⟨.store, 64, 1, 1, 4, 8, 0, 0, 0⟩, ⟨.store, 128, 1, 2, 8, 0, 0, 0, 0⟩, ⟨.store, 256, 1, 1, 4, 5, 2, 512, 0⟩] :
    List Desc).map Desc.word

/-- The firmware of the cores: the operands, and one entry point. -/
def firmware : FwSlot := { FwSlot.empty with core := ⟨[], descs0, [0]⟩ }

/-- A device whose main model runs on that firmware. -/
def based (s : State) : State := { s with boot := { s.boot with fired := firmware } }

/-- A core of partition 1 whose program memory begins with an instruction. -/
def coreAt (r : Option Run) (op : Nat) (i : TInstr) : Core := { core0 r with prog := [(0, TInstr.word op i)] }

/-- A program of context 0 on core 0. -/
def run0 : Run := ⟨⟨0, 0, [0], none, [], [], none⟩, none, 0, 0⟩

/-- A device that runs it at an instruction. -/
def program (op : Nat) (i : TInstr) : State := based { cored img0 none with cores := [(0, coreAt (some run0) op i), (1, core0 none)] }

/-- The image of context 0 with the programs that it runs. -/
def img1 : CtxImage := { img0 with table := descs0, entries := [0] }

/-- What runs on core 0. -/
def env0 : Env := ⟨0, 1, run0, img1⟩

/-- An instruction with its operands, once. -/
def instr0 (mode dst a b c : Nat) (imm : Word32 := 0) : TInstr := ⟨mode, false, false, false, false, dst, a, b, c, imm, 0, 0⟩

/-- The state that a repetition answers. -/
def ran (r : Except Trap State) : State := match r with | .ok t => t | .error _ => live

/-- A repetition answers a state. -/
def answers (r : Except Trap State) : Bool := match r with | .ok _ => true | .error _ => false

theorem ran_of {r : Except Trap State} (h : answers r = true) : r = .ok (ran r) := by
  cases r with
  | ok t => rfl
  | error e => cases h

/-- The rows that are read. -/
def isRows (r : Except Trap (List (List Nat))) (l : List (List Nat)) : Bool := match r with | .ok t => t == l | .error _ => false

theorem rows_of {r : Except Trap (List (List Nat))} {l : List (List Nat)} (h : isRows r l = true) : r = .ok l := by
  cases r with
  | ok t => simp only [isRows, beq_iff_eq] at h; rw [h]
  | error e => cases h

/-- The operand that an index names. -/
def opnd (i : Nat) : Operand := match env0.operand i false 0 with | some o => o | none => ⟨⟨.region, 0, 0, 0, 0, 0, 0, 0, 0⟩, 0, 0, 0⟩

theorem program_meets (op : Nat) (i : TInstr) (h : i.last = false) : (program op i).Calm ∧ (program op i).awake = true ∧
    (program op i).issuer 0 = some env0 ∧ (i.last = true → (program op i).Alone 0) :=
  ⟨calm_of rfl, rfl, rfl, fun g => by rw [h] at g; cases g⟩

theorem meets_TileArithmetic_1 : (program 1 (instr0 0 4 0 0 0xFFF)).standsAt env0 1 (instr0 0 4 0 0 0xFFF) = true ∧ env0.img.okMmul (instr0 0 4 0 0 0xFFF) = true ∧
    ∃ u, ∃ d x y ma mb md mc, env0.operand 4 false 0 = some d ∧ env0.operand 0 false 0 = some x ∧ env0.operand 0 false 0 = some y ∧
      (program 1 (instr0 0 4 0 0 0xFFF)).matrix env0 x = .ok ma ∧ (if bitOf 0 4 then (program 1 (instr0 0 4 0 0 0xFFF)).fedRows env0 y else (program 1 (instr0 0 4 0 0 0xFFF)).matrix env0 y) = .ok mb ∧
      (if 0 % 8 = 1 then (program 1 (instr0 0 4 0 0 0xFFF)).matrix env0 d else .ok []) = .ok md ∧
      (if 0xFFF = 0xFFF then mc = [] else ∃ c, env0.operand 0xFFF false 0 = some c ∧ (program 1 (instr0 0 4 0 0 0xFFF)).matrix env0 c = .ok mc) ∧
      (program 1 (instr0 0 4 0 0 0xFFF)).putMatrix env0 d (ma.zipIdx.map (fun row => (if bitOf 0 5 then mb else transpose y.d.cols mb).zipIdx.map (fun col =>
        epilogue 0 0 (elemProds (env0.img.typeOf 0 == 9) row.1 col.1) (cell md row.2 col.2) (cell mc row.2 col.2)))) = .ok u :=
  ⟨by decide +kernel, by decide +kernel, _, opnd 4, opnd 0, opnd 0, [[0]], [[0]], [], [], rfl, rfl, rfl, rows_of (by decide +kernel), rows_of (by decide +kernel), rfl, rfl,
    ran_of (by decide +kernel)⟩

theorem meets_TileArithmetic_2 : (program 2 (instr0 0 4 6 0xFFF 0xFFF)).standsAt env0 2 (instr0 0 4 6 0xFFF 0xFFF) = true ∧ env0.img.okSmax (instr0 0 4 6 0xFFF 0xFFF) 0 = true ∧
    ∃ u, ∃ d x rows, env0.operand 4 false 0 = some d ∧ env0.operand 6 false 0 = some x ∧ (program 2 (instr0 0 4 6 0xFFF 0xFFF)).matrix env0 d = .ok rows ∧
      (program 2 (instr0 0 4 6 0xFFF 0xFFF)).putMatrix env0 x (chunks x.d.cols (rows.flatMap (fun r => [f32Max r, f32SumFree 21 (r.map (fun z => f32Exp (f32Sub z (f32Max r))))]))) = .ok u :=
  ⟨by decide +kernel, by decide +kernel, _, opnd 4, opnd 6, [[0]], rfl, rfl, rows_of (by decide +kernel), ran_of (by decide +kernel)⟩

theorem meets_TileArithmetic_3 : (program 2 (instr0 1 4 3 0xFFF 0xFFF)).standsAt env0 2 (instr0 1 4 3 0xFFF 0xFFF) = true ∧ env0.img.okSmax (instr0 1 4 3 0xFFF 0xFFF) 1 = true ∧
    ∃ u, ∃ d x rows pairs, env0.operand 4 false 0 = some d ∧ env0.operand 3 false 0 = some x ∧ (program 2 (instr0 1 4 3 0xFFF 0xFFF)).matrix env0 d = .ok rows ∧ (program 2 (instr0 1 4 3 0xFFF 0xFFF)).matrix env0 x = .ok pairs ∧
      (program 2 (instr0 1 4 3 0xFFF 0xFFF)).putMatrix env0 d (rows.zipIdx.map (fun row => normalise (nthD (pairUp pairs.flatten) row.2 (0, f32One)).1
        (nthD (pairUp pairs.flatten) row.2 (0, f32One)).2 row.1)) = .ok u :=
  ⟨by decide +kernel, by decide +kernel, _, opnd 4, opnd 3, [[0]], [[0, 0]], rfl, rfl, rows_of (by decide +kernel), rows_of (by decide +kernel), ran_of (by decide +kernel)⟩

theorem meets_TileArithmetic_4 : (program 2 (instr0 2 6 3 0xFFF 0xFFF)).standsAt env0 2 (instr0 2 6 3 0xFFF 0xFFF) = true ∧ env0.img.okSmax (instr0 2 6 3 0xFFF 0xFFF) 2 = true ∧
    ∃ u, ∃ d x slots, env0.operand 6 false 0 = some d ∧ env0.operand 3 false 0 = some x ∧ (program 2 (instr0 2 6 3 0xFFF 0xFFF)).matrix env0 x = .ok slots ∧
      (program 2 (instr0 2 6 3 0xFFF 0xFFF)).putMatrix env0 d (chunks d.d.cols ((List.range (x.d.cols / 2)).flatMap
        (fun r => combinePairs (slots.map (fun l => nthD (pairUp l) r (0, 0)))))) = .ok u :=
  ⟨by decide +kernel, by decide +kernel, _, opnd 6, opnd 3, [[0, 0]], rfl, rfl, rows_of (by decide +kernel), ran_of (by decide +kernel)⟩

theorem meets_TileArithmetic_5 : (program 3 (instr0 1 4 1 0xFFF 0xFFF)).standsAt env0 3 (instr0 1 4 1 0xFFF 0xFFF) = true ∧ env0.img.okRot (instr0 1 4 1 0xFFF 0xFFF) = true ∧
    ∃ u, ∃ d x rows ps, env0.operand 4 false 0 = some d ∧ env0.operand 1 false 0 = some x ∧ (program 3 (instr0 1 4 1 0xFFF 0xFFF)).matrix env0 d = .ok rows ∧
      mapRows ((program 3 (instr0 1 4 1 0xFFF 0xFFF)).patterns env0 x) (List.range x.d.rows) = .ok ps ∧
      (program 3 (instr0 1 4 1 0xFFF 0xFFF)).putMatrix env0 d (rows.zipIdx.map (fun row => rotateVec { env0.img.rotary with layers := [0] } 0
        (if 1 = 1 then nthD ps.flatten row.2 0 % 2 ^ 20 else nthD ps.flatten row.2 0) row.1)) = .ok u :=
  ⟨by decide +kernel, by decide +kernel, _, opnd 4, opnd 1, [[0]], [[0]], rfl, rfl, rows_of (by decide +kernel), rows_of (by decide +kernel), ran_of (by decide +kernel)⟩

theorem meets_TileArithmetic_6 : (program 5 (instr0 0 4 1 0xFFF 0xFFF)).standsAt env0 5 (instr0 0 4 1 0xFFF 0xFFF) = true ∧ env0.img.okDqnt (instr0 0 4 1 0xFFF 0xFFF) = true ∧
    ∃ u, ∃ d x rows, env0.operand 4 false 0 = some d ∧ env0.operand 1 false 0 = some x ∧ (program 5 (instr0 0 4 1 0xFFF 0xFFF)).matrix env0 x = .ok rows ∧
      (program 5 (instr0 0 4 1 0xFFF 0xFFF)).putMatrix env0 d rows = .ok u :=
  ⟨by decide +kernel, by decide +kernel, _, opnd 4, opnd 1, [[0]], rfl, rfl, rows_of (by decide +kernel), ran_of (by decide +kernel)⟩

theorem meets_TileArithmetic_7 : (program 8 (instr0 7 4 0 0xFFF 0xFFF)).standsAt env0 8 (instr0 7 4 0 0xFFF 0xFFF) = true ∧ env0.img.okRed (instr0 7 4 0 0xFFF 0xFFF) = true ∧
    ∃ u, ∃ d x rows, env0.operand 4 false 0 = some d ∧ env0.operand 0 false 0 = some x ∧ (program 8 (instr0 7 4 0 0xFFF 0xFFF)).matrix env0 x = .ok rows ∧
      (program 8 (instr0 7 4 0 0xFFF 0xFFF)).putMatrix env0 d (chunks d.d.cols ((if bitOf 7 0 then transpose x.d.cols rows else rows).map (reduce (bitsOf 7 2 1)))) = .ok u :=
  ⟨by decide +kernel, by decide +kernel, _, opnd 4, opnd 0, [[0]], rfl, rfl, rows_of (by decide +kernel), ran_of (by decide +kernel)⟩

theorem meets_TileRows_1 : (program 6 (instr0 0 4 0 1 0xFFF)).standsAt env0 6 (instr0 0 4 0 1 0xFFF) = true ∧ env0.img.okGath (instr0 0 4 0 1 0xFFF) .dest = true ∧
    ∃ u, ∃ d x y l, env0.operand 4 false 0 = some d ∧ env0.operand 0 false 0 = some x ∧ env0.operand 1 false 0 = some y ∧
      mapRows ((program 6 (instr0 0 4 0 1 0xFFF)).patterns env0 y) (List.range y.d.rows) = .ok l ∧
      ∃ z : Nat → State, z 0 = (program 6 (instr0 0 4 0 1 0xFFF)) ∧ z (Nat.min l.flatten.length d.d.rows) = u ∧ ∀ n j, n < d.d.rows → l.flatten[n]? = some j →
        if j = 0xFFFFFFFF then zeroRow env0 d (z n) n = .ok (z (n + 1)) else j < x.d.rows ∧ copyRow env0 x d (z n) j n = .ok (z (n + 1)) := by
  refine ⟨by decide +kernel, by decide +kernel, _, opnd 4, opnd 0, opnd 1, [[0]], rfl, rfl, rfl, rows_of (by decide +kernel),
    fun n => if n = 0 then (program 6 (instr0 0 4 0 1 0xFFF)) else ran (copyRow env0 (opnd 0) (opnd 4) (program 6 (instr0 0 4 0 1 0xFFF)) 0 0), rfl, rfl, fun n j hn hj => ?_⟩
  obtain rfl : n = 0 := Nat.lt_one_iff.mp hn
  cases hj
  exact ⟨by decide, ran_of (by decide +kernel)⟩

theorem meets_TileRows_2 : (program 7 (instr0 0 4 0 1 0xFFF)).standsAt env0 7 (instr0 0 4 0 1 0xFFF) = true ∧ env0.img.okGath (instr0 0 4 0 1 0xFFF) .anyDest = true ∧
    ∃ u, ∃ d x y l, env0.operand 4 false 0 = some d ∧ env0.operand 0 false 0 = some x ∧ env0.operand 1 false 0 = some y ∧
      mapRows ((program 7 (instr0 0 4 0 1 0xFFF)).patterns env0 y) (List.range y.d.rows) = .ok l ∧
      ∃ z : Nat → State, z 0 = (program 7 (instr0 0 4 0 1 0xFFF)) ∧ z (Nat.min l.flatten.length x.d.rows) = u ∧ ∀ n j, n < x.d.rows → l.flatten[n]? = some j →
        if j = 0xFFFFFFFF then z (n + 1) = z n else j < d.d.rows ∧ copyRow env0 x d (z n) n j = .ok (z (n + 1)) := by
  refine ⟨by decide +kernel, by decide +kernel, _, opnd 4, opnd 0, opnd 1, [[0]], rfl, rfl, rfl, rows_of (by decide +kernel),
    fun n => if n = 0 then (program 7 (instr0 0 4 0 1 0xFFF)) else ran (copyRow env0 (opnd 0) (opnd 4) (program 7 (instr0 0 4 0 1 0xFFF)) 0 0), rfl, rfl, fun n j hn hj => ?_⟩
  obtain rfl : n = 0 := Nat.lt_one_iff.mp hn
  cases hj
  exact ⟨by decide, ran_of (by decide +kernel)⟩

theorem meets_TileRows_3 : (program 9 (instr0 0 4 0 0xFFF 0xFFF)).standsAt env0 9 (instr0 0 4 0 0xFFF 0xFFF) = true ∧ env0.img.okMove (instr0 0 4 0 0xFFF 0xFFF) = true ∧
    ∃ u, ∃ d x, env0.operand 4 false 0 = some d ∧ env0.operand 0 false 0 = some x ∧ if x.d.type = d.d.type then
        ∃ z : Nat → State, z 0 = (program 9 (instr0 0 4 0 0xFFF 0xFFF)) ∧ z (Nat.min x.d.rows d.d.rows) = u ∧
          ∀ n, n < Nat.min x.d.rows d.d.rows → copyRow env0 x d (z n) n n = .ok (z (n + 1))
      else ∃ rows, (program 9 (instr0 0 4 0 0xFFF 0xFFF)).matrix env0 x = .ok rows ∧ (program 9 (instr0 0 4 0 0xFFF 0xFFF)).putMatrix env0 d rows = .ok u := by
  refine ⟨by decide +kernel, by decide +kernel, ran (copyRow env0 (opnd 0) (opnd 4) (program 9 (instr0 0 4 0 0xFFF 0xFFF)) 0 0), opnd 4, opnd 0, rfl, rfl,
    fun n => if n = 0 then (program 9 (instr0 0 4 0 0xFFF 0xFFF)) else ran (copyRow env0 (opnd 0) (opnd 4) (program 9 (instr0 0 4 0 0xFFF 0xFFF)) 0 0), rfl, rfl, fun n hn => ?_⟩
  obtain rfl : n = 0 := Nat.lt_one_iff.mp hn
  exact ran_of (by decide +kernel)

theorem meets_TileRows_4 : (program 10 (instr0 0 5 2 2 0xFFF)).standsAt env0 10 (instr0 0 5 2 2 0xFFF) = true ∧ env0.img.okBcmp (instr0 0 5 2 2 0xFFF) = true ∧
    ∃ u, ∃ d x y ra rb, env0.operand 5 false 0 = some d ∧ env0.operand 2 false 0 = some x ∧ env0.operand 2 false 0 = some y ∧
      mapRows ((program 10 (instr0 0 5 2 2 0xFFF)).patterns env0 x) (List.range x.d.rows) = .ok ra ∧ mapRows ((program 10 (instr0 0 5 2 2 0xFFF)).patterns env0 y) (List.range y.d.rows) = .ok rb ∧
      (program 10 (instr0 0 5 2 2 0xFFF)).putRows env0 d 0 (fun st r xs => st.putPatterns env0 d r xs)
        ((ra.map (fun p => rb.map (fun q => ((p.zip q).filter (fun c => c.1 != c.2)).length))).take d.d.rows) = .ok u :=
  ⟨by decide +kernel, by decide +kernel, _, opnd 5, opnd 2, opnd 2, [List.replicate 256 0], [List.replicate 256 0], rfl, rfl, rfl,
    rows_of (by decide +kernel), rows_of (by decide +kernel), ran_of (by decide +kernel)⟩

theorem meets_TileRows_5 : (program 11 (instr0 0 4 0 0xFFF 5 1024)).standsAt env0 11 (instr0 0 4 0 0xFFF 5 1024) = true ∧ env0.img.okTopk (instr0 0 4 0 0xFFF 5 1024) = true ∧
    ∃ u, ∃ d x c rows m, env0.operand 4 false 0 = some d ∧ env0.operand 0 false 0 = some x ∧ env0.operand 5 false 0 = some c ∧
      (program 11 (instr0 0 4 0 0xFFF 5 1024)).matrix env0 x = .ok rows ∧
      (program 11 (instr0 0 4 0 0xFFF 5 1024)).putMatrix env0 d (rows.map (fun r => (topValues (1024 : Word32).toNat (0 == 1) r).map (·.1))) = .ok m ∧
      m.putRows env0 c 0 (fun st r xs => st.putPatterns env0 c r xs)
        ((rows.map (fun r => (topValues (1024 : Word32).toNat (0 == 1) r).map (·.2))).take c.d.rows) = .ok u :=
  ⟨by decide +kernel, by decide +kernel, _, opnd 4, opnd 0, opnd 5, [[0]], _, rfl, rfl, rfl, rows_of (by decide +kernel), ran_of (by decide +kernel),
    ran_of (by decide +kernel)⟩

theorem meets_TileRows_6 : (program 4 (instr0 0 7 0 0xFFF 0xFFF)).standsAt env0 4 (instr0 0 7 0 0xFFF 0xFFF) = true ∧ env0.img.okQnt (instr0 0 7 0 0xFFF 0xFFF) = true ∧
    ∃ u, ∃ d x rows m n, env0.operand 7 false 0 = some d ∧ env0.operand 0 false 0 = some x ∧ (program 4 (instr0 0 7 0 0xFFF 0xFFF)).matrix env0 x = .ok rows ∧
      (program 4 (instr0 0 7 0 0xFFF 0xFFF)).putRows env0 d 0 (putQuant (instr0 0 7 0 0xFFF 0xFFF) env0 d) (rows.take d.d.rows) = .ok m ∧
      n = ((rows.take d.d.rows).flatMap (fun r => (r.take d.d.cols).filter (fun z => v32 z == .nan))).length ∧
      u = if n = 0 then m else m.bump Fld.COR_NAN_COUNT env0.core n :=
  ⟨by decide +kernel, by decide +kernel, _, opnd 7, opnd 0, [[0]], _, _, rfl, rfl, rows_of (by decide +kernel), ran_of (by decide +kernel), rfl, rfl⟩

-- CoreSharing -------------------------------------------------------------------------------------------------------------------------------

/-- A device whose context 0 is latency-critical and context 1 is best-effort, with what a core holds. -/
def shared (c : Core) : State :=
  based { live with ctxs := [((1, 0), ctx0 img0 .ready), ((1, 1), ctx0 { img0 with cls := .be } .ready), ((1, 2), ctx0 img0 .ready)],
                    cores := [(0, c), (1, core0 none)] }

/-- A dispatch of a context to core 0. -/
def disp (n : Nat) : Dispatch := ⟨n, 0, [0], none, [], [], none⟩

theorem meets_CoreSharing_1 : (shared (core0 none)).Calm ∧ (shared (core0 none)).awake = true ∧
    (shared (core0 none)).cores.get? 0 = some (core0 none) ∧ (shared (core0 none)).canDispatch 0 (disp 0) = some 1 ∧
    (∀ l ∈ (disp 0).work, (shared (core0 none)).ownPlace 1 l = true) ∧
    (core0 none).running = none ∧ (core0 none).queue = [] ∧ (core0 none).paused = [] ∧ (shared (core0 none)).ctxClass 1 (disp 0).ctx = .lc :=
  ⟨calm_of (by decide), by decide, rfl, by decide, by decide, rfl, rfl, rfl, rfl⟩

theorem meets_CoreSharing_2 : (shared (core0 (some ⟨disp 1, none, 3, 0⟩))).Calm ∧
    (shared (core0 (some ⟨disp 1, none, 3, 0⟩))).canDispatch 0 (disp 0) = some 1 ∧
    (shared (core0 (some ⟨disp 1, none, 3, 0⟩))).ctxClass 1 (disp 0).ctx = .lc ∧
    (shared (core0 (some ⟨disp 1, none, 3, 0⟩))).ctxClass 1 (disp 1).ctx ≠ .lc := ⟨calm_of (by decide), by decide, rfl, by decide⟩

theorem meets_CoreSharing_3 : (shared (core0 (some ⟨disp 1, none, 3, 0⟩))).canDispatch 0 (disp 1) = some 1 ∧
    (shared (core0 (some ⟨disp 1, none, 3, 0⟩))).ctxClass 1 (disp 1).ctx ≠ .lc ∧
    (shared (core0 (some ⟨disp 0, none, 3, 0⟩))).canDispatch 0 (disp 2) = some 1 ∧
    (shared (core0 (some ⟨disp 0, none, 3, 0⟩))).ctxClass 1 (disp 0).ctx = .lc := ⟨by decide, by decide, by decide, rfl⟩

/-- Core 0 runs context 0, and context 2 waits. -/
def turns : Core := { core0 (some ⟨disp 0, none, 3, 0⟩) with queue := [disp 2], lastLc := 0 }

theorem meets_CoreSharing_4 : (shared turns).Calm ∧ (shared turns).awake = true ∧ (shared turns).cores.get? 0 = some turns ∧ turns.owner = some 1 ∧
    turns.running = some ⟨disp 0, none, 3, 0⟩ ∧ turns.stopping = false ∧ turns.clearing = false ∧ turns.queue = [disp 2] ∧ turns.paused = [] ∧
    (shared turns).ctxClass 1 2 = .lc ∧ (shared turns).ctxClass 1 0 = .lc ∧ turns.lastLc = 0 ∧ (2 : Nat) ≠ 0 :=
  ⟨calm_of (by decide), by decide, rfl, rfl, rfl, rfl, rfl, rfl, rfl, rfl, rfl, rfl, by decide⟩

theorem meets_CoreSharing_5 : (shared (core0 (some ⟨disp 0, none, 3, 0⟩))).Calm ∧
    (core0 (some ⟨disp 0, none, 3, 0⟩)).owner = some 1 ∧ (core0 (some ⟨disp 0, none, 3, 0⟩)).queue = [] ∧
    (core0 (some ⟨disp 0, none, 3, 0⟩)).paused = [] ∧ (shared (core0 (some ⟨disp 0, none, 3, 0⟩))).ctxClass 1 0 = .lc :=
  ⟨calm_of (by decide), rfl, rfl, rfl, rfl⟩

-- ContextLoads -----------------------------------------------------------------------------------------------------------------------------

/-- A device that loads context 0 of an image, for a command that waits. -/
def loading (i : CtxImage) : State := { cored img0 none with ctxs := [((1, 0), { ctx0 i .loading with asked := [sub.owner] })] }

theorem meets_ContextLoads_1 : ∃ x, (loading img0).Calm ∧ sub.sq = some 0 ∧ (loading img0).ctx 1 0 = some x ∧ (loading img0).awake = true ∧
    (loading img0).reqs = [] ∧ (loading img0).expertWait = [] ∧ x.state = .loading ∧ x.held = [] ∧ x.asked = [sub.owner] ∧
    (loading img0).Open sub.fn 0 ∧ x.img.progOk ((loading img0).areaBytesOf 1) = true ∧ (loading img0).weightKey 1 x.img = true ∧
    x.blocks.length = x.img.weights.length ∧ (loading img0).coresOf 1 = [0, 1] :=
  ⟨_, calm_of (by decide), rfl, rfl, by decide, rfl, rfl, rfl, rfl, rfl, open_of (by decide), by decide, by decide, rfl, by decide⟩

/-- An image whose program has one instruction, which has the reserved opcode 0. -/
def unsound : CtxImage := { img0 with prog := [0], progShare := 16, progBase := systemWords }

theorem meets_ContextLoads_2 : ∃ x, (loading unsound).Calm ∧ sub.sq = some 0 ∧ (loading unsound).ctx 1 0 = some x ∧
    (loading unsound).awake = true ∧ (loading unsound).reqs = [] ∧ (loading unsound).expertWait = [] ∧ x.state = .loading ∧ x.held = [] ∧
    x.asked = [sub.owner] ∧ (loading unsound).Open sub.fn 0 ∧ x.img.progOk ((loading unsound).areaBytesOf 1) = false :=
  ⟨_, calm_of (by decide), rfl, rfl, by decide, rfl, rfl, rfl, rfl, rfl, open_of (by decide), by decide⟩

theorem meets_ContextLoads_3 : ∃ x, State.Calm { live with ctxs := [((1, 0), ctx0 img0 .down)] } ∧
    { live with ctxs := [((1, 0), ctx0 img0 .down)] }.Takes sub (.ctxReload 0) ∧
    { live with ctxs := [((1, 0), ctx0 img0 .down)] }.ctx 1 0 = some x ∧ x.state = .down ∧ live.subPart sub = 1 :=
  ⟨_, calm_of (by decide), takes_of (by decide +kernel), rfl, rfl, rfl⟩

theorem meets_ContextLoads_4 : ∃ x, (cored img0 none).Calm ∧ (cored img0 none).Takes sub (.ctxReload 0) ∧ (cored img0 none).ctx 1 0 = some x ∧
    x.state = .ready ∧ (cored img0 none).subPart sub = 1 := ⟨_, calm_of (by decide), takes_of (by decide +kernel), rfl, rfl, rfl⟩

theorem meets_ContextLoads_5 : ∃ x, State.Calm { live with ctxs := [((1, 0), ctx0 img0 .loading)] } ∧
    { live with ctxs := [((1, 0), ctx0 img0 .loading)] }.Takes sub (.ctxReload 0) ∧
    { live with ctxs := [((1, 0), ctx0 img0 .loading)] }.ctx 1 0 = some x ∧ x.state = .loading ∧ live.subPart sub = 1 :=
  ⟨_, calm_of (by decide), takes_of (by decide +kernel), rfl, rfl, rfl⟩

-- Barriers -----------------------------------------------------------------------------------------------------------------------------------

/-- A program of context 0 on core 0 of a group. -/
def grouped (g : List Nat) (l : Option Nat) (bar : Option TInstr) : Run := ⟨⟨0, 0, g, l, [], [], none⟩, bar, 0, 0⟩

/-- A device that runs it on core 0 at an instruction, and another program on core 1. -/
def meeting (i : TInstr) (r : Run) (r1 : Option Run) : State :=
  based { cored img0 none with cores := [(0, coreAt (some r) 0x0C i), (1, coreAt r1 0x0C i)] }

/-- A barrier's instruction: barrier 15. -/
def bar (mode dst a : Nat) : TInstr := ⟨mode, false, false, false, false, dst, a, 0xFFF, 0xFFF, 0, 15, 0⟩

/-- What runs on core 0. -/
def envOf (e : Nat) (r : Run) : Env := ⟨e, 1, r, img1⟩

/-- A device whose program on a core is at a barrier. -/
def atBar (s : State) (e : Nat) (i : TInstr) : State := s.modCore e (fun c => { c with running := c.running.map (fun r => { r with bar := some i }) })

theorem meeting_meets (i : TInstr) (r : Run) (h : i.last = false) (hb : r.bar = none) (hd : r.d.ctx = 0) : (meeting i r none).Calm ∧
    (meeting i r none).awake = true ∧ (meeting i r none).issuer 0 = some (envOf 0 r) ∧ (i.last = true → (meeting i r none).Alone 0) ∧
    (meeting i r none).bars.get? ((envOf 0 r).barKey i) = none := by
  refine ⟨calm_of rfl, rfl, ?_, fun g => by (rw [h] at g; cases g), rfl⟩
  obtain ⟨⟨c, en, g, l, w, a, sl⟩, b, pc, reps⟩ := r
  cases hb
  cases hd
  rfl

/-- One core of a group of its own at a sync. -/
theorem meets_Barriers_1 : ∃ x, (meeting (bar 0 0xFFF 0xFFF) (grouped [0] none none) none).standsAt (envOf 0 (grouped [0] none none)) 0x0C
      (bar 0 0xFFF 0xFFF) = true ∧ (grouped [0] none none).reps = 0 ∧ (bar 0 0xFFF 0xFFF).count = 0 ∧
    (atBar (meeting (bar 0 0xFFF 0xFFF) (grouped [0] none none) none) 0 (bar 0 0xFFF 0xFFF)).env 0 = some x ∧
    (envOf 0 (grouped [0] none none)).img.okSync (bar 0 0xFFF 0xFFF) = true := ⟨_, by decide +kernel, rfl, rfl, rfl, by decide⟩

theorem meets_Barriers_2 : (meeting (bar 0 0xFFF 0xFFF) (grouped [0, 1] none none) none).standsAt (envOf 0 (grouped [0, 1] none none)) 0x0C
      (bar 0 0xFFF 0xFFF) = true ∧ 0 ≠ 1 ∧
    (meeting (bar 0 0xFFF 0xFFF) (grouped [0, 1] none none) none).waiterAt 1 0 ((envOf 0 (grouped [0, 1] none none)).barKey (bar 0 0xFFF 0xFFF)) 1 =
      none := ⟨by decide +kernel, by decide, rfl⟩

/-- The state that a store of a barrier's data answers. -/
theorem meets_Barriers_3 (m : Nat) (hm : m = 1 ∨ m = 2) : ∃ x bs u,
    (meeting (bar m 4 0) (grouped [0] none none) none).standsAt (envOf 0 (grouped [0] none none)) 0x0C (bar m 4 0) = true ∧
    (envOf 0 (grouped [0] none none)).img.okExchange (bar m 4 0) m = true ∧
    (atBar (meeting (bar m 4 0) (grouped [0] none none) none) 0 (bar m 4 0)).env 0 = some x ∧
    (atBar (meeting (bar m 4 0) (grouped [0] none none) none) 0 (bar m 4 0)).barData x (bar m 4 0) = .ok bs ∧
    (atBar (meeting (bar m 4 0) (grouped [0] none none) none) 0 (bar m 4 0)).barStore x (bar m 4 0) 0 bs = .ok u := by
  have one : ∀ (s : State) (x : Env) (i : TInstr) (bs : List Byte), answers (s.barStore x i 0 bs) = true → s.barStore x i 0 bs = .ok (ran (s.barStore x i 0 bs)) :=
    fun s x i bs h => ran_of h
  rcases hm with rfl | rfl
  · exact ⟨_, [0, 0, 0, 0], _, by decide +kernel, by decide +kernel, rfl, by rfl, one _ _ _ _ (by decide +kernel)⟩
  · exact ⟨_, [0, 0, 0, 0], _, by decide +kernel, by decide +kernel, rfl, by rfl, one _ _ _ _ (by decide +kernel)⟩

theorem meets_Barriers_4 : ∃ x bs,
    (meeting (bar 1 4 0) (grouped [0, 1] (some 1) none) none).standsAt (envOf 0 (grouped [0, 1] (some 1) none)) 0x0C (bar 1 4 0) = true ∧
    (envOf 0 (grouped [0, 1] (some 1) none)).img.okExchange (bar 1 4 0) 1 = true ∧
    (atBar (meeting (bar 1 4 0) (grouped [0, 1] (some 1) none) none) 0 (bar 1 4 0)).env 0 = some x ∧
    (atBar (meeting (bar 1 4 0) (grouped [0, 1] (some 1) none) none) 0 (bar 1 4 0)).barData x (bar 1 4 0) = .ok bs ∧
    (meeting (bar 1 4 0) (grouped [0, 1] (some 1) none) none).waiterAt 1 0 ((envOf 0 (grouped [0, 1] (some 1) none)).barKey (bar 1 4 0)) 1 = none :=
  ⟨_, [0, 0, 0, 0], by decide +kernel, by decide +kernel, rfl, by rfl, rfl⟩

/-- Core 1 waits at a barrier for core 0. -/
def waited : State :=
  { meeting (bar 0 0xFFF 0xFFF) (grouped [0, 1] none none) (some (grouped [0, 1] none (some (bar 0 0xFFF 0xFFF)))) with
    bars := [((envOf 0 (grouped [0, 1] none none)).barKey (bar 0 0xFFF 0xFFF), ⟨[1], []⟩)] }

theorem meets_Barriers_6 : ∃ v y, waited.Calm ∧ waited.awake = true ∧ waited.issuer 0 = some v ∧
    waited.standsAt v 0x0C (bar 0 0xFFF 0xFFF) = true ∧ v.run.reps = 0 ∧ v.img.okSync (bar 0 0xFFF 0xFFF) = true ∧ v.run.d.group = [0, 1] ∧
    waited.bars.get? (v.barKey (bar 0 0xFFF 0xFFF)) = some ⟨[1], []⟩ ∧
    waited.waiterAt v.part v.run.d.ctx (v.barKey (bar 0 0xFFF 0xFFF)) 1 = some (y, bar 0 0xFFF 0xFFF) ∧ y.run.reps = 0 ∧
    y.run.d.group = [0, 1] ∧ waited.env 1 = some y :=
  ⟨_, _, calm_of (by decide), by decide, rfl, by decide +kernel, rfl, by decide, rfl, rfl, rfl, rfl, rfl, rfl⟩

/-- Core 0 waits at a barrier for core 1, which does not come. -/
def late : State := meeting (bar 0 0xFFF 0xFFF) (grouped [0, 1] none (some (bar 0 0xFFF 0xFFF))) none

theorem meets_Barriers_7 : ∃ v c, late.Idle ∧ late.awake = true ∧ late.env 0 = some v ∧ v.run.bar = some (bar 0 0xFFF 0xFFF) ∧
    late.flag Fld.COR_FAULT_VALID 0 = false ∧ late.ctx v.part v.run.d.ctx = some c ∧ c.state = .ready ∧
    (late.coresOf v.part).contains 0 = true ∧ late.Alone 0 ∧ 0 < 16 ∧ v.run.d.ctx < 64 := by
  refine ⟨_, _, idle_of (by decide), by decide, rfl, rfl, by decide, rfl, rfl, by decide, fun c h => ?_, by decide, by decide⟩
  cases h
  exact ⟨rfl, rfl⟩

end Sys2Proof.Tests
end

