-- ==== Sys2Proof/Tests/MeetsHost.lean ====
section
/-!
SUPPORT. Witnesses of the statements on queues, registers, functions and attestation.
-/

namespace Sys2Proof.Tests

-- Each witness is checked before the next one is read: a kernel evaluation that waits for the ones before it holds a thread of its own.
set_option Elab.async false

open Sys2Proof Sys2Proof.Machine

-- Doorbells -------------------------------------------------------------------------------------------------------------------------

theorem meets_Doorbells_1 : ∃ x, live.Calm ∧ live.doeUp pf = true ∧ 0 < 64 ∧ 3 = 65539 % 65536 ∧ live.sq pf 0 = some x ∧ x.on = true ∧
    3 < x.size ∧ (x.tail + x.size - live.sqHead pf 0) % x.size ≤ (3 + x.size - live.sqHead pf 0) % x.size :=
  ⟨_, calm_of (by decide), by decide, by decide, by decide, rfl, rfl, by decide, by decide⟩

theorem meets_Doorbells_2 : live.Calm ∧ live.doeUp pf = true ∧ 63 < 64 ∧ 0 = 65536 % 65536 ∧
    (∀ x : Sq, live.sq pf 0 = some x → x.on = false ∨ x.size ≤ 0 ∨
      (0 + x.size - live.sqHead pf 0) % x.size < (x.tail + x.size - live.sqHead pf 0) % x.size) ∧ live.sq pf 63 = none := by
  refine ⟨calm_of (by decide), by decide, by decide, by decide, fun x h => ?_, rfl⟩
  cases h
  exact .inr (.inr (by decide))

/-- A device whose completion queue 0 of PF0 holds four entries. -/
def filled : State := { live with cqs := [((0, 0), ⟨true, false, 0, 0, 4, 4, 4, 0, [], 0, false⟩)] }

theorem meets_Doorbells_3 : ∃ x, filled.Calm ∧ filled.doeUp pf = true ∧ 0 < 64 ∧ 3 = 3 % 65536 ∧ filled.cq pf 0 = some x ∧ x.on = true ∧
    3 < x.size ∧ (3 + x.size - x.head) % x.size ≤ x.held ∧ x.waiting = [] :=
  ⟨_, calm_of (by decide), by decide, by decide, by decide, rfl, rfl, by decide, by decide, rfl⟩

theorem meets_Doorbells_5 : live.Calm ∧ live.doeUp pf = true ∧ 0 < 64 ∧ 3 = 3 % 65536 ∧
    (∀ x : Cq, live.cq pf 0 = some x → x.on = false ∨ x.size ≤ 3 ∨ x.held < (3 + x.size - x.head) % x.size) := by
  refine ⟨calm_of (by decide), by decide, by decide, by decide, fun x h => ?_⟩
  cases h
  exact .inr (.inr (by decide))

-- QueueEnables ----------------------------------------------------------------------------------------------------------------------

theorem meets_QueueEnables_1 : live.Calm ∧ live.doeUp pf = true ∧ 63 < 64 ∧ 0xC000FFFF < 2 ^ 32 ∧ bitOf 0xC000FFFF 31 = true ∧
    live.sqOn pf 63 = false ∧ live.cqOn pf (bitsOf 0xC000FFFF 21 16) = true :=
  ⟨calm_of (by decide), by decide, by decide, by decide, by decide, by decide, by decide⟩

theorem meets_QueueEnables_2 : live.Calm ∧ live.doeUp pf = true ∧ 63 < 64 ∧ 0x80010003 < 2 ^ 32 ∧ bitOf 0x80010003 31 = true ∧
    live.sqOn pf 63 = false ∧ live.cqOn pf (bitsOf 0x80010003 21 16) = false :=
  ⟨calm_of (by decide), by decide, by decide, by decide, by decide, by decide, by decide⟩

theorem meets_QueueEnables_3 : ∃ x, live.Calm ∧ live.doeUp pf = true ∧ 0 < 64 ∧ 0 < 2 ^ 32 ∧ bitOf 0 31 = false ∧ live.sq pf 0 = some x :=
  ⟨_, calm_of (by decide), by decide, by decide, by decide, by decide, rfl⟩

theorem meets_QueueEnables_4 : live.Calm ∧ live.doeUp pf = true ∧ 63 < 64 ∧ 0x80000000 < 2 ^ 32 ∧ bitOf 0x80000000 31 = true ∧
    live.cqOn pf 63 = false := ⟨calm_of (by decide), by decide, by decide, by decide, by decide, by decide⟩

/-- A device whose completion queue 0 counts two unsignalled entries. -/
def coalescing : State := { live with cqs := [((0, 0), ⟨true, false, 5, 10, 4, 2, 2, 0, [], 2, true⟩)] }

theorem meets_QueueEnables_5 : ∃ x, coalescing.Calm ∧ coalescing.doeUp pf = true ∧ coalescing.cq pf 0 = some x ∧ x.on = true ∧
    x.timer = true ∧ 0 < x.unsignalled := ⟨_, calm_of (by decide), by decide, rfl, rfl, rfl, by decide⟩

-- RegisterWrites ----------------------------------------------------------------------------------------------------------------------

/-- SES_PARK_POLICY of partition 1 in the map of 24. -/
def policyAddr : Nat := 0x020144

theorem meets_RegisterWrites_1 : ∃ h, live.Calm ∧ live.doeUp pf = true ∧ regAt policyAddr = some h ∧ h.fits policyAddr 32 = true ∧
    live.sees pf h = true ∧ h.mayWrite pf = true ∧ 0xFFFFFFFF < 2 ^ 32 ∧ h.row.cls.isPmc = false ∧
    h.row.cls ∉ ([.hifSqCfg, .hifCqCfg, .lnkRekey, .bootCtl, .egrCfg, .egrGate, .attCapCtl, .corFault] : List RegClass) ∧
    live.captureBarred pf (h.reg pf) = false :=
  ⟨_, calm_of (by decide), by decide, rfl, by decide, by decide, by decide, by decide, rfl, by decide, by decide⟩

/-- COR_FAULT of core 1 in the map of 24. -/
def faultAddr : Nat := 0x061010

theorem meets_RegisterWrites_5 : ∃ h, (cored img0 none).Calm ∧ (cored img0 none).doeUp pf = true ∧ regAt faultAddr = some h ∧
    h.fits faultAddr 64 = true ∧ (cored img0 none).sees pf h = true ∧ h.row.cls = .corFault ∧ h.off = 0 ∧ 2 ^ 63 < 2 ^ 64 ∧
    bitOf (2 ^ 63) 63 = true ∧ bitOf (2 ^ 63 - 1) 63 = false :=
  ⟨_, calm_of (by decide), by decide, rfl, by decide, by decide, rfl, rfl, by decide, by decide, by decide⟩

theorem meets_RegisterWrites_2 : RegClass.hifErr ∈ ([.hifErr, .bndCfg, .memCfg, .secAlarmPolicy] : List RegClass) ∧
    Fld.HIF_ERR_DB_ERR ∈ RegClass.hifErr.fields ∧ Fld.HIF_ERR_DB_ERR.hi < 32 := ⟨by decide, by decide, by decide⟩

theorem meets_RegisterWrites_3 : regAt 0x0FFFFC = none ∧ regAt 0x400000 = none ∧ 31 < 32 ∧ 2 % 4 ≠ 0 ∧ 4 % 8 ≠ 0 :=
  ⟨by rfl, by rfl, by decide, by decide, by decide⟩

/-- A device in which virtual function 2 of controller 0 is partition 1's. -/
def withVf : State := live.setReg ⟨.hifVfMap, 1, 0⟩ 0x21

/-- The virtual function 2 of controller 0. -/
def vf2 : Fn := ⟨0, 2⟩

theorem meets_RegisterWrites_6 : ∃ h, withVf.Calm ∧ withVf.doeUp vf2 = true ∧ regAt 0x0B0040 = some h ∧ h.row.cls = .memCfg ∧ vf2.isPf = false :=
  ⟨_, calm_of (by decide), by decide, rfl, rfl, rfl⟩

theorem meets_RegisterWrites_4 : ∃ h, withVf.Calm ∧ withVf.doeUp vf2 = true ∧ vf2.isPf = false ∧ pf.isPf = true ∧
    regAt 0x020140 = some h ∧ withVf.sees vf2 h = false :=
  ⟨_, calm_of (by decide), by decide, rfl, rfl, rfl, by decide⟩

-- FunctionResets ------------------------------------------------------------------------------------------------------------------------

theorem meets_FunctionResets_1 : live.Idle ∧ live.doeUp pf = true ∧ withVf.Idle ∧ withVf.doeUp vf2 = true :=
  ⟨idle_of (by decide), by decide, idle_of (by decide), by decide⟩

theorem meets_FunctionResets_2 : (starting 4).Idle ∧ 1 < 2 ∧ (starting 4).perst 1 = false ∧ (starting 4).pcieUp = false :=
  ⟨idle_of (by decide), by decide, by decide, by decide⟩

theorem meets_FunctionResets_3 : live.Idle ∧ 0 < 2 ∧ live.perst 0 = false ∧ live.pcieUp = true ∧ live.present ⟨0, 0⟩ = true :=
  ⟨idle_of (by decide), by decide, by decide, by decide, by decide⟩

theorem meets_FunctionResets_4 : (live.setPerst 1 true).Idle ∧ 1 < 2 ∧ (live.setPerst 1 true).perst 1 = true :=
  ⟨idle_of (by decide), by decide, by decide⟩

theorem meets_FunctionResets_5 : live.Idle ∧ sub.sq = some 0 ∧ 0 < 64 ∧ live.doeUp sub.fn = true ∧ live.subPart sub < 16 ∧ live.Open sub.fn 0 :=
  ⟨idle_of (by decide), rfl, by decide, by decide, by decide, open_of (by decide)⟩

-- Attestation ------------------------------------------------------------------------------------------------------------------------------

/-- A device that has quoted for PF0's bounce keys. -/
def asked : State := { live with bounce := [(0, ⟨some 1, false, 0, 0, []⟩)] }

theorem meets_Attestation : live.Calm ∧ live.doeUp pf = true ∧ asked.Calm ∧ asked.doeUp pf = true ∧ (asked.bounceOf pf).quote ≠ none :=
  ⟨calm_of (by decide), by decide, calm_of (by decide), by decide, by decide⟩

end Sys2Proof.Tests
end

