-- ==== Sys2Proof/Tests/MeetsStart.lean ====
section
/-!
SUPPORT. Witnesses of the statements on the start, power, errors and alarms: states and operands that meet the hypotheses of each clause.
-/

namespace Sys2Proof.Tests

-- Each witness is checked before the next one is read: a kernel evaluation that waits for the ones before it holds a thread of its own.
set_option Elab.async false

open Sys2Proof Sys2Proof.Machine

-- StartFirstSteps -----------------------------------------------------------------------------------------------------------------

/-- An image without records. -/
def image0 : ConfigImage := ⟨true, 0x2640, 1, 0, [], [], [], none, [], 1⟩

theorem meets_StartFirstSteps_1 : (starting 0).Calm ∧ (starting 0).Due 0 := ⟨calm_of (by decide), due_of (by decide)⟩

theorem meets_StartFirstSteps_2 : (starting 1).Calm ∧ (starting 1).Due 1 ∧ (starting 1).sec.spent = false ∧
    (starting 1).sec.fuses = Fuses.blank := ⟨calm_of (by decide), due_of (by decide), rfl, rfl⟩

theorem meets_StartFirstSteps_3 : (starting 2).Calm ∧ (starting 2).Due 2 ∧ FwSlot.empty.present = false ∧
    (⟨true, 0, 0x2640, 128, 0, 1, ⟨[], [], []⟩⟩ : FwSlot).present = true ∧ (starting 2).slotFails ⟨true, 0, 0x2640, 128, 0, 1, ⟨[], [], []⟩⟩ = 0 :=
  ⟨calm_of (by decide), due_of (by decide), rfl, rfl, by decide⟩

theorem meets_StartFirstSteps_4 : (starting 3).Calm ∧ (starting 3).Due 3 ∧ (starting 3).boot.unconf = false ∧
    (if (starting 3).boot.copyB then (none : Option ConfigImage) else some image0) = some image0 ∧ (starting 3).imageOk image0 = true :=
  ⟨calm_of (by decide), due_of (by decide), rfl, rfl, by decide⟩

theorem meets_StartFirstSteps_5 : (starting 4).Calm ∧ (starting 4).Due 4 ∧ (starting 4).boot.image = none :=
  ⟨calm_of (by decide), due_of (by decide), rfl⟩

/-- A device at S04 with an image in use. -/
def withImage : State :=
  { (starting 4).setFld Fld.CMP_SELF_FABRIC 5 with boot := { (starting 4).boot with image := some image0 }, sec := { Sec.reset with fuses := ⟨7, 64, 0x3FFFF, 0, 0, 0⟩ } }

theorem meets_StartFirstSteps_6 : ∃ c, withImage.Calm ∧ withImage.Due 4 ∧ withImage.boot.image = some image0 ∧ image0.records = [] ∧
    (withImage.loadSettings Field.settable image0.settings).loadLinks image0.links = c ∧ c.plumb withImage.promised c.nextPlaces = none :=
  ⟨_, calm_of (by decide), due_of (by decide), rfl, rfl, rfl, by decide +kernel⟩

theorem meets_StartFirstSteps_7 : (starting 5).Calm ∧ (starting 5).Due 5 ∧ 31 < 32 ∧ 7 < 8 ∧ (starting 5).pins.perst0 = false ∧
    bitOf (starting 5).boot.straps 0 = false := ⟨calm_of (by decide), due_of (by decide), by decide, by decide, rfl, by decide⟩

theorem meets_StartFirstSteps_8 : (starting 6).Calm ∧ (starting 6).Due 6 := ⟨calm_of (by decide), due_of (by decide)⟩

/-- A device at S07 in its third alternative rate. -/
def slowest : State := { starting 7 with boot := { (starting 7).boot with alts := [(7, 3)] } }

theorem meets_StartFirstSteps_9 : slowest.Calm ∧ slowest.Due 7 ∧ slowest.boot.alts.getD 7 0 < 4 ∧ slowest.sec.fuses.pkgGib < 256 :=
  ⟨calm_of (by decide), due_of (by decide), by decide, by decide⟩

-- StartLastSteps ------------------------------------------------------------------------------------------------------------------

/-- A device at S08 whose fuses name all 18 cores good. -/
def good18 : State := { starting 8 with sec := { (starting 8).sec with fuses := ⟨7, 64, 0x3FFFF, 0, 0, 0⟩ } }

theorem meets_StartLastSteps_1 : ∃ on : List Nat, good18.Calm ∧ good18.Due 8 ∧
    on = (((List.range 18).filter (fun c => bitOf good18.sec.fuses.goodCores c && !(good18.boot.badCores.contains c))).filter
      (fun c => (testOf [] c).ok)).take 16 ∧ on ≠ [] := ⟨_, calm_of (by decide), due_of (by decide), rfl, by decide⟩

theorem meets_StartLastSteps_2 : (starting 9).Calm ∧ (starting 9).Due 9 := ⟨calm_of (by decide), due_of (by decide)⟩

/-- A NAND section: two channels, timing at the least values of R404. -/
def nand0 : NandGeom := ⟨3, 1, 1, 4, 100, 100, 16384, 1024, 0, 100, nandRanges.map (fun x => x.1)⟩

/-- A device at S10 whose image describes NAND. -/
def withNand : State :=
  { starting 10 with boot := { (starting 10).boot with image := some { image0 with nand := some nand0 } } }

theorem meets_StartLastSteps_3 : withNand.Calm ∧ withNand.Due 10 ∧
    withNand.boot.image = some { image0 with nand := some nand0 } ∧ withNand.qry.left = false ∧
    withNand.boot.alts.getD 10 0 = 0 ∧ (⟨true, true, true, false, []⟩ : MountFind).root = false :=
  ⟨calm_of (by decide), due_of (by decide), rfl, rfl, rfl, rfl⟩

/-- A parked session without prefix. -/
def parked1 : Session := { Session.free with state := .parked, part := 1 }

/-- A device at S11 with one session in the journal's mirror. -/
def mirrored : State :=
  { starting 11 with mirror := [⟨1, 9, 1, parked1⟩], regs := [(⟨.memPartMortar, 1, 0⟩, 0x100000000000), (⟨.schPartCores, 1, 0⟩, 3)] }

theorem meets_StartLastSteps_4 : ∃ n u, mirrored.Calm ∧ mirrored.Due 11 ∧ mirrored.boot.alts.getD 11 0 ≠ 1 ∧
    mirrored.mirror = [⟨1, 9, 1, parked1⟩] ∧ parked1.state = .parked ∧ parked1.pfxTiles = 0 ∧
    mirrored.allocMor parked1.part ⟨parked1.part, .priv, 0, 9, []⟩ = some (n, u) :=
  ⟨_, _, calm_of (by decide), due_of (by decide), by decide, rfl, rfl, rfl, rfl⟩

theorem meets_StartLastSteps_5 : (starting 12).Calm ∧ (starting 12).Due 12 := ⟨calm_of (by decide), due_of (by decide)⟩

theorem meets_StartLastSteps_6 : (starting 13).Calm ∧ (starting 13).Due 13 := ⟨calm_of (by decide), due_of (by decide)⟩

/-- A device at S14 with an empty plan to come. -/
def withPlan : State :=
  { ((starting 14).setFld Fld.MEM_CAP_STRIPES 65536).setFld Fld.CMP_SELF_FABRIC 5 with boot := { (starting 14).boot with nextPlan := some ⟨[], []⟩ } }

theorem meets_StartLastSteps_7 : withPlan.Calm ∧ withPlan.Due 14 ∧ withPlan.boot.unconf = false ∧ withPlan.sec.marks = [] ∧
    withPlan.boot.alts.getD 11 0 ≠ 1 ∧ withPlan.ctxs = [] ∧ withPlan.boot.nextPlan = some ⟨[], []⟩ ∧
    withPlan.plumb (withPlan.actual true) withPlan.nextPlaces = none :=
  ⟨calm_of (by decide), due_of (by decide), rfl, rfl, by decide, rfl, rfl, by decide +kernel⟩

theorem meets_StartLastSteps_8 : (starting 15).Calm ∧ (starting 15).Due 15 ∧ (starting 15).waitS15 = [] :=
  ⟨calm_of (by decide), due_of (by decide), rfl⟩

-- PowerAndReset ---------------------------------------------------------------------------------------------------------------------

/-- A device that is ready with changed pins. -/
def pinned (busy held low : Bool) : State := { live with pins := { live.pins with xspiBusy := busy, resetHeld := held, sysReset := low } }

theorem meets_PowerAndReset_1 : State.reset.Calm ∧ State.reset.boot.phase = .off := ⟨calm_of (by decide), rfl⟩

theorem meets_PowerAndReset_2 : live.Calm ∧ live.boot.phase ≠ .off := ⟨calm_of (by decide), by decide⟩

theorem meets_PowerAndReset_3 : live.Calm ∧ live.boot.phase ≠ .off ∧ live.boot.phase ≠ .reset ∧ live.pins.xspiBusy = false ∧
    live.dumpHolds = false := ⟨calm_of (by decide), by decide, by decide, rfl, by decide⟩

theorem meets_PowerAndReset_4 : (pinned true false false).Calm ∧ (pinned true false false).boot.phase ≠ .off ∧
    (pinned true false false).boot.phase ≠ .reset ∧
    ((pinned true false false).pins.xspiBusy = true ∨ (pinned true false false).dumpHolds = true) :=
  ⟨calm_of (by decide), by decide, by decide, .inl rfl⟩

/-- A device held in reset. -/
def inReset : State := { pinned false false true with boot := { live.boot with phase := .reset } }

theorem meets_PowerAndReset_5 : inReset.Calm ∧ inReset.boot.phase ≠ .off ∧ inReset.pins.sysReset = true ∧ inReset.pins.resetHeld = false :=
  ⟨calm_of (by decide), by decide, rfl, rfl⟩

theorem meets_PowerAndReset_6 : (pinned true false false).Calm ∧ (pinned true false false).pins.resetHeld = false :=
  ⟨calm_of (by decide), rfl⟩

theorem meets_PowerAndReset_7 : (pinned true true true).Calm ∧ (pinned true true true).pins.resetHeld = true ∧
    (pinned true true true).pins.sysReset = true ∧ (pinned true true true).dumpHolds = false :=
  ⟨calm_of (by decide), rfl, rfl, by decide⟩

/-- A frozen device whose dump is being copied. -/
def frozen (held low : Bool) : State := { pinned false held low with err := { Err.reset with frozen := true, order := 5 } }

theorem meets_PowerAndReset_8 : (frozen true true).Calm ∧ (frozen true true).err.frozen = true ∧ (frozen true true).pins.xspiBusy = false ∧
    (frozen true true).pins.resetHeld = true ∧ (frozen true true).pins.sysReset = true := ⟨calm_of (by decide), rfl, rfl, rfl, rfl⟩

-- ClockSteps -------------------------------------------------------------------------------------------------------------------------

/-- A device whose course 2 has a state, with courses 0 and 1 at full speed. -/
def clocked (c : Course) : State := { live with courses := [(0, ⟨0, false, 0, 0, 0, false⟩), (1, ⟨0, false, 0, 0, 0, false⟩), (2, c)] }

theorem meets_ClockSteps_1 : (clocked ⟨1, false, 1, 0, 1, false⟩).Calm ∧ (clocked ⟨1, false, 1, 0, 1, false⟩).awake = true ∧
    (clocked ⟨1, false, 1, 0, 1, false⟩).courses.get? 2 = some ⟨1, false, 1, 0, 1, false⟩ ∧ 1 < 2 :=
  ⟨calm_of (by decide), by decide, rfl, by decide⟩

theorem meets_ClockSteps_3 : (clocked ⟨2, false, 2, 0, 2, false⟩).Calm ∧ (clocked ⟨2, false, 2, 0, 2, false⟩).awake = true ∧
    (clocked ⟨2, false, 2, 0, 2, false⟩).courses.get? 2 = some ⟨2, false, 2, 0, 2, false⟩ ∧ 2 ≤ 2 :=
  ⟨calm_of (by decide), by decide, rfl, by decide⟩

theorem meets_ClockSteps_4 : (clocked ⟨1, false, 1, 0, 1, false⟩).Calm ∧ (clocked ⟨1, false, 1, 0, 1, false⟩).awake = true ∧
    (clocked ⟨1, false, 1, 0, 1, false⟩).courses.get? 2 = some ⟨1, false, 1, 0, 1, false⟩ ∧ 0 < 1 :=
  ⟨calm_of (by decide), by decide, rfl, by decide⟩

theorem meets_ClockSteps_5 : (clocked ⟨1, false, 0, 1, 1, false⟩).Calm ∧ (clocked ⟨1, false, 0, 1, 1, false⟩).awake = true ∧
    (clocked ⟨1, false, 0, 1, 1, false⟩).courses.get? 2 = some ⟨1, false, 0, 1, 1, false⟩ ∧ 2 < 3 ∧
    (∀ (k : Nat) (d : Course), k < 2 → (clocked ⟨1, false, 0, 1, 1, false⟩).courses.get? k = some d → d.power = 0) := by
  refine ⟨calm_of (by decide), by decide, rfl, by decide, fun k d hk h => ?_⟩
  obtain rfl | rfl : k = 0 ∨ k = 1 := by omega
  all_goals (cases h; rfl)

theorem meets_ClockSteps_6 : (clocked ⟨0, true, 1, 0, 1, false⟩).Calm ∧ (clocked ⟨0, true, 1, 0, 1, false⟩).awake = true ∧
    (clocked ⟨0, true, 1, 0, 1, false⟩).courses.get? 2 = some ⟨0, true, 1, 0, 1, false⟩ := ⟨calm_of (by decide), by decide, rfl⟩

-- TapInstructions, MCTP ---------------------------------------------------------------------------------------------------------------------------

theorem meets_TapInstructions_1 : live.Calm ∧ live.boot.phase ≠ .off := ⟨calm_of (by decide), by decide⟩

theorem meets_PowerAndReset_mctp_1 : live.Calm ∧ live.managed = true ∧ 35 < 36 := ⟨calm_of (by decide), by decide, by decide⟩

/-- A device whose start has stopped at S02 with its recovery endpoint. -/
def recovering : State := { live with boot := { live.boot with phase := .stopped 2, recovery := true } }

theorem meets_PowerAndReset_mctp_2 : recovering.Calm ∧ recovering.boot.recovery = true ∧ 0 < 0x3FFFFFF ∧ [(0 : Byte)] ≠ [] ∧
    0x3FFFFFF + [(0 : Byte)].length ≤ 0x4000000 := ⟨calm_of (by decide), rfl, by decide, by decide, by decide⟩

-- HardwareErrors -------------------------------------------------------------------------------------------------------------------------

/-- A reported fault. -/
def fault (c : ErrClass) (source : Nat) : FaultRep := ⟨c, source, 3, 4, some 1, 0, .none, []⟩

/-- A CE record of source 5 at location 3. -/
def ceRec : ErrRec := ⟨1, .ce, 5, false, false, false, 0, 0, some 1, 0, 0, 3, 0, 4, 1, 0, 0⟩

/-- A device with that record in its ring. -/
def ringed : State := { live with err := { Err.reset with ring := [ceRec], next := 2 } }

theorem meets_HardwareErrors_1 : live.Calm ∧ live.awake = true ∧ (fault .ce 5).running = [] ∧ (fault .ce 5).classed.cls = .ce ∧
    (∀ r ∈ live.err.ring, r.cls ≠ .ce) := ⟨calm_of (by decide), by decide, rfl, rfl, by decide⟩

theorem meets_HardwareErrors_2 : ringed.Calm ∧ ringed.awake = true ∧ (fault .ce 5).running = [] ∧ (fault .ce 5).classed.cls = .ce ∧
    ringed.err.ring = [ceRec] ∧ ceRec.cls = .ce ∧ ceRec.source = (fault .ce 5).source ∧ ceRec.location = (fault .ce 5).location :=
  ⟨calm_of (by decide), by decide, rfl, rfl, rfl, rfl, rfl, rfl⟩

theorem meets_HardwareErrors_3 : live.Calm ∧ live.awake = true ∧ (fault .uc 5).running = [] ∧ (fault .uc 5).classed.cls = .uc ∧
    (fault .uc 5).source ≠ 1 ∧ (fault .uc 5).source ≠ 3 ∧ (fault .uc 5).source ≠ 4 ∧ (fault .uc 5).source ≠ 7 ∧
    (fault .uc 5).poison = .none := ⟨calm_of (by decide), by decide, rfl, rfl, by decide, by decide, by decide, by decide, rfl⟩

-- FatalErrors ----------------------------------------------------------------------------------------------------------------------------

theorem meets_FatalErrors_1 : live.Idle ∧ live.awake = true ∧ (fault .pf 5).running = [] ∧ (fault .pf 5).classed.cls = .pf ∧
    (fault .pf 5).part = some 1 := ⟨idle_of (by decide), by decide, rfl, rfl, rfl⟩

/-- A device whose port 7 is DOWN. -/
def downPort : State := { live with ports := [(7, Port.fresh 0 .down)] }

theorem meets_FatalErrors_2 : downPort.Idle ∧ downPort.awake = true ∧
    (∀ n x, downPort.ports.get? n = some x → x.state = .down) := by
  refine ⟨idle_of (by decide), by decide, fun n x h => ?_⟩
  simp only [downPort, AMap.get?] at h
  split at h <;> cases h
  rfl

theorem meets_FatalErrors_3 : (frozen false false).Idle ∧ (frozen false false).err.frozen = true ∧ (frozen false false).err.order = 5 ∧
    (frozen false false).pins.resetHeld = false := ⟨idle_of (by decide), rfl, rfl, rfl⟩

-- Alarms -----------------------------------------------------------------------------------------------------------------------------------

/-- A device whose alarm sources all have one level. -/
def level (n : Nat) : State := live.setFld Fld.SEC_ALARM_POLICY_LEVELS (n * 0x1555)

theorem meets_Alarms_1 : (level 1).Idle ∧ (level 1).boot.phase ≠ .off ∧ 1 ≤ 1 ∧ bitOf (level 1).sec.raw (4 + 1) = false ∧
    (level 1).alarmLevel (4 + 1) = 1 := ⟨idle_of (by decide), by decide, by decide, by decide, by decide⟩

theorem meets_Alarms_2 : (level 2).Idle ∧ (level 2).boot.phase ≠ .off ∧ 3 ≤ 3 ∧ bitOf (level 2).sec.raw 3 = false ∧
    (level 2).alarmLevel 3 = 2 ∧ (level 2).sec.frozen = false := ⟨idle_of (by decide), by decide, by decide, by decide, by decide, rfl⟩

theorem meets_Alarms_3 : (level 3).Idle ∧ (level 3).boot.phase ≠ .off ∧ 0 ≤ 3 ∧ bitOf (level 3).sec.raw 0 = false ∧
    (level 3).alarmLevel 0 = 3 ∧ (level 3).sec.frozen = false := ⟨idle_of (by decide), by decide, by decide, by decide, by decide, rfl⟩

theorem meets_Alarms_4 : live.Idle ∧ live.boot.phase ≠ .off ∧ 1 ≤ 1 ∧ 3 ≤ 3 := ⟨idle_of (by decide), by decide, by decide, by decide⟩

-- MemoryEngines ------------------------------------------------------------------------------------------------------------------------------

/-- A device with one stripe of LPDDR6 and one frame of each kind that is being zeroed. -/
def oneStripe : State :=
  { live.setFld Fld.MEM_CAP_STRIPES 1 with tileFrames := [(4, ⟨1, .zeroing, 0, 0, []⟩)], mortarFrames := [(5, ⟨1, .zeroing, 0, 0, []⟩)] }

theorem meets_MemoryEngines_1 : oneStripe.Idle ∧ oneStripe.boot.phase = .ready ∧ oneStripe.err.frozen = false ∧
    49151 < oneStripe.fld Fld.MEM_CAP_STRIPES * 49152 ∧ oneStripe.poisonedGranule (49151 / 256 * 256) = false :=
  ⟨idle_of (by decide), rfl, rfl, by decide, by decide⟩

theorem meets_MemoryEngines_2 : oneStripe.Idle ∧ oneStripe.boot.phase = .ready ∧ oneStripe.err.frozen = false ∧ 191 < 192 ∧
    oneStripe.flag Fld.MEM_CFG_ARB_MODE = false ∧ oneStripe.fld Fld.MEM_CFG_SR_IDLE_US ≠ 0 ∧ 191 ∉ oneStripe.selfRefresh :=
  ⟨idle_of (by decide), rfl, rfl, by decide, by decide, by decide, by decide⟩

theorem meets_MemoryEngines_3 : oneStripe.Idle ∧ oneStripe.boot.phase = .ready ∧ oneStripe.err.frozen = false ∧
    oneStripe.tileFrames.get? 4 = some ⟨1, .zeroing, 0, 0, []⟩ ∧ oneStripe.mortarFrames.get? 5 = some ⟨1, .zeroing, 0, 0, []⟩ :=
  ⟨idle_of (by decide), rfl, rfl, rfl, rfl⟩

end Sys2Proof.Tests
end

