-- ==== Sys2Proof/Tests/MeetsHostCmd.lean ====
section
/-!
SUPPORT. Witnesses of the statements on the management commands, the checks of every host command and the flash.
-/

namespace Sys2Proof.Tests

-- Each witness is checked before the next one is read: a kernel evaluation that waits for the ones before it holds a thread of its own.
set_option Elab.async false

open Sys2Proof Sys2Proof.Machine

-- Management ----------------------------------------------------------------------------------------------------------------------------

/-- A device whose context 0 loads one block of weights, or is ready. -/
def supplied (st : CtxState) : State := { live with ctxs := [((1, 0), ctx0 { img0 with weights := [(0, 2)] } st)] }

theorem meets_Management_1 : ∃ x, (supplied .loading).Calm ∧ (supplied .loading).subPart sub = 1 ∧ (supplied .loading).Takes sub (.wgtSupply 0 0 [[1, 2]]) ∧
    (supplied .loading).ctx 1 0 = some x ∧ x.state = .loading ∧ 0 < min [[(1 : Byte), 2]].length (x.img.weights.length - 0) :=
  ⟨_, calm_of (by decide), rfl, takes_of (by decide +kernel), rfl, rfl, by decide⟩

theorem meets_Management_2 : ∃ x, live.Takes sub (.wgtSupply 3 0 [[1]]) ∧ live.ctx 1 3 = none ∧ (supplied .ready).Takes sub (.wgtSupply 0 0 [[1]]) ∧
    (supplied .ready).ctx 1 0 = some x ∧ x.state ≠ .loading ∧ (supplied .loading).Takes sub (.wgtSupply 0 1 [[1]]) ∧ x.img.weights.length ≤ 1 :=
  ⟨_, takes_of (by decide +kernel), rfl, takes_of (by decide +kernel), rfl, by decide, takes_of (by decide +kernel), by decide⟩

theorem meets_Management_3 : live.Takes sub (.fwStage 0 [1]) ∧ Memory.wf 0xFF live.flash = true ∧ 0 + 1 ≤ slotBytes ∧
    live.Takes sub (.fwStage slotBytes [1]) ∧ slotBytes < slotBytes + 1 :=
  ⟨takes_of (by decide +kernel), by decide, by decide, takes_of (by decide +kernel), by decide⟩

/-- A device with a configuration image in force from copy A. -/
def imaged : State := { live with boot := { live.boot with image := some image0, copyB := false } }

theorem meets_Management_4 : live.Takes sub (.cfgWrite true 0 [1]) ∧ live.boot.image = none ∧ live.boot.alts.wf = true ∧ 0 + 1 ≤ copyBytes ∧
    live.Takes sub (.cfgWrite true copyBytes [1]) ∧ imaged.Takes sub (.cfgWrite false 0 [1]) ∧ imaged.boot.image ≠ none ∧ imaged.boot.copyB = false :=
  ⟨takes_of (by decide +kernel), rfl, by decide, by decide, takes_of (by decide +kernel), takes_of (by decide +kernel), by decide, rfl⟩

/-- A green slot that is written or not. -/
def green0 (there : Bool) : FwSlot := ⟨there, 0, 0x2640, 0, 0, 5, ⟨[], [], []⟩⟩

theorem meets_Management_5 : live.Takes sub (.fwCheck (green0 false)) ∧ live.Takes sub (.fwCheck (green0 true)) ∧ live.Takes sub (.ledgerRead 0 64) ∧
    live.Takes sub .devRestart ∧ live.completionWaits sub.owner = false ∧ live.Takes sub (.errRead 0 true 64) ∧ live.Takes sub (.errRead 0 false 64) :=
  ⟨takes_of (by decide +kernel), takes_of (by decide +kernel), takes_of (by decide +kernel), takes_of (by decide +kernel), rfl,
    takes_of (by decide +kernel), takes_of (by decide +kernel)⟩

/-- A device that holds one report of partition 1. -/
def reported : State := { live with reports := [(1, [⟨4, .ok, 0, 0, [], [], 0, 9⟩])] }

theorem meets_Management_6 : ∃ r, reported.Takes sub (.bndReportGet 4 64) ∧ (reported.reportsOf 1).find? (fun r => r.number == 4) = some r ∧
    reported.Takes sub (.bndReportGet 5 64) ∧ (∀ r ∈ reported.reportsOf 1, r.number ≠ 5) :=
  ⟨_, takes_of (by decide +kernel), rfl, takes_of (by decide +kernel), by decide⟩

/-- A command by the mailbox. -/
def boxed (f : Fn) : Sub := { sub with fn := f, sq := none }

/-- The device at S14, in a freeze, and with a command in its mailbox. -/
def early : State := { live with boot := { live.boot with phase := .start 14 } }
def iced : State := { live with err := { live.err with frozen := true } }
def busy : State := { live with mboxBusy := [0] }

theorem meets_Management_7 : (boxed ⟨0, 1⟩).sq = none ∧ (boxed ⟨0, 1⟩).fn.isPf = false ∧ busy.Calm ∧ (boxed pf).fn.index ∈ busy.mboxBusy ∧ live.doeUp pf = true ∧
    pf.isPf = true ∧ pf.index ∉ live.mboxBusy ∧ iced.Calm ∧ iced.doeUp pf = true ∧ iced.err.frozen = true ∧ HostCmd.frozenMailbox .sesQuery = false ∧ early.Calm ∧
    early.doeUp pf = true ∧ early.err.frozen = false ∧ early.boot.phase ≠ .ready ∧ HostCmd.earlyMailbox .sesQuery = false ∧ (boxed pf).paramBad = false ∧ (boxed pf).resv = false :=
  ⟨rfl, rfl, calm_of (by decide), by decide, by decide, rfl, by decide, calm_of (by decide), by decide, rfl, by decide, calm_of (by decide), by decide, rfl, by decide, by decide, rfl, rfl⟩

-- CommandChecks --------------------------------------------------------------------------------------------------------------------------

/-- `State.Holds` as a check. -/
def holds (s : State) (u : Sub) (q : Nat) (x : Sq) : Bool :=
  u.sq == some q && s.sq u.fn q == some x && x.on && decide (s.slotsOf u x ≤ x.avail) && s.fetches u.fn && !(s.bounceMode u.fn) && opens s u.fn q

theorem holds_of {s : State} {u : Sub} {q : Nat} {x : Sq} (h : holds s u q x = true) : s.Holds u q x := by
  simp only [holds, Bool.and_eq_true, beq_iff_eq, decide_eq_true_eq, Bool.not_eq_true'] at h
  obtain ⟨⟨⟨⟨⟨⟨h1, h2⟩, h3⟩, h4⟩, h5⟩, h6⟩, h7⟩ := h
  exact ⟨h1, h2, h3, h4, h5, h6, open_of h7⟩

/-- `State.Serves` as a check. -/
def serves (s : State) (p : Nat) : Bool :=
  s.configured p && !(s.removals.has p) && !(s.sec.removed.contains p) && !(s.resets.has p) && !s.sec.frozen && !(s.err.fatal.contains p)

theorem serves_of {s : State} {p : Nat} (h : serves s p = true) : s.Serves p := by
  simp only [serves, Bool.and_eq_true, Bool.not_eq_true', List.contains_eq_mem, decide_eq_false_iff_not] at h
  obtain ⟨⟨⟨⟨⟨h1, h2⟩, h3⟩, h4⟩, h5⟩, h6⟩ := h
  exact ⟨h1, h2, h3, h4, h5, h6⟩

/-- The queue of the tests. -/
def sq0 (l : List SqTag) : Sq := ⟨true, false, 0, 4, 0, 1, l⟩

/-- The device with an outstanding command of the same tag. -/
def tagged : State := { live with sqs := [((0, 0), sq0 [⟨7, 0, false, none⟩])] }

theorem meets_CommandChecks_1 : hostOf (.sesQuery (sub h0)) = some (sub h0, .sesQuery) ∧ tagged.Stays ∧ tagged.Holds (sub h0) 0 (sq0 [⟨7, 0, false, none⟩]) ∧
    (∃ t ∈ (sq0 [⟨7, 0, false, none⟩]).tags, t.tag = (sub h0).tag) ∧ early.Stays ∧ early.Holds (sub h0) 0 (sq0 []) ∧ early.boot.phase ≠ .ready :=
  ⟨rfl, (calm_of (by decide)).stays, holds_of (by decide), by decide, (calm_of (by decide)).stays, holds_of (by decide), by decide⟩

/-- Handles with a reserved bit, of a partition without cores, of a slot beyond the range, and of another generation. -/
theorem meets_CommandChecks_2 : live.Stays ∧ live.Holds (sub h0) 0 (sq0 []) ∧ live.boot.phase = .ready ∧ live.partOfFn pf = none ∧ (sub h0).flags.ext = false ∧
    HostCmd.byHandle .sesQuery = true ∧ handleReserved 1 = true ∧ handleReserved (mkHandle 9 0 1) = false ∧ live.configured (handlePart (mkHandle 9 0 1)) = false ∧
    live.Serves 1 ∧ 1 ∉ live.sec.conf ∧ live.inRange 1 (sub (mkHandle 1 (2 ^ 22 - 1) 1)).slot = false ∧ (served none (ses0 .waiting)).Holds (sub h0) 0 (sq0 []) ∧
    (served none (ses0 .waiting)).Serves 1 ∧ (served none (ses0 .waiting)).inRange 1 0 = true ∧
    ((served none (ses0 .waiting)).ses 0).gen ≠ handleGen (mkHandle 1 0 2) ∧ ((served none (ses0 .waiting)).ses 0).gen = handleGen h0 ∧
    ((served none (ses0 .waiting)).ses 0).state ≠ .free :=
  ⟨(calm_of (by decide)).stays, holds_of (by decide), rfl, rfl, rfl, rfl, by decide, by decide, by decide, serves_of (by decide), by decide, by decide,
    holds_of (by decide), serves_of (by decide), by decide, by decide, by decide, by decide⟩

/-- The device with partition 1 in confidential-host mode, and with a virtual function for it. -/
def hidden : State := { served none (ses0 .waiting) with sec := { live.sec with conf := [1] } }

/-- The device with a virtual function for partition 1, whose queue 0 is open. -/
def virtual : State :=
  ({ live with sqs := [((1, 0), sq0 [])], cqs := [((1, 0), ⟨true, false, 0, 0, 4, 0, 0, 0, [], 0, false⟩)] }).setFld Fld.HIF_VF_MAP_VALID 1 1

theorem meets_CommandChecks_3 : hidden.Stays ∧ hidden.Holds (sub h0) 0 (sq0 []) ∧ HostCmd.namesData .sesQuery = true ∧ hidden.cmdPart (sub h0) .sesQuery = some 1 ∧
    hidden.Serves 1 ∧ 1 ∈ hidden.sec.conf ∧ handleReserved h0 = false :=
  ⟨(calm_of (by decide)).stays, holds_of (by decide), rfl, rfl, serves_of (by decide), by decide, by decide⟩

/-- A partition in removal, in reset, frozen and fatal. -/
def removing : State := { live with err := { live.err with fatal := [1] } }
def cold1 : State := { live with sec := { live.sec with frozen := true } }

theorem meets_CommandChecks_4 : removing.Stays ∧ removing.Holds sub 0 (sq0 []) ∧ HostCmd.byHandle (.grmUnload 0) = false ∧
    HostCmd.pfOnly (.grmUnload 0) = false ∧ removing.cmdPart sub (.grmUnload 0) = some 1 ∧ removing.configured 1 = true ∧ removing.removals.has 1 = false ∧
    1 ∉ removing.sec.removed ∧ removing.resets.has 1 = false ∧ removing.sec.frozen = false ∧ 1 ∈ removing.err.fatal ∧
    HostCmd.passesFatal (.grmUnload 0) = false ∧ cold1.Stays ∧ cold1.Holds sub 0 (sq0 []) ∧ cold1.sec.frozen = true ∧ 1 ∉ cold1.err.fatal ∧
    live.Holds { sub with part := 9 } 0 (sq0 []) ∧ HostCmd.unconfiguredOk (.grmUnload 0) = false ∧ live.configured 9 = false :=
  ⟨(calm_of (by decide)).stays, holds_of (by decide), rfl, rfl, rfl, by decide, rfl, by decide, rfl, rfl, by decide, rfl, (calm_of (by decide)).stays,
    holds_of (by decide), rfl, by decide, holds_of (by decide), rfl, by decide⟩

/-- A partition in reset, and one in removal. -/
def resetting : State := { live with resets := [(1, ⟨1, 6, pf, none, 3, [0]⟩)] }
def parting : State := { live with removals := [(1, ⟨1, 1, pf, none, 3, 5, 6, 1, [0], [], 0, [], 0, 0, 0, false, false⟩)] }

theorem stays_of {s : State} (h : State.Calm { s with resets := [], removals := [] }) (hr : ∀ kv ∈ s.resets, kv.2.order = 6)
    (hg : ∀ kv ∈ s.removals, kv.2.order = 1 ∧ kv.2.cores ≠ []) : s.Stays := ⟨h, hr, hg⟩

theorem meets_CommandChecks_5 : resetting.Stays ∧ resetting.Holds sub 0 (sq0 []) ∧ resetting.partOfFn pf = none ∧ resetting.cmdPart sub (.grmUnload 0) = some 1 ∧
    resetting.configured 1 = true ∧ resetting.removals.has 1 = false ∧ 1 ∉ resetting.sec.removed ∧ resetting.resets.has 1 = true ∧
    resetting.sec.frozen = false ∧ 1 ∉ resetting.err.fatal ∧ parting.Stays ∧ parting.Holds sub 0 (sq0 []) ∧ parting.cmdPart sub (.grmUnload 0) = some 1 ∧
    parting.removals.has 1 = true ∧ parting.resets.has 1 = false :=
  ⟨stays_of (calm_of (by decide)) (by decide) (by decide), holds_of (by decide), rfl, rfl, by decide, rfl, by decide, rfl, rfl, by decide,
    stays_of (calm_of (by decide)) (by decide) (by decide), holds_of (by decide), rfl, rfl, rfl⟩

/-- A command of a virtual function: of PF0 alone, and with another partition's number. -/
theorem meets_CommandChecks_6 : virtual.Stays ∧ virtual.Holds (boxed ⟨0, 1⟩ |> fun u => { u with sq := some 0 }) 0 (sq0 []) ∧
    virtual.partOfFn ⟨0, 1⟩ = some 1 ∧ virtual.Serves 1 ∧ HostCmd.pfOnly .devRestart = true ∧ (⟨0, 1⟩ : Fn).isPf = false ∧
    virtual.Holds { boxed ⟨0, 1⟩ with sq := some 0, part := 2 } 0 (sq0 []) ∧ HostCmd.pfOnly (.grmUnload 0) = false :=
  ⟨(calm_of (by decide)).stays, holds_of (by decide), by decide, serves_of (by decide), rfl, rfl, holds_of (by decide), rfl⟩

-- FlashInvariant -------------------------------------------------------------------------------------------------------------------------

theorem meets_FlashInvariant : State.reset.FlashOk ∧ step State.reset = .next State.reset :=
  ⟨⟨rfl, fun _ h => (List.not_mem_nil h).elim⟩, rfl⟩

end Sys2Proof.Tests
end

