-- ==== Sys2Proof/Tests/MeetsWork.lean ====
section
/-!
SUPPORT. Witnesses of the statements on resets, removals, attention and experts.
-/

namespace Sys2Proof.Tests

-- Each witness is checked before the next one is read: a kernel evaluation that waits for the ones before it holds a thread of its own.
set_option Elab.async false

open Sys2Proof Sys2Proof.Machine

-- PartitionReset ---------------------------------------------------------------------------------------------------------------------------

theorem meets_PartitionReset_1 : (cored img0 none).Idle ∧ (cored img0 none).Takes sub .partReset ∧ (cored img0 none).subPart sub = 1 ∧
    (cored img0 none).coresOf 1 ≠ [] ∧ (cored img0 none).allPosted 1 = true ∧
    (∀ e c, (cored img0 none).cores.get? e = some c → c.running = none) :=
  ⟨idle_of (by decide), takes_of (by decide +kernel), rfl, by decide, by decide, still_of (by decide)⟩

/-- A device whose partition 1 is in a reset that waits for core 1 to clear. -/
def clearing : State :=
  { cored img0 none with cores := [(0, core0 none), (1, { core0 none with clearing := true })], resets := [(1, ⟨1, 6, pf, some 0, 7, [1]⟩)] }

theorem meets_PartitionReset_2 : ∃ c r, State.Idle { clearing with resets := [] } ∧ clearing.awake = true ∧ clearing.resets = [(1, r)] ∧
    r.order = 6 ∧ r.cores = [1] ∧ r.fn = sub.fn ∧ r.sq = some 0 ∧ sub.sq = some 0 ∧ r.tag = sub.tag ∧ clearing.Open sub.fn 0 ∧
    clearing.cores.get? 1 = some c ∧ c.owner = some 1 ∧ c.clearing = true ∧ c.queue = [] ∧ c.paused = [] :=
  ⟨_, _, idle_of (by decide), by decide, rfl, rfl, rfl, rfl, rfl, rfl, rfl, open_of (by decide), rfl, rfl, rfl, rfl, rfl⟩

/-- A device whose core 0 is being stopped. -/
def stopping : State := { cored img0 none with cores := [(0, { core0 none with stopping := true })] }

theorem meets_PartitionReset_3 : ∃ c, stopping.Idle ∧ stopping.awake = true ∧ stopping.cores.get? 0 = some c ∧ c.stopping = true ∧
    c.queue = [] ∧ c.paused = [] := ⟨_, idle_of (by decide), by decide, rfl, rfl, rfl, rfl⟩

-- TenantRemoval ----------------------------------------------------------------------------------------------------------------------------

/-- A device with bound authorities 3 and 4. -/
def bound (s : State) : State := { s with sec := { s.sec with authority := some (3, 4) } }

/-- A removal record for partition 1. -/
def goneRec : ChangeRec := ⟨0x31434346, 1, 0, true, 7, 1, 0, 6, 0, 3, 4, true, true, 88, .removal⟩

theorem meets_TenantRemoval_1 : (bound peered).Idle ∧ (bound peered).Takes sub (.partRemove goneRec) ∧ (bound peered).subPart sub = 1 ∧
    (bound peered).recordFails goneRec false = none ∧ goneRec.kind = 7 ∧ goneRec.part = 1 ∧ (bound peered).allPosted 1 = true ∧
    (∀ e c, (bound peered).cores.get? e = some c → c.running = none) ∧
    (bound peered).peers.filter (fun kv => kv.2.state == .admitted && bitOf kv.2.parts 1) ≠ [] :=
  ⟨idle_of (by decide), takes_of (by decide +kernel), rfl, by decide, rfl, rfl, by decide, still_of (by decide), by decide⟩

/-- A device in which the removal of partition 1 waits for peers. -/
def leaving (l : List Nat) : State :=
  { served none (ses0 .waiting) with removals := [(1, ⟨1, 3, pf, some 0, 7, 6, 88, 1, [], l, 0, [], 0, 0, 0, false, false⟩)] }

theorem meets_TenantRemoval_2 : ∃ x, State.Idle { leaving [1023, 4] with removals := [] } ∧ (leaving [1023, 4]).awake = true ∧
    (leaving [1023, 4]).removals = [(1, x)] ∧ x.part = 1 ∧ x.order = 3 ∧ (leaving [1023, 4]).Hears (hdr 10 true 9 5 40) 10 true (some 40) 1023 partner ∧ 1023 ∈ x.waiting ∧
    (∃ j ∈ x.waiting, j ≠ 1023) :=
  ⟨_, idle_of (by decide), by decide, rfl, rfl, rfl, hears_of (by decide +kernel), by decide, 4, by decide, by decide⟩

theorem meets_TenantRemoval_3 : ∃ x f, State.Idle { leaving [1023] with removals := [] } ∧ (leaving [1023]).awake = true ∧
    (leaving [1023]).removals = [(1, x)] ∧ x.part = 1 ∧ x.order = 3 ∧ x.waiting = [1023] ∧ (leaving [1023]).peers.get? 1023 = some partner ∧
    bitOf partner.parts 1 = true ∧ partner.parts < 65536 ∧ (5, f) ∈ (leaving [1023]).tileFrames ∧ f.owner = 1 :=
  ⟨_, _, idle_of (by decide), by decide, rfl, rfl, rfl, rfl, rfl, by decide, by decide, List.mem_cons_self .., rfl⟩

-- AttentionService -------------------------------------------------------------------------------------------------------------------------

/-- `State.Readable` as a check. -/
def readable (s : State) (p : Nat) (e : MEntry) : Bool :=
  !e.away && !(s.poisonedData e) && (match e.loc with | some l => s.ownPlace p l | none => true)

theorem readable_of {s : State} {p : Nat} {l : List (Nat × MEntry)} (h : l.all (fun kv => readable s p kv.2) = true) :
    ∀ kv ∈ l, s.Readable p kv.2 := by
  intro kv hk
  have hr := List.all_eq_true.mp h kv hk
  simp only [readable, Bool.and_eq_true, Bool.not_eq_true'] at hr
  refine ⟨hr.1.1, hr.1.2, fun l e => ?_⟩
  have := hr.2
  rw [e] at this
  exact this

/-- A vector of 64 zeros. -/
def row0 : List Nat := List.replicate 64 0

/-- A slice of the one layer and head at the step's position. -/
def slice0 (layer : Nat) : Slice := ⟨h0, 0, 1, layer, 0, 1, [row0], [row0], [row0]⟩

/-- A device with a stalled slice. -/
def stalled : State := { served (some (req0 .generating)) (sesT .active) with slices := [⟨0, 1, 1023, 99, slice0 0, none, true, 0⟩] }

theorem meets_AttentionService_1 : ∃ w q c x, stalled.Calm ∧ stalled.awake = true ∧ stalled.slices = [w] ∧ w.stalled = true ∧
    stalled.req w.slot = some q ∧ q.slot = w.slot ∧ q.phase = .generating ∧ stalled.modelOf q = some c ∧
    stalled.peers.get? w.peer = some partner ∧ stalled.ports.get? partner.port = some x ∧ x.up = true ∧
    (∀ kv ∈ sliceEntries (stalled.entriesOf q) c w.slice, stalled.Readable w.part kv.2) :=
  ⟨_, _, _, _, calm_of (by decide), by decide, rfl, rfl, rfl, rfl, rfl, rfl, rfl, rfl, by decide, readable_of (by decide +kernel)⟩

/-- A device with a generating request. -/
def generating : State := served (some (req0 .generating)) (sesT .active)

/-- A query message with one slice. -/
def msg1 : Hdr := msg 1 false ((generating.queryBytes h0 [slice0 0]).getD 0)

theorem meets_AttentionService_2 : ∃ q c x, generating.Hears msg1 1 false (generating.queryBytes msg1.handle [slice0 0]) 1023 partner ∧ (slice0 0).handle = msg1.handle ∧ (slice0 0).epoch = msg1.epoch ∧
    generating.checkSlice (some msg1) (some msg1.part) (slice0 0) = .inr q ∧ generating.slices = [] ∧ generating.modelOf q = some c ∧
    generating.sliceKey q (slice0 0) = none ∧ q.slot = handleSlot msg1.handle ∧ q.phase = .generating ∧
    generating.ports.get? partner.port = some x ∧ x.up = true ∧
    (∀ kv ∈ sliceEntries (generating.entriesOf q) c (slice0 0), generating.Readable q.part kv.2) :=
  ⟨req0 .generating, img0, _, hears_of (by decide +kernel), rfl, rfl, rfl, rfl, rfl, by decide, by decide, rfl, rfl, by decide, readable_of (by decide +kernel)⟩

theorem meets_AttentionService_3 : ∃ st x, generating.Hears msg1 1 false (generating.queryBytes msg1.handle [slice0 0]) 1023 partner ∧ (slice0 1).handle = msg1.handle ∧ (slice0 1).epoch = msg1.epoch ∧
    generating.checkSlice (some msg1) (some msg1.part) (slice0 1) = .inl st ∧ generating.forwardOf msg1.handle = none ∧
    generating.ports.get? partner.port = some x ∧ x.up = true := ⟨_, _, hears_of (by decide +kernel), rfl, rfl, rfl, rfl, rfl, by decide⟩

/-- The request of a session over a prefix, with batches of up to 8 slices. -/
def sharing : State :=
  ((served (some (req0 .generating)) { sesT .active with pfx := 3, pfxTiles := 1 }).setFld Fld.ATT_CFG_BATCH_WINDOW 100 1).setFld Fld.ATT_CFG_BATCH_MAX 8 1

theorem meets_AttentionService_5 : ∃ q c k, sharing.Hears msg1 1 false (sharing.queryBytes msg1.handle [slice0 0]) 1023 partner ∧
    (slice0 0).handle = msg1.handle ∧ (slice0 0).epoch = msg1.epoch ∧ sharing.checkSlice (some msg1) (some msg1.part) (slice0 0) = .inr q ∧
    sharing.slices = [] ∧ sharing.modelOf q = some c ∧ q.slot = handleSlot msg1.handle ∧ q.phase = .generating ∧
    sharing.sliceKey q (slice0 0) = some k ∧ sharing.batchOf k = none ∧ 1 < sharing.batchMax q.part ∧ sharing.batches.get? sharing.nextBatch = none :=
  ⟨req0 .generating, img0, .slices 1 0 0 0 1 3, hears_of (by decide +kernel), rfl, rfl, rfl, rfl, rfl, by decide, rfl, by decide, rfl, by decide, rfl⟩

/-- A device in which partition 1's tiles are promoted at their second use. -/
def promoting : State := (served none { sesT .waiting with sliceRead := [0] }).setFld Fld.MEM_PLACE_PROMOTE 1 1

theorem meets_AttentionService_4 : ∃ e core o, (promoting.ses 0).mortar.entries.get? 0 = some e ∧ e.tier = .lpddr ∧ e.shared = false ∧
    0 ∈ (promoting.ses 0).sliceRead ∧ promoting.poisonedEntry e = false ∧ promoting.homeCore 0 (colOf (promoting.pairsOf 0) 0) = some core ∧
    promoting.flag Fld.MEM_PLACE_PROMOTE (promoting.ses 0).part = true ∧ (promoting.ses 0).state = .waiting ∧ (promoting.ses 0).op = .none ∧
    promoting.storePlace (promoting.ses 0).part (promoting.ses 0).main core = some o ∧ promoting.tileAt e = some tile0 :=
  ⟨_, _, _, rfl, rfl, rfl, by decide, by decide, rfl, by decide, rfl, rfl, rfl, rfl⟩

-- Experts ------------------------------------------------------------------------------------------------------------------------------------

/-- An expert of one row. -/
def expert0 : Expert := ⟨false, .int8, [], [], []⟩

/-- The expert's context. -/
def ctxE : Ctx := ctx0 { img0 with kind := .expert, experts := [(255, expert0)] } .ready

/-- The device with the expert's context, and with open batches. -/
def expertly (b : AMap Nat Batch) : State :=
  { generating.setFld Fld.ATT_CFG_BATCH_WINDOW 0 1 with batches := b, ctxs := [((1, 0), ctx0 img0 .ready), ((1, 1), ctxE)] }

/-- A packet for it. -/
def packet0 : ExpertPkt := ⟨h0, 0, 1, 0, 255, 0, [0]⟩

set_option maxRecDepth 4000 in
theorem meets_Experts_1 : ∃ q c n d y x, (expertly []).Calm ∧ (expertly []).awake = true ∧ (expertly []).Hears (msg 3 false 50) 3 false (some (48 + 2 * packet0.x.length)) 1023 partner ∧
    packet0.handle = (msg 3 false 50).handle ∧ packet0.epoch = (msg 3 false 50).epoch ∧
    (expertly []).checkStep (some (msg 3 false 50)) (some (msg 3 false 50).part) packet0.handle packet0.epoch packet0.pos = .inr q ∧ (expertly []).modelOf q = some c ∧
    packet0.layer < c.layers ∧ packet0.pos = (expertly []).stepPos q ∧
    (expertly []).expertCtx q.part packet0.layer packet0.expert = some (n, d) ∧ d.state = .ready ∧ (expertly []).ctx q.part n = some d ∧
    d.img.experts.get? (packet0.layer * 256 + packet0.expert) = some y ∧ (expertly []).fld Fld.ATT_CFG_BATCH_WINDOW q.part = 0 ∧
    (expertly []).generating q.slot = some q ∧ (expertly []).ports.get? partner.port = some x ∧ x.up = true :=
  ⟨req0 .generating, img0, 1, ctxE, expert0, _, calm_of (by decide), by decide, hears_of (by decide +kernel), rfl, rfl, rfl, rfl, by decide, by decide,
    rfl, rfl, rfl, rfl, by decide, rfl, rfl, by decide⟩

/-- An open batch of the expert. -/
def batch0 : AMap Nat Batch := [(3, ⟨.experts 1 1 0 255, [⟨0, 1, 1023, 99, 1, packet0⟩]⟩)]

set_option maxRecDepth 4000 in
theorem meets_Experts_2 : ∃ q d y x, (expertly batch0).Calm ∧ (expertly batch0).awake = true ∧
    (expertly batch0).batches.get? 3 = some ⟨.experts 1 1 0 255, [⟨0, 1, 1023, 99, 1, packet0⟩]⟩ ∧
    (expertly batch0).generating 0 = some q ∧ (expertly batch0).ctx 1 1 = some d ∧ d.img.experts.get? (packet0.layer * 256 + packet0.expert) = some y ∧
    (expertly batch0).peers.get? 1023 = some partner ∧ (expertly batch0).ports.get? partner.port = some x ∧ x.up = true :=
  ⟨req0 .generating, ctxE, expert0, _, calm_of (by decide), by decide, rfl, rfl, rfl, rfl, rfl, rfl, by decide⟩

end Sys2Proof.Tests
end

