-- ==== Sys2Proof/Tests/MeetsKeys.lean ====
section
/-!
SUPPORT. Witnesses of the statements on keys and change records.
-/

namespace Sys2Proof.Tests

-- Each witness is checked before the next one is read: a kernel evaluation that waits for the ones before it holds a thread of its own.
set_option Elab.async false

open Sys2Proof Sys2Proof.Machine

-- Keys ---------------------------------------------------------------------------------------------------------------------------------------

/-- A slot of partition 1 for the key of an image, with a quote outstanding or not. -/
def keySlot (q : Option Nat) : KeySlot := ⟨some 1, 2, .provisioned, 0, 55, q, false, none⟩

/-- The ready device whose key slot 3 is that slot. -/
def keyHeld (q : Option Nat) : State := { live with sec := { live.sec with slots := [(3, keySlot q)], quotes := 4 } }

/-- A blob that answers quote 4 for image 55. -/
def blob0 : Blob := ⟨2, false, true, 4, 55, true⟩

theorem meets_Keys_0 : (keyHeld none).Calm ∧ (keyHeld none).subPart sub = 1 ∧ ((keyHeld none).sec.conf.contains 1 && sub.fn.isPf) = false :=
  ⟨calm_of (by decide), rfl, rfl⟩

/-- The same device with partition 1 in confidential-host mode. -/
def secret : State := { keyHeld none with sec := { (keyHeld none).sec with conf := [1] } }

theorem meets_Keys_5 : secret.Calm ∧ (secret.sec.conf.contains (secret.subPart sub) && sub.fn.isPf) = true ∧ secret.Takes sub (.keyQuote 3 9) ∧
    secret.Takes sub (.keyImport 3 blob0) := ⟨calm_of (by decide), by decide, takes_of (by decide +kernel), takes_of (by decide +kernel)⟩

theorem meets_Keys_1 : (keyHeld none).Takes sub (.keyQuote 3 9) ∧ (keyHeld none).sec.slots.get? 3 = some (keySlot none) ∧
    (keySlot none).owner = some 1 ∧ (keySlot none).kind = 2 := ⟨takes_of (by decide +kernel), rfl, rfl, rfl⟩

theorem meets_Keys_2 : (keyHeld none).Takes sub (.keyQuote 4 9) ∧ (keyHeld none).sec.slots.get? 4 = none := ⟨takes_of (by decide +kernel), rfl⟩

theorem meets_Keys_3 : (keyHeld (some 4)).Takes sub (.keyImport 3 blob0) ∧ (keyHeld (some 4)).sec.slots.get? 3 = some (keySlot (some 4)) ∧
    blob0.sigOk = true ∧ (keySlot (some 4)).quote = some blob0.quote ∧ blob0.kind = (keySlot (some 4)).kind ∧
    blob0.image = (keySlot (some 4)).image ∧ blob0.tagOk = true := ⟨takes_of (by decide +kernel), rfl, rfl, rfl, rfl, rfl, rfl⟩

theorem meets_Keys_4 : (keyHeld none).Takes sub (.keyImport 3 blob0) ∧ (keyHeld none).sec.slots.get? 3 = some (keySlot none) ∧
    (keySlot none).quote ≠ some blob0.quote ∧ (keyHeld none).sec.fails.length + 1 < (keyHeld none).fld Fld.SEC_ALARM_POLICY_ATTEST_LIMIT :=
  ⟨takes_of (by decide +kernel), rfl, by decide, by decide⟩

-- Changes ------------------------------------------------------------------------------------------------------------------------------------

/-- A device whose configuration passes the plumb check: 40,000 stripes of LPDDR6, 8192 frames of each kind above the first GiB. -/
def fits : State :=
  { bound live with
    regs := live.regs ++ [(⟨.memCap, 0, 0⟩, 40000), (⟨.memTileDataBase, 0, 0⟩, 512), (⟨.memTileSideBase, 0, 0⟩, 576),
      (⟨.memMortarBase, 0, 0⟩, 584), (⟨.memRecordBase, 0, 0⟩, 600), (⟨.memFrames, 0, 0⟩, 0x200000002000)],
    cores := [(0, core0 none), (1, core0 none)] }

/-- A device-wide record of a kind. -/
def rec0 (kind : Nat) (x : ChangePayload) : ChangeRec := ⟨0x31434346, 1, 0, true, kind, 0xFF, 0, 6, if kind = 5 then 2 else 0, 3, 4, true, true, 88, x⟩

/-- What a record must meet (R653). -/
def sound (s : State) (r : ChangeRec) : Bool :=
  r.wellFormed && r.target == s.sec.fuses.peerId && s.authoritiesFor r == some (r.opKey, r.custKey) && r.sigs && decide (s.sec.changeSeq < r.seq) &&
    r.digest && (s.sec.latched == 0 || r.kind == 5)

theorem sound_of {s : State} {r : ChangeRec} (h : sound s r = true) : r.wellFormed = true ∧ r.target = s.sec.fuses.peerId ∧
    s.authoritiesFor r = some (r.opKey, r.custKey) ∧ r.sigs = true ∧ s.sec.changeSeq < r.seq ∧ r.digest = true ∧
    (s.sec.latched = 0 ∨ r.kind = 5) := by
  simp only [sound, Bool.and_eq_true, Bool.or_eq_true, beq_iff_eq, decide_eq_true_eq] at h
  obtain ⟨⟨⟨⟨⟨⟨h1, h2⟩, h3⟩, h4⟩, h5⟩, h6⟩, h7⟩ := h
  exact ⟨h1, h2, h3, h4, h5, h6, h7⟩

/-- What a completion changes is none of what the plumb check looks at. -/
theorem sees_io {s x : State} (h : s.Io x) : @State.fld x = @State.fld s ∧ x.tileFrames = s.tileFrames ∧ x.mortarFrames = s.mortarFrames ∧
    x.tileFirst = s.tileFirst ∧ x.tileCount = s.tileCount ∧ x.morFirst = s.morFirst ∧ x.morCount = s.morCount ∧
    x.tileOwner = s.tileOwner ∧ x.morOwner = s.morOwner ∧ x.regions = s.regions ∧ x.areaBytesOf = s.areaBytesOf := by
  obtain ⟨l, m, a, b, d, e, rfl⟩ := h
  exact ⟨rfl, rfl, rfl, rfl, rfl, rfl, rfl, rfl, rfl, rfl, rfl⟩

theorem images_io {s x : State} (h : s.Io x) (l : List PlaceRef) : x.checkImages l = s.checkImages l := by
  obtain ⟨h1, -, -, -, -, -, -, -, -, -, h2⟩ := sees_io h
  unfold State.checkImages
  rw [h1, h2]

theorem regions_io {s x : State} (h : s.Io x) (r : Resources) : x.checkRegions r = s.checkRegions r := by
  obtain ⟨h1, h2, h3, h4, h5, h6, h7, h8, h9, h10, -⟩ := sees_io h
  unfold State.checkRegions
  rw [h1, h2, h3, h4, h5, h6, h7, h8, h9, h10]

/-- The plumb check does not look at what a completion changes. -/
theorem plumb_io {s x : State} (h : s.Io x) (r : Resources) (l : List PlaceRef) : x.plumb r l = s.plumb r l := by
  have h1 := images_io h l
  have h2 := regions_io h r
  obtain ⟨l, m, a, b, d, e, rfl⟩ := h
  unfold State.plumb
  rw [h1, h2]
  rfl

theorem meets_Changes_0 (k : Nat) (x : ChangePayload) (h : takes fits sub (.secChange (rec0 k x)) = true) :
    fits.Calm ∧ fits.Takes sub (.secChange (rec0 k x)) := ⟨calm_of (by decide), takes_of h⟩

theorem meets_Changes_1 : fits.Takes sub (.secChange (rec0 3 .debug)) ∧ (rec0 3 .debug).wellFormed = false ∧
    fits.Takes sub (.secChange goneRec) ∧ goneRec.payload = .removal := ⟨takes_of (by decide +kernel), by decide, takes_of (by decide +kernel), rfl⟩

/-- The levels and limit of the tests. -/
def alarms0 : ChangePayload := .alarms 0x1BEA 5

/-- A device whose own fabric address is the reserved one. -/
def misfit : State := fits.setFld Fld.CMP_SELF_FABRIC 0

theorem meets_Changes_2 : ∃ o, misfit.Takes sub (.secChange (rec0 3 alarms0)) ∧ sound misfit (rec0 3 alarms0) = true ∧
    (∀ x, (misfit.loadRecord (rec0 3 alarms0)).Io x → x.plumb (misfit.actual false) misfit.boot.places = some o) :=
  ⟨⟨0x41, some (Reg.addr ⟨.cmpSelf, 0, 0⟩)⟩, takes_of (by decide +kernel), by decide +kernel, fun _ h => (plumb_io h _ _).trans (by decide +kernel)⟩

theorem meets_Changes_3 : fits.Takes sub (.secChange (rec0 3 alarms0)) ∧ sound fits (rec0 3 alarms0) = true ∧
    (∀ x, (fits.loadRecord (rec0 3 alarms0)).Io x → x.plumb (fits.actual false) fits.boot.places = none) :=
  ⟨takes_of (by decide +kernel), by decide +kernel, fun _ h => (plumb_io h _ _).trans (by decide +kernel)⟩

/-- A key policy. -/
def keys0 (foreign : Bool) : ChangePayload := .keys ⟨[⟨3, some 1, 2, 55, none⟩], [], foreign⟩

theorem meets_Changes_6 : fits.Takes sub (.secChange (rec0 2 (keys0 true))) ∧ sound fits (rec0 2 (keys0 true)) = true :=
  ⟨takes_of (by decide +kernel), by decide +kernel⟩

/-- The plan that fits: what the registers of `fits` say. -/
def plan0 : Plan :=
  ⟨[⟨⟨.schPartCores, 1, 0⟩, 3⟩, ⟨⟨.sesPartRange, 1, 0⟩, 1024⟩, ⟨⟨.memPartTiles, 1, 0⟩, 0x100000000000⟩, ⟨⟨.memPartMortar, 1, 0⟩, 0x100000000000⟩,
    ⟨⟨.memTileDataBase, 0, 0⟩, 512⟩, ⟨⟨.memTileSideBase, 0, 0⟩, 576⟩, ⟨⟨.memMortarBase, 0, 0⟩, 584⟩, ⟨⟨.memRecordBase, 0, 0⟩, 600⟩,
    ⟨⟨.memFrames, 0, 0⟩, 0x200000002000⟩], []⟩

theorem meets_Changes_7 : fits.Takes sub (.secChange (rec0 1 (.plan plan0))) ∧ sound fits (rec0 1 (.plan plan0)) = true ∧ fits.ctxs = [] ∧
    fits.resolve plan0.places = [] ∧ (fits.loadRecord (rec0 1 (.plan plan0))).coresOf 1 = fits.coresOf 1 ∧
    (∀ x, (fits.loadRecord (rec0 1 (.plan plan0))).Io x → x.plumb (fits.actual false) [] = none) :=
  ⟨takes_of (by decide +kernel), by decide +kernel, rfl, rfl, by decide +kernel, fun _ h => (plumb_io h _ _).trans (by decide +kernel)⟩

theorem meets_Changes_8 : fits.Takes sub (.secChange (rec0 6 .debug)) ∧ sound fits (rec0 6 .debug) = true :=
  ⟨takes_of (by decide +kernel), by decide +kernel⟩

/-- A device whose alarm latch stands, with its sources still there or gone, and spent or not. -/
def latched (raw : Nat) (spent : Bool) : State :=
  { fits with sec := { fits.sec with latched := 4, raw := raw, record := 2, spent := spent } }

theorem meets_Changes_9 : (latched 4 true).Takes sub (.secChange (rec0 5 .rearm)) ∧ sound (latched 4 true) (rec0 5 .rearm) = true ∧
    (latched 4 false).Takes sub (.secChange (rec0 5 .rearm)) ∧ sound (latched 4 false) (rec0 5 .rearm) = true ∧
    (latched 4 false).failsLimit = false ∧ clearSource (latched 4 false).sec.raw 6 &&& 4 ≠ 0 ∧
    (rec0 5 .rearm).arg = (latched 4 false).sec.record ∧ (latched 0 false).Takes sub (.secChange (rec0 5 .rearm)) ∧
    sound (latched 0 false) (rec0 5 .rearm) = true ∧ clearSource (latched 0 false).sec.raw 6 &&& 4 = 0 ∧
    (latched 0 false).Takes sub (.secChange { rec0 5 .rearm with arg := 1 }) ∧ sound (latched 0 false) { rec0 5 .rearm with arg := 1 } = true :=
  ⟨takes_of (by decide +kernel), by decide +kernel, takes_of (by decide +kernel), by decide +kernel, by decide, by decide, rfl,
    takes_of (by decide +kernel), by decide +kernel, by decide, takes_of (by decide +kernel), by decide +kernel⟩

end Sys2Proof.Tests
end

