-- ==== Sys2Proof/Tests/MeetsMoves.lean ====
section
/-!
SUPPORT. Witnesses of the statements on pulls and moves.
-/

namespace Sys2Proof.Tests

-- Each witness is checked before the next one is read: a kernel evaluation that waits for the ones before it holds a thread of its own.
set_option Elab.async false

open Sys2Proof Sys2Proof.Machine

/-- The peer of a device in the place of the partner. -/
def across (s : State) : State := { s with peers := [(1023, mate), (3, guest)] }

-- Pulls ---------------------------------------------------------------------------------------------------------------------------------------

/-- A move of the session to the admitted peer, with its tile in frame 5 on offer. -/
def moveOut0 (target : Option Word64) : MoveOut := ⟨pf, some 0, 7, 1023, 1, false, [(0, 5)], [], target, false, 99, [], []⟩

/-- A device that moves its session out. -/
def movingOut (target : Option Word64) : State := { across (served none { sesT .moving with op := .moveOut }) with movesOut := [(0, moveOut0 target)] }

theorem meets_Pulls_1 : ∃ m, (movingOut none).awake = true ∧ (movingOut none).Calm ∧ (movingOut none).Hears (msg 6 false 48) 6 false (some 48) 1023 mate ∧
    (movingOut none).sec.removed.contains (msg 6 false 48).part = false ∧ (movingOut none).checkHandle (some (msg 6 false 48).part) (msg 6 false 48).handle = none ∧
    (movingOut none).movesOut.get? 0 = some m ∧ m.peer = 1023 ∧ m.offered.find? (fun kv => kv.2 == 5) = some (0, 5) ∧
    (movingOut none).framePoisoned 5 = false ∧ m.staging.has 0 = false ∧ (movingOut none).tiles.get? (.frame 5) = some tile0 :=
  ⟨moveOut0 none, by decide, calm_of (by decide), hears_of (by decide +kernel), rfl, by decide, rfl, rfl, rfl, by decide, rfl, rfl⟩

/-- A session that is being pulled from the admitted peer. -/
def pulled : Session := { ses0 .pulling with op := .moveIn, movePeer := 1023, mortar := ⟨0, [], [], [(0, ⟨.remote, false, false, false, 1, 1023, 8⟩)]⟩ }

/-- The device that pulls it, with one pull of some tries outstanding. -/
def pulling (n : Nat) : State :=
  { across (served none pulled) with movesIn := [(0, ⟨1023, 12, 9, 0⟩)], pulls := [⟨0, 0, 1023, 99, n⟩] }

theorem meets_Pulls_2 : ∃ m w e g frame loc v x, (pulling 1).awake = true ∧ State.Calm { pulling 1 with movesIn := [] } ∧
    (pulling 1).movesIn = [(0, m)] ∧ m.peer = 1023 ∧ (pulling 1).Hears (msg 7 true 18480) 7 true (some 18480) 1023 mate ∧
    (pulling 1).pulls.find? (fun z => z.tag == (msg 7 true 18480).tag && z.peer == 1023) = some w ∧ w.slot = 0 ∧ w.entry = 0 ∧
    ((pulling 1).ses 0).mortar.entries.get? 0 = some e ∧
    (∀ z ∈ ((pulling 1).ses 0).mortar.entries.set 0 { e with tier := g, frame := frame, peer := 0, shared := false }, z.2.tier ≠ .remote) ∧
    State.newPlace { (pulling 1).peerSeen 1023 with pulls := (pulling 1).pulls.filter (fun z => z != w) } 0 (colOf ((pulling 1).pairsOf 0) 0) =
      some (g, frame, loc, v) ∧ (pulling 1).ports.get? mate.port = some x ∧ x.up = true :=
  ⟨⟨1023, 12, 9, 0⟩, ⟨0, 0, 1023, 99, 1⟩, ⟨.remote, false, false, false, 1, 1023, 8⟩, .store, 0, .store 0 0, _, _, by decide, calm_of (by decide),
    rfl, rfl, hears_of (by decide +kernel), rfl, rfl, rfl, rfl, by decide, rfl, rfl, by decide⟩

theorem meets_Pulls_3 : ∃ w m e x, (pulling 2).awake = true ∧ State.Calm { pulling 2 with movesIn := [] } ∧ (pulling 2).movesIn = [(0, m)] ∧
    (pulling 2).pulls.find? (fun z => z.tag == 99) = some w ∧ w.slot = 0 ∧ w.tries < 3 ∧ (pulling 2).peers.get? m.peer = some mate ∧
    ((pulling 2).ses 0).mortar.entries.get? w.entry = some e ∧ (pulling 2).ports.get? mate.port = some x ∧ x.up = true :=
  ⟨⟨0, 0, 1023, 99, 2⟩, ⟨1023, 12, 9, 0⟩, ⟨.remote, false, false, false, 1, 1023, 8⟩, _, by decide, calm_of (by decide), rfl, rfl, rfl,
    by decide, rfl, rfl, rfl, by decide⟩

-- Moves ---------------------------------------------------------------------------------------------------------------------------------------

/-- An offer of a session with one tile and one log entry. -/
def offer0 : Offer := ⟨12, 1, 0, 9, 1, ⟨0, 0, 0⟩, 5, 1, false, [⟨0, inFrame 8⟩], [⟨3, false, true⟩], none⟩

/-- The device without sessions. -/
def target : State := { across (served none (ses0 .free)) with sessions := [], tiles := [], tileFrames := [] }

/-- The slot that the offer takes. -/
def slotT : Nat := 0 + Config.pick (target.peerSeen 1023).freeCtr % 4096

set_option maxRecDepth 20000 in
theorem meets_Moves_1 : ∃ v, target.Calm ∧ target.awake = true ∧ target.Hears (msg 8 false offer0.lastBytes) 8 false (some offer0.lastBytes) 1023 mate ∧
    (target.peerSeen 1023).newSlot (msg 8 false offer0.lastBytes).part = some slotT ∧ target.room (msg 8 false offer0.lastBytes).part offer0.entries.length 0 ≠ .refused ∧
    target.credits (msg 8 false offer0.lastBytes).part + offer0.entries.length ≤ target.fld Fld.MEM_PART_QUOTA_REMOTE_1K (msg 8 false offer0.lastBytes).part * 1024 ∧
    State.buildMoveIn { target.peerSeen 1023 with freeCtr := (target.peerSeen 1023).freeCtr + 1 } slotT 1023 (msg 8 false offer0.lastBytes) offer0 = some v ∧
    offer0.entries ≠ [] := by
  let s : State := { target.peerSeen 1023 with freeCtr := (target.peerSeen 1023).freeCtr + 1 }
  have sc : s.morCount 1 = 4096 := by show target.morCount 1 = 4096; decide
  obtain ⟨root, v1, h1, e1, l1⟩ := allocMor_some (s := s) (p := 1) ⟨1, .priv, 0, slotT, []⟩ (by rw [sc]; decide)
  have c1 : v1.morCount 1 = 4096 := by rw [e1]; exact sc
  have l1' : v1.mortarFrames.length ≤ 1 := l1
  obtain ⟨m, v2, h2, e2, l2⟩ := growMortar_some (s := v1) (p := 1) (o := slotT) (m := Mortar.empty root) (es := [0]) (by
    rw [c1]
    exact Nat.le_trans (Nat.add_le_add_right (Nat.add_le_add_right l1' 1) 1) (by decide))
  have c2 : v2.morCount 1 = 4096 := by rw [e2, e1]; exact sc
  have l2' : v2.mortarFrames.length ≤ 3 := Nat.le_trans l2 (Nat.add_le_add_right (Nat.add_le_add_right l1' 1) 1)
  obtain ⟨lf, v3, h3, e3, l3⟩ := allocMors_some (p := 1) ⟨1, .priv, 0, slotT, []⟩ 1 v2 (by
    rw [c2]
    exact Nat.le_trans (Nat.add_le_add_right l2' 1) (by decide))
  have hb : ∃ v, State.buildMoveIn s slotT 1023 (msg 8 false offer0.lastBytes) offer0 = some v := by
    have h1' : s.allocMor (msg 8 false offer0.lastBytes).part ⟨(msg 8 false offer0.lastBytes).part, .priv, 0, slotT, []⟩ = some (root, v1) := h1
    have h2' : v1.growMortar (msg 8 false offer0.lastBytes).part slotT (Mortar.empty root) (offer0.entries.map (·.index)) = some (m, v2) := h2
    have h3' : v2.allocMors (msg 8 false offer0.lastBytes).part ⟨(msg 8 false offer0.lastBytes).part, .priv, 0, slotT, []⟩ (logFramesFor offer0.log.length) = some (lf, v3) := h3
    unfold State.buildMoveIn
    simp only [h1', h2', h3']
    exact ⟨_, rfl⟩
  obtain ⟨v, hv⟩ := hb
  exact ⟨v, calm_of (by decide), by decide, hears_of (by decide +kernel), by rfl, by decide, by decide, hv, by decide⟩

theorem meets_Moves_2 : ∃ m, (movingOut none).Calm ∧ (movingOut none).awake = true ∧ (movingOut none).Hears (msg 8 true 44) 8 true (some 44) 1023 mate ∧
    (movingOut none).moveByTag 1023 (msg 8 true 44).tag = some (0, m) ∧ m.target = none :=
  ⟨moveOut0 none, calm_of (by decide), by decide, hears_of (by decide +kernel), rfl, rfl⟩

theorem meets_Moves_3 : ∃ m, (movingOut none).Hears (msg 8 true 36) 8 true (some 36) 1023 mate ∧ (movingOut none).moveByTag 1023 (msg 8 true 36).tag = some (0, m) ∧
    (movingOut none).movesOut.get? 0 = some m ∧ m.target = none ∧ (0x0101 : Status) ≠ 0 ∧ (sub h0).owner = ⟨m.fn, m.sq, m.tag⟩ ∧
    (sub h0).sq = some 0 ∧ (movingOut none).Open (sub h0).fn 0 :=
  ⟨moveOut0 none, hears_of (by decide +kernel), rfl, rfl, rfl, by decide, rfl, rfl, open_of (by decide)⟩

/-- A move whose epoch the composition has not reached: the map in force is of epoch 0. -/
theorem meets_Moves_4 : ∃ m, (movingOut (some 12)).Hears (msg 8 false 44) 8 false (some 44) 1023 mate ∧ (movingOut (some 12)).checkHandle (some (msg 8 false 44).part) (msg 8 false 44).handle = none ∧
    (movingOut (some 12)).movesOut.get? 0 = some m ∧ m.peer = 1023 ∧ m.target = some 12 ∧
    (movingOut (some 12)).epochReached ((movingOut (some 12)).ses 0).comp m.epoch = false :=
  ⟨moveOut0 (some 12), hears_of (by decide +kernel), by decide, rfl, rfl, rfl, by decide⟩

/-- A move whose epoch is the one in force. -/
def reached : State := { movingOut (some 12) with movesOut := [(0, { moveOut0 (some 12) with epoch := 0 })] }

theorem meets_Moves_5 : ∃ m, reached.Calm ∧ reached.awake = true ∧ reached.Hears (msg 8 false 44) 8 false (some 44) 1023 mate ∧
    reached.checkHandle (some (msg 8 false 44).part) (msg 8 false 44).handle = none ∧ reached.movesOut.get? 0 = some m ∧ m.peer = 1023 ∧ m.target = some 12 ∧
    reached.epochReached (reached.ses 0).comp m.epoch = true ∧ reached.forwards.length < 65536 ∧ (sub h0).owner = ⟨m.fn, m.sq, m.tag⟩ ∧
    (sub h0).sq = some 0 ∧ reached.Open (sub h0).fn 0 :=
  ⟨{ moveOut0 (some 12) with epoch := 0 }, calm_of (by decide), by decide, hears_of (by decide +kernel), by decide, rfl, rfl, rfl, by decide, by decide,
    rfl, rfl, open_of (by decide)⟩

theorem meets_Moves_6 : ∃ m, reached.Hears (msg 8 false 40) 8 false (some 40) 1023 mate ∧ reached.checkHandle (some (msg 8 false 40).part) (msg 8 false 40).handle = none ∧
    reached.movesOut.get? 0 = some m ∧ m.peer = 1023 ∧ (sub h0).owner = ⟨m.fn, m.sq, m.tag⟩ ∧ (sub h0).sq = some 0 ∧ reached.Open (sub h0).fn 0 :=
  ⟨{ moveOut0 (some 12) with epoch := 0 }, hears_of (by decide +kernel), by decide, rfl, rfl, rfl, rfl, open_of (by decide)⟩

end Sys2Proof.Tests
end

