-- ==== Sys2Proof/Tests/MeetsRequests.lean ====
section
/-!
SUPPORT. Witnesses of the statements on requests.
-/

namespace Sys2Proof.Tests

-- Each witness is checked before the next one is read: a kernel evaluation that waits for the ones before it holds a thread of its own.
set_option Elab.async false

open Sys2Proof Sys2Proof.Machine

-- RequestStarts ---------------------------------------------------------------------------------------------------------------------------------

/-- A text table set of 16 tokens: the bytes a and b are tokens 1 and 2, which merge to token 12 (bucket 141), and token 1 spells A. -/
def text0 : TextSet :=
  ⟨0, [(0, 16), (4, 1), (7, 10), (10, 16), (12, 1), (0x10, 0x80), (0x18, 0x80), (0x19, 4), (0x21, 5), (0x29, 6), (0x31, 0x46), (0x38, 0x80),
    (0x39, 0x80), (0x204, 1), (0x208, 2), (0x48D, 1), (0x500, 0x41), (0xED0, 1), (0xED3, 0x80), (0xED4, 2), (0xED8, 12)], 5⟩

/-- The device whose context 0 has the text table, with a session without a log. -/
def texty (q : Option Req) (x : Session) : State := { served q x with ctxs := [((1, 0), ctx0 { img0 with text := some text0 } .ready)] }

/-- A request with the text "ab". -/
def argsT : ReqArgs := { args0 with text := { args0.text with inputText := true }, buf := [0x61, 0x62] }

set_option maxRecDepth 4000 in
theorem meets_RequestStarts_1 : ∃ c q, (texty none (ses0 .waiting)).Calm ∧ (texty none (ses0 .waiting)).Takes (sub h0) (.reqSubmit argsT) ∧
    (texty none (ses0 .waiting)).Quiet (sub h0).slot ∧ (texty none (ses0 .waiting)).checkReqA (sub h0) argsT = none ∧
    ((texty none (ses0 .waiting)).ses (sub h0).slot).noted = [] ∧
    q = newReq (sub h0) argsT 1 0 0 ((texty none (ses0 .waiting)).ctxClass 1 0 == .lc) ((texty none (ses0 .waiting)).marks 1) [] ∧
    (texty none (ses0 .waiting)).ctx q.part q.main = some c ∧ c.state = .ready ∧ (texty none (ses0 .waiting)).checkReqB q = none ∧
    (texty none (ses0 .waiting)).appendsNothing q = false ∧ argsT.input = .text [0x61, 0x62] ∧
    2 ≤ zeroActsAs ((texty none (ses0 .waiting)).fld Fld.TXT_CFG_MAX_INTAKE_MIB q.part) 1 * 2 ^ 20 :=
  ⟨ctx0 { img0 with text := some text0 } .ready,
    newReq (sub h0) argsT 1 0 0 ((texty none (ses0 .waiting)).ctxClass 1 0 == .lc) ((texty none (ses0 .waiting)).marks 1) [], calm_of (by decide),
    takes_of (by decide +kernel), quiet_of (by decide), by decide, rfl, rfl, rfl, rfl, by decide +kernel, by decide, rfl, by decide +kernel⟩

/-- The same request with two token entries. -/
def startT (x : Session) : State := { served none x with tiles := [], tileFrames := [] }

set_option maxRecDepth 4000 in
theorem meets_RequestStarts_3 : ∃ c q fs w, (startT (ses0 .waiting)).Calm ∧ (startT (ses0 .waiting)).Takes (sub h0) (.reqSubmit args0) ∧
    (startT (ses0 .waiting)).Quiet (sub h0).slot ∧ (startT (ses0 .waiting)).checkReqA (sub h0) args0 = none ∧
    ((startT (ses0 .waiting)).ses (sub h0).slot).noted = [] ∧
    q = newReq (sub h0) args0 1 0 0 ((startT (ses0 .waiting)).ctxClass 1 0 == .lc) ((startT (ses0 .waiting)).marks 1) [] ∧
    (startT (ses0 .waiting)).ctx q.part q.main = some c ∧ c.state = .ready ∧ (startT (ses0 .waiting)).checkReqB q = none ∧
    (startT (ses0 .waiting)).appendsNothing q = false ∧ args0.input = .tokens [3, 4] ∧ (∀ k ∈ [3, 4], k < c.img.vocab) ∧
    ((startT (ses0 .waiting)).ses (sub h0).slot).log.length + 2 ≤ 1048576 ∧ ((startT (ses0 .waiting)).ses (sub h0).slot).state = .waiting ∧
    (startT (ses0 .waiting)).needsFallback q = false ∧ args0.gram.mode = 0 ∧ args0.sample.seedDevice = false ∧ (sub h0).flags.exact = false ∧
    (startT (ses0 .waiting)).room q.part (reqTileFrames c.img) 0 = .fits ∧
    (startT (ses0 .waiting)).allocTiles q.part ⟨q.part, .priv, 0, 0, []⟩ (reqTileFrames c.img) = some (fs, w) := by
  obtain ⟨fs, w, h, _, _⟩ := allocTiles_some (p := 1) ⟨1, .priv, 0, 0, []⟩ 35 (startT (ses0 .waiting)) (by decide +kernel)
  exact ⟨ctx0 img0 .ready, newReq (sub h0) args0 1 0 0 ((startT (ses0 .waiting)).ctxClass 1 0 == .lc) ((startT (ses0 .waiting)).marks 1) [], fs, w,
    calm_of (by decide), takes_of (by decide +kernel), quiet_of (by decide), by decide, rfl, rfl, rfl, rfl, by decide +kernel, by decide, rfl,
    by decide, by decide, rfl, by decide, rfl, rfl, rfl, by decide +kernel, h⟩

/-- A submission that asks for an exact re-prefill. -/
def subX : Sub := { sub h0 with flags := { (sub h0).flags with exact := true } }

/-- The five orders at which a submission is refused. -/
theorem meets_RequestStarts_4 : (startT (ses0 .waiting)).Takes { sub h0 with paramBad := true } (.reqSubmit args0) ∧
    (startT (ses0 .waiting)).Takes (sub h0) (.reqSubmit { args0 with block := 0x71 }) ∧ 0x71 ≠ 0x70 + (args0.stops.map List.length).sum ∧
    args0.block = 0x70 + (args0.stops.map List.length).sum ∧
    (startT (ses0 .waiting)).Takes (sub h0) (.reqSubmit { args0 with text := { args0.text with resv := true } }) ∧
    (startT (ses0 .failed)).Takes (sub h0) (.reqSubmit args0) ∧ (startT (ses0 .failed)).Quiet 0 ∧ (sub h0).flags.exact = false ∧
    (startT (ses0 .waiting)).Takes subX (.reqSubmit args0) ∧ subX.flags.exact = true ∧
    (startT (ses0 .moving)).Takes (sub h0) (.reqSubmit args0) ∧ (startT (ses0 .moving)).movesIn.has 0 = false ∧
    (startT { ses0 .waiting with comp := 8 }).Takes (sub h0) (.reqSubmit args0) ∧ (startT { ses0 .waiting with comp := 8 }).compHeld 8 = none ∧
    (sub h0).flags.fallback = false :=
  ⟨takes_of (by decide +kernel), takes_of (by decide +kernel), by decide, rfl, takes_of (by decide +kernel), takes_of (by decide +kernel),
    quiet_of (by decide), rfl, takes_of (by decide +kernel), rfl, takes_of (by decide +kernel), rfl, takes_of (by decide +kernel), rfl, rfl⟩

/-- A request whose text is being tokenised. -/
def reqT : Req := { req0 .admitted with args := argsT, wait := some .tokens, fbCtx := 0x3F }

/-- Its device. -/
def tokenising : State := { texty (some reqT) { ses0 .waiting with op := .request } with tileFrames := [], tiles := [] }

theorem meets_RequestStarts_2 : ∃ x c fs w, tokenising.Calm ∧ tokenising.awake = true ∧ tokenising.req 0 = some reqT ∧ reqT.slot = 0 ∧
    reqT.part = (tokenising.ses 0).part ∧ reqT.main = (tokenising.ses 0).main ∧ reqT.args.input = .text [0x61, 0x62] ∧
    tokenising.textOf reqT.part reqT.main = some x ∧ reqT.wait = some .tokens ∧ reqT.fbCtx = 0x3F ∧ x.invalidBytes reqT.args.text.specials [0x61, 0x62] = 0 ∧
    x.tokenise reqT.args.text.specials [0x61, 0x62] = [12] ∧ (tokenising.ses 0).log.length + 1 ≤ 1048576 ∧ (tokenising.ses 0).state = .waiting ∧
    tokenising.ctx reqT.part reqT.main = some c ∧ tokenising.needsFallback reqT = false ∧ reqT.args.gram.mode = 0 ∧
    reqT.args.sample.seedDevice = false ∧ reqT.exact = false ∧
    (tokenising.bump Fld.TXT_INVALID_COUNT reqT.part 0).room reqT.part (reqTileFrames c.img) 0 = .fits ∧
    (tokenising.bump Fld.TXT_INVALID_COUNT reqT.part 0).allocTiles reqT.part ⟨reqT.part, .priv, 0, 0, []⟩ (reqTileFrames c.img) = some (fs, w) := by
  obtain ⟨fs, w, h, _, _⟩ := allocTiles_some (p := 1) ⟨1, .priv, 0, 0, []⟩ 35 (tokenising.bump Fld.TXT_INVALID_COUNT 1 0) (by decide +kernel)
  exact ⟨text0, ctx0 { img0 with text := some text0 } .ready, fs, w, calm_of (by decide), by decide, rfl, rfl, rfl, rfl, rfl, rfl, rfl, rfl,
    by decide +kernel, by decide +kernel, by decide, rfl, rfl, by decide, rfl, rfl, rfl, by decide +kernel, h⟩

-- TokenCommit -----------------------------------------------------------------------------------------------------------------------------------

/-- An emit ring of 4 KiB with HEAD at a place. -/
def ring0 (head : Nat) : Emit := ⟨⟨0x10000, 12, 0x20000⟩, head, 0, 3⟩

/-- A request whose token waits for room in its ring. -/
def holdsToken (head : Nat) : Req := { req0 .generating with opening := true, held := some ⟨1, false⟩, emit := some (ring0 head) }

/-- A session with room in its tile and its log. -/
def roomy : Session := { sesT .active with logFrames := [9], log := [⟨3, false, true⟩] }

theorem meets_TokenCommit_1 : ∃ ts, (texty (some (holdsToken 4096)) roomy).Calm ∧ (texty (some (holdsToken 4096)) roomy).awake = true ∧
    (texty (some (holdsToken 4096)) roomy).req 0 = some (holdsToken 4096) ∧ (holdsToken 4096).held = some ⟨1, false⟩ ∧
    (holdsToken 4096).emit = some (ring0 4096) ∧
    ts = textStep (holdsToken 4096).args.text (holdsToken 4096).args.stops (holdsToken 4096).utf8 (holdsToken 4096).stopHold
      (tokenBytes ((texty (some (holdsToken 4096)) roomy).textOf 1 0) (holdsToken 4096).args.text 1) ∧ ts.text ≠ [] ∧
    { ring0 4096 with tail := 0 }.fits (recordBytes ts.text) = false :=
  ⟨_, calm_of (by decide), by decide, rfl, rfl, rfl, rfl, by decide +kernel, by decide +kernel⟩

theorem meets_TokenCommit_2 : ∃ ts c, (texty (some (holdsToken 0)) roomy).req 0 = some (holdsToken 0) ∧
    ts = textStep (holdsToken 0).args.text (holdsToken 0).args.stops (holdsToken 0).utf8 (holdsToken 0).stopHold
      (tokenBytes ((texty (some (holdsToken 0)) roomy).textOf 1 0) (holdsToken 0).args.text 1) ∧
    { ring0 0 with tail := 0 }.fits (recordBytes ts.text) = true ∧ (holdsToken 0).slot = 0 ∧ (holdsToken 0).opening = true ∧
    (holdsToken 0).onFallback = false ∧ ts.fired = false ∧ 1 ≠ (texty (some (holdsToken 0)) roomy).eosOf (holdsToken 0) ∧
    (holdsToken 0).committed + 1 < (holdsToken 0).args.sample.maxTokens ∧
    ((texty (some (holdsToken 0)) roomy).ses 0).log.length + 1 ≤ 1048576 ∧
    logFramesFor (((texty (some (holdsToken 0)) roomy).ses 0).log.length + 1) ≤ ((texty (some (holdsToken 0)) roomy).ses 0).logFrames.length ∧
    (texty (some (holdsToken 0)) roomy).modelOf (holdsToken 0) = some c ∧
    (∀ j, j < c.pairs → ∃ k d, ((texty (some (holdsToken 0)) roomy).ses 0).mortar.lastOf c.pairs j = some (k, d) ∧ d.fill < c.geom.p) := by
  refine ⟨_, { img0 with text := some text0 }, rfl, rfl, by decide +kernel, rfl, rfl, rfl, by decide +kernel, by decide, by decide, by decide,
    by decide, rfl, fun j hj => ?_⟩
  obtain rfl : j = 0 := Nat.lt_one_iff.mp hj
  exact ⟨0, inFrame 5, rfl, by decide⟩

-- RequestEnds -----------------------------------------------------------------------------------------------------------------------------------

/-- A request with running budgets. -/
def budgeted : Req :=
  { req0 .generating with first := ⟨900, true, false, 50, 75⟩, inter := ⟨900, true, false, 50, 75⟩, total := ⟨900, true, false, 50, 75⟩ }

theorem meets_RequestEnds_1 : (served (some budgeted) (sesT .active)).Calm ∧ (served (some budgeted) (sesT .active)).req 0 = some budgeted ∧
    budgeted.sq = some 0 ∧ (served (some budgeted) (sesT .active)).Open budgeted.fn 0 ∧ (served (some budgeted) (sesT .active)).awake = true ∧
    (budgeted.budget 2).running = true ∧ budgeted.phase = .generating ∧ budgeted.emit = none ∧
    (served (some budgeted) (sesT .active)).handoffs.get? 0 = none :=
  ⟨calm_of (by decide), rfl, rfl, open_of (by decide), by decide, rfl, rfl, rfl, rfl⟩

/-- A request whose end record waits for room. -/
def ending (head : Nat) : Req := { req0 .ending with heldEnd := some ⟨.ok, [0x41], 0, 0⟩, emit := some (ring0 head) }

theorem meets_RequestEnds_2 : ∃ h, (served (some (ending 0)) (sesT .active)).Calm ∧ (served (some (ending 0)) (sesT .active)).req 0 = some (ending 0) ∧
    (ending 0).sq = some 0 ∧ (served (some (ending 0)) (sesT .active)).Open (ending 0).fn 0 ∧ (ending 0).heldEnd = some h ∧
    (ending 0).emit = some (ring0 0) ∧ { ring0 0 with tail := 0 }.fits (recordBytes h.text) = true :=
  ⟨⟨.ok, [0x41], 0, 0⟩, calm_of (by decide), rfl, rfl, open_of (by decide), rfl, rfl, by decide⟩

theorem meets_RequestEnds_3 : ∃ h, (ending 4096).heldEnd = some h ∧ (ending 4096).emit = some (ring0 4096) ∧
    { ring0 4096 with tail := 0 }.fits (recordBytes h.text) = false := ⟨⟨.ok, [0x41], 0, 0⟩, rfl, rfl, by decide⟩

/-- A submission that cancels the request. -/
def canceller : Sub := { sub h0 with tag := 8 }

theorem meets_RequestEnds_4 : (served (some (req0 .generating)) (sesT .active)).Takes canceller (.reqCancel (req0 .generating).tag) ∧
    canceller.slot = 0 ∧ canceller.fn = (req0 .generating).fn ∧ (req0 .generating).phase = .generating ∧ (req0 .generating).emit = none ∧
    (served (some (req0 .generating)) (sesT .active)).handoffs.get? 0 = none :=
  ⟨takes_of (by decide +kernel), rfl, rfl, rfl, rfl, rfl⟩

-- Deadlines --------------------------------------------------------------------------------------------------------------------------------------

theorem meets_Deadlines_1 : (served (some budgeted) (sesT .active)).Calm ∧ (served (some budgeted) (sesT .active)).awake = true ∧
    (served (some budgeted) (sesT .active)).req 0 = some budgeted ∧ (budgeted.budget 0).running = true ∧ (budgeted.budget 0).noticed = false ∧
    (budgeted.budget 0).warn ≠ 0 ∧ 900 ≤ (budgeted.budget 0).us ∧ budgeted.sq = some 0 ∧
    (served (some budgeted) (sesT .active)).Open budgeted.fn 0 :=
  ⟨calm_of (by decide), by decide, rfl, rfl, rfl, by decide, by decide, rfl, open_of (by decide)⟩

/-- The device whose context 0 falls back to context 1. -/
def fallible (q : Req) : State :=
  { served (some q) { sesT .active with log := [⟨3, false, true⟩], fallback := 1 } with
    ctxs := [((1, 0), ctx0 { img0 with fallback := 1 } .ready), ((1, 1), ctx0 { img0 with kind := .fallback } .ready)], tileFrames := [] }

/-- A request with running budgets on the main model. -/
def running : Req := { budgeted with fbCtx := 0x3F }

/-- The request once its step is dropped. -/
def dropped : Req := { running with pending := [], served := [], held := none, packet := none, chunks := [] }

theorem fbRoom (s : State) (q : Req) (hq : q.part = 1) (ht : s.tileFrames = []) (hm : s.mortarFrames = []) (ct : s.tileCount 1 = 4096)
    (cm : s.morCount 1 = 4096) : ∃ v, s.allocFb q { img0 with kind := .fallback } 1 = some v := by
  obtain ⟨n, v1, h1, e1, -⟩ := allocTile_some (s := s) (p := 1) ⟨1, .priv, 0, q.slot, []⟩ (by rw [ht, ct]; decide)
  have c1 : v1.morCount 1 = 4096 := by rw [e1]; exact cm
  have m1 : v1.mortarFrames = [] := by rw [e1]; exact hm
  obtain ⟨fs, v2, h2, -, -⟩ := allocMors_some (p := 1) ⟨1, .priv, 0, q.slot, []⟩ 3 v1 (by rw [m1, c1]; decide)
  have h1' : s.allocTiles 1 ⟨1, .priv, 0, q.slot, []⟩ 1 = some ([n], v1) := by rw [State.allocTiles, h1]; rfl
  have hf : s.allocFb q { img0 with kind := .fallback } 1 = v1.fbGrow { q with fbPages := [] } [(0, ⟨.lpddr, false, false, false, 0, 0, n⟩)] := by
    show (match s.allocTiles q.part ⟨q.part, .priv, 0, q.slot, []⟩ 1 with
      | none => none
      | some (fs, s1) => s1.fbGrow { q with fbPages := [] } (([0].zip fs).map (fun (kf : Nat × Nat) => (kf.1, (⟨.lpddr, false, false, false, 0, 0, kf.2⟩ : MEntry))))) = _
    rw [hq, h1']
    rfl
  have hg : v1.fbGrow { q with fbPages := [] } [(0, ⟨.lpddr, false, false, false, 0, 0, n⟩)] =
      (match v1.allocMors q.part ⟨q.part, .priv, 0, q.slot, []⟩ 3 with
      | none => none
      | some (fs, s1) => some (s1.modReq q.slot (fun r => { r with fbTiles := [(0, ⟨.lpddr, false, false, false, 0, 0, n⟩)], fbPages := [] ++ fs }))) := rfl
  rw [hf, hg, hq, h2]
  exact ⟨_, rfl⟩

theorem meets_Deadlines_2 : ∃ v, (fallible running).Calm ∧ (fallible running).awake = true ∧ (fallible running).req 0 = some running ∧
    running.slot = 0 ∧ running.phase = .generating ∧ running.fbCtx = 0x3F ∧ running.wait ≠ some .fallback ∧
    (fallible running).handoffs.get? 0 = none ∧ (running.budget 1).running = true ∧ (running.budget 1).switch ≠ 0 ∧
    (fallible running).fallbackOf 0 = .ready 1 { img0 with kind := .fallback } ∧
    ((fallible running).dropStep 0).allocFb dropped { img0 with kind := .fallback } ((fallible running).ses 0).log.length = some v := by
  obtain ⟨v, hv⟩ := fbRoom ((fallible running).dropStep 0) dropped rfl rfl rfl (by decide) (by decide)
  exact ⟨v, calm_of (by decide), by decide, rfl, rfl, rfl, rfl, by decide, rfl, rfl, by decide, rfl, hv⟩

/-- A request that waits for its fallback mortar. -/
def refilling : Req := { req0 .generating with onFallback := true, fbCtx := 1, fbTiles := [(0, inFrame 6)] }

theorem meets_Deadlines_3 : ∃ f, (fallible refilling).Calm ∧ (fallible refilling).req 0 = some refilling ∧ refilling.slot = 0 ∧
    (fallible refilling).ctx refilling.part refilling.fbCtx = some f ∧ refilling.onFallback = true ∧ refilling.fbReady = false ∧
    refilling.phase = .generating ∧ fbTilesOk f.img ((fallible refilling).ses 0).log.length [⟨0, 0, 0, false, tile0⟩] = true ∧
    (fallible refilling).logIsBack 0 = true :=
  ⟨ctx0 { img0 with kind := .fallback } .ready, calm_of (by decide), rfl, rfl, rfl, rfl, rfl, rfl, by decide +kernel, rfl⟩

theorem meets_Deadlines_4 : (served (some { req0 .generating with grammar := some 3 }) (sesT .active)).Calm ∧
    (served (some { req0 .generating with grammar := some 3 }) (sesT .active)).req 0 = some { req0 .generating with grammar := some 3 } ∧
    { req0 .generating with grammar := some 3 }.grammar ≠ none ∧ { req0 .generating with grammar := some 3 }.maskReady = false ∧
    { req0 .generating with grammar := some 3 }.phase ≠ .ending ∧ { req0 .generating with grammar := some 3 }.packet = none :=
  ⟨calm_of (by decide), rfl, by decide, rfl, by decide, rfl⟩

-- FunctionResets and hostDmaError on a running request ------------------------------------------------------------------------------------------

/-- The device whose one request runs for physical function 0. -/
theorem meets_FunctionResets_6 : (served none (sesT .active)).Idle ∧ (served none (sesT .active)).doeUp pf = true ∧ (req0 .generating).fn = pf ∧
    (req0 .generating).phase = .generating ∧ (req0 .generating).emit = none ∧ (req0 .generating).sq = some 0 ∧ (req0 .generating).part < 16 ∧
    (served none (sesT .active)).Open pf 0 :=
  ⟨idle_of (by decide), by decide, rfl, rfl, rfl, rfl, by decide, open_of (by decide)⟩

end Sys2Proof.Tests
end

