-- ==== Sys2Proof/Tests/MeetsSessions.lean ====
section
/-!
SUPPORT. Witnesses of the statements on sessions, prefixes, handoffs, pulls and moves.
-/

namespace Sys2Proof.Tests

-- Each witness is checked before the next one is read: a kernel evaluation that waits for the ones before it holds a thread of its own.
set_option Elab.async false

open Sys2Proof Sys2Proof.Machine

-- SessionCommands --------------------------------------------------------------------------------------------------------------------------

/-- The device with a waiting session of one tile. -/
def waits : State := served none (sesT .waiting)

theorem meets_SessionCommands_1 : waits.Calm ∧ waits.Takes (sub h0) .sesQuery := ⟨calm_of (by decide), takes_of (by decide +kernel)⟩

theorem meets_SessionCommands_2 : waits.Takes (sub h0) (.sesSetHostData 1) ∧ (waits.ses (sub h0).slot).state ≠ .moving ∧
    waits.claimed (sub h0).slot = false ∧ waits.bondRoom (waits.ses (sub h0).slot).part = true :=
  ⟨takes_of (by decide +kernel), by decide, by decide, by decide +kernel⟩

theorem meets_SessionCommands_3 : ∃ x, waits.Takes (sub h0) .sesClose ∧ waits.Quiet (sub h0).slot ∧ waits.ses (sub h0).slot = x ∧
    x.state = .waiting := ⟨_, takes_of (by decide +kernel), quiet_of (by decide), rfl, rfl⟩

theorem meets_SessionCommands_4 : ∃ x, (served none (sesT .moving)).Takes (sub h0) .sesClose ∧ (served none (sesT .moving)).Quiet (sub h0).slot ∧
    (served none (sesT .moving)).ses (sub h0).slot = x ∧ x.state ≠ .opened ∧ x.state ≠ .waiting ∧ x.state ≠ .parked ∧ x.state ≠ .failed :=
  ⟨sesT .moving, takes_of (by decide +kernel), quiet_of (by decide), rfl, by decide, by decide, by decide, by decide⟩

/-- A session of context 0 without composition or prefix. -/
def create0 : SesCreateArgs := ⟨0, 0xFFFF, 0, ⟨3, 0, 1⟩, 5⟩

set_option maxRecDepth 20000 in
theorem meets_SessionCommands_5 : ∃ slot root v c, (cored img0 none).Calm ∧ (cored img0 none).Takes sub (.sesCreate create0) ∧
    (cored img0 none).subPart sub = 1 ∧ create0.pfx = 0xFFFF ∧ (cored img0 none).checkCreate sub create0 = none ∧
    (cored img0 none).morUsed 1 < (cored img0 none).morCount 1 ∧ (cored img0 none).bondRoom 1 = true ∧ (cored img0 none).newSlot 1 = some slot ∧
    (cored img0 none).ctx 1 create0.main = some c ∧
    State.allocMor { cored img0 none with freeCtr := (cored img0 none).freeCtr + 1 } 1 ⟨1, .priv, 0, slot, []⟩ = some (root, v) :=
  ⟨_, _, _, _, calm_of (by decide), takes_of (by decide +kernel), rfl, rfl, by decide +kernel, by decide, by decide +kernel, rfl, rfl, rfl⟩

/-- A registered prefix of one full tile, in frame 6. -/
def prefix1 : Prefix := ⟨0, 128, 1, 0, ⟨9, [], [], [(0, { inFrame 6 with shared := true, fill := 128 })]⟩, [⟨3, false, false⟩], [10], 0⟩

/-- The device with that prefix and no session. -/
def prefixed1 : State :=
  { cored img0 none with prefixes := [((1, 65534), prefix1)], tileFrames := [(6, ⟨1, .shared, 1, 65534, []⟩)], tiles := [(.frame 6, tile0)] }

/-- A session over it. -/
def create1 : SesCreateArgs := { create0 with pfx := 65534 }

theorem build1 (n : Nat) : ∃ v, State.buildSes { prefixed1 with freeCtr := prefixed1.freeCtr + 1 } 1 n create1 = some v := by
  obtain ⟨root, v1, h1, e1, l1⟩ := allocMor_some (s := { prefixed1 with freeCtr := prefixed1.freeCtr + 1 }) (p := 1) ⟨1, .priv, 0, n, []⟩ (by decide)
  have c1 : v1.morCount 1 = 4096 := by rw [e1]; show prefixed1.morCount 1 = 4096; decide
  have l1' : v1.mortarFrames.length ≤ 1 := l1
  obtain ⟨m, v2, h2, e2, l2⟩ := growMortar_some (s := v1) (p := 1) (o := n) (m := Mortar.empty root) (es := [0]) (by
    rw [c1]
    exact Nat.le_trans (Nat.add_le_add_right (Nat.add_le_add_right l1' 1) 1) (by decide))
  have c2 : v2.morCount 1 = 4096 := by rw [e2, e1]; show prefixed1.morCount 1 = 4096; decide
  have l2' : v2.mortarFrames.length ≤ 3 := Nat.le_trans l2 (Nat.add_le_add_right (Nat.add_le_add_right l1' 1) 1)
  have t2 : v2.tileFrames = prefixed1.tileFrames := by rw [e2, e1]
  have p2 : v2.pinned 6 = false := by unfold State.pinned; rw [t2]; rfl
  obtain ⟨lf, v4, h4, e4, l4⟩ := allocMors_some (p := 1) ⟨1, .priv, 0, n, []⟩ 1 (v2.addRef 6) (by
    have e6 : v2.addRef 6 = { v2 with tileFrames := (v2.addRef 6).tileFrames } := by
      unfold State.addRef
      split
      · rfl
      · split <;> rfl
    rw [e6]
    show v2.mortarFrames.length + 1 ≤ v2.morCount 1
    rw [c2]
    exact Nat.le_trans (Nat.add_le_add_right l2' 1) (by decide))
  generalize hs : ({ prefixed1 with freeCtr := prefixed1.freeCtr + 1 } : State) = s0 at h1
  have hp : s0.pfxOf 1 create1.pfx = some prefix1 := by rw [← hs]; rfl
  unfold State.buildSes
  rw [h1]
  dsimp only
  rw [hp]
  dsimp only
  rw [show prefix1.mortar.entries.map (·.1) = [0] from rfl, h2]
  dsimp only
  rw [show prefix1.mortar.entries = [(0, { inFrame 6 with shared := true, fill := 128 })] from rfl, State.takeEntries,
    if_neg (by rw [show MEntry.frame { inFrame 6 with shared := true, fill := 128 } = 6 from rfl, p2]; exact Bool.false_ne_true), State.takeEntries]
  dsimp only
  rw [show (inFrame 6).frame = 6 from rfl, show logFramesFor prefix1.log.length = 1 from rfl, h4]
  exact ⟨_, rfl⟩

set_option maxRecDepth 20000 in
theorem meets_SessionCommands_6 : ∃ slot r v, prefixed1.Calm ∧ prefixed1.Takes sub (.sesCreate create1) ∧ prefixed1.subPart sub = 1 ∧
    prefixed1.pfxOf 1 create1.pfx = some r ∧ prefixed1.checkCreate sub create1 = none ∧
    prefixed1.room 1 (prefixed1.createNeeds 1 create1).1 (prefixed1.createNeeds 1 create1).2 = .fits ∧ prefixed1.bondRoom 1 = true ∧
    prefixed1.newSlot 1 = some slot ∧ State.buildSes { prefixed1 with freeCtr := prefixed1.freeCtr + 1 } 1 slot create1 = some v :=
  (build1 _).elim fun v hv => ⟨_, prefix1, v, calm_of (by decide), takes_of (by decide +kernel), rfl, rfl, by decide +kernel, by decide +kernel,
    by decide +kernel, rfl, hv⟩

-- Prefixes -------------------------------------------------------------------------------------------------------------------------------------

/-- The full tiles of the first position: none. -/
def full0 : List (Nat × MEntry) := fullEntries (waits.ses 0).mortar (waits.pairsOf 0) (1 / (waits.geomOf 0).p)

/-- The cut tiles of the first position: the one of the session. -/
def cut0 : List (Nat × MEntry) :=
  if 1 % (waits.geomOf 0).p = 0 then [] else partialEntries (waits.ses 0).mortar (waits.pairsOf 0) (1 / (waits.geomOf 0).p)

theorem meets_Prefixes_1 : ∃ id root lf m sh ct v0 v1 v2 v3 v4 v5, waits.Calm ∧ waits.Takes (sub h0) (.pfxRegister 1) ∧ waits.Quiet (sub h0).slot ∧
    (waits.ses (sub h0).slot).part = 1 ∧ (waits.ses (sub h0).slot).state = .waiting ∧ 1 ≤ (waits.ses (sub h0).slot).nextPos ∧
    waits.awayBelow (sub h0).slot 1 = false ∧ waits.dressedBelow (sub h0).slot 1 = false ∧ waits.freePfx 1 = some id ∧
    waits.room 1 (waits.registerNeeds 1 id 1 full0 cut0).1 (waits.registerNeeds 1 id 1 full0 cut0).2 = .fits ∧ waits.regPage 1 id = some v0 ∧
    v0.allocMor 1 ⟨1, .priv, 0, 0, []⟩ = some (root, v1) ∧
    v1.growMortar 1 0 (Mortar.empty root) ((full0 ++ cut0).map (·.1)) = some (m, v2) ∧
    v2.allocMors 1 ⟨1, .priv, 0, 0, []⟩ (logFramesFor 1) = some (lf, v3) ∧
    v3.shareTiles 1 id full0 [] = some (sh, v4) ∧ v4.cutTiles 1 id 1 cut0 [] = some (ct, v5) := by
  obtain ⟨pg, vp, hp, ep, lp⟩ := allocMor_some (s := waits) (p := 1) ⟨1, .priv, 0, 0, []⟩ (by decide)
  have h0 : waits.regPage 1 (0 + Config.pick 0 % 65535) = some { vp with regPages := vp.regPages.set (1, (0 + Config.pick 0 % 65535) / 128) pg } := by
    unfold State.regPage
    rw [if_neg (by exact Bool.false_ne_true), hp]
  generalize hv0 : { vp with regPages := vp.regPages.set (1, (0 + Config.pick 0 % 65535) / 128) pg } = v0 at h0
  have c0 : v0.morCount 1 = 4096 := by rw [← hv0, ep]; show waits.morCount 1 = 4096; decide
  have l0 : v0.mortarFrames.length ≤ 1 := by rw [← hv0]; exact lp
  obtain ⟨root, v1, h1, e1, l1⟩ := allocMor_some (s := v0) (p := 1) ⟨1, .priv, 0, 0, []⟩ (by rw [c0]; exact Nat.lt_of_le_of_lt l0 (by decide))
  have c1 : v1.morCount 1 = 4096 := by rw [e1]; exact c0
  have l1' : v1.mortarFrames.length ≤ 2 := Nat.le_trans l1 (Nat.add_le_add_right l0 1)
  obtain ⟨m, v2, h2, e2, l2⟩ := growMortar_some (s := v1) (p := 1) (o := 0) (m := Mortar.empty root) (es := [0]) (by
    rw [c1]
    exact Nat.le_trans (Nat.add_le_add_right (Nat.add_le_add_right l1' 1) 1) (by decide))
  have c2 : v2.morCount 1 = 4096 := by rw [e2]; exact c1
  have l2' : v2.mortarFrames.length ≤ 4 := Nat.le_trans l2 (Nat.add_le_add_right (Nat.add_le_add_right l1' 1) 1)
  obtain ⟨lf, v3, h3, e3, l3⟩ := allocMors_some (p := 1) ⟨1, .priv, 0, 0, []⟩ (logFramesFor 1) v2 (by
    rw [c2]
    exact Nat.le_trans (Nat.add_le_add_right l2' 1) (by decide))
  have t3 : v3.tiles = waits.tiles := by rw [e3, e2, e1, ← hv0, ep]
  have f3 : v3.tileFrames = waits.tileFrames := by rw [e3, e2, e1, ← hv0, ep]
  have c3 : v3.tileCount 1 = 4096 := by rw [e3, e2, e1, ← hv0, ep]; show waits.tileCount 1 = 4096; decide
  obtain ⟨n, v4, h4, e4, l4⟩ := allocTile_some (s := v3) (p := 1) ⟨1, .shared, 0, Config.pick 0 % 65535, []⟩ (by rw [f3, c3]; decide)
  have ta : v3.tileAt (inFrame 5) = some tile0 := by
    show v3.tiles.get? (.frame 5) = some tile0
    rw [t3]
    rfl
  have hc : ∃ ct v5, v3.cutTiles 1 (0 + Config.pick 0 % 65535) 1 [(0, inFrame 5)] [] = some (ct, v5) := by
    rw [Nat.zero_add]
    unfold State.cutTiles
    simp only [ta, h4]
    exact ⟨_, _, rfl⟩
  obtain ⟨ct, v5, h5⟩ := hc
  exact ⟨_, root, lf, m, [], ct, v0, v1, v2, v3, v3, v5, calm_of (by decide), takes_of (by decide +kernel), quiet_of (by decide), rfl, rfl, by decide,
    by decide, by decide, rfl, by decide +kernel, h0, h1, h2, h3, rfl, h5⟩

/-- The session while its registration waits for frames, or finds none. -/
theorem meets_Prefixes_5 : ∃ id, (tight 1 5 waits).Calm ∧ (tight 1 5 waits).Takes (sub h0) (.pfxRegister 1) ∧ (tight 1 5 waits).Quiet (sub h0).slot ∧
    (tight 1 5 waits).ses (sub h0).slot = sesT .waiting ∧ (tight 1 5 waits).awayBelow (sub h0).slot 1 = false ∧
    (tight 1 5 waits).dressedBelow (sub h0).slot 1 = false ∧ (tight 1 5 waits).freePfx 1 = some id ∧
    (tight 1 5 waits).room 1 ((tight 1 5 waits).registerNeeds 1 id 1 full0 cut0).1 ((tight 1 5 waits).registerNeeds 1 id 1 full0 cut0).2 = .waits ∧
    (tight 1 4 waits).Takes (sub h0) (.pfxRegister 1) ∧ (tight 1 4 waits).freePfx 1 = some id ∧
    (tight 1 4 waits).room 1 ((tight 1 4 waits).registerNeeds 1 id 1 full0 cut0).1 ((tight 1 4 waits).registerNeeds 1 id 1 full0 cut0).2 = .refused :=
  ⟨_, calm_of (by decide), takes_of (by decide +kernel), quiet_of (by decide), rfl, by decide, by decide, rfl, by decide +kernel,
    takes_of (by decide +kernel), rfl, by decide +kernel⟩

/-- The session with its tile away, or dressed. -/
def turned (e : MEntry) : State := served none { sesT .waiting with mortar := ⟨0, [], [], [(0, e)]⟩ }

theorem meets_Prefixes_6 : (turned { inFrame 5 with tier := .quarry }).Takes (sub h0) (.pfxRegister 1) ∧
    (turned { inFrame 5 with tier := .quarry }).Quiet (sub h0).slot ∧
    (turned { inFrame 5 with tier := .quarry }).awayBelow (sub h0).slot 1 = true ∧
    (turned { inFrame 5 with dressed := true }).Takes (sub h0) (.pfxRegister 1) ∧ (turned { inFrame 5 with dressed := true }).Quiet (sub h0).slot ∧
    (turned { inFrame 5 with dressed := true }).awayBelow (sub h0).slot 1 = false ∧
    (turned { inFrame 5 with dressed := true }).dressedBelow (sub h0).slot 1 = true :=
  ⟨takes_of (by decide +kernel), quiet_of (by decide), by decide, takes_of (by decide +kernel), quiet_of (by decide), by decide, by decide⟩

theorem findFree_none {α : Type} (m : AMap Nat α) (first count : Nat) (h : ∀ k, k < count → m.has (first + k) = true) (hc : 0 < count) :
    ∀ fuel start : Nat, findFree m first count start fuel = none := by
  intro fuel
  induction fuel with
  | zero => intro start; rfl
  | succ n ih =>
    intro start
    rw [findFree, if_neg (Nat.pos_iff_ne_zero.mp hc), if_pos (h _ (Nat.mod_lt _ hc))]
    exact ih _

/-- The device with so many registered prefixes. -/
def held (n : Nat) : State := { waits with prefixes := (List.range n).map (fun i => ((1, i), prefix1)) }

theorem held_used (l : List Nat) (k : Nat) (h : k ∈ l) :
    AMap.has (((l.map (fun i => ((1, i), prefix1))).filter (fun kv => kv.1.1 == 1)).map (fun kv => (kv.1.2, ()))) k = true := by
  induction l with
  | nil => cases h
  | cons a r ih =>
    rw [List.map_cons, List.filter_cons_of_pos (by rfl), List.map_cons, AMap.has, AMap.get?]
    by_cases e : a = k
    · rw [if_pos e]; rfl
    · rw [if_neg e]
      exact ih ((List.mem_cons.mp h).resolve_left (fun x => e x.symm))

theorem held_full (n : Nat) (h : 65535 ≤ n) : (held n).freePfx 1 = none := by
  unfold State.freePfx
  exact findFree_none _ 0 65535 (fun k hk => held_used _ _ (List.mem_range.mpr (by omega))) (by decide) _ _

theorem meets_Prefixes_8 : (held 65535).Takes (sub h0) (.pfxRegister 1) ∧ (held 65535).freePfx 1 = none :=
  ⟨takes_of (by decide +kernel), held_full _ (Nat.le_refl _)⟩

theorem meets_Prefixes_2 : waits.Takes (sub h0) (.pfxRegister 2) ∧ waits.Quiet (sub h0).slot ∧ (waits.ses (sub h0).slot).state = .waiting ∧
    (waits.ses (sub h0).slot).nextPos < 2 ∧ (served none (sesT .failed)).Takes (sub h0) (.pfxRegister 1) ∧
    (served none (sesT .failed)).Quiet (sub h0).slot ∧ ((served none (sesT .failed)).ses (sub h0).slot).state ≠ .waiting :=
  ⟨takes_of (by decide +kernel), quiet_of (by decide), rfl, by decide, takes_of (by decide +kernel), quiet_of (by decide), by decide⟩

/-- The device with a registered prefix. -/
def prefixed : State := { waits with prefixes := [((1, 65534), ⟨0, 1, 0, 0, Mortar.empty 9, [], [10], 0⟩)] }

theorem meets_Prefixes_3 : ∃ r, prefixed.Calm ∧ prefixed.Takes sub (.pfxUnregister 65534) ∧ sub.resv = false ∧ prefixed.subPart sub = 1 ∧
    prefixed.prefixes.get? (1, 65534) = some r ∧ prefixed.createWaits 1 65534 = false :=
  ⟨_, calm_of (by decide), takes_of (by decide +kernel), rfl, rfl, rfl, rfl⟩

/-- A create over the prefix waits for frames. -/
def entering : State := { prefixed with allocWait := [(sub, .sesCreate create1)] }

theorem meets_Prefixes_7 : entering.Calm ∧ entering.Takes sub (.pfxUnregister 65534) ∧ entering.subPart sub = 1 ∧
    entering.prefixes.has (1, 65534) = true ∧ entering.createWaits 1 65534 = true :=
  ⟨calm_of (by decide), takes_of (by decide +kernel), rfl, rfl, by decide⟩

theorem meets_Prefixes_4 : waits.Takes sub (.pfxUnregister 0) ∧ sub.resv = false ∧ waits.subPart sub = 1 ∧ waits.prefixes.get? (1, 0) = none :=
  ⟨takes_of (by decide +kernel), rfl, rfl, rfl⟩

-- Handoffs ------------------------------------------------------------------------------------------------------------------------------------

/-- A handoff of positions 0 to 128, which take two tiles. -/
def hand0 (o : Option Owner) : Handoff := ⟨0, 129, [], [], 4, false, 0, 0, .waiting, o⟩

/-- A device with an empty session whose tiles are being handed over. -/
def handing (q : Option Req) (o : Option Owner) : State :=
  { served q (ses0 .active) with handoffs := [(0, hand0 o)], tileFrames := [], tiles := [] }

/-- A full pushed tile. -/
def push0 : PushedTile := ⟨0, 0, 0, false, { tile0 with positions := (List.range' 0 128).map (fun n =>
  ⟨[], [], [], [], 0, n, false, 1⟩) }⟩

set_option maxRecDepth 4000 in
theorem meets_Handoffs_1 : ∃ n w c x y v, (handing (some (req0 .appending)) none).Calm ∧ (handing (some (req0 .appending)) none).awake = true ∧
    (handing (some (req0 .appending)) none).Hears (msg 7 false 18480) 7 false (some 18480) 1023 partner ∧
    (handing (some (req0 .appending)) none).checkHandle (some (msg 7 false 18480).part) (msg 7 false 18480).handle = none ∧
    (handing (some (req0 .appending)) none).handoffs.get? 0 = some w ∧ (handing (some (req0 .appending)) none).mainImg 0 = some c ∧
    (handing (some (req0 .appending)) none).req 0 = some (req0 .appending) ∧ (req0 .appending).onFallback = false ∧
    (handing (some (req0 .appending)) none).senderOk ((handing (some (req0 .appending)) none).handoffEpoch 0).1 ((handing (some (req0 .appending)) none).handoffEpoch 0).2 (msg 7 false 18480) = true ∧ push0.tile.geom = c.geom ∧ push0.head < c.heads ∧
    pushFits x push0 = true ∧
    ((handing (some (req0 .appending)) none).expectAll 0 c w).find? (fun z => z.1 == push0.column * c.pairs + (push0.layer * c.heads + push0.head)) =
      some (push0.column * c.pairs + (push0.layer * c.heads + push0.head), x) ∧
    w.staged.get? (push0.column * c.pairs + (push0.layer * c.heads + push0.head)) = none ∧ y ∈ v.expectAll 0 c w ∧
    y.1 ≠ push0.column * c.pairs + (push0.layer * c.heads + push0.head) ∧ w.staged.has y.1 = false ∧
    ((handing (some (req0 .appending)) none).peerSeen 1023).allocTile 1 ⟨1, .priv, 0, 0, []⟩ = some (n, v) :=
  ⟨_, hand0 none, img0, ⟨0, 0, 128, false⟩, (1, ⟨1, 128, 129, false⟩), _, calm_of (by decide), by decide, hears_of (by decide +kernel), by decide, rfl, rfl,
    rfl, rfl, by decide, rfl, by decide, by decide +kernel, by decide +kernel, rfl, List.Mem.tail _ (List.Mem.head _), by decide, by decide, rfl⟩

/-- A push of another epoch, and one for a session that is not there. -/
def late7 : Hdr := { msg 7 false 18480 with epoch := 1 }
def lost7 : Hdr := { msg 7 false 18480 with handle := mkHandle 1 0 2 }

theorem meets_Handoffs_2 : waits.Calm ∧ waits.awake = true ∧ waits.Hears (msg 7 false 18480) 7 false (some 18480) 1023 partner ∧ waits.handoffs.get? 0 = none ∧
    (handing (some (req0 .appending)) none).Hears late7 7 false (some 18480) 1023 partner ∧
    (handing (some (req0 .appending)) none).senderOk ((handing (some (req0 .appending)) none).handoffEpoch 0).1 ((handing (some (req0 .appending)) none).handoffEpoch 0).2 late7 = false ∧
    (handing (some (req0 .appending)) none).Hears lost7 7 false (some 18480) 1023 partner ∧ (handing (some (req0 .appending)) none).checkHandle (some lost7.part) lost7.handle ≠ none :=
  ⟨calm_of (by decide), by decide, hears_of (by decide +kernel), rfl, hears_of (by decide +kernel), by decide, hears_of (by decide +kernel), by decide⟩

theorem meets_Handoffs_3 : ∃ w, (handing none (some (sub h0).owner)).Calm ∧ (handing none (some (sub h0).owner)).handoffs.get? 0 = some w ∧
    w.owner = some (sub h0).owner ∧ (handing none (some (sub h0).owner)).req 0 = none ∧ (sub h0).sq = some 0 ∧
    (handing none (some (sub h0).owner)).Open (sub h0).fn 0 := ⟨_, calm_of (by decide), rfl, rfl, rfl, rfl, open_of (by decide)⟩

/-- A request whose step is served but for its logits. -/
def drawing : Req := { req0 .generating with opening := true }

theorem meets_Handoffs_4 : (served (some drawing) (sesT .active)).Hears (msg 4 false 52) 4 false (some (msg 4 false 52).bytes) 1023 partner ∧
    (msg 4 false 52).bytes = 48 + [0, 0].length * (if false then 4 else 2) ∧
    (served (some drawing) (sesT .active)).checkHandle none (msg 4 false 52).handle = none ∧ (served (some drawing) (sesT .active)).generating 0 = some drawing ∧
    drawing.onFallback = false ∧ (served (some drawing) (sesT .active)).checkSender drawing (some (msg 4 false 52)) (msg 4 false 52).epoch = none ∧
    0 = (served (some drawing) (sesT .active)).duePos drawing ∧ [0, 0].length ≤ chunkCap false ∧ overlaps drawing.chunks 14 [0, 0].length = false ∧
    (served (some drawing) (sesT .active)).allServed drawing = true ∧ false = drawing.args.sample.logitsFp32 ∧
    packetOf (drawing.chunks.set 14 ([0, 0].map bf16to32))
      (match (served (some drawing) (sesT .active)).modelOf drawing with | some c => c.vocab | none => 0) = none :=
  ⟨hears_of (by decide +kernel), rfl, by decide, rfl, rfl, by decide, by decide, by decide, by decide, rfl, rfl, by decide +kernel⟩

/-- A request that the fallback model serves. -/
def fallen : Req := { req0 .generating with opening := true, onFallback := true, fbReady := true, fbCtx := 0 }

theorem meets_Handoffs_5 : ∃ pk, (served (some fallen) { sesT .active with log := [⟨3, false, true⟩] }).generating 0 = some fallen ∧
    (served (some fallen) { sesT .active with log := [⟨3, false, true⟩] }).checkSender fallen none fallen.epoch = none ∧
    0 = (served (some fallen) { sesT .active with log := [⟨3, false, true⟩] }).duePos fallen ∧
    (List.replicate 16 0).length ≤ chunkCap false ∧ overlaps fallen.chunks 0 (List.replicate 16 0).length = false ∧
    (served (some fallen) { sesT .active with log := [⟨3, false, true⟩] }).allServed fallen = true ∧ false = fallen.args.sample.logitsFp32 ∧
    fallen.maskReady = false ∧ packetOf (fallen.chunks.set 0 ((List.replicate 16 0).map bf16to32))
      (match (served (some fallen) { sesT .active with log := [⟨3, false, true⟩] }).modelOf fallen with | some c => c.vocab | none => 0) = some pk :=
  ⟨List.replicate 16 0, rfl, rfl, by decide, by decide, by decide, rfl, rfl, rfl, by decide +kernel⟩

end Sys2Proof.Tests
end

