-- ==== Sys2Proof/Tests/MeetsVectors.lean ====
section
/-!
SUPPORT. Witnesses of the statements on vector search, compositions and grammars.
-/

namespace Sys2Proof.Tests

-- Each witness is checked before the next one is read: a kernel evaluation that waits for the ones before it holds a thread of its own.
set_option Elab.async false

open Sys2Proof Sys2Proof.Machine

-- Collections -----------------------------------------------------------------------------------------------------------------------------------

/-- A collection's geometry: 256-bit sketches, two dimensions, capacity 8. -/
def geom0 : CollGeom := ⟨0, false, 0, 64, 2, 10, 8⟩

/-- A node of an item. -/
def node0 (item del : Nat) : Node := ⟨0, [0, 0], 0, [], item, del⟩

/-- A collection of partition 1 with the live item 5, in its side list. -/
def coll0 : Coll := ⟨1, 2, geom0, none, 0, 0, [node0 5 0], [(5, 0)], 0, geom0.extent, false, false, false, false, 0⟩

/-- The device with a search context of 1 MiB, and collections. -/
def searching (c : AMap Nat Coll) : State :=
  { served none (sesT .waiting) with
    ctxs := [((1, 0), ctx0 img0 .ready), ((1, 2), ctx0 { img0 with kind := .search, arena := 2 ^ 20 } .ready)], colls := c }

theorem meets_Collections_1 : ∃ x off, (searching []).Calm ∧ (searching []).subPart sub = 1 ∧ (searching []).Takes sub (.vsrCreate ⟨2, geom0⟩) ∧
    geom0.ok = true ∧ (searching []).ctx 1 2 = some x ∧ x.img.kind = .search ∧ x.state ≠ .absent ∧ (searching []).colls.get? 0 = none ∧
    firstFit geom0.extent x.img.arena 0 ((searching []).extents 1 2) = some off :=
  ⟨ctx0 { img0 with kind := .search, arena := 2 ^ 20 } .ready, 0, calm_of (by decide), rfl, takes_of (by decide +kernel), by decide, rfl, rfl,
    by decide, rfl, by decide +kernel⟩

/-- Every collection number is taken. -/
def allColls : AMap Nat Coll := (List.range 256).map (fun n => (n, coll0))

theorem meets_Collections_2 : (searching []).Takes sub (.vsrCreate ⟨2, { geom0 with degree := 65 }⟩) ∧ { geom0 with degree := 65 }.ok = false ∧
    (searching []).Takes sub (.vsrCreate ⟨0, geom0⟩) ∧ (searching allColls).Takes sub (.vsrCreate ⟨2, geom0⟩) ∧
    (∀ n, n < 256 → (searching allColls).colls.get? n ≠ none) ∧
    (searching []).Takes sub (.vsrCreate ⟨2, { geom0 with capacity := 2 ^ 29, logIds := 32 }⟩) ∧
    { geom0 with capacity := 2 ^ 29, logIds := 32 }.ok = true ∧
    firstFit { geom0 with capacity := 2 ^ 29, logIds := 32 }.extent (2 ^ 20) 0 ((searching []).extents 1 2) = none :=
  ⟨takes_of (by decide +kernel), by decide, takes_of (by decide +kernel), takes_of (by decide +kernel), by decide +kernel,
    takes_of (by decide +kernel), by decide, by decide +kernel⟩

theorem meets_Collections_3 : ∃ c, (searching [(255, coll0)]).Takes sub (.vsrInsert ⟨255, 6, 1, [0, 0], 0⟩) ∧
    (searching [(255, coll0)]).colls.get? 255 = some c ∧ c.part = 1 ∧ c.dropping = false ∧ c.closed = false ∧ (6 : Nat) ≠ 0xFFFFFFFF ∧
    [0, 0].length = c.geom.dims ∧ c.live 6 = none ∧ c.sideLen ≠ 16777216 ∧ c.nodes.length ≠ c.geom.capacity :=
  ⟨coll0, takes_of (by decide +kernel), rfl, rfl, rfl, rfl, by decide, rfl, rfl, by decide, by decide⟩

theorem meets_Collections_4 : (searching []).Takes sub (.vsrInsert ⟨0, 6, 1, [0, 0], 0⟩) ∧ (searching []).colls.get? 0 = none ∧
    (searching [(255, coll0)]).Takes sub (.vsrInsert ⟨255, 5, 1, [0, 0], 0⟩) ∧ coll0.live 5 ≠ none ∧
    (searching [(255, coll0)]).Takes sub (.vsrInsert ⟨255, 0xFFFFFFFF, 1, [0, 0], 0⟩) ∧
    (searching [(255, { coll0 with geom := { geom0 with capacity := 1 } })]).Takes sub (.vsrInsert ⟨255, 6, 1, [0, 0], 0⟩) ∧
    { coll0 with geom := { geom0 with capacity := 1 } }.nodes.length = { coll0 with geom := { geom0 with capacity := 1 } }.geom.capacity :=
  ⟨takes_of (by decide +kernel), rfl, takes_of (by decide +kernel), by decide, takes_of (by decide +kernel), takes_of (by decide +kernel), rfl⟩

theorem meets_Collections_5 : ∃ c x, (searching [(255, coll0)]).Takes sub (.vsrDelete 255 5) ∧ (searching [(255, coll0)]).colls.get? 255 = some c ∧
    c.part = 1 ∧ c.dropping = false ∧ c.closed = false ∧ c.items.get? 5 = some 0 ∧ c.nodes[0]? = some x ∧ x.del = 0 :=
  ⟨coll0, node0 5 0, takes_of (by decide +kernel), rfl, rfl, rfl, rfl, rfl, rfl, rfl⟩

theorem meets_Collections_6 : (searching [(255, coll0)]).Takes sub (.vsrDelete 255 6) ∧ coll0.live 6 = none ∧
    (searching [(255, coll0)]).Takes sub (.vsrDrop 255) ∧ (searching [(255, coll0)]).scans.get? 255 = none ∧
    (searching [(255, coll0)]).Takes sub (.vsrDrop 254) ∧ (searching [(255, coll0)]).colls.get? 254 = none :=
  ⟨takes_of (by decide +kernel), rfl, takes_of (by decide +kernel), rfl, takes_of (by decide +kernel), rfl⟩

-- Queries ---------------------------------------------------------------------------------------------------------------------------------------

/-- A query of one item. -/
def ask0 : VsrAsk := ⟨255, 0, [0, 0], 1, 1, 1024⟩

/-- A device with the collection and a scan window. -/
def window (w : Nat) : State := (searching [(255, coll0)]).setFld Fld.VSR_CFG_SCAN_WINDOW w 1

theorem meets_Queries_1 : ∃ x, (window 0).Calm ∧ (window 0).Takes sub (.vsrQuery ask0) ∧ (window 0).subPart sub = 1 ∧
    (window 0).colls.get? 255 = some coll0 ∧ 1 ≤ ask0.k ∧ ask0.k ≤ ask0.ef ∧ ask0.ef ≤ 1024 ∧ ask0.k ≤ ask0.rerank ∧ ask0.rerank ≤ 1024 ∧
    ask0.vec.length = coll0.geom.dims ∧ (window 0).ctx 1 2 = some x ∧ x.state = .ready ∧ (window 0).fld Fld.VSR_CFG_SCAN_WINDOW 1 = 0 :=
  ⟨ctx0 { img0 with kind := .search, arena := 2 ^ 20 } .ready, calm_of (by decide), takes_of (by decide +kernel), rfl, rfl, by decide, by decide,
    by decide, by decide, by decide, rfl, rfl, rfl, by decide⟩

theorem meets_Queries_2 : (window 9).Calm ∧ (window 9).Takes sub (.vsrQuery ask0) ∧ (window 9).fld Fld.VSR_CFG_SCAN_WINDOW 1 ≠ 0 ∧
    ((window 9).scans.getD 255 []).length + 1 < (window 9).scanMax 1 := ⟨calm_of (by decide), takes_of (by decide +kernel), by decide, by decide⟩

/-- The device whose search context is being loaded. -/
def unloaded : State :=
  { window 0 with ctxs := [((1, 0), ctx0 img0 .ready), ((1, 2), ctx0 { img0 with kind := .search, arena := 2 ^ 20 } .loading)] }

theorem meets_Queries_3 : ∃ x, unloaded.Takes sub (.vsrQuery ask0) ∧ unloaded.ctx 1 2 = some x ∧ x.state = .loading :=
  ⟨ctx0 { img0 with kind := .search, arena := 2 ^ 20 } .loading, takes_of (by decide +kernel), rfl, rfl⟩

theorem meets_Queries_4 : (window 0).Takes sub (.vsrQuery { ask0 with rerank := 1025 }) ∧ 1024 < { ask0 with rerank := 1025 }.rerank ∧
    (window 0).Takes sub (.vsrQuery { ask0 with coll := 0 }) ∧ (window 0).colls.get? 0 = none ∧ (window 0).Takes sub (.vsrPoint 255) :=
  ⟨takes_of (by decide +kernel), by decide, takes_of (by decide +kernel), rfl, takes_of (by decide +kernel)⟩

/-- An open batch of one query. -/
def batched : State := { window 9 with scans := [(255, [⟨pf, some 0, 7, ask0, 1, 0, 1, 0⟩])] }

theorem meets_Queries_5 : ∃ r, batched.Calm ∧ batched.awake = true ∧ batched.scans = [(255, [r])] ∧ batched.colls.get? 255 = some coll0 ∧
    r.ask.coll = 255 ∧ r.sq = some 0 ∧ batched.Open r.fn 0 := ⟨_, calm_of (by decide), by decide, rfl, rfl, rfl, rfl, open_of (by decide)⟩

/-- The device whose collection is to be pointed. -/
def pointing : State := searching [(255, { coll0 with asked := true })]

theorem meets_Queries_6 : ∃ c, pointing.Calm ∧ pointing.awake = true ∧ pointing.colls.get? 255 = some c ∧ pointing.points c = true ∧ c.asked = true ∧
    c.sideLen = 1 := ⟨{ coll0 with asked := true }, calm_of (by decide), by decide, rfl, by decide +kernel, rfl, rfl⟩

theorem meets_Queries_7 : ((searching [(255, coll0)]).setFld Fld.VSR_POINT_CFG_AUTO 0 1).awake = true ∧
    ((searching [(255, coll0)]).setFld Fld.VSR_POINT_CFG_AUTO 0 1).points coll0 = false := ⟨by decide, by decide +kernel⟩

-- Compositions ----------------------------------------------------------------------------------------------------------------------------------

/-- A map of a composition of partition 1. -/
def cmap (comp main epoch : Nat) : CMap := { map9 with comp := comp, main := main, epoch := epoch }

/-- The device without sessions, with a link map of port 7. -/
def composed : State :=
  { served none (sesT .waiting) with boot := { (served none (sesT .waiting)).boot with links := [⟨7, true, 2, 0, 0xFFFF⟩] } }

theorem meets_Compositions_1 : composed.Calm ∧ composed.Takes sub (.cmpInstall (cmap 0xFFFF 1 0)) ∧ composed.subPart sub = 1 ∧ composed.movesOut = [] ∧
    (cmap 0xFFFF 1 0).ok = true ∧ composed.compById 0xFFFF = none ∧ (∀ kv ∈ composed.comps, kv.2.part = 1 → kv.2.main ≠ 1) ∧
    composed.comps.length < 256 ∧ composed.comps.get? 1 = none ∧ (∀ j, j < 1 → composed.comps.get? j ≠ none) :=
  ⟨calm_of (by decide), takes_of (by decide +kernel), rfl, rfl, by decide, rfl, by decide, by decide, rfl, by decide⟩

theorem meets_Compositions_2 : ∃ c, composed.Takes sub (.cmpInstall (cmap 9 0 (2 ^ 31 - 1))) ∧ (cmap 9 0 (2 ^ 31 - 1)).ok = true ∧
    composed.comps.find? (fun kv => kv.2.id == 9) = some (0, c) ∧ c.part = 1 ∧ c.main = 0 ∧ (cmap 9 0 (2 ^ 31 - 1)).epoch < 2 ^ 32 ∧
    c.cur.epoch < 2 ^ 32 ∧ 1 ≤ ((2 ^ 31 - 1) + 2 ^ 32 - c.cur.epoch) % 2 ^ 32 ∧ ((2 ^ 31 - 1) + 2 ^ 32 - c.cur.epoch) % 2 ^ 32 < 2 ^ 31 :=
  ⟨_, takes_of (by decide +kernel), by decide, rfl, rfl, rfl, by decide, by decide, by decide, by decide⟩

theorem meets_Compositions_3 : ∃ c, composed.Takes sub (.cmpInstall { cmap 9 0 1 with resv := 1 }) ∧ { cmap 9 0 1 with resv := 1 }.ok = false ∧
    composed.Takes sub (.cmpInstall (cmap 10 0 1)) ∧ composed.compById 10 = none ∧ (∃ kv ∈ composed.comps, kv.2.part = 1 ∧ kv.2.main = 0) ∧
    composed.Takes sub (.cmpInstall (cmap 9 0 0)) ∧ composed.compById 9 = some c ∧ (0 + 2 ^ 32 - c.cur.epoch % 2 ^ 32) % 2 ^ 32 = 0 ∧
    composed.Takes sub (.cmpInstall (cmap 9 0 (2 ^ 31))) :=
  ⟨⟨9, 1, 0, map9, [], false, 0, 0, 0⟩, takes_of (by decide +kernel), by decide,
    takes_of (by decide +kernel), rfl, by decide, takes_of (by decide +kernel), rfl, by decide, takes_of (by decide +kernel)⟩

theorem meets_Compositions_4 : ∃ c, composed.Takes sub (.cmpRemove 9) ∧ (0, c) ∈ composed.comps ∧ c.id = 9 ∧ c.part = 1 ∧
    (∀ kv ∈ composed.comps, kv.2.id = 9 → kv = (0, c)) ∧ composed.Takes sub (.cmpRemove 10) ∧
    (∀ kv ∈ composed.comps, kv.2.id = 10 → kv.2.part ≠ 1) ∧ composed.awake = true :=
  ⟨⟨9, 1, 0, map9, [], false, 0, 0, 0⟩, takes_of (by decide +kernel), List.mem_cons_self ..,
    rfl, rfl, by decide, takes_of (by decide +kernel), by decide, by decide⟩

theorem meets_Compositions_5 : ∃ x, composed.Takes sub (.peerAdd 11 2) ∧ composed.admitting 11 = some (3, x) ∧
    composed.Takes sub (.peerAdd 12 2) ∧ composed.admitting 12 = none ∧ composed.peers.get? 0 = none ∧ composed.portsTo 12 ≠ [] :=
  ⟨_, takes_of (by decide +kernel), rfl, takes_of (by decide +kernel), rfl, rfl, by decide⟩

/-- What a table holds that gives each number a value. -/
theorem get_table {α : Type} (f : Nat → α) (l : List Nat) (k : Nat) (h : k ∈ l) :
    AMap.get? (l.map (fun i => (i, f i))) k = some (f k) := by
  induction l with
  | nil => cases h
  | cons a r ih =>
    by_cases e : a = k
    · subst e; exact if_pos rfl
    · rw [List.map_cons, AMap.get?, if_neg e]
      exact ih ((List.mem_cons.mp h).resolve_left (fun x => e x.symm))

/-- A peer of a full table: the higher its index, the earlier its last use. -/
def crowd (i : Nat) : Peer := { mate with fabric := 100 + i, lastUse := 1023 - i }

/-- So many of them. -/
def crowds (n : Nat) : AMap Nat Peer := (List.range n).map (fun i => (i, crowd i))

theorem crowds_mem (n : Nat) (kv : Nat × Peer) (h : kv ∈ crowds n) : kv.2 = crowd kv.1 ∧ kv.1 < n := by
  obtain ⟨i, hi, rfl⟩ := List.mem_map.mp h
  exact ⟨rfl, List.mem_range.mp hi⟩

theorem crowds_get (n k : Nat) (h : k < n) : (crowds n).get? k = some (crowd k) := get_table crowd _ k (List.mem_range.mpr h)

theorem crowds_ne (n k : Nat) (h : k < n) : (crowds n).get? k ≠ none :=
  fun e => Option.some_ne_none _ ((crowds_get n k h).symm.trans e)

theorem mem_crowds (n k : Nat) (h : k < n) : (k, crowd k) ∈ crowds n := List.mem_map.mpr ⟨k, List.mem_range.mpr h, rfl⟩

theorem crowds_last (n m : Nat) (kv : Nat × Peer) (h : kv ∈ crowds m) (hne : kv ≠ (n, crowd n)) (hn : n = 1023) (hm : m = n + 1) :
    (crowd n).lastUse < kv.2.lastUse := by
  obtain ⟨k, v⟩ := kv
  obtain ⟨h1, h2⟩ := crowds_mem m _ h
  dsimp only at h1 h2
  subst h1
  have hk : k ≠ n := fun e => hne (by rw [e])
  have e1 : (crowd n).lastUse = 1023 - n := rfl
  have e2 : (crowd k).lastUse = 1023 - k := rfl
  show (crowd n).lastUse < (crowd k).lastUse
  rw [e1, e2]
  omega

/-- A device with a full table of idle peers. -/
def fullTable : State := { composed with peers := crowds 1024 }

theorem fullTable_peers : fullTable.peers = crowds 1024 := by
  unfold fullTable
  generalize crowds 1024 = x
  rfl

theorem meets_Compositions_6 : fullTable.Calm ∧ fullTable.Takes sub (.peerAdd 12 2) ∧ fullTable.admitting 12 = none ∧ fullTable.portsTo 12 ≠ [] ∧
    (∀ k, k < 1024 → fullTable.peers.get? k ≠ none) ∧ (1023, crowd 1023) ∈ fullTable.peers ∧ (crowd 1023).state = .admitted ∧
    fullTable.busyOf 1023 = 0 ∧ (crowd 1023).asks = [] ∧
    (∀ kv ∈ fullTable.peers, kv ≠ (1023, crowd 1023) → kv.1 < 1024 → (crowd 1023).lastUse < kv.2.lastUse) := by
  refine ⟨calm_of (by decide +kernel), takes_of (by decide +kernel), by decide +kernel, by decide +kernel, fun k h => ?_,
    ?_, ?_, by decide +kernel, ?_, fun kv h hne _ => ?_⟩
  · rw [fullTable_peers]
    exact crowds_ne 1024 k h
  · rw [fullTable_peers]
    exact mem_crowds 1024 1023 (by omega)
  · rfl
  · rfl
  · rw [fullTable_peers] at h
    exact crowds_last 1023 1024 kv h hne rfl rfl

/-- A device whose peer table is full of peers that are being admitted. -/
def fullGuests : State := { composed with peers := guests 1024 }

theorem guests_ne (n k : Nat) (h : k < n) : (guests n).get? k ≠ none := by
  intro e
  have h1 := guests_has n k (List.mem_range.mpr h)
  rw [AMap.has, e] at h1
  cases h1

theorem guests_admitting (n : Nat) (kv : Nat × Peer) (h : kv ∈ guests n) : kv.2.state ≠ .admitted := by
  obtain ⟨i, -, rfl⟩ := List.mem_map.mp h
  exact PeerState.noConfusion

theorem fullGuests_peers : fullGuests.peers = guests 1024 := by
  unfold fullGuests
  generalize guests 1024 = x
  rfl

theorem meets_Compositions_7 : fullGuests.Calm ∧ fullGuests.Takes sub (.peerAdd 12 2) ∧ fullGuests.admitting 12 = none ∧
    (∀ k, k < 1024 → fullGuests.peers.get? k ≠ none) ∧
    (∀ kv ∈ fullGuests.peers, kv.1 < 1024 → kv.2.state = .admitted → fullGuests.busyOf kv.1 ≠ 0) := by
  refine ⟨calm_of (by decide +kernel), takes_of (by decide +kernel), by decide +kernel, fun k h => ?_, fun kv h _ e => ?_⟩
  · rw [fullGuests_peers]
    exact guests_ne 1024 k h
  · rw [fullGuests_peers] at h
    exact absurd e (guests_admitting 1024 kv h)

-- Grammars --------------------------------------------------------------------------------------------------------------------------------------

/-- The text table set of the tests: 16 tokens, 2^10 buckets, MAX_PIECE 16, one class page; its tables lie at 0x80 and hold zeros. -/
def text1 : TextSet := ⟨0, [(0, 16), (7, 10), (10, 16), (12, 1), (16, 0x80), (24, 0x80), (32, 0x80), (40, 0x80), (48, 0x80), (56, 0x80)], 5⟩

/-- The bytes of a grammar image of one state, from START_STATE on. -/
def gramTail : Memory :=
  [(0x10, 0xFF), (0x11, 0xFF), (0x12, 1), (0x14, 1), (0x16, 1), (0x18, 10), (0x20, 0x80), (0x28, 0x80), (0x29, 1), (0x30, 0x80), (0x31, 0x81),
   (0x38, 0x80), (0x39, 0x81), (0x40, 0x80), (0x41, 0x81), (0x48, 0x88), (0x49, 0x81), (0x50, 5)]

/-- A grammar image: 16 tokens, EOS_TOKEN 15, one state, no bucket that is valid. -/
def gram0 : GrmImage := ⟨[(0, 16), (4, 15), (8, 1)] ++ gramTail⟩

/-- The image with START_STATE 1. -/
def gram1 : GrmImage := ⟨[(0, 16), (4, 15), (8, 1), (0x0C, 1)] ++ gramTail⟩

/-- The image with a pair bucket of state 1. -/
def gram2 : GrmImage := ⟨gram0.mem ++ [(0x180, 1), (0x183, 0x80)]⟩

/-- The device whose context 0 has the text table, with grammars. -/
def spoken (g : AMap (Nat × Nat) Grammar) : State :=
  { served none (sesT .waiting) with ctxs := [((1, 0), ctx0 { img0 with text := some text1 } .ready)], grammars := g }

theorem meets_Grammars_1 : ∃ x fs v, (spoken []).Calm ∧ (spoken []).subPart sub = 1 ∧ (spoken []).Takes sub (.grmLoad 0 gram0) ∧ sub.resv = false ∧
    (spoken []).mainCtx 1 0 = true ∧ (spoken []).textOf 1 0 = some x ∧ gram0.offence x = none ∧ (spoken []).grammars.get? (1, 0) = none ∧
    (spoken []).morUsed 1 + ceilDiv gram0.bytes 4096 ≤ (spoken []).morCount 1 ∧ (spoken []).bondRoom 1 = true ∧
    (spoken []).allocMors 1 ⟨1, .priv, 0, 0, []⟩ (ceilDiv gram0.bytes 4096) = some (fs, v) := by
  obtain ⟨fs, v, h, _, _⟩ := allocMors_some (p := 1) ⟨1, .priv, 0, 0, []⟩ (ceilDiv gram0.bytes 4096) (spoken []) (by decide +kernel)
  exact ⟨text1, fs, v, calm_of (by decide), rfl, takes_of (by decide +kernel), rfl, by decide, rfl, by decide +kernel, rfl, by decide +kernel,
    by decide +kernel, h⟩

theorem text1_sound : text1.offence 33160 = none := by decide +kernel

/-- So many IDs of partition 1's registry are taken. -/
def allGrammars (n : Nat) : AMap (Nat × Nat) Grammar := (List.range n).map (fun i => ((1, i), ⟨0, gram0, 1, false, 0, []⟩))

theorem meets_Grammars_5 : (tight 0 9 (spoken [])).Calm ∧ (tight 0 9 (spoken [])).Takes sub (.grmLoad 0 gram0) ∧ sub.resv = false ∧
    (tight 0 9 (spoken [])).mainCtx 1 0 = true ∧ (tight 0 9 (spoken [])).textOf 1 0 = some text1 ∧ gram0.offence text1 = none ∧
    (tight 0 9 (spoken [])).grammars.get? (1, 1022) = none ∧ (tight 0 9 (spoken [])).room 1 0 (ceilDiv gram0.bytes 4096) = .waits :=
  ⟨calm_of (by decide), takes_of (by decide +kernel), rfl, by decide, rfl, by decide +kernel, rfl, by decide +kernel⟩

theorem allGrammars_get (n k : Nat) (h : k < n) : (spoken (allGrammars n)).grammars.get? (1, k) ≠ none := by
  show (allGrammars n).get? (1, k) ≠ none
  unfold allGrammars
  have hk := List.mem_range.mpr h
  revert hk
  generalize List.range n = l
  induction l with
  | nil => exact fun x => nomatch x
  | cons a r ih =>
    intro hm
    by_cases e : a = k
    · subst e
      rw [List.map_cons, AMap.get?, if_pos rfl]
      exact Option.some_ne_none _
    · rw [List.map_cons, AMap.get?, if_neg (fun x => e (Prod.mk.inj x).2)]
      exact ih ((List.mem_cons.mp hm).resolve_left (fun x => e x.symm))

theorem meets_Grammars_6 : (spoken (allGrammars 1023)).Takes sub (.grmLoad 0 gram0) ∧ (∀ k, k < 1023 → (spoken (allGrammars 1023)).grammars.get? (1, k) ≠ none) ∧
    (tight 0 8 (spoken [])).Takes sub (.grmLoad 0 gram0) ∧ (tight 0 8 (spoken [])).room 1 0 (ceilDiv gram0.bytes 4096) = .refused :=
  ⟨takes_of (by decide +kernel), fun k h => allGrammars_get 1023 k h, takes_of (by decide +kernel), by decide +kernel⟩

theorem meets_Grammars_2 : (served none (sesT .waiting)).Takes sub (.grmLoad 0 gram0) ∧ (served none (sesT .waiting)).mainCtx 1 0 = true ∧
    (served none (sesT .waiting)).textOf 1 0 = none ∧ (spoken []).Takes sub (.grmLoad 3 gram0) ∧ (spoken []).mainCtx 1 3 = false ∧
    (spoken []).Takes sub (.grmLoad 0 gram1) ∧ gram1.offence text1 = some 0x0C ∧ gram2.offence text1 = some 0x180 :=
  ⟨takes_of (by decide +kernel), by decide, rfl, takes_of (by decide +kernel), by decide, takes_of (by decide +kernel), by decide +kernel,
    by decide +kernel⟩

/-- A registered grammar with so many users. -/
def kept (n : Nat) (u : Bool) : Grammar := ⟨0, gram0, 1, u, n, [20]⟩

theorem meets_Grammars_3 : (spoken [((1, 1022), kept 0 false)]).Calm ∧ (spoken [((1, 1022), kept 0 false)]).Takes sub (.grmUnload 1022) ∧
    (spoken [((1, 1022), kept 0 false)]).grammars.get? (1, 1022) = some (kept 0 false) ∧ (kept 0 false).unloading = false ∧
    (spoken [((1, 1022), kept 2 false)]).Takes sub (.grmUnload 1022) ∧ (kept 2 false).users ≠ 0 :=
  ⟨calm_of (by decide), takes_of (by decide +kernel), rfl, rfl, takes_of (by decide +kernel), by decide⟩

theorem meets_Grammars_4 : (spoken []).Takes sub (.grmUnload 0) ∧ (spoken []).grammars.get? (1, 0) = none ∧
    (spoken [((1, 3), kept 1 true)]).Takes sub (.grmUnload 3) ∧ (spoken [((1, 3), kept 1 true)]).grammars.get? (1, 3) = some (kept 1 true) ∧
    (kept 1 true).unloading = true := ⟨takes_of (by decide +kernel), rfl, takes_of (by decide +kernel), rfl, rfl⟩

end Sys2Proof.Tests
end

