-- ==== Sys2Proof/Tests/Slice0.lean ====
section
/-!
SUPPORT. Tests: for each check of a well-formed command a term that it refuses.
-/

namespace Sys2Proof.Tests

open Sys2Proof.Machine

/-- Functions beyond the two controllers and their 17 functions (R672), and envelopes beyond the widths of R680. -/
theorem test_wf_fn : Fn.wf ⟨2, 0⟩ = false ∧ Fn.wf ⟨0, 17⟩ = false ∧ Fn.wf ⟨1, 16⟩ = true ∧
    (∀ u : Sub, u.tag = 65536 ∨ u.part = 16 ∨ u.sq = some 64 ∨ u.fn.wf = false → u.wf = false) := by
  refine ⟨by decide, by decide, by decide, ?_⟩
  rintro u (h | h | h | h) <;> simp [Sub.wf, h]

/-- Headers beyond the widths of R570. -/
theorem test_wf_header (h : Hdr) (k : 8 ≤ h.port ∨ 4 ≤ h.vc ∨ 32 ≤ h.key ∨ 256 ≤ h.type ∨ 256 ≤ h.flags ∨ 256 ≤ h.partByte ∨ 256 ≤ h.zero ∨
    2 ^ 32 ≤ h.length ∨ 65536 ≤ h.src ∨ 65536 ≤ h.dst ∨ 2 ^ 32 ≤ h.epoch ∨ 65536 ≤ h.comp ∨ 2 ^ 32 ≤ h.tag) : h.wf = false := by
  cases hw : h.wf with
  | false => rfl
  | true => simp [Hdr.wf] at hw; omega

/-- Host commands with an operand beyond its width are refused. -/
theorem test_wf_host (badSub : Sub) (hs : badSub.wf = false) (badFn : Fn) (hf : badFn.wf = false) (badHdr : Hdr) (hh : badHdr.wf = false) :
    (∀ (x1 : SesCreateArgs), Instr.wf (.sesCreate badSub x1) = false) ∧ (Instr.wf (.sesClose badSub) = false) ∧ (Instr.wf (.sesQuery badSub) = false) ∧
    (∀ (x1 : BitVec 128), Instr.wf (.sesSetHostData badSub x1) = false) ∧ (∀ (x1 : Option Hints), Instr.wf (.sesPark badSub x1) = false) ∧
    (Instr.wf (.sesRevive badSub) = false) ∧ (∀ (x1 : Nat) (x2 : Nat), Instr.wf (.sesMove badSub x1 x2) = false) ∧
    (∀ (x0 : Sub) (x2 : Nat), Instr.wf (.sesMove x0 1024 x2) = false) ∧ (∀ (x0 : Sub) (x1 : Nat), Instr.wf (.sesMove x0 x1 (2 ^ 32)) = false) ∧
    (∀ (x1 : ReqArgs), Instr.wf (.reqSubmit badSub x1) = false) ∧ (∀ (x1 : Nat), Instr.wf (.reqCancel badSub x1) = false) ∧
    (∀ (x0 : Sub), Instr.wf (.reqCancel x0 (2 ^ 16)) = false) ∧ (∀ (x1 : Nat), Instr.wf (.pfxRegister badSub x1) = false) ∧
    (∀ (x0 : Sub), Instr.wf (.pfxRegister x0 (2 ^ 21)) = false) ∧ (∀ (x1 : Nat), Instr.wf (.pfxUnregister badSub x1) = false) ∧
    (∀ (x0 : Sub), Instr.wf (.pfxUnregister x0 (2 ^ 16)) = false) ∧ (∀ (x1 : Nat) (x2 : GrmImage), Instr.wf (.grmLoad badSub x1 x2) = false) ∧
    (∀ (x0 : Sub) (x2 : GrmImage), Instr.wf (.grmLoad x0 64 x2) = false) ∧ (∀ (x1 : Nat), Instr.wf (.grmUnload badSub x1) = false) ∧
    (∀ (x0 : Sub), Instr.wf (.grmUnload x0 1024) = false) ∧ (∀ (x1 : VsrCreateArgs), Instr.wf (.vsrCreate badSub x1) = false) ∧
    (∀ (x1 : Nat), Instr.wf (.vsrDrop badSub x1) = false) ∧ (∀ (x0 : Sub), Instr.wf (.vsrDrop x0 256) = false) ∧
    (∀ (x1 : VsrItem), Instr.wf (.vsrInsert badSub x1) = false) ∧ (∀ (x1 : Nat) (x2 : Nat), Instr.wf (.vsrDelete badSub x1 x2) = false) ∧
    (∀ (x0 : Sub) (x2 : Nat), Instr.wf (.vsrDelete x0 256 x2) = false) ∧ (∀ (x0 : Sub) (x1 : Nat), Instr.wf (.vsrDelete x0 x1 (2 ^ 32)) = false) ∧
    (∀ (x1 : VsrAsk), Instr.wf (.vsrQuery badSub x1) = false) ∧ (∀ (x1 : Nat), Instr.wf (.vsrPoint badSub x1) = false) ∧
    (∀ (x0 : Sub), Instr.wf (.vsrPoint x0 256) = false) ∧ (∀ (x1 : CkpAsk), Instr.wf (.ckpWrite badSub x1) = false) ∧
    (∀ (x1 : CkpRestoreAsk), Instr.wf (.ckpRestore badSub x1) = false) ∧ (∀ (x1 : Nat) (x2 : Nat), Instr.wf (.ckpRelease badSub x1 x2) = false) ∧
    (∀ (x0 : Sub) (x2 : Nat), Instr.wf (.ckpRelease x0 64 x2) = false) ∧ (∀ (x0 : Sub) (x1 : Nat), Instr.wf (.ckpRelease x0 x1 (2 ^ 64)) = false) ∧
    (∀ (x1 : CMap), Instr.wf (.cmpInstall badSub x1) = false) ∧ (∀ (x1 : Nat), Instr.wf (.cmpRemove badSub x1) = false) ∧
    (∀ (x0 : Sub), Instr.wf (.cmpRemove x0 (2 ^ 16)) = false) ∧ (∀ (x1 : Nat) (x2 : Nat), Instr.wf (.peerAdd badSub x1 x2) = false) ∧
    (∀ (x0 : Sub) (x2 : Nat), Instr.wf (.peerAdd x0 (2 ^ 16) x2) = false) ∧ (∀ (x0 : Sub) (x1 : Nat), Instr.wf (.peerAdd x0 x1 (2 ^ 16)) = false) ∧
    (∀ (x1 : Nat), Instr.wf (.ctxReload badSub x1) = false) ∧ (∀ (x0 : Sub), Instr.wf (.ctxReload x0 64) = false) ∧
    (∀ (x1 : Nat) (x2 : Nat), Instr.wf (.keyQuote badSub x1 x2) = false) ∧ (∀ (x0 : Sub) (x2 : Nat), Instr.wf (.keyQuote x0 4096 x2) = false) ∧
    (∀ (x0 : Sub) (x1 : Nat), Instr.wf (.keyQuote x0 x1 (2 ^ 256)) = false) ∧ (∀ (x1 : Nat) (x2 : Blob), Instr.wf (.keyImport badSub x1 x2) = false) ∧
    (∀ (x0 : Sub) (x2 : Blob), Instr.wf (.keyImport x0 4096 x2) = false) ∧ (∀ (x1 : Nat) (x2 : Nat), Instr.wf (.bndReportGet badSub x1 x2) = false) ∧
    (∀ (x0 : Sub) (x2 : Nat), Instr.wf (.bndReportGet x0 (2 ^ 32) x2) = false) ∧ (Instr.wf (.partReset badSub) = false) ∧
    (∀ (x1 : ChangeRec), Instr.wf (.partRemove badSub x1) = false) ∧ (∀ (x1 : ChangeRec), Instr.wf (.secChange badSub x1) = false) ∧
    (∀ (x1 : Nat) (x2 : Nat) (x3 : List (List Byte)), Instr.wf (.wgtSupply badSub x1 x2 x3) = false) ∧
    (∀ (x0 : Sub) (x2 : Nat) (x3 : List (List Byte)), Instr.wf (.wgtSupply x0 64 x2 x3) = false) ∧
    (∀ (x0 : Sub) (x1 : Nat) (x3 : List (List Byte)), Instr.wf (.wgtSupply x0 x1 (2 ^ 32) x3) = false) ∧
    (∀ (x1 : Nat) (x2 : List Byte), Instr.wf (.fwStage badSub x1 x2) = false) ∧
    (∀ (x0 : Sub) (x2 : List Byte), Instr.wf (.fwStage x0 (2 ^ 32) x2) = false) ∧ (∀ (x1 : FwSlot), Instr.wf (.fwCheck badSub x1) = false) ∧
    (∀ (x1 : Bool) (x2 : Nat) (x3 : List Byte), Instr.wf (.cfgWrite badSub x1 x2 x3) = false) ∧
    (∀ (x0 : Sub) (x1 : Bool) (x3 : List Byte), Instr.wf (.cfgWrite x0 x1 (2 ^ 32) x3) = false) ∧
    (∀ (x1 : Nat) (x2 : Nat), Instr.wf (.ledgerRead badSub x1 x2) = false) ∧ (∀ (x0 : Sub) (x2 : Nat), Instr.wf (.ledgerRead x0 (2 ^ 32) x2) = false) ∧
    (Instr.wf (.devRestart badSub) = false) ∧ (∀ (x1 : Nat) (x2 : Bool) (x3 : Nat), Instr.wf (.errRead badSub x1 x2 x3) = false) ∧
    (∀ (x0 : Sub) (x2 : Bool) (x3 : Nat), Instr.wf (.errRead x0 (2 ^ 32) x2 x3) = false) ∧
    (∀ (x1 : Option HostCmd), Instr.wf (.managementMailboxGo badSub x1) = false) := by
  simp [Instr.wf, hs, hf, hh]

/-- So are writes and events of a function, queue or width that does not exist. -/
theorem test_wf_register (badSub : Sub) (hs : badSub.wf = false) (badFn : Fn) (hf : badFn.wf = false) (badHdr : Hdr) (hh : badHdr.wf = false) :
    (∀ (x1 : Nat) (x2 : Nat) (x3 : List Nat), Instr.wf (.sqTailDoorbell badFn x1 x2 x3) = false) ∧
    (∀ (x0 : Fn) (x2 : Nat) (x3 : List Nat), Instr.wf (.sqTailDoorbell x0 64 x2 x3) = false) ∧
    (∀ (x0 : Fn) (x1 : Nat) (x3 : List Nat), Instr.wf (.sqTailDoorbell x0 x1 (2 ^ 32) x3) = false) ∧
    (∀ (x1 : Nat) (x2 : Nat), Instr.wf (.cqHeadDoorbell badFn x1 x2) = false) ∧ (∀ (x0 : Fn) (x2 : Nat), Instr.wf (.cqHeadDoorbell x0 64 x2) = false) ∧
    (∀ (x0 : Fn) (x1 : Nat), Instr.wf (.cqHeadDoorbell x0 x1 (2 ^ 32)) = false) ∧ (∀ (x1 : Nat) (x2 : Nat), Instr.wf (.sqEnable badFn x1 x2) = false) ∧
    (∀ (x0 : Fn) (x2 : Nat), Instr.wf (.sqEnable x0 64 x2) = false) ∧ (∀ (x0 : Fn) (x1 : Nat), Instr.wf (.sqEnable x0 x1 (2 ^ 32)) = false) ∧
    (∀ (x1 : Nat) (x2 : Nat), Instr.wf (.cqEnable badFn x1 x2) = false) ∧ (∀ (x0 : Fn) (x2 : Nat), Instr.wf (.cqEnable x0 64 x2) = false) ∧
    (∀ (x0 : Fn) (x1 : Nat), Instr.wf (.cqEnable x0 x1 (2 ^ 32)) = false) ∧ (∀ (x1 : Nat) (x2 : Nat), Instr.wf (.lnkRekeyGo badFn x1 x2) = false) ∧
    (∀ (x0 : Fn) (x2 : Nat), Instr.wf (.lnkRekeyGo x0 8 x2) = false) ∧ (∀ (x0 : Fn) (x1 : Nat), Instr.wf (.lnkRekeyGo x0 x1 32) = false) ∧
    (∀ (x1 : Nat), Instr.wf (.egrSwitch badFn x1) = false) ∧ (∀ (x0 : Fn), Instr.wf (.egrSwitch x0 8) = false) ∧ (Instr.wf (.clearAlt badFn) = false) ∧
    (∀ (x1 : Nat) (x2 : Nat) (x3 : Nat), Instr.wf (.registerWrite badFn x1 x2 x3) = false) ∧
    (∀ (x1 : Nat), Instr.wf (.interruptCoalesceExpiry badFn x1) = false) ∧ (∀ (x0 : Fn), Instr.wf (.interruptCoalesceExpiry x0 64) = false) ∧
    (∀ (x1 : Nat) (x2 : Nat), Instr.wf (.hostDmaError badFn x1 x2) = false) ∧ (∀ (x0 : Fn) (x2 : Nat), Instr.wf (.hostDmaError x0 64 x2) = false) ∧
    (∀ (x0 : Fn) (x1 : Nat), Instr.wf (.hostDmaError x0 x1 (2 ^ 16)) = false) ∧ (∀ (x1 : Bool), Instr.wf (.doeDiscovery badFn x1) = false) ∧
    (∀ (x1 : Nat), Instr.wf (.doeHostReport badFn x1) = false) ∧ (∀ (x0 : Fn), Instr.wf (.doeHostReport x0 (2 ^ 256)) = false) ∧
    (∀ (x1 : Nat), Instr.wf (.bbAsk badFn x1) = false) ∧ (∀ (x0 : Fn), Instr.wf (.bbAsk x0 (2 ^ 256)) = false) ∧
    (∀ (x1 : Bool), Instr.wf (.bbConfirm badFn x1) = false) ∧ (Instr.wf (.functionReset badFn) = false) ∧ (Instr.wf (.perstAsserted 2) = false) ∧
    (Instr.wf (.perstReleased 2) = false) := by
  simp [Instr.wf, hs, hf, hh]

/-- So are link events with an operand beyond its width. -/
theorem test_wf_link (badSub : Sub) (hs : badSub.wf = false) (badFn : Fn) (hf : badFn.wf = false) (badHdr : Hdr) (hh : badHdr.wf = false) :
    (∀ (x1 : Nat), Instr.wf (.trainSignalDetected 8 x1) = false) ∧ (∀ (x1 : Nat) (x2 : Nat), Instr.wf (.trainEqualised 8 x1 x2) = false) ∧
    (Instr.wf (.trainGroupLock 8) = false) ∧ (Instr.wf (.trainTimeout 8) = false) ∧ (Instr.wf (.retrainTimer 8) = false) ∧
    (∀ (x1 : Nat) (x2 : List Nat) (x3 : Nat), Instr.wf (.hello 8 x1 x2 x3) = false) ∧ (∀ (x1 : Nat) (x2 : Nat), Instr.wf (.rekeyReady 8 x1 x2) = false) ∧
    (∀ (x0 : Nat) (x2 : Nat), Instr.wf (.rekeyReady x0 32 x2) = false) ∧ (∀ (x0 : Nat) (x1 : Nat), Instr.wf (.rekeyReady x0 x1 2) = false) ∧
    (∀ (x1 : Nat), Instr.wf (.rekeyAsk 8 x1) = false) ∧ (∀ (x0 : Nat), Instr.wf (.rekeyAsk x0 32) = false) ∧
    (∀ (x1 : Nat), Instr.wf (.laneRetire 8 x1) = false) ∧ (∀ (x0 : Nat), Instr.wf (.laneRetire x0 9) = false) ∧
    (∀ (x1 : Nat), Instr.wf (.linkDownWord 8 x1) = false) ∧ (∀ (x1 : RxGroup), Instr.wf (.groupArrival 8 x1) = false) ∧
    (∀ (x1 : Nat), Instr.wf (.groupTransmit 8 x1) = false) ∧ (Instr.wf (.nakResendTimeout 8) = false) ∧ (Instr.wf (.retryRewindTimeout 8) = false) ∧
    (∀ (x1 : List Nat), Instr.wf (.laneErrorWindow 8 x1) = false) ∧ (∀ (x1 : Nat), Instr.wf (.laneSignalLoss 8 x1) = false) ∧
    (∀ (x0 : Nat), Instr.wf (.laneSignalLoss x0 9) = false) ∧ (Instr.wf (.spareMonitorFail 8) = false) ∧ (Instr.wf (.recoveryDone 8) = false) ∧
    (Instr.wf (.recoveryTimeout 8) = false) ∧ (∀ (x1 : Nat), Instr.wf (.rekeyMarkReached 8 x1) = false) ∧
    (∀ (x0 : Nat), Instr.wf (.rekeyMarkReached x0 32) = false) ∧ (Instr.wf (.shaperRefill 8) = false) ∧ (Instr.wf (.gateEntryExpiry 8) = false) ∧
    (Instr.wf (.pmcBwWindowEnd 8) = false) := by
  simp [Instr.wf, hs, hf, hh]

/-- So are messages with a header field or an operand beyond its width. -/
theorem test_wf_message (badSub : Sub) (hs : badSub.wf = false) (badFn : Fn) (hf : badFn.wf = false) (badHdr : Hdr) (hh : badHdr.wf = false) :
    (∀ (x1 : List Slice), Instr.wf (.queryMessage (some badHdr) x1) = false) ∧ (∀ (x1 : ExpertPkt), Instr.wf (.expertMessage badHdr x1) = false) ∧
    (∀ (x1 : Nat) (x2 : Nat) (x3 : Nat) (x4 : Bool) (x5 : List Nat), Instr.wf (.logitChunk (some badHdr) x1 x2 x3 x4 x5) = false) ∧
    (∀ (x0 : Option Hdr) (x2 : Nat) (x3 : Nat) (x4 : Bool) (x5 : List Nat), Instr.wf (.logitChunk x0 (2 ^ 22) x2 x3 x4 x5) = false) ∧
    (∀ (x1 : PushedTile), Instr.wf (.tilePush badHdr x1) = false) ∧
    (∀ (x1 : Nat) (x2 : Nat) (x3 : Nat) (x4 : Nat), Instr.wf (.tilePull badHdr x1 x2 x3 x4) = false) ∧
    (∀ (x0 : Hdr) (x2 : Nat) (x3 : Nat) (x4 : Nat), Instr.wf (.tilePull x0 1024 x2 x3 x4) = false) ∧
    (∀ (x1 : Status) (x2 : Option PushedTile), Instr.wf (.pullAnswer badHdr x1 x2) = false) ∧ (∀ (x1 : Offer), Instr.wf (.moveOffer badHdr x1) = false) ∧
    (∀ (x1 : Status) (x2 : Word64), Instr.wf (.moveAnswer badHdr x1 x2) = false) ∧ (∀ (x1 : Word64), Instr.wf (.moveConfirm badHdr x1) = false) ∧
    (∀ (x1 : Status), Instr.wf (.moveAbort badHdr x1) = false) ∧ (∀ (x1 : Nat) (x2 : Nat), Instr.wf (.rehandshake badHdr x1 x2) = false) ∧
    (∀ (x1 : Word64) (x2 : Nat) (x3 : Nat) (x4 : Nat), Instr.wf (.admitAsk badHdr x1 x2 x3 x4) = false) ∧
    (∀ (x0 : Hdr) (x1 : Word64) (x2 : Nat) (x4 : Nat), Instr.wf (.admitAsk x0 x1 x2 (2 ^ 16) x4) = false) ∧
    (∀ (x0 : Hdr) (x1 : Word64) (x2 : Nat) (x3 : Nat), Instr.wf (.admitAsk x0 x1 x2 x3 (2 ^ 256)) = false) ∧
    (∀ (x1 : Word64) (x2 : Bool) (x3 : PeerQuote) (x4 : Nat), Instr.wf (.admitQuote badHdr x1 x2 x3 x4) = false) ∧
    (∀ (x0 : Hdr) (x1 : Word64) (x2 : Bool) (x3 : PeerQuote), Instr.wf (.admitQuote x0 x1 x2 x3 (2 ^ 256)) = false) ∧
    (∀ (x1 : Bool), Instr.wf (.admitDone badHdr x1) = false) ∧ (Instr.wf (.admitTimeout 1032) = false) ∧ (Instr.wf (.leave badHdr) = false) ∧
    (Instr.wf (.ping badHdr) = false) ∧ (Instr.wf (.pingResponse badHdr) = false) ∧ (Instr.wf (.pingTimer 1032) = false) ∧
    (∀ (x1 : Nat) (x2 : Nat), Instr.wf (.keyRevoke badHdr x1 x2) = false) ∧ (∀ (x0 : Hdr) (x2 : Nat), Instr.wf (.keyRevoke x0 16 x2) = false) ∧
    (∀ (x0 : Hdr) (x1 : Nat), Instr.wf (.keyRevoke x0 x1 (2 ^ 32)) = false) ∧ (∀ (x1 : Nat), Instr.wf (.keyRevokeResponse badHdr x1) = false) ∧
    (∀ (x0 : Hdr), Instr.wf (.keyRevokeResponse x0 16) = false) := by
  simp [Instr.wf, hs, hf, hh]

/-- So are steps of the device's engines with an operand beyond its width. -/
theorem test_wf_engine (badSub : Sub) (hs : badSub.wf = false) (badFn : Fn) (hf : badFn.wf = false) (badHdr : Hdr) (hh : badHdr.wf = false) :
    (Instr.wf (.pwrGoodRise 16) = false) ∧ (Instr.wf (.alarmInAsserted 2) = false) ∧ (Instr.wf (.alarmInReleased 2) = false) ∧
    (Instr.wf (.thermalStepDown 3) = false) ∧ (Instr.wf (.thermalStepUp 3) = false) ∧ (Instr.wf (.powerStepDown 3) = false) ∧
    (Instr.wf (.powerStepUp 3) = false) ∧ (Instr.wf (.courseStepDone 3) = false) ∧ (Instr.wf (.handoffTimeout (2 ^ 22)) = false) ∧
    (Instr.wf (.revokeTimeout 16) = false) ∧ (∀ (x1 : Dispatch), Instr.wf (.dispatch 16 x1) = false) ∧ (Instr.wf (.sliceEnd 16) = false) ∧
    (∀ (x1 : TInstr), Instr.wf (.mmul 16 x1) = false) ∧ (∀ (x1 : TInstr), Instr.wf (.smaxPartial 16 x1) = false) ∧
    (∀ (x1 : TInstr), Instr.wf (.smaxNormalise 16 x1) = false) ∧ (∀ (x1 : TInstr), Instr.wf (.smaxCombine 16 x1) = false) ∧
    (∀ (x1 : TInstr), Instr.wf (.rot 16 x1) = false) ∧ (∀ (x1 : TInstr), Instr.wf (.qnt 16 x1) = false) ∧
    (∀ (x1 : TInstr), Instr.wf (.dqnt 16 x1) = false) ∧ (∀ (x1 : TInstr), Instr.wf (.gath 16 x1) = false) ∧
    (∀ (x1 : TInstr), Instr.wf (.scat 16 x1) = false) ∧ (∀ (x1 : TInstr), Instr.wf (.red 16 x1) = false) ∧
    (∀ (x1 : TInstr), Instr.wf (.move 16 x1) = false) ∧ (∀ (x1 : TInstr), Instr.wf (.bcmp 16 x1) = false) ∧
    (∀ (x1 : TInstr), Instr.wf (.topk 16 x1) = false) ∧ (∀ (x1 : TInstr), Instr.wf (.barSync 16 x1) = false) ∧
    (∀ (x1 : TInstr), Instr.wf (.barGather 16 x1) = false) ∧ (∀ (x1 : TInstr), Instr.wf (.barBroadcast 16 x1) = false) ∧
    (Instr.wf (.barTimeout 16) = false) ∧ (Instr.wf (.coreStopped 16) = false) ∧ (Instr.wf (.freshMapClearDone 16) = false) ∧
    (∀ (x1 : Nat) (x2 : Bool), Instr.wf (.contextLoaded 17 x1 x2) = false) ∧ (∀ (x0 : Nat) (x2 : Bool), Instr.wf (.contextLoaded x0 64 x2) = false) ∧
    (Instr.wf (.tileAvailable (2 ^ 22)) = false) ∧ (∀ (x1 : Nat), Instr.wf (.promotion (2 ^ 22) x1) = false) ∧
    (Instr.wf (.tokenisationDone (2 ^ 22)) = false) ∧ (Instr.wf (.maskReady (2 ^ 22)) = false) ∧
    (∀ (x1 : Nat), Instr.wf (.emitHoldPoll (2 ^ 22) x1) = false) ∧ (∀ (x1 : Nat), Instr.wf (.endRecordPoll (2 ^ 22) x1) = false) ∧
    (∀ (x1 : Nat) (x2 : Nat), Instr.wf (.deadlineNotice (2 ^ 22) x1 x2) = false) ∧
    (∀ (x0 : Nat) (x2 : Nat), Instr.wf (.deadlineNotice x0 3 x2) = false) ∧ (∀ (x1 : Nat), Instr.wf (.deadlineSwitch (2 ^ 22) x1) = false) ∧
    (∀ (x0 : Nat), Instr.wf (.deadlineSwitch x0 3) = false) ∧ (∀ (x1 : Nat), Instr.wf (.deadlineFail (2 ^ 22) x1) = false) ∧
    (∀ (x0 : Nat), Instr.wf (.deadlineFail x0 3) = false) ∧ (∀ (x1 : List PushedTile), Instr.wf (.fallbackPrefillDone (2 ^ 22) x1) = false) ∧
    (Instr.wf (.dressingDone (2 ^ 22)) = false) ∧ (Instr.wf (.tokenLogPersist (2 ^ 22)) = false) ∧ (Instr.wf (.bondOpenGranted (2 ^ 22)) = false) ∧
    (∀ (x1 : Nat), Instr.wf (.bondStaged 17 x1) = false) ∧ (∀ (x1 : Nat) (x2 : Nat) (x3 : Bool), Instr.wf (.nandProgramDone 17 x1 x2 x3) = false) ∧
    (∀ (x0 : NandOp) (x2 : Nat) (x3 : Nat), Instr.wf (.nandStatusTimeout x0 17 x2 x3) = false) ∧ (Instr.wf (.selfRefreshEntry 192) = false) ∧
    (Instr.wf (.scanWindowExpiry 256) = false) ∧ (Instr.wf (.pointingBatchDone 256) = false) ∧
    (∀ (x1 : Nat) (x2 : Nat), Instr.wf (.ckpRingRoom 16 x1 x2) = false) ∧ (∀ (x0 : Nat) (x2 : Nat), Instr.wf (.ckpRingRoom x0 64 x2) = false) := by
  simp [Instr.wf, hs, hf, hh]

/-- A register write has 32 or 64 bits, and a grammar image lists no byte twice. -/
theorem test_wf_width (fn : Fn) (a : Nat) : Instr.wf (.registerWrite fn a 16 0) = false ∧ Instr.wf (.registerWrite fn a 32 (2 ^ 32)) = false ∧
    Memory.wf 0 [(1, 2), (1, 3)] = false := by
  refine ⟨by simp [Instr.wf], by simp [Instr.wf], by decide⟩

end Sys2Proof.Tests
end

section
/-!
PROOFS. The checks that every host command passes (O57).
-/

namespace Sys2Proof.Machine

open Sys2Proof

-- The partition that a command names (R802) -----------------------------------------------------------------------------------------

/-- PF0 is no partition's function. -/
theorem isPf_of_partOfFn {s : State} {f : Fn} {n : Nat} (h : s.partOfFn f = some n) : f.isPf = false := by
  unfold State.partOfFn at h
  split at h
  · cases h
  · next hp => simpa using hp

theorem cmdPart_own {s : State} {u : Sub} {n : Nat} (c : HostCmd) (h : s.partOfFn u.fn = some n) : s.cmdPart u c = some n := by
  unfold State.cmdPart; rw [h]

/-- What R681 says of every command that names a handle. -/
theorem byHandle_kind {c : HostCmd} (h : c.byHandle = true) :
    c.pfOnly = false ∧ c.deviceWide = false ∧ c.unconfiguredOk = false ∧ c.namesData = true := by
  cases c <;> cases h <;> exact ⟨rfl, rfl, rfl, rfl⟩

theorem cmdPart_handle {s : State} {u : Sub} {c : HostCmd} (h : s.partOfFn u.fn = none) (hc : c.byHandle = true) :
    s.cmdPart u c = some (handlePart u.handle) := by
  obtain ⟨-, hw, -, -⟩ := byHandle_kind hc
  unfold State.cmdPart; rw [h]; simp [hw, hc]

theorem foreignPart_none {s : State} {u : Sub} (h : s.partOfFn u.fn = none) : s.foreignPart u = false := by
  unfold State.foreignPart; rw [h]

/-- PART may stay 0 or name the function's own partition (R681). -/
theorem foreignPart_own {s : State} {u : Sub} (h : ∀ n, s.partOfFn u.fn = some n → u.part = 0 ∨ u.part = n) : s.foreignPart u = false := by
  cases ho : s.partOfFn u.fn with
  | none => exact foreignPart_none ho
  | some n => unfold State.foreignPart; rw [ho]; simpa [or_iff_not_imp_left] using h n ho

theorem foreignPart_other {s : State} {u : Sub} {n : Nat} (h : s.partOfFn u.fn = some n) (h0 : u.part ≠ 0) (hn : u.part ≠ n) :
    s.foreignPart u = true := by
  unfold State.foreignPart; rw [h]; simp [h0, hn]

-- What stops a partition's commands (R331, R658, R663, R729) --------------------------------------------------------------------------

theorem partRefuses_serves {s : State} {n : Nat} (h : s.Serves n) (mbox : Bool) (c : HostCmd) : s.partRefuses n mbox c = none := by
  simp [State.partRefuses, h.removal, h.removed, h.reset, h.frozen, h.fatal]

theorem partRefuses_removal {s : State} {n : Nat} (h : s.removals.has n = true) (mbox : Bool) (c : HostCmd) :
    s.partRefuses n mbox c = some .securityPartitionGone := by
  simp [State.partRefuses, h]

theorem partRefuses_reset {s : State} {n : Nat} {c : HostCmd} (h1 : s.removals.has n = false) (h2 : n ∉ s.sec.removed)
    (h3 : s.resets.has n = true) (hc : ∀ r, c ≠ .partRemove r) (mbox : Bool) :
    s.partRefuses n mbox c = some .contextPartitionReset := by
  unfold State.partRefuses
  rw [if_neg (by simp [h1, h2]), if_pos]
  rw [h3, Bool.true_and]
  split
  · next r => exact absurd rfl (hc r)
  · rfl

/-- A freeze by an alarm stops what does not come by the management mailbox (R658). -/
theorem partRefuses_frozen {s : State} {n : Nat} (h1 : s.removals.has n = false) (h2 : n ∉ s.sec.removed)
    (h3 : s.resets.has n = false) (h4 : s.sec.frozen = true) (c : HostCmd) : s.partRefuses n false c = some .securityFrozen := by
  simp [State.partRefuses, h1, h2, h3, h4]

theorem partRefuses_fatal {s : State} {n : Nat} {c : HostCmd} (h1 : s.removals.has n = false) (h2 : n ∉ s.sec.removed)
    (h3 : s.resets.has n = false) (h4 : s.sec.frozen = false) (h5 : n ∈ s.err.fatal) (hc : c.passesFatal = false) (mbox : Bool) :
    s.partRefuses n mbox c = some .internalPartitionFatal := by
  simp [State.partRefuses, h1, h2, h3, h4, h5, hc]

-- The handle's own checks (R53) --------------------------------------------------------------------------------------------------------

section Handle

variable {s : State} {u : Sub}

theorem checkSub_unconfigured (hr : handleReserved u.handle = false) (hp : s.configured (handlePart u.handle) = false) :
    s.checkSub u = some .configUnconfigured := by
  simp [State.checkSub, State.checkHandle, hr, hp]

/-- A handle of another partition, or of a slot beyond the partition's range (R53 order 3). -/
theorem checkSub_foreign (hr : handleReserved u.handle = false) (hp : s.configured (handlePart u.handle) = true)
    (h : (∃ n, s.partOfFn u.fn = some n ∧ n ≠ handlePart u.handle) ∨ s.inRange (handlePart u.handle) u.slot = false) :
    s.checkSub u = some .securityForeignHandle := by
  simp only [Sub.slot] at h
  cases ho : s.partOfFn u.fn with
  | none =>
    have hi : s.inRange (handlePart u.handle) (handleSlot u.handle) = false := by simpa [ho] using h
    simp [State.checkSub, State.checkHandle, hr, hp, ho, hi]
  | some n =>
    have hi : n ≠ handlePart u.handle ∨ s.inRange (handlePart u.handle) (handleSlot u.handle) = false := by simpa [ho] using h
    by_cases hn : n = handlePart u.handle
    · simp [State.checkSub, State.checkHandle, hr, hp, ho, hn, hi.resolve_left (not_not_intro hn)]
    · simp [State.checkSub, State.checkHandle, hr, hp, ho, hn]

/-- A handle of its function's partition whose slot is FREE or of another generation (R53 order 4). -/
theorem checkSub_stale (hr : handleReserved u.handle = false) (hp : s.configured (handlePart u.handle) = true)
    (ho : ∀ n, s.partOfFn u.fn = some n → n = handlePart u.handle) (hi : s.inRange (handlePart u.handle) u.slot = true)
    (h : (s.ses u.slot).state = .free ∨ (s.ses u.slot).gen ≠ handleGen u.handle) : s.checkSub u = some .stateLostStaleHandle := by
  simp only [Sub.slot] at hi h
  cases hn : s.partOfFn u.fn with
  | none => simp [State.checkSub, State.checkHandle, hr, hp, hi, hn, h]
  | some n => simp [State.checkSub, State.checkHandle, hr, hp, hi, hn, ho n hn, h]

theorem checkSub_passes (hr : handleReserved u.handle = false) (hp : s.configured (handlePart u.handle) = true)
    (ho : ∀ n, s.partOfFn u.fn = some n → n = handlePart u.handle) (hi : s.inRange (handlePart u.handle) u.slot = true)
    (hs : (s.ses u.slot).state ≠ .free) (hg : (s.ses u.slot).gen = handleGen u.handle) : s.checkSub u = none := by
  simp only [Sub.slot] at hi hs hg
  cases hn : s.partOfFn u.fn with
  | none => simp [State.checkSub, State.checkHandle, hr, hp, hi, hn, hs, hg]
  | some n => simp [State.checkSub, State.checkHandle, hr, hp, hi, hn, ho n hn, hs, hg]

end Handle

-- The order of the checks (R53, R681, R802) ---------------------------------------------------------------------------------------------

/-- A command passes what is checked before its partition: PF0's commands, FLAGS, PART and the handle's reserved bits. -/
structure State.Forward (s : State) (u : Sub) (c : HostCmd) : Prop where
  pf : c.pfOnly = true → u.fn.isPf = true
  flags : u.flags.ext = false
  part : s.foreignPart u = false
  bits : c.byHandle = true → handleReserved u.handle = false

theorem State.Forward.pfPasses {s : State} {u : Sub} {c : HostCmd} (h : s.Forward u c) : (c.pfOnly && !u.fn.isPf) = false := by
  cases hc : c.pfOnly with
  | false => rfl
  | true => simp [h.pf hc]

theorem State.Forward.extPasses {s : State} {u : Sub} {c : HostCmd} (h : s.Forward u c) : s.extReserved u = false := by
  simp [State.extReserved, h.flags]

theorem State.Forward.bitsPass {s : State} {u : Sub} {c : HostCmd} (h : s.Forward u c) : (c.byHandle && handleReserved u.handle) = false := by
  cases hc : c.byHandle with
  | false => rfl
  | true => simp [h.bits hc]

section Order

variable {s : State} {u : Sub} {c : HostCmd} {n : Nat}

theorem refusal_pfOnly (h : c.pfOnly = true) (hf : u.fn.isPf = false) : s.refusal u c = some .securityPfOnly := by
  simp [State.refusal, h, hf]

theorem refusal_foreignPart (hp : c.pfOnly = true → u.fn.isPf = true) (he : u.flags.ext = false) (h : s.foreignPart u = true) :
    s.refusal u c = some .securityForeignHandle := by
  have hx : s.extReserved u = false := by simp [State.extReserved, he]
  simp +contextual [State.refusal, hp, hx, h]

theorem refusal_badHandle (he : u.flags.ext = false) (hp : s.foreignPart u = false) (hc : c.byHandle = true)
    (h : handleReserved u.handle = true) : s.refusal u c = some .configBadHandle := by
  obtain ⟨hpf, -, -, -⟩ := byHandle_kind hc
  have hx : s.extReserved u = false := by simp [State.extReserved, he]
  simp [State.refusal, hpf, hx, hp, hc, h]

theorem refusal_unconfigured (h : s.Forward u c) (hc : c.unconfiguredOk = false) (hp : s.cmdPart u c = some n)
    (hn : s.configured n = false) : s.refusal u c = some .configUnconfigured := by
  simp [State.refusal, h.pfPasses, h.extPasses, h.part, h.bitsPass, hc, hp, hn]

theorem refusal_partition {st : Status} (h : s.Forward u c) (hp : s.cmdPart u c = some n) (hn : s.configured n = true)
    (hr : s.partRefuses n u.sq.isNone c = some st) : s.refusal u c = some st := by
  simp [State.refusal, h.pfPasses, h.extPasses, h.part, h.bitsPass, hp, hn, hr]

theorem refusal_confidential (h : s.Forward u c) (hp : s.cmdPart u c = some n) (hn : s.Serves n) (hf : u.fn.isPf = true)
    (hd : c.namesData = true) (hc : n ∈ s.sec.conf) : s.refusal u c = some .securityConfidential := by
  simp [State.refusal, h.extPasses, h.part, h.bitsPass, hp, hn.configured, partRefuses_serves hn, hf, hd, hc]

/-- A command by handle whose partition serves it comes to the handle's checks, then to its form. -/
theorem refusal_served (h : s.Forward u c) (hb : s.bounceMode u.fn = false) (hp : s.cmdPart u c = some n) (hn : s.Serves n)
    (hf : u.fn.isPf = true → n ∉ s.sec.conf) (hc : c.byHandle = true) : s.refusal u c = (s.checkSub u).or (refuseForm u c) := by
  have ho : s.outside u c = false := by simp [State.outside, hb]
  have hs : (u.fn.isPf && c.namesData && s.sec.conf.contains n) = false := by
    cases hi : u.fn.isPf with
    | false => rfl
    | true => simp [hf hi]
  simp only [State.refusal, h.pfPasses, h.extPasses, h.part, h.bits hc, hp, hn.configured, partRefuses_serves hn, hs, ho, hc, Option.bind_some]
  cases s.checkSub u <;> simp

end Order

-- Commands by handle (R53) ---------------------------------------------------------------------------------------------------------------

section ByHandle

variable {s : State} {u : Sub} {c : HostCmd}

theorem forward_byHandle (hc : c.byHandle = true) (he : u.flags.ext = false)
    (hu : ∀ n, s.partOfFn u.fn = some n → u.part = 0 ∨ u.part = n) (hr : handleReserved u.handle = false) : s.Forward u c := by
  obtain ⟨hpf, -, -, -⟩ := byHandle_kind hc
  exact ⟨fun h => by simp [hpf] at h, he, foreignPart_own hu, fun _ => hr⟩

/-- The partition that such a command acts for, the function's own or the handle's, serves it where both do. -/
theorem refusal_byHandle (h : s.Forward u c) (hc : c.byHandle = true) (hb : s.bounceMode u.fn = false)
    (ho : ∀ n, s.partOfFn u.fn = some n → s.Serves n)
    (hp : s.partOfFn u.fn = none → s.Serves (handlePart u.handle) ∧ (u.fn.isPf = true → handlePart u.handle ∉ s.sec.conf)) :
    s.refusal u c = (s.checkSub u).or (refuseForm u c) := by
  cases hn : s.partOfFn u.fn with
  | none => exact refusal_served h hb (cmdPart_handle hn hc) (hp hn).1 (hp hn).2 hc
  | some n => exact refusal_served h hb (cmdPart_own c hn) (ho n hn) (fun hf => by simp [isPf_of_partOfFn hn] at hf) hc

/-- A handle of a partition without cores is refused, whichever function gives it (R53 order 2, R802). -/
theorem refusal_handle_unconfigured (h : s.Forward u c) (hc : c.byHandle = true) (hb : s.bounceMode u.fn = false)
    (ho : ∀ n, s.partOfFn u.fn = some n → s.Serves n) (hp : s.configured (handlePart u.handle) = false) :
    s.refusal u c = some .configUnconfigured := by
  obtain ⟨-, -, hu, -⟩ := byHandle_kind hc
  cases hn : s.partOfFn u.fn with
  | none => exact refusal_unconfigured h hu (cmdPart_handle hn hc) hp
  | some n =>
    rw [refusal_byHandle h hc hb ho (fun h0 => by rw [hn] at h0; cases h0), checkSub_unconfigured (h.bits hc) hp]
    rfl

theorem refuseForm_param (h : ∀ a, c ≠ .reqSubmit a) (hp : u.paramBad = true) : refuseForm u c = some .configParamBlock := by
  unfold refuseForm
  split
  · next a => exact absurd rfl (h a)
  · rw [if_pos hp]

theorem refuseForm_reserved (h : ∀ a, c ≠ .reqSubmit a) (hp : u.paramBad = false) (hr : u.resv = true) :
    refuseForm u c = some .configReservedField := by
  unfold refuseForm
  split
  · next a => exact absurd rfl (h a)
  · rw [if_neg (by simp [hp]), if_pos hr]

end ByHandle

-- From the arrival to the next state ------------------------------------------------------------------------------------------------------

/-- A host command whose arrival leaves the flash and the queue of commands alone, in a device in which nothing follows it. -/
theorem exec_host_stays {i : Instr} {u : Sub} {c : HostCmd} {s t : State} (hi : hostOf i = some (u, c)) (ha : s.arrive u c = t)
    (hs : t.Stays) (hf : t.flash = s.flash) (hp : t.pending = s.pending) : exec i s = .next t := by
  rw [exec_host s hi]
  split
  · have ht : ({ t with pending := s.pending } : State) = t := by rw [← hp]
    simp only [State.flashing, ha, ht, settle_stays hs]
  · have ht : s.kept t = t := by unfold State.kept; rw [← hf, ← hp]
    simp only [State.always, ha, ht, settle_stays hs]

/-- A command whose tag is outstanding is fetched, counted and refused (R685). -/
theorem arrive_tagInUse {s : State} {u : Sub} {q : Nat} {x : Sq} (c : HostCmd) (h : s.Holds u q x) (ht : ∃ t ∈ x.tags, t.tag = u.tag) :
    ∃ v, s.Io v ∧ v.Open u.fn q ∧ s.arrive u c = v.post { u.answer .configTagInUse with dup := true } := by
  obtain ⟨m, l, hcount⟩ := count_fetch s u c
  obtain ⟨y, z, hy, hz, hroom⟩ := h.opens
  have hyx : y = x := Option.some.inj (hy.symm.trans h.queue)
  have hdup : x.tags.any (fun t => t.tag == u.tag) = true := by simpa using ht
  refine ⟨State.setSq { s with pmc := m, out := l ++ s.out } u.fn q (x.take u.tag (s.slotsOf u x) (s.cmdPart u c)), ⟨l, _, _, _, _, _, rfl⟩, ?_, ?_⟩
  · exact ⟨_, z, AMap.get?_set_same .., hyx ▸ hz, hroom⟩
  · unfold State.arrive
    simp only [h.sub, h.queue]
    rw [if_pos (by simp [h.on, h.fetches, h.room])]
    unfold State.fromQueue
    simp only [hdup, hcount]
    rfl

theorem State.Io.flash {s t : State} (h : s.Io t) : t.flash = s.flash := by
  obtain ⟨_, _, _, _, _, _, rfl⟩ := h; rfl

theorem State.Io.pending {s t : State} (h : s.Io t) : t.pending = s.pending := by
  obtain ⟨_, _, _, _, _, _, rfl⟩ := h; rfl

/-- Commands that wait for S15 are no part of what goes on in a device. -/
theorem State.Stays.of_waitS15 {s : State} (h : s.Stays) (l : List (Sub × HostCmd)) : ({ s with waitS15 := l } : State).Stays :=
  ⟨⟨h.calm.waiting, h.calm.queue, h.calm.pulls, h.calm.maps, rfl, rfl, h.calm.removes, h.calm.restart⟩, h.reset, h.gone⟩

/-- R685: an outstanding tag refuses the entry, and nothing else happens. -/
theorem exec_host_tagInUse {i : Instr} {u : Sub} {c : HostCmd} {q : Nat} {x : Sq} {s : State} (hi : hostOf i = some (u, c)) (hs : s.Stays)
    (h : s.Holds u q x) (ht : ∃ t ∈ x.tags, t.tag = u.tag) :
    ∃ t k h m, exec i s = .next t ∧ s.Writes t (.cqe u.fn k { u.answer .configTagInUse 0 0 with dup := true } h m) ∧ s.Io t := by
  obtain ⟨v, hv, hopen, ha⟩ := arrive_tagInUse c h ht
  obtain ⟨k, a, m, hw⟩ := writes_post v { u.answer .configTagInUse 0 0 with dup := true } q h.sub hopen
  have hio : s.Io (v.post { u.answer .configTagInUse 0 0 with dup := true }) :=
    hv.trans (io_post v _ (fun h0 => by cases h.sub.symm.trans h0))
  exact ⟨_, k, a, m, exec_host_stays hi ha (hs.io hio) hio.flash hio.pending, hw.after hv.out, hio⟩

/-- R671: before S15 a command with a new tag waits, and nothing else happens. -/
theorem exec_host_waits {i : Instr} {u : Sub} {c : HostCmd} {q : Nat} {x : Sq} {s : State} (hi : hostOf i = some (u, c)) (hs : s.Stays)
    (h : s.Holds u q x) (ht : ∀ t ∈ x.tags, t.tag ≠ u.tag) (hr : s.boot.phase ≠ .ready) :
    ∃ t, exec i s = .next t ∧ t.waitS15 = s.waitS15 ++ [(u, c)] ∧ s.Io { t with waitS15 := s.waitS15 } := by
  obtain ⟨v, hF, -, ha⟩ := arrive_holds c h ht
  rw [if_pos hr] at ha
  have hio : s.Io v := hF.1
  refine ⟨_, exec_host_stays hi ha ((hs.io hio).of_waitS15 _) hio.flash hio.pending, rfl, ?_⟩
  obtain ⟨l, m, a, b, d, e, rfl⟩ := hio
  exact ⟨l, m, a, b, d, e, rfl⟩

/-- Settles O57: each refusal is the first check that fails in the order of R53, R681 and R802. -/
theorem commandChecks : Obligations.CommandChecks := by
  intro i u c q x s hi hs hq
  refine ⟨exec_host_tagInUse hi hs hq, exec_host_waits hi hs hq,
    fun st own p hnew hready hown hp hext hserves hcase => host_refused hi hs hq hnew hready ?_⟩
  subst hown hp
  have hplain := hq.plain
  rcases hcase with ⟨hc, hparam, hresv, hpart, hhandle⟩ | ⟨hc, hserved, hconf, hours, hbits, hrange, hstate, hgen, hreq, hform⟩ |
    ⟨hpf, hown, hdata, hbits, ⟨n, hn, hserved, hconf⟩, rfl⟩ | ⟨hc, -, -, hrest⟩
  · -- a handle that R53 refuses
    rcases hhandle with ⟨hbits, rfl⟩ | ⟨hbits, hhandle⟩
    · exact refusal_badHandle hext (foreignPart_own hpart) hc hbits
    have hfwd := forward_byHandle hc hext hpart hbits
    rcases hhandle with ⟨hcfg, rfl⟩ | ⟨hserved, hconf, hhandle⟩
    · exact refusal_handle_unconfigured hfwd hc hplain hserves hcfg
    rw [refusal_byHandle hfwd hc hplain hserves (fun _ => ⟨hserved, hconf⟩)]
    rcases hhandle with ⟨hforeign, rfl⟩ | ⟨hours, hrange, hstale, rfl⟩
    · rw [checkSub_foreign hbits hserved.configured hforeign, Option.some_or]
    · rw [checkSub_stale hbits hserved.configured hours hrange hstale, Option.some_or]
  · -- a command by handle whose parameter block or reserved field is refused
    have hfwd := forward_byHandle hc hext (fun n hn => (hours n hn).2) hbits
    rw [refusal_byHandle hfwd hc hplain hserves (fun _ => ⟨hserved, hconf⟩),
      checkSub_passes hbits hserved.configured (fun n hn => (hours n hn).1) hrange hstate hgen, Option.none_or]
    rcases hform with ⟨hbad, -, rfl⟩ | ⟨hgood, hset, rfl⟩
    · exact refuseForm_param hreq hbad
    · exact refuseForm_reserved hreq hgood hset
  · -- PF0 names data of a partition in confidential-host mode
    exact refusal_confidential ⟨fun _ => hpf, hext, foreignPart_none hown, hbits⟩ hn hserved hpf hdata hconf
  · -- a command without a handle
    rcases hrest with ⟨hpf, hvf, rfl⟩ | ⟨hpf, ⟨⟨n, hown, hne, hother⟩, rfl⟩ | ⟨hown, n, hn, hpartition⟩⟩
    · exact refusal_pfOnly hpf hvf
    · exact refusal_foreignPart hpf hext (foreignPart_other hown hne hother)
    have hfwd : s.Forward u c := ⟨hpf, hext, foreignPart_none hown, fun h => by simp [hc] at h⟩
    rcases hpartition with ⟨huncfg, hcfg, rfl⟩ | ⟨hcfg, hremove, hstop⟩
    · exact refusal_unconfigured hfwd huncfg hn hcfg
    apply refusal_partition hfwd hn hcfg
    rw [hq.sub]
    rcases hstop with ⟨hrem, -, -, -, -, rfl⟩ | ⟨hrem, hgone, hres, -, -, rfl⟩ | ⟨hrem, hgone, hres, hfro, -, rfl⟩ |
      ⟨hrem, hgone, hres, hfro, hfatal, hpass, rfl⟩
    · exact partRefuses_removal hrem _ c
    · exact partRefuses_reset hrem hgone hres hremove _
    · exact partRefuses_frozen hrem hgone hres hfro c
    · exact partRefuses_fatal hrem hgone hres hfro hfatal hpass _

end Sys2Proof.Machine
end

section
/-!
PROOFS. What a register write changes, by access code (O13).
-/

namespace Sys2Proof.Machine

open Sys2Proof

-- What a write reaches (R760 to R766) --------------------------------------------------------------------------------------------------

theorem hit_reg_cls (h : RegHit) (f : Fn) : (h.reg f).cls = h.row.cls := by
  unfold RegHit.reg; split <;> rfl

theorem doRegisterWrite_hit {s : State} {f : Fn} {a w v : Nat} {h : RegHit} (hd : s.doeUp f = true) (hr : regAt a = some h)
    (hf : h.fits a w = true) (hs : s.sees f h = true) (hm : h.mayWrite f = true) (hv : v < 2 ^ w) :
    doRegisterWrite f a w v s = s.writeHit f h (v * 2 ^ (8 * h.off)) ((2 ^ w - 1) * 2 ^ (8 * h.off)) := by
  simp [doRegisterWrite, hd, hr, hf, hs, hm, Nat.mod_eq_of_lt hv]

theorem doRegisterWrite_barred {s : State} {f : Fn} {a w v : Nat} {h : RegHit} (hr : regAt a = some h) (hm : h.mayWrite f = false) :
    doRegisterWrite f a w v s = s := by
  simp [doRegisterWrite, hr, hm]

/-- An access narrower than 32 bits or off its alignment fits no register (R760 to R762). -/
theorem fits_false {h : RegHit} {a w : Nat} (hw : w < 32 ∨ a % 4 ≠ 0 ∨ (w = 64 ∧ a % 8 ≠ 0)) : h.fits a w = false := by
  have h4 : a % 8 = 0 → a % 4 = 0 := by omega
  simp only [RegHit.fits, Bool.or_eq_false_iff, Bool.and_eq_false_iff, beq_eq_false_iff_ne]
  omega

/-- An access that reaches no register: the address names none, the access does not fit it, or the function does not see it. -/
def State.misses (s : State) (f : Fn) (a w : Nat) : Prop := ∀ h, regAt a = some h → (h.fits a w && s.sees f h) = false

theorem misses_of {s : State} {f : Fn} {a w : Nat} (h : regAt a = none ∨ w < 32 ∨ a % 4 ≠ 0 ∨ (w = 64 ∧ a % 8 ≠ 0) ∨
    ∃ h, regAt a = some h ∧ s.sees f h = false) : s.misses f a w := by
  intro g hg
  rcases h with h | h | h | h | ⟨g', h, hs⟩
  · rw [h] at hg; cases hg
  · rw [fits_false (.inl h), Bool.false_and]
  · rw [fits_false (.inr (.inl h)), Bool.false_and]
  · rw [fits_false (.inr (.inr h)), Bool.false_and]
  · obtain rfl : g' = g := Option.some.inj (h.symm.trans hg)
    rw [hs, Bool.and_false]

theorem doRegisterWrite_misses {s : State} {f : Fn} {a w : Nat} (h : s.misses f a w) (v : Nat) : doRegisterWrite f a w v s = s := by
  unfold doRegisterWrite
  split
  · rfl
  · cases hr : regAt a with
    | none => rfl
    | some g => simp [h g hr]

theorem readReg_misses {s : State} {f : Fn} {a w : Nat} (h : s.misses f a w) : s.readReg f a w = 0 := by
  unfold State.readReg
  cases hr : regAt a with
  | none => rfl
  | some g => simp [h g hr]

-- What a write does (R16) -----------------------------------------------------------------------------------------------------------------

/-- The classes of registers whose bits start something when they are written (R16). -/
def startingClasses : List RegClass := [.hifSqCfg, .hifCqCfg, .lnkRekey, .bootCtl, .egrCfg, .egrGate, .attCapCtl, .corFault]

/-- Outside the registers whose bits start something, and the capture registers that R647 bars, a write is stored. -/
theorem writeHit_stores {s : State} {f : Fn} {h : RegHit} (value lanes : Nat)
    (hc : h.row.cls ∉ startingClasses)
    (hb : s.captureBarred f (h.reg f) = false) : s.writeHit f h value lanes = s.storeReg (h.reg f) value lanes := by
  simp only [← hit_reg_cls h f] at hc
  unfold State.writeHit
  dsimp only
  split
  case h_9 => rw [if_neg (by simp [hb])]
  all_goals next hr => rw [hr] at hc; exact absurd hc (by decide)

theorem storeReg_setReg {s : State} {r : Reg} (h : r.cls.isPmc = false) (value lanes : Nat) :
    s.storeReg r value lanes = s.setReg r (r.cls.written (s.reg r) value lanes) := by
  simp [State.storeReg, State.stored, h]

/-- A write of COR_FAULT acts by VALID alone (R246, R247). -/
theorem writeHit_corFault {s : State} {f : Fn} {h : RegHit} (value lanes : Nat) (hc : h.row.cls = .corFault) :
    s.writeHit f h value lanes = if bitOf (value &&& lanes) 63 then (s.setReg (h.reg f) 0).setReg { h.reg f with cls := .corFaultInstr } 0 else s := by
  have hr : (h.reg f).cls = .corFault := (hit_reg_cls h f).trans hc
  unfold State.writeHit
  dsimp only
  rw [hr]

-- Fields and access codes ------------------------------------------------------------------------------------------------------------------

/-- A bit of a field is among the writable bits of an access code exactly where that is the field's own: no other field has it. -/
theorem writable_field : ∀ c ∈ ([.hifErr, .bndCfg, .memCfg, .secAlarmPolicy] : List RegClass), ∀ fd ∈ c.fields, ∀ n < 32,
    fd.lo ≤ n → n ≤ fd.hi → (c.writable .rw).testBit n = decide (fd.acc = .rw) ∧ (c.writable .w1c).testBit n = decide (fd.acc = .w1c) := by
  decide

/-- What a write of all 32 bits leaves in a bit of a field, by the field's access code (R16). -/
theorem bitOf_written_field {c : RegClass} {fd : Field} (old v : Nat) {n : Nat}
    (hc : c ∈ ([.hifErr, .bndCfg, .memCfg, .secAlarmPolicy] : List RegClass)) (hf : fd ∈ c.fields) (hl : fd.lo ≤ n) (hh : n ≤ fd.hi) (hn : n < 32) :
    bitOf (c.written old v (2 ^ 32 - 1)) n = (match fd.acc with
      | .rw => bitOf v n
      | .w1c => bitOf old n && !bitOf v n
      | _ => bitOf old n) := by
  obtain ⟨hrw, hw1c⟩ := writable_field c hc fd hf n hn hl hh
  rw [bitOf_written, hrw, hw1c, Nat.testBit_two_pow_sub_one, decide_eq_true hn]
  cases fd.acc with
  | w1c => cases bitOf v n <;> simp
  | _ => simp

-- CLEAR_ALT and register writes as commands ------------------------------------------------------------------------------------------

theorem exec_registerWrite {s t : State} {f : Fn} {a w v : Nat} (h : doRegisterWrite f a w v s = t) (hc : t.Calm) :
    exec (.registerWrite f a w v) s = .next (s.kept t) := next_always h hc

/-- A write that is dropped changes nothing. -/
theorem exec_registerWrite_dropped {s : State} {f : Fn} {a w v : Nat} (hc : s.Calm) (h : doRegisterWrite f a w v s = s) :
    exec (.registerWrite f a w v) s = .next s := exec_registerWrite h hc

theorem State.Calm.setReg {s : State} (h : s.Calm) (r : Reg) (v : Nat) : (s.setReg r v).Calm :=
  h.of_eq rfl rfl rfl rfl rfl rfl rfl rfl

/-- R763: the register alone changes, to what its access codes leave of the write. -/
theorem exec_registerWrite_stores {s : State} {f : Fn} {a w v : Nat} {h : RegHit} (hc : s.Calm) (hd : s.doeUp f = true) (hr : regAt a = some h)
    (hf : h.fits a w = true) (hs : s.sees f h = true) (hm : h.mayWrite f = true) (hv : v < 2 ^ w) (hp : h.row.cls.isPmc = false)
    (hk : h.row.cls ∉ startingClasses)
    (hb : s.captureBarred f (h.reg f) = false) :
    ∃ t, exec (.registerWrite f a w v) s = .next t ∧ (∀ r, r ≠ h.reg f → t.reg r = s.reg r) ∧
      t.reg (h.reg f) = h.row.cls.written (s.reg (h.reg f)) (v * 2 ^ (8 * h.off)) ((2 ^ w - 1) * 2 ^ (8 * h.off)) % 2 ^ 64 ∧
      t = { s with regs := t.regs } := by
  have hw := doRegisterWrite_hit hd hr hf hs hm hv
  rw [writeHit_stores _ _ hk hb, storeReg_setReg ((hit_reg_cls h f).symm ▸ hp), hit_reg_cls] at hw
  exact ⟨_, exec_registerWrite hw (hc.setReg _ _), fun r hne => reg_setReg_other s _ hne, reg_setReg_same .., rfl⟩

/-- R246, R247: a 1 to VALID clears COR_FAULT and COR_FAULT_INSTR; any other write does nothing. -/
theorem exec_registerWrite_corFault {s : State} {f : Fn} {a v : Nat} {h : RegHit} (hc : s.Calm) (hd : s.doeUp f = true) (hr : regAt a = some h)
    (hf : h.fits a 64 = true) (hs : s.sees f h = true) (hk : h.row.cls = .corFault) (ho : h.off = 0) (hv : v < 2 ^ 64) :
    (bitOf v 63 = true → ∃ t, exec (.registerWrite f a 64 v) s = .next t ∧ t.reg (h.reg f) = 0 ∧
      t.reg { h.reg f with cls := .corFaultInstr } = 0 ∧
      (∀ r, r ≠ h.reg f → r ≠ { h.reg f with cls := .corFaultInstr } → t.reg r = s.reg r) ∧ t = { s with regs := t.regs }) ∧
    (bitOf v 63 = false → exec (.registerWrite f a 64 v) s = .next s) := by
  have hm : h.mayWrite f = true := by simp [RegHit.mayWrite, hk]
  have hlane : v * 2 ^ (8 * h.off) &&& (2 ^ 64 - 1) * 2 ^ (8 * h.off) = v := by
    simp only [ho, Nat.mul_zero, Nat.pow_zero, Nat.mul_one, Nat.and_two_pow_sub_one_eq_mod, Nat.mod_eq_of_lt hv]
  have hw := doRegisterWrite_hit hd hr hf hs hm hv
  rw [writeHit_corFault _ _ hk, hlane] at hw
  have hne : h.reg f ≠ { h.reg f with cls := .corFaultInstr } := fun e => by
    have := congrArg Reg.cls e
    rw [hit_reg_cls, hk] at this
    cases this
  refine ⟨fun hb => ?_, fun hb => exec_registerWrite_dropped hc (by rw [hw, if_neg (by simp [hb])])⟩
  rw [if_pos hb] at hw
  refine ⟨_, exec_registerWrite hw ((hc.setReg _ _).setReg _ _), ?_, reg_setReg_same .., fun r h1 h2 => ?_, rfl⟩
  · exact (reg_setReg_other _ _ hne).trans (reg_setReg_same ..)
  · exact (reg_setReg_other _ _ h2).trans (reg_setReg_other _ _ h1)

/-- Settles O13: a write is dropped, stored by its access codes, or has the effect of its register's own bits. -/
theorem registerWrites : Obligations.RegisterWrites := by
  intro s f hc hd
  refine ⟨fun a w v h hr hf hs hm hv hp hk hb => exec_registerWrite_stores hc hd hr hf hs hm hv hp hk hb,
    fun a v h hr hf hs hk ho hv => exec_registerWrite_corFault hc hd hr hf hs hk ho hv, fun a w v h hr hk hpf => ?_,
    fun c old v n fd hcl hfd hlo hhi h32 => bitOf_written_field old v hcl hfd hlo hhi (by omega), fun a w v hmiss => ?_,
    fun hpf => ?_, fun hpf => ?_⟩
  · have hm : h.mayWrite f = false := by simp [RegHit.mayWrite, hpf, hk]
    exact exec_registerWrite_dropped hc (doRegisterWrite_barred hr hm)
  · have hm := misses_of hmiss
    exact ⟨exec_registerWrite_dropped hc (doRegisterWrite_misses hm v), readReg_misses hm⟩
  · have hw : doClearAlt f s = s.clearAlternatives := by simp [doClearAlt, hd, hpf]
    exact next_always hw (hc.of_eq rfl rfl rfl rfl rfl rfl rfl rfl)
  · have hw : doClearAlt f s = s := by simp [doClearAlt, hpf]
    exact next_always hw hc

end Sys2Proof.Machine
end

section
/-!
PROOFS. What a partition-fatal and a device-fatal error freeze (O8).
-/

namespace Sys2Proof.Machine

open Sys2Proof

-- The record of a fatal error (R735, R736) ------------------------------------------------------------------------------------------------

theorem classed_eq (f : FaultRep) : f.classed = { f with cls := f.classed.cls } := by
  unfold FaultRep.classed
  split
  · rfl
  · split <;> rfl

theorem errAdd_next (s : State) (r : ErrRec) : (s.errAdd r).err.next = r.seq := by
  unfold State.errAdd
  dsimp only
  split <;> rfl

theorem errAdd_frozen (s : State) (r : ErrRec) : (s.errAdd r).err.frozen = s.err.frozen := by
  unfold State.errAdd
  dsimp only
  split <;> rfl

/-- What is said of the newest record is said of the ring alone. -/
theorem State.Logs.of_ring {s t u : State} {c : ErrClass} {a : Nat} {p : Option Nat} {b d : Nat} (h : s.Logs t c a p b d)
    (e : u.err.ring = t.err.ring) : s.Logs u c a p b d := by
  unfold State.Logs at h ⊢
  rwa [e]

/-- A fault above CE, detected while no recovery runs, has the newest record, of its own class; the ring's SEQ is the record's. -/
theorem detect_alone (s : State) {f : ErrIn} (hf : f.cls ≠ .ce) :
    ((s.recoveries []).detect f).1 = f.cls ∧ s.Logs ((s.recoveries []).detect f).2 f.cls f.source f.part f.location f.detail ∧
      ((s.recoveries []).detect f).2.err.next = s.err.nextSeq ∧ ((s.recoveries []).detect f).2.err.frozen = s.err.frozen := by
  have he : (s.recoveries []).err = { s.err with open_ := [] } := by rw [recoveries_nil]
  have hn := coalesces_not_ce (s.recoveries []).tick f hf
  obtain ⟨hlog, hcls⟩ := logs_detect he hn
  obtain ⟨-, herr⟩ := detect_new (s.recoveries []) f (by rw [he]) hn
  refine ⟨hcls, hlog, ?_, ?_⟩
  · rw [herr, errAdd_next, he]
    rfl
  · rw [herr, errAdd_frozen]
    exact (congrArg Err.frozen he : (s.recoveries []).err.frozen = _)

theorem rec_detect_alone (s : State) (f : ErrIn) : s.Rec ((s.recoveries []).detect f).2 :=
  (rec_recoveries s []).trans (rec_detect ..)

/-- Whether no command is queued, in progress or due does not depend on errors, pins, registers, queues, cores and the like. -/
theorem State.Idle.of_frame {s t : State} (h : s.Idle) (ht : t = { s with
      err := t.err, pins := t.pins, boot := t.boot, aon := t.aon, freeCtr := t.freeCtr, regs := t.regs, cores := t.cores, bars := t.bars
      sqs := t.sqs, cqs := t.cqs, bounce := t.bounce, mboxBusy := t.mboxBusy, arrived := t.arrived, sessions := t.sessions, peers := t.peers })
    (hr : t.boot.restart = s.boot.restart) (hw : ∀ kv ∈ t.sessions, kv.2.waiting = []) : t.Idle := by
  rw [ht]
  exact
  { waiting := hw, queue := h.queue, pulls := h.pulls, maps := h.maps, resets := h.resets, removals := h.removals
    removes := h.removes, restart := hr.trans h.restart, reqs := h.reqs, handoffs := h.handoffs, parks := h.parks, revives := h.revives
    movesOut := h.movesOut, bonds := h.bonds, bondWait := h.bondWait, alloc := h.alloc, scans := h.scans, ckps := h.ckps
    loads := h.loads, early := h.early, late := h.late }

-- The report of a freeze that ends no command (R467, R468) ---------------------------------------------------------------------------------

/-- A report that lists no command. -/
def State.emptyReport (s : State) (p : Nat) (cause : Status) (scope ctx : Nat) : Report :=
  { number := s.nextReport p, cause := cause, scope := scope, ctx := ctx, cmds := [], bonds := [], omitted := 0, stamp := s.tick.aon }

/-- A report without entries fits in every ring. -/
theorem emptyReport_fits (s : State) (p : Nat) (cause : Status) (scope ctx : Nat) :
    (s.emptyReport p cause scope ctx).bytes ≤ s.reportRoom p := by
  have h : 0 < 2 ^ s.fld Fld.BND_CFG_REPORT_FRAMES p := Nat.two_pow_pos _
  simp only [Report.bytes, State.emptyReport, State.reportRoom, List.length_nil]
  omega

theorem sweep_nil (s : State) (p : Nat) (st : Status) (scope ctx : Nat) :
    ∃ l, s.sweep p [] st scope ctx = { s.tick with reports := s.reports.set p (s.emptyReport p st scope ctx :: l) } := by
  refine ⟨keepReports (s.reportRoom p - (s.emptyReport p st scope ctx).bytes) (s.reportsOf p), ?_⟩
  have hk : keepReports (s.reportRoom p) (s.emptyReport p st scope ctx :: s.reportsOf p) =
      s.emptyReport p st scope ctx :: keepReports (s.reportRoom p - (s.emptyReport p st scope ctx).bytes) (s.reportsOf p) := by
    rw [keepReports, if_pos (emptyReport_fits ..)]
  rw [← hk]
  rfl

-- The freeze of a partition (R729) ----------------------------------------------------------------------------------------------------------

/-- Freezing a partition of a device without commands stops its cores and writes a report. -/
theorem freezePart_idle {s : State} (h : s.Idle) (p : Nat) :
    ∃ fs b c l, p ∈ fs ∧ s.freezePart p = { s.tick with
      err := { s.err with fatal := fs }, bars := b, cores := c
      reports := s.reports.set p (s.emptyReport p .internalPartitionFatal 2 0xFF :: l) } := by
  obtain ⟨fs, hfs⟩ : ∃ fs, fs = if s.err.fatal.contains p then s.err.fatal else p :: s.err.fatal := ⟨_, rfl⟩
  have hp : p ∈ fs := by
    rw [hfs]
    split
    · next hc => simpa using hc
    · exact List.mem_cons_self ..
  have hv : State.Idle { s with err := { s.err with fatal := fs } } := h.of_rec ⟨_, s.aon, s.freeCtr, s.regs, [], rfl⟩
  obtain ⟨b, c, hs⟩ := stopCores_frame { s with err := { s.err with fatal := fs } } p
  obtain ⟨l, hl⟩ := sweep_nil { s with err := { s.err with fatal := fs }, bars := b, cores := c } p .internalPartitionFatal 2 0xFF
  refine ⟨fs, b, c, l, hp, ?_⟩
  unfold State.freezePart
  dsimp only
  rw [← hfs, hv.commandsOf, hs, hl]
  unfold State.abortDevice
  simp only [State.tick, h.bonds]
  rfl

/-- R729: the record, the report of scope 2 and the freeze that a PF error leaves. -/
theorem exec_hardwareFault_pf {s : State} (h : s.Idle) {f : FaultRep} {p : Nat} (hw : s.awake = true) (hr : f.running = [])
    (hc : f.classed.cls = .pf) (hp : f.part = some p) :
    ∃ t, exec (.hardwareFault f) s = .next t ∧ s.Logs t .pf f.source (some p) f.location f.detail ∧ p ∈ t.err.fatal ∧
      (∃ r, (t.reportsOf p).head? = some r ∧ r.number = s.nextReport p ∧ r.cause = .internalPartitionFatal ∧ r.scope = 2 ∧
        r.ctx = 0xFF ∧ r.cmds = [] ∧ r.bonds = [] ∧ r.omitted = 0) ∧
      t = { s with err := t.err, aon := t.aon, freeCtr := t.freeCtr, regs := t.regs, out := t.out, reports := t.reports,
                   bars := t.bars, cores := t.cores } := by
  have hcl := classed_eq f
  rw [hc] at hcl
  obtain ⟨e, he⟩ : ∃ e, e = f.classed.errIn := ⟨_, rfl⟩
  have hcls : e.cls = .pf := by rw [he]; exact hc
  obtain ⟨hcl1, hlog, -, -⟩ := detect_alone s (f := e) (by rw [hcls]; decide)
  have hfault : s.fault f.classed = (((s.recoveries []).detect e).2).freezePart p := by
    rw [fault_plain s f.classed (by rw [hcl]; exact hr) (.inl (by rw [hc]; decide)), ← he, hcl1, hcls]
    simp only [State.actOn, show f.classed.part = some p by rw [hcl]; exact hp]
  have hrec := rec_detect_alone s e
  generalize ((s.recoveries []).detect e).2 = v at hlog hfault hrec
  obtain ⟨fs, b, c, l, hmem, hfr⟩ := freezePart_idle (h.of_rec hrec) p
  have hcalm : (v.freezePart p).Calm := by
    rw [hfr]; exact (h.of_rec hrec).toCalm.of_eq rfl rfl rfl rfl rfl rfl rfl rfl
  have hlog : s.Logs v .pf f.source (some p) f.location f.detail := by
    rw [he, FaultRep.errIn, hcl, hp] at hlog
    exact hlog
  refine ⟨_, next_always (t := v.freezePart p) (by rw [doHardwareFault_awake hw, hfault]) hcalm, ?_, ?_, ?_, ?_⟩
  · exact hlog.of_ring (by rw [hfr]; rfl)
  · rw [hfr]; exact hmem
  · refine ⟨v.emptyReport p .internalPartitionFatal 2 0xFF, ?_, ?_, rfl, rfl, rfl, rfl, rfl, rfl⟩
    · rw [hfr]
      simp [State.reportsOf, State.kept, AMap.getD]
    · obtain ⟨_, _, _, _, _, rfl⟩ := hrec
      rfl
  · rw [hfr]
    obtain ⟨_, _, _, _, _, rfl⟩ := hrec
    rfl

-- The device-fatal freeze (R742) -----------------------------------------------------------------------------------------------------------

/-- In a device without commands nothing waits that order 4 of the freeze would end. -/
theorem State.Idle.nothing_waits {s : State} (h : s.Idle) :
    ({ s with resets := [], removals := [], removeWait := [], waitS15 := [] } : State) = s := by
  have h1 := h.resets
  have h2 := h.removals
  have h3 := h.removes
  have h4 := h.early
  cases s
  cases h1; cases h2; cases h3; cases h4
  rfl

/-- Order 2 of the freeze leaves no core anything to run. -/
theorem haltCores_core {s : State} {e : Nat} {c : Core} (h : s.haltCores.cores.get? e = some c) :
    c.running = none ∧ c.queue = [] ∧ c.paused = [] := by
  have hm := AMap.get?_map s.cores (fun c : Core => { c with running := none, queue := [], paused := [], stopping := false }) e
  obtain ⟨c', -, rfl⟩ := Option.map_eq_some_iff.1 (hm.symm.trans h)
  exact ⟨rfl, rfl, rfl⟩

/-- What the freeze of R742 changes in a device without commands whose ports are DOWN. -/
theorem deviceFreeze_idle {s : State} (h : s.Idle) (hf : s.err.frozen = false) (hp : ∀ n x, s.ports.get? n = some x → x.state = .down)
    (seq : Nat) : ∃ q, s.deviceFreeze seq = { (s.ledger s.boot.step 3 0 0 seq).haltCores with
      pins := { s.pins with fault := true }, cqs := q
      err := { s.err with frozen := true, order := if s.qry.mounted then 5 else 6 }
      selfRefresh := if s.qry.mounted then s.selfRefresh else List.range 192 } := by
  obtain ⟨v, hv⟩ : ∃ v, v = (State.ledger { s with pins := { s.pins with fault := true } } s.boot.step 3 0 0 seq).haltCores := ⟨_, rfl⟩
  have hi : v.Idle := hv ▸ h.of_frame rfl rfl h.waiting
  obtain ⟨q, hq⟩ := endAll_idle hi .internalDeviceFatal
  have hq : v.endAll .internalDeviceFatal = { v with cqs := q } := by
    rw [hq]
    exact congrArg (fun w : State => { w with cqs := q }) hi.nothing_waits
  have hports : ∀ l : List Nat, l.foldl (fun (a : State) n => a.portDown n 1 true false) { v with cqs := q } = { v with cqs := q } :=
    fun l => portsDown_down _ l 1 true false (by rw [hv]; exact hp)
  refine ⟨q, ?_⟩
  unfold State.deviceFreeze
  rw [if_neg (by simp [hf])]
  dsimp only
  rw [← hv, hq, hports, hv]
  show (if s.qry.mounted then _ else _) = _
  cases s.qry.mounted <;> rfl

/-- THERM_TRIP_N is low (R797). -/
def State.tripped (s : State) : State := { s with pins := { s.pins with therm := true } }

/-- The record of a thermal trip stands (R797). -/
def State.tripRecord (s : State) : State := ((s.tripped.recoveries []).detect { cls := .df, source := 13, part := none }).2

theorem awake_iff (s : State) : s.awake = true ↔ s.err.frozen = false ∧ s.boot.phase ≠ .off ∧ s.boot.phase ≠ .reset := by
  unfold State.awake
  cases s.boot.phase <;> simp

theorem doThermalTrip_awake {s : State} (h : s.awake = true) : doThermalTrip s = s.tripRecord.deviceFreeze s.tripRecord.err.next := by
  obtain ⟨hf, hon, -⟩ := (awake_iff s).1 h
  unfold doThermalTrip
  split
  · next hoff => exact absurd hoff hon
  · exact if_neg (by simp [hf])

/-- R742, R797: what a thermal trip leaves. -/
theorem exec_thermalTrip_idle {s : State} (h : s.Idle) (hw : s.awake = true) (hp : ∀ n x, s.ports.get? n = some x → x.state = .down) :
    ∃ t, exec .thermalTrip s = .next t ∧
      s.Logs t .df 13 none 0 0 ∧ t.err.frozen = true ∧ t.err.order = (if s.qry.mounted then 5 else 6) ∧
      t.pins = { s.pins with therm := true, fault := true } ∧
      (∃ r, t.boot.ledger.head? = some r ∧ r.start = s.boot.number ∧ r.outcome = 3 ∧ r.detail = s.err.nextSeq) ∧
      (∀ e c, t.cores.get? e = some c → c.running = none ∧ c.queue = [] ∧ c.paused = []) ∧ t.bars = [] ∧
      t.selfRefresh = (if s.qry.mounted then s.selfRefresh else List.range 192) ∧
      t = { s with err := t.err, aon := t.aon, freeCtr := t.freeCtr, regs := t.regs, out := t.out, pins := t.pins, boot := t.boot,
                   cores := t.cores, bars := t.bars, cqs := t.cqs, selfRefresh := t.selfRefresh } := by
  obtain ⟨hf, -, -⟩ := (awake_iff s).1 hw
  have htrip := doThermalTrip_awake hw
  obtain ⟨-, hlog, hnext, hvf⟩ := detect_alone s.tripped (f := { cls := .df, source := 13, part := none }) (by decide)
  have hrec := rec_detect_alone s.tripped { cls := .df, source := 13, part := none }
  change s.Logs s.tripRecord .df 13 none 0 0 at hlog
  change s.tripRecord.err.next = s.err.nextSeq at hnext
  change s.tripRecord.err.frozen = s.err.frozen at hvf
  change s.tripped.Rec s.tripRecord at hrec
  generalize s.tripRecord = v at htrip hlog hnext hvf hrec
  have hidle : s.tripped.Idle := h.of_frame rfl rfl h.waiting
  have hiv := hidle.of_rec hrec
  obtain ⟨e, a, n, r, l, hve⟩ := hrec
  obtain ⟨q, hq⟩ := deviceFreeze_idle hiv (hvf.trans hf) (by rw [hve]; exact hp) v.err.next
  have hcalm : (v.deviceFreeze v.err.next).Calm := by
    rw [hq]; exact hiv.toCalm.of_eq rfl rfl rfl rfl rfl rfl rfl rfl
  refine ⟨_, next_always (t := v.deviceFreeze v.err.next) htrip hcalm, hlog.of_ring (by rw [hq]; rfl), ?_, ?_, ?_, ?_,
    fun e c hc => haltCores_core (by rw [hq] at hc; exact hc), ?_, ?_, ?_⟩
  · rw [hq]; rfl
  · rw [hq, hve]; rfl
  · rw [hq, hve]; rfl
  · refine ⟨_, by rw [hq]; rfl, by rw [hve]; rfl, rfl, hnext⟩
  · rw [hq]; rfl
  · rw [hq, hve]; rfl
  · rw [hq, hve]; rfl

-- The end of the dump (R742 orders 5 and 6) -------------------------------------------------------------------------------------------------

/-- Where no reset has waited for the dump, nothing follows its end (R791). -/
theorem dumpEnds_free {s : State} (h : s.pins.resetHeld = false) : s.dumpEnds = s := by
  unfold State.dumpEnds State.releaseReset
  simp [h]

theorem doFreezeDumpDone_programmed {s : State} (hf : s.err.frozen = true) (ho : s.err.order = 5) :
    doFreezeDumpDone true s = State.memoryOff { s with err := { s.err with
      order := 6, dumped := true, dump := s.err.ring, ring := s.err.ring.map (fun r => if r.cls = .df then { r with dumped := true } else r) } } := by
  simp [doFreezeDumpDone, hf, ho]

theorem doFreezeDumpDone_failed {s : State} (hf : s.err.frozen = true) (ho : s.err.order = 5) :
    doFreezeDumpDone false s = { s with err := { s.err with order := 6 }, selfRefresh := List.range 192 } := by
  simp [doFreezeDumpDone, hf, ho]

theorem exec_freezeDumpDone {s t : State} {programmed : Bool} (h : doFreezeDumpDone programmed s = t) (hh : t.pins.resetHeld = false)
    (hc : t.Calm) : exec (.freezeDumpDone programmed) s = .next (s.kept t) :=
  next_always (f := fun v => (doFreezeDumpDone programmed v).dumpEnds) (by rw [h, dumpEnds_free hh]) hc

/-- Settles O8: the freezes follow R729 and R742, and the end of the dump its orders 5 and 6. -/
theorem fatalErrors : Obligations.FatalErrors := by
  intro s h
  refine ⟨fun f p hw hr hc hp => exec_hardwareFault_pf h hw hr hc hp, fun hw hp => exec_thermalTrip_idle h hw hp,
    fun hf ho hh => ⟨?_, ?_⟩⟩
  · exact exec_freezeDumpDone (doFreezeDumpDone_programmed hf ho) hh
      ⟨fun _ hk => (List.not_mem_nil hk).elim, h.queue, h.pulls, h.maps, h.resets, h.removals, h.removes, h.restart⟩
  · exact exec_freezeDumpDone (doFreezeDumpDone_failed hf ho) hh (h.toCalm.of_eq rfl rfl rfl rfl rfl rfl rfl rfl)

end Sys2Proof.Machine
end

section
/-!
PROOFS. What the end of a request writes and leaves, whatever its completion finds (O14).
-/

namespace Sys2Proof.Machine

open Sys2Proof

-- Steps that write no completion entry and leave HIF_ERR -----------------------------------------------------------------------------------

/-- Between `s` and `t` no completion entry is written, and no function's HIF_ERR changes. -/
structure State.Mute (s t : State) : Prop where
  out : ∃ l, t.out = l ++ s.out ∧ ∀ g n c h m, Out.cqe g n c h m ∉ l
  err : ∀ i j, t.reg ⟨.hifErr, i, j⟩ = s.reg ⟨.hifErr, i, j⟩

theorem State.Mute.of_eq {s t : State} (ho : t.out = s.out) (hr : t.regs = s.regs) : s.Mute t :=
  ⟨⟨[], ho, fun _ _ _ _ _ => List.not_mem_nil⟩, fun i j => by unfold State.reg; rw [hr]⟩

theorem State.Mute.refl (s : State) : s.Mute s := .of_eq rfl rfl

theorem State.Mute.trans {s t u : State} (h : s.Mute t) (g : t.Mute u) : s.Mute u := by
  obtain ⟨⟨l, hl, hm⟩, hr⟩ := h
  obtain ⟨⟨l', hl', hm'⟩, hr'⟩ := g
  refine ⟨⟨l' ++ l, by rw [hl', hl, List.append_assoc], fun g n c h m hc => ?_⟩, fun i j => (hr' i j).trans (hr i j)⟩
  rcases List.mem_append.1 hc with hc | hc
  · exact hm' _ _ _ _ _ hc
  · exact hm _ _ _ _ _ hc

theorem State.Mute.ite {s t u : State} {c : Prop} [Decidable c] (h : s.Mute t) (g : s.Mute u) : s.Mute (if c then t else u) := by
  split
  · exact h
  · exact g

theorem mute_fold {α : Type} (f : State → α → State) (hf : ∀ (s : State) (x : α), s.Mute (f s x)) (l : List α) (s : State) :
    s.Mute (l.foldl f s) := foldl_keeps State.Mute .refl (fun _ _ _ => .trans) f hf l s

theorem mute_signal (s : State) (f : Fn) (v : Nat) : s.Mute (s.signal f v) :=
  ⟨⟨[.msix f v], rfl, fun _ _ _ _ _ h => by cases List.mem_singleton.1 h⟩, fun _ _ => rfl⟩

theorem mute_setFld (s : State) {f : Field} (hf : f.cls ≠ .hifErr) (v i j : Nat) : s.Mute (s.setFld f v i j) :=
  ⟨⟨[], rfl, fun _ _ _ _ _ => List.not_mem_nil⟩, fun _ _ => reg_setReg_other _ _ (fun e => hf (congrArg Reg.cls e).symm)⟩

theorem mute_bump (s : State) {f : Field} (hf : f.cls ≠ .hifErr) (i n : Nat) : s.Mute (s.bump f i n) := mute_setFld s hf ..

theorem mute_pmcAdd (s : State) (p : Option Nat) (r : Reg) (n : Nat) : s.Mute (s.pmcAdd p r n) := by
  have hset : ∀ (c : Reg) (v : Nat), s.Mute (s.setPmc c v) := fun _ _ => .of_eq rfl rfl
  unfold State.pmcAdd
  cases p with
  | none => exact .ite (.ite ((hset _ _).trans (mute_signal ..)) (hset _ _)) (hset _ _)
  | some p =>
    refine .ite (.ite ?_ (hset _ _)) (hset _ _)
    split
    · exact (hset _ _).trans (mute_signal ..)
    · exact hset _ _

/-- Counting an event may signal, and writes no completion entry (R749, R758). -/
theorem mute_count (s : State) (e : PmcEv) : s.Mute (s.count e) := by
  refine mute_fold _ (fun t rv => ?_) s.pmc s
  dsimp only
  split
  · exact .ite (mute_pmcAdd ..) (.refl t)
  · exact .ite (mute_pmcAdd ..) (.refl t)
  · exact .refl t

theorem mute_bondOnce (s : State) (p : Nat) : s.Mute (s.bondOnce p) := by
  have hroom : s.Mute (if s.bondRoom p then s else s.bump Fld.BND_SLOT_WAITS_COUNT p) := by
    split
    · exact .refl s
    · exact mute_bump s (by decide) ..
  have htake : ∀ t : State, t.Mute (t.takeBond p) := by
    intro t
    have hseq : t.Mute { t with nextSeq := t.nextSeq + 1 } := .of_eq rfl rfl
    exact hseq.trans (mute_setFld _ (f := Fld.BND_NEXT_ID_ID) (by decide) ..)
  have hcommit : ∀ t : State, t.Mute (t.countCommit p) := fun t =>
    (mute_bump t (f := Fld.BND_COMMITS_COUNT) (by decide) ..).trans (mute_count ..)
  exact hroom.trans ((htake _).trans (hcommit _))

theorem mute_freeTile (s : State) (n : Nat) : s.Mute (s.freeTile n) := by
  unfold State.freeTile
  split
  · exact .refl s
  · exact .of_eq rfl rfl

theorem mute_freeMor (s : State) (n : Nat) : s.Mute (s.freeMor n) := by
  unfold State.freeMor
  split
  · exact .refl s
  · exact .of_eq rfl rfl

theorem mute_freeMors (s : State) (l : List Nat) : s.Mute (s.freeMors l) := mute_fold _ mute_freeMor l s

theorem mute_dropRef (s : State) (n : Nat) : s.Mute (s.dropRef n) := by
  simp only [State.dropRef]
  split
  · exact .refl s
  · split
    · exact .refl s
    · exact .refl s
    · exact .refl s
    · exact mute_freeTile s n
    · split
      · exact mute_freeTile s n
      · exact .of_eq rfl rfl
    · split
      · exact .refl s
      · split
        · exact mute_freeTile s n
        · exact .of_eq rfl rfl

theorem mute_dropEntries (s : State) (b : Nat) (es : List (Nat × MEntry)) : s.Mute (s.dropEntries b es) := by
  refine mute_fold _ (fun t kv => ?_) es s
  unfold State.dropEntry
  split
  · exact .of_eq rfl rfl
  · exact mute_dropRef ..
  · obtain ⟨q, a, h⟩ := qTrim_frame t b kv.2.frame
    rw [h]; exact .of_eq rfl rfl
  · exact .refl t

theorem mute_leaveGrammar (s : State) (p : Nat) (id : Option Nat) : s.Mute (s.leaveGrammar p id) := by
  have hdrop : ∀ (t : State) (i : Nat), t.Mute (t.dropGrammar p i) := by
    intro t i
    unfold State.dropGrammar
    split
    · exact .refl t
    · have herase : t.Mute { t with grammars := t.grammars.erase (p, i) } := .of_eq rfl rfl
      exact herase.trans (mute_freeMors ..)
  unfold State.leaveGrammar
  split
  · exact .refl s
  · next i =>
    split
    · exact .refl s
    · next g _ =>
      have hset : s.Mute { s with grammars := s.grammars.set (p, i) { g with users := g.users - 1 } } := .of_eq rfl rfl
      dsimp only
      split
      · exact hset.trans ((mute_bondOnce ..).trans (hdrop ..))
      · exact hset

theorem mute_releaseReq (s : State) (q : Req) : s.Mute (s.releaseReq q) :=
  (mute_fold _ mute_freeTile q.frames s).trans
    ((mute_dropEntries ..).trans ((mute_freeMors ..).trans (mute_leaveGrammar ..)))

theorem mute_sendTo (s : State) (i part epoch comp : Nat) (w : Word64) (tag : Nat) (c : CtxClass) (b : MsgBody) :
    s.Mute (s.sendTo i part epoch comp w tag c b) := by
  obtain ⟨p, h⟩ := sendTo_frame s i part epoch comp w tag c b
  rw [h]; exact .of_eq rfl rfl

theorem mute_sendStream (s : State) (q : Req) (kind : Nat) (st : Status) (first : Nat) (ts : List Nat) :
    s.Mute (s.sendStream q kind st first ts) := by
  obtain ⟨p, h⟩ := sendStream_frame s q kind st first ts
  rw [h]; exact .of_eq rfl rfl

theorem mute_answerWaiting (s : State) (slot : Nat) (st : Status) : s.Mute (s.answerWaiting slot st) := by
  have hwork : ∀ a b c, s.Mute { s with slices := a, expertWait := b, batches := c } := fun _ _ _ => .of_eq rfl rfl
  unfold State.answerWaiting
  dsimp only
  refine (hwork _ _ _).trans ((mute_fold _ (fun a w => mute_sendTo ..) _ _).trans (mute_fold _ (fun a w => mute_sendTo ..) _ _))

-- A request that winds up (R322) ------------------------------------------------------------------------------------------------------------

/-- A step by which the request of a slot winds up: it writes no completion entry, and touches no queue and no other session. -/
structure State.Winds (slot : Nat) (s t : State) : Prop where
  mute : s.Mute t
  sqs : t.sqs = s.sqs
  calm : s.Calm → t.Calm
  gone : s.req slot = none → t.req slot = none
  state : (t.ses slot).state = (s.ses slot).state
  others : ∀ k, k ≠ slot → t.ses k = s.ses k

theorem State.Winds.trans {slot : Nat} {s t u : State} (h : State.Winds slot s t) (g : State.Winds slot t u) : State.Winds slot s u :=
  ⟨h.mute.trans g.mute, g.sqs.trans h.sqs, g.calm ∘ h.calm, g.gone ∘ h.gone, g.state.trans h.state,
    fun k hk => (g.others k hk).trans (h.others k hk)⟩

/-- A release that writes no completion entry winds a request up. -/
theorem State.Pre.winds {s t : State} (h : s.Pre t) (hm : s.Mute t) (slot : Nat) : State.Winds slot s t := by
  obtain ⟨_, _, _, _, _, _, _, _, _, _, _, _, _, _, _, _, _, _, rfl⟩ := h
  exact ⟨hm, rfl, fun hc => hc.of_eq rfl rfl rfl rfl rfl rfl rfl rfl, id, rfl, fun _ _ => rfl⟩

/-- A change of the slot's own session keeps the device calm where no command comes to wait there. -/
theorem calm_modSes {s : State} (hc : s.Calm) {slot : Nat} {f : Session → Session} (hf : ∀ x, (f x).waiting = x.waiting) :
    (s.modSes slot f).Calm :=
  calm_sessions hc ((hf _).trans (ses_waiting hc slot)) rfl rfl rfl rfl rfl rfl rfl rfl

theorem winds_modSes (s : State) (slot : Nat) {f : Session → Session} (hw : ∀ x, (f x).waiting = x.waiting) (hs : ∀ x, (f x).state = x.state) :
    State.Winds slot s (s.modSes slot f) := by
  obtain ⟨hsame, hother⟩ := ses_set (s := s) (t := s.modSes slot f) (k := slot) rfl
  exact ⟨.of_eq rfl rfl, rfl, fun hc => calm_modSes hc hw, id, by rw [hsame]; exact hs _, hother⟩

theorem winds_dropUnfilled (s : State) (slot : Nat) : State.Winds slot s (s.dropUnfilled slot) := by
  unfold State.dropUnfilled
  dsimp only
  generalize List.filter _ (s.ses slot).mortar.entries = es
  have hdrop : State.Winds slot s (s.dropEntries 0 es) := (pre_dropEntries s 0 es).winds (mute_dropEntries s 0 es) slot
  exact hdrop.trans (winds_modSes _ slot (fun _ => rfl) (fun _ => rfl))

theorem winds_tick (s : State) (slot : Nat) : State.Winds slot s s.tick :=
  (pre_time s s.tick.aon s.tick.freeCtr).winds (.of_eq rfl rfl) slot
theorem winds_draw (s : State) (slot : Nat) : State.Winds slot s s.draw.2 :=
  (pre_time s s.aon s.draw.2.freeCtr).winds (.of_eq rfl rfl) slot

/-- The end of a request but for its completion: `t` is what is left of `s` when the completion is posted. -/
structure State.WoundUp (slot : Nat) (q : Req) (st : Status) (s t : State) : Prop where
  mute : s.Mute t
  sqs : t.sqs = s.sqs
  calm : s.Calm → t.Calm
  gone : t.req slot = none
  state : (t.ses slot).state = (s.ses slot).state.afterRequest
  last : (t.ses slot).lastStatus = st ∧ (t.ses slot).lastTag = q.tag
  others : ∀ k, k ≠ slot → t.ses k = s.ses k

/-- A request that ends after it has begun to wind up. -/
theorem State.WoundUp.after {slot : Nat} {q q' : Req} {st : Status} {s v t : State} (h : State.WoundUp slot q' st v t)
    (hw : State.Winds slot s v) (hq : q'.tag = q.tag) : State.WoundUp slot q st s t :=
  ⟨hw.mute.trans h.mute, h.sqs.trans hw.sqs, h.calm ∘ hw.calm, h.gone, h.state.trans (congrArg _ hw.state), hq ▸ h.last,
    fun k hk => (h.others k hk).trans (hw.others k hk)⟩

/-- The completion of a request (R322, R681). -/
def Req.answer (q : Req) (slot : Nat) (st : Status) (report : Nat) : Completion :=
  { fn := q.fn, sq := q.sq, tag := q.tag, status := st, result := BitVec.ofNat 128 q.result, report := report, notice := false, ends := some slot }

/-- R322: a request releases what it holds, its session takes the end in, and its completion is posted. -/
theorem finishReq_posts (s : State) (slot : Nat) (q : Req) (st : Status) (report : Nat) :
    ∃ t, s.finishReq slot q st report = t.post (q.answer slot st report) ∧ State.WoundUp slot q st s t := by
  unfold State.finishReq
  dsimp only
  have h1 : State.Winds slot s (s.draw.2.sendStream q 3 st (Config.freeValue 21 s.draw.1 % 2 ^ 32) []) :=
    (winds_draw s slot).trans ((pre_sendStream ..).winds (mute_sendStream ..) slot)
  generalize s.draw.2.sendStream q 3 st (Config.freeValue 21 s.draw.1 % 2 ^ 32) [] = v1 at h1 ⊢
  have h2 : State.Winds slot s ((v1.answerWaiting slot st).releaseReq q) :=
    h1.trans (((pre_answerWaiting ..).trans (pre_releaseReq ..)).winds ((mute_answerWaiting ..).trans (mute_releaseReq ..)) slot)
  generalize (v1.answerWaiting slot st).releaseReq q = v2 at h2 ⊢
  have h3 : State.Winds slot s { v2 with reqs := v2.reqs.erase slot, handoffs := v2.handoffs.erase slot } :=
    h2.trans ⟨.of_eq rfl rfl, rfl, fun hc => hc.of_eq rfl rfl rfl rfl rfl rfl rfl rfl, fun _ => AMap.get?_erase_same .., rfl, fun _ _ => rfl⟩
  have g3 : State.req { v2 with reqs := v2.reqs.erase slot, handoffs := v2.handoffs.erase slot } slot = none := AMap.get?_erase_same ..
  generalize ({ v2 with reqs := v2.reqs.erase slot, handoffs := v2.handoffs.erase slot } : State) = v3 at h3 g3 ⊢
  have hd := winds_dropUnfilled v3 slot
  generalize v3.dropUnfilled slot = v4 at hd ⊢
  have hserved : ∀ (t : State) (p c : Nat), State.Winds slot t (t.contextServed p c) :=
    fun t p c => (pre_contextServed ..).winds (.of_eq rfl rfl) slot
  have hc : State.Winds slot v4 (if Status.cls st = 0x0A then v4 else
      (if (q.startedFallback || q.onFallback) = true then v4.contextServed q.part q.fbCtx else v4).contextServed q.part q.main) := by
    split
    · exact (State.Pre.refl v4).winds (.refl v4) slot
    · split
      · exact (hserved ..).trans (hserved ..)
      · exact hserved ..
  generalize (if Status.cls st = 0x0A then v4 else
    (if (q.startedFallback || q.onFallback) = true then v4.contextServed q.part q.fbCtx else v4).contextServed q.part q.main) = v5 at hc ⊢
  have hb : State.Winds slot v5 (v5.recordBond slot).tick :=
    ((State.Pre.of_bnd (bnd_recordBond v5 slot)).winds (mute_bondOnce ..) slot).trans (winds_tick ..)
  generalize (v5.recordBond slot).tick = v6 at hb ⊢
  obtain ⟨hm, hq, hcalm, hgone, hstate, hother⟩ := hd.trans (hc.trans hb)
  obtain ⟨hsame, hset⟩ := ses_set (s := v6) (t := v6.modSes slot (fun x => { x with
    state := x.state.afterRequest, op := v6.opAfter slot, lastStatus := st, lastTag := q.tag, lastTokens := q.committed, lastUse := v6.aon }))
    (k := slot) rfl
  refine ⟨_, rfl, (h3.mute.trans hm).trans (.of_eq rfl rfl), hq.trans h3.sqs, fun h => calm_modSes (hcalm (h3.calm h)) (fun _ => rfl),
    hgone g3, ?_, ?_, fun k hk => (hset k hk).trans ((hother k hk).trans (h3.others k hk))⟩
  · rw [hsame]
    show (v6.ses slot).state.afterRequest = _
    rw [hstate, h3.state]
  · rw [hsame]
    exact ⟨rfl, rfl⟩

/-- A request that generates without an emit ring and without a handoff ends with its completion. -/
theorem endReq_posts {s : State} {slot : Nat} {q : Req} (hr : s.req slot = some q) (hp : q.phase = .generating) (he : q.emit = none)
    (hh : s.handoffs.get? slot = none) (st : Status) (report : Nat) :
    ∃ t, s.endReq slot st 0 report = t.post (q.answer slot st report) ∧ State.WoundUp slot q st s t := by
  unfold State.endReq
  rw [hr]
  dsimp only
  rw [if_neg (by rw [hp]; exact fun h => by cases h)]
  obtain ⟨q', hq'⟩ : ∃ q' : Req, q' = { q with phase := .ending, utf8 := [], stopHold := [], held := none, pending := [], total := { q.total with running := false }, first := { q.first with running := false }, inter := { q.inter with running := false } } := ⟨_, rfl⟩
  rw [← hq']
  generalize ht : (s.bump Fld.TXT_REPLACED_COUNT q.part (textFlush q.args.text q.utf8 q.stopHold).replaced).answerWaiting slot st = b
  have hpre : s.Pre b := ht ▸ (State.Pre.of_drops (.of_fr (fr_bump ..))).trans (pre_answerWaiting ..)
  have hmute : s.Mute b := ht ▸ (mute_bump s (f := Fld.TXT_REPLACED_COUNT) (by decide) ..).trans (mute_answerWaiting ..)
  have hwinds := hpre.winds hmute slot
  obtain ⟨_, _, _, _, _, _, _, _, _, _, _, _, _, _, _, _, _, _, hb⟩ := hpre
  have habort : b.abortHandoff slot = b := by
    unfold State.abortHandoff
    rw [show b.handoffs.get? slot = none by rw [hb]; exact hh]
  rw [habort]
  have hreq : b.req slot ≠ none := by
    rw [show b.req slot = some q by rw [hb]; exact hr]
    exact fun h => by cases h
  have hset : State.Winds slot b (b.setReq slot q') :=
    ⟨.of_eq rfl rfl, rfl, fun hc => hc.of_eq rfl rfl rfl rfl rfl rfl rfl rfl, fun h => absurd h hreq, rfl, fun _ _ => rfl⟩
  have hcount : ∀ (v : State) {f : Field}, f.cls ≠ .hifErr → State.Winds slot v (v.bump f q.part) :=
    fun v _ hf => (State.Pre.of_drops (.of_fr (fr_bump ..))).winds (mute_bump v hf ..) slot
  have hstop : ∀ v : State, State.Winds slot v (if Status.cls st = 2 && st != Status.deadlineOnFallback then v.bump Fld.SCH_DL_FAILS_COUNT q.part
      else if st = .grammarStall then v.bump Fld.GRM_STALLS_COUNT q.part
      else if st = .peerBadLogits then v.bump Fld.SMP_BAD_LOGITS_COUNT q.part
      else v) := by
    intro v
    split
    · exact hcount v (by decide)
    · split
      · exact hcount v (by decide)
      · split
        · exact hcount v (by decide)
        · exact (State.Pre.refl v).winds (.refl v) slot
  have hw := hwinds.trans (hset.trans (hstop _))
  generalize (if Status.cls st = 2 && st != Status.deadlineOnFallback then (b.setReq slot q').bump Fld.SCH_DL_FAILS_COUNT q.part
    else if st = .grammarStall then (b.setReq slot q').bump Fld.GRM_STALLS_COUNT q.part
    else if st = .peerBadLogits then (b.setReq slot q').bump Fld.SMP_BAD_LOGITS_COUNT q.part
    else b.setReq slot q') = v at hw ⊢
  obtain ⟨t, hpost, hend⟩ := finishReq_posts v slot q' st report
  refine ⟨t, ?_, hend.after hw (by rw [hq'])⟩
  unfold State.writeEnd
  rw [show q'.emit = none by rw [hq']; exact he]
  refine hpost.trans ?_
  rw [hq']
  rfl

end Sys2Proof.Machine
end

section
/-!
PROOFS. Function resets and the controllers' reset pins (O14).
-/

namespace Sys2Proof.Machine

open Sys2Proof

-- What a function reset forgets (R694) -------------------------------------------------------------------------------------------------------

/-- A function's queues, their registers, HIF_BOUNCE, HIF_ERR, its bounce keys and its waiting commands are forgotten, and the completions
of its commands are cut off: what a function reset does in a device without commands, but for the capture. -/
def State.forgetFn (s : State) (f : Fn) : State :=
  { s.clearFn f with
    sessions := (s.dropQueued f).sessions
    arrived := s.arrived.map (Owner.cut f)
    peers := (s.cutOthers f).peers }

/-- A request without its completion queue. -/
def Req.cut (f : Fn) (q : Req) : Req := { q with sq := cutSq f q.fn q.sq }

/-- Where no command is in progress but requests, a function reset has only requests to cut off. -/
theorem cut_idle {s : State} (h : s.Idle) (f : Fn) (r : AMap Nat Req) :
    (((State.dropQueued { s with reqs := r } f).cutSessions f).cutOthers f).clearFn f =
      { s.forgetFn f with reqs := r.map (fun (kv : Nat × Req) => (kv.1, kv.2.cut f)) } := by
  have hctx : s.ctxs.map (fun (kv : (Nat × Nat) × Ctx) =>
      (kv.1, { kv.2 with asked := kv.2.asked.map (Owner.cut f), held := cutSubs f kv.2.held })) = s.ctxs := by
    conv => rhs; rw [← List.map_id s.ctxs]
    apply List.map_congr_left
    intro kv hk
    obtain ⟨ha, hl⟩ := h.loads kv hk
    obtain ⟨k, x⟩ := kv
    cases x
    cases ha
    cases hl
    rfl
  have hckp : ({ s.ckp with
      runs := s.ckp.runs.map (fun (kv : (Nat × Nat) × CkpRun) => (kv.1, { kv.2 with sq := cutSq f kv.2.fn kv.2.sq }))
      queue := cutSubs f s.ckp.queue } : Ckp) = s.ckp := by
    have h1 := h.ckps
    have h2 := h.queue
    generalize s.ckp = c at h1 h2
    cases c
    cases h1
    cases h2
    rfl
  have hboot : ({ s.boot with restart := s.boot.restart.map (Owner.cut f) } : Boot) = s.boot := by
    have h1 := h.restart
    generalize s.boot = b at h1
    cases b
    cases h1
    rfl
  unfold State.forgetFn State.clearFn State.cutOthers State.cutSessions State.dropQueued
  dsimp only
  rw [hctx, hckp, hboot]
  simp only [h.handoffs, h.parks, h.revives, h.movesOut, h.bondWait, h.alloc, h.resets, h.removals, h.removes, h.scans, h.early, h.late,
    cutSubs, List.map_nil, List.filter_nil]
  rfl

/-- Classes of registers that a function reset may change: those that it clears, and the capture enable of the function's partition. -/
def touchedClasses : List RegClass := [.hifErr, .hifSqBase, .hifSqCfg, .hifCqBase, .hifCqCfg, .hifBounceBase, .hifBounceSize, .attCapCtl]

/-- `t` is `s` but for what function resets change in a device without commands. -/
structure State.Forgets (s t : State) : Prop where
  frame : t = { s with sqs := t.sqs, cqs := t.cqs, bounce := t.bounce, regs := t.regs, mboxBusy := t.mboxBusy, arrived := t.arrived,
                       sessions := t.sessions, peers := t.peers }
  ses : ∀ k, t.ses k = { s.ses k with noted := (t.ses k).noted }
  waiting : ∀ kv ∈ t.sessions, kv.2.waiting = []
  regs : ∀ r : Reg, r.cls ∉ touchedClasses → t.reg r = s.reg r
  queues : ∀ g q, (s.sq g q = none → t.sq g q = none) ∧ (s.cq g q = none → t.cq g q = none)

theorem State.Forgets.refl {s : State} (h : s.Idle) : s.Forgets s :=
  ⟨rfl, fun _ => rfl, h.waiting, fun _ _ => rfl, fun _ _ => ⟨id, id⟩⟩

theorem State.Forgets.trans {s t u : State} (h : s.Forgets t) (g : t.Forgets u) : s.Forgets u := by
  refine ⟨?_, fun k => ?_, g.waiting, fun r hr => (g.regs r hr).trans (h.regs r hr), fun f q => ?_⟩
  · rw [g.frame, h.frame]
  · rw [g.ses, h.ses]
  · exact ⟨(g.queues f q).1 ∘ (h.queues f q).1, (g.queues f q).2 ∘ (h.queues f q).2⟩

theorem State.Idle.forgets {s t : State} (h : s.Idle) (g : s.Forgets t) : t.Idle :=
  h.of_frame (by rw [g.frame]) (by rw [g.frame]) g.waiting

-- The parts of a forgotten function -----------------------------------------------------------------------------------------------------------

theorem reg_forgetFn (s : State) (f : Fn) (r : Reg) :
    (s.forgetFn f).reg r = if r.cls ∈ resetClasses ∧ r.i = f.index then r.cls.reset else s.reg r := by
  have hg := AMap.get?_filter s.regs (fun r => !(resetClasses.contains r.cls && r.i == f.index)) r
  have hr : (s.forgetFn f).regs.get? r = if (!(resetClasses.contains r.cls && r.i == f.index)) = true then s.regs.get? r else none := hg
  unfold State.reg
  rw [hr]
  by_cases hc : r.cls ∈ resetClasses ∧ r.i = f.index
  · rw [if_pos hc, if_neg (by simp [hc])]
  · rw [if_neg hc, if_pos (by simpa [imp_iff_not_or] using hc)]

theorem sq_forgetFn (s : State) (f g : Fn) (q : Nat) : (s.forgetFn f).sq g q = if g.index = f.index then none else s.sq g q := by
  refine (AMap.get?_filter s.sqs (fun k => k.1 != f.index) (g.index, q)).trans ?_
  by_cases hg : g.index = f.index <;> simp [hg, State.sq]

theorem cq_forgetFn (s : State) (f g : Fn) (q : Nat) : (s.forgetFn f).cq g q = if g.index = f.index then none else s.cq g q := by
  refine (AMap.get?_filter s.cqs (fun k => k.1 != f.index) (g.index, q)).trans ?_
  by_cases hg : g.index = f.index <;> simp [hg, State.cq]

/-- A session of which a function's commands are forgotten. -/
def Session.forget (f : Fn) (x : Session) : Session :=
  { x with
    waiting := x.waiting.filter (fun (w : Sub × HostCmd) => w.1.fn != f)
    noted := x.noted.filter (fun (w : Sub × Nat) => w.1.fn != f) }

theorem forget_quiet (f : Fn) {x : Session} (h : x.waiting = []) : x.forget f = { x with noted := (x.forget f).noted } := by
  unfold Session.forget
  rw [h]
  rfl

theorem ses_forgetFn {s : State} (h : s.Calm) (f : Fn) (k : Nat) :
    (s.forgetFn f).ses k = { s.ses k with noted := ((s.forgetFn f).ses k).noted } := by
  have hg : (s.forgetFn f).sessions.get? k = (s.sessions.get? k).map (Session.forget f) := AMap.get?_map s.sessions (Session.forget f) k
  have hf : (s.forgetFn f).ses k = (s.ses k).forget f := by
    unfold State.ses AMap.getD
    rw [hg]
    cases s.sessions.get? k <;> rfl
  rw [hf]
  exact forget_quiet f (ses_waiting h k)

theorem forgets_forgetFn {s : State} (h : s.Idle) (f : Fn) : s.Forgets (s.forgetFn f) := by
  refine ⟨rfl, ses_forgetFn h.toCalm f, ?_, fun r hr => ?_, fun g q => ⟨fun hq => ?_, fun hq => ?_⟩⟩
  · intro kv hk
    obtain ⟨x, hx, rfl⟩ := List.mem_map.1 hk
    show x.2.waiting.filter _ = []
    rw [h.waiting x hx, List.filter_nil]
  · rw [reg_forgetFn, if_neg]
    rintro ⟨hc, -⟩
    exact hr (by unfold resetClasses at hc; unfold touchedClasses; simp at hc ⊢; tauto)
  · rw [sq_forgetFn, hq, ite_self]
  · rw [cq_forgetFn, hq, ite_self]

-- The capture of the function's partition (R694) ------------------------------------------------------------------------------------------------

/-- The capture of a function's partition is off. -/
def State.stopCapture (s : State) (f : Fn) : State :=
  match s.partOfFn f with
  | some p => s.setFld Fld.ATT_CAP_CTL_ENABLE 0 p
  | none => s

theorem reg_stopCapture (s : State) (f : Fn) {r : Reg} (hr : r.cls ≠ .attCapCtl) : (s.stopCapture f).reg r = s.reg r := by
  unfold State.stopCapture
  split
  · exact reg_setReg_other _ _ (fun e => hr (congrArg Reg.cls e))
  · rfl

theorem fld_stopCapture {s : State} {f : Fn} {p : Nat} (h : s.partOfFn f = some p) :
    (s.stopCapture f).fld Fld.ATT_CAP_CTL_ENABLE p = 0 := by
  unfold State.stopCapture
  rw [h]
  exact fld_setFld_same s Fld.ATT_CAP_CTL_ENABLE 0 p 0 (by decide) (by decide)

theorem stopCapture_frame (s : State) (f : Fn) : ∃ r, s.stopCapture f = { s with regs := r } := by
  unfold State.stopCapture
  split <;> exact ⟨_, rfl⟩

theorem forgets_stopCapture {s : State} (h : s.Idle) (f : Fn) : s.Forgets (s.stopCapture f) := by
  have hr := fun (r : Reg) (hc : r.cls ∉ touchedClasses) =>
    reg_stopCapture s f (r := r) (fun e => hc (by rw [e]; decide))
  obtain ⟨r, e⟩ := stopCapture_frame s f
  rw [e] at hr ⊢
  exact ⟨rfl, fun _ => rfl, h.waiting, hr, fun _ _ => ⟨id, id⟩⟩

/-- The partition of a function is read from HIF_VF_MAP (R672). -/
theorem partOfFn_congr {s t : State} (h : ∀ p, t.reg ⟨.hifVfMap, p, 0⟩ = s.reg ⟨.hifVfMap, p, 0⟩) (f : Fn) : t.partOfFn f = s.partOfFn f := by
  have hf : ∀ p, t.fnOfPart p = s.fnOfPart p := fun p => by
    unfold State.fnOfPart State.flag State.fld
    rw [show Fld.HIF_VF_MAP_VALID.cls = .hifVfMap from rfl, show Fld.HIF_VF_MAP_CONTROLLER.cls = .hifVfMap from rfl,
      show Fld.HIF_VF_MAP_VF.cls = .hifVfMap from rfl, h p]
  unfold State.partOfFn
  simp only [hf]

-- A function reset as a whole --------------------------------------------------------------------------------------------------------------

/-- In a device without commands a function reset forgets the function and stops its partition's capture. -/
theorem resetFn_idle {s : State} (h : s.Idle) (f : Fn) : s.resetFn f = (s.forgetFn f).stopCapture f := by
  have hcut := cut_idle h f []
  have hreqs : ({ s with reqs := [] } : State) = s := by rw [← h.reqs]
  have hf : ({ s.forgetFn f with reqs := [] } : State) = s.forgetFn f := by rw [← show (s.forgetFn f).reqs = [] from h.reqs]
  rw [hreqs, List.map_nil, hf] at hcut
  unfold State.resetFn
  rw [hcut, h.reqs]
  rfl

theorem forgets_resetFn {s : State} (h : s.Idle) (f : Fn) : s.Forgets (s.resetFn f) := by
  rw [resetFn_idle h]
  exact (forgets_forgetFn h f).trans (forgets_stopCapture (h.forgets (forgets_forgetFn h f)) f)

theorem sq_resetFn {s : State} (h : s.Idle) (f g : Fn) (q : Nat) :
    (s.resetFn f).sq g q = if g.index = f.index then none else s.sq g q := by
  rw [resetFn_idle h]
  obtain ⟨r, e⟩ := stopCapture_frame (s.forgetFn f) f
  rw [e]
  exact sq_forgetFn s f g q

theorem cq_resetFn {s : State} (h : s.Idle) (f g : Fn) (q : Nat) :
    (s.resetFn f).cq g q = if g.index = f.index then none else s.cq g q := by
  rw [resetFn_idle h]
  obtain ⟨r, e⟩ := stopCapture_frame (s.forgetFn f) f
  rw [e]
  exact cq_forgetFn s f g q

theorem bounce_resetFn {s : State} (h : s.Idle) (f : Fn) : (s.resetFn f).bounce = s.bounce.erase f.index := by
  rw [resetFn_idle h]
  obtain ⟨r, e⟩ := stopCapture_frame (s.forgetFn f) f
  rw [e]
  rfl

theorem reg_resetFn {s : State} (h : s.Idle) (f : Fn) {r : Reg} (hr : r.cls ≠ .attCapCtl) :
    (s.resetFn f).reg r = if r.cls ∈ resetClasses ∧ r.i = f.index then r.cls.reset else s.reg r := by
  rw [resetFn_idle h, reg_stopCapture _ _ hr, reg_forgetFn]

theorem fld_capture_resetFn {s : State} (h : s.Idle) {f : Fn} {p : Nat} (hp : s.partOfFn f = some p) :
    (s.resetFn f).fld Fld.ATT_CAP_CTL_ENABLE p = 0 := by
  rw [resetFn_idle h]
  refine fld_stopCapture ((partOfFn_congr (fun p => ?_) f).trans hp)
  rw [reg_forgetFn, if_neg (by simp [resetClasses])]

/-- What resets of several functions leave (R694). -/
theorem forgets_resetFns {s : State} (h : s.Idle) (l : List Fn) :
    s.Forgets (l.foldl (fun (a : State) f => a.resetFn f) s) ∧
      ∀ f ∈ l, ∀ q, (l.foldl (fun (a : State) f => a.resetFn f) s).sq f q = none ∧
        (l.foldl (fun (a : State) f => a.resetFn f) s).cq f q = none := by
  induction l generalizing s with
  | nil => exact ⟨.refl h, fun _ hf => (List.not_mem_nil hf).elim⟩
  | cons f l ih =>
    have hs := forgets_resetFn h f
    obtain ⟨hl, hq⟩ := ih (h.forgets hs)
    refine ⟨hs.trans hl, fun g hg q => ?_⟩
    rcases List.mem_cons.1 hg with rfl | hg
    · exact ⟨(hl.queues g q).1 (by rw [sq_resetFn h, if_pos rfl]), (hl.queues g q).2 (by rw [cq_resetFn h, if_pos rfl])⟩
    · exact hq g hg q

/-- R694: a function reset in a device without commands. -/
theorem exec_functionReset_idle {s : State} (h : s.Idle) {f : Fn} (hd : s.doeUp f = true) :
    exec (.functionReset f) s = .next (s.kept (s.resetFn f)) :=
  next_always (by rw [doFunctionReset, if_pos hd]) (h.forgets (forgets_resetFn h f)).toCalm

-- A function reset with a running request (R694, R695) ------------------------------------------------------------------------------------------

/-- A completion whose queue is gone is dropped (log entry 12). -/
theorem post_unqueued {s : State} {c : Completion} {n : Nat} (hc : c.sq = some n) (hs : s.sq c.fn n = none) :
    ∃ a, s.post c = { s with arrived := a } := by
  unfold State.post
  rw [hc]
  dsimp only
  by_cases hn : (c.notice || c.dup) = true
  · rw [if_pos hn, hs]
    exact ⟨s.arrived, rfl⟩
  · rw [if_neg hn, show State.sq { s with arrived := dropOwner ⟨c.fn, some n, c.tag⟩ s.arrived } c.fn n = none from hs]
    exact ⟨_, rfl⟩

/-- The request that runs ends without a completion entry. -/
theorem endByReset_dropped {s : State} {slot n : Nat} {q : Req} (hr : s.req slot = some q) (hp : q.phase = .generating) (he : q.emit = none)
    (hh : s.handoffs.get? slot = none) (hq : q.sq = some n) (hs : s.sq q.fn n = none) :
    ∃ t a, s.endByReset slot = { t with arrived := a } ∧ State.WoundUp slot q .cancelledHostReset s t := by
  obtain ⟨t, hpost, hend⟩ := endReq_posts hr hp he hh .cancelledHostReset 0
  obtain ⟨a, ha⟩ := post_unqueued (s := t) (c := q.answer slot .cancelledHostReset 0) hq
    (by unfold State.sq; rw [hend.sqs]; exact hs)
  refine ⟨t, a, ?_, hend⟩
  unfold State.endByReset
  rw [hpost, ha]
  unfold State.endWithout
  rw [show State.req { t with arrived := a } slot = none from hend.gone]

/-- R694, R695: what a function reset leaves of the request that runs. -/
theorem resetFn_running {s : State} (h : s.Idle) {f : Fn} {slot : Nat} {q : Req} (hf : q.fn = f) (hp : q.phase = .generating)
    (he : q.emit = none) : ∃ t r a, State.resetFn { s with reqs := [(slot, q)] } f = { t with regs := r, arrived := a } ∧
      State.WoundUp slot (q.cut f) .cancelledHostReset { s.forgetFn f with reqs := [(slot, q.cut f)] } t := by
  have hcut := cut_idle h f [(slot, q)]
  obtain ⟨t, a, ht, hend⟩ := endByReset_dropped (s := { s.forgetFn f with reqs := [(slot, q.cut f)] }) (slot := slot) (n := noQueue)
    (q := q.cut f) (by simp [State.req, AMap.get?]) hp he
    (by show s.handoffs.get? slot = none; rw [h.handoffs]; rfl) (by simp [Req.cut, cutSq, hf])
    ((sq_forgetFn s f q.fn noQueue).trans (if_pos (by rw [hf])))
  obtain ⟨r, hcap⟩ := stopCapture_frame { t with arrived := a } f
  refine ⟨t, r, a, ?_, hend⟩
  have hslots : (List.filter (fun (kv : Nat × Req) => kv.2.fn == f) [(slot, q)]).map (·.1) = [slot] := by simp [hf]
  unfold State.resetFn
  dsimp only
  rw [hslots, hcut]
  exact (congrArg (fun v : State => v.stopCapture f) ht).trans hcap

/-- R694, R695: a function reset while a request of the function runs. -/
theorem exec_functionReset_running {s : State} (h : s.Idle) {f : Fn} {slot : Nat} {q : Req} (hd : s.doeUp f = true) (hf : q.fn = f)
    (hp : q.phase = .generating) (he : q.emit = none) :
    ∃ t l, exec (.functionReset f) { s with reqs := [(slot, q)] } = .next t ∧ t.req slot = none ∧
      (t.ses slot).lastStatus = .cancelledHostReset ∧ (t.ses slot).lastTag = q.tag ∧ (t.ses slot).state = (s.ses slot).state.afterRequest ∧
      (∀ k, k ≠ slot → t.ses k = { s.ses k with noted := (t.ses k).noted }) ∧
      t.out = l ++ s.out ∧ ∀ g n c h m, Out.cqe g n c h m ∉ l := by
  obtain ⟨t, r, a, ht, hend⟩ := resetFn_running h hf hp he (slot := slot)
  have hforget := forgets_forgetFn h f
  obtain ⟨l, hl, hmute⟩ := hend.mute.out
  have hcalm : State.Calm { t with regs := r, arrived := a } :=
    (hend.calm ((h.forgets hforget).toCalm.of_eq rfl rfl rfl rfl rfl rfl rfl rfl)).of_eq rfl rfl rfl rfl rfl rfl rfl rfl
  have hdo : doFunctionReset f { s with reqs := [(slot, q)] } = { t with regs := r, arrived := a } := by
    rw [doFunctionReset, if_pos (show State.doeUp { s with reqs := [(slot, q)] } f = true from hd), ht]
  refine ⟨_, l, next_always hdo hcalm, hend.gone, hend.last.1, hend.last.2, ?_, fun k hk => ?_, hl, hmute⟩
  · have hs : ((s.forgetFn f).ses slot).state = (s.ses slot).state := by rw [hforget.ses]
    exact hend.state.trans (congrArg _ hs)
  · have hs : t.ses k = (s.forgetFn f).ses k := hend.others k hk
    show t.ses k = { s.ses k with noted := (t.ses k).noted }
    rw [hs]
    exact hforget.ses k

-- The reset pins of the controllers (R671, R788) ---------------------------------------------------------------------------------------------------

theorem setPerst_frame (s : State) (n : Nat) (low : Bool) : s.setPerst n low = { s with pins := (s.setPerst n low).pins } := by
  unfold State.setPerst
  split <;> rfl

theorem perst_setPerst (s : State) {n : Nat} (hn : n < 2) (low : Bool) : (s.setPerst n low).perst n = low := by
  obtain rfl | rfl : n = 0 ∨ n = 1 := by omega
  · rfl
  · rfl

theorem linkOff_frame (s : State) (n : Nat) : s.linkOff n = { s with regs := (s.linkOff n).regs } := rfl

theorem linkOff_down (s : State) (n : Nat) : (s.linkOff n).flag Fld.HIF_LINK_UP n = false := by
  unfold State.linkOff State.flag
  rw [fld_setFld_other _ _ _ _ _ _ _ _ (by decide) (by decide) (.inr (by decide)),
    fld_setFld_other _ _ _ _ _ _ _ _ (by decide) (by decide) (.inr (by decide)), fld_setFld_same _ _ _ _ _ (by decide) (by decide)]
  rfl

theorem mem_fnsOf {n v : Nat} (h : v < 17) : ⟨n, v⟩ ∈ fnsOf n := List.mem_map.2 ⟨v, List.mem_range.2 h, rfl⟩

/-- R788: where the controllers do not run, the pin alone changes. -/
theorem exec_perstAsserted_down {s : State} (h : s.Idle) {n : Nat} (hn : n < 2) (hp : s.perst n = false) (hu : s.pcieUp = false) :
    exec (.perstAsserted n) s = .next (s.setPerst n true) := by
  have hdo : doPerstAsserted n s = s.setPerst n true := by
    unfold doPerstAsserted
    rw [if_neg (by simp [hp, hn]), hu]
    rfl
  have hf := setPerst_frame s n true
  have hidle : (s.setPerst n true).Idle := h.of_frame (by rw [hf]) (by rw [hf]) (by rw [hf]; exact h.waiting)
  refine (next_always hdo hidle.toCalm).trans ?_
  rw [hf]
  rfl

/-- R671, R694: the link goes down, and each of the controller's functions is reset. -/
theorem exec_perstAsserted_up {s : State} (h : s.Idle) {n : Nat} (hn : n < 2) (hp : s.perst n = false) (hu : s.pcieUp = true)
    (hpr : s.present ⟨n, 0⟩ = true) :
    ∃ t, exec (.perstAsserted n) s = .next t ∧ t.pins = (s.setPerst n true).pins ∧ t.flag Fld.HIF_LINK_UP n = false ∧
      (∀ v q, v < 17 → t.sq ⟨n, v⟩ q = none ∧ t.cq ⟨n, v⟩ q = none) ∧ (∀ k, t.ses k = { s.ses k with noted := (t.ses k).noted }) ∧
      t = { s with pins := t.pins, sqs := t.sqs, cqs := t.cqs, bounce := t.bounce, regs := t.regs, mboxBusy := t.mboxBusy,
                   arrived := t.arrived, sessions := t.sessions, peers := t.peers } := by
  obtain ⟨v, hv⟩ : ∃ v : State, v = (s.setPerst n true).linkOff n := ⟨_, rfl⟩
  have hvf : v = { s with pins := (s.setPerst n true).pins, regs := v.regs } := by
    rw [hv, linkOff_frame, setPerst_frame s n true]
  have hidle : v.Idle := h.of_frame (by rw [hvf]) (by rw [hvf]) (by rw [hvf]; exact h.waiting)
  obtain ⟨hf, hq⟩ := forgets_resetFns hidle (fnsOf n)
  have hdo : doPerstAsserted n s = (fnsOf n).foldl (fun (a : State) f => a.resetFn f) v := by
    unfold doPerstAsserted
    rw [if_neg (by simp [hp, hn]), hu, hpr, hv]
    rfl
  generalize (fnsOf n).foldl (fun (a : State) f => a.resetFn f) v = t at hf hq hdo
  have hfr := hf.frame
  refine ⟨_, next_always hdo (hidle.forgets hf).toCalm, ?_, ?_, fun w q hw => hq _ (mem_fnsOf hw) q, fun k => ?_, ?_⟩
  · show t.pins = _
    rw [hfr, hvf]
  · have hl : t.fld Fld.HIF_LINK_UP n = v.fld Fld.HIF_LINK_UP n := by
      unfold State.fld
      rw [hf.regs _ (show RegClass.hifLink ∉ touchedClasses by decide)]
    show (t.fld Fld.HIF_LINK_UP n == 1) = false
    rw [hl, hv]
    exact linkOff_down (s.setPerst n true) n
  · have hs : v.ses k = s.ses k := by rw [hvf]; rfl
    show t.ses k = { s.ses k with noted := (t.ses k).noted }
    rw [← hs]
    exact hf.ses k
  · show s.kept t = _
    rw [hfr, hvf]
    rfl

/-- R670, R671: the pin changes, and the link trains to what its partner decides. -/
theorem exec_perstReleased {s : State} (h : s.Idle) {n : Nat} (hn : n < 2) (hp : s.perst n = true) :
    ∃ t, exec (.perstReleased n) s = .next t ∧ t.pins = (s.setPerst n false).pins ∧
      t = { s with pins := t.pins, regs := t.regs, freeCtr := t.freeCtr } := by
  have hlink : ∀ (v : State) (w g : Nat), ∃ r, v.pcieLink n w g = { v with regs := r } := by
    intro v w g
    unfold State.pcieLink
    split <;> exact ⟨_, rfl⟩
  have hdo : ∃ r c, doPerstReleased n s = { s.setPerst n false with regs := r, freeCtr := c } := by
    unfold doPerstReleased
    rw [if_neg (by simp [hp, hn])]
    dsimp only
    split
    · obtain ⟨r, hr⟩ := hlink (s.setPerst n false).draw.2.draw.2 _ _
      exact ⟨r, _, hr⟩
    · exact ⟨_, _, rfl⟩
  obtain ⟨r, c, hdo⟩ := hdo
  rw [setPerst_frame] at hdo
  have hidle : State.Idle { s with pins := (s.setPerst n false).pins, regs := r, freeCtr := c } := h.of_frame rfl rfl h.waiting
  exact ⟨_, next_always hdo hidle.toCalm, rfl, rfl⟩

end Sys2Proof.Machine
end

section
/-!
PROOFS. Errors of host memory (O14).
-/

namespace Sys2Proof.Machine

open Sys2Proof

-- The commands that an error of host memory ends (R686) --------------------------------------------------------------------------------------

/-- The commands of a partition where only requests run and commands wait for frames. -/
theorem commandsOf_with {s : State} (h : s.Idle) (r : AMap Nat Req) (w : List (Sub × HostCmd)) (p : Nat) :
    State.commandsOf { s with reqs := r, allocWait := w } p =
      (r.filter (fun kv => kv.2.part == p && kv.2.phase != Phase.ending)).map (fun kv => Victim.req kv.1) ++
        (w.filter (fun x => s.subPart x.1 == p)).map (fun x => Victim.alloc x.1 x.2) := by
  have hw : (s.sessions.filter (fun kv => kv.2.part == p)).flatMap
      (fun kv => kv.2.waiting.map (fun w => Victim.queued kv.1 w.1 w.2)) = [] := by
    rw [List.flatMap_eq_nil_iff]
    intro kv hk
    simp [h.waiting kv (List.mem_of_mem_filter hk)]
  have hl : (s.ctxs.filter (fun kv => kv.1.1 == p)).flatMap (fun kv => kv.2.asked.map (fun o => Victim.load p kv.1.2 o)
      ++ kv.2.held.map (fun w => Victim.held p kv.1.2 w.1 w.2)) = [] := by
    rw [List.flatMap_eq_nil_iff]
    intro kv hk
    simp [(h.loads kv (List.mem_of_mem_filter hk)).1, (h.loads kv (List.mem_of_mem_filter hk)).2]
  unfold State.commandsOf
  simp only [h.handoffs, h.parks, h.revives, h.movesOut, h.bondWait, h.scans, h.ckps, h.queue, hw, hl,
    List.filter_nil, List.map_nil, List.filterMap_nil, List.flatMap_nil, List.append_nil]
  rfl

/-- What one partition alone holds is found once among the partitions. -/
theorem flatMap_allParts {α : Type} {n : Nat} (h : n < 16) (x : α) : allParts.flatMap (fun p => if n = p then [x] else []) = [x] := by
  unfold allParts
  interval_cases n <;> rfl

/-- The victims of an error are those of the one command that its submission names. -/
theorem victimsOf_one {s : State} {n : Nat} {v : Victim} (hc : ∀ p, s.commandsOf p = if n = p then [v] else []) (hn : n < 16) :
    s.victimsOf (s.ownerOf v) = [v] := by
  unfold State.victimsOf
  rw [show (fun p => s.commandsOf p) = (fun p => if n = p then [v] else []) from funext hc, flatMap_allParts hn]
  simp

theorem victimsOf_alloc {s : State} (h : s.Idle) (u : Sub) (c : HostCmd) (hp : s.subPart u < 16) :
    State.victimsOf { s with allocWait := [(u, c)] } u.owner = [.alloc u c] := by
  refine victimsOf_one (s := { s with allocWait := [(u, c)] }) (n := s.subPart u) (v := .alloc u c) (fun p => ?_) hp
  refine (commandsOf_with h s.reqs [(u, c)] p).trans ?_
  by_cases e : s.subPart u = p <;> simp [h.reqs, e]

theorem victimsOf_req {s : State} (h : s.Idle) {slot : Nat} {q : Req} (hg : q.phase = .generating) (hp : q.part < 16) :
    State.victimsOf { s with reqs := [(slot, q)] } q.owner = [.req slot] := by
  have ho : State.ownerOf { s with reqs := [(slot, q)] } (.req slot) = q.owner := by simp [State.ownerOf, State.req, AMap.get?]
  rw [← ho]
  refine victimsOf_one (n := q.part) (fun p => ?_) hp
  refine (commandsOf_with h [(slot, q)] s.allocWait p).trans ?_
  by_cases e : q.part = p <;> simp [h.alloc, e, hg]

-- What an error of host memory leaves (R686) ------------------------------------------------------------------------------------------------------

theorem endWithout_gone {s : State} {slot : Nat} (h : s.req slot = none) : s.endWithout slot = s := by
  unfold State.endWithout
  rw [h]

theorem endWithouts_gone {s : State} {l : List Nat} (h : ∀ n ∈ l, s.req n = none) : l.foldl (fun (a : State) n => a.endWithout n) s = s := by
  induction l with
  | nil => rfl
  | cons n l ih =>
    rw [List.foldl_cons, endWithout_gone (h n (List.mem_cons_self ..))]
    exact ih (fun k hk => h k (List.mem_cons_of_mem _ hk))

/-- An error that names one command in progress ends it with CONFIG/host-memory, where no end of a queued request waits for room. -/
theorem doHostDmaError_one {s t : State} {f : Fn} {n tag : Nat} {v : Victim} (hd : s.doeUp f = true) (hv : s.victimsOf ⟨f, some n, tag⟩ = [v])
    (ht : (s.hifErr f Fld.HIF_ERR_DMA_ERR n).endVictim v .configHostMemory 0 = t) (hl : t.lateEnds = [])
    (hr : ∀ kv ∈ s.reqs, t.req kv.1 = none) : doHostDmaError f n tag s = t := by
  unfold doHostDmaError
  rw [if_neg (by simp [hd])]
  simp only [hv, List.foldl_cons, List.foldl_nil, ht, hl, List.filter_nil]
  rw [show ({ t with lateEnds := [] } : State) = t by rw [← hl]]
  refine endWithouts_gone (fun k hk => ?_)
  obtain ⟨kv, hkv, rfl⟩ := List.mem_map.1 hk
  exact hr kv (List.mem_of_mem_filter hkv)

/-- The error flag and the queue of an error of host memory stand in HIF_ERR (R696). -/
theorem hifErr_stands {s t : State} {f : Fn} {n : Nat} (hn : n < 64)
    (h : ∀ i j, t.reg ⟨.hifErr, i, j⟩ = (s.hifErr f Fld.HIF_ERR_DMA_ERR n).reg ⟨.hifErr, i, j⟩) :
    t.flag Fld.HIF_ERR_DMA_ERR f.index = true ∧ t.fld Fld.HIF_ERR_QUEUE f.index = n := by
  obtain ⟨h1, h2, -⟩ := hifErr_spec s f Fld.HIF_ERR_DMA_ERR n (.inr (.inr rfl)) hn
  have hfld : ∀ g : Field, g.cls = .hifErr → ∀ i, t.fld g i = (s.hifErr f Fld.HIF_ERR_DMA_ERR n).fld g i := fun g hg i => by
    unfold State.fld
    rw [hg, h]
  refine ⟨?_, (hfld _ rfl _).trans h2⟩
  unfold State.flag at h1 ⊢
  rw [hfld _ rfl, h1]

theorem State.Io.reg {s t : State} (h : s.Io t) (r : Reg) : t.reg r = s.reg r := by
  obtain ⟨_, _, _, _, _, _, rfl⟩ := h
  rfl

/-- R686: an error of host memory ends a command that waits for a frame. -/
theorem exec_hostDmaError_alloc {s : State} (h : s.Idle) {u : Sub} (c : HostCmd) {q : Nat} (hq : u.sq = some q) (hn : q < 64)
    (hd : s.doeUp u.fn = true) (hp : s.subPart u < 16) (ho : s.Open u.fn q) :
    ∃ t, exec (.hostDmaError u.fn q u.tag) { s with allocWait := [(u, c)] } = .next t ∧ t.flag Fld.HIF_ERR_DMA_ERR u.fn.index = true ∧
      t.fld Fld.HIF_ERR_QUEUE u.fn.index = q ∧ s.Posts t u .configHostMemory 0 0 ∧ t.allocWait = [] := by
  obtain ⟨w, hw⟩ : ∃ w : State, w = { (s.hifErr u.fn Fld.HIF_ERR_DMA_ERR q) with allocWait := [] } := ⟨_, rfl⟩
  have hend : (State.hifErr { s with allocWait := [(u, c)] } u.fn Fld.HIF_ERR_DMA_ERR q).endVictim (.alloc u c) .configHostMemory 0 =
      w.complete u .configHostMemory := by
    have hdrop : dropWait u c [(u, c)] = [] := by simp [dropWait]
    rw [hw]
    exact congrArg (fun l => State.complete { (s.hifErr u.fn Fld.HIF_ERR_DMA_ERR q) with allocWait := l } u .configHostMemory) hdrop
  have hposts : s.Posts (w.complete u .configHostMemory) u .configHostMemory 0 0 := by
    obtain ⟨k, a, m, g⟩ := posts_complete w u q .configHostMemory 0 0 hq (by rw [hw]; exact ho)
    exact ⟨k, a, m, State.Writes.after ⟨[], by rw [hw]; rfl⟩ g⟩
  have hio := io_complete w u .configHostMemory 0 0 (by rw [hq]; exact fun e => by cases e)
  generalize w.complete u .configHostMemory = t at hend hposts hio
  have hcalm : t.Calm := State.Calm.io (hw ▸ h.toCalm.of_eq rfl rfl rfl rfl rfl rfl rfl rfl) hio
  have hlate : t.lateEnds = [] := by
    obtain ⟨_, _, _, _, _, _, rfl⟩ := hio
    rw [hw]; exact h.late
  have halloc : t.allocWait = [] := by
    obtain ⟨_, _, _, _, _, _, rfl⟩ := hio
    rw [hw]
  have hv : State.victimsOf { s with allocWait := [(u, c)] } ⟨u.fn, some q, u.tag⟩ = [.alloc u c] := by
    rw [← hq]; exact victimsOf_alloc h u c hp
  have hdo := doHostDmaError_one (s := { s with allocWait := [(u, c)] }) hd hv hend hlate
    (fun kv hk => by rw [show State.reqs { s with allocWait := [(u, c)] } = [] from h.reqs] at hk; exact (List.not_mem_nil hk).elim)
  obtain ⟨hflag, hfld⟩ := hifErr_stands (s := s) (t := t) hn (fun i j => (hio.reg _).trans (by rw [hw]; rfl))
  exact ⟨_, next_always hdo hcalm, hflag, hfld, hposts, halloc⟩

/-- R686: an error of host memory ends a request that runs. -/
theorem exec_hostDmaError_req {s : State} (h : s.Idle) {slot n : Nat} {q : Req} (hq : q.sq = some n) (hn : n < 64) (hd : s.doeUp q.fn = true)
    (hp : q.part < 16) (ho : s.Open q.fn n) (hg : q.phase = .generating) (he : q.emit = none) :
    ∃ t, exec (.hostDmaError q.fn n q.tag) { s with reqs := [(slot, q)] } = .next t ∧
      t.flag Fld.HIF_ERR_DMA_ERR q.fn.index = true ∧ t.fld Fld.HIF_ERR_QUEUE q.fn.index = n ∧
      State.Ended { s with reqs := [(slot, q)] } t slot q .configHostMemory := by
  obtain ⟨z, hz⟩ : ∃ z : State, z = { s with reqs := [(slot, q)] } := ⟨_, rfl⟩
  obtain ⟨w, hw⟩ : ∃ w : State, w = z.hifErr q.fn Fld.HIF_ERR_DMA_ERR n := ⟨_, rfl⟩
  have hr : z.req slot = some q := by rw [hz]; simp [State.req, AMap.get?]
  have hrw : w.req slot = some q := by rw [hw]; exact hr
  have hh : w.handoffs.get? slot = none := by
    rw [hw, hz]
    show s.handoffs.get? slot = none
    rw [h.handoffs]; rfl
  have hcw : w.Calm := by rw [hw, hz]; exact h.toCalm.of_eq rfl rfl rfl rfl rfl rfl rfl rfl
  obtain ⟨hended, -⟩ := endReq_ended hcw hrw hq (by rw [hw, hz]; exact ho) hg he hh .configHostMemory
  obtain ⟨v, hpost, hwound⟩ := endReq_posts hrw hg he hh .configHostMemory 0
  have hio := io_post v (q.answer slot .configHostMemory 0) (by rw [Req.answer, hq]; exact fun e => by cases e)
  rw [← hpost] at hio
  obtain ⟨t, ht⟩ : ∃ t : State, t = w.endReq slot .configHostMemory 0 0 := ⟨_, rfl⟩
  rw [← ht] at hended hio
  have hendz : z.Ended t slot q .configHostMemory :=
    State.Ended.of (.refl z) (v := w) (r := w.regs) (q' := q) (by rw [AMap.set_get?_self hr, hw]; rfl) hended ⟨rfl, rfl, rfl, rfl, rfl⟩
  have hlate : t.lateEnds = [] := by
    obtain ⟨_, _, _, _, _, _, hf⟩ := hendz.frame
    have hf := congrArg State.lateEnds hf
    exact hf.trans (by rw [hz]; exact h.late)
  have hv : z.victimsOf ⟨q.fn, some n, q.tag⟩ = [.req slot] := by
    rw [← hq, hz]; exact victimsOf_req h hg hp
  have hdo := doHostDmaError_one (s := z) (t := t) (by rw [hz]; exact hd) hv (by rw [ht, hw]; rfl) hlate
    (fun kv hk => by rw [hz] at hk; rw [List.mem_singleton.1 hk]; exact hendz.gone)
  obtain ⟨hflag, hfld⟩ := hifErr_stands (s := z) (t := t) hn (fun i j => (hio.reg _).trans ((hwound.mute.err i j).trans (by rw [hw])))
  rw [← hz]
  exact ⟨_, next_always hdo ((hwound.calm hcw).io hio), hflag, hfld, hendz.kept⟩

/-- Settles O14: function resets, the reset pins and errors of host memory follow R671, R686 and R694. -/
theorem functionResets : Obligations.FunctionResets := by
  intro s h
  refine ⟨fun f hd => ?_, fun f slot q hd hf hp he => exec_functionReset_running h hd hf hp he,
    fun n hn hp hu => exec_perstAsserted_down h hn hp hu, fun n hn hp hu hpr => exec_perstAsserted_up h hn hp hu hpr,
    fun n hn hp => exec_perstReleased h hn hp, fun u c q hq hn hd hp ho => exec_hostDmaError_alloc h c hq hn hd hp ho,
    fun slot n q hq hn hd hp ho hg he => exec_hostDmaError_req h hq hn hd hp ho hg he⟩
  have hforget := forgets_resetFn h f
  refine ⟨_, exec_functionReset_idle h hd, fun q => ⟨(sq_resetFn h f f q).trans (if_pos rfl), (cq_resetFn h f f q).trans (if_pos rfl)⟩,
    ?_, fun r hr => ?_, fun p hp => fld_capture_resetFn h hp, fun r hr => hforget.regs r hr, fun g q hg => ⟨?_, ?_, ?_⟩,
    hforget.ses, ?_⟩
  · show (s.resetFn f).bounce.get? f.index = none
    rw [bounce_resetFn h]; exact AMap.get?_erase_same ..
  · have hcap : r.cls ≠ .attCapCtl := fun e => by rw [e] at hr; exact absurd hr (by decide)
    refine ⟨fun hi => (reg_resetFn h f hcap).trans (if_pos ⟨hr, hi⟩), fun hi => (reg_resetFn h f hcap).trans (if_neg (fun hc => hi hc.2))⟩
  · exact (sq_resetFn h f g q).trans (if_neg hg)
  · exact (cq_resetFn h f g q).trans (if_neg hg)
  · show (s.resetFn f).bounce.get? g.index = s.bounce.get? g.index
    rw [bounce_resetFn h]; exact AMap.get?_erase_other _ hg
  · have hfr := hforget.frame
    generalize s.resetFn f = t at hfr
    rw [hfr]
    rfl

end Sys2Proof.Machine
end

section
/-!
PROOFS. How a request ends (O40).
-/

namespace Sys2Proof.Machine

open Sys2Proof

-- A request's end, seen from before what led to it ----------------------------------------------------------------------------------------

/-- A request that ends after a frame of inputs and outputs has ended as well since before it. -/
theorem State.Ended.after_io {s s' t : State} {slot : Nat} {q : Req} {st : Status} (h : s.Io s') (g : s'.Ended t slot q st) :
    s.Ended t slot q st := by
  obtain ⟨k, a, m, report, hw⟩ := g.posted
  have hout := h.out
  obtain ⟨_, _, _, _, _, _, rfl⟩ := h
  exact ⟨⟨k, a, m, report, hw.after hout⟩, g.gone, g.state, g.last, g.log, g.others, State.Io.trans ⟨_, _, _, _, _, _, rfl⟩ g.frame⟩

/-- The end record of a request goes out where it fits, and the request ends (R322, R804). -/
theorem writeEnd_ended {s : State} {slot n : Nat} {q : Req} {h : HeldEnd} {e : Emit} (hq : q.sq = some n) (ho : s.Open q.fn n)
    (he : q.emit = some e) (hf : e.fits (recordBytes h.text) = true) (report : Nat) :
    s.Ended (s.writeEnd slot q h report) slot q h.status ∧
      s.Writes (s.writeEnd slot q h report) (.emit q.fn (e.ring.base + (if 2 ^ e.ring.log2 < e.head % 2 ^ e.ring.log2 + recordBytes h.text then 0
        else e.head % 2 ^ e.ring.log2)) ⟨e.seq, 1, h.flags, h.text.length, q.committed, h.status.toNat * 65536 + h.trimmed % 65536, h.text⟩) ∧
      ((s.ses slot).waiting = [] → ((s.writeEnd slot q h report).ses slot).waiting = []) ∧
      ∃ x, (s.writeEnd slot q h report).sessions = s.sessions.set slot x := by
  unfold State.writeEnd
  rw [he]
  dsimp only
  rw [if_pos hf]
  obtain ⟨hio, hw, hopen⟩ := emitRecord_spec s q e 1 h.flags q.committed (h.status.toNat * 65536 + h.trimmed % 65536) h.text
  generalize s.emitRecord q e 1 h.flags q.committed (h.status.toNat * 65536 + h.trimmed % 65536) h.text = r at hio hw hopen
  obtain ⟨hend, hwait, hses⟩ := finishReq_ended (s := r.2) (slot := slot) (q := { q with emit := some r.1 }) hq (hopen _ _ ho) h.status report
  have hkeep : r.2.sessions = s.sessions := by obtain ⟨_, _, _, _, _, _, e⟩ := hio; rw [e]
  have hsame : r.2.ses slot = s.ses slot := by unfold State.ses; rw [hkeep]
  rw [hsame] at hwait
  rw [hkeep] at hses
  have hend' : r.2.Ended (r.2.finishReq slot { q with emit := some r.1 } h.status report) slot q h.status :=
    ⟨hend.posted, hend.gone, hend.state, hend.last, hend.log, hend.others, hend.frame⟩
  refine ⟨hend'.after_io hio, hw.mono ?_, hwait, hses⟩
  obtain ⟨_, _, _, _, _, _, hfr⟩ := hend.frame
  exact ⟨_, congrArg State.out hfr⟩

-- The three ways to end (R320, R355, R804) -------------------------------------------------------------------------------------------------

section

variable {s : State} {slot n : Nat} {q : Req} (hc : s.Calm) (hr : s.req slot = some q) (hq : q.sq = some n) (ho : s.Open q.fn n)
include hc hr hq ho

/-- R355: a budget that runs out ends the request with its status. -/
theorem exec_deadlineFail {b : Nat} (ha : s.awake = true) (hb : b ≤ 2) (hrun : (q.budget b).running = true) (hp : q.phase = .generating)
    (he : q.emit = none) (hh : s.handoffs.get? slot = none) :
    ∃ t, exec (.deadlineFail slot b) s = .next t ∧ s.Ended t slot q (deadlineStatus b) := by
  obtain ⟨hend, x, hx, hw⟩ := endReq_ended hc hr hq ho hp he hh (deadlineStatus b)
  have hdo : doDeadlineFail slot b s = s.endReq slot (deadlineStatus b) := by
    unfold doDeadlineFail
    simp [hr, hrun, hp, hb]
  exact ⟨_, next_event ha hdo (hend.frame.calm hc hw hx), hend.kept⟩

/-- R804: an end record that fits goes out, and the request ends. -/
theorem exec_endRecordPoll_fits {tail : Nat} {h : HeldEnd} {e : Emit} (ha : s.awake = true) (hh : q.heldEnd = some h) (he : q.emit = some e)
    (hf : { e with tail := tail }.fits (recordBytes h.text) = true) :
    ∃ t, exec (.endRecordPoll slot tail) s = .next t ∧ s.Ended t slot q h.status ∧
      s.Writes t (.emit q.fn (e.ring.base + (if 2 ^ e.ring.log2 < e.head % 2 ^ e.ring.log2 + recordBytes h.text then 0 else
        e.head % 2 ^ e.ring.log2)) ⟨e.seq, 1, h.flags, h.text.length, q.committed, h.status.toNat * 65536 + h.trimmed % 65536, h.text⟩) := by
  obtain ⟨q', hq'⟩ : ∃ q' : Req, q' = { q with emit := some { e with tail := tail } } := ⟨_, rfl⟩
  obtain ⟨v, hv⟩ : ∃ v : State, v = s.setReq slot { q' with heldEnd := none } := ⟨_, rfl⟩
  obtain ⟨hend, hw, hwait, x, hx⟩ := writeEnd_ended (s := v) (slot := slot) (q := q') (h := h) (by rw [hq']; exact hq)
    (by rw [hv, hq']; exact ho) (by rw [hq']) hf q.report
  have hdo : doEndRecordPoll slot tail s = v.writeEnd slot q' h q.report := by
    unfold doEndRecordPoll
    rw [hr]
    dsimp only
    rw [hh, he]
    dsimp only
    rw [if_pos hf, hv, hq']
    rfl
  have hends : s.Ended (v.writeEnd slot q' h q.report) slot q h.status :=
    State.Ended.of (.refl s) (r := s.regs) hv hend (by rw [hq']; exact ⟨rfl, rfl, rfl, rfl, rfl⟩)
  have hwaits : (v.ses slot).waiting = [] := by rw [hv]; exact ses_waiting hc slot
  have hxw : x.waiting = [] := by rw [← (ses_set hx).1]; exact hwait hwaits
  have hx' : (v.writeEnd slot q' h q.report).sessions = s.sessions.set slot x := hx.trans (by rw [hv]; rfl)
  refine ⟨_, next_event ha hdo (hends.frame.calm hc hxw hx'), hends.kept, ?_⟩
  obtain ⟨l, hl, hm⟩ := hw
  refine ⟨l, hl.trans (by rw [hv]; rfl), ?_⟩
  rw [hq'] at hm
  exact hm

/-- R320: a cancel ends the request that runs, and completes itself. -/
theorem exec_reqCancel {u : Sub} (hu : s.Takes u (.reqCancel q.tag)) (hs : u.slot = slot) (hf : u.fn = q.fn) (hp : q.phase = .generating)
    (he : q.emit = none) (hh : s.handoffs.get? slot = none) :
    ∃ t, exec (.reqCancel u q.tag) s = .next t ∧ s.Ended t slot q .cancelled := by
  obtain ⟨s', hF, hn⟩ := next_host hu rfl rfl
  obtain ⟨v, hv⟩ : ∃ v : State, v = s'.bump Fld.SMP_GATE_CANCELS_COUNT q.part := ⟨_, rfl⟩
  have hio := hF.1
  have hr' : s'.req slot = some q := by obtain ⟨_, _, _, _, _, _, rfl⟩ := hio; exact hr
  have hvr : v.req slot = some q := by rw [hv]; exact hr'
  have hvh : v.handoffs.get? slot = none := by rw [hv]; obtain ⟨_, _, _, _, _, _, rfl⟩ := hio; exact hh
  have hvc : v.Calm := by rw [hv]; exact (hF.calm hc).of_eq rfl rfl rfl rfl rfl rfl rfl rfl
  have hvo : v.Open q.fn n := by rw [hv]; exact hF.opens ho
  obtain ⟨hend, x, hx, hw⟩ := endReq_ended hvc hvr hq hvo hp he hvh .cancelled
  have hdo : s'.startHost u (.reqCancel q.tag) = (v.endReq slot .cancelled).complete u .ok := by
    show doReqCancel u q.tag s' = _
    unfold doReqCancel
    simp [hs, hr', hf, hp, hv]
  have hpost := io_complete (v.endReq slot .cancelled) u .ok 0 0 hF.sq
  have hends : s.Ended ((v.endReq slot .cancelled).complete u .ok) slot q .cancelled := by
    refine State.Ended.after_io hio (State.Ended.of (.refl s') (v := v) (r := v.regs) (q' := q) ?_ (hend.io hpost) ⟨rfl, rfl, rfl, rfl, rfl⟩)
    rw [AMap.set_get?_self hr', hv]
    rfl
  exact ⟨_, hn _ hdo ((hend.frame.calm hvc hw hx).io hpost), hends.kept⟩

end

/-- R804: while the end record does not fit, only TAIL changes. -/
theorem exec_endRecordPoll_waits {s : State} {slot tail : Nat} {q : Req} {h : HeldEnd} {e : Emit} (hc : s.Calm) (hr : s.req slot = some q)
    (ha : s.awake = true) (hh : q.heldEnd = some h) (he : q.emit = some e) (hf : { e with tail := tail }.fits (recordBytes h.text) = false) :
    exec (.endRecordPoll slot tail) s = .next { s with reqs := s.reqs.set slot { q with emit := some { e with tail := tail } } } := by
  have hdo : doEndRecordPoll slot tail s = s.setReq slot { q with emit := some { e with tail := tail } } := by
    unfold doEndRecordPoll
    rw [hr]
    dsimp only
    rw [hh, he]
    dsimp only
    rw [if_neg (by simp [hf])]
  exact next_event ha hdo (hc.of_eq rfl rfl rfl rfl rfl rfl rfl rfl)

/-- Settles O40: a request ends by R320, R355 or R804, and until its end record fits only TAIL changes. -/
theorem requestEnds : Obligations.RequestEnds := by
  intro s slot n q hc hr hq ho
  exact ⟨fun b ha hb hrun hp he hh => exec_deadlineFail hc hr hq ho ha hb hrun hp he hh,
    fun tail h e ha hh he hf => exec_endRecordPoll_fits hc hr hq ho ha hh he hf,
    fun tail h e ha hh he hf => exec_endRecordPoll_waits hc hr ha hh he hf,
    fun u hu hs hf hp he hh => exec_reqCancel hc hr hq ho hu hs hf hp he hh⟩

end Sys2Proof.Machine
end

section
/-!
PROOFS. The commands of a session's life (O33).
-/

namespace Sys2Proof.Machine

open Sys2Proof

-- Query and host data (R72, R801) ------------------------------------------------------------------------------------------------------------

/-- A fetch leaves what the record of a slot tells. -/
theorem State.Io.record {s t : State} (h : s.Io t) (slot : Nat) :
    t.recordWords slot = s.recordWords slot ∧ t.statusWord slot = s.statusWord slot := by
  obtain ⟨_, _, _, _, _, _, rfl⟩ := h
  exact ⟨rfl, rfl⟩

/-- R72: the record is written and its STATUS word answered; nothing else changes. -/
theorem exec_sesQuery {s : State} {u : Sub} (hc : s.Calm) (h : s.Takes u .sesQuery) :
    ∃ t, exec (.sesQuery u) s = .next t ∧ s.Posts t u .ok (s.statusWord u.slot) 0 ∧ s.Io t ∧
      s.Writes t (.data u.fn (.record (s.recordWords u.slot))) := by
  obtain ⟨s', t, hx, hp, hs, ht⟩ := host_acts (st := .ok) (r := s.statusWord u.slot) (n := 0)
    (fun w => w.buf u.fn (.record (s.recordWords u.slot))) h rfl rfl (fun s' hio => by
      obtain ⟨hrec, hst⟩ := hio.record u.slot
      have hb := io_buf s' u.fn (.record (s.recordWords u.slot))
      obtain ⟨b, hseal⟩ := sealed_frame (s'.put (.data u.fn (.record (s.recordWords u.slot)))) u.fn
      refine ⟨?_, by unfold State.buf; rw [hseal]; rfl, by unfold State.buf; rw [hseal]; rfl, hb.out, hc.io (hio.trans hb)⟩
      show doSesQuery u s' = _
      unfold doSesQuery
      dsimp only
      rw [hrec, hst])
  have hb := io_buf s' u.fn (.record (s.recordWords u.slot))
  exact ⟨_, hx, hp, (hs.trans (hb.trans ht)).kept, State.Writes.after hs.out ((writes_buf ..).mono ht.out)⟩

/-- What the bond of SES_SET_HOST_DATA writes (R801). -/
theorem hostData_frame {s : State} {slot : Nat} {x : Session} (hx : s.ses slot = x) (d : BitVec 128) : ∃ n r m l,
    (s.bondOnce (s.ses slot).part).modSes slot (fun y => { y with hostData := d }) =
      { s with nextSeq := n, regs := r, pmc := m, out := l ++ s.out, sessions := s.sessions.set slot { x with hostData := d } } := by
  obtain ⟨n, r, m, l, hb⟩ := bnd_bondOnce s (s.ses slot).part
  have hbx : (s.bondOnce (s.ses slot).part).ses slot = x := by rw [hb]; exact hx
  exact ⟨n, r, m, l, by rw [modSes_eq hbx, hb]⟩

theorem doSesSetHostData_writes {s : State} {u : Sub} (d : BitVec 128) (hm : (s.ses u.slot).state ≠ .moving) (hcl : s.claimed u.slot = false)
    (hr : s.bondRoom (s.ses u.slot).part = true) :
    doSesSetHostData u d s = ((s.bondOnce (s.ses u.slot).part).modSes u.slot (fun y => { y with hostData := d })).complete u .ok := by
  unfold doSesSetHostData
  simp [hm, hcl, hr]

/-- R801: HOST_DATA is written in one bond. -/
theorem exec_sesSetHostData {s : State} {u : Sub} (hc : s.Calm) (d : BitVec 128) (h : s.Takes u (.sesSetHostData d))
    (hm : (s.ses u.slot).state ≠ .moving) (hcl : s.claimed u.slot = false) (hr : s.bondRoom (s.ses u.slot).part = true) :
    ∃ t, exec (.sesSetHostData u d) s = .next t ∧ s.Posts t u .ok 0 0 ∧
      t.sessions = s.sessions.set u.slot { s.ses u.slot with hostData := d } ∧
      s.Io { t with sessions := s.sessions, nextSeq := s.nextSeq, regs := s.regs } := by
  obtain ⟨s', t, hx, hp, hs, ht⟩ := host_acts (st := .ok) (r := 0) (n := 0)
    (fun w => (w.bondOnce (w.ses u.slot).part).modSes u.slot (fun y => { y with hostData := d })) h rfl rfl (fun s' hio => by
      obtain ⟨n, r, m, l, hv⟩ := hostData_frame (s := s') (slot := u.slot) rfl d
      obtain ⟨_, _, _, _, _, _, rfl⟩ := hio
      refine ⟨doSesSetHostData_writes d hm hcl hr, ?_⟩
      dsimp only
      rw [hv]
      exact ⟨rfl, rfl, ⟨l, rfl⟩, calm_sessions hc (x := { s.ses u.slot with hostData := d }) (ses_waiting hc u.slot) rfl rfl rfl rfl rfl rfl rfl rfl⟩)
  obtain ⟨n, r, m, l, hv⟩ := hostData_frame (s := s') (slot := u.slot) rfl d
  rw [hv] at ht
  obtain ⟨l1, _, _, _, _, _, rfl⟩ := hs
  obtain ⟨l2, _, _, _, _, _, rfl⟩ := ht
  exact ⟨_, hx, hp, rfl, l2 ++ (l ++ l1), _, _, _, _, _, by simp only [List.append_assoc]; rfl⟩

-- Close (R59, R61) ---------------------------------------------------------------------------------------------------------------------------

/-- A command of which one at a time is in progress on its session, with its effect as a function of the state after its fetch. -/
theorem quiet_acts {s : State} {u : Sub} {c : HostCmd} {st : Status} {r n : Nat} (F : State → State) (ht : s.Takes u c)
    (hf : c.writesFlash = false) (hq : s.Quiet u.slot)
    (h : ∀ s', s.Io s' → s'.startHost u c = (F s').complete u st r n ∧ (F s').sqs = s'.sqs ∧ (F s').cqs = s'.cqs ∧ (∃ l, (F s').out = l ++ s'.out) ∧
      (F s').Calm) :
    ∃ s' t, (Host.Outcome.next (s.always (fun x => x.arrive u c)) : Host.Outcome State Fault Refusal) = .next (s.kept t) ∧
      s.Posts (s.kept t) u st r n ∧ s.Io s' ∧ (F s').Io t := by
  obtain ⟨v, t, e, hp, ⟨s', hio, rfl⟩, ht⟩ := quiet_done (P := fun v => ∃ s', s.Io s' ∧ v = F s') ht hf hq
    (fun s' _ hio => by obtain ⟨h1, h2, h3, h4, h5⟩ := h s' hio; exact ⟨_, h1, h2, h3, h4, h5, s', hio, rfl⟩)
  exact ⟨s', t, e, hp, hio, ht⟩

/-- What SES_CLOSE leaves of a session (R61). -/
def Session.closed (x : Session) (freed : Nat) : Session :=
  { Session.free with gen := if 65535 ≤ x.gen then x.gen else x.gen + 1, retired := decide (65535 ≤ x.gen), part := x.part,
                      waiting := x.waiting, freeSeq := freed + 1 }

/-- A closed session's bond, release and mirror record (R61, R452). -/
def State.closeSes (s : State) (slot : Nat) : State :=
  let s1 := (s.bondOnce (s.ses slot).part).releaseSes (s.nextBond (s.ses slot).part) slot
  if (s.ses slot).inQuarry then s1.mirrorSes slot else s1

/-- `t` is `s` but for what closing sessions changes: the directory, counts, frames, the quarry, bonds, the mirror, outputs. -/
def State.Closes (s t : State) : Prop :=
  ∃ se fr mi b q a tf mf p r n f m l, t =
    { s with sessions := se, freed := fr, mirror := mi, bonds := b, qry := q, tiles := a, tileFrames := tf, mortarFrames := mf,
             prefixes := p, regs := r, nextSeq := n, freeCtr := f, pmc := m, out := l ++ s.out }

/-- A close frees the session and sends its mortar and log frames to ZEROING (R61). -/
theorem closeSes_frame {s : State} {slot : Nat} {x : Session} (hx : s.ses slot = x) : s.Closes (s.closeSes slot) ∧
    (s.closeSes slot).sessions = s.sessions.set slot (x.closed s.freed) ∧
    ∀ n ∈ x.mortar.root :: x.mortar.pageFrames ++ x.logFrames, (s.closeSes slot).Zeroed n := by
  obtain ⟨n, r, m, l, hb⟩ := bnd_bondOnce s x.part
  obtain ⟨v, hv, hrel, hz⟩ := releaseSes_frame (s.bondOnce x.part) (s.nextBond x.part) slot
  have hwx : (s.bondOnce x.part).ses slot = x := by rw [hb]; exact hx
  rw [hwx] at hrel hz
  obtain ⟨b, q, a, tf, mf, p, r', f, hv⟩ := hv
  rw [hb] at hv hrel
  have hfin : ∃ mi, s.closeSes slot = { v with sessions := s.sessions.set slot (x.closed s.freed), freed := s.freed + 1, mirror := mi } := by
    unfold State.closeSes
    rw [hx, hb, hrel]
    dsimp only
    split
    · exact ⟨_, rfl⟩
    · exact ⟨_, rfl⟩
  obtain ⟨mi, hfin⟩ := hfin
  rw [hfin]
  refine ⟨?_, rfl, hz⟩
  rw [hv]
  exact ⟨_, _, _, _, _, _, _, _, _, _, _, _, _, l, rfl⟩

/-- The states from which SES_CLOSE closes a session (R59). -/
def SesState.closes (x : SesState) : Prop := x = .opened ∨ x = .waiting ∨ x = .parked ∨ x = .failed

theorem doSesClose_closes {s : State} {u : Sub} (h : (s.ses u.slot).state.closes) : doSesClose u s = (s.closeSes u.slot).complete u .ok := by
  unfold doSesClose
  dsimp only
  exact if_pos h

theorem doSesClose_wrongState {s : State} {u : Sub} (h : ¬ (s.ses u.slot).state.closes) : doSesClose u s = s.complete u .configWrongState := by
  unfold doSesClose
  dsimp only
  exact if_neg h

/-- R59, R61: an OPEN, WAITING, PARKED or FAILED session is closed. -/
theorem exec_sesClose {s : State} {u : Sub} {x : Session} (hc : s.Calm) (h : s.Takes u .sesClose) (hq : s.Quiet u.slot) (hx : s.ses u.slot = x)
    (hst : x.state.closes) :
    ∃ t, exec (.sesClose u) s = .next t ∧ s.Posts t u .ok 0 0 ∧ t.sessions = s.sessions.set u.slot (x.closed s.freed) ∧
      (∀ n ∈ x.mortar.root :: x.mortar.pageFrames ++ x.logFrames, t.Zeroed n) ∧
      t = { s with sessions := t.sessions, freed := t.freed, mirror := t.mirror, bonds := t.bonds, qry := t.qry, tiles := t.tiles,
                   tileFrames := t.tileFrames, mortarFrames := t.mortarFrames, prefixes := t.prefixes, regs := t.regs, nextSeq := t.nextSeq,
                   freeCtr := t.freeCtr, out := t.out, pmc := t.pmc, sqs := t.sqs, cqs := t.cqs, bounce := t.bounce, arrived := t.arrived } := by
  obtain ⟨s', t, hex, hp, hs, ht⟩ := quiet_acts (st := .ok) (r := 0) (n := 0) (fun w => w.closeSes u.slot) h rfl hq (fun s' hio => by
    have hx' : s'.ses u.slot = x := by obtain ⟨_, _, _, _, _, _, rfl⟩ := hio; exact hx
    obtain ⟨⟨_, _, _, _, _, _, _, _, _, _, _, _, _, l, hfr⟩, hses, -⟩ := closeSes_frame hx'
    have hcs := hc.io hio
    have hw : (x.closed s'.freed).waiting = [] := by rw [← hx']; exact ses_waiting hcs u.slot
    refine ⟨doSesClose_closes (by rw [hx']; exact hst), ?_⟩
    rw [hfr] at hses ⊢
    exact ⟨rfl, rfl, ⟨l, rfl⟩, calm_sessions hcs hw hses rfl rfl rfl rfl rfl rfl rfl⟩)
  have hx' : s'.ses u.slot = x := by obtain ⟨_, _, _, _, _, _, rfl⟩ := hs; exact hx
  obtain ⟨⟨_, _, _, _, _, _, _, _, _, _, _, _, _, l, hfr⟩, hses, hz⟩ := closeSes_frame hx'
  rw [hfr] at hses hz ht
  obtain ⟨_, _, _, _, _, _, rfl⟩ := hs
  obtain ⟨_, _, _, _, _, _, rfl⟩ := ht
  exact ⟨_, hex, hp, hses, hz, rfl⟩

/-- R59: a session in another state is not closed. -/
theorem exec_sesClose_wrongState {s : State} {u : Sub} (hc : s.Calm) (h : s.Takes u .sesClose) (hq : s.Quiet u.slot)
    (hst : ¬ (s.ses u.slot).state.closes) :
    ∃ t, exec (.sesClose u) s = .next t ∧ s.Posts t u .configWrongState 0 0 ∧ s.Io t := by
  obtain ⟨s', t, hex, hp, hs, ht⟩ := quiet_acts (st := .configWrongState) (r := 0) (n := 0) id h rfl hq (fun s' hio => by
    have hx' : s'.ses u.slot = s.ses u.slot := by obtain ⟨_, _, _, _, _, _, rfl⟩ := hio; rfl
    exact ⟨doSesClose_wrongState (by rw [hx']; exact hst), rfl, rfl, ⟨[], rfl⟩, hc.io hio⟩)
  exact ⟨_, hex, hp, (hs.trans ht).kept⟩

-- Create (R57, R109, R803) ----------------------------------------------------------------------------------------------------------------------

section

variable (s : State) (l : List Out) (m : AMap Reg Word64) (a : AMap (Nat × Nat) Sq) (b : AMap (Nat × Nat) Cq) (d : AMap Nat Bounce) (e : List Owner)

theorem addRef_io (n : Nat) : (s.io l m a b d e).addRef n = (s.addRef n).io l m a b d e := by
  unfold State.addRef
  show (match s.tileFrames.get? n with | none => _ | some f => _) = _
  cases s.tileFrames.get? n with
  | none => rfl
  | some f => dsimp only; split <;> rfl

/-- Taking a prefix's entries does not look at what a fetch changes. -/
theorem takeEntries_io (p slot : Nat) (es : List (Nat × MEntry)) : ∀ (s : State) (mm : AMap Nat MEntry),
    (s.io l m a b d e).takeEntries p slot es mm = (s.takeEntries p slot es mm).map (fun x => (x.1, x.2.io l m a b d e)) := by
  induction es with
  | nil => intro s mm; rfl
  | cons kv r ih =>
    intro s mm
    obtain ⟨k, x⟩ := kv
    unfold State.takeEntries
    have hp : (s.io l m a b d e).pinned x.frame = s.pinned x.frame := rfl
    rw [hp, allocTile_io, addRef_io]
    split
    · cases s.allocTile p ⟨p, .priv, 0, slot, []⟩ with
      | none => rfl
      | some y =>
        dsimp only [Option.map]
        have ht : (y.2.io l m a b d e).tiles = y.2.tiles := rfl
        rw [ht]
        cases y.2.tiles.get? (.frame x.frame) with
        | none => exact ih (y.2.bump Fld.MOR_SHARE_COPIES_COPIES p) _
        | some t =>
          dsimp only
          rw [copyTile_io]
          exact ih ((y.2.copyTile (.frame x.frame) (.frame y.1) { t with shared := false, prefixId := 0xFFFF }).bump Fld.MOR_SHARE_COPIES_COPIES p) _
    · exact ih _ _

/-- Building a session does not look at what a fetch changes. -/
theorem buildSes_io (p slot : Nat) (c : SesCreateArgs) :
    (s.io l m a b d e).buildSes p slot c = (s.buildSes p slot c).map (fun v => v.io l m a b d e) := by
  unfold State.buildSes
  have hp : (s.io l m a b d e).pfxOf p c.pfx = s.pfxOf p c.pfx := rfl
  have hx : (s.io l m a b d e).ctx p c.main = s.ctx p c.main := rfl
  have hg : (s.io l m a b d e).ses slot = s.ses slot := rfl
  rw [allocMor_io, hp, hx, hg]
  cases s.allocMor p ⟨p, .priv, 0, slot, []⟩ with
  | none => rfl
  | some r0 =>
    dsimp only [Option.map]
    cases s.pfxOf p c.pfx with
    | none => rfl
    | some r =>
      dsimp only
      rw [growMortar_io]
      cases r0.2.growMortar p slot _ _ with
      | none => rfl
      | some r1 =>
        dsimp only [Option.map]
        rw [takeEntries_io]
        cases r1.2.takeEntries p slot _ _ with
        | none => rfl
        | some r2 =>
          dsimp only [Option.map]
          rw [allocMors_io]
          cases r2.2.allocMors p _ _ <;> rfl

end

/-- What taking a prefix's entries changes. -/
theorem fw_takeEntries {p slot : Nat} (es : List (Nat × MEntry)) : ∀ {s t : State} {mm m' : AMap Nat MEntry},
    s.takeEntries p slot es mm = some (m', t) → s.Fw t := by
  induction es with
  | nil => intro s t mm m' h; cases h; exact (State.Fr.refl _).fw
  | cons kv r ih =>
    intro s t mm m' h
    obtain ⟨k, x⟩ := kv
    unfold State.takeEntries at h
    split at h
    · split at h
      · cases h
      · next n s1 h1 =>
        dsimp only at h
        refine (fr_allocTile h1).1.fw.trans ?_
        split at h
        · exact (fw_copyTile ..).trans ((fr_bump ..).fw.trans (ih h))
        · exact (fr_bump ..).fw.trans (ih h)
    · exact (fr_addRef ..).fw.trans (ih h)

/-- The session that a create makes before a prefix fills it (R57, R803). -/
def State.newSes (s : State) (p slot : Nat) (a : SesCreateArgs) (root : Nat) : Session :=
  { Session.free with
    gen := (s.ses slot).gen, state := .opened, part := p, mortar := Mortar.empty root, pfx := a.pfx, comp := a.comp, main := a.main,
    fallback := match s.ctx p a.main with | some c => c.img.fallback | none => 0x3F, hints := a.hints, hostData := a.hostData }

/-- Without a prefix the session has an empty mortar. -/
theorem buildSes_plain {s w : State} {p slot root : Nat} {a : SesCreateArgs} (hp : s.pfxOf p a.pfx = none)
    (hw : s.allocMor p ⟨p, .priv, 0, slot, []⟩ = some (root, w)) : s.buildSes p slot a = some (w.setSes slot (s.newSes p slot a root)) := by
  unfold State.buildSes
  rw [hw, hp]
  rfl

/-- With a prefix the session stands over its positions and its log, and the prefix counts it (R109). -/
theorem buildSes_prefix {s v : State} {p slot : Nat} {a : SesCreateArgs} {r : Prefix} (hp : s.pfxOf p a.pfx = some r)
    (hv : s.buildSes p slot a = some v) : ∃ w root mo lf, s.Fw w ∧
      v = { w with prefixes := s.prefixes.set (p, a.pfx) { r with users := r.users + 1 },
                   sessions := s.sessions.set slot { s.newSes p slot a root with
                     mortar := mo, pfxTiles := r.full, pfxSeq := r.seq, nextPos := r.tokens, log := r.log, logFrames := lf } } := by
  unfold State.buildSes at hv
  split at hv
  · cases hv
  · next root s1 h1 =>
    rw [hp] at hv
    dsimp only at hv
    split at hv
    · cases hv
    · next mo s2 h2 =>
      split at hv
      · cases hv
      · next es s3 h3 =>
        split at hv
        · cases hv
        · next lf s4 h4 =>
          have hw : s.Fw s4 := (fr_allocMor h1).1.fw.trans ((fr_growMortar h2).fw.trans ((fw_takeEntries _ h3).trans (fr_allocMors h4).fw))
          refine ⟨s4, root, { mo with entries := es }, lf, hw, ?_⟩
          cases hv
          have hpre : s4.prefixes = s.prefixes := by obtain ⟨_, _, _, _, _, _, rfl⟩ := hw; rfl
          have hses : s4.sessions = s.sessions := by obtain ⟨_, _, _, _, _, _, rfl⟩ := hw; rfl
          rw [← hpre, ← hses]
          rfl

/-- A create that no check refuses, with room for its frames and its bond, builds its session (R803). -/
theorem doSesCreate_builds {s v : State} {u : Sub} {a : SesCreateArgs} {p slot : Nat} (hp : s.subPart u = p) (hck : s.checkCreate u a = none)
    (hroom : s.room p (s.createNeeds p a).1 (s.createNeeds p a).2 = .fits) (hb : s.bondRoom p = true) (hn : s.newSlot p = some slot)
    (hv : State.buildSes { s with freeCtr := s.freeCtr + 1 } p slot a = some v) :
    doSesCreate u a s = ((v.bondOnce p).touch slot).complete u .ok (v.handleOf slot).toNat := by
  unfold doSesCreate
  dsimp only
  rw [hp, hck]
  dsimp only
  rw [hroom]
  dsimp only
  rw [hb, hn]
  dsimp only
  rw [hv]
  rfl

/-- The bond of a create, and LAST_USE of its session (R70). -/
theorem created_frame {v : State} {slot : Nat} {x : Session} (hx : v.ses slot = x) (p : Nat) : ∃ n r m l g c,
    (v.bondOnce p).touch slot = { v with nextSeq := n, regs := r, pmc := m, out := l ++ v.out, aon := g, freeCtr := c,
                                         sessions := v.sessions.set slot { x with lastUse := g } } := by
  obtain ⟨n, r, m, l, hb⟩ := bnd_bondOnce v p
  have hbx : (v.bondOnce p).ses slot = x := by rw [hb]; exact hx
  obtain ⟨g, c, ht⟩ := setSes_set_touch (v.bondOnce p) slot x hbx
  exact ⟨n, r, m, l, g, c, by rw [ht, hb]⟩

/-- `v` is `s` but for what building a session changes: the session, prefixes, frames, tiles, registers and free values. -/
def State.Builds (s v : State) (slot : Nat) (x : Session) : Prop :=
  ∃ pre tf mf ti r f l, v = { s with sessions := s.sessions.set slot x, prefixes := pre, tileFrames := tf, mortarFrames := mf, tiles := ti,
                                     regs := r, freeCtr := f, selfRefresh := l }

/-- R57, R803: what a create leaves, by the state that building its session leaves. -/
theorem exec_sesCreate {s v : State} {u : Sub} {a : SesCreateArgs} {p slot : Nat} {x : Session} (hc : s.Calm) (h : s.Takes u (.sesCreate a))
    (hp : s.subPart u = p) (hck : s.checkCreate u a = none) (hroom : s.room p (s.createNeeds p a).1 (s.createNeeds p a).2 = .fits)
    (hb : s.bondRoom p = true) (hn : s.newSlot p = some slot) (hv : State.buildSes { s with freeCtr := s.freeCtr + 1 } p slot a = some v)
    (hbuilt : s.Builds v slot x) (hx : x.waiting = []) :
    ∃ t, exec (.sesCreate u a) s = .next t ∧ s.Posts t u .ok (mkHandle x.part slot x.gen).toNat 0 ∧
      t.sessions = s.sessions.set slot { x with lastUse := t.aon } ∧
      ∃ n r g c, v.Io { t with sessions := v.sessions, nextSeq := n, regs := r, aon := g, freeCtr := c } := by
  obtain ⟨pre, tf, mf, ti, r0, f, sr, rfl⟩ := hbuilt
  have hses (w : State) (hw : w.sessions = s.sessions.set slot x) : w.ses slot = x := (ses_set hw).1
  obtain ⟨w, t, hex, hpost, hio, ht⟩ := host_acts (st := .ok) (r := (mkHandle x.part slot x.gen).toNat) (n := 0)
    (fun w => (State.bondOnce { w with sessions := s.sessions.set slot x, prefixes := pre, tileFrames := tf, mortarFrames := mf, tiles := ti,
                                       regs := r0, freeCtr := f, selfRefresh := sr } p).touch slot) h rfl rfl (fun w hio => by
      obtain ⟨l0, pm, sq, cq, bo, ar, rfl⟩ := hio
      obtain ⟨n, r, m, l, g, c, hfr⟩ := created_frame (hses { s with
        out := l0 ++ s.out, pmc := pm, sqs := sq, cqs := cq, bounce := bo, arrived := ar, sessions := s.sessions.set slot x, prefixes := pre,
        tileFrames := tf, mortarFrames := mf, tiles := ti, regs := r0, freeCtr := f, selfRefresh := sr } rfl) p
      have hbuild := buildSes_io { s with freeCtr := s.freeCtr + 1 } (l0 ++ s.out) pm sq cq bo ar p slot a
      rw [hv, Option.map_some] at hbuild
      refine ⟨(doSesCreate_builds (s := s.io (l0 ++ s.out) pm sq cq bo ar) hp hck hroom hb hn hbuild).trans ?_, ?_⟩
      · rw [State.handleOf, hses _ rfl]
        rfl
      · rw [hfr]
        exact ⟨rfl, rfl, ⟨l, rfl⟩, calm_sessions hc (x := { x with lastUse := g }) hx (AMap.set_set ..) rfl rfl rfl rfl rfl rfl rfl⟩)
  obtain ⟨l0, pm, sq, cq, bo, ar, rfl⟩ := hio
  obtain ⟨n, r, m, l, g, c, hfr⟩ := created_frame (hses { s with
    out := l0 ++ s.out, pmc := pm, sqs := sq, cqs := cq, bounce := bo, arrived := ar, sessions := s.sessions.set slot x, prefixes := pre,
    tileFrames := tf, mortarFrames := mf, tiles := ti, regs := r0, freeCtr := f, selfRefresh := sr } rfl) p
  rw [hfr] at ht
  obtain ⟨l1, pm', sq', cq', bo', ar', rfl⟩ := ht
  refine ⟨_, hex, hpost, AMap.set_set .., s.nextSeq, r0, s.aon, f, l1 ++ (l ++ l0), pm', sq', cq', bo', ar', ?_⟩
  simp only [List.append_assoc]
  rfl

/-- Without a prefix a create needs one mortar frame. -/
theorem createNeeds_plain {s : State} {p : Nat} {a : SesCreateArgs} (hp : s.pfxOf p a.pfx = none) : s.createNeeds p a = (0, 1) := by
  unfold State.createNeeds
  rw [hp]

theorem room_one {s : State} {p : Nat} (h : s.morUsed p < s.morCount p) : s.room p 0 1 = .fits := by
  unfold State.room
  dsimp only
  rw [if_pos ⟨Nat.zero_le _, by omega⟩]

theorem pfxOf_none (s : State) (p : Nat) : s.pfxOf p 0xFFFF = none := rfl

/-- Settles O33: the commands of a session's life follow R57, R59, R61, R72, R801 and R803. -/
theorem sessionCommands : Obligations.SessionCommands := by
  intro s u hc
  refine ⟨exec_sesQuery hc, fun d h hm hcl hr => exec_sesSetHostData hc d h hm hcl hr, fun x h hq hx hst => ?_,
    fun x h hq hx h1 h2 h3 h4 => exec_sesClose_wrongState hc h hq (by rw [hx]; exact fun h => h.elim h1 (fun h => h.elim h2 (fun h => h.elim h3 h4))),
    fun a p slot root w c h hp hpx hck hused hb hn hctx hal => ?_, fun a p slot r v h hp hpx hck hroom hb hn hv => ?_⟩
  · obtain ⟨t, hex, hpost, hses, hz, hfr⟩ := exec_sesClose hc h hq hx hst
    obtain ⟨hown, hother⟩ := ses_set hses
    exact ⟨t, hex, hpost, by rw [hown]; rfl, by rw [hown]; rfl, by rw [hown]; rfl, by rw [hown]; rfl, by rw [hown]; rfl, hother, hz, hfr⟩
  · have hnone : s.pfxOf p a.pfx = none := by rw [hpx]; exact pfxOf_none s p
    obtain ⟨x, hx⟩ : ∃ x, x = s.newSes p slot a root := ⟨_, rfl⟩
    obtain ⟨v, hv⟩ : ∃ v : State, v = w.setSes slot x := ⟨_, rfl⟩
    have hbuild : State.buildSes { s with freeCtr := s.freeCtr + 1 } p slot a = some v := by
      rw [hv, hx]
      exact buildSes_plain hnone hal
    obtain ⟨r, k, hw⟩ := allocMor_exact hal
    have hbuilt : s.Builds v slot x := ⟨_, _, _, _, _, _, _, by rw [hv, hw]; rfl⟩
    obtain ⟨t, hex, hpost, hses, n, r', g, k', hio⟩ := exec_sesCreate hc h hp hck
      (by rw [createNeeds_plain hnone]; exact room_one hused) hb hn hbuild hbuilt (by rw [hx]; rfl)
    obtain ⟨hown, hother⟩ := ses_set hses
    have hmor : t.mortarFrames = w.mortarFrames := by
      obtain ⟨_, _, _, _, _, _, hio⟩ := hio
      exact (congrArg State.mortarFrames hio).trans (by rw [hv]; rfl)
    have hfb : s.newSes p slot a root = { s.newSes p slot a root with fallback := c.img.fallback } := by
      unfold State.newSes
      rw [hctx]
    rw [hfb] at hx
    refine ⟨t, _, hex, by rw [hx] at hpost; exact hpost, rfl, ?_⟩
    rw [hown, hx]
    refine ⟨rfl, rfl, rfl, rfl, rfl, rfl, rfl, hpx, rfl, rfl, rfl, rfl, rfl, rfl, hmor, hother, ?_⟩
    obtain ⟨l, m, sq, cq, bo, ar, hio⟩ := hio
    refine ⟨l, m, sq, cq, bo, ar, (congrArg (fun z : State => { z with
      sessions := s.sessions, mortarFrames := s.mortarFrames, regs := s.regs, nextSeq := s.nextSeq, aon := s.aon, freeCtr := s.freeCtr }) hio).trans ?_⟩
    rw [hv, hw]
    rfl
  · obtain ⟨w, root, mo, lf, hw, hvw⟩ := buildSes_prefix (s := { s with freeCtr := s.freeCtr + 1 }) hpx hv
    obtain ⟨_, _, _, _, _, _, hw⟩ := hw
    obtain ⟨x, hx⟩ : ∃ x : Session, x = { s.newSes p slot a root with
      mortar := mo, pfxTiles := r.full, pfxSeq := r.seq, nextPos := r.tokens, log := r.log, logFrames := lf } := ⟨_, rfl⟩
    have hbuilt : s.Builds v slot x := ⟨_, _, _, _, _, _, _, by rw [hvw, hw, hx]; rfl⟩
    obtain ⟨t, hex, hpost, hses, n, r', g, k', hio⟩ := exec_sesCreate hc h hp hck hroom hb hn hv hbuilt (by rw [hx]; rfl)
    obtain ⟨hown, hother⟩ := ses_set hses
    obtain ⟨l, m, sq, cq, bo, ar, hio⟩ := hio
    have hpf := congrArg State.prefixes hio
    have hmf := congrArg State.mortarFrames hio
    have htf := congrArg State.tileFrames hio
    have hti := congrArg State.tiles hio
    have hpre : t.prefixes.get? (p, a.pfx) = some { r with users := r.users + 1 } := by
      rw [show t.prefixes = v.prefixes from hpf, hvw]
      exact AMap.get?_set_same ..
    refine ⟨t, _, hex, by rw [hx] at hpost; exact hpost, rfl, ?_⟩
    rw [hown, hx]
    refine ⟨rfl, rfl, rfl, rfl, rfl, rfl, rfl, rfl, rfl, rfl, rfl, rfl, rfl, rfl, hpre, hmf, htf, hti, hother, ?_⟩
    refine ⟨l, m, sq, cq, bo, ar, (congrArg (fun z : State => { z with
      sessions := s.sessions, prefixes := s.prefixes, mortarFrames := s.mortarFrames, tileFrames := s.tileFrames, tiles := s.tiles,
      selfRefresh := s.selfRefresh, regs := s.regs, nextSeq := s.nextSeq, aon := s.aon, freeCtr := s.freeCtr }) hio).trans ?_⟩
    rw [hvw, hw]

end Sys2Proof.Machine
end

section
/-!
PROOFS. Persists of a token log (O43), with what the operations on an open bond and on the quarry's pages leave (12, 13).
-/

namespace Sys2Proof.Machine

open Sys2Proof

-- An open bond (R445) --------------------------------------------------------------------------------------------------------------------------

/-- Actions are appended to the bond that opened last, where no older one has its identifier. -/
theorem stageActs_append {s : State} {l : List Bond} {b : Bond} {p id : Nat} (hb : s.bonds = l ++ [b]) (hp : b.part = p) (hid : b.id = id)
    (hn : l.find? (fun x => x.part == p && x.id == id) = none) (as : List ActRec) :
    s.stageActs p id as = { s with bonds := l ++ [{ b with actions := as }] } := by
  have hold : l.map (fun x => if x.part == p && x.id == id then { x with actions := as } else x) = l := by
    conv => rhs; rw [← List.map_id l]
    refine List.map_congr_left fun x hx => ?_
    rw [if_neg (List.find?_eq_none.1 hn x hx)]
    rfl
  unfold State.stageActs
  rw [hb, List.map_append, hold, List.map_singleton, if_pos (by simp [hp, hid])]

/-- Counting a commit changes registers, counters and signals. -/
theorem countCommit_frame (s : State) (p : Nat) : ∃ r m l, s.countCommit p = { s with regs := r, pmc := m, out := l ++ s.out } := by
  obtain ⟨m, l, h⟩ := count_frame (s.bump Fld.BND_COMMITS_COUNT p) (PmcEv.ofPart 0x70 1 p .bg)
  exact ⟨_, m, l, h⟩

/-- A commit takes the bond from the open ones. -/
theorem commitBond_frame (s : State) (p id : Nat) : ∃ r m l,
    s.commitBond p id = { s with bonds := s.bonds.filter (fun b => !(b.part == p && b.id == id)), regs := r, pmc := m, out := l ++ s.out } := by
  obtain ⟨r, m, l, h⟩ := countCommit_frame (s.closeBond p id) p
  exact ⟨r, m, l, h⟩

theorem qStage_congr {s t : State} (hq : t.qry = s.qry) (hf : t.freeCtr = s.freeCtr) (p : Nat) (k : QKind) (b : Nat) :
    t.qStage p k b = (s.qStage p k b).map (fun x => (x.1, { t with qry := x.2.qry, freeCtr := x.2.freeCtr })) := by
  unfold State.qStage
  rw [hq, hf]
  cases findQuarry s.qry (Config.pick s.freeCtr) (s.qry.map.length + s.qry.staged.length + 1) <;> rfl

/-- Staging quarry frames reads the quarry and the free choices, and changes these only. -/
theorem qStages_congr {p : Nat} {k : QKind} {b : Nat} : ∀ (n : Nat) {s t : State}, t.qry = s.qry → t.freeCtr = s.freeCtr →
    t.qStages p k b n = (s.qStages p k b n).map (fun x => (x.1, { t with qry := x.2.qry, freeCtr := x.2.freeCtr }))
  | 0, s, t, hq, hf => by
    unfold State.qStages
    simp only [Option.map_some, ← hq, ← hf]
  | n + 1, s, t, hq, hf => by
    unfold State.qStages
    rw [qStage_congr hq hf]
    cases s.qStage p k b with
    | none => rfl
    | some x =>
      have ih := qStages_congr (p := p) (k := k) (b := b) n (s := x.2) (t := { t with qry := x.2.qry, freeCtr := x.2.freeCtr }) rfl rfl
      dsimp only [Option.map_some]
      rw [ih]
      cases x.2.qStages p k b n <;> rfl

/-- What one state can stage, another with its quarry and free choices can stage. -/
theorem qStages_of_eq {s s' t : State} {p : Nat} {k : QKind} {b n : Nat} {fs : List Nat} (h : s.qStages p k b n = some (fs, s'))
    (hq : t.qry = s.qry) (hf : t.freeCtr = s.freeCtr) : t.qStages p k b n = some (fs, { t with qry := s'.qry, freeCtr := s'.freeCtr }) := by
  rw [qStages_congr n hq hf, h]
  rfl

-- Persists open (R68, R800) ---------------------------------------------------------------------------------------------------------------------

theorem doTokenLogPersist_due {s : State} {slot : Nat} (hf : (s.ses slot).state ≠ .free) (hn : 256 ≤ (s.ses slot).sincePersist)
    (hb : ∀ b ∈ s.bonds, b.slot = slot → b.kind ≠ .persist) : doTokenLogPersist slot s = s.persist slot := by
  have hany : s.bonds.any (fun b => b.slot == slot && b.kind == .persist) = false := by
    simpa using hb
  unfold doTokenLogPersist
  dsimp only
  exact if_neg (by simp [hf, hany]; omega)

/-- R800: a persist is skipped where the log has not changed or the quarry cannot take it. -/
theorem persist_skips {s : State} {slot : Nat} {x : Session} (hx : s.ses slot = x)
    (h : x.log = x.perLog ∨ s.qry.full x.perNeed = true ∨ s.qryRoom x.part x.perNeed = false) :
    s.persist slot = { s with sessions := s.sessions.set slot { x with sincePersist := 0 } } := by
  unfold State.persist
  dsimp only
  rw [hx, modSes_eq hx]
  by_cases hl : x.log = x.perLog
  · rw [if_pos hl]
  · rw [if_neg hl, if_pos (by simpa [hl] using h)]

/-- What a persist leaves once its bond is open and its frames are staged. -/
theorem persist_opens {s s1 s2 : State} {slot id : Nat} {x : Session} {fs : List Nat} (hx : s.ses slot = x)
    (hfree : s.bondOf x.part (s.nextBond x.part) = none) (hl : x.log ≠ x.perLog) (hfull : s.qry.full x.perNeed = false)
    (hroom : s.qryRoom x.part x.perNeed = true) (ho : s.openBond x.part .persist slot none true x.log.length = (id, s1))
    (hst : s1.qStages x.part .quarter id x.perNeed = some (fs, s2)) :
    ∃ b r n, b.id = id ∧ b.kind = .persist ∧ b.slot = slot ∧ b.arg = x.log.length ∧ b.actions = [actList .quarryMap fs, actDirectory slot] ∧
      s.persist slot = ({ s with sessions := s.sessions.set slot { x with sincePersist := 0 }, bonds := s.bonds ++ [b], regs := r, nextSeq := n,
                                 qry := s2.qry, freeCtr := s2.freeCtr } : State).govCharge x.part (4096 * x.perUnits) := by
  obtain ⟨_, n1, r1, ho1, -⟩ := openBond_spec s x.part .persist slot none true x.log.length
  rw [ho1, Prod.mk.injEq] at ho
  obtain ⟨rfl, rfl⟩ := ho
  obtain ⟨v, hv⟩ : ∃ v : State, v = { s with sessions := s.sessions.set slot { x with sincePersist := 0 } } := ⟨_, rfl⟩
  obtain ⟨b, n, r, ho2, hid, hk, hsl, hp, harg, -, -⟩ := openBond_spec v x.part .persist slot none true x.log.length
  have hnx : v.nextBond x.part = s.nextBond x.part := by rw [hv]; rfl
  have hst2 := qStages_of_eq hst (t := { v with nextSeq := n, regs := r, bonds := v.bonds ++ [b] }) (by rw [hv]) (by rw [hv])
  have hacts := stageActs_append (s := { v with nextSeq := n, regs := r, bonds := v.bonds ++ [b], qry := s2.qry, freeCtr := s2.freeCtr }) rfl hp
    (hid.trans hnx) (l := v.bonds) (by rw [hv]; exact hfree) [actList .quarryMap fs, actDirectory slot]
  refine ⟨{ b with actions := [actList .quarryMap fs, actDirectory slot] }, r, n, hid.trans hnx, hk, hsl, harg, rfl, ?_⟩
  unfold State.persist
  dsimp only
  rw [hx, if_neg hl, if_neg (by simp [hfull, hroom]), modSes_eq hx, ← hv, ho2, hnx]
  dsimp only
  rw [hst2]
  dsimp only
  rw [hacts, hv]

/-- R68, R417: after 256 tokens a persist opens as a bond with the frames it stages. -/
theorem exec_tokenLogPersist_opens {s s1 s2 : State} {slot id : Nat} {x : Session} {fs : List Nat} (hc : s.Calm) (ha : s.awake = true)
    (hx : s.ses slot = x) (hfree : s.bondOf x.part (s.nextBond x.part) = none) (hf : x.state ≠ .free) (hn : 256 ≤ x.sincePersist)
    (hb : ∀ b ∈ s.bonds, b.slot = slot → b.kind ≠ .persist) (hl : x.log ≠ x.perLog) (hfull : s.qry.full x.perNeed = false)
    (hroom : s.qryRoom x.part x.perNeed = true) (ho : s.openBond x.part .persist slot none true x.log.length = (id, s1))
    (hst : s1.qStages x.part .quarter id x.perNeed = some (fs, s2)) :
    ∃ t b, exec (.tokenLogPersist slot) s = .next t ∧ t.ses slot = { x with sincePersist := 0 } ∧ (∀ j, j ≠ slot → t.ses j = s.ses j) ∧
      t.bonds = s.bonds ++ [b] ∧ b.id = id ∧ b.kind = .persist ∧ b.slot = slot ∧ b.arg = x.log.length ∧
      b.actions = [actList .quarryMap fs, actDirectory slot] ∧ t.qry.staged = s2.qry.staged ∧ t.qry.map = s.qry.map ∧
      t.govUsed x.part = s.govUsed x.part + 4096 * (logFramesFor x.log.length - 4 * x.perKept) ∧
      t = { s with sessions := t.sessions, bonds := t.bonds, qry := t.qry, regs := t.regs, nextSeq := t.nextSeq, freeCtr := t.freeCtr } := by
  obtain ⟨b, r, n, hid, hk, hsl, harg, hact, hper⟩ := persist_opens hx hfree hl hfull hroom ho hst
  have hdo : doTokenLogPersist slot s = _ :=
    (doTokenLogPersist_due (by rw [hx]; exact hf) (by rw [hx]; exact hn) hb).trans hper
  have hq : s2.qry.map = s.qry.map ∧ s2.qry.used = s.qry.used := by
    obtain ⟨-, st, fc, h2⟩ := qStages_spec _ hst
    obtain ⟨_, n1, r1, ho1, -⟩ := openBond_spec s x.part .persist slot none true x.log.length
    rw [ho1, Prod.mk.injEq] at ho
    rw [h2, ← ho.2]
    exact ⟨rfl, rfl⟩
  have hw : ({ x with sincePersist := 0 } : Session).waiting = [] := by rw [← hx]; exact ses_waiting hc slot
  have hses := ses_set (s := s) (t := { s with sessions := s.sessions.set slot { x with sincePersist := 0 } }) rfl
  refine ⟨_, b, next_event ha hdo (calm_sessions hc hw rfl rfl rfl rfl rfl rfl rfl rfl), hses.1, hses.2, rfl, hid, hk, hsl, harg, hact, rfl, hq.1, ?_, rfl⟩
  show (s2.qry.used.set x.part (s2.qry.used.getD x.part 0 + 4096 * x.perUnits)).getD x.part 0 = _
  rw [AMap.getD_set, if_pos rfl, hq.2]
  rfl

-- Pages of a bond (R416 to R418) ------------------------------------------------------------------------------------------------------------------

/-- A page of data that passes is programmed; its frame stays staged. -/
theorem doNandProgramDone_data {s : State} {p id f ppa : Nat} {b : Bond} {y : Staged} {l : List (Nat × Staged)} (hb : s.bondOf p id = some b)
    (hm : s.qry.mounted = true) (hro : s.qry.readOnly = false) (hmay : s.qry.mayProgram ppa = true)
    (hcol : b.kind ≠ .coldPark ∨ s.collectsFirst (blockLun (ppaBlock ppa)) = false) (hst : s.qry.staged = (f, y) :: l) (hy : y.ppa = none)
    (ho : y.owner = p) (hbd : y.bond = id) :
    doNandProgramDone p id ppa true s = { s.programPage f ppa s.qry.opensSlc with
      qry := { (s.programPage f ppa s.qry.opensSlc).qry with
        staged := (s.programPage f ppa s.qry.opensSlc).qry.staged.set f { y with ppa := some ppa } } } := by
  have hfind : (s.qry.stagedOf p id).find? (fun kv => kv.2.ppa.isNone) = some (f, y) := by
    unfold Qry.stagedOf
    simp [hst, ho, hbd, hy]
  have hpass : (s.qry.readOnly || !s.qry.mayProgram ppa || (b.kind == .coldPark && s.collectsFirst (blockLun (ppaBlock ppa)))) = false := by
    rcases hcol with h | h <;> simp [hro, hmay, h]
  unfold doNandProgramDone
  rw [hb]
  dsimp only
  rw [hfind]
  simp [hm, hpass]

/-- R416: a page that passes is staged still and reaches no reader. -/
theorem exec_nandProgramDone_data {s : State} {p id f ppa : Nat} {b : Bond} {y : Staged} {l : List (Nat × Staged)} (hc : s.Calm)
    (ha : s.awake = true) (hb : s.bondOf p id = some b)
    (hm : s.qry.mounted = true) (hro : s.qry.readOnly = false) (hmay : s.qry.mayProgram ppa = true)
    (hcol : b.kind ≠ .coldPark ∨ s.collectsFirst (blockLun (ppaBlock ppa)) = false) (hst : s.qry.staged = (f, y) :: l) (hy : y.ppa = none)
    (ho : y.owner = p) (hbd : y.bond = id) :
    ∃ t, exec (.nandProgramDone p id ppa true) s = .next t ∧ t.qry.staged = (f, { y with ppa := some ppa }) :: l ∧
      t.qry.pages.get? ppa = some f ∧ t.qry.map = s.qry.map ∧ t = { s with qry := t.qry, pmc := t.pmc, out := t.out } := by
  have hdo := doNandProgramDone_data hb hm hro hmay hcol hst hy ho hbd
  obtain ⟨bl, me, sq, nb, m, o, hpp⟩ := programPage_frame s f ppa s.qry.opensSlc
  rw [hpp] at hdo
  refine ⟨_, next_event ha hdo (hc.of_eq rfl rfl rfl rfl rfl rfl rfl rfl), ?_, AMap.get?_set_same .., rfl, rfl⟩
  show s.qry.staged.set f _ = _
  rw [hst]
  simp [AMap.set]

/-- `t` is `s` but for what programming pages without a frame changes. -/
def State.Pads (s t : State) : Prop :=
  ∃ bl sq nb m l, t = { s with qry := { s.qry with blocks := bl, seq := sq, nandBytes := nb }, pmc := m, out := l ++ s.out }

theorem State.Pads.trans {s t u : State} (h : s.Pads t) (g : t.Pads u) : s.Pads u := by
  obtain ⟨_, _, _, _, l, rfl⟩ := h
  obtain ⟨_, _, _, _, l', rfl⟩ := g
  exact ⟨_, _, _, _, l' ++ l, by simp only [List.append_assoc]; rfl⟩

theorem pads_otherPages (s : State) (n : Nat) : s.Pads (s.otherPages n) := by
  obtain ⟨m, l, h⟩ := count_frame { s with qry := { s.qry with seq := s.qry.seq + n, nandBytes := s.qry.nandBytes + 16384 * n } } (PmcEv.ofDevice 0x41 n)
  exact ⟨_, _, _, m, l, h⟩

theorem pads_padSet (s : State) (ppa : Nat) : s.Pads (s.padSet ppa) := by
  unfold State.padSet
  dsimp only
  split
  · refine State.Pads.trans ⟨_, s.qry.seq, s.qry.nandBytes, s.pmc, [], rfl⟩ (pads_otherPages ..)
  · exact ⟨_, _, _, _, [], rfl⟩

/-- A staged frame that has been programmed becomes live (R416). -/
theorem qMap_frame {s : State} {f ppa : Nat} {y : Staged} (hy : s.qry.staged.get? f = some y) (hp : y.ppa = some ppa) :
    ∃ q, s.qMap f = { s with qry := q } ∧ q.staged = s.qry.staged.erase f ∧
      q.map = s.qry.map.set f ⟨y.owner, y.kind, s.qry.slcOf ppa, ppa, false, false, s.epochOf y.owner⟩ := by
  unfold State.qMap
  rw [hy]
  dsimp only
  rw [hp]
  refine ⟨_, rfl, ?_⟩
  generalize hq : Qry.modBlk _ _ _ = q
  obtain ⟨_, _, _, _, _, _, h⟩ := qLog_frame q ⟨y.bond, y.owner, .map, f, ppa, 0⟩
  rw [h, ← hq]
  exact ⟨rfl, rfl⟩

/-- A session whose persisted copy is the front of its log, with one more quarter frame (R68). -/
def Session.persisted (x : Session) (f n : Nat) : Session := { x with perFrames := x.perFrames ++ [f], perLog := x.log.take n }

/-- The last frame of a log's persisted copy becomes live: the copy is the log as it stood, and the bond is gone (R68, R416). -/
theorem persistDone_frame {s : State} {b : Bond} {x : Session} {f ppa : Nat} {y : Staged} (hx : s.ses b.slot = x) (hbs : s.bonds = [b])
    (hst : s.qry.staged = [(f, y)]) (hy : y.ppa = some ppa) (ho : y.owner = b.part) (hbd : y.bond = b.id)
    (hlen : x.perFrames.length + 1 = ceilDiv b.arg 4080) :
    ∃ q r m l, q.staged = [] ∧ q.map = s.qry.map.set f ⟨y.owner, y.kind, s.qry.slcOf ppa, ppa, false, false, s.epochOf y.owner⟩ ∧
      s.persistDone b = { s with
        qry := q, sessions := s.sessions.set b.slot (x.persisted f b.arg), bonds := [],
        mirror := ⟨s.nextSeq, b.slot, x.part, x.persisted f b.arg⟩ ::
          s.mirror.filter (fun m => m.slot != b.slot),
        regs := r, pmc := m, out := l ++ s.out } := by
  have hnew : (s.qry.staged.filter (fun kv => kv.2.owner == b.part && kv.2.bond == b.id)).map (·.1) = [f] := by
    simp [hst, ho, hbd]
  have hkeep : x.perFrames.take (ceilDiv b.arg perFrameLog - 1) = x.perFrames := by
    rw [List.take_of_length_le]
    unfold perFrameLog
    omega
  obtain ⟨q, hmap, hqs, hqm⟩ := qMap_frame (s := s) (f := f) (y := y) (ppa := ppa) (by rw [hst]; simp [AMap.get?]) hy
  have hqs' : q.staged = [] := by rw [hqs, hst]; simp [AMap.erase]
  obtain ⟨w, hw⟩ : ∃ w : State, w = { s with
    qry := q, sessions := s.sessions.set b.slot (x.persisted f b.arg) } := ⟨_, rfl⟩
  have hwx := (ses_set (s := s) (t := w) (by rw [hw])).1
  obtain ⟨r, m, l, hcb⟩ := commitBond_frame (w.mirrorSes b.slot) b.part b.id
  refine ⟨q, r, m, l, hqs', hqm, ?_⟩
  unfold State.persistDone
  dsimp only
  rw [hx, hnew]
  simp only [List.foldl_cons, List.foldl_nil, List.length_singleton, hkeep, List.drop_length, State.qTrims]
  have hmod : State.modSes { s with qry := q } b.slot (fun y => { y with perFrames := x.perFrames ++ [f], perLog := y.log.take b.arg }) = w := by
    rw [modSes_eq (v := { s with qry := q }) hx, hw]
    rfl
  rw [hmap, hmod, hcb]
  unfold State.mirrorSes
  rw [hwx, hw]
  simp [hbs, Session.persisted]

/-- The page of the mirror record of the only open bond, a persist's, passes (R416 step 3). -/
theorem doNandProgramDone_mirror {s : State} {p id ppa mppa f : Nat} {b : Bond} {y : Staged} (hbs : s.bonds = [b]) (hp : b.part = p) (hid : b.id = id)
    (hk : b.kind = .persist) (hq : b.quarry = true) (hm : s.qry.mounted = true) (hst : s.qry.staged = [(f, y)]) (hy : y.ppa = some ppa)
    (ho : y.owner = p) (hbd : y.bond = id) :
    doNandProgramDone p id mppa true s = ((s.otherPages 1).padSet ppa).persistDone b := by
  have hof : ∀ t : State, t.bonds = s.bonds → t.bondOf p id = some b := by
    intro t ht
    unfold State.bondOf
    simp [ht, hbs, hp, hid]
  have hso : ∀ q : Qry, q.staged = s.qry.staged → q.stagedOf p id = [(f, y)] := by
    intro q hqs
    unfold Qry.stagedOf
    simp [hqs, hst, ho, hbd]
  have hpack : s.mirrorPack b = [b] := by
    unfold State.mirrorPack
    simp [hbs]
  obtain ⟨_, _, _, _, _, hop⟩ := pads_otherPages s 1
  have hmir : (s.otherPages 1).mirrored b = ((s.otherPages 1).padSet ppa).persistDone b := by
    unfold State.mirrored
    rw [hp, hid, hof (s.otherPages 1) (by rw [hop])]
    dsimp only
    rw [hp, hid, hso (s.otherPages 1).qry (by rw [hop])]
    simp only [List.filterMap_cons, List.filterMap_nil, hy, List.foldl_cons, List.foldl_nil]
    unfold State.programmed
    rw [hk]
  have hfind : (s.qry.stagedOf p id).find? (fun kv => kv.2.ppa.isNone) = none := by
    rw [hso s.qry rfl]
    simp [hy]
  unfold doNandProgramDone State.mirrorPage
  rw [hof s rfl]
  dsimp only
  rw [hfind]
  dsimp only
  rw [hpack]
  simp only [hm, hq, List.foldl_cons, List.foldl_nil, hmir]
  rfl

/-- R416, R68: with the page of the mirror record the frames are live, and the session's persisted copy is the log as it stood. -/
theorem exec_nandProgramDone_mirror {s : State} {slot id f ppa mppa : Nat} {x : Session} {b : Bond} {y : Staged} (hc : s.Calm) (ha : s.awake = true)
    (hx : s.ses slot = x) (hbs : s.bonds = [b]) (hp : b.part = x.part) (hid : b.id = id) (hk : b.kind = .persist) (hsl : b.slot = slot)
    (hq : b.quarry = true) (hm : s.qry.mounted = true) (hst : s.qry.staged = [(f, y)]) (hy : y.ppa = some ppa) (ho : y.owner = x.part)
    (hbd : y.bond = id) (hyk : y.kind = .quarter) (hlen : x.perFrames.length + 1 = ceilDiv b.arg 4080) :
    ∃ t c, exec (.nandProgramDone x.part id mppa true) s = .next t ∧ t.qry.staged = [] ∧
      t.qry.map = s.qry.map.set f ⟨x.part, .quarter, c, ppa, false, false, s.epochOf x.part⟩ ∧
      t.ses slot = { x with perFrames := x.perFrames ++ [f], perLog := x.log.take b.arg } ∧ (∀ j, j ≠ slot → t.ses j = s.ses j) ∧
      t.bonds = [] ∧ (∃ m, t.mirror.head? = some m ∧ m.slot = slot ∧ m.ses = t.ses slot) ∧
      t = { s with qry := t.qry, sessions := t.sessions, bonds := t.bonds, mirror := t.mirror, regs := t.regs, pmc := t.pmc, out := t.out } := by
  subst hsl
  obtain ⟨v, hv⟩ : ∃ v, v = (s.otherPages 1).padSet ppa := ⟨_, rfl⟩
  obtain ⟨_, _, _, _, l, hpad⟩ : s.Pads v := by rw [hv]; exact (pads_otherPages ..).trans (pads_padSet ..)
  obtain ⟨q, r, m, l', hqs, hqm, hper⟩ := persistDone_frame (s := v) (b := b) (x := x) (f := f) (y := y) (ppa := ppa) (by rw [hpad]; exact hx)
    (by rw [hpad]; exact hbs) (by rw [hpad]; exact hst) hy (ho.trans hp.symm) (hbd.trans hid.symm) hlen
  have hdo : doNandProgramDone x.part id mppa true s = _ := 
    (doNandProgramDone_mirror hbs hp hid hk hq hm hst hy ho hbd).trans ((congrArg (State.persistDone · b) hv.symm).trans hper)
  have hw : (x.persisted f b.arg).waiting = [] := by rw [← hx]; exact ses_waiting hc b.slot
  rw [hpad] at hdo hqm
  have hses := ses_set (s := s) (k := b.slot) (x := x.persisted f b.arg) (t := { s with
    sessions := s.sessions.set b.slot (x.persisted f b.arg) }) rfl
  rw [ho, hyk] at hqm
  exact ⟨_, _, next_event ha hdo (calm_sessions hc hw rfl rfl rfl rfl rfl rfl rfl rfl), hqs, hqm, hses.1, hses.2, rfl,
    ⟨_, rfl, rfl, hses.1.symm⟩, rfl⟩

-- A wait at order 2 ends (R447, R457) -------------------------------------------------------------------------------------------------------------

/-- What a submission's checks read (R53). -/
theorem checkSub_bondWaits (s : State) (l : List BondWait) (u : Sub) : State.checkSub { s with bondWaits := l } u = s.checkSub u := rfl

/-- R445, R457: a bond that waits opens once its claim is free and there is room, and its command completes. -/
theorem exec_bondOpenGranted {s : State} {slot n : Nat} {x : Session} {u : Sub} {d : BitVec 128} (hc : s.Calm) (ha : s.awake = true)
    (hx : s.ses slot = x) (hwait : s.bondWaits = [⟨x.part, slot, u, .sesSetHostData d⟩]) (hu : u.slot = slot) (hroom : s.bondRoom x.part = true)
    (hcl : s.claimed slot = false) (hchk : s.checkSub u = none) (hm : x.state ≠ .moving) (hsq : u.sq = some n) (hop : s.Open u.fn n) :
    ∃ t, exec (.bondOpenGranted slot) s = .next t ∧ s.Posts t u .ok 0 0 ∧ t.bondWaits = [] ∧ t.ses slot = { x with hostData := d } ∧
      (∀ j, j ≠ slot → t.ses j = s.ses j) ∧
      s.Io { t with sessions := s.sessions, bondWaits := s.bondWaits, regs := s.regs, nextSeq := s.nextSeq } := by
  subst hu
  obtain ⟨v, hv⟩ : ∃ v : State, v = { s with bondWaits := [] } := ⟨_, rfl⟩
  have hvx : v.ses u.slot = x := by rw [hv]; exact hx
  obtain ⟨k, r, m, l, hw⟩ := hostData_frame hvx d
  obtain ⟨w, hwv⟩ : ∃ w, w = (v.bondOnce (v.ses u.slot).part).modSes u.slot (fun y => { y with hostData := d }) := ⟨_, rfl⟩
  have hdo : doBondOpenGranted u.slot s = w.complete u .ok := by
    have hgo : v.startHost u (.sesSetHostData d) = w.complete u .ok := by
      rw [hwv]
      refine doSesSetHostData_writes d (by rw [hvx]; exact hm) (by rw [hv]; exact hcl) ?_
      rw [hvx, hv]
      exact hroom
    rw [hv] at hgo
    unfold doBondOpenGranted
    simp [hwait, hroom, hcl, checkSub_bondWaits, hchk, hgo]
  rw [← hwv] at hw
  have hww : ({ x with hostData := d } : Session).waiting = [] := by rw [← hx]; exact ses_waiting hc u.slot
  have hcw : w.Calm := by
    rw [hw, hv]
    exact calm_sessions (s := s) hc hww rfl rfl rfl rfl rfl rfl rfl rfl
  have hwo : w.Open u.fn n := by rw [hw, hv]; exact hop
  have hpost := posts_complete w u n .ok 0 0 hsq hwo
  have hio := io_complete w u .ok 0 0 (by rw [hsq]; exact fun h => by cases h)
  obtain ⟨z, hz⟩ : ∃ z, z = w.complete u .ok 0 0 := ⟨_, rfl⟩
  rw [← hz] at hdo hpost hio
  have hex := next_event ha hdo (hcw.io hio)
  obtain ⟨l', _, _, _, _, _, hio⟩ := hio
  rw [hw, hv] at hio
  have hses := ses_set (s := s) (t := { s with sessions := s.sessions.set u.slot { x with hostData := d } }) rfl
  refine ⟨_, hex, ?_, by rw [hio]; rfl, by rw [hio]; exact hses.1, by rw [hio]; exact hses.2, l' ++ l, _, _, _, _, _, by
    rw [hio]; simp only [List.append_assoc]; rfl⟩
  obtain ⟨q, h, k', hq⟩ := hpost
  exact ⟨q, h, k', State.Writes.after (t := w) ⟨l, by rw [hw, hv]⟩ hq⟩

/-- Settles O43: R68 and R800 on the opening, R416 and R417 on the pages, R457 on a bond that waits. -/
theorem persists : Obligations.Persists := by
  intro s slot x hc ha hx
  refine ⟨fun hf hn hb h => ?_, fun id s1 s2 fs => exec_tokenLogPersist_opens hc ha hx,
    fun p id f ppa b y l => exec_nandProgramDone_data hc ha,
    fun id f ppa mppa b y hbs hp hid hk hsl hq hm hst hy ho hbd hyk hlen => exec_nandProgramDone_mirror hc ha hx hbs hp hid hk hsl hq hm hst hy ho hbd hyk hlen,
    fun u d n hw hu _ hroom hcl hchk hm hsq hop => exec_bondOpenGranted hc ha hx hw hu hroom hcl hchk hm hsq hop⟩
  have hdo : doTokenLogPersist slot s = _ := (doTokenLogPersist_due (by rw [hx]; exact hf) (by rw [hx]; exact hn) hb).trans (persist_skips hx h)
  have hw : ({ x with sincePersist := 0 } : Session).waiting = [] := by rw [← hx]; exact ses_waiting hc slot
  exact next_event ha hdo (calm_sessions hc hw rfl rfl rfl rfl rfl rfl rfl rfl)

end Sys2Proof.Machine
end

section
/-!
PROOFS. Warm and cold parks (O42).
-/

namespace Sys2Proof.Machine

open Sys2Proof

-- The start of a warm park (R75, R174) ---------------------------------------------------------------------------------------------------------

/-- The mortar indexes of a session's tile-store tiles, in order: what a warm park has to move (R174). -/
def Session.storeTiles (x : Session) : List Nat :=
  (sortBy (fun (a b : Nat × MEntry) => decide (a.1 < b.1)) (x.mortar.entries.filter (fun kv => kv.2.tier == .store))).map (·.1)

theorem mem_storeTiles (x : Session) (k : Nat) : k ∈ x.storeTiles ↔ ∃ e, (k, e) ∈ x.mortar.entries ∧ e.tier = .store := by
  unfold Session.storeTiles
  simp only [List.mem_map, mem_sortBy, List.mem_filter, beq_iff_eq, Prod.exists, exists_and_right, exists_eq_right]

theorem storeTiles_eq_nil {x : Session} (h : ∀ kv ∈ x.mortar.entries, kv.2.tier ≠ .store) : x.storeTiles = [] := by
  rw [List.eq_nil_iff_forall_not_mem]
  intro k hk
  obtain ⟨e, he, ht⟩ := (mem_storeTiles x k).1 hk
  exact h _ he ht

/-- The run that a warm park starts with. -/
def State.warmRun (s : State) (x : Session) (o : Owner) (h : Hints) : ParkRun :=
  { owner := o, kind := .warm, budget := 0, prof := s.profile x.part h.profile, decay := s.decayOf x.part, hints := h, dressing := false,
    dressedAny := false, dropped := 0, tiles := [], todo := x.storeTiles, bond := 0, tally := Tally.zero }

theorem startWarm_eq {s : State} {slot : Nat} {x : Session} (hx : s.ses slot = x) (o : Owner) (h : Hints) :
    s.startWarm slot o h = State.nextWarm { s with parks := s.parks.set slot (s.warmRun x o h) } slot (s.warmRun x o h) h := by
  subst hx; rfl

theorem nextWarm_ends {s : State} {slot : Nat} {r : ParkRun} (h : Hints) (hr : r.todo = []) : s.nextWarm slot r h = s.finishWarm slot r h := by
  unfold State.nextWarm
  exact if_pos (by rw [hr]; rfl)

/-- The bond that the next pages of a warm park open (R174, R443). -/
theorem nextWarm_opens {s : State} {slot : Nat} {x : Session} {r : ParkRun} (h : Hints) (hr : r.todo ≠ []) (hx : s.ses slot = x)
    (hfree : s.bondOf x.part (s.nextBond x.part) = none) :
    ∃ b n rg, b.kind = .warmPark ∧ b.slot = slot ∧ b.actions = warmActs b.id (warmBatch r.todo) ∧
      s.nextWarm slot r h = { s with bonds := s.bonds ++ [b], nextSeq := n, regs := rg, parks := s.parks.set slot { r with bond := b.id } } := by
  obtain ⟨b, n, rg, ho, hid, hk, hsl, hbp, -⟩ := openBond_spec s x.part .warmPark slot (some r.owner) false 0
  have hacts := stageActs_append (s := { s with nextSeq := n, regs := rg, bonds := s.bonds ++ [b] }) rfl hbp hid hfree
    (warmActs (s.nextBond x.part) (warmBatch r.todo))
  refine ⟨{ b with actions := warmActs (s.nextBond x.part) (warmBatch r.todo) }, n, rg, hk, hsl, by dsimp only; rw [hid], ?_⟩
  unfold State.nextWarm
  dsimp only
  rw [if_neg (by simpa using hr), hx, ho]
  dsimp only
  rw [hacts, hid]

/-- SES_PARK of a WAITING session that no cold park is asked for starts a warm park (R75). -/
theorem doSesPark_warm {s : State} {u : Sub} {o : Option Hints} {h : Hints} {x : Session} (hx : s.ses u.slot = x) (hst : x.state = .waiting)
    (hh : h = o.getD x.hints) (hr : h.inRange = true) (hk : x.holdsPrivate = false ∨ s.parkKind x.part h = .warm) :
    doSesPark u o s = State.startWarm { s with sessions := s.sessions.set u.slot { x with op := .park } } u.slot u.owner h := by
  have hasked : (if x.holdsPrivate = true then s.parkKind x.part h else .warm) = ParkKind.warm := by
    rcases hk with hk | hk <;> simp [hk]
  unfold doSesPark
  dsimp only
  rw [hx, ← hh, hasked]
  simp [hst, hr, modSes_eq hx]

/-- A warm park without a tile to move ends at its start (R174). -/
theorem startWarm_ends {s : State} {slot : Nat} {x : Session} (hx : s.ses slot = x) (hs : x.storeTiles = []) (hl : x.log = x.perLog) (o : Owner)
    (h : Hints) : ∃ n rg m l an fc, s.startWarm slot o h = State.completeFor { s with
      nextSeq := n, regs := rg, pmc := m, out := l ++ s.out, aon := an, freeCtr := fc,
      sessions := s.sessions.set slot { x with op := .none, hints := h, lastUse := an, sincePersist := 0 }, parks := s.parks.erase slot } o .ok 0 := by
  obtain ⟨n, rg, m, l, an, fc, hfin⟩ := finishWarm_frame (s := { s with parks := s.parks.set slot (s.warmRun x o h) }) (slot := slot)
    (r := s.warmRun x o h) (h := h) (x := x) hx hl rfl
  refine ⟨n, rg, m, l, an, fc, ?_⟩
  rw [startWarm_eq hx, nextWarm_ends (r := s.warmRun x o h) h hs, hfin]
  dsimp only
  rw [AMap.erase_set']
  rfl

/-- R68, R74: a warm park without a tile in a tile store ends at once. -/
theorem exec_sesPark_ends {s : State} {u : Sub} {o : Option Hints} {h : Hints} {x : Session} (hc : s.Calm) (ht : s.Takes u (.sesPark o))
    (hq : s.Quiet u.slot) (hx : s.ses u.slot = x) (hst : x.state = .waiting) (hh : h = o.getD x.hints) (hr : h.inRange = true)
    (hk : x.holdsPrivate = false ∨ s.parkKind x.part h = .warm) (hs : ∀ kv ∈ x.mortar.entries, kv.2.tier ≠ .store) (hl : x.log = x.perLog) :
    ∃ t, exec (.sesPark u o) s = .next t ∧ s.Posts t u .ok 0 0 ∧
      t.ses u.slot = { x with op := .none, hints := h, lastUse := t.aon, sincePersist := 0 } ∧ (∀ j, j ≠ u.slot → t.ses j = s.ses j) ∧
      t.parks = s.parks.erase u.slot ∧
      s.Io { t with sessions := s.sessions, parks := s.parks, regs := s.regs, aon := s.aon, freeCtr := s.freeCtr, nextSeq := s.nextSeq } := by
  have hw : x.waiting = [] := by rw [← hx]; exact ses_waiting hc u.slot
  obtain ⟨v, t, hex, hpost, ⟨hses, hparks, hio⟩, ht⟩ := quiet_done (st := .ok) (r := 0) (n := 0)
    (P := fun v => v.sessions = s.sessions.set u.slot { x with op := .none, hints := h, lastUse := v.aon, sincePersist := 0 } ∧
      v.parks = s.parks.erase u.slot ∧
      s.Io { v with sessions := s.sessions, parks := s.parks, regs := s.regs, aon := s.aon, freeCtr := s.freeCtr, nextSeq := s.nextSeq })
    ht rfl hq (fun s' _ hio => by
      obtain ⟨l0, _, _, _, _, _, hs'⟩ := hio
      have hx' : s'.ses u.slot = x := by rw [hs']; exact hx
      have hdo := doSesPark_warm (u := u) (o := o) hx' hst hh hr (by rw [hs']; exact hk)
      obtain ⟨n, rg, m, l, an, fc, hend⟩ := startWarm_ends (s := { s' with sessions := s'.sessions.set u.slot { x with op := .park } }) (slot := u.slot)
        (x := { x with op := .park }) (ses_set (s := s') rfl).1 (storeTiles_eq_nil hs) hl u.owner h
      refine ⟨_, hdo.trans hend, ?_⟩
      dsimp only
      rw [AMap.set_set, hs']
      exact ⟨rfl, rfl, ⟨l, rfl⟩,
        calm_sessions hc (x := { x with op := .none, hints := h, lastUse := an, sincePersist := 0 }) hw rfl rfl rfl rfl rfl rfl rfl rfl,
        rfl, rfl, l ++ l0, _, _, _, _, _, by simp only [List.append_assoc]; rfl⟩)
  obtain ⟨l, _, _, _, _, _, rfl⟩ := ht
  have hset := ses_set hses
  exact ⟨_, hex, hpost, hset.1, hset.2, hparks, (hio.trans ⟨l, _, _, _, _, _, rfl⟩).kept⟩

/-- R174: a warm park with a tile in a tile store opens a bond that waits for its staging. -/
theorem exec_sesPark_opens {s : State} {u : Sub} {o : Option Hints} {h : Hints} {x : Session} (hc : s.Calm) (ht : s.Takes u (.sesPark o))
    (hq : s.Quiet u.slot) (hx : s.ses u.slot = x) (hst : x.state = .waiting) (hh : h = o.getD x.hints) (hr : h.inRange = true)
    (hk : x.holdsPrivate = false ∨ s.parkKind x.part h = .warm) (hs : ∃ kv ∈ x.mortar.entries, kv.2.tier = .store)
    (hfree : s.bondOf x.part (s.nextBond x.part) = none) :
    ∃ t r b, exec (.sesPark u o) s = .next t ∧ t.ses u.slot = { x with op := .park } ∧ (∀ j, j ≠ u.slot → t.ses j = s.ses j) ∧
      t.parks = s.parks.set u.slot r ∧ t.bonds = s.bonds ++ [b] ∧ b.kind = .warmPark ∧ b.slot = u.slot ∧
      b.actions = warmActs b.id (warmBatch r.todo) ∧ r.bond = b.id ∧ r.kind = .warm ∧
      r.owner = u.owner ∧ r.hints = h ∧ (∀ k, k ∈ r.todo ↔ ∃ e, (k, e) ∈ x.mortar.entries ∧ e.tier = .store) ∧
      s.Io { t with sessions := s.sessions, parks := s.parks, bonds := s.bonds, regs := s.regs, nextSeq := s.nextSeq } := by
  have hw : x.waiting = [] := by rw [← hx]; exact ses_waiting hc u.slot
  obtain ⟨s', ⟨⟨l0, _, _, _, _, _, hs'⟩, -⟩, hn⟩ := next_quiet ht rfl hq
  have hx' : s'.ses u.slot = x := by rw [hs']; exact hx
  obtain ⟨w, hw'⟩ : ∃ w : State, w = { s' with sessions := s'.sessions.set u.slot { x with op := .park } } := ⟨_, rfl⟩
  have hwx : w.ses u.slot = { x with op := .park } := by rw [hw']; exact (ses_set (s := s') rfl).1
  obtain ⟨r, hrun⟩ : ∃ r, r = w.warmRun { x with op := .park } u.owner h := ⟨_, rfl⟩
  have htodo : ∀ k, k ∈ r.todo ↔ ∃ e, (k, e) ∈ x.mortar.entries ∧ e.tier = .store := by rw [hrun]; exact mem_storeTiles { x with op := .park }
  have hne : r.todo ≠ [] := by
    obtain ⟨kv, hkv, hts⟩ := hs
    exact List.ne_nil_of_mem ((htodo kv.1).2 ⟨kv.2, hkv, hts⟩)
  obtain ⟨b, n, rg, hbk, hbs, hba, hopen⟩ := nextWarm_opens (s := { w with parks := w.parks.set u.slot r }) (x := { x with op := .park }) h hne hwx
    (by rw [hw', hs']; exact hfree)
  have hdo : doSesPark u o s' = w.startWarm u.slot u.owner h := by
    rw [hw']; exact doSesPark_warm hx' hst hh hr (by rw [hs']; exact hk)
  rw [startWarm_eq hwx, ← hrun, hopen, hw'] at hdo
  subst hs'
  have hset := ses_set (s := s) (k := u.slot) (x := { x with op := .park }) (t := { s with sessions := s.sessions.set u.slot { x with op := .park } }) rfl
  refine ⟨_, { r with bond := b.id }, b, hn _ hdo (calm_sessions hc (x := { x with op := .park }) hw rfl rfl rfl rfl rfl rfl rfl rfl), hset.1, hset.2,
    ?_, rfl, hbk, hbs, hba, rfl, by rw [hrun]; rfl, by rw [hrun]; rfl, by rw [hrun]; rfl, htodo, l0, _, _, _, _, _, rfl⟩
  show (s.parks.set u.slot r).set u.slot _ = _
  rw [AMap.set_set]

-- The staging of a warm park's bond (R174, R118) ---------------------------------------------------------------------------------------------------

/-- The place of a tile-store entry. -/
theorem MEntry.loc_store {e : MEntry} (h : e.tier = .store) : e.loc = some (.store (storeCore e.frame) (storeOff e.frame)) := by
  unfold MEntry.loc
  rw [h]

/-- A tile without poison is copied into a frame of its own: the frame's record stays as it was allocated (R373). -/
theorem copyTile_frame (s : State) {from_ : TileLoc} {n : Nat} {f : Frame} (t : Tile) (hf : s.tileFrames.get? n = some f) (hp : f.poison = [])
    (hc : s.poisonAt from_ = []) : ∃ tf sr, s.copyTile from_ (.frame n) t = { s with tiles := s.tiles.set (.frame n) t, tileFrames := tf, selfRefresh := sr } ∧
      tf.get? n = some f ∧ ∀ j, j ≠ n → tf.get? j = s.tileFrames.get? j := by
  obtain ⟨sr, hsr⟩ := wakeTile_frame (State.setPoison { s with tiles := s.tiles.set (.frame n) t } (.frame n) []) n
  refine ⟨(s.tileFrames.modify n (fun f => { f with poison := [] })).modify n (fun f => { f with poison := [] }), sr, ?_, ?_, ?_⟩
  · unfold State.copyTile State.putTile
    dsimp only
    rw [hc, hsr]
    rfl
  · have hfp : ({ f with poison := [] } : Frame) = f := by rw [← hp]
    simp [AMap.get?_modify, hf, hfp]
  · intro j hj
    simp [AMap.get?_modify, hj]

/-- A session whose tile `k` of a tile store has moved to frame `n` of LPDDR6 (R118). -/
def Session.demoted (x : Session) (k n : Nat) (e : MEntry) : Session :=
  { x with mortar := { x.mortar with entries := x.mortar.entries.set k { e with tier := .lpddr, frame := n } } }

/-- A tile of a tile store that carries no poison moves to the frame allocated for it (R118). -/
theorem demote_frame {s s1 : State} {slot k n : Nat} {x : Session} {e : MEntry} {t0 : Tile} (hx : s.ses slot = x)
    (he : x.mortar.entries.get? k = some e) (hs : e.tier = .store) (ht : s.tileAt e = some t0) (hp : s.poisonedData e = false)
    (ha : s.allocTile x.part ⟨x.part, .priv, 0, slot, []⟩ = some (n, s1)) :
    ∃ tf ti sr rg fc, tf.get? n = some ⟨x.part, .priv, 0, slot, []⟩ ∧ (∀ j, j ≠ n → tf.get? j = s.tileFrames.get? j) ∧ ti.get? (.frame n) = some t0 ∧
      s.demote slot k = some { s with
        tileFrames := tf, tiles := ti, selfRefresh := sr, regs := rg, freeCtr := fc, sessions := s.sessions.set slot (x.demoted k n e) } := by
  have hset := (fr_allocTile ha).2
  obtain ⟨a, fc, rg, hal⟩ := allocTile_exact ha
  have hpo : s1.poisonAt (.store (storeCore e.frame) (storeOff e.frame)) = [] := by
    unfold State.poisonedData at hp
    rw [MEntry.loc_store hs, Bool.or_eq_false_iff] at hp
    have hclean : s.poisonAt (.store (storeCore e.frame) (storeOff e.frame)) = [] := by simpa using hp.2
    rw [hal]
    exact hclean
  obtain ⟨tf, sr, hcopy, hn, ho⟩ := copyTile_frame s1 t0 (n := n) (by rw [hset]; exact AMap.get?_set_same ..) rfl hpo
  refine ⟨tf, (s.tiles.set (.frame n) t0).erase (.store (storeCore e.frame) (storeOff e.frame)), sr, rg, fc, hn,
    fun j hj => (ho j hj).trans (by rw [hset]; exact AMap.get?_set_other _ _ hj), ?_, ?_⟩
  · rw [AMap.get?_erase_other _ (by simp)]
    exact AMap.get?_set_same ..
  · unfold State.demote
    dsimp only
    rw [hx, he]
    dsimp only
    rw [if_neg (by simp [hs]), ht, ha]
    dsimp only
    rw [hcopy, hal, modSes_eq (x := x)]
    · rfl
    · exact hx

theorem warmBatch_singleton (k : Nat) : warmBatch [k] = [k] := by
  simp [warmBatch, List.eraseDups_cons]

/-- The last bond of a warm park, with one tile: the tile moves, the bond commits, the park ends (R174). -/
theorem warmStaged_ends {s s1 : State} {slot k n : Nat} {x : Session} {r : ParkRun} {b : Bond} {e : MEntry} {t0 : Tile} (hx : s.ses slot = x)
    (hr : s.parks.get? slot = some r) (htodo : r.todo = [k]) (hk : r.kind = .warm) (he : x.mortar.entries.get? k = some e) (hs : e.tier = .store)
    (ht : s.tileAt e = some t0) (hp : s.poisonedData e = false) (ha : s.allocTile x.part ⟨x.part, .priv, 0, slot, []⟩ = some (n, s1))
    (hl : x.log = x.perLog) :
    ∃ tf ti sr rg m l an fc q, tf.get? n = some ⟨x.part, .priv, 0, slot, []⟩ ∧ (∀ j, j ≠ n → tf.get? j = s.tileFrames.get? j) ∧
      ti.get? (.frame n) = some t0 ∧ s.warmStaged slot b = State.completeFor { s with
        tileFrames := tf, tiles := ti, selfRefresh := sr, regs := rg, pmc := m, out := l ++ s.out, aon := an, freeCtr := fc, nextSeq := q,
        bonds := s.bonds.filter (fun y => !(y.part == b.part && y.id == b.id)), parks := s.parks.erase slot,
        sessions := s.sessions.set slot { x.demoted k n e with op := .none, hints := r.hints, lastUse := an, sincePersist := 0 } } r.owner .ok 0 := by
  obtain ⟨tf, ti, sr, rg, fc, hn, ho, hti, hdem⟩ := demote_frame hx he hs ht hp ha
  obtain ⟨v, hv⟩ : ∃ v : State, v = { s with
    tileFrames := tf, tiles := ti, selfRefresh := sr, regs := rg, freeCtr := fc, sessions := s.sessions.set slot (x.demoted k n e) } := ⟨_, rfl⟩
  rw [← hv] at hdem
  have hvx : v.ses slot = x.demoted k n e := (ses_set (s := s) (by rw [hv])).1
  obtain ⟨rg1, m1, l1, hcb⟩ := commitBond_frame v b.part b.id
  have hcx : (v.commitBond b.part b.id).ses slot = x.demoted k n e := by rw [hcb]; exact hvx
  obtain ⟨q, rg2, m2, l2, an, fc2, hfin⟩ := finishWarm_frame (s := v.commitBond b.part b.id) (slot := slot)
    (r := { r with todo := [], tally := r.tally.add b.id (tileBytes * [k].length) }) (h := r.hints) hcx hl hk
  refine ⟨tf, ti, sr, rg2, m2, l2 ++ l1, an, fc2, q, hn, ho, hti, ?_⟩
  have hstep : s.warmStaged slot b = (v.commitBond b.part b.id).nextWarm slot
      { r with todo := [], tally := r.tally.add b.id (tileBytes * [k].length) } r.hints := by
    unfold State.warmStaged
    rw [hr]
    dsimp only
    rw [htodo, warmBatch_singleton]
    simp [hx, he, hs, State.demoteAll, hdem]
  rw [hstep, nextWarm_ends r.hints rfl, hfin, hcb, hv]
  simp only [List.append_assoc, AMap.set_set]

/-- R174, R445: once its bond is staged, the tile stands in LPDDR6, and the park ends. -/
theorem exec_bondStaged {s s1 : State} {slot k n id q : Nat} {x : Session} {r : ParkRun} {b : Bond} {e : MEntry} {t0 : Tile} (hc : s.Calm)
    (haw : s.awake = true) (hx : s.ses slot = x) (hr : s.parks.get? slot = some r) (hb : s.bondOf x.part id = some b) (hbk : b.kind = .warmPark)
    (hbs : b.slot = slot) (hbp : b.part = x.part) (hid : b.id = id) (htodo : r.todo = [k]) (hk : r.kind = .warm)
    (he : x.mortar.entries.get? k = some e) (hs : e.tier = .store)
    (ht : s.tileAt e = some t0) (hp : s.poisonedData e = false) (ha : s.allocTile x.part ⟨x.part, .priv, 0, slot, []⟩ = some (n, s1))
    (hl : x.log = x.perLog) (hsq : r.owner.sq = some q) (hop : s.Open r.owner.fn q) :
    ∃ t, exec (.bondStaged x.part id) s = .next t ∧ t.parks = s.parks.erase slot ∧
      t.tileFrames.get? n = some ⟨x.part, .priv, 0, slot, []⟩ ∧ (∀ j, j ≠ n → t.tileFrames.get? j = s.tileFrames.get? j) ∧
      (∃ m, m = { x.mortar with entries := x.mortar.entries.set k { e with tier := .lpddr, frame := n } } ∧
        t.ses slot = { x with op := .none, hints := r.hints, lastUse := t.aon, sincePersist := 0, mortar := m }) ∧
      (∀ j, j ≠ slot → t.ses j = s.ses j) ∧ t.tiles.get? (.frame n) = some t0 ∧
      (∀ y, t.bondOf x.part id = some y → False) ∧
      (∃ c h m, s.Writes t (.cqe r.owner.fn c (r.owner.answer .ok 0) h m)) ∧
      s.Io { t with sessions := s.sessions, parks := s.parks, bonds := s.bonds, regs := s.regs, aon := s.aon, freeCtr := s.freeCtr,
                    nextSeq := s.nextSeq, tiles := s.tiles, tileFrames := s.tileFrames, selfRefresh := s.selfRefresh } := by
  obtain ⟨tf, ti, sr, rg, m, l, an, fc, sq, hn, ho, hti, hend⟩ := warmStaged_ends (b := b) hx hr htodo hk he hs ht hp ha hl
  obtain ⟨x', hx'⟩ : ∃ x' : Session, x' = { x.demoted k n e with op := .none, hints := r.hints, lastUse := an, sincePersist := 0 } := ⟨_, rfl⟩
  rw [← hx'] at hend
  obtain ⟨v, hv⟩ : ∃ v : State, v = { s with
    tileFrames := tf, tiles := ti, selfRefresh := sr, regs := rg, pmc := m, out := l ++ s.out, aon := an, freeCtr := fc, nextSeq := sq,
    bonds := s.bonds.filter (fun y => !(y.part == b.part && y.id == b.id)), parks := s.parks.erase slot,
    sessions := s.sessions.set slot x' } := ⟨_, rfl⟩
  rw [← hv] at hend
  have hdo : doBondStaged x.part id s = v.completeFor r.owner .ok 0 := by
    unfold doBondStaged
    rw [hb]
    dsimp only
    rw [if_pos hbk, hbs, hend]
  have hw : x'.waiting = [] := by
    have hx0 := ses_waiting hc slot
    rw [hx] at hx0
    rw [hx']; exact hx0
  have hcv : v.Calm := by rw [hv]; exact calm_sessions (s := s) hc hw rfl rfl rfl rfl rfl rfl rfl rfl
  obtain ⟨c, h, k', hwr⟩ := writes_post v (r.owner.answer .ok 0) q hsq (by rw [hv]; exact hop)
  have hio : v.Io (v.completeFor r.owner .ok 0) := io_completeFor v r.owner .ok 0 0 (by rw [hsq]; exact fun h => by cases h)
  have hset := ses_set (s := s) (k := slot) (x := x') (t := { s with sessions := s.sessions.set slot x' }) rfl
  have hgone : ∀ y, (s.bonds.filter (fun y => !(y.part == b.part && y.id == b.id))).find? (fun z => z.part == x.part && z.id == id) = some y →
      False := by
    intro y hy
    have h1 := List.find?_some hy
    have h2 := (List.mem_filter.1 (List.mem_of_find?_eq_some hy)).2
    rw [hbp, hid] at h2
    simp_all
  have hwr' : v.Writes (v.completeFor r.owner .ok 0) (.cqe r.owner.fn c (r.owner.answer .ok 0) h k') := hwr
  refine ⟨_, next_event haw hdo (hcv.io hio), ?_⟩
  obtain ⟨z, hz⟩ : ∃ z, z = v.completeFor r.owner .ok 0 := ⟨_, rfl⟩
  rw [← hz] at hio hwr' ⊢
  obtain ⟨l', _, _, _, _, _, hio⟩ := hio
  rw [hv] at hio
  have hwrites : s.Writes z (.cqe r.owner.fn c (r.owner.answer .ok 0) h k') := State.Writes.after (t := v) ⟨l, by rw [hv]⟩ hwr'
  rw [hio] at hwrites ⊢
  exact ⟨rfl, hn, ho, ⟨_, rfl, hset.1.trans hx'⟩, hset.2, hti, hgone, ⟨c, h, k', hwrites⟩,
    l' ++ l, _, _, _, _, _, by simp only [List.append_assoc]; rfl⟩

-- The start of a dressed park (R75, R175) ----------------------------------------------------------------------------------------------------------

/-- The run that a dressed park starts with: it waits for the dressing. -/
def State.dressedRun (s : State) (x : Session) (o : Owner) (h : Hints) (b : Nat) : ParkRun :=
  { owner := o, kind := .dressed, budget := b, prof := s.profile x.part h.profile, decay := s.decayOf x.part, hints := h, dressing := true,
    dressedAny := false, dropped := 0, tiles := [], todo := [], bond := 0, tally := Tally.zero }

/-- SES_PARK as a dressed park starts, where the quarry and the governor take it, its profile is valid and no tile is poisoned (R75, R436). -/
theorem doSesPark_dressed {s : State} {u : Sub} {o : Option Hints} {h : Hints} {x : Session} {b : Nat} (hx : s.ses u.slot = x)
    (hst : x.state = .waiting) (hh : h = o.getD x.hints) (hr : h.inRange = true) (hpriv : x.holdsPrivate = true)
    (hk : s.parkKind x.part h = .dressed)
    (hb : b = s.effBudget x.part (s.profile x.part h.profile).anchor (s.profile x.part h.profile).window (s.profile x.part h.profile).budget)
    (hfull : s.qry.full (s.parkFrames u.slot (s.parkEntries u.slot true b)) = false)
    (hgov : s.govTakes x.part (s.parkBytes u.slot (s.parkEntries u.slot true b)) = true) (hval : (s.profile x.part h.profile).valid = true)
    (hpo : s.poisonedTile u.slot = false) :
    doSesPark u o s = { s with sessions := s.sessions.set u.slot { x with op := .park }, parks := s.parks.set u.slot (s.dressedRun x u.owner h b) } := by
  unfold doSesPark
  dsimp only
  rw [hx, ← hh, if_neg (by simp [hst]), if_neg (by simp [hr])]
  simp only [hpriv, hk, if_true, ← hb, beq_self_eq_true, hfull, hgov, hval]
  simp [hpo, modSes_eq hx]
  rfl

/-- R175: a dressed park waits for the dressing, and changes nothing in the session but its command. -/
theorem exec_sesPark_dressed {s : State} {u : Sub} {o : Option Hints} {h : Hints} {x : Session} {b : Nat} (hc : s.Calm) (ht : s.Takes u (.sesPark o))
    (hq : s.Quiet u.slot) (hx : s.ses u.slot = x) (hst : x.state = .waiting) (hh : h = o.getD x.hints) (hr : h.inRange = true)
    (hpriv : x.holdsPrivate = true) (hk : s.parkKind x.part h = .dressed)
    (hb : b = s.effBudget x.part (s.profile x.part h.profile).anchor (s.profile x.part h.profile).window (s.profile x.part h.profile).budget)
    (hfull : s.qry.full (s.parkFrames u.slot (s.parkEntries u.slot true b)) = false)
    (hgov : s.govTakes x.part (s.parkBytes u.slot (s.parkEntries u.slot true b)) = true) (hval : (s.profile x.part h.profile).valid = true)
    (hpo : s.poisonedTile u.slot = false) :
    ∃ t r, exec (.sesPark u o) s = .next t ∧ t.ses u.slot = { x with op := .park } ∧ (∀ j, j ≠ u.slot → t.ses j = s.ses j) ∧
      t.parks = s.parks.set u.slot r ∧ r.kind = .dressed ∧ r.dressing = true ∧ r.budget = b ∧
      r.prof = s.profile x.part h.profile ∧ r.decay = s.decayOf x.part ∧ r.hints = h ∧
      r.owner = u.owner ∧ s.Io { t with sessions := s.sessions, parks := s.parks } := by
  have hw : x.waiting = [] := by rw [← hx]; exact ses_waiting hc u.slot
  obtain ⟨s', ⟨⟨l, m, sq, cq, bo, ar, rfl⟩, -⟩, hn⟩ := next_quiet ht rfl hq
  have hdo := doSesPark_dressed (s := { s with out := l ++ s.out, pmc := m, sqs := sq, cqs := cq, bounce := bo, arrived := ar }) hx hst hh hr hpriv hk
    hb hfull hgov hval hpo
  have hset := ses_set (s := s) (k := u.slot) (x := { x with op := .park }) (t := { s with sessions := s.sessions.set u.slot { x with op := .park } }) rfl
  exact ⟨_, s.dressedRun x u.owner h b, hn _ hdo (calm_sessions (s := s) hc (x := { x with op := .park }) hw rfl rfl rfl rfl rfl rfl rfl rfl),
    hset.1, hset.2, rfl, rfl, rfl, rfl, rfl, rfl, rfl, rfl, l, _, _, _, _, _, rfl⟩

-- The staging of a cold park (R175, R417, R435) ---------------------------------------------------------------------------------------------------

/-- What a park reads of contexts is the image of the session's main one. -/
theorem park_reads {s : State} {c : AMap (Nat × Nat) Ctx} {slot : Nat} (h : State.mainImg { s with ctxs := c } slot = s.mainImg slot) :
    State.pairsOf { s with ctxs := c } slot = s.pairsOf slot ∧ State.geomOf { s with ctxs := c } slot = s.geomOf slot ∧
      State.headsOf { s with ctxs := c } slot = s.headsOf slot := by
  unfold State.mainImg State.ctx at h
  unfold State.pairsOf State.geomOf State.headsOf State.ctx
  dsimp only [State.ses] at h ⊢
  generalize c.get? _ = y at h ⊢
  generalize s.ctxs.get? _ = z at h ⊢
  cases y with
  | none => cases z with
    | none => exact ⟨rfl, rfl, rfl⟩
    | some z => cases h
  | some y => cases z with
    | none => cases h
    | some z =>
      have himg : y.img = z.img := Option.some.inj h
      dsimp only
      rw [himg]
      exact ⟨rfl, rfl, rfl⟩

theorem parkTiles_congr {s : State} {c : AMap (Nat × Nat) Ctx} {slot : Nat} (h : State.mainImg { s with ctxs := c } slot = s.mainImg slot) (r : ParkRun) :
    State.parkTiles { s with ctxs := c } slot r = s.parkTiles slot r := by
  obtain ⟨hp, hg, hh⟩ := park_reads h
  unfold State.parkTiles State.parkPair State.dressedTiles State.privTiles
  dsimp only
  rw [hp, hg, hh]
  rfl

/-- That a context has done work is no part of its image (R359). -/
theorem mainImg_contextServed (s : State) (p c slot : Nat) : (s.contextServed p c).mainImg slot = s.mainImg slot := by
  unfold State.mainImg State.contextServed State.modCtx State.ctx
  dsimp only
  rw [AMap.get?_modify]
  split
  · next h =>
    rw [show ((s.ses slot).part, (s.ses slot).main) = (p, c) from h]
    cases s.ctxs.get? (p, c) <;> rfl
  · rfl

theorem foldTiles_frame (l : List ((Nat × Tile) × Nat)) : ∀ s : State,
    ∃ ti, l.foldl (fun a tf => { a with tiles := a.tiles.set (.quarry tf.2) tf.1.2 }) s = { s with tiles := ti } := by
  induction l with
  | nil => exact fun s => ⟨s.tiles, rfl⟩
  | cons a l ih =>
    intro s
    obtain ⟨ti, h⟩ := ih { s with tiles := s.tiles.set (.quarry a.2) a.1.2 }
    exact ⟨ti, h⟩

/-- What a park leaves once it is staged under an open bond: tiles, pages, log and root copy have quarry frames (R175 orders 3 and 4). -/
theorem stagePark_stages {s s1 s2 s3 : State} {slot n id d : Nat} {x : Session} {r : ParkRun} {ts : List (Nat × Tile)} {fs gs : List Nat}
    (hx : s.ses slot = x) (hfree : s.bondOf x.part (s.nextBond x.part) = none) (hts : s.parkTiles slot r = (ts, d))
    (hn : n = s.parkFrames slot (ts.map (·.1))) (hfull : s.qry.full n = false) (hroom : s.qryRoom x.part n = true)
    (ho : s.openBond x.part .coldPark slot (some r.owner) true = (id, s1)) (h2 : s1.qStages x.part .tile id ts.length = some (fs, s2))
    (h3 : s2.qStages x.part .quarter id (n - ts.length) = some (gs, s3)) :
    ∃ y q rg ti, y.kind = .coldPark ∧ y.id = id ∧ y.slot = slot ∧ y.actions = coldActs id slot x.mortar.root (fs ++ gs) ∧
      s.stagePark slot r = State.govCharge { s with
        bonds := s.bonds ++ [y], nextSeq := q, regs := rg, tiles := ti, qry := s3.qry, freeCtr := s3.freeCtr,
        parks := s.parks.set slot { r with
          bond := id, tiles := (ts.zip fs).map (fun tf => (tf.1.1, tf.2)), dropped := d, dressing := false, dressedAny := d != 0 } }
        x.part (s.parkBytes slot (ts.map (·.1))) := by
  obtain ⟨y, q, rg, hopen, hid, hk, hsl, hyp, -⟩ := openBond_spec s x.part .coldPark slot (some r.owner) true 0
  have hopen' := hopen
  rw [ho, Prod.mk.injEq] at hopen
  obtain ⟨rfl, rfl⟩ := hopen
  obtain ⟨-, st2, fc2, e2⟩ := qStages_spec _ h2
  obtain ⟨-, st3, fc3, e3⟩ := qStages_spec _ h3
  rw [e2] at e3
  have hacts := stageActs_append (s := s3) (by rw [e3]) hyp hid hfree (coldActs (s.nextBond x.part) slot x.mortar.root (fs ++ gs))
  obtain ⟨ti, hti⟩ := foldTiles_frame (ts.zip fs)
    { s3 with bonds := s.bonds ++ [{ y with actions := coldActs (s.nextBond x.part) slot x.mortar.root (fs ++ gs) }] }
  refine ⟨{ y with actions := coldActs (s.nextBond x.part) slot x.mortar.root (fs ++ gs) }, q, rg, ti, hk, hid, hsl, rfl, ?_⟩
  unfold State.stagePark
  dsimp only
  rw [hx, hts]
  dsimp only
  rw [← hn, if_neg (by simp [hfull]), if_neg (by simp [hroom]), hopen']
  dsimp only
  rw [h2]
  dsimp only
  rw [h3]
  dsimp only
  rw [hacts, hti, e3]

/-- R175, R182: after the dressing a park stages its tiles, pages, log and root copy in the quarry under one bond. -/
theorem exec_dressingDone {s s1 s2 s3 : State} {slot n id d : Nat} {x : Session} {r : ParkRun} {ts : List (Nat × Tile)} {fs gs : List Nat}
    (hc : s.Calm) (haw : s.awake = true) (hx : s.ses slot = x) (hr : s.parks.get? slot = some r) (hdr : r.dressing = true)
    (hup : s.systemUp x.part = true) (hfree : s.bondOf x.part (s.nextBond x.part) = none) (hts : s.parkTiles slot r = (ts, d))
    (hn : n = s.parkFrames slot (ts.map (·.1))) (hfull : s.qry.full n = false) (hroom : s.qryRoom x.part n = true)
    (ho : s.openBond x.part .coldPark slot (some r.owner) true = (id, s1)) (h2 : s1.qStages x.part .tile id ts.length = some (fs, s2))
    (h3 : s2.qStages x.part .quarter id (n - ts.length) = some (gs, s3)) :
    ∃ t r' y, exec (.dressingDone slot) s = .next t ∧ t.sessions = s.sessions ∧ t.parks = s.parks.set slot r' ∧ r'.bond = id ∧ r'.dropped = d ∧
      r'.dressing = false ∧ r'.tiles.map (·.1) = ts.map (·.1) ∧ t.bonds = s.bonds ++ [y] ∧ y.kind = .coldPark ∧ y.id = id ∧
      y.slot = slot ∧ y.actions = coldActs id slot x.mortar.root (fs ++ gs) ∧ t.qry.staged = s3.qry.staged ∧ t.qry.map = s.qry.map ∧
      t.govUsed x.part = s.govUsed x.part + s.parkBytes slot (ts.map (·.1)) ∧
      t = { s with parks := t.parks, ctxs := t.ctxs, bonds := t.bonds, qry := t.qry, tiles := t.tiles, regs := t.regs, nextSeq := t.nextSeq,
                   freeCtr := t.freeCtr } := by
  obtain ⟨_, _, _, ho1, -⟩ := openBond_spec s x.part .coldPark slot (some r.owner) true 0
  rw [ho, Prod.mk.injEq] at ho1
  obtain ⟨hid, hs1⟩ := ho1
  obtain ⟨hfs, _, _, e2⟩ := qStages_spec _ h2
  obtain ⟨-, _, _, e3⟩ := qStages_spec _ h3
  have hq3 : s3.qry.map = s.qry.map ∧ s3.qry.used = s.qry.used := by rw [e3, e2, hs1]; exact ⟨rfl, rfl⟩
  obtain ⟨v, hv⟩ : ∃ v, v = s.contextServed x.part 63 := ⟨_, rfl⟩
  have himg : v.mainImg slot = s.mainImg slot := by rw [hv]; exact mainImg_contextServed ..
  obtain ⟨c, hc'⟩ : ∃ c, v = { s with ctxs := c } := ⟨_, hv⟩
  rw [hc'] at himg
  have hbytes : ∀ es, v.parkBytes slot es = s.parkBytes slot es := by rw [hc']; exact fun _ => rfl
  have hframes : ∀ es, v.parkFrames slot es = s.parkFrames slot es := by rw [hc']; exact fun _ => rfl
  obtain ⟨b, q, rg, ho2, -⟩ := openBond_spec v x.part .coldPark slot (some r.owner) true 0
  have hnx : v.nextBond x.part = id := by rw [hid, hc']; rfl
  rw [hnx] at ho2
  have g2 := qStages_of_eq h2 (t := { v with nextSeq := q, regs := rg, bonds := v.bonds ++ [b] }) (by rw [hs1, hc']) (by rw [hs1, hc'])
  have g3 := qStages_of_eq h3 (t := { v with nextSeq := q, regs := rg, bonds := v.bonds ++ [b], qry := s2.qry, freeCtr := s2.freeCtr }) rfl rfl
  obtain ⟨y, q', rg', ti, hk, hyid, hsl, hact, hst⟩ := stagePark_stages (s := v) (slot := slot) (x := x) (r := r) (n := n)
    (by rw [hc']; exact hx) (by rw [hc']; exact hfree)
    (by rw [hc', parkTiles_congr himg]; exact hts) (by rw [hframes]; exact hn) (by rw [hc']; exact hfull) (by rw [hc']; exact hroom) ho2 g2 g3
  have hdo : doDressingDone slot s = v.stagePark slot r := by
    unfold doDressingDone
    rw [hr]
    dsimp only
    rw [hx, if_pos (by rw [hdr, hup]; rfl), hv]
  rw [hst, hbytes, hc'] at hdo
  refine ⟨_, _, y, next_event haw hdo (hc.of_eq rfl rfl rfl rfl rfl rfl rfl rfl), rfl, rfl, rfl, rfl, rfl, ?_, rfl, hk, hyid, hsl, hact, rfl, hq3.1, ?_, rfl⟩
  · rw [List.map_map]
    calc (ts.zip fs).map (fun tf => tf.1.1) = ((ts.zip fs).map Prod.fst).map (·.1) := by rw [List.map_map]; rfl
      _ = ts.map (·.1) := by rw [List.map_fst_zip (by omega)]
  · show (s3.qry.used.set x.part (s3.qry.used.getD x.part 0 + s.parkBytes slot (ts.map (·.1)))).getD x.part 0 = _
    rw [AMap.getD_set, if_pos rfl, hq3.2]
    rfl

/-- Settles O42: R174 on warm parks, R175 on the start and the staging of a dressed one. -/
theorem parks : Obligations.Parks := by
  intro s hc
  exact ⟨fun u o h x ht hq hx hst hh hr hk hs hl => exec_sesPark_ends hc ht hq hx hst hh hr hk hs hl,
    fun u o h x ht hq hx hst hh hr hk hs hfree => exec_sesPark_opens hc ht hq hx hst hh hr hk hs hfree,
    fun slot k n id x r b e t0 s1 q haw hx hr hb hbk hbs hbp hid htodo hk he hs ht hp ha hl hsq hop =>
      exec_bondStaged hc haw hx hr hb hbk hbs hbp hid htodo hk he hs ht hp ha hl hsq hop,
    fun u o h x b ht hq hx hst hh hr hpriv hk hb hfull hgov hval hpo => exec_sesPark_dressed hc ht hq hx hst hh hr hpriv hk hb hfull hgov hval hpo,
    fun slot x r ts d n id s1 s2 s3 fs gs haw hx hr hdr hup hfree hts hn hfull hroom ho h2 h3 =>
      exec_dressingDone hc haw hx hr hdr hup hfree hts hn hfull hroom ho h2 h3⟩

end Sys2Proof.Machine
end

section
/-!
PROOFS. Prefixes are registered and unregistered, or refused (O34).
-/

namespace Sys2Proof.Machine

open Sys2Proof

-- The frames of a registration (R107) ------------------------------------------------------------------------------------------------------------

section

variable (s : State) (l : List Out) (m : AMap Reg Word64) (a : AMap (Nat × Nat) Sq) (b : AMap (Nat × Nat) Cq) (d : AMap Nat Bounce) (e : List Owner)

theorem regPage_io (p id : Nat) : (s.io l m a b d e).regPage p id = (s.regPage p id).map (fun v => v.io l m a b d e) := by
  unfold State.regPage
  rw [allocMor_io]
  show (if s.regPages.has (p, id / 128) then _ else _) = _
  split
  · rfl
  · cases s.allocMor p ⟨p, .priv, 0, 0, []⟩ <;> rfl

/-- Building a prefix does not look at what a fetch changes. -/
theorem buildPrefix_io (p slot id n full : Nat) (fes pes : List (Nat × MEntry)) :
    (s.io l m a b d e).buildPrefix p slot id n full fes pes =
      (s.buildPrefix p slot id n full fes pes).map (fun x => (x.1, x.2.1, x.2.2.io l m a b d e)) := by
  unfold State.buildPrefix
  rw [regPage_io]
  cases s.regPage p id with
  | none => rfl
  | some v0 =>
    dsimp only [Option.map]
    rw [allocMor_io]
    cases v0.allocMor p ⟨p, .priv, 0, 0, []⟩ with
    | none => rfl
    | some r1 =>
      dsimp only [Option.map]
      rw [growMortar_io]
      cases r1.2.growMortar p 0 (Mortar.empty r1.1) ((fes ++ pes).map (·.1)) with
      | none => rfl
      | some r2 =>
        dsimp only [Option.map]
        rw [allocMors_io]
        cases r2.2.allocMors p ⟨p, .priv, 0, 0, []⟩ (logFramesFor n) with
        | none => rfl
        | some r3 =>
          dsimp only [Option.map]
          rw [shareTiles_io]
          cases r3.2.shareTiles p id fes [] with
          | none => rfl
          | some r4 =>
            dsimp only [Option.map]
            rw [cutTiles_io]
            cases r4.2.cutTiles p id n pes [] <;> rfl

end

/-- The prefix of a registration whose frames are all there (R107 orders 2 to 5). -/
theorem buildPrefix_some {s v0 v1 v2 v3 v4 v5 : State} {p slot id n full root : Nat} {fes pes sh ct : List (Nat × MEntry)} {m : Mortar} {lf : List Nat}
    (h0 : s.regPage p id = some v0) (h1 : v0.allocMor p ⟨p, .priv, 0, 0, []⟩ = some (root, v1))
    (h2 : v1.growMortar p 0 (Mortar.empty root) ((fes ++ pes).map (·.1)) = some (m, v2))
    (h3 : v2.allocMors p ⟨p, .priv, 0, 0, []⟩ (logFramesFor n) = some (lf, v3)) (h4 : v3.shareTiles p id fes [] = some (sh, v4))
    (h5 : v4.cutTiles p id n pes [] = some (ct, v5)) :
    s.buildPrefix p slot id n full fes pes =
      some (⟨(s.ses slot).main, n, full, 1, { m with entries := sh ++ ct }, (s.ses slot).log.take n, lf, s.nextSeq⟩, sh, v5) := by
  unfold State.buildPrefix
  simp only [h0, h1, h2, h3, h4, h5]

/-- After the registry page a registration takes frames and writes tiles (R107 orders 2 to 5). -/
theorem buildPrefix_fw {s v : State} {p slot id n full : Nat} {fes pes sh : List (Nat × MEntry)} {pre : Prefix}
    (h : s.buildPrefix p slot id n full fes pes = some (pre, sh, v)) : ∃ v0, s.regPage p id = some v0 ∧ v0.Fw v := by
  unfold State.buildPrefix at h
  dsimp only at h
  split at h
  · cases h
  · next v0 h0 =>
    split at h
    · cases h
    · next h1 =>
      split at h
      · cases h
      · next h2 =>
        split at h
        · cases h
        · next h3 =>
          split at h
          · cases h
          · next h4 =>
            split at h
            · cases h
            · next h5 =>
              cases h
              exact ⟨v0, h0, (fr_allocMor h1).1.fw.trans ((fr_growMortar h2).fw.trans
                ((fr_allocMors h3).fw.trans ((fw_shareTiles _ h4).trans (fw_cutTiles _ h5))))⟩

/-- The registry page of an entry takes at most one mortar frame (R106). -/
theorem regPage_frame {s v : State} {p id : Nat} (h : s.regPage p id = some v) : ∃ w, s.Fr w ∧ v = { w with regPages := v.regPages } := by
  unfold State.regPage at h
  split at h
  · cases h
    exact ⟨s, .refl s, rfl⟩
  · split at h
    · cases h
    · next n w hw =>
      cases h
      exact ⟨w, (fr_allocMor hw).1, rfl⟩

/-- `t` is `s` but for what building a prefix changes: registry pages, frames, tiles, registers and free values. -/
theorem buildPrefix_frame {s v : State} {p slot id n full : Nat} {fes pes sh : List (Nat × MEntry)} {pre : Prefix}
    (h : s.buildPrefix p slot id n full fes pes = some (pre, sh, v)) : ∃ rp tf mf ti r f l,
      v = { s with regPages := rp, tileFrames := tf, mortarFrames := mf, tiles := ti, regs := r, freeCtr := f, selfRefresh := l } := by
  obtain ⟨v0, h0, g⟩ := buildPrefix_fw h
  obtain ⟨w, ⟨tf, mf, ti, r, f, rfl⟩, hv0⟩ := regPage_frame h0
  obtain ⟨tf', mf', ti', r', f', l', rfl⟩ := g
  exact ⟨v0.regPages, tf', mf', ti', r', f', l', by rw [hv0]⟩

-- What PFX_REGISTER does (R107, R108) ------------------------------------------------------------------------------------------------------------

/-- The mortar entries whose tiles a prefix of n positions shares (R107 order 3). -/
def State.wholeTiles (s : State) (slot n : Nat) : List (Nat × MEntry) :=
  fullEntries (s.ses slot).mortar (s.pairsOf slot) (n / (s.geomOf slot).p)

/-- The mortar entries whose tiles a prefix of n positions cuts (R107 order 4). -/
def State.partTiles (s : State) (slot n : Nat) : List (Nat × MEntry) :=
  if n % (s.geomOf slot).p = 0 then [] else partialEntries (s.ses slot).mortar (s.pairsOf slot) (n / (s.geomOf slot).p)

/-- Whether a registration under an entry finds its frames (R108 order 6, R383). -/
def State.registerRoom (s : State) (slot id n : Nat) : Room :=
  s.room (s.ses slot).part (s.registerNeeds (s.ses slot).part id n (s.wholeTiles slot n) (s.partTiles slot n)).1
    (s.registerNeeds (s.ses slot).part id n (s.wholeTiles slot n) (s.partTiles slot n)).2

/-- The prefix of a session's first n positions under an entry, with its frames. -/
def State.newPrefix (s : State) (slot id n : Nat) : Option (Prefix × AMap Nat MEntry × State) :=
  s.buildPrefix (s.ses slot).part slot id n (n / (s.geomOf slot).p) (s.wholeTiles slot n) (s.partTiles slot n)

theorem newPrefix_io (s : State) (l : List Out) (m : AMap Reg Word64) (a : AMap (Nat × Nat) Sq) (b : AMap (Nat × Nat) Cq) (d : AMap Nat Bounce)
    (e : List Owner) (slot id n : Nat) : (s.io l m a b d e).newPrefix slot id n = (s.newPrefix slot id n).map (fun x => (x.1, x.2.1, x.2.2.io l m a b d e)) :=
  buildPrefix_io s l m a b d e ..

/-- A registration passes what is checked before its frames, and takes an entry (R108 orders 1 to 5). -/
structure State.Registrable (s : State) (slot n id : Nat) : Prop where
  waiting   : (s.ses slot).state = .waiting
  nonempty  : 0 < n
  covered   : n ≤ (s.ses slot).nextPos
  here      : s.awayBelow slot n = false
  undressed : s.dressedBelow slot n = false
  entry     : s.freePfx (s.ses slot).part = some id

theorem State.Registrable.io {s s' : State} {slot n id : Nat} (h : s.Registrable slot n id) (g : s.Io s') : s'.Registrable slot n id := by
  obtain ⟨_, _, _, _, _, _, rfl⟩ := g
  exact ⟨h.1, h.2, h.3, h.4, h.5, h.6⟩

/-- What refuses a registration, with the status of each, in the order of R108. -/
inductive State.RefusesPrefix (s : State) (slot n : Nat) : Status → Prop where
  | state (h : (s.ses slot).state ≠ .waiting) : s.RefusesPrefix slot n .configWrongState
  | range (hw : (s.ses slot).state = .waiting) (h : n = 0 ∨ (s.ses slot).nextPos < n) : s.RefusesPrefix slot n .configPrefixRange
  | away (hw : (s.ses slot).state = .waiting) (h0 : 0 < n) (hn : n ≤ (s.ses slot).nextPos) (h : s.awayBelow slot n = true) :
      s.RefusesPrefix slot n .configWrongState
  | dressed (hw : (s.ses slot).state = .waiting) (h0 : 0 < n) (hn : n ≤ (s.ses slot).nextPos) (ha : s.awayBelow slot n = false)
      (h : s.dressedBelow slot n = true) : s.RefusesPrefix slot n .configPrefixDressed
  | entries (hw : (s.ses slot).state = .waiting) (h0 : 0 < n) (hn : n ≤ (s.ses slot).nextPos) (ha : s.awayBelow slot n = false)
      (hd : s.dressedBelow slot n = false) (h : s.freePfx (s.ses slot).part = none) : s.RefusesPrefix slot n .limitPrefixes
  | room {id : Nat} (hr : s.Registrable slot n id) (h : s.registerRoom slot id n = .refused) : s.RefusesPrefix slot n .quotaLpddr6
  | frames {id : Nat} (hr : s.Registrable slot n id) (hf : s.registerRoom slot id n = .fits) (h : s.newPrefix slot id n = none) :
      s.RefusesPrefix slot n .quotaLpddr6

/-- A fetch leaves what refuses a registration. -/
theorem State.RefusesPrefix.io {s s' : State} {slot n : Nat} {st : Status} (h : s.RefusesPrefix slot n st) (g : s.Io s') : s'.RefusesPrefix slot n st := by
  obtain ⟨_, _, _, _, _, _, rfl⟩ := g
  cases h with
  | state h => exact .state h
  | range hw h => exact .range hw h
  | away hw h0 hn h => exact .away hw h0 hn h
  | dressed hw h0 hn ha h => exact .dressed hw h0 hn ha h
  | entries hw h0 hn ha hd h => exact .entries hw h0 hn ha hd h
  | room hr h => exact .room (hr.io ⟨_, _, _, _, _, _, rfl⟩) h
  | frames hr hf h => exact .frames (hr.io ⟨_, _, _, _, _, _, rfl⟩) hf ((newPrefix_io ..).trans (by rw [h]; rfl))

/-- The session over the prefix of its first n positions, with the entries of the shared tiles (R107). -/
def State.sesOver (s : State) (slot id n : Nat) (pre : Prefix) (shared : List (Nat × MEntry)) : Session :=
  { s.ses slot with
    pfx := id, pfxTiles := n / (s.geomOf slot).p, pfxSeq := pre.seq,
    mortar := { (s.ses slot).mortar with entries := shared.foldl (fun (a : AMap Nat MEntry) kv => a.set kv.1 kv.2) (s.ses slot).mortar.entries } }

/-- Once the frames of a prefix are there, one bond enters it in the registry; its session `x` leaves the prefix it used and becomes `y`, with a
new time of use (R70, R107). -/
def State.enrol (v : State) (slot id : Nat) (x y : Session) (pre : Prefix) : State :=
  (State.bondOnce { v.leavePrefix x with
    prefixes := (v.leavePrefix x).prefixes.set (x.part, id) pre, freeCtr := v.freeCtr + 1, sessions := v.sessions.set slot y } x.part).touch slot

/-- `t` is `v` but for what entering a prefix changes, and a frame of outputs. -/
def State.Enrolled (v : State) (slot id : Nat) (x y : Session) (pre : Prefix) (t : State) : Prop :=
  ∃ q r g c, State.Io { v with
    prefixes := (v.leavePrefix x).prefixes.set (x.part, id) pre, nextSeq := q, regs := r, aon := g, freeCtr := c,
    sessions := v.sessions.set slot { y with lastUse := g } } t

theorem State.Enrolled.after_io {v v' t : State} {slot id : Nat} {x y : Session} {pre : Prefix} (h : v.Io v') (g : v'.Enrolled slot id x y pre t) :
    v.Enrolled slot id x y pre t := by
  obtain ⟨l, m, a, b, d, e, rfl⟩ := h
  obtain ⟨q, r, g, c, h⟩ := g
  exact ⟨q, r, g, c, State.Io.trans ⟨l, m, a, b, d, e, rfl⟩ h⟩

theorem State.Enrolled.io {v t t' : State} {slot id : Nat} {x y : Session} {pre : Prefix} (h : v.Enrolled slot id x y pre t) (g : t.Io t') :
    v.Enrolled slot id x y pre t' := by
  obtain ⟨q, r, g', c, h⟩ := h
  exact ⟨q, r, g', c, h.trans g⟩

theorem State.Enrolled.calm {v t : State} {slot id : Nat} {x y : Session} {pre : Prefix} (h : v.Enrolled slot id x y pre t) (hc : v.Calm)
    (hy : y.waiting = []) : t.Calm := by
  obtain ⟨q, r, g, c, h⟩ := h
  exact State.Calm.io (by exact calm_sessions hc (x := { y with lastUse := g }) hy rfl rfl rfl rfl rfl rfl rfl rfl) h

theorem enrol_spec (v : State) (slot id : Nat) (x y : Session) (pre : Prefix) : v.Enrolled slot id x y pre (v.enrol slot id x y pre) ∧
    (v.enrol slot id x y pre).sqs = v.sqs ∧ (v.enrol slot id x y pre).cqs = v.cqs ∧ ∃ l, (v.enrol slot id x y pre).out = l ++ v.out := by
  obtain ⟨q, r, m, l, g, c, h⟩ := created_frame (v := { v.leavePrefix x with
    prefixes := (v.leavePrefix x).prefixes.set (x.part, id) pre, freeCtr := v.freeCtr + 1, sessions := v.sessions.set slot y })
    (slot := slot) (x := y) (ses_set (s := v) rfl).1 x.part
  unfold State.enrol
  rw [h]
  dsimp only
  rw [AMap.set_set]
  exact ⟨⟨q, r, g, c, l, m, _, _, _, _, rfl⟩, rfl, rfl, l, rfl⟩

section

variable {s v : State} {u : Sub} {n id : Nat}

/-- The checks of R108 before the registry let a registrable prefix pass. -/
theorem State.Registrable.passes {slot : Nat} {α : Type} (h : s.Registrable slot n id) (w x y z r : α) :
    (if (s.ses slot).state ≠ .waiting then w else if n = 0 ∨ (s.ses slot).nextPos < n then x else if s.awayBelow slot n then y
      else if s.dressedBelow slot n then z else r) = r := by
  obtain ⟨hw, h0, hn, ha, hd, -⟩ := h
  rw [if_neg (not_not.mpr hw), if_neg (by omega), ha, if_neg Bool.false_ne_true, hd, if_neg Bool.false_ne_true]

/-- A registration that finds frames ZEROING waits for them (R383). -/
theorem doPfxRegister_waits (h : s.Registrable u.slot n id) (hr : s.registerRoom u.slot id n = .waits) :
    doPfxRegister u n s = s.waitFrames (s.ses u.slot).part u (.pfxRegister n) := by
  unfold State.registerRoom State.wholeTiles State.partTiles at hr
  unfold doPfxRegister
  dsimp only
  rw [h.passes, h.entry]
  dsimp only
  rw [hr]

/-- A registration that finds its frames enters its prefix in one bond (R107). -/
theorem doPfxRegister_fits {pre : Prefix} {sh : AMap Nat MEntry} (h : s.Registrable u.slot n id) (hr : s.registerRoom u.slot id n = .fits)
    (hv : s.newPrefix u.slot id n = some (pre, sh, v)) : doPfxRegister u n s =
      (v.enrol u.slot id (s.ses u.slot) (s.sesOver u.slot id n pre sh) pre).complete u .ok id := by
  unfold State.registerRoom State.wholeTiles State.partTiles at hr
  unfold State.newPrefix State.wholeTiles State.partTiles at hv
  unfold doPfxRegister
  dsimp only
  rw [h.passes, h.entry]
  dsimp only
  rw [hr]
  dsimp only
  rw [hv]
  rfl

/-- The refusals of a registration, in R108's order. -/
theorem doPfxRegister_refuses {st : Status} (h : s.RefusesPrefix u.slot n st) : doPfxRegister u n s = s.complete u st := by
  unfold doPfxRegister
  dsimp only
  cases h with
  | state h => rw [if_pos h]
  | range hw h => rw [if_neg (not_not.mpr hw), if_pos h]
  | away hw h0 hn h => rw [if_neg (not_not.mpr hw), if_neg (by omega), if_pos h]
  | dressed hw h0 hn ha h => rw [if_neg (not_not.mpr hw), if_neg (by omega), if_neg (by simp [ha]), if_pos h]
  | entries hw h0 hn ha hd h => rw [if_neg (not_not.mpr hw), if_neg (by omega), if_neg (by simp [ha]), if_neg (by simp [hd]), h]
  | room h hr =>
    unfold State.registerRoom State.wholeTiles State.partTiles at hr
    rw [h.passes, h.entry]
    dsimp only
    rw [hr]
  | frames h hr hv =>
    unfold State.registerRoom State.wholeTiles State.partTiles at hr
    unfold State.newPrefix State.wholeTiles State.partTiles at hv
    rw [h.passes, h.entry]
    dsimp only
    rw [hr]
    dsimp only
    rw [hv]

end

-- PFX_REGISTER from its fetch to the next state --------------------------------------------------------------------------------------------------

/-- A command of a session that is refused at its start changes nothing. -/
theorem quiet_refuses {s : State} {u : Sub} {c : HostCmd} {st : Status} (hc : s.Calm) (ht : s.Takes u c) (hf : c.writesFlash = false)
    (hq : s.Quiet u.slot) (h : ∀ s', s.Io s' → s'.startHost u c = s'.complete u st) :
    ∃ t, (Host.Outcome.next (s.always (fun x => x.arrive u c)) : Host.Outcome State Fault Refusal) = .next t ∧ s.Posts t u st 0 0 ∧ s.Io t := by
  obtain ⟨s', t, hex, hp, hs, hio⟩ := quiet_acts (st := st) (r := 0) (n := 0) (fun w => w) ht hf hq
    (fun s' hs => ⟨h s' hs, rfl, rfl, ⟨[], rfl⟩, hc.io hs⟩)
  exact ⟨_, hex, hp, (hs.trans hio).kept⟩

section

variable {s : State} {u : Sub} {n id : Nat}

/-- A fetch leaves what a registration builds. -/
theorem newPrefix_fetched {s' v : State} {slot : Nat} {pre : Prefix} {sh : AMap Nat MEntry} (h : s.Io s')
    (hv : s.newPrefix slot id n = some (pre, sh, v)) : ∃ v', s'.newPrefix slot id n = some (pre, sh, v') ∧ v.Io v' ∧
      v'.sqs = s'.sqs ∧ v'.cqs = s'.cqs ∧ v'.out = s'.out := by
  obtain ⟨_, _, _, _, _, _, _, rfl⟩ := buildPrefix_frame hv
  obtain ⟨l, m, a, b, d, e, rfl⟩ := h
  exact ⟨_, (newPrefix_io s (l ++ s.out) m a b d e slot id n).trans (congrArg _ hv), ⟨l, m, a, b, d, e, rfl⟩, rfl, rfl, rfl⟩

/-- R107: a registration that finds its frames completes with its entry, and its prefix is in the registry. -/
theorem exec_pfxRegister {v : State} {pre : Prefix} {sh : AMap Nat MEntry} (hc : s.Calm) (ht : s.Takes u (.pfxRegister n)) (hq : s.Quiet u.slot)
    (h : s.Registrable u.slot n id) (hr : s.registerRoom u.slot id n = .fits) (hv : s.newPrefix u.slot id n = some (pre, sh, v)) :
    ∃ t, exec (.pfxRegister u n) s = .next t ∧ s.Posts t u .ok id 0 ∧
      v.Enrolled u.slot id (s.ses u.slot) (s.sesOver u.slot id n pre sh) pre t := by
  have hvc : v.Calm := by
    obtain ⟨_, _, _, _, _, _, _, rfl⟩ := buildPrefix_frame hv
    exact hc.of_eq rfl rfl rfl rfl rfl rfl rfl rfl
  obtain ⟨w, t, hex, hp, hw, hio⟩ := quiet_done (c := .pfxRegister n) (st := .ok) (r := id) (n := 0)
    (P := v.Enrolled u.slot id (s.ses u.slot) (s.sesOver u.slot id n pre sh) pre) ht rfl hq (fun s' _ hs => by
      obtain ⟨v', hv', hvv, h1, h2, h3⟩ := newPrefix_fetched hs hv
      have hdo := doPfxRegister_fits (h.io hs) (by obtain ⟨_, _, _, _, _, _, rfl⟩ := hs; exact hr) hv'
      have hx : s'.ses u.slot = s.ses u.slot := by obtain ⟨_, _, _, _, _, _, rfl⟩ := hs; rfl
      have hy : s'.sesOver u.slot id n pre sh = s.sesOver u.slot id n pre sh := by obtain ⟨_, _, _, _, _, _, rfl⟩ := hs; rfl
      rw [hx, hy] at hdo
      obtain ⟨he, e1, e2, e3⟩ := enrol_spec v' u.slot id (s.ses u.slot) (s.sesOver u.slot id n pre sh) pre
      have he := he.after_io hvv
      exact ⟨_, hdo, e1.trans h1, e2.trans h2, h3 ▸ e3, he.calm hvc (ses_waiting hc u.slot), he⟩)
  refine ⟨_, hex, hp, ?_⟩
  obtain ⟨_, _, _, _, _, _, _, rfl⟩ := buildPrefix_frame hv
  obtain ⟨q, r, g, c, h⟩ := hw.io hio
  exact ⟨q, r, g, c, h.kept⟩

/-- R383: a registration that finds frames ZEROING joins the commands that wait for frames. -/
theorem exec_pfxRegister_waits (hc : s.Calm) (ht : s.Takes u (.pfxRegister n)) (hq : s.Quiet u.slot) (h : s.Registrable u.slot n id)
    (hr : s.registerRoom u.slot id n = .waits) : ∃ t, exec (.pfxRegister u n) s = .next t ∧ t.allocWait = s.allocWait ++ [(u, .pfxRegister n)] ∧
      s.Io { t with allocWait := s.allocWait, regs := s.regs } := by
  obtain ⟨s', hF, hn⟩ := next_quiet ht rfl hq
  obtain ⟨hs, -⟩ := hF
  have hdo := doPfxRegister_waits (h.io hs) (by obtain ⟨_, _, _, _, _, _, rfl⟩ := hs; exact hr)
  have hcalm : (s'.waitFrames (s'.ses u.slot).part u (.pfxRegister n)).Calm := (hc.io hs).of_eq rfl rfl rfl rfl rfl rfl rfl rfl
  obtain ⟨l, m, a, b, d, e, rfl⟩ := hs
  exact ⟨_, hn _ hdo hcalm, rfl, l, m, a, b, d, e, rfl⟩

/-- R108: a registration that is refused changes nothing. -/
theorem exec_pfxRegister_refused {st : Status} (hc : s.Calm) (ht : s.Takes u (.pfxRegister n)) (hq : s.Quiet u.slot)
    (h : s.RefusesPrefix u.slot n st) : ∃ t, exec (.pfxRegister u n) s = .next t ∧ s.Posts t u st 0 0 ∧ s.Io t :=
  quiet_refuses hc ht rfl hq (fun _ hs => doPfxRegister_refuses (h.io hs))

end

-- PFX_UNREGISTER (R114) ----------------------------------------------------------------------------------------------------------------------------

section

variable {s : State} {u : Sub} {p id : Nat} {r : Prefix}

/-- An unregistered prefix leaves the registry; its own mortar and log frames are ZEROING (R114). -/
theorem unregister_frame (h : s.prefixes.get? (p, id) = some r) : State.Fr { s with prefixes := s.prefixes.erase (p, id) } (s.unregister p id) ∧
    ∀ n ∈ r.mortar.root :: r.mortar.pageFrames ++ r.logFrames, (s.unregister p id).Zeroed n := by
  unfold State.unregister
  rw [h]
  dsimp only
  have hfold := foldl_keeps State.Fr .refl (fun _ _ _ => .trans) (fun a (kv : Nat × MEntry) => a.unholdFrame kv.2.frame) fr_unhold r.mortar.entries
    { s with prefixes := s.prefixes.erase (p, id) }
  refine ⟨hfold.trans ((fr_freeMors ..).trans (fr_freeMors ..)), fun n hn => zeroed_freeMors _ _ n ?_⟩
  exact (List.mem_append.1 hn).symm.imp_right (fun h => zeroed_freeMors _ _ n (.inl h))

theorem doPfxUnregister_unregisters (hv : u.resv = false) (hh : s.prefixes.has (s.subPart u, id) = true)
    (hw : s.createWaits (s.subPart u) id = false) : doPfxUnregister u id s = ((s.bondOnce (s.subPart u)).unregister (s.subPart u) id).complete u .ok := by
  simp [doPfxUnregister, hv, hh, hw]

theorem doPfxUnregister_waits (hv : u.resv = false) (hh : s.prefixes.has (s.subPart u, id) = true)
    (hw : s.createWaits (s.subPart u) id = true) : doPfxUnregister u id s = s.waitBond (s.subPart u) noSlot u (.pfxUnregister id) := by
  simp [doPfxUnregister, hv, hh, hw]

theorem doPfxUnregister_unknown (hv : u.resv = false) (hh : s.prefixes.has (s.subPart u, id) = false) :
    doPfxUnregister u id s = s.complete u .configPrefixUnknown := by
  simp [doPfxUnregister, hv, hh]

/-- What the bond of an unregister and the release of its frames leave. -/
theorem bondOnce_unregister_frame (h : s.prefixes.get? (p, id) = some r) : ∃ q m l tf mf ti rg f,
    (s.bondOnce p).unregister p id = { s with prefixes := s.prefixes.erase (p, id), nextSeq := q, pmc := m, out := l ++ s.out, tileFrames := tf,
                                              mortarFrames := mf, tiles := ti, regs := rg, freeCtr := f } := by
  obtain ⟨q, rg, m, l, hb⟩ := bnd_bondOnce s p
  rw [hb]
  obtain ⟨⟨tf, mf, ti, rg', f, hfr⟩, -⟩ := unregister_frame (s := { s with nextSeq := q, regs := rg, pmc := m, out := l ++ s.out }) h
  exact ⟨q, m, l, tf, mf, ti, rg', f, hfr⟩

/-- R114: an unregistered prefix is gone, and its mortar and log frames pass through ZEROING. -/
theorem exec_pfxUnregister (hc : s.Calm) (ht : s.Takes u (.pfxUnregister id)) (hv : u.resv = false) (hp : s.subPart u = p)
    (hr : s.prefixes.get? (p, id) = some r) (hw : s.createWaits p id = false) :
    ∃ t, exec (.pfxUnregister u id) s = .next t ∧ s.Posts t u .ok 0 0 ∧ t.prefixes = s.prefixes.erase (p, id) ∧ t.sessions = s.sessions ∧
      (∀ n ∈ r.mortar.root :: r.mortar.pageFrames ++ r.logFrames, t.Zeroed n) ∧
      s.Io { t with prefixes := s.prefixes, mortarFrames := s.mortarFrames, tileFrames := s.tileFrames, tiles := s.tiles, regs := s.regs,
                    nextSeq := s.nextSeq, freeCtr := s.freeCtr } := by
  subst hp
  have hhas : s.prefixes.has (s.subPart u, id) = true := by rw [AMap.has, hr]; rfl
  obtain ⟨s', t, hex, hpost, hs, hio⟩ := host_acts (st := .ok) (r := 0) (n := 0) (fun w => (w.bondOnce (s.subPart u)).unregister (s.subPart u) id)
    ht rfl rfl (fun s' hs => by
      obtain ⟨l0, pm, sq, cq, bo, ar, rfl⟩ := hs
      obtain ⟨q, m, l, tf, mf, ti, rg, f, hfr⟩ := bondOnce_unregister_frame
        (s := { s with out := l0 ++ s.out, pmc := pm, sqs := sq, cqs := cq, bounce := bo, arrived := ar }) hr
      refine ⟨doPfxUnregister_unregisters hv hhas hw, ?_⟩
      dsimp only
      rw [hfr]
      exact ⟨rfl, rfl, ⟨l, rfl⟩, hc.of_eq rfl rfl rfl rfl rfl rfl rfl rfl⟩)
  have hr' : (s'.bondOnce (s.subPart u)).prefixes.get? (s.subPart u, id) = some r := by
    obtain ⟨_, _, _, _, hb⟩ := bnd_bondOnce s' (s.subPart u)
    obtain ⟨_, _, _, _, _, _, rfl⟩ := hs
    rw [hb]
    exact hr
  obtain ⟨-, hz⟩ := unregister_frame hr'
  obtain ⟨l0, pm, sq, cq, bo, ar, rfl⟩ := hs
  obtain ⟨q, m, l, tf, mf, ti, rg, f, hfr⟩ := bondOnce_unregister_frame
    (s := { s with out := l0 ++ s.out, pmc := pm, sqs := sq, cqs := cq, bounce := bo, arrived := ar }) hr
  rw [hfr] at hio hz
  obtain ⟨l1, pm', sq', cq', bo', ar', rfl⟩ := hio
  exact ⟨_, hex, hpost, rfl, rfl, hz, l1 ++ (l ++ l0), pm', sq', cq', bo', ar', by simp only [List.append_assoc]; rfl⟩

/-- A command whose bond waits joins those at order 2; a full region is counted (R457). -/
theorem waitBond_frame (s : State) (p slot : Nat) (u : Sub) (c : HostCmd) : ∃ rg,
    s.waitBond p slot u c = { s with regs := rg, bondWaits := s.bondWaits ++ [⟨p, slot, u, c⟩] } := by
  unfold State.waitBond
  dsimp only
  split
  · exact ⟨_, rfl⟩
  · exact ⟨_, rfl⟩

/-- Log entry 66: an unregister waits behind a SES_CREATE that has reached the entry. -/
theorem exec_pfxUnregister_waits (hc : s.Calm) (ht : s.Takes u (.pfxUnregister id)) (hv : u.resv = false) (hp : s.subPart u = p)
    (hh : s.prefixes.has (p, id) = true) (hw : s.createWaits p id = true) :
    ∃ t, exec (.pfxUnregister u id) s = .next t ∧ t.bondWaits = s.bondWaits ++ [⟨p, noSlot, u, .pfxUnregister id⟩] ∧
      s.Io { t with bondWaits := s.bondWaits, regs := s.regs } := by
  subst hp
  obtain ⟨s', ⟨hs, -⟩, hn⟩ := next_host ht rfl rfl
  have hdo : doPfxUnregister u id s' = s'.waitBond (s.subPart u) noSlot u (.pfxUnregister id) := by
    obtain ⟨_, _, _, _, _, _, rfl⟩ := hs
    exact doPfxUnregister_waits hv hh hw
  obtain ⟨rg, hfr⟩ := waitBond_frame s' (s.subPart u) noSlot u (.pfxUnregister id)
  obtain ⟨l, m, a, b, d, e, rfl⟩ := hs
  exact ⟨_, hn _ (hdo.trans hfr) (hc.of_eq rfl rfl rfl rfl rfl rfl rfl rfl), rfl, l, m, a, b, d, e, rfl⟩

/-- R114: a prefix that is not registered is refused. -/
theorem exec_pfxUnregister_unknown (hc : s.Calm) (ht : s.Takes u (.pfxUnregister id)) (hv : u.resv = false)
    (hr : s.prefixes.get? (s.subPart u, id) = none) :
    ∃ t, exec (.pfxUnregister u id) s = .next t ∧ s.Posts t u .configPrefixUnknown 0 0 ∧ s.Io t :=
  host_refuses hc ht rfl rfl (fun s' hs => by
    obtain ⟨_, _, _, _, _, _, rfl⟩ := hs
    exact doPfxUnregister_unknown hv (by rw [AMap.has]; exact congrArg Option.isSome hr))

end

/-- Settles O34: PFX_REGISTER follows R107, R108 and R383, PFX_UNREGISTER R114 and log entry 66. -/
theorem prefixes : Obligations.Prefixes := by
  intro s u hc
  refine ⟨?_, ?_, ?_, fun id p r ht hv hp hr hw => ?_, fun id p ht hv hp hh hw => exec_pfxUnregister_waits hc ht hv hp hh hw,
    fun id p ht hv hp hr => exec_pfxUnregister_unknown hc ht hv (hp ▸ hr)⟩
  · rintro n _ id _ root _ _ _ lf m sh ct v0 v1 v2 v3 v4 v5 ht hq rfl rfl hst h0 hn ha hd hid rfl rfl rfl hroom hv0 hv1 hv2 hv3 hv4 hv5
    have hv : s.newPrefix u.slot id n = _ := buildPrefix_some hv0 hv1 hv2 hv3 hv4 hv5
    obtain ⟨t, hex, hpost, q, r, g, c, hio⟩ := exec_pfxRegister hc ht hq ⟨hst, h0, hn, ha, hd, hid⟩ hroom hv
    obtain ⟨w0, hw0, hfw⟩ := buildPrefix_fw hv
    obtain rfl : w0 = v0 := Option.some.inj (hw0.symm.trans hv0)
    have hpages : v5.regPages = w0.regPages := by obtain ⟨_, _, _, _, _, _, rfl⟩ := hfw; rfl
    obtain ⟨rp, tf, mf, ti, r0, f, sr, rfl⟩ := buildPrefix_frame hv
    obtain ⟨l, pm, sq, cq, bo, ar, rfl⟩ := hio
    exact ⟨_, hex, hpost, AMap.get?_set_same .., hpages, rfl, rfl, rfl, (ses_set rfl).1, (ses_set rfl).2, l, pm, sq, cq, bo, ar, rfl⟩
  · rintro n _ id _ _ _ _ ht hq rfl rfl hst h0 hn ha hd hid rfl rfl rfl hroom
    exact exec_pfxRegister_waits hc ht hq ⟨hst, h0, hn, ha, hd, hid⟩ hroom
  · rintro n _ _ _ _ _ st ht hq rfl rfl rfl rfl rfl hst
    refine exec_pfxRegister_refused hc ht hq ?_
    rcases hst with ⟨h, rfl⟩ | ⟨hw, ⟨h, rfl⟩ | ⟨h0, hn, ⟨h, rfl⟩ | ⟨ha, ⟨h, rfl⟩ | ⟨hd, ⟨h, rfl⟩ | ⟨id, hid, rfl, h | ⟨hf, h⟩⟩⟩⟩⟩⟩
    · exact .state h
    · exact .range hw h
    · exact .away hw h0 hn h
    · exact .dressed hw h0 hn ha h
    · exact .entries hw h0 hn ha hd h
    · exact .room ⟨hw, h0, hn, ha, hd, hid⟩ h
    · exact .frames ⟨hw, h0, hn, ha, hd, hid⟩ hf h
  · obtain ⟨t, hex, hpost, hpre, hses, hz, hio⟩ := exec_pfxUnregister hc ht hv hp hr hw
    exact ⟨t, hex, hpost, by rw [hpre]; exact AMap.get?_erase_same .., fun k hk => by rw [hpre]; exact AMap.get?_erase_other _ hk, hses, hz, hio⟩

end Sys2Proof.Machine
end

section
/-!
PROOFS. What the checks of messages and the service of slices say and leave (O26, O27).
-/

namespace Sys2Proof.Machine

open Sys2Proof

-- Events and messages -----------------------------------------------------------------------------------------------------------------------

/-- An event that leaves the device calm and touches neither the flash nor the queue of commands has its own effect and no other. -/
theorem next_event_own {s t : State} {f : State → State} (hw : s.awake = true) (h : f s = t) (hc : t.Calm) (hf : t.flash = s.flash)
    (hp : t.pending = s.pending) : (Host.Outcome.next (s.event f) : Host.Outcome State Fault Refusal) = .next t := by
  have hk : s.kept t = t := by unfold State.kept; rw [← hf, ← hp]
  rw [next_event hw h hc, hk]

/-- A handle without a forwarding entry is answered with its own status (R583). -/
theorem movedHint_none {s : State} {w : Word64} (h : s.forwardOf w = none) (st : Status) : s.movedHint st w = (st, none) := by
  unfold State.movedHint
  rw [h]
  exact ite_self _

-- Serving and the sessions --------------------------------------------------------------------------------------------------------------------

@[simp] theorem capture_sessions (s : State) (p : Nat) (h : Word64) (pos layer head g : Nat) (ps : List Nat) (rows : List (List Nat)) :
    (s.capture p h pos layer head g ps rows).sessions = s.sessions := by
  obtain ⟨r, o, c, b, e⟩ := capture_frame s p h pos layer head g ps rows
  rw [e]

@[simp] theorem addMasses_sessions (s : State) (d n : Nat) (ts : List ReadTile) (xs : List Nat) :
    (s.addMasses d n ts xs).sessions = s.sessions := by
  obtain ⟨a, e⟩ := srv_addMasses d n ts s xs
  rw [e]

/-- Serving a head stores one session at most: that of the request, with what the head has read (R386). -/
theorem serveHead_sessions (s : State) (q : Req) (c : CtxImage) (mode : Nat) (sl : Slice) (h : Nat) :
    (s.serveHead q c mode sl h).2.sessions = s.sessions ∨
      ∃ l, (s.serveHead q c mode sl h).2.sessions = s.sessions.set q.slot { s.ses q.slot with sliceRead := l } := by
  obtain ⟨l, hl⟩ := wakeEntries_frame (s.readTiles q c (sl.layer * c.heads + h)) s
  unfold State.serveHead
  dsimp only
  rw [hl]
  simp only [apply_ite State.sessions, capture_sessions, modReq_sessions, addMasses_sessions, ite_self]
  by_cases hf : q.onFallback = true
  · exact .inl (if_pos hf)
  · exact .inr ⟨_, if_neg hf⟩

theorem serveHead_calm {s : State} (hc : s.Calm) (q : Req) (c : CtxImage) (mode : Nat) (sl : Slice) (h : Nat) :
    (s.serveHead q c mode sl h).2.Calm := by
  have hses := serveHead_sessions s q c mode sl h
  obtain ⟨⟨⟨r, x, a, g, m, o, cs, b, l, e⟩, -⟩, -⟩ := serveHead_frame s q c mode sl h
  rw [e] at hses ⊢
  rcases hses with hs | ⟨y, hs⟩
  · exact hc.of_eq hs rfl rfl rfl rfl rfl rfl rfl
  · exact calm_sessions hc (k := q.slot) (x := { s.ses q.slot with sliceRead := y }) (ses_waiting hc q.slot) hs rfl rfl rfl rfl rfl rfl rfl

theorem serveHeads_calm (c : CtxImage) (mode : Nat) (sl : Slice) (hs : List Nat) : ∀ {s : State} (q : Req), s.Calm →
    (s.serveHeads q c mode sl hs).2.Calm := by
  induction hs with
  | nil => intro s q hc; exact hc
  | cons h r ih => intro s q hc; exact ih _ (serveHead_calm hc q c mode sl h)

theorem count_calm {s : State} (hc : s.Calm) (e : PmcEv) : (s.count e).Calm := by
  obtain ⟨m, l, h⟩ := count_frame s e
  rw [h]
  exact hc.of_eq rfl rfl rfl rfl rfl rfl rfl rfl

theorem sendTo_calm {s : State} (hc : s.Calm) (i part epoch comp : Nat) (w : Word64) (tag : Nat) (c : CtxClass) (b : MsgBody) :
    (s.sendTo i part epoch comp w tag c b).Calm := by
  obtain ⟨p, h⟩ := sendTo_frame s i part epoch comp w tag c b
  rw [h]
  exact hc.of_eq rfl rfl rfl rfl rfl rfl rfl rfl

theorem serveSlice_calm {s : State} (hc : s.Calm) (w : SliceWork) (batched : Bool) : (s.serveSlice w batched).Calm := by
  have h0 : State.Calm { s with slices := s.slices.filter (fun v => v != w) } := hc.of_eq rfl rfl rfl rfl rfl rfl rfl rfl
  unfold State.serveSlice
  dsimp only
  split
  · exact h0
  · next q _ =>
    split
    · exact h0
    · next c _ =>
      have h1 := count_calm (serveHeads_calm c w.massMode w.slice (List.range' w.slice.kvFirst w.slice.kvCount) q h0)
      refine sendTo_calm ?_ ..
      split
      · exact count_calm (h1 _) _
      · exact h1 _

theorem serveReady_calm {s : State} (hc : s.Calm) (p : Nat) (w : SliceWork) : (s.serveReady p [w]).Calm := by
  unfold State.serveReady
  refine serveSlice_calm (count_calm ?_ _) w _
  split
  · exact hc.of_eq rfl rfl rfl rfl rfl rfl rfl rfl
  · exact hc

-- A slice whose tiles are there (R137, R138) ------------------------------------------------------------------------------------------------------

theorem workEntries_eq {s : State} {w : SliceWork} {q : Req} {c : CtxImage} (hq : s.req w.slot = some q) (hc : s.modelOf q = some c) :
    s.workEntries w = sliceEntries (s.entriesOf q) c w.slice := by
  unfold State.workEntries
  rw [hq]
  dsimp only
  rw [hc]

/-- A slice whose tiles can all be read waits for none of them. -/
theorem readable_here {s : State} {w : SliceWork} (h : ∀ kv ∈ s.workEntries w, s.Readable w.part kv.2) :
    (s.workEntries w).any (fun kv => kv.2.away) = false := by
  rw [List.any_eq_false]
  intro kv hk
  simp [(h kv hk).here]

/-- A slice whose tiles can all be read starts at once. -/
theorem startSlices_readable {s : State} {w : SliceWork} (h : ∀ kv ∈ s.workEntries w, s.Readable w.part kv.2) :
    s.startSlices w.part [w] = s.serveReady w.part [w] := by
  have hown : (s.workPlaces w).any (fun l => !(s.ownPlace w.part l)) = false := by
    rw [List.any_eq_false]
    intro l hl
    obtain ⟨kv, hk, hl⟩ := List.mem_filterMap.1 hl
    simp [(h kv hk).own l hl]
  have hsound : (s.workEntries w).any (fun kv => s.poisonedData kv.2) = false := by
    rw [List.any_eq_false]; intro kv hk; simp [(h kv hk).sound]
  simp [State.startSlices, hown, hsound, readable_here h]

/-- What the request of a slice has once the slice is served: its heads are served, and every pending key and value stands with a mass. -/
def Req.AfterSlice (q q' : Req) (sl : Slice) : Prop :=
  q'.served = q.served ++ (List.range' sl.kvFirst sl.kvCount).map (fun k => (sl.layer, k)) ∧
  ∀ k pd, q.pending.get? k = some pd → ∃ m, q'.pending.get? k = some { pd with mass := m }

/-- The output slice with vectors that answers a slice. -/
def Slice.output (sl : Slice) (st : Status) (o : List (List Nat)) : MsgBody :=
  .output ⟨sl.handle, sl.pos, sl.layer, sl.kvFirst, sl.kvCount, st, o, none⟩

/-- A slice whose tiles can all be read is served and answered, and nothing else follows. -/
theorem startSlices_serves {s : State} {w : SliceWork} {q : Req} {c : CtxImage} {p : Peer} {x : Port} (hcalm : s.Calm)
    (hq : s.req w.slot = some q) (hs : q.slot = w.slot) (hg : q.phase = .generating) (hc : s.modelOf q = some c)
    (hp : s.peers.get? w.peer = some p) (hx : s.ports.get? p.port = some x) (hu : x.up = true)
    (he : ∀ kv ∈ sliceEntries (s.entriesOf q) c w.slice, s.Readable w.part kv.2) :
    ∃ t o q', s.startSlices w.part [w] = t ∧ t.Calm ∧ t.slices = s.slices.filter (fun y => y != w) ∧ t.req w.slot = some q' ∧
      q.AfterSlice q' w.slice ∧
      s.Says t p.port ⟨p.fabric, w.part, q.epoch, q.comp, w.slice.handle, w.tag, w.slice.output .ok o⟩ (s.ctxClass q.part q.model) ∧
      (∀ k, ∃ y, t.ses k = { s.ses k with sliceRead := y }) ∧
      t = { s with slices := t.slices, reqs := t.reqs, sessions := t.sessions, tiles := t.tiles, regs := t.regs, pmc := t.pmc, out := t.out,
                   capSeq := t.capSeq, bounce := t.bounce, selfRefresh := t.selfRefresh, ports := t.ports } := by
  obtain ⟨v, o, q', hstart, ⟨⟨r, xs, a, g, m, ou, cs, b, l, rfl⟩, hses⟩, hreq, hserved, hpend⟩ := startSlices_frame hq hs hg hc he
  have hcalm' : (s.startSlices w.part [w]).Calm := by
    rw [startSlices_readable (by rw [workEntries_eq hq hc]; exact he)]
    exact serveReady_calm hcalm _ _
  obtain ⟨hsays, hports⟩ := says_sendTo (s := { s with
    slices := s.slices.filter (fun y => y != w), reqs := r, sessions := xs, tiles := a, regs := g, pmc := m, out := ou, capSeq := cs, bounce := b
    selfRefresh := l }) hp hx hu w.part q.epoch q.comp w.slice.handle w.tag
    (s.ctxClass q.part q.model) (w.slice.output .ok o) (fun h => by cases h)
  have hstart' := hstart.trans hports
  rw [hports] at hsays
  rw [hstart'] at hcalm'
  exact ⟨_, o, q', hstart', hcalm', rfl, hreq, ⟨by rw [hserved], hpend⟩, hsays, hses, rfl⟩

end Sys2Proof.Machine
end

section
/-!
PROOFS. How a slice is served, answered or refused, and how a tile is promoted (O26).
-/

namespace Sys2Proof.Machine

open Sys2Proof

-- A stalled slice (R138) --------------------------------------------------------------------------------------------------------------------------

/-- The one waiting slice starts once none of its tiles is away. -/
theorem doTileAvailable_starts {s : State} {w : SliceWork} (hs : s.slices = [w]) (hst : w.stalled = true)
    (h : ∀ kv ∈ s.workEntries w, s.Readable w.part kv.2) : doTileAvailable w.slot s = s.startSlices w.part [w] := by
  simp [doTileAvailable, hs, hst, readable_here h]

theorem exec_tileAvailable_serves {s : State} {w : SliceWork} {q : Req} {c : CtxImage} {p : Peer} {x : Port} (hcalm : s.Calm) (ha : s.awake = true)
    (hw : s.slices = [w]) (hst : w.stalled = true) (hq : s.req w.slot = some q) (hs : q.slot = w.slot) (hg : q.phase = .generating)
    (hc : s.modelOf q = some c) (hp : s.peers.get? w.peer = some p) (hx : s.ports.get? p.port = some x) (hu : x.up = true)
    (he : ∀ kv ∈ sliceEntries (s.entriesOf q) c w.slice, s.Readable w.part kv.2) :
    ∃ t o q', exec (.tileAvailable w.slot) s = .next t ∧ t.slices = [] ∧ t.req w.slot = some q' ∧
      q'.served = q.served ++ (List.range' w.slice.kvFirst w.slice.kvCount).map (fun k => (w.slice.layer, k)) ∧
      s.Says t p.port ⟨p.fabric, w.part, q.epoch, q.comp, w.slice.handle, w.tag, w.slice.output .ok o⟩ (s.ctxClass q.part q.model) ∧
      (∀ k, ∃ y, t.ses k = { s.ses k with sliceRead := y }) ∧
      t = { s with slices := [], reqs := t.reqs, sessions := t.sessions, tiles := t.tiles, regs := t.regs, pmc := t.pmc, out := t.out,
                   capSeq := t.capSeq, bounce := t.bounce, selfRefresh := t.selfRefresh, ports := t.ports } := by
  obtain ⟨t, o, q', hstart, hcalm', hsl, hreq, ⟨hserved, -⟩, hsays, hses, hfr⟩ := startSlices_serves hcalm hq hs hg hc hp hx hu he
  have hdo : doTileAvailable w.slot s = t :=
    (doTileAvailable_starts hw hst (by rw [workEntries_eq hq hc]; exact he)).trans hstart
  have hnil : t.slices = [] := by rw [hsl, hw]; simp
  refine ⟨t, o, q', next_event_own ha hdo hcalm' ?_ ?_, hnil, hreq, hserved, hsays, hses, hnil ▸ hfr⟩
  · rw [hfr]
  · rw [hfr]

-- A slice that passes its checks (R127, R128, R147) -------------------------------------------------------------------------------------------------

/-- A query message of one slice is that slice, checked, from its sender. -/
theorem doQueryMessage_heard {s : State} {h : Hdr} {i : Nat} {p : Peer} {sl : Slice} (hh : s.Hears h 1 false (s.queryBytes h.handle [sl]) i p)
    (h1 : sl.handle = h.handle) (h2 : sl.epoch = h.epoch) : doQueryMessage (some h) [sl] s = (s.peerSeen i).querySlice (some h) i sl := by
  unfold doQueryMessage
  dsimp only
  rw [hh.receive, ← h1, ← h2]
  rfl

theorem querySlice_accepts {s : State} {h : Hdr} {sl : Slice} {q : Req} (i : Nat) (hk : s.checkSlice (some h) (some h.part) sl = .inr q) :
    s.querySlice (some h) i sl = s.acceptSlice q i h.tag sl := by
  unfold State.querySlice
  dsimp only [Option.map_some]
  rw [hk]

/-- A pending buffer in which the keys and values of some heads of a layer are stored (R128). -/
def storePending (layer : Nat) (heads : List Nat) (kvs : List (List Nat × List Nat)) (m : AMap (Nat × Nat) Pend) : AMap (Nat × Nat) Pend :=
  (heads.zip kvs).foldl (fun (a : AMap (Nat × Nat) Pend) p => a.set (layer, p.1) ⟨p.2.1, p.2.2, 0⟩) m

theorem storePending_cons (layer head : Nat) (heads : List Nat) (kv : List Nat × List Nat) (kvs : List (List Nat × List Nat))
    (m : AMap (Nat × Nat) Pend) :
    storePending layer (head :: heads) (kv :: kvs) m = storePending layer heads kvs (m.set (layer, head) ⟨kv.1, kv.2, 0⟩) := rfl

/-- Storing keys and values of some heads leaves those of the heads before them. -/
theorem storePending_before {layer head : Nat} (n : Nat) : ∀ (first : Nat) (kvs : List (List Nat × List Nat)) (m : AMap (Nat × Nat) Pend),
    head < first → (storePending layer (List.range' first n) kvs m).get? (layer, head) = m.get? (layer, head) := by
  induction n with
  | zero => intro first kvs m _; rfl
  | succ n ih =>
    intro first kvs m hlt
    cases kvs with
    | nil => rfl
    | cons kv kvs =>
      rw [List.range'_succ, storePending_cons, ih (first + 1) kvs _ (Nat.lt_succ_of_lt hlt)]
      exact AMap.get?_set_other _ _ (by simp [Nat.ne_of_lt hlt])

/-- Each of the heads has the key and value stored for it. -/
theorem storePending_get? {layer : Nat} {k v : List Nat} (n : Nat) : ∀ (first : Nat) (kvs : List (List Nat × List Nat)) (m : AMap (Nat × Nat) Pend)
    (j : Nat), j < n → kvs[j]? = some (k, v) →
    (storePending layer (List.range' first n) kvs m).get? (layer, first + j) = some ⟨k, v, 0⟩ := by
  induction n with
  | zero => intro first kvs m j hj _; exact absurd hj (Nat.not_lt_zero j)
  | succ n ih =>
    intro first kvs m j hj hkv
    cases kvs with
    | nil => cases hkv
    | cons kv kvs =>
      rw [List.range'_succ, storePending_cons]
      cases j with
      | zero =>
        cases hkv
        exact (storePending_before n (first + 1) kvs _ (Nat.lt_succ_self first)).trans (AMap.get?_set_same ..)
      | succ j =>
        rw [Nat.add_comm j 1, ← Nat.add_assoc]
        exact ih (first + 1) kvs _ j (Nat.lt_of_succ_lt_succ hj) hkv

/-- A request whose pending buffer holds the keys and values of a slice (R128). -/
def Req.withSlice (q : Req) (sl : Slice) : Req :=
  { q with pending := storePending sl.layer (List.range' sl.kvFirst sl.kvCount) (sl.k.zip sl.v) q.pending }

theorem withSlice_pending (q : Req) {sl : Slice} {j : Nat} {k v : List Nat} (hj : j < sl.kvCount) (hk : sl.k[j]? = some k) (hv : sl.v[j]? = some v) :
    (q.withSlice sl).pending.get? (sl.layer, sl.kvFirst + j) = some ⟨k, v, 0⟩ :=
  storePending_get? sl.kvCount sl.kvFirst (sl.k.zip sl.v) q.pending j hj (List.getElem?_zip_eq_some.2 ⟨hk, hv⟩)

/-- A slice of a request, as it waits to be served. -/
def State.sliceWork (s : State) (q : Req) (peer tag : Nat) (sl : Slice) (batch : Option Nat) : SliceWork :=
  ⟨q.slot, q.part, peer, tag, sl, batch, false, s.massMode q.part⟩

/-- A state in which a slice's keys and values are stored and the slice is in service. -/
def State.withSlice (s : State) (q : Req) (sl : Slice) (w : SliceWork) : State :=
  { s.setReq q.slot (q.withSlice sl) with slices := s.slices ++ [w] }

theorem acceptSlice_alone {s : State} {q : Req} {sl : Slice} (peer tag : Nat) (hk : s.sliceKey q sl = none) :
    s.acceptSlice q peer tag sl = (s.withSlice q sl (s.sliceWork q peer tag sl none)).startSlices q.part [s.sliceWork q peer tag sl none] := by
  have hk' : (s.setReq q.slot (q.withSlice sl)).sliceKey q sl = none := hk
  unfold State.acceptSlice
  dsimp only
  simp only [Req.withSlice, storePending] at hk'
  rw [hk']
  rfl

theorem acceptSlice_joins {s : State} {q : Req} {sl : Slice} {k : BatchKey} (peer tag : Nat) (hk : s.sliceKey q sl = some k) :
    s.acceptSlice q peer tag sl = (s.setReq q.slot (q.withSlice sl)).joinBatch q.part k
      (fun id t => { t with slices := t.slices ++ [s.sliceWork q peer tag sl (some id)] }) [] := by
  have hk' : (s.setReq q.slot (q.withSlice sl)).sliceKey q sl = some k := hk
  unfold State.acceptSlice
  dsimp only
  simp only [Req.withSlice, storePending] at hk'
  rw [hk']
  rfl

/-- Where no batch of its key is open, and a batch may hold more than one, a slice opens one (R147). -/
theorem joinBatch_opens {s : State} {p : Nat} {k : BatchKey} {w : Nat → SliceWork} (hs : s.slices = []) (hw : ∀ id, (w id).batch = some id)
    (hb : s.batchOf k = none) (hm : 1 < s.batchMax p) :
    s.joinBatch p k (fun id t => { t with slices := t.slices ++ [w id] }) [] =
      { s with slices := [w s.nextBatch], batches := s.batches.set s.nextBatch ⟨k, []⟩, nextBatch := s.nextBatch + 1 } := by
  obtain ⟨v, hv⟩ : ∃ v : State, v = { s with
    slices := [w s.nextBatch], batches := s.batches.set s.nextBatch ⟨k, []⟩, nextBatch := s.nextBatch + 1 } := ⟨_, rfl⟩
  have hsize : v.batchSize s.nextBatch = 1 := by
    rw [hv]
    simp [State.batchSize, hw]
  have hmax : v.batchMax p = s.batchMax p := by rw [hv]; rfl
  unfold State.joinBatch
  rw [hb]
  dsimp only
  rw [hs, List.nil_append, ← hv, hsize, hmax, if_neg (Nat.not_le_of_lt hm)]

section

variable {s : State} {h : Hdr} {i : Nat} {p : Peer} {sl : Slice} (hcalm : s.Calm) (ha : s.awake = true)
  (hh : s.Hears h 1 false (s.queryBytes h.handle [sl]) i p) (h1 : sl.handle = h.handle) (h2 : sl.epoch = h.epoch)
include hcalm ha hh h1 h2

/-- R128, R137: a slice that passes its checks and is not batched has its keys and values stored, is served and answered. -/
theorem exec_queryMessage_serves {q : Req} {c : CtxImage} {x : Port} (hk : s.checkSlice (some h) (some h.part) sl = .inr q) (hw : s.slices = [])
    (hc : s.modelOf q = some c) (hg : q.phase = .generating) (hkey : s.sliceKey q sl = none)
    (hx : s.ports.get? p.port = some x) (hu : x.up = true)
    (he : ∀ kv ∈ sliceEntries (s.entriesOf q) c sl, s.Readable q.part kv.2) :
    ∃ t o q', exec (.queryMessage (some h) [sl]) s = .next t ∧ t.slices = [] ∧ t.req q.slot = some q' ∧
      q'.served = q.served ++ (List.range' sl.kvFirst sl.kvCount).map (fun k => (sl.layer, k)) ∧
      (∀ j k v, j < sl.kvCount → sl.k[j]? = some k → sl.v[j]? = some v → ∃ m, q'.pending.get? (sl.layer, sl.kvFirst + j) = some ⟨k, v, m⟩) ∧
      s.Says t p.port ⟨p.fabric, q.part, q.epoch, q.comp, h.handle, h.tag,
        .output ⟨h.handle, sl.pos, sl.layer, sl.kvFirst, sl.kvCount, .ok, o, none⟩⟩ (s.ctxClass q.part q.model) ∧
      (∀ k, ∃ y, t.ses k = { s.ses k with sliceRead := y }) ∧
      t = { s with reqs := t.reqs, sessions := t.sessions, tiles := t.tiles, regs := t.regs, pmc := t.pmc, out := t.out, capSeq := t.capSeq,
                   bounce := t.bounce, selfRefresh := t.selfRefresh, ports := t.ports, peers := t.peers, aon := t.aon, freeCtr := t.freeCtr } := by
  obtain ⟨-, -, hpeer⟩ := peerSeen_frame hh.entry
  have hdo : doQueryMessage (some h) [sl] s = (s.peerSeen i).acceptSlice q i h.tag sl := by
    rw [doQueryMessage_heard hh h1 h2]
    exact querySlice_accepts i (by rw [checkSlice_seen hh.entry]; exact hk)
  rw [acceptSlice_alone i h.tag (show (s.peerSeen i).sliceKey q sl = none from hkey)] at hdo
  obtain ⟨w, hwork⟩ : ∃ w, w = (s.peerSeen i).sliceWork q i h.tag sl none := ⟨_, rfl⟩
  rw [← hwork] at hdo
  have hreq : ((s.peerSeen i).withSlice q sl w).req w.slot = some (q.withSlice sl) := by rw [hwork]; exact AMap.get?_set_same ..
  have hcalm' : ((s.peerSeen i).withSlice q sl w).Calm := hcalm.of_eq rfl rfl rfl rfl rfl rfl rfl rfl
  obtain ⟨t, o, q', hstart, hcalm2, hsl, hreq', ⟨hserved, hpend⟩, hsays, hses, hfr⟩ := startSlices_serves (c := c)
    (p := { p with lastUse := (s.peerSeen i).aon, pings := 0 }) hcalm' hreq (by rw [hwork]; rfl) hg hc (by rw [hwork]; exact hpeer) hx hu
    (by rw [hwork]; exact fun kv hkv => ⟨(he kv hkv).here, (he kv hkv).sound, (he kv hkv).own⟩)
  have hnil : t.slices = [] := by
    rw [hsl]
    show (s.slices ++ [w]).filter _ = []
    rw [hw]
    simp
  have hdo' : doQueryMessage (some h) [sl] s = t := by
    rw [hdo, ← hstart, hwork]
    rfl
  rw [hwork] at hreq' hserved hsays
  rw [← h1]
  refine ⟨t, o, q', next_event_own ha hdo' hcalm2 ?_ ?_, hnil, hreq', hserved, ?_, hsays, hses, ?_⟩
  · rw [hfr]; rfl
  · rw [hfr]; rfl
  · intro j k v hj hkj hvj
    exact hpend _ _ (withSlice_pending q hj hkj hvj)
  · rw [hnil] at hfr
    rw [hfr, ← hw]
    rfl

/-- R147: a slice that has a batch key opens a batch where none of that key is open. -/
theorem exec_queryMessage_batches {q : Req} {k : BatchKey} (hk : s.checkSlice (some h) (some h.part) sl = .inr q) (hw : s.slices = [])
    (hkey : s.sliceKey q sl = some k) (hb : s.batchOf k = none) (hm : 1 < s.batchMax q.part) :
    ∃ t q', exec (.queryMessage (some h) [sl]) s = .next t ∧
      t.slices = [⟨q.slot, q.part, i, h.tag, sl, some s.nextBatch, false, s.massMode q.part⟩] ∧ t.req q.slot = some q' ∧
      (∀ j k v, j < sl.kvCount → sl.k[j]? = some k → sl.v[j]? = some v → q'.pending.get? (sl.layer, sl.kvFirst + j) = some ⟨k, v, 0⟩) ∧
      t = { s with slices := t.slices, reqs := t.reqs, batches := s.batches.set s.nextBatch ⟨k, []⟩, nextBatch := s.nextBatch + 1,
                   peers := t.peers, aon := t.aon, freeCtr := t.freeCtr } := by
  have hdo : doQueryMessage (some h) [sl] s = (s.peerSeen i).acceptSlice q i h.tag sl := by
    rw [doQueryMessage_heard hh h1 h2]
    exact querySlice_accepts i (by rw [checkSlice_seen hh.entry]; exact hk)
  rw [acceptSlice_joins i h.tag (show (s.peerSeen i).sliceKey q sl = some k from hkey), 
    joinBatch_opens (s := (s.peerSeen i).setReq q.slot (q.withSlice sl)) (w := fun id => (s.peerSeen i).sliceWork q i h.tag sl (some id)) hw
      (fun _ => rfl) hb hm] at hdo
  exact ⟨_, q.withSlice sl, next_event_own ha hdo (hcalm.of_eq rfl rfl rfl rfl rfl rfl rfl rfl) rfl rfl, rfl, AMap.get?_set_same ..,
    fun j k v hj hkj hvj => withSlice_pending q hj hkj hvj, rfl⟩

/-- R127: a slice that fails a check is answered with the status, and changes nothing. -/
theorem exec_queryMessage_refuses {st : Status} {x : Port} (hk : s.checkSlice (some h) (some h.part) sl = .inl st) (hf : s.forwardOf h.handle = none)
    (hx : s.ports.get? p.port = some x) (hu : x.up = true) :
    ∃ t, exec (.queryMessage (some h) [sl]) s = .next t ∧
      s.Says t p.port ⟨p.fabric, h.part, h.epoch, h.comp, h.handle, h.tag,
        .output ⟨h.handle, sl.pos, sl.layer, sl.kvFirst, sl.kvCount, st, [], none⟩⟩ (s.classOfHandle h.handle) ∧
      t = { s with ports := t.ports, peers := t.peers, aon := t.aon, freeCtr := t.freeCtr } := by
  obtain ⟨-, -, hpeer⟩ := peerSeen_frame hh.entry
  have hdo : doQueryMessage (some h) [sl] s =
      (s.peerSeen i).sendTo i h.part h.epoch h.comp sl.handle h.tag ((s.peerSeen i).classOfHandle sl.handle) (sl.output st []) := by
    rw [doQueryMessage_heard hh h1 h2]
    unfold State.querySlice
    dsimp only [Option.map_some]
    rw [checkSlice_seen hh.entry, hk]
    dsimp only
    rw [movedHint_none (show (s.peerSeen i).forwardOf sl.handle = none by rw [h1]; exact hf)]
    rfl
  obtain ⟨hsays, hports⟩ := says_sendTo hpeer hx hu h.part h.epoch h.comp sl.handle h.tag ((s.peerSeen i).classOfHandle sl.handle)
    (sl.output st []) (fun h => by cases h)
  rw [hports] at hsays
  rw [← h1]
  exact ⟨_, next_event_own ha (hdo.trans hports) (hcalm.of_eq rfl rfl rfl rfl rfl rfl rfl rfl) rfl rfl, hsays, rfl⟩

end

-- Promotion (R386) ----------------------------------------------------------------------------------------------------------------------------------

/-- A session whose tile `k` of LPDDR6, which a slice has read, has moved to a place of its home core (R386). -/
def Session.promoted (x : Session) (k core o : Nat) (e : MEntry) : Session :=
  { x with
    mortar := { x.mortar with entries := x.mortar.entries.set k { e with tier := .store, frame := storeFrame core o } }
    sliceRead := x.sliceRead.filter (fun (j : Nat) => j != k) }

/-- The tile of a frame, moved to a place of a tile store with what poison it carries. -/
def State.raiseTile (s : State) (e : MEntry) (core o : Nat) (t : Tile) : State :=
  (((s.wakeEntry e).freeTile e.frame).putTile (.store core o) t).setPoison (.store core o) (s.poisonAt (.frame e.frame))

theorem wakeEntry_frame (s : State) (e : MEntry) : ∃ l, s.wakeEntry e = { s with selfRefresh := l } := by
  unfold State.wakeEntry
  split
  · exact wakeTile_frame s _
  · exact ⟨s.selfRefresh, rfl⟩

/-- The tile stands at its new place, the frame that it leaves is ZEROING (R394). -/
theorem raiseTile_frame (s : State) (e : MEntry) (core o : Nat) (t : Tile) : ∃ ti tf co sr,
    s.raiseTile e core o t = { s with tiles := ti, tileFrames := tf, cores := co, selfRefresh := sr } ∧ ti.get? (.store core o) = some t ∧
      ∀ f, tf.get? e.frame = some f → f.state = .zeroing := by
  obtain ⟨sr, hwake⟩ := wakeEntry_frame s e
  obtain ⟨tf, ti, hfree⟩ := freeTile_exact (s.wakeEntry e) e.frame
  have hz := zeroing_freeTile (s.wakeEntry e) e.frame e.frame (.inl rfl)
  rw [hfree] at hz
  unfold State.raiseTile
  rw [hfree, hwake]
  exact ⟨_, tf, _, sr, rfl, AMap.get?_set_same .., hz⟩

/-- What R386 asks of a promotion: an unshared, sound tile of LPDDR6 that a slice of a live session has read, and promotion switched on. -/
structure State.Promotable (s : State) (slot k : Nat) (e : MEntry) : Prop where
  entry : (s.ses slot).mortar.entries.get? k = some e
  tier  : e.tier = .lpddr
  own   : e.shared = false
  read  : k ∈ (s.ses slot).sliceRead
  sound : s.poisonedEntry e = false
  on    : s.flag Fld.MEM_PLACE_PROMOTE (s.ses slot).part = true
  live  : (s.ses slot).state = .active ∨ (s.ses slot).state = .waiting ∨ (s.ses slot).state = .pulling
  stays : (s.ses slot).op ≠ .park ∧ (s.ses slot).op ≠ .moveOut

theorem doPromotion_raises {s : State} {slot k core o : Nat} {e : MEntry} {t : Tile} (h : s.Promotable slot k e)
    (hcore : s.homeCore slot (colOf (s.pairsOf slot) k) = some core)
    (hplace : s.storePlace (s.ses slot).part (s.ses slot).main core = some o) (ht : s.tileAt e = some t) :
    doPromotion slot k s = ((s.raiseTile e core o t).modSes slot (fun y => y.promoted k core o e)).bondOnce (s.ses slot).part := by
  have hlive : ((s.ses slot).state == .active || (s.ses slot).state == .waiting || (s.ses slot).state == .pulling) = true := by
    simpa [or_assoc] using h.live
  unfold doPromotion
  dsimp only
  rw [h.entry, hcore]
  dsimp only
  rw [if_neg (by simp [h.on, h.read, h.tier, h.own, h.sound, h.stays, hlive]), hplace, ht]
  rfl

theorem exec_promotion {s : State} {slot k core o : Nat} {e : MEntry} {t0 : Tile} (hc : s.Calm) (ha : s.awake = true)
    (h : s.Promotable slot k e) (hcore : s.homeCore slot (colOf (s.pairsOf slot) k) = some core)
    (hplace : s.storePlace (s.ses slot).part (s.ses slot).main core = some o) (ht : s.tileAt e = some t0) :
    ∃ t, exec (.promotion slot k) s = .next t ∧
      (t.ses slot).mortar.entries.get? k = some { e with tier := .store, frame := storeFrame core o } ∧ t.tiles.get? (.store core o) = some t0 ∧
      (∀ f, t.tileFrames.get? e.frame = some f → f.state = .zeroing) ∧ (∀ j, j ≠ slot → t.ses j = s.ses j) ∧
      t = { s with sessions := t.sessions, tiles := t.tiles, tileFrames := t.tileFrames, cores := t.cores, regs := t.regs,
                   nextSeq := t.nextSeq, selfRefresh := t.selfRefresh, pmc := t.pmc, out := t.out } := by
  obtain ⟨ti, tf, co, sr, hraise, hti, htf⟩ := raiseTile_frame s e core o t0
  obtain ⟨n, r, m, l, hbond⟩ := bnd_bondOnce ((s.raiseTile e core o t0).modSes slot (fun y => y.promoted k core o e)) (s.ses slot).part
  have hdo := (doPromotion_raises h hcore hplace ht).trans hbond
  rw [hraise] at hdo
  have hset := ses_set (s := s) (k := slot) (x := (s.ses slot).promoted k core o e)
    (t := { s with sessions := s.sessions.set slot ((s.ses slot).promoted k core o e) }) rfl
  refine ⟨_, next_event_own ha hdo (calm_sessions hc (k := slot) (x := (s.ses slot).promoted k core o e) (ses_waiting hc slot) rfl rfl rfl rfl rfl rfl
    rfl rfl) rfl rfl, ?_, hti, htf, hset.2, rfl⟩
  exact (congrArg (fun x : Session => x.mortar.entries.get? k) hset.1).trans (AMap.get?_set_same ..)

/-- Settles O26: slices are served, batched, answered or refused by R127 to R147, and tiles are promoted by R386. -/
theorem attentionService : Obligations.AttentionService := by
  intro s hc ha
  refine ⟨fun w q c p x hw hst hq hs hg hm hp hx hu he => exec_tileAvailable_serves hc ha hw hst hq hs hg hm hp hx hu he,
    fun h i p sl q c x hh h1 h2 hk hw hm _ hg => ⟨fun hkey hx hu he => exec_queryMessage_serves hc ha hh h1 h2 hk hw hm hg hkey hx hu he,
      fun k hkey hb hmax _ => exec_queryMessage_batches hc ha hh h1 h2 hk hw hkey hb hmax⟩,
    fun h i p sl st x hh h1 h2 hk hf hx hu => exec_queryMessage_refuses hc ha hh h1 h2 hk hf hx hu,
    fun slot k core o e t0 he ht hsh hr hpo hcore hon hlive hop hmv hplace htile =>
      exec_promotion hc ha ⟨he, ht, hsh, hr, hpo, hon, hlive, hop, hmv⟩ hcore hplace htile⟩

end Sys2Proof.Machine
end

section
/-!
PROOFS. The experts of a context and their batches (O27).
-/

namespace Sys2Proof.Machine

open Sys2Proof

/-- The context of a served packet has done work (R359), and no other context changes. -/
theorem contextServed_ctxs {s : State} {p n : Nat} {d : Ctx} (hd : s.ctx p n = some d) : ∃ m, s.contextServed p n = { s with ctxs := m } ∧
    m.get? (p, n) = some { d with idleDowns := 0 } ∧ ∀ j, j ≠ (p, n) → m.get? j = s.ctxs.get? j := by
  have hm : s.ctxs.modify (p, n) (fun x => { x with idleDowns := 0 }) = s.ctxs.set (p, n) { d with idleDowns := 0 } := AMap.modify_some hd _
  exact ⟨_, rfl, by rw [hm]; exact AMap.get?_set_same .., fun j hj => by rw [hm]; exact AMap.get?_set_other _ _ hj⟩

/-- R152: a packet whose expert is loaded is answered with the expert's output. -/
theorem serveExpert_answers {s : State} {w : ExpertWork} {q : Req} {d : Ctx} {y : Expert} {p : Peer} {x : Port} (hq : s.generating w.slot = some q)
    (hd : s.ctx w.part w.ctx = some d) (hy : d.img.experts.get? (w.pkt.layer * 256 + w.pkt.expert) = some y)
    (hp : s.peers.get? w.peer = some p) (hx : s.ports.get? p.port = some x) (hu : x.up = true) :
    ∃ a m, s.serveExpert w = { s with ports := a, ctxs := m } ∧
      s.Says { s with ports := a, ctxs := m } p.port ⟨p.fabric, w.part, q.epoch, q.comp, w.pkt.handle, w.tag,
        .expertAnswer w.pkt .ok (expertOut y w.pkt.gate.toNat w.pkt.x)⟩ (s.ctxClass q.part q.main) ∧
      m.get? (w.part, w.ctx) = some { d with idleDowns := 0 } ∧ ∀ j, j ≠ (w.part, w.ctx) → m.get? j = s.ctxs.get? j := by
  obtain ⟨hsays, -⟩ := says_sendTo hp hx hu w.part q.epoch q.comp w.pkt.handle w.tag (s.ctxClass q.part q.main)
    (.expertAnswer w.pkt .ok (expertOut y w.pkt.gate.toNat w.pkt.x)) (fun h => by cases h)
  obtain ⟨a, hsend⟩ := sendTo_frame s w.peer w.part q.epoch q.comp w.pkt.handle w.tag (s.ctxClass q.part q.main)
    (.expertAnswer w.pkt .ok (expertOut y w.pkt.gate.toNat w.pkt.x))
  obtain ⟨m, hserved, hctx, hothers⟩ := contextServed_ctxs (s := { s with ports := a }) hd
  rw [hsend] at hsays
  refine ⟨a, m, ?_, hsays, hctx, hothers⟩
  unfold State.serveExpert
  rw [hq, hd]
  dsimp only
  rw [hy]
  dsimp only
  rw [hsend]
  exact hserved

/-- An expert message is its packet, checked, from its sender. -/
theorem doExpertMessage_heard {s : State} {h : Hdr} {i : Nat} {p : Peer} {k : ExpertPkt} (hne : k.x ≠ []) (hlen : k.x.length ≤ 16384)
    (hh : s.Hears h 3 false (some (48 + 2 * k.x.length)) i p) (h1 : k.handle = h.handle) (h2 : k.epoch = h.epoch) :
    doExpertMessage h k s = (s.peerSeen i).expertPacket h i k := by
  have hsize : (k.x.isEmpty || decide (16384 < k.x.length)) = false := by simp [hne, hlen]
  unfold doExpertMessage
  rw [hsize, if_neg Bool.false_ne_true, hh.receive, ← h1, ← h2]

/-- R151: a packet that passes its checks for an expert of a context that is READY is run. -/
theorem expertPacket_runs {s : State} {h : Hdr} {i n : Nat} {k : ExpertPkt} {q : Req} {c : CtxImage} {d : Ctx}
    (hk : s.checkStep (some h) (some h.part) k.handle k.epoch k.pos = .inr q) (hm : s.modelOf q = some c) (hl : k.layer < c.layers)
    (hpos : k.pos = s.stepPos q) (he : s.expertCtx q.part k.layer k.expert = some (n, d)) (hr : d.state = .ready) :
    s.expertPacket h i k = s.runExpert ⟨q.slot, q.part, i, h.tag, n, k⟩ := by
  unfold State.expertPacket
  dsimp only
  rw [hk]
  dsimp only
  rw [hm]
  dsimp only
  rw [if_neg (Nat.not_le_of_lt hl), if_neg (by simp [hpos]), he]
  dsimp only
  rw [hr]

theorem runExpert_unbatched {s : State} {w : ExpertWork} (h : s.fld Fld.ATT_CFG_BATCH_WINDOW w.part = 0) : s.runExpert w = s.serveExpert w := by
  unfold State.runExpert
  rw [h]
  rfl

/-- R153: a batch of one packet that closes serves it. -/
theorem closeBatch_expert {s : State} {b p n l e : Nat} {w : ExpertWork} (h : s.batches.get? b = some ⟨.experts p n l e, [w]⟩) :
    s.closeBatch b = State.serveExpert { s with batches := s.batches.erase b } w := by
  unfold State.closeBatch
  rw [h]
  rfl

/-- Settles O27: a packet for a loaded expert is answered by R152, at once or when its batch closes (R153). -/
theorem experts : Obligations.Experts := by
  intro s hc ha
  constructor
  · intro h i n p k q c d y x hne hlen hh h1 h2 hk hm hl hpos he hr hd hy hw hg hx hu
    obtain ⟨-, -, hpeer⟩ := peerSeen_frame hh.entry
    obtain ⟨a, m, hserve, hsays, hctx, hothers⟩ := serveExpert_answers (s := s.peerSeen i) (w := ⟨q.slot, q.part, i, h.tag, n, k⟩) hg hd hy hpeer hx hu
    have hdo : doExpertMessage h k s = { s.peerSeen i with ports := a, ctxs := m } := by
      rw [doExpertMessage_heard hne hlen hh h1 h2,
        expertPacket_runs (s := s.peerSeen i) (by rw [checkStep_seen hh.entry]; exact hk) hm hl hpos he hr, runExpert_unbatched hw, hserve]
    rw [← h1]
    exact ⟨_, next_event_own ha hdo (hc.of_eq rfl rfl rfl rfl rfl rfl rfl rfl) rfl rfl, hsays, hctx, hothers, rfl⟩
  · intro b p0 n l e w q d y p x hb hg hd hy hp hx hu
    obtain ⟨a, m, hserve, hsays, hctx, hothers⟩ := serveExpert_answers (s := { s with batches := s.batches.erase b }) hg hd hy hp hx hu
    have hdo : doAttBatchWindowExpiry b s = { s with batches := s.batches.erase b, ports := a, ctxs := m } := (closeBatch_expert hb).trans hserve
    exact ⟨_, next_event_own ha hdo (hc.of_eq rfl rfl rfl rfl rfl rfl rfl rfl) rfl rfl, rfl, hsays, hctx, hothers, rfl⟩

end Sys2Proof.Machine
end

section
/-!
PROOFS. SES_MOVE at its source: checks, staging and the offer (O55).
-/

namespace Sys2Proof.Machine

open Sys2Proof

-- What a fetch leaves of the frames of a move ---------------------------------------------------------------------------------------------------

section

variable (s : State) (l : List Out) (m : AMap Reg Word64) (a : AMap (Nat × Nat) Sq) (b : AMap (Nat × Nat) Cq) (d : AMap Nat Bounce) (e : List Owner)

theorem allocTiles_io (p : Nat) (f : Frame) (n : Nat) : ∀ s : State,
    (s.io l m a b d e).allocTiles p f n = (s.allocTiles p f n).map (fun x => (x.1, x.2.io l m a b d e)) := by
  induction n with
  | zero => exact fun s => rfl
  | succ n ih =>
    intro s
    unfold State.allocTiles
    rw [allocTile_io]
    cases s.allocTile p f with
    | none => rfl
    | some r =>
      dsimp only [Option.map]
      rw [ih]
      cases r.2.allocTiles p f n <;> rfl

theorem demote_io (slot k : Nat) : (s.io l m a b d e).demote slot k = (s.demote slot k).map (fun v => v.io l m a b d e) := by
  unfold State.demote
  dsimp only
  rw [show (s.io l m a b d e).ses slot = s.ses slot from rfl]
  cases (s.ses slot).mortar.entries.get? k with
  | none => rfl
  | some y =>
    dsimp only
    split
    · rfl
    · rw [allocTile_io, show (s.io l m a b d e).tileAt y = s.tileAt y from rfl]
      cases s.tileAt y with
      | none => rfl
      | some t =>
        cases s.allocTile (s.ses slot).part ⟨(s.ses slot).part, .priv, 0, slot, []⟩ with
        | none => rfl
        | some r =>
          dsimp only [Option.map]
          rw [copyTile_io]
          rfl

theorem demoteAll_io (slot : Nat) (ks : List Nat) : ∀ s : State,
    (s.io l m a b d e).demoteAll slot ks = (s.demoteAll slot ks).map (fun v => v.io l m a b d e) := by
  induction ks with
  | nil => exact fun s => rfl
  | cons k ks ih =>
    intro s
    unfold State.demoteAll
    rw [demote_io]
    cases s.demote slot k with
    | none => rfl
    | some v => exact ih v

end

-- Tile-store tiles move to LPDDR6 (R118) -----------------------------------------------------------------------------------------------------------

/-- The entries at `ks` named tile-store tiles, and name frames of LPDDR6 now; the others are as they were (R118). -/
def Lowered (ks : List Nat) (es es' : AMap Nat MEntry) : Prop :=
  ∀ k, if k ∈ ks then ∃ e n, es.get? k = some e ∧ e.tier = .store ∧ es'.get? k = some { e with tier := .lpddr, frame := n }
    else es'.get? k = es.get? k

theorem Lowered.cons {k n : Nat} {ks : List Nat} {es es' : AMap Nat MEntry} {e : MEntry} (he : es.get? k = some e) (ht : e.tier = .store)
    (h : Lowered ks (es.set k { e with tier := .lpddr, frame := n }) es') : Lowered (k :: ks) es es' := by
  intro j
  have hj := h j
  by_cases hjk : j = k
  · subst hjk
    rw [if_pos (List.mem_cons_self ..)]
    split at hj
    · obtain ⟨e', _, he', ht', -⟩ := hj
      rw [AMap.get?_set_same] at he'
      cases he'
      cases ht'
    · exact ⟨e, n, he, ht, by rw [hj, AMap.get?_set_same]⟩
  · simpa only [AMap.get?_set_other _ _ hjk, List.mem_cons, hjk, false_or] using hj

/-- What copying a tile into a frame of LPDDR6 changes. -/
theorem copyTile_lpddr (s : State) (x : TileLoc) (n : Nat) (t : Tile) : ∃ tf ti sr,
    s.copyTile x (.frame n) t = { s with tileFrames := tf, tiles := ti, selfRefresh := sr } := by
  obtain ⟨sr, h⟩ := wakeTile_frame (State.setPoison { s with tiles := s.tiles.set (.frame n) t } (.frame n) []) n
  refine ⟨((s.copyTile x (.frame n) t)).tileFrames, s.tiles.set (.frame n) t, sr, ?_⟩
  unfold State.copyTile State.putTile
  dsimp only
  rw [h]
  rfl

/-- What a tile that moves to LPDDR6 changes. -/
theorem demote_some {s t : State} {slot k : Nat} (h : s.demote slot k = some t) : ∃ e n tf ti sr rg fc,
    (s.ses slot).mortar.entries.get? k = some e ∧ e.tier = .store ∧ t = { s with
      tileFrames := tf, tiles := ti, selfRefresh := sr, regs := rg, freeCtr := fc, sessions := s.sessions.set slot ((s.ses slot).demoted k n e) } := by
  unfold State.demote at h
  dsimp only at h
  split at h
  · cases h
  · next e he =>
    split at h
    · cases h
    · next hs =>
      split at h
      · next t0 n s1 _ ha =>
        obtain ⟨a, fc, rg, rfl⟩ := allocTile_exact ha
        obtain ⟨tf, ti, sr, hcopy⟩ := copyTile_lpddr { s with tileFrames := a, freeCtr := fc, regs := rg } (.store (storeCore e.frame) (storeOff e.frame)) n t0
        rw [hcopy] at h
        exact ⟨e, n, tf, _, sr, rg, fc, he, not_not.1 hs, (Option.some.inj h).symm⟩
      · cases h

/-- What the tiles of a session that move to LPDDR6 change: their entries, in that session. -/
theorem demoteAll_some {slot : Nat} (ks : List Nat) : ∀ {s t : State}, s.demoteAll slot ks = some t → ∃ tf ti sr rg fc se es,
    t = { s with tileFrames := tf, tiles := ti, selfRefresh := sr, regs := rg, freeCtr := fc, sessions := se } ∧
      (∀ y, se.set slot y = s.sessions.set slot y) ∧ Lowered ks (s.ses slot).mortar.entries es ∧
      t.ses slot = { s.ses slot with mortar := { (s.ses slot).mortar with entries := es } } := by
  induction ks with
  | nil =>
    intro s t h
    cases h
    exact ⟨_, _, _, _, _, _, (s.ses slot).mortar.entries, rfl, fun _ => rfl, fun k => by simp, rfl⟩
  | cons k ks ih =>
    intro s t h
    unfold State.demoteAll at h
    split at h
    · cases h
    · next s1 h1 =>
      obtain ⟨e, n, tf, ti, sr, rg, fc, he, hs, rfl⟩ := demote_some h1
      obtain ⟨tf', ti', sr', rg', fc', se, es, ht, hse, hes, hses⟩ := ih h
      have hx := (ses_set (s := s) (k := slot) (x := (s.ses slot).demoted k n e) (t := { s with
        tileFrames := tf, tiles := ti, selfRefresh := sr, regs := rg, freeCtr := fc,
        sessions := s.sessions.set slot ((s.ses slot).demoted k n e) }) rfl).1
      rw [hx] at hes hses
      exact ⟨tf', ti', sr', rg', fc', se, es, ht, fun y => (hse y).trans (AMap.set_set ..), .cons he hs hes, hses⟩

-- What SES_MOVE does at its start (R199 orders 1 and 2) ------------------------------------------------------------------------------------------

/-- A session in a state from which it may move, and its target: an admitted peer of its partition (R59, R199). -/
structure State.Movable (s : State) (slot peer : Nat) (y : Peer) : Prop where
  state    : (s.ses slot).state = .waiting ∨ (s.ses slot).state = .parked
  entry    : s.peers.get? peer = some y
  admitted : y.state = .admitted
  part     : bitOf y.parts (s.ses slot).part = true

/-- A fetch leaves what a move checks of the session and its target. -/
theorem State.Movable.io {s s' : State} {slot peer : Nat} {y : Peer} (h : s.Movable slot peer y) (g : s.Io s') : s'.Movable slot peer y := by
  obtain ⟨_, _, _, _, _, _, rfl⟩ := g
  exact ⟨h.1, h.2, h.3, h.4⟩

/-- The move that SES_MOVE writes at its source once its tile-store tiles are in LPDDR6 and its quarry tiles have staging frames `fs` (R199). -/
def State.moveRecord (s : State) (x : Session) (u : Sub) (peer epoch : Nat) (fs : List Nat) : MoveOut :=
  { fn := u.fn, sq := u.sq, tag := u.tag, peer := peer, epoch := epoch, parked := x.state == .parked,
    offered := (s.ses u.slot).mortar.entries.map (fun kv => (kv.1, AMap.getD ((x.inTier .quarry).zip fs) kv.1 kv.2.frame)),
    staging := (x.inTier .quarry).zip fs, target := none, confirmed := false, wireTag := s.freeCtr, asks := [], filled := [] }

/-- The session is MOVING under the record of its move, in one bond (R199 order 1). -/
def State.beginMove (s : State) (slot : Nat) (m : MoveOut) : State :=
  let v := (s.recordBond slot).modSes slot (fun y => { y with state := .moving, op := .moveOut, movePeer := m.peer, moveEpoch := m.epoch })
  { v with movesOut := v.movesOut.set slot m, freeCtr := v.freeCtr + 1 }

theorem beginMove_frame (s : State) (slot : Nat) (m : MoveOut) : ∃ n r pm l, s.beginMove slot m = { s with
    nextSeq := n, regs := r, pmc := pm, out := l ++ s.out, movesOut := s.movesOut.set slot m, freeCtr := s.freeCtr + 1,
    sessions := s.sessions.set slot { s.ses slot with state := .moving, op := .moveOut, movePeer := m.peer, moveEpoch := m.epoch } } := by
  obtain ⟨n, r, pm, l, h⟩ := bnd_recordBond s slot
  refine ⟨n, r, pm, l, ?_⟩
  unfold State.beginMove
  rw [h]
  rfl

section

variable {s s1 s2 : State} {u : Sub} {peer epoch : Nat} {y : Peer} {fs : List Nat}

theorem doSesMove_wrongState (hw : (s.ses u.slot).state ≠ .waiting) (hp : (s.ses u.slot).state ≠ .parked) :
    doSesMove u peer epoch s = s.complete u .configWrongState := by
  unfold doSesMove
  dsimp only
  rw [if_pos ⟨hw, hp⟩]

theorem doSesMove_noPeer (hst : (s.ses u.slot).state = .waiting ∨ (s.ses u.slot).state = .parked)
    (h : ∀ y, s.peers.get? peer = some y → y.state ≠ .admitted ∨ bitOf y.parts (s.ses u.slot).part = false) :
    doSesMove u peer epoch s = s.complete u .peerMoveAborted := by
  unfold doSesMove
  dsimp only
  rw [if_neg (by tauto)]
  cases hy : s.peers.get? peer with
  | none => rfl
  | some y =>
    dsimp only
    rw [if_pos (by simpa [or_iff_not_imp_left] using h y hy)]

/-- A move of a session with a poisoned tile ends with the session FAILED (R198, R734). -/
theorem doSesMove_poisoned (h : s.Movable u.slot peer y) (hp : s.poisonedTile u.slot = true) : doSesMove u peer epoch s =
    (((s.recordBond u.slot).modSes u.slot (fun y => { y with state := .failed, poisoned := true })).touch u.slot).complete u .stateLostFailed := by
  obtain ⟨hst, hy, ha, hb⟩ := h
  unfold doSesMove
  dsimp only
  rw [if_neg (by tauto), hy]
  dsimp only
  rw [if_neg (by simp [ha, hb]), if_pos hp]

theorem doSesMove_noQuarry (h : s.Movable u.slot peer y) (hp : s.poisonedTile u.slot = false) (hk : (s.ses u.slot).state = .parked)
    (hm : s.qry.mounted = false) : doSesMove u peer epoch s = s.complete u .mediaQuarryDown := by
  obtain ⟨hst, hy, ha, hb⟩ := h
  unfold doSesMove
  dsimp only
  rw [if_neg (by tauto), hy]
  dsimp only
  rw [if_neg (by simp [ha, hb]), if_neg (by simp [hp]), if_pos ⟨hk, by simp [hm]⟩]

/-- A move that finds frames ZEROING waits for them (R383). -/
theorem doSesMove_waits (h : s.Movable u.slot peer y) (hp : s.poisonedTile u.slot = false)
    (hm : (s.ses u.slot).state = .parked → s.qry.mounted = true)
    (hr : s.room (s.ses u.slot).part (((s.ses u.slot).inTier .store).length + ((s.ses u.slot).inTier .quarry).length) 0 = .waits) :
    doSesMove u peer epoch s = s.waitFrames (s.ses u.slot).part u (.sesMove peer epoch) := by
  obtain ⟨hst, hy, ha, hb⟩ := h
  unfold doSesMove
  dsimp only
  rw [if_neg (by tauto), hy]
  dsimp only
  rw [if_neg (by simp [ha, hb]), if_neg (by simp [hp]), if_neg (by tauto), if_pos (by simp [hr])]

/-- A move that finds its frames offers its session to the target (R199 orders 1 and 2). -/
theorem doSesMove_offers (h : s.Movable u.slot peer y) (hp : s.poisonedTile u.slot = false)
    (hm : (s.ses u.slot).state = .parked → s.qry.mounted = true)
    (hr : s.room (s.ses u.slot).part (((s.ses u.slot).inTier .store).length + ((s.ses u.slot).inTier .quarry).length) 0 ≠ .waits)
    (hal : s.allocTiles (s.ses u.slot).part ⟨(s.ses u.slot).part, .priv, 0, u.slot, []⟩ ((s.ses u.slot).inTier .quarry).length = some (fs, s1))
    (hd : s1.demoteAll u.slot ((s.ses u.slot).inTier .store) = some s2) :
    doSesMove u peer epoch s = (s2.beginMove u.slot (s2.moveRecord (s.ses u.slot) u peer epoch fs)).sendTo peer (s.ses u.slot).part 0 (s.ses u.slot).comp 0
      s2.freeCtr .bg (.moveOffer ((s2.beginMove u.slot (s2.moveRecord (s.ses u.slot) u peer epoch fs)).offerOf u.slot epoch
        (s2.moveRecord (s.ses u.slot) u peer epoch fs).offered)) := by
  obtain ⟨hst, hy, ha, hb⟩ := h
  unfold doSesMove
  dsimp only
  rw [if_neg (by tauto), hy]
  dsimp only
  rw [if_neg (by simp [ha, hb]), if_neg (by simp [hp]), if_neg (by tauto), if_neg (by simpa using hr), hal]
  dsimp only
  rw [hd]
  rfl

end

/-- A record update of a session in a bond of its own, and its time of use (R69, R70). -/
theorem recordBond_touch_frame (s : State) (slot : Nat) (f : Session → Session) : ∃ n r pm l g c,
    ((s.recordBond slot).modSes slot f).touch slot = { s with
      nextSeq := n, regs := r, pmc := pm, out := l ++ s.out, aon := g, freeCtr := c,
      sessions := s.sessions.set slot { f (s.ses slot) with lastUse := g } } := by
  obtain ⟨n, r, pm, l, h⟩ := bnd_recordBond s slot
  obtain ⟨g, c, ht⟩ := setSes_set_touch ({ s with
    nextSeq := n, regs := r, pmc := pm, out := l ++ s.out, sessions := s.sessions.set slot (f (s.ses slot)) }) slot (f (s.ses slot)) (ses_set (s := s) rfl).1
  refine ⟨n, r, pm, l, g, c, ?_⟩
  rw [h]
  exact ht.trans (by dsimp only; rw [AMap.set_set])

/-- The source of a move once its frames are there: its tile-store tiles are in LPDDR6, the session is MOVING (R199 order 1). -/
theorem beginMove_allocated {s s1 s2 : State} {slot : Nat} {x : Session} {fs : List Nat} (hx : s.ses slot = x)
    (ha : s.allocTiles x.part ⟨x.part, .priv, 0, slot, []⟩ (x.inTier .quarry).length = some (fs, s1))
    (hd : s1.demoteAll slot (x.inTier .store) = some s2) (m : MoveOut) : ∃ es n r pm l tf ti sr fc,
    Lowered (x.inTier .store) x.mortar.entries es ∧ (s2.ses slot).mortar.entries = es ∧ s2.beginMove slot m = { s with
      nextSeq := n, regs := r, pmc := pm, out := l ++ s.out, movesOut := s.movesOut.set slot m, freeCtr := fc, tileFrames := tf, tiles := ti, selfRefresh := sr
      sessions := s.sessions.set slot { x with
        mortar := { x.mortar with entries := es }, state := .moving, op := .moveOut, movePeer := m.peer, moveEpoch := m.epoch } } := by
  subst hx
  obtain ⟨tf, fc, rg, rfl⟩ := allocTiles_exact _ ha
  obtain ⟨tf', ti, sr, rg', fc', se, es, rfl, hse, hes, hses⟩ := demoteAll_some _ hd
  obtain ⟨n, r, pm, l, hbeg⟩ := beginMove_frame { s with tileFrames := tf', tiles := ti, selfRefresh := sr, regs := rg', freeCtr := fc', sessions := se } slot m
  refine ⟨es, n, r, pm, l, tf', ti, sr, fc' + 1, hes, by rw [hses], ?_⟩
  rw [hbeg]
  dsimp only
  rw [hse, hses]
  rfl

-- SES_MOVE from its fetch to the next state ----------------------------------------------------------------------------------------------------------

section

variable {s s1 s2 : State} {u : Sub} {peer epoch : Nat} {y : Peer} {fs : List Nat} (hc : s.Calm) (ht : s.Takes u (.sesMove peer epoch)) (hq : s.Quiet u.slot)
include hc ht hq

/-- R198: a session with a poisoned tile is FAILED, and the move ends. -/
theorem exec_sesMove_poisoned (h : s.Movable u.slot peer y) (hp : s.poisonedTile u.slot = true) :
    ∃ t, exec (.sesMove u peer epoch) s = .next t ∧ s.Posts t u .stateLostFailed 0 0 ∧
      t.sessions = s.sessions.set u.slot { s.ses u.slot with state := .failed, poisoned := true, lastUse := t.aon } ∧
      s.Io { t with sessions := s.sessions, regs := s.regs, nextSeq := s.nextSeq, aon := s.aon, freeCtr := s.freeCtr } := by
  obtain ⟨v, t, hex, hpost, ⟨hses, hio⟩, hvt⟩ := quiet_done (c := .sesMove peer epoch) (st := .stateLostFailed) (r := 0) (n := 0)
    (P := fun v => v.sessions = s.sessions.set u.slot { s.ses u.slot with state := .failed, poisoned := true, lastUse := v.aon } ∧
      s.Io { v with sessions := s.sessions, regs := s.regs, nextSeq := s.nextSeq, aon := s.aon, freeCtr := s.freeCtr })
    ht rfl hq (fun s' _ hio => by
      have hdo := doSesMove_poisoned (u := u) (epoch := epoch) (h.io hio) (by obtain ⟨_, _, _, _, _, _, rfl⟩ := hio; exact hp)
      obtain ⟨n, r, pm, l, g, c, hfr⟩ := recordBond_touch_frame s' u.slot (fun y => { y with state := .failed, poisoned := true })
      obtain ⟨l0, m, a, b, d, e, rfl⟩ := hio
      refine ⟨_, hdo, ?_⟩
      rw [hfr]
      exact ⟨rfl, rfl, ⟨l, rfl⟩, calm_sessions (s := s) hc (x := { s.ses u.slot with state := .failed, poisoned := true, lastUse := g })
        (ses_waiting hc u.slot) rfl rfl rfl rfl rfl rfl rfl rfl, rfl, l ++ l0, _, _, _, _, _, by simp only [List.append_assoc]; rfl⟩)
  obtain ⟨l, _, _, _, _, _, rfl⟩ := hvt
  exact ⟨_, hex, hpost, hses, (hio.trans ⟨l, _, _, _, _, _, rfl⟩).kept⟩

/-- R383: a move that finds frames ZEROING joins the commands that wait for frames. -/
theorem exec_sesMove_waits (h : s.Movable u.slot peer y) (hp : s.poisonedTile u.slot = false)
    (hm : (s.ses u.slot).state = .parked → s.qry.mounted = true)
    (hr : s.room (s.ses u.slot).part (((s.ses u.slot).inTier .store).length + ((s.ses u.slot).inTier .quarry).length) 0 = .waits) :
    ∃ t, exec (.sesMove u peer epoch) s = .next t ∧ t.allocWait = s.allocWait ++ [(u, .sesMove peer epoch)] ∧
      s.Io { t with allocWait := s.allocWait, regs := s.regs } := by
  obtain ⟨s', ⟨hs, -⟩, hn⟩ := next_quiet ht rfl hq
  obtain ⟨l, m, a, b, d, e, rfl⟩ := hs
  exact ⟨_, hn _ (doSesMove_waits (h.io ⟨l, m, a, b, d, e, rfl⟩) hp hm hr) (hc.of_eq rfl rfl rfl rfl rfl rfl rfl rfl), rfl, l, m, a, b, d, e, rfl⟩

/-- R199 orders 1 and 2: a move that finds its frames leaves the session MOVING, with its tiles where the target can pull them, and its offer is
sent. -/
theorem exec_sesMove_offers {x : Session} {m : MoveOut} {z : Port} (hx : s.ses u.slot = x) (h : s.Movable u.slot peer y)
    (hp : s.poisonedTile u.slot = false) (hm : x.state = .parked → s.qry.mounted = true)
    (hr : s.room x.part ((x.inTier .store).length + (x.inTier .quarry).length) 0 ≠ .waits)
    (ha : s.allocTiles x.part ⟨x.part, .priv, 0, u.slot, []⟩ (x.inTier .quarry).length = some (fs, s1))
    (hd : s1.demoteAll u.slot (x.inTier .store) = some s2) (hrec : m = s2.moveRecord x u peer epoch fs)
    (hz : s.ports.get? y.port = some z) (hu : z.up = true) :
    ∃ t es, exec (.sesMove u peer epoch) s = .next t ∧ t.movesOut = s.movesOut.set u.slot m ∧ Lowered (x.inTier .store) x.mortar.entries es ∧
      (s2.ses u.slot).mortar.entries = es ∧
      t.sessions = s.sessions.set u.slot { x with
        mortar := { x.mortar with entries := es }, state := .moving, op := .moveOut, movePeer := peer, moveEpoch := epoch } ∧
      s.Says t y.port ⟨y.fabric, x.part, 0, x.comp, 0, m.wireTag, .moveOffer (t.offerOf u.slot epoch m.offered)⟩ .bg ∧
      s.Io { t with sessions := s.sessions, movesOut := s.movesOut, tiles := s.tiles, tileFrames := s.tileFrames,
                    selfRefresh := s.selfRefresh, regs := s.regs, nextSeq := s.nextSeq, ports := s.ports, freeCtr := s.freeCtr } := by
  obtain ⟨s', ⟨hs, -⟩, hn⟩ := next_quiet ht rfl hq
  obtain ⟨l0, pm0, sq, cq, bo, ar, rfl⟩ := hs
  have ha' : State.allocTiles (s.io (l0 ++ s.out) pm0 sq cq bo ar) x.part ⟨x.part, .priv, 0, u.slot, []⟩ (x.inTier .quarry).length =
      some (fs, s1.io (l0 ++ s.out) pm0 sq cq bo ar) := by rw [allocTiles_io, ha]; rfl
  have hd' : State.demoteAll (s1.io (l0 ++ s.out) pm0 sq cq bo ar) u.slot (x.inTier .store) = some (s2.io (l0 ++ s.out) pm0 sq cq bo ar) := by
    rw [demoteAll_io, hd]; rfl
  obtain ⟨es, n, r, pm, l, tf, ti, sr, fc, hes, hes2, hbeg⟩ := beginMove_allocated (s := s.io (l0 ++ s.out) pm0 sq cq bo ar) hx ha' hd' m
  have hio : s.Io (s.io (l0 ++ s.out) pm0 sq cq bo ar) := ⟨l0, pm0, sq, cq, bo, ar, rfl⟩
  have hdo : doSesMove u peer epoch (s.io (l0 ++ s.out) pm0 sq cq bo ar) = (State.beginMove (s2.io (l0 ++ s.out) pm0 sq cq bo ar) u.slot m).sendTo peer
      x.part 0 x.comp 0 m.wireTag .bg
      (.moveOffer ((State.beginMove (s2.io (l0 ++ s.out) pm0 sq cq bo ar) u.slot m).offerOf u.slot epoch m.offered)) := by
    subst hx
    rw [hrec]
    exact doSesMove_offers (h.io hio) hp hm hr ha' hd'
  obtain ⟨v, hv⟩ : ∃ v, v = State.beginMove (s2.io (l0 ++ s.out) pm0 sq cq bo ar) u.slot m := ⟨_, rfl⟩
  rw [← hv] at hbeg hdo
  have hvp : v.peers = s.peers ∧ v.ports = s.ports := by rw [hbeg]; exact ⟨rfl, rfl⟩
  obtain ⟨hsays, hsend⟩ := says_sendTo (s := v) (i := peer) (by rw [hvp.1]; exact h.entry) (by rw [hvp.2]; exact hz) hu x.part 0 x.comp 0 m.wireTag .bg
    (.moveOffer (v.offerOf u.slot epoch m.offered)) (fun hmg => by cases hmg)
  obtain ⟨po, hpo⟩ : ∃ po, po = (v.sendTo peer x.part 0 x.comp 0 m.wireTag .bg (.moveOffer (v.offerOf u.slot epoch m.offered))).ports := ⟨_, rfl⟩
  rw [hsend, ← hpo] at hsays hdo
  have hpe : m.peer = peer ∧ m.epoch = epoch := by rw [hrec]; exact ⟨rfl, rfl⟩
  rw [hpe.1, hpe.2] at hbeg
  rw [hbeg] at hdo hsays
  exact ⟨_, es, hn _ hdo (calm_sessions (s := s) hc (x := { x with
      mortar := { x.mortar with entries := es }, state := .moving, op := .moveOut, movePeer := peer, moveEpoch := epoch })
      (by rw [← hx]; exact ses_waiting hc u.slot) rfl rfl rfl rfl rfl rfl rfl rfl),
    rfl, hes, hes2, rfl, hsays, l ++ l0, _, _, _, _, _, by simp only [List.append_assoc]; rfl⟩

end

-- The offer and the entries of the session (R585) -------------------------------------------------------------------------------------------------

/-- Where the tile-store tiles have gone to LPDDR6, every entry is that of before, or names a frame of LPDDR6 in its place. -/
theorem Lowered.entry {x : Session} {es : AMap Nat MEntry} (h : Lowered (x.inTier .store) x.mortar.entries es) {k : Nat} {e : MEntry}
    (he : es.get? k = some e) : e.tier ≠ .store ∧ ∃ e0, x.mortar.entries.get? k = some e0 ∧ (e0.tier ≠ .store → e = e0) ∧
      (e0.tier = .store → e = { e0 with tier := .lpddr, frame := e.frame }) := by
  have hk := h k
  split at hk
  · obtain ⟨e0, n, h0, hs, hn⟩ := hk
    obtain rfl : e = { e0 with tier := .lpddr, frame := n } := Option.some.inj (he.symm.trans hn)
    exact ⟨nofun, e0, h0, fun hne => absurd hs hne, fun _ => rfl⟩
  · next hmem =>
    rw [he] at hk
    have hne : e.tier ≠ .store := fun hs => hmem (List.mem_map.2 ⟨(k, e), List.mem_filter.2 ⟨AMap.mem_of_get? hk.symm, by simp [hs]⟩, rfl⟩)
    exact ⟨hne, e, hk.symm, fun _ => rfl, fun hs => absurd hs hne⟩

theorem AMap.get?_map_of_mem {κ α β : Type} [DecidableEq κ] {m : AMap κ α} {k : κ} {v : α} (g : κ × α → β) (h : (k, v) ∈ m) :
    ∃ w, AMap.get? (m.map (fun kv => (kv.1, g kv))) k = some w := by
  induction m with
  | nil => cases h
  | cons kv m ih =>
    by_cases hk : kv.1 = k
    · exact ⟨g kv, if_pos hk⟩
    · obtain ⟨w, hw⟩ := ih ((List.mem_cons.1 h).resolve_left (fun he => hk (by rw [← he])))
      exact ⟨w, (if_neg hk).trans hw⟩

/-- An entry of an offer is that of the session, under the frame that the move lists for it (R585). -/
theorem offerOf_entry {t : State} {slot epoch : Nat} {frames : AMap Nat Nat} {w : OfferEntry} (hw : w ∈ (t.offerOf slot epoch frames).entries)
    (hf : ∀ k e, (k, e) ∈ (t.ses slot).mortar.entries → ∃ n, frames.get? k = some n) :
    w.entry.tier = .lpddr ∧ ∃ e, (w.index, e) ∈ (t.ses slot).mortar.entries ∧ frames.get? w.index = some w.entry.frame := by
  obtain ⟨⟨k, e⟩, hkv, rfl⟩ := List.mem_map.1 hw
  have hmem := (mem_sortBy _ _ _).1 hkv
  obtain ⟨n, hn⟩ := hf k e hmem
  refine ⟨rfl, e, hmem, ?_⟩
  dsimp only
  rw [AMap.getD, hn]

/-- An offer carries the fields of its session (R585), which a move leaves as they are. -/
theorem offerOf_fields {t : State} {slot epoch : Nat} {frames : AMap Nat Nat} {x : Session} {mo : Mortar} {st : SesState} {op : SesOp} {a b : Nat}
    {o : Offer} (h : t.ses slot = { x with mortar := mo, state := st, op := op, movePeer := a, moveEpoch := b }) (ho : o = t.offerOf slot epoch frames) :
    o.handle = mkHandle x.part slot x.gen ∧ o.nextPos = x.nextPos ∧ o.main = x.main ∧ o.comp = x.comp ∧ o.epoch = epoch ∧ o.log = x.log ∧
      o.grammar = x.grammar ∧ o.hints = x.hints ∧ o.hostData = x.hostData := by
  subst ho
  unfold State.offerOf State.handleOf
  rw [h]
  exact ⟨rfl, rfl, rfl, rfl, rfl, rfl, rfl, rfl, rfl⟩

theorem allocTiles_length {p : Nat} {f : Frame} : ∀ (n : Nat) {s t : State} {l : List Nat}, s.allocTiles p f n = some (l, t) → l.length = n
  | 0, s, t, l, h => by cases h; rfl
  | n + 1, s, t, l, h => by
    unfold State.allocTiles at h
    split at h
    · cases h
    · split at h
      · cases h
      · next h2 =>
        cases h
        exact congrArg (· + 1) (allocTiles_length n h2)

/-- Settles O55: SES_MOVE ends, waits or offers its session by R199 orders 1 and 2, R383 and R585. -/
theorem moveStart : Obligations.MoveStart := by
  intro s u peer epoch slot p x hc ht hq hslot hx hp
  subst hslot hx hp
  refine ⟨?_, ?_, ?_, ?_⟩
  · rintro st (⟨hw, hk, rfl⟩ | ⟨hst, ⟨hno, rfl⟩ | ⟨⟨y, hy, had, hb⟩, hpo, hk, hm, rfl⟩⟩)
    · exact quiet_refuses hc ht rfl hq (fun s' hs => by obtain ⟨_, _, _, _, _, _, rfl⟩ := hs; exact doSesMove_wrongState hw hk)
    · exact quiet_refuses hc ht rfl hq (fun s' hs => by obtain ⟨_, _, _, _, _, _, rfl⟩ := hs; exact doSesMove_noPeer hst hno)
    · exact quiet_refuses hc ht rfl hq (fun s' hs => doSesMove_noQuarry (State.Movable.io ⟨hst, hy, had, hb⟩ hs)
        (by obtain ⟨_, _, _, _, _, _, rfl⟩ := hs; exact hpo) (by obtain ⟨_, _, _, _, _, _, rfl⟩ := hs; exact hk)
        (by obtain ⟨_, _, _, _, _, _, rfl⟩ := hs; exact hm))
  · intro y hst hy had hb hpo
    obtain ⟨t, hex, hpost, hses, hio⟩ := exec_sesMove_poisoned hc ht hq ⟨hst, hy, had, hb⟩ hpo
    exact ⟨t, hex, hpost, (ses_set hses).1, (ses_set hses).2, hio⟩
  · intro y hst hy had hb hpo hr
    exact exec_sesMove_waits hc ht hq ⟨hst.imp_right And.left, hy, had, hb⟩ hpo (by rintro hk; simpa [hk] using hst) hr
  · intro y z fs s1 s2 hst hy had hb hz hu hpo hr ha hd
    obtain ⟨t, es, hex, hmo, hes, hes2, hses, hsays, hio⟩ := exec_sesMove_offers hc ht hq rfl ⟨hst.imp_right And.left, hy, had, hb⟩ hpo
      (by rintro hk; simpa [hk] using hst) hr ha hd rfl hz hu
    obtain ⟨hown, hothers⟩ := ses_set hses
    obtain ⟨m, hm⟩ : ∃ m, m = s2.moveRecord (s.ses u.slot) u peer epoch fs := ⟨_, rfl⟩
    rw [← hm] at hmo hsays
    have hentries : ∀ w ∈ (t.offerOf u.slot epoch m.offered).entries, w.entry.tier = .lpddr ∧ ∃ e,
        (w.index, e) ∈ (t.ses u.slot).mortar.entries ∧ (w.entry.frame = e.frame ∨ m.offered.get? w.index = some w.entry.frame) := fun w hw => by
      obtain ⟨htier, e, he, hfr⟩ := offerOf_entry hw (fun k e he => by
        rw [hown] at he
        rw [hm]
        exact AMap.get?_map_of_mem (v := e) _ (hes2.symm ▸ he))
      exact ⟨htier, e, he, .inr hfr⟩
    obtain ⟨f1, f2, f3, f4, f5, f6, f7, f8, f9⟩ := offerOf_fields (epoch := epoch) (frames := m.offered) hown rfl
    subst hm
    exact ⟨t, _, _, hex, hmo, by rw [hown], hothers, fun k e he => hes.entry (by rw [hown] at he; exact he), rfl, rfl, rfl, rfl, rfl, rfl, rfl,
      allocTiles_length _ ha, rfl, rfl, hsays, f1, f2, f3, f4, f5, f6, f7, f8, f9, hentries, hio⟩

end Sys2Proof.Machine
end

section
/-!
PROOFS. A move at its target, and its end at the source (O37).
-/

namespace Sys2Proof.Machine

open Sys2Proof

-- A move ends without taking effect (R202, R203) -------------------------------------------------------------------------------------------------

/-- What the end of a move without effect changes: its staging frames are released, the session has the state given, and SES_MOVE completes. -/
theorem abortMove_frame {s : State} {slot : Nat} {m : MoveOut} (h : s.movesOut.get? slot = some m) (dest : SesState) (st : Status) (result report : Nat) :
    ∃ n r pm l g c tf ti, (∀ kf ∈ m.staging, ∀ f, tf.get? kf.2 = some f → f.state = .zeroing) ∧
      s.abortMove slot dest st result report = State.completeFor { s with
        nextSeq := n, regs := r, pmc := pm, out := l ++ s.out, aon := g, freeCtr := c, tileFrames := tf, tiles := ti, movesOut := s.movesOut.erase slot
        sessions := s.sessions.set slot { s.ses slot with state := dest, op := .none, movePeer := 0, moveEpoch := 0, lastUse := g } }
        ⟨m.fn, m.sq, m.tag⟩ st result report := by
  have hz := fun kf (hk : kf ∈ m.staging) => zeroing_freeTiles (m.staging.map (·.2)) s kf.2 (.inl (List.mem_map.2 ⟨kf, hk, rfl⟩))
  obtain ⟨tf, ti, hfree⟩ := freeTiles_exact (m.staging.map (·.2)) s
  rw [hfree] at hz
  obtain ⟨n, r, pm, l, g, c, hrec⟩ := recordBond_touch_frame { s with tileFrames := tf, tiles := ti, movesOut := s.movesOut.erase slot } slot
    (fun x => { x with state := dest, op := .none, movePeer := 0, moveEpoch := 0 })
  refine ⟨n, r, pm, l, g, c, tf, ti, hz, ?_⟩
  unfold State.abortMove State.dropStaging
  rw [h]
  dsimp only
  rw [hfree, hrec]
  rfl

/-- An event that completes a command and leaves the device calm. -/
theorem next_event_completes {s v : State} {f : State → State} {u : Sub} {q result : Nat} {st : Status} (ha : s.awake = true)
    (hdo : f s = v.complete u st result) (hc : v.Calm) (hf : v.flash = s.flash) (hp : v.pending = s.pending) (ho : ∃ l, v.out = l ++ s.out)
    (hq : u.sq = some q) (hop : v.Open u.fn q) :
    ∃ t, (Host.Outcome.next (s.event f) : Host.Outcome State Fault Refusal) = .next t ∧ s.Posts t u st result 0 ∧ v.Io t := by
  obtain ⟨k, h, mk, hw⟩ := posts_complete v u q st result 0 hq hop
  have hio : v.Io (v.complete u st result) := io_complete v u st result 0 (by rw [hq]; exact nofun)
  exact ⟨_, next_event_own ha hdo (hc.io hio) (hio.flash.trans hf) (hio.pending.trans hp), ⟨k, h, mk, .after ho hw⟩, hio⟩

/-- A peer's message that ends a move without effect: SES_MOVE completes, the session has the state of before, and the staging frames are ZEROING
(R203). -/
theorem next_abortMove {s : State} {f : State → State} {slot i q : Nat} {p : Peer} {m : MoveOut} {st : Status} {result : Nat} {u : Sub} (hc : s.Calm)
    (ha : s.awake = true) (hp : s.peers.get? i = some p) (hm : s.movesOut.get? slot = some m)
    (hf : f s = (s.peerSeen i).abortMove slot m.prior st result) (ho : u.owner = ⟨m.fn, m.sq, m.tag⟩) (hq : u.sq = some q) (hop : s.Open u.fn q) :
    ∃ t, (Host.Outcome.next (s.event f) : Host.Outcome State Fault Refusal) = .next t ∧ s.Posts t u st result 0 ∧ t.movesOut = s.movesOut.erase slot ∧
      t.ses slot = { s.ses slot with
        state := if m.parked then .parked else .waiting, op := .none, movePeer := 0, moveEpoch := 0, lastUse := t.aon } ∧ (∀ j, j ≠ slot → t.ses j = s.ses j) ∧
      (∀ kf ∈ m.staging, ∀ f, t.tileFrames.get? kf.2 = some f → f.state = .zeroing) ∧
      s.Io { t with movesOut := s.movesOut, sessions := s.sessions, tiles := s.tiles, tileFrames := s.tileFrames, peers := s.peers,
                    regs := s.regs, nextSeq := s.nextSeq, aon := s.aon, freeCtr := s.freeCtr } := by
  obtain ⟨pe, an, fc, hseen, -⟩ := sees hp
  rw [hseen] at hf
  obtain ⟨n, r, pm, l, g, c, tf, ti, hz, habort⟩ := abortMove_frame (s := { s with peers := pe, aon := an, freeCtr := fc }) hm m.prior st result 0
  rw [habort, ← ho] at hf
  obtain ⟨t, hex, hpost, l', _, _, _, _, _, rfl⟩ := next_event_completes ha hf
    (calm_sessions (s := s) hc (k := slot) (x := { s.ses slot with state := m.prior, op := .none, movePeer := 0, moveEpoch := 0, lastUse := g })
      (ses_waiting hc slot) rfl rfl rfl rfl rfl rfl rfl rfl) rfl rfl ⟨l, rfl⟩ hq hop
  have hset := ses_set (s := s) (k := slot) (x := { s.ses slot with state := m.prior, op := .none, movePeer := 0, moveEpoch := 0, lastUse := g })
    (t := { s with sessions := s.sessions.set slot _ }) rfl
  exact ⟨_, hex, hpost, rfl, hset.1, hset.2, hz, l' ++ l, _, _, _, _, _, by simp only [List.append_assoc]; rfl⟩

-- MOVE_ANSWER (R199, R202) ------------------------------------------------------------------------------------------------------------------------

/-- R199: the source keeps the handle that the target answers. -/
theorem exec_moveAnswer_ok {s : State} {h : Hdr} {i slot : Nat} {p : Peer} {m : MoveOut} {w : Word64} (hc : s.Calm) (ha : s.awake = true)
    (hh : s.Hears h 8 true (some 44) i p) (hm : s.moveByTag i h.tag = some (slot, m)) (ht : m.target = none) :
    ∃ t, exec (.moveAnswer h 0 w) s = .next t ∧ s.Seen t i p ∧ t.movesOut = s.movesOut.set slot { m with target := some w } ∧
      t = { s with movesOut := t.movesOut, peers := t.peers, aon := t.aon, freeCtr := t.freeCtr } := by
  obtain ⟨pe, an, fc, hseen, hpe⟩ := sees hh.entry
  have hdo : doMoveAnswer h 0 w s = { s with
      peers := pe, aon := an, freeCtr := fc, movesOut := s.movesOut.set slot { m with target := some w } } := by
    unfold doMoveAnswer
    rw [if_pos rfl, hh.receive, hseen]
    dsimp only
    rw [show State.moveByTag { s with peers := pe, aon := an, freeCtr := fc } i h.tag = some (slot, m) from hm]
    dsimp only
    rw [ht, if_neg (by decide), if_pos rfl]
  exact ⟨_, next_event_own ha hdo (hc.of_eq rfl rfl rfl rfl rfl rfl rfl rfl) rfl rfl, hpe, rfl, rfl⟩

/-- R202: a refusal of the target ends the move. -/
theorem doMoveAnswer_refused {s : State} {h : Hdr} {i slot : Nat} {p : Peer} {m : MoveOut} {st : Status} {w : Word64}
    (hh : s.Hears h 8 true (some 36) i p) (hm : s.moveByTag i h.tag = some (slot, m)) (ht : m.target = none) (hst : st ≠ 0) : doMoveAnswer h st w s = (s.peerSeen i).abortMove slot m.prior .peerMoveRefused st.toNat := by
  unfold doMoveAnswer
  rw [if_neg hst, hh.receive, show (s.peerSeen i).moveByTag i h.tag = some (slot, m) from hm]
  dsimp only
  rw [ht, if_neg (by decide), if_neg hst]

-- MOVE_CONFIRM and MOVE_ABORT at the source (R199 orders 7 and 8, R203) ------------------------------------------------------------------------------

/-- A control message of the target finds the move of the session that it names. -/
theorem moveOfHandle_some {s : State} {h : Hdr} {i slot : Nat} {m : MoveOut} (hk : s.checkHandle (some h.part) h.handle = none)
    (hs : slot = handleSlot h.handle) (hm : s.movesOut.get? slot = some m) (hi : m.peer = i) : s.moveOfHandle h i = some (slot, m) := by
  subst hs
  unfold State.moveOfHandle
  rw [hk, if_neg (by decide), hm]
  dsimp only
  rw [if_pos hi]

/-- A confirmation is kept with its move, which goes on if its epoch is current. -/
theorem doMoveConfirm_kept {s : State} {h : Hdr} {i slot : Nat} {p : Peer} {m : MoveOut} {w : Word64} (hh : s.Hears h 8 false (some 44) i p)
    (hk : s.checkHandle (some h.part) h.handle = none) (hs : slot = handleSlot h.handle) (hm : s.movesOut.get? slot = some m) (hi : m.peer = i)
    (hw : m.target = some w) :
    doMoveConfirm h w s = State.tryMove { s.peerSeen i with movesOut := s.movesOut.set slot { m with confirmed := true } } slot := by
  unfold doMoveConfirm
  rw [hh.receive, show (s.peerSeen i).moveOfHandle h i = some (slot, m) from moveOfHandle_some hk hs hm hi]
  dsimp only
  rw [hw, if_neg (by simp)]
  rfl

/-- A confirmed move commits once its epoch is current (R199 order 8). -/
theorem tryMove_confirmed {s : State} {slot : Nat} {m : MoveOut} (h : s.movesOut.get? slot = some m) (hm : m.confirmed = true) :
    s.tryMove slot = if s.epochReached (s.ses slot).comp m.epoch then s.commitMove slot m else s := by
  unfold State.tryMove
  rw [h]
  dsimp only
  rw [hm, Bool.true_and]

/-- R199 order 7: before its epoch is current a confirmed move waits. -/
theorem exec_moveConfirm_waits {s : State} {h : Hdr} {i slot : Nat} {p : Peer} {m : MoveOut} {w : Word64} (hc : s.Calm) (ha : s.awake = true)
    (hh : s.Hears h 8 false (some 44) i p) (hk : s.checkHandle (some h.part) h.handle = none) (hs : slot = handleSlot h.handle)
    (hm : s.movesOut.get? slot = some m) (hi : m.peer = i) (hw : m.target = some w) (he : s.epochReached (s.ses slot).comp m.epoch = false) :
    ∃ t, exec (.moveConfirm h w) s = .next t ∧ s.Seen t i p ∧ t.movesOut = s.movesOut.set slot { m with confirmed := true } ∧
      t = { s with movesOut := t.movesOut, peers := t.peers, aon := t.aon, freeCtr := t.freeCtr } := by
  obtain ⟨pe, an, fc, hseen, hpe⟩ := sees hh.entry
  have hdo : doMoveConfirm h w s = { s with
      peers := pe, aon := an, freeCtr := fc, movesOut := s.movesOut.set slot { m with confirmed := true } } := by
    rw [doMoveConfirm_kept hh hk hs hm hi hw, hseen]
    rw [tryMove_confirmed (AMap.get?_set_same ..) rfl]
    exact if_neg (ne_true_of_eq_false he)
  exact ⟨_, next_event_own ha hdo (hc.of_eq rfl rfl rfl rfl rfl rfl rfl rfl) rfl rfl, hpe, rfl, rfl⟩

theorem doMoveAbort_source {s : State} {h : Hdr} {i slot : Nat} {p : Peer} {m : MoveOut} {st : Status} (hh : s.Hears h 8 false (some 40) i p)
    (hk : s.checkHandle (some h.part) h.handle = none) (hs : slot = handleSlot h.handle) (hm : s.movesOut.get? slot = some m) (hi : m.peer = i) :
    doMoveAbort h st s = (s.peerSeen i).abortMove slot m.prior .peerMoveAborted := by
  unfold doMoveAbort
  rw [hh.receive, show (s.peerSeen i).moveOfHandle h i = some (slot, m) from moveOfHandle_some hk hs hm hi]

-- The move bond commits (R199 order 8, R200, R601) --------------------------------------------------------------------------------------------------

/-- Where no command waits at a session, none ends with its move. -/
theorem endWaiting_none {s : State} {slot : Nat} {x : Session} (h : s.sessions.get? slot = some x) (hw : x.waiting = []) (st : Status) (result : Nat) :
    s.endWaiting slot st result = s := by
  have hx : s.ses slot = x := by unfold State.ses AMap.getD; rw [h]
  have hself : ({ x with waiting := [] } : Session) = x := by rw [← hw]
  unfold State.endWaiting
  rw [hx, hw, List.foldl_nil, modSes_eq hx, hself, AMap.set_get?_self h]

theorem addForward_room {s : State} (h : s.forwards.length < 65536) (f : Forward) : s.addForward f = { s with forwards := s.forwards ++ [f] } := by
  unfold State.addForward
  rw [if_neg (Nat.not_le_of_lt h)]

/-- The source of a move, with its session free and its handle forwarded. -/
def State.movedAway (s : State) (slot : Nat) (id w : Word64) : State :=
  { s with movesOut := s.movesOut.erase slot, freed := s.freed + 1, forwards := s.forwards ++ [⟨(s.ses slot).part, s.handleOf slot, id, w⟩]
           sessions := s.sessions.set slot ((s.ses slot).closed s.freed) }

/-- What the commit of a move bond changes (R200): beside the session and the forwarding table, what the release of a session changes. -/
theorem commitMove_frame {s : State} {slot : Nat} {m : MoveOut} {p : Peer} {w : Word64} (hp : s.peers.get? m.peer = some p) (ht : m.target = some w)
    (hl : s.forwards.length < 65536) (hw : (s.ses slot).waiting = []) (hs : m.sq ≠ none) : ∃ mi bo q ti tf mf pr r n c pm l,
    s.commitMove slot m = State.completeFor { s.movedAway slot p.id w with
      mirror := mi, bonds := bo, qry := q, tiles := ti, tileFrames := tf, mortarFrames := mf, prefixes := pr, regs := r, nextSeq := n, freeCtr := c, pmc := pm
      out := l ++ s.out } ⟨m.fn, m.sq, m.tag⟩ .ok (w.toNat + (m.peer % 1024) * 2 ^ 64) := by
  obtain ⟨n, r, pm, l, hbond⟩ := bnd_bondOnce s (s.ses slot).part
  obtain ⟨tf, ti, hfree⟩ := freeTiles_exact (m.staging.map (·.2)) { s with nextSeq := n, regs := r, pmc := pm, out := l ++ s.out }
  obtain ⟨v, ⟨bo, q, ti', tf', mf, pr, r', c, rfl⟩, hrel, -⟩ := releaseSes_frame { s with
    nextSeq := n, regs := r, pmc := pm, out := l ++ s.out, tileFrames := tf, tiles := ti, movesOut := s.movesOut.erase slot } (s.nextBond (s.ses slot).part) slot
  obtain ⟨v, hv⟩ : ∃ v, v = State.releaseSes { (s.bondOnce (s.ses slot).part).dropStaging m with movesOut := s.movesOut.erase slot }
    (s.nextBond (s.ses slot).part) slot := ⟨_, rfl⟩
  have hshape : v = { s with
      movesOut := s.movesOut.erase slot, freed := s.freed + 1, sessions := s.sessions.set slot ((s.ses slot).closed s.freed), bonds := bo, qry := q
      tiles := ti', tileFrames := tf', mortarFrames := mf, prefixes := pr, regs := r', nextSeq := n, freeCtr := c, pmc := pm, out := l ++ s.out } := by
    rw [hv, hbond]
    unfold State.dropStaging
    rw [hfree]
    exact hrel
  obtain ⟨mi, hmi⟩ : ∃ mi, (if m.parked then v.mirrorSes slot else v) = { v with mirror := mi } := by
    split
    · exact ⟨_, rfl⟩
    · exact ⟨_, rfl⟩
  obtain ⟨z, hz⟩ : ∃ z : State, z = { s.movedAway slot p.id w with
    mirror := mi, bonds := bo, qry := q, tiles := ti', tileFrames := tf', mortarFrames := mf, prefixes := pr, regs := r', nextSeq := n, freeCtr := c
    pmc := pm, out := l ++ s.out } := ⟨_, rfl⟩
  have hforward : State.addForward { v with mirror := mi } ⟨(s.ses slot).part, s.handleOf slot, p.id, w⟩ = z :=
    (addForward_room (by rw [hshape]; exact hl) _).trans (by rw [hshape, hz]; rfl)
  have hses : (z.completeFor ⟨m.fn, m.sq, m.tag⟩ .ok (w.toNat + (m.peer % 1024) * 2 ^ 64)).sessions.get? slot = some ((s.ses slot).closed s.freed) := by
    obtain ⟨_, _, _, _, _, _, hio⟩ := io_completeFor z ⟨m.fn, m.sq, m.tag⟩ .ok (w.toNat + (m.peer % 1024) * 2 ^ 64) 0 hs
    rw [hio, hz]
    exact AMap.get?_set_same ..
  refine ⟨mi, bo, q, ti', tf', mf, pr, r', n, c, pm, l, ?_⟩
  unfold State.commitMove
  dsimp only
  rw [← hv, hmi, hp, ht]
  dsimp only [Option.getD_some]
  rw [hforward, endWaiting_none hses hw, hz]

/-- R199 order 8: with the confirmation and the epoch SES_MOVE completes with the new handle, and the session is FREE at its source. -/
theorem exec_moveConfirm_commits {s : State} {h : Hdr} {i slot q : Nat} {p : Peer} {m : MoveOut} {w : Word64} {u : Sub} (hc : s.Calm) (ha : s.awake = true)
    (hh : s.Hears h 8 false (some 44) i p) (hk : s.checkHandle (some h.part) h.handle = none) (hs : slot = handleSlot h.handle)
    (hm : s.movesOut.get? slot = some m) (hi : m.peer = i) (hw : m.target = some w) (he : s.epochReached (s.ses slot).comp m.epoch = true)
    (hl : s.forwards.length < 65536) (ho : u.owner = ⟨m.fn, m.sq, m.tag⟩) (hq : u.sq = some q) (hop : s.Open u.fn q) :
    ∃ t, exec (.moveConfirm h w) s = .next t ∧ s.Posts t u .ok (w.toNat + (i % 1024) * 2 ^ 64) 0 ∧ t.movesOut = s.movesOut.erase slot ∧
      t.sessions = s.sessions.set slot ((s.ses slot).closed s.freed) ∧ t.forwards = s.forwards ++ [⟨(s.ses slot).part, s.handleOf slot, p.id, w⟩] ∧
      s.Io { t with movesOut := s.movesOut, sessions := s.sessions, freed := s.freed, forwards := s.forwards, mirror := s.mirror,
                    bonds := s.bonds, qry := s.qry, tiles := s.tiles, tileFrames := s.tileFrames, mortarFrames := s.mortarFrames,
                    prefixes := s.prefixes, regs := s.regs, nextSeq := s.nextSeq, peers := s.peers, aon := s.aon, freeCtr := s.freeCtr } := by
  obtain ⟨-, -, hpeer⟩ := peerSeen_frame hh.entry
  obtain ⟨pe, an, fc, hseen, -⟩ := sees hh.entry
  rw [hseen] at hpeer
  have hdo : doMoveConfirm h w s = State.commitMove { s with
      peers := pe, aon := an, freeCtr := fc, movesOut := s.movesOut.set slot { m with confirmed := true } } slot { m with confirmed := true } := by
    rw [doMoveConfirm_kept hh hk hs hm hi hw, hseen, tryMove_confirmed (AMap.get?_set_same ..) rfl]
    exact if_pos he
  obtain ⟨mi, bo, qr, ti, tf, mf, pr, r, n, c, pm, l, hcommit⟩ := commitMove_frame
    (s := { s with peers := pe, aon := an, freeCtr := fc, movesOut := s.movesOut.set slot { m with confirmed := true } }) (slot := slot)
    (m := { m with confirmed := true }) (w := w) (by rw [hi]; exact hpeer) hw hl (ses_waiting hc slot)
    (fun hn => by rw [Sub.owner] at ho; injection ho with _ hsq _; rw [hq] at hsq; rw [← hsq] at hn; cases hn)
  rw [hcommit, hi, ← ho] at hdo
  obtain ⟨t, hex, hpost, l', _, _, _, _, _, rfl⟩ := next_event_completes ha hdo
    (calm_sessions (s := s) hc (k := slot) (x := (s.ses slot).closed s.freed) (ses_waiting hc slot) rfl rfl rfl rfl rfl rfl rfl rfl)
    rfl rfl ⟨l, rfl⟩ hq hop
  exact ⟨_, hex, hpost, AMap.erase_set' .., rfl, rfl, l' ++ l, _, _, _, _, _, by simp only [List.append_assoc]; rfl⟩

-- The mortar of the target (R98, R199 order 3) -----------------------------------------------------------------------------------------------------

/-- `t` is `s` but for what taking mortar frames changes. -/
def State.Mors (s t : State) : Prop := ∃ mf r c, t = { s with mortarFrames := mf, regs := r, freeCtr := c }

theorem State.Mors.refl (s : State) : s.Mors s := ⟨_, _, _, rfl⟩

theorem State.Mors.trans {s t u : State} (h : s.Mors t) (g : t.Mors u) : s.Mors u := by
  obtain ⟨_, _, _, rfl⟩ := h
  obtain ⟨_, _, _, rfl⟩ := g
  exact ⟨_, _, _, rfl⟩

theorem mors_allocMor {s t : State} {p n : Nat} {f : Frame} (h : s.allocMor p f = some (n, t)) : s.Mors t := by
  obtain ⟨r, c, ht⟩ := allocMor_exact h
  exact ⟨_, r, c, ht⟩

theorem mors_allocMors {p : Nat} {f : Frame} : ∀ (n : Nat) {s t : State} {l : List Nat}, s.allocMors p f n = some (l, t) → s.Mors t
  | 0, s, t, l, h => by cases h; exact .refl s
  | n + 1, s, t, l, h => by
    unfold State.allocMors at h
    split at h
    · cases h
    · next h1 =>
      split at h
      · cases h
      · next h2 => cases h; exact (mors_allocMor h1).trans (mors_allocMors n h2)

theorem mors_addPages {p b : Nat} : ∀ (ks : List Nat) {s t : State} {m m' : AMap Nat PagePtr}, s.addPages p b ks m = some (m', t) → s.Mors t
  | [], s, t, m, m', h => by cases h; exact .refl s
  | k :: ks, s, t, m, m', h => by
    unfold State.addPages at h
    split at h
    · cases h
    · next h1 => exact (mors_allocMor h1).trans (mors_addPages ks h)

/-- Growing a mortar takes frames for its pages; its entries are as they were. -/
theorem mors_growMortar {s t : State} {p b : Nat} {m m' : Mortar} {es : List Nat} (h : s.growMortar p b m es = some (m', t)) : s.Mors t := by
  unfold State.growMortar at h
  dsimp only at h
  split at h
  · cases h
  · next h1 =>
    split at h
    · cases h
    · next h2 => cases h; exact (mors_addPages _ h1).trans (mors_addPages _ h2)

-- MOVE_OFFER (R199 order 3) -----------------------------------------------------------------------------------------------------------------------

/-- The session of an offer at its target: it has the fields of the offer, and every entry names a frame of the source (R199 order 3). -/
def Offer.session (o : Offer) (gen part peer : Nat) (m : Mortar) (lf : List Nat) (g : Option GramState) (fb : Nat) : Session :=
  { Session.free with
    gen := gen, state := .pulling, op := SesOp.moveIn, part := part, pfx := 0xFFFF, nextPos := o.nextPos, log := o.log, logFrames := lf,
    mortar := { m with entries := o.entries.map (fun e => (e.index, { e.entry with tier := .remote, shared := false, peer := peer })) }
    reqCount := o.reqCount, grammar := g, comp := o.comp, main := o.main, fallback := fb, hints := o.hints, hostData := o.hostData,
    dressed := o.dressed, movePeer := peer, moveEpoch := o.epoch, offerLog := o.log.length }

/-- What the session of an offer takes at its target: mortar frames, its slot and the record of the move. -/
theorem buildMoveIn_some {s v : State} {slot peer : Nat} {h : Hdr} {o : Offer} (hv : s.buildMoveIn slot peer h o = some v) :
    ∃ mf r c m lf g fb, v = { s with
      mortarFrames := mf, regs := r, freeCtr := c, movesIn := s.movesIn.set slot ⟨peer, o.handle, o.comp, o.epoch⟩
      sessions := s.sessions.set slot (o.session (s.ses slot).gen h.part peer m lf g fb) } := by
  unfold State.buildMoveIn at hv
  dsimp only at hv
  split at hv
  · cases hv
  · next root s1 h1 =>
    split at hv
    · cases hv
    · next m s2 h2 =>
      split at hv
      · cases hv
      · next lf s3 h3 =>
        split at hv
        · cases hv
        · next g s4 h4 =>
          have h34 : s3.Mors s4 := by
            split at h4
            · cases h4; exact .refl s3
            · obtain ⟨a, ha, hr⟩ := Option.map_eq_some_iff.1 h4
              cases hr
              exact mors_allocMor ha
          obtain ⟨mf, r, c, rfl⟩ := ((mors_allocMor h1).trans (mors_growMortar h2)).trans ((mors_allocMors _ h3).trans h34)
          cases hv
          exact ⟨mf, r, c, m, lf, g, _, rfl⟩

/-- An offer that the target can hold makes its session, is answered, and its pulls begin (R199 order 3). -/
theorem doMoveOffer_builds {s v : State} {h : Hdr} {i slot : Nat} {p : Peer} {o : Offer} (hh : s.Hears h 8 false (some o.lastBytes) i p)
    (hn : (s.peerSeen i).newSlot h.part = some slot) (hr : s.room h.part o.entries.length 0 ≠ .refused)
    (hq : s.credits h.part + o.entries.length ≤ s.fld Fld.MEM_PART_QUOTA_REMOTE_1K h.part * 1024)
    (hv : State.buildMoveIn { s.peerSeen i with freeCtr := (s.peerSeen i).freeCtr + 1 } slot i h o = some v) :
    doMoveOffer h o s = ((v.bondOnce h.part).answerMsg h .bg (.moveAnswer .ok (v.handleOf slot))).checkMoveIn slot := by
  have hr' : (s.peerSeen i).room h.part o.entries.length 0 ≠ .refused := hr
  have hq' : (s.peerSeen i).credits h.part + o.entries.length ≤ (s.peerSeen i).fld Fld.MEM_PART_QUOTA_REMOTE_1K h.part * 1024 := hq
  unfold doMoveOffer
  rw [hh.receive]
  dsimp only
  rw [hn]
  dsimp only
  rw [if_neg (fun hw => hr' (beq_iff_eq.1 hw)), if_neg (Nat.not_lt.2 hq'), hv]

/-- A session of which a tile is still to come is pulled further. -/
theorem checkMoveIn_pulls {s : State} {slot k : Nat} {m : MoveIn} {e : MEntry} (hm : s.movesIn.get? slot = some m)
    (he : (k, e) ∈ (s.ses slot).mortar.entries) (ht : e.tier = .remote) : s.checkMoveIn slot = s.pumpPulls slot := by
  have hmem : k ∈ (s.ses slot).inTier .remote := List.mem_map.2 ⟨(k, e), List.mem_filter.2 ⟨he, by simp [ht]⟩, rfl⟩
  unfold State.checkMoveIn
  rw [hm]
  exact if_neg (by simpa using List.ne_nil_of_mem hmem)

theorem kept_self {s t : State} (hf : t.flash = s.flash) (hp : t.pending = s.pending) : s.kept t = t := by
  unfold State.kept
  rw [← hf, ← hp]

/-- An event that leaves one session being pulled, and starts its pulls. -/
theorem next_event_pumps {s w : State} {f : State → State} {slot : Nat} {m : MoveIn} (ha : s.awake = true) (hdo : f s = w.pumpPulls slot)
    (hc : State.Calm { w with movesIn := [] }) (hm : w.movesIn = [(slot, m)]) (hf : w.flash = s.flash) (hp : w.pending = s.pending) :
    (Host.Outcome.next (s.event f) : Host.Outcome State Fault Refusal) = .next (w.pumpPulls slot) := by
  obtain ⟨l, fc, po, hfr⟩ := pumpPulls_frame w slot
  have hcp : State.Calm { w.pumpPulls slot with movesIn := [] } := by
    rw [hfr]
    exact hc.of_eq rfl rfl rfl rfl rfl rfl rfl rfl
  rw [next_event_pulls (slot := slot) (m := m) ha hdo hcp (by rw [hfr]; exact hm), kept_self (by rw [hfr]; exact hf) (by rw [hfr]; exact hp),
    pumpPulls_twice]

/-- R199 order 3: an offer that the target can hold makes a PULLING session and is answered with its handle, and its pulls go out. -/
theorem exec_moveOffer {s v : State} {h : Hdr} {i slot : Nat} {p : Peer} {o : Offer} (hc : s.Calm) (ha : s.awake = true)
    (hh : s.Hears h 8 false (some o.lastBytes) i p) (hn : (s.peerSeen i).newSlot h.part = some slot) (hr : s.room h.part o.entries.length 0 ≠ .refused)
    (hq : s.credits h.part + o.entries.length ≤ s.fld Fld.MEM_PART_QUOTA_REMOTE_1K h.part * 1024)
    (hv : State.buildMoveIn { s.peerSeen i with freeCtr := (s.peerSeen i).freeCtr + 1 } slot i h o = some v) (ho : o.entries ≠ []) :
    ∃ t m lf g fb, exec (.moveOffer h o) s = .next (t.pumpPulls slot) ∧ t.movesIn = [(slot, ⟨i, o.handle, o.comp, o.epoch⟩)] ∧
      t.sessions = s.sessions.set slot (o.session (s.ses slot).gen h.part i m lf g fb) ∧
      s.Says t h.port (h.reply (.moveAnswer .ok (mkHandle h.part slot (s.ses slot).gen))) .bg ∧
      t = { s with movesIn := t.movesIn, sessions := t.sessions, mortarFrames := t.mortarFrames, regs := t.regs, nextSeq := t.nextSeq,
                   peers := t.peers, ports := t.ports, pmc := t.pmc, out := t.out, aon := t.aon, freeCtr := t.freeCtr } := by
  obtain ⟨x, hx, hup⟩ := carries_port hh.port
  have hdo := doMoveOffer_builds hh hn hr hq hv
  obtain ⟨pe, an, fc, hseen, -⟩ := sees hh.entry
  rw [hseen] at hv
  obtain ⟨mf, r, c, m, lf, g, fb, hv'⟩ := buildMoveIn_some hv
  obtain ⟨y, hy⟩ : ∃ y, y = o.session (s.ses slot).gen h.part i m lf g fb := ⟨_, rfl⟩
  obtain ⟨n, r', pm, l, hbond⟩ := bnd_bondOnce v h.part
  obtain ⟨b, hb⟩ : ∃ b : State, b = { s with
    peers := pe, aon := an, mortarFrames := mf, regs := r', freeCtr := c, nextSeq := n, pmc := pm, out := l ++ s.out
    movesIn := [(slot, ⟨i, o.handle, o.comp, o.epoch⟩)], sessions := s.sessions.set slot y } := ⟨_, rfl⟩
  have hset := ses_set (s := s) (t := v) (k := slot) (x := y) (by rw [hv', hy]; rfl)
  have hbv : v.bondOnce h.part = b := by
    rw [hbond, hv', hb, hy]
    dsimp only
    rw [show s.movesIn = [] from hc.pulls]
    rfl
  have hhandle : v.handleOf slot = mkHandle h.part slot (s.ses slot).gen := by
    unfold State.handleOf
    rw [hset.1, hy]
    rfl
  obtain ⟨hsays, hans⟩ := says_answerMsg (s := b) (h := h) (by rw [hb]; exact hx) hup .bg (.moveAnswer .ok (mkHandle h.part slot (s.ses slot).gen))
    (fun hm => by cases hm)
  obtain ⟨po, hpo⟩ : ∃ po, po = (b.answerMsg h .bg (.moveAnswer .ok (mkHandle h.part slot (s.ses slot).gen))).ports := ⟨_, rfl⟩
  rw [hhandle, hbv, hans, ← hpo] at hdo
  rw [hans, ← hpo] at hsays
  have hpulls : State.checkMoveIn { b with ports := po } slot = State.pumpPulls { b with ports := po } slot := by
    obtain ⟨e, he⟩ := List.exists_mem_of_ne_nil _ ho
    refine checkMoveIn_pulls (s := { b with ports := po }) (m := ⟨i, o.handle, o.comp, o.epoch⟩) (k := e.index)
      (e := { e.entry with tier := .remote, shared := false, peer := i }) (by rw [hb]; exact AMap.get?_set_same ([] : AMap Nat MoveIn) ..) ?_ rfl
    rw [(ses_set (s := s) (t := { b with ports := po }) (k := slot) (x := y) (by rw [hb])).1, hy]
    exact List.mem_map.2 ⟨e, he, rfl⟩
  have hcalm : State.Calm { b with ports := po, movesIn := [] } := by
    refine calm_sessions hc (k := slot) (x := y) (by rw [hy]; rfl) ?_ ?_ ?_ ?_ ?_ ?_ ?_ ?_ <;> rw [hb]
    exact hc.pulls.symm
  refine ⟨{ b with ports := po }, m, lf, g, fb, next_event_pumps (m := ⟨i, o.handle, o.comp, o.epoch⟩) ha (hdo.trans hpulls) hcalm ?_ ?_ ?_, ?_, ?_, ?_, ?_⟩
  · rw [hb]
  · rw [hb]
  · rw [hb]
  · rw [hb]
  · rw [hb, hy]
  · obtain ⟨x', y', hx', hq', hp'⟩ := hsays
    rw [hb] at hx'
    refine ⟨x', y', hx', hq', ?_⟩
    rw [hb] at hp'
    exact hp'
  · rw [hb]

/-- Settles O37: the target by what its new session takes and its first pulls, the source by the four messages that its move can hear. -/
theorem moves : Obligations.Moves := by
  intro s hc ha
  refine ⟨fun h i slot p o v hh hn hr hq hv ho => ?_, fun h i slot p m w hh hm ht => exec_moveAnswer_ok hc ha hh hm ht,
    fun h i slot q p m st w u hh hm hg ht hst ho hq hop => next_abortMove hc ha hh.entry hg (doMoveAnswer_refused hh hm ht hst) ho hq hop,
    fun h i slot p m w hh hk hs hm hi hw he => exec_moveConfirm_waits hc ha hh hk hs hm hi hw he,
    fun h i slot q p m w u hh hk hs hm hi hw he hl ho hq hop => ?_,
    fun h i slot q p m st u hh hk hs hm hi ho hq hop => next_abortMove hc ha hh.entry hm (doMoveAbort_source hh hk hs hm hi) ho hq hop⟩
  · obtain ⟨t, m, lf, g, fb, hex, hin, hset, hsays, hframe⟩ := exec_moveOffer hc ha hh hn hr hq hv ho
    obtain ⟨hses, hother⟩ := ses_set hset
    refine ⟨t, hex, hin, ?_, ?_, ?_, ?_, ?_, ?_, ?_, ?_, ?_, ?_, ?_, ?_, ?_, hother, hsays, hframe⟩ <;> rw [hses] <;> rfl
  · obtain ⟨t, hex, hpost, hout, hset, hfwd, hio⟩ := exec_moveConfirm_commits hc ha hh hk hs hm hi hw he hl ho hq hop
    obtain ⟨hses, hother⟩ := ses_set hset
    exact ⟨t, hex, hpost, hout, by rw [hses]; rfl, by rw [hses]; rfl, hfwd, hother, hio⟩

end Sys2Proof.Machine
end

section
/-!
PROOFS. A request waits for its tokens and then becomes ACTIVE (O38). What O38 says of REQ_SUBMIT holds: `exec_reqSubmit_refuses`, `_text` and
`_tokens`. What it says of TOKENISATION_DONE holds of a request that is not marked as one on the fallback model (`exec_tokenisationDone`), and fails
of one that is, which keeps that mark.
-/

namespace Sys2Proof.Machine

open Sys2Proof

-- What the start of a request reads (R805) ----------------------------------------------------------------------------------------------------------

theorem bump_regs_congr {s t : State} (h : t.regs = s.regs) (f : Field) (i n : Nat) : (t.bump f i n).regs = (s.bump f i n).regs := by
  unfold State.bump State.setFld State.setReg State.fld State.reg
  rw [h]

/-- An allocation of tile frames reads the frames, the registers and the free values alone. -/
theorem allocTile_congr {s t w : State} {p n : Nat} {f : Frame} (hf : t.tileFrames = s.tileFrames) (hc : t.freeCtr = s.freeCtr) (hr : t.regs = s.regs)
    (h : s.allocTile p f = some (n, w)) : t.allocTile p f = some (n, { t with tileFrames := w.tileFrames, freeCtr := w.freeCtr, regs := w.regs }) := by
  have hfirst : t.tileFirst p = s.tileFirst p := fld_congr hr ..
  have hcount : t.tileCount p = s.tileCount p := fld_congr hr ..
  unfold State.allocTile at h ⊢
  rw [hf, hc, hfirst, hcount]
  split at h
  · cases h; dsimp only; rw [← hr]
  · split at h
    · next n h2 =>
      cases h
      have hregs := bump_regs_congr (s := { s with tileFrames := s.tileFrames.set n f }) (t := { t with tileFrames := s.tileFrames.set n f }) hr
        Fld.MEM_ZERO_WAITS_COUNT p 1
      rw [← hregs]
      rfl
    · cases h

theorem allocTiles_congr {p : Nat} {f : Frame} : ∀ (k : Nat) {s t w : State} {l : List Nat}, t.tileFrames = s.tileFrames → t.freeCtr = s.freeCtr →
    t.regs = s.regs → s.allocTiles p f k = some (l, w) →
    t.allocTiles p f k = some (l, { t with tileFrames := w.tileFrames, freeCtr := w.freeCtr, regs := w.regs })
  | 0, s, t, w, l, hf, hc, hr, h => by
    cases h
    rw [← hf, ← hc, ← hr]
    rfl
  | k + 1, s, t, w, l, hf, hc, hr, h => by
    unfold State.allocTiles at h ⊢
    split at h
    · cases h
    · next a s1 h1 =>
      split at h
      · cases h
      · next h2 =>
        cases h
        rw [allocTile_congr hf hc hr h1]
        dsimp only
        rw [allocTiles_congr k (s := s1) (t := { t with tileFrames := s1.tileFrames, freeCtr := s1.freeCtr, regs := s1.regs }) rfl rfl rfl h2]

/-- The request of a submission stands at its session, whose command is the request. -/
def State.requested (s : State) (slot : Nat) (q : Req) : State :=
  { s with sessions := s.sessions.set slot { s.ses slot with op := .request }, reqs := s.reqs.set slot q }

theorem requested_ses (s : State) (slot : Nat) (q : Req) : (s.requested slot q).ses slot = { s.ses slot with op := .request } := (ses_set (s := s) rfl).1

theorem requested_req (s : State) (slot : Nat) (q : Req) : (s.requested slot q).req slot = some q := AMap.get?_set_same ..

theorem checkReqB_requested (s : State) {slot : Nat} {q : Req} (h : q.slot = slot) (r : Req) : (s.requested slot r).checkReqB q = s.checkReqB q := by
  unfold State.checkReqB State.checkGrammar
  rw [h, requested_ses]
  rfl

theorem appendsNothing_requested (s : State) {slot : Nat} {q : Req} (h : q.slot = slot) (r : Req) :
    (s.requested slot r).appendsNothing q = s.appendsNothing q := by
  unfold State.appendsNothing
  rw [h, requested_ses]

theorem needsFallback_requested (s : State) {slot : Nat} {q : Req} (h : q.slot = slot) (r : Req) :
    (s.requested slot r).needsFallback q = s.needsFallback q := by
  unfold State.needsFallback
  rw [h, requested_ses]
  rfl

-- The orders of R805 that a request passes ------------------------------------------------------------------------------------------------------------

section

variable {s : State} {slot : Nat} {q : Req} {c : Ctx}

/-- Order 6 of R805. -/
theorem admitA_ready (hq : s.req slot = some q) (hc : s.ctx q.part q.main = some c) (hr : c.state = .ready) : s.admitA slot = s.admitB slot := by
  unfold State.admitA
  rw [hq]
  dsimp only
  rw [hc]
  dsimp only
  rw [hr]

/-- Orders 7 to 14 of R805. -/
theorem admitB_passes (hq : s.req slot = some q) (hb : s.checkReqB q = none) (ha : s.appendsNothing q = false) :
    s.admitB slot = (s.holdGrammar slot q).admitInput slot := by
  unfold State.admitB
  rw [hq]
  dsimp only
  rw [hb]
  dsimp only
  rw [if_neg (ne_true_of_eq_false ha)]

/-- Order 15 of R805: text within the intake limit is tokenised (R260). -/
theorem admitInput_text {bs : List Byte} (hq : s.req slot = some q) (hi : q.args.input = .text bs)
    (hl : bs.length ≤ zeroActsAs (s.fld Fld.TXT_CFG_MAX_INTAKE_MIB q.part) 1 * 2 ^ 20) :
    s.admitInput slot = s.setReq slot { q with wait := some .tokens } := by
  unfold State.admitInput
  rw [hq]
  dsimp only
  rw [hi]
  dsimp only
  rw [if_neg (Nat.not_lt.2 hl)]

/-- Order 16 of R805. -/
theorem admitInput_tokens {ks : List Nat} (hq : s.req slot = some q) (hi : q.args.input = .tokens ks) (hc : s.ctx q.part q.main = some c)
    (hv : ∀ k ∈ ks, k < c.img.vocab) : s.admitInput slot = s.admitLimit slot := by
  have hany : ks.any (fun t => decide (c.img.vocab ≤ t)) = false := by
    rw [List.any_eq_false]
    exact fun k hk => by rw [decide_eq_true_iff]; exact Nat.not_le.2 (hv k hk)
  unfold State.admitInput
  rw [hq]
  dsimp only
  rw [hi, hc]
  dsimp only
  rw [if_neg (ne_true_of_eq_false hany)]

/-- Orders 17 and 18 of R805, of a request that runs on its main model. -/
theorem admitLimit_main (hq : s.req slot = some q) (hl : (s.ses slot).log.length + q.input.length ≤ 1048576) (hc : s.ctx q.part q.main = some c)
    (hf : s.needsFallback q = false) : s.admitLimit slot = s.admitFrames slot q c.img none := by
  unfold State.admitLimit State.admitC
  rw [hq]
  dsimp only
  rw [if_neg (Nat.not_lt.2 hl), hc]
  dsimp only
  rw [if_pos (by rw [hf]; rfl)]

/-- Order 19 of R805, of a request without a grammar. -/
theorem admitFrames_fits {fs : List Nat} {w : State} (hg : q.args.gram.mode = 0) (hr : s.room q.part (reqTileFrames c.img) 0 = .fits)
    (ha : s.allocTiles q.part ⟨q.part, .priv, 0, slot, []⟩ (reqTileFrames c.img) = some (fs, w)) :
    s.admitFrames slot q c.img none = w.startReq q fs none := by
  have hset : w.setGrammar q = some w := by
    unfold State.setGrammar
    dsimp only
    rw [hg]
    cases w.grammars.get? (q.part, q.args.gram.id) <;> rfl
  unfold State.admitFrames
  dsimp only
  rw [if_neg (by rw [hg]; exact fun h => absurd h.1 (by decide)), hr]
  dsimp only
  rw [ha]
  dsimp only
  rw [hset]

end

-- The start itself (R170, R460) ------------------------------------------------------------------------------------------------------------------------

theorem State.Pre.same {s t : State} (h : s.Pre t) :
    t.sessions = s.sessions ∧ t.reqs = s.reqs ∧ t.handoffs = s.handoffs := by
  obtain ⟨_, _, _, _, _, _, _, _, _, _, _, _, _, _, _, _, _, _, rfl⟩ := h
  exact ⟨rfl, rfl, rfl⟩

/-- `s` with other sessions, requests and handoffs. -/
def State.running (s : State) (x : AMap Nat Session) (r : AMap Nat Req) (h : AMap Nat Handoff) : State :=
  { s with sessions := x, reqs := r, handoffs := h }

theorem State.Pre.running {s t : State} (h : s.Pre t) (x : AMap Nat Session) (r : AMap Nat Req) (y : AMap Nat Handoff) :
    (s.running x r y).Pre (t.running x r y) := by
  obtain ⟨sl, ew, ba, ti, tf, mf, pr, gr, cx, bd, qr, ns, an, fc, rg, po, pm, l, rfl⟩ := h
  exact ⟨sl, ew, ba, ti, tf, mf, pr, gr, cx, bd, qr, ns, an, fc, rg, po, pm, l, rfl⟩

theorem State.Work.after {s v t : State} (h : s.Io v) (g : v.Work t) : s.Work t := by
  obtain ⟨l, _, _, _, _, _, rfl⟩ := h
  obtain ⟨l', pm, sq, cq, bo, ar, g⟩ := g
  exact ⟨l' ++ l, pm, sq, cq, bo, ar, by rw [List.append_assoc]; exact g⟩

/-- Sessions, requests and handoffs apart, what the start of a request changes is of its own work. -/
theorem State.Pre.work {s t : State} (h : s.Pre t) (x : AMap Nat Session) (r : AMap Nat Req) (y : AMap Nat Handoff) : s.Work (t.running x r y) := by
  obtain ⟨sl, ew, ba, ti, tf, mf, pr, gr, cx, bd, qr, ns, an, fc, rg, po, pm, l, rfl⟩ := h
  exact ⟨l, pm, s.sqs, s.cqs, s.bounce, s.arrived, rfl⟩

/-- A request in its appending phase, over the tokens to append from a position on (R460). -/
def Req.appends (q : Req) (pos : Nat) (toks : List Nat) : Req :=
  { q with phase := .appending, appendFrom := pos, appendTokens := toks, rangeTo := pos + toks.length }

/-- The handoff of a session's request over the tokens to append (R460). -/
def Session.appendHandoff (x : Session) (toks : List Nat) (id : Nat) : Handoff :=
  ⟨x.nextPos, x.nextPos + toks.length, [], [], id, false, 0, 0, x.state, none⟩

/-- The appending phase of a request with tokens to append opens its handoff (R460, R580). -/
theorem beginAppend_opens {s : State} {slot : Nat} {q : Req} {c : CtxImage} {toks : List Nat} (hq : s.req slot = some q) (hc : s.mainImg slot = some c)
    (ht : toks = logTokens (s.ses slot).log (s.ses slot).nextPos ++ q.input) (hn : toks ≠ []) :
    ∃ v id, s.Pre v ∧ s.beginAppend slot = v.running s.sessions (s.reqs.set slot (q.appends (s.ses slot).nextPos toks))
      (s.handoffs.set slot ((s.ses slot).appendHandoff toks id)) := by
  have hempty : toks.isEmpty = false := by rw [List.isEmpty_eq_false_iff]; exact hn
  obtain ⟨s1, h1⟩ : ∃ s1, s1 = s.setReq slot { q with
    phase := .appending, appendFrom := (s.ses slot).nextPos, appendTokens := toks, rangeTo := (s.ses slot).nextPos + toks.length } := ⟨_, rfl⟩
  obtain ⟨b, n, r, hbond, -⟩ := openBond_spec s1 (s1.ses slot).part .handoff slot (some ⟨q.fn, q.sq, q.tag⟩) false 0
  have hopen : s1.openHandoff slot (s.ses slot).nextPos ((s.ses slot).nextPos + toks.length) false 0 0 (s.ses slot).state none =
      { s1 with
        nextSeq := n, regs := r, bonds := s1.bonds ++ [b]
        handoffs := s1.handoffs.set slot ((s.ses slot).appendHandoff toks (s1.nextBond (s1.ses slot).part)) } := by
    have hreq : s1.req slot = some (q.appends (s.ses slot).nextPos toks) := by rw [h1]; exact AMap.get?_set_same ..
    unfold State.openHandoff
    dsimp only
    rw [hreq]
    dsimp only [Req.appends]
    rw [hbond]
    rfl
  obtain ⟨po, hsend⟩ := sendChain_frame (s1.openHandoff slot (s.ses slot).nextPos ((s.ses slot).nextPos + toks.length) false 0 0 (s.ses slot).state none)
    q 1 (s.ses slot).nextPos toks
  refine ⟨{ s with nextSeq := n, regs := r, bonds := s.bonds ++ [b], ports := po }, s1.nextBond (s1.ses slot).part,
    ⟨s.slices, s.expertWait, s.batches, s.tiles, s.tileFrames, s.mortarFrames, s.prefixes, s.grammars, s.ctxs, _, s.qry,
      _, s.aon, s.freeCtr, _, _, s.pmc, [], rfl⟩, ?_⟩
  unfold State.beginAppend
  rw [hq, hc]
  dsimp only
  rw [← ht, ← h1, hempty, Bool.false_and, if_neg Bool.false_ne_true, if_neg Bool.false_ne_true, hsend, hopen, h1]
  rfl

/-- The session of a request as the request starts (R59, R170). -/
def Session.starts (x : Session) (q : Req) (epoch : Nat) : Session :=
  { x with
    reqCount := (x.reqCount + 1) % 2 ^ 32, epoch := epoch, hints := match q.args.hints with | some h => h | none => x.hints,
    state := if x.state = .opened ∨ x.state = .waiting then .active else x.state }

/-- A request as it starts on the main model of its session, with its epoch and its penalty table (R170, R302, R598). -/
def Req.starts (q : Req) (id : Nat) (frames : List Nat) (pen : Penalty) (comp epoch : Nat) : Req :=
  { q.tally id 0 with
    wait := none, seed := q.args.sample.seed, frames := frames, pen := pen, maskReady := q.args.gram.mode == 0, startedFallback := false,
    comp := comp, epoch := epoch }

/-- The bond that records the start of a request, and the count of a penalty table that overflows. -/
def State.recordStart (s : State) (slot : Nat) (q r : Req) : State :=
  let t := ((s.recordBond slot).modSes slot (fun y => y.starts q r.epoch)).setReq slot r
  if r.pen.overflowed then t.bump Fld.SMP_OVERFLOWS_COUNT q.part else t

theorem recordStart_frame (s : State) (slot : Nat) (q r : Req) : ∃ w, s.Bnd w ∧ s.recordStart slot q r =
    w.running (s.sessions.set slot ((s.ses slot).starts q r.epoch)) (s.reqs.set slot r) s.handoffs := by
  obtain ⟨n, rg, pm, l, hrec⟩ := bnd_recordBond s slot
  unfold State.recordStart
  rw [hrec]
  dsimp only
  split
  · exact ⟨_, (bnd_recordBond s slot).trans (bnd_bump _ Fld.SMP_OVERFLOWS_COUNT q.part 1), by rw [hrec]; rfl⟩
  · exact ⟨_, bnd_recordBond s slot, by rw [hrec]; rfl⟩

/-- A request that starts on the main model of a session that is not parked begins its appending phase there. -/
theorem startReq_main {s : State} {slot : Nat} {q r : Req} {fs : List Nat} (hs : q.slot = slot)
    (hst : (s.ses slot).state = .opened ∨ (s.ses slot).state = .waiting) (hseed : q.args.sample.seedDevice = false) (hx : q.exact = false)
    (hfb : q.fbCtx = 0x3F) (hr : r = q.starts (s.nextBond q.part) fs (Penalty.ofLog q.args.sample (s.ses slot).log) (s.ses slot).comp
      (match s.compHeld (s.ses slot).comp with | some c => c.cur.epoch | none => 0)) :
    s.startReq q fs none = (s.recordStart slot q r).beginAppend slot := by
  subst hs
  have hseed' : s.seedFor q = (q.args.sample.seed, s) := by
    unfold State.seedFor
    rw [if_neg (ne_true_of_eq_false hseed)]
  obtain ⟨w, -, hw⟩ := recordStart_frame s q.slot q r
  have hreturn : (s.recordStart q.slot q r).cannotReturn q = none := by
    have hstate : ((s.recordStart q.slot q r).ses q.slot).state = .active := by
      rw [(ses_set (s := s) (t := s.recordStart q.slot q r) (by rw [hw]; rfl)).1]
      exact if_pos hst
    unfold State.cannotReturn
    rw [hx, if_neg Bool.false_ne_true, hstate, if_neg (fun h => by cases h.1)]
  have hown : (s.recordStart q.slot q r).beginOwn q.slot = (s.recordStart q.slot q r).beginAppend q.slot := by
    unfold State.beginOwn
    rw [show (s.recordStart q.slot q r).req q.slot = some r by rw [hw]; exact AMap.get?_set_same ..]
    exact if_pos (by rw [hr]; exact hfb)
  have hparked : (s.ses q.slot).state ≠ .parked := by
    rcases hst with h | h <;> rw [h] <;> decide
  have hdef : s.startReq q fs none = match (s.recordStart q.slot q r).cannotReturn q with
      | some st => (s.recordStart q.slot q r).endReq q.slot st
      | none => (if (s.ses q.slot).state = .parked then
          ((s.recordStart q.slot q r).startRevive q.slot none).checkRevive q.slot ((s.recordStart q.slot q r).nextBond q.part)
        else s.recordStart q.slot q r).beginOwn q.slot := by
    subst hr
    unfold State.startReq
    dsimp only
    rw [hseed', hx]
    rfl
  rw [hdef, hreturn]
  dsimp only
  rw [if_neg hparked, hown]

/-- A request that starts on the main model of a session that is not parked is ACTIVE in its appending phase (R59, R170, R460). -/
theorem startReq_appends {s : State} {slot : Nat} {q : Req} {c : Ctx} {fs toks : List Nat} (hs : q.slot = slot) (hp : q.part = (s.ses slot).part)
    (hm : q.main = (s.ses slot).main) (hc : s.ctx q.part q.main = some c) (hst : (s.ses slot).state = .opened ∨ (s.ses slot).state = .waiting)
    (hseed : q.args.sample.seedDevice = false) (hx : q.exact = false) (hfb : q.fbCtx = 0x3F)
    (ht : toks = logTokens (s.ses slot).log (s.ses slot).nextPos ++ q.input) (hn : toks ≠ []) :
    ∃ v id b pen e, s.Pre v ∧ s.startReq q fs none = v.running (s.sessions.set slot ((s.ses slot).starts q e))
      (s.reqs.set slot ((q.starts b fs pen (s.ses slot).comp e).appends (s.ses slot).nextPos toks))
      (s.handoffs.set slot (((s.ses slot).starts q e).appendHandoff toks id)) := by
  obtain ⟨r, hr⟩ : ∃ r, r = q.starts (s.nextBond q.part) fs (Penalty.ofLog q.args.sample (s.ses slot).log) (s.ses slot).comp
      (match s.compHeld (s.ses slot).comp with | some c => c.cur.epoch | none => 0) := ⟨_, rfl⟩
  obtain ⟨w, hbnd, hw⟩ := recordStart_frame s slot q r
  obtain ⟨t, htd⟩ : ∃ t, t = s.recordStart slot q r := ⟨_, rfl⟩
  have hses := ses_set (s := s) (t := t) (k := slot) (x := (s.ses slot).starts q r.epoch) (by rw [htd, hw]; rfl)
  have hreq : t.req slot = some r := by rw [htd, hw]; exact AMap.get?_set_same ..
  have himg : t.mainImg slot = some c.img := by
    have hctx : t.ctx (s.ses slot).part (s.ses slot).main = some c := by
      rw [← hp, ← hm, htd, hw]
      obtain ⟨_, _, _, _, rfl⟩ := hbnd
      exact hc
    unfold State.mainImg
    rw [hses.1]
    dsimp only [Session.starts]
    rw [hctx]
    rfl
  obtain ⟨v, id, hpre, hbegin⟩ := beginAppend_opens (toks := toks) hreq himg (by rw [hses.1, hr]; exact ht) hn
  have hback : t.running s.sessions s.reqs s.handoffs = w := by
    rw [htd, hw]
    obtain ⟨_, _, _, _, rfl⟩ := hbnd
    rfl
  refine ⟨v.running s.sessions s.reqs s.handoffs, id, s.nextBond q.part, Penalty.ofLog q.args.sample (s.ses slot).log, r.epoch,
    (State.Pre.of_bnd hbnd).trans (hback ▸ hpre.running s.sessions s.reqs s.handoffs), ?_⟩
  rw [startReq_main hs hst hseed hx hfb hr, ← htd, hbegin, hses.1, htd, hw, hr]
  dsimp only [State.running]
  rw [AMap.set_set]
  rfl

/-- `v` with the ACTIVE session, the request in its appending phase and the handoff of a start in `s`: with the frames, and with a bond, a penalty
table and an epoch that the device gives them. -/
def State.started (s v : State) (slot : Nat) (q : Req) (fs : List Nat) (id b : Nat) (pen : Penalty) (e : Nat) : State :=
  let x := s.ses slot
  let toks := logTokens x.log x.nextPos ++ q.input
  v.running (s.sessions.set slot (x.starts q e)) (s.reqs.set slot ((q.starts b fs pen x.comp e).appends x.nextPos toks))
    (s.handoffs.set slot ((x.starts q e).appendHandoff toks id))

/-- Orders 17 to 19 of R805, of a request that runs on its main model and finds its frames: it starts (R170, R460). -/
theorem admitLimit_appends {s w : State} {slot : Nat} {q : Req} {c : Ctx} {fs : List Nat} (hq : s.req slot = some q) (hs : q.slot = slot)
    (hp : q.part = (s.ses slot).part) (hm : q.main = (s.ses slot).main) (hc : s.ctx q.part q.main = some c)
    (hst : (s.ses slot).state = .opened ∨ (s.ses slot).state = .waiting) (hl : (s.ses slot).log.length + q.input.length ≤ 1048576)
    (hf : s.needsFallback q = false) (hg : q.args.gram.mode = 0) (hseed : q.args.sample.seedDevice = false) (hx : q.exact = false)
    (hfb : q.fbCtx = 0x3F) (hn : q.input ≠ []) (hr : s.room q.part (reqTileFrames c.img) 0 = .fits)
    (ha : s.allocTiles q.part ⟨q.part, .priv, 0, slot, []⟩ (reqTileFrames c.img) = some (fs, w)) :
    ∃ v id b pen e, s.Pre v ∧ s.admitLimit slot = s.started v slot q fs id b pen e := by
  rw [admitLimit_main hq hl hc hf, admitFrames_fits hg hr ha]
  have hpre : s.Pre w := .of_drops (.of_fr (fr_allocTiles ha))
  obtain ⟨a, b, r, rfl⟩ := allocTiles_exact _ ha
  obtain ⟨v, id, b, pen, e, hv, hstart⟩ := startReq_appends (s := { s with tileFrames := a, freeCtr := b, regs := r }) (fs := fs) hs hp hm hc hst hseed hx
    hfb rfl (List.append_ne_nil_of_right_ne_nil _ hn)
  exact ⟨v, id, b, pen, e, hpre.trans hv, hstart⟩

/-- A request is in its appending phase over its input, with its handoff open, and its session is ACTIVE; of other sessions nothing has changed. -/
structure State.Appends (s t : State) (slot : Nat) (q : Req) (fs : List Nat) (op : SesOp) (r : Req) (h : Handoff) : Prop where
  request : t.req slot = some r
  handoff : t.handoffs.get? slot = some h
  input   : r.input = q.input
  phase   : r.phase = .appending ∧ r.wait = none ∧ r.frames = fs
  model   : r.onFallback = q.onFallback
  start   : r.appendFrom = (s.ses slot).nextPos
  tokens  : r.appendTokens = logTokens (s.ses slot).log (s.ses slot).nextPos ++ q.input
  stop    : r.rangeTo = r.appendFrom + r.appendTokens.length
  range   : h.first = r.appendFrom ∧ h.last = r.rangeTo ∧ h.staged = [] ∧ h.rebuild = false
  active  : (t.ses slot).state = .active ∧ (t.ses slot).op = op ∧ (t.ses slot).reqCount = ((s.ses slot).reqCount + 1) % 2 ^ 32
  log     : (t.ses slot).log = (s.ses slot).log ∧ (t.ses slot).nextPos = (s.ses slot).nextPos
  others  : ∀ j, j ≠ slot → t.ses j = s.ses j ∧ t.req j = s.req j
  only    : t.sessions = s.sessions.set slot (t.ses slot) ∧ (t.ses slot).waiting = (s.ses slot).waiting
  work    : s.Work t

/-- What a start leaves, from the state at which the request of the session stood to its limit checks. -/
theorem started_appends {s d v : State} {slot id b e : Nat} {q : Req} {fs : List Nat} {pen : Penalty} {op : SesOp}
    (hd : d.ses slot = { s.ses slot with op := op }) (hst : (s.ses slot).state = .opened ∨ (s.ses slot).state = .waiting)
    (hs : ∀ y, d.sessions.set slot y = s.sessions.set slot y) (hr : ∀ y, d.reqs.set slot y = s.reqs.set slot y)
    (hw : ∀ x r y, s.Work (v.running x r y)) : ∃ r h, s.Appends (d.started v slot q fs id b pen e) slot q fs op r h := by
  obtain ⟨hses, hother⟩ := ses_set (s := s) (t := d.started v slot q fs id b pen e) (hs _)
  have hreqs : (d.started v slot q fs id b pen e).reqs = s.reqs.set slot _ := hr _
  refine ⟨_, _, AMap.get?_set_same .., AMap.get?_set_same .., rfl, ⟨rfl, rfl, rfl⟩, rfl, ?_, ?_, rfl, ⟨rfl, rfl, rfl, rfl⟩, ⟨?_, ?_, ?_⟩, ⟨?_, ?_⟩,
    fun j hj => ⟨hother j hj, by unfold State.req; rw [hreqs]; exact AMap.get?_set_other _ _ hj⟩, ⟨?_, ?_⟩, hw ..⟩
  · rw [hd]; rfl
  · rw [hd]; rfl
  · rw [hses, hd]; exact if_pos hst
  · rw [hses, hd]; rfl
  · rw [hses, hd]; rfl
  · rw [hses, hd]; rfl
  · rw [hses, hd]; rfl
  · rw [hses]; exact hs _
  · rw [hses, hd]; rfl

/-- A start in a calm device leaves it calm, with its memory as it was. -/
theorem State.Appends.calm {s t : State} {slot : Nat} {q r : Req} {fs : List Nat} {op : SesOp} {h : Handoff} (a : s.Appends t slot q fs op r h)
    (hc : s.Calm) : t.Calm ∧ s.kept t = t := by
  have hw : s.Io _ := a.work
  exact ⟨a.work.calm hc (a.only.2.trans (ses_waiting hc slot)) a.only.1, kept_self hw.flash hw.pending⟩

-- REQ_SUBMIT (R257, R805) ------------------------------------------------------------------------------------------------------------------------------

/-- REQ_SUBMIT that passes orders 1 to 5 of R805: the request stands at its session. -/
theorem doReqSubmit_admits {s : State} {u : Sub} {a : ReqArgs} {q : Req} (hk : s.checkReqA u a = none) (hn : (s.ses u.slot).noted = [])
    (hq : q = newReq u a (s.ses u.slot).part u.slot (s.ses u.slot).main (s.ctxClass (s.ses u.slot).part (s.ses u.slot).main == .lc)
      (s.marks (s.ses u.slot).part) []) : doReqSubmit u a s = (s.requested u.slot q).admitA u.slot := by
  have hreq : s.modSes u.slot (fun y => { y with op := .request, noted := y.noted.filter (fun n => n.1 != u) }) =
      { s with sessions := s.sessions.set u.slot { s.ses u.slot with op := .request } } := by
    rw [modSes_eq rfl, hn]
    dsimp only [List.filter_nil]
    rw [← hn]
  unfold doReqSubmit
  dsimp only
  rw [hk]
  dsimp only
  rw [hn, hreq, hq]
  rfl

/-- Orders 1 to 5 of R805. -/
theorem checkReqA_refuses {s : State} {u : Sub} {a : ReqArgs} {st : Status} {x : Session} (hx : s.ses u.slot = x)
    (h : let block := u.paramBad = true ∨ a.block ≠ 0x70 + (a.stops.map List.length).sum
      let resv := u.resv = true ∨ a.sample.resv = true ∨ a.text.resv = true ∨ a.gram.resv = true
      let map := ∃ c, s.compHeld x.comp = some c ∧ c.part = x.part ∧ c.main = x.main
      block ∧ st = .configParamBlock ∨ ¬block ∧ (resv ∧ st = .configReservedField ∨ ¬resv ∧
        (x.state = .failed ∧ u.flags.exact = false ∧ st = .stateLostFailed ∨
          u.flags.exact = true ∧ x.state ≠ .parked ∧ x.state ≠ .failed ∧ st = .configWrongState ∨
          u.flags.exact = false ∧ x.state ≠ .opened ∧ x.state ≠ .waiting ∧ x.state ≠ .parked ∧ x.state ≠ .failed ∧ s.movesIn.has u.slot = false ∧
            st = .configWrongState ∨
          (if u.flags.exact then x.state = .parked ∨ x.state = .failed else x.state = .opened ∨ x.state = .waiting ∨ x.state = .parked) ∧
            u.flags.fallback = false ∧ x.comp ≠ 0 ∧ ¬map ∧ st = .configCompositionUnknown))) : s.checkReqA u a = some st := by
  have hblock : (u.paramBad || !a.blockOk) = true ↔ u.paramBad = true ∨ a.block ≠ 0x70 + (a.stops.map List.length).sum := by
    simp [ReqArgs.blockOk]
  have hresv : (u.resv || a.sample.resv || a.text.resv || a.gram.resv) = true ↔
      u.resv = true ∨ a.sample.resv = true ∨ a.text.resv = true ∨ a.gram.resv = true := by
    simp only [Bool.or_eq_true, or_assoc]
  unfold State.checkReqA
  dsimp only at h ⊢
  rw [hx]
  rcases h with ⟨hb, rfl⟩ | ⟨hb, h⟩
  · rw [if_pos (hblock.2 hb)]
  rw [if_neg (mt hblock.1 hb)]
  rcases h with ⟨hr, rfl⟩ | ⟨hr, h⟩
  · rw [if_pos (hresv.2 hr)]
  rw [if_neg (mt hresv.1 hr)]
  rcases h with ⟨hf, he, rfl⟩ | ⟨he, hp, hf, rfl⟩ | ⟨he, ho, hw, hp, hf, hm, rfl⟩ | ⟨hst, hfb, hcomp, hmap, rfl⟩
  · rw [if_pos ⟨hf, ne_true_of_eq_false he⟩]
  · rw [if_neg (fun h => hf h.1), if_pos ⟨he, hp, hf⟩]
  · rw [if_neg (fun h => hf h.1), if_neg (fun h => ne_true_of_eq_false he h.1), if_pos ⟨ho, hw, hp, hf, ne_true_of_eq_false hm⟩]
  · have hfailed : ¬(x.state = .failed ∧ ¬u.flags.exact = true) := fun h => by
      rw [if_neg h.2, h.1] at hst
      rcases hst with h | h | h <;> cases h
    have hexact : ¬(u.flags.exact = true ∧ x.state ≠ .parked ∧ x.state ≠ .failed) := fun h => by
      rw [if_pos h.1] at hst
      exact hst.elim h.2.1 h.2.2
    have hknown : ¬(x.state ≠ .opened ∧ x.state ≠ .waiting ∧ x.state ≠ .parked ∧ x.state ≠ .failed ∧ ¬s.movesIn.has u.slot = true) := fun h => by
      split at hst
      · exact hst.elim h.2.2.1 h.2.2.2.1
      · exact hst.elim h.1 (fun g => g.elim h.2.1 h.2.2.1)
    rw [if_neg hfailed, if_neg hexact, if_neg hknown, if_neg (by simp [hfb, hcomp])]
    cases hheld : s.compHeld x.comp with
    | none => rfl
    | some c => exact if_neg (fun h => hmap ⟨c, hheld, h⟩)

theorem setReq_req (s : State) (slot : Nat) (q : Req) : (s.setReq slot q).req slot = some q := AMap.get?_set_same ..

/-- Orders 1 to 5 of R805 refuse a submission without effect. -/
theorem exec_reqSubmit_refuses {s : State} {u : Sub} {a : ReqArgs} {st : Status} (hc : s.Calm) (ht : s.Takes u (.reqSubmit a)) (hq : s.Quiet u.slot)
    (h : s.checkReqA u a = some st) : ∃ t, exec (.reqSubmit u a) s = .next t ∧ s.Posts t u st 0 0 ∧ s.Io t := by
  refine quiet_refuses hc ht rfl hq (fun v hv => ?_)
  have hv' : v.checkReqA u a = some st := by
    obtain ⟨_, _, _, _, _, _, rfl⟩ := hv
    exact h
  show doReqSubmit u a v = v.complete u st
  unfold doReqSubmit
  dsimp only
  rw [hv']

/-- A request that names a grammar becomes one of its users (R287). -/
theorem holdGrammar_eq {s : State} {slot : Nat} {q : Req} (hq : s.req slot = some q) (hn : q.grammar = none) : s.holdGrammar slot q =
    State.setReq { s with grammars := if q.args.gram.mode = 0 then s.grammars
      else s.grammars.modify (q.part, q.args.gram.id) (fun r => { r with users := r.users + 1 }) } slot
      { q with grammar := if q.args.gram.mode = 0 then none else some q.args.gram.id } := by
  unfold State.holdGrammar
  dsimp only
  split
  · have hself : ({ q with grammar := none } : Req) = q := by rw [← hn]
    unfold State.setReq
    rw [hself]
    dsimp only
    rw [AMap.set_get?_self hq]
  · rfl

/-- Orders 6 to 14 of R805. -/
theorem requested_passes {s : State} {slot : Nat} {q : Req} {c : Ctx} (hs : q.slot = slot) (hc : s.ctx q.part q.main = some c) (hr : c.state = .ready)
    (hb : s.checkReqB q = none) (ha : s.appendsNothing q = false) :
    (s.requested slot q).admitA slot = ((s.requested slot q).holdGrammar slot q).admitInput slot :=
  (admitA_ready (requested_req ..) hc hr).trans
    (admitB_passes (requested_req ..) (by rw [checkReqB_requested s hs]; exact hb) (by rw [appendsNothing_requested s hs]; exact ha))

/-- Orders 1 to 14 of R805, as the fetched submission passes them. -/
theorem reqSubmit_passes {s v : State} {u : Sub} {a : ReqArgs} {c : Ctx} {q : Req} (hv : s.Io v) (hk : s.checkReqA u a = none)
    (hn : (s.ses u.slot).noted = []) (hq : q = newReq u a (s.ses u.slot).part u.slot (s.ses u.slot).main
      (s.ctxClass (s.ses u.slot).part (s.ses u.slot).main == .lc) (s.marks (s.ses u.slot).part) [])
    (hc : s.ctx q.part q.main = some c) (hr : c.state = .ready) (hb : s.checkReqB q = none) (ha : s.appendsNothing q = false) :
    v.startHost u (.reqSubmit a) = ((v.requested u.slot q).holdGrammar u.slot q).admitInput u.slot := by
  obtain ⟨l, pm, sq, cq, bo, ar, rfl⟩ := hv
  exact (doReqSubmit_admits (s := s.io (l ++ s.out) pm sq cq bo ar) hk hn hq).trans
    (requested_passes (s := s.io (l ++ s.out) pm sq cq bo ar) (by rw [hq]; rfl) hc hr hb ha)

/-- R257, R260: REQ_SUBMIT with text that passes its checks waits for its tokens. -/
theorem exec_reqSubmit_text {s : State} {u : Sub} {a : ReqArgs} {bs : List Byte} {c : Ctx} {q : Req} (hcalm : s.Calm) (ht : s.Takes u (.reqSubmit a))
    (hquiet : s.Quiet u.slot) (hk : s.checkReqA u a = none) (hn : (s.ses u.slot).noted = [])
    (hq : q = newReq u a (s.ses u.slot).part u.slot (s.ses u.slot).main (s.ctxClass (s.ses u.slot).part (s.ses u.slot).main == .lc)
      (s.marks (s.ses u.slot).part) []) (hc : s.ctx q.part q.main = some c) (hr : c.state = .ready) (hb : s.checkReqB q = none)
    (ha : s.appendsNothing q = false) (hi : a.input = .text bs) (hl : bs.length ≤ zeroActsAs (s.fld Fld.TXT_CFG_MAX_INTAKE_MIB q.part) 1 * 2 ^ 20) :
    ∃ t, exec (.reqSubmit u a) s = .next t ∧
      t.reqs = s.reqs.set u.slot { q with wait := some .tokens, grammar := if a.gram.mode = 0 then none else some a.gram.id } ∧
      t.grammars = (if a.gram.mode = 0 then s.grammars else s.grammars.modify (q.part, a.gram.id) (fun r => { r with users := r.users + 1 })) ∧
      t.sessions = s.sessions.set u.slot { s.ses u.slot with op := .request } ∧
      s.Io { t with reqs := s.reqs, sessions := s.sessions, grammars := s.grammars } := by
  obtain rfl : a = q.args := by rw [hq]; rfl
  obtain ⟨v, hv, hnext⟩ := next_quiet ht rfl hquiet
  obtain ⟨l, pm, sq, cq, bo, ar, hs⟩ := hv.1
  obtain ⟨g, hg⟩ : ∃ g, g = if q.args.gram.mode = 0 then s.grammars
    else s.grammars.modify (q.part, q.args.gram.id) (fun r => { r with users := r.users + 1 }) := ⟨_, rfl⟩
  obtain ⟨r, hreq⟩ : ∃ r : Req, r = { q with
    wait := some .tokens, grammar := if q.args.gram.mode = 0 then none else some q.args.gram.id } := ⟨_, rfl⟩
  obtain ⟨t, htd⟩ : ∃ t : State, t = { v with
    grammars := g, sessions := s.sessions.set u.slot { s.ses u.slot with op := .request }, reqs := s.reqs.set u.slot r } := ⟨_, rfl⟩
  have hdo : v.startHost u (.reqSubmit q.args) = t := by
    rw [reqSubmit_passes hv.1 hk hn hq hc hr hb ha, holdGrammar_eq (requested_req ..) (by rw [hq]; rfl),
      admitInput_text (q := { q with grammar := if q.args.gram.mode = 0 then none else some q.args.gram.id }) (setReq_req ..) hi (by rw [hs]; exact hl),
      htd, hs, hg, hreq]
    unfold State.setReq State.requested
    dsimp only
    rw [AMap.set_set, AMap.set_set]
    rfl
  have hcalm' : t.Calm := calm_sessions (hcalm.io hv.1) (k := u.slot) (x := { s.ses u.slot with op := .request }) (ses_waiting hcalm u.slot)
    (by rw [htd, hs]) (by rw [htd]) (by rw [htd]) (by rw [htd]) (by rw [htd]) (by rw [htd]) (by rw [htd]) (by rw [htd])
  have hkept : s.kept t = t := kept_self (by rw [htd, hs]) (by rw [htd, hs])
  exact ⟨t, (hnext t hdo hcalm').trans (by rw [hkept]), by rw [htd, hreq], by rw [htd, hg], by rw [htd], l, pm, sq, cq, bo, ar, by rw [htd, hs]⟩

/-- R170, R337, R460: REQ_SUBMIT with tokens that passes its checks and finds its frames starts its request. -/
theorem exec_reqSubmit_tokens {s w : State} {u : Sub} {a : ReqArgs} {ks fs : List Nat} {c : Ctx} {q : Req} (hcalm : s.Calm)
    (ht : s.Takes u (.reqSubmit a)) (hquiet : s.Quiet u.slot) (hk : s.checkReqA u a = none) (hn : (s.ses u.slot).noted = [])
    (hq : q = newReq u a (s.ses u.slot).part u.slot (s.ses u.slot).main (s.ctxClass (s.ses u.slot).part (s.ses u.slot).main == .lc)
      (s.marks (s.ses u.slot).part) []) (hc : s.ctx q.part q.main = some c) (hr : c.state = .ready) (hb : s.checkReqB q = none)
    (ha : s.appendsNothing q = false) (hi : a.input = .tokens ks) (hks : ks ≠ []) (hvocab : ∀ k ∈ ks, k < c.img.vocab)
    (hl : (s.ses u.slot).log.length + ks.length ≤ 1048576) (hst : (s.ses u.slot).state = .opened ∨ (s.ses u.slot).state = .waiting)
    (hf : s.needsFallback q = false) (hg : a.gram.mode = 0) (hseed : a.sample.seedDevice = false) (hx : u.flags.exact = false)
    (hroom : s.room q.part (reqTileFrames c.img) 0 = .fits)
    (hw : s.allocTiles q.part ⟨q.part, .priv, 0, u.slot, []⟩ (reqTileFrames c.img) = some (fs, w)) :
    ∃ t r h, exec (.reqSubmit u a) s = .next t ∧ s.Appends t u.slot q fs .request r h := by
  obtain rfl : a = q.args := by rw [hq]; rfl
  obtain ⟨v, hv, hnext⟩ := next_quiet ht rfl hquiet
  have hslot : q.slot = u.slot := by rw [hq]; rfl
  have hinput : q.input = ks := by rw [hq]; unfold newReq; rw [hi]
  have hdses : (v.requested u.slot q).ses u.slot = { s.ses u.slot with op := .request } := by
    rw [requested_ses]
    obtain ⟨_, _, _, _, _, _, hs⟩ := hv.1
    rw [hs]
    rfl
  have hdo : v.startHost u (.reqSubmit q.args) = (v.requested u.slot q).admitLimit u.slot := by
    rw [reqSubmit_passes hv.1 hk hn hq hc hr hb ha]
    unfold State.holdGrammar
    dsimp only
    rw [if_pos hg]
    exact admitInput_tokens (requested_req ..) hi (by obtain ⟨_, _, _, _, _, _, hs⟩ := hv.1; rw [hs]; exact hc) hvocab
  obtain ⟨l, pm, sq, cq, bo, ar, hs⟩ := hv.1
  have hfallback : (v.requested u.slot q).needsFallback q = false := by
    rw [needsFallback_requested v hslot, hs]
    exact hf
  obtain ⟨y, id, b, pen, e, hpre, hstart⟩ := admitLimit_appends (c := c) (requested_req v u.slot q) hslot (by rw [hdses, hq]; rfl) (by rw [hdses, hq]; rfl)
    (by rw [hs]; exact hc) (by rw [hdses]; exact hst) (by rw [hdses, hinput]; exact hl) hfallback hg hseed (by rw [hq]; exact hx) (by rw [hq]; rfl)
    (by rw [hinput]; exact hks) (by rw [hs]; exact hroom) (allocTiles_congr _ (by rw [hs]; rfl) (by rw [hs]; rfl) (by rw [hs]; rfl) hw)
  have hwork : ∀ x r z, s.Work (y.running x r z) := fun x r z =>
    State.Work.after hv.1 ((hpre.running v.sessions v.reqs v.handoffs).work x r z)
  obtain ⟨r, h, happ⟩ := started_appends (s := s) (d := v.requested u.slot q) (v := y) (slot := u.slot) (id := id) (b := b) (e := e) (q := q) (fs := fs)
    (pen := pen) hdses hst (fun z => by rw [hs]; exact AMap.set_set ..) (fun z => by rw [hs]; exact AMap.set_set ..) hwork
  rw [← hstart] at happ
  obtain ⟨hcalm', hkept⟩ := happ.calm hcalm
  exact ⟨_, r, h, (hnext _ hdo hcalm').trans (by rw [hkept]), happ⟩

-- TOKENISATION_DONE (R260 to R262) ----------------------------------------------------------------------------------------------------------------------

/-- Text whose bytes the request admits is tokenised, and goes to the limit checks (R261, R262, R805). -/
theorem doTokenisationDone_admits {s : State} {slot k : Nat} {q : Req} {bs : List Byte} {x : TextSet} {ks : List Nat} (hq : s.req slot = some q)
    (hi : q.args.input = .text bs) (hx : s.textOf q.part q.main = some x) (hw : q.wait = some .tokens)
    (hk : x.invalidBytes q.args.text.specials bs = k) (hbad : k = 0 ∨ q.args.text.strictUtf8 = false) (ht : x.tokenise q.args.text.specials bs = ks) :
    ∃ pm l, doTokenisationDone slot s = State.admitLimit { s.bump Fld.TXT_INVALID_COUNT q.part k with
      pmc := pm, out := l ++ s.out, reqs := s.reqs.set slot { q with wait := none, input := ks } } slot := by
  obtain ⟨pm, l, hcount⟩ := count_frame s (PmcEv.ofPart 0x30 bs.length q.part (s.ctxClass q.part q.main))
  refine ⟨pm, l, ?_⟩
  unfold doTokenisationDone
  rw [hq]
  dsimp only
  rw [hi, hx]
  dsimp only
  rw [if_neg (fun h => h hw), hk, if_neg (fun h => hbad.elim h.1 (ne_true_of_eq_false · h.2)), ht, hcount]
  rfl

/-- R260, R170, R337, R460: with its tokens there, and its frames, a request starts. -/
theorem exec_tokenisationDone {s w : State} {slot k : Nat} {q : Req} {bs : List Byte} {x : TextSet} {c : Ctx} {ks fs : List Nat} (hcalm : s.Calm)
    (hawake : s.awake = true) (hq : s.req slot = some q) (hs : q.slot = slot) (hp : q.part = (s.ses slot).part) (hm : q.main = (s.ses slot).main)
    (hi : q.args.input = .text bs) (hx : s.textOf q.part q.main = some x) (hwait : q.wait = some .tokens) (hfb : q.fbCtx = 0x3F)
    (hk : x.invalidBytes q.args.text.specials bs = k) (hbad : k = 0 ∨ q.args.text.strictUtf8 = false) (ht : x.tokenise q.args.text.specials bs = ks)
    (hks : ks ≠ []) (hl : (s.ses slot).log.length + ks.length ≤ 1048576) (hst : (s.ses slot).state = .opened ∨ (s.ses slot).state = .waiting)
    (hc : s.ctx q.part q.main = some c) (hf : s.needsFallback q = false) (hg : q.args.gram.mode = 0) (hseed : q.args.sample.seedDevice = false)
    (hexact : q.exact = false) (hroom : (s.bump Fld.TXT_INVALID_COUNT q.part k).room q.part (reqTileFrames c.img) 0 = .fits)
    (hw : (s.bump Fld.TXT_INVALID_COUNT q.part k).allocTiles q.part ⟨q.part, .priv, 0, slot, []⟩ (reqTileFrames c.img) = some (fs, w)) :
    ∃ t r h, exec (.tokenisationDone slot) s = .next t ∧ s.Appends t slot { q with wait := none, input := ks } fs (s.ses slot).op r h := by
  obtain ⟨pm, l, hdo⟩ := doTokenisationDone_admits hq hi hx hwait hk hbad ht
  obtain ⟨q', hq'⟩ : ∃ q' : Req, q' = { q with wait := none, input := ks } := ⟨_, rfl⟩
  obtain ⟨d, hd⟩ : ∃ d : State, d = { s.bump Fld.TXT_INVALID_COUNT q.part k with pmc := pm, out := l ++ s.out, reqs := s.reqs.set slot q' } := ⟨_, rfl⟩
  rw [← hq', ← hd] at hdo
  have hdses : d.ses slot = s.ses slot := by rw [hd]; rfl
  obtain ⟨y, id, b, pen, e, hpre, hstart⟩ := admitLimit_appends (s := d) (c := c) (slot := slot) (q := q') (by rw [hd]; exact AMap.get?_set_same ..)
    (by rw [hq']; exact hs) (by rw [hdses, hq']; exact hp) (by rw [hdses, hq']; exact hm) (by rw [hd, hq']; exact hc) (by rw [hdses]; exact hst)
    (by rw [hdses, hq']; exact hl) (by rw [hd, hq']; exact hf) (by rw [hq']; exact hg) (by rw [hq']; exact hseed) (by rw [hq']; exact hexact)
    (by rw [hq']; exact hfb) (by rw [hq']; exact hks) (by rw [hd, hq']; exact hroom)
    (by rw [hq']; exact allocTiles_congr _ (by rw [hd]) (by rw [hd]) (by rw [hd]) hw)
  have hwork : ∀ x r z, s.Work (y.running x r z) := fun x r z => by
    have hback : s.Pre (d.running s.sessions s.reqs s.handoffs) := by
      rw [hd]
      exact .of_bnd ⟨s.nextSeq, _, pm, l, rfl⟩
    exact (hback.trans (hpre.running s.sessions s.reqs s.handoffs)).work x r z
  obtain ⟨r, h, happ⟩ := started_appends (s := s) (d := d) (v := y) (slot := slot) (id := id) (b := b) (e := e) (q := q') (fs := fs) (pen := pen) hdses hst
    (fun z => by rw [hd]; rfl) (fun z => by rw [hd]; exact AMap.set_set ..) hwork
  rw [← hstart] at happ
  obtain ⟨hcalm', hkept⟩ := happ.calm hcalm
  exact ⟨_, r, h, (next_event hawake hdo hcalm').trans (by rw [hkept]), hq' ▸ happ⟩

-- The counterexample -------------------------------------------------------------------------------------------------------------------------------------

/-- A main model without layers, whose text table maps every byte to token 0. -/
def plainImage : CtxImage :=
  { kind := .main, cls := .be, layers := 0, heads := 0, qheads := 0, geom := ⟨0, false, 0, 0⟩, rotary := ⟨0, false, 0, 0, []⟩, vocab := 1,
    eos := 0, text := some ⟨0, [], 0⟩, fallback := 0x3F, dModel := 64, experts := [], share := 0, shareBase := 0, pinned := [], region := 0,
    qryShare := 0, table := [], entries := [], progShare := 0, progBase := 0, prog := [], resident := false, arena := 0, keySlot := 0,
    weights := [], sources := [] }

/-- A request that waits for the tokens of the text "a", and that counts as one on the fallback model. -/
def strayReq : Req :=
  { fn := ⟨0, 0⟩, sq := none, tag := 0, flags := {}, part := 1, slot := 0, phase := .admitted, wait := some .tokens
    args := ⟨⟨0, 0, 0, 0, 0, 0, 0, 1, 0, false, false, false, false, 0, false⟩, ⟨true, false, false, false, false, false, true, false⟩,
      ⟨0, 0, false⟩, 0, 0, 0, none, ⟨0, 12, 0⟩, 0, 0, [], 0x70, [0x61]⟩
    main := 0, comp := 9, epoch := 1, seed := 0, committed := 0, lost := 0, input := [], appendFrom := 0, appendTokens := [], rangeTo := 0,
    firstLog := true, served := [], opening := true, pending := [], frames := [], chunks := [], packet := none, maskReady := true,
    pen := ⟨[], [], 0, false⟩, utf8 := [], stopHold := [], emit := none, held := none, heldEnd := none, grammar := none, onFallback := true,
    startedFallback := false, fbCtx := 0x3F, fbTiles := [], fbPages := [], fbReady := false, first := ⟨0, false, false, 0, 0⟩,
    inter := ⟨0, false, false, 0, 0⟩, total := ⟨0, false, false, 0, 0⟩, bonds := 0, moved := 0, lastBond := 0, exact := false, report := 0 }

/-- Its device: a session of partition 1 in a composition whose one partner is admitted, and tile frames. -/
def strayState : State :=
  { State.reset with
    boot := { Boot.reset with phase := .ready }, regs := [(⟨.memPartTiles, 1, 0⟩, 0x100000000000)]
    sessions := [(0, { Session.free with state := .waiting, part := 1, comp := 9 })], reqs := [(0, strayReq)]
    ctxs := [((1, 0), ⟨plainImage, 1, .ready, 0, 0, [], [], []⟩)], peers := [(0, ⟨77, .admitted, false, 0, 2, 0, 0, 0, false, false, [], []⟩)]
    comps := [(0, ⟨9, 1, 0, ⟨9, 1, 0, 1, [77], [], [77], [], 0, 0⟩, [], false, 0, 0, 0⟩)] }

theorem strayState_calm : strayState.Calm where
  waiting kv hk := by
    obtain rfl : kv = _ := List.mem_singleton.1 hk
    rfl
  queue := rfl
  pulls := rfl
  maps kv hk := by
    obtain rfl : kv = _ := List.mem_singleton.1 hk
    exact ⟨rfl, rfl⟩
  resets := rfl
  removals := rfl
  removes := rfl
  restart := rfl

theorem strayState_room : (strayState.bump Fld.TXT_INVALID_COUNT 1 0).room 1 (reqTileFrames plainImage) 0 = .fits := by decide +kernel

/-- The request starts on its main model, and carries the mark of the fallback model there. -/
theorem strayState_keeps {fs : List Nat} {w : State} (hw : (strayState.bump Fld.TXT_INVALID_COUNT 1 0).allocTiles 1 ⟨1, .priv, 0, 0, []⟩
    (reqTileFrames plainImage) = some (fs, w)) :
    ∃ t r, exec (.tokenisationDone 0) strayState = .next t ∧ t.req 0 = some r ∧ r.phase = .appending ∧ r.onFallback = true := by
  obtain ⟨t, r, h, hex, happ⟩ := exec_tokenisationDone (slot := 0) (q := strayReq) (k := 0) (ks := [0]) strayState_calm (by decide) rfl rfl rfl rfl rfl rfl
    rfl rfl (by decide) (.inl rfl) (by decide) (by decide) (by decide) (.inr rfl) rfl (by decide) rfl rfl rfl strayState_room hw
  exact ⟨t, r, hex, happ.request, happ.phase.1, happ.model⟩

/-- Refutes O38: nothing in its clause of TOKENISATION_DONE excludes a request that carries the mark of the fallback model though no fallback context is
chosen for it, and its start on the main model leaves that mark (`strayReq`). -/
theorem not_requestStarts : ¬ Obligations.RequestStarts := by
  unfold Obligations.RequestStarts
  intro hall
  obtain ⟨-, -, -, hdone⟩ := hall strayState strayState_calm
  obtain ⟨fs, w, hw, -⟩ := allocTiles_some (p := 1) ⟨1, .priv, 0, 0, []⟩ (reqTileFrames plainImage) (strayState.bump Fld.TXT_INVALID_COUNT 1 0)
    (by decide +kernel)
  obtain ⟨t, r, -, hex, hreq, -, -, -, -, -, -, -, -, hmain, -⟩ := hdone 0 strayReq [0x61] ⟨0, [], 0⟩ ⟨plainImage, 1, .ready, 0, 0, [], [], []⟩ 0 [0] fs _ w
    (by decide) rfl rfl rfl rfl rfl rfl rfl rfl (by decide) (.inl rfl) (by decide) (by decide) (by decide) (.inr rfl) rfl (by decide) rfl rfl rfl rfl
    strayState_room hw
  obtain ⟨t', r', hex', hreq', -, hmark⟩ := strayState_keeps hw
  obtain rfl : t = t' := by
    rw [hex] at hex'
    cases hex'
    rfl
  obtain rfl : r = r' := Option.some.inj (hreq.symm.trans hreq')
  exact Bool.false_ne_true (hmain.symm.trans hmark)

end Sys2Proof.Machine
end

section
/-!
PROOFS. What one repetition of an instruction of a tile program leaves (O28, O29).
-/

namespace Sys2Proof.Machine

open Sys2Proof

-- A repetition that succeeds (R222, R224, R226) ---------------------------------------------------------------------------------------------

theorem goesOn_frame (s : State) (e reps : Nat) (i : TInstr) : ∃ c, s.goesOn e reps i = { s with cores := c } := by
  unfold State.goesOn
  split <;> exact ⟨_, rfl⟩

/-- The command of an instruction whose repetition answers a state leaves that state, with the program past the repetition; the repetition
changes tiles, cores, regions and registers (COR_NAN) at most. -/
theorem next_issue {s u : State} {e op : Nat} {i : TInstr} {v : Env} {ok : CtxImage → Bool} {f : State → Env → Nat → Except Trap State}
    (hc : s.Calm) (hw : s.awake = true) (hi : s.issuer e = some v) (hst : s.standsAt v op i = true) (hok : ok v.img = true)
    (hf : f s v v.run.reps = .ok u) (hl : i.last = true → u.Alone e)
    (hu : u = { s with tiles := u.tiles, cores := u.cores, ram := u.ram, regs := u.regs }) :
    (Host.Outcome.next (s.event (fun t => t.issue e op i ok f)) : Host.Outcome State Fault Refusal) = .next (u.goesOn e v.run.reps i) := by
  obtain ⟨c, hg⟩ := goesOn_frame u e v.run.reps i
  rw [hu] at hg
  refine next_event_own hw (issue_once hi hst hok hf hl) ?_ ?_ ?_
  · rw [hu, hg]; exact hc.of_eq rfl rfl rfl rfl rfl rfl rfl rfl
  · rw [hu, hg]
  · rw [hu, hg]

/-- The same for an operation that writes tiles, cores and regions alone. -/
theorem next_issue_tiled {s u : State} {e op : Nat} {i : TInstr} {v : Env} {ok : CtxImage → Bool} {f : State → Env → Nat → Except Trap State}
    (hc : s.Calm) (hw : s.awake = true) (hi : s.issuer e = some v) (hl : i.last = true → s.Alone e) (hst : s.standsAt v op i = true)
    (hok : ok v.img = true) (hf : f s v v.run.reps = .ok u) (ht : s.Tn u) :
    (Host.Outcome.next (s.event (fun t => t.issue e op i ok f)) : Host.Outcome State Fault Refusal) = .next (u.goesOn e v.run.reps i) ∧ s.Tiled u := by
  obtain ⟨hd, ha⟩ := ht
  refine ⟨next_issue hc hw hi hst hok hf (fun h => ha e (hl h)) ?_, hd⟩
  obtain ⟨_, _, _, rfl⟩ := hd
  rfl

-- One repetition of each operation (R230) -----------------------------------------------------------------------------------------------------

section Repetitions

variable {s u : State} {v : Env} {i : TInstr} {k : Nat} {d x y c : Operand}

theorem runMmul_puts {ma mb md mc : List (List Nat)} (hd : v.operand i.dst i.repDst k = some d) (hx : v.operand i.srcA i.repA k = some x)
    (hy : v.operand i.srcB i.repB k = some y) (ha : s.matrix v x = .ok ma)
    (hb : (if bitOf i.mode 4 then s.fedRows v y else s.matrix v y) = .ok mb) (hm : (if i.mode % 8 = 1 then s.matrix v d else .ok []) = .ok md)
    (hc : if i.srcC = 0xFFF then mc = [] else ∃ c, v.operand i.srcC false k = some c ∧ s.matrix v c = .ok mc) :
    runMmul i s v k = s.putMatrix v d (ma.zipIdx.map (fun row => (if bitOf i.mode 5 then mb else transpose y.d.cols mb).zipIdx.map (fun col =>
      epilogue i.mode i.imm.toNat (elemProds (v.img.typeOf i.srcA == 9) row.1 col.1) (cell md row.2 col.2) (cell mc row.2 col.2)))) := by
  have hc' : (if i.srcC = 0xFFF then .ok [] else andThen (v.get i.srcC false k) (s.matrix v)) = (.ok mc : Except Trap (List (List Nat))) := by
    split at hc
    · next h => rw [if_pos h, hc]
    · next h =>
      obtain ⟨c, h1, h2⟩ := hc
      rw [if_neg h, Env.get_some h1]
      exact h2
  simp only [andThen] at hc'
  simp only [runMmul, Env.get_some hd, Env.get_some hx, Env.get_some hy, ha, hb, hm, hc', andThen]

theorem runSmaxPartial_puts {rows : List (List Nat)} (hd : v.operand i.dst i.repDst k = some d) (hx : v.operand i.srcA i.repA k = some x)
    (hr : s.matrix v d = .ok rows) : runSmaxPartial i s v k = s.putMatrix v x (chunks x.d.cols (rows.flatMap partialPair)) := by
  simp only [runSmaxPartial, Env.get_some hd, Env.get_some hx, hr, andThen]

theorem runSmaxNormalise_puts {rows pairs : List (List Nat)} (hd : v.operand i.dst i.repDst k = some d) (hx : v.operand i.srcA i.repA k = some x)
    (hr : s.matrix v d = .ok rows) (hp : s.matrix v x = .ok pairs) :
    runSmaxNormalise i s v k = s.putMatrix v d (rows.zipIdx.map (fun row => normalise (nthD (pairUp pairs.flatten) row.2 (0, f32One)).1
      (nthD (pairUp pairs.flatten) row.2 (0, f32One)).2 row.1)) := by
  simp only [runSmaxNormalise, Env.get_some hd, Env.get_some hx, hr, hp, andThen]

theorem runSmaxCombine_puts {slots : List (List Nat)} (hd : v.operand i.dst i.repDst k = some d) (hx : v.operand i.srcA i.repA k = some x)
    (hs : s.matrix v x = .ok slots) : runSmaxCombine i s v k = s.putMatrix v d (chunks d.d.cols ((List.range (x.d.cols / 2)).flatMap
      (fun r => combinePairs (slots.map (fun l => nthD (pairUp l) r (0, 0)))))) := by
  simp only [runSmaxCombine, Env.get_some hd, Env.get_some hx, hs, andThen, List.map_map, Function.comp_def]

theorem runRot_puts {rows ps : List (List Nat)} (hd : v.operand i.dst i.repDst k = some d) (hx : v.operand i.srcA i.repA k = some x)
    (hr : s.matrix v d = .ok rows) (hp : mapRows (s.patterns v x) (List.range x.d.rows) = .ok ps) :
    runRot i s v k = s.putMatrix v d (rows.zipIdx.map (fun row => rotateVec { v.img.rotary with layers := [0] } 0
      (if i.mode = 1 then nthD ps.flatten row.2 0 % 2 ^ 20 else nthD ps.flatten row.2 0) row.1)) := by
  simp only [runRot, Env.get_some hd, Env.get_some hx, hr, hp, andThen]

theorem runDqnt_puts {rows : List (List Nat)} (hd : v.operand i.dst i.repDst k = some d) (hx : v.operand i.srcA i.repA k = some x)
    (hr : s.matrix v x = .ok rows) : runDqnt i s v k = s.putMatrix v d rows := by
  simp only [runDqnt, Env.get_some hd, Env.get_some hx, hr, andThen]

theorem runRed_puts {rows : List (List Nat)} (hd : v.operand i.dst i.repDst k = some d) (hx : v.operand i.srcA i.repA k = some x)
    (hr : s.matrix v x = .ok rows) : runRed i s v k = s.putMatrix v d (chunks d.d.cols
      ((if bitOf i.mode 0 then transpose x.d.cols rows else rows).map (reduce (bitsOf i.mode 2 1)))) := by
  simp only [runRed, Env.get_some hd, Env.get_some hx, hr, andThen]

theorem runBcmp_puts {ra rb : List (List Nat)} (hd : v.operand i.dst i.repDst k = some d) (hx : v.operand i.srcA i.repA k = some x)
    (hy : v.operand i.srcB i.repB k = some y) (ha : mapRows (s.patterns v x) (List.range x.d.rows) = .ok ra)
    (hb : mapRows (s.patterns v y) (List.range y.d.rows) = .ok rb) :
    runBcmp i s v k = s.putRows v d 0 (fun st r xs => st.putPatterns v d r xs) ((ra.map (fun p => rb.map (bitDistance p))).take d.d.rows) := by
  simp only [runBcmp, Env.get_some hd, Env.get_some hx, Env.get_some hy, ha, hb, andThen]

theorem runTopk_puts {rows : List (List Nat)} {m : State} (hd : v.operand i.dst i.repDst k = some d) (hx : v.operand i.srcA i.repA k = some x)
    (hc : v.operand i.srcC false k = some c) (hr : s.matrix v x = .ok rows)
    (hm : s.putMatrix v d (rows.map (fun r => (topValues i.imm.toNat (i.mode == 1) r).map (·.1))) = .ok m) :
    runTopk i s v k = m.putRows v c 0 (fun st r xs => st.putPatterns v c r xs)
      ((rows.map (fun r => (topValues i.imm.toNat (i.mode == 1) r).map (·.2))).take c.d.rows) := by
  simp only [runTopk, Env.get_some hd, Env.get_some hx, Env.get_some hc, hr, andThen, List.map_map, Function.comp_def, hm]

theorem runQnt_puts {rows : List (List Nat)} {m : State} {n : Nat} (hd : v.operand i.dst i.repDst k = some d)
    (hx : v.operand i.srcA i.repA k = some x) (hr : s.matrix v x = .ok rows)
    (hm : s.putRows v d 0 (putQuant i v d) (rows.take d.d.rows) = .ok m)
    (hn : n = ((rows.take d.d.rows).flatMap (fun r => (r.take d.d.cols).filter (fun z => v32 z == .nan))).length) :
    runQnt i s v k = .ok (if n = 0 then m else m.bump Fld.COR_NAN_COUNT v.core n) := by
  simp only [runQnt, Env.get_some hd, Env.get_some hx, hr, hm, andThen, hn]

-- Rows copied by index (R229, R231) ---------------------------------------------------------------------------------------------------------------

/-- What a GATH does with an index: zeros where it is all ones, else the row of A that it names. -/
def GathStep (v : Env) (x d : Operand) (z : Nat → State) (n j : Nat) : Prop :=
  if j = 0xFFFFFFFF then zeroRow v d (z n) n = .ok (z (n + 1)) else j < x.d.rows ∧ copyRow v x d (z n) j n = .ok (z (n + 1))

/-- What a SCAT does with an index: nothing where it is all ones, else the copy of a row of A to the row that it names. -/
def ScatStep (v : Env) (x d : Operand) (z : Nat → State) (n j : Nat) : Prop :=
  if j = 0xFFFFFFFF then z (n + 1) = z n else j < d.d.rows ∧ copyRow v x d (z n) n j = .ok (z (n + 1))

theorem GathStep.tn {z : Nat → State} {n j : Nat} (h : GathStep v x d z n j) : (z n).Tn (z (n + 1)) := by
  unfold GathStep at h
  split at h
  · exact tn_writeSpace h
  · exact tn_copyRow h.2

theorem ScatStep.tn {z : Nat → State} {n j : Nat} (h : ScatStep v x d z n j) : (z n).Tn (z (n + 1)) := by
  unfold ScatStep at h
  split at h
  · rw [h]; exact .refl _
  · exact tn_copyRow h.2

/-- A GATH takes its indexes one after another, as many as DST has rows. -/
theorem gathRows_steps {z : Nat → State} (l : List Nat) : ∀ n, (∀ m j, n + m < d.d.rows → l[m]? = some j → GathStep v x d z (n + m) j) →
    gathRows v x d (z n) n l = .ok (z (n + Nat.min l.length (d.d.rows - n))) := by
  induction l with
  | nil => intro n _; simp [gathRows]
  | cons j l ih =>
    intro n h
    by_cases hn : d.d.rows ≤ n
    · simp [gathRows, hn]
    have h0 : GathStep v x d z n j := h 0 j (by omega) rfl
    have hone : (if j = 0xFFFFFFFF then zeroRow v d (z n) n else if x.d.rows ≤ j then .error { cause := 1, addr := x.at_ + j * x.d.stride }
        else copyRow v x d (z n) j n) = .ok (z (n + 1)) := by
      unfold GathStep at h0
      split at h0
      · next hj => rw [if_pos hj, h0]
      · next hj => rw [if_neg hj, if_neg (by omega), h0.2]
    have hr : n + Nat.min (l.length + 1) (d.d.rows - n) = n + 1 + Nat.min l.length (d.d.rows - (n + 1)) := by
      simp only [Nat.min_def]; split <;> split <;> omega
    rw [gathRows, if_neg hn, hone, List.length_cons, hr]
    refine ih (n + 1) (fun m j hm hj => ?_)
    rw [show n + 1 + m = n + (m + 1) by omega]
    exact h (m + 1) j (by omega) hj

/-- A SCAT takes its indexes one after another, as many as A has rows. -/
theorem scatRows_steps {z : Nat → State} (l : List Nat) : ∀ n, (∀ m j, n + m < x.d.rows → l[m]? = some j → ScatStep v x d z (n + m) j) →
    scatRows v x d (z n) n l = .ok (z (n + Nat.min l.length (x.d.rows - n))) := by
  induction l with
  | nil => intro n _; simp [scatRows]
  | cons j l ih =>
    intro n h
    by_cases hn : x.d.rows ≤ n
    · simp [scatRows, hn]
    have h0 : ScatStep v x d z n j := h 0 j (by omega) rfl
    have hone : (if j = 0xFFFFFFFF then .ok (z n) else if d.d.rows ≤ j then .error { cause := 1, addr := d.at_ + j * d.d.stride }
        else copyRow v x d (z n) n j) = .ok (z (n + 1)) := by
      unfold ScatStep at h0
      split at h0
      · next hj => rw [if_pos hj, h0]
      · next hj => rw [if_neg hj, if_neg (by omega), h0.2]
    have hr : n + Nat.min (l.length + 1) (x.d.rows - n) = n + 1 + Nat.min l.length (x.d.rows - (n + 1)) := by
      simp only [Nat.min_def]; split <;> split <;> omega
    rw [scatRows, if_neg hn, hone, List.length_cons, hr]
    refine ih (n + 1) (fun m j hm hj => ?_)
    rw [show n + 1 + m = n + (m + 1) by omega]
    exact h (m + 1) j (by omega) hj

/-- Steps over the first indexes of a list keep what each of them keeps. -/
theorem tn_steps {z : Nat → State} {l : List Nat} {m : Nat} (h : ∀ n j, n < m → l[n]? = some j → (z n).Tn (z (n + 1))) :
    (z 0).Tn (z (Nat.min l.length m)) := by
  refine chain_keeps .refl (fun _ _ _ => .trans) z _ (fun n hn => ?_)
  have hn' : n < l.length ∧ n < m := Nat.lt_min.mp hn
  exact h n _ hn'.2 (List.getElem?_eq_getElem hn'.1)

theorem moveRows_steps {z : Nat → State} (m : Nat) : ∀ n, (∀ k, n ≤ k → k < n + m → copyRow v x d (z k) k k = .ok (z (k + 1))) →
    moveRows v x d (z n) (List.range' n m) = .ok (z (n + m)) := by
  induction m with
  | zero => intro n _; rfl
  | succ m ih =>
    intro n h
    rw [List.range'_succ, moveRows, h n (by omega) (by omega), show n + (m + 1) = n + 1 + m by omega]
    exact ih (n + 1) (fun k h1 h2 => h k (by omega) (by omega))

theorem runGath_steps {l : List (List Nat)} {z : Nat → State} (hd : v.operand i.dst i.repDst k = some d) (hx : v.operand i.srcA i.repA k = some x)
    (hy : v.operand i.srcB i.repB k = some y) (hl : mapRows (s.patterns v y) (List.range y.d.rows) = .ok l) (h0 : z 0 = s)
    (h : ∀ n j, n < d.d.rows → l.flatten[n]? = some j → GathStep v x d z n j) :
    runGath i s v k = .ok (z (Nat.min l.flatten.length d.d.rows)) := by
  have hg := gathRows_steps l.flatten 0 (fun m j hm hj => by rw [Nat.zero_add] at hm ⊢; exact h m j hm hj)
  rw [h0, Nat.zero_add, Nat.sub_zero] at hg
  simp only [runGath, Env.get_some hd, Env.get_some hx, Env.get_some hy, hl, andThen, hg]

theorem runScat_steps {l : List (List Nat)} {z : Nat → State} (hd : v.operand i.dst i.repDst k = some d) (hx : v.operand i.srcA i.repA k = some x)
    (hy : v.operand i.srcB i.repB k = some y) (hl : mapRows (s.patterns v y) (List.range y.d.rows) = .ok l) (h0 : z 0 = s)
    (h : ∀ n j, n < x.d.rows → l.flatten[n]? = some j → ScatStep v x d z n j) :
    runScat i s v k = .ok (z (Nat.min l.flatten.length x.d.rows)) := by
  have hg := scatRows_steps l.flatten 0 (fun m j hm hj => by rw [Nat.zero_add] at hm ⊢; exact h m j hm hj)
  rw [h0, Nat.zero_add, Nat.sub_zero] at hg
  simp only [runScat, Env.get_some hd, Env.get_some hx, Env.get_some hy, hl, andThen, hg]

/-- A MOVE between operands of one type copies rows; between types it converts them. -/
theorem runMove_moves (hd : v.operand i.dst i.repDst k = some d) (hx : v.operand i.srcA i.repA k = some x)
    (h : if x.d.type = d.d.type then ∃ z : Nat → State, z 0 = s ∧ z (Nat.min x.d.rows d.d.rows) = u ∧
        ∀ n, n < Nat.min x.d.rows d.d.rows → copyRow v x d (z n) n n = .ok (z (n + 1))
      else ∃ rows, s.matrix v x = .ok rows ∧ s.putMatrix v d rows = .ok u) :
    runMove i s v k = .ok u ∧ s.Tn u := by
  split at h
  · next ht =>
    obtain ⟨z, h0, hn, h⟩ := h
    have hm := moveRows_steps (v := v) (x := x) (d := d) (z := z) (Nat.min x.d.rows d.d.rows) 0 (fun k _ hk => h k (by omega))
    rw [h0, Nat.zero_add, hn, ← List.range_eq_range'] at hm
    refine ⟨?_, ?_⟩
    · simp only [runMove, Env.get_some hd, Env.get_some hx, ht, if_true, andThen, hm]
    · rw [← h0, ← hn]
      exact chain_keeps .refl (fun _ _ _ => .trans) z _ (fun n hn => tn_copyRow (h n hn))
  · next ht =>
    obtain ⟨rows, hr, hp⟩ := h
    exact ⟨by simp only [runMove, Env.get_some hd, Env.get_some hx, ht, if_false, hr, andThen, hp], tn_putMatrix hp⟩

end Repetitions

-- The statements -----------------------------------------------------------------------------------------------------------------------------------

/-- Settles O28: each operation reads its operands and puts one matrix into DST. -/
theorem tileArithmetic : Obligations.TileArithmetic := by
  intro s e i v u hc hw hi hl
  refine ⟨?mmul, ?partial_, ?normalise, ?combine, ?rot, ?dqnt, ?red⟩
  case mmul =>
    rintro hst hok ⟨d, x, y, ma, mb, md, mc, hd, hx, hy, ha, hb, hm, hcs, hp⟩
    exact next_issue_tiled hc hw hi hl hst hok ((runMmul_puts hd hx hy ha hb hm hcs).trans hp) (tn_putMatrix hp)
  case partial_ =>
    rintro hst hok ⟨d, x, rows, hd, hx, hr, hp⟩
    exact next_issue_tiled hc hw hi hl hst hok ((runSmaxPartial_puts hd hx hr).trans hp) (tn_putMatrix hp)
  case normalise =>
    rintro hst hok ⟨d, x, rows, pairs, hd, hx, hr, hq, hp⟩
    exact next_issue_tiled hc hw hi hl hst hok ((runSmaxNormalise_puts hd hx hr hq).trans hp) (tn_putMatrix hp)
  case combine =>
    rintro hst hok ⟨d, x, slots, hd, hx, hs, hp⟩
    exact next_issue_tiled hc hw hi hl hst hok ((runSmaxCombine_puts hd hx hs).trans hp) (tn_putMatrix hp)
  case rot =>
    rintro hst hok ⟨d, x, rows, ps, hd, hx, hr, hq, hp⟩
    exact next_issue_tiled hc hw hi hl hst hok ((runRot_puts hd hx hr hq).trans hp) (tn_putMatrix hp)
  case dqnt =>
    rintro hst hok ⟨d, x, rows, hd, hx, hr, hp⟩
    exact next_issue_tiled hc hw hi hl hst hok ((runDqnt_puts hd hx hr).trans hp) (tn_putMatrix hp)
  case red =>
    rintro hst hok ⟨d, x, rows, hd, hx, hr, hp⟩
    exact next_issue_tiled hc hw hi hl hst hok ((runRed_puts hd hx hr).trans hp) (tn_putMatrix hp)

/-- Settles O29: rows are copied step by step along the indexes; the other operations write one row after another, and a QNT counts its NaNs
in one register. -/
theorem tileRows : Obligations.TileRows := by
  intro s e i v u hc hw hi hl
  refine ⟨?gath, ?scat, ?move, ?bcmp, ?topk, ?qnt⟩
  case gath =>
    rintro hst hok ⟨d, x, y, l, hd, hx, hy, hr, z, h0, hn, h⟩
    have ht := tn_steps (fun n j hn hj => GathStep.tn (h n j hn hj))
    rw [h0, hn] at ht
    exact next_issue_tiled hc hw hi hl hst hok (hn ▸ runGath_steps hd hx hy hr h0 h) ht
  case scat =>
    rintro hst hok ⟨d, x, y, l, hd, hx, hy, hr, z, h0, hn, h⟩
    have ht := tn_steps (fun n j hn hj => ScatStep.tn (h n j hn hj))
    rw [h0, hn] at ht
    exact next_issue_tiled hc hw hi hl hst hok (hn ▸ runScat_steps hd hx hy hr h0 h) ht
  case move =>
    rintro hst hok ⟨d, x, hd, hx, h⟩
    obtain ⟨hrun, ht⟩ := runMove_moves hd hx h
    exact next_issue_tiled hc hw hi hl hst hok hrun ht
  case bcmp =>
    rintro hst hok ⟨d, x, y, ra, rb, hd, hx, hy, ha, hb, hp⟩
    exact next_issue_tiled hc hw hi hl hst hok ((runBcmp_puts hd hx hy ha hb).trans hp) (tn_putRows (fun _ _ _ _ h => tn_putPatterns h) _ hp)
  case topk =>
    rintro hst hok ⟨d, x, c, rows, m, hd, hx, hcs, hr, hm, hp⟩
    exact next_issue_tiled hc hw hi hl hst hok ((runTopk_puts hd hx hcs hr hm).trans hp)
      ((tn_putMatrix hm).trans (tn_putRows (fun _ _ _ _ h => tn_putPatterns h) _ hp))
  case qnt =>
    rintro hst hok ⟨d, x, rows, m, n, hd, hx, hr, hm, hn, hu⟩
    obtain ⟨⟨a, b, c, hfr⟩, halone⟩ := tn_putRows (fun _ _ _ _ h => tn_putQuant h) _ hm
    have hframe : u = { s with tiles := u.tiles, cores := u.cores, ram := u.ram, regs := u.regs } := by
      rw [hu, hfr]
      split <;> rfl
    have hcores : u.cores = m.cores := by
      rw [hu]
      split <;> rfl
    refine ⟨next_issue hc hw hi hst hok (hu ▸ runQnt_puts hd hx hr hm hn) (fun h c hk => ?_) hframe, hframe⟩
    rw [hcores] at hk
    exact halone e (hl h) c hk

end Sys2Proof.Machine
end

section
/-!
PROOFS. How a core's time is shared: dispatch, preemption, slices (O30).
-/

namespace Sys2Proof.Machine

open Sys2Proof

-- The next context (R338) ----------------------------------------------------------------------------------------------------------------------

theorem nextAfter_singleton (last a : Nat) : nextAfter last [a] = some a := by
  unfold nextAfter
  by_cases h : last < a <;> simp [sortBy, insertBy, h]

/-- Of two contexts, the one that has not run comes next, above or below the other. -/
theorem nextAfter_other {a b : Nat} (h : b ≠ a) : nextAfter a [a, b] = some b := by
  unfold nextAfter
  by_cases hb : b < a
  · simp [sortBy, insertBy, hb, Nat.lt_asymm hb]
  · have hab : a < b := by omega
    simp [sortBy, insertBy, hb, hab]

-- Cores taken and given up ---------------------------------------------------------------------------------------------------------------------

theorem modCore_some {s : State} {e : Nat} {c : Core} (h : s.cores.get? e = some c) (f : Core → Core) :
    s.modCore e f = { s with cores := s.cores.set e (f c) } := by
  unfold State.modCore
  rw [AMap.modify_some h]

/-- A program that is switched out keeps its place behind those that were (R224). -/
theorem switchOut_running {s : State} {e : Nat} {c : Core} {r : Run} (h : s.cores.get? e = some c) (hr : c.running = some r) :
    s.switchOut e = { s with cores := s.cores.set e { c with running := none, paused := c.paused ++ [r] } } := by
  unfold State.switchOut
  rw [modCore_some h]
  simp only [hr]

/-- The only dispatch that waits begins, where no begun program of its context does. -/
theorem take_queued {c : Core} {d : Dispatch} (hq : c.queue = [d]) (hp : ∀ r ∈ c.paused, r.d.ctx ≠ d.ctx) :
    c.take d.ctx = { c with running := some ⟨d, none, 0, 0⟩, queue := [] } := by
  have hn : c.paused.find? (fun r => r.d.ctx == d.ctx) = none := List.find?_eq_none.2 (fun r hr => by simpa using hp r hr)
  simp [Core.take, hn, hq]

/-- The only program that was switched out resumes. -/
theorem take_paused {c : Core} {r : Run} (hp : c.paused = [r]) : c.take r.d.ctx = { c with running := some r, paused := [] } := by
  simp [Core.take, hp]

theorem take_ran (c : Core) (x : Nat) : (c.take x).ran = c.ran := by
  unfold Core.take
  split
  · rfl
  · split <;> rfl

/-- Giving a core to a latency-critical context (R338, R606). -/
theorem giveCore_lc {s : State} {e p x : Nat} {c : Core} (h : s.cores.get? e = some c) (hx : s.ctxClass p x = .lc) :
    ∃ m l, s.giveCore e p x =
      { s with cores := s.cores.set e { c.take x with ran := c.ranWith p x, lastLc := x }, pmc := m, out := l } := by
  obtain ⟨m, l, hcount⟩ := count_frame { s with cores := s.cores.set e { c.take x with ran := c.ranWith p x, lastLc := x } }
    (.ofPart 0x06 1 p (s.ctxClass p x))
  refine ⟨m, l ++ s.out, ?_⟩
  unfold State.giveCore
  rw [modCore_some h]
  simp only [hx, if_true, take_ran]
  exact (congrArg (fun y => State.count _ (.ofPart 0x06 1 p y)) rfl).trans hcount

/-- An idle core for which latency-critical contexts alone wait chooses the next of them (R338, R340). -/
theorem chooseNext_lc {s : State} {e p x : Nat} {c : Core} (h : s.cores.get? e = some c) (ho : c.owner = some p) (hr : c.running = none)
    (hs : c.stopping = false) (hk : c.clearing = false) (hlc : ∀ y ∈ c.wanted, s.ctxClass p y = .lc)
    (hn : nextAfter c.lastLc c.wanted = some x) : s.chooseNext e = s.giveCore e p x := by
  have hl : c.wanted.filter (fun y => s.ctxClass p y == .lc) = c.wanted := List.filter_eq_self.2 (fun y hy => by simp [hlc y hy])
  have hb : c.wanted.filter (fun y => !(s.ctxClass p y == .lc)) = [] := List.filter_eq_nil_iff.2 (fun y hy => by simp [hlc y hy])
  have he : c.wanted.isEmpty = false := by
    cases hw : c.wanted with
    | nil => rw [hw] at hn; cases hn
    | cons y l => rfl
  unfold State.chooseNext
  simp [h, ho, hr, hs, hk, hl, hb, he, hn]

-- A dispatch (R222, R338, R339) ------------------------------------------------------------------------------------------------------------------

/-- A core that a dispatch is made to is its partition's, and accepts dispatches. -/
theorem canDispatch_core {s : State} {e p : Nat} {d : Dispatch} {c : Core} (h : s.canDispatch e d = some p) (hc : s.cores.get? e = some c) :
    c.owner = some p ∧ c.clearing = false ∧ c.stopping = false := by
  cases ho : c.owner with
  | none => simp [State.canDispatch, hc, ho] at h
  | some q =>
    simp only [State.canDispatch, hc, ho] at h
    obtain ⟨hb, hq⟩ := Option.ite_none_right_eq_some.1 h
    simp only [Bool.and_eq_true, Bool.not_eq_true'] at hb
    exact ⟨hq, hb.1.1.1.1.2, hb.1.1.1.2⟩

section Dispatched

variable {s : State} {e p : Nat} {d : Dispatch} {c : Core} (hd : s.canDispatch e d = some p) (hw : ∀ l ∈ d.work, s.ownPlace p l = true)
  (hc : s.cores.get? e = some c)

include hd hw hc

theorem doDispatch_free (hr : c.running = none) :
    doDispatch e d s = State.chooseNext { s with cores := s.cores.set e { c with queue := c.queue ++ [d] } } e := by
  have hf : d.work.find? (fun l => !(s.ownPlace p l)) = none := List.find?_eq_none.2 (fun l hl => by simp [hw l hl])
  simp only [doDispatch, hd, hf, hc, hr, modCore_some hc]

theorem doDispatch_waits {r : Run} (hr : c.running = some r) (h : s.ctxClass p d.ctx ≠ .lc ∨ s.ctxClass p r.d.ctx = .lc) :
    doDispatch e d s = { s with cores := s.cores.set e { c with queue := c.queue ++ [d] } } := by
  have hf : d.work.find? (fun l => !(s.ownPlace p l)) = none := List.find?_eq_none.2 (fun l hl => by simp [hw l hl])
  simp only [doDispatch, hd, hf, hc, hr, modCore_some hc]
  exact if_neg (fun hlc => h.elim (fun g => g hlc.1) hlc.2)

theorem doDispatch_preempts {r : Run} (hr : c.running = some r) (hq : c.queue = []) (hp : c.paused = []) (h : s.ctxClass p d.ctx = .lc)
    (hn : s.ctxClass p r.d.ctx ≠ .lc) :
    doDispatch e d s = State.giveCore (State.switchOut { s with cores := s.cores.set e { c with queue := [d] } } e) e p d.ctx := by
  have hf : d.work.find? (fun l => !(s.ownPlace p l)) = none := List.find?_eq_none.2 (fun l hl => by simp [hw l hl])
  simp [doDispatch, hd, hf, hc, hr, modCore_some hc, h, hn, Core.wanted, hq, hp, nextAfter_singleton]

end Dispatched

-- The statement ------------------------------------------------------------------------------------------------------------------------------------

/-- An event that changes cores, performance counters and outputs alone. -/
theorem next_event_shares {s t : State} {f : State → State} (hc : s.Calm) (hw : s.awake = true) (h : f s = t)
    (ht : t = { s with cores := t.cores, pmc := t.pmc, out := t.out }) :
    (Host.Outcome.next (s.event f) : Host.Outcome State Fault Refusal) = .next t :=
  next_event_own hw h (by rw [ht]; exact hc.of_eq rfl rfl rfl rfl rfl rfl rfl rfl) (by rw [ht]) (by rw [ht])

/-- Settles O30: each clause follows the choice of the next context and what taking the core leaves. -/
theorem coreSharing : Obligations.CoreSharing := by
  intro s e p c hcalm hw hc
  refine ⟨?free, ?preempts, ?waits, ?turns, ?alone⟩
  case free =>
    intro d hd hpl hr hq hp hlc
    obtain ⟨ho, hk, hs⟩ := canDispatch_core hd hc
    have hch := chooseNext_lc (s := { s with cores := s.cores.set e { c with queue := [d] } }) (p := p) (x := d.ctx) (AMap.get?_set_same ..) ho hr hs hk
      (by simp [Core.wanted, hp]; exact hlc) (by simp [Core.wanted, hp, nextAfter_singleton])
    obtain ⟨m, l, hg⟩ := giveCore_lc (s := { s with cores := s.cores.set e { c with queue := [d] } }) (p := p) (x := d.ctx) (AMap.get?_set_same ..) hlc
    have hdo := doDispatch_free hd hpl hc hr
    rw [hq, List.nil_append, hch, hg, take_queued rfl (by simp [hp])] at hdo
    refine ⟨_, next_event_shares hcalm hw hdo rfl, ?_, rfl⟩
    simp only [AMap.set_set, ← hq]
    rfl
  case preempts =>
    intro d r hd hpl hr hq hp hlc hn
    obtain ⟨m, l, hg⟩ := giveCore_lc (s := { s with cores := s.cores.set e { c with queue := [d], running := none, paused := [r] } }) (p := p) (x := d.ctx)
      (AMap.get?_set_same ..) hlc
    have hdo := doDispatch_preempts hd hpl hc hr hq hp hlc hn
    rw [switchOut_running (c := { c with queue := [d] }) (AMap.get?_set_same ..) hr, hp, List.nil_append] at hdo
    simp only [AMap.set_set] at hdo
    rw [hg, take_queued rfl (by rintro x hx; obtain rfl := List.mem_singleton.1 hx; exact fun h => hn (h ▸ hlc))] at hdo
    refine ⟨_, next_event_shares hcalm hw hdo rfl, ?_, rfl⟩
    simp only [AMap.set_set, ← hq]
    rfl
  case waits =>
    intro d r hd hpl hr h
    exact next_event_shares hcalm hw (doDispatch_waits hd hpl hc hr h) rfl
  case turns =>
    intro d r ho hr hb hs hk hq hp hlc hlr hl hne
    obtain ⟨m, l, hg⟩ := giveCore_lc (s := { s with cores := s.cores.set e { c with running := none, paused := [r] } }) (p := p) (x := d.ctx)
      (AMap.get?_set_same ..) hlc
    have hch := chooseNext_lc (s := { s with cores := s.cores.set e { c with running := none, paused := [r] } }) (p := p) (x := d.ctx)
      (AMap.get?_set_same ..) ho rfl hs hk (by simp [Core.wanted, hq]; exact ⟨hlr, hlc⟩) (by simp [Core.wanted, hq, hl, nextAfter_other hne])
    have hdo : doSliceEnd e s = (s.switchOut e).chooseNext e := by simp [doSliceEnd, hc, hr, hb, hs]
    rw [switchOut_running hc hr, hp, List.nil_append, hch, hg, take_queued (c := { c with running := none, paused := [r] }) hq (by simp [Ne.symm hne])] at hdo
    refine ⟨_, next_event_shares hcalm hw hdo rfl, ?_, rfl⟩
    simp only [AMap.set_set]
    rfl
  case alone =>
    intro r ho hr hb hs hk hq hp hlr
    obtain ⟨m, l, hg⟩ := giveCore_lc (s := { s with cores := s.cores.set e { c with running := none, paused := [r] } }) (p := p) (x := r.d.ctx)
      (AMap.get?_set_same ..) hlr
    have hch := chooseNext_lc (s := { s with cores := s.cores.set e { c with running := none, paused := [r] } }) (p := p) (x := r.d.ctx)
      (AMap.get?_set_same ..) ho rfl hs hk (by simp [Core.wanted, hq]; exact hlr) (by simp [Core.wanted, hq, nextAfter_singleton])
    have hdo : doSliceEnd e s = (s.switchOut e).chooseNext e := by simp [doSliceEnd, hc, hr, hb, hs]
    rw [switchOut_running hc hr, hp, List.nil_append, hch, hg, take_paused rfl] at hdo
    refine ⟨_, next_event_shares hcalm hw hdo rfl, ?_, rfl⟩
    simp only [AMap.set_set, ← hr, ← hp]
    rfl

end Sys2Proof.Machine
end

section
/-!
PROOFS. How a context's load ends, and what CTX_RELOAD does (O31).
-/

namespace Sys2Proof.Machine

open Sys2Proof

-- Every core of a partition --------------------------------------------------------------------------------------------------------------------

theorem modCore_modCore (s : State) (e : Nat) (f g : Core → Core) : (s.modCore e f).modCore e g = s.modCore e (fun c => g (f c)) := by
  cases h : s.cores.get? e with
  | none =>
    have hn : ∀ (f : Core → Core), s.modCore e f = s := fun f => by unfold State.modCore AMap.modify; rw [h]
    rw [hn, hn, hn]
  | some c =>
    rw [modCore_some h, modCore_some (c := f c) (AMap.get?_set_same ..), modCore_some h, AMap.set_set]

theorem coresOf_nodup (s : State) (p : Nat) : (s.coresOf p).Nodup := (List.nodup_range.filter _).filter _

/-- Changing the cores of a list without repetition changes each of them once. -/
theorem modCores_get (f : Core → Core) (l : List Nat) : ∀ (s : State), l.Nodup → ∀ e,
    (l.foldl (fun (a : State) e => a.modCore e f) s).cores.get? e = if e ∈ l then (s.cores.get? e).map f else s.cores.get? e := by
  induction l with
  | nil => intro s _ e; rfl
  | cons a l ih =>
    intro s hn e
    obtain ⟨ha, hl⟩ := List.nodup_cons.1 hn
    rw [List.foldl_cons, ih _ hl, modCore_get]
    by_cases he : e = a
    · subst he; simp [ha]
    · simp [he]

-- The programs and the pinned region (R239 orders 4 and 5) ---------------------------------------------------------------------------------------

theorem progsOf_frame (s : State) (p : Nat) (x : CtxImage) (b : Bool) : ∃ k, s.progsOf p x b = { s with cores := k } :=
  modCores_frame s (fun c => c.withProgs x b) (s.coresOf p)

theorem progsOf_get (s : State) (p : Nat) (x : CtxImage) (b : Bool) (e : Nat) : (s.progsOf p x b).cores.get? e =
    if e ∈ s.coresOf p then (s.cores.get? e).map (fun c => c.withProgs x b) else s.cores.get? e :=
  modCores_get (fun c => c.withProgs x b) _ s (coresOf_nodup s p) e

theorem coresOf_progsOf (s : State) (p : Nat) (x : CtxImage) (b : Bool) : (s.progsOf p x b).coresOf p = s.coresOf p := by
  obtain ⟨k, hk⟩ := progsOf_frame s p x b
  refine coresOf_congr p (by rw [hk]; rfl) (fun e => ?_)
  exact modCores_has (fun c => c.withProgs x b) _ s e

theorem get?_append_right {κ α : Type} [DecidableEq κ] {m n : AMap κ α} {k : κ} (h : m.get? k = none) : AMap.get? (m ++ n) k = n.get? k := by
  induction m with
  | nil => rfl
  | cons a r ih =>
    obtain ⟨j, v⟩ := a
    unfold AMap.get? at h
    split at h
    · cases h
    · next hj =>
      rw [List.cons_append]
      conv => lhs; unfold AMap.get?
      rw [if_neg hj, ih h]

theorem get?_zipIdx_from {b k : Nat} {w : TWord} (l : List TWord) : ∀ n, l[k]? = some w →
    AMap.get? ((l.zipIdx n).map (fun w => (b + w.2, w.1))) (b + (n + k)) = some w := by
  induction l generalizing k with
  | nil => intro n h; cases h
  | cons a l ih =>
    intro n h
    rw [List.zipIdx_cons, List.map_cons, AMap.get?]
    cases k with
    | zero => simpa using h
    | succ k =>
      rw [if_neg (by omega), show n + (k + 1) = n + 1 + k by omega]
      exact ih (n + 1) (by simpa using h)

/-- A program that is loaded stands in program memory from its base on. -/
theorem withProgs_get {c : Core} {x : CtxImage} {k : Nat} {w : TWord} (h : x.prog[k]? = some w) :
    (c.withProgs x true).prog.get? (x.progBase + k) = some w := by
  obtain ⟨hk, -⟩ := List.getElem?_eq_some_iff.1 h
  have hout : AMap.get? (c.prog.filter (fun w => !(decide (x.progBase ≤ w.1) && decide (w.1 < x.progBase + x.prog.length)))) (x.progBase + k) = none := by
    rw [AMap.get?_filter c.prog (fun a => !(decide (x.progBase ≤ a) && decide (a < x.progBase + x.prog.length)))]
    simp [hk]
  have hin := get?_zipIdx_from (b := x.progBase) x.prog 0 h
  rw [Nat.zero_add] at hin
  simp only [Core.withProgs, if_true]
  rw [get?_append_right hout, hin]

/-- A core whose pinned region has been filled. -/
def Core.filled (c : Core) (x : CtxImage) : Core :=
  let first := x.shareBase * 2048 / 256
  { c with
    store := Memory.writes 0 c.store (x.shareBase * 2048) x.pinned
    poison := c.poison.filter (fun k => !(decide (first ≤ k) && decide (k < first + x.pinned.length / 256)))
    fresh := c.fresh ++ (List.range' first (ceilDiv x.pinned.length 256)).filter (fun l => !(c.fresh.contains l)) }

theorem fillPinned_filled {s : State} {p n : Nat} {x : Ctx} (h : s.ctx p n = some x) (e : Nat) :
    s.fillPinned p n e = s.modCore e (fun c => c.filled x.img) := by
  unfold State.fillPinned State.markFresh
  rw [h]
  exact modCore_modCore ..

theorem fillPinneds_filled {p n : Nat} {x : Ctx} (l : List Nat) : ∀ s : State, s.ctx p n = some x →
    l.foldl (fun (a : State) e => a.fillPinned p n e) s = l.foldl (fun (a : State) e => a.modCore e (fun c => c.filled x.img)) s := by
  induction l with
  | nil => intro s _; rfl
  | cons e l ih =>
    intro s h
    rw [List.foldl_cons, List.foldl_cons, fillPinned_filled h]
    exact ih _ h

-- What waits for a load --------------------------------------------------------------------------------------------------------------------------

theorem dropWeightKey_frame (s : State) (p : Nat) (x : CtxImage) : ∃ y, s.dropWeightKey p x = { s with sec := y } := by
  unfold State.dropWeightKey
  split
  · split
    · exact ⟨_, rfl⟩
    · exact ⟨s.sec, rfl⟩
  · exact ⟨s.sec, rfl⟩

/-- Where no request and no packet waits for a context, its load sets nothing going. -/
theorem resumes_none {s : State} (hr : s.reqs = []) (he : s.expertWait = []) (p n : Nat) (b : Bool) :
    (s.resumeLoading p n).resumeExperts p n b = s := by
  have h1 : s.resumeLoading p n = s := by unfold State.resumeLoading; rw [hr]; rfl
  rw [h1]
  unfold State.resumeExperts
  simp only [he, List.filter_nil, List.foldl_nil]
  rw [← he]

theorem modCtx_some {s : State} {p n : Nat} {x : Ctx} (h : s.ctx p n = some x) (f : Ctx → Ctx) :
    s.modCtx p n f = { s with ctxs := s.ctxs.set (p, n) (f x) } := by
  unfold State.modCtx
  rw [AMap.modify_some h]

/-- The one command that waits for a load completes at its end. -/
theorem endAsked_one {s : State} {p n : Nat} {x : Ctx} {u : Sub} (h : s.ctx p n = some x) (ha : x.asked = [u.owner]) (st : Status) :
    s.endAsked p n st = State.complete { s with ctxs := s.ctxs.set (p, n) { x with asked := [] } } u st := by
  unfold State.endAsked
  rw [h]
  dsimp only
  rw [ha, modCtx_some h]
  rfl

-- The end of a load (R239, R337) -----------------------------------------------------------------------------------------------------------------

section Load

variable {s : State} {u : Sub} {p n : Nat} {x : Ctx} (hx : s.ctx p n = some x) (hr : s.reqs = []) (he : s.expertWait = []) (hh : x.held = [])
  (ha : x.asked = [u.owner])

include hx hr he hh ha

theorem loadDone_frame : ∃ k y, s.loadDone p n x =
      State.complete { s with ctxs := s.ctxs.set (p, n) { x with state := .ready, asked := [] }, sec := y, cores := k } u .ok ∧
    ∀ e, AMap.get? k e = if e ∈ s.coresOf p then (s.cores.get? e).map (fun c => (c.withProgs x.img true).filled x.img) else s.cores.get? e := by
  obtain ⟨w, hw⟩ : ∃ w, w = s.modCtx p n (fun y => { y with state := .ready, held := [] }) := ⟨_, rfl⟩
  obtain ⟨y, hy⟩ := dropWeightKey_frame w p x.img
  obtain ⟨k1, h1⟩ := progsOf_frame (w.dropWeightKey p x.img) p x.img true
  have hc : ((w.dropWeightKey p x.img).progsOf p x.img true).coresOf p = s.coresOf p := by rw [coresOf_progsOf, hy, hw]; rfl
  have hg1 := progsOf_get (w.dropWeightKey p x.img) p x.img true
  obtain ⟨v, hv⟩ : ∃ v, v = (w.dropWeightKey p x.img).progsOf p x.img true := ⟨_, rfl⟩
  have hvx : v.ctx p n = some { x with state := .ready } := by
    rw [hv, h1, hy, hw, modCtx_some hx]
    exact (AMap.get?_set_same ..).trans (by rw [← hh])
  have hfill := fillPinneds_filled (p := p) (n := n) (s.coresOf p) v hvx
  have hg2 := modCores_get (fun c => c.filled x.img) (s.coresOf p) v (coresOf_nodup s p)
  obtain ⟨k2, h2⟩ := modCores_frame v (fun c => c.filled x.img) (s.coresOf p)
  have hv2 : v = { s with ctxs := s.ctxs.set (p, n) { x with state := .ready }, sec := y, cores := k1 } := by
    rw [hv, h1, hy, hw, modCtx_some hx, ← hh]
  refine ⟨k2, y, ?_, fun e => ?_⟩
  · unfold State.loadDone
    dsimp only
    rw [← hw, ← hv, hh, show v.coresOf p = s.coresOf p from hv ▸ hc, hfill, List.foldl_nil, h2]
    rw [resumes_none (by rw [hv2]; exact hr) (by rw [hv2]; exact he), endAsked_one (s := { v with cores := k2 }) (x := { x with state := .ready }) hvx ha, hv2]
    simp only [AMap.set_set, hh]
  · rw [h2] at hg2
    have hwc : (w.dropWeightKey p x.img).coresOf p = s.coresOf p := by rw [hy, hw]; rfl
    have hwk : (w.dropWeightKey p x.img).cores = s.cores := by rw [hy, hw]; rfl
    rw [hwc, hwk, ← hv] at hg1
    rw [hg2, hg1]
    split
    · rw [Option.map_map]; rfl
    · rfl

theorem loadFails_frame : ∃ k y, s.loadFails p n x = State.complete { s with
      ctxs := s.ctxs.set (p, n) { x with state := .down, blocks := [], asked := [] }, ram := s.ram.erase (p, n), sec := y, cores := k } u
        .contextContextDown ∧
    ∀ e, e ∉ s.coresOf p → AMap.get? k e = s.cores.get? e := by
  obtain ⟨w, hw⟩ : ∃ w : State, w = { s with ctxs := s.ctxs.set (p, n) { x with state := .down, blocks := [] }, ram := s.ram.erase (p, n) } := ⟨_, rfl⟩
  have hw1 : ({ s.modCtx p n (fun y => { y with state := .down, blocks := [], held := [] }) with
      ram := (s.modCtx p n (fun y => { y with state := .down, blocks := [], held := [] })).ram.erase (p, n) } : State) = w := by
    rw [hw, modCtx_some hx, ← hh]
  obtain ⟨k, hk⟩ := progsOf_frame w p x.img false
  obtain ⟨y, hy⟩ := dropWeightKey_frame (w.progsOf p x.img false) p x.img
  have hg := progsOf_get w p x.img false
  obtain ⟨v, hv⟩ : ∃ v, v = (w.progsOf p x.img false).dropWeightKey p x.img := ⟨_, rfl⟩
  have hv2 : v = { s with
      ctxs := s.ctxs.set (p, n) { x with state := .down, blocks := [] }, ram := s.ram.erase (p, n), sec := y, cores := k } := by
    rw [hv, hy, hk, hw]
  have hvx : v.ctx p n = some { x with state := .down, blocks := [] } := by rw [hv2]; exact AMap.get?_set_same ..
  refine ⟨k, y, ?_, fun e hn => ?_⟩
  · unfold State.loadFails
    dsimp only
    rw [hw1, ← hv, hh, List.foldl_nil, resumes_none (by rw [hv2]; exact hr) (by rw [hv2]; exact he),
      endAsked_one (x := { x with state := .down, blocks := [] }) hvx ha, hv2]
    simp only [AMap.set_set, hh]
  · rw [hk] at hg
    have hwc : w.coresOf p = s.coresOf p := by rw [hw]; rfl
    rw [hg, if_neg (by rw [hwc]; exact hn), hw]

end Load

/-- BOOT_PLUMB says that a program check has failed; its ITEM is open. -/
theorem plumbReason_frame (s : State) (p : Nat) : ∃ r m, s.plumbReason 0xC2 none = { s with regs := r, freeCtr := m } ∧
    (s.plumbReason 0xC2 none).fld Fld.BOOT_PLUMB_REASON = 0xC2 ∧ (s.plumbReason 0xC2 none).coresOf p = s.coresOf p := by
  refine ⟨_, _, rfl, ?_, coresOf_congr p ?_ (fun _ => rfl)⟩
  · unfold State.plumbReason
    rw [fld_setFld_other _ _ _ _ _ _ _ _ (by decide) (by decide) (by decide), fld_setFld_same _ _ _ _ _ (by decide) (by decide)]
    rfl
  · unfold State.plumbReason
    have hcls : ∀ j : Nat, (⟨Fld.SCH_PART_CORES_CORES.cls, j, 0⟩ : Reg) ≠ ⟨.bootPlumb, 0, 0⟩ := fun j h => nomatch (Reg.mk.inj h).1
    rw [fld_setFld_other _ _ _ _ _ _ _ _ (by decide) (by decide) (.inl (hcls p)),
      fld_setFld_other _ _ _ _ _ _ _ _ (by decide) (by decide) (.inl (hcls p))]
    rfl

-- The commands ---------------------------------------------------------------------------------------------------------------------------------------

section Loaded

variable {s : State} {u : Sub} {p n q : Nat} {x : Ctx} (hc : s.Calm) (hq : u.sq = some q) (hx : s.ctx p n = some x) (hw : s.awake = true)
  (hr : s.reqs = []) (he : s.expertWait = []) (hl : x.state = .loading) (hh : x.held = []) (ha : x.asked = [u.owner]) (ho : s.Open u.fn q)

include hc hq hx hw hr he hl hh ha ho

/-- R239: a load that passes its checks. -/
theorem exec_contextLoaded_ready (hp : x.img.progOk (s.areaBytesOf p) = true) (hk : s.weightKey p x.img = true)
    (hb : x.blocks.length = x.img.weights.length) : ∃ t, exec (.contextLoaded p n true) s = .next t ∧ s.Posts t u .ok 0 0 ∧
      t.ctx p n = some { x with state := .ready, asked := [] } ∧ (∀ k, k ≠ (p, n) → t.ctxs.get? k = s.ctxs.get? k) ∧
      (∀ e, e ∉ s.coresOf p → t.cores.get? e = s.cores.get? e) ∧
      (∀ e c, e ∈ s.coresOf p → t.cores.get? e = some c → ∃ d, s.cores.get? e = some d ∧
        c.store = Memory.writes 0 d.store (x.img.shareBase * 2048) x.img.pinned ∧
        ∀ k w, x.img.prog[k]? = some w → c.prog.get? (x.img.progBase + k) = some w) ∧
      s.Io { t with ctxs := s.ctxs, sec := s.sec, cores := s.cores } := by
  obtain ⟨k, y, hdone, hcores⟩ := loadDone_frame hx hr he hh ha
  have hdo : doContextLoaded p n true s = s.loadDone p n x := by simp [doContextLoaded, hx, hl, hp, hk, hb]
  obtain ⟨t, hex, hpost, l, m, a, b, d, f, rfl⟩ := next_event_completes hw (hdo.trans hdone) (hc.of_eq rfl rfl rfl rfl rfl rfl rfl rfl) rfl rfl ⟨[], rfl⟩
    hq ho
  refine ⟨_, hex, hpost, AMap.get?_set_same .., fun j hj => AMap.get?_set_other _ _ hj, fun e hn => (hcores e).trans (if_neg hn),
    fun e c hm hce => ?_, l, m, a, b, d, f, rfl⟩
  have hce := ((hcores e).trans (if_pos hm)).symm.trans hce
  obtain ⟨d, hd, rfl⟩ := Option.map_eq_some_iff.1 hce
  exact ⟨d, hd, rfl, fun j w hj => withProgs_get hj⟩

/-- R239: a load that fails, by its device or by its program check. -/
theorem exec_contextLoaded_down {ok : Bool} (hf : ok = false ∨ x.img.progOk (s.areaBytesOf p) = false) :
    ∃ t, exec (.contextLoaded p n ok) s = .next t ∧ s.Posts t u .contextContextDown 0 0 ∧
      t.ctx p n = some { x with state := .down, blocks := [], asked := [] } ∧ (∀ k, k ≠ (p, n) → t.ctxs.get? k = s.ctxs.get? k) ∧
      (x.img.progOk (s.areaBytesOf p) = false → t.fld Fld.BOOT_PLUMB_REASON = 0xC2) ∧ t.ram = s.ram.erase (p, n) ∧
      (∀ e, e ∉ s.coresOf p → t.cores.get? e = s.cores.get? e) ∧
      s.Io { t with ctxs := s.ctxs, sec := s.sec, cores := s.cores, ram := s.ram, regs := s.regs, freeCtr := s.freeCtr } := by
  obtain ⟨w, hdo, ⟨r, fc, hwf⟩, hreason, hwc⟩ : ∃ w, doContextLoaded p n ok s = w.loadFails p n x ∧ (∃ r m, w = { s with regs := r, freeCtr := m }) ∧
      (x.img.progOk (s.areaBytesOf p) = false → w.fld Fld.BOOT_PLUMB_REASON = 0xC2) ∧ w.coresOf p = s.coresOf p := by
    cases hp : x.img.progOk (s.areaBytesOf p) with
    | false =>
      obtain ⟨r, m, hfr, hreason, hcs⟩ := plumbReason_frame s p
      exact ⟨_, by simp [doContextLoaded, hx, hl, hp], ⟨r, m, hfr⟩, fun _ => hreason, hcs⟩
    | true =>
      obtain rfl : ok = false := hf.resolve_right (by simp [hp])
      exact ⟨s, by simp [doContextLoaded, hx, hl, hp], ⟨_, _, rfl⟩, nofun, rfl⟩
  obtain ⟨k, y, hfails, hcores⟩ := loadFails_frame (s := w) (u := u) (by rw [hwf]; exact hx) (by rw [hwf]; exact hr) (by rw [hwf]; exact he) hh ha
  rw [hwc] at hcores
  subst hwf
  obtain ⟨t, hex, hpost, l, m, a, b, d, f, rfl⟩ := next_event_completes hw (hdo.trans hfails) (hc.of_eq rfl rfl rfl rfl rfl rfl rfl rfl) rfl rfl
    ⟨[], rfl⟩ hq ho
  exact ⟨_, hex, hpost, AMap.get?_set_same .., fun j hj => AMap.get?_set_other _ _ hj, hreason, rfl, hcores, l, m, a, b, d, f, rfl⟩

end Loaded

/-- A reload looks at the context of its partition, and its state says what it does. -/
theorem doCtxReload_of {s s' : State} {u : Sub} {n : Nat} {x : Ctx} (hs : s.Io s') (hx : s.ctx (s.subPart u) n = some x) :
    (x.state = .down → doCtxReload u n s' =
      { s' with ctxs := s'.ctxs.set (s.subPart u, n) { x with state := .loading, idleDowns := 0, blocks := [], asked := [u.owner] } }) ∧
    (x.state = .loading → doCtxReload u n s' = { s' with ctxs := s'.ctxs.set (s.subPart u, n) { x with asked := x.asked ++ [u.owner] } }) ∧
    (x.state = .ready → doCtxReload u n s' = s'.complete u .ok) := by
  obtain ⟨hp, hx'⟩ : s'.subPart u = s.subPart u ∧ s'.ctx (s.subPart u) n = some x := by
    obtain ⟨_, _, _, _, _, _, rfl⟩ := hs
    exact ⟨rfl, hx⟩
  simp only [doCtxReload, hp, hx']
  refine ⟨fun h => ?_, fun h => ?_, fun h => ?_⟩
  · simp only [h, modCtx_some hx']
  · simp only [h, modCtx_some hx']
  · simp only [h]

/-- A reload that does not complete at once changes its context alone. -/
theorem exec_ctxReload_waits {s : State} {u : Sub} {n : Nat} {y : Ctx} (hc : s.Calm) (ht : s.Takes u (.ctxReload n))
    (hdo : ∀ s' : State, s.Io s' → doCtxReload u n s' = { s' with ctxs := s'.ctxs.set (s.subPart u, n) y }) :
    ∃ t, exec (.ctxReload u n) s = .next t ∧ t.ctx (s.subPart u) n = some y ∧ (∀ k, k ≠ (s.subPart u, n) → t.ctxs.get? k = s.ctxs.get? k) ∧
      s.Io { t with ctxs := s.ctxs } := by
  obtain ⟨s', ⟨hs, -⟩, hn⟩ := next_host ht rfl rfl
  have hdo := hdo s' hs
  obtain ⟨l, m, a, b, d, e, rfl⟩ := hs
  exact ⟨_, hn _ hdo (hc.of_eq rfl rfl rfl rfl rfl rfl rfl rfl), AMap.get?_set_same .., fun j hj => AMap.get?_set_other _ _ hj, l, m, a, b, d, e, rfl⟩

/-- Settles O31: loads end by R239 and R337, reloads go by R359 and log entry 50. -/
theorem contextLoads : Obligations.ContextLoads := by
  intro s u p n q x hc hq hx
  refine ⟨fun hw hr he hl hh ha ho => ⟨?_, ?_⟩, ?_⟩
  · exact fun hp hk hb => exec_contextLoaded_ready hc hq hx hw hr he hl hh ha ho hp hk hb
  · exact fun ok hf => exec_contextLoaded_down hc hq hx hw hr he hl hh ha ho hf
  rintro ht rfl
  exact ⟨fun h => exec_ctxReload_waits hc ht (fun s' hs => (doCtxReload_of hs hx).1 h),
    fun h => exec_ctxReload_waits hc ht (fun s' hs => (doCtxReload_of hs hx).2.1 h),
    fun h => host_refuses hc ht rfl rfl (fun s' hs => (doCtxReload_of hs hx).2.2 h)⟩

end Sys2Proof.Machine
end

section
/-!
PROOFS. Barriers of core groups and their timeout (O32).
-/

namespace Sys2Proof.Machine

open Sys2Proof

-- What waits at a barrier ---------------------------------------------------------------------------------------------------------------------------

/-- A run holds a core. -/
def State.HasRun (s : State) (e : Nat) (r : Run) : Prop := ∃ c, s.cores.get? e = some c ∧ c.running = some r

theorem AMap.erase_none {κ α : Type} [DecidableEq κ] {m : AMap κ α} {k : κ} (h : m.get? k = none) : m.erase k = m := by
  induction m with
  | nil => rfl
  | cons a r ih =>
    obtain ⟨j, v⟩ := a
    unfold AMap.get? at h
    unfold AMap.erase
    split at h
    · cases h
    · next hj => rw [if_neg hj, ih h]

/-- What runs on a core: a run that holds it, of a context of its partition. -/
theorem env_hasRun {s : State} {e : Nat} {v : Env} (h : s.env e = some v) : v.core = e ∧ s.HasRun e v.run ∧
    ∃ y, s.ctx v.part v.run.d.ctx = some y ∧ v.img = s.progImage y.img := by
  unfold State.env at h
  split at h
  · cases h
  · next c hc =>
    split at h
    · next p r _ hr =>
      split at h
      · next y hy => cases h; exact ⟨rfl, ⟨c, hc, hr⟩, y, hy, rfl⟩
      · cases h
    · cases h

theorem issuer_env {s : State} {e : Nat} {v : Env} (h : s.issuer e = some v) : s.env e = some v := by
  cases hc : s.cores.get? e with
  | none => simp [State.issuer, hc] at h
  | some c =>
    cases hv : s.env e with
    | none => simp [State.issuer, hc, hv] at h
    | some w =>
      simp only [State.issuer, hc, hv] at h
      obtain ⟨-, h⟩ := Option.ite_none_left_eq_some.1 h
      exact (Option.ite_none_left_eq_some.1 h).2

/-- A program that stands at a BAR on its core waits there. -/
theorem waiterAt_env {s : State} {e : Nat} {v : Env} {i : TInstr} (h : s.env e = some v) (hb : v.run.bar = some i) :
    s.waiterAt v.part v.run.d.ctx (v.barKey i) e = some (v, i) := by
  obtain ⟨hcore, ⟨c, hc, hr⟩, y, hy, himg⟩ := env_hasRun h
  obtain ⟨core, part, run, img⟩ := v
  dsimp only at hcore hr hy himg hb ⊢
  subst hcore himg
  have hrun : s.runOn core run.d.ctx = some run := by simp [State.runOn, hc, hr]
  simp [State.waiterAt, hrun, hy, hb]

theorem waiterAt_congr {s t : State} {f : Nat} (p ctx : Nat) (k : Nat × Nat) (hc : t.cores.get? f = s.cores.get? f) (hx : t.ctxs = s.ctxs)
    (hb : t.boot = s.boot) : t.waiterAt p ctx k f = s.waiterAt p ctx k f := by
  unfold State.waiterAt State.runOn State.ctx State.progImage
  rw [hc, hx, hb]

theorem waiterAt_noBar {s : State} {e : Nat} {c : Core} {r : Run} (hc : s.cores.get? e = some c) (hr : c.running = some r) (hb : r.bar = none)
    (p : Nat) (k : Nat × Nat) : s.waiterAt p r.d.ctx k e = none := by
  have hrun : s.runOn e r.d.ctx = some r := by simp [State.runOn, hc, hr]
  cases hx : s.ctx p r.d.ctx <;> simp [State.waiterAt, hrun, hx, hb]

/-- A program that is past its BAR no longer waits. -/
theorem waiterAt_past {s : State} {e : Nat} {r : Run} {last : Bool} (h : s.HasRun e r) (ha : last = true → s.Alone e) (p : Nat) (k : Nat × Nat) :
    (s.past e last).waiterAt p r.d.ctx k e = none := by
  obtain ⟨c, hc, hr⟩ := h
  unfold State.past
  rw [modCore_some hc]
  cases last with
  | false => exact waiterAt_noBar (r := { r with pc := r.pc + 1, bar := none, reps := 0 }) (AMap.get?_set_same ..) (by simp [hr]) rfl p k
  | true => simp [State.waiterAt, State.runOn, (ha rfl c hc).2]

theorem past_other {s : State} {e f : Nat} (h : f ≠ e) (last : Bool) : (s.past e last).cores.get? f = s.cores.get? f := by
  unfold State.past
  rw [modCore_get, if_neg h]

/-- A BAR that completes on the core that waits. -/
theorem passBar_past {s : State} {v : Env} {i : TInstr} {r : Run} (h : s.HasRun v.core r) (hr : r.d.ctx = v.run.d.ctx) (h0 : v.run.reps = 0)
    (hi : i.count = 0) (ha : i.last = true → s.Alone v.core) : s.passBar v i = s.past v.core i.last := by
  obtain ⟨c, hc, hrun⟩ := h
  simp [State.passBar, hc, hrun, hr, h0, hi, retire_past ha]

-- Writes of a program keep what runs ----------------------------------------------------------------------------------------------------------------

theorem modCore_hasRun {s : State} {e a : Nat} {r : Run} (f : Core → Core) (hf : ∀ c, (f c).running = c.running) (h : s.HasRun e r) :
    (s.modCore a f).HasRun e r := by
  obtain ⟨c, hc, hr⟩ := h
  by_cases he : e = a
  · exact ⟨f c, by rw [modCore_get, if_pos he, hc]; rfl, (hf c).trans hr⟩
  · exact ⟨c, by rw [modCore_get, if_neg he, hc], hr⟩

theorem storeWrite_hasRun {s : State} {e : Nat} {r : Run} (g a : Nat) (b : Byte) (h : s.HasRun e r) : (s.storeWrite g a b).HasRun e r := by
  have hm : (s.markFresh g (a / 256) 1).HasRun e r := modCore_hasRun _ (fun _ => rfl) h
  unfold State.storeWrite
  dsimp only
  split
  · exact hm
  · exact modCore_hasRun _ (fun _ => rfl) hm

theorem storeWrites_hasRun {e : Nat} {r : Run} (g : Nat) (bs : List Byte) : ∀ {s : State} (a : Nat), s.HasRun e r → (s.storeWrites g a bs).HasRun e r := by
  induction bs with
  | nil => exact fun _ h => h
  | cons b l ih => exact fun a h => ih (a + 1) (storeWrite_hasRun g a b h)

/-- What a program writes leaves a run of the same context on each core, with another dispatch area at most. -/
theorem writeSpace_hasRun {s u : State} {v : Env} {sp : Space} {a e : Nat} {bs : List Byte} {r : Run} (h : s.writeSpace v sp a bs = .ok u)
    (hr : s.HasRun e r) : ∃ r', u.HasRun e r' ∧ r'.d.ctx = r.d.ctx := by
  unfold State.writeSpace at h
  cases sp with
  | store =>
    dsimp only at h
    split at h
    · cases h
      exact ⟨r, modCore_hasRun _ (fun _ => rfl) (storeWrites_hasRun v.core bs a hr), rfl⟩
    · cases h
  | region =>
    dsimp only at h
    split at h
    · cases h
      exact ⟨r, hr, rfl⟩
    · cases h
  | area =>
    dsimp only at h
    split at h
    · cases h
      obtain ⟨c, hc, hrun⟩ := hr
      by_cases he : e = v.core
      · refine ⟨_, ⟨_, by rw [modCore_get, if_pos he, hc]; rfl, by dsimp only; rw [hrun]; rfl⟩, ?_⟩
        dsimp only
        split <;> rfl
      · exact ⟨r, ⟨c, by rw [modCore_get, if_neg he, hc], hrun⟩, rfl⟩
    · cases h
  | tile => cases h

-- Rounds ----------------------------------------------------------------------------------------------------------------------------------------------

section Rounds

variable {s t m : State} {p ctx : Nat} {k : Nat × Nat}

theorem lookRound_none (es : List Nat) (h : ∀ f ∈ es, s.waiterAt p ctx k f = none) : s.lookRound p ctx k es = s := by
  induction es with
  | nil => rfl
  | cons f es ih =>
    rw [State.lookRound, h f (List.mem_cons_self ..)]
    exact ih (fun g hg => h g (List.mem_cons_of_mem _ hg))

/-- One core of a list waits: it looks once, where the others do not wait and the rest of the round does nothing. -/
theorem lookRound_one {e : Nat} {x : Env} {i : TInstr} (hx : s.waiterAt p ctx k e = some (x, i))
    (hl : (∃ s1, s.look x i = .pass s1 ∧ t = s1.passBar x i) ∨ s.look x i = .wait t) (es : List Nat) (he : e ∈ es)
    (ho : ∀ f ∈ es, f ≠ e → s.waiterAt p ctx k f = none) (ht : ∀ l, l ⊆ es → t.lookRound p ctx k l = t) : s.lookRound p ctx k es = t := by
  induction es with
  | nil => cases he
  | cons f es ih =>
    rw [State.lookRound]
    by_cases hf : f = e
    · subst hf
      simp only [hx]
      obtain ⟨s1, h1, rfl⟩ | h1 := hl <;> simp only [h1] <;> exact ht es (List.subset_cons_self ..)
    · rw [ho f (List.mem_cons_self ..) hf]
      exact ih ((List.mem_cons.1 he).resolve_left (Ne.symm hf)) (fun g hg => ho g (List.mem_cons_of_mem _ hg))
        (fun l hl => ht l (fun _ ha => List.mem_cons_of_mem _ (hl ha)))

/-- A core that waits unchanged goes on waiting. -/
theorem lookRound_waits {e : Nat} {x : Env} {i : TInstr} (hx : s.waiterAt p ctx k e = some (x, i)) (hl : s.look x i = .wait s) (es : List Nat)
    (ho : ∀ f ∈ es, f ≠ e → s.waiterAt p ctx k f = none) : s.lookRound p ctx k es = s := by
  induction es with
  | nil => rfl
  | cons f es ih =>
    rw [State.lookRound]
    by_cases hf : f = e
    · subst hf
      simp only [hx, hl]
      exact ih (fun g hg => ho g (List.mem_cons_of_mem _ hg))
    · rw [ho f (List.mem_cons_self ..) hf]
      exact ih (fun g hg => ho g (List.mem_cons_of_mem _ hg))

theorem lookRounds_fixed {es : List Nat} (h : s.lookRound p ctx k es = s) : ∀ n, s.lookRounds p ctx k es n = s
  | 0 => rfl
  | n + 1 => by rw [State.lookRounds, h, lookRounds_fixed h n]

end Rounds

-- Looks (R232) ----------------------------------------------------------------------------------------------------------------------------------------

section Looks

variable {s u : State} {x : Env} {i : TInstr} {f : Nat} {bs : List Byte}

theorem setBar_empty (h : s.bars.get? (x.barKey i) = none) : s.setBar (x.barKey i) ⟨[], []⟩ = s := by
  simp [State.setBar, AMap.erase_none h]

theorem barOf_none {k : Nat × Nat} (h : s.bars.get? k = none) : s.barOf k = ⟨[], []⟩ := by
  unfold State.barOf AMap.getD; rw [h]

theorem barOf_some {k : Nat × Nat} {b : Barrier} (h : s.bars.get? k = some b) : s.barOf k = b := by
  unfold State.barOf AMap.getD; rw [h]

theorem leadOf_single {d : Dispatch} {e : Nat} (hg : d.group = [e]) (hl : d.lead = none) : d.leadOf = e := by
  simp [Dispatch.leadOf, hl, hg, leastBy]

/-- A core alone in its group goes on. -/
theorem lookSync_alone (h : s.bars.get? (x.barKey i) = none) (hg : x.run.d.group = [x.core]) : s.lookSync x i = .pass s := by
  simp [State.lookSync, barOf_none h, hg, AMap.has, AMap.set, AMap.get?, setBar_empty h]

/-- A core that waits for another arrives, once. -/
theorem lookSync_waits {l : List Nat} (hb : s.barOf (x.barKey i) = ⟨l, []⟩) (hl : l = [] ∨ l = [x.core]) (hf : f ∈ x.run.d.group) (hne : f ≠ x.core) :
    s.lookSync x i = .wait { s with bars := s.bars.set (x.barKey i) ⟨[x.core], []⟩ } := by
  have hall : x.run.d.group.all (fun g => g == x.core || l.contains g) = false := by
    refine List.all_eq_false.2 ⟨f, hf, ?_⟩
    obtain rfl | rfl := hl <;> simp [hne]
  simp only [State.lookSync, hb, hall]
  obtain rfl | rfl := hl <;> simp [AMap.has, AMap.get?, State.setBar]

/-- The second of two cores goes on, and leaves the barrier to the first. -/
theorem lookSync_second (hb : s.barOf (x.barKey i) = ⟨[f], []⟩) (hg : x.run.d.group = [x.core, f]) (hne : f ≠ x.core) :
    s.lookSync x i = .pass { s with bars := s.bars.set (x.barKey i) ⟨[x.core, f], [(x.core, [])]⟩ } := by
  simp [State.lookSync, hb, hg, AMap.has, AMap.get?, AMap.set, State.setBar, hne.symm]

/-- The first of two cores goes on after the second, and the barrier is forgotten. -/
theorem lookSync_last {e : Nat} (hb : s.barOf (x.barKey i) = ⟨[e, x.core], [(e, [])]⟩) (hg : x.run.d.group = [e, x.core]) (hne : e ≠ x.core) :
    s.lookSync x i = .pass { s with bars := s.bars.erase (x.barKey i) } := by
  simp [State.lookSync, hb, hg, AMap.has, AMap.get?, AMap.set, State.setBar, hne]

/-- A lead alone in its group gathers its own data. -/
theorem lookGather_alone (h : s.bars.get? (x.barKey i) = none) (hu : u.bars = s.bars) (hg : x.run.d.group = [x.core]) (hl : x.run.d.lead = none)
    (hd : s.barData x i = .ok bs) (hs : s.barStore x i 0 bs = .ok u) : s.lookGather x i = .pass u := by
  have hrank : x.run.d.rank x.core = 0 := by simp [Dispatch.rank, hg]
  have hsize : x.run.d.size = 1 := by simp [Dispatch.size, hg, List.eraseDups_cons]
  simp [State.lookGather, barOf_none h, leadOf_single hg hl, hrank, hsize, hd, hs, State.barStores, sortBy, insertBy, AMap.has, AMap.set,
    setBar_empty (hu ▸ h : u.bars.get? (x.barKey i) = none)]

/-- A core other than the lead leaves its data with the barrier. -/
theorem lookGather_sends (h : s.bars.get? (x.barKey i) = none) (hl : x.run.d.lead = some f) (hne : f ≠ x.core) (hd : s.barData x i = .ok bs) :
    s.lookGather x i = .pass { s with bars := s.bars.set (x.barKey i) ⟨[], [(x.run.d.rank x.core, bs)]⟩ } := by
  simp [State.lookGather, barOf_none h, Dispatch.leadOf, hl, hd, AMap.has, AMap.set, State.setBar, hne.symm]

/-- A lead alone in its group broadcasts to itself. -/
theorem lookBroadcast_alone (h : s.bars.get? (x.barKey i) = none) (hu : u.bars = s.bars) (hg : x.run.d.group = [x.core]) (hl : x.run.d.lead = none)
    (hd : s.barData x i = .ok bs) (hs : s.barStore x i 0 bs = .ok u) : s.lookBroadcast x i = .pass u := by
  simp [State.lookBroadcast, barOf_none h, leadOf_single hg hl, hd, hs, hg, setBar_empty (hu ▸ h : u.bars.get? (x.barKey i) = none)]

/-- A store to the operand of a BAR keeps what holds a core: a run of the same context. -/
theorem barStore_hasRun {e slot : Nat} {r : Run} (h : s.barStore x i slot bs = .ok u) (hr : s.HasRun e r) : ∃ r', u.HasRun e r' ∧ r'.d.ctx = r.d.ctx := by
  unfold State.barStore at h
  split at h
  · cases h
  · exact writeSpace_hasRun h hr

theorem barStore_tn {slot : Nat} (h : s.barStore x i slot bs = .ok u) : s.Tn u := by
  unfold State.barStore at h
  split at h
  · cases h
  · exact tn_writeSpace h

end Looks

theorem look_sync {s : State} {x : Env} {i : TInstr} (h : i.mode = 0) : s.look x i = s.lookSync x i := by simp [State.look, h]
theorem look_gather {s : State} {x : Env} {i : TInstr} (h : i.mode = 1) : s.look x i = s.lookGather x i := by simp [State.look, h]
theorem look_broadcast {s : State} {x : Env} {i : TInstr} (h : i.mode = 2) : s.look x i = s.lookBroadcast x i := by simp [State.look, h]

theorem okSync_mode {c : CtxImage} {i : TInstr} (h : c.okSync i = true) : i.mode = 0 := by
  simp only [CtxImage.okSync, Bool.and_eq_true, beq_iff_eq] at h
  exact h.1.2

theorem okExchange_mode {c : CtxImage} {i : TInstr} {n : Nat} (h : c.okExchange i n = true) : i.mode = n := by
  simp only [CtxImage.okExchange, Bool.and_eq_true, beq_iff_eq] at h
  exact h.1.1.2

-- The arrival (R232, R233) ------------------------------------------------------------------------------------------------------------------------------

/-- The program of a core stands at a BAR that passes the program check, without repetitions; where the BAR is its last instruction,
nothing else waits for the core. -/
structure State.Arrives (s : State) (e : Nat) (i : TInstr) (v : Env) (ok : CtxImage → Bool) : Prop where
  issuer : s.issuer e = some v
  stands : s.standsAt v 0x0C i = true
  ok     : ok v.img = true
  reps   : v.run.reps = 0
  count  : i.count = 0
  alone  : i.last = true → s.Alone e

/-- The state in which a core has arrived at a BAR. -/
def State.atBar (s : State) (e : Nat) (i : TInstr) : State :=
  s.modCore e (fun c => { c with running := c.running.map (fun r => { r with bar := some i }) })

/-- The environment of a program that waits at a BAR. -/
def Env.waiting (v : Env) (i : TInstr) : Env := { v with run := { v.run with bar := some i } }

/-- The cores of a group in ascending order: the order of a round. -/
def Dispatch.inOrder (d : Dispatch) : List Nat := sortBy (fun (a b : Nat) => decide (a < b)) d.group.eraseDups

theorem mem_inOrder {d : Dispatch} {e : Nat} : e ∈ d.inOrder ↔ e ∈ d.group := by
  unfold Dispatch.inOrder
  rw [mem_sortBy, List.mem_eraseDups]

theorem inOrder_pair {d : Dispatch} {e f : Nat} (h : d.group = [e, f]) (hne : e ≠ f) : d.inOrder = [e, f] ∨ d.inOrder = [f, e] := by
  by_cases hlt : f < e <;> simp [Dispatch.inOrder, h, List.eraseDups_cons, hne.symm, sortBy, insertBy, hlt]

theorem atBar_env {s : State} {e : Nat} {v : Env} (h : s.env e = some v) (i : TInstr) : (s.atBar e i).env e = some (v.waiting i) := by
  cases hc : s.cores.get? e with
  | none => simp [State.env, hc] at h
  | some c =>
    cases ho : c.owner with
    | none => simp [State.env, hc, ho] at h
    | some p =>
      cases hr : c.running with
      | none => simp [State.env, hc, ho, hr] at h
      | some r =>
        simp only [State.env, hc, ho, hr] at h
        split at h
        · next y hy =>
          cases h
          have hk : (s.atBar e i).cores.get? e = some { c with running := some { r with bar := some i } } := by
            unfold State.atBar
            rw [modCore_get, if_pos rfl, hc]
            simp [hr]
          have hy' : (s.atBar e i).ctx p r.d.ctx = some y := hy
          simp only [State.env, hk, ho, hy']
          rfl
        · cases h

theorem atBar_past (s : State) (e : Nat) (i : TInstr) (last : Bool) : (s.atBar e i).past e last = s.past e last := by
  unfold State.atBar State.past
  rw [modCore_modCore]
  congr 1
  funext c
  simp [Option.map_map, Function.comp_def]

theorem atBar_tn (s : State) (e : Nat) (i : TInstr) : s.Tn (s.atBar e i) :=
  tn_modCore s e (fun c => { c with running := c.running.map (fun r => { r with bar := some i }) }) (fun _ h g => ⟨h, g⟩)

theorem atBar_alone {s : State} {e : Nat} (h : s.Alone e) (i : TInstr) : (s.atBar e i).Alone e := (atBar_tn s e i).2 e h

theorem atBar_other (s : State) (e : Nat) (i : TInstr) (p ctx : Nat) (k : Nat × Nat) {f : Nat} (hf : f ≠ e) :
    (s.atBar e i).waiterAt p ctx k f = s.waiterAt p ctx k f :=
  waiterAt_congr p ctx k (by unfold State.atBar; rw [modCore_get, if_neg hf]) rfl rfl

section Arrival

variable {s t u : State} {e : Nat} {i : TInstr} {v : Env} {ok : CtxImage → Bool} (h : s.Arrives e i v ok)

include h

theorem State.Arrives.rounds : s.arriveBar e i ok =
    (s.atBar e i).lookRounds v.part v.run.d.ctx (v.barKey i) v.run.d.inOrder (v.run.d.inOrder.length + 2) := by
  obtain ⟨hi, hst, hok, -, hn, -⟩ := h
  unfold State.arriveBar
  rw [hi]
  simp only [hst, hok, hn, Bool.and_self, Bool.not_true, Bool.false_eq_true, if_false, Nat.zero_mod, Nat.zero_add, Nat.mul_one]
  rfl

theorem State.Arrives.settles (ht : (s.atBar e i).lookRound v.part v.run.d.ctx (v.barKey i) v.run.d.inOrder = t)
    (hf : t.lookRound v.part v.run.d.ctx (v.barKey i) v.run.d.inOrder = t) : s.arriveBar e i ok = t := by
  rw [h.rounds, State.lookRounds, ht, lookRounds_fixed hf]

theorem State.Arrives.waiter : (s.atBar e i).waiterAt v.part v.run.d.ctx (v.barKey i) e = some (v.waiting i, i) :=
  waiterAt_env (v := v.waiting i) (atBar_env (issuer_env h.issuer) i) rfl

/-- A core whose look lets it go on, where no other of its group waits. -/
theorem State.Arrives.passes {r : Run} (hg : e ∈ v.run.d.group) (hl : (s.atBar e i).look (v.waiting i) i = .pass u) (hr : u.HasRun e r)
    (hx : r.d.ctx = v.run.d.ctx) (ha : i.last = true → u.Alone e)
    (ho : ∀ f ∈ v.run.d.group, f ≠ e → s.waiterAt v.part v.run.d.ctx (v.barKey i) f = none)
    (hu : ∀ f ∈ v.run.d.group, f ≠ e → u.waiterAt v.part v.run.d.ctx (v.barKey i) f = none) : s.arriveBar e i ok = u.past e i.last := by
  obtain ⟨hcore, -, -⟩ := env_hasRun (issuer_env h.issuer)
  have hpast : u.passBar (v.waiting i) i = u.past e i.last := by
    have hp := passBar_past (s := u) (v := v.waiting i) (i := i) (r := r) (hcore ▸ hr) hx h.reps h.count (hcore ▸ ha)
    rw [hp]
    exact congrArg (fun e => u.past e i.last) hcore
  have hnone : ∀ f ∈ v.run.d.group, (u.past e i.last).waiterAt v.part v.run.d.ctx (v.barKey i) f = none := fun f hf => by
    by_cases he : f = e
    · subst he
      exact hx ▸ waiterAt_past hr ha v.part (v.barKey i)
    · rw [waiterAt_congr (s := u) _ _ _ (past_other he _) rfl rfl]
      exact hu f hf he
  have hround : ∀ l, l ⊆ v.run.d.inOrder → (u.past e i.last).lookRound v.part v.run.d.ctx (v.barKey i) l = u.past e i.last :=
    fun l hl => lookRound_none l (fun f hf => hnone f (mem_inOrder.1 (hl hf)))
  exact h.settles (lookRound_one h.waiter (.inl ⟨u, hl, hpast.symm⟩) _ (mem_inOrder.2 hg)
    (fun f hf hne => (atBar_other s e i _ _ _ hne).trans (ho f (mem_inOrder.1 hf) hne)) hround) (hround _ (List.Subset.refl _))

/-- A core whose look makes it wait, where no other of its group waits. -/
theorem State.Arrives.waits {b : AMap (Nat × Nat) Barrier} (hg : e ∈ v.run.d.group) (ht : t = { s.atBar e i with bars := b })
    (hl : (s.atBar e i).look (v.waiting i) i = .wait t) (hl' : t.look (v.waiting i) i = .wait t)
    (ho : ∀ f ∈ v.run.d.group, f ≠ e → s.waiterAt v.part v.run.d.ctx (v.barKey i) f = none) : s.arriveBar e i ok = t := by
  have hsame : ∀ f, t.waiterAt v.part v.run.d.ctx (v.barKey i) f = (s.atBar e i).waiterAt v.part v.run.d.ctx (v.barKey i) f :=
    fun f => waiterAt_congr _ _ _ (by rw [ht]) (by rw [ht]) (by rw [ht])
  have hother : ∀ f ∈ v.run.d.group, f ≠ e → (s.atBar e i).waiterAt v.part v.run.d.ctx (v.barKey i) f = none :=
    fun f hf hne => (atBar_other s e i _ _ _ hne).trans (ho f hf hne)
  have hround : ∀ l, l ⊆ v.run.d.inOrder → t.lookRound v.part v.run.d.ctx (v.barKey i) l = t := fun l hsub =>
    lookRound_waits ((hsame e).trans h.waiter) hl' l (fun f hf hne => (hsame f).trans (hother f (mem_inOrder.1 (hsub hf)) hne))
  exact h.settles (lookRound_one h.waiter (.inr hl) _ (mem_inOrder.2 hg) (fun f hf hne => hother f (mem_inOrder.1 hf) hne) hround)
    (hround _ (List.Subset.refl _))

end Arrival

end Sys2Proof.Machine
end

section
/-!
PROOFS. What a core does at a BAR of its group (O32).
-/

namespace Sys2Proof.Machine

open Sys2Proof

-- One arrival (R232) -----------------------------------------------------------------------------------------------------------------------------------

section Cases

variable {s u : State} {e f : Nat} {i : TInstr} {v : Env} {bs : List Byte}

/-- A core alone in its group, whose look writes its own DST at most. -/
theorem arriveBar_alone {ok : CtxImage → Bool} (h : s.Arrives e i v ok) (hg : v.run.d.group = [e])
    (hl : (s.atBar e i).look (v.waiting i) i = .pass u) (ht : (s.atBar e i).Tn u)
    (hr : ∃ r, u.HasRun e r ∧ r.d.ctx = v.run.d.ctx) : s.arriveBar e i ok = u.past e i.last := by
  obtain ⟨r, hr, hx⟩ := hr
  have hno : ∀ f ∈ v.run.d.group, f ≠ e → False := fun f hf hne => by
    rw [hg] at hf
    exact hne (List.mem_singleton.1 hf)
  exact h.passes (by simp [hg]) hl hr hx (fun hlast => ht.2 e (atBar_alone (h.alone hlast) i)) (fun f hf hne => (hno f hf hne).elim)
    (fun f hf hne => (hno f hf hne).elim)

theorem State.Arrives.hasRun {ok : CtxImage → Bool} (h : s.Arrives e i v ok) : (s.atBar e i).HasRun e (v.waiting i).run :=
  (env_hasRun (atBar_env (issuer_env h.issuer) i)).2.1

/-- A store that a BAR makes leaves the barriers. -/
theorem barStore_bars {x : Env} {n : Nat} (h : s.barStore x i n bs = .ok u) : u.bars = s.bars := by
  obtain ⟨⟨_, _, _, rfl⟩, -⟩ := barStore_tn h
  rfl

theorem doBarSync_alone (h : s.Arrives e i v (fun x => x.okSync i)) (hb : s.bars.get? (v.barKey i) = none) (hg : v.run.d.group = [e]) :
    doBarSync e i s = s.past e i.last := by
  obtain ⟨hcore, -, -⟩ := env_hasRun (issuer_env h.issuer)
  have hl := (look_sync (okSync_mode h.ok)).trans (lookSync_alone (s := s.atBar e i) (x := v.waiting i) hb (hg.trans (by rw [← hcore]; rfl)))
  exact (arriveBar_alone h hg hl (.refl _) ⟨_, h.hasRun, rfl⟩).trans (atBar_past ..)

theorem doBarGather_alone (h : s.Arrives e i v (fun x => x.okExchange i 1)) (hb : s.bars.get? (v.barKey i) = none) (hg : v.run.d.group = [e])
    (hl : v.run.d.lead = none) (hd : (s.atBar e i).barData (v.waiting i) i = .ok bs) (hs : (s.atBar e i).barStore (v.waiting i) i 0 bs = .ok u) :
    doBarGather e i s = u.past e i.last := by
  obtain ⟨hcore, -, -⟩ := env_hasRun (issuer_env h.issuer)
  have hl := (look_gather (okExchange_mode h.ok)).trans
    (lookGather_alone (s := s.atBar e i) (x := v.waiting i) hb (barStore_bars hs) (hg.trans (by rw [← hcore]; rfl)) hl hd hs)
  exact arriveBar_alone h hg hl (barStore_tn hs) (barStore_hasRun (r := (v.waiting i).run) hs h.hasRun)

theorem doBarBroadcast_alone (h : s.Arrives e i v (fun x => x.okExchange i 2)) (hb : s.bars.get? (v.barKey i) = none) (hg : v.run.d.group = [e])
    (hl : v.run.d.lead = none) (hd : (s.atBar e i).barData (v.waiting i) i = .ok bs) (hs : (s.atBar e i).barStore (v.waiting i) i 0 bs = .ok u) :
    doBarBroadcast e i s = u.past e i.last := by
  obtain ⟨hcore, -, -⟩ := env_hasRun (issuer_env h.issuer)
  have hl := (look_broadcast (okExchange_mode h.ok)).trans
    (lookBroadcast_alone (s := s.atBar e i) (x := v.waiting i) hb (barStore_bars hs) (hg.trans (by rw [← hcore]; rfl)) hl hd hs)
  exact arriveBar_alone h hg hl (barStore_tn hs) (barStore_hasRun (r := (v.waiting i).run) hs h.hasRun)

/-- In a group of two, the only other core is the second. -/
theorem other_of_pair {P : Nat → Prop} (hg : v.run.d.group = [e, f]) (hf : P f) : ∀ g ∈ v.run.d.group, g ≠ e → P g := fun g hm hne => by
  rw [hg] at hm
  obtain rfl := (List.mem_pair.1 hm).resolve_left hne
  exact hf

theorem doBarSync_first (h : s.Arrives e i v (fun x => x.okSync i)) (hb : s.bars.get? (v.barKey i) = none) (hne : e ≠ f)
    (hg : v.run.d.group = [e, f]) (hf : s.waiterAt v.part v.run.d.ctx (v.barKey i) f = none) :
    doBarSync e i s = { s.atBar e i with bars := s.bars.set (v.barKey i) ⟨[e], []⟩ } := by
  obtain ⟨rfl, -, -⟩ := env_hasRun (issuer_env h.issuer)
  have hm := okSync_mode h.ok
  have hfg : f ∈ (v.waiting i).run.d.group := by show f ∈ v.run.d.group; simp [hg]
  have hl := lookSync_waits (s := s.atBar v.core i) (x := v.waiting i) (i := i) (barOf_none hb) (.inl rfl) hfg hne.symm
  have hl' := lookSync_waits (s := { s.atBar v.core i with bars := s.bars.set (v.barKey i) ⟨[v.core], []⟩ }) (x := v.waiting i) (i := i)
    (barOf_some (AMap.get?_set_same ..)) (.inr rfl) hfg hne.symm
  refine h.waits (by simp [hg]) rfl ((look_sync hm).trans hl) ((look_sync hm).trans (hl'.trans ?_)) (other_of_pair hg hf)
  exact congrArg (fun b => BarLook.wait { s.atBar v.core i with bars := b }) (AMap.set_set ..)

theorem doBarGather_sends (h : s.Arrives e i v (fun x => x.okExchange i 1)) (hb : s.bars.get? (v.barKey i) = none) (hne : e ≠ f)
    (hg : v.run.d.group = [e, f]) (hl : v.run.d.lead = some f) (hd : (s.atBar e i).barData (v.waiting i) i = .ok bs)
    (hf : s.waiterAt v.part v.run.d.ctx (v.barKey i) f = none) :
    doBarGather e i s = { s.past e i.last with bars := s.bars.set (v.barKey i) ⟨[], [(v.run.d.rank e, bs)]⟩ } := by
  obtain ⟨rfl, -, -⟩ := env_hasRun (issuer_env h.issuer)
  have hlook := (look_gather (okExchange_mode h.ok)).trans
    (lookGather_sends (s := s.atBar v.core i) (x := v.waiting i) (f := f) hb hl hne.symm hd)
  have hp := h.passes (u := { s.atBar v.core i with bars := s.bars.set (v.barKey i) ⟨[], [(v.run.d.rank v.core, bs)]⟩ }) (by simp [hg]) hlook h.hasRun rfl
    (fun hlast => atBar_alone (h.alone hlast) i) (other_of_pair hg hf)
    (other_of_pair (P := fun g => State.waiterAt _ _ _ _ g = none) hg ((atBar_other s v.core i _ _ _ hne.symm).trans hf))
  refine hp.trans ?_
  rw [← atBar_past s v.core i]
  rfl

end Cases

-- The second of two cores (R232) -------------------------------------------------------------------------------------------------------------------------

theorem waiterAt_facts {s : State} {p ctx f : Nat} {k : Nat × Nat} {y : Env} {j : TInstr} (h : s.waiterAt p ctx k f = some (y, j)) :
    y.core = f ∧ y.barKey j = k := by
  unfold State.waiterAt at h
  split at h
  · split at h
    · dsimp only at h
      split at h
      · next hk => cases h; exact ⟨rfl, hk⟩
      · cases h
    · cases h
  · cases h

theorem waiterAt_ctx {s : State} {p ctx f : Nat} {k : Nat × Nat} {y : Env} {j : TInstr} (h : s.waiterAt p ctx k f = some (y, j)) :
    y.run.d.ctx = ctx := by
  unfold State.waiterAt at h
  split at h
  · next r _ hr _ =>
    have hctx : r.d.ctx = ctx := by
      unfold State.runOn at hr
      have hpaused : ∀ l : List Run, l.find? (fun x => x.d.ctx == ctx) = some r → r.d.ctx = ctx := fun l hl => by
        simpa using List.find?_some hl
      split at hr
      · cases hr
      · split at hr
        · split at hr
          · next hc => cases hr; exact hc
          · exact hpaused _ hr
        · exact hpaused _ hr
    split at h
    · dsimp only at h
      split at h
      · cases h; exact hctx
      · cases h
    · cases h
  · cases h

/-- The first core `f` of two waits at a sync, at the BAR `j`, for the second core `e`. -/
structure State.FirstWaits (s : State) (e f : Nat) (k : Nat × Nat) (p ctx : Nat) (y : Env) (j : TInstr) : Prop where
  ne     : e ≠ f
  bar    : s.bars.get? k = some ⟨[f], []⟩
  waiter : s.waiterAt p ctx k f = some (y, j)
  env    : s.env f = some y
  reps   : y.run.reps = 0
  count  : j.count = 0
  mode   : j.mode = 0
  last   : j.last = false
  group  : y.run.d.group = [e, f]

/-- The state in which the second core of two has gone on and the first has still to. -/
def State.halfMet (s : State) (e f : Nat) (k : Nat × Nat) : State := { s.past e false with bars := s.bars.set k ⟨[e, f], [(e, [])]⟩ }

/-- The state in which both cores have gone on. -/
def State.met (s : State) (e f : Nat) (k : Nat × Nat) : State := { (s.past e false).past f false with bars := s.bars.erase k }

section First

variable {s : State} {e f p ctx : Nat} {k : Nat × Nat} {y : Env} {j : TInstr} (h : s.FirstWaits e f k p ctx y j)

include h

theorem State.FirstWaits.hasRun : State.HasRun { s.past e false with bars := s.bars.erase k } f y.run := by
  obtain ⟨-, ⟨c, hc, hr⟩, -⟩ := env_hasRun h.env
  exact ⟨c, (past_other h.ne.symm false).trans hc, hr⟩

/-- Before the second core arrives, the first looks in vain. -/
theorem State.FirstWaits.vain (i : TInstr) : (s.atBar e i).look y j = .wait (s.atBar e i) := by
  obtain ⟨hcore, hk⟩ := waiterAt_facts h.waiter
  rw [look_sync h.mode, lookSync_waits (f := e) (l := [f]) (by rw [hk]; exact barOf_some h.bar) (.inr (by rw [hcore])) (by simp [h.group]) (hcore ▸ h.ne),
    hk, hcore]
  exact congrArg (fun b => BarLook.wait { s.atBar e i with bars := b }) (AMap.set_get?_self h.bar)

/-- After the second core has gone on, the first goes on and the barrier is forgotten. -/
theorem State.FirstWaits.passes : ∃ u, (s.halfMet e f k).look y j = .pass u ∧ u.passBar y j = s.met e f k := by
  obtain ⟨rfl, hk⟩ := waiterAt_facts h.waiter
  have hb : (s.halfMet e y.core k).barOf (y.barKey j) = ⟨[e, y.core], [(e, [])]⟩ := by
    rw [hk]
    exact barOf_some (AMap.get?_set_same ..)
  refine ⟨{ s.past e false with bars := s.bars.erase k }, ?_, ?_⟩
  · rw [look_sync h.mode, lookSync_last hb h.group h.ne, hk]
    exact congrArg (fun b => BarLook.pass { s.past e false with bars := b }) (AMap.erase_set' ..)
  · rw [passBar_past h.hasRun rfl h.reps h.count (by simp [h.last]), h.last]
    rfl

theorem State.FirstWaits.stillWaits : (s.halfMet e f k).waiterAt p ctx k f = some (y, j) :=
  (waiterAt_congr (s := s) _ _ _ (past_other h.ne.symm false) rfl rfl).trans h.waiter

theorem State.FirstWaits.gone : (s.met e f k).waiterAt p ctx k f = none :=
  waiterAt_ctx h.waiter ▸ waiterAt_past (last := false) h.hasRun (fun h => nomatch h) _ _

end First

section Second

variable {s : State} {e f : Nat} {i j : TInstr} {v y : Env}

/-- The second core goes on and leaves the barrier to the first. -/
theorem second_passes (h : s.Arrives e i v (fun x => x.okSync i)) (hlast : i.last = false) (hg : v.run.d.group = [e, f])
    (hf : s.FirstWaits e f (v.barKey i) v.part v.run.d.ctx y j) :
    ∃ u, (s.atBar e i).look (v.waiting i) i = .pass u ∧ u.passBar (v.waiting i) i = s.halfMet e f (v.barKey i) := by
  obtain ⟨rfl, -, -⟩ := env_hasRun (issuer_env h.issuer)
  refine ⟨{ s.atBar v.core i with bars := s.bars.set (v.barKey i) ⟨[v.core, f], [(v.core, [])]⟩ },
    (look_sync (okSync_mode h.ok)).trans (lookSync_second (x := v.waiting i) (barOf_some hf.bar) hg hf.ne.symm), ?_⟩
  have hp := passBar_past (s := { s.atBar v.core i with bars := s.bars.set (v.barKey i) ⟨[v.core, f], [(v.core, [])]⟩ }) (v := v.waiting i) (i := i)
    (r := (v.waiting i).run) h.hasRun rfl h.reps h.count (by simp [hlast])
  refine hp.trans ?_
  unfold State.halfMet
  rw [hlast, ← atBar_past s v.core i]
  rfl

/-- One round, or two where the first core looks before the second, let both cores go on. -/
theorem doBarSync_second (h : s.Arrives e i v (fun x => x.okSync i)) (hlast : i.last = false) (hg : v.run.d.group = [e, f])
    (hf : s.FirstWaits e f (v.barKey i) v.part v.run.d.ctx y j) : doBarSync e i s = s.met e f (v.barKey i) := by
  obtain ⟨u, hlook, hpass⟩ := second_passes h hlast hg hf
  obtain ⟨u', hlook', hpass'⟩ := hf.passes
  have hfirst := (atBar_other s e i v.part v.run.d.ctx (v.barKey i) hf.ne.symm).trans hf.waiter
  have hgone : (s.past e false).waiterAt v.part v.run.d.ctx (v.barKey i) e = none :=
    waiterAt_past (last := false) (env_hasRun (issuer_env h.issuer)).2.1 (fun h => nomatch h) _ _
  have hgoneMet : (s.met e f (v.barKey i)).waiterAt v.part v.run.d.ctx (v.barKey i) e = none :=
    (waiterAt_congr (s := s.past e false) _ _ _ (past_other hf.ne false) rfl rfl).trans hgone
  have hfix : (s.met e f (v.barKey i)).lookRound v.part v.run.d.ctx (v.barKey i) v.run.d.inOrder = s.met e f (v.barKey i) :=
    lookRound_none _ (fun g hm => by
      obtain rfl | rfl := List.mem_pair.1 (hg ▸ mem_inOrder.1 hm)
      · exact hgoneMet
      · exact hf.gone)
  obtain ho | ho := inOrder_pair hg hf.ne
  · refine h.settles ?_ hfix
    rw [ho]
    simp only [State.lookRound, h.waiter, hlook, hpass, hf.stillWaits, hlook', hpass']
  · have h1 : (s.atBar e i).lookRound v.part v.run.d.ctx (v.barKey i) v.run.d.inOrder = s.halfMet e f (v.barKey i) := by
      rw [ho]
      simp only [State.lookRound, hfirst, hf.vain, h.waiter, hlook, hpass]
    have h2 : (s.halfMet e f (v.barKey i)).lookRound v.part v.run.d.ctx (v.barKey i) v.run.d.inOrder = s.met e f (v.barKey i) := by
      rw [ho]
      simp only [State.lookRound, hf.stillWaits, hlook', hpass', hgoneMet]
    unfold doBarSync
    rw [h.rounds, State.lookRounds, h1, State.lookRounds, h2, lookRounds_fixed hfix]

end Second

end Sys2Proof.Machine
end

section
/-!
PROOFS. A wait at a barrier that lasts too long, and the statement of barriers (O32).
-/

namespace Sys2Proof.Machine

open Sys2Proof

-- A context leaves its cores (R338, R357) ------------------------------------------------------------------------------------------------------------------

/-- `t` is `s` but for what a choice of the next context changes. -/
def State.Reschedules (s t : State) : Prop := ∃ k m l, t = { s with cores := k, pmc := m, out := l ++ s.out }

theorem State.Reschedules.refl (s : State) : s.Reschedules s := ⟨s.cores, s.pmc, [], rfl⟩

theorem State.Reschedules.trans {s t u : State} (h : s.Reschedules t) (g : t.Reschedules u) : s.Reschedules u := by
  obtain ⟨k, m, l, rfl⟩ := h
  obtain ⟨k', m', l', rfl⟩ := g
  exact ⟨k', m', l' ++ l, by simp only [List.append_assoc]⟩

theorem modCore_reschedules (s : State) (e : Nat) (f : Core → Core) : s.Reschedules (s.modCore e f) := ⟨_, s.pmc, [], rfl⟩

theorem giveCore_reschedules (s : State) (e p ctx : Nat) : s.Reschedules (s.giveCore e p ctx) ∧
    ∀ f, f ≠ e → (s.giveCore e p ctx).cores.get? f = s.cores.get? f := by
  unfold State.giveCore State.countSwitch
  dsimp only
  obtain ⟨m, l, h⟩ := count_frame _ _
  rw [h]
  exact ⟨⟨_, m, l, rfl⟩, fun f hf => by
    dsimp only
    rw [modCore_get, if_neg hf]⟩

/-- A choice of the next context concerns its core alone. -/
theorem chooseNext_reschedules (s : State) (e : Nat) : s.Reschedules (s.chooseNext e) ∧
    ∀ f, f ≠ e → (s.chooseNext e).cores.get? f = s.cores.get? f := by
  unfold State.chooseNext
  split
  · exact ⟨.refl s, fun _ _ => rfl⟩
  · split
    · dsimp only
      split
      · exact ⟨.refl s, fun _ _ => rfl⟩
      · split
        · exact giveCore_reschedules ..
        · refine ⟨(modCore_reschedules ..).trans (giveCore_reschedules ..).1, fun f hf => ((giveCore_reschedules ..).2 f hf).trans ?_⟩
          rw [modCore_get, if_neg hf]
    · exact ⟨.refl s, fun _ _ => rfl⟩

/-- A core without the programs and dispatches of a context. -/
def Core.without (x : Core) (c : Nat) : Core :=
  { x with
    running := match x.running with | some r => if r.d.ctx = c then none else some r | none => none
    queue := x.queue.filter (fun d => d.ctx != c)
    paused := x.paused.filter (fun r => r.d.ctx != c) }

/-- A context leaves one core. -/
def State.leaveCore (s : State) (c e : Nat) : State := (s.modCore e (fun x => x.without c)).chooseNext e

/-- What runs on a core is of one context, and nothing else waits for it. -/
def State.Only (s : State) (e c : Nat) : Prop := ∀ k, s.cores.get? e = some k → k.queue = [] ∧ k.paused = [] ∧ ∀ r, k.running = some r → r.d.ctx = c

/-- Nothing runs on a core and nothing waits for it. -/
def State.Vacant (s : State) (e : Nat) : Prop := ∀ k, s.cores.get? e = some k → k.queue = [] ∧ k.paused = [] ∧ k.running = none

theorem leaveCore_other {s : State} {c e f : Nat} (h : f ≠ e) : (s.leaveCore c e).cores.get? f = s.cores.get? f := by
  unfold State.leaveCore
  rw [(chooseNext_reschedules _ e).2 f h, modCore_get, if_neg h]

theorem leaveCore_vacant {s : State} {c e : Nat} (h : s.Only e c) : (s.leaveCore c e).Vacant e := by
  unfold State.leaveCore
  have hv : State.Vacant (s.modCore e (fun x => x.without c)) e := by
    intro k hk
    rw [modCore_get, if_pos rfl] at hk
    obtain ⟨d, hd, rfl⟩ := Option.map_eq_some_iff.1 hk
    obtain ⟨hq, hp, hr⟩ := h d hd
    refine ⟨by simp [Core.without, hq], by simp [Core.without, hp], ?_⟩
    unfold Core.without
    cases hrun : d.running with
    | none => rfl
    | some r => exact if_pos (hr r hrun)
  rw [chooseNext_quiet (fun k hk => ⟨(hv k hk).1, (hv k hk).2.1⟩)]
  exact hv

theorem State.Vacant.only {s : State} {e : Nat} (h : s.Vacant e) (c : Nat) : s.Only e c := fun k hk =>
  ⟨(h k hk).1, (h k hk).2.1, fun r hr => by rw [(h k hk).2.2] at hr; cases hr⟩

/-- A context that leaves every core of a list leaves a core of it vacant on which nothing else runs or waits. -/
theorem leaveCores_vacant {c e : Nat} (l : List Nat) : ∀ (s : State), s.Only e c →
    s.Reschedules (l.foldl (fun (a : State) e => a.leaveCore c e) s) ∧
      ((e ∈ l ∨ s.Vacant e) → State.Vacant (l.foldl (fun (a : State) e => a.leaveCore c e) s) e) := by
  induction l with
  | nil => exact fun s _ => ⟨.refl s, fun h => h.resolve_left (by simp)⟩
  | cons a l ih =>
    intro s h
    have hr : s.Reschedules (s.leaveCore c a) := (modCore_reschedules ..).trans (chooseNext_reschedules ..).1
    by_cases ha : e = a
    · subst ha
      have hv := leaveCore_vacant h
      obtain ⟨h1, h2⟩ := ih _ (hv.only c)
      exact ⟨hr.trans h1, fun _ => h2 (.inr hv)⟩
    · have hsame := leaveCore_other (s := s) (c := c) ha
      obtain ⟨h1, h2⟩ := ih (s.leaveCore c a) (fun k hk => h k (hsame.symm.trans hk))
      refine ⟨hr.trans h1, fun hm => h2 (hm.imp (fun hm => (List.mem_cons.1 hm).resolve_left ha) (fun hv k hk => hv k (hsame.symm.trans hk)))⟩

theorem dropDispatches_vacant {s : State} {p c e : Nat} (h : s.Only e c) (he : (s.coresOf p).contains e = true) :
    State.Reschedules { s with bars := s.bars.filter (fun kv => kv.1.1 != p * 64 + c) } (s.dropDispatches p c) ∧ (s.dropDispatches p c).Vacant e := by
  obtain ⟨h1, h2⟩ := leaveCores_vacant (c := c) (e := e) (s.coresOf p) { s with bars := s.bars.filter (fun kv => kv.1.1 != p * 64 + c) } h
  exact ⟨h1, h2 (.inl (by simpa using he))⟩

-- The teardown (R235, R246, R356 to R359) ------------------------------------------------------------------------------------------------------------------

/-- The first fault of a core is recorded in its registers. -/
theorem corFault_records {s : State} {v : Env} {a : Nat} (h : s.flag Fld.COR_FAULT_VALID v.core = false) (hc : v.run.d.ctx < 64) :
    (∃ r, s.corFault v ⟨2, a, none⟩ = { s with regs := r }) ∧ (s.corFault v ⟨2, a, none⟩).flag Fld.COR_FAULT_VALID v.core = true ∧
    (s.corFault v ⟨2, a, none⟩).fld Fld.COR_FAULT_CAUSE v.core = 2 ∧ (s.corFault v ⟨2, a, none⟩).fld Fld.COR_FAULT_CONTEXT v.core = v.run.d.ctx ∧
    ∀ p, (s.corFault v ⟨2, a, none⟩).coresOf p = s.coresOf p := by
  have hi : ∀ f : Field, f.cls = .corFault → (⟨f.cls, v.core, 0⟩ : Reg) ≠ ⟨Fld.COR_FAULT_INSTR_INSTR.cls, v.core, 0⟩ := fun f hf h => by
    rw [hf] at h
    exact nomatch (Reg.mk.inj h).1
  unfold State.corFault
  rw [h, if_neg Bool.false_ne_true]
  refine ⟨⟨_, rfl⟩, ?_, ?_, ?_, fun p => coresOf_congr p ?_ (fun _ => rfl)⟩
  · unfold State.flag
    rw [fld_setFld_other _ _ _ _ _ _ _ _ (by decide) (by decide) (.inl (hi _ rfl)),
      fld_setFld_other _ _ _ _ _ _ _ _ (by decide) (by decide) (.inr (by decide)),
      fld_setFld_other _ _ _ _ _ _ _ _ (by decide) (by decide) (.inr (by decide)),
      fld_setFld_other _ _ _ _ _ _ _ _ (by decide) (by decide) (.inr (by decide)), fld_setFld_same _ _ _ _ _ (by decide) (by decide)]
    rfl
  · rw [fld_setFld_other _ _ _ _ _ _ _ _ (by decide) (by decide) (.inl (hi _ rfl)),
      fld_setFld_other _ _ _ _ _ _ _ _ (by decide) (by decide) (.inr (by decide)),
      fld_setFld_other _ _ _ _ _ _ _ _ (by decide) (by decide) (.inr (by decide)), fld_setFld_same _ _ _ _ _ (by decide) (by decide)]
    rfl
  · rw [fld_setFld_other _ _ _ _ _ _ _ _ (by decide) (by decide) (.inl (hi _ rfl)),
      fld_setFld_other _ _ _ _ _ _ _ _ (by decide) (by decide) (.inr (by decide)), fld_setFld_same _ _ _ _ _ (by decide) (by decide)]
    exact Nat.mod_eq_of_lt hc
  · have hf : ∀ j : Nat, (⟨Fld.SCH_PART_CORES_CORES.cls, p, 0⟩ : Reg) ≠ ⟨.corFault, j, 0⟩ ∧
        (⟨Fld.SCH_PART_CORES_CORES.cls, p, 0⟩ : Reg) ≠ ⟨.corFaultInstr, j, 0⟩ :=
      fun j => ⟨fun h => (nomatch (Reg.mk.inj h).1), fun h => (nomatch (Reg.mk.inj h).1)⟩
    rw [fld_setFld_other _ _ _ _ _ _ _ _ (by decide) (by decide) (.inl (hf _).2),
      fld_setFld_other _ _ _ _ _ _ _ _ (by decide) (by decide) (.inl (hf _).1),
      fld_setFld_other _ _ _ _ _ _ _ _ (by decide) (by decide) (.inl (hf _).1),
      fld_setFld_other _ _ _ _ _ _ _ _ (by decide) (by decide) (.inl (hf _).1),
      fld_setFld_other _ _ _ _ _ _ _ _ (by decide) (by decide) (.inl (hf _).1)]

/-- A context after a teardown (R359). -/
def Ctx.tornDown (c : Ctx) : Ctx :=
  { c with state := if 3 ≤ c.idleDowns + 1 then .down else .loading, idleDowns := c.idleDowns + 1, teardowns := Nat.min 255 (c.teardowns + 1),
           blocks := [] }

/-- The teardown of a READY context in a device without commands: what runs on a core where nothing else waits is gone. -/
theorem tearDown_ready {s : State} {p n e : Nat} {c : Ctx} (h : s.Idle) (hc : s.ctx p n = some c) (hr : c.state = .ready) (ho : s.Only e n)
    (he : (s.coresOf p).contains e = true) (st : Status) : ∃ m l k w r, s.tearDown p n st = (State.bump { s with
        bars := s.bars.filter (fun kv => kv.1.1 != p * 64 + n), cores := k, pmc := m, out := l ++ s.out, ctxs := s.ctxs.set (p, n) c.tornDown
        reports := w, aon := r, freeCtr := s.freeCtr + 1 } Fld.SCH_TEARDOWNS_COUNT p) ∧
      State.Vacant { s with cores := k } e := by
  obtain ⟨⟨k, m, l, hd⟩, hv⟩ := dropDispatches_vacant ho he
  have hidle : (s.dropDispatches p n).Idle := by
    rw [hd]
    exact (h.of_cores _ k).of_io ⟨l, m, _, _, _, _, rfl⟩
  have hvict : (s.dropDispatches p n).ctxVictims p n = [] := by
    unfold State.ctxVictims
    rw [hidle.commandsOf]
    rfl
  obtain ⟨w, hsw⟩ := sweep_nil (s.dropDispatches p n) p st 0 n
  rw [hd] at hv
  generalize (s.dropDispatches p n).reports.set p (_ :: w) = w at hsw
  have hcx : State.ctx { (s.dropDispatches p n).tick with reports := w } p n = some c := by rw [hd]; exact hc
  refine ⟨m, l, k, w, (s.dropDispatches p n).tick.aon, ?_, hv⟩
  unfold State.tearDown
  rw [hc]
  dsimp only
  rw [hr]
  dsimp only
  rw [hvict, hsw, modCtx_some hcx, hd]
  rfl

section Timeout

variable {s : State} {e : Nat} {i : TInstr} {v : Env} {c : Ctx}

/-- R235: the timeout is a fault of the core with CAUSE 2, and tears the context down. -/
theorem exec_barTimeout (hcalm : s.Calm) (hw : s.awake = true) (h : s.Idle) (hv : s.env e = some v) (hb : v.run.bar = some i)
    (hf : s.flag Fld.COR_FAULT_VALID e = false) (hc : s.ctx v.part v.run.d.ctx = some c) (hr : c.state = .ready)
    (he : (s.coresOf v.part).contains e = true) (ha : s.Alone e) (h64 : v.run.d.ctx < 64) :
    ∃ t, exec (.barTimeout e) s = .next t ∧
      t.flag Fld.COR_FAULT_VALID e = true ∧ t.fld Fld.COR_FAULT_CAUSE e = 2 ∧ t.fld Fld.COR_FAULT_CONTEXT e = v.run.d.ctx ∧
      t.ctx v.part v.run.d.ctx = some c.tornDown ∧ (∀ k, t.cores.get? e = some k → k.running = none) ∧
      (∀ kv ∈ t.bars, kv.1.1 ≠ v.part * 64 + v.run.d.ctx) ∧
      t = { s with regs := t.regs, cores := t.cores, bars := t.bars, ctxs := t.ctxs, reports := t.reports, aon := t.aon, freeCtr := t.freeCtr,
                   pmc := t.pmc, out := t.out } := by
  obtain ⟨rfl, ⟨k0, hk0, hrun⟩, -⟩ := env_hasRun hv
  obtain ⟨⟨rg, hrg⟩, hvalid, hcause, hctx, hcores⟩ := corFault_records (a := 0) hf h64
  have honly : State.Only { s with regs := rg } v.core v.run.d.ctx := fun k hk => ⟨(ha k hk).1, (ha k hk).2, fun r hkr => by
    obtain rfl := Option.some.inj (hk0.symm.trans hk)
    obtain rfl := Option.some.inj (hrun.symm.trans hkr)
    rfl⟩
  rw [hrg] at hvalid hcause hctx hcores
  obtain ⟨m, l, k, w, n, htd, hvac⟩ := tearDown_ready (s := { s with regs := rg }) (p := v.part) (h.of_frame rfl rfl h.waiting) hc hr honly
    (by rw [hcores]; exact he) .contextBarrierTimeout
  have hdo : doBarTimeout v.core s = State.tearDown { s with regs := rg } v.part v.run.d.ctx .contextBarrierTimeout := by
    simp only [doBarTimeout, hv, hb, State.trapCore]
    exact congrArg (fun u => State.tearDown u v.part v.run.d.ctx .contextBarrierTimeout) hrg
  have hkeep : ∀ (u : State) (f : Field), f.cls = .corFault → f.hi < 64 → (u.bump Fld.SCH_TEARDOWNS_COUNT v.part).fld f v.core = u.fld f v.core :=
    fun u f hcls hhi => fld_setFld_other _ _ _ _ _ _ _ _ (by decide) hhi (.inl (fun h => by rw [hcls] at h; exact nomatch (Reg.mk.inj h).1))
  refine ⟨_, next_event_own hw (hdo.trans htd) (hcalm.of_eq rfl rfl rfl rfl rfl rfl rfl rfl) rfl rfl, ?_, ?_, ?_, AMap.get?_set_same .., ?_, ?_, rfl⟩
  · unfold State.flag at hvalid ⊢
    rw [hkeep _ _ rfl (by decide)]
    exact hvalid
  · exact (hkeep _ _ rfl (by decide)).trans hcause
  · exact (hkeep _ _ rfl (by decide)).trans hctx
  · exact fun k hk => (hvac k hk).2.2
  · intro kv hkv
    simpa using (List.mem_filter.1 hkv).2

end Timeout

-- The statement ------------------------------------------------------------------------------------------------------------------------------------------------

/-- Writes of an operand and a core past its BAR keep a device calm, its flash and what is pending. -/
theorem calm_past {s u : State} (h : s.Calm) (ht : s.Tn u) (e : Nat) (last : Bool) :
    (u.past e last).Calm ∧ (u.past e last).flash = s.flash ∧ (u.past e last).pending = s.pending := by
  obtain ⟨⟨_, _, _, rfl⟩, -⟩ := ht
  exact ⟨h.of_eq rfl rfl rfl rfl rfl rfl rfl rfl, rfl, rfl⟩

/-- Settles O32: a group of one goes on at once; of two, the first waits and the second lets both go on; a timeout is a fault. -/
theorem barriers : Obligations.Barriers := by
  intro s w e i v x hc hw
  refine ⟨?arrivals, ?second, ?timeout⟩
  case arrivals =>
    intro hi hst h0 hn ha hb hwe hx
    obtain rfl : w = s.atBar e i := hwe
    obtain rfl : v.waiting i = x := Option.some.inj ((atBar_env (issuer_env hi) i).symm.trans hx)
    have arrives : ∀ ok : CtxImage → Bool, ok v.img = true → s.Arrives e i v ok := fun ok hok => ⟨hi, hst, hok, h0, hn, ha⟩
    have stores : ∀ {n : Nat} {bs : List Byte} {u : State}, (s.atBar e i).barStore (v.waiting i) i n bs = .ok u → s.Tn u := fun h =>
      (atBar_tn s e i).trans (barStore_tn h)
    refine ⟨fun hok hg => ?_, fun f hok hne hg hf => ?_, fun bs u hok hg hl hd hs => ?_, fun f bs hok hne hg hl hd hf => ?_,
      fun bs u hok hg hl hd hs => ?_⟩
    · exact next_event_own hw (doBarSync_alone (arrives _ hok) hb hg) (hc.of_eq rfl rfl rfl rfl rfl rfl rfl rfl) rfl rfl
    · exact next_event_own hw (doBarSync_first (arrives _ hok) hb hne hg hf) (hc.of_eq rfl rfl rfl rfl rfl rfl rfl rfl) rfl rfl
    · obtain ⟨h1, h2, h3⟩ := calm_past hc (stores hs) e i.last
      exact next_event_own hw (doBarGather_alone (arrives _ hok) hb hg hl hd hs) h1 h2 h3
    · exact next_event_own hw (doBarGather_sends (arrives _ hok) hb hne hg hl hd hf) (hc.of_eq rfl rfl rfl rfl rfl rfl rfl rfl) rfl rfl
    · obtain ⟨h1, h2, h3⟩ := calm_past hc (stores hs) e i.last
      exact next_event_own hw (doBarBroadcast_alone (arrives _ hok) hb hg hl hd hs) h1 h2 h3
  case second =>
    intro f j y hi hst h0 hn hlast hok hne hg hb hwt hy0 hj0 hj hjl hyg hye
    exact next_event_own hw (doBarSync_second ⟨hi, hst, hok, h0, hn, by simp [hlast]⟩ hlast hg ⟨hne, hb, hwt, hye, hy0, hj0, hj, hjl, hyg⟩)
      (hc.of_eq rfl rfl rfl rfl rfl rfl rfl rfl) rfl rfl
  case timeout =>
    exact fun c hidle hv hb hf hx hr he ha _ h64 => exec_barTimeout hc hw hidle hv hb hf hx hr he ha h64

end Sys2Proof.Machine
end

section
/-!
PROOFS. A partition reset that waits for a completion of an earlier command of its own tag (O24).
-/

namespace Sys2Proof.Machine

open Sys2Proof

-- The state -------------------------------------------------------------------------------------------------------------------------------------------------

/-- An enabled core of partition 1 on which nothing runs. -/
def freeCore : Core := ⟨some 1, 0, 0, 0, false, false, none, [], [], 0, 0, [], [], [], [], [], []⟩

/-- A PART_RESET of partition 1 with tag 7, at submission queue 0 of PF0. -/
def resetCommand : Sub := ⟨⟨0, 0⟩, some 0, 7, {}, 1, 0, false, false, none⟩

/-- A completion with tag 7 of submission queue 0 of PF0: the queue was disabled after that command and enabled anew, so its tag is no longer
outstanding (R685). -/
def oldCompletion : Completion :=
  { fn := ⟨0, 0⟩, sq := some 0, tag := 7, status := .ok, result := 0, report := 0, notice := false }

/-- A device that is ready, with two cores of partition 1. Completion queue 5 of PF0, which submission queue 0 no longer names, is full, and the
old completion waits there for room (R679); completion queue 0 has room. -/
def resetPending : State :=
  { State.reset with
    boot := { Boot.reset with phase := .ready, step := 15, number := 1 }
    pins := { Pins.reset with pwrGood := true }
    regs := [(⟨.schPartCores, 1, 0⟩, 3), (⟨.sesPartRange, 1, 0⟩, 1024), (⟨.memPartTiles, 1, 0⟩, 0x100000000000),
             (⟨.memPartMortar, 1, 0⟩, 0x100000000000), (⟨.memPartQuota, 1, 0⟩, 0x1000000000001)]
    sqs := [((0, 0), ⟨true, false, 0, 4, 0, 1, []⟩)]
    cqs := [((0, 0), ⟨true, false, 0, 0, 4, 0, 0, 0, [], 0, false⟩), ((0, 5), ⟨true, false, 0, 0, 4, 4, 4, 0, [oldCompletion], 0, false⟩)]
    cores := [(0, freeCore), (1, freeCore)] }

-- It satisfies the premises ------------------------------------------------------------------------------------------------------------------------------------

theorem resetPending_idle : resetPending.Idle :=
  { waiting := fun _ h => (nomatch h), queue := rfl, pulls := rfl, maps := fun _ h => (nomatch h), resets := rfl, removals := rfl, removes := rfl, restart := rfl
    reqs := rfl, handoffs := rfl, parks := rfl, revives := rfl, movesOut := rfl, bonds := rfl, bondWait := rfl, alloc := rfl, scans := rfl
    ckps := rfl, loads := fun _ h => (nomatch h), early := rfl, late := rfl }

theorem resetPending_takes : resetPending.Takes resetCommand .partReset where
  queue := ⟨0, _, _, rfl, rfl, rfl, by decide, rfl, rfl, rfl, by decide, rfl⟩
  fetches := by decide +kernel
  plain := by decide +kernel
  ready := rfl
  passes := by decide +kernel

theorem resetPending_posted : resetPending.allPosted 1 = true := by decide +kernel

theorem resetPending_cores : resetPending.coresOf 1 ≠ [] := by decide +kernel

theorem resetPending_still (e : Nat) (c : Core) (h : resetPending.cores.get? e = some c) : c.running = none := by
  have hm : (e, c) ∈ [(0, freeCore), (1, freeCore)] := AMap.mem_of_get? h
  obtain ⟨-, rfl⟩ | ⟨-, rfl⟩ : e = 0 ∧ c = freeCore ∨ e = 1 ∧ c = freeCore := by simpa using hm
  · rfl
  · rfl

-- The fetch makes the old completion one of the partition's (R331 order 4) ----------------------------------------------------------------------------------------

/-- The orders of R331 to which the partition resets of an outcome have come. -/
def resetOrders (o : Host.Outcome State Fault Refusal) : List Nat :=
  match o with
  | .next t => t.resets.map (fun kv => kv.2.order)
  | _ => []

/-- The command's own outstanding tag makes the old completion one of partition 1, and the reset waits at order 4 until it is written. -/
theorem resetPending_waits : resetOrders (exec (.partReset resetCommand) resetPending) = [4] := by decide +kernel

/-- Refutes O24: between the premise that every completion of the partition has been written and order 4 of R331 the command is fetched, and its
tag becomes outstanding; a completion of an earlier command with that tag that waits in another completion queue then counts as one of the
partition's, so the reset does not come to order 6. -/
theorem not_partitionReset : ¬ Obligations.PartitionReset := by
  intro h
  obtain ⟨t, hex, hres, -⟩ := (h resetPending).1 resetCommand 1 resetPending_idle resetPending_takes rfl resetPending_posted resetPending_still
  rw [if_neg resetPending_cores] at hres
  obtain ⟨r, hr, horder, -⟩ := hres
  have hwaits := resetPending_waits
  rw [hex] at hwaits
  simp [resetOrders, hr, horder] at hwaits

end Sys2Proof.Machine
end

section
/-!
PROOFS. How a held token is committed at the opening draw (O39): the log, the emit ring and the request change, and no tile is installed.
-/

namespace Sys2Proof.Machine

open Sys2Proof

-- What a commit leaves beside its session and its request --------------------------------------------------------------------------

/-- `t` is `s` but for what bonds, counts, messages, and a frame of inputs and outputs change. -/
def State.Notes (s t : State) : Prop :=
  ∃ n r p m l a b d e, t = { s with
    nextSeq := n, regs := r, ports := p, pmc := m, out := l ++ s.out, sqs := a, cqs := b, bounce := d, arrived := e }

theorem State.Notes.refl (s : State) : s.Notes s := ⟨_, _, _, _, [], _, _, _, _, rfl⟩

theorem State.Notes.trans {s t u : State} (h : s.Notes t) (g : t.Notes u) : s.Notes u := by
  obtain ⟨_, _, _, _, l, _, _, _, _, rfl⟩ := h
  obtain ⟨n, r, p, m, l', a, b, d, e, rfl⟩ := g
  exact ⟨n, r, p, m, l' ++ l, a, b, d, e, by simp only [List.append_assoc]⟩

theorem State.Notes.of_bnd {s t : State} (h : s.Bnd t) : s.Notes t := by
  obtain ⟨n, r, m, l, rfl⟩ := h
  exact ⟨n, r, s.ports, m, l, s.sqs, s.cqs, s.bounce, s.arrived, rfl⟩

theorem State.Notes.of_io {s t : State} (h : s.Io t) : s.Notes t := by
  obtain ⟨l, m, a, b, d, e, rfl⟩ := h
  exact ⟨s.nextSeq, s.regs, s.ports, m, l, a, b, d, e, rfl⟩

theorem notes_sendStream (s : State) (q : Req) (kind : Nat) (st : Status) (first : Nat) (ts : List Nat) :
    s.Notes (s.sendStream q kind st first ts) := by
  obtain ⟨p, h⟩ := sendStream_frame s q kind st first ts
  rw [h]
  exact ⟨s.nextSeq, s.regs, p, s.pmc, [], s.sqs, s.cqs, s.bounce, s.arrived, rfl⟩

theorem State.Notes.out {s t : State} (h : s.Notes t) : ∃ l, t.out = l ++ s.out := by
  obtain ⟨_, _, _, _, l, _, _, _, _, rfl⟩ := h
  exact ⟨l, rfl⟩

/-- `t` is `s` with `x` as one session and `q` as its request, but for what is noted beside them. -/
def State.Sets (s t : State) (slot : Nat) (x : Session) (q : Req) : Prop :=
  ∃ w, s.Notes w ∧ t = w.running (s.sessions.set slot x) (s.reqs.set slot q) s.handoffs

section

variable {s t : State} {slot : Nat} {x : Session} {q : Req}

theorem State.Sets.sessions (h : s.Sets t slot x q) : t.sessions = s.sessions.set slot x := by
  obtain ⟨w, -, rfl⟩ := h
  rfl

theorem State.Sets.ses (h : s.Sets t slot x q) : t.ses slot = x := (ses_set h.sessions).1

theorem State.Sets.req (h : s.Sets t slot x q) : t.req slot = some q := by
  obtain ⟨w, -, rfl⟩ := h
  exact AMap.get?_set_same ..

theorem State.Sets.others (h : s.Sets t slot x q) {j : Nat} (hj : j ≠ slot) : t.ses j = s.ses j ∧ t.req j = s.req j := by
  refine ⟨(ses_set h.sessions).2 j hj, ?_⟩
  obtain ⟨w, -, rfl⟩ := h
  exact AMap.get?_set_other _ _ hj

theorem State.Sets.ctx (h : s.Sets t slot x q) (p c : Nat) : t.ctx p c = s.ctx p c := by
  obtain ⟨w, ⟨_, _, _, _, _, _, _, _, _, rfl⟩, rfl⟩ := h
  rfl

theorem State.Sets.out (h : s.Sets t slot x q) : ∃ l, t.out = l ++ s.out := by
  obtain ⟨w, hw, rfl⟩ := h
  exact hw.out

theorem State.Sets.work (h : s.Sets t slot x q) : s.Work t := by
  obtain ⟨w, ⟨n, r, p, m, l, a, b, d, e, rfl⟩, rfl⟩ := h
  exact ⟨l, m, a, b, d, e, rfl⟩

theorem State.Sets.kept (h : s.Sets t slot x q) : s.kept t = t := by
  have hw : s.Io _ := h.work
  exact kept_self hw.flash hw.pending

theorem State.Sets.calm (h : s.Sets t slot x q) (hc : s.Calm) (hx : x.waiting = []) : t.Calm := h.work.calm hc hx h.sessions

theorem State.Sets.notes {u : State} (h : s.Sets t slot x q) (g : t.Notes u) : s.Sets u slot x q := by
  obtain ⟨w, hw, rfl⟩ := h
  obtain ⟨n, r, p, m, l, a, b, d, e, rfl⟩ := g
  exact ⟨_, hw.trans ⟨n, r, p, m, l, a, b, d, e, rfl⟩, rfl⟩

theorem State.Sets.modSes (h : s.Sets t slot x q) (f : Session → Session) : s.Sets (t.modSes slot f) slot (f x) q := by
  rw [modSes_eq h.ses]
  obtain ⟨w, hw, rfl⟩ := h
  refine ⟨w, hw, ?_⟩
  dsimp only [State.running]
  rw [AMap.set_set]

theorem State.Sets.setReq (h : s.Sets t slot x q) (r : Req) : s.Sets (t.setReq slot r) slot x r := by
  obtain ⟨w, hw, rfl⟩ := h
  refine ⟨w, hw, ?_⟩
  dsimp only [State.setReq, State.running]
  rw [AMap.set_set]

/-- What the request was before does not matter. -/
theorem State.Sets.of_setReq {q' : Req} (h : (s.setReq slot q').Sets t slot x q) : s.Sets t slot x q := by
  obtain ⟨w, ⟨n, r, p, m, l, a, b, d, e, rfl⟩, rfl⟩ := h
  refine ⟨_, ⟨n, r, p, m, l, a, b, d, e, rfl⟩, ?_⟩
  dsimp only [State.setReq, State.running]
  rw [AMap.set_set]

end

-- The token log and the next step (R117, R168) -------------------------------------------------------------------------------------

/-- A log that has frames for its new entries takes them and no frame. -/
theorem addLog_framed {s : State} {slot : Nat} {q : Req} (hq : s.req slot = some q) (es : List LogEntry)
    (hf : logFramesFor ((s.ses slot).log.length + es.length) ≤ (s.ses slot).logFrames.length) :
    ∃ t, s.addLog slot es = some t ∧
      s.Sets t slot { s.ses slot with log := (s.ses slot).log ++ es, sincePersist := (s.ses slot).sincePersist + es.length } q := by
  have hgrow : s.growLog slot ((s.ses slot).log.length + es.length) = some (s.setSes slot (s.ses slot)) := by
    unfold State.growLog
    dsimp only
    rw [Nat.sub_eq_zero_of_le hf]
    dsimp only [State.allocMors]
    rw [modSes_eq rfl, List.append_nil]
    rfl
  have hsets : s.Sets (s.setSes slot (s.ses slot)) slot (s.ses slot) q := by
    refine ⟨s, .refl s, ?_⟩
    rw [AMap.set_get?_self hq]
    rfl
  refine ⟨_, ?_, hsets.modSes (fun x => { x with log := x.log ++ es, sincePersist := x.sincePersist + es.length })⟩
  unfold State.addLog
  rw [hgrow]

/-- Pairs whose last tiles have room need no new ones. -/
theorem newColumns_room {s : State} {slot : Nat} {c : CtxImage} (js : List Nat)
    (h : ∀ j ∈ js, ∃ k d, (s.ses slot).mortar.lastOf c.pairs j = some (k, d) ∧ d.fill < c.geom.p) : s.newColumns slot c js = some s := by
  induction js with
  | nil => rfl
  | cons j r ih =>
    obtain ⟨k, d, hlast, hfill⟩ := h j List.mem_cons_self
    have hcol : s.newColumn slot c j = some s := by
      unfold State.newColumn
      dsimp only
      rw [hlast]
      simp [Nat.not_le.2 hfill]
    unfold State.newColumns
    rw [hcol]
    exact ih fun i hi => h i (List.mem_cons_of_mem _ hi)

/-- The next step of the main model takes nothing where every last tile has room (R117). -/
theorem prepareStep_room {s : State} {slot : Nat} {q : Req} {c : CtxImage} (hq : s.req slot = some q) (hfb : q.onFallback = false)
    (hc : s.modelOf q = some c)
    (h : ∀ j, j < c.pairs → ∃ k d, (s.ses slot).mortar.lastOf c.pairs j = some (k, d) ∧ d.fill < c.geom.p) : s.prepareStep slot = some s := by
  unfold State.prepareStep
  rw [hq]
  dsimp only
  rw [if_neg (ne_true_of_eq_false hfb), hc]
  exact newColumns_room _ fun j hj => h j (List.mem_range.1 hj)

/-- A token that meets no end is followed by the next step (R318, R323). -/
theorem afterToken_next {s : State} {slot tok : Nat} {forced : Bool} {q : Req} {t : TextStep} (he : s.endAfter q tok forced t.fired = none)
    (hs : s.prepareStep slot = some s) : s.afterToken slot tok forced q t = s := by
  unfold State.afterToken
  rw [he]
  dsimp only
  rw [hs]

/-- None of the ends of R323. -/
theorem endAfter_none {s : State} {q : Req} {tok : Nat} (ht : tok ≠ s.eosOf q) (hm : q.committed < q.args.sample.maxTokens)
    (hl : (s.ses q.slot).log.length ≤ 1048576) : s.endAfter q tok false false = none := by
  unfold State.endAfter
  rw [if_neg Bool.false_ne_true, if_neg Bool.false_ne_true, if_neg ht, if_neg (Nat.not_le.2 hm), if_neg (Nat.not_lt.2 hl)]

-- The text record (R271, R272) -----------------------------------------------------------------------------------------------------

/-- The text record of a commit, in the emit ring at HEAD, or at the ring's start behind a pad record. -/
def Req.textRecord (q : Req) (e : Emit) (t : TextStep) : Out :=
  .emit q.fn (e.ring.base + (if 2 ^ e.ring.log2 < e.head % 2 ^ e.ring.log2 + recordBytes t.text then 0 else e.head % 2 ^ e.ring.log2))
    ⟨e.seq, 0, emitFlags t.stopOut t.raw t.repl, t.text.length, q.committed, 0, t.text⟩

/-- Released text goes into the request's emit ring, of which the request keeps the new HEAD (R272). -/
theorem emitText_sets {s t : State} {slot : Nat} {x : Session} {q : Req} (h : s.Sets t slot x q) (ts : TextStep) :
    ∃ e', s.Sets (t.emitText slot ts) slot x { q with emit := e' } ∧
      ∀ e, q.emit = some e → ts.text ≠ [] → t.Writes (t.emitText slot ts) (q.textRecord e ts) := by
  unfold State.emitText
  rw [h.req]
  dsimp only
  cases he : q.emit with
  | none => exact ⟨q.emit, h, fun e k => by cases k⟩
  | some e =>
    dsimp only
    split
    · next hempty => exact ⟨q.emit, h, fun _ _ hne => absurd (List.isEmpty_iff.1 hempty) hne⟩
    · obtain ⟨hio, hw, -⟩ := emitRecord_spec t q e 0 (emitFlags ts.stopOut ts.raw ts.repl) q.committed 0 ts.text
      refine ⟨_, (h.notes (.of_io hio)).setReq _, fun e' k _ => ?_⟩
      cases k
      exact hw

-- The commit (R318) ----------------------------------------------------------------------------------------------------------------

/-- What a commit records: the grammar state in the session, the request, and its text (R318). -/
theorem recordToken_sets {s t : State} {slot : Nat} {x : Session} {q₀ : Req} (h : s.Sets t slot x q₀) (tok n : Nat) (q q' : Req)
    (gr : Option GramState) (ts : TextStep) (c : CtxClass) :
    ∃ e', s.Sets (t.recordToken slot tok n q q' gr ts c) slot { x with grammar := gr } { q' with emit := e' } ∧
      ∀ e, q'.emit = some e → ts.text ≠ [] → s.Writes (t.recordToken slot tok n q q' gr ts c) (q'.textRecord e ts) := by
  have hbump : ∀ (v : State) (f : Field) (i k : Nat), v.Notes (v.bump f i k) := fun v f i k => .of_bnd (bnd_bump v f i k)
  have hreq := ((h.notes (.of_bnd (bnd_bondOnce t q.part))).modSes (fun y => { y with grammar := gr })).setReq q'
  have hcount := (hreq.notes (hbump _ Fld.SMP_DRAWS_COUNT q.part 1)).notes (hbump _ Fld.TXT_REPLACED_COUNT q.part ts.replaced)
  obtain ⟨v, hv, hdef⟩ : ∃ v, s.Sets v slot { x with grammar := gr } q' ∧
      t.recordToken slot tok n q q' gr ts c = (v.emitText slot ts).sendStream q' 0 0 n [tok] := by
    unfold State.recordToken
    dsimp only
    split
    · exact ⟨_, (hcount.notes (hbump _ Fld.SMP_OVERFLOWS_COUNT q.part 1)).notes (.of_bnd (bnd_count _ _)), rfl⟩
    · exact ⟨_, hcount.notes (.of_bnd (bnd_count _ _)), rfl⟩
  obtain ⟨e', hset, hwrites⟩ := emitText_sets hv ts
  have hsend := notes_sendStream (v.emitText slot ts) q' 0 0 n [tok]
  rw [hdef]
  exact ⟨e', hset.notes hsend, fun e he hne => ((hwrites e he hne).mono hsend.out).after hv.out⟩

/-- A session whose log takes a token, with the grammar state after it. -/
def Session.commits (x : Session) (l : LogEntry) (gr : Option GramState) : Session :=
  { x with log := x.log ++ [l], sincePersist := x.sincePersist + 1, grammar := gr }

/-- What a request keeps over its opening commit, which drops what the step held (R318). -/
structure Req.Opened (q r : Req) : Prop where
  committed : r.committed = q.committed + 1
  opening   : r.opening = false
  held      : r.held = none
  packet    : r.packet = none
  chunks    : r.chunks = []
  phase     : r.phase = q.phase
  served    : r.served = q.served

/-- A request's opening draw on its main model presents a token that meets no end of R323, and the token log and every last tile have room. -/
structure State.OpensWith (s : State) (slot : Nat) (q : Req) (tok : Nat) (ts : TextStep) (c : CtxImage) : Prop where
  own     : q.slot = slot
  text    : ts = textStep q.args.text q.args.stops q.utf8 q.stopHold (tokenBytes (s.textOf q.part q.main) q.args.text tok)
  opening : q.opening = true
  main    : q.onFallback = false
  fired   : ts.fired = false
  eos     : tok ≠ s.eosOf q
  budget  : q.committed + 1 < q.args.sample.maxTokens
  length  : (s.ses slot).log.length + 1 ≤ 1048576
  frames  : logFramesFor ((s.ses slot).log.length + 1) ≤ (s.ses slot).logFrames.length
  model   : s.modelOf q = some c
  room    : ∀ j, j < c.pairs → ∃ k d, (s.ses slot).mortar.lastOf c.pairs j = some (k, d) ∧ d.fill < c.geom.p

/-- The opening commit (R318): the log takes the token, the request goes on to its first step, and the token's text goes out. -/
theorem commitToken_opens {s : State} {slot tok : Nat} {q : Req} {e : Emit} {ts : TextStep} {c : CtxImage} (hq : s.req slot = some q)
    (he : q.emit = some e) (h : s.OpensWith slot q tok ts c) :
    ∃ gr r, s.Sets (s.commitToken slot tok false) slot ((s.ses slot).commits ⟨tok, true, q.firstLog⟩ gr) r ∧ q.Opened r ∧
      (ts.text ≠ [] → s.Writes (s.commitToken slot tok false) (Req.textRecord { q with committed := q.committed + 1 } e ts)) := by
  obtain ⟨s2, hadd, hlog⟩ := addLog_framed hq [⟨tok, true, q.firstLog⟩] h.frames
  have hinstall : s.installStep q = some s := by
    unfold State.installStep
    rw [if_pos h.opening]
  obtain ⟨q', hq'⟩ : ∃ q', q' = q.next (s.nextBond q.part) ts (q.pen.slide q.args.sample (s2.ses slot).log) (s.marks q.part) (q.fbTiles, q.fbPages) :=
    ⟨_, rfl⟩
  obtain ⟨e', hset, hwrites⟩ := recordToken_sets hlog tok ((s2.ses slot).log.length - 1) q q' (s.gramAfter q tok (s2.ses slot).grammar) ts
    (s.ctxClass q.part q.main)
  obtain ⟨u, hu⟩ : ∃ u, u = s2.recordToken slot tok ((s2.ses slot).log.length - 1) q q' (s.gramAfter q tok (s2.ses slot).grammar) ts
    (s.ctxClass q.part q.main) := ⟨_, rfl⟩
  rw [← hu] at hset hwrites
  have hend : u.endAfter q' tok false ts.fired = none := by
    rw [h.fired]
    refine endAfter_none ?_ (by rw [hq']; exact h.budget) ?_
    · unfold State.eosOf
      rw [hset.ctx, hq']
      exact h.eos
    · rw [hq', show (q.next _ _ _ _ _).slot = slot from h.own, hset.ses]
      simpa using h.length
  have hstep : u.prepareStep slot = some u := by
    refine prepareStep_room hset.req (by rw [hq']; exact h.main) ?_ (by rw [hset.ses]; exact h.room)
    unfold State.modelOf
    rw [hset.ctx, hq']
    exact h.model
  have hcommit : s.commitToken slot tok false = u := by
    unfold State.commitToken
    rw [hq]
    dsimp only
    rw [hinstall]
    dsimp only
    rw [hadd]
    dsimp only
    rw [hlog.req]
    dsimp only
    rw [← h.text, ← hq', ← hu]
    exact afterToken_next hend hstep
  rw [hcommit]
  refine ⟨_, _, hset, ?_, fun hne => ?_⟩
  · rw [hq']
    exact ⟨rfl, rfl, rfl, rfl, rfl, rfl, if_pos h.opening⟩
  · have hrecord := hwrites e (by rw [hq']; exact he) hne
    rw [hq'] at hrecord
    exact hrecord

-- EMIT_HOLD_POLL (R274) ------------------------------------------------------------------------------------------------------------

/-- TAIL is read again, and a token whose text fits goes to its commit (R274). -/
theorem doEmitHoldPoll_eq {s : State} {slot tail : Nat} {q : Req} {h : HeldToken} {e : Emit} {ts : TextStep} (hq : s.req slot = some q)
    (hh : q.held = some h) (he : q.emit = some e)
    (hts : ts = textStep q.args.text q.args.stops q.utf8 q.stopHold (tokenBytes (s.textOf q.part q.main) q.args.text h.token)) :
    doEmitHoldPoll slot tail s =
      if (ts.text.isEmpty || { e with tail := tail }.fits (recordBytes ts.text)) = true then
        (s.setReq slot { q with emit := some { e with tail := tail } }).commitToken slot h.token h.forced
      else s.setReq slot { q with emit := some { e with tail := tail } } := by
  subst hts
  unfold doEmitHoldPoll
  rw [hq]
  dsimp only
  rw [hh, he]
  rfl

/-- Settles O39: TAIL alone changes while the text does not fit; with room in the ring the opening commit records the token and its text, and nothing
ends the request. -/
theorem tokenCommit : Obligations.TokenCommit := by
  intro s slot tail q h e ts hcalm ha hq hh he hts
  have hdo := doEmitHoldPoll_eq (tail := tail) hq hh he hts
  refine ⟨fun hne hfits => ?_, fun c hfits hslot hopen hfb hfired hforced heos hmax hlen hframes hc hroom => ?_⟩
  · rw [if_neg (by simp [hne, hfits])] at hdo
    exact next_event_own ha hdo (hcalm.of_eq rfl rfl rfl rfl rfl rfl rfl rfl) rfl rfl
  · rw [if_pos (by simpa using hfits), hforced] at hdo
    obtain ⟨gr, r, hset, hr, hwrites⟩ := commitToken_opens (s := s.setReq slot { q with emit := some { e with tail := tail } })
      (AMap.get?_set_same ..) rfl ⟨hslot, hts, hopen, hfb, hfired, heos, hmax, hlen, hframes, hc, hroom⟩
    rw [← hdo] at hset hwrites
    have hset : s.Sets (doEmitHoldPoll slot tail s) slot ((s.ses slot).commits ⟨h.token, true, q.firstLog⟩ gr) r := hset.of_setReq
    refine ⟨_, r, (next_event ha rfl (hset.calm hcalm (ses_waiting hcalm slot))).trans (by rw [hset.kept]), hset.req, hr.committed,
      hr.opening, hr.held, hr.packet, hr.chunks, hr.phase, hr.served, ?_, ?_, ?_, hwrites, fun j hj => hset.others hj, hset.work⟩
    all_goals
      rw [hset.ses]
      rfl

end Sys2Proof.Machine
end

section
/-!
PROOFS. What the deadline monitor and the mask builder do (O41): notices, the switch to the fallback model, its prefilled mortar, and masks.
-/

namespace Sys2Proof.Machine

open Sys2Proof

-- Events that change requests, registers and outputs alone --------------------------------------------------------------------------

/-- An event that changes requests, registers, and a frame of inputs and outputs leaves nothing to follow it. -/
theorem next_event_io {s : State} {f : State → State} (ha : s.awake = true) (hc : s.Calm)
    (h : s.Io { f s with reqs := s.reqs, regs := s.regs }) :
    (Host.Outcome.next (s.event f) : Host.Outcome State Fault Refusal) = .next (f s) := by
  have hcalm : (f s).Calm := (hc.io h).of_eq rfl rfl rfl rfl rfl rfl rfl rfl
  exact next_event_own ha rfl hcalm h.flash h.pending

-- DEADLINE_NOTICE (R349, R350, R684) -------------------------------------------------------------------------------------------------

/-- A notice is an entry of the completion queue that is marked as a notice (R684); a count goes with it. -/
theorem notice_spec (s : State) {o : Owner} {n : Nat} (hn : o.sq = some n) (ho : s.Open o.fn n) (p b remain : Nat) :
    (∃ k h m, s.Writes (s.notice o p b remain)
      (.cqe o.fn k ⟨o.fn, o.sq, o.tag, .ok, BitVec.ofNat 128 (b % 4 + remain % 2 ^ 32 * 2 ^ 64), 0, true, false, none⟩ h m)) ∧
      ∃ v, s.Io v ∧ s.notice o p b remain = v.bump Fld.SCH_NOTICES_COUNT p :=
  ⟨writes_post s _ n hn ho, _, io_post s _ (by rw [hn]; exact Option.some_ne_none n), rfl⟩

/-- The notice of a budget that counts, once per interval (R349, R350). -/
theorem doDeadlineNotice_running {s : State} {slot b remain : Nat} {q : Req} (hq : s.req slot = some q) (hb : b ≤ 2)
    (hrun : (q.budget b).running = true) (hphase : q.phase ≠ .ending) (hfirst : (q.budget b).noticed = false)
    (hwarn : (q.budget b).warn ≠ 0) (hremain : remain ≤ (q.budget b).us) :
    doDeadlineNotice slot b remain s =
      (s.setReq slot (q.setBudget b { q.budget b with noticed := true })).notice ⟨q.fn, q.sq, q.tag⟩ q.part b remain := by
  have hcounts : ((q.budget b).running && q.phase != .ending) = true := by simp [hrun, hphase]
  have hdue : ((q.budget b).noticed || (q.budget b).warn == 0 || decide ((q.budget b).us < remain) || decide (2 < b)) = false := by
    simp [hfirst, hwarn, hremain, hb]
  unfold doDeadlineNotice
  rw [hq]
  dsimp only
  rw [if_pos hcounts]
  dsimp only
  rw [hdue, if_neg Bool.false_ne_true]

-- MASK_READY (R297) --------------------------------------------------------------------------------------------------------------------

/-- A mask that is ready before its logits changes the request, and counts. -/
theorem doMaskReady_waits {s : State} {slot : Nat} {q : Req} (hq : s.req slot = some q) (hg : q.grammar ≠ none) (hm : q.maskReady = false)
    (hphase : q.phase ≠ .ending) (hp : q.packet = none) :
    ∃ r m l, doMaskReady slot s =
      { s with reqs := s.reqs.set slot { q with maskReady := true }, regs := r, pmc := m, out := l ++ s.out } := by
  have hbuilds : ¬(q.grammar.isNone || q.maskReady || decide (q.phase = .ending)) = true := by simp [hg, hm, hphase]
  have hdraw : ¬(q.packet.isSome && q.held.isNone) = true := by simp [hp]
  have hcounts : ∀ (r : AMap Reg Word64) (e : PmcEv), ∃ r' m l, (State.count { s with regs := r } e).setReq slot { q with maskReady := true } =
      { s with reqs := s.reqs.set slot { q with maskReady := true }, regs := r', pmc := m, out := l ++ s.out } := by
    intro r e
    obtain ⟨m, l, h⟩ := count_frame { s with regs := r } e
    rw [h]
    exact ⟨r, m, l, rfl⟩
  unfold doMaskReady
  rw [hq]
  dsimp only
  rw [if_neg hbuilds, if_neg hdraw]
  cases s.grammarFor q with
  | none => exact hcounts s.regs _
  | some g =>
    dsimp only
    split
    · exact hcounts (s.bump Fld.GRM_SLOW_COUNT q.part).regs _
    · exact hcounts s.regs _

-- The fallback mortar (R352) ---------------------------------------------------------------------------------------------------------

/-- The empty tiles of a fallback mortar over `n` positions, in frames. -/
def emptyFb (c : CtxImage) (n : Nat) (fs : List Nat) : AMap Nat MEntry :=
  (((fbExpect c n).map (·.1)).zip fs).map (fun kf => (kf.1, ⟨.lpddr, c.geom.fmt8, false, false, 0, 0, kf.2⟩))

theorem emptyFb_keys {c : CtxImage} {n : Nat} {fs : List Nat} (h : fs.length = (fbExpect c n).length) :
    (emptyFb c n fs).map (·.1) = (fbExpect c n).map (·.1) := by
  unfold emptyFb
  rw [List.map_map]
  exact List.map_fst_zip (by rw [List.length_map, h])

theorem emptyFb_empty {c : CtxImage} {n : Nat} {fs : List Nat} {kv : Nat × MEntry} (h : kv ∈ emptyFb c n fs) :
    kv.2.fill = 0 ∧ kv.2.tier = .lpddr := by
  obtain ⟨kf, -, rfl⟩ := List.mem_map.1 h
  exact ⟨rfl, rfl⟩

theorem allocMors_length {p : Nat} {f : Frame} : ∀ (n : Nat) {s t : State} {l : List Nat}, s.allocMors p f n = some (l, t) → l.length = n
  | 0, s, t, l, h => by cases h; rfl
  | n + 1, s, t, l, h => by
    unfold State.allocMors at h
    split at h
    · cases h
    · split at h
      · cases h
      · next h2 =>
        cases h
        rw [List.length_cons, allocMors_length n h2]

/-- A request with a fallback mortar. -/
def Req.withFb (q : Req) (es : AMap Nat MEntry) (ps : List Nat) : Req := { q with fbTiles := es, fbPages := ps }

/-- An allocated fallback mortar is empty and has all its pages; frames and the request are all that it takes. -/
theorem allocFb_spec {s v : State} {q : Req} {c : CtxImage} {n : Nat} (h : s.allocFb q c n = some v) :
    ∃ fs ps w, s.Fr w ∧ v = w.modReq q.slot (fun r => r.withFb (emptyFb c n fs) ps) ∧ fs.length = (fbExpect c n).length ∧
      ps.length = fbPageCount (emptyFb c n fs) := by
  unfold State.allocFb at h
  dsimp only at h
  split at h
  · cases h
  · next fs s1 htiles =>
    change s1.fbGrow { q with fbPages := [] } (emptyFb c n fs) = some v at h
    unfold State.fbGrow at h
    split at h
    · cases h
    · next ps w hpages =>
      cases h
      have htiles_len := allocTiles_length _ htiles
      rw [List.length_map] at htiles_len
      exact ⟨fs, ps, w, (fr_allocTiles htiles).trans (fr_allocMors hpages), rfl, htiles_len, allocMors_length _ hpages⟩

-- DEADLINE_SWITCH (R349, R351, R352) -------------------------------------------------------------------------------------------------

/-- A request that holds nothing of a step (R319, R351). -/
def Req.stepless (q : Req) : Req := { q with pending := [], served := [], held := none, packet := none, chunks := [] }

/-- A request that goes on with a fallback context, at its opening draw, in a new inter-token interval (R352). -/
def Req.onto (q : Req) (c : Nat) (m : Nat × Nat) : Req :=
  { q with onFallback := true, fbCtx := c, fbReady := false, opening := true, inter := q.inter.start m }

/-- What a dropped step leaves: the request holds nothing of it, and the slices that waited are answered. -/
theorem dropStep_stepless {s : State} {slot : Nat} {q : Req} (hq : s.req slot = some q) :
    ∃ a, s.Pre a ∧ s.dropStep slot = { a with reqs := s.reqs.set slot q.stepless } := by
  have hpre := pre_answerWaiting s slot .deadlineOnFallback
  refine ⟨_, hpre, ?_⟩
  unfold State.dropStep State.modReq
  rw [hpre.same.2.1, AMap.modify_some hq]
  rfl

/-- The deadline monitor switches a request on the main model whose session has a fallback context that is READY (R349). -/
theorem doDeadlineSwitch_ready {s : State} {slot b : Nat} {q : Req} {f : Nat × CtxImage} (hq : s.req slot = some q) (hb : b ≤ 2)
    (hphase : q.phase ≠ .ending) (hmain : q.fbCtx = 0x3F) (hwait : q.wait ≠ some .fallback) (hrun : (q.budget b).running = true)
    (hsw : (q.budget b).switch ≠ 0) (hf : s.fallbackOf slot = .ready f.1 f.2) : doDeadlineSwitch slot b s = s.switchReq slot q f := by
  have hmay : q.maySwitch = true := by simp [Req.maySwitch, hmain, hwait, hphase]
  have hgoes : (!q.maySwitch || !(q.budget b).running || (q.budget b).switch == 0 || decide (2 < b)) = false := by
    simp [hmay, hrun, hsw, hb]
  unfold doDeadlineSwitch
  rw [hq]
  dsimp only
  rw [hgoes, if_neg Bool.false_ne_true, hf]

/-- A generating request whose fallback mortar fits switches to it (R352). -/
theorem switchReq_fits {s v : State} {slot : Nat} {q : Req} {f : Nat × CtxImage} (hq : s.req slot = some q) (hslot : q.slot = slot)
    (hphase : q.phase = .generating) (hh : s.handoffs.get? slot = none)
    (hv : (s.dropStep slot).allocFb q.stepless f.2 (s.ses slot).log.length = some v) (hvh : v.handoffs = s.handoffs) :
    s.switchReq slot q f = (v.modReq slot (fun r => r.onto f.1 (s.marks q.part))).bump Fld.SCH_SWITCHES_COUNT q.part := by
  have hown : s.beforeOwn q = false := by simp [State.beforeOwn, hphase, hslot, hh]
  obtain ⟨a, -, hdrop⟩ := dropStep_stepless hq
  have hreq : (s.dropStep slot).req slot = some q.stepless := by
    rw [hdrop]
    exact AMap.get?_set_same ..
  have hstaged : ∀ g, (v.modReq slot g).unstageHandoff slot = v.modReq slot g := by
    intro g
    unfold State.unstageHandoff
    rw [modReq_handoffs, hvh, hh]
  unfold State.switchReq
  rw [hown, if_neg Bool.false_ne_true]
  dsimp only
  rw [hreq, if_neg (by rw [hphase]; decide), Nat.add_zero]
  dsimp only
  rw [hv]
  dsimp only
  rw [hstaged]
  rfl

/-- What a switch leaves, where `v` holds the frames of the fallback mortar (R352). -/
theorem switched_spec {s v : State} {slot : Nat} {q : Req} {f : Nat × CtxImage} (hq : s.req slot = some q) (hslot : q.slot = slot)
    (hphase : q.phase = .generating) (hh : s.handoffs.get? slot = none)
    (hv : (s.dropStep slot).allocFb q.stepless f.2 (s.ses slot).log.length = some v) :
    ∃ fs ps x, s.Pre x ∧ fs.length = (fbExpect f.2 (s.ses slot).log.length).length ∧
      ps.length = fbPageCount (emptyFb f.2 (s.ses slot).log.length fs) ∧ x.tileFrames = v.tileFrames ∧ x.mortarFrames = v.mortarFrames ∧
      s.switchReq slot q f = x.running s.sessions (s.reqs.set slot
        ((q.stepless.withFb (emptyFb f.2 (s.ses slot).log.length fs) ps).onto f.1 (s.marks q.part))) s.handoffs := by
  obtain ⟨a, ha, hdrop⟩ := dropStep_stepless hq
  obtain ⟨fs, ps, w, hfr, rfl, hfs, hps⟩ := allocFb_spec hv
  have hown : q.stepless.slot = slot := hslot
  rw [hown] at hv
  rw [hdrop] at hfr
  obtain ⟨tf, mf, ti, rg, fc, rfl⟩ := hfr
  obtain ⟨hses, -, hhand⟩ := ha.same
  refine ⟨fs, ps, State.bump { a with tileFrames := tf, mortarFrames := mf, tiles := ti, regs := rg, freeCtr := fc }
    Fld.SCH_SWITCHES_COUNT q.part, ?_, hfs, hps, rfl, rfl, ?_⟩
  · exact ha.trans ((State.Pre.of_drops (.of_fr ⟨tf, mf, ti, rg, fc, rfl⟩)).trans (.of_bnd (bnd_bump ..)))
  · rw [switchReq_fits hq hslot hphase hh hv hhand, ← hses, ← hhand]
    unfold State.modReq State.running
    dsimp only
    rw [AMap.modify_some (AMap.get?_set_same ..), AMap.modify_some (AMap.get?_set_same ..), AMap.set_set, AMap.set_set]
    rfl

-- FALLBACK_PREFILL_DONE (R352) -------------------------------------------------------------------------------------------------------

/-- `t` is `s` but for what tiles written into frames change: tiles, the frames' poison, the sub-channels that the writes wake. -/
def State.Filled (s t : State) : Prop := ∃ a b c, t = { s with tiles := a, tileFrames := b, selfRefresh := c }

theorem State.Filled.refl (s : State) : s.Filled s := ⟨s.tiles, s.tileFrames, s.selfRefresh, rfl⟩

theorem State.Filled.trans {s t u : State} (h : s.Filled t) (g : t.Filled u) : s.Filled u := by
  obtain ⟨_, _, _, rfl⟩ := h
  obtain ⟨a, b, c, rfl⟩ := g
  exact ⟨a, b, c, rfl⟩

theorem filled_putTile (s : State) (n : Nat) (t : Tile) : s.Filled (s.putTile (.frame n) t) := by
  obtain ⟨l, h⟩ := wakeTile_frame (State.setPoison { s with tiles := s.tiles.set (.frame n) t } (.frame n) []) n
  exact ⟨_, _, l, h⟩

/-- Prefilled tiles go into the frames of the request's fallback mortar, whose opening draw is due then. -/
theorem fillFb_spec (s : State) (q : Req) (c : CtxImage) (ts : List PushedTile) :
    ∃ w es, s.Filled w ∧ s.fillFb q c ts = w.modReq q.slot (fun y => { y with fbTiles := es, fbReady := true, opening := true }) := by
  unfold State.fillFb
  dsimp only
  refine ⟨_, _, foldl_keeps (fun a b : AMap Nat MEntry × State => a.2.Filled b.2) (fun a => .refl a.2) (fun _ _ _ => .trans) _
    (fun a kv => ?_) q.fbTiles ([], s), rfl⟩
  split
  · exact .refl a.2
  · exact filled_putTile ..

/-- A generating request whose fallback mortar has been prefilled (R352). -/
theorem doFallbackPrefillDone_generating {s : State} {slot : Nat} {q : Req} {f : Ctx} {ts : List PushedTile} (hq : s.req slot = some q)
    (hf : s.ctx q.part q.fbCtx = some f) (hon : q.onFallback = true) (hready : q.fbReady = false) (hphase : q.phase = .generating)
    (hts : fbTilesOk f.img (s.ses slot).log.length ts = true) (hlog : s.logIsBack slot = true) :
    doFallbackPrefillDone slot ts s = s.fillFb q f.img ts := by
  unfold doFallbackPrefillDone
  rw [hq]
  dsimp only
  rw [hf]
  dsimp only
  rw [hphase, if_neg (show ¬Phase.generating = .appending by decide), Nat.add_zero, hts, hlog, hon, hready]
  rfl

/-- Settles O41: a notice and a mask change their request alone; a switch takes an empty mortar that fits (R351, R352), and its prefilled tiles go
into the frames that it took. -/
theorem deadlines : Obligations.Deadlines := by
  intro s slot q hcalm ha hq
  refine ⟨fun b remain n hb hrun hphase hfirst hwarn hremain hsq hopen => ?_,
    fun b f r v hb hslot hphase hmain hwait hh hrun hsw hf hr hv => ?_,
    fun ts f hslot hf hon hready hphase hts hlog => ?_, fun hg hm hphase hp => ?_⟩
  · have hdo := doDeadlineNotice_running hq hb hrun hphase hfirst hwarn hremain
    obtain ⟨hw, v, hio, hv⟩ := notice_spec (s.setReq slot (q.setBudget b { q.budget b with noticed := true }))
      (o := ⟨q.fn, q.sq, q.tag⟩) hsq hopen q.part b remain
    rw [← hdo] at hw hv
    obtain ⟨l, m, c, d, e, g, rfl⟩ := hio
    have hframe : s.Io { doDeadlineNotice slot b remain s with reqs := s.reqs, regs := s.regs } := by
      rw [hv]
      exact ⟨l, m, c, d, e, g, rfl⟩
    exact ⟨_, next_event_io ha hcalm hframe, hw, by rw [hv]; rfl, hframe⟩
  · subst hr
    have hdo := doDeadlineSwitch_ready hq hb (by rw [hphase]; decide) hmain hwait hrun hsw hf
    obtain ⟨fs, ps, x, hpre, hfs, hps, htf, hmf, hswitched⟩ := switched_spec hq hslot hphase hh hv
    rw [hswitched] at hdo
    have hwork := hpre.work s.sessions
    refine ⟨_, _, ps, next_event_own ha hdo ?_ ?_ ?_, AMap.get?_set_same .., emptyFb_keys hfs, fun _ h => emptyFb_empty h, hps, htf, hmf,
      fun j hj => AMap.get?_set_other _ _ hj, rfl, hwork ..⟩
    · obtain ⟨_, _, _, _, _, _, _, _, _, _, _, _, _, _, _, _, _, _, rfl⟩ := hpre
      exact hcalm.of_eq rfl rfl rfl rfl rfl rfl rfl rfl
    · exact (hwork s.reqs s.handoffs).flash
    · exact (hwork s.reqs s.handoffs).pending
  · have hdo := doFallbackPrefillDone_generating hq hf hon hready hphase hts hlog
    obtain ⟨w, es, ⟨a, b, c, rfl⟩, hfill⟩ := fillFb_spec s q f.img ts
    rw [hfill, hslot] at hdo
    unfold State.modReq at hdo
    dsimp only at hdo
    rw [AMap.modify_some hq] at hdo
    exact ⟨_, _, next_event_own ha hdo (hcalm.of_eq rfl rfl rfl rfl rfl rfl rfl rfl) rfl rfl, AMap.get?_set_same .., rfl, rfl, rfl, rfl,
      fun j hj => AMap.get?_set_other _ _ hj, rfl⟩
  · obtain ⟨r, m, l, hdo⟩ := doMaskReady_waits hq hg hm hphase hp
    have hframe : s.Io { doMaskReady slot s with reqs := s.reqs, regs := s.regs } := by
      rw [hdo]
      exact ⟨l, m, s.sqs, s.cqs, s.bounce, s.arrived, rfl⟩
    exact ⟨_, next_event_io ha hcalm hframe, by rw [hdo], hframe⟩

end Sys2Proof.Machine
end

section
/-!
PROOFS. Vector queries and pointing (O48): what a query answers, the collection that a batch of pointing leaves, and the four commands.
-/

namespace Sys2Proof.Machine

open Sys2Proof

-- The results of a query (R483, R484, R487) ---------------------------------------------------------------------------------------------

theorem insertBy_perm {α : Type} (lt : α → α → Bool) (x : α) (l : List α) : (insertBy lt x l).Perm (x :: l) := by
  induction l with
  | nil => exact .refl _
  | cons y l ih =>
    unfold insertBy
    split
    · exact .refl _
    · exact (ih.cons y).trans (.swap x y l)

theorem sortBy_length {α : Type} (lt : α → α → Bool) (l : List α) : (sortBy lt l).length = l.length := by
  suffices h : ∀ l acc : List α, (l.foldl (fun acc x => insertBy lt x acc) acc).length = l.length + acc.length from h l []
  intro l
  induction l with
  | nil => intro acc; simp
  | cons x l ih =>
    intro acc
    rw [List.foldl_cons, ih, (insertBy_perm lt x acc).length_eq, List.length_cons, List.length_cons]
    omega

/-- The candidates of a query (R483): the visible members of the beam, and every visible node of the side list of its snapshot. -/
def Coll.candidates (c : Coll) (r : VsrRun) : List BeamItem :=
  (c.walk (r.ask.sketch % 2 ^ c.geom.sketchBits) r.ask.ef r.g0).1.filter (fun b => c.visible r.e0 b.node) ++
    ((List.range' r.g0 r.l0).filter (fun n => c.visible r.e0 n)).map
      (fun n => ⟨c.hamOf (r.ask.sketch % 2 ^ c.geom.sketchBits) n, n, true⟩)

/-- The result entry of a candidate (R487). -/
def Coll.entryOf (c : Coll) (r : VsrRun) (b : BeamItem) : Option VsrResult :=
  match c.nodes[b.node]? with
  | some x => some ⟨x.item, BitVec.ofNat 32 (c.score (half32 r.ask.vec) x), b.ham, decide (r.g0 ≤ b.node)⟩
  | none => none

/-- The order of results: by score, ties by the lower item (R487). -/
def Coll.ranksBefore (c : Coll) (a b : VsrResult) : Bool :=
  c.better a.score.toNat b.score.toNat || (!(c.better b.score.toNat a.score.toNat) && decide (a.item < b.item))

/-- R487: the nearest RERANK candidates are scored, and the best K of them are the results. -/
theorem results_eq (c : Coll) (r : VsrRun) : (c.results r).1 =
    (sortBy c.ranksBefore (((sortBy BeamItem.before (c.candidates r)).take r.ask.rerank).filterMap (c.entryOf r))).take r.ask.k := rfl

theorem visible_node {c : Coll} {e0 n : Nat} (h : c.visible e0 n = true) : ∃ x, c.nodes[n]? = some x ∧ (x.del = 0 ∨ e0 < x.del) := by
  unfold Coll.visible at h
  split at h
  · next x hx => exact ⟨x, hx, by simpa using h⟩
  · cases h

theorem candidates_visible {c : Coll} {r : VsrRun} {b : BeamItem} (h : b ∈ c.candidates r) : c.visible r.e0 b.node = true := by
  rcases List.mem_append.1 h with h | h
  · exact (List.mem_filter.1 h).2
  · obtain ⟨n, hn, rfl⟩ := List.mem_map.1 h
    exact (List.mem_filter.1 hn).2

theorem entryOf_node {c : Coll} {r : VsrRun} {b : BeamItem} {x : Node} (h : c.nodes[b.node]? = some x) :
    c.entryOf r b = some ⟨x.item, BitVec.ofNat 32 (c.score (half32 r.ask.vec) x), b.ham, decide (r.g0 ≤ b.node)⟩ := by
  unfold Coll.entryOf
  rw [h]

theorem nearest_candidate {c : Coll} {r : VsrRun} {b : BeamItem} (h : b ∈ (sortBy BeamItem.before (c.candidates r)).take r.ask.rerank) :
    ∃ x, c.nodes[b.node]? = some x ∧ (x.del = 0 ∨ r.e0 < x.del) :=
  visible_node (candidates_visible ((mem_sortBy ..).1 (List.mem_of_mem_take h)))

theorem results_visible {c : Coll} {r : VsrRun} {e : VsrResult} (h : e ∈ (c.results r).1) :
    ∃ (n : Nat) (x : Node), c.nodes[n]? = some x ∧ e.item = x.item ∧ (x.del = 0 ∨ r.e0 < x.del) := by
  rw [results_eq] at h
  obtain ⟨b, hb, he⟩ := List.mem_filterMap.1 ((mem_sortBy ..).1 (List.mem_of_mem_take h))
  obtain ⟨x, hx, hv⟩ := nearest_candidate hb
  rw [entryOf_node hx] at he
  cases he
  exact ⟨b.node, x, hx, rfl, hv⟩

theorem results_length (c : Coll) (r : VsrRun) :
    (c.results r).1.length = Nat.min r.ask.k (Nat.min r.ask.rerank (c.candidates r).length) := by
  have hall : ∀ b ∈ (sortBy BeamItem.before (c.candidates r)).take r.ask.rerank, (c.entryOf r b).isSome = true := fun b hb => by
    obtain ⟨x, hx, -⟩ := nearest_candidate hb
    rw [entryOf_node hx]
    rfl
  rw [results_eq, List.length_take, sortBy_length, List.length_filterMap_eq_countP, List.countP_eq_length.2 hall, List.length_take, sortBy_length]

-- Pointing (R490 to R493) --------------------------------------------------------------------------------------------------------------------

/-- `d` is `c` but for the lists of its nodes, and no list has come to exceed R neighbours. -/
def Coll.Relinks (c d : Coll) : Prop :=
  d = { c with nodes := d.nodes } ∧ d.nodes.length = c.nodes.length ∧
    ∀ (k : Nat) (x : Node), c.nodes[k]? = some x → ∃ a : List Nat, d.nodes[k]? = some { x with adj := a } ∧
      (x.adj.length ≤ c.geom.degree → a.length ≤ c.geom.degree)

theorem Coll.Relinks.refl (c : Coll) : c.Relinks c := ⟨rfl, rfl, fun _ x h => ⟨x.adj, h, id⟩⟩

theorem Coll.Relinks.trans {c d e : Coll} (h : c.Relinks d) (g : d.Relinks e) : c.Relinks e := by
  obtain ⟨hd, hlen, hnode⟩ := h
  obtain ⟨he, glen, gnode⟩ := g
  have hgeom : d.geom = c.geom := by rw [hd]
  refine ⟨by rw [he, hd], glen.trans hlen, fun k x hx => ?_⟩
  obtain ⟨a, ha, hab⟩ := hnode k x hx
  obtain ⟨b, hb, hbb⟩ := gnode k _ ha
  rw [hgeom] at hbb
  exact ⟨b, hb, hbb ∘ hab⟩

theorem setAdj_relinks (c : Coll) (n : Nat) {l : List Nat} (hl : l.length ≤ c.geom.degree) : c.Relinks (c.setAdj n l) := by
  refine ⟨rfl, List.length_modify .., fun k x hx => ?_⟩
  by_cases h : n = k
  · exact ⟨l, by simp [Coll.setAdj, hx, h], fun _ => hl⟩
  · exact ⟨x.adj, by simp [Coll.setAdj, hx, h], id⟩

theorem foldl_relinks {α : Type} (g : Coll → α → Coll) (hg : ∀ (c : Coll) (a : α), c.Relinks (g c a)) (l : List α) (c : Coll) : c.Relinks (l.foldl g c) :=
  foldl_keeps Coll.Relinks .refl (fun _ _ _ => .trans) g hg l c

theorem keep_length (c : Coll) (alpha x : Nat) (l : List Nat) : ∀ kept : List Nat, kept.length ≤ c.geom.degree →
    (c.keep alpha x kept l).length ≤ c.geom.degree := by
  induction l with
  | nil => exact fun _ h => h
  | cons y l ih =>
    intro kept h
    unfold Coll.keep
    split
    · exact h
    · next hfull =>
      split
      · exact ih kept h
      · exact ih _ (by rw [List.length_append]; exact Nat.lt_of_le_of_ne h hfull)

/-- R490: pruning keeps at most R neighbours. -/
theorem prune_length (c : Coll) (alpha x : Nat) (l : List Nat) : (c.prune alpha x l).length ≤ c.geom.degree :=
  keep_length c alpha x _ [] (Nat.zero_le _)

/-- R490: a node that is pointed has a pruned list, and a neighbour that it enters keeps within R. -/
theorem pointNode_relinks (c : Coll) (ef alpha n : Nat) : c.Relinks (c.pointNode ef alpha n) := by
  unfold Coll.pointNode
  split
  · exact .refl c
  · refine (setAdj_relinks c n (prune_length ..)).trans (foldl_relinks _ (fun a y => ?_) _ _)
    show a.Relinks (if (a.adjOf y).length < a.geom.degree then _ else _)
    split
    · next hroom => exact setAdj_relinks a y (by rw [List.length_append]; exact hroom)
    · exact setAdj_relinks a y (prune_length ..)

/-- R493: a sweep prunes lists again. -/
theorem sweepLists_relinks (c : Coll) (alpha : Nat) : c.Relinks (c.sweepLists alpha) :=
  foldl_relinks _ (fun a n => by
    split
    · exact setAdj_relinks a n (prune_length ..)
    · exact .refl a) _ c

/-- `c` with `n` more nodes in its graph, the first ever of which is the ENTRY (R491). -/
def Coll.advance (c : Coll) (n : Nat) : Coll :=
  { c with graphLen := c.graphLen + n, entry := if c.graphLen = 0 ∧ n ≠ 0 then some 0 else c.entry }

theorem Coll.Relinks.advance {c d : Coll} (h : c.Relinks d) (n : Nat) : (c.advance n).Relinks (d.advance n) := by
  obtain ⟨hd, hlen, hnode⟩ := h
  exact ⟨by rw [hd]; rfl, hlen, hnode⟩

/-- R491: a batch moves so many nodes from the front of the side list into the graph. -/
theorem pointBatch_relinks (c : Coll) (batch ef alpha : Nat) :
    (c.advance (Nat.min batch c.sideLen)).Relinks (c.pointBatch batch ef alpha) := by
  have hfold := foldl_relinks (fun (a : Coll) i => a.pointNode ef alpha i) (fun a i => pointNode_relinks a ef alpha i)
    (List.range' c.graphLen (Nat.min batch c.sideLen)) c
  obtain ⟨d, hd⟩ : ∃ d, (List.range' c.graphLen (Nat.min batch c.sideLen)).foldl (fun (a : Coll) i => a.pointNode ef alpha i) c = d := ⟨_, rfl⟩
  rw [hd] at hfold
  have hgraph : d.graphLen = c.graphLen := by rw [hfold.1]
  have hentry : d.entry = c.entry := by rw [hfold.1]
  have hbatch : c.pointBatch batch ef alpha = d.advance (Nat.min batch c.sideLen) := by
    unfold Coll.pointBatch Coll.advance
    dsimp only
    rw [hd, hgraph, hentry]
    simp
  rw [hbatch]
  exact hfold.advance _

/-- The number of nodes that a batch of pointing moves: none where pointing is neither automatic nor asked for (R491, R493). -/
def State.batchLen (s : State) (c : Coll) : Nat :=
  if s.flag Fld.VSR_POINT_CFG_AUTO c.part = true ∨ c.asked = true then
    Nat.min (Nat.min 1024 (zeroActsAs (s.fld Fld.VSR_POINT_CFG_POINT_BATCH c.part) 1)) c.sideLen
  else 0

/-- R491 and R493: a batch, then the sweep where one was asked for. -/
theorem doPointingBatchDone_points {s : State} {coll : Nat} {c : Coll} (hc : s.colls.get? coll = some c) (hp : s.points c = true) :
    ∃ d, (c.advance (s.batchLen c)).Relinks d ∧ doPointingBatchDone coll s =
      { s.bump Fld.VSR_POINTED_COUNT c.part (s.batchLen c) with
        colls := s.colls.set coll { d with sweep := false, asked := c.asked && d.sideLen != 0 } } := by
  obtain ⟨alpha, halpha⟩ : ∃ a, Nat.max 64 (s.fld Fld.VSR_POINT_CFG_ALPHA c.part) = a := ⟨_, rfl⟩
  obtain ⟨b, hb, hbatch⟩ : ∃ b, (c.advance (s.batchLen c)).Relinks b ∧
      (if (s.flag Fld.VSR_POINT_CFG_AUTO c.part || c.asked) = true then
        c.pointBatch (Nat.min 1024 (zeroActsAs (s.fld Fld.VSR_POINT_CFG_POINT_BATCH c.part) 1))
          (Nat.max 16 (s.fld Fld.VSR_POINT_CFG_EF_BUILD c.part)) alpha
      else c) = b := by
    refine ⟨_, ?_, rfl⟩
    unfold State.batchLen
    by_cases h : s.flag Fld.VSR_POINT_CFG_AUTO c.part = true ∨ c.asked = true
    · rw [if_pos h, if_pos (by simpa using h)]
      exact pointBatch_relinks ..
    · rw [if_neg h, if_neg (by simpa using h)]
      exact ⟨by simp [Coll.advance], rfl, (Coll.Relinks.refl c).2.2⟩
  have hsweep : b.Relinks (if c.sweep = true then b.sweepLists alpha else b) := by
    split
    · exact sweepLists_relinks ..
    · exact .refl b
  have hmoved : b.graphLen - c.graphLen = s.batchLen c := by
    rw [hb.1]
    exact Nat.add_sub_cancel_left ..
  have hside : b.sideLen = (if c.sweep = true then b.sweepLists alpha else b).sideLen := by
    obtain ⟨hd, hlen, -⟩ := hsweep
    unfold Coll.sideLen
    rw [hlen, hd]
  refine ⟨_, hb.trans hsweep, ?_⟩
  unfold doPointingBatchDone
  rw [hc]
  dsimp only
  rw [hp, if_neg (by decide), halpha, hbatch, hmoved, hside]
  rfl

/-- R527: pointing that does not run leaves the device as it is. -/
theorem doPointingBatchDone_still {s : State} {coll : Nat} (h : ∀ c, s.colls.get? coll = some c → s.points c = false) :
    doPointingBatchDone coll s = s := by
  unfold doPointingBatchDone
  split
  · rfl
  · next c hc => rw [h c hc]; rfl

-- Queries (R482, R483, R488) -------------------------------------------------------------------------------------------------------------------

/-- The collection that a command may act on: of its partition, not being dropped, not closed by poison. -/
theorem collFor_open {s : State} {p n : Nat} {c : Coll} (hc : s.colls.get? n = some c) (hp : c.part = p) (hd : c.dropping = false)
    (hx : c.closed = false) : s.collFor p n = .ok c := by
  simp [State.collFor, State.collOf, hc, hp, hd, hx]

/-- A query without a failing check (R482). -/
theorem checkQuery_passes {s : State} {p : Nat} {q : VsrAsk} {c : Coll} {x : Ctx} (hc : s.collFor p q.coll = .ok c)
    (hk : 1 ≤ q.k ∧ q.k ≤ 1024 ∧ q.k ≤ q.ef ∧ q.ef ≤ 1024 ∧ q.k ≤ q.rerank ∧ q.rerank ≤ 1024) (hv : q.vec.length = c.geom.dims)
    (hx : s.ctx p c.ctx = some x) (hs : x.state = .ready ∨ x.state = .loading) : s.checkQuery p q = none := by
  have hparams : (q.k = 0 || decide (1024 < q.k) || decide (q.ef < q.k) || decide (1024 < q.ef) || decide (q.rerank < q.k) ||
      decide (1024 < q.rerank)) = false := by simp; omega
  unfold State.checkQuery
  rw [hc]
  dsimp only
  rw [hparams, hv, hx]
  rcases hs with hs | hs <;> simp [hs]

/-- `t` is `s` with the results of the query written to its ring and its context served (R483, R359), before its completion. -/
def State.Searched (s : State) (r : VsrRun) (c : Coll) (t : State) : Prop :=
  ∃ l m b, t = { s.bump Fld.VSR_QUERIES_COUNT r.part with
      pmc := m, out := l ++ s.out, bounce := b, ctxs := s.ctxs.modify (r.part, c.ctx) (fun y => { y with idleDowns := 0 }) } ∧
    .data r.fn (.results (c.results r).1) ∈ l

theorem runQuery_searches {s : State} {r : VsrRun} {c : Coll} (hc : s.colls.get? r.ask.coll = some c) :
    ∃ v, s.Searched r c v ∧ s.runQuery r = v.completeFor ⟨r.fn, r.sq, r.tag⟩ .ok (c.results r).1.length := by
  obtain ⟨m, l, hm⟩ := count_frame s (PmcEv.ofPart 0x80 (c.results r).2 r.part (s.ctxClass r.part c.ctx))
  unfold State.runQuery
  rw [hc]
  dsimp only
  rw [hm]
  unfold State.buf
  obtain ⟨b, hb⟩ := sealed_frame (((State.bump { s with pmc := m, out := l ++ s.out } Fld.VSR_QUERIES_COUNT r.part).contextServed r.part c.ctx).put
    (.data r.fn (.results (c.results r).1))) r.fn
  rw [hb]
  exact ⟨_, ⟨_ :: l, m, b, rfl, List.mem_cons_self⟩, rfl⟩

/-- A search leaves the queues and what waits as they are. -/
theorem State.Searched.keeps {s t : State} {r : VsrRun} {c : Coll} (h : s.Searched r c t) :
    t.sqs = s.sqs ∧ t.cqs = s.cqs ∧ (∃ l, t.out = l ++ s.out) ∧ (s.Calm → t.Calm) := by
  obtain ⟨l, m, b, rfl, -⟩ := h
  exact ⟨rfl, rfl, ⟨l, rfl⟩, fun hs => hs.of_eq rfl rfl rfl rfl rfl rfl rfl rfl⟩

/-- What a search between a fetch and a completion leaves. -/
theorem State.Searched.frame {s v w t : State} {r : VsrRun} {c : Coll} (hs : s.Io v) (h : v.Searched r c w) (ht : w.Io t) :
    s.Writes t (.data r.fn (.results (c.results r).1)) ∧ t.ctxs = s.ctxs.modify (r.part, c.ctx) (fun y => { y with idleDowns := 0 }) ∧
      t.scans = s.scans ∧ (s.bump Fld.VSR_QUERIES_COUNT r.part).Io { t with ctxs := s.ctxs } := by
  obtain ⟨l0, _, _, _, _, _, rfl⟩ := hs
  obtain ⟨l, _, _, rfl, hl⟩ := h
  obtain ⟨l1, m, a, b, d, e, rfl⟩ := ht
  exact ⟨⟨l1 ++ (l ++ l0), by simp only [List.append_assoc], by simp [hl]⟩, rfl, rfl, l1 ++ (l ++ l0), m, a, b, d, e,
    by simp only [List.append_assoc]; rfl⟩

/-- A query of `u` passes its checks for the collection `c`, whose context is `x` (R482). -/
structure State.Asks (s : State) (u : Sub) (q : VsrAsk) (c : Coll) (x : Ctx) : Prop where
  check : s.checkQuery (s.subPart u) q = none
  coll  : s.colls.get? q.coll = some c
  ctx   : s.ctx (s.subPart u) c.ctx = some x

theorem State.Asks.io {s t : State} {u : Sub} {q : VsrAsk} {c : Coll} {x : Ctx} (h : s.Asks u q c x) (g : s.Io t) : t.Asks u q c x := by
  obtain ⟨_, _, _, _, _, _, rfl⟩ := g
  exact ⟨h.check, h.coll, h.ctx⟩

/-- A query that passes its checks waits for a context that is loading (R337), runs, or joins the open batch (R488). -/
theorem doVsrQuery_passes {s : State} {u : Sub} {q : VsrAsk} {c : Coll} {x : Ctx} (h : s.Asks u q c x) {r : VsrRun}
    (hr : r = ⟨u.fn, u.sq, u.tag, q, s.subPart u, c.graphLen, c.sideLen, c.tombEpoch⟩) : doVsrQuery u q s =
      if x.state = .loading then { s with ctxs := s.ctxs.set (s.subPart u, c.ctx) { x with held := x.held ++ [(u, .vsrQuery q)] } }
      else if s.fld Fld.VSR_CFG_SCAN_WINDOW (s.subPart u) = 0 then s.runQuery r
      else if s.scanMax (s.subPart u) ≤ (s.scanOf q.coll).length + 1 then
        State.runScan { s with scans := s.scans.set q.coll (s.scanOf q.coll ++ [r]) } q.coll
      else { s with scans := s.scans.set q.coll (s.scanOf q.coll ++ [r]) } := by
  have hlen : (({ s with scans := s.scans.set q.coll (s.scanOf q.coll ++ [r]) } : State).scanOf q.coll).length = (s.scanOf q.coll).length + 1 := by
    simp [State.scanOf, AMap.getD]
  subst hr
  unfold doVsrQuery
  dsimp only
  rw [h.check, h.coll]
  dsimp only
  rw [h.ctx, modCtx_some h.ctx, hlen]
  by_cases hl : x.state = .loading <;> simp [hl]

/-- The refusal of a query (R498, R732, R482): an unknown collection, then one closed by poison, then parameters outside their ranges. -/
theorem checkQuery_refuses {s : State} {p : Nat} {q : VsrAsk} {c : Coll} {st : Status}
    (h : s.colls.get? q.coll = none ∧ st = .configCollectionUnknown ∨
      s.colls.get? q.coll = some c ∧ ((c.part ≠ p ∨ c.dropping = true) ∧ st = .configCollectionUnknown ∨
        c.part = p ∧ c.dropping = false ∧ (c.closed = true ∧ st = .mediaLpddr6 ∨
          c.closed = false ∧ (q.k = 0 ∨ 1024 < q.k ∨ q.ef < q.k ∨ 1024 < q.ef ∨ q.rerank < q.k ∨ 1024 < q.rerank) ∧ st = .configQueryParams))) :
    s.checkQuery p q = some st := by
  unfold State.checkQuery
  obtain ⟨hc, rfl⟩ | ⟨hc, ⟨hu, rfl⟩ | ⟨hp, hd, ⟨hx, rfl⟩ | ⟨hx, hk, rfl⟩⟩⟩ := h
  · simp [State.collFor, State.collOf, hc]
  · have hnot : (c.part == p && !c.dropping) = false := by
      rcases hu with hu | hu <;> simp [hu]
    simp [State.collFor, State.collOf, hc, hnot]
  · simp [State.collFor, State.collOf, hc, hp, hd, hx]
  · rw [collFor_open hc hp hd hx]
    dsimp only
    rw [if_pos (by simpa [or_assoc] using hk)]

section Query

variable {s : State} {u : Sub} {q : VsrAsk} {c : Coll} {x : Ctx} {r : VsrRun} (hcalm : s.Calm) (ht : s.Takes u (.vsrQuery q)) (ha : s.Asks u q c x)
  (hr : r = ⟨u.fn, u.sq, u.tag, q, s.subPart u, c.graphLen, c.sideLen, c.tombEpoch⟩)

include hcalm ht ha hr

/-- R483, R488: without a scan window a query answers from its snapshot. -/
theorem exec_vsrQuery_runs (hready : x.state = .ready) (hwin : s.fld Fld.VSR_CFG_SCAN_WINDOW (s.subPart u) = 0) :
    ∃ t l, exec (.vsrQuery u q) s = .next t ∧ s.Writes t (.data u.fn (.results l)) ∧ s.Posts t u .ok l.length 0 ∧ l = (c.results r).1 ∧
      t.ctxs = s.ctxs.modify (s.subPart u, c.ctx) (fun y => { y with idleDowns := 0 }) ∧
      (s.bump Fld.VSR_QUERIES_COUNT (s.subPart u)).Io { t with ctxs := s.ctxs } := by
  obtain ⟨v, t, hex, hpost, ⟨s', hs, hv⟩, hio⟩ := host_done (st := .ok) (r := (c.results r).1.length) (n := 0)
    (P := fun v => ∃ s', s.Io s' ∧ s'.Searched r c v) ht rfl rfl (fun s' _ hs => by
      obtain ⟨v, hv, hrun⟩ := runQuery_searches (s := s') (r := r) (by rw [hr]; exact (ha.io hs).coll)
      have hdo : doVsrQuery u q s' = s'.runQuery r := by
        have hdo := doVsrQuery_passes (r := r) (ha.io hs)
        obtain ⟨_, _, _, _, _, _, rfl⟩ := hs
        exact (hdo hr).trans ((if_neg (by rw [hready]; decide)).trans (if_pos hwin))
      obtain ⟨hsqs, hcqs, hout, hkeeps⟩ := hv.keeps
      have howner : (⟨r.fn, r.sq, r.tag⟩ : Owner) = u.owner := by rw [hr]; rfl
      rw [howner] at hrun
      exact ⟨v, hdo.trans hrun, hsqs, hcqs, hout, hkeeps (hcalm.io hs), s', hs, hv⟩)
  obtain ⟨hw, hctxs, -, hframe⟩ := hv.frame hs hio
  subst hr
  exact ⟨_, _, hex, hw, hpost, rfl, hctxs, hframe.kept⟩

/-- R488: a query joins the open batch of its collection while that has room. -/
theorem exec_vsrQuery_joins (hready : x.state = .ready) (hwin : s.fld Fld.VSR_CFG_SCAN_WINDOW (s.subPart u) ≠ 0)
    (hroom : (s.scans.getD q.coll []).length + 1 < s.scanMax (s.subPart u)) :
    ∃ t, exec (.vsrQuery u q) s = .next t ∧ t.scans = s.scans.set q.coll (s.scans.getD q.coll [] ++ [r]) ∧ s.Io { t with scans := s.scans } := by
  obtain ⟨s', ⟨hs, -⟩, hnext⟩ := next_host ht rfl rfl
  have hdo := doVsrQuery_passes (r := r) (ha.io hs)
  obtain ⟨l, m, a, b, d, e, rfl⟩ := hs
  have hdo := (hdo hr).trans ((if_neg (by rw [hready]; decide)).trans ((if_neg hwin).trans (if_neg (Nat.not_le_of_lt hroom))))
  exact ⟨_, hnext _ hdo (hcalm.of_eq rfl rfl rfl rfl rfl rfl rfl rfl), rfl, l, m, a, b, d, e, rfl⟩

/-- R337: a query for a context that is loading waits there. -/
theorem exec_vsrQuery_waits (hload : x.state = .loading) : ∃ t, exec (.vsrQuery u q) s = .next t ∧
    t.ctxs = s.ctxs.set (s.subPart u, c.ctx) { x with held := x.held ++ [(u, .vsrQuery q)] } ∧ s.Io { t with ctxs := s.ctxs } := by
  obtain ⟨s', ⟨hs, -⟩, hnext⟩ := next_host ht rfl rfl
  have hdo := doVsrQuery_passes (r := r) (ha.io hs)
  obtain ⟨l, m, a, b, d, e, rfl⟩ := hs
  exact ⟨_, hnext _ ((hdo hr).trans (if_pos hload)) (hcalm.of_eq rfl rfl rfl rfl rfl rfl rfl rfl), rfl, l, m, a, b, d, e, rfl⟩

end Query

/-- R482: a query that fails a check is refused with its status. -/
theorem doVsrQuery_refused {s : State} {u : Sub} {q : VsrAsk} {st : Status} (h : s.checkQuery (s.subPart u) q = some st) :
    doVsrQuery u q s = s.complete u st := by
  unfold doVsrQuery
  dsimp only
  rw [h]

/-- R488: at the end of the window the query of the batch runs. -/
theorem exec_scanWindowExpiry {s : State} {coll n : Nat} {r : VsrRun} {c : Coll} (hcalm : s.Calm) (ha : s.awake = true) (hs : s.scans = [(coll, [r])])
    (hc : s.colls.get? coll = some c) (hr : r.ask.coll = coll) (hn : r.sq = some n) (ho : s.Open r.fn n) :
    ∃ t l k h m, exec (.scanWindowExpiry coll) s = .next t ∧ s.Writes t (.data r.fn (.results l)) ∧
      s.Writes t (.cqe r.fn k (Owner.answer ⟨r.fn, r.sq, r.tag⟩ .ok l.length) h m) ∧ l = (c.results r).1 ∧ t.scans = [] ∧
      t.ctxs = s.ctxs.modify (r.part, c.ctx) (fun y => { y with idleDowns := 0 }) ∧
      (s.bump Fld.VSR_QUERIES_COUNT r.part).Io { t with scans := s.scans, ctxs := s.ctxs } := by
  subst hr
  obtain ⟨v, hv, hrun⟩ := runQuery_searches (s := { s with scans := [] }) (r := r) hc
  have hdo : doScanWindowExpiry r.ask.coll s = v.completeFor ⟨r.fn, r.sq, r.tag⟩ .ok (c.results r).1.length := by
    unfold doScanWindowExpiry State.runScan State.scanOf
    rw [hs, ← hrun]
    simp [AMap.getD, AMap.get?, AMap.erase]
  have hio := io_completeFor v ⟨r.fn, r.sq, r.tag⟩ .ok (c.results r).1.length 0 (by rw [hn]; exact nofun)
  obtain ⟨hsqs, hcqs, hout, hkeeps⟩ := hv.keeps
  have hopen : v.Open r.fn n := by
    unfold State.Open State.sq State.cq
    rw [hsqs, hcqs]
    exact ho
  obtain ⟨k, h, m, hcqe⟩ := writes_post v (Owner.answer ⟨r.fn, r.sq, r.tag⟩ .ok (c.results r).1.length) n hn hopen
  obtain ⟨hw, hctxs, hscans, hframe⟩ := hv.frame (.refl _) hio
  have hquiet : v.Calm := hkeeps (hcalm.of_eq rfl rfl rfl rfl rfl rfl rfl rfl)
  refine ⟨_, _, k, h, m, next_event_own ha hdo (hquiet.io hio) hframe.flash hframe.pending, hw, .after hout hcqe, rfl, hscans, hctxs, ?_⟩
  obtain ⟨l, pm, a, b, d, e, hframe⟩ := hframe
  exact ⟨l, pm, a, b, d, e, congrArg (fun w : State => { w with scans := s.scans }) hframe⟩

theorem doVsrPoint_marks {s : State} {u : Sub} {coll : Nat} {c : Coll} (hc : s.colls.get? coll = some c)
    (hfor : s.collFor (s.subPart u) coll = .ok c) : doVsrPoint u coll s =
      State.complete { s with colls := s.colls.set coll { c with asked := true, sweep := c.sweep || u.flags.sweep } } u .ok := by
  unfold doVsrPoint State.modColl
  rw [hfor]
  dsimp only
  rw [AMap.modify_some hc]

/-- R493: VSR_POINT marks its collection alone. -/
theorem exec_vsrPoint {s : State} {u : Sub} {coll : Nat} {c : Coll} (hcalm : s.Calm) (ht : s.Takes u (.vsrPoint coll))
    (hc : s.colls.get? coll = some c) (hfor : s.collFor (s.subPart u) coll = .ok c) :
    ∃ t, exec (.vsrPoint u coll) s = .next t ∧ s.Posts t u .ok 0 0 ∧
      t.colls = s.colls.set coll { c with asked := true, sweep := c.sweep || u.flags.sweep } ∧ s.Io { t with colls := s.colls } := by
  obtain ⟨s', t, hex, hpost, hs, hio⟩ := host_acts (st := .ok) (r := 0) (n := 0)
    (fun w => { w with colls := s.colls.set coll { c with asked := true, sweep := c.sweep || u.flags.sweep } }) ht rfl rfl (fun s' hs => by
      obtain ⟨_, _, _, _, _, _, rfl⟩ := hs
      exact ⟨doVsrPoint_marks hc hfor, rfl, rfl, ⟨[], rfl⟩, hcalm.of_eq rfl rfl rfl rfl rfl rfl rfl rfl⟩)
  obtain ⟨l0, _, _, _, _, _, rfl⟩ := hs
  obtain ⟨l1, m, a, b, d, e, rfl⟩ := hio
  exact ⟨_, hex, hpost, rfl, l1 ++ l0, m, a, b, d, e, by simp only [List.append_assoc]; rfl⟩

/-- Settles O48: a query answers from its snapshot by R483 and R487, and pointing changes of the nodes only lists, which stay within R neighbours. -/
theorem queries : Obligations.Queries := by
  intro s p hcalm
  refine ⟨fun u q c x r ht hp hc hpart hdrop hclosed hk hv hx hr => ?_, fun u q c st ht hp h => ?_,
    fun coll n r c ha hs hc hr hn ho => exec_scanWindowExpiry hcalm ha hs hc hr hn ho, fun r c => ⟨fun e => results_visible, ?_⟩,
    fun u coll c ht hp hc hpart hdrop hclosed => ?_, fun coll n c ha hc hpts hn => ?_, fun coll ha h => ?_⟩
  · subst hp
    have hasks : ∀ hst : x.state = .ready ∨ x.state = .loading, s.Asks u q c x := fun hst =>
      ⟨checkQuery_passes (collFor_open hc hpart hdrop hclosed) hk hv hx hst, hc, hx⟩
    exact ⟨fun hready => exec_vsrQuery_runs hcalm ht (hasks (.inl hready)) hr hready,
      fun hready => exec_vsrQuery_joins hcalm ht (hasks (.inl hready)) hr hready,
      fun hload => exec_vsrQuery_waits hcalm ht (hasks (.inr hload)) hr hload⟩
  · subst hp
    refine host_refuses hcalm ht rfl rfl (fun s' hs => doVsrQuery_refused ?_)
    obtain ⟨_, _, _, _, _, _, rfl⟩ := hs
    exact checkQuery_refuses h
  · rw [results_length]
    unfold Coll.candidates
    rw [List.length_append, List.length_map]
  · subst hp
    exact exec_vsrPoint hcalm ht hc (collFor_open hc hpart hdrop hclosed)
  · obtain rfl : n = s.batchLen c := hn
    obtain ⟨d, ⟨hd, hlen, hnode⟩, hdo⟩ := doPointingBatchDone_points hc hpts
    exact ⟨_, next_event_own ha hdo (hcalm.of_eq rfl rfl rfl rfl rfl rfl rfl rfl) rfl rfl, by rw [hd]; rfl, hlen, hnode⟩
  · exact next_event_own ha (doPointingBatchDone_still h) hcalm rfl rfl

end Sys2Proof.Machine
end

section
/-!
PROOFS. What the memory engines do (O10): the patrol of a sound granule, the entry into self-refresh, and the frame that has been zeroed.
-/

namespace Sys2Proof.Machine

open Sys2Proof

-- Accesses and self-refresh (R379, R397) --------------------------------------------------------------------------------------------------

/-- R397: an access to granules takes exactly their sub-channels out of self-refresh. -/
theorem wake_wakes (s : State) (a k : Nat) : ∃ l, s.wake a k = { s with selfRefresh := l } ∧
    ∀ c, c ∈ l ↔ c ∈ s.selfRefresh ∧ ∀ i, i < k → c ≠ subChannel (a + 256 * i) := by
  unfold State.wake
  split
  · next he =>
    have hnil : s.selfRefresh = [] := List.isEmpty_iff.1 he
    exact ⟨_, rfl, fun c => by simp [hnil]⟩
  · refine ⟨_, rfl, fun c => ?_⟩
    simp only [List.mem_filter, Bool.not_eq_true', List.contains_eq_mem, decide_eq_false_iff_not, List.mem_map, List.mem_range, not_exists,
      not_and, ne_eq, eq_comm (a := c)]

/-- R379, R397: an access to a tile frame wakes the sub-channels of its data and of the side frame beside them. -/
theorem wakeTile_wakes (s : State) (n : Nat) : ∃ l, s.wakeTile n = { s with selfRefresh := l } ∧
    ∀ c, c ∈ l ↔ c ∈ s.selfRefresh ∧ (∀ k, k < 64 → c ≠ subChannel (s.fld Fld.MEM_TILE_DATA_BASE_BASE_2M * 2 ^ 21 + n * 16384 + 256 * k)) ∧
      ∀ k, k < 8 → c ≠ subChannel (s.fld Fld.MEM_TILE_SIDE_BASE_BASE_2M * 2 ^ 21 + n * 2048 + 256 * k) := by
  obtain ⟨l, hdata, hl⟩ := wake_wakes s (s.fld Fld.MEM_TILE_DATA_BASE_BASE_2M * 2 ^ 21 + n * 16384) 64
  obtain ⟨m, hside, hm⟩ := wake_wakes { s with selfRefresh := l } (s.fld Fld.MEM_TILE_SIDE_BASE_BASE_2M * 2 ^ 21 + n * 2048) 8
  refine ⟨m, ?_, fun c => by rw [hm, hl, and_assoc]⟩
  unfold State.wakeTile
  rw [hdata, hside]

-- The patrol and the entry (R372, R395, R397) -----------------------------------------------------------------------------------------------

/-- R395: the patrol of a granule without an error or a poison bit is an access to it and nothing else. -/
theorem doLpddrPatrol_sound {s : State} {a : Nat} (hup : s.memoryUp = true) (ha : a < s.fld Fld.MEM_CAP_STRIPES * 49152)
    (hp : s.poisonedGranule (a / 256 * 256) = false) : doLpddrPatrol a 0 s =
      { s with patrol := a / 256 * 256, selfRefresh := s.selfRefresh.filter (fun x => x != subChannel (a / 256 * 256)) } := by
  have hin : ¬s.fld Fld.MEM_CAP_STRIPES * 49152 ≤ a / 256 * 256 := by have := Nat.div_mul_le_self a 256; omega
  have hpoison : ∀ (n : Nat) (l : List Nat),
      State.poisonedGranule { s with patrol := n, selfRefresh := l } (a / 256 * 256) = false := fun _ _ => hp
  unfold doLpddrPatrol
  simp [hup, hin, hpoison]

/-- R397: a sub-channel that is not in self-refresh enters it in mode 0 where the entry is not disabled. -/
theorem doSelfRefreshEntry_enters {s : State} {n : Nat} (hup : s.memoryUp = true) (hn : n < 192)
    (hmode : s.flag Fld.MEM_CFG_ARB_MODE = false) (hidle : s.fld Fld.MEM_CFG_SR_IDLE_US ≠ 0) (hout : n ∉ s.selfRefresh) :
    doSelfRefreshEntry n s = { s with selfRefresh := n :: s.selfRefresh } := by
  have hin : ¬192 ≤ n := by omega
  unfold doSelfRefreshEntry
  simp [hup, hin, hmode, hidle, hout]

-- Zeroing (R383, R394) ------------------------------------------------------------------------------------------------------------------------

theorem scrubbed_tile {s : State} {n : Nat} {f : Frame} (hf : s.tileFrames.get? n = some f) (hz : f.state = .zeroing) :
    s.scrubbed false n = State.wakeTile { s with tileFrames := s.tileFrames.erase n } n := by
  unfold State.scrubbed
  simp [hf, hz]

theorem scrubbed_mortar {s : State} {n : Nat} {f : Frame} (hf : s.mortarFrames.get? n = some f) (hz : f.state = .zeroing) :
    s.scrubbed true n = State.wakeMortar { s with mortarFrames := s.mortarFrames.erase n } n := by
  unfold State.scrubbed
  simp [hf, hz]

/-- R383: where no command and no request waits for frames, the scrub engine zeroes any frame. -/
theorem zeroesNow_idle {s : State} (h : s.Idle) (p : Nat) : s.zeroesNow p = true := by
  have hw : s.frameWaiters = [] := by unfold State.frameWaiters; rw [h.alloc, h.reqs]; rfl
  unfold State.zeroesNow
  rw [hw]
  rfl

/-- R394: where nothing waits for frames, a frame that has been zeroed becomes FREE and nothing follows. -/
theorem doScrubZeroed_idle {s t : State} {mortar : Bool} {n : Nat} {f : Frame} (h : s.Idle) (hup : s.memoryUp = true)
    (hf : (if mortar then s.mortarFrames.get? n else s.tileFrames.get? n) = some f) (hz : f.state = .zeroing)
    (ht : s.scrubbed mortar n = t) (halloc : t.allocWait = s.allocWait) (hreqs : t.reqs = s.reqs) : doScrubZeroed mortar n s = t := by
  have hrun : ¬(!s.memoryUp) = true := by simp [hup]
  have hzero : ¬(f.state ≠ .zeroing ∨ ¬s.zeroesNow f.owner) := by simp [hz, zeroesNow_idle h]
  unfold doScrubZeroed State.resumeFrames
  rw [if_neg hrun, hf]
  dsimp only
  rw [if_neg hzero, ht, halloc, h.alloc]
  dsimp only [List.filter_nil, List.foldl_nil]
  rw [hreqs, h.reqs]
  rfl

theorem exec_scrubZeroed_tile {s : State} {n : Nat} {f : Frame} (h : s.Idle) (hr : s.boot.phase = .ready) (hz : s.err.frozen = false)
    (hf : s.tileFrames.get? n = some f) (hs : f.state = .zeroing) :
    ∃ l, exec (.scrubZeroed false n) s = .next { s with tileFrames := s.tileFrames.erase n, selfRefresh := l } ∧
      ∀ c, c ∈ l ↔ c ∈ s.selfRefresh ∧ (∀ k, k < 64 → c ≠ subChannel (s.fld Fld.MEM_TILE_DATA_BASE_BASE_2M * 2 ^ 21 + n * 16384 + 256 * k)) ∧
        ∀ k, k < 8 → c ≠ subChannel (s.fld Fld.MEM_TILE_SIDE_BASE_BASE_2M * 2 ^ 21 + n * 2048 + 256 * k) := by
  obtain ⟨l, hwake, hl⟩ := wakeTile_wakes { s with tileFrames := s.tileFrames.erase n } n
  have hdo := doScrubZeroed_idle (mortar := false) h (memoryUp_ready hr hz) hf hs ((scrubbed_tile hf hs).trans hwake) rfl rfl
  exact ⟨l, next_event_own (awake_ready hr hz) hdo (h.toCalm.of_eq rfl rfl rfl rfl rfl rfl rfl rfl) rfl rfl, hl⟩

theorem exec_scrubZeroed_mortar {s : State} {n : Nat} {f : Frame} (h : s.Idle) (hr : s.boot.phase = .ready) (hz : s.err.frozen = false)
    (hf : s.mortarFrames.get? n = some f) (hs : f.state = .zeroing) :
    ∃ l, exec (.scrubZeroed true n) s = .next { s with mortarFrames := s.mortarFrames.erase n, selfRefresh := l } ∧
      ∀ c, c ∈ l ↔ c ∈ s.selfRefresh ∧ ∀ k, k < 16 → c ≠ subChannel (s.fld Fld.MEM_MORTAR_BASE_BASE_2M * 2 ^ 21 + n * 4096 + 256 * k) := by
  obtain ⟨l, hwake, hl⟩ := wake_wakes { s with mortarFrames := s.mortarFrames.erase n } (s.fld Fld.MEM_MORTAR_BASE_BASE_2M * 2 ^ 21 + n * 4096) 16
  have hdo := doScrubZeroed_idle (mortar := true) h (memoryUp_ready hr hz) hf hs ((scrubbed_mortar hf hs).trans hwake) rfl rfl
  exact ⟨l, next_event_own (awake_ready hr hz) hdo (h.toCalm.of_eq rfl rfl rfl rfl rfl rfl rfl rfl) rfl rfl, hl⟩

/-- Settles O10: the patrol, the entry and the scrub engine of an idle device each have their own effect and no other. -/
theorem memoryEngines : Obligations.MemoryEngines := by
  intro s h hr hz
  have hup := memoryUp_ready hr hz
  have ha := awake_ready hr hz
  refine ⟨fun a hin hp => ?_, fun n hn hmode hidle hout => ?_, fun n f hf hs => exec_scrubZeroed_tile h hr hz hf hs,
    fun n f hf hs => exec_scrubZeroed_mortar h hr hz hf hs⟩
  · exact next_event_own ha (doLpddrPatrol_sound hup hin hp) (h.toCalm.of_eq rfl rfl rfl rfl rfl rfl rfl rfl) rfl rfl
  · exact next_event_own ha (doSelfRefreshEntry_enters hup hn hmode hidle hout) (h.toCalm.of_eq rfl rfl rfl rfl rfl rfl rfl rfl) rfl rfl

end Sys2Proof.Machine
end

section
/-!
PROOFS. Who writes the flash (O59, O60), and that a step runs the command at the front of the queue (O1).
-/

namespace Sys2Proof.Machine

open Sys2Proof

/-- Settles O1: the queue's front is what a step takes. -/
theorem stepRunsFront : Obligations.StepRunsFront := fun _ _ => rfl

-- Two memories, one after the other ---------------------------------------------------------------------------------------------------

theorem Memory.wfFrom_raise {d : Byte} {m : Memory} {lo k : Nat} (h : Memory.wfFrom d lo m = true) (hk : ∀ c ∈ m, k ≤ c.1) :
    Memory.wfFrom d k m = true := by
  cases m with
  | nil => rfl
  | cons c r =>
    simp only [Memory.wfFrom, Bool.and_eq_true, decide_eq_true_eq] at h ⊢
    exact ⟨⟨hk c (List.mem_cons_self ..), h.1.2⟩, h.2⟩

theorem Memory.wfFrom_append {d : Byte} {n : Memory} {k : Nat} (hn : Memory.wfFrom d k n = true) : ∀ (m : Memory) (lo : Nat), lo ≤ k →
    Memory.wfFrom d lo m = true → (∀ c ∈ m, c.1 < k) → Memory.wfFrom d lo (m ++ n) = true
  | [], _, hl, _, _ => Memory.wfFrom_mono hn hl
  | c :: r, lo, _, h, hm => by
    simp only [Memory.wfFrom, Bool.and_eq_true, decide_eq_true_eq, List.cons_append] at h ⊢
    exact ⟨h.1, Memory.wfFrom_append hn r (c.1 + 1) (hm c (List.mem_cons_self ..)) h.2 (fun x hx => hm x (List.mem_cons_of_mem _ hx))⟩

/-- A byte below the second memory is one of the first; any other is one of the second. -/
theorem Memory.read_append {d : Byte} {n : Memory} {k : Nat} (a : Nat) (hn : Memory.wfFrom d k n = true) : ∀ (m : Memory) (lo : Nat),
    Memory.wfFrom d lo m = true → (∀ c ∈ m, c.1 < k) → Memory.read d (m ++ n) a = if a < k then Memory.read d m a else Memory.read d n a
  | [], _, _, _ => by
    split
    · next h => exact Memory.read_below hn h
    · rfl
  | c :: r, lo, h, hm => by
    simp only [Memory.wfFrom, Bool.and_eq_true, decide_eq_true_eq] at h
    have hc := hm c (List.mem_cons_self ..)
    have ih := Memory.read_append a hn r (c.1 + 1) h.2 (fun x hx => hm x (List.mem_cons_of_mem _ hx))
    rw [List.cons_append, Memory.read, Memory.read, ih]
    split_ifs <;> first | rfl | omega

theorem Memory.wfFrom_shift {d : Byte} (n : Nat) : ∀ (m : Memory) (lo : Nat), Memory.wfFrom d lo m = true → (∀ c ∈ m, n ≤ c.1) →
    Memory.wfFrom d (lo - n) (m.map (fun c => (c.1 - n, c.2))) = true
  | [], _, _, _ => rfl
  | c :: r, lo, h, hm => by
    simp only [Memory.wfFrom, Bool.and_eq_true, decide_eq_true_eq, List.map_cons] at h ⊢
    have hc := hm c (List.mem_cons_self ..)
    have ih := Memory.wfFrom_shift n r (c.1 + 1) h.2 (fun x hx => hm x (List.mem_cons_of_mem _ hx))
    exact ⟨⟨by omega, h.1.2⟩, by rwa [Nat.sub_add_comm hc] at ih⟩

theorem Memory.mem_write {d : Byte} {b : Byte} {a : Nat} {c : Host.Cell} : ∀ {m : Memory}, c ∈ Memory.write d m a b → c ∈ m ∨ c.1 = a
  | [], h => by
    rw [Memory.write] at h
    split at h
    · exact .inl h
    · rw [List.mem_singleton.1 h]; exact .inr rfl
  | x :: r, h => by
    have hcons : c ∈ (a, b) :: r ∨ c ∈ (a, b) :: x :: r → c ∈ x :: r ∨ c.1 = a := by
      simp only [List.mem_cons]
      rintro ((rfl | h) | (rfl | h | h)) <;> simp_all
    rw [Memory.write] at h
    split at h
    · split at h
      · exact .inl (List.mem_cons_of_mem _ h)
      · exact hcons (.inl h)
    · split at h
      · split at h
        · exact .inl h
        · exact hcons (.inr h)
      · rcases List.mem_cons.1 h with rfl | h
        · exact .inl (List.mem_cons_self ..)
        · exact (Memory.mem_write h).imp (List.mem_cons_of_mem _) id

/-- What writes list lay there before, or lies among the addresses written. -/
theorem Memory.mem_writes {d : Byte} {c : Host.Cell} : ∀ {bs : List Byte} {m : Memory} {a : Nat}, c ∈ Memory.writes d m a bs →
    c ∈ m ∨ a ≤ c.1 ∧ c.1 < a + bs.length
  | [], _, _, h => .inl h
  | b :: r, m, a, h => by
    rcases Memory.mem_writes (bs := r) h with h | ⟨h1, h2⟩
    · rcases Memory.mem_write h with h | h
      · exact .inl h
      · exact .inr (by simp only [List.length_cons]; omega)
    · exact .inr (by simp only [List.length_cons]; omega)

-- What a command may do to the flash ----------------------------------------------------------------------------------------------------

/-- The flash `g` is `f` but for bytes of an area `A`: it is `f` where the area is empty, it keeps the canonical form, and what it lists beyond
`f` lies in the area. -/
structure FlashIn (A : Nat → Prop) (f g : Memory) : Prop where
  same : (∀ a, ¬A a) → g = f
  wf   : Memory.wf 0xFF f = true → Memory.wf 0xFF g = true
  read : Memory.wf 0xFF f = true → ∀ a, ¬A a → Memory.read 0xFF g a = Memory.read 0xFF f a
  mem  : ∀ c ∈ g, c ∈ f ∨ A c.1

theorem FlashIn.refl (A : Nat → Prop) (f : Memory) : FlashIn A f f := ⟨fun _ => rfl, id, fun _ _ _ => rfl, fun _ => .inl⟩

theorem FlashIn.of_eq {A : Nat → Prop} {f g : Memory} (h : g = f) : FlashIn A f g := h ▸ .refl A f

theorem FlashIn.mono {A B : Nat → Prop} {f g : Memory} (h : FlashIn A f g) (hab : ∀ a, A a → B a) : FlashIn B f g :=
  ⟨fun k => h.same (fun a x => k a (hab a x)), h.wf, fun hw a k => h.read hw a (fun x => k (hab a x)), fun c k => (h.mem c k).imp id (hab _)⟩

theorem FlashIn.trans {A : Nat → Prop} {f g e : Memory} (h : FlashIn A f g) (k : FlashIn A g e) : FlashIn A f e :=
  ⟨fun x => (k.same x).trans (h.same x), fun x => k.wf (h.wf x), fun x a y => (k.read (h.wf x) a y).trans (h.read x a y),
    fun c hc => (k.mem c hc).elim (h.mem c) .inr⟩

/-- Writes change bytes of an area that holds their addresses. -/
theorem flashIn_writes {A : Nat → Prop} (f : Memory) (a : Nat) (bs : List Byte) (h : ∀ x, a ≤ x → x < a + bs.length → A x)
    (hne : bs ≠ []) : FlashIn A f (Memory.writes 0xFF f a bs) where
  same k := absurd (h a (Nat.le_refl a) (Nat.lt_add_of_pos_right (List.length_pos_iff.2 hne))) (k a)
  wf := Memory.wf_writes a bs
  read hw x hx := Memory.read_writes_outside a x bs hw (by
    rcases Nat.lt_or_ge x a with hl | hl
    · exact .inl hl
    · exact .inr (Nat.le_of_not_lt fun hr => hx (h x hl hr)))
  mem c hc := (Memory.mem_writes hc).imp id (fun k => h c.1 k.1 k.2)

theorem flashIn_flashWrite {A : Nat → Prop} (s : State) (a : Nat) (bs : List Byte) (h : ∀ x, a ≤ x → x < a + bs.length → A x) :
    FlashIn A s.flash (s.flashWrite a bs).flash := by
  unfold State.flashWrite
  split
  · exact .refl A s.flash
  · next he => exact flashIn_writes s.flash a bs h (by simpa using he)

/-- The green slot (R698). -/
def greenArea (a : Nat) : Prop := greenBase ≤ a ∧ a < greenBase + slotBytes

theorem flashIn_eraseGreen (s : State) : FlashIn greenArea s.flash s.eraseGreen.flash where
  same k := absurd (show greenArea greenBase from ⟨Nat.le_refl _, by decide⟩) (k greenBase)
  wf := Memory.wf_filter _
  read hw a ha := by
    have h := Memory.read_filter (fun x => !(decide (greenBase ≤ x) && decide (x < copyBase))) a s.flash 0 hw
    have hcb : greenBase + slotBytes = copyBase := by decide
    rw [greenArea, hcb] at ha
    have hout : (!(decide (greenBase ≤ a) && decide (a < copyBase))) = true := by
      rw [← Bool.decide_and, ← decide_not, decide_eq_true ha]
    rwa [if_pos hout] at h
  mem c hc := .inl (List.mem_filter.1 hc).1

theorem flashIn_stageFirmware {s t : State} {off : Nat} {data : List Byte} (h : s.stageFirmware off data = some t) :
    FlashIn greenArea s.flash t.flash := by
  unfold State.stageFirmware at h
  split at h
  · cases h
  · next hr =>
    cases h
    have hin : ∀ x, greenBase + off ≤ x → x < greenBase + off + data.length → greenArea x := by
      unfold greenArea; intro x _ _; omega
    refine FlashIn.trans ?_ (flashIn_flashWrite _ _ data hin)
    split
    · exact flashIn_eraseGreen s
    · exact .refl _ _

/-- The fired slot and the green slot (R698). -/
def slotArea (a : Nat) : Prop := firedBase ≤ a ∧ a < greenBase + slotBytes

/-- Copying the green slot to the fired one and erasing it leaves every byte outside the two slots as it was (R721). -/
theorem flashIn_copyGreen (s : State) : FlashIn slotArea s.flash s.copyGreen.flash := by
  have hb : ∀ c ∈ s.flash.filter (fun c => decide (c.1 < firedBase)), c.1 < firedBase := fun c hc => by simpa using (List.mem_filter.1 hc).2
  have hg : ∀ c ∈ s.flash.filter (fun c => decide (greenBase ≤ c.1) && decide (c.1 < copyBase)), greenBase ≤ c.1 ∧ c.1 < copyBase :=
    fun c hc => by simpa using (List.mem_filter.1 hc).2
  have ha : ∀ c ∈ s.flash.filter (fun c => decide (copyBase ≤ c.1)), copyBase ≤ c.1 := fun c hc => by simpa using (List.mem_filter.1 hc).2
  have hs : ∀ c ∈ (s.flash.filter (fun c => decide (greenBase ≤ c.1) && decide (c.1 < copyBase))).map (fun c => (c.1 - slotBytes, c.2)),
      firedBase ≤ c.1 ∧ c.1 < copyBase := by
    intro c hc
    obtain ⟨x, hx, rfl⟩ := List.mem_map.1 hc
    have := hg x hx
    simp only [greenBase, copyBase, firedBase, slotBytes] at this ⊢
    omega
  have hbs : ∀ c ∈ s.flash.filter (fun c => decide (c.1 < firedBase)) ++
      (s.flash.filter (fun c => decide (greenBase ≤ c.1) && decide (c.1 < copyBase))).map (fun c => (c.1 - slotBytes, c.2)), c.1 < copyBase := by
    intro c hc
    rcases List.mem_append.1 hc with hc | hc
    · exact Nat.lt_trans (hb c hc) (by decide)
    · exact (hs c hc).2
  have hwf (h : Memory.wf 0xFF s.flash = true) := Memory.wf_filter (fun c => decide (c.1 < firedBase)) h
  have hwg (h : Memory.wf 0xFF s.flash = true) := Memory.wfFrom_raise
    (Memory.wfFrom_shift slotBytes _ _ (Memory.wf_filter (fun c => decide (greenBase ≤ c.1) && decide (c.1 < copyBase)) h)
      (fun c hc => Nat.le_trans (by decide) (hg c hc).1)) (fun c hc => (hs c hc).1)
  have hwa (h : Memory.wf 0xFF s.flash = true) := Memory.wfFrom_raise (Memory.wf_filter (fun c => decide (copyBase ≤ c.1)) h) ha
  have hwbg (h : Memory.wf 0xFF s.flash = true) := Memory.wfFrom_append (hwg h) _ 0 (Nat.zero_le _) (hwf h) hb
  refine ⟨fun k => absurd (show slotArea firedBase from ⟨Nat.le_refl _, by decide⟩) (k firedBase), fun h => ?_, fun h a hout => ?_, fun c hc => ?_⟩
  · exact Memory.wfFrom_append (hwa h) _ 0 (Nat.zero_le _) (hwbg h) hbs
  · refine (Memory.read_append a (hwa h) _ 0 (hwbg h) hbs).trans ?_
    have hcb : greenBase + slotBytes = copyBase := by decide
    by_cases hc : a < copyBase
    · have hf : a < firedBase := Nat.lt_of_not_le fun hle => hout ⟨hle, hcb ▸ hc⟩
      rw [if_pos hc, Memory.read_append a (hwg h) _ 0 (hwf h) hb, if_pos hf,
        Memory.read_filter (fun x => decide (x < firedBase)) a s.flash 0 h, if_pos (decide_eq_true hf)]
    · rw [if_neg hc, Memory.read_filter (fun x => decide (copyBase ≤ x)) a s.flash 0 h, if_pos (decide_eq_true (Nat.le_of_not_lt hc))]
  · rcases List.mem_append.1 hc with hc | hc
    · rcases List.mem_append.1 hc with hc | hc
      · exact .inl (List.mem_filter.1 hc).1
      · exact .inr (hs c hc)
    · exact .inl (List.mem_filter.1 hc).1

-- Host commands -----------------------------------------------------------------------------------------------------------------------

theorem flashIn_startHost (s : State) (u : Sub) (c : HostCmd) (h : c.writesFlash = true) : FlashIn c.flashArea s.flash (s.startHost u c).flash := by
  cases c with
  | fwStage off data =>
    show FlashIn greenArea s.flash (doFwStage u off data s).flash
    unfold doFwStage
    split
    · next t ht => rw [complete_flash]; exact flashIn_stageFirmware ht
    · exact .of_eq (complete_flash ..)
  | cfgWrite copyB off data =>
    show FlashIn _ s.flash (doCfgWrite u copyB off data s).flash
    unfold doCfgWrite
    split
    · exact .of_eq (complete_flash ..)
    · split
      · exact .of_eq (complete_flash ..)
      · next hr =>
        have hw := flashIn_flashWrite (A := (HostCmd.cfgWrite copyB off data).flashArea) s (copyBase + (if copyB then copyBytes else 0) + off) data
          (fun x h1 h2 => ⟨by omega, by omega⟩)
        dsimp only
        rw [complete_flash]
        split
        · exact hw
        · exact hw
  | _ => cases h

/-- From its checks on a host command changes no byte of flash but those of its own area. -/
theorem flashIn_begin (s : State) (u : Sub) (c : HostCmd) : FlashIn c.flashArea s.flash (s.begin u c).flash := by
  cases hw : c.writesFlash with
  | false => exact .of_eq (begin_flash s u c hw)
  | true =>
    unfold State.begin
    split
    · exact .refl _ _
    · rw [hw]; exact flashIn_startHost s u c hw

theorem takeBounce_flash (s : State) (u : Sub) (q slot : Nat) : (s.takeBounce u q slot).2.flash = s.flash := by
  unfold State.takeBounce
  split
  · rfl
  · dsimp only
    split <;> split_ifs <;> rfl

theorem FlashIn.from_eq {A : Nat → Prop} {e f g : Memory} (h : FlashIn A f g) (hf : f = e) : FlashIn A e g := hf ▸ h

theorem flashIn_fromQueue (s : State) (u : Sub) (c : HostCmd) (q : Nat) (x : Sq) : FlashIn c.flashArea s.flash (s.fromQueue u c q x).flash := by
  obtain ⟨m, l, hcount⟩ := count_fetch s u c
  unfold State.fromQueue
  dsimp only
  generalize s.countFetch u c = t at hcount ⊢
  have hf : t.flash = s.flash := by rw [hcount]
  split
  · exact .of_eq ((post_flash ..).trans hf)
  · generalize hb : (t.fetch u q (t.slotsOf u x) x (t.cmdPart u c)).takeBounce u q x.head = b
    have hbf : b.2.flash = s.flash := by rw [← hb]; exact (takeBounce_flash ..).trans hf
    split
    · exact .of_eq ((complete_flash ..).trans hbf)
    · split
      · exact .of_eq hbf
      · exact (flashIn_begin b.2 u c).from_eq hbf

theorem flashIn_arrive (s : State) (u : Sub) (c : HostCmd) (h : u.sq ≠ none) : FlashIn c.flashArea s.flash (s.arrive u c).flash := by
  unfold State.arrive
  split
  · contradiction
  · next q hq =>
    split
    · exact .refl _ _
    · next x hx =>
      split
      · exact flashIn_fromQueue s u c q x
      · exact .refl _ _

theorem flashIn_fromMailbox (s : State) (u : Sub) (c : Option HostCmd) :
    FlashIn (fun a => ∃ d, c = some d ∧ d.flashArea a) s.flash (s.fromMailbox u c).flash := by
  unfold State.fromMailbox
  split
  · exact .refl _ _
  · dsimp only
    split
    · exact .of_eq (complete_flash ..)
    · next d =>
      split
      · exact .of_eq (complete_flash ..)
      · split
        · exact .of_eq (complete_flash ..)
        · exact ((flashIn_begin _ u d).mono (fun a (ha : d.flashArea a) => ⟨d, rfl, ha⟩)).from_eq rfl

-- Start steps and the board -----------------------------------------------------------------------------------------------------------

theorem stepFails_flash (s : State) (n d : Nat) (b : Bool) : (s.stepFails n d b noAlt).flash = s.flash := by
  unfold State.stepFails noAlt
  dsimp only
  split_ifs <;> rfl

theorem flashIn_s02 (s : State) (green fired : FwSlot) : FlashIn slotArea s.flash (doS02FirmwareVerify green fired s).flash := by
  unfold doS02FirmwareVerify
  split
  · exact .refl _ _
  · dsimp only
    generalize hg : (if green.present = true then s.slotFails green else 0) = g
    split
    · exact (flashIn_copyGreen { s with boot := { s.boot with fired := fired, greenResult := g } }).from_eq rfl
    · split
      · exact .refl _ _
      · exact .of_eq (stepFails_flash ..)

theorem flashIn_begins (ws : List (Sub × HostCmd)) : ∀ s : State,
    FlashIn (fun a => ∃ w ∈ ws, w.2.flashArea a) s.flash (ws.foldl (fun (a : State) w => a.begin w.1 w.2) s).flash := by
  induction ws with
  | nil => exact fun s => .refl _ _
  | cons w ws ih =>
    intro s
    exact ((flashIn_begin s w.1 w.2).mono (fun a h => ⟨w, List.mem_cons_self .., h⟩)).trans
      ((ih _).mono (fun a ⟨x, hx, h⟩ => ⟨x, List.mem_cons_of_mem _ hx, h⟩))

theorem reachReady_flash (s : State) : s.reachReady.flash = s.flash := by
  have hset (t : State) : (if bitOf t.boot.straps 0 then t.setFld Fld.HIF_LINK_READY 1 1 else t).flash = t.flash := by
    split <;> rfl
  exact hset ((s.ledger 15 (if s.altOf 15 = 0 then 0 else 2) 0 (s.altOf 15) 0).setFld Fld.HIF_LINK_READY 1)

theorem flashIn_s15 (s : State) : FlashIn (flashArea s .s15Ready) s.flash (doS15Ready s).flash := by
  unfold doS15Ready
  split
  · exact .refl _ _
  · exact (flashIn_begins s.waitS15 { s with waitS15 := [] }.reachReady).from_eq (reachReady_flash _)

theorem flashIn_mctp (s : State) (r : MctpReq) : FlashIn (flashArea s (.mctpPldmRequest r)) s.flash (doMctpPldmRequest r s).flash := by
  cases r with
  | sensor n => unfold doMctpPldmRequest; dsimp only; split <;> exact .refl _ _
  | fwStage off data =>
    unfold doMctpPldmRequest
    dsimp only
    split
    · cases h : s.stageFirmware off data with
      | none => exact .refl _ _
      | some t => exact flashIn_stageFirmware h
    · exact .refl _ _
  | other => exact .refl _ _

theorem flashIn_mailboxGo (s : State) (u : Sub) (c : Option HostCmd) :
    FlashIn (flashArea s (.managementMailboxGo u c)) s.flash (doManagementMailboxGo u c s).flash := by
  unfold doManagementMailboxGo
  split
  · refine (flashIn_fromMailbox s u c).mono ?_
    rintro a ⟨d, rfl, ha⟩
    exact ha
  · exact .refl _ _

theorem flashIn_flashing {A : Nat → Prop} {s : State} {f : State → State} (h : FlashIn A s.flash (f s).flash) :
    FlashIn A s.flash (s.flashing f).flash ∧ (s.flashing f).pending = s.pending :=
  ⟨(flashing_keeps s f).1 ▸ h, (flashing_keeps s f).2⟩

/-- A host command that may write the flash arrives from a queue or from the mailbox. -/
theorem flashIn_host (s : State) (u : Sub) (c : HostCmd) : FlashIn c.flashArea s.flash (s.arrive u c).flash := by
  cases hq : u.sq with
  | some q => exact flashIn_arrive s u c (by rw [hq]; exact Option.some_ne_none q)
  | none =>
    unfold State.arrive
    rw [hq]
    refine (flashIn_fromMailbox s u (some c)).mono ?_
    rintro a ⟨d, hd, ha⟩
    exact Option.some.inj hd ▸ ha

/-- Every command answers a next state, leaves the queue alone and writes no flash but its own area (R698). -/
theorem exec_flashIn (i : Instr) (s : State) : ∃ t, exec i s = .next t ∧ FlashIn (flashArea s i) s.flash t.flash ∧ t.pending = s.pending := by
  have hostArea {u : Sub} {c : HostCmd} (hi : hostOf i = some (u, c)) (ha : ∀ a, (∃ u c, hostOf i = some (u, c) ∧ c.flashArea a) → flashArea s i a) :
      FlashIn (flashArea s i) s.flash (s.flashing (fun t => t.arrive u c)).flash ∧ (s.flashing (fun t => t.arrive u c)).pending = s.pending :=
    flashIn_flashing ((flashIn_host s u c).mono (fun a h => ha a ⟨u, c, hi, h⟩))
  rcases exec_shape i s with ⟨f, hf⟩ | ⟨f, hf⟩ | ⟨a, b, rfl⟩ | rfl | ⟨r, rfl⟩ | ⟨u, d, rfl⟩ | ⟨u, o, d, rfl⟩ | ⟨u, b, o, d, rfl⟩
  · exact ⟨_, hf, .of_eq (always_keeps s f).1, (always_keeps s f).2⟩
  · exact ⟨_, hf, .of_eq (event_keeps s f).1, (event_keeps s f).2⟩
  · exact ⟨_, rfl, flashIn_flashing (flashIn_s02 s a b)⟩
  · exact ⟨_, rfl, flashIn_flashing (flashIn_s15 s)⟩
  · exact ⟨_, rfl, flashIn_flashing (flashIn_mctp s r)⟩
  · exact ⟨_, rfl, flashIn_flashing (flashIn_mailboxGo s u d)⟩
  · exact ⟨_, rfl, hostArea rfl (fun _ h => h)⟩
  · exact ⟨_, rfl, hostArea rfl (fun _ h => h)⟩

/-- Settles O59: all but six kinds of command keep the flash (`exec_shape`), and each of the six stays within its area. -/
theorem flashWriters : Obligations.FlashWriters := by
  intro i s
  obtain ⟨t, he, hf, hp⟩ := exec_flashIn i s
  exact ⟨t, he, hp, hf.same, fun hok a ha => hf.read hok.wf a ha⟩

/-- The area of a host command ends with copy B of the configuration image (R698). -/
theorem hostArea_size {c : HostCmd} {a : Nat} (h : c.flashArea a) : a < 0x19000000 := by
  cases c with
  | fwStage off data =>
    obtain ⟨_, h2⟩ := h
    simp only [greenBase, slotBytes] at h2
    omega
  | cfgWrite copyB off data =>
    obtain ⟨_, h2⟩ := h
    have hb : copyBase + copyBytes + copyBytes ≤ 0x19000000 := by decide
    cases copyB
    · exact Nat.lt_of_lt_of_le h2 (Nat.le_trans (Nat.le_add_right _ copyBytes) hb)
    · exact Nat.lt_of_lt_of_le h2 hb
  | _ => exact h.elim

theorem flashArea_size {s : State} {i : Instr} {a : Nat} (h : flashArea s i a) : a < 0x19000000 := by
  have hslot : greenBase + slotBytes < 0x19000000 := by decide
  unfold flashArea at h
  split at h
  · exact Nat.lt_trans h.2 hslot
  · obtain ⟨w, _, h⟩ := h; exact hostArea_size h
  · exact Nat.lt_trans h.2 hslot
  · exact hostArea_size h
  · obtain ⟨_, _, _, h⟩ := h; exact hostArea_size h

theorem FlashIn.ok {s : State} {A : Nat → Prop} {t : State} (h : FlashIn A s.flash t.flash) (hA : ∀ a, A a → a < 0x19000000) (hs : s.FlashOk) :
    t.FlashOk :=
  ⟨h.wf hs.wf, fun c hc => (h.mem c hc).elim (hs.size c) (hA c.1)⟩

/-- Settles O60: what a command writes lies in its area, and every area lies below 0x1900_0000. -/
theorem flashInvariant : Obligations.FlashInvariant := by
  intro s t hok hstep
  unfold step at hstep
  split at hstep
  · cases hstep; exact hok
  · next i rest _ =>
    obtain ⟨t', he, hf, _⟩ := exec_flashIn i { s with pending := rest }
    obtain rfl : t' = t := Host.Outcome.next.inj (he.symm.trans hstep)
    exact hf.ok (fun a => flashArea_size) ⟨hok.wf, hok.size⟩

end Sys2Proof.Machine
end

section
/-!
PROOFS. Doorbells, the enabling of queues and the DOE mailbox (O11, O12, O15).
-/

namespace Sys2Proof.Machine

open Sys2Proof

-- What posting completions leaves of a queue's tail and head ---------------------------------------------------------------------------

/-- Every submission queue of `s` stands in `t` with its tail, and every completion queue with its head. -/
structure State.Rings (s t : State) : Prop where
  tail : ∀ k x, s.sqs.get? k = some x → ∃ y, t.sqs.get? k = some y ∧ y.tail = x.tail
  head : ∀ k x, s.cqs.get? k = some x → ∃ y, t.cqs.get? k = some y ∧ y.head = x.head

theorem State.Rings.of_eq {s t : State} (h1 : t.sqs = s.sqs) (h2 : t.cqs = s.cqs) : s.Rings t :=
  ⟨fun _ x h => ⟨x, h1 ▸ h, rfl⟩, fun _ x h => ⟨x, h2 ▸ h, rfl⟩⟩

theorem State.Rings.refl (s : State) : s.Rings s := .of_eq rfl rfl

theorem State.Rings.trans {s t u : State} (h : s.Rings t) (g : t.Rings u) : s.Rings u where
  tail k x hx := by
    obtain ⟨y, hy, hxy⟩ := h.tail k x hx
    obtain ⟨z, hz, hyz⟩ := g.tail k y hy
    exact ⟨z, hz, hyz.trans hxy⟩
  head k x hx := by
    obtain ⟨y, hy, hxy⟩ := h.head k x hx
    obtain ⟨z, hz, hyz⟩ := g.head k y hy
    exact ⟨z, hz, hyz.trans hxy⟩

theorem rings_setSq {s : State} {f : Fn} {q : Nat} {x : Sq} (y : Sq) (hx : s.sq f q = some x) (h : y.tail = x.tail) : s.Rings (s.setSq f q y) where
  tail k z hz := by
    by_cases e : k = (f.index, q)
    · subst e
      obtain rfl : x = z := Option.some.inj (hx.symm.trans hz)
      exact ⟨y, AMap.get?_set_same .., h⟩
    · exact ⟨z, (AMap.get?_set_other _ _ e).trans hz, rfl⟩
  head _ z hz := ⟨z, hz, rfl⟩

theorem rings_setCq {s : State} {f : Fn} {q : Nat} {x : Cq} (y : Cq) (hx : s.cq f q = some x) (h : y.head = x.head) : s.Rings (s.setCq f q y) where
  tail _ z hz := ⟨z, hz, rfl⟩
  head k z hz := by
    by_cases e : k = (f.index, q)
    · subst e
      obtain rfl : x = z := Option.some.inj (hx.symm.trans hz)
      exact ⟨y, AMap.get?_set_same .., h⟩
    · exact ⟨z, (AMap.get?_set_other _ _ e).trans hz, rfl⟩

theorem rings_cqEvent (s : State) (f : Fn) (q : Nat) : s.Rings (s.cqEvent f q) := by
  unfold State.cqEvent
  split
  · exact .refl s
  · next c hc =>
    split
    · exact .of_eq rfl rfl
    · exact rings_setCq _ hc rfl

/-- An entry is put into a completion queue: its head stays. -/
theorem rings_putCqe {s t : State} {f : Fn} {q : Nat} {x : Cq} (h : s.Rings t) (hcq : t.cqs = s.cqs) (hx : s.cq f q = some x) (o : Out) (y : Cq)
    (hy : y.head = x.head) : s.Rings ((((t.put o).sealed f).setCq f q y).cqEvent f q) := by
  obtain ⟨b, hb⟩ := sealed_frame (t.put o) f
  have hput : t.Rings { t.put o with bounce := b } := .of_eq rfl rfl
  have hx' : State.cq { t.put o with bounce := b } f q = some x := (congrArg (fun m => AMap.get? m (f.index, q)) hcq).trans hx
  rw [hb]
  exact h.trans (hput.trans ((rings_setCq y hx' hy).trans (rings_cqEvent ..)))

theorem rings_writeCqe (s : State) (q : Nat) (c : Completion) : s.Rings (s.writeCqe q c) := by
  unfold State.writeCqe
  split
  · next n x hn hx =>
    refine rings_putCqe ?_ ?_ hx _ _ rfl
    · split
      · next y hy =>
        split
        · exact .refl s
        · exact rings_setSq _ hy rfl
      · exact .refl s
    · split
      · split <;> rfl
      · rfl
  · exact .refl s

theorem rings_post (s : State) (c : Completion) : s.Rings (s.post c) := by
  have harr : ∃ t, (if c.notice || c.dup then s else { s with arrived := dropOwner ⟨c.fn, c.sq, c.tag⟩ s.arrived }) = t ∧
      t.sqs = s.sqs ∧ t.cqs = s.cqs := by
    refine ⟨_, rfl, ?_⟩
    split <;> exact ⟨rfl, rfl⟩
  obtain ⟨t, ht, h1, h2⟩ := harr
  unfold State.post
  rw [ht]
  refine (State.Rings.of_eq h1 h2).trans ?_
  dsimp only
  split
  · exact .of_eq rfl rfl
  · next n _ =>
    split
    · exact .refl t
    · next y hy =>
      split
      · exact .refl t
      · next x hx =>
        split
        · split
          · exact .refl t
          · exact rings_setSq _ hy rfl
        · split
          · exact rings_writeCqe ..
          · exact rings_setCq _ hx rfl

/-- A fetch moves a submission queue's head alone. -/
theorem rings_take {s t : State} {f : Fn} {q tag n : Nat} {x : Sq} {p : Option Nat} (hx : s.sq f q = some x) (hc : t.cqs = s.cqs)
    (ht : t.sqs = s.sqs.set (f.index, q) (x.take tag n p)) : s.Rings t :=
  (rings_setSq (x.take tag n p) hx rfl).trans (.of_eq ht hc)

theorem rings_refuseUnknown (s : State) (f : Fn) (q tag : Nat) : s.Rings (s.refuseUnknown f q tag) := by
  unfold State.refuseUnknown
  split
  · exact .refl s
  · next x hx =>
    split
    · exact .refl s
    · obtain ⟨m, l, hc⟩ := count_frame s ⟨0x60, 1, 2, none, some (4, f.ctrl * 128 + f.vf), .bg, none⟩
      dsimp only
      refine State.Rings.trans ?_ (rings_post _ _)
      rw [hc]
      split
      · exact rings_take hx rfl rfl
      · exact rings_take hx rfl rfl

theorem io_refuseUnknown (s : State) (f : Fn) (q tag : Nat) : s.Io (s.refuseUnknown f q tag) := by
  unfold State.refuseUnknown
  split
  · exact .refl s
  · split
    · exact .refl s
    · dsimp only
      refine (io_count s ⟨0x60, 1, 2, none, some (4, f.ctrl * 128 + f.vf), .bg, none⟩).trans (State.Io.trans ?_ (io_post _ _ (Option.some_ne_none q)))
      split
      · exact io_setSq ..
      · exact ⟨[], _, _, _, _, _, rfl⟩

theorem refuseUnknowns_keep (f : Fn) (q : Nat) (l : List Nat) (s : State) :
    s.Rings (l.foldl (fun (a : State) n => a.refuseUnknown f q n) s) ∧ s.Io (l.foldl (fun (a : State) n => a.refuseUnknown f q n) s) :=
  ⟨foldl_keeps State.Rings .refl (fun _ _ _ => .trans) _ (fun s n => rings_refuseUnknown s f q n) l s,
    foldl_keeps State.Io .refl (fun _ _ _ => .trans) _ (fun s n => io_refuseUnknown s f q n) l s⟩

theorem drainCq_keeps (f : Fn) (q : Nat) (ws : List Completion) : ∀ s : State, s.Rings (s.drainCq f q ws).1 ∧ s.Io (s.drainCq f q ws).1 := by
  induction ws with
  | nil => exact fun s => ⟨.refl s, .refl s⟩
  | cons c r ih =>
    intro s
    unfold State.drainCq
    split
    · exact ⟨.refl s, .refl s⟩
    · next x hx =>
      split
      · dsimp only
        exact ⟨(rings_setCq { x with waiting := x.waiting.drop 1 } hx rfl).trans ((rings_writeCqe _ q c).trans (ih _).1),
          (io_setCq s f q { x with waiting := x.waiting.drop 1 }).trans ((io_writeCqe _ q c).trans (ih _).2)⟩
      · exact ⟨.refl s, .refl s⟩

-- Doorbells (R674) ------------------------------------------------------------------------------------------------------------------------

section Doorbell

variable {s : State} {f : Fn} {q v : Nat} (hup : s.doeUp f = true) (hq : q < 64)
include hup hq

/-- A tail that the queue accepts is its tail; entries without a known OPCODE are refused then. -/
theorem doSqTail_accepts {x : Sq} (hx : s.sq f q = some x) (hon : x.on = true) (hv : v % 65536 < x.size)
    (hle : (x.tail + x.size - s.sqHead f q) % x.size ≤ (v % 65536 + x.size - s.sqHead f q) % x.size) (l : List Nat) :
    doSqTailDoorbell f q v l s = if (s.setSq f q { x with tail := v % 65536 }).fetches f
      then l.foldl (fun (a : State) n => a.refuseUnknown f q n) (s.setSq f q { x with tail := v % 65536 })
      else s.setSq f q { x with tail := v % 65536 } := by
  unfold doSqTailDoorbell
  simp [hup, hx, hon, Nat.not_le.2 hq, Nat.not_le.2 hv, Nat.not_lt.2 hle]

theorem doSqTail_drops (l : List Nat) (h : ∀ x : Sq, s.sq f q = some x → x.on = false ∨ x.size ≤ v % 65536 ∨
    (v % 65536 + x.size - s.sqHead f q) % x.size < (x.tail + x.size - s.sqHead f q) % x.size) :
    doSqTailDoorbell f q v l s = s.hifErr f Fld.HIF_ERR_DB_ERR q := by
  unfold doSqTailDoorbell
  simp only [hup, Nat.not_le.2 hq, decide_false, Bool.not_true, Bool.or_false, Bool.false_eq_true, if_false]
  split
  · rfl
  · next x hx => rw [if_pos (by simpa [or_assoc] using h x hx)]

theorem doCqHead_accepts {x : Cq} (hx : s.cq f q = some x) (hon : x.on = true) (hv : v % 65536 < x.size)
    (hle : (v % 65536 + x.size - x.head) % x.size ≤ x.held) : doCqHeadDoorbell f q v s =
      ((s.setCq f q { x with head := v % 65536, held := x.held - (v % 65536 + x.size - x.head) % x.size }).drainCq f q x.waiting).1 := by
  unfold doCqHeadDoorbell
  simp [hup, hx, hon, Nat.not_le.2 hq, Nat.not_le.2 hv, Nat.not_lt.2 hle]

theorem doCqHead_drops (h : ∀ x : Cq, s.cq f q = some x → x.on = false ∨ x.size ≤ v % 65536 ∨
    x.held < (v % 65536 + x.size - x.head) % x.size) : doCqHeadDoorbell f q v s = s.hifErr f Fld.HIF_ERR_DB_ERR q := by
  unfold doCqHeadDoorbell
  simp only [hup, Nat.not_le.2 hq, decide_false, Bool.not_true, Bool.or_false, Bool.false_eq_true, if_false]
  split
  · rfl
  · next x hx => rw [if_pos (by simpa [or_assoc] using h x hx)]

end Doorbell

/-- Settles O11: by the queue that the doorbell names, and by whether it accepts the value. -/
theorem doorbells : Obligations.Doorbells := by
  intro s f q v w hc hup hq hw
  subst hw
  have herr := hifErr_spec s f Fld.HIF_ERR_DB_ERR q (.inl rfl) hq
  have hcalm (t : State) (h : s.Io t) : t.Calm := hc.io h
  refine ⟨fun x hx hon hlt hle => ?_, fun x l hx hon hlt hle => ?_, fun l h => ?_, fun x hx hon hlt hle hw => ?_, fun x hx hon hlt hle => ?_, fun h => ?_⟩
  · refine next_always ((doSqTail_accepts hup hq hx hon hlt hle []).trans (ite_self _)) (hcalm _ (io_setSq ..))
  · have hdo := doSqTail_accepts hup hq hx hon hlt hle l
    obtain ⟨t, ht, htail, hio⟩ : ∃ t, doSqTailDoorbell f q v l s = t ∧ (∃ y, t.sq f q = some y ∧ y.tail = v % 65536) ∧ s.Io t := by
      refine ⟨_, hdo, ?_⟩
      obtain ⟨hr, hi⟩ := refuseUnknowns_keep f q l (s.setSq f q { x with tail := v % 65536 })
      have hset : (s.setSq f q { x with tail := v % 65536 }).sqs.get? (f.index, q) = some { x with tail := v % 65536 } := AMap.get?_set_same ..
      split
      · exact ⟨hr.tail _ _ hset, (io_setSq ..).trans hi⟩
      · exact ⟨⟨_, hset, rfl⟩, io_setSq ..⟩
    obtain ⟨y, hy, hv⟩ := htail
    exact ⟨_, y, next_always ht (hcalm t hio), hy, hv⟩
  · exact ⟨_, next_always (doSqTail_drops hup hq l h) (hc.of_eq rfl rfl rfl rfl rfl rfl rfl rfl), herr.1, herr.2.1, rfl⟩
  · exact next_always ((doCqHead_accepts hup hq hx hon hlt hle).trans (by rw [hw]; rfl)) (hcalm _ (io_setCq ..))
  · obtain ⟨hr, hi⟩ := drainCq_keeps f q x.waiting (s.setCq f q { x with head := v % 65536, held := x.held - (v % 65536 + x.size - x.head) % x.size })
    obtain ⟨y, hy, hh⟩ := hr.head (f.index, q) _ (AMap.get?_set_same ..)
    exact ⟨_, y, next_always (doCqHead_accepts hup hq hx hon hlt hle) (hcalm _ ((io_setCq ..).trans hi)), hy, hh⟩
  · exact ⟨_, next_always (doCqHead_drops hup hq h) (hc.of_eq rfl rfl rfl rfl rfl rfl rfl rfl), herr.1, herr.2.1, rfl⟩

-- Enabling queues (R675, R676, R687, R696) ----------------------------------------------------------------------------------------------------

/-- The bits of a queue's configuration register: all that a write of it takes into force are RW. -/
theorem bitOf_written_rw {c : RegClass} (old v n : Nat) (hrw : (c.writable .rw).testBit n = true) (hw : (c.writable .w1c).testBit n = false)
    (hn : n < 32) : bitOf (c.written old v (2 ^ 32 - 1)) n = bitOf v n := by
  rw [bitOf_written, hrw, hw, Nat.testBit_two_pow_sub_one, decide_eq_true hn]
  simp

theorem bitsOf_written_rw {c : RegClass} (old v hi lo : Nat) (h : ∀ n, n ≤ hi → lo ≤ n → (c.writable .rw).testBit n = true ∧
    (c.writable .w1c).testBit n = false) (hh : hi < 32) : bitsOf (c.written old v (2 ^ 32 - 1)) hi lo = bitsOf v hi lo :=
  bitsOf_congr fun n hl hn => bitOf_written_rw old v n (h n hn hl).1 (h n hn hl).2 (Nat.lt_of_le_of_lt hn hh)

/-- The fields of HIF_SQ_CFG after a write. -/
theorem sqCfg_written (old v : Nat) : bitOf (RegClass.hifSqCfg.written old v (2 ^ 32 - 1)) 31 = bitOf v 31 ∧
    bitOf (RegClass.hifSqCfg.written old v (2 ^ 32 - 1)) 30 = bitOf v 30 ∧
    bitsOf (RegClass.hifSqCfg.written old v (2 ^ 32 - 1)) 21 16 = bitsOf v 21 16 ∧
    bitsOf (RegClass.hifSqCfg.written old v (2 ^ 32 - 1)) 15 0 = bitsOf v 15 0 :=
  ⟨bitOf_written_rw _ _ _ (by decide) (by decide) (by decide), bitOf_written_rw _ _ _ (by decide) (by decide) (by decide),
    bitsOf_written_rw _ _ _ _ (by decide) (by decide), bitsOf_written_rw _ _ _ _ (by decide) (by decide)⟩

/-- The fields of HIF_CQ_CFG after a write. -/
theorem cqCfg_written (old v : Nat) : bitOf (RegClass.hifCqCfg.written old v (2 ^ 32 - 1)) 31 = bitOf v 31 ∧
    bitOf (RegClass.hifCqCfg.written old v (2 ^ 32 - 1)) 30 = bitOf v 30 ∧
    bitsOf (RegClass.hifCqCfg.written old v (2 ^ 32 - 1)) 29 24 = bitsOf v 29 24 ∧
    bitsOf (RegClass.hifCqCfg.written old v (2 ^ 32 - 1)) 23 16 = bitsOf v 23 16 ∧
    bitsOf (RegClass.hifCqCfg.written old v (2 ^ 32 - 1)) 15 0 = bitsOf v 15 0 :=
  ⟨bitOf_written_rw _ _ _ (by decide) (by decide) (by decide), bitOf_written_rw _ _ _ (by decide) (by decide) (by decide),
    bitsOf_written_rw _ _ _ _ (by decide) (by decide), bitsOf_written_rw _ _ _ _ (by decide) (by decide),
    bitsOf_written_rw _ _ _ _ (by decide) (by decide)⟩

section Configure

variable {s : State} {f : Fn} {q v : Nat}

theorem writeSqCfg_on (hv : bitOf v 31 = true) (hoff : s.sqOn f q = false) (hon : s.cqOn f (bitsOf v 21 16) = true) :
    ∃ w tags, s.writeSqCfg f q v (2 ^ 32 - 1) =
      (s.setReg (queueReg .hifSqCfg f q) w).setSq f q ⟨true, bitOf v 30, bitsOf v 21 16, queueSize v, 0, 0, tags⟩ := by
  have h := sqCfg_written (s.reg (queueReg .hifSqCfg f q)) v
  unfold State.writeSqCfg
  dsimp only
  generalize hw : (queueReg .hifSqCfg f q).cls.written (s.reg (queueReg .hifSqCfg f q)) v (2 ^ 32 - 1) = w
  obtain ⟨h31, h30, h21, h15⟩ := (show RegClass.hifSqCfg.written _ v (2 ^ 32 - 1) = w from hw) ▸ h
  rw [if_pos (h31.trans hv), if_neg (Bool.eq_false_iff.1 hoff), h30, h21, hon, queueSize, h15, ← queueSize]
  exact ⟨w, _, rfl⟩

theorem writeSqCfg_refused (hv : bitOf v 31 = true) (hoff : s.sqOn f q = false) (hon : s.cqOn f (bitsOf v 21 16) = false) :
    s.writeSqCfg f q v (2 ^ 32 - 1) = s.hifErr f Fld.HIF_ERR_CFG_ERR q := by
  have h := sqCfg_written (s.reg (queueReg .hifSqCfg f q)) v
  unfold State.writeSqCfg
  dsimp only
  generalize hw : (queueReg .hifSqCfg f q).cls.written (s.reg (queueReg .hifSqCfg f q)) v (2 ^ 32 - 1) = w
  obtain ⟨h31, _, h21, _⟩ := (show RegClass.hifSqCfg.written _ v (2 ^ 32 - 1) = w from hw) ▸ h
  rw [if_pos (h31.trans hv), if_neg (Bool.eq_false_iff.1 hoff), h21, hon]
  rfl

theorem writeSqCfg_off {x : Sq} (hv : bitOf v 31 = false) (hx : s.sq f q = some x) : ∃ w, s.writeSqCfg f q v (2 ^ 32 - 1) =
    (s.setReg (queueReg .hifSqCfg f q) w).setSq f q { x with on := false } := by
  have h31 : bitOf ((queueReg .hifSqCfg f q).cls.written (s.reg (queueReg .hifSqCfg f q)) v (2 ^ 32 - 1)) 31 = false :=
    (sqCfg_written _ v).1.trans hv
  unfold State.writeSqCfg
  dsimp only
  rw [if_neg (Bool.eq_false_iff.1 h31), hx]
  exact ⟨_, rfl⟩

theorem writeCqCfg_on (hv : bitOf v 31 = true) (hoff : s.cqOn f q = false) : ∃ w, s.writeCqCfg f q v (2 ^ 32 - 1) =
    (s.setReg (queueReg .hifCqCfg f q) w).setCq f q
      ⟨true, bitOf v 30, bitsOf v 29 24, bitsOf v 23 16, queueSize v, 0, 0, 0, [], 0, false⟩ := by
  have h := cqCfg_written (s.reg (queueReg .hifCqCfg f q)) v
  unfold State.writeCqCfg
  dsimp only
  generalize hw : (queueReg .hifCqCfg f q).cls.written (s.reg (queueReg .hifCqCfg f q)) v (2 ^ 32 - 1) = w
  obtain ⟨h31, h30, h29, h23, h15⟩ := (show RegClass.hifCqCfg.written _ v (2 ^ 32 - 1) = w from hw) ▸ h
  rw [if_pos (h31.trans hv), if_neg (Bool.eq_false_iff.1 hoff), h30, h29, h23, queueSize, h15, ← queueSize]
  exact ⟨w, rfl⟩

theorem writeCqCfg_off {x : Cq} (hv : bitOf v 31 = false) (hx : s.cq f q = some x) (hw : x.waiting = []) : ∃ w,
    s.writeCqCfg f q v (2 ^ 32 - 1) =
      (s.setReg (queueReg .hifCqCfg f q) w).setCq f q { x with on := false, unsignalled := 0, timer := false } := by
  have h31 : bitOf ((queueReg .hifCqCfg f q).cls.written (s.reg (queueReg .hifCqCfg f q)) v (2 ^ 32 - 1)) 31 = false :=
    (cqCfg_written _ v).1.trans hv
  obtain ⟨⟩ := x
  cases hw
  unfold State.writeCqCfg
  dsimp only
  rw [if_neg (Bool.eq_false_iff.1 h31), hx]
  exact ⟨_, rfl⟩

end Configure

/-- Settles O12: by what the write enables and what is enabled already. -/
theorem queueEnables : Obligations.QueueEnables := by
  intro s f q v hc hup hq _
  have hsq : doSqEnable f q v s = s.writeSqCfg f q v (2 ^ 32 - 1) := by simp [doSqEnable, hup, Nat.not_le.2 hq]
  have hcq : doCqEnable f q v s = s.writeCqCfg f q v (2 ^ 32 - 1) := by simp [doCqEnable, hup, Nat.not_le.2 hq]
  have hcalm {t : State} (h : t = { s with out := t.out, regs := t.regs, sqs := t.sqs, cqs := t.cqs }) : t.Calm := by
    rw [h]; exact hc.of_eq rfl rfl rfl rfl rfl rfl rfl rfl
  refine ⟨fun hv hoff hon => ?_, fun hv hoff hon => ?_, fun x hv hx => ?_, fun hv hoff => ?_, fun x hv hx hw => ?_, fun x hx hon ht hu => ?_⟩
  · obtain ⟨w, tags, hwr⟩ := writeSqCfg_on hv hoff hon
    exact ⟨_, _, next_always (hsq.trans hwr) (hcalm rfl), AMap.get?_set_same s.sqs _ _, rfl, rfl, rfl, rfl, rfl, rfl,
      fun g n hne => AMap.get?_set_other s.sqs _ hne, rfl⟩
  · have herr := hifErr_spec s f Fld.HIF_ERR_CFG_ERR q (.inr (.inl rfl)) hq
    exact ⟨_, next_always (hsq.trans (writeSqCfg_refused hv hoff hon)) (hcalm rfl), herr.1, herr.2.1, rfl⟩
  · obtain ⟨w, hwr⟩ := writeSqCfg_off hv hx
    exact ⟨_, next_always (hsq.trans hwr) (hcalm rfl), rfl⟩
  · obtain ⟨w, hwr⟩ := writeCqCfg_on (s := s) (f := f) (q := q) hv hoff
    exact ⟨_, _, next_always (hcq.trans hwr) (hcalm rfl), AMap.get?_set_same s.cqs _ _, rfl, rfl, rfl, rfl, rfl, rfl, rfl, rfl, rfl,
      fun g n hne => AMap.get?_set_other s.cqs _ hne, rfl⟩
  · obtain ⟨w, hwr⟩ := writeCqCfg_off hv hx hw
    exact ⟨_, next_always (hcq.trans hwr) (hcalm rfl), rfl⟩
  · have hdo : doInterruptCoalesceExpiry f q s = (s.setCq f q { x with unsignalled := 0, timer := false }).signal f x.vector := by
      simp [doInterruptCoalesceExpiry, hx, hon, ht, hu]
    exact next_always hdo (hcalm rfl)

-- The DOE mailbox (R648, R693) --------------------------------------------------------------------------------------------------------------

theorem doBbAsk_up {s : State} {f : Fn} (hup : s.doeUp f = true) (n : Nat) : doBbAsk f n s = { s with
    out := .doe f (some (s.makeQuote 3 (s.partOfFn f) n).1) .ok :: s.out, sec := { s.sec with quotes := s.sec.quotes + 1 },
    bounce := s.bounce.set f.index { s.bounceOf f with quote := some (s.makeQuote 3 (s.partOfFn f) n).1.number } } := by
  unfold doBbAsk
  rw [hup]
  rfl

theorem doBbConfirm_accepts {s : State} {f : Fn} (hup : s.doeUp f = true) (hq : (s.bounceOf f).quote ≠ none) : doBbConfirm f true s = { s with
    out := .doe f none .ok :: s.out, bounce := s.bounce.set f.index ⟨none, true, 0, 0, [0]⟩ } := by
  unfold doBbConfirm
  dsimp only
  rw [hup, Option.isSome_iff_ne_none.2 hq]
  rfl

theorem doBbConfirm_refuses {s : State} {f : Fn} (hup : s.doeUp f = true) : doBbConfirm f false s = { s with
    out := .doe f none .securityBounceAuth :: s.out, bounce := s.bounce.set f.index { s.bounceOf f with quote := none } } := by
  unfold doBbConfirm
  dsimp only
  rw [hup, Bool.and_false]
  rfl

/-- Settles O15: each command of a DOE mailbox that is up has one answer. -/
theorem attestation : Obligations.Attestation := by
  intro s f hc hup
  have hcalm (t : State) (h : t = { s with out := t.out, sec := t.sec, bounce := t.bounce }) : t.Calm := by
    rw [h]; exact hc.of_eq rfl rfl rfl rfl rfl rfl rfl rfl
  refine ⟨?_, ?_, fun n => ?_, fun n => ?_, fun hq => ?_, ?_⟩
  · exact next_always (t := s.put (.doe f none .ok)) (by simp [doDoeDiscovery, hup]) (hcalm _ rfl)
  · exact next_always (t := s.put (.doeEmpty f)) (by simp [doDoeDiscovery, hup]) (hcalm _ rfl)
  · have hdo : doDoeHostReport f n s = (s.makeQuote 4 (s.partOfFn f) n).2.put (.doe f (some (s.makeQuote 4 (s.partOfFn f) n).1) .ok) := by
      simp [doDoeHostReport, hup]
    exact ⟨(s.makeQuote 4 (s.partOfFn f) n).1, next_always hdo (hcalm _ rfl), rfl, rfl, rfl, rfl, rfl, rfl, rfl, rfl, rfl⟩
  · exact ⟨(s.makeQuote 3 (s.partOfFn f) n).1, next_always (doBbAsk_up hup n) (hcalm _ rfl), rfl, rfl, rfl, rfl⟩
  · exact next_always (doBbConfirm_accepts hup hq) (hcalm _ rfl)
  · exact next_always (doBbConfirm_refuses hup) (hcalm _ rfl)

end Sys2Proof.Machine
end

section
/-!
PROOFS. The machine before power, clock steps, TAP instructions and hardware faults (O58, O5, O6, O7).
-/

namespace Sys2Proof.Machine

open Sys2Proof

-- The reset state (R712, R716) ------------------------------------------------------------------------------------------------------------

/-- Settles O58: no register is written yet, so each holds its reset value, and the rest is as `State.reset` says. -/
theorem resetState : Obligations.ResetState := by
  refine ⟨?_, fun _ => rfl, rfl, rfl, rfl, rfl, rfl, rfl, rfl, rfl, rfl, rfl, ⟨rfl, fun _ h => nomatch h⟩, fun _ => rfl, fun s h => ?_⟩
  · intro fv hfv i j
    show bitsOf fv.1.cls.reset fv.1.hi fv.1.lo = fv.2
    revert fv
    decide
  · unfold step
    rw [h]

-- Clock steps (R796, R241) ------------------------------------------------------------------------------------------------------------------

/-- A course's step changes that course alone. -/
theorem stepCourse_some {s : State} {n : Nat} {c : Course} (hc : s.courses.get? n = some c) (f : Course → Course) :
    s.stepCourse n f = { s with courses := s.courses.set n (f c) } := by
  unfold State.stepCourse
  rw [AMap.modify_some hc]

/-- Settles O5: by whether the course may step, and for a step up of the power by which course goes first. -/
theorem clockSteps : Obligations.ClockSteps := by
  intro s n c hc hw hn
  have hstep {f : State → State} (g : Course → Course) (d : Course) (hf : f s = s.stepCourse n g) (hg : g c = d) :
      (Host.Outcome.next (s.event f) : Host.Outcome State Fault Refusal) = .next { s with courses := s.courses.set n d } :=
    next_event_own hw (hf.trans ((stepCourse_some hn g).trans (by rw [hg]))) (hc.of_eq rfl rfl rfl rfl rfl rfl rfl rfl) rfl rfl
  refine ⟨fun h1 h2 => ?_, fun h1 h2 => ?_, fun h => ⟨?_, ?_⟩, fun h1 h2 h3 h4 => ?_, fun h1 h2 h3 h4 hn3 hlow => ?_, fun h => ?_⟩
  · exact hstep _ _ rfl (if_pos (by simp [Course.canSlow, h1, h2]))
  · exact hstep _ _ rfl (if_pos (by simp [Course.canSlow, h1, h2]))
  · exact hstep _ _ rfl (if_neg (by simp [Course.canSlow, Nat.not_lt.2 h]))
  · exact hstep _ _ rfl (if_neg (by simp [Course.canSlow, Nat.not_lt.2 h]))
  · exact hstep _ _ rfl (if_pos (by simp [Course.canSpeed, h1, h2, h3, h4]))
  · refine hstep _ _ (if_neg (not_not.2 ?_)) (if_pos (by simp [Course.canSpeed, h1, h2, h3]))
    rw [List.find?_range_eq_some]
    refine ⟨by rw [hn]; simpa using h4, List.mem_range.2 hn3, fun k hk => ?_⟩
    cases hd : s.courses.get? k with
    | none => rfl
    | some d => simp [hlow k d hk hd]
  · exact hstep _ _ rfl (if_pos h)

-- The TAP (R777) ----------------------------------------------------------------------------------------------------------------------------

/-- Settles O6: what is accepted acts as itself, and what is not as BYPASS. -/
theorem tapInstructions : Obligations.TapInstructions := by
  intro s i hc hp
  refine ⟨s.tapActs i, next_always (f := doJtagInstruction i) (if_neg hp) (hc.of_eq rfl rfl rfl rfl rfl rfl rfl rfl), ?_, ?_, ?_⟩
  · rintro (rfl | rfl | rfl) <;> rfl
  · rintro (rfl | rfl) <;> rfl
  · rintro rfl; rfl

-- Hardware faults (R728, R730, R735 to R737) ----------------------------------------------------------------------------------------------------

/-- A fault that poisons nothing and names no memory word, tile-store line, tile program or port, and a CE, is recorded and no more. -/
theorem fault_recorded {s : State} {f : FaultRep} (hw : s.awake = true) (hr : f.running = [])
    (h : f.classed.cls = .ce ∨ f.classed.cls = .uc ∧ f.source ≠ 1 ∧ f.source ≠ 3 ∧ f.source ≠ 4 ∧ f.source ≠ 7 ∧ f.poison = .none)
    (hd : ((s.recoveries []).detect f.classed.errIn).1 = f.classed.cls) :
    doHardwareFault f s = ((s.recoveries []).detect f.classed.errIn).2 := by
  have hcl := classed_eq f
  have hsrc : f.classed.source = f.source := by rw [hcl]
  have hpoison : f.classed.poison = f.poison := by rw [hcl]
  rw [doHardwareFault_awake hw, fault_plain s f.classed (by rw [hcl]; exact hr) (by rw [hsrc]; rcases h with h | h <;> simp [h]), hd]
  generalize ((s.recoveries []).detect f.classed.errIn).2 = v
  rcases h with h | ⟨h, h1, h3, h4, h7, hn⟩
  · rw [h]; rfl
  · rw [h]
    simp only [State.actOn, State.markPoison, State.consume, hsrc, hpoison, hn, h1, h3, h4, h7, if_false]

/-- A CE that the newest CE record takes up counts there (R737). -/
theorem detect_coalesces {s : State} {f : ErrIn} {r : ErrRec} (ho : s.err.open_ = []) (hn : s.tick.coalesces f = some r) :
    s.detect f = (f.cls, (s.tick.errAgain r).errCount f.part f.cls false) := by
  have ho' : s.tick.err.open_ = [] := ho
  unfold State.detect
  dsimp only
  simp only [ho', List.filter_nil, leastBy, Option.isSome_none, Bool.false_eq_true, if_false, show ¬2 ≤ 0 by decide]
  rw [show s.tick.coalesces ⟨f.cls, f.source, f.part, f.ctx, f.status, f.location, f.handle, f.detail⟩ = some r from hn]

/-- Whether the newest record takes up a CE of its own source and location is a matter of the time since (R737). -/
theorem coalesces_newest {s : State} {f : ErrIn} {r : ErrRec} {l : List ErrRec} (hf : f.cls = .ce) (hring : s.err.ring = r :: l) (hr : r.cls = .ce)
    (hsrc : r.source = f.source) (hloc : r.location = f.location) :
    s.coalesces f = if (s.aon + 2 ^ 64 - r.stampLast) % 2 ^ 64 < 2 ^ 25 then some r else none := by
  unfold State.coalesces
  rw [hring, List.find?_cons_of_pos (by rw [hr]; rfl)]
  simp [hf, hsrc, hloc]

theorem errAgain_newest {s : State} {r : ErrRec} {l : List ErrRec} (h : s.err.ring = r :: l) :
    (s.errAgain r).err.ring.head? = some { r with count := (r.count + 1) % 2 ^ 32, stampLast := s.aon } ∧
      (s.errAgain r).err.ring.length = s.err.ring.length ∧ (s.errAgain r).err.next = s.err.next := by
  refine ⟨?_, List.length_map .., rfl⟩
  show (ringUpdate s.err.ring _).head? = _
  rw [h]
  exact congrArg some (if_pos rfl)

/-- Settles O7: by the class, and for a CE by whether the newest CE record takes it up. -/
theorem hardwareErrors : Obligations.HardwareErrors := by
  intro s f hc hw hr
  have hopen : (s.recoveries []).err = { s.err with open_ := [] } := by rw [recoveries_nil]
  have hin : f.classed.errIn.source = f.source ∧ f.classed.errIn.part = f.part ∧ f.classed.errIn.location = f.location ∧
      f.classed.errIn.detail = f.detail := by
    rw [FaultRep.errIn, classed_eq f]
    exact ⟨rfl, rfl, rfl, rfl⟩
  obtain ⟨hsrc, hpart, hloc, hdet⟩ := hin
  have hrec := rec_detect_alone s f.classed.errIn
  have hnew (hn : (s.recoveries []).tick.coalesces f.classed.errIn = none)
      (h : f.classed.cls = .ce ∨ f.classed.cls = .uc ∧ f.source ≠ 1 ∧ f.source ≠ 3 ∧ f.source ≠ 4 ∧ f.source ≠ 7 ∧ f.poison = .none) :
      ∃ t, exec (.hardwareFault f) s = .next t ∧ s.Rec t ∧ t.aon = (s.recoveries []).tick.aon ∧
        s.Logs t f.classed.cls f.source f.part f.location f.detail := by
    obtain ⟨hlog, hcls⟩ := logs_detect hopen hn
    rw [hsrc, hpart, hloc, hdet] at hlog
    exact ⟨_, next_always (fault_recorded hw hr h hcls) (hc.of_rec hrec), rec_kept hrec, detect_aon _ _, logs_kept hlog⟩
  refine ⟨fun h hold => ?_, fun r l h hring hrc hrs hrl => ?_, fun h h1 h3 h4 h7 hp => ?_⟩
  · obtain ⟨t, hex, ht, _, hlog⟩ := hnew (coalesces_none_of (by rw [recoveries_nil]; exact hold)) (.inl h)
    exact ⟨t, hex, ht, h ▸ hlog⟩
  · have hco := coalesces_newest (s := (s.recoveries []).tick) (f := f.classed.errIn) h (l := l) (by rw [recoveries_nil]; exact hring) hrc
      (hrs.trans hsrc.symm) (hrl.trans hloc.symm)
    by_cases hwin : ((s.recoveries []).tick.aon + 2 ^ 64 - r.stampLast) % 2 ^ 64 < 2 ^ 25
    · rw [if_pos hwin] at hco
      have hd := detect_coalesces (by rw [hopen]) hco
      have hdo := fault_recorded hw hr (.inl h) (by rw [hd]; rfl)
      have haon := detect_aon (s.recoveries []) f.classed.errIn
      obtain ⟨regs, hcount⟩ := errCount_frame ((s.recoveries []).tick.errAgain r) f.classed.errIn.part f.classed.errIn.cls false
      obtain ⟨h1, h2, h3⟩ := errAgain_newest (s := (s.recoveries []).tick) (r := r) (l := l) (by rw [recoveries_nil]; exact hring)
      have herr : ((s.recoveries []).detect f.classed.errIn).2.err = ((s.recoveries []).tick.errAgain r).err := by rw [hd, hcount]
      generalize ((s.recoveries []).detect f.classed.errIn).2 = v at hdo hrec haon herr
      rw [← herr] at h1 h2 h3
      refine ⟨_, next_always hdo (hc.of_rec hrec), rec_kept hrec, ?_⟩
      rw [show (s.kept v).aon = _ from haon, if_pos hwin]
      exact ⟨h1, h2.trans (by rw [recoveries_nil]; rfl), h3.trans (by rw [recoveries_nil]; rfl)⟩
    · rw [if_neg hwin] at hco
      obtain ⟨t, hex, ht, haon, hlog⟩ := hnew hco (.inl h)
      refine ⟨t, hex, ht, ?_⟩
      rw [haon, if_neg hwin]
      exact h ▸ hlog
  · obtain ⟨t, hex, ht, _, hlog⟩ := hnew (coalesces_not_ce _ _ (show f.classed.cls ≠ .ce by rw [h]; decide)) (.inr ⟨h, h1, h3, h4, h7, hp⟩)
    exact ⟨t, hex, ht, h ▸ hlog⟩

end Sys2Proof.Machine
end

section
/-!
PROOFS. Solvor links: training, lanes, keys, groups and the clocks of the egress scheduler (O16, O17, O18, O19, O20).
-/

namespace Sys2Proof.Machine

open Sys2Proof

-- A port changes --------------------------------------------------------------------------------------------------------------------------

/-- An event that changes the ports alone. -/
theorem next_event_ports {s : State} {f : State → State} {p : AMap Nat Port} (hc : s.Calm) (hw : s.awake = true)
    (h : f s = { s with ports := p }) : (Host.Outcome.next (s.event f) : Host.Outcome State Fault Refusal) = .next { s with ports := p } :=
  next_event_own hw h (hc.of_eq rfl rfl rfl rfl rfl rfl rfl rfl) rfl rfl

/-- An event that changes ports, registers, the free counter, the error ring and the vault's hop keys, and sends. -/
theorem next_event_link {s t : State} {f : State → State} (hc : s.Calm) (hw : s.awake = true) (h : f s = t)
    (ht : t = { s with err := t.err, aon := t.aon, freeCtr := t.freeCtr, regs := t.regs, pmc := t.pmc, out := t.out, ports := t.ports, sec := t.sec }) :
    (Host.Outcome.next (s.event f) : Host.Outcome State Fault Refusal) = .next t := by
  refine next_event_own hw h ?_ ?_ ?_
  · rw [ht]; exact hc.of_eq rfl rfl rfl rfl rfl rfl rfl rfl
  · rw [ht]
  · rw [ht]

section OnePort

variable {s : State} {n : Nat} {x : Port} (hx : s.ports.get? n = some x)
include hx

/-- Two changes of one port are one. -/
theorem modPort_twice (f g : Port → Port) : (s.modPort n f).modPort n g = { s with ports := s.ports.set n (g (f x)) } := by
  rw [modPort_some hx, modPort_some (AMap.get?_set_same ..)]
  exact congrArg (fun p => { s with ports := p }) (AMap.set_set ..)

theorem flowing_of_state (h : x.state = .align ∨ x.state = .opened ∨ x.state = .sealed) : s.flowing n = true := by
  unfold State.flowing
  rw [hx]
  rcases h with h | h | h <;> simp [h]

-- Training (R534, R535, R539, R548, R551) -----------------------------------------------------------------------------------------------

theorem doTrainSignalDetected_signal {l : Nat} (h1 : x.state = .train) (h2 : x.order = 1) (h3 : 8 ≤ (bitPositions l 9).length) :
    doTrainSignalDetected n l s = { s with ports := s.ports.set n { x with order := 2, rxGood := l % 512 } } := by
  unfold doTrainSignalDetected
  simp only [hx]
  rw [if_pos ⟨h1, h2, h3⟩, modPort_some hx]

theorem doTrainEqualised_aligns {a b : Nat} (h1 : x.state = .train) (h2 : x.order = 2) (ha : 8 ≤ (bitPositions a 9).length)
    (hb : 8 ≤ (bitPositions b 9).length) : doTrainEqualised n a b s = { s with ports := s.ports.set n { x with
      state := .align, order := 4, txGood := a % 512, rxGood := b % 512, txMap := (bitPositions a 9).take 8,
      rxMap := (bitPositions b 9).take 8, txSpare := (bitPositions a 9).length == 9, rxSpare := (bitPositions b 9).length == 9 } } := by
  unfold doTrainEqualised
  simp only [hx]
  rw [if_neg (by simp [h1, h2]), if_neg (by omega), modPort_some hx]

theorem doTrainGroupLock_hello (h1 : x.state = .align) (h2 : x.order = 4) (h3 : x.words = []) :
    doTrainGroupLock n s = { s with ports := s.ports.set n { x with order := 5, words := [helloWord] } } := by
  unfold doTrainGroupLock State.sayWord
  simp only [hx]
  rw [if_pos ⟨h1, h2⟩, modPort_twice hx]
  simp [h3]

theorem trainPort_some (g : Nat) (b : Bool) : s.trainPort n g b = { s with ports := s.ports.set n { x with
    state := .train, order := 1, gen := g, second := b, helloIn := false, helloAcked := false } } := modPort_some hx _

/-- The first failure at order 1 or 2 gives one attempt at generation 1 (R535). -/
theorem doTrainTimeout_again (h1 : x.state = .train) (h2 : x.order ≤ 2) (h3 : x.second = false) :
    doTrainTimeout n s = s.trainPort n 1 true := by
  unfold doTrainTimeout State.failTrain
  simp only [hx]
  rw [if_pos ⟨.inl h1, by omega⟩, if_pos (by simp [h2, h3])]

/-- A port that came no further than its alignment is DOWN without a record (R535). -/
theorem doTrainTimeout_down (h1 : x.state = .align) (h2 : x.order = 5) (h3 : x.keys.length ≤ 1) (hp : s.peersOn n = []) (hr : s.boot.phase = .ready) :
    doTrainTimeout n s = { s with
      ports := s.ports.set n { x.restart 0 .down with leftDown := x.leftDown || false }
      sec := { s.sec with hops := s.sec.hops.filter (fun h => h.1 != n) } } := by
  have hdown := portDown_alone hx (by rw [h1]; decide) hp downLanes false (t := { s with
      ports := s.ports.set n { x.restart 0 .down with leftDown := x.leftDown || false }
      sec := { s.sec with hops := s.sec.hops.filter (fun h => h.1 != n) } }) rfl
  rw [if_pos ⟨.inr h1, h3⟩] at hdown
  unfold doTrainTimeout State.failTrain
  simp only [hx]
  rw [if_pos ⟨.inr h1, by omega⟩, if_neg (by simp [h2]), hdown, hr]

theorem doRetrainTimer_trains (h1 : x.state = .down) (h2 : x.leftDown = false) (h3 : s.flag Fld.LNK_CFG_ENABLE n = true)
    (hr : s.boot.phase = .ready) (hf : s.err.frozen = false) : doRetrainTimer n s = s.trainPort n (s.genMax n) false := by
  unfold doRetrainTimer
  simp only [hx, hr]
  rw [if_pos (by simp [h1, h2, h3, hf])]

/-- HELLO of the peer opens a port whose own HELLO has been heard (R534 order 5). -/
theorem doHello_opens {g r : Nat} {l : List Nat} (h1 : x.state = .align) (h2 : x.order = 5) (hl : l.length = 4)
    (hk : (x.keys.getD 0x10 PortKey.none).txValid = false) : doHello n g l r s = { s with ports := s.ports.set n { x with
      state := if x.helloAcked then .opened else .align, order := if x.helloAcked then 6 else 5,
      lastWord := some (.hello g l r), helloIn := true, adv := l, peerRetry := r } } := by
  have hadv : (l ++ [0, 0, 0, 0]).take 4 = l := List.take_left' hl
  unfold doHello State.helloFrom
  simp only [hx]
  rw [if_pos ⟨h1, h2⟩, modPort_twice hx, hadv]
  unfold State.tryOpen
  simp only [AMap.get?_set_same]
  cases ha : x.helloAcked
  · rw [if_neg (by simp)]
    simp [h1, h2]
  · rw [if_pos (by simp [h1, h2]), modPort_some (AMap.get?_set_same ..), hk]
    exact congrArg (fun p => { s with ports := p }) (AMap.set_set ..)

end OnePort

/-- Settles O16: each clause by what the event does to its port. -/
theorem linkTraining : Obligations.LinkTraining := by
  intro s n x hc hw hx
  refine ⟨fun l h1 h2 h3 => ?_, fun a b h1 h2 h3 h4 => ?_, fun h1 h2 h3 => ?_, fun h1 h2 h3 => ?_, fun h1 h2 h3 hp hr => ?_,
    fun h1 h2 h3 hr => ?_, fun g r l h1 h2 h3 h4 => ?_, fun r h hp => ?_⟩
  · exact next_event_ports hc hw (doTrainSignalDetected_signal hx h1 h2 h3)
  · exact next_event_ports hc hw (doTrainEqualised_aligns hx h1 h2 h3 h4)
  · exact next_event_ports hc hw (doTrainGroupLock_hello hx h1 h2 h3)
  · refine next_event_ports hc hw (((doTrainTimeout_again hx h1 h2 h3).trans (trainPort_some hx 1 true)).trans ?_)
    rw [h1]
  · exact next_event_link hc hw (doTrainTimeout_down hx h1 h2 h3 hp hr) rfl
  · have hf : s.err.frozen = false := ((awake_iff s).1 hw).1
    exact next_event_ports hc hw ((doRetrainTimer_trains hx h1 h2 h3 hr hf).trans (trainPort_some hx _ _))
  · exact next_event_ports hc hw (doHello_opens hx h1 h2 h3 h4)
  · have hnt : ¬((x.state = .train ∨ x.state = .align) ∧ x.keys.length ≤ 1) := by rcases h with h | h <;> simp [h]
    have hdown := portDown_alone hx (by rcases h with h | h <;> simp [h]) hp r false (t := { s with
      ports := s.ports.set n { x.restart 0 .down with leftDown := x.leftDown || false }
      sec := { s.sec with hops := s.sec.hops.filter (fun h => h.1 != n) } }) rfl
    rw [if_neg hnt] at hdown
    obtain ⟨hrec, hlog⟩ := record_uc (s := s) (s1 := { s with
      ports := s.ports.set n { x.restart 0 .down with leftDown := x.leftDown || false }
      sec := { s.sec with hops := s.sec.hops.filter (fun h => h.1 != n) } }) rfl hdown (fun h => nomatch h)
    have hdo : doLinkDownWord n r s = s.portDown n r false false := if_pos (flowing_of_state hx (.inr h))
    obtain ⟨e, a, c, rg, l, ht⟩ := hrec
    refine ⟨_, next_event_link hc hw hdo (by rw [ht]), ?_, hlog _ _ _ _ _ rfl rfl rfl rfl rfl, ?_, ?_⟩ <;> rw [ht]

-- Lanes and recovery (R536 to R538) --------------------------------------------------------------------------------------------------------

/-- What a recovery leaves: the port in RECOVERY, a count and a CE record. -/
theorem recover_up {s : State} {n : Nat} {x : Port} (hx : s.ports.get? n = some x) (h : x.state = .opened ∨ x.state = .sealed) (lane : Nat) :
    ∃ e a c r l, s.recover n lane = { s with
      err := e, aon := a, freeCtr := c, regs := r, out := l ++ s.out
      ports := s.ports.set n { x with state := .recovery, prior := x.state } } := by
  have hmod := modPort_some hx (fun y => { y with state := .recovery, prior := x.state })
  unfold State.recover
  simp only [hx]
  rw [if_pos (by tauto), hmod]
  obtain ⟨e, a, c, r, l, ht⟩ := rec_detect_alone (State.bump { s with ports := s.ports.set n { x with state := .recovery, prior := x.state } }
    Fld.LNK_RECOVERIES_COUNT n) { cls := .ce, source := 7, part := none, location := n + lane * 256 }
  exact ⟨e, a, c, r, l, ht⟩

/-- A good lane that carries a logical lane is retired to the spare (R537). -/
theorem retireRx_spare {s : State} {n l sp : Nat} {x : Port} (hx : s.ports.get? n = some x) (h : x.state = .opened ∨ x.state = .sealed)
    (hgood : bitOf x.rxGood l = true) (hmap : l ∈ x.rxMap) (hspare : x.rxSpare = true)
    (hsp : (bitPositions x.rxGood 9).filter (fun k => !(x.rxMap.contains k)) = [sp]) : ∃ e a c r o, s.retireRx n l = { s with
      err := e, aon := a, freeCtr := c, regs := r, out := o ++ s.out
      ports := s.ports.set n { x with rxGood := x.rxGood - 2 ^ l, rxSpare := false, rxMap := x.rxMap.map (fun k => if k = l then sp else k),
                                      state := .recovery, prior := x.state } } := by
  have hup : x.up = true := by rcases h with h | h <;> simp [Port.up, h]
  unfold State.retireRx
  simp only [hx]
  rw [if_neg (by simp [hup, hgood]), if_neg (by simp [hmap]), if_neg (by simp [hspare]), modPort_some hx, hsp]
  obtain ⟨e, a, c, r, o, ht⟩ := recover_up (s := State.bump { s with ports := s.ports.set n { x with
    rxGood := x.rxGood - 2 ^ l, rxSpare := false, rxMap := x.rxMap.map (fun k => if k = l then sp else k) } } Fld.LNK_LANE_SWAPS_COUNT n)
    (AMap.get?_set_same ..) h l
  refine ⟨e, a, c, r, o, ht.trans ?_⟩
  exact congrArg (fun p => { s with err := e, aon := a, freeCtr := c, regs := r, out := o ++ s.out, ports := p }) (AMap.set_set ..)

/-- The first lane whose count of corrected symbols reaches LANE_BAD is retired (R537). -/
theorem doLaneErrorWindow_retires {s : State} {n l k i : Nat} {x : Port} {cs : List Nat} (hx : s.ports.get? n = some x) (hup : x.up = true)
    (hbad : ((cs.take 8).zipIdx).find? (fun c => decide (s.fld Fld.LNK_CFG_LANE_BAD n ≤ c.1)) = some (k, i)) (hl : x.rxMap[i]? = some l) :
    ∃ c r, doLaneErrorWindow n cs s = State.retireRx { s with freeCtr := c, regs := r } n l := by
  unfold doLaneErrorWindow
  simp only [hx, hup, Bool.not_true, Bool.false_eq_true, if_false, hbad, hl]
  split
  · exact ⟨s.freeCtr, s.regs, rfl⟩
  · exact ⟨s.draw.2.freeCtr, _, rfl⟩

/-- Settles O17: each clause by what the event does to its port. -/
theorem linkLanes : Obligations.LinkLanes := by
  intro s n x hc hw hx
  have hretired {f : State → State} {v : State} {l : Nat} {p : AMap Nat Port} (hv : ∃ c r, v = { s with freeCtr := c, regs := r })
      (hf : f s = v.retireRx n l) (hr : ∃ e a c r o, v.retireRx n l = { v with
        err := e, aon := a, freeCtr := c, regs := r, out := o ++ v.out, ports := p }) :
      ∃ t, (Host.Outcome.next (s.event f) : Host.Outcome State Fault Refusal) = .next t ∧ t.ports = p ∧
        t = { s with err := t.err, aon := t.aon, freeCtr := t.freeCtr, regs := t.regs, out := t.out, ports := t.ports } := by
    obtain ⟨c0, r0, rfl⟩ := hv
    obtain ⟨e, a, c, r, o, hr⟩ := hr
    exact ⟨_, next_event_link hc hw (hf.trans hr) rfl, rfl, rfl⟩
  have hup (h : x.state = .opened ∨ x.state = .sealed) : x.up = true := by rcases h with h | h <;> simp [Port.up, h]
  refine ⟨fun l sp c h hl h1 h2 h3 h4 hcmd => ?_, fun l sp cs h h1 h2 h3 h4 ⟨k, i, hbad, hmap⟩ => ?_, fun sp h1 h2 h3 => ?_, fun h => ?_, fun h => ?_⟩
  · have hspare := retireRx_spare hx h h1 h2 h3 h4
    rcases hcmd with rfl | rfl
    · exact hretired ⟨_, _, rfl⟩ (if_pos hl) hspare
    · exact hretired ⟨_, _, rfl⟩ ((if_pos (flowing_of_state hx (.inr h))).trans (if_pos hl)) hspare
  · obtain ⟨c0, r0, hdo⟩ := doLaneErrorWindow_retires hx (hup h) hbad hmap
    exact hretired ⟨c0, r0, rfl⟩ hdo (retireRx_spare (s := { s with freeCtr := c0, regs := r0 }) hx h h1 h2 h3 h4)
  · refine next_event_ports hc hw ?_
    unfold doSpareMonitorFail
    simp only [hx]
    rw [if_neg (by simp [h1, h2]), modPort_some hx, h3]
    rfl
  · refine next_event_ports hc hw ?_
    unfold doRecoveryDone
    simp only [hx]
    rw [if_pos h, modPort_some hx]
  · refine next_event_ports hc hw ?_
    unfold doRecoveryTimeout
    simp only [hx]
    rw [if_pos h]
    exact modPort_twice hx _ _

-- Rekeying (R563, R564, R566) ------------------------------------------------------------------------------------------------------------------

theorem startRekey_starts {s : State} {n i : Nat} {x : Port} {k : PortKey} (hx : s.ports.get? n = some x) (hk : x.keys.get? i = some k)
    (h1 : k.txValid = true) (h2 : k.rekeying = false) (h3 : i ≠ 0x1F) :
    s.startRekey n i = { s with ports := s.ports.set n { x with keys := x.keys.set i { k with rekeying := true } } } := by
  unfold State.startRekey
  rw [modPort_some hx]
  simp only [hk]
  rw [if_pos (by simp [h1, h2, h3])]

theorem rekeyReady_switches {s : State} {n i ph : Nat} {x : Port} {k : PortKey} (hx : s.ports.get? n = some x) (hk : x.keys.get? i = some k)
    (h1 : k.rekeying = true) (hph : ph = if k.txValid then (k.txPhase + 1) % 2 else k.txPhase) :
    s.rekeyReady n i ph = State.bump { s with ports := s.ports.set n { x with
      keys := x.keys.set i { k with txValid := true, txPhase := ph, txCtr := 0, rekeying := false },
      state := if i = 0x10 ∧ x.state = .opened then .sealed else x.state,
      prior := if i = 0x10 ∧ x.prior = .opened then .sealed else x.prior } } Fld.LNK_REKEYS_COUNT n := by
  have hnext : (if !k.txValid then k.txPhase else (k.txPhase + 1) % 2) = ph := by rw [hph]; cases k.txValid <;> rfl
  unfold State.rekeyReady
  simp only [hx, hk, h1, Bool.not_true, Bool.false_eq_true, if_false]
  rw [hnext, if_neg (not_not.2 rfl), modPort_some hx]

/-- Settles O18: each way to a rekey starts it, and REKEY_READY ends it. -/
theorem linkKeys : Obligations.LinkKeys := by
  intro s n i x k hc hw hx hk
  refine ⟨fun h1 h2 h3 => ?_, fun ph hfl h1 hph => ?_⟩
  · have hstart := startRekey_starts hx hk h1 h2 h3
    refine ⟨fun hfl => next_event_ports hc hw ((if_pos hfl).trans hstart), fun hmark => next_event_ports hc hw ?_, fun f hf hup hi => ?_⟩
    · unfold doRekeyMarkReached
      simp only [hx, hk]
      rw [if_pos hmark, hstart]
    · refine next_always (((if_pos hup).trans ((if_pos hf).trans ?_)).trans hstart) (hc.of_eq rfl rfl rfl rfl rfl rfl rfl rfl)
      rw [Nat.mod_eq_of_lt hi]
  · exact ⟨_, next_event_link hc hw ((if_pos hfl).trans (rekeyReady_switches hx hk h1 hph)) rfl, rfl, fld_bump _ _ _ _ (by decide) (by decide), rfl⟩

-- Groups (R544, R553 to R558) ------------------------------------------------------------------------------------------------------------------

theorem epochNewer_self (a : Nat) : epochNewer a a = false := by
  have hd : (a + 2 ^ 32 - a % 2 ^ 32) % 2 ^ 32 = 0 := by omega
  unfold epochNewer
  dsimp only
  rw [hd]
  rfl

/-- An acknowledgement touches neither keys nor what the port expects. -/
theorem ackTo_keeps (x : Port) (ack : Nat) : (x.ackTo ack).expect = x.expect ∧ (x.ackTo ack).keys = x.keys ∧ (x.ackTo ack).nakOut = x.nakOut ∧
    (x.ackTo ack).nakDue = x.nakDue ∧ (x.ackTo ack).tagFails = x.tagFails ∧ (x.ackTo ack).state = x.state := by
  unfold Port.ackTo
  dsimp only
  split <;> exact ⟨rfl, rfl, rfl, rfl, rfl, rfl⟩

section Arrival

variable {s : State} {n : Nat} {x : Port} {g : RxGroup} (hx : s.ports.get? n = some x) (hfl : s.flowing n = true) (hm : g.marker = true)
include hx hfl hm

/-- The group that the port expects, under a valid key with a good tag and a fresh counter (R553). -/
theorem doGroupArrival_accepts {k : PortKey} (hd : g.damaged = false) (hg : g.gseq = x.expect)
    (hk : x.keys.get? g.key = some k) (hv : k.rxValid = true) (ht : g.tagOk = true) (hc : g.phase = k.rxPhase → ∀ c, k.rxLast = some c → c < g.ctr) :
    doGroupArrival n g s = s.acceptGroup n x g true := by
  have hfresh : (g.phase == k.rxPhase && (match k.rxLast with | some c => decide (g.ctr ≤ c) | none => false)) = false := by
    cases hl : k.rxLast with
    | none => exact Bool.and_false _
    | some c =>
      by_cases hp : g.phase = k.rxPhase
      · simp [hp, Nat.not_le.2 (hc hp c hl)]
      · simp [hp]
  have hgetD : x.keys.getD g.key PortKey.none = k := by unfold AMap.getD; rw [hk]
  unfold doGroupArrival
  simp only [hx, hfl, hm, hd, hg, epochNewer_self, hgetD, hv, ht, Bool.not_true, Bool.false_eq_true, if_false, ne_eq, not_true]
  exact if_neg (Bool.eq_false_iff.1 hfresh)

theorem doGroupArrival_rejects (hd : g.damaged = false) (ho : epochNewer x.expect g.gseq = false) (hne : g.gseq ≠ x.expect) :
    doGroupArrival n g s = s.rejectGroup n := by
  unfold doGroupArrival
  simp only [hx, hfl, hm, hd, ho, Bool.not_true, Bool.false_eq_true, if_false]
  exact if_pos hne

theorem doGroupArrival_ignores (hd : g.damaged = false) (ho : epochNewer x.expect g.gseq = true) : doGroupArrival n g s = s := by
  unfold doGroupArrival
  simp [hx, hfl, hm, hd, ho]

theorem doGroupArrival_damaged (hd : g.damaged = true) :
    doGroupArrival n g s = (s.draw.2.bump Fld.LNK_FEC_UC_COUNT n (1 + Config.elapsed s.draw.1 % 8)).rejectGroup n := by
  unfold doGroupArrival
  simp [hx, hfl, hm, hd]

end Arrival

/-- Only registers, counters and what is sent differ. -/
def State.Counted (s t : State) : Prop := ∃ r m o, t = { s with regs := r, pmc := m, out := o ++ s.out }

theorem State.Counted.refl (s : State) : s.Counted s := ⟨s.regs, s.pmc, [], rfl⟩

theorem State.Counted.trans {s t u : State} (h : s.Counted t) (g : t.Counted u) : s.Counted u := by
  obtain ⟨r, m, o, rfl⟩ := h
  obtain ⟨r', m', o', rfl⟩ := g
  exact ⟨r', m', o' ++ o, by simp⟩

theorem State.Counted.ite {s t u : State} {c : Prop} [Decidable c] (h : s.Counted t) (g : s.Counted u) : s.Counted (if c then t else u) := by
  split
  · exact h
  · exact g

theorem counted_bump (s : State) (f : Field) (i v : Nat) : s.Counted (s.bump f i v) := ⟨_, s.pmc, [], rfl⟩

theorem counted_count (s : State) (e : PmcEv) : s.Counted (s.count e) := by
  obtain ⟨m, o, h⟩ := count_frame s e
  exact ⟨s.regs, m, o, h⟩

theorem tryOpen_sealed {s : State} {n : Nat} {x : Port} (hx : s.ports.get? n = some x) (h : x.state = .sealed) : s.tryOpen n = s := by
  unfold State.tryOpen
  simp only [hx]
  exact if_neg (by simp [h])

/-- What an accepted group without a control word leaves of a SEALED port. -/
theorem acceptGroup_sealed {s : State} {n : Nat} {x : Port} {g : RxGroup} {k : PortKey} (hst : x.state = .sealed) (hk : x.keys.get? g.key = some k)
    (hword : g.word = none) (hnak : g.nak = false) : ∃ y r m o, s.acceptGroup n x g true = { s with
        ports := s.ports.set n y, regs := r, pmc := m, out := o ++ s.out } ∧
      y.expect = (x.expect + 1) % 2 ^ 32 ∧ y.keys = x.keys.set g.key { k with rxPhase := g.phase, rxLast := some g.ctr } ∧ y.nakOut = false ∧
      y.nakDue = false ∧ y.tagFails = 0 ∧ y.state = .sealed := by
  have hgetD : x.keys.getD g.key PortKey.none = k := by unfold AMap.getD; rw [hk]
  obtain ⟨y, v, hacc, hv, hy⟩ : ∃ y v, s.acceptGroup n x g true = (v.modPort n (fun p => { p with lastWord := none })).tryOpen n ∧
      State.Counted { s with ports := s.ports.set n y } v ∧
      y.expect = (x.expect + 1) % 2 ^ 32 ∧ y.keys = x.keys.set g.key { k with rxPhase := g.phase, rxLast := some g.ctr } ∧ y.nakOut = false ∧
      y.nakDue = false ∧ y.tagFails = 0 ∧ y.state = x.state := by
    unfold State.acceptGroup
    simp only [hword, hnak, hgetD, Bool.false_eq_true, if_false]
    apply Exists.intro
    apply Exists.intro
    refine And.intro rfl (And.intro ?_ ?_)
    · refine State.Counted.trans ?_ (.ite (.refl _) (counted_count ..))
      refine State.Counted.trans ?_ (.ite (counted_bump ..) (.refl _))
      refine State.Counted.trans ?_ (.ite (.refl _) (counted_bump ..))
      exact .ite (.refl _) (counted_bump ..)
    · obtain ⟨h1, h2, h3, h4, h5, h6⟩ := ackTo_keeps _ _
      exact ⟨h1, h2, h3, h4, h5, h6⟩
  obtain ⟨h1, h2, h3, h4, h5, h6⟩ := hy
  obtain ⟨r, m, o, rfl⟩ := hv
  refine ⟨{ y with lastWord := none }, r, m, o, hacc.trans ?_, h1, h2, h3, h4, h5, h6.trans hst⟩
  rw [modPort_some (x := y) (by exact AMap.get?_set_same s.ports n y), tryOpen_sealed (x := { y with lastWord := none })]
  · exact congrArg (fun p => { s with ports := p, regs := r, pmc := m, out := o ++ s.out }) (AMap.set_set ..)
  · exact AMap.get?_set_same ..
  · exact h6.trans hst

/-- A port that is OPEN and has nothing to send sends an empty group under the zero key (R544). -/
theorem doGroupTransmit_empty {s : State} {n : Nat} {x : Port} {k : PortKey} (hx : s.ports.get? n = some x) (hst : x.state = .opened)
    (hfl : s.flowing n = true) (hr : x.resend = 0) (hm : x.mgmt = []) (hroom : x.retry.length < Nat.min 128 x.peerRetry)
    (hready : x.keyReady 0x1F = true) (hk : x.keys.get? 0x1F = some k) (now : Nat) : doGroupTransmit n now s = { s with
      ports := s.ports.set n { x with
        nextSeq := (x.nextSeq + 1) % 2 ^ 32, retry := x.retry ++ [⟨x.nextSeq, 0x1F, emptySlots, x.words.head?⟩],
        keys := x.keys.set 0x1F { k with txCtr := k.txCtr + 15 }, nakDue := false, nakOut := x.nakOut || x.nakDue },
      out := .link n ⟨x.nextSeq, 0x1F, emptySlots, x.words.head?⟩ k.txPhase k.txCtr ((x.expect + 2 ^ 32 - 1) % 2 ^ 32) x.nakDue x.freedOut
        :: s.out } := by
  have hgetD : x.keys.getD 0x1F PortKey.none = k := by unfold AMap.getD; rw [hk]
  have hnew : s.sendNew n 0x1F x emptySlots = s.sendGroup n
      { x with nextSeq := (x.nextSeq + 1) % 2 ^ 32, retry := x.retry ++ [⟨x.nextSeq, 0x1F, emptySlots, x.words.head?⟩] }
      ⟨x.nextSeq, 0x1F, emptySlots, x.words.head?⟩ := rfl
  have hlink : (if x.state = .sealed then 0x10 else 0x1F) = 0x1F := if_neg (by simp [hst])
  unfold doGroupTransmit
  simp only [hx, hfl]
  rw [if_neg (by decide), if_neg (not_not.2 hr), if_neg (Nat.not_le.2 hroom), if_neg (by simp [hm]), if_pos (by simp [hst]), hlink, if_pos hready, hnew]
  unfold State.sendGroup
  simp only [hgetD]
  rfl

/-- Without progress every unacknowledged group goes again (R555). -/
theorem rewind_again {s : State} {n : Nat} {x : Port} (hx : s.ports.get? n = some x) (hr : x.retry ≠ [])
    (hmax : x.rewinds + 1 < zeroActsAs (s.fld Fld.LNK_RETRY_CFG_RETRY_MAX n) 1) : s.rewind n = State.bump { s with
      ports := s.ports.set n { x with resend := x.retry.length, rewinds := x.rewinds + 1 } } Fld.LNK_RETRIES_COUNT n := by
  unfold State.rewind
  simp only [hx]
  rw [if_neg (by simpa using hr), if_neg (Nat.not_le.2 hmax), modPort_some hx]

/-- Settles O19: by what the port does with the group that arrives, and by what it sends. -/
theorem linkGroups : Obligations.LinkGroups := by
  intro s n x hc hw hx hfl
  refine ⟨fun g k hst hm hd hg _ hk hv ht hfresh hword hnak => ?_, fun g hm hd ho hne => ?_, fun g hm hd ho => ?_, fun g hm hd => ?_,
    fun hst hr hmg hroom hready k hk now => ?_, fun h => ?_, fun hr hmax => ?_⟩
  · obtain ⟨y, r, m, o, hacc, hy⟩ := acceptGroup_sealed (s := s) (n := n) hst hk hword hnak
    obtain ⟨h1, h2, h3, h4, h5, h6⟩ := hy
    exact ⟨_, y, next_event_link hc hw ((doGroupArrival_accepts hx hfl hm hd hg hk hv ht hfresh).trans hacc) rfl, AMap.get?_set_same ..,
      h1, h2, h3, h4, h5, h6, rfl⟩
  · exact next_event_ports hc hw ((doGroupArrival_rejects hx hfl hm hd ho hne).trans (modPort_some hx _))
  · exact next_event_link hc hw (doGroupArrival_ignores hx hfl hm hd ho) rfl
  · refine ⟨_, next_event_link hc hw ((doGroupArrival_damaged hx hfl hm hd).trans (modPort_some (by exact hx) _)) rfl, rfl, rfl⟩
  · exact next_event_link hc hw (doGroupTransmit_empty hx hst hfl hr hmg hroom hready hk now) rfl
  · exact next_event_ports hc hw ((modPort_some hx _).trans (by rw [if_pos h]))
  · exact ⟨_, next_event_link hc hw ((if_pos hfl).trans (rewind_again hx hr hmax)) rfl, rfl, fld_bump _ _ _ _ (by decide) (by decide), rfl⟩

-- The egress scheduler's clocks (R617 to R624, R754) ------------------------------------------------------------------------------------------

theorem fld_lt (s : State) (f : Field) (i j : Nat) : s.fld f i j < 2 ^ (f.hi + 1 - f.lo) := Nat.mod_lt _ (Nat.two_pow_pos _)

theorem pmcReg_setPmc_same (s : State) (r : Reg) (v : Nat) : (s.setPmc r v).pmcReg r = v % 2 ^ 64 := by
  unfold State.pmcReg State.setPmc
  simp

theorem pmcReg_setPmc_other (s : State) {r q : Reg} (v : Nat) (h : q ≠ r) : (s.setPmc r v).pmcReg q = s.pmcReg q := by
  unfold State.pmcReg State.setPmc
  rw [AMap.get?_set_other _ _ h]

/-- What a refill leaves of the three classes' tokens (R617, R619). -/
theorem doShaperRefill_some {s : State} {n : Nat} {x : Port} (hx : s.ports.get? n = some x) :
    doShaperRefill n s = { s with ports := s.ports.set n { x with
      rates := [s.fld Fld.EGR_SHAPER_RATE n 0, s.fld Fld.EGR_SHAPER_RATE n 1, s.fld Fld.EGR_SHAPER_RATE n 2],
      tokens := [0, 1, 2].map (fun c =>
        Nat.min (zeroActsAs (s.fld Fld.EGR_SHAPER_BURST n c) 1 * 256)
          (Nat.min (zeroActsAs (s.fld Fld.EGR_SHAPER_BURST n c) 1 * 256) (nthD x.tokens c 0) + s.fld Fld.EGR_SHAPER_RATE n c)) } } :=
  modPort_some hx _

theorem activeList_congr {s t : State} (h : t.regs = s.regs) (n : Nat) : t.activeList n = s.activeList n := by
  unfold State.activeList State.gateList
  simp only [fld_congr h]

section Gates

variable {s : State} {n : Nat} {x : Port} (hx : s.ports.get? n = some x)
include hx

theorem switchLists_some : s.switchLists n = { s with
    regs := ((s.setFld Fld.EGR_CFG_ACTIVE (1 - s.fld Fld.EGR_CFG_ACTIVE n) n).setFld Fld.EGR_CFG_SWITCH 0 n).regs
    ports := s.ports.set n { x with gateAt := 0 } } := by
  unfold State.switchLists
  exact modPort_some (by exact hx) _

/-- While the gates are off, an entry gives way to the next (R620). -/
theorem doGateEntryExpiry_next (hne : s.activeList n ≠ []) (hsw : s.flag Fld.EGR_CFG_SWITCH n = false) (hoff : s.fld Fld.EGR_CFG_GATES_ON n = 0) :
    doGateEntryExpiry n s = { s with ports := s.ports.set n { x with
      gateAt := if (s.activeList n).length ≤ x.gateAt + 1 then 0 else x.gateAt + 1 } } := by
  unfold doGateEntryExpiry
  simp only [hx, hsw, Bool.and_false, hoff, Bool.false_eq_true, if_false, if_true]
  rw [if_neg (by simpa using hne), modPort_some hx]

/-- A switch that waits takes place at the end of the cycle (R624). -/
theorem doGateEntryExpiry_switch (hne : s.activeList n ≠ []) (hsw : s.flag Fld.EGR_CFG_SWITCH n = true) (hoff : s.fld Fld.EGR_CFG_GATES_ON n = 0)
    (hend : (s.activeList n).length ≤ x.gateAt + 1) : doGateEntryExpiry n s = s.switchLists n := by
  unfold doGateEntryExpiry
  simp only [hx, hsw, hoff, hend]
  rw [if_neg (by simpa using hne)]
  rfl

/-- While the gates are on, the started messages of the classes whose window closes count as split (R623). -/
theorem doGateEntryExpiry_splits {a b : Nat × Nat} {k : Nat} {shuts : CtxClass → Bool} (hsw : s.flag Fld.EGR_CFG_SWITCH n = false)
    (hon : s.fld Fld.EGR_CFG_GATES_ON n ≠ 0) (hk : k = if (s.activeList n).length ≤ x.gateAt + 1 then 0 else x.gateAt + 1)
    (ha : (s.activeList n)[x.gateAt]? = some a) (hb : (s.activeList n)[k]? = some b)
    (hshuts : ∀ c, shuts c = (bitOf a.2 c.code && !(bitOf b.2 c.code))) : ∃ v,
      v = (if (([CtxClass.lc, CtxClass.be, CtxClass.bg].filter shuts).map x.startedOf).sum = 0 then s
        else s.bump Fld.EGR_GATE_SPLITS_COUNT n (([CtxClass.lc, CtxClass.be, CtxClass.bg].filter shuts).map x.startedOf).sum) ∧
      doGateEntryExpiry n s = { v with ports := s.ports.set n { x with gateAt := k, flows := x.flows.map (fun (f : Nat × List Flow) =>
        (f.1, f.2.map (fun w => if shuts w.m.cls = true then { w with waited := false } else w))) } } := by
  have hne : (s.activeList n).isEmpty = false := by
    cases h : s.activeList n with
    | nil => rw [h] at ha; cases ha
    | cons => rfl
  have hnext : s.modPort n (fun y => { y with gateAt := if (s.activeList n).length ≤ x.gateAt + 1 then 0 else y.gateAt + 1 }) =
      { s with ports := s.ports.set n { x with gateAt := k } } := by rw [modPort_some hx, hk]
  have hact : State.activeList { s with ports := s.ports.set n { x with gateAt := k } } n = s.activeList n := activeList_congr rfl n
  have hfilter : [CtxClass.lc, CtxClass.be, CtxClass.bg].filter (fun c => bitOf a.2 c.code && !(bitOf b.2 c.code)) =
      [CtxClass.lc, CtxClass.be, CtxClass.bg].filter shuts := by rw [funext hshuts]
  have hmem (c : CtxClass) : ([CtxClass.lc, CtxClass.be, CtxClass.bg].filter shuts).contains c = shuts c := by
    cases c <;> cases h : shuts _ <;> simp [h]
  refine ⟨_, rfl, ?_⟩
  unfold doGateEntryExpiry
  simp only [hx, hsw, Bool.and_false, hne, Bool.false_eq_true, if_false, hnext, hact, AMap.get?_set_same, ha, hb, hfilter, hmem, hon]
  split
  · rw [modPort_some (by exact AMap.get?_set_same ..)]
    exact congrArg (fun p => { s with ports := p }) (AMap.set_set ..)
  · rw [modPort_some (by exact AMap.get?_set_same ..)]
    exact congrArg (fun p => { State.bump s Fld.EGR_GATE_SPLITS_COUNT n _ with ports := p }) (AMap.set_set ..)

end Gates

/-- The bytes of a bandwidth window stand in PMC_BW (R754). -/
theorem doPmcBwWindowEnd_some {s : State} {n : Nat} {x : Port} (hx : s.ports.get? n = some x) : ∃ m, doPmcBwWindowEnd n s = { s with
      pmc := m, ports := s.ports.set n { x with bwTx := 0, bwRx := 0 } } ∧
    (∀ t : State, t.pmc = m → t.pmcReg ⟨.pmcBw, n, 0⟩ = (x.bwRx % 2 ^ 32 * 2 ^ 32 + x.bwTx % 2 ^ 32) % 2 ^ 64) := by
  obtain ⟨s1, hs1⟩ : ∃ s1, s1 = s.setPmc ⟨.pmcBw, n, 0⟩ (x.bwRx % 2 ^ 32 * 2 ^ 32 + x.bwTx % 2 ^ 32) := ⟨_, rfl⟩
  obtain ⟨s2, hs2⟩ : ∃ s2, s2 = s1.setPmc ⟨.pmcBwCfg, n, 0⟩ (setBits (s1.pmcReg ⟨.pmcBwCfg, n, 0⟩) 30 24
    (bitsOf (s1.pmcReg ⟨.pmcBwCfg, n, 0⟩) 30 24 + 1)) := ⟨_, rfl⟩
  have hdo : doPmcBwWindowEnd n s = s2.modPort n (fun y => { y with bwTx := 0, bwRx := 0 }) := by
    unfold doPmcBwWindowEnd
    simp only [hx, hs2, hs1]
  refine ⟨s2.pmc, hdo.trans ?_, fun t ht => ?_⟩
  · rw [modPort_some (x := x) (by rw [hs2, hs1]; exact hx), hs2, hs1]
    rfl
  · have hreg : t.pmcReg ⟨.pmcBw, n, 0⟩ = s2.pmcReg ⟨.pmcBw, n, 0⟩ := by unfold State.pmcReg; rw [ht]
    rw [hreg, hs2, pmcReg_setPmc_other _ _ (fun h => by cases h), hs1, pmcReg_setPmc_same]

/-- A 64-bit register of two 32-bit fields holds each (R754). -/
theorem bitsOf_halves (a b : Nat) : bitsOf ((a % 2 ^ 32 * 2 ^ 32 + b % 2 ^ 32) % 2 ^ 64) 31 0 = b % 2 ^ 32 ∧
    bitsOf ((a % 2 ^ 32 * 2 ^ 32 + b % 2 ^ 32) % 2 ^ 64) 63 32 = a % 2 ^ 32 := by
  unfold bitsOf
  constructor <;> omega

section Switch

variable {s : State} {n : Nat} {f : Fn} (hf : f.isPf = true) (hn : n < 8)
include hf hn

theorem doEgrSwitch_waits (hok : s.listOk n (1 - s.fld Fld.EGR_CFG_ACTIVE n) = true) (hne : s.activeList n ≠ []) :
    doEgrSwitch f n s = s.setFld Fld.EGR_CFG_SWITCH 1 n := by
  unfold doEgrSwitch
  rw [if_neg (by simp [hf, hn]), if_neg (by simp [hok])]
  exact if_neg (by simpa using hne)

theorem doEgrSwitch_refused (hok : s.listOk n (1 - s.fld Fld.EGR_CFG_ACTIVE n) = false) :
    doEgrSwitch f n s = (s.setFld Fld.EGR_CFG_LIST_ERR 1 n).setFld Fld.EGR_CFG_SWITCH 0 n := by
  unfold doEgrSwitch
  rw [if_neg (by simp [hf, hn]), if_pos (by simp [hok])]

end Switch

/-- Settles O20: by what each clock does to its port and its registers. -/
theorem egressClocks : Obligations.EgressClocks := by
  intro s n x hc hw hx
  have hregs (t : State) (h : t = { s with regs := t.regs }) : t.Calm := by
    rw [h]; exact hc.of_eq rfl rfl rfl rfl rfl rfl rfl rfl
  refine ⟨next_event_ports hc hw (doShaperRefill_some hx), fun hne hsw hoff => ?_, fun hne hsw hoff hend => ?_, ?_, fun f hf hup hn hok hne => ?_,
    fun f hf hup hn hok => ?_, fun a b k shuts hsw hon hk ha hb hshuts => ?_⟩
  · exact next_event_ports hc hw (doGateEntryExpiry_next hx hne hsw hoff)
  · refine ⟨_, next_event_link hc hw ((doGateEntryExpiry_switch hx hne hsw hoff hend).trans (switchLists_some hx)) rfl, ?_, ?_, rfl⟩
    · refine (fld_setFld_other (s.setFld Fld.EGR_CFG_ACTIVE (1 - s.fld Fld.EGR_CFG_ACTIVE n) n) Fld.EGR_CFG_SWITCH Fld.EGR_CFG_ACTIVE 0 n 0 n 0
        (by decide) (by decide) (.inr (.inl (by decide)))).trans ?_
      exact (fld_setFld_same s Fld.EGR_CFG_ACTIVE _ n 0 (by decide) (by decide)).trans (Nat.mod_eq_of_lt (Nat.lt_of_le_of_lt (Nat.sub_le ..) (by decide)))
    · exact fld_setFld_same _ Fld.EGR_CFG_SWITCH 0 n 0 (by decide) (by decide)
  · obtain ⟨m, hdo, hreg⟩ := doPmcBwWindowEnd_some hx
    obtain ⟨htx, hrx⟩ := bitsOf_halves x.bwRx x.bwTx
    refine ⟨_, next_event_link hc hw hdo rfl, ?_, ?_, rfl⟩
    · exact (congrArg (fun v => bitsOf v 31 0) (hreg _ rfl)).trans htx
    · exact (congrArg (fun v => bitsOf v 63 32) (hreg _ rfl)).trans hrx
  · refine ⟨_, next_always ((if_pos hup).trans (doEgrSwitch_waits hf hn hok hne)) (hregs _ rfl), ?_, ?_, rfl⟩
    · exact beq_iff_eq.2 (fld_setFld_same s Fld.EGR_CFG_SWITCH 1 n 0 (by decide) (by decide))
    · exact fld_setFld_other s Fld.EGR_CFG_SWITCH Fld.EGR_CFG_ACTIVE 1 n 0 n 0 (by decide) (by decide) (.inr (.inl (by decide)))
  · refine ⟨_, next_always ((if_pos hup).trans (doEgrSwitch_refused hf hn hok)) (hregs _ rfl), ?_, ?_, rfl⟩
    · refine beq_iff_eq.2 ((fld_setFld_other (s.setFld Fld.EGR_CFG_LIST_ERR 1 n) Fld.EGR_CFG_SWITCH Fld.EGR_CFG_LIST_ERR 0 n 0 n 0
        (by decide) (by decide) (.inr (.inr (by decide)))).trans ?_)
      exact fld_setFld_same s Fld.EGR_CFG_LIST_ERR 1 n 0 (by decide) (by decide)
    · exact beq_false_of_ne ((fld_setFld_same _ Fld.EGR_CFG_SWITCH 0 n 0 (by decide) (by decide)).trans_ne (by decide))
  · obtain ⟨v, hv, hdo⟩ := doGateEntryExpiry_splits hx hsw hon hk ha hb hshuts
    have hregs : v = { s with regs := v.regs } := by rw [hv]; split <;> rfl
    refine ⟨_, next_event_link hc hw (hdo.trans (by rw [hregs])) rfl, ?_, rfl⟩
    refine (fld_congr (s := v) rfl _ _ _).trans ?_
    rw [hv]
    split
    · next h0 => rw [h0, Nat.add_zero]; exact (Nat.mod_eq_of_lt (fld_lt s Fld.EGR_GATE_SPLITS_COUNT n 0)).symm
    · exact fld_bump s Fld.EGR_GATE_SPLITS_COUNT n _ (by decide) (by decide)

end Sys2Proof.Machine
end

section
/-!
PROOFS. Messages and peers: what every message meets first, management messages, admission (O21, O22, O23).
-/

namespace Sys2Proof.Machine

open Sys2Proof

-- What every message meets first (R568, R573, R591) ---------------------------------------------------------------------------------------

/-- Every message of a peer passes through `receive`. -/
theorem exec_message {c : Instr} {s : State} {h : Hdr} {type : Nat} {resp : Bool} {size : Option Nat} (hm : messageOf c s = some (h, type, resp, size)) :
    ∃ f k, exec c s = .next (s.event f) ∧ f s = s.receive h type resp size k := by
  unfold messageOf at hm
  split at hm
  case h_17 => cases hm
  case h_1 =>
    cases hm
    exact ⟨_, _, rfl, by unfold doQueryMessage; rfl⟩
  case h_3 =>
    cases hm
    exact ⟨_, _, rfl, by unfold doLogitChunk; rfl⟩
  all_goals
    cases hm
    exact ⟨_, _, rfl, rfl⟩

section Receive

variable {s : State} {h : Hdr} {type : Nat} {resp : Bool} {size : Option Nat} (k : Nat → Peer → State → State)

theorem receive_uncarried (hb : s.carries h = false) : s.receive h type resp size k = s := by
  unfold State.receive
  rw [hb]
  rfl

variable (hb : s.carries h = true)
include hb

theorem receive_astray (hd : h.dst ≠ s.fld Fld.CMP_SELF_FABRIC) : s.receive h type resp size k = s.bump Fld.CMP_MALFORMED_COUNT := by
  unfold State.receive State.astray
  simp [hb, hd]

variable (hd : h.dst = s.fld Fld.CMP_SELF_FABRIC)
include hd

theorem receive_malformed (hm : h.malformed type resp (s.linkKey h.port) size = true ∨ ∃ i p, s.peerOfSrc h.src = some (i, p) ∧
    (roleSends type resp p.device = false ∨ (type < 9 ∧ bitOf p.parts h.part = false))) :
    s.receive h type resp size k = s.dropMalformed h type resp := by
  unfold State.receive State.astray
  simp only [hb, hd, Bool.not_true, Bool.false_eq_true, if_false, bne_self_eq_false]
  split
  · rfl
  · next hgood =>
    obtain ⟨i, p, hp, hrole⟩ := hm.resolve_left hgood
    rw [hp]
    refine if_neg ?_
    rcases hrole with hr | ⟨ht, hpart⟩
    · simp [hr]
    · simp [hpart, ht]

theorem receive_stranger (hgood : h.malformed type resp (s.linkKey h.port) size = false) (hp : s.peerOfSrc h.src = none) :
    s.receive h type resp size k = s.answerMsg h .bg (.rehandshake type h.tag) := by
  unfold State.receive State.astray
  simp [hb, hd, hgood, hp]

end Receive

/-- What dropping a malformed message leaves: a count, and an answer where its type has one. -/
theorem dropMalformed_says {s : State} {h : Hdr} {type : Nat} {resp : Bool} (hb : s.carries h = true) : ∃ t, s.dropMalformed h type resp = t ∧
    t.fld Fld.CMP_MALFORMED_COUNT = (s.fld Fld.CMP_MALFORMED_COUNT + 1) % 2 ^ 32 ∧
    (if typeAnswered type && !resp then s.Says t h.port (h.reply (.malformed type)) .bg else t.ports = s.ports) ∧
    t = { s with regs := t.regs, ports := t.ports } := by
  have hcount := fld_bump s Fld.CMP_MALFORMED_COUNT 0 1 (by decide) (by decide)
  refine ⟨_, rfl, ?_⟩
  unfold State.dropMalformed
  dsimp only
  split
  · next ha =>
    obtain ⟨x, hx, hu⟩ := carries_port hb
    have hvc : (MsgBody.malformed type).mgmt = true → (MsgBody.malformed type).vc = 0 ∧ (MsgBody.malformed type).cls .bg = .bg := by
      intro hm
      simp only [MsgBody.mgmt, Bool.or_eq_true, beq_iff_eq] at hm
      exact ⟨if_pos hm, rfl⟩
    obtain ⟨hsays, hframe⟩ := says_answerMsg (s := s.bump Fld.CMP_MALFORMED_COUNT) hx hu .bg (.malformed type) hvc
    generalize (s.bump Fld.CMP_MALFORMED_COUNT).answerMsg h .bg (.malformed type) = t at hsays hframe
    rw [hframe] at hsays ⊢
    exact ⟨hcount, hsays, rfl⟩
  · exact ⟨hcount, rfl, rfl⟩

/-- An event that changes registers, ports, peers, time and the vault alone. -/
theorem next_event_peer {s t : State} {f : State → State} (hc : s.Calm) (hw : s.awake = true) (h : f s = t)
    (ht : t = { s with regs := t.regs, ports := t.ports, peers := t.peers, aon := t.aon, freeCtr := t.freeCtr, sec := t.sec }) :
    (Host.Outcome.next (s.event f) : Host.Outcome State Fault Refusal) = .next t := by
  refine next_event_own hw h ?_ ?_ ?_
  · rw [ht]; exact hc.of_eq rfl rfl rfl rfl rfl rfl rfl rfl
  · rw [ht]
  · rw [ht]

/-- Settles O21: by how far a message gets in `receive`. -/
theorem messageChecks : Obligations.MessageChecks := by
  intro s c h type resp size hc hw hm
  obtain ⟨f, k, hex, hf⟩ := exec_message hm
  have hnext {t : State} (hr : s.receive h type resp size k = t)
      (ht : t = { s with regs := t.regs, ports := t.ports, peers := t.peers, aon := t.aon, freeCtr := t.freeCtr, sec := t.sec }) :
      exec c s = .next t := hex.trans (next_event_peer hc hw (hf.trans hr) ht)
  refine ⟨fun hb => hnext (receive_uncarried k hb) rfl, fun hb hd => ?_, fun hb hd hbad => ?_, fun hb hd hgood hp => ?_⟩
  · exact ⟨_, hnext (receive_astray k hb hd) rfl, fld_bump s Fld.CMP_MALFORMED_COUNT 0 1 (by decide) (by decide), rfl⟩
  · obtain ⟨t, ht, hcount, hsays, hframe⟩ := dropMalformed_says (type := type) (resp := resp) hb
    exact ⟨t, hnext ((receive_malformed k hb hd hbad).trans ht) (by rw [hframe]), hcount, hsays, hframe⟩
  · obtain ⟨x, hx, hu⟩ := carries_port hb
    obtain ⟨hsays, hframe⟩ := says_answerMsg hx hu .bg (.rehandshake type h.tag) (fun hv => nomatch hv)
    exact ⟨_, hnext (receive_stranger k hb hd hgood hp) (by rw [hframe]), hsays, hframe⟩

-- Management messages of a peer (R586, R587, R589, R591, R592) -------------------------------------------------------------------------------

/-- Nothing depends on a peer of an idle device: its loss clears its entry and its hop secret. -/
theorem losePeer_idle {s : State} {i : Nat} {p : Peer} (h : s.Idle) (hp : s.peers.get? i = some p) (ha : p.asks = []) :
    s.losePeer i = { s with
      peers := s.peers.erase i, sec := { s.sec with hops := s.sec.hops.filter (fun k => k != (p.port, p.fabric)) } } := by
  unfold State.losePeer
  simp only [hp, h.handoffs, h.reqs, h.movesOut, h.pulls, ha, List.filter_nil, List.map_nil, List.foldl_nil]

/-- Whether a device is idle does not depend on the vault, errors, pins, ports, peers, cores, frames, registers and the like. -/
theorem State.Idle.of_rest {s t : State} (h : s.Idle) (ht : t = { s with
      out := t.out, regs := t.regs, pmc := t.pmc, aon := t.aon, freeCtr := t.freeCtr, sec := t.sec, err := t.err, pins := t.pins
      flash := t.flash, sqs := t.sqs, cqs := t.cqs, bounce := t.bounce, mboxBusy := t.mboxBusy, arrived := t.arrived, cores := t.cores
      bars := t.bars, tileFrames := t.tileFrames, mortarFrames := t.mortarFrames, tiles := t.tiles, ram := t.ram, ports := t.ports
      peers := t.peers, reports := t.reports, qry := t.qry }) : t.Idle := by
  rw [ht]
  exact { toCalm := h.toCalm.of_eq rfl rfl rfl rfl rfl rfl rfl rfl
          reqs := h.reqs, handoffs := h.handoffs, parks := h.parks, revives := h.revives, movesOut := h.movesOut, bonds := h.bonds
          bondWait := h.bondWait, alloc := h.alloc, scans := h.scans, ckps := h.ckps, loads := h.loads, early := h.early, late := h.late }

/-- A management message goes to the tail of its port's management queue. -/
theorem answerMsg_mgmt {s : State} {h : Hdr} {x : Port} (hx : s.ports.get? h.port = some x) (hu : x.up = true) {b : MsgBody} (hm : b.mgmt = true)
    (hv : b.vc = 0) (hc : b.cls .bg = .bg) : s.answerMsg h .bg b = { s with
      ports := s.ports.set h.port { x with mgmt := x.mgmt ++ [⟨h.reply b, 0, true, .bg, b.bytes, 0⟩] } } := by
  unfold State.answerMsg State.enqueue
  simp only [hx, hu, Bool.not_true, Bool.false_eq_true, if_false, hm, if_true, hv, hc]
  rfl

/-- Under a revoked partition key a port holds neither key nor open stream. -/
theorem dropPart_spec (x : Port) (k : Nat) : (x.dropPart k).keys.get? k = none ∧ (∀ j, j ≠ k → (x.dropPart k).keys.get? j = x.keys.get? j) ∧
    (∀ st ∈ (x.dropPart k).rxOpen, st.1 ≠ k) ∧ (x.dropPart k).mgmt = x.mgmt ∧ (x.dropPart k).up = x.up := by
  refine ⟨AMap.get?_erase_same .., fun j hj => AMap.get?_erase_other _ hj, fun st hst => ?_, rfl, rfl⟩
  simpa using (List.mem_filter.1 hst).2

section Management

variable {s : State} {h : Hdr} {i : Nat} {p : Peer}

theorem doPing_answers (hh : s.Hears h 9 false (some 36) i p) : ∃ t, doPing h s = t ∧ s.Says t h.port (h.reply (.ping true)) .bg ∧ s.Seen t i p ∧
    t = { s with ports := t.ports, peers := t.peers, aon := t.aon, freeCtr := t.freeCtr } := by
  obtain ⟨x, hx, hu⟩ := carries_port hh.port
  obtain ⟨hseen, hframe, -⟩ := peerSeen_frame hh.entry
  have hx' : (s.peerSeen i).ports.get? h.port = some x := by rw [hframe]; exact hx
  refine ⟨_, hh.receive _, ?_⟩
  rw [answerMsg_mgmt hx' hu rfl rfl rfl]
  exact ⟨⟨x, _, hx, rfl, rfl⟩, hseen, rfl⟩

theorem doPingTimer_pings {x : Port} (hp : s.peers.get? i = some p) (ha : p.state = .admitted) (hn : p.pings < 3) (hx : s.ports.get? p.port = some x)
    (hu : x.up = true) : ∃ t, doPingTimer i s = t ∧ s.Says t p.port ⟨p.fabric, 0, 0, 0, 0, 0, .ping false⟩ .bg ∧
      t = { s with ports := t.ports, peers := s.peers.set i { p with pings := p.pings + 1 } } := by
  have hdo : doPingTimer i s = State.sendTo { s with peers := s.peers.set i { p with pings := p.pings + 1 } } i 0 0 0 0 0 .bg (.ping false) := by
    unfold doPingTimer
    simp only [hp]
    rw [if_neg (not_not.2 ha), if_neg (Nat.not_le.2 hn)]
  obtain ⟨hsays, hframe⟩ := says_sendTo (s := { s with peers := s.peers.set i { p with pings := p.pings + 1 } }) (AMap.get?_set_same ..) hx hu
    0 0 0 0 0 .bg (.ping false) (fun _ => ⟨rfl, rfl⟩)
  exact ⟨_, hdo, hsays, hframe⟩

theorem doPingTimer_loses (hs : s.Idle) (hp : s.peers.get? i = some p) (ha : p.state = .admitted) (hn : 3 ≤ p.pings) (hask : p.asks = []) :
    doPingTimer i s = { s with
      peers := s.peers.erase i, sec := { s.sec with hops := s.sec.hops.filter (fun k => k != (p.port, p.fabric)) } } := by
  unfold doPingTimer
  simp only [hp]
  rw [if_neg (not_not.2 ha), if_pos hn, losePeer_idle hs hp hask]

theorem doLeave_loses (hs : s.Idle) (hh : s.Hears h 9 false (some 36) i p) (hask : p.asks = []) : ∃ t, doLeave h s = t ∧ t.peers.get? i = none ∧
    (∀ j, j ≠ i → t.peers.get? j = s.peers.get? j) ∧ t.sec = { s.sec with hops := s.sec.hops.filter (fun k => k != (p.port, p.fabric)) } ∧
    t = { s with peers := t.peers, sec := t.sec, aon := t.aon, freeCtr := t.freeCtr } := by
  obtain ⟨hseen, hframe, hp⟩ := peerSeen_frame hh.entry
  refine ⟨_, hh.receive _, ?_⟩
  dsimp only
  rw [losePeer_idle (s := s.peerSeen i) (hs.of_rest rfl) hp hask]
  refine ⟨AMap.get?_erase_same .., fun j hj => ?_, rfl, rfl⟩
  exact (AMap.get?_erase_other _ hj).trans (by rw [hseen]; exact AMap.get?_set_other _ _ hj)

theorem doKeyRevoke_answers {k e : Nat} (hh : s.Hears h 10 false (some 40) i p) (hk : k < 16) : ∃ t x y, doKeyRevoke h k e s = t ∧
    s.ports.get? h.port = some x ∧ t.ports.get? h.port = some y ∧ y.keys.get? k = none ∧ (∀ j, j ≠ k → y.keys.get? j = x.keys.get? j) ∧
    (∀ st ∈ y.rxOpen, st.1 ≠ k) ∧ y.mgmt = x.mgmt ++ [⟨h.reply (.keyRevoke k e true), 0, true, .bg, 40, 0⟩] ∧
    (∀ j, j ≠ h.port → t.ports.get? j = s.ports.get? j) ∧ s.Seen t i p ∧
    t = { s with ports := t.ports, peers := t.peers, aon := t.aon, freeCtr := t.freeCtr } := by
  obtain ⟨x, hx, hu⟩ := carries_port hh.port
  obtain ⟨hseen, hframe, -⟩ := peerSeen_frame hh.entry
  have hx' : (s.peerSeen i).ports.get? h.port = some x := by rw [hframe]; exact hx
  obtain ⟨hkeys, hothers, hopen, hmgmt, hup⟩ := dropPart_spec x k
  have hdo : doKeyRevoke h k e s = { s.peerSeen i with ports := s.ports.set h.port { x.dropPart k with
      mgmt := x.mgmt ++ [⟨h.reply (.keyRevoke k e true), 0, true, .bg, 40, 0⟩] } } := by
    unfold doKeyRevoke
    rw [if_pos hk, hh.receive, modPort_some hx', answerMsg_mgmt (x := x.dropPart k) (AMap.get?_set_same ..) (hup.trans hu) rfl rfl rfl]
    rw [hframe, hmgmt]
    exact congrArg (fun m => { s.peerSeen i with ports := m }) (AMap.set_set ..)
  exact ⟨_, x, _, hdo, hx, AMap.get?_set_same .., hkeys, hothers, hopen, rfl, fun j hj => AMap.get?_set_other _ _ hj, hseen, by rw [hframe]⟩

theorem doRehandshake_asks {ty tag : Nat} {x : Port} (hh : s.Hears h 8 false (some 44) i p) (hx : s.ports.get? p.port = some x) (hu : x.up = true) :
    ∃ t n, doRehandshake h ty tag s = t ∧ s.Says t p.port ⟨p.fabric, 0, 0, 0, 0, 0, .admitAsk p.parts n⟩ .bg ∧
      t.peers = s.peers.set i { p with state := .admitting, mine := true, gotQuote := false, nonces := [n], lastUse := t.aon, pings := 0 } ∧
      t = { s with ports := t.ports, peers := t.peers, aon := t.aon, freeCtr := t.freeCtr } := by
  obtain ⟨hseen, hframe, hp⟩ := peerSeen_frame hh.entry
  obtain ⟨v, hv⟩ : ∃ v, v = s.peerSeen i := ⟨_, rfl⟩
  rw [← hv] at hp hseen hframe
  obtain ⟨n, hn⟩ : ∃ n, n = Config.freeValue 77 v.draw.1 := ⟨_, rfl⟩
  obtain ⟨w, hw⟩ : ∃ w : State, w = { v.draw.2 with peers := s.peers.set i { p with
    state := .admitting, mine := true, gotQuote := false, nonces := [n], lastUse := v.aon, pings := 0 } } := ⟨_, rfl⟩
  have hdo : doRehandshake h ty tag s = w.sendTo i 0 0 0 0 0 .bg (.admitAsk p.parts n) := by
    unfold doRehandshake
    rw [hh.receive, ← hv]
    dsimp only
    rw [← hn, AMap.modify_some (by exact hp), show v.draw.2.peers = _ from hseen, AMap.set_set, hw]
  have hwp : w.peers.get? i = some { p with state := .admitting, mine := true, gotQuote := false, nonces := [n], lastUse := v.aon, pings := 0 } := by
    rw [hw]; exact AMap.get?_set_same ..
  have hwx : w.ports.get? p.port = some x := by rw [hw, hframe]; exact hx
  obtain ⟨hsays, hsend⟩ := says_sendTo hwp hwx hu 0 0 0 0 0 .bg (.admitAsk p.parts n) (fun _ => ⟨rfl, rfl⟩)
  have hports : w.ports = s.ports := by rw [hw, hframe]; rfl
  refine ⟨_, n, hdo, ?_, ?_, ?_⟩
  · unfold State.Says at hsays ⊢
    rwa [hports] at hsays
  · rw [hsend, hw]; rfl
  · rw [hsend, hw, hframe]; rfl

end Management

/-- Settles O22: each message by what its handler does once the peer has been heard. -/
theorem peerMessages : Obligations.PeerMessages := by
  intro s h i p hc hw
  refine ⟨fun hh => ?_, fun hh => ?_, fun x hp ha hn hx hu => ?_, fun hs hp ha hn hask => ?_, fun hs hh hask => ?_, fun k e hh hk => ?_,
    fun ty tag x hh hx hu => ?_⟩
  · obtain ⟨t, hdo, hsays, hseen, ht⟩ := doPing_answers hh
    exact ⟨t, next_event_peer hc hw hdo (by rw [ht]), hsays, hseen, ht⟩
  · obtain ⟨hseen, hframe, -⟩ := peerSeen_frame hh.entry
    exact ⟨_, next_event_peer hc hw (hh.receive (fun _ _ t => t)) (by rw [hframe]), hseen, hframe⟩
  · obtain ⟨t, hdo, hsays, ht⟩ := doPingTimer_pings hp ha hn hx hu
    exact ⟨t, next_event_peer hc hw hdo (by rw [ht]), hsays, ht⟩
  · exact next_event_peer hc hw (doPingTimer_loses hs hp ha hn hask) rfl
  · obtain ⟨t, hdo, h1, h2, h3, ht⟩ := doLeave_loses hs hh hask
    exact ⟨t, next_event_peer hc hw hdo (by rw [ht]), h1, h2, h3, ht⟩
  · obtain ⟨t, x, y, hdo, h1, h2, h3, h4, h5, h6, h7, h8, ht⟩ := doKeyRevoke_answers (e := e) hh hk
    exact ⟨t, x, y, next_event_peer hc hw hdo (by rw [ht]), h1, h2, h3, h4, h5, h6, h7, h8, ht⟩
  · obtain ⟨t, n, hdo, h1, h2, ht⟩ := doRehandshake_asks (ty := ty) (tag := tag) hh hx hu
    exact ⟨t, n, next_event_peer hc hw hdo (by rw [ht]), h1, h2, ht⟩

-- Admission (R588, R640, R642) ------------------------------------------------------------------------------------------------------------

theorem State.Brings.admission {s : State} {h : Hdr} {n : Nat} (hb : s.Brings h n) (k : State → State) : s.admission h (some n) k = k s := by
  unfold State.admission State.astray
  simp [hb.port, hb.dst, hb.good]

/-- The answer to an ADMIT_ASK (R640): a quote over the asker's nonce, and a nonce that the asker's quote must answer. -/
theorem answerAsk_some {s : State} {h : Hdr} {i nonce : Nat} {y : Peer} {x : Port} (hy : s.peers.get? i = some y) (hx : s.ports.get? h.port = some x)
    (hu : x.up = true) : ∃ n q c, s.answerAsk h i nonce = { s with
        freeCtr := s.freeCtr + 1, sec := { s.sec with quotes := s.sec.quotes + 1 }
        peers := s.peers.set i { y with nonces := y.nonces ++ [n] }
        ports := s.ports.set h.port { x with mgmt := x.mgmt ++ [⟨h.reply (.admitQuote n q c), 0, true, .bg, 72 + c, 0⟩] } } ∧
      q.purpose = 1 ∧ q.nonce = nonce ∧ q.part = none ∧ q.peerId = s.sec.fuses.peerId := by
  refine ⟨Config.freeValue 77 s.freeCtr, (s.draw.2.makeQuote 1 none nonce).1, certBytes (Config.freeValue 71 s.freeCtr), ?_, rfl, rfl, rfl, rfl⟩
  unfold State.answerAsk
  dsimp only
  rw [AMap.modify_some (by exact hy), answerMsg_mgmt (x := x) (by exact hx) hu rfl rfl rfl]
  rfl

/-- What is said of an ask once the entry `y` of the asker is set. -/
theorem answerAsk_says {s s1 : State} {h : Hdr} {i nonce : Nat} {y : Peer} (hb : s.carries h = true)
    (hs1 : s1 = { s with peers := s.peers.set i y }) : ∃ t n q c, s1.answerAsk h i nonce = t ∧ s.Says t h.port (h.reply (.admitQuote n q c)) .bg ∧
      q.purpose = 1 ∧ q.nonce = nonce ∧ q.part = none ∧ q.peerId = s.sec.fuses.peerId ∧
      t.peers = s.peers.set i { y with nonces := y.nonces ++ [n] } ∧
      t = { s with ports := t.ports, peers := t.peers, freeCtr := t.freeCtr, sec := { s.sec with quotes := s.sec.quotes + 1 } } := by
  obtain ⟨x, hx, hu⟩ := carries_port hb
  subst hs1
  obtain ⟨n, q, c, ht, h1, h2, h3, h4⟩ := answerAsk_some (s := { s with peers := s.peers.set i y }) (nonce := nonce)
    (AMap.get?_set_same s.peers i y) hx hu
  exact ⟨_, n, q, c, ht, ⟨x, _, hx, rfl, rfl⟩, h1, h2, h3, h4, AMap.set_set .., rfl⟩

theorem newEntry_free {s : State} {i : Nat} (h : (List.range 1024).find? (fun j => !(s.peers.has j)) = some i) : s.newEntry = some (i, s) := by
  unfold State.newEntry
  rw [h]

section Ask

variable {s : State} {h : Hdr} {id : Word64} {role parts nonce : Nat} (hb : s.Brings h 84)
include hb

theorem doAdmitAsk_new {i : Nat} (hr : role < 2) (ha : s.admitting h.src = none) (hn : (List.range 1024).find? (fun j => !(s.peers.has j)) = some i) :
    doAdmitAsk h id role parts nonce s = State.answerAsk { s with
      peers := s.peers.set i ⟨id, .admitting, role == 1, h.port, parts % 65536, h.src, s.aon, 0, false, false, [], []⟩ } h i nonce := by
  unfold doAdmitAsk
  rw [if_pos (by omega), hb.admission, if_neg (by omega), ha, newEntry_free hn]

theorem doAdmitAsk_joins {i : Nat} {x : Peer} (hr : role < 2) (ha : s.admitting h.src = some (i, x)) :
    doAdmitAsk h id role parts nonce s = State.answerAsk { s with
      peers := s.peers.set i { x with id := id, device := role == 1, parts := x.parts ||| parts % 65536, port := h.port } } h i nonce := by
  unfold doAdmitAsk
  rw [if_pos (by omega), hb.admission, if_neg (by omega), ha]

theorem doAdmitAsk_switch (hr : role = 2) : doAdmitAsk h id role parts nonce s = State.answerAsk { s with
      peers := s.peers.set (1024 + h.port) ⟨id, .admitting, false, h.port, 0, h.src, s.aon, 0, false, false, [], []⟩ } h (1024 + h.port) nonce := by
  unfold doAdmitAsk
  rw [if_pos (by omega), hb.admission, if_pos hr]

theorem doAdmitAsk_full (hr : role < 2) (ha : s.admitting h.src = none) (hn : s.newEntry = none) :
    doAdmitAsk h id role parts nonce s = s.answerMsg h .bg (.admitDone .peerTableFull) := by
  unfold doAdmitAsk
  rw [if_pos (by omega), hb.admission, if_neg (by omega), ha, hn]

end Ask

/-- A failed attestation that leaves the failures of the last 60 s below ATTEST_LIMIT counts and no more (R645, R656). -/
theorem attestFail_below {s : State} (h : s.sec.fails.length + 1 < s.fld Fld.SEC_ALARM_POLICY_ATTEST_LIMIT) : s.attestFail = { s.tick with
    sec := { s.sec with fails := s.tick.recentFails ++ [s.tick.aon], raw := clearSource s.sec.raw 6 } } := by
  have hlimit (r : Nat) :
      State.failsLimit { s.tick with sec := { s.sec with fails := s.tick.recentFails ++ [s.tick.aon], raw := r } } = false := by
    have hold : s.tick.recentFails.length ≤ s.sec.fails.length := List.length_filter_le ..
    have hnew : (State.recentFails { s.tick with sec := { s.sec with fails := s.tick.recentFails ++ [s.tick.aon], raw := r } }).length ≤
        s.tick.recentFails.length + 1 := (List.length_filter_le ..).trans (by simp)
    exact Bool.and_eq_false_iff.2 (.inl (decide_eq_false (fun hle => by
      have : s.fld Fld.SEC_ALARM_POLICY_ATTEST_LIMIT ≤ _ := hle
      omega)))
  unfold State.attestFail
  dsimp only
  rw [show State.failsLimit { s.tick with sec := { s.tick.sec with fails := s.tick.recentFails ++ [s.tick.aon] } } = false from hlimit s.sec.raw]
  exact if_neg (Bool.eq_false_iff.1 (hlimit (clearSource s.sec.raw 6)))

theorem attestFail_first {s : State} (hf : s.sec.fails = []) (hl : 1 < s.fld Fld.SEC_ALARM_POLICY_ATTEST_LIMIT) : s.attestFail = { s.tick with
    sec := { s.sec with fails := [s.tick.aon], raw := clearSource s.sec.raw 6 } } := by
  have hnone : s.tick.recentFails = [] := by
    unfold State.recentFails
    rw [show s.tick.sec.fails = [] from hf]
    rfl
  rw [attestFail_below (by rw [hf]; exact hl), hnone]
  rfl

/-- The keys that a hop lacks are installed; those that it has, and every other, are as they were (R588 order 5). -/
theorem addKeys_spec (l : List Nat) : ∀ ks : AMap Nat PortKey,
    (∀ k ∈ l, (l.foldl (fun (a : AMap Nat PortKey) p => if a.has p then a else a.set p PortKey.new) ks).has k = true) ∧
    (∀ k v, ks.get? k = some v → (l.foldl (fun (a : AMap Nat PortKey) p => if a.has p then a else a.set p PortKey.new) ks).get? k = some v) ∧
    (∀ k, k ∉ l → (l.foldl (fun (a : AMap Nat PortKey) p => if a.has p then a else a.set p PortKey.new) ks).get? k = ks.get? k) := by
  induction l with
  | nil => exact fun ks => ⟨fun _ h => absurd h List.not_mem_nil, fun _ _ h => h, fun _ _ => rfl⟩
  | cons p l ih =>
    intro ks
    obtain ⟨h1, h2, h3⟩ := ih (if ks.has p then ks else ks.set p PortKey.new)
    have hp : ∃ v, AMap.get? (if ks.has p then ks else ks.set p PortKey.new) p = some v := by
      split
      · next h => exact Option.isSome_iff_exists.1 h
      · exact ⟨_, AMap.get?_set_same ..⟩
    have hkeep (k : Nat) (h : k ≠ p ∨ ks.has p = true) : AMap.get? (if ks.has p then ks else ks.set p PortKey.new) k = ks.get? k := by
      split
      · rfl
      · next hn => exact AMap.get?_set_other _ _ (h.resolve_right hn)
    refine ⟨fun k hk => ?_, fun k v hv => h2 k v ?_, fun k hk => (h3 k (fun h => hk (List.mem_cons_of_mem _ h))).trans (hkeep k (.inl ?_))⟩
    · rcases List.mem_cons.1 hk with rfl | hk
      · obtain ⟨v, hv⟩ := hp
        exact Option.isSome_iff_exists.2 ⟨v, h2 k v hv⟩
      · exact h1 k hk
    · refine (hkeep k ?_).trans hv
      by_cases hkp : k = p
      · exact .inr (hkp ▸ Option.isSome_iff_exists.2 ⟨v, hv⟩)
      · exact .inl hkp
    · exact fun h => hk (h ▸ List.mem_cons_self ..)

theorem mem_partsOf {g k : Nat} : k ∈ partsOf g ↔ k < 16 ∧ bitOf g k = true := by
  unfold partsOf bitPositions
  simp

/-- Once a port has agreed a hop secret, an agreement adds the partition keys that it lacks. -/
theorem agreeKeys_again {s : State} {n fabric : Nat} {x : Port} (hx : s.ports.get? n = some x) (hh : s.sec.hops.any (fun k => k.1 == n) = true)
    (parts : List Nat) : s.agreeKeys n fabric parts = { s with ports := s.ports.set n (x.addKeys parts) } := by
  unfold State.agreeKeys
  simp only [hx]
  rw [if_pos hh, modPort_some hx]

section Quote

variable {s : State} {h : Hdr} {id : Word64} {d : Bool} {q : PeerQuote} {next i : Nat} {x : Peer}

/-- A verified quote of an endpoint that the table does not hold yet (R588 orders 4 to 6). -/
theorem admitted_new {y : Port} {g : Nat} (hi : i < 1024) (hg : g = x.parts &&& s.portParts h.port) (hy : s.ports.get? h.port = some y)
    (hu : y.up = true) (hnew : s.peers.find? (fun kv => kv.1 != i && kv.2.id == id && kv.2.state == .admitted) = none)
    (hh : s.sec.hops.any (fun k => k.1 == h.port) = true) : s.admitted h i x id d = { s with
      peers := s.peers.set i { x with id := id, device := d, state := .admitted, port := h.port, parts := g, gotQuote := true, lastUse := s.aon }
      ports := s.ports.set h.port { y.addKeys (partsOf g) with mgmt := y.mgmt ++ [⟨h.reply (.admitDone .ok), 0, true, .bg, 52, 0⟩] } } := by
  unfold State.admitted
  dsimp only
  rw [← hg, if_pos hi, agreeKeys_again hy hh, if_neg (Nat.not_le.2 hi)]
  dsimp only
  rw [hnew]
  dsimp only
  rw [answerMsg_mgmt (x := y.addKeys (partsOf g)) (by exact AMap.get?_set_same s.ports _ _) hu rfl rfl rfl]
  dsimp only
  rw [AMap.set_set]
  rfl

/-- The initiator's own quote (R640). -/
theorem answerQuote_some {y : Port} (hy : s.ports.get? h.port = some y) (hu : y.up = true) : ∃ n o c, s.answerQuote h next = { s with
      freeCtr := s.freeCtr + 1, sec := { s.sec with quotes := s.sec.quotes + 1 }
      ports := s.ports.set h.port { y with mgmt := y.mgmt ++ [⟨h.reply (.admitQuote n o c), 0, true, .bg, 72 + c, 0⟩] } } ∧
    o.purpose = 1 ∧ o.nonce = next := by
  refine ⟨Config.freeValue 77 s.freeCtr, (s.draw.2.makeQuote 1 none next).1, certBytes (Config.freeValue 71 s.freeCtr), ?_, rfl, rfl⟩
  unfold State.answerQuote
  dsimp only
  rw [answerMsg_mgmt (x := y) (by exact hy) hu rfl rfl rfl]
  rfl

variable (hb : s.Brings h (552 + q.akLen + q.dikLen)) (h1 : q.akLen ≤ 2048) (h2 : q.dikLen ≤ 2048) (ha : s.admitting h.src = some (i, x))
include hb h1 h2 ha

theorem doAdmitQuote_fails (hq : s.quotePasses i x q = false) :
    doAdmitQuote h id d q next s = (s.answerMsg h .bg (.admitDone .securityAttestation)).admitFails i := by
  unfold doAdmitQuote
  rw [if_pos ⟨h1, h2⟩, hb.admission, ha]
  dsimp only
  rw [hq]
  rfl

theorem doAdmitQuote_passes (hq : s.quotePasses i x q = true) :
    doAdmitQuote h id d q next s = (if x.mine then s.answerQuote h next else s).admitted h i x id (d || x.device) := by
  unfold doAdmitQuote
  rw [if_pos ⟨h1, h2⟩, hb.admission, ha]
  dsimp only
  rw [hq]
  rfl

/-- A quote that does not verify frees the entry, is answered and counts (R588, R642). -/
theorem doAdmitQuote_refuses (hx : s.peers.get? i = some x) (hq : s.quotePasses i x q = false) (hask : x.asks = []) (hf : s.sec.fails = [])
    (hl : 1 < s.fld Fld.SEC_ALARM_POLICY_ATTEST_LIMIT) : ∃ t, doAdmitQuote h id d q next s = t ∧ t.peers = s.peers.erase i ∧
      s.Says t h.port (h.reply (.admitDone .securityAttestation)) .bg ∧ t.sec = { s.sec with fails := [t.aon], raw := t.sec.raw } ∧
      t.fld Fld.CMP_ATTEST_FAILS_COUNT = (s.fld Fld.CMP_ATTEST_FAILS_COUNT + 1) % 2 ^ 32 ∧
      t = { s with peers := t.peers, ports := t.ports, regs := t.regs, sec := t.sec, aon := t.aon, freeCtr := t.freeCtr } := by
  obtain ⟨y, hy, hu⟩ := carries_port hb.port
  have hdrop : State.dropAdmission { s with ports := s.ports.set h.port { y with
      mgmt := y.mgmt ++ [⟨h.reply (.admitDone .securityAttestation), 0, true, .bg, 52, 0⟩] } } i .securityAttestation = { s with
      ports := s.ports.set h.port { y with mgmt := y.mgmt ++ [⟨h.reply (.admitDone .securityAttestation), 0, true, .bg, 52, 0⟩] }
      peers := s.peers.erase i } := by
    unfold State.dropAdmission
    simp only [hx, hask, List.foldl_nil]
  obtain ⟨v, hv⟩ : ∃ v : State, v = State.bump { s with
      ports := s.ports.set h.port { y with mgmt := y.mgmt ++ [⟨h.reply (.admitDone .securityAttestation), 0, true, .bg, 52, 0⟩] }
      peers := s.peers.erase i } Fld.CMP_ATTEST_FAILS_COUNT := ⟨_, rfl⟩
  have hlimit : v.fld Fld.SEC_ALARM_POLICY_ATTEST_LIMIT = s.fld Fld.SEC_ALARM_POLICY_ATTEST_LIMIT := by
    rw [hv]
    exact fld_setFld_other s Fld.CMP_ATTEST_FAILS_COUNT Fld.SEC_ALARM_POLICY_ATTEST_LIMIT _ 0 0 0 0 (by decide) (by decide) (.inl (by decide))
  have hcount : v.fld Fld.CMP_ATTEST_FAILS_COUNT = (s.fld Fld.CMP_ATTEST_FAILS_COUNT + 1) % 2 ^ 32 := by
    rw [hv]
    exact fld_bump s Fld.CMP_ATTEST_FAILS_COUNT 0 1 (by decide) (by decide)
  have hdo : doAdmitQuote h id d q next s = v.attestFail := by
    rw [doAdmitQuote_fails hb h1 h2 ha hq, answerMsg_mgmt hy hu rfl rfl rfl]
    unfold State.admitFails
    rw [show (MsgBody.admitDone .securityAttestation).bytes = 52 from rfl, hdrop, hv]
  refine ⟨_, hdo.trans (attestFail_first (by rw [hv]; exact hf) (hlimit ▸ hl)), ?_, ⟨y, _, hy, rfl, ?_⟩, ?_, hcount, ?_⟩ <;> rw [hv] <;> rfl

/-- A quote that verifies admits the peer (R588, R640, R642). -/
theorem doAdmitQuote_admits {g : Nat} {y : Port} (hq : s.quotePasses i x q = true) (hi : i < 1024) (hg : g = x.parts &&& s.portParts h.port)
    (hy : s.ports.get? h.port = some y) (hnew : s.peers.find? (fun kv => kv.1 != i && kv.2.id == id && kv.2.state == .admitted) = none)
    (hh : s.sec.hops.any (fun k => k.1 == h.port) = true) : ∃ m r, doAdmitQuote h id d q next s = { s with
        freeCtr := m, sec := { s.sec with quotes := s.sec.quotes + (if x.mine then 1 else 0) }
        peers := s.peers.set i { x with id := id, device := d || x.device, state := .admitted, port := h.port, parts := g, gotQuote := true,
                                        lastUse := s.aon }
        ports := s.ports.set h.port { y.addKeys (partsOf g) with mgmt := y.mgmt ++ r ++ [⟨h.reply (.admitDone .ok), 0, true, .bg, 52, 0⟩] } } ∧
      (if x.mine then ∃ n o c, r = [⟨h.reply (.admitQuote n o c), 0, true, .bg, 72 + c, 0⟩] ∧ o.purpose = 1 ∧ o.nonce = next else r = []) := by
  have hu : y.up = true := by
    obtain ⟨y', hy', hu⟩ := carries_port hb.port
    rwa [Option.some.inj (hy.symm.trans hy')]
  have hdo := doAdmitQuote_passes (id := id) (d := d) (next := next) hb h1 h2 ha hq
  by_cases hm : x.mine = true
  · obtain ⟨n, o, c, ht, ho1, ho2⟩ := answerQuote_some (next := next) hy hu
    rw [if_pos hm, ht] at hdo
    refine ⟨s.freeCtr + 1, [⟨h.reply (.admitQuote n o c), 0, true, .bg, 72 + c, 0⟩], hdo.trans ?_, ?_⟩
    · refine Eq.trans (admitted_new (y := { y with mgmt := y.mgmt ++ [⟨h.reply (.admitQuote n o c), 0, true, .bg, 72 + c, 0⟩] }) hi hg
        (AMap.get?_set_same ..) hu hnew hh) ?_
      dsimp only
      rw [AMap.set_set, if_pos hm]
      rfl
    · rw [if_pos hm]
      exact ⟨n, o, c, rfl, ho1, ho2⟩
  · rw [if_neg hm] at hdo
    refine ⟨s.freeCtr, [], hdo.trans ((admitted_new hi hg hy hu hnew hh).trans ?_), by rw [if_neg hm]⟩
    rw [if_neg hm, List.append_nil]
    rfl

end Quote

/-- The right confirmation completes an admission (R588). -/
theorem doAdmitDone_completes {s : State} {h : Hdr} {i : Nat} {x : Peer} (hb : s.Brings h 52) (hp : s.peerOfSrc h.src = some (i, x))
    (hq : x.gotQuote = true) (hask : x.asks = []) :
    doAdmitDone h true s = State.peerSeen { s with peers := s.peers.set i { x with asks := [], gotQuote := false } } i := by
  unfold doAdmitDone
  rw [hb.admission, hp]
  dsimp only
  rw [hq, hask]
  rfl

/-- Without both quotes in time the entry is free again (R588). -/
theorem doAdmitTimeout_frees {s : State} {i : Nat} {x : Peer} (hx : s.peers.get? i = some x) (ha : x.state = .admitting) (hask : x.asks = []) :
    doAdmitTimeout i s = { s with peers := s.peers.erase i, freeCtr := s.freeCtr + 1 } := by
  have hdrop : State.dropAdmission s.draw.2 i (Status.open_ (Config.freeValue 16 s.draw.1)) = { s with
      peers := s.peers.erase i, freeCtr := s.freeCtr + 1 } := by
    unfold State.dropAdmission
    simp only [show s.draw.2.peers.get? i = some x from hx, hask, List.foldl_nil]
    rfl
  unfold doAdmitTimeout
  simp only [hx]
  rw [if_neg (not_not.2 ha), hdrop]

/-- Settles O23: by the message of the admission, and by what the table holds for its sender. -/
theorem admission : Obligations.Admission := by
  intro s h hc hw
  refine ⟨fun id role parts nonce hb => ⟨fun i hr ha hn => ?_, fun i x hr ha hx => ?_, fun hr => ?_, fun hr ha hn => ?_⟩,
    fun id d q next i x hb h1 h2 ha hx => ⟨fun hq hask hf hl => ?_, fun g y hq hi hg hy hnew hh => ?_⟩, fun i x hb hp hx hq hask => ?_,
    fun i x hx ha hask => ?_⟩
  · obtain ⟨t, n, q, c, ht, hsays, q1, q2, q3, q4, hpeers, hframe⟩ := answerAsk_says (nonce := nonce) hb.port rfl
    exact ⟨t, n, q, c, next_event_peer hc hw ((doAdmitAsk_new hb hr ha hn).trans ht) (by rw [hframe]), hsays, q1, q2, q3, q4, hpeers, hframe⟩
  · obtain ⟨t, n, q, c, ht, hsays, q1, q2, q3, -, hpeers, hframe⟩ := answerAsk_says (nonce := nonce) hb.port rfl
    exact ⟨t, n, q, c, next_event_peer hc hw ((doAdmitAsk_joins hb hr ha).trans ht) (by rw [hframe]), hsays, q1, q2, q3, hpeers, hframe⟩
  · obtain ⟨t, n, q, c, ht, hsays, q1, q2, q3, -, hpeers, hframe⟩ := answerAsk_says (nonce := nonce) hb.port rfl
    exact ⟨t, n, q, c, next_event_peer hc hw ((doAdmitAsk_switch hb hr).trans ht) (by rw [hframe]), hsays, q1, q2, q3, hpeers, hframe⟩
  · obtain ⟨x, hx, hu⟩ := carries_port hb.port
    refine ⟨_, next_event_peer hc hw ((doAdmitAsk_full hb hr ha hn).trans (answerMsg_mgmt hx hu rfl rfl rfl)) rfl, ⟨x, _, hx, rfl, rfl⟩, rfl⟩
  · obtain ⟨t, ht, hpeers, hsays, hsec, hcount, hframe⟩ := doAdmitQuote_refuses (id := id) (d := d) (next := next) hb h1 h2 ha hx hq hask hf hl
    exact ⟨t, next_event_peer hc hw ht (by rw [hframe]), hpeers, hsays, hsec, hcount, hframe⟩
  · obtain ⟨m, r, hdo, hr⟩ := doAdmitQuote_admits (id := id) (d := d) (next := next) hb h1 h2 ha hq hi hg hy hnew hh
    obtain ⟨k1, k2, k3⟩ := addKeys_spec (partsOf g) y.keys
    refine ⟨_, _, r, next_event_peer hc hw hdo rfl, rfl, rfl, rfl, fun k hk hbit => k1 k (mem_partsOf.2 ⟨hk, hbit⟩), k2, fun k hk => k3 k ?_, rfl, hr, rfl⟩
    rw [mem_partsOf]
    rintro ⟨hlt, hbit⟩
    rcases hk with hk | hk
    · omega
    · rw [hk] at hbit; cases hbit
  · obtain ⟨hseen, hframe, -⟩ := peerSeen_frame (s := { s with peers := s.peers.set i { x with asks := [], gotQuote := false } })
      (AMap.get?_set_same s.peers i _)
    refine ⟨_, next_event_peer hc hw (doAdmitDone_completes hb hp hq hask) (by rw [hframe]), hseen.trans (AMap.set_set ..), by rw [hframe]⟩
  · exact next_event_peer hc hw (doAdmitTimeout_frees hx ha hask) rfl

end Sys2Proof.Machine
end

section
/-!
PROOFS. Alarms and the release of keys (O9, O51).
-/

namespace Sys2Proof.Machine

open Sys2Proof

-- Alarms (R656 to R659) --------------------------------------------------------------------------------------------------------------------

/-- What the record of an alarm leaves: nothing but errors, and the number of the record in the vault. -/
theorem raiseAlarm_recorded {s : State} (h : s.Idle) (n : Nat) : ∃ e a c r l, State.Idle { s with
      err := e, aon := a, freeCtr := c, regs := r, out := l ++ s.out, sec := { s.sec with record := s.err.nextSeq } } ∧
    s.Logs { s with err := e, aon := a, freeCtr := c, regs := r, out := l ++ s.out, sec := { s.sec with record := s.err.nextSeq } } .uc 12 none n 0 ∧
    s.raiseAlarm n = if s.alarmLevel n = 3 then (State.latchAlarm { s with
        err := e, aon := a, freeCtr := c, regs := r, out := l ++ s.out, sec := { s.sec with record := s.err.nextSeq } } n 3).zeroise
      else if s.alarmLevel n = 2 then State.latchAlarm { s with
        err := e, aon := a, freeCtr := c, regs := r, out := l ++ s.out, sec := { s.sec with record := s.err.nextSeq } } n 2
      else { s with err := e, aon := a, freeCtr := c, regs := r, out := l ++ s.out, sec := { s.sec with record := s.err.nextSeq } } := by
  obtain ⟨-, hlog, hnext, -⟩ := detect_alone s (f := { cls := .uc, source := 12, part := none, location := n }) (fun h => nomatch h)
  obtain ⟨e, a, c, r, l, ht⟩ := rec_detect_alone s { cls := .uc, source := 12, part := none, location := n }
  have hrec : s.record { cls := .uc, source := 12, part := none, location := n } = { s with
      err := e, aon := a, freeCtr := c, regs := r, out := l ++ s.out } := ht
  rw [ht] at hlog hnext
  refine ⟨e, a, c, r, l, h.of_rest rfl, hlog.of_ring rfl, ?_⟩
  unfold State.raiseAlarm
  dsimp only
  rw [hrec]
  dsimp only
  rw [ show e.next = s.err.nextSeq from hnext]

/-- A2 in an idle device (R658): the source latches, the board is told, and the partitions freeze. -/
theorem latchAlarm_idle {s : State} (h : s.Idle) (hf : s.sec.frozen = false) (n level : Nat) : ∃ b c, s.latchAlarm n level = { s with
    sec := { s.sec with latched := setSource s.sec.latched n, level := Nat.max s.sec.level level, frozen := true }
    pins := { s.pins with alarmOut := true }, bars := b, cores := c } := by
  obtain ⟨v, hv⟩ : ∃ v : State, v = { s with
    sec := { s.sec with latched := setSource s.sec.latched n, level := Nat.max s.sec.level level, frozen := true }
    pins := { s.pins with alarmOut := true } } := ⟨_, rfl⟩
  have hidle : v.Idle := by rw [hv]; exact h.of_rest rfl
  obtain ⟨b, c, hb⟩ := alarmFreezes_idle hidle allParts
  refine ⟨b, c, ?_⟩
  unfold State.latchAlarm
  dsimp only
  rw [hf, h.removals, List.map_nil, ← h.removals]
  refine Eq.trans ?_ (hb.trans (by rw [hv]))
  rw [hv]
  rfl

/-- A source that is detected while it was not present raises its alarm. -/
theorem alarmSource_raises {s : State} {n : Nat} (hp : s.boot.phase ≠ .off) (hr : bitOf s.sec.raw n = false) :
    s.alarmSource n true = State.raiseAlarm { s with sec := { s.sec with raw := s.sec.raw + 2 ^ n } } n := by
  unfold State.alarmSource
  rw [if_neg hp, if_pos rfl, hr, setSource, hr]
  rfl

theorem alarmSource_gone {s : State} {n : Nat} (hp : s.boot.phase ≠ .off) :
    s.alarmSource n false = { s with sec := { s.sec with raw := clearSource s.sec.raw n } } := by
  unfold State.alarmSource
  rw [if_neg hp]
  rfl

/-- Settles O9: by the level of the source. -/
theorem alarms : Obligations.Alarms := by
  intro s h hp
  have hraw (n : Nat) : State.Idle { s with sec := { s.sec with raw := s.sec.raw + 2 ^ n } } := h.of_rest rfl
  refine ⟨fun n hn hr hl => ?_, fun n hn hr hl hf => ?_, fun n hn hr hl hf => ?_, fun n hn => ?_, fun n hn => ?_⟩
  · obtain ⟨e, a, c, r, l, hidle, hlog, hdo⟩ := raiseAlarm_recorded (hraw (4 + n)) (4 + n)
    have hdo := (hdo.trans (if_neg (fun h3 => absurd (hl.symm.trans h3) (by decide)))).trans (if_neg (fun h2 => absurd (hl.symm.trans h2) (by decide)))
    exact ⟨_, next_always ((if_pos hn).trans ((alarmSource_raises hp hr).trans hdo)) hidle.toCalm, hlog, rfl, rfl⟩
  · obtain ⟨e, a, c, r, l, hidle, hlog, hdo⟩ := raiseAlarm_recorded (hraw n) n
    obtain ⟨b, k, hlatch⟩ := latchAlarm_idle hidle hf n 2
    have hdo := ((hdo.trans (if_neg (fun h3 => absurd (hl.symm.trans h3) (by decide)))).trans (if_pos hl)).trans hlatch
    exact ⟨_, next_always ((if_pos hn).trans ((alarmSource_raises hp hr).trans hdo)) (hidle.toCalm.of_eq rfl rfl rfl rfl rfl rfl rfl rfl),
      hlog.of_ring rfl, rfl, rfl, rfl⟩
  · obtain ⟨e, a, c, r, l, hidle, hlog, hdo⟩ := raiseAlarm_recorded (hraw n) n
    obtain ⟨b, k, hlatch⟩ := latchAlarm_idle hidle hf n 3
    have hdo := (hdo.trans (if_pos hl)).trans (congrArg State.zeroise hlatch)
    refine ⟨_, next_always ((if_pos hn).trans ((alarmSource_raises hp hr).trans hdo)) ?_, hlog.of_ring rfl, rfl, rfl, rfl, rfl, rfl, rfl, rfl, rfl,
      rfl, rfl, rfl, rfl, rfl, rfl, rfl⟩
    exact ⟨fun _ hk => absurd hk List.not_mem_nil, rfl, rfl, h.maps, h.resets, h.removals, h.removes, h.restart⟩
  · exact next_always ((if_pos (by exact hn)).trans (alarmSource_gone hp)) (h.toCalm.of_eq rfl rfl rfl rfl rfl rfl rfl rfl)
  · exact next_always ((if_pos (by exact hn)).trans (alarmSource_gone hp)) (h.toCalm.of_eq rfl rfl rfl rfl rfl rfl rfl rfl)

-- Quotes and key release (R638, R643, R645) ---------------------------------------------------------------------------------------------------

/-- Outputs written in two parts are outputs written. -/
theorem io_of_twice {s t : State} {l l' : List Out} {m a b d e} (h : t = { s with
    out := l' ++ (l ++ s.out), pmc := m, sqs := a, cqs := b, bounce := d, arrived := e }) : s.Io t :=
  ⟨l' ++ l, m, a, b, d, e, by rw [h, List.append_assoc]⟩

/-- A completion buffer leaves queues and all else but the outputs and the bounce counters. -/
theorem buf_frame (s : State) (f : Fn) (d : HostData) : ∃ b, s.buf f d = { s with out := .data f d :: s.out, bounce := b } := by
  unfold State.buf
  obtain ⟨b, hb⟩ := sealed_frame (s.put (.data f d)) f
  exact ⟨b, hb⟩

section KeySlots

variable {s : State} {u : Sub} {p slot : Nat} (hp : s.subPart u = p) (hconf : (s.sec.conf.contains p && u.fn.isPf) = false)
include hp hconf

/-- KEY_QUOTE for a tenant key (R643). -/
theorem doKeyQuote_quotes {k : KeySlot} (hk : s.sec.slots.get? slot = some k) (ho : k.owner = some p) (hkind : k.kind = 2 ∨ k.kind = 3) (nonce : Nat) :
    doKeyQuote u slot nonce s = State.complete (State.buf { s with
      freeCtr := s.freeCtr + 1
      sec := { s.sec with quotes := s.sec.quotes + 1, slots := s.sec.slots.set slot { k with quote := some (s.sec.quotes + 1) } } } u.fn
      (.quote (s.draw.2.makeQuote 2 (some p) nonce).1)) u .ok (certBytes (Config.freeValue 71 s.freeCtr)) := by
  have hholds : (s.holdsSlot p 2 slot || s.holdsSlot p 3 slot) = true := by
    unfold State.holdsSlot
    simp only [hk, ho]
    rcases hkind with h | h <;> simp [h]
  unfold doKeyQuote
  dsimp only
  rw [hp, hconf, hholds]
  dsimp only [State.makeQuote, State.draw]
  rw [AMap.modify_some hk]
  rfl

/-- A slot without a tenant key of the partition has no quote (log entry 39). -/
theorem doKeyQuote_none (h : ∀ k, s.sec.slots.get? slot = some k → k.owner = some p → k.kind ≠ 2 ∧ k.kind ≠ 3) (nonce : Nat) :
    doKeyQuote u slot nonce s = s.draw.2.complete u (Status.open_ (Config.freeValue 20 s.freeCtr)) := by
  have hholds : (s.holdsSlot p 2 slot || s.holdsSlot p 3 slot) = false := by
    unfold State.holdsSlot
    cases hk : s.sec.slots.get? slot with
    | none => rfl
    | some k =>
      by_cases ho : k.owner = some p
      · obtain ⟨h2, h3⟩ := h k hk ho
        simp [h2, h3]
      · simp [ho]
  unfold doKeyQuote
  dsimp only
  rw [hp, hconf, hholds]
  rfl

variable {b : Blob} {k : KeySlot} (hk : s.sec.slots.get? slot = some k) (ho : k.owner = some p) (hkind : k.kind = 2 ∨ k.kind = 3)
include hk ho hkind

theorem doKeyImport_loads (hb : b.passes k = true) : doKeyImport u slot b s = State.complete { s with
    sec := { s.sec with slots := s.sec.slots.set slot { k with state := .loaded, epoch := s.epochOf p, quote := none, retain := b.retain } } } u .ok := by
  unfold doKeyImport
  dsimp only
  rw [hp, hconf, hk]
  dsimp only
  rw [if_neg Bool.false_ne_true, if_neg (by rcases hkind with h | h <;> simp [ho, h]), if_pos hb]

theorem doKeyImport_fails (hb : b.passes k = false) : doKeyImport u slot b s = ((State.bump { s with
    sec := { s.sec with slots := s.sec.slots.set slot { k with state := .provisioned, quote := none } } }
      Fld.SEC_RELEASE_FAILS_COUNT p).attestFail).complete u .securityKeyRelease := by
  unfold doKeyImport
  dsimp only
  rw [hp, hconf, hk]
  dsimp only
  rw [if_neg Bool.false_ne_true, if_neg (by rcases hkind with h | h <;> simp [ho, h]), if_neg (by simp [hb])]

end KeySlots

theorem doKeyQuote_confidential {s : State} {u : Sub} {slot : Nat} (h : (s.sec.conf.contains (s.subPart u) && u.fn.isPf) = true) (nonce : Nat) :
    doKeyQuote u slot nonce s = s.complete u .securityConfidential := if_pos h

theorem doKeyImport_confidential {s : State} {u : Sub} {slot : Nat} (h : (s.sec.conf.contains (s.subPart u) && u.fn.isPf) = true) (b : Blob) :
    doKeyImport u slot b s = s.complete u .securityConfidential := if_pos h

theorem blob_passes_iff (b : Blob) (k : KeySlot) : b.passes k = true ↔
    b.sigOk = true ∧ k.quote = some b.quote ∧ b.kind = k.kind ∧ (b.kind = 2 → b.image = k.image) ∧ b.tagOk = true := by
  have himage : (b.kind != 2 || b.image == k.image) = true ↔ (b.kind = 2 → b.image = k.image) := by
    by_cases h : b.kind = 2 <;> simp [h]
  unfold Blob.passes
  rw [Bool.and_eq_true, Bool.and_eq_true, Bool.and_eq_true, Bool.and_eq_true, himage, beq_iff_eq, beq_iff_eq]
  tauto

theorem blob_fails {b : Blob} {k : KeySlot} (h : b.sigOk = false ∨ k.quote ≠ some b.quote ∨ b.kind ≠ k.kind ∨ (b.kind = 2 ∧ b.image ≠ k.image) ∨
    b.tagOk = false) : b.passes k = false := by
  refine Bool.eq_false_iff.2 (fun hp => ?_)
  obtain ⟨h1, h2, h3, h4, h5⟩ := (blob_passes_iff b k).1 hp
  rcases h with h | h | h | ⟨h, h'⟩ | h
  · rw [h1] at h; cases h
  · exact h h2
  · exact h h3
  · exact h' (h4 h)
  · rw [h5] at h; cases h

/-- KEY_QUOTE's quote is over the fields of the device, and only its number and the outputs remember it. -/
theorem quotes_posts {s : State} {u : Sub} {p slot nonce : Nat} {k : KeySlot} (hc : s.Calm) (hp : s.subPart u = p)
    (hconf : (s.sec.conf.contains p && u.fn.isPf) = false) (ht : s.Takes u (.keyQuote slot nonce)) (hk : s.sec.slots.get? slot = some k)
    (ho : k.owner = some p) (hkind : k.kind = 2 ∨ k.kind = 3) :
    ∃ t, exec (.keyQuote u slot nonce) s = .next t ∧ s.Writes t (.data u.fn (.quote (s.makeQuote 2 (some p) nonce).1)) ∧
      s.Posts t u .ok (certBytes (Config.freeValue 71 s.freeCtr)) 0 ∧
      t.sec = { s.sec with quotes := s.sec.quotes + 1, slots := s.sec.slots.set slot { k with quote := some (s.sec.quotes + 1) } } ∧
      s.Io { t with sec := s.sec, freeCtr := s.freeCtr } := by
  obtain ⟨s', t, hex, hpost, hs', hio⟩ := host_acts (st := .ok) (r := certBytes (Config.freeValue 71 s.freeCtr)) (n := 0)
    (fun v => State.buf { v with
      freeCtr := s.freeCtr + 1
      sec := { s.sec with quotes := s.sec.quotes + 1, slots := s.sec.slots.set slot { k with quote := some (s.sec.quotes + 1) } } } u.fn
      (.quote (s.makeQuote 2 (some p) nonce).1)) ht rfl rfl (fun v hv => by
    obtain ⟨l, m, a, b, d, e, rfl⟩ := hv
    dsimp only
    obtain ⟨b', hb⟩ := buf_frame { s with
      out := l ++ s.out, pmc := m, sqs := a, cqs := b, bounce := d, arrived := e, freeCtr := s.freeCtr + 1
      sec := { s.sec with quotes := s.sec.quotes + 1, slots := s.sec.slots.set slot { k with quote := some (s.sec.quotes + 1) } } } u.fn
      (.quote (s.makeQuote 2 (some p) nonce).1)
    refine ⟨doKeyQuote_quotes (s := { s with out := l ++ s.out, pmc := m, sqs := a, cqs := b, bounce := d, arrived := e })
      hp hconf hk ho hkind nonce, ?_⟩
    rw [hb]
    exact ⟨rfl, rfl, ⟨[_], rfl⟩, hc.of_eq rfl rfl rfl rfl rfl rfl rfl rfl⟩)
  refine ⟨_, hex, ((writes_buf _ _ _).mono hio.out).after hs'.out, hpost, ?_⟩
  obtain ⟨l, m, a, b, d, e, rfl⟩ := hs'
  obtain ⟨l', m', a', b', d', e', rfl⟩ := (io_buf _ _ _).trans hio
  exact ⟨rfl, io_of_twice rfl⟩

/-- Settles O51: by what the slot holds, and by whether the blob passes. -/
theorem keys : Obligations.Keys := by
  refine ⟨fun s u slot nonce b c i hc hconf hi ht => ?_, fun s u p slot hc hp hconf => ⟨fun nonce k ht hk ho hkind => ?_, fun nonce ht hno => ?_,
    fun b k ht hk ho hkind h1 h2 h3 h4 h5 => ?_, fun b k ht hk ho hkind hbad hlim => ?_⟩⟩
  · rcases hi with ⟨rfl, rfl⟩ | ⟨rfl, rfl⟩
    · refine host_refuses hc ht rfl rfl (fun s' hio => ?_)
      obtain ⟨l, m, a, b, d, e, rfl⟩ := hio
      exact doKeyQuote_confidential (s := { s with out := l ++ s.out, pmc := m, sqs := a, cqs := b, bounce := d, arrived := e }) hconf nonce
    · refine host_refuses hc ht rfl rfl (fun s' hio => ?_)
      obtain ⟨l, m, a, b', d, e, rfl⟩ := hio
      exact doKeyImport_confidential (s := { s with out := l ++ s.out, pmc := m, sqs := a, cqs := b', bounce := d, arrived := e }) hconf b
  · obtain ⟨t, hex, hw, hpost, hsec, hio⟩ := quotes_posts hc hp hconf ht hk ho hkind
    obtain ⟨hlo, hhi⟩ : 480 ≤ certBytes (Config.freeValue 71 s.freeCtr) ∧ certBytes (Config.freeValue 71 s.freeCtr) ≤ 4576 := by
      unfold certBytes
      omega
    exact ⟨t, _, _, hex, hw, hlo, hhi, hpost, rfl, rfl, rfl, rfl, rfl, rfl, rfl, rfl, rfl, rfl, rfl, rfl, rfl, rfl, hsec, hio⟩
  · obtain ⟨s', t, hex, hpost, hs', hio⟩ := host_acts (st := Status.open_ (Config.freeValue 20 s.freeCtr)) (r := 0) (n := 0)
      (fun v => { v with freeCtr := s.freeCtr + 1 }) ht rfl rfl (fun v hv => by
      obtain ⟨l, m, a, b, d, e, rfl⟩ := hv
      exact ⟨doKeyQuote_none (s := { s with out := l ++ s.out, pmc := m, sqs := a, cqs := b, bounce := d, arrived := e }) hp hconf hno nonce,
        rfl, rfl, ⟨[], rfl⟩, hc.of_eq rfl rfl rfl rfl rfl rfl rfl rfl⟩)
    refine ⟨_, _, hex, ⟨_, rfl⟩, hpost, ?_⟩
    obtain ⟨l, m, a, b, d, e, rfl⟩ := hs'
    obtain ⟨l', m', a', b', d', e', rfl⟩ := hio
    exact io_of_twice rfl
  · obtain ⟨s', t, hex, hpost, hs', hio⟩ := host_acts (st := .ok) (r := 0) (n := 0) (fun v => { v with
        sec := { s.sec with slots := s.sec.slots.set slot { k with state := .loaded, epoch := s.epochOf p, quote := none, retain := b.retain } } })
        ht rfl rfl (fun v hv => by
      obtain ⟨l, m, a, b', d, e, rfl⟩ := hv
      exact ⟨doKeyImport_loads (s := { s with out := l ++ s.out, pmc := m, sqs := a, cqs := b', bounce := d, arrived := e })
        hp hconf hk ho hkind ((blob_passes_iff b k).2 ⟨h1, h2, h3, h4, h5⟩), rfl, rfl, ⟨[], rfl⟩, hc.of_eq rfl rfl rfl rfl rfl rfl rfl rfl⟩)
    refine ⟨_, hex, hpost, ?_⟩
    obtain ⟨l, m, a, b, d, e, rfl⟩ := hs'
    obtain ⟨l', m', a', b', d', e', rfl⟩ := hio
    exact ⟨rfl, io_of_twice rfl⟩
  · obtain ⟨s', t, hex, hpost, hs', hio⟩ := host_acts (st := .securityKeyRelease) (r := 0) (n := 0) (fun v => { State.tick (State.bump { v with
        sec := { s.sec with slots := s.sec.slots.set slot { k with state := .provisioned, quote := none } } } Fld.SEC_RELEASE_FAILS_COUNT p) with
        sec := { s.sec with
          slots := s.sec.slots.set slot { k with state := .provisioned, quote := none }
          fails := s.tick.recentFails ++ [s.tick.aon]
          raw := clearSource s.sec.raw 6 } }) ht rfl rfl (fun v hv => by
      obtain ⟨l, m, a, b', d, e, rfl⟩ := hv
      refine ⟨(doKeyImport_fails (s := { s with out := l ++ s.out, pmc := m, sqs := a, cqs := b', bounce := d, arrived := e })
        hp hconf hk ho hkind (blob_fails hbad)).trans ?_, rfl, rfl, ⟨[], rfl⟩, hc.of_eq rfl rfl rfl rfl rfl rfl rfl rfl⟩
      refine congrArg (fun x : State => x.complete u .securityKeyRelease) ((attestFail_below ?_).trans rfl)
      exact hlim.trans_eq (fld_setFld_other s Fld.SEC_RELEASE_FAILS_COUNT Fld.SEC_ALARM_POLICY_ATTEST_LIMIT _ p 0 0 0 (by decide) (by decide) (.inl (fun h => nomatch h))).symm)
    refine ⟨_, hex, hpost, ?_⟩
    obtain ⟨l, m, a, b, d, e, rfl⟩ := hs'
    obtain ⟨l', m', a', b', d', e', rfl⟩ := hio
    exact ⟨rfl, List.mem_append_right _ (List.mem_singleton.2 rfl), io_of_twice rfl⟩

end Sys2Proof.Machine
end

section
/-!
PROOFS. Change records at run time (R652 to R660, R707, R802): what a record loads, which record fails a check, and what SEC_CHANGE leaves.
-/

namespace Sys2Proof.Machine

open Sys2Proof

-- What a record loads (R652, R703) ---------------------------------------------------------------------------------------------------------

/-- What loading a record can change. -/
def State.Loaded (s t : State) : Prop := ∃ x n g m, t = { s with sec := x, freeCtr := n, regs := g, pmc := m }

theorem State.Loaded.refl (s : State) : s.Loaded s := ⟨_, _, _, _, rfl⟩

theorem State.Loaded.trans {s t u : State} (h : s.Loaded t) (g : t.Loaded u) : s.Loaded u := by
  obtain ⟨_, _, _, _, rfl⟩ := h
  obtain ⟨x, n, g, m, rfl⟩ := g
  exact ⟨x, n, g, m, rfl⟩

theorem loaded_putKey (s : State) (k : KeySlot) : s.Loaded (s.putKey k) := by
  obtain ⟨x, n, h⟩ := putKey_frame s k
  exact ⟨x, n, s.regs, s.pmc, h⟩

theorem loaded_drawSeeds (s : State) : s.Loaded s.drawSeeds := by
  obtain ⟨x, n, h⟩ := drawSeeds_frame s
  exact ⟨x, n, s.regs, s.pmc, h⟩

/-- Blanks the plan fields of a register (R703). -/
def State.blankPlan (s : State) (rv : Reg × Word64) : State :=
  rv.1.cls.fields.foldl (fun (b : State) f => if f.planned then b.putField f rv.1.i rv.1.j f.reset else b) s

theorem loadPlan_eq (s : State) (p : Plan) : s.loadPlan p = (s.regs.foldl State.blankPlan s).loadSettings Field.planned p.settings := rfl

/-- A plan's load changes registers and counters only. -/
theorem loadPlan_frame (s : State) (p : Plan) : ∃ g m, s.loadPlan p = { s with regs := g, pmc := m } := by
  have hput (a : State) (rv : Reg × Word64) : ∃ g m, a.blankPlan rv = { a with regs := g, pmc := m } := by
    refine foldl_keeps (fun s t : State => ∃ g m, t = { s with regs := g, pmc := m }) (fun _ => ⟨_, _, rfl⟩) ?_ _ (fun b f => ?_) _ a
    · rintro s t u ⟨g, m, rfl⟩ ⟨g', m', rfl⟩
      exact ⟨g', m', rfl⟩
    · unfold State.putField
      split
      · split <;> exact ⟨_, _, rfl⟩
      · exact ⟨_, _, rfl⟩
  obtain ⟨g, m, h⟩ := foldl_keeps (fun s t : State => ∃ g m, t = { s with regs := g, pmc := m }) (fun _ => ⟨_, _, rfl⟩) (by
    rintro s t u ⟨g, m, rfl⟩ ⟨g', m', rfl⟩
    exact ⟨g', m', rfl⟩) State.blankPlan hput s.regs s
  obtain ⟨g', m', h'⟩ := loadSettings_frame { s with regs := g, pmc := m } Field.planned p.settings
  exact ⟨g', m', by rw [loadPlan_eq, h, h']⟩

theorem loadRecord_frame (s : State) (r : ChangeRec) : s.Loaded (s.loadRecord r) := by
  unfold State.loadRecord
  cases r.payload with
  | plan p =>
    obtain ⟨g, m, h⟩ := loadPlan_frame s p
    exact ⟨s.sec, s.freeCtr, g, m, h⟩
  | keys k => exact ⟨_, _, _, _, rfl⟩
  | alarms a b => exact ⟨_, _, _, _, rfl⟩
  | binding a b c =>
    exact (State.Loaded.trans ⟨_, _, _, _, rfl⟩ (loaded_putKey _ _)).trans (loaded_putKey _ _)
  | rearm => exact .refl s
  | debug => exact .refl s
  | removal => exact .refl s

-- Loading does not look at what a fetch changes --------------------------------------------------------------------------------------------

theorem State.Io.putField {s t : State} (h : s.Io t) (f : Field) (i j v : Nat) : (s.putField f i j v).Io (t.putField f i j v) := by
  obtain ⟨l, m, a, b, d, e, rfl⟩ := h
  unfold State.putField
  split
  · exact ⟨l, _, a, b, d, e, rfl⟩
  · exact ⟨l, m, a, b, d, e, rfl⟩

/-- Folds of a step that keeps `Io` keep it. -/
theorem State.Io.foldl {α : Type} {g : State → α → State} (hg : ∀ s t a, s.Io t → (g s a).Io (g t a)) (l : List α) {s t : State} (h : s.Io t) :
    (l.foldl g s).Io (l.foldl g t) := by
  induction l generalizing s t with
  | nil => exact h
  | cons a l ih => exact ih (hg s t a h)

theorem State.Io.putFieldIf {s t : State} (h : s.Io t) (c : Prop) [Decidable c] (f : Field) (i j v : Nat) :
    (if c then s.putField f i j v else s).Io (if c then t.putField f i j v else t) := by
  split
  · exact h.putField f i j v
  · exact h

theorem State.Io.blankPlan {s t : State} (h : s.Io t) (rv : Reg × Word64) : (s.blankPlan rv).Io (t.blankPlan rv) := by
  unfold State.blankPlan
  exact State.Io.foldl (fun _ _ f h => h.putFieldIf (f.planned = true) f _ _ _) _ h

theorem State.Io.loadSetting {s t : State} (h : s.Io t) (ok : Field → Bool) (g : Setting) : (s.loadSetting ok g).Io (t.loadSetting ok g) := by
  unfold State.loadSetting
  exact State.Io.foldl (fun _ _ f h => h.putFieldIf (ok f = true) f _ _ (bitsOf g.value f.hi f.lo)) _ h

theorem State.Io.loadPlan {s t : State} (h : s.Io t) (p : Plan) : (s.loadPlan p).Io (t.loadPlan p) := by
  have hregs : t.regs = s.regs := by
    obtain ⟨_, _, _, _, _, _, rfl⟩ := h
    rfl
  rw [loadPlan_eq, loadPlan_eq, hregs]
  exact State.Io.foldl (fun _ _ g h => h.loadSetting _ g) _ (State.Io.foldl (fun _ _ rv h => h.blankPlan rv) _ h)

theorem State.Io.putKey {s t : State} (h : s.Io t) (k : KeySlot) : (s.putKey k).Io (t.putKey k) := by
  obtain ⟨l, m, a, b, d, e, rfl⟩ := h
  unfold State.putKey
  dsimp only
  split <;> exact ⟨l, m, a, b, d, e, rfl⟩

theorem State.Io.sec {s t : State} (h : s.Io t) : t.sec = s.sec := by
  obtain ⟨_, _, _, _, _, _, rfl⟩ := h
  rfl

theorem State.Io.setSec {s t : State} (h : s.Io t) (x : Sec) : State.Io { s with sec := x } { t with sec := x } := by
  obtain ⟨l, m, a, b, d, e, rfl⟩ := h
  exact ⟨l, m, a, b, d, e, rfl⟩

theorem State.Io.drawSeeds {s t : State} (h : s.Io t) : s.drawSeeds.Io t.drawSeeds := by
  have hplanned : t.planned = s.planned := by
    obtain ⟨_, _, _, _, _, _, rfl⟩ := h
    rfl
  unfold State.drawSeeds
  rw [hplanned, h.sec]
  split
  · exact h
  · refine State.Io.foldl (fun s t p h => ?_) _ h
    rw [h.sec]
    exact (h.setSec _).putKey _

theorem State.Io.loadRecord {s t : State} (h : s.Io t) (r : ChangeRec) : (s.loadRecord r).Io (t.loadRecord r) := by
  unfold State.loadRecord
  cases r.payload with
  | plan p => exact h.loadPlan p
  | binding a b c => rw [h.sec]; exact ((h.setSec _).putKey _).putKey _
  | keys k =>
    obtain ⟨l, m, a, b, d, e, rfl⟩ := h
    exact ⟨l, m, a, b, d, e, rfl⟩
  | alarms x y =>
    obtain ⟨l, m, a, b, d, e, rfl⟩ := h
    exact ⟨l, m, a, b, d, e, rfl⟩
  | rearm => exact h
  | debug => exact h
  | removal => exact h

-- Which record is the last, and which are in force (R655) ---------------------------------------------------------------------------------

/-- Neither SEQ nor the records in force change. -/
def State.SameSeq (s t : State) : Prop := t.sec.changeSeq = s.sec.changeSeq ∧ t.sec.inForce = s.sec.inForce

theorem State.SameSeq.refl (s : State) : s.SameSeq s := ⟨rfl, rfl⟩

theorem State.SameSeq.trans {s t u : State} (h : s.SameSeq t) (g : t.SameSeq u) : s.SameSeq u := ⟨g.1.trans h.1, g.2.trans h.2⟩

theorem sameSeq_putKey (s : State) (k : KeySlot) : s.SameSeq (s.putKey k) := by
  unfold State.putKey
  split <;> exact ⟨rfl, rfl⟩

theorem sameSeq_drawSeeds (s : State) : s.SameSeq s.drawSeeds := by
  unfold State.drawSeeds
  split
  · exact .refl s
  · exact foldl_keeps State.SameSeq .refl (fun _ _ _ => .trans) _
      (fun a p => State.SameSeq.trans (t := { a with sec := { a.sec with seeds := a.sec.seeds ++ [p] } }) ⟨rfl, rfl⟩ (sameSeq_putKey _ _)) _ s

theorem sameSeq_loadRecord (s : State) (r : ChangeRec) : s.SameSeq (s.loadRecord r) := by
  unfold State.loadRecord
  cases r.payload with
  | plan p =>
    obtain ⟨g, m, h⟩ := loadPlan_frame s p
    exact ⟨by dsimp only; rw [h], by dsimp only; rw [h]⟩
  | binding a b c =>
    exact State.SameSeq.trans (t := { s with sec := { s.sec with
      authority := some (a, b), requireUnit := c, slots := s.sec.slots.filter (fun kv => kv.2.kind != 0) } }) ⟨rfl, rfl⟩
        ((sameSeq_putKey _ _).trans (sameSeq_putKey _ _))
  | keys k => exact ⟨rfl, rfl⟩
  | alarms x y => exact ⟨rfl, rfl⟩
  | rearm => exact .refl s
  | debug => exact .refl s
  | removal => exact .refl s

/-- A record of a later SEQ and of kinds 1 to 4 is the last and the one in force of its kind. -/
theorem enforce_latest {s t : State} {r : ChangeRec} (h : s.SameSeq t) (hseq : s.sec.changeSeq < r.seq) (hk : r.kind ≤ 4) :
    (t.enforce r).sec = { t.sec with
      changeSeq := r.seq, inForce := ⟨r.kind, r.seq, r.id⟩ :: s.sec.inForce.filter (fun x => x.kind != r.kind) } := by
  unfold State.enforce
  dsimp only
  rw [h.1, h.2, if_pos hk, show Nat.max s.sec.changeSeq r.seq = r.seq from Nat.max_eq_right hseq.le]

-- The checks of R653 -----------------------------------------------------------------------------------------------------------------------

theorem ite_some_none_iff {c : Prop} [Decidable c] {n : Nat} {x : Option Nat} : (if c then some n else x) = none ↔ ¬c ∧ x = none := by
  by_cases h : c <;> simp [h]

theorem recordFails_none_iff (s : State) (r : ChangeRec) : s.recordFails r false = none ↔
    r.wellFormed = true ∧ r.target = s.sec.fuses.peerId ∧ s.authoritiesFor r = some (r.opKey, r.custKey) ∧ r.sigs = true ∧
      s.sec.changeSeq < r.seq ∧ r.digest = true ∧ (s.sec.latched = 0 ∨ r.kind = 5) := by
  unfold State.recordFails
  rw [ite_some_none_iff, ite_some_none_iff]
  cases ha : s.authoritiesFor r with
  | none => simp
  | some oc =>
    obtain ⟨o, c⟩ := oc
    simp only [ite_some_none_iff, Option.some.injEq, Prod.mk.injEq, not_or, Decidable.not_not, Bool.not_eq_true', Bool.not_eq_false,
      Bool.not_false, Bool.true_and, decide_eq_true_eq, not_le, not_and_or, and_true]
    constructor
    · rintro ⟨h1, h2, ⟨h3, h4, h5⟩, h6, h7, h8⟩
      exact ⟨h1, h2, ⟨h3.symm, h4.symm⟩, h5, h6, h7, h8⟩
    · rintro ⟨h1, h2, ⟨h3, h4⟩, h5, h6, h7, h8⟩
      exact ⟨h1, h2, ⟨h3.symm, h4.symm, h5⟩, h6, h7, h8⟩

/-- The kind of a well formed record is that of its payload (R652). -/
theorem kind_of_wellFormed {r : ChangeRec} (h : r.wellFormed = true) : match r.payload with
    | .plan _ => r.kind = 1
    | .keys _ => r.kind = 2
    | .alarms _ _ => r.kind = 3
    | .binding _ _ _ => r.kind = 4
    | .rearm => r.kind = 5
    | .debug => r.kind = 6
    | .removal => r.kind = 7 := by
  unfold ChangeRec.wellFormed at h
  obtain ⟨-, h⟩ := Bool.and_eq_true_iff.1 h
  cases hp : r.payload with
  | plan p => rw [hp] at h; exact beq_iff_eq.1 (Bool.and_eq_true_iff.1 h).1
  | removal => rw [hp] at h; exact beq_iff_eq.1 (Bool.and_eq_true_iff.1 h).1
  | keys k => rw [hp] at h; exact beq_iff_eq.1 h
  | alarms a b => rw [hp] at h; exact beq_iff_eq.1 h
  | binding a b c => rw [hp] at h; exact beq_iff_eq.1 h
  | rearm => rw [hp] at h; exact beq_iff_eq.1 h
  | debug => rw [hp] at h; exact beq_iff_eq.1 h

-- SEC_CHANGE (R653, R659, R707) --------------------------------------------------------------------------------------------------------------

/-- What a checked record puts to the plumb check: the configuration, and the placement. -/
def State.Tries (s : State) (r : ChangeRec) (v : State) (pl : List PlaceRef) : Prop :=
  (∃ p, r.payload = .plan p ∧ v = s.loadRecord r ∧ pl = s.resolve p.places) ∨
    (∃ k, r.payload = .keys k ∧ k.foreign = false ∧ v = (s.loadRecord r).drawSeeds ∧ pl = s.boot.places) ∨
    ((∃ a b, r.payload = .alarms a b) ∨ ∃ a b c, r.payload = .binding a b c) ∧ v = s.loadRecord r ∧ pl = s.boot.places

/-- A fetch does not change what is tried. -/
theorem State.Tries.io {s t v : State} {r : ChangeRec} {pl : List PlaceRef} (h : s.Tries r v pl) (hio : s.Io t) : ∃ w, v.Io w ∧ t.Tries r w pl := by
  have hboot : t.boot = s.boot := by
    obtain ⟨_, _, _, _, _, _, rfl⟩ := hio
    rfl
  have hresolve (l : List PlaceRef) : t.resolve l = s.resolve l := by
    unfold State.resolve State.imageOf
    rw [hboot]
  rcases h with ⟨p, hp, rfl, rfl⟩ | ⟨k, hp, hk, rfl, rfl⟩ | ⟨hp, rfl, rfl⟩
  · exact ⟨_, hio.loadRecord r, .inl ⟨p, hp, rfl, (hresolve _).symm⟩⟩
  · exact ⟨_, (hio.loadRecord r).drawSeeds, .inr (.inl ⟨k, hp, hk, rfl, by rw [hboot]⟩)⟩
  · exact ⟨_, hio.loadRecord r, .inr (.inr ⟨hp, rfl, by rw [hboot]⟩)⟩

section SecChange

variable {s : State} {u : Sub} {r : ChangeRec}

theorem doSecChange_refuses (h : s.recordFails r false ≠ none ∨ r.payload = .removal) :
    doSecChange u r s = s.refuseRecord u .securityChangeRecord := by
  unfold doSecChange
  cases hf : s.recordFails r false with
  | some n => rfl
  | none =>
    rcases h with h | h
    · exact absurd hf h
    · dsimp only
      rw [h]

variable (hok : s.recordFails r false = none)
include hok

theorem doSecChange_tries {v : State} {pl : List PlaceRef} (h : s.Tries r v pl) : ∃ k, doSecChange u r s = s.tryConfig v u pl k := by
  unfold doSecChange
  rw [hok]
  dsimp only
  rcases h with ⟨p, hp, rfl, rfl⟩ | ⟨k, hp, hk, rfl, rfl⟩ | ⟨⟨a, b, hp⟩ | ⟨a, b, c, hp⟩, rfl, rfl⟩ <;> rw [hp] <;> dsimp only
  · exact ⟨fun t => (t.enact s p (s.resolve p.places)).enforce r, rfl⟩
  · rw [hk, if_neg Bool.false_ne_true]
    exact ⟨fun t => t.enforce r, rfl⟩
  · exact ⟨fun t => t.enforce r, rfl⟩
  · exact ⟨fun t => t.enforce r, rfl⟩

/-- A record that is no plan and passes the plumb check comes into force as it stands. -/
theorem doSecChange_passes {v : State} {pl : List PlaceRef} (h : s.Tries r v pl) (hnot : ∀ p, r.payload ≠ .plan p)
    (hplumb : v.plumb (s.actual false) pl = none) : doSecChange u r s = (v.enforce r).complete u .ok := by
  unfold doSecChange
  rw [hok]
  dsimp only
  rcases h with ⟨p, hp, rfl, rfl⟩ | ⟨k, hp, hk, rfl, rfl⟩ | ⟨⟨a, b, hp⟩ | ⟨a, b, c, hp⟩, rfl, rfl⟩
  · exact absurd hp (hnot p)
  all_goals
    rw [hp]
    dsimp only
    unfold State.tryConfig
  · rw [hk, if_neg Bool.false_ne_true, hplumb]
  · rw [hplumb]
  · rw [hplumb]

theorem doSecChange_plan {p : Plan} (hp : r.payload = .plan p) (hplumb : (s.loadRecord r).plumb (s.actual false) (s.resolve p.places) = none) :
    doSecChange u r s = (((s.loadRecord r).enact s p (s.resolve p.places)).enforce r).complete u .ok := by
  unfold doSecChange
  rw [hok]
  dsimp only
  rw [hp]
  dsimp only
  unfold State.tryConfig
  rw [hplumb]

theorem doSecChange_foreign {k : KeyPolicy} (hp : r.payload = .keys k) (hk : k.foreign = true) :
    doSecChange u r s = (s.plumbRefuses ⟨0x66, none⟩).refuseRecord u .securityChangeRecord := by
  unfold doSecChange
  rw [hok]
  dsimp only
  rw [hp]
  dsimp only
  rw [hk]
  rfl

theorem doSecChange_debug (hp : r.payload = .debug) (hkind : r.kind = 6) (hseq : s.sec.changeSeq < r.seq) :
    doSecChange u r s = State.complete { s with sec := { s.sec with debug := true, changeSeq := r.seq } } u .ok := by
  unfold doSecChange
  rw [hok]
  dsimp only
  rw [hp]
  dsimp only
  unfold State.enforce
  dsimp only
  rw [hkind, if_neg (by decide), show Nat.max s.sec.changeSeq r.seq = r.seq from Nat.max_eq_right hseq.le]

theorem doSecChange_rearm (hp : r.payload = .rearm) : doSecChange u r s = s.rearm u r := by
  unfold doSecChange
  rw [hok]
  dsimp only
  rw [hp]

end SecChange

section Rearm

variable {s : State} {u : Sub} {r : ChangeRec} {w : Nat} (hw : w = (if s.failsLimit = true then s.sec.raw else clearSource s.sec.raw 6))
include hw

/-- A re-arm that a spent device, another record or a present source bars (R659, R660). -/
theorem rearm_refuses {st : Status} (h : s.sec.spent = true ∧ st = .securitySpent ∨ s.sec.spent = false ∧
    (r.arg ≠ s.sec.record ∧ st = .securityChangeRecord ∨ r.arg = s.sec.record ∧ w &&& s.sec.latched ≠ 0 ∧ st = .securityAlarmLatched)) :
    s.rearm u r = State.complete (State.bump { s with sec := { s.sec with raw := w } } Fld.SEC_CHANGE_REFUSED_COUNT) u st := by
  unfold State.rearm
  dsimp only
  rw [← hw]
  rcases h with ⟨hs, rfl⟩ | ⟨hs, ⟨ha, rfl⟩ | ⟨ha, hl, rfl⟩⟩
  · rw [if_pos hs]
    rfl
  · rw [if_neg (by rw [hs]; decide), if_pos ha]
    rfl
  · rw [if_neg (by rw [hs]; decide), if_neg (not_not.2 ha), if_pos hl]
    rfl

theorem rearm_clears (hs : s.sec.spent = false) (ha : r.arg = s.sec.record) (hl : w &&& s.sec.latched = 0) (hkind : r.kind = 5)
    (hseq : s.sec.changeSeq < r.seq) : s.rearm u r = State.complete { s with
      sec := { s.sec with raw := w, latched := 0, level := 0, frozen := false, changeSeq := r.seq }
      pins := { s.pins with alarmOut := false } } u .ok := by
  unfold State.rearm
  dsimp only
  rw [← hw, if_neg (by rw [hs]; decide), if_neg (not_not.2 ha), if_neg (not_not.2 hl)]
  unfold State.enforce
  dsimp only
  rw [hkind, if_neg (by decide), show Nat.max s.sec.changeSeq r.seq = r.seq from Nat.max_eq_right hseq.le]

end Rearm

/-- A record whose values the plumb check refuses: BOOT_PLUMB names the reason, and the refusal counts (R653, R707, R708). -/
theorem plumb_refuses {s : State} {u : Sub} {r : ChangeRec} (o : Offence) (hc : s.Calm) (ht : s.Takes u (.secChange r))
    (h : ∀ s', s.Io s' → doSecChange u r s' = (s'.plumbRefuses o).refuseRecord u .securityChangeRecord) :
    ∃ t, exec (.secChange u r) s = .next t ∧ s.Posts t u .securityChangeRecord 0 0 ∧ t.fld Fld.BOOT_PLUMB_REASON = o.reason % 256 ∧
      (∀ x, o.place = some x → t.fld Fld.BOOT_PLUMB_ITEM = x % 2 ^ 32) ∧
      (∀ x : Reg, x.cls ≠ .bootPlumb → x.cls ≠ .secChangeRefused → t.reg x = s.reg x) ∧ s.Io { t with regs := s.regs, freeCtr := s.freeCtr } := by
  obtain ⟨s', t, hex, hpost, hs', hio⟩ := host_acts (st := .securityChangeRecord) (r := 0) (n := 0)
    (fun v => (v.plumbRefuses o).bump Fld.SEC_CHANGE_REFUSED_COUNT) ht rfl rfl (fun v hv => ⟨h v hv, rfl, rfl, ⟨[], rfl⟩, (hc.io hv).of_eq rfl rfl rfl rfl rfl rfl rfl rfl⟩)
  refine ⟨_, hex, hpost, ?_, fun x hx => ?_, fun x h1 h2 => ?_, ?_⟩
  all_goals
    obtain ⟨l, m, a, b, d, e, rfl⟩ := hs'
    obtain ⟨l', m', a', b', d', e', rfl⟩ := hio
  · refine Eq.trans ?_ (fld_setFld_same s Fld.BOOT_PLUMB_REASON o.reason 0 0 (by decide) (by decide))
    refine (fld_setFld_other ((s.setFld Fld.BOOT_PLUMB_REASON o.reason).setFld Fld.BOOT_PLUMB_ITEM (o.place.getD (Config.freeValue 70 s.freeCtr)))
      Fld.SEC_CHANGE_REFUSED_COUNT Fld.BOOT_PLUMB_REASON _ 0 0 0 0 (by decide) (by decide) (.inl (by decide))).trans ?_
    exact fld_setFld_other (s.setFld Fld.BOOT_PLUMB_REASON o.reason) Fld.BOOT_PLUMB_ITEM Fld.BOOT_PLUMB_REASON _ 0 0 0 0 (by decide) (by decide)
      (by decide)
  · refine Eq.trans ?_ (fld_setFld_same (s.setFld Fld.BOOT_PLUMB_REASON o.reason) Fld.BOOT_PLUMB_ITEM x 0 0 (by decide) (by decide))
    refine (fld_setFld_other ((s.setFld Fld.BOOT_PLUMB_REASON o.reason).setFld Fld.BOOT_PLUMB_ITEM (o.place.getD (Config.freeValue 70 s.freeCtr)))
      Fld.SEC_CHANGE_REFUSED_COUNT Fld.BOOT_PLUMB_ITEM _ 0 0 0 0 (by decide) (by decide) (.inl (by decide))).trans ?_
    rw [hx]
    rfl
  · refine (reg_setReg_other _ _ (fun h => h2 (congrArg Reg.cls h))).trans ?_
    refine (reg_setReg_other _ _ (fun h => h1 (congrArg Reg.cls h))).trans ?_
    exact reg_setReg_other _ _ (fun h => h1 (congrArg Reg.cls h))
  · exact io_of_twice rfl

-- The alarm policy's floors (R656) -----------------------------------------------------------------------------------------------------------

/-- The level that an alarm policy gives a source, at or above its floor. -/
def flooredLevel (levels n : Nat) : Nat := Nat.max (bitsOf levels (2 * n + 1) (2 * n)) (if n = 3 then 2 else 1)

theorem flooredLevel_lt (levels n : Nat) : flooredLevel levels n < 4 := by
  have h : bitsOf levels (2 * n + 1) (2 * n) < 4 := by
    unfold bitsOf
    have : 2 * n + 1 + 1 - 2 * n = 2 := by omega
    rw [this]
    omega
  refine max_lt h ?_
  split <;> omega

theorem flooredLevels_eq (levels : Nat) : flooredLevels levels = flooredLevel levels 0 + flooredLevel levels 1 * 4 + flooredLevel levels 2 * 16 +
    flooredLevel levels 3 * 64 + flooredLevel levels 4 * 256 + flooredLevel levels 5 * 1024 + flooredLevel levels 6 * 4096 := by
  have h : List.range 7 = [0, 1, 2, 3, 4, 5, 6] := rfl
  unfold flooredLevels flooredLevel
  rw [h]
  simp only [List.foldl_cons, List.foldl_nil]
  omega

theorem bitsOf_flooredLevels (levels : Nat) {n : Nat} (hn : n < 7) :
    bitsOf (flooredLevels levels % 2 ^ 16) (2 * n + 1) (2 * n) = flooredLevel levels n := by
  have h0 := flooredLevel_lt levels 0
  have h1 := flooredLevel_lt levels 1
  have h2 := flooredLevel_lt levels 2
  have h3 := flooredLevel_lt levels 3
  have h4 := flooredLevel_lt levels 4
  have h5 := flooredLevel_lt levels 5
  have h6 := flooredLevel_lt levels 6
  rw [flooredLevels_eq]
  unfold bitsOf
  interval_cases n <;> norm_num <;> omega

-- A plan takes effect (R330, R337, R802) ------------------------------------------------------------------------------------------------------

/-- Places one image of a plan: a context that is there stays. -/
def State.placeOne (s : State) (x : PlaceRef) : State :=
  match x.img with
  | some i => if s.ctxs.has (x.part, x.ctx) then s else { s with ctxs := s.ctxs.set (x.part, x.ctx) (Ctx.placed x i) }
  | none => s

/-- Gives a partition its system context. -/
def State.placeSystem (s : State) (p : Nat) : State :=
  if s.ctxs.has (p, 63) then s else { s with ctxs := s.ctxs.set (p, 63) Ctx.system }

theorem placeCtxs_eq {s : State} (l : List PlaceRef) (h : s.ctxs = []) :
    s.placeCtxs l = (l.foldl State.placeOne s).planned.foldl State.placeSystem (l.foldl State.placeOne s) := by
  unfold State.placeCtxs
  simp only [h, List.filter_nil, List.foldl_nil]
  rfl

/-- Contexts that are there stay as they are. -/
def State.KeepsCtxs (s t : State) : Prop := ∀ k y, s.ctxs.get? k = some y → t.ctxs.get? k = some y

theorem keepsCtxs_set {s : State} {k : Nat × Nat} (h : s.ctxs.has k ≠ true) (y : Ctx) : s.KeepsCtxs { s with ctxs := s.ctxs.set k y } := by
  intro k' y' h'
  have hne : k' ≠ k := by
    rintro rfl
    exact h (by rw [AMap.has, h']; rfl)
  exact (AMap.get?_set_other s.ctxs y hne).trans h'

theorem keepsCtxs_placeOne (s : State) (x : PlaceRef) : s.KeepsCtxs (s.placeOne x) := by
  unfold State.placeOne
  split
  · split
    · exact fun _ _ h => h
    · rename_i h
      exact keepsCtxs_set h _
  · exact fun _ _ h => h

theorem keepsCtxs_placeSystem (s : State) (p : Nat) : s.KeepsCtxs (s.placeSystem p) := by
  unfold State.placeSystem
  split
  · exact fun _ _ h => h
  · rename_i h
    exact keepsCtxs_set h _

theorem keepsCtxs_fold {α : Type} {g : State → α → State} (hg : ∀ s a, State.KeepsCtxs s (g s a)) (l : List α) (s : State) : s.KeepsCtxs (l.foldl g s) :=
  foldl_keeps State.KeepsCtxs (fun _ _ _ h => h) (fun _ _ _ h g k y hk => g k y (h k y hk)) g hg l s

/-- Every context is loading. -/
def State.AllLoading (s : State) : Prop := ∀ k y, s.ctxs.get? k = some y → y.state = .loading

theorem placeOne_loads {s : State} (h : s.AllLoading) (x : PlaceRef) :
    (s.placeOne x).AllLoading ∧ ∀ i, x.img = some i → ∃ y, (s.placeOne x).ctxs.get? (x.part, x.ctx) = some y := by
  unfold State.placeOne
  cases x.img with
  | none => exact ⟨h, fun i hi => nomatch hi⟩
  | some i =>
    dsimp only
    split
    · rename_i hh
      exact ⟨h, fun _ _ => Option.isSome_iff_exists.1 hh⟩
    · refine ⟨fun k y hk => ?_, fun _ _ => ⟨_, AMap.get?_set_same ..⟩⟩
      dsimp only at hk
      rw [AMap.get?_set] at hk
      split at hk
      · cases hk
        rfl
      · exact h k y hk

theorem placeOnes_load (l : List PlaceRef) {s : State} (h : s.AllLoading) : (l.foldl State.placeOne s).AllLoading ∧
    ∀ x ∈ l, ∀ i, x.img = some i → ∃ y, (l.foldl State.placeOne s).ctxs.get? (x.part, x.ctx) = some y := by
  induction l generalizing s with
  | nil => exact ⟨h, fun x hx => absurd hx List.not_mem_nil⟩
  | cons x l ih =>
    obtain ⟨hall, hx⟩ := placeOne_loads h x
    obtain ⟨hall', hl⟩ := ih hall
    refine ⟨hall', fun z hz i hi => ?_⟩
    rcases List.mem_cons.1 hz with rfl | hz
    · obtain ⟨y, hy⟩ := hx i hi
      exact ⟨y, keepsCtxs_fold keepsCtxs_placeOne l _ _ _ hy⟩
    · exact hl z hz i hi

/-- Every image that a plan places in a device without contexts loads. -/
theorem placeCtxs_load {s : State} {l : List PlaceRef} (h : s.ctxs = []) {x : PlaceRef} (hx : x ∈ l) {i : CtxImage} (hi : x.img = some i) :
    ∃ y, (s.placeCtxs l).ctxs.get? (x.part, x.ctx) = some y ∧ y.state = .loading := by
  obtain ⟨hall, hl⟩ := placeOnes_load l (s := s) (fun k y hk => by rw [h] at hk; cases hk)
  obtain ⟨y, hy⟩ := hl x hx i hi
  rw [placeCtxs_eq l h]
  exact ⟨y, keepsCtxs_fold keepsCtxs_placeSystem _ _ _ _ hy, hall _ _ hy⟩

/-- Cores and frames take the owners of the plan. -/
theorem givenFrames_frame (s old : State) : ∃ g k a b,
    s.ownCores.ownFrames.zeroHanded old = { s with regs := g, cores := k, tileFrames := a, mortarFrames := b } := by
  obtain ⟨g, hg⟩ := ownCores_frame s
  rw [hg]
  exact ⟨g, _, _, _, rfl⟩

/-- A plan under which no core changes its partition, in a device without contexts. -/
theorem enact_spec (s old : State) (p : Plan) (l : List PlaceRef) (h : s.ctxs = []) (hcores : ∀ q, s.coresOf q = old.coresOf q) :
    ∃ x c g k a b ti rp q n, s.enact old p l = { s with
        boot := { s.boot with plan := some p, places := l, unconf := false }
        sec := x, ctxs := c, regs := g, cores := k, tileFrames := a, mortarFrames := b, tiles := ti, reports := rp, qry := q, freeCtr := n } ∧
      x.changeSeq = s.sec.changeSeq ∧ ∀ z ∈ l, ∀ i, z.img = some i → ∃ y, c.get? (z.part, z.ctx) = some y ∧ y.state = .loading := by
  have hmoved : allParts.filter (fun p => old.coresOf p != s.coresOf p) = [] := by
    refine List.filter_eq_nil_iff.2 (fun q _ => ?_)
    rw [hcores q]
    simp
  unfold State.enact
  dsimp only
  rw [hmoved, List.foldl_nil]
  obtain ⟨g, k, a, b, hgiven⟩ := givenFrames_frame s old
  rw [hgiven]
  have hload (z : PlaceRef) (hz : z ∈ l) (i : CtxImage) (hi : z.img = some i) :=
    placeCtxs_load (s := { s with regs := g, cores := k, tileFrames := a, mortarFrames := b }) h hz hi
  obtain ⟨c, hc⟩ := placeCtxs_frame { s with regs := g, cores := k, tileFrames := a, mortarFrames := b } l h
  rw [hc] at hload ⊢
  obtain ⟨hseq, -⟩ := sameSeq_drawSeeds { s with ctxs := c, regs := g, cores := k, tileFrames := a, mortarFrames := b }
  obtain ⟨x, n, hx⟩ := drawSeeds_frame { s with ctxs := c, regs := g, cores := k, tileFrames := a, mortarFrames := b }
  rw [hx] at hseq ⊢
  obtain ⟨a', b', ti, g', n', rp, hr⟩ := ringsFor_frame { s with
    ctxs := c, regs := g, cores := k, tileFrames := a, mortarFrames := b, sec := x, freeCtr := n } _
  rw [hr]
  obtain ⟨q, hq⟩ := rebudget_frame { s with
    ctxs := c, regs := g', cores := k, tileFrames := a', mortarFrames := b', tiles := ti, reports := rp, freeCtr := n'
    boot := { s.boot with plan := some p, places := l, unconf := false }
    sec := { x with removed := x.removed.filter (fun p => !(State.planned { s with
      ctxs := c, regs := g', cores := k, tileFrames := a', mortarFrames := b', tiles := ti, reports := rp, freeCtr := n', sec := x }).contains p) } }
  exact ⟨_, c, g', k, a', b', ti, rp, q, n', hq, hseq, hload⟩

-- The obligation -----------------------------------------------------------------------------------------------------------------------------

theorem State.Tries.loaded {s v : State} {r : ChangeRec} {pl : List PlaceRef} (h : s.Tries r v pl) : s.Loaded v := by
  rcases h with ⟨p, -, rfl, -⟩ | ⟨k, -, -, rfl, -⟩ | ⟨-, rfl, -⟩
  · exact loadRecord_frame s r
  · exact (loadRecord_frame s r).trans (loaded_drawSeeds _)
  · exact loadRecord_frame s r

theorem State.Tries.sameSeq {s v : State} {r : ChangeRec} {pl : List PlaceRef} (h : s.Tries r v pl) : s.SameSeq v := by
  rcases h with ⟨p, -, rfl, -⟩ | ⟨k, -, -, rfl, -⟩ | ⟨-, rfl, -⟩
  · exact sameSeq_loadRecord s r
  · exact (sameSeq_loadRecord s r).trans (sameSeq_drawSeeds _)
  · exact sameSeq_loadRecord s r

theorem State.Io.enforce {s t : State} (h : s.Io t) (r : ChangeRec) : (s.enforce r).Io (t.enforce r) := by
  obtain ⟨l, m, a, b, d, e, rfl⟩ := h
  exact ⟨l, m, a, b, d, e, rfl⟩

theorem recordFails_io {s t : State} (h : s.Io t) (r : ChangeRec) : t.recordFails r false = s.recordFails r false := by
  obtain ⟨_, _, _, _, _, _, rfl⟩ := h
  rfl

theorem actual_io {s t : State} (h : s.Io t) : t.actual false = s.actual false := by
  obtain ⟨_, _, _, _, _, _, rfl⟩ := h
  rfl

/-- A new key leaves the authorities as they are. -/
theorem putKey_binds (s : State) (k : KeySlot) :
    (s.putKey k).sec.authority = s.sec.authority ∧ (s.putKey k).sec.requireUnit = s.sec.requireUnit := by
  unfold State.putKey
  split <;> exact ⟨rfl, rfl⟩

/-- The change record's effect where it passes the plumb check and is no plan. -/
theorem secChange_passes {s v : State} {u : Sub} {r : ChangeRec} {pl : List PlaceRef} (hc : s.Calm) (ht : s.Takes u (.secChange r))
    (hok : s.recordFails r false = none) (htry : s.Tries r v pl) (hnot : ∀ p, r.payload ≠ .plan p)
    (hplumb : ∀ x, v.Io x → x.plumb (s.actual false) pl = none) :
    ∃ t, exec (.secChange u r) s = .next t ∧ s.Posts t u .ok 0 0 ∧ (v.enforce r).Io t := by
  obtain ⟨x, t, hex, hpost, hx, hio⟩ := host_done (P := fun x => (v.enforce r).Io x) (st := .ok) (r := 0) (n := 0) ht rfl rfl (fun s' _ hio => by
    obtain ⟨w, hvw, htry'⟩ := htry.io hio
    refine ⟨w.enforce r, doSecChange_passes ((recordFails_io hio r).trans hok) htry' hnot (by rw [actual_io hio]; exact hplumb w hvw), ?_⟩
    obtain ⟨y, n, g, m, rfl⟩ := htry'.loaded
    exact ⟨rfl, rfl, ⟨[], rfl⟩, (hc.io hio).of_eq rfl rfl rfl rfl rfl rfl rfl rfl, hvw.enforce r⟩)
  have htx := (hx.trans hio).kept
  refine ⟨_, hex, hpost, ?_⟩
  obtain ⟨y, n, g, m, rfl⟩ := htry.loaded
  exact htx

/-- The change record's effect where its values do not pass. -/
theorem secChange_fails {s v : State} {u : Sub} {r : ChangeRec} {pl : List PlaceRef} {o : Offence} (hok : s.recordFails r false = none)
    (htry : s.Tries r v pl) (hplumb : ∀ x, v.Io x → x.plumb (s.actual false) pl = some o) {s' : State} (hio : s.Io s') :
    doSecChange u r s' = (s'.plumbRefuses o).refuseRecord u .securityChangeRecord := by
  obtain ⟨w, hvw, htry'⟩ := htry.io hio
  obtain ⟨k, hk⟩ := doSecChange_tries (u := u) ((recordFails_io hio r).trans hok) htry'
  rw [hk]
  unfold State.tryConfig
  rw [actual_io hio, hplumb w hvw]

/-- A plan that passes takes effect whole. -/
theorem secChange_plan {s : State} {u : Sub} {r : ChangeRec} {p : Plan} (hc : s.Calm) (ht : s.Takes u (.secChange r))
    (hok : s.recordFails r false = none) (hseq : s.sec.changeSeq < r.seq) (hp : r.payload = .plan p) (hctx : s.ctxs = [])
    (hcores : ∀ q, (s.loadRecord r).coresOf q = s.coresOf q)
    (hplumb : ∀ x, (s.loadRecord r).Io x → x.plumb (s.actual false) (s.resolve p.places) = none) :
    ∃ t, exec (.secChange u r) s = .next t ∧ s.Posts t u .ok 0 0 ∧
      t.boot = { s.boot with plan := some p, places := s.resolve p.places, unconf := false } ∧ t.sec.changeSeq = r.seq ∧
      (∀ x ∈ s.resolve p.places, ∀ i, x.img = some i → ∃ y, t.ctxs.get? (x.part, x.ctx) = some y ∧ y.state = .loading) ∧
      s.Io { t with boot := s.boot, sec := s.sec, ctxs := s.ctxs, regs := s.regs, cores := s.cores, tileFrames := s.tileFrames,
                    mortarFrames := s.mortarFrames, tiles := s.tiles, reports := s.reports, qry := s.qry, freeCtr := s.freeCtr } := by
  obtain ⟨v, t, hex, hpost, ⟨hboot, hsec, hload, hv⟩, hio⟩ := host_done (P := fun v =>
      v.boot = { s.boot with plan := some p, places := s.resolve p.places, unconf := false } ∧ v.sec.changeSeq = r.seq ∧
      (∀ x ∈ s.resolve p.places, ∀ i, x.img = some i → ∃ y, v.ctxs.get? (x.part, x.ctx) = some y ∧ y.state = .loading) ∧
      s.Io { v with boot := s.boot, sec := s.sec, ctxs := s.ctxs, regs := s.regs, cores := s.cores, tileFrames := s.tileFrames,
                    mortarFrames := s.mortarFrames, tiles := s.tiles, reports := s.reports, qry := s.qry, freeCtr := s.freeCtr })
    (st := .ok) (r := 0) (n := 0) ht rfl rfl (fun s' _ hio => by
    have htry : s.Tries r (s.loadRecord r) (s.resolve p.places) := .inl ⟨p, hp, rfl, rfl⟩
    have hloadIo := hio.loadRecord r
    have hres : s'.resolve p.places = s.resolve p.places := by
      obtain ⟨l, m, a, b, d, e, rfl⟩ := hio
      rfl
    have hcores' (q : Nat) : (s'.loadRecord r).coresOf q = s'.coresOf q := by
      have h1 : (s'.loadRecord r).coresOf q = (s.loadRecord r).coresOf q := by
        obtain ⟨_, _, _, _, _, _, h⟩ := hloadIo
        rw [h]
        rfl
      have h2 : s'.coresOf q = s.coresOf q := by
        obtain ⟨_, _, _, _, _, _, rfl⟩ := hio
        rfl
      rw [h1, h2, hcores q]
    have hdo := doSecChange_plan (u := u) ((recordFails_io hio r).trans hok) hp (by rw [actual_io hio, hres]; exact hplumb _ hloadIo)
    rw [hres] at hdo
    have hseq' := (sameSeq_loadRecord s' r).1
    obtain ⟨y, n, g, m, hl⟩ := loadRecord_frame s' r
    rw [hl] at hcores' hdo hseq'
    obtain ⟨x, c, g', k, a, b, ti, rp, q, n', hen, hx, hc'⟩ := enact_spec { s' with sec := y, freeCtr := n, regs := g, pmc := m } s' p
      (s.resolve p.places) (by obtain ⟨_, _, _, _, _, _, rfl⟩ := hio; exact hctx) hcores'
    rw [hen] at hdo
    refine ⟨_, hdo, rfl, rfl, ⟨[], rfl⟩, (hc.io hio).of_eq rfl rfl rfl rfl rfl rfl rfl rfl, ?_⟩
    obtain ⟨l, m, a, b, d, e, rfl⟩ := hio
    refine ⟨rfl, ?_, hc', l, _, a, b, d, e, rfl⟩
    exact (congrArg (fun z => Nat.max z r.seq) (hx.trans hseq')).trans (Nat.max_eq_right hseq.le))
  refine ⟨_, hex, hpost, ?_⟩
  obtain ⟨l, m, a, b, d, e, rfl⟩ := hio
  exact ⟨hboot, hsec, hload, State.Io.kept (hv.trans ⟨l, m, a, b, d, e, rfl⟩)⟩

/-- Settles O52: by whether the record passes R653, by its payload, and by what the plumb check says. -/
theorem changes : Obligations.Changes := by
  intro s u r ok hc ht hok
  have hfails : ok ↔ s.recordFails r false = none := hok.trans (recordFails_none_iff s r).symm
  refine ⟨fun hno => ?_, fun v pl o hyes hv hplumb => ?_, fun v hyes hv hplumb => ?_, fun a b n hp hn => ⟨?_, ?_, ?_⟩, fun a b c hp => ?_,
    fun k hyes hp hk => ?_, fun p pl hyes hp hpl hctx hcores hplumb => ?_, fun hyes hp => ?_, fun w hyes hp hw => ⟨fun st hst => ?_, fun hsp ha hl => ?_⟩⟩
  · obtain ⟨s', t, hex, hpost, hs', hio⟩ := host_acts (st := .securityChangeRecord) (r := 0) (n := 0)
      (fun v => v.bump Fld.SEC_CHANGE_REFUSED_COUNT) ht rfl rfl (fun v hv => ⟨doSecChange_refuses (hno.imp (fun h hf =>
        h (hfails.2 ((recordFails_io hv r).symm.trans hf))) id), rfl, rfl, ⟨[], rfl⟩, (hc.io hv).of_eq rfl rfl rfl rfl rfl rfl rfl rfl⟩)
    refine ⟨_, hex, hpost, ?_⟩
    obtain ⟨l, m, a, b, d, e, rfl⟩ := hs'
    obtain ⟨l', m', a', b', d', e', rfl⟩ := hio
    exact io_of_twice rfl
  · exact plumb_refuses o hc ht (fun s' hio => secChange_fails (hfails.1 hyes) hv hplumb hio)
  · obtain ⟨hwf, -, -, -, hseq, -⟩ := hok.1 hyes
    have htry : s.Tries r v s.boot.places := by
      rcases hv with ⟨k, hp, hk, rfl⟩ | ⟨hp, rfl⟩
      · exact .inr (.inl ⟨k, hp, hk, rfl, rfl⟩)
      · exact .inr (.inr ⟨hp, rfl, rfl⟩)
    have hkind := kind_of_wellFormed hwf
    have hsmall : r.kind ≤ 4 ∧ ∀ p, r.payload ≠ .plan p := by
      rcases hv with ⟨k, hp, -⟩ | ⟨⟨a, b, hp⟩ | ⟨a, b, c, hp⟩, -⟩ <;> rw [hp] at hkind ⊢ <;> exact ⟨hkind.le.trans (by decide), fun p h => nomatch h⟩
    obtain ⟨t, hex, hpost, hio⟩ := secChange_passes hc ht (hfails.1 hyes) htry hsmall.2 hplumb
    refine ⟨t, hex, hpost, hio.sec.trans (enforce_latest htry.sameSeq hseq hsmall.1), ?_⟩
    obtain ⟨l, m, a, b, d, e, rfl⟩ := hio
    exact ⟨l, m, a, b, d, e, rfl⟩
  · unfold State.loadRecord
    rw [hp]
    exact fld_setFld_same _ _ _ 0 0 (by decide) (by decide)
  · unfold State.loadRecord
    rw [hp]
    refine (congrArg (fun z => bitsOf z (2 * n + 1) (2 * n)) ((fld_setFld_other (s.setFld Fld.SEC_ALARM_POLICY_LEVELS (flooredLevels a))
      Fld.SEC_ALARM_POLICY_ATTEST_LIMIT Fld.SEC_ALARM_POLICY_LEVELS b 0 0 0 0 (by decide) (by decide) (by decide)).trans
      (fld_setFld_same s Fld.SEC_ALARM_POLICY_LEVELS (flooredLevels a) 0 0 (by decide) (by decide)))).trans ?_
    exact bitsOf_flooredLevels a hn
  · unfold State.loadRecord
    rw [hp]
    rfl
  · unfold State.loadRecord
    rw [hp]
    dsimp only
    exact ⟨(putKey_binds _ _).1.trans (putKey_binds _ _).1, (putKey_binds _ _).2.trans (putKey_binds _ _).2⟩
  · obtain ⟨t, hex, hpost, hreason, -, hregs, hio⟩ := plumb_refuses ⟨0x66, none⟩ hc ht
      (fun s' hio => doSecChange_foreign ((recordFails_io hio r).trans (hfails.1 hyes)) hp hk)
    exact ⟨t, hex, hpost, hreason, hregs, hio⟩
  · subst hpl
    exact secChange_plan hc ht (hfails.1 hyes) (hok.1 hyes).2.2.2.2.1 hp hctx hcores hplumb
  · obtain ⟨hwf, -, -, -, hseq, -⟩ := hok.1 hyes
    have hkind := kind_of_wellFormed hwf
    rw [hp] at hkind
    obtain ⟨s', t, hex, hpost, hs', hio⟩ := host_acts (st := .ok) (r := 0) (n := 0)
      (fun v => { v with sec := { s.sec with debug := true, changeSeq := r.seq } }) ht rfl rfl (fun v hv => by
      have hdo := doSecChange_debug (u := u) ((recordFails_io hv r).trans (hfails.1 hyes)) hp hkind (by rw [hv.sec]; exact hseq)
      rw [hv.sec] at hdo
      exact ⟨hdo, rfl, rfl, ⟨[], rfl⟩, (hc.io hv).of_eq rfl rfl rfl rfl rfl rfl rfl rfl⟩)
    refine ⟨_, hex, hpost, ?_⟩
    obtain ⟨l, m, a, b, d, e, rfl⟩ := hs'
    obtain ⟨l', m', a', b', d', e', rfl⟩ := hio
    exact ⟨rfl, io_of_twice rfl⟩
  · obtain ⟨s', t, hex, hpost, hs', hio⟩ := host_acts (st := st) (r := 0) (n := 0)
      (fun v => State.bump { v with sec := { s.sec with raw := w } } Fld.SEC_CHANGE_REFUSED_COUNT) ht rfl rfl (fun v hv => by
      have hdo := (doSecChange_rearm (u := u) ((recordFails_io hv r).trans (hfails.1 hyes)) hp).trans
        (rearm_refuses (u := u) (r := r) (w := w) (st := st)
          (by obtain ⟨l, m, a, b, d, e, rfl⟩ := hv; exact hw) (by rw [hv.sec]; exact hst))
      rw [hv.sec] at hdo
      exact ⟨hdo, rfl, rfl, ⟨[], rfl⟩, (hc.io hv).of_eq rfl rfl rfl rfl rfl rfl rfl rfl⟩)
    refine ⟨_, hex, hpost, ?_⟩
    obtain ⟨l, m, a, b, d, e, rfl⟩ := hs'
    obtain ⟨l', m', a', b', d', e', rfl⟩ := hio
    exact ⟨rfl, io_of_twice rfl⟩
  · obtain ⟨hwf, -, -, -, hseq, -⟩ := hok.1 hyes
    have hkind := kind_of_wellFormed hwf
    rw [hp] at hkind
    obtain ⟨s', t, hex, hpost, hs', hio⟩ := host_acts (st := .ok) (r := 0) (n := 0)
      (fun v => { v with
        sec := { s.sec with raw := w, latched := 0, level := 0, frozen := false, changeSeq := r.seq }
        pins := { s.pins with alarmOut := false } }) ht rfl rfl (fun v hv => by
      have hdo := (doSecChange_rearm (u := u) ((recordFails_io hv r).trans (hfails.1 hyes)) hp).trans
        (rearm_clears (u := u) (r := r) (w := w)
          (by obtain ⟨l, m, a, b, d, e, rfl⟩ := hv; exact hw) (by rw [hv.sec]; exact hsp) (by rw [hv.sec]; exact ha) (by rw [hv.sec]; exact hl)
          hkind (by rw [hv.sec]; exact hseq))
      rw [hv.sec] at hdo
      have hpins : v.pins = s.pins := by
        obtain ⟨l, m, a, b, d, e, rfl⟩ := hv
        rfl
      rw [hpins] at hdo
      exact ⟨hdo, rfl, rfl, ⟨[], rfl⟩, (hc.io hv).of_eq rfl rfl rfl rfl rfl rfl rfl rfl⟩)
    refine ⟨_, hex, hpost, ?_⟩
    obtain ⟨l, m, a, b, d, e, rfl⟩ := hs'
    obtain ⟨l', m', a', b', d', e', rfl⟩ := hio
    exact ⟨rfl, rfl, io_of_twice rfl⟩

end Sys2Proof.Machine
end

section
/-!
PROOFS. The removal of a tenant that waits for a completion of an earlier command of its own tag (O25).
-/

namespace Sys2Proof.Machine

open Sys2Proof

-- The state ----------------------------------------------------------------------------------------------------------------------------------

/-- A PART_REMOVE of partition 1 with tag 7, at submission queue 0 of PF0. -/
def removeCommand : Sub := ⟨⟨0, 0⟩, some 0, 7, {}, 1, 0, false, false, none⟩

/-- A removal record for partition 1, of the bound authorities 3 and 4. -/
def removeRecord : ChangeRec := ⟨0x31434346, 1, 0, true, 7, 1, 0, 6, 0, 3, 4, true, true, 88, .removal⟩

/-- The device of `resetPending`, in which an old completion with tag 7 waits in another completion queue, with bound authorities and one
peer admitted for partition 1. -/
def removePending : State :=
  { resetPending with
    sec := { resetPending.sec with authority := some (3, 4) }
    peers := [(1023, ⟨77, .admitted, true, 7, 2, 9, 0, 0, false, false, [], []⟩)] }

-- It satisfies the premises ---------------------------------------------------------------------------------------------------------------------

theorem removePending_idle : removePending.Idle := resetPending_idle.of_rest rfl

theorem removePending_takes : removePending.Takes removeCommand (.partRemove removeRecord) where
  queue := ⟨0, _, _, rfl, rfl, rfl, by decide, rfl, rfl, rfl, by decide, rfl⟩
  fetches := by decide +kernel
  plain := by decide +kernel
  ready := rfl
  passes := by decide +kernel

theorem removePending_posted : removePending.allPosted 1 = true := by decide +kernel

theorem removePending_record : removePending.recordFails removeRecord false = none := by decide +kernel

theorem removePending_peers : removePending.peers.filter (fun kv => kv.2.state == .admitted && bitOf kv.2.parts 1) ≠ [] := by decide +kernel

-- The fetch makes the old completion one of the partition's (R663 order 1) ---------------------------------------------------------------------

/-- The orders of R663 to which the removals of an outcome have come. -/
def removalOrders (o : Host.Outcome State Fault Refusal) : List Nat :=
  match o with
  | .next t => t.removals.map (fun kv => kv.2.order)
  | _ => []

/-- The command's own outstanding tag makes the old completion one of partition 1, and the removal waits at order 1 until it is written. -/
theorem removePending_waits : removalOrders (exec (.partRemove removeCommand removeRecord) removePending) = [1] := by decide +kernel

/-- Refutes O25: between the premise that every completion of the partition has been written and order 1 of R663 the command is fetched, and its
tag becomes outstanding; a completion of an earlier command with that tag that waits in another completion queue then counts as one of the
partition's, so the removal does not come to order 3. -/
theorem not_tenantRemoval : ¬ Obligations.TenantRemoval := by
  intro h
  obtain ⟨t, x, hex, hr, horder, -⟩ := (h removePending 1).1 removeCommand removeRecord removePending_idle removePending_takes rfl
    removePending_record rfl rfl removePending_posted resetPending_still removePending_peers
  have hwaits := removePending_waits
  rw [hex] at hwaits
  simp [removalOrders, hr, horder] at hwaits

end Sys2Proof.Machine
end

section
/-!
PROOFS. How vector collections are made, filled and dropped (R471 to R480, R494, R527).
-/

namespace Sys2Proof.Machine

open Sys2Proof

-- Which collections a command may act on (R478 order 1, R732) ----------------------------------------------------------------------------------

theorem collOf_own {s : State} {p n : Nat} {c : Coll} (h : s.colls.get? n = some c) (hp : c.part = p) (hd : c.dropping = false) :
    s.collOf p n = some c := by
  unfold State.collOf
  rw [h]
  simp [hp, hd]

theorem collOf_none {s : State} {p n : Nat} {c : Coll}
    (h : s.colls.get? n = none ∨ s.colls.get? n = some c ∧ (c.part ≠ p ∨ c.dropping = true)) : s.collOf p n = none := by
  unfold State.collOf
  rcases h with h | ⟨h, hc⟩
  · rw [h]
  · rw [h]
    refine if_neg (fun hb => ?_)
    obtain ⟨h1, h2⟩ := Bool.and_eq_true_iff.1 hb
    rcases hc with hc | hc
    · exact hc (beq_iff_eq.1 h1)
    · rw [hc] at h2
      cases h2

theorem collFor_own {s : State} {p n : Nat} {c : Coll} (h : s.colls.get? n = some c) (hp : c.part = p) (hd : c.dropping = false) :
    s.collFor p n = if c.closed then .error .mediaLpddr6 else .ok c := by
  unfold State.collFor
  rw [collOf_own h hp hd]

theorem collFor_none {s : State} {p n : Nat} {c : Coll}
    (h : s.colls.get? n = none ∨ s.colls.get? n = some c ∧ (c.part ≠ p ∨ c.dropping = true)) : s.collFor p n = .error .configCollectionUnknown := by
  unfold State.collFor
  rw [collOf_none h]

-- VSR_CREATE (R471 to R473) --------------------------------------------------------------------------------------------------------------------

theorem freeColl_lowest {s : State} {n : Nat} (hn : n < 256) (hfree : s.colls.get? n = none) (hlow : ∀ k, k < n → s.colls.get? k ≠ none) :
    s.freeColl = some n := by
  refine List.find?_range_eq_some.2 ⟨?_, List.mem_range.2 hn, fun k hk => ?_⟩
  · rw [AMap.has, hfree]
    rfl
  · obtain ⟨c, hc⟩ := Option.ne_none_iff_exists'.1 (hlow k hk)
    rw [AMap.has, hc]
    rfl

theorem freeColl_none {s : State} (h : ∀ n, n < 256 → s.colls.get? n ≠ none) : s.freeColl = none := by
  refine List.find?_eq_none.2 (fun k hk => ?_)
  obtain ⟨c, hc⟩ := Option.ne_none_iff_exists'.1 (h k (List.mem_range.1 hk))
  rw [AMap.has, hc]
  exact fun h => nomatch h

theorem freeColl_some {s : State} {n : Nat} (hn : n < 256) (hfree : s.colls.get? n = none) : ∃ m, s.freeColl = some m := by
  refine Option.isSome_iff_exists.1 (List.find?_isSome.2 ⟨n, List.mem_range.2 hn, ?_⟩)
  rw [AMap.has, hfree]
  rfl

/-- A new collection of a partition. -/
def Coll.made (p : Nat) (a : VsrCreateArgs) (off : Nat) : Coll :=
  { part := p, ctx := a.ctx, geom := a.geom, entry := none, graphLen := 0, tombEpoch := 0, nodes := [], items := [], extOff := off
    extSize := a.geom.extent, dropping := false, closed := false, asked := false, sweep := false, held := 0 }

section Create

variable {s : State} {u : Sub} {p : Nat} {a : VsrCreateArgs} (hp : s.subPart u = p)
include hp

theorem doVsrCreate_makes {x : Ctx} {n off : Nat} (hg : a.geom.ok = true) (hx : s.ctx p a.ctx = some x) (hk : x.img.kind = .search)
    (ha : x.state ≠ .absent) (hn : s.freeColl = some n) (hfit : firstFit a.geom.extent x.img.arena 0 (s.extents p a.ctx) = some off) :
    doVsrCreate u a s = State.complete { s with colls := s.colls.set n (Coll.made p a off) } u .ok n := by
  unfold doVsrCreate
  dsimp only
  rw [hp, if_neg (by rw [hg]; decide), hx]
  dsimp only
  rw [if_neg (by simp [hk, ha]), hn]
  dsimp only
  rw [hfit]
  rfl

theorem doVsrCreate_refuses {x : Ctx} {st : Status} (h : a.geom.ok = false ∧ st = .configCollectionGeometry ∨
    a.geom.ok = true ∧ s.ctx p a.ctx = none ∧ st = .configContextKind ∨
    a.geom.ok = true ∧ s.ctx p a.ctx = some x ∧ (x.img.kind ≠ .search ∨ x.state = .absent) ∧ st = .configContextKind ∨
    a.geom.ok = true ∧ s.ctx p a.ctx = some x ∧ x.img.kind = .search ∧ x.state ≠ .absent ∧
      ((∀ n, n < 256 → s.colls.get? n ≠ none) ∧ st = .limitCollections ∨
        (∃ n, n < 256 ∧ s.colls.get? n = none) ∧ firstFit a.geom.extent x.img.arena 0 (s.extents p a.ctx) = none ∧ st = .quotaSearchArena)) :
    doVsrCreate u a s = s.complete u st := by
  unfold doVsrCreate
  dsimp only
  rw [hp]
  rcases h with ⟨hg, rfl⟩ | ⟨hg, hx, rfl⟩ | ⟨hg, hx, hc, rfl⟩ | ⟨hg, hx, hk, ha, ⟨hfull, rfl⟩ | ⟨⟨n, hn, hfree⟩, hfit, rfl⟩⟩
  · exact if_pos (by rw [hg]; rfl)
  · rw [if_neg (by rw [hg]; decide), hx]
  all_goals
    rw [if_neg (by rw [hg]; decide), hx]
    dsimp only
  · exact if_pos (by rcases hc with h | h <;> simp [h])
  · rw [if_neg (by simp [hk, ha]), freeColl_none hfull]
  · obtain ⟨m, hm⟩ := freeColl_some hn hfree
    rw [if_neg (by simp [hk, ha]), hm]
    dsimp only
    rw [hfit]

end Create

-- Items (R478 to R480) --------------------------------------------------------------------------------------------------------------------------

/-- The node that an insert adds (R479). -/
def Coll.inserted (c : Coll) (i : VsrItem) : Coll :=
  { c with
    nodes := c.nodes ++ [⟨i.sketch % 2 ^ c.geom.sketchBits, i.vec, i.scale, [], i.item, 0⟩]
    items := c.items.set i.item c.nodes.length }

section Items

variable {s : State} {u : Sub} {p : Nat} (hp : s.subPart u = p)
include hp

theorem doVsrInsert_adds {i : VsrItem} {c : Coll} (hc : s.colls.get? i.coll = some c) (hpart : c.part = p) (hd : c.dropping = false)
    (hcl : c.closed = false) (h1 : i.item ≠ 0xFFFFFFFF) (h2 : i.vec.length = c.geom.dims) (h3 : c.live i.item = none)
    (h4 : c.sideLen ≠ 16777216) (h5 : c.nodes.length ≠ c.geom.capacity) : doVsrInsert u i s =
      State.complete (State.bump { s with colls := s.colls.set i.coll (c.inserted i) } Fld.VSR_INSERTS_COUNT p) u .ok := by
  unfold doVsrInsert State.checkInsert
  dsimp only
  rw [hp, collFor_own hc hpart hd, if_neg (by rw [hcl]; decide)]
  dsimp only
  rw [if_neg (by simp [h1, h2]), if_neg (by simp [h3]), if_neg h4, if_neg h5]
  unfold State.modColl
  dsimp only
  rw [AMap.modify_some hc]
  rfl

theorem doVsrInsert_refuses {i : VsrItem} {c : Coll} {st : Status} (h : s.colls.get? i.coll = none ∧ st = .configCollectionUnknown ∨
    s.colls.get? i.coll = some c ∧
      ((c.part ≠ p ∨ c.dropping = true) ∧ st = .configCollectionUnknown ∨
        c.part = p ∧ c.dropping = false ∧
          (c.closed = true ∧ st = .mediaLpddr6 ∨
            c.closed = false ∧ ((i.item = 0xFFFFFFFF ∨ i.vec.length ≠ c.geom.dims) ∧ st = .configItemRange ∨
              i.item ≠ 0xFFFFFFFF ∧ i.vec.length = c.geom.dims ∧ (c.live i.item ≠ none ∧ st = .configItemExists ∨
                c.live i.item = none ∧ (c.sideLen = 16777216 ∧ st = .limitSideList ∨
                  c.sideLen ≠ 16777216 ∧ c.nodes.length = c.geom.capacity ∧ st = .limitCollectionFull)))))) :
    doVsrInsert u i s = (if st = .limitSideList then s.bump Fld.VSR_SIDE_REFUSALS_COUNT p else s).complete u st := by
  have hcheck : s.checkInsert p i = some st := by
    unfold State.checkInsert
    rcases h with ⟨hn, rfl⟩ | ⟨hs, ⟨hc, rfl⟩ | ⟨hpart, hd, h⟩⟩
    · rw [collFor_none (c := c) (.inl hn)]
    · rw [collFor_none (.inr ⟨hs, hc⟩)]
    · rw [collFor_own hs hpart hd]
      rcases h with ⟨hcl, rfl⟩ | ⟨hcl, h⟩
      · rw [if_pos hcl]
      · rw [if_neg (by rw [hcl]; decide)]
        dsimp only
        rcases h with ⟨h1, rfl⟩ | ⟨h1, h2, h⟩
        · exact if_pos (by rcases h1 with h1 | h1 <;> simp [h1])
        · rw [if_neg (by simp [h1, h2])]
          rcases h with ⟨h3, rfl⟩ | ⟨h3, h⟩
          · exact if_pos (Option.isSome_iff_ne_none.2 h3)
          · rw [if_neg (by simp [h3])]
            rcases h with ⟨h4, rfl⟩ | ⟨h4, h5, rfl⟩
            · exact if_pos h4
            · rw [if_neg h4, if_pos h5]
  unfold doVsrInsert
  dsimp only
  rw [hp, hcheck]
  dsimp only
  by_cases hst : st = .limitSideList
  · rw [if_pos hst, if_pos (beq_iff_eq.2 hst)]
  · rw [if_neg hst, if_neg (fun h => hst (beq_iff_eq.1 h))]

/-- A collection with one node of it tombstoned (R480). -/
def Coll.deleted (c : Coll) (n : Nat) : Coll :=
  { c with
    tombEpoch := c.tombEpoch + 1
    nodes := c.nodes.modify n (fun x => { x with del := c.tombEpoch + 1 }) }

theorem doVsrDelete_deletes {coll item n : Nat} {c : Coll} (hc : s.colls.get? coll = some c) (hpart : c.part = p) (hd : c.dropping = false)
    (hcl : c.closed = false) (hl : c.live item = some n) :
    doVsrDelete u coll item s = State.complete { s with colls := s.colls.set coll (c.deleted n) } u .ok := by
  unfold doVsrDelete
  rw [hp, collFor_own hc hpart hd, if_neg (by rw [hcl]; decide)]
  dsimp only
  rw [hl]
  unfold State.modColl
  dsimp only
  rw [AMap.modify_some hc]
  rfl

theorem doVsrDelete_unknown {coll item : Nat} {c : Coll} (hc : s.colls.get? coll = some c) (hpart : c.part = p) (hd : c.dropping = false)
    (hcl : c.closed = false) (hl : c.live item = none) : doVsrDelete u coll item s = s.complete u .configItemUnknown := by
  unfold doVsrDelete
  rw [hp, collFor_own hc hpart hd, if_neg (by rw [hcl]; decide)]
  dsimp only
  rw [hl]

theorem doVsrDrop_drops {coll : Nat} {c : Coll} (hc : s.colls.get? coll = some c) (hpart : c.part = p) (hd : c.dropping = false)
    (hscan : s.scans.get? coll = none) : doVsrDrop u coll s = State.complete { s with
      colls := (if c.held = 0 then s.colls.erase coll else s.colls.set coll { c with dropping := true }), scans := s.scans.erase coll } u .ok := by
  unfold doVsrDrop
  rw [hp, collOf_own hc hpart hd]
  dsimp only
  have hends : s.endScans coll .configCollectionUnknown = { s with scans := s.scans.erase coll } := by
    unfold State.endScans State.scanOf AMap.getD
    rw [hscan]
    rfl
  rw [hends]
  by_cases hh : c.held = 0
  · rw [if_pos hh, if_pos hh]
  · rw [if_neg hh, if_neg hh]
    unfold State.modColl
    dsimp only
    rw [AMap.modify_some hc]

theorem doVsrDrop_unknown {coll : Nat} {c : Coll}
    (h : s.colls.get? coll = none ∨ s.colls.get? coll = some c ∧ (c.part ≠ p ∨ c.dropping = true)) :
    doVsrDrop u coll s = s.complete u .configCollectionUnknown := by
  unfold doVsrDrop
  rw [hp, collOf_none h]

end Items

theorem live_of {c : Coll} {item n : Nat} {x : Node} (hi : c.items.get? item = some n) (hx : c.nodes[n]? = some x) (hd : x.del = 0) :
    c.live item = some n := by
  unfold Coll.live
  rw [hi]
  dsimp only
  rw [hx]
  exact if_pos hd

/-- Settles O47: each command by its checks, in the orders that the rules give. -/
theorem collections : Obligations.Collections := by
  intro s u p hc hp
  refine ⟨fun a x n off ht hg hx hk ha ⟨hn, hfree, hlow⟩ hfit => ?_, fun a x st ht h => ?_, fun i c ht hcoll hpart hd hcl h1 h2 h3 h4 h5 => ?_,
    fun i c st ht h => ?_, fun coll item n c x ht hcoll hpart hd hcl hi hx hdel => ?_, fun coll item c ht hcoll hpart hd hcl hl => ?_,
    fun coll c ht hcoll hpart hd hscan => ?_, fun coll c ht h => ?_⟩
  · obtain ⟨s', t, hex, hpost, hs', hio⟩ := host_acts (st := .ok) (r := n) (n := 0)
      (fun v => { v with colls := s.colls.set n (Coll.made p a off) }) ht rfl rfl (fun v hv => by
      obtain ⟨l, m, b, d, e, f, rfl⟩ := hv
      exact ⟨doVsrCreate_makes (s := { s with out := l ++ s.out, pmc := m, sqs := b, cqs := d, bounce := e, arrived := f }) hp hg hx hk ha
        (freeColl_lowest hn hfree hlow) hfit, rfl, rfl, ⟨[], rfl⟩, hc.of_eq rfl rfl rfl rfl rfl rfl rfl rfl⟩)
    refine ⟨_, Coll.made p a off, hex, hpost, ?_⟩
    obtain ⟨l, m, b, d, e, f, rfl⟩ := hs'
    obtain ⟨l', m', b', d', e', f', rfl⟩ := hio
    exact ⟨rfl, rfl, rfl, rfl, rfl, rfl, rfl, rfl, rfl, rfl, rfl, rfl, io_of_twice rfl⟩
  · refine host_refuses hc ht rfl rfl (fun v hv => ?_)
    obtain ⟨l, m, b, d, e, f, rfl⟩ := hv
    exact doVsrCreate_refuses (s := { s with out := l ++ s.out, pmc := m, sqs := b, cqs := d, bounce := e, arrived := f }) hp h
  · obtain ⟨s', t, hex, hpost, hs', hio⟩ := host_acts (st := .ok) (r := 0) (n := 0)
      (fun v => State.bump { v with colls := s.colls.set i.coll (c.inserted i) } Fld.VSR_INSERTS_COUNT p) ht rfl rfl (fun v hv => by
      obtain ⟨l, m, b, d, e, f, rfl⟩ := hv
      exact ⟨doVsrInsert_adds (s := { s with out := l ++ s.out, pmc := m, sqs := b, cqs := d, bounce := e, arrived := f }) hp hcoll hpart hd hcl
        h1 h2 h3 h4 h5, rfl, rfl, ⟨[], rfl⟩, hc.of_eq rfl rfl rfl rfl rfl rfl rfl rfl⟩)
    refine ⟨_, hex, hpost, ?_⟩
    obtain ⟨l, m, b, d, e, f, rfl⟩ := hs'
    obtain ⟨l', m', b', d', e', f', rfl⟩ := hio
    exact ⟨rfl, io_of_twice rfl⟩
  · obtain ⟨s', t, hex, hpost, hs', hio⟩ := host_acts (st := st) (r := 0) (n := 0)
      (fun v => if st = .limitSideList then v.bump Fld.VSR_SIDE_REFUSALS_COUNT p else v) ht rfl rfl (fun v hv => by
      obtain ⟨l, m, b, d, e, f, rfl⟩ := hv
      refine ⟨doVsrInsert_refuses (s := { s with out := l ++ s.out, pmc := m, sqs := b, cqs := d, bounce := e, arrived := f }) hp h, ?_⟩
      dsimp only
      split
      · exact ⟨rfl, rfl, ⟨[], rfl⟩, hc.of_eq rfl rfl rfl rfl rfl rfl rfl rfl⟩
      · exact ⟨rfl, rfl, ⟨[], rfl⟩, hc.of_eq rfl rfl rfl rfl rfl rfl rfl rfl⟩)
    refine ⟨_, hex, hpost, ?_⟩
    split at hio
    · rename_i hst
      rw [if_pos hst]
      obtain ⟨l, m, b, d, e, f, rfl⟩ := hs'
      obtain ⟨l', m', b', d', e', f', rfl⟩ := hio
      exact io_of_twice rfl
    · rename_i hst
      rw [if_neg hst]
      exact (hs'.trans hio).kept
  · obtain ⟨s', t, hex, hpost, hs', hio⟩ := host_acts (st := .ok) (r := 0) (n := 0)
      (fun v => { v with colls := s.colls.set coll (c.deleted n) }) ht rfl rfl (fun v hv => by
      obtain ⟨l, m, b, d, e, f, rfl⟩ := hv
      exact ⟨doVsrDelete_deletes (s := { s with out := l ++ s.out, pmc := m, sqs := b, cqs := d, bounce := e, arrived := f }) hp hcoll hpart hd hcl
        (live_of hi hx hdel), rfl, rfl, ⟨[], rfl⟩, hc.of_eq rfl rfl rfl rfl rfl rfl rfl rfl⟩)
    refine ⟨_, (c.deleted n).nodes, hex, hpost, ?_⟩
    have hnode : (c.deleted n).nodes[n]? = some { x with del := c.tombEpoch + 1 } := by
      unfold Coll.deleted
      rw [List.getElem?_modify_eq, hx]
      rfl
    obtain ⟨l, m, b, d, e, f, rfl⟩ := hs'
    obtain ⟨l', m', b', d', e', f', rfl⟩ := hio
    exact ⟨rfl, hnode, fun k hk => List.getElem?_modify_ne (Ne.symm hk) (f := fun x : Node => { x with del := c.tombEpoch + 1 }) (l := c.nodes), List.length_modify .., io_of_twice rfl⟩
  · refine host_refuses hc ht rfl rfl (fun v hv => ?_)
    obtain ⟨l, m, b, d, e, f, rfl⟩ := hv
    exact doVsrDelete_unknown (s := { s with out := l ++ s.out, pmc := m, sqs := b, cqs := d, bounce := e, arrived := f }) hp hcoll hpart hd hcl hl
  · obtain ⟨s', t, hex, hpost, hs', hio⟩ := host_acts (st := .ok) (r := 0) (n := 0)
      (fun v => { v with
        colls := (if c.held = 0 then s.colls.erase coll else s.colls.set coll { c with dropping := true }), scans := s.scans.erase coll })
      ht rfl rfl (fun v hv => by
      obtain ⟨l, m, b, d, e, f, rfl⟩ := hv
      exact ⟨doVsrDrop_drops (s := { s with out := l ++ s.out, pmc := m, sqs := b, cqs := d, bounce := e, arrived := f }) hp hcoll hpart hd hscan,
        rfl, rfl, ⟨[], rfl⟩, hc.of_eq rfl rfl rfl rfl rfl rfl rfl rfl⟩)
    refine ⟨_, hex, hpost, ?_⟩
    obtain ⟨l, m, b, d, e, f, rfl⟩ := hs'
    obtain ⟨l', m', b', d', e', f', rfl⟩ := hio
    exact ⟨rfl, AMap.get?_erase_same .., io_of_twice rfl⟩
  · refine host_refuses hc ht rfl rfl (fun v hv => ?_)
    obtain ⟨l, m, b, d, e, f, rfl⟩ := hv
    exact doVsrDrop_unknown (s := { s with out := l ++ s.out, pmc := m, sqs := b, cqs := d, bounce := e, arrived := f }) hp h

end Sys2Proof.Machine
end

section
/-!
PROOFS. Composition maps, meters and PEER_ADD (R588, R590, R595 to R597, R605, R606).
-/

namespace Sys2Proof.Machine

open Sys2Proof

-- Maps that are pruned (R596, R597) --------------------------------------------------------------------------------------------------------------

theorem AMap.map_set {κ α β : Type} [DecidableEq κ] (m : AMap κ α) (k : κ) (v : α) (g : α → β) :
    List.map (fun (kv : κ × α) => (kv.1, g kv.2)) (m.set k v) = AMap.set (List.map (fun (kv : κ × α) => (kv.1, g kv.2)) m) k (g v) := by
  induction m with
  | nil => rfl
  | cons a r ih =>
    obtain ⟨k', v'⟩ := a
    by_cases e : k' = k
    · simp [AMap.set, e]
    · simp [AMap.set, e, ih]

/-- A composition with only those of its old maps that something uses. -/
def State.prunedComp (s : State) (c : Comp) : Comp := { c with old := c.old.filter (fun m => s.mapUsed c.id m.epoch) }

theorem pruneMaps_comps {s : State} (h : ∀ kv ∈ s.comps, kv.2.removing = true → s.compIdle kv.2 = false) :
    s.pruneMaps.comps = s.comps.map (fun kv => (kv.1, s.prunedComp kv.2)) := by
  unfold State.pruneMaps
  dsimp only
  rw [List.filter_eq_self.2 (fun kv hk => by cases hr : kv.2.removing <;> simp [h kv hk, hr])]
  rfl

theorem pruneMaps_stays {s : State} (h : ∀ kv ∈ s.comps, kv.2.removing = true → s.compIdle kv.2 = false)
    (hold : ∀ kv ∈ s.comps, ∀ m ∈ kv.2.old, s.mapUsed kv.2.id m.epoch = true) : s.pruneMaps.comps = s.comps := by
  rw [pruneMaps_comps h]
  refine (List.map_congr_left (fun kv hk => ?_)).trans (List.map_id _)
  unfold State.prunedComp
  rw [List.filter_eq_self.2 (hold kv hk)]
  rfl

theorem prunedComp_calm {s : State} {c : Comp} (h : c.old = []) : s.prunedComp c = c := by
  unfold State.prunedComp
  rw [h, List.filter_nil, ← h]

/-- One map changed where the others are as in a calm device. -/
theorem pruneMaps_set {s : State} {m : AMap Nat Comp} {k : Nat} {c : Comp} (hs : s.comps = m.set k c)
    (hm : ∀ kv ∈ m, kv.2.removing = false ∧ kv.2.old = []) (hc : c.removing = false) : s.pruneMaps.comps = m.set k (s.prunedComp c) := by
  rw [pruneMaps_comps (fun kv hk hr => ?_), hs, AMap.map_set]
  · refine congrArg (fun l => AMap.set l k _) ((List.map_congr_left (fun kv hk => ?_)).trans (List.map_id _))
    rw [prunedComp_calm (hm kv hk).2]
    rfl
  · rw [hs] at hk
    rcases AMap.mem_set hk with hk | rfl
    · exact absurd hr (by simp [(hm kv hk).1])
    · exact absurd hr (by simp [hc])

-- CMP_INSTALL (R596) ----------------------------------------------------------------------------------------------------------------------------

theorem compById_eq (s : State) (id : Nat) : s.compById id = (s.comps.find? (fun kv => kv.2.id == id)).map (·.2) := by
  unfold State.compById
  rw [List.find?_map]
  rfl

theorem epochNewer_iff {a b : Nat} (hb : b < 2 ^ 32) : epochNewer a b = true ↔ 1 ≤ (a + 2 ^ 32 - b) % 2 ^ 32 ∧ (a + 2 ^ 32 - b) % 2 ^ 32 < 2 ^ 31 := by
  unfold epochNewer
  rw [Nat.mod_eq_of_lt hb, Bool.and_eq_true, decide_eq_true_eq, decide_eq_true_eq]
  omega

theorem epochNewer_false {a b : Nat} (h : (a + 2 ^ 32 - b % 2 ^ 32) % 2 ^ 32 = 0 ∨ 2 ^ 31 ≤ (a + 2 ^ 32 - b % 2 ^ 32) % 2 ^ 32) :
    epochNewer a b = false := by
  unfold epochNewer
  rw [Bool.and_eq_false_iff, decide_eq_false_iff_not, decide_eq_false_iff_not]
  omega

section Install

variable {s : State} {u : Sub} {p : Nat} {m : CMap} (hc : s.Calm) (hp : s.subPart u = p)

include hc hp in
theorem doCmpInstall_refuses {st : Status} (h : s.checkMap p m = some st) : doCmpInstall u m s = s.complete u st := by
  unfold doCmpInstall
  dsimp only
  rw [pruneMaps_calm hc, hp, h]

variable (hok : m.ok = true) (hpart : m.part = p)
include hok hpart

theorem checkMap_new (hn : s.compById m.comp = none) (hmain : ∀ kv ∈ s.comps, kv.2.part = p → kv.2.main ≠ m.main) :
    s.checkMap p m = if 256 ≤ s.comps.length then some .limitCompositions else none := by
  unfold State.checkMap
  rw [if_neg (by simp [hok, hpart]), hn]
  dsimp only
  rw [if_neg]
  intro h
  obtain ⟨kv, hk, he⟩ := List.any_eq_true.1 h
  obtain ⟨h1, h2⟩ := Bool.and_eq_true_iff.1 he
  exact hmain kv hk ((beq_iff_eq.1 h1).trans hpart) (beq_iff_eq.1 h2)

theorem checkMap_twice (hn : s.compById m.comp = none) (hmain : ∃ kv ∈ s.comps, kv.2.part = p ∧ kv.2.main = m.main) :
    s.checkMap p m = some .configMap := by
  obtain ⟨kv, hk, h1, h2⟩ := hmain
  unfold State.checkMap
  rw [if_neg (by simp [hok, hpart]), hn]
  exact if_pos (List.any_eq_true.2 ⟨kv, hk, by simp [h1, h2, hpart]⟩)

variable {c : Comp} (hs : s.compById m.comp = some c) (hrem : c.removing = false)
include hs hrem

theorem checkMap_other (h : c.part ≠ p ∨ c.main ≠ m.main) : s.checkMap p m = some .configMap := by
  unfold State.checkMap
  rw [if_neg (by simp [hok, hpart]), hs]
  dsimp only
  rw [if_neg (by simp [hrem])]
  exact if_pos (by rcases h with h | h <;> simp [h, hpart])

theorem checkMap_older (h1 : c.part = p) (h2 : c.main = m.main) (he : epochNewer m.epoch c.cur.epoch = false) :
    s.checkMap p m = some .configMap := by
  unfold State.checkMap
  rw [if_neg (by simp [hok, hpart]), hs]
  dsimp only
  rw [if_neg (by simp [hrem]), if_neg (by simp [h1, h2, hpart])]
  exact if_pos (by rw [he]; rfl)

theorem checkMap_newer (h1 : c.part = p) (h2 : c.main = m.main) (hold : c.old = []) (hb : c.cur.epoch < 2 ^ 32)
    (he : 1 ≤ (m.epoch + 2 ^ 32 - c.cur.epoch) % 2 ^ 32 ∧ (m.epoch + 2 ^ 32 - c.cur.epoch) % 2 ^ 32 < 2 ^ 31) : s.checkMap p m = none := by
  unfold State.checkMap
  rw [if_neg (by simp [hok, hpart]), hs]
  dsimp only
  rw [if_neg (by simp [hrem]), if_neg (by simp [h1, h2, hpart]), if_neg (by rw [(epochNewer_iff hb).2 he]; decide), hold]
  rw [if_neg (by simp only [List.any_cons, List.any_nil, Bool.or_false, decide_eq_true_eq, not_le]; exact he.2),
    if_neg (by decide)]

end Install

/-- A new composition in the first free entry. -/
theorem putMap_new {s : State} {m : CMap} {k : Nat} (hn : s.compById m.comp = none)
    (hk : k < 256 ∧ s.comps.get? k = none ∧ ∀ j, j < k → s.comps.get? j ≠ none) :
    s.putMap m = { s with comps := s.comps.set k ⟨m.comp, m.part, m.main, m, [], false, 0, 0, 0⟩ } := by
  obtain ⟨hlt, hfree, hlow⟩ := hk
  rw [compById_eq, Option.map_eq_none_iff] at hn
  have hfirst : (List.range 256).find? (fun k => !(s.comps.has k)) = some k := by
    refine List.find?_range_eq_some.2 ⟨?_, List.mem_range.2 hlt, fun j hj => ?_⟩
    · rw [AMap.has, hfree]
      rfl
    · obtain ⟨c, hc⟩ := Option.ne_none_iff_exists'.1 (hlow j hj)
      rw [AMap.has, hc]
      rfl
  unfold State.putMap
  rw [hn]
  dsimp only
  rw [hfirst]

theorem putMap_newer {s : State} {m : CMap} {k : Nat} {c : Comp} (h : s.comps.find? (fun kv => kv.2.id == m.comp) = some (k, c)) :
    s.putMap m = { s with comps := s.comps.set k { c with cur := m, old := c.cur :: c.old } } := by
  unfold State.putMap
  rw [h]

/-- A map that passes its checks, where no session moves out. -/
theorem doCmpInstall_puts {s v : State} {u : Sub} {p : Nat} {m : CMap} (hc : s.Calm) (hp : s.subPart u = p) (hcheck : s.checkMap p m = none)
    (hv : (s.putMap m).pruneMaps = v) (hmoves : v.movesOut = []) : doCmpInstall u m s = v.complete u .ok := by
  unfold doCmpInstall
  dsimp only
  rw [pruneMaps_calm hc, hp, hcheck]
  dsimp only
  rw [hv, hmoves]
  rfl

theorem pruneMaps_eq {s : State} {m : AMap Nat Comp} (h : s.pruneMaps.comps = m) : s.pruneMaps = { s with comps := m } := by
  rw [← h]
  rfl

/-- Comps of a calm device in which one map has replaced another. -/
theorem Still_set {s : State} (hc : s.Calm) {k : Nat} {c : Comp} (hr : c.removing = false)
    (hold : ∀ m ∈ c.old, s.mapUsed c.id m.epoch = true) : State.Still { s with comps := s.comps.set k c } where
  waiting := hc.waiting
  queue := hc.queue
  pulls := hc.pulls
  maps := by
    have hpruned : State.prunedComp { s with comps := s.comps.set k c } c = c := by
      refine Eq.trans (b := { c with old := c.old.filter (fun m => s.mapUsed c.id m.epoch) }) rfl ?_
      rw [List.filter_eq_self.2 hold]
    rw [pruneMaps_set (m := s.comps) (k := k) (c := c) rfl hc.maps hr, hpruned]
  resets := hc.resets
  removals := hc.removals
  removes := hc.removes
  restart := hc.restart

-- CMP_REMOVE (R596, R604) -------------------------------------------------------------------------------------------------------------------------

/-- A composition that is to be removed. -/
def Comp.leaving (c : Comp) : Comp := { c with removing := true }

/-- What a removal makes of the compositions. -/
def State.removedComps (s : State) (id k : Nat) (c : Comp) : AMap Nat Comp :=
  s.comps.filterMap (fun kv => if kv.2.id = id then (if s.compIdle c = true then none else some (k, c.leaving)) else some kv)

theorem doCmpRemove_eq {s : State} {u : Sub} {id : Nat} {c : Comp} (hc : s.compOf (s.subPart u) id = some c) : doCmpRemove u id s =
    (State.pruneMaps { s with comps := s.comps.map (fun (kv : Nat × Comp) => if kv.2.id = c.id then (kv.1, kv.2.leaving) else kv) }).complete u .ok := by
  unfold doCmpRemove
  rw [hc]
  rfl

theorem doCmpRemove_unknown {s : State} {u : Sub} {id : Nat} (hc : s.compOf (s.subPart u) id = none) :
    doCmpRemove u id s = s.complete u .configCompositionUnknown := by
  unfold doCmpRemove
  rw [hc]

theorem map_filter_map {α β γ : Type} {f : α → β} {g : β → Bool} {h : β → γ} {F : α → Option γ} {l : List α}
    (hF : ∀ x ∈ l, F x = if g (f x) then some (h (f x)) else none) : ((l.map f).filter g).map h = l.filterMap F := by
  induction l with
  | nil => rfl
  | cons x l ih =>
    have hx := hF x List.mem_cons_self
    have ih := ih (fun y hy => hF y (List.mem_cons_of_mem _ hy))
    by_cases hg : g (f x) = true
    · rw [if_pos hg] at hx
      rw [List.map_cons, List.filter_cons_of_pos hg, List.map_cons, ih, List.filterMap_cons_some hx]
    · rw [if_neg hg] at hx
      rw [List.map_cons, List.filter_cons_of_neg hg, ih, List.filterMap_cons_none hx]

/-- The compositions with one of them to be removed. -/
def State.setLeaving (s : State) (id : Nat) : State :=
  { s with comps := s.comps.map (fun (kv : Nat × Comp) => if kv.2.id = id then (kv.1, kv.2.leaving) else kv) }

/-- The removal of one composition of a calm device. -/
theorem pruneMaps_leaving {s : State} (hm : ∀ kv ∈ s.comps, kv.2.removing = false ∧ kv.2.old = []) {id k : Nat} {c : Comp}
    (hone : ∀ kv ∈ s.comps, kv.2.id = id → kv = (k, c)) : (s.setLeaving id).pruneMaps = { s with comps := s.removedComps id k c } := by
  refine pruneMaps_eq (s := s.setLeaving id) (map_filter_map (fun kv hk => ?_))
  obtain ⟨hr, ho⟩ := hm kv hk
  by_cases hid : kv.2.id = id
  · obtain rfl := hone kv hk hid
    rw [if_pos hid, if_pos hid]
    have hidle : (s.setLeaving id).compIdle c.leaving = s.compIdle c := rfl
    have hpruned : (s.setLeaving id).prunedComp c.leaving = c.leaving := prunedComp_calm ho
    dsimp only
    rw [hidle]
    by_cases hi : s.compIdle c = true
    · rw [if_pos hi, hi]
      rfl
    · rw [if_neg hi, Bool.eq_false_iff.2 hi]
      exact congrArg (fun x => some (k, x)) hpruned.symm
  · rw [if_neg hid, if_neg hid, hr]
    exact congrArg (fun x => some (kv.1, x)) (prunedComp_calm (s := s.setLeaving id) ho).symm

/-- A calm device in which one composition is to be removed. -/
theorem Still_removed {s : State} (hc : s.Calm) {id k : Nat} {c : Comp} (hone : ∀ kv ∈ s.comps, kv.2.id = id → kv = (k, c)) :
    State.Still { s with comps := s.removedComps id k c } where
  waiting := hc.waiting
  queue := hc.queue
  pulls := hc.pulls
  maps := by
    have hmem (kv : Nat × Comp) (hk : kv ∈ s.removedComps id k c) : kv.2.old = [] ∧ (kv.2.removing = true → s.compIdle kv.2 = false) := by
      obtain ⟨kv', hk', he⟩ := List.mem_filterMap.1 hk
      obtain ⟨hr, ho⟩ := hc.maps kv' hk'
      split at he
      · rename_i hid
        obtain rfl := hone kv' hk' hid
        split at he
        · cases he
        · rename_i hi
          cases he
          exact ⟨ho, fun _ => Bool.eq_false_iff.2 hi⟩
      · cases he
        exact ⟨ho, fun h => absurd h (by simp [hr])⟩
    exact pruneMaps_stays (s := { s with comps := s.removedComps id k c }) (fun kv hk => (hmem kv hk).2)
      (fun kv hk m hm => absurd ((hmem kv hk).1 ▸ hm) List.not_mem_nil)
  resets := hc.resets
  removals := hc.removals
  removes := hc.removes
  restart := hc.restart

/-- CMP_REMOVE of a composition of the partition. -/
theorem doCmpRemove_removes {s : State} {u : Sub} {p id k : Nat} {c : Comp} (hc : s.Calm) (hp : s.subPart u = p) (hmem : (k, c) ∈ s.comps)
    (hid : c.id = id) (hpart : c.part = p) (hone : ∀ kv ∈ s.comps, kv.2.id = id → kv = (k, c)) :
    doCmpRemove u id s = State.complete { s with comps := s.removedComps id k c } u .ok := by
  have hof : s.compOf p id = some c := by
    unfold State.compOf
    have hkey : (s.comps.map (·.2)).find? (fun c => c.id == id && c.part == p && !c.removing) =
        (s.comps.find? (fun kv => kv.2.id == id && kv.2.part == p && !kv.2.removing)).map (·.2) := by
      rw [List.find?_map]
      rfl
    rw [hkey]
    cases hf : s.comps.find? (fun kv => kv.2.id == id && kv.2.part == p && !kv.2.removing) with
    | none =>
      have hrem : c.removing = false := (hc.maps _ hmem).1
      exact absurd (by simp [hid, hpart, hrem]) (List.find?_eq_none.1 hf (k, c) hmem)
    | some kv =>
      have hsome := List.find?_some hf
      have hkv : kv.2.id = id := by
        simp only [Bool.and_eq_true, beq_iff_eq] at hsome
        exact hsome.1.1
      rw [hone kv (List.mem_of_find?_eq_some hf) hkv]
      rfl
  have hdo := doCmpRemove_eq (u := u) (by rw [hp]; exact hof)
  rw [hid] at hdo
  exact hdo.trans (congrArg (fun t : State => t.complete u .ok) (pruneMaps_leaving hc.maps hone))

theorem doCmpRemove_foreign {s : State} {u : Sub} {p id : Nat} (hp : s.subPart u = p) (h : ∀ kv ∈ s.comps, kv.2.id = id → kv.2.part ≠ p) :
    doCmpRemove u id s = s.complete u .configCompositionUnknown := by
  refine doCmpRemove_unknown ?_
  rw [hp]
  refine List.find?_eq_none.2 (fun c hc hb => ?_)
  obtain ⟨kv, hk, rfl⟩ := List.mem_map.1 hc
  simp only [Bool.and_eq_true, beq_iff_eq] at hb
  exact h kv hk hb.1.1 hb.1.2

-- Meters (R605, R606) -----------------------------------------------------------------------------------------------------------------------------

/-- What counting events of open amounts can change. -/
def State.Times (s t : State) : Prop := ∃ n m l, t = { s with freeCtr := n, pmc := m, out := l ++ s.out }

theorem State.Times.refl (s : State) : s.Times s := ⟨_, _, [], rfl⟩

theorem State.Times.trans {s t u : State} (h : s.Times t) (g : t.Times u) : s.Times u := by
  obtain ⟨_, _, l, rfl⟩ := h
  obtain ⟨n, m, l', rfl⟩ := g
  exact ⟨n, m, l' ++ l, by rw [List.append_assoc]⟩

theorem times_countOpen (s : State) (e : Nat → PmcEv) : s.Times (s.countOpen e) := by
  obtain ⟨m, l, h⟩ := count_frame s.draw.2 (e (Config.elapsed s.draw.1))
  exact ⟨_, m, l, h⟩

theorem times_pmcAdd_if (s : State) (c : Bool) (part : Option Nat) (sel : Reg) :
    s.Times (if c then s.draw.2.pmcAdd part sel (Config.elapsed s.draw.1) else s) := by
  split
  · obtain ⟨m, l, h⟩ := pmcAdd_frame s.draw.2 part sel (Config.elapsed s.draw.1)
    exact ⟨_, m, l, h⟩
  · exact .refl s

theorem times_countTraffic (s : State) (sel : Reg) (v : Nat) : s.Times (s.countTraffic sel v) := times_pmcAdd_if ..

theorem times_fold {α : Type} {g : State → α → State} (hg : ∀ s a, State.Times s (g s a)) (l : List α) (s : State) : s.Times (l.foldl g s) :=
  foldl_keeps State.Times .refl (fun _ _ _ => .trans) g hg l s

theorem timeEvents_times (s : State) : s.Times s.timeEvents := by
  unfold State.timeEvents
  dsimp only
  refine State.Times.trans (times_fold (fun a kv => ?_) s.cores s) (times_fold (fun a (rv : Reg × Word64) => times_countTraffic a rv.1 rv.2.toNat) _ _)
  split
  · exact .refl a
  · exact times_fold (fun b code => times_countOpen b _) _ a

theorem doMeterTick_eq {s : State} (h : s.boot.phase ≠ .off) : doMeterTick s = (State.tick { s with
    comps := s.comps.map (fun (kv : Nat × Comp) => (kv.1, s.meter kv.2))
    cores := s.cores.map (fun (kv : Nat × Core) => (kv.1, kv.2.nextTick)) }).timeEvents := if_neg h

theorem awake_on {s : State} (h : s.awake = true) : s.boot.phase ≠ .off := by
  intro hp
  unfold State.awake at h
  rw [hp] at h
  simp at h

-- PEER_ADD (R588, R590) ---------------------------------------------------------------------------------------------------------------------------

theorem doPeerAdd_joins {s : State} {u : Sub} {fabric parts i : Nat} {x : Peer} (h : s.admitting fabric = some (i, x)) :
    doPeerAdd u fabric parts s = { s with peers := s.peers.set i { x with parts := x.parts ||| parts % 65536, asks := x.asks ++ [u.owner] } } := by
  unfold doPeerAdd
  rw [h]

theorem portsTo_up {s : State} {fabric n : Nat} (h : n ∈ s.portsTo fabric) : ∃ x, s.ports.get? n = some x ∧ x.up = true := by
  unfold State.portsTo at h
  dsimp only at h
  obtain ⟨l, hl, rfl⟩ := List.mem_map.1 h
  have hup : (match s.ports.get? l.port with | some x => x.up | none => false) = true := by
    split at hl
    · exact (Bool.and_eq_true_iff.1 (List.mem_filter.1 hl).2).2
    · exact (Bool.and_eq_true_iff.1 (List.mem_filter.1 hl).2).2
  split at hup
  · exact ⟨_, ‹_›, hup⟩
  · cases hup

/-- The new entry of a PEER_ADD. -/
def Peer.asked (n parts fabric aon nonce : Nat) (o : Owner) : Peer := ⟨0, .admitting, false, n, parts % 65536, fabric, aon, 0, false, true, [o], [nonce]⟩

/-- A PEER_ADD for an endpoint whose admission is not under way. -/
theorem doPeerAdd_asks {s s1 : State} {u : Sub} {fabric parts i : Nat} (h : s.admitting fabric = none) (hn : s.newEntry = some (i, s1))
    (hp : s1.portsTo fabric ≠ []) : ∃ n nonce, n ∈ s1.portsTo fabric ∧
      doPeerAdd u fabric parts s = (State.sendTo { s1 with freeCtr := s1.freeCtr + 2
                                                           peers := s1.peers.set i (Peer.asked n parts fabric s1.aon nonce u.owner) }
        i 0 0 0 0 0 .bg (.admitAsk (parts % 65536) nonce)) := by
  have hpos : 0 < (s1.portsTo fabric).length := List.length_pos_iff.2 hp
  have hlt : Config.pick s1.freeCtr % Nat.max 1 (s1.portsTo fabric).length < (s1.portsTo fabric).length := by
    refine (Nat.mod_lt _ (by exact Nat.lt_of_lt_of_le Nat.one_pos (Nat.le_max_left _ _))).trans_eq (Nat.max_eq_right hpos)
  refine ⟨(s1.portsTo fabric)[Config.pick s1.freeCtr % Nat.max 1 (s1.portsTo fabric).length], Config.freeValue 77 (s1.freeCtr + 1), List.getElem_mem _, ?_⟩
  unfold doPeerAdd
  rw [h]
  dsimp only
  rw [hn]
  dsimp only [State.draw]
  rw [List.getElem?_eq_getElem hlt]
  rfl

theorem newEntry_full {s : State} (hfull : ∀ k, k < 1024 → s.peers.get? k ≠ none) : (List.range 1024).find? (fun i => !(s.peers.has i)) = none := by
  refine List.find?_eq_none.2 (fun k hk => ?_)
  obtain ⟨c, hc⟩ := Option.ne_none_iff_exists'.1 (hfull k (List.mem_range.1 hk))
  rw [AMap.has, hc]
  exact fun h => nomatch h

/-- The idle peers of a full table. -/
def State.idlePeers (s : State) : List (Nat × Peer) :=
  s.peers.filter (fun kv => decide (kv.1 < 1024) && kv.2.state == PeerState.admitted && s.busyOf kv.1 == 0)

theorem mem_idlePeers {s : State} {kv : Nat × Peer} : kv ∈ s.idlePeers ↔ kv ∈ s.peers ∧ kv.1 < 1024 ∧ kv.2.state = .admitted ∧ s.busyOf kv.1 = 0 := by
  unfold State.idlePeers
  rw [List.mem_filter, Bool.and_eq_true, Bool.and_eq_true, decide_eq_true_eq, beq_iff_eq, beq_iff_eq, and_assoc]

theorem newEntry_none {s : State} (hfull : ∀ k, k < 1024 → s.peers.get? k ≠ none)
    (hbusy : ∀ kv ∈ s.peers, kv.1 < 1024 → kv.2.state = .admitted → s.busyOf kv.1 ≠ 0) : s.newEntry = none := by
  have hidle : s.idlePeers = [] := List.eq_nil_iff_forall_not_mem.2 (fun kv hk => by
    obtain ⟨h1, h2, h3, h4⟩ := mem_idlePeers.1 hk
    exact hbusy kv h1 h2 h3 h4)
  have hleast : leastBy (fun (a b : Nat × Peer) => decide (a.2.lastUse < b.2.lastUse)) s.idlePeers = none := by
    rw [hidle]
    rfl
  unfold State.idlePeers at hleast
  unfold State.newEntry
  rw [newEntry_full hfull]
  dsimp only
  rw [hleast]

/-- The idle peer with the oldest LAST_USE gives way (R590). -/
theorem newEntry_evicts {s : State} {i : Nat} {x : Peer} (hfull : ∀ k, k < 1024 → s.peers.get? k ≠ none) (hi : i < 1024) (hm : (i, x) ∈ s.peers)
    (ha : x.state = .admitted) (hb : s.busyOf i = 0) (hask : x.asks = [])
    (hold : ∀ kv ∈ s.peers, kv ≠ (i, x) → kv.1 < 1024 → kv.2.state = .admitted → s.busyOf kv.1 = 0 → x.lastUse < kv.2.lastUse) :
    s.newEntry = some (i, State.bump { s with peers := s.peers.erase i } Fld.CMP_EVICTIONS_COUNT) := by
  have hleast : leastBy (fun (a b : Nat × Peer) => decide (a.2.lastUse < b.2.lastUse)) s.idlePeers = some (i, x) := by
    refine leastBy_of _ _ _ (mem_idlePeers.2 ⟨hm, hi, ha, hb⟩) (fun kv hk hne => ?_)
    obtain ⟨h1, h2, h3, h4⟩ := mem_idlePeers.1 hk
    have hlt := hold kv h1 hne h2 h3 h4
    exact ⟨decide_eq_true hlt, decide_eq_false (Nat.lt_asymm hlt)⟩
  unfold State.idlePeers at hleast
  unfold State.newEntry
  rw [newEntry_full hfull]
  dsimp only
  rw [hleast]
  dsimp only
  rw [hask]
  rfl

/-- A host command that ends nowhere yet. -/
theorem host_stays {s : State} {u : Sub} {c : HostCmd} {P : State → Prop} (ht : s.Takes u c) (hf : c.writesFlash = false) (hs : c.serial = false)
    (h : ∀ s', s.Io s' → (s'.startHost u c).Calm ∧ P (s'.startHost u c)) :
    ∃ t, (Host.Outcome.next (s.always (fun x => x.arrive u c)) : Host.Outcome State Fault Refusal) = .next (s.kept t) ∧ P t := by
  obtain ⟨s', hF, hn⟩ := next_host ht hf hs
  obtain ⟨hc, hP⟩ := h s' hF.1
  exact ⟨_, hn _ rfl hc, hP⟩

theorem idle_newer {s : State} (hc : s.Calm) {id : Nat} {k : Nat} {c : Comp} (h : s.comps.find? (fun kv => kv.2.id == id) = some (k, c)) :
    s.compById id = some c ∧ c.removing = false ∧ c.old = [] := by
  refine ⟨?_, hc.maps (k, c) (List.mem_of_find?_eq_some h)⟩
  rw [compById_eq, h]
  rfl

theorem compById_calm {s : State} (hc : s.Calm) {id : Nat} {c : Comp} (h : s.compById id = some c) : c.removing = false := by
  rw [compById_eq, Option.map_eq_some_iff] at h
  obtain ⟨kv, hk, rfl⟩ := h
  exact (hc.maps kv (List.mem_of_find?_eq_some hk)).1

/-- A map of a new composition, or a newer one, of a device in which nothing moves out. -/
theorem install_puts {s : State} {u : Sub} {p k : Nat} {m : CMap} {c : Comp} (hc : s.Calm) (ht : s.Takes u (.cmpInstall m)) (hp : s.subPart u = p)
    (hmoves : s.movesOut = []) (hcheck : s.checkMap p m = none) (hput : ∀ s', s.Io s' → (s'.putMap m).comps = s.comps.set k c ∧ s'.putMap m = { s' with comps := (s'.putMap m).comps })
    (hr : c.removing = false) :
    ∃ t, exec (.cmpInstall u m) s = .next t ∧ s.Posts t u .ok 0 0 ∧ t.comps = s.comps.set k (s.prunedComp c) ∧ s.Io { t with comps := s.comps } := by
  obtain ⟨s', t, hex, hpost, hs', hio⟩ := host_acts_still (st := .ok) (r := 0) (n := 0)
    (fun v => { v with comps := s.comps.set k (s.prunedComp c) }) ht rfl rfl (fun v hv => by
    have hpruned : (v.putMap m).pruneMaps = { v with comps := s.comps.set k (s.prunedComp c) } := by
      obtain ⟨h1, h2⟩ := hput v hv
      rw [h1] at h2
      obtain ⟨l, x, a, b, d, e, rfl⟩ := hv
      rw [h2]
      exact pruneMaps_eq (pruneMaps_set (m := s.comps) (k := k) (c := c) rfl hc.maps hr)
    have hcv := hc.io hv
    obtain ⟨l, x, a, b, d, e, rfl⟩ := hv
    refine ⟨doCmpInstall_puts (s := { s with out := l ++ s.out, pmc := x, sqs := a, cqs := b, bounce := d, arrived := e }) hcv hp hcheck hpruned hmoves,
      rfl, rfl, ⟨[], rfl⟩, ?_⟩
    exact Still_set (s := { s with out := l ++ s.out, pmc := x, sqs := a, cqs := b, bounce := d, arrived := e }) hcv (c := s.prunedComp c) hr
      (fun m hm => (List.mem_filter.1 hm).2))
  refine ⟨_, hex, hpost, ?_⟩
  obtain ⟨l, x, a, b, d, e, rfl⟩ := hs'
  obtain ⟨l', x', a', b', d', e', rfl⟩ := hio
  exact ⟨rfl, io_of_twice rfl⟩

/-- A PEER_ADD that asks a new peer, in the entry that `newEntry` gives it. -/
theorem peerAdd_asks {s b : State} {u : Sub} {fabric parts i : Nat} {ps : AMap Nat Peer} (hc : s.Calm) (ht : s.Takes u (.peerAdd fabric parts))
    (ha : s.admitting fabric = none) (hb : b = s ∨ b = s.bump Fld.CMP_EVICTIONS_COUNT)
    (hn : ∀ s', s.Io s' → s'.newEntry = some (i, { s' with peers := ps, regs := b.regs })) (hp : s.portsTo fabric ≠ []) :
    ∃ t n nonce, exec (.peerAdd u fabric parts) s = .next t ∧ n ∈ s.portsTo fabric ∧
      t.peers = ps.set i ⟨0, .admitting, false, n, parts % 65536, fabric, t.aon, 0, false, true, [u.owner], [nonce]⟩ ∧
      s.Says t n ⟨fabric, 0, 0, 0, 0, 0, .admitAsk (parts % 65536) nonce⟩ .bg ∧
      b.Io { t with peers := s.peers, ports := s.ports, freeCtr := s.freeCtr } := by
  obtain ⟨t, hex, n, nonce, hmem, hpeers, hsays, hio⟩ := host_stays (P := fun t => ∃ n nonce, n ∈ s.portsTo fabric ∧
      t.peers = ps.set i ⟨0, .admitting, false, n, parts % 65536, fabric, t.aon, 0, false, true, [u.owner], [nonce]⟩ ∧
      s.Says t n ⟨fabric, 0, 0, 0, 0, 0, .admitAsk (parts % 65536) nonce⟩ .bg ∧
      b.Io { t with peers := s.peers, ports := s.ports, freeCtr := s.freeCtr }) ht rfl rfl (fun s' hio => by
    have hnew := hn s' hio
    obtain ⟨l, x, a, e, d, f, rfl⟩ := hio
    obtain ⟨n, nonce, hmem, hdo⟩ := doPeerAdd_asks (s := { s with out := l ++ s.out, pmc := x, sqs := a, cqs := e, bounce := d, arrived := f })
      (u := u) (parts := parts) ha hnew hp
    obtain ⟨y, hy, hup⟩ := portsTo_up hmem
    obtain ⟨hsays, hframe⟩ := says_sendTo (s := { s with
        out := l ++ s.out, pmc := x, sqs := a, cqs := e, bounce := d, arrived := f, regs := b.regs, freeCtr := s.freeCtr + 2
        peers := ps.set i (Peer.asked n parts fabric s.aon nonce u.owner) }) (i := i) (p := Peer.asked n parts fabric s.aon nonce u.owner)
      (AMap.get?_set_same ..) hy hup 0 0 0 0 0 .bg (.admitAsk (parts % 65536) nonce) (fun _ => ⟨rfl, rfl⟩)
    obtain ⟨z, hz⟩ : ∃ z, z = State.sendTo { s with
        out := l ++ s.out, pmc := x, sqs := a, cqs := e, bounce := d, arrived := f, regs := b.regs, freeCtr := s.freeCtr + 2
        peers := ps.set i (Peer.asked n parts fabric s.aon nonce u.owner) } i 0 0 0 0 0 .bg (.admitAsk (parts % 65536) nonce) := ⟨_, rfl⟩
    rw [← hz] at hsays hframe
    have hdo : State.startHost { s with out := l ++ s.out, pmc := x, sqs := a, cqs := e, bounce := d, arrived := f } u (.peerAdd fabric parts) = z :=
      hdo.trans hz.symm
    rw [hdo]
    have hcalm : z.Calm := by
      rw [hframe]
      exact hc.of_eq rfl rfl rfl rfl rfl rfl rfl rfl
    have haon : z.aon = s.aon := by rw [hframe]
    refine ⟨hcalm, n, nonce, hmem, ?_, hsays, ?_⟩
    · rw [hframe]
      rfl
    · rw [hframe]
      rcases hb with rfl | rfl
      · exact ⟨l, x, a, e, d, f, rfl⟩
      · exact ⟨l, x, a, e, d, f, rfl⟩)
  refine ⟨_, n, nonce, hex, hmem, hpeers, hsays, ?_⟩
  rcases hb with rfl | rfl
  · exact State.Io.kept hio
  · exact State.Io.kept hio

/-- Settles O49: maps by the checks of R596, meters by their counts, and PEER_ADD by the entry that it takes. -/
theorem compositions : Obligations.Compositions := by
  intro s p hc
  refine ⟨fun u m k ht hp hmoves hok hpart hn hmain hlen hk => ?_, fun u m k c ht hp hmoves hok hpart hf h1 h2 hme hce he => ?_,
    fun u m c st ht hp h => ?_, fun u id k c ht hp hmem hid hpart hone => ?_, fun u id ht hp h => ?_, fun hw => ?_,
    fun u fabric parts i x ht ha => ?_, fun u fabric parts i b ps ht ha hi hentry hport => ?_, fun u fabric parts ht ha hfull hbusy => ?_⟩
  · have hcheck : s.checkMap p m = none := by
      rw [checkMap_new hok hpart hn hmain, if_neg (by omega)]
    obtain ⟨t, hex, hpost, hcomps, hio⟩ := install_puts (k := k) (c := ⟨m.comp, m.part, m.main, m, [], false, 0, 0, 0⟩) hc ht hp hmoves hcheck
      (fun s' hio => by
        have hcm : s'.comps = s.comps := by
          obtain ⟨l, x, a, b, d, e, rfl⟩ := hio
          rfl
        rw [putMap_new (s := s') (by unfold State.compById; rw [hcm]; exact hn) (by rw [hcm]; exact hk), hcm]
        exact ⟨rfl, rfl⟩) rfl
    exact ⟨t, hex, hpost, by rw [hcomps, prunedComp_calm rfl, hpart], hio⟩
  · obtain ⟨hby, hrem, hold⟩ := idle_newer hc hf
    obtain ⟨t, hex, hpost, hcomps, hio⟩ := install_puts (k := k) (c := { c with cur := m, old := c.cur :: c.old }) hc ht hp hmoves
      (checkMap_newer hok hpart hby hrem h1 h2 hold hce he)
      (fun s' hio => by
        have hcm : s'.comps = s.comps := by
          obtain ⟨l, x, a, b, d, e, rfl⟩ := hio
          rfl
        rw [putMap_newer (s := s') (by rw [hcm]; exact hf), hcm]
        exact ⟨rfl, rfl⟩) hrem
    refine ⟨t, hex, hpost, ?_, hio⟩
    rw [hcomps]
    unfold State.prunedComp
    dsimp only
    rw [hold]
    by_cases hu : s.mapUsed c.id c.cur.epoch = true
    · rw [if_pos hu, List.filter_cons_of_pos (p := fun m : CMap => s.mapUsed c.id m.epoch) hu, List.filter_nil]
    · rw [if_neg hu, List.filter_cons_of_neg (p := fun m : CMap => s.mapUsed c.id m.epoch) hu, List.filter_nil]
  · have hcheck : s.checkMap p m = some st := by
      rcases h with ⟨h, rfl⟩ | ⟨hok, hpart, ⟨hn, hmain, rfl⟩ | ⟨hn, hmain, hlen, rfl⟩ | ⟨hs, h, rfl⟩ | ⟨hs, h1, h2, he, rfl⟩⟩
      · exact if_pos (by rcases h with h | h <;> simp [h])
      · exact checkMap_twice hok hpart hn hmain
      · rw [checkMap_new hok hpart hn hmain, if_pos hlen]
      · exact checkMap_other hok hpart hs (compById_calm hc hs) h
      · exact checkMap_older hok hpart hs (compById_calm hc hs) h1 h2 (epochNewer_false he)
    refine host_refuses hc ht rfl rfl (fun v hv => ?_)
    have hcv := hc.io hv
    obtain ⟨l, x, a, b, d, e, rfl⟩ := hv
    exact doCmpInstall_refuses (s := { s with out := l ++ s.out, pmc := x, sqs := a, cqs := b, bounce := d, arrived := e }) hcv hp hcheck
  · obtain ⟨s', t, hex, hpost, hs', hio⟩ := host_acts_still (st := .ok) (r := 0) (n := 0)
      (fun v => { v with comps := s.removedComps id k c }) ht rfl rfl (fun v hv => by
      have hcv := hc.io hv
      obtain ⟨l, x, a, b, d, e, rfl⟩ := hv
      exact ⟨doCmpRemove_removes (s := { s with out := l ++ s.out, pmc := x, sqs := a, cqs := b, bounce := d, arrived := e }) hcv hp hmem hid hpart hone,
        rfl, rfl, ⟨[], rfl⟩, Still_removed (s := { s with out := l ++ s.out, pmc := x, sqs := a, cqs := b, bounce := d, arrived := e }) hcv hone⟩)
    refine ⟨_, hex, hpost, ?_⟩
    obtain ⟨l, x, a, b, d, e, rfl⟩ := hs'
    obtain ⟨l', x', a', b', d', e', rfl⟩ := hio
    exact ⟨io_of_twice rfl, rfl⟩
  · refine host_refuses hc ht rfl rfl (fun v hv => ?_)
    obtain ⟨l, x, a, b, d, e, rfl⟩ := hv
    exact doCmpRemove_foreign (s := { s with out := l ++ s.out, pmc := x, sqs := a, cqs := b, bounce := d, arrived := e }) hp h
  · obtain ⟨n, m, l, htimes⟩ := timeEvents_times (State.tick { s with
      comps := s.comps.map (fun (kv : Nat × Comp) => (kv.1, s.meter kv.2))
      cores := s.cores.map (fun (kv : Nat × Core) => (kv.1, kv.2.nextTick)) })
    have hdo := (doMeterTick_eq (awake_on hw)).trans htimes
    refine ⟨_, next_event_own hw hdo ?_ rfl rfl, rfl, rfl, fun k hk => ?_, fun k n c hk hn => ?_⟩
    · exact ⟨hc.waiting, hc.queue, hc.pulls, fun kv hk => by
        obtain ⟨kv', hk', rfl⟩ := List.mem_map.1 hk
        exact hc.maps kv' hk', hc.resets, hc.removals, hc.removes, hc.restart⟩
    · exact (AMap.get?_map s.comps s.meter k).trans (by rw [hk]; rfl)
    · refine (AMap.get?_map s.comps s.meter k).trans ?_
      rw [hk, hn]
      rfl
  · obtain ⟨y, hy⟩ : ∃ y : Peer, y = { x with parts := x.parts ||| parts % 65536, asks := x.asks ++ [u.owner] } := ⟨_, rfl⟩
    rw [← hy]
    obtain ⟨t, hex, hpeers, hio⟩ := host_stays (P := fun t => t.peers = s.peers.set i y ∧ s.Io { t with peers := s.peers }) ht rfl rfl (fun v hv => by
      have hav : v.admitting fabric = some (i, x) := by
        obtain ⟨l, y, a, b, d, e, rfl⟩ := hv
        exact ha
      have hdo : v.startHost u (.peerAdd fabric parts) = { v with peers := v.peers.set i y } := by
        have hjoin := doPeerAdd_joins (u := u) (parts := parts) hav
        rw [← hy] at hjoin
        have hstart : v.startHost u (.peerAdd fabric parts) = doPeerAdd u fabric parts v := rfl
        rw [hstart, hjoin]
      rw [hdo]
      obtain ⟨l, z, a, b, d, e, rfl⟩ := hv
      exact ⟨hc.of_eq rfl rfl rfl rfl rfl rfl rfl rfl, rfl, l, z, a, b, d, e, rfl⟩)
    exact ⟨_, hex, hpeers, State.Io.kept hio⟩
  · rcases hentry with ⟨hfree, hlow, rfl, rfl⟩ | ⟨hfull, rfl, rfl, x, hm, hadm, hbusy, hask, hold⟩
    · refine peerAdd_asks hc ht ha (.inl rfl) (fun s' hio => ?_) hport
      have hpeers : s'.peers = b.peers := by
        obtain ⟨l, y, a, f, d, e, rfl⟩ := hio
        rfl
      have hsame : ({ s' with peers := b.peers, regs := b.regs } : State) = s' := by
        obtain ⟨l, y, a, f, d, e, rfl⟩ := hio
        rfl
      have hfirst : (List.range 1024).find? (fun j => !(s'.peers.has j)) = some i := by
        rw [hpeers]
        refine List.find?_range_eq_some.2 ⟨?_, List.mem_range.2 hi, fun j hj => ?_⟩
        · rw [AMap.has, hfree]
          rfl
        · obtain ⟨c, hc⟩ := Option.ne_none_iff_exists'.1 (hlow j hj)
          rw [AMap.has, hc]
          rfl
      rw [newEntry_free hfirst, hsame]
    · refine peerAdd_asks hc ht ha (.inr rfl) (fun s' hio => ?_) hport
      obtain ⟨l, y, a, f, d, e, rfl⟩ := hio
      exact newEntry_evicts (s := { s with out := l ++ s.out, pmc := y, sqs := a, cqs := f, bounce := d, arrived := e }) hfull hi hm hadm hbusy hask hold
  · refine host_refuses hc ht rfl rfl (fun v hv => ?_)
    obtain ⟨l, x, a, b, d, e, rfl⟩ := hv
    have hdo : doPeerAdd u fabric parts { s with out := l ++ s.out, pmc := x, sqs := a, cqs := b, bounce := d, arrived := e } =
        State.complete { s with out := l ++ s.out, pmc := x, sqs := a, cqs := b, bounce := d, arrived := e } u .peerTableFull := by
      unfold doPeerAdd
      rw [show State.admitting { s with out := l ++ s.out, pmc := x, sqs := a, cqs := b, bounce := d, arrived := e } fabric = none from ha]
      dsimp only
      rw [newEntry_none (s := { s with out := l ++ s.out, pmc := x, sqs := a, cqs := b, bounce := d, arrived := e }) hfull hbusy]
    exact hdo

end Sys2Proof.Machine
end

section
/-!
PROOFS. The management commands: weight supply, flash, the ledger, restart, the error rings and the mailbox (R692 to R743).
-/

namespace Sys2Proof.Machine

open Sys2Proof

-- WGT_SUPPLY (R704, R725) ------------------------------------------------------------------------------------------------------------------------

/-- The context region's bytes after the first `k` blocks of a supply. -/
def weightCells (x : Ctx) (first : Nat) (blocks : List (List Byte)) (m : List Host.Cell) : Nat → List Host.Cell
  | 0 => m
  | k + 1 => match x.img.weights[first + k]?, blocks[k]? with
    | some (off, len), some bs => Memory.writes 0 (weightCells x first blocks m k) off (bs.take len)
    | _, _ => weightCells x first blocks m k

/-- One block of a supply. -/
def weightPut (x : Ctx) (first : Nat) (blocks : List (List Byte)) (m : List Host.Cell) (k : Nat) : List Host.Cell :=
  match x.img.weights[first + k]?, blocks[k]? with
  | some (off, len), some bs => Memory.writes 0 m off (bs.take len)
  | _, _ => m

theorem weightCells_eq (x : Ctx) (first : Nat) (blocks : List (List Byte)) (m : List Host.Cell) (n : Nat) :
    (List.range n).foldl (weightPut x first blocks) m = weightCells x first blocks m n := by
  induction n with
  | zero => rfl
  | succ n ih =>
    rw [List.range_succ, List.foldl_append, ih]
    rfl

section Supply

variable {s : State} {u : Sub} {p ctx first : Nat} {blocks : List (List Byte)} {x : Ctx} (hp : s.subPart u = p)
include hp

theorem doWgtSupply_none (hx : s.ctx p ctx = none) : doWgtSupply u ctx first blocks s = s.complete u .contextContextDown := by
  unfold doWgtSupply
  dsimp only
  rw [hp, hx]

variable (hx : s.ctx p ctx = some x)
include hx

theorem doWgtSupply_takes {n : Nat} (hl : x.state = .loading) (hn : n = min blocks.length (x.img.weights.length - first)) (hpos : 0 < n) :
    doWgtSupply u ctx first blocks s = State.complete { s with
      ctxs := s.ctxs.set (p, ctx) { x with blocks := (x.blocks ++ List.range' first n).eraseDups }
      ram := s.ram.set (p, ctx) (weightCells x first blocks (s.ram.getD (p, ctx) []) n) } u .ok n := by
  unfold doWgtSupply
  dsimp only
  rw [hp, hx]
  dsimp only
  rw [if_pos hl, show Nat.min blocks.length (x.img.weights.length - first) = n from hn.symm, if_neg (by omega)]
  unfold State.modCtx
  dsimp only
  rw [AMap.modify_some (show s.ctxs.get? (p, ctx) = some x from hx), if_neg (by omega)]
  exact congrArg (fun c => State.complete { s with
    ctxs := s.ctxs.set (p, ctx) { x with blocks := (x.blocks ++ List.range' first n).eraseDups }, ram := s.ram.set (p, ctx) c } u .ok n)
    (weightCells_eq x first blocks _ n)

theorem doWgtSupply_empty (h : x.state ≠ .loading ∨ x.img.weights.length ≤ first ∨ blocks = []) :
    doWgtSupply u ctx first blocks s = s.complete u .ok := by
  have hn : (if x.state = .loading then Nat.min blocks.length (x.img.weights.length - first) else 0) = 0 := by
    rcases h with h | h | h
    · exact if_neg h
    · split
      · exact Nat.min_eq_zero_iff.2 (.inr (by omega))
      · rfl
    · split
      · exact Nat.min_eq_zero_iff.2 (.inl (by rw [h]; rfl))
      · rfl
  unfold doWgtSupply
  dsimp only
  rw [hp, hx]
  dsimp only
  rw [hn, if_pos rfl]
  unfold State.modCtx
  rw [AMap.modify_some (show s.ctxs.get? (p, ctx) = some x from hx)]
  exact congrArg (fun m => State.complete { s with ctxs := m } u .ok) (AMap.set_get?_self (show s.ctxs.get? (p, ctx) = some x from hx))

end Supply

-- Flash (R698, R699, R725) ----------------------------------------------------------------------------------------------------------------------

theorem flashWrite_read {s : State} (hw : Memory.wf 0xFF s.flash = true) (a : Nat) (data : List Byte) :
    (∀ i b, data[i]? = some b → Memory.read 0xFF (s.flashWrite a data).flash (a + i) = b) ∧
      ∀ b, b < a ∨ a + data.length ≤ b → Memory.read 0xFF (s.flashWrite a data).flash b = Memory.read 0xFF s.flash b := by
  have hflash : (s.flashWrite a data).flash = Memory.writes 0xFF s.flash a data := by
    unfold State.flashWrite
    cases data <;> rfl
  rw [hflash]
  refine ⟨fun i b hi => ?_, fun b hb => Memory.read_writes_outside a b data hw hb⟩
  obtain ⟨hlt, rfl⟩ := List.getElem?_eq_some_iff.1 hi
  exact Memory.read_writes_inside a i data hw hlt

/-- A write of bytes leaves all but flash and the busy pin. -/
theorem flashWrite_frame (s : State) (a : Nat) (data : List Byte) :
    s.flashWrite a data = { s with flash := (s.flashWrite a data).flash, pins := { s.pins with xspiBusy := s.pins.xspiBusy || !data.isEmpty } } := by
  unfold State.flashWrite
  cases data with
  | nil => simp
  | cons b r => simp

/-- The bytes of the green slot after offset 0 has erased it, or not. -/
theorem stage_flash {s : State} (hw : Memory.wf 0xFF s.flash = true) (off a : Nat) :
    Memory.wf 0xFF (if off = 0 then s.eraseGreen else s).flash = true ∧
      Memory.read 0xFF (if off = 0 then s.eraseGreen else s).flash a =
        if off = 0 ∧ greenBase ≤ a ∧ a < greenBase + slotBytes then 0xFF else Memory.read 0xFF s.flash a := by
  by_cases h : off = 0
  · rw [if_pos h]
    refine ⟨Memory.wf_filter _ hw, (Memory.read_filter (fun x => !(decide (greenBase ≤ x) && decide (x < copyBase))) a s.flash 0 hw).trans ?_⟩
    have hkeeps : (!(decide (greenBase ≤ a) && decide (a < copyBase))) = true ↔ ¬(greenBase ≤ a ∧ a < greenBase + slotBytes) := by
      rw [show copyBase = greenBase + slotBytes from rfl, Bool.not_eq_true', Bool.and_eq_false_iff, decide_eq_false_iff_not, decide_eq_false_iff_not,
        not_and_or]
    by_cases ha : greenBase ≤ a ∧ a < greenBase + slotBytes
    · exact (if_neg (fun hk => hkeeps.1 hk ha)).trans (if_pos ⟨h, ha⟩).symm
    · exact (if_pos (hkeeps.2 ha)).trans (if_neg (fun hh => ha hh.2)).symm
  · rw [if_neg h, if_neg (fun hh => h hh.1)]
    exact ⟨hw, rfl⟩

theorem stage_frame (s : State) (off : Nat) : ∃ f, (if off = 0 then s.eraseGreen else s) = { s with flash := f } := by
  split
  · exact ⟨_, rfl⟩
  · exact ⟨s.flash, rfl⟩

theorem doFwStage_stages {s : State} {u : Sub} {off : Nat} {data : List Byte} (h : off + data.length ≤ slotBytes) :
    doFwStage u off data s = ((if off = 0 then s.eraseGreen else s).flashWrite (greenBase + off) data).complete u .ok := by
  unfold doFwStage State.stageFirmware
  rw [if_neg (by omega)]

theorem doFwStage_range {s : State} {u : Sub} {off : Nat} {data : List Byte} (h : slotBytes < off + data.length) :
    doFwStage u off data s = s.complete u .configFlashRange := by
  unfold doFwStage State.stageFirmware
  rw [if_pos h]

/-- What a filter of the pairs leaves in a map in which no key stands twice. -/
theorem AMap.get?_filter_pair {κ α : Type} [DecidableEq κ] (q : κ × α → Bool) (k : κ) : ∀ {m : AMap κ α}, m.wf = true →
    AMap.get? (List.filter q m) k = (m.get? k).filter (fun v => q (k, v))
  | [], _ => rfl
  | (a, b) :: r, h => by
    obtain ⟨hfresh, hr⟩ := Bool.and_eq_true_iff.1 (show (!(AMap.has r a) && AMap.wf r) = true from h)
    have ih := AMap.get?_filter_pair q k hr
    by_cases hk : a = k
    · subst hk
      have hnone : AMap.get? r a = none := by simpa [AMap.has] using hfresh
      rw [hnone] at ih
      by_cases hq : q (a, b) = true
      · rw [List.filter_cons_of_pos hq]
        simp [AMap.get?, Option.filter, hq]
      · rw [List.filter_cons_of_neg hq, ih]
        simp [AMap.get?, Option.filter, hq]
    · by_cases hq : q (a, b) = true
      · rw [List.filter_cons_of_pos hq]
        simp [AMap.get?, hk, ih]
      · rw [List.filter_cons_of_neg hq, ih]
        simp [AMap.get?, hk]

theorem imageWritten_alts {b : Boot} (hw : b.alts.wf = true) (copyB : Bool) :
    (∀ n, n ≠ 3 → n ≠ 4 → n ≠ 14 → (b.imageWritten copyB).alts.get? n = b.alts.get? n) ∧
      ∀ n, (n = 3 ∨ n = 4 ∨ n = 14) → (b.alts.get? n = some 2 ∨ b.nextB = copyB) → (b.imageWritten copyB).alts.get? n = none := by
  have hget (n : Nat) := AMap.get?_filter_pair
    (fun kv : Nat × Nat => !((kv.1 == 3 || kv.1 == 4 || kv.1 == 14) && (decide (kv.2 = 2) || b.nextB == copyB))) n hw
  refine ⟨fun n h3 h4 h14 => (hget n).trans ?_, fun n hn h => (hget n).trans ?_⟩
  · cases b.alts.get? n <;> simp [h3, h4, h14]
  · cases hv : b.alts.get? n with
    | none => rfl
    | some v =>
      rw [hv] at h
      have hnamed : (v = 2 ∨ b.nextB = copyB) := h.imp Option.some.inj id
      have hb : (decide (v = 2) || b.nextB == copyB) = true := by rcases hnamed with h | h <;> simp [h]
      rcases hn with rfl | rfl | rfl <;> simp [Option.filter, hb]

theorem imageWritten_copyFails (b : Boot) (copyB : Bool) : copyB ∉ (b.imageWritten copyB).copyFails := by
  intro h
  have := (List.mem_filter.1 h).2
  simp at this

theorem copyInUse_false {s : State} {copyB : Bool} (h : s.boot.image = none ∨ s.boot.copyB ≠ copyB) : s.copyInUse copyB = false := by
  unfold State.copyInUse
  rcases h with h | h <;> simp [h]

theorem doCfgWrite_writes {s : State} {u : Sub} {copyB : Bool} {off c : Nat} {data : List Byte} (hc : c = copyBase + (if copyB then copyBytes else 0))
    (h : s.boot.image = none ∨ s.boot.copyB ≠ copyB) (hlen : off + data.length ≤ copyBytes) (hd : data ≠ []) :
    doCfgWrite u copyB off data s = State.complete { s.flashWrite (c + off) data with boot := s.boot.imageWritten copyB } u .ok := by
  have hboot : (s.flashWrite (c + off) data).boot = s.boot := by rw [flashWrite_frame]
  unfold doCfgWrite
  dsimp only
  rw [copyInUse_false h, if_neg Bool.false_ne_true, if_neg (by omega), if_neg (by simpa using hd), ← hc, hboot]

theorem doCfgWrite_refuses {s : State} {u : Sub} {copyB : Bool} {off : Nat} {data : List Byte} {st : Status}
    (h : s.boot.image ≠ none ∧ s.boot.copyB = copyB ∧ st = .configCopyInUse ∨
      (s.boot.image = none ∨ s.boot.copyB ≠ copyB) ∧ copyBytes < off + data.length ∧ st = .configFlashRange) :
    doCfgWrite u copyB off data s = s.complete u st := by
  unfold doCfgWrite
  rcases h with ⟨h1, h2, rfl⟩ | ⟨h, hlen, rfl⟩
  · exact if_pos (by simp [State.copyInUse, h2, Option.isSome_iff_ne_none, h1])
  · rw [copyInUse_false h, if_neg Bool.false_ne_true, if_pos hlen]

theorem doFwCheck_eq {s : State} {u : Sub} {green : FwSlot} {n : Nat} (hn : n = (if green.present then s.slotFails green else 1)) :
    doFwCheck u green s = State.complete { s with boot := { s.boot with greenResult := if green.present then n % 256 else 0 } } u
      (if n = 0 then .ok else .securityFwImage) (n % 256) := by
  unfold doFwCheck
  dsimp only
  rw [← hn]
  by_cases h : n = 0
  · rw [if_pos h, if_pos h, h]
  · rw [if_neg h, if_neg h]

-- ERR_READ (R743) --------------------------------------------------------------------------------------------------------------------------------

/-- In a ring, newest first, the oldest record has the least number. -/
theorem oldest_least {l : List ErrRec} (h : l.Pairwise (fun a b => b.seq < a.seq)) {r x : ErrRec} (hr : l.getLast? = some r) (hx : x ∈ l) :
    r.seq ≤ x.seq := by
  obtain ⟨l', rfl⟩ := List.getLast?_eq_some_iff.1 hr
  rcases List.mem_append.1 hx with hx | hx
  · exact ((List.pairwise_append.1 h).2.2 x hx r (List.mem_singleton.2 rfl)).le
  · rw [List.mem_singleton.1 hx]

/-- In records by rising number, those from a number on. -/
theorem dropWhile_from {l : List ErrRec} (h : l.Pairwise (fun a b => a.seq < b.seq)) (f : Nat) :
    l.dropWhile (fun r => r.seq != f && r.seq < f) = l.filter (fun r => decide (f ≤ r.seq)) := by
  induction l with
  | nil => rfl
  | cons r l ih =>
    obtain ⟨hr, hl⟩ := List.pairwise_cons.1 h
    by_cases hlt : r.seq < f
    · rw [List.dropWhile_cons_of_pos (by simp [hlt, hlt.ne]), List.filter_cons_of_neg (by simp [hlt]), ih hl]
    · rw [List.dropWhile_cons_of_neg (by simp [hlt]), List.filter_cons_of_pos (by simp; omega), List.filter_eq_self.2]
      intro x hx
      have := hr x hx
      simp
      omega

/-- ERR_READ copies the records from a number on, oldest first. -/
theorem doErrRead_reads {s : State} {u : Sub} {p seq bytes : Nat} {device : Bool} {l : List ErrRec} (hp : s.subPart u = p)
    (hl : l = (if device then s.err.ring else s.err.parts.getD p [])) (hdesc : l.Pairwise (fun a b => b.seq < a.seq)) :
    doErrRead u seq device bytes s = State.complete (s.buf u.fn (.errors ((l.reverse.filter (fun r => decide (seq ≤ r.seq))).take (bytes / 64)))) u .ok
      (min (bytes / 64) (l.filter (fun r => decide (seq ≤ r.seq))).length) := by
  have hlen : ((l.reverse.filter (fun r => decide (seq ≤ r.seq))).take (bytes / 64)).length =
      min (bytes / 64) (l.filter (fun r => decide (seq ≤ r.seq))).length := by
    rw [List.length_take, List.filter_reverse, List.length_reverse]
  have hasc : l.reverse.Pairwise (fun a b => a.seq < b.seq) := List.pairwise_reverse.2 hdesc
  unfold doErrRead
  dsimp only
  rw [hp, ← hl]
  cases hlast : l.getLast? with
  | none =>
    rw [List.getLast?_eq_none_iff.1 hlast]
    simp
  | some x =>
    dsimp only
    obtain ⟨f, hf⟩ : ∃ f, f = (if l.any (fun r => r.seq == seq) then seq else if seq < x.seq then x.seq else seq) := ⟨_, rfl⟩
    have hfrom : l.reverse.filter (fun r => decide (f ≤ r.seq)) = l.reverse.filter (fun r => decide (seq ≤ r.seq)) := by
      refine List.filter_congr (fun r hr => ?_)
      have hle := oldest_least hdesc hlast (List.mem_reverse.1 hr)
      split at hf
      · rw [hf]
      · split at hf
        · rw [decide_eq_true (by omega : f ≤ r.seq), decide_eq_true (by omega : seq ≤ r.seq)]
        · rw [hf]
    rw [← hf, dropWhile_from hasc, hfrom, hlen]

-- BND_REPORT_GET and LEDGER_READ (R468, R725) -----------------------------------------------------------------------------------------------------

theorem doBndReportGet_reads {s : State} {u : Sub} {p number bytes : Nat} {r : Report} (hp : s.subPart u = p)
    (hr : (s.reportsOf p).find? (fun r => r.number == number) = some r) : doBndReportGet u number bytes s =
      State.complete (s.buf u.fn (.report r (min bytes r.bytes))) u .ok (min bytes r.bytes) := by
  unfold doBndReportGet
  dsimp only
  rw [hp, hr]

theorem doBndReportGet_unknown {s : State} {u : Sub} {p number bytes : Nat} (hp : s.subPart u = p) (hr : ∀ r ∈ s.reportsOf p, r.number ≠ number) :
    doBndReportGet u number bytes s = s.complete u .configReportUnknown := by
  have hnone : (s.reportsOf p).find? (fun r => r.number == number) = none :=
    List.find?_eq_none.2 (fun r hm hb => hr r hm (beq_iff_eq.1 hb))
  unfold doBndReportGet
  dsimp only
  rw [hp, hnone]

/-- A command that writes one buffer and posts its completion. -/
theorem host_reads {s : State} {u : Sub} {c : HostCmd} {r : Nat} {d : HostData} (hc : s.Calm) (ht : s.Takes u c) (hf : c.writesFlash = false)
    (hs : c.serial = false) (h : ∀ s', s.Io s' → s'.startHost u c = (s'.buf u.fn d).complete u .ok r) :
    ∃ t, (Host.Outcome.next (s.always (fun x => x.arrive u c)) : Host.Outcome State Fault Refusal) = .next t ∧ s.Posts t u .ok r 0 ∧
      s.Writes t (.data u.fn d) ∧ s.Io t := by
  obtain ⟨s', t, hex, hpost, hs', hio⟩ := host_acts (st := .ok) (r := r) (n := 0) (fun v => v.buf u.fn d) ht hf hs (fun v hv => by
    obtain ⟨b, hb⟩ := buf_frame v u.fn d
    refine ⟨h v hv, ?_⟩
    rw [hb]
    exact ⟨rfl, rfl, ⟨[_], rfl⟩, (hc.io hv).of_eq rfl rfl rfl rfl rfl rfl rfl rfl⟩)
  exact ⟨_, hex, hpost, ((writes_buf _ _ _).mono hio.out).after hs'.out, ((hs'.trans (io_buf _ _ _)).trans hio).kept⟩

-- DEV_RESTART (R725) --------------------------------------------------------------------------------------------------------------------------------

/-- A start that begins at a step. -/
theorem beginStart_spec (s : State) (n : Nat) : (s.beginStart n).Calm ∧ (s.beginStart n).out = s.out ∧ (s.beginStart n).boot.phase = .start n ∧
    (s.beginStart n).boot.number = s.boot.number + 1 ∧ (s.beginStart n).boot.selfRestarts = s.boot.selfRestarts ∧ (s.beginStart n).boot.restart = none ∧
    (s.beginStart n).sessions = [] ∧ (s.beginStart n).cores = [] ∧ (s.beginStart n).regs = [] ∧ (s.beginStart n).sec.fuses = s.sec.fuses ∧
    (s.beginStart n).boot.ledger = s.boot.ledger ∧ (s.beginStart n).qry.map = s.qry.map := by
  by_cases h : s.boot.clearAlt = true
  all_goals
    have hb : (s.wiped false).boot.clearAlt = s.boot.clearAlt := rfl
    unfold State.beginStart
    dsimp only
    rw [hb]
  · rw [if_pos h, if_pos h]
    exact ⟨⟨fun _ hk => absurd hk List.not_mem_nil, rfl, rfl, fun _ hk => absurd hk List.not_mem_nil, rfl, rfl, rfl, rfl⟩,
      rfl, rfl, rfl, rfl, rfl, rfl, rfl, rfl, rfl, rfl, rfl⟩
  · rw [if_neg h, if_neg h]
    exact ⟨⟨fun _ hk => absurd hk List.not_mem_nil, rfl, rfl, fun _ hk => absurd hk List.not_mem_nil, rfl, rfl, rfl, rfl⟩,
      rfl, rfl, rfl, rfl, rfl, rfl, rfl, rfl, rfl, rfl, rfl⟩

theorem doDevRestart_restarts {s : State} {u : Sub} (h : (s.complete u .ok).completionWaits u.owner = false) : doDevRestart u s =
    State.beginStart { s.complete u .ok with boot := { (s.complete u .ok).boot with restart := none, selfRestarts := 0 } } 1 := by
  unfold doDevRestart State.goRestart
  dsimp only
  exact if_neg (by rw [show State.completionWaits { s.complete u .ok with boot := { (s.complete u .ok).boot with restart := some u.owner } } u.owner =
    (s.complete u .ok).completionWaits u.owner from rfl, h]; decide)

/-- A completion that has room leaves none of its command waiting. -/
theorem complete_waits {s s' : State} {u : Sub} (hF : s.Fetched u s') (h : s.completionWaits u.owner = false) :
    (s'.complete u .ok).completionWaits u.owner = false := by
  obtain ⟨-, hcq, q, hq, ho, -⟩ := hF
  refine Bool.eq_false_iff.2 (fun hw => ?_)
  obtain ⟨kc, hk, hc⟩ := List.any_eq_true.1 hw
  rcases cqs_post s' (u.answer .ok (BitVec.ofNat 128 0) 0) q hq ho kc hk with hk | hk
  · rw [hcq] at hk
    exact absurd (List.any_eq_true.2 ⟨kc, hk, hc⟩) (Bool.eq_false_iff.1 h)
  · rw [hk] at hc
    simp at hc

theorem restarts {s : State} {u : Sub} (ht : s.Takes u .devRestart) (hwait : s.completionWaits u.owner = false) :
    ∃ t, exec (.devRestart u) s = .next t ∧ s.Posts t u .ok 0 0 ∧ t.boot.phase = .start 1 ∧
      t.boot.number = s.boot.number + 1 ∧ t.boot.selfRestarts = 0 ∧ t.boot.restart = none ∧ t.sessions = [] ∧ t.cores = [] ∧ t.regs = [] ∧
      t.flash = s.flash ∧ t.sec.fuses = s.sec.fuses ∧ t.boot.ledger = s.boot.ledger ∧ t.qry.map = s.qry.map := by
  obtain ⟨s', hF, hn⟩ := next_host ht rfl rfl
  obtain ⟨hpost, hio⟩ := hF.complete (v := s') rfl rfl ⟨[], rfl⟩ .ok 0 0
  have hio := hF.1.trans hio
  have hdo : s'.startHost u .devRestart = _ := doDevRestart_restarts (complete_waits hF hwait)
  obtain ⟨v, hv⟩ : ∃ v, v = s'.complete u .ok := ⟨_, rfl⟩
  have hpost : s.Posts v u .ok 0 0 := hv ▸ hpost
  have hio : s.Io v := hv ▸ hio
  rw [← hv] at hdo
  obtain ⟨hcalm, hout, hphase, hnumber, hself, hrestart, hses, hcores, hregs, hfuses, hledger, hmap⟩ := beginStart_spec
    { v with boot := { v.boot with restart := none, selfRestarts := 0 } } 1
  refine ⟨_, hn _ hdo hcalm, ?_, hphase, ?_, hself, hrestart, hses, hcores, hregs, rfl, ?_, ?_, ?_⟩
  · obtain ⟨q, h, m, l, hl, hm⟩ := hpost
    exact ⟨q, h, m, l, hout.trans hl, hm⟩
  · obtain ⟨_, _, _, _, _, _, rfl⟩ := hio
    exact hnumber
  · obtain ⟨_, _, _, _, _, _, rfl⟩ := hio
    exact hfuses
  · obtain ⟨_, _, _, _, _, _, rfl⟩ := hio
    exact hledger
  · obtain ⟨_, _, _, _, _, _, rfl⟩ := hio
    exact hmap

-- The management mailbox (R692) --------------------------------------------------------------------------------------------------------------------

/-- A mailbox that has taken a command. -/
def State.mailed (s : State) (u : Sub) : State :=
  State.setFld { s with mboxBusy := u.fn.index :: s.mboxBusy, arrived := s.arrived ++ [u.owner] } Fld.HIF_MBOX_CTL_DONE 0 u.fn.index

theorem mailed_mbx (s : State) (u : Sub) : s.Mbx (s.mailed u) := ⟨[], _, _, _, _, _, rfl⟩

section Mailbox

variable {s : State} {u : Sub} {c : Option HostCmd}

/-- A mailbox command at a calm device. -/
theorem exec_mailbox {t : State} (hc : t.Calm) (h : doManagementMailboxGo u c s = t) :
    exec (.managementMailboxGo u c) s = .next { t with pending := s.pending } := by
  have hp : ({ t with pending := s.pending } : State).Calm := hc.of_eq rfl rfl rfl rfl rfl rfl rfl rfl
  refine congrArg Host.Outcome.next ?_
  unfold State.flashing
  rw [h, settle_calm hp]

variable (hu : u.sq = none)
include hu

theorem mailbox_closed (h : u.fn.isPf = false ∨ s.doeUp u.fn = false ∨ u.fn.index ∈ s.mboxBusy) : doManagementMailboxGo u c s = s := by
  unfold doManagementMailboxGo State.fromMailbox
  rw [hu]
  exact if_pos (by rcases h with h | h | h <;> simp [h])

variable (hpf : u.fn.isPf = true) (hup : s.doeUp u.fn = true) (hfree : u.fn.index ∉ s.mboxBusy)
include hpf hup hfree

theorem mailbox_refuses {st : Status} (h : c = none ∧ st = .configOpcode ∨ ∃ d, c = some d ∧
    (s.err.frozen = true ∧ d.frozenMailbox = false ∧ st = .internalDeviceFatal ∨
      s.err.frozen = false ∧ s.boot.phase ≠ .ready ∧ d.earlyMailbox = false ∧ st = .configNotReady)) :
    doManagementMailboxGo u c s = (s.mailed u).complete u st := by
  unfold doManagementMailboxGo State.fromMailbox
  rw [hu]
  dsimp only
  rw [if_neg (by simp [hpf, hup, hfree])]
  have hfrozen : (s.mailed u).err.frozen = s.err.frozen := rfl
  have hphase : (s.mailed u).boot.phase = s.boot.phase := rfl
  rcases h with ⟨rfl, rfl⟩ | ⟨d, rfl, ⟨hf, hd, rfl⟩ | ⟨hf, hp, hd, rfl⟩⟩
  · rfl
  · exact if_pos (by rw [setFld_err, hf, hd]; rfl)
  · refine (if_neg (by rw [setFld_err, hf]; simp)).trans (if_pos ?_)
    rw [setFld_err, setFld_boot, hf, hd]
    simp [hp]

theorem mailbox_begins {d : HostCmd} (hf : d.frozenMailbox = true) (he : d.earlyMailbox = true) :
    doManagementMailboxGo u (some d) s = (s.mailed u).begin u d := by
  unfold doManagementMailboxGo State.fromMailbox
  rw [hu]
  dsimp only
  rw [if_neg (by simp [hpf, hup, hfree])]
  exact (if_neg (by rw [hf]; simp)).trans (if_neg (by rw [he]; simp))

end Mailbox

/-- LEDGER_READ passes its checks at the mailbox. -/
theorem refusal_ledgerRead {s : State} {u : Sub} (hu : u.sq = none) (hpf : u.fn.isPf = true) (hb : u.paramBad = false) (hr : u.resv = false) (start bytes : Nat) :
    s.refusal u (.ledgerRead start bytes) = none := by
  have hpart : s.partOfFn u.fn = none := if_pos hpf
  have hcmd : s.cmdPart u (.ledgerRead start bytes) = none := by
    unfold State.cmdPart
    rw [hpart]
    rfl
  have hext : s.extReserved u = false := by
    unfold State.extReserved
    rw [hu]
    simp
  have hforeign : s.foreignPart u = false := by
    unfold State.foreignPart
    rw [hpart]
  have hout : s.outside u (.ledgerRead start bytes) = false := by
    unfold State.outside State.bounceMode
    rw [hpart]
    rfl
  unfold State.refusal
  dsimp only
  rw [hcmd, hext, hforeign, hout, hpf]
  exact (congrArg (fun b => if b then some Status.configParamBlock else if u.resv then some Status.configReservedField else none) hb).trans
    (congrArg (fun b => if b then some Status.configReservedField else none) hr)

/-- A completion at the mailbox of a state that differs from `s` as a mailbox command's start does. -/
theorem mailbox_posts {s t : State} {u : Sub} (ht : s.Mbx t) (hu : u.sq = none) (st : Status) (r : BitVec 128) :
    s.Mbx (t.post (u.answer st r 0)) ∧ t.Writes (t.post (u.answer st r 0)) (.mbox (u.answer st r 0)) ∧
      (t.post (u.answer st r 0)).flag Fld.HIF_MBOX_CTL_DONE u.fn.index = true ∧ u.fn.index ∉ (t.post (u.answer st r 0)).mboxBusy := by
  obtain ⟨h1, h2, h3, h4⟩ := post_mbox t (u.answer st r 0) hu
  exact ⟨ht.trans h1, h2, h3, h4⟩

theorem State.Io.setPending {s t : State} (h : s.Io t) : s.Io { t with pending := s.pending } := by
  obtain ⟨l, m, a, b, d, e, rfl⟩ := h
  exact ⟨l, m, a, b, d, e, rfl⟩

/-- Settles O56: each command by its cases, and the mailbox by R692. -/
theorem management : Obligations.Management := by
  intro s u p hc hp
  refine ⟨fun ctx first n blocks x ht hx hl hn hpos => ?_, fun ctx first blocks st ht h => ?_, fun off data ht hw hlen => ?_, fun off data ht hlen => ?_,
    fun copyB off data ht hw hfree hlen hd halts => ?_, fun copyB off data st ht h => ?_, fun green n ht hn => ?_, fun start bytes l ht hl => ?_,
    fun ht hwait => restarts ht hwait, fun seq bytes device l ht hl hdesc => ?_, fun number bytes r ht hr => ?_, fun number bytes ht hr => ?_,
    fun c hu h => ?_, fun c st hu hpf hup hfree h => ?_, fun start bytes l hu hpf hup hfree hb hr hphase hl => ?_⟩
  · obtain ⟨s', t, hex, hpost, hs', hio⟩ := host_acts (st := .ok) (r := n) (n := 0) (fun v => { v with
        ctxs := s.ctxs.set (p, ctx) { x with blocks := (x.blocks ++ List.range' first n).eraseDups }
        ram := s.ram.set (p, ctx) (weightCells x first blocks (s.ram.getD (p, ctx) []) n) }) ht rfl rfl (fun v hv => by
      obtain ⟨l, m, a, b, d, e, rfl⟩ := hv
      exact ⟨doWgtSupply_takes (s := { s with out := l ++ s.out, pmc := m, sqs := a, cqs := b, bounce := d, arrived := e }) hp hx hl hn hpos,
        rfl, rfl, ⟨[], rfl⟩, hc.of_eq rfl rfl rfl rfl rfl rfl rfl rfl⟩)
    refine ⟨_, (x.blocks ++ List.range' first n).eraseDups, weightCells x first blocks (s.ram.getD (p, ctx) []), hex, hpost, ?_⟩
    obtain ⟨l, m, a, b, d, e, rfl⟩ := hs'
    obtain ⟨l', m', a', b', d', e', rfl⟩ := hio
    refine ⟨rfl, fun k => ?_, rfl, rfl, fun k hk => ?_, io_of_twice rfl⟩
    · rw [List.mem_eraseDups, List.mem_append, List.mem_range'_1]
    · have h1 : first + k < x.img.weights.length := by omega
      have h2 : k < blocks.length := by omega
      refine ⟨(x.img.weights[first + k]).1, (x.img.weights[first + k]).2, blocks[k], List.getElem?_eq_getElem h1, List.getElem?_eq_getElem h2, ?_⟩
      conv => lhs; unfold weightCells
      rw [List.getElem?_eq_getElem h1, List.getElem?_eq_getElem h2]
  · refine host_refuses hc ht rfl rfl (fun v hv => ?_)
    obtain ⟨l, m, a, b, d, e, rfl⟩ := hv
    rcases h with ⟨hx, rfl⟩ | ⟨x, hx, rfl, h⟩
    · exact doWgtSupply_none (s := { s with out := l ++ s.out, pmc := m, sqs := a, cqs := b, bounce := d, arrived := e }) hp hx
    · exact doWgtSupply_empty (s := { s with out := l ++ s.out, pmc := m, sqs := a, cqs := b, bounce := d, arrived := e }) hp hx h
  · obtain ⟨s', t, hex, hpost, hs', hio⟩ := flash_acts (st := .ok) (r := 0) (n := 0)
      (fun v => (if off = 0 then v.eraseGreen else v).flashWrite (greenBase + off) data) ht rfl (fun v hv => by
      refine ⟨doFwStage_stages hlen, ?_⟩
      obtain ⟨f, hf⟩ := stage_frame v off
      rw [hf, flashWrite_frame]
      exact ⟨rfl, rfl, ⟨[], rfl⟩, (hc.io hv).of_eq rfl rfl rfl rfl rfl rfl rfl rfl⟩)
    have hflash : s'.flash = s.flash := by
      obtain ⟨_, _, _, _, _, _, rfl⟩ := hs'
      rfl
    have hstage := stage_flash (s := s') (hflash ▸ hw) off
    obtain ⟨hin, hout⟩ := flashWrite_read (hstage 0).1 (greenBase + off) data
    obtain ⟨f, hf⟩ := stage_frame s' off
    obtain ⟨v, hv⟩ : ∃ v, v = (if off = 0 then s'.eraseGreen else s').flashWrite (greenBase + off) data := ⟨_, rfl⟩
    have hframe : v = { s' with flash := v.flash, pins := { s'.pins with xspiBusy := s'.pins.xspiBusy || !data.isEmpty } } := by
      rw [hv, hf]
      exact flashWrite_frame _ _ _
    rw [← hv] at hin hout
    have hio : v.Io t := hv ▸ hio
    refine ⟨_, hex, hpost, fun i b hi => ?_, fun a ha => ?_, ?_, ?_⟩
    · obtain ⟨_, _, _, _, _, _, rfl⟩ := hio
      exact hin i b hi
    · obtain ⟨_, _, _, _, _, _, rfl⟩ := hio
      rw [← hflash]
      exact (hout a ha).trans (hstage a).2
    · obtain ⟨_, _, _, _, _, _, rfl⟩ := hio
      obtain ⟨_, _, _, _, _, _, rfl⟩ := hs'
      exact congrArg State.pins hframe
    · obtain ⟨l', m', a', b', d', e', rfl⟩ := hio
      obtain ⟨l, m, a, b, d, e, rfl⟩ := hs'
      rw [hframe]
      exact io_of_twice rfl
  · obtain ⟨s', t, hex, hpost, hs', hio⟩ := flash_acts (st := .configFlashRange) (r := 0) (n := 0) id ht rfl
      (fun v hv => ⟨doFwStage_range hlen, rfl, rfl, ⟨[], rfl⟩, hc.io hv⟩)
    exact ⟨_, hex, hpost, (hs'.trans hio).setPending⟩
  · obtain ⟨c, hcopy⟩ : ∃ c, c = copyBase + (if copyB then copyBytes else 0) := ⟨_, rfl⟩
    obtain ⟨s', t, hex, hpost, hs', hio⟩ := flash_acts (st := .ok) (r := 0) (n := 0)
      (fun v => { v.flashWrite (c + off) data with boot := s.boot.imageWritten copyB }) ht rfl (fun v hv => by
      have hboot : v.boot = s.boot := by
        obtain ⟨_, _, _, _, _, _, rfl⟩ := hv
        rfl
      refine ⟨(doCfgWrite_writes hcopy (by rw [hboot]; exact hfree) hlen hd).trans (by rw [hboot]), ?_⟩
      rw [flashWrite_frame]
      exact ⟨rfl, rfl, ⟨[], rfl⟩, (hc.io hv).of_eq rfl rfl rfl rfl rfl rfl rfl (show s.boot.restart = v.boot.restart by rw [hboot])⟩)
    have hflash : s'.flash = s.flash := by
      obtain ⟨_, _, _, _, _, _, rfl⟩ := hs'
      rfl
    obtain ⟨hin, hout⟩ := flashWrite_read (s := s') (hflash ▸ hw) (c + off) data
    obtain ⟨v, hv⟩ : ∃ v, v = s'.flashWrite (c + off) data := ⟨_, rfl⟩
    have hframe : v = { s' with flash := v.flash, pins := { s'.pins with xspiBusy := s'.pins.xspiBusy || !data.isEmpty } } := by
      rw [hv]
      exact flashWrite_frame _ _ _
    rw [← hv] at hin hout
    have hio : State.Io { v with boot := s.boot.imageWritten copyB } t := hv ▸ hio
    obtain ⟨halt, hgone⟩ := imageWritten_alts halts copyB
    refine ⟨_, c, hex, hpost, hcopy, fun i b hi => ?_, fun a ha => ?_, ?_, ?_, ?_, ?_, ?_⟩
    · obtain ⟨_, _, _, _, _, _, rfl⟩ := hio
      exact hin i b hi
    · obtain ⟨_, _, _, _, _, _, rfl⟩ := hio
      rw [← hflash]
      exact hout a ha
    · obtain ⟨_, _, _, _, _, _, rfl⟩ := hio
      obtain ⟨_, _, _, _, _, _, rfl⟩ := hs'
      refine (congrArg State.pins hframe).trans ?_
      cases data with
      | nil => exact absurd rfl hd
      | cons b r => simp
    · obtain ⟨_, _, _, _, _, _, rfl⟩ := hio
      exact halt
    · obtain ⟨_, _, _, _, _, _, rfl⟩ := hio
      exact imageWritten_copyFails _ _
    · obtain ⟨_, _, _, _, _, _, rfl⟩ := hio
      exact hgone
    · obtain ⟨l', m', a', b', d', e', rfl⟩ := hio
      obtain ⟨l, m, a, b, d, e, rfl⟩ := hs'
      rw [hframe]
      exact io_of_twice rfl
  · obtain ⟨s', t, hex, hpost, hs', hio⟩ := flash_acts (st := st) (r := 0) (n := 0) id ht rfl (fun v hv => by
      have hboot : v.boot = s.boot := by
        obtain ⟨_, _, _, _, _, _, rfl⟩ := hv
        rfl
      exact ⟨doCfgWrite_refuses (by rw [hboot]; exact h), rfl, rfl, ⟨[], rfl⟩, hc.io hv⟩)
    exact ⟨_, hex, hpost, (hs'.trans hio).setPending⟩
  · obtain ⟨s', t, hex, hpost, hs', hio⟩ := host_acts (st := if n = 0 then .ok else .securityFwImage) (r := n % 256) (n := 0)
      (fun v => { v with boot := { s.boot with greenResult := if green.present then n % 256 else 0 } }) ht rfl rfl (fun v hv => by
      obtain ⟨l, m, a, b, d, e, rfl⟩ := hv
      exact ⟨doFwCheck_eq (s := { s with out := l ++ s.out, pmc := m, sqs := a, cqs := b, bounce := d, arrived := e }) hn,
        rfl, rfl, ⟨[], rfl⟩, hc.of_eq rfl rfl rfl rfl rfl rfl rfl rfl⟩)
    refine ⟨_, hex, hpost, ?_⟩
    obtain ⟨l, m, a, b, d, e, rfl⟩ := hs'
    obtain ⟨l', m', a', b', d', e', rfl⟩ := hio
    exact ⟨rfl, io_of_twice rfl⟩
  · refine host_reads hc ht rfl rfl (fun v hv => ?_)
    obtain ⟨x, m, a, b, d, e, rfl⟩ := hv
    rw [hl]
    rfl
  · exact host_reads hc ht rfl rfl (fun v hv => by
      have hv' : v.subPart u = p ∧ v.err = s.err := by
        obtain ⟨_, _, _, _, _, _, rfl⟩ := hv
        exact ⟨hp, rfl⟩
      exact doErrRead_reads hv'.1 (by rw [hv'.2]; exact hl) hdesc)
  · refine host_reads hc ht rfl rfl (fun v hv => ?_)
    obtain ⟨l, m, a, b, d, e, rfl⟩ := hv
    exact doBndReportGet_reads (s := { s with out := l ++ s.out, pmc := m, sqs := a, cqs := b, bounce := d, arrived := e }) hp hr
  · refine host_refuses hc ht rfl rfl (fun v hv => ?_)
    obtain ⟨l, m, a, b, d, e, rfl⟩ := hv
    exact doBndReportGet_unknown (s := { s with out := l ++ s.out, pmc := m, sqs := a, cqs := b, bounce := d, arrived := e }) hp hr
  · exact exec_mailbox hc (mailbox_closed hu h)
  · have hmbx := mailed_mbx s u
    obtain ⟨h1, h2, h3, h4⟩ := mailbox_posts hmbx hu st 0
    refine ⟨_, exec_mailbox (h1.calm hc) (mailbox_refuses hu hpf hup hfree h), ?_, h3, h4, h1.pending⟩
    exact State.Writes.after (s := s) (t := s.mailed u) ⟨[], rfl⟩ h2
  · have hmbx := mailed_mbx s u
    have hbuf := hmbx.trans (io_buf (s.mailed u) u.fn (.ledger l)).mbx
    obtain ⟨h1, h2, h3, h4⟩ := mailbox_posts hbuf hu .ok (BitVec.ofNat 128 (32 * l.length))
    have hdo : doManagementMailboxGo u (some (.ledgerRead start bytes)) s =
        (s.mailed u).kept (((s.mailed u).buf u.fn (.ledger l)).post (u.answer .ok (BitVec.ofNat 128 (32 * l.length)) 0)) := by
      rw [mailbox_begins hu hpf hup hfree rfl rfl]
      unfold State.begin
      rw [refusal_ledgerRead hu hpf hb hr, hl]
      rfl
    refine ⟨_, exec_mailbox ?_ hdo, ?_, ?_, h3, h4, ?_⟩
    · exact (h1.calm hc).kept
    · exact State.Writes.after (s := s) (t := (s.mailed u).buf u.fn (.ledger l)) (io_buf (s.mailed u) u.fn (.ledger l)).out h2
    · exact ((writes_buf (s.mailed u) u.fn (.ledger l)).mono (post_mbox _ _ hu).1.out)
    · exact (hmbx.trans (((io_buf (s.mailed u) u.fn (.ledger l)).mbx.trans (post_mbox _ _ hu).1).kept)).pending

end Sys2Proof.Machine
end

section
/-!
PROOFS. The start steps S00 to S07 (O2).
-/

namespace Sys2Proof.Machine

open Sys2Proof

-- A step that passes (R712, R713) ----------------------------------------------------------------------------------------------------------

/-- `t` has the start state of `s` so far as `stepPasses` reads it. -/
def State.SameStart (s t : State) : Prop :=
  t.boot.number = s.boot.number ∧ t.boot.alts = s.boot.alts ∧ t.boot.fails = s.boot.fails ∧ t.boot.ledger = s.boot.ledger ∧
    t.boot.ledgerAt = s.boot.ledgerAt ∧ t.pins.xspiReset = s.pins.xspiReset ∧ t.pins.nandWrite = s.pins.nandWrite

theorem State.SameStart.passes {s t : State} (h : s.SameStart t) (n d : Nat) : s.Passes (s.kept (t.stepPasses n d)) n d := by
  obtain ⟨h1, h2, h3, h4, h5, h6, h7⟩ := h
  exact passes_stepPasses s t n d h1 h2 h3 h4 h5 h6 h7

variable {c : Instr} {s t : State} {f : State → State} {n d : Nat}

/-- A start step that passes from `t` on, where `t` is what the step's row makes of `s`. -/
theorem exec_passes (hex : exec c s = .next (s.always f)) (hf : f s = t.stepPasses n d) (hc : t.Calm) (ht : s.SameStart t) :
    exec c s = .next (s.kept (t.stepPasses n d)) ∧ s.Passes (s.kept (t.stepPasses n d)) n d :=
  ⟨hex.trans (next_always hf (hc.stepPasses n d)), ht.passes n d⟩

/-- A command that may write flash leaves what it makes of a state from which nothing more goes on. -/
theorem exec_flashing (hex : exec c s = .next (s.flashing f)) (hf : f s = t) (hc : t.Calm) :
    exec c s = .next { t with pending := s.pending } := by
  refine hex.trans (congrArg Host.Outcome.next ?_)
  unfold State.flashing
  rw [hf]
  exact settle_calm (s := { t with pending := s.pending }) (hc.of_eq rfl rfl rfl rfl rfl rfl rfl rfl)

/-- A step that writes no flash, run as one that may, leaves what it would leave anyhow. -/
theorem exec_passes_flashing (hex : exec c s = .next (s.flashing f)) (hf : f s = t.stepPasses n d) (hc : t.Calm) (ht : s.SameStart t)
    (hflash : t.flash = s.flash) : exec c s = .next (s.kept (t.stepPasses n d)) ∧ s.Passes (s.kept (t.stepPasses n d)) n d := by
  refine ⟨(exec_flashing hex hf (hc.stepPasses n d)).trans (congrArg Host.Outcome.next ?_), ht.passes n d⟩
  unfold State.kept
  rw [← hflash]
  rfl

/-- Only the beginning of S00, S03 and S10 moves a pin. -/
theorem beginStep_still (p : Pins) (h0 : n ≠ 0) (h3 : n ≠ 3) (h10 : n ≠ 10) : p.beginStep n = p := by
  have e0 : (n == 0) = false := beq_false_of_ne h0
  have e3 : (n != 3) = true := bne_iff_ne.2 h3
  have e10 : (n == 10) = false := beq_false_of_ne h10
  unfold Pins.beginStep
  rw [e0, e3, e10, Bool.false_or, Bool.and_true, Bool.or_false]

/-- The pins of S03. -/
theorem beginStep_three (p : Pins) : p.beginStep 3 = { p with xspiReset := false } := by
  unfold Pins.beginStep
  simp

/-- The pins of S10. -/
theorem beginStep_ten (p : Pins) : p.beginStep 10 = { p with nandWrite := true } := by
  unfold Pins.beginStep
  simp

-- S01 to S07 -------------------------------------------------------------------------------------------------------------------------------

theorem openVault_current (h : s.sec.vaultGen = s.sec.fuses.wrapGen) : s.openVault = s := if_pos h

/-- S01 of a device that reads its fuses for the first time (R631). -/
theorem doS01_first {fu : Fuses} (h : s.Due 1) (hspent : s.sec.spent = false) (hblank : s.sec.fuses = Fuses.blank) :
    doS01KeystoneSelftest true fu true s = State.stepPasses { s with
      pins := { s.pins with therm := false, fault := false }, sec := { s.sec with fuses := fu, vaultGen := fu.wrapGen } } 1 0 := by
  have hfirst : (s.sec.fuses == Fuses.blank) = true := beq_iff_eq.2 hblank
  unfold doS01KeystoneSelftest
  rw [h.runs]
  simp only [Bool.not_true, Bool.false_eq_true, if_false, hfirst, if_true]
  rw [openVault_current rfl]
  exact congrArg (fun a : State => a.stepPasses 1 0) (if_neg (by rw [hspent]; decide))

/-- S02 without a green slot, with a fired slot that passes (R721). -/
theorem doS02_fired {green fired : FwSlot} (h : s.Due 2) (hg : green.present = false) (hp : fired.present = true) (hok : s.slotFails fired = 0) :
    doS02FirmwareVerify green fired s = State.stepPasses { s with boot := { s.boot with fired := fired, greenResult := 0 } } 2 0 := by
  have hok' : State.slotFails { s with boot := { s.boot with fired := fired, greenResult := 0 } } fired = 0 := hok
  unfold doS02FirmwareVerify
  rw [h.runs]
  simp [hg, hp, hok']

/-- S03 with a copy that passes (R713). -/
theorem doS03_passes {a b : Option ConfigImage} {i : ConfigImage} (h : s.Due 3) (hu : s.boot.unconf = false)
    (hi : (if s.boot.copyB then b else a) = some i) (hok : s.imageOk i = true) :
    doS03ImageRead a b s = State.stepPasses { s with boot := { s.boot with imgA := a, imgB := b, image := some i } } 3 0 := by
  have hok' : State.imageOk { s with boot := { s.boot with imgA := a, imgB := b } } i = true := hok
  unfold doS03ImageRead
  rw [h.runs]
  dsimp only
  rw [hu, hi]
  exact if_pos hok'

/-- S04 with an image without records that passes the plumb check (R706, R709). -/
theorem doS04_applies {i : ConfigImage} {u : State} (h : s.Due 4) (hi : s.boot.image = some i) (hr : i.records = [])
    (hu : (s.loadSettings Field.settable i.settings).loadLinks i.links = u) (hok : u.plumb s.promised u.nextPlaces = none) :
    doS04ApplyConfig s = u.drawSeeds.stepPasses 4 0 := by
  unfold doS04ApplyConfig
  rw [h.runs, hi]
  dsimp only
  rw [hr, hu, State.loadRecords]
  dsimp only
  rw [hok]
  rfl

theorem doS05_one {w g : Nat} (h : s.Due 5) (hw : 0 < w) (hp : s.pins.perst0 = false) (hb : bitOf s.boot.straps 0 = false) :
    doS05PcieUp w g 0 0 s = State.stepPasses (((((s.setFld Fld.HIF_LINK_UP 1 0).setFld Fld.HIF_LINK_WIDTH w 0).setFld Fld.HIF_LINK_GEN g 0).setFld
      Fld.HIF_LINK_BIFURCATED 0 0).setFld Fld.HIF_LINK_BIFURCATED 0 1) 5 0 := by
  have hlink : s.pcieLink 0 w g = ((s.setFld Fld.HIF_LINK_UP 1 0).setFld Fld.HIF_LINK_WIDTH w 0).setFld Fld.HIF_LINK_GEN g 0 := by
    unfold State.pcieLink State.perst
    simp [Nat.pos_iff_ne_zero.1 hw, hp]
  unfold doS05PcieUp
  rw [h.runs, hlink, hb]
  rfl

theorem doS06_locks (h : s.Due 6) : doS06PllLock none s =
    State.stepPasses { s with courses := [0, 1, 2].map (fun n => (n, Course.start (s.boot.plls.contains n))) } 6 0 := by
  unfold doS06PllLock
  exact if_neg (by rw [h.runs]; decide)

theorem doS07_trains (h : s.Due 7) : doS07MemoryTrain true s = State.stepPasses (((s.setFld Fld.MEM_CFG_RATE (s.boot.alts.getD 7 0)).setFld
    Fld.MEM_CAP_PKG_GIB s.sec.fuses.pkgGib).setFld Fld.MEM_CAP_STRIPES (stripesOf s.sec.fuses.pkgGib)) 7 (s.boot.alts.getD 7 0) := by
  unfold doS07MemoryTrain
  rw [h.runs]
  rfl

/-- What S05 leaves in HIF_LINK. -/
theorem link_up (s : State) {w g : Nat} (hw : w < 32) (hg : g < 8) {t : State} (ht : t = ((((s.setFld Fld.HIF_LINK_UP 1 0).setFld Fld.HIF_LINK_WIDTH w 0).setFld
      Fld.HIF_LINK_GEN g 0).setFld Fld.HIF_LINK_BIFURCATED 0 0).setFld Fld.HIF_LINK_BIFURCATED 0 1) :
    t.fld Fld.HIF_LINK_UP 0 = 1 ∧ t.fld Fld.HIF_LINK_WIDTH 0 = w ∧ t.fld Fld.HIF_LINK_GEN 0 = g ∧ t.fld Fld.HIF_LINK_BIFURCATED 0 = 0 := by
  subst ht
  refine ⟨?_, ?_, ?_, ?_⟩
  · rw [fld_setFld_other _ _ _ _ _ _ _ _ (by decide) (by decide) (by decide), fld_setFld_other _ _ _ _ _ _ _ _ (by decide) (by decide) (by decide),
      fld_setFld_other _ _ _ _ _ _ _ _ (by decide) (by decide) (by decide), fld_setFld_other _ _ _ _ _ _ _ _ (by decide) (by decide) (by decide),
      fld_setFld_same _ _ _ _ _ (by decide) (by decide)]
    rfl
  · rw [fld_setFld_other _ _ _ _ _ _ _ _ (by decide) (by decide) (by decide), fld_setFld_other _ _ _ _ _ _ _ _ (by decide) (by decide) (by decide),
      fld_setFld_other _ _ _ _ _ _ _ _ (by decide) (by decide) (by decide), fld_setFld_same _ _ _ _ _ (by decide) (by decide)]
    exact Nat.mod_eq_of_lt hw
  · rw [fld_setFld_other _ _ _ _ _ _ _ _ (by decide) (by decide) (by decide), fld_setFld_other _ _ _ _ _ _ _ _ (by decide) (by decide) (by decide),
      fld_setFld_same _ _ _ _ _ (by decide) (by decide)]
    exact Nat.mod_eq_of_lt hg
  · rw [fld_setFld_other _ _ _ _ _ _ _ _ (by decide) (by decide) (by decide), fld_setFld_same _ _ _ _ _ (by decide) (by decide)]
    rfl

/-- What S07 leaves in MEM_CFG and MEM_CAP. -/
theorem memory_trained (s : State) {r g v : Nat} (hr : r < 4) (hg : g < 256) :
    (((s.setFld Fld.MEM_CFG_RATE r).setFld Fld.MEM_CAP_PKG_GIB g).setFld Fld.MEM_CAP_STRIPES v).fld Fld.MEM_CFG_RATE = r ∧
      (((s.setFld Fld.MEM_CFG_RATE r).setFld Fld.MEM_CAP_PKG_GIB g).setFld Fld.MEM_CAP_STRIPES v).fld Fld.MEM_CAP_PKG_GIB = g := by
  constructor
  · rw [fld_setFld_other _ _ _ _ _ _ _ _ (by decide) (by decide) (by decide), fld_setFld_other _ _ _ _ _ _ _ _ (by decide) (by decide) (by decide),
      fld_setFld_same _ _ _ _ _ (by decide) (by decide)]
    exact Nat.mod_eq_of_lt hr
  · rw [fld_setFld_other _ _ _ _ _ _ _ _ (by decide) (by decide) (by decide), fld_setFld_same _ _ _ _ _ (by decide) (by decide)]
    exact Nat.mod_eq_of_lt hg

/-- A state that differs from `s` in registers, courses or start state alone stands as it did when a step passes, but for that. -/
theorem kept_passes_still (h0 : n + 1 ≠ 0) (h3 : n + 1 ≠ 3) (h10 : n + 1 ≠ 10) : s.kept (t.stepPasses n d) = { t with
    flash := s.flash, pending := s.pending, boot := (t.stepPasses n d).boot, aon := (t.stepPasses n d).aon, freeCtr := (t.stepPasses n d).freeCtr } := by
  show ({ t with
    flash := s.flash, pending := s.pending, boot := (t.stepPasses n d).boot, aon := (t.stepPasses n d).aon, freeCtr := (t.stepPasses n d).freeCtr
    pins := t.pins.beginStep (n + 1) } : State) = _
  rw [beginStep_still _ h0 h3 h10]

/-- Settles O2: each step passes from what its row makes of the state. -/
theorem startFirstSteps : Obligations.StartFirstSteps := by
  intro s hc
  have same : s.SameStart s := ⟨rfl, rfl, rfl, rfl, rfl, rfl, rfl⟩
  have regs (r : AMap Reg Word64) : ({ s with regs := r } : State).Calm := hc.of_eq rfl rfl rfl rfl rfl rfl rfl rfl
  refine ⟨fun h => ?_, fun fu h hspent hblank => ?_, fun green fired h hg hp hok => ?_, fun a b i h hu hi hok => ?_, fun h hi => ?_,
    fun i u h hi hr hu hok => ?_, fun w g h h0 hw hg hp hb => ?_, fun h => ?_, fun h hr hg => ?_⟩
  · obtain ⟨hex, hpass⟩ := exec_passes (c := .s00AlwaysOn) rfl (if_pos h.runs) hc same
    exact ⟨_, hex, hpass, kept_passes_still (by decide) (by decide) (by decide)⟩
  · obtain ⟨hex, hpass⟩ := exec_passes (c := .s01KeystoneSelftest true fu true) rfl (doS01_first h hspent hblank)
      (hc.of_eq rfl rfl rfl rfl rfl rfl rfl rfl) ⟨rfl, rfl, rfl, rfl, rfl, rfl, rfl⟩
    exact ⟨_, hex, hpass, rfl, beginStep_still _ (by decide) (by decide) (by decide), rfl⟩
  · obtain ⟨hex, hpass⟩ := exec_passes_flashing (c := .s02FirmwareVerify green fired) rfl (doS02_fired h hg hp hok)
      (hc.of_eq rfl rfl rfl rfl rfl rfl rfl rfl) ⟨rfl, rfl, rfl, rfl, rfl, rfl, rfl⟩ rfl
    exact ⟨_, hex, hpass, rfl, congrArg (fun p => ({ s with boot := _, aon := _, freeCtr := _, pins := p } : State)) (beginStep_three s.pins)⟩
  · obtain ⟨hex, hpass⟩ := exec_passes (c := .s03ImageRead a b) rfl (doS03_passes h hu hi hok)
      (hc.of_eq rfl rfl rfl rfl rfl rfl rfl rfl) ⟨rfl, rfl, rfl, rfl, rfl, rfl, rfl⟩
    exact ⟨_, hex, hpass, rfl, kept_passes_still (by decide) (by decide) (by decide)⟩
  · obtain ⟨hex, hpass⟩ := exec_passes (c := .s04ApplyConfig) (f := doS04ApplyConfig) (t := s) (n := 4) (d := 0) rfl
      (by unfold doS04ApplyConfig; rw [h.runs, hi]; rfl) hc same
    exact ⟨_, hex, hpass, kept_passes_still (by decide) (by decide) (by decide)⟩
  · have hdo := doS04_applies h hi hr hu hok
    obtain ⟨r, p, hset⟩ := loadSettings_frame s Field.settable i.settings
    rw [hset] at hu
    obtain ⟨r', hlinks⟩ := loadLinks_frame { s with regs := r, pmc := p } i.links
    rw [hlinks] at hu
    subst hu
    obtain ⟨x, m, hseeds⟩ := drawSeeds_frame { s with regs := r', pmc := p, boot := { s.boot with links := i.links } }
    rw [hseeds] at hdo
    obtain ⟨hex, hpass⟩ := exec_passes (c := .s04ApplyConfig) rfl hdo (hc.of_eq rfl rfl rfl rfl rfl rfl rfl rfl) ⟨rfl, rfl, rfl, rfl, rfl, rfl, rfl⟩
    exact ⟨_, hex, hpass, rfl, rfl, kept_passes_still (by decide) (by decide) (by decide)⟩
  · obtain ⟨u, hu⟩ : ∃ u, u = ((((s.setFld Fld.HIF_LINK_UP 1 0).setFld Fld.HIF_LINK_WIDTH w 0).setFld Fld.HIF_LINK_GEN g 0).setFld
      Fld.HIF_LINK_BIFURCATED 0 0).setFld Fld.HIF_LINK_BIFURCATED 0 1 := ⟨_, rfl⟩
    obtain ⟨hup, hwidth, hgen, hbif⟩ := link_up s hw hg hu
    have hdo := doS05_one (g := g) h h0 hp hb
    obtain ⟨r, hr⟩ : ∃ r, u = { s with regs := r } := ⟨_, hu⟩
    rw [← hu] at hdo
    subst hr
    obtain ⟨hex, hpass⟩ := exec_passes (c := .s05PcieUp w g 0 0) rfl hdo (regs r) same
    exact ⟨_, hex, hpass, beq_iff_eq.2 hup, hwidth, hgen, beq_false_of_ne (fun e => absurd (hbif.symm.trans e) (by decide)),
      kept_passes_still (by decide) (by decide) (by decide)⟩
  · obtain ⟨hex, hpass⟩ := exec_passes (c := .s06PllLock none) rfl (doS06_locks h) (hc.of_eq rfl rfl rfl rfl rfl rfl rfl rfl) ⟨rfl, rfl, rfl, rfl, rfl, rfl, rfl⟩
    exact ⟨_, hex, hpass, rfl, kept_passes_still (by decide) (by decide) (by decide)⟩
  · obtain ⟨hrate, hgib⟩ := memory_trained s (v := stripesOf s.sec.fuses.pkgGib) hr hg
    have hdo := doS07_trains h
    obtain ⟨u, hu⟩ : ∃ u, u = ((s.setFld Fld.MEM_CFG_RATE (s.boot.alts.getD 7 0)).setFld Fld.MEM_CAP_PKG_GIB s.sec.fuses.pkgGib).setFld
      Fld.MEM_CAP_STRIPES (stripesOf s.sec.fuses.pkgGib) := ⟨_, rfl⟩
    obtain ⟨r, hreg⟩ : ∃ r, u = { s with regs := r } := ⟨_, hu⟩
    rw [← hu] at hdo hrate hgib
    subst hreg
    obtain ⟨hex, hpass⟩ := exec_passes (c := .s07MemoryTrain true) rfl hdo (regs r) same
    exact ⟨_, hex, hpass, hrate, hgib, kept_passes_still (by decide) (by decide) (by decide)⟩

end Sys2Proof.Machine
end

section
/-!
PROOFS. The start steps S08 to S15 (O3).
-/

namespace Sys2Proof.Machine

open Sys2Proof

variable {s : State}

-- S08 (R27 to R31) ---------------------------------------------------------------------------------------------------------------------------

/-- A core that fails its self-test goes into the ledger. -/
def State.coreFails (a : State) (c : Nat) : State :=
  { a.ledger 8 3 0 0 c with boot := { (a.ledger 8 3 0 0 c).boot with badCores := a.boot.badCores ++ [c] } }

/-- `t` differs from `s` at most in what the ledger writes. -/
def State.Ledgers (s t : State) : Prop :=
  ∃ b a n, t = { s with boot := b, aon := a, freeCtr := n } ∧ b.restart = s.boot.restart

theorem State.Ledgers.refl (s : State) : s.Ledgers s := ⟨_, _, _, rfl, rfl⟩

theorem State.Ledgers.trans {s t u : State} (h : s.Ledgers t) (g : t.Ledgers u) : s.Ledgers u := by
  obtain ⟨b, a, n, rfl, hb⟩ := h
  obtain ⟨b', a', n', rfl, hb'⟩ := g
  exact ⟨b', a', n', rfl, hb'.trans hb⟩

theorem coresFail_ledgers (s : State) (l : List Nat) : s.Ledgers (l.foldl State.coreFails s) :=
  foldl_keeps State.Ledgers .refl (fun _ _ _ => .trans) State.coreFails (fun _ _ => ⟨_, _, _, rfl, rfl⟩) l s

/-- A shortfall of cores goes into the ledger. -/
theorem shortfall_ledgers (t : State) (n : Nat) : t.Ledgers (if n < 16 then t.draw.2.ledger 8 3 0 0 (Config.freeValue 72 t.draw.1) else t) := by
  by_cases h : n < 16
  · rw [if_pos h]
    exact ⟨_, _, _, rfl, rfl⟩
  · rw [if_neg h]
    exact .refl t

/-- S08 with cores to enable. -/
theorem doS08_assigns {tests : List (Nat × CoreTest)} {on : List Nat} (h : s.Due 8)
    (hon : on = (((List.range 18).filter (fun c => bitOf s.sec.fuses.goodCores c && !(s.boot.badCores.contains c))).filter
      (fun c => (testOf tests c).ok)).take 16) (hne : on ≠ []) :
    ∃ t, s.Ledgers t ∧ doS08CoreAssign tests s = State.stepPasses {
      ((t.setFld Fld.GLB_CORE_MAP_ENABLED_COUNT on.length).setFld Fld.GLB_CORE_MAP_PHYS_ENABLED (on.map (fun c => 2 ^ c)).sum) with
      cores := on.zipIdx.map (fun (ce : Nat × Nat) => (ce.2, Core.start ce.1 (testOf tests ce.1).badRows)) } 8 0 := by
  have hbad := coresFail_ledgers s
    (((List.range 18).filter (fun c => bitOf s.sec.fuses.goodCores c && !(s.boot.badCores.contains c))).filter (fun c => !(testOf tests c).ok))
  refine ⟨_, hbad.trans (shortfall_ledgers _ on.length), ?_⟩
  unfold doS08CoreAssign
  rw [h.runs]
  dsimp only
  rw [← hon]
  refine (if_neg (by decide)).trans ((if_neg (by rw [List.isEmpty_iff]; exact hne)).trans ?_)
  by_cases hshort : on.length < 16
  · rw [if_pos hshort, if_pos hshort]
    rfl
  · rw [if_neg hshort, if_neg hshort]
    rfl

/-- What S08 leaves in GLB_CORE_MAP. -/
theorem cores_counted (t : State) {n v : Nat} (hn : n < 32) :
    ((t.setFld Fld.GLB_CORE_MAP_ENABLED_COUNT n).setFld Fld.GLB_CORE_MAP_PHYS_ENABLED v).fld Fld.GLB_CORE_MAP_ENABLED_COUNT = n := by
  rw [fld_setFld_other _ _ _ _ _ _ _ _ (by decide) (by decide) (by decide), fld_setFld_same _ _ _ _ _ (by decide) (by decide)]
  exact Nat.mod_eq_of_lt hn

-- S10 (R420, R430) -----------------------------------------------------------------------------------------------------------------------------

/-- New media: nothing is mapped, no checkpoint stands, and the records of the dump are read back. -/
theorem format_mounts (s : State) (g : NandGeom) (l : List Nat) : ∃ q ti e,
    (State.readDump (State.cleanShards (State.resumeIds { s.formatQuarry g l with
      qry := { (s.formatQuarry g l).qry with mounted := true, readOnly := false } }))) =
        { s with qry := q, mirror := [], tiles := ti, ckp := ⟨[], [], [], [], []⟩, err := e } ∧
      q.mounted = true ∧ q.readOnly = false ∧ q.geom = g ∧ q.map = [] :=
  ⟨_, _, _, rfl, rfl, rfl, rfl, rfl⟩

theorem doS10_formats {m : MountFind} {i : ConfigImage} {g : NandGeom} (h : s.Due 10) (hi : s.boot.image = some i) (hg : i.nand = some g)
    (hleft : s.qry.left = false) (halt : s.boot.alts.getD 10 0 = 0) (ha : m.answered = true) (hgeom : m.geomOk = true) (ht : m.trained = true)
    (hroot : m.root = false) : doS10QuarryMount m s = (State.readDump (State.cleanShards (State.resumeIds { s.formatQuarry g m.badBlocks with
      qry := { (s.formatQuarry g m.badBlocks).qry with mounted := true, readOnly := false } }))).stepPasses 10 0 := by
  have halt' : s.altOf 10 = 0 := halt
  unfold doS10QuarryMount
  rw [h.runs, hi]
  dsimp only
  rw [hg, halt']
  simp [hleft, ha, hgeom, ht, hroot]

-- S11 (R716) -----------------------------------------------------------------------------------------------------------------------------------

/-- A PARKED session whose root page has a frame stands in its slot again. -/
theorem recoverSlot_parked {m : Mirror} {n : Nat} {u : State} (hst : m.ses.state = .parked) (hpfx : m.ses.pfxTiles = 0)
    (hmor : s.allocMor m.ses.part ⟨m.ses.part, .priv, 0, m.slot, []⟩ = some (n, u)) :
    s.recoverSlot m = u.setSes m.slot { m.ses.bare with mortar := { m.ses.mortar with root := n } } := by
  unfold State.recoverSlot
  dsimp only
  rw [hst, hmor]
  exact if_pos hpfx

theorem doS11_one {m : Mirror} (h : s.Due 11) (halt : s.boot.alts.getD 11 0 ≠ 1) (hm : s.mirror = [m]) :
    doS11DirectoryRecovery true s = (s.recoverSlot m).stepPasses 11 0 := by
  have halt' : s.altOf 11 ≠ 1 := halt
  unfold doS11DirectoryRecovery
  rw [h.runs, if_neg (by decide), if_neg halt', hm]
  rfl

-- S12 (R534, R713) -------------------------------------------------------------------------------------------------------------------------------

/-- The port that S12 leaves. -/
def State.portAtStart (s : State) (n : Nat) : Port :=
  if s.boot.deadPorts.contains n then { Port.fresh 0 .down with leftDown := true }
  else if s.flag Fld.LNK_CFG_ENABLE n then Port.fresh (s.genMax n) .train else Port.fresh 0 .down

theorem doS12_trains (h : s.Due 12) : doS12LinkTrain s = State.stepPasses { s with
    ports := (List.range 8).map (fun n => (n, s.portAtStart n)), boot := { s.boot with trainFails := [] } } 12 0 := by
  unfold doS12LinkTrain
  rw [h.runs, if_neg (by decide)]
  refine congrArg (fun l => State.stepPasses { s with ports := l, boot := { s.boot with trainFails := [] } } 12 0) (List.map_congr_left (fun n _ => ?_))
  unfold State.portAtStart
  split
  · rfl
  · split <;> rfl

/-- A map that a list of keys is turned into holds each of them. -/
theorem get?_map_mem {β : Type} (g : Nat → β) {l : List Nat} {k : Nat} (h : k ∈ l) : AMap.get? (l.map (fun i => (i, g i))) k = some (g k) := by
  induction l with
  | nil => cases h
  | cons a l ih =>
    rw [List.map_cons]
    by_cases hk : a = k
    · subst hk
      exact if_pos rfl
    · exact (if_neg hk).trans (ih ((List.mem_cons.1 h).resolve_left (Ne.symm hk)))

/-- What a map of entries that keeps the keys leaves at one. -/
theorem get?_map_keyed {α β : Type} {g : Nat × α → Nat × β} (hg : ∀ kv, (g kv).1 = kv.1) {l : AMap Nat α} {k : Nat} {x : α}
    (h : l.get? k = some x) : AMap.get? (l.map g) k = some (g (k, x)).2 := by
  induction l with
  | nil => cases h
  | cons kv l ih =>
    obtain ⟨a, y⟩ := kv
    rw [List.map_cons]
    by_cases hk : a = k
    · subst hk
      obtain rfl : y = x := Option.some.inj ((if_pos rfl).symm.trans h)
      exact if_pos (hg (a, y))
    · exact (if_neg (by rw [hg]; exact hk)).trans (ih ((if_neg hk).symm.trans h))

-- S14 (R666, R709) -------------------------------------------------------------------------------------------------------------------------------

theorem doS14_starts {p : Plan} (h : s.Due 14) (hu : s.boot.unconf = false) (hmarks : s.sec.marks = []) (halt : s.boot.alts.getD 11 0 ≠ 1)
    (hp : s.boot.nextPlan = some p) (hok : s.plumb (s.actual true) s.nextPlaces = none) :
    doS14PartitionStart s = (s.startPartitions p).stepPasses 14 0 := by
  have halt' : s.altOf 11 ≠ 1 := halt
  unfold doS14PartitionStart
  rw [h.runs, hmarks]
  simp [halt', hu, hok, hp]

/-- The placed context stands, whatever system contexts are added. -/
theorem placeCtxs_placed {x : PlaceRef} {i : CtxImage} (h : s.ctxs = []) (hi : x.img = some i) :
    (s.placeCtxs [x]).ctxs.get? (x.part, x.ctx) = some (Ctx.placed x i) := by
  rw [placeCtxs_one s x i h hi]
  exact keepsCtxs_fold keepsCtxs_placeSystem _ _ _ _ (if_pos rfl)

/-- The core that S14 leaves belongs to the partition that the plan gives it to, and is not being cleared. -/
theorem started_core (s : State) (e : Nat) {k : Core} (hk : s.cores.get? e = some k) :
    ∃ k', AMap.get? ((s.cores.map s.givenCore).map (fun (kv : Nat × Core) => (kv.1, { kv.2 with clearing := false }))) e = some k' ∧
      k'.owner = s.coreOwner e ∧ k'.clearing = false := by
  have hgiven : AMap.get? (s.cores.map s.givenCore) e = some (s.givenCore (e, k)).2 := get?_map_keyed (fun kv => by
    unfold State.givenCore
    split <;> rfl) hk
  refine ⟨_, (AMap.get?_map _ (fun c : Core => { c with clearing := false }) e).trans (congrArg _ hgiven), ?_, rfl⟩
  show (s.givenCore (e, k)).2.owner = s.coreOwner e
  unfold State.givenCore
  split
  · next ho => exact ho
  · rfl

-- S15 (R712, R723) -------------------------------------------------------------------------------------------------------------------------------

theorem doS15_ready (h : s.Due 15) (hw : s.waitS15 = []) : doS15Ready s = s.reachReady := by
  unfold doS15Ready
  rw [h.runs, hw]
  have hs : ({ s with waitS15 := [] } : State) = s := by rw [← hw]
  rw [hs]
  rfl

/-- S15 sets READY and burns the fuses of R723. -/
theorem reachReady_spec (s : State) : ∃ b a n r, s.reachReady = { s with
      boot := b, aon := a, freeCtr := n, regs := r
      sec := { s.sec with fuses := { s.sec.fuses with rollback := Nat.max s.sec.fuses.rollback s.boot.fired.rollback } } } ∧
    b.phase = .ready ∧ b.step = 15 ∧ b.restart = s.boot.restart ∧ s.reachReady.flag Fld.HIF_LINK_READY 0 = true := by
  have hset (t : State) : (t.setFld Fld.HIF_LINK_READY 1).fld Fld.HIF_LINK_READY 0 = 1 := by
    rw [fld_setFld_same _ _ _ _ _ (by decide) (by decide)]
    rfl
  unfold State.reachReady
  dsimp only
  generalize (if s.altOf 15 = 0 then 0 else 2) = o
  by_cases hb : bitOf s.boot.straps 0 = true
  · have hb' : bitOf ((s.ledger 15 o 0 (s.altOf 15) 0).setFld Fld.HIF_LINK_READY 1).boot.straps 0 = true := hb
    rw [if_pos hb']
    refine ⟨_, _, _, _, rfl, rfl, rfl, rfl, beq_iff_eq.2 ?_⟩
    exact (fld_setFld_other ((s.ledger 15 o 0 (s.altOf 15) 0).setFld Fld.HIF_LINK_READY 1) _ _ _ 1 0 0 0 (by decide) (by decide) (by decide)).trans (hset (s.ledger 15 o 0 (s.altOf 15) 0))
  · have hb' : ¬ bitOf ((s.ledger 15 o 0 (s.altOf 15) 0).setFld Fld.HIF_LINK_READY 1).boot.straps 0 = true := hb
    rw [if_neg hb']
    exact ⟨_, _, _, _, rfl, rfl, rfl, rfl, beq_iff_eq.2 (hset (s.ledger 15 o 0 (s.altOf 15) 0))⟩

/-- Settles O3: each step passes from what its row makes of the state, and S15 makes the device ready. -/
theorem startLastSteps : Obligations.StartLastSteps := by
  intro s hc
  refine ⟨fun tests on h hon hne => ?_, fun h => ?_, fun m i g h hi hg hleft halt ha hgeom ht hroot => ?_,
    fun m n u h halt hm hst hpfx hmor => ?_, fun h => ?_, fun h => ?_, fun p h hu hmarks halt hctx hp hok => ?_, fun h hw => ?_⟩
  · obtain ⟨t, ⟨b, a, k, rfl, hb⟩, hdo⟩ := doS08_assigns h hon hne
    have hlen : on.length < 32 := by
      rw [hon, List.length_take]
      omega
    have hcount := cores_counted { s with boot := b, aon := a, freeCtr := k } (v := (on.map (fun c => 2 ^ c)).sum) hlen
    refine ⟨_, next_always hdo (State.Calm.stepPasses ?_ 8 0), rfl, rfl, rfl, hcount, ?_⟩
    · exact hc.of_eq rfl rfl rfl rfl rfl rfl rfl hb
    · exact congrArg (fun p => ({ s with boot := _, aon := _, freeCtr := _, regs := _, cores := _, pins := p } : State))
        (beginStep_still s.pins (n := 9) (by decide) (by decide) (by decide))
  · obtain ⟨hex, hpass⟩ := exec_passes (c := .s09FirmwareLoad none) (f := doS09FirmwareLoad none) (t := s.loadCores) (n := 9) (d := 0) rfl
      (if_neg (by rw [h.runs]; decide)) (hc.of_eq rfl rfl rfl rfl rfl rfl rfl rfl) ⟨rfl, rfl, rfl, rfl, rfl, rfl, rfl⟩
    exact ⟨_, hex, hpass, congrArg (fun p => ({ s with boot := _, aon := _, freeCtr := _, cores := _, pins := p } : State)) (beginStep_ten s.pins)⟩
  · have hdo := doS10_formats h hi hg hleft halt ha hgeom ht hroot
    obtain ⟨q, ti, e, hq, hmount, hro, hgq, hmap⟩ := format_mounts s g m.badBlocks
    rw [hq] at hdo
    obtain ⟨hex, hpass⟩ := exec_passes (c := .s10QuarryMount m) rfl hdo ⟨hc.1, rfl, hc.3, hc.4, hc.5, hc.6, hc.7, hc.8⟩
      ⟨rfl, rfl, rfl, rfl, rfl, rfl, rfl⟩
    exact ⟨_, hex, hpass, hmount, hro, hgq, hmap, kept_passes_still (by decide) (by decide) (by decide)⟩
  · have hdo := doS11_one h halt hm
    rw [recoverSlot_parked hst hpfx hmor] at hdo
    obtain ⟨r, k, hu⟩ := allocMor_exact hmor
    obtain ⟨mf, hmf⟩ : ∃ mf, mf = u.mortarFrames := ⟨_, rfl⟩
    rw [← hmf] at hu ⊢
    subst hu
    obtain ⟨hset, hother⟩ := ses_set (s := s) (t := State.setSes { s with mortarFrames := mf, regs := r, freeCtr := k } m.slot
      { m.ses.bare with mortar := { m.ses.mortar with root := n } }) (k := m.slot) rfl
    have hcalm : (State.setSes { s with mortarFrames := mf, regs := r, freeCtr := k } m.slot
        { m.ses.bare with mortar := { m.ses.mortar with root := n } }).Calm := by
      refine ⟨fun kv hk => ?_, hc.2, hc.3, hc.4, hc.5, hc.6, hc.7, hc.8⟩
      rcases AMap.mem_set hk with hk | rfl
      · exact hc.1 kv hk
      · rfl
    obtain ⟨hex, hpass⟩ := exec_passes (c := .s11DirectoryRecovery true) rfl hdo hcalm ⟨rfl, rfl, rfl, rfl, rfl, rfl, rfl⟩
    exact ⟨_, hex, hpass, hset, rfl, hother, kept_passes_still (by decide) (by decide) (by decide)⟩
  · obtain ⟨hex, hpass⟩ := exec_passes (c := .s12LinkTrain) rfl (doS12_trains h) (hc.of_eq rfl rfl rfl rfl rfl rfl rfl rfl)
      ⟨rfl, rfl, rfl, rfl, rfl, rfl, rfl⟩
    exact ⟨_, hex, hpass, fun n hn => get?_map_mem s.portAtStart (List.mem_range.2 hn), kept_passes_still (by decide) (by decide) (by decide)⟩
  · obtain ⟨u, hu⟩ : ∃ u, u = s.setFld Fld.CMP_PEER_ID_ID s.sec.fuses.peerId.toNat := ⟨_, rfl⟩
    have hid : u.fld Fld.CMP_PEER_ID_ID = s.sec.fuses.peerId.toNat := by
      rw [hu, fld_setFld_same _ _ _ _ _ (by decide) (by decide)]
      exact Nat.mod_eq_of_lt s.sec.fuses.peerId.isLt
    have hdo : doS13AkCertificate true s = State.stepPasses { u with sec := { u.sec with akFor := some u.boot.fired.digest } } 13 0 := by
      rw [hu]
      exact if_neg (by rw [h.runs]; decide)
    obtain ⟨r, hr⟩ : ∃ r, u = { s with regs := r } := ⟨_, hu⟩
    subst hr
    obtain ⟨hex, hpass⟩ := exec_passes (c := .s13AkCertificate true) rfl hdo (hc.of_eq rfl rfl rfl rfl rfl rfl rfl rfl)
      ⟨rfl, rfl, rfl, rfl, rfl, rfl, rfl⟩
    exact ⟨_, hex, hpass, hid, rfl, kept_passes_still (by decide) (by decide) (by decide)⟩
  · have hdo := doS14_starts h hu hmarks halt hp hok
    have hctxs : ((s.ownCores.ownFrames.zeroHanded s).ctxs) = [] := by
      obtain ⟨r, hr⟩ := ownCores_frame s
      rw [hr]
      exact hctx
    obtain ⟨tf, mf, ti, rg, k, rp, q, sx, hst⟩ := startPartitions_frame s p hctx
    rw [hst] at hdo
    refine ⟨_, next_always hdo (State.Calm.stepPasses ?_ 14 0), rfl, rfl, fun e c hk => started_core s e hk, fun x i hx hi => ?_, rfl, rfl⟩
    · exact hc.of_eq rfl rfl rfl rfl rfl rfl rfl rfl
    · rw [hx]
      exact placeCtxs_placed hctxs hi
  · obtain ⟨b, a, k, r, hr, hphase, hstep, hrestart, hflag⟩ := reachReady_spec s
    have hdo := (doS15_ready h hw).trans hr
    rw [hr] at hflag
    refine ⟨_, (exec_flashing rfl hdo ?_), hphase, hstep, hflag, rfl, rfl⟩
    exact hc.of_eq rfl rfl rfl rfl rfl rfl rfl hrestart

end Sys2Proof.Machine
end

section
/-!
PROOFS. PWR_GOOD, SYS_RESET_N, the held reset and the board's management endpoint (O4).
-/

namespace Sys2Proof.Machine

open Sys2Proof

variable {s : State}

/-- The pins of S00. -/
theorem beginStep_zero (p : Pins) : p.beginStep 0 = { p with xspiReset := true } := by
  unfold Pins.beginStep
  simp

/-- A reset leaves nothing that waits. -/
theorem wiped_calm (s : State) (power : Bool) : (s.wiped power).Calm :=
  ⟨fun _ h => absurd h List.not_mem_nil, rfl, rfl, fun _ h => absurd h List.not_mem_nil, rfl, rfl, rfl, rfl⟩

theorem sysReset_calm (s : State) : s.sysReset.Calm := (wiped_calm s false).of_eq rfl rfl rfl rfl rfl rfl rfl rfl

/-- SYS_RESET_N takes effect at once where nothing holds it back (R787). -/
theorem doSysResetAsserted_resets (hoff : s.boot.phase ≠ .off) (hres : s.boot.phase ≠ .reset) (hx : s.pins.xspiBusy = false)
    (hd : s.dumpHolds = false) : doSysResetAsserted s = State.sysReset { s with pins := { s.pins with sysReset := true } } := by
  unfold doSysResetAsserted
  dsimp only
  rw [hx, hd]
  cases hp : s.boot.phase
  case off => exact absurd hp hoff
  case reset => exact absurd hp hres
  all_goals rfl

/-- A page program or the dump of a freeze holds SYS_RESET_N back (R791). -/
theorem doSysResetAsserted_held (hoff : s.boot.phase ≠ .off) (hres : s.boot.phase ≠ .reset) (h : s.pins.xspiBusy = true ∨ s.dumpHolds = true) :
    doSysResetAsserted s = { s with pins := { s.pins with sysReset := true, resetHeld := true } } := by
  have hor : (s.pins.xspiBusy || s.dumpHolds) = true := by rcases h with h | h <;> simp [h]
  unfold doSysResetAsserted
  dsimp only
  rw [hor]
  cases hp : s.boot.phase
  case off => exact absurd hp hoff
  case reset => exact absurd hp hres
  all_goals rfl

theorem releaseReset_free (h : s.pins.resetHeld = false) : s.releaseReset = s := if_pos (by rw [h]; rfl)

theorem releaseReset_held (h : s.pins.resetHeld = true) (hl : s.pins.sysReset = true) : s.releaseReset = s.sysReset :=
  (if_neg (by rw [h]; decide)).trans (if_pos hl)

/-- A page program that ends with no reset waiting frees the pins (R791). -/
theorem doXspiPageProgramDone_free (h : s.pins.resetHeld = false) :
    doXspiPageProgramDone s = { s with pins := { s.pins with xspiBusy := false } } := by
  unfold doXspiPageProgramDone
  dsimp only
  split
  · rfl
  · exact releaseReset_free (s := { s with pins := { s.pins with xspiBusy := false } }) h

/-- A sensor answers (R776). -/
theorem doMctp_sensor {n : Nat} (hm : s.managed = true) (hn : n < 36) : doMctpPldmRequest (.sensor n) s =
    { s with out := .sensor n (Config.freeValue 73 s.freeCtr) :: s.out, freeCtr := s.freeCtr + 1 } :=
  if_pos (by rw [hm]; exact decide_eq_true hn)

/-- The recovery endpoint writes what lies within the green slot (R721). -/
theorem doMctp_stages {off : Nat} {data : List Byte} (hr : s.boot.recovery = true) (h0 : 0 < off) (hd : data ≠ [])
    (hlen : off + data.length ≤ slotBytes) : doMctpPldmRequest (.fwStage off data) s =
      { s with flash := Memory.writes erased s.flash (greenBase + off) data, pins := { s.pins with xspiBusy := true } } := by
  have hstage : s.stageFirmware off data = some (s.flashWrite (greenBase + off) data) := by
    unfold State.stageFirmware
    rw [if_neg (Nat.not_lt.2 hlen), if_neg (Nat.pos_iff_ne_zero.1 h0)]
  refine (if_pos hr).trans ?_
  rw [hstage]
  exact if_neg (by rw [List.isEmpty_iff]; exact hd)

/-- Settles O4: what begins or ends the power or a reset wipes the state; what holds a reset back only marks it. -/
theorem powerAndReset : Obligations.PowerAndReset := by
  intro s hc
  have pins (p : Pins) : ({ s with pins := p } : State).Calm := hc.of_eq rfl rfl rfl rfl rfl rfl rfl rfl
  refine ⟨fun k hoff => ?_, fun hoff => ?_, fun hoff hres hx hd => ?_, fun hoff hres h => ?_, fun hoff hl hh => ?_, fun hh => ?_,
    fun hh hl hd => ?_, fun hf hx hh hl => ?_, fun n hm hn => ?_, fun off data hr h0 hd hlen => ?_⟩
  · obtain ⟨hcalm, -, hphase, hnum, -, -, -, -, -, -, hledger, -⟩ := beginStart_spec { s with pins := { s.pins with pwrGood := true } } 0
    refine ⟨_, next_always (f := doPwrGoodRise k) (if_neg (not_not.2 hoff)) (hcalm.of_eq rfl rfl rfl rfl rfl rfl rfl rfl), hphase, ?_, rfl, hnum, rfl, rfl,
      hledger⟩
    exact beginStep_zero _
  · exact ⟨_, next_always (f := doPwrGoodFall) (if_neg hoff) ((wiped_calm s true).of_eq rfl rfl rfl rfl rfl rfl rfl rfl), rfl, rfl, rfl, rfl, rfl, rfl, rfl,
      rfl, rfl, rfl, rfl, rfl, rfl, rfl, rfl, rfl, rfl, rfl⟩
  · exact ⟨_, next_always (f := doSysResetAsserted) (doSysResetAsserted_resets hoff hres hx hd) (sysReset_calm _), rfl, rfl, rfl, rfl, rfl, rfl, rfl, rfl,
      rfl, rfl, rfl, rfl, rfl⟩
  · exact next_always (f := doSysResetAsserted) (doSysResetAsserted_held hoff hres h) (pins _)
  · obtain ⟨hcalm, -, hphase, hnum, -, -, -, -, -, -, hledger, -⟩ := beginStart_spec { s with pins := { s.pins with sysReset := false } } 1
    refine ⟨_, next_always (f := doSysResetReleased) (if_neg ?_) hcalm, hphase, ?_, hnum, rfl, rfl, hledger⟩
    · rw [hl, hh, beq_false_of_ne hoff]
      decide
    · exact beginStep_still _ (by decide) (by decide) (by decide)
  · exact next_always (f := doXspiPageProgramDone) (doXspiPageProgramDone_free hh) (pins _)
  · refine ⟨_, next_always (f := doXspiPageProgramDone) ((if_neg ?_).trans
      (releaseReset_held (s := { s with pins := { s.pins with xspiBusy := false } }) hh hl)) (sysReset_calm _), rfl, rfl, rfl, rfl⟩
    exact fun h => Bool.noConfusion (hd.symm.trans h)
  · exact ⟨_, next_always (f := doDumpWaitLimitExpiry) ((if_pos (by rw [hf, hx]; rfl)).trans (releaseReset_held hh hl)) (sysReset_calm _), rfl, rfl, rfl, rfl⟩
  · exact ⟨_, exec_flashing (f := doMctpPldmRequest (.sensor n)) rfl (doMctp_sensor hm hn) (hc.of_eq rfl rfl rfl rfl rfl rfl rfl rfl)⟩
  · exact exec_flashing (f := doMctpPldmRequest (.fwStage off data)) rfl (doMctp_stages hr h0 hd hlen) (hc.of_eq rfl rfl rfl rfl rfl rfl rfl rfl)

end Sys2Proof.Machine
end

section
/-!
PROOFS. What NAND results leave in the quarry (O45).
-/

namespace Sys2Proof.Machine

open Sys2Proof

variable {s : State}

/-- An event that leaves the quarry as `q` and records a CE besides. -/
theorem event_records {f : State → State} {q : Qry} {r : AMap Reg Word64} {p : Option Nat} {loc : Nat} (hc : s.Calm) (hw : s.awake = true)
    (hring : ∀ r ∈ s.err.ring, r.cls ≠ .ce)
    (hf : f s = State.record { s with qry := q, regs := r } { cls := .ce, source := 9, part := p, location := loc }) :
    ∃ t, (Host.Outcome.next (s.event f) : Host.Outcome State Fault Refusal) = .next t ∧ t.qry = q ∧ s.Logs t .ce 9 p loc 0 ∧
      t = { s with qry := t.qry, err := t.err, aon := t.aon, freeCtr := t.freeCtr, regs := t.regs, out := t.out } := by
  obtain ⟨hrec, hlog⟩ := record_logs (s := s) (s1 := { s with qry := q, regs := r }) rfl hf hring
  have hl := hlog _ _ _ _ _ rfl rfl rfl rfl rfl
  obtain ⟨e, a, n, r', l, ht⟩ := hrec
  rw [ht] at hl
  exact ⟨_, next_event_own hw ht (hc.of_eq rfl rfl rfl rfl rfl rfl rfl rfl) rfl rfl, rfl, hl, rfl⟩

/-- Recording an error leaves the quarry as it is. -/
theorem record_qry (s : State) (f : ErrIn) : (s.record f).qry = s.qry := by
  obtain ⟨e, a, n, r, l, h⟩ := rec_detect_alone s f
  unfold State.record
  rw [h]

/-- What a block's retirement leaves (R427). -/
theorem qRetire_retires (s : State) (b : Nat) : s.qRetire b = { s with qry := (s.qRetire b).qry } ∧ ((s.qRetire b).qry.blk b).state = .retired ∧
    b ∈ (s.qRetire b).qry.badBlocks ∧ (s.qRetire b).qry.map = s.qry.map ∧ (s.qRetire b).qry.staged = s.qry.staged := by
  obtain ⟨bl, bb, j, ids, ro, hq, hst, hbad⟩ := qRetire_exact s b
  rw [hq]
  exact ⟨rfl, hst, hbad, rfl, rfl⟩

-- Programs (R428) --------------------------------------------------------------------------------------------------------------------------

/-- A data page of a bond fails to program (R428). -/
theorem doNandProgramDone_fails {p id ppa f : Nat} {b : Bond} {y : Staged} (hb : s.bondOf p id = some b) (hm : s.qry.mounted = true)
    (hro : s.qry.readOnly = false) (hmay : s.qry.mayProgram ppa = true) (hst : s.qry.staged = [(f, y)])
    (hcol : b.kind ≠ .coldPark ∨ s.collectsFirst (blockLun (ppaBlock ppa)) = false) (hy : y.ppa = none) (ho : y.owner = p) (hbd : y.bond = id) :
    doNandProgramDone p id ppa false s = s.programFails b ppa := by
  have hstaged : (s.qry.stagedOf p id).find? (fun kv => kv.2.ppa.isNone) = some (f, y) := by
    unfold Qry.stagedOf
    rw [hst]
    simp [ho, hbd, hy]
  have hfree : (b.kind == .coldPark && s.collectsFirst (blockLun (ppaBlock ppa))) = false := by
    rcases hcol with h | h
    · rw [beq_false_of_ne h, Bool.false_and]
    · rw [h, Bool.and_false]
  unfold doNandProgramDone
  rw [hb]
  dsimp only
  rw [hm, hstaged]
  dsimp only
  rw [hro, hmay, hfree]
  rfl

/-- A failure that leaves the quarry in use, of a page of which the block holds no other (R428). -/
theorem programFails_retires {ppa f : Nat} {b : Bond} {y : Staged} (hst : s.qry.staged = [(f, y)]) (hy : y.ppa = none)
    (hin : s.qry.framesIn (ppaBlock ppa) = []) (hfree : (s.qRetire (ppaBlock ppa)).qry.freeBlocks ≠ 0)
    (hro : (s.qRetire (ppaBlock ppa)).qry.readOnly = false) :
    ∃ r, s.programFails b ppa = State.record { s with qry := (s.qRetire (ppaBlock ppa)).qry, regs := r }
      { cls := .ce, source := 9, part := some b.part, location := ppa } := by
  obtain ⟨hs, -, -, hmap, hstaged⟩ := qRetire_retires s (ppaBlock ppa)
  obtain ⟨q, hq⟩ : ∃ q, (s.qRetire (ppaBlock ppa)).qry = q := ⟨_, rfl⟩
  rw [hq] at hs hmap hstaged hfree hro ⊢
  have hst' : q.staged = [(f, y)] := hstaged.trans hst
  have hsame : ({ q with staged := [(f, y)] } : Qry) = q := by rw [← hst']
  have hin' : q.framesIn (ppaBlock ppa) = [] := by
    unfold Qry.framesIn
    rw [hmap]
    exact hin
  have hgoes : (q.freeBlocks = 0 || q.readOnly) = false := by rw [hro, decide_eq_false hfree]; rfl
  refine ⟨(State.bump { s with qry := q } Fld.QRY_PROG_FAILS_COUNT).regs, ?_⟩
  unfold State.programFails
  dsimp only
  rw [hs]
  have hbump : State.bump { s with qry := q } Fld.QRY_PROG_FAILS_COUNT =
      { s with qry := q, regs := (State.bump { s with qry := q } Fld.QRY_PROG_FAILS_COUNT).regs } := rfl
  rw [hbump]
  dsimp only
  rw [hst']
  simp only [List.map_cons, List.map_nil, hy]
  rw [hsame, hin']
  exact if_neg (by rw [List.foldl_nil, hgoes]; decide)

/-- The page of a mirror record fails to program (R428). -/
theorem doNandProgramDone_mirrorFails {p id ppa : Nat} {b : Bond} (hb : s.bondOf p id = some b) (hp : b.part = p) (hq : b.quarry = true)
    (hm : s.qry.mounted = true) (hst : ∀ kv ∈ s.qry.staged, kv.2.ppa ≠ none) (hro : (s.qRetire (ppaBlock ppa)).qry.readOnly = false) :
    ∃ r, doNandProgramDone p id ppa false s = State.record { s with qry := (s.qRetire (ppaBlock ppa)).qry, regs := r }
      { cls := .ce, source := 9, part := some p, location := ppa } := by
  have hnone : (s.qry.stagedOf p id).find? (fun kv => kv.2.ppa.isNone) = none := by
    rw [List.find?_eq_none]
    intro kv hk
    rw [Option.isNone_iff_eq_none]
    exact hst kv (List.mem_of_mem_filter hk)
  obtain ⟨hs, -⟩ := qRetire_retires s (ppaBlock ppa)
  unfold doNandProgramDone
  rw [hb]
  dsimp only
  rw [hm, hnone]
  dsimp only
  rw [hq]
  unfold State.mirrorPage
  dsimp only
  rw [if_neg (by decide), if_pos rfl, if_neg (by decide), hs]
  obtain ⟨q, hqr⟩ : ∃ q, (s.qRetire (ppaBlock ppa)).qry = q := ⟨_, rfl⟩
  rw [hqr] at hro ⊢
  refine ⟨(State.bump { s with qry := q } Fld.QRY_PROG_FAILS_COUNT).regs, ?_⟩
  rw [← hp]
  exact if_neg (by rw [record_qry]; exact Bool.eq_false_iff.1 hro)

-- Erases (R427) ----------------------------------------------------------------------------------------------------------------------------

/-- What a passed erase leaves. -/
theorem doNandEraseDone_frees {b : Nat} {x : Blk} (hx : s.qry.blk b = x) (he : x.state = .erasing) : ∃ q m l, doNandEraseDone b true s = { s with qry := q, pmc := m, out := l } ∧
    q.blk b = { x with state := .free, erases := Nat.min 65535 (x.erases + 1), valid := 0, reads := 0, next := 0 } ∧
    (∀ j, j ≠ b → q.blk j = s.qry.blk j) ∧ (∀ ppa, ppaBlock ppa = b → q.pages.get? ppa = none ∧ q.metas.get? ppa = none) ∧ q.map = s.qry.map ∧
    q.badBlocks = s.qry.badBlocks := by
  have he' : (x.state != .erasing) = false := by rw [he]; rfl
  unfold doNandEraseDone
  dsimp only
  rw [hx, he']
  obtain ⟨m, l, hcount⟩ := count_frame _ (PmcEv.ofDevice 0x42 1)
  refine ⟨_, m, _, hcount, ?_, fun j hj => ?_, fun ppa hp => ?_, rfl, rfl⟩
  · show AMap.getD (s.qry.blocks.set b _) b Blk.fresh = _
    rw [AMap.getD_set, if_pos rfl, hx]
  · show AMap.getD (s.qry.blocks.set b _) j Blk.fresh = _
    rw [AMap.getD_set, if_neg hj]
    rfl
  · have hgone : (ppaBlock ppa != b) = false := by rw [hp]; exact bne_self_eq_false _
    exact ⟨(AMap.get?_filter _ (fun k => ppaBlock k != b) ppa).trans (if_neg (by rw [hgone]; decide)),
      (AMap.get?_filter _ (fun k => ppaBlock k != b) ppa).trans (if_neg (by rw [hgone]; decide))⟩

/-- A failed erase retires the block. -/
theorem doNandEraseDone_fails {b : Nat} (he : (s.qry.blk b).state = .erasing) (hro : (s.qRetire b).qry.readOnly = false) :
    doNandEraseDone b false s = State.record { s with qry := (s.qRetire b).qry, regs := s.regs }
      { cls := .ce, source := 9, part := none, location := b * 2048 } := by
  obtain ⟨hs, -⟩ := qRetire_retires s b
  have he' : ((s.qry.blk b).state != .erasing) = false := by rw [he]; rfl
  unfold doNandEraseDone
  dsimp only
  rw [he', if_neg (by decide), if_neg (by decide), hs]
  obtain ⟨q, hqr⟩ : ∃ q, (s.qRetire b).qry = q := ⟨_, rfl⟩
  rw [hqr] at hro ⊢
  exact if_neg (by rw [record_qry, hro]; decide)

/-- Settles O45: a failure retires the block and records a CE; a passed erase frees the block. -/
theorem nandResults : Obligations.NandResults := by
  intro s hc hw
  refine ⟨fun p id ppa f b y c hi hb hp hm hro hmay hst hcol hy ho hbd hin hfree hro' hring => ?_,
    fun p id ppa b c hi hb hp hq hm hst hro hring => ?_, fun b x hx he => ?_, fun b c hi he hro hring => ?_, fun p id f => rfl⟩
  · obtain ⟨-, hret, hbad, hmap, hstaged⟩ := qRetire_retires s (ppaBlock ppa)
    obtain ⟨r, hfail⟩ := programFails_retires (b := b) hst hy hin hfree hro'
    obtain ⟨t, hex, hq, hlog, ht⟩ := event_records (f := doNandProgramDone p id ppa false) hc hw hring
      ((doNandProgramDone_fails hb hm hro hmay hst hcol hy ho hbd).trans hfail)
    rw [← hq] at hret hbad hmap hstaged
    refine ⟨t, ?_, hret, hbad, hstaged.trans hst, hmap, hp ▸ hlog, ht⟩
    rcases hi with rfl | rfl <;> exact hex
  · obtain ⟨-, hret, hbad, hmap, hstaged⟩ := qRetire_retires s (ppaBlock ppa)
    obtain ⟨r, hfail⟩ := doNandProgramDone_mirrorFails hb hp hq hm hst hro
    obtain ⟨t, hex, hq, hlog, ht⟩ := event_records (f := doNandProgramDone p id ppa false) hc hw hring hfail
    rw [← hq] at hret hbad hmap hstaged
    refine ⟨t, ?_, hret, hbad, hstaged, hmap, hlog, ht⟩
    rcases hi with rfl | rfl <;> exact hex
  · obtain ⟨q, m, l, hdo, h⟩ := doNandEraseDone_frees hx he
    obtain ⟨h1, h2, h3, h4, h5⟩ := h
    exact ⟨_, next_event_own hw hdo (hc.of_eq rfl rfl rfl rfl rfl rfl rfl rfl) rfl rfl, h1, h2, h3, h4, h5, rfl⟩
  · obtain ⟨-, hret, hbad, hmap, -⟩ := qRetire_retires s b
    obtain ⟨t, hex, hq, hlog, ht⟩ := event_records (f := doNandEraseDone b false) hc hw hring (doNandEraseDone_fails he hro)
    rw [← hq] at hret hbad hmap
    refine ⟨t, ?_, hret, hbad, hmap, hlog, ht⟩
    rcases hi with rfl | ⟨p, id, rfl⟩ <;> exact hex

end Sys2Proof.Machine
end

section
/-!
PROOFS. Pulls are answered, installed and repeated (O36).
-/

namespace Sys2Proof.Machine

open Sys2Proof

variable {s : State}

-- TILE_PULL (R582) -----------------------------------------------------------------------------------------------------------------------------

/-- A pull that passes the checks of R582 is served. -/
theorem doTilePull_serves {h : Hdr} {i slot k layer head column frame : Nat} {p : Peer} {m : MoveOut} (hc : s.Calm)
    (hh : s.Hears h 6 false (some 48) i p) (hr : s.sec.removed.contains h.part = false) (hk : s.checkHandle (some h.part) h.handle = none)
    (hs : slot = handleSlot h.handle) (hm : s.movesOut.get? slot = some m) (hi : m.peer = i)
    (ho : m.offered.find? (fun kv => kv.2 == frame) = some (k, frame)) (hp : s.framePoisoned frame = false)
    (hf : m.staging.has k = false ∨ m.filled.contains k = true) : doTilePull h layer head column frame s = (s.peerSeen i).servePull slot k frame h := by
  have hgone : ((s.peerSeen i).sec.removed.contains h.part || (s.peerSeen i).removals.has h.part) = false := by
    show (s.sec.removed.contains h.part || s.removals.has h.part) = false
    rw [hr, hc.removals]
    rfl
  have hk' : (s.peerSeen i).checkHandle (some h.part) h.handle = none := hk
  have hm' : (s.peerSeen i).movesOut.get? slot = some m := hm
  have hp' : (s.peerSeen i).framePoisoned frame = false := hp
  have hfill : (m.staging.has k && !(m.filled.contains k)) = false := by rcases hf with hf | hf <;> rw [hf] <;> simp
  unfold doTilePull
  rw [hh.receive]
  dsimp only
  rw [hgone, hk', if_neg (by decide)]
  dsimp only
  rw [← hs, hm']
  dsimp only
  rw [if_neg (not_not.2 hi), ho]
  dsimp only
  rw [hp', hfill]
  rfl

/-- A pull of a tile that is there is answered with it. -/
theorem servePull_answers {slot k frame : Nat} {h : Hdr} {d : Tile} {x : Port} (hd : s.tiles.get? (.frame frame) = some d)
    (hx : s.ports.get? h.port = some x) (hu : x.up = true) : ∃ po l, s.servePull slot k frame h = { s with ports := po, selfRefresh := l } ∧
      s.Says (s.servePull slot k frame h) h.port (h.reply (.pullAnswer .ok none (some ⟨d.layer, d.head, colOf (s.pairsOf slot) k, false, d⟩))) .bg := by
  obtain ⟨l, hl⟩ := wakeTile_frame s frame
  obtain ⟨hsays, hans⟩ := says_answerMsg (s := { s with selfRefresh := l }) hx hu .bg
    (.pullAnswer .ok none (some ⟨d.layer, d.head, colOf (s.pairsOf slot) k, false, d⟩)) (fun hm => by cases hm)
  unfold State.servePull
  rw [hd]
  dsimp only
  rw [hl]
  exact ⟨_, l, hans, hsays⟩

-- PULL_ANSWER (R199 orders 4 to 7, R602) -----------------------------------------------------------------------------------------------------------

/-- What a tile at a place changes. -/
theorem putTile_frame (s : State) (l : TileLoc) (d : Tile) : ∃ tf c r, s.putTile l d = { s with
    tiles := s.tiles.set l d, tileFrames := tf, cores := c, selfRefresh := r } := by
  cases l with
  | store e o => exact ⟨_, _, _, rfl⟩
  | frame n =>
    obtain ⟨r, hr⟩ := wakeTile_frame (State.setPoison { s with tiles := s.tiles.set (.frame n) d } (.frame n) []) n
    exact ⟨_, _, r, hr⟩
  | quarry f => exact ⟨_, _, _, rfl⟩

/-- A new place for a tile takes at most a frame. -/
theorem newPlace_frame {slot c : Nat} {g : Tier} {frame : Nat} {loc : TileLoc} {v : State} (h : s.newPlace slot c = some (g, frame, loc, v)) :
    ∃ a b r, v = { s with tileFrames := a, freeCtr := b, regs := r } := by
  unfold State.newPlace at h
  dsimp only at h
  split at h
  · cases h
    exact ⟨_, _, _, rfl⟩
  · split at h
    · next ha =>
      cases h
      exact allocTile_exact ha
    · cases h

/-- A pulled tile stands in its place, and its entry names it (R602). -/
theorem installPull_some {slot k : Nat} {d : Tile} {e : MEntry} {g : Tier} {frame : Nat} {loc : TileLoc} {v : State}
    (he : (s.ses slot).mortar.entries.get? k = some e) (hv : s.newPlace slot (colOf (s.pairsOf slot) k) = some (g, frame, loc, v)) :
    ∃ tf c sr fc r n pm l, s.installPull slot k d = some { s with
      tiles := s.tiles.set loc { d with source := s.handleOf slot, shared := false, prefixId := 0xFFFF }
      sessions := s.sessions.set slot { s.ses slot with mortar := { (s.ses slot).mortar with
        entries := (s.ses slot).mortar.entries.set k { e with tier := g, frame := frame, peer := 0, shared := false } } }
      tileFrames := tf, cores := c, selfRefresh := sr, freeCtr := fc, regs := r, nextSeq := n, pmc := pm, out := l ++ s.out } := by
  obtain ⟨a, b, r, rfl⟩ := newPlace_frame hv
  obtain ⟨tf, c, sr, hput⟩ := putTile_frame { s with tileFrames := a, freeCtr := b, regs := r } loc
    { d with source := s.handleOf slot, shared := false, prefixId := 0xFFFF }
  obtain ⟨n, r', pm, l, hbond⟩ := (bnd_bondOnce { s with
      tiles := s.tiles.set loc { d with source := s.handleOf slot, shared := false, prefixId := 0xFFFF }
      sessions := s.sessions.set slot { s.ses slot with mortar := { (s.ses slot).mortar with
        entries := (s.ses slot).mortar.entries.set k { e with tier := g, frame := frame, peer := 0, shared := false } } }
      tileFrames := tf, cores := c, selfRefresh := sr, freeCtr := b, regs := r } (s.ses slot).part).trans
    (bnd_bump _ Fld.DRS_REVIVED_COUNT (s.ses slot).part 1)
  refine ⟨tf, c, sr, b, r', n, pm, l, ?_⟩
  unfold State.installPull
  dsimp only
  rw [he, hv]
  dsimp only
  rw [hput]
  exact congrArg some hbond

/-- A session of which no tile is to come any more is whole (R199 order 7). -/
theorem checkMoveIn_whole {slot : Nat} {m : MoveIn} (hm : s.movesIn.get? slot = some m)
    (hw : ∀ z ∈ (s.ses slot).mortar.entries, z.2.tier ≠ .remote) : s.checkMoveIn slot = s.finishMoveIn slot m := by
  have hnone : (s.ses slot).inTier .remote = [] := by
    unfold Session.inTier
    rw [List.filter_eq_nil_iff.2 (fun z hz => by simpa using hw z hz)]
    rfl
  unfold State.checkMoveIn
  rw [hm]
  exact if_pos (by rw [hnone]; rfl)

/-- The state that a session has once it is whole (R59). -/
def State.wholeState (s : State) (slot : Nat) : SesState :=
  match s.req slot with
  | some q => if q.phase = .admitted then .waiting else .active
  | none => .waiting

/-- Whether the request of a session that is being pulled has started. -/
def State.pulledStarted (s : State) (slot : Nat) : Bool := match s.req slot with | some q => q.phase != .admitted | none => false

theorem wholeState_eq (s : State) (slot : Nat) : (if s.pulledStarted slot then SesState.active else .waiting) = s.wholeState slot := by
  unfold State.pulledStarted State.wholeState
  cases s.req slot with
  | none => rfl
  | some q => by_cases hq : q.phase = .admitted <;> simp [hq]

/-- The whole session is WAITING or ACTIVE, and its source is told (R199 order 7). -/
theorem finishMoveIn_tells {slot : Nat} {m : MoveIn} {p : Peer} {x : Port} (hp : s.peers.get? m.peer = some p) (hx : s.ports.get? p.port = some x)
    (hu : x.up = true) : ∃ op po an fc, s.finishMoveIn slot m = { s with
      movesIn := s.movesIn.erase slot, ports := po, aon := an, freeCtr := fc
      sessions := s.sessions.set slot { s.ses slot with
        state := s.wholeState slot, op := op, movePeer := 0, moveEpoch := 0, offerLog := 0, lastUse := an } } ∧
      s.Says (s.finishMoveIn slot m) p.port ⟨p.fabric, (s.ses slot).part, 0, m.comp, m.srcHandle, 0, .moveConfirm (s.handleOf slot)⟩ .bg := by
  obtain ⟨y, hy⟩ : ∃ y : Session, y = { s.ses slot with
    state := s.wholeState slot, op := if (s.req slot).isSome then (s.ses slot).op else .none, movePeer := 0, moveEpoch := 0, offerLog := 0 } := ⟨_, rfl⟩
  obtain ⟨b, hb⟩ : ∃ b : State, b = { s with movesIn := s.movesIn.erase slot, sessions := s.sessions.set slot y } := ⟨_, rfl⟩
  have hses := (ses_set (s := s) (t := b) (k := slot) (x := y) (by rw [hb])).1
  obtain ⟨an, fc, ht⟩ := setSes_set_touch b slot y hses
  have hset : b.sessions.set slot { y with lastUse := an } = s.sessions.set slot { y with lastUse := an } := by rw [hb, AMap.set_set]
  rw [hset] at ht
  have hstart : s.modSes slot (fun x => { x with
      state := if s.pulledStarted slot then .active else .waiting
      op := if (s.req slot).isSome then x.op else .none, movePeer := 0, moveEpoch := 0, offerLog := 0 }) = { s with sessions := s.sessions.set slot y } := by
    rw [wholeState_eq, hy]
    rfl
  have hhandle : b.handleOf slot = s.handleOf slot := by
    unfold State.handleOf
    rw [hses, hy]
  have hpart : (b.ses slot).part = (s.ses slot).part := by rw [hses, hy]
  obtain ⟨hsays, hsend⟩ := says_sendTo (s := b.touch slot) (i := m.peer) (by rw [ht, hb]; exact hp) (by rw [ht, hb]; exact hx) hu (s.ses slot).part 0 m.comp
    m.srcHandle 0 .bg (.moveConfirm (s.handleOf slot)) (fun hm => by cases hm)
  have hdo : s.finishMoveIn slot m = (b.touch slot).sendTo m.peer (s.ses slot).part 0 m.comp m.srcHandle 0 .bg (.moveConfirm (s.handleOf slot)) := by
    rw [← hhandle, ← hpart, hb]
    exact congrArg (fun z : State => (State.touch { z with movesIn := z.movesIn.erase slot } slot).sendTo m.peer
      (State.ses { z with movesIn := z.movesIn.erase slot } slot).part 0 m.comp m.srcHandle 0 .bg
      (.moveConfirm (State.handleOf { z with movesIn := z.movesIn.erase slot } slot))) hstart
  obtain ⟨po, hpo⟩ : ∃ po, po = ((b.touch slot).sendTo m.peer (s.ses slot).part 0 m.comp m.srcHandle 0 .bg (.moveConfirm (s.handleOf slot))).ports :=
    ⟨_, rfl⟩
  rw [hdo]
  refine ⟨if (s.req slot).isSome then (s.ses slot).op else .none, po, an, fc, hsend.trans ?_, ?_⟩
  · rw [← hpo, ht, hb, hy]
  · obtain ⟨x', y', hx', hq, hports⟩ := hsays
    rw [ht, hb] at hx'
    refine ⟨x', y', hx', hq, hports.trans ?_⟩
    rw [ht, hb]

/-- The answer to the last pull of a move is installed, and the session is whole (R199 orders 4 to 7). -/
theorem doPullAnswer_whole {h : Hdr} {i slot k frame : Nat} {p : Peer} {m : MoveIn} {w : Pull} {d : PushedTile} {e : MEntry} {g : Tier} {loc : TileLoc}
    {v : State} {x : Port} (hin : s.movesIn = [(slot, m)]) (hi : m.peer = i) (hh : s.Hears h 7 true (some 18480) i p)
    (hw : s.pulls.find? (fun z => z.tag == h.tag && z.peer == i) = some w) (hws : w.slot = slot) (hwe : w.entry = k)
    (he : (s.ses slot).mortar.entries.get? k = some e)
    (hall : ∀ z ∈ (s.ses slot).mortar.entries.set k { e with tier := g, frame := frame, peer := 0, shared := false }, z.2.tier ≠ .remote)
    (hv : State.newPlace { s.peerSeen i with pulls := s.pulls.filter (fun z => z != w) } slot (colOf (s.pairsOf slot) k) = some (g, frame, loc, v))
    (hx : s.ports.get? p.port = some x) (hu : x.up = true) :
    ∃ op po pe an tf c sr fc r n pm l, doPullAnswer h 0 (some d) s = { s with
        movesIn := [], pulls := s.pulls.filter (fun z => z != w), ports := po, peers := pe, aon := an, freeCtr := fc
        sessions := s.sessions.set slot { s.ses slot with
          state := s.wholeState slot, op := op, movePeer := 0, moveEpoch := 0, offerLog := 0, lastUse := an, mortar := { (s.ses slot).mortar with
            entries := (s.ses slot).mortar.entries.set k { e with tier := g, frame := frame, peer := 0, shared := false } } }
        tiles := s.tiles.set loc { d.tile with source := s.handleOf slot, shared := false, prefixId := 0xFFFF }
        tileFrames := tf, cores := c, selfRefresh := sr, regs := r, nextSeq := n, pmc := pm, out := l ++ s.out } ∧
      ∃ x' y', s.ports.get? p.port = some x' ∧
        x'.Queues y' ⟨p.fabric, (s.ses slot).part, 0, m.comp, m.srcHandle, 0, .moveConfirm (s.handleOf slot)⟩ .bg ∧ po = s.ports.set p.port y' := by
  obtain ⟨pe, an, fc, hseen, hpe⟩ := sees hh.entry
  obtain ⟨u, hu'⟩ : ∃ u : State, u = { s with peers := pe, aon := an, freeCtr := fc, pulls := s.pulls.filter (fun z => z != w) } := ⟨_, rfl⟩
  rw [hseen] at hv
  obtain ⟨tf, c, sr, fc', r, n, pm, l, hinst⟩ := installPull_some (s := u) (d := d.tile) (by rw [hu']; exact he) (by rw [hu']; exact hv)
  obtain ⟨y, hy⟩ : ∃ y : Session, y = { s.ses slot with mortar := { (s.ses slot).mortar with
    entries := (s.ses slot).mortar.entries.set k { e with tier := g, frame := frame, peer := 0, shared := false } } } := ⟨_, rfl⟩
  obtain ⟨b, hb⟩ : ∃ b : State, b = { u with
    tiles := s.tiles.set loc { d.tile with source := s.handleOf slot, shared := false, prefixId := 0xFFFF }, sessions := s.sessions.set slot y
    tileFrames := tf, cores := c, selfRefresh := sr, freeCtr := fc', regs := r, nextSeq := n, pmc := pm, out := l ++ s.out } := ⟨_, rfl⟩
  have hinst' : State.installPull { s with peers := pe, aon := an, freeCtr := fc, pulls := s.pulls.filter (fun z => z != w) } slot k d.tile = some b := by
    rw [← hu', hinst, hb, hy, hu']
    rfl
  have hses : b.ses slot = y := (ses_set (s := s) (k := slot) (x := y) (by rw [hb])).1
  have hget : b.movesIn.get? slot = some m := by
    rw [hb, hu', hin]
    exact if_pos rfl
  have hwhole : ∀ z ∈ (b.ses slot).mortar.entries, z.2.tier ≠ .remote := by
    rw [hses, hy]
    exact hall
  have hdo : doPullAnswer h 0 (some d) s = b.finishMoveIn slot m := by
    have hfind : (s.peerSeen i).pulls.find? (fun z => z.tag == h.tag && z.peer == i) = some w := hw
    unfold doPullAnswer
    rw [State.Hears.receive (size := some (answerBytes 0 (some d).isSome)) hh]
    dsimp only
    rw [hfind]
    dsimp only
    rw [if_neg (by decide), hws, hwe, hseen, hinst']
    exact checkMoveIn_whole hget hwhole
  have hpeer : b.peers.get? m.peer = some { p with lastUse := an, pings := 0 } := by
    rw [hb, hu', hpe, hi]
    exact AMap.get?_set_same ..
  obtain ⟨op, po, an', fc', hfin, hsays⟩ := finishMoveIn_tells (s := b) (slot := slot) (m := m) hpeer (by rw [hb, hu']; exact hx) hu
  rw [hfin] at hdo hsays
  rw [hses] at hdo hsays
  obtain ⟨z, hz⟩ : ∃ z : Session, z = { y with
    state := b.wholeState slot, op := op, movePeer := 0, moveEpoch := 0, offerLog := 0, lastUse := an' } := ⟨_, rfl⟩
  rw [← hz] at hdo hsays
  have herase : b.movesIn.erase slot = [] := by
    rw [hb, hu', hin]
    exact if_pos rfl
  have hhandle : b.handleOf slot = s.handleOf slot := by
    unfold State.handleOf
    rw [hses, hy]
  have hstate : b.wholeState slot = s.wholeState slot := by
    unfold State.wholeState State.req
    rw [hb, hu']
  have hset : b.sessions.set slot z = s.sessions.set slot z := by rw [hb, AMap.set_set]
  have hpart : y.part = (s.ses slot).part := by rw [hy]
  have hports : b.ports = s.ports := by rw [hb, hu']
  rw [herase, hset] at hdo hsays
  rw [hhandle, hpart] at hsays
  rw [hstate] at hz
  obtain ⟨x', y', hx', hq, hpo⟩ := hsays
  rw [hports] at hx' hpo
  refine ⟨op, po, pe, an', tf, c, sr, fc', r, n, pm, l, ?_, x', y', hx', hq, hpo⟩
  rw [hdo, hz, hy, hb, hu']

-- PULL_TIMEOUT (R603) ---------------------------------------------------------------------------------------------------------------------------

theorem sendPull_sends {slot k : Nat} {e : MEntry} (he : (s.ses slot).mortar.entries.get? k = some e) (m : MoveIn) (w : Pull) :
    s.sendPull slot k m w = s.sendTo m.peer (s.ses slot).part 0 m.comp m.srcHandle w.tag .bg
      (.tilePull (if s.headsOf slot = 0 then 0 else pairOf (s.pairsOf slot) k / s.headsOf slot)
        (if s.headsOf slot = 0 then 0 else pairOf (s.pairsOf slot) k % s.headsOf slot) (colOf (s.pairsOf slot) k) e.frame) := by
  unfold State.sendPull
  dsimp only
  rw [he]

/-- A pull that has been tried less than three times is sent again. -/
theorem doPullTimeout_again {tag slot : Nat} {w : Pull} {m : MoveIn} {p : Peer} {e : MEntry} {x : Port} (hm : s.movesIn = [(slot, m)])
    (hw : s.pulls.find? (fun z => z.tag == tag) = some w) (hs : w.slot = slot) (ht : w.tries < 3) (hp : s.peers.get? m.peer = some p)
    (he : (s.ses slot).mortar.entries.get? w.entry = some e) (hx : s.ports.get? p.port = some x) (hu : x.up = true) :
    ∃ po, doPullTimeout tag s = { s with
        ports := po, pulls := s.pulls.map (fun z => if z = w then { w with tries := w.tries + 1 } else z) } ∧
      s.Says (doPullTimeout tag s) p.port ⟨p.fabric, (s.ses slot).part, 0, m.comp, m.srcHandle, w.tag,
        .tilePull (if s.headsOf slot = 0 then 0 else pairOf (s.pairsOf slot) w.entry / s.headsOf slot)
          (if s.headsOf slot = 0 then 0 else pairOf (s.pairsOf slot) w.entry % s.headsOf slot) (colOf (s.pairsOf slot) w.entry) e.frame⟩ .bg := by
  subst hs
  obtain ⟨b, hb⟩ : ∃ b : State, b = { s with pulls := s.pulls.map (fun z => if z = w then { w with tries := w.tries + 1 } else z) } := ⟨_, rfl⟩
  obtain ⟨hsays, hsend⟩ := says_sendTo (s := b) (i := m.peer) (by rw [hb]; exact hp) (by rw [hb]; exact hx) hu (s.ses w.slot).part 0 m.comp
    m.srcHandle w.tag .bg (.tilePull (if s.headsOf w.slot = 0 then 0 else pairOf (s.pairsOf w.slot) w.entry / s.headsOf w.slot)
      (if s.headsOf w.slot = 0 then 0 else pairOf (s.pairsOf w.slot) w.entry % s.headsOf w.slot) (colOf (s.pairsOf w.slot) w.entry) e.frame) (fun hm => by cases hm)
  have hget : s.movesIn.get? w.slot = some m := by
    rw [hm]
    exact if_pos rfl
  have hdo : doPullTimeout tag s = b.sendTo m.peer (s.ses w.slot).part 0 m.comp m.srcHandle w.tag .bg
      (.tilePull (if s.headsOf w.slot = 0 then 0 else pairOf (s.pairsOf w.slot) w.entry / s.headsOf w.slot)
        (if s.headsOf w.slot = 0 then 0 else pairOf (s.pairsOf w.slot) w.entry % s.headsOf w.slot) (colOf (s.pairsOf w.slot) w.entry) e.frame) := by
    unfold doPullTimeout
    rw [hw]
    dsimp only
    rw [hget]
    dsimp only
    rw [if_pos ht, hb]
    exact sendPull_sends (s := { s with pulls := s.pulls.map (fun z => if z = w then { w with tries := w.tries + 1 } else z) }) he m { w with tries := w.tries + 1 }
  rw [hdo]
  refine ⟨_, hsend.trans (by rw [hb]), ?_⟩
  obtain ⟨x', y', hx', hq, hpo⟩ := hsays
  rw [hb] at hx'
  refine ⟨x', y', hx', hq, hpo.trans ?_⟩
  rw [hb]

/-- Settles O36: a pull is served, the last answer makes the session whole, and a pull without an answer is sent again. -/
theorem pulls : Obligations.Pulls := by
  intro s ha
  refine ⟨fun h i slot k layer head column frame p m d hc hh hr hk hs hm hi ho hp hf hd => ?_,
    fun h i slot k frame p m w d e g loc v x hc hin hi hh hw hws hwe he hall hv hx hu => ?_,
    fun tag slot w m p e x hc hm hw hs ht hp he hx hu => ?_⟩
  · obtain ⟨x, hx, hu⟩ := carries_port hh.port
    have hdo := doTilePull_serves (layer := layer) (head := head) (column := column) hc hh hr hk hs hm hi ho hp hf
    obtain ⟨pe, an, fc, hseen, hpe⟩ := sees hh.entry
    rw [hseen] at hdo
    obtain ⟨po, l, hserve, hsays⟩ := servePull_answers (s := { s with peers := pe, aon := an, freeCtr := fc }) (slot := slot) (k := k) (h := h) hd hx hu
    rw [hserve] at hdo hsays
    exact ⟨_, next_event_own ha hdo (hc.of_eq rfl rfl rfl rfl rfl rfl rfl rfl) rfl rfl, hpe, hsays, rfl⟩
  · obtain ⟨op, po, pe, an, tf, c, sr, fc, r, n, pm, l, hdo, hsays⟩ := doPullAnswer_whole (d := d) hin hi hh hw hws hwe he hall hv hx hu
    obtain ⟨z, hz⟩ : ∃ z : Session, z = { s.ses slot with
      state := s.wholeState slot, op := op, movePeer := 0, moveEpoch := 0, offerLog := 0, lastUse := an, mortar := { (s.ses slot).mortar with
        entries := (s.ses slot).mortar.entries.set k { e with tier := g, frame := frame, peer := 0, shared := false } } } := ⟨_, rfl⟩
    rw [← hz] at hdo
    obtain ⟨t, ht⟩ : ∃ t, t = doPullAnswer h 0 (some d) s := ⟨_, rfl⟩
    have hset := ses_set (s := s) (k := slot) (x := z) (t := t) (by rw [ht, hdo])
    obtain ⟨hself, hother⟩ := hset
    have hcalm : t.Calm := calm_sessions hc (k := slot) (x := z) (by rw [hz]; exact ses_waiting hc slot) (by rw [ht, hdo]) (by rw [ht, hdo])
      (by rw [ht, hdo]) (by rw [ht, hdo]) (by rw [ht, hdo]) (by rw [ht, hdo]) (by rw [ht, hdo]) (by rw [ht, hdo])
    obtain ⟨x', y', hx', hq, hpo⟩ := hsays
    refine ⟨t, next_event_own ha ht.symm hcalm (by rw [ht, hdo]) (by rw [ht, hdo]), by rw [ht, hdo], by rw [ht, hdo], ?_, ?_, ?_, ?_, ?_, hother,
      ⟨x', y', hx', hq, by rw [ht, hdo, hpo]⟩, by rw [ht, hdo]⟩
    · rw [hself, hz]
      rfl
    · rw [hself, hz]
    · rw [hself, hz]
    · rw [hself, hz]
    · rw [ht, hdo]
      exact AMap.get?_set_same ..
  · obtain ⟨po, hdo, hsays⟩ := doPullTimeout_again hm hw hs ht hp he hx hu
    rw [hdo] at hsays
    refine ⟨_, (next_event_pulls (m := m) ha hdo (hc.of_eq rfl rfl rfl rfl rfl rfl rfl rfl) hm).trans ?_, hsays, rfl⟩
    exact congrArg (fun z : State => Host.Outcome.next (z.pumpPulls slot)) (kept_self rfl rfl)

end Sys2Proof.Machine
end

section
/-!
PROOFS. Tile pushes, logit chunks and a handoff that times out (O35).
-/

namespace Sys2Proof.Machine

open Sys2Proof

variable {s : State}

-- TILE_PUSH (R460, R461) ----------------------------------------------------------------------------------------------------------------------

/-- A push whose handle, handoff or sender does not stand is dropped and counted (R460). -/
theorem tilePush_stale {h : Hdr} {i slot : Nat} {d : PushedTile} (hs : slot = handleSlot h.handle)
    (hno : s.checkHandle (some h.part) h.handle ≠ none ∨ s.handoffs.get? slot = none ∨
      s.senderOk (s.handoffEpoch slot).1 (s.handoffEpoch slot).2 h = false) : s.tilePush h i d = s.bump Fld.CMP_STALE_COUNT := by
  subst hs
  unfold State.tilePush
  dsimp only
  by_cases hk : (s.checkHandle (some h.part) h.handle).isSome
  · exact if_pos hk
  rw [if_neg hk]
  replace hno := hno.resolve_left (fun hne => hk (Option.isSome_iff_ne_none.2 hne))
  cases hg : s.handoffs.get? (handleSlot h.handle) with
  | none => rfl
  | some w =>
    have hsend := hno.resolve_left (by rw [hg]; exact nofun)
    cases s.mainImg (handleSlot h.handle) with
    | none => rfl
    | some c =>
      dsimp only
      rw [hsend]
      exact if_pos (by simp)

/-- A push that fits the range of its handoff is staged, and the handoff commits where it was the last (R460, R461). -/
theorem tilePush_fits {h : Hdr} {i slot k : Nat} {d : PushedTile} {w : Handoff} {c : CtxImage} {x : Expect} {v : State} (hs : slot = handleSlot h.handle)
    (hk : s.checkHandle (some h.part) h.handle = none) (hw : s.handoffs.get? slot = some w) (hc : s.mainImg slot = some c)
    (hq : ∀ q, s.req slot = some q → q.onFallback = false) (hsend : s.senderOk (s.handoffEpoch slot).1 (s.handoffEpoch slot).2 h = true)
    (hgeom : d.tile.geom = c.geom) (hhead : d.head < c.heads) (hfit : pushFits x d = true) (hkk : k = d.column * c.pairs + (d.layer * c.heads + d.head))
    (hx : (s.expectAll slot c w).find? (fun z => z.1 == k) = some (k, x))
    (hv : s.stagePush slot w k i { s.stagedTile slot k d with layer := d.layer, head := d.head } = some v) : s.tilePush h i d = v.tryCommit slot := by
  subst hs hkk
  have hfall : (match s.req (handleSlot h.handle) with | some q => q.onFallback | none => false) = false := by
    cases hr : s.req (handleSlot h.handle) with
    | none => rfl
    | some q => exact hq q hr
  have hhead' : ¬(c.heads ≤ d.head || !(pushFits x d)) = true := by
    rw [hfit, decide_eq_false (Nat.not_le.2 hhead)]
    decide
  unfold State.tilePush
  dsimp only
  rw [hk, if_neg (by decide), hw, hc]
  dsimp only
  rw [hsend]
  refine (if_neg ?_).trans ((if_neg ?_).trans ?_)
  · intro hb
    rw [Bool.or_eq_true, Bool.not_true] at hb
    exact hb.elim (fun hb => Bool.noConfusion (hfall.symm.trans hb)) (fun hb => nomatch hb)
  · rw [hgeom]
    exact fun hb => by simp at hb
  · rw [hx]
    dsimp only
    rw [if_neg hhead', hv]

/-- A push of a tile that is not staged yet takes a frame and stands in the list of tiles to install (R444, R460). -/
theorem stagePush_new {slot k i n : Nat} {w : Handoff} {d : Tile} {v : State} (hg : w.staged.get? k = none)
    (ha : s.allocTile (s.ses slot).part ⟨(s.ses slot).part, .priv, 0, slot, []⟩ = some (n, v)) :
    ∃ l, s.stagePush slot w k i d = some { v with
      handoffs := v.handoffs.set slot { w with staged := w.staged.set k n, peers := if w.peers.contains i then w.peers else w.peers ++ [i] }
      bonds := v.bonds.map (fun b => if b.part == (s.ses slot).part && b.id == w.bond then { b with
        actions := [actList .tileInstall ((w.staged.set k n).map (fun kv => kv.2))] } else b)
      tiles := v.tiles.set (.frame n) d, tileFrames := v.tileFrames.modify n (fun f => { f with poison := [] }), selfRefresh := l } := by
  obtain ⟨l, hl⟩ := wakeTile_frame (State.setPoison { v with
    handoffs := v.handoffs.set slot { w with staged := w.staged.set k n, peers := if w.peers.contains i then w.peers else w.peers ++ [i] }
    bonds := v.bonds.map (fun b => if b.part == (s.ses slot).part && b.id == w.bond then { b with
      actions := [actList .tileInstall ((w.staged.set k n).map (fun kv => kv.2))] } else b)
    tiles := v.tiles.set (.frame n) d } (.frame n) []) n
  refine ⟨l, ?_⟩
  unfold State.stagePush
  dsimp only
  rw [hg, ha]
  exact congrArg some hl

/-- A handoff for which a tile is still expected does not commit. -/
theorem tryCommit_waits {slot : Nat} {w : Handoff} {c : CtxImage} {y : Nat × Expect} (hw : s.handoffs.get? slot = some w) (hc : s.mainImg slot = some c)
    (hy : y ∈ s.expectAll slot c w) (hn : w.staged.has y.1 = false) : s.tryCommit slot = s := by
  have hall : s.allStaged slot c w = false := by
    unfold State.allStaged
    rw [List.all_eq_false]
    exact ⟨y, hy, by rw [hn]; decide⟩
  unfold State.tryCommit
  rw [hw, hc]
  dsimp only
  rw [hall]
  exact if_pos rfl

/-- Which tiles a handoff expects does not depend on the poison of single lines. -/
theorem expectAll_congr {t : State} {slot : Nat} {c : CtxImage} {w : Handoff} (hses : t.ses slot = s.ses slot) (hpairs : t.pairsOf slot = s.pairsOf slot)
    (hfr : ∀ n, (t.tileFrames.get? n).map (·.state) = (s.tileFrames.get? n).map (·.state)) : t.expectAll slot c w = s.expectAll slot c w := by
  have hpoison (e : MEntry) : t.poisonedEntry e = s.poisonedEntry e := by
    have he := hfr e.frame
    unfold State.poisonedEntry
    cases ht : t.tileFrames.get? e.frame with
    | none =>
      rw [ht] at he
      rw [Option.map_eq_none_iff.1 he.symm]
    | some a =>
      rw [ht] at he
      obtain ⟨b, hb, hab⟩ := Option.map_eq_some_iff.1 he.symm
      rw [hb]
      dsimp only
      rw [hab]
  have hcol : t.poisonedCol slot = s.poisonedCol slot := by
    unfold State.poisonedCol
    rw [hses, hpairs]
    simp only [hpoison]
  have hkeeps : t.keepsEntry slot = s.keepsEntry slot := by
    unfold State.keepsEntry
    rw [hcol, hpairs]
  unfold State.expectAll State.baseEntries
  rw [hses, hkeeps]

-- HANDOFF_TIMEOUT (R463) ----------------------------------------------------------------------------------------------------------------------

/-- The state that the session of an aborted handoff returns to. -/
def Handoff.returns (w : Handoff) (x : Session) : SesState := if w.rebuild then w.prior else x.state

/-- What an aborted handoff leaves (R463): its staged tiles are released and its bond is gone. -/
theorem abortHandoff_frame {slot : Nat} {w : Handoff} (hw : s.handoffs.get? slot = some w) :
    ∃ n r pm l tf ti ss, (∀ kf ∈ w.staged, ∀ f, tf.get? kf.2 = some f → f.state = .zeroing) ∧
      s.abortHandoff slot = { s with
        nextSeq := n, regs := r, pmc := pm, out := l ++ s.out, tileFrames := tf, tiles := ti, handoffs := s.handoffs.erase slot, sessions := ss
        bonds := s.bonds.filter (fun b => !(b.part == (s.ses slot).part && b.id == w.bond)) } ∧
      AMap.getD ss slot Session.free = { s.ses slot with state := w.returns (s.ses slot) } ∧ ∀ x, AMap.set ss slot x = s.sessions.set slot x := by
  have hz := fun kf (hk : kf ∈ w.staged) => zeroing_freeTiles (w.staged.map (·.2)) s kf.2 (.inl (List.mem_map.2 ⟨kf, hk, rfl⟩))
  obtain ⟨tf, ti, hfree⟩ := freeTiles_exact (w.staged.map (·.2)) s
  rw [hfree] at hz
  obtain ⟨r, hr⟩ : ∃ r, r = (State.bump { s with tileFrames := tf, tiles := ti } Fld.BND_ABORTS_COUNT (s.ses slot).part).regs := ⟨_, rfl⟩
  have hclosed : { (s.freeTiles (w.staged.map (·.2))).abortBond (s.ses slot).part w.bond with handoffs := s.handoffs.erase slot } = { s with
      tileFrames := tf, tiles := ti, handoffs := s.handoffs.erase slot, regs := r
      bonds := s.bonds.filter (fun b => !(b.part == (s.ses slot).part && b.id == w.bond)) } := by
    rw [hfree, hr]
    rfl
  unfold State.abortHandoff
  rw [hw]
  dsimp only
  by_cases hre : w.rebuild = true
  · obtain ⟨n, r', pm, l, hrec⟩ := bnd_recordBond { s with
      tileFrames := tf, tiles := ti, handoffs := s.handoffs.erase slot, regs := r
      bonds := s.bonds.filter (fun b => !(b.part == (s.ses slot).part && b.id == w.bond)) } slot
    refine ⟨n, r', pm, l, tf, ti, s.sessions.set slot { s.ses slot with state := w.prior }, hz, ?_, ?_, fun x => AMap.set_set ..⟩
    · rw [if_pos hre, hfree]
      rw [hfree] at hclosed
      rw [show (State.abortBond { s with tileFrames := tf, tiles := ti } (s.ses slot).part w.bond).handoffs = s.handoffs from rfl, hclosed, hrec]
      rfl
    · rw [AMap.getD_set, if_pos rfl]
      unfold Handoff.returns
      rw [if_pos hre]
  · refine ⟨s.nextSeq, r, s.pmc, [], tf, ti, s.sessions, hz, ?_, ?_, fun x => rfl⟩
    · rw [if_neg hre, hfree]
      rw [hfree] at hclosed
      exact hclosed
    · unfold Handoff.returns
      rw [if_neg hre]
      rfl

/-- What a lost prefill of a SES_REVIVE leaves (R463). -/
theorem failHandoff_owned {slot : Nat} {w : Handoff} {o : Owner} {st : Status} (hw : s.handoffs.get? slot = some w) (ho : w.owner = some o) :
    ∃ n r pm l g c tf ti, (∀ kf ∈ w.staged, ∀ f, tf.get? kf.2 = some f → f.state = .zeroing) ∧
      s.failHandoff slot st = State.completeFor { s with
        nextSeq := n, regs := r, pmc := pm, out := l ++ s.out, aon := g, freeCtr := c, tileFrames := tf, tiles := ti, handoffs := s.handoffs.erase slot
        bonds := s.bonds.filter (fun b => !(b.part == (s.ses slot).part && b.id == w.bond))
        sessions := s.sessions.set slot { s.ses slot with op := .none, state := w.returns (s.ses slot), lastUse := g } } o st := by
  obtain ⟨n, r, pm, l, tf, ti, ss, hz, habort, hown, hset⟩ := abortHandoff_frame hw
  obtain ⟨v, hv⟩ : ∃ v, v = s.abortHandoff slot := ⟨_, rfl⟩
  have hses : v.ses slot = { s.ses slot with state := w.returns (s.ses slot) } := by
    rw [hv, habort]
    exact hown
  obtain ⟨x, hx⟩ : ∃ x : Session, x = { s.ses slot with state := w.returns (s.ses slot), op := .none } := ⟨_, rfl⟩
  have hmod : v.modSes slot (fun x => { x with op := .none }) = { v with sessions := s.sessions.set slot x } := by
    rw [modSes_eq hses, hx, hv, habort]
    dsimp only
    rw [hset]
  obtain ⟨g, c, ht⟩ := setSes_set_touch { v with sessions := s.sessions.set slot x } slot x (ses_set (s := s) rfl).1
  refine ⟨n, r, pm, l, g, c, tf, ti, hz, ?_⟩
  unfold State.failHandoff
  rw [hw]
  dsimp only
  rw [ho]
  dsimp only
  rw [← hv, hmod, ht, hv, habort]
  dsimp only
  rw [AMap.set_set, hx]

-- LOGIT_CHUNK (R577, R578) --------------------------------------------------------------------------------------------------------------------

section

variable {slot first : Nat} {q : Req} {bytes : Option Nat} {fp32 : Bool} {ls : List Nat} (hl : ls.length ≤ chunkCap fp32)
  (hb : ∀ n, bytes = some n → n = 48 + ls.length * (if fp32 then 4 else 2)) (ho : overlaps q.chunks first ls.length = false)
  (ha : s.allServed q = true) (hf : fp32 = q.args.sample.logitsFp32)
include hl hb ho ha hf

/-- A chunk that passes the checks of R578 is kept; where the chunks cover the vocabulary, the packet is complete. -/
theorem takeChunk_keeps (r : Option (List Nat))
    (hp : packetOf (q.chunks.set first (if fp32 then ls else ls.map bf16to32)) (match s.modelOf q with | some c => c.vocab | none => 0) = r) :
    s.takeChunk slot q bytes first fp32 ls =
      r.elim (s.setReq slot { q with chunks := q.chunks.set first (if fp32 then ls else ls.map bf16to32) }) (fun pk =>
        if q.maskReady then (s.setReq slot { q with
          chunks := q.chunks.set first (if fp32 then ls else ls.map bf16to32), packet := some ⟨s.duePos q, pk⟩ }).drawToken slot
        else (s.setReq slot { q with
          chunks := q.chunks.set first (if fp32 then ls else ls.map bf16to32), packet := some ⟨s.duePos q, pk⟩ }).bump Fld.GRM_MASK_WAITS_COUNT q.part) := by
  have hbytes : bytes.any (fun n => n != 48 + ls.length * (if fp32 then 4 else 2)) = false := by
    cases bytes with
    | none => rfl
    | some n => simp [hb n rfl]
  have hfp : (fp32 != q.args.sample.logitsFp32) = false := by rw [← hf]; exact bne_self_eq_false _
  unfold State.takeChunk
  rw [hbytes, ho, ha, hfp, decide_eq_false (Nat.not_lt.2 hl)]
  refine (if_neg (by decide)).trans ((if_neg (by decide)).trans ((if_neg (by decide)).trans ?_))
  cases hm : s.modelOf q
  all_goals
    rw [hm] at hp
    dsimp only at hp ⊢
    rw [hp]
    cases r <;> rfl

end

/-- Clearing a frame's poison leaves every frame's state. -/
theorem state_modify (m : AMap Nat Frame) (n j : Nat) :
    (AMap.get? (m.modify n (fun f => { f with poison := [] })) j).map (·.state) = (m.get? j).map (·.state) := by
  rw [AMap.get?_modify]
  by_cases hj : j = n
  · rw [if_pos hj, hj, Option.map_map]
    rfl
  · rw [if_neg hj]

/-- Settles O35: a push and a chunk are kept, dropped or complete what they are part of; a timeout aborts the handoff. -/
theorem handoffs : Obligations.Handoffs := by
  intro s hc hw
  refine ⟨fun h i slot n p d w c x y v hh hk hs hg hm hq hsend hgeom hhead hfit hx hst hy hne hyn hv => ?_,
    fun h i slot p d hh hs hno => ?_, fun slot q w u hg ho hr hq hop => ?_,
    fun h i slot pos first p fp32 ls q hh hs hb hk hgen hfb hsnd hpos hl hov hall hfp hp => ?_,
    fun slot pos first fp32 ls pk q hgen hfb hready hsnd hpos hl hov hall hfp hmask hp => ?_⟩
  · obtain ⟨k, hk'⟩ : ∃ k, k = d.column * c.pairs + (d.layer * c.heads + d.head) := ⟨_, rfl⟩
    rw [← hk'] at hx hst hne ⊢
    obtain ⟨w', hw'⟩ : ∃ w' : Handoff, w' = { w with staged := w.staged.set k n, peers := if w.peers.contains i then w.peers else w.peers ++ [i] } :=
      ⟨_, rfl⟩
    obtain ⟨l, hstage⟩ := stagePush_new (s := s.peerSeen i) (i := i) (d := { s.stagedTile slot k d with layer := d.layer, head := d.head }) hst hv
    rw [← hw'] at hstage ⊢
    have hdo := tilePush_fits (s := s.peerSeen i) hs hk hg hm hq (by rw [senderOk_seen hh.entry]; exact hsend) hgeom hhead hfit hk' hx hstage
    have hdo' : doTilePush h d s = (s.peerSeen i).tilePush h i d := by
      unfold doTilePush
      rw [hh.receive]
    obtain ⟨pe, an, fc, hseen, hpe⟩ := sees hh.entry
    rw [hseen] at hv
    obtain ⟨tf, fc', r, rfl⟩ := allocTile_exact hv
    obtain ⟨b, hb⟩ : ∃ b : State, b = { s with
        peers := pe, aon := an, freeCtr := fc', regs := r, handoffs := s.handoffs.set slot w', selfRefresh := l
        bonds := s.bonds.map (fun b => if b.part == (s.ses slot).part && b.id == w.bond then { b with
          actions := [actList .tileInstall ((w.staged.set k n).map (fun kv => kv.2))] } else b)
        tiles := s.tiles.set (.frame n) { s.stagedTile slot k d with layer := d.layer, head := d.head }
        tileFrames := AMap.modify tf n (fun f => { f with poison := [] }) } := ⟨_, rfl⟩
    have hexp := expectAll_congr (s := { s with peers := pe, aon := an, freeCtr := fc', regs := r, tileFrames := tf }) (t := b) (slot := slot) (c := c) (w := w)
      (by rw [hb]; rfl) (by rw [hb]; rfl) (fun j => by rw [hb]; exact state_modify tf n j)
    have hwait : y ∈ b.expectAll slot c w' := by
      have hmem : y ∈ b.expectAll slot c w := by
        rw [hexp]
        exact hy
      rw [hw']
      exact hmem
    have hcommit := tryCommit_waits (s := b) (slot := slot) (w := w') (c := c) (y := y) (by rw [hb]; exact AMap.get?_set_same ..) (by rw [hb]; exact hm)
      hwait (by rw [hw']; unfold AMap.has; rw [AMap.get?_set_other _ _ hne]; exact hyn)
    have hfinal : doTilePush h d s = b := by
      rw [hdo', hdo]
      refine Eq.trans (congrArg (fun z : State => z.tryCommit slot) ?_) hcommit
      rw [hb, hseen]
      rfl
    refine ⟨b, next_event_own hw hfinal ?_ (by rw [hb]) (by rw [hb]), by rw [hb]; exact hpe, by rw [hb], by rw [hb], by rw [hb], by rw [hb], by rw [hb]⟩
    rw [hb]
    exact hc.of_eq rfl rfl rfl rfl rfl rfl rfl rfl
  · have hsend : (s.peerSeen i).checkHandle (some h.part) h.handle ≠ none ∨ (s.peerSeen i).handoffs.get? slot = none ∨
        (s.peerSeen i).senderOk ((s.peerSeen i).handoffEpoch slot).1 ((s.peerSeen i).handoffEpoch slot).2 h = false := by
      rw [senderOk_seen hh.entry]
      exact hno
    have hdo : doTilePush h d s = (s.peerSeen i).bump Fld.CMP_STALE_COUNT := by
      unfold doTilePush
      rw [hh.receive]
      exact tilePush_stale hs hsend
    obtain ⟨pe, an, fc, hseen, hpe⟩ := sees hh.entry
    rw [hseen] at hdo
    exact ⟨_, next_event_own hw hdo (hc.of_eq rfl rfl rfl rfl rfl rfl rfl rfl) rfl rfl, hpe, rfl⟩
  · obtain ⟨n, r, pm, l, g, c, tf, ti, hz, hfail⟩ := failHandoff_owned (st := .peerPrefillLost) hg ho
    have hdo : doHandoffTimeout slot s = State.complete { s with
        nextSeq := n, regs := r, pmc := pm, out := l ++ s.out, aon := g, freeCtr := c, tileFrames := tf, tiles := ti, handoffs := s.handoffs.erase slot
        bonds := s.bonds.filter (fun b => !(b.part == (s.ses slot).part && b.id == w.bond))
        sessions := s.sessions.set slot { s.ses slot with op := .none, state := w.returns (s.ses slot), lastUse := g } } u .peerPrefillLost := by
      refine (if_pos ?_).trans hfail
      unfold State.awaitsPush AMap.has
      rw [hg, hr]
      rfl
    obtain ⟨t, hex, hpost, l', _, _, _, _, _, rfl⟩ := next_event_completes hw hdo
      (calm_sessions (s := s) hc (k := slot) (x := { s.ses slot with op := .none, state := w.returns (s.ses slot), lastUse := g })
        (ses_waiting hc slot) rfl rfl rfl rfl rfl rfl rfl rfl) rfl rfl ⟨l, rfl⟩ hq hop
    have hset := ses_set (s := s) (k := slot) (x := { s.ses slot with op := .none, state := w.returns (s.ses slot), lastUse := g })
      (t := { s with sessions := s.sessions.set slot _ }) rfl
    refine ⟨_, hex, hpost, AMap.get?_erase_same .., hset.1, hset.2, hz, fun b hb => ?_, l' ++ l, _, _, _, _, _, by
      simp only [List.append_assoc]; rfl⟩
    have hkept := (List.mem_filter.1 hb).2
    by_contra hboth
    rw [not_or, not_not, not_not] at hboth
    rw [hboth.1, hboth.2] at hkept
    simp at hkept
  · obtain ⟨cs, hcs⟩ : ∃ cs, cs = q.chunks.set first (if fp32 then ls else ls.map bf16to32) := ⟨_, rfl⟩
    have hbytes (n : Nat) (hn : some h.bytes = some n) : n = 48 + ls.length * (if fp32 then 4 else 2) := by
      rw [← Option.some.inj hn]
      exact hb
    have hkeep := takeChunk_keeps (s := s.peerSeen i) (slot := slot) hl hbytes hov hall hfp none hp
    have hdo : doLogitChunk (some h) slot pos first fp32 ls s = (s.peerSeen i).takeChunk slot q (some h.bytes) first fp32 ls := by
      have hgen' : (s.peerSeen i).generating slot = some q := hgen
      have hk' : (s.peerSeen i).checkHandle none h.handle = none := hk
      have hpos' : (pos != (s.peerSeen i).duePos q) = false := by rw [hpos]; exact bne_self_eq_false _
      subst hs
      unfold doLogitChunk
      dsimp only
      rw [hh.receive, hk']
      refine (if_neg (by decide)).trans ?_
      unfold State.logitChunk
      dsimp only
      rw [hgen']
      dsimp only
      rw [hfb, checkSender_seen hh.entry, hsnd, hpos']
      rfl
    obtain ⟨pe, an, fc, hseen, hpe⟩ := sees hh.entry
    replace hdo := hdo.trans hkeep
    rw [hseen] at hdo
    exact ⟨_, next_event_own hw hdo (hc.of_eq rfl rfl rfl rfl rfl rfl rfl rfl) rfl rfl, hpe, rfl, rfl⟩
  · have hkeep := takeChunk_keeps (s := s) (slot := slot) (bytes := none) hl (fun n hn => nomatch hn) hov hall hfp (some pk) hp
    have hdo : doLogitChunk none slot pos first fp32 ls s = s.takeChunk slot q none first fp32 ls := by
      have hpos' : (pos != s.duePos q) = false := by rw [hpos]; exact bne_self_eq_false _
      unfold doLogitChunk State.logitChunk
      dsimp only
      rw [hgen]
      dsimp only
      rw [hfb, hready, hsnd, hpos']
      rfl
    refine next_event_own hw (hdo.trans (hkeep.trans (if_neg (by rw [hmask]; decide) |>.trans ?_))) (hc.of_eq rfl rfl rfl rfl rfl rfl rfl rfl) rfl rfl
    rw [hpos]

end Sys2Proof.Machine
end

section
/-!
PROOFS. Checkpoints: the refusals of a write, one that waits for its series, one to a host ring, and a release (R499 to R518).
-/

namespace Sys2Proof.Machine

open Sys2Proof

-- What the end of a checkpoint may change ------------------------------------------------------------------------------------------

/-- A state that differs in the shard index, and in what trims of the quarry change (R516). -/
def State.Trims (s t : State) : Prop :=
  ∃ q x i, t = { s with qry := q, tiles := x, ckp := { s.ckp with index := i } }

theorem State.Trims.refl (s : State) : s.Trims s := ⟨_, _, _, rfl⟩

theorem State.Trims.trans {s t u : State} (h : s.Trims t) (g : t.Trims u) : s.Trims u := by
  obtain ⟨_, _, _, rfl⟩ := h
  obtain ⟨_, _, _, rfl⟩ := g
  exact ⟨_, _, _, rfl⟩

theorem trims_modShard (s : State) (p : Nat) (sh : Shard) (f : ShardIdx → ShardIdx) : s.Trims (s.modShard p sh f) := ⟨_, _, _, rfl⟩

theorem trims_foldl {α : Type} (g : State → α → State) (hg : ∀ (s : State) (a : α), s.Trims (g s a)) (l : List α) (s : State) : s.Trims (l.foldl g s) :=
  foldl_keeps State.Trims State.Trims.refl (fun _ _ _ => State.Trims.trans) g hg l s

theorem trims_qTrims (s : State) (b : Nat) (l : List Nat) : s.Trims (s.qTrims b l) := by
  obtain ⟨q, t, h⟩ := qTrims_frame s b l
  exact ⟨q, t, s.ckp.index, h⟩

theorem trims_dropHolds (s : State) (p : Nat) (l : List Shard) : s.Trims (s.dropHolds p l) :=
  trims_foldl _ (fun s _ => trims_modShard s p _ _) l s

theorem trims_dropManifest (s : State) (b p : Nat) (m : Manifest × List Nat) : s.Trims (s.dropManifest b p m) :=
  (trims_foldl _ (fun s _ => trims_modShard s p _ _) _ s).trans (trims_qTrims _ _ _)

theorem trims_trimShards (s : State) (b p : Nat) : s.Trims (s.trimShards b p) := by
  have h := trims_foldl (fun (a : State) (x : ShardIdx) => a.qTrims b x.frames) (fun s _ => trims_qTrims s b _)
    ((s.ckp.index.getD p []).filter (fun x => x.refs == 0 && x.holds == 0)) s
  exact h.trans ⟨_, _, _, rfl⟩

theorem qTrim_map (s : State) (b f : Nat) : (s.qTrim b f).qry.map = s.qry.map.erase f := by
  unfold State.qTrim
  split
  · rename_i h
    exact (AMap.erase_none h).symm
  · dsimp only
    obtain ⟨_, _, _, _, _, _, h⟩ := qLog_frame _ _
    rw [h]
    rfl

theorem qTrim_absent {s : State} {g : Nat} (b f : Nat) (h : s.qry.map.get? g = none) : (s.qTrim b f).qry.map.get? g = none := by
  rw [qTrim_map]
  by_cases hg : g = f
  · rw [hg, AMap.get?_erase_same]
  · rw [AMap.get?_erase_other _ hg, h]

theorem qTrims_absent {s : State} {g : Nat} (b : Nat) (l : List Nat) (h : s.qry.map.get? g = none) :
    (s.qTrims b l).qry.map.get? g = none := by
  induction l generalizing s with
  | nil => exact h
  | cons f l ih => exact ih (qTrim_absent b f h)

/-- No frame of a trimmed list stays in the quarry's map. -/
theorem qTrims_gone (s : State) (b : Nat) {g : Nat} {l : List Nat} (h : g ∈ l) : (s.qTrims b l).qry.map.get? g = none := by
  induction l generalizing s with
  | nil => cases h
  | cons f l ih =>
    rcases List.mem_cons.1 h with rfl | h
    · exact qTrims_absent b l (by rw [qTrim_map, AMap.get?_erase_same])
    · exact ih _ h

theorem trimShards_absent {s : State} {g : Nat} (b p : Nat) (h : s.qry.map.get? g = none) : (s.trimShards b p).qry.map.get? g = none := by
  have key : ∀ (l : List ShardIdx) (t : State), t.qry.map.get? g = none →
      (l.foldl (fun (a : State) x => a.qTrims b x.frames) t).qry.map.get? g = none := by
    intro l
    induction l with
    | nil => exact fun _ h => h
    | cons x l ih => exact fun t ht => ih _ (qTrims_absent b _ ht)
  exact key _ s h

/-- After the trim every shard of the partition's index has a reference or a hold (R517). -/
theorem trimShards_index (s : State) (b p : Nat) : ∀ x ∈ (s.trimShards b p).ckp.index.getD p [], x.refs ≠ 0 ∨ x.holds ≠ 0 := by
  intro x hx
  unfold State.trimShards at hx
  dsimp only at hx
  rw [AMap.getD_set, if_pos rfl, List.mem_filter] at hx
  have := hx.2
  simp only [Bool.not_eq_true', Bool.and_eq_false_imp, beq_iff_eq, beq_eq_false_iff_ne] at this
  by_cases h0 : x.refs = 0
  · exact .inr (this h0)
  · exact .inl h0

-- The refusals (R499, R501, R512, R513) -----------------------------------------------------------------------------------------------

theorem checkCkp_io {s t : State} (h : s.Io t) (p : Nat) (a : CkpAsk) : t.checkCkp p a = s.checkCkp p a := by
  obtain ⟨_, _, _, _, _, _, rfl⟩ := h
  rfl

theorem ckpRun_io {s t : State} (h : s.Io t) (p n : Nat) : t.ckpRun p n = s.ckpRun p n := by
  obtain ⟨_, _, _, _, _, _, rfl⟩ := h
  rfl

theorem subPart_io {s t : State} (h : s.Io t) (u : Sub) : t.subPart u = s.subPart u := by
  obtain ⟨_, _, _, _, _, _, rfl⟩ := h
  rfl

/-- The order in which CKP_WRITE is refused. -/
theorem checkCkp_refused {s : State} {p : Nat} {a : CkpAsk} {st : Status}
    (h : a.host = true ∧ a.ring.ok = false ∧ st = .configParamBlock ∨ ¬(a.host = true ∧ a.ring.ok = false) ∧
        (a.step ≤ s.ckpNewest p a.series ∧ st = .configCkpStep ∨ s.ckpNewest p a.series < a.step ∧
          ((a.scope % 16 = 0 ∨ 65536 < a.handles.length ∨ ∃ o ∈ a.objs, s.ckpForeign p o = true) ∧ st = .configCkpScope ∨
            (a.scope % 16 ≠ 0 ∧ a.handles.length ≤ 65536 ∧ ∀ o ∈ a.objs, s.ckpForeign p o = false) ∧
              (s.ckpKey p = false ∧ st = .securityCkpKey ∨
                s.ckpKey p = true ∧ a.host = false ∧ s.qry.mounted = false ∧ st = .mediaQuarryDown)))) :
    s.checkCkp p a = some st := by
  unfold State.checkCkp
  rcases h with ⟨h1, h2, rfl⟩ | ⟨hr, h⟩
  · rw [if_pos (by simp [h1, h2])]
  rw [if_neg (by simpa using hr)]
  rcases h with ⟨h1, rfl⟩ | ⟨hs, h⟩
  · rw [if_pos h1]
  rw [if_neg (Nat.not_le.2 hs)]
  rcases h with ⟨h1, rfl⟩ | ⟨⟨h1, h2, h3⟩, h⟩
  · rw [if_pos (by simpa [or_assoc] using h1)]
  rw [if_neg (by simpa [h1, or_assoc] using ⟨h2, h3⟩)]
  rcases h with ⟨h1, rfl⟩ | ⟨h1, h2, h3, rfl⟩
  · rw [if_pos (by simp [h1])]
  · rw [if_neg (by simp [h1]), if_pos (by simp [h2, h3])]

theorem doCkpWrite_refused {s : State} {u : Sub} {a : CkpAsk} {st : Status} (h : s.checkCkp (s.subPart u) a = some st) :
    doCkpWrite u a s = s.complete u st := by
  unfold doCkpWrite State.ckpStart
  simp only [h]
  split <;> rfl

theorem doCkpWrite_waits {s : State} {u : Sub} {a : CkpAsk} {r : CkpRun} (h : s.checkCkp (s.subPart u) a = none)
    (hr : s.ckpRun (s.subPart u) a.series = some r) :
    doCkpWrite u a s = { s with ckp := { s.ckp with queue := s.ckp.queue ++ [(u, .ckpWrite a)] } } := by
  unfold doCkpWrite
  simp only [h, hr]
  rfl

theorem doCkpWrite_starts {s : State} {u : Sub} {a : CkpAsk} (h : s.checkCkp (s.subPart u) a = none)
    (hr : s.ckpRun (s.subPart u) a.series = none)
    (hu : (s.ckpOpen u (s.subPart u) a).2.slots.any (fun n => s.ckpUnreadable n) = false) :
    doCkpWrite u a s = ((s.ckpOpen u (s.subPart u) a).1.setRun (s.subPart u) a.series (s.ckpOpen u (s.subPart u) a).2).ckpGo (s.subPart u) a.series := by
  unfold doCkpWrite State.ckpStart
  simp only [h, hr, Option.isSome_none, Bool.false_eq_true, if_false]
  have : (s.ckpOpen u (s.subPart u) a).2.slots.any (fun n => s.ckpUnreadable n) =
      (s.ckpOpen u (s.subPart u) a).2.slots.any (fun n => s.ckpUnreadable n) := rfl
  rw [if_neg (by rw [hu]; exact Bool.false_ne_true)]

theorem ckpWrite_refused {s : State} {u : Sub} {a : CkpAsk} {st : Status} (hc : s.Calm) (ht : s.Takes u (.ckpWrite a))
    (h : s.checkCkp (s.subPart u) a = some st) : ∃ t, exec (.ckpWrite u a) s = .next t ∧ s.Posts t u st 0 0 ∧ s.Io t :=
  host_refuses hc ht rfl rfl fun s' hs' => doCkpWrite_refused (by rw [subPart_io hs', checkCkp_io hs', h])

-- A write that waits for its series (R500) --------------------------------------------------------------------------------------------

theorem goPartitions_idle {s : State} (h1 : s.resets = []) (h2 : s.removals = []) (h3 : s.removeWait = []) : s.goPartitions = s := by
  have hr : s.runRemovals = s := by
    have : ({ s with removeWait := [] } : State) = s := by rw [← h3]
    simp only [State.runRemovals, h3, List.filter_nil, List.foldl_nil, this]
  simp only [State.goPartitions, h1, List.foldl_nil, h2]
  exact hr

/-- A device in which one write waits whose series is still open, and which is calm otherwise, stays as it is. -/
theorem settle_waits {s : State} {u : Sub} {a : CkpAsk} {r : CkpRun} (hc : ({ s with ckp := { s.ckp with queue := [] } } : State).Calm)
    (hq : s.ckp.queue = [(u, .ckpWrite a)]) (hr : s.ckpRun (s.subPart u) a.series = some r) : s.settle = s := by
  have hn : s.ckpQueue 1 = s := by
    unfold State.ckpQueue State.ckpNext
    simp only [hq, hr, Option.isNone_some, Bool.false_eq_true, if_false, State.ckpNext]
  have h0 := waitingCount_calm hc
  have hw : s.startAll = s := by rw [State.startAll, show s.waitingCount = 0 from h0, State.startWaiting]
  have hp : s.pruneMaps = s := congrArg (fun t : State => { t with ckp := s.ckp }) (pruneMaps_calm hc)
  have hb : s.goRestart = s := by simp only [State.goRestart, show s.boot.restart = none from hc.restart]
  simp only [State.settle, hw, hq, List.length_singleton, hn, show s.movesIn = [] from hc.pulls, List.foldl_nil, hp,
    goPartitions_idle (s := s) hc.resets hc.removals hc.removes, hb]
  rfl

theorem ckpWrite_waits {s : State} {u : Sub} {a : CkpAsk} {r : CkpRun} (hc : s.Calm) (ht : s.Takes u (.ckpWrite a))
    (h : s.checkCkp (s.subPart u) a = none) (hr : s.ckpRun (s.subPart u) a.series = some r) :
    ∃ t, exec (.ckpWrite u a) s = .next t ∧ t.ckp = { s.ckp with queue := [(u, .ckpWrite a)] } ∧ s.Io { t with ckp := s.ckp } := by
  obtain ⟨s', hF, h2⟩ := arrive_takes ht rfl
  rw [runHost_plain _ _ _ rfl] at h2
  have hw : s'.startHost u (.ckpWrite a) = { s' with ckp := { s'.ckp with queue := s'.ckp.queue ++ [(u, .ckpWrite a)] } } :=
    doCkpWrite_waits (r := r) (by rw [subPart_io hF.1, checkCkp_io hF.1, h]) (by rw [subPart_io hF.1, ckpRun_io hF.1, hr])
  have hq : s'.ckp.queue = [] := (hc.io hF.1).queue
  rw [hw, hq, List.nil_append] at h2
  obtain ⟨l, m, a', b, d, e, hs'⟩ := hF.1
  have hset : s.always (fun x => x.arrive u (.ckpWrite a)) =
      s.kept { s' with ckp := { s'.ckp with queue := [(u, .ckpWrite a)] } } := by
    unfold State.always
    dsimp only
    rw [h2]
    refine (settle_waits (r := r) ?_ rfl ?_).trans ?_
    · obtain ⟨h1, h2, h3, h4, h5, h6, h7, h8⟩ := hc
      rw [hs']
      exact ⟨h1, rfl, h3, h4, h5, h6, h7, h8⟩
    · rw [hs']; exact hr
    · rfl
  refine ⟨_, congrArg Host.Outcome.next hset, ?_, l, m, a', b, d, e, ?_⟩
  · rw [hs']; rfl
  · rw [hs']; rfl

-- CKP_RELEASE (R518) --------------------------------------------------------------------------------------------------------------------

theorem ckpRelease_unknown {s : State} {u : Sub} {n step : Nat} (hc : s.Calm) (ht : s.Takes u (.ckpRelease n step))
    (h : ∀ m ∈ s.ckp.mans.getD (s.subPart u, n) [], m.1.step ≠ step) :
    ∃ t, exec (.ckpRelease u n step) s = .next t ∧ s.Posts t u .configCkpUnknown 0 0 ∧ s.Io t := by
  refine host_refuses hc ht rfl rfl fun s' hs' => ?_
  show doCkpRelease u n step s' = _
  have hp := subPart_io hs' u
  have hk : s'.ckp = s.ckp := by obtain ⟨_, _, _, _, _, _, rfl⟩ := hs'; rfl
  unfold doCkpRelease
  dsimp only
  rw [hp, hk, List.find?_eq_none.2 (fun m hm => by simpa using h m hm)]

/-- What the release of a series' only manifest leaves (R516, R518). -/
def State.released (s : State) (p n : Nat) (m : Manifest × List Nat) : State :=
  let s1 := (s.bondOnce p).dropManifest (s.nextBond p) p m
  { s1 with ckp := { s1.ckp with mans := s1.ckp.mans.set (p, n) [] } }.trimShards (s.nextBond p) p

theorem doCkpRelease_only {s : State} {u : Sub} {n : Nat} {m : Manifest × List Nat} (h : s.ckp.mans.getD (s.subPart u, n) [] = [m]) :
    doCkpRelease u n m.1.step s = (s.released (s.subPart u) n m).complete u .ok := by
  unfold doCkpRelease
  dsimp only
  rw [h]
  simp only [List.find?_cons, beq_self_eq_true, List.filter_cons, bne_self_eq_false, Bool.false_eq_true, if_false, List.filter_nil]
  rfl

theorem released_frame (s : State) (p n : Nat) (m : Manifest × List Nat) :
    ∃ q x i nb r pm l, s.released p n m = { s with
      qry := q, tiles := x, nextSeq := nb, regs := r, pmc := pm, out := l ++ s.out,
      ckp := { s.ckp with index := i, mans := s.ckp.mans.set (p, n) [] } } := by
  obtain ⟨nb, r, pm, l, hb⟩ := bnd_bondOnce s p
  obtain ⟨q, x, i, hd⟩ := trims_dropManifest (s.bondOnce p) (s.nextBond p) p m
  obtain ⟨q', x', i', h2⟩ := trims_trimShards ({ (s.bondOnce p).dropManifest (s.nextBond p) p m with
    ckp := { ((s.bondOnce p).dropManifest (s.nextBond p) p m).ckp with
      mans := ((s.bondOnce p).dropManifest (s.nextBond p) p m).ckp.mans.set (p, n) [] } } : State) (s.nextBond p) p
  refine ⟨q', x', i', nb, r, pm, l, ?_⟩
  unfold State.released
  dsimp only
  rw [h2, hd, hb]

theorem released_gone (s : State) (p n : Nat) (m : Manifest × List Nat) (f : Nat) (h : f ∈ m.2) :
    (s.released p n m).qry.map.get? f = none :=
  trimShards_absent _ _ (qTrims_gone _ _ h)

theorem ckpRelease_only {s : State} {u : Sub} {p n : Nat} {m : Manifest × List Nat} (hc : s.Calm) (ht : s.Takes u (.ckpRelease n m.1.step))
    (hp : s.subPart u = p) (h : s.ckp.mans.getD (p, n) [] = [m]) :
    ∃ t, exec (.ckpRelease u n m.1.step) s = .next t ∧ s.Posts t u .ok 0 0 ∧ t.ckp.mans.getD (p, n) [] = [] ∧
      (∀ k, k ≠ (p, n) → t.ckp.mans.get? k = s.ckp.mans.get? k) ∧ (∀ x ∈ t.ckp.index.getD p [], x.refs ≠ 0 ∨ x.holds ≠ 0) ∧
      (∀ f ∈ m.2, t.qry.map.get? f = none) ∧
      s.Io { t with ckp := s.ckp, qry := s.qry, tiles := s.tiles, regs := s.regs, nextSeq := s.nextSeq } := by
  obtain ⟨s', t, hex, hpost, hs', hio⟩ := host_acts (st := .ok) (r := 0) (n := 0) (fun v => v.released p n m) ht rfl rfl (fun v hv => by
    have hpv : v.subPart u = p := (subPart_io hv u).trans hp
    have hk : v.ckp = s.ckp := by obtain ⟨_, _, _, _, _, _, rfl⟩ := hv; rfl
    obtain ⟨q, x, i, nb, r, pm, l, hf⟩ := released_frame v p n m
    refine ⟨?_, ?_⟩
    · show doCkpRelease u n m.1.step v = _
      rw [doCkpRelease_only (by rw [hpv, hk, h]), hpv]
    · rw [hf]
      exact ⟨rfl, rfl, ⟨l, rfl⟩, (hc.io hv).1, (hc.io hv).2, (hc.io hv).3, (hc.io hv).4, (hc.io hv).5, (hc.io hv).6, (hc.io hv).7, (hc.io hv).8⟩)
  have hgone := released_gone s' p n m
  have hidx : ∀ x ∈ (s'.released p n m).ckp.index.getD p [], x.refs ≠ 0 ∨ x.holds ≠ 0 := trimShards_index _ _ _
  obtain ⟨q, x, i, nb, r, pm, l, hf⟩ := released_frame s' p n m
  rw [hf] at hio hgone hidx
  obtain ⟨l0, m0, a0, b0, d0, e0, rfl⟩ := hs'
  obtain ⟨l1, m1, a1, b1, d1, e1, rfl⟩ := hio
  refine ⟨_, hex, hpost, ?_, fun k hk => ?_, hidx, hgone, l1 ++ (l ++ l0), m1, a1, b1, d1, e1, ?_⟩
  · show (s.ckp.mans.set (p, n) []).getD (p, n) [] = []
    rw [AMap.getD_set, if_pos rfl]
  · exact AMap.get?_set_other _ _ hk
  · simp only [List.append_assoc]
    rfl

-- Reads of sessions and collections (R504, R527) -------------------------------------------------------------------------------------

/-- A session with so many more reads by checkpoints, and with so many fewer. -/
def Session.readsMore (x : Session) (n : Nat) : Session := { x with ckpReads := x.ckpReads + n }
def Session.readsLess (x : Session) (n : Nat) : Session := { x with ckpReads := x.ckpReads - n }

theorem foldl_modSes_frame (f : Session → Session) (l : List Nat) (s : State) :
    ∃ ss, l.foldl (fun (b : State) n => b.modSes n f) s = { s with sessions := ss } :=
  foldl_keeps (fun s t : State => ∃ ss, t = { s with sessions := ss }) (fun s => ⟨s.sessions, rfl⟩)
    (by rintro s t u ⟨_, rfl⟩ ⟨_, rfl⟩; exact ⟨_, rfl⟩) _ (fun _ _ => ⟨_, rfl⟩) l s

theorem foldl_modSes_calm {f : Session → Session} (hf : ∀ x, (f x).waiting = x.waiting) (l : List Nat) {s : State} (hc : s.Calm) :
    (l.foldl (fun (b : State) n => b.modSes n f) s).Calm := by
  induction l generalizing s with
  | nil => exact hc
  | cons n l ih => exact ih (calm_modSes hc hf)

theorem foldl_modSes_ses (f : Session → Session) (l : List Nat) (s : State) (k : Nat) :
    (l.foldl (fun (b : State) n => b.modSes n f) s).ses k = f^[l.count k] (s.ses k) := by
  induction l generalizing s with
  | nil => rfl
  | cons n l ih =>
    rw [List.foldl_cons, ih]
    obtain ⟨h1, h2⟩ := ses_set (s := s) (t := s.modSes n f) (k := n) (x := f (s.ses n)) rfl
    by_cases hk : k = n
    · rw [hk, List.count_cons_self, h1, Function.iterate_succ_apply]
    · rw [List.count_cons_of_ne (Ne.symm hk), h2 k hk]

theorem iterate_readsMore (n : Nat) (x : Session) : (fun (x : Session) => { x with ckpReads := x.ckpReads + 1 })^[n] x = x.readsMore n := by
  induction n generalizing x with
  | zero => rfl
  | succ n ih =>
    rw [Function.iterate_succ_apply, ih]
    simp only [Session.readsMore, Nat.add_assoc, Nat.add_comm 1 n]

theorem iterate_readsLess (n : Nat) (x : Session) : (fun (x : Session) => { x with ckpReads := x.ckpReads - 1 })^[n] x = x.readsLess n := by
  induction n generalizing x with
  | zero => rfl
  | succ n ih =>
    rw [Function.iterate_succ_apply, ih]
    simp only [Session.readsLess, Nat.sub_sub, Nat.add_comm 1 n]

theorem readsLess_readsMore (x : Session) (n : Nat) : (x.readsMore n).readsLess n = x := by
  simp only [Session.readsMore, Session.readsLess, Nat.add_sub_cancel]

theorem unholdColl_frame (s : State) (c : Nat) : ∃ cl, s.unholdColl c = { s with colls := cl } := by
  unfold State.unholdColl
  dsimp only
  split
  · split
    · exact ⟨_, rfl⟩
    · exact ⟨_, rfl⟩
  · exact ⟨_, rfl⟩

theorem unholdColls_frame (l : List Nat) (s : State) : ∃ cl, l.foldl (fun (a : State) k => a.unholdColl k) s = { s with colls := cl } :=
  foldl_keeps (fun s t : State => ∃ cl, t = { s with colls := cl }) (fun s => ⟨s.colls, rfl⟩)
    (by rintro s t u ⟨_, rfl⟩ ⟨_, rfl⟩; exact ⟨_, rfl⟩) _ unholdColl_frame l s

/-- A run whose reads have all ended keeps its fields. -/
theorem endReads_none {s : State} {p n : Nat} {r : CkpRun} (h : s.ckpRun p n = some r) (h1 : r.slots = []) (h2 : r.colls = []) :
    s.endReads p n = s := by
  unfold State.endReads
  simp only [h, h1, h2, List.filter_nil, List.foldl_nil]
  have hr : ({ r with slots := [], colls := [] } : CkpRun) = r := by
    obtain ⟨_, _, _, _, _, _, _, _, _, _, _, _, _, _, _⟩ := r
    cases h1; cases h2; rfl
  rw [hr]
  unfold State.setRun
  rw [AMap.set_get?_self h]

theorem endReads_closed {s : State} {p n : Nat} (h : s.ckpRun p n = none) : s.endReads p n = s := by
  unfold State.endReads
  simp only [h]

/-- Closing a run ends its reads, and its series is free. -/
theorem closeRun_frame {s : State} {p n : Nat} {r : CkpRun} (h : s.ckpRun p n = some r) :
    (∃ ss cl, s.closeRun p n = { s with sessions := ss, colls := cl, ckp := { s.ckp with runs := s.ckp.runs.erase (p, n) } }) ∧
      (∀ k, (s.closeRun p n).ses k = (s.ses k).readsLess (r.slots.count k)) ∧ (s.Calm → (s.closeRun p n).Calm) := by
  obtain ⟨v, hv⟩ : ∃ v, v = s.setRun p n { r with todo := [] } := ⟨_, rfl⟩
  have hr : v.ckpRun p n = some { r with todo := [] } := by rw [hv]; exact AMap.get?_set_same ..
  obtain ⟨f, hf⟩ : ∃ f, f = fun (x : Session) => ({ x with ckpReads := x.ckpReads - 1 } : Session) := ⟨_, rfl⟩
  obtain ⟨ss, hs⟩ := foldl_modSes_frame f r.slots v
  obtain ⟨cl, hu⟩ := unholdColls_frame r.colls (r.slots.foldl (fun (b : State) n => b.modSes n f) v)
  have he : s.closeRun p n = { s with sessions := ss, colls := cl, ckp := { s.ckp with runs := s.ckp.runs.erase (p, n) } } := by
    unfold State.closeRun
    simp only [h, ← hv]
    unfold State.endReads
    simp only [hr, List.any_nil, List.filter_false, List.contains_nil, Bool.not_false, List.filter_true, ← hf]
    rw [hu, hs, hv]
    simp only [State.setRun, AMap.set_set, AMap.erase_set']
  have hses : ∀ k, (s.closeRun p n).ses k = (s.ses k).readsLess (r.slots.count k) := by
    intro k
    have h1 := foldl_modSes_ses f r.slots v k
    rw [hf, iterate_readsLess, ← hf] at h1
    rw [hs, hv] at h1
    rw [he]
    exact h1
  have hcalm : s.Calm → (s.closeRun p n).Calm := by
    intro hc
    have h1 : v.Calm := by rw [hv]; exact ⟨hc.1, hc.2, hc.3, hc.4, hc.5, hc.6, hc.7, hc.8⟩
    have h2 := foldl_modSes_calm (f := f) (fun _ => by rw [hf]) r.slots h1
    rw [hs, hv] at h2
    rw [he]
    exact ⟨h2.1, hc.2, hc.3, hc.4, hc.5, hc.6, hc.7, hc.8⟩
  exact ⟨⟨_, _, he⟩, hses, hcalm⟩

-- The manifest of a host checkpoint becomes current (R513, R516) ----------------------------------------------------------------------

/-- Whatever a checkpoint to a host ring changes. -/
def State.Ckps (s t : State) : Prop :=
  ∃ c ss cl rg q x n g f b m l, t = { s with
    ckp := c, sessions := ss, colls := cl, regs := rg, qry := q, tiles := x, nextSeq := n, aon := g, freeCtr := f, bounce := b, pmc := m,
    out := l ++ s.out }

theorem State.Ckps.trans {s t u : State} (h : s.Ckps t) (g : t.Ckps u) : s.Ckps u := by
  obtain ⟨_, _, _, _, _, _, _, _, _, _, _, l, rfl⟩ := h
  obtain ⟨c, ss, cl, rg, q, x, n, g, f, b, m, l', rfl⟩ := g
  refine ⟨c, ss, cl, rg, q, x, n, g, f, b, m, l' ++ l, ?_⟩
  simp only [List.append_assoc]

/-- A manifest's step becomes the CKP_STEP of a session that it names. -/
def State.stampSes (s : State) (p step : Nat) (e : ManSes) : State :=
  let k := handleSlot e.handle
  if (s.ses k).state != .free && s.handleOf k == e.handle then
    (s.bondOnce p).modSes k (fun x => { x with ckpStep := step })
  else s

/-- `t` is `s` but for the CKP_STEP of sessions and what a bond that commits at once changes. -/
structure State.Stamped (s t : State) : Prop where
  frame : ∃ ss n r m l, t = { s with sessions := ss, nextSeq := n, regs := r, pmc := m, out := l ++ s.out }
  ses   : ∀ k, ∃ c, t.ses k = { s.ses k with ckpStep := c }
  calm  : s.Calm → t.Calm

theorem State.Stamped.refl (s : State) : s.Stamped s := ⟨⟨_, _, _, _, [], rfl⟩, fun _ => ⟨_, rfl⟩, id⟩

theorem State.Stamped.trans {s t u : State} (h : s.Stamped t) (g : t.Stamped u) : s.Stamped u := by
  obtain ⟨⟨_, _, _, _, l, ht⟩, h2, h3⟩ := h
  obtain ⟨⟨ss, n, r, m, l', hu⟩, g2, g3⟩ := g
  refine ⟨⟨ss, n, r, m, l' ++ l, by rw [hu, ht]; simp only [List.append_assoc]⟩, fun k => ?_, g3 ∘ h3⟩
  obtain ⟨c, hc⟩ := h2 k
  obtain ⟨c', hc'⟩ := g2 k
  exact ⟨c', by rw [hc', hc]⟩

theorem stamped_stampSes (s : State) (p step : Nat) (e : ManSes) : s.Stamped (s.stampSes p step e) := by
  unfold State.stampSes
  dsimp only
  split
  · obtain ⟨n, r, m, l, hb⟩ := bnd_bondOnce s p
    refine ⟨⟨_, n, r, m, l, by rw [hb]; rfl⟩, fun k => ?_, fun hc => calm_modSes ?_ (fun _ => rfl)⟩
    · obtain ⟨h1, h2⟩ := ses_set (s := s.bondOnce p) (t := (s.bondOnce p).modSes (handleSlot e.handle) (fun x => { x with ckpStep := step }))
        (k := handleSlot e.handle) rfl
      have hs : ∀ j, (s.bondOnce p).ses j = s.ses j := fun j => by rw [hb]; rfl
      by_cases hk : k = handleSlot e.handle
      · exact ⟨step, by rw [hk, h1, hs]⟩
      · exact ⟨(s.ses k).ckpStep, by rw [h2 k hk, hs]⟩
    · rw [hb]
      exact hc.of_eq rfl rfl rfl rfl rfl rfl rfl rfl
  · exact State.Stamped.refl s

/-- The references and holds as a run's manifest becomes current. -/
def State.referred (s : State) (p : Nat) (r : CkpRun) : State :=
  (r.man.shards.foldl (fun (a : State) sh => a.modShard p sh (fun x => { x with refs := x.refs + 1 })) s).dropHolds p r.holds

/-- A step becomes the newest complete one of its series, to which no manifest of the quarry is added. -/
def State.newestIs (s : State) (p n step : Nat) : State :=
  { s with ckp := { s.ckp with newest := s.ckp.newest.set (p, n) step, mans := s.ckp.mans.set (p, n) (s.ckp.mans.getD (p, n) []) } }

/-- The manifest of a run to host memory has become current, and the run is still open. -/
def State.hostCurrent (s : State) (p n : Nat) (r : CkpRun) : State :=
  r.man.sessions.foldl (fun (a : State) e => a.stampSes p r.man.step e) (((s.referred p r).newestIs p n r.man.step).trimShards 0 p)

theorem ckpCurrent_eq {s : State} {p n : Nat} {r : CkpRun} (hh : r.ask.host = true) :
    s.ckpCurrent 0 p n r [] = ((s.hostCurrent p n r).closeRun p n).completeFor ⟨r.fn, r.sq, r.tag⟩ .ok r.count := by
  have key : ∀ (b : State) (l : List (Manifest × List Nat)), l = b.ckp.mans.getD (p, n) [] →
      ({ (l.drop l.length).foldl (fun (a : State) x => a.dropManifest 0 p x) b with
        ckp := { ((l.drop l.length).foldl (fun (a : State) x => a.dropManifest 0 p x) b).ckp with
          newest := ((l.drop l.length).foldl (fun (a : State) x => a.dropManifest 0 p x) b).ckp.newest.set (p, n) r.man.step,
          mans := ((l.drop l.length).foldl (fun (a : State) x => a.dropManifest 0 p x) b).ckp.mans.set (p, n) (l.take l.length) } } : State) =
        b.newestIs p n r.man.step := by
    rintro b l rfl
    rw [List.drop_length, List.foldl_nil, List.take_length]
    rfl
  unfold State.ckpCurrent
  simp only [hh, if_true]
  exact congrArg (fun b : State => ((r.man.sessions.foldl (fun (a : State) e => a.stampSes p r.man.step e) (b.trimShards 0 p)).closeRun p n).completeFor
    ⟨r.fn, r.sq, r.tag⟩ .ok r.count) (key (s.referred p r) _ rfl)

theorem hostCurrent_frame (s : State) (p n : Nat) (r : CkpRun) :
    (∃ ss q x nb rg pm l i, s.hostCurrent p n r = { s with
      sessions := ss, qry := q, tiles := x, nextSeq := nb, regs := rg, pmc := pm, out := l ++ s.out,
      ckp := { ((s.newestIs p n r.man.step).ckp) with index := i } }) ∧
    (∀ k, ∃ c, (s.hostCurrent p n r).ses k = { s.ses k with ckpStep := c }) ∧ (s.Calm → (s.hostCurrent p n r).Calm) := by
  obtain ⟨q, x, i, e2⟩ : s.Trims (s.referred p r) :=
    (trims_foldl _ (fun s _ => trims_modShard s p _ _) _ s).trans (trims_dropHolds _ _ _)
  obtain ⟨q', x', i', e5⟩ := trims_trimShards ((s.referred p r).newestIs p n r.man.step) 0 p
  obtain ⟨⟨ss, nb, rg, pm, l, e6⟩, hses, hcalm⟩ : (((s.referred p r).newestIs p n r.man.step).trimShards 0 p).Stamped (s.hostCurrent p n r) :=
    foldl_keeps State.Stamped State.Stamped.refl (fun _ _ _ => State.Stamped.trans) _ (fun s e => stamped_stampSes s p r.man.step e) _ _
  rw [e2] at e5
  refine ⟨⟨ss, q', x', nb, rg, pm, l, i', ?_⟩, fun k => ?_, fun hc => hcalm ?_⟩
  · rw [e6, e2, e5]
    rfl
  · obtain ⟨c, hc⟩ := hses k
    exact ⟨c, by rw [hc, e2, e5]; rfl⟩
  · rw [e2, e5]
    exact ⟨hc.1, hc.2, hc.3, hc.4, hc.5, hc.6, hc.7, hc.8⟩

/-- The manifest of a checkpoint to host memory becomes current: the newest step, CKP_STEP of its sessions, and the end of the run. -/
theorem ckpCurrent_host {s : State} {p n : Nat} {r r0 : CkpRun} (h : s.ckpRun p n = some r0) (hh : r.ask.host = true) :
    ∃ w, s.ckpCurrent 0 p n r [] = w.completeFor ⟨r.fn, r.sq, r.tag⟩ .ok r.count ∧ w.ckp.newest.get? (p, n) = some r.man.step ∧
      w.ckpRun p n = none ∧ (∀ k, ∃ c, w.ses k = { (s.ses k).readsLess (r0.slots.count k) with ckpStep := c }) ∧ (s.Calm → w.Calm) ∧
      w.sqs = s.sqs ∧ w.cqs = s.cqs ∧ w.aon = s.aon ∧ s.Ckps w := by
  obtain ⟨⟨ss, q, x, nb, rg, pm, l, i, e⟩, hses, hcalm⟩ := hostCurrent_frame s p n r
  have hrun : (s.hostCurrent p n r).ckpRun p n = some r0 := by rw [e]; exact h
  obtain ⟨⟨ss', cl, ec⟩, hses', hcalm'⟩ := closeRun_frame hrun
  refine ⟨_, ckpCurrent_eq hh, ?_, ?_, fun k => ?_, fun hc => hcalm' (hcalm hc), ?_, ?_, ?_, ?_⟩
  · rw [ec, e]
    exact AMap.get?_set_same ..
  · rw [ec]
    exact AMap.get?_erase_same ..
  · obtain ⟨c, hc⟩ := hses k
    exact ⟨c, by rw [hses' k, hc]; rfl⟩
  · rw [ec, e]
  · rw [ec, e]
  · rw [ec, e]
  · rw [ec, e]
    exact ⟨_, ss', cl, rg, q, x, nb, s.aon, s.freeCtr, s.bounce, pm, l, rfl⟩

end Sys2Proof.Machine
end

section
/-!
PROOFS. A checkpoint to a host ring: the shards in order, then the manifest, each with HEAD after it (R513).
-/

namespace Sys2Proof.Machine

open Sys2Proof

-- Room in a host ring (R270) ----------------------------------------------------------------------------------------------------------

/-- Bytes of a host ring in use. -/
def CkpRun.used (r : CkpRun) : Nat := (r.head + 2 ^ 64 - r.tail) % 2 ^ 64

theorem free_eq (r : CkpRun) : r.free = 2 ^ r.ask.ring.log2 - r.used := rfl

theorem used_add_le (h b t : Nat) : ((h + b) % 2 ^ 64 + 2 ^ 64 - t) % 2 ^ 64 ≤ (h + 2 ^ 64 - t) % 2 ^ 64 + b := by
  omega

theorem used_add {h b t : Nat} (ht : t < 2 ^ 64) (hb : (h + 2 ^ 64 - t) % 2 ^ 64 + b < 2 ^ 64) :
    ((h + b) % 2 ^ 64 + 2 ^ 64 - t) % 2 ^ 64 = (h + 2 ^ 64 - t) % 2 ^ 64 + b := by
  omega

/-- A place in a ring is the same before and after HEAD wraps at 2^64. -/
theorem ring_place {k : Nat} (hk : k ≤ 64) (m x : Nat) : (m % 2 ^ 64 + x) % 2 ^ k = (m + x) % 2 ^ k := by
  rw [Nat.add_mod, Nat.mod_mod_of_dvd _ (Nat.pow_dvd_pow 2 hk), ← Nat.add_mod]

theorem ckpPut_frame (s : State) (r : CkpRun) (o : Out) (b : Nat) :
    ∃ bo, s.ckpPut r o b = { s with out := .head r.fn r.ask.ring.ctrl ((r.head + b) % 2 ^ 64) :: o :: s.out, bounce := bo } := by
  obtain ⟨bo, h⟩ := sealed_frame (s.put o) r.fn
  exact ⟨bo, by unfold State.ckpPut; rw [h]; rfl⟩

-- The shards of a host checkpoint (R513) --------------------------------------------------------------------------------------------

/-- What writing shards to a host ring changes. -/
def State.Ringed (s t : State) : Prop :=
  ∃ rs rg b l, t = { s with ckp := { s.ckp with runs := rs }, regs := rg, bounce := b, out := l ++ s.out }

theorem State.Ringed.refl (s : State) : s.Ringed s := ⟨_, _, _, [], rfl⟩

theorem State.Ringed.trans {s t u : State} (h : s.Ringed t) (g : t.Ringed u) : s.Ringed u := by
  obtain ⟨_, _, _, l, rfl⟩ := h
  obtain ⟨rs, rg, b, l', rfl⟩ := g
  refine ⟨rs, rg, b, l' ++ l, ?_⟩
  simp only [List.append_assoc]

/-- The run of a host checkpoint after some shards have gone into its ring. -/
def CkpRun.Wrote (r r' : CkpRun) (l : List Shard) : Prop :=
  (∃ todo stored head stopped, r' = { r with todo := todo, stored := stored, head := head, stopped := stopped, count := r.count + l.length }) ∧
    r'.head % 2 ^ 64 = (r.head + (l.map Shard.bytes).sum) % 2 ^ 64 ∧
    r'.head % 2 ^ r.ask.ring.log2 = (r.head + (l.map Shard.bytes).sum) % 2 ^ r.ask.ring.log2

theorem ckpHost_held {s : State} {p n : Nat} {r : CkpRun} {sh : Shard} (h : s.ckpRun p n = some r) (hh : r.ask.held.contains sh = true)
    (rest : List Shard) :
    s.ckpHost p n (sh :: rest) = ((s.bump Fld.CKP_DEDUP_COUNT p).setRun p n { r with todo := rest }).ckpHost p n rest := by
  rw [State.ckpHost]
  simp only [h, hh, if_true]

/-- A run after its next shard has gone into its host ring. -/
def CkpRun.put (r : CkpRun) (sh : Shard) (rest : List Shard) : CkpRun :=
  { r with todo := rest, stored := sh :: r.stored, head := (r.head + sh.bytes) % 2 ^ 64, count := r.count + 1, stopped := false }

/-- A device in which the next shard of a run goes into its host ring. -/
def State.ckpPutShard (s : State) (p n : Nat) (r : CkpRun) (sh : Shard) (rest : List Shard) : State :=
  ((s.ckpPut r (.ckpShard r.fn (r.ask.ring.base + r.head % 2 ^ r.ask.ring.log2) r.ask.step sh) sh.bytes).bump Fld.CKP_WRITTEN_COUNT p).setRun p n
    (r.put sh rest)

theorem ckpHost_shard {s : State} {p n : Nat} {r : CkpRun} {sh : Shard} (h : s.ckpRun p n = some r) (hh : r.ask.held.contains sh = false)
    (hf : sh.bytes + r.used ≤ 2 ^ r.ask.ring.log2) (rest : List Shard) :
    s.ckpHost p n (sh :: rest) = (s.ckpPutShard p n r sh rest).ckpHost p n rest := by
  have hfree : ¬ r.free < sh.bytes := by rw [free_eq]; omega
  rw [State.ckpHost]
  simp only [h, hh, hfree, if_false, Bool.false_eq_true]
  rfl

theorem ckpHost_manifest {s : State} {p n : Nat} {r : CkpRun} (h : s.ckpRun p n = some r) (hf : r.man.bytes + r.used ≤ 2 ^ r.ask.ring.log2) :
    s.ckpHost p n [] = (s.ckpPut r (.ckpManifest r.fn (r.ask.ring.base + r.head % 2 ^ r.ask.ring.log2) { r.man with stamp := s.aon })
      r.man.bytes).ckpCurrent 0 p n { r with todo := [] } [] := by
  have hfree : ¬ r.free < r.man.bytes := by rw [free_eq]; omega
  rw [State.ckpHost]
  simp only [h, hfree, if_false]

theorem manifest_bytes_pos (m : Manifest) : 0 < m.bytes := by
  unfold Manifest.bytes
  omega

theorem ckpHost_stops {s : State} {p n : Nat} {r : CkpRun} (h : s.ckpRun p n = some r) (hf : 2 ^ r.ask.ring.log2 < r.man.bytes + r.used) :
    s.ckpHost p n [] = s.setRun p n { r with todo := [], stopped := true } := by
  have hpos := manifest_bytes_pos r.man
  have hfree : r.free < r.man.bytes := by rw [free_eq]; omega
  rw [State.ckpHost]
  simp only [h, hfree, if_true]

theorem ckpPutShard_frame (s : State) (p n : Nat) (r : CkpRun) (sh : Shard) (rest : List Shard) :
    ∃ bo, s.ckpPutShard p n r sh rest = { s with
      out := .head r.fn r.ask.ring.ctrl ((r.head + sh.bytes) % 2 ^ 64) ::
        .ckpShard r.fn (r.ask.ring.base + r.head % 2 ^ r.ask.ring.log2) r.ask.step sh :: s.out,
      regs := (s.bump Fld.CKP_WRITTEN_COUNT p).regs, bounce := bo, ckp := { s.ckp with runs := s.ckp.runs.set (p, n) (r.put sh rest) } } := by
  obtain ⟨bo, h⟩ := ckpPut_frame s r (.ckpShard r.fn (r.ask.ring.base + r.head % 2 ^ r.ask.ring.log2) r.ask.step sh) sh.bytes
  exact ⟨bo, by unfold State.ckpPutShard; rw [h]; rfl⟩

/-- Where a run's ring has room for every shard that the have list lacks and for the manifest, the shards go into it in order, each at
the place that those before it leave, and the manifest follows. -/
theorem ckpHost_fits {p n : Nat} (todo : List Shard) : ∀ {s : State} {r : CkpRun} {l : List Shard}, s.ckpRun p n = some r →
    (todo ≠ [] → r.ask.ring.log2 ≤ 64) → l = todo.filter (fun sh => !(r.ask.held.contains sh)) →
    (l.map Shard.bytes).sum + r.man.bytes + r.used ≤ 2 ^ r.ask.ring.log2 →
    ∃ v r', s.ckpHost p n todo = (v.ckpPut r' (.ckpManifest r'.fn (r'.ask.ring.base + r'.head % 2 ^ r'.ask.ring.log2) { r'.man with stamp := v.aon })
        r'.man.bytes).ckpCurrent 0 p n { r' with todo := [] } [] ∧ v.ckpRun p n = some r' ∧ r.Wrote r' l ∧ s.Ringed v ∧
      ∀ x sh y, l = x ++ sh :: y →
        s.Writes v (.ckpShard r.fn (r.ask.ring.base + (r.head + (x.map Shard.bytes).sum) % 2 ^ r.ask.ring.log2) r.ask.step sh) := by
  induction todo with
  | nil =>
    intro s r l hr hk hl hroom
    cases hl
    refine ⟨s, r, ckpHost_manifest hr (by simpa using hroom), hr, ⟨⟨_, _, _, _, rfl⟩, rfl, rfl⟩, State.Ringed.refl s, fun x sh y h => ?_⟩
    simp at h
  | cons sh rest ih =>
    intro s r l hr hk hl hroom
    replace hk := hk (List.cons_ne_nil _ _)
    by_cases hh : r.ask.held.contains sh = true
    · rw [List.filter_cons_of_neg (by simpa using hh)] at hl
      rw [ckpHost_held hr hh rest]
      obtain ⟨v, r', h1, h2, ⟨⟨a, b, c, d, h3⟩, h3'⟩, h4, h5⟩ := ih (s := (s.bump Fld.CKP_DEDUP_COUNT p).setRun p n { r with todo := rest })
        (AMap.get?_set_same ..) (fun _ => hk) hl hroom
      refine ⟨v, r', h1, h2, ⟨⟨a, b, c, d, h3⟩, h3'⟩, State.Ringed.trans ⟨_, _, s.bounce, [], rfl⟩ h4, h5⟩
    · have hh' : r.ask.held.contains sh = false := by simpa using hh
      rw [List.filter_cons_of_pos (by simpa using hh')] at hl
      rw [hl, List.map_cons, List.sum_cons] at hroom
      obtain ⟨bo, hp⟩ := ckpPutShard_frame s p n r sh rest
      have hused : (r.put sh rest).used ≤ r.used + sh.bytes := used_add_le r.head sh.bytes r.tail
      rw [ckpHost_shard hr hh' (by omega) rest]
      obtain ⟨v, r', h1, h2, ⟨⟨a, b, c, d, h3⟩, h3', h3k⟩, h4, h5⟩ := ih (s := s.ckpPutShard p n r sh rest) (r := r.put sh rest)
        (AMap.get?_set_same ..) (fun _ => hk) rfl (by
          show (((rest.filter (fun sh => !(r.ask.held.contains sh))).map Shard.bytes).sum) + r.man.bytes + _ ≤ 2 ^ r.ask.ring.log2
          omega)
      have hput : s.Ringed (s.ckpPutShard p n r sh rest) := by rw [hp]; exact ⟨_, _, _, [_, _], rfl⟩
      refine ⟨v, r', h1, h2, ⟨⟨a, b, c, d, ?_⟩, ?_, ?_⟩, hput.trans h4, fun x z y hx => ?_⟩
      · rw [h3, hl, List.length_cons, Nat.add_comm _ 1, ← Nat.add_assoc]
        rfl
      · rw [h3', hl, List.map_cons, List.sum_cons]
        show ((r.head + sh.bytes) % 2 ^ 64 + _) % 2 ^ 64 = _
        rw [ring_place (Nat.le_refl 64), Nat.add_assoc]
        rfl
      · rw [hl, List.map_cons, List.sum_cons]
        refine Eq.trans h3k ?_
        show ((r.head + sh.bytes) % 2 ^ 64 + _) % 2 ^ r.ask.ring.log2 = _
        rw [ring_place hk, Nat.add_assoc]
        rfl
      · rw [hl] at hx
        cases x with
        | nil =>
          cases hx
          have hw : s.Writes (s.ckpPutShard p n r sh rest) (.ckpShard r.fn (r.ask.ring.base + r.head % 2 ^ r.ask.ring.log2) r.ask.step sh) := by
            rw [hp]
            exact ⟨[_, _], rfl, by simp⟩
          obtain ⟨_, _, _, l', hv⟩ := h4
          exact hw.mono ⟨l', by rw [hv]⟩
        | cons w x =>
          have hx' := (List.cons_eq_cons.1 hx).2
          obtain rfl := (List.cons_eq_cons.1 hx).1
          obtain ⟨_, _, _, l', hv⟩ := hput
          have := h5 x z y hx'
          have hplace : ((r.put sh rest).head + (x.map Shard.bytes).sum) % 2 ^ r.ask.ring.log2 =
              (r.head + ((sh :: x).map Shard.bytes).sum) % 2 ^ r.ask.ring.log2 := by
            rw [List.map_cons, List.sum_cons, ← Nat.add_assoc]
            exact ring_place hk _ _
          rw [← hplace]
          exact State.Writes.after ⟨l', by rw [hv]⟩ this

/-- What a host checkpoint that ends leaves in `w`, before its completion: its shards, its manifest and HEAD in the ring, its step as the
newest, its run closed, and of the sessions only their CKP_STEP changed. -/
structure State.CkpEnds (s : State) (p n : Nat) (r : CkpRun) (l : List Shard) (w : State) : Prop where
  shards : ∀ x sh y, l = x ++ sh :: y →
    s.Writes w (.ckpShard r.fn (r.ask.ring.base + (r.head + (x.map Shard.bytes).sum) % 2 ^ r.ask.ring.log2) r.ask.step sh)
  manifest : s.Writes w (.ckpManifest r.fn (r.ask.ring.base + (r.head + (l.map Shard.bytes).sum) % 2 ^ r.ask.ring.log2) { r.man with stamp := w.aon })
  head   : s.Writes w (.head r.fn r.ask.ring.ctrl ((r.head + (l.map Shard.bytes).sum + r.man.bytes) % 2 ^ 64))
  newest : w.ckp.newest.get? (p, n) = some r.man.step
  run    : w.ckpRun p n = none
  ses    : ∀ k, ∃ c, w.ses k = { (s.ses k).readsLess (r.slots.count k) with ckpStep := c }
  calm   : s.Calm → w.Calm
  queues : w.sqs = s.sqs ∧ w.cqs = s.cqs
  frame  : s.Ckps w

/-- A run to a host ring with room for all that it writes goes on to its end (R513, R516). -/
theorem ckpGo_host {s : State} {p n : Nat} {r : CkpRun} {l : List Shard} (h : s.ckpRun p n = some r) (hh : r.ask.host = true) (hq : r.sq ≠ none)
    (hk : r.todo ≠ [] → r.ask.ring.log2 ≤ 64) (hl : l = r.todo.filter (fun sh => !(r.ask.held.contains sh)))
    (hroom : (l.map Shard.bytes).sum + r.man.bytes + r.used ≤ 2 ^ r.ask.ring.log2) :
    ∃ w, s.ckpGo p n = w.completeFor ⟨r.fn, r.sq, r.tag⟩ .ok (r.count + l.length) ∧ s.CkpEnds p n r l w := by
  obtain ⟨v, r', hgo, hrun, ⟨⟨todo, stored, head, stopped, hr'⟩, hhead, hplace⟩, hv, hsh⟩ := ckpHost_fits r.todo (s := s.tick) (p := p) (n := n) h hk hl hroom
  obtain ⟨bo, hput⟩ := ckpPut_frame v r' (.ckpManifest r'.fn (r'.ask.ring.base + r'.head % 2 ^ r'.ask.ring.log2) { r'.man with stamp := v.aon }) r'.man.bytes
  obtain ⟨b, hb⟩ : ∃ b, b = v.ckpPut r' (.ckpManifest r'.fn (r'.ask.ring.base + r'.head % 2 ^ r'.ask.ring.log2) { r'.man with stamp := v.aon }) r'.man.bytes :=
    ⟨_, rfl⟩
  have hbrun : b.ckpRun p n = some r' := by rw [hb, hput]; exact hrun
  obtain ⟨w, hcur, hnew, hnone, hses, hcalm, hsq, hcq, haon, hfr⟩ := ckpCurrent_host (r := { r' with todo := [] }) hbrun (by rw [hr']; exact hh)
  rw [← hb] at hgo hput
  have hvw : ∀ o, v.Writes b o → s.Writes w o := by
    intro o ho
    obtain ⟨_, _, _, l1, e1⟩ := hv
    obtain ⟨_, _, _, _, _, _, _, _, _, _, _, l2, e2⟩ := hfr
    exact State.Writes.after ⟨l1, by rw [e1]; rfl⟩ (ho.mono ⟨l2, by rw [e2]⟩)
  refine ⟨w, ?_, fun x sh y hx => ?_, ?_, ?_, ?_, hnone, fun k => ?_, fun hc => hcalm ?_, ?_, ?_⟩
  · have hgo' : s.ckpGo p n = (s.tick.ckpHost p n r.todo).endReads p n := by
      unfold State.ckpGo
      simp only [h, hh, if_true]
    rw [hgo', hgo, hcur, hr']
    refine endReads_closed ?_
    exact (ckpRun_io (io_completeFor w _ _ _ _ hq) p n).trans hnone
  · obtain ⟨_, _, _, l1, e1⟩ := hv
    obtain ⟨_, _, _, _, _, _, _, _, _, _, _, l2, e2⟩ := hfr
    obtain ⟨l3, h3, hm⟩ := hsh x sh y hx
    exact State.Writes.mono (t := v) ⟨l3, h3, hm⟩ ⟨l2 ++ [_, _], by rw [e2, hput]; simp only [List.append_assoc]; rfl⟩
  · refine hvw _ ?_
    rw [← hplace, haon, hput, hr']
    exact ⟨[_, _], rfl, by simp⟩
  · refine hvw _ ?_
    have : (r'.head + r.man.bytes) % 2 ^ 64 = (r.head + (l.map Shard.bytes).sum + r.man.bytes) % 2 ^ 64 := by
      rw [← ring_place (Nat.le_refl 64), hhead, ring_place (Nat.le_refl 64)]
    rw [← this, hput, hr']
    exact ⟨[_, _], rfl, by simp⟩
  · rw [hnew, hr']
  · obtain ⟨c, hc⟩ := hses k
    refine ⟨c, ?_⟩
    rw [hc, hput, hr']
    obtain ⟨_, _, _, l1, e1⟩ := hv
    rw [e1]
    rfl
  · obtain ⟨_, _, _, l1, e1⟩ := hv
    rw [hput, e1]
    exact ⟨hc.1, hc.2, hc.3, hc.4, hc.5, hc.6, hc.7, hc.8⟩
  · obtain ⟨_, _, _, l1, e1⟩ := hv
    rw [hsq, hcq, hput, e1]
    exact ⟨rfl, rfl⟩
  · obtain ⟨_, _, _, l1, e1⟩ := hv
    refine State.Ckps.trans ?_ hfr
    rw [hput, e1]
    exact ⟨_, _, _, _, _, _, _, _, _, _, _, _ :: _ :: l1, rfl⟩

end Sys2Proof.Machine
end

section
/-!
PROOFS. What a host ring that has room again does, and a checkpoint to a host ring or to the quarry from its start (O53).
-/

namespace Sys2Proof.Machine

open Sys2Proof

-- CKP_RING_ROOM (R513) -------------------------------------------------------------------------------------------------------------------

theorem doCkpRingRoom_stopped {s : State} {p n tail : Nat} {r : CkpRun} (h : s.ckpRun p n = some r) (hh : r.ask.host = true)
    (hs : r.stopped = true) :
    doCkpRingRoom p n tail s = (s.setRun p n { r with tail := tail, stopped := false }).ckpGo p n := by
  unfold doCkpRingRoom
  simp only [h, hh, hs, Bool.and_self, if_true]

theorem doCkpRingRoom_other {s : State} {p n tail : Nat} (h : ∀ r, s.ckpRun p n = some r → r.ask.host = false ∨ r.stopped = false) :
    doCkpRingRoom p n tail s = s := by
  unfold doCkpRingRoom
  cases hr : s.ckpRun p n with
  | none => rfl
  | some r =>
    dsimp only
    rw [if_neg]
    rcases h r hr with h | h <;> simp [h]

theorem ckpRingRoom_other {s : State} {p n tail : Nat} (hc : s.Calm) (hw : s.awake = true)
    (h : ∀ r, s.ckpRun p n = some r → r.ask.host = false ∨ r.stopped = false) : exec (.ckpRingRoom p n tail) s = .next s :=
  next_event_own hw (doCkpRingRoom_other h) hc rfl rfl

theorem setRun_calm {s : State} (hc : s.Calm) (p n : Nat) (r : CkpRun) : (s.setRun p n r).Calm :=
  ⟨hc.1, hc.2, hc.3, hc.4, hc.5, hc.6, hc.7, hc.8⟩

/-- A checkpoint that waits for room for its manifest ends where there is room. -/
theorem ckpRingRoom_ends {s : State} {p n tail q : Nat} {r : CkpRun} (hc : s.Calm) (hw : s.awake = true) (h : s.ckpRun p n = some r)
    (hh : r.ask.host = true) (hs : r.stopped = true) (htodo : r.todo = [])
    (hroom : r.man.bytes + (r.head + 2 ^ 64 - tail) % 2 ^ 64 ≤ 2 ^ r.ask.ring.log2) (hq : r.sq = some q) (ho : s.Open r.fn q) :
    ∃ t k h m, exec (.ckpRingRoom p n tail) s = .next t ∧ s.Writes t (.cqe r.fn k (Owner.answer ⟨r.fn, r.sq, r.tag⟩ .ok r.count) h m) ∧
      s.Writes t (.ckpManifest r.fn (r.ask.ring.base + r.head % 2 ^ r.ask.ring.log2) { r.man with stamp := t.aon }) ∧
      s.Writes t (.head r.fn r.ask.ring.ctrl ((r.head + r.man.bytes) % 2 ^ 64)) ∧
      t.ckp.newest.get? (p, n) = some r.man.step ∧ t.ckpRun p n = none := by
  obtain ⟨r1, hr1⟩ : ∃ r1 : CkpRun, r1 = { r with tail := tail, stopped := false } := ⟨_, rfl⟩
  have htodo1 : r1.todo = [] := by rw [hr1]; exact htodo
  obtain ⟨w, hgo, hend⟩ := ckpGo_host (s := s.setRun p n r1) (p := p) (n := n) (r := r1) (l := []) (AMap.get?_set_same ..)
    (by rw [hr1]; exact hh) (by rw [hr1, show ({ r with tail := tail, stopped := false } : CkpRun).sq = r.sq from rfl, hq]; exact nofun)
    (fun hne => absurd htodo1 hne) (by rw [htodo1]; rfl) (by
      rw [hr1, List.map_nil, List.sum_nil, Nat.zero_add]
      exact hroom)
  obtain ⟨hsh, hman, hhead, hnew, hrun, hses, hcalm, ⟨hsq, hcq⟩, c, ss, cl, rg, qy, x, nb, g, f, b, pm, l, hw'⟩ := hend
  have hopen : w.Open r.fn q := by
    obtain ⟨y, x, h1, h2, h3⟩ := ho
    refine ⟨y, x, ?_, ?_, h3⟩
    · unfold State.sq at h1 ⊢; rw [hsq]; exact h1
    · unfold State.cq at h2 ⊢; rw [hcq]; exact h2
  have hio : w.Io (w.completeFor ⟨r.fn, r.sq, r.tag⟩ .ok (r.count + 0)) := io_completeFor w _ _ _ _ (by rw [hq]; exact nofun)
  obtain ⟨k, hd, mk, hcqe⟩ : ∃ k hd mk, w.Writes (w.completeFor ⟨r.fn, r.sq, r.tag⟩ .ok (r.count + 0))
      (.cqe r.fn k (Owner.answer ⟨r.fn, r.sq, r.tag⟩ .ok (r.count + 0)) hd mk) := writes_post w _ q hq hopen
  have hdo : doCkpRingRoom p n tail s = w.completeFor ⟨r.fn, r.sq, r.tag⟩ .ok (r.count + 0) := by
    rw [doCkpRingRoom_stopped h hh hs, ← hr1, hgo, hr1]
    rfl
  have hex := next_event hw hdo ((hcalm (setRun_calm hc p n r1)).io hio)
  have hmono : ∀ o, s.Writes w o → s.Writes (s.kept (w.completeFor ⟨r.fn, r.sq, r.tag⟩ .ok (r.count + 0))) o := fun o ho => ho.mono hio.out
  have hout : ∃ l, w.out = l ++ s.out := ⟨l, by rw [hw']; rfl⟩
  obtain ⟨l', m', a', b', d', e', hio'⟩ := hio
  rw [hr1] at hman hhead hnew
  refine ⟨_, k, hd, mk, hex, State.Writes.after hout hcqe, ?_, hmono _ hhead, ?_, ?_⟩
  · have := hmono _ hman
    rw [hio'] at this ⊢
    exact this
  · rw [hio']
    exact hnew
  · rw [hio']
    exact hrun

/-- A shard that waits for room goes into the ring, and the run stops again where its manifest does not fit. -/
theorem ckpRingRoom_goes {s : State} {p n tail : Nat} {r : CkpRun} {sh : Shard} (hc : s.Calm) (hw : s.awake = true) (ht : tail < 2 ^ 64)
    (h : s.ckpRun p n = some r) (hh : r.ask.host = true) (hs : r.stopped = true) (htodo : r.todo = [sh]) (hsl : r.slots = []) (hcl : r.colls = [])
    (hheld : r.ask.held.contains sh = false) (hfit : sh.bytes + (r.head + 2 ^ 64 - tail) % 2 ^ 64 ≤ 2 ^ r.ask.ring.log2)
    (hk : r.ask.ring.log2 ≤ 30) (hman : 2 ^ r.ask.ring.log2 < sh.bytes + (r.head + 2 ^ 64 - tail) % 2 ^ 64 + r.man.bytes) :
    ∃ t, exec (.ckpRingRoom p n tail) s = .next t ∧
      s.Writes t (.ckpShard r.fn (r.ask.ring.base + r.head % 2 ^ r.ask.ring.log2) r.ask.step sh) ∧
      s.Writes t (.head r.fn r.ask.ring.ctrl ((r.head + sh.bytes) % 2 ^ 64)) ∧
      t.ckpRun p n = some { r with tail := tail, todo := [], stored := sh :: r.stored, head := (r.head + sh.bytes) % 2 ^ 64, count := r.count + 1 } ∧
      (s.bump Fld.CKP_WRITTEN_COUNT p).Io { t with ckp := s.ckp, aon := s.aon, freeCtr := s.freeCtr } := by
  obtain ⟨r1, hr1⟩ : ∃ r1 : CkpRun, r1 = { r with tail := tail, stopped := false } := ⟨_, rfl⟩
  obtain ⟨r3, hr3⟩ : ∃ r3 : CkpRun,
    r3 = { r with tail := tail, todo := [], stored := sh :: r.stored, head := (r.head + sh.bytes) % 2 ^ 64, count := r.count + 1 } := ⟨_, rfl⟩
  obtain ⟨v, hv⟩ : ∃ v, v = (s.setRun p n r1).tick := ⟨_, rfl⟩
  have hpow : 2 ^ r.ask.ring.log2 ≤ 2 ^ 30 := Nat.pow_le_pow_right (by decide) hk
  have hused : (r1.put sh []).used = r1.used + sh.bytes := by
    have h1 : (r.head + 2 ^ 64 - tail) % 2 ^ 64 + sh.bytes < 2 ^ 64 := by omega
    have := used_add ht h1
    rw [hr1]
    exact this
  have hu1 : r1.used = (r.head + 2 ^ 64 - tail) % 2 ^ 64 := by rw [hr1]; rfl
  have hgo : (s.setRun p n r1).ckpGo p n = (v.ckpPutShard p n r1 sh []).setRun p n r3 := by
    have hrun : (s.setRun p n r1).ckpRun p n = some r1 := AMap.get?_set_same ..
    have hvrun : v.ckpRun p n = some r1 := by rw [hv]; exact hrun
    have hh1 : r1.ask.host = true := by rw [hr1]; exact hh
    have ht1 : r1.todo = [sh] := by rw [hr1]; exact htodo
    have hgo : (s.setRun p n r1).ckpGo p n = (v.ckpHost p n r1.todo).endReads p n := by
      unfold State.ckpGo
      simp only [hrun, hh1, if_true, hv]
    have hstop : ({ r1.put sh [] with todo := [], stopped := true } : CkpRun) = r3 := by
      rw [hr1, hr3, ← hs]
      rfl
    have hrun2 : (v.ckpPutShard p n r1 sh []).ckpRun p n = some (r1.put sh []) := AMap.get?_set_same ..
    have hrun3 : ((v.ckpPutShard p n r1 sh []).setRun p n r3).ckpRun p n = some r3 := AMap.get?_set_same ..
    rw [hgo, ht1, ckpHost_shard hvrun (by rw [hr1]; exact hheld) (by rw [hr1] at hu1 ⊢; rw [hu1]; exact hfit),
      ckpHost_stops hrun2 (by rw [hused, hu1, hr1]; show 2 ^ r.ask.ring.log2 < r.man.bytes + _; omega), hstop]
    exact endReads_none hrun3 (by rw [hr3]; exact hsl) (by rw [hr3]; exact hcl)
  obtain ⟨bo, hput⟩ := ckpPutShard_frame v p n r1 sh []
  have hdo : doCkpRingRoom p n tail s = (v.ckpPutShard p n r1 sh []).setRun p n r3 := by
    rw [doCkpRingRoom_stopped h hh hs, ← hr1, hgo]
  rw [hput, hv] at hdo
  refine ⟨_, next_event_own hw hdo ?_ rfl rfl, ⟨[_, _], rfl, ?_⟩, ⟨[_, _], rfl, ?_⟩, ?_, ?_⟩
  · exact ⟨hc.1, hc.2, hc.3, hc.4, hc.5, hc.6, hc.7, hc.8⟩
  · rw [hr1]; simp
  · rw [hr1]; simp
  · rw [← hr3]
    exact AMap.get?_set_same ..
  · exact ⟨[_, _], _, _, _, _, _, rfl⟩

-- The opening of a checkpoint (R503, R514) ------------------------------------------------------------------------------------------------

theorem ckpOpen_io {s t : State} (h : s.Io t) (u : Sub) (p : Nat) (a : CkpAsk) : (t.ckpOpen u p a).2 = (s.ckpOpen u p a).2 := by
  obtain ⟨_, _, _, _, _, _, rfl⟩ := h
  rfl

theorem ckpUnreadable_io {s t : State} (h : s.Io t) (k : Nat) : t.ckpUnreadable k = s.ckpUnreadable k := by
  obtain ⟨_, _, _, _, _, _, rfl⟩ := h
  rfl

theorem foldl_modColl_frame (f : Coll → Coll) (l : List Nat) (s : State) :
    ∃ cl, l.foldl (fun (b : State) c => b.modColl c f) s = { s with colls := cl } :=
  foldl_keeps (fun s t : State => ∃ cl, t = { s with colls := cl }) (fun s => ⟨s.colls, rfl⟩)
    (by rintro s t u ⟨_, rfl⟩ ⟨_, rfl⟩; exact ⟨_, rfl⟩) _ (fun _ _ => ⟨_, rfl⟩) l s

/-- Opening a checkpoint counts a read of each session of the cut, and holds the collections. -/
theorem ckpOpen_frame (s : State) (u : Sub) (p : Nat) (a : CkpAsk) :
    (∃ ss cl rg, (s.ckpOpen u p a).1 = { s with sessions := ss, colls := cl, regs := rg }) ∧
      (∀ k, ((s.ckpOpen u p a).1).ses k = (s.ses k).readsMore ((s.ckpOpen u p a).2.slots.count k)) ∧ (s.Calm → (s.ckpOpen u p a).1.Calm) := by
  obtain ⟨f, hf⟩ : ∃ f, f = fun (x : Session) => ({ x with ckpReads := x.ckpReads + 1 } : Session) := ⟨_, rfl⟩
  obtain ⟨v, hv⟩ : ∃ v, v = s.bump Fld.CKP_SKIPPED_COUNT p ((s.ckpSlots p a).2 + (s.ckpSlots p a).1.length - (s.ckpOpen u p a).2.slots.length) := ⟨_, rfl⟩
  have he : (s.ckpOpen u p a).1 = (s.ckpOpen u p a).2.colls.foldl (fun (b : State) c => b.modColl c (fun x => { x with held := x.held + 1 }))
      ((s.ckpOpen u p a).2.slots.foldl (fun (b : State) n => b.modSes n f) v) := by rw [hv, hf]; rfl
  obtain ⟨ss, hs⟩ := foldl_modSes_frame f (s.ckpOpen u p a).2.slots v
  obtain ⟨cl, hc⟩ := foldl_modColl_frame (fun x => { x with held := x.held + 1 }) (s.ckpOpen u p a).2.colls
    ((s.ckpOpen u p a).2.slots.foldl (fun (b : State) n => b.modSes n f) v)
  rw [hc] at he
  refine ⟨⟨ss, cl, v.regs, by rw [he, hs, hv]; rfl⟩, fun k => ?_, fun hcalm => ?_⟩
  · have h1 := foldl_modSes_ses f (s.ckpOpen u p a).2.slots v k
    rw [hf, iterate_readsMore, ← hf] at h1
    have hvs : v.ses k = s.ses k := by rw [hv]; rfl
    rw [he, ← hvs, ← h1]
    rfl
  · have hvc : v.Calm := by rw [hv]; exact hcalm.of_eq rfl rfl rfl rfl rfl rfl rfl rfl
    have h2 := foldl_modSes_calm (f := f) (fun _ => by rw [hf]) (s.ckpOpen u p a).2.slots hvc
    rw [he]
    exact h2.of_eq rfl rfl rfl rfl rfl rfl rfl rfl

theorem checkCkp_ring {s : State} {p : Nat} {a : CkpAsk} (hh : a.host = true) (h : s.checkCkp p a = none) : a.ring.log2 ≤ 30 := by
  unfold State.checkCkp at h
  by_cases hok : a.ring.ok = true
  · simp only [Ring.ok, Bool.and_eq_true, decide_eq_true_eq] at hok
    exact hok.1.2
  · rw [if_pos (by simp [hh, hok])] at h
    cases h

/-- CKP_WRITE to a host ring with room for all of it: the shards that the have list lacks, the manifest, HEAD, and the completion. -/
theorem ckpWrite_host {s : State} {u : Sub} {a : CkpAsk} {p n : Nat} {r : CkpRun} {l : List Shard} (hc : s.Calm) (ht : s.Takes u (.ckpWrite a))
    (hp : s.subPart u = p) (hn : a.series = n) (hh : a.host = true) (hchk : s.checkCkp p a = none) (hrun : s.ckpRun p n = none)
    (hr : r = (s.ckpOpen u p a).2) (hread : ∀ k ∈ r.slots, s.ckpUnreadable k = false) (hl : l = r.todo.filter (fun sh => !(a.held.contains sh)))
    (hroom : (l.map Shard.bytes).sum + r.man.bytes + (a.head + 2 ^ 64 - a.tail) % 2 ^ 64 ≤ 2 ^ a.ring.log2) :
    ∃ t, exec (.ckpWrite u a) s = .next t ∧ s.Posts t u .ok l.length 0 ∧
      (∀ x sh y, l = x ++ sh :: y →
        s.Writes t (.ckpShard u.fn (a.ring.base + (a.head + (x.map Shard.bytes).sum) % 2 ^ a.ring.log2) a.step sh)) ∧
      s.Writes t (.ckpManifest u.fn (a.ring.base + (a.head + (l.map Shard.bytes).sum) % 2 ^ a.ring.log2) { r.man with stamp := t.aon }) ∧
      s.Writes t (.head u.fn a.ring.ctrl ((a.head + (l.map Shard.bytes).sum + r.man.bytes) % 2 ^ 64)) ∧
      t.ckp.newest.get? (p, n) = some a.step ∧ t.ckpRun p n = none ∧
      (∀ k, { t.ses k with ckpStep := (s.ses k).ckpStep } = s.ses k) ∧
      s.Io { t with ckp := s.ckp, sessions := s.sessions, colls := s.colls, regs := s.regs, qry := s.qry, tiles := s.tiles,
                    nextSeq := s.nextSeq, aon := s.aon, freeCtr := s.freeCtr } := by
  subst hn
  have hq : u.sq ≠ none := by
    obtain ⟨q, _, _, hq, _⟩ := ht.queue
    rw [hq]; exact nofun
  obtain ⟨w, t, hex, hpost, ⟨s', hs', hend⟩, hio⟩ := host_done (st := .ok) (r := l.length) (n := 0)
    (P := fun w => ∃ s', s.Io s' ∧ ((s'.ckpOpen u p a).1.setRun p a.series r).CkpEnds p a.series r l w) ht rfl rfl (fun s' _ hs' => by
    have hp' : s'.subPart u = p := (subPart_io hs' u).trans hp
    have hr' : (s'.ckpOpen u p a).2 = r := (ckpOpen_io hs' u p a).trans hr.symm
    obtain ⟨⟨ss, cl, rg, ho⟩, hses, hcalm⟩ := ckpOpen_frame s' u p a
    obtain ⟨w, hgo, hend⟩ := ckpGo_host (s := (s'.ckpOpen u p a).1.setRun p a.series r) (p := p) (n := a.series) (r := r) (l := l)
      (AMap.get?_set_same ..) (by rw [hr]; exact hh) (by rw [hr]; exact hq)
      (fun _ => by rw [hr]; exact Nat.le_trans (checkCkp_ring hh hchk) (by decide)) (by rw [hl, hr]; rfl) (by rw [hr] at hroom ⊢; exact hroom)
    obtain ⟨_, _, _, _, _, _, _, _, _, _, _, lo, hfr⟩ := hend.frame
    refine ⟨w, ?_, ?_, ?_, ⟨lo, ?_⟩, hend.calm (setRun_calm (hcalm (hc.io hs')) _ _ _), s', hs', hend⟩
    · show doCkpWrite u a s' = _
      have hany : (s'.ckpOpen u p a).2.slots.any (fun n => s'.ckpUnreadable n) = false := by
        rw [List.any_eq_false, hr']
        exact fun k hk => by rw [ckpUnreadable_io hs', hread k hk]; exact Bool.false_ne_true
      rw [← hp'] at hgo hany
      rw [doCkpWrite_starts (by rw [hp', checkCkp_io hs', hchk]) (by rw [hp', ckpRun_io hs', hrun]) hany]
      rw [show (s'.ckpOpen u (s'.subPart u) a).2 = r by rw [hp', hr'], hgo, hr]
      show w.completeFor _ .ok (0 + l.length) = _
      rw [Nat.zero_add]
      rfl
    · rw [hend.queues.1, ho]; rfl
    · rw [hend.queues.2, ho]; rfl
    · rw [hfr, ho]; rfl)
  obtain ⟨⟨ss, cl, rg, ho⟩, hses, -⟩ := ckpOpen_frame s' u p a
  rw [ckpOpen_io hs' u p a, ← hr] at hses
  have hfn : r.fn = u.fn := by rw [hr]; rfl
  have hask : r.ask = a := by rw [hr]; rfl
  have hhd : r.head = a.head := by rw [hr]; rfl
  have hstep : r.man.step = a.step := by rw [hr]; rfl
  obtain ⟨hsh, hman, hhead, hnew, hnone, hends, -, -, c, ss', cl', rg', qy, x', nb, g, f, b', pm, lo, hfr⟩ := hend
  rw [hfn, hask, hhd] at hsh hman hhead
  have hsame : ∀ k, { w.ses k with ckpStep := (s.ses k).ckpStep } = s.ses k := by
    intro k
    obtain ⟨c, hk⟩ := hends k
    have h1 : ((s'.ckpOpen u p a).1.setRun p a.series r).ses k = (s'.ses k).readsMore (r.slots.count k) := hses k
    have h2 : s'.ses k = s.ses k := by obtain ⟨_, _, _, _, _, _, rfl⟩ := hs'; rfl
    rw [hk, h1, readsLess_readsMore, h2]
  have hv : ((s'.ckpOpen u p a).1.setRun p a.series r).out = s'.out := by rw [ho]; rfl
  have hmono : ∀ o, ((s'.ckpOpen u p a).1.setRun p a.series r).Writes w o → s.Writes (s.kept t) o := by
    intro o how
    obtain ⟨l1, h1, hm⟩ := how.mono hio.out
    rw [hv] at h1
    exact State.Writes.after hs'.out ⟨l1, h1, hm⟩
  obtain ⟨l1, m1, a1, b1, d1, e1, hio'⟩ := hio
  refine ⟨_, hex, hpost, fun x sh y hx => hmono _ (hsh x sh y hx), ?_, hmono _ hhead, ?_, ?_, fun k => ?_, ?_⟩
  · have := hmono _ hman
    rw [hio'] at this ⊢
    exact this
  · rw [hio', ← hstep]
    exact hnew
  · rw [hio']
    exact hnone
  · rw [hio']
    exact hsame k
  · obtain ⟨l0, m0, a0, b0, d0, e0, rfl⟩ := hs'
    rw [hio', hfr, ho]
    refine ⟨l1 ++ (lo ++ l0), m1, a1, b1, d1, e1, ?_⟩
    simp only [List.append_assoc]
    rfl

end Sys2Proof.Machine
end

section
/-!
PROOFS. A checkpoint to the quarry from its start, and the obligation on checkpoints (R511, R512, O53).
-/

namespace Sys2Proof.Machine

open Sys2Proof

/-- Each session entry of a manifest is of a session that the checkpoint does not skip (R502, R514). -/
theorem ckpOpen_entry {s : State} {u : Sub} {p : Nat} {a : CkpAsk} {e : ManSes} (h : e ∈ (s.ckpOpen u p a).2.man.sessions) :
    ∃ k, s.ckpSkips k = false ∧ e.handle = s.handleOf k ∧ e.nextPos = (s.ses k).nextPos ∧ e.logCount = (s.ses k).log.length := by
  obtain ⟨k, hk, rfl⟩ := List.mem_map.1 h
  exact ⟨k, by simpa using (List.mem_filter.1 hk).2, rfl, rfl, rfl⟩

-- A checkpoint of weights alone ------------------------------------------------------------------------------------------------------------

theorem scope_weights {x : Nat} (h : x % 16 = 4) : bitOf x 0 = false ∧ bitOf x 1 = false ∧ bitOf x 3 = false := by
  unfold bitOf
  refine ⟨?_, ?_, ?_⟩ <;> · rw [beq_eq_false_iff_ne]; omega

/-- A checkpoint of weights alone reads no session and no collection, and counts none as skipped. -/
theorem ckpOpen_weights (s : State) (u : Sub) (p : Nat) {a : CkpAsk} (h : a.scope % 16 = 4) :
    (s.ckpOpen u p a).1 = s.bump Fld.CKP_SKIPPED_COUNT p 0 ∧ (s.ckpOpen u p a).2.slots = [] ∧ (s.ckpOpen u p a).2.colls = [] := by
  obtain ⟨h0, h1, h3⟩ := scope_weights h
  have hs : s.ckpSlots p a = ([], 0) := by
    unfold State.ckpSlots
    rw [h0, h1]
    rfl
  unfold State.ckpOpen
  simp only [hs, h3]
  exact ⟨rfl, rfl, rfl⟩

theorem fld_skipped (s : State) (p n i : Nat) {g : Field} (hg : g.hi < 64) (hc : g.cls ≠ .ckpSkipped) :
    (s.bump Fld.CKP_SKIPPED_COUNT p n).fld g i = s.fld g i :=
  fld_setFld_other s _ _ _ _ _ _ _ (by decide) hg (.inl fun h => hc (congrArg Reg.cls h))

/-- Counting skipped sessions does not touch what the quarry's refusal and the bond counter read. -/
theorem ckpRefuses_skipped (s : State) (p n q k : Nat) : (s.bump Fld.CKP_SKIPPED_COUNT p n).ckpRefuses q k = s.ckpRefuses q k := by
  have h1 : (s.bump Fld.CKP_SKIPPED_COUNT p n).qryRoom q k = s.qryRoom q k := by
    unfold State.qryRoom State.qryQuota
    rw [fld_skipped s p n q (by decide) (by decide)]
    rfl
  have h2 : (s.bump Fld.CKP_SKIPPED_COUNT p n).govTakes q (tileBytes * k) = s.govTakes q (tileBytes * k) := by
    unfold State.govTakes
    rw [fld_skipped s p n 0 (by decide) (by decide)]
    rfl
  unfold State.ckpRefuses
  rw [h1, h2]
  rfl

theorem nextBond_skipped (s : State) (p n q : Nat) : (s.bump Fld.CKP_SKIPPED_COUNT p n).nextBond q = s.nextBond q :=
  fld_skipped s p n q (by decide) (by decide)

/-- Closing a run whose reads have ended only frees its series. -/
theorem closeRun_idle {s : State} {p n : Nat} {r : CkpRun} (h : s.ckpRun p n = some r) (h1 : r.slots = []) (h2 : r.colls = []) :
    s.closeRun p n = { s with ckp := { s.ckp with runs := s.ckp.runs.erase (p, n) } } := by
  have hr : (s.setRun p n { r with todo := [] }).ckpRun p n = some { r with todo := [] } := AMap.get?_set_same ..
  unfold State.closeRun
  simp only [h]
  rw [endReads_none hr h1 h2]
  simp only [State.setRun, AMap.erase_set']

/-- The first shard that no index entry holds is the next to program (R511, R512). -/
theorem ckpGo_stage {s : State} {p n : Nat} {r : CkpRun} {sh : Shard} {l : List Shard} (h : s.ckpRun p n = some r) (hh : r.ask.host = false)
    (ht : r.todo = sh :: l) (hsh : s.shardAt p sh = none) :
    s.ckpGo p n = (s.ckpStage p n .shard r sh.frames).endReads p n := by
  have hr : s.setRun p n { r with todo := sh :: l } = s := by
    rw [← ht]
    unfold State.setRun
    rw [AMap.set_get?_self h]
  unfold State.ckpGo
  simp only [h, hh, ht]
  rw [if_neg Bool.false_ne_true, State.ckpQuarry]
  simp only [h, hsh]
  rw [hr]

/-- A write to the quarry ends where the quarry refuses the frames of its first shard. -/
theorem ckpStage_refused {s : State} {p n frames : Nat} {r : CkpRun} {st : Status} (h : s.ckpRun p n = some r) (h1 : r.slots = []) (h2 : r.colls = [])
    (h3 : r.holds = []) (hr : s.ckpRefuses p frames = some st)
    (hb : ∀ b ∈ s.bonds, b.part = p → b.kind ≠ .shard ∧ b.kind ≠ .manifest) :
    s.ckpStage p n .shard r frames =
      ({ s with ckp := { s.ckp with runs := s.ckp.runs.erase (p, n) } } : State).completeFor ⟨r.fn, r.sq, r.tag⟩ st r.count := by
  have hbond : s.ckpBond p n = none := by
    refine List.find?_eq_none.2 fun b hm => ?_
    by_cases hp : b.part = p
    · obtain ⟨g1, g2⟩ := hb b hm hp
      simp [g1, g2]
    · simp [hp]
  unfold State.ckpStage State.ckpFail
  simp only [hr, h, hbond, h3, List.isEmpty_nil, if_true]
  rw [closeRun_idle h h1 h2]

/-- A write to the quarry opens a bond for its first shard, with the frames staged. -/
theorem ckpStage_opens {s v : State} {p n frames : Nat} {r : CkpRun} {fs : List Nat} (hn : s.bondOf p (s.nextBond p) = none)
    (hr : s.ckpRefuses p frames = none) (hst : s.qStages p .tile (s.nextBond p) frames = some (fs, v)) :
    ∃ b nb rg, s.ckpStage p n .shard r frames = { s with
        bonds := s.bonds ++ [b], nextSeq := nb, regs := rg, freeCtr := v.freeCtr,
        qry := { v.qry with used := s.qry.used.set p (s.govUsed p + 18432 * frames), logBytes := s.qry.logBytes + 18432 * frames } } ∧
      b.id = s.nextBond p ∧ b.part = p ∧ b.kind = .shard ∧ b.arg = n ∧
      b.actions = [act .checkpoint n (Config.freeValue 84 b.id), actList .quarryMap fs] := by
  obtain ⟨b, nb, rg, ho, hid, hk, -, hp, harg, -, -⟩ := openBond_spec s p .shard noSlot (some ⟨r.fn, r.sq, r.tag⟩) true n
  obtain ⟨-, stg, fc, hv⟩ := qStages_spec frames hst
  refine ⟨{ b with actions := [act .checkpoint n (Config.freeValue 84 b.id), actList .quarryMap fs] }, nb, rg, ?_, hid, hp, hk, harg, rfl⟩
  unfold State.ckpStage
  rw [hr]
  dsimp only
  rw [ho]
  dsimp only
  rw [qStages_of_eq (t := { s with nextSeq := nb, regs := rg, bonds := s.bonds ++ [b] }) hst rfl rfl]
  dsimp only
  rw [stageActs_append (l := s.bonds) (b := b) rfl hp hid hn, ← hid, hv]
  rfl

-- CKP_WRITE of weights to the quarry -------------------------------------------------------------------------------------------------------

section Weights

variable {s : State} {u : Sub} {a : CkpAsk} {p n : Nat} {r : CkpRun} {sh : Shard} {l : List Shard}

/-- What a write of weights to the quarry does as it starts: it stages its first shard. -/
theorem doCkpWrite_weights (hp : s.subPart u = p) (hn : a.series = n) (hh : a.host = false) (hsc : a.scope % 16 = 4)
    (hchk : s.checkCkp p a = none) (hrun : s.ckpRun p n = none) (hr : r = (s.ckpOpen u p a).2) (ht : r.todo = sh :: l)
    (hsh : s.shardAt p sh = none) :
    doCkpWrite u a s = (((s.bump Fld.CKP_SKIPPED_COUNT p 0).setRun p n r).ckpStage p n .shard r sh.frames).endReads p n := by
  subst hp hn
  obtain ⟨ho, hsl, hcl⟩ := ckpOpen_weights s u (s.subPart u) hsc
  rw [doCkpWrite_starts hchk hrun (by rw [hsl]; rfl), ← hr, ho]
  exact ckpGo_stage (AMap.get?_set_same ..) (by rw [hr]; exact hh) ht hsh

theorem ckpWrite_full {st : Status} (hc : s.Calm) (htk : s.Takes u (.ckpWrite a)) (hp : s.subPart u = p) (hn : a.series = n) (hh : a.host = false)
    (hsc : a.scope % 16 = 4) (hchk : s.checkCkp p a = none) (hrun : s.ckpRun p n = none) (hr : r = (s.ckpOpen u p a).2) (ht : r.todo = sh :: l)
    (hsh : s.shardAt p sh = none) (href : s.ckpRefuses p sh.frames = some st)
    (hb : ∀ b ∈ s.bonds, b.part = p → b.kind ≠ .shard ∧ b.kind ≠ .manifest) :
    ∃ t, exec (.ckpWrite u a) s = .next t ∧ s.Posts t u st 0 0 ∧ t.ckpRun p n = none ∧
      (s.bump Fld.CKP_SKIPPED_COUNT p 0).Io { t with ckp := s.ckp } := by
  have hq : u.sq ≠ none := by
    obtain ⟨q, _, _, hq, _⟩ := htk.queue
    rw [hq]; exact nofun
  obtain ⟨-, hsl, hcl⟩ := ckpOpen_weights s u p hsc
  rw [← hr] at hsl hcl
  obtain ⟨s', t, hex, hpost, hs', hio⟩ := host_acts (st := st) (r := 0) (n := 0) (fun v : State =>
    { (v.bump Fld.CKP_SKIPPED_COUNT p 0) with ckp := { v.ckp with runs := (v.ckp.runs.set (p, n) r).erase (p, n) } }) htk rfl rfl (fun v hv => by
    refine ⟨?_, rfl, rfl, ⟨[], rfl⟩, ?_⟩
    · show doCkpWrite u a v = _
      have hsh' : v.shardAt p sh = none := by obtain ⟨_, _, _, _, _, _, rfl⟩ := hv; exact hsh
      have hbo : v.bonds = s.bonds := by obtain ⟨_, _, _, _, _, _, rfl⟩ := hv; rfl
      have href' : v.ckpRefuses p sh.frames = some st := by obtain ⟨_, _, _, _, _, _, rfl⟩ := hv; exact href
      have hrun' : ((v.bump Fld.CKP_SKIPPED_COUNT p 0).setRun p n r).ckpRun p n = some r := AMap.get?_set_same ..
      have hrefr : ((v.bump Fld.CKP_SKIPPED_COUNT p 0).setRun p n r).ckpRefuses p sh.frames = some st :=
        (ckpRefuses_skipped v p 0 p sh.frames).trans href'
      rw [doCkpWrite_weights ((subPart_io hv u).trans hp) hn hh hsc (by rw [checkCkp_io hv, hchk]) (by rw [ckpRun_io hv, hrun])
        (hr.trans (ckpOpen_io hv u p a).symm) ht hsh',
        ckpStage_refused hrun' hsl hcl (by rw [hr]; rfl) hrefr (by intro b hm; exact hb b (hbo ▸ hm))]
      refine (endReads_closed ?_).trans ?_
      · exact (ckpRun_io (io_completeFor _ _ _ _ _ (by rw [hr]; exact hq)) p n).trans (AMap.get?_erase_same ..)
      · rw [hr]
        rfl
    · obtain ⟨h1, h2, h3, h4, h5, h6, h7, h8⟩ := hc.io hv
      exact ⟨h1, h2, h3, h4, h5, h6, h7, h8⟩)
  obtain ⟨_, _, _, _, _, _, rfl⟩ := hs'
  obtain ⟨_, _, _, _, _, _, rfl⟩ := hio
  exact ⟨_, hex, hpost, AMap.get?_erase_same .., io_of_twice rfl⟩

theorem ckpWrite_opens {fs : List Nat} {v : State} (hc : s.Calm) (htk : s.Takes u (.ckpWrite a)) (hp : s.subPart u = p) (hn : a.series = n)
    (hh : a.host = false) (hsc : a.scope % 16 = 4) (hchk : s.checkCkp p a = none) (hrun : s.ckpRun p n = none) (hr : r = (s.ckpOpen u p a).2)
    (ht : r.todo = sh :: l) (hsh : s.shardAt p sh = none) (hb : s.bondOf p (s.nextBond p) = none) (href : s.ckpRefuses p sh.frames = none)
    (hst : s.qStages p .tile (s.nextBond p) sh.frames = some (fs, v)) :
    ∃ t b, exec (.ckpWrite u a) s = .next t ∧ t.ckpRun p n = some r ∧ t.qry.staged = v.qry.staged ∧ t.bonds = s.bonds ++ [b] ∧
      b.id = s.nextBond p ∧ b.part = p ∧ b.kind = .shard ∧ b.arg = n ∧
      b.actions = [act .checkpoint n (Config.freeValue 84 b.id), actList .quarryMap fs] ∧ t.govUsed p = s.govUsed p + 18432 * sh.frames ∧
      s.Io { t with ckp := s.ckp, bonds := s.bonds, qry := s.qry, regs := s.regs, nextSeq := s.nextSeq, freeCtr := s.freeCtr } := by
  obtain ⟨-, hsl, hcl⟩ := ckpOpen_weights s u p hsc
  rw [← hr] at hsl hcl
  obtain ⟨t, hex, s', b, nb, rg, hs', ht', hid, hpt, hk, harg, hact⟩ := host_stays (P := fun t => ∃ s' b nb rg, s.Io s' ∧
      t = { s' with
        bonds := s'.bonds ++ [b], nextSeq := nb, regs := rg, freeCtr := v.freeCtr, ckp := { s'.ckp with runs := s'.ckp.runs.set (p, n) r },
        qry := { v.qry with used := s'.qry.used.set p (s'.govUsed p + 18432 * sh.frames), logBytes := s'.qry.logBytes + 18432 * sh.frames } } ∧
      b.id = s.nextBond p ∧ b.part = p ∧ b.kind = .shard ∧ b.arg = n ∧
      b.actions = [act .checkpoint n (Config.freeValue 84 b.id), actList .quarryMap fs]) htk rfl rfl (fun s' hs' => by
    have hsh' : s'.shardAt p sh = none := by obtain ⟨_, _, _, _, _, _, rfl⟩ := hs'; exact hsh
    have hnb : ((s'.bump Fld.CKP_SKIPPED_COUNT p 0).setRun p n r).nextBond p = s.nextBond p := by
      refine (nextBond_skipped s' p 0 p).trans ?_
      obtain ⟨_, _, _, _, _, _, rfl⟩ := hs'
      rfl
    have hb' : ((s'.bump Fld.CKP_SKIPPED_COUNT p 0).setRun p n r).bondOf p (s.nextBond p) = none := by
      obtain ⟨_, _, _, _, _, _, rfl⟩ := hs'; exact hb
    have href' : ((s'.bump Fld.CKP_SKIPPED_COUNT p 0).setRun p n r).ckpRefuses p sh.frames = none := by
      refine (ckpRefuses_skipped s' p 0 p sh.frames).trans ?_
      obtain ⟨_, _, _, _, _, _, rfl⟩ := hs'
      exact href
    have hq : ((s'.bump Fld.CKP_SKIPPED_COUNT p 0).setRun p n r).qry = s.qry := by obtain ⟨_, _, _, _, _, _, rfl⟩ := hs'; rfl
    have hfc : ((s'.bump Fld.CKP_SKIPPED_COUNT p 0).setRun p n r).freeCtr = s.freeCtr := by obtain ⟨_, _, _, _, _, _, rfl⟩ := hs'; rfl
    obtain ⟨b, nb, rg, hstage, hid, hpt, hk, harg, hact⟩ := ckpStage_opens (n := n) (r := r) (by rw [hnb]; exact hb') href'
      (by rw [hnb]; exact qStages_of_eq hst hq hfc)
    have hdo : s'.startHost u (.ckpWrite a) = { s' with
        bonds := s'.bonds ++ [b], nextSeq := nb, regs := rg, freeCtr := v.freeCtr, ckp := { s'.ckp with runs := s'.ckp.runs.set (p, n) r },
        qry := { v.qry with used := s'.qry.used.set p (s'.govUsed p + 18432 * sh.frames), logBytes := s'.qry.logBytes + 18432 * sh.frames } } := by
      show doCkpWrite u a s' = _
      rw [doCkpWrite_weights ((subPart_io hs' u).trans hp) hn hh hsc (by rw [checkCkp_io hs', hchk]) (by rw [ckpRun_io hs', hrun])
        (hr.trans (ckpOpen_io hs' u p a).symm) ht hsh', hstage]
      exact endReads_none (r := r) (AMap.get?_set_same ..) hsl hcl
    rw [hdo]
    obtain ⟨h1, h2, h3, h4, h5, h6, h7, h8⟩ := hc.io hs'
    exact ⟨⟨h1, h2, h3, h4, h5, h6, h7, h8⟩, s', b, nb, rg, hs', rfl, hid.trans hnb, hpt, hk, harg, hact⟩)
  obtain ⟨l0, m0, a0, b0, d0, e0, rfl⟩ := hs'
  refine ⟨_, b, hex, ?_, ?_, ?_, hid, hpt, hk, harg, hact, ?_, l0, m0, a0, b0, d0, e0, ?_⟩
  · rw [ht']; exact AMap.get?_set_same ..
  · rw [ht']; rfl
  · rw [ht']; rfl
  · rw [ht']
    show AMap.getD (AMap.set _ _ _) _ _ = _
    rw [AMap.getD_set, if_pos rfl]
    rfl
  · rw [ht']; rfl

end Weights

/-- Settles O53: the refusals in the model's order, the waiting write, the host ring shard by shard and its end, the quarry's first shard, and
the release of a manifest. -/
theorem checkpoints : Obligations.Checkpoints := by
  unfold Obligations.Checkpoints
  intro s p n hc
  refine ⟨fun u a st ht hp hn h => ?_, fun u a r ht hp hn hchk hr => ?_, fun u a r l ht hp hn hh hchk hrun hr hread hl hroom => ?_,
    fun u a e _ he => ckpOpen_entry he, fun tail q r hw h hh hs htodo _ _ hroom hq ho => ?_,
    fun tail r sh hw ht h hh hs htodo hsl hcl hheld hfit hk hman => ?_, fun tail hw h => ckpRingRoom_other hc hw h,
    fun u a r sh l ht hp hn hh hsc hchk hrun hr htodo hsh => ⟨fun st href hb => ?_, fun fs v hb href hst => ?_⟩,
    fun u step ht hp h => ?_, fun u m ht hp h => ?_⟩
  · subst hp hn
    exact ckpWrite_refused hc ht (checkCkp_refused h)
  · subst hp hn
    exact ckpWrite_waits hc ht hchk hr
  · exact ckpWrite_host hc ht hp hn hh hchk hrun hr hread hl hroom
  · exact ckpRingRoom_ends hc hw h hh hs htodo hroom hq ho
  · exact ckpRingRoom_goes hc hw ht h hh hs htodo hsl hcl hheld hfit hk hman
  · exact ckpWrite_full hc ht hp hn hh hsc hchk hrun hr htodo hsh href hb
  · exact ckpWrite_opens hc ht hp hn hh hsc hchk hrun hr htodo hsh hb href hst
  · subst hp
    exact ckpRelease_unknown hc ht h
  · exact ckpRelease_only hc ht hp h

end Sys2Proof.Machine
end

section
/-!
PROOFS. Restores: the refusals, what makes a shard unusable, and weight sets (R519 to R523, R526).
-/

namespace Sys2Proof.Machine

open Sys2Proof

-- The refusals (R519, R520 orders 1 and 2) ------------------------------------------------------------------------------------------------

theorem restoreMan_io {s t : State} (h : s.Io t) (p : Nat) (a : CkpRestoreAsk) : t.restoreMan p a = s.restoreMan p a := by
  obtain ⟨_, _, _, _, _, _, rfl⟩ := h
  rfl

theorem ckpKey_io {s t : State} (h : s.Io t) (p : Nat) : t.ckpKey p = s.ckpKey p := by
  obtain ⟨_, _, _, _, _, _, rfl⟩ := h
  rfl

/-- The order in which a restore's manifest is refused. -/
theorem restoreMan_refused {s : State} {p : Nat} {a : CkpRestoreAsk} {st : Status}
    (h : a.host = true ∧ a.man = none ∧ st = .configCkpManifest ∨ a.host = true ∧ a.man ≠ none ∧ a.sigOk = false ∧ st = .securityCkpSignature ∨
      a.host = false ∧ s.qry.mounted = false ∧ st = .mediaQuarryDown ∨
      a.host = false ∧ s.qry.mounted = true ∧ (∀ m ∈ s.ckp.mans.getD (p, a.series) [], a.step ≠ 0 ∧ m.1.step ≠ a.step) ∧ st = .configCkpUnknown) :
    s.restoreMan p a = .error st := by
  unfold State.restoreMan
  rcases h with ⟨h1, h2, rfl⟩ | ⟨h1, h2, h3, rfl⟩ | ⟨h1, h2, rfl⟩ | ⟨h1, h2, h3, rfl⟩
  · rw [if_pos h1, h2]
  · obtain ⟨m, hm⟩ := Option.ne_none_iff_exists'.1 h2
    rw [if_pos h1, hm]
    exact if_neg (by rw [h3]; exact Bool.false_ne_true)
  · rw [if_neg (by simp [h1]), if_pos (by simp [h2])]
  · rw [if_neg (by simp [h1]), if_neg (by simp [h2]), List.find?_eq_none.2 (fun m hm => by simpa using h3 m hm)]

theorem doCkpRestore_refused {s : State} {u : Sub} {a : CkpRestoreAsk} {st : Status} (h : s.restoreMan (s.subPart u) a = .error st) :
    doCkpRestore u a s = s.complete u st := by
  unfold doCkpRestore
  simp only [h]

theorem doCkpRestore_keyless {s : State} {u : Sub} {a : CkpRestoreAsk} {m : Manifest} (h : s.restoreMan (s.subPart u) a = .ok m)
    (hk : s.ckpKey (s.subPart u) = false) : doCkpRestore u a s = s.complete u .securityCkpKey := by
  unfold doCkpRestore
  simp only [h, hk]
  rfl

theorem ckpRestore_refused {s : State} {u : Sub} {a : CkpRestoreAsk} {st : Status} (hc : s.Calm) (ht : s.Takes u (.ckpRestore a))
    (h : a.host = true ∧ a.man = none ∧ st = .configCkpManifest ∨ a.host = true ∧ a.man ≠ none ∧ a.sigOk = false ∧ st = .securityCkpSignature ∨
      a.host = false ∧ s.qry.mounted = false ∧ st = .mediaQuarryDown ∨
      a.host = false ∧ s.qry.mounted = true ∧
        (∀ m ∈ s.ckp.mans.getD (s.subPart u, a.series) [], a.step ≠ 0 ∧ m.1.step ≠ a.step) ∧ st = .configCkpUnknown ∨
      (∃ m, s.restoreMan (s.subPart u) a = .ok m) ∧ s.ckpKey (s.subPart u) = false ∧ st = .securityCkpKey) :
    ∃ t, exec (.ckpRestore u a) s = .next t ∧ s.Posts t u st 0 0 ∧ s.Io t := by
  refine host_refuses hc ht rfl rfl fun s' hs' => ?_
  show doCkpRestore u a s' = _
  rcases h with h | h | h | h | ⟨⟨m, hm⟩, hk, rfl⟩
  · exact doCkpRestore_refused (by rw [subPart_io hs', restoreMan_io hs', restoreMan_refused (.inl h)])
  · exact doCkpRestore_refused (by rw [subPart_io hs', restoreMan_io hs', restoreMan_refused (.inr (.inl h))])
  · exact doCkpRestore_refused (by rw [subPart_io hs', restoreMan_io hs', restoreMan_refused (.inr (.inr (.inl h)))])
  · exact doCkpRestore_refused (by rw [subPart_io hs', restoreMan_io hs', restoreMan_refused (.inr (.inr (.inr h)))])
  · exact doCkpRestore_keyless (m := m) (by rw [subPart_io hs', restoreMan_io hs', hm]) (by rw [subPart_io hs', ckpKey_io hs', hk])

-- Shards that cannot be used (R521, R523) ------------------------------------------------------------------------------------------------------

theorem shardBad_host (s : State) {r : Reading} (h : r.ask.host = true) (sh : Shard) :
    s.shardBad r sh = if sh ∈ r.ask.table then 0 else 6 := by
  unfold State.shardBad
  rw [if_pos h]
  simp only [List.contains_iff_mem]

theorem unreadable_entry {s : State} {f : Nat} (h : s.unreadable f = true) {e : QMap} (he : s.qry.map.get? f = some e) :
    e.bad = true ∨ e.key ≠ s.epochOf e.owner := by
  unfold State.unreadable State.shut at h
  simp only [he] at h
  simpa using h

theorem shardBad_quarry {s : State} {r : Reading} (h : r.ask.host = false) {sh : Shard} (h7 : s.shardBad r sh = 7) :
    ∃ x ∈ s.ckp.index.getD r.part [], x.shard = sh ∧
      (x.bad = true ∨ ∃ f ∈ x.frames, ∀ e, s.qry.map.get? f = some e → e.bad = true ∨ e.key ≠ s.epochOf e.owner) := by
  unfold State.shardBad at h7
  rw [if_neg (by simp [h])] at h7
  cases hf : (s.ckp.index.getD r.part []).find? (fun x => x.shard == sh) with
  | none => rw [hf] at h7; cases h7
  | some x =>
    rw [hf] at h7
    refine ⟨x, List.mem_of_find?_eq_some hf, by simpa using List.find?_some hf, ?_⟩
    have hbad : (x.bad || x.frames.any (fun f => s.unreadable f)) = true := by
      by_contra hn
      dsimp only at h7
      rw [if_neg hn] at h7
      cases h7
    rcases Bool.or_eq_true_iff.1 hbad with hb | hb
    · exact .inl hb
    · obtain ⟨f, hm, hu⟩ := List.any_eq_true.1 hb
      exact .inr ⟨f, hm, fun e he => unreadable_entry hu he⟩

theorem shardBad_io {s t : State} (h : s.Io t) (r : Reading) (sh : Shard) : t.shardBad r sh = s.shardBad r sh := by
  obtain ⟨_, _, _, _, _, _, rfl⟩ := h
  rfl

theorem firstBad_none {s : State} {r : Reading} : ∀ {l : List Shard}, (∀ sh ∈ l, s.shardBad r sh = 0) → s.firstBad r l = none
  | [], _ => rfl
  | sh :: l, h => by
    rw [State.firstBad, if_pos (h sh (List.mem_cons_self ..))]
    exact firstBad_none fun x hx => h x (List.mem_cons_of_mem _ hx)

theorem firstBad_some {s : State} {r : Reading} {sh : Shard} {y : List Shard} (hb : s.shardBad r sh ≠ 0) :
    ∀ {x : List Shard}, (∀ z ∈ x, s.shardBad r z = 0) → s.firstBad r (x ++ sh :: y) = some (s.shardBad r sh, sh)
  | [], _ => by rw [List.nil_append, State.firstBad, if_neg hb]
  | z :: x, h => by
    rw [List.cons_append, State.firstBad, if_pos (h z (List.mem_cons_self ..))]
    exact firstBad_some hb fun w hw => h w (List.mem_cons_of_mem _ hw)

/-- An object whose shards all check is read, and none is counted. -/
theorem readObj_sound {s : State} {r : Reading} {l : List Shard} (h : ∀ sh ∈ l, s.shardBad r sh = 0) :
    s.readObj r l = (none, s.bump Fld.CKP_DIGEST_FAILS_COUNT r.part 0) := by
  have hf : l.filter (fun sh => s.shardBad r sh == 6) = [] := List.filter_eq_nil_iff.2 fun sh hm => by rw [h sh hm]; decide
  unfold State.readObj
  dsimp only
  rw [hf, firstBad_none h]
  rfl

/-- An object with a shard that does not check fails by the first of them. -/
theorem readObj_bad {s : State} {r : Reading} {x y : List Shard} {sh : Shard} (hb : s.shardBad r sh ≠ 0) (h : ∀ z ∈ x, s.shardBad r z = 0) :
    ∃ n, s.readObj r (x ++ sh :: y) = (some (RestoreRes.fail (s.shardBad r sh) (r.indexOf sh)), s.bump Fld.CKP_DIGEST_FAILS_COUNT r.part n) := by
  refine ⟨((x ++ sh :: y).filter (fun z => s.shardBad r z == 6)).length, ?_⟩
  unfold State.readObj
  dsimp only
  rw [firstBad_some hb h]

-- A manifest of one object ---------------------------------------------------------------------------------------------------------------------

theorem eraseDups_filterMap_const {α β : Type} [BEq β] [LawfulBEq β] {g : α → Option β} {k : β} {l : List α} (hne : l ≠ [])
    (h : ∀ x ∈ l, g x = some k) : (l.filterMap g).eraseDups = [k] := by
  cases l with
  | nil => exact absurd rfl hne
  | cons x l =>
    rw [List.filterMap_cons_some (h x (List.mem_cons_self ..)), List.eraseDups_cons, List.filter_eq_nil_iff.2, List.eraseDups_nil]
    intro y hy
    obtain ⟨z, hz, hzy⟩ := List.mem_filterMap.1 hy
    have : y = k := by
      have := (h z (List.mem_cons_of_mem _ hz)).symm.trans hzy
      exact (Option.some.inj this).symm
    simp [this]

theorem filterMap_none {α β : Type} {g : α → Option β} {l : List α} (h : ∀ x ∈ l, g x = none) : l.filterMap g = [] :=
  List.filterMap_eq_nil_iff.2 h

/-- How a restore of one object ends: with its result in the list, and OK or the status of a failed object. -/
def State.restoredOne (v : State) (u : Sub) (x : RestoreRes) : State :=
  (v.buf u.fn (.restored [x])).complete u (if x.reason = 0 then .ok else .stateLostCkpCoverage) (if x.reason = 0 then 1 else 2 ^ 32)

theorem restored_one (v : State) (u : Sub) (x : RestoreRes) :
    (v.buf u.fn (.restored [x])).complete u (if ([x].filter (fun x => x.reason != 0)).length = 0 then .ok else .stateLostCkpCoverage)
      ([x].length - ([x].filter (fun x => x.reason != 0)).length + 2 ^ 32 * ([x].filter (fun x => x.reason != 0)).length) = v.restoredOne u x := by
  unfold State.restoredOne
  by_cases h : x.reason = 0
  · simp [h]
  · simp [h]

theorem shardsOf_all {r : Reading} {o : ShardObj} (h : ∀ sh ∈ r.man.shards, sh.object = o) : r.shardsOf o = r.man.shards :=
  List.filter_eq_self.2 fun sh hm => by simp [h sh hm]

/-- A restore of one weight set alone. -/
theorem doCkpRestore_weights {s : State} {u : Sub} {a : CkpRestoreAsk} {p : Nat} {m : Manifest} {key : Word64} (hp : s.subPart u = p)
    (hm : s.restoreMan p a = .ok m) (hk : s.ckpKey p = true) (hs : m.sessions = []) (hx : m.prefixes = []) (hne : m.shards ≠ [])
    (ho : ∀ sh ∈ m.shards, sh.object = .image key) :
    doCkpRestore u a s = (s.restoreWeights ⟨a, p, m⟩ key).2.restoredOne u (s.restoreWeights ⟨a, p, m⟩ key).1 := by
  unfold doCkpRestore
  simp only [hp, hm, hk, hs, hx, State.restorePfxs, State.restoreSess]
  rw [eraseDups_filterMap_const (k := key) hne (fun sh hm => by simp only [ho sh hm]), filterMap_none (fun sh hm => by simp only [ho sh hm])]
  exact restored_one _ u _

-- Weight sets (R526) ---------------------------------------------------------------------------------------------------------------------------

/-- Whether a context takes the weight set of an image (R526). -/
def takesImage (p : Nat) (key : Word64) (kc : (Nat × Nat) × Ctx) : Bool :=
  kc.1.1 == p && (kc.2.img.sources.contains key || kc.2.imageKey == key)

section Weights

variable {s : State} {r : Reading} {key : Word64} {kc : (Nat × Nat) × Ctx}

/-- A weight set whose entries are all there goes whole into its context. -/
theorem restoreWeights_whole (ho : ∀ sh ∈ r.man.shards, sh.object = .image key) (hkc : s.ctxs.find? (takesImage r.part key) = some kc)
    (hall : ∀ i, i < kc.2.img.weights.length → ∃ sh ∈ r.man.shards, sh.first = i) (hgood : ∀ sh ∈ r.man.shards, s.shardBad r sh = 0) :
    s.restoreWeights r key = (⟨0, BitVec.ofNat 64 kc.1.2, .ok⟩, State.bondOnce ({ s.bump Fld.CKP_DIGEST_FAILS_COUNT r.part 0 with
      ram := s.ram.set kc.1 (writeWeights kc.2.img.weights ((s.ram.get? kc.1).getD []) r.man.shards),
      ctxs := s.ctxs.modify (r.part, kc.1.2) (fun x => { x with blocks := List.range kc.2.img.weights.length }) } : State) r.part) := by
  have hcov : (List.range kc.2.img.weights.length).any (fun i => !(r.man.shards.any (fun sh => sh.first == i))) = false := by
    rw [List.any_eq_false]
    intro i hi
    obtain ⟨sh, hm, hf⟩ := hall i (List.mem_range.1 hi)
    have : r.man.shards.any (fun sh => sh.first == i) = true := List.any_eq_true.2 ⟨sh, hm, by simpa using hf⟩
    rw [this]; exact Bool.false_ne_true
  have hkc' : s.ctxs.find? (fun kc => kc.1.1 == r.part && (kc.2.img.sources.contains key || kc.2.imageKey == key)) = some kc := hkc
  unfold State.restoreWeights
  simp only [shardsOf_all ho, hkc', hcov, readObj_sound hgood]
  rfl

/-- A weight set that lacks a block, or of which a shard does not check, does not go into its context. -/
theorem restoreWeights_fails {reason i : Nat} (ho : ∀ sh ∈ r.man.shards, sh.object = .image key) (hkc : s.ctxs.find? (takesImage r.part key) = some kc)
    (h : (∃ k, k < kc.2.img.weights.length ∧ ∀ sh ∈ r.man.shards, sh.first ≠ k) ∧ reason = 4 ∧ i = 0 ∨
      (∀ k, k < kc.2.img.weights.length → ∃ sh ∈ r.man.shards, sh.first = k) ∧
        ∃ l sh l', r.man.shards = l ++ sh :: l' ∧ (∀ x ∈ l, s.shardBad r x = 0) ∧ s.shardBad r sh = reason ∧ reason ≠ 0 ∧ i = r.indexOf sh) :
    reason ≠ 0 ∧ ∃ rg, s.restoreWeights r key = (RestoreRes.fail reason i, { s with regs := rg }) := by
  have hkc' : s.ctxs.find? (fun kc => kc.1.1 == r.part && (kc.2.img.sources.contains key || kc.2.imageKey == key)) = some kc := hkc
  have hany : ∀ i, r.man.shards.any (fun sh => sh.first == i) = true ↔ ∃ sh ∈ r.man.shards, sh.first = i := by
    intro i
    simp [List.any_eq_true]
  unfold State.restoreWeights
  simp only [shardsOf_all ho, hkc']
  rcases h with ⟨⟨k, hk, hno⟩, rfl, rfl⟩ | ⟨hall, l, sh, l', hsh, hl, hb, h0, rfl⟩
  · refine ⟨by decide, s.regs, ?_⟩
    rw [if_pos]
    refine List.any_eq_true.2 ⟨k, List.mem_range.2 hk, ?_⟩
    rw [Bool.not_eq_true', ← Bool.not_eq_true, hany]
    rintro ⟨sh, hm, hf⟩
    exact hno sh hm hf
  · obtain ⟨n, hr⟩ := readObj_bad (y := l') (by rw [hb]; exact h0) hl
    refine ⟨h0, (s.bump Fld.CKP_DIGEST_FAILS_COUNT r.part n).regs, ?_⟩
    rw [if_neg, hsh, hr, hb]
    · rfl
    · rw [List.any_eq_true]
      rintro ⟨k, hk, hn⟩
      rw [(hany k).2 (hall k (List.mem_range.1 hk))] at hn
      cases hn

end Weights

theorem firstBad_shards_io {s t : State} (h : s.Io t) (r : Reading) {l : List Shard} (hl : ∀ sh ∈ l, s.shardBad r sh = 0) :
    ∀ sh ∈ l, t.shardBad r sh = 0 := fun sh hm => (shardBad_io h r sh).trans (hl sh hm)

section WeightSet

variable {s : State} {u : Sub} {a : CkpRestoreAsk} {p : Nat} {m : Manifest} {key : Word64} {kc : (Nat × Nat) × Ctx}

/-- CKP_RESTORE of a whole weight set. -/
theorem ckpRestore_weights (hc : s.Calm) (ht : s.Takes u (.ckpRestore a)) (hp : s.subPart u = p) (hm : s.restoreMan p a = .ok m)
    (hk : s.ckpKey p = true) (hs : m.sessions = []) (hx : m.prefixes = []) (hne : m.shards ≠ []) (ho : ∀ sh ∈ m.shards, sh.object = .image key)
    (hkc : s.ctxs.find? (takesImage p key) = some kc) (hall : ∀ i, i < kc.2.img.weights.length → ∃ sh ∈ m.shards, sh.first = i)
    (hgood : ∀ sh ∈ m.shards, s.shardBad ⟨a, p, m⟩ sh = 0) :
    ∃ t, exec (.ckpRestore u a) s = .next t ∧ s.Posts t u .ok 1 0 ∧
      s.Writes t (.data u.fn (.restored [⟨0, BitVec.ofNat 64 kc.1.2, .ok⟩])) ∧
      t.ram = s.ram.set kc.1 (writeWeights kc.2.img.weights ((s.ram.get? kc.1).getD []) m.shards) ∧
      t.ctxs = s.ctxs.modify (p, kc.1.2) (fun x => { x with blocks := List.range kc.2.img.weights.length }) ∧
      s.Io { t with ram := s.ram, ctxs := s.ctxs, regs := s.regs, nextSeq := s.nextSeq } := by
  obtain ⟨w, t, hex, hpost, ⟨s', n, rg, pm, b, l, hs', rfl⟩, hio⟩ := host_done (st := .ok) (r := 1) (n := 0)
    (P := fun w => ∃ s' n rg pm b l, s.Io s' ∧ w = { s' with
      nextSeq := n, regs := rg, pmc := pm, bounce := b, out := .data u.fn (.restored [⟨0, BitVec.ofNat 64 kc.1.2, .ok⟩]) :: (l ++ s'.out),
      ram := s'.ram.set kc.1 (writeWeights kc.2.img.weights ((s'.ram.get? kc.1).getD []) m.shards),
      ctxs := s'.ctxs.modify (p, kc.1.2) (fun x => { x with blocks := List.range kc.2.img.weights.length }) }) ht rfl rfl (fun s' _ hs' => by
    have hkc' : s'.ctxs.find? (takesImage p key) = some kc := by obtain ⟨_, _, _, _, _, _, rfl⟩ := hs'; exact hkc
    obtain ⟨v, hv⟩ : ∃ v : State, v = { s'.bump Fld.CKP_DIGEST_FAILS_COUNT p 0 with
      ram := s'.ram.set kc.1 (writeWeights kc.2.img.weights ((s'.ram.get? kc.1).getD []) m.shards),
      ctxs := s'.ctxs.modify (p, kc.1.2) (fun x => { x with blocks := List.range kc.2.img.weights.length }) } := ⟨_, rfl⟩
    have hw := restoreWeights_whole (r := ⟨a, p, m⟩) ho hkc' hall (firstBad_shards_io hs' _ hgood)
    rw [← hv] at hw
    obtain ⟨n, rg, pm, l, hb⟩ := bnd_bondOnce v p
    obtain ⟨b, hbuf⟩ := buf_frame (v.bondOnce p) u.fn (.restored [⟨0, BitVec.ofNat 64 kc.1.2, .ok⟩])
    refine ⟨(v.bondOnce p).buf u.fn (.restored [⟨0, BitVec.ofNat 64 kc.1.2, .ok⟩]), ?_, ?_, ?_, ?_, ?_, s', n, rg, pm, b, l, hs', ?_⟩
    · show doCkpRestore u a s' = _
      rw [doCkpRestore_weights ((subPart_io hs' u).trans hp) (by rw [restoreMan_io hs', hm]) (by rw [ckpKey_io hs', hk]) hs hx hne ho, hw]
      rfl
    · rw [hbuf, hb, hv]
      rfl
    · rw [hbuf, hb, hv]
      rfl
    · rw [hbuf, hb, hv]
      exact ⟨_ :: l, rfl⟩
    · rw [hbuf, hb, hv]
      exact (hc.io hs').of_eq rfl rfl rfl rfl rfl rfl rfl rfl
    · rw [hbuf, hb, hv]
      rfl)
  obtain ⟨l0, m0, a0, b0, d0, e0, rfl⟩ := hs'
  obtain ⟨l1, m1, a1, b1, d1, e1, rfl⟩ := hio
  refine ⟨_, hex, hpost, ⟨l1 ++ .data u.fn (.restored [⟨0, BitVec.ofNat 64 kc.1.2, .ok⟩]) :: (l ++ l0), ?_, by simp⟩, rfl, rfl,
    l1 ++ .data u.fn (.restored [⟨0, BitVec.ofNat 64 kc.1.2, .ok⟩]) :: (l ++ l0), m1, a1, b1, d1, e1, ?_⟩
  · simp only [List.append_assoc, List.cons_append]
    rfl
  · simp only [List.append_assoc, List.cons_append]
    rfl

/-- CKP_RESTORE of a weight set that lacks a block or holds a shard that does not check. -/
theorem ckpRestore_weights_fails {reason i : Nat} (hc : s.Calm) (ht : s.Takes u (.ckpRestore a)) (hp : s.subPart u = p)
    (hm : s.restoreMan p a = .ok m) (hk : s.ckpKey p = true) (hs : m.sessions = []) (hx : m.prefixes = []) (hne : m.shards ≠ [])
    (ho : ∀ sh ∈ m.shards, sh.object = .image key) (hkc : s.ctxs.find? (takesImage p key) = some kc)
    (h : (∃ k, k < kc.2.img.weights.length ∧ ∀ sh ∈ m.shards, sh.first ≠ k) ∧ reason = 4 ∧ i = 0 ∨
      (∀ k, k < kc.2.img.weights.length → ∃ sh ∈ m.shards, sh.first = k) ∧
        ∃ l sh l', m.shards = l ++ sh :: l' ∧ (∀ x ∈ l, s.shardBad ⟨a, p, m⟩ x = 0) ∧ s.shardBad ⟨a, p, m⟩ sh = reason ∧ reason ≠ 0 ∧
          i = Reading.indexOf ⟨a, p, m⟩ sh) :
    ∃ t, exec (.ckpRestore u a) s = .next t ∧ s.Posts t u .stateLostCkpCoverage (2 ^ 32) 0 ∧
      s.Writes t (.data u.fn (.restored [⟨reason, BitVec.ofNat 64 i, 0⟩])) ∧ s.Io { t with regs := s.regs } := by
  obtain ⟨w, t, hex, hpost, ⟨s', rg, b, hs', rfl⟩, hio⟩ := host_done (st := .stateLostCkpCoverage) (r := 2 ^ 32) (n := 0)
    (P := fun w => ∃ s' rg b, s.Io s' ∧ w = { s' with
      regs := rg, bounce := b, out := .data u.fn (.restored [⟨reason, BitVec.ofNat 64 i, 0⟩]) :: s'.out }) ht rfl rfl (fun s' _ hs' => by
    have hkc' : s'.ctxs.find? (takesImage p key) = some kc := by obtain ⟨_, _, _, _, _, _, rfl⟩ := hs'; exact hkc
    have h' := h
    simp only [← shardBad_io hs'] at h'
    obtain ⟨h0, rg, hw⟩ := restoreWeights_fails (r := ⟨a, p, m⟩) ho hkc' h'
    obtain ⟨b, hbuf⟩ := buf_frame ({ s' with regs := rg } : State) u.fn (.restored [⟨reason, BitVec.ofNat 64 i, 0⟩])
    refine ⟨({ s' with regs := rg } : State).buf u.fn (.restored [⟨reason, BitVec.ofNat 64 i, 0⟩]), ?_, ?_, ?_, ?_, ?_, s', rg, b, hs', ?_⟩
    · show doCkpRestore u a s' = _
      rw [doCkpRestore_weights ((subPart_io hs' u).trans hp) (by rw [restoreMan_io hs', hm]) (by rw [ckpKey_io hs', hk]) hs hx hne ho, hw]
      unfold State.restoredOne
      simp only [RestoreRes.fail, h0, if_false]
    · rw [hbuf]
    · rw [hbuf]
    · rw [hbuf]
      exact ⟨[_], rfl⟩
    · rw [hbuf]
      exact (hc.io hs').of_eq rfl rfl rfl rfl rfl rfl rfl rfl
    · rw [hbuf])
  obtain ⟨l0, m0, a0, b0, d0, e0, rfl⟩ := hs'
  obtain ⟨l1, m1, a1, b1, d1, e1, rfl⟩ := hio
  refine ⟨_, hex, hpost, ⟨l1 ++ .data u.fn (.restored [⟨reason, BitVec.ofNat 64 i, 0⟩]) :: l0, ?_, by simp⟩,
    l1 ++ .data u.fn (.restored [⟨reason, BitVec.ofNat 64 i, 0⟩]) :: l0, m1, a1, b1, d1, e1, ?_⟩
  · simp only [List.append_assoc, List.cons_append]
    rfl
  · simp only [List.append_assoc, List.cons_append]
    rfl

end WeightSet

end Sys2Proof.Machine
end

section
/-!
PROOFS. A session that is restored into a new slot, and the obligation on restores (R524, R525, O54).
-/

namespace Sys2Proof.Machine

open Sys2Proof

-- Building a restored session (R525) -----------------------------------------------------------------------------------------------------

section Io

variable (l : List Out) (m : AMap Reg Word64) (a : AMap (Nat × Nat) Sq) (b : AMap (Nat × Nat) Cq) (d : AMap Nat Bounce) (e : List Owner)

theorem putTile_frame_io (s : State) (n : Nat) (t : Tile) :
    (s.io l m a b d e).putTile (.frame n) t = (s.putTile (.frame n) t).io l m a b d e := by
  show (((({ s with tiles := s.tiles.set (.frame n) t } : State).io l m a b d e).setPoison (.frame n) []).wakeTile n) = _
  rw [setPoison_io, wakeTile_io]
  rfl

theorem placeTiles_io (p : Nat) (f : Frame) (ts : List (Nat × Tile)) : ∀ (s : State) (mm : AMap Nat MEntry),
    (s.io l m a b d e).placeTiles p f ts mm = (s.placeTiles p f ts mm).map (fun x => (x.1, x.2.io l m a b d e)) := by
  induction ts with
  | nil => exact fun _ _ => rfl
  | cons kt ts ih =>
    intro s mm
    unfold State.placeTiles
    rw [allocTile_io]
    cases s.allocTile p f with
    | none => rfl
    | some x =>
      dsimp only [Option.map]
      rw [putTile_frame_io]
      exact ih _ _

theorem buildRestored_io (s : State) (p k : Nat) (c : CtxImage) (mt : SesMeta) (sh : List Shard) :
    (s.io l m a b d e).buildRestored p k c mt none sh = (s.buildRestored p k c mt none sh).map (fun x => x.io l m a b d e) := by
  have hses : (s.io l m a b d e).ses k = s.ses k := rfl
  unfold State.buildRestored
  dsimp only
  rw [hses, allocMor_io]
  cases s.allocMor p ⟨p, .priv, 0, k, []⟩ with
  | none => rfl
  | some x1 =>
    obtain ⟨root, s1⟩ := x1
    dsimp only [Option.map]
    rw [growMortar_io]
    cases s1.growMortar p k (Mortar.empty root) _ with
    | none => rfl
    | some x2 =>
      obtain ⟨mor, s2⟩ := x2
      dsimp only [Option.map, State.takeEntries]
      rw [placeTiles_io]
      cases s2.placeTiles p ⟨p, .priv, 0, k, []⟩ _ _ with
      | none => rfl
      | some x4 =>
        obtain ⟨all, s4⟩ := x4
        dsimp only [Option.map]
        rw [allocMors_io]
        cases s4.allocMors p ⟨p, .priv, 0, k, []⟩ _ with
        | none => rfl
        | some x5 => rfl

end Io

/-- What placing a restored session's frames changes. -/
def State.Places (s t : State) : Prop :=
  ∃ mf tf tl sr rg fc, t = { s with mortarFrames := mf, tileFrames := tf, tiles := tl, selfRefresh := sr, regs := rg, freeCtr := fc }

theorem State.Places.refl (s : State) : s.Places s := ⟨_, _, _, _, _, _, rfl⟩

theorem State.Places.trans {s t u : State} (h : s.Places t) (g : t.Places u) : s.Places u := by
  obtain ⟨_, _, _, _, _, _, rfl⟩ := h
  obtain ⟨_, _, _, _, _, _, rfl⟩ := g
  exact ⟨_, _, _, _, _, _, rfl⟩

theorem State.Mors.places {s t : State} (h : s.Mors t) : s.Places t := by
  obtain ⟨_, _, _, rfl⟩ := h
  exact ⟨_, _, _, _, _, _, rfl⟩

theorem places_putTile (s : State) (n : Nat) (t : Tile) : s.Places (s.putTile (.frame n) t) := by
  obtain ⟨r, hr⟩ := wakeTile_frame (State.setPoison { s with tiles := s.tiles.set (.frame n) t } (.frame n) []) n
  have : s.putTile (.frame n) t = (State.setPoison { s with tiles := s.tiles.set (.frame n) t } (.frame n) []).wakeTile n := rfl
  rw [this, hr]
  exact ⟨_, _, _, _, _, _, rfl⟩

theorem places_placeTiles {p : Nat} {f : Frame} : ∀ (ts : List (Nat × Tile)) {s t : State} {mm es : AMap Nat MEntry},
    s.placeTiles p f ts mm = some (es, t) → s.Places t
  | [], s, t, mm, es, h => by cases h; exact .refl s
  | kt :: ts, s, t, mm, es, h => by
    unfold State.placeTiles at h
    split at h
    · cases h
    · next n s1 h1 =>
      obtain ⟨a, b, r, e1⟩ := allocTile_exact h1
      have h2 : s.Places s1 := by rw [e1]; exact ⟨_, _, _, _, _, _, rfl⟩
      exact (h2.trans (places_putTile s1 n kt.2)).trans (places_placeTiles ts h)

/-- A restored session: WAITING, with the fields of its meta (R525). -/
def SesMeta.session (mt : SesMeta) (gen p : Nat) (mor : Mortar) (lf : List Nat) (g : Option GramState) : Session :=
  { Session.free with
    gen := gen, state := .waiting, part := p, mortar := mor, pfx := 0xFFFF, pfxTiles := mt.pfxTiles, nextPos := mt.nextPos, log := mt.log,
    logFrames := lf, reqCount := mt.reqCount, grammar := g, main := mt.main, fallback := mt.fallback, hints := mt.hints, hostData := mt.hostData,
    dressed := mt.dressed, pfxSeq := 0 }

theorem buildRestored_some {s v : State} {p k : Nat} {c : CtxImage} {mt : SesMeta} {sh : List Shard}
    (h : s.buildRestored p k c mt none sh = some v) :
    ∃ t mor lf g, s.Places t ∧ v = t.setSes k (mt.session (s.ses k).gen p mor lf g) := by
  unfold State.buildRestored at h
  dsimp only at h
  split at h
  · cases h
  · next root s1 h1 =>
    split at h
    · cases h
    · next mor s2 h2 =>
      rw [State.takeEntries] at h
      dsimp only at h
      split at h
      · cases h
      · next all s4 h4 =>
        split at h
        · cases h
        · next fs s5 h5 =>
          cases h
          exact ⟨s5, _, _, _, (((mors_allocMor h1).trans (mors_growMortar h2)).places.trans (places_placeTiles _ h4)).trans
            (mors_allocMors _ h5).places, rfl⟩

-- The persist that follows (R524) --------------------------------------------------------------------------------------------------------------

/-- Aborting a quarry bond drops staged frames: no frame of LPDDR6 is touched. -/
theorem abortQuarry_frame (s : State) (p id : Nat) : ∃ q tl bs rg, s.abortQuarry p id = { s with qry := q, tiles := tl, bonds := bs, regs := rg } ∧
    ∀ f, tl.get? (.frame f) = s.tiles.get? (.frame f) := by
  obtain ⟨v, hv⟩ : ∃ v, v = ((s.qry.staged.filter (fun kv => kv.2.owner == p && kv.2.bond == id)).map (·.1)).foldl
      (fun (a : State) f => a.qUnstage f) s := ⟨_, rfl⟩
  obtain ⟨⟨q, tl, h⟩, hf⟩ : (∃ q tl, v = { s with qry := q, tiles := tl }) ∧ ∀ f, v.tiles.get? (.frame f) = s.tiles.get? (.frame f) := by
    rw [hv]
    refine foldl_keeps (fun s v : State => (∃ q tl, v = { s with qry := q, tiles := tl }) ∧ ∀ f, v.tiles.get? (.frame f) = s.tiles.get? (.frame f))
      (fun s => ⟨⟨_, _, rfl⟩, fun _ => rfl⟩) ?_ _ (fun s f => ⟨⟨_, _, rfl⟩, fun g => AMap.get?_erase_other _ ?_⟩) _ s
    · rintro s t u ⟨⟨_, _, rfl⟩, h1⟩ ⟨⟨_, _, rfl⟩, h2⟩
      exact ⟨⟨_, _, rfl⟩, fun f => (h2 f).trans (h1 f)⟩
    · exact fun h => TileLoc.noConfusion h
  have he : s.abortQuarry p id = v.abortBond p id := by rw [hv]; rfl
  refine ⟨q, tl, (v.abortBond p id).bonds, (v.abortBond p id).regs, ?_, fun f => ?_⟩
  · rw [he, h]
    rfl
  · rw [← hf f, h]

/-- A persist changes no frame of LPDDR6, and of the session only the count of tokens since its last persist. -/
theorem persist_frame {s : State} {k : Nat} {x : Session} (hx : s.ses k = x) :
    ∃ q tl bs rg nb fc, s.persist k = { s with
      sessions := s.sessions.set k { x with sincePersist := 0 }, qry := q, tiles := tl, bonds := bs, regs := rg, nextSeq := nb, freeCtr := fc } ∧
      ∀ f, tl.get? (.frame f) = s.tiles.get? (.frame f) := by
  unfold State.persist
  dsimp only
  rw [hx, modSes_eq hx]
  split
  · exact ⟨_, _, _, _, _, _, rfl, fun _ => rfl⟩
  split
  · exact ⟨_, _, _, _, _, _, rfl, fun _ => rfl⟩
  obtain ⟨b, nb, rg, ho, -⟩ := openBond_spec ({ s with sessions := s.sessions.set k { x with sincePersist := 0 } } : State) x.part .persist k none true
    x.log.length
  rw [ho]
  dsimp only
  split
  · obtain ⟨q, tl, bs, rg', ha, hf⟩ := abortQuarry_frame ({ s with
      sessions := s.sessions.set k { x with sincePersist := 0 }, nextSeq := nb, regs := rg, bonds := s.bonds ++ [b] } : State) x.part
      (State.nextBond { s with sessions := s.sessions.set k { x with sincePersist := 0 } } x.part)
    exact ⟨q, tl, bs, rg', nb, s.freeCtr, ha, hf⟩
  · next fs v hst =>
    obtain ⟨-, st, fc, hv⟩ := qStages_spec _ hst
    rw [hv]
    exact ⟨_, _, _, _, _, _, rfl, fun _ => rfl⟩

-- A restore of one session (R520 order 5, R524) ---------------------------------------------------------------------------------------------

theorem fld_digestFails (s : State) (p n i : Nat) {g : Field} (hg : g.hi < 64) (hc : g.cls ≠ .ckpDigestFails) :
    (s.bump Fld.CKP_DIGEST_FAILS_COUNT p n).fld g i = s.fld g i :=
  fld_setFld_other s _ _ _ _ _ _ _ (by decide) hg (.inl fun h => hc (congrArg Reg.cls h))

theorem newSlot_digestFails (s : State) (p n q : Nat) : (s.bump Fld.CKP_DIGEST_FAILS_COUNT p n).newSlot q = s.newSlot q := by
  have hb : (s.bump Fld.CKP_DIGEST_FAILS_COUNT p n).slotBase q = s.slotBase q := by
    unfold State.slotBase
    rw [fld_digestFails s p n q (by decide) (by decide)]
  have hc : (s.bump Fld.CKP_DIGEST_FAILS_COUNT p n).slotCount q = s.slotCount q := by
    unfold State.slotCount
    rw [fld_digestFails s p n q (by decide) (by decide)]
  unfold State.newSlot State.inRange
  rw [hb, hc]
  rfl

theorem newSlot_io {s t : State} (h : s.Io t) (p : Nat) : t.newSlot p = s.newSlot p := by
  obtain ⟨_, _, _, _, _, _, rfl⟩ := h
  rfl

/-- The meta that a shard holds, if it is a session's. -/
def Shard.sesMeta? (sh : Shard) : Option SesMeta :=
  match sh.body with
  | .ses x => some x
  | _ => none

section Whole

variable {s v : State} {r : Reading} {e : ManSes} {mt : SesMeta} {c : Ctx} {k : Nat}

/-- A session whose shards are all there and check goes into a new slot, and a persist of its log follows. -/
theorem restoreSes_whole (ho : ∀ sh ∈ r.man.shards, sh.object = .session e.handle) (hmt : r.man.shards.findSome? Shard.sesMeta? = some mt)
    (hpfx : mt.pfxLog = none) (hctx : s.ctx r.part mt.main = some c) (hmain : s.mainCtx r.part mt.main = true)
    (hcov : coverage c.img mt r.man.shards = 0) (hgood : ∀ sh ∈ r.man.shards, s.shardBad r sh = 0)
    (hgeom : ∀ sh ∈ r.man.shards, sh.kind = 1 → sh.geom = some c.img.geom) (hslot : s.newSlot r.part = some k)
    (hb : State.buildRestored { s.bump Fld.CKP_DIGEST_FAILS_COUNT r.part 0 with freeCtr := s.freeCtr + 1 } r.part k c.img mt none r.man.shards = some v) :
    s.restoreSes r false [] e =
      (⟨0, ((v.bondOnce r.part).touch k).handleOf k, .ok⟩, ((v.bondOnce r.part).touch k).persist k) := by
  have hany : r.man.shards.any (fun sh => sh.kind == 1 && sh.geom != some c.img.geom) = false := by
    rw [List.any_eq_false]
    intro sh hm
    by_cases hk : sh.kind = 1
    · simp [hk, hgeom sh hm hk]
    · simp [hk]
  have hres : (s.bump Fld.CKP_DIGEST_FAILS_COUNT r.part 0).restoreSlot r.part false e.handle =
      some (k, { s.bump Fld.CKP_DIGEST_FAILS_COUNT r.part 0 with freeCtr := s.freeCtr + 1 }) := by
    unfold State.restoreSlot
    simp only [Bool.false_and, Bool.false_eq_true, if_false, newSlot_digestFails, hslot]
    rfl
  unfold State.restoreSes
  dsimp only
  rw [shardsOf_all ho]
  generalize hx : List.findSome? _ r.man.shards = x
  have hx' : x = some mt := hx.symm.trans hmt
  subst hx'
  simp only [hctx, hpfx, hmain, hcov, readObj_sound hgood, hany, hres, hb]
  rfl

end Whole

/-- A restore of one session alone. -/
theorem doCkpRestore_session {s : State} {u : Sub} {a : CkpRestoreAsk} {p : Nat} {m : Manifest} {e : ManSes} (hp : s.subPart u = p)
    (hm : s.restoreMan p a = .ok m) (hk : s.ckpKey p = true) (hs : m.sessions = [e]) (hx : m.prefixes = [])
    (ho : ∀ sh ∈ m.shards, sh.object = .session e.handle) :
    doCkpRestore u a s = (s.restoreSes ⟨a, p, m⟩ u.flags.inPlace [] e).2.restoredOne u (s.restoreSes ⟨a, p, m⟩ u.flags.inPlace [] e).1 := by
  unfold doCkpRestore
  simp only [hp, hm, hk, hs, hx, State.restorePfxs, State.restoreSess]
  rw [filterMap_none (fun sh hm => by simp only [ho sh hm]), filterMap_none (fun sh hm => by simp only [ho sh hm])]
  exact restored_one _ u _

/-- What the restore of a session into slot `k` changes: the session there is `y`. -/
def State.Restored (s w : State) (k : Nat) (y : Session) : Prop :=
  ∃ tl tf mf q sr bs rg nb fc g b pm l, w = { s with
    sessions := s.sessions.set k y, tiles := tl, tileFrames := tf, mortarFrames := mf, qry := q, selfRefresh := sr, bonds := bs, regs := rg,
    nextSeq := nb, freeCtr := fc, aon := g, bounce := b, pmc := pm, out := l ++ s.out }

/-- The device after a restored session is in its slot: its bond, its last use and its persist. -/
theorem restored_frame {s v : State} {p k : Nat} {c : CtxImage} {mt : SesMeta} {sh : List Shard}
    (hb : State.buildRestored { s.bump Fld.CKP_DIGEST_FAILS_COUNT p 0 with freeCtr := s.freeCtr + 1 } p k c mt none sh = some v) :
    ((v.bondOnce p).touch k).handleOf k = mkHandle p k (s.ses k).gen ∧
      ∃ mor lf g use, v.ses k = mt.session (s.ses k).gen p mor lf g ∧
        s.Restored (((v.bondOnce p).touch k).persist k) k { mt.session (s.ses k).gen p mor lf g with lastUse := use, sincePersist := 0 } ∧
        ∀ f, (((v.bondOnce p).touch k).persist k).tiles.get? (.frame f) = v.tiles.get? (.frame f) := by
  obtain ⟨t, mor, lf, g, ⟨mf, tf, tl, sr, rg, fc, ht⟩, hv⟩ := buildRestored_some hb
  obtain ⟨x, hx⟩ : ∃ x, x = mt.session (s.ses k).gen p mor lf g := ⟨_, rfl⟩
  have hv' : v = t.setSes k x := by rw [hx]; exact hv
  have hvk : v.ses k = x := by rw [hv']; exact (ses_set (s := t) rfl).1
  obtain ⟨nb, rg1, pm, lo, hbo⟩ := bnd_bondOnce v p
  have hbk : (v.bondOnce p).ses k = x := by rw [hbo]; exact hvk
  obtain ⟨use, fc1, htouch⟩ := setSes_set_touch (v.bondOnce p) k x hbk
  have htk : ((v.bondOnce p).touch k).ses k = { x with lastUse := use } := by
    rw [htouch]
    exact (ses_set (s := v.bondOnce p) rfl).1
  obtain ⟨q, tl2, bs, rg2, nb2, fc2, hper, hframe⟩ := persist_frame htk
  have hpart : x.part = p := by rw [hx]; rfl
  have hgen : x.gen = (s.ses k).gen := by rw [hx]; rfl
  refine ⟨?_, mor, lf, g, use, by rw [hvk, hx], ?_, fun f => ?_⟩
  · unfold State.handleOf
    rw [htk]
    show mkHandle x.part k x.gen = _
    rw [hpart, hgen]
  · rw [← hx]
    have he : (v.bondOnce p).touch k = { t with
        aon := use, freeCtr := fc1, nextSeq := nb, regs := rg1, pmc := pm, out := lo ++ t.out, sessions := t.sessions.set k { x with lastUse := use } } := by
      rw [htouch, hbo, hv']
      simp only [State.setSes, AMap.set_set]
    rw [hper, he, ht]
    refine ⟨tl2, tf, mf, q, sr, bs, rg2, nb2, fc2, use, s.bounce, pm, lo, ?_⟩
    simp only [AMap.set_set]
    rfl
  · have he : ((v.bondOnce p).touch k).tiles = v.tiles := by rw [htouch, hbo]
    rw [hper, ← he]
    exact hframe f

/-- CKP_RESTORE of one session into a new slot. -/
theorem ckpRestore_session {s v : State} {u : Sub} {a : CkpRestoreAsk} {p k : Nat} {m : Manifest} {e : ManSes} {mt : SesMeta} {c : Ctx}
    (hc : s.Calm) (ht : s.Takes u (.ckpRestore a)) (hp : s.subPart u = p) (hm : s.restoreMan p a = .ok m) (hk : s.ckpKey p = true)
    (hs : m.sessions = [e]) (hx : m.prefixes = []) (ho : ∀ sh ∈ m.shards, sh.object = .session e.handle)
    (hmt : m.shards.findSome? Shard.sesMeta? = some mt) (hpfx : mt.pfxLog = none) (hctx : s.ctx p mt.main = some c)
    (hmain : s.mainCtx p mt.main = true) (hcov : coverage c.img mt m.shards = 0) (hgood : ∀ sh ∈ m.shards, s.shardBad ⟨a, p, m⟩ sh = 0)
    (hgeom : ∀ sh ∈ m.shards, sh.kind = 1 → sh.geom = some c.img.geom) (hin : u.flags.inPlace = false) (hslot : s.newSlot p = some k)
    (hb : State.buildRestored { s.bump Fld.CKP_DIGEST_FAILS_COUNT p 0 with freeCtr := s.freeCtr + 1 } p k c.img mt none m.shards = some v) :
    ∃ t mor lf g use, exec (.ckpRestore u a) s = .next t ∧ s.Posts t u .ok 1 0 ∧
      s.Writes t (.data u.fn (.restored [⟨0, mkHandle p k (s.ses k).gen, .ok⟩])) ∧
      v.ses k = mt.session (s.ses k).gen p mor lf g ∧
      t.ses k = { mt.session (s.ses k).gen p mor lf g with lastUse := use, sincePersist := 0 } ∧
      (∀ f, t.tiles.get? (.frame f) = v.tiles.get? (.frame f)) ∧ (∀ j, j ≠ k → t.ses j = s.ses j) ∧
      s.Io { t with sessions := s.sessions, tiles := s.tiles, tileFrames := s.tileFrames, mortarFrames := s.mortarFrames, qry := s.qry,
                    selfRefresh := s.selfRefresh, bonds := s.bonds, regs := s.regs, nextSeq := s.nextSeq, freeCtr := s.freeCtr, aon := s.aon } := by
  obtain ⟨w, t, hex, hpost, ⟨s', mor, lf, g, use, hs', hvk, hw, hdata, hframe⟩, hio⟩ := host_done (st := .ok) (r := 1) (n := 0)
    (P := fun w => ∃ s' mor lf g use, s.Io s' ∧ v.ses k = mt.session (s.ses k).gen p mor lf g ∧
      s'.Restored w k { mt.session (s.ses k).gen p mor lf g with lastUse := use, sincePersist := 0 } ∧
      s'.Writes w (.data u.fn (.restored [⟨0, mkHandle p k (s.ses k).gen, .ok⟩])) ∧
      ∀ f, w.tiles.get? (.frame f) = v.tiles.get? (.frame f)) ht rfl rfl (fun s' _ hs' => by
    have hs'' := hs'
    obtain ⟨l0, m0, a0, b0, d0, e0, h0⟩ := hs'
    have hb' : State.buildRestored { s'.bump Fld.CKP_DIGEST_FAILS_COUNT p 0 with freeCtr := s'.freeCtr + 1 } p k c.img mt none m.shards =
        some (v.io (l0 ++ s.out) m0 a0 b0 d0 e0) := by
      have := buildRestored_io (l0 ++ s.out) m0 a0 b0 d0 e0 { s.bump Fld.CKP_DIGEST_FAILS_COUNT p 0 with freeCtr := s.freeCtr + 1 } p k c.img mt m.shards
      rw [hb] at this
      rw [h0]
      exact this
    have hsk : s'.ses k = s.ses k := by rw [h0]; rfl
    have hres := restoreSes_whole (s := s') (r := ⟨a, p, m⟩) (e := e) ho hmt hpfx (by rw [h0]; exact hctx) (by rw [h0]; exact hmain) hcov
      (firstBad_shards_io hs'' _ hgood) hgeom (by rw [newSlot_io hs'', hslot]) hb'
    obtain ⟨hh, mor, lf, g, use, hvk, hfr, hframe⟩ := restored_frame hb'
    rw [hsk] at hh hvk hfr
    rw [show Reading.part ⟨a, p, m⟩ = p from rfl, hh] at hres
    obtain ⟨y, hy⟩ : ∃ y, y = (((v.io (l0 ++ s.out) m0 a0 b0 d0 e0).bondOnce p).touch k).persist k := ⟨_, rfl⟩
    rw [← hy] at hres hfr hframe
    obtain ⟨b, hbuf⟩ := buf_frame y u.fn (.restored [⟨0, mkHandle p k (s.ses k).gen, .ok⟩])
    obtain ⟨tl, tf, mf, q, sr, bs, rg, nb, fc, g', b', pm, l, hfr⟩ := hfr
    refine ⟨y.buf u.fn (.restored [⟨0, mkHandle p k (s.ses k).gen, .ok⟩]), ?_, ?_, ?_, ?_, ?_, s', mor, lf, g, use, hs'', hvk, ?_, ?_, ?_⟩
    · show doCkpRestore u a s' = _
      rw [doCkpRestore_session ((subPart_io hs'' u).trans hp) (by rw [restoreMan_io hs'', hm]) (by rw [ckpKey_io hs'', hk]) hs hx ho, hin, hres]
      rfl
    · rw [hbuf, hfr]
    · rw [hbuf, hfr]
    · rw [hbuf, hfr]
      exact ⟨_ :: l, rfl⟩
    · rw [hbuf, hfr]
      exact calm_sessions (hc.io hs'') (x := { mt.session (s.ses k).gen p mor lf g with lastUse := use, sincePersist := 0 }) rfl rfl rfl rfl rfl rfl rfl rfl rfl
    · rw [hbuf, hfr]
      exact ⟨tl, tf, mf, q, sr, bs, rg, nb, fc, g', b, pm, _ :: l, rfl⟩
    · rw [hbuf, hfr]
      exact ⟨_ :: l, rfl, List.mem_cons_self ..⟩
    · rw [hbuf]
      exact hframe)
  have hwr := State.Writes.after hs'.out (hdata.mono hio.out)
  obtain ⟨tl, tf, mf, q, sr, bs, rg, nb, fc, g', b, pm, l, rfl⟩ := hw
  obtain ⟨l0, m0, a0, b0, d0, e0, rfl⟩ := hs'
  obtain ⟨l1, m1, a1, b1, d1, e1, rfl⟩ := hio
  obtain ⟨h1, h2⟩ := ses_set (s := s) (k := k) (x := { mt.session (s.ses k).gen p mor lf g with lastUse := use, sincePersist := 0 })
    (t := { s with sessions := s.sessions.set k { mt.session (s.ses k).gen p mor lf g with lastUse := use, sincePersist := 0 } }) rfl
  refine ⟨_, mor, lf, g, use, hex, hpost, hwr, hvk, h1, hframe, h2, l1 ++ (l ++ l0), m1, a1, b1, d1, e1, ?_⟩
  simp only [List.append_assoc]
  rfl

/-- Settles O54: the refusals in R520's order, weight sets whole or not at all, what makes a shard unusable, and a session in a new slot. -/
theorem restores : Obligations.Restores := by
  unfold Obligations.Restores
  intro s p u a hc ht hp
  refine ⟨fun st h => ?_, fun m key r kc hm hk hs hx hne ho hr hkc => ?_, fun m sh r hr => ?_, fun m e mt c r k v hm hk hs hx ho hr hmt hpfx hctx hmain hcov
    hgood hgeom hin hslot hb => ?_⟩
  · subst hp
    exact ckpRestore_refused hc ht h
  · subst hr
    exact ⟨fun hall hgood => ckpRestore_weights hc ht hp hm hk hs hx hne ho hkc hall hgood,
      fun reason i h => ckpRestore_weights_fails hc ht hp hm hk hs hx hne ho hkc h⟩
  · subst hr
    exact ⟨fun hh => shardBad_host s (r := ⟨a, p, m⟩) hh sh, fun hh h7 => shardBad_quarry (r := ⟨a, p, m⟩) hh h7⟩
  · subst hr
    obtain ⟨t, mor, lf, g, use, hex, hpost, hwr, hvk, htk, hframe, hothers, hio⟩ :=
      ckpRestore_session hc ht hp hm hk hs hx ho hmt hpfx hctx hmain hcov hgood hgeom hin hslot hb
    exact ⟨t, hex, hpost, hwr, congrArg Session.state htk, congrArg Session.part htk, (congrArg Session.gen htk).trans rfl, congrArg Session.nextPos htk,
      congrArg Session.log htk, congrArg Session.main htk, congrArg Session.fallback htk, congrArg Session.dressed htk, congrArg Session.hints htk,
      congrArg Session.hostData htk, congrArg Session.reqCount htk, (congrArg Session.mortar htk).trans (congrArg Session.mortar hvk).symm,
      hframe, hothers, hio⟩

end Sys2Proof.Machine
end
